-- ==== Sys2Proof/Machine/Tbl.lean ====
section
/-! DEFINITION. Sparse tables: what the module holds once per function, port, entry, slot or handle is a list of
(key, value) pairs with strictly rising keys, so that equal tables are equal data. A key that is not listed reads
as the table's default. -/

namespace Sys2Proof

/-- A sparse table: keys strictly rising. -/
abbrev Tbl (α : Type) := List (Nat × α)

/-- The value listed under `k`, if any. -/
def Tbl.find? {α : Type} (k : Nat) : Tbl α → Option α
  | [] => none
  | (j, v) :: t => if j = k then some v else Tbl.find? k t

/-- The value under `k`, or the table's default. -/
def Tbl.get {α : Type} (d : α) (t : Tbl α) (k : Nat) : α := (Tbl.find? k t).getD d

/-- Is anything listed under `k`? -/
def Tbl.has {α : Type} (t : Tbl α) (k : Nat) : Bool := (Tbl.find? k t).isSome

/-- List `v` under `k`, in key order. -/
def Tbl.put {α : Type} (k : Nat) (v : α) : Tbl α → Tbl α
  | [] => [(k, v)]
  | (j, w) :: t =>
    if k < j then (k, v) :: (j, w) :: t
    else if k = j then (k, v) :: t
    else (j, w) :: Tbl.put k v t

/-- Remove what is listed under `k`. -/
def Tbl.del {α : Type} (k : Nat) : Tbl α → Tbl α
  | [] => []
  | (j, w) :: t => if j = k then t else (j, w) :: Tbl.del k t

/-- Change the value under `k`, starting from the default where nothing is listed. -/
def Tbl.upd {α : Type} (d : α) (k : Nat) (f : α → α) (t : Tbl α) : Tbl α := Tbl.put k (f (Tbl.get d t k)) t

/-- Keep the rows that satisfy `p`. -/
def Tbl.keep {α : Type} (p : Nat → α → Bool) : Tbl α → Tbl α
  | [] => []
  | (j, w) :: t => if p j w then (j, w) :: Tbl.keep p t else Tbl.keep p t

/-- Change every row. -/
def Tbl.mapAll {α : Type} (f : Nat → α → α) : Tbl α → Tbl α
  | [] => []
  | (j, w) :: t => (j, f j w) :: Tbl.mapAll f t

/-- The keys of the rows that satisfy `p`, in rising order. -/
def Tbl.keys {α : Type} (p : Nat → α → Bool) : Tbl α → List Nat
  | [] => []
  | (j, w) :: t => if p j w then j :: Tbl.keys p t else Tbl.keys p t

/-- How many rows satisfy `p`. -/
def Tbl.count {α : Type} (p : Nat → α → Bool) : Tbl α → Nat
  | [] => 0
  | (j, w) :: t => (if p j w then 1 else 0) + Tbl.count p t

/-- Keys all above `b`, strictly rising. -/
def Tbl.risesFrom {α : Type} : Nat → Tbl α → Bool
  | _, [] => true
  | b, (j, _) :: t => decide (b ≤ j) && Tbl.risesFrom (j + 1) t

/-- The canonical form: keys strictly rising. -/
def Tbl.wf {α : Type} (t : Tbl α) : Bool := Tbl.risesFrom 0 t

end Sys2Proof
end

