-- ==== Sys2Proof/Word.lean ====
section
/-! DEFINITION. The word types of the NX-880's registers and fields, and the plainest operations on them:
single bits and bit ranges (R12: bit 0 is the least significant bit, a range includes both ends). -/

namespace Sys2Proof

/-- A 32-bit register value. -/
abbrev Word := BitVec 32

/-- A byte of a buffer or of the data port. -/
abbrev Byte := BitVec 8

/-- Bit `i` of a number. -/
abbrev bitOf (n i : Nat) : Bool := n.testBit i

/-- The field `[hi:lo]` of a number (R12). -/
abbrev fieldOf (n hi lo : Nat) : Nat := (n / 2 ^ lo) % 2 ^ (hi + 1 - lo)

/-- One as 1, none as 0. -/
abbrev b2n (b : Bool) : Nat := if b then 1 else 0

end Sys2Proof
end

