-- ==== Sys2Proof/Types.lean ====
section
/-! DEFINITION. The data that pass between the blocks of the module and between the module and its surroundings:
time states, stream entries and plan images, frames, archive records, ring entries and completions. Field names follow
the tables of the spec. Reserved fields are kept, since the checks of the spec judge them. -/

namespace Sys2Proof

abbrev Bytes := List Byte

/-! ### Grid time -/

/-- Table 02-1. -/
inductive TimeState where
  | unlocked | slewing | locked | holdover | expired
deriving DecidableEq, Repr

/-- Table 02-5. -/
inductive RefState where
  | absent | qualifying | qualified | selected | failed | disagreeing | disabled
deriving DecidableEq, Repr

/-- The tracking states of R77. -/
inductive AngleState where
  | tracking | coasting | lost
deriving DecidableEq, Repr

/-! ### Response levels and life cycle -/

/-- The tamper response levels in rising order (15, Table 15-1). -/
inductive Level where
  | record | restrict | quenchW | quenchR
deriving DecidableEq, Repr

/-- Life-cycle states of R19, in the code order of LCC_STATE. -/
inductive LifeState where
  | maker | integrator | fielded | returned | scrapped
deriving DecidableEq, Repr

/-! ### Frame plans (Tables 03-2 to 03-4) -/

/-- A stream entry of 128 bytes, field by field (Table 03-4). Byte strings are numbers whose most significant byte is
the first byte of the string. -/
structure Entry where
  kind : Nat := 0
  profile : Nat := 0
  action : Nat := 0
  ingress : Nat := 0
  ingressRes : Nat := 0
  flags : Nat := 0
  vid : Nat := 0
  tagged : Bool := false
  vlanRes : Nat := 0
  dstMac : Nat := 0
  matchId : Nat := 0
  dstIp : Nat := 0
  udpPort : Nat := 0
  res22 : Nat := 0
  spi : Nat := 0
  keyCur : Nat := 0
  keyNext : Nat := 0
  rollAt : Nat := 0
  predRule : Nat := 0
  lookahead : Nat := 0
  lookRes : Nat := 0
  slotRate : Nat := 0
  slotWindow : Nat := 0
  slotOffset : Nat := 0
  predMod : Nat := 0
  budget : Nat := 0
  egress : Nat := 0
  egressRes : Nat := 0
  vlanOp : Nat := 0
  pcp : Nat := 0
  vlanOpRes : Nat := 0
  failKey : Bool := false
  failTime : Bool := false
  late : Bool := false
  policyRes : Nat := 0
  egressVid : Nat := 0
  vidRes : Nat := 0
  archClass : Nat := 0
  tclass : Nat := 0
  tclassRes : Nat := 0
  capGroup : Nat := 0
  capRes : Nat := 0
  maxLen : Nat := 0
  rate : Nat := 0
  tag : Nat := 0
  res5C : Nat := 0
  nonceFixed : Nat := 0
  res6C : Nat := 0
  moduleUse : Nat := 0
deriving DecidableEq, Repr

/-- FLAGS bits of Table 03-9. -/
abbrev Entry.keyNextValid (e : Entry) : Bool := bitOf e.flags 0
abbrev Entry.matchSpi (e : Entry) : Bool := bitOf e.flags 1
abbrev Entry.archiveFailures (e : Entry) : Bool := bitOf e.flags 2

/-- A key list record (R94). -/
structure KeyRec where
  handle : Nat
  vault : Bool
  reserved : Nat := 0
deriving DecidableEq, Repr

/-- A signature block (Table 03-3). -/
structure SigBlock where
  role : Nat
  algorithm : Nat
  reserved : Nat := 0
  signerId : Nat
  r : Nat := 0
  s : Nat := 0
deriving DecidableEq, Repr

/-- A plan image (R92 to R97). `entries` is sparse by position i: a position not listed is 128 zero bytes. -/
structure PlanImage where
  magic : Nat := 0x464C504C
  format : Nat := 1
  headerLen : Nat := 0x100
  version : Nat
  function : Nat
  res0D : Nat := 0
  base : Nat
  size : Nat
  keyCount : Nat
  imageLen : Nat
  earliest : Nat := 0
  compiledAt : Nat := 0
  sourceDigest : Nat := 0
  compilerBuild : Nat := 0
  entryOffset : Nat := 0x100
  keyOffset : Nat
  sigOffset : Nat
  res60 : Nat := 0
  entries : Tbl Entry
  keys : List KeyRec
  sigEng : SigBlock
  sigSo : SigBlock
deriving DecidableEq, Repr

/-! ### Frames on the line -/

/-- The security information of a frame (R147): key identifier, SPDU number and tag as received, the span of bytes that the
profile's standard has authenticated, and the payload that profile 0x26 encrypts. Under GENERATE the last two are those of the
frame that arrives without security information. -/
structure SecInfo where
  present : Bool := true
  wellFormed : Bool := true
  keyId : Nat := 0
  spdu : Nat := 0
  span : Bytes := []
  payload : Bytes := []
  tag : Bytes := []
deriving DecidableEq, Repr

/-- The SecTAG of a received frame with what it protects (R222): channel, association number, packet number, whether the data are
encrypted, the bytes authenticated in clear, the protected data and the ICV. -/
structure SecTag where
  channel : Nat
  an : Nat
  pn : Nat
  encrypted : Bool := false
  span : Bytes := []
  body : Bytes := []
  icv : Bytes := []
deriving DecidableEq, Repr

/-- An ASDU of a Sampled Values frame: its smpCnt and its seqData (R74, R161). -/
structure Asdu where
  smpCnt : Nat
  seqData : Bytes := []
deriving DecidableEq, Repr

/-- The security information of a copy as it leaves (R146): key identifier, SPDU number, tag, the payload as sent, and the key's start
and remaining life in the session header (R308). -/
structure SecOut where
  keyId : Nat
  spdu : Nat
  tag : Bytes
  payload : Bytes
  start : Nat := 0
  life : Nat := 0
deriving DecidableEq, Repr

/-- What MACsec makes of a copy (R210, R221): association number, packet number, whether the data are encrypted, the protected
data, in which the VLAN tag lies, and the ICV. -/
structure MacsecOut where
  an : Nat
  pn : Nat
  encrypted : Bool
  body : Bytes
  icv : Bytes
deriving DecidableEq, Repr

/-- A frame that the protocol cores send. Corrections and stamps are in ns. -/
inductive CoreFrame where
  /-- Sync: its correction; for one that a transparent clock forwards, the ingress stamp and the ingress port's measured peer delay
  (R228), and the correction of the Follow_Up that came with it -/
  | sync (correction : Int) (relay : Option (Nat × Nat)) (followUp : Option Int)
  /-- Follow_Up: its correction, and the egress stamp of the Sync it follows; none in one that is forwarded -/
  | followUp (correction : Int) (origin : Option Nat)
  /-- Announce: clockClass, grandmaster identity, totalTimeInaccuracy, alternate time offset indicator TLV -/
  | announce (cls gm : Nat) (inaccuracy altOffset : Option Nat)
  | pdelayReq
  /-- Pdelay_Resp to a request received at this stamp, and its Follow_Up with the egress stamp of the response -/
  | pdelayResp (received : Nat)
  | pdelayRespFollowUp (received sent : Nat)
  /-- PRP or HSR supervision of a pair's own address -/
  | supervision (mac : Nat)
  /-- MKPDU: the SAK it distributes, wrapped under the KEK, with its association number -/
  | mkpdu (sak : Option (Nat × Bytes))
  /-- group key of a reservation, by handle -/
  | groupKey (handle : Nat)
deriving DecidableEq, Repr

/-- One frame received on a port, after the physical layer. -/
structure Frame where
  port : Nat
  /-- ingress stamp of R64, in ns of grid time -/
  stamp : Nat
  /-- bytes as received without MACsec and redundancy tag, destination address through FCS -/
  len : Nat
  /-- the FCS is good -/
  fcsOk : Bool := true
  srcMac : Nat := 0
  dstMac : Nat := 0
  /-- outermost 0x8100 tag: VID and PCP; and the tag inside it -/
  vlan : Option (Nat × Nat) := none
  inner : Option (Nat × Nat) := none
  etherType : Nat := 0
  appid : Nat := 0
  /-- UDP over IP without fragment, IPv4 option or IPv6 extension header: version, destination as MATCH_DST_IP holds it,
  port -/
  udp : Option (Nat × Nat × Nat) := none
  /-- an IEC 61850-90-5 session PDU -/
  session : Bool := false
  spi : Nat := 0
  /-- an IEEE C37.118.2 frame's IDCODE -/
  idcode : Option Nat := none
  sec : SecInfo := {}
  /-- ASDUs of a Sampled Values frame, in order -/
  asdus : List Asdu := []
  secTag : Option SecTag := none
  /-- PRP trailer: sequence number and LAN (0 = A, 1 = B) -/
  prp : Option (Nat × Nat) := none
  /-- HSR tag: sequence number -/
  hsr : Option Nat := none
  /-- what the load offered leaves no room for (R195): 0 nothing, 1 exception frames, k + 2 also frames of TRAFFIC_CLASS up to k -/
  overload : Nat := 0
  data : Bytes := []
deriving DecidableEq, Repr

/-- smpCnt of the first ASDU and of the last; 0 without ASDUs. -/
abbrev Frame.smpCnt (fr : Frame) : Nat := (fr.asdus.head?.map (·.smpCnt)).getD 0
abbrev Frame.lastSmp (fr : Frame) : Nat := (fr.asdus.getLast?.map (·.smpCnt)).getD 0

/-! ### Archive records (06) -/

/-- One copy descriptor of a FRAME_CAPTURE record (Table 06-6). -/
structure CopyDesc where
  port : Nat
  late : Bool
  notSent : Bool
  macsec : Bool
  residence : Nat
  egressStamp : Nat
deriving DecidableEq, Repr

/-- A CHECKPOINT body (Table 06-10): KEY_ID and the signature are byte strings. STEP, FINAL and START are FLAGS of the record. -/
structure Checkpoint where
  cpSeq : Nat
  eventSeq : Nat
  eventChain : Nat
  ringSeq : Nat
  ringChain : Nat
  windowSeq : Nat
  windowChain : Nat
  lostTotal : Nat
  refusedRing : Nat
  refusedWindow : Nat
  budgetUsed : Nat
  govLevel : Nat
  keyId : Bytes := []
  sig : Bytes := []
deriving DecidableEq, Repr

/-- A STREAM_EVENT body (Table 06-8). -/
structure StreamEvent where
  entry : Nat
  tag : Nat
  cause : Nat
  port : Nat
  action : Nat
  budget : Nat := 0
  egressStamp : Nat := 0
  residence : Nat := 0
  count : Nat := 1
  lastStamp : Nat := 0
  forwarded : Nat := 0
  dropped : Nat := 0
deriving DecidableEq, Repr

/-- A tamper journal entry (Table 15-8). `data` is the 24 DATA bytes of Table 15-9 as a little-endian number. -/
structure JournalEntry where
  index : Nat
  cause : Nat
  level : Nat
  /-- FLAGS: power state, STAGED, SUBSUMED, OVERFLOW, ESCALATED -/
  power : Nat := 0
  staged : Bool := false
  subsumed : Bool := false
  overflow : Bool := false
  escalated : Bool := false
  stamp : Nat
  quality : Nat
  source : Nat := 0
  count : Nat := 1
  data : Nat := 0
  mac : Nat := 0
deriving DecidableEq, Repr

/-- Record bodies of Table 06-5. -/
inductive RecBody where
  | checkpoint (c : Checkpoint)
  | lostRecords (log first last count : Nat) (countUnknown : Bool) (firstStamp lastStamp zone unit : Nat)
  | powerDown (ring window : Nat)
  | start (resetCause lastCpSeq fwVersion : Nat) (lupin : Bool)
  | zoneRecycled (zone log first last newest reason : Nat)
  | governor (old new w b30 allowance : Nat)
  | release (signer cpSeq : Nat) (zones : List Nat)
  | window (number group start finish : Nat) (subtype written refused : Nat)
  | streamEvent (e : StreamEvent)
  | counterSnapshot (entry tag : Nat) (counters : List Nat)
  | timeEvent (ref : Nat) (oldT newT : TimeState) (oldR newR : RefState) (offset : Int) (e : Nat)
      (step : Option (Nat × Nat))
  | planEvent (version transition reason : Nat)
  | portEvent (port condition : Nat) (value : Nat)
  | keyEvent (handle event rollAt : Nat)
  | tamper (j : JournalEntry)
  | security (what : Nat) (a b c : Nat)
  | frameCapture (entry tag ingressPort result : Nat) (copies : List CopyDesc) (frame : Bytes) (frameLen : Nat)
deriving DecidableEq, Repr

/-- A record (R238). UNITS and BODY_LEN follow from the body; CHECK and the chain are computed when it is appended. -/
structure Record where
  typ : Nat
  units : Nat
  log : Nat
  owner : Nat
  quality : Nat
  flags : Nat
  seq : Nat
  stamp : Nat
  bodyLen : Nat
  body : RecBody
deriving DecidableEq, Repr

end Sys2Proof
end

