-- ==== Sys2Proof/Blocks/Ac.lean ====
section
/-! DEFINITION. The state of the access checker and of the integrity counters (14). -/

namespace Sys2Proof.Machine

/-- A region entry of the access table (Table 14-5). `reserved` holds bytes 8 to 15. -/
structure Region where
  sub : Nat := 0
  lock : Bool := false
  enable : Bool := false
  sizeExp : Nat := 0
  /-- base address -/
  base : Nat := 0
  read : Nat := 0
  write : Nat := 0
  reserved : Nat := 0
deriving DecidableEq, Repr

/-- The access table (R557, R558): READ and WRITE masks of each slot, and the regions. -/
structure AccessTable where
  slots : Tbl (Nat × Nat) := []
  regions : Tbl Region := []
deriving DecidableEq, Repr

/-- The region entry that 16 bytes spell, the first the least significant (Table 14-5). -/
def Region.ofEntry (w : Nat) : Region :=
  { sub := w % 256, lock := w.testBit 8, enable := w.testBit 9, sizeExp := w / 2 ^ 10 % 32, base := w / 2 ^ 15 % 2 ^ 17 * 2 ^ 15,
    read := w / 2 ^ 32 % 65536, write := w / 2 ^ 48 % 65536, reserved := w / 2 ^ 64 % 2 ^ 64 }

/-- One entry written into the shadow copy of the table (R567): a slot's masks, or the 16 bytes of a region. -/
inductive RuleWrite where
  | slot (n read write : Nat)
  | region (n entry : Nat)
deriving DecidableEq, Repr

/-- An internal access (R556): group, core and lease epoch, first byte, bytes, direction, and the host context or the
public-key engine it is made for. -/
structure Access where
  group : Nat
  core : Nat := 0
  epoch : Nat := 0
  addr : Nat
  len : Nat
  write : Bool
  /-- a write of zero -/
  zero : Bool := false
  ctx : Option Nat := none
  engine : Option Nat := none
deriving DecidableEq, Repr

/-- A word of SRAM that fails its code, by what it holds (Table 14-4). -/
inductive MemErr where
  /-- an entry of a function's active or standby bank -/
  | plan (f entry : Nat) (standby : Bool)
  /-- byte `at` of packet `index` of a queue -/
  | queue (q index at_ : Nat)
  /-- the pad of a lookahead position of an entry, under KEY_CUR or KEY_NEXT -/
  | pad (entry position : Nat) (next : Bool)
  /-- a context, in its working words only or not -/
  | ctx (id : Nat) (working : Bool)
  | core (c : Nat)
  | key (handle : Nat)
  /-- a staged record, counted from the oldest; its STAMP can be read or not -/
  | staging (index : Nat) (stampRead : Bool)
  | delay (list : Nat)
  | bellows
  | expander
  | pke (engine : Nat)
  /-- an access table; the rule image can be read or not -/
  | table (imageOk : Bool)
  /-- a stamp in a stamp FIFO: of a frame on ingress, which never reaches the frame engine, or of a copy on egress (R576) -/
  | stamp (copy : Option Nat)
  | trace
deriving DecidableEq, Repr

/-- A word of SRAM as it is read (R570): address, data, code, and what it holds. -/
structure WordRead where
  addr : Nat
  data : Nat
  code : Nat
  what : MemErr
deriving DecidableEq, Repr

/-- An open update (R566): group mask, core, epoch and grid time of its opening. -/
structure Update where
  mask : Nat
  core : Nat
  epoch : Nat
  since : Nat
deriving DecidableEq, Repr

structure Ac where
  table : AccessTable := {}
  shadow : AccessTable := {}
  upd : Option Update := none
  /-- openings that wait for the update that is open (R568) -/
  waiting : List Update := []
  /-- accesses held under R566, in order of arrival -/
  held : List Access := []
  /-- rule image of the configuration store (R569) -/
  image : Option AccessTable := none
  rulesLoaded : Bool := false
  denyCount : Nat := 0
  /-- AC_DENY_RECORD: address, group, write, core -/
  record : Option (Nat × Nat × Bool × Nat) := none
  retried : Nat := 0
  failed : Nat := 0
  integ : Tbl Nat := []
  passes : Nat := 0
  /-- RTC elapsed count at the journal entry of each group's first denial (R565) -/
  deniedAt : Tbl Nat := []
  /-- RTC elapsed counts of memory errors within the last second, newest first (R573) -/
  errors : List Nat := []
  /-- SRAM banks without power until module reset: region and bank (R606) -/
  banksOff : List (Nat × Nat) := []
deriving DecidableEq, Repr

end Sys2Proof.Machine
end

