-- ==== Sys2Proof/Blocks/Misc.lean ====
section
/-! DEFINITION. Event registers, what the module drives outward, and the constants of one module. -/

namespace Sys2Proof.Machine

/-- What is fixed in one module: ordering code (R4), silicon identity and base MAC address (Table 11-19). -/
structure Ident where
  nx880b : Bool := false
  siliconId : Nat := 0
  baseMac : Nat := 0
  /-- response of the on-die PUF, and the device seed in fuses, 32 bytes each (Table 07-1) -/
  puf : Bytes := List.replicate 32 0
  seed : Bytes := List.replicate 32 0
  /-- Icyel service key fused in the Maker state, x‖y (Table 07-7) -/
  service : Bytes := []
  /-- Icyel firmware key whose identifier is fused in the Maker state, x‖y (R667) -/
  firmware : Bytes := []
deriving DecidableEq, Repr

/-- An event status register and its enable register (R444). -/
structure EvReg where
  status : Nat := 0
  enable : Nat := 0
deriving DecidableEq, Repr

/-- The event registers of the module: the first three exist once per function, the others in the PF only. -/
inductive EvBlock where
  | hif | key | fe | vf | arc | pke | rnu | ts | qm | ac | tm | lcc | stc | pwr | sck
deriving DecidableEq, Repr

/-- What leaves the module, newest first in `State.out`. -/
inductive Out where
  /-- MSI-X message of a function's vector -/
  | msix (f vector : Nat)
  /-- output buffer write of an entry -/
  | output (f ring count addr : Nat) (data : Bytes)
  /-- STATUS, RESULT_LEN and DETAIL of an entry (R422) -/
  | status (f ring count word resultLen detail : Nat)
  /-- head mirror write (R441) -/
  | mirror (f ring h flags : Nat)
  /-- a copy on the line: port, entry, redundancy number, outermost tag (inside the protected data under MACsec), what MACsec made of
  it, egress stamp, security information (none: stripped, or a frame that carries none) -/
  | copy (port entry : Nat) (redSeq : Option Nat) (vlan : Option (Nat × Nat)) (macsec : Option MacsecOut)
      (stamp : Nat) (sec : Option SecOut)
  /-- an HSR frame passed through to a port (R219) -/
  | passed (port src seq : Nat)
  /-- a frame of the cores on the line: port, source address, class, redundancy number, what MACsec made of it, egress stamp, the
  frame -/
  | core (port src tclass : Nat) (redSeq : Option Nat) (macsec : Option MacsecOut) (stamp : Nat) (x : CoreFrame)
  /-- 1PPS output edge at this grid second -/
  | pps (sec : Nat)
  /-- a register or aperture read answered: function, offset, value -/
  | read (f offset value : Nat)
  /-- a data-port read answered -/
  | data (f : Nat) (bytes : Bytes)
  /-- a memory request answered Unsupported Request (R415) -/
  | unsupported (f : Nat)
  /-- an SMBus block read answered, and the alert response address -/
  | smbus (command : Nat) (bytes : List Nat)
  | alert (address : Nat)
  /-- a piece of an internal access decided: group, first byte, bytes, granted -/
  | access (group addr len : Nat) (granted : Bool)
  /-- a debug-port answer -/
  | jtag (what : Nat) (value : Nat)
  /-- a DOE object answered (R415) -/
  | doe (what value : Nat)
deriving DecidableEq, Repr

end Sys2Proof.Machine
end

