-- ==== Sys2Proof/Blocks/Hif.lean ====
section
/-! DEFINITION. The state of the host interface: functions, rings, in-flight contexts, data ports, MSI-X and IDE (10, 12). -/

namespace Sys2Proof.Machine

/-- A ring entry header as host software wrote it (Table 10-4). Stamps are the raw 64-bit values. -/
structure Header where
  opcode : Nat
  length : Nat
  lengthRes : Bool := false
  wait : Bool := false
  fence : Bool := false
  notify : Bool := false
  flagsRes : Nat := 0
  userTag : Nat := 0
  notBefore : Nat := 0
  completeBy : Nat := 0
  latenessTol : Nat := 0xFFFFFFFF
  inLen : Nat := 0
  inAddr : Nat := 0
  outAddr : Nat := 0
  outLen : Nat := 0
deriving DecidableEq, Repr

/-- An entry in host memory as the fetcher finds it: the bytes of its slots, and of its input buffer. -/
structure RawEntry where
  slots : Bytes
  input : Bytes := []
  /-- the read of a slot returned an error completion or poisoned data -/
  fetchError : Bool := false
deriving DecidableEq, Repr

/-- What an operation completes with (R422, R423). -/
structure Completion where
  code : Nat
  recomputed : Bool := false
  resultLen : Nat := 0
  detail : Nat := 0
  output : Bytes := []
deriving DecidableEq, Repr

/-- Where an accepted operation stands. -/
inductive CtxPhase where
  | delayed | queued | held | dispatched | staged | finished
deriving DecidableEq, Repr

/-- An in-flight context (R434, R435). -/
structure Ctx where
  id : Nat
  f : Nat
  ring : Nat
  count : Nat
  hdr : Header
  phase : CtxPhase
  /-- the completion goes nowhere since the ring it belonged to is gone: 0 no, 1 warm host reset (R453),
  2 function-level reset (R504) -/
  orphan : Nat := 0
  /-- still needs host input or the data port (R453) -/
  needsHost : Bool := false
  /-- holds or waits for the data port (R456) -/
  dataPort : Bool := false
  comp : Option Completion := none
  /-- the operation was restarted from its recovery source: OK reports RECOMPUTED (R423, R578) -/
  recomputed : Bool := false
  angle : Option Nat := none
  /-- tick at which a delayed entry was released, ns -/
  dueTick : Nat := 0
  /-- acceptance sequence number of a delayed entry (R547) -/
  dseq : Nat := 0
  group : Nat := 0
  /-- set aside by VF_FREEZE (R508) -/
  lifted : Bool := false
  /-- the entry's slots (R431), and the input of a timed one, read before it is placed on its delay list (R437) -/
  slots : Bytes := []
  input : Bytes := []
deriving DecidableEq, Repr

/-- A ring (R416 to R420). -/
structure Ring where
  base : Nat := 0
  mirror : Nat := 0
  sizeExp : Nat := 0
  weight : Nat := 0
  burst : Nat := 0
  vector : Nat := 0
  modCount : Nat := 0
  modTime : Nat := 0
  enabled : Bool := false
  draining : Bool := false
  haltHere : Bool := false
  cfgCause : Nat := 0
  d : Nat := 0
  h : Nat := 0
  /-- count of the next slot to fetch -/
  f : Nat := 0
  tokens : Nat := 0
  /-- fetched entries not yet passed by H, in order: count, slots, finished, PAD, NOTIFY -/
  entries : List (Nat × Nat × Bool × Bool × Bool) := []
  /-- non-PAD entries passed since the last message, and the time of the first of them (R443) -/
  unsent : Nat := 0
  firstAt : Nat := 0
deriving DecidableEq, Repr

/-- MSI-X of a function (R442, R444). -/
structure Msix where
  enabled : Bool := false
  functionMask : Bool := false
  /-- message address and data, and vector mask, per vector -/
  table : Tbl (Nat × Nat × Bool) := []
  pending : List Nat := []
deriving DecidableEq, Repr

/-- Migration state of a VF (R507). -/
inductive Migration where
  | normal | frozen | restored
deriving DecidableEq, Repr

/-- A function (12, 10). -/
structure Func where
  /-- the VF exists: VF Enable set and its number at most NumVFs; the PF always exists -/
  present : Bool := false
  bme : Bool := false
  d3hot : Bool := false
  halted : Bool := false
  haltCause : Nat := 0
  haltRing : Nat := 0
  haltOpcode : Nat := 0
  haltCount : Nat := 0
  msix : Msix := {}
  dpState : Nat := 0
  dpLengthKnown : Bool := false
  dpProtocol : Bool := false
  dpRing : Nat := 0
  dpOwner : Nat := 0
  /-- context holding the port -/
  dpCtx : Option Nat := none
  dpPos : Nat := 0
  dpLimit : Nat := 0
  dpLength : Nat := 0
  /-- inbound: bytes written beyond POS -/
  dpBuf : Tbl Byte := []
  /-- outbound: the bytes from POS on, once the operation has prepared them -/
  dpOut : Bytes := []
  /-- grid time of the last progress -/
  dpAt : Nat := 0
  setUp : Bool := false
  ringsAllotted : Nat := 0
  ctxQuota : Nat := 0
  keyQuota : Nat := 0
  delayQuota : Nat := 0
  portScope : Nat := 0
  migration : Migration := .normal
  /-- a VF_FREEZE waits for dispatched entries (R508) -/
  freezing : Bool := false
  discards : Nat := 0
  /-- captures of the low halves of 64-bit registers (R693): value by offset, while the last access was that read -/
  split : Tbl Nat := []
  /-- writes to host memory held while Bus Master Enable is 0, oldest first (R455) -/
  heldWrites : List Out := []
deriving DecidableEq, Repr

/-- Configuration identity of a function (Table 10-2). -/
structure ConfigId where
  vendor : Nat := 0x1F4A
  device : Nat
  revision : Nat := 0xB0
  classCode : Nat := 0x108000
deriving DecidableEq, Repr

/-- What the configuration space gives that nothing changes: identities, the SR-IOV numbers of the PF (Table 10-2) and the sizes of BAR0,
BAR2 and BAR4 (Table 10-3). -/
structure ConfigSpace where
  pf : ConfigId := { device := 0x0880 }
  vf : ConfigId := { device := 0x0881 }
  totalVfs : Nat := 63
  initialVfs : Nat := 63
  firstVfOffset : Nat := 1
  vfStride : Nat := 1
  pfBars : List Nat := [65536, 1048576, 4096]
  vfBars : List Nat := [16384, 1048576, 4096]
deriving DecidableEq, Repr

structure Hif where
  config : ConfigSpace := {}
  funcs : Tbl Func := []
  rings : Tbl Ring := []
  ctxs : List Ctx := []
  nextCtx : Nat := 0
  discardCount : Nat := 0
  ideRequired : Bool := false
  linkSecure : Bool := false
  selectiveSecure : Nat := 0
  spdmSession : Bool := false
  linkUp : Bool := false
deriving DecidableEq, Repr

end Sys2Proof.Machine
end

