-- ==== Sys2Proof/Blocks/Call.lean ====
section
/-! DEFINITION. How an operation of the catalogue is named when it is performed: the function, ring and count of its entry
and the entry's header (10, 11). -/

namespace Sys2Proof.Machine

/-- The entry of an operation. -/
structure Call where
  f : Nat
  ring : Nat
  count : Nat
  hdr : Header
deriving DecidableEq, Repr

end Sys2Proof.Machine
end

