-- ==== Sys2Proof/Blocks/Fe.lean ====
section
/-! DEFINITION. The state of the frame engine, the pad generator, the ports, the redundancy pairs and MACsec (04, 05). -/

namespace Sys2Proof.Machine

/-- Prediction state of a counter-mode entry (Table 04-3). -/
structure Pred where
  s : Nat
  cLast : Nat
  n : Nat
deriving DecidableEq, Repr

/-- A place of the pad store (R161, R167): whether a pad is held, its lookahead position, whether it is under KEY_NEXT, and the pad
itself, zero while none is held. -/
structure PadSlot where
  held : Bool := false
  pos : Nat := 0
  next : Bool := false
  val : BitVec 128 := 0
deriving DecidableEq, Repr

/-- What the frame engine keeps for one used entry. -/
structure EntryRt where
  /-- SPDU number of the last frame passed under KEY_CUR and under KEY_NEXT; none: the freshness state is empty (R159,
  R160) -/
  fresh : Option Nat := none
  freshNext : Option Nat := none
  /-- the second freshness state while the acceptance interval is open: the other key and its number, or empty (R310) -/
  other : Option (Option (Nat × Nat)) := none
  pred : Option Pred := none
  /-- the entry's places in the pad store (R161) -/
  pads : List PadSlot := []
  /-- pads are held under both keys around ROLL_AT (R158) -/
  dual : Bool := false
  /-- the rollover was made before a backward step to a time before it, which does not undo it (R80) -/
  rolled : Bool := false
  counters : List Nat := []
  continuityLost : Bool := false
  /-- the key condition and the loss of time the entry is under: frames forwarded and dropped since the first of them (R184) -/
  failKey : Option (Nat × Nat) := none
  failTime : Option (Nat × Nat) := none
deriving DecidableEq, Repr

/-- A copy handed to an egress port and not yet begun (R173 to R178), or a frame of the cores in a transmit queue (R204). -/
structure TxCopy where
  id : Nat
  /-- the matched frame; without meaning for a frame of the cores -/
  frame : Nat := 0
  port : Nat
  tclass : Nat
  /-- ingress stamp of the frame, or grid time at which the core handed it over -/
  at_ : Nat
  /-- bytes on the line without MACsec -/
  len : Nat
  /-- redundancy sequence number, in a pair -/
  redSeq : Option Nat := none
  /-- outermost VID and PCP after rewrite and mark -/
  vlan : Option (Nat × Nat) := none
  /-- MACsec applied at the hand-off (R140 step 9) -/
  macsec : Option MacsecOut := none
  /-- a frame of the cores, with its source address -/
  core : Option (Nat × CoreFrame) := none
  /-- step amount since the hand-over (R81) -/
  stepAdj : Int := 0
deriving DecidableEq, Repr

/-- A matched frame with copies outstanding or a capture copy to complete. -/
structure TxFrame where
  id : Nat
  entry : Nat
  function : Nat
  /-- belongs to the version just replaced (R126, R189) -/
  oldBank : Bool := false
  stamp : Nat
  quality : Nat
  ingressPort : Nat
  budget : Nat
  lateDrop : Bool
  tag : Nat
  /-- step amount between the ingress stamp and now (R81) -/
  stepAdj : Int := 0
  marked : Bool := false
  /-- what became of the security information: 0 as received, 1 stripped, 2 generated, 3 written with a zero tag -/
  rewrite : Nat := 0
  sec : Option SecOut := none
  /-- copies outstanding -/
  left : Nat
  descs : List CopyDesc := []
  /-- RESULT byte of the capture record, and the logs into which a copy is staged -/
  result : Nat := 0
  toRing : Bool := false
  toWindow : Bool := false
  group : Nat := 0
  len : Nat
  /-- length of its copies after the security handling and the egress VLAN operation -/
  egressLen : Nat := len
  data : Bytes := []
  /-- a copy missed its budget; the TIMED_PUBLISH operation that waits for the copies, with its context (R490) -/
  missed : Bool := false
  pub : Option (Call × Option Nat) := none
deriving DecidableEq, Repr

/-- A secure association of a receive channel (R221, R222): its SAK, SSCI and salt, and the pads of its next 8 packet numbers
(R161). -/
structure RxSa where
  an : Nat
  nextPn : Nat
  sak : Bytes := []
  ssci : Nat := 0
  salt : Nat := 0
  pads : List (Nat × BitVec 128) := []
deriving DecidableEq, Repr

/-- A secure association of the transmit channel: its SAK, SSCI and salt, and the pad of its next packet number (R165). -/
structure TxSa where
  an : Nat
  nextPn : Nat
  sak : Bytes := []
  ssci : Nat := 0
  salt : Nat := 0
  pad : BitVec 128 := 0
deriving DecidableEq, Repr

/-- A port (05). -/
structure Port where
  linkUp : Bool := false
  lanDead : Bool := false
  lastRx : Nat := 0
  counters : List Nat := []
  /-- bytes of transmit buffer in use (R206) -/
  buffer : Nat := 0
  /-- port-MACsec settings (R224) -/
  keyServerPrio : Nat := 16
  replayWindow : Nat := 256
  cak : Nat := 0
  /-- CAK change waiting for the next MKA exchange -/
  cakNext : Option Nat := none
  keyServer : Bool := false
  livePeers : List Nat := []
  /-- the transmit association in use and the one before it -/
  txSa : Option TxSa := none
  txOld : Option TxSa := none
  rxChannels : Tbl (List RxSa) := []
  /-- conditions of Table 05-8 in force: 0 no SA since link up, 1 peers empty, 2 Restrict, 3 Quench, 4 PN exhausted -/
  conds : List Nat := []
  sakRequested : Bool := false
  lastHello : Nat := 0
  lastMkpdu : Nat := 0
deriving DecidableEq, Repr

/-- A source of the duplicate-discard table (R214): newest number and the accepted ones among the newest 64
(bit i: n − i accepted). -/
structure DupSource where
  n : Nat
  window : Nat
  last : Nat
deriving DecidableEq, Repr

/-- A PRP or HSR pair (R211 to R219). -/
structure Pair where
  dup : Tbl DupSource := []
  nodes : Tbl Nat := []
  seq : Nat := 0
  /-- numbers passed from member 0 to 1 and from 1 to 0, kept as for duplicate discard (R219) -/
  passed0 : Tbl DupSource := []
  passed1 : Tbl DupSource := []
deriving DecidableEq, Repr

/-- What a key condition of Table 04-8 is about: the response level, the slot of a handle, or an entry of a bank. -/
inductive KeyCond where
  | level
  | slot (handle : Nat)
  | entry (n : Nat) (standby : Bool)
deriving DecidableEq, Repr

/-- A key condition that has ended: frames stamped inside it still fall under it (R180). -/
structure CondPast where
  what : KeyCond
  from_ : Nat
  until_ : Nat
deriving DecidableEq, Repr

/-- Counter latch of a function (R191). -/
structure CtrLatch where
  entry : Nat := 0
  valid : Bool := false
  notOwned : Bool := false
  unused : Bool := false
  lost : Bool := false
  data : List Nat := []
deriving DecidableEq, Repr

structure Fe where
  entries : Tbl EntryRt := []
  /-- during DRAINING, the counters of old entries that do not carry over (R189) and the state of old entries that do not
  continue (R127) -/
  drain : Tbl (List Nat) := []
  drainRt : Tbl EntryRt := []
  frames : List TxFrame := []
  copies : List TxCopy := []
  nextId : Nat := 0
  ports : Tbl Port := []
  pairs : Tbl Pair := []
  latch : Tbl CtrLatch := []
  portLatch : CtrLatch := {}
  /-- pipeline serving each port, where rolling or on-demand test has moved it (R143, R650) -/
  pipeOf : Tbl Nat := []
  forwarding : Bool := false
  /-- key conditions that have ended, newest first (R180) -/
  ended : List CondPast := []
deriving DecidableEq, Repr

end Sys2Proof.Machine
end

