-- ==== Sys2Proof/Blocks/Key.lean ====
section
/-! DEFINITION. The state of the key manager: the root, the key domains, the key cache, the vault blobs and the group-key
reservations (07). -/

namespace Sys2Proof.Machine

/-- What is fixed when a key is created (R298), with its lifetime, its creation stamp and the length of its material. -/
structure KeyAttr where
  kind : Nat
  origin : Nat := 1
  migratable : Bool := false
  usage : Nat
  ident : Nat := 0
  group : Nat := 0
  notBefore : Nat := 0
  notAfter : Nat := 0
  created : Nat := 0
  keyLen : Nat := 0
deriving DecidableEq, Repr

/-- A blob field by field (Table 07-5), reserved fields included. `epoch` is the domain epoch under FORMAT 1 and MK_ID under
FORMAT 2; the IV is a number whose most significant byte goes first. -/
structure Blob where
  magic : Nat := 0x424B584E
  format : Nat := 1
  len : Nat := 0
  handle : Nat
  epoch : Nat
  attr : KeyAttr
  flagsRes : Nat := 0
  res3A : Nat := 0
  iv : Nat := 0
  res4C : Nat := 0
  payload : Bytes := []
  tag : Bytes := []
deriving DecidableEq, Repr

/-- The working form of a loaded key (R299): H of an AES key, the midstates of an HMAC key, KEK and ICK of a CAK, the public key of
a private key. -/
structure KeyWork where
  h : BitVec 128 := 0
  inner : BitVec 256 := 0
  outer : BitVec 256 := 0
  kek : Bytes := []
  ick : Bytes := []
  pub : Bytes := []
deriving DecidableEq, Repr

/-- A loaded key: its current blob, its first key-cache slot, its material, its working form, whether its slot is under re-unwrap
after a memory error (R304), and the blinding pair of an RSA key (R353). -/
structure LoadedKey where
  blob : Blob
  slot : Nat := 0
  material : Bytes := []
  work : KeyWork := {}
  faulted : Bool := false
  blind : Nat × Nat := (0, 0)
deriving DecidableEq, Repr

/-- An enrolment record (R313), with the 96 bytes of its public key. -/
structure RoleRec where
  role : Nat
  key : Bytes
  signerId : Nat
  stamp : Nat
  active : Bool := true
deriving DecidableEq, Repr

/-- A group-key reservation (R330): `bound` holds the check value of the bound key once it is closed, 8 bytes. -/
structure Reservation where
  handle : Nat
  group : Nat
  ident : Nat
  kind : Nat
  usage : Nat
  vault : Bool
  bound : Option Bytes := none
deriving DecidableEq, Repr

/-- A key domain (Table 07-3). -/
structure Domain where
  roles : List RoleRec := []
  temper : Nat := 0
  /-- last index allocated -/
  handles : Nat := 0
  epoch : Nat := 0
  tenant : Option Nat := none
  /-- migration key: MK_ID and its 32 bytes -/
  migKey : Option (Nat × Bytes) := none
  reservations : List Reservation := []
deriving DecidableEq, Repr

/-- Generation counter of a handle (R152): the next value, the end of the block reserved in the configuration store, and
the generation hold of R516. -/
structure GenCtr where
  next : Nat := 1
  reserved : Nat := 0
  hold : Bool := false
deriving DecidableEq, Repr

/-- BBKR (Table 07-2): SRK of 32 bytes, SRK_CHECK of 16, ROOT_GENERATION; the rest of its 512 bytes is zero. -/
structure Bbkr where
  srk : Bytes
  check : Bytes
  generation : Nat
deriving DecidableEq, Repr

/-- The identity register bank (R282, R284): DIS, the private scalars of DIK, AK and DTK, and ESK. -/
structure IdBank where
  dis : Bytes
  dik : Nat
  ak : Nat
  dtk : Nat
  esk : Bytes
deriving DecidableEq, Repr

structure Key where
  /-- the root in BBKR; none while BBKR is zero -/
  bbkr : Option Bbkr := none
  /-- ROOT_GENERATION and the provisioned mark of the configuration store -/
  rootGen : Nat := 0
  provisioned : Bool := false
  /-- the root was judged present at the last start (R288) -/
  rootPresent : Bool := false
  /-- the identity register bank, once it has been filled (R284) -/
  identity : Option IdBank := none
  domains : Tbl Domain := []
  integrators : List RoleRec := []
  keys : Tbl LoadedKey := []
  /-- grid times at which the slots of handles were lost or began to be re-unwrapped (Table 04-8) -/
  lostAt : Tbl Nat := []
  vault : Tbl Blob := []
  gens : Tbl GenCtr := []
  /-- lifetime event written for these loaded keys (R307) -/
  lapsed : List Nat := []
  /-- vault keys wait for the random number unit (R664) -/
  keysDue : Bool := false
  quenchW : Nat := 0
  quenchR : Nat := 0
  /-- lead time of the key distribution centre, s (R332) -/
  kdcLead : Nat := 3600
deriving DecidableEq, Repr

/-! ### Temper messages (R316 to R319) and authorised requests (R471) -/

/-- A Temper command as decrypted; `unknown` is an unknown code or a body length that is wrong for its code. `res` is the sum of a
body's reserved and padding bytes. -/
inductive TemperCmd where
  | unknown
  | provision
  | reprovision
  | enrol (domain role res : Nat) (key : Bytes)
  | revoke (domain res signerId : Nat)
  | createDomain (domain res tenant : Nat)
  | deleteDomain (domain res : Nat)
  | importKey (attr : KeyAttr) (res : Nat) (material : Bytes)
  | setMigrationKey (mkId : Nat) (key : Bytes)
  | advanceEpoch
  | setGenFloor (handle value : Nat)
  | clearRestrict
deriving DecidableEq, Repr

/-- A Temper message field by field (Table 07-8). The IV is a number whose most significant byte goes first. -/
structure TemperMsg where
  magic : Nat := 0x4D54584E
  format : Nat := 1
  res06 : Nat := 0
  msgLen : Nat
  domain : Nat
  sigCount : Nat
  cmdCount : Nat
  counter : Nat
  notAfter : Nat := 0
  target : Bytes
  ephemeral : Bytes
  iv : Nat := 0
  ctLen : Nat
  cipher : Bytes
  tag : Bytes
  sigs : List SigBlock
deriving DecidableEq, Repr

/-- An authorised request field by field (Table 11-3). -/
structure AuthReq where
  magic : Nat := 0x5241584E
  request : Nat
  domain : Nat
  sigCount : Nat
  counter : Nat
  notAfter : Nat := 0
  target : Bytes
  res38 : Nat := 0
  params : Bytes := List.replicate 64 0#8
  sigs : List SigBlock
deriving DecidableEq, Repr

end Sys2Proof.Machine
end

