-- ==== Sys2Proof/Blocks/Lcc.lean ====
section
/-! DEFINITION. The state of the life-cycle controller and of the debug port (16). -/

namespace Sys2Proof.Machine

/-- One copy of the life-cycle record (R625): the state and the pending transition. -/
structure LifeCopy where
  st : LifeState := .maker
  target : Option LifeState := none
deriving DecidableEq, Repr

/-- The progress record of a wipe (R632). -/
structure Progress where
  step : Nat
  nextZone : Nat
  epoch : Nat
  cpSeq : Nat
deriving DecidableEq, Repr

/-- A debug token field by field (Table 16-7). -/
structure DebugToken where
  magic : Nat := 0x5444584E
  format : Nat := 1
  sigCount : Nat
  st : Nat
  scope : Nat
  duration : Nat
  notAfter : Nat := 0
  target : Bytes
  bootId : Nat
  res48 : Nat := 0
  sigs : List SigBlock
deriving DecidableEq, Repr

/-- The token in force: scope, end in RTC elapsed seconds, signers. -/
structure TokenInForce where
  scope : Nat
  until_ : Nat
  signers : List Nat
deriving DecidableEq, Repr

structure Lcc where
  copies : List LifeCopy := [{}, {}, {}]
  st : LifeState := .maker
  target : Option LifeState := none
  progress : Option Progress := none
  wipeStep : Nat := 0
  rounds : Nat := 0
  resumed : Bool := false
  bootId : Nat := 0
  starts : Nat := 0
  scrapFuse : Bool := false
  /-- integrator public keys written under MANUFACTURE, in order, and the bytes of the DIK certificate (R286) -/
  written : List Bytes := []
  dikCert : Option Bytes := none
  /-- learned mesh resistance, Ω -/
  mesh : Nat := 0
  token : Option TokenInForce := none
  /-- tokens accepted in this boot -/
  accepted : List DebugToken := []
deriving DecidableEq, Repr

end Sys2Proof.Machine
end

