-- ==== Sys2Proof/Blocks/Pke.lean ====
section
/-! DEFINITION. The state of the public-key engines and of the loaded curves (08). -/

namespace Sys2Proof.Machine

/-- An engine command word's fields (Table 08-4). -/
structure PkeCmd where
  op : Nat
  mctx : Nat := 0
  dst : Nat := 0
  a : Nat := 0
  b : Nat := 0
  len : Nat := 1
  bit : Nat := 0
  bitstep : Bool := false
  res : Nat := 0
deriving DecidableEq, Repr

/-- A loaded curve (R370, Table 08-15). -/
structure Curve where
  form : Nat
  words : Nat
  pBits : Nat
  cofactor : Nat
  p : Nat
  a : Nat
  b : Nat
  gx : Nat
  gy : Nat
  n : Nat
deriving DecidableEq, Repr

/-- Phases of an operation on an engine (Table 08-3), and of an abort (R368, R369). -/
inductive PkePhase where
  | idle | preparation | validation | main1 | main2 | finish | aborting | aborted
deriving DecidableEq, Repr

/-- An operation given to an engine: kind (Table 08-6), the host entry it belongs to, the outcomes of its validation, and
the completion that equal runs release. -/
structure PkeOp where
  call : Call
  /-- its context, if it has one -/
  ctx : Option Nat := none
  kind : Nat
  long : Bool := false
  slotLen : Nat := 4
  /-- the key it uses, by handle, and the key's material -/
  handle : Nat := 0
  material : Bytes := []
  /-- source slots with the caller's values -/
  sources : List (Nat × Nat) := []
  /-- status of an operand that the validation refuses (R358, R359) -/
  refuse : Option Nat := none
  /-- projective randomizations of the two runs (R364) -/
  mask1 : Bytes := []
  mask2 : Bytes := []
  /-- DETAIL of a rejection at V -/
  rejectDetail : Nat := 0
  comp : Completion
  /-- curve to store when a CURVE_LOAD is accepted -/
  curve : Option Curve := none
deriving DecidableEq, Repr

structure Engine where
  inService : Bool := false
  op : Option PkeOp := none
  next : Option PkeOp := none
  phase : PkePhase := .idle
  slots : Tbl Nat := []
  sources : List Nat := []
  slotLen : Nat := 0
  /-- modulus contexts 0 to 3: modulus and operand length in words -/
  mctx : Tbl (Nat × Nat) := []
  rangeFlag : Bool := false
  curveFlag : Bool := false
  /-- randomization of the run under way (R364) -/
  mask : Bytes := []
  /-- result flags of EQ, and result items of STORE -/
  flags : Nat := 0
  items : Tbl Nat := []
  /-- slots at the end of validation, from which both runs start -/
  snap : Tbl Nat := []
  /-- compare buffer: flags and items of the first run -/
  first : Option (Nat × Tbl Nat) := none
  /-- REPEAT: commands still to come, repetitions, commands taken so far, newest first -/
  rep : Option (Nat × Nat × List PkeCmd) := none
  mismatches : Nat := 0
  slotErrors : Nat := 0
deriving DecidableEq, Repr

structure Pke where
  engines : Tbl Engine := []
  /-- loaded curves: function * 256 + curve number -/
  curves : Tbl Curve := []
deriving DecidableEq, Repr

end Sys2Proof.Machine
end

