-- ==== Sys2Proof/Blocks/Pwr.lean ====
section
/-! DEFINITION. Power, start-up and firmware slots (17). -/

namespace Sys2Proof.Machine

/-- A firmware image (Table 17-3). Its BODY is not documented: `digest` is the SHA-384 of the bytes ahead of the signature. -/
structure FwImage where
  magic : Nat := 0x5746584E
  format : Nat := 1
  sec : Nat
  version : Nat
  length : Nat
  builtAt : Nat := 0
  reserved : Nat := 0
  digest : Bytes
  sig : SigBlock
deriving DecidableEq, Repr

/-- A firmware slot (R668): STATE and ROLE codes of PWR_FW_SLOT, and the image. -/
structure FwSlot where
  st : Nat := 0
  role : Nat := 0
  image : Option FwImage := none
deriving DecidableEq, Repr

/-- SECURITY_VERSION and VERSION of the image in a slot; 0 where there is none. -/
def FwSlot.sec (v : FwSlot) : Nat := (v.image.map (·.sec)).getD 0
def FwSlot.version (v : FwSlot) : Nat := (v.image.map (·.version)).getD 0

structure Pwr where
  /-- 12 V power-good, and the main domain powered -/
  good : Bool := false
  main : Bool := true
  standbyIn : Bool := false
  /-- the standby and the backup domain are fed -/
  standbyFed : Bool := false
  backupFed : Bool := true
  /-- START_PHASE -/
  phase : Nat := 0
  /-- the module stops after its boot ROM (R625, R635) -/
  stopped : Bool := false
  /-- RESET_N is held low after the sequence of R674 -/
  resetHeld : Bool := false
  lupin : Bool := false
  lupinNext : Bool := false
  slot0 : FwSlot := {}
  slot1 : FwSlot := {}
  running : Option Nat := none
  /-- version of the running image -/
  version : Nat := 0
  trialPending : Bool := false
  trial : Bool := false
  /-- a trial has failed; the next start reports it (R669) -/
  trialFailed : Bool := false
  floor : Nat := 0
  resetCause : Nat := 0
  watchdog : Bool := false
  /-- a reset waits for the end of the Quench path (R676): its cause -/
  resetWaits : Option Nat := none
  /-- RESET_N is low still when that reset comes -/
  holdNext : Bool := false
  startTime : Nat := 0xFFFF
  mainMv : Nat := 0
  standbyMv : Nat := 0
  power : Nat := 0
  /-- RTC elapsed count at t0 of the start (R677) -/
  startedAt : Nat := 0
  /-- grid time at which forwarding began -/
  forwardAt : Nat := 0
deriving DecidableEq, Repr

end Sys2Proof.Machine
end

