-- ==== Sys2Proof/Operands0.lean ====
section
/-! DEFINITION. The operands of the commands that are not plain numbers: what the surroundings present with an event. -/

namespace Sys2Proof.Machine

/-- A decoded IRIG-B frame (R39, R40, R65). -/
structure IrigFrame where
  /-- decoded IRIG-B time at the on-time point, seconds of local time since the PTP epoch without leap seconds -/
  seconds : Int
  /-- grid time at the leading edge of the reference marker, ns -/
  edge : Nat
  /-- IEEE 1344 local time offset to be removed, s -/
  localOffset : Int := 0
  parityOk : Bool := true
  /-- IEEE 1344 time-quality nibble -/
  quality : Nat := 0
  /-- accuracy of that nibble in ns; none for unknown -/
  accuracy : Option Nat := none
  /-- leap second pending, with the end of the UTC day in grid ns -/
  leapEnd : Option Nat := none
deriving DecidableEq, Repr

/-- A PTP message as a core reads it (R59, R60, R227, R228). -/
inductive PtpMessage where
  /-- Announce on a port: whether the best master clock algorithm takes its sender as grandmaster, grandmaster identity, clockClass,
  clockAccuracy in ns (none: unknown), totalTimeInaccuracy of the IEEE C37.238 TLV, alternate time offset indicator TLV,
  currentUtcOffset where valid, end of the UTC day of a pending leap second -/
  | announce (port : Nat) (best : Bool) (gm cls : Nat) (accuracy inaccuracy altOffset utc leapEnd : Option Nat)
  /-- Sync, and the Follow_Up of a two-step one, on a port: ingress stamp of the Sync, measured offset of the reference from grid time,
  their corrections, ns -/
  | sync (port : Nat) (ingress : Nat) (offset : Int) (correction : Int) (followUp : Option Int)
  /-- a peer-delay measurement completed on a port -/
  | pdelay (port : Nat) (delay : Nat)
  /-- a Pdelay_Req received at this stamp, to be answered on the same port -/
  | pdelayReq (port ingress : Nat)
  /-- a message of an option the module does not support (R59) -/
  | unsupported (port : Nat)
deriving DecidableEq, Repr

/-- What a PTP port sends (R59, R61). -/
inductive PtpSend where
  | sync | announce | pdelayReq
deriving DecidableEq, Repr

/-- A source of a sequence: slot, LEN, ROLE, value. -/
structure SeqSource where
  slot : Nat
  len : Nat
  role : Nat
  value : Nat
deriving DecidableEq, Repr

/-- A sequence block with its maps, commands and source values (Table 08-17). -/
structure SeqBlock where
  cls : Nat
  slotLen : Nat
  sources : List SeqSource
  results : List (Nat × Nat)
  cmds : List PkeCmd
deriving DecidableEq, Repr

/-- What the records of a TLS handshake come to: a malformed message, the session's new state (0 in progress, 1 established,
2 closed), the version settled, the peer's certificate list once received, and the length of the records to send. -/
structure TlsStep where
  malformed : Bool := false
  st : Nat := 0
  tls13 : Bool := true
  aes256 : Bool := true
  peerCert : Option Bytes := none
  sendLen : Nat := 0
deriving DecidableEq, Repr

/-- A receive channel of a SAK: channel, association number of its peer's SAK, SSCI. -/
structure MkaPeer where
  channel : Nat
  an : Nat
  ssci : Nat := 0
deriving DecidableEq, Repr

/-- The SAK that an MKA PDU installs (R221, R224): association number, SSCI and salt of the transmit channel, the SAK under AES Key Wrap
with the KEK where the peer is key server, and the receive channels. -/
structure MkaSak where
  an : Nat
  ssci : Nat := 0
  salt : Nat := 0
  wrapped : Bytes := []
  peers : List MkaPeer
deriving DecidableEq, Repr

/-- An MKA PDU (R224): its bytes and its ICV, and what it comes to: the live peers after it, whether the module is key server, and the
SAK it installs. -/
structure MkaPdu where
  body : Bytes
  icv : Bytes
  peers : List Nat
  server : Bool := false
  sak : Option MkaSak := none
deriving DecidableEq, Repr

/-- The body of ARCHIVE_READ (Table 11-15). -/
structure ReadSpec where
  kind : Nat
  log : Nat
  filter : Nat := 0
  owner : Nat := 0
  entry : Nat := 0
  from_ : Nat
  to_ : Nat
  types : List Nat := []
deriving DecidableEq, Repr

/-- A ring of a save image (Table 12-9). `res` of this and the next records is the sum of their reserved bytes. -/
structure SavedRing where
  index : Nat
  draining : Bool := false
  res : Nat := 0
  cfg : Nat
  mod : Nat := 0
  d : Nat
  h : Nat
  f : Nat
  base : Nat
  mirror : Nat
deriving DecidableEq, Repr

/-- A key record of a save image; `blob` is the FORMAT 2 blob carried, if any. -/
structure SavedKey where
  handle : Nat
  inVault : Bool := false
  generating : Bool := false
  genNext : Nat := 0
  res : Nat := 0
  blob : Option Blob := none
deriving DecidableEq, Repr

/-- A lifted entry of a save image: ring, count, the entry as read, with its header and angle, and the input it holds. -/
structure SavedEntry where
  ring : Nat
  count : Nat
  res : Nat := 0
  slots : Bytes := []
  input : Bytes := []
deriving DecidableEq, Repr

/-- A save image: its header field by field (Table 12-8), its sections as they decrypt (Table 12-9) and its GCM tag. The IV is a number
whose most significant byte goes first. -/
structure SaveImage where
  magic : Nat := 0x4956584E
  format : Nat := 1
  function : Nat
  res07 : Nat := 0
  imageLen : Nat
  tenant : Nat
  mkId : Nat
  handleCounter : Nat
  sourceId : Nat := 0
  savedAt : Nat := 0
  quality : Nat := 0
  ringCount : Nat := 0
  resCount : Nat := 0
  keyCount : Nat := 0
  liftedCount : Nat := 0
  activeVersion : Nat := 0
  partBase : Nat := 0
  partSize : Nat := 0
  portScope : Nat := 0
  res52 : Nat := 0
  iv : Nat := 0
  res60 : Nat := 0
  rings : List SavedRing := []
  keys : List SavedKey := []
  reservations : List Reservation := []
  /-- sum of the reserved bytes of the reservation records -/
  resRes : Nat := 0
  lifted : List SavedEntry := []
  tag : Bytes := []
deriving DecidableEq, Repr

/-- What a start of the main domain meets (R660). -/
structure StartIn where
  /-- RTC cycles since the last command, while the main domain was off -/
  cycles : Nat := 0
  /-- address straps, where this start also starts the standby domain (R725) -/
  a0 : Bool := false
  a1 : Bool := false
  /-- which of the three copies of the life-cycle record verify (R625) -/
  copyOk : List Bool := [true, true, true]
  /-- power is lost again during this step of a wipe, after this many rounds of step 3 in this start -/
  wipeCut : Option (Nat × Nat) := none
  /-- alarms found by the checks of R600 and R612, in order: cause, source, DATA -/
  alarms : List (Nat × Nat × Nat) := []
  /-- self-test blocks that fail (R646) -/
  fails : List Nat := []
  /-- each slot reads back as the image stored (R667) -/
  fwOk0 : Bool := true
  fwOk1 : Bool := true
  /-- first INDEX at which the journal's MAC chain breaks (R616) -/
  badJournal : Option Nat := none
  /-- the random number unit passes its start-up test before keys are due -/
  rnuPass : Bool := true
  /-- logs whose open zone shows a torn record, with the unit offset at which valid records end (R268) -/
  torn : List (Nat × Nat) := []
  /-- vault images of which a copy fails: function, standby image, both copies (R271) -/
  badImages : List (Nat × Bool × Bool) := []
deriving DecidableEq, Repr

/-- What the module's own monitors measure: die temperature in °C, the 12 V and 3.3 V inputs in mV, and the power drawn from the
12 V input in 0.1 W over 100 ms (TM_SENSE, PWR_SUPPLY, PWR_INPUT_POWER). -/
structure Sense where
  dieTemp : Int := 0
  mainMv : Nat := 0
  standbyMv : Nat := 0
  power : Nat := 0
deriving DecidableEq, Repr

/-- A debug-port instruction under a token (R638, R641, R728): a read of the trace region or of SRAM by address and length, of
a performance counter, halt, step and release of a core, a scan access, and the factory writes of Table 16-1. -/
inductive DebugAct where
  | read (addr len : Nat)
  | perf (n : Nat)
  | halt (core : Nat)
  | step (core : Nat)
  | release (core : Nat)
  | scan
  | writeKey (key : Bytes)
  | writeDik (certificate : Bytes)
  | writeMesh (ohms : Nat)
deriving DecidableEq, Repr

/-- A message over DOE (R415): SPDM, which may open or close the secure session; or IDE_KM in it, which brings the link stream
(none) or a selective stream into or out of the Secure state. -/
inductive DoeMessage where
  | spdm (session : Option Bool)
  | ideKm (stream : Option Nat) (secure : Bool)
deriving DecidableEq, Repr

end Sys2Proof.Machine
end

