-- ==== Sys2Proof/Syntax.lean ====
section
/-! DEFINITION. The commands of the module: one constructor per row of the opcode table, with its operands. -/

namespace Sys2Proof

open Sys2Proof.Machine

inductive Instr where
  /-- POWER_GOOD_RISE (R660): 12 V power-good rises and the module starts from the boot ROM through self-test, restore and autonomous restart. -/
  | powerGoodRise (x : StartIn)
  /-- POWER_GOOD_FALL (R267): 12 V power-good falls and the hold-up runs the power-down sequence, writing staged records, POWER_DOWN and a FINAL checkpoint. -/
  | powerGoodFall
  /-- STANDBY_INPUT_LOSS (R659): The 3.3 V input falls while power-good holds; only the feed of the standby domain changes and STANDBY_LOST is set. -/
  | standbyInputLoss
  /-- SNOWDROP_ENTRY (R608): Both inputs are absent and only the internal cell powers the backup domain monitors and RTC. -/
  | snowdropEntry
  /-- RESET_N_ASSERT (R675): RESET_N held low for 10 µs or longer starts a module reset. -/
  | resetNAssert (held : Bool) (x : StartIn)
  /-- MODULE_RESET_REQUEST (R673): A write of 0x4E58 to HIF_RESET_CTRL orders a module reset, also while the PF is halted. -/
  | moduleResetRequest (value : Nat) (x : StartIn)
  /-- WATCHDOG_RESET (R677): The checkpoint, dispatch or start-up watchdog expires and starts a watchdog reset. -/
  | watchdogReset (cause : Nat) (final : Bool) (x : StartIn)
  /-- FORWARDING_BEGIN (R660): Pads are filled and the frame engine begins forwarding under the restored plans. -/
  | forwardingBegin (ms : Nat)
  /-- WARM_HOST_RESET (R452): PERST_N, a hot reset or DL_Down resets the host interface only, discarding host-side completions. -/
  | warmHostReset (perst : Bool)
  /-- FLR (R503): A function-level reset of a VF clears its host side and squashes or drains its accepted entries. -/
  | flr (f : Nat)
  /-- VF_REMOVAL (R498): Clearing VF Enable or lowering NumVFs handles each vanishing VF as for an FLR. -/
  | vfRemoval (fns : List Nat)
  /-- BUS_MASTER_ENABLE_SET (R455): Bus Master Enable set again lets held writes to host memory be made and fetching resume. -/
  | busMasterEnableSet (f : Nat)
  /-- D3HOT_TRANSITION (R679): A function enters or leaves D3hot and is treated as with Bus Master Enable 0 while there. -/
  | d3hotTransition (f : Nat) (enter : Bool)
  /-- MSIX_UNMASK (R444): Unmasking a vector with its pending bit set sends the one pending message. -/
  | msixUnmask (f : Nat) (vector : Option Nat)
  /-- IDE_STREAM_INSECURE (R415): An IDE stream leaves the Secure state and IDE_INSECURE is set. -/
  | ideStreamInsecure (stream : Option Nat)
  /-- PORT_LINK_CHANGE (R207): A port link goes up or down, discarding queued copies on loss and writing an event record. -/
  | portLinkChange (port : Nat) (up : Bool)
  /-- FRAME_RECEIVED (R140): A frame received on a port is checked at port level, matched and processed under its entry or sent to an exception queue. -/
  | frameReceived (fr : Frame) (ctrError : Bool)
  /-- COPY_TRANSMIT_START (R174): A port begins transmitting a copy, applies the late policy and judges its residence. -/
  | copyTransmitStart (port stamp : Nat)
  /-- COPY_DISCARD_TIMEOUT (R175): A copy not yet begun 1 ms after its ingress stamp is discarded and counted late. -/
  | copyDiscardTimeout (copy : Nat)
  /-- DRAIN_END (R126): 1 ms after a switch instant the old bank stops serving and the standby copy leaves DRAINING. -/
  | drainEnd (f : Nat)
  /-- LAN_DEAD_TIMEOUT (R217): No frame on a pair member for the dead interval declares it dead. -/
  | lanDeadTimeout (port : Nat)
  /-- DUP_SOURCE_FORGET (R215): A source silent for the forget time is removed from the duplicate-discard table. -/
  | dupSourceForget (pair src : Nat)
  /-- SUPERVISION_SEND (R211): Every 2 s the cores send PRP or HSR supervision frames on each pair. -/
  | supervisionSend
  /-- TICK (R68): At every whole microsecond of grid time the slot clock updates e and states and releases due delay-list items. -/
  | tick (ocxoTemp : Int) (sense : Sense)
  /-- PPS_EDGE (R38): A 1PPS input edge fixes the start of a grid second for that reference. -/
  | ppsEdge (offset : Int)
  /-- PPS_MISSING (R41): No 1PPS edge within 1.1 s of the previous one fails the reference. -/
  | ppsMissing
  /-- IRIGB_FRAME (R39): An IRIG-B frame is decoded, converted to TAI or discarded. -/
  | irigbFrame (f : IrigFrame)
  /-- TEN_MHZ_LOSS (R41): Loss of the 10 MHz input for 10 µs or a frequency error fails it. -/
  | tenMhzLoss (freq : Option Int)
  /-- PTP_MESSAGE_PROCESS (R60): A core processes a PTP message from the exception queue for the BMCA, port state machines, servo or transparent forwarding. -/
  | ptpMessageProcess (domain : Nat) (m : PtpMessage)
  /-- PTP_ANNOUNCE_TIMEOUT (R41): No Announce within three announce intervals fails PTP. -/
  | ptpAnnounceTimeout
  /-- PTP_SYNC_TIMEOUT (R41): No Sync within three sync intervals fails PTP. -/
  | ptpSyncTimeout
  /-- REFERENCE_FAILURE (R47): The selected reference fails and grid time enters HOLDOVER or switches to another qualified reference. -/
  | referenceFailure (r : Nat)
  /-- QUALIFICATION_COMPLETE (R43): A reference stable and agreeing for the qualification time becomes QUALIFIED. -/
  | qualificationComplete (r : Nat)
  /-- REFERENCE_SELECT (R46): At a grid second boundary the highest-ranked qualified reference is selected and adopted. -/
  | referenceSelect
  /-- OCXO_FAILED (R57): The OCXO is declared failed and grid time is carried on the reference PLL. -/
  | ocxoFailed (ppm : Nat)
  /-- CHECKPOINT (R246): At every grid second boundary the logs are frozen and a signed CHECKPOINT is appended. -/
  | checkpoint
  /-- ANGLE_COAST (R77): No usable sample for two nominal cycles puts the angle in COASTING. -/
  | angleCoast
  /-- ANGLE_LOST (R77): The coast limit passes or frequency leaves range and the angle becomes LOST. -/
  | angleLost
  /-- ANGLE_REACHED (R79): The interpolated angle reaches an activity's angle and the activity becomes due. -/
  | angleReached (ctx : Nat)
  /-- PLAN_SWITCH (R124): An armed switch or rollback instant is reached and the banks are swapped or the switch deferred. -/
  | planSwitch
  /-- DEFERRED_SWITCH (R80): A deferred switch takes effect at the first grid second boundary with valid time. -/
  | deferredSwitch
  /-- PARTITION_RELEASE_EFFECT (R90): At the named boundary both banks of the partition are cleared and the partition ceases. -/
  | partitionReleaseEffect (f : Nat)
  /-- ENTRY_RELOAD (R132): An entry with a memory error is reloaded from its vault image. -/
  | entryReload (f entry : Nat) (standby ok : Bool)
  /-- MATCH_STORE_REBUILD (R110): Match-store keys with a detected error are rebuilt from the banks. -/
  | matchStoreRebuild (entries : List (Nat × Bool)) (done : Bool)
  /-- DUAL_KEY_PAD_WINDOW (R158): From ROLL_AT − 1 ms to ROLL_AT + 1 ms pads are kept under both keys. -/
  | dualKeyPadWindow (entry : Nat)
  /-- ACCEPT_INTERVAL_OPEN (R310): At ROLL_AT − A the second freshness state for the other key starts empty. -/
  | acceptIntervalOpen (entry : Nat)
  /-- ACCEPT_INTERVAL_CLOSE (R310): At ROLL_AT + A the second freshness state is discarded. -/
  | acceptIntervalClose (entry : Nat)
  /-- PAD_REFILL (R164): The pad generator refills an entry's lookahead after its prediction state changes. -/
  | padRefill (entry : Nat)
  /-- KEY_LIFETIME_PASSED (R307): NOT_AFTER of a key named by an active entry passes and a KEY_EVENT record is written. -/
  | keyLifetimePassed (handle : Nat)
  /-- KEY_SLOT_REPAIR (R304): A key slot with a memory error is re-unwrapped from its vault blob or zeroed. -/
  | keySlotRepair (handle : Nat) (waiting : List Nat)
  /-- RECORD_APPEND (R237): A completed record is appended to its log with the next SEQ and chained. -/
  | recordAppend
  /-- SUMMARY_CLOSE (R244): A coalescing summary's interval ends and it is written as one SUMMARY record. -/
  | summaryClose (entry cause : Nat)
  /-- WINDOW_OPEN (R256): A capture window's start is reached and its open record is written. -/
  | windowOpen (number : Nat)
  /-- WINDOW_CLOSE (R257): A capture window's end is reached and its close record with counts is written. -/
  | windowClose (number : Nat)
  /-- BUDGET_HOUR_ROLL (R259): An RTC hour ends and the 720 hourly write counts move on. -/
  | budgetHourRoll
  /-- ZONE_RELEASE_ERASE (R279): Zones released by ARCHIVE_RELEASE are erased and returned to the reserve and pool. -/
  | zoneReleaseErase
  /-- MKA_EXCHANGE (R224): A core processes an MKA PDU, electing the key server and installing or distributing SAKs. -/
  | mkaExchange (port : Nat) (pdu : MkaPdu)
  /-- MKA_HELLO (R224): The MKA hello time expires and the port sends an MKPDU. -/
  | mkaHello (port : Nat)
  /-- MKA_LIFE_EXPIRY (R225): The live peer list empties after the MKA life time and the port's MACsec goes down. -/
  | mkaLifeExpiry (port : Nat)
  /-- PN_EXHAUSTED (R223): A transmit association reaches its last packet number and the port falls under MACSEC_FAIL. -/
  | pnExhausted (port : Nat)
  /-- GDOI_PUSH_RECEIVED (R330): A GROUPKEY-PUSH TEK is bound to a matching reservation or discarded. -/
  | gdoiPushReceived (f group ident kind : Nat) (material : Bytes) (notBefore notAfter : Nat)
  /-- GDOI_KDC_PUSH (R332): As key distribution centre the module pushes a TEK at its lead time before NOT_BEFORE. -/
  | gdoiKdcPush (handle : Nat)
  /-- PKE_OPERATION_START (R340): An engine starts its queued operation in the cycle after the previous one releases it. -/
  | pkeOperationStart (engine : Nat)
  /-- PKE_VALIDATION_END (R360): At V the validation ends, refusing the operation with slot memory zeroed or continuing. -/
  | pkeValidationEnd (engine : Nat)
  /-- PKE_OPERATION_FINISH (R364): Both runs are compared and equal outputs released, slot memory zeroed and the engine released. -/
  | pkeOperationFinish (engine : Nat) (upset : Bool)
  /-- PKE_ABORT (R368): An engine operation is aborted and its non-source slots zeroed before the abort is reported. -/
  | pkeAbort (engine cause : Nat)
  /-- PKE_ABORT_RELEASE (R369): After an abort report the source slots are zeroed and the engine released. -/
  | pkeAbortRelease (engine : Nat)
  /-- SETMOD (R345): Engine command binding a modulus context with its Montgomery constants. -/
  | pkeSetmod (engine : Nat) (c : PkeCmd)
  /-- LOADKEY (R345): Engine command loading a key material item into a slot. -/
  | pkeLoadkey (engine : Nat) (c : PkeCmd)
  /-- STORE (R345): Engine command storing a slot as a result item. -/
  | pkeStore (engine : Nat) (c : PkeCmd)
  /-- MMUL (R345): Engine command performing a Montgomery multiplication. -/
  | pkeMmul (engine : Nat) (c : PkeCmd)
  /-- MADD (R345): Engine command performing modular addition. -/
  | pkeMadd (engine : Nat) (c : PkeCmd)
  /-- MSUB (R345): Engine command performing modular subtraction. -/
  | pkeMsub (engine : Nat) (c : PkeCmd)
  /-- MAC (R345): Engine command performing an unreduced multiply-accumulate. -/
  | pkeMac (engine : Nat) (c : PkeCmd)
  /-- CSWAP (R345): Engine command conditionally swapping two slots in constant time. -/
  | pkeCswap (engine : Nat) (c : PkeCmd)
  /-- TSEL (R345): Engine command selecting one of sixteen slots by reading all. -/
  | pkeTsel (engine : Nat) (c : PkeCmd)
  /-- COPY (R345): Engine command copying one slot to another. -/
  | pkeCopy (engine : Nat) (c : PkeCmd)
  /-- SETC (R345): Engine command setting a slot to 0, 1, ρ or ρ² mod m. -/
  | pkeSetc (engine : Nat) (c : PkeCmd)
  /-- CHECK (R345): Engine command setting a validation flag for an operand out of range. -/
  | pkeCheck (engine : Nat) (c : PkeCmd)
  /-- PCHECK (R345): Engine command checking that a point lies on its curve. -/
  | pkePcheck (engine : Nat) (c : PkeCmd)
  /-- EQ (R345): Engine command setting a result flag on equality of two slots. -/
  | pkeEq (engine : Nat) (c : PkeCmd)
  /-- ENDV (R346): Engine command ending validation, stopping if any flag is set. -/
  | pkeEndv (engine : Nat) (c : PkeCmd)
  /-- REPEAT (R345): Engine command repeating the following commands a count of times. -/
  | pkeRepeat (engine : Nat) (c : PkeCmd)
  /-- END (R345): Engine command ending the main section. -/
  | pkeEnd (engine : Nat) (c : PkeCmd)
  /-- RNU_HEALTH_FAILURE (R396): A health or known-answer test fails, the unit zeroes its state and enters RESTARTING. -/
  | rnuHealthFailure (cause source : Nat) (startup : Bool) (taken : Bytes) (partly : List (Nat × Nat))
  /-- RNU_STARTUP_PASS (R388): A start-up test passes, the expander is instantiated and the unit enters READY. -/
  | rnuStartupPass
  /-- RNU_RESEED (R384): After 16 MiB or 1 s the expander is reseeded. -/
  | rnuReseed
  /-- BELLOWS_REFILL (R391): A drained 4 KB block of Bellows is refilled by a generate call. -/
  | bellowsRefill
  /-- BELLOWS_FLUSH (R394): A memory error in Bellows flushes and refills it. -/
  | bellowsFlush
  /-- EXPANDER_REINSTANTIATE (R395): An error in the expander state zeroes it and instantiates it from the next seed. -/
  | expanderReinstantiate
  /-- DOORBELL_WRITE (R429): A write to a ring doorbell sets D if accepted or halts the function. -/
  | doorbellWrite (f ring value : Nat)
  /-- ARBITRATION_ROUND (R433): The fetcher takes entries from eligible rings by weight and burst. -/
  | arbitrationRound (mem : List (Nat × Nat × Nat × RawEntry))
  /-- HEAD_ADVANCE (R440): A finished entry lets H advance over a contiguous finished run and the mirror is written. -/
  | headAdvance (f ring : Nat)
  /-- MODERATION_TIMER (R443): A ring's moderation timer expires and an MSI-X message is sent. -/
  | moderationTimer (f ring : Nat)
  /-- COMPLETE_BY_EXPIRY (R439): Grid time reaches COMPLETE_BY of an undispatched entry and it completes DEADLINE_MISSED or ENTROPY_NOT_READY. -/
  | completeByExpiry (ctx : Nat)
  /-- DATA_PORT_OPEN (R456): The next data-port operation is given the port and a transfer opens. -/
  | dataPortOpen (f : Nat) (out : Option Nat)
  /-- DATA_PORT_WRITE (R457): A write to the aperture delivers inbound bytes or ends the transfer for a protocol break. -/
  | dataPortWrite (f offset : Nat) (bytes : Bytes)
  /-- DATA_PORT_READ (R458): A read of the aperture returns outbound bytes and advances POS when it begins at POS. -/
  | dataPortRead (f offset len : Nat)
  /-- DATA_PORT_ABORT (R459): A write of ABORT to HIF_DP_CTRL ends the open transfer ABORTED. -/
  | dataPortAbort (f : Nat)
  /-- DATA_PORT_TIMEOUT (R459): No progress for DP_TIMEOUT seconds ends the transfer ABORTED. -/
  | dataPortTimeout (f : Nat)
  /-- RING_ENABLE (R418): Setting ENABLE in HIF_RING_CFG enables the ring or refuses it with a cause. -/
  | ringEnable (f ring cfg : Nat)
  /-- RING_DRAIN (R420): Clearing ENABLE makes the ring draining and squashes its unreleased delay-list entries. -/
  | ringDrain (f ring : Nat)
  /-- RING_INACTIVE (R420): H passes every accepted entry of a draining ring and it becomes inactive. -/
  | ringInactive (f ring : Nat)
  /-- WORK_DISPATCH (R526): A core asking for work is given the head item of a group with a new lease epoch. -/
  | workDispatch (core : Nat) (readError : Bool)
  /-- ITEM_COMMIT (R531): A work item's staged effects become visible at one epoch-guarded commit write. -/
  | itemCommit (core item epoch : Nat)
  /-- LEASE_EXPIRY (R532): A core's lease runs out, it is declared dead and its item re-dispatched. -/
  | leaseExpiry (core : Nat)
  /-- CORE_RESET_DONE (R534): A reset core reloads firmware and returns to service, with a journal entry. -/
  | coreResetDone (core : Nat)
  /-- CORE_MEMORY_ERROR (R535): A core local memory error resets the core and re-dispatches its item. -/
  | coreMemoryError (core : Nat)
  /-- QM_PACKET_BEGIN (R539): A producer declares a packet and the queue manager accepts or refuses it whole. -/
  | qmPacketBegin (queue port : Nat) (data : Bytes)
  /-- QM_READ (R541): A consumer reads one 64-byte tagged read unit or an idle unit. -/
  | qmRead (queue : Nat)
  /-- QM_DROP_REMAINDER (R542): The unread rest of the packet being read is discarded. -/
  | qmDropRemainder (queue : Nat)
  /-- DELAY_LIST_REBUILD (R551): A delay list with an error is rebuilt from the in-flight contexts. -/
  | delayListRebuild (list : Nat)
  /-- INTERNAL_ACCESS (R559): An internal access is split at 4 KB boundaries and each piece granted or denied. -/
  | internalAccess (a : Access)
  /-- AC_UPDATE_OPEN (R566): A privileged core opens an access-rule update and accesses of the masked groups are held. -/
  | acUpdateOpen (mask core epoch : Nat)
  /-- AC_UPDATE_CLOSE (R567): Closing the update swaps in the shadow table or fails and keeps the old rules. -/
  | acUpdateClose (writes : List RuleWrite)
  /-- AC_UPDATE_TIMEOUT (R568): An update not closed in 100 µs or whose core epoch is retired is aborted. -/
  | acUpdateTimeout
  /-- SCRUB_READ (R571): The scrubber reads a SRAM word, handling an error as an initiator read. -/
  | scrubRead (w : WordRead) (last : Bool)
  /-- MEMORY_ERROR (R572): A word fails its code and the region's recovery of Table 14-4 starts. -/
  | memoryError (w : WordRead)
  /-- BUS_INTEGRITY_ERROR (R583): A transfer with a bus integrity error is retried once, and fails with an alarm on a second error. -/
  | busIntegrityError (x : Access) (e : Option MemErr) (again : Bool)
  /-- TAMPER_ALARM (R588): A monitor detects a condition or event and raises its alarm, setting its latch and making a journal entry. -/
  | tamperAlarm (cause source data cycles : Nat)
  /-- QUENCH_W_PATH (R605): The Quench path gates and zeroes key cache, pads, contexts and core memories with read-back. -/
  | quenchWPath (failed : List (Nat × Nat)) (x : StartIn)
  /-- QUENCH_R_ERASE (R607): The backup domain zeroes all of BBKR and removes power from its cells. -/
  | quenchRErase
  /-- LIGHT_DISAGREE_TIMEOUT (R595): One light design reports and the other does not within 10 ms, raising LIGHT_DISAGREE. -/
  | lightDisagreeTimeout (designB : Bool) (elements cycles : Nat)
  /-- CELL_TEST (R599): The hourly cell test measures the cell under load and may raise CELL_LOW. -/
  | cellTest (mv cycles : Nat)
  /-- JOURNAL_OVERFLOW_HOUR (R602): At the end of an RTC hour one OVERFLOW entry counts alarms beyond 16 per cause. -/
  | journalOverflowHour
  /-- SNOWDROP_ALARM (R609): An alarm in Snowdrop zeroes BBKR and is written to the staging buffer. -/
  | snowdropAlarm (cause source data cycles : Nat)
  /-- RESTRICT_CLEAR (R619): CLEAR_HOLD is cleared at the first tick after CLEAR_RESTRICT is applied. -/
  | restrictClear
  /-- DEBUG_TOKEN_EXPIRY (R640): A debug token's DURATION ends and its group 13 grants are removed. -/
  | debugTokenExpiry
  /-- DEBUG_END (R640): A write of END to LCC_DEBUG_CTRL ends the token in force. -/
  | debugEnd
  /-- ROLLING_TEST_PERIOD (R648): At each PERIOD the next pipeline is taken out and tested. -/
  | rollingTestPeriod (sig : Option Nat)
  /-- FIRMWARE_TRIAL_COMMIT (R669): 300 s of forwarding without a watchdog reset commits the trial image and raises the floor. -/
  | firmwareTrialCommit
  /-- SETTING_STORE (R691): A class S register write is stored in the configuration store and takes effect. -/
  | settingStore
  /-- SETTING_TAKES_EFFECT (R699): A stored slot clock setting takes effect at the next tick or grid second boundary. -/
  | settingTakesEffect
  /-- REGISTER_WRITE (R692): A write to a register without a row of its own sets RW fields and acts on W1C, W1S and WO bits. -/
  | registerWrite (f offset len value : Nat) (x : StartIn)
  /-- STREAM_COUNTER_LATCH (R191): Writing LATCH to FE_STREAM_CTR_SEL latches an entry's counters at one tick and sets VALID. -/
  | streamCounterLatch (f entry : Nat) (error : Bool)
  /-- PORT_COUNTER_LATCH (R232): Writing LATCH to FE_PORT_CTR_SEL latches a port's counters and sets VALID. -/
  | portCounterLatch (port : Nat)
  /-- PORT_CFG_WRITE (R200): A write to FE_PORT_CFG changes port settings, refusing MODE beyond budget. -/
  | portCfgWrite (port value : Nat)
  /-- PAIR_CFG_WRITE (R211): A write to FE_PAIR_CFG changes the pair kind or is ignored with KIND_REFUSED. -/
  | pairCfgWrite (pair value : Nat)
  /-- LOOP_CFG_WRITE (R598): A write to TM_LOOP_CFG sets loop settings, ignoring loosening in Fielded. -/
  | loopCfgWrite (loop value : Nat)
  /-- CORE_GROUPS_WRITE (R553): A write to TS_CORE_GROUPS changes a core's groups or is ignored with CFG_REFUSED. -/
  | coreGroupsWrite (core value : Nat)
  /-- TEST_PATTERN_WRITE (R405): Setting or clearing the RNU test pattern flushes Bellows and reruns the start-up test. -/
  | testPatternWrite (value : Nat)
  /-- RING_ZONES_WRITE (R253): A write to ARC_RING_ZONES resizes the capture ring at once. -/
  | ringZonesWrite (value : Nat)
  /-- REF_PRIORITY_WRITE (R700): A change of the reference priority list disables, adds or reorders references. -/
  | refPriorityWrite (value : Nat)
  /-- PTP_CFG_WRITE (R701): A change of PTP profile or domain restarts the ports and fails PTP at a grid second. -/
  | ptpCfgWrite (value : Nat)
  /-- TEN_MHZ_CFG_WRITE (R702): Enabling, disabling or changing the 10 MHz aid affects holdover. -/
  | tenMhzCfgWrite (value : Nat)
  /-- REF_CHANNEL_WRITE (R703): A change of the designated reference channel restarts tracking at a grid second. -/
  | refChannelWrite (value : Nat)
  /-- DENY_RECORD_READ (R695): A read of AC_DENY_RECORD0 returns and clears the deny record. -/
  | denyRecordRead
  /-- SMBUS_IDENTITY (R723): SMBus Block Read command 0x00 returns the identity record. -/
  | smbusIdentity (address : Nat)
  /-- SMBUS_ENVIRONMENT (R723): SMBus Block Read command 0x01 returns supply, temperature and cell readings. -/
  | smbusEnvironment (address : Nat)
  /-- SMBUS_STATUS (R723): SMBus Block Read command 0x02 returns start phase, level, time state and alert causes. -/
  | smbusStatus (address : Nat)
  /-- SMBUS_ALERT_RESPONSE (R726): A read of the Alert Response Address returns the address and clears the alert causes. -/
  | smbusAlertResponse
  /-- JTAG_IDCODE (R728): The debug port IDCODE instruction returns 0xB0880E95. -/
  | jtagIdcode
  /-- JTAG_BYPASS (R728): Any other debug instruction without a granting token acts as BYPASS. -/
  | jtagBypass
  /-- PAD (R432): A PAD entry is finished at fetch with status OK and no output. -/
  | pad (f ring len : Nat)
  /-- NOP (R462): NOP completes OK and does nothing. -/
  | nop (q : Call)
  /-- KEY_LOAD (R299): A blob is checked and unwrapped into key-cache slots, optionally stored in the vault. -/
  | keyLoad (q : Call) (vault : Bool) (b : Blob)
  /-- KEY_UNLOAD (R302): A loaded key's slots are zeroed and freed unless pinned. -/
  | keyUnload (q : Call) (handle : Nat)
  /-- KEY_GENERATE (R299): A new key is generated, sealed in a blob and optionally loaded. -/
  | keyGenerate (q : Call) (kind flags keyLen usage ident group notBefore notAfter : Nat)
  /-- KEY_BLOB_READ (R305): The current blob of a loaded key is returned. -/
  | keyBlobRead (q : Call) (handle : Nat)
  /-- KEY_VAULT_STORE (R305): A loaded key's blob is written to the function's vault sectors. -/
  | keyVaultStore (q : Call) (handle : Nat)
  /-- KEY_VAULT_DELETE (R305): A key's blob is removed from the vault unless named with VAULT. -/
  | keyVaultDelete (q : Call) (handle : Nat)
  /-- KEY_RESERVE (R330): A handle is reserved for a future GDOI TEK. -/
  | keyReserve (q : Call) (kind : Nat) (vault : Bool) (usage ident group : Nat)
  /-- KEY_RESERVE_CANCEL (R330): An open reservation is cancelled. -/
  | keyReserveCancel (q : Call) (handle : Nat)
  /-- KEY_ATTEST (R328): A signed attestation statement for a loaded key is returned. -/
  | keyAttest (q : Call) (handle : Nat) (challenge : Bytes)
  /-- DEVICE_ATTEST (R327): A DIK-signed statement for the device, archive or transport key is returned. -/
  | deviceAttest (q : Call) (kind : Nat) (challenge : Bytes)
  /-- TEMPER_APPLY (R320): A Temper message is checked and applied whole or refused. -/
  | temperApply (q : Call) (m : TemperMsg)
  /-- HASH (R474): The digest of the input is written. -/
  | hash (q : Call) (alg : Nat) (input : Bytes)
  /-- MAC_GENERATE (R474): A MAC tag is computed under a key with usage MAC. -/
  | macGenerate (q : Call) (handle alg tagLen iv : Nat) (input : Bytes)
  /-- MAC_VERIFY (R474): A MAC tag is compared in constant time with the verdict in DETAIL. -/
  | macVerify (q : Call) (handle alg tagLen iv : Nat) (tag input : Bytes)
  /-- AEAD_ENCRYPT (R474): AAD and plaintext are sealed with AES-GCM. -/
  | aeadEncrypt (q : Call) (handle tagLen : Nat) (genIv : Bool) (iv aadLen : Nat) (input : Bytes)
  /-- AEAD_DECRYPT (R475): The tag is checked first and only then the ciphertext decrypted. -/
  | aeadDecrypt (q : Call) (handle tagLen : Nat) (genIv : Bool) (iv aadLen : Nat) (input : Bytes)
  /-- ECDSA_SIGN (R350): An ECDSA signature is computed over a digest or message. -/
  | ecdsaSign (q : Call) (handle : Nat) (message : Bool) (input : Bytes)
  /-- ECDSA_VERIFY (R476): An ECDSA signature is verified with the verdict in DETAIL. -/
  | ecdsaVerify (q : Call) (curve : Nat) (message : Bool) (input : Bytes)
  /-- EDDSA_SIGN (R351): An Ed25519 signature is computed over a message. -/
  | eddsaSign (q : Call) (handle : Nat) (input : Bytes)
  /-- EDDSA_VERIFY (R351): An Ed25519 signature is verified with the cofactored equation. -/
  | eddsaVerify (q : Call) (input : Bytes)
  /-- KEY_AGREE (R352): ECDH or X25519 computes a shared secret with a peer key. -/
  | keyAgree (q : Call) (handle : Nat) (input : Bytes)
  /-- RSA_SIGN (R353): An RSA signature with blinding and padding is computed. -/
  | rsaSign (q : Call) (handle pad hash salt : Nat) (input : Bytes)
  /-- RSA_DECRYPT (R353): An RSA OAEP ciphertext is decrypted in constant time. -/
  | rsaDecrypt (q : Call) (handle pad hash salt : Nat) (input : Bytes)
  /-- RSA_VERIFY (R354): An RSA signature is verified under a supplied public key. -/
  | rsaVerify (q : Call) (len pad hash salt : Nat) (input : Bytes)
  /-- RSA_ENCRYPT (R477): A message is OAEP-encrypted under a supplied public key. -/
  | rsaEncrypt (q : Call) (len pad hash salt : Nat) (input : Bytes)
  /-- POINT_VALIDATE (R359): A point is checked against its curve. -/
  | pointValidate (q : Call) (curve : Nat) (input : Bytes)
  /-- CURVE_LOAD (R372): A curve parameter set is checked and loaded for the function. -/
  | curveLoad (q : Call) (input : Bytes)
  /-- CURVE_UNLOAD (R370): A loaded curve is removed. -/
  | curveUnload (q : Call) (curve : Nat)
  /-- SEQUENCE (R373): A host-supplied engine sequence is run twice on supplied values. -/
  | sequence (q : Call) (block input : Bytes)
  /-- TLS_OPEN (R478): A TLS session is opened for the function. -/
  | tlsOpen (q : Call) (handle role versions : Nat) (requirePeer : Bool) (cert : Bytes)
  /-- TLS_HANDSHAKE (R479): Received handshake records are processed and records to send returned. -/
  | tlsHandshake (q : Call) (session : Nat) (x : TlsStep)
  /-- TLS_SEAL (R478): Plaintext is sealed into one TLS record. -/
  | tlsSeal (q : Call) (session typ : Nat) (input : Bytes)
  /-- TLS_UNSEAL (R480): One TLS record is opened, closing the session on a tag failure. -/
  | tlsUnseal (q : Call) (session : Nat) (input : Bytes)
  /-- TLS_CLOSE (R478): A TLS session is closed. -/
  | tlsClose (q : Call) (session : Nat)
  /-- TLS_PEER_CERT (R479): The peer's certificate list is returned. -/
  | tlsPeerCert (q : Call) (session : Nat)
  /-- RANDOM_BYTES (R481): The output position and requested random bytes are written. -/
  | randomBytes (q : Call) (length : Nat)
  /-- ENTROPY_RESTART (R409): A unit in FAULT begins a new series of start-up attempts. -/
  | entropyRestart (q : Call)
  /-- RAW_SAMPLES (R410): Raw noise samples are returned in the Maker state. -/
  | rawSamples (q : Call) (source count : Nat)
  /-- PLAN_LOAD (R113): A plan image is received, checked and written into the standby bank. -/
  | planLoad (q : Call) (length : Nat) (image : Option PlanImage)
  /-- PLAN_ACTIVATE (R746): A loaded standby version is checked and armed for a switch instant. -/
  | planActivate (q : Call) (second rate slot : Nat)
  /-- PLAN_ROLLBACK (R746): The previous version is checked and armed for a rollback instant. -/
  | planRollback (q : Call) (second rate slot : Nat)
  /-- PLAN_CANCEL (R483): An armed switch or rollback is cancelled. -/
  | planCancel (q : Call)
  /-- PLAN_READ (R483): The image of the active or standby copy is returned through the data port. -/
  | planRead (q : Call) (copy : Nat)
  /-- PARTITION_ASSIGN (R89): The PF assigns a partition to a function. -/
  | partitionAssign (q : Call) (fn base size : Nat)
  /-- PARTITION_RELEASE (R90): The PF schedules the release of a function's partition at a boundary. -/
  | partitionRelease (q : Call) (fn second : Nat)
  /-- COUNTER_READ (R484): Counter records of a range of entries are written to host memory. -/
  | counterRead (q : Call) (first count : Nat)
  /-- COUNTER_SNAPSHOT (R485): Counters of a range are latched at a tick and written to Anvil. -/
  | counterSnapshot (q : Call) (first count : Nat)
  /-- ARCHIVE_READ (R272): A verbatim or filtered archive readout is delivered through the data port. -/
  | archiveRead (q : Call) (spec : ReadSpec)
  /-- CAPTURE_WINDOW (R255): A capture window is scheduled for a group. -/
  | captureWindow (q : Call) (group start finish : Nat)
  /-- ARCHIVE_RELEASE (R279): An authorised request releases old archive zones after RELEASE and checkpoint records. -/
  | archiveRelease (q : Call) (auth : AuthReq)
  /-- JOURNAL_READ (R488): An authorised request returns tamper journal entries through the data port. -/
  | journalRead (q : Call) (auth : AuthReq)
  /-- TIME_STEP (R489): An authorised request steps grid time to a named reference. -/
  | timeStep (q : Call) (auth : AuthReq)
  /-- TIMED_PUBLISH (R490): A prepared frame is injected at its due tick or angle and processed under its entry. -/
  | timedPublish (q : Call) (entry port : Nat) (frame : Frame)
  /-- LIFECYCLE_REQUEST (R627): An authorised request records or cancels a pending life-cycle transition. -/
  | lifecycleRequest (q : Call) (auth : AuthReq)
  /-- DEBUG_AUTHORISE (R640): A debug token is checked and grants its scopes to group 13. -/
  | debugAuthorise (q : Call) (t : DebugToken)
  /-- SELF_TEST_RUN (R643): One self-test block is freed, tested and its signature returned. -/
  | selfTestRun (q : Call) (block : Nat) (sig : Option Nat) (partly : List (Nat × Nat))
  /-- ROLLING_TEST (R648): The rolling self-test of the pipelines is started, retimed or stopped. -/
  | rollingTest (q : Call) (mode period : Nat)
  /-- MODULE_INFO (R462): The module information record is returned. -/
  | moduleInfo (q : Call)
  /-- PORT_MACSEC_SET (R224): A port's key-server priority, replay window and CAK are set. -/
  | portMacsecSet (q : Call) (port priority replay cak : Nat)
  /-- PORT_MACSEC_GET (R224): A port's MACsec settings and state are returned. -/
  | portMacsecGet (q : Call) (port : Nat)
  /-- IDE_REQUIRED_SET (R492): An authorised request writes IDE_REQUIRED. -/
  | ideRequiredSet (q : Call) (auth : AuthReq)
  /-- CONFIG_SELECT (R682): The full or Lupin configuration is selected for the next start. -/
  | configSelect (q : Call) (config : Nat)
  /-- FIRMWARE_LOAD (R670): A firmware image is written into a slot through the data port and verified. -/
  | firmwareLoad (q : Call) (length slot : Nat) (image : Option FwImage)
  /-- FIRMWARE_SELECT (R671): A valid slot is made the trial for the next start, or a pending trial cancelled. -/
  | firmwareSelect (q : Call) (slot : Nat)
  /-- VF_SETUP (R496): A VF's rings, contexts, key slots, delay entries and port scope are replaced. -/
  | vfSetup (q : Call) (fn rings scope ctxs slots delays : Nat)
  /-- VF_FREEZE (R508): A VF's fetching stops, undispatched entries are squashed and delay-list entries lifted. -/
  | vfFreeze (q : Call) (fn : Nat)
  /-- VF_SAVE (R510): A frozen VF's save image is sealed and delivered through the PF data port. -/
  | vfSave (q : Call) (fn : Nat)
  /-- VF_RESTORE (R514): A save image is checked and applied to the target VF, which becomes RESTORED. -/
  | vfRestore (q : Call) (fn length : Nat) (image : SaveImage)
  /-- VF_THAW (R517): Lifted entries return to delay lists and fetching resumes. -/
  | vfThaw (q : Call) (fn : Nat)
  /-- PTP_MESSAGE_TRANSMIT (R59): At each sync, announce or Pdelay_Req interval a PTP port sends its Sync, Follow_Up, Announce with the clockClass of Table 02-7, or Pdelay_Req. -/
  | ptpMessageTransmit (port : Nat) (what : PtpSend)
  /-- IRIGB_FRAME_MISSING (R41): An expected IRIG-B frame does not arrive and counts towards the three consecutive missing frames that fail the reference. -/
  | irigbFrameMissing
  /-- DUAL_KEY_PAD_WINDOW_END (R158): At ROLL_AT + 1 ms the outgoing key's pads are discarded and zeroed and the full single-key lookahead is restored. -/
  | dualKeyPadWindowEnd (entry : Nat)
  /-- RESET_N_RELEASE (R675): The rising edge of RESET_N held low ends the hold in reset and starts the module from Table 17-2. -/
  | resetNRelease (x : StartIn)
  /-- PERST_N_DEASSERT (R665): PERST_N is deasserted and the host interface begins link training until the PCIe link comes up. -/
  | perstNDeassert
  /-- BUS_MASTER_ENABLE_CLEAR (R455): Clearing a function's Bus Master Enable stops fetching for it and holds its writes to host memory in order. -/
  | busMasterEnableClear (f : Nat)
  /-- SPDM_DOE_EXCHANGE (R415): An SPDM or IDE_KM message over DOE is answered, authenticating with the DIK and bringing IDE streams into the Secure state. -/
  | spdmDoeExchange (m : DoeMessage)
  /-- STANDBY_INPUT_RETURN (R655): The 3.3 V input becomes present again, feeding the standby and backup domains, waking the standby monitors and SMBus and reading the address straps. -/
  | standbyInputReturn (a0 a1 : Bool)
  /-- SUPPLY_OUT_OF_RANGE (R657): The 12 V input leaves its operating range while power-good holds and SUPPLY_WARN is set without an alarm. -/
  | supplyOutOfRange (mv : Nat)
  /-- BACKUP_POWER_LOSS (R613): The internal cell is exhausted in Snowdrop and the backup domain loses BBKR, the staging buffer and the RTC. -/
  | backupPowerLoss
  /-- ALARM_CONDITION_ABSENT (R592): A monitor stops reporting a tamper condition, clearing its TM_PRESENT bit so that a later onset makes a new journal entry and CLEAR_RESTRICT or REPROVISION is no longer refused for it. -/
  | alarmConditionAbsent (cause source : Nat)
  /-- DEBUG_PORT_ACCESS (R638): A debug-port instruction under a token in force performs its granted scope: trace reads, core halt and release, SRAM reads, scan, or the MANUFACTURE writes of integrator keys, DIK certificate and mesh resistance. -/
  | debugPortAccess (a : DebugAct)
  /-- SPLIT_REGISTER_READ (R693): A 4-byte read of the low half of an unlatched 64-bit register captures the whole value for a following high-half read. -/
  | splitRegisterRead (f offset len : Nat)
deriving DecidableEq, Repr

end Sys2Proof
end

