-- ==== Sys2Proof/Machine/Operands.lean ====
section
/-! DEFINITION. Forms of operands: stamps (R62, R63), slot instants (R71, R119) and the fields of numbers. -/

namespace Sys2Proof.Machine

/-- Nanoseconds in a second. -/
def nsPerSec : Nat := 1000000000

/-- A stamp is valid when its nanosecond field is below 10^9 (R63). -/
def stampValid (raw : Nat) : Bool := decide (raw % 2 ^ 30 < nsPerSec) && decide (raw < 2 ^ 64)

/-- Grid time of a stamp in ns (R62). -/
def stampNs (raw : Nat) : Nat := raw / 2 ^ 30 % 2 ^ 34 * nsPerSec + raw % 2 ^ 30

/-- The stamp of a grid time in ns (R62). -/
def toStamp (ns : Nat) : Nat := ns / nsPerSec % 2 ^ 34 * 2 ^ 30 + ns % nsPerSec

/-- The first tick at or after a grid time (R68). -/
def tickAt (ns : Nat) : Nat := (ns + 999) / 1000 * 1000

/-- The first grid second boundary at or after a grid time. -/
def secondAt (ns : Nat) : Nat := (ns + (nsPerSec - 1)) / nsPerSec * nsPerSec

/-- Is this grid time a grid second boundary? -/
def isSecond (ns : Nat) : Bool := ns % nsPerSec == 0

/-- Sampling rate of a slot rate code (Table 03-11); 0 for none or unknown. -/
def slotFs : Nat → Nat
  | 1 => 4000
  | 2 => 4800
  | 3 => 12800
  | 4 => 14400
  | 5 => 15360
  | 6 => 96000
  | _ => 0

/-- Slot of a nanosecond field at rate fs (R71). -/
def slotOf (ns fs : Nat) : Nat := ns % nsPerSec * fs / nsPerSec

/-- Nanoseconds into the second at which slot n begins (R71). -/
def slotStart (n fs : Nat) : Nat := (n * nsPerSec + (fs - 1)) / fs

/-- The instant named by second S, rate code r and slot n (R119); none where they form no instant. -/
def instantOf (sec r n : Nat) : Option Nat :=
  if sec ≥ 2 ^ 34 then none
  else if r = 0 then (if n = 0 then some (sec * nsPerSec) else none)
  else if slotFs r = 0 then none
  else if n < slotFs r then some (sec * nsPerSec + slotStart n (slotFs r)) else none

/-- Signed distance d of the slot-window check (R72). -/
def slotDistance (c s o fs : Nat) : Int :=
  let d : Int := ((c : Int) - s + o) % fs
  if 2 * d ≥ fs then d - fs else d

/-- Two's complement of an integer in w bits, saturating (SCK_REF_OFFSET). -/
def satSigned (w : Nat) (x : Int) : Nat :=
  let m : Int := 2 ^ (w - 1)
  let y := if x ≥ m then m - 1 else if x < -m then -m else x
  if y < 0 then (y + 2 ^ w).toNat else y.toNat

/-- The larger of saturation limit and value. -/
def satTo (limit x : Nat) : Nat := if x > limit then limit else x

/-- Largest value of a 32-bit saturating counter. -/
def max32 : Nat := 2 ^ 32 - 1

/-- Largest value of a 64-bit saturating counter. -/
def max64 : Nat := 2 ^ 64 - 1

/-- Byte i of a 12-byte string held as a number, first byte most significant. -/
def byteOf12 (n i : Nat) : Nat := n / 2 ^ (8 * (11 - i)) % 256

/-- The n low bytes of a value, least significant first (R13). -/
def leBytes : (n v : Nat) → Bytes
  | 0, _ => []
  | n + 1, v => BitVec.ofNat 8 v :: leBytes n (v / 256)

/-- Replace field [hi:lo] of a word by a value. -/
def setField (w hi lo v : Nat) : Nat :=
  let m := 2 ^ (hi + 1 - lo)
  w - (w / 2 ^ lo % m) * 2 ^ lo + (v % m) * 2 ^ lo

/-- Add to element i of a list of saturating 64-bit counters of length n. -/
def bumpAt (n i k : Nat) (l : List Nat) : List Nat :=
  match n with
  | 0 => []
  | n + 1 =>
    match i with
    | 0 => satTo max64 (l.headD 0 + k) :: (l.drop 1)
    | i + 1 => l.headD 0 :: bumpAt n i k (l.drop 1)

/-- Element i of a list of counters, 0 beyond its end. -/
def ctrAt (i : Nat) (l : List Nat) : Nat := l.getD i 0

end Sys2Proof.Machine
end

