-- ==== Sys2Proof/Machine/Prim.lean ====
section
/-! DEFINITION. The primitives that the spec names by their standards: the compression functions of the SHA-2 family (FIPS 180-4), the
AES permutation (FIPS 197) and AES Key Wrap (RFC 3394). PRESUMED: their tables and steps are the standards', which the spec names and
does not repeat. -/

namespace Sys2Proof.Machine

/-! ### SHA-256 (FIPS 180-4) -/

/-- The 64 round constants. -/
def sha256K : List Nat :=
  [0x428A2F98, 0x71374491, 0xB5C0FBCF, 0xE9B5DBA5, 0x3956C25B, 0x59F111F1, 0x923F82A4, 0xAB1C5ED5]
    ++ [0xD807AA98, 0x12835B01, 0x243185BE, 0x550C7DC3, 0x72BE5D74, 0x80DEB1FE, 0x9BDC06A7, 0xC19BF174]
    ++ [0xE49B69C1, 0xEFBE4786, 0x0FC19DC6, 0x240CA1CC, 0x2DE92C6F, 0x4A7484AA, 0x5CB0A9DC, 0x76F988DA]
    ++ [0x983E5152, 0xA831C66D, 0xB00327C8, 0xBF597FC7, 0xC6E00BF3, 0xD5A79147, 0x06CA6351, 0x14292967]
    ++ [0x27B70A85, 0x2E1B2138, 0x4D2C6DFC, 0x53380D13, 0x650A7354, 0x766A0ABB, 0x81C2C92E, 0x92722C85]
    ++ [0xA2BFE8A1, 0xA81A664B, 0xC24B8B70, 0xC76C51A3, 0xD192E819, 0xD6990624, 0xF40E3585, 0x106AA070]
    ++ [0x19A4C116, 0x1E376C08, 0x2748774C, 0x34B0BCB5, 0x391C0CB3, 0x4ED8AA4A, 0x5B9CCA4F, 0x682E6FF3]
    ++ [0x748F82EE, 0x78A5636F, 0x84C87814, 0x8CC70208, 0x90BEFFFA, 0xA4506CEB, 0xBEF9A3F7, 0xC67178F2]

/-- The eight working words of a compression. -/
structure ShaRegs (n : Nat) where
  a : BitVec n
  b : BitVec n
  c : BitVec n
  d : BitVec n
  e : BitVec n
  f : BitVec n
  g : BitVec n
  h : BitVec n
deriving DecidableEq, Repr

/-- Word `i` of a value of `k` words, most significant first. -/
def wordOf (n k : Nat) {m : Nat} (x : BitVec m) (i : Nat) : BitVec n := BitVec.ofNat n (x.toNat >>> (n * (k - 1 - i)))

/-- Words of a value as working words, and back. -/
def ShaRegs.ofBits {n m : Nat} (x : BitVec m) : ShaRegs n :=
  { a := wordOf n 8 x 0, b := wordOf n 8 x 1, c := wordOf n 8 x 2, d := wordOf n 8 x 3,
    e := wordOf n 8 x 4, f := wordOf n 8 x 5, g := wordOf n 8 x 6, h := wordOf n 8 x 7 }
def ShaRegs.bits {n : Nat} (m : Nat) (r : ShaRegs n) : BitVec m :=
  BitVec.ofNat m ([r.a, r.b, r.c, r.d, r.e, r.f, r.g, r.h].foldl (fun v x => v * 2 ^ n + x.toNat) 0)

/-- Sum word by word. -/
def ShaRegs.add {n : Nat} (r q : ShaRegs n) : ShaRegs n :=
  { a := r.a + q.a, b := r.b + q.b, c := r.c + q.c, d := r.d + q.d, e := r.e + q.e, f := r.f + q.f, g := r.g + q.g, h := r.h + q.h }

/-- Exclusive-or of three rotations; with `s` the third is a shift. -/
def rot3 {n : Nat} (x : BitVec n) (i j k : Nat) (s : Bool) : BitVec n :=
  x.rotateRight i ^^^ x.rotateRight j ^^^ (if s then x >>> k else x.rotateRight k)

/-- Rotation counts of a family: Σ0, Σ1, σ0 and σ1. -/
structure ShaRot where
  s0 : Nat × Nat × Nat
  s1 : Nat × Nat × Nat
  l0 : Nat × Nat × Nat
  l1 : Nat × Nat × Nat
def sha256Rot : ShaRot := { s0 := (2, 13, 22), s1 := (6, 11, 25), l0 := (7, 18, 3), l1 := (17, 19, 10) }
def sha512Rot : ShaRot := { s0 := (28, 34, 39), s1 := (14, 18, 41), l0 := (1, 8, 7), l1 := (19, 61, 6) }

/-- One round with a round constant and a word of the schedule. -/
def shaRound {n : Nat} (t : ShaRot) (r : ShaRegs n) (k w : BitVec n) : ShaRegs n :=
  let x := r.h + rot3 r.e t.s1.1 t.s1.2.1 t.s1.2.2 false + ((r.e &&& r.f) ^^^ (~~~r.e &&& r.g)) + k + w
  let y := rot3 r.a t.s0.1 t.s0.2.1 t.s0.2.2 false + ((r.a &&& r.b) ^^^ (r.a &&& r.c) ^^^ (r.b &&& r.c))
  { a := x + y, b := r.a, c := r.b, d := r.c, e := r.d + x, f := r.e, g := r.f, h := r.g }

/-- Run the rounds: `w` is the window of the next sixteen words of the schedule. -/
def shaRounds {n : Nat} (t : ShaRot) : (k : List Nat) → (w : List (BitVec n)) → ShaRegs n → ShaRegs n
  | [], _, r => r
  | k :: ks, w, r =>
    let new := rot3 (w.getD 14 0) t.l1.1 t.l1.2.1 t.l1.2.2 true + w.getD 9 0
      + rot3 (w.getD 1 0) t.l0.1 t.l0.2.1 t.l0.2.2 true + w.headD 0
    shaRounds t ks (w.drop 1 ++ [new]) (shaRound t r (BitVec.ofNat n k) (w.headD 0))

/-- A compression: chaining value and block. -/
def shaBlock {m q : Nat} (n : Nat) (t : ShaRot) (k : List Nat) (mid : BitVec m) (block : BitVec q) : BitVec m :=
  let r : ShaRegs n := .ofBits mid
  (r.add (shaRounds t k ((List.range 16).map (wordOf n 16 block)) r)).bits m

/-- The SHA-256 compression function. -/
def sha256Block (mid : BitVec 256) (block : BitVec 512) : BitVec 256 := shaBlock 32 sha256Rot sha256K mid block

/-! ### SHA-384 and SHA-512 (FIPS 180-4) -/

/-- The 80 round constants. -/
def sha512K : List Nat :=
  [0x428A2F98D728AE22, 0x7137449123EF65CD, 0xB5C0FBCFEC4D3B2F, 0xE9B5DBA58189DBBC]
    ++ [0x3956C25BF348B538, 0x59F111F1B605D019, 0x923F82A4AF194F9B, 0xAB1C5ED5DA6D8118]
    ++ [0xD807AA98A3030242, 0x12835B0145706FBE, 0x243185BE4EE4B28C, 0x550C7DC3D5FFB4E2]
    ++ [0x72BE5D74F27B896F, 0x80DEB1FE3B1696B1, 0x9BDC06A725C71235, 0xC19BF174CF692694]
    ++ [0xE49B69C19EF14AD2, 0xEFBE4786384F25E3, 0x0FC19DC68B8CD5B5, 0x240CA1CC77AC9C65]
    ++ [0x2DE92C6F592B0275, 0x4A7484AA6EA6E483, 0x5CB0A9DCBD41FBD4, 0x76F988DA831153B5]
    ++ [0x983E5152EE66DFAB, 0xA831C66D2DB43210, 0xB00327C898FB213F, 0xBF597FC7BEEF0EE4]
    ++ [0xC6E00BF33DA88FC2, 0xD5A79147930AA725, 0x06CA6351E003826F, 0x142929670A0E6E70]
    ++ [0x27B70A8546D22FFC, 0x2E1B21385C26C926, 0x4D2C6DFC5AC42AED, 0x53380D139D95B3DF]
    ++ [0x650A73548BAF63DE, 0x766A0ABB3C77B2A8, 0x81C2C92E47EDAEE6, 0x92722C851482353B]
    ++ [0xA2BFE8A14CF10364, 0xA81A664BBC423001, 0xC24B8B70D0F89791, 0xC76C51A30654BE30]
    ++ [0xD192E819D6EF5218, 0xD69906245565A910, 0xF40E35855771202A, 0x106AA07032BBD1B8]
    ++ [0x19A4C116B8D2D0C8, 0x1E376C085141AB53, 0x2748774CDF8EEB99, 0x34B0BCB5E19B48A8]
    ++ [0x391C0CB3C5C95A63, 0x4ED8AA4AE3418ACB, 0x5B9CCA4F7763E373, 0x682E6FF3D6B2B8A3]
    ++ [0x748F82EE5DEFB2FC, 0x78A5636F43172F60, 0x84C87814A1F0AB72, 0x8CC702081A6439EC]
    ++ [0x90BEFFFA23631E28, 0xA4506CEBDE82BDE9, 0xBEF9A3F7B2C67915, 0xC67178F2E372532B]
    ++ [0xCA273ECEEA26619C, 0xD186B8C721C0C207, 0xEADA7DD6CDE0EB1E, 0xF57D4F7FEE6ED178]
    ++ [0x06F067AA72176FBA, 0x0A637DC5A2C898A6, 0x113F9804BEF90DAE, 0x1B710B35131C471B]
    ++ [0x28DB77F523047D84, 0x32CAAB7B40C72493, 0x3C9EBE0A15C9BEBC, 0x431D67C49C100D4C]
    ++ [0x4CC5D4BECB3E42B6, 0x597F299CFC657E2A, 0x5FCB6FAB3AD6FAEC, 0x6C44198C4A475817]

/-- The compression function of SHA-384 and SHA-512. -/
def sha512Block (mid : BitVec 512) (block : BitVec 1024) : BitVec 512 := shaBlock 64 sha512Rot sha512K mid block

/-! ### AES (FIPS 197) -/

/-- The S-box and its inverse, 32 bytes a number, byte j in bits 8j + 7 to 8j. -/
def aesBox : List Nat :=
  [0xC072A49CAFA2D4ADF04759FA7DC982CA76ABD7FE2B670130C56F6BF27B777C63, 0x75B227EBE28012079A059618C323C7041531D871F1E5A534CCF73F362693FDB7]
    ++ [0xCF584C4A39BECB6A5BB1FC20ED00D153842FE329B3D63B52A05A6E1B1A2C8309, 0xD2F3FF1021DAB6BCF5389D928F40A351A89F3C507F02F94585334D43FBAAEFD0]
    ++ [0xDB0B5EDE14B8EE4688902A22DC4F816073195D643D7EA7C41744975FEC130CCD, 0x08AE7A65EAF4566CA94ED58D6D37C8E779E4959162ACD3C25C2406490A3A32E0]
    ++ [0x9E1DC186B95735610EF6034866B53E708A8BBD4B1F74DDE8C6B4A61C2E2578BA, 0x16BB54B00F2D99416842E6BF0D89A18CDF2855CEE9871E9B948ED9691198F8E1]
def aesInvBox : List Nat :=
  [0xCBE9DEC444438E3487FF2F9B8239E37CFBD7F3819EA340BF38A53630D56A0952, 0x25D18B6D49A25B76B224D92866A12E084EC3FA420B954CEE3D23C2A632947B54]
    ++ [0x849D8DA75746155EDAB9EDFD5048706C92B6655DCC5CA4D41698688664F6F872, 0x6B8A130103BDAFC1020F3FCA8F1E2CD00645B3B80558E4F70AD3BC8C00ABD890]
    ++ [0x6EDF751CE837F9E28535ADE72274AC9673E6B4F0CECFF297EADC674F4111913A, 0xF45ACD78FEC0DB9A2079D2C64B3E56FC1BBE18AA0E62B76F89C5291D711AF147]
    ++ [0xEF9CC9939F7AE52D0D4AB519A97F51605FEC8027591012B131C7078833A8DD1F, 0x7D0C2155631469E126D677BA7E042B17619953833CBBEBC8B0F52AAE4D3BE0A0]

/-- A byte of a table of rows of 32 bytes. -/
def boxAt (t : List Nat) (x : Byte) : Byte := BitVec.ofNat 8 (t.getD (x.toNat / 32) 0 >>> (8 * (x.toNat % 32)))

/-- Product with x in GF(2^8). -/
def xtime (x : Byte) : Byte := if x.getMsbD 0 then (x <<< 1) ^^^ 0x1B#8 else x <<< 1

/-- Product in GF(2^8); `n` bits of `k` remain. -/
def gmul : (n k : Nat) → Byte → Byte
  | 0, _, _ => 0
  | n + 1, k, x => if k % 2 = 1 then x ^^^ gmul n (k / 2) (xtime x) else gmul n (k / 2) (xtime x)

/-- Exclusive-or of two byte strings, as long as the first. -/
def xorBytes : Bytes → Bytes → Bytes
  | [], _ => []
  | a :: s, t => (a ^^^ t.headD 0) :: xorBytes s (t.drop 1)

/-- Round constants of the key schedule. -/
def aesRcon : Bytes := [0x01, 0x02, 0x04, 0x08, 0x10, 0x20, 0x40, 0x80, 0x1B, 0x36]

/-- Words `i`, `i` + 1, … of the key schedule of a key of `nk` words, `n` of them, newest first before `acc`. -/
def aesWords (nk : Nat) : (n i : Nat) → (acc : List Bytes) → List Bytes
  | 0, _, acc => acc
  | n + 1, i, acc =>
    let p := acc.headD []
    let t :=
      if i % nk = 0 then xorBytes (((p.drop 1) ++ p.take 1).map (boxAt aesBox)) [aesRcon.getD (i / nk - 1) 0, 0, 0, 0]
      else if 6 < nk ∧ i % nk = 4 then p.map (boxAt aesBox)
      else p
    aesWords nk n (i + 1) (xorBytes (acc.getD (nk - 1) []) t :: acc)

/-- The words of a key, newest first. -/
def keyWords : (n : Nat) → Bytes → List Bytes → List Bytes
  | 0, _, acc => acc
  | n + 1, l, acc => keyWords n (l.drop 4) (l.take 4 :: acc)

/-- Words in groups of four: the round keys. -/
def roundKeys : (n : Nat) → List Bytes → List Bytes
  | 0, _ => []
  | n + 1, l => (l.take 4).flatten :: roundKeys n (l.drop 4)

/-- Round keys of a key of 16 or 32 bytes, first to last. -/
def aesSchedule (key : Bytes) : List Bytes :=
  let nk := key.length / 4
  roundKeys (nk + 7) (aesWords nk (3 * nk + 28) nk (keyWords nk key [])).reverse

/-- ShiftRows, or its inverse, of sixteen bytes in columns. -/
def shiftRows (inv : Bool) (l : Bytes) : Bytes :=
  (List.range 16).map fun i => l.getD ((i + 4 * (if inv then 16 - i % 4 else i % 4)) % 16) 0

/-- One column times the matrix whose first row is given. -/
def mixColumn (m : List Nat) (c : Bytes) : Bytes :=
  (List.range 4).map fun r => (List.range 4).foldl (fun v j => v ^^^ gmul 4 (m.getD ((j + 4 - r) % 4) 0) (c.getD j 0)) 0

/-- MixColumns with a matrix. -/
def mixColumns (m : List Nat) : (n : Nat) → Bytes → Bytes
  | 0, _ => []
  | n + 1, l => mixColumn m (l.take 4) ++ mixColumns m n (l.drop 4)

/-- The rounds after the first AddRoundKey. -/
def aesRounds : List Bytes → Bytes → Bytes
  | [], l => l
  | [k], l => xorBytes (shiftRows false (l.map (boxAt aesBox))) k
  | k :: t, l => aesRounds t (xorBytes (mixColumns [2, 3, 1, 1] 4 (shiftRows false (l.map (boxAt aesBox)))) k)

/-- Sixteen bytes encrypted under a key. -/
def aesBytes (key l : Bytes) : Bytes :=
  let ks := aesSchedule key
  aesRounds (ks.drop 1) (xorBytes l (ks.headD []))

/-- The inverse rounds; the round keys come last to first, after the last. -/
def aesInvRounds : List Bytes → Bytes → Bytes
  | [], l => l
  | [k], l => xorBytes ((shiftRows true l).map (boxAt aesInvBox)) k
  | k :: t, l => aesInvRounds t (mixColumns [14, 11, 13, 9] 4 (xorBytes ((shiftRows true l).map (boxAt aesInvBox)) k))

/-- Sixteen bytes decrypted under a key. -/
def aesInvBytes (key l : Bytes) : Bytes :=
  let ks := (aesSchedule key).reverse
  aesInvRounds (ks.drop 1) (xorBytes l (ks.headD []))

/-! ### AES Key Wrap (RFC 3394) -/

/-- The check value of the wrap. -/
def wrapCheck : Bytes := List.replicate 8 0xA6#8

/-- One pass over the half blocks: `t` counts the steps before it. -/
def wrapPass (kek : Bytes) : (t : Nat) → (a : Bytes) → List Bytes → Bytes × List Bytes
  | _, a, [] => (a, [])
  | t, a, r :: rs =>
    let b := aesBytes kek (a ++ r)
    let q := wrapPass kek (t + 1) (xorBytes (b.take 8) ((leBytes 8 (t + 1)).reverse)) rs
    (q.1, b.drop 8 :: q.2)

/-- `n` passes. -/
def wrapPasses (kek : Bytes) : (n t : Nat) → Bytes × List Bytes → Bytes × List Bytes
  | 0, _, x => x
  | n + 1, t, x => wrapPasses kek n (t + x.2.length) (wrapPass kek t x.1 x.2)

/-- The half blocks of a key. -/
def halfBlocks : (n : Nat) → Bytes → List Bytes
  | 0, _ => []
  | n + 1, l => if l.isEmpty then [] else l.take 8 :: halfBlocks n (l.drop 8)

/-- A key wrapped under a key. -/
def keyWrap (kek key : Bytes) : Bytes :=
  let r := wrapPasses kek 6 0 (wrapCheck, halfBlocks key.length key)
  r.1 ++ r.2.flatten

/-- One inverse pass, last half block first: `t` is the count of the step to undo. -/
def unwrapPass (kek : Bytes) : (t : Nat) → (a : Bytes) → List Bytes → Bytes × List Bytes
  | _, a, [] => (a, [])
  | t, a, r :: rs =>
    let b := aesInvBytes kek (xorBytes a ((leBytes 8 t).reverse) ++ r)
    let q := unwrapPass kek (t - 1) (b.take 8) rs
    (q.1, b.drop 8 :: q.2)

/-- `n` inverse passes. -/
def unwrapPasses (kek : Bytes) : (n t : Nat) → Bytes × List Bytes → Bytes × List Bytes
  | 0, _, x => x
  | n + 1, t, x => unwrapPasses kek n (t - x.2.length) (unwrapPass kek t x.1 x.2)

/-- The key in a wrapped one; none where the check value fails. -/
def keyUnwrap (kek wrapped : Bytes) : Option Bytes :=
  let rs := (halfBlocks wrapped.length (wrapped.drop 8)).reverse
  let r := unwrapPasses kek 6 (6 * rs.length) (wrapped.take 8, rs)
  if r.1 = wrapCheck then some r.2.reverse.flatten else none

end Sys2Proof.Machine
end

