-- ==== Sys2Proof/Machine/Crypto.lean ====
section
/-! DEFINITION. The cryptographic constructions that the spec builds on the standard primitives: AES-GCM with its J0, pad and GHASH
(R148, R150), HMAC from midstates (R151), AES-CMAC, hashes, CTR_DRBG (R383) and the derivation function. -/

namespace Sys2Proof.Machine

/-! ### Bytes and numbers -/

/-- Big-endian bytes of a number. -/
def beBytes (n v : Nat) : Bytes := (leBytes n v).reverse

/-- The number whose big-endian bytes these are. -/
def beNat (l : Bytes) : Nat := l.foldl (fun n b => 256 * n + b.toNat) 0

/-- The number whose little-endian bytes these are. -/
def leNat (l : Bytes) : Nat := beNat l.reverse

/-- Little-endian number in bytes `i` to `i` + `n` − 1. -/
def leAt (l : Bytes) (i n : Nat) : Nat := leNat ((l.drop i).take n)

/-- Sum of the bytes from `i` on: zero where all are zero. -/
def sumFrom (l : Bytes) (i : Nat) : Nat := (l.drop i).foldl (fun n b => n + b.toNat) 0

/-- Exactly `n` bytes: cut off, or filled up with zeros. -/
def fitBytes : (n : Nat) → Bytes → Bytes
  | 0, _ => []
  | n + 1, l => l.headD 0 :: fitBytes n (l.drop 1)

/-- The bytes in groups of `k`; `n` bounds the number of groups. -/
def groupsOf (k : Nat) : (n : Nat) → Bytes → List Bytes
  | 0, _ => []
  | n + 1, l => if l.isEmpty then [] else l.take k :: groupsOf k n (l.drop k)

/-- The bytes in blocks of `k`, the last one filled up with zeros. -/
def blocksOf (k : Nat) (l : Bytes) : List Bytes := (groupsOf k l.length l).map (fitBytes k)

/-! ### AES in counter mode with GHASH (R148, R150) -/

/-- A 128-bit block from bytes, and its bytes. -/
def block128 (l : Bytes) : BitVec 128 := BitVec.ofNat 128 (beNat (fitBytes 16 l))
def bytes128 (b : BitVec 128) : Bytes := beBytes 16 b.toNat

/-- Product in GF(2^128) with the polynomial of GCM; `n` bits of `x`, most significant first, remain. -/
def gfMul : (n : Nat) → (x v z : BitVec 128) → BitVec 128
  | 0, _, _, z => z
  | n + 1, x, v, z =>
    gfMul n (x <<< 1) (if v.getLsbD 0 then (v >>> 1) ^^^ (0xE1#128 <<< 120) else v >>> 1) (if x.getMsbD 0 then z ^^^ v else z)

/-- GHASH under H of a list of blocks. -/
def ghashBlocks (h : BitVec 128) (l : List Bytes) : BitVec 128 :=
  l.foldl (fun y b => gfMul 128 (y ^^^ block128 b) h 0) 0

/-- GHASH of additional data and ciphertext with the block of their lengths in bits. -/
def ghash (h : BitVec 128) (aad cipher : Bytes) : BitVec 128 :=
  ghashBlocks h (blocksOf 16 aad ++ blocksOf 16 cipher ++ [beBytes 8 (8 * aad.length) ++ beBytes 8 (8 * cipher.length)])

/-- J0 = IV ‖ 0x00000001 of a 96-bit IV (R148). -/
def j0Of (iv : Nat) : BitVec 128 := BitVec.ofNat 128 (iv % 2 ^ 96 * 2 ^ 32 + 1)

/-- The AES permutation of a block under a key of 16 or 32 bytes. -/
def aes (key : Bytes) (b : BitVec 128) : BitVec 128 := block128 (aesBytes key (bytes128 b))

/-- The pad E(K, J0) (R148). -/
def padOf (key : Bytes) (iv : Nat) : BitVec 128 := aes key (j0Of iv)

/-- The hash key H = E(K, 0^128) (R148). -/
def hashKeyOf (key : Bytes) : BitVec 128 := aes key 0

/-- inc32: the low 32 bits count up by `n`. -/
def inc32 (b : BitVec 128) (n : Nat) : BitVec 128 := BitVec.ofNat 128 (b.toNat / 2 ^ 32 * 2 ^ 32 + (b.toNat + n) % 2 ^ 32)

/-- Key stream of `n` blocks from inc32^`i`(J0) on. -/
def keyStream (key : Bytes) (j : BitVec 128) : (n i : Nat) → Bytes
  | 0, _ => []
  | n + 1, i => bytes128 (aes key (inc32 j i)) ++ keyStream key j n (i + 1)

/-- Encryption and decryption of a payload: the counter blocks start at inc32(J0) (R150). -/
def gcmCrypt (key : Bytes) (iv : Nat) (l : Bytes) : Bytes := xorBytes l (keyStream key (j0Of iv) ((l.length + 15) / 16) 1)

/-- Tag: GHASH exclusive-ORed with the pad, the leftmost `n` bytes (R150). -/
def tagFrom (h pad : BitVec 128) (aad cipher : Bytes) (n : Nat) : Bytes := (bytes128 (ghash h aad cipher ^^^ pad)).take n

/-- Tag of AES-GCM under a key. -/
def gcmTag (key : Bytes) (iv : Nat) (aad cipher : Bytes) (n : Nat) : Bytes :=
  tagFrom (hashKeyOf key) (padOf key iv) aad cipher n

/-! ### Hashes and HMAC (R151) -/

/-- Padding of the SHA-2 functions with blocks of `k` bytes and a length field of `f` bytes; `before` bytes have been hashed already. -/
def shaPad (k f before : Nat) (l : Bytes) : Bytes :=
  let n := before + l.length
  l ++ [0x80#8] ++ List.replicate ((2 * k - 1 - f - n % k) % k) 0#8 ++ beBytes f (8 * n)

/-- Initial value of SHA-256. -/
def sha256Init : BitVec 256 := 0x6A09E667BB67AE853C6EF372A54FF53A510E527F9B05688C1F83D9AB5BE0CD19#256

/-- SHA-256 from a midstate after `before` bytes. -/
def sha256From (mid : BitVec 256) (before : Nat) (l : Bytes) : BitVec 256 :=
  (blocksOf 64 (shaPad 64 8 before l)).foldl (fun m b => sha256Block m (BitVec.ofNat 512 (beNat b))) mid

/-- Initial values of SHA-384 and SHA-512. -/
def sha384Init : BitVec 512 :=
  0xCBBB9D5DC1059ED8629A292A367CD5079159015A3070DD17152FECD8F70E593967332667FFC00B318EB44A8768581511DB0C2E0D64F98FA747B5481DBEFA4FA4#512
def sha512Init : BitVec 512 :=
  0x6A09E667F3BCC908BB67AE8584CAA73B3C6EF372FE94F82BA54FF53A5F1D36F1510E527FADE682D19B05688C2B3E6C1F1F83D9ABFB41BD6B5BE0CD19137E2179#512

/-- SHA-384 and SHA-512 of a message, all 64 bytes. -/
def sha512From (init : BitVec 512) (l : Bytes) : BitVec 512 :=
  (blocksOf 128 (shaPad 128 16 0 l)).foldl (fun m b => sha512Block m (BitVec.ofNat 1024 (beNat b))) init

/-- Digest functions: 1 SHA-256, 2 SHA-384, 3 SHA-512. -/
def digest (alg : Nat) (l : Bytes) : Bytes :=
  match alg with
  | 1 => beBytes 32 (sha256From sha256Init 0 l).toNat
  | 2 => (beBytes 64 (sha512From sha384Init l).toNat).take 48
  | _ => beBytes 64 (sha512From sha512Init l).toNat

/-- Block length of a digest function. -/
def digestBlock (alg : Nat) : Nat := if alg = 1 then 64 else 128

/-- A key as HMAC uses it: hashed when it is longer than a block, then filled up with zeros. -/
def hmacKey (alg : Nat) (key : Bytes) : Bytes :=
  fitBytes (digestBlock alg) (if digestBlock alg < key.length then digest alg key else key)

/-- K ⊕ ipad and K ⊕ opad. -/
def ipad (alg : Nat) (key : Bytes) : Bytes := (hmacKey alg key).map (· ^^^ 0x36#8)
def opad (alg : Nat) (key : Bytes) : Bytes := (hmacKey alg key).map (· ^^^ 0x5C#8)

/-- HMAC over a digest function. -/
def hmac (alg : Nat) (key l : Bytes) : Bytes := digest alg (opad alg key ++ digest alg (ipad alg key ++ l))

/-- The SHA-256 midstate after one block (R151). -/
def midstate (block : Bytes) : BitVec 256 := sha256Block sha256Init (BitVec.ofNat 512 (beNat block))

/-- HMAC-SHA256 from its two midstates: the span hashed on from the inner one, one compression from the outer one (R151). -/
def hmacFrom (inner outer : BitVec 256) (l : Bytes) : Bytes :=
  beBytes 32 (sha256From outer 64 (beBytes 32 (sha256From inner 64 l).toNat)).toNat

/-! ### AES-CMAC -/

/-- Doubling in GF(2^128) as CMAC does it. -/
def cmacDouble (b : BitVec 128) : BitVec 128 := if b.getMsbD 0 then (b <<< 1) ^^^ 0x87#128 else b <<< 1

/-- Chain the blocks but the last, then the last one under its subkey. -/
def cmacChain (key : Bytes) (last : BitVec 128) : BitVec 128 → List Bytes → BitVec 128
  | y, [] => aes key (y ^^^ last)
  | y, b :: t => cmacChain key last (aes key (y ^^^ block128 b)) t

/-- AES-CMAC of a message. -/
def cmac (key l : Bytes) : Bytes :=
  let k1 := cmacDouble (aes key 0)
  let bs := groupsOf 16 l.length l
  let z := bs.getLastD []
  bytes128 (cmacChain key (if z.length = 16 then block128 z ^^^ k1 else block128 (z ++ [0x80#8]) ^^^ cmacDouble k1) 0 bs.dropLast)

/-! ### CTR_DRBG with AES-256 and no derivation function (SP 800-90A; R383) -/

/-- The expander's state: key and counter block. -/
structure Expander where
  key : Bytes
  v : BitVec 128
deriving DecidableEq, Repr

/-- `n` output blocks, the counter block rising before each. -/
def drbgStream (key : Bytes) : (n : Nat) → (v : BitVec 128) → Bytes
  | 0, _ => []
  | n + 1, v => bytes128 (aes key (v + 1)) ++ drbgStream key n (v + 1)

/-- The update function with 384 bits of provided data. -/
def Expander.update (x : Expander) (data : Bytes) : Expander :=
  let t := xorBytes (drbgStream x.key 3 x.v) data
  { key := t.take 32, v := block128 (t.drop 32) }

/-- Instantiation from a seed and a personalisation string, 384 bits each. -/
def Expander.instantiate (seed pers : Bytes) : Expander :=
  Expander.update { key := List.replicate 32 0#8, v := 0 } (xorBytes seed pers)

/-- One generate call without additional input: `n` blocks of output, then an update. -/
def Expander.generate (x : Expander) (n : Nat) : Bytes × Expander :=
  (drbgStream x.key n x.v, { x with v := x.v + BitVec.ofNat 128 n : Expander }.update (List.replicate 48 0#8))

/-! ### Derivations (R283) -/

/-- ASCII bytes of a label. -/
def ascii (s : String) : Bytes := s.toList.map fun c => BitVec.ofNat 8 c.toNat

/-- `n` outputs of the counter-mode derivation of NIST SP 800-108 with HMAC-SHA256, from counter value `i` on. -/
def kdfBlocks (key label context : Bytes) (bits : Nat) : (n i : Nat) → Bytes
  | 0, _ => []
  | n + 1, i => hmac 1 key (beBytes 4 i ++ label ++ [0] ++ context ++ beBytes 4 bits) ++ kdfBlocks key label context bits n (i + 1)

/-- kdf(k, label, context, bits) (R283). -/
def kdf (key : Bytes) (label : String) (context : Bytes) (bits : Nat) : Bytes :=
  (kdfBlocks key (ascii label) context bits ((bits + 255) / 256) 1).take (bits / 8)

/-- Order of P-384 (FIPS 186). -/
def n384 : Nat := 0xFFFFFFFFFFFFFFFFFFFFFFFFFFFFFFFFFFFFFFFFFFFFFFFFC7634D81F4372DDF581A0DB248B0A77AECEC196ACCC52973

/-- dis (R283). -/
def disOf (puf seed : Bytes) (siliconId : Nat) : Bytes := kdf (xorBytes puf seed) "NX-DIS" (leBytes 8 siliconId) 256

/-- dik, ak and dtk by their label (R283). -/
def scalarOf (dis : Bytes) (label : String) : Nat := beNat (kdf dis label [] 448) % (n384 - 1) + 1

/-- esk (R283). -/
def eskOf (dis : Bytes) : Bytes := kdf dis "NX-ESK" [] 256

/-- csk (R283). -/
def cskOf (srk : Bytes) : Bytes := kdf srk "NX-CSK" [] 256

/-- dwk of a domain under an epoch (R283). -/
def dwkOf (srk : Bytes) (domain epoch : Nat) : Bytes := kdf srk "NX-DWK" (leBytes 1 domain ++ beBytes 4 epoch) 256

/-- SRK_CHECK (Table 07-2). -/
def srkCheck (srk : Bytes) : Bytes := kdf srk "NX-CHK" [] 128

/-- Check value of a key, 8 bytes (Table 07-12). -/
def checkValue (key : Bytes) : Bytes := kdf key "NX-KCV" [] 64

/-- The command key of a Temper message (R317): `x` is the x-coordinate of the ECDH product. -/
def tmkOf (x : Nat) (target : Bytes) (counter : Nat) : Bytes := kdf (beBytes 48 x) "NX-TMK" (target ++ beBytes 8 counter) 256

/-- `n` bytes of the derivation function of IEEE 802.1X over AES-CMAC (PRESUMED, the standard's form: counter byte, label, zero byte,
context, length in bits). -/
def mkaKdf (cak : Bytes) (label : String) (context : Bytes) : Bytes :=
  let step (i : Nat) : Bytes := cmac cak (leBytes 1 i ++ ascii label ++ [0] ++ context ++ beBytes 2 256)
  step 1 ++ step 2

/-- Bytes of a digest by ALG of HASH. -/
def hashLen (alg : Nat) : Nat := if alg = 1 then 32 else if alg = 2 then 48 else 64

/-- ALG of HASH is known. -/
def hashOk (alg : Nat) : Bool := decide (1 ≤ alg) && decide (alg ≤ 3)

end Sys2Proof.Machine
end

