-- ==== Sys2Proof/Machine/Curves.lean ====
section
/-! DEFINITION. The arithmetic of the built-in and loaded curves: points, ECDSA, EdDSA, X25519 (08). PRESUMED: the parameters and steps are
those of FIPS 186-5, RFC 8032, RFC 7748 and RFC 6979, which the spec names and does not repeat. -/

namespace Sys2Proof.Machine

/-! ### Numbers modulo m -/

/-- Power modulo m, by `fuel` bits. -/
def powMod (m : Nat) : (fuel : Nat) → (b e : Nat) → Nat
  | 0, _, _ => 1 % m
  | n + 1, b, e =>
    if e = 0 then 1 % m
    else
      let h := powMod m n (b * b % m) (e / 2)
      if e % 2 = 1 then h * b % m else h

/-- Inverse modulo a prime. -/
def invMod (m a : Nat) : Nat := powMod m 600 (a % m) (m - 2)

/-- Difference modulo m. -/
def subMod (m a b : Nat) : Nat := (a + (m - b % m)) % m

/-- a is a square modulo the odd prime p (Euler's criterion). -/
def isSquare (p a : Nat) : Bool := a % p == 0 || powMod p 600 (a % p) ((p - 1) / 2) == 1 % p

/-! ### Curves (Table 08-7) -/

/-- P-256. -/
def p256 : Curve :=
  { form := 1, words := 4, pBits := 256, cofactor := 1
    p := 0xFFFFFFFF00000001000000000000000000000000FFFFFFFFFFFFFFFFFFFFFFFF
    a := 0xFFFFFFFF00000001000000000000000000000000FFFFFFFFFFFFFFFFFFFFFFFC
    b := 0x5AC635D8AA3A93E7B3EBBD55769886BC651D06B0CC53B0F63BCE3C3E27D2604B
    gx := 0x6B17D1F2E12C4247F8BCE6E563A440F277037D812DEB33A0F4A13945D898C296
    gy := 0x4FE342E2FE1A7F9B8EE7EB4A7C0F9E162BCE33576B315ECECBB6406837BF51F5
    n := 0xFFFFFFFF00000000FFFFFFFFFFFFFFFFBCE6FAADA7179E84F3B9CAC2FC632551 }

/-- P-384. -/
def p384 : Curve :=
  { form := 1, words := 6, pBits := 384, cofactor := 1
    p := 0xFFFFFFFFFFFFFFFFFFFFFFFFFFFFFFFFFFFFFFFFFFFFFFFFFFFFFFFFFFFFFFFEFFFFFFFF0000000000000000FFFFFFFF
    a := 0xFFFFFFFFFFFFFFFFFFFFFFFFFFFFFFFFFFFFFFFFFFFFFFFFFFFFFFFFFFFFFFFEFFFFFFFF0000000000000000FFFFFFFC
    b := 0xB3312FA7E23EE7E4988E056BE3F82D19181D9C6EFE8141120314088F5013875AC656398D8A2ED19D2A85C8EDD3EC2AEF
    gx := 0xAA87CA22BE8B05378EB1C71EF320AD746E1D3B628BA79B9859F741E082542A385502F25DBF55296C3A545E3872760AB7
    gy := 0x3617DE4A96262C6F5D9E98BF9292DC29F8F41DBD289A147CE9DA3113B5F0B8C00A60B1CE1D7E819D7A431D7C90EA0E5F
    n := 0xFFFFFFFFFFFFFFFFFFFFFFFFFFFFFFFFFFFFFFFFFFFFFFFFC7634D81F4372DDF581A0DB248B0A77AECEC196ACCC52973 }

/-- P-521. -/
def p521 : Curve :=
  { form := 1, words := 9, pBits := 521, cofactor := 1
    p := 0x01FFFFFFFFFFFFFFFFFFFFFFFFFFFFFFFFFFFFFFFFFFFFFFFFFFFFFFFFFFFFFFFFFFFFFFFFFFFFFFFFFFFFFFFFFFFFFFFFFFFFFFFFFFFFFFFFFFFFFFFFFFFFFFFFFF
    a := 0x01FFFFFFFFFFFFFFFFFFFFFFFFFFFFFFFFFFFFFFFFFFFFFFFFFFFFFFFFFFFFFFFFFFFFFFFFFFFFFFFFFFFFFFFFFFFFFFFFFFFFFFFFFFFFFFFFFFFFFFFFFFFFFFFFFC
    b := 0x0051953EB9618E1C9A1F929A21A0B68540EEA2DA725B99B315F3B8B489918EF109E156193951EC7E937B1652C0BD3BB1BF073573DF883D2C34F1EF451FD46B503F00
    gx := 0x00C6858E06B70404E9CD9E3ECB662395B4429C648139053FB521F828AF606B4D3DBAA14B5E77EFE75928FE1DC127A2FFA8DE3348B3C1856A429BF97E7E31C2E5BD66
    gy := 0x011839296A789A3BC0045C8A5FB42C7D1BD998F54449579B446817AFBD17273E662C97EE72995EF42640C550B9013FAD0761353C7086A272C24088BE94769FD16650
    n := 0x01FFFFFFFFFFFFFFFFFFFFFFFFFFFFFFFFFFFFFFFFFFFFFFFFFFFFFFFFFFFFFFFFFA51868783BF2F966B7FCC0148F709A5D03BB5C9B8899C47AEBB6FB71E91386409 }

/-- edwards25519; `b` holds d. -/
def ed25519 : Curve :=
  { form := 2, words := 4, pBits := 255, cofactor := 8
    p := 0x7FFFFFFFFFFFFFFFFFFFFFFFFFFFFFFFFFFFFFFFFFFFFFFFFFFFFFFFFFFFFFED
    a := 0x7FFFFFFFFFFFFFFFFFFFFFFFFFFFFFFFFFFFFFFFFFFFFFFFFFFFFFFFFFFFFFEC
    b := 0x52036CEE2B6FFE738CC740797779E89800700A4D4141D8AB75EB4DCA135978A3
    gx := 0x216936D3CD6E53FEC0A4E231FDD6DC5C692CC7609525A7B2C9562D608F25D51A
    gy := 0x6666666666666666666666666666666666666666666666666666666666666658
    n := 0x1000000000000000000000000000000014DEF9DEA2F79CD65812631A5CF5D3ED }

/-- Bytes of a coordinate. -/
def Curve.bytes (c : Curve) : Nat := (c.pBits + 7) / 8

/-- A point with a denominator: Jacobian coordinates of a short Weierstrass curve, projective ones of an Edwards curve. -/
structure Point where
  x : Nat
  y : Nat
  z : Nat
deriving DecidableEq, Repr

/-- Doubling on a short Weierstrass curve. -/
def weierDouble (c : Curve) (q : Point) : Point :=
  let yy := q.y * q.y % c.p
  let s := 4 * q.x * yy % c.p
  let zz := q.z * q.z % c.p
  let m := (3 * q.x * q.x + c.a * (zz * zz % c.p)) % c.p
  let x := (m * m + 2 * (c.p - s)) % c.p
  { x, y := (m * (s + (c.p - x)) + 8 * (c.p - yy * yy % c.p)) % c.p, z := 2 * q.y * q.z % c.p }

/-- The point at infinity. -/
def weierZero : Point := { x := 1, y := 1, z := 0 }

/-- Addition on a short Weierstrass curve. -/
def weierAdd (c : Curve) (q r : Point) : Point :=
  if q.z = 0 then r
  else if r.z = 0 then q
  else
    let z1 := q.z * q.z % c.p
    let z2 := r.z * r.z % c.p
    let u1 := q.x * z2 % c.p
    let u2 := r.x * z1 % c.p
    let s1 := q.y * r.z * z2 % c.p
    let s2 := r.y * q.z * z1 % c.p
    if u1 = u2 then (if s1 = s2 then weierDouble c q else weierZero)
    else
      let h := subMod c.p u2 u1
      let t := subMod c.p s2 s1
      let hh := h * h % c.p
      let v := u1 * hh % c.p
      let x := (t * t + (c.p - h * hh % c.p) + 2 * (c.p - v)) % c.p
      { x, y := (t * (v + (c.p - x)) + (c.p - s1 * (h * hh % c.p) % c.p)) % c.p, z := q.z * r.z * h % c.p }

/-- Addition on a twisted Edwards curve. -/
def edwardsAdd (c : Curve) (q r : Point) : Point :=
  let a := q.z * r.z % c.p
  let b := a * a % c.p
  let xx := q.x * r.x % c.p
  let yy := q.y * r.y % c.p
  let e := c.b * xx % c.p * yy % c.p
  let f := subMod c.p b e
  let g := (b + e) % c.p
  { x := a * f % c.p * subMod c.p ((q.x + q.y) * (r.x + r.y)) (xx + yy) % c.p,
    y := a * g % c.p * subMod c.p yy (c.a * xx) % c.p, z := f * g % c.p }

/-- The group law by the curve's form. -/
def Curve.add (c : Curve) (q r : Point) : Point := if c.form = 1 then weierAdd c q r else edwardsAdd c q r
def Curve.double (c : Curve) (q : Point) : Point := if c.form = 1 then weierDouble c q else edwardsAdd c q q
def Curve.zero (c : Curve) : Point := if c.form = 1 then weierZero else { x := 0, y := 1, z := 1 }

/-- The point is the identity. -/
def Curve.isZero (c : Curve) (q : Point) : Bool := if c.form = 1 then q.z == 0 else q.x == 0 && q.y == q.z

/-- A multiple of a point, by `fuel` bits of `k`. -/
def Curve.mul (c : Curve) : (fuel k : Nat) → Point → Point
  | 0, _, _ => c.zero
  | n + 1, k, q =>
    if k = 0 then c.zero
    else
      let h := c.mul n (k / 2) (c.double q)
      if k % 2 = 1 then c.add h q else h

/-- Longest scalar, in bits. -/
def scalarBits : Nat := 640

/-- A point by its coordinates, and its affine coordinates. -/
def pointOf (x y : Nat) : Point := { x, y, z := 1 }
def Curve.affine (c : Curve) (q : Point) : Nat × Nat :=
  let i := invMod c.p q.z
  if c.form = 1 then (let ii := i * i % c.p
                      (q.x * ii % c.p, q.y * (ii * i % c.p) % c.p))
  else (q.x * i % c.p, q.y * i % c.p)

/-- The base point. -/
def Curve.base (c : Curve) : Point := pointOf c.gx c.gy

/-- (x, y) satisfies the curve's equation modulo m; `form` 0 short Weierstrass, 1 twisted Edwards. -/
def onCurve (form m a b x y : Nat) : Bool :=
  if form = 0 then (y * y) % m == (x * x * x + a * x + b) % m
  else (a * x * x + y * y) % m == (1 + b * x * x * y * y) % m

/-- A point operand is not on the curve: a coordinate at or above p, or the equation fails (R359). -/
def Curve.off (c : Curve) (x y : Nat) : Bool :=
  decide (c.p ≤ x) || decide (c.p ≤ y) || !onCurve (c.form - 1) c.p c.a c.b x y

/-- Identity, or a point of small order of edwards25519 (R359). -/
def Curve.small (c : Curve) (x y : Nat) : Bool :=
  c.form == 2 && c.isZero (if c = ed25519 then c.mul 4 8 (pointOf x y) else pointOf x y)

/-- x ‖ y. -/
def Curve.encode (c : Curve) (q : Nat × Nat) : Bytes := beBytes c.bytes q.1 ++ beBytes c.bytes q.2

/-! ### ECDSA and ECDH (R350) -/

/-- The leftmost bits of a digest up to the bit length of n, modulo n. -/
def Curve.digestInt (c : Curve) (l : Bytes) : Nat :=
  let bits := Nat.log2 c.n + 1
  (if bits < 8 * l.length then beNat l >>> (8 * l.length - bits) else beNat l) % c.n

/-- r and s under a private scalar and a nonce. -/
def Curve.signWith (c : Curve) (d e k : Nat) : Nat × Nat :=
  let r := (c.affine (c.mul scalarBits k c.base)).1 % c.n
  (r, invMod c.n k * ((e + r * d) % c.n) % c.n)

/-- The nonce of a drawn number: (c mod (n − 2)) + 2. -/
def Curve.nonce (c : Curve) (drawn : Nat) : Nat := drawn % (c.n - 2) + 2

/-- The verdict on r and s under a public point. -/
def Curve.verifies (c : Curve) (qx qy e r s : Nat) : Bool :=
  let w := invMod c.n s
  let x := c.add (c.mul scalarBits (e * w % c.n) c.base) (c.mul scalarBits (r * w % c.n) (pointOf qx qy))
  !c.isZero x && (c.affine x).1 % c.n == r

/-- A value lies from 2 to its modulus less 1 (R358). -/
def inRange2 (m v : Nat) : Bool := decide (2 ≤ v) && decide (v < m)

/-- Verdict of a P-384 signature on a SHA-384 digest: 96 bytes of public key, digest, r and s. -/
def digestVerifies (key hash : Bytes) (r s : Nat) : Bool :=
  let x := beNat (key.take 48)
  let y := beNat (key.drop 48)
  key.length == 96 && !p384.off x y && inRange2 p384.n r && inRange2 p384.n s && p384.verifies x y (p384.digestInt hash) r s

/-- Verdict of the P-384 signatures with SHA-384 that the roles make: 96 bytes of public key, bytes signed, r and s. -/
def roleVerifies (key bytes : Bytes) (r s : Nat) : Bool := digestVerifies key (digest 2 bytes) r s

/-- Public point of a scalar. -/
def Curve.publicPoint (c : Curve) (d : Nat) : Nat × Nat := c.affine (c.mul scalarBits d c.base)

/-- The shared x-coordinate. -/
def Curve.shared (c : Curve) (d x y : Nat) : Nat := (c.affine (c.mul scalarBits d (pointOf x y))).1

/-! ### Deterministic nonces (R390: RFC 6979 with SHA-384) -/

/-- The next candidates of the derivation from K and V. -/
def rfcNonce (n : Nat) : (fuel : Nat) → (k v : Bytes) → Nat
  | 0, _, _ => 1
  | f + 1, k, v =>
    let w := hmac 2 k v
    let x := beNat w
    if 1 ≤ x ∧ x < n then x
    else (let k1 := hmac 2 k (w ++ [0])
          rfcNonce n f k1 (hmac 2 k1 w))

/-- k of a P-384 signature under `d` on a SHA-384 digest. -/
def nonceOf (d : Nat) (h : Bytes) : Nat :=
  let v := List.replicate 48 1#8
  let x := beBytes 48 d ++ beBytes 48 (beNat h % p384.n)
  let k1 := hmac 2 (List.replicate 48 0#8) (v ++ [0] ++ x)
  let v1 := hmac 2 k1 v
  let k2 := hmac 2 k1 (v1 ++ [1] ++ x)
  rfcNonce p384.n 16 k2 (hmac 2 k2 v1)

/-- r ‖ s of a signature by DIK or AK (R327, R248). -/
def ownSignature (d : Nat) (bytes : Bytes) : Bytes :=
  let h := digest 2 bytes
  let x := p384.signWith d (p384.digestInt h) (nonceOf d h)
  beBytes 48 x.1 ++ beBytes 48 x.2

/-! ### Ed25519 (R351) -/

/-- The scalar of 32 hashed or stored bytes with the bits that RFC 8032 and RFC 7748 fix. -/
def clamp (v : Nat) : Nat := v % 2 ^ 254 / 8 * 8 + 2 ^ 254

/-- Encoding of a point. -/
def edEncode (q : Nat × Nat) : Bytes := leBytes 32 (q.2 + 2 ^ 255 * (q.1 % 2))

/-- A square root modulo 2^255 − 19. -/
def edRoot (v : Nat) : Option Nat :=
  let m := ed25519.p
  let x := powMod m 600 v ((m + 3) / 8)
  if x * x % m = v then some x
  else (let y := x * powMod m 600 2 ((m - 1) / 4) % m
        if y * y % m = v then some y else none)

/-- The point of an encoding; none where it does not decode. -/
def edDecode (l : Bytes) : Option (Nat × Nat) :=
  let m := ed25519.p
  let v := leNat l
  let y := v % 2 ^ 255
  if m ≤ y then none
  else (edRoot (subMod m (y * y) 1 * invMod m (ed25519.b * (y * y % m) + 1) % m)).map fun x =>
    (if x % 2 = v / 2 ^ 255 % 2 then x else (m - x) % m, y)

/-- The encoding is not the canonical one of its point: x is 0 and the sign bit set. -/
def edNonCanonical (l : Bytes) (q : Nat × Nat) : Bool := q.1 == 0 && decide (2 ^ 255 ≤ leNat l)

/-- The private scalar of a seed, and its public key. -/
def edScalar (seed : Bytes) : Nat := clamp (leNat ((digest 3 seed).take 32))
def edPublic (seed : Bytes) : Bytes := edEncode (ed25519.publicPoint (edScalar seed % ed25519.n))

/-- R ‖ S over a message. -/
def edSign (seed msg : Bytes) : Bytes :=
  let r := leNat (digest 3 ((digest 3 seed).drop 32 ++ msg)) % ed25519.n
  let rb := edEncode (ed25519.publicPoint r)
  let k := leNat (digest 3 (rb ++ edPublic seed ++ msg)) % ed25519.n
  rb ++ leBytes 32 ((r + k * edScalar seed) % ed25519.n)

/-- The cofactored equation [8][S]B = [8]R + [8][k]A. -/
def edVerifies (a r : Nat × Nat) (ab rb : Bytes) (s : Nat) (msg : Bytes) : Bool :=
  let c := ed25519
  let k := leNat (digest 3 (rb ++ ab ++ msg)) % c.n
  let lhs := c.mul 4 8 (c.mul scalarBits s c.base)
  let rhs := c.add (c.mul 4 8 (pointOf r.1 r.2)) (c.mul 4 8 (c.mul scalarBits k (pointOf a.1 a.2)))
  lhs.x * rhs.z % c.p == rhs.x * lhs.z % c.p && lhs.y * rhs.z % c.p == rhs.y * lhs.z % c.p

/-! ### X25519 (R352) -/

/-- Doubling, and addition with the difference `u`, on Curve25519. -/
def montDouble (q : Nat × Nat) : Nat × Nat :=
  let m := ed25519.p
  let s := q.1 + q.2
  let aa := s * s % m
  let t := subMod m q.1 q.2
  let bb := t * t % m
  let e := subMod m aa bb
  (aa * bb % m, e * (aa + 121665 * e) % m)
def montAdd (u : Nat) (q r : Nat × Nat) : Nat × Nat :=
  let m := ed25519.p
  let da := subMod m r.1 r.2 * (q.1 + q.2) % m
  let cb := (r.1 + r.2) * subMod m q.1 q.2 % m
  let x := da + cb
  let z := subMod m da cb
  (x * x % m, u * (z * z % m) % m)

/-- The ladder over bits `n` − 1 to 0 of `k`. -/
def ladder (u k : Nat) : (n : Nat) → (q r : Nat × Nat) → Nat × Nat
  | 0, q, _ => q
  | n + 1, q, r =>
    if k / 2 ^ n % 2 = 1 then ladder u k n (montAdd u q r) (montDouble r) else ladder u k n (montDouble q) (montAdd u q r)

/-- [k] of a u-coordinate, projective. -/
def montMul (k u : Nat) : Nat × Nat := ladder u k 256 (1, 0) (u, 1)

/-- The u-coordinate of a product, 0 for the identity. -/
def x25519 (k u : Nat) : Nat :=
  let q := montMul k u
  q.1 * invMod ed25519.p q.2 % ed25519.p

/-- u lies on the quadratic twist. -/
def onTwist (u : Nat) : Bool := !isSquare ed25519.p (u * u % ed25519.p * u + 486662 * (u * u % ed25519.p) + u)

/-- u belongs to a point of small order. -/
def montSmall (u : Nat) : Bool := (montMul 8 u).2 == 0

/-! ### Public keys of the private kinds (Table 07-4) -/

/-- Public key of a private curve kind: x ‖ y, the encoding of RFC 8032, or u. -/
def curvePublic (kind : Nat) (m : Bytes) : Bytes :=
  match kind with
  | 0x10 | 0x13 => p256.encode (p256.publicPoint (beNat m))
  | 0x11 | 0x14 => p384.encode (p384.publicPoint (beNat m))
  | 0x12 => edPublic m
  | _ => beBytes 32 (x25519 (clamp (beNat m)) 9)

/-- The private scalar of a curve kind lies in its range (R358). -/
def scalarOk (kind : Nat) (m : Bytes) : Bool :=
  match kind with
  | 0x10 | 0x13 => inRange2 p256.n (beNat m)
  | 0x11 | 0x14 => inRange2 p384.n (beNat m)
  | 0x12 => inRange2 ed25519.n (edScalar m % ed25519.n)
  | 0x15 => inRange2 ed25519.n (clamp (beNat m) % ed25519.n)
  | _ => true

end Sys2Proof.Machine
end

