-- ==== Sys2Proof/Machine/Rsa.lean ====
section
/-! DEFINITION. RSA: the CRT computation, the paddings of the operation catalogue and their inverses (08, 11). PRESUMED: the paddings are
those of PKCS #1 (RFC 8017), which the spec names and does not repeat. -/

namespace Sys2Proof.Machine

/-! ### Keys (Table 07-4) -/

/-- Length of n in an RSA payload (Table 07-4). -/
def rsaLen (material : Bytes) : Option Nat :=
  if material.length = 904 then some 256 else if material.length = 1352 then some 384
  else if material.length = 1800 then some 512 else none

/-- Item of the key material (R345): the parts of the payload in their order (DEDUCED from Table 07-4), n, e, p, q, dp, dq and qinv of an
RSA key, the scalar of another. -/
def keyItem (material : Bytes) (i : Nat) : Option Nat :=
  match rsaLen material, i with
  | none, 0 => some (beNat material)
  | none, _ => none
  | some n, 0 => some (beNat (material.take n))
  | some n, 1 => some (beNat ((material.drop n).take 8))
  | some n, i + 2 => if i < 5 then some (beNat ((material.drop (n + 8 + n / 2 * i)).take (n / 2))) else none

/-- An RSA private key. -/
structure RsaKey where
  n : Nat
  e : Nat
  p : Nat
  q : Nat
  dp : Nat
  dq : Nat
  qinv : Nat
deriving DecidableEq, Repr

/-- The RSA key of a payload. -/
def rsaKey (m : Bytes) : RsaKey :=
  let item (i : Nat) : Nat := (keyItem m i).getD 0
  { n := item 0, e := item 1, p := item 2, q := item 3, dp := item 4, dq := item 5, qinv := item 6 }

/-- Longest exponent, in bits. -/
def rsaBits : Nat := 8192

/-- RSA_PRIVATE: the CRT computation. The blinding value multiplies out of its result (R353). -/
def rsaPrivate (k : RsaKey) (c : Nat) : Nat :=
  let m1 := powMod k.p rsaBits (c % k.p) k.dp
  let m2 := powMod k.q rsaBits (c % k.q) k.dq
  (m2 + k.q * (k.qinv * subMod k.p m1 m2 % k.p)) % k.n

/-- Inverse modulo n of a number, by the CRT. -/
def rsaInverse (k : RsaKey) (v : Nat) : Nat :=
  let i1 := powMod k.p rsaBits (v % k.p) (k.p - 2)
  let i2 := powMod k.q rsaBits (v % k.q) (k.q - 2)
  (i2 + k.q * (k.qinv * subMod k.p i1 i2 % k.p)) % k.n

/-- RSA_PUBLIC. -/
def rsaPublic (n e m : Nat) : Nat := powMod n rsaBits (m % n) e

/-- The blinding pair of a key for a drawn value: v^e and v^-1 modulo n; and both members squared (R353). -/
def blindPair (k : RsaKey) (v : Nat) : Nat × Nat := (rsaPublic k.n k.e v, rsaInverse k v)
def blindSquare (n : Nat) (b : Nat × Nat) : Nat × Nat := (b.1 * b.1 % n, b.2 * b.2 % n)

/-- e and n of RSA_PUBLIC are acceptable (R354, R358): e odd, from 3 to below 2^64 and n; n odd, at least 3, its top word non-zero. -/
def rsaExponentOk (n e : Nat) : Bool := e % 2 == 1 && decide (3 ≤ e) && decide (e < 2 ^ 64) && decide (e < n)
def rsaModulusOk (len n : Nat) : Bool := n % 2 == 1 && decide (3 ≤ n) && decide (2 ^ (8 * len - 64) ≤ n)

/-! ### Paddings (RFC 8017) -/

/-- MGF1 over a digest function; `n` blocks from counter `i` on. -/
def mgfBlocks (alg : Nat) (seed : Bytes) : (n i : Nat) → Bytes
  | 0, _ => []
  | n + 1, i => digest alg (seed ++ beBytes 4 i) ++ mgfBlocks alg seed n (i + 1)
def mgf1 (alg : Nat) (seed : Bytes) (len : Nat) : Bytes := (mgfBlocks alg seed (len / 32 + 1) 0).take len

/-- The DigestInfo header of a digest function. -/
def digestInfo (alg : Nat) : Bytes :=
  let l := hashLen alg
  let id := if alg = 1 then 1 else if alg = 2 then 2 else 3
  [0x30, BitVec.ofNat 8 (17 + l), 0x30, 0x0D, 0x06, 0x09, 0x60, 0x86, 0x48, 0x01, 0x65, 0x03, 0x04, 0x02, BitVec.ofNat 8 id, 0x05, 0x00,
    0x04, BitVec.ofNat 8 l]

/-- PKCS #1 v1.5 encoding of a digest in `n` bytes; none where it does not fit. -/
def pkcs1Encode (alg n : Nat) (h : Bytes) : Option Bytes :=
  let t := digestInfo alg ++ h
  if t.length + 11 ≤ n then some ([0x00, 0x01] ++ List.replicate (n - t.length - 3) 0xFF#8 ++ [0x00] ++ t) else none

/-- The salted hash of PSS. -/
def pssHash (alg : Nat) (h salt : Bytes) : Bytes := digest alg (List.replicate 8 0#8 ++ h ++ salt)

/-- Clear the bits of the first byte above `bits` bits of the whole. -/
def clearTop (bits : Nat) (l : Bytes) : Bytes := beBytes l.length (beNat l % 2 ^ bits)

/-- PSS encoding of a digest for a modulus of `bits` bits; none where it does not fit. -/
def pssEncode (alg bits : Nat) (h salt : Bytes) : Option Bytes :=
  let n := (bits - 1 + 7) / 8
  let hl := hashLen alg
  if n < hl + salt.length + 2 then none
  else
    let x := pssHash alg h salt
    let db := List.replicate (n - salt.length - hl - 2) 0#8 ++ [0x01#8] ++ salt
    some (clearTop (bits - 1 - 8 * (hl + 1)) (xorBytes db (mgf1 alg x (n - hl - 1))) ++ x ++ [0xBC#8])

/-- A message representative is a PSS encoding of the digest with a salt of this length. -/
def pssVerifies (alg bits salt em : Nat) (h : Bytes) : Bool :=
  let n := (bits - 1 + 7) / 8
  let hl := hashLen alg
  let l := beBytes n em
  let masked := l.take (n - hl - 1)
  let x := (l.drop (n - hl - 1)).take hl
  let db := clearTop (bits - 1 - 8 * (hl + 1)) (xorBytes masked (mgf1 alg x (n - hl - 1)))
  decide (hl + salt + 2 ≤ n) && decide (em < 2 ^ (bits - 1)) && l.drop (n - 1) == [0xBC#8]
    && db.take (n - salt - hl - 1) == List.replicate (n - salt - hl - 2) 0#8 ++ [0x01#8]
    && pssHash alg h (db.drop (n - salt - hl - 1)) == x

/-- OAEP encoding of a message in `n` bytes with an empty label. -/
def oaepEncode (alg n : Nat) (msg seed : Bytes) : Bytes :=
  let hl := hashLen alg
  let db := digest alg [] ++ List.replicate (n - msg.length - 2 * hl - 2) 0#8 ++ [0x01#8] ++ msg
  let mdb := xorBytes db (mgf1 alg seed (n - hl - 1))
  [0x00#8] ++ xorBytes seed (mgf1 alg mdb hl) ++ mdb

/-- The message of an OAEP encoding; none where it does not decode. -/
def oaepDecode (alg : Nat) (em : Bytes) : Option Bytes :=
  let hl := hashLen alg
  let ms := (em.drop 1).take hl
  let mdb := em.drop (hl + 1)
  let seed := xorBytes ms (mgf1 alg mdb hl)
  let db := xorBytes mdb (mgf1 alg seed mdb.length)
  let rest := (db.drop hl).dropWhile (· == 0#8)
  if em.headD 1 = 0#8 ∧ 2 * hl + 2 ≤ em.length ∧ db.take hl = digest alg [] ∧ rest.headD 0 = 0x01#8 then some (rest.drop 1) else none

end Sys2Proof.Machine
end

