-- ==== Sys2Proof/Machine/Body.lean ====
section
/-! DEFINITION. The bytes of a ring entry: the header, the bodies of the operation catalogue, and the sequence block (08, 10, 11). -/

namespace Sys2Proof.Machine

/-! ### The header (Table 10-4) -/

/-- The header in the first slot of an entry. -/
def entryHeader (l : Bytes) : Header :=
  let len := leAt l 2 1
  let flags := leAt l 3 1
  { opcode := leAt l 0 2, length := len % 128, lengthRes := decide (128 ≤ len), wait := flags.testBit 0, fence := flags.testBit 1,
    notify := flags.testBit 2, flagsRes := flags / 8, userTag := leAt l 4 4, notBefore := leAt l 8 8, completeBy := leAt l 16 8,
    latenessTol := leAt l 24 4, inLen := leAt l 28 4, inAddr := leAt l 32 8, outAddr := leAt l 40 8, outLen := leAt l 48 4 }

/-- An entry's header, and its body: the slots after the header (R463). -/
def RawEntry.hdr (e : RawEntry) : Header := entryHeader e.slots
def RawEntry.body (e : RawEntry) : Bytes := (e.slots.take (64 * e.hdr.length)).drop 64

/-! ### The sequence block (Table 08-17) -/

/-- An engine command word (Table 08-4). -/
def pkeCmd (w : Nat) : PkeCmd :=
  { op := fieldOf w 5 0, mctx := fieldOf w 7 6, dst := fieldOf w 17 8, a := fieldOf w 27 18, b := fieldOf w 37 28, len := fieldOf w 45 38,
    bit := fieldOf w 58 46, bitstep := w.testBit 59, res := fieldOf w 63 60 }

/-- SOURCES, RESULTS and COMMANDS of a sequence block, and its length with maps and commands. -/
def seqCounts (l : Bytes) : Nat × Nat × Nat := (leAt l 2 1, leAt l 3 1, leAt l 4 2)
def seqLength (l : Bytes) : Nat :=
  let c := seqCounts l
  8 + 4 * c.1 + 4 * c.2.1 + 8 * c.2.2

/-- A size or count of the block is 0 (R374). DESIGN CHOICE: a block that its entry does not hold is malformed too. -/
def seqMalformed (l : Bytes) : Bool :=
  let c := seqCounts l
  leAt l 1 1 == 0 || c.1 == 0 || c.2.1 == 0 || c.2.2 == 0 || decide (l.length < seqLength l)

/-- Offsets of the result map and of the commands. -/
def seqResultsAt (l : Bytes) : Nat := 8 + 4 * (seqCounts l).1
def seqCmdsAt (l : Bytes) : Nat := seqResultsAt l + 4 * (seqCounts l).2.1

/-- The source map with the values of the input buffer, each big-endian and 8 × LEN bytes long. -/
def seqSources : (n : Nat) → (map input : Bytes) → List SeqSource
  | 0, _, _ => []
  | n + 1, map, input =>
    let len := leAt map 2 1
    { slot := leAt map 0 2, len, role := leAt map 3 1, value := beNat (input.take (8 * len)) }
      :: seqSources n (map.drop 4) (input.drop (8 * len))

/-- The block with its maps, commands and source values. -/
def seqBlock (l input : Bytes) : SeqBlock :=
  let c := seqCounts l
  { cls := leAt l 0 1, slotLen := leAt l 1 1, sources := seqSources c.1 (l.drop 8) input,
    results := (List.range c.2.1).map fun i => (leAt l (seqResultsAt l + 4 * i) 2, leAt l (seqResultsAt l + 4 * i + 2) 1),
    cmds := (List.range c.2.2).map fun i => pkeCmd (leAt l (seqCmdsAt l + 8 * i) 8) }

/-- Reserved bits of the block, a map entry or a command word are non-zero (R374). -/
def seqReserved (l : Bytes) : Bool :=
  let c := seqCounts l
  leAt l 6 2 != 0 || (List.range c.2.1).any (fun i => leAt l (seqResultsAt l + 4 * i + 3) 1 != 0)
    || (List.range c.2.2).any fun i => (pkeCmd (leAt l (seqCmdsAt l + 8 * i) 8)).res != 0

/-! ### Named fields of the bodies -/

/-- Named fields of an opcode's body, offset and size (Tables 11-5, 11-7, 11-8, 11-11, 11-12, 11-15, 11-16, 11-20, 11-21 and the text of
chapter 11). A counted list is named up to its count. -/
def namedFields (op : Nat) (l : Bytes) : List (Nat × Nat) :=
  match op with
  | 0x0101 | 0x0102 | 0x0104 | 0x0105 | 0x0106 | 0x0108 => [(0, 4)]
  | 0x0103 => [(0, 32)]
  | 0x0107 => [(0, 2), (4, 12)]
  | 0x0109 => [(0, 4), (8, 32)]
  | 0x010A => [(0, 1), (8, 32)]
  | 0x0201 => [(0, 1)]
  | 0x0202 => [(0, 6), (8, 12)]
  | 0x0203 => [(0, 6), (8, 12), (0x20, min 32 (leAt l 5 1))]
  | 0x0204 | 0x0205 => [(0, 6), (8, 16)]
  | 0x0301 => [(0, 5)]
  | 0x0302 => [(0, 2)]
  | 0x0303 | 0x0305 => [(0, 4)]
  | 0x0306 | 0x0307 => [(0, 8)]
  | 0x0308 | 0x0309 => [(0, 2), (4, 4)]
  | 0x030A | 0x030C => [(0, 1)]
  | 0x030D => [(0, seqLength l)]
  | 0x0401 => [(0, 8)]
  | 0x0402 | 0x0404 | 0x0405 | 0x0406 => [(0, 4)]
  | 0x0403 => [(0, 5)]
  | 0x0501 => [(0, 4)]
  | 0x0503 => [(0, 1), (4, 4)]
  | 0x0601 => [(0, 4)]
  | 0x0602 | 0x0603 => [(0, 9), (12, 4)]
  | 0x0605 => [(0, 1)]
  | 0x0606 => [(0, 1), (4, 8)]
  | 0x0607 => [(0, 1), (8, 8)]
  | 0x0608 | 0x0609 => [(0, 8)]
  | 0x0701 => [(0, 0x19), (0x1A, 2 * min 8 (leAt l 0x18 1))]
  | 0x0702 => [(0, 2), (8, 16)]
  | 0x0802 => [(0, 8)]
  | 0x0A01 => [(0, 2)]
  | 0x0A02 => [(0, 1), (4, 4)]
  | 0x0B02 => [(0, 2), (4, 8)]
  | 0x0B03 | 0x0B05 | 0x0B07 => [(0, 1)]
  | 0x0B06 => [(0, 5)]
  | 0x0C01 => [(0, 16)]
  | 0x0C02 | 0x0C03 | 0x0C05 => [(0, 1)]
  | 0x0C04 => [(0, 1), (4, 4)]
  | _ => []

/-- Reserved bits of named fields: offset, size, lowest reserved bit, where those above are reserved too. DEDUCED: those of FLAGS of
ECDSA_VERIFY are those of ECDSA_SIGN. -/
def reservedFrom (op : Nat) : List (Nat × Nat × Nat) :=
  match op with
  | 0x0101 => [(0, 4, 1)]
  | 0x0103 => [(1, 1, 3)]
  | 0x0107 => [(1, 1, 1)]
  | 0x0204 | 0x0205 => [(5, 1, 1)]
  | 0x0301 => [(4, 1, 1)]
  | 0x0302 => [(1, 1, 1)]
  | 0x0802 => [(5, 1, 1)]
  | 0x0C01 => [(2, 2, 12)]
  | _ => []

/-- Every byte of a body from offset `i` on lies in a named field or is zero. -/
def unnamedZero (fields : List (Nat × Nat)) : (i : Nat) → Bytes → Bool
  | _, [] => true
  | i, b :: t => (b == 0#8 || fields.any fun x => decide (x.1 ≤ i) && decide (i < x.1 + x.2)) && unnamedZero fields (i + 1) t

/-- A reserved byte or bit of the body is non-zero (R463). -/
def bodyReserved (op : Nat) (l : Bytes) : Bool :=
  !unnamedZero (namedFields op l) 0 l || (reservedFrom op).any (fun x => leAt l x.1 x.2.1 / 2 ^ x.2.2 != 0)
    || (op == 0x030D && seqReserved l)

/-- A structural size or count of the body is malformed (R374). -/
def bodyMalformed (op : Nat) (l : Bytes) : Bool := op == 0x030D && seqMalformed l

/-! ### Result space (Table 11-2) -/

/-- KEY_LEN of a kind of fixed length; the body's for kind 0x03. -/
def kindLen (kind len : Nat) : Nat :=
  match kind with
  | 0x01 => 16
  | 0x03 => len
  | 0x11 | 0x14 => 48
  | 0x20 => 904
  | 0x21 => 1352
  | 0x22 => 1800
  | _ => 32

/-- BLOB_LEN of a key. -/
def blobLen (keyLen : Nat) : Nat := 96 + (keyLen + 15) / 16 * 16

/-- Result space of an opcode where its header and body decide it; 0 where a key does (R425). -/
def resultSpace (h : Header) (l : Bytes) : Nat :=
  match h.opcode with
  | 0x0103 => blobLen (kindLen (leAt l 0 1) (leAt l 2 2))
  | 0x010A => 4096
  | 0x0201 => if hashOk (leAt l 0 1) then hashLen (leAt l 0 1) else 0
  | 0x0202 => leAt l 5 1
  | 0x0204 => h.inLen - leAt l 0x14 4 + leAt l 4 1 + 12 * (leAt l 5 1 % 2)
  | 0x0205 => h.inLen - leAt l 0x14 4 - leAt l 4 1
  | 0x0303 => 64
  | 0x0309 => leAt l 0 2
  | 0x030D => (seqBlock l []).results.foldl (fun n x => n + 8 * x.2) 0
  | 0x0402 => 32768
  | 0x0403 => h.inLen + 29
  | 0x0404 => h.inLen
  | 0x0406 => 16384
  | 0x0501 => if leAt l 0 4 = 0 then 0 else 8 + leAt l 0 4
  | 0x0503 => leAt l 4 4
  | 0x0601 | 0x0602 | 0x0603 | 0x0801 | 0x0B03 => 16
  | 0x0608 => 128 * leAt l 4 4
  | 0x0802 | 0x0A01 => 8
  | 0x0B01 => 64
  | _ => 0

/-- The angle A of a TIMED_PUBLISH with ANGLE set (R438). -/
def entryAngle (h : Header) (l : Bytes) : Option Nat :=
  if h.opcode = 0x0802 ∧ leAt l 5 1 % 2 = 1 then some (leAt l 6 2) else none

end Sys2Proof.Machine
end

