-- ==== Sys2Proof/Config.lean ====
section
/-! DEFINITION. What an implementation fixes and what the spec leaves open. The opaque constants have no body: nothing in
Lean can prove a value of them. -/

namespace Sys2Proof

/-- A free value: the n-th value the machine makes that the spec does not fix. `State.free` counts them. -/
opaque Config.freeValue : Nat → BitVec 64

/-- Body bytes of a record whose layout the spec does not give. -/
opaque Config.recordBody : RecBody → Bytes

/-- Bytes of a copy ahead of MACsec, from its destination address on: its outermost tag, its security information, its redundancy number
and LAN, and the frame's bytes as received. -/
opaque Config.frameBytes : (vlan : Option (Nat × Nat)) → Option SecOut → (red : Option (Nat × Nat)) → Bytes → Bytes

/-- Span that the standard of a profile has authenticated in a frame whose security information the module writes (R146): profile, key
identifier, SPDU number, key start and remaining life, over the span of the frame as it arrives. -/
opaque Config.generatedSpan : (profile keyId spdu start life : Nat) → (span : Bytes) → Bytes

/-- Bytes of a frame of the cores ahead of MACsec, from its destination address on: source address, redundancy number and LAN, what it
says. -/
opaque Config.coreBytes : (src : Nat) → (red : Option (Nat × Nat)) → CoreFrame → Bytes

/-- The fixed test value of the RSA test of IMPORT_KEY (R355). -/
opaque Config.rsaTestValue : Nat

/-- KEYID, the context from which the standard has KEK and ICK derived from the CAK of a handle (IEEE 802.1X). -/
opaque Config.mkaContext : (handle : Nat) → Bytes

/-- A built-in self-test signature: block number (16). -/
opaque Config.selfTestSignature : Nat → Nat

/-- Length of a frame after its security information has been stripped or generated: handling, profile, length before. -/
opaque Config.securedLength : (rewrite profile len : Nat) → Nat

/-- Version that the recovery firmware of the boot ROM shows; the spec gives none. -/
opaque Config.recoveryVersion : Nat

end Sys2Proof
end

