-- ==== Sys2Proof/Blocks/Arc.lean ====
section
/-! DEFINITION. The state of the archive controller: Anvil's zones, logs, checkpoints, governor, staging and capture
windows (06). -/

namespace Sys2Proof.Machine

/-- A record waiting in archive staging until RECORD_APPEND appends it (R237). -/
structure Staged where
  log : Nat
  typ : Nat
  owner : Nat
  quality : Nat
  flags : Nat := 0
  stamp : Nat
  /-- capture group of the copy's entry, for the window log -/
  group : Nat := 0
  body : RecBody
deriving DecidableEq, Repr

/-- A zone opened for a log (Table 06-3). -/
structure Zone where
  log : Nat
  generation : Nat
  firstSeq : Nat
  lastSeq : Nat
  chainIn : Nat
  unitsUsed : Nat
  newest : Nat
  /-- order of opening, over all zones -/
  order : Nat
  reserve : Bool := false
  closed : Bool := false
  /-- unit offset at which valid records end, once closed by the start-up check (R268) -/
  validEnd : Option Nat := none
  /-- CP_SEQ of the last checkpoint when the last record was appended -/
  lastCp : Nat := 0
deriving DecidableEq, Repr

/-- What the zone directory of the anchor says of a zone: its log, its generation, and the unit offset at which valid records end in one
closed by the start-up check (R233, R268). -/
structure DirEntry where
  log : Nat
  generation : Nat
  validEnd : Option Nat
deriving DecidableEq, Repr

/-- A copy of the anchor (Table 06-1). -/
structure Anchor where
  archiveId : Nat := 0
  epoch : Nat := 0
  directory : Tbl DirEntry := []
deriving DecidableEq, Repr

/-- One of the three logs (R236, R237). -/
structure LogState where
  seq : Nat := 0
  chain : Nat := 0
  openZone : Option Nat := none
  /-- records on NAND, newest first -/
  records : List Record := []
deriving DecidableEq, Repr

/-- An open summary of R244. -/
structure Summary where
  entry : Nat
  cause : Nat
  owner : Nat
  quality : Nat
  first : Nat
  last : Nat
  ev : StreamEvent
  opened : Nat
deriving DecidableEq, Repr

/-- A capture window (R255, R744). -/
structure CapWindow where
  number : Nat
  function : Nat
  group : Nat
  start : Nat
  finish : Nat
  opened : Bool := false
  written : Nat := 0
  refused : Nat := 0
deriving DecidableEq, Repr

structure Arc where
  ready : Bool := false
  govLevel : Nat := 0
  reserveInUse : Bool := false
  reserveFull : Bool := false
  stopped : Bool := false
  truncated : Bool := false
  log0 : LogState := {}
  log1 : LogState := {}
  log2 : LogState := {}
  zones : Tbl Zone := []
  /-- the two copies of the anchor, by their first zone: 0 and 2 -/
  anchors : Tbl Anchor := [(0, {}), (2, {})]
  /-- generations of zones that are not open now -/
  gens : Tbl Nat := []
  zoneOrder : Nat := 0
  poolFree : Nat := 0
  reserveFree : Nat := 0
  /-- released zones not yet erased (R279) -/
  released : List Nat := []
  cpSeq : Nat := 0
  lostTotal : Nat := 0
  refusedRing : Nat := 0
  refusedWindow : Nat := 0
  epoch : Nat := 0
  archiveId : Nat := 0
  /-- bytes written in the current RTC hour and in the previous 719 hours, newest first (R259) -/
  hourNow : Nat := 0
  hours : List Nat := []
  hourIndex : Nat := 0
  /-- bytes written since the last 1 MB check (R260) -/
  sinceCheck : Nat := 0
  /-- rate allowance in bytes (R262) -/
  allowance : Nat := 0
  /-- the RTC's elapsed count at which the allowance was last brought up to date -/
  rateAt : Nat := 0
  /-- RTC elapsed count at the last checkpoint (R677) -/
  cpAt : Nat := 0
  staging : List Staged := []
  /-- event area and capture area in use, bytes (R263) -/
  eventBytes : Nat := 0
  captureBytes : Nat := 0
  summaries : List Summary := []
  windows : List CapWindow := []
deriving DecidableEq, Repr

end Sys2Proof.Machine
end

