-- ==== Sys2Proof/Blocks/Io.lean ====
section
/-! DEFINITION. SMBus and the debug port (19). -/

namespace Sys2Proof.Machine

structure Io where
  /-- alert causes of Table 19-9 -/
  alerts : Nat := 0
  /-- address straps as read at the start of the standby domain (R725): a0 and a1 open -/
  a0 : Bool := false
  a1 : Bool := false
  /-- the SMBus target answers: 50 ms have passed since the standby domain was fed (R722) -/
  ready : Bool := false
  /-- PERST_N asserted -/
  perst : Bool := true
deriving DecidableEq, Repr

end Sys2Proof.Machine
end

