-- ==== Sys2Proof/Blocks/Pln.lean ====
section
/-! DEFINITION. The state of the plan store: partitions, banks, switches, vault image slots and plan records (03). -/

namespace Sys2Proof.Machine

/-- Table 03-15. -/
inductive Standby where
  | empty | loading | ready | armed | draining | previous
deriving DecidableEq, Repr

/-- One copy of a partition's plan: its version and used entries by entry number. -/
structure PlanCopy where
  version : Nat
  image : PlanImage
  entries : Tbl Entry
deriving DecidableEq, Repr

/-- A partition and its plan record (R88, R117, R135). -/
structure Partition where
  base : Nat
  size : Nat
  active : Option PlanCopy := none
  /-- what the standby copy holds -/
  held : Option PlanCopy := none
  standby : Standby := .empty
  /-- the standby state to return to when LOADING ends without success -/
  before : Standby := .empty
  rollback : Bool := false
  /-- switch or rollback instant, ns -/
  instant : Nat := 0
  deferred : Bool := false
  /-- grid second boundary of a pending release, ns (R90) -/
  releaseAt : Option Nat := none
  /-- a plan-load waiting for DRAINING to end (Table 03-16) -/
  loadHeld : Bool := false
  /-- vault slots, 0 to 2, of the active, the standby and the incoming image (R134, R270) -/
  vaultActive : Option Nat := none
  vaultStandby : Option Nat := none
  vaultIncoming : Option Nat := none
  /-- the held version has been armed or active: its keys are pinned (R122) -/
  pinned : Bool := false
  /-- entries under reload after a memory error, with the grid time of its detection: active bank, standby bank (R132) -/
  reload : Tbl Nat := []
  reloadStandby : Tbl Nat := []
deriving DecidableEq, Repr

/-- An entry of a bank whose match-store keys are being rebuilt, since when (R110). -/
structure Rebuild where
  entry : Nat
  standby : Bool
  since : Nat
deriving DecidableEq, Repr

/-- A sector of a vault zone that holds an image, with its header: plan version, IMAGE_LEN, SHA-384 digest (R270). -/
structure VaultSlot where
  version : Nat
  imageLen : Nat
  digest : Bytes
  image : PlanImage
deriving DecidableEq, Repr

/-- A vault zone (R270): the images in sectors 0 to 2, and the sector of 3 to 7 into which key blobs are appended, with what has been
appended to it. -/
structure VaultZone where
  slots : Tbl VaultSlot := []
  sector : Nat := 3
  blobs : List Blob := []
deriving DecidableEq, Repr

structure Pln where
  parts : Tbl Partition := []
  /-- highest accepted version per function (R85, R86) -/
  highest : Tbl Nat := []
  /-- match-store keys under rebuild (R110) -/
  rebuilding : List Rebuild := []
  /-- vault zones by zone number: 4 + 2f holds copy 0 of function f, 5 + 2f copy 1 (R134, R270) -/
  zones : Tbl VaultZone := []
deriving DecidableEq, Repr

end Sys2Proof.Machine
end

