-- ==== Sys2Proof/Blocks/Rnu.lean ====
section
/-! DEFINITION. The state of the random number unit and of Bellows (09). -/

namespace Sys2Proof.Machine

/-- Table 09-1. -/
inductive RnuState where
  | starting | ready | restarting | fault
deriving DecidableEq, Repr

structure Rnu where
  st : RnuState := .starting
  attempts : Nat := 0
  /-- the blocks of Bellows with bytes not yet drawn, first to be drawn first (R391, R392) -/
  bellows : List Bytes := []
  /-- the seed of 48 bytes that is ready ahead of need (R382) -/
  seed : Option Bytes := none
  /-- the expander's state, once instantiated (R383) -/
  expander : Option Expander := none
  /-- output position (R392) -/
  pos : Nat := 0
  /-- bytes generated since the last seed, and grid time of that seed (R384) -/
  generated : Nat := 0
  seededAt : Nat := 0
  cause : Nat := 0
  source : Nat := 0
  startup : Bool := false
  failPos : Nat := 0
  failures : Nat := 0
  /-- an ENTROPY_RESTART that waits for the end of the first attempt (R409), with its context -/
  restart : Option (Call × Option Nat) := none
  /-- RNU_TEST_PATTERN (R405) -/
  pattern : Bool := false
  patternSeed : Nat := 1
  /-- states of the LFSR that stands in for NS0 and for NS1 under the pattern -/
  lfsr0 : Nat := 0
  lfsr1 : Nat := 0
deriving DecidableEq, Repr

end Sys2Proof.Machine
end

