-- ==== Sys2Proof/Blocks/Sck.lean ====
section
/-! DEFINITION. The state of the slot clock and the stamp unit (02, 18 Slot clock settings) and of the RTC (R58, R743). -/

namespace Sys2Proof.Machine

/-- What the slot clock holds of one reference (R42, R43; Table 02-3 numbers). -/
structure RefClock where
  st : RefState := .absent
  /-- signal or messages present -/
  present : Bool := false
  /-- the measured offset changed by no more than 100 ns over the last second (R43) -/
  steady : Bool := false
  /-- reference time minus grid time at the last measurement, ns; reference 3: frequency in 0.001 ppb -/
  offset : Int := 0
  measured : Bool := false
  /-- last offset measured in an earlier grid second, which R43 compares with -/
  prev : Option Int := none
  /-- a_ref of R34, ns -/
  aRef : Nat := 0
  /-- DECLARED of SCK_REF_STATUS -/
  declared : Nat := 0
  /-- qualification time elapsed, µs -/
  qualUs : Nat := 0
  /-- failure conditions of Table 02-4 other than the offset test. PTP: sum of 1 (Announce timeout), 2 (Sync timeout)
  and 4 (clockClass); 1PPS: 1 (no edge); IRIG-B: consecutive missing or discarded frames; 10 MHz: 1 -/
  missing : Nat := 0
  /-- grid time of the last edge, frame or message -/
  lastAt : Nat := 0
deriving DecidableEq, Repr

/-- The bound of HOLDOVER and EXPIRED (R54, R55, R57). Bounds are in units of 1e-20 ns. -/
structure Holdover where
  e0 : Nat := 0
  /-- linear term per µs -/
  uPerUs : Nat := 0
  /-- ageing and temperature terms apply (R54) -/
  full : Bool := true
  /-- the 10 MHz bound of R55 is in force -/
  tenMhz : Bool := false
  /-- frequency uncertainty of the run that the entry ended, per µs -/
  uRun : Nat := 0
  us : Nat := 0
  temp0 : Int := 0
  dTmax : Nat := 0
deriving DecidableEq, Repr

/-- State of a PTP port of the module (R59, R227). -/
inductive PtpPort where
  | initializing | listening | slave | master | passive | transparent
deriving DecidableEq, Repr

/-- What the time-quality byte and validity were from a grid time on (R65): stamps are judged by the tick they were taken at. `step`:
the amount of the step with which the entry begins, else 0. -/
structure TimePast where
  from_ : Nat
  quality : Nat
  valid : Bool
  step : Int := 0
deriving DecidableEq, Repr

structure Sck where
  /-- grid time at the last tick or step, ns since the PTP epoch (TAI) -/
  now : Nat := 0
  st : TimeState := .unlocked
  /-- error bound e of R32 in 1e-20 ns -/
  e : Nat := 0
  /-- a bound is known: false from module reset until the RTC is read, and after the RTC has lost power (R66) -/
  bounded : Bool := false
  valid : Bool := false
  /-- the RTC has been read since module reset; before that every stamp is taken from the RTC alone (R65, SCK_TIME_STATUS) -/
  rtcRead : Bool := false
  /-- quality and validity of the recent past, newest first -/
  past : List TimePast := []
  refs : Tbl RefClock := []
  selected : Nat := 0
  /-- offset to the selected reference still to be removed, fs -/
  remFs : Int := 0
  /-- a first adoption waiting for its tick (R50) -/
  adopt : Option Nat := none
  /-- a time-step operation waiting for its tick (R51) -/
  stepTo : Option Nat := none
  /-- its call, its context and MAX_STEP (R489) -/
  stepCall : Option (Call × Option Nat × Nat) := none
  hold : Holdover := {}
  /-- the disciplined run of R54: none before the first LOCKED of the run; µs since then -/
  runUs : Option Nat := none
  /-- µs for which the 10 MHz input has been stable (R43, R55) -/
  tenStableUs : Nat := 0
  ocxoFailed : Bool := false
  ocxoTemp : Int := 0
  /-- PTP currentUtcOffset and currentUtcOffsetValid (R40) -/
  ptpUtc : Option Nat := none
  /-- LEAP_PENDING until this grid time (R65) -/
  leapUntil : Option Nat := none
  gmId : Nat := 0
  /-- totalTimeInaccuracy of the grandmaster's IEEE C37.238 TLV, ns, and its alternate time offset indicator TLV (R59) -/
  gmInaccuracy : Option Nat := none
  altOffset : Option Nat := none
  ptpPorts : Tbl PtpPort := []
  /-- measured peer delay per port, ns -/
  peerDelay : Tbl Nat := []
  /-- settings in force, by register offset, once a stored setting has taken effect (R699) -/
  inForce : Tbl Nat := []
  /-- stored settings whose effect waits (R699) -/
  waiting : List Nat := []
  angleSt : AngleState := .lost
  /-- phase of the tracked fundamental, 1e-9 cycles -/
  phase : Nat := 0
  freq : Nat := 0
  /-- the last usable sample of the designated channel: its instant, ns, and its value (R75) -/
  lastSample : Option (Nat × Int) := none
  /-- the last positive-going zero crossing, in 1e-3 ns of grid time (R76) -/
  lastCross : Option Nat := none
  /-- µs since the last usable sample, and µs of uninterrupted usable samples -/
  sinceSampleUs : Nat := 0
  usableUs : Nat := 0
  coastUs : Nat := 0
  /-- RTC time value, ns, and the RTC's elapsed count of 32.768 kHz cycles with its fraction in 1e-6 cycles (R743) -/
  rtcNs : Nat := 0
  rtcCount : Nat := 0
  rtcFrac : Nat := 0
  /-- elapsed count when the RTC was last set from valid grid time (R34) -/
  rtcSetCount : Nat := 0
  rtcLost : Bool := false
  ppsEdges : Nat := 0
deriving DecidableEq, Repr

end Sys2Proof.Machine
end

