-- ==== Sys2Proof/Blocks/Stc.lean ====
section
/-! DEFINITION. The state of the self-test controller (16). -/

namespace Sys2Proof.Machine

/-- A SELF_TEST_RUN under way: the block, whether it was in service before, and the operation. -/
structure TestRun where
  block : Nat
  was : Bool
  call : Call
  ctx : Option Nat
deriving DecidableEq, Repr

structure Stc where
  /-- bit n: pipeline n in service, under test -/
  pipes : Nat := 0
  testing : Nat := 0
  /-- the SELF_TEST_RUN operations under way -/
  under : List TestRun := []
  /-- pipeline under the rolling test -/
  rollPipe : Option Nat := none
  rolling : Bool := false
  rollSuspended : Bool := false
  period : Nat := 0
  nextPipe : Nat := 0
  /-- grid time of the next rolling test -/
  nextAt : Nat := 0
  passes : Nat := 0
  fails : Nat := 0
  passed : Bool := false
  hold : Bool := false
  fail0 : Nat := 0
  fail1 : Nat := 0
  fail2 : Nat := 0
deriving DecidableEq, Repr

end Sys2Proof.Machine
end

