-- ==== Sys2Proof/Blocks/Tls.lean ====
section
/-! DEFINITION. The TLS sessions (11). -/

namespace Sys2Proof.Machine

/-- A TLS session: 0 in progress, 1 established, 2 closed. -/
structure TlsSession where
  f : Nat
  key : Nat
  server : Bool
  versions : Nat
  requirePeer : Bool := false
  ownCert : Bytes := []
  st : Nat := 0
  /-- the version settled by the handshake is TLS 1.3 -/
  tls13 : Bool := true
  peerCert : Bytes := []
  /-- traffic keys and IVs for sending and receiving, and the records sealed and opened under them -/
  txKey : Bytes := []
  rxKey : Bytes := []
  txIv : Nat := 0
  rxIv : Nat := 0
  sealedCount : Nat := 0
  openedCount : Nat := 0
deriving DecidableEq, Repr

structure Tls where
  sessions : Tbl TlsSession := []
deriving DecidableEq, Repr

end Sys2Proof.Machine
end

