-- ==== Sys2Proof/Blocks/Tm.lean ====
section
/-! DEFINITION. The state of the tamper monitor (15): latches, conditions, journal, counters and the backup staging
buffer. -/

namespace Sys2Proof.Machine

/-- A backup staging entry (Table 15-7). -/
structure StagedAlarm where
  cause : Nat
  source : Nat
  snowdrop : Bool
  stamp : Nat
  quality : Nat
  subtype : Nat := 0
  value : Nat := 0
deriving DecidableEq, Repr

/-- Entries and occurrences of a cause and source in the current RTC hour (R602). -/
structure HourCount where
  cause : Nat
  source : Nat
  entries : Nat
  excess : Nat := 0
  level : Nat := 0
deriving DecidableEq, Repr

structure Tm where
  clearHold : Bool := false
  releaseHold : Bool := false
  quenchW : Bool := false
  quenchR : Bool := false
  /-- a Restrict latch has taken effect (R588) -/
  restrictOn : Bool := false
  /-- grid time at which the level left Record (Table 04-8) -/
  levelAt : Nat := 0
  /-- CLEAR_RESTRICT applied, waiting for its tick (R619) -/
  clearPending : Bool := false
  /-- REPROVISION applied, waiting for the module reset (R622) -/
  reprovPending : Bool := false
  quenchBusy : Bool := false
  ready : Bool := false
  lightA : Bool := false
  lightB : Bool := false
  /-- conditions present: cause and source -/
  present : List (Nat × Nat) := []
  /-- loops whose wiring reports a break, watched or not: loop and DATA (R598) -/
  loopOpen : Tbl Nat := []
  /-- newest first -/
  journal : List JournalEntry := []
  full : Bool := false
  stagedLast : Nat := 0
  overflowLast : Bool := false
  staging : List StagedAlarm := []
  overflow : Nat := 0
  bitmap : Nat := 0
  hours : List HourCount := []
  hour : Nat := 0
  counters : Tbl Nat := []
  /-- RTC elapsed count at the last LOGIC_INTEGRITY alarm (R593) -/
  lastLogic : Option Nat := none
  /-- the backup domain has lost power since the last start (R613) -/
  backupLost : Bool := false
  cellMv : Nat := 0
  dieTemp : Int := 0
deriving DecidableEq, Repr

end Sys2Proof.Machine
end

