-- ==== Sys2Proof/Blocks/Ts.lean ====
section
/-! DEFINITION. The state of the task scheduler, the protocol cores, the queue manager and the delay lists (13). -/

namespace Sys2Proof.Machine

/-- What a work item works on: a host operation's context, a packet of a queue, or a task record (R523). -/
inductive WorkKind where
  | ctx (id : Nat) | packet (queue : Nat) | task (id : Nat) | level (queue : Nat)
deriving DecidableEq, Repr

/-- A work item with its lease epoch (R529). -/
structure WorkItem where
  id : Nat
  kind : WorkKind
  group : Nat
  epoch : Nat := 0
  /-- the core running it -/
  core : Option Nat := none
  committed : Bool := false
  /-- access denials met by the item (Table 14-6) -/
  denials : Nat := 0
  /-- RTC elapsed count since which it is ready (R677) -/
  readyAt : Nat := 0
deriving DecidableEq, Repr

/-- STATE of TS_CORE_STATUS (R553). -/
inductive CoreState where
  | absent | waiting | running | restarting | outOfService
deriving DecidableEq, Repr

/-- A protocol core. -/
structure CoreRt where
  st : CoreState := .absent
  group : Nat := 0
  item : Option Nat := none
  /-- grid time at which the lease was last renewed, ns -/
  leaseAt : Nat := 0
  declared : Nat := 0
  restarts : Nat := 0
  /-- RTC elapsed seconds of the last declarations and restarts (R536) -/
  failures : List Nat := []
  /-- pending journal entry of a declaration: group, retired epoch, stale writes since (R534) -/
  retired : Option (Nat × Nat × Nat) := none
  /-- halted by a debug token (R638) -/
  halted : Bool := false
  /-- under SELF_TEST_RUN (R643): no further work is taken -/
  testing : Bool := false
deriving DecidableEq, Repr

/-- A packet in a queue (R539 to R541). -/
structure Packet where
  len : Nat
  data : Bytes := []
  stamp : Nat := 0
  quality : Nat := 0
  /-- bytes already read -/
  readPos : Nat := 0
  started : Bool := false
  /-- the rest has been dropped (R542, R544) -/
  dropped : Bool := false
  /-- first unit lost to a memory error (R544): byte position -/
  lostAt : Option Nat := none
  /-- context whose held input this is (queues 64 to 127) -/
  ctx : Option Nat := none
  /-- the work item that reads it -/
  item : Option Nat := none
deriving DecidableEq, Repr

/-- A queue. -/
structure Queue where
  packets : List Packet := []
deriving DecidableEq, Repr

/-- An entry of a delay list (R547): due stamp in ns, acceptance sequence number, context. -/
structure DelayEntry where
  due : Nat
  seq : Nat
  ctx : Nat
deriving DecidableEq, Repr

/-- A read unit of the queue manager with its tag (Table 13-4). -/
structure ReadUnit where
  data : Bytes := []
  count : Nat := 0
  sop : Bool := false
  eop : Bool := false
  idle : Bool := false
  lost : Bool := false
deriving DecidableEq, Repr

structure Ts where
  cores : Tbl CoreRt := []
  /-- credits of the groups and the group last served (R526) -/
  credit : Tbl Nat := []
  lastGroup : Nat := 15
  /-- ready item ids per group, head first -/
  ready : Tbl (List Nat) := []
  items : List WorkItem := []
  nextItem : Nat := 0
  /-- RTC elapsed count at the last dispatch (R677) -/
  dispatchAt : Nat := 0
  nextTask : Nat := 0
  redispatches : Nat := 0
  staleWrites : Nat := 0
  queues : Tbl Queue := []
  /-- limit and reserved cells of the firmware queues 128 to 4,095 -/
  fwLimits : Tbl (Nat × Nat) := []
  lost : Nat := 0
  /-- the read unit last delivered -/
  lastUnit : ReadUnit := {}
  /-- delay lists 0 to 3 -/
  delay0 : List DelayEntry := []
  delay1 : List DelayEntry := []
  delay2 : List DelayEntry := []
  delay3 : List DelayEntry := []
  delaySeq : Nat := 0
  /-- delay lists being rebuilt (R551) -/
  rebuilding : List Nat := []
  /-- angle watches: function and context (R550) -/
  watches : List (Nat × Nat) := []
deriving DecidableEq, Repr

end Sys2Proof.Machine
end

