-- ==== Sys2Proof/Machine/Boot.lean ====
section
/-! DEFINITION. What the module holds from manufacture or from its boot ROM: the capacities of the archive, an archive in which
nothing has been written, and the boot rule set of the access checker. -/

namespace Sys2Proof.Machine

/-- Usable zones of the ordering code: NX-880A, or NX-880B (Table 06-2). -/
def usableZones (b : Bool) : Nat := if b then 7451 else 14902

/-- Reserve zones of the ordering code (Table 06-2). -/
def reserveZones (b : Bool) : Nat := if b then 150 else 299

/-- Chain value of a log before its first record (R245). -/
def chainStart (archiveId epoch log : Nat) : Nat :=
  beNat (digest 2 (beBytes 4 0x414E564C ++ beBytes 16 archiveId ++ leBytes 4 epoch ++ leBytes 1 log))

/-- An archive that holds nothing: every usable zone is free, the reserve is whole, and each log's chain is at its start (R234,
R245). -/
def emptyArchive (b : Bool) : Arc :=
  { poolFree := usableZones b - reserveZones b, reserveFree := reserveZones b,
    log0 := { chain := chainStart 0 0 0 }, log1 := { chain := chainStart 0 0 1 },
    log2 := { chain := chainStart 0 0 2 } }

/-- The boot rule set (R569): groups 3 and 10 have the SRAM and the configuration store. -/
def bootRules : AccessTable :=
  { regions := [(0, { sub := 255, enable := true, sizeExp := 27, base := 0, read := 1032, write := 1032 }),
                (1, { sub := 255, enable := true, sizeExp := 23, base := 0x10000000, read := 1032, write := 1032 })] }

end Sys2Proof.Machine
end

