-- ==== Sys2Proof/Machine/State.lean ====
section
/-! DEFINITION. The state of the module, the reasons a step can stop, and the state after reset. -/

namespace Sys2Proof.Machine

/-- Faults. No command of this model stops with one: the spec gives every command an effect, and what it calls an error is a
completion, an event or a halt of a function. -/
inductive Fault where
  /-- raised by nothing; kept so that the type is inhabited; safe -/
  | neverRaised
deriving DecidableEq, Repr

/-- Refusals. -/
inductive Refusal where
  /-- raised by an arm of exec that has no meaning yet; safe: the machine stops -/
  | notModelled (mnemonic : String)
deriving DecidableEq, Repr

/-- The module. Every field but `pending`, `out` and `free` is state that the spec names. -/
structure State where
  /-- commands that wait, the next one first -/
  pending : List Instr := []
  /-- what is fixed in one module: ordering code, silicon identity, base MAC address (00, 07, 11) -/
  ident : Ident := {}
  /-- slot clock, stamp unit, RTC (02, 18) -/
  sck : Sck := {}
  /-- Anvil, the archive (06) -/
  arc : Arc := {}
  /-- plan store (03) -/
  pln : Pln := {}
  /-- frame engine, ports, redundancy pairs, MACsec (04, 05) -/
  fe : Fe := {}
  /-- host interface: functions, rings, contexts, data ports, MSI-X, IDE (10, 12) -/
  hif : Hif := {}
  /-- task scheduler, protocol cores, queue manager, delay lists (13) -/
  ts : Ts := {}
  /-- key manager (07) -/
  key : Key := {}
  /-- public-key engines and loaded curves (08) -/
  pke : Pke := {}
  /-- random number unit and Bellows (09) -/
  rnu : Rnu := {}
  /-- TLS sessions (11) -/
  tls : Tls := {}
  /-- access checker and integrity counters (14) -/
  ac : Ac := {}
  /-- tamper monitor (15) -/
  tm : Tm := {}
  /-- life-cycle controller and debug port (16) -/
  lcc : Lcc := {}
  /-- self-test controller (16) -/
  stc : Stc := {}
  /-- power, start-up and firmware slots (17) -/
  pwr : Pwr := {}
  /-- SMBus target and pins (19) -/
  io : Io := {}
  /-- event status and enable registers, by `evKey` (R444) -/
  ev : Tbl EvReg := []
  /-- registers that software writes and that hold what was written, by `regKey`; one not listed holds its reset value (18) -/
  rw : Tbl Nat := []
  /-- class S registers as the configuration store holds them, by `regKey` (R691) -/
  store : Tbl Nat := []
  /-- writes to class S registers that wait to be stored, oldest first (R691) -/
  writes : List (Nat × Nat) := []
  /-- what the module has driven outward, newest first: the model's own field -/
  out : List Out := []
  /-- how many free values have been made: the model's own field -/
  free : Nat := 0
deriving DecidableEq, Repr

/-- The module as manufactured, its main domain powered and about to run its boot ROM: every register at the reset value of its
table, an empty archive, the boot rule set in force, and no command waiting. -/
def State.reset : State := { arc := emptyArchive false, ac := { table := bootRules, shadow := bootRules } }

end Sys2Proof.Machine
end

