-- ==== Sys2Proof/Machine/Flags.lean ====
section
/-! DEFINITION. Status computations: the error bound's class, the time-quality byte, time validity, status words. -/

namespace Sys2Proof.Machine

/-- One nanosecond in the unit of the error bound (1e-20 ns). -/
def eUnit : Nat := 10 ^ 20

/-- Accuracy classes 0x00 to 0x0C of Table 02-9: limits in ns. -/
def accuracyLimits : List Nat :=
  [25, 50, 100, 250, 500, 1000, 2500, 10000, 100000, 1000000, 10000000, 100000000, 1000000000]

/-- Index of the first limit that is at least e (e in 1e-20 ns); 0x0D beyond 1 s (R66). -/
def classFrom : Nat → List Nat → Nat → Nat
  | _, [], k => k
  | e, l :: ls, k => if e ≤ l * eUnit then k else classFrom e ls (k + 1)

/-- Accuracy class (R66). -/
def accuracyClass (e : Nat) : Nat := classFrom e accuracyLimits 0

/-- Time is valid (R32). -/
def timeValid (st : TimeState) (e limit : Nat) : Bool :=
  match st with
  | .locked | .holdover => true
  | .slewing => decide (e ≤ limit * eUnit)
  | .unlocked | .expired => false

/-- The time-quality byte of grid time now (Table 02-8). CLOCK_FAILURE: the OCXO is declared failed, or the RTC has not been read
yet (SCK_TIME_STATUS: the reset value 0x7F). -/
def qualityOf (k : Sck) : Nat :=
  (if k.leapUntil.isSome then 128 else 0) + (if k.ocxoFailed || !k.rtcRead then 64 else 0)
    + (if k.valid then 0 else 32) + (if k.bounded then accuracyClass k.e else 0x1F)

/-- How many changes of quality or validity are kept. DESIGN CHOICE: 64, the newest. -/
def pastKept : Nat := 64

/-- Note quality and validity as they are now, where they have changed since the last note. -/
def Sck.note (k : Sck) : Sck :=
  let x : TimePast := { from_ := k.now, quality := qualityOf k, valid := k.valid }
  if (k.past.headD { x with valid := !k.valid }).quality = x.quality
      ∧ (k.past.headD { x with valid := !k.valid }).valid = x.valid then k
  else { k with past := (x :: k.past).take pastKept }

/-- Note a step of grid time by `d`. -/
def Sck.noteStep (d : Int) (k : Sck) : Sck :=
  { k with past := ({ from_ := k.now, quality := qualityOf k, valid := k.valid, step := d } :: k.past).take pastKept }

/-- The notes that hold for a stamp: a stamp beyond the tick that runs was taken before the last step, which went backward. -/
def pastOf (now stamp : Nat) (l : List TimePast) : List TimePast :=
  if stamp < now + 1000 then l else (l.dropWhile fun x => x.step == 0).drop 1

/-- Time-quality byte and validity at the tick of a stamp (R65). -/
def Sck.at (k : Sck) (stamp : Nat) : Nat × Bool :=
  match (pastOf k.now stamp k.past).find? (fun x => decide (x.from_ ≤ stamp)) with
  | some x => (x.quality, x.valid)
  | none => (qualityOf k, k.valid)

/-- The step made since a stamp was taken: the last one, where the stamp lies before it (R81). A stamp is at most 1 ms old. -/
def Sck.stepSince (k : Sck) (stamp : Nat) : Int :=
  match k.past.find? (fun x => x.step != 0) with
  | some x => if k.now + 1000 ≤ stamp ∨ stamp < x.from_ then x.step else 0
  | none => 0

/-- The quality byte of a stamp taken from the RTC (R67). -/
def rtcQuality (lost : Bool) (e : Nat) : Nat := 96 + (if lost then 0x1F else accuracyClass e)

/-- Code of a time state (Table 02-1). -/
def timeCode : TimeState → Nat
  | .unlocked => 0 | .slewing => 1 | .locked => 2 | .holdover => 3 | .expired => 4

/-- Code of a reference state (Table 02-5). -/
def refCode : RefState → Nat
  | .absent => 0 | .qualifying => 1 | .qualified => 2 | .selected => 3 | .failed => 4 | .disagreeing => 5 | .disabled => 6

/-- Code of an angle state. -/
def angleCode : AngleState → Nat
  | .tracking => 0 | .coasting => 1 | .lost => 2

/-- Code of a response level. -/
def levelCode : Level → Nat
  | .record => 0 | .restrict => 1 | .quenchW => 2 | .quenchR => 3

/-- Code of a life-cycle state. -/
def lifeCode : LifeState → Nat
  | .maker => 0 | .integrator => 1 | .fielded => 2 | .returned => 3 | .scrapped => 4

/-- Code of a standby state (Table 03-15). -/
def standbyCode : Standby → Nat
  | .empty => 0 | .loading => 1 | .ready => 2 | .armed => 3 | .draining => 4 | .previous => 5

/-- SCK_TIME_STATUS (02). -/
def timeStatusWord (k : Sck) : Nat :=
  timeCode k.st + 8 * b2n k.valid + 16 * angleCode k.angleSt + 256 * qualityOf k + 65536 * (k.selected % 4)

/-- The angle is valid (R78). -/
def angleValid (k : Sck) : Bool := k.valid && k.angleSt != .lost

/-- The interpolated cycle angle, 0 to 65,535 (R76). -/
def cycleAngle (k : Sck) : Nat := k.phase * 65536 / nsPerSec

/-- defaultDS.clockClass by clock type: 255 for a slave-only ordinary clock (R61), else the class that Table 02-7 gives a master
port. -/
def announcedClass (clockType : Nat) (k : Sck) (gmClass : Nat) : Nat :=
  if clockType = 0 then 255
  else match k.st with
  | .unlocked => 248
  | .holdover => 7
  | .expired => 52
  | .slewing => if k.valid then (if k.selected = 0 then gmClass else 6) else 52
  | .locked => if k.selected = 0 then gmClass else 6

/-- Status word of a finished entry (Table 10-5). -/
def statusWord (code : Nat) (recomputed : Bool) : Nat :=
  code % 65536 + (if recomputed && code == 0 then 65536 else 0) + 2 ^ 31

end Sys2Proof.Machine
end

