-- ==== Sys2Proof/Machine/Ops.lean ====
section
/-! DEFINITION. The named operations over the state that the meanings share: tables of functions and ports, events and
messages, archive staging, free values and settings. -/

namespace Sys2Proof.Machine

/-! ### What a command needs -/

/-- The main domain runs: it is powered, has not stopped in its boot ROM, and is not held in reset. -/
def State.running (s : State) : Bool := s.pwr.main && !s.pwr.stopped && !s.pwr.resetHeld

/-- A command of the main domain: nothing happens while it does not run. -/
def onMain (s : State) (k : Host.Outcome State Fault Refusal) : Host.Outcome State Fault Refusal :=
  if s.running then k else .next s

/-! ### What leaves the module -/

/-- Drive something outward. -/
def emit (o : Out) (s : State) : State := { s with out := o :: s.out }

/-! ### Functions -/

/-- A function nothing has set up: the PF holds the totals of Table 12-1, a VF nothing. -/
def Func.initial (f : Nat) : Func :=
  if f = 0 then
    { present := true, setUp := true, ringsAllotted := 64, ctxQuota := 32768, keyQuota := 16384, delayQuota := 262144,
      portScope := 0xFFF }
  else {}

/-- A function's state. -/
def State.func (s : State) (f : Nat) : Func := (Tbl.find? f s.hif.funcs).getD (Func.initial f)

/-- Replace a function's state. -/
def State.setFunc (f : Nat) (v : Func) (s : State) : State :=
  { s with hif := { s.hif with funcs := Tbl.put f v s.hif.funcs } }

/-- Change a function's state. -/
def State.updFunc (f : Nat) (g : Func → Func) (s : State) : State := s.setFunc f (g (s.func f))

/-- Writes of a function to host memory are made at once: Bus Master Enable is set and it is not in D3hot (R455, R679). -/
def Func.masters (v : Func) : Bool := v.bme && !v.d3hot

/-- A write to a function's host memory: made, or held in order while the function may not master the bus (R455). -/
def emitHost (f : Nat) (o : Out) (s : State) : State :=
  if (s.func f).masters then emit o s
  else s.updFunc f fun v => { v with heldWrites := v.heldWrites ++ [o] }

/-! ### Events and vectors (R442, R444) -/

/-- A vector is masked, or MSI-X is disabled. -/
def Msix.blocked (m : Msix) (vector : Nat) : Bool :=
  !m.enabled || m.functionMask || ((Tbl.find? vector m.table).getD (0, 0, true)).2.2

/-- Send a function's vector, or set its pending bit (R444). -/
def sendVector (f vector : Nat) (s : State) : State :=
  if (s.func f).msix.blocked vector then
    s.updFunc f fun v =>
      if v.msix.pending.contains vector then v
      else { v with msix := { v.msix with pending := vector :: v.msix.pending } }
  else emitHost f (.msix f vector) s

/-- Code of an event block, for its key in the table of event registers. -/
def EvBlock.code : EvBlock → Nat
  | .hif => 0 | .key => 1 | .fe => 2 | .vf => 3 | .arc => 4 | .pke => 5 | .rnu => 6 | .ts => 7 | .qm => 8 | .ac => 9
  | .tm => 10 | .lcc => 11 | .stc => 12 | .pwr => 13 | .sck => 14

/-- Key of an event register. -/
def evKey (b : EvBlock) (f : Nat) : Nat := b.code * 64 + f

/-- Bits that are always enabled: HIF HALTED, FE DEADLINE_MISS and TM bit 0. -/
def EvBlock.always : EvBlock → Nat
  | .hif | .fe | .tm => 1
  | _ => 0

/-- An event register. -/
def State.evReg (s : State) (b : EvBlock) (f : Nat) : EvReg := Tbl.get {} s.ev (evKey b f)

/-- Set an event status bit; on a change from 0 to 1 of an enabled bit the event vector is sent (R444). -/
def raiseEvent (b : EvBlock) (f bit : Nat) (s : State) : State :=
  let r := s.evReg b f
  let s' := { s with ev := Tbl.put (evKey b f) { r with status := r.status ||| 2 ^ bit } s.ev }
  if !r.status.testBit bit && (r.enable ||| b.always).testBit bit then sendVector f 0 s' else s'

/-- Clear event status bits (W1C). -/
def clearEvents (b : EvBlock) (f mask : Nat) (s : State) : State :=
  let r := s.evReg b f
  { s with ev := Tbl.put (evKey b f) { r with status := r.status - (r.status &&& mask) } s.ev }

/-! ### Free values -/

/-- The next free value, and the state that has used it. -/
def freshValue (s : State) : BitVec 64 × State := (Config.freeValue s.free, { s with free := s.free + 1 })

/-! ### Archive staging (R237) -/

/-- The quality byte now. -/
def State.quality (s : State) : Nat := qualityOf s.sck

/-- Units of 64 bytes that round a number of bytes up (R238). -/
def unitsFor (bytes : Nat) : Nat := (bytes + 63) / 64

/-- Bytes of a record from its start to the end of its body (R238): from the layouts of Tables 06-6, 06-8 and 06-10
and the fourteen counters; DESIGN CHOICE 96 bytes for the bodies whose layout the spec does not give. -/
def recBytes : RecBody → Nat
  | .checkpoint _ => 376
  | .streamEvent _ => 96
  | .counterSnapshot _ _ _ => 152
  | .frameCapture _ _ _ _ copies _ len => 0x30 + 16 * copies.length + len
  | _ => 96

/-- Size of a record on NAND. -/
def recSize (b : RecBody) : Nat := 64 * unitsFor (recBytes b)

/-- Stage a record of a log for RECORD_APPEND with a quality byte and flags. -/
def stageWith (log typ owner quality flags stamp : Nat) (body : RecBody) (s : State) : State :=
  { s with arc := { s.arc with
      staging := s.arc.staging ++ [{ log, typ, owner, quality, flags, stamp := toStamp stamp, body }],
      eventBytes := if log = 0 then s.arc.eventBytes + recSize body else s.arc.eventBytes } }

/-- Stage an event-log record stamped now. -/
def stageRec (typ owner : Nat) (body : RecBody) (s : State) : State := stageWith 0 typ owner s.quality 0 s.sck.now body s

/-! ### Registers and settings -/

/-- Key of a function's register. -/
def regKey (f off : Nat) : Nat := f * 65536 + off

/-- Queue a write to a register of class S until it is stored (R691); while a wipe runs it is ignored (R633). -/
def queueWrite (key value : Nat) (s : State) : State :=
  if s.pwr.phase = 7 then s else { s with writes := s.writes ++ [(key, value)] }

/-- The value a register of class S will hold once the writes that wait have been stored: that of the last of them, else the
value in force. -/
def State.soon (s : State) (key now : Nat) : Nat := ((s.writes.reverse.find? fun w => w.1 == key).map (·.2)).getD now

/-- Reset values of the slot clock settings (18). -/
def sckReset : Nat → Nat
  | 0x6400 => 0x3C
  | 0x6404 => 0x5DC
  | 0x6408 => 0x000A003C
  | 0x640C => 0x64
  | 0x6410 => 0x00070000
  | 0x6418 => 0x8080
  | 0x641C => 0x00100064
  | 0x6420 => 0x000A0000
  | 0x6424 => 0x25
  | 0x6428 => 0x0A00
  | _ => 0

/-- A slot clock setting in force (R699), by its register's offset. -/
def State.sckSet (s : State) (off : Nat) : Nat := (Tbl.find? off s.sck.inForce).getD (sckReset off)

/-- Validity limit of R33, ns. -/
def State.validityLimit (s : State) : Nat := fieldOf (s.sckSet 0x6404) 19 0

/-- The references of the priority list, highest first (SCK_REF_PRIORITY). -/
def State.priority (s : State) : List Nat :=
  let w := s.sckSet 0x6400
  [fieldOf w 1 0, fieldOf w 3 2, fieldOf w 5 4].filter (· < 3)

/-- A register's stored or written value, or its reset value. -/
def State.reg (s : State) (f off reset : Nat) : Nat := (Tbl.find? (regKey f off) s.rw).getD reset

/-- A reference is in use: listed and not switched off, or the 10 MHz input enabled (R37, R42). -/
def State.refEnabled (s : State) (r : Nat) : Bool :=
  if r = 3 then bitOf (s.sckSet 0x6420) 0
  else s.priority.contains r && !bitOf (s.sckSet 0x6400) (8 + r)

/-- Slew limit: fs of grid time removed per tick; the setting counts 0.1 µs per second, 100 fs per µs (R49). -/
def State.slewPerTick (s : State) : Nat := 100 * fieldOf (s.sckSet 0x640C) 9 0

/-! ### Ports -/

/-- FE_PORT_CFG of a port; MODE is 1 on ports 4 to 11 at reset. -/
def State.portCfg (s : State) (p : Nat) : Nat :=
  (Tbl.find? (regKey 0 (0x2300 + 4 * p)) s.rw).getD (if p < 4 then 0 else 2)

/-- MACSEC of FE_PORT_CFG. -/
def State.portMacsec (s : State) (p : Nat) : Bool := bitOf (s.portCfg p) 4

/-- A port's state. -/
def State.port (s : State) (p : Nat) : Port := Tbl.get {} s.fe.ports p

/-- Replace a port's state. -/
def State.setPort (p : Nat) (v : Port) (s : State) : State := { s with fe := { s.fe with ports := Tbl.put p v s.fe.ports } }

/-- Change a port's state. -/
def State.updPort (p : Nat) (g : Port → Port) (s : State) : State := s.setPort p (g (s.port p))

/-- Pair of a port, if it is a station port: ports 4 and 5 form pair 0, and so on (R211). -/
def pairIndex (p : Nat) : Option Nat := if 4 ≤ p ∧ p < 12 then some ((p - 4) / 2) else none

/-- FE_PAIR_CFG of a pair. -/
def State.pairCfg (s : State) (i : Nat) : Nat := (Tbl.find? (regKey 0 (0x2340 + 4 * i)) s.rw).getD 0x01900640

/-- Kind of a pair: 0 unpaired, 1 PRP, 2 HSR (R211). -/
def State.pairKind (s : State) (i : Nat) : Nat := fieldOf (s.pairCfg i) 1 0

/-- The pair a port is a member of, with its kind; none for a port that is not paired. -/
def State.pairOf (s : State) (p : Nat) : Option (Nat × Nat) :=
  match pairIndex p with
  | none => none
  | some i => if s.pairKind i = 0 then none else some (i, s.pairKind i)

/-- MACsec is in use on the port: MACSEC, which an HSR member ignores. -/
def State.macsecOn (s : State) (p : Nat) : Bool :=
  s.portMacsec p && (match s.pairOf p with
    | some (_, 2) => false
    | _ => true)

/-- A region of the SRAM has a bank without power: the module runs without the region until module reset (R606). -/
def State.regionOff (s : State) (region : Nat) : Bool := s.ac.banksOff.any fun b => b.1 == region

end Sys2Proof.Machine
end

