-- ==== Sys2Proof/Machine/Conds.lean ====
section
/-! DEFINITION. The conditions under which an entry's key is not usable (Table 04-8): when they begin and end, which of them holds for
an entry, and the events of their changes. -/

namespace Sys2Proof.Machine

/-! ### Entries, their keys and their banks -/

/-- A function's partition. -/
def State.part? (s : State) (f : Nat) : Option Partition := Tbl.find? f s.pln.parts

/-- Entries of a copy. -/
def entriesOf (c : Option PlanCopy) : Tbl Entry := (c.map (·.entries)).getD []

/-- A loaded key. -/
def State.key? (s : State) (h : Nat) : Option LoadedKey := Tbl.find? h s.key.keys

/-- A key slot is filled and not under re-unwrap. -/
def slotUsable (s : State) (h : Nat) : Bool := (s.key? h).any fun k => !k.faulted

/-- An entry generates. -/
def entryGenerates (e : Entry) : Bool := e.action == 2

/-- Handles an entry names, with the offsets of their fields (R95). -/
def entryHandles (e : Entry) : List (Nat × Nat) :=
  (if e.keyCur = 0 then [] else [(0x28, e.keyCur)]) ++ (if e.keyNextValid && e.keyNext != 0 then [(0x2C, e.keyNext)] else [])

/-- The frame is at or after the rollover: by its stamp, or after a backward step that does not undo it (R80, R156). -/
def afterRoll (e : Entry) (r : EntryRt) (stamp : Nat) : Bool :=
  e.keyNextValid && (r.rolled || decide (stampNs e.rollAt ≤ stamp))

/-- The key R156 selects, and the entry's other key. -/
def chosenKey (e : Entry) (after : Bool) : Nat := if after then e.keyNext else e.keyCur
def otherKey (e : Entry) (after : Bool) : Nat := if after then e.keyCur else e.keyNext

/-- The generation counter of a handle has no value left (R154). -/
def exhausted (s : State) (h : Nat) : Bool := decide (max32 < (Tbl.get ({} : GenCtr) s.key.gens h).next)

/-- The response level in effect; a Restrict latch takes effect at its tick (R588). -/
def State.level (s : State) : Nat :=
  if s.tm.quenchR then 3 else if s.tm.quenchW then 2 else if s.tm.restrictOn then 1 else 0

/-! ### Conditions that have ended -/

/-- How many conditions that have ended are kept. DESIGN CHOICE: 64, the newest; a frame is out of the module 1 ms after its ingress
stamp. -/
def endedKept : Nat := 64

/-- A condition that began at `from_` ends now. -/
def endCond (what : KeyCond) (from_ : Nat) (s : State) : State :=
  { s with fe := { s.fe with ended := ({ what, from_, until_ := s.sck.now } :: s.fe.ended).take endedKept } }

/-- A stamp lies inside a condition that has ended (R180). -/
def inEnded (s : State) (what : KeyCond) (stamp : Nat) : Bool :=
  s.fe.ended.any fun c => c.what == what && decide (c.from_ ≤ stamp) && decide (stamp < c.until_)

/-! ### The conditions of a frame (R179, R180) -/

/-- Restrict or higher (Table 04-8): under Restrict for a frame stamped since it took effect; at a Quench level for every frame whose
check is not complete. -/
def levelCond (s : State) (stamp : Nat) : Bool :=
  decide (2 ≤ s.level) || (decide (1 ≤ s.level) && decide (s.tm.levelAt ≤ stamp)) || inEnded s .level stamp

/-- The grid time since which an entry of a bank waits for its reload or for the rebuild of its match key (R110, R132). -/
def waitsSince (s : State) (f n : Nat) (standby : Bool) : Option Nat :=
  ((s.part? f).bind fun p => Tbl.find? n (if standby then p.reloadStandby else p.reload))
    <|> ((s.pln.rebuilding.find? fun r => r.entry == n && r.standby == standby).map (·.since))

/-- The entry is under reload, or its match key under rebuild, for a frame of this stamp. -/
def reloadCond (s : State) (f n : Nat) (standby : Bool) (stamp : Nat) : Bool :=
  (waitsSince s f n standby).any (fun t => decide (t ≤ stamp)) || inEnded s (.entry n standby) stamp

/-- A slot that the entry names is under re-unwrap, or has been lost to an error (R166, R304), for a frame of this stamp. -/
def slotCond (s : State) (e : Entry) (stamp : Nat) : Bool :=
  (entryHandles e).any fun x =>
    (Tbl.find? x.2 s.key.lostAt).any (fun t => decide (t ≤ stamp)) || inEnded s (.slot x.2) stamp

/-- A key the entry needs is not usable for a frame of this stamp (Table 04-8); `h` is the key that R156 selects. Profile 0x00 is not
affected (R186). DESIGN CHOICE: a frame that was stamped before its key slot was lost, and is checked after it, needs the slot and is
under the condition; a key that is only not loaded concerns the entry while R156 selects it. -/
def keyCondition (s : State) (f n : Nat) (e : Entry) (old : Bool) (h stamp : Nat) : Bool :=
  e.profile != 0 && (levelCond s stamp || reloadCond s f n old stamp || slotCond s e stamp || !slotUsable s h
    || (entryGenerates e && exhausted s h))

/-! ### Changes (FE_EVENT_STATUS, FE_FAIL_STATE) -/

/-- An entry of the active bank is under a key condition now, the response level being `level`. -/
def underKey (level : Nat) (s : State) (f n : Nat) (e : Entry) : Bool :=
  let h := chosenKey e (afterRoll e (Tbl.get {} s.fe.entries n) s.sck.now)
  e.profile != 0 && (decide (1 ≤ level) || (waitsSince s f n false).isSome
    || (entryHandles e).any (fun x => Tbl.has s.key.lostAt x.2) || (s.key? h).isNone || (entryGenerates e && exhausted s h))

/-- An entry of the active bank, by its number, was under a key condition. -/
def wasUnder (level : Nat) (s : State) (f n : Nat) : Bool :=
  (((s.part? f).map fun p => entriesOf p.active).bind (Tbl.find? n)).any fun e => underKey level s f n e

/-- KEY_POLICY of each function of which an entry has entered or left a key condition since `old` (FE_EVENT_STATUS). -/
def keyEdgesFrom (l0 : Nat) (old : State) : Tbl Partition → State → State
  | [], s => s
  | (f, p) :: t, s =>
    keyEdgesFrom l0 old t
      (if (entriesOf p.active).any fun x => wasUnder l0 old f x.1 != underKey s.level s f x.1 x.2 then raiseEvent .fe f 3 s else s)

/-- The same for every function. -/
def keyEdges (old s : State) : State := keyEdgesFrom old.level old s.pln.parts s

/-- A partition has a used entry with a slot window. -/
def hasSlots (p : Partition) : Bool := (entriesOf p.active).any fun x => x.2.slotRate != 0

/-- TIME_POLICY of each function of which an entry enters or leaves loss of time (FE_EVENT_STATUS). -/
def timeEdge : Tbl Partition → State → State
  | [], s => s
  | (f, p) :: t, s => timeEdge t (if hasSlots p then raiseEvent .fe f 4 s else s)

end Sys2Proof.Machine
end

