-- ==== Sys2Proof/Machine/Alarm.lean ====
section
/-! DEFINITION. Tamper alarms: levels, latches, journal entries and what happens at the Quench instant (15). -/

namespace Sys2Proof.Machine

/-! ### SECURITY records. The spec does not number what a SECURITY record reports; these numbers are the model's. -/

def secTemper : Nat := 0x01
def secCoreRestart : Nat := 0x10
def secDelayRebuilt : Nat := 0x11
def secItemDropped : Nat := 0x12
def secLevel : Nat := 0x20
def secJournalFull : Nat := 0x21
def secTransitionSet : Nat := 0x22
def secTransitionCancelled : Nat := 0x23
def secTransitionDone : Nat := 0x24
def secDebugStart : Nat := 0x25
def secDebugEnd : Nat := 0x26
def secTestFailed : Nat := 0x27
def secStartupFailed : Nat := 0x28
def secRollingFailed : Nat := 0x29
def secFallback : Nat := 0x2A
def secTrialCommitted : Nat := 0x2B
def secTrialFailed : Nat := 0x2C
def secEngine : Nat := 0x30
def secRequest : Nat := 0x31
def secRnu : Nat := 0x32

/-- Stage a SECURITY record. -/
def securityRec (what a b c : Nat) (s : State) : State := stageRec 0x31 0x7E (.security what a b c) s

/-! ### Causes (Table 15-3) -/

def causeLight : Nat := 0x0001
def causeLightDisagree : Nat := 0x0002
def causeMesh : Nat := 0x0003
def causeLoop : Nat := 0x0004
def causeMonitorFault : Nat := 0x0005
def causeMainOver : Nat := 0x0010
def causeRailGlitch : Nat := 0x0011
def causeStandbyOver : Nat := 0x0012
def causeCellLow : Nat := 0x0013
def causeClock : Nat := 0x0020
def causeOcxo : Nat := 0x0021
def causeRtcStopped : Nat := 0x0022
def causeTempLimit : Nat := 0x0030
def causeTempWarn : Nat := 0x0031
def causeLogic : Nat := 0x0040
def causeRootLost : Nat := 0x0041
def causeArchiveReserve : Nat := 0x0042
def causeZeroFailed : Nat := 0x0043
def causeRnu : Nat := 0x0050
def causeCoreDead : Nat := 0x0051
def causeDenied : Nat := 0x0052
def causeUpdateAborted : Nat := 0x0053
def causeStagingOverflow : Nat := 0x0060

/-- The causes of Table 15-3. -/
def allCauses : List Nat :=
  [0x01, 0x02, 0x03, 0x04, 0x05, 0x10, 0x11, 0x12, 0x13, 0x20, 0x21, 0x22, 0x30, 0x31, 0x40, 0x41, 0x42, 0x43, 0x50,
   0x51, 0x52, 0x53, 0x60]

/-- The causes whose kind is a condition (Table 15-3). -/
def isCondition (cause : Nat) : Bool :=
  [0x01, 0x02, 0x03, 0x04, 0x05, 0x10, 0x12, 0x13, 0x21, 0x30, 0x31, 0x42].contains cause

/-- TM_LOOP_CFG of a loop (R598). -/
def State.loopCfg (s : State) (n : Nat) : Nat := s.reg 0 (0x5410 + 4 * n) 0

/-- RTC elapsed seconds (R743). -/
def rtcSeconds (s : State) : Nat := s.sck.rtcCount / 32768

/-- RTC hours of the elapsed count (R743). -/
def rtcHours (s : State) : Nat := s.sck.rtcCount / (32768 * 3600)

/-- The level of Table 15-3 for a cause, before the life-cycle state is looked at. -/
def tableLevel (s : State) (cause source : Nat) : Nat :=
  if cause = causeLoop then fieldOf (s.loopCfg source) 2 1
  else if [0x01, 0x03, 0x12, 0x41].contains cause then 3
  else if [0x10, 0x11, 0x20, 0x30].contains cause then 2
  else if [0x02, 0x05, 0x40, 0x42].contains cause then 1
  else 0

/-- A LOGIC_INTEGRITY alarm within 60 s of RTC time after an earlier one (R593). -/
def escalates (s : State) (cause : Nat) : Bool :=
  cause == causeLogic && s.tm.lastLogic.any fun t => decide (s.sck.rtcCount ≤ t + 60 * 32768)

/-- The level at which an alarm responds: Record in the Maker and Returned states (R591, Table 16-1). -/
def alarmLevel (s : State) (cause source : Nat) : Nat :=
  if s.lcc.st = .maker ∨ s.lcc.st = .returned then 0
  else if escalates s cause then 2 else tableLevel s cause source

/-! ### Level and latches (R587 to R589) -/

/-- The highest level whose latch is set. -/
def latchLevel (t : Tm) : Nat :=
  if t.quenchR then 3 else if t.quenchW then 2 else if t.clearHold || t.releaseHold then 1 else 0

/-- The level has left Record, or is Record again: the condition of Table 04-8 begins or ends, for every entry that no other one
holds. -/
def levelEdge (old : Nat) (s : State) : State :=
  let s1 := if old = 0 then { s with tm := { s.tm with levelAt := s.sck.now } }
    else if s.level = 0 then endCond .level s.tm.levelAt s else s
  keyEdgesFrom old s s1.pln.parts s1

/-- The level has changed since `old`: its SECURITY record, LEVEL_CHANGE and the alert cause (R589). -/
def noteLevel (old cause : Nat) (s : State) : State :=
  if s.level = old then s
  else
    let s1 := raiseEvent .tm 0 0 (securityRec secLevel old s.level cause s)
    let s2 := { s1 with io := { s1.io with alerts := s1.io.alerts ||| 4 } }
    levelEdge old s2

/-- A MACsec port comes under a condition of Table 05-8, with its event record (R226). -/
def addCond (p cond : Nat) (s : State) : State :=
  let v := s.port p
  if v.conds.contains cond then s
  else
    let s1 := s.setPort p { v with conds := cond :: v.conds }
    stageRec 0x22 0x7F (.portEvent p 3 cond) s1

/-- Bring the MACsec ports below `n` under a condition. -/
def addCondAll (cond : Nat) : Nat → State → State
  | 0, s => s
  | n + 1, s =>
    let s1 := addCondAll cond n s
    if s1.macsecOn n then addCond n cond s1 else s1

/-- Every pad of an entry is zero (R167). -/
def EntryRt.noPads (e : EntryRt) : EntryRt := { e with pads := e.pads.map fun _ => {}, dual := false }

/-- The pads of every entry are discarded: frames after the end of a key condition use pads computed after it (R185). -/
def dropPads (s : State) : State :=
  { s with fe := { s.fe with entries := Tbl.mapAll (fun _ e => e.noPads) s.fe.entries,
                             drainRt := Tbl.mapAll (fun _ e => e.noPads) s.fe.drainRt } }

/-- A raised Restrict latch takes effect at a tick (R588): the level, the pads, and the MACsec ports (Table 05-8). -/
def restrictTick (s : State) : State :=
  if s.tm.restrictOn = false ∧ (s.tm.clearHold = true ∨ s.tm.releaseHold = true) then
    let old := s.level
    addCondAll 2 12 (noteLevel old 0 (dropPads { s with tm := { s.tm with restrictOn := true } }))
  else s

/-! ### The journal (R614 to R618) -/

/-- Entries the journal holds. -/
def journalSize : Nat := 16384

/-- MAC of the newest entry; zero bytes stand in before entry 0 (R616). -/
def lastMac : List JournalEntry → Nat
  | [] => 0
  | e :: _ => e.mac

/-- The first 48 bytes of a journal entry, and all 64 (Table 15-8). -/
def journalHead (j : JournalEntry) : Bytes :=
  let flags := j.power % 4 + 4 * b2n j.staged + 8 * b2n j.subsumed + 16 * b2n j.overflow + 32 * b2n j.escalated
  leBytes 4 j.index ++ leBytes 2 j.cause ++ leBytes 1 j.level ++ leBytes 1 flags ++ leBytes 8 (toStamp j.stamp)
    ++ leBytes 1 j.quality ++ leBytes 1 j.source ++ leBytes 2 0 ++ leBytes 4 j.count ++ leBytes 24 j.data
def journalBytes (j : JournalEntry) : Bytes := journalHead j ++ beBytes 16 j.mac

/-- DIS of this module (R283). -/
def Ident.dis (i : Ident) : Bytes := disOf i.puf i.seed i.siliconId

/-- The key of the journal's MACs (R616). -/
def Ident.journalKey (i : Ident) : Bytes := kdf (eskOf i.dis) "NX-TJ" [] 256

/-- An entry with its MAC over the chain before it (R616). -/
def sealEntry (key : Bytes) (before : List JournalEntry) (e : JournalEntry) : JournalEntry :=
  { e with mac := beNat ((hmac 1 key (journalHead e ++ beBytes 16 (lastMac before))).take 16) }

/-- Mark the entries of the same instant below a level as SUBSUMED (R601), the newest first. -/
def subsume (key : Bytes) (stamp level : Nat) : List JournalEntry → List JournalEntry
  | [] => []
  | e :: t =>
    if e.stamp = stamp then
      let t' := subsume key stamp level t
      sealEntry key t' { e with subsumed := e.subsumed || decide (e.level < level) } :: t'
    else e :: t

/-- A staged TAMPER record follows its journal entry. -/
def refreshStaged (js : List JournalEntry) (r : Staged) : Staged :=
  match r.body with
  | .tamper j => match js.find? (fun e => e.index == j.index) with
    | some e => { r with body := .tamper e }
    | none => r
  | _ => r

/-- Write a journal entry with its TAMPER record, unless the journal is full (R240, R614). -/
def writeEntry (e : JournalEntry) (s : State) : State :=
  if s.tm.full then s
  else
    let js := subsume s.ident.journalKey e.stamp e.level s.tm.journal
    let e' := sealEntry s.ident.journalKey js { e with index := js.length }
    let full := decide (journalSize ≤ js.length + 1)
    let s1 := { s with tm := { s.tm with journal := e' :: js, full },
                       arc := { s.arc with staging := s.arc.staging.map (refreshStaged js) } }
    let s2 := raiseEvent .tm 0 1 (stageWith 0 0x30 0x7E e'.quality 0 e'.stamp (.tamper e') s1)
    if full then raiseEvent .tm 0 2 (securityRec secJournalFull 0 0 0 s2) else s2

/-- Count an occurrence in the lifetime counter of its cause (R618). -/
def countCause (cause k : Nat) (s : State) : State :=
  { s with tm := { s.tm with counters := Tbl.put cause (satTo max32 (Tbl.get 0 s.tm.counters cause + k)) s.tm.counters } }

/-- The instant at which the hour of the counts ended, on the grid time scale of now (R602). -/
def hourEnd (s : State) : Nat := s.sck.now - (s.sck.rtcCount - (s.tm.hour + 1) * 3600 * 32768) * nsPerSec / 32768

/-- The OVERFLOW entries at the end of an RTC hour (R602). -/
def overflowEntries (at_ : Nat) : List HourCount → State → State
  | [], s => s
  | h :: t, s =>
    overflowEntries at_ t (if h.excess = 0 then s else writeEntry
      { index := 0, cause := h.cause, level := h.level, overflow := true, stamp := at_, quality := s.quality,
        source := h.source, count := h.excess, subsumed := decide (h.level < latchLevel s.tm) } s)

/-- The RTC hour has ended: its counts are closed (R602). -/
def closeHour (s : State) : State :=
  if rtcHours s = s.tm.hour then s
  else
    let s1 := overflowEntries (hourEnd s) s.tm.hours s
    { s1 with tm := { s1.tm with hours := [], hour := rtcHours s } }

/-- Count of a cause and source in the current hour. -/
def hourOf (cause source : Nat) (l : List HourCount) : HourCount :=
  (l.find? fun h => h.cause == cause && h.source == source).getD { cause, source, entries := 0 }

/-- Replace the count of a cause and source. -/
def putHour (h : HourCount) (l : List HourCount) : List HourCount :=
  h :: l.filter fun x => !(x.cause == h.cause && x.source == h.source)

/-- Journal an occurrence at its applied level: an entry, or a count once 16 have been made in the hour (R602). -/
def journalAlarm (cause source data level : Nat) (escalated : Bool) (s : State) : State :=
  let s1 := countCause cause 1 (closeHour s)
  let h := hourOf cause source s1.tm.hours
  if h.entries < 16 then
    writeEntry { index := 0, cause, level, escalated, stamp := s1.sck.now, quality := s1.quality, source, data,
                 subsumed := decide (level < latchLevel s1.tm) }
      { s1 with tm := { s1.tm with hours := putHour { h with entries := h.entries + 1 } s1.tm.hours } }
  else
    let h' := { h with excess := h.excess + 1, level := if h.level < level then level else h.level }
    { s1 with tm := { s1.tm with hours := putHour h' s1.tm.hours } }

/-! ### The Quench instant (R604, R605) -/

/-- Transition number of a PLAN_EVENT record: the standby states left and entered. -/
def transitionOf (a b : Standby) : Nat := standbyCode a * 16 + standbyCode b

/-- Version a standby copy holds. -/
def Partition.heldVersion (p : Partition) : Nat := (p.held.map (·.version)).getD 0

/-- Cancel an armed switch or rollback (R131): the standby state before arming returns. The keys stay pinned while the standby copy
holds the version (R122). -/
def cancelArmed (p : Partition) : Partition :=
  if p.standby = .armed then
    { p with standby := if p.rollback then .previous else .ready, rollback := false, deferred := false }
  else p

/-- Cancel every armed switch and rollback, each with its PLAN_EVENT record. -/
def cancelAll : Tbl Partition → State → State
  | [], s => s
  | (f, p) :: t, s =>
    cancelAll t (if p.standby = .armed then
      stageRec 0x21 f (.planEvent p.heldVersion (transitionOf .armed (cancelArmed p).standby) 0)
        { s with pln := { s.pln with parts := Tbl.put f (cancelArmed p) s.pln.parts } }
    else s)

/-- Slots of a list of source slots. -/
def keepSources (e : Engine) : Tbl Nat := Tbl.keep (fun i _ => e.sources.contains i) e.slots

/-- The engine stops: every slot but the sources, and the compare buffer, are zero (R368). -/
def Engine.abort (e : Engine) : Engine :=
  { e with slots := keepSources e, snap := [], first := none, items := [], flags := 0, mctx := [], rep := none,
           phase := .aborted }

/-- Every running operation is aborted ABORTED (R368); a queued one goes too. -/
def quenchEngine (e : Engine) : Engine :=
  match e.op with
  | none => { e with next := none }
  | some _ => { e.abort with next := none }

/-- The random number unit zeroes its state; a unit in FAULT stays there (R402). -/
def Rnu.zero (r : Rnu) : Rnu :=
  { r with bellows := [], seed := none, expander := none, generated := 0, restart := none,
           st := if r.st = .fault then .fault else .starting, attempts := if r.st = .fault then r.attempts else 0 }

/-- A core at the Quench instant: held in reset, its item abandoned (R537). -/
def quenchCore (v : CoreRt) : CoreRt :=
  if v.st = .waiting ∨ v.st = .running ∨ v.st = .restarting then
    { v with st := .restarting, item := none, retired := none, halted := false }
  else v

/-- A port at the Quench instant: its SAKs are zero (Table 15-6). -/
def quenchPort (v : Port) : Port := { v with txSa := none, txOld := none, rxChannels := [], sakRequested := false }

/-- The debug token in force ends (R640), with its record, its event and the removal of group 13's grants. -/
def endToken (s : State) : State :=
  match s.lcc.token with
  | none => s
  | some t =>
    let s1 := { s with lcc := { s.lcc with token := none },
                       ts := { s.ts with cores := Tbl.mapAll (fun _ v => { v with halted := false }) s.ts.cores } }
    raiseEvent .lcc 0 3 (securityRec secDebugEnd t.scope (t.signers.foldr (fun x n => x + 2 ^ 256 * n) 0) t.signers.length s1)

/-- A test is abandoned: its block returns to the service state it had before (R645). -/
def restoreBlock (r : TestRun) (s : State) : State :=
  if r.block / 256 = 1 then
    { s with stc := { s.stc with pipes := if r.was then s.stc.pipes ||| 2 ^ (r.block % 256) else s.stc.pipes } }
  else if r.block / 256 = 2 then
    let back (e : Engine) : Engine := { e with inService := r.was }
    { s with pke := { s.pke with engines := Tbl.upd {} (r.block % 256) back s.pke.engines } }
  else if r.block / 256 = 3 then
    let back (v : CoreRt) : CoreRt := { v with testing := false }
    { s with ts := { s.ts with cores := Tbl.upd {} (r.block % 256) back s.ts.cores } }
  else s

/-- Every test under way is abandoned, the rolling one included, and the ports of a pipeline that is in service again return
to it (R645, R653). -/
def abandonTests : List TestRun → State → State
  | r :: t, s => abandonTests t (restoreBlock r s)
  | [], s =>
    let pipes := match s.stc.rollPipe with
      | some n => s.stc.pipes ||| 2 ^ n
      | none => s.stc.pipes
    let pipeOf := Tbl.keep (fun p _ => !pipes.testBit (if p < 4 then p else (p - 4) / 2)) s.fe.pipeOf
    { s with stc := { s.stc with pipes, testing := 0, under := [], rollPipe := none }, fe := { s.fe with pipeOf } }

/-- What happens at the Quench instant t0 (Table 15-5), with the effects of Table 15-6. -/
def quenchStart (s : State) : State :=
  let s1 := cancelAll s.pln.parts s
  let s2 := { s1 with
    tm := { s1.tm with quenchBusy := true },
    ts := { s1.ts with cores := Tbl.mapAll (fun _ v => quenchCore v) s1.ts.cores },
    pke := { s1.pke with engines := Tbl.mapAll (fun _ e => quenchEngine e) s1.pke.engines },
    rnu := s1.rnu.zero,
    tls := { s1.tls with sessions := Tbl.mapAll (fun _ v => { v with st := 2 }) s1.tls.sessions },
    fe := { s1.fe with ports := Tbl.mapAll (fun _ v => quenchPort v) s1.fe.ports } }
  endToken (addCondAll 3 12 (abandonTests s2.stc.under s2))

/-! ### Raising an alarm (R588, R592, R601 to R603) -/

/-- Set the latch of a level (Table 15-2). -/
def setLatch (cause level : Nat) (t : Tm) : Tm :=
  if level = 3 then { t with quenchR := true }
  else if level = 2 then { t with quenchW := true }
  else if level = 1 then (if cause = causeArchiveReserve then { t with releaseHold := true } else { t with clearHold := true })
  else t

/-- A Quench alarm: its count, the latch, the conditions of the MACsec ports where the level was Record, and the Quench path unless it
is running already (R603). -/
def fireQuench (cause level : Nat) (s : State) : State :=
  let old := s.level
  let s1 := { s with
    tm := setLatch cause level s.tm,
    key := if level = 3 then { s.key with quenchR := s.key.quenchR + 1 } else { s.key with quenchW := s.key.quenchW + 1 } }
  let s2 := noteLevel old cause s1
  let s3 := if old = 0 then addCondAll 2 12 s2 else s2
  if s3.tm.quenchBusy then s3 else quenchStart s3

/-- A condition is present (TM_PRESENT). -/
def isPresent (s : State) (cause source : Nat) : Bool := s.tm.present.contains (cause, source)

/-- Raise an alarm in the main domain: its journal entry, its latch, and for a Quench level the Quench path. A condition
that is already present raises nothing (R602). -/
def raiseAlarm (cause source data : Nat) (s : State) : State :=
  if isCondition cause && isPresent s cause source then s
  else
    let level := alarmLevel s cause source
    let esc := escalates s cause && level == 2
    let present := if cause = causeLight then s.tm.present.filter (fun x => x.1 != causeLightDisagree) else s.tm.present
    let s1 := { s with tm := { s.tm with
      present := if isCondition cause then (cause, source) :: present else present,
      lastLogic := if cause = causeLogic then some s.sck.rtcCount else s.tm.lastLogic } }
    let s2 := journalAlarm cause source data level esc s1
    let s3 := if cause = causeCellLow then raiseEvent .tm 0 3 s2 else s2
    let s4 := if cause = causeTempWarn then { s3 with io := { s3.io with alerts := s3.io.alerts ||| 1 } } else s3
    if 2 ≤ level then fireQuench cause level s4 else { s4 with tm := setLatch cause level s4.tm }

/-- Data bytes of a LOGIC_INTEGRITY alarm: sub-cause, block, element, address (Table 15-9). -/
def logicData (sub block element addr : Nat) : Nat := sub + 256 * block + 65536 * element + 2 ^ 32 * addr

/-- Raise LOGIC_INTEGRITY; SOURCE is the engine where the block is one. -/
def raiseLogic (sub block element addr : Nat) (s : State) : State :=
  raiseAlarm causeLogic (if 7 ≤ block ∧ block ≤ 14 then block - 7 else 0) (logicData sub block element addr) s

end Sys2Proof.Machine
end

