-- ==== Sys2Proof/Machine/Records.lean ====
section
/-! DEFINITION. The bytes of records and zone headers, their check values and the chain (06), and the identity keys (07). -/

namespace Sys2Proof.Machine

/-! ### The identity register bank (R282 to R285) -/

/-- The identity keys as the bank is filled at a start of the main domain (R283, R284). -/
def identityOf (i : Ident) : IdBank :=
  let dis := i.dis
  { dis, dik := scalarOf dis "NX-DIK", ak := scalarOf dis "NX-AK", dtk := scalarOf dis "NX-DTK", esk := eskOf dis }

/-- The private scalars of DIK, AK and DTK; zero while the bank is empty. -/
def State.dik (s : State) : Nat := (s.key.identity.map (·.dik)).getD 0
def State.ak (s : State) : Nat := (s.key.identity.map (·.ak)).getD 0
def State.dtk (s : State) : Nat := (s.key.identity.map (·.dtk)).getD 0

/-- Public key of a P-384 scalar, x‖y, 96 bytes. -/
def p384Public (scalar : Nat) : Bytes := p384.encode (p384.publicPoint scalar)

/-! ### Bodies (Tables 06-6, 06-8, 06-10, 15-8) -/

/-- A copy descriptor (Table 06-6). -/
def descBytes (c : CopyDesc) : Bytes :=
  leBytes 1 c.port ++ leBytes 1 (b2n c.late + 2 * b2n c.notSent + 4 * b2n c.macsec) ++ leBytes 2 0 ++ leBytes 4 c.residence
    ++ leBytes 8 c.egressStamp

/-- A checkpoint's body before its signature: record bytes 0x020 to 0x117 (Table 06-10). -/
def checkpointHead (c : Checkpoint) : Bytes :=
  leBytes 8 c.cpSeq ++ leBytes 8 c.eventSeq ++ beBytes 48 c.eventChain ++ leBytes 8 c.ringSeq ++ beBytes 48 c.ringChain
    ++ leBytes 8 c.windowSeq ++ beBytes 48 c.windowChain ++ leBytes 8 c.lostTotal ++ leBytes 8 c.refusedRing
    ++ leBytes 8 c.refusedWindow ++ leBytes 2 c.budgetUsed ++ leBytes 1 c.govLevel ++ leBytes 13 0 ++ fitBytes 32 c.keyId

/-- A record's body; opaque bytes where the spec gives no layout. -/
def bodyBytes (b : RecBody) : Bytes :=
  match b with
  | .checkpoint c => checkpointHead c ++ fitBytes 96 c.sig
  | .streamEvent e =>
    leBytes 4 e.entry ++ leBytes 4 e.tag ++ leBytes 2 e.cause ++ leBytes 1 e.port ++ leBytes 1 e.action ++ leBytes 4 e.budget
      ++ leBytes 8 e.egressStamp ++ leBytes 4 e.residence ++ leBytes 4 0 ++ leBytes 8 e.count ++ leBytes 8 e.lastStamp
      ++ leBytes 8 e.forwarded ++ leBytes 8 e.dropped
  | .frameCapture entry tag port result copies frame len =>
    leBytes 4 entry ++ leBytes 4 tag ++ leBytes 1 port ++ leBytes 1 result ++ leBytes 1 copies.length ++ leBytes 1 0
      ++ leBytes 2 len ++ leBytes 2 0 ++ (copies.map descBytes).flatten ++ fitBytes len frame
  | .tamper j => journalBytes j
  | b => Config.recordBody b

/-- The body units of a record, filled up with zeros (R238). -/
def bodyUnits (r : Record) : Bytes := fitBytes (64 * r.units - 32) (bodyBytes r.body)

/-! ### Header, CHECK and chain (Table 06-4, R245) -/

/-- CRC-32C of a byte, bit by bit. -/
def crcBits : (n : Nat) → BitVec 32 → BitVec 32
  | 0, c => c
  | n + 1, c => crcBits n (if c.getLsbD 0 then (c >>> 1) ^^^ 0x82F63B78#32 else c >>> 1)

/-- CRC-32C (Castagnoli). -/
def crc32c (l : Bytes) : Nat := (l.foldl (fun c b => crcBits 8 (c ^^^ b.setWidth 32)) 0xFFFFFFFF#32 ^^^ 0xFFFFFFFF#32).toNat

/-- A record's header with a FLAGS byte and a CHECK value (Table 06-4). -/
def headerWith (r : Record) (flags check : Nat) : Bytes :=
  leBytes 2 r.typ ++ leBytes 2 r.units ++ leBytes 1 r.log ++ leBytes 1 r.owner ++ leBytes 1 r.quality ++ leBytes 1 flags
    ++ leBytes 8 r.seq ++ leBytes 8 r.stamp ++ leBytes 2 r.bodyLen ++ leBytes 2 0 ++ leBytes 4 check

/-- CHECK of a record (Table 06-4). -/
def recordCheck (r : Record) : Nat := crc32c (headerWith r r.flags 0 ++ bodyUnits r)

/-- A record's header as stored. -/
def headerBytes (r : Record) : Bytes := headerWith r r.flags (recordCheck r)

/-- A record as delivered: whole, or redacted to its header and the digest of its body (R273). -/
def recordBytes (readable : Bool) (r : Record) : Bytes :=
  if readable then headerBytes r ++ bodyUnits r
  else headerWith r (r.flags % 128 + 128) (recordCheck r) ++ digest 2 (bodyUnits r) ++ List.replicate 48 0

/-- Chain value of a log after a record (R245). -/
def chainNext (chain : Nat) (r : Record) : Nat :=
  beNat (digest 2 (beBytes 48 chain ++ headerBytes r ++ digest 2 (bodyUnits r)))

/-- A checkpoint as it is written: KEY_ID of the archive key, and its signature over record bytes 0x000 to 0x117 with CHECK taken as
zero (R247, R248). -/
def signRecord (ak : Nat) (r : Record) : Record :=
  match r.body with
  | .checkpoint c =>
    let c' := { c with keyId := digest 1 (p384Public ak) }
    { r with body := .checkpoint { c' with sig := ownSignature ak (headerWith r r.flags 0 ++ checkpointHead c') } }
  | _ => r

/-- A zone's header of 128 bytes (Table 06-3). -/
def zoneHeader (a : Arc) (zn : Nat) (z : Zone) : Bytes :=
  beBytes 4 0x414E5A48 ++ leBytes 4 zn ++ leBytes 1 z.log ++ leBytes 3 0 ++ leBytes 4 z.generation ++ leBytes 8 z.firstSeq
    ++ beBytes 48 z.chainIn ++ leBytes 4 a.epoch ++ beBytes 16 a.archiveId ++ leBytes 36 0

end Sys2Proof.Machine
end

