-- ==== Sys2Proof/Machine/Archive.lean ====
section
/-! DEFINITION. Anvil: appending records, zones, the governor, checkpoints, summaries and capture windows (06). -/

namespace Sys2Proof.Machine

/-! ### Capacities (Tables 00-1, 06-2) -/

/-- Number of the first usable zone (Table 06-1). -/
def firstUsable : Nat := 132

/-- B30 in bytes (R259). -/
def b30 (b : Bool) : Nat := if b then 18144000000000 else 36288000000000

/-- Units of a zone, header included: 256 MiB (06). -/
def zoneUnits : Nat := 4194304

/-- Greatest rate allowance, bytes (R262). -/
def allowanceMax : Nat := 15000000000

/-- ARC_RING_ZONES in force (R253). -/
def State.ringZones (s : State) : Nat :=
  fieldOf ((Tbl.find? (regKey 0 0x3004) s.rw).getD (if s.ident.nx880b then 0x0746 else 0x0E8D)) 15 0

/-- ARC_WINDOW_RETENTION in force, days (R258). -/
def State.retentionDays (s : State) : Nat := fieldOf ((Tbl.find? (regKey 0 0x3008) s.rw).getD 0x1E) 11 0

/-! ### Logs -/

/-- One of the three logs. -/
def Arc.log (a : Arc) (l : Nat) : LogState := if l = 0 then a.log0 else if l = 1 then a.log1 else a.log2

/-- Replace one of the three logs. -/
def Arc.setLog (a : Arc) (l : Nat) (v : LogState) : Arc :=
  if l = 0 then { a with log0 := v } else if l = 1 then { a with log1 := v } else { a with log2 := v }

/-- Zones held by a log. -/
def Arc.held (a : Arc) (l : Nat) : Nat := Tbl.count (fun _ z => z.log == l) a.zones

/-- The zone of a log opened longest ago among those that satisfy `p`. -/
def oldestZone (p : Zone → Bool) (best : Option (Nat × Zone)) : Tbl Zone → Option (Nat × Zone)
  | [] => best
  | (n, z) :: t =>
    if p z then
      match best with
      | none => oldestZone p (some (n, z)) t
      | some b => oldestZone p (if z.order < b.2.order then some (n, z) else some b) t
    else oldestZone p best t

/-- The lowest usable zone number that is not listed, from `n` on. -/
def freeZone (n : Nat) : Tbl Zone → Nat
  | [] => n
  | (k, _) :: t => if k < n then freeZone n t else if k = n then freeZone (n + 1) t else n

/-- The rate allowance after `bytes` more bytes at the RTC's elapsed count `t` (R262): it rises by 0.5 GB/s and falls by what is
written. -/
def allowanceAfter (a : Arc) (t bytes : Nat) : Nat :=
  satTo allowanceMax (a.allowance + (t - a.rateAt) * 500000000 / 32768) - bytes

/-- Bytes are written to NAND: they count in the hour, towards the check of R260, and in the rate allowance (R259, R262). -/
def countNand (bytes : Nat) (s : State) : State :=
  { s with arc := { s.arc with
      hourNow := s.arc.hourNow + bytes, sinceCheck := s.arc.sinceCheck + bytes,
      allowance := allowanceAfter s.arc s.sck.rtcCount bytes, rateAt := s.sck.rtcCount } }

/-- Write a record into the open zone of its log: SEQ, chain and write counts (R237, R245, R259). Nothing is written
when the log has no open zone. -/
def writeRec (st : Staged) (s : State) : State :=
  let a := s.arc
  let lg := a.log st.log
  match lg.openZone with
  | none => s
  | some zn =>
    match Tbl.find? zn a.zones with
    | none => s
    | some z =>
      let bytes := recBytes st.body
      let units := unitsFor bytes
      let r := signRecord s.ak
        { typ := st.typ, units, log := st.log, owner := st.owner, quality := st.quality, flags := st.flags,
          seq := lg.seq + 1, stamp := st.stamp, bodyLen := bytes - 32, body := st.body }
      let z' := { z with lastSeq := lg.seq + 1, unitsUsed := z.unitsUsed + units,
                         newest := if stampNs st.stamp > stampNs z.newest then st.stamp else z.newest, lastCp := a.cpSeq }
      let lg' := { lg with seq := lg.seq + 1, chain := chainNext lg.chain r, records := r :: lg.records }
      let a' := (a.setLog st.log lg')
      countNand (64 * units) { s with arc := { a' with zones := Tbl.put zn z' a'.zones } }

/-- A record for the event log, stamped now, with owner 0x7F. -/
def moduleRec (typ : Nat) (body : RecBody) (s : State) : Staged :=
  { log := 0, typ, owner := 0x7F, quality := s.quality, stamp := toStamp s.sck.now, body }

/-- The anchor as it is to be written. -/
def anchorNow (a : Arc) : Anchor :=
  { archiveId := a.archiveId, epoch := a.epoch,
    directory := a.zones.map fun x => (x.1, { log := x.2.log, generation := x.2.generation, validEnd := x.2.validEnd }) }

/-- The zone directory has changed: both copies of the anchor are written (R233). -/
def writeAnchors (s : State) : State :=
  { s with arc := { s.arc with anchors := [(0, anchorNow s.arc), (2, anchorNow s.arc)] } }

/-- Open a zone for a log: its header goes in first (R235, Table 06-3). -/
def openZone (l zn : Nat) (reserve : Bool) (s : State) : State :=
  let a := s.arc
  let lg := a.log l
  let g := Tbl.get 0 a.gens zn + 1
  let z : Zone := { log := l, generation := g, firstSeq := lg.seq + 1, lastSeq := lg.seq, chainIn := lg.chain,
                    unitsUsed := 2, newest := 0, order := a.zoneOrder, reserve, lastCp := a.cpSeq }
  let a' := a.setLog l { lg with openZone := some zn }
  writeAnchors (countNand (zoneHeader a zn z).length
    { s with arc := { a' with zones := Tbl.put zn z a'.zones, gens := Tbl.put zn g a'.gens, zoneOrder := a'.zoneOrder + 1 } })

/-- Erase a zone: its records go; it waits for no other erase (R253, R279). -/
def eraseZone (zn : Nat) (s : State) : State :=
  match Tbl.find? zn s.arc.zones with
  | none => s
  | some z =>
    let lg := s.arc.log z.log
    let lg' := { lg with records := lg.records.filter (fun r => r.seq < z.firstSeq || z.lastSeq < r.seq),
                         openZone := if lg.openZone = some zn then none else lg.openZone }
    let a := s.arc.setLog z.log lg'
    writeAnchors { s with arc := { a with zones := Tbl.del zn a.zones, released := a.released.filter (· != zn) } }

/-- A window zone is past its retention, counted from its last record (R258). -/
def pastRetention (s : State) (z : Zone) : Bool :=
  z.log == 2 && decide (stampNs z.newest + s.retentionDays * 86400 * nsPerSec < s.sck.now)

/-- The zone is not the one its log is writing. -/
def notOpen (s : State) (zn : Nat) (z : Zone) : Bool := (s.arc.log z.log).openZone != some zn

/-- Zones other than the open ones. -/
def closedZones (s : State) : Tbl Zone := Tbl.keep (fun n z => notOpen s n z) s.arc.zones

/-! ### Room in a zone. The event log's zone keeps room for a ZONE_RECYCLED record, and ordinary records also leave room for POWER_DOWN, the
FINAL checkpoint, START and its checkpoint, so that these never wait for a zone (R251, R267). -/

/-- Units that a record of the event log leaves free behind it. -/
def eventSpare (typ flags : Nat) : Nat :=
  if typ = 1 ∧ flags = 4 then 2 else if typ = 4 then 8 else if typ = 1 ∧ flags = 2 then 10 else if typ = 3 then 16 else 18

/-- Only CHECKPOINT and LOST_RECORDS records go into the last reserve zone (R266). -/
def isVital (typ : Nat) : Bool := typ == 1 || typ == 2

/-- The open zone of a log has `units` units left. -/
def zoneLeft (l units : Nat) (s : State) : Bool :=
  ((s.arc.log l).openZone.bind fun zn => Tbl.find? zn s.arc.zones).any fun z => decide (z.unitsUsed + units ≤ zoneUnits)

/-- The event log is writing the last reserve zone. -/
def inLastZone (s : State) : Bool :=
  (s.arc.log0.openZone.bind fun zn => Tbl.find? zn s.arc.zones).any fun z => z.reserve && s.arc.reserveFree == 0

/-- The open zone of a log has room for a record. -/
def hasRoom (l typ flags units : Nat) (s : State) : Bool :=
  zoneLeft l (units + if l = 0 then eventSpare typ flags else 0) s && !(l == 0 && inLastZone s && !isVital typ)

/-! ### Taking zones (R253, R254, R258, R264 to R266) -/

/-- A record that cannot be written is counted as lost; the archive is stopped (R266). -/
def loseRecord (s : State) : State :=
  { s with arc := { s.arc with lostTotal := s.arc.lostTotal + 1, stopped := true } }

/-- A ZONE_RECYCLED record. -/
def recycledRec (zn : Nat) (z : Zone) (reason : Nat) (s : State) : Staged :=
  moduleRec 5 (.zoneRecycled zn z.log z.firstSeq z.lastSeq z.newest reason) s

/-- The event log recycles a zone for itself: the ZONE_RECYCLED record into the room kept for it, then the erase (R253). DESIGN CHOICE:
where the event log has no open zone, the record is the first of the new one. -/
def recycleSelf (zn : Nat) (z : Zone) (reason : Nat) (s : State) : State :=
  if zoneLeft 0 2 s then openZone 0 zn false (eraseZone zn (writeRec (recycledRec zn z reason s) s))
  else writeRec (recycledRec zn z reason s) (openZone 0 zn false (eraseZone zn s))

/-- A zone of the free pool is opened for a log. -/
def takePool (l : Nat) (s : State) : State :=
  openZone l (freeZone firstUsable s.arc.zones) false { s with arc := { s.arc with poolFree := s.arc.poolFree - 1 } }

/-- The event log takes a reserve zone; the first and the last but one are reported (R264, R265). -/
def takeReserveZone (s : State) : State :=
  let s1 := if s.arc.reserveInUse then s
            else raiseEvent .arc 0 1 { s with arc := { s.arc with reserveInUse := true } }
  let s2 := openZone 0 (freeZone firstUsable s1.arc.zones) true
              { s1 with arc := { s1.arc with reserveFree := s1.arc.reserveFree - 1 } }
  if s2.arc.reserveFree = 1 then
    raiseAlarm causeArchiveReserve 0 1 (raiseEvent .arc 0 2 { s2 with arc := { s2.arc with reserveFull := true } })
  else s2

/-- Take a zone for the event log, in the order of R264 to R266; none when no zone can be taken for a record of this
type. -/
def takeEventZone (typ : Nat) (s : State) : Option State :=
  if 0 < s.arc.poolFree then some (takePool 0 s)
  else
    match oldestZone (pastRetention s) none (closedZones s) with
    | some (zn, z) => some (recycleSelf zn z 1 s)
    | none =>
      if 1 < s.arc.reserveFree then some (takeReserveZone s)
      else
        match oldestZone (fun z => z.log == 1) none s.arc.zones with
        | some (zn, z) => some (recycleSelf zn z 2 s)
        | none =>
          match oldestZone (fun z => z.log == 2) none s.arc.zones with
          | some (zn, z) => some (recycleSelf zn z 2 s)
          | none =>
            if isVital typ && s.arc.reserveFree == 1 then
              some (openZone 0 (freeZone firstUsable s.arc.zones) true { s with arc := { s.arc with reserveFree := 0 } })
            else none

/-- The event log has room for a ZONE_RECYCLED record of another log, or takes a zone for it. -/
def roomToRecycle (s : State) : State := if hasRoom 0 5 0 2 s then s else (takeEventZone 5 s).getD s

/-- A zone is recycled for another log: the ZONE_RECYCLED record first, then the erase (R253). -/
def recycleZone (zn : Nat) (z : Zone) (reason : Nat) (s : State) : State :=
  eraseZone zn (if hasRoom 0 5 0 2 s then writeRec (recycledRec zn z reason s) s else loseRecord s)

/-- Take a zone for the capture ring (R253): from the pool while it holds fewer than its number, window zones past their retention
included; else its own oldest. -/
def takeRingZone (s : State) : Option State :=
  let growing := decide (s.arc.held 1 < s.ringZones)
  if growing && decide (0 < s.arc.poolFree) then some (takePool 1 s)
  else
    let s1 := roomToRecycle s
    let past := if growing then oldestZone (pastRetention s1) none (closedZones s1) else none
    match past with
    | some (zn, z) => some (openZone 1 zn false (recycleZone zn z 1 s1))
    | none => (oldestZone (fun z => z.log == 1) none s1.arc.zones).map fun x => openZone 1 x.1 false (recycleZone x.1 x.2 0 s1)

/-- Take a zone for the capture-window log (R258). -/
def takeWindowZone (s : State) : Option State :=
  if 0 < s.arc.poolFree then some (takePool 2 s)
  else
    let s1 := roomToRecycle s
    (oldestZone (pastRetention s1) none (closedZones s1)).map fun x => openZone 2 x.1 false (recycleZone x.1 x.2 1 s1)

/-! ### The governor (R259 to R262) -/

/-- W: bytes written in the current hour and the previous 719 (R259). -/
def Arc.w (a : Arc) : Nat := a.hourNow + (a.hours.take 719).foldl (· + ·) 0

/-- W / B30 in thousandths, saturating (BUDGET_USED, ARC_BUDGET). -/
def budgetUsed (s : State) : Nat := satTo 0xFFFF (s.arc.w * 1000 / b30 s.ident.nx880b)

/-- One step of the governor's level from W (Table 06-11); none when it stays. -/
def governorStep (level w b : Nat) : Option Nat :=
  if level = 0 then (if w * 1000 ≥ 960 * b then some 1 else none)
  else if level = 1 then (if w * 1000 ≥ 990 * b then some 2 else if w * 1000 < 950 * b then some 0 else none)
  else if w * 1000 < 980 * b then some 1 else none

/-- A change of the governor's level: its record and its event (R260). -/
def governorChange (new : Nat) (s : State) : State :=
  raiseEvent .arc 0 0
    (stageRec 6 0x7F (.governor s.arc.govLevel new s.arc.w (b30 s.ident.nx880b) s.arc.allowance)
      { s with arc := { s.arc with govLevel := new } })

/-- The check made at every write of 1 MB: at most two changes, one step at a time (R260). -/
def governorCheck (s : State) : State :=
  if s.arc.sinceCheck < 2 ^ 20 then s
  else
    let s1 := { s with arc := { s.arc with sinceCheck := s.arc.sinceCheck % 2 ^ 20 } }
    match governorStep s1.arc.govLevel s1.arc.w (b30 s1.ident.nx880b) with
    | none => s1
    | some l1 =>
      let s2 := governorChange l1 s1
      match governorStep l1 s2.arc.w (b30 s2.ident.nx880b) with
      | none => s2
      | some l2 => governorChange l2 s2

/-! ### Appending (R237) -/

/-- A capture copy refused (R254, R258, R263). -/
def refuseCapture (l : Nat) (s : State) : State :=
  if l = 1 then { s with arc := { s.arc with refusedRing := s.arc.refusedRing + 1 } }
  else { s with arc := { s.arc with refusedWindow := s.arc.refusedWindow + 1 } }

/-- A window of a function's group is open for a stamp (R256). -/
def CapWindow.covers (w : CapWindow) (f group stamp : Nat) : Bool :=
  w.function == f && w.group == group && decide (w.start ≤ stamp) && decide (stamp < w.finish)

/-- Count a frame in every window that is open for it (R257). -/
def countWindows (f group stamp : Nat) (refused : Bool) (s : State) : State :=
  let count (w : CapWindow) : CapWindow :=
    if refused then { w with refused := w.refused + 1 } else { w with written := w.written + 1 }
  let windows := s.arc.windows.map fun w => if w.covers f group stamp then count w else w
  { s with arc := { s.arc with windows } }

/-- A zone with room for a record: the open one, or one that is taken. -/
def roomFor (st : Staged) (s : State) : Option State :=
  if hasRoom st.log st.typ st.flags (unitsFor (recBytes st.body)) s then some s
  else if st.log = 0 then takeEventZone st.typ s
  else if st.log = 1 then takeRingZone s
  else takeWindowZone s

/-- A record for which no zone can be taken: an event record is lost (R266), a window copy is refused for want of capacity (R258).
DESIGN CHOICE: a ring copy is lost, since R254 excludes a refusal; with ARC_RING_ZONES 0 there is no ring, and nothing is counted. -/
def noRoom (st : Staged) (s : State) : State :=
  if st.log = 0 then loseRecord s
  else if st.log = 1 then
    (if s.ringZones = 0 then s else { s with arc := { s.arc with lostTotal := s.arc.lostTotal + 1 } })
  else raiseEvent .arc 0 4 (refuseCapture 2 (countWindows st.owner st.group (stampNs st.stamp) true s))

/-- Append a record to its log (R237): a zone is taken when the open one has no room. -/
def appendRecord (st : Staged) (s : State) : State :=
  match roomFor st s with
  | none => noRoom st s
  | some s1 =>
    let s2 := governorCheck (writeRec st s1)
    if st.typ = 2 then raiseEvent .arc 0 3 s2
    else if st.log = 2 then countWindows st.owner st.group (stampNs st.stamp) false s2 else s2

/-- Append staged records in order. -/
def appendAll : List Staged → State → State
  | [], s => s
  | r :: t, s => appendAll t (appendRecord r s)

/-- Append every record that is staged, so that none completed later overtakes it (R237). -/
def drainStaging (s : State) : State :=
  appendAll s.arc.staging { s with arc := { s.arc with staging := [], eventBytes := 0, captureBytes := 0 } }

/-- RECORD_APPEND (R237): the completed record staged longest ago is appended and leaves staging, once the START record and its checkpoint
have been written (R251). -/
def execRecordAppend (s : State) : Host.Outcome State Fault Refusal :=
  onMain s <|
  if s.arc.ready = false then .next s
  else match s.arc.staging with
  | [] => .next s
  | st :: rest =>
    let sz := recSize st.body
    .next (appendRecord st { s with arc := { s.arc with
      staging := rest,
      eventBytes := if st.log = 0 then s.arc.eventBytes - sz else s.arc.eventBytes,
      captureBytes := if st.log = 0 then s.arc.captureBytes else s.arc.captureBytes - sz } })

/-! ### Checkpoints (R246 to R251) -/

/-- The checkpoint over the logs as they stand (Table 06-10); KEY_ID and the signature join it as it is written. -/
def checkpointNow (s : State) : Checkpoint :=
  let a := s.arc
  { cpSeq := a.cpSeq + 1, eventSeq := a.log0.seq, eventChain := a.log0.chain, ringSeq := a.log1.seq,
    ringChain := a.log1.chain, windowSeq := a.log2.seq, windowChain := a.log2.chain, lostTotal := a.lostTotal,
    refusedRing := a.refusedRing, refusedWindow := a.refusedWindow, budgetUsed := budgetUsed s, govLevel := a.govLevel }

/-- FLAGS of a CHECKPOINT record (R247). -/
def cpFlags (step final start : Bool) : Nat := b2n step + 2 * b2n final + 4 * b2n start

/-- Append a checkpoint over the records appended before it (R246): a zone it needs is taken before the logs are frozen. With no room left
in the last reserve zone checkpoints stop (R266). -/
def appendCheckpoint (step final start : Bool) (s : State) : State :=
  let st (s : State) : Staged := { moduleRec 1 (.checkpoint (checkpointNow s)) s with flags := cpFlags step final start }
  match roomFor (st s) s with
  | none => { s with arc := { s.arc with stopped := true } }
  | some s1 => governorCheck (writeRec (st s1) { s1 with arc := { s1.arc with cpSeq := s1.arc.cpSeq + 1, cpAt := s1.sck.rtcCount } })

/-- The RTC is set from grid time once per grid second while time is valid (R58). -/
def rtcSet (s : State) : State :=
  if s.sck.valid then
    { s with sck := { s.sck with rtcNs := s.sck.now, rtcSetCount := s.sck.rtcCount, rtcLost := false } }
  else s

/-- The 1PPS output is driven in this state (Table 02-13, SCK_PPS_CFG OUT_MODE). -/
def ppsDriven (s : State) : Bool :=
  match fieldOf (s.sckSet 0x641C) 21 20 with
  | 0 => true
  | 1 => s.sck.st != .unlocked
  | _ => s.sck.valid

/-- The 1PPS output rises at each grid second boundary (R83). -/
def ppsEdge (s : State) : State :=
  if ppsDriven s then
    emit (.pps (s.sck.now / nsPerSec)) { s with sck := { s.sck with ppsEdges := s.sck.ppsEdges + 1 } }
  else s

/-- CHECKPOINT (R246): at a grid second boundary the checkpoint is appended once the archive is ready (R251), the RTC is set and the
1PPS output raised. -/
def execCheckpoint (s : State) : Host.Outcome State Fault Refusal :=
  onMain s <|
  if isSecond s.sck.now then
    .next (ppsEdge (rtcSet (if s.arc.ready then appendCheckpoint false false false s else s)))
  else .next s

/-! ### Stream events and their summaries (R243, R244) -/

/-- Bytes of the event area and of the capture area of staging (R263). -/
def eventArea : Nat := 1048576
def captureArea : Nat := 7340032

/-- Causes that are coalesced (R244). -/
def coalesced (cause : Nat) : Bool := decide (1 ≤ cause) && decide (cause ≤ 6)

/-- Add an event to an open summary of its entry and cause. -/
def addToSummary (e : StreamEvent) (stamp : Nat) : List Summary → List Summary
  | [] => []
  | x :: t =>
    if x.entry = e.entry ∧ x.cause = e.cause then
      { x with last := stamp, ev := { x.ev with count := x.ev.count + e.count } } :: t
    else x :: addToSummary e stamp t

/-- Write a stream event of a function's entry, with the quality byte of its stamp: staged, or coalesced while the event area is more
than half full. -/
def streamEvent (owner stamp quality : Nat) (e : StreamEvent) (s : State) : State :=
  if coalesced e.cause && s.arc.summaries.any (fun x => x.entry == e.entry && x.cause == e.cause) then
    { s with arc := { s.arc with summaries := addToSummary e stamp s.arc.summaries } }
  else if coalesced e.cause && decide (s.arc.eventBytes > eventArea / 2) then
    { s with arc := { s.arc with summaries := s.arc.summaries ++
        [{ entry := e.entry, cause := e.cause, owner, quality, first := stamp, last := stamp, ev := e,
           opened := s.sck.now }] } }
  else stageWith 0 0x10 owner quality 0 stamp (.streamEvent e) s

/-- Interval of a summary in ns: 1 ms, or 1 s while the event area is more than three-quarters full (R244). -/
def summaryInterval (s : State) : Nat :=
  if s.arc.eventBytes > eventArea / 4 * 3 then 1000000000 else 1000000

/-- Write a summary as one record with SUMMARY set (R244). -/
def writeSummary (x : Summary) (s : State) : State :=
  stageWith 0 0x10 x.owner x.quality 64 x.first
    (.streamEvent { x.ev with lastStamp := toStamp x.last }) s

/-- SUMMARY_CLOSE (R244): a summary whose interval has ended is written as one record. -/
def execSummaryClose (entry cause : Nat) (s : State) : Host.Outcome State Fault Refusal :=
  onMain s <|
  match s.arc.summaries.find? (fun x => x.entry == entry && x.cause == cause) with
  | none => .next s
  | some x =>
    if x.opened + summaryInterval s ≤ s.sck.now then
      .next (writeSummary x { s with arc := { s.arc with
        summaries := s.arc.summaries.filter (fun y => !(y.entry == entry && y.cause == cause)) } })
    else .next s

/-! ### Capture windows (R255 to R257, R744) -/

/-- A WINDOW record: subtype 0 open, 1 close, 2 skipped. -/
def windowRec (w : CapWindow) (subtype : Nat) (s : State) : State :=
  stageRec 8 w.function (.window w.number w.group (toStamp w.start) (toStamp w.finish) subtype w.written w.refused) s

/-- Replace a window by its number. -/
def setWindow (w : CapWindow) : List CapWindow → List CapWindow
  | [] => []
  | x :: t => if x.number = w.number then w :: t else x :: setWindow w t

/-- Remove a window by its number. -/
def dropWindow (n : Nat) (s : State) : State :=
  { s with arc := { s.arc with windows := s.arc.windows.filter (fun w => w.number != n) } }

/-- A window copy of the window waits in the frame engine or in staging. -/
def windowWaits (w : CapWindow) (s : State) : Bool :=
  s.fe.frames.any (fun fr => fr.toWindow && w.covers fr.function fr.group fr.stamp)
    || s.arc.staging.any (fun r => r.log == 2 && w.covers r.owner r.group (stampNs r.stamp))

/-- WINDOW_OPEN (R256, R257, R744): a window whose start is reached opens, once the module forwards; one wholly skipped by a forward
step is not opened, and its skipped record is written (R80). -/
def execWindowOpen (number : Nat) (s : State) : Host.Outcome State Fault Refusal :=
  onMain s <|
  match s.arc.windows.find? (fun w => w.number == number) with
  | none => .next s
  | some w =>
    if w.opened || decide (s.sck.now < w.start) then .next s
    else if w.finish ≤ s.sck.now ∧ w.start < w.finish ∧ w.written + w.refused = 0 ∧ windowWaits w s = false then
      .next (windowRec w 2 (dropWindow number s))
    else if s.fe.forwarding = false then .next s
    else
      let w' := { w with opened := true }
      .next (windowRec w' 0 { s with arc := { s.arc with windows := setWindow w' s.arc.windows } })

/-- WINDOW_CLOSE (R257): an open window whose end is reached closes, with its counts. DESIGN CHOICE: it closes 1 ms after its end, when
every frame stamped before it has left the module (R175), and once their copies have been written or refused. -/
def execWindowClose (number : Nat) (s : State) : Host.Outcome State Fault Refusal :=
  onMain s <|
  match s.arc.windows.find? (fun w => w.number == number) with
  | none => .next s
  | some w =>
    if w.opened && decide (w.finish + 1000000 ≤ s.sck.now) && !windowWaits w s then
      .next (windowRec w 1 (dropWindow number s))
    else .next s

/-! ### Hours, release -/

/-- The hourly counts after `k` hours have ended (R259). -/
def rollHours (k now : Nat) (hours : List Nat) : List Nat :=
  (List.replicate (k - 1) 0 ++ now :: hours).take 719

/-- BUDGET_HOUR_ROLL (R259): the 720 hourly counts move on by the RTC hours that have ended. -/
def execBudgetHourRoll (s : State) : Host.Outcome State Fault Refusal :=
  onMain s <|
  let k := rtcHours s - s.arc.hourIndex
  if k = 0 then .next s
  else .next { s with arc := { s.arc with
    hours := rollHours (if k > 720 then 720 else k) s.arc.hourNow s.arc.hours, hourNow := 0, hourIndex := rtcHours s } }

/-- Count an erased zone back: the reserve first, until it holds its full number, then the free pool (R279). -/
def countBack (s : State) : State :=
  if s.arc.reserveFree < reserveZones s.ident.nx880b then
    { s with arc := { s.arc with reserveFree := s.arc.reserveFree + 1 } }
  else { s with arc := { s.arc with poolFree := s.arc.poolFree + 1 } }

/-- Erase released zones. -/
def eraseReleased : List Nat → State → State
  | [], s => s
  | zn :: t, s => eraseReleased t (if (Tbl.find? zn s.arc.zones).isSome then countBack (eraseZone zn s) else s)

/-- Recycle the oldest ring zones until the ring holds no more than its number (R253): at most `n` of them. -/
def shrinkRing : Nat → State → State
  | 0, s => s
  | n + 1, s =>
    if s.arc.held 1 ≤ s.ringZones then s
    else
      let s0 := roomToRecycle s
      match oldestZone (fun z => z.log == 1) none s0.arc.zones with
      | none => s0
      | some (zn, z) =>
        if s0.arc.held 1 ≤ s0.ringZones then s0
        else
          let s1 := recycleZone zn z 0 s0
          shrinkRing n { s1 with arc := { s1.arc with poolFree := s1.arc.poolFree + 1 } }

end Sys2Proof.Machine
end

