-- ==== Sys2Proof/Machine/Vault.lean ====
section
/-! DEFINITION. The plan vault (R112, R134, R270, R271): the image slots and the key-blob sectors of each function, in two copies in
separate zones. -/

namespace Sys2Proof.Machine

/-! ### The image as bytes (R92 to R98) -/

/-- Bytes of an entry, with its module-use bytes zero (R100). -/
def entryBytes (e : Entry) : Bytes :=
  leBytes 1 e.kind ++ leBytes 1 (e.profile + 64 * e.action) ++ leBytes 2 e.ingress ++ leBytes 2 e.flags
    ++ leBytes 2 (e.vid + 4096 * b2n e.tagged) ++ beBytes 6 e.dstMac ++ leBytes 2 e.matchId ++ beBytes 16 e.dstIp
    ++ leBytes 2 e.udpPort ++ leBytes 2 0 ++ leBytes 4 e.spi ++ leBytes 4 e.keyCur ++ leBytes 4 e.keyNext ++ leBytes 8 e.rollAt
    ++ leBytes 1 e.predRule ++ leBytes 1 e.lookahead ++ leBytes 1 e.slotRate ++ leBytes 1 e.slotWindow
    ++ leBytes 4 e.slotOffset ++ leBytes 4 e.predMod ++ leBytes 4 e.budget ++ leBytes 2 e.egress
    ++ leBytes 1 (e.vlanOp + 4 * e.pcp) ++ leBytes 1 (b2n e.failKey + 2 * b2n e.failTime + 4 * b2n e.late)
    ++ leBytes 2 e.egressVid ++ leBytes 1 e.archClass ++ leBytes 1 e.tclass ++ leBytes 2 e.capGroup ++ leBytes 2 e.maxLen
    ++ leBytes 4 e.rate ++ leBytes 4 e.tag ++ leBytes 4 0 ++ beBytes 12 e.nonceFixed ++ leBytes 20 0

/-- Bytes of the entry section: `n` entries from position `i` on. -/
def entrySection (es : Tbl Entry) : (n i : Nat) → Bytes
  | 0, _ => []
  | n + 1, i => entryBytes (Tbl.get {} es i) ++ entrySection es n (i + 1)

/-- Bytes of a signature block (Table 03-3). -/
def sigBytes (b : SigBlock) : Bytes :=
  leBytes 1 b.role ++ leBytes 1 b.algorithm ++ leBytes 6 0 ++ beBytes 32 b.signerId ++ beBytes 48 b.r ++ beBytes 48 b.s

/-- Bytes of an accepted image. -/
def imageBytes (i : PlanImage) : Bytes :=
  beBytes 4 i.magic ++ leBytes 2 i.format ++ leBytes 2 i.headerLen ++ leBytes 4 i.version ++ leBytes 1 i.function ++ leBytes 3 0
    ++ leBytes 4 i.base ++ leBytes 4 i.size ++ leBytes 4 i.keyCount ++ leBytes 4 i.imageLen ++ leBytes 8 i.earliest
    ++ leBytes 8 i.compiledAt ++ beBytes 32 i.sourceDigest ++ leBytes 4 i.compilerBuild ++ leBytes 4 i.entryOffset
    ++ leBytes 4 i.keyOffset ++ leBytes 4 i.sigOffset ++ leBytes 160 0
    ++ entrySection i.entries i.size 0
    ++ (i.keys.map fun k => leBytes 4 k.handle ++ leBytes 1 (b2n k.vault) ++ leBytes 11 0).flatten
    ++ sigBytes i.sigEng ++ sigBytes i.sigSo

/-! ### The zones of a function (R270) -/

/-- Bytes of a sector, of a sector header. -/
def sectorBytes : Nat := 33554432
def sectorHeaderBytes : Nat := 64

/-- The vault zone of a function that holds copy 0, copy 1. -/
def vaultZone0 (f : Nat) : Nat := 4 + 2 * f
def vaultZone1 (f : Nat) : Nat := 5 + 2 * f

/-- Change both copies of a function's vault, writing `bytes` to each; they count as NAND writes (R259). -/
def onVault (f bytes : Nat) (g : VaultZone → VaultZone) (s : State) : State :=
  let s1 := countNand (2 * bytes)
    { s with pln := { s.pln with zones := Tbl.upd {} (vaultZone1 f) g (Tbl.upd {} (vaultZone0 f) g s.pln.zones) } }
  if s1.arc.ready then governorCheck s1 else s1

/-! ### Image slots -/

/-- The digest in the header of an image's sector. -/
def imageDigest (i : PlanImage) : Bytes := digest 2 (imageBytes i)

/-- A sector that holds an image, with its header. -/
def vaultSlot (i : PlanImage) : VaultSlot :=
  { version := i.version, imageLen := i.imageLen, digest := imageDigest i, image := i }

/-- Write an image into a slot of both copies. -/
def storeImage (f n : Nat) (i : PlanImage) (s : State) : State :=
  onVault f (sectorHeaderBytes + i.imageLen) (fun z => { z with slots := Tbl.put n (vaultSlot i) z.slots }) s

/-- Delete the image of a slot from both copies (R134). -/
def dropImage (f : Nat) (n : Option Nat) (s : State) : State :=
  match n with
  | none => s
  | some n => onVault f 0 (fun z => { z with slots := Tbl.del n z.slots }) s

/-- The slot's header digest matches its image (R271). -/
def VaultSlot.usable (v : VaultSlot) : Bool := v.digest == imageDigest v.image

/-- An image as copy 0 or copy 1 of a function's vault gives it. -/
def imageIn (s : State) (zone : Nat) (n : Option Nat) : Option PlanImage :=
  (n.bind fun n => Tbl.find? n (Tbl.get {} s.pln.zones zone).slots).bind fun v => if v.usable then some v.image else none

/-- The image of a slot, by its stored contents. -/
def storedImage (s : State) (f : Nat) (n : Option Nat) : Option PlanImage :=
  (n.bind fun n => Tbl.find? n (Tbl.get {} s.pln.zones (vaultZone0 f)).slots).map (·.image)

/-- Slots of a partition in the vault: an incoming image takes the first that holds neither the active nor the standby image. -/
def Partition.freeSlot (p : Partition) : Nat :=
  if p.vaultActive != some 0 && p.vaultStandby != some 0 then 0
  else if p.vaultActive != some 1 && p.vaultStandby != some 1 then 1 else 2

/-- The plan version in a slot's header. -/
def slotVersion (s : State) (f : Nat) (n : Option Nat) : Nat :=
  ((n.bind fun n => Tbl.find? n (Tbl.get {} s.pln.zones (vaultZone0 f)).slots).map (·.version)).getD 0

/-- Rewrite the slot of one copy with the image of the other (R271). -/
def repairSlot (zone n : Nat) (i : PlanImage) (s : State) : State :=
  countNand (sectorHeaderBytes + i.imageLen)
    { s with pln := { s.pln with zones := Tbl.upd {} zone (fun z => { z with slots := Tbl.put n (vaultSlot i) z.slots }) s.pln.zones } }

/-! ### Key blobs -/

/-- Live blobs of a function: the index of its vault. -/
def liveBlobs (s : State) (f : Nat) : List Blob := (s.key.vault.filter fun x => x.1 / 2 ^ 26 == f).map (·.2)

/-- Bytes of the blobs of a sector. -/
def blobSum (l : List Blob) : Nat := l.foldl (fun n b => n + b.len) 0

/-- The blob's sector is full. -/
def VaultZone.full (z : VaultZone) (b : Blob) : Bool := decide (sectorBytes < blobSum z.blobs + b.len)

/-- Append a blob to the sector in turn; where it is full the live blobs go into the next of sectors 3 to 7, with this one. -/
def VaultZone.append (live : List Blob) (b : Blob) (z : VaultZone) : VaultZone :=
  if z.full b then
    { z with sector := if z.sector < 7 then z.sector + 1 else 3, blobs := live.filter (fun x => x.handle != b.handle) ++ [b] }
  else { z with blobs := z.blobs ++ [b] }

/-- Bytes that appending a blob writes to a copy. -/
def appendBytes (live : List Blob) (b : Blob) (z : VaultZone) : Nat :=
  if z.full b then blobSum (z.append live b).blobs else b.len

/-- Append a blob to both copies of its function's vault and index it. -/
def appendBlob (b : Blob) (s : State) : State :=
  let f := b.handle / 2 ^ 26
  let live := liveBlobs s f
  let s1 := onVault f (appendBytes live b (Tbl.get {} s.pln.zones (vaultZone0 f))) (VaultZone.append live b) s
  { s1 with key := { s1.key with vault := Tbl.put b.handle b s1.key.vault } }

end Sys2Proof.Machine
end

