-- ==== Sys2Proof/Machine/Host.lean ====
section
/-! DEFINITION. The host interface's shared operations: contexts, completions, rings, halts and the head (10). -/

namespace Sys2Proof.Machine

/-! ### Status codes (Table 11-23) -/

def stOk : Nat := 0x0000
def stInputRejected : Nat := 0x0101
def stNotOnCurve : Nat := 0x0102
def stTagMismatch : Nat := 0x0104
def stKeyNotLoaded : Nat := 0x0201
def stKeyUsageDenied : Nat := 0x0202
def stRefusedFull : Nat := 0x0301
def stDeadlineMissed : Nat := 0x0401
def stTimeNotLocked : Nat := 0x0402
def stIntegrityLost : Nat := 0x0502
def stRestricted : Nat := 0x0601
def stAborted : Nat := 0x0701
def stSquashed : Nat := 0x0702
def stEntropyNotReady : Nat := 0x0801
def stEntropyFault : Nat := 0x0802

/-! ### Memory requests (R415, R679) -/

/-- While IDE_REQUIRED is set and no IDE stream is in the Secure state, no memory request arrives in one. DESIGN CHOICE: while
one is, the host's requests arrive in it. -/
def State.ideBlocks (s : State) : Bool := s.hif.ideRequired && !s.hif.linkSecure && s.hif.selectiveSecure == 0

/-- A memory request of the host to a function's apertures: not answered while the main domain does not run, answered Unsupported Request outside IDE (R415) and in D3hot
(R679), else performed. -/
def viaBar (f : Nat) (s : State) (k : Host.Outcome State Fault Refusal) : Host.Outcome State Fault Refusal :=
  if s.running = false then .next s
  else if s.ideBlocks || (s.func f).d3hot then .next (emit (.unsupported f) s) else k

/-! ### Rings -/

/-- Key of a ring: function and index. -/
def ringKey (f r : Nat) : Nat := f * 64 + r

/-- A ring's state. -/
def State.ring (s : State) (f r : Nat) : Ring := Tbl.get {} s.hif.rings (ringKey f r)

/-- Replace a ring's state. -/
def State.setRing (f r : Nat) (v : Ring) (s : State) : State :=
  { s with hif := { s.hif with rings := Tbl.put (ringKey f r) v s.hif.rings } }

/-- Change a ring's state. -/
def State.updRing (f r : Nat) (g : Ring → Ring) (s : State) : State := s.setRing f r (g (s.ring f r))

/-- A ring is active while enabled or draining. -/
def Ring.active (r : Ring) : Bool := r.enabled || r.draining

/-- Slots of a ring. -/
def Ring.slots (r : Ring) : Nat := 2 ^ r.sizeExp

/-- Flags of the head mirror (R441). -/
def mirrorFlags (halted : Bool) (r : Ring) : Nat := b2n halted + 2 * b2n r.draining

/-- Write the head mirror of a ring (R441). -/
def writeMirror (f r : Nat) (s : State) : State :=
  emitHost f (.mirror f r (s.ring f r).h (mirrorFlags (s.func f).halted (s.ring f r))) s

/-- Mark the entry that begins at `count` finished. -/
def finishEntry (count : Nat) : List (Nat × Nat × Bool × Bool × Bool) → List (Nat × Nat × Bool × Bool × Bool)
  | [] => []
  | (c, n, done, pad, notify) :: t =>
    if c = count then (c, n, true, pad, notify) :: t else (c, n, done, pad, notify) :: finishEntry count t

/-! ### Contexts -/

/-- The context with this id. -/
def State.ctx? (s : State) (id : Nat) : Option Ctx := s.hif.ctxs.find? (fun c => c.id == id)

/-- The context of the entry of a live ring that begins at `count`. -/
def State.ctxOf? (s : State) (f r count : Nat) : Option Ctx :=
  s.hif.ctxs.find? (fun c => c.f == f && c.ring == r && c.count == count && c.orphan == 0)

/-- Replace a context. -/
def putCtx (v : Ctx) : List Ctx → List Ctx
  | [] => []
  | c :: t => if c.id = v.id then v :: t else c :: putCtx v t

/-- Replace a context in the state. -/
def State.setCtx (v : Ctx) (s : State) : State := { s with hif := { s.hif with ctxs := putCtx v s.hif.ctxs } }

/-- Contexts a function holds (IN_USE of HIF_FUNC_CONTEXTS). -/
def State.ctxInUse (s : State) (f : Nat) : Nat := (s.hif.ctxs.filter (fun c => c.f == f)).length

/-- Remove an entry of a context from a delay list. -/
def dropDelay (id : Nat) (l : List DelayEntry) : List DelayEntry := l.filter (fun e => e.ctx != id)

/-- The context's hold on shared resources ends: delay-list entry, angle watch, work item, held input. -/
def releaseHolds (id f : Nat) (s : State) : State :=
  let t := s.ts
  let q := Tbl.get {} t.queues (64 + f)
  { s with ts := { t with
      delay0 := dropDelay id t.delay0, delay1 := dropDelay id t.delay1,
      delay2 := dropDelay id t.delay2, delay3 := dropDelay id t.delay3,
      watches := t.watches.filter (fun w => w.2 != id),
      queues := if q.packets.any (fun p => p.ctx == some id) then
          Tbl.put (64 + f) { q with packets := q.packets.filter (fun p => p.ctx != some id) } t.queues else t.queues } }

/-- Remove a context: it is free again. -/
def freeCtx (id : Nat) (s : State) : State :=
  { s with hif := { s.hif with ctxs := s.hif.ctxs.filter (fun c => c.id != id) } }

/-- Count a discarded completion (R453, R504). -/
def countDiscard (f orphan : Nat) (s : State) : State :=
  if orphan = 1 then { s with hif := { s.hif with discardCount := satTo max32 (s.hif.discardCount + 1) } }
  else s.updFunc f fun v => { v with discards := satTo max32 (v.discards + 1) }

/-- The writes of a finished entry, in the order of R427: output buffer, then STATUS, RESULT_LEN and DETAIL. -/
def writeCompletion (f r count addr : Nat) (c : Completion) (s : State) : State :=
  let s1 := if c.output.isEmpty then s else emitHost f (.output f r count addr c.output) s
  emitHost f (.status f r count (statusWord c.code c.recomputed) c.resultLen c.detail) s1

/-- A context finishes with a completion: delivered to its ring, or discarded and counted where the ring is gone. -/
def finishCtx (c : Ctx) (comp : Completion) (s : State) : State :=
  let s1 := freeCtx c.id (releaseHolds c.id c.f s)
  if c.orphan = 0 then
    let comp' := { comp with recomputed := comp.recomputed || c.recomputed }
    (writeCompletion c.f c.ring c.count c.hdr.outAddr comp' s1).updRing c.f c.ring
      fun g => { g with entries := finishEntry c.count g.entries }
  else countDiscard c.f c.orphan s1

/-- A completion with a bare status. -/
def bare (code : Nat) : Completion := { code }

/-- Finish every context that satisfies `p` with a bare status. -/
def finishWhere (p : Ctx → Bool) (code : Nat) : List Ctx → State → State
  | [], s => s
  | c :: t, s => finishWhere p code t (if p c then finishCtx c (bare code) s else s)

/-! ### Data port ends (R459) -/

/-- The function's data-port state at rest. -/
def Func.portIdle (v : Func) : Func :=
  { v with dpState := 0, dpLengthKnown := false, dpRing := 0, dpOwner := 0, dpCtx := none, dpPos := 0, dpLimit := 0,
           dpLength := 0, dpBuf := [], dpOut := [] }

/-- A plan-load that ends without success leaves the standby state as it was before LOADING, with its record, and deletes the incoming
image (Table 03-16, R114). -/
def leaveLoading (f reason : Nat) (s : State) : State :=
  match Tbl.find? f s.pln.parts with
  | none => s
  | some p =>
    if p.standby = .loading then
      stageRec 0x21 f (.planEvent p.heldVersion (transitionOf .loading p.before) reason)
        (dropImage f p.vaultIncoming
          { s with pln := { s.pln with parts := Tbl.put f { p with standby := p.before, vaultIncoming := none } s.pln.parts } })
    else s

/-- A firmware slot whose transfer ends without success is EMPTY (R670). -/
def FwSlot.settle (v : FwSlot) : FwSlot := if v.st = 1 then {} else v

/-- What a transfer that ends without success leaves: the standby state as before, a slot EMPTY. -/
def leaveTransfer (op f : Nat) (s : State) : State :=
  if op = 0x0601 then leaveLoading f 0 s
  else if op = 0x0B06 then { s with pwr := { s.pwr with slot0 := s.pwr.slot0.settle, slot1 := s.pwr.slot1.settle } }
  else s

/-- A transfer ends other than by completion: the operation completes ABORTED and DP_ABORTED is set (R459). -/
def abortPort (f : Nat) (protocol : Bool) (s : State) : State :=
  if (s.func f).dpState = 0 then s
  else
    let ctx := (s.func f).dpCtx
    let s1 := s.updFunc f fun v => { v.portIdle with dpProtocol := protocol }
    let s2 := match ctx with
      | none => s1
      | some id => match s1.ctx? id with
        | none => s1
        | some c => finishCtx c (bare stAborted) (leaveTransfer c.hdr.opcode f s1)
    raiseEvent .hif f 1 s2

/-! ### Halts (R445 to R449) -/

/-- Set HALTED in the mirrors of a function's active rings. -/
def haltMirrors (f : Nat) : Nat → State → State
  | 0, s => s
  | n + 1, s =>
    let s1 := haltMirrors f n s
    if (s1.ring f n).active then writeMirror f n s1 else s1

/-- A function halts: the record is made unless one stands, its transfer ends, its mirrors show it (R446, R449). -/
def haltFunc (f cause ring opcode count : Nat) (s : State) : State :=
  if (s.func f).halted then s
  else
    let s1 := s.updFunc f fun v =>
      { v with halted := true, haltCause := cause, haltRing := ring, haltOpcode := opcode, haltCount := count }
    let s2 := haltMirrors f 64 (abortPort f false s1)
    let s3 := raiseEvent .hif f 0 s2
    if f = 0 then s3 else raiseEvent .hif 0 2 s3

/-- Halt every VF below `n` with cause PF_HALTED (R447). -/
def haltVfs : Nat → State → State
  | 0, s => s
  | n + 1, s =>
    let s1 := haltVfs n s
    if n = 0 then s1 else haltFunc n 0x10 0 0 0 s1

/-- A malformed entry or doorbell: a VF halts alone, the PF halts the whole host interface (R446, R447). -/
def halt (f cause ring opcode count : Nat) (s : State) : State :=
  let s0 := haltFunc f cause ring opcode count s
  let s1 := if cause = 7 then s0 else s0.updRing f ring fun g => { g with haltHere := true }
  if f = 0 then haltVfs 64 s1 else s1

end Sys2Proof.Machine
end

