-- ==== Sys2Proof/Machine/Sched.lean ====
section
/-! DEFINITION. The task scheduler, the cores, the queue manager and the delay lists (13). -/

namespace Sys2Proof.Machine

/-! ### Queue manager (R538 to R546) -/

/-- Cells of the pool (R538). -/
def qmCells : Nat := 131072

/-- Cells of a packet of `len` bytes (R539). -/
def cellsFor (len : Nat) : Nat := ((if len = 0 then 1 else len) + 255) / 256

/-- Limit and reserved cells of a queue (Table 13-3). -/
def queueLimit (t : Ts) (q : Nat) : Nat × Nat :=
  if q < 12 then (4096, 512)
  else if q = 12 then (512, 64)
  else if q < 64 then (0, 0)
  else if q < 128 then (8192, 0)
  else if q < 4096 then Tbl.get (65536, 0) t.fwLimits q
  else (0, 0)

/-- Occupancy of a queue: the cells its packets hold (R538). -/
def Queue.cells (q : Queue) : Nat := q.packets.foldl (fun n p => n + cellsFor p.len) 0

/-- A queue's state. -/
def State.queue (s : State) (q : Nat) : Queue := Tbl.get {} s.ts.queues q

/-- Replace a queue. -/
def State.setQueue (q : Nat) (v : Queue) (s : State) : State := { s with ts := { s.ts with queues := Tbl.put q v s.ts.queues } }

/-- Cells in use by all queues. -/
def usedCells (qs : Tbl Queue) : Nat := qs.foldl (fun n x => n + x.2.cells) 0

/-- Free cells, reserved and unreserved (QM_POOL). -/
def freeCells (t : Ts) : Nat := qmCells - usedCells t.queues

/-- Cells reserved for queues 0 to 12 and 128 to 4,095 together (Table 13-3). -/
def reservedTotal : Nat := 12 * 512 + 64 + 8192

/-- Reserved cells in use: for each queue, its cells up to its reservation. -/
def reservedUsed (t : Ts) : Nat :=
  t.queues.foldl (fun n x => n + (if x.2.cells < (queueLimit t x.1).2 then x.2.cells else (queueLimit t x.1).2)) 0

/-- Unreserved free cells. -/
def unreservedFree (t : Ts) : Nat := (qmCells - reservedTotal) - (usedCells t.queues - reservedUsed t)

/-- The packet's cells fit the queue's limit and can be found (R539). -/
def qmFits (t : Ts) (q len : Nat) : Bool :=
  let occ := (Tbl.get ({} : Queue) t.queues q).cells
  let lim := queueLimit t q
  let need := cellsFor len
  let own := lim.2 - occ
  decide (len ≤ 9216) && decide (occ + need ≤ lim.1) && decide (need ≤ own + unreservedFree t)
    && (decide (q < 128) || decide (usedCells (t.queues.filter fun x => decide (128 ≤ x.1)) + need ≤ 65536))

/-- Consumer group of a queue (Table 13-3); none where no group is fixed. -/
def queueGroup (q : Nat) : Option Nat := if q < 12 then some 0 else if q = 12 then some 1 else none

/-- Level of a queue (R545): QM_EXC_LEVEL for the exception queues. -/
def State.queueLevel (s : State) (q : Nat) : Nat :=
  if q < 12 then fieldOf ((Tbl.find? (regKey 0 (0x4A10 + 4 * q)) s.rw).getD 0x0C00) 12 0 else 0

/-- Place a new work item at the end of its group's ready list. -/
def makeReady (kind : WorkKind) (group : Nat) (s : State) : State :=
  let id := s.ts.nextItem
  { s with ts := { s.ts with
      nextItem := id + 1,
      items := s.ts.items ++ [{ id, kind, group, readyAt := s.sck.rtcCount }],
      ready := Tbl.put group (Tbl.get [] s.ts.ready group ++ [id]) s.ts.ready } }

/-- Queue occupancy rises from `before` to its level or above: one level item is placed, and for queues 0 to 11 the port's bit is set
(R545). -/
def levelCross (q before : Nat) (s : State) : State :=
  let lv := s.queueLevel q
  if before < lv ∧ lv ≤ (s.queue q).cells then
    let s2 := match queueGroup q with
      | some g => makeReady (.level q) g s
      | none => s
    if q < 12 then raiseEvent .qm 0 q s2 else s2
  else s

/-- Put a packet the queue manager has accepted into its queue, with its work item and the level test. -/
def qmPut (q : Nat) (p : Packet) (s : State) : State :=
  let v := s.queue q
  match queueGroup q with
  | some g => levelCross q v.cells (makeReady (.packet q) g (s.setQueue q { v with packets := v.packets ++ [{ p with item := some s.ts.nextItem }] }))
  | none => levelCross q v.cells (s.setQueue q { v with packets := v.packets ++ [p] })

/-- Count in a port's counter set (Table 05-9); HSR_OWN_REMOVED has index 19 here. -/
def bumpPort (p i k : Nat) (s : State) : State :=
  let v : Port := Tbl.get {} s.fe.ports p
  { s with fe := { s.fe with ports := Tbl.put p { v with counters := bumpAt 20 i k v.counters } s.fe.ports } }

/-- QM_PACKET_BEGIN (R539): the packet is accepted whole, or refused whole and, for the exception queues, counted in
EXC_QUEUE_FULL of the port. -/
def execQmPacketBegin (queue port : Nat) (data : Bytes) (s : State) : Host.Outcome State Fault Refusal :=
  onMain s <|
  if qmFits s.ts queue data.length then
    .next (qmPut queue { len := data.length, data, stamp := s.sck.now, quality := s.quality } s)
  else if queue ≤ 12 then .next (bumpPort (if queue = 12 then port else queue) 5 1 s) else .next s

/-- The packet being read: the first whose rest has neither been delivered nor dropped. -/
def readIndex : List Packet → Nat → Option (Nat × Packet)
  | [], _ => none
  | p :: t, i =>
    if p.dropped || (p.started && decide (p.len ≤ p.readPos)) then readIndex t (i + 1) else some (i, p)

/-- Replace packet i of a queue. -/
def setPacket (i : Nat) (v : Packet) (l : List Packet) : List Packet := l.set i v

/-- QM_READ (R541, R543, R544): one 64-byte read unit with its tag, or an idle unit. -/
def execQmRead (queue : Nat) (s : State) : Host.Outcome State Fault Refusal :=
  onMain s <|
  let v := s.queue queue
  match readIndex v.packets 0 with
  | none => .next { s with ts := { s.ts with lastUnit := { data := List.replicate 64 0, idle := true } } }
  | some (i, p) =>
    let lostHere := match p.lostAt with
      | none => false
      | some b => decide (b / 256 * 256 ≤ p.readPos)
    if lostHere then
      let s1 := s.setQueue queue { v with packets := setPacket i { p with started := true, dropped := true } v.packets }
      let s2 := { s1 with ts := { s1.ts with lost := satTo max32 (s1.ts.lost + 1), lastUnit := { lost := true } } }
      .next (raiseEvent .qm 0 12 s2)
    else
      let n := if p.len - p.readPos < 64 then p.len - p.readPos else 64
      let chunk := (p.data.drop p.readPos).take n
      let u : ReadUnit := { data := chunk ++ List.replicate (64 - chunk.length) 0, count := n, sop := p.readPos == 0,
                            eop := decide (p.len ≤ p.readPos + n) }
      let s1 := s.setQueue queue { v with packets := setPacket i { p with started := true, readPos := p.readPos + n } v.packets }
      .next { s1 with ts := { s1.ts with lastUnit := u } }

/-- QM_DROP_REMAINDER (R542): the unread rest of the packet being read is discarded; its cells stay until the commit. -/
def execQmDropRemainder (queue : Nat) (s : State) : Host.Outcome State Fault Refusal :=
  onMain s <|
  let v := s.queue queue
  match readIndex v.packets 0 with
  | none => .next s
  | some (i, p) =>
    if p.started then
      .next (s.setQueue queue { v with packets := setPacket i { p with dropped := true } v.packets })
    else .next s

/-! ### Groups and cores (R522 to R528) -/

/-- Default weight and lease of a group (Table 13-1), as TS_GROUP_CFG. -/
def groupReset : Nat → Nat
  | 0 => 32 + 10 * 65536
  | 1 => 16 + 50 * 65536
  | 2 => 64 + 10 * 65536
  | 3 => 16 + 100 * 65536
  | 4 => 16 + 100 * 65536
  | 5 => 16 + 100 * 65536
  | 6 => 8 + 100 * 65536
  | 7 => 8 + 500 * 65536
  | 8 => 8 + 500 * 65536
  | 9 => 8 + 100 * 65536
  | 10 => 4 + 500 * 65536
  | 11 => 4 + 500 * 65536
  | 12 => 8 + 100 * 65536
  | 13 => 2 + 1000 * 65536
  | _ => 0

/-- TS_GROUP_CFG in force. -/
def State.groupCfg (s : State) (g : Nat) : Nat := (Tbl.find? (regKey 0 (0x4800 + 4 * g)) s.rw).getD (groupReset g)

/-- Weight of a group. -/
def State.groupWeight (s : State) (g : Nat) : Nat := fieldOf (s.groupCfg g) 7 0

/-- Lease time of a group in ns. -/
def State.groupLease (s : State) (g : Nat) : Nat := fieldOf (s.groupCfg g) 29 16 * 100000

/-- Reset value of TS_CORE_GROUPS. -/
def coreGroupsReset (c : Nat) : Nat := if c < 2 then 7 else 0x3FFF

/-- Groups a core serves. -/
def State.coreGroups (s : State) (c : Nat) : Nat :=
  fieldOf ((Tbl.find? (regKey 0 (0x4840 + 4 * c)) s.rw).getD (coreGroupsReset c)) 13 0

/-- Cores present in the running configuration (R522). -/
def State.coreCount (s : State) : Nat := if s.pwr.lupin then 16 else 48

/-- A core's state. -/
def State.coreRt (s : State) (c : Nat) : CoreRt := Tbl.get {} s.ts.cores c

/-- Replace a core's state. -/
def State.setCore (c : Nat) (v : CoreRt) (s : State) : State := { s with ts := { s.ts with cores := Tbl.put c v s.ts.cores } }

/-- The core takes or could take work: neither restarting, out of service, halted by a debug token nor under test. -/
def CoreRt.inService (v : CoreRt) : Bool := (v.st == .waiting || v.st == .running) && !v.halted && !v.testing

/-- Some core below `n` that is in service serves the group. -/
def groupServed (s : State) (g : Nat) : Nat → Bool
  | 0 => false
  | n + 1 => ((s.coreRt n).inService && (s.coreGroups n).testBit g) || groupServed s g n

/-- Some group from 0 to 13 has no core in service. -/
def someUnserved (s : State) : Nat → Bool
  | 0 => false
  | n + 1 => !(groupServed s n 48) || someUnserved s n

/-- GROUP_UNSERVED is set while a group has no core in service (R536). -/
def noteUnserved (s : State) : State := if someUnserved s 14 then raiseEvent .ts 0 3 s else s

/-- Group of an opcode (Table 13-1, R525). -/
def groupOfOpcode (op : Nat) : Nat :=
  if op = 0x0802 ∨ op = 0x0609 then 2
  else match op / 256 with
    | 1 => 7
    | 2 => 5
    | 3 => 4
    | 4 => 6
    | 5 => 5
    | 6 => 8
    | 7 => 9
    | 0xC => 11
    | _ => 10

/-- Timed actions (R469). -/
def isTimedAction (op : Nat) : Bool := op == 0x0802 || op == 0x0609

/-- The work item with this id. -/
def State.item? (s : State) (id : Nat) : Option WorkItem := s.ts.items.find? (fun i => i.id == id)

/-- Replace a work item. -/
def putItem (v : WorkItem) : List WorkItem → List WorkItem
  | [] => []
  | i :: t => if i.id = v.id then v :: t else i :: putItem v t

/-- Remove a work item everywhere. -/
def dropItem (id : Nat) (s : State) : State :=
  { s with ts := { s.ts with items := s.ts.items.filter (fun i => i.id != id),
                             ready := Tbl.mapAll (fun _ l => l.filter (· != id)) s.ts.ready } }

/-- Earlier entries of the context's ring have all finished (FENCE, R424); of its former ring for an orphan. -/
def fenceOpen (s : State) (c : Ctx) : Bool :=
  if c.orphan = 0 then ((s.ring c.f c.ring).entries.takeWhile (fun e => e.1 != c.count)).all (fun e => e.2.2.1)
  else s.hif.ctxs.all (fun x => !(x.f == c.f && x.ring == c.ring && x.orphan == c.orphan && decide (x.id < c.id)))

/-- The item can be given to a core now: FENCE open, the data port held where needed, not held for randomness. -/
def itemReady (s : State) (i : WorkItem) : Bool :=
  match i.kind with
  | .ctx id =>
    match s.ctx? id with
    | none => false
    | some c => c.phase == .queued && (!c.hdr.fence || fenceOpen s c)
        && (!c.dataPort || (s.func c.f).dpCtx == some id) && !c.lifted
  | _ => true

/-- First ready item of a list of ids. -/
def firstReady (s : State) : List Nat → Option WorkItem
  | [] => none
  | id :: t =>
    match s.item? id with
    | none => firstReady s t
    | some i => if itemReady s i then some i else firstReady s t

/-- Head item of a group that can be dispatched. -/
def groupHead (s : State) (g : Nat) : Option WorkItem := firstReady s (Tbl.get [] s.ts.ready g)

/-- The group is a candidate for a core (R526). -/
def isCand (s : State) (c g : Nat) : Bool := (s.coreGroups c).testBit g && (groupHead s g).isSome

/-- Credit of a group. -/
def State.credit (s : State) (g : Nat) : Nat := Tbl.get 0 s.ts.credit g

/-- Set the credit of groups 0 to n − 1 to their weights. -/
def refillCredit : Nat → State → State
  | 0, s => s
  | n + 1, s =>
    let s1 := refillCredit n s
    { s1 with ts := { s1.ts with credit := Tbl.put n (s1.groupWeight n) s1.ts.credit } }

/-- First candidate group with credit, searching `n` groups from `g` on, cyclically over 16. -/
def searchGroup (s : State) (c : Nat) : Nat → Nat → Option Nat
  | _, 0 => none
  | g, n + 1 => if isCand s c g && decide (0 < s.credit g) then some g else searchGroup s c ((g + 1) % 16) n

/-- Every candidate group has credit 0. -/
def creditOut (s : State) (c : Nat) : Nat → Bool
  | 0 => true
  | n + 1 => (!(isCand s c n) || s.credit n == 0) && creditOut s c n

/-- Ticks from the due tick to now (R438). -/
def lateness (s : State) (c : Ctx) : Nat := (s.sck.now - c.dueTick) / 1000

/-- Status that ends an entry at its dispatch, if any: lateness and time tests of a timed action (R438, R469). -/
def dispatchRefusal (s : State) (c : Ctx) : Option Nat :=
  if c.hdr.notBefore = 0 ∨ isTimedAction c.hdr.opcode = false then none
  else if c.hdr.latenessTol ≠ max32 ∧ lateness s c > c.hdr.latenessTol then some stDeadlineMissed
  else if s.sck.valid = false then some stTimeNotLocked
  else none

/-- A group is served: its credit falls (R526). -/
def serveGroup (g : Nat) (s : State) : State :=
  { s with ts := { s.ts with lastGroup := g, credit := Tbl.put g (s.credit g - 1) s.ts.credit } }

/-- Give an item to a core under a new lease epoch (R526, R529). -/
def giveItem (core g : Nat) (i : WorkItem) (s : State) : State :=
  let i' := { i with epoch := (i.epoch + 1) % 2 ^ 32, core := some core }
  let s1 := { s with ts := { s.ts with
      items := putItem i' s.ts.items, dispatchAt := s.sck.rtcCount,
      ready := Tbl.put g ((Tbl.get [] s.ts.ready g).filter (· != i.id)) s.ts.ready } }
  let s2 := s1.setCore core { s1.coreRt core with st := .running, group := g, item := some i.id, leaseAt := s1.sck.now }
  match i.kind with
  | .ctx id =>
    match s2.ctx? id with
    | none => s2
    | some c =>
      let s3 := { s2 with ts := { s2.ts with watches := s2.ts.watches.filter (fun w => w.2 != id) } }
      s3.setCtx { c with phase := .dispatched, needsHost := c.dataPort }
  | _ => s2

/-- WORK_DISPATCH (R526): a core asking for work is given the head item of the group the credits choose. A timed action
found late or without valid time is not performed and completes at once (R438, R469). `readError`: the read of the
entry's input buffer returned an error completion or poisoned data, which ends the operation with ABORTED before it has any
effect (R426); a timed entry's input is held in the module (R437). -/
def execWorkDispatch (core : Nat) (readError : Bool) (s : State) : Host.Outcome State Fault Refusal :=
  onMain s <|
  if (s.coreRt core).st != .waiting || (s.coreRt core).halted || (s.coreRt core).testing || s.regionOff 4 then .next s
  else
    let s1 := if creditOut s core 16 then refillCredit 14 s else s
    match searchGroup s1 core ((s1.ts.lastGroup + 1) % 16) 16 with
    | none => .next s
    | some g =>
      match groupHead s1 g with
      | none => .next s
      | some i =>
        let refusal := match i.kind with
          | .ctx id => (s1.ctx? id).bind fun c => (dispatchRefusal s1 c).map fun code => (c, code)
          | _ => none
        let broken := match i.kind with
          | .ctx id => (s1.ctx? id).filter fun (c : Ctx) => readError && decide (0 < c.hdr.inLen) && c.hdr.notBefore == 0
          | _ => none
        match refusal <|> broken.map (fun (c : Ctx) => (c, stAborted)) with
        | some (c, code) => .next (finishCtx c (bare code) (dropItem i.id (serveGroup g s1)))
        | none => .next (giveItem core g i (serveGroup g s1))

/-- Remove the packet of an item that commits or drops it: its cells are freed (R541). -/
def freePacket (q item : Nat) (s : State) : State :=
  let v := s.queue q
  s.setQueue q { v with packets := v.packets.filter fun p => p.item != some item }

/-- Count a stale write (R530). -/
def staleWrite (core : Nat) (s : State) : State :=
  let v := s.coreRt core
  let s1 := { s with ts := { s.ts with staleWrites := satTo max32 (s.ts.staleWrites + 1) } }
  match v.retired with
  | none => s1
  | some (g, e, n) => s1.setCore core { v with retired := some (g, e, n + 1) }

/-- The core has finished its item. -/
def coreIdle (core : Nat) (s : State) : State :=
  let v := s.coreRt core
  if v.st = .running then s.setCore core { v with st := .waiting, item := none } else s

/-- ITEM_COMMIT (R531): under the record's current epoch the commit makes the item's completion and frees its packet's
cells; a commit under a retired epoch is stale and discarded. -/
def execItemCommit (core item epoch : Nat) (s : State) : Host.Outcome State Fault Refusal :=
  onMain s <|
  match s.item? item with
  | none => .next (staleWrite core s)
  | some i =>
    if i.epoch ≠ epoch ∨ i.core ≠ some core then .next (staleWrite core s)
    else
      let s1 := coreIdle core (dropItem item s)
      match i.kind with
      | .packet q => .next (freePacket q item s1)
      | .ctx id =>
        match s1.ctx? id with
        | none => .next s1
        | some c =>
          match c.comp with
          | none => .next s
          | some comp => if c.dataPort then .next s else .next (finishCtx c comp s1)
      | _ => .next s1

/-- What an engine runs or queues for a context ends without a status (Table 08-13). -/
def dropPkeOps (c : Nat) (s : State) : State :=
  let drop (e : Engine) : Engine :=
    let e1 := if e.next.any (fun o => o.ctx == some c) then { e with next := none } else e
    if e.op.any (fun o => o.ctx == some c) then e1.abort else e1
  { s with pke := { s.pke with engines := Tbl.mapAll (fun _ e => drop e) s.pke.engines } }

/-- Place an item at the head of its group with a raised epoch, for any other core (R532, R533). A completion that is
staged stands. -/
def redispatch (id : Nat) (s : State) : State :=
  match s.item? id with
  | none => s
  | some i =>
    let i' := { i with epoch := (i.epoch + 1) % 2 ^ 32, core := none, readyAt := s.sck.rtcCount }
    let s1 := { s with ts := { s.ts with
        items := putItem i' s.ts.items,
        ready := Tbl.put i.group (id :: (Tbl.get [] s.ts.ready i.group).filter (· != id)) s.ts.ready,
        redispatches := satTo max32 (s.ts.redispatches + 1) } }
    match i.kind with
    | .ctx c =>
      match s1.ctx? c with
      | none => s1
      | some x => dropPkeOps c (s1.setCtx { x with phase := .queued })
    | .packet q =>
      let v := s1.queue q
      let again (p : Packet) : Packet := if p.item = some id then { p with readPos := 0, started := false, dropped := false } else p
      s1.setQueue q { v with packets := v.packets.map again }
    | _ => s1

/-- Failures of a core within the last 3,600 s of RTC time, with one now (R536). -/
def failuresNow (s : State) (v : CoreRt) : List Nat :=
  rtcSeconds s :: v.failures.filter (fun t => decide (rtcSeconds s < t + 3600))

/-- A core that has failed three times within 3,600 s leaves service, otherwise it restarts (R534, R536). -/
def failCore (core : Nat) (retired : Option (Nat × Nat × Nat)) (decl rest : Nat) (s : State) : State :=
  let v := s.coreRt core
  let fs := failuresNow s v
  let out := decide (3 ≤ fs.length)
  let v' := { v with st := if out then .outOfService else .restarting, item := none, failures := fs, retired,
                     declared := satTo 255 (v.declared + decl), restarts := satTo 255 (v.restarts + rest) }
  let s1 := s.setCore core v'
  if out then noteUnserved (raiseEvent .ts 0 2 s1) else s1

/-- The core that runs an item is blocked on a public-key engine, the random number unit or the data port (R528): its lease is renewed
without firmware action. -/
def coreBlocked (s : State) (v : CoreRt) : Bool :=
  match (v.item.bind fun x => s.item? x).map WorkItem.kind with
  | some (.ctx id) =>
    s.pke.engines.any (fun x => x.2.op.any (fun o => o.ctx == some id) || x.2.next.any (fun o => o.ctx == some id))
      || (s.ctx? id).any fun c => c.phase == .held || (s.func c.f).dpCtx == some id
  | _ => false

/-- Renew the leases of the cores that are blocked (R528). -/
def renewBlocked (s : State) : State :=
  { s with ts := { s.ts with cores := Tbl.mapAll (fun _ (v : CoreRt) =>
      if v.st == .running && coreBlocked s v then { v with leaseAt := s.sck.now } else v) s.ts.cores } }

/-- Renew the lease of the core that runs a context's item: a step of its operation has ended (R528). -/
def renewLease (id : Nat) (s : State) : State :=
  { s with ts := { s.ts with cores := Tbl.mapAll (fun _ (v : CoreRt) =>
      if v.st == .running && (v.item.bind fun x => s.item? x).any (fun i => i.kind == .ctx id) then { v with leaseAt := s.sck.now } else v) s.ts.cores } }

/-- The lease of a running core has run for its group's lease time without renewal. -/
def leaseOver (s : State) (v : CoreRt) : Bool := decide (v.leaseAt + s.groupLease v.group ≤ s.sck.now) && !coreBlocked s v

/-- LEASE_EXPIRY (R532): a running core whose lease has run out is declared dead; its item's epoch is raised and the
item placed at the head of its group. -/
def execLeaseExpiry (core : Nat) (s : State) : Host.Outcome State Fault Refusal :=
  onMain s <|
  let v := s.coreRt core
  match v.st, v.item with
  | .running, some id =>
    let epoch := ((s.item? id).map (·.epoch)).getD 0
    if leaseOver s v then .next (failCore core (some (v.group, epoch, 0)) 1 0 (raiseEvent .ts 0 0 (redispatch id s))) else .next s
  | _, _ => .next s

/-- CORE_RESET_DONE (R534): the core returns to service unless it has left it (R536), with one journal entry for a declaration. -/
def execCoreResetDone (core : Nat) (s : State) : Host.Outcome State Fault Refusal :=
  onMain s <|
  let v := s.coreRt core
  if v.st = .restarting ∨ v.st = .outOfService then
    let s1 := s.setCore core { v with st := if v.st = .restarting then .waiting else v.st, retired := none }
    match v.retired with
    | none => .next s1
    | some (g, e, n) => .next (raiseAlarm causeCoreDead core (core + 256 * g + 2 ^ 32 * e + 2 ^ 64 * n) s1)
  else .next s

/-- A core whose memory shows an error is reset and its item re-dispatched without a journal entry (R535), one that is halted or finishes
its item ahead of a test too. -/
def coreError (core : Nat) (s : State) : State :=
  let v := s.coreRt core
  if v.st = .waiting ∨ v.st = .running then
    let s1 := match v.item with
      | some id => redispatch id s
      | none => s
    securityRec secCoreRestart core 0 0 (failCore core none 0 1 (raiseEvent .ts 0 1 s1))
  else s

/-- CORE_MEMORY_ERROR (R535). -/
def execCoreMemoryError (core : Nat) (s : State) : Host.Outcome State Fault Refusal :=
  onMain s <| .next (coreError core s)

/-! ### Delay lists (R547 to R551) -/

/-- A delay list. -/
def Ts.delay (t : Ts) (i : Nat) : List DelayEntry :=
  if i = 0 then t.delay0 else if i = 1 then t.delay1 else if i = 2 then t.delay2 else t.delay3

/-- Replace a delay list. -/
def Ts.setDelay (t : Ts) (i : Nat) (l : List DelayEntry) : Ts :=
  if i = 0 then { t with delay0 := l } else if i = 1 then { t with delay1 := l }
  else if i = 2 then { t with delay2 := l } else { t with delay3 := l }

/-- The list with the most free entries, the lowest-numbered on a tie (R548). -/
def bestDelay (t : Ts) : Nat :=
  let a := t.delay0.length
  let b := t.delay1.length
  let c := t.delay2.length
  let d := t.delay3.length
  if a ≤ b ∧ a ≤ c ∧ a ≤ d then 0 else if b ≤ c ∧ b ≤ d then 1 else if c ≤ d then 2 else 3

/-- Delay-list entries a function holds (TS_DELAY_USED). -/
def State.delayUsed (s : State) (f : Nat) : Nat :=
  (s.hif.ctxs.filter (fun c => c.f == f && c.phase == .delayed && !c.lifted)).length

/-- Cells of held input of a function (TS_HELD_CELLS). -/
def State.heldCells (s : State) (f : Nat) : Nat := (s.queue (64 + f)).cells

/-- Angle watches of a function. -/
def State.watchCount (s : State) (f : Nat) : Nat := (s.ts.watches.filter (fun w => w.1 == f)).length

/-- The angle watch that a context with an angle takes when it is accepted (R550). -/
def takeWatch (c : Ctx) (s : State) : State :=
  if c.angle.isSome then { s with ts := { s.ts with watches := s.ts.watches ++ [(c.f, c.id)] } } else s

/-- Place a context on a delay list (R548). -/
def placeDelay (c : Ctx) (s : State) : State :=
  let i := bestDelay s.ts
  let q := s.ts.delaySeq
  let t := s.ts.setDelay i (s.ts.delay i ++ [{ due := stampNs c.hdr.notBefore, seq := q, ctx := c.id }])
  let s1 := { s with ts := { t with delaySeq := q + 1 } }
  s1.setCtx { c with phase := .delayed, dseq := q }

/-- Due order: due stamp, then acceptance sequence (R549). -/
def dueBefore (a b : DelayEntry) : Bool := decide (a.due < b.due) || (a.due == b.due && decide (a.seq ≤ b.seq))

/-- Insert in due order. -/
def insertDue (e : DelayEntry) : List DelayEntry → List DelayEntry
  | [] => [e]
  | x :: t => if dueBefore e x then e :: x :: t else x :: insertDue e t

/-- Sort in due order. -/
def sortDue : List DelayEntry → List DelayEntry
  | [] => []
  | e :: t => insertDue e (sortDue t)

/-- Due entries of the lists that are not being rebuilt, in the order of R549. -/
def dueEntries (s : State) : List DelayEntry :=
  let pick (i : Nat) : List DelayEntry :=
    if s.ts.rebuilding.contains i then [] else (s.ts.delay i).filter (fun e => decide (e.due ≤ s.sck.now))
  sortDue (pick 0 ++ pick 1 ++ pick 2 ++ pick 3)

/-- Held input of a context that a memory error has lost (R544). -/
def heldLost (s : State) (c : Ctx) : Bool :=
  (s.queue (64 + c.f)).packets.any (fun p => p.ctx == some c.id && p.lostAt.isSome)

/-- Release one entry (R549, R550): it becomes ready in its group; one with an angle waits on its watch; lost input
completes INTEGRITY_LOST and an angle that is not valid TIME_NOT_LOCKED (R79). -/
def releaseEntry (e : DelayEntry) (s : State) : State :=
  match s.ctx? e.ctx with
  | none => s
  | some c =>
    let s1 := { s with ts := { s.ts with
        delay0 := dropDelay c.id s.ts.delay0, delay1 := dropDelay c.id s.ts.delay1,
        delay2 := dropDelay c.id s.ts.delay2, delay3 := dropDelay c.id s.ts.delay3 } }
    if heldLost s1 c then
      finishCtx c (bare stIntegrityLost) (raiseEvent .qm 0 12 { s1 with ts := { s1.ts with lost := satTo max32 (s1.ts.lost + 1) } })
    else
      match c.angle with
      | some _ =>
        if angleValid s1.sck then s1.setCtx { c with phase := .held, dueTick := tickAt e.due }
        else finishCtx c (bare stTimeNotLocked) s1
      | none =>
        makeReady (.ctx c.id) (groupOfOpcode c.hdr.opcode) (s1.setCtx { c with phase := .queued, dueTick := tickAt e.due })

/-- Release entries in order. -/
def releaseAll : List DelayEntry → State → State
  | [], s => s
  | e :: t, s => releaseAll t (releaseEntry e s)

/-- Release the due entries, at most 256 per tick (R549). -/
def releaseDue (s : State) : State := releaseAll ((dueEntries s).take 256) s

/-- DELAY_LIST_REBUILD (R551): the list is rebuilt from the in-flight contexts, which hold due stamp and sequence. -/
def execDelayListRebuild (list : Nat) (s : State) : Host.Outcome State Fault Refusal :=
  onMain s <|
  if s.ts.rebuilding.contains list then
    let onList (id : Nat) : Bool :=
      (s.ts.delay0 ++ s.ts.delay1 ++ s.ts.delay2 ++ s.ts.delay3).any (fun e => e.ctx == id)
    let lost := s.hif.ctxs.filter (fun c => c.phase == .delayed && !c.lifted && !onList c.id)
    let l := lost.map fun c => ({ due := stampNs c.hdr.notBefore, seq := c.dseq, ctx := c.id } : DelayEntry)
    let t := s.ts.setDelay list (s.ts.delay list ++ l)
    let s1 := { s with ts := { t with rebuilding := s.ts.rebuilding.filter (· != list) } }
    .next (releaseDue (securityRec secDelayRebuilt list l.length 0 (raiseEvent .ts 0 4 s1)))
  else .next s

/-- CORE_GROUPS_WRITE (R553): a write to TS_CORE_GROUPS; one that would leave a group from 0 to 13 served by no present
core is ignored and CFG_REFUSED set; one to an absent core is ignored. Otherwise it waits to be stored (R691). -/
def execCoreGroupsWrite (core value : Nat) (s : State) : Host.Outcome State Fault Refusal :=
  viaBar 0 s <|
  let served (g : Nat) : Bool :=
    (List.range s.coreCount).any fun c =>
      (if c = core then fieldOf value 13 0 else s.soon (regKey 0 (0x4840 + 4 * c)) (s.coreGroups c)).testBit g
  if s.coreCount ≤ core then .next s
  else if (List.range 14).all served then
    .next (queueWrite (regKey 0 (0x4840 + 4 * core)) (fieldOf value 13 0) s)
  else .next (raiseEvent .ts 0 5 s)

end Sys2Proof.Machine
end

