-- ==== Sys2Proof/Machine/Ring.lean ====
section
/-! DEFINITION. Rings, doorbells, fetching, completion, moderation and the data port (10). -/

namespace Sys2Proof.Machine

/-! ### The opcode table (Table 11-2) -/

/-- What Table 11-2 gives an opcode. `issuer`: 0 any, 1 PF, 2 owner. -/
structure OpRow where
  minLen : Nat
  issuer : Nat
  restrict : Bool
  dataPort : Bool := false
deriving DecidableEq, Repr

/-- The row of an opcode; none for an unknown one (R462). -/
def opRow : Nat → Option OpRow
  | 0x0000 => some { minLen := 1, issuer := 0, restrict := false }
  | 0x0001 => some { minLen := 1, issuer := 0, restrict := false }
  | 0x0101 => some { minLen := 2, issuer := 0, restrict := true }
  | 0x0102 => some { minLen := 2, issuer := 0, restrict := false }
  | 0x0103 => some { minLen := 2, issuer := 0, restrict := true }
  | 0x0104 => some { minLen := 2, issuer := 0, restrict := false }
  | 0x0105 => some { minLen := 2, issuer := 0, restrict := false }
  | 0x0106 => some { minLen := 2, issuer := 0, restrict := false }
  | 0x0107 => some { minLen := 2, issuer := 0, restrict := false }
  | 0x0108 => some { minLen := 2, issuer := 0, restrict := false }
  | 0x0109 => some { minLen := 2, issuer := 0, restrict := false }
  | 0x010A => some { minLen := 2, issuer := 0, restrict := false }
  | 0x010B => some { minLen := 1, issuer := 0, restrict := false }
  | 0x0201 => some { minLen := 2, issuer := 0, restrict := false }
  | 0x0202 => some { minLen := 2, issuer := 0, restrict := true }
  | 0x0203 => some { minLen := 2, issuer := 0, restrict := true }
  | 0x0204 => some { minLen := 2, issuer := 0, restrict := true }
  | 0x0205 => some { minLen := 2, issuer := 0, restrict := true }
  | 0x0301 => some { minLen := 2, issuer := 0, restrict := true }
  | 0x0302 => some { minLen := 2, issuer := 0, restrict := false }
  | 0x0303 => some { minLen := 2, issuer := 0, restrict := true }
  | 0x0304 => some { minLen := 1, issuer := 0, restrict := false }
  | 0x0305 => some { minLen := 2, issuer := 0, restrict := true }
  | 0x0306 => some { minLen := 2, issuer := 0, restrict := true }
  | 0x0307 => some { minLen := 2, issuer := 0, restrict := true }
  | 0x0308 => some { minLen := 2, issuer := 0, restrict := false }
  | 0x0309 => some { minLen := 2, issuer := 0, restrict := false }
  | 0x030A => some { minLen := 2, issuer := 0, restrict := false }
  | 0x030B => some { minLen := 1, issuer := 0, restrict := false }
  | 0x030C => some { minLen := 2, issuer := 0, restrict := false }
  | 0x030D => some { minLen := 2, issuer := 0, restrict := false }
  | 0x0401 => some { minLen := 2, issuer := 0, restrict := true }
  | 0x0402 => some { minLen := 2, issuer := 0, restrict := true }
  | 0x0403 => some { minLen := 2, issuer := 0, restrict := true }
  | 0x0404 => some { minLen := 2, issuer := 0, restrict := true }
  | 0x0405 => some { minLen := 2, issuer := 0, restrict := false }
  | 0x0406 => some { minLen := 2, issuer := 0, restrict := false }
  | 0x0501 => some { minLen := 2, issuer := 0, restrict := false }
  | 0x0502 => some { minLen := 1, issuer := 1, restrict := false }
  | 0x0503 => some { minLen := 2, issuer := 1, restrict := false }
  | 0x0601 => some { minLen := 2, issuer := 2, restrict := true, dataPort := true }
  | 0x0602 => some { minLen := 2, issuer := 2, restrict := true }
  | 0x0603 => some { minLen := 2, issuer := 2, restrict := false }
  | 0x0604 => some { minLen := 1, issuer := 2, restrict := false }
  | 0x0605 => some { minLen := 2, issuer := 2, restrict := false, dataPort := true }
  | 0x0606 => some { minLen := 2, issuer := 1, restrict := false }
  | 0x0607 => some { minLen := 2, issuer := 1, restrict := false }
  | 0x0608 => some { minLen := 2, issuer := 2, restrict := false }
  | 0x0609 => some { minLen := 2, issuer := 2, restrict := false }
  | 0x0701 => some { minLen := 2, issuer := 0, restrict := false, dataPort := true }
  | 0x0702 => some { minLen := 2, issuer := 2, restrict := false }
  | 0x0703 => some { minLen := 1, issuer := 1, restrict := false }
  | 0x0704 => some { minLen := 1, issuer := 0, restrict := false, dataPort := true }
  | 0x0801 => some { minLen := 1, issuer := 1, restrict := false }
  | 0x0802 => some { minLen := 2, issuer := 2, restrict := false }
  | 0x0901 => some { minLen := 1, issuer := 1, restrict := false }
  | 0x0902 => some { minLen := 1, issuer := 1, restrict := false }
  | 0x0A01 => some { minLen := 2, issuer := 1, restrict := false }
  | 0x0A02 => some { minLen := 2, issuer := 1, restrict := false }
  | 0x0B01 => some { minLen := 1, issuer := 0, restrict := false }
  | 0x0B02 => some { minLen := 2, issuer := 1, restrict := false }
  | 0x0B03 => some { minLen := 2, issuer := 1, restrict := false }
  | 0x0B04 => some { minLen := 1, issuer := 1, restrict := false }
  | 0x0B05 => some { minLen := 2, issuer := 1, restrict := false }
  | 0x0B06 => some { minLen := 2, issuer := 1, restrict := false, dataPort := true }
  | 0x0B07 => some { minLen := 2, issuer := 1, restrict := false }
  | 0x0C01 => some { minLen := 2, issuer := 1, restrict := false }
  | 0x0C02 => some { minLen := 2, issuer := 1, restrict := false }
  | 0x0C03 => some { minLen := 2, issuer := 1, restrict := false, dataPort := true }
  | 0x0C04 => some { minLen := 2, issuer := 1, restrict := false, dataPort := true }
  | 0x0C05 => some { minLen := 2, issuer := 1, restrict := false }
  | _ => none

/-- The opcode is available to the function (R464). -/
def available (s : State) (f : Nat) (row : OpRow) : Bool :=
  if row.issuer = 0 then true else if row.issuer = 1 then f == 0 else (Tbl.find? f s.pln.parts).isSome

/-- Greatest buffer length (Table 10-4). -/
def maxBuffer : Nat := 16777216

/-- A buffer runs past address 2^64 − 1 (R425). -/
def bufferWraps (addr len : Nat) : Bool := decide (0 < len) && decide (2 ^ 64 < addr + len)

/-- The header's stamps are valid and in order (R436). -/
def stampsOk (h : Header) : Bool :=
  (h.notBefore == 0 || stampValid h.notBefore) && (h.completeBy == 0 || stampValid h.completeBy)
    && (h.completeBy == 0 || h.notBefore == 0 || decide (h.notBefore ≤ h.completeBy))

/-- Input a timed entry may hold (R468). -/
def heldLimit (op : Nat) : Nat := if op = 0x0802 then 9216 else 4096

/-! ### Doorbells (R428, R429) -/

/-- Difference of two free-running 32-bit counts. -/
def countSub (a b : Nat) : Nat := (a + 2 ^ 32 - b % 2 ^ 32) % 2 ^ 32

/-- A doorbell value is accepted (R429). -/
def doorbellOk (r : Ring) (t : Nat) : Bool := decide (countSub t r.d ≤ countSub (r.h + r.slots) r.d)

/-- DOORBELL_WRITE (R429): D is set, or a value out of range halts the function; ignored where the ring is not enabled or
the function is halted (R428). -/
def execDoorbellWrite (f ring value : Nat) (s : State) : Host.Outcome State Fault Refusal :=
  viaBar f s <|
  let r := s.ring f ring
  if (s.func f).halted || !r.enabled then .next s
  else if doorbellOk r (value % 2 ^ 32) then .next (s.setRing f ring { r with d := value % 2 ^ 32 })
  else .next (halt f 7 ring 0 (value % 2 ^ 32) s)

/-! ### Fetching (R430 to R437) -/

/-- Entries in host memory: function, ring, count at which each begins. -/
abbrev HostMem := List (Nat × Nat × Nat × RawEntry)

/-- The entry at a count of a ring. -/
def memAt (m : HostMem) (f r count : Nat) : Option RawEntry :=
  (m.find? (fun x => x.1 == f && x.2.1 == r && x.2.2.1 == count)).map (·.2.2.2)

/-- Cause of Table 10-6 that the header alone decides, in table order. -/
def headerCause (r : Ring) (h : Header) : Option Nat :=
  if h.length = 0 ∨ h.length > 64 then some 1
  else if r.f % r.slots + h.length > r.slots then some 2
  else
    match opRow h.opcode with
    | none => some 3
    | some row =>
      if h.lengthRes ∨ h.flagsRes ≠ 0 then some 4
      else if h.length < row.minLen then some 5 else none

/-- Cause that needs the body. -/
def bodyCause (e : RawEntry) : Option Nat :=
  if e.hdr.opcode = 0 then none
  else if bodyReserved e.hdr.opcode e.body then some 4 else if bodyMalformed e.hdr.opcode e.body then some 6 else none

/-- What looking at a ring's next entry finds. -/
inductive Fetch where
  /-- nothing to take now -/
  | wait
  /-- malformed: cause and opcode -/
  | bad (cause opcode : Nat)
  | pad (len : Nat)
  | entry (e : RawEntry)
deriving DecidableEq, Repr

/-- Look at the next entry of a ring (R430). -/
def peek (m : HostMem) (s : State) (f ring : Nat) : Fetch :=
  let r := s.ring f ring
  let below := countSub r.d r.f
  if below = 0 then .wait
  else
    match memAt m f ring r.f with
    | none => .wait
    | some e =>
      if e.fetchError then .bad 8 0
      else
        match headerCause r e.hdr with
        | some c => .bad c e.hdr.opcode
        | none =>
          if below < e.hdr.length then .wait
          else
            match bodyCause e with
            | some c => .bad c e.hdr.opcode
            | none => if e.hdr.opcode = 0 then .pad e.hdr.length else .entry e

/-- Host service is open: entries are fetched (R665), not while a wipe runs (R633), nor without the memory of the in-flight contexts
(R606, DEDUCED). -/
def State.serviceOpen (s : State) : Bool := decide (2 ≤ s.pwr.phase) && s.pwr.phase != 7 && !s.regionOff 3

/-- The ring is eligible (R433); a frozen or restored VF and one under FLR fetch nothing (R503, R507). -/
def eligible (m : HostMem) (s : State) (f ring : Nat) : Bool :=
  let v := s.func f
  let r := s.ring f ring
  s.serviceOpen && r.enabled && !r.draining && !v.halted && v.masters && v.present && v.migration == .normal
    && !v.freezing && peek m s f ring != .wait

/-- A PAD entry is finished when it is fetched: its status word is written as OK, with no output and no context
(R432). -/
def passPad (f ring len : Nat) (s : State) : State :=
  let r := s.ring f ring
  (emitHost f (.status f ring r.f (statusWord stOk false) 0 0) s).updRing f ring fun g =>
    { g with f := (r.f + len) % 2 ^ 32, entries := g.entries ++ [(r.f, len, true, true, false)] }

/-- Refusal of an accepted entry before it is held or queued: availability, buffer lengths, stamps, in the order of R465
(RESULT_LEN gives the space needed where OUT_LEN is short, R425). DESIGN CHOICE: a buffer that wraps is refused as one of bad length.
DESIGN CHOICE: with NOT_BEFORE 0 the time T of R79 is that of acceptance, at which the angle must be valid. -/
def acceptRefusal (s : State) (f : Nat) (e : RawEntry) (row : OpRow) : Option Completion :=
  let h := e.hdr
  if available s f row = false then some (bare stInputRejected)
  else if h.outLen < resultSpace h e.body then some { code := stInputRejected, resultLen := resultSpace h e.body }
  else if h.inLen > maxBuffer ∨ h.outLen > maxBuffer ∨ bufferWraps h.inAddr h.inLen ∨ bufferWraps h.outAddr h.outLen then
    some (bare stInputRejected)
  else if stampsOk h = false then some (bare stInputRejected)
  else if h.notBefore ≠ 0 ∧ (row.dataPort ∨ h.inLen > heldLimit h.opcode) then some (bare stInputRejected)
  else if h.notBefore ≠ 0 ∧ s.delayUsed f ≥ (s.func f).delayQuota then some (bare stRefusedFull)
  else if h.notBefore ≠ 0 ∧ h.inLen > 0 ∧ qmFits s.ts (64 + f) h.inLen = false then some (bare stRefusedFull)
  else if (entryAngle h e.body).isSome ∧ (s.watchCount f ≥ 256 ∨ s.ts.watches.length ≥ 4096) then some (bare stRefusedFull)
  else if (entryAngle h e.body).isSome ∧ h.notBefore = 0 ∧ angleValid s.sck = false then some (bare stTimeNotLocked)
  else none

/-- Accept a well-formed entry into an in-flight context (R435): refused at once, held for its NOT_BEFORE or for its angle, or made
ready in its group. -/
def acceptEntry (f ring : Nat) (e : RawEntry) (s : State) : State :=
  let r := s.ring f ring
  let h := e.hdr
  let row := (opRow h.opcode).getD { minLen := 1, issuer := 0, restrict := false }
  let c : Ctx :=
    { id := s.hif.nextCtx, f, ring, count := r.f, hdr := h, dataPort := row.dataPort,
      phase := if h.notBefore = 0 ∧ (entryAngle h e.body).isSome then .held else .queued,
      needsHost := (row.dataPort || decide (0 < h.inLen)) && h.notBefore == 0,
      angle := entryAngle h e.body, slots := fitBytes (64 * h.length) e.slots,
      input := if h.notBefore = 0 then [] else fitBytes h.inLen e.input,
      group := groupOfOpcode h.opcode }
  let refusal := acceptRefusal s f e row
  let s1 := { s with hif := { s.hif with ctxs := s.hif.ctxs ++ [c], nextCtx := c.id + 1 } }
  let s2 := s1.updRing f ring fun g =>
    { g with f := (r.f + h.length) % 2 ^ 32, entries := g.entries ++ [(r.f, h.length, false, false, h.notify)] }
  match refusal with
  | some comp => finishCtx c comp s2
  | none =>
    if h.notBefore = 0 then
      if c.angle.isSome then takeWatch c s2 else makeReady (.ctx c.id) c.group s2
    else
      let s3 := if h.inLen > 0 then
          s2.setQueue (64 + f) { s2.queue (64 + f) with
            packets := (s2.queue (64 + f)).packets ++ [{ len := h.inLen, ctx := some c.id }] }
        else s2
      placeDelay c (takeWatch c s3)

/-- A context is free for the function (R434). -/
def ctxFree (s : State) (f : Nat) : Bool :=
  decide (s.ctxInUse f < (s.func f).ctxQuota) && decide (s.hif.ctxs.length < 32768)

/-- One look at a ring in a visit: whether the visit goes on, how many entries it has taken, and the state after it. -/
def visitOne (m : HostMem) (f ring taken : Nat) (s : State) : Bool × Nat × State :=
  let r := s.ring f ring
  if decide (taken < r.burst) && decide (0 < r.tokens) && eligible m s f ring then
    match peek m s f ring with
    | .wait => (false, taken, s)
    | .bad cause op => (false, taken, halt f cause ring op r.f s)
    | .pad len => (true, taken, passPad f ring len s)
    | .entry e =>
      if ctxFree s f then
        (true, taken + 1, (acceptEntry f ring e s).updRing f ring fun g => { g with tokens := g.tokens - 1 })
      else (false, taken, s)
  else (false, taken, s)

/-- One visit of a ring in a pass of the round: at most `fuel` entries, PAD entries not counted in `taken` (R433). -/
def visitRing (m : HostMem) (f ring : Nat) : (fuel taken : Nat) → State → State × Bool
  | 0, taken, s => (s, decide (0 < taken))
  | fuel + 1, taken, s =>
    let v := visitOne m f ring taken s
    if v.1 then visitRing m f ring fuel v.2.1 v.2.2 else (v.2.2, decide (0 < v.2.1))

/-- One pass over the rings in order of function, then ring index; true when an entry was taken. -/
def arbPass (m : HostMem) : List Nat → State → State × Bool
  | [], s => (s, false)
  | k :: t, s =>
    let a := visitRing m (k / 64) (k % 64) (m.length + 1) 0 s
    let b := arbPass m t a.1
    (b.1, a.2 || b.2)

/-- Passes until none takes an entry. -/
def arbLoop (m : HostMem) (rs : List Nat) : Nat → State → State
  | 0, s => s
  | n + 1, s =>
    let a := arbPass m rs s
    if a.2 then arbLoop m rs n a.1 else a.1

/-- Give each ring of a round its tokens. -/
def giveTokens : List Nat → State → State
  | [], s => s
  | k :: t, s => giveTokens t (s.updRing (k / 64) (k % 64) fun g => { g with tokens := g.weight })

/-- ARBITRATION_ROUND (R433): one round over the rings eligible at its start. -/
def execArbitrationRound (mem : HostMem) (s : State) : Host.Outcome State Fault Refusal :=
  onMain s <|
  let rs := Tbl.keys (fun k _ => eligible mem s (k / 64) (k % 64)) s.hif.rings
  .next (arbLoop mem rs (mem.length + 1) (giveTokens rs s))

/-- PAD (R432): a PAD entry of a ring, wholly below D, is finished at its fetch. -/
def execPad (f ring len : Nat) (s : State) : Host.Outcome State Fault Refusal :=
  onMain s <|
  let r := s.ring f ring
  let v := s.func f
  if s.serviceOpen && r.enabled && !r.draining && !v.halted && v.masters && decide (1 ≤ len) && decide (len ≤ 64)
      && decide (len ≤ countSub r.d r.f) && decide (r.f % r.slots + len ≤ r.slots) then .next (passPad f ring len s)
  else .next s

/-! ### The head, its mirror and messages (R440 to R443) -/

/-- The contiguous finished run at the front of the entries: slots passed, non-PAD entries passed, a NOTIFY among them,
and the rest. -/
def finishedRun : List (Nat × Nat × Bool × Bool × Bool) →
    Nat × Nat × Bool × List (Nat × Nat × Bool × Bool × Bool)
  | [] => (0, 0, false, [])
  | (c, n, done, pad, notify) :: t =>
    if done then
      let a := finishedRun t
      (n + a.1, (if pad then 0 else 1) + a.2.1, notify || a.2.2.1, a.2.2.2)
    else (0, 0, false, (c, n, done, pad, notify) :: t)

/-- HEAD_ADVANCE (R440): H passes the contiguous run of finished entries, the mirror is written, and a message follows
where NOTIFY or the count trigger asks for one (R443). -/
def execHeadAdvance (f ring : Nat) (s : State) : Host.Outcome State Fault Refusal :=
  onMain s <|
  let r := s.ring f ring
  let a := finishedRun r.entries
  if a.1 = 0 then .next s
  else
    let unsent := r.unsent + a.2.1
    let send := decide (0 < a.2.1) && (a.2.2.1 || (decide (0 < r.modCount) && decide (r.modCount ≤ unsent)))
    let r' := { r with h := (r.h + a.1) % 2 ^ 32, entries := a.2.2.2, unsent := if send then 0 else unsent,
                       firstAt := if r.unsent = 0 then s.sck.now else r.firstAt }
    let s1 := writeMirror f ring (s.setRing f ring r')
    .next (if send then sendVector f r.vector s1 else s1)

/-- MODERATION_TIMER (R443): TIME µs after the first non-PAD entry passed without a message, a message is sent. -/
def execModerationTimer (f ring : Nat) (s : State) : Host.Outcome State Fault Refusal :=
  onMain s <|
  let r := s.ring f ring
  if 0 < r.unsent ∧ 0 < r.modTime ∧ r.firstAt + r.modTime * 1000 ≤ s.sck.now then
    .next (sendVector f r.vector (s.setRing f ring { r with unsent := 0 }))
  else .next s

/-- Remove the work items of a context. -/
def dropCtxItems (id : Nat) (s : State) : State :=
  { s with ts := { s.ts with
      ready := Tbl.mapAll (fun _ l => l.filter fun x =>
        !(s.ts.items.any (fun i => i.id == x && i.kind == .ctx id))) s.ts.ready,
      items := s.ts.items.filter (fun i => i.kind != .ctx id) } }

/-- COMPLETE_BY_EXPIRY (R439): an entry not yet dispatched when grid time reaches its COMPLETE_BY is not performed. -/
def execCompleteByExpiry (ctx : Nat) (s : State) : Host.Outcome State Fault Refusal :=
  onMain s <|
  match s.ctx? ctx with
  | none => .next s
  | some c =>
    if c.hdr.completeBy ≠ 0 ∧ stampNs c.hdr.completeBy ≤ s.sck.now ∧ c.lifted = false ∧ (c.phase = .queued ∨ c.phase = .delayed ∨ c.phase = .held) then
      let code := if c.phase = .held ∧ c.angle = none then stEntropyNotReady else stDeadlineMissed
      .next (finishCtx c (bare code) (dropCtxItems ctx s))
    else .next s

/-! ### Enabling and draining (R418 to R420) -/

/-- Rings enabled in the module. -/
def ringsEnabled (s : State) : Nat := Tbl.count (fun _ r => r.enabled) s.hif.rings

/-- Rings enabled in the VFs. -/
def vfRingsEnabled (s : State) : Nat := Tbl.count (fun k r => decide (64 ≤ k) && r.enabled) s.hif.rings

/-- CFG_CAUSE of a refused enable (R418), with the fields of the write in place; 0 when it is not refused. DESIGN CHOICE: of several causes
the first of R418's list is shown. The VFs together have at most the 960 rings of Table 12-1 (DEDUCED: refused as the module's limit is). -/
def enableCause (s : State) (f ring : Nat) (r : Ring) : Nat :=
  if r.sizeExp < 6 ∨ r.sizeExp > 16 then 1
  else if r.weight = 0 ∨ r.burst = 0 ∨ r.burst > 64 then 2
  else if r.vector = 0 then 3
  else if r.base % 4096 ≠ 0 ∨ r.mirror % 8 ≠ 0 then 4
  else if (s.func f).ringsAllotted ≤ ring then 5
  else if 1024 ≤ ringsEnabled s ∨ (f ≠ 0 ∧ 960 ≤ vfRingsEnabled s) then 6
  else if r.draining then 7
  else 0

/-- The fields of HIF_RING_CFG taken from a written value. -/
def ringCfg (r : Ring) (cfg : Nat) : Ring :=
  { r with sizeExp := fieldOf cfg 4 0, weight := fieldOf cfg 15 8, burst := fieldOf cfg 22 16, vector := fieldOf cfg 28 24 }

/-- HIF_RING_CFG and HIF_RING_MOD as they read. -/
def Ring.cfgWord (r : Ring) : Nat :=
  r.sizeExp + 256 * r.weight + 2 ^ 16 * r.burst + 2 ^ 24 * r.vector + 2 ^ 31 * b2n r.enabled
def Ring.modWord (r : Ring) : Nat := r.modCount + 256 * r.modTime

/-- RING_ENABLE (R418): HIF_RING_CFG is written with ENABLE set. D, H and the fetch point are 0 and the mirror is written
before any doorbell is accepted (R419); a refused enable shows its cause. -/
def execRingEnable (f ring cfg : Nat) (s : State) : Host.Outcome State Fault Refusal :=
  viaBar f s <|
  let r := s.ring f ring
  if r.enabled then .next s
  else
    let r1 := if r.draining then r else ringCfg r cfg
    let cause := enableCause s f ring r1
    if cause ≠ 0 then .next (s.setRing f ring { r1 with cfgCause := cause })
    else
      .next (writeMirror f ring (s.setRing f ring
        { r1 with enabled := true, cfgCause := 0, haltHere := false, d := 0, h := 0, f := 0, tokens := 0, entries := [],
                  unsent := 0, firstAt := 0 }))

/-- Contexts of a ring on a delay list. -/
def delayedOn (f ring : Nat) (c : Ctx) : Bool :=
  c.f == f && c.ring == ring && c.orphan == 0 && c.phase == .delayed && !c.lifted

/-- RING_DRAIN (R420): ENABLE written 0 makes the ring draining; its unreleased delay-list entries complete SQUASHED. -/
def execRingDrain (f ring : Nat) (s : State) : Host.Outcome State Fault Refusal :=
  viaBar f s <|
  let r := s.ring f ring
  if r.enabled then
    let s1 := writeMirror f ring (s.setRing f ring { r with enabled := false, draining := true })
    .next (finishWhere (delayedOn f ring) stSquashed s1.hif.ctxs s1)
  else .next s

/-- RING_INACTIVE (R420): H has passed every accepted entry of a draining ring. -/
def execRingInactive (f ring : Nat) (s : State) : Host.Outcome State Fault Refusal :=
  onMain s <|
  let r := s.ring f ring
  if r.draining && r.entries.isEmpty then
    .next (writeMirror f ring (s.setRing f ring { r with draining := false }))
  else .next s

/-! ### The data port (R456 to R459) -/

/-- Size of the aperture. -/
def aperture : Nat := 2 ^ 20

/-- Transfers into the module: PLAN_LOAD, FIRMWARE_LOAD, VF_RESTORE. -/
def isInbound (op : Nat) : Bool := op == 0x0601 || op == 0x0B06 || op == 0x0C04

/-- The function's operation that is next to be given the port: the data-port operation accepted first. -/
def nextPortCtx (s : State) (f : Nat) : Option Ctx :=
  s.hif.ctxs.find? (fun c => c.f == f && c.dataPort && c.phase == .queued && c.orphan == 0)

/-- Transfer length of an inbound operation, from its body (Tables 11-12, 11-21, and the text for FIRMWARE_LOAD). -/
def inboundLength (c : Ctx) : Nat := leAt (c.slots.drop 64) (if c.hdr.opcode = 0x0C04 then 4 else 0) 4

/-- DATA_PORT_OPEN (R456): the next data-port operation is given the port. `out` is the length of an outbound transfer, none where it is
not yet known. A transfer of length 0 opens and closes at once. -/
def execDataPortOpen (f : Nat) (out : Option Nat) (s : State) : Host.Outcome State Fault Refusal :=
  onMain s <|
  if (s.func f).dpState ≠ 0 then .next s
  else
    match nextPortCtx s f with
    | none => .next s
    | some c =>
      let length := if isInbound c.hdr.opcode then some (inboundLength c) else out
      if length = some 0 then .next (s.setCtx { c with dataPort := false, needsHost := false })
      else
        let inb := isInbound c.hdr.opcode
        let len := length.getD max64
        .next (s.updFunc f fun v =>
          { v with dpState := if inb then 1 else 2, dpLengthKnown := length.isSome, dpProtocol := false, dpRing := c.ring,
                   dpOwner := c.count, dpCtx := some c.id, dpPos := 0,
                   dpLimit := if inb then (if len < aperture then len else aperture) else 0,
                   dpLength := len, dpBuf := [], dpOut := [], dpAt := s.sck.now })

/-- The transfer is complete: the port is free and the operation needs it no more (R459). -/
def completePort (f : Nat) (s : State) : State :=
  let ctx := (s.func f).dpCtx
  let s1 := s.updFunc f Func.portIdle
  match ctx with
  | none => s1
  | some id => match s1.ctx? id with
    | none => s1
    | some c => s1.setCtx { c with dataPort := false, needsHost := false }

/-- Position that an aperture offset addresses (R457, R458). -/
def apertureTo (pos off : Nat) : Nat := pos + (off + aperture - pos % aperture) % aperture

/-- Store the bytes of a write from position p on; none when one of them is already written or lies beyond the window.
Bytes at or beyond the transfer length are ignored. -/
def storeBytes (pos limit length : Nat) : (p : Nat) → Bytes → Tbl Byte → Option (Tbl Byte)
  | _, [], t => some t
  | p, b :: bs, t =>
    if length ≤ p then storeBytes pos limit length (p + 1) bs t
    else if p < pos ∨ limit ≤ p ∨ Tbl.has t p then none
    else storeBytes pos limit length (p + 1) bs (Tbl.put p b t)

/-- Advance POS across the contiguous run of written bytes: at most `n` of them. -/
def advancePos : Nat → Nat → Tbl Byte → Nat × Tbl Byte
  | 0, pos, t => (pos, t)
  | n + 1, pos, t =>
    match t with
    | (k, _) :: rest => if k = pos then advancePos n (pos + 1) rest else (pos, t)
    | [] => (pos, t)

/-- DATA_PORT_WRITE (R457): inbound bytes are taken and POS advances across each contiguous run; a write outside the
window, over a written byte or not in whole aligned dwords ends the transfer with PROTOCOL set (R459). -/
def execDataPortWrite (f offset : Nat) (bytes : Bytes) (s : State) : Host.Outcome State Fault Refusal :=
  viaBar f s <|
  let v := s.func f
  if v.dpState ≠ 1 then .next s
  else
    let p := apertureTo v.dpPos offset
    if p % 4 ≠ 0 ∨ bytes.length % 4 ≠ 0 ∨ v.dpLength ≤ p then .next (abortPort f true s)
    else
      match storeBytes v.dpPos v.dpLimit v.dpLength p bytes v.dpBuf with
      | none => .next (abortPort f true s)
      | some t =>
        let a := advancePos t.length v.dpPos t
        let s1 := s.setFunc f { v with dpPos := a.1, dpBuf := a.2, dpAt := s.sck.now,
                                       dpLimit := if a.1 + aperture < v.dpLength then a.1 + aperture else v.dpLength }
        .next (if a.1 = v.dpLength then completePort f s1 else s1)

/-- The bytes a read returns: available ones, and all-ones at or beyond LIMIT. -/
def readBytes (v : Func) : (p n : Nat) → Bytes
  | _, 0 => []
  | p, n + 1 => (if p < v.dpLimit then v.dpOut.getD (p - v.dpPos) 0xFF else 0xFF) :: readBytes v (p + 1) n

/-- Replace the outbound bytes the module offers from POS on; LIMIT follows its 1 MB buffer (R458). -/
def offerOut (v : Func) (pos length : Nat) (out : Bytes) : Func :=
  { v with dpPos := pos, dpOut := out, dpLength := length, dpLengthKnown := true,
           dpLimit := if pos + aperture < length then pos + aperture else length }

/-- DATA_PORT_READ (R458): a read that begins at POS and lies wholly within the available bytes advances POS; any other
read returns data without advancing. Reads of more than 4,096 bytes are not served. -/
def execDataPortRead (f offset len : Nat) (s : State) : Host.Outcome State Fault Refusal :=
  viaBar f s <|
  let v := s.func f
  if 4096 < len then .next s
  else if v.dpState ≠ 2 then .next (emit (.data f (List.replicate len 0xFF)) s)
  else
    let p := apertureTo v.dpPos offset
    let s1 := emit (.data f (readBytes v p len)) s
    if p = v.dpPos ∧ p + len ≤ v.dpLimit ∧ 0 < len then
      let s2 := s1.setFunc f { offerOut v (p + len) v.dpLength (v.dpOut.drop len) with dpAt := s.sck.now }
      .next (if p + len = v.dpLength then completePort f s2 else s2)
    else .next s1

/-- DATA_PORT_ABORT (R459): ABORT written to HIF_DP_CTRL ends the open transfer. -/
def execDataPortAbort (f : Nat) (s : State) : Host.Outcome State Fault Refusal :=
  viaBar f s <| .next (abortPort f false s)

/-- DP_TIMEOUT of a function, s. -/
def State.dpTimeout (s : State) (f : Nat) : Nat := fieldOf ((Tbl.find? (regKey f 0x44) s.rw).getD 0xA) 9 0

/-- DATA_PORT_TIMEOUT (R459): no progress for DP_TIMEOUT seconds ends the transfer. -/
def execDataPortTimeout (f : Nat) (s : State) : Host.Outcome State Fault Refusal :=
  onMain s <|
  let v := s.func f
  if v.dpState ≠ 0 ∧ v.dpAt + s.dpTimeout f * nsPerSec ≤ s.sck.now then .next (abortPort f false s) else .next s

/-! ### Bus mastering, D3hot, MSI-X (R444, R455, R679) -/

/-- Make the held writes of a function in order, once it may master the bus again (R455). -/
def flushHeld (f : Nat) (s : State) : State :=
  if (s.func f).masters then
    let l := (s.func f).heldWrites
    let s1 := s.updFunc f fun v => { v with heldWrites := [] }
    { s1 with out := l.reverse ++ s1.out }
  else s

/-- BUS_MASTER_ENABLE_SET (R455). DESIGN CHOICE: a VF exists from its first Bus Master Enable; the table has no row for the
SR-IOV settings. -/
def execBusMasterEnableSet (f : Nat) (s : State) : Host.Outcome State Fault Refusal :=
  onMain s <|
  .next (flushHeld f (s.updFunc f fun v => { v with bme := true, present := decide (f ≤ s.hif.config.totalVfs) }))

/-- BUS_MASTER_ENABLE_CLEAR (R455). -/
def execBusMasterEnableClear (f : Nat) (s : State) : Host.Outcome State Fault Refusal :=
  onMain s <|
  .next (s.updFunc f fun v => { v with bme := false })

/-- D3HOT_TRANSITION (R679): a function in D3hot is treated as with Bus Master Enable 0. -/
def execD3hotTransition (f : Nat) (enter : Bool) (s : State) : Host.Outcome State Fault Refusal :=
  onMain s <|
  .next (flushHeld f (s.updFunc f fun v => { v with d3hot := enter }))

/-- Send the pending message of a vector that is no longer blocked (R444). -/
def sendPending (f vector : Nat) (s : State) : State :=
  if (s.func f).msix.pending.contains vector && !(s.func f).msix.blocked vector then
    emitHost f (.msix f vector) (s.updFunc f fun v =>
      { v with msix := { v.msix with pending := v.msix.pending.filter (· != vector) } })
  else s

/-- Send the pending messages of vectors 0 to n − 1. -/
def sendAllPending (f : Nat) : Nat → State → State
  | 0, s => s
  | n + 1, s => sendPending f n (sendAllPending f n s)

/-- MSIX_UNMASK (R444): a vector is unmasked, or the function's MSI-X is enabled and unmasked as a whole; one pending
message of each vector that may now send is sent. -/
def execMsixUnmask (f : Nat) (vector : Option Nat) (s : State) : Host.Outcome State Fault Refusal :=
  onMain s <|
  match vector with
  | some v =>
    .next (sendPending f v (s.updFunc f fun g =>
      let e := (Tbl.find? v g.msix.table).getD (0, 0, true)
      { g with msix := { g.msix with table := Tbl.put v (e.1, e.2.1, false) g.msix.table } }))
  | none =>
    .next (sendAllPending f 32 (s.updFunc f fun g =>
      { g with msix := { g.msix with enabled := true, functionMask := false } }))

end Sys2Proof.Machine
end

