-- ==== Sys2Proof/Machine/Run.lean ====
section
/-! DEFINITION. How an operation is performed: the checks of R465 that every operation shares, its completion, its wait for
randomness, and draws from Bellows (09, 11). -/

namespace Sys2Proof.Machine

/-! ### Outcomes -/

/-- What performing an operation comes to. -/
inductive OpOut where
  /-- it completes -/
  | done (comp : Completion) (s : State)
  /-- it is held until the random number unit is READY (R389) -/
  | wait
  /-- it goes on inside the module and completes later: on a public-key engine, or after a tick -/
  | running (s : State)
  /-- it waits for a key slot under re-unwrap (R304) or for room in an engine's queue; it is performed again later -/
  | busy
deriving DecidableEq, Repr

/-- OK with a DETAIL. -/
def okDetail (d : Nat) : Completion := { code := stOk, detail := d }

/-- OK with output. -/
def okOut (d : Nat) (out : Bytes) : Completion := { code := stOk, detail := d, resultLen := out.length, output := out }

/-- INPUT_REJECTED with a DETAIL. -/
def reject (d : Nat) : Completion := { code := stInputRejected, detail := d }

/-- The context of a call: the live one of its entry, else an orphan one that is being performed. -/
def State.ctxFor (s : State) (q : Call) : Option Ctx :=
  match s.ctxOf? q.f q.ring q.count with
  | some c => some c
  | none => s.hif.ctxs.find? fun c => c.f == q.f && c.ring == q.ring && c.count == q.count && c.phase == .dispatched

/-- Complete an operation: its completion is staged in its context until the commit (R531). DESIGN CHOICE: a call that
belongs to no accepted entry delivers its completion at once. -/
def complete (q : Call) (comp : Completion) (s : State) : State :=
  match s.ctxFor q with
  | some c => renewLease c.id (s.setCtx { c with comp := some comp, phase := .staged, needsHost := false })
  | none => writeCompletion q.f q.ring q.count q.hdr.outAddr comp s

/-- The context of a call, as an operation that completes later remembers it. -/
def State.ctxIdFor (s : State) (q : Call) : Option Nat := (s.ctxFor q).map (·.id)

/-- Complete an operation that went on inside the module: nothing is left to complete once its context has ended. -/
def lateComplete (q : Call) (ctx : Option Nat) (comp : Completion) (s : State) : State :=
  match ctx with
  | none => complete q comp s
  | some id => if (s.ctx? id).isSome then complete q comp s else s

/-- Take the work item of a context away from its core. -/
def leaveCore (id : Nat) (s : State) : State :=
  let cores := Tbl.mapAll (fun _ (v : CoreRt) =>
    if (v.item.bind s.item?).any (fun i => i.kind == .ctx id) then
      { v with st := if v.st = .running then .waiting else v.st, item := none }
    else v) s.ts.cores
  dropCtxItems id { s with ts := { s.ts with cores } }

/-- Hold an operation until the random number unit is READY (R389). -/
def holdOp (q : Call) (s : State) : State :=
  match s.ctxFor q with
  | some c => leaveCore c.id (s.setCtx { c with phase := .held, angle := none })
  | none => s

/-- Make the operations held for randomness ready again, in the order in which they arrived (R389). -/
def resumeHeld : List Ctx → State → State
  | [], s => s
  | c :: t, s =>
    resumeHeld t (if c.phase = .held ∧ c.angle = none then
      makeReady (.ctx c.id) c.group (s.setCtx { c with phase := .queued }) else s)

/-! ### The shared checks (R465) -/

/-- Opcodes performed while STARTUP_HOLD is set (R647) and in recovery (R672). -/
def allowedInHold (op : Nat) : Bool := [0x0B01, 0x010A, 0x0701, 0x0704, 0x0901].contains op
def allowedInRecovery (op : Nat) : Bool := [0x0B01, 0x010A, 0x0B06, 0x0B07].contains op

/-- Refusal by the checks that all operations share, in the order of R465: availability, hold and recovery, lengths,
stamps, response level. -/
def opGate (op : Nat) (q : Call) (space : Nat) (s : State) : Option Completion :=
  let row := (opRow op).getD { minLen := 1, issuer := 0, restrict := false }
  if available s q.f row = false then some (bare stInputRejected)
  else if (s.stc.hold && !allowedInHold op) || (s.pwr.phase == 6 && !allowedInRecovery op) then some (bare stInputRejected)
  else if q.hdr.outLen < space then some { code := stInputRejected, resultLen := space }
  else if q.hdr.inLen > maxBuffer ∨ q.hdr.outLen > maxBuffer then some (bare stInputRejected)
  else if stampsOk q.hdr = false then some (bare stInputRejected)
  else if row.restrict ∧ 1 ≤ s.level then some (bare stRestricted)
  else none

/-- The operation's completion is staged already: it is not performed twice (R531). -/
def staged (q : Call) (s : State) : Bool := (s.ctxFor q).any fun c => c.comp.isSome

/-- Perform an operation after the shared checks, while the main domain runs. -/
def runOp (op : Nat) (q : Call) (space : Nat) (s : State) (k : State → OpOut) : State :=
  if s.running = false ∨ staged q s = true then s
  else
    match opGate op q space s with
    | some comp => complete q comp s
    | none =>
      match k s with
      | .done comp s' => complete q comp s'
      | .wait => holdOp q s
      | .running s' => s'
      | .busy => s

/-! ### Draws from Bellows (R389, R391, R392, R399) -/

/-- Bytes of a block of Bellows, and of Bellows. -/
def bellowsBlock : Nat := 4096
def bellowsSize : Nat := 65536

/-- Output between two reseeds (R384). -/
def reseedBytes : Nat := 16777216

/-- `n` bytes of free values. -/
def freshBytes : Nat → State → Bytes × State
  | 0, s => ([], s)
  | n + 1, s =>
    let a := freshValue s
    let r := freshBytes n a.2
    (a.1.setWidth 8 :: r.1, r.2)

/-- The next state of the Galois LFSR with polynomial x^32 + x^22 + x^2 + x + 1 (R405). PRESUMED: it shifts right. -/
def lfsrNext (x : Nat) : Nat := if x % 2 = 1 then (x / 2) ^^^ 0x80200003 else x / 2

/-- Low bytes of `n` successive states, and the state after them. -/
def lfsrBytes : (n x : Nat) → Bytes × Nat
  | 0, x => ([], x)
  | n + 1, x =>
    let r := lfsrBytes n (lfsrNext x)
    (BitVec.ofNat 8 x :: r.1, r.2)

/-- `n` samples of a noise source (R377): free values, or the test pattern. DEDUCED: each source delivers the pattern from its start
(R405). -/
def samples (source n : Nat) (s : State) : Bytes × State :=
  if s.rnu.pattern then
    let r := lfsrBytes n (if source = 0 then s.rnu.lfsr0 else s.rnu.lfsr1)
    (r.1, { s with rnu := if source = 0 then { s.rnu with lfsr0 := r.2 } else { s.rnu with lfsr1 := r.2 } })
  else freshBytes n s

/-- Two strings byte by byte in turn. -/
def interleave : Bytes → Bytes → Bytes
  | a :: s, b :: t => a :: b :: interleave s t
  | s, [] => s
  | [], t => t

/-- A conditioning block: 320 new samples of each source, interleaved from NS0 on, hashed (R381). -/
def conditioned (s : State) : Bytes × State :=
  let a := samples 0 320 s
  let b := samples 1 320 a.2
  (digest 1 (interleave a.1 b.1), b.2)

/-- Seed material of two conditioning blocks (R382). -/
def gatherSeed (s : State) : Bytes × State :=
  let a := conditioned s
  let b := conditioned a.2
  ((a.1 ++ b.1).take 48, b.2)

/-- Take the seed that is ready, and gather the next. DESIGN CHOICE: gathering takes no time in the model. -/
def takeSeed (s : State) : Bytes × State :=
  let a := match s.rnu.seed with
    | some x => (x, s)
    | none => gatherSeed s
  let b := gatherSeed a.2
  (a.1, { b.2 with rnu := { b.2.rnu with seed := some b.1 } })

/-- The personalisation string (R383). -/
def personalisation (s : State) : Bytes := leBytes 8 s.ident.siliconId ++ beBytes 8 s.lcc.starts ++ List.replicate 32 0#8

/-- Instantiate the expander from the next seed (R383). -/
def instantiate (s : State) : State :=
  let a := takeSeed s
  { a.2 with rnu := { a.2.rnu with expander := some (.instantiate a.1 (personalisation s)), generated := 0, seededAt := s.sck.now } }

/-- Reseed the expander from the next seed (R384). -/
def reseed (s : State) : State :=
  let a := takeSeed s
  { a.2 with rnu := { a.2.rnu with expander := a.2.rnu.expander.map (·.update a.1), generated := 0, seededAt := s.sck.now } }

/-- A reseed is due: 16 MiB of output or 1 s (R384). -/
def reseedDue (r : Rnu) (now : Nat) : Bool :=
  decide (reseedBytes ≤ r.generated) || decide (r.seededAt + nsPerSec ≤ now)

/-- The output of one generate call joins Bellows while it has room for a block (R391). -/
def Rnu.putBlock (r : Rnu) (x : Expander) : Rnu :=
  if r.bellows.length < bellowsSize / bellowsBlock then
    let g := x.generate (bellowsBlock / 16)
    { r with bellows := r.bellows ++ [g.1], expander := some g.2, generated := r.generated + bellowsBlock }
  else r

/-- One generate call fills one block of Bellows, after the reseed that is due (R383, R384, R391). -/
def generateBlock (s : State) : State :=
  let s1 := if reseedDue s.rnu s.sck.now then reseed s else s
  match s1.rnu.expander with
  | none => s1
  | some x => { s1 with rnu := s1.rnu.putBlock x }

/-- Fill `k` blocks. -/
def generateBlocks : (k : Nat) → State → State
  | 0, s => s
  | k + 1, s => generateBlocks k (generateBlock s)

/-- Take `n` bytes off Bellows, each once; a block is generated where none is left. `fuel` bounds the blocks. -/
def takeBellows : (fuel n : Nat) → State → Bytes × State
  | 0, _, s => ([], s)
  | k + 1, n, s =>
    if n = 0 then ([], s)
    else match s.rnu.bellows with
      | [] => takeBellows k n (generateBlock s)
      | b :: t =>
        if n < b.length then (b.take n, { s with rnu := { s.rnu with bellows := b.drop n :: t } })
        else
          let r := takeBellows k (n - b.length) { s with rnu := { s.rnu with bellows := t } }
          (b ++ r.1, r.2)

/-- Draw `n` bytes: the output position moves on (R392). DESIGN CHOICE: in a state without an expander, where nothing is ever drawn, the
bytes are free values. -/
def draw (n : Nat) (s : State) : Bytes × State :=
  let r := if s.rnu.expander.isSome then takeBellows (2 * (n / bellowsBlock) + 4) n s else freshBytes n s
  (r.1, { r.2 with rnu := { r.2.rnu with pos := (r.2.rnu.pos + n) % 2 ^ 64 } })

/-- What a request for randomness meets: served, held, or refused with a status. -/
inductive Draw where
  | served | held | refused (code : Nat)
deriving DecidableEq, Repr

/-- The outcome of a request with or without WAIT. -/
def drawTest (wait : Bool) (s : State) : Draw :=
  match s.rnu.st with
  | .ready => .served
  | .starting => if wait then .held else .refused stEntropyNotReady
  | .restarting | .fault => .refused stEntropyFault

/-- Continue an operation that needs randomness. -/
def withDraw (q : Call) (s : State) (k : State → OpOut) : OpOut :=
  match drawTest q.hdr.wait s with
  | .served => k s
  | .held => .wait
  | .refused code => .done (bare code) s

/-- A draw for the module's own use whose size the spec leaves open, such as a projective randomization (Table 09-3): at most 1,024
bytes (R393), how many is a free value. -/
def drawOwn (s : State) : Bytes × State :=
  let a := freshValue s
  draw (a.1.toNat % 1025) a.2

/-! ### Outbound transfers -/

/-- Offer the bytes of an outbound transfer: through the port the call holds (R458), or, for a call without a port,
directly. -/
def offerBytes (q : Call) (bytes : Bytes) (s : State) : State :=
  let v := s.func q.f
  if v.dpState = 2 ∧ v.dpCtx = (s.ctxFor q).map (·.id) then s.setFunc q.f (offerOut v v.dpPos bytes.length bytes)
  else emit (.data q.f bytes) s

end Sys2Proof.Machine
end

