-- ==== Sys2Proof/Machine/Keys.lean ====
section
/-! DEFINITION. Keys: kinds, usage, lookups, the key cache, the vault and key domains (07). -/

namespace Sys2Proof.Machine

/-! ### Kinds and usage (Tables 07-4, 07-6) -/

/-- KEY_LEN fits the kind. -/
def kindLenOk (kind len : Nat) : Bool :=
  match kind with
  | 0x01 => len == 16
  | 0x02 | 0x10 | 0x12 | 0x13 | 0x15 | 0x30 | 0x31 => len == 32
  | 0x03 => decide (1 ≤ len) && decide (len ≤ 64)
  | 0x11 | 0x14 => len == 48
  | 0x20 => len == 904
  | 0x21 => len == 1352
  | 0x22 => len == 1800
  | _ => false

/-- Key-cache slots of a kind. -/
def kindSlots (kind : Nat) : Nat := if kind = 0x20 then 5 else if kind = 0x21 then 7 else if kind = 0x22 then 9 else 1

def useVerify : Nat := 0
def useGenerate : Nat := 1
def useEncrypt : Nat := 2
def useDecrypt : Nat := 3
def useMac : Nat := 4
def useSign : Nat := 5
def useAgree : Nat := 6
def useMka : Nat := 7
def useGdoiKek : Nat := 8
def useGdoiAuth : Nat := 9

/-- Usage bits a kind allows, as a mask. -/
def kindUsage (kind : Nat) : Nat :=
  match kind with
  | 0x01 | 0x02 => 0x1F
  | 0x03 => 0x13
  | 0x10 | 0x11 => 0x220
  | 0x12 => 0x20
  | 0x13 | 0x14 | 0x15 => 0x40
  | 0x20 | 0x21 | 0x22 => 0x228
  | 0x30 => 0x80
  | 0x31 => 0x100
  | _ => 0

/-- USAGE suits the kind and keeps line use apart from host use (R296). -/
def usageOk (kind usage : Nat) : Bool :=
  usage != 0 && (usage &&& kindUsage kind) == usage && !((usage &&& 3) != 0 && (usage &&& 0x1C) != 0)

/-- A private kind whose public key is computed at load. -/
def isPrivateKind (kind : Nat) : Bool := decide (0x10 ≤ kind) && decide (kind ≤ 0x22)

/-- An RSA kind. -/
def isRsa (kind : Nat) : Bool := kind == 0x20 || kind == 0x21 || kind == 0x22

/-- Function field of a handle (R291). -/
def handleFn (h : Nat) : Nat := h / 2 ^ 26

/-! ### Domains and the root -/

/-- A key domain. -/
def State.dom (s : State) (f : Nat) : Domain := Tbl.get {} s.key.domains f

/-- Replace a key domain. -/
def State.setDom (f : Nat) (d : Domain) (s : State) : State :=
  { s with key := { s.key with domains := Tbl.put f d s.key.domains } }

/-- Change a key domain. -/
def State.updDom (f : Nat) (g : Domain → Domain) (s : State) : State := s.setDom f (g (s.dom f))

/-- Allocate an index of a function's handle counter (R291). -/
def allocHandle (f : Nat) (s : State) : Option (Nat × State) :=
  let d := s.dom f
  if d.handles ≥ 0x3FFFFFF then none
  else some (f * 2 ^ 26 + (d.handles + 1), s.setDom f { d with handles := d.handles + 1 })

/-- A KEY_EVENT record. Event numbers (the spec gives none): 1 created, 2 vault blob does not unwrap, 3 quota full at
restart, 4 slot lost, 5 lifetime passed, 6 TEK bound, 7 TEK discarded, 8 vault store, 9 vault delete, 10 migrated in. -/
def keyEvent (f handle event rollAt : Nat) (s : State) : State := stageRec 0x23 f (.keyEvent handle event rollAt) s

/-! ### The key cache (R299 to R302) -/

/-- Slots a function's loaded keys and open TLS sessions take (R300, R478). -/
def State.slotsUsed (s : State) (f : Nat) : Nat :=
  s.key.keys.foldl (fun n k => if handleFn k.1 = f then n + kindSlots k.2.blob.attr.kind else n) 0
    + 2 * Tbl.count (fun _ v => v.f == f && v.st != 2) s.tls.sessions

/-- `n` more slots stay within the quota. -/
def State.slotsFit (s : State) (f n : Nat) : Bool := decide (s.slotsUsed f + n ≤ (s.func f).keyQuota)

/-- Loading a private key draws: a blinding value as long as n for RSA, from which the blinding pair comes (R353); the randomization of
the public key's computation for a curve (R348, Table 09-3). -/
def loadDrawn (kind : Nat) (m : Bytes) (s : State) : (Nat × Nat) × State :=
  if isRsa kind then
    let d := draw ((rsaLen m).getD 0) s
    (blindPair (rsaKey m) (beNat d.1), d.2)
  else if isPrivateKind kind then ((0, 0), (drawOwn s).2)
  else ((0, 0), s)

/-! ### Blobs (R293 to R295) -/

/-- The storage root key. -/
def State.srk (s : State) : Bytes := (s.key.bbkr.map (·.srk)).getD []

/-- DWK of a domain under an epoch, computed when needed (Table 07-1). -/
def State.dwk (s : State) (domain epoch : Nat) : Bytes := dwkOf s.srk domain epoch

/-- Bytes 0x00 to 0x4F of a blob (Table 07-5). -/
def blobHead (b : Blob) : Bytes :=
  leBytes 4 b.magic ++ leBytes 2 b.format ++ leBytes 2 b.len ++ leBytes 4 b.handle ++ leBytes 4 b.epoch
    ++ leBytes 1 b.attr.kind ++ leBytes 1 b.attr.origin ++ leBytes 2 (b2n b.attr.migratable + 2 * b.flagsRes) ++ leBytes 4 b.attr.usage
    ++ leBytes 4 b.attr.ident ++ leBytes 4 b.attr.group ++ leBytes 8 b.attr.notBefore ++ leBytes 8 b.attr.notAfter
    ++ leBytes 8 b.attr.created ++ leBytes 2 b.attr.keyLen ++ leBytes 6 b.res3A ++ beBytes 12 b.iv ++ leBytes 4 b.res4C

/-- Bytes of a blob. -/
def blobBytes (b : Blob) : Bytes := blobHead b ++ b.payload ++ b.tag

/-- Seal a key's material under a wrapping key (R294): the additional data is the blob's head. -/
def sealUnder (kek : Bytes) (format handle epoch iv : Nat) (attr : KeyAttr) (material : Bytes) : Blob :=
  let b : Blob := { format, len := blobLen attr.keyLen, handle, epoch, attr, iv }
  let payload := gcmCrypt kek iv (fitBytes (blobLen attr.keyLen - 96) material)
  { b with payload, tag := gcmTag kek iv (blobHead b) payload 16 }

/-- The material in a blob, where its tag is right under a wrapping key. -/
def openUnder (kek : Bytes) (b : Blob) : Option Bytes :=
  if gcmTag kek b.iv (blobHead b) b.payload 16 = b.tag then some ((gcmCrypt kek b.iv b.payload).take b.attr.keyLen) else none

/-- Step 1 of R295: MAGIC, FORMAT, BLOB_LEN, reserved fields and KEY_LEN. -/
def blobFormOk (format : Nat) (b : Blob) : Bool :=
  b.magic == 0x424B584E && b.format == format && b.len == blobLen b.attr.keyLen && decide (b.len ≤ 2048) && b.flagsRes == 0
    && b.res3A == 0 && b.res4C == 0 && kindLenOk b.attr.kind b.attr.keyLen && b.payload.length == b.len - 96 && b.tag.length == 16

/-- The material of a blob that unwraps here: FORMAT 1 under the domain's current epoch and the present root (R295 step 3). -/
def unwrapped (s : State) (b : Blob) : Option Bytes :=
  if s.key.rootPresent ∧ b.format = 1 ∧ b.epoch = (s.dom (handleFn b.handle)).epoch then
    openUnder (s.dwk (handleFn b.handle) b.epoch) b
  else none

/-- Key material of a kind that the module draws (Table 09-3). DESIGN CHOICE: a private scalar of an ECDSA or ECDH key is drawn as R350
draws a nonce, so that it lies in its range (R358). -/
def drawMaterial (kind len : Nat) (s : State) : Bytes × State :=
  if kind = 0x10 ∨ kind = 0x11 ∨ kind = 0x13 ∨ kind = 0x14 then
    let d := draw (len + 16) s
    (beBytes len ((if len = 32 then p256 else p384).nonce (beNat d.1)), d.2)
  else draw len s

/-- Imported material is usable: a private scalar in its range (R358), an RSA key that returns the test value (R355). -/
def materialOk (kind : Nat) (m : Bytes) : Bool :=
  if isRsa kind then
    let k := rsaKey m
    let t := Config.rsaTestValue % k.n
    rsaPublic k.n k.e (rsaPrivate k t) == t
  else scalarOk kind m

/-- A new blob for a key of a function's domain, with an IV from the random number unit. -/
def sealBlob (h : Nat) (attr : KeyAttr) (material : Bytes) (s : State) : Blob × State :=
  let iv := draw 12 s
  let epoch := (iv.2.dom (handleFn h)).epoch
  (sealUnder (iv.2.dwk (handleFn h) epoch) 1 h epoch (beNat iv.1) attr material, iv.2)

/-! ### Filling slots (R299) -/

/-- An AES kind. -/
def isAes (kind : Nat) : Bool := kind == 1 || kind == 2

/-- Bytes of the public key of a private kind: x and y for curves, n then e for RSA. -/
def publicLen (kind : Nat) : Nat :=
  match kind with
  | 0x11 | 0x14 => 96
  | 0x12 | 0x15 => 32
  | 0x20 => 264
  | 0x21 => 392
  | 0x22 => 520
  | _ => 64

/-- The working form of a key (R299); an RSA key's payload begins with n and e (Table 07-4). -/
def workOf (h kind : Nat) (m : Bytes) : KeyWork :=
  if isAes kind then { h := hashKeyOf m }
  else if kind = 0x03 then { inner := midstate (ipad 1 m), outer := midstate (opad 1 m) }
  else if kind = 0x30 then
    { kek := mkaKdf m "IEEE8021 KEK" (Config.mkaContext h), ick := mkaKdf m "IEEE8021 ICK" (Config.mkaContext h) }
  else if isRsa kind then { pub := m.take (publicLen kind) }
  else if isPrivateKind kind then { pub := curvePublic kind m }
  else {}

/-- Slots that `n` slots from `v` on would meet: the first slot after one of them. -/
def slotClash (v n : Nat) (t : Tbl LoadedKey) : Option Nat :=
  t.findSome? fun x =>
    let w := kindSlots x.2.blob.attr.kind
    if x.2.slot < v + n ∧ v < x.2.slot + w then some (x.2.slot + w) else none

/-- Key-cache slots for a key: the first `n` free ones in a row. DESIGN CHOICE: the spec does not say which slots a key takes. -/
def freeSlot (n : Nat) (t : Tbl LoadedKey) : (fuel v : Nat) → Nat
  | 0, v => v
  | k + 1, v => match slotClash v n t with
    | none => v
    | some w => freeSlot n t k w

/-- The condition of a lost slot ends (Table 04-8): the pads of the entries that name it are discarded, so that frames after the end
use pads computed after it (R185). -/
def slotBack (h : Nat) (s : State) : State :=
  match Tbl.find? h s.key.lostAt with
  | none => s
  | some t =>
    let named (n : Nat) : Bool := s.pln.parts.any fun p =>
      (entriesOf p.2.active ++ entriesOf p.2.held).any fun x => x.1 == n && (entryHandles x.2).any fun y => y.2 == h
    let entries := Tbl.mapAll (fun n r => if named n then r.noPads else r) s.fe.entries
    let drainRt := Tbl.mapAll (fun n r => if named n then r.noPads else r) s.fe.drainRt
    endCond (.slot h) t { s with key := { s.key with lostAt := Tbl.del h s.key.lostAt }, fe := { s.fe with entries, drainRt } }

/-- Put a key into the cache, with its working form. -/
def putKey (b : Blob) (m : Bytes) (blind : Nat × Nat) (s : State) : State :=
  let others := Tbl.del b.handle s.key.keys
  let slot := freeSlot (kindSlots b.attr.kind) others (others.length + 1) 0
  let k : LoadedKey := { blob := b, slot, material := m, work := workOf b.handle b.attr.kind m, blind }
  let s1 := slotBack b.handle { s with key := { s.key with keys := Tbl.put b.handle k s.key.keys,
                                                           lapsed := s.key.lapsed.filter (· != b.handle) } }
  keyEdges s s1

/-- Fill a slot from a blob. -/
def fillSlot (b : Blob) (m : Bytes) (s : State) : State :=
  let d := loadDrawn b.attr.kind m s
  putKey b m d.1 d.2

/-- Zero the slots of a handle. -/
def dropKey (h : Nat) (s : State) : State :=
  let s1 := { s with key := { s.key with keys := Tbl.del h s.key.keys } }
  keyEdges s s1

/-! ### Generation counters (R152, R311) -/

/-- Values of a block, and the last value of the block that holds a value. -/
def genBlock : Nat := 1048576
def blockEnd (v : Nat) : Nat := ((v - 1) / genBlock + 1) * genBlock

/-- First value of a handle's next unreserved block. -/
def nextBlock (g : GenCtr) : Nat := g.reserved + 1

/-- Take the next value; every value taken lies in a block that has been reserved. -/
def GenCtr.take (g : GenCtr) : GenCtr :=
  { g with next := g.next + 1, reserved := if g.reserved < g.next then blockEnd g.next else g.reserved }

/-- Raise a counter to a value, never lower it; the block of the value counts as reserved, so that a restart resumes after it (DEDUCED
from R152). -/
def raiseGen (v : Nat) (g : GenCtr) : GenCtr :=
  if g.next < v then { g with next := v, reserved := if g.reserved < v then blockEnd v else g.reserved } else g

/-- A restart resumes at the first value of the next unreserved block. -/
def restartGen (g : GenCtr) : GenCtr := { g with next := if g.next < nextBlock g then nextBlock g else g.next }

/-- Take the next generation counter value of a handle. -/
def takeGen (h : Nat) (s : State) : Nat × State :=
  let g := Tbl.get ({} : GenCtr) s.key.gens h
  (g.next, { s with key := { s.key with gens := Tbl.put h g.take s.key.gens } })

/-! ### Pinning (R122) -/

/-- The image names a handle. -/
def imageNames (i : PlanImage) (h : Nat) : Bool := i.keys.any fun k => k.handle == h

/-- The image names a handle with VAULT. -/
def imageVaults (i : PlanImage) (h : Nat) : Bool := i.keys.any fun k => k.handle == h && k.vault

/-- Some partition's armed, active or formerly armed version names the handle. -/
def isPinned (s : State) (h : Nat) : Bool :=
  s.pln.parts.any fun p =>
    p.2.active.any (fun c => imageNames c.image h) || (p.2.pinned && p.2.held.any (fun c => imageNames c.image h))

/-! ### The vault (R305) -/

/-- Live vault bytes of a function. -/
def vaultBytes (s : State) (f : Nat) : Nat :=
  s.key.vault.foldl (fun n k => if handleFn k.1 = f then n + blobLen k.2.attr.keyLen else n) 0

/-- Live vault limit of a function. -/
def vaultLimit : Nat := sectorBytes

/-- A blob of this length can be stored under the handle. -/
def vaultFits (s : State) (h len : Nat) : Bool :=
  let old := ((Tbl.find? h s.key.vault).map fun b => blobLen b.attr.keyLen).getD 0
  decide (vaultBytes s (handleFn h) - old + len ≤ vaultLimit)

/-- Store a blob in the vault, with its record. -/
def vaultStore (b : Blob) (s : State) : State := keyEvent (handleFn b.handle) b.handle 8 0 (appendBlob b s)

/-- Handles an image marks for the vault, in key-list order. -/
def vaultHandles (i : PlanImage) : List Nat := (i.keys.filter (·.vault)).map (·.handle)

/-- Unwrap vault blobs for a function into the cache as its quota allows (R136, R590). `standby` marks keys whose refusal
by the quota writes a record. -/
def unwrapVault (f : Nat) (standby : Bool) : List Nat → State → State
  | [], s => s
  | h :: t, s =>
    let s1 :=
      if (s.key? h).isSome then s
      else match Tbl.find? h s.key.vault with
        | none => s
        | some b =>
          match unwrapped s b with
          | none => keyEvent f h 2 0 s
          | some m =>
            if s.slotsFit f (kindSlots b.attr.kind) then fillSlot b m s
            else if standby then keyEvent f h 3 0 s else s
    unwrapVault f standby t s1

/-- Unwrap the vault keys of every partition's active image. -/
def unwrapActive : Tbl Partition → State → State
  | [], s => s
  | (f, p) :: t, s => unwrapActive t ((p.active.map fun c => unwrapVault f false (vaultHandles c.image) s).getD s)

/-- The standby copy holds a version: READY, ARMED or PREVIOUS. -/
def Standby.holds (v : Standby) : Bool := v == .ready || v == .armed || v == .previous

/-- Unwrap the vault keys of every standby version held. -/
def unwrapStandby : Tbl Partition → State → State
  | [], s => s
  | (f, p) :: t, s =>
    unwrapStandby t
      (if p.standby.holds then (p.held.map fun c => unwrapVault f true (vaultHandles c.image) s).getD s else s)

/-- Unwrap the vault keys (R136, R590): those of the active images, then those of the standby versions. -/
def unwrapAll (s : State) : State := let s1 := unwrapActive s.pln.parts s; unwrapStandby s1.pln.parts s1

/-- The level has fallen: with no latch left the vault keys are unwrapped (R590). -/
def resumeKeys (old : Nat) (s : State) : State := if 0 < old ∧ s.level = 0 then unwrapAll s else s

/-! ### Keys of operations (R465 step 6) -/

/-- What a key handle of an operation comes to. -/
inductive KeyFound where
  | found (k : LoadedKey)
  | fail (code : Nat)
  /-- its slot is under re-unwrap (R304) -/
  | wait
deriving DecidableEq, Repr

/-- The lifetime of a key holds at grid time now (R306). -/
def lifetimeOk (s : State) (a : KeyAttr) : Bool :=
  (a.notBefore == 0 || decide (stampNs a.notBefore ≤ s.sck.now)) && (a.notAfter == 0 || decide (s.sck.now < stampNs a.notAfter))

/-- Look a key up for a host operation: handle 0, function field, root and cache, kind, usage, lifetime, in this order. -/
def findKey (f h : Nat) (kinds : List Nat) (usage : Nat) (s : State) : KeyFound :=
  if h = 0 then .fail stKeyNotLoaded
  else if handleFn h ≠ f then .fail stKeyUsageDenied
  else if s.key.rootPresent = false then .fail stKeyNotLoaded
  else match s.key? h with
    | none => .fail stKeyNotLoaded
    | some k =>
      if kinds.contains k.blob.attr.kind && k.blob.attr.usage.testBit usage && lifetimeOk s k.blob.attr then
        (if k.faulted then .wait else .found k)
      else .fail stKeyUsageDenied

/-- Continue with a key. -/
def withKey (f h : Nat) (kinds : List Nat) (usage : Nat) (s : State) (k : LoadedKey → OpOut) : OpOut :=
  match findKey f h kinds usage s with
  | .fail code => .done (bare code) s
  | .wait => .busy
  | .found v => k v

/-- A handle named without use: handle 0, function field, then whether it is loaded. -/
def ownHandle (f h : Nat) : Option Nat :=
  if h = 0 then some stKeyNotLoaded else if handleFn h ≠ f then some stKeyUsageDenied else none

end Sys2Proof.Machine
end

