-- ==== Sys2Proof/Machine/Auth.lean ====
section
/-! DEFINITION. Signers, authorised requests and attestation statements (07, 11). -/

namespace Sys2Proof.Machine

/-! ### Roles (Table 07-7) -/

def roleEngineer : Nat := 1
def roleOfficer : Nat := 2
def roleAuditor : Nat := 3
def roleIntegrator : Nat := 4
def roleService : Nat := 5

/-- A record of a role with this SIGNER_ID, ACTIVE. -/
def activeIn (l : List RoleRec) (role signer : Nat) : Bool :=
  l.any fun r => r.role == role && r.signerId == signer && r.active

/-- SIGNER_ID of a public key (R313). -/
def signerIdOf (key : Bytes) : Nat := beNat (digest 1 key)

/-- A signer is ACTIVE in a role for a domain (R312 to R315). -/
def signerActive (s : State) (dom role signer : Nat) : Bool :=
  if role = roleService then signer == signerIdOf s.ident.service
  else if role = roleIntegrator then s.lcc.st == .integrator && activeIn s.key.integrators role signer
  else activeIn (s.dom dom).roles role signer

/-- No two blocks name one SIGNER_ID. -/
def distinctSigners : List SigBlock → Bool
  | [] => true
  | b :: t => t.all (fun x => x.signerId != b.signerId) && distinctSigners t

/-- ROLE and ALGORITHM are right, the SIGNER_IDs differ and every signer is ACTIVE in its role (SIGNER). -/
def signersOk (s : State) (dom : Nat) (l : List SigBlock) : Bool :=
  distinctSigners l && l.all fun b => b.algorithm == 1 && signerActive s dom b.role b.signerId

/-- The public key a signer's record holds; none of an unknown signer. -/
def signerKey (s : State) (dom role signer : Nat) : Bytes :=
  if role = roleService then s.ident.service
  else (((if role = roleIntegrator then s.key.integrators else (s.dom dom).roles).find? fun r =>
    r.role == role && r.signerId == signer).map (·.key)).getD []

/-- A block's signature on these bytes verifies: ECDSA over P-384 with SHA-384. -/
def sigVerifies (s : State) (dom : Nat) (bytes : Bytes) (b : SigBlock) : Bool :=
  roleVerifies (signerKey s dom b.role b.signerId) bytes b.r b.s

/-- Every signature verifies (SIGNATURE_INVALID). -/
def sigsVerify (s : State) (dom : Nat) (bytes : Bytes) (l : List SigBlock) : Bool := l.all (sigVerifies s dom bytes)

/-- Blocks of a role. -/
def countRole (role : Nat) (l : List SigBlock) : Nat := (l.filter fun b => b.role == role).length

/-- The SIGNER_IDs of a message as one number, for its SECURITY record. -/
def signerPair (l : List SigBlock) : Nat := l.foldr (fun b n => b.signerId + 2 ^ 256 * n) 0

/-- NOT_AFTER refuses (EXPIRED). -/
def expired (s : State) (notAfter : Nat) : Bool :=
  notAfter != 0 && (decide (stampNs notAfter < s.sck.now) || !s.sck.valid)

/-! ### Names of keys -/

/-- TARGET of this module: SHA-256 of the DIK public key (Tables 07-8, 11-3). -/
def State.target (s : State) : Bytes := digest 1 (p384Public s.dik)

/-! ### Authorised requests (R471 to R473) -/

/-- Bytes 0x00 to 0x7F of a request (Table 11-3), on which its signatures are computed. -/
def requestBytes (a : AuthReq) : Bytes :=
  leBytes 4 a.magic ++ leBytes 2 a.request ++ leBytes 1 a.domain ++ leBytes 1 a.sigCount ++ leBytes 8 a.counter ++ leBytes 8 a.notAfter
    ++ fitBytes 32 a.target ++ leBytes 8 a.res38 ++ fitBytes 64 a.params

/-- Every byte of PARAMS outside the fields used (offset and length) is zero. -/
def unusedZero (used : List (Nat × Nat)) : (i : Nat) → Bytes → Bool
  | _, [] => true
  | i, b :: t => (b == 0#8 || used.any fun u => decide (u.1 ≤ i) && decide (i < u.1 + u.2)) && unusedZero used (i + 1) t

/-- FORMAT of a request of `inLen` bytes (Table 11-3) whose PARAMS has these fields: MAGIC, counts and length, reserved fields and unused
bytes; and a NOT_AFTER that is no stamp (R63; DESIGN CHOICE: the spec gives its refusal no reason of its own). -/
def requestForm (a : AuthReq) (inLen : Nat) (used : List (Nat × Nat)) : Bool :=
  a.magic == 0x5241584E && a.sigCount == a.sigs.length && decide (1 ≤ a.sigCount) && decide (a.sigCount ≤ 2)
    && inLen == 128 + 136 * a.sigCount && decide (a.domain ≤ 63) && a.res38 == 0 && a.params.length == 64 && unusedZero used 0 a.params
    && a.sigs.all (fun b => b.reserved == 0) && stampValid a.notAfter

/-- The reason that refuses a request, in the order of Table 07-10; `dom`, `role` and `n` are the signers of Table 11-4.
-/
def authReason (a : AuthReq) (inLen op dom role n : Nat) (used : List (Nat × Nat)) (s : State) : Option Nat :=
  if requestForm a inLen used = false then some 0x0101
  else if a.target ≠ s.target then some 0x0102
  else if a.counter ≤ (s.dom a.domain).temper then some 0x0103
  else if expired s a.notAfter then some 0x0104
  else if signersOk s a.domain a.sigs = false then some 0x0105
  else if sigsVerify s a.domain (requestBytes a) a.sigs = false then some 0x0106
  else if a.domain ≠ dom ∨ countRole role a.sigs < n then some 0x0109
  else if a.request ≠ op then some 0x010A
  else none

/-- An accepted request: the domain's counter and the SECURITY record (R472). -/
def acceptRequest (a : AuthReq) (op : Nat) (s : State) : State :=
  securityRec secRequest op (signerPair a.sigs) a.counter (s.updDom a.domain fun d => { d with temper := a.counter })

/-- Continue with a request that is accepted, its PARAMS in range. -/
def withAuth (a : AuthReq) (inLen op dom role n : Nat) (used : List (Nat × Nat)) (paramsOk : Bool) (s : State) (k : State → OpOut) :
    OpOut :=
  match authReason a inLen op dom role n used s with
  | some r => .done (reject r) s
  | none => if paramsOk then k (acceptRequest a op s) else .done (reject 0x010A) s

/-! ### Attestation statements (Tables 07-11, 07-12) -/

/-- Length of a statement whose body has `n` bytes. -/
def statementLen (n : Nat) : Nat := 0x50 + n + 96

/-- The bytes of a statement before its signature. -/
def statementHead (kind : Nat) (challenge body : Bytes) (s : State) : Bytes :=
  leBytes 4 0x5341584E ++ leBytes 1 1 ++ leBytes 1 kind ++ leBytes 2 body.length ++ leBytes 8 s.ident.siliconId
    ++ challenge ++ leBytes 8 (toStamp s.sck.now) ++ leBytes 1 s.quality ++ leBytes 1 (lifeCode s.lcc.st)
    ++ leBytes 1 s.level ++ leBytes 1 (b2n s.pwr.lupin) ++ leBytes 4 s.pwr.version ++ leBytes 4 s.key.quenchW
    ++ leBytes 4 s.key.quenchR ++ leBytes 4 s.key.rootGen ++ leBytes 4 0 ++ body

/-- A statement with its signature by the device identity key. -/
def statement (kind : Nat) (challenge body : Bytes) (s : State) : Bytes :=
  let h := statementHead kind challenge body s
  h ++ ownSignature s.dik h

/-- Body of a key statement. -/
def keyBody (k : LoadedKey) (s : State) : Bytes :=
  let a := k.blob.attr
  let props := b2n (a.origin == 1) + 2 + 4 * b2n a.migratable + 8 + 16 * b2n (Tbl.has s.key.vault k.blob.handle)
  leBytes 4 k.blob.handle ++ leBytes 1 a.kind ++ leBytes 1 a.origin ++ leBytes 2 (b2n a.migratable) ++ leBytes 4 a.usage
    ++ leBytes 4 a.ident ++ leBytes 4 a.group ++ leBytes 4 k.blob.epoch ++ leBytes 8 a.notBefore ++ leBytes 8 a.notAfter
    ++ leBytes 8 a.created ++ leBytes 4 props
    ++ (if isPrivateKind a.kind then k.work.pub else checkValue k.material)

/-- Bytes of the body of a key statement. -/
def keyBodyLen (kind : Nat) : Nat := 52 + (if isPrivateKind kind then publicLen kind else 8)

end Sys2Proof.Machine
end

