-- ==== Sys2Proof/Machine/Lines.lean ====
section
/-! DEFINITION. Settings of the ports and the pairs, MACsec on egress, and the frames that the protocol cores send (05). -/

namespace Sys2Proof.Machine

/-- Ports 2 and 3 are absent in Lupin (Table 00-2). -/
def State.portAbsent (s : State) (p : Nat) : Bool := decide (12 ≤ p) || (s.pwr.lupin && (p == 2 || p == 3))

/-- ENABLE of FE_PORT_CFG. -/
def State.portOn (s : State) (p : Nat) : Bool := bitOf (s.portCfg p) 0 && !s.portAbsent p

/-- MODE, XPN, CONFIDENTIAL and MACSEC_FAIL of FE_PORT_CFG. -/
def State.portMode (s : State) (p : Nat) : Nat := fieldOf (s.portCfg p) 3 1
def State.portXpn (s : State) (p : Nat) : Bool := bitOf (s.portCfg p) 5
def State.portConf (s : State) (p : Nat) : Bool := bitOf (s.portCfg p) 6
def State.portFailOpen (s : State) (p : Nat) : Bool := bitOf (s.portCfg p) 7

/-- The other member of a port's pair. -/
def otherMember (p : Nat) : Nat := if p % 2 = 0 then p + 1 else p - 1

/-- PTP is enabled on the port; PTP_EN is ignored on HSR members (R230). -/
def State.ptpOn (s : State) (p : Nat) : Bool :=
  bitOf (s.portCfg p) 8 && s.portOn p && (match s.pairOf p with
    | some (_, 2) => false
    | _ => true)

/-- A port transmits one-step Sync: PTP_ONE_STEP, ignored under MACsec (R230). -/
def State.ptpOneStep (s : State) (p : Nat) : Bool := bitOf (s.portCfg p) 9 && !s.macsecOn p

/-- A port's own MAC address, and a pair's: that of its lower-numbered member (R199). -/
def State.portMac (s : State) (p : Nat) : Nat := s.ident.baseMac + p
def State.ownMac (s : State) (i : Nat) : Nat := s.portMac (4 + 2 * i)

/-- A pair's state. -/
def State.pair (s : State) (i : Nat) : Pair := Tbl.get {} s.fe.pairs i

/-- Replace a pair's state. -/
def State.setPair (i : Nat) (v : Pair) (s : State) : State := { s with fe := { s.fe with pairs := Tbl.put i v s.fe.pairs } }

/-- One sequence number is taken from the counter of each pair (R213). -/
def takeSeqs : List Nat → State → State
  | [], s => s
  | i :: t, s => takeSeqs t (s.setPair i { s.pair i with seq := ((s.pair i).seq + 1) % 65536 })

/-- Port counters of Table 05-9 for what is transmitted. -/
def pTxFrames : Nat := 6
def pTxBytes : Nat := 7
def pLinkDown : Nat := 8
def pEgressFull : Nat := 9
def pMacsecDown : Nat := 10
def pBypass : Nat := 11

/-! ### MACsec on egress (R148, R165, R221, R223) -/

/-- Last packet number, and the one at which a new SAK is asked for (R223). -/
def lastPn (xpn : Bool) : Nat := if xpn then 2 ^ 64 - 1 else 2 ^ 32 - 1
def requestPn (xpn : Bool) : Nat := if xpn then 0xC000000000000000 else 0xC0000000

/-- Secure channel identifier of a port's transmit channel: its address with port identifier 1 (PRESUMED, IEEE 802.1AE). -/
def State.sci (s : State) (p : Nat) : Nat := s.portMac p * 65536 + 1

/-- IV of a packet number (PRESUMED, IEEE 802.1AE, which Table 04-2 does not repeat): SCI ‖ PN, or with extended packet numbers
(SSCI ‖ PN) ⊕ salt. -/
def macsecIv (xpn : Bool) (sci ssci salt pn : Nat) : Nat :=
  if xpn then (ssci * 2 ^ 64 + pn) ^^^ salt else sci * 2 ^ 32 + pn

/-- The port's MACsec is down: a condition of Table 05-8 holds, or no usable transmit association. -/
def State.macsecDown (s : State) (p : Nat) : Bool :=
  !(s.port p).conds.isEmpty || ((s.port p).txSa.all fun a => decide (lastPn (s.portXpn p) < a.nextPn))

/-- SecTAG of a frame with `n` bytes of protected data (PRESUMED, IEEE 802.1AE): EtherType, TCI with SC, AN, short length, PN, SCI. -/
def secTagBytes (conf : Bool) (an n pn sci : Nat) : Bytes :=
  [0x88#8, 0xE5#8] ++ leBytes 1 (0x20 + (if conf then 0x0C else 0) + an % 4) ++ leBytes 1 (if n < 48 then n else 0)
    ++ beBytes 4 pn ++ beBytes 8 sci

/-- A frame under MACsec: everything behind the addresses, the VLAN tag included, is protected data (R210); the ICV takes the pad. -/
def protect (sak : Bytes) (pad : BitVec 128) (conf : Bool) (an pn sci iv : Nat) (l : Bytes) : MacsecOut :=
  let data := l.drop 12
  let body := if conf then gcmCrypt sak iv data else data
  let aad := l.take 12 ++ secTagBytes conf an data.length pn sci ++ if conf then [] else data
  { an, pn, encrypted := conf, body, icv := tagFrom (hashKeyOf sak) pad aad (if conf then body else []) 16 }

/-- A frame takes the next packet number of the transmit association with its pad; the pad of the number after it is computed (R165),
and at the threshold MKA is asked for a new SAK (R223). -/
def applyMacsec (p : Nat) (l : Bytes) (s : State) : Option MacsecOut × State :=
  match (s.port p).txSa with
  | none => (none, s)
  | some a =>
    let xpn := s.portXpn p
    let iv := macsecIv xpn (s.sci p) a.ssci a.salt
    (some (protect a.sak a.pad (s.portConf p) a.an a.nextPn (s.sci p) (iv a.nextPn) l),
     s.updPort p fun v => { v with
       txSa := some { a with nextPn := a.nextPn + 1, pad := padOf a.sak (iv (a.nextPn + 1)) },
       sakRequested := v.sakRequested || decide (requestPn xpn ≤ a.nextPn + 1) })

/-- Bytes that MACsec adds to a frame, and a pair's trailer or tag (Table 05-2). -/
def macsecBytes : Nat := 32
def tagBytes : Nat := 6

/-! ### Frames of the cores (R199, R204 to R207, R213) -/

/-- Bytes of transmit buffer of a port (R206). -/
def txBuffer : Nat := 524288

/-- EAPOL frames travel outside MACsec (R222). -/
def isEapol : CoreFrame → Bool
  | .mkpdu _ => true
  | _ => false

/-- A frame that waits at its port: it takes its place in the buffer. -/
def enqueue (c : TxCopy) (s : State) : State :=
  { s with fe := { s.fe with copies := s.fe.copies ++ [c] } }.updPort c.port fun v => { v with buffer := v.buffer + c.len }

/-- A core hands a frame to a port: it joins the queue of its class, under MACsec where that is up (R204, R205). DESIGN CHOICE: on a link
that is down, or at a full buffer, it is lost and counted like a copy (R206, R207). Until forwarding begins nothing is transmitted (R663). -/
def sendCore (p src tclass : Nat) (red : Option (Nat × Nat)) (x : CoreFrame) (s : State) : State :=
  if s.portOn p = false ∨ s.fe.forwarding = false then s
  else if (s.port p).linkUp = false then bumpPort p pLinkDown 1 s
  else
    let bytes := Config.coreBytes src red x
    let len := bytes.length + 4
    if txBuffer < (s.port p).buffer + len then bumpPort p pEgressFull 1 s
    else
      let m := if s.macsecOn p && !s.macsecDown p && !isEapol x then applyMacsec p bytes s else (none, s)
      enqueue { id := m.2.fe.nextId, port := p, tclass, at_ := m.2.sck.now, len, redSeq := red.map (·.1), macsec := m.1,
                core := some (src, x) } { m.2 with fe := { m.2.fe with nextId := m.2.fe.nextId + 1 } }

/-- A frame of one port only, from the port's own address and without a trailer: PTP (R213) and, DESIGN CHOICE, EAPOL, which concerns the
link alone. -/
def sendPort (p tclass : Nat) (x : CoreFrame) (s : State) : State := sendCore p (s.portMac p) tclass none x s

/-- Trailer or tag of a member's frame: number and LAN; none on a PTP-enabled PRP member (R213). -/
def State.redFor (s : State) (p x : Nat) : Option (Nat × Nat) := if s.ptpOn p then none else some (x, p % 2)

/-- A frame that the module sends into a pair, on both members under one number of the pair's counter (R213). -/
def sendPair (i tclass : Nat) (x : CoreFrame) (s : State) : State :=
  let n := (s.pair i).seq
  let s1 := if s.ptpOn (4 + 2 * i) && s.ptpOn (5 + 2 * i) then s else takeSeqs [i] s
  sendCore (5 + 2 * i) (s.ownMac i) tclass (s.redFor (5 + 2 * i) n) x
    (sendCore (4 + 2 * i) (s.ownMac i) tclass (s.redFor (4 + 2 * i) n) x s1)

/-- Send on each of the ports below `n` that satisfy `ok`. -/
def sendEach (ok : Nat → Bool) (tclass : Nat) (x : CoreFrame) : Nat → State → State
  | 0, s => s
  | n + 1, s =>
    let s1 := sendEach ok tclass x n s
    if ok n then sendPort n tclass x s1 else s1

/-- Send a frame on every port below `n`, into each pair once. -/
def sendAll (tclass : Nat) (x : CoreFrame) : Nat → State → State
  | 0, s => s
  | n + 1, s =>
    let s1 := sendAll tclass x n s
    match s1.pairOf n with
    | none => sendPort n tclass x s1
    | some (i, _) => if n % 2 = 0 then sendPair i tclass x s1 else s1

end Sys2Proof.Machine
end

