-- ==== Sys2Proof/Machine/KeyOps.lean ====
section
/-! DEFINITION. The key operations, key events of the line and of the cache, and GDOI (07, 11). -/

namespace Sys2Proof.Machine

/-! ### Loading and generating -/

/-- Continue with a load: one of a private key needs randomness (R348, R353, R389). -/
def loadDraw (q : Call) (kind : Nat) (s : State) (k : State → OpOut) : OpOut :=
  if isPrivateKind kind then withDraw q s k else k s

/-- Fill the slot, and store the blob with VAULT. -/
def installKey (b : Blob) (m : Bytes) (vault : Bool) (s : State) : State :=
  if vault then vaultStore b (fillSlot b m s) else fillSlot b m s

/-- KEY_LOAD (R295, R299 to R301): a blob is checked in the order of R295 and fills slots; with VAULT it is also stored. -/
def execKeyLoad (q : Call) (vault : Bool) (x : Blob) (s : State) : Host.Outcome State Fault Refusal :=
  .next (runOp 0x0101 q 0 s fun s =>
    if blobFormOk 1 x = false then .done (reject 0) s
    else match ownHandle q.f x.handle with
      | some code => .done (bare code) s
      | none =>
        if s.key.rootPresent = false then .done (bare stKeyNotLoaded) s
        else match unwrapped s x with
          | none => .done (reject 0) s
          | some m =>
            if usageOk x.attr.kind x.attr.usage = false then .done (reject 0) s
            else if vault ∧ vaultFits s x.handle x.len = false then .done (bare stRefusedFull) s
            else match s.key? x.handle with
              | some k => .done (okDetail x.handle) (if vault then vaultStore k.blob s else s)
              | none =>
                if s.slotsFit q.f (kindSlots x.attr.kind) = false then .done (bare stRefusedFull) s
                else loadDraw q x.attr.kind s fun s1 => .done (okDetail x.handle) (installKey x m vault s1))

/-- KEY_UNLOAD (R302): the slots are zeroed and freed unless the handle is pinned. -/
def execKeyUnload (q : Call) (handle : Nat) (s : State) : Host.Outcome State Fault Refusal :=
  .next (runOp 0x0102 q 0 s fun s =>
    match ownHandle q.f handle with
    | some code => .done (bare code) s
    | none =>
      if s.key.rootPresent = false ∨ s.key? handle = none then .done (bare stKeyNotLoaded) s
      else if isPinned s handle then .done (bare stKeyUsageDenied) s
      else .done (bare stOk) (dropKey handle s))

/-- The body of KEY_GENERATE is in range (Table 11-5). -/
def genBodyOk (kind flags keyLen usage notBefore notAfter : Nat) : Bool :=
  kindLenOk kind (kindLen kind keyLen) && !isRsa kind && (kind == 3 || keyLen == 0) && usageOk kind usage
    && (!bitOf flags 2 || bitOf flags 1) && (notBefore == 0 || stampValid notBefore)
    && (notAfter == 0 || (stampValid notAfter && decide (notBefore < notAfter)))

/-- KEY_GENERATE (R299): a new key is drawn and sealed in a blob, and with LOAD loaded. -/
def execKeyGenerate (q : Call) (kind flags keyLen usage ident group notBefore notAfter : Nat) (s : State) :
    Host.Outcome State Fault Refusal :=
  let len := kindLen kind keyLen
  .next (runOp 0x0103 q (blobLen len) s fun s =>
    if s.key.rootPresent = false then .done (bare stKeyNotLoaded) s
    else if genBodyOk kind flags keyLen usage notBefore notAfter = false then .done (reject 0) s
    else match allocHandle q.f s with
      | none => .done (bare stRefusedFull) s
      | some (h, s1) =>
        if (bitOf flags 1 && !s.slotsFit q.f (kindSlots kind)) || (bitOf flags 2 && !vaultFits s h (blobLen len)) then
          .done (bare stRefusedFull) s
        else withDraw q s fun _ =>
          let m := drawMaterial kind len s1
          let attr : KeyAttr :=
            { kind, origin := 1, migratable := bitOf flags 0, usage, ident, group, notBefore, notAfter,
              created := toStamp s.sck.now, keyLen := len }
          let b := sealBlob h attr m.1 m.2
          let s3 := if bitOf flags 1 then installKey b.1 m.1 (bitOf flags 2) b.2 else b.2
          .done { code := stOk, detail := h, resultLen := blobLen len, output := blobBytes b.1 } s3)

/-- KEY_BLOB_READ (R305): the current blob of a loaded key; the test of OUT_LEN follows the key checks (R465). -/
def execKeyBlobRead (q : Call) (handle : Nat) (s : State) : Host.Outcome State Fault Refusal :=
  .next (runOp 0x0104 q 0 s fun s =>
    match ownHandle q.f handle with
    | some code => .done (bare code) s
    | none =>
      match s.key? handle with
      | none => .done (bare stKeyNotLoaded) s
      | some k =>
        let len := blobLen k.blob.attr.keyLen
        if s.key.rootPresent = false then .done (bare stKeyNotLoaded) s
        else if q.hdr.outLen < len then .done { code := stInputRejected, resultLen := len } s
        else .done { code := stOk, resultLen := len, output := blobBytes k.blob } s)

/-- KEY_VAULT_STORE (R305): a loaded key's blob is written to its function's vault sectors. -/
def execKeyVaultStore (q : Call) (handle : Nat) (s : State) : Host.Outcome State Fault Refusal :=
  .next (runOp 0x0105 q 0 s fun s =>
    match ownHandle q.f handle with
    | some code => .done (bare code) s
    | none =>
      match s.key? handle with
      | none => .done (bare stKeyNotLoaded) s
      | some k =>
        if s.key.rootPresent = false then .done (bare stKeyNotLoaded) s
        else if vaultFits s handle (blobLen k.blob.attr.keyLen) = false then .done (bare stRefusedFull) s
        else .done (bare stOk) (vaultStore k.blob s))

/-- The active or standby image of the function names the key with VAULT (R305). -/
def vaultNamed (s : State) (f h : Nat) : Bool :=
  (Tbl.find? f s.pln.parts).any fun p =>
    p.active.any (fun c => imageVaults c.image h) || p.held.any (fun c => imageVaults c.image h)

/-- KEY_VAULT_DELETE (R305): the blob is removed unless an image names it with VAULT; OK for a key not in the vault. -/
def execKeyVaultDelete (q : Call) (handle : Nat) (s : State) : Host.Outcome State Fault Refusal :=
  .next (runOp 0x0106 q 0 s fun s =>
    match ownHandle q.f handle with
    | some code => .done (bare code) s
    | none =>
      if vaultNamed s q.f handle then .done (bare stKeyUsageDenied) s
      else if Tbl.has s.key.vault handle then
        .done (bare stOk) (keyEvent q.f handle 9 0 { s with key := { s.key with vault := Tbl.del handle s.key.vault } })
      else .done (bare stOk) s)

/-! ### Reservations (R330) -/

/-- Open reservations of a domain. -/
def openReservations (d : Domain) : Nat := (d.reservations.filter fun r => r.bound.isNone).length

/-- KEY_RESERVE (R330): a handle is allocated and the group key it waits for recorded. -/
def execKeyReserve (q : Call) (kind : Nat) (vault : Bool) (usage ident group : Nat) (s : State) :
    Host.Outcome State Fault Refusal :=
  .next (runOp 0x0107 q 0 s fun s =>
    if kind = 0 ∨ 3 < kind ∨ usage = 0 ∨ 3 < usage ∨ group = 0 then .done (reject 0) s
    else if 256 ≤ openReservations (s.dom q.f) then .done (bare stRefusedFull) s
    else match allocHandle q.f s with
      | none => .done (bare stRefusedFull) s
      | some (h, s1) =>
        .done (okDetail h) (s1.updDom q.f fun d =>
          { d with reservations := d.reservations ++ [{ handle := h, group, ident, kind, usage, vault }] }))

/-- KEY_RESERVE_CANCEL (R330): an open reservation is cancelled. -/
def execKeyReserveCancel (q : Call) (handle : Nat) (s : State) : Host.Outcome State Fault Refusal :=
  .next (runOp 0x0108 q 0 s fun s =>
    match ownHandle q.f handle with
    | some code => .done (bare code) s
    | none =>
      if (s.dom q.f).reservations.any (fun r => r.handle == handle && r.bound.isNone) then
        .done (bare stOk) (s.updDom q.f fun d => { d with reservations := d.reservations.filter fun r => r.handle != handle })
      else .done (reject 0) s)

/-! ### Attestation (R327, R328) -/

/-- KEY_ATTEST (R328): a signed statement for a loaded key. -/
def execKeyAttest (q : Call) (handle : Nat) (challenge : Bytes) (s : State) : Host.Outcome State Fault Refusal :=
  .next (runOp 0x0109 q 0 s fun s =>
    match ownHandle q.f handle with
    | some code => .done (bare code) s
    | none =>
      match s.key? handle with
      | none => .done (bare stKeyNotLoaded) s
      | some k =>
        let len := statementLen (keyBodyLen k.blob.attr.kind)
        if s.key.rootPresent = false then .done (bare stKeyNotLoaded) s
        else if q.hdr.outLen < len then .done { code := stInputRejected, resultLen := len } s
        else .done { code := stOk, resultLen := len, output := statement 2 challenge (keyBody k s) s } s)

/-- DEVICE_ATTEST (R327): a statement for the device, the archive key or the transport key; with kind 1 the DIK
certificate follows. -/
def execDeviceAttest (q : Call) (kind : Nat) (challenge : Bytes) (s : State) : Host.Outcome State Fault Refusal :=
  .next (runOp 0x010A q 4096 s fun s =>
    if kind ≠ 1 ∧ kind ≠ 3 ∧ kind ≠ 4 then .done (reject 0) s
    else
      let body := if kind = 1 then [] else p384Public (if kind = 3 then s.ak else s.dtk)
      let cert := if kind = 1 then s.lcc.dikCert.getD [] else []
      let n := statementLen body.length
      .done { code := stOk, detail := n, resultLen := n + cert.length, output := statement kind challenge body s ++ cert } s)

/-! ### Key events -/

/-- Some active entry names the handle (KEY_CUR or KEY_NEXT). -/
def activeNames (s : State) (h : Nat) : Bool :=
  s.pln.parts.any fun p => p.2.active.any fun c => c.entries.any fun e =>
    e.2.keyCur == h || (e.2.keyNextValid && e.2.keyNext == h)

/-- KEY_LIFETIME_PASSED (R307): NOT_AFTER of a key that an active entry names has passed; one record per loaded key. -/
def execKeyLifetimePassed (handle : Nat) (s : State) : Host.Outcome State Fault Refusal :=
  onMain s <|
  match s.key? handle with
  | none => .next s
  | some k =>
    if k.blob.attr.notAfter ≠ 0 ∧ stampNs k.blob.attr.notAfter ≤ s.sck.now ∧ activeNames s handle
        ∧ s.key.lapsed.contains handle = false then
      .next (raiseEvent .key (handleFn handle) 3 (keyEvent (handleFn handle) handle 5 0
        { s with key := { s.key with lapsed := handle :: s.key.lapsed } }))
    else .next s

/-- Operations that waited for a slot: with the key back their OK reports RECOMPUTED; without it they complete
KEY_NOT_LOADED (R304). -/
def resolveWaiting (back : Bool) : List Nat → State → State
  | [], s => s
  | id :: t, s =>
    resolveWaiting back t (match s.ctx? id with
      | none => s
      | some c => if back then s.setCtx { c with recomputed := true } else finishCtx c (bare stKeyNotLoaded) (dropCtxItems id s))

/-- KEY_SLOT_REPAIR (R304): a slot with a memory error is filled again from the vault, or zeroed and the key is not
loaded. -/
def execKeySlotRepair (handle : Nat) (waiting : List Nat) (s : State) : Host.Outcome State Fault Refusal :=
  onMain s <|
  match s.key? handle with
  | none => .next s
  | some k =>
    if k.faulted = false then .next s
    else
      match Tbl.find? handle s.key.vault with
      | some b =>
        match unwrapped s b with
        | some m => .next (resolveWaiting true waiting (fillSlot b m s))
        | none => .next (resolveWaiting false waiting (raiseEvent .key (handleFn handle) 2
          (keyEvent (handleFn handle) handle 4 0 (dropKey handle s))))
      | none =>
        .next (resolveWaiting false waiting (raiseEvent .key (handleFn handle) 2
          (keyEvent (handleFn handle) handle 4 0 (dropKey handle s))))

/-! ### GDOI (R329 to R332) -/

/-- Replace the reservation of a handle. -/
def bindReservation (h : Nat) (check : Bytes) (l : List Reservation) : List Reservation :=
  l.map fun r => if r.handle = h then { r with bound := some check } else r

/-- A TEK is discarded with its record and flag (R331). -/
def discardTek (f handle : Nat) (s : State) : State := raiseEvent .key f 1 (keyEvent f handle 7 0 s)

/-- The reservation that a TEK's group, key identifier and algorithm match: an open one before a closed one (R330, R331). -/
def tekReservation (group ident kind len : Nat) (l : List Reservation) : Option Reservation :=
  let hit (r : Reservation) : Bool := r.group == group && r.ident == ident && r.kind == kind && kindLenOk kind len
  (l.find? fun r => r.bound.isNone && hit r) <|> l.find? hit

/-- GDOI_PUSH_RECEIVED (R330, R331): a TEK is bound to the open reservation it matches: its blob is sealed with ORIGIN 3,
loaded and with VAULT stored. One that matches none is discarded; at Restrict or above, with the quota full or with no
root it is discarded and the reservation stays open. -/
def execGdoiPushReceived (f group ident kind : Nat) (material : Bytes) (notBefore notAfter : Nat) (s : State) :
    Host.Outcome State Fault Refusal :=
  onMain s <|
  match tekReservation group ident kind material.length (s.dom f).reservations with
  | none => .next (discardTek f 0 s)
  | some r =>
    match r.bound with
    | some check => .next (if check = checkValue material then s else discardTek f r.handle s)
    | none =>
      if 1 ≤ s.level ∨ s.key.rootPresent = false ∨ s.slotsFit f (kindSlots kind) = false ∨ s.rnu.st ≠ .ready
          ∨ (r.vault = true ∧ vaultFits s r.handle (blobLen material.length) = false) then .next s
      else
        let attr : KeyAttr :=
          { kind, origin := 3, usage := r.usage, ident, group, notBefore, notAfter, created := toStamp s.sck.now,
            keyLen := material.length }
        let b := sealBlob r.handle attr material s
        let s2 := installKey b.1 material r.vault b.2
        let s3 := s2.updDom f fun d => { d with reservations := bindReservation r.handle (checkValue material) d.reservations }
        .next (raiseEvent .key f 0 (keyEvent f r.handle 6 0 s3))

/-- GDOI_KDC_PUSH (R332): as key distribution centre the module pushes a loaded TEK of ORIGIN 1 to its group's members at
the lead time before its NOT_BEFORE. Key use stops at Restrict (Table 07-15). -/
def execGdoiKdcPush (handle : Nat) (s : State) : Host.Outcome State Fault Refusal :=
  onMain s <|
  match s.key? handle with
  | none => .next s
  | some k =>
    let a := k.blob.attr
    if a.origin = 1 ∧ a.group ≠ 0 ∧ s.level = 0 ∧ stampNs a.notBefore ≤ s.sck.now + s.key.kdcLead * nsPerSec then
      .next (sendAll 0 (.groupKey handle) 12 s)
    else .next s

end Sys2Proof.Machine
end

