-- ==== Sys2Proof/Machine/Pke.lean ====
section
/-! DEFINITION. The public-key engines: dispatch, phases, aborts and the engine commands (08). -/

namespace Sys2Proof.Machine

/-! ### Engines -/

/-- Engine e is a long engine (Table 08-1). -/
def isLong (e : Nat) : Bool := decide (6 ≤ e)

/-- Engine e exists in the running configuration: PKE0, PKE1, PKE6 and PKE7 in Lupin. -/
def enginePresent (s : State) (e : Nat) : Bool := decide (e < 8) && !(s.pwr.lupin && decide (2 ≤ e) && decide (e ≤ 5))

/-- An engine's state. -/
def State.engine (s : State) (e : Nat) : Engine := Tbl.get {} s.pke.engines e

/-- Replace an engine's state. -/
def State.setEngine (e : Nat) (v : Engine) (s : State) : State :=
  { s with pke := { s.pke with engines := Tbl.put e v s.pke.engines } }

/-- Word products per cycle, longest operand and slots of an engine class (Table 08-1, R341). -/
def classK (long : Bool) : Nat := if long then 16 else 9
def classMaxLen (long : Bool) : Nat := if long then 128 else 9
def classSlots (long : Bool) (l : Nat) : Nat :=
  let n := (if long then 16384 else 4096) / l
  if n < 1024 then n else 1024

/-- The engine's released form: the whole slot memory zero (R343). -/
def Engine.release (e : Engine) : Engine :=
  { e with op := none, phase := .idle, slots := [], sources := [], slotLen := 0, mctx := [], rangeFlag := false,
           curveFlag := false, mask := [], flags := 0, items := [], snap := [], first := none, rep := none }

/-- An engine in service of a class that satisfies `p`, lowest number first. -/
def findEngine (s : State) (long : Bool) (p : Engine → Bool) : Option Nat :=
  (List.range 8).find? fun e => isLong e == long && enginePresent s e && (s.engine e).inService && p (s.engine e)

/-- Give an operation to an engine of its class (R340, R366): one that is idle, else one with room. With none in service it
completes INTEGRITY_LOST; with none free it waits. -/
def placePke (op : PkeOp) (s : State) : OpOut :=
  match findEngine s op.long (fun _ => true) with
  | none => .done (bare stIntegrityLost) (raiseEvent .pke 0 4 s)
  | some _ =>
    match findEngine s op.long (fun e => e.op.isNone && e.next.isNone) with
    | some e => .running (s.setEngine e { s.engine e with next := some op })
    | none =>
      match findEngine s op.long (fun e => e.next.isNone) with
      | some e => .running (s.setEngine e { s.engine e with next := some op })
      | none => .busy

/-- Kinds that Restrict stops when they use a key of a domain (R357). -/
def restrictedKind (kind : Nat) : Bool := [0x01, 0x03, 0x04, 0x05, 0x07, 0x10].contains kind

/-- Dispatch an operation to an engine, after the response level is tested again (R357). -/
def dispatchPke (x : PkeOp) (s : State) : OpOut :=
  if 1 ≤ s.level ∧ x.handle ≠ 0 ∧ restrictedKind x.kind then .done (bare stRestricted) s
  else placePke { x with ctx := x.ctx.orElse fun _ => s.ctxIdFor x.call } s

/-- The SECURITY record of a mismatch, command error, slot abort or service change (08 Registers). -/
def engineRec (e : Nat) (v : Engine) (s : State) : State :=
  securityRec secEngine e ((v.op.map (·.kind)).getD 0) ((v.op.map (·.call.f)).getD 0) s

/-- Give the operation queued at an engine out of service to another engine of its class (R366). DESIGN CHOICE: where none has room it
stays, and the next engine of the class that is idle takes it. -/
def moveQueued (e : Nat) (s : State) : State :=
  let v := s.engine e
  match v.next with
  | none => s
  | some op =>
    if v.inService then s
    else match placePke op (s.setEngine e { v with next := none }) with
      | .running s1 => s1
      | .done comp s1 => lateComplete op.call op.ctx comp s1
      | _ => s

/-- Give on what the engines out of service hold queued. -/
def moveAllQueued : List Nat → State → State
  | [], s => s
  | e :: t, s => moveAllQueued t (moveQueued e s)

/-- An engine's service state changes: the event and the SECURITY record (08 Registers). -/
def setService (e : Nat) (on : Bool) (s : State) : State :=
  let s1 := engineRec e (s.engine e) (raiseEvent .pke 0 (if on then 3 else 2) s)
  s1.setEngine e { s1.engine e with inService := on }

/-- An engine leaves service: queued operations go to other engines of the class (R366). -/
def leaveService (e : Nat) (s : State) : State :=
  if (s.engine e).inService then moveAllQueued (List.range 8) (setService e false s) else s

/-- Abort the running operation of an engine and report it with a status (R368). -/
def abortEngine (e code : Nat) (s : State) : State :=
  let v := s.engine e
  match v.op with
  | none => s
  | some op => if v.phase = .aborted then s else lateComplete op.call op.ctx (bare code) (s.setEngine e v.abort)

/-- A mismatch or a command error: INTEGRITY_LOST, the count, the alarm, and the engine leaves service (R365, R366). -/
def engineFault (e sub : Nat) (s : State) : State :=
  let v := s.engine e
  let s1 := engineRec e v (abortEngine e stIntegrityLost s)
  let s2 := s1.setEngine e { s1.engine e with mismatches := satTo 0xFFFF (v.mismatches + 1) }
  let s3 := if sub = 1 then raiseEvent .pke 0 0 s2 else s2
  leaveService e (raiseLogic sub (7 + e) e 0 s3)

/-- Causes of an abort (Table 08-13, Table 14-6): 0 function-level reset, 1 core declared dead, 2 slot memory error,
3 command error, 4 Quench, 5 access denied. -/
def abortBy (e cause : Nat) (s : State) : State :=
  match cause with
  | 0 => abortEngine e stSquashed s
  | 1 => if (s.engine e).op.isNone then s else s.setEngine e (s.engine e).abort
  | 2 =>
    let v := s.engine e
    if v.op.isNone then s
    else
      let s1 := engineRec e v (abortEngine e stIntegrityLost s)
      raiseEvent .pke 0 1 (s1.setEngine e { s1.engine e with slotErrors := satTo 0xFFFF (v.slotErrors + 1) })
  | 3 => if (s.engine e).op.isNone then s else engineFault e 2 s
  | 4 => abortEngine e stAborted s
  | _ => abortEngine e stIntegrityLost s

/-- PKE_ABORT (R367, R368): the running operation of an engine is aborted. -/
def execPkeAbort (engine cause : Nat) (s : State) : Host.Outcome State Fault Refusal :=
  onMain s <| .next (abortBy engine cause s)

/-- PKE_ABORT_RELEASE (R369): the source slots are zeroed and the engine is released. -/
def execPkeAbortRelease (engine : Nat) (s : State) : Host.Outcome State Fault Refusal :=
  onMain s <|
  if (s.engine engine).phase = .aborted then .next (s.setEngine engine (s.engine engine).release) else .next s

/-! ### Phases of an operation (R342, R360, R364) -/

/-- Write the caller's inputs into their slots. -/
def prepare (op : PkeOp) (e : Engine) : Engine :=
  { e.release with op := some op, next := e.next, phase := .validation, slotLen := op.slotLen,
                   sources := op.sources.map (·.1), slots := op.sources.foldl (fun t x => Tbl.put x.1 x.2 t) [] }

/-- Take the operation queued at engine `e` off it. -/
def takeQueued (e : Nat) (s : State) : State := s.setEngine e { s.engine e with next := none }

/-- The engine whose queue an idle engine serves: its own, else that of one of its class out of service (R366). -/
def queueFor (e : Nat) (s : State) : Option Nat :=
  (e :: (List.range 8).filter fun x => isLong x == isLong e && !(s.engine x).inService).find? fun x => (s.engine x).next.isSome

/-- PKE_OPERATION_START (R340, R342): the queued operation starts on an engine in service and its inputs are written into the source
slots. -/
def execPkeOperationStart (engine : Nat) (s : State) : Host.Outcome State Fault Refusal :=
  onMain s <|
  let v := s.engine engine
  if v.inService = false ∨ v.op.isSome then .next s
  else match queueFor engine s with
    | none => .next s
    | some x =>
      match (s.engine x).next with
      | none => .next s
      | some op =>
        let s1 := takeQueued x s
        .next (s1.setEngine engine (prepare op (s1.engine engine)))

/-- A refusal at the end of validation: integers before the point (R360). -/
def validationCode (op : PkeOp) (e : Engine) : Option Nat :=
  op.refuse.orElse fun _ => if e.rangeFlag then some stInputRejected else if e.curveFlag then some stNotOnCurve else none

/-- Square the blinding pair of an RSA key before a run (R353). -/
def squareBlind (op : PkeOp) (s : State) : State :=
  match s.key? op.handle with
  | none => s
  | some k =>
    if op.kind = 0x10 then
      { s with key := { s.key with keys := Tbl.put op.handle { k with blind := blindSquare (rsaKey k.material).n k.blind } s.key.keys } }
    else s

/-- End the validation of an engine's operation: refused with the whole slot memory zero, or the first run begins under the first
randomization (R364). -/
def endValidation (e : Nat) (s : State) : State :=
  let v := s.engine e
  match v.op with
  | none => s
  | some op =>
    if v.phase ≠ .validation then s
    else match validationCode op v with
      | some code => lateComplete op.call op.ctx { code, detail := op.rejectDetail } (s.setEngine e v.release)
      | none => squareBlind op (s.setEngine e { v with phase := .main1, snap := v.slots, mask := op.mask1 })

/-- PKE_VALIDATION_END (R360). -/
def execPkeValidationEnd (engine : Nat) (s : State) : Host.Outcome State Fault Refusal :=
  onMain s <| .next (endValidation engine s)

/-- The lowest free curve number of a function (R370). -/
def freeCurve (s : State) (f : Nat) : Option Nat :=
  (List.range 8).find? fun i => !Tbl.has s.pke.curves (f * 256 + (0x80 + i))

/-- Release the completion of an operation whose runs are equal; an accepted curve is stored (R372). -/
def releaseOp (op : PkeOp) (s : State) : State :=
  match op.curve with
  | none => lateComplete op.call op.ctx op.comp s
  | some c =>
    if op.comp.code ≠ stOk then lateComplete op.call op.ctx op.comp s
    else match freeCurve s op.call.f with
      | none => lateComplete op.call op.ctx (bare stRefusedFull) s
      | some i =>
        lateComplete op.call op.ctx (okDetail (0x80 + i))
          { s with pke := { s.pke with curves := Tbl.put (op.call.f * 256 + (0x80 + i)) c s.pke.curves } }

/-- The two runs differ: an upset, or compare buffers that are not equal. -/
def runsDiffer (e : Engine) (upset : Bool) : Bool :=
  upset || (e.phase == .finish && e.first.any fun f => f != (e.flags, e.items))

/-- PKE_OPERATION_FINISH (R364, R365): equal outputs are released and the engine's memory is zero; different ones release
nothing. -/
def execPkeOperationFinish (engine : Nat) (upset : Bool) (s : State) : Host.Outcome State Fault Refusal :=
  onMain s <|
  let v := s.engine engine
  match v.op with
  | none => .next s
  | some op =>
    if v.phase = .main1 ∨ v.phase = .main2 ∨ v.phase = .finish then
      let s1 := if v.phase = .main1 then squareBlind op s else s
      if runsDiffer v upset then .next (engineFault engine 1 s1)
      else .next (releaseOp op (s1.setEngine engine v.release))
    else .next s

/-! ### Engine commands (R344 to R347) -/

/-- Opcodes of Table 08-5. -/
def cSetmod : Nat := 0x01
def cLoadkey : Nat := 0x02
def cStore : Nat := 0x03
def cMmul : Nat := 0x04
def cMadd : Nat := 0x05
def cMsub : Nat := 0x06
def cMac : Nat := 0x07
def cCswap : Nat := 0x08
def cTsel : Nat := 0x09
def cCopy : Nat := 0x0A
def cSetc : Nat := 0x0B
def cCheck : Nat := 0x0C
def cPcheck : Nat := 0x0D
def cEq : Nat := 0x0E
def cEndv : Nat := 0x0F
def cRepeat : Nat := 0x10
def cEnd : Nat := 0x11

/-- Slots a command uses. -/
def usedSlots (c : PkeCmd) : List Nat :=
  if c.op = cSetmod ∨ c.op = cStore ∨ c.op = cCheck then [c.a]
  else if c.op = cLoadkey ∨ c.op = cSetc then [c.dst]
  else if c.op = cMmul ∨ c.op = cMadd ∨ c.op = cMsub ∨ c.op = cMac ∨ c.op = cCswap then [c.dst, c.a, c.b]
  else if c.op = cTsel then [c.dst, c.a + 15, c.b]
  else if c.op = cCopy then [c.dst, c.a]
  else if c.op = cPcheck then [c.dst + 1, c.a, c.b]
  else if c.op = cEq then [c.a, c.b]
  else []

/-- The command works under its modulus context. -/
def usesModulus (c : PkeCmd) : Bool :=
  [cMmul, cMadd, cMsub, cCheck, cPcheck].contains c.op || (c.op == cSetc && decide (2 ≤ c.bit))

/-- A command error of R347; `bound` tells which modulus contexts a SETMOD has set. -/
def cmdError (long : Bool) (l : Nat) (bound : Nat → Bool) (c : PkeCmd) : Bool :=
  c.op == 0 || decide (cEnd < c.op) || c.len == 0 || decide (l < c.len) || (usedSlots c).any (fun i => decide (classSlots long l ≤ i))
    || (usesModulus c && !bound c.mctx) || c.res != 0 || (c.op == cMac && decide (l < 2 * c.len))

/-- The inverse of ρ = 2^(64 × LEN) modulo an odd m. -/
def rhoInv (m len : Nat) : Nat := powMod m 14 ((m + 1) / 2) (64 * len)

/-- A slot's low LEN words. -/
def Engine.word (e : Engine) (i len : Nat) : Nat := Tbl.get 0 e.slots i % 2 ^ (64 * len)

/-- Write a slot. -/
def Engine.setSlot (e : Engine) (i v : Nat) : Engine := { e with slots := Tbl.put i v e.slots }

/-- Modulus of a context. -/
def Engine.modulus (e : Engine) (i : Nat) : Nat := (Tbl.get (0, 0) e.mctx i).1

/-- A result modulo m: a free value where the modulus is even, since the spec gives constants only for an odd one. -/
def modResult (m free v : Nat) : Nat := if m % 2 = 1 then v % m else free

/-- Run one computing command (Table 08-5). `material` is the operation's key, `free` a free value for what the spec
leaves open. -/
def runCmd (material : Bytes) (free : Nat) (c : PkeCmd) (e : Engine) : Engine :=
  let m := e.modulus c.mctx
  let a := e.word c.a c.len
  let b := e.word c.b c.len
  match c.op with
  | 0x01 => { e with mctx := Tbl.put c.mctx (a, c.len) e.mctx }
  | 0x02 => e.setSlot c.dst ((keyItem material c.bit).getD free)
  | 0x03 => { e with items := Tbl.put c.bit a e.items }
  | 0x04 => e.setSlot c.dst (modResult m free (a * b * rhoInv m c.len))
  | 0x05 => e.setSlot c.dst (modResult m free (a + b))
  | 0x06 => e.setSlot c.dst (modResult m free (a + (m - b % m)))
  | 0x07 => e.setSlot c.dst ((e.word c.dst (2 * c.len) + a * b) % 2 ^ (128 * c.len))
  | 0x08 => if (Tbl.get 0 e.slots c.dst).testBit c.bit then (e.setSlot c.a b).setSlot c.b a else (e.setSlot c.a a).setSlot c.b b
  | 0x09 => e.setSlot c.dst (e.word (c.a + fieldOf (Tbl.get 0 e.slots c.b) (c.bit + 3) c.bit) c.len)
  | 0x0A => e.setSlot c.dst a
  | 0x0B =>
    let rho := 2 ^ (64 * c.len)
    e.setSlot c.dst (if c.bit = 0 then 0 else if c.bit = 1 then 1 else if c.bit = 2 then modResult m free rho
      else if c.bit = 3 then modResult m free (rho * rho) else free)
  | 0x0C => if 2 ≤ a ∧ a + 1 ≤ m then e else { e with rangeFlag := true }
  | 0x0D =>
    if onCurve c.bit m (e.word c.dst c.len) (e.word (c.dst + 1) c.len) a b then e else { e with curveFlag := true }
  | 0x0E => { e with flags := if a = b then e.flags ||| 2 ^ (c.bit % 64) else e.flags - (e.flags &&& 2 ^ (c.bit % 64)) }
  | _ => e

/-- A command at repetition `k`: BIT is lowered by 1 at each under BITSTEP. -/
def atRep (c : PkeCmd) (k : Nat) : PkeCmd := if c.bitstep then { c with bit := c.bit - k } else c

/-- Run a list of commands at repetition `k`. -/
def runList (material : Bytes) (free k : Nat) : List PkeCmd → Engine → Engine
  | [], e => e
  | c :: t, e => runList material free k t (runCmd material free (atRep c k) e)

/-- Run the repetitions `k`, …, `k + n − 1` of a list. -/
def runReps (material : Bytes) (free : Nat) (l : List PkeCmd) : (n k : Nat) → Engine → Engine
  | 0, _, e => e
  | n + 1, k, e => runReps material free l n (k + 1) (runList material free k l e)

/-- Take one computing command: run it, and under REPEAT note it; the last of a range brings the further repetitions. -/
def takeCmd (material : Bytes) (free : Nat) (c : PkeCmd) (e : Engine) : Engine :=
  match e.rep with
  | none => runCmd material free c e
  | some (left, times, seen) =>
    let e1 := if times = 0 then e else runCmd material free c e
    if left ≤ 1 then runReps material free (c :: seen).reverse (times - 1) 1 { e1 with rep := none }
    else { e1 with rep := some (left - 1, times, c :: seen) }

/-- The engine runs commands in this phase. -/
def Engine.running (e : Engine) : Bool := e.op.isSome && (e.phase == .validation || e.phase == .main1 || e.phase == .main2)

/-- Run one command on an engine (R345 to R347): a command error aborts the operation as a logic fault. -/
def runOn (e op : Nat) (c0 : PkeCmd) (s : State) : State :=
  let v := s.engine e
  let c := { c0 with op }
  if v.running = false then s
  else if cmdError (isLong e) v.slotLen (Tbl.has v.mctx) c || (op == cRepeat && v.rep.isSome) then engineFault e 2 s
  else
    let a := freshValue s
    let m := (v.op.map (·.material)).getD []
    a.2.setEngine e (takeCmd m a.1.toNat c v)

/-- SETMOD (Table 08-5). -/
def execPkeSetmod (engine : Nat) (c : PkeCmd) (s : State) : Host.Outcome State Fault Refusal :=
  onMain s <| .next (runOn engine cSetmod c s)
/-- LOADKEY (Table 08-5). -/
def execPkeLoadkey (engine : Nat) (c : PkeCmd) (s : State) : Host.Outcome State Fault Refusal :=
  onMain s <| .next (runOn engine cLoadkey c s)
/-- STORE (Table 08-5). -/
def execPkeStore (engine : Nat) (c : PkeCmd) (s : State) : Host.Outcome State Fault Refusal :=
  onMain s <| .next (runOn engine cStore c s)
/-- MMUL (Table 08-5). -/
def execPkeMmul (engine : Nat) (c : PkeCmd) (s : State) : Host.Outcome State Fault Refusal :=
  onMain s <| .next (runOn engine cMmul c s)
/-- MADD (Table 08-5). -/
def execPkeMadd (engine : Nat) (c : PkeCmd) (s : State) : Host.Outcome State Fault Refusal :=
  onMain s <| .next (runOn engine cMadd c s)
/-- MSUB (Table 08-5). -/
def execPkeMsub (engine : Nat) (c : PkeCmd) (s : State) : Host.Outcome State Fault Refusal :=
  onMain s <| .next (runOn engine cMsub c s)
/-- MAC (Table 08-5). -/
def execPkeMac (engine : Nat) (c : PkeCmd) (s : State) : Host.Outcome State Fault Refusal :=
  onMain s <| .next (runOn engine cMac c s)
/-- CSWAP (Table 08-5). -/
def execPkeCswap (engine : Nat) (c : PkeCmd) (s : State) : Host.Outcome State Fault Refusal :=
  onMain s <| .next (runOn engine cCswap c s)
/-- TSEL (Table 08-5). -/
def execPkeTsel (engine : Nat) (c : PkeCmd) (s : State) : Host.Outcome State Fault Refusal :=
  onMain s <| .next (runOn engine cTsel c s)
/-- COPY (Table 08-5). -/
def execPkeCopy (engine : Nat) (c : PkeCmd) (s : State) : Host.Outcome State Fault Refusal :=
  onMain s <| .next (runOn engine cCopy c s)
/-- SETC (Table 08-5). -/
def execPkeSetc (engine : Nat) (c : PkeCmd) (s : State) : Host.Outcome State Fault Refusal :=
  onMain s <| .next (runOn engine cSetc c s)
/-- CHECK (Table 08-5). -/
def execPkeCheck (engine : Nat) (c : PkeCmd) (s : State) : Host.Outcome State Fault Refusal :=
  onMain s <| .next (runOn engine cCheck c s)
/-- PCHECK (Table 08-5). -/
def execPkePcheck (engine : Nat) (c : PkeCmd) (s : State) : Host.Outcome State Fault Refusal :=
  onMain s <| .next (runOn engine cPcheck c s)
/-- EQ (Table 08-5). -/
def execPkeEq (engine : Nat) (c : PkeCmd) (s : State) : Host.Outcome State Fault Refusal :=
  onMain s <| .next (runOn engine cEq c s)

/-- ENDV (R346): the validation ends; the operation stops if a flag is set and goes on otherwise. -/
def execPkeEndv (engine : Nat) (c : PkeCmd) (s : State) : Host.Outcome State Fault Refusal :=
  onMain s <|
  let v := s.engine engine
  if v.running = false then .next s
  else if cmdError (isLong engine) v.slotLen (Tbl.has v.mctx) { c with op := cEndv } then .next (engineFault engine 2 s)
  else .next (endValidation engine s)

/-- REPEAT (R345): the next SRC_A commands run BIT times. -/
def execPkeRepeat (engine : Nat) (c : PkeCmd) (s : State) : Host.Outcome State Fault Refusal :=
  onMain s <|
  let v := s.engine engine
  if v.running = false then .next s
  else if cmdError (isLong engine) v.slotLen (Tbl.has v.mctx) { c with op := cRepeat } || v.rep.isSome then
    .next (engineFault engine 2 s)
  else if c.a = 0 then .next s
  else .next (s.setEngine engine { v with rep := some (c.a, c.bit, []) })

/-- END (R364): the first run ends with its outputs in the compare buffer and the second starts from the same slots; the
second ends in the finish phase. -/
def execPkeEnd (engine : Nat) (c : PkeCmd) (s : State) : Host.Outcome State Fault Refusal :=
  onMain s <|
  let v := s.engine engine
  if v.running = false then .next s
  else if cmdError (isLong engine) v.slotLen (Tbl.has v.mctx) { c with op := cEnd } then .next (engineFault engine 2 s)
  else match v.op, v.phase with
    | some op, .main1 =>
      .next (squareBlind op (s.setEngine engine { v with
        phase := .main2, first := some (v.flags, v.items), slots := v.snap, flags := 0, items := [], mask := op.mask2 }))
    | _, .main2 => .next (s.setEngine engine { v with phase := .finish })
    | _, _ => .next s

end Sys2Proof.Machine
end

