-- ==== Sys2Proof/Machine/Access.lean ====
section
/-! DEFINITION. The access checker: how an access is decided, what a denial brings, and updates of the rules (14). -/

namespace Sys2Proof.Machine

/-! ### The internal address map (Tables 14-1, 14-4) -/

/-- Bytes of the SRAM. -/
def sramSize : Nat := 0x08000000

/-- First byte of each SRAM region after the first, with the region's index. -/
def regionStarts : List (Nat × Nat) :=
  [(0x07CE0000, 12), (0x07CA0000, 11), (0x07C90000, 10), (0x07C20000, 9), (0x07C00000, 8), (0x07800000, 7),
   (0x07000000, 6), (0x06C00000, 5), (0x06000000, 4), (0x05000000, 3), (0x04000000, 2), (0x02000000, 1), (0, 0)]

/-- SRAM region of an address (Table 14-4). -/
def sramRegion (a : Nat) : Option Nat :=
  if a < sramSize then (regionStarts.find? fun x => decide (x.1 ≤ a)).map (·.2) else none

/-- The configuration store's addresses. -/
def inConfig (a : Nat) : Bool := decide (0x10000000 ≤ a) && decide (a < 0x10800000)

/-- Peripheral slot of an address. -/
def slotOfAddr (a : Nat) : Option Nat :=
  if 0x20000000 ≤ a ∧ a < 0x20400000 then some ((a - 0x20000000) / 65536) else none

/-! ### The decision (R557 to R559) -/

/-- An enabled region covers the address in a sub-region whose bit is 1. -/
def Region.covers (r : Region) (a : Nat) : Bool :=
  r.enable && decide (r.base ≤ a) && decide (a < r.base + 2 ^ r.sizeExp) && r.sub.testBit ((a - r.base) / 2 ^ (r.sizeExp - 3))

/-- The highest-numbered region that covers the address. -/
def deciding (a : Nat) : Tbl Region → Option Region
  | [] => none
  | (_, r) :: t =>
    match deciding a t with
    | some x => some x
    | none => if r.covers a then some r else none

/-- The masks of a peripheral slot: slot 18 grants write to group 3 alone; slots 26 to 63 deny (R557). -/
def slotMasks (t : AccessTable) (n : Nat) : Nat × Nat :=
  let m := Tbl.get (0, 0) t.slots n
  if n = 18 then (m.1, 8) else if 26 ≤ n then (0, 0) else m

/-- The decision of the access table (R559). -/
def tableGrants (t : AccessTable) (group a : Nat) (write : Bool) : Bool :=
  match slotOfAddr a with
  | some n => (if write then (slotMasks t n).2 else (slotMasks t n).1).testBit group
  | none =>
    if (sramRegion a).isSome || inConfig a then
      match deciding a t.regions with
      | some r => (if write then r.write else r.read).testBit group
      | none => false
    else false

/-- The fixed rules of group 0 (Table 14-2): plan store, pad store, key cache for reading, staging for writing. -/
def lineGrants (a : Nat) (write : Bool) : Bool :=
  match sramRegion a with
  | some 0 | some 2 => true
  | some 5 => !write
  | some 6 => write
  | _ => false

/-- Regions that a debug token's scope lets group 13 read (Table 16-6). -/
def scopeReads (scope region : Nat) : Bool :=
  (scope.testBit 0 && region == 12) || (scope.testBit 1 && region == 4)
    || (scope.testBit 2 && [0, 1, 6, 7, 10, 11, 12].contains region) || scope.testBit 3

/-- The grants of group 13: the token in force, as the updates of R640 put them in and take them out. -/
def debugGrants (s : State) (a : Nat) (write : Bool) : Bool :=
  match s.lcc.token, sramRegion a with
  | some t, some r => !write && scopeReads t.scope r
  | _, _ => false

/-- An access whose first byte is at `a` is granted (R559, R561, Table 14-2). -/
def grants (s : State) (x : Access) (a : Nat) : Bool :=
  if x.group = 0 then lineGrants a x.write
  else if x.group = 11 then x.write && x.zero && (sramRegion a).isSome
  else if x.group = 13 then debugGrants s a x.write
  else if 14 ≤ x.group then false
  else tableGrants s.ac.table x.group a x.write

/-! ### Denials (R565, Table 14-6) -/

/-- Peripheral slot of the block that makes a group's accesses. -/
def groupBlock (x : Access) : Nat :=
  match x.group with
  | 4 | 5 => 7 + x.engine.getD 0
  | 6 => 15 | 7 => 22 | 8 => 16 | 9 => 17 | 10 => 6 | 12 => 20
  | _ => 18

/-- The journal entry of a group's first denial within a second of RTC time. -/
def journalDenial (x : Access) (a : Nat) (s : State) : State :=
  let recent := (Tbl.find? x.group s.ac.deniedAt).any fun t => decide (s.sck.rtcCount < t + 32768)
  if recent then s
  else
    raiseAlarm causeDenied (if x.group = 2 ∨ x.group = 3 then x.core else 0)
      (x.group + 256 * x.core + 65536 * b2n x.write + 2 ^ 32 * a)
      { s with ac := { s.ac with deniedAt := Tbl.put x.group s.sck.rtcCount s.ac.deniedAt } }

/-- An item ends on its second denial: a host entry completes INTEGRITY_LOST, any other is dropped with a record. -/
def endDenied (i : WorkItem) (s : State) : State :=
  let s1 := dropItem i.id s
  match i.kind with
  | .ctx id => match s1.ctx? id with
    | some c => finishCtx c (bare stIntegrityLost) s1
    | none => s1
  | .packet q => securityRec secItemDropped i.id i.group 0 (freePacket q i.id s1)
  | _ => securityRec secItemDropped i.id i.group 0 s1

/-- A denied core is reset and its item re-dispatched, or ended on its second denial. -/
def denyCore (core : Nat) (s : State) : State :=
  match (s.coreRt core).item.bind s.item? with
  | none => failCore core none 0 0 s
  | some i =>
    if 1 ≤ i.denials then failCore core none 0 0 (endDenied i s)
    else
      failCore core none 0 0 (redispatch i.id
        { s with ts := { s.ts with items := putItem { i with denials := i.denials + 1 } s.ts.items } })

/-- What a denial brings to its initiator (Table 14-6). -/
def denyConsequence (x : Access) (a : Nat) (s : State) : State :=
  if x.group = 2 ∨ x.group = 3 then denyCore x.core s
  else if x.group = 1 then
    match x.ctx.bind s.ctx? with
    | some c => finishCtx c (bare stIntegrityLost) (leaveCore c.id s)
    | none => s
  else if (4 ≤ x.group ∧ x.group ≤ 10) ∨ x.group = 12 then
    let s1 := match x.engine with
      | some e => abortBy e 5 s
      | none => s
    raiseLogic 3 (groupBlock x) x.group a s1
  else s

/-- A denied piece: counted, recorded if no record stands, journalled, and its consequence. -/
def deny (x : Access) (a : Nat) (s : State) : State :=
  let ac := { s.ac with denyCount := satTo max32 (s.ac.denyCount + 1),
                        record := if s.ac.record.isSome then s.ac.record else some (a, x.group, x.write, x.core) }
  denyConsequence x a (journalDenial x a (raiseEvent .ac 0 0 { s with ac }))

/-! ### Accesses (R530, R561 to R564, R566) -/

/-- Pieces of a burst: it is split at each 4 KB boundary it crosses (R562). -/
def pieces : (fuel addr len : Nat) → List (Nat × Nat)
  | 0, _, _ => []
  | n + 1, a, len =>
    let room := 4096 - a % 4096
    if len = 0 then [] else if len ≤ room then [(a, len)] else (a, room) :: pieces n (a + room) (len - room)

/-- A core's access carries a retired epoch: its item has another, or the core holds none. -/
def staleAccess (s : State) (x : Access) : Bool :=
  (x.group == 2 || x.group == 3) &&
    (match (s.coreRt x.core).item.bind s.item? with
     | some i => i.epoch != x.epoch
     | none => x.group == 2 || (s.coreRt x.core).st != .waiting)

/-- The pieces in address order: each granted or denied on its own first byte (R564). The rest of a burst whose core has
been reset is stale. -/
def runPieces (x : Access) : List (Nat × Nat) → State → State
  | [], s => s
  | (a, n) :: t, s =>
    if staleAccess s x then (if x.write then staleWrite x.core s else s)
    else
      let ok := grants s x a
      let s1 := emit (.access x.group a n ok) s
      runPieces x t (if ok then s1 else deny x a s1)

/-- An access that is not held. -/
def accessNow (x : Access) (s : State) : State := runPieces x (pieces (x.len / 4096 + 2) x.addr x.len) s

/-- Groups whose accesses an open update holds (R566). -/
def isHeld (s : State) (x : Access) : Bool := s.ac.upd.any fun u => u.mask.testBit x.group

/-- An access arrives: held while an update names its group, decided otherwise. -/
def access (x : Access) (s : State) : State :=
  if isHeld s x then { s with ac := { s.ac with held := s.ac.held ++ [x] } } else accessNow x s

/-- INTERNAL_ACCESS (R559). -/
def execInternalAccess (a : Access) (s : State) : Host.Outcome State Fault Refusal :=
  onMain s <|
  if a.group < 16 ∧ 0 < a.len then .next (access a s) else .next s

/-! ### Updates of the rules (R566 to R569) -/

/-- Groups an update may name: 1 to 13 other than 11. -/
def updateMask : Nat := 0x37FE

/-- The accesses that were held are checked in order of arrival. -/
def runHeld : List Access → State → State
  | [], s => s
  | x :: t, s => runHeld t (access x s)

/-- The next opening that waits takes effect (R568). -/
def openWaiting (s : State) : State :=
  { s with ac := { s.ac with upd := s.ac.waiting.head?.map fun u => { u with since := s.sck.now }, waiting := s.ac.waiting.drop 1,
                             shadow := s.ac.table } }

/-- The open update has ended: the held accesses are checked under the table as it now stands (R567), then the next opening that waits
takes effect. -/
def afterUpdate (s : State) : State :=
  openWaiting (runHeld s.ac.held { s with ac := { s.ac with upd := none, held := [] } })

/-- AC_UPDATE_OPEN (R566): a privileged core opens an update for a mask of groups; a second one waits (R568). -/
def execAcUpdateOpen (mask core epoch : Nat) (s : State) : Host.Outcome State Fault Refusal :=
  onMain s <|
  if (mask &&& updateMask) ≠ mask then .next s
  else if staleAccess s { group := 3, core, epoch, addr := 0, len := 1, write := true } then .next (staleWrite core s)
  else
    let u : Update := { mask, core, epoch, since := s.sck.now }
    match s.ac.upd with
    | some _ => .next { s with ac := { s.ac with waiting := s.ac.waiting ++ [u] } }
    | none => .next { s with ac := { s.ac with upd := some u, shadow := s.ac.table } }

/-- An entry keeps the rule of R558. -/
def Region.ok (r : Region) : Bool :=
  !r.enable || (decide (15 ≤ r.sizeExp) && decide (r.sizeExp ≤ 27) && r.base % 2 ^ r.sizeExp == 0)

/-- A written entry is accepted: not slot 18, not over a locked region, and R558 holds. -/
def writeOk (t : AccessTable) : RuleWrite → Bool
  | .slot n _ _ => n != 18 && decide (n < 64)
  | .region n e => decide (n < 64) && (Region.ofEntry e).ok && !(Tbl.get {} t.regions n).lock

/-- Write an entry into the shadow copy. -/
def applyWrite (t : AccessTable) : RuleWrite → AccessTable
  | .slot n r w => { t with slots := Tbl.put n (r % 65536, w % 65536) t.slots }
  | .region n e => { t with regions := Tbl.put n (Region.ofEntry e) t.regions }

/-- The opening core's epoch has been retired (R532). -/
def updateRetired (s : State) (u : Update) : Bool :=
  staleAccess s { group := 3, core := u.core, epoch := u.epoch, addr := 0, len := 1, write := true }

/-- An update is aborted: 100 µs have passed since its opening, or the core's epoch is retired (R568). -/
def updateOver (s : State) (u : Update) : Bool := updateRetired s u || decide (u.since + 100000 ≤ s.sck.now)

/-- Abort an update (R568): the shadow copy is discarded, a journal entry is written and UPDATE_ABORTED is set. -/
def abortUpdate (u : Update) (s : State) : State :=
  let data := u.mask % 65536 + 65536 * (u.core % 256) + 2 ^ 24 * (if updateRetired s u then 2 else 1)
  afterUpdate (raiseEvent .ac 0 5 (raiseAlarm causeUpdateAborted u.core data s))

/-- AC_UPDATE_CLOSE (R567): the written entries are checked and the shadow copy becomes the table, or the old rules stay and
UPDATE_REFUSED is set. A closed update goes into the rule image (R569). An update that is over is aborted instead. -/
def execAcUpdateClose (writes : List RuleWrite) (s : State) : Host.Outcome State Fault Refusal :=
  onMain s <|
  match s.ac.upd with
  | none => .next s
  | some u =>
    if updateOver s u then .next (abortUpdate u s)
    else if writes.all (writeOk s.ac.table) then
      let t := writes.foldl applyWrite s.ac.shadow
      .next (afterUpdate { s with ac := { s.ac with table := t, image := some t } })
    else .next (afterUpdate (raiseEvent .ac 0 4 s))

/-- AC_UPDATE_TIMEOUT (R568): an update not closed within 100 µs, or whose core's epoch is retired, is aborted. -/
def execAcUpdateTimeout (s : State) : Host.Outcome State Fault Refusal :=
  onMain s <|
  match s.ac.upd with
  | none => .next s
  | some u => if updateOver s u then .next (abortUpdate u s) else .next s

/-- DENY_RECORD_READ (R695): a read of AC_DENY_RECORD0 returns the address and clears the record. -/
def execDenyRecordRead (s : State) : Host.Outcome State Fault Refusal :=
  viaBar 0 s <|
  let a := (s.ac.record.map (·.1)).getD 0
  .next (emit (.read 0 0x5008 a) { s with ac := { s.ac with record := none } })

end Sys2Proof.Machine
end

