-- ==== Sys2Proof/Machine/Temper.lean ====
section
/-! DEFINITION. Temper messages: their checks in the order of Table 07-10 and the effect of each command (07). -/

namespace Sys2Proof.Machine

/-- Code of a command (Table 07-9). -/
def temperCode : TemperCmd → Nat
  | .unknown => 0
  | .provision => 0x0001
  | .reprovision => 0x0002
  | .enrol .. => 0x0010
  | .revoke .. => 0x0011
  | .createDomain .. => 0x0020
  | .deleteDomain .. => 0x0021
  | .importKey .. => 0x0030
  | .setMigrationKey .. => 0x0031
  | .advanceEpoch => 0x0032
  | .setGenFloor .. => 0x0040
  | .clearRestrict => 0x0050

/-! ### The message as it arrives (R316 to R318) -/

/-- The attributes that IMPORT_KEY gives a key (Table 07-9). -/
def importAttr (b : Bytes) : KeyAttr :=
  { kind := leAt b 0 1, origin := leAt b 1 1, migratable := bitOf (leAt b 2 2) 0, usage := leAt b 4 4, ident := leAt b 8 4,
    group := leAt b 0x0C 4, notBefore := leAt b 0x10 8, notAfter := leAt b 0x18 8, keyLen := leAt b 0x20 2 }

/-- A command by its code and body (Table 07-9). -/
def commandOf (code : Nat) (b : Bytes) : TemperCmd :=
  let n := b.length
  match code with
  | 0x0001 => if n = 0 then .provision else .unknown
  | 0x0002 => if n = 0 then .reprovision else .unknown
  | 0x0010 => if n = 100 then .enrol (leAt b 0 1) (leAt b 1 1) (leAt b 2 2) (b.drop 4) else .unknown
  | 0x0011 => if n = 36 then .revoke (leAt b 0 1) (leAt b 1 3) (beNat (b.drop 4)) else .unknown
  | 0x0020 => if n = 20 then .createDomain (leAt b 0 1) (leAt b 1 3) (beNat (b.drop 4)) else .unknown
  | 0x0021 => if n = 4 then .deleteDomain (leAt b 0 1) (leAt b 1 3) else .unknown
  | 0x0030 =>
    if 0x24 ≤ n ∧ n = 0x24 + (leAt b 0x20 2 + 3) / 4 * 4 then
      .importKey (importAttr b) (leAt b 2 2 / 2 + leAt b 0x22 2 + sumFrom b (0x24 + leAt b 0x20 2)) ((b.drop 0x24).take (leAt b 0x20 2))
    else .unknown
  | 0x0031 => if n = 36 then .setMigrationKey (leAt b 0 4) (b.drop 4) else .unknown
  | 0x0032 => if n = 0 then .advanceEpoch else .unknown
  | 0x0040 => if n = 8 then .setGenFloor (leAt b 0 4) (leAt b 4 4) else .unknown
  | 0x0050 => if n = 0 then .clearRestrict else .unknown
  | _ => .unknown

/-- The commands of a plaintext, CMD_COUNT of them (R318). DESIGN CHOICE: where they do not fill the plaintext exactly, the last one
counts as one of a wrong body length. -/
def commandsOf : (n : Nat) → Bytes → List TemperCmd
  | 0, _ => []
  | n + 1, l =>
    let len := leAt l 2 2
    let rest := l.drop (4 + len)
    let whole := decide (4 + len ≤ l.length) && len % 4 == 0 && !(n == 0 && !rest.isEmpty)
    (if whole then commandOf (leAt l 0 2) ((l.drop 4).take len) else .unknown) :: commandsOf n rest

/-- Bytes 0x000 to 0x0AF of a message, the additional data of its seal (R317). -/
def temperHead (m : TemperMsg) : Bytes :=
  leBytes 4 m.magic ++ leBytes 2 m.format ++ leBytes 2 m.res06 ++ leBytes 4 m.msgLen ++ leBytes 1 m.domain ++ leBytes 1 m.sigCount
    ++ leBytes 2 m.cmdCount ++ leBytes 8 m.counter ++ leBytes 8 m.notAfter ++ fitBytes 32 m.target ++ fitBytes 96 m.ephemeral
    ++ beBytes 12 m.iv ++ leBytes 4 m.ctLen

/-- The command key of a message (R317). -/
def temperKey (s : State) (m : TemperMsg) : Bytes :=
  tmkOf (p384.shared s.dtk (beNat (m.ephemeral.take 48)) (beNat (m.ephemeral.drop 48))) m.target m.counter

/-- The GCM tag of a message is right (DECRYPT). DESIGN CHOICE: an EPHEMERAL that is no point of P-384 gives no key, and so DECRYPT. -/
def temperOpens (s : State) (m : TemperMsg) : Bool :=
  !p384.off (beNat (m.ephemeral.take 48)) (beNat (m.ephemeral.drop 48))
    && gcmTag (temperKey s m) m.iv (temperHead m) m.cipher 16 == m.tag

/-- What the signatures of a message are computed on: bytes 0x000 to 0x0BF + CT_LEN (R317). -/
def temperSigned (m : TemperMsg) : Bytes := temperHead m ++ m.cipher ++ fitBytes 16 m.tag

/-- The commands of a message. -/
def temperCmds (s : State) (m : TemperMsg) : List TemperCmd :=
  commandsOf m.cmdCount (gcmCrypt (temperKey s m) m.iv m.cipher)

/-- FORMAT (Tables 07-8, 07-10): MAGIC, FORMAT, lengths, counts and reserved fields; and a NOT_AFTER that is no stamp (R63; DESIGN
CHOICE: the spec gives its refusal no reason of its own). -/
def temperForm (m : TemperMsg) : Bool :=
  m.magic == 0x4D54584E && m.format == 1 && m.res06 == 0 && m.msgLen == 0xC0 + m.ctLen + 136 * m.sigCount && decide (m.domain ≤ 63)
    && m.sigCount == m.sigs.length && decide (1 ≤ m.sigCount) && decide (m.sigCount ≤ 2) && decide (1 ≤ m.cmdCount)
    && decide (m.cmdCount ≤ 32) && decide (8 ≤ m.ctLen) && decide (m.ctLen ≤ 16384) && m.cipher.length == m.ctLen
    && m.sigs.all (fun b => b.reserved == 0) && stampValid m.notAfter

/-- DETAIL of a refusal: reason and command index. -/
def temperDetail (reason index : Nat) : Nat := reason + 65536 * index

/-- Some ACTIVE security officer is enrolled in a domain. -/
def hasOfficer (s : State) (d : Nat) : Bool := (s.dom d).roles.any fun r => r.role == roleOfficer && r.active

/-- The signers satisfy ENROL or REVOKE of a domain; `officer` tells that the command concerns a security officer. -/
def enrolAuthority (s : State) (m : TemperMsg) (d : Nat) (officer : Bool) : Bool :=
  (countRole roleOfficer m.sigs == 2 && (m.domain == d || (m.domain == 0 && !hasOfficer s d)))
    || (decide (1 ≤ countRole roleIntegrator m.sigs) && m.domain == 0 && d == 0 && officer && s.lcc.st == .integrator)

/-- A REVOKE names a security officer of the domain. -/
def isOfficer (s : State) (d signer : Nat) : Bool :=
  (s.dom d).roles.all fun r => r.signerId != signer || r.role == roleOfficer

/-- The signers satisfy a command (R319, Table 07-9). -/
def authority (s : State) (m : TemperMsg) : TemperCmd → Bool
  | .unknown => false
  | .provision => decide (1 ≤ countRole roleIntegrator m.sigs) && m.domain == 0
  | .reprovision | .createDomain .. | .clearRestrict => countRole roleOfficer m.sigs == 2 && m.domain == 0
  | .enrol d role _ _ => enrolAuthority s m d (role == roleOfficer)
  | .revoke d _ signer => enrolAuthority s m d (isOfficer s d signer)
  | .deleteDomain d _ => countRole roleOfficer m.sigs == 2 && (m.domain == 0 || m.domain == d)
  | .importKey .. | .setMigrationKey .. | .advanceEpoch => countRole roleOfficer m.sigs == 2
  | .setGenFloor h _ => countRole roleOfficer m.sigs == 2 && handleFn h == m.domain

/-- The level admits a command (R323). -/
def levelAdmits (level : Nat) : TemperCmd → Bool
  | .clearRestrict | .deleteDomain .. => decide (level ≤ 1)
  | .revoke .. => level != 2
  | .reprovision => level == 0 || level == 3
  | _ => level == 0

/-- A condition that refuses REPROVISION is present (R622). -/
def quenchCondition (s : State) : Bool :=
  s.tm.present.any fun x => x.1 == causeLight || x.1 == causeMesh || x.1 == causeStandbyOver
    || (x.1 == causeLoop && fieldOf (s.loopCfg x.2) 2 1 == 3)

/-- A condition that refuses CLEAR_RESTRICT is present (R619). -/
def restrictCondition (s : State) : Bool :=
  s.tm.present.any fun x => x.1 == causeLightDisagree || x.1 == causeMonitorFault
    || (x.1 == causeLoop && fieldOf (s.loopCfg x.2) 2 1 == 1)

/-- Some vault image names a signer (R314). -/
def imageSigner (s : State) (signer : Nat) : Bool :=
  s.pln.zones.any fun z => z.2.slots.any fun v => v.2.image.sigEng.signerId == signer || v.2.image.sigSo.signerId == signer

/-- Remove the oldest REVOKED record of a role that no vault image names; the list is oldest first. -/
def dropRevoked (s : State) (role : Nat) : List RoleRec → Option (List RoleRec)
  | [] => none
  | r :: t =>
    if r.role == role && !r.active && !imageSigner s r.signerId then some t
    else (dropRevoked s role t).map (r :: ·)

/-- Records after making room for one more of a role (R313, R314); none where a limit refuses it. -/
def roleRoom (s : State) (role : Nat) (l : List RoleRec) : Option (List RoleRec) :=
  if 8 ≤ (l.filter fun r => r.role == role && r.active).length then none
  else if (l.filter fun r => r.role == role).length < 16 then some l
  else dropRevoked s role l

/-- Raise every domain epoch below `n` by one; sealed records start anew (R326). -/
def raiseEpochs : Nat → State → State
  | 0, s => s
  | n + 1, s => (raiseEpochs n s).updDom n fun d => { d with epoch := d.epoch + 1, migKey := none }

/-- Seal the domain's vault blobs again under its new epoch, each with a new IV (R322, R294); `dwk` is the wrapping key of the epoch
before. A blob that does not unwrap stays as it is. -/
def resealVault (d : Nat) (dwk : Bytes) : Tbl Blob → State → State
  | [], s => s
  | (h, b) :: t, s =>
    resealVault d dwk t (match if handleFn h = d ∧ b.format = 1 then openUnder dwk b else none with
      | none => s
      | some m =>
        let r := sealBlob h b.attr m s
        let keys := match Tbl.find? h r.2.key.keys with
          | some k => Tbl.put h { k with blob := r.1 } r.2.key.keys
          | none => r.2.key.keys
        appendBlob r.1 { r.2 with key := { r.2.key with keys } })

/-- Draw a storage root into BBKR (PROVISION, REPROVISION; Table 07-2). -/
def drawRoot (s : State) : State :=
  let r := draw 32 s
  let g := r.2.key.rootGen + 1
  { r.2 with key := { r.2.key with bbkr := some { srk := r.1, check := srkCheck r.1, generation := g }, rootGen := g,
                                   provisioned := true, rootPresent := true } }

/-- Apply one command; none where its body or its state condition refuses it (COMMAND_INVALID). -/
def applyTemper (dom : Nat) (c : TemperCmd) (s : State) : Option State :=
  match c with
  | .unknown => none
  | .provision => if s.lcc.st = .integrator ∧ s.key.rootPresent = false then some (drawRoot s) else none
  | .reprovision =>
    if s.level = 3 ∧ quenchCondition s = false then
      let s1 := raiseEpochs 64 (drawRoot s)
      some { s1 with tm := { s1.tm with reprovPending := true } }
    else none
  | .enrol d role res key =>
    if 63 < d ∨ role = 0 ∨ 3 < role ∨ res ≠ 0 ∨ (s.dom d).roles.any (fun r => r.key == key) = true then none
    else (roleRoom s role (s.dom d).roles).map fun l =>
      s.updDom d fun v => { v with roles := l ++ [{ role, key, signerId := signerIdOf key, stamp := toStamp s.sck.now }] }
  | .revoke d res signer =>
    if 63 < d ∨ res ≠ 0 then none
    else some (s.updDom d fun v =>
      { v with roles := v.roles.map fun r => if r.signerId = signer then { r with active := false } else r })
  | .createDomain d res tenant =>
    if 63 < d ∨ res ≠ 0 ∨ (s.dom d).tenant.isSome then none
    else some (s.updDom d fun v => { v with tenant := some tenant })
  | .deleteDomain d res =>
    if 63 < d ∨ res ≠ 0 ∨ Tbl.has s.pln.parts d then none
    else
      let s1 := { s with key := { s.key with
        keys := Tbl.keep (fun h _ => handleFn h != d) s.key.keys,
        vault := Tbl.keep (fun h _ => handleFn h != d) s.key.vault } }
      some (s1.updDom d fun v =>
        { v with roles := [], tenant := none, migKey := none, reservations := [], epoch := v.epoch + 1 })
  | .importKey attr res material =>
    if kindLenOk attr.kind attr.keyLen = false ∨ usageOk attr.kind attr.usage = false ∨ res ≠ 0
        ∨ attr.origin ≠ 2 ∨ materialOk attr.kind material = false ∨ (attr.notBefore ≠ 0 ∧ stampValid attr.notBefore = false)
        ∨ (attr.notAfter ≠ 0 ∧ stampValid attr.notAfter = false) then none
    else (allocHandle dom s).map fun a =>
      let b := sealBlob a.1 { attr with created := toStamp s.sck.now } material a.2
      keyEvent dom a.1 1 0 (if b.2.slotsFit dom (kindSlots attr.kind) then fillSlot b.1 material b.2 else b.2)
  | .setMigrationKey mkId key => if mkId = 0 then none else some (s.updDom dom fun d => { d with migKey := some (mkId, key) })
  | .advanceEpoch => some (let s1 := s.updDom dom fun d => { d with epoch := d.epoch + 1 }
                           resealVault dom (s.dwk dom (s.dom dom).epoch) s1.key.vault s1)
  | .setGenFloor h value =>
    if h % 2 ^ 26 = 0 ∨ (s.dom (handleFn h)).handles < h % 2 ^ 26 ∨ 2 ^ 32 ≤ value then none
    else
      let g := Tbl.get {} s.key.gens h
      some { s with key := { s.key with gens := Tbl.put h { raiseGen value g with hold := false } s.key.gens } }
  | .clearRestrict =>
    if restrictCondition s then none else some { s with tm := { s.tm with clearPending := s.tm.clearHold } }

/-- Apply commands in order; the index of the first that is refused (R321). -/
def applyAll (m : TemperMsg) : Nat → List TemperCmd → State → Except Nat State
  | _, [], s => .ok s
  | i, c :: t, s =>
    match applyTemper m.domain c s with
    | none => .error i
    | some s1 =>
      applyAll m (i + 1) t (securityRec secTemper (temperCode c + 65536 * m.domain) (signerPair m.sigs) m.counter s1)

/-- Index of the first command that does not satisfy `p`. -/
def firstBad (p : TemperCmd → Bool) : Nat → List TemperCmd → Option Nat
  | _, [] => none
  | i, c :: t => if p c then firstBad p (i + 1) t else some i

/-- The command draws random numbers. -/
def temperDraws : TemperCmd → Bool
  | .provision | .reprovision | .importKey .. | .advanceEpoch => true
  | _ => false

/-- The command seals, wraps or unwraps: it needs the storage root (R289). -/
def temperNeedsRoot : TemperCmd → Bool
  | .importKey .. | .setMigrationKey .. | .advanceEpoch => true
  | _ => false

/-- Refusal of a message before its commands are judged: reason and index (Table 07-10, FORMAT to COMMAND_UNKNOWN). -/
def temperReason (m : TemperMsg) (s : State) : Option (Nat × Nat) :=
  if temperForm m = false then some (0x0101, 0xFFFF)
  else if m.target ≠ s.target then some (0x0102, 0xFFFF)
  else if m.counter ≤ (s.dom m.domain).temper then some (0x0103, 0xFFFF)
  else if expired s m.notAfter then some (0x0104, 0xFFFF)
  else if signersOk s m.domain m.sigs = false then some (0x0105, 0xFFFF)
  else if sigsVerify s m.domain (temperSigned m) m.sigs = false then some (0x0106, 0xFFFF)
  else if temperOpens s m = false then some (0x0107, 0xFFFF)
  else (firstBad (fun c => c != .unknown) 0 (temperCmds s m)).map fun i => (0x0108, i)

/-- TEMPER_APPLY (R320 to R323): a message is checked in the order of Table 07-10, with the level test before AUTHORITY,
and applied whole. -/
def execTemperApply (q : Call) (m : TemperMsg) (s : State) : Host.Outcome State Fault Refusal :=
  .next (runOp 0x010B q 0 s fun s =>
    match temperReason m s with
    | some (r, i) => .done (reject (temperDetail r i)) s
    | none =>
      let cmds := temperCmds s m
      if (firstBad (levelAdmits s.level) 0 cmds).isSome then .done (bare stRestricted) s
      else match firstBad (authority s m) 0 cmds with
        | some i => .done (reject (temperDetail 0x0109 i)) s
        | none =>
          match applyAll m 0 cmds s with
          | .error i => .done (reject (temperDetail 0x010A i)) s
          | .ok s1 =>
            if cmds.any temperNeedsRoot && !s1.key.rootPresent then .done (bare stKeyNotLoaded) s
            else
              let fin := OpOut.done (bare stOk) (raiseEvent .key m.domain 4
                (s1.updDom m.domain fun d => { d with temper := m.counter }))
              if cmds.any temperDraws then withDraw q s fun _ => fin else fin)

end Sys2Proof.Machine
end

