-- ==== Sys2Proof/Machine/Time.lean ====
section
/-! DEFINITION. The slot clock: ticks, time states, references, steps, holdover and the cycle angle (02, R699 to R703). -/

namespace Sys2Proof.Machine

/-! ### References -/

/-- The slot clock's state of a reference. -/
def State.ref (s : State) (r : Nat) : RefClock := Tbl.get {} s.sck.refs r

/-- Replace the state of a reference. -/
def State.setRef (r : Nat) (v : RefClock) (s : State) : State := { s with sck := { s.sck with refs := Tbl.put r v s.sck.refs } }

/-- Change the state of a reference. -/
def State.updRef (r : Nat) (g : RefClock → RefClock) (s : State) : State := s.setRef r (g (s.ref r))

/-- A failure condition of Table 02-4 other than the offset test holds: three missing IRIG-B frames, any condition of the
others. -/
def refFailing (r : Nat) (v : RefClock) : Bool := if r = 2 then decide (3 ≤ v.missing) else v.missing != 0

/-- The reference is stable (R43). -/
def refStable (r : Nat) (v : RefClock) : Bool := v.present && !refFailing r v && (r == 3 || v.steady)

/-- 250 ms in the unit of the error bound (R38). -/
def quarterSecond : Nat := 250000000 * eUnit

/-- The agreement test (R44): within 1 µs in LOCKED, HOLDOVER and SLEWING with time valid, else within e. The 10 MHz
input has none (R43). DESIGN CHOICE: with no bound known every offset agrees. -/
def agrees (k : Sck) (r : Nat) (v : RefClock) : Bool :=
  if r = 3 then true
  else
    let inside := if k.valid then decide (v.offset.natAbs ≤ 1000)
      else !k.bounded || decide (v.offset.natAbs * eUnit ≤ k.e)
    inside && !(r == 1 && (!k.bounded || decide (k.e > quarterSecond)))

/-- One tick of a reference's state (R42, R43): SELECTED, DISABLED and QUALIFIED are otherwise left to their own events.
DESIGN CHOICE, where R43 names no state: a QUALIFIED reference that loses stability without failing goes back to QUALIFYING with
its qualification at zero, and a DISAGREEING one that loses stability stays DISAGREEING until it is stable and agrees. -/
def evalRef (k : Sck) (enabled : Bool) (r : Nat) (v : RefClock) : RefClock :=
  if enabled = false then (if v.st = .disabled then v else { st := .disabled })
  else
    let stable := refStable r v
    let ok := agrees k r v
    match v.st with
    | .disabled => {}
    | .selected => v
    | .absent | .failed =>
      if stable then { v with st := if ok then .qualifying else .disagreeing, qualUs := 0 } else v
    | .qualifying =>
      if stable then (if ok then { v with qualUs := v.qualUs + 1 } else { v with st := .disagreeing, qualUs := 0 })
      else { v with qualUs := 0 }
    | .disagreeing => if stable && ok then { v with st := .qualifying, qualUs := 0 } else v
    | .qualified =>
      if stable then (if ok then v else { v with st := .disagreeing, qualUs := 0 })
      else { v with st := .qualifying, qualUs := 0 }

/-- One tick of references 0 to n − 1. -/
def evalRefs (k : Sck) : Nat → State → State
  | 0, s => s
  | n + 1, s =>
    let s1 := evalRefs k n s
    s1.setRef n (evalRef k (s1.refEnabled n) n (s1.ref n))

/-- First reference of the priority list that is QUALIFIED or SELECTED. -/
def bestRef (s : State) (withSelected : Bool) : Option Nat :=
  s.priority.find? fun r => (s.ref r).st == .qualified || (withSelected && (s.ref r).st == .selected)

/-- Some time reference is SELECTED. -/
def State.hasSelected (s : State) : Bool := (s.ref s.sck.selected).st == .selected

/-! ### The error bound (R34, R54, R55, R57) -/

/-- 20 ppm per count of the RTC, in units of 1e-20 ns. -/
def rtcDriftUnit : Nat := 20000 * 10 ^ 20 / 32768

/-- Bound of UNLOCKED (Table 02-2). -/
def unlockedBound (k : Sck) : Nat := 1000000 * eUnit + (k.rtcCount - k.rtcSetCount) * rtcDriftUnit

/-- Holdover bound at `us` µs (R54, R55, R57). -/
def holdBound (h : Holdover) : Nat :=
  h.e0 + h.uPerUs * h.us + (if h.full then 115 * h.us * h.us + h.dTmax * h.us * 10 ^ 8 else 0)

/-- e of the state (Table 02-2). -/
def boundOf (k : Sck) : Nat :=
  let a := (Tbl.get ({} : RefClock) k.refs k.selected).aRef
  match k.st with
  | .unlocked => unlockedBound k
  | .slewing => k.remFs.natAbs * 10 ^ 14 + (a + 50) * eUnit
  | .locked => (a + 50) * eUnit
  | .holdover | .expired => holdBound k.hold

/-- Bring e and validity up to date (R32). -/
def reBound (s : State) : State :=
  let e := boundOf s.sck
  { s with sck := { s.sck with e, bounded := s.sck.st != .unlocked || !s.sck.rtcLost,
                               valid := timeValid s.sck.st e s.validityLimit } }

/-! ### Changes: events and records (R53, SCK_EVENT_STATUS) -/

/-- States of references 0 to 3. -/
def refStates (k : Sck) : List RefState := (List.range 4).map fun r => (Tbl.get ({} : RefClock) k.refs r).st

/-- A TIME_EVENT record. -/
def timeRecord (old : Sck) (r : Nat) (step : Option (Nat × Nat)) (s : State) : RecBody :=
  .timeEvent r old.st s.sck.st (Tbl.get ({} : RefClock) old.refs r).st (s.ref r).st (s.ref r).offset s.sck.e step

/-- Stage a record for each reference below `n` that became SELECTED or FAILED. -/
def noteRefs (old : Sck) : Nat → State → State × Bool
  | 0, s => (s, false)
  | n + 1, s =>
    let a := noteRefs old n s
    let o := (Tbl.get ({} : RefClock) old.refs n).st
    let w := (a.1.ref n).st
    if w != o && (w == .selected || w == .failed) then (stageRec 0x20 0x7F (timeRecord old n none a.1) a.1, true) else a

/-- An activity that waits for its angle: a released entry with an angle. -/
def awaitsAngle (c : Ctx) : Bool := c.phase == .held && c.angle.isSome

/-- The angle becomes not valid: activities that wait for one are not performed (R79). -/
def failAngles : List Ctx → State → State
  | [], s => s
  | c :: t, s => failAngles t (if awaitsAngle c then finishCtx c (bare stTimeNotLocked) s else s)

/-- The record of R53 for what has changed in the slot clock since `old`. -/
def noteRecord (old : Sck) (s : State) : State :=
  let a := noteRefs old 4 s
  if a.2 || s.sck.st == old.st then a.1 else stageRec 0x20 0x7F (timeRecord old s.sck.selected none a.1) a.1

/-- Event `bit` of the slot clock where something has changed. -/
def sckEvent (changed : Bool) (bit : Nat) (s : State) : State := if changed then raiseEvent .sck 0 bit s else s

/-- The event bits for what has changed in the slot clock since `old`. -/
def noteEvents (old k : Sck) (s : State) : State :=
  sckEvent (k.leapUntil.isSome && old.leapUntil.isNone) 5 <| sckEvent (k.angleSt != old.angleSt) 4 <|
    sckEvent (refStates k != refStates old) 2 <| sckEvent (k.valid != old.valid) 1 <| sckEvent (k.st != old.st) 0 s

/-- Time has become valid or ceased to be (R180), where `changed`. -/
def noteValid (changed : Bool) (s : State) : State := if changed then timeEdge s.pln.parts s else s

/-- Note what has changed in the slot clock since `old`: records of R53, event bits, quality and validity from now on, and
activities that the angle can no longer place. -/
def noteSck (old : Sck) (s : State) : State :=
  let k := s.sck
  let s1 := noteValid (k.valid != old.valid) (noteEvents old k (noteRecord old s))
  let s2 := { s1 with sck := k.note }
  if angleValid old && !angleValid s2.sck then failAngles s2.hif.ctxs s2 else s2

/-! ### Adoption, failure, holdover -/

/-- Frequency uncertainty per µs after a disciplined run (R54). -/
def runUncertainty : Option Nat → Nat
  | none => 5 * 10 ^ 14
  | some us => if 86400000000 ≤ us then 25 * 10 ^ 12 else if 3600000000 ≤ us then 10 ^ 14 else 5 * 10 ^ 14

/-- Uncertainty of the 10 MHz input per µs (SCK_10M_CFG). -/
def State.u10 (s : State) : Nat := fieldOf (s.sckSet 0x6420) 29 16 * 10 ^ 11

/-- Qualification time in force, µs (R45). -/
def State.qualTime (s : State) : Nat :=
  1000000 * (if s.sck.st = .unlocked then fieldOf (s.sckSet 0x6408) 25 16 else fieldOf (s.sckSet 0x6408) 11 0)

/-- The 10 MHz input counts for R55. -/
def State.tenStable (s : State) : Bool :=
  s.refEnabled 3 && decide (fieldOf (s.sckSet 0x6408) 11 0 * 1000000 ≤ s.sck.tenStableUs)

/-- Loss of the selected reference with no other one (R47, R54, R55, R57): HOLDOVER, or EXPIRED where e is beyond the
limit or the OCXO has failed. DESIGN CHOICE: R57 states for a loss after the failure of the OCXO only u = 20,000 ns/s; the ageing and
temperature terms of R54 are then left out, as R57 says for a failure during holdover. -/
def enterHoldover (s : State) : State :=
  let k := s.sck
  let u := runUncertainty k.runUs
  let h : Holdover :=
    if k.ocxoFailed then { e0 := k.e, uPerUs := 2 * 10 ^ 18, full := false, uRun := u, temp0 := k.ocxoTemp }
    else if s.tenStable then { e0 := k.e, uPerUs := s.u10, full := false, tenMhz := true, uRun := u, temp0 := k.ocxoTemp }
    else { e0 := k.e, uPerUs := u, uRun := u, temp0 := k.ocxoTemp }
  let st : TimeState := if k.ocxoFailed || decide (k.e > s.validityLimit * eUnit) then .expired else .holdover
  reBound { s with sck := { k with st, hold := h, runUs := none, remFs := 0 } }

/-- Adopt a reference without a step (R46, R47, R49): it is SELECTED, one selected before is QUALIFIED, and the state is
SLEWING towards its measured offset. -/
def adoptSlew (r : Nat) (s : State) : State :=
  let s1 := if s.hasSelected then s.updRef s.sck.selected fun v => { v with st := .qualified } else s
  let s2 := s1.updRef r fun v => { v with st := .selected }
  reBound { s2 with sck := { s2.sck with selected := r, st := .slewing, remFs := (s2.ref r).offset * 1000000 } }

/-- The selected reference is gone: another QUALIFIED one is adopted at once, else HOLDOVER or EXPIRED (R47, R57). -/
def loseSelected (s : State) : State :=
  match bestRef s false with
  | some r => adoptSlew r s
  | none => enterHoldover s

/-- Declare a reference failed (R41, R47). -/
def declareFailed (r : Nat) (s : State) : State :=
  let v := s.ref r
  if v.st = .disabled ∨ v.st = .absent ∨ v.st = .failed then s
  else
    let s1 := s.setRef r { v with st := .failed, qualUs := 0 }
    if v.st = .selected then loseSelected s1 else s1

/-! ### Steps (R50, R51, R69, R80, R81) -/

/-- Offset of a 1PPS edge from the nearest grid second (R38). -/
def nearestSecond (offset : Int) : Int := (offset + 500000000) % 1000000000 - 500000000

/-- Add a step's amount to what a waiting frame and its copies subtract from their residence (R81). -/
def stepFrames (d : Int) (s : State) : State :=
  { s with fe := { s.fe with frames := s.fe.frames.map fun f => { f with stepAdj := f.stepAdj + d },
                             copies := s.fe.copies.map fun c => { c with stepAdj := c.stepAdj + d } } }

/-- Rollovers made before a backward step stay made (R80). -/
def keepRolled (before after : Nat) : Tbl Entry → Tbl EntryRt → Tbl EntryRt
  | [], t => t
  | (n, e) :: es, t =>
    keepRolled before after es
      (if e.keyNextValid && decide (after < stampNs e.rollAt) && decide (stampNs e.rollAt ≤ before) then
        Tbl.upd {} n (fun r => { r with rolled := true }) t
      else t)

/-- The same for every partition's active bank. -/
def keepAllRolled (before after : Nat) : Tbl Partition → Tbl EntryRt → Tbl EntryRt
  | [], t => t
  | (_, p) :: ps, t => keepAllRolled before after ps (match p.active with
    | none => t
    | some c => keepRolled before after c.entries t)

/-- A time reference after a step of grid time by `d`: its measured offset changes by the step, for 1PPS to the grid second that is
now nearest (R38); a change of more than 100 ns makes it unstable until a later second (R43). Its last measurement keeps its
distance in time. -/
def stepRef (d : Int) (r : Nat) (v : RefClock) : RefClock :=
  if r = 3 then v
  else
    let offset := if r = 1 then nearestSecond (v.offset - d) else v.offset - d
    { v with offset, lastAt := ((v.lastAt : Int) + d).toNat,
             steady := v.prev.any fun p => decide ((offset - p).natAbs ≤ 100) }

/-- Offsets measured against grid time move with a step. -/
def stepRefs (d : Int) (s : State) : State :=
  { s with sck := { s.sck with refs := Tbl.mapAll (stepRef d) s.sck.refs } }

/-- Plan switches around a step (R80): one whose instant a forward step skips takes effect at the step instant; one already made
is not undone by a backward step, and every frame stamped after the step belongs to its new version. -/
def stepPart (before after : Nat) (p : Partition) : Partition :=
  if p.standby = .armed ∧ before < p.instant ∧ p.instant ≤ after then { p with instant := after }
  else if p.standby = .draining ∧ after < p.instant then { p with instant := after }
  else p

/-- The same for every partition. -/
def stepParts (before after : Nat) (s : State) : State :=
  { s with pln := { s.pln with parts := Tbl.mapAll (fun _ p => stepPart before after p) s.pln.parts } }

/-- Step grid time to a reference, select it and enter SLEWING for the residual offset (R50, R51): the step record, the
STEP event, and at once a checkpoint with STEP set after the record (R249). -/
def stepTime (r : Nat) (s : State) : State :=
  let old := s.sck
  let d := (s.ref r).offset
  let before := s.sck.now
  let after := ((before : Int) + d).toNat
  let s1 := if s.hasSelected && s.sck.selected != r then s.updRef s.sck.selected fun v => { v with st := .qualified } else s
  let s2 := stepParts before after (stepFrames d (stepRefs d (s1.updRef r fun v => { v with st := .selected })))
  let entries := keepAllRolled before after s2.pln.parts s2.fe.entries
  let sck := { s2.sck with now := after, selected := r, st := .slewing, remFs := 0, adopt := none, stepTo := none }
  let s3a := reBound { s2 with sck, fe := { s2.fe with entries } }
  let s3 := { s3a with sck := s3a.sck.noteStep d }
  let rec1 : Staged := { log := 0, typ := 0x20, owner := 0x7F, quality := s3.quality, stamp := toStamp after,
                         body := timeRecord old r (some (toStamp before, toStamp after)) s3 }
  raiseEvent .sck 0 3 (if s3.arc.ready then appendCheckpoint true false false (appendRecord rec1 (drainStaging s3))
    else stageWith 0 0x20 0x7F s3.quality 0 after rec1.body s3)

/-! ### The tick (R68) -/

/-- Advance the counts that run with OCXO time: RTC count, disciplined run, holdover time, temperature, angle. -/
def runCounts (temp : Int) (s : State) : State :=
  let k := s.sck
  let frac := k.rtcFrac + 32768
  let dT := (temp - k.hold.temp0).natAbs
  { s with sck := { k with
      ocxoTemp := temp,
      rtcCount := k.rtcCount + frac / 1000000, rtcFrac := frac % 1000000,
      runUs := k.runUs.map (· + 1),
      tenStableUs := if refStable 3 (s.ref 3) && s.refEnabled 3 then k.tenStableUs + 1 else 0,
      hold := if k.st = .holdover ∨ k.st = .expired then
          { k.hold with us := k.hold.us + 1, dTmax := if k.hold.dTmax < dT then dT else k.hold.dTmax }
        else k.hold,
      phase := if k.angleSt = .lost then k.phase else (k.phase + k.freq) % nsPerSec,
      sinceSampleUs := k.sinceSampleUs + 1,
      coastUs := if k.angleSt = .coasting then k.coastUs + 1 else 0,
      leapUntil := if k.leapUntil.any (fun t => decide (t ≤ k.now)) then none else k.leapUntil } }

/-- Remove at most one tick's slew from the remaining offset (R49). -/
def slewOnce (rem : Int) (per : Nat) : Int :=
  if rem.natAbs ≤ per then 0 else if rem < 0 then rem + per else rem - per

/-- One tick of the time state (R32, R36, R49, R741). DESIGN CHOICE: where HOLDOVER becomes EXPIRED, t, e0 and u of R54 go on from the
entry into HOLDOVER and do not restart. -/
def tickState (s : State) : State :=
  let k := s.sck
  let s1 : State :=
    match k.st with
    | .slewing =>
      let rem := slewOnce k.remFs s.slewPerTick
      if rem.natAbs ≤ 50000000 then
        { s with sck := { k with remFs := rem, st := .locked, runUs := some (k.runUs.getD 0) } }
      else { s with sck := { k with remFs := rem } }
    | .locked =>
      if k.remFs.natAbs > 100000000 then { s with sck := { k with st := .slewing } }
      else { s with sck := { k with remFs := slewOnce k.remFs s.slewPerTick } }
    | _ => s
  let s2 := reBound s1
  if s2.sck.st = .holdover ∧ s2.sck.e > s2.validityLimit * eUnit then
    reBound { s2 with sck := { s2.sck with st := .expired } }
  else s2

/-- A TIME_STEP operation completes (R489). -/
def endStep (call : Option (Call × Option Nat × Nat)) (comp : Completion) (s : State) : State :=
  match call with
  | none => s
  | some (q, ctx, _) => lateComplete q ctx comp s

/-- A step that waits for this tick (R50, R51, R489). -/
def tickStep (s : State) : State :=
  match s.sck.stepTo with
  | some r =>
    let limit := (s.sck.stepCall.map (·.2.2)).getD 0
    let call := s.sck.stepCall
    let small := limit == 0 || decide ((s.ref r).offset.natAbs ≤ limit)
    if ((s.ref r).st = .qualified ∨ (s.ref r).st = .disagreeing) ∧ small then
      let s1 := stepTime r s
      endStep call (okOut 0 (leBytes 8 (toStamp s.sck.now) ++ leBytes 8 (toStamp s1.sck.now)))
        { s1 with sck := { s1.sck with stepCall := none } }
    else endStep call (reject 0) { s with sck := { s.sck with stepTo := none, stepCall := none } }
  | none =>
    match s.sck.adopt with
    | some r =>
      if (s.ref r).st = .qualified ∧ s.sck.st = .unlocked then stepTime r s
      else { s with sck := { s.sck with adopt := none } }
    | none => s

/-- The measured values that registers show, brought up to date every 1 ms (TM_SENSE, PWR_SUPPLY). -/
def noteSense (x : Sense) (s : State) : State :=
  if s.sck.now % 1000000 = 0 then
    { s with tm := { s.tm with dieTemp := x.dieTemp },
             pwr := { s.pwr with mainMv := satTo 0xFFFF x.mainMv, standbyMv := satTo 0xFFFF x.standbyMv, power := satTo 0xFFFF x.power } }
  else s

/-- TICK (R68): the next whole microsecond of grid time. e and the states are brought up to date, a waiting step is made,
the references are evaluated, a raised Restrict alarm takes effect, due delay-list entries are released, and a rollover of keys may bring
an entry under a key condition. -/
def execTick (ocxoTemp : Int) (sense : Sense) (s : State) : Host.Outcome State Fault Refusal :=
  onMain s <|
  let old := s.sck
  let s1 := noteSense sense { s with sck := { s.sck with now := (s.sck.now / 1000 + 1) * 1000 } }
  let s2 := tickState (runCounts ocxoTemp s1)
  let s3 := evalRefs s2.sck 4 (tickStep s2)
  .next (keyEdges s (renewBlocked (releaseDue (restrictTick (noteSck old s3)))))

/-! ### Measurements (R43, R741, R742) -/

/-- Take a measurement of a reference at grid time now. -/
def measure (r : Nat) (offset : Int) (s : State) : State :=
  s.updRef r fun v =>
    let newSec := v.lastAt / nsPerSec != s.sck.now / nsPerSec
    let prev := if newSec then (if v.measured then some v.offset else none) else v.prev
    { v with present := true, measured := true, offset, prev, lastAt := s.sck.now,
             steady := prev.any fun p => decide ((offset - p).natAbs ≤ 100) }

/-- The offset test (R742): in LOCKED beyond 1 µs, in SLEWING beyond 1 µs of the offset that remains to be removed. -/
def offsetFails (k : Sck) (offset : Int) : Bool :=
  match k.st with
  | .locked => decide (1000 < offset.natAbs)
  | .slewing => decide (1000000000 < (offset * 1000000 - k.remFs).natAbs)
  | _ => false

/-- A measurement with what follows from it: the selected reference fails the offset test, or its offset is the one to be
removed. -/
def judgeMeasure (r : Nat) (offset : Int) (s : State) : State :=
  let s1 := measure r offset s
  if (s1.ref r).st = .selected then
    if offsetFails s1.sck offset then declareFailed r s1
    else reBound { s1 with sck := { s1.sck with remFs := offset * 1000000 } }
  else s1

/-- PPS_EDGE (R38): the edge fixes the start of the nearest grid second for reference 1. -/
def execPpsEdge (offset : Int) (s : State) : Host.Outcome State Fault Refusal :=
  onMain s <|
  if s.refEnabled 1 then
    let s1 := s.updRef 1 fun v => { v with missing := 0, aRef := fieldOf (s.sckSet 0x641C) 19 0 }
    .next (noteSck s.sck (judgeMeasure 1 (nearestSecond offset) s1))
  else .next s

/-- PPS_MISSING (R41): no edge within 1.1 s of the previous one. -/
def execPpsMissing (s : State) : Host.Outcome State Fault Refusal :=
  onMain s <|
  if (s.ref 1).present ∧ (s.ref 1).lastAt + 1100000000 ≤ s.sck.now then
    .next (noteSck s.sck (declareFailed 1 (s.updRef 1 fun v => { v with missing := 1, steady := false })))
  else .next s

/-- The current TAI−UTC offset (R40). -/
def State.taiUtc (s : State) : Nat :=
  if (s.ref 0).st = .selected then s.sck.ptpUtc.getD (fieldOf (s.sckSet 0x6424) 7 0) else fieldOf (s.sckSet 0x6424) 7 0

/-- A missing or discarded IRIG-B frame (R41). -/
def irigMissing (s : State) : State :=
  let s1 := s.updRef 2 fun v => { v with missing := v.missing + 1 }
  if 3 ≤ (s1.ref 2).missing then declareFailed 2 s1 else s1

/-- A leap-second announcement (R65). -/
def noteLeap (leapEnd : Option Nat) (s : State) : State :=
  match leapEnd with
  | none => s
  | some t => { s with sck := { s.sck with leapUntil := some t } }

/-- IRIGB_FRAME (R39, R40): the local offset is removed and TAI−UTC added; a frame with a parity error is discarded and
one with quality 0xF counts as missing. -/
def execIrigbFrame (f : IrigFrame) (s : State) : Host.Outcome State Fault Refusal :=
  onMain s <|
  if s.refEnabled 2 = false then .next s
  else if f.parityOk = false ∨ f.quality = 0xF then .next (noteSck s.sck (irigMissing s))
  else
    let tai := f.seconds - f.localOffset + s.taiUtc
    let offset := tai * nsPerSec - f.edge
    let s1 := s.updRef 2 fun v => { v with missing := 0, declared := f.quality % 16, aRef := f.accuracy.getD 1000000 }
    .next (noteSck s.sck (noteLeap f.leapEnd (judgeMeasure 2 offset s1)))

/-- IRIGB_FRAME_MISSING (R41). -/
def execIrigbFrameMissing (s : State) : Host.Outcome State Fault Refusal :=
  onMain s <|
  if (s.ref 2).present then .next (noteSck s.sck (irigMissing s)) else .next s

/-- Failure or disabling of the 10 MHz input during holdover: R54 applies from now (R55, R702). -/
def tenMhzGone (s : State) : State :=
  if s.sck.hold.tenMhz ∧ (s.sck.st = .holdover ∨ s.sck.st = .expired) then
    { s with sck := { s.sck with hold := { s.sck.hold with
        e0 := holdBound s.sck.hold, us := 0, uPerUs := s.sck.hold.uRun, full := true, tenMhz := false } } }
  else s

/-- TEN_MHZ_LOSS (R41): loss of the 10 MHz input, or its frequency in 0.001 ppb from nominal: beyond 1 ppm it fails, and
within it the input is found present. -/
def execTenMhzLoss (freq : Option Int) (s : State) : Host.Outcome State Fault Refusal :=
  onMain s <|
  if s.refEnabled 3 = false then .next s
  else
    let bad := match freq with
      | none => true
      | some f => decide (1000000 < f.natAbs)
    let s1 := s.updRef 3 fun v => { v with offset := freq.getD v.offset, missing := b2n bad, present := v.present || freq.isSome }
    if bad then
      .next (noteSck s.sck (tenMhzGone (declareFailed 3 { s1 with sck := { s1.sck with tenStableUs := 0 } })))
    else .next (noteSck s.sck s1)

/-! ### PTP (R59 to R61, R227 to R230) -/

/-- CLOCK_TYPE and worst acceptable clockClass of SCK_PTP_CFG. -/
def State.clockType (s : State) : Nat := fieldOf (s.sckSet 0x6410) 1 0
def State.worstClass (s : State) : Nat := fieldOf (s.sckSet 0x6410) 23 16

/-- A port's PTP state. -/
def State.ptpState (s : State) (p : Nat) : PtpPort := (Tbl.find? p s.sck.ptpPorts).getD .initializing

/-- Set a port's PTP state. -/
def State.setPtp (p : Nat) (v : PtpPort) (s : State) : State := { s with sck := { s.sck with ptpPorts := Tbl.put p v s.sck.ptpPorts } }

/-- Role of a PTP port that is not towards the grandmaster, by clock type (R227, R61): a slave-only clock listens, a
boundary clock masters. -/
def sideRole (clockType : Nat) : PtpPort :=
  if clockType = 0 then .listening else if clockType = 3 then .transparent else .master

/-- Give each PTP-enabled port below `n` its role, the port `g` being towards the grandmaster. -/
def setRoles (g : Nat) : Nat → State → State
  | 0, s => s
  | n + 1, s =>
    let s1 := setRoles g n s
    if s1.ptpOn n then s1.setPtp n (if n = g then .slave else sideRole s1.clockType) else s1

/-- The clockClass condition of Table 02-4 under the worst acceptable class in force (R41). -/
def judgeClass (s : State) : State :=
  let v := s.ref 0
  let bad := decide (s.worstClass < v.declared)
  if (s.ref 0).missing % 8 / 4 = b2n bad then s
  else
    let s1 := s.setRef 0 { v with missing := v.missing % 4 + 4 * b2n bad }
    if bad && s.refEnabled 0 then declareFailed 0 s1 else s1

/-- PTP domain number of SCK_PTP_CFG. -/
def State.ptpDomain (s : State) : Nat := fieldOf (s.sckSet 0x6410) 15 8

/-- Send a PTP message on every PTP-enabled port but one. -/
def sendOthers (port : Nat) (x : CoreFrame) (s : State) : State := sendEach (fun p => p != port && s.ptpOn p) 7 x 12 s

/-- Announce: the best master's data become PTP's, and the ports take their roles; a transparent clock forwards it
unchanged. -/
def ptpAnnounce (port : Nat) (best : Bool) (gm cls : Nat) (accuracy inaccuracy altOffset utc leapEnd : Option Nat) (s : State) :
    State :=
  let s0 := if s.clockType = 3 then sendOthers port (.announce cls gm inaccuracy altOffset) s else s
  if best = false then
    (if s0.clockType = 1 ∨ s0.clockType = 2 then s0.setPtp port .master else s0)
  else
    let a := match accuracy with
      | none => 1000000
      | some x => if x < inaccuracy.getD 0 then inaccuracy.getD 0 else x
    let s1 := setRoles port 12
      { s0 with sck := { s0.sck with gmId := gm, gmInaccuracy := inaccuracy, altOffset, ptpUtc := utc } }
    let s2 := noteLeap leapEnd (s1.updRef 0 fun v =>
      { v with aRef := a, declared := cls, missing := v.missing - v.missing % 2 })
    let s3 := judgeClass s2
    if s3.refEnabled 0 then reBound s3 else s3

/-- Sync with its Follow_Up on the slave port: a measurement; a transparent clock forwards both to the other ports, which add the
residence and the measured peer delay to the correction (R228). -/
def ptpSync (port ingress : Nat) (offset correction : Int) (followUp : Option Int) (s : State) : State :=
  if s.ptpState port != .slave then s
  else
    let from_ := ((ingress : Int) + s.sck.stepSince ingress).toNat
    let s0 := if s.clockType = 3 then
        sendOthers port (.sync correction (some (from_, Tbl.get 0 s.sck.peerDelay port)) followUp) s
      else s
    if s0.refEnabled 0 then
      judgeMeasure 0 offset (s0.updRef 0 fun v => { v with missing := v.missing - v.missing / 2 % 2 * 2 })
    else s0

/-- What a core does with a PTP message of the module's domain. -/
def ptpMessage (m : PtpMessage) (s : State) : State :=
  match m with
  | .announce port best gm cls accuracy inaccuracy altOffset utc leapEnd =>
    if s.ptpOn port then noteSck s.sck (ptpAnnounce port best gm cls accuracy inaccuracy altOffset utc leapEnd s) else s
  | .sync port ingress offset correction followUp =>
    if s.ptpOn port then noteSck s.sck (ptpSync port ingress offset correction followUp s) else s
  | .pdelay port delay =>
    if s.ptpOn port then { s with sck := { s.sck with peerDelay := Tbl.put port delay s.sck.peerDelay } } else s
  | .pdelayReq port ingress => if s.ptpOn port then sendPort port 7 (.pdelayResp ingress) s else s
  | .unsupported _ => s

/-- PTP_MESSAGE_PROCESS (R59, R60, R227, R228): a core processes a PTP message of a PTP-enabled port. One of another domain than
SCK_PTP_CFG names is ignored. -/
def execPtpMessageProcess (domain : Nat) (m : PtpMessage) (s : State) : Host.Outcome State Fault Refusal :=
  onMain s <|
  if domain = s.ptpDomain then .next (ptpMessage m s) else .next s

/-- PTP fails by a timeout whose bit is `b`. -/
def ptpTimeout (b : Nat) (s : State) : State :=
  if s.refEnabled 0 then
    let v := s.ref 0
    noteSck s.sck (declareFailed 0 (s.setRef 0 { v with missing := v.missing ||| b, steady := false }))
  else s

/-- PTP_ANNOUNCE_TIMEOUT (R41, R61): PTP fails, and no port is towards a grandmaster: a clock that may be master is master on every
port. -/
def execPtpAnnounceTimeout (s : State) : Host.Outcome State Fault Refusal :=
  onMain s <| .next (ptpTimeout 1 (setRoles 12 12 s))

/-- PTP_SYNC_TIMEOUT (R41). -/
def execPtpSyncTimeout (s : State) : Host.Outcome State Fault Refusal :=
  onMain s <| .next (ptpTimeout 2 s)

/-- The Announce of a master port (R59, R61): while PTP is selected it passes on the grandmaster's identity, its alternate time offset and,
as a boundary clock with 50 ns added, its totalTimeInaccuracy. PRESUMED: else the module names itself as grandmaster, by its base
address. -/
def ownAnnounce (s : State) : CoreFrame :=
  let cls := announcedClass s.clockType s.sck (s.ref 0).declared
  if (s.ref 0).st = .selected then
    .announce cls s.sck.gmId (s.sck.gmInaccuracy.map fun x => if s.clockType = 2 then x + 50 else x) s.sck.altOffset
  else .announce cls s.ident.baseMac none none

/-- PTP_MESSAGE_TRANSMIT (R59, R61): a master port sends its Sync, with a Follow_Up when two-step, or its Announce; every
PTP port sends Pdelay_Req. -/
def execPtpMessageTransmit (port : Nat) (what : PtpSend) (s : State) : Host.Outcome State Fault Refusal :=
  onMain s <|
  if s.ptpOn port = false then .next s
  else
    match what with
    | .pdelayReq => .next (sendPort port 7 .pdelayReq s)
    | .sync => if s.ptpState port = .master then .next (sendPort port 7 (.sync 0 none none) s) else .next s
    | .announce => if s.ptpState port = .master then .next (sendPort port 7 (ownAnnounce s) s) else .next s

/-! ### Failure, qualification and selection -/

/-- REFERENCE_FAILURE (R47): the selected reference fails. -/
def execReferenceFailure (r : Nat) (s : State) : Host.Outcome State Fault Refusal :=
  onMain s <|
  if (s.ref r).st = .selected then .next (noteSck s.sck (declareFailed r s)) else .next s

/-- QUALIFICATION_COMPLETE (R43, R45): stable and agreeing for the whole qualification time. -/
def execQualificationComplete (r : Nat) (s : State) : Host.Outcome State Fault Refusal :=
  onMain s <|
  if (s.ref r).st = .qualifying ∧ s.qualTime ≤ (s.ref r).qualUs then
    .next (noteSck s.sck (s.updRef r fun v => { v with st := .qualified }))
  else .next s

/-- REFERENCE_SELECT (R46, R49, R50): at a grid second boundary the highest-ranked QUALIFIED or SELECTED reference is the
selected one; the first adoption from UNLOCKED steps at the next tick. -/
def execReferenceSelect (s : State) : Host.Outcome State Fault Refusal :=
  onMain s <|
  if isSecond s.sck.now then
    match bestRef s true with
    | none => .next s
    | some r =>
      if (s.ref r).st = .selected then .next s
      else if s.sck.st = .unlocked then .next { s with sck := { s.sck with adopt := some r } }
      else .next (noteSck s.sck (adoptSlew r s))
  else .next s

/-- The OCXO is declared failed (R57): HOLDOVER becomes EXPIRED, and its bound grows by 20,000 ns/s from now. -/
def failOcxo (s : State) : State :=
  if s.sck.ocxoFailed then s
  else
    let k := { s.sck with ocxoFailed := true }
    match k.st with
    | .holdover | .expired =>
      noteSck s.sck (reBound { s with sck := { k with st := .expired, hold :=
        { k.hold with e0 := holdBound k.hold, us := 0, uPerUs := 2 * 10 ^ 18, full := false, tenMhz := false } } })
    | _ => { s with sck := k.note }

/-- OCXO_FAILED (R57): grid time is carried on the reference PLL, and the alarm of Table 15-3 is raised with the deviation in
ppm. -/
def execOcxoFailed (ppm : Nat) (s : State) : Host.Outcome State Fault Refusal :=
  onMain s <|
  .next (raiseAlarm causeOcxo 0 (8 + 2 ^ 32 * (ppm % 2 ^ 32)) (failOcxo s))

/-! ### The cycle angle (R74 to R79) -/

/-- Nominal frequency, Hz (SCK_ANGLE_CFG). -/
def State.nominal (s : State) : Nat := if bitOf (s.sckSet 0x6428) 0 then 60 else 50

/-- Coast limit, cycles. -/
def State.coastLimit (s : State) : Nat := fieldOf (s.sckSet 0x6428) 14 8

/-- The tracked frequency lies in the tracking range (R76). -/
def inRange (nominal freq : Nat) : Bool :=
  if nominal = 50 then decide (45000 ≤ freq) && decide (freq ≤ 55000) else decide (54000 ≤ freq) && decide (freq ≤ 66000)

/-- `n` nominal cycles in µs, rounded up. -/
def cyclesUs (nominal n : Nat) : Nat := (n * 1000000 + (nominal - 1)) / nominal

/-- The angle is LOST: nothing of it is kept. -/
def loseAngle (s : State) : State :=
  { s with sck := { s.sck with angleSt := .lost, freq := 0, coastUs := 0, usableUs := 0, lastSample := none, lastCross := none } }

/-- Instant of a sample, ns (R75): the start of slot `c` in the grid second of the frame's ingress stamp, or in the previous second
where the slot offset `o` makes it fall there. -/
def sampleInstant (stamp c o fs : Nat) : Nat :=
  let sec := stamp / nsPerSec
  let s := slotOf (stamp % nsPerSec) fs
  let back := decide ((s : Int) - o + slotDistance c s o fs < 0)
  (if back then sec - 1 else sec) * nsPerSec + slotStart c fs

/-- Positive-going zero crossing between two samples, in 1e-3 ns of grid time, by linear interpolation (R76). DESIGN CHOICE: the
spec does not say how the fundamental's crossing is found between samples. -/
def crossing (prev : Option (Nat × Int)) (at_ : Nat) (value : Int) : Option Nat :=
  match prev with
  | none => none
  | some (t0, v0) =>
    if v0 < 0 ∧ 0 ≤ value ∧ t0 < at_ then
      some (t0 * 1000 + (at_ - t0) * 1000 * v0.natAbs / (value - v0).natAbs)
    else none

/-- Frequency between two crossings, mHz, within ±1 mHz (R78): `err` is a free value. -/
def freqOf (c0 c1 err : Nat) : Nat := if c1 ≤ c0 then 0 else 10 ^ 15 / (c1 - c0) + err % 3 - 1

/-- Phase at grid time `now` when the last crossing was at `c`, 1e-9 cycles, within ±36 units of 1/65536 cycle (R78): `err` is a free
value. -/
def phaseOf (now c freq err : Nat) : Nat :=
  ((((now * 1000 : Int) - c) * freq / 1000000 + ((err % 73 : Nat) - 36 : Int) * nsPerSec / 65536) % nsPerSec).toNat

/-- A usable sample of the designated channel, at its instant and with its value (R75 to R78). Two cycles of usable samples bring
TRACKING. DESIGN CHOICE: they are measured as the sum of the times between samples whose gaps are under two nominal cycles, at the
nominal frequency; the error of each estimate within its bound of R78 is a free value. -/
def angleSample (at_ : Nat) (value : Int) (s : State) : State :=
  let a := freshValue s
  let b := freshValue a.2
  let s1 := b.2
  let k := s1.sck
  let gap := k.lastSample.isNone || decide (cyclesUs s1.nominal 2 ≤ k.sinceSampleUs)
  let usable := if gap then 0 else k.usableUs + k.sinceSampleUs
  let cross := if gap then none else crossing k.lastSample at_ value
  let freq := match cross, k.lastCross with
    | some c1, some c0 => freqOf c0 c1 a.1.toNat
    | _, _ => k.freq
  let k1 := { k with sinceSampleUs := 0, usableUs := usable, lastSample := some (at_, value), freq,
                     lastCross := if cross.isSome then cross else if gap then none else k.lastCross }
  let k2 := match cross with
    | some c => { k1 with phase := phaseOf k.now c freq b.1.toNat }
    | none => k1
  let known := decide (freq ≠ 0)
  let s2 :=
    if known && !inRange s1.nominal freq && k.angleSt != .lost then loseAngle { s1 with sck := k2 }
    else if known && inRange s1.nominal freq && (k.angleSt == .tracking || decide (cyclesUs s1.nominal 2 ≤ usable)) then
      { s1 with sck := { k2 with angleSt := .tracking, coastUs := 0 } }
    else { s1 with sck := k2 }
  noteSck s.sck s2

/-- ANGLE_COAST (R77): no usable sample for two nominal cycles. -/
def execAngleCoast (s : State) : Host.Outcome State Fault Refusal :=
  onMain s <|
  if s.sck.angleSt = .tracking ∧ cyclesUs s.nominal 2 ≤ s.sck.sinceSampleUs then
    .next (noteSck s.sck { s with sck := { s.sck with angleSt := .coasting, coastUs := 0, usableUs := 0 } })
  else .next s

/-- ANGLE_LOST (R77): coasting has lasted the coast limit, or the frequency has left the tracking range. -/
def execAngleLost (s : State) : Host.Outcome State Fault Refusal :=
  onMain s <|
  if (s.sck.angleSt = .coasting ∧ cyclesUs s.nominal s.coastLimit ≤ s.sck.coastUs)
      ∨ (s.sck.angleSt ≠ .lost ∧ inRange s.nominal s.sck.freq = false) then
    .next (noteSck s.sck (loseAngle s))
  else .next s

/-- The interpolated angle reached or passed A at the last tick: it was before A at the tick before. The phase moves by `freq`
1e-9 cycles in a tick. -/
def angleReached (k : Sck) (a : Nat) : Bool :=
  decide (((k.phase * 65536 : Int) - (a % 65536 : Nat) * nsPerSec) % (65536 * nsPerSec) < (k.freq * 65536 : Nat))

/-- ANGLE_REACHED (R79, R550): an activity waiting on its angle becomes due, or is not performed where the angle is not
valid. -/
def execAngleReached (ctx : Nat) (s : State) : Host.Outcome State Fault Refusal :=
  onMain s <|
  match s.ctx? ctx with
  | none => .next s
  | some c =>
    match c.angle with
    | none => .next s
    | some a =>
      if c.phase ≠ .held then .next s
      else if angleValid s.sck = false then .next (finishCtx c (bare stTimeNotLocked) s)
      else if angleReached s.sck a then
        .next (makeReady (.ctx c.id) (groupOfOpcode c.hdr.opcode) (s.setCtx { c with phase := .queued, dueTick := s.sck.now }))
      else .next s

/-! ### Settings taking effect (R699 to R703) -/

/-- Fields of a setting that wait for a grid second boundary, as the value to keep until then. -/
def mergeSetting (off old stored : Nat) : Nat :=
  if off = 0x6410 then setField old 23 16 (fieldOf stored 23 16)
  else if off = 0x6428 then setField old 14 8 (fieldOf stored 14 8)
  else if off = 0x6414 ∨ off = 0x6418 ∨ off = 0x642C then old
  else stored

/-- A reference leaves or joins those in use (R700): DISABLED, the selected one handled as failed; or ABSENT. -/
def applyEnable (r : Nat) (s : State) : State :=
  let v := s.ref r
  if s.refEnabled r then (if v.st = .disabled then s.setRef r {} else s)
  else
    let s1 := s.setRef r { st := .disabled }
    if v.st = .selected then loseSelected s1 else s1

/-- A change of SCK_PTP_CFG at a boundary (R701): PROFILE or DOMAIN restart the ports and fail PTP; CLOCK_TYPE changes the
roles. -/
def applyPtpCfg (old new : Nat) (s : State) : State :=
  let s1 := if fieldOf old 1 0 = fieldOf new 1 0 then s
    else
      let role (v : PtpPort) : PtpPort := if v = .slave then .slave else sideRole (fieldOf new 1 0)
      { s with sck := { s.sck with ptpPorts := Tbl.mapAll (fun _ v => role v) s.sck.ptpPorts } }
  if fieldOf old 2 2 = fieldOf new 2 2 ∧ fieldOf old 15 8 = fieldOf new 15 8 then s1
  else
    let s2 := { s1 with sck := { s1.sck with ptpPorts := Tbl.mapAll (fun _ _ => .initializing) s1.sck.ptpPorts, gmId := 0 } }
    let st := (s2.ref 0).st
    if st = .selected ∨ st = .qualified ∨ st = .qualifying then declareFailed 0 s2 else s2

/-- A change of SCK_10M_CFG (R702). -/
def applyTenMhz (old new : Nat) (s : State) : State :=
  let s1 :=
    if bitOf old 0 && !bitOf new 0 then tenMhzGone { s with sck := { s.sck with tenStableUs := 0 } }
    else if fieldOf old 29 16 ≠ fieldOf new 29 16 ∧ s.sck.hold.tenMhz ∧ (s.sck.st = .holdover ∨ s.sck.st = .expired) then
      { s with sck := { s.sck with hold := { s.sck.hold with e0 := holdBound s.sck.hold, us := 0, uPerUs := s.u10 } } }
    else s
  applyEnable 3 s1

/-- Bring one stored setting into force. -/
def applySetting (off : Nat) (s : State) : State :=
  let old := s.sckSet off
  let stored := (Tbl.find? (regKey 0 off) s.rw).getD (sckReset off)
  let new := if isSecond s.sck.now then stored else mergeSetting off old stored
  let s1 := { s with sck := { s.sck with
    inForce := Tbl.put off new s.sck.inForce,
    waiting := if new = stored then s.sck.waiting.filter (· != off) else s.sck.waiting } }
  if off = 0x6400 then applyEnable 0 (applyEnable 1 (applyEnable 2 s1))
  else if off = 0x6410 then judgeClass (applyPtpCfg old new s1)
  else if off = 0x641C then reBound (s1.updRef 1 fun v => { v with aRef := fieldOf new 19 0 })
  else if off = 0x6420 then applyTenMhz old new s1
  else if off = 0x642C then (if old = new then s1 else loseAngle s1)
  else if off = 0x6428 then (if bitOf old 0 = bitOf new 0 then s1 else loseAngle s1)
  else s1

/-- Bring stored settings into force in the order they were stored. -/
def applySettings : List Nat → State → State
  | [], s => s
  | off :: t, s => applySettings t (applySetting off s)

/-- SETTING_TAKES_EFFECT (R699): stored slot clock settings take effect; at a grid second boundary also the fields that
wait for one. -/
def execSettingTakesEffect (s : State) : Host.Outcome State Fault Refusal :=
  onMain s <|
  .next (noteSck s.sck (applySettings s.sck.waiting s))

end Sys2Proof.Machine
end

