-- ==== Sys2Proof/Machine/Tamper.lean ====
section
/-! DEFINITION. The tamper monitor's events: alarms in every power state, conditions that end, the Quench path and the
clearing of Restrict (15). -/

namespace Sys2Proof.Machine

/-! ### RTC time and the staging buffer (R610) -/

/-- RTC time, ns: the value last set and the cycles counted since. -/
def rtcTime (k : Sck) : Nat := k.rtcNs + (k.rtcCount - k.rtcSetCount) * nsPerSec / 32768

/-- RTC cycles pass while the main domain is off and the backup domain has power (R743); while it is on, TICK counts them. -/
def passRtc (cycles : Nat) (s : State) : State :=
  if !s.pwr.main && s.pwr.backupFed then { s with sck := { s.sck with rtcCount := s.sck.rtcCount + cycles } } else s

/-- Bit of a cause in the overflow bitmap (R610). -/
def bitmapBit (cause source : Nat) : Nat :=
  if cause = causeMesh then 0 else if cause = causeLoop then 1 + source % 4 else if cause = causeStandbyOver then 5 else 6

/-- Causes whose DATA holds a voltage at byte 4 (Table 15-9). -/
def supplyCause (cause : Nat) : Bool := [causeMainOver, causeStandbyOver, causeCellLow].contains cause

/-- VALUE of a staging entry from the data of an alarm: the voltage of a supply cause, else the resistance (Tables 15-7, 15-9). -/
def stagedValue (cause data : Nat) : Nat := data / 2 ^ (if supplyCause cause then 32 else 16) % 2 ^ 32

/-- Put an alarm into the backup staging buffer, or count it once the buffer is full (R610). -/
def stageAlarm (snowdrop : Bool) (cause source subtype value : Nat) (s : State) : State :=
  let t := s.tm
  if t.staging.length < 32 then
    let e : StagedAlarm := { cause, source, snowdrop, stamp := toStamp (rtcTime s.sck),
                             quality := rtcQuality s.sck.rtcLost (unlockedBound s.sck), subtype, value := satTo 0xFFFFFF value }
    { s with tm := { t with staging := t.staging ++ [e] } }
  else { s with tm := { t with overflow := satTo 0xFFFF (t.overflow + 1), bitmap := t.bitmap ||| 2 ^ bitmapBit cause source } }

/-- BBKR is zero: what is sealed under CSK, the migration keys, can never be opened again (Table 07-3, Table 17-8). -/
def Key.unrooted (k : Key) : Key :=
  { k with bbkr := none, rootPresent := false, domains := Tbl.mapAll (fun _ d => { d with migKey := none }) k.domains }

/-- BBKR becomes zero (R607). -/
def zeroBbkr (s : State) : State := { s with key := s.key.unrooted }

/-- The module is in standby: the 3.3 V input is present and 12 V is not (R608); once the scrap fuse is blown the tamper monitor is
not powered (R635). -/
def inStandby (s : State) : Bool := !s.pwr.main && s.pwr.standbyIn && !s.lcc.scrapFuse

/-- The module is in Snowdrop: neither input is present and the backup domain is powered (R608). -/
def inSnowdrop (s : State) : Bool := !s.pwr.main && !s.pwr.standbyIn && s.pwr.backupFed

/-- The tamper monitor watches in the main domain: it is not powered once the scrap fuse is blown (R635). -/
def watching (s : State) : Bool := s.pwr.main && !s.lcc.scrapFuse

/-- Causes monitored in standby (Table 15-3). -/
def standbyCause (cause : Nat) : Bool := [0x01, 0x02, 0x03, 0x04, 0x05, 0x10, 0x12, 0x13, 0x30].contains cause

/-- A loop is watched: LOOP alarms need ENABLE (R597). -/
def loopWatched (s : State) (cause source : Nat) : Bool :=
  cause != causeLoop || (decide (source < 4) && bitOf (s.loopCfg source) 0)

/-- SNOWDROP_ARM of a loop; it reads 1 while LEVEL is Quench-R (R609). -/
def loopArmed (s : State) (n : Nat) : Bool :=
  bitOf (s.loopCfg n) 0 && (bitOf (s.loopCfg n) 3 || fieldOf (s.loopCfg n) 2 1 == 3)

/-- Causes watched in Snowdrop (R609). -/
def snowdropCause (s : State) (cause source : Nat) : Bool :=
  cause == causeMesh || cause == causeStandbyOver || (cause == causeLoop && decide (source < 4) && loopArmed s source)

/-- An alarm while the main domain is off, in standby: it is staged, and a Quench-R alarm zeroes BBKR (R608). A condition
already present raises nothing. -/
def standbyAlarm (cause source data : Nat) (s : State) : State :=
  if standbyCause cause && loopWatched s cause source && !isPresent s cause source then
    let seen := if cause = causeLight then s.tm.present.filter (fun x => x.1 != causeLightDisagree) else s.tm.present
    let s1 := stageAlarm false cause source (data % 256) (stagedValue cause data)
      { s with tm := { s.tm with present := (cause, source) :: seen } }
    if alarmLevel s cause source = 3 then zeroBbkr s1 else s1
  else s

/-- An alarm in Snowdrop: BBKR is zeroed whatever the level, and the alarm is staged (R609). -/
def snowdropAlarm (cause source data : Nat) (s : State) : State :=
  if snowdropCause s cause source && !isPresent s cause source then
    zeroBbkr (stageAlarm true cause source (data % 256) (stagedValue cause data)
      { s with tm := { s.tm with present := (cause, source) :: s.tm.present } })
  else s

/-- A loop's wiring reports a break, or no longer. -/
def noteLoop (cause source data : Nat) (broken : Bool) (s : State) : State :=
  if cause = causeLoop ∧ source < 4 then
    { s with tm := { s.tm with loopOpen := if broken then Tbl.put source data s.tm.loopOpen else Tbl.del source s.tm.loopOpen } }
  else s

/-- TAMPER_ALARM (R588, R592): a monitor detects a condition or an event. `data` is DATA of Table 15-9 as a little-endian
number; `cycles` are the RTC cycles that have passed while the main domain is off. A break of a loop that is not enabled
raises nothing, and is kept for the moment it is enabled (R598). -/
def execTamperAlarm (cause source data cycles : Nat) (s0 : State) : Host.Outcome State Fault Refusal :=
  let s := noteLoop cause source data true (passRtc cycles s0)
  let s1 := if cause = causeLight then { s with tm := { s.tm with lightA := true, lightB := true } } else s
  if watching s then
    if allCauses.contains cause && loopWatched s cause source then .next (raiseAlarm cause source data s1) else .next s
  else if inStandby s then .next (standbyAlarm cause source data s1)
  else .next s

/-- SNOWDROP_ALARM (R609): an alarm in Snowdrop. -/
def execSnowdropAlarm (cause source data cycles : Nat) (s0 : State) : Host.Outcome State Fault Refusal :=
  let s := passRtc cycles s0
  if inSnowdrop s && !s.lcc.scrapFuse then .next (snowdropAlarm cause source data s) else .next s

/-- ALARM_CONDITION_ABSENT (R592): a monitor stops reporting a condition; a later onset makes a new entry. -/
def execAlarmConditionAbsent (cause source : Nat) (s0 : State) : Host.Outcome State Fault Refusal :=
  let s := noteLoop cause source 0 false s0
  if isPresent s cause source then
    let lightEnds := cause == causeLight || cause == causeLightDisagree
    .next { s with tm := { s.tm with
      present := s.tm.present.filter (· != (cause, source)),
      lightA := if lightEnds then false else s.tm.lightA,
      lightB := if lightEnds then false else s.tm.lightB } }
  else .next s

/-- LIGHT_DISAGREE_TIMEOUT (R595): one design reports light and the other has not within 10 ms. -/
def execLightDisagreeTimeout (designB : Bool) (elements cycles : Nat) (s0 : State) : Host.Outcome State Fault Refusal :=
  let s := passRtc cycles s0
  if (if designB then s.tm.lightA else s.tm.lightB) || isPresent s causeLight 0 then .next s
  else
    let s1 := { s with tm := if designB then { s.tm with lightB := true } else { s.tm with lightA := true } }
    let data := if designB then elements % 256 * 65536 + 2 ^ 24 else elements % 65536
    if watching s then .next (raiseAlarm causeLightDisagree 0 data s1)
    else if inStandby s then .next (standbyAlarm causeLightDisagree 0 data s1)
    else .next s

/-- CELL_TEST (R599): the hourly test of the cell; below 2.9 V CELL_LOW is present. -/
def execCellTest (mv cycles : Nat) (s0 : State) : Host.Outcome State Fault Refusal :=
  let s := passRtc cycles s0
  let s1 := { s with tm := { s.tm with cellMv := mv % 4096 } }
  let data := mv * 2 ^ 32
  if mv < 2900 then
    if watching s then .next (raiseAlarm causeCellLow 0 data s1)
    else if inStandby s then .next (standbyAlarm causeCellLow 0 data s1)
    else .next s
  else if s.pwr.main ∨ inStandby s = true then
    .next { s1 with tm := { s1.tm with present := s1.tm.present.filter (· != (causeCellLow, 0)) } }
  else .next s

/-- JOURNAL_OVERFLOW_HOUR (R602): an RTC hour ends; each cause beyond 16 entries makes one OVERFLOW entry. -/
def execJournalOverflowHour (s : State) : Host.Outcome State Fault Refusal :=
  onMain s <| .next (closeHour s)

/-! ### The Quench path (R605 to R607) -/

/-- QUENCH_R_ERASE (R607): the backup domain zeroes BBKR, on a Quench-R alarm in any power state. -/
def execQuenchRErase (s : State) : Host.Outcome State Fault Refusal :=
  if s.tm.quenchR ∨ (s.pwr.main = false ∧
      s.tm.staging.any (fun e => e.snowdrop || alarmLevel s e.cause e.source == 3) = true) then .next (zeroBbkr s)
  else .next s

/-- Words that did not read back as zero four times: their banks lose power and ZERO_FAILED is raised (R606). -/
def zeroFailed : List (Nat × Nat) → State → State
  | [], s => s
  | (region, bank) :: t, s =>
    zeroFailed t (raiseAlarm causeZeroFailed 0 (region + 256 * bank)
      { s with ac := { s.ac with banksOff := (region, bank) :: s.ac.banksOff } })

/-- End the open transfers of the functions below `n`. -/
def abortPorts : Nat → State → State
  | 0, s => s
  | n + 1, s => abortPort n false (abortPorts n s)

/-- A lifted entry of a RESTORED VF, which a Quench keeps (Table 12-11). -/
def Ctx.restored (s : State) (c : Ctx) : Bool := c.lifted && (s.func c.f).migration == .restored

/-- Contexts a Quench keeps. -/
def keptByQuench (s : State) : List Nat := (s.hif.ctxs.filter (Ctx.restored s)).map (·.id)

/-- A queue with the held input of the contexts alone. -/
def Queue.keepHeld (ids : List Nat) (q : Queue) : Queue :=
  { q with packets := q.packets.filter fun p => p.ctx.any ids.contains }

/-- The Quench-W erase to its end (Table 15-5): key cache, pads, contexts, core memories and queues; unfinished host
entries complete ABORTED, but for the lifted entries of a RESTORED VF; QUENCH_BUSY is cleared. -/
def quenchFinish (failed : List (Nat × Nat)) (s : State) : State :=
  let s1 := dropPads { s with key := { s.key with keys := [], lapsed := [] } }
  let s2 := abortPorts 64 s1
  let held := keptByQuench s2
  let s3 := finishWhere (fun c => !c.restored s2) stAborted s2.hif.ctxs s2
  let s4 := { s3 with
    ts := { s3.ts with items := [], ready := [], queues := Tbl.mapAll (fun _ q => q.keepHeld held) s3.ts.queues, delay0 := [], delay1 := [], delay2 := [], delay3 := [],
                       watches := s3.ts.watches.filter fun w => held.contains w.2 },
    pln := { s3.pln with parts := Tbl.mapAll (fun _ p => { p with loadHeld := false }) s3.pln.parts },
    tm := { s3.tm with quenchBusy := false } }
  zeroFailed failed s4

/-! ### Clearing Restrict (R590, R619) -/

/-- RESTRICT_CLEAR (R619): at the first tick after CLEAR_RESTRICT is applied CLEAR_HOLD is cleared; when the level falls to
Record the vault keys return. -/
def execRestrictClear (s : State) : Host.Outcome State Fault Refusal :=
  onMain s <|
  if s.tm.clearPending then
    let old := s.level
    let s1 := { s with tm := { s.tm with clearHold := false, clearPending := false,
                                         restrictOn := s.tm.restrictOn && s.tm.releaseHold } }
    .next (resumeKeys old (noteLevel old 0 s1))
  else .next s

/-- RELEASE_HOLD is cleared with RESERVE_FULL (R620); the condition ARCHIVE_RESERVE is over. -/
def clearRelease (s : State) : State :=
  if s.tm.releaseHold then
    let old := s.level
    let s1 := { s with tm := { s.tm with releaseHold := false, restrictOn := s.tm.restrictOn && s.tm.clearHold,
                                         present := s.tm.present.filter (fun x => x.1 != causeArchiveReserve) } }
    resumeKeys old (noteLevel old 0 s1)
  else s

end Sys2Proof.Machine
end

