-- ==== Sys2Proof/Machine/ArchiveOps.lean ====
section
/-! DEFINITION. The archive's operations: readout, capture windows, release, the tamper journal; and TIME_STEP (06, 11). -/

namespace Sys2Proof.Machine

/-! ### Readout (R272 to R276, R486) -/

/-- The body's fields are in range and consistent (R486), and the stamps of a filtered readout are stamps (R63). -/
def ReadSpec.ok (p : ReadSpec) : Bool :=
  decide (p.kind ≤ 1) && decide (p.log ≤ 2) && decide (p.from_ ≤ p.to_)
    && (p.kind == 0 || (stampValid p.from_ && stampValid p.to_)) && !(p.kind == 0 && p.filter != 0)
    && decide (p.types.length ≤ 8) && bitOf p.filter 2 == !p.types.isEmpty

/-- A function may read a record of this owner (R273). -/
def readableBy (f owner : Nat) : Bool := owner == f || owner == 0x7F || (f == 0 && owner == 0x7E)

/-- Stream entry that a record names. -/
def recEntry : RecBody → Option Nat
  | .streamEvent e => some e.entry
  | .counterSnapshot n _ _ => some n
  | .frameCapture n _ _ _ _ _ _ => some n
  | _ => none

/-- A record matches a filtered readout. -/
def filterTakes (p : ReadSpec) (f : Nat) (r : Record) : Bool :=
  decide (p.from_ ≤ r.stamp) && decide (r.stamp < p.to_) && readableBy f r.owner
    && (!bitOf p.filter 0 || r.owner == p.owner) && (!bitOf p.filter 1 || recEntry r.body == some p.entry)
    && (!bitOf p.filter 2 || p.types.contains r.typ)

/-- The SEQ ranges from `next` up to `last` that a list of records in SEQ order leaves out. -/
def gaps (last : Nat) : (next : Nat) → List Record → List (Nat × Nat)
  | next, [] => if next ≤ last then [(next, last)] else []
  | next, r :: t => (if next < r.seq then [(next, r.seq - 1)] else []) ++ gaps last (r.seq + 1) t

/-- SEQ of a log in a checkpoint. -/
def cpLogSeq (c : Checkpoint) (l : Nat) : Nat := if l = 1 then c.ringSeq else c.windowSeq

/-- A CHECKPOINT record's body. -/
def cpOf (r : Record) : Option Checkpoint :=
  match r.body with
  | .checkpoint c => some c
  | _ => none

/-- The bounding checkpoints of a verbatim range of log 1 or 2 (R486): the last below FROM or the first of the epoch, and the
first at or beyond TO − 1. `evs` is the event log, oldest first. -/
def bounds (p : ReadSpec) (evs : List Record) : List Record :=
  let cps := evs.filter fun r => (cpOf r).isSome
  let below := cps.filter fun r => (cpOf r).any fun c => decide (cpLogSeq c p.log < p.from_)
  let first := match below.getLast? with
    | some r => some r
    | none => cps.head?
  let second := cps.find? fun r => (cpOf r).any fun c => decide (p.to_ - 1 ≤ cpLogSeq c p.log)
  first.toList ++ second.toList

/-- The records a readout delivers, those of the range first, and the SEQ ranges it does not deliver (R274, R275). DESIGN CHOICE: a
filtered readout, which names no SEQ range, reports every range of its log that is gone. -/
def readout (p : ReadSpec) (f : Nat) (s : State) : List Record × List Record × List (Nat × Nat) :=
  let all := (s.arc.log p.log).records.reverse
  if p.kind = 1 then
    (all.filter (filterTakes p f), [], if p.from_ = p.to_ then [] else gaps (s.arc.log p.log).seq 1 all)
  else
    let own := all.filter fun r => decide (p.from_ ≤ r.seq) && decide (r.seq < p.to_)
    let last := (s.arc.log p.log).seq
    let first := if p.from_ = 0 then 1 else p.from_
    let missing := if p.from_ = p.to_ then [] else gaps (if p.to_ - 1 < last then p.to_ - 1 else last) first own
    let extra := if p.log = 0 ∨ p.from_ = p.to_ then [] else bounds p s.arc.log0.records.reverse
    (own, extra, missing)

/-- Bytes of a delivered record: the whole of it, or two units where it is redacted (R273). -/
def deliveredLen (f : Nat) (r : Record) : Nat := if readableBy f r.owner then 64 * r.units else 128

/-- The readout stream (R274). -/
def readoutBytes (p : ReadSpec) (f : Nat) (s : State) : Bytes :=
  let a := readout p f s
  let items := a.1 ++ a.2.1
  let bytes := items.foldl (fun n r => n + deliveredLen f r) (64 + 16 * a.2.2.length)
  fitBytes 64 (beBytes 4 0x414E5244 ++ leBytes 1 p.log ++ leBytes 1 p.kind ++ leBytes 2 0
      ++ leBytes 8 ((a.1.head?.map (·.seq)).getD 0) ++ leBytes 8 ((a.1.getLast?.map (·.seq)).getD 0)
      ++ leBytes 8 items.length ++ leBytes 8 bytes ++ leBytes 4 a.2.2.length)
    ++ (a.2.2.map fun g => leBytes 8 g.1 ++ leBytes 8 g.2).flatten
    ++ (items.map fun r => recordBytes (readableBy f r.owner) r).flatten

/-- ARCHIVE_READ (R272 to R276, R486): the readout goes out through the data port. -/
def execArchiveRead (q : Call) (spec : ReadSpec) (s : State) : Host.Outcome State Fault Refusal :=
  .next (runOp 0x0701 q 0 s fun s =>
    if spec.ok then .done (okDetail 0) (offerBytes q (readoutBytes spec q.f s) s) else .done (reject 0) s)

/-! ### Capture windows (R255, R256, R487) -/

/-- Windows scheduled or open at once (R255). -/
def windowLimit : Nat := 1024

/-- The lowest window number not in use, from `n` on; `k` numbers are tried. -/
def freeWindow (l : List CapWindow) : (k n : Nat) → Nat
  | 0, n => n
  | k + 1, n => if l.any (fun w => w.number == n) then freeWindow l k (n + 1) else n

/-- CAPTURE_WINDOW (R255, R256): a window of a group of the caller's partition, between two stamps; one whose start has passed
opens at once. -/
def execCaptureWindow (q : Call) (group start finish : Nat) (s : State) : Host.Outcome State Fault Refusal :=
  .next (runOp 0x0702 q 0 s fun s =>
    let a := stampNs start
    let b := stampNs finish
    if group = 0 ∨ 4095 < group ∨ stampValid start = false ∨ stampValid finish = false ∨ b ≤ s.sck.now ∨ b < a
        ∨ a + 3600 * nsPerSec < b then .done (reject 0) s
    else if windowLimit ≤ s.arc.windows.length then .done (bare stRefusedFull) s
    else
      let number := freeWindow s.arc.windows windowLimit 0
      let opened := decide (a ≤ s.sck.now)
      let w : CapWindow := { number, function := q.f, group, start := a, finish := b, opened }
      let s1 := { s with arc := { s.arc with windows := s.arc.windows ++ [w] } }
      .done (okDetail number) (if opened then windowRec w 0 s1 else s1))

/-! ### Release (R279, R488, R620) -/

/-- The checkpoint with this CP_SEQ in the event log, with its record's SEQ. -/
def findCheckpoint (cpSeq : Nat) : List Record → Option (Nat × Checkpoint)
  | [] => none
  | r :: t => match r.body with
    | .checkpoint c => if c.cpSeq = cpSeq then some (r.seq, c) else findCheckpoint cpSeq t
    | _ => findCheckpoint cpSeq t

/-- A zone is released by a cut at a checkpoint: its records all precede it, and its newest STAMP is older than the minimum
age in days. -/
def zoneReleased (now cpRec : Nat) (c : Checkpoint) (days : Nat) (z : Zone) : Bool :=
  decide (z.firstSeq ≤ z.lastSeq)
    && ((z.log == 0 && decide (z.lastSeq < cpRec)) || (z.log == 2 && decide (z.lastSeq ≤ c.windowSeq)))
    && decide (stampNs z.newest + days * 86400 * nsPerSec < now)

/-- The log writes to none of the released zones any more. -/
def closeReleased (l : List Nat) (v : LogState) : LogState :=
  { v with openZone := v.openZone.filter fun n => !l.contains n }

/-- The zones are released: the RELEASE record, then a checkpoint, before any zone is erased. -/
def releaseZones (signer cpSeq : Nat) (l : List Nat) (s : State) : State :=
  let arc := { s.arc with log0 := closeReleased l s.arc.log0, log2 := closeReleased l s.arc.log2,
                          released := s.arc.released ++ l }
  let s1 := { s with arc }
  let rec1 : Staged := { log := 0, typ := 7, owner := 0x7E, quality := s.quality, stamp := toStamp s.sck.now,
                         body := .release signer cpSeq l }
  appendCheckpoint false false false (appendRecord rec1 s1)

/-- ARCHIVE_RELEASE (R279, R488), authorised by two security officers of domain 0: CP_SEQ, EPOCH and MIN_AGE stand in PARAMS. -/
def execArchiveRelease (q : Call) (auth : AuthReq) (s : State) : Host.Outcome State Fault Refusal :=
  let cpSeq := leAt auth.params 0 8
  let minAge := leAt auth.params 12 2
  .next (runOp 0x0703 q 0 s fun s =>
    let cp := if leAt auth.params 8 4 = s.arc.epoch then findCheckpoint cpSeq s.arc.log0.records else none
    withAuth auth q.hdr.inLen 0x0703 0 roleOfficer 2 [(0, 14)] (cp.isSome && decide (minAge ≤ 3650)) s fun s1 =>
      let s := drainStaging s1
      match cp with
      | none => .done (reject 0x010A) s
      | some (r, c) =>
        let days := if minAge = 0 then 365 else minAge
        let l := Tbl.keys (fun n z => zoneReleased s.sck.now r c days z && !s.arc.released.contains n) s.arc.zones
        if l.isEmpty then .done (okDetail 0) s
        else .done (okDetail l.length) (releaseZones (signerPair auth.sigs) cpSeq l s))

/-- Flags of the reserve once it holds its full number again (R279, R620). -/
def afterRelease (s : State) : State :=
  if s.arc.reserveFree < reserveZones s.ident.nx880b then s
  else
    let s1 := clearRelease { s with arc := { s.arc with reserveInUse := false, reserveFull := false } }
    { s1 with tm := { s1.tm with present := s1.tm.present.filter (fun x => x.1 != causeArchiveReserve) } }

/-- ZONE_RELEASE_ERASE (R279): the released zones are erased and counted back. -/
def execZoneReleaseErase (s : State) : Host.Outcome State Fault Refusal :=
  onMain s <|
  if s.arc.released.isEmpty then .next s
  else
    let s1 := eraseReleased s.arc.released s
    .next (afterRelease { s1 with arc := { s1.arc with released := [], stopped := false } })

/-! ### The journal (R488, R614) -/

/-- JOURNAL_READ (R488): COUNT entries from index FIRST, authorised by an auditor of the caller's domain. Indexes beyond the
journal's 16,384 are out of range; entries not yet made are not delivered. -/
def execJournalRead (q : Call) (auth : AuthReq) (s : State) : Host.Outcome State Fault Refusal :=
  let first := leAt auth.params 0 4
  let count := leAt auth.params 4 4
  .next (runOp 0x0704 q 0 s fun s =>
    withAuth auth q.hdr.inLen 0x0704 q.f roleAuditor 1 [(0, 8)] (decide (first + count ≤ journalSize)) s fun s =>
      let l := s.tm.journal.reverse.filter fun j => decide (first ≤ j.index) && decide (j.index < first + count)
      .done (okDetail 0) (offerBytes q (l.map journalBytes).flatten s))

/-! ### TIME_STEP (R51, R489) -/

/-- TIME_STEP (R489): a step to a reference at the next tick, authorised by a security officer of domain 0. -/
def execTimeStep (q : Call) (auth : AuthReq) (s : State) : Host.Outcome State Fault Refusal :=
  let reference := leAt auth.params 0 1
  let maxStep := leAt auth.params 8 8
  .next (runOp 0x0801 q 16 s fun s =>
    if s.sck.stepTo.isSome then .busy
    else
      withAuth auth q.hdr.inLen 0x0801 0 roleOfficer 1 [(0, 1), (8, 8)] (decide (reference ≤ 2)) s fun s =>
        .running { s with sck := { s.sck with stepTo := some reference, stepCall := some (q, s.ctxIdFor q, maxStep) } })

end Sys2Proof.Machine
end

