-- ==== Sys2Proof/Machine/PlanCheck.lean ====
section
/-! DEFINITION. The checks of a plan image (Table 03-14), the budgets of R121 and the image as bytes (03). -/

namespace Sys2Proof.Machine

/-! ### Refusals (R745) -/

/-- A refusal: reason of Table 03-14, entry number or 0xFFFFFFFF, byte offset. -/
abbrev PlanFault := Nat × Nat × Nat

/-- The entry number of a fault outside the entries. -/
def noEntry : Nat := 0xFFFFFFFF

/-- The offset of the first field that is not zero. DESIGN CHOICE: of several faults of one reason the spec does not say which is reported;
the header comes before the entries, the entries before the key records and those before the signature blocks, a lower entry number
before a higher one, and within an entry or the header the first field of the list given here. -/
def firstNonZero : List (Nat × Nat) → Option Nat
  | [] => none
  | (off, v) :: t => if v = 0 then firstNonZero t else some off

/-- The offset of the first condition that holds, in the order of the list given (the same DESIGN CHOICE). -/
def firstOffset : List (Nat × Bool) → Option Nat
  | [] => none
  | (off, b) :: t => if b then some off else firstOffset t

/-- The first entry, in entry-number order, in which a check finds a fault (the same DESIGN CHOICE). -/
def firstEntry (base : Nat) (check : Nat → Entry → Option Nat) : Tbl Entry → Option (Nat × Nat)
  | [] => none
  | (i, e) :: t => match check i e with
    | some off => some (base + i, off)
    | none => firstEntry base check t

/-- A fault of a header field. -/
def headFault (reason : Nat) (off : Option Nat) : Option PlanFault := off.map fun o => (reason, noEntry, o)

/-- A fault of an entry. -/
def entryFault (reason : Nat) (x : Option (Nat × Nat)) : Option PlanFault := x.map fun y => (reason, y.1, y.2)

/-! ### Profiles, actions and kinds (Tables 03-5 to 03-7) -/

/-- A counter-mode profile, an HMAC profile. -/
def isCounter (p : Nat) : Bool := [0x04, 0x05, 0x24, 0x25, 0x26].contains p
def isHmac (p : Nat) : Bool := [0x01, 0x02, 0x03, 0x21, 0x22, 0x23].contains p

/-- A profile of the IEC 62351-6 family, of the IEC 61850-90-5 family. -/
def isL2Profile (p : Nat) : Bool := [0x01, 0x02, 0x03, 0x04, 0x05].contains p
def isRoutable (p : Nat) : Bool := [0x21, 0x22, 0x23, 0x24, 0x25, 0x26].contains p

/-- The profile exists. -/
def profileKnown (p : Nat) : Bool := p == 0 || isCounter p || isHmac p

/-- The profile may go with the kind (Table 03-6); profile 0x00 goes with every kind. -/
def profileFits (p kind : Nat) : Bool :=
  p == 0 || (isL2Profile p && (kind == 1 || kind == 2)) || (isRoutable p && (kind == 3 || kind == 4))

/-- The action may go with the profile (Table 03-7). -/
def actionFits (action p : Nat) : Bool :=
  action == 0 || (action == 1 && isL2Profile p) || (action == 2 && p != 0)

/-- The prediction rule may go with kind and profile (Table 03-10). -/
def ruleFits (e : Entry) : Bool :=
  match e.predRule with
  | 0 => e.profile == 0 || isHmac e.profile
  | 1 => e.kind == 1 && (e.profile == 4 || e.profile == 5)
  | _ => (e.kind == 2 || e.kind == 3 || e.kind == 4) && isCounter e.profile

/-- The entry names a handle. -/
def entryNames (e : Entry) (h : Nat) : Bool := (entryHandles e).any fun x => x.2 == h

/-- Default budget of a kind (R106). -/
def defaultBudget (kind : Nat) : Nat := if kind = 1 then 6000 else if kind = 2 then 4000 else 10000

/-! ### Match keys (R108, R109) -/

/-- The compared fields of two entries are equal; for kinds 0x03 and 0x04 the SPI keeps two entries apart only where both compare it.
TAGGED is not compared (DEDUCED): a priority-tagged frame matches both an entry with TAGGED 0 and one with TAGGED 1 and VID 0, and a frame
matches at most one entry. -/
def sameKey (a b : Entry) : Bool :=
  a.kind == b.kind && a.vid == b.vid &&
  (if a.kind = 3 ∨ a.kind = 4 then
     a.dstIp == b.dstIp && a.udpPort == b.udpPort && !(a.matchSpi && b.matchSpi && a.spi != b.spi)
   else if a.kind = 5 ∨ a.kind = 6 then a.dstIp == b.dstIp && a.udpPort == b.udpPort && a.matchId == b.matchId
   else a.dstMac == b.dstMac && a.matchId == b.matchId)

/-- Two used entries break R109. -/
def clash (a b : Entry) : Bool := sameKey a b && (a.ingress &&& b.ingress) != 0

/-! ### The checks, reason by reason -/

/-- Every field of an entry after MATCH_KIND, by offset. -/
def entryFields (e : Entry) : List (Nat × Nat) :=
  [(0x01, e.profile + e.action), (0x02, e.ingress + e.ingressRes), (0x04, e.flags), (0x06, e.vid + b2n e.tagged + e.vlanRes),
   (0x08, e.dstMac), (0x0E, e.matchId), (0x10, e.dstIp), (0x20, e.udpPort), (0x22, e.res22), (0x24, e.spi),
   (0x28, e.keyCur), (0x2C, e.keyNext), (0x30, e.rollAt), (0x38, e.predRule), (0x39, e.lookahead + e.lookRes)] ++
  [(0x3A, e.slotRate), (0x3B, e.slotWindow), (0x3C, e.slotOffset), (0x40, e.predMod), (0x44, e.budget),
   (0x48, e.egress + e.egressRes), (0x4A, e.vlanOp + e.pcp + e.vlanOpRes),
   (0x4B, b2n e.failKey + b2n e.failTime + b2n e.late + e.policyRes), (0x4C, e.egressVid + e.vidRes), (0x4E, e.archClass)] ++
  [(0x4F, e.tclass + e.tclassRes), (0x50, e.capGroup + e.capRes), (0x52, e.maxLen), (0x54, e.rate), (0x58, e.tag),
   (0x5C, e.res5C), (0x60, e.nonceFixed), (0x6C, e.res6C), (0x70, e.moduleUse)]

/-- The reserved fields of a used entry, by offset. -/
def reservedFields (e : Entry) : List (Nat × Nat) :=
  [(0x02, e.ingressRes), (0x04, e.flags / 8), (0x06, e.vlanRes), (0x22, e.res22), (0x39, e.lookRes), (0x48, e.egressRes),
   (0x4A, e.vlanOpRes), (0x4B, e.policyRes), (0x4C, e.vidRes), (0x4F, e.tclassRes), (0x50, e.capRes), (0x5C, e.res5C),
   (0x6C, e.res6C), (0x70, e.moduleUse)]

/-- FORMAT. -/
def checkFormat (i : PlanImage) : Option PlanFault :=
  headFault 0x01 (firstOffset [(0x00, i.magic != 0x464C504C), (0x04, i.format != 1), (0x06, i.headerLen != 0x100),
    (0x54, i.entryOffset != 0x100)])

/-- LENGTHS (R92, R93); `delivered` is the number of bytes delivered. -/
def checkLengths (i : PlanImage) (delivered : Nat) : Option PlanFault :=
  headFault 0x02 (firstOffset [(0x18, decide (i.keyCount > 16384)), (0x58, i.keyOffset != 0x100 + i.size * 128),
    (0x5C, i.sigOffset != i.keyOffset + i.keyCount * 16), (0x1C, i.imageLen != i.sigOffset + 272),
    (0, delivered != i.imageLen || i.keys.length != i.keyCount || (i.entries.any fun x => decide (i.size ≤ x.1)))])

/-- A reserved field of the key list, with its offset from the list's start: bits [7:1] of the flags, then the rest. -/
def reservedKey : Nat → List KeyRec → Option Nat
  | _, [] => none
  | off, k :: t => if k.reserved = 0 then reservedKey (off + 16) t else some (if k.reserved % 128 = 0 then off + 5 else off + 4)

/-- RESERVED_NONZERO: header, entries, key records, signature blocks, in this order (DESIGN CHOICE, as for the first fault of every
reason). -/
def checkReserved (i : PlanImage) : Option PlanFault :=
  headFault 0x03 (firstNonZero [(0x0D, i.res0D), (0x60, i.res60)])
  <|> entryFault 0x03 (firstEntry i.base
        (fun _ e => if e.kind = 0 then firstNonZero (entryFields e) else firstNonZero (reservedFields e)) i.entries)
  <|> headFault 0x03 (reservedKey i.keyOffset i.keys)
  <|> headFault 0x03 (firstNonZero [(i.sigOffset + 2, i.sigEng.reserved), (i.sigOffset + 138, i.sigSo.reserved)])

/-- A check of used entries only. -/
def onUsed (check : Nat → Entry → Option Nat) (i : Nat) (e : Entry) : Option Nat := if e.kind = 0 then none else check i e

/-- BAD_STAMP. -/
def checkStamps (i : PlanImage) : Option PlanFault :=
  headFault 0x07 (firstOffset [(0x20, !stampValid i.earliest), (0x28, !stampValid i.compiledAt)])
  <|> entryFault 0x07 (firstEntry i.base (onUsed fun _ e => firstOffset [(0x30, !stampValid e.rollAt)]) i.entries)

/-- ENTRY_CODE of one entry: unknown codes and fields out of their ranges. -/
def codeFault (e : Entry) : Option Nat :=
  firstOffset [(0x00, decide (7 < e.kind)), (0x01, !profileKnown e.profile || decide (2 < e.action)), (0x38, decide (2 < e.predRule)),
    (0x3A, decide (6 < e.slotRate)), (0x3C, e.slotRate != 0 && decide (slotFs e.slotRate ≤ e.slotOffset)),
    (0x44, decide (e.budget < 500) || decide (100000 < e.budget)), (0x4A, decide (3 < e.vlanOp)),
    (0x4E, decide (3 < e.archClass)), (0x52, decide (e.maxLen < 64) || decide (9216 < e.maxLen)),
    (0x54, decide (e.rate < 1) || decide (1000000 < e.rate))]

/-- EtherTypes that kind L2_OTHER excludes (Table 03-5). -/
def excludedTypes : List Nat := [0x88BA, 0x88B8, 0x88F7, 0x888E]

/-- NONCE_FIXED breaks R149. -/
def nonceBad (e : Entry) : Bool :=
  if isCounter e.profile then
    e.nonceFixed / 2 ^ 32 % 2 ^ 32 != 0 || (e.predRule == 1 && e.nonceFixed % 2 ^ 32 != 0)
  else e.nonceFixed != 0

/-- The entry breaks R153 with a handle that an earlier entry names, one of the two generating. -/
def generateBad (es : Tbl Entry) (i : Nat) (e : Entry) (h : Nat) : Bool :=
  h != 0 && es.any fun x => decide (x.1 < i) && x.2.kind != 0 && (entryGenerates x.2 || entryGenerates e) && entryNames x.2 h

/-- ENTRY_COMBINATION of one entry (R103 to R105, R107, R149, R153, R155 and Tables 03-5 to 03-13). DESIGN CHOICE: a combination is
located at one of its fields, which the spec does not name: 0x01 for a profile or an action against kind or profile, 0x3A for a slot rate
against the kind, 0x4B for FAIL_TIME and FAIL_KEY, 0x38 for a rule against kind or profile. DESIGN CHOICE: a breach of Table 03-4 alone (a
VID where TAGGED is 0, a MATCH_ID of the kinds 0x03 and 0x04, the last bytes of an IPv4 address) has this reason too. -/
def combinationFault (es : Tbl Entry) (i : Nat) (e : Entry) : Option Nat :=
  let plain := e.profile == 0
  firstOffset ([
    (0x01, !profileFits e.profile e.kind || !actionFits e.action e.profile),
    (0x02, e.ingress == 0),
    (0x04, (e.matchSpi && !(e.kind == 3 || e.kind == 4)) || (plain && e.keyNextValid)),
    (0x06, !e.tagged && e.vid != 0),
    (0x0E, ((e.kind == 3 || e.kind == 4) && e.matchId != 0) || (e.kind == 7 && excludedTypes.contains e.matchId)),
    (0x10, (e.kind == 3 || e.kind == 5) && e.dstIp % 2 ^ 96 != 0),
    (0x28, (plain && e.keyCur != 0) || (!plain && e.keyCur == 0) || generateBad es i e e.keyCur),
    (0x2C, (plain && e.keyNext != 0) || (!plain && e.keyNextValid && e.keyNext == 0) || (!e.keyNextValid && e.keyNext != 0)
      || (e.keyNextValid && generateBad es i e e.keyNext)),
    (0x30, (!e.keyNextValid && e.rollAt != 0) || (e.keyNextValid && e.rollAt == 0))] ++ [
    (0x38, !ruleFits e),
    (0x3A, e.slotRate != 0 && e.kind != 1),
    (0x3B, e.slotRate == 0 && e.slotWindow != 0),
    (0x3C, e.slotRate == 0 && e.slotOffset != 0),
    (0x4A, decide (e.vlanOp < 2) && e.pcp != 0),
    (0x4B, (e.slotRate == 0 && e.failTime) || (e.profile == 0x26 && entryGenerates e && e.failKey)),
    (0x4C, decide (e.vlanOp < 2) && e.egressVid != 0),
    (0x50, decide (e.archClass < 2) && e.capGroup != 0),
    (0x60, nonceBad e)])

/-- LOOKAHEAD of one entry (R102). -/
def lookaheadFault (e : Entry) : Option Nat :=
  firstOffset [(0x39, if e.predRule = 0 then e.lookahead != 0 else decide (e.lookahead < 2) || decide (8 < e.lookahead)),
    (0x40, if e.predRule = 1 then decide (e.predMod < 2) || decide (65536 < e.predMod) else e.predMod != 0)]

/-- Ports of a mask that satisfy `p`. -/
def maskPorts (mask : Nat) : List Nat := (List.range 12).filter fun p => mask.testBit p

/-- PORT_ABSENT of one entry: a mask names a port that does not exist now. -/
def absentFault (s : State) (e : Entry) : Option Nat :=
  firstOffset [(0x02, (maskPorts e.ingress).any s.portAbsent), (0x48, (maskPorts e.egress).any s.portAbsent)]

/-- PORT_SCOPE of one entry. -/
def scopeFault (scope : Nat) (e : Entry) : Option Nat :=
  firstOffset [(0x02, (e.ingress &&& scope) != e.ingress), (0x48, (e.egress &&& scope) != e.egress)]

/-- DUPLICATE_MATCH at the later of two entries. DESIGN CHOICE: the spec names no field; it is located at 0x02, INGRESS_PORTS. -/
def duplicateFault (es : Tbl Entry) (i : Nat) (e : Entry) : Option Nat :=
  firstOffset [(0x02, es.any fun x => decide (x.1 < i) && x.2.kind != 0 && clash x.2 e)]

/-- The list names a handle more than once before. -/
def listedBefore (h : Nat) : List KeyRec → Nat → Bool
  | _, 0 => false
  | [], _ => false
  | k :: t, n + 1 => k.handle == h || listedBefore h t n

/-- A faulty key record: a foreign handle, one listed twice, or one no entry names (R95). -/
def keyRecFault (i : PlanImage) : Nat → List KeyRec → Option Nat
  | _, [] => none
  | n, k :: t =>
    if handleFn k.handle ≠ i.function ∨ listedBefore k.handle i.keys n = true
        ∨ (i.entries.any fun x => x.2.kind != 0 && entryNames x.2 k.handle) = false then some (i.keyOffset + 16 * n)
    else keyRecFault i (n + 1) t

/-- KEY_LIST (R95). -/
def checkKeyList (i : PlanImage) : Option PlanFault :=
  headFault 0x16 (keyRecFault i 0 i.keys)
  <|> entryFault 0x16 (firstEntry i.base
        (onUsed fun _ e => firstOffset ((entryHandles e).map fun x => (x.1, !imageNames i x.2))) i.entries)

/-- DUPLICATE_TAG at the later of two entries. -/
def tagFault (es : Tbl Entry) (i : Nat) (e : Entry) : Option Nat :=
  firstOffset [(0x58, e.tag == 0 || es.any fun x => decide (x.1 < i) && x.2.kind != 0 && x.2.tag == e.tag)]

/-- SIGNATURE_ROLE. DESIGN CHOICE: equal SIGNER_IDs are located at the second one, the officer's. -/
def checkRoles (i : PlanImage) : Option PlanFault :=
  headFault 0x18 (firstOffset [(i.sigOffset, i.sigEng.role != roleEngineer), (i.sigOffset + 1, i.sigEng.algorithm != 1),
    (i.sigOffset + 136, i.sigSo.role != roleOfficer), (i.sigOffset + 137, i.sigSo.algorithm != 1),
    (i.sigOffset + 144, i.sigEng.signerId == i.sigSo.signerId)])

/-- The signer is enrolled for the role in the function's domain; at restart a revoked signer counts too (R314). -/
def planSigner (s : State) (f role signer : Nat) (restart : Bool) : Bool :=
  if restart then (s.dom f).roles.any fun r => r.role == role && r.signerId == signer else activeIn (s.dom f).roles role signer

/-- SIGNER_UNKNOWN, then SIGNATURE_INVALID. DESIGN CHOICE: a signature that fails is located at its SIG_R. -/
def checkSigners (s : State) (f : Nat) (i : PlanImage) (restart : Bool) : Option PlanFault :=
  headFault 0x19 (firstOffset [(i.sigOffset + 8, !planSigner s f roleEngineer i.sigEng.signerId restart),
    (i.sigOffset + 144, !planSigner s f roleOfficer i.sigSo.signerId restart)])
  <|> (let signed := (imageBytes i).take i.sigOffset
       headFault 0x1A (firstOffset [(i.sigOffset + 0x28, !sigVerifies s f signed i.sigEng),
         (i.sigOffset + 136 + 0x28, !sigVerifies s f signed i.sigSo)]))

/-- The checks of Table 03-14 that load and restart make on an image by itself, in table order (R115). -/
def checkPlan (s : State) (f base size delivered : Nat) (restart : Bool) (i : PlanImage) : Option PlanFault :=
  checkFormat i
  <|> checkLengths i delivered
  <|> checkReserved i
  <|> (if restart then none else headFault 0x04 (firstOffset [(0x0C, i.function != f)]))
  <|> headFault 0x05 (firstOffset [(0x10, i.base != base), (0x14, i.size != size)])
  <|> (if restart then none
       else headFault 0x06 (firstOffset [(0x08, i.version == 0 || decide (i.version ≤ Tbl.get 0 s.pln.highest f))]))
  <|> checkStamps i
  <|> entryFault 0x10 (firstEntry i.base (onUsed fun _ e => codeFault e) i.entries)
  <|> entryFault 0x11 (firstEntry i.base (onUsed (combinationFault i.entries)) i.entries)
  <|> entryFault 0x12 (firstEntry i.base (onUsed fun _ e => lookaheadFault e) i.entries)
  <|> entryFault 0x13 (firstEntry i.base (onUsed fun _ e => absentFault s e) i.entries)
  <|> entryFault 0x14 (firstEntry i.base (onUsed fun _ e => scopeFault (s.func f).portScope e) i.entries)
  <|> entryFault 0x15 (firstEntry i.base (onUsed (duplicateFault i.entries)) i.entries)
  <|> checkKeyList i
  <|> entryFault 0x17 (firstEntry i.base (onUsed (tagFault i.entries)) i.entries)
  <|> checkRoles i
  <|> checkSigners s f i restart

/-! ### Copies -/

/-- The copy a bank holds of an image: its used entries by entry number. -/
def copyOf (i : PlanImage) : PlanCopy :=
  { version := i.version, image := i, entries := (Tbl.keep (fun _ e => e.kind != 0) i.entries).map fun x => (i.base + x.1, x.2) }

/-- The key slots to which KEY_CUR and KEY_NEXT of an entry resolve, as the module writes them into bytes 0x70 to 0x73 of a bank (R100):
those of the key cache, none for a key that is not loaded. No readout shows them. -/
def bankSlots (s : State) (e : Entry) : Option Nat × Option Nat :=
  ((s.key? e.keyCur).map (·.slot), (s.key? e.keyNext).map (·.slot))

/-- Used entries, and those with a short budget (R106). -/
def usedCount (c : PlanCopy) : Nat := c.entries.length
def shortCount (c : PlanCopy) : Nat := Tbl.count (fun _ e => decide (e.budget < defaultBudget e.kind)) c.entries

/-! ### Budgets (R121, R201, R651, R652) -/

/-- Data rate of a mode, bit/s (Table 05-1). -/
def modeRate : Nat → Nat
  | 0 => 100000000000
  | 1 => 25000000000
  | 2 => 10000000000
  | 3 => 1000000000
  | _ => 0

/-- Budget rate of a port in a mode, bit/s (R201, Table 05-2). -/
def budgetRate (s : State) (p mode : Nat) : Nat :=
  let pct := match s.macsecOn p, (s.pairOf p).isSome with
    | false, false => 100
    | false, true => 93
    | true, false => 72
    | true, true => 68
  modeRate mode * pct / 100

/-- A, H, F and P_p of one entry (R121). -/
def aeadLoad (s : State) (e : Entry) : Nat :=
  let g := b2n (isCounter e.profile)
  let mIn := b2n ((maskPorts e.ingress).any s.macsecOn)
  let mOut := ((maskPorts e.egress).filter s.macsecOn).length
  e.rate * e.maxLen * 8 * (g + mIn + mOut)
def hmacLoad (e : Entry) : Nat := if isHmac e.profile then e.rate * e.maxLen * 8 else 0
def portLoad (p : Nat) (e : Entry) : Nat := if e.egress.testBit p then e.rate * (e.maxLen + 20) * 8 else 0

/-- Sum of a load over a set of copies. -/
def sumLoad (g : Entry → Nat) (cs : List PlanCopy) : Nat :=
  cs.foldl (fun n c => c.entries.foldl (fun m x => m + g x.2) n) 0

/-- Limits of A, H and F: the full ones, or those with a pipeline out; in Lupin A + H has one limit (R121, R651). -/
def cryptoFits (lupin short : Bool) (a h f : Nat) : Bool :=
  match lupin, short with
  | false, false => decide (a ≤ 800000000000) && decide (h ≤ 256000000000) && decide (f ≤ 600000000)
  | false, true => decide (a ≤ 600000000000) && decide (h ≤ 192000000000) && decide (f ≤ 450000000)
  | true, false => decide (a + h ≤ 200000000000) && decide (f ≤ 150000000)
  | true, true => decide (a + h ≤ 150000000000) && decide (f ≤ 112500000)

/-- The limits of R651 govern arming: a rolling test runs or a pipeline is out of service (R652). -/
def State.shortLimits (s : State) : Bool :=
  s.stc.rolling || (List.range 4).any fun n => !s.stc.pipes.testBit n

/-- The crypto budget holds for a set. -/
def setFits (s : State) (short : Bool) (cs : List PlanCopy) : Bool :=
  cryptoFits s.pwr.lupin short (sumLoad (aeadLoad s) cs) (sumLoad hmacLoad cs) (sumLoad (·.rate) cs)

/-- The port budgets hold for a set. -/
def portsFit (s : State) (cs : List PlanCopy) : Bool :=
  (List.range 12).all fun p => decide (sumLoad (portLoad p) cs ≤ budgetRate s p (s.portMode p))

/-- What a partition contributes to the set considered at instant `t`. -/
def contributes (t : Nat) (p : Partition) : List PlanCopy :=
  if p.standby = .armed ∧ p.instant ≤ t then p.held.toList else p.active.toList

/-- Armed instants later than `t`. -/
def laterInstants (t : Nat) (ps : Tbl Partition) : List Nat :=
  (ps.filter fun p => p.2.standby == .armed && decide (t < p.2.instant)).map fun p => p.2.instant

/-- The sets of R121 for content of one partition from instant `t` on, against the other partitions. -/
def budgetSets (t : Nat) (mine : PlanCopy) (others : Tbl Partition) : List (List PlanCopy) :=
  (t :: laterInstants t others).map fun u => mine :: (others.map fun p => contributes u p.2).flatten

/-- The other partitions. -/
def otherParts (f : Nat) (ps : Tbl Partition) : Tbl Partition := Tbl.keep (fun g _ => g != f) ps

/-- An entry that breaks R109 against another partition's active or armed plan. -/
def conflictFault (others : Tbl Partition) (e : Entry) : Option Nat :=
  let copies := (others.map fun p => p.2.active.toList ++ (if p.2.standby = .armed then p.2.held.toList else [])).flatten
  firstOffset [(0, copies.any fun c => c.entries.any fun x => clash x.2 e)]

/-- A fault of the used entries of a copy, with offset 0 (R745). -/
def copyFault (reason : Nat) (check : Entry → Bool) (c : PlanCopy) : Option PlanFault :=
  entryFault reason (firstEntry 0 (fun _ e => if check e then some 0 else none) c.entries)

/-- CONFLICT_OTHER_PARTITION, CRYPTO_BUDGET and PORT_BUDGET of content from instant `t` on; `short` says that the lower limits of R652
govern, as they do at arming only. -/
def crossFault (s : State) (short : Bool) (t : Nat) (mine : PlanCopy) (others : Tbl Partition) : Option PlanFault :=
  copyFault 0x20 (fun e => (conflictFault others e).isSome) mine
  <|> (let sets := budgetSets t mine others
       if sets.all (setFits s short) = false then some (0x21, noEntry, 0)
       else if sets.all (portsFit s) = false then some (0x22, noEntry, 0) else none)

/-! ### Keys at arming (R122, R297) -/

/-- The kinds of key a profile takes: AES for counter mode, HMAC. -/
def lineKind (profile kind : Nat) : Bool := if isCounter profile then kind == 1 || kind == 2 else kind == 3

/-- A loaded key permits the line use of an entry; a generation hold refuses GENERATE (R516). -/
def lineUseOk (s : State) (e : Entry) (k : LoadedKey) : Bool :=
  lineKind e.profile k.blob.attr.kind && k.blob.attr.usage.testBit (if entryGenerates e then useGenerate else useVerify)
    && !(entryGenerates e && (Tbl.get ({} : GenCtr) s.key.gens k.blob.handle).hold)

/-- The status of the key checks: KEY_NOT_LOADED before KEY_USAGE_DENIED. -/
def armKeys (s : State) (c : PlanCopy) : Option Nat :=
  let named := (c.entries.map fun x => (entryHandles x.2).map fun h => (x.2, h.2)).flatten
  if named.any (fun x => !(s.key.rootPresent && (s.key? x.2).isSome)) then some stKeyNotLoaded
  else if named.any (fun x => !((s.key? x.2).any (lineUseOk s x.1))) then some stKeyUsageDenied
  else none

/-- VAULT_BLOB_MISSING: the first entry that names a VAULT key whose blob is absent. -/
def vaultFault (s : State) (c : PlanCopy) : Option PlanFault :=
  copyFault 0x23 (fun e => (entryHandles e).any fun h => imageVaults c.image h.2 && !Tbl.has s.key.vault h.2) c

end Sys2Proof.Machine
end

