-- ==== Sys2Proof/Machine/Copies.lean ====
section
/-! DEFINITION. Entries and their counters, capture copies, and the copies of frames at the egress ports (03, 04, 05, 06). -/

namespace Sys2Proof.Machine

/-! ### Entries -/

/-- The partition that holds an entry number. -/
def partAt (n : Nat) : Tbl Partition → Option (Nat × Partition)
  | [] => none
  | (f, p) :: t => if p.base ≤ n ∧ n < p.base + p.size then some (f, p) else partAt n t

/-- The used entry with a number, of the active bank or of the bank just replaced, with its function. -/
def State.entryAt (s : State) (n : Nat) (old : Bool) : Option (Nat × Entry) :=
  (partAt n s.pln.parts).bind fun x =>
    ((if old then x.2.held else x.2.active).bind fun c => Tbl.find? n c.entries).map fun e => (x.1, e)

/-- What the frame engine keeps for an entry: that of the old version where it does not continue (R127). -/
def State.rt (s : State) (n : Nat) (old : Bool) : EntryRt :=
  (if old then Tbl.find? n s.fe.drainRt else none).getD (Tbl.get {} s.fe.entries n)

/-- Change what the frame engine keeps for an entry. -/
def State.updRt (n : Nat) (old : Bool) (g : EntryRt → EntryRt) (s : State) : State :=
  if old && Tbl.has s.fe.drainRt n then
    { s with fe := { s.fe with drainRt := Tbl.put n (g (Tbl.get {} s.fe.drainRt n)) s.fe.drainRt } }
  else if Tbl.has s.fe.entries n then
    { s with fe := { s.fe with entries := Tbl.put n (g (Tbl.get {} s.fe.entries n)) s.fe.entries } }
  else s

/-! ### Counters (R188, R189) -/

/-- Change an entry's counters: those of the drain for a frame of the old version that do not carry over. -/
def State.updCounters (n : Nat) (old : Bool) (g : List Nat → List Nat) (s : State) : State :=
  if old && Tbl.has s.fe.drain n then
    { s with fe := { s.fe with drain := Tbl.put n (g (Tbl.get [] s.fe.drain n)) s.fe.drain } }
  else if Tbl.has s.fe.entries n then
    let e := Tbl.get {} s.fe.entries n
    { s with fe := { s.fe with entries := Tbl.put n { e with counters := g e.counters } s.fe.entries } }
  else s

/-- Count in an entry's counter set (Table 04-10). -/
def bumpStream (n : Nat) (old : Bool) (i : Nat) (s : State) : State := s.updCounters n old (bumpAt 14 i 1)

/-- Element 12 becomes the larger of itself and a residence. -/
def maxAt (i r : Nat) (l : List Nat) : List Nat := bumpAt 14 i (r - ctrAt i l) l

/-- The fourteen values of a counter set. -/
def fourteen (l : List Nat) : List Nat := (List.range 14).map fun i => ctrAt i l

def cMatched : Nat := 0
def cPassed : Nat := 1
def cTagFailed : Nat := 2
def cStale : Nat := 3
def cSlotFailed : Nat := 4
def cMalformed : Nat := 5
def cPadMisses : Nat := 6
def cFailForwarded : Nat := 7
def cFailDropped : Nat := 8
def cCopiesSent : Nat := 9
def cLate : Nat := 10
def cLateDropped : Nat := 11
def cMaxResidence : Nat := 12
def cOutgoingKey : Nat := 13

/-- The counter set that a frame of an entry counts in is lost to a memory error (R190). A set of the drain belongs to an entry that has
left the active bank. -/
def counterError (n : Nat) (old : Bool) (s : State) : State :=
  match s.entryAt n old with
  | none => s
  | some (f, e) =>
    let s1 := s.updCounters n old fun _ => []
    let s2 := if old && Tbl.has s.fe.drain n then s1
      else { s1 with fe := { s1.fe with entries := Tbl.upd {} n (fun r => { r with continuityLost := true }) s1.fe.entries } }
    raiseEvent .fe f 5
      (stageRec 0x10 f (.streamEvent { entry := n, tag := e.tag, cause := 0x0A, port := 0, action := 3, budget := e.budget }) s2)

/-! ### Capture copies (R187, R255, R263) -/

/-- Capture staging and the governor take a copy of this size into a log (R263). -/
def captureTakes (log bytes : Nat) (a : Arc) : Bool :=
  decide (a.govLevel < (if log = 1 then 1 else 2)) && !(log == 1 && decide (6291456 < a.captureBytes))
    && decide (a.captureBytes + bytes ≤ captureArea)

/-- Stage a capture copy of this size into a log, or refuse it. -/
def takeCapture (log f group stamp bytes : Nat) (s : State) : Bool × State :=
  if captureTakes log bytes s.arc then
    (true, { s with arc := { s.arc with captureBytes := s.arc.captureBytes + bytes } })
  else
    let s1 := refuseCapture log s
    (false, if log = 2 then countWindows f group stamp true s1 else s1)

/-- Stage a frame for the ring and the windows as asked; which copies were taken. -/
def takeCaptures (ring window : Bool) (f group stamp bytes : Nat) (s : State) : Bool × Bool × State :=
  let a := if ring then takeCapture 1 f group stamp bytes s else (false, s)
  let due := window && a.2.arc.windows.any fun w => w.covers f group stamp
  let b := if due then takeCapture 2 f group stamp bytes a.2 else (false, a.2)
  (a.1, b.1, b.2)

/-- Size of the record of a capture copy. -/
def captureSize (copies len : Nat) : Nat := 64 * unitsFor (0x30 + 16 * copies + len)

/-- The completed capture copies go to their logs. -/
def stageCaptures (ring window : Bool) (owner group quality stamp : Nat) (body : RecBody) (s : State) : State :=
  let s1 := if ring then stageWith 1 0x100 owner quality 0 stamp body s else s
  let copy : Staged := { log := 2, typ := 0x100, owner, group, quality, stamp := toStamp stamp, body }
  if window then { s1 with arc := { s1.arc with staging := s1.arc.staging ++ [copy] } } else s1

/-! ### Frames and their copies -/

/-- A frame by its number. -/
def State.frame? (s : State) (id : Nat) : Option TxFrame := s.fe.frames.find? fun f => f.id == id

/-- The matched frame of a copy; a frame of the cores has none. -/
def State.frameOf (s : State) (c : TxCopy) : Option TxFrame := if c.core.isSome then none else s.frame? c.frame

/-- Replace a frame. -/
def putFrame (v : TxFrame) : List TxFrame → List TxFrame
  | [] => []
  | f :: t => if f.id = v.id then v :: t else f :: putFrame v t

/-- DETAIL of a TIMED_PUBLISH whose frame was forwarded (R490). -/
def pubDetail (fr : TxFrame) : Nat := b2n fr.marked + 4 * b2n fr.missed

/-- A frame whose copies have all ended: its capture records are complete (R237), and a publication completes. -/
def finishFrame (fr : TxFrame) (s : State) : State :=
  let s1 := { s with fe := { s.fe with frames := s.fe.frames.filter fun f => f.id != fr.id } }
  let s2 := stageCaptures fr.toRing fr.toWindow fr.function fr.group fr.quality fr.stamp
    (.frameCapture fr.entry fr.tag fr.ingressPort fr.result fr.descs fr.data fr.len) s1
  match fr.pub with
  | none => s2
  | some (q, ctx) => lateComplete q ctx (okOut (pubDetail fr) (leBytes 8 (toStamp fr.stamp))) s2

/-- A copy or a frame of the cores leaves its port. -/
def dequeue (c : TxCopy) (s : State) : State :=
  { s with fe := { s.fe with copies := s.fe.copies.filter fun x => x.id != c.id } }.updPort c.port fun v =>
    { v with buffer := v.buffer - c.len }

/-- A copy has ended: it leaves its port, its descriptor joins the frame's, and the last one completes the frame. -/
def endCopy (c : TxCopy) (fr : TxFrame) (d : CopyDesc) (s : State) : State :=
  let s2 := dequeue c s
  let fr' := { fr with descs := fr.descs ++ [d], left := fr.left - 1, missed := fr.missed || d.late }
  if fr'.left = 0 then finishFrame fr' s2 else { s2 with fe := { s2.fe with frames := putFrame fr' s2.fe.frames } }

/-- Descriptor of a copy discarded before transmission (R242). -/
def notSent (port : Nat) (late : Bool) (stamp : Nat) : CopyDesc :=
  { port, late, notSent := true, macsec := false, residence := 0xFFFFFFFF, egressStamp := stamp }

/-- Residence of a copy at an egress stamp (R173, R81). -/
def residence (fr : TxFrame) (stamp : Nat) : Nat := ((stamp : Int) - fr.stamp - fr.stepAdj).toNat

/-- A deadline miss (R176): LATE, LATE_DROPPED, the event record, DEADLINE_MISS. -/
def missDeadline (fr : TxFrame) (port stamp : Nat) (dropped : Bool) (s : State) : State :=
  let s1 := bumpStream fr.entry fr.oldBank cLate s
  let s2 := if dropped then bumpStream fr.entry fr.oldBank cLateDropped s1 else s1
  let s3 := streamEvent fr.function fr.stamp fr.quality
    { entry := fr.entry, tag := fr.tag, cause := if dropped then 6 else 5, port, action := if dropped then 0 else 2,
      budget := fr.budget, egressStamp := toStamp stamp, residence := residence fr stamp } s2
  raiseEvent .fe fr.function 0 s3

/-- Note a residence in MAX_RESIDENCE (R177). -/
def noteResidence (fr : TxFrame) (stamp : Nat) (s : State) : State :=
  s.updCounters fr.entry fr.oldBank (maxAt cMaxResidence (residence fr stamp))

/-- A copy still waiting is discarded late at grid time now (R126, R175, R178). -/
def discardLate (c : TxCopy) (fr : TxFrame) (s : State) : State :=
  let s1 := missDeadline fr c.port s.sck.now true (noteResidence fr s.sck.now s)
  endCopy c fr (notSent c.port true (toStamp s.sck.now)) s1

/-- A copy lost at its port: counted there and not against the stream (R206, R207, R225). -/
def losePort (counter : Nat) (c : TxCopy) (fr : TxFrame) (s : State) : State :=
  endCopy c fr (notSent c.port false 0) (bumpPort c.port counter 1 s)

/-- Discard each of a list of copies late. -/
def discardAll : List TxCopy → State → State
  | [], s => s
  | c :: t, s => discardAll t (match s.frameOf c with
    | none => s
    | some fr => discardLate c fr s)

/-- A copy, or a frame of the cores, is lost at its port. -/
def loseWaiting (counter : Nat) (c : TxCopy) (s : State) : State :=
  match s.frameOf c with
  | none => dequeue c (bumpPort c.port counter 1 s)
  | some fr => losePort counter c fr s

/-- Lose each of a list of copies at its port. -/
def loseAll (counter : Nat) : List TxCopy → State → State
  | [], s => s
  | c :: t, s => loseAll counter t (loseWaiting counter c s)

/-- COPY_DISCARD_TIMEOUT (R175): a copy that has not begun transmission 1 ms after its ingress stamp is discarded. -/
def execCopyDiscardTimeout (copy : Nat) (s : State) : Host.Outcome State Fault Refusal :=
  onMain s <|
  match s.fe.copies.find? fun c => c.id == copy with
  | none => .next s
  | some c =>
    match s.frameOf c with
    | none => .next s
    | some fr => if 1000000 ≤ residence fr s.sck.now then .next (discardLate c fr s) else .next s

/-! ### Transmission (R174, R204, R225) -/

/-- The copy goes before another at its port: a higher class, then the earlier ingress stamp (R143), then the earlier hand-over. A step
moves the stamps taken before it (R81). -/
def TxCopy.before (a b : TxCopy) : Bool :=
  let ta := (a.at_ : Int) + a.stepAdj
  let tb := (b.at_ : Int) + b.stepAdj
  decide (b.tclass < a.tclass) || (a.tclass == b.tclass && (decide (ta < tb) || (ta == tb && decide (a.id ≤ b.id))))

/-- The copy a port serves next (R204). -/
def nextCopy (port : Nat) : List TxCopy → Option TxCopy
  | [] => none
  | c :: t =>
    match nextCopy port t with
    | none => if c.port = port then some c else none
    | some b => if c.port = port ∧ c.before b = true then some c else some b

/-- Bytes of a copy ahead of MACsec. -/
def copyBytes (c : TxCopy) (fr : TxFrame) : Bytes :=
  Config.frameBytes c.vlan fr.sec (c.redSeq.map fun x => (x, c.port % 2)) fr.data

/-- MACsec of a copy that begins transmission: what was applied at the hand-off, else what is applied now; none while the port's MACsec
is down (R225, R226). -/
def lateMacsec (c : TxCopy) (bytes : Bytes) (s : State) : Option MacsecOut × State :=
  if s.macsecOn c.port = false ∨ s.macsecDown c.port = true then (none, s)
  else if c.macsec.isSome then (c.macsec, s) else applyMacsec c.port bytes s

/-- Count a frame transmitted with its bytes, those of MACsec included (Table 05-9). -/
def countSent (p len : Nat) (macsec : Option MacsecOut) (s : State) : State :=
  bumpPort p pTxBytes (len + if macsec.isSome then macsecBytes else 0) (bumpPort p pTxFrames 1 s)

/-- A copy is transmitted at an egress stamp; a late one is counted (R173 to R177). -/
def transmit (c : TxCopy) (fr : TxFrame) (stamp : Nat) (macsec : Option MacsecOut) (s : State) : State :=
  let s2 := emit (.copy c.port fr.entry c.redSeq c.vlan macsec stamp fr.sec) (countSent c.port c.len macsec s)
  let s3 := noteResidence fr stamp (bumpStream fr.entry fr.oldBank cCopiesSent s2)
  let late := decide (fr.budget < residence fr stamp)
  let s4 := if late then missDeadline fr c.port stamp false s3 else s3
  endCopy c fr { port := c.port, late, notSent := false, macsec := macsec.isSome, residence := residence fr stamp,
                 egressStamp := toStamp stamp } s4

/-- A port begins a copy, whose egress stamp will be `stamp`. One that has waited for 1 ms is discarded (R175); under MACsec down
MACSEC_FAIL decides (R225); a copy over its budget under LATE 1 is not transmitted (R174). -/
def startCopy (c : TxCopy) (fr : TxFrame) (stamp : Nat) (s : State) : State :=
  let down := s.macsecOn c.port && s.macsecDown c.port
  if 1000000 ≤ residence fr s.sck.now then discardLate c fr s
  else if down && !s.portFailOpen c.port then losePort pMacsecDown c fr s
  else
    let m := lateMacsec c (copyBytes c fr) s
    if fr.lateDrop && decide (fr.budget < residence fr stamp) then
      endCopy c fr (notSent c.port true 0) (missDeadline fr c.port stamp true (noteResidence fr stamp m.2))
    else transmit c fr stamp m.1 (if down then bumpPort c.port pBypass 1 m.2 else m.2)

/-- Residence of a Sync that a transparent clock forwards, with the peer delay of its ingress port (R228). -/
def relayed (c : TxCopy) (ingress delay stamp : Nat) : Int := (stamp : Int) - ingress - c.stepAdj + delay

/-- A frame of the cores as it leaves at an egress stamp: a one-step port writes a relayed Sync's correction into it (R229). -/
def coreAt (c : TxCopy) (oneStep : Bool) (stamp : Nat) : CoreFrame → CoreFrame
  | .sync k (some (ingress, delay)) f => .sync (if oneStep then k + relayed c ingress delay stamp else k) none f
  | x => x

/-- What follows a frame of the cores once its egress stamp is known: the Follow_Up of a Sync and of a Pdelay_Resp on a two-step port,
which carries a relayed Sync's correction, and on a one-step port the Follow_Up that came with a relayed Sync (R228, R229). -/
def coreFollows (c : TxCopy) (oneStep : Bool) (stamp : Nat) : CoreFrame → Option CoreFrame
  | .sync _ none _ => if oneStep then none else some (.followUp 0 (some stamp))
  | .sync _ (some (ingress, delay)) f =>
    if oneStep then f.map fun k => .followUp k none else some (.followUp (f.getD 0 + relayed c ingress delay stamp) none)
  | .pdelayResp received => if oneStep then none else some (.pdelayRespFollowUp received stamp)
  | _ => none

/-- A port begins a frame of the cores. -/
def startCore (c : TxCopy) (src : Nat) (x : CoreFrame) (stamp : Nat) (s : State) : State :=
  let sec := s.macsecOn c.port && !isEapol x
  let down := sec && s.macsecDown c.port
  if down && !s.portFailOpen c.port then loseWaiting pMacsecDown c s
  else
    let red := c.redSeq.map fun n => (n, c.port % 2)
    let m := if sec then lateMacsec c (Config.coreBytes src red x) s else (none, s)
    let s1 := if down then bumpPort c.port pBypass 1 m.2 else m.2
    let s2 := emit (.core c.port src c.tclass c.redSeq m.1 stamp (coreAt c (s.ptpOneStep c.port) stamp x))
      (countSent c.port c.len m.1 (dequeue c s1))
    match coreFollows c (s.ptpOneStep c.port) stamp x with
    | none => s2
    | some y => sendPort c.port c.tclass y s2

/-- COPY_TRANSMIT_START (R174, R204): the port begins the next frame of its queues. -/
def execCopyTransmitStart (port stamp : Nat) (s : State) : Host.Outcome State Fault Refusal :=
  onMain s <|
  match nextCopy port s.fe.copies with
  | none => .next s
  | some c =>
    match c.core with
    | some (src, x) => .next (startCore c src x stamp s)
    | none =>
      match s.frameOf c with
      | none => .next s
      | some fr => .next (startCopy c fr stamp s)

/-! ### Hand-off to the egress ports (R111, R143, R206, R207, R209, R213) -/

/-- FE_PORT_MARK_VID of a port (R183). -/
def State.markVid (s : State) (p : Nat) : Nat := fieldOf (s.reg 0 (0x2200 + 4 * p) 0) 11 0

/-- The egress VLAN operation (R209): the outermost tag afterwards. -/
def vlanAfter (e : Entry) (vlan inner : Option (Nat × Nat)) : Option (Nat × Nat) :=
  match e.vlanOp with
  | 0 => vlan
  | 1 => if vlan.isSome then inner else none
  | _ => some (e.egressVid, e.pcp)

/-- The mark VID on a copy (R183). -/
def markTag (vid tclass : Nat) (marked : Bool) (vlan : Option (Nat × Nat)) : Option (Nat × Nat) :=
  if marked && vid != 0 then some (vid, (vlan.map (·.2)).getD tclass) else vlan

/-- Bytes that a 0x8100 tag adds: the change of length from one outermost tag to another. -/
def tagDelta (before after : Bool) : Int := if before = after then 0 else if after then 4 else -4

/-- Length after the egress VLAN operation (R209). -/
def vlanLength (e : Entry) (vlan : Option (Nat × Nat)) (len : Nat) : Nat :=
  match e.vlanOp with
  | 0 => len
  | 1 => (len + tagDelta vlan.isSome false).toNat
  | 2 => (len + tagDelta vlan.isSome true).toNat
  | _ => len + 4

/-- Where a frame's copies go: port and pair, each pair once with both members (R111, R213). -/
def targetsFrom (s : State) (arrival mask : Nat) : (n p : Nat) → (done : List Nat) → List (Nat × Option Nat)
  | 0, _, _ => []
  | n + 1, p, done =>
    if mask.testBit p = false then targetsFrom s arrival mask n (p + 1) done
    else match s.pairOf p with
      | none =>
        if p = arrival then targetsFrom s arrival mask n (p + 1) done
        else (p, none) :: targetsFrom s arrival mask n (p + 1) done
      | some (i, _) =>
        if ((s.pairOf arrival).any fun x => x.1 == i) || done.contains i then targetsFrom s arrival mask n (p + 1) done
        else (4 + 2 * i, some i) :: (5 + 2 * i, some i) :: targetsFrom s arrival mask n (p + 1) (i :: done)

/-- The copies' targets. -/
def targets (s : State) (arrival mask : Nat) : List (Nat × Option Nat) := targetsFrom s arrival mask 12 0 []

/-- Pairs that a list of targets sends into, each once. -/
def pairsIn (ts : List (Nat × Option Nat)) : List Nat := (List.range 4).filter fun i => ts.any fun t => t.2 == some i

/-- A copy is lost at the moment of its hand-off. -/
def loseNew (counter : Nat) (c : TxCopy) (fr : TxFrame) (s : State) : State := losePort counter { c with len := 0 } fr s

/-- Hand one copy to its port: discarded where the link is down or the buffer is full (R206, R207); under MACsec it takes its packet
number now, unless MACsec is down (R140 step 9). -/
def handCopy (fid port : Nat) (redSeq : Option Nat) (e : Entry) (vlan : Option (Nat × Nat)) (s : State) : State :=
  match s.frame? fid with
  | none => s
  | some fr =>
    let id := s.fe.nextId
    let tag := markTag (s.markVid port) e.tclass fr.marked vlan
    let len := (fr.egressLen + tagDelta vlan.isSome tag.isSome).toNat + if redSeq.isSome then tagBytes else 0
    let c : TxCopy := { id, frame := fid, port, tclass := e.tclass, at_ := fr.stamp, len, redSeq, vlan := tag, stepAdj := fr.stepAdj }
    let s1 := { s with fe := { s.fe with nextId := id + 1 } }
    if (s.port port).linkUp = false then loseNew pLinkDown c fr s1
    else if txBuffer < (s.port port).buffer + c.len then loseNew pEgressFull c fr s1
    else
      let m := lateMacsec c (copyBytes c fr) s1
      enqueue { c with macsec := m.1 } m.2

/-- Hand the copies to their ports in port order. -/
def handCopies (fid : Nat) (e : Entry) (vlan : Option (Nat × Nat)) (seqs : Nat → Nat) :
    List (Nat × Option Nat) → State → State
  | [], s => s
  | (p, i) :: t, s => handCopies fid e vlan seqs t (handCopy fid p (i.map seqs) e vlan s)

/-- Hand a forwarded frame to the ports of its entry, with its capture copies (R187). A frame of an entry with EGRESS_PORTS 0
that passed is staged without copies. -/
def handOff (fr : TxFrame) (e : Entry) (passed : Bool) (vlan inner : Option (Nat × Nat)) (s : State) : State :=
  let ts := targets s fr.ingressPort e.egress
  let stage := !ts.isEmpty || (e.egress == 0 && passed)
  let ring := stage && (e.archClass == 1 || e.archClass == 3)
  let window := stage && (e.archClass == 2 || e.archClass == 3)
  let cap := takeCaptures ring window fr.function e.capGroup fr.stamp (captureSize ts.length fr.len) s
  let s1 := cap.2.2
  let fr' := { fr with id := s1.fe.nextId, toRing := cap.1, toWindow := cap.2.1, group := e.capGroup, left := ts.length,
                       egressLen := vlanLength e vlan fr.egressLen }
  let seqs := fun i => (s1.pair i).seq
  let s2 := { s1 with fe := { s1.fe with nextId := s1.fe.nextId + 1 } }
  if ts.isEmpty then finishFrame fr' s2
  else
    let s3 := takeSeqs (pairsIn ts) { s2 with fe := { s2.fe with frames := s2.fe.frames ++ [fr'] } }
    handCopies fr'.id e (vlanAfter e vlan inner) seqs ts s3

end Sys2Proof.Machine
end

