-- ==== Sys2Proof/Machine/Plan.lean ====
section
/-! DEFINITION. Plans: loading, arming, switching, partitions, reloads and the counter operations (03, 11). -/

namespace Sys2Proof.Machine

/-! ### Records. PLAN_EVENT gives the transition as the codes of the states left and entered, 16 × from + to; the other events
have numbers of the model's own. -/

def planReleased : Nat := 0x81
def planReleaseMoved : Nat := 0x82
def planReloaded : Nat := 0x83
def planRestarted : Nat := 0x84
def planNotRestarted : Nat := 0x85
def planStandbyLost : Nat := 0x86
def planVaultRepaired : Nat := 0x87
def planAssigned : Nat := 0x88
def planNotReloaded : Nat := 0x89

/-- A PLAN_EVENT record of a function. -/
def planEvent (f version transition reason : Nat) (s : State) : State :=
  stageRec 0x21 f (.planEvent version transition reason) s

/-- Replace a function's partition. -/
def State.setPart (f : Nat) (p : Partition) (s : State) : State :=
  { s with pln := { s.pln with parts := Tbl.put f p s.pln.parts } }

/-- The standby state of a function's partition changes, with its record. -/
def moveStandby (f : Nat) (p p' : Partition) (s : State) : State :=
  planEvent f p'.heldVersion (transitionOf p.standby p'.standby) 0 (s.setPart f p')

/-! ### Plan results (R482) -/

/-- The 16-byte plan result. -/
def planResult (a b c : Nat) : Bytes := leBytes 4 a ++ leBytes 4 b ++ leBytes 4 c ++ leBytes 4 0

/-- INPUT_REJECTED with the plan result of a refusal. -/
def planRefusal (x : PlanFault) : Completion :=
  { code := stInputRejected, resultLen := 16, output := planResult x.1 x.2.1 x.2.2 }

/-! ### PLAN_LOAD (R112 to R116) -/

/-- The partition's plan-load begins: LOADING, with an incoming vault slot (Table 03-16, R112). -/
def Partition.startLoading (p : Partition) : Partition :=
  { p with standby := .loading, before := p.standby, loadHeld := false, vaultIncoming := some p.freeSlot }

/-- The partition's range holds an entry number. -/
def Partition.owns (p : Partition) (n : Nat) : Bool := decide (p.base ≤ n) && decide (n < p.base + p.size)

/-- A plan-load begins: LOADING, a wait for DRAINING to end, or a refusal (Table 03-16). `own` says that the call is the one
whose transfer is under way. -/
def beginLoad (f : Nat) (p : Partition) (own : Bool) (s : State) : OpOut :=
  match p.standby with
  | .draining => .running (s.setPart f { p with loadHeld := true })
  | .armed => .done (bare stRefusedFull) s
  | .loading => if own then .running s else .done (bare stRefusedFull) s
  | _ => .running (moveStandby f p p.startLoading s)

/-- Marks of a bank of a partition are dropped: its match-store keys are built anew. -/
def dropMarks (p : Partition) (standby : Bool) (l : List Rebuild) : List Rebuild :=
  l.filter fun r => !(p.owns r.entry && r.standby == standby)

/-- The image has arrived in the incoming slot: it is checked and, when every check passes, written into the standby bank, and its slot
becomes the standby slot (R112, R113). -/
def endLoad (f length : Nat) (i : PlanImage) (p : Partition) (s : State) : OpOut :=
  let s0 := storeImage f (p.vaultIncoming.getD 2) i s
  match checkPlan s0 f p.base p.size length false i with
  | some x => .done (planRefusal x) (leaveLoading f x.1 s0)
  | none =>
    let c := copyOf i
    let p' := { p with standby := .ready, held := some c, vaultStandby := p.vaultIncoming, vaultIncoming := none,
                       rollback := false, pinned := false, reloadStandby := [] }
    let s1 := moveStandby f p p' (dropImage f p.vaultStandby s0)
    let s2 := { s1 with pln := { s1.pln with highest := Tbl.put f i.version s1.pln.highest,
                                             rebuilding := dropMarks p true s1.pln.rebuilding } }
    .done (okOut 0 (planResult i.version (usedCount c) (shortCount c))) s2

/-- PLAN_LOAD (R112, R113): without an image the transfer begins; with it the last byte has arrived. A load dispatched at
Record whose checks end under Restrict completes RESTRICTED (R116). -/
def execPlanLoad (q : Call) (length : Nat) (image : Option PlanImage) (s : State) : Host.Outcome State Fault Refusal :=
  let own := (s.func q.f).dpCtx.isSome && (s.func q.f).dpCtx == s.ctxIdFor q
  let s0 := if own && image.isSome && decide (1 ≤ s.level) && !staged q s then leaveLoading q.f 0 s else s
  .next (runOp 0x0601 q 16 s0 fun s =>
    match s.part? q.f with
    | none => .done (bare stInputRejected) s
    | some p =>
      if length = 0 then .done (planRefusal (0x01, noEntry, 0)) s
      else match image with
        | none => beginLoad q.f p own s
        | some i =>
          if p.standby = .loading ∧ own = true then endLoad q.f length i p s
          else match beginLoad q.f p own s with
            | .running s1 => match s1.part? q.f with
              | none => .running s1
              | some p1 => if p1.standby = .loading then endLoad q.f length i p1 s1 else .running s1
            | r => r)

/-! ### Arming (R119 to R122, R746) -/

/-- The checks of R746 from the ports on, with the version held; the status and the plan result of the first that fails. -/
def armFault (s : State) (f : Nat) (c : PlanCopy) (t : Nat) : Option Completion :=
  let refuse (x : Option PlanFault) : Option Completion := x.map planRefusal
  refuse (copyFault 0x13 (fun e => (absentFault s e).isSome) c)
  <|> refuse (copyFault 0x14 (fun e => (scopeFault (s.func f).portScope e).isSome) c)
  <|> refuse (crossFault s s.shortLimits t c (otherParts f s.pln.parts))
  <|> (armKeys s c).map bare
  <|> refuse (vaultFault s c)
  <|> (if c.image.earliest ≠ 0 ∧ t < stampNs c.image.earliest then some (planRefusal (0x24, noEntry, 0)) else none)

/-- Arm the held version for an instant; `rollback` names the previous version. -/
def armPlan (f : Nat) (p : Partition) (rollback : Bool) (sec rate slot : Nat) (s : State) : OpOut :=
  match instantOf sec rate slot with
  | none => .done (planRefusal (0x25, noEntry, 0)) s
  | some t =>
    match p.held with
    | none => .done (bare stRefusedFull) s
    | some c =>
      if p.standby ≠ (if rollback then .previous else .ready) then .done (bare stRefusedFull) s
      else if t < s.sck.now + 2000000 then .done (bare stDeadlineMissed) s
      else match armFault s f c t with
        | some comp => .done comp s
        | none =>
          .done (okOut 0 (planResult c.version 0 0))
            (moveStandby f p { p with standby := .armed, rollback, instant := t, deferred := false, pinned := true } s)

/-- PLAN_ACTIVATE (R746). -/
def execPlanActivate (q : Call) (second rate slot : Nat) (s : State) : Host.Outcome State Fault Refusal :=
  .next (runOp 0x0602 q 16 s fun s =>
    match s.part? q.f with
    | none => .done (bare stInputRejected) s
    | some p => armPlan q.f p false second rate slot s)

/-- PLAN_ROLLBACK (R746). -/
def execPlanRollback (q : Call) (second rate slot : Nat) (s : State) : Host.Outcome State Fault Refusal :=
  .next (runOp 0x0603 q 16 s fun s =>
    match s.part? q.f with
    | none => .done (bare stInputRejected) s
    | some p => armPlan q.f p true second rate slot s)

/-- PLAN_CANCEL (R483): an armed switch or rollback is cancelled, deferred or not. -/
def execPlanCancel (q : Call) (s : State) : Host.Outcome State Fault Refusal :=
  .next (runOp 0x0604 q 0 s fun s =>
    match s.part? q.f with
    | none => .done (bare stInputRejected) s
    | some p =>
      if p.standby = .armed then .done (okDetail 0) (moveStandby q.f p (cancelArmed p) s) else .done (bare stRefusedFull) s)

/-- PLAN_READ (R483): the image of the active (0) or standby (1) copy goes out through the data port; a transfer of length 0
where the copy holds no version. -/
def execPlanRead (q : Call) (copy : Nat) (s : State) : Host.Outcome State Fault Refusal :=
  .next (runOp 0x0605 q 0 s fun s =>
    match s.part? q.f with
    | none => .done (bare stInputRejected) s
    | some p =>
      if 1 < copy then .done (reject 0) s
      else
        let c := if copy = 0 then p.active else p.held
        .done (okDetail 0) (offerBytes q ((c.map fun c => imageBytes c.image).getD []) s))

/-! ### Partitions (R88 to R90) -/

/-- Entry numbers of the module. -/
def entryCount : Nat := 131072

/-- PARTITION_ASSIGN (R88, R89). -/
def execPartitionAssign (q : Call) (fn base size : Nat) (s : State) : Host.Outcome State Fault Refusal :=
  .next (runOp 0x0606 q 0 s fun s =>
    let overlaps := s.pln.parts.any fun p => decide (base < p.2.base + p.2.size) && decide (p.2.base < base + size)
    if 63 < fn ∨ base % 256 ≠ 0 ∨ size % 256 ≠ 0 ∨ size < 256 ∨ entryCount < base + size ∨ (s.part? fn).isSome = true
        ∨ overlaps = true then .done (reject 0) s
    else .done (okDetail 0) (planEvent fn 0 planAssigned 0 (s.setPart fn { base, size })))

/-- PARTITION_RELEASE (R90): the boundary becomes pending; one that replaces another writes an event record. -/
def execPartitionRelease (q : Call) (fn second : Nat) (s : State) : Host.Outcome State Fault Refusal :=
  .next (runOp 0x0607 q 0 s fun s =>
    match s.part? fn with
    | none => .done (reject 0) s
    | some p =>
      if 63 < fn ∨ 2 ^ 34 ≤ second then .done (reject 0) s
      else if second * nsPerSec ≤ s.sck.now then .done (bare stDeadlineMissed) s
      else
        let s1 := s.setPart fn { p with releaseAt := some (second * nsPerSec) }
        .done (okDetail 0) (if p.releaseAt.isSome then planEvent fn 0 planReleaseMoved 0 s1 else s1))

/-- Handles named by the GENERATE entries of a copy. -/
def generatedHandles (c : PlanCopy) : List Nat :=
  (c.entries.map fun x => if entryGenerates x.2 then (entryHandles x.2).map (·.2) else []).flatten

/-- Each element once. -/
def onceEach : List Nat → List Nat
  | [] => []
  | h :: t => h :: (onceEach t).filter (· != h)

/-- A KEY_EVENT record for each handle generated under the released banks, with its next unreserved value (R516). -/
def genRecords (f : Nat) : List Nat → State → State
  | [], s => s
  | h :: t, s => genRecords f t (keyEvent f h 11 (nextBlock (Tbl.get {} s.key.gens h)) s)

/-- The designated entry of the cycle angle (SCK_REF_CHANNEL), if a channel is designated (R74). -/
def State.designated (s : State) : Option Nat :=
  if bitOf (s.sckSet 0x642C) 31 then some (fieldOf (s.sckSet 0x642C) 16 0) else none

/-- The entry may be designated: an SV entry with a slot window (R74). DESIGN CHOICE: 'an SV profile' is read as the kind of Sampled
Values, L2_SV, whatever the entry's PROFILE; a frame feeds the estimator only after it has passed authentication (R75). -/
def angleEligible (e : Entry) : Bool := e.kind == 1 && e.slotRate != 0

/-- The angle enters LOST when the designated entry is no longer eligible in its active bank (R129). -/
def angleCheck (s : State) : State :=
  match s.designated with
  | none => s
  | some n =>
    if (s.entryAt n false).any (fun x => angleEligible x.2) || s.sck.angleSt == .lost then s
    else noteSck s.sck (loseAngle s)

/-- A partition ceases to exist: both banks, its armed switch and its vault images go with it (R90). A frame that has not been matched
by then finds no entry, whatever its stamp (DEDUCED: both banks are cleared at the boundary). -/
def releasePart (f : Nat) (p : Partition) (s : State) : State :=
  let hs := onceEach ((p.active.toList ++ p.held.toList).map generatedHandles).flatten
  let s0 := dropImage f p.vaultIncoming (dropImage f p.vaultStandby (dropImage f p.vaultActive s))
  let s1 := { s0 with
    pln := { s0.pln with parts := Tbl.del f s0.pln.parts, rebuilding := s0.pln.rebuilding.filter fun r => !p.owns r.entry },
    fe := { s0.fe with entries := Tbl.keep (fun n _ => !p.owns n) s0.fe.entries,
                       drain := Tbl.keep (fun n _ => !p.owns n) s0.fe.drain,
                       drainRt := Tbl.keep (fun n _ => !p.owns n) s0.fe.drainRt } }
  angleCheck (genRecords f hs (planEvent f ((p.active.map (·.version)).getD 0) planReleased 0 s1))

/-- PARTITION_RELEASE_EFFECT (R90): the boundary last named is reached. -/
def execPartitionReleaseEffect (f : Nat) (s : State) : Host.Outcome State Fault Refusal :=
  onMain s <|
  match s.part? f with
  | none => .next s
  | some p => if p.releaseAt.any (fun t => decide (t ≤ s.sck.now)) then .next (releasePart f p s) else .next s

/-! ### The switch (R124 to R129) -/

/-- A used entry continues (R127). -/
def continues (a b : Entry) : Bool :=
  a.kind == b.kind && a.profile == b.profile && a.keyCur == b.keyCur && a.keyNext == b.keyNext && a.rollAt == b.rollAt
    && a.predRule == b.predRule && a.lookahead == b.lookahead && a.predMod == b.predMod && a.nonceFixed == b.nonceFixed

/-- An old entry leaves the active bank: its final counters are written unless they carry over (R128), and its state and
counters serve the drain. -/
def retireEntry (f : Nat) (new : Tbl Entry) (n : Nat) (e : Entry) (s : State) : State :=
  let r := Tbl.get ({} : EntryRt) s.fe.entries n
  let b := Tbl.find? n new
  let carry := b.any fun x => x.tag == e.tag
  let cont := b.any fun x => continues e x
  let s1 := if carry then s
    else stageWith 0 0x11 f s.quality 1 s.sck.now (.counterSnapshot n e.tag (fourteen r.counters))
      { s with fe := { s.fe with drain := Tbl.put n [] s.fe.drain } }
  if cont then s1 else { s1 with fe := { s1.fe with drainRt := Tbl.put n { r with counters := [] } s1.fe.drainRt } }

/-- Retire each old entry. -/
def retireAll (f : Nat) (new : Tbl Entry) : Tbl Entry → State → State
  | [], s => s
  | (n, e) :: t, s => retireAll f new t (retireEntry f new n e s)

/-- What the frame engine keeps for a used entry of the new version. -/
def freshRt (old : Tbl Entry) (rts : Tbl EntryRt) (n : Nat) (e : Entry) : EntryRt :=
  let r := Tbl.get ({} : EntryRt) rts n
  let b := Tbl.find? n old
  let base : EntryRt := if b.any fun x => continues x e then r else {}
  let carry := b.any fun x => x.tag == e.tag
  { base with counters := if carry then r.counters else [], continuityLost := carry && r.continuityLost,
              failKey := if carry then r.failKey else none, failTime := if carry then r.failTime else none }

/-- Install the entries of the new version. -/
def installAll (old : Tbl Entry) (rts : Tbl EntryRt) : Tbl Entry → Tbl EntryRt → Tbl EntryRt
  | [], t => t
  | (n, e) :: es, t => installAll old rts es (Tbl.put n (freshRt old rts n e) t)

/-- A condition of an entry follows its bank through the switch. -/
def KeyCond.swap (p : Partition) : KeyCond → KeyCond
  | .entry n standby => .entry n (if p.owns n then !standby else standby)
  | c => c

/-- The rebuilding marks of a partition's two banks change places. -/
def swapMarks (p : Partition) (l : List Rebuild) : List Rebuild :=
  l.map fun r => if p.owns r.entry then { r with standby := !r.standby } else r

/-- The partition after the swap of its banks at an instant. -/
def Partition.swapped (t : Nat) (p : Partition) : Partition :=
  { p with active := p.held, held := p.active, standby := .draining, deferred := false, instant := t,
           vaultActive := p.vaultStandby, vaultStandby := p.vaultActive, pinned := true,
           reload := p.reloadStandby, reloadStandby := p.reload }

/-- The frame engine after the swap: the new version's entries, frames in flight with the old version (R124). -/
def Fe.swapped (f : Nat) (p : Partition) (rts : Tbl EntryRt) (e : Fe) : Fe :=
  { e with entries := installAll (entriesOf p.active) rts (entriesOf p.held) (Tbl.keep (fun n _ => !p.owns n) e.entries),
           frames := e.frames.map fun (fr : TxFrame) => { fr with oldBank := fr.oldBank || fr.function == f },
           ended := e.ended.map fun c => { c with what := c.what.swap p } }

/-- The banks of a partition are swapped at an instant: the old version drains, prediction and counters continue as R127 and
R128 say, and frames in flight stay with the old version (R124). -/
def swapPart (f t : Nat) (p : Partition) (s : State) : State :=
  let s1 := retireAll f (entriesOf p.held) (entriesOf p.active) s
  let s2 := { s1 with fe := s1.fe.swapped f p s.fe.entries,
                      pln := { s1.pln with rebuilding := swapMarks p s1.pln.rebuilding } }
  angleCheck (keyEdges s (planEvent f p.heldVersion (transitionOf .armed .draining) 0 (s2.setPart f (p.swapped t))))

/-- The instant of an armed partition is reached: the switch, or its deferral while time is not valid (R80). -/
def reachInstant (f : Nat) (p : Partition) (s : State) : State :=
  if s.sck.valid then swapPart f p.instant p s
  else planEvent f p.heldVersion (transitionOf .armed .armed) 0 (s.setPart f { p with deferred := true })

/-- Treat every partition that satisfies a test. -/
def forParts (test : Partition → Bool) (act : Nat → Partition → State → State) : Tbl Partition → State → State
  | [], s => s
  | (f, p) :: t, s => forParts test act t (if test p then act f p s else s)

/-- An armed instant that has come and is not deferred. -/
def dueSwitch (now : Nat) (p : Partition) : Bool := p.standby == .armed && !p.deferred && decide (p.instant ≤ now)

/-- No plan is restored in STARTUP_HOLD and in recovery (R647, R672): nothing switches. -/
def plansHeld (s : State) : Bool := s.pwr.phase == 5 || s.pwr.phase == 6

/-- PLAN_SWITCH (R124, R133): every armed instant that grid time has reached takes effect or is deferred. -/
def execPlanSwitch (s : State) : Host.Outcome State Fault Refusal :=
  onMain s <|
  if plansHeld s then .next s else .next (forParts (dueSwitch s.sck.now) reachInstant s.pln.parts s)

/-- DEFERRED_SWITCH (R80): at the first grid second boundary with valid time the deferred switches take effect. -/
def execDeferredSwitch (s : State) : Host.Outcome State Fault Refusal :=
  onMain s <|
  if isSecond s.sck.now && s.sck.valid && !plansHeld s then
    .next (forParts (fun p => p.standby == .armed && p.deferred) (fun f p => swapPart f s.sck.now p) s.pln.parts s)
  else .next s

/-- The counter sets of the drain are written with DRAIN set (R189). -/
def drainRecords (f : Nat) (old : Tbl Entry) : Tbl (List Nat) → State → State
  | [], s => s
  | (n, l) :: t, s =>
    drainRecords f old t (match Tbl.find? n old with
      | none => s
      | some e => stageWith 0 0x11 f s.quality 2 s.sck.now (.counterSnapshot n e.tag (fourteen l)) s)

/-- The partition once its drain has ended: the standby copy keeps the previous version after a switch, and nothing after a rollback. -/
def Partition.drained (p : Partition) : Partition :=
  if p.rollback || p.held.isNone then
    { p with standby := .empty, held := none, vaultStandby := none, pinned := false, rollback := false, reloadStandby := [] }
  else { p with standby := .previous }

/-- The drain of a partition has ended: an image that is in no bank any more is deleted (R134), and a plan-load that waited begins
(Table 03-16). -/
def endDrain (f : Nat) (p : Partition) (s : State) : State :=
  let s1 := moveStandby f p p.drained (if p.drained.held.isNone then dropImage f p.vaultStandby s else s)
  if p.loadHeld then moveStandby f p.drained p.drained.startLoading s1 else s1

/-- DRAIN_END (R126): 1 ms after the instant what is left of the old version is dropped and counted late. -/
def execDrainEnd (f : Nat) (s : State) : Host.Outcome State Fault Refusal :=
  onMain s <|
  match s.part? f with
  | none => .next s
  | some p =>
    if p.standby ≠ .draining ∨ s.sck.now < p.instant + 1000000 then .next s
    else
      let isOld (c : TxCopy) : Bool := (s.frameOf c).any fun fr => fr.function == f && fr.oldBank
      let s1 := discardAll (s.fe.copies.filter isOld) s
      let s2 := drainRecords f (entriesOf p.held) s1.fe.drain s1
      .next (endDrain f p { s2 with fe := { s2.fe with drain := Tbl.keep (fun n _ => !p.owns n) s2.fe.drain,
                                                       drainRt := Tbl.keep (fun n _ => !p.owns n) s2.fe.drainRt } })

/-! ### Memory errors (R110, R132) -/

/-- The condition of an entry of a bank, since `t`, has ended: its pads are discarded, so that frames after the end use pads computed
after it (R185). -/
def entryBack (n : Nat) (standby : Bool) (t : Nat) (s : State) : State := endCond (.entry n standby) t (s.updRt n standby (·.noPads))

/-- The partition with an entry of a bank reloaded. -/
def Partition.reloaded (n : Nat) (standby : Bool) (p : Partition) : Partition :=
  if standby then { p with reloadStandby := Tbl.del n p.reloadStandby } else { p with reload := Tbl.del n p.reload }

/-- ENTRY_RELOAD (R132): an entry marked after a memory error is reloaded from its vault image, with its event record; one that the
image does not serve stays marked until its partition's next switch, with a PLAN_EVENT record (Table 14-4). -/
def execEntryReload (f entry : Nat) (standby ok : Bool) (s : State) : Host.Outcome State Fault Refusal :=
  onMain s <|
  match s.part? f with
  | none => .next s
  | some p =>
    let c := if standby then p.held else p.active
    match Tbl.find? entry (if standby then p.reloadStandby else p.reload) with
    | none => .next s
    | some t =>
      if ok = false then .next (planEvent f ((c.map (·.version)).getD 0) planNotReloaded 0 s)
      else
        let e := (Tbl.find? entry (entriesOf c)).getD {}
        .next (keyEdges s (entryBack entry standby t
          (stageRec 0x10 f (.streamEvent { entry, tag := e.tag, cause := 0x0C, port := 0, action := 3, budget := e.budget })
            (s.setPart f (p.reloaded entry standby)))))

/-- The rebuild of an entry's match key has ended. -/
def endRebuild (n : Nat) (standby : Bool) (s : State) : State :=
  match s.pln.rebuilding.find? fun r => r.entry == n && r.standby == standby with
  | none => s
  | some r =>
    entryBack n standby r.since
      { s with pln := { s.pln with rebuilding := s.pln.rebuilding.filter fun x => !(x.entry == n && x.standby == standby) } }

/-- The match key of an entry of a bank is affected: its rebuild begins, unless it runs. -/
def startRebuild (n : Nat) (standby : Bool) (s : State) : State :=
  if s.pln.rebuilding.any fun r => r.entry == n && r.standby == standby then s
  else { s with pln := { s.pln with rebuilding := { entry := n, standby, since := s.sck.now } :: s.pln.rebuilding } }

/-- The same for each of a list of keys. -/
def rebuildEach (done : Bool) : List (Nat × Bool) → State → State
  | [], s => s
  | (n, standby) :: t, s => rebuildEach done t (if done then endRebuild n standby s else startRebuild n standby s)

/-- MATCH_STORE_REBUILD (R110): an error in the match store marks the entries of its keys, each of its bank, and the end of the rebuild
clears the marks. -/
def execMatchStoreRebuild (entries : List (Nat × Bool)) (done : Bool) (s : State) : Host.Outcome State Fault Refusal :=
  onMain s <| .next (keyEdges s (rebuildEach done entries s))

/-! ### Counters (R484, R485) -/

/-- The range of a counter operation lies wholly within the partition. -/
def rangeIn (p : Partition) (first count : Nat) : Bool :=
  decide (p.base ≤ first) && decide (first + count ≤ p.base + p.size)

/-- A counter record of 128 bytes (Table 11-14). -/
def counterRecord (s : State) (n : Nat) : Bytes :=
  match s.entryAt n false with
  | none => leBytes 4 n ++ leBytes 4 0 ++ leBytes 4 1 ++ leBytes 116 0
  | some (_, e) =>
    let r := s.rt n false
    leBytes 4 n ++ leBytes 4 e.tag ++ leBytes 4 (2 * b2n r.continuityLost) ++ leBytes 4 0
      ++ ((fourteen r.counters).map (leBytes 8)).flatten

/-- Counter records of `n` entries from `first` on. -/
def counterRecords (s : State) : (n first : Nat) → Bytes
  | 0, _ => []
  | n + 1, first => counterRecord s first ++ counterRecords s n (first + 1)

/-- COUNTER_READ (R484). -/
def execCounterRead (q : Call) (first count : Nat) (s : State) : Host.Outcome State Fault Refusal :=
  .next (runOp 0x0608 q (128 * count) s fun s =>
    match s.part? q.f with
    | none => .done (bare stInputRejected) s
    | some p =>
      if 131072 < count then .done (reject 0) s
      else if count = 0 then .done (okDetail 0) s
      else if rangeIn p first count then .done (okOut 0 (counterRecords s count first)) s
      else .done (reject 0) s)

/-- Write the counter records of the used entries among `n` from `first` on. -/
def snapshotAll (f : Nat) : (n first : Nat) → State → State
  | 0, _, s => s
  | n + 1, first, s =>
    snapshotAll f n (first + 1) (match s.entryAt first false with
      | none => s
      | some (_, e) => stageRec 0x11 f (.counterSnapshot first e.tag (fourteen (s.rt first false).counters)) s)

/-- COUNTER_SNAPSHOT (R485). -/
def execCounterSnapshot (q : Call) (first count : Nat) (s : State) : Host.Outcome State Fault Refusal :=
  .next (runOp 0x0609 q 0 s fun s =>
    match s.part? q.f with
    | none => .done (bare stInputRejected) s
    | some p =>
      if 1024 < count then .done (reject 0) s
      else if count = 0 then .done (okDetail 0) s
      else if rangeIn p first count then .done (okDetail 0) (snapshotAll q.f count first s)
      else .done (reject 0) s)
/-! ### Instants that a frame's stamp has reached -/

/-- A frame's work begins: armed instants and release boundaries at or before its ingress stamp take effect first (R90, R124, R125). -/
def reachStamp (stamp : Nat) (s : State) : State :=
  let s1 := forParts (fun p => p.releaseAt.any fun t => decide (t ≤ stamp)) releasePart s.pln.parts s
  forParts (dueSwitch stamp) reachInstant s1.pln.parts s1

end Sys2Proof.Machine
end

