-- ==== Sys2Proof/Machine/Frame.lean ====
section
/-! DEFINITION. The work of the frame engine on one frame: matching, key selection, check or generation, freshness, slot window,
fail policies and hand-off (04), and the pads and acceptance intervals around a rollover. -/

namespace Sys2Proof.Machine

/-! ### Matching (R108, R124) -/

/-- The frame's compared fields equal the entry's (Table 03-5); TAGGED 1 asks for a tag, and TAGGED 0, whose VID is 0, for none or a priority
tag. -/
def entryMatches (e : Entry) (fr : Frame) : Bool :=
  e.ingress.testBit fr.port && ((fr.vlan.map (·.1)).getD 0) == e.vid && (!e.tagged || fr.vlan.isSome) &&
  (match e.kind with
   | 1 => fr.etherType == 0x88BA && fr.dstMac == e.dstMac && fr.appid == e.matchId
   | 2 => fr.etherType == 0x88B8 && fr.dstMac == e.dstMac && fr.appid == e.matchId
   | 3 => fr.session && fr.udp == some (4, e.dstIp, e.udpPort) && (!e.matchSpi || fr.spi == e.spi)
   | 4 => fr.session && fr.udp == some (6, e.dstIp, e.udpPort) && (!e.matchSpi || fr.spi == e.spi)
   | 5 => fr.udp == some (4, e.dstIp, e.udpPort) && fr.idcode == some e.matchId
   | 6 => fr.udp == some (6, e.dstIp, e.udpPort) && fr.idcode == some e.matchId
   | 7 => fr.etherType == e.matchId && fr.dstMac == e.dstMac
   | _ => false)

/-- The first entry of a bank that the frame matches. -/
def matchIn (fr : Frame) : Tbl Entry → Option (Nat × Entry)
  | [] => none
  | (n, e) :: t => if entryMatches e fr then some (n, e) else matchIn fr t

/-- A frame of this stamp is served by the bank just replaced (R124). -/
def oldBankFor (p : Partition) (stamp : Nat) : Bool := p.standby == .draining && decide (stamp < p.instant)

/-- The entry a frame matches: function, entry number, entry, whether of the bank just replaced. -/
def findMatch (fr : Frame) : Tbl Partition → Option (Nat × Nat × Entry × Bool)
  | [] => none
  | (f, p) :: t =>
    let old := oldBankFor p fr.stamp
    match matchIn fr (entriesOf (if old then p.held else p.active)) with
    | some (n, e) => some (f, n, e, old)
    | none => findMatch fr t

/-! ### Keys (R156, R157, R179) -/

/-- KEY_ROLL_ACCEPT of a function in ns (R309). -/
def State.rollAccept (s : State) (f : Nat) : Nat := fieldOf (s.reg f 0x1008 0x64) 13 0 * 1000000

/-- The stamp lies in the outgoing-key acceptance interval (R309). -/
def accepting (s : State) (f : Nat) (e : Entry) (stamp : Nat) : Bool :=
  e.keyNextValid && decide (stampNs e.rollAt ≤ stamp + s.rollAccept f) && decide (stamp < stampNs e.rollAt + s.rollAccept f)

/-- Key identifier of a loaded key. -/
def State.keyIdent (s : State) (h : Nat) : Option Nat := (s.key? h).map (·.blob.attr.ident)

/-- The key a frame is verified with: the chosen one, or the other one within the acceptance interval (R157); none when the key
identifier fits neither. True: the other key. DESIGN CHOICE: the keys an entry needs (R179) are the slots it names that are lost to an error
and the key that R156 selects; where the other key of R157 is only not loaded, the entry is under no condition, and a frame with its key
identifier fails its check (TAG_FAILED). -/
def verifyKey (s : State) (f : Nat) (e : Entry) (after : Bool) (stamp keyId : Nat) : Option (Nat × Bool) :=
  if s.keyIdent (chosenKey e after) = some keyId then some (chosenKey e after, false)
  else if accepting s f e stamp && slotUsable s (otherKey e after) && s.keyIdent (otherKey e after) == some keyId then
    some (otherKey e after, true)
  else none

/-! ### Tags (R147 to R151) -/

/-- Bytes of a profile's tag (Table 03-6). -/
def tagLen (profile : Nat) : Nat :=
  match profile with
  | 0x01 | 0x21 => 10
  | 0x03 | 0x23 => 32
  | 0x04 | 0x24 => 8
  | _ => 16

/-- IV of a counter-mode frame (Table 04-2), its first byte the most significant. -/
def frameIv (e : Entry) (spdu smp : Nat) : Nat :=
  e.nonceFixed / 2 ^ 64 * 2 ^ 64 + spdu % 2 ^ 32 * 2 ^ 32 + if e.predRule = 1 then smp % 2 ^ 16 else e.nonceFixed % 2 ^ 32

/-- The tag of a span under a key: HMAC from the slot's midstates (R151), or GHASH under the slot's H with a pad (R150); under profile
0x26 the payload is the ciphertext that GHASH takes after the span. -/
def frameTag (k : LoadedKey) (profile : Nat) (pad : BitVec 128) (span payload : Bytes) : Bytes :=
  if isHmac profile then (hmacFrom k.work.inner k.work.outer span).take (tagLen profile)
  else tagFrom k.work.h pad span (if profile = 0x26 then payload else []) (tagLen profile)

/-! ### Pads and prediction (R158 to R164) -/

/-- Counters predicted at a lookahead position (Table 04-3). -/
def predicted (e : Entry) (p : Pred) (i : Nat) : Nat × Nat :=
  ((p.s + i) % 2 ^ 32, (p.cLast + 1 + (i - 1) * p.n) % e.predMod)

/-- The lookahead position that predicts these counters. -/
def padPosition (e : Entry) (p : Pred) (spdu smp : Nat) : Option Nat :=
  ((List.range e.lookahead).map (· + 1)).find? fun i =>
    decide (spdu = (predicted e p i).1) && (e.predRule != 1 || decide (smp = (predicted e p i).2))

/-- The pad held for a position under a key. -/
def heldPad (r : EntryRt) (i : Nat) (next : Bool) : Option PadSlot :=
  r.pads.find? fun x => x.held && x.pos == i && x.next == next

/-- The pad that a frame with these counters meets; none is a pad miss (R162, R163). -/
def padHit (e : Entry) (r : EntryRt) (spdu smp : Nat) (usesNext : Bool) : Option (BitVec 128) :=
  (r.pred.bind fun p => (padPosition e p spdu smp).bind fun i => heldPad r i usesNext).map (·.val)

/-- A place of the pad store after the frame at position `i` has been accepted: the pads up to `i` are discarded and overwritten with
zero, the others move up; without `i` every pad is discarded (R162, R164, R167). -/
def shiftPad (i : Option Nat) (x : PadSlot) : PadSlot :=
  match i with
  | some i => if x.held ∧ i < x.pos then { x with pos := x.pos - i } else {}
  | none => {}

/-- The position whose later pads stay right when a frame is accepted: that of its counters, where the counters of the frames after it are
still the predicted ones. -/
def keptFrom (e : Entry) (spdu : Nat) (fr : Frame) (p : Pred) : Option Nat :=
  if e.predRule = 1 ∧ (p.n ≠ fr.asdus.length ∨ fr.lastSmp ≠ (fr.smpCnt + (p.n - 1)) % e.predMod) then none
  else padPosition e p spdu fr.smpCnt

/-- The prediction state is set from a frame (R164, Table 04-3). -/
def setPred (e : Entry) (spdu : Nat) (fr : Frame) (r : EntryRt) : EntryRt :=
  { r with pred := some { s := spdu, cLast := if e.predRule = 1 then fr.lastSmp else 0,
                          n := if e.predRule = 1 then fr.asdus.length else 1 },
           pads := r.pads.map (shiftPad (r.pred.bind (keptFrom e spdu fr))) }

/-- Lookahead in effect (R158). -/
def lookaheadNow (e : Entry) (r : EntryRt) : Nat := if r.dual && decide (4 < e.lookahead) then 4 else e.lookahead

/-- Positions, with the key of each, that the pad store holds for an entry (R158, R161): under both keys in the dual window, else under
the key that R156 selects now. -/
def padPlaces (e : Entry) (now : Nat) (r : EntryRt) : List (Nat × Bool) :=
  let l := (List.range (lookaheadNow e r)).map (· + 1)
  if r.dual then l.map (·, false) ++ l.map (·, true) else l.map (·, afterRoll e r now)

/-- The pad for a position under a key: the one held, else E(K, J0) of the predicted counters. -/
def padFor (s : State) (e : Entry) (r : EntryRt) (p : Pred) (i : Nat) (next : Bool) : Option PadSlot :=
  match heldPad r i next with
  | some x => some x
  | none =>
    (s.key? (if next then e.keyNext else e.keyCur)).map fun k =>
      { held := true, pos := i, next, val := padOf k.material (frameIv e (predicted e p i).1 (predicted e p i).2) }

/-- The lookahead is filled; a place that is not needed any more is zero. -/
def fillPads (s : State) (e : Entry) (r : EntryRt) : EntryRt :=
  match r.pred with
  | none => r
  | some p =>
    let l := (padPlaces e s.sck.now r).filterMap fun x => padFor s e r p x.1 x.2
    { r with pads := l ++ List.replicate (r.pads.length - l.length) {} }

/-- The entry a pad command names, if it keeps pads and its key can be used. -/
def padEntry (s : State) (n : Nat) : Option Entry :=
  (s.entryAt n false).bind fun x =>
    let after := afterRoll x.2 (s.rt n false) s.sck.now
    if isCounter x.2.profile && !keyCondition s x.1 n x.2 false (chosenKey x.2 after) s.sck.now then some x.2 else none

/-- PAD_REFILL (R164): the pad generator fills an entry's lookahead. -/
def execPadRefill (entry : Nat) (s : State) : Host.Outcome State Fault Refusal :=
  onMain s <|
  match padEntry s entry with
  | none => .next s
  | some e => .next (s.updRt entry false (fillPads s e))

/-- DUAL_KEY_PAD_WINDOW (R158): from ROLL_AT − 1 ms pads are held under both keys. -/
def execDualKeyPadWindow (entry : Nat) (s : State) : Host.Outcome State Fault Refusal :=
  onMain s <|
  match padEntry s entry with
  | none => .next s
  | some e =>
    if e.keyNextValid && decide (stampNs e.rollAt ≤ s.sck.now + 1000000) && decide (s.sck.now < stampNs e.rollAt + 1000000) then
      .next (s.updRt entry false fun r => fillPads s e { r with dual := true })
    else .next s

/-- DUAL_KEY_PAD_WINDOW_END (R158, R167): at ROLL_AT + 1 ms the outgoing key's pads are discarded and the full lookahead of the
other key returns. -/
def execDualKeyPadWindowEnd (entry : Nat) (s : State) : Host.Outcome State Fault Refusal :=
  onMain s <|
  match s.entryAt entry false with
  | none => .next s
  | some (_, e) =>
    let r := s.rt entry false
    if r.dual && decide (stampNs e.rollAt + 1000000 ≤ s.sck.now) then
      let ok := (padEntry s entry).isSome
      .next (s.updRt entry false fun r =>
        let r' := { r with dual := false, pads := r.pads.map fun x => if x.next = afterRoll e r s.sck.now then x else {} }
        if ok then fillPads s e r' else r')
    else .next s

/-- ACCEPT_INTERVAL_OPEN (R310): the second freshness state starts empty at ROLL_AT − A. -/
def execAcceptIntervalOpen (entry : Nat) (s : State) : Host.Outcome State Fault Refusal :=
  onMain s <|
  match s.entryAt entry false with
  | none => .next s
  | some (f, e) =>
    if accepting s f e s.sck.now && (s.rt entry false).other.isNone then
      .next (s.updRt entry false fun r => { r with other := some none })
    else .next s

/-- ACCEPT_INTERVAL_CLOSE (R310): the second freshness state is discarded at ROLL_AT + A. -/
def execAcceptIntervalClose (entry : Nat) (s : State) : Host.Outcome State Fault Refusal :=
  onMain s <|
  match s.entryAt entry false with
  | none => .next s
  | some (f, e) =>
    if e.keyNextValid && decide (stampNs e.rollAt + s.rollAccept f ≤ s.sck.now) then
      .next (s.updRt entry false fun r => { r with other := none })
    else .next s

/-! ### Freshness (R159, R160, R310) -/

/-- An SPDU number moves forward from the state. -/
def forward (state : Option Nat) (x : Nat) : Bool :=
  state.all fun s => let d := (x + 2 ^ 32 - s % 2 ^ 32) % 2 ^ 32; decide (1 ≤ d) && decide (d < 2 ^ 31)

/-- The freshness state against which a frame is judged. -/
def freshState (r : EntryRt) (after outgoing : Bool) (h : Nat) : Option Nat :=
  if outgoing then (r.other.bind id).bind fun x => if x.1 = h then some x.2 else none
  else if after then r.freshNext else r.fresh

/-- Note the SPDU number of a frame that passed. -/
def setFresh (after outgoing : Bool) (h x : Nat) (r : EntryRt) : EntryRt :=
  if outgoing then { r with other := some (some (h, x)) }
  else if after then { r with freshNext := some x } else { r with fresh := some x }

/-! ### Events and outcomes -/

/-- What a frame's work needs to name: function, entry number, entry, bank, port of arrival, ingress stamp and quality, the
frame, and the publication it serves. -/
structure Job where
  f : Nat
  n : Nat
  e : Entry
  old : Bool
  port : Nat
  stamp : Nat
  quality : Nat
  fr : Frame
  pub : Option (Call × Option Nat)
deriving DecidableEq, Repr

/-- A stream event of the frame's entry. -/
def jobEvent (j : Job) (cause action forwarded dropped : Nat) (s : State) : State :=
  streamEvent j.f j.stamp j.quality { entry := j.n, tag := j.e.tag, cause, port := j.port, action, budget := j.e.budget, forwarded, dropped } s

/-- Count in the entry's counters. -/
def jobBump (j : Job) (i : Nat) (s : State) : State := bumpStream j.n j.old i s

/-- The frame is not forwarded: a publication completes with DETAIL 2. -/
def jobDrop (j : Job) (s : State) : State :=
  match j.pub with
  | none => s
  | some (q, ctx) => lateComplete q ctx (okOut 2 (leBytes 8 (toStamp j.stamp))) s

/-- Under ARCHIVE_FAILURES a refused frame is captured (R187). -/
def captureFailure (j : Job) (i : Nat) (miss : Bool) (s : State) : State :=
  if j.e.archiveFailures then
    let cap := takeCaptures true (j.e.archClass == 2 || j.e.archClass == 3) j.f j.e.capGroup j.stamp (captureSize 0 j.fr.len) s
    stageCaptures cap.1 cap.2.1 j.f j.e.capGroup j.quality j.stamp
      (.frameCapture j.n j.e.tag j.port (8 + 2 * b2n miss + 16 * i) [] j.fr.data j.fr.len) cap.2.2
  else s

/-- A frame fails a check: counter i, a stream event, an event bit, the capture of failures. -/
def refuse (j : Job) (i cause bit : Nat) (miss : Bool) (s : State) : State :=
  jobDrop j (captureFailure j i miss (raiseEvent .fe j.f bit (jobEvent j cause 0 0 0 (jobBump j i s))))

/-! ### Fail policies (R179 to R186) -/

/-- One more frame forwarded or dropped under a condition. -/
def countUnder (fwd : Bool) (c : Option (Nat × Nat)) : Option (Nat × Nat) :=
  let x := c.getD (0, 0)
  some (if fwd then (x.1 + 1, x.2) else (x.1, x.2 + 1))

/-- An entry was under a condition: one record with the counts (R184). -/
def endFail (j : Job) (c : Option (Nat × Nat)) (s : State) : State :=
  match c with
  | none => s
  | some (a, b) => jobEvent j 9 3 a b s

/-- A frame is processed normally: one record for each condition that the entry's frames were under. -/
def leaveFail (j : Job) (s : State) : State :=
  let r := s.rt j.n j.old
  if r.failKey.isNone ∧ r.failTime.isNone then s
  else endFail j r.failTime (endFail j r.failKey (s.updRt j.n j.old fun r => { r with failKey := none, failTime := none }))

/-- A frame falls under a key condition, under loss of time, or both: one record for the entry at the first of each (R184). DEDUCED: the
records' counts are those of the frames that were under the condition, the first included. -/
def enterFail (j : Job) (key time fwd : Bool) (s : State) : State :=
  let r := s.rt j.n j.old
  let s1 := s.updRt j.n j.old fun r =>
    { r with failKey := if key then countUnder fwd r.failKey else r.failKey,
             failTime := if time then countUnder fwd r.failTime else r.failTime }
  let s2 := if key && r.failKey.isNone then jobEvent j 7 (b2n fwd) 0 0 s1 else s1
  if time && r.failTime.isNone then jobEvent j 8 (b2n fwd) 0 0 s2 else s2

/-! ### Security information of the copies (R146, R308, Table 04-9) -/

/-- The security information as received. -/
def secReceived (fr : Frame) : Option SecOut :=
  if fr.sec.present then some { keyId := fr.sec.keyId, spdu := fr.sec.spdu, tag := fr.sec.tag, payload := fr.sec.payload } else none

/-- The session-header fields of a key's start and remaining life on the IEC 61850-90-5 profiles: whole seconds of NOT_BEFORE, and minutes
from the frame's stamp to NOT_AFTER, 16 bits (PRESUMED, IEC 61850-90-5); zero where the source is 0 (R308). -/
def keyStart (profile : Nat) (a : KeyAttr) : Nat :=
  if isRoutable profile && a.notBefore != 0 then stampNs a.notBefore / nsPerSec % 2 ^ 32 else 0
def keyLife (profile : Nat) (a : KeyAttr) (stamp : Nat) : Nat :=
  if isRoutable profile && a.notAfter != 0 then satTo 0xFFFF ((stampNs a.notAfter - stamp) / (60 * nsPerSec)) else 0

/-- The security information that GENERATE writes under a key with an SPDU number and a pad: under profile 0x26 the payload is
encrypted from inc32(J0) on, and the tag covers what is sent. -/
def secGenerated (j : Job) (k : LoadedKey) (spdu : Nat) (pad : BitVec 128) : SecOut :=
  let p := j.e.profile
  let x := j.fr.sec
  let payload := if p = 0x26 then gcmCrypt k.material (frameIv j.e spdu j.fr.smpCnt) x.payload else x.payload
  let start := keyStart p k.blob.attr
  let life := keyLife p k.blob.attr j.stamp
  let span := Config.generatedSpan p k.blob.attr.ident spdu start life x.span
  { keyId := k.blob.attr.ident, spdu, tag := frameTag k p pad span payload, payload, start, life }

/-- The security information that GENERATE writes while the key is not usable: SPDU number 0 and a tag of zero bytes. The fields taken from
the key are those of its slot, or zero where it is not loaded (DESIGN CHOICE). -/
def secZero (j : Job) (k : Option LoadedKey) : SecOut :=
  let a := (k.map (·.blob.attr)).getD { kind := 0, usage := 0 }
  { keyId := a.ident, spdu := 0, tag := List.replicate (tagLen j.e.profile) 0, payload := j.fr.sec.payload,
    start := keyStart j.e.profile a, life := keyLife j.e.profile a j.stamp }

/-- Forward a frame. `rewrite`: what becomes of its security information, with what the copies carry. -/
def forwardFrame (j : Job) (passed miss marked : Bool) (rewrite : Nat) (sec : Option SecOut) (s : State) : State :=
  let fr : TxFrame :=
    { id := 0, entry := j.n, function := j.f, oldBank := j.old, stamp := j.stamp, quality := j.quality, ingressPort := j.port,
      budget := j.e.budget, lateDrop := j.e.late, tag := j.e.tag, stepAdj := s.sck.stepSince j.stamp, marked, rewrite, sec, left := 0,
      result := b2n passed + 2 * b2n miss + 4 * b2n marked, len := j.fr.len,
      egressLen := if rewrite = 0 then j.fr.len else Config.securedLength rewrite j.e.profile j.fr.len, data := j.fr.data, pub := j.pub }
  handOff fr j.e passed j.fr.vlan j.fr.inner s

/-- What becomes of the security information of a frame whose key can be used. -/
def rewriteOf (e : Entry) : Nat := if e.action = 1 then 1 else if e.action = 2 then 2 else 0

/-- The same under a key condition (Table 04-9). -/
def rewriteLost (e : Entry) : Nat := if entryGenerates e then 3 else rewriteOf e

/-- Fail policies, then the hand-off (R181, R182, Table 04-9); `sec` is the security information of a frame that does not keep its own. -/
def policyStage (j : Job) (keyLost timeLost miss : Bool) (sec : Option SecOut) (s : State) : State :=
  let rewrite := if keyLost then rewriteLost j.e else rewriteOf j.e
  let out := if rewrite = 0 then secReceived j.fr else if rewrite = 1 then none else sec
  if keyLost || timeLost then
    let fwd := (!keyLost || j.e.failKey) && (!timeLost || j.e.failTime)
    let s1 := enterFail j keyLost timeLost fwd s
    if fwd then forwardFrame j (!keyLost) miss true rewrite out (jobBump j cFailForwarded s1)
    else jobDrop j (jobBump j cFailDropped s1)
  else forwardFrame j true miss false rewrite out (leaveFail j s)

/-! ### The slot window (R171 to R173, R74, R75) -/

/-- The slot-window check of R72. -/
def slotOk (e : Entry) (stamp smpCnt : Nat) : Bool :=
  decide ((slotDistance smpCnt (slotOf stamp (slotFs e.slotRate)) e.slotOffset (slotFs e.slotRate)).natAbs ≤ e.slotWindow)

/-- Value and quality word of the designated channel in a frame (R74): the ASDU and the offset in its seqData that SCK_REF_CHANNEL
names. -/
def channelSample (s : State) (fr : Frame) : Option (Int × Nat) :=
  (fr.asdus[fieldOf (s.sckSet 0x642C) 19 17]?).bind fun a =>
    let l := (a.seqData.drop (8 * fieldOf (s.sckSet 0x642C) 24 20)).take 8
    if l.length = 8 then some ((BitVec.ofNat 32 (beNat (l.take 4))).toInt, beNat (l.drop 4)) else none

/-- A frame that passed authentication and its slot window gives the angle its sample, where its quality word shows validity good: bits
[1:0] zero (PRESUMED, IEC 61850-7-3). -/
def sampleFrom (j : Job) (s : State) : State :=
  if s.designated = some j.n ∧ j.old = false ∧ angleEligible j.e = true then
    match channelSample s j.fr with
    | none => s
    | some (v, q) =>
      if q % 4 = 0 then angleSample (sampleInstant j.stamp j.fr.smpCnt j.e.slotOffset (slotFs j.e.slotRate)) v s else s
  else s

/-- A frame that passed its checks meets its slot window, then the policies; `verified`: it has passed authentication. -/
def slotStage (j : Job) (verified timeLost miss : Bool) (sec : Option SecOut) (s : State) : State :=
  if j.e.slotRate ≠ 0 ∧ timeLost = false then
    if slotOk j.e j.stamp j.fr.smpCnt then policyStage j false false miss sec (if verified then sampleFrom j s else s)
    else refuse j cSlotFailed 3 2 miss s
  else policyStage j false timeLost miss sec s

/-! ### Check and generation (R147, R160, R152) -/

/-- Count a pad miss (R163). -/
def countMiss (j : Job) (miss : Bool) (s : State) : State := if miss then jobBump j cPadMisses s else s

/-- A frame that passed its tag check meets its freshness check (R159, R160, R310). A frame under the other key is counted as verified
under R157 whatever its freshness. -/
def freshStage (j : Job) (after outgoing : Bool) (h : Nat) (timeLost miss : Bool) (s : State) : State :=
  let x := j.fr.sec
  let s1 := if outgoing then jobBump j cOutgoingKey s else s
  if forward (freshState (s.rt j.n j.old) after outgoing h) x.spdu = false then refuse j cStale 2 1 miss s1
  else
    let s2 := s1.updRt j.n j.old (setFresh after outgoing h x.spdu)
    let s3 := if isCounter j.e.profile && !outgoing then s2.updRt j.n j.old (setPred j.e x.spdu j.fr) else s2
    slotStage j true timeLost miss none (jobBump j cPassed s3)

/-- A frame is verified: security information, key identifier, tag, freshness. -/
def verifyStage (j : Job) (timeLost : Bool) (s : State) : State :=
  let r := s.rt j.n j.old
  let after := afterRoll j.e r j.stamp
  let x := j.fr.sec
  if x.present = false ∨ x.wellFormed = false then refuse j cMalformed 4 1 false s
  else
    let found := (verifyKey s j.f j.e after j.stamp x.keyId).bind fun y => (s.key? y.1).map fun k => (k, y.1, y.2)
    let outgoing := found.any fun y => y.2.2
    let hit := padHit j.e r x.spdu j.fr.smpCnt (if outgoing then !after else after)
    let miss := isCounter j.e.profile && hit.isNone
    let s1 := countMiss j miss s
    match found with
    | none => refuse j cTagFailed 1 1 miss s1
    | some (k, h, outgoing) =>
      let pad := hit.getD (padOf k.material (frameIv j.e x.spdu j.fr.smpCnt))
      if x.tag ≠ frameTag k j.e.profile pad x.span x.payload then refuse j cTagFailed 1 1 miss s1
      else freshStage j after outgoing h timeLost miss s1

/-- The key's last value has been taken: the record, GEN_EXHAUSTED, and the entry enters a key condition (R154, Table 04-8). -/
def noteExhausted (j : Job) (value : Nat) (s : State) : State :=
  if value = max32 then raiseEvent .fe j.f 3 (raiseEvent .fe j.f 6 (jobEvent j 0x0B 3 0 0 s)) else s

/-- A tag is generated with the next value of the key's counter. -/
def generateStage (j : Job) (h : Nat) (k : LoadedKey) (timeLost : Bool) (s : State) : State :=
  let r := s.rt j.n j.old
  let g := takeGen h s
  let hit := padHit j.e r g.1 j.fr.smpCnt (afterRoll j.e r j.stamp)
  let miss := isCounter j.e.profile && hit.isNone
  let s1 := countMiss j miss (noteExhausted j g.1 g.2)
  let s2 := if isCounter j.e.profile then s1.updRt j.n j.old (setPred j.e g.1 j.fr) else s1
  let pad := hit.getD (padOf k.material (frameIv j.e g.1 j.fr.smpCnt))
  slotStage j false timeLost miss (some (secGenerated j k g.1 pad)) (jobBump j cPassed s2)

/-- The work on one matched frame (R140 from step 2). Whether time is lost for it, and whether its key is usable, is judged at its ingress
stamp (R172, R180). -/
def processFrame (j : Job) (s : State) : State :=
  let s0 := jobBump j cMatched s
  let timeLost := j.e.slotRate != 0 && bitOf j.quality 5
  if j.e.maxLen < j.fr.len then refuse j cMalformed 4 1 false s0
  else if j.e.profile = 0 then slotStage j false timeLost false none (jobBump j cPassed s0)
  else
    let h := chosenKey j.e (afterRoll j.e (s0.rt j.n j.old) j.stamp)
    match s0.key? h with
    | none => policyStage j true timeLost false (some (secZero j none)) s0
    | some k =>
      if keyCondition s0 j.f j.n j.e j.old h j.stamp then policyStage j true timeLost false (some (secZero j (some k))) s0
      else if entryGenerates j.e then generateStage j h k timeLost s0
      else verifyStage j timeLost s0

/-- A matched frame: a counter set lost to a memory error is restarted first (R190). -/
def matchedFrame (fr : Frame) (ctrError : Bool) (f n : Nat) (e : Entry) (old : Bool) (s : State) : State :=
  let s1 := if ctrError then counterError n old s else s
  processFrame { f, n, e, old, port := fr.port, stamp := fr.stamp, quality := (s.sck.at fr.stamp).1, fr, pub := none } s1

end Sys2Proof.Machine
end

