-- ==== Sys2Proof/Machine/Rnu.lean ====
section
/-! DEFINITION. The random number unit: start-up, failures, reseeding, Bellows, the test pattern and the random-number
operations (09), with NOP. -/

namespace Sys2Proof.Machine

/-- Code of the unit's state (Table 09-1). -/
def rnuCode : RnuState → Nat
  | .starting => 0 | .ready => 1 | .restarting => 2 | .fault => 3

/-- The unit is started anew: nothing gathered, nothing generated. -/
def Rnu.clear (r : Rnu) : Rnu := { r with bellows := [], seed := none, expander := none, generated := 0 }

/-- The first start-up attempt after ENTROPY_RESTART has ended: the operation completes with the state (R409). -/
def endRestart (s : State) : State :=
  match s.rnu.restart with
  | none => s
  | some (q, c) => lateComplete q c (okDetail (rnuCode s.rnu.st)) { s with rnu := { s.rnu with restart := none } }

/-! ### Health tests (R378, R379) -/

/-- Cutoff of the repetition count test: 1 + ceil(40 / H) samples with H = 0.5. -/
def repetitionCutoff : Nat := 81

/-- Window and cutoff of the adaptive proportion test. -/
def proportionWindow : Nat := 512
def proportionCutoff : Nat := 431

/-- Fewest samples in 1 ms at the rate floor of 0.1 MHz (R379). -/
def rateFloor : Nat := 100

/-- How often a byte occurs. -/
def occurrences (b : Byte) (l : Bytes) : Nat := (l.filter (· == b)).length

/-- The samples show the failure of a cause of Table 09-5: as many equal samples as the cutoff, a window in which the first sample occurs
too often, or the samples of 1 ms below the floor. A known-answer test shows its failure by itself. -/
def showsFailure (cause : Nat) (l : Bytes) : Bool :=
  match cause with
  | 1 => l.length == repetitionCutoff && occurrences (l.headD 0) l == repetitionCutoff
  | 2 => l.length == proportionWindow && decide (proportionCutoff ≤ occurrences (l.headD 0) l)
  | 3 => decide (l.length < rateFloor)
  | 4 | 5 => true
  | _ => false

/-! ### Failures (R396 to R401) -/

/-- A request that had drawn `n` of its bytes at the failure: the partial result of R397. -/
def failPartly (id n : Nat) (s : State) : State :=
  match s.ctx? id with
  | none => s
  | some c =>
    if c.hdr.opcode = 0x0501 then
      let pos := s.rnu.pos
      let b := draw n s
      let out := leBytes 8 pos ++ b.1
      finishCtx c { code := stEntropyFault, resultLen := out.length, output := out } (leaveCore id b.2)
    else finishCtx c (bare stEntropyFault) (leaveCore id s)

/-- Every request named as partly drawn ends. -/
def failAllPartly : List (Nat × Nat) → State → State
  | [], s => s
  | (id, n) :: t, s => failAllPartly t (failPartly id n s)

/-- The last output position drawn. -/
def lastPos (r : Rnu) : Nat := r.pos - 1

/-- Attempts after one more failure: the third ends the series (R401). A unit in FAULT stays there. -/
def Rnu.fail (r : Rnu) (cause source : Nat) (startup : Bool) : Rnu :=
  let n := r.attempts + 1
  { r.clear with
    st := if r.st = .fault ∨ 3 ≤ n then .fault else .restarting
    attempts := if r.st = .fault then r.attempts else n
    cause := cause % 16
    source := source % 2
    startup
    failPos := lastPos r
    failures := satTo 0xFFFF (r.failures + 1) }

/-- DATA of an RNU_FAILURE entry (Table 15-9). -/
def rnuData (cause source : Nat) (startup : Bool) (pos : Nat) : Nat :=
  cause % 256 + 256 * (source % 256) + 65536 * b2n startup + 2 ^ 32 * pos

/-- A failure of the unit (R396 to R401): `partly` names the requests in service with the bytes each has drawn. -/
def rnuFail (cause source : Nat) (startup : Bool) (partly : List (Nat × Nat)) (s : State) : State :=
  let s1 := failAllPartly partly s
  let was := s1.rnu.st
  let s2 := { s1 with rnu := s1.rnu.fail cause source startup }
  let s3 := finishWhere (fun c => c.phase == .held && c.angle == none) stEntropyFault s2.hif.ctxs s2
  let s4 := raiseEvent .rnu 0 0 (raiseAlarm causeRnu 0 (rnuData cause source startup s3.rnu.failPos) s3)
  let s5 := if s4.rnu.st = .fault ∧ was ≠ .fault then raiseEvent .rnu 0 2 s4 else s4
  endRestart s5

/-- RNU_HEALTH_FAILURE (R396): a health test, or a known-answer test of a start-up test, fails on these samples of a source. NS0 stands
for causes 4 and 5 (RNU_FAULT_CAUSE). -/
def execRnuHealthFailure (cause source : Nat) (startup : Bool) (taken : Bytes) (partly : List (Nat × Nat)) (s : State) :
    Host.Outcome State Fault Refusal :=
  onMain s <|
  if showsFailure cause taken then
    .next (rnuFail cause (if 4 ≤ cause then 0 else source % 2) startup partly s)
  else .next s

/-! ### Start-up and reseeding (R384, R388, R395) -/

/-- Discard the samples of the start-up test: the first 1,024 of each source (R387). -/
def discardSamples (s : State) : State := (samples 1 1024 (samples 0 1024 s).2).2

/-- The unit enters READY and says so (R387). -/
def enterReady (s : State) : State := endRestart (raiseEvent .rnu 0 1 { s with rnu := { s.rnu with st := .ready, attempts := 0 } })

/-- What waited for the unit goes on: held requests, in the order in which they arrived (R389), and vault keys that were due
(R664). -/
def serveReady (s : State) : State :=
  let s1 := resumeHeld s.hif.ctxs s
  if s1.key.keysDue && s1.level == 0 then unwrapAll { s1 with key := { s1.key with keysDue := false } } else s1

/-- The start-up test has passed: its samples are discarded, the expander is instantiated from the first seed, the first block fills and
the unit is READY (R387). -/
def rnuReady (s : State) : State :=
  if s.rnu.st = .starting ∨ s.rnu.st = .restarting then
    serveReady (enterReady (generateBlock (instantiate (discardSamples s))))
  else s

/-- RNU_STARTUP_PASS (R388). -/
def execRnuStartupPass (s : State) : Host.Outcome State Fault Refusal :=
  onMain s <| .next (rnuReady s)

/-- RNU_RESEED (R384): a reseed that is due takes the seed that is ready. -/
def execRnuReseed (s : State) : Host.Outcome State Fault Refusal :=
  onMain s <|
  if s.rnu.st = .ready ∧ reseedDue s.rnu s.sck.now then .next (reseed s) else .next s

/-- BELLOWS_REFILL (R391): a drained block is refilled by one generate call, after the reseed that is due (R384). -/
def execBellowsRefill (s : State) : Host.Outcome State Fault Refusal :=
  onMain s <|
  if s.rnu.st = .ready ∧ s.rnu.bellows.length < bellowsSize / bellowsBlock then .next (generateBlock s) else .next s

/-- Bellows is flushed and refilled (R394). -/
def flushBellows (s : State) : State :=
  if s.rnu.st = .ready then
    raiseEvent .rnu 0 3 (generateBlocks (bellowsSize / bellowsBlock) { s with rnu := { s.rnu with bellows := [] } })
  else s

/-- BELLOWS_FLUSH (R394): a memory error in Bellows. -/
def execBellowsFlush (s : State) : Host.Outcome State Fault Refusal :=
  onMain s <| .next (flushBellows s)

/-- EXPANDER_REINSTANTIATE (R395): the expander's state is zeroed and it is instantiated from the next seed. -/
def execExpanderReinstantiate (s : State) : Host.Outcome State Fault Refusal :=
  onMain s <|
  if s.rnu.st = .ready then .next (instantiate s) else .next s

/-! ### The test pattern (R405, R406) -/

/-- TEST_PATTERN_WRITE (R405): a write to RNU_TEST_PATTERN in the Maker state. A change of ENABLE flushes Bellows and
starts the unit on its new input; a unit in FAULT stays there (R401). SEED 0 is ignored. -/
def execTestPatternWrite (value : Nat) (s : State) : Host.Outcome State Fault Refusal :=
  viaBar 0 s <|
  if s.lcc.st = .maker then
    let seed := fieldOf value 31 16
    let r := { s.rnu with pattern := bitOf value 0, patternSeed := if seed = 0 then s.rnu.patternSeed else seed }
    if bitOf value 0 = s.rnu.pattern then .next { s with rnu := r }
    else
      let first := 65537 * r.patternSeed
      .next { s with rnu := { r.clear with st := if r.st = .fault then .fault else .starting,
                                           attempts := if r.st = .fault then r.attempts else 0, lfsr0 := first, lfsr1 := first } }
  else .next s

/-! ### Operations (R407 to R410, R462, R481) -/

/-- NOP (R462): completes OK and does nothing. -/
def execNop (q : Call) (s : State) : Host.Outcome State Fault Refusal :=
  .next (runOp 0x0001 q 0 s fun s => .done (okDetail 0) s)

/-- Result space of RANDOM_BYTES. -/
def randomSpace (length : Nat) : Nat := if length = 0 then 0 else 8 + length

/-- RANDOM_BYTES (R408, R481): the position of the first byte, then the bytes; length 0 reports readiness only. -/
def execRandomBytes (q : Call) (length : Nat) (s : State) : Host.Outcome State Fault Refusal :=
  .next (runOp 0x0501 q (randomSpace length) s fun s =>
    if 1048576 < length then .done (reject 0) s
    else withDraw q s fun s =>
      if length = 0 then .done (okDetail 0) s
      else
        let pos := s.rnu.pos
        let b := draw length s
        .done (okOut 0 (leBytes 8 pos ++ b.1)) b.2)

/-- ENTROPY_RESTART (R409): in FAULT a new series of attempts begins, and the operation completes when the first has ended;
in any other state it completes with the state. -/
def execEntropyRestart (q : Call) (s : State) : Host.Outcome State Fault Refusal :=
  .next (runOp 0x0502 q 0 s fun s =>
    if s.rnu.st = .fault then
      .running { s with rnu := { s.rnu with st := .restarting, attempts := 0, restart := some (q, s.ctxIdFor q) } }
    else .done (okDetail (rnuCode s.rnu.st)) s)

/-- RAW_SAMPLES (R410): samples as taken, in the Maker state. -/
def execRawSamples (q : Call) (source count : Nat) (s : State) : Host.Outcome State Fault Refusal :=
  .next (runOp 0x0503 q count s fun s =>
    if s.lcc.st ≠ .maker ∨ 1 < source ∨ 1048576 < count then .done (reject 0) s
    else
      let b := samples source count s
      .done (okOut 0 b.1) b.2)

end Sys2Proof.Machine
end

