-- ==== Sys2Proof/Machine/Integrity.lean ====
section
/-! DEFINITION. Memory errors, the scrubber and bus errors, with the recovery of each SRAM region (14). -/

namespace Sys2Proof.Machine

/-- Region index of an error (Table 14-4). -/
def MemErr.region : MemErr → Nat
  | .plan _ _ _ => 0
  | .queue _ _ _ => 1
  | .pad _ _ _ => 2
  | .ctx _ _ => 3
  | .core _ => 4
  | .key _ => 5
  | .staging _ _ => 6
  | .delay _ => 7
  | .bellows | .expander => 8
  | .pke _ => 9
  | .table _ => 10
  | .stamp _ => 11
  | .trace => 12

/-- A time is noted for a key of a table, unless one is noted already. -/
def noteOnce (k now : Nat) (t : Tbl Nat) : Tbl Nat := if Tbl.has t k then t else Tbl.put k now t

/-- An entry of a bank waits for its reload, from the detection on (R132). -/
def markEntry (f entry : Nat) (standby : Bool) (s : State) : State :=
  match Tbl.find? f s.pln.parts with
  | none => s
  | some p =>
    let p' := if standby then { p with reloadStandby := noteOnce entry s.sck.now p.reloadStandby }
              else { p with reload := noteOnce entry s.sck.now p.reload }
    keyEdges s { s with pln := { s.pln with parts := Tbl.put f p' s.pln.parts } }

/-- The first lost byte of a packet, with one more. -/
def lostNow (at_ : Nat) : Option Nat → Option Nat
  | none => some at_
  | some b => some (if at_ < b then at_ else b)

/-- A cell of a packet is lost (R544). -/
def markPacket (q index at_ : Nat) (s : State) : State :=
  let v := s.queue q
  match v.packets[index]? with
  | none => s
  | some p => s.setQueue q { v with packets := setPacket index { p with lostAt := lostNow at_ p.lostAt } v.packets }

/-- A pad is discarded and overwritten (R166, R167); `next`: the one under KEY_NEXT. -/
def dropPad (entry position : Nat) (next : Bool) (s : State) : State :=
  match Tbl.find? entry s.fe.entries with
  | none => s
  | some e =>
    let e' := { e with pads := e.pads.map fun x => if x.held ∧ x.pos = position ∧ x.next = next then {} else x }
    { s with fe := { s.fe with entries := Tbl.put entry e' s.fe.entries } }

/-- Bytes of the operation's transfer have moved. -/
def portMoved (s : State) (c : Ctx) : Bool :=
  (s.func c.f).dpCtx == some c.id && (decide (0 < (s.func c.f).dpPos) || !(s.func c.f).dpBuf.isEmpty)

/-- An error in an in-flight context (R578): a completion that is staged stands; an error in working words alone restarts
the operation; otherwise it completes INTEGRITY_LOST. -/
def ctxError (id : Nat) (working : Bool) (s : State) : State :=
  match s.ctx? id with
  | none => s
  | some c =>
    if c.comp.isSome then s
    else if working && !portMoved s c then
      let s1 := s.setCtx { c with recomputed := true }
      match s1.ts.items.find? (fun i => i.kind == .ctx id && i.core.isSome) with
      | some i => redispatch i.id (leaveCoreOnly i.id s1)
      | none => s1
    else finishCtx c (bare stIntegrityLost) (leaveCore id s)
where
  /-- the core that ran the item asks for work again -/
  leaveCoreOnly (item : Nat) (s : State) : State :=
    { s with ts := { s.ts with cores := Tbl.mapAll (fun _ (v : CoreRt) =>
        if v.item = some item then { v with st := .waiting, item := none } else v) s.ts.cores } }

/-- STAMP of the last record appended to a log; 0 before the first. -/
def lastStampOf (l : LogState) : Nat := (l.records.head?.map (·.stamp)).getD 0

/-- A staged record with an error is discarded; its LOST_RECORDS record follows the records completed before it (R237, R580). -/
def stagingError (index : Nat) (stampRead : Bool) (s : State) : State :=
  match s.arc.staging[index]? with
  | none => s
  | some st =>
    let sz := recSize st.body
    let s1 := { s with arc := { s.arc with
      staging := s.arc.staging.eraseIdx index,
      lostTotal := s.arc.lostTotal + 1,
      eventBytes := if st.log = 0 then s.arc.eventBytes - sz else s.arc.eventBytes,
      captureBytes := if st.log = 0 then s.arc.captureBytes else s.arc.captureBytes - sz } }
    let first := if stampRead then st.stamp else lastStampOf (s1.arc.log st.log)
    let last := if stampRead then st.stamp else toStamp s1.sck.now
    stageRec 2 0x7F (.lostRecords st.log 0 0 1 (!stampRead) first last 0 0) s1

/-- The access table is reloaded from the rule image; without one it keeps the boot rule set and the alarm is raised. -/
def tableError (imageOk : Bool) (addr : Nat) (s : State) : State :=
  match imageOk, s.ac.image with
  | true, some t => { s with ac := { s.ac with table := t } }
  | _, _ => raiseLogic 6 18 10 addr { s with ac := { s.ac with table := bootRules, rulesLoaded := false } }

/-- A slot of the key cache waits for its re-unwrap (R304); the entries that name it come under a key condition (Table 04-8). -/
def keyError (handle : Nat) (s : State) : State :=
  match s.key? handle with
  | none => s
  | some k =>
    keyEdges s { s with key := { s.key with keys := Tbl.put handle { k with faulted := true } s.key.keys,
                                            lostAt := noteOnce handle s.sck.now s.key.lostAt } }

/-- A delay list is emptied and waits for its rebuild (R551). -/
def delayError (list : Nat) (s : State) : State :=
  if list < 4 then
    { s with ts := { s.ts.setDelay list [] with rebuilding := list :: s.ts.rebuilding.filter (· != list) } }
  else s

/-- A copy whose egress stamp is lost is not transmitted, and no stream counter counts it (R576). -/
def lostStamp (copy : Nat) (s : State) : State :=
  match s.fe.copies.find? fun c => c.id == copy with
  | none => s
  | some c => match s.frameOf c with
    | none => s
    | some fr => endCopy c fr (notSent c.port false 0) s

/-- The recovery of Table 14-4. -/
def recover (addr : Nat) (e : MemErr) (s : State) : State :=
  match e with
  | .plan f entry standby => markEntry f entry standby s
  | .queue q i b => markPacket q i b s
  | .pad entry i other => dropPad entry i other s
  | .ctx id working => ctxError id working s
  | .core c => coreError c s
  | .key h => keyError h s
  | .staging i ok => stagingError i ok s
  | .delay l => delayError l s
  | .bellows => flushBellows s
  | .expander => if s.rnu.st = .ready then instantiate s else s
  | .pke n => abortBy n 2 s
  | .table ok => tableError ok addr s
  | .stamp none | .trace => s
  | .stamp (some c) => lostStamp c s

/-- Times of the errors of the last second of RTC time, with one now. -/
def errorsNow (s : State) : List Nat := s.sck.rtcCount :: s.ac.errors.filter (fun t => decide (s.sck.rtcCount < t + 32768))

/-- A burst of more than 64 errors within a second raises LOGIC_INTEGRITY, and the count begins anew (R573). -/
def burstCheck (addr region : Nat) (s : State) : State :=
  let l := errorsNow s
  if 64 < l.length then raiseLogic 5 18 region addr { s with ac := { s.ac with errors := [] } }
  else { s with ac := { s.ac with errors := l } }

/-- A memory error: its count, its event, the burst of R573 and the recovery. -/
def memoryError (addr : Nat) (e : MemErr) (s : State) : State :=
  let r := e.region
  let s1 := { s with ac := { s.ac with integ := Tbl.put r (satTo max32 (Tbl.get 0 s.ac.integ r + 1)) s.ac.integ } }
  recover addr e (burstCheck addr r (raiseEvent .ac 0 3 s1))

/-! ### The code of a word (R570) -/

/-- A bit goes through the CRC-8 with polynomial x^8 + x^5 + x^3 + x^2 + x + 1. -/
def codeBit (c : Nat) (b : Bool) : Nat := if c.testBit 7 == b then c * 2 % 256 else (c * 2 % 256) ^^^ 0x2F

/-- The low `n` bits of a number go through the CRC-8. PRESUMED: the most significant first. -/
def codeBits (n v c : Nat) : Nat := ((List.range n).reverse.map v.testBit).foldl codeBit c

/-- The code of a 64-bit word (R570): its bits and then bits [26:3] of its address, from 0xFF. -/
def wordCode (data addr : Nat) : Nat := codeBits 24 (addr / 8) (codeBits 64 data 0xFF)

/-- A word as it is read: address, data, code, and what it holds. -/
def WordRead.fails (w : WordRead) : Bool := w.code != wordCode w.data w.addr && sramRegion w.addr == some w.what.region

/-- MEMORY_ERROR (R572): a word read by an initiator fails its code. -/
def execMemoryError (w : WordRead) (s : State) : Host.Outcome State Fault Refusal :=
  onMain s <| if w.fails then .next (memoryError w.addr w.what s) else .next s

/-- SCRUB_READ (R571): the scrubber reads a word, the last of a pass or not; an error is handled as an initiator's. -/
def execScrubRead (w : WordRead) (last : Bool) (s : State) : Host.Outcome State Fault Refusal :=
  onMain s <|
  let s1 := if last then { s with ac := { s.ac with passes := satTo 0xFFFF (s.ac.passes + 1) } } else s
  if w.fails then .next (memoryError w.addr w.what s1) else .next s1

/-- BUS_INTEGRITY_ERROR (R583, R584): the transfer is retried once, checked again for access; a second error fails it, with
the alarm and the recovery of its region. A write of the Quench path is outside the rule. -/
def execBusIntegrityError (x : Access) (e : Option MemErr) (again : Bool) (s : State) : Host.Outcome State Fault Refusal :=
  onMain s <|
  if x.group = 11 then .next s
  else
    let s1 := raiseEvent .ac 0 1 { s with ac := { s.ac with retried := satTo max32 (s.ac.retried + 1) } }
    if again then
      let s2 := raiseEvent .ac 0 2 { s1 with ac := { s1.ac with failed := satTo 0xFFFF (s1.ac.failed + 1) } }
      let s3 := raiseLogic 4 (groupBlock x) x.group x.addr s2
      match e with
      | none => .next s3
      | some m => .next (recover x.addr m s3)
    else .next (access x s1)

end Sys2Proof.Machine
end

