-- ==== Sys2Proof/Machine/Life.lean ====
section
/-! DEFINITION. Life-cycle requests, debug tokens and the debug port, self-test, and the management operations (16, 17, 11). -/

namespace Sys2Proof.Machine

/-! ### Life-cycle requests (R626 to R628) -/

/-- Signers of a transition: alternatives of role and number (Table 16-2); none for a transition it does not list. -/
def lifeSigners : LifeState → LifeState → List (Nat × Nat)
  | .maker, .integrator => [(roleService, 1)]
  | .integrator, .fielded => [(roleOfficer, 2)]
  | .integrator, .returned => [(roleIntegrator, 1), (roleOfficer, 2)]
  | .fielded, .returned => [(roleOfficer, 2)]
  | .fielded, .scrapped => [(roleOfficer, 2)]
  | .returned, .integrator => [(roleService, 1)]
  | .returned, .scrapped => [(roleService, 1)]
  | _, _ => []

/-- State of a code. -/
def lifeOf : Nat → Option LifeState
  | 0 => some .maker
  | 1 => some .integrator
  | 2 => some .fielded
  | 3 => some .returned
  | 4 => some .scrapped
  | _ => none

/-- A condition of some source is present. -/
def causePresent (s : State) (cause : Nat) : Bool := s.tm.present.any fun x => x.1 == cause

/-- INTEGRATOR_DIGEST that a request must show: the digest of the keys written, or zero for a target other than Integrator (R626). -/
def integratorDigest (s : State) (target : LifeState) : Bytes :=
  if target = .integrator then digest 1 s.lcc.written.flatten else List.replicate 32 0

/-- The condition of a transition at the request (Table 16-2). -/
def lifeCondition (s : State) (target : LifeState) : Bool :=
  let keys := decide (1 ≤ s.lcc.written.length) && decide (s.lcc.written.length ≤ 2) && s.lcc.dikCert.isSome
  (match s.lcc.st, target with
    | .maker, .integrator => keys
    | .integrator, .fielded => s.key.rootPresent
    | .returned, .integrator =>
      keys && !causePresent s causeLight && !causePresent s causeMesh && !causePresent s causeMonitorFault
    | _, _ => true)

/-- Write a pending transition, or none, into the three copies (R625). -/
def setTransition (target : Option LifeState) (s : State) : State :=
  { s with lcc := { s.lcc with target, copies := List.replicate 3 { st := s.lcc.st, target } } }

/-- The signers required: those of the pending transition for a cancellation, of the transition asked for otherwise; of several
alternatives the one that the signatures meet. -/
def lifeNeeds (s : State) (target : Option LifeState) (sigs : List SigBlock) : Nat × Nat :=
  let alts := match target with
    | none => []
    | some t =>
      if t = s.lcc.st then (match s.lcc.target with
        | some p => lifeSigners s.lcc.st p
        | none => [])
      else lifeSigners s.lcc.st t
  (alts.find? fun a => decide (a.2 ≤ countRole a.1 sigs)).getD (alts.headD (0, 0))

/-- LIFECYCLE_REQUEST (R626 to R628): the reserved bytes of its PARAMS are judged under COMMAND_INVALID (R627); a transition becomes pending, or a pending one is cancelled. DEDUCED: a cancellation shows the
digest that R626 gives its TARGET. -/
def execLifecycleRequest (q : Call) (auth : AuthReq) (s : State) : Host.Outcome State Fault Refusal :=
  let target := leAt auth.params 0 1
  .next (runOp 0x0901 q 0 s fun s =>
    let need := lifeNeeds s (lifeOf target) auth.sigs
    match authReason auth q.hdr.inLen 0x0901 0 need.1 need.2 [(0, 64)] s with
    | some r => .done (reject r) s
    | none =>
      match lifeOf target with
      | none => .done (reject 0x010A) s
      | some t =>
        let s1 := s.updDom 0 fun d => { d with temper := auth.counter }
        if sumFrom (auth.params.take 0x20) 1 ≠ 0 ∨ (auth.params.drop 0x20).take 32 ≠ integratorDigest s t then .done (reject 0x010A) s
        else if t = s.lcc.st then
          if s.lcc.target.isSome then
            .done (okDetail 0) (raiseEvent .lcc 0 1
              (securityRec secTransitionCancelled target (signerPair auth.sigs) auth.counter (setTransition none s1)))
          else .done (reject 0x010A) s
        else if s.lcc.target.isSome || (lifeSigners s.lcc.st t).isEmpty || !lifeCondition s t then
          .done (reject 0x010A) s
        else
          .done (okDetail 0) (raiseEvent .lcc 0 0
            (securityRec secTransitionSet target (signerPair auth.sigs) auth.counter (setTransition (some t) s1))))

/-! ### Debug tokens (R636 to R640) -/

/-- Scopes that a state permits (Table 16-1). -/
def lifeScopes : LifeState → Nat
  | .maker | .returned => 0x3F
  | .integrator => 7
  | .fielded => 1
  | .scrapped => 0

/-- Signers of a token in a state (Table 16-6). -/
def tokenSigners : LifeState → List (Nat × Nat)
  | .integrator => [(roleService, 1), (roleIntegrator, 1)]
  | .fielded => [(roleService, 1), (roleOfficer, 2)]
  | _ => [(roleService, 1)]

/-- The signatures are exactly those a state asks for. -/
def tokenSigned (s : State) (sigs : List SigBlock) : Bool :=
  signersOk s 0 sigs && (tokenSigners s.lcc.st).all (fun a => countRole a.1 sigs == a.2)
    && sigs.length == (tokenSigners s.lcc.st).foldl (fun n a => n + a.2) 0

/-- FORMAT of a token of `inLen` bytes; a NOT_AFTER that is no stamp is refused with it (R63; DESIGN CHOICE: the spec gives its refusal no
reason of its own). -/
def tokenForm (t : DebugToken) (inLen : Nat) : Bool :=
  t.magic == 0x5444584E && t.format == 1 && t.sigCount == t.sigs.length && decide (1 ≤ t.sigCount) && decide (t.sigCount ≤ 3)
    && decide (1 ≤ t.duration) && decide (t.duration ≤ 86400) && inLen == 128 + 136 * t.sigCount && decide (t.scope < 64)
    && t.res48 == 0 && t.sigs.all (fun b => b.reserved == 0) && stampValid t.notAfter

/-- Bytes 0x00 to 0x7F of a token, on which its signatures are computed. -/
def tokenBytes (t : DebugToken) : Bytes :=
  leBytes 4 t.magic ++ leBytes 2 t.format ++ leBytes 1 t.sigCount ++ leBytes 1 t.st ++ leBytes 4 t.scope ++ leBytes 4 t.duration
    ++ leBytes 8 t.notAfter ++ fitBytes 32 t.target ++ leBytes 16 t.bootId ++ leBytes 56 t.res48

/-- The reason that refuses a token, in the order of Table 16-8. -/
def tokenReason (t : DebugToken) (inLen : Nat) (s : State) : Option Nat :=
  if tokenForm t inLen = false then some 0x0301
  else if t.target ≠ s.target then some 0x0302
  else if t.bootId ≠ s.lcc.bootId ∨ s.lcc.accepted.contains t = true then some 0x0303
  else if t.st ≠ lifeCode s.lcc.st ∨ (t.scope &&& lifeScopes s.lcc.st) ≠ t.scope then some 0x0304
  else if expired s t.notAfter then some 0x0305
  else if tokenSigned s t.sigs = false then some 0x0306
  else if sigsVerify s 0 (tokenBytes t) t.sigs = false then some 0x0307
  else if s.lcc.token.isSome then some 0x0308
  else none

/-- DEBUG_AUTHORISE (R639, R640): an accepted token comes into force; the grants of group 13 follow the token. -/
def execDebugAuthorise (q : Call) (t : DebugToken) (s : State) : Host.Outcome State Fault Refusal :=
  .next (runOp 0x0902 q 0 s fun s =>
    match tokenReason t q.hdr.inLen s with
    | some r => .done (reject r) s
    | none =>
      let inForce : TokenInForce :=
        { scope := t.scope, until_ := rtcSeconds s + t.duration, signers := t.sigs.map (·.signerId) }
      .done (okDetail 0) (raiseEvent .lcc 0 2 (securityRec secDebugStart t.scope (signerPair t.sigs) t.sigs.length
        { s with lcc := { s.lcc with token := some inForce, accepted := t :: s.lcc.accepted } })))

/-- DEBUG_TOKEN_EXPIRY (R640): the end of DURATION. -/
def execDebugTokenExpiry (s : State) : Host.Outcome State Fault Refusal :=
  onMain s <|
  match s.lcc.token with
  | none => .next s
  | some t => if t.until_ ≤ rtcSeconds s then .next (endToken s) else .next s

/-- DEBUG_END (R640): END is written to LCC_DEBUG_CTRL. -/
def execDebugEnd (s : State) : Host.Outcome State Fault Refusal := viaBar 0 s (.next (endToken s))

/-! ### The debug port (R638, R641, R728) -/

/-- The debug port answers: the SoC is powered, and the module has not stopped in Scrapped (R635). -/
def portAnswers (s : State) : Bool := s.pwr.main && !(s.pwr.stopped && s.lcc.st == .scrapped)

/-- Answers of the debug port: numbers of `Out.jtag`. -/
def jtagId : Nat := 1
def jtagBypass : Nat := 2
def jtagRead : Nat := 3
def jtagPerf : Nat := 4
def jtagScan : Nat := 5

/-- JTAG_IDCODE (R728). -/
def execJtagIdcode (s : State) : Host.Outcome State Fault Refusal :=
  if portAnswers s then .next (emit (.jtag jtagId 0xB0880E95) s) else .next s

/-- An instruction acts as BYPASS. -/
def bypass (s : State) : State := emit (.jtag jtagBypass 0) s

/-- JTAG_BYPASS (R728). -/
def execJtagBypass (s : State) : Host.Outcome State Fault Refusal :=
  if portAnswers s then .next (bypass s) else .next s

/-- Scope bits of which an instruction needs one (Table 16-6). -/
def actScopes : DebugAct → Nat
  | .read .. => 15
  | .perf _ => 1
  | .halt _ | .step _ | .release _ => 2
  | .scan => 16
  | _ => 32

/-- Some core other than `c` that is in service, and neither halted nor under test, serves the group. -/
def servedWithout (s : State) (c g : Nat) : Nat → Bool
  | 0 => false
  | n + 1 =>
    (n != c && (s.coreRt n).inService && !(s.coreRt n).halted && !(s.coreRt n).testing && (s.coreGroups n).testBit g)
      || servedWithout s c g n

/-- Without core `c` each of groups 0 to 13 still has a core in service. -/
def canSpare (s : State) (c : Nat) : Bool := (List.range 14).all fun g => servedWithout s c g 48

/-- Halt a core: its item is re-dispatched, and it is out of dispatch (R641). -/
def haltCore (c : Nat) (s : State) : State :=
  let v := s.coreRt c
  let s1 := match v.item with
    | some i => redispatch i s
    | none => s
  s1.setCore c { v with st := if v.st = .running then .waiting else v.st, item := none, halted := true }

/-- What an instruction does under a token that grants it. What the trace region, SRAM, a performance counter or a scan chain
holds is a free value. -/
def debugAct (a : DebugAct) (s : State) : State :=
  match a with
  | .read addr len =>
    let x : Access := { group := 13, addr, len, write := false }
    let v := freshValue s
    if isHeld s x = false ∧ (pieces (len / 4096 + 2) addr len).all (fun p => grants s x p.1) = true then
      emit (.jtag jtagRead v.1.toNat) (access x v.2)
    else access x s
  | .perf _ => let v := freshValue s; emit (.jtag jtagPerf v.1.toNat) v.2
  | .halt c => if c < s.coreCount ∧ (s.coreRt c).halted = false ∧ canSpare s c = true then haltCore c s else s
  | .step _ => s
  | .release c => if c < s.coreCount then s.setCore c { s.coreRt c with halted := false } else s
  | .scan => let v := freshValue s; emit (.jtag jtagScan v.1.toNat) v.2
  | .writeKey key => { s with lcc := { s.lcc with written := s.lcc.written ++ [key] } }
  | .writeDik certificate => { s with lcc := { s.lcc with dikCert := some certificate } }
  | .writeMesh ohms => { s with lcc := { s.lcc with mesh := ohms } }

/-- DEBUG_PORT_ACCESS (R638, R728): an instruction whose scope no token grants acts as BYPASS. -/
def execDebugPortAccess (a : DebugAct) (s : State) : Host.Outcome State Fault Refusal :=
  if portAnswers s = false then .next s
  else
    match s.lcc.token with
    | none => .next (bypass s)
    | some t => if t.scope &&& actScopes a = 0 then .next (bypass s) else .next (debugAct a s)

/-! ### SELF_TEST_RUN (R642 to R645) -/

/-- Expected signature of a block (Table 16-9); none for an unknown one. -/
def testExpected (block : Nat) : Option Nat :=
  if 0x100 ≤ block ∧ block ≤ 0x103 then some 0x7A31C9E40B562D8F
  else if 0x200 ≤ block ∧ block ≤ 0x205 then some 0x3E905C17A4D26B08
  else if block = 0x206 ∨ block = 0x207 then some 0xD14B0E7395AF2C61
  else if 0x300 ≤ block ∧ block ≤ 0x32F then some 0x58C2F01D6E39A7B4
  else if block = 0x400 then some 0x9F062BD8413EC575
  else if block = 0x401 then some 0x26E7B5930CA1F84D
  else if block = 0x500 then some 0xB3A87D42E61905CE
  else if block = 0x600 then some 0x0C5FE28B73D619A0
  else if block = 0x700 then some 0x6D2491F3BE0748C9
  else none

/-- The block exists and can be run by command now. -/
def testable (s : State) (block : Nat) : Bool :=
  (testExpected block).isSome && block != 0x500 && block != 0x600
    && (block != 0x700 || s.lcc.st == .maker)
    && (block / 256 != 2 || enginePresent s (block % 256))
    && (block / 256 != 3 || decide (block % 256 < s.coreCount))

/-- The block is in service. -/
def blockInService (s : State) (block : Nat) : Bool :=
  if block / 256 = 1 then s.stc.pipes.testBit (block % 256)
  else if block / 256 = 2 then (s.engine (block % 256)).inService
  else if block / 256 = 3 then (s.coreRt (block % 256)).inService
  else true

/-- The plans active and armed fit three-quarters of the crypto limits (R652). -/
def shortFits (s : State) : Bool :=
  let sets := (s.pln.parts.map fun x => x.2.active.toList) :: ((laterInstants 0 s.pln.parts).map fun t =>
    s.pln.parts.map fun x => contributes t x.2)
  sets.all fun l => setFits s true l.flatten

/-- The failing check of R644. -/
def testFault (s : State) (block : Nat) : Option Nat :=
  let n := block % 256
  if s.stc.under.any (fun r => r.block == block) || (block / 256 == 1 && s.stc.testing.testBit n) then some 1
  else if block / 256 = 1 ∧ ((List.range 4).any (fun m => m != n && !s.stc.pipes.testBit m)
      || (s.stc.rolling && !s.stc.rollSuspended) || !shortFits s) = true then some 2
  else if blockInService s block
      && ((block / 256 == 2 && (findEngine (s.setEngine n { s.engine n with inService := false }) (isLong n) fun _ => true).isNone)
        || (block / 256 == 3 && !canSpare s n)) then some 3
  else none

/-- The ports that pipeline `n` serves (R143). -/
def pipePorts (n : Nat) : List Nat := [n, 4 + 2 * n, 5 + 2 * n]

/-- A pipeline's ports move to the next pipeline, or return (R649, R650). -/
def movePorts (n : Nat) (away : Bool) (s : State) : State :=
  let step (t : Tbl Nat) (p : Nat) : Tbl Nat := if away then Tbl.put p ((n + 1) % 4) t else Tbl.del p t
  { s with fe := { s.fe with pipeOf := (pipePorts n).foldl step s.fe.pipeOf } }

/-- Take pipeline `n` out for a test. -/
def takePipe (n : Nat) (s : State) : State :=
  let pipes := s.stc.pipes - (s.stc.pipes &&& 2 ^ n)
  movePorts n true { s with stc := { s.stc with pipes, testing := s.stc.testing ||| 2 ^ n } }

/-- The test of pipeline `n` has ended: it is back in service after a passed test. -/
def givePipe (n : Nat) (pass : Bool) (s : State) : State :=
  let testing := s.stc.testing - (s.stc.testing &&& 2 ^ n)
  if pass then movePorts n false { s with stc := { s.stc with testing, pipes := s.stc.pipes ||| 2 ^ n } }
  else { s with stc := { s.stc with testing } }

/-- Free a block for its test (R643). -/
def takeBlock (block : Nat) (s : State) : State :=
  let n := block % 256
  if block / 256 = 1 then takePipe n s
  else if block / 256 = 2 then
    moveQueued n (s.setEngine n { s.engine n with inService := false })
  else if block / 256 = 3 then s.setCore n { s.coreRt n with testing := true }
  else s

/-- The block has become free: its engine or core has finished its work. -/
def blockFree (s : State) (block : Nat) : Bool :=
  let n := block % 256
  if block / 256 = 2 then (s.engine n).op.isNone && (s.engine n).next.isNone
  else if block / 256 = 3 then (s.coreRt n).item.isNone && (s.coreRt n).st != .restarting
  else true

/-- A test has ended: the block is in service if it passed and out of service otherwise. `partly` names the requests for
randomness that a known-answer failure ends half-drawn (R397). -/
def settleBlock (block : Nat) (was pass : Bool) (partly : List (Nat × Nat)) (s : State) : State :=
  let n := block % 256
  if block / 256 = 1 then
    let s1 := givePipe n pass s
    let out := (List.range 4).any fun m => !s1.stc.pipes.testBit m
    { s1 with stc := { s1.stc with rollSuspended := s1.stc.rollSuspended && out } }
  else if block / 256 = 2 then
    let s1 := s.setEngine n { s.engine n with inService := pass }
    if was = pass then s1 else engineRec n (s1.engine n) (raiseEvent .pke 0 (if pass then 3 else 2) s1)
  else if block / 256 = 3 then
    let v := s.coreRt n
    if pass then
      s.setCore n { v with testing := false, st := if v.st = .outOfService then .waiting else v.st,
                           failures := if v.st = .outOfService then [] else v.failures }
    else
      let s1 := s.setCore n { v with testing := false, st := .outOfService }
      noteUnserved (if was then raiseEvent .ts 0 2 s1 else s1)
  else if pass then s
  else if block = 0x400 then rnuFail 4 0 false partly s
  else if block = 0x401 then rnuFail 5 0 false partly s
  else s

/-- The test's result: the completion, and what follows a failure or a return to service (R643). -/
def endTest (r : TestRun) (sig : Nat) (partly : List (Nat × Nat)) (s : State) : OpOut :=
  let v := sig % 2 ^ 64
  let pass := testExpected r.block == some v
  let s1 := settleBlock r.block r.was pass partly
    { s with stc := { s.stc with under := s.stc.under.filter fun x => x.block != r.block } }
  let s2 := if pass then (if r.was then s1 else raiseEvent .stc 0 2 s1)
            else raiseEvent .stc 0 0 (securityRec secTestFailed r.block v 0 s1)
  .done (okOut (b2n pass) (leBytes 8 v)) s2

/-- SELF_TEST_RUN (R643 to R645): the first performance frees the block and begins its test; once the block is free, the signature
that the test gives ends it. -/
def execSelfTestRun (q : Call) (block : Nat) (sig : Option Nat) (partly : List (Nat × Nat)) (s : State) :
    Host.Outcome State Fault Refusal :=
  .next (runOp 0x0A01 q 8 s fun s =>
    let finish (r : TestRun) (s : State) : OpOut :=
      match sig with
      | some v => if blockFree s r.block then endTest r v partly s else .running s
      | none => .running s
    match s.stc.under.find? fun r => r.block == block && decide (r.call = q) with
    | some r => finish r s
    | none =>
      if testable s block = false then .done (reject 0) s
      else match testFault s block with
        | some d => .done { code := stRefusedFull, detail := d } s
        | none =>
          let r : TestRun := { block, was := blockInService s block, call := q, ctx := s.ctxIdFor q }
          let s1 := takeBlock block s
          finish r { s1 with stc := { s1.stc with under := r :: s1.stc.under } })

/-! ### Rolling self-test (R648 to R653) -/

/-- ROLLING_TEST (R648, R652). -/
def execRollingTest (q : Call) (mode period : Nat) (s : State) : Host.Outcome State Fault Refusal :=
  .next (runOp 0x0A02 q 0 s fun s =>
    if mode = 0 then .done (okDetail 0) { s with stc := { s.stc with rolling := false, rollSuspended := false, period := 0 } }
    else if 1 < mode ∨ period < 60 ∨ 86400 < period then .done (reject 0) s
    else if shortFits s = false then .done { code := stRefusedFull, detail := 2 } s
    else if s.stc.rolling then .done (okDetail 0) { s with stc := { s.stc with period } }
    else
      let out := (List.range 4).any fun m => !s.stc.pipes.testBit m
      .done (okDetail 0) { s with stc := { s.stc with
        rolling := true, rollSuspended := out, period, nextPipe := 0, nextAt := secondAt (s.sck.now + 1) } })

/-- The rolling test of a pipeline has ended (R653). -/
def endRolling (n sig : Nat) (s : State) : State :=
  let pass := testExpected (0x100 + n) == some (sig % 2 ^ 64)
  let s1 := givePipe n pass { s with stc := { s.stc with rollPipe := none } }
  if pass then { s1 with stc := { s1.stc with passes := satTo 0xFFFFFF (s1.stc.passes + 1) } }
  else
    let s2 := { s1 with stc := { s1.stc with fails := satTo 255 (s1.stc.fails + 1), rollSuspended := s1.stc.rolling } }
    raiseEvent .stc 0 1 (securityRec secRollingFailed n (sig % 2 ^ 64) 0 s2)

/-- ROLLING_TEST_PERIOD (R648): at each PERIOD the next pipeline is taken out and tested. Without a signature its test is under
way still. -/
def execRollingTestPeriod (sig : Option Nat) (s : State) : Host.Outcome State Fault Refusal :=
  onMain s <|
  let finish (n : Nat) (s : State) : State :=
    match sig with
    | some v => endRolling n v s
    | none => s
  match s.stc.rollPipe with
  | some n => .next (finish n s)
  | none =>
    if s.stc.rolling && !s.stc.rollSuspended && decide (s.stc.nextAt ≤ s.sck.now) then
      let n := s.stc.nextPipe
      let s1 := takePipe n s
      .next (finish n { s1 with stc := { s1.stc with
        rollPipe := some n, nextPipe := (n + 1) % 4, nextAt := s1.stc.nextAt + s1.stc.period * nsPerSec } })
    else .next s

/-! ### Management (R462, R682) -/

/-- MODULE_INFO (Table 11-19). -/
def moduleInfo (s : State) : Bytes :=
  leBytes 8 s.ident.siliconId ++ leBytes 1 (b2n s.ident.nx880b) ++ leBytes 1 (b2n s.pwr.lupin)
    ++ leBytes 1 (b2n s.pwr.lupinNext) ++ leBytes 1 (lifeCode s.lcc.st) ++ leBytes 1 s.level ++ leBytes 1 0xB0
    ++ leBytes 2 0 ++ leBytes 4 s.pwr.version ++ beBytes 6 s.ident.baseMac ++ leBytes 38 0

/-- MODULE_INFO (R462). -/
def execModuleInfo (q : Call) (s : State) : Host.Outcome State Fault Refusal :=
  .next (runOp 0x0B01 q 64 s fun s => .done (okOut 0 (moduleInfo s)) s)

/-- CONFIG_SELECT (R682). -/
def execConfigSelect (q : Call) (config : Nat) (s : State) : Host.Outcome State Fault Refusal :=
  .next (runOp 0x0B05 q 0 s fun s =>
    if 1 < config then .done (reject 0) s
    else .done (okDetail 0) { s with pwr := { s.pwr with lupinNext := config == 1 } })

/-! ### Firmware (R666 to R671) -/

/-- A firmware slot, 0 or 1. -/
def Pwr.slot (p : Pwr) (n : Nat) : FwSlot := if n = 0 then p.slot0 else p.slot1

/-- Replace a firmware slot. -/
def Pwr.setSlot (p : Pwr) (n : Nat) (v : FwSlot) : Pwr := if n = 0 then { p with slot0 := v } else { p with slot1 := v }

/-- The roles of slots and images. -/
def roleNone : Nat := 0
def roleCurrent : Nat := 1
def rolePrevious : Nat := 2
def roleTrial : Nat := 3

/-- The slot with a role. -/
def Pwr.withRole (p : Pwr) (role : Nat) : Option Nat :=
  if p.slot0.role = role then some 0 else if p.slot1.role = role then some 1 else none

/-- SLOT may not be loaded: it holds the running image, or the CURRENT image while a trial runs. -/
def slotBusy (p : Pwr) (n : Nat) : Bool := p.running == some n || (p.trial && (p.slot n).role == roleCurrent)

/-- Lengths of an image. -/
def fwLengthOk (n : Nat) : Bool := decide (65536 ≤ n) && decide (n ≤ 2097152)

/-- MAGIC, FORMAT, SECURITY_VERSION, LENGTH and the reserved fields are right (Table 17-3). -/
def FwImage.formOk (i : FwImage) : Bool :=
  i.magic == 0x5746584E && i.format == 1 && decide (1 ≤ i.sec) && decide (i.sec ≤ 0xFFFF) && fwLengthOk i.length && i.reserved == 0
    && i.sig.reserved == 0

/-- The signature verifies, and is the firmware key's (R667). PRESUMED: the boot ROM has the key that the fused identifier names. -/
def FwImage.signed (key : Bytes) (i : FwImage) : Bool :=
  i.sig.role == roleService && i.sig.algorithm == 1 && i.sig.signerId == signerIdOf key && digestVerifies key i.digest i.sig.r i.sig.s

/-- An image is valid under a floor (R667). -/
def FwImage.valid (key : Bytes) (floor : Nat) (i : FwImage) : Bool := i.formOk && i.signed key && decide (floor ≤ i.sec)

/-- The reason that refuses an image of `length` bytes that has arrived (R670). -/
def fwReason (key : Bytes) (floor length : Nat) (i : FwImage) : Option Nat :=
  if i.formOk = false ∨ i.length ≠ length then some 0x0401
  else if i.signed key = false then some 0x0402
  else if i.sec < floor then some 0x0403
  else none

/-- FIRMWARE_LOAD (R670): without an image the transfer begins; with it the last byte has arrived. -/
def execFirmwareLoad (q : Call) (length slot : Nat) (image : Option FwImage) (s : State) : Host.Outcome State Fault Refusal :=
  .next (runOp 0x0B06 q 0 s fun s =>
    if 1 < slot then .done (reject 0) s
    else if slotBusy s.pwr slot then .done (reject 0x0404) s
    else if fwLengthOk length = false then .done (reject 0x0401) s
    else match image with
      | none => .running { s with pwr := s.pwr.setSlot slot { st := 1 } }
      | some i =>
        match fwReason s.ident.firmware s.pwr.floor length i with
        | some r => .done (reject r) { s with pwr := s.pwr.setSlot slot {} }
        | none => .done (okDetail 0) { s with pwr := s.pwr.setSlot slot { st := 2, role := roleNone, image := some i } })

/-- Take the role TRIAL from the slot that has it. -/
def FwSlot.untried (v : FwSlot) : FwSlot := if v.role = roleTrial then { v with role := roleNone } else v

/-- Take the role TRIAL from both slots. -/
def Pwr.untried (p : Pwr) : Pwr := { p with slot0 := p.slot0.untried, slot1 := p.slot1.untried, trialPending := false }

/-- FIRMWARE_SELECT (R671). -/
def execFirmwareSelect (q : Call) (slot : Nat) (s : State) : Host.Outcome State Fault Refusal :=
  .next (runOp 0x0B07 q 0 s fun s =>
    if 1 < slot then .done (reject 0) s
    else if s.pwr.running = some slot then .done (okDetail 0) { s with pwr := s.pwr.untried }
    else if (s.pwr.slot slot).st = 2 then
      let p := s.pwr.untried
      .done (okDetail 0) { s with pwr := { p.setSlot slot { p.slot slot with role := roleTrial } with trialPending := true } }
    else .done (reject 0) s)

/-- A slot once its trial is committed under a floor: TRIAL becomes CURRENT and CURRENT becomes PREVIOUS; an image below the
floor is no longer valid. -/
def FwSlot.commit (floor : Nat) (v : FwSlot) : FwSlot :=
  let role := if v.role = roleTrial then roleCurrent else if v.role = roleCurrent then rolePrevious else v.role
  { v with role, st := if v.st = 2 ∧ v.sec < floor then 3 else v.st }

/-- FIRMWARE_TRIAL_COMMIT (R669): forwarding has been in progress for 300 s of grid time. -/
def execFirmwareTrialCommit (s : State) : Host.Outcome State Fault Refusal :=
  onMain s <|
  match s.pwr.withRole roleTrial with
  | none => .next s
  | some n =>
    if s.fe.forwarding && s.pwr.trial && s.pwr.trialPending && decide (s.pwr.forwardAt + 300 * nsPerSec ≤ s.sck.now) then
      let sec := (s.pwr.slot n).sec
      let floor := if s.pwr.floor < sec then sec else s.pwr.floor
      let p := { s.pwr with slot0 := s.pwr.slot0.commit floor, slot1 := s.pwr.slot1.commit floor, floor, trial := false,
                            trialPending := false }
      .next (raiseEvent .pwr 0 0 (securityRec secTrialCommitted n (s.pwr.slot n).version floor { s with pwr := p }))
    else .next s

end Sys2Proof.Machine
end

