-- ==== Sys2Proof/Machine/Ports.lean ====
section
/-! DEFINITION. The ports: reception, links, PRP and HSR pairs, MACsec and MKA, port settings and counters, and TIMED_PUBLISH (05,
11). -/

namespace Sys2Proof.Machine

/-! ### Counters of Table 05-9 -/

def pRxFrames : Nat := 0
def pRxBytes : Nat := 1
def pRxErrors : Nat := 2
def pRxMacsecFail : Nat := 3
def pRxAdmission : Nat := 4
def pExcFull : Nat := 5
def pTransitions : Nat := 12
def pDup : Nat := 13
def pOutOfWindow : Nat := 14
def pWrongLan : Nat := 15
def pTagErrors : Nat := 16
def pLanDead : Nat := 17
def pHsrPassed : Nat := 18
def pHsrOwn : Nat := 19

/-- A PORT_EVENT record. Conditions: 1 link, 2 LAN dead, 3 and 4 a condition of Table 05-8 begins and ends. -/
def portEvent (p condition value : Nat) (s : State) : State := stageRec 0x22 0x7F (.portEvent p condition value) s

/-! ### Links and LANs (R207, R211, R217, R218) -/

/-- The members of a port's pair differ in MODE (R211). -/
def State.mismatch (s : State) (p : Nat) : Bool :=
  (s.pairOf p).isSome && s.portMode p != s.portMode (otherMember p)

/-- A pair member is declared dead (R217). -/
def declareDead (p : Nat) (s : State) : State :=
  if (s.pairOf p).isNone || (s.port p).lanDead then s
  else portEvent p 2 1 (bumpPort p pLanDead 1 (s.updPort p fun v => { v with lanDead := true }))

/-- The link goes up: MACsec has no association yet (Table 05-8). -/
def linkUp (p : Nat) (s : State) : State :=
  let s1 := s.updPort p fun v => { v with linkUp := true, lastRx := s.sck.now, txSa := none, txOld := none, rxChannels := [],
                                          livePeers := [] }
  let s2 := portEvent p 1 1 (bumpPort p pTransitions 1 s1)
  if s2.macsecOn p then addCond p 0 s2 else s2

/-- The link goes down: queued copies are discarded and a pair member is dead at once (R207, R217). -/
def linkDown (p : Nat) (s : State) : State :=
  let s1 := s.updPort p fun v => { v with linkUp := false }
  let s2 := portEvent p 1 0 (bumpPort p pTransitions 1 s1)
  declareDead p (loseAll pLinkDown (s2.fe.copies.filter fun c => c.port == p) s2)

/-- PORT_LINK_CHANGE (R207): a link comes up only on an enabled port whose pair agrees on its mode, and not while the module holds or is
in recovery (R647, R672). -/
def execPortLinkChange (port : Nat) (up : Bool) (s : State) : Host.Outcome State Fault Refusal :=
  onMain s <|
  if up = (s.port port).linkUp then .next s
  else if up then (if s.portOn port && !s.mismatch port && s.pwr.phase != 5 && s.pwr.phase != 6 then .next (linkUp port s) else .next s)
  else .next (linkDown port s)

/-- A port that is in no pair is no dead LAN. -/
def clearDead (p : Nat) (s : State) : State :=
  if (s.pairOf p).isNone then s.updPort p fun v => { v with lanDead := false } else s

/-- Hold a port's link down where it may not be up: the port is off, or its pair disagrees on the mode, which also declares the
member dead. -/
def holdLink (p : Nat) (s : State) : State :=
  let s1 := if (s.port p).linkUp && (!s.portOn p || s.mismatch p) then linkDown p s else s
  if s1.mismatch p then declareDead p s1 else s1

/-- The dead interval of a pair, ns. -/
def State.deadInterval (s : State) (i : Nat) : Nat := fieldOf (s.pairCfg i) 15 4 * 1000000

/-- The forget time of a pair, ns. -/
def State.forgetTime (s : State) (i : Nat) : Nat := fieldOf (s.pairCfg i) 25 16 * 1000000

/-- LAN_DEAD_TIMEOUT (R217). -/
def execLanDeadTimeout (port : Nat) (s : State) : Host.Outcome State Fault Refusal :=
  onMain s <|
  match s.pairOf port with
  | none => .next s
  | some (i, _) =>
    if (s.port port).lastRx + s.deadInterval i ≤ s.sck.now then .next (declareDead port s) else .next s

/-- A frame of any kind is received: a dead member is alive again (R218). -/
def heard (p : Nat) (s : State) : State :=
  let s1 := s.updPort p fun v => { v with lastRx := s.sck.now }
  if (s1.port p).lanDead && (s1.pairOf p).isSome && !s1.mismatch p then
    portEvent p 2 0 (s1.updPort p fun v => { v with lanDead := false })
  else s1

/-! ### Duplicate discard (R214, R215) -/

/-- Sources of a duplicate-discard table, nodes of a node table. -/
def dupSources : Nat := 8192
def nodeLimit : Nat := 1024

/-- The source whose last frame is oldest. -/
def oldestSource : Tbl DupSource → Option (Nat × Nat)
  | [] => none
  | (k, v) :: t =>
    match oldestSource t with
    | none => some (k, v.last)
    | some b => some (if v.last ≤ b.2 then (k, v.last) else b)

/-- Judge a tagged frame: 0 accepted, 1 a duplicate, 2 accepted out of window; with the table afterwards. -/
def judgeDup (src x now : Nat) (t : Tbl DupSource) : Nat × Tbl DupSource :=
  match Tbl.find? src t with
  | none =>
    let t' := if dupSources ≤ t.length then ((oldestSource t).map fun o => Tbl.del o.1 t).getD t else t
    (0, Tbl.put src { n := x, window := 1, last := now } t')
  | some v =>
    let back := (v.n + 65536 - x) % 65536
    let fwd := (x + 65536 - v.n) % 65536
    if back < 64 then
      if v.window.testBit back then (1, Tbl.put src { v with last := now } t)
      else (0, Tbl.put src { v with window := v.window ||| 2 ^ back, last := now } t)
    else if fwd ≤ 32767 then
      (0, Tbl.put src { n := x, window := (v.window * 2 ^ fwd + 1) % 2 ^ 64, last := now } t)
    else (2, Tbl.put src { n := x, window := 1, last := now } t)

/-- DUP_SOURCE_FORGET (R215): a source silent for the forget time is removed. -/
def execDupSourceForget (pair src : Nat) (s : State) : Host.Outcome State Fault Refusal :=
  onMain s <|
  let v := s.pair pair
  let old (t : Tbl DupSource) : Bool := (Tbl.find? src t).any fun d => decide (d.last + s.forgetTime pair ≤ s.sck.now)
  let drop (t : Tbl DupSource) : Tbl DupSource := if old t then Tbl.del src t else t
  .next (s.setPair pair { v with dup := drop v.dup, passed0 := drop v.passed0, passed1 := drop v.passed1 })

/-- Pass an HSR frame to the other member unless an exception of R219 applies. -/
def passThrough (i : Nat) (fr : Frame) (x : Nat) (s : State) : State :=
  if fr.dstMac = s.ownMac i then s
  else
    let v := s.pair i
    let j := judgeDup fr.srcMac x s.sck.now (if fr.port % 2 = 0 then v.passed0 else v.passed1)
    let s1 := s.setPair i (if fr.port % 2 = 0 then { v with passed0 := j.2 } else { v with passed1 := j.2 })
    if j.1 = 1 then s1
    else
      let s2 := bumpPort fr.port pHsrPassed 1 s1
      if (s2.port (otherMember fr.port)).linkUp then
        emit (.passed (otherMember fr.port) fr.srcMac x)
          (bumpPort (otherMember fr.port) pTxBytes (fr.len + tagBytes) (bumpPort (otherMember fr.port) pTxFrames 1 s2))
      else bumpPort (otherMember fr.port) pLinkDown 1 s2

/-- Judge a tagged frame of a pair: whether it is accepted. -/
def acceptTagged (i : Nat) (fr : Frame) (x : Nat) (s : State) : Bool × State :=
  let v := s.pair i
  let j := judgeDup fr.srcMac x s.sck.now v.dup
  let s1 := s.setPair i { v with dup := j.2 }
  if j.1 = 1 then (false, bumpPort fr.port pDup 1 s1)
  else (true, if j.1 = 2 then bumpPort fr.port pOutOfWindow 1 s1 else s1)

/-- A supervision frame enters its sender in the node table (Table 05-5). -/
def noteNode (i : Nat) (fr : Frame) (s : State) : State :=
  let v := s.pair i
  if fr.etherType = 0x88FB ∧ (v.nodes.length < nodeLimit ∨ Tbl.has v.nodes fr.srcMac = true) then
    s.setPair i { v with nodes := Tbl.put fr.srcMac s.sck.now v.nodes }
  else s

/-- What a pair does with a frame received (R212, R214, R216, R219): whether it goes on to matching. -/
def pairReceive (fr : Frame) (s : State) : Bool × State :=
  match s.pairOf fr.port with
  | none => (true, s)
  | some (i, kind) =>
    if kind = 2 then
      match fr.hsr with
      | none => (false, bumpPort fr.port pTagErrors 1 s)
      | some x =>
        if fr.srcMac = s.ownMac i then (false, bumpPort fr.port pHsrOwn 1 s)
        else
          let a := acceptTagged i fr x (passThrough i fr x s)
          (a.1, if a.1 then noteNode i fr a.2 else a.2)
    else
      match fr.prp with
      | none => (true, noteNode i fr s)
      | some (x, lan) =>
        let s1 := if lan = fr.port % 2 then s else bumpPort fr.port pWrongLan 1 s
        let a := acceptTagged i fr x s1
        (a.1, if a.1 then noteNode i fr a.2 else a.2)

/-! ### MACsec on receipt (R148, R161, R222, R225) -/

/-- Pads that a receive association keeps (R161). -/
def rxPads : Nat := 8

/-- IV of a packet number on a receive channel of a port. -/
def rxIv (s : State) (p channel : Nat) (a : RxSa) (pn : Nat) : Nat := macsecIv (s.portXpn p) channel a.ssci a.salt pn

/-- The pads of the packet numbers expected next: those held, the others computed. -/
def fillRx (iv : Nat → Nat) (a : RxSa) : RxSa :=
  { a with pads := (List.range rxPads).map fun i =>
      (a.nextPn + i, ((a.pads.find? fun x => x.1 == a.nextPn + i).map (·.2)).getD (padOf a.sak (iv (a.nextPn + i)))) }

/-- The association of a SecTAG. -/
def rxSaOf (v : Port) (t : SecTag) : Option RxSa := (Tbl.get [] v.rxChannels t.channel).find? fun a => a.an == t.an

/-- The ICV is right: GHASH over what is authenticated in clear and the protected data, with the pad held for the packet number, else with
one computed from it (R148, R163). -/
def icvOk (s : State) (p : Nat) (t : SecTag) (a : RxSa) : Bool :=
  let pad := ((a.pads.find? fun x => x.1 == t.pn).map (·.2)).getD (padOf a.sak (rxIv s p t.channel a t.pn))
  t.icv == tagFrom (hashKeyOf a.sak) pad (t.span ++ if t.encrypted then [] else t.body) (if t.encrypted then t.body else []) 16

/-- A frame of an association has been accepted: the next packet number expected moves on, and its pads with it. -/
def advanceSa (iv : RxSa → Nat → Nat) (t : SecTag) (v : Port) : Port :=
  let l := (Tbl.get [] v.rxChannels t.channel).map fun a =>
    if a.an = t.an ∧ a.nextPn ≤ t.pn then fillRx (iv a) { a with nextPn := t.pn + 1 } else a
  { v with rxChannels := Tbl.put t.channel l v.rxChannels }

/-- Validate a frame on a MACsec port, in Strict mode. Under a condition of Table 05-8 MACSEC_FAIL decides (R225). -/
def macsecReceive (fr : Frame) (s : State) : Bool × State :=
  let v := s.port fr.port
  let fail := (false, bumpPort fr.port pRxMacsecFail 1 s)
  if fr.etherType = 0x888E ∨ s.macsecOn fr.port = false then (true, s)
  else if v.conds.isEmpty = false then (if s.portFailOpen fr.port && fr.secTag.isNone then (true, s) else fail)
  else
    match fr.secTag with
    | none => fail
    | some t =>
      match rxSaOf v t with
      | none => fail
      | some a =>
        if icvOk s fr.port t a && decide (a.nextPn ≤ t.pn + v.replayWindow) then
          (true, s.updPort fr.port (advanceSa (rxIv s fr.port t.channel) t))
        else fail

/-! ### FRAME_RECEIVED (R140, R142, R195, R196, R202) -/

/-- An exception frame goes to its queue with its stamp and the quality byte of the stamp, or is discarded and counted (R196). -/
def exceptionFrame (fr : Frame) (s : State) : State :=
  let q := if fr.etherType = 0x888E then 12 else fr.port
  if qmFits s.ts q fr.len then qmPut q { len := fr.len, data := fr.data, stamp := fr.stamp, quality := (s.sck.at fr.stamp).1 } s
  else bumpPort fr.port pExcFull 1 s

/-- The frame is one for the cores: EAPOL, or PTP on a PTP-enabled port (R60, R196). -/
def forCores (fr : Frame) (s : State) : Bool :=
  fr.etherType == 0x888E || (fr.etherType == 0x88F7 && s.ptpOn fr.port)

/-- Bytes of a frame as received, with its MACsec and its redundancy trailer or tag (Table 05-2). -/
def lineLength (fr : Frame) : Nat :=
  fr.len + (if fr.secTag.isSome then macsecBytes else 0) + if fr.prp.isSome || fr.hsr.isSome then tagBytes else 0

/-- The shortest frame that is no runt, on the line. -/
def minFrame : Nat := 64

/-- A frame over the limit of R202, or a runt. -/
def badLength (fr : Frame) : Bool := decide (9216 < fr.len) || decide (lineLength fr < minFrame)

/-- The load offered leaves room for a frame of this rank: 0 for an exception frame, 1 + TRAFFIC_CLASS for a matched one (R195). -/
def admitted (fr : Frame) (rank : Nat) : Bool := decide (fr.overload ≤ rank)

/-- An exception frame that is admitted, the last of all (R195). -/
def admitException (fr : Frame) (s : State) : State :=
  if admitted fr 0 then exceptionFrame fr s else bumpPort fr.port pRxAdmission 1 s

/-- A frame that the port has accepted meets the plan (R60, R108, R195, R196). What its ingress stamp has reached takes effect first. -/
def admitFrame (fr : Frame) (ctrError : Bool) (s0 : State) : State :=
  let s := reachStamp fr.stamp s0
  if forCores fr s then admitException fr s
  else match findMatch fr s.pln.parts with
    | none => admitException fr s
    | some (f, n, e, old) =>
      if admitted fr (e.tclass + 1) then matchedFrame fr ctrError f n e old s else bumpPort fr.port pRxAdmission 1 s

/-- FRAME_RECEIVED (R140): port checks, MACsec, the pair's redundancy, admission, matching, and the entry's work or the exception
queue. `ctrError`: the counter set of the matched entry shows a memory error (R190). A frame with a good FCS counts in RX_FRAMES, one that
is discarded for its length too (Table 05-9). -/
def execFrameReceived (fr : Frame) (ctrError : Bool) (s : State) : Host.Outcome State Fault Refusal :=
  onMain s <|
  if s.portOn fr.port = false ∨ (s.port fr.port).linkUp = false then .next s
  else
    let s0 := heard fr.port s
    if fr.fcsOk = false then .next (bumpPort fr.port pRxErrors 1 s0)
    else
      let s1 := bumpPort fr.port pRxBytes (lineLength fr) (bumpPort fr.port pRxFrames 1 s0)
      if badLength fr then .next (bumpPort fr.port pRxErrors 1 s1)
      else if s1.fe.forwarding = false then .next (bumpPort fr.port pRxAdmission 1 s1)
      else
        let m := macsecReceive fr s1
        if m.1 = false then .next m.2
        else
          let r := pairReceive fr m.2
          .next (if r.1 then admitFrame fr ctrError r.2 else r.2)

/-! ### Supervision (R211, R213) -/

/-- Send a pair's supervision frames, of its own address (R199, R213). -/
def sendSupervision (i : Nat) (s : State) : State :=
  if s.pairKind i = 0 then s else sendPair i 6 (.supervision (s.ownMac i)) s

/-- SUPERVISION_SEND: on each PRP or HSR pair. -/
def execSupervisionSend (s : State) : Host.Outcome State Fault Refusal :=
  onMain s <|
  .next (sendSupervision 3 (sendSupervision 2 (sendSupervision 1 (sendSupervision 0 s))))

/-! ### MKA (R221 to R226) -/

/-- A condition of Table 05-8 ends, with its event record. -/
def endConds (p : Nat) : List Nat → State → State
  | [], s => s
  | c :: t, s => endConds p t (portEvent p 4 c (s.updPort p fun v => { v with conds := v.conds.filter (· != c) }))

/-- Receive channels of a new SAK: at most four, each with the new association and the pads of its first packet numbers, and the one
before it. -/
def newChannels (xpn : Bool) (sak : Bytes) (salt : Nat) (old : Tbl (List RxSa)) : List MkaPeer → Tbl (List RxSa)
  | [] => []
  | x :: t =>
    let a : RxSa := { an := x.an, nextPn := 1, sak, ssci := x.ssci, salt }
    Tbl.put x.channel (fillRx (macsecIv xpn x.channel x.ssci salt) a :: ((Tbl.get [] old x.channel).filter fun b => b.an != x.an).take 1)
      (newChannels xpn sak salt old t)

/-- A SAK is installed: new associations, with the pads of their first packet numbers (R165); every condition of the port ends. After a
change of CAK the new channels replace the old ones (R224). -/
def installSak (p : Nat) (m : MkaSak) (sak : Bytes) (replace : Bool) (s : State) : State :=
  let pad := padOf sak (macsecIv (s.portXpn p) (s.sci p) m.ssci m.salt 1)
  let s1 := s.updPort p fun v =>
    { v with txOld := if replace then none else v.txSa, txSa := some { an := m.an, nextPn := 1, sak, ssci := m.ssci, salt := m.salt, pad },
             rxChannels := newChannels (s.portXpn p) sak m.salt (if replace then [] else v.rxChannels) (m.peers.take 4),
             sakRequested := false }
  endConds p (s1.port p).conds s1

/-- The CAK of a port can be used: loaded, of its kind and usage (R224). -/
def cakUsable (s : State) (h : Nat) : Bool :=
  (s.key? h).any fun k => k.blob.attr.kind == 0x30 && k.blob.attr.usage.testBit useMka && !k.faulted

/-- The SAK of an exchange: drawn by the module where it is key server and sent under AES Key Wrap, else unwrapped under the KEK
(Table 05-7). -/
def exchangeSak (p : Nat) (server : Bool) (kek : Bytes) (m : MkaSak) (s : State) : Option (Bytes × State) :=
  if server then
    if s.rnu.st = .ready then
      let b := draw 32 s
      some (b.1, sendPort p 6 (.mkpdu (some (m.an, keyWrap kek b.1))) b.2)
    else none
  else (keyUnwrap kek m.wrapped).map fun k => (k, s)

/-- MKA_EXCHANGE (R224): a core processes an MKA PDU of a port whose ICV is right under the ICK. A waiting change of CAK takes effect; no
SAK is installed at Restrict or higher (R225), and a key server makes one only while the random number unit is READY. DESIGN CHOICE: the
channels of the former CAK are replaced by those of the exchange in which the change takes effect; where it brings no SAK they go on until
the next SAK. -/
def execMkaExchange (port : Nat) (pdu : MkaPdu) (s : State) : Host.Outcome State Fault Refusal :=
  onMain s <|
  let v := s.port port
  let cak := v.cakNext.getD v.cak
  if s.macsecOn port = false ∨ v.linkUp = false ∨ cakUsable s cak = false then .next s
  else match s.key? cak with
    | none => .next s
    | some k =>
      if pdu.icv ≠ cmac k.work.ick pdu.body then .next s
      else
        let s1 := s.updPort port fun v =>
          { v with cak, cakNext := none, keyServer := pdu.server, livePeers := pdu.peers, lastMkpdu := s.sck.now }
        match pdu.sak with
        | none => .next s1
        | some m =>
          if 1 ≤ s1.level then .next s1
          else match exchangeSak port pdu.server k.work.kek m s1 with
            | none => .next s1
            | some (sak, s2) => .next (installSak port m sak (v.cakNext.isSome && v.cak != cak) s2)

/-- MKA_HELLO (R224): the hello time of 2 s has passed and the port sends an MKPDU. -/
def execMkaHello (port : Nat) (s : State) : Host.Outcome State Fault Refusal :=
  onMain s <|
  let v := s.port port
  if s.macsecOn port && v.linkUp && cakUsable s (v.cakNext.getD v.cak) && decide (v.lastHello + 2000000000 ≤ s.sck.now) then
    .next (sendPort port 6 (.mkpdu none) (s.updPort port fun v => { v with lastHello := s.sck.now }))
  else .next s

/-- MKA_LIFE_EXPIRY (R225): no MKPDU for the life time of 6 s; the live peer list is empty. -/
def execMkaLifeExpiry (port : Nat) (s : State) : Host.Outcome State Fault Refusal :=
  onMain s <|
  let v := s.port port
  if s.macsecOn port && v.linkUp && !v.livePeers.isEmpty && decide (v.lastMkpdu + 6000000000 ≤ s.sck.now) then
    .next (addCond port 1 (s.updPort port fun v => { v with livePeers := [] }))
  else .next s

/-- PN_EXHAUSTED (R223): the last packet number has been used and no new association is installed. -/
def execPnExhausted (port : Nat) (s : State) : Host.Outcome State Fault Refusal :=
  onMain s <|
  if s.macsecOn port && (s.port port).txSa.any (fun x => decide (lastPn (s.portXpn port) < x.nextPn)) then .next (addCond port 4 s)
  else .next s

/-! ### Port-MACsec settings (Table 11-20) -/

/-- MKA_SECURED: a SAK is installed and no condition of Table 05-8 holds. -/
def State.secured (s : State) (p : Nat) : Bool := s.macsecOn p && (s.port p).txSa.isSome && (s.port p).conds.isEmpty

/-- The port is an HSR member. -/
def State.hsrMember (s : State) (p : Nat) : Bool := (s.pairOf p).any fun x => x.2 == 2

/-- PORT_MACSEC_SET. -/
def execPortMacsecSet (q : Call) (port priority replay cak : Nat) (s : State) : Host.Outcome State Fault Refusal :=
  .next (runOp 0x0B02 q 0 s fun s =>
    let set (s : State) : OpOut :=
      if s.portAbsent port || s.hsrMember port || decide (255 < priority) || decide (65535 < replay) then .done (reject 0) s
      else .done (okDetail 0) (s.updPort port fun v =>
        { v with keyServerPrio := priority, replayWindow := replay, cakNext := if cak = v.cak then none else some cak })
    if cak = 0 then set s else withKey 0 cak [0x30] useMka s fun _ => set s)

/-- PORT_MACSEC_GET. -/
def execPortMacsecGet (q : Call) (port : Nat) (s : State) : Host.Outcome State Fault Refusal :=
  .next (runOp 0x0B03 q 16 s fun s =>
    if s.portAbsent port then .done (reject 0) s
    else
      let v := s.port port
      .done (okOut 0 (leBytes 1 port ++ leBytes 1 v.keyServerPrio ++ leBytes 2 0 ++ leBytes 4 v.replayWindow
        ++ leBytes 4 (v.cakNext.getD v.cak) ++ leBytes 1 (b2n v.keyServer + 2 * b2n (s.secured port)) ++ leBytes 3 0)) s)

/-! ### Port and pair settings (R200, R211) -/

/-- Key of FE_PORT_CFG and FE_PAIR_CFG. -/
def portKey (p : Nat) : Nat := regKey 0 (0x2300 + 4 * p)
def pairKey (i : Nat) : Nat := regKey 0 (0x2340 + 4 * i)

/-- A mode may not be set: P_p of R121 over the active and armed plans would exceed the port's rate in it (R200). -/
def modeRefused (s : State) (p mode : Nat) : Bool :=
  let sets := (s.pln.parts.map fun x => x.2.active.toList) :: ((laterInstants 0 s.pln.parts).map fun t =>
    s.pln.parts.map fun x => contributes t x.2)
  sets.any fun l => decide (budgetRate s p mode < sumLoad (portLoad p) l.flatten)

/-- The fields of a write to FE_PORT_CFG that take effect over the value `old`, without MODE_REFUSED (R200). -/
def portFields (s : State) (p old value : Nat) : Nat :=
  let v1 := setField (setField old 0 0 value) 9 7 (fieldOf value 9 7)
  if bitOf old 0 then v1
  else
    let v2 := setField v1 6 4 (fieldOf value 6 4)
    if p < 4 ∨ modeRefused s p (fieldOf value 3 1) = true then v2 else setField v2 3 1 (fieldOf value 3 1)

/-- A write of MODE over the value `old` is refused. -/
def refusesMode (s : State) (p old value : Nat) : Bool :=
  decide (4 ≤ p) && !bitOf old 0 && fieldOf value 3 1 != fieldOf old 3 1 && modeRefused s p (fieldOf value 3 1)

/-- PORT_CFG_WRITE (R200): a mode code that the port does not have makes the write void; a refused MODE sets MODE_REFUSED; the rest waits to be
stored. What may change is judged on the value that the writes before it will have left, and again when it takes effect. -/
def execPortCfgWrite (port value : Nat) (s : State) : Host.Outcome State Fault Refusal :=
  viaBar 0 s <|
  let mode := fieldOf value 3 1
  if s.portAbsent port ∨ (4 ≤ port ∧ (mode = 0 ∨ 3 < mode)) then .next s
  else
    let old := s.soon (portKey port) (s.portCfg port)
    let flag := if refusesMode s port old value then 1 else if bitOf value 10 then 0 else fieldOf (s.portCfg port) 10 10
    .next (queueWrite (portKey port) (setField (portFields s port old value) 10 10 0)
      { s with rw := Tbl.put (portKey port) (setField (s.portCfg port) 10 10 flag) s.rw })

/-- A stored FE_PORT_CFG takes effect, as far as R200 allows it now. -/
def applyPortCfg (p value : Nat) (s : State) : State :=
  let old := s.portCfg p
  let flag := if refusesMode s p old value then 1 else fieldOf old 10 10
  let s1 := { s with rw := Tbl.put (portKey p) (setField (portFields s p old value) 10 10 flag) s.rw }
  holdLink (otherMember p) (holdLink p s1)

/-- A change of a pair's KIND takes effect: it clears the pair's tables (R211). -/
def setKind (i kind : Nat) (s : State) : State :=
  let s1 := { s with rw := Tbl.put (pairKey i) (setField (s.pairCfg i) 1 0 kind) s.rw }
  let s2 := s1.setPair i { s1.pair i with dup := [], nodes := [], passed0 := [], passed1 := [] }
  holdLink (5 + 2 * i) (holdLink (4 + 2 * i) (clearDead (5 + 2 * i) (clearDead (4 + 2 * i) s2)))

/-- PAIR_CFG_WRITE (R211): a value out of range makes the write void; one that would change KIND while a member is enabled is
ignored as a whole with KIND_REFUSED. A change of KIND takes effect at once, the intervals once they are stored. -/
def execPairCfgWrite (pair value : Nat) (s : State) : Host.Outcome State Fault Refusal :=
  viaBar 0 s <|
  let old := s.pairCfg pair
  let kind := fieldOf value 1 0
  let dead := fieldOf value 15 4
  let forget := fieldOf value 25 16
  if 3 < pair ∨ kind = 3 ∨ dead < 10 ∨ 4000 < dead ∨ forget < 10 ∨ 1000 < forget then .next s
  else
    let change := kind != s.pairKind pair
    let enabled := bitOf (s.portCfg (4 + 2 * pair)) 0 || bitOf (s.portCfg (5 + 2 * pair)) 0
    if change && enabled then .next { s with rw := Tbl.put (pairKey pair) (setField old 2 2 1) s.rw }
    else
      let flag := if bitOf value 2 then 0 else fieldOf old 2 2
      let s1 := { s with rw := Tbl.put (pairKey pair) (setField old 2 2 flag) s.rw }
      .next (queueWrite (pairKey pair) (kind + 16 * dead + 65536 * forget) (if change then setKind pair kind s1 else s1))

/-- A stored FE_PAIR_CFG: its intervals take effect; its KIND did so at the write. -/
def applyPairCfg (i value : Nat) (s : State) : State :=
  let v := setField (setField (s.pairCfg i) 15 4 (fieldOf value 15 4)) 25 16 (fieldOf value 25 16)
  { s with rw := Tbl.put (pairKey i) v s.rw }

/-! ### Counter latches (R191, R232, R696) -/

/-- STREAM_COUNTER_LATCH (R191): FE_STREAM_CTR_SEL is written with LATCH and the set is latched at one tick. `error`: the set
shows a memory error (R190). -/
def execStreamCounterLatch (f entry : Nat) (error : Bool) (s : State) : Host.Outcome State Fault Refusal :=
  viaBar f s <|
  let n := entry % 131072
  let owned := (s.part? f).any fun p => decide (p.base ≤ n) && decide (n < p.base + p.size)
  let s1 := if error && owned then counterError n false s else s
  let used := owned && (s1.entryAt n false).isSome
  let l : CtrLatch := { entry := n, valid := true, notOwned := !owned, unused := owned && !used,
                        lost := used && (s1.rt n false).continuityLost,
                        data := if used then fourteen (s1.rt n false).counters else [] }
  .next { s1 with fe := { s1.fe with latch := Tbl.put f l s1.fe.latch } }

/-- Counter i of a port as Table 05-9 shows it: pair counters are those of the whole pair and zero outside one. -/
def portCounter (s : State) (p i : Nat) : Nat :=
  let c (j : Nat) : Nat := ctrAt j (s.port p).counters
  if i < 13 then c i
  else if (s.pairOf p).isNone then 0
  else
    let both (j : Nat) : Nat := satTo max64 (c j + ctrAt j (s.port (otherMember p)).counters)
    if i = 18 then both 18 % 2 ^ 48 + 2 ^ 48 * satTo 0xFFFF (both 19) else both i

/-- PORT_COUNTER_LATCH (R232): ports 12 to 15 latch zero. -/
def execPortCounterLatch (port : Nat) (s : State) : Host.Outcome State Fault Refusal :=
  viaBar 0 s <|
  let p := port % 16
  let l : CtrLatch := { entry := p, valid := true, data := if p < 12 then (List.range 19).map (portCounter s p) else [] }
  .next { s with fe := { s.fe with portLatch := l } }

/-! ### TIMED_PUBLISH (R490, R491) -/

/-- The entry refuses the publication (R491). -/
def publishRefused (e : Entry) (port len : Nat) (fr : Frame) : Bool :=
  !(e.kind == 1 || e.kind == 2 || e.kind == 7) || (e.profile != 0 && !entryGenerates e) || !e.ingress.testBit port
    || !entryMatches e fr || decide (e.maxLen < len)

/-- TIMED_PUBLISH (R490): the frame is injected into the pipeline of PORT at its due tick; it completes once its copies have
ended. The frame's stamp and length are those of the injection. -/
def execTimedPublish (q : Call) (entry port : Nat) (frame : Frame) (s : State) : Host.Outcome State Fault Refusal :=
  .next (runOp 0x0802 q 8 s fun s =>
    let n := q.hdr.inLen
    let fr := { frame with port, stamp := s.sck.now, len := n }
    if s.fe.frames.any (fun x => x.pub.any fun p => p.1 == q) then .running s
    else match s.entryAt entry false with
      | none => .done (reject 0) s
      | some (f, e) =>
        if f ≠ q.f ∨ n < 64 ∨ 9216 < n ∨ 11 < port ∨ publishRefused e port n fr = true then .done (reject 0) s
        else .running (processFrame { f, n := entry, e, old := false, port, stamp := s.sck.now, quality := s.quality, fr,
                                      pub := some (q, s.ctxIdFor q) } s))

end Sys2Proof.Machine
end

