-- ==== Sys2Proof/Machine/Vf.lean ====
section
/-! DEFINITION. Virtual functions: set-up, function-level reset, warm host reset, migration; IDE and the link (10, 12). -/

namespace Sys2Proof.Machine

/-! ### VF_SETUP (R495 to R497) -/

/-- Sum of a quota over the VFs other than `f`. -/
def vfSum (q : Func → Nat) (f : Nat) (s : State) : Nat :=
  ((List.range 64).filter fun g => g != 0 && g != f).foldl (fun n g => n + q (s.func g)) 0

/-- A copy names a port outside a scope. -/
def copyLeaves (scope : Nat) (c : PlanCopy) : Bool := c.entries.any fun x => (scopeFault scope x.2).isSome

/-- Entries of a ring that is enabled or draining at or above an index. -/
def ringAbove (f rings : Nat) (s : State) : Bool :=
  s.hif.rings.any fun x => x.1 / 64 == f && decide (rings ≤ x.1 % 64) && x.2.active

/-- The first failing check of Table 12-2: status and DETAIL. -/
def setupFault (f rings scope ctxs slots delays : Nat) (s : State) : Option (Nat × Nat) :=
  let slotSum := vfSum (·.keyQuota) f s + slots
  let delaySum := vfSum (·.delayQuota) f s + delays
  let leaves := (s.part? f).any fun p =>
    p.active.any (copyLeaves scope) || (p.standby == .armed && p.held.any (copyLeaves scope))
  if f = 0 ∨ 63 < f then some (stInputRejected, 7)
  else if 64 < rings then some (stInputRejected, 1)
  else if ringAbove f rings s then some (stRefusedFull, 1)
  else if 31744 < ctxs then some (stInputRejected, 2)
  else if 31744 < vfSum (·.ctxQuota) f s + ctxs then some (stRefusedFull, 2)
  else if 15360 < slots then some (stInputRejected, 3)
  else if 15360 < slotSum ∨ slots < s.slotsUsed f ∨ 16384 - slotSum < s.slotsUsed 0 then some (stRefusedFull, 3)
  else if 253952 < delays then some (stInputRejected, 4)
  else if 253952 < delaySum ∨ delays < s.delayUsed f ∨ 262144 - delaySum < s.delayUsed 0 then some (stRefusedFull, 4)
  else if leaves then some (stInputRejected, 5)
  else if (s.func f).migration ≠ .normal then some (stInputRejected, 6)
  else none

/-- The PF holds what the VFs do not (R495). -/
def pfShare (s : State) : State :=
  s.updFunc 0 fun v => { v with ctxQuota := 32768 - vfSum (·.ctxQuota) 0 s, keyQuota := 16384 - vfSum (·.keyQuota) 0 s,
                                delayQuota := 262144 - vfSum (·.delayQuota) 0 s }

/-- VF_SETUP (R496): all five settings of a VF at once, or nothing. -/
def execVfSetup (q : Call) (fn rings scope ctxs slots delays : Nat) (s : State) : Host.Outcome State Fault Refusal :=
  .next (runOp 0x0C01 q 0 s fun s =>
    match setupFault fn rings scope ctxs slots delays s with
    | some (code, d) => .done { code, detail := d } s
    | none =>
      .done (okDetail 0) (pfShare (s.updFunc fn fun v =>
        { v with setUp := true, ringsAllotted := rings, portScope := scope, ctxQuota := ctxs, keyQuota := slots,
                 delayQuota := delays })))

/-! ### What a reset of the host side clears (R452, R454, R461) -/

/-- A function's host side at its reset values; a halt with cause PF_HALTED, and the PF's own, persist where `keepHalt`. -/
def Func.hostReset (keepHalt : Bool) (v : Func) : Func :=
  let w := { v.portIdle with bme := false, d3hot := false, msix := {}, dpProtocol := false, split := [], heldWrites := [],
                             freezing := false, migration := .normal }
  if keepHalt then w else { w with halted := false, haltCause := 0, haltRing := 0, haltOpcode := 0, haltCount := 0 }

/-- Completions among the held writes of a function (R455). -/
def heldStatuses (l : List Out) : Nat :=
  (l.filter fun o => match o with
    | .status .. => true
    | _ => false).length

/-- Rings, host registers and event registers of a function at their reset values. -/
def resetHostSide (f : Nat) (keepHalt : Bool) (s : State) : State :=
  let s1 := s.updFunc f (Func.hostReset keepHalt)
  { s1 with hif := { s1.hif with rings := Tbl.keep (fun k _ => k / 64 != f) s1.hif.rings },
            ev := Tbl.del (evKey .hif f) s1.ev, rw := Tbl.del (regKey f 0x44) s1.rw }

/-- A freeze or a restored state ends other than by VF_THAW: FREEZE_ENDED (R507). -/
def endFreeze (f : Nat) (s : State) : State :=
  if (s.func f).migration = .normal then s else raiseEvent .vf 0 1 s

/-- Take a context away without delivering its completion; it is counted as discarded in the way `orphan` says. -/
def discardCtx (orphan : Nat) (c : Ctx) (s : State) : State :=
  let s1 := if (s.func c.f).dpCtx = some c.id then leaveTransfer c.hdr.opcode c.f s else s
  finishCtx { c with orphan } (bare stSquashed) (leaveCore c.id s1)

/-! ### Warm host reset (R452, R453) -/

/-- A VF_FREEZE that has not completed: it ends with the host side of its VF (R506). -/
def Ctx.freezing (c : Ctx) : Bool := c.hdr.opcode == 0x0C02 && c.phase != .staged

/-- One accepted entry at a warm host reset (R453, Table 12-7). -/
def warmCtx (c : Ctx) (s : State) : State :=
  if c.orphan ≠ 0 then s
  else if c.lifted then discardCtx 2 c s
  else if c.needsHost ∨ c.dataPort ∨ c.freezing then discardCtx 1 c s
  else s.setCtx { c with orphan := 1 }

/-- Every accepted entry. -/
def warmCtxs : List Ctx → State → State
  | [], s => s
  | c :: t, s => warmCtxs t (warmCtx c s)

/-- The functions below `n`: completions held for their host memory are discarded, their host side is reset, and a VF ceases
to exist with the SR-IOV settings. -/
def warmFuncs : Nat → State → State
  | 0, s => s
  | n + 1, s =>
    let s1 := endFreeze n (warmFuncs n s)
    let v := s1.func n
    let s2 := { s1 with hif := { s1.hif with discardCount := satTo max32 (s1.hif.discardCount + heldStatuses v.heldWrites) } }
    let keep := v.halted && (n == 0 || v.haltCause == 0x10)
    let s3 := resetHostSide n keep s2
    if n = 0 then s3 else s3.updFunc n fun v => { v with present := false }

/-- The IDE streams and the SPDM session end with the link. -/
def dropLink (s : State) : State :=
  { s with hif := { s.hif with linkUp := false, linkSecure := false, selectiveSecure := 0, spdmSession := false } }

/-- WARM_HOST_RESET (R452, R453): the host interface alone is reset. `perst`: PERST_N is asserted; else a hot reset or
DL_Down. -/
def execWarmHostReset (perst : Bool) (s : State) : Host.Outcome State Fault Refusal :=
  let s1 := if s.running then warmFuncs 64 (warmCtxs s.hif.ctxs s) else s
  let s2 := dropLink s1
  .next { s2 with io := { s2.io with perst := s2.io.perst || perst } }

/-- PERST_N_DEASSERT (R665): PERST_N is released, and the link trains and comes up once the module's start has opened the host
interface. -/
def execPerstNDeassert (s : State) : Host.Outcome State Fault Refusal :=
  let up := s.running && decide (2 ≤ s.pwr.phase)
  .next { s with io := { s.io with perst := false }, hif := { s.hif with linkUp := s.hif.linkUp || up } }

/-! ### Function-level reset (R503 to R506, R498) -/

/-- Operations that are drained at an FLR once dispatched (Table 12-4). -/
def drained (op : Nat) : Bool :=
  [0x0101, 0x0102, 0x0103, 0x0105, 0x0106, 0x0107, 0x0108, 0x010B, 0x0602, 0x0603, 0x0604, 0x030B, 0x030C, 0x0702, 0x0609,
   0x0802].contains op

/-- An engine's operation that an FLR of the function ends. One that Table 12-4 drains runs on (DEDUCED: the row of drained operations is
the narrower). -/
def flrEnds (f : Nat) (x : PkeOp) : Bool := x.call.f == f && !drained x.call.hdr.opcode

/-- An engine at an FLR of a function: its running operation is aborted, its queued one removed. -/
def flrEngine (f : Nat) (e : Engine) : Engine :=
  let e1 := if e.next.any (flrEnds f) then { e with next := none } else e
  if e1.op.any (flrEnds f) && e1.phase != .aborted then e1.abort else e1

/-- One accepted entry of a VF at its FLR (Table 12-4). -/
def flrCtx (f : Nat) (c : Ctx) (s : State) : State :=
  if c.f ≠ f ∨ c.orphan ≠ 0 then s
  else if (c.phase = .dispatched ∨ c.phase = .staged) ∧ drained c.hdr.opcode = true then s.setCtx { c with orphan := 2 }
  else discardCtx 2 c s

/-- Every accepted entry of a VF. -/
def flrCtxs (f : Nat) : List Ctx → State → State
  | [], s => s
  | c :: t, s => flrCtxs f t (flrCtx f c s)

/-- An unfinished VF_FREEZE, VF_SAVE or VF_RESTORE whose body names the VF (Tables 11-51 to 11-53). -/
def Ctx.naming (f : Nat) (c : Ctx) : Bool :=
  c.orphan == 0 && c.phase != .staged && decide (0x0C02 ≤ c.hdr.opcode ∧ c.hdr.opcode ≤ 0x0C04) && leAt c.slots 64 1 == f

/-- The migration operations that name the VF end ABORTED (R506). -/
def abortNaming (f : Nat) : List Ctx → State → State
  | [], s => s
  | c :: t, s =>
    let s1 := if c.naming f then
        if (s.func c.f).dpCtx = some c.id then leaveCore c.id (abortPort c.f false s)
        else finishCtx c (bare stAborted) (leaveCore c.id s)
      else s
    abortNaming f t s1

/-- The FLR of a VF, without its report. -/
def flrCore (f : Nat) (s : State) : State :=
  let s1 := abortNaming f s.hif.ctxs s
  let s2 := { s1 with pke := { s1.pke with engines := Tbl.mapAll (fun _ e => flrEngine f e) s1.pke.engines } }
  let s3 := endFreeze f (flrCtxs f s2.hif.ctxs s2)
  let n := heldStatuses (s3.func f).heldWrites
  let s4 := resetHostSide f false (s3.updFunc f fun v => { v with discards := satTo max32 (v.discards + n) })
  { s4 with ev := Tbl.del (evKey .key f) (Tbl.del (evKey .fe f) s4.ev),
            fe := { s4.fe with latch := Tbl.del f s4.fe.latch },
            tls := { s4.tls with sessions := Tbl.keep (fun _ v => v.f != f) s4.tls.sessions } }

/-- FLR (R503): a VF's function-level reset, to its report. -/
def execFlr (f : Nat) (s : State) : Host.Outcome State Fault Refusal :=
  onMain s <|
  if 1 ≤ f ∧ f < 64 ∧ (s.func f).present then .next (raiseEvent .vf 0 0 (flrCore f s)) else .next s

/-- VFs cease to exist (R498). -/
def removeVfs : List Nat → State → State
  | [], s => s
  | f :: t, s =>
    removeVfs t (if 1 ≤ f ∧ f < 64 ∧ (s.func f).present then
      (flrCore f s).updFunc f fun v => { v with present := false }
    else s)

/-- VF_REMOVAL (R498): VF Enable is cleared or NumVFs lowered; each VF that ceases to exist is handled as for an FLR. -/
def execVfRemoval (fns : List Nat) (s : State) : Host.Outcome State Fault Refusal :=
  onMain s <| .next (removeVfs fns s)

/-! ### Freezing (R508, R509) -/

/-- An accepted entry of the VF that has not been dispatched and is on no delay list. -/
def undispatched (f : Nat) (c : Ctx) : Bool :=
  c.f == f && c.orphan == 0 && (c.phase == .queued || c.phase == .held)

/-- A dispatched entry of the VF that has not finished. -/
def underWay (f : Nat) (s : State) : Bool :=
  s.hif.ctxs.any fun c => c.f == f && c.orphan == 0 && (c.phase == .dispatched || c.phase == .staged)

/-- Lift a VF's entries off the delay lists (step 4). -/
def liftAll (f : Nat) : List Ctx → State → State
  | [], s => s
  | c :: t, s =>
    liftAll f t (if c.f = f ∧ c.orphan = 0 ∧ c.phase = .delayed then
      let ts := { s.ts with delay0 := dropDelay c.id s.ts.delay0, delay1 := dropDelay c.id s.ts.delay1,
                            delay2 := dropDelay c.id s.ts.delay2, delay3 := dropDelay c.id s.ts.delay3 }
      State.setCtx { c with lifted := true } { s with ts }
    else s)

/-- Squash the entries not yet dispatched (step 2). -/
def squashWaiting (f : Nat) : List Ctx → State → State
  | [], s => s
  | c :: t, s => squashWaiting f t (if undispatched f c then finishCtx c (bare stSquashed) (leaveCore c.id s) else s)

/-- Steps 1 to 4 of R508. -/
def beginFreeze (f : Nat) (s : State) : State :=
  let s1 := squashWaiting f s.hif.ctxs (s.updFunc f fun v => { v with freezing := true })
  let s2 := abortPort f false s1
  liftAll f s2.hif.ctxs s2

/-- Lifted entries of a VF. -/
def liftedOf (f : Nat) (s : State) : List Ctx := s.hif.ctxs.filter fun c => c.f == f && c.lifted

/-- VF_FREEZE (R508). The operation waits while dispatched entries of the VF run, and completes when performed after their
end. -/
def execVfFreeze (q : Call) (fn : Nat) (s : State) : Host.Outcome State Fault Refusal :=
  .next (runOp 0x0C02 q 0 s fun s =>
    let v := s.func fn
    if fn = 0 ∨ 63 < fn ∨ v.migration ≠ .normal ∨ v.setUp = false ∨ (v.halted = true ∧ v.freezing = false) then .done (reject 0) s
    else
      let s1 := if v.freezing then s else beginFreeze fn s
      if underWay fn s1 then .running s1
      else
        .done (okDetail (liftedOf fn s1).length)
          (s1.updFunc fn fun v => { v with freezing := false, migration := .frozen }))

/-! ### Saving (R510 to R513) -/

/-- Loaded keys of a domain. -/
def domainKeys (f : Nat) (s : State) : List LoadedKey := (s.key.keys.filter fun x => handleFn x.1 == f).map (·.2)

/-- Rings of a function that are enabled or draining. -/
def activeRings (f : Nat) (s : State) : List (Nat × Ring) :=
  (s.hif.rings.filter fun x => x.1 / 64 == f && x.2.active).map fun x => (x.1 % 64, x.2)

/-- Open reservations of a domain. -/
def openRes (f : Nat) (s : State) : List Reservation := (s.dom f).reservations.filter fun r => r.bound.isNone

/-- A handle is named by a GENERATE entry of the partition's active or standby copy (R512). -/
def generates (f h : Nat) (s : State) : Bool :=
  (s.part? f).any fun p => (entriesOf p.active ++ entriesOf p.held).any fun x =>
    entryGenerates x.2 && (entryHandles x.2).any fun y => y.2 == h

/-- GEN_NEXT of a handle: 0 where it has never generated (R512). -/
def genNextOf (h : Nat) (s : State) : Nat := ((Tbl.find? h s.key.gens).map nextBlock).getD 0

/-- The record of a loaded key; a migratable one with its blob under the migration key (R333). -/
def saveKey (mkId : Nat) (mk : Bytes) (k : LoadedKey) (s : State) : SavedKey × State :=
  let h := k.blob.handle
  let x : SavedKey := { handle := h, inVault := Tbl.has s.key.vault h, generating := generates (handleFn h) h s,
                        genNext := genNextOf h s }
  if k.blob.attr.migratable then
    let iv := draw 12 s
    ({ x with blob := some (sealUnder mk 2 h mkId (beNat iv.1) k.blob.attr k.material) }, iv.2)
  else (x, s)

/-- The records of the loaded keys. -/
def saveKeys (mkId : Nat) (mk : Bytes) : List LoadedKey → State → List SavedKey × State
  | [], s => ([], s)
  | k :: t, s =>
    let a := saveKey mkId mk k s
    let r := saveKeys mkId mk t a.2
    (a.1 :: r.1, r.2)

/-- The record of a ring. -/
def saveRing (x : Nat × Ring) : SavedRing :=
  { index := x.1, draining := x.2.draining, cfg := x.2.cfgWord, mod := x.2.modWord, d := x.2.d, h := x.2.h, f := x.2.f,
    base := x.2.base, mirror := x.2.mirror }

/-- The record of a lifted entry. -/
def saveEntry (c : Ctx) : SavedEntry :=
  { ring := c.ring, count := c.count, slots := c.slots, input := c.input }

/-- The header and the body of a lifted entry. -/
def SavedEntry.hdr (e : SavedEntry) : Header := entryHeader e.slots
def SavedEntry.angle (e : SavedEntry) : Option Nat := entryAngle e.hdr (e.slots.drop 64)

/-! The bytes of the records of Table 12-9. -/
def SavedRing.bytes (r : SavedRing) : Bytes :=
  leBytes 1 r.index ++ leBytes 1 (b2n r.draining) ++ leBytes 2 0 ++ leBytes 4 r.cfg ++ leBytes 4 r.mod ++ leBytes 4 r.d
    ++ leBytes 4 r.h ++ leBytes 4 r.f ++ leBytes 8 r.base ++ leBytes 8 r.mirror ++ leBytes 24 0
def SavedKey.bytes (k : SavedKey) : Bytes :=
  leBytes 4 k.handle ++ leBytes 2 (b2n k.blob.isSome + 2 * b2n k.inVault + 4 * b2n k.generating)
    ++ leBytes 2 ((k.blob.map (·.len)).getD 0) ++ leBytes 4 k.genNext ++ leBytes 4 0 ++ (k.blob.map blobBytes).getD []
def reservationBytes (r : Reservation) : Bytes :=
  leBytes 4 r.handle ++ leBytes 1 r.kind ++ leBytes 1 (b2n r.vault) ++ leBytes 2 0 ++ leBytes 4 r.usage ++ leBytes 4 r.ident
    ++ leBytes 4 r.group ++ leBytes 12 0
def SavedEntry.bytes (e : SavedEntry) : Bytes :=
  leBytes 1 e.ring ++ leBytes 3 0 ++ leBytes 4 e.count ++ leBytes 4 e.input.length ++ leBytes 4 0 ++ e.slots
    ++ fitBytes ((e.input.length + 15) / 16 * 16) e.input

/-- The sections before they are sealed (Table 12-9). -/
def SaveImage.sections (i : SaveImage) : Bytes :=
  (i.rings.map (·.bytes)).flatten ++ (i.keys.map (·.bytes)).flatten ++ (i.reservations.map reservationBytes).flatten
    ++ (i.lifted.map (·.bytes)).flatten

/-- The header (Table 12-8). -/
def SaveImage.header (i : SaveImage) : Bytes :=
  leBytes 4 i.magic ++ leBytes 2 i.format ++ leBytes 1 i.function ++ leBytes 1 i.res07 ++ leBytes 8 i.imageLen ++ beBytes 16 i.tenant
    ++ leBytes 4 i.mkId ++ leBytes 4 i.handleCounter ++ leBytes 8 i.sourceId ++ leBytes 8 i.savedAt ++ leBytes 1 i.quality
    ++ leBytes 1 i.ringCount ++ leBytes 2 i.resCount ++ leBytes 4 i.keyCount ++ leBytes 4 i.liftedCount
    ++ leBytes 4 i.activeVersion ++ leBytes 4 i.partBase ++ leBytes 4 i.partSize ++ leBytes 2 i.portScope ++ leBytes 2 i.res52
    ++ beBytes 12 i.iv ++ leBytes 32 i.res60

/-- The key that seals an image (R511). -/
def SaveImage.sealKey (i : SaveImage) (mk : Bytes) : Bytes := kdf mk "NX-VFI" (leBytes 8 i.sourceId ++ beBytes 8 i.savedAt) 256

/-- The sealed sections and their tag (R511). -/
def SaveImage.cipher (i : SaveImage) (mk : Bytes) : Bytes := gcmCrypt (i.sealKey mk) i.iv i.sections
def SaveImage.sealTag (i : SaveImage) (mk : Bytes) : Bytes := gcmTag (i.sealKey mk) i.iv i.header (i.cipher mk) 16

/-- The image of a VF (R510 to R512). -/
def saveImage (f tenant mkId : Nat) (mk : Bytes) (s : State) : SaveImage × State :=
  let iv := draw 12 s
  let keys := saveKeys mkId mk (domainKeys f s) iv.2
  let p := s.part? f
  let i : SaveImage :=
    { function := f, imageLen := 0, tenant, mkId, handleCounter := (s.dom f).handles, sourceId := s.ident.siliconId,
      savedAt := toStamp s.sck.now, quality := s.quality, ringCount := (activeRings f s).length,
      resCount := (openRes f s).length, keyCount := keys.1.length, liftedCount := (liftedOf f s).length,
      activeVersion := ((p.bind (·.active)).map (·.version)).getD 0, partBase := (p.map (·.base)).getD 0,
      partSize := (p.map (·.size)).getD 0, portScope := (s.func f).portScope, iv := beNat iv.1,
      rings := (activeRings f s).map saveRing, keys := keys.1, reservations := openRes f s,
      lifted := (liftedOf f s).map saveEntry }
  let i := { i with imageLen := 144 + i.sections.length }
  ({ i with tag := i.sealTag mk }, keys.2)

/-- VF_SAVE (R510): the save image of a frozen VF, sealed under its migration key, goes out through the PF's data port. Without a root
it completes KEY_NOT_LOADED (R289). -/
def execVfSave (q : Call) (fn : Nat) (s : State) : Host.Outcome State Fault Refusal :=
  .next (runOp 0x0C03 q 0 s fun s =>
    if 2 ≤ s.level then .done (bare stAborted) s
    else if fn = 0 ∨ 63 < fn ∨ (s.func fn).migration ≠ .frozen then .done (reject 0) s
    else if s.key.rootPresent = false then .done (bare stKeyNotLoaded) s
    else match (s.dom fn).tenant, (s.dom fn).migKey with
      | some tenant, some (mkId, mk) =>
        withDraw q s fun s =>
          let i := saveImage fn tenant mkId mk s
          let alone := ((domainKeys fn s).filter fun k => !k.blob.attr.migratable).length
          .done (okDetail alone) (offerBytes q (i.1.header ++ i.1.cipher mk ++ i.1.tag) i.2)
      | _, _ => .done (bare stKeyUsageDenied) s)

/-! ### Restoring (R514 to R516) -/

/-- Slots the carried keys take. -/
def carriedSlots (l : List SavedKey) : Nat :=
  l.foldl (fun n k => match k.blob with
    | some b => n + kindSlots b.attr.kind
    | none => n) 0

/-- Cells of the held input of lifted entries. -/
def liftedCells (l : List SavedEntry) : Nat :=
  l.foldl (fun n e => if e.input.isEmpty then n else n + cellsFor e.input.length) 0

/-- A carried blob fails R295: its form, the function of its handle, MK_ID and tag, kind and usage. -/
def blobFails (fn mkId : Nat) (mk : Bytes) (k : SavedKey) : Bool :=
  k.blob.any fun b =>
    !blobFormOk 2 b || b.handle != k.handle || handleFn b.handle != fn || b.epoch != mkId || (openUnder mk b).isNone
      || !usageOk b.attr.kind b.attr.usage

/-- FORMAT: MAGIC, FORMAT, counts, lengths and reserved fields. Those of the sections are judged here too, as they decrypt (DEDUCED
from the order of Table 12-10). -/
def SaveImage.formOk (i : SaveImage) (length : Nat) : Bool :=
  i.magic == 0x4956584E && i.format == 1 && i.res07 == 0 && i.res52 == 0 && i.res60 == 0 && decide (i.portScope < 4096)
    && decide (i.ringCount ≤ 64) && decide (i.resCount ≤ 256) && i.ringCount == i.rings.length
    && i.resCount == i.reservations.length && i.keyCount == i.keys.length && i.liftedCount == i.lifted.length
    && i.imageLen == 144 + i.sections.length && i.imageLen == length && i.rings.all (·.res == 0) && i.keys.all (·.res == 0)
    && i.resRes == 0 && i.lifted.all (fun e => e.res == 0 && e.slots.length == 64 * e.hdr.length)

/-- DECRYPT: the tag of the image, and the blobs it carries. -/
def SaveImage.opens (i : SaveImage) (mk : Bytes) : Bool :=
  i.sealTag mk == i.tag && !i.keys.any (blobFails i.function i.mkId mk)

/-- The VF or its domain is not empty. -/
def notEmpty (f : Nat) (s : State) : Bool :=
  (s.func f).migration != .normal || !(activeRings f s).isEmpty || !(domainKeys f s).isEmpty
    || s.key.vault.any (fun x => handleFn x.1 == f) || !(openRes f s).isEmpty

/-- The target's resources do not suffice. -/
def restoreShort (f : Nat) (i : SaveImage) (s : State) : Bool :=
  let v := s.func f
  let used := s.ts.delay0.length + s.ts.delay1.length + s.ts.delay2.length + s.ts.delay3.length
  i.rings.any (fun r => decide (v.ringsAllotted ≤ r.index)) || !s.slotsFit f (carriedSlots i.keys)
    || decide (v.delayQuota < s.delayUsed f + i.lifted.length) || decide (262144 < used + i.lifted.length)
    || decide (8192 < s.heldCells f + liftedCells i.lifted)
    || decide (256 < (s.dom f).reservations.length + i.reservations.length)

/-- The first failing check of Table 12-10: status and reason. -/
def restoreFault (fn length : Nat) (i : SaveImage) (s : State) : Option (Nat × Nat) :=
  let d := s.dom fn
  let held := (s.part? fn).any fun p => p.base == i.partBase && p.size == i.partSize
  if i.formOk length = false then some (stInputRejected, 0x0201)
  else if i.function ≠ fn then some (stInputRejected, 0x0202)
  else if d.tenant ≠ some i.tenant then some (stKeyUsageDenied, 0x0203)
  else if d.migKey.map (·.1) ≠ some i.mkId then some (stKeyUsageDenied, 0x0204)
  else if (d.migKey.any fun k => i.opens k.2) = false then some (stInputRejected, 0x0205)
  else if notEmpty fn s then some (stInputRejected, 0x0206)
  else if i.handleCounter < d.handles then some (stInputRejected, 0x0207)
  else if i.partSize ≠ 0 ∧ held = false then some (stInputRejected, 0x0208)
  else if restoreShort fn i s then some (stRefusedFull, 0x0209)
  else if 1 ≤ s.level then some (stRestricted, 0x020A)
  else none

/-- A key restored with GENERATING is held from generation (R516); a counter the image gives goes on where the image's ended, so that no
SPDU number is used twice (DEDUCED from R152 and R512). -/
def restoreGen (k : SavedKey) (s : State) : State :=
  if k.genNext = 0 ∧ k.generating = false then s
  else
    let g := raiseGen k.genNext (Tbl.get {} s.key.gens k.handle)
    { s with key := { s.key with gens := Tbl.put k.handle { g with hold := g.hold || k.generating } s.key.gens } }

/-- One carried key: unsealed, sealed again under the target's DWK, loaded, and stored where the source had it in its vault (R334,
R515). -/
def restoreKey (fn : Nat) (mk : Bytes) (k : SavedKey) (b : Blob) (s : State) : State :=
  let m := (openUnder mk b).getD []
  let x := sealBlob k.handle b.attr m s
  let s1 := keyEvent fn k.handle 10 0 (fillSlot x.1 m x.2)
  if k.inVault then vaultStore x.1 s1 else s1

/-- The keys of an image. -/
def restoreKeys (fn : Nat) (mk : Bytes) : List SavedKey → State → State
  | [], s => s
  | k :: t, s => restoreKeys fn mk t (restoreGen k ((k.blob.map fun b => restoreKey fn mk k b s).getD s))

/-- The entries of a restored ring from a count on: those before each lifted one have finished. -/
def restoredRun (f : Nat) : (at_ : Nat) → List SavedEntry → List (Nat × Nat × Bool × Bool × Bool)
  | at_, [] => if countSub f at_ = 0 then [] else [(at_, countSub f at_, true, true, false)]
  | at_, e :: t =>
    let gap := countSub e.count at_
    (if gap = 0 then [] else [(at_, gap, true, true, false)])
      ++ (e.count, e.hdr.length, false, false, e.hdr.notify) :: restoredRun f ((e.count + e.hdr.length) % 2 ^ 32) t

/-- Configure the rings from their records. -/
def restoreRings (fn : Nat) (lifted : List SavedEntry) : List SavedRing → State → State
  | [], s => s
  | r :: t, s =>
    let cfg := ringCfg {} r.cfg
    let es := restoredRun r.f r.h (lifted.filter fun e => e.ring == r.index)
    restoreRings fn lifted t (s.setRing fn r.index
      { cfg with base := r.base, mirror := r.mirror, modCount := fieldOf r.mod 7 0, modTime := fieldOf r.mod 23 8,
                 enabled := !r.draining, draining := r.draining, d := r.d, h := r.h, f := r.f, entries := es })

/-- Hold the lifted entries for VF_THAW. -/
def restoreLifted (fn : Nat) : List SavedEntry → State → State
  | [], s => s
  | e :: t, s =>
    let c : Ctx := { id := s.hif.nextCtx, f := fn, ring := e.ring, count := e.count, hdr := e.hdr, phase := .delayed,
                     angle := e.angle, group := groupOfOpcode e.hdr.opcode, lifted := true, slots := e.slots, input := e.input }
    let s1 := { s with hif := { s.hif with ctxs := s.hif.ctxs ++ [c], nextCtx := c.id + 1 } }
    let s2 := if e.input.isEmpty then s1 else s1.setQueue (64 + fn) { s1.queue (64 + fn) with
      packets := (s1.queue (64 + fn)).packets ++ [{ len := e.input.length, ctx := some c.id }] }
    restoreLifted fn t (takeWatch c s2)

/-- Apply an accepted image (R515). -/
def applyImage (fn : Nat) (i : SaveImage) (s : State) : State :=
  let s1 := restoreKeys fn (((s.dom fn).migKey.map (·.2)).getD []) i.keys s
  let s2 := s1.updDom fn fun d => { d with reservations := d.reservations ++ i.reservations, handles := i.handleCounter }
  let top := Tbl.get 0 s2.pln.highest fn
  let s3 := if top < i.activeVersion - 1 then
      { s2 with pln := { s2.pln with highest := Tbl.put fn (i.activeVersion - 1) s2.pln.highest } }
    else s2
  let s4 := restoreLifted fn i.lifted (restoreRings fn i.lifted i.rings s3)
  s4.updFunc fn fun v => { v with migration := .restored }

/-- VF_RESTORE (R514, R515): `image` is what has come through the data port by the end of the transfer. An image that passes Table 12-10
while no root is present completes KEY_NOT_LOADED (R289). -/
def execVfRestore (q : Call) (fn length : Nat) (image : SaveImage) (s : State) : Host.Outcome State Fault Refusal :=
  .next (runOp 0x0C04 q 0 s fun s =>
    if fn = 0 ∨ 63 < fn then .done (reject 0) s
    else match restoreFault fn length image s with
      | some (code, r) => .done { code, detail := r } s
      | none =>
        if s.key.rootPresent = false then .done (bare stKeyNotLoaded) s else
        let n := (image.keys.filter fun k => k.blob.isSome).length
        if n = 0 then .done (okDetail 0) (applyImage fn image s)
        else withDraw q s fun s => .done (okDetail n) (applyImage fn image s))

/-! ### Thawing (R517) -/

/-- Return each lifted entry to a delay list; one whose NOT_BEFORE has passed is not performed. -/
def thawAll (f : Nat) : List Ctx → State → State
  | [], s => s
  | c :: t, s =>
    thawAll f t (if c.f = f ∧ c.lifted = true then
      let c' := { c with lifted := false }
      if stampNs c.hdr.notBefore ≤ s.sck.now then finishCtx c' (bare stDeadlineMissed) s else placeDelay c' s
    else s)

/-- VF_THAW (R517). -/
def execVfThaw (q : Call) (fn : Nat) (s : State) : Host.Outcome State Fault Refusal :=
  .next (runOp 0x0C05 q 0 s fun s =>
    if fn = 0 ∨ 63 < fn ∨ (s.func fn).migration = .normal then .done (reject 0) s
    else
      .done (okDetail 0) (thawAll fn s.hif.ctxs (s.updFunc fn fun v => { v with migration := .normal })))

/-! ### IDE (R415, R492) -/

/-- A stream is in the Secure state: the link stream (none) or a selective stream. -/
def State.streamSecure (s : State) : Option Nat → Bool
  | none => s.hif.linkSecure
  | some i => decide (i < 4) && s.hif.selectiveSecure.testBit i

/-- A stream enters or leaves the Secure state. -/
def setStream (stream : Option Nat) (secure : Bool) (s : State) : State :=
  match stream with
  | none => { s with hif := { s.hif with linkSecure := secure } }
  | some i =>
    if i < 4 then { s with hif := { s.hif with selectiveSecure := setField s.hif.selectiveSecure i i (b2n secure) } } else s

/-- IDE_STREAM_INSECURE (R415): a stream leaves the Secure state, and IDE_INSECURE is set. -/
def execIdeStreamInsecure (stream : Option Nat) (s : State) : Host.Outcome State Fault Refusal :=
  onMain s <|
  if s.streamSecure stream then .next (raiseEvent .hif 0 3 (setStream stream false s)) else .next s

/-- SPDM_DOE_EXCHANGE (R415): the module answers as a responder, authenticated by the device identity key; IDE_KM is served in
an SPDM secure session only. DOE reaches the module through configuration space, so it needs the link and open service. -/
def execSpdmDoeExchange (m : DoeMessage) (s : State) : Host.Outcome State Fault Refusal :=
  onMain s <|
  if s.hif.linkUp = false ∨ s.serviceOpen = false then .next s
  else match m with
    | .spdm none => .next (emit (.doe 1 0) s)
    | .spdm (some open_) => .next (emit (.doe 1 (b2n open_)) { s with hif := { s.hif with spdmSession := open_ } })
    | .ideKm stream secure =>
      if s.hif.spdmSession = false then .next (emit (.doe 0 0) s)
      else if secure then .next (emit (.doe 2 1) (setStream stream true s))
      else if s.streamSecure stream then .next (emit (.doe 2 0) (raiseEvent .hif 0 3 (setStream stream false s)))
      else .next (emit (.doe 2 0) s)

/-- IDE_REQUIRED_SET (R492), authorised by a security officer of domain 0. -/
def execIdeRequiredSet (q : Call) (auth : AuthReq) (s : State) : Host.Outcome State Fault Refusal :=
  let value := leAt auth.params 0 1
  .next (runOp 0x0B04 q 0 s fun s =>
    withAuth auth q.hdr.inLen 0x0B04 0 roleOfficer 1 [(0, 1)] (decide (value ≤ 1)) s fun s =>
      .done (okDetail 0) { s with hif := { s.hif with ideRequired := value == 1 } })

end Sys2Proof.Machine
end

