-- ==== Sys2Proof/Machine/Power.lean ====
section
/-! DEFINITION. Supplies, power-down, the start of the module, resets, the wipe and the Quench path to its end (15, 16, 17). -/

namespace Sys2Proof.Machine

/-! ### Power-down (R267) -/

/-- Copies among the staged records of a log. -/
def stagedCount (log : Nat) (l : List Staged) : Nat := (l.filter fun r => r.log == log).length

/-- Write every open summary (R244). -/
def flushSummaries : List Summary → State → State
  | [], s => s
  | x :: t, s => flushSummaries t (writeSummary x s)

/-- The power-down sequence (R267): capture copies, staged or still of a frame under way, are discarded and counted, staged records are
written, then POWER_DOWN and, with `final`, the FINAL checkpoint. Nothing is written before the archive controller is READY (R658). -/
def powerDown (final : Bool) (s : State) : State :=
  if s.arc.ready = false then s
  else
    let s0 := flushSummaries s.arc.summaries { s with arc := { s.arc with summaries := [] } }
    let l := s0.arc.staging
    let ring := stagedCount 1 l + (s0.fe.frames.filter (·.toRing)).length
    let win := stagedCount 2 l + (s0.fe.frames.filter (·.toWindow)).length
    let s1 := appendAll (l.filter fun r => r.log == 0)
      { s0 with arc := { s0.arc with staging := [], eventBytes := 0, captureBytes := 0,
                                     lostTotal := s0.arc.lostTotal + ring + win } }
    let s2 := appendRecord (moduleRec 3 (.powerDown ring win) s1) s1
    if final then appendCheckpoint false true false s2 else s2

/-! ### What a start begins from (Table 17-8) -/

/-- A function keeps its set-up; its host side is at its reset values. -/
def restartFunc (f : Nat) (v : Func) : Func :=
  { Func.initial f with setUp := v.setUp, ringsAllotted := v.ringsAllotted, ctxQuota := v.ctxQuota, keyQuota := v.keyQuota,
                        delayQuota := v.delayQuota, portScope := v.portScope }

/-- A port keeps its MACsec settings, and the conditions of Restrict and of a Quench, which end only when a SAK is installed (Table
05-8). -/
def restartPort (v : Port) : Port :=
  { keyServerPrio := v.keyServerPrio, replayWindow := v.replayWindow, cak := v.cakNext.getD v.cak,
    conds := v.conds.filter fun c => c == 2 || c == 3 }

/-- Registers that keep their values: those of class S, restored from the configuration store. -/
def restoredEvents (s : State) : Tbl EvReg :=
  match Tbl.find? (regKey 0 0x3408) s.store with
  | some v => [(evKey .pke 0, { enable := v })]
  | none => []

/-- The main domain loses all that is volatile: what is left is what the configuration store, NAND, BBKR, the backup and the
standby domain keep. -/
def dropMain (s : State) : State :=
  { s with
    sck := { rtcNs := s.sck.rtcNs, rtcCount := s.sck.rtcCount, rtcFrac := s.sck.rtcFrac, rtcSetCount := s.sck.rtcSetCount,
             rtcLost := s.sck.rtcLost, now := s.sck.now }
    arc := { s.arc with ready := false, truncated := false, staging := [], eventBytes := 0,
                        captureBytes := 0, summaries := [], allowance := 0, rateAt := 0, sinceCheck := 0 }
    pln := { s.pln with rebuilding := [] }
    fe := { ports := Tbl.mapAll (fun _ v => restartPort v) s.fe.ports }
    hif := { config := s.hif.config, funcs := Tbl.mapAll restartFunc s.hif.funcs, ideRequired := s.hif.ideRequired }
    ts := {}
    key := { s.key with rootPresent := false, identity := none, keys := [], lostAt := [], lapsed := [], keysDue := false,
                        gens := Tbl.mapAll (fun _ g => restartGen g) s.key.gens }
    pke := { curves := s.pke.curves }
    rnu := {}
    tls := {}
    ac := { image := s.ac.image, table := bootRules, shadow := bootRules }
    tm := { s.tm with clearHold := s.tm.clearHold && !s.tm.clearPending, clearPending := false, quenchBusy := false,
                      ready := false, lightA := false, lightB := false, dieTemp := 0, levelAt := 0,
                      restrictOn := s.tm.clearHold && !s.tm.clearPending || s.tm.releaseHold }
    lcc := { s.lcc with token := none, accepted := [], wipeStep := 0, rounds := 0, resumed := false, bootId := 0 }
    stc := {}
    pwr := { s.pwr with phase := 0, stopped := false, resetHeld := false, running := none, version := 0, trial := false,
                        resetCause := 0, watchdog := false, resetWaits := none, holdNext := false, startTime := 0xFFFF, forwardAt := 0,
                        slot0 := s.pwr.slot0.settle, slot1 := s.pwr.slot1.settle }
    ev := restoredEvents s
    rw := s.store
    writes := [] }

/-! ### The staging buffer (R611) -/

/-- Level of a moved entry. -/
def movedLevel (s : State) (e : StagedAlarm) : Nat :=
  if s.lcc.st = .maker ∨ s.lcc.st = .returned then 0
  else if e.snowdrop then 3 else tableLevel s e.cause e.source

/-- Set the latch of a moved entry; QUENCH_W is cleared by the start. -/
def movedLatch (cause level : Nat) (t : Tm) : Tm := if level = 2 then t else setLatch cause level t

/-- Move entries into the journal, in order of detection. -/
def moveStaged : List StagedAlarm → State → State
  | [], s => s
  | e :: t, s =>
    let level := movedLevel s e
    let s1 := countCause e.cause 1 { s with
      tm := movedLatch e.cause level s.tm,
      key := { s.key with quenchR := s.key.quenchR + b2n (level == 3), quenchW := s.key.quenchW + b2n (level == 2) } }
    moveStaged t (writeEntry { index := 0, cause := e.cause, level, power := if e.snowdrop then 2 else 1, staged := true,
                               stamp := stampNs e.stamp, quality := e.quality, source := e.source,
                               data := e.subtype + 2 ^ (if supplyCause e.cause then 32 else 16) * e.value, subsumed := decide (level < latchLevel s1.tm) } s1)

/-- Causes of the overflow bitmap (R610): mesh, the four loops, standby overvoltage. -/
def bitmapCauses (bitmap : Nat) : List Nat :=
  ((List.range 6).filter (bitmap.testBit ·)).map fun i => if i = 0 then causeMesh else if i = 5 then causeStandbyOver else causeLoop

/-- Count each cause of a list once. -/
def countAll : List Nat → State → State
  | [], s => s
  | c :: t, s => countAll t (countCause c 1 s)

/-- The staging buffer moves into the journal, and is cleared; STAGED is set (R611, R618). -/
def moveBuffer (s : State) : State :=
  let l := s.tm.staging
  let n := s.tm.overflow
  let bm := s.tm.bitmap
  let s0 := moveStaged l { s with tm := { s.tm with staging := [], overflow := 0, bitmap := 0, stagedLast := l.length,
                                                    overflowLast := n != 0 } }
  let s1 := if l.isEmpty then s0 else raiseEvent .tm 0 4 s0
  if n = 0 then s1
  else
    let s2 := countAll (bitmapCauses bm) (countCause causeStagingOverflow n s1)
    writeEntry { index := 0, cause := causeStagingOverflow, level := 0, staged := true, stamp := s2.sck.now,
                 quality := s2.quality, count := n, data := n + 65536 * bm,
                 subsumed := decide (0 < latchLevel s2.tm) } s2

/-! ### The life-cycle state at a start (R625, R629, R630) -/

/-- The copies that verify. -/
def validCopies : List LifeCopy → List Bool → List LifeCopy
  | c :: cs, ok :: oks => if ok then c :: validCopies cs oks else validCopies cs oks
  | _, _ => []

/-- The copy of the latest state. -/
def latestCopy : List LifeCopy → Option LifeCopy
  | [] => none
  | c :: t => match latestCopy t with
    | none => some c
    | some d => if lifeCode d.st ≤ lifeCode c.st then some c else some d

/-- The record that the copies decide: two that agree, else the latest state any holds. -/
def decideLife (l : List LifeCopy) : Option LifeCopy :=
  match l.find? fun c => decide (2 ≤ l.count c) with
  | some c => some c
  | none => latestCopy l

/-! ### The wipe (R631 to R634) -/

/-- A domain after the wipe: its Temper counter, and its epoch. -/
def wipeDomain (d : Domain) : Domain := { temper := d.temper, epoch := d.epoch }

/-- Step 2: the configuration store's user records. -/
def wipeConfig (s : State) : State :=
  { s with
    key := { s.key with domains := Tbl.mapAll (fun _ d => wipeDomain d) s.key.domains, integrators := [], gens := [] }
    pln := { zones := s.pln.zones }
    pke := { s.pke with curves := [] }
    hif := { s.hif with funcs := [], ideRequired := false }
    fe := {}
    sck := { s.sck with inForce := [], waiting := [] }
    lcc := { s.lcc with written := [] }
    arc := { s.arc with windows := [], hours := [], hourNow := 0 }
    tm := { s.tm with clearHold := false, releaseHold := false, quenchR := false, reprovPending := false }
    ev := []
    rw := []
    store := [] }

/-- Zones that step 3 erases: from 4 to the last usable one. -/
def wipeEnd (s : State) : Nat := firstUsable + usableZones s.ident.nx880b

/-- Erase the usable zones listed below a number. -/
def eraseBelow (n : Nat) : Tbl Zone → State → State
  | [], s => s
  | (k, _) :: t, s => eraseBelow n t (if k < n then eraseZone k s else s)

/-- Step 3 up to a zone, with the rounds it took in this start: vault zones and usable zones. -/
def wipeZones (upTo rounds : Nat) (s : State) : State :=
  let s1 := eraseBelow upTo s.arc.zones s
  { s1 with key := { s1.key with vault := Tbl.keep (fun h _ => decide (upTo ≤ vaultZone0 (handleFn h))) s1.key.vault },
            pln := { s1.pln with zones := Tbl.keep (fun z _ => decide (upTo ≤ z)) s1.pln.zones },
            lcc := { s1.lcc with rounds := satTo 0xFFFF rounds } }

/-- A log of a new archive. -/
def freshLog (archiveId epoch l : Nat) : LogState := { chain := chainStart archiveId epoch l }

/-- Step 4: a new epoch with an empty directory; every chain starts afresh (R280). -/
def newEpoch (old : Nat) (s : State) : State :=
  let e := old + 1
  let id := s.arc.archiveId
  writeAnchors { s with arc := { s.arc with
      epoch := e, cpSeq := 0, zones := [], gens := [], zoneOrder := 0, released := [], reserveInUse := false,
      reserveFull := false, stopped := false, lostTotal := 0, refusedRing := 0, refusedWindow := 0, govLevel := 0,
      poolFree := usableZones s.ident.nx880b - reserveZones s.ident.nx880b, reserveFree := reserveZones s.ident.nx880b,
      log0 := freshLog id e 0, log1 := freshLog id e 1, log2 := freshLog id e 2 } }

/-- The wipe from its progress record on; `cut` is the step during which power is lost, with the rounds of step 3 made before.
The answer tells whether it has ended. -/
def wipe (cut : Option (Nat × Nat)) (s : State) : Bool × State :=
  let p := s.lcc.progress.getD { step := 1, nextZone := 4, epoch := s.arc.epoch, cpSeq := s.arc.cpSeq }
  let stop := (cut.map (·.1)).getD 6
  let total := (wipeEnd s - p.nextZone + 31) / 32
  let made := if stop = 3 then (let r := (cut.map (·.2)).getD 0; if r < total then r else total) else total
  let next := if made = total then wipeEnd s else p.nextZone + 32 * made
  let s1 := if p.step ≤ 1 ∧ 1 < stop then
      { s with key := { s.key with bbkr := none, provisioned := false, rootPresent := false } } else s
  let s2 := if p.step ≤ 2 ∧ 2 < stop then wipeConfig s1 else s1
  let s3 := if p.step ≤ 3 ∧ 3 ≤ stop then wipeZones next made s2 else s2
  let s4 := if 4 < stop then newEpoch p.epoch s3 else s3
  if 5 < stop then (true, { s4 with lcc := { s4.lcc with progress := none, wipeStep := 0 } })
  else
    let step := if p.step < stop then stop else p.step
    (false, { s4 with lcc := { s4.lcc with
      progress := if stop ≤ 1 ∧ s.lcc.progress.isNone then none
                  else some { p with step, nextZone := if stop = 3 then next else if stop < 3 then p.nextZone else wipeEnd s } } })

/-- The integrator records of the written keys (R630). -/
def integratorRecs (s : State) : List RoleRec :=
  s.lcc.written.map fun k => { role := roleIntegrator, key := k, signerId := signerIdOf k, stamp := toStamp s.sck.now }

/-- A transition passes the wipe on its way. -/
def needsWipe (s : State) (t : LifeState) : Bool :=
  t == .returned || (t == .scrapped && (s.lcc.st == .fielded || s.lcc.progress.isSome))

/-- Commit a new state in all three copies. -/
def commitLife (t : LifeState) (s : State) : State :=
  { s with lcc := { s.lcc with st := t, target := none, progress := none, copies := List.replicate 3 { st := t } } }

/-- LIFECYCLE_TRANSITION_APPLY (R629, R630): none where power is lost on the way; with the old EPOCH and its last CP_SEQ where the
archive was wiped. -/
def applyTransition (cut : Option (Nat × Nat)) (s : State) : Option (Option (Nat × Nat)) × State :=
  match s.lcc.target with
  | none => (some none, s)
  | some t =>
    let s0 := { s with lcc := { s.lcc with resumed := s.lcc.progress.isSome } }
    if needsWipe s0 t then
      let old := (s0.lcc.progress.map fun p => (p.epoch, p.cpSeq)).getD (s0.arc.epoch, s0.arc.cpSeq)
      let w := wipe cut s0
      if w.1 then
        let s1 := commitLife t w.2
        (some (some old), { s1 with lcc := { s1.lcc with scrapFuse := s1.lcc.scrapFuse || t == .scrapped } })
      else (none, w.2)
    else
      let s1 := if t = .integrator then { s0 with key := { s0.key with integrators := integratorRecs s0 } } else s0
      let s2 := commitLife t s1
      (some none, { s2 with lcc := { s2.lcc with scrapFuse := s2.lcc.scrapFuse || t == .scrapped } })

/-! ### Monitors, self-test, firmware (R600, R612, R646, R668) -/

/-- Raise the alarms that the checks at a start find. A Quench alarm runs the Quench path to its end, and Quench-R zeroes BBKR,
before BBKR is read. -/
def startAlarms : List (Nat × Nat × Nat) → State → State
  | [], s => s
  | (cause, source, data) :: t, s =>
    if allCauses.contains cause && loopWatched s cause source then
      let s1 := if cause = causeLight then { s with tm := { s.tm with lightA := true, lightB := true } } else s
      let s2 := raiseAlarm cause source data s1
      let s3 := if s2.tm.quenchR && !s1.tm.quenchR || (s2.tm.quenchBusy && s2.tm.quenchR) then zeroBbkr s2 else s2
      startAlarms t (if s3.tm.quenchBusy then quenchFinish [] s3 else s3)
    else startAlarms t s

/-- What the checks find, with the enabled loops whose wiring is open (R609, R621). -/
def foundAlarms (i : StartIn) (s : State) : List (Nat × Nat × Nat) := i.alarms ++ s.tm.loopOpen.map fun x => (causeLoop, x.1, x.2)

/-- Bits of the blocks of a class that fail: `n` blocks from code `base` on. -/
def failBits (fails : List Nat) (base n : Nat) : Nat :=
  (List.range n).foldl (fun v i => if fails.contains (base + i) then v ||| 2 ^ i else v) 0

/-- Engines at a start: those present are in service unless they failed (R376, R646). -/
def startEngines (s : State) (fails : List Nat) : Tbl Engine :=
  (List.range 8).map fun e => (e, { inService := enginePresent s e && !fails.contains (0x200 + e) })

/-- Cores at a start. -/
def startCores (s : State) (fails : List Nat) : Tbl CoreRt :=
  (List.range s.coreCount).map fun c => (c, { st := if fails.contains (0x300 + c) then .outOfService else .waiting })

/-- Move the ports of each failed pipeline (R649). -/
def moveFailed (fails : List Nat) : Nat → State → State
  | 0, s => s
  | n + 1, s => let s1 := moveFailed fails n s; if fails.contains (0x100 + n) then movePorts n true s1 else s1

/-- STARTUP_SELF_TEST (R646, R647): every block except 0x0700. -/
def startTests (fails0 : List Nat) (s : State) : State :=
  let fails := fails0.filter fun b => b != 0x700 && (testExpected b).isSome
      && (b / 256 != 2 || enginePresent s (b % 256)) && (b / 256 != 3 || decide (b % 256 < s.coreCount))
  let fail0 := failBits fails 0x100 4 + 16 * failBits fails 0x200 8 + 2 ^ 12 * b2n (fails.contains 0x400)
    + 2 ^ 13 * b2n (fails.contains 0x401) + 2 ^ 14 * b2n (fails.contains 0x500) + 2 ^ 15 * b2n (fails.contains 0x600)
  let fail1 := failBits fails 0x300 32
  let fail2 := failBits fails 0x320 16
  let hold := fails.contains 0x500 || fails.contains 0x600
  let s1 := moveFailed fails 4 { s with
    stc := { s.stc with pipes := 15 - failBits fails 0x100 4, passed := fails.isEmpty, hold, fail0, fail1, fail2 },
    pke := { s.pke with engines := startEngines s fails }, ts := { s.ts with cores := startCores s fails } }
  let s2 := if fails.isEmpty then s1 else securityRec secStartupFailed fail0 fail1 fail2 s1
  if fails.contains 0x400 then rnuFail 4 0 true [] s2 else if fails.contains 0x401 then rnuFail 5 0 true [] s2 else s2

/-- A slot after its verification at a start (R667); `ok`: what is read from the slot is the image stored. -/
def FwSlot.verify (ok : Bool) (key : Bytes) (floor : Nat) (v : FwSlot) : FwSlot :=
  if v.st = 0 then v else { v with st := if ok && v.image.any (FwImage.valid key floor) then 2 else 3 }

/-- The slot with a role is valid. -/
def Pwr.validIn (p : Pwr) (role : Nat) : Option Nat := (p.withRole role).bind fun n => if (p.slot n).st = 2 then some n else none

/-- Run the image of a slot. -/
def Pwr.run (p : Pwr) (n : Nat) : Pwr := { p with running := some n, version := (p.slot n).version }

/-- A failed trial is reported (R669). -/
def noteTrialFailed (s : State) : State :=
  raiseEvent .pwr 0 1 (securityRec secTrialFailed 0 0 s.pwr.floor { s with pwr := { s.pwr with trialFailed := false } })

/-- FIRMWARE_CHOICE (R668, Table 17-4): the image to run, or the recovery firmware of the boot ROM. -/
def chooseFirmware (ok0 ok1 : Bool) (s : State) : State :=
  let p0 := s.pwr
  let key := s.ident.firmware
  let p := { p0 with slot0 := p0.slot0.verify ok0 key p0.floor, slot1 := p0.slot1.verify ok1 key p0.floor }
  let trial := if p.trialPending then p.validIn roleTrial else none
  match trial with
  | some n =>
    let s1 := { s with pwr := { p.run n with trial := true } }
    if s1.pwr.trialFailed then noteTrialFailed s1 else s1
  | none =>
    let failed := p.trialPending || p.trialFailed
    let p1 := if p.trialPending then p.untried else p
    let s1 := match p1.validIn roleCurrent with
      | some n => { s with pwr := p1.run n }
      | none => match p1.validIn rolePrevious with
        | some n =>
          let other := { p1.slot (1 - n) with role := roleNone }
          let p2 := (p1.setSlot n { p1.slot n with role := roleCurrent }).setSlot (1 - n) other
          raiseEvent .pwr 0 2 (securityRec secFallback n (p1.slot n).version 0 { s with pwr := p2.run n })
        | none => { s with pwr := { p1 with running := none, version := Config.recoveryVersion } }
    if failed then noteTrialFailed s1 else s1

/-! ### Restore (R288, R569, R616, R684) -/

/-- The access rules come into force (R569). -/
def loadRules (s : State) : State :=
  let t := s.ac.image.getD bootRules
  { s with ac := { s.ac with table := t, shadow := t, rulesLoaded := true } }

/-- Block number of the tamper monitor's peripheral slot (Table 14-3). -/
def slotTm : Nat := 19

/-- First INDEX at which the MAC chain of the journal breaks, the newest entry first. -/
def chainBreak (key : Bytes) : List JournalEntry → Option Nat
  | [] => none
  | e :: t => (chainBreak key t) <|> (if (sealEntry key t e).mac = e.mac then none else some e.index)

/-- The journal's chain is checked (R616). -/
def checkJournal (bad : Option Nat) (s : State) : State :=
  match bad <|> chainBreak s.ident.journalKey s.tm.journal with
  | none => s
  | some i => raiseLogic 7 slotTm 0 i s

/-- BBKR is read and the root checked (R288); a backup domain that has lost power raises RTC_STOPPED too (R613). -/
def checkRoot (s : State) : State :=
  let present := s.key.bbkr.any fun b => srkCheck b.srk == b.check && b.generation == s.key.rootGen
  let lost := s.tm.backupLost
  let s1 := { s with key := { s.key with rootPresent := present }, tm := { s.tm with backupLost := false } }
  let s2 := if lost then raiseAlarm causeRtcStopped 0 (9 + 2 ^ 32 * 0x7FFFFFFF) s1 else s1
  if !present && s2.key.provisioned then
    startAlarms [(causeRootLost, 0, s2.key.rootGen + 2 ^ 32 * b2n (s2.key.bbkr.any fun b => srkCheck b.srk == b.check) + 2 ^ 40 * b2n (!lost))] s2
  else s2

/-- Some present core serves a group. -/
def groupListed (s : State) (g : Nat) : Bool := (List.range s.coreCount).any fun c => (s.coreGroups c).testBit g

/-- Remove the restored TS_CORE_GROUPS of the cores below `n`. -/
def defaultGroups : Nat → State → State
  | 0, s => s
  | n + 1, s => let s1 := defaultGroups n s; { s1 with rw := Tbl.del (regKey 0 (0x4840 + 4 * n)) s1.rw }

/-- Restored TS_CORE_GROUPS that leave a group without a present core give way to the defaults (R684). -/
def checkGroups (s : State) : State :=
  if (List.range 14).all (groupListed s) then s else raiseEvent .ts 0 5 (defaultGroups s.coreCount s)

/-- Grid time runs UNLOCKED from the RTC, with the stored slot clock settings in force. -/
def startClock (s : State) : State :=
  let inForce := (Tbl.keep (fun k _ => decide (0x6400 ≤ k) && decide (k ≤ 0x642C)) s.store)
  reBound { s with sck := { s.sck with now := rtcTime s.sck / 1000 * 1000, st := .unlocked, inForce, waiting := [], rtcRead := true } }

/-! ### The archive at a start (R251, R268, R634, R744) -/

/-- Close the open zone of a log whose last record is torn (R268). -/
def closeTorn (l endUnit : Nat) (s : State) : State :=
  let lg := s.arc.log l
  match lg.openZone with
  | none => s
  | some zn => match Tbl.find? zn s.arc.zones with
    | none => s
    | some z =>
      let a := s.arc.setLog l { lg with openZone := none }
      writeAnchors { s with arc := { a with zones := Tbl.put zn { z with closed := true, validEnd := some endUnit } a.zones } }

/-- Close each torn zone. -/
def closeAllTorn : List (Nat × Nat) → State → State
  | [], s => s
  | (l, u) :: t, s => closeAllTorn t (closeTorn l u s)

/-- The LOST_RECORDS record of each torn zone. -/
def tornRecords (before : State) : List (Nat × Nat) → State → State
  | [], s => s
  | (l, u) :: t, s =>
    tornRecords before t (match (before.arc.log l).openZone with
      | none => s
      | some zn =>
        let last := lastStampOf (before.arc.log l)
        appendRecord (moduleRec 2 (.lostRecords l 0 0 0 true last (toStamp s.sck.now) zn u) s)
          { s with arc := { s.arc with truncated := true } })

/-- A window at a start (R744): past its end it closes or is skipped; otherwise it stays. -/
def startWindows : List CapWindow → State → State
  | [], s => s
  | w :: t, s =>
    startWindows t (if w.finish ≤ s.sck.now then windowRec w (if w.opened then 1 else 2) (dropWindow w.number s) else s)

/-- The archive's start: torn zones closed, START and its checkpoint, LOST_RECORDS, the record of a wipe, then READY. -/
def startArchive (cause : Nat) (torn : List (Nat × Nat)) (wiped : Option (Nat × Nat)) (s : State) : State :=
  let s0 := closeAllTorn torn { s with arc := { s.arc with rateAt := s.sck.rtcCount } }
  let s1 := appendRecord (moduleRec 4 (.start cause s0.arc.cpSeq s0.pwr.version s0.pwr.lupin) s0) s0
  let s2 := tornRecords s torn (appendCheckpoint false false true s1)
  let s3 := match wiped with
    | none => s2
    | some (epoch, cp) =>
      appendRecord { moduleRec 0x31 (.security secTransitionDone (lifeCode s2.lcc.st) epoch cp) s2 with owner := 0x7E } s2
  startWindows s3.arc.windows { s3 with arc := { s3.arc with ready := true } }

/-! ### Autonomous restart (R135 to R138, R590) -/

/-- The standby state after a restart (R138). -/
def restartStandby (p : Partition) : Standby :=
  match p.standby with
  | .loading => p.before
  | .draining => if p.rollback || p.vaultStandby.isNone then .empty else .previous
  | v => v

/-- What reading an image's vault copies meets: one cannot be read (false), or neither (true). -/
def badImage (l : List (Nat × Bool × Bool)) (f : Nat) (standby : Bool) : Option Bool :=
  (l.find? fun x => x.1 == f && x.2.1 == standby).map (·.2.2)

/-- Read the image of a slot: from a copy whose header digest matches. A copy that fails is rewritten from the other, with its record
(R271). -/
def readImage (l : List (Nat × Bool × Bool)) (f : Nat) (standby : Bool) (n : Option Nat) (s : State) : Option PlanImage × State :=
  let bad := badImage l f standby
  let a := if bad = some true then none else imageIn s (vaultZone0 f) n
  let b := if bad.isSome then none else imageIn s (vaultZone1 f) n
  match a, b, n with
  | some i, none, some k => (some i, planEvent f i.version planVaultRepaired 0 (repairSlot (vaultZone1 f) k i s))
  | none, some i, some k => (some i, planEvent f i.version planVaultRepaired 0 (repairSlot (vaultZone0 f) k i s))
  | a, _, _ => (a, s)

/-- The reason of the restart checks that refuses an image for a partition, against those already restarted. The budgets are the full ones:
R652 lowers them for arming alone. -/
def restartFault (s : State) (f t : Nat) (p : Partition) (i : PlanImage) : Option Nat :=
  let c := copyOf i
  ((checkPlan s f p.base p.size i.imageLen true i) <|> (crossFault s false t c (otherParts f s.pln.parts)) <|> (vaultFault s c)).map (·.1)

/-- The active copy of a partition with an image. -/
def installActive (f : Nat) (p : Partition) (i : PlanImage) (s : State) : State :=
  let c := copyOf i
  let s1 := s.setPart f { p with active := some c }
  planEvent f i.version planRestarted 0 { s1 with fe := { s1.fe with entries := installAll [] [] c.entries s1.fe.entries } }

/-- Restart the active copy of a partition; an image that no copy gives counts as reason 0 (R137). -/
def restartActive (l : List (Nat × Bool × Bool)) (f : Nat) (p : Partition) (s : State) : State :=
  if p.vaultActive.isNone then s.setPart f p
  else
    let r := readImage l f false p.vaultActive s
    match r.1 with
    | none => planEvent f (slotVersion s f p.vaultActive) planNotRestarted 0 (r.2.setPart f p)
    | some i =>
      match restartFault r.2 f r.2.sck.now p i with
      | some reason => planEvent f i.version planNotRestarted reason (r.2.setPart f p)
      | none => installActive f p i r.2

/-- The standby copy is lost, and with it its vault image. -/
def loseStandby (f : Nat) (p : Partition) (s : State) : State :=
  dropImage f p.vaultStandby
    (s.setPart f { p with standby := .empty, vaultStandby := none, rollback := false, pinned := false, deferred := false })

/-- Restart the standby copy of a partition: an armed switch is armed again, and deferred, with its record, where its instant has passed
(R138, R80). Its keys are pinned as before (R122, R136). -/
def restartHeld (l : List (Nat × Bool × Bool)) (f : Nat) (p : Partition) (s : State) : State :=
  if p.standby.holds = false then loseStandby f p s
  else
    let r := readImage l f true p.vaultStandby s
    match r.1 with
    | none => planEvent f (slotVersion s f p.vaultStandby) planStandbyLost 0 (loseStandby f p r.2)
    | some i =>
      match restartFault r.2 f (if p.standby = .armed then p.instant else s.sck.now) p i with
      | some reason => planEvent f i.version planStandbyLost reason (loseStandby f p r.2)
      | none =>
        let past := p.standby == .armed && decide (p.instant ≤ s.sck.now)
        let s1 := r.2.setPart f { p with held := some (copyOf i), deferred := past }
        if past then planEvent f i.version (transitionOf .armed .armed) 0 s1 else s1

/-- A partition as its plan record restores it, before its images are read. -/
def Partition.restored (p : Partition) : Partition :=
  { p with active := none, held := none, standby := restartStandby p, before := .empty, deferred := false, loadHeld := false,
           vaultIncoming := none, reload := [], reloadStandby := [] }

/-- Restart one partition; a release whose boundary has passed is carried out instead (R135). -/
def restartPart (l : List (Nat × Bool × Bool)) (f : Nat) (p : Partition) (s : State) : State :=
  if p.releaseAt.any fun b => decide (b ≤ s.sck.now) then
    let q := { p with active := (storedImage s f p.vaultActive).map copyOf, held := (storedImage s f p.vaultStandby).map copyOf }
    releasePart f q (s.setPart f q)
  else
    let s1 := restartActive l f p.restored (dropImage f p.vaultIncoming s)
    match s1.part? f with
    | none => s1
    | some q => restartHeld l f q s1

/-- Restart the partitions in function order. -/
def restartParts (l : List (Nat × Bool × Bool)) : Tbl Partition → State → State
  | [], s => s
  | (f, p) :: t, s => restartParts l t (restartPart l f p s)

/-- Autonomous restart: the partitions, then the vault keys unless a level or the random number unit holds them back. -/
def restartPlans (l : List (Nat × Bool × Bool)) (s : State) : State :=
  let s1 := restartParts l s.pln.parts { s with pln := { s.pln with parts := [] } }
  if s1.level ≠ 0 then s1
  else if s1.rnu.st = .ready then unwrapAll s1
  else { s1 with key := { s1.key with keysDue := true } }

/-- Without a restart the banks are empty and the records stay. -/
def emptyBanks (s : State) : State :=
  { s with pln := { s.pln with parts := Tbl.mapAll (fun _ (p : Partition) =>
      { p with active := none, held := none, standby := restartStandby p, before := .empty, loadHeld := false,
               vaultIncoming := none }) s.pln.parts } }

/-! ### The start (R660 to R665) -/

/-- The module stops after its boot ROM (R625, R635). -/
def stopModule (s : State) : State := { s with pwr := { s.pwr with stopped := true, phase := 0 } }

/-- Declare the members dead whose restored modes differ (R211): the ports below `n`. -/
def holdAll : Nat → State → State
  | 0, s => s
  | n + 1, s => holdLink n (holdAll n s)

/-- The start once the life-cycle state is settled. -/
def startRest (i : StartIn) (cause old : Nat) (wiped : Option (Nat × Nat)) (s : State) : State :=
  let n := s.lcc.starts + 1
  let bootId := beNat (kdf s.ident.dis "NX-BOOT" (beBytes 8 n) 128)
  let s1 := { s with lcc := { s.lcc with starts := n, bootId }, key := { s.key with identity := some (identityOf s.ident) } }
  let s2 := startAlarms (foundAlarms i s1) (noteLevel old 0 s1)
  let s3 := startTests i.fails { s2 with tm := { s2.tm with ready := true } }
  let s4 := chooseFirmware i.fwOk0 i.fwOk1 s3
  let s5 := checkGroups (checkRoot (checkJournal i.badJournal (loadRules s4)))
  let s6 := holdAll 12 (if 1 ≤ s5.level then addCondAll 2 12 s5 else s5)
  let s6 := if i.rnuPass then rnuReady s6 else s6
  let s7 := startArchive cause i.torn wiped (pfShare { s6 with hif := { s6.hif with linkUp := !s6.io.perst } })
  let reach (phase : Nat) (s : State) : State :=
    { s with pwr := { s.pwr with phase }, io := { s.io with alerts := s.io.alerts ||| (if phase = 3 then 0 else 8) } }
  if s7.pwr.running = none then reach 6 (emptyBanks s7)
  else if s7.stc.hold then reach 5 (emptyBanks s7)
  else reach 3 (restartPlans i.badImages s7)

/-- Power is lost again while a transition is applied. -/
def losePower (s : State) : State :=
  { s with pwr := { s.pwr with good := false, main := false, standbyFed := s.pwr.standbyIn },
           io := { s.io with ready := s.io.ready && s.pwr.standbyIn } }

/-- The start of the main domain with a reset cause, from what the power-down left (Table 17-2). A watchdog or module reset that
follows REPROVISION clears CLEAR_HOLD and QUENCH_R (R326, R622). -/
def startMain (i : StartIn) (cause : Nat) (s : State) : State :=
  let old := s.level
  let r := s.tm.reprovPending && cause != 0
  let s0 := dropMain (passRtc i.cycles s)
  let s1 := { s0 with
    pwr := { s0.pwr with good := true, main := true, lupin := s0.pwr.lupinNext, resetCause := cause, startedAt := s0.sck.rtcCount,
                         watchdog := decide (3 ≤ cause) && decide (cause ≤ 5) },
    tm := { s0.tm with quenchW := false, quenchR := s0.tm.quenchR && !r, clearHold := s0.tm.clearHold && !r,
                       reprovPending := s0.tm.reprovPending && !r, present := [] } }
  if s1.lcc.scrapFuse then stopModule s1
  else
    match decideLife (validCopies s1.lcc.copies i.copyOk) with
    | none => stopModule s1
    | some c =>
      let s2 := { s1 with lcc := { s1.lcc with st := c.st, target := c.target, copies := List.replicate 3 c } }
      let s3 := moveBuffer (startClock s2)
      let s4 := { s3 with tm := { s3.tm with restrictOn := s3.tm.clearHold || s3.tm.releaseHold } }
      match applyTransition i.wipeCut s4 with
      | (none, s5) => losePower (dropMain s5)
      | (some wiped, s5) =>
        let s6 := { s5 with tm := { s5.tm with restrictOn := s5.tm.clearHold || s5.tm.releaseHold } }
        if s6.lcc.scrapFuse then stopModule s6 else startRest i cause old wiped s6

/-- POWER_GOOD_RISE (R660): a power-up. It also starts a standby domain that was not fed. -/
def execPowerGoodRise (i : StartIn) (s : State) : Host.Outcome State Fault Refusal :=
  if s.pwr.good then .next s
  else
    let s1 := if s.pwr.standbyFed then s
      else { s with io := { s.io with a0 := i.a0, a1 := i.a1, ready := true } }
    .next (startMain i 0 { s1 with pwr := { s1.pwr with standbyFed := true, backupFed := true } })

/-- POWER_GOOD_FALL (R267, R658, R680): the power-down sequence runs, and the main domain is switched off. -/
def execPowerGoodFall (s : State) : Host.Outcome State Fault Refusal :=
  if s.pwr.good then
    let s1 := dropMain (powerDown true (rtcSet s))
    .next (losePower { s1 with hif := { s1.hif with linkUp := false } })
  else .next s

/-- FORWARDING_BEGIN (R660, R664, R744): pads are filled and the frame engine begins forwarding; windows whose start has passed
write their open record. `ms`: time since t0. -/
def execForwardingBegin (ms : Nat) (s : State) : Host.Outcome State Fault Refusal :=
  if s.pwr.main && s.pwr.phase == 3 then
    let fill (t : Tbl EntryRt) (n : Nat) : Tbl EntryRt := match padEntry s n with
      | some e => Tbl.put n (fillPads s e (Tbl.get {} t n)) t
      | none => t
    let entries := (Tbl.keys (fun _ _ => true) s.fe.entries).foldl fill s.fe.entries
    let s1 := { s with
      fe := { s.fe with entries, forwarding := true },
      pwr := { s.pwr with phase := 4, startTime := satTo 0xFFFF ms, forwardAt := s.sck.now },
      io := { s.io with alerts := s.io.alerts ||| 8 } }
    let due (w : CapWindow) : Bool := !w.opened && decide (w.start ≤ s.sck.now) && decide (s.sck.now < w.finish)
    let openOne (s : State) (w : CapWindow) : State :=
      let w' := { w with opened := true }
      windowRec w' 0 { s with arc := { s.arc with windows := setWindow w' s.arc.windows } }
    .next ((s1.arc.windows.filter due).foldl openOne s1)
  else .next s

/-! ### Resets (R673 to R677) -/

/-- A module or watchdog reset: the power-down sequence with the main domain powered, then the start. -/
def resetModule (i : StartIn) (cause : Nat) (final : Bool) (s : State) : State :=
  startMain i cause (powerDown final (rtcSet s))

/-- A reset is ordered: it waits for the end of a running Quench path (R676). -/
def orderReset (i : StartIn) (cause : Nat) (s : State) : State :=
  if s.tm.quenchBusy then
    { s with pwr := { s.pwr with resetWaits := some (if s.pwr.resetWaits = some 1 then 1 else cause) } }
  else resetModule i cause true s

/-- The SoC is held in reset after the sequence (R675). -/
def holdReset (s : State) : State :=
  let s1 := dropMain (powerDown true (rtcSet s))
  { s1 with pwr := { s1.pwr with resetHeld := true } }

/-- RESET_N_ASSERT (R675): a low level of 10 µs or longer; `held`: it stays low, and the start follows its rising edge. -/
def execResetNAssert (held : Bool) (i : StartIn) (s : State) : Host.Outcome State Fault Refusal :=
  if s.pwr.good = false ∨ s.pwr.resetHeld = true then .next s
  else if held && !s.tm.quenchBusy then .next (holdReset s)
  else
    let s1 := orderReset i 1 s
    .next (if held then { s1 with pwr := { s1.pwr with holdNext := true } } else s1)

/-- RESET_N_RELEASE (R675). -/
def execResetNRelease (i : StartIn) (s : State) : Host.Outcome State Fault Refusal :=
  if s.pwr.good && s.pwr.resetHeld then .next (startMain i 1 s)
  else .next { s with pwr := { s.pwr with holdNext := false } }

/-- MODULE_RESET_REQUEST (R673): HIF_RESET_CTRL acts on 0x4E58 alone. -/
def execModuleResetRequest (value : Nat) (i : StartIn) (s : State) : Host.Outcome State Fault Refusal :=
  viaBar 0 s <|
  if value = 0x4E58 then .next (orderReset i 2 s) else .next s

/-- A trial that has not been committed fails at a watchdog reset (R669). -/
def failTrial (s : State) : State :=
  if s.pwr.trial && s.pwr.trialPending then { s with pwr := { s.pwr.untried with trialFailed := true } } else s

/-- An item of a group has been ready for 2 s, and a present core in service serves the group. -/
def groupStalled (s : State) (g : Nat) : Bool :=
  decide (g < 14) && groupServed s g 48 && (Tbl.get [] s.ts.ready g).any fun id =>
    (s.item? id).any fun i => decide (i.readyAt + 2 * 32768 ≤ s.sck.rtcCount)

/-- A watchdog has expired (R677): no checkpoint for 5 s, nothing dispatched for 2 s, or no end of the start for 10 s. -/
def watchdogExpired (cause : Nat) (s : State) : Bool :=
  let t := s.sck.rtcCount
  match cause with
  | 3 => s.arc.ready && !s.arc.stopped && decide (s.arc.cpAt + 5 * 32768 ≤ t)
  | 4 => decide (s.ts.dispatchAt + 2 * 32768 ≤ t) && (List.range 14).any (groupStalled s)
  | 5 => decide (s.pwr.phase < 4) && decide (s.pwr.startedAt + 10 * 32768 ≤ t)
  | _ => false

/-- WATCHDOG_RESET (R677): the checkpoint (3), dispatch (4) or start-up (5) watchdog. `final`: the FINAL checkpoint's signature
completes in time (R674). -/
def execWatchdogReset (cause : Nat) (final : Bool) (i : StartIn) (s : State) : Host.Outcome State Fault Refusal :=
  if s.running && watchdogExpired cause s then .next (resetModule i cause final (failTrial s)) else .next s

/-- QUENCH_W_PATH (R605, R606): the Quench path runs to its end; `failed` names the banks that did not read back as zero. A reset
that waited for it follows (R676). -/
def execQuenchWPath (failed : List (Nat × Nat)) (i : StartIn) (s : State) : Host.Outcome State Fault Refusal :=
  if s.tm.quenchBusy then
    let s1 := quenchFinish failed s
    match s1.pwr.resetWaits with
    | none => .next s1
    | some cause => if s1.pwr.holdNext then .next (holdReset s1) else .next (resetModule i cause true s1)
  else .next s

/-! ### Supplies (R655 to R659, R608, R613) -/

/-- The standby domain is no longer fed. -/
def unfeedStandby (s : State) : State :=
  { s with pwr := { s.pwr with standbyIn := false, standbyFed := false }, io := { s.io with ready := false } }

/-- STANDBY_INPUT_LOSS (R659): the 3.3 V input falls; while power-good holds only the feed changes. -/
def execStandbyInputLoss (s : State) : Host.Outcome State Fault Refusal :=
  if s.pwr.standbyIn = false then .next s
  else if s.pwr.good then
    .next (raiseEvent .pwr 0 4 { s with pwr := { s.pwr with standbyIn := false }, io := { s.io with alerts := s.io.alerts ||| 2 } })
  else .next (unfeedStandby s)

/-- STANDBY_INPUT_RETURN (R655, R722, R725): the straps are read where the standby domain starts. -/
def execStandbyInputReturn (a0 a1 : Bool) (s : State) : Host.Outcome State Fault Refusal :=
  let s1 := { s with pwr := { s.pwr with standbyIn := true, standbyFed := true, backupFed := true } }
  if s.pwr.standbyFed then .next s1 else .next { s1 with io := { s1.io with a0, a1, ready := true } }

/-- SNOWDROP_ENTRY (R608): neither input is present. -/
def execSnowdropEntry (s : State) : Host.Outcome State Fault Refusal :=
  if s.pwr.good then .next s else .next (unfeedStandby { s with pwr := { s.pwr with main := false } })

/-- SUPPLY_OUT_OF_RANGE (R657): the 12 V input reads `mv` while power-good holds. -/
def execSupplyOutOfRange (mv : Nat) (s : State) : Host.Outcome State Fault Refusal :=
  if s.pwr.good then
    let s1 := { s with pwr := { s.pwr with mainMv := satTo 0xFFFF mv } }
    if mv < 10800 ∨ 13200 < mv then
      .next (raiseEvent .pwr 0 3 { s1 with io := { s1.io with alerts := s1.io.alerts ||| 2 } })
    else .next s1
  else .next s

/-- BACKUP_POWER_LOSS (R613, R743): the cell is exhausted in Snowdrop. BBKR, the staging buffer and the RTC are lost, and every
interval of RTC time ends, the running hour of R259 included. -/
def execBackupPowerLoss (s : State) : Host.Outcome State Fault Refusal :=
  if inSnowdrop s then
    .next { s with
      key := s.key.unrooted,
      tm := { s.tm with staging := [], overflow := 0, bitmap := 0, backupLost := true, hours := [], hour := 0, lastLogic := none },
      sck := { s.sck with rtcNs := 0, rtcCount := 0, rtcFrac := 0, rtcSetCount := 0, rtcLost := true },
      arc := { s.arc with hours := rollHours 1 s.arc.hourNow s.arc.hours, hourNow := 0, hourIndex := 0 },
      pwr := { s.pwr with backupFed := false } }
  else .next s

end Sys2Proof.Machine
end

