-- ==== Sys2Proof/Machine/RegRead.lean ====
section
/-! DEFINITION. What every register reads as (18, Tables 18-5 and 18-6): the registers are views of the state that the module
keeps elsewhere. -/

namespace Sys2Proof.Machine

/-- Low and high half of a 64-bit value. -/
def lo32 (v : Nat) : Nat := v % 2 ^ 32
def hi32 (v : Nat) : Nat := v / 2 ^ 32 % 2 ^ 32

/-- Value of an event status register. -/
def evStatus (s : State) (b : EvBlock) (f : Nat) : Nat := (s.evReg b f).status

/-- Value of an event enable register, with the bits that are always enabled. -/
def evEnable (s : State) (b : EvBlock) (f : Nat) : Nat := (s.evReg b f).enable ||| b.always

/-- The event registers of a function: status offset, block and mask of the enable bits that software writes. -/
def fnEvents : List (Nat × EvBlock × Nat) := [(0x0010, .hif, 0xE), (0x1020, .key, 0x1F), (0x2100, .fe, 0x7E)]

/-- The event registers of the PF alone. -/
def pfEvents : List (Nat × EvBlock × Nat) :=
  [(0x3014, .arc, 0x1F), (0x3404, .pke, 0x1F), (0x3804, .rnu, 0xF), (0x4200, .vf, 0x3), (0x49C0, .ts, 0x3F),
   (0x4A74, .qm, 0x1FFF), (0x5084, .ac, 0x3F), (0x543C, .tm, 0x1E), (0x582C, .lcc, 0xF), (0x5C20, .stc, 0x7), (0x6024, .pwr, 0x1F),
   (0x6460, .sck, 0x7F)]

/-- Which event register stands at an offset: its block, the mask of its writable enable bits, and whether it is the enable
register. -/
def eventAt (off : Nat) : List (Nat × EvBlock × Nat) → Option (EvBlock × Nat × Bool)
  | [] => none
  | (o, b, m) :: t => if off = o then some (b, m, false) else if off = o + 4 then some (b, m, true) else eventAt off t

/-! ### Registers of every function (Table 18-5) -/

/-- Code of a migration state (Table 12-6). -/
def migrationCode : Migration → Nat
  | .normal => 0 | .frozen => 1 | .restored => 2

/-- SCK_ERROR_BOUND: whole ns, rounded up; all ones while no bound is known. -/
def errorBoundNs (k : Sck) : Nat := if k.bounded then satTo max32 ((k.e + (eUnit - 1)) / eUnit) else max32

/-- PLN_PART_STATUS. -/
def partStatus : Option Partition → Nat
  | none => 0
  | some p =>
    let armed := p.standby == .armed || p.standby == .draining
    1 + 2 * b2n p.active.isSome + 4 * standbyCode p.standby + 32 * b2n (armed && p.rollback)
      + 64 * b2n (p.standby == .armed && p.deferred)

/-- TM_LEVEL. -/
def levelWord (s : State) : Nat := s.level + 4 * b2n s.tm.clearHold + 8 * b2n s.tm.releaseHold

/-- LCC_STATE. -/
def lifeWord (c : Lcc) : Nat :=
  lifeCode c.st + 8 * b2n c.target.isSome + 16 * (c.target.map lifeCode).getD 0 + 128 * b2n c.resumed

/-- KEY_STATUS. -/
def keyWord (s : State) (f : Nat) : Nat :=
  b2n s.key.rootPresent + 2 * b2n ((s.dom f).tenant.isSome || (f == 0 && hasOfficer s 0)) + 4 * b2n (decide (1 ≤ s.level))
    + 8 * b2n (s.dom f).migKey.isSome

/-- FE_FAIL_STATE. -/
def failWord (s : State) (f : Nat) : Nat :=
  match s.part? f with
  | none => 0
  | some p =>
    let es := entriesOf p.active
    b2n (es.any fun x => underKey s.level s f x.1 x.2) + 2 * b2n (!s.sck.valid && es.any fun x => x.2.slotRate != 0)

/-- The counter latch of a function. -/
def State.latchOf (s : State) (f : Nat) : CtrLatch := Tbl.get {} s.fe.latch f

/-- FE_STREAM_CTR_STATUS. -/
def latchStatus (l : CtrLatch) : Nat := b2n l.valid + 2 * b2n l.notOwned + 4 * b2n l.unused + 8 * b2n l.lost

/-- PKE_CURVE_USE. -/
def curveUse (s : State) (f : Nat) : Nat :=
  (List.range 8).foldl (fun v i => v + 2 ^ i * b2n (Tbl.has s.pke.curves (f * 256 + 0x80 + i))) 0

/-- RNU_STATUS. -/
def rnuWord (r : Rnu) : Nat := rnuCode r.st + 8 * b2n r.pattern + 16 * (r.attempts % 4)

/-- The registers of a ring, 32 bytes each from 0x1800 on. -/
def ringReg (s : State) (f ring k : Nat) : Nat :=
  let r := s.ring f ring
  match k with
  | 0x00 => lo32 r.base
  | 0x04 => hi32 r.base
  | 0x08 => lo32 r.mirror
  | 0x0C => hi32 r.mirror
  | 0x10 => r.cfgWord
  | 0x14 => r.modWord
  | 0x18 => b2n r.active + 2 * b2n r.draining + 4 * b2n r.haltHere + 16 * r.cfgCause + 2 ^ 16 * satTo 0xFFFF r.entries.length
  | 0x1C => r.h
  | _ => 0

/-- The MSI-X table: message address, data, vector control. -/
def msixReg (s : State) (f off : Nat) : Nat :=
  let e := (Tbl.find? (off / 16) (s.func f).msix.table).getD (0, 0, true)
  match off % 16 with
  | 0 => lo32 e.1
  | 4 => hi32 e.1
  | 8 => e.2.1
  | _ => b2n e.2.2

/-- The 32-bit registers of every function. -/
def fnReg (s : State) (f off : Nat) : Nat :=
  let v := s.func f
  let d := s.dom f
  let p := s.part? f
  match off with
  | 0x0000 => b2n v.halted + 2 * b2n v.bme + 256 * v.ringsAllotted
  | 0x0004 => v.haltCause + 256 * v.haltRing + 2 ^ 16 * v.haltOpcode
  | 0x0008 => v.haltCount
  | 0x000C => s.ctxInUse f + 2 ^ 16 * v.ctxQuota
  | 0x0020 => v.dpState + 4 * b2n v.dpLengthKnown + 8 * b2n v.dpProtocol + 256 * v.dpRing
  | 0x0024 => v.dpOwner
  | 0x0044 => s.dpTimeout f
  | 0x0048 => if f = 0 then 0 else migrationCode v.migration
  | 0x0400 => timeStatusWord s.sck
  | 0x0410 => errorBoundNs s.sck
  | 0x0414 => cycleAngle s.sck
  | 0x0418 => if s.sck.angleSt = .lost then 0 else s.sck.freq
  | 0x0800 => partStatus p
  | 0x0804 => ((p.bind (·.active)).map (·.version)).getD 0
  | 0x0808 => (p.map (·.heldVersion)).getD 0
  | 0x080C => Tbl.get 0 s.pln.highest f
  | 0x0A00 => levelWord s
  | 0x0B00 => lifeWord s.lcc
  | 0x0C00 => v.delayQuota
  | 0x0C04 => s.delayUsed f
  | 0x0C08 => s.heldCells f + 2 ^ 16 * s.watchCount f
  | 0x1000 => keyWord s f
  | 0x1004 => s.slotsUsed f + 2 ^ 16 * v.keyQuota
  | 0x1008 => fieldOf (s.reg f 0x1008 0x64) 13 0
  | 0x1010 => lo32 d.temper
  | 0x1014 => hi32 d.temper
  | 0x1018 => d.epoch
  | 0x2108 => failWord s f
  | 0x2140 => (s.latchOf f).entry
  | 0x2144 => latchStatus (s.latchOf f)
  | 0x3440 => curveUse s f
  | 0x3800 => rnuWord s.rnu
  | _ =>
    if 0x1800 ≤ off ∧ off < 0x2000 then ringReg s f ((off - 0x1800) / 32) ((off - 0x1800) % 32)
    else if 0x3C00 ≤ off ∧ off < 0x3E00 then msixReg s f (off - 0x3C00)
    else match eventAt off fnEvents with
      | some (b, _, true) => evEnable s b f
      | some (b, _, false) => evStatus s b f
      | none => 0

/-! ### Registers of the PF (Table 18-6) -/

/-- FE_PORT_STATUS. -/
def portStatus (s : State) (p : Nat) : Nat :=
  let bypass := s.macsecOn p && s.portFailOpen p && !(s.port p).conds.isEmpty
  b2n (s.port p).linkUp + 2 * b2n (s.secured p) + 4 * b2n bypass + 8 * b2n (s.port p).lanDead + 16 * b2n (s.portAbsent p)

/-- ARC_STATUS. -/
def arcStatus (s : State) : Nat :=
  let a := s.arc
  b2n a.ready + 2 * a.govLevel + 8 * b2n (a.ready && allowanceAfter a s.sck.rtcCount 0 == 0) + 16 * b2n a.reserveInUse + 32 * b2n a.reserveFull + 64 * b2n a.stopped
    + 128 * b2n a.truncated

/-- ARC_ZONES_FREE: window zones past retention count as free. -/
def zonesFree (s : State) : Nat :=
  s.arc.poolFree + Tbl.count (fun _ z => z.log == 2 && pastRetention s z) (closedZones s) + 2 ^ 16 * s.arc.reserveFree

/-- A bit for each engine that satisfies `p`. -/
def engineBits (s : State) (p : Nat → Bool) : Nat :=
  (List.range 8).foldl (fun v e => v + 2 ^ e * b2n (enginePresent s e && p e)) 0

/-- PKE_ENGINE_STATUS. -/
def engineStatus (s : State) : Nat :=
  engineBits s (fun _ => true) + 2 ^ 8 * engineBits s (fun e => (s.engine e).inService)
    + 2 ^ 16 * engineBits s (fun e => (s.engine e).op.isSome)

/-- Code of a core's state (R553). -/
def coreCode : CoreState → Nat
  | .absent => 0 | .waiting => 1 | .running => 2 | .restarting => 3 | .outOfService => 4

/-- TS_CORE_STATUS. -/
def coreStatus (v : CoreRt) : Nat :=
  coreCode v.st + 2 ^ 8 * v.group + 2 ^ 16 * satTo 0xFF v.declared + 2 ^ 24 * satTo 0xFF v.restarts

/-- HIF_VF_STATE of a VF; an FLR is over when its command is. -/
def vfState (v : Func) : Nat := b2n v.setUp + 2 * migrationCode v.migration + 2 ^ 16 * v.portScope

/-- TM_PRESENT. -/
def presentWord (s : State) : Nat :=
  let bit (i cause source : Nat) : Nat := 2 ^ i * b2n (isPresent s cause source)
  b2n s.tm.lightA + 2 * b2n s.tm.lightB + bit 2 causeMesh 0 + bit 3 causeLoop 0 + bit 4 causeLoop 1 + bit 5 causeLoop 2
    + bit 6 causeLoop 3 + 2 ^ 7 * b2n (s.tm.present.any fun x => x.1 == causeMonitorFault) + bit 8 causeMainOver 0
    + bit 9 causeStandbyOver 0 + bit 10 causeCellLow 0 + bit 11 causeOcxo 0 + bit 12 causeTempLimit 0 + bit 13 causeTempWarn 0
    + bit 14 causeArchiveReserve 0

/-- TM_LOOP_CFG; SNOWDROP_ARM reads 1 while LEVEL is Quench-R. -/
def loopWord (cfg : Nat) : Nat := if fieldOf cfg 2 1 = 3 then setField cfg 3 3 1 else cfg

/-- Seconds left of the token in force. -/
def tokenLeft (s : State) : Nat := (s.lcc.token.map fun t => t.until_ - rtcSeconds s).getD 0

/-- STC_STATUS. -/
def stcStatus (c : Stc) : Nat :=
  c.pipes + 16 * c.testing + 2 ^ 8 * b2n c.rolling + 2 ^ 9 * b2n c.rollSuspended + 2 ^ 10 * b2n c.passed + 2 ^ 11 * b2n c.hold

/-- PWR_STATUS. -/
def pwrStatus (p : Pwr) : Nat :=
  p.phase + 8 * b2n p.lupin + 16 * b2n p.lupinNext + 32 * p.running.getD 0 + 64 * b2n (p.trial && p.trialPending)
    + 128 * b2n p.standbyIn + 2 ^ 8 * p.resetCause + 2 ^ 12 * b2n p.watchdog

/-- PWR_FW_SLOT. -/
def slotWord (v : FwSlot) : Nat := v.st + 4 * v.role + 2 ^ 16 * (if v.st = 0 then 0 else v.sec)

/-- SCK_REF_STATUS. -/
def refStatus (s : State) (r : Nat) : Nat :=
  let v := s.ref r
  refCode v.st + 2 ^ 8 * v.declared
    + 2 ^ 16 * (if v.st = .qualifying ∨ v.st = .qualified then satTo 0xFFFF (v.qualUs / 1000000) else 0)

/-- An integer as a 32-bit two's complement word, saturating. -/
def sat32 (x : Int) : Nat :=
  let y := if x > 0x7FFFFFFF then 0x7FFFFFFF else if x < -0x80000000 then -0x80000000 else x
  (y % 2 ^ 32).toNat

/-- SCK_REF_OFFSET. -/
def refOffset (s : State) (r : Nat) : Nat :=
  let v := s.ref r
  if v.st = .absent ∨ v.st = .disabled then 0 else sat32 v.offset

/-- What host software reads of a slot clock setting: the stored value, and FROM_PTP of SCK_UTC_OFFSET. -/
def settingWord (s : State) (off : Nat) : Nat :=
  s.reg 0 off (sckReset off) + (if off = 0x6424 then 256 * b2n s.sck.ptpUtc.isSome else 0)

/-- A register of an array of `n` from `base` in steps of `step`: its index. -/
def arrayAt (off base step n : Nat) : Option Nat :=
  if base ≤ off ∧ (off - base) % step = 0 ∧ (off - base) / step < n then some ((off - base) / step) else none

/-- The arrays of 32-bit registers in the PF. -/
def pfArray (s : State) (off : Nat) : Option Nat :=
  (arrayAt off 0x2200 4 12).map (fun p => if s.portAbsent p then 0 else s.markVid p)
  <|> (arrayAt off 0x2300 4 12).map (fun p => if s.portAbsent p then 0 else s.portCfg p)
  <|> (arrayAt off 0x2340 4 4).map s.pairCfg
  <|> (arrayAt off 0x2380 4 12).map (portStatus s)
  <|> (arrayAt off 0x3410 4 8).map (fun e => satTo 0xFFFF (s.engine e).mismatches + 2 ^ 16 * satTo 0xFFFF (s.engine e).slotErrors)
  <|> (arrayAt off 0x4004 4 63).map (fun i => vfState (s.func (i + 1)))
  <|> (arrayAt off 0x4104 4 63).map (fun i => (s.func (i + 1)).discards)
  <|> (arrayAt off 0x4800 4 14).map s.groupCfg
  <|> (arrayAt off 0x4840 4 48).map (fun c => if c < s.coreCount then s.coreGroups c else 0)
  <|> (arrayAt off 0x4900 4 48).map (fun c => coreStatus (s.coreRt c))
  <|> (arrayAt off 0x4A10 4 12).map (fun p => if s.portAbsent p then 0 else s.queueLevel p)
  <|> (arrayAt off 0x4A40 4 12).map (fun p => (s.queue p).cells)
  <|> (arrayAt off 0x5040 4 13).map (Tbl.get 0 s.ac.integ)
  <|> (arrayAt off 0x5410 4 4).map (fun n => loopWord (s.loopCfg n))
  <|> (arrayAt off 0x5800 4 4).map (fun i => lo32 (s.lcc.bootId / 2 ^ (32 * i)))
  <|> (arrayAt off 0x6400 4 12).map (fun i => settingWord s (0x6400 + 4 * i))
  <|> (arrayAt off 0x6440 4 4).map (refStatus s)
  <|> (arrayAt off 0x6450 4 4).map (refOffset s)

/-- The 32-bit registers of the PF alone. -/
def pfReg (s : State) (off : Nat) : Nat :=
  match off with
  | 0x0088 => b2n s.hif.ideRequired + 2 * b2n s.hif.linkSecure + 4 * s.hif.selectiveSecure
  | 0x008C => s.hif.discardCount
  | 0x2400 => s.fe.portLatch.entry
  | 0x2404 => b2n s.fe.portLatch.valid
  | 0x3000 => arcStatus s
  | 0x3004 => s.ringZones
  | 0x3008 => s.retentionDays
  | 0x300C => budgetUsed s + 2 ^ 16 * (if s.arc.ready then allowanceAfter s.arc s.sck.rtcCount 0 / 100000000 else 0)
  | 0x3010 => zonesFree s
  | 0x3400 => engineStatus s
  | 0x380C => s.rnu.cause + 16 * s.rnu.source + 32 * b2n s.rnu.startup
  | 0x3818 => s.rnu.failures
  | 0x3820 => if s.lcc.st = .maker then b2n s.rnu.pattern + 2 ^ 16 * s.rnu.patternSeed else 0
  | 0x49C8 => s.ts.redispatches
  | 0x49CC => s.ts.staleWrites
  | 0x4A00 => freeCells s.ts
  | 0x4A70 => s.ts.lost
  | 0x5000 => b2n s.ac.rulesLoaded + 2 * b2n s.ac.upd.isSome
  | 0x5004 => s.ac.denyCount
  | 0x5008 => (s.ac.record.map (·.1)).getD 0
  | 0x500C => (s.ac.record.map fun r => r.2.1 + 16 * b2n r.2.2.1 + 32 + 256 * r.2.2.2).getD 0
  | 0x5010 => s.ac.retried
  | 0x5014 => s.ac.failed
  | 0x5080 => s.ac.passes
  | 0x5400 =>
    levelWord s + 16 * b2n s.tm.quenchW + 32 * b2n s.tm.quenchR + 64 * b2n s.tm.quenchBusy + 128 * b2n s.tm.ready
  | 0x5404 => presentWord s
  | 0x5420 => s.tm.journal.length + 2 ^ 15 * b2n s.tm.full + 2 ^ 16 * s.tm.stagedLast + 2 ^ 22 * b2n s.tm.overflowLast
  | 0x5430 => fieldOf (s.reg 0 0x5430 0) 15 0
  | 0x5434 => let c := fieldOf (s.reg 0 0x5430 0) 15 0; if allCauses.contains c then Tbl.get 0 s.tm.counters c else 0
  | 0x5438 => s.tm.cellMv % 4096 + 2 ^ 16 * (s.tm.dieTemp % 256).toNat
  | 0x5810 => s.lcc.wipeStep + 2 ^ 16 * s.lcc.rounds
  | 0x5820 => b2n s.lcc.token.isSome + 2 ^ 8 * (s.lcc.token.map (·.scope)).getD 0
  | 0x5824 => tokenLeft s
  | 0x5C00 => stcStatus s.stc
  | 0x5C04 => s.stc.period
  | 0x5C08 => s.stc.passes + 2 ^ 24 * s.stc.fails
  | 0x5C10 => s.stc.fail0
  | 0x5C14 => s.stc.fail1
  | 0x5C18 => s.stc.fail2
  | 0x6000 => pwrStatus s.pwr
  | 0x6004 => s.pwr.startTime
  | 0x6008 => s.pwr.mainMv + 2 ^ 16 * s.pwr.standbyMv
  | 0x600C => s.pwr.power
  | 0x6010 => slotWord s.pwr.slot0
  | 0x6014 => slotWord s.pwr.slot1
  | 0x6018 => if s.pwr.slot0.st = 0 then 0 else s.pwr.slot0.version
  | 0x601C => if s.pwr.slot1.st = 0 then 0 else s.pwr.slot1.version
  | 0x6020 => s.pwr.floor
  | _ =>
    match eventAt off pfEvents with
    | some (b, _, true) => evEnable s b 0
    | some (b, _, false) => evStatus s b 0
    | none => (pfArray s off).getD 0

/-! ### The map of a function (R687 to R689, R693) -/

/-- The 64-bit registers: value, and whether a LATCH field latches it. -/
def reg64 (s : State) (f off : Nat) : Option (Nat × Bool) :=
  let v := s.func f
  match off with
  | 0x0028 => some (v.dpPos, false)
  | 0x0030 => some (v.dpLimit, false)
  | 0x0038 => some (if v.dpState = 2 ∧ v.dpLengthKnown = false then max64 else v.dpLength, false)
  | 0x0408 => some (toStamp s.sck.now, false)
  | 0x3E00 => some (v.msix.pending.foldl (fun w i => w + 2 ^ i) 0, false)
  | _ =>
    match arrayAt off 0x2150 8 14 with
    | some n => some (ctrAt n (s.latchOf f).data, true)
    | none =>
      if f ≠ 0 then none
      else if off = 0x0080 then some ((List.range 63).foldl (fun w i => w + 2 ^ (i + 1) * b2n (s.func (i + 1)).halted) 0, false)
      else if off = 0x3810 then some (s.rnu.failPos, false)
      else (arrayAt off 0x2410 8 19).map fun n => (ctrAt n s.fe.portLatch.data, true)

/-- A 32-bit register of a function's BAR0; an offset that the tables do not name reads zero (R688). -/
def reg32 (s : State) (f off : Nat) : Nat :=
  if off % 4 ≠ 0 ∨ 63 < f then 0
  else if f = 0 then (if fnReg s 0 off = 0 then pfReg s off else fnReg s 0 off)
  else if off < 0x4000 then fnReg s f off
  else 0

/-- Before host service opens, registers read their reset values (R665); LCC_STATE is shown from the first access. In HOLD and
in RECOVERY no plan is restored (R660, R672): the plan registers keep their reset values (R139). -/
def readView (s : State) : State :=
  if s.pwr.phase < 2 then { ident := s.ident, lcc := { st := s.lcc.st, target := s.lcc.target, resumed := s.lcc.resumed } }
  else if s.pwr.phase = 5 ∨ s.pwr.phase = 6 then { s with pln := {} }
  else s

end Sys2Proof.Machine
end

