-- ==== Sys2Proof/Machine/Registers.lean ====
section
/-! DEFINITION. Register reads and writes of host software, the store of class S registers, and the slot clock settings (18). -/

namespace Sys2Proof.Machine

/-! ### Reads (R687, R693, R695) -/

/-- Remember, or forget, the value that a read of a low half has captured. -/
def setSplit (f off : Nat) (v : Option Nat) (s : State) : State :=
  s.updFunc f fun g => { g with split := match v with
    | some w => Tbl.put off w g.split
    | none => Tbl.del off g.split }

/-- A 4-byte read: the low half of an unlatched 64-bit register captures the whole register, and a high-half read that follows it
returns the captured half (R693). -/
def read4 (f off : Nat) (s : State) : Nat × State :=
  match reg64 (readView s) f off with
  | some (v, true) => (lo32 v, s)
  | some (v, false) => (lo32 v, setSplit f off (some v) s)
  | none =>
    match (if 4 ≤ off then reg64 (readView s) f (off - 4) else none) with
    | some (v, true) => (hi32 v, s)
    | some (v, false) => (hi32 ((Tbl.find? (off - 4) (s.func f).split).getD v), setSplit f (off - 4) none s)
    | none =>
      (reg32 (readView s) f off,
       if f = 0 ∧ off = 0x5008 then { s with ac := { s.ac with record := none } } else s)

/-- An 8-byte read: one consistent value of a 64-bit register, or two 4-byte reads, the lower offset first. -/
def read8 (f off : Nat) (s : State) : Nat × State :=
  match reg64 (readView s) f off with
  | some (v, _) => (v, setSplit f off none s)
  | none =>
    let a := read4 f off s
    let b := read4 f (off + 4) a.2
    (a.1 + 2 ^ 32 * b.1, b.2)

/-- A read of a function's BAR0; one of another size or alignment returns zero (R687). -/
def barRead (f off len : Nat) (s : State) : Nat × State :=
  if len = 4 ∧ off % 4 = 0 then read4 f off s else if len = 8 ∧ off % 8 = 0 then read8 f off s else (0, s)

/-- SPLIT_REGISTER_READ (R693): a read of a register by offset and length. -/
def execSplitRegisterRead (f offset len : Nat) (s : State) : Host.Outcome State Fault Refusal :=
  viaBar f s <|
  let a := barRead f offset len s
  .next (emit (.read f offset a.1) a.2)

/-! ### Slot clock settings (R692, R699 to R703) -/

/-- A two's complement logarithm from −4 to 1. -/
def logOk (x : Nat) : Bool := x == 0 || x == 1 || decide (12 ≤ x)

/-- A priority list names no reference twice and none after "none" (SCK_REF_PRIORITY). -/
def priorityOk (a b c : Nat) : Bool :=
  (a != 3 || (b == 3 && c == 3)) && (b != 3 || c == 3) && (a == 3 || a != b) && (b == 3 || b != c) && (a == 3 || a != c)

/-- The writable fields of a slot clock setting lie in their ranges. -/
def settingOk (off v : Nat) : Bool :=
  match off with
  | 0x6400 => priorityOk (fieldOf v 1 0) (fieldOf v 3 2) (fieldOf v 5 4)
  | 0x6404 => decide (100 ≤ fieldOf v 19 0) && decide (fieldOf v 19 0 ≤ 1000000)
  | 0x6408 => decide (10 ≤ fieldOf v 11 0) && decide (fieldOf v 11 0 ≤ 3600) && decide (1 ≤ fieldOf v 25 16)
      && decide (fieldOf v 25 16 ≤ 600)
  | 0x640C => decide (1 ≤ fieldOf v 9 0) && decide (fieldOf v 9 0 ≤ 1000)
  | 0x6410 => decide (6 ≤ fieldOf v 23 16) && decide (fieldOf v 23 16 ≤ 254)
  | 0x6414 => logOk (fieldOf v 3 0) && decide (fieldOf v 7 4 ≤ 2) && logOk (fieldOf v 11 8)
  | 0x641C => decide (fieldOf v 19 0 ≤ 1000000) && fieldOf v 21 20 != 3
  | 0x6420 => decide (1 ≤ fieldOf v 29 16) && decide (fieldOf v 29 16 ≤ 10000)
  | 0x6428 => decide (fieldOf v 14 8 ≤ 100)
  | _ => true

/-- Its writable bits. -/
def settingMask : Nat → Nat
  | 0x6400 => 0x73F
  | 0x6404 => 0xFFFFF
  | 0x6408 => 0x3FF0FFF
  | 0x640C => 0x3FF
  | 0x6410 => 0xFFFF07
  | 0x6414 => 0xFFF
  | 0x6418 => 0xFFFF
  | 0x641C => 0x3FFFFF
  | 0x6420 => 0x3FFF0001
  | 0x6424 => 0xFF
  | 0x6428 => 0x7F01
  | _ => 0x81FFFFFF

/-- A write to a slot clock setting: ignored as a whole with SETTING_IGNORED where a field is out of range, else it waits to be
stored (R691, R692). -/
def writeSetting (off value : Nat) (s : State) : State :=
  if settingOk off value then queueWrite (regKey 0 off) (value &&& settingMask off) s else raiseEvent .sck 0 6 s

/-- REF_PRIORITY_WRITE (R700). Its effect comes with SETTING_STORE and SETTING_TAKES_EFFECT. -/
def execRefPriorityWrite (value : Nat) (s : State) : Host.Outcome State Fault Refusal :=
  viaBar 0 s (.next (writeSetting 0x6400 value s))

/-- PTP_CFG_WRITE (R701). -/
def execPtpCfgWrite (value : Nat) (s : State) : Host.Outcome State Fault Refusal :=
  viaBar 0 s (.next (writeSetting 0x6410 value s))

/-- TEN_MHZ_CFG_WRITE (R702). -/
def execTenMhzCfgWrite (value : Nat) (s : State) : Host.Outcome State Fault Refusal :=
  viaBar 0 s (.next (writeSetting 0x6420 value s))

/-- REF_CHANNEL_WRITE (R703, R74). -/
def execRefChannelWrite (value : Nat) (s : State) : Host.Outcome State Fault Refusal :=
  viaBar 0 s (.next (writeSetting 0x642C value s))

/-! ### Settings of the archive and of the tamper loops (R253, R598) -/

/-- Largest capture ring, in zones (Table 06-2). -/
def ringMax (b : Bool) : Nat := if b then 3725 else 7451

/-- A write to ARC_RING_ZONES within the range of Table 06-2 waits to be stored. -/
def writeRingZones (value : Nat) (s : State) : State :=
  if fieldOf value 15 0 ≤ ringMax s.ident.nx880b then queueWrite (regKey 0 0x3004) (fieldOf value 15 0) s else s

/-- RING_ZONES_WRITE (R253). The ring takes its new size when the value is stored. -/
def execRingZonesWrite (value : Nat) (s : State) : Host.Outcome State Fault Refusal :=
  viaBar 0 s (.next (writeRingZones value s))

/-- A write would loosen a loop's settings (R598). -/
def loosens (old new : Nat) : Bool :=
  (bitOf old 0 && !bitOf new 0) || decide (fieldOf new 2 1 < fieldOf old 2 1) || decide (fieldOf old 13 4 < fieldOf new 13 4)
    || (bitOf (loopWord old) 3 && !bitOf (loopWord new) 3)

/-- A write to TM_LOOP_CFG: ignored where DEBOUNCE is out of range, and in Fielded where it loosens. -/
def writeLoopCfg (loop value : Nat) (s : State) : State :=
  let key := regKey 0 (0x5410 + 4 * loop)
  let new := fieldOf value 13 0
  if 3 < loop ∨ 1000 < fieldOf value 13 4 then s
  else if s.lcc.st = .fielded ∧ loosens (s.soon key (s.loopCfg loop)) new = true then s
  else queueWrite key new s

/-- LOOP_CFG_WRITE (R598). -/
def execLoopCfgWrite (loop value : Nat) (s : State) : Host.Outcome State Fault Refusal :=
  viaBar 0 s (.next (writeLoopCfg loop value s))

/-- A loop's stored settings take effect: one enabled while its wiring reports a break raises its alarm at once; one disabled has
no condition. -/
def applyLoop (n : Nat) (s : State) : State :=
  if bitOf (s.loopCfg n) 0 then
    match Tbl.find? n s.tm.loopOpen with
    | some data => raiseAlarm causeLoop n data s
    | none => s
  else { s with tm := { s.tm with present := s.tm.present.filter (· != (causeLoop, n)) } }

/-! ### The store of class S registers (R691) -/

/-- What a stored value of the PF's register at `off` brings with it. -/
def applyStored (off value : Nat) (s : State) : State :=
  match arrayAt off 0x2300 4 12, arrayAt off 0x2340 4 4, arrayAt off 0x5410 4 4 with
  | some p, _, _ => applyPortCfg p value s
  | _, some q, _ => applyPairCfg q value s
  | _, _, some n => applyLoop n s
  | _, _, _ =>
    if off = 0x3004 then shrinkRing (s.arc.held 1) s
    else if off = 0x3408 then
      { s with ev := Tbl.upd {} (evKey .pke 0) (fun r => { r with enable := value }) s.ev }
    else if 0x6400 ≤ off ∧ off ≤ 0x642C then
      { s with sck := { s.sck with waiting := if s.sck.waiting.contains off then s.sck.waiting else s.sck.waiting ++ [off] } }
    else s

/-- A whole value has been written to the configuration store, and takes effect. -/
def storeValue (key value : Nat) (s : State) : State :=
  let port := decide (0x2300 ≤ key) && decide (key < 0x2350)
  let s1 := { s with store := Tbl.put key value s.store, rw := if port then s.rw else Tbl.put key value s.rw }
  if key < 65536 then applyStored key value s1 else s1

/-- SETTING_STORE (R691): the oldest write to a register of class S is stored and takes effect. -/
def execSettingStore (s : State) : Host.Outcome State Fault Refusal :=
  onMain s <|
  match s.writes with
  | [] => .next s
  | (key, value) :: t => .next (storeValue key value { s with writes := t })

/-! ### Writes (R687, R688, R692, R694) -/

/-- The state a row of its own leaves. -/
def stateOf (s : State) : Host.Outcome State Fault Refusal → State
  | .next t => t
  | _ => s

/-- A write to a ring's registers (R418, R420, R692): while the ring is active its base, mirror, moderation and configuration keep
their values, and ENABLE alone acts. -/
def writeRing (f ring k value : Nat) (s : State) : State :=
  let r := s.ring f ring
  if k = 0x10 ∧ bitOf value 31 = true then stateOf s (execRingEnable f ring value s)
  else if k = 0x10 ∧ r.enabled = true then stateOf s (execRingDrain f ring s)
  else if r.active then s
  else match k with
    | 0x00 => s.setRing f ring { r with base := value + 2 ^ 32 * hi32 r.base }
    | 0x04 => s.setRing f ring { r with base := lo32 r.base + 2 ^ 32 * value }
    | 0x08 => s.setRing f ring { r with mirror := value + 2 ^ 32 * hi32 r.mirror }
    | 0x0C => s.setRing f ring { r with mirror := lo32 r.mirror + 2 ^ 32 * value }
    | 0x10 => s.setRing f ring (ringCfg r value)
    | 0x14 => s.setRing f ring { r with modCount := fieldOf value 7 0, modTime := fieldOf value 23 8 }
    | _ => s

/-- A write to the MSI-X table: address, data, or the vector's mask, whose clearing sends a pending message (R444). -/
def writeMsix (f off value : Nat) (s : State) : State :=
  let n := off / 16
  let e := (Tbl.find? n (s.func f).msix.table).getD (0, 0, true)
  let e1 := match off % 16 with
    | 0 => (value + 2 ^ 32 * hi32 e.1, e.2)
    | 4 => (lo32 e.1 + 2 ^ 32 * value, e.2)
    | 8 => (e.1, value, e.2.2)
    | _ => (e.1, e.2.1, bitOf value 0)
  sendPending f n (s.updFunc f fun v => { v with msix := { v.msix with table := Tbl.put n e1 v.msix.table } })

/-- A write to an event register: W1C of the status, or the writable enable bits; PKE_EVENT_ENABLE is of class S. -/
def writeEvent (b : EvBlock) (f mask : Nat) (isEnable : Bool) (value : Nat) (s : State) : State :=
  if isEnable then
    if b = .pke then queueWrite (regKey 0 0x3408) (value &&& mask) s
    else { s with ev := Tbl.upd {} (evKey b f) (fun r => { r with enable := value &&& mask }) s.ev }
  else clearEvents b f value s

/-- A write to FE_STREAM_CTR_SEL: LATCH latches the counters of ENTRY (R191). -/
def writeStreamSel (f value : Nat) (s : State) : State :=
  if bitOf value 31 then stateOf s (execStreamCounterLatch f (fieldOf value 16 0) false s)
  else { s with fe := { s.fe with latch := Tbl.put f { s.latchOf f with entry := fieldOf value 16 0 } s.fe.latch } }

/-- A write to FE_PORT_CTR_SEL (R232). -/
def writePortSel (value : Nat) (s : State) : State :=
  if bitOf value 31 then stateOf s (execPortCounterLatch (fieldOf value 3 0) s)
  else { s with fe := { s.fe with portLatch := { s.fe.portLatch with entry := fieldOf value 3 0 } } }

/-- A write to a register that every function has. -/
def writeFn (f off value : Nat) (s : State) : State :=
  match off with
  | 0x0040 => if bitOf value 0 then abortPort f false s else s
  | 0x0044 => if 1 ≤ fieldOf value 9 0 ∧ fieldOf value 9 0 ≤ 600 then { s with rw := Tbl.put (regKey f off) (fieldOf value 9 0) s.rw } else s
  | 0x1008 => if fieldOf value 13 0 ≤ 10000 then queueWrite (regKey f off) (fieldOf value 13 0) s else s
  | 0x2140 => writeStreamSel f value s
  | _ =>
    if 0x1800 ≤ off ∧ off < 0x2000 then writeRing f ((off - 0x1800) / 32) ((off - 0x1800) % 32) value s
    else if 0x3C00 ≤ off ∧ off < 0x3E00 then writeMsix f (off - 0x3C00) value s
    else match eventAt off fnEvents with
      | some (b, m, e) => writeEvent b f m e value s
      | none => s

/-- A write to TS_GROUP_CFG, groups 0 to 13. -/
def writeGroup (g value : Nat) (s : State) : State :=
  let lease := fieldOf value 29 16
  if fieldOf value 7 0 ≠ 0 ∧ 1 ≤ lease ∧ lease ≤ 10000 then
    queueWrite (regKey 0 (0x4800 + 4 * g)) (fieldOf value 7 0 + 2 ^ 16 * lease) s
  else s

/-- A write to a register of an array in the PF. -/
def writeArray (off value : Nat) (s : State) : Option State :=
  (arrayAt off 0x2200 4 12).map (fun p => if s.portAbsent p then s else queueWrite (regKey 0 off) (fieldOf value 11 0) s)
  <|> (arrayAt off 0x2300 4 12).map (fun p => stateOf s (execPortCfgWrite p value s))
  <|> (arrayAt off 0x2340 4 4).map (fun q => stateOf s (execPairCfgWrite q value s))
  <|> (arrayAt off 0x4800 4 14).map (fun g => writeGroup g value s)
  <|> (arrayAt off 0x4840 4 48).map (fun c => stateOf s (execCoreGroupsWrite c value s))
  <|> (arrayAt off 0x4A10 4 12).map (fun p =>
        if s.portAbsent p ∨ 4096 < fieldOf value 12 0 then s else queueWrite (regKey 0 off) (fieldOf value 12 0) s)
  <|> (arrayAt off 0x5410 4 4).map (fun n => writeLoopCfg n value s)
  <|> (arrayAt off 0x6400 4 12).map (fun _ => writeSetting off value s)

/-- A write to a register of the PF alone. `i`: what a start meets, where the write orders a module reset. -/
def writePf (off value : Nat) (i : StartIn) (s : State) : State :=
  match off with
  | 0x0090 => stateOf s (execModuleResetRequest (fieldOf value 15 0) i s)
  | 0x2400 => writePortSel value s
  | 0x3004 => writeRingZones value s
  | 0x3008 =>
    if 1 ≤ fieldOf value 11 0 ∧ fieldOf value 11 0 ≤ 3650 then queueWrite (regKey 0 off) (fieldOf value 11 0) s else s
  | 0x3820 => stateOf s (execTestPatternWrite value s)
  | 0x5430 => { s with rw := Tbl.put (regKey 0 off) (fieldOf value 15 0) s.rw }
  | 0x5828 => if bitOf value 0 then endToken s else s
  | _ => match eventAt off pfEvents with
    | some (b, m, e) => writeEvent b 0 m e value s
    | none => (writeArray off value s).getD s

/-- A 4-byte write; 64-bit registers and offsets that the tables do not name ignore it (R688, R693). -/
def write4 (f off value : Nat) (i : StartIn) (s : State) : State :=
  let wide := (reg64 s f off).isSome || (decide (4 ≤ off) && (reg64 s f (off - 4)).isSome)
  if wide then (if (reg64 s f off).isSome then setSplit f off none s else setSplit f (off - 4) none s)
  else if 63 < f ∨ (f ≠ 0 ∧ 0x4000 ≤ off) then s
  else
    let s1 := writeFn f off (lo32 value) s
    if f = 0 then writePf off (lo32 value) i s1 else s1

/-- REGISTER_WRITE (R687 to R692): a write to a function's BAR0. A register whose write is a row of its own acts as that row does.
`i` is met where the write orders a module reset (R673). -/
def execRegisterWrite (f offset len value : Nat) (i : StartIn) (s : State) : Host.Outcome State Fault Refusal :=
  viaBar f s <|
  if len = 4 ∧ offset % 4 = 0 then .next (write4 f offset value i s)
  else if len = 8 ∧ offset % 8 = 0 then
    .next (write4 f (offset + 4) (hi32 value) i (write4 f offset (lo32 value) i s))
  else .next s

end Sys2Proof.Machine
end

