-- ==== Sys2Proof/Machine/Io.lean ====
section
/-! DEFINITION. The SMBus target, the status LEDs and the 1PPS output (19). -/

namespace Sys2Proof.Machine

/-! ### SMBus (R722 to R726) -/

/-- The module's SMBus address (R725). -/
def smbusAddress (io : Io) : Nat := 0x58 + 2 * b2n io.a1 + b2n io.a0

/-- The target answers: the standby domain is fed, and the module is not in Snowdrop (R722). -/
def smbusAnswers (s : State) : Bool := s.io.ready && !inSnowdrop s

/-- The main domain is on. -/
def mainOn (s : State) : Bool := s.pwr.main

/-- The life-cycle state is Scrapped: only command 0x00 is acknowledged (R723). -/
def scrapped (s : State) : Bool := s.lcc.st == .scrapped || s.lcc.scrapFuse

/-- Little-endian bytes of a field. -/
def smField (n v : Nat) : List Nat := (leBytes n v).map (·.toNat)

/-- IDENTITY (Table 19-7). -/
def smbusIdentity (s : State) : List Nat :=
  smField 8 s.ident.siliconId ++ [1, b2n s.ident.nx880b, 0xB0, if scrapped s then 4 else lifeCode s.lcc.st,
    if mainOn s then b2n s.pwr.lupin else 0xFF, 0] ++ (beBytes 6 s.ident.baseMac).map (·.toNat)
    ++ smField 4 (if mainOn s then s.pwr.version else 0) ++ smField 8 0

/-- ENVIRONMENT (Table 19-8) with the readings of the 12 V input, the 3.3 V input and the power. -/
def smbusEnvironment (s : State) (mainMv standbyMv power : Nat) : List Nat :=
  [b2n (mainOn s) + 2 * b2n s.pwr.standbyIn, if mainOn s then (s.tm.dieTemp % 256).toNat else 0x80]
    ++ smField 2 mainMv ++ smField 2 standbyMv ++ smField 2 power ++ smField 2 s.tm.cellMv ++ smField 6 0

/-- The level that STATUS shows: the one in effect, or in standby that of the latches that the configuration store holds. -/
def smbusLevel (s : State) : Nat :=
  if mainOn s then s.level else if s.tm.quenchR then 3 else if s.tm.clearHold || s.tm.releaseHold then 1 else 0

/-- STATUS (Table 19-9). -/
def smbusStatus (s : State) : List Nat :=
  [if mainOn s then s.pwr.phase else 0xFF, smbusLevel s, if mainOn s then timeCode s.sck.st else 0xFF,
   if mainOn s then b2n s.sck.valid + 2 * b2n (s.pwr.trial && s.pwr.trialPending) + 4 * b2n s.stc.hold else 0,
   s.io.alerts, 0, 0, 0]

/-- SMBUS_IDENTITY (R723): Block Read of command 0x00 from a bus address. -/
def execSmbusIdentity (address : Nat) (s : State) : Host.Outcome State Fault Refusal :=
  if smbusAnswers s && address == smbusAddress s.io then .next (emit (.smbus 0 (smbusIdentity s)) s) else .next s

/-- SMBUS_ENVIRONMENT (R723). While the main domain is off the readings of the inputs are free values: nothing brings them up to
date. -/
def execSmbusEnvironment (address : Nat) (s : State) : Host.Outcome State Fault Refusal :=
  if smbusAnswers s && address == smbusAddress s.io && !scrapped s then
    if mainOn s then .next (emit (.smbus 1 (smbusEnvironment s s.pwr.mainMv s.pwr.standbyMv s.pwr.power)) s)
    else
      let a := freshValue s
      let b := freshValue a.2
      let c := freshValue b.2
      .next (emit (.smbus 1 (smbusEnvironment s a.1.toNat b.1.toNat c.1.toNat)) c.2)
  else .next s

/-- SMBUS_STATUS (R723). -/
def execSmbusStatus (address : Nat) (s : State) : Host.Outcome State Fault Refusal :=
  if smbusAnswers s && address == smbusAddress s.io && !scrapped s then .next (emit (.smbus 2 (smbusStatus s)) s) else .next s

/-- SMB_ALERT_N is asserted (R726). -/
def smbusAlert (s : State) : Bool := s.io.alerts != 0

/-- SMBUS_ALERT_RESPONSE (R726): the module answers while it asserts SMB_ALERT_N, and every alert cause is cleared. -/
def execSmbusAlertResponse (s : State) : Host.Outcome State Fault Refusal :=
  if smbusAnswers s && smbusAlert s then
    .next (emit (.alert (smbusAddress s.io)) { s with io := { s.io with alerts := 0 } })
  else .next s

/-! ### Pins that show state (R719, R720, R730) -/

/-- How an LED pin is driven (Table 19-10). -/
inductive Led where
  | off | on | hz1 | hz4
deriving DecidableEq, Repr

/-- LED_RUN_N. -/
def ledRun (s : State) : Led :=
  if s.pwr.phase = 4 then .on else if s.pwr.phase < 4 then .hz4 else .hz1

/-- LED_TIME_N. -/
def ledTime (s : State) : Led :=
  match s.sck.st with
  | .unlocked => .off
  | .locked => .on
  | .slewing | .holdover => .hz1
  | .expired => .hz4

/-- LED_ALARM_N. -/
def ledAlarm (s : State) : Led := if s.level = 0 then .off else if s.level = 1 then .on else .hz4

/-- LED_HOST_N. -/
def ledHost (s : State) : Led :=
  if s.hif.linkUp = false then .off
  else if (s.func 0).halted then .hz1
  else if (s.func 0).bme then .on else .hz4

/-- A pin sinks current now: a blinking pin in the first half of each period (R730). -/
def ledSinks (now : Nat) : Led → Bool
  | .off => false
  | .on => true
  | .hz1 => decide (now % 1000000000 < 500000000)
  | .hz4 => decide (now % 250000000 < 125000000)

/-- An LED pin sinks current: every pin is released while the main domain is off and in Scrapped. -/
def ledPin (s : State) (l : Led) : Bool := mainOn s && !scrapped s && ledSinks s.sck.now l

/-- PPS_OUT is high: for 100 ms from each grid second boundary, unless SCK_PPS_CFG suppresses it or the main domain is off (R719). -/
def ppsOut (s : State) : Bool := mainOn s && ppsDriven s && decide (s.sck.now % nsPerSec < 100000000)

/-- A tamper loop is driven with its pattern; a disabled loop's output is held at 0 V (R720). -/
def loopDriven (s : State) (n : Nat) : Bool := bitOf (s.loopCfg n) 0

end Sys2Proof.Machine
end

