-- ==== Sys2Proof/Machine/PkOps.lean ====
section
/-! DEFINITION. The public-key operations of the catalogue and the sequence operation (08, 11). -/

namespace Sys2Proof.Machine

/-! ### Shared forms -/

/-- The curve a function may name (R349, R370): built-in, or loaded. -/
def curveOf (s : State) (f curve : Nat) : Option Curve :=
  match curve with
  | 1 => some p256
  | 2 => some p384
  | 3 => some p521
  | 4 => some ed25519
  | _ => Tbl.find? (f * 256 + curve) s.pke.curves

/-- The test of OUT_LEN once the result space is known (R465 step 2). -/
def needOut (q : Call) (n : Nat) (s : State) (k : OpOut) : OpOut :=
  if q.hdr.outLen < n then .done { code := stInputRejected, resultLen := n } s else k

/-- OK with an output of known length. -/
def okLen (n : Nat) (out : Bytes) : Completion := { code := stOk, resultLen := n, output := out }

/-- OK with the verdict of a verification in DETAIL (R476). -/
def verdict (ok : Bool) : Completion := okDetail (b2n ok)

/-- The caller's inputs in the source slots. DESIGN CHOICE: in their order, from slot 0 on. -/
def sourceSlots (l : List Nat) : List (Nat × Nat) := (List.range l.length).zip l

/-- The integers of an input, each `n` bytes long and big-endian. -/
def inputInts (n : Nat) : (k : Nat) → Bytes → List Nat
  | 0, _ => []
  | k + 1, l => beNat (l.take n) :: inputInts n k (l.drop n)

/-- The first refusal of a list, in its order (R360). -/
def firstRefusal (l : List (Bool × Nat)) : Option Nat := (l.find? (·.1)).map (·.2)

/-- Draw the projective randomizations of the two runs of a curve kind and dispatch it (R356, R364). -/
def runMasked (op : PkeOp) (s : State) : OpOut :=
  let a := drawOwn s
  let b := drawOwn a.2
  dispatchPke { op with mask1 := a.1, mask2 := b.1 } b.2

/-- The words of a number of bytes. -/
def wordsOf (n : Nat) : Nat := (n + 7) / 8

/-! ### Elliptic curves -/

/-- r and s of a signature under a private scalar on `e`, and the state after the draws: a nonce that gives 0 is drawn again (R350). -/
def signDrawn (c : Curve) (d e : Nat) : (fuel : Nat) → State → (Nat × Nat) × State
  | 0, s => ((0, 0), s)
  | n + 1, s =>
    let a := draw (c.bytes + 16) s
    let x := c.signWith d e (c.nonce (beNat a.1))
    if x.1 = 0 ∨ x.2 = 0 then signDrawn c d e n a.2 else (x, a.2)

/-- The digest of an input: the input itself, or under MESSAGE its hash (Table 11-8). -/
def digestOf (c : Curve) (message : Bool) (l : Bytes) : Bytes :=
  if message then digest (if c.bytes ≤ 32 then 1 else if c.bytes ≤ 48 then 2 else 3) l else l

/-- ECDSA_SIGN (R350): a signature over the input under a private key with usage SIGN. -/
def execEcdsaSign (q : Call) (handle : Nat) (message : Bool) (input : Bytes) (s : State) : Host.Outcome State Fault Refusal :=
  .next (runOp 0x0301 q 0 s fun s =>
    withKey q.f handle [0x10, 0x11] useSign s fun k =>
      let c := if k.blob.attr.kind = 0x11 then p384 else p256
      let n := 2 * c.bytes
      needOut q n s (withDraw q s fun s =>
        let e := c.digestInt (digestOf c message input)
        let x := signDrawn c (beNat k.material) e 64 s
        runMasked { call := q, kind := 0x01, slotLen := c.words, handle, material := k.material, sources := sourceSlots [e],
                    refuse := firstRefusal [(!scalarOk k.blob.attr.kind k.material, stInputRejected)],
                    comp := okLen n (beBytes c.bytes x.1.1 ++ beBytes c.bytes x.1.2) } x.2))

/-- Refusals of a point of a short Weierstrass curve, or of one given by its coordinates (R359). -/
def pointRefusals (c : Curve) (x y : Nat) : List (Bool × Nat) := [(c.off x y, stNotOnCurve), (c.small x y, stInputRejected)]

/-- ECDSA_VERIFY (R476): the verdict on a signature under a point of a short Weierstrass curve. -/
def execEcdsaVerify (q : Call) (curve : Nat) (message : Bool) (input : Bytes) (s : State) : Host.Outcome State Fault Refusal :=
  .next (runOp 0x0302 q 0 s fun s =>
    match curveOf s q.f curve with
    | none => .done (reject 0) s
    | some c =>
      if c.form ≠ 1 ∨ q.hdr.inLen < 4 * c.bytes then .done (reject 0) s
      else
        let l := inputInts c.bytes 4 input
        let at' (i : Nat) : Nat := l.getD i 0
        let e := c.digestInt (digestOf c message (input.drop (4 * c.bytes)))
        let refuse := firstRefusal
          ([(!inRange2 c.n (at' 2), stInputRejected), (!inRange2 c.n (at' 3), stInputRejected)] ++ pointRefusals c (at' 0) (at' 1))
        dispatchPke { call := q, kind := 0x02, slotLen := c.words, sources := sourceSlots (l ++ [e]), refuse,
                      comp := verdict (refuse.isNone && c.verifies (at' 0) (at' 1) e (at' 2) (at' 3)) } s)

/-- EDDSA_SIGN (R351): an Ed25519 signature over the input. -/
def execEddsaSign (q : Call) (handle : Nat) (input : Bytes) (s : State) : Host.Outcome State Fault Refusal :=
  .next (runOp 0x0303 q 64 s fun s =>
    withKey q.f handle [0x12] useSign s fun k =>
      withDraw q s fun s =>
        runMasked { call := q, kind := 0x05, slotLen := 4, handle, material := k.material,
                    refuse := firstRefusal [(!scalarOk 0x12 k.material, stInputRejected)], comp := okLen 64 (edSign k.material input) } s)

/-- Refusals of a point in its Ed25519 encoding (R359). -/
def encodingRefusals (l : Bytes) : List (Bool × Nat) :=
  match edDecode l with
  | none => [(true, stNotOnCurve)]
  | some p => [(edNonCanonical l p || ed25519.small p.1 p.2, stInputRejected)]

/-- EDDSA_VERIFY (R351): the verdict on an Ed25519 signature. DESIGN CHOICE: of two points that are refused, A decides. -/
def execEddsaVerify (q : Call) (input : Bytes) (s : State) : Host.Outcome State Fault Refusal :=
  .next (runOp 0x0304 q 0 s fun s =>
    if q.hdr.inLen < 96 then .done (reject 0) s
    else
      let ab := input.take 32
      let rb := (input.drop 32).take 32
      let sc := leNat ((input.drop 64).take 32)
      let refuse := firstRefusal ([(!inRange2 ed25519.n sc, stInputRejected)] ++ encodingRefusals ab ++ encodingRefusals rb)
      let ok := match edDecode ab, edDecode rb with
        | some a, some r => refuse.isNone && edVerifies a r ab rb sc (input.drop 96)
        | _, _ => false
      dispatchPke { call := q, kind := 0x06, slotLen := 4, sources := sourceSlots [leNat ab, leNat rb, sc], refuse, comp := verdict ok } s)

/-- KEY_AGREE with a peer's point (R350): the shared x-coordinate. -/
def agreePoint (q : Call) (handle : Nat) (k : LoadedKey) (c : Curve) (input : Bytes) (s : State) : OpOut :=
  let l := inputInts c.bytes 2 input
  let at' (i : Nat) : Nat := l.getD i 0
  let refuse := firstRefusal ([(!scalarOk k.blob.attr.kind k.material, stInputRejected)] ++ pointRefusals c (at' 0) (at' 1))
  runMasked { call := q, kind := 0x04, slotLen := c.words, handle, material := k.material, sources := sourceSlots l, refuse,
              comp := okLen c.bytes (if refuse.isNone then beBytes c.bytes (c.shared (beNat k.material) (at' 0) (at' 1)) else []) } s

/-- KEY_AGREE on Curve25519 (R352): the shared u-coordinate. -/
def agreeMont (q : Call) (handle : Nat) (k : LoadedKey) (input : Bytes) (s : State) : OpOut :=
  let u := beNat (input.take 32)
  let refuse := firstRefusal
    [(!inRange2 ed25519.p u, stInputRejected), (!scalarOk 0x15 k.material, stInputRejected), (montSmall u, stInputRejected),
     (onTwist u, stNotOnCurve)]
  runMasked { call := q, kind := 0x07, slotLen := 4, handle, material := k.material, sources := sourceSlots [u], refuse,
              comp := okLen 32 (beBytes 32 (x25519 (clamp (beNat k.material)) u)) } s

/-- KEY_AGREE (R352): the shared secret with a peer's point, or with a u-coordinate for X25519. -/
def execKeyAgree (q : Call) (handle : Nat) (input : Bytes) (s : State) : Host.Outcome State Fault Refusal :=
  .next (runOp 0x0305 q 0 s fun s =>
    withKey q.f handle [0x13, 0x14, 0x15] useAgree s fun k =>
      let kind := k.blob.attr.kind
      let c := if kind = 0x14 then p384 else p256
      needOut q c.bytes s (if q.hdr.inLen < (if kind = 0x15 then 32 else 2 * c.bytes) then .done (reject 0) s
        else withDraw q s fun s => if kind = 0x15 then agreeMont q handle k input s else agreePoint q handle k c input s))

/-- POINT_VALIDATE (R359): a point is checked against its curve. -/
def execPointValidate (q : Call) (curve : Nat) (input : Bytes) (s : State) : Host.Outcome State Fault Refusal :=
  .next (runOp 0x030A q 0 s fun s =>
    match curveOf s q.f curve with
    | none => .done (reject 0) s
    | some c =>
      if q.hdr.inLen < (if curve = 4 then 32 else 2 * c.bytes) then .done (reject 0) s
      else
        let l := if curve = 4 then [leNat (input.take 32)] else inputInts c.bytes 2 input
        let refuse := firstRefusal (if curve = 4 then encodingRefusals (input.take 32) else pointRefusals c (l.getD 0 0) (l.getD 1 0))
        dispatchPke { call := q, kind := 0x08, slotLen := c.words, sources := sourceSlots l, refuse, comp := bare stOk } s)

/-! ### RSA -/

/-- Bytes of the modulus of an RSA kind. -/
def modBytes (kind : Nat) : Nat := if kind = 0x20 then 256 else if kind = 0x21 then 384 else 512

/-- PAD, HASH and SALT_LEN of a signature are in range (Table 11-8). -/
def signPadOk (pad hash salt : Nat) : Bool :=
  (pad == 1 || pad == 2) && hashOk hash && (if pad = 2 then decide (salt ≤ hashLen hash) else salt == 0)

/-- The bits of a number. -/
def bitsOf (n : Nat) : Nat := Nat.log2 n + 1

/-- An RSA_PRIVATE on `c` with its completion (R353, R358). -/
def rsaPrivateOp (q : Call) (handle : Nat) (k : LoadedKey) (c : Nat) (comp : Completion) : PkeOp :=
  let n := (rsaKey k.material).n
  { call := q, kind := 0x10, long := true, slotLen := modBytes k.blob.attr.kind / 8, handle, material := k.material,
    sources := sourceSlots [c], refuse := firstRefusal [(!inRange2 n c, stInputRejected)], comp }

/-- RSA_SIGN (R353): a signature over a digest of the HASH length; the salt of PSS is drawn. -/
def execRsaSign (q : Call) (handle pad hash salt : Nat) (input : Bytes) (s : State) : Host.Outcome State Fault Refusal :=
  .next (runOp 0x0306 q 0 s fun s =>
    withKey q.f handle [0x20, 0x21, 0x22] useSign s fun k =>
      let n := modBytes k.blob.attr.kind
      needOut q n s (if signPadOk pad hash salt = false ∨ q.hdr.inLen ≠ hashLen hash then .done (reject 0) s
        else withDraw q s fun s =>
          let key := rsaKey k.material
          let a := if pad = 2 then draw salt s else ([], s)
          let em := if pad = 2 then pssEncode hash (bitsOf key.n) input a.1 else pkcs1Encode hash n input
          let c := beNat (em.getD [])
          dispatchPke (rsaPrivateOp q handle k c (okLen n (beBytes n (rsaPrivate key c)))) a.2))

/-- RSA_DECRYPT (R353): an OAEP ciphertext; a decoding failure completes INPUT_REJECTED. -/
def execRsaDecrypt (q : Call) (handle pad hash salt : Nat) (input : Bytes) (s : State) : Host.Outcome State Fault Refusal :=
  .next (runOp 0x0307 q 0 s fun s =>
    withKey q.f handle [0x20, 0x21, 0x22] useDecrypt s fun k =>
      let n := modBytes k.blob.attr.kind
      needOut q (n - 2 * hashLen hash - 2) s
        (if pad ≠ 3 ∨ hashOk hash = false ∨ salt ≠ 0 ∨ q.hdr.inLen < n then .done (reject 0) s
        else withDraw q s fun s =>
          let c := beNat (input.take n)
          let comp := match oaepDecode hash (beBytes n (rsaPrivate (rsaKey k.material) c)) with
            | some m => okLen m.length m
            | none => reject 0
          dispatchPke (rsaPrivateOp q handle k c comp) s))

/-- MOD_BYTES is in range. -/
def modBytesOk (n : Nat) : Bool := decide (128 ≤ n) && decide (n ≤ 1024) && n % 8 == 0

/-- An RSA_PUBLIC of m under a supplied key with its completion, in the order of Table 08-8 (R354, R358). -/
def rsaPublicOp (q : Call) (len n e m : Nat) (comp : Completion) : PkeOp :=
  { call := q, kind := 0x11, long := true, slotLen := len / 8, sources := sourceSlots [n, e, m],
    refuse := firstRefusal [(!inRange2 n m, stInputRejected), (!rsaExponentOk n e, stInputRejected), (!rsaModulusOk len n, stInputRejected)],
    comp }

/-- RSA_VERIFY (R354): the verdict on a signature under a supplied public key. -/
def execRsaVerify (q : Call) (len pad hash salt : Nat) (input : Bytes) (s : State) : Host.Outcome State Fault Refusal :=
  .next (runOp 0x0308 q 0 s fun s =>
    if modBytesOk len = false ∨ signPadOk pad hash salt = false ∨ q.hdr.inLen < 2 * len + 8 + hashLen hash then .done (reject 0) s
    else
      let n := beNat (input.take len)
      let e := beNat ((input.drop len).take 8)
      let m := beNat ((input.drop (len + 8)).take len)
      let h := (input.drop (2 * len + 8)).take (hashLen hash)
      let op := rsaPublicOp q len n e m (bare stOk)
      let x := rsaPublic n e m
      let good := op.refuse.isNone
        && (if pad = 2 then pssVerifies hash (bitsOf n) salt x h else pkcs1Encode hash len h == some (beBytes len x))
      dispatchPke { op with comp := verdict good } s)

/-- RSA_ENCRYPT (R477): a message is OAEP-encrypted under a supplied public key; the seed is drawn. -/
def execRsaEncrypt (q : Call) (len pad hash salt : Nat) (input : Bytes) (s : State) : Host.Outcome State Fault Refusal :=
  .next (runOp 0x0309 q len s fun s =>
    if modBytesOk len = false ∨ pad ≠ 3 ∨ hashOk hash = false ∨ salt ≠ 0 ∨ q.hdr.inLen < len + 8
        ∨ len < q.hdr.inLen - (len + 8) + 2 * hashLen hash + 2 then .done (reject 0) s
    else withDraw q s fun s =>
      let n := beNat (input.take len)
      let e := beNat ((input.drop len).take 8)
      let a := draw (hashLen hash) s
      let m := beNat (oaepEncode hash len (input.drop (len + 8)) a.1)
      let op := rsaPublicOp q len n e m (bare stOk)
      dispatchPke { op with comp := okLen len (if op.refuse.isNone then beBytes len (rsaPublic n e m) else []) } a.2)

/-! ### Loaded curves (R370 to R372) -/

/-- Some power p^j with 1 ≤ j ≤ n is 1 modulo N; `acc` is the power reached. -/
def powerIsOne (p m : Nat) : (n : Nat) → (acc : Nat) → Bool
  | 0, _ => false
  | n + 1, acc => (let a := acc * p % m
                   a == 1 % m || powerIsOne p m n a)

/-- The odd part of a number, and how often 2 divides it, by `fuel` halvings. -/
def oddPart : (fuel d : Nat) → Nat × Nat
  | 0, d => (d, 0)
  | n + 1, d => if d % 2 = 0 ∧ d ≠ 0 then (let r := oddPart n (d / 2)
                                           (r.1, r.2 + 1)) else (d, 0)

/-- x, x², x⁴, … reaches m − 1 within `n` squarings. -/
def reachesMinus (m : Nat) : (n x : Nat) → Bool
  | 0, _ => false
  | n + 1, x => x == m - 1 || reachesMinus m n (x * x % m)

/-- m passes a round of Miller–Rabin with base b. -/
def mrRound (m b : Nat) : Bool :=
  let r := oddPart 600 (m - 1)
  let x := powMod m 600 (b % m) r.1
  x == 1 || reachesMinus m r.2 x

/-- m passes a round for each block of `n` drawn bytes: bases from 2 to m − 2. -/
def mrPasses (m n : Nat) : (rounds : Nat) → Bytes → Bool
  | 0, _ => true
  | k + 1, l => mrRound m (beNat (l.take n) % (m - 3) + 2) && mrPasses m n k (l.drop n)

/-- m is odd, above 3 and passes 64 rounds (Table 08-16). -/
def probablePrime (m n : Nat) (drawn : Bytes) : Bool := m % 2 == 1 && decide (3 < m) && mrPasses m n 64 drawn

/-- Check 3 of Table 08-16 refuses. -/
def singular (c : Curve) : Bool :=
  if c.form = 1 then (4 * c.a * c.a * c.a + 27 * c.b * c.b) % c.p == 0
  else c.a == 0 || c.b == 0 || c.a == c.b || !isSquare c.p c.a || isSquare c.p c.b

/-- G is the identity: (0, 1) on an Edwards curve. -/
def identityG (c : Curve) : Bool := c.form == 2 && c.gx == 0 && c.gy == 1

/-- The curve of a parameter set (Table 08-15). -/
def curveSet (l : Bytes) : Curve :=
  let w := leAt l 1 1
  let v := inputInts (8 * w) 6 (l.drop 8)
  { form := leAt l 0 1, words := w, pBits := leAt l 2 2, cofactor := leAt l 4 1, p := v.getD 0 0, a := v.getD 1 0, b := v.getD 2 0,
    gx := v.getD 3 0, gy := v.getD 4 0, n := v.getD 5 0 }

/-- Check 1 of Table 08-16 refuses. -/
def shapeBad (l : Bytes) : Bool :=
  let c := curveSet l
  !(c.form == 1 || c.form == 2) || decide (c.words < 3) || decide (9 < c.words) || decide (c.pBits < 192) || decide (576 < c.pBits)
    || c.cofactor == 0 || decide (8 < c.cofactor) || leAt l 5 3 != 0
    || decide (c.p < 2 ^ (c.pBits - 1)) || decide (2 ^ c.pBits ≤ c.p) || decide (64 * c.words < c.pBits)
    || decide (c.pBits + 64 ≤ 64 * c.words)

/-- Number of the first failing check of Table 08-16, 0 for none; `drawn` gives the bases of the two tests. -/
def curveCheck (l drawn : Bytes) : Nat :=
  let c := curveSet l
  let n := 8 * c.words
  let d : Int := (c.cofactor * c.n : Int) - (c.p + 1)
  if shapeBad l then 1
  else if c.p % 2 = 0 ∨ c.p < 2 ^ 191 ∨ c.p ≤ c.a ∨ c.p ≤ c.b ∨ c.p ≤ c.gx ∨ c.p ≤ c.gy then 2
  else if singular c then 3
  else if onCurve (c.form - 1) c.p c.a c.b c.gx c.gy = false ∨ identityG c then 4
  else if probablePrime c.p n drawn = false then 5
  else if probablePrime c.n n (drawn.drop (64 * n)) = false ∨ c.n < 2 ^ 160 then 6
  else if c.isZero (c.mul scalarBits c.n c.base) = false then 7
  else if d.natAbs * d.natAbs > 4 * c.p then 8
  else if c.n = c.p then 9
  else if powerIsOne c.p c.n 100 1 then 10
  else 0

/-- CURVE_LOAD (R372): checks 1 to 4 refuse at V, checks 5 to 10 at the end of the main section. DESIGN CHOICE: a set shorter than its
WORDS asks completes INPUT_REJECTED before an engine is used, with DETAIL 0, and a WORDS out of range takes slots of 9 words. -/
def execCurveLoad (q : Call) (input : Bytes) (s : State) : Host.Outcome State Fault Refusal :=
  .next (runOp 0x030B q 0 s fun s =>
    let w := leAt input 1 1
    let fits := decide (3 ≤ w) && decide (w ≤ 9)
    if q.hdr.inLen < (if fits then 8 + 48 * w else 8) then .done (reject 0) s
    else withDraw q s fun s =>
      let a := draw (if fits then 128 * 8 * w else 0) s
      let n := curveCheck input a.1
      let early := decide (1 ≤ n) && decide (n ≤ 4)
      let c := curveSet input
      runMasked { call := q, kind := 0x20, slotLen := if fits then w else 9, sources := sourceSlots [c.p, c.a, c.b, c.gx, c.gy, c.n],
                  refuse := if early then some stInputRejected else none, rejectDetail := n,
                  comp := if n = 0 then bare stOk else reject n, curve := some c } a.2)

/-- CURVE_UNLOAD (R370): a loaded curve is removed. -/
def execCurveUnload (q : Call) (curve : Nat) (s : State) : Host.Outcome State Fault Refusal :=
  .next (runOp 0x030C q 0 s fun s =>
    let k := q.f * 256 + curve
    if 0x80 ≤ curve ∧ curve ≤ 0x87 ∧ Tbl.has s.pke.curves k then
      .done (bare stOk) { s with pke := { s.pke with curves := Tbl.del k s.pke.curves } }
    else .done (reject 0) s)

/-! ### The sequence operation (R373 to R375) -/

/-- Cycles of a modular multiplication (R345). -/
def mulCycles (k w : Nat) : Nat := 2 * ((w * w + (k - 1)) / k) + 4

/-- Cycles of a command (Table 08-5). -/
def cmdCycles (k : Nat) (c : PkeCmd) : Nat :=
  let lk := (c.len + (k - 1)) / k
  if c.op = cSetmod then 4 * mulCycles k c.len + 8
  else if c.op = cLoadkey ∨ c.op = cStore then (c.len + 7) / 8 + 2
  else if c.op = cMmul then mulCycles k c.len
  else if c.op = cMac then (c.len * c.len + (k - 1)) / k + 2
  else if c.op = cTsel then 16 * lk + 2
  else if c.op = cCheck then 2 * lk + 4
  else if c.op = cPcheck then 6 * mulCycles k c.len + 8
  else if c.op = cEndv ∨ c.op = cRepeat ∨ c.op = cEnd then 1
  else lk + 2

/-- Cycles of a list of commands. -/
def listCycles (k : Nat) (l : List PkeCmd) : Nat := l.foldl (fun n c => n + cmdCycles k c) 0

/-- Cycles of a section with its REPEATs; `n` bounds the commands looked at. -/
def sectionCycles (k : Nat) : (n : Nat) → List PkeCmd → Nat
  | 0, _ => 0
  | _, [] => 0
  | n + 1, c :: t =>
    if c.op = cRepeat then 1 + c.bit * listCycles k (t.take c.a) + sectionCycles k n (t.drop c.a)
    else cmdCycles k c + sectionCycles k n t

/-- A REPEAT range is bad: it runs past the section, or holds a REPEAT, an ENDV or an END. -/
def repeatsBad : (n : Nat) → List PkeCmd → Bool
  | 0, _ => false
  | _, [] => false
  | n + 1, c :: t =>
    if c.op = cRepeat then
      decide (t.length < c.a) || (t.take c.a).any (fun x => x.op == cRepeat || x.op == cEndv || x.op == cEnd)
        || repeatsBad n (t.drop c.a)
    else repeatsBad n t

/-- Run a section with its REPEATs on an engine's slots. -/
def runSection (free : Nat) : (n : Nat) → List PkeCmd → Engine → Engine
  | 0, _, e => e
  | _, [], e => e
  | n + 1, c :: t, e =>
    if c.op = cRepeat then runSection free n (t.drop c.a) (runReps [] free (t.take c.a) c.bit 0 e)
    else runSection free n t (runCmd [] free c e)

/-- The validation section (without ENDV) and the main section (without END). -/
def splitSeq (l : List PkeCmd) : List PkeCmd × List PkeCmd :=
  let v := l.takeWhile fun c => c.op != cEndv
  (v, (l.drop (v.length + 1)).dropLast)

/-- Contexts that a modulus source binds, or a SETMOD of the sequence. -/
def seqBound (b : SeqBlock) (i : Nat) : Bool := b.sources.any fun x => x.role == 0x80 + i

/-- The block completes INPUT_REJECTED before it reaches an engine (R374). -/
def seqBad (b : SeqBlock) (inLen : Nat) : Bool :=
  let long := b.cls == 1
  let parts := splitSeq b.cmds
  let slots := classSlots long b.slotLen
  decide (1 < b.cls) || decide (classMaxLen long < b.slotLen) || decide (16 < b.sources.length) || decide (8 < b.results.length)
    || decide (256 < b.cmds.length)
    || b.sources.any (fun x => decide (slots ≤ x.slot) || x.len == 0 || decide (b.slotLen < x.len)
        || !(decide (x.role < 4) || (decide (0x80 ≤ x.role) && decide (x.role ≤ 0x83))))
    || b.sources.any (fun x => decide (x.role < 4) && !seqBound b x.role)
    || b.results.any (fun x => decide (slots ≤ x.1) || x.2 == 0 || decide (b.slotLen < x.2))
    || b.cmds.any (fun c => cmdError long b.slotLen (seqBound b) c || c.op == cLoadkey || c.op == cStore
        || (c.op == cSetmod && !seqBound b c.mctx))
    || (b.cmds.filter fun c => c.op == cEndv).length != 1 || (b.cmds.filter fun c => c.op == cEnd).length != 1
    || (b.cmds.getLast?.map (·.op)) != some cEnd
    || repeatsBad parts.1.length parts.1 || repeatsBad parts.2.length parts.2
    || decide (inLen < b.sources.foldl (fun n x => n + 8 * x.len) 0)

/-- The added checks of R375: SETMOD for each modulus source, CHECK for each operand source. -/
def addedCmds (b : SeqBlock) : List PkeCmd :=
  let mods := b.sources.filter fun x => 4 ≤ x.role
  let ops := b.sources.filter fun x => x.role < 4
  (mods.map fun x => ({ op := cSetmod, mctx := x.role - 0x80, a := x.slot, len := x.len } : PkeCmd))
    ++ ops.map fun x => ({ op := cCheck, mctx := x.role, a := x.slot, len := x.len } : PkeCmd)

/-- Cycles of a sequence but for its preparation (R375): validation with the added checks, twice the main section, F. -/
def seqCycles (b : SeqBlock) : Nat :=
  let k := classK (b.cls == 1)
  let p := splitSeq b.cmds
  listCycles k (addedCmds b) + (sectionCycles k p.1.length p.1 + 1) + 2 * (sectionCycles k p.2.length p.2 + 1)
    + (if b.cls = 1 then 800 else 400)

/-- 2 ms in engine cycles. -/
def seqLimit : Nat := 2500000

/-- A modulus source is even, below 3 or has a zero top word (R375). -/
def modulusBad (b : SeqBlock) : Bool :=
  b.sources.any fun x => decide (4 ≤ x.role) && (x.value % 2 == 0 || decide (x.value < 3) || decide (x.value < 2 ^ (64 * (x.len - 1))))

/-- The engine's slots after validation and the main section. -/
def seqRun (b : SeqBlock) (free : Nat) : Engine × Engine :=
  let p := splitSeq b.cmds
  let e0 : Engine := { slotLen := b.slotLen, slots := b.sources.foldl (fun t x => Tbl.put x.slot x.value t) [] }
  let e1 := runSection free p.1.length p.1 (runList [] free 0 (addedCmds b) e0)
  (e1, runSection free p.2.length p.2 e1)

/-- Results in map order, each big-endian. -/
def seqResults (b : SeqBlock) (e : Engine) : Bytes := b.results.flatMap fun x => beBytes (8 * x.2) (e.word x.1 x.2)

/-- SEQUENCE (R373 to R375): a host-supplied sequence runs on supplied values. A malformed block halts the function (R374). The cycles of
the preparation, which the spec does not give, are a free value in DETAIL. -/
def execSequence (q : Call) (block input : Bytes) (s : State) : Host.Outcome State Fault Refusal :=
  if seqReserved block || seqMalformed block then
    onMain s <| .next (halt q.f (if seqReserved block then 4 else 6) q.ring 0x030D q.count s)
  else
    let b := seqBlock block input
    .next (runOp 0x030D q (b.results.foldl (fun n x => n + 8 * x.2) 0) s fun s =>
      if seqBad b q.hdr.inLen || decide (seqLimit < seqCycles b) then .done (reject 0) s
      else
        let a := freshValue s
        let p := freshValue a.2
        let r := seqRun b a.1.toNat
        dispatchPke
          { call := q, kind := 0x30, long := b.cls == 1, slotLen := b.slotLen, sources := b.sources.map fun x => (x.slot, x.value),
            refuse := firstRefusal [(modulusBad b || r.1.rangeFlag, stInputRejected), (r.1.curveFlag, stNotOnCurve)],
            comp := okOut (seqCycles b + p.1.toNat) (seqResults b r.2) } p.2)

end Sys2Proof.Machine
end

