-- ==== Sys2Proof/Machine/SymOps.lean ====
section
/-! DEFINITION. The symmetric operations and the TLS sessions of the catalogue (11). -/

namespace Sys2Proof.Machine

/-! ### Digests and message authentication codes (R474) -/

/-- HASH (R474): the digest of the input. -/
def execHash (q : Call) (alg : Nat) (input : Bytes) (s : State) : Host.Outcome State Fault Refusal :=
  .next (runOp 0x0201 q (if hashOk alg then hashLen alg else 0) s fun s =>
    if hashOk alg then .done (okLen (hashLen alg) (digest alg input)) s else .done (reject 0) s)

/-- Kinds of key that an ALG of MAC_* suits; an ALG out of range suits every symmetric kind and is refused later. -/
def macKinds (alg : Nat) : List Nat := if alg = 1 then [0x03] else if alg = 2 ∨ alg = 3 then [0x01, 0x02] else [0x01, 0x02, 0x03]

/-- ALG, TAG_LEN and IV of MAC_* are in range (Table 11-7). -/
def macBodyOk (alg tagLen iv : Nat) : Bool :=
  (alg == 1 && decide (10 ≤ tagLen) && decide (tagLen ≤ 32) && iv == 0)
    || (alg == 2 && decide (8 ≤ tagLen) && decide (tagLen ≤ 16) && iv == 0)
    || (alg == 3 && decide (8 ≤ tagLen) && decide (tagLen ≤ 16))

/-- The tag of ALG over an input: HMAC-SHA256, AES-CMAC or GMAC. -/
def macOf (alg : Nat) (key : Bytes) (iv tagLen : Nat) (input : Bytes) : Bytes :=
  if alg = 1 then (hmac 1 key input).take tagLen
  else if alg = 2 then (cmac key input).take tagLen
  else gcmTag key iv input [] tagLen

/-- MAC_GENERATE (R474): the tag over the input. -/
def execMacGenerate (q : Call) (handle alg tagLen iv : Nat) (input : Bytes) (s : State) : Host.Outcome State Fault Refusal :=
  .next (runOp 0x0202 q tagLen s fun s =>
    withKey q.f handle (macKinds alg) useMac s fun k =>
      if macBodyOk alg tagLen iv then
        .done (okLen tagLen (macOf alg k.material iv tagLen input)) s
      else .done (reject 0) s)

/-- MAC_VERIFY (R474): DETAIL 1 when the tag is the one of the input, 0 otherwise. -/
def execMacVerify (q : Call) (handle alg tagLen iv : Nat) (tag input : Bytes) (s : State) : Host.Outcome State Fault Refusal :=
  .next (runOp 0x0203 q 0 s fun s =>
    withKey q.f handle (macKinds alg) useMac s fun k =>
      if macBodyOk alg tagLen iv then
        .done (verdict (tag == macOf alg k.material iv tagLen input)) s
      else .done (reject 0) s)

/-! ### AES-GCM (R474, R475) -/

/-- TAG_LEN, GEN_IV and IV are in range, and IN_LEN holds the fixed parts. -/
def aeadBodyOk (tagLen : Nat) (genIv : Bool) (iv need inLen : Nat) : Bool :=
  decide (12 ≤ tagLen) && decide (tagLen ≤ 16) && !(genIv && iv != 0) && decide (need ≤ inLen)

/-- Ciphertext ‖ tag. -/
def gcmSeal (key : Bytes) (iv : Nat) (aad plain : Bytes) (tagLen : Nat) : Bytes :=
  gcmCrypt key iv plain ++ gcmTag key iv aad (gcmCrypt key iv plain) tagLen

/-- AEAD_ENCRYPT (R474): the sealed plaintext; under GEN_IV its IV is drawn from Bellows and goes first. -/
def execAeadEncrypt (q : Call) (handle tagLen : Nat) (genIv : Bool) (iv aadLen : Nat) (input : Bytes) (s : State) :
    Host.Outcome State Fault Refusal :=
  let n := q.hdr.inLen - aadLen + tagLen
  .next (runOp 0x0204 q (if genIv then n + 12 else n) s fun s =>
    withKey q.f handle [0x01, 0x02] useEncrypt s fun k =>
      if aeadBodyOk tagLen genIv iv aadLen q.hdr.inLen then
        let key := k.material
        let aad := input.take aadLen
        let plain := input.drop aadLen
        if genIv then
          withDraw q s fun s =>
            let b := draw 12 s
            .done (okLen (n + 12) (b.1 ++ gcmSeal key (beNat b.1) aad plain tagLen)) b.2
        else .done (okLen n (gcmSeal key iv aad plain tagLen)) s
      else .done (reject 0) s)

/-- AEAD_DECRYPT (R475): the tag is checked first; no byte is written when it fails. -/
def execAeadDecrypt (q : Call) (handle tagLen : Nat) (genIv : Bool) (iv aadLen : Nat) (input : Bytes) (s : State) :
    Host.Outcome State Fault Refusal :=
  let n := q.hdr.inLen - aadLen - tagLen
  .next (runOp 0x0205 q n s fun s =>
    withKey q.f handle [0x01, 0x02] useDecrypt s fun k =>
      let cipher := (input.drop aadLen).take n
      if genIv || !aeadBodyOk tagLen false iv (aadLen + tagLen) q.hdr.inLen then .done (reject 0) s
      else if (input.drop (aadLen + n)).take tagLen = gcmTag k.material iv (input.take aadLen) cipher tagLen then
        .done (okLen n (gcmCrypt k.material iv cipher)) s
      else .done (bare stTagMismatch) s)

/-! ### TLS sessions (R478 to R480) -/

/-- Sessions the module holds. -/
def maxSessions : Nat := 8192

/-- A session number that is not in use: the first from `v` on, in 32 bits. -/
def sessionNumber (t : Tbl TlsSession) (v : Nat) : Nat :=
  (((List.range (t.length + 1)).map fun k => (v + k) % 2 ^ 32).find? fun n => !Tbl.has t n).getD v

/-- Replace a session. -/
def State.setSession (n : Nat) (v : TlsSession) (s : State) : State :=
  { s with tls := { s.tls with sessions := Tbl.put n v s.tls.sessions } }

/-- The key check of a session's own key: none for a client without a certificate (Table 11-22). -/
def withOwnKey (f handle : Nat) (server : Bool) (s : State) (k : OpOut) : OpOut :=
  if handle = 0 ∧ server = false then k
  else withKey f handle [0x10, 0x11, 0x12, 0x20, 0x21, 0x22] useSign s fun _ => k

/-- TLS_OPEN (R478): a session for the function, within the module's sessions and the function's key slots. -/
def execTlsOpen (q : Call) (handle role versions : Nat) (requirePeer : Bool) (cert : Bytes) (s : State) :
    Host.Outcome State Fault Refusal :=
  .next (runOp 0x0401 q 0 s fun s =>
    withOwnKey q.f handle (role == 1) s
      (if 1 < role ∨ versions = 0 ∨ 3 < versions ∨ 16384 < q.hdr.inLen then .done (reject 0) s
       else if maxSessions ≤ s.tls.sessions.length ∨ s.slotsFit q.f 2 = false then .done (bare stRefusedFull) s
       else
         let a := freshValue s
         let n := sessionNumber s.tls.sessions (a.1.toNat % 2 ^ 32)
         .done (okDetail n) (a.2.setSession n
           { f := q.f, key := handle, server := role == 1, versions, requirePeer, ownCert := cert })))

/-- A session of the function that is not closed. -/
def openSession (s : State) (f n : Nat) : Option TlsSession :=
  match Tbl.find? n s.tls.sessions with
  | some v => if v.f = f ∧ v.st ≠ 2 then some v else none
  | none => none

/-- The traffic keys and IVs of a session that is established: what the key schedule gives is a free value. -/
def deriveTraffic (aes256 : Bool) (v : TlsSession) (s : State) : TlsSession × State :=
  let n := if aes256 then 32 else 16
  let a := freshBytes n s
  let b := freshBytes n a.2
  let c := freshBytes 12 b.2
  let d := freshBytes 12 c.2
  ({ v with txKey := a.1, rxKey := b.1, txIv := beNat c.1, rxIv := beNat d.1, sealedCount := 0, openedCount := 0 }, d.2)

/-- The session an accepted operation names (Tables 11-23 to 11-27). -/
def sessionNamed (c : Ctx) : Option Nat :=
  if 0x0402 ≤ c.hdr.opcode ∧ c.hdr.opcode ≤ 0x0406 then some (leAt c.slots 64 4) else none

/-- An operation accepted earlier in the function names the session and has not finished (R478): contexts stand in order of acceptance. -/
def sessionTaken (q : Call) (n : Nat) (s : State) : Bool :=
  (s.hif.ctxs.takeWhile fun c => !(c.f == q.f && c.ring == q.ring && c.count == q.count && c.orphan == 0)).any fun c =>
    c.f == q.f && c.orphan == 0 && c.phase != .staged && c.phase != .finished && sessionNamed c == some n

/-- Operations that name one session are performed one at a time, in order of acceptance. -/
def inTurn (q : Call) (n : Nat) (s : State) (r : OpOut) : OpOut := if sessionTaken q n s then .busy else r

/-- TLS_HANDSHAKE (R479, R480): `x` is what the records received come to. -/
def execTlsHandshake (q : Call) (session : Nat) (x : TlsStep) (s : State) : Host.Outcome State Fault Refusal :=
  .next (runOp 0x0402 q 32768 s fun s => inTurn q session s <|
    match openSession s q.f session with
    | none => .done (reject 0) s
    | some v =>
      withOwnKey q.f v.key v.server s (withDraw q s fun s =>
        let d := drawOwn s
        if x.malformed then .done (reject 2) (d.2.setSession session { v with st := 2 })
        else
          let st := if x.st ≤ 2 then x.st else 0
          let v' := { v with st, tls13 := x.tls13, peerCert := x.peerCert.getD v.peerCert }
          let r := if st = 1 ∧ v.st = 0 then deriveTraffic x.aes256 v' d.2 else (v', d.2)
          let n := if x.sendLen ≤ 32768 then x.sendLen else 32768
          let out := freshBytes n r.2
          .done { okLen n out.1 with detail := st } (out.2.setSession session r.1)))

/-- Length of a sealed record: 22 bytes more than its plaintext in TLS 1.3, 29 in TLS 1.2 with AES-GCM (the RFCs). -/
def recordLen (v : TlsSession) (n : Nat) : Nat := if v.tls13 then n + 22 else n + 29

/-- Additional data of a TLS 1.2 record: sequence number, type, version, length of the plaintext. -/
def tls12Aad (seq typ n : Nat) : Bytes := beBytes 8 seq ++ leBytes 1 typ ++ [3#8, 3#8] ++ beBytes 2 n

/-- Header of a TLS 1.3 record with `n` bytes behind it. -/
def tls13Head (n : Nat) : Bytes := [0x17#8, 3#8, 3#8] ++ beBytes 2 n

/-- The record of a plaintext (PRESUMED, RFC 8446, RFC 5246 and RFC 5288). -/
def sealRecord (v : TlsSession) (typ : Nat) (plain : Bytes) : Bytes :=
  if v.tls13 then
    let inner := plain ++ leBytes 1 typ
    let head := tls13Head (inner.length + 16)
    head ++ gcmSeal v.txKey (v.txIv ^^^ v.sealedCount) head inner 16
  else
    leBytes 1 typ ++ [3#8, 3#8] ++ beBytes 2 (plain.length + 24) ++ beBytes 8 v.sealedCount
      ++ gcmSeal v.txKey (v.txIv % 2 ^ 32 * 2 ^ 64 + v.sealedCount) (tls12Aad v.sealedCount typ plain.length) plain 16

/-- Content and type of the plaintext of a TLS 1.3 record: its padding of zeros falls. -/
def innerContent (l : Bytes) : Option (Bytes × Nat) :=
  match l.reverse.dropWhile (· == 0#8) with
  | [] => none
  | t :: r => some (r.reverse, t.toNat)

/-- The plaintext and content type of a record whose tag and sequence are right (PRESUMED, as for `sealRecord`). -/
def openRecord (v : TlsSession) (l : Bytes) : Option (Bytes × Nat) :=
  if v.tls13 then
    let cipher := (l.drop 5).take (l.length - 21)
    let nonce := v.rxIv ^^^ v.openedCount
    if l.length < 21 ∨ l.drop (l.length - 16) ≠ gcmTag v.rxKey nonce (l.take 5) cipher 16 then none
    else innerContent (gcmCrypt v.rxKey nonce cipher)
  else
    let cipher := (l.drop 13).take (l.length - 29)
    let nonce := v.rxIv % 2 ^ 32 * 2 ^ 64 + beNat ((l.drop 5).take 8)
    let typ := beNat (l.take 1)
    if l.length < 29 ∨ l.drop (l.length - 16) ≠ gcmTag v.rxKey nonce (tls12Aad v.openedCount typ cipher.length) cipher 16 then none
    else some (gcmCrypt v.rxKey nonce cipher, typ)

/-- TLS_SEAL (R478): one record of an established session. -/
def execTlsSeal (q : Call) (session typ : Nat) (input : Bytes) (s : State) : Host.Outcome State Fault Refusal :=
  .next (runOp 0x0403 q (q.hdr.inLen + 29) s fun s => inTurn q session s <|
    match openSession s q.f session with
    | none => .done (reject 0) s
    | some v =>
      if v.st ≠ 1 ∨ (typ ≠ 21 ∧ typ ≠ 23) ∨ 16384 < q.hdr.inLen then .done (reject 0) s
      else .done (okLen (recordLen v q.hdr.inLen) (sealRecord v typ input))
        (s.setSession session { v with sealedCount := v.sealedCount + 1 }))

/-- TLS_UNSEAL (R480): a record that fails its tag or its sequence closes the session. -/
def execTlsUnseal (q : Call) (session : Nat) (input : Bytes) (s : State) : Host.Outcome State Fault Refusal :=
  .next (runOp 0x0404 q q.hdr.inLen s fun s => inTurn q session s <|
    match openSession s q.f session with
    | none => .done (reject 0) s
    | some v =>
      if v.st ≠ 1 then .done (reject 0) s
      else match openRecord v input with
        | none => .done (bare stTagMismatch) (s.setSession session { v with st := 2 })
        | some p => .done (okOut p.2 p.1) (s.setSession session { v with openedCount := v.openedCount + 1 }))

/-- TLS_CLOSE (R478): the session is closed and its number and key slots are free. -/
def execTlsClose (q : Call) (session : Nat) (s : State) : Host.Outcome State Fault Refusal :=
  .next (runOp 0x0405 q 0 s fun s => inTurn q session s <|
    match Tbl.find? session s.tls.sessions with
    | none => .done (reject 0) s
    | some v =>
      if v.f ≠ q.f then .done (reject 0) s
      else .done (okDetail 0) { s with tls := { s.tls with sessions := Tbl.del session s.tls.sessions } })

/-- TLS_PEER_CERT (R479): the peer's certificate list as received. -/
def execTlsPeerCert (q : Call) (session : Nat) (s : State) : Host.Outcome State Fault Refusal :=
  .next (runOp 0x0406 q 16384 s fun s => inTurn q session s <|
    match openSession s q.f session with
    | none => .done (reject 0) s
    | some v => .done (okOut 0 v.peerCert) s)

end Sys2Proof.Machine
end

