-- ==== Sys2Proof/Machine/Dispatch.lean ====
section
/-! DEFINITION. The meaning of each command: one arm per constructor of Instr. -/

namespace Sys2Proof.Machine

def exec (i : Instr) (s : State) : Host.Outcome State Fault Refusal :=
  match i with
  | .powerGoodRise x => Sys2Proof.Machine.execPowerGoodRise x s
  | .powerGoodFall => Sys2Proof.Machine.execPowerGoodFall s
  | .standbyInputLoss => Sys2Proof.Machine.execStandbyInputLoss s
  | .snowdropEntry => Sys2Proof.Machine.execSnowdropEntry s
  | .resetNAssert held x => Sys2Proof.Machine.execResetNAssert held x s
  | .moduleResetRequest value x => Sys2Proof.Machine.execModuleResetRequest value x s
  | .watchdogReset cause final x => Sys2Proof.Machine.execWatchdogReset cause final x s
  | .forwardingBegin ms => Sys2Proof.Machine.execForwardingBegin ms s
  | .warmHostReset perst => Sys2Proof.Machine.execWarmHostReset perst s
  | .flr f => Sys2Proof.Machine.execFlr f s
  | .vfRemoval fns => Sys2Proof.Machine.execVfRemoval fns s
  | .busMasterEnableSet f => Sys2Proof.Machine.execBusMasterEnableSet f s
  | .d3hotTransition f enter => Sys2Proof.Machine.execD3hotTransition f enter s
  | .msixUnmask f vector => Sys2Proof.Machine.execMsixUnmask f vector s
  | .ideStreamInsecure stream => Sys2Proof.Machine.execIdeStreamInsecure stream s
  | .portLinkChange port up => Sys2Proof.Machine.execPortLinkChange port up s
  | .frameReceived fr ctrError => Sys2Proof.Machine.execFrameReceived fr ctrError s
  | .copyTransmitStart port stamp => Sys2Proof.Machine.execCopyTransmitStart port stamp s
  | .copyDiscardTimeout copy => Sys2Proof.Machine.execCopyDiscardTimeout copy s
  | .drainEnd f => Sys2Proof.Machine.execDrainEnd f s
  | .lanDeadTimeout port => Sys2Proof.Machine.execLanDeadTimeout port s
  | .dupSourceForget pair src => Sys2Proof.Machine.execDupSourceForget pair src s
  | .supervisionSend => Sys2Proof.Machine.execSupervisionSend s
  | .tick ocxoTemp sense => Sys2Proof.Machine.execTick ocxoTemp sense s
  | .ppsEdge offset => Sys2Proof.Machine.execPpsEdge offset s
  | .ppsMissing => Sys2Proof.Machine.execPpsMissing s
  | .irigbFrame f => Sys2Proof.Machine.execIrigbFrame f s
  | .tenMhzLoss freq => Sys2Proof.Machine.execTenMhzLoss freq s
  | .ptpMessageProcess domain m => Sys2Proof.Machine.execPtpMessageProcess domain m s
  | .ptpAnnounceTimeout => Sys2Proof.Machine.execPtpAnnounceTimeout s
  | .ptpSyncTimeout => Sys2Proof.Machine.execPtpSyncTimeout s
  | .referenceFailure r => Sys2Proof.Machine.execReferenceFailure r s
  | .qualificationComplete r => Sys2Proof.Machine.execQualificationComplete r s
  | .referenceSelect => Sys2Proof.Machine.execReferenceSelect s
  | .ocxoFailed ppm => Sys2Proof.Machine.execOcxoFailed ppm s
  | .checkpoint => Sys2Proof.Machine.execCheckpoint s
  | .angleCoast => Sys2Proof.Machine.execAngleCoast s
  | .angleLost => Sys2Proof.Machine.execAngleLost s
  | .angleReached ctx => Sys2Proof.Machine.execAngleReached ctx s
  | .planSwitch => Sys2Proof.Machine.execPlanSwitch s
  | .deferredSwitch => Sys2Proof.Machine.execDeferredSwitch s
  | .partitionReleaseEffect f => Sys2Proof.Machine.execPartitionReleaseEffect f s
  | .entryReload f entry standby ok => Sys2Proof.Machine.execEntryReload f entry standby ok s
  | .matchStoreRebuild entries done => Sys2Proof.Machine.execMatchStoreRebuild entries done s
  | .dualKeyPadWindow entry => Sys2Proof.Machine.execDualKeyPadWindow entry s
  | .acceptIntervalOpen entry => Sys2Proof.Machine.execAcceptIntervalOpen entry s
  | .acceptIntervalClose entry => Sys2Proof.Machine.execAcceptIntervalClose entry s
  | .padRefill entry => Sys2Proof.Machine.execPadRefill entry s
  | .keyLifetimePassed handle => Sys2Proof.Machine.execKeyLifetimePassed handle s
  | .keySlotRepair handle waiting => Sys2Proof.Machine.execKeySlotRepair handle waiting s
  | .recordAppend => Sys2Proof.Machine.execRecordAppend s
  | .summaryClose entry cause => Sys2Proof.Machine.execSummaryClose entry cause s
  | .windowOpen number => Sys2Proof.Machine.execWindowOpen number s
  | .windowClose number => Sys2Proof.Machine.execWindowClose number s
  | .budgetHourRoll => Sys2Proof.Machine.execBudgetHourRoll s
  | .zoneReleaseErase => Sys2Proof.Machine.execZoneReleaseErase s
  | .mkaExchange port pdu => Sys2Proof.Machine.execMkaExchange port pdu s
  | .mkaHello port => Sys2Proof.Machine.execMkaHello port s
  | .mkaLifeExpiry port => Sys2Proof.Machine.execMkaLifeExpiry port s
  | .pnExhausted port => Sys2Proof.Machine.execPnExhausted port s
  | .gdoiPushReceived f group ident kind material notBefore notAfter => Sys2Proof.Machine.execGdoiPushReceived f group ident kind material notBefore notAfter s
  | .gdoiKdcPush handle => Sys2Proof.Machine.execGdoiKdcPush handle s
  | .pkeOperationStart engine => Sys2Proof.Machine.execPkeOperationStart engine s
  | .pkeValidationEnd engine => Sys2Proof.Machine.execPkeValidationEnd engine s
  | .pkeOperationFinish engine upset => Sys2Proof.Machine.execPkeOperationFinish engine upset s
  | .pkeAbort engine cause => Sys2Proof.Machine.execPkeAbort engine cause s
  | .pkeAbortRelease engine => Sys2Proof.Machine.execPkeAbortRelease engine s
  | .pkeSetmod engine c => Sys2Proof.Machine.execPkeSetmod engine c s
  | .pkeLoadkey engine c => Sys2Proof.Machine.execPkeLoadkey engine c s
  | .pkeStore engine c => Sys2Proof.Machine.execPkeStore engine c s
  | .pkeMmul engine c => Sys2Proof.Machine.execPkeMmul engine c s
  | .pkeMadd engine c => Sys2Proof.Machine.execPkeMadd engine c s
  | .pkeMsub engine c => Sys2Proof.Machine.execPkeMsub engine c s
  | .pkeMac engine c => Sys2Proof.Machine.execPkeMac engine c s
  | .pkeCswap engine c => Sys2Proof.Machine.execPkeCswap engine c s
  | .pkeTsel engine c => Sys2Proof.Machine.execPkeTsel engine c s
  | .pkeCopy engine c => Sys2Proof.Machine.execPkeCopy engine c s
  | .pkeSetc engine c => Sys2Proof.Machine.execPkeSetc engine c s
  | .pkeCheck engine c => Sys2Proof.Machine.execPkeCheck engine c s
  | .pkePcheck engine c => Sys2Proof.Machine.execPkePcheck engine c s
  | .pkeEq engine c => Sys2Proof.Machine.execPkeEq engine c s
  | .pkeEndv engine c => Sys2Proof.Machine.execPkeEndv engine c s
  | .pkeRepeat engine c => Sys2Proof.Machine.execPkeRepeat engine c s
  | .pkeEnd engine c => Sys2Proof.Machine.execPkeEnd engine c s
  | .rnuHealthFailure cause source startup taken partly => Sys2Proof.Machine.execRnuHealthFailure cause source startup taken partly s
  | .rnuStartupPass => Sys2Proof.Machine.execRnuStartupPass s
  | .rnuReseed => Sys2Proof.Machine.execRnuReseed s
  | .bellowsRefill => Sys2Proof.Machine.execBellowsRefill s
  | .bellowsFlush => Sys2Proof.Machine.execBellowsFlush s
  | .expanderReinstantiate => Sys2Proof.Machine.execExpanderReinstantiate s
  | .doorbellWrite f ring value => Sys2Proof.Machine.execDoorbellWrite f ring value s
  | .arbitrationRound mem => Sys2Proof.Machine.execArbitrationRound mem s
  | .headAdvance f ring => Sys2Proof.Machine.execHeadAdvance f ring s
  | .moderationTimer f ring => Sys2Proof.Machine.execModerationTimer f ring s
  | .completeByExpiry ctx => Sys2Proof.Machine.execCompleteByExpiry ctx s
  | .dataPortOpen f out => Sys2Proof.Machine.execDataPortOpen f out s
  | .dataPortWrite f offset bytes => Sys2Proof.Machine.execDataPortWrite f offset bytes s
  | .dataPortRead f offset len => Sys2Proof.Machine.execDataPortRead f offset len s
  | .dataPortAbort f => Sys2Proof.Machine.execDataPortAbort f s
  | .dataPortTimeout f => Sys2Proof.Machine.execDataPortTimeout f s
  | .ringEnable f ring cfg => Sys2Proof.Machine.execRingEnable f ring cfg s
  | .ringDrain f ring => Sys2Proof.Machine.execRingDrain f ring s
  | .ringInactive f ring => Sys2Proof.Machine.execRingInactive f ring s
  | .workDispatch core readError => Sys2Proof.Machine.execWorkDispatch core readError s
  | .itemCommit core item epoch => Sys2Proof.Machine.execItemCommit core item epoch s
  | .leaseExpiry core => Sys2Proof.Machine.execLeaseExpiry core s
  | .coreResetDone core => Sys2Proof.Machine.execCoreResetDone core s
  | .coreMemoryError core => Sys2Proof.Machine.execCoreMemoryError core s
  | .qmPacketBegin queue port data => Sys2Proof.Machine.execQmPacketBegin queue port data s
  | .qmRead queue => Sys2Proof.Machine.execQmRead queue s
  | .qmDropRemainder queue => Sys2Proof.Machine.execQmDropRemainder queue s
  | .delayListRebuild list => Sys2Proof.Machine.execDelayListRebuild list s
  | .internalAccess a => Sys2Proof.Machine.execInternalAccess a s
  | .acUpdateOpen mask core epoch => Sys2Proof.Machine.execAcUpdateOpen mask core epoch s
  | .acUpdateClose writes => Sys2Proof.Machine.execAcUpdateClose writes s
  | .acUpdateTimeout => Sys2Proof.Machine.execAcUpdateTimeout s
  | .scrubRead w last => Sys2Proof.Machine.execScrubRead w last s
  | .memoryError w => Sys2Proof.Machine.execMemoryError w s
  | .busIntegrityError x e again => Sys2Proof.Machine.execBusIntegrityError x e again s
  | .tamperAlarm cause source data cycles => Sys2Proof.Machine.execTamperAlarm cause source data cycles s
  | .quenchWPath failed x => Sys2Proof.Machine.execQuenchWPath failed x s
  | .quenchRErase => Sys2Proof.Machine.execQuenchRErase s
  | .lightDisagreeTimeout designB elements cycles => Sys2Proof.Machine.execLightDisagreeTimeout designB elements cycles s
  | .cellTest mv cycles => Sys2Proof.Machine.execCellTest mv cycles s
  | .journalOverflowHour => Sys2Proof.Machine.execJournalOverflowHour s
  | .snowdropAlarm cause source data cycles => Sys2Proof.Machine.execSnowdropAlarm cause source data cycles s
  | .restrictClear => Sys2Proof.Machine.execRestrictClear s
  | .debugTokenExpiry => Sys2Proof.Machine.execDebugTokenExpiry s
  | .debugEnd => Sys2Proof.Machine.execDebugEnd s
  | .rollingTestPeriod sig => Sys2Proof.Machine.execRollingTestPeriod sig s
  | .firmwareTrialCommit => Sys2Proof.Machine.execFirmwareTrialCommit s
  | .settingStore => Sys2Proof.Machine.execSettingStore s
  | .settingTakesEffect => Sys2Proof.Machine.execSettingTakesEffect s
  | .registerWrite f offset len value x => Sys2Proof.Machine.execRegisterWrite f offset len value x s
  | .streamCounterLatch f entry error => Sys2Proof.Machine.execStreamCounterLatch f entry error s
  | .portCounterLatch port => Sys2Proof.Machine.execPortCounterLatch port s
  | .portCfgWrite port value => Sys2Proof.Machine.execPortCfgWrite port value s
  | .pairCfgWrite pair value => Sys2Proof.Machine.execPairCfgWrite pair value s
  | .loopCfgWrite loop value => Sys2Proof.Machine.execLoopCfgWrite loop value s
  | .coreGroupsWrite core value => Sys2Proof.Machine.execCoreGroupsWrite core value s
  | .testPatternWrite value => Sys2Proof.Machine.execTestPatternWrite value s
  | .ringZonesWrite value => Sys2Proof.Machine.execRingZonesWrite value s
  | .refPriorityWrite value => Sys2Proof.Machine.execRefPriorityWrite value s
  | .ptpCfgWrite value => Sys2Proof.Machine.execPtpCfgWrite value s
  | .tenMhzCfgWrite value => Sys2Proof.Machine.execTenMhzCfgWrite value s
  | .refChannelWrite value => Sys2Proof.Machine.execRefChannelWrite value s
  | .denyRecordRead => Sys2Proof.Machine.execDenyRecordRead s
  | .smbusIdentity address => Sys2Proof.Machine.execSmbusIdentity address s
  | .smbusEnvironment address => Sys2Proof.Machine.execSmbusEnvironment address s
  | .smbusStatus address => Sys2Proof.Machine.execSmbusStatus address s
  | .smbusAlertResponse => Sys2Proof.Machine.execSmbusAlertResponse s
  | .jtagIdcode => Sys2Proof.Machine.execJtagIdcode s
  | .jtagBypass => Sys2Proof.Machine.execJtagBypass s
  | .pad f ring len => Sys2Proof.Machine.execPad f ring len s
  | .nop q => Sys2Proof.Machine.execNop q s
  | .keyLoad q vault b => Sys2Proof.Machine.execKeyLoad q vault b s
  | .keyUnload q handle => Sys2Proof.Machine.execKeyUnload q handle s
  | .keyGenerate q kind flags keyLen usage ident group notBefore notAfter => Sys2Proof.Machine.execKeyGenerate q kind flags keyLen usage ident group notBefore notAfter s
  | .keyBlobRead q handle => Sys2Proof.Machine.execKeyBlobRead q handle s
  | .keyVaultStore q handle => Sys2Proof.Machine.execKeyVaultStore q handle s
  | .keyVaultDelete q handle => Sys2Proof.Machine.execKeyVaultDelete q handle s
  | .keyReserve q kind vault usage ident group => Sys2Proof.Machine.execKeyReserve q kind vault usage ident group s
  | .keyReserveCancel q handle => Sys2Proof.Machine.execKeyReserveCancel q handle s
  | .keyAttest q handle challenge => Sys2Proof.Machine.execKeyAttest q handle challenge s
  | .deviceAttest q kind challenge => Sys2Proof.Machine.execDeviceAttest q kind challenge s
  | .temperApply q m => Sys2Proof.Machine.execTemperApply q m s
  | .hash q alg input => Sys2Proof.Machine.execHash q alg input s
  | .macGenerate q handle alg tagLen iv input => Sys2Proof.Machine.execMacGenerate q handle alg tagLen iv input s
  | .macVerify q handle alg tagLen iv tag input => Sys2Proof.Machine.execMacVerify q handle alg tagLen iv tag input s
  | .aeadEncrypt q handle tagLen genIv iv aadLen input => Sys2Proof.Machine.execAeadEncrypt q handle tagLen genIv iv aadLen input s
  | .aeadDecrypt q handle tagLen genIv iv aadLen input => Sys2Proof.Machine.execAeadDecrypt q handle tagLen genIv iv aadLen input s
  | .ecdsaSign q handle message input => Sys2Proof.Machine.execEcdsaSign q handle message input s
  | .ecdsaVerify q curve message input => Sys2Proof.Machine.execEcdsaVerify q curve message input s
  | .eddsaSign q handle input => Sys2Proof.Machine.execEddsaSign q handle input s
  | .eddsaVerify q input => Sys2Proof.Machine.execEddsaVerify q input s
  | .keyAgree q handle input => Sys2Proof.Machine.execKeyAgree q handle input s
  | .rsaSign q handle pad hash salt input => Sys2Proof.Machine.execRsaSign q handle pad hash salt input s
  | .rsaDecrypt q handle pad hash salt input => Sys2Proof.Machine.execRsaDecrypt q handle pad hash salt input s
  | .rsaVerify q len pad hash salt input => Sys2Proof.Machine.execRsaVerify q len pad hash salt input s
  | .rsaEncrypt q len pad hash salt input => Sys2Proof.Machine.execRsaEncrypt q len pad hash salt input s
  | .pointValidate q curve input => Sys2Proof.Machine.execPointValidate q curve input s
  | .curveLoad q input => Sys2Proof.Machine.execCurveLoad q input s
  | .curveUnload q curve => Sys2Proof.Machine.execCurveUnload q curve s
  | .sequence q block input => Sys2Proof.Machine.execSequence q block input s
  | .tlsOpen q handle role versions requirePeer cert => Sys2Proof.Machine.execTlsOpen q handle role versions requirePeer cert s
  | .tlsHandshake q session x => Sys2Proof.Machine.execTlsHandshake q session x s
  | .tlsSeal q session typ input => Sys2Proof.Machine.execTlsSeal q session typ input s
  | .tlsUnseal q session input => Sys2Proof.Machine.execTlsUnseal q session input s
  | .tlsClose q session => Sys2Proof.Machine.execTlsClose q session s
  | .tlsPeerCert q session => Sys2Proof.Machine.execTlsPeerCert q session s
  | .randomBytes q length => Sys2Proof.Machine.execRandomBytes q length s
  | .entropyRestart q => Sys2Proof.Machine.execEntropyRestart q s
  | .rawSamples q source count => Sys2Proof.Machine.execRawSamples q source count s
  | .planLoad q length image => Sys2Proof.Machine.execPlanLoad q length image s
  | .planActivate q second rate slot => Sys2Proof.Machine.execPlanActivate q second rate slot s
  | .planRollback q second rate slot => Sys2Proof.Machine.execPlanRollback q second rate slot s
  | .planCancel q => Sys2Proof.Machine.execPlanCancel q s
  | .planRead q copy => Sys2Proof.Machine.execPlanRead q copy s
  | .partitionAssign q fn base size => Sys2Proof.Machine.execPartitionAssign q fn base size s
  | .partitionRelease q fn second => Sys2Proof.Machine.execPartitionRelease q fn second s
  | .counterRead q first count => Sys2Proof.Machine.execCounterRead q first count s
  | .counterSnapshot q first count => Sys2Proof.Machine.execCounterSnapshot q first count s
  | .archiveRead q spec => Sys2Proof.Machine.execArchiveRead q spec s
  | .captureWindow q group start finish => Sys2Proof.Machine.execCaptureWindow q group start finish s
  | .archiveRelease q auth => Sys2Proof.Machine.execArchiveRelease q auth s
  | .journalRead q auth => Sys2Proof.Machine.execJournalRead q auth s
  | .timeStep q auth => Sys2Proof.Machine.execTimeStep q auth s
  | .timedPublish q entry port frame => Sys2Proof.Machine.execTimedPublish q entry port frame s
  | .lifecycleRequest q auth => Sys2Proof.Machine.execLifecycleRequest q auth s
  | .debugAuthorise q t => Sys2Proof.Machine.execDebugAuthorise q t s
  | .selfTestRun q block sig partly => Sys2Proof.Machine.execSelfTestRun q block sig partly s
  | .rollingTest q mode period => Sys2Proof.Machine.execRollingTest q mode period s
  | .moduleInfo q => Sys2Proof.Machine.execModuleInfo q s
  | .portMacsecSet q port priority replay cak => Sys2Proof.Machine.execPortMacsecSet q port priority replay cak s
  | .portMacsecGet q port => Sys2Proof.Machine.execPortMacsecGet q port s
  | .ideRequiredSet q auth => Sys2Proof.Machine.execIdeRequiredSet q auth s
  | .configSelect q config => Sys2Proof.Machine.execConfigSelect q config s
  | .firmwareLoad q length slot image => Sys2Proof.Machine.execFirmwareLoad q length slot image s
  | .firmwareSelect q slot => Sys2Proof.Machine.execFirmwareSelect q slot s
  | .vfSetup q fn rings scope ctxs slots delays => Sys2Proof.Machine.execVfSetup q fn rings scope ctxs slots delays s
  | .vfFreeze q fn => Sys2Proof.Machine.execVfFreeze q fn s
  | .vfSave q fn => Sys2Proof.Machine.execVfSave q fn s
  | .vfRestore q fn length image => Sys2Proof.Machine.execVfRestore q fn length image s
  | .vfThaw q fn => Sys2Proof.Machine.execVfThaw q fn s
  | .ptpMessageTransmit port what => Sys2Proof.Machine.execPtpMessageTransmit port what s
  | .irigbFrameMissing => Sys2Proof.Machine.execIrigbFrameMissing s
  | .dualKeyPadWindowEnd entry => Sys2Proof.Machine.execDualKeyPadWindowEnd entry s
  | .resetNRelease x => Sys2Proof.Machine.execResetNRelease x s
  | .perstNDeassert => Sys2Proof.Machine.execPerstNDeassert s
  | .busMasterEnableClear f => Sys2Proof.Machine.execBusMasterEnableClear f s
  | .spdmDoeExchange m => Sys2Proof.Machine.execSpdmDoeExchange m s
  | .standbyInputReturn a0 a1 => Sys2Proof.Machine.execStandbyInputReturn a0 a1 s
  | .supplyOutOfRange mv => Sys2Proof.Machine.execSupplyOutOfRange mv s
  | .backupPowerLoss => Sys2Proof.Machine.execBackupPowerLoss s
  | .alarmConditionAbsent cause source => Sys2Proof.Machine.execAlarmConditionAbsent cause source s
  | .debugPortAccess a => Sys2Proof.Machine.execDebugPortAccess a s
  | .splitRegisterRead f offset len => Sys2Proof.Machine.execSplitRegisterRead f offset len s

end Sys2Proof.Machine
end

