-- ==== Sys2Proof/Machine/Step.lean ====
section
/-! DEFINITION. One step: the command at the front of the queue is performed with the rest of the queue in place. -/

namespace Sys2Proof.Machine

/-- The next command that waits. On an empty queue the module idles: every time-driven effect is a command of its own (TICK and the
timeouts). -/
def step (s : State) : Host.Outcome State Fault Refusal :=
  match s.pending with
  | [] => .next s
  | c :: rest => exec c { s with pending := rest }

/-- A command joins the queue at its end: first in, first out. -/
def State.send (s : State) (c : Instr) : State := { s with pending := s.pending ++ [c] }

/-- The command that a word spells, put at the front of the queue; the state itself where the word spells none. -/
def State.withFetchWord (s : State) (nbits w : Nat) : State :=
  match decodeTableWord nbits w with
  | some c => { s with pending := c :: s.pending }
  | none => s

end Sys2Proof.Machine
end

