-- ==== Sys2Proof/Safety.lean ====
section
/-! DEFINITION. The vocabulary of the claims: when an operation is performed at once, what a command answers, and what counts as a
well-kept module. -/

namespace Sys2Proof.Machine

/-- The state in which performing an operation leaves the module, before its completion is staged. -/
def OpOut.after (s : State) : OpOut → State
  | .done _ t => t
  | .running t => t
  | .wait => s
  | .busy => s

/-- A command answers a next state that satisfies `p`. -/
def Answers (c : Instr) (s : State) (p : State → Prop) : Prop := ∃ t, exec c s = .next t ∧ p t

/-- An operation passes every check that all operations share (R465), and has not completed yet. -/
def ready (op : Nat) (q : Call) (space : Nat) (s : State) : Bool :=
  s.running && !staged q s && (opGate op q space s).isNone

/-- A memory request of the host to a function's apertures is performed (R415, R679). -/
def reaches (f : Nat) (s : State) : Bool := s.running && !s.ideBlocks && !(s.func f).d3hot

/-- An engine takes a command of its sequence: its operation runs, no REPEAT is under way, and the command is no error. -/
def takes (e op : Nat) (c : PkeCmd) (s : State) : Bool :=
  s.running && (s.engine e).running && (s.engine e).rep.isNone &&
    !cmdError (isLong e) (s.engine e).slotLen (Tbl.has (s.engine e).mctx) { c with op }

/-- What no later entry changes in a journal entry: all but SUBSUMED, which an alarm of the same instant may set (R601), and
MAC, which covers it (R616). -/
def lastingEntry (e : JournalEntry) : JournalEntry := { e with subsumed := false, mac := 0 }

/-- The journal as its entries last, newest first. -/
def State.journalLasting (s : State) : List JournalEntry := s.tm.journal.map lastingEntry

/-- The journal is in order of INDEX from 0, holds at most 16,384 entries, and is full when it holds them all (R614). -/
def journalOrdered (t : Tm) : Prop :=
  t.journal.map (·.index) = (List.range t.journal.length).reverse ∧ t.journal.length ≤ 16384 ∧
    (t.full = false → t.journal.length < 16384)

/-- The lifetime counters are 32 bits wide (R618). -/
def countersOk (t : Tm) : Prop := Tbl.wf t.counters = true ∧ ∀ cause, Tbl.get 0 t.counters cause ≤ 0xFFFFFFFF

/-- What holds of every well-kept module: the journal in order, the lifetime counters within 32 bits, at most 32 staged
alarms, 1,024 capture windows, 8,192 TLS sessions and the 16 blocks of Bellows, and the register tables in canonical form. -/
structure Inv (s : State) : Prop where
  journal : journalOrdered s.tm
  counters : countersOk s.tm
  staging : s.tm.staging.length ≤ 32
  windows : s.arc.windows.length ≤ 1024
  sessionsWf : Tbl.wf s.tls.sessions = true
  sessions : s.tls.sessions.length ≤ 8192
  bellows : s.rnu.bellows.length ≤ 16
  ev : Tbl.wf s.ev = true
  rw : Tbl.wf s.rw = true
  store : Tbl.wf s.store = true

/-! ### What a command may change -/

/-- The parts of the state that a command may change, beside the queue, which `step` alone changes. -/
inductive Part where
  | sck | arc | pln | fe | hif | ts | key | pke | rnu | tls | ac
  | tm | lcc | stc | pwr | io | ev | rw | store | writes | out | free
deriving DecidableEq, Repr

/-- Every part. -/
def allParts : List Part :=
  [.sck, .arc, .pln, .fe, .hif, .ts, .key, .pke, .rnu, .tls, .ac, .tm,
   .lcc, .stc, .pwr, .io, .ev, .rw, .store, .writes, .out, .free]

/-- Every part but those listed. -/
def allBut (l : List Part) : List Part := allParts.filter fun p => !l.contains p

/-- The parts a command may change, in any state and for any operands. A part that is not listed is left as it was.
One that is listed may change with the operands and the state; what becomes of it is the meaning of the command. -/
def mayTouch : Instr → List Part
  | .summaryClose .. | .windowOpen .. | .windowClose .. | .budgetHourRoll .. => [.arc]
  | .dupSourceForget .. | .supervisionSend .. | .dualKeyPadWindow .. | .acceptIntervalOpen ..
    | .acceptIntervalClose .. | .padRefill .. | .gdoiKdcPush .. | .ptpMessageTransmit .. | .dualKeyPadWindowEnd .. => [.fe]
  | .dataPortOpen .. | .busMasterEnableClear .. => [.hif]
  | .quenchRErase .. => [.key]
  | .smbusIdentity .. | .smbusStatus .. | .jtagIdcode .. | .jtagBypass .. => [.out]
  | .pkeOperationStart .. | .pkeAbortRelease .. => [.pke]
  | .alarmConditionAbsent .. => [.tm]
  | .qmDropRemainder .. => [.ts]
  | .denyRecordRead .. => [.ac, .out]
  | .lanDeadTimeout .. | .mkaHello .. | .mkaLifeExpiry .. | .pnExhausted .. => [.arc, .fe]
  | .portCounterLatch .. => [.fe, .out]
  | .busMasterEnableSet .. | .d3hotTransition .. | .msixUnmask .. | .headAdvance .. | .moderationTimer ..
    | .dataPortRead .. | .ringEnable .. | .ringInactive .. | .pad .. => [.hif, .out]
  | .smbusAlertResponse .. => [.io, .out]
  | .smbusEnvironment .. => [.out, .free]
  | .snowdropEntry .. | .standbyInputReturn .. => [.pwr, .io]
  | .rnuReseed .. | .bellowsRefill .. | .expanderReinstantiate .. => [.rnu, .free]
  | .testPatternWrite .. => [.rnu, .out]
  | .acUpdateOpen .. => [.ts, .ac]
  | .loopCfgWrite .. | .ringZonesWrite .. => [.writes, .out]
  | .ideStreamInsecure .. => [.hif, .ev, .out]
  | .angleReached .. | .completeByExpiry .. | .ringDrain .. | .workDispatch .. | .itemCommit .. | .nop ..
    | .keyBlobRead .. | .keyAttest .. | .deviceAttest .. | .hash .. | .macGenerate .. | .macVerify ..
    | .aeadDecrypt .. | .tlsPeerCert .. | .planRead .. | .counterRead .. | .archiveRead .. | .moduleInfo ..
    | .portMacsecGet .. | .vfSetup .. | .vfThaw .. => [.hif, .ts, .out]
  | .portCfgWrite .. => [.rw, .writes, .out]
  | .snowdropAlarm .. => [.sck, .key, .tm]
  | .perstNDeassert .. => [.arc, .fe, .hif, .io]
  | .forwardingBegin .. => [.arc, .fe, .pwr, .io]
  | .mkaExchange .. => [.arc, .fe, .rnu, .free]
  | .counterSnapshot .. | .captureWindow .. => [.arc, .hif, .ts, .out]
  | .portMacsecSet .. => [.fe, .hif, .ts, .out]
  | .coreGroupsWrite .. | .refPriorityWrite .. | .ptpCfgWrite .. | .tenMhzCfgWrite .. | .refChannelWrite .. =>
      [.hif, .ev, .writes, .out]
  | .qmRead .. => [.hif, .ts, .ev, .out]
  | .keyReserve .. | .keyReserveCancel .. => [.hif, .ts, .key, .out]
  | .curveUnload .. => [.hif, .ts, .pke, .out]
  | .configSelect .. | .firmwareLoad .. | .firmwareSelect .. => [.hif, .ts, .pwr, .out]
  | .entropyRestart .. => [.hif, .ts, .rnu, .out]
  | .rollingTest .. => [.hif, .ts, .stc, .out]
  | .tlsSeal .. | .tlsUnseal .. | .tlsClose .. => [.hif, .ts, .tls, .out]
  | .splitRegisterRead .. => [.pln, .hif, .ac, .out]
  | .streamCounterLatch .. | .spdmDoeExchange .. => [.arc, .fe, .hif, .ev, .out]
  | .portLinkChange .. => [.arc, .fe, .hif, .ts, .out]
  | .keyLifetimePassed .. => [.arc, .hif, .key, .ev, .out]
  | .firmwareTrialCommit .. => [.arc, .hif, .pwr, .ev, .out]
  | .journalOverflowHour .. => [.arc, .hif, .tm, .ev, .out]
  | .delayListRebuild .. => [.arc, .hif, .ts, .ev, .out]
  | .keyVaultDelete .. | .journalRead .. | .ideRequiredSet .. => [.arc, .hif, .ts, .key, .out]
  | .planActivate .. | .planRollback .. | .planCancel .. | .partitionAssign .. | .partitionRelease .. =>
      [.arc, .pln, .hif, .ts, .out]
  | .qmPacketBegin .. => [.fe, .hif, .ts, .ev, .out]
  | .standbyInputLoss .. | .supplyOutOfRange .. => [.hif, .pwr, .io, .ev, .out]
  | .bellowsFlush .. => [.hif, .rnu, .ev, .out, .free]
  | .keyUnload .. => [.hif, .ts, .key, .ev, .out]
  | .pkeValidationEnd .. => [.hif, .ts, .key, .pke, .out]
  | .leaseExpiry .. | .ecdsaVerify .. | .eddsaVerify .. | .rsaDecrypt .. | .rsaVerify .. | .pointValidate .. =>
      [.hif, .ts, .pke, .ev, .out]
  | .aeadEncrypt .. | .randomBytes .. | .rawSamples .. | .vfSave .. => [.hif, .ts, .rnu, .out, .free]
  | .tlsOpen .. => [.hif, .ts, .tls, .out, .free]
  | .matchStoreRebuild .. => [.pln, .fe, .hif, .ev, .out]
  | .backupPowerLoss .. => [.sck, .arc, .key, .tm, .pwr]
  | .rollingTestPeriod .. => [.arc, .fe, .hif, .stc, .ev, .out]
  | .copyTransmitStart .. | .copyDiscardTimeout .. => [.arc, .fe, .hif, .ts, .ev, .out]
  | .debugTokenExpiry .. | .debugEnd .. | .debugAuthorise .. => [.arc, .hif, .ts, .lcc, .ev, .out]
  | .coreMemoryError .. => [.arc, .hif, .ts, .pke, .ev, .out]
  | .entryReload .. => [.arc, .pln, .fe, .hif, .ev, .out]
  | .planLoad .. => [.arc, .pln, .hif, .ts, .ev, .out]
  | .tlsHandshake .. => [.hif, .ts, .rnu, .tls, .out, .free]
  | .ppsEdge .. | .ppsMissing .. | .irigbFrame .. | .tenMhzLoss .. | .ptpAnnounceTimeout .. | .ptpSyncTimeout ..
    | .referenceFailure .. | .qualificationComplete .. | .referenceSelect .. | .angleCoast .. | .angleLost ..
    | .settingTakesEffect .. | .irigbFrameMissing .. => [.sck, .arc, .hif, .ts, .ev, .out]
  | .timeStep .. => [.sck, .arc, .hif, .ts, .key, .out]
  | .pairCfgWrite .. => [.arc, .fe, .hif, .ts, .rw, .writes, .out]
  | .lifecycleRequest .. => [.arc, .hif, .ts, .key, .lcc, .ev, .out]
  | .drainEnd .. => [.arc, .pln, .fe, .hif, .ts, .ev, .out]
  | .keyVaultStore .. => [.arc, .pln, .hif, .ts, .key, .ev, .out]
  | .doorbellWrite .. | .arbitrationRound .. | .dataPortWrite .. | .dataPortAbort .. | .dataPortTimeout ..
    | .vfFreeze .. => [.arc, .pln, .hif, .ts, .pwr, .ev, .out]
  | .ecdsaSign .. | .eddsaSign .. | .keyAgree .. | .rsaSign .. | .rsaEncrypt .. | .curveLoad .. =>
      [.hif, .ts, .pke, .rnu, .ev, .out, .free]
  | .ptpMessageProcess .. => [.sck, .arc, .fe, .hif, .ts, .ev, .out]
  | .planSwitch .. | .deferredSwitch .. | .partitionReleaseEffect .. => [.sck, .arc, .pln, .fe, .hif, .ts, .ev, .out]
  | .keySlotRepair .. | .rnuStartupPass .. => [.arc, .fe, .hif, .ts, .key, .rnu, .ev, .out, .free]
  | .gdoiPushReceived .. => [.arc, .pln, .fe, .hif, .key, .rnu, .ev, .out, .free]
  | .sequence .. => [.arc, .pln, .hif, .ts, .pke, .pwr, .ev, .out, .free]
  | .timedPublish .. => [.sck, .arc, .fe, .hif, .ts, .key, .ev, .out, .free]
  | .zoneReleaseErase .. | .restrictClear .. => [.arc, .fe, .hif, .key, .rnu, .tm, .io, .ev, .out, .free]
  | .keyLoad .. | .keyGenerate .. | .vfRestore .. => [.arc, .pln, .fe, .hif, .ts, .key, .rnu, .ev, .out, .free]
  | .warmHostReset .. => [.arc, .pln, .fe, .hif, .ts, .pwr, .io, .ev, .rw, .out]
  | .frameReceived .. => [.sck, .arc, .pln, .fe, .hif, .ts, .key, .ev, .out, .free]
  | .temperApply .. => [.arc, .pln, .fe, .hif, .ts, .key, .rnu, .tm, .ev, .out, .free]
  | .flr .. | .vfRemoval .. => [.arc, .pln, .fe, .hif, .ts, .pke, .tls, .pwr, .ev, .rw, .out]
  | .recordAppend .. | .pkeOperationFinish .. | .pkeAbort .. | .pkeEndv .. | .pkeRepeat .. | .pkeEnd ..
    | .coreResetDone .. | .archiveRelease .. =>
      [.arc, .pln, .fe, .hif, .ts, .key, .pke, .rnu, .tls, .tm, .lcc, .stc, .io, .ev, .out]
  | .internalAccess .. | .acUpdateClose .. | .acUpdateTimeout .. =>
      [.arc, .pln, .fe, .hif, .ts, .key, .pke, .rnu, .tls, .ac, .tm, .lcc, .stc, .io, .ev, .out]
  | .pkeSetmod .. | .pkeLoadkey .. | .pkeStore .. | .pkeMmul .. | .pkeMadd .. | .pkeMsub .. | .pkeMac ..
    | .pkeCswap .. | .pkeTsel .. | .pkeCopy .. | .pkeSetc .. | .pkeCheck .. | .pkePcheck .. | .pkeEq ..
    | .rnuHealthFailure .. | .selfTestRun .. =>
      [.arc, .pln, .fe, .hif, .ts, .key, .pke, .rnu, .tls, .tm, .lcc, .stc, .io, .ev, .out, .free]
  | .ocxoFailed .. | .checkpoint .. | .tamperAlarm .. | .lightDisagreeTimeout .. | .cellTest .. =>
      [.sck, .arc, .pln, .fe, .hif, .ts, .key, .pke, .rnu, .tls, .tm, .lcc, .stc, .io, .ev, .out]
  | .scrubRead .. | .memoryError .. | .busIntegrityError .. => allBut [.sck, .pwr, .rw, .store, .writes]
  | .tick .. => allBut [.ac, .rw, .store, .writes, .free]
  | .debugPortAccess .. => allBut [.sck, .rw, .store, .writes]
  | .settingStore .. => allBut [.ac, .pwr, .free]
  | .powerGoodFall .. => allBut [.store, .free]
  | .powerGoodRise .. | .resetNAssert .. | .moduleResetRequest .. | .watchdogReset .. | .quenchWPath ..
    | .registerWrite .. | .resetNRelease .. => allBut []

end Sys2Proof.Machine
end

