-- ==== Sys2Proof/Claims.lean ====
section
/-! DEFINITION. The vocabulary of the statements: what a command leaves behind, said once. -/

namespace Sys2Proof.Machine

/-- An event-log record of an owner as it is staged now. -/
def recNow (typ owner : Nat) (body : RecBody) (s : State) : Staged :=
  { log := 0, typ, owner, quality := s.quality, stamp := toStamp s.sck.now, body }

/-- A SECURITY record as it is staged now. -/
def securityNow (what a b c : Nat) (s : State) : Staged := recNow 0x31 0x7E (.security what a b c) s

/-- An event status bit reads 1 (R444). -/
def State.event (s : State) (b : EvBlock) (f bit : Nat) : Bool := (s.evReg b f).status.testBit bit

/-- From `s` to `t` a context has finished with a completion: it is free, its entry is marked finished, and the output buffer, then
STATUS, RESULT_LEN and DETAIL have been written while its function masters the bus (R422, R427, R434). -/
def Delivered (c : Ctx) (comp : Completion) (s t : State) : Prop :=
  t.hif.ctxs = s.hif.ctxs.filter (fun x => x.id != c.id) ∧
  (c.orphan = 0 → (t.ring c.f c.ring).entries = finishEntry c.count (s.ring c.f c.ring).entries ∧
    ((s.func c.f).masters = true → t.out =
      .status c.f c.ring c.count (statusWord comp.code (comp.recomputed || c.recomputed)) comp.resultLen comp.detail ::
        (if comp.output.isEmpty then s.out else .output c.f c.ring c.count c.hdr.outAddr comp.output :: s.out)))

/-- A reference after a measured offset `o` at grid time `now`: it is present, the offset of the last second before is kept to compare
with, and it is steady where it is within 100 ns of that one (R43). -/
def RefClock.after (v : RefClock) (now : Nat) (o : Int) : RefClock :=
  let p := if v.lastAt / 1000000000 ≠ now / 1000000000 then (if v.measured then some v.offset else none) else v.prev
  { v with present := true, measured := true, offset := o, prev := p, lastAt := now, steady := p.any fun q => decide ((o - q).natAbs ≤ 100) }

/-- From `s` to `t` an operation has been handed to engine `e`, to start when it is idle; no other engine, key or host state has
changed (R340). -/
def Handed (e : Nat) (op : PkeOp) (s t : State) : Prop :=
  (t.engine e).next = some { op with ctx := s.ctxIdFor op.call } ∧ (t.engine e).op = (s.engine e).op ∧
    (∀ j, j ≠ e → t.engine j = s.engine j) ∧ t.key = s.key ∧ t.hif = s.hif

/-- An engine of a class is in service with nothing running and nothing queued, and `e` is the lowest such. -/
abbrev State.idleEngine (s : State) (long : Bool) (e : Nat) : Prop :=
  findEngine s long (fun v => v.op.isNone && v.next.isNone) = some e

/-- From `s` to `t` the banks of partition `p` of function `f` have been swapped at instant `at_`: the old version drains as the standby
copy, frames in flight stay with it, each entry of the new version starts anew or goes on where it continues an old one, and each old
entry whose counters do not carry over has written its final set (R124, R127, R128). -/
def Switched (f at_ : Nat) (p : Partition) (s t : State) : Prop :=
  t.part? f = some { p with
    active := p.held, held := p.active, standby := .draining, deferred := false, instant := at_,
    vaultActive := p.vaultStandby, vaultStandby := p.vaultActive, pinned := true, reload := p.reloadStandby, reloadStandby := p.reload } ∧
  t.fe.frames = s.fe.frames.map (fun (fr : TxFrame) => { fr with oldBank := fr.oldBank || fr.function == f }) ∧
  recNow 0x21 f (.planEvent p.heldVersion (16 * standbyCode .armed + standbyCode .draining) 0) s ∈ t.arc.staging ∧
  (∀ n e, Tbl.find? n (entriesOf p.held) = some e → ∃ r : EntryRt, Tbl.find? n t.fe.entries = some r ∧
    (let o := Tbl.find? n (entriesOf p.active)
     let k := o.any fun x => x.tag == e.tag
     let b : EntryRt := if o.any (fun x => continues x e) then s.rt n false else {}
     r = { b with
       counters := if k then (s.rt n false).counters else [], continuityLost := k && (s.rt n false).continuityLost,
       failKey := if k then (s.rt n false).failKey else none, failTime := if k then (s.rt n false).failTime else none })) ∧
  ∀ n e, (n, e) ∈ entriesOf p.active → ((Tbl.find? n (entriesOf p.held)).any fun x => x.tag == e.tag) = false →
    ({ recNow 0x11 f (.counterSnapshot n e.tag (fourteen (s.rt n false).counters)) s with flags := 1 } : Staged) ∈ t.arc.staging

/-- From `s` to `t` the main domain has started with a reset cause (R660): nothing of the settings' queue is left, the reset is released
and frames are not forwarded yet. Power has failed on the way only where `i` says so, during a wipe. Without a record that the three copies
decide, or with the scrap fuse blown, the module stops (R625, R635). Otherwise the configuration selected is in force, a pending
transition is applied (R629), and the start ends in phase 6 with no firmware, in phase 5 held by a failed test, else in phase 3; in
Scrapped the module stops. -/
def Started (i : StartIn) (cause : Nat) (s t : State) : Prop :=
  t.writes = [] ∧ t.pwr.resetHeld = false ∧ t.pwr.forwardAt = 0 ∧ t.pwr.phase ≠ 4 ∧
  (t.pwr.good = true ∧ t.pwr.main = true ∨ t.pwr.good = false ∧ t.pwr.main = false ∧ i.wipeCut.isSome = true) ∧
  (s.lcc.scrapFuse = true ∨ decideLife (validCopies s.lcc.copies i.copyOk) = none →
    t.pwr.main = true ∧ t.pwr.stopped = true ∧ t.pwr.phase = 0) ∧
  (∀ c, s.lcc.scrapFuse = false → decideLife (validCopies s.lcc.copies i.copyOk) = some c → i.wipeCut = none ∨ c.target = none →
    t.pwr.main = true ∧ t.pwr.resetCause = cause ∧ t.pwr.lupin = s.pwr.lupinNext ∧ t.lcc.st = c.target.getD c.st ∧
    t.lcc.target = none ∧
    if c.target = some .scrapped then t.pwr.stopped = true ∧ t.pwr.phase = 0
    else t.pwr.stopped = false ∧ t.pwr.phase = if t.pwr.running = none then 6 else if t.stc.hold then 5 else 3)

end Sys2Proof.Machine
end

