-- ==== Sys2Proof/Certificates/Slice0/Obligations.lean ====
section
/-! DEFINITION. The statements for the provers. -/

open Sys2Proof Sys2Proof.Machine

/-- Records, checkpoints and summaries are appended, and capture windows open and close. With the archive ready and room in the
open zone of its log, the record staged longest ago leaves staging and becomes the newest record of that log, with the next
SEQ and the fields with which it was staged, and the chain value follows from the previous one and the record (R237, R245).
At a grid second boundary, with the archive ready and room in the event log, a CHECKPOINT record with FLAGS 0 and the next
CP_SEQ becomes its newest record; it covers the three logs as they stood and is signed by AK (R246 to R248). The RTC is set
to grid time while time is valid (R58). When a summary's interval has ended, it leaves the open summaries and is staged as
one record of the event log with its first stamp, its counts and the stamp of its last event, and with the SUMMARY flag
(R244). When the start of a window is reached before its end, and the module forwards, the window is open and its open
record is staged (R256, R257). 1 ms after the end of an open window (log entry 77: when no frame stamped before the end is
left), with no copy of it waiting, the window is gone and its close record with its counts is staged (R257). When RTC hours
have ended, up to 720 of them, the running count becomes an earlier hour's, the hours after it count 0, at most 719 earlier
hours stay, and the new hour's count is 0 (R259). -/
def Obligations.ArchiveRecordsAndWindows : Prop :=
    (∀ (st : Staged) (rest : List Staged) (s : State), s.running = true →
      s.arc.ready = true →
      s.arc.staging = st :: rest →
      hasRoom st.log st.typ st.flags (unitsFor (recBytes st.body)) s = true →
      Answers .recordAppend s (fun t => rest <+: t.arc.staging ∧ (t.arc.log st.log).seq = (s.arc.log st.log).seq + 1 ∧
      ∃ r, r = signRecord s.ak { typ := st.typ, units := unitsFor (recBytes st.body), log := st.log, owner := st.owner, quality := st.quality, flags := st.flags, seq := (s.arc.log st.log).seq + 1, stamp := st.stamp, bodyLen := recBytes st.body - 32, body := st.body } ∧
      (t.arc.log st.log).records = r :: (s.arc.log st.log).records ∧ (t.arc.log st.log).chain = chainNext (s.arc.log st.log).chain r)) ∧
    (∀ (s : State), s.running = true →
      s.sck.now % 1000000000 = 0 →
      s.arc.ready = true →
      hasRoom 0 1 0 6 s = true →
      Answers .checkpoint s (fun t => t.arc.cpSeq = s.arc.cpSeq + 1 ∧ t.arc.log0.seq = s.arc.log0.seq + 1 ∧
      (s.sck.valid = true → t.sck.rtcNs = s.sck.now ∧ t.sck.rtcLost = false) ∧
      ∃ (r : Record) (c : Checkpoint) (sig : Bytes), t.arc.log0.records = r :: s.arc.log0.records ∧
      r.typ = 1 ∧ r.flags = 0 ∧ r.seq = s.arc.log0.seq + 1 ∧ r.stamp = toStamp s.sck.now ∧
      r.body = .checkpoint { c with keyId := digest 1 (p384Public s.ak), sig } ∧
      sig = ownSignature s.ak (headerWith r 0 0 ++ checkpointHead { c with keyId := digest 1 (p384Public s.ak) }) ∧
      c = { cpSeq := s.arc.cpSeq + 1, eventSeq := s.arc.log0.seq, eventChain := s.arc.log0.chain, ringSeq := s.arc.log1.seq, ringChain := s.arc.log1.chain, windowSeq := s.arc.log2.seq, windowChain := s.arc.log2.chain, lostTotal := s.arc.lostTotal, refusedRing := s.arc.refusedRing, refusedWindow := s.arc.refusedWindow, budgetUsed := budgetUsed s, govLevel := s.arc.govLevel })) ∧
    (∀ (entry cause : Nat) (x : Summary) (s : State), s.running = true →
      s.arc.summaries.find? (fun y => y.entry == entry && y.cause == cause) = some x →
      x.opened + summaryInterval s ≤ s.sck.now →
      Answers (.summaryClose entry cause) s (fun t => t.arc.summaries = s.arc.summaries.filter (fun y => !(y.entry == entry && y.cause == cause)) ∧
      t.arc.staging = s.arc.staging ++ [{ log := 0, typ := 0x10, owner := x.owner, quality := x.quality, flags := 64, stamp := toStamp x.first, body := .streamEvent { x.ev with lastStamp := toStamp x.last } }])) ∧
    (∀ (number : Nat) (w : CapWindow) (s : State), s.running = true →
      s.fe.forwarding = true →
      s.arc.windows.find? (fun x => x.number == number) = some w →
      w.opened = false →
      w.start ≤ s.sck.now →
      s.sck.now < w.finish →
      Answers (.windowOpen number) s (fun t => t.arc.windows = setWindow { w with opened := true } s.arc.windows ∧
      t.arc.staging = s.arc.staging ++ [{ log := 0, typ := 8, owner := w.function, quality := s.quality, stamp := toStamp s.sck.now, body := .window w.number w.group (toStamp w.start) (toStamp w.finish) 0 w.written w.refused }])) ∧
    (∀ (number : Nat) (w : CapWindow) (s : State), s.running = true →
      s.arc.windows.find? (fun x => x.number == number) = some w →
      w.opened = true →
      w.finish + 1000000 ≤ s.sck.now →
      windowWaits w s = false →
      Answers (.windowClose number) s (fun t => t.arc.windows = s.arc.windows.filter (fun x => x.number != number) ∧
      t.arc.staging = s.arc.staging ++ [{ log := 0, typ := 8, owner := w.function, quality := s.quality, stamp := toStamp s.sck.now, body := .window w.number w.group (toStamp w.start) (toStamp w.finish) 1 w.written w.refused }])) ∧
    (∀ (k : Nat) (s : State), s.running = true →
      s.sck.rtcCount / (32768 * 3600) = s.arc.hourIndex + 1 + k →
      k < 720 →
      exec .budgetHourRoll s = .next { s with arc := { s.arc with hours := (List.replicate k 0 ++ s.arc.hourNow :: s.arc.hours).take 719, hourNow := 0, hourIndex := s.arc.hourIndex + 1 + k } })

/-- The queue manager, the delay lists and the settings of core groups. A packet that fits is put whole at the tail of its
queue with the stamp and quality of now; in queues 0 to 12 it gets the next work item (R539 to R541). A packet that does
not fit is dropped; for an exception queue the frame is counted in EXC_QUEUE_FULL (index 5) of its port (R539, R540). A
read of a queue with a packet to read delivers its next 64 bytes or what is left, zero-padded, with SOP and EOP as they
apply, and moves on by as much (R541, R542). A read of a queue with nothing to read delivers an idle unit (R543). What is
left of a packet that has been begun is dropped; its cells stay until the commit (R542). A delay list under rebuild gets
back every delayed context that stands on no list, with its due stamp and acceptance number, is in use again, and the event
and a SECURITY record with the list and their number are made (R551); here nothing is due on any list. A write that leaves
every group 0 to 13 with a core waits to be stored (R553, R691). A write that would leave a group without a core changes
nothing but the CFG_REFUSED event (R553). How a rebuilt list is recorded is the model's choice (log entry 79). -/
def Obligations.QueuesAndDelayLists : Prop :=
    (∀ (queue port : Nat) (data : Bytes) (s : State), s.running = true →
      qmFits s.ts queue data.length = true →
      Answers (.qmPacketBegin queue port data) s (fun t => (t.queue queue).packets = (s.queue queue).packets ++ [{ len := data.length, data, stamp := s.sck.now, quality := s.quality, item := if queue ≤ 12 then some s.ts.nextItem else none }])) ∧
    (∀ (queue port : Nat) (data : Bytes) (s : State), s.running = true →
      qmFits s.ts queue data.length = false →
      exec (.qmPacketBegin queue port data) s = .next (if queue ≤ 12 then bumpPort (if queue = 12 then port else queue) 5 1 s else s)) ∧
    (∀ (queue i : Nat) (p : Packet) (s : State), s.running = true →
      readIndex (s.queue queue).packets 0 = some (i, p) →
      p.lostAt = none →
      Answers (.qmRead queue) s (fun t => t.ts.lastUnit.count = min 64 (p.len - p.readPos) ∧
      t.ts.lastUnit.data = (p.data.drop p.readPos).take (min 64 (p.len - p.readPos)) ++ List.replicate (64 - ((p.data.drop p.readPos).take (min 64 (p.len - p.readPos))).length) 0 ∧
      t.ts.lastUnit.sop = (p.readPos == 0) ∧ t.ts.lastUnit.idle = false ∧ t.ts.lastUnit.eop = decide (p.len ≤ p.readPos + 64) ∧
      (t.queue queue).packets = (s.queue queue).packets.set i { p with started := true, readPos := p.readPos + min 64 (p.len - p.readPos) })) ∧
    (∀ (queue : Nat) (s : State), s.running = true →
      readIndex (s.queue queue).packets 0 = none →
      exec (.qmRead queue) s = .next { s with ts := { s.ts with lastUnit := { data := List.replicate 64 0, idle := true } } }) ∧
    (∀ (queue i : Nat) (p : Packet) (s : State), s.running = true →
      readIndex (s.queue queue).packets 0 = some (i, p) →
      p.started = true →
      exec (.qmDropRemainder queue) s = .next (s.setQueue queue { s.queue queue with packets := (s.queue queue).packets.set i { p with dropped := true } })) ∧
    (∀ (list : Nat) (lost : List Ctx) (s : State), s.running = true →
      s.ts.rebuilding.contains list = true →
      lost = s.hif.ctxs.filter (fun c => c.phase == .delayed && !c.lifted && !(s.ts.delay0 ++ s.ts.delay1 ++ s.ts.delay2 ++ s.ts.delay3).any (fun e => e.ctx == c.id)) →
      lost.all (fun c => decide (s.sck.now < stampNs c.hdr.notBefore)) = true →
      (s.ts.delay0 ++ s.ts.delay1 ++ s.ts.delay2 ++ s.ts.delay3).all (fun e => decide (s.sck.now < e.due)) = true →
      Answers (.delayListRebuild list) s (fun t => t.ts.rebuilding = s.ts.rebuilding.filter (· != list) ∧
      t.ts.delay list = s.ts.delay list ++ lost.map (fun c => ({ due := stampNs c.hdr.notBefore, seq := c.dseq, ctx := c.id } : DelayEntry)) ∧
      t.event .ts 0 4 = true ∧ t.arc.staging = s.arc.staging ++ [securityNow secDelayRebuilt list lost.length 0 s])) ∧
    (∀ (core value : Nat) (s : State), reaches 0 s = true →
      core < s.coreCount →
      (List.range 14).all (fun g => (List.range s.coreCount).any fun c => (if c = core then fieldOf value 13 0 else s.soon (regKey 0 (0x4840 + 4 * c)) (s.coreGroups c)).testBit g) = true →
      s.pwr.phase ≠ 7 →
      exec (.coreGroupsWrite core value) s = .next { s with writes := s.writes ++ [(regKey 0 (0x4840 + 4 * core), fieldOf value 13 0)] }) ∧
    (∀ (core value : Nat) (s : State), reaches 0 s = true →
      core < s.coreCount →
      (List.range 14).all (fun g => (List.range s.coreCount).any fun c => (if c = core then fieldOf value 13 0 else s.soon (regKey 0 (0x4840 + 4 * c)) (s.coreGroups c)).testBit g) = false →
      exec (.coreGroupsWrite core value) s = .next (raiseEvent .ts 0 5 s))

/-- Work is given to a waiting core under a new lease epoch and committed under that epoch only. A waiting core in service gets
the head item of the next group with credit that it serves, the credits set to the weights first where every candidate has
none: it runs, its lease begins now, the group's credit falls by one, and the item leaves the ready list under its next
epoch (R526, R529). Setting the credits to the weights does so for each group 0 to 13 (R526). A timed action found later
than its LATENESS_TOL, or with time not valid, is not given to the core: its item goes, and it finishes with
DEADLINE_MISSED or TIME_NOT_LOCKED (R438, R469). An entry of the head group with an input buffer and no due time, whose
read from host memory fails, is not given to the core: its item goes, and it finishes with ABORTED (R426). A packet item
committed under its epoch by the core that runs it is gone, its packet leaves its queue, and the core waits again (R531,
R541). An operation item committed under its epoch by the core that runs it, its completion staged and its data port not in
use, finishes with that completion (R531). A commit under a retired epoch changes no item: it is a stale write and is
counted (R530). -/
def Obligations.CoresTakeAndCommitWork : Prop :=
    (∀ (core g : Nat) (i : WorkItem) (s s1 : State), s.running = true ∧ s.regionOff 4 = false →
      (s.coreRt core).st = .waiting ∧ (s.coreRt core).halted = false ∧ (s.coreRt core).testing = false →
      s1 = (if creditOut s core 16 then refillCredit 14 s else s) →
      searchGroup s1 core ((s1.ts.lastGroup + 1) % 16) 16 = some g →
      groupHead s1 g = some i →
      (∀ id c, i.kind = .ctx id → s1.ctx? id = some c → dispatchRefusal s1 c = none) →
      Answers (.workDispatch core false) s (fun t => (t.coreRt core).st = .running ∧
      (t.coreRt core).item = some i.id ∧ (t.coreRt core).group = g ∧ (t.coreRt core).leaseAt = s.sck.now ∧
      t.ts.lastGroup = g ∧ t.credit g = s1.credit g - 1 ∧ Tbl.get [] t.ts.ready g = (Tbl.get [] s1.ts.ready g).filter (· != i.id) ∧
      t.ts.items = putItem { i with epoch := (i.epoch + 1) % 2 ^ 32, core := some core } s1.ts.items)) ∧
    (∀ (g : Nat) (s : State), g < 14 →
      (refillCredit 14 s).credit g = s.groupWeight g) ∧
    (∀ (core g id code : Nat) (i : WorkItem) (c : Ctx) (b : Bool) (s s1 : State), s.running = true ∧ s.regionOff 4 = false →
      (s.coreRt core).st = .waiting ∧ (s.coreRt core).halted = false ∧ (s.coreRt core).testing = false →
      s1 = (if creditOut s core 16 then refillCredit 14 s else s) →
      searchGroup s1 core ((s1.ts.lastGroup + 1) % 16) 16 = some g ∧ groupHead s1 g = some i →
      i.kind = .ctx id ∧ s1.ctx? id = some c →
      c.hdr.notBefore ≠ 0 ∧ (c.hdr.opcode = 0x0802 ∨ c.hdr.opcode = 0x0609) →
      (if c.hdr.latenessTol ≠ 0xFFFFFFFF ∧ c.hdr.latenessTol < (s1.sck.now - c.dueTick) / 1000 then code = 0x0401 else (s1.sck.valid = false ∧
      code = 0x0402)) →
      Answers (.workDispatch core b) s (fun t => Delivered c { code } s1 t ∧ (s1.item? i.id = some i →
      t.item? i.id = none))) ∧
    (∀ (core g id : Nat) (i : WorkItem) (c : Ctx) (s s1 : State), s.running = true ∧ s.regionOff 4 = false →
      (s.coreRt core).st = .waiting ∧ (s.coreRt core).halted = false ∧ (s.coreRt core).testing = false →
      s1 = (if creditOut s core 16 then refillCredit 14 s else s) →
      searchGroup s1 core ((s1.ts.lastGroup + 1) % 16) 16 = some g ∧ groupHead s1 g = some i →
      i.kind = .ctx id ∧ s1.ctx? id = some c →
      0 < c.hdr.inLen ∧ c.hdr.notBefore = 0 →
      Answers (.workDispatch core true) s (fun t => Delivered c { code := 0x0701 } s1 t)) ∧
    (∀ (core item epoch q : Nat) (i : WorkItem) (s : State), s.running = true →
      s.item? item = some i →
      i.epoch = epoch ∧ i.core = some core ∧ i.kind = .packet q →
      (s.coreRt core).st = .running →
      Answers (.itemCommit core item epoch) s (fun t => t.item? item = none ∧
      (t.queue q).packets = (s.queue q).packets.filter (fun p => p.item != some item) ∧
      (t.coreRt core).st = .waiting ∧ (t.coreRt core).item = none)) ∧
    (∀ (core item epoch id : Nat) (i : WorkItem) (x : Ctx) (comp : Completion) (s : State), s.running = true →
      s.item? item = some i →
      i.epoch = epoch ∧ i.core = some core ∧ i.kind = .ctx id →
      s.ctx? id = some x →
      x.comp = some comp ∧ x.dataPort = false →
      Answers (.itemCommit core item epoch) s (fun t => Delivered x comp s t)) ∧
    (∀ (core item epoch : Nat) (i : WorkItem) (s : State), s.running = true →
      s.item? item = some i →
      i.epoch ≠ epoch →
      Answers (.itemCommit core item epoch) s (fun t => t.ts.items = s.ts.items ∧
      t.ts.staleWrites = min 0xFFFFFFFF (s.ts.staleWrites + 1)))

/-- Cores whose lease expires or whose memory fails give their work back, and return after their reset. The item of a core
whose lease has run out for its group's lease time goes back to the head of its group's ready list under a raised epoch and
is counted; the core restarts, or is out of service from its third failure within the hour on; it keeps the group and the
retired epoch for its journal entry (R528, R532 to R536). A restarting core that nothing retired waits for work once its
reset is done (R534). The reset of a core that was declared dead makes one CORE_DEAD journal entry with the core, its
group, the retired epoch and the stale writes since; a core that has left service stays out of it (R534, R536). A core with
an item whose memory fails gives it back under a raised epoch, to the head of its group's ready list; it restarts, or is
out of service from its third failure within the hour on, without a journal entry but with a record (R535, R536). A waiting
core whose memory fails restarts, or is out of service from its third failure within the hour on, and is recorded (R535,
R536). DEAD, MEMORY_RESTART and OUT_OF_SERVICE are bits 0, 1 and 2 of TS_EVENT_STATUS. -/
def Obligations.CoresFailAndReturn : Prop :=
    (∀ (core id : Nat) (i : WorkItem) (s : State), s.running = true →
      (s.coreRt core).st = .running ∧ (s.coreRt core).item = some id →
      s.item? id = some i →
      (s.coreRt core).leaseAt + s.groupLease (s.coreRt core).group ≤ s.sck.now ∧
      coreBlocked s (s.coreRt core) = false →
      Answers (.leaseExpiry core) s (fun t => t.item? id = some { i with epoch := (i.epoch + 1) % 2 ^ 32, core := none, readyAt := s.sck.rtcCount } ∧
      Tbl.get [] t.ts.ready i.group = id :: (Tbl.get [] s.ts.ready i.group).filter (· != id) ∧
      t.ts.redispatches = min 0xFFFFFFFF (s.ts.redispatches + 1) ∧ t.event .ts 0 0 = true ∧
      t.coreRt core = { s.coreRt core with st := if 3 ≤ (failuresNow s (s.coreRt core)).length then .outOfService else .restarting, item := none, failures := failuresNow s (s.coreRt core), retired := some ((s.coreRt core).group, i.epoch, 0), declared := min 255 ((s.coreRt core).declared + 1), restarts := min 255 (s.coreRt core).restarts })) ∧
    (∀ (core : Nat) (s : State), s.running = true →
      (s.coreRt core).st = .restarting ∧ (s.coreRt core).retired = none →
      exec (.coreResetDone core) s = .next (s.setCore core { s.coreRt core with st := .waiting })) ∧
    (∀ (core g e n : Nat) (s : State), s.running = true →
      (s.coreRt core).st = .restarting ∨ (s.coreRt core).st = .outOfService →
      (s.coreRt core).retired = some (g, e, n) →
      exec (.coreResetDone core) s = .next (raiseAlarm causeCoreDead core (core + 256 * g + 2 ^ 32 * e + 2 ^ 64 * n) (s.setCore core { s.coreRt core with st := if (s.coreRt core).st = .restarting then .waiting else .outOfService, retired := none }))) ∧
    (∀ (core id : Nat) (i : WorkItem) (s : State), s.running = true →
      (s.coreRt core).st = .running ∧ (s.coreRt core).item = some id →
      s.item? id = some i →
      Answers (.coreMemoryError core) s (fun t => t.item? id = some { i with epoch := (i.epoch + 1) % 2 ^ 32, core := none, readyAt := s.sck.rtcCount } ∧
      Tbl.get [] t.ts.ready i.group = id :: (Tbl.get [] s.ts.ready i.group).filter (· != id) ∧
      t.ts.redispatches = min 0xFFFFFFFF (s.ts.redispatches + 1) ∧ t.event .ts 0 1 = true ∧
      t.tm.journal = s.tm.journal ∧ t.arc.staging = s.arc.staging ++ [securityNow secCoreRestart core 0 0 s] ∧
      t.coreRt core = { s.coreRt core with st := if 3 ≤ (failuresNow s (s.coreRt core)).length then .outOfService else .restarting, item := none, failures := failuresNow s (s.coreRt core), retired := none, declared := min 255 (s.coreRt core).declared, restarts := min 255 ((s.coreRt core).restarts + 1) })) ∧
    (∀ (core : Nat) (s : State), s.running = true →
      (s.coreRt core).st = .waiting ∧ (s.coreRt core).item = none →
      Answers (.coreMemoryError core) s (fun t => t.event .ts 0 1 = true ∧ t.ts.items = s.ts.items ∧
      (t.coreRt core).st = (if 3 ≤ (failuresNow s (s.coreRt core)).length then .outOfService else .restarting) ∧
      t.arc.staging = s.arc.staging ++ [securityNow secCoreRestart core 0 0 s]))

/-- Doorbells, fetching, PAD entries, the head and its mirror, moderation and COMPLETE_BY. A doorbell write to an enabled ring
of a running function moves D to the value written where no more entries than slots are then outstanding (R429). Any other
value halts the function with cause 7, the ring and the value in its halt record, and its event (R429, R446). A doorbell
write to a halted function or to a ring that is not enabled changes nothing (R428). A round with no eligible ring changes
nothing (R433). A round in which one ring is eligible, with one whole entry before D that is well formed and refused on no
ground, takes it for one token: it has a context, and a work item in its opcode's group, or, with an angle, a watch on
which it waits; F moves past it (R430, R433 to R435, R550). That an entry with NOT_BEFORE 0 waits for its angle from its
acceptance on is the model's choice (log entry 110). A malformed entry of the one eligible ring halts its function with the
cause of Table 10-6, the ring, the opcode and the count of the entry (R431, R446). A PAD entry that lies within its ring
and before D is passed: F moves past it, its STATUS is OK, it is finished at once and counts for no message (R432). When
the oldest entries of a ring are finished, H moves past them and the head mirror is written; a message follows where one
that is no PAD asks for it or the moderation count is reached, and none is then unsent (R440, R441, R443). When the
moderation time has passed since the first unsent completion, the ring's message is sent and none is unsent (R443). An
entry not dispatched when COMPLETE_BY comes is not performed: it completes DEADLINE_MISSED, or ENTROPY_NOT_READY where it
is held for randomness, and has no work item (R439). The entries in host memory are an operand of the round (log entry 2). -/
def Obligations.RingsFetchAndFinish : Prop :=
    (∀ (f ring value : Nat) (s : State), reaches f s = true →
      (s.func f).halted = false →
      (s.ring f ring).enabled = true →
      doorbellOk (s.ring f ring) (value % 2 ^ 32) = true →
      exec (.doorbellWrite f ring value) s = .next (s.setRing f ring { s.ring f ring with d := value % 2 ^ 32 })) ∧
    (∀ (f ring value : Nat) (s : State), reaches f s = true →
      (s.func f).halted = false →
      (s.ring f ring).enabled = true →
      doorbellOk (s.ring f ring) (value % 2 ^ 32) = false →
      Answers (.doorbellWrite f ring value) s (fun t => (t.func f).halted = true ∧
      (t.func f).haltCause = 7 ∧ (t.func f).haltRing = ring ∧ (t.func f).haltOpcode = 0 ∧
      (t.func f).haltCount = value % 2 ^ 32 ∧ t.event .hif f 0 = true)) ∧
    (∀ (f ring value : Nat) (s : State), reaches f s = true →
      (s.func f).halted = true ∨ (s.ring f ring).enabled = false →
      exec (.doorbellWrite f ring value) s = .next s) ∧
    (∀ (mem : HostMem) (s : State), s.running = true →
      Tbl.keys (fun k _ => eligible mem s (k / 64) (k % 64)) s.hif.rings = [] →
      exec (.arbitrationRound mem) s = .next s) ∧
    (∀ (mem : HostMem) (f ring : Nat) (e : RawEntry) (row : OpRow) (s : State), s.running = true →
      Tbl.keys (fun k _ => eligible mem s (k / 64) (k % 64)) s.hif.rings = [f * 64 + ring] ∧
      ring < 64 ∧ eligible mem s f ring = true →
      peek mem s f ring = .entry e ∧ countSub (s.ring f ring).d (s.ring f ring).f = e.hdr.length →
      0 < (s.ring f ring).weight ∧ 0 < (s.ring f ring).burst ∧ 0 < mem.length →
      ctxFree s f = true ∧ opRow e.hdr.opcode = some row ∧ acceptRefusal s f e row = none ∧ e.hdr.notBefore = 0 →
      Answers (.arbitrationRound mem) s (fun t => t.ring f ring = { s.ring f ring with f := ((s.ring f ring).f + e.hdr.length) % 2 ^ 32, tokens := (s.ring f ring).weight - 1, entries := (s.ring f ring).entries ++ [((s.ring f ring).f, e.hdr.length, false, false, e.hdr.notify)] } ∧
      t.hif.ctxs = s.hif.ctxs ++ [{ id := s.hif.nextCtx, f, ring, count := (s.ring f ring).f, hdr := e.hdr, phase := if (entryAngle e.hdr e.body).isSome then .held else .queued, dataPort := row.dataPort, needsHost := row.dataPort || decide (0 < e.hdr.inLen), angle := entryAngle e.hdr e.body, slots := fitBytes (64 * e.hdr.length) e.slots, group := groupOfOpcode e.hdr.opcode }] ∧
      (if (entryAngle e.hdr e.body).isSome then t.ts = { s.ts with watches := s.ts.watches ++ [(f, s.hif.nextCtx)] } else t.ts.items = s.ts.items ++ [{ id := s.ts.nextItem, kind := .ctx s.hif.nextCtx, group := groupOfOpcode e.hdr.opcode, readyAt := s.sck.rtcCount }] ∧
      t.ts.ready = Tbl.put (groupOfOpcode e.hdr.opcode) (Tbl.get [] s.ts.ready (groupOfOpcode e.hdr.opcode) ++ [s.ts.nextItem]) s.ts.ready))) ∧
    (∀ (mem : HostMem) (f ring cause op : Nat) (s : State), s.running = true →
      Tbl.keys (fun k _ => eligible mem s (k / 64) (k % 64)) s.hif.rings = [f * 64 + ring] ∧
      ring < 64 ∧ eligible mem s f ring = true →
      peek mem s f ring = .bad cause op →
      0 < (s.ring f ring).weight ∧ 0 < (s.ring f ring).burst →
      Answers (.arbitrationRound mem) s (fun t => (t.func f).halted = true ∧ (t.func f).haltCause = cause ∧
      (t.func f).haltRing = ring ∧ (t.func f).haltOpcode = op ∧ (t.func f).haltCount = (s.ring f ring).f ∧
      t.event .hif f 0 = true)) ∧
    (∀ (f ring len : Nat) (s : State), s.running = true ∧ s.serviceOpen = true →
      (s.ring f ring).enabled = true ∧ (s.ring f ring).draining = false →
      (s.func f).halted = false ∧ (s.func f).masters = true →
      1 ≤ len ∧ len ≤ 64 ∧ len ≤ countSub (s.ring f ring).d (s.ring f ring).f →
      (s.ring f ring).f % (s.ring f ring).slots + len ≤ (s.ring f ring).slots →
      Answers (.pad f ring len) s (fun t => t.ring f ring = { s.ring f ring with f := ((s.ring f ring).f + len) % 2 ^ 32, entries := (s.ring f ring).entries ++ [((s.ring f ring).f, len, true, true, false)] } ∧
      t.out = .status f ring (s.ring f ring).f (statusWord 0 false) 0 0 :: s.out)) ∧
    (∀ (f ring n k : Nat) (notify send : Bool) (rest : List (Nat × Nat × Bool × Bool × Bool)) (s : State), s.running = true →
      finishedRun (s.ring f ring).entries = (n, k, notify, rest) ∧ n ≠ 0 →
      send = (decide (0 < k) && (notify || (decide (0 < (s.ring f ring).modCount) && decide ((s.ring f ring).modCount ≤ (s.ring f ring).unsent + k)))) →
      exec (.headAdvance f ring) s = .next ((if send then sendVector f (s.ring f ring).vector else id) (writeMirror f ring (s.setRing f ring { s.ring f ring with h := ((s.ring f ring).h + n) % 2 ^ 32, entries := rest, unsent := if send then 0 else (s.ring f ring).unsent + k, firstAt := if (s.ring f ring).unsent = 0 then s.sck.now else (s.ring f ring).firstAt })))) ∧
    (∀ (f ring : Nat) (s : State), s.running = true →
      0 < (s.ring f ring).unsent ∧ 0 < (s.ring f ring).modTime ∧ (s.ring f ring).firstAt + (s.ring f ring).modTime * 1000 ≤ s.sck.now →
      exec (.moderationTimer f ring) s = .next (sendVector f (s.ring f ring).vector (s.setRing f ring { s.ring f ring with unsent := 0 }))) ∧
    (∀ (id : Nat) (x : Ctx) (s : State), s.running = true →
      s.ctx? id = some x →
      x.hdr.completeBy ≠ 0 ∧ stampNs x.hdr.completeBy ≤ s.sck.now ∧ x.lifted = false →
      x.phase = .queued ∨ x.phase = .delayed ∨ x.phase = .held →
      Answers (.completeByExpiry id) s (fun t => Delivered x { code := if x.phase = .held ∧ x.angle = none then 0x0801 else 0x0401 } s t ∧
      t.ts.items = s.ts.items.filter (fun i => i.kind != .ctx id)))

/-- A ring is enabled from its configuration, drains, and becomes inactive. Enabling a ring whose configuration has no cause
against it leaves it enabled with the fields of the write and its counts 0, and writes its head mirror (R418, R441). A
configuration that is refused leaves the ring disabled and its cause in CFG_CAUSE (R419). A draining ring is not enabled:
its fields stay and CFG_CAUSE shows a cause, 7 where no other stands (R418 to R420). Clearing ENABLE with no entry of the
ring on a delay list leaves the ring draining and writes its mirror (R420). An entry of the ring that waits on a delay list
is squashed as the ring starts to drain (R420, R454). A draining ring with no accepted entry left is inactive (R420). -/
def Obligations.RingsEnableAndDrain : Prop :=
    (∀ (f ring cfg : Nat) (s : State), reaches f s = true →
      (s.ring f ring).enabled = false ∧ (s.ring f ring).draining = false →
      enableCause s f ring (ringCfg (s.ring f ring) cfg) = 0 →
      exec (.ringEnable f ring cfg) s = .next (writeMirror f ring (s.setRing f ring { s.ring f ring with sizeExp := cfg % 32, weight := cfg / 2 ^ 8 % 256, burst := cfg / 2 ^ 16 % 128, vector := cfg / 2 ^ 24 % 32, enabled := true, draining := false, cfgCause := 0, haltHere := false, d := 0, h := 0, f := 0, tokens := 0, entries := [], unsent := 0, firstAt := 0 }))) ∧
    (∀ (f ring cfg : Nat) (s : State), reaches f s = true →
      (s.ring f ring).enabled = false ∧ (s.ring f ring).draining = false →
      enableCause s f ring (ringCfg (s.ring f ring) cfg) ≠ 0 →
      exec (.ringEnable f ring cfg) s = .next (s.setRing f ring { ringCfg (s.ring f ring) cfg with cfgCause := enableCause s f ring (ringCfg (s.ring f ring) cfg) })) ∧
    (∀ (f ring cfg : Nat) (s : State), reaches f s = true →
      (s.ring f ring).enabled = false ∧ (s.ring f ring).draining = true →
      Answers (.ringEnable f ring cfg) s (fun t => ∃ cause, 1 ≤ cause ∧ cause ≤ 7 ∧
      t = s.setRing f ring { s.ring f ring with cfgCause := cause })) ∧
    (∀ (f ring : Nat) (s : State), reaches f s = true →
      (s.ring f ring).enabled = true →
      s.hif.ctxs.all (fun c => !delayedOn f ring c) = true →
      exec (.ringDrain f ring) s = .next (writeMirror f ring (s.setRing f ring { s.ring f ring with enabled := false, draining := true }))) ∧
    (∀ (f ring : Nat) (x : Ctx) (s s1 : State), reaches f s = true →
      (s.ring f ring).enabled = true →
      s.hif.ctxs = [x] ∧ delayedOn f ring x = true →
      s1 = writeMirror f ring (s.setRing f ring { s.ring f ring with enabled := false, draining := true }) →
      Answers (.ringDrain f ring) s (fun t => Delivered x { code := 0x0702 } s1 t)) ∧
    (∀ (f ring : Nat) (s : State), s.running = true →
      (s.ring f ring).draining = true ∧ (s.ring f ring).entries = [] →
      exec (.ringInactive f ring) s = .next (writeMirror f ring (s.setRing f ring { s.ring f ring with draining := false })))

/-- The data port opens, moves bytes in order through its aperture, and ends. An idle data port is given to the operation that
waits for it first: inbound with the length of its body and the first megabyte admitted, outbound with the module's length
(R456). A transfer of length 0 opens and closes at once: its operation waits for the port no more (R456). A write of whole
dwords within the window and over no written byte is stored: POS moves over the contiguous run from it and LIMIT follows,
short of the end (R457). A write of four bytes at POS with nothing buffered moves POS on by four (R457). The write that
brings POS to LENGTH completes the transfer: the port is idle and its operation can go on (R459). A write outside the
window, over a written byte, or not of whole aligned dwords ends the transfer: the port is idle, PROTOCOL is set and the
event is made (R457, R459). A read at POS of an outbound transfer within its limit delivers the bytes offered and moves POS
on, short of the end (R458). The read that brings POS to LENGTH delivers its bytes and completes the transfer: the port is
idle and its operation can go on (R459). A read elsewhere, or past the limit, returns its bytes and moves nothing; with no
outbound transfer all ones are read (R458). ABORT ends the open transfer, as no progress for DP_TIMEOUT seconds does: its
operation is gone from the contexts, the port is idle and the event is made (R459). -/
def Obligations.DataPort : Prop :=
    (∀ (f : Nat) (len out : Option Nat) (x : Ctx) (s : State), s.running = true →
      (s.func f).dpState = 0 →
      nextPortCtx s f = some x →
      len = (if isInbound x.hdr.opcode then some (inboundLength x) else out) →
      len ≠ some 0 →
      exec (.dataPortOpen f out) s = .next (s.updFunc f fun v => { v with dpState := if isInbound x.hdr.opcode then 1 else 2, dpLengthKnown := len.isSome, dpProtocol := false, dpRing := x.ring, dpOwner := x.count, dpCtx := some x.id, dpPos := 0, dpLimit := if isInbound x.hdr.opcode then min (inboundLength x) (2 ^ 20) else 0, dpLength := len.getD 0xFFFFFFFFFFFFFFFF, dpBuf := [], dpOut := [], dpAt := s.sck.now })) ∧
    (∀ (f : Nat) (out : Option Nat) (x : Ctx) (s : State), s.running = true →
      (s.func f).dpState = 0 →
      nextPortCtx s f = some x →
      (if isInbound x.hdr.opcode then some (inboundLength x) else out) = some 0 →
      exec (.dataPortOpen f out) s = .next (s.setCtx { x with dataPort := false, needsHost := false })) ∧
    (∀ (f offset p pos : Nat) (bytes : Bytes) (buf left : Tbl Byte) (s : State), reaches f s = true ∧ (s.func f).dpState = 1 →
      p = apertureTo (s.func f).dpPos offset ∧ p % 4 = 0 ∧ bytes.length % 4 = 0 ∧ p < (s.func f).dpLength →
      storeBytes (s.func f).dpPos (s.func f).dpLimit (s.func f).dpLength p bytes (s.func f).dpBuf = some buf →
      advancePos buf.length (s.func f).dpPos buf = (pos, left) ∧ pos ≠ (s.func f).dpLength →
      exec (.dataPortWrite f offset bytes) s = .next (s.setFunc f { s.func f with dpPos := pos, dpBuf := left, dpAt := s.sck.now, dpLimit := min (pos + 2 ^ 20) (s.func f).dpLength })) ∧
    (∀ (f : Nat) (b0 b1 b2 b3 : Byte) (s : State), reaches f s = true →
      (s.func f).dpState = 1 ∧ (s.func f).dpPos = 0 ∧ (s.func f).dpBuf = [] →
      4 < (s.func f).dpLength ∧ 4 ≤ (s.func f).dpLimit →
      Answers (.dataPortWrite f 0 [b0, b1, b2, b3]) s (fun t => (t.func f).dpPos = 4 ∧ (t.func f).dpState = 1)) ∧
    (∀ (f offset p id : Nat) (bytes : Bytes) (buf left : Tbl Byte) (x : Ctx) (s : State), reaches f s = true ∧ (s.func f).dpState = 1 ∧ (s.func f).dpCtx = some id ∧ s.ctx? id = some x →
      p = apertureTo (s.func f).dpPos offset ∧ p % 4 = 0 ∧ bytes.length % 4 = 0 ∧ p < (s.func f).dpLength →
      storeBytes (s.func f).dpPos (s.func f).dpLimit (s.func f).dpLength p bytes (s.func f).dpBuf = some buf →
      advancePos buf.length (s.func f).dpPos buf = ((s.func f).dpLength, left) →
      Answers (.dataPortWrite f offset bytes) s (fun t => (t.func f).dpState = 0 ∧
      t.ctx? id = some { x with dataPort := false, needsHost := false })) ∧
    (∀ (f offset p : Nat) (bytes : Bytes) (s : State), reaches f s = true ∧ (s.func f).dpState = 1 →
      p = apertureTo (s.func f).dpPos offset →
      (p % 4 ≠ 0 ∨ bytes.length % 4 ≠ 0 ∨ (s.func f).dpLength ≤ p) ∨ storeBytes (s.func f).dpPos (s.func f).dpLimit (s.func f).dpLength p bytes (s.func f).dpBuf = none →
      Answers (.dataPortWrite f offset bytes) s (fun t => (t.func f).dpState = 0 ∧
      (t.func f).dpProtocol = true ∧ t.event .hif f 1 = true)) ∧
    (∀ (f offset len : Nat) (s : State), reaches f s = true →
      (s.func f).dpState = 2 →
      0 < len ∧ len ≤ 4096 →
      apertureTo (s.func f).dpPos offset = (s.func f).dpPos →
      (s.func f).dpPos + len ≤ (s.func f).dpLimit →
      (s.func f).dpPos + len ≠ (s.func f).dpLength →
      exec (.dataPortRead f offset len) s = .next ((emit (.data f (readBytes (s.func f) (s.func f).dpPos len)) s).setFunc f { s.func f with dpPos := (s.func f).dpPos + len, dpOut := (s.func f).dpOut.drop len, dpLengthKnown := true, dpLimit := min ((s.func f).dpPos + len + 2 ^ 20) (s.func f).dpLength, dpAt := s.sck.now })) ∧
    (∀ (f offset len id : Nat) (x : Ctx) (s : State), reaches f s = true →
      (s.func f).dpState = 2 ∧ (s.func f).dpCtx = some id ∧ s.ctx? id = some x →
      0 < len ∧ len ≤ 4096 →
      apertureTo (s.func f).dpPos offset = (s.func f).dpPos →
      (s.func f).dpPos + len ≤ (s.func f).dpLimit →
      (s.func f).dpPos + len = (s.func f).dpLength →
      Answers (.dataPortRead f offset len) s (fun t => (t.func f).dpState = 0 ∧
      t.ctx? id = some { x with dataPort := false, needsHost := false } ∧ t.out = .data f (readBytes (s.func f) (s.func f).dpPos len) :: s.out)) ∧
    (∀ (f offset len : Nat) (s : State), reaches f s = true ∧ len ≤ 4096 →
      ((s.func f).dpState = 2 → apertureTo (s.func f).dpPos offset ≠ (s.func f).dpPos ∨ (s.func f).dpLimit < (s.func f).dpPos + len) →
      exec (.dataPortRead f offset len) s = .next (emit (.data f (if (s.func f).dpState = 2 then readBytes (s.func f) (apertureTo (s.func f).dpPos offset) len else List.replicate len 0xFF)) s)) ∧
    (∀ (f id : Nat) (x : Ctx) (s : State), reaches f s = true →
      (s.func f).dpState ≠ 0 ∧ (s.func f).dpCtx = some id ∧ s.ctx? id = some x →
      Answers (.dataPortAbort f) s (fun t => (t.func f).dpState = 0 ∧ t.event .hif f 1 = true ∧
      t.ctx? id = none) ∧ ((s.func f).dpAt + s.dpTimeout f * 1000000000 ≤ s.sck.now →
      Answers (.dataPortTimeout f) s (fun t => (t.func f).dpState = 0 ∧ t.event .hif f 1 = true ∧
      t.ctx? id = none)))

/-- Bus mastering, D3hot and MSI-X masks hold back and release what a function sends. Bus Master Enable set again, outside
D3hot: what was held goes out in order (R455). Bus Master Enable cleared: the function masters the bus no more, and a write
to its host memory is held behind those held already (R455). A function that enters D3hot holds its writes; one that leaves
it with Bus Master Enable set sends what it held (R679). Unmasking a vector of an enabled, unmasked function with its
pending bit set sends its message (R444). Enabling and unmasking a function's MSI-X as a whole sends one message of every
vector that is pending and not masked, 0 first, and of no other (R444). -/
def Obligations.PciePower : Prop :=
    (∀ (f : Nat) (s : State), s.running = true →
      (s.func f).d3hot = false →
      Answers (.busMasterEnableSet f) s (fun t => (t.func f).bme = true ∧ (t.func f).present = decide (f ≤ s.hif.config.totalVfs) ∧
      (t.func f).heldWrites = [] ∧ t.out = (s.func f).heldWrites.reverse ++ s.out)) ∧
    (∀ (f : Nat) (o : Out) (s : State), s.running = true →
      Answers (.busMasterEnableClear f) s (fun t => (t.func f).masters = false ∧
      ((emitHost f o t).func f).heldWrites = (s.func f).heldWrites ++ [o] ∧ (emitHost f o t).out = s.out)) ∧
    (∀ (f : Nat) (s : State), s.running = true →
      Answers (.d3hotTransition f true) s (fun t => (t.func f).d3hot = true ∧
      (t.func f).masters = false ∧ t.out = s.out) ∧ ((s.func f).bme = true → Answers (.d3hotTransition f false) s (fun t => (t.func f).masters = true ∧
      (t.func f).heldWrites = [] ∧ t.out = (s.func f).heldWrites.reverse ++ s.out))) ∧
    (∀ (f vector : Nat) (s : State), s.running = true →
      (s.func f).msix.enabled = true ∧ (s.func f).msix.functionMask = false →
      (s.func f).msix.pending.contains vector = true →
      (s.func f).masters = true →
      Answers (.msixUnmask f (some vector)) s (fun t => t.out = .msix f vector :: s.out ∧
      (t.func f).msix.pending = (s.func f).msix.pending.filter (· != vector))) ∧
    (∀ (f : Nat) (s : State), s.running = true →
      (s.func f).masters = true →
      Answers (.msixUnmask f none) s (fun t => (t.func f).msix.enabled = true ∧
      (t.func f).msix.functionMask = false ∧ t.out = (((List.range 32).filter (fun v => (s.func f).msix.pending.contains v && !((Tbl.find? v (s.func f).msix.table).getD (0, 0, true)).2.2)).map (fun v => Out.msix f v)).reverse ++ s.out))

/-- VF_SETUP, VF_FREEZE, VF_SAVE, VF_RESTORE and VF_THAW. VF_SETUP whose checks pass gives the VF its rings, port scope,
contexts, key slots and delay entries, and the PF what the VFs leave (R495, R496). VF_SETUP is refused with the reason of
the first check that fails, and changes nothing else (R496). VF_FREEZE of a VF without entries and with its data port idle
freezes it at once (R508). An accepted entry of the VF that has not been dispatched is squashed, and the VF frozen (R508).
An entry of the VF on a delay list is lifted: it stays in its context, off every list, and is counted in DETAIL (R508).
While a dispatched entry of the VF runs, VF_FREEZE waits: the VF fetches nothing more and is not frozen yet (R508). VF_SAVE
of a frozen VF with a tenant and a migration key, below Quench, with a root and random numbers READY, offers the sealed
image of its VF, tenant, migration key and handle counter, DETAIL the number of keys that do not migrate (R510, R511).
Without a root VF_SAVE and the VF_RESTORE of a good image complete KEY_NOT_LOADED (R289). VF_RESTORE of an accepted image
makes the VF RESTORED with the image's handle counter and configures its rings from their records; where the image carries
keys it waits for random numbers as a draw does, and DETAIL counts them (R514 to R516). An image that fails a check is
refused with its status and reason and changes nothing else (R515, Table 12-10). VF_THAW of a frozen or restored VF without
lifted entries makes it NORMAL again (R517). A lifted entry goes back to the delay list that has the fewest entries, or
completes DEADLINE_MISSED where its NOT_BEFORE has passed (R517, R548). A save image comes and goes as an operand (log
entry 2). -/
def Obligations.VirtualFunctionsSetUpAndMigrate : Prop :=
    (∀ (q : Call) (fn rings scope ctxs slots delays : Nat) (s x : State), ready 0x0C01 q 0 s = true →
      setupFault fn rings scope ctxs slots delays s = none →
      x = s.setFunc fn { s.func fn with setUp := true, ringsAllotted := rings, portScope := scope, ctxQuota := ctxs, keyQuota := slots, delayQuota := delays } →
      exec (.vfSetup q fn rings scope ctxs slots delays) s = .next (complete q { code := 0 } (x.setFunc 0 { x.func 0 with ctxQuota := 32768 - vfSum (·.ctxQuota) 0 x, keyQuota := 16384 - vfSum (·.keyQuota) 0 x, delayQuota := 262144 - vfSum (·.delayQuota) 0 x }))) ∧
    (∀ (q : Call) (fn rings scope ctxs slots delays code d : Nat) (s : State), ready 0x0C01 q 0 s = true →
      setupFault fn rings scope ctxs slots delays s = some (code, d) →
      exec (.vfSetup q fn rings scope ctxs slots delays) s = .next (complete q { code, detail := d } s)) ∧
    (∀ (q : Call) (fn : Nat) (s : State), ready 0x0C02 q 0 s = true →
      fn ≠ 0 ∧ fn ≤ 63 ∧ (s.func fn).dpState = 0 →
      (s.func fn).migration = .normal ∧ (s.func fn).setUp = true ∧ (s.func fn).halted = false ∧
      (s.func fn).freezing = false →
      (s.hif.ctxs.all fun c => c.f != fn) = true →
      Answers (.vfFreeze q fn) s (fun t => ∃ x, t = complete q { code := 0 } x ∧
      x.func fn = { s.func fn with migration := .frozen } ∧ x.hif.ctxs = s.hif.ctxs ∧
      x.hif.rings = s.hif.rings ∧ x.out = s.out)) ∧
    (∀ (q : Call) (fn : Nat) (c : Ctx) (s : State), ready 0x0C02 q 0 s = true →
      fn ≠ 0 ∧ fn ≤ 63 ∧ (s.func fn).dpState = 0 →
      (s.func fn).migration = .normal ∧ (s.func fn).setUp = true ∧ (s.func fn).halted = false ∧
      (s.func fn).freezing = false →
      s.hif.ctxs = [c] ∧ c.f = fn ∧ c.orphan = 0 ∧ (c.phase = .queued ∨ c.phase = .held) →
      Answers (.vfFreeze q fn) s (fun t => ∃ x y, Delivered c { code := 0x0702 } (s.setFunc fn { s.func fn with freezing := true }) x ∧
      t = complete q { code := 0 } y ∧ y.hif.ctxs = [] ∧ (y.func fn).migration = .frozen ∧
      (y.func fn).freezing = false ∧ y.out = x.out)) ∧
    (∀ (q : Call) (fn : Nat) (c : Ctx) (s : State), ready 0x0C02 q 0 s = true →
      fn ≠ 0 ∧ fn ≤ 63 ∧ (s.func fn).dpState = 0 →
      (s.func fn).migration = .normal ∧ (s.func fn).setUp = true ∧ (s.func fn).halted = false ∧
      (s.func fn).freezing = false →
      s.hif.ctxs = [c] ∧ c.f = fn ∧ c.orphan = 0 ∧ c.phase = .delayed →
      Answers (.vfFreeze q fn) s (fun t => ∃ y, t = complete q { code := 0, detail := 1 } y ∧
      y.hif.ctxs = [{ c with lifted := true }] ∧ (y.func fn).migration = .frozen ∧
      (∀ e ∈ y.ts.delay0 ++ y.ts.delay1 ++ y.ts.delay2 ++ y.ts.delay3, e.ctx ≠ c.id))) ∧
    (∀ (q : Call) (fn : Nat) (c : Ctx) (s : State), ready 0x0C02 q 0 s = true →
      fn ≠ 0 ∧ fn ≤ 63 ∧ (s.func fn).dpState = 0 →
      (s.func fn).migration = .normal ∧ (s.func fn).setUp = true ∧ (s.func fn).halted = false ∧
      (s.func fn).freezing = false →
      s.hif.ctxs = [c] ∧ c.f = fn ∧ c.orphan = 0 ∧ (c.phase = .dispatched ∨ c.phase = .staged) →
      exec (.vfFreeze q fn) s = .next (s.setFunc fn { s.func fn with freezing := true })) ∧
    (∀ (q : Call) (fn tenant mkId : Nat) (mk : Bytes) (i : SaveImage) (x s : State), ready 0x0C03 q 0 s = true →
      s.level < 2 ∧ s.key.rootPresent = true ∧ s.rnu.st = .ready →
      fn ≠ 0 ∧ fn ≤ 63 ∧ (s.func fn).migration = .frozen →
      (s.dom fn).tenant = some tenant ∧ (s.dom fn).migKey = some (mkId, mk) →
      saveImage fn tenant mkId mk s = (i, x) →
      exec (.vfSave q fn) s = .next (complete q { code := 0, detail := ((domainKeys fn s).filter fun k => !k.blob.attr.migratable).length } (offerBytes q (i.header ++ i.cipher mk ++ i.tag) x)) ∧
      i.function = fn ∧ i.tenant = tenant ∧ i.mkId = mkId ∧ i.handleCounter = (s.dom fn).handles ∧
      i.savedAt = toStamp s.sck.now ∧ i.sourceId = s.ident.siliconId ∧ i.imageLen = 144 + i.sections.length ∧
      i.sealTag mk = i.tag) ∧
    (∀ (q : Call) (fn length : Nat) (image : SaveImage) (s : State), s.key.rootPresent = false ∧ fn ≠ 0 ∧ fn ≤ 63 →
      (ready 0x0C03 q 0 s = true → s.level < 2 → (s.func fn).migration = .frozen →
      exec (.vfSave q fn) s = .next (complete q { code := 0x0201 } s)) ∧ (ready 0x0C04 q 0 s = true →
      restoreFault fn length image s = none → exec (.vfRestore q fn length image) s = .next (complete q { code := 0x0201 } s))) ∧
    (∀ (q : Call) (fn length : Nat) (image : SaveImage) (s : State), ready 0x0C04 q 0 s = true →
      fn ≠ 0 ∧ fn ≤ 63 ∧ s.key.rootPresent = true →
      restoreFault fn length image s = none →
      (image.keys.filter fun k => k.blob.isSome) = [] ∨ s.rnu.st = .ready →
      Answers (.vfRestore q fn length image) s (fun t => ∃ x, t = complete q { code := 0, detail := (image.keys.filter fun k => k.blob.isSome).length } x ∧
      (x.func fn).migration = .restored ∧ (x.dom fn).handles = image.handleCounter ∧
      (∀ r, image.rings = [r] → image.lifted = [] → r.index < 64 → (x.ring fn r.index).base = r.base ∧
      (x.ring fn r.index).mirror = r.mirror ∧ (x.ring fn r.index).enabled = !r.draining ∧
      (x.ring fn r.index).draining = r.draining ∧ (x.ring fn r.index).d = r.d ∧
      (x.ring fn r.index).h = r.h ∧ (x.ring fn r.index).f = r.f ∧ (x.ring fn r.index).sizeExp = r.cfg % 32))) ∧
    (∀ (q : Call) (fn length : Nat) (image : SaveImage) (code d : Nat) (s : State), ready 0x0C04 q 0 s = true →
      fn ≠ 0 ∧ fn ≤ 63 →
      restoreFault fn length image s = some (code, d) →
      exec (.vfRestore q fn length image) s = .next (complete q { code, detail := d } s)) ∧
    (∀ (q : Call) (fn : Nat) (s : State), ready 0x0C05 q 0 s = true →
      fn ≠ 0 ∧ fn ≤ 63 ∧ (s.func fn).migration ≠ .normal →
      (s.hif.ctxs.all fun c => !(c.f == fn && c.lifted)) = true →
      exec (.vfThaw q fn) s = .next (complete q { code := 0 } (s.setFunc fn { s.func fn with migration := .normal }))) ∧
    (∀ (q : Call) (fn : Nat) (c : Ctx) (s : State), ready 0x0C05 q 0 s = true →
      fn ≠ 0 ∧ fn ≤ 63 ∧ (s.func fn).migration ≠ .normal →
      s.hif.ctxs = [c] ∧ c.f = fn ∧ c.lifted = true →
      (s.sck.now < stampNs c.hdr.notBefore → exec (.vfThaw q fn) s = .next (complete q { code := 0 } (placeDelay { c with lifted := false } (s.setFunc fn { s.func fn with migration := .normal })))) ∧
      (stampNs c.hdr.notBefore ≤ s.sck.now → Answers (.vfThaw q fn) s (fun t => ∃ x, t = complete q { code := 0 } x ∧
      Delivered { c with lifted := false } { code := 0x0401 } (s.setFunc fn { s.func fn with migration := .normal }) x)))

/-- Host resets, function-level resets, VF removal and the PCIe link. A warm host reset drops the link, the IDE streams and the
SPDM session; with PERST_N it stays asserted (R452, R665). In a running module it puts every function's host side at its
reset values: no ring is set up, no transfer is open, no bus is mastered, and no VF exists (R452). An entry that needs the
host, or a data-port operation, ends with the reset; another goes on, its completion to be discarded (R453). An FLR of a
present VF resets its host side, closes its TLS sessions, ends its latched counts, and raises its event (R503, R504). An
FLR discards the VF's entry that has not been dispatched, or whose operation Table 12-4 does not drain, without a
completion; one that it drains runs on, its completion to be discarded (R504). VF removal resets each vanishing VF as an
FLR does: it no longer exists, masters no bus and has no ring (R498). PERST_N deasserted: the host link of a running module
whose start has reached the host interface comes up; before that it only releases PERST_N (R665). The host side of each
function is stated here; that an FLR and a warm reset are whole steps is the model's choice (log entry 37). -/
def Obligations.FunctionResets : Prop :=
    (∀ (perst : Bool) (s : State), Answers (.warmHostReset perst) s (fun t => t.hif.linkUp = false ∧ t.hif.linkSecure = false ∧
      t.hif.selectiveSecure = 0 ∧ t.hif.spdmSession = false ∧ t.io.perst = (s.io.perst || perst))) ∧
    (∀ (perst : Bool) (s : State), s.running = true →
      Answers (.warmHostReset perst) s (fun t => (∀ f, 1 ≤ f → f < 64 → (t.func f).present = false) ∧
      (∀ f, f < 64 → (t.func f).bme = false ∧ (t.func f).dpState = 0 ∧ (t.func f).freezing = false ∧
      (t.func f).migration = .normal) ∧ (∀ f r, f < 64 → r < 64 → t.ring f r = {}))) ∧
    (∀ (c : Ctx) (s : State), c.orphan = 0 ∧ c.lifted = false →
      (c.needsHost = true ∨ c.dataPort = true → (warmCtx c s).hif.ctxs = s.hif.ctxs.filter (fun x => x.id != c.id)) ∧
      (c.needsHost = false → c.dataPort = false → c.hdr.opcode ≠ 0x0C02 → warmCtx c s = s.setCtx { c with orphan := 1 })) ∧
    (∀ (f : Nat) (s : State), s.running = true →
      1 ≤ f ∧ f < 64 ∧ (s.func f).present = true →
      Answers (.flr f) s (fun t => t.event .vf 0 0 = true ∧ (t.func f).present = true ∧
      (t.func f).bme = false ∧ (t.func f).halted = false ∧ (t.func f).dpState = 0 ∧
      (t.func f).migration = .normal ∧ (∀ r, r < 64 → t.ring f r = {}) ∧ t.tls.sessions = Tbl.keep (fun _ v => v.f != f) s.tls.sessions ∧
      Tbl.find? f t.fe.latch = Tbl.find? f (Tbl.del f s.fe.latch))) ∧
    (∀ (f : Nat) (c : Ctx) (s : State), c.f = f ∧ c.orphan = 0 →
      (¬ ((c.phase = .dispatched ∨ c.phase = .staged) ∧ drained c.hdr.opcode = true) →
      (flrCtx f c s).hif.ctxs = s.hif.ctxs.filter (fun x => x.id != c.id)) ∧ (c.phase = .dispatched ∨ c.phase = .staged →
      drained c.hdr.opcode = true → flrCtx f c s = s.setCtx { c with orphan := 2 })) ∧
    (∀ (f : Nat) (s : State), s.running = true →
      1 ≤ f ∧ f < 64 ∧ (s.func f).present = true →
      Answers (.vfRemoval [f]) s (fun t => (t.func f).present = false ∧ (t.func f).bme = false ∧
      (t.func f).dpState = 0 ∧ (t.func f).migration = .normal ∧ (∀ r, r < 64 →
      t.ring f r = {}) ∧ t.tls.sessions = Tbl.keep (fun _ v => v.f != f) s.tls.sessions)) ∧
    (∀ (s : State), exec .perstNDeassert s = .next { s with io := { s.io with perst := false }, hif := { s.hif with linkUp := s.hif.linkUp || (s.running && decide (2 ≤ s.pwr.phase)) } })

/-- IDE streams, SPDM over DOE and IDE_REQUIRED. A Secure link stream that becomes insecure is marked so and raises
IDE_INSECURE (R415). The same of a selective stream (R415). With the link up and the host interface in service, an SPDM
exchange is answered and opens or closes the session, or leaves it; IDE_KM outside a session is refused (R415). In a
session IDE_KM brings a stream into the Secure state, or out of it with the event where it was secure (R415). An authorised
IDE_REQUIRED_SET with value 0 or 1 in PARAMS completes OK and sets IDE_REQUIRED to it; its domain's counter and its record
follow the request (R492, R472). One that is refused completes INPUT_REJECTED with its reason and changes nothing else; so
does one with a value above 1, its request accepted in no part (R471, R492). What an SPDM exchange carries is the model's
abstraction (log entry 8). -/
def Obligations.IdeAndSpdm : Prop :=
    (∀ (s : State), s.running = true →
      s.hif.linkSecure = true →
      exec (.ideStreamInsecure none) s = .next (raiseEvent .hif 0 3 { s with hif := { s.hif with linkSecure := false } })) ∧
    (∀ (i : Nat) (s : State), s.running = true →
      i < 4 ∧ s.hif.selectiveSecure.testBit i = true →
      exec (.ideStreamInsecure (some i)) s = .next (raiseEvent .hif 0 3 { s with hif := { s.hif with selectiveSecure := setField s.hif.selectiveSecure i i 0 } })) ∧
    (∀ (change : Option Bool) (stream : Option Nat) (on : Bool) (s : State), s.running = true ∧ s.hif.linkUp = true ∧ s.serviceOpen = true →
      exec (.spdmDoeExchange (.spdm change)) s = .next (emit (.doe 1 (if change = some true then 1 else 0)) { s with hif := { s.hif with spdmSession := change.getD s.hif.spdmSession } }) ∧
      (s.hif.spdmSession = false → exec (.spdmDoeExchange (.ideKm stream on)) s = .next (emit (.doe 0 0) s))) ∧
    (∀ (stream : Option Nat) (s : State), s.running = true ∧ s.hif.linkUp = true ∧ s.serviceOpen = true ∧ s.hif.spdmSession = true →
      (∀ i, stream = some i → i < 4) →
      exec (.spdmDoeExchange (.ideKm stream true)) s = .next (emit (.doe 2 1) (match stream with | none => { s with hif := { s.hif with linkSecure := true } } | some i => { s with hif := { s.hif with selectiveSecure := setField s.hif.selectiveSecure i i 1 } })) ∧
      (s.streamSecure stream = false → exec (.spdmDoeExchange (.ideKm stream false)) s = .next (emit (.doe 2 0) s)) ∧
      (s.streamSecure stream = true → exec (.spdmDoeExchange (.ideKm stream false)) s = .next (emit (.doe 2 0) (raiseEvent .hif 0 3 (match stream with | none => { s with hif := { s.hif with linkSecure := false } } | some i => { s with hif := { s.hif with selectiveSecure := setField s.hif.selectiveSecure i i 0 } }))))) ∧
    (∀ (q : Call) (auth : AuthReq) (s : State), ready 0x0B04 q 0 s = true →
      authReason auth q.hdr.inLen 0x0B04 0 2 1 [(0, 1)] s = none →
      leAt auth.params 0 1 ≤ 1 →
      Answers (.ideRequiredSet q auth) s (fun t => ∃ x, t = complete q { code := 0 } x ∧
      x.hif = { s.hif with ideRequired := leAt auth.params 0 1 == 1 } ∧ (x.dom auth.domain).temper = auth.counter ∧
      x.arc.staging = s.arc.staging ++ [securityNow secRequest 0x0B04 (signerPair auth.sigs) auth.counter s])) ∧
    (∀ (q : Call) (auth : AuthReq) (reason : Nat) (s : State), ready 0x0B04 q 0 s = true →
      authReason auth q.hdr.inLen 0x0B04 0 2 1 [(0, 1)] s = some reason ∨ (authReason auth q.hdr.inLen 0x0B04 0 2 1 [(0, 1)] s = none ∧
      1 < leAt auth.params 0 1 ∧ reason = 0x010A) →
      exec (.ideRequiredSet q auth) s = .next (complete q { code := 0x0101, detail := reason } s))

/-- The tick of grid time, and the cycle angle. With no time step and no first adoption waiting, a tick leaves grid time at the
next whole microsecond, and the RTC's count 0.032768 cycles on (R68, R743). A stored setting whose effect waited takes
effect on SETTING_TAKES_EFFECT, all of it at a grid second boundary (R699). Without a usable sample for two nominal cycles
a tracking angle is COASTING, and the event is made (R77). When the coast limit passes or the frequency leaves its range
the angle is LOST, nothing of it is kept, its frequency reads 0 and the event is made; an activity that waits for it is not
performed (R77, R79). An activity held for an angle that is reached becomes due now, in its group; before, it goes on
waiting; without a valid angle it completes TIME_NOT_LOCKED (R79, R550). That ticks are commands, and come one for one, is
the table's row TICK; that step idles on an empty queue is the model's choice (log entry 1). -/
def Obligations.TicksAndAngle : Prop :=
    (∀ (ocxoTemp : Int) (sense : Sense) (s : State), s.running = true →
      s.sck.stepTo = none ∧ s.sck.adopt = none →
      Answers (.tick ocxoTemp sense) s (fun t => t.sck.now = (s.sck.now / 1000 + 1) * 1000 ∧
      t.sck.rtcCount * 1000000 + t.sck.rtcFrac = s.sck.rtcCount * 1000000 + s.sck.rtcFrac + 32768)) ∧
    (∀ (off : Nat) (s : State), s.running = true →
      s.sck.waiting = [off] →
      off = 0x6404 ∨ off = 0x6408 ∨ off = 0x640C ∨ off = 0x641C →
      s.sck.now % 1000000000 = 0 →
      Answers .settingTakesEffect s (fun t => t.sckSet off = (Tbl.find? (regKey 0 off) s.rw).getD (sckReset off) ∧
      t.sck.waiting = [])) ∧
    (∀ (s : State), s.running = true →
      s.sck.angleSt = .tracking ∧ cyclesUs s.nominal 2 ≤ s.sck.sinceSampleUs →
      Answers .angleCoast s (fun t => t.sck = { s.sck with angleSt := .coasting, coastUs := 0, usableUs := 0, past := t.sck.past } ∧
      t.event .sck 0 4 = true)) ∧
    (∀ (s : State), s.running = true →
      (s.sck.angleSt = .coasting ∧ cyclesUs s.nominal s.coastLimit ≤ s.sck.coastUs) ∨ (s.sck.angleSt ≠ .lost ∧
      inRange s.nominal s.sck.freq = false) →
      Answers .angleLost s (fun t => t.sck = { s.sck with angleSt := .lost, freq := 0, coastUs := 0, usableUs := 0, lastSample := none, lastCross := none, past := t.sck.past } ∧
      t.event .sck 0 4 = true ∧ (angleValid s.sck = true → ∀ x, s.hif.ctxs = [x] →
      x.phase = .held → x.angle.isSome = true → t.hif.ctxs = []))) ∧
    (∀ (id a : Nat) (x : Ctx) (s : State), s.running = true →
      s.ctx? id = some x →
      x.angle = some a ∧ x.phase = .held →
      (angleValid s.sck = true → angleReached s.sck a = true → exec (.angleReached id) s = .next (makeReady (.ctx x.id) (groupOfOpcode x.hdr.opcode) (s.setCtx { x with phase := .queued, dueTick := s.sck.now }))) ∧
      (angleValid s.sck = true → angleReached s.sck a = false → exec (.angleReached id) s = .next s) ∧
      (angleValid s.sck = false → Answers (.angleReached id) s (fun t => Delivered x { code := 0x0402 } s t)))

/-- What edges, frames and losses on the reference inputs leave. A 1PPS edge of a reference in use clears its failure
condition, takes its accuracy from the setting and measures it from the nearest grid second; the offset is to be removed
where it is selected and passes the offset test (R38, R43, R741). A selected 1PPS or IRIG-B reference whose offset fails
the offset test is FAILED (R41, R742). No edge within 1.1 s of the previous one: a 1PPS reference that has not failed is
FAILED; grid time keeps its state unless the reference was selected (R41). A good IRIG-B frame is converted to TAI, clears
the count of missing frames, and is measured, with the accuracy and the leap second it declares; the offset is to be
removed where it is selected and passes the offset test (R39, R40, R65). A frame with bad parity or quality 0xF is
discarded and counts as missing, as a missing frame does: the first two change no state, the third fails a reference that
has not failed (R39, R41). Loss of the 10 MHz input, or its frequency beyond 1 ppm, fails it, and it has been stable for no
time; a frequency within 1 ppm is kept as its offset (R41, R55). How a measurement is handed to the module is the model's
abstraction (log entries 8 and 17). offsetFails is the offset test of R742. -/
def Obligations.ReferenceSignals : Prop :=
    (∀ (offset : Int) (s : State), s.running = true →
      s.refEnabled 1 = true →
      ((s.ref 1).st = .selected → offsetFails s.sck (nearestSecond offset) = false) →
      Answers (.ppsEdge offset) s (fun t => t.ref 1 = ({ s.ref 1 with missing := 0, aRef := fieldOf (s.sckSet 0x641C) 19 0 } : RefClock).after s.sck.now (nearestSecond offset) ∧
      t.sck.st = s.sck.st ∧ ((s.ref 1).st = .selected → t.sck.remFs = nearestSecond offset * 1000000))) ∧
    (∀ (f : IrigFrame) (offset : Int) (s : State), s.running = true →
      (s.refEnabled 1 = true → (s.ref 1).st = .selected → offsetFails s.sck (nearestSecond offset) = true →
      Answers (.ppsEdge offset) s (fun t => (t.ref 1).st = .failed)) ∧ (s.refEnabled 2 = true →
      (s.ref 2).st = .selected → f.parityOk = true → f.quality ≠ 0xF → offsetFails s.sck ((f.seconds - f.localOffset + s.taiUtc) * 1000000000 - f.edge) = true →
      Answers (.irigbFrame f) s (fun t => (t.ref 2).st = .failed))) ∧
    (∀ (s : State), s.running = true →
      (s.ref 1).present = true ∧ (s.ref 1).lastAt + 1100000000 ≤ s.sck.now →
      (s.ref 1).st ≠ .disabled ∧ (s.ref 1).st ≠ .absent →
      Answers .ppsMissing s (fun t => (t.ref 1).st = .failed ∧ ((s.ref 1).st ≠ .selected → t.sck.st = s.sck.st))) ∧
    (∀ (f : IrigFrame) (o : Int) (s : State), s.running = true ∧ s.refEnabled 2 = true →
      f.parityOk = true ∧ f.quality ≠ 0xF →
      o = (f.seconds - f.localOffset + s.taiUtc) * 1000000000 - f.edge →
      ((s.ref 2).st = .selected → offsetFails s.sck o = false) →
      Answers (.irigbFrame f) s (fun t => t.ref 2 = ({ s.ref 2 with missing := 0, declared := f.quality % 16, aRef := f.accuracy.getD 1000000 } : RefClock).after s.sck.now o ∧
      t.sck.st = s.sck.st ∧ ((s.ref 2).st = .selected → t.sck.remFs = o * 1000000) ∧
      (∀ l, f.leapEnd = some l → t.sck.leapUntil = some l))) ∧
    (∀ (f : IrigFrame) (s : State), s.running = true →
      f.parityOk = false ∨ f.quality = 0xF →
      (s.ref 2).st ≠ .disabled ∧ (s.ref 2).st ≠ .absent →
      (s.refEnabled 2 = true → Answers (.irigbFrame f) s (fun t => (3 ≤ (s.ref 2).missing + 1 →
      (t.ref 2).st = .failed) ∧ ((s.ref 2).missing + 1 < 3 → t.ref 2 = { s.ref 2 with missing := (s.ref 2).missing + 1 } ∧
      t.sck.st = s.sck.st))) ∧ ((s.ref 2).present = true → Answers .irigbFrameMissing s (fun t => (3 ≤ (s.ref 2).missing + 1 →
      (t.ref 2).st = .failed) ∧ ((s.ref 2).missing + 1 < 3 → t.ref 2 = { s.ref 2 with missing := (s.ref 2).missing + 1 } ∧
      t.sck.st = s.sck.st)))) ∧
    (∀ (freq : Option Int) (s : State), s.running = true →
      s.refEnabled 3 = true ∧ (s.ref 3).st ≠ .disabled ∧ (s.ref 3).st ≠ .absent ∧ (s.ref 3).st ≠ .selected →
      ((∀ f, freq = some f → 1000000 < f.natAbs) → Answers (.tenMhzLoss freq) s (fun t => (t.ref 3).st = .failed ∧
      t.sck.tenStableUs = 0)) ∧ (∀ f, freq = some f → f.natAbs ≤ 1000000 → Answers (.tenMhzLoss freq) s (fun t => t.ref 3 = { s.ref 3 with offset := f, missing := 0, present := true })))

/-- References qualify, are selected at a grid second, and fail. Failure of the selected reference with no other qualified: it
is FAILED, the event is made and grid time is in HOLDOVER, or EXPIRED beyond the limit or after a failure of the OCXO, its
bound growing from e as R54, R55 and R57 give it (R47; log entry 48 for what R57 leaves open). With another one qualified
the best of them is selected at once, and grid time slews towards its offset (R47, R49). A reference that has qualified for
the qualification time is QUALIFIED (R43, R45). At a grid second boundary the highest-ranked qualified reference is
selected, one selected before is qualified again, and grid time slews to its offset; from UNLOCKED it is adopted at the
next tick instead (R46, R49, R50). Where the best is selected already, or none is qualified or selected, nothing changes
(R46). A declared OCXO failure outside holdover marks it and raises its alarm with the deviation in DATA; one declared
before only raises the alarm (R57). In HOLDOVER or EXPIRED a failure of the OCXO leaves EXPIRED, its bound growing by
20,000 ns/s from the bound of now (R57). -/
def Obligations.ReferencesInUse : Prop :=
    (∀ (r : Nat) (s : State), s.running = true →
      (s.ref r).st = .selected →
      (∀ q, q ≠ r → (s.ref q).st ≠ .qualified) →
      s.sck.st ≠ .holdover ∧ s.sck.st ≠ .expired →
      Answers (.referenceFailure r) s (fun t => (t.ref r).st = .failed ∧ t.event .sck 0 0 = true ∧
      t.sck.remFs = 0 ∧ t.sck.runUs = none ∧ t.sck.st = (if s.sck.ocxoFailed = true ∨ s.validityLimit * 10 ^ 20 < s.sck.e then .expired else .holdover) ∧
      t.sck.hold.e0 = s.sck.e ∧ t.sck.hold.us = 0 ∧ t.sck.hold.temp0 = s.sck.ocxoTemp ∧
      t.sck.hold.full = (!s.sck.ocxoFailed && !s.tenStable) ∧ t.sck.hold.uPerUs = (if s.sck.ocxoFailed then 2 * 10 ^ 18 else if s.tenStable then s.u10 else runUncertainty s.sck.runUs))) ∧
    (∀ (r q : Nat) (s : State), s.running = true →
      (s.ref r).st = .selected ∧ s.sck.selected = r →
      bestRef (s.setRef r { s.ref r with st := .failed, qualUs := 0 }) false = some q →
      Answers (.referenceFailure r) s (fun t => (t.ref r).st = .failed ∧ (t.ref q).st = .selected ∧
      t.sck.selected = q ∧ t.sck.st = .slewing ∧ t.sck.remFs = (s.ref q).offset * 1000000)) ∧
    (∀ (r : Nat) (s : State), s.running = true →
      (s.ref r).st = .qualifying ∧ s.qualTime ≤ (s.ref r).qualUs →
      Answers (.qualificationComplete r) s (fun t => t.ref r = { s.ref r with st := .qualified } ∧
      t.sck.st = s.sck.st)) ∧
    (∀ (r q : Nat) (s : State), s.running = true →
      s.sck.now % 1000000000 = 0 →
      bestRef s true = some r ∧ (s.ref r).st ≠ .selected →
      s.sck.selected = q ∧ (s.ref q).st = .selected →
      (s.sck.st = .unlocked → exec .referenceSelect s = .next { s with sck := { s.sck with adopt := some r } }) ∧
      (s.sck.st ≠ .unlocked → Answers .referenceSelect s (fun t => (t.ref r).st = .selected ∧
      (t.ref q).st = .qualified ∧ t.sck.selected = r ∧ t.sck.st = .slewing ∧ t.sck.remFs = (s.ref r).offset * 1000000))) ∧
    (∀ (s : State), s.running = true →
      (bestRef s true = none ∨ (∃ r, bestRef s true = some r ∧ (s.ref r).st = .selected)) →
      exec .referenceSelect s = .next s) ∧
    (∀ (ppm : Nat) (s : State), s.running = true →
      s.sck.st ≠ .holdover ∧ s.sck.st ≠ .expired →
      exec (.ocxoFailed ppm) s = .next (raiseAlarm 0x21 0 (8 + 2 ^ 32 * (ppm % 2 ^ 32)) (if s.sck.ocxoFailed then s else { s with sck := ({ s.sck with ocxoFailed := true } : Sck).note }))) ∧
    (∀ (ppm : Nat) (s : State), s.running = true →
      (s.sck.st = .holdover ∨ s.sck.st = .expired) ∧ s.sck.ocxoFailed = false →
      Answers (.ocxoFailed ppm) s (fun t => t.sck.ocxoFailed = true ∧ t.sck.st = .expired ∧
      t.sck.hold = { s.sck.hold with e0 := holdBound s.sck.hold, us := 0, uPerUs := 2 * 10 ^ 18, full := false, tenMhz := false }))

/-- PTP messages processed and sent on the ports that run PTP. An Announce of the best master, its clockClass acceptable, gives
PTP its accuracy, class and grandmaster and TAI−UTC; the port is slave and every other PTP port has the role of its clock
type (R41, R59, R61, R227). An Announce that is not of the best master makes the port of a grandmaster-capable or boundary
clock a master, and leaves one of another clock (R61, R227). A Sync on the slave port of a clock measures PTP, cleared of
its Sync timeout; the offset is to be removed where PTP is selected and passes the offset test (R59, R60). A Sync on a port
that is no slave changes nothing that the module tracks; a measured peer delay is kept; a Pdelay_Req is answered on its
port in class 7 with its ingress stamp; an unsupported message and one of another domain are ignored (R59, R60, R227). A
port that runs PTP sends its Pdelay_Req in class 7; a master port its Sync, of correction 0; one that is no master sends
neither Sync nor Announce (R59, R227, R228). A master port's Announce has the clockClass of Table 02-7; while PTP is
selected it passes on the grandmaster, its alternate time offset and, as a boundary clock with 50 ns added, its inaccuracy;
else it names the module (R59, R61). An Announce timeout fails PTP where it has not failed, and makes every PTP port of a
grandmaster-capable or boundary clock a master (R41, R61). A Sync timeout fails PTP where it has not failed; with PTP not
in use it changes nothing (R41). The best master clock algorithm's outcome is an operand (log entries 8 and 20); that the
module names itself by its base address is the model's choice (log entry 53). -/
def Obligations.PtpPorts : Prop :=
    (∀ (port gm cls n : Nat) (accuracy inaccuracy alt utc leap : Option Nat) (s : State), s.running = true ∧ s.ptpOn port = true ∧ port < 12 ∧ s.clockType ≠ 3 →
      cls ≤ s.worstClass ∧ (s.ref 0).missing < 4 →
      n < 12 ∧ s.ptpOn n = true →
      Answers (.ptpMessageProcess s.ptpDomain (.announce port true gm cls accuracy inaccuracy alt utc leap)) s (fun t => (t.ref 0).declared = cls ∧
      (t.ref 0).aRef = max (accuracy.getD 1000000) (if accuracy.isSome then inaccuracy.getD 0 else 0) ∧
      t.sck.gmId = gm ∧ t.sck.gmInaccuracy = inaccuracy ∧ t.sck.altOffset = alt ∧
      t.sck.ptpUtc = utc ∧ t.ptpState n = (if n = port then .slave else if s.clockType = 0 then .listening else .master))) ∧
    (∀ (port gm cls : Nat) (accuracy inaccuracy alt utc leap : Option Nat) (s : State), s.running = true ∧ s.ptpOn port = true →
      s.clockType ≠ 3 →
      Answers (.ptpMessageProcess s.ptpDomain (.announce port false gm cls accuracy inaccuracy alt utc leap)) s (fun t => t.ptpState port = (if s.clockType = 1 ∨ s.clockType = 2 then .master else s.ptpState port) ∧
      t.sck.gmId = s.sck.gmId ∧ t.ref 0 = s.ref 0)) ∧
    (∀ (port ingress : Nat) (offset correction : Int) (followUp : Option Int) (s : State), s.running = true ∧ s.ptpOn port = true →
      s.clockType ≠ 3 ∧ s.ptpState port = .slave ∧ s.refEnabled 0 = true →
      ((s.ref 0).st = .selected → offsetFails s.sck offset = false) →
      Answers (.ptpMessageProcess s.ptpDomain (.sync port ingress offset correction followUp)) s (fun t => t.ref 0 = ({ s.ref 0 with missing := (s.ref 0).missing - (s.ref 0).missing / 2 % 2 * 2 } : RefClock).after s.sck.now offset ∧
      t.sck.st = s.sck.st ∧ ((s.ref 0).st = .selected → t.sck.remFs = offset * 1000000))) ∧
    (∀ (port domain ingress delay : Nat) (offset correction : Int) (followUp : Option Int) (m : PtpMessage) (s : State), s.running = true →
      s.ptpOn port = true →
      domain ≠ s.ptpDomain →
      (s.ptpState port ≠ .slave → Answers (.ptpMessageProcess s.ptpDomain (.sync port ingress offset correction followUp)) s (fun t => t.sck = { s.sck with past := t.sck.past } ∧
      t.fe = s.fe)) ∧ exec (.ptpMessageProcess s.ptpDomain (.pdelay port delay)) s = .next { s with sck := { s.sck with peerDelay := Tbl.put port delay s.sck.peerDelay } } ∧
      exec (.ptpMessageProcess s.ptpDomain (.pdelayReq port ingress)) s = .next (sendPort port 7 (.pdelayResp ingress) s) ∧
      exec (.ptpMessageProcess s.ptpDomain (.unsupported port)) s = .next s ∧
      exec (.ptpMessageProcess domain m) s = .next s) ∧
    (∀ (port : Nat) (s : State), s.running = true →
      s.ptpOn port = true →
      exec (.ptpMessageTransmit port .pdelayReq) s = .next (sendPort port 7 .pdelayReq s) ∧
      (s.ptpState port = .master → exec (.ptpMessageTransmit port .sync) s = .next (sendPort port 7 (.sync 0 none none) s)) ∧
      (s.ptpState port ≠ .master → exec (.ptpMessageTransmit port .sync) s = .next s ∧
      exec (.ptpMessageTransmit port .announce) s = .next s)) ∧
    (∀ (port cls : Nat) (s : State), s.running = true ∧ s.ptpOn port = true ∧ s.ptpState port = .master →
      cls = announcedClass s.clockType s.sck (s.ref 0).declared →
      ((s.ref 0).st ≠ .selected → exec (.ptpMessageTransmit port .announce) s = .next (sendPort port 7 (.announce cls s.ident.baseMac none none) s)) ∧
      ((s.ref 0).st = .selected → exec (.ptpMessageTransmit port .announce) s = .next (sendPort port 7 (.announce cls s.sck.gmId (if s.clockType = 2 then s.sck.gmInaccuracy.map (· + 50) else s.sck.gmInaccuracy) s.sck.altOffset) s))) ∧
    (∀ (n : Nat) (s : State), s.running = true →
      s.refEnabled 0 = true ∧ (s.ref 0).st ≠ .disabled ∧ (s.ref 0).st ≠ .absent →
      n < 12 ∧ s.ptpOn n = true ∧ (s.clockType = 1 ∨ s.clockType = 2) →
      Answers .ptpAnnounceTimeout s (fun t => (t.ref 0).st = .failed ∧ t.ptpState n = .master)) ∧
    (∀ (s : State), s.running = true →
      (s.ref 0).st ≠ .disabled ∧ (s.ref 0).st ≠ .absent →
      (s.refEnabled 0 = true → Answers .ptpSyncTimeout s (fun t => (t.ref 0).st = .failed)) ∧
      (s.refEnabled 0 = false → exec .ptpSyncTimeout s = .next s))

/-- The random number unit fails, starts, reseeds and refills Bellows. Samples that fail a health test, or a known-answer test
that fails, zero the unit's Bellows, expander and gathered seed; it is RESTARTING, or in FAULT at the third failure in a
row, its fault fields are set and its event is raised; an alarm of cause RNU_FAILURE is made (R378, R379, R396, R401). A
request held for randomness completes ENTROPY_FAULT at the failure; one in service that had drawn n of its bytes has ended
first, with the output position of its first byte and those bytes as its result where it is RANDOM_BYTES, and a bare
ENTROPY_FAULT else (R397, R481). A start-up test that passes makes the unit READY: the expander is instantiated, the first
block is in Bellows, a seed is ready, its attempts begin anew and its event is raised; a unit that is not starting is left
as it is (R382, R383, R388, R389, R401). A reseed that is due takes the seed that is ready and begins the interval anew;
one that is not due changes nothing (R384). A drained block of Bellows is filled again by one generate call of 4,096 bytes;
nothing happens while Bellows holds its 16 blocks (R391). A memory error in Bellows empties it and fills it with 16 new
blocks, and raises its event, the position unchanged; a unit that is not READY is left as it is (R394). An error in the
expander's state, the unit READY: it is instantiated from the next seed, with the personalisation of R383, and the interval
begins anew (R395). In the Maker state, a change of the test pattern keeps it with its seed, sets both shift registers to
SEED in both halves, empties Bellows and runs the start-up test again; without a change only SEED is kept (R405). Outside
the Maker state the write changes nothing (R405). -/
def Obligations.RandomNumberUnit : Prop :=
    (∀ (cause source : Nat) (startup : Bool) (taken : Bytes) (s : State), s.running = true ∧ s.rnu.restart = none →
      ((cause = 1 ∧ taken.length = 81 ∧ (∀ b ∈ taken, b = taken.headD 0)) ∨ (cause = 2 ∧
      taken.length = 512 ∧ 431 ≤ (taken.filter (· == taken.headD 0)).length) ∨ (cause = 3 ∧
      taken.length < 100) ∨ cause = 4 ∨ cause = 5) →
      Answers (.rnuHealthFailure cause source startup taken []) s (fun t => t.rnu.bellows = [] ∧
      t.rnu.seed = none ∧ t.rnu.expander = none ∧ t.rnu.cause = cause ∧ t.rnu.source = (if 4 ≤ cause then 0 else source % 2) ∧
      t.rnu.startup = startup ∧ t.rnu.failPos = s.rnu.pos - 1 ∧ t.rnu.pos = s.rnu.pos ∧
      t.rnu.failures = min 65535 (s.rnu.failures + 1) ∧ t.rnu.st = (if s.rnu.st = .fault ∨ 3 ≤ s.rnu.attempts + 1 then .fault else .restarting) ∧
      t.event .rnu 0 0 = true ∧ (s.rnu.st ≠ .fault → 3 ≤ s.rnu.attempts + 1 →
      t.event .rnu 0 2 = true))) ∧
    (∀ (id n : Nat) (x : Ctx) (s : State), s.running = true ∧ s.rnu.restart = none →
      s.hif.ctxs = [x] ∧ x.id = id →
      (x.phase = .held → x.angle = none → Answers (.rnuHealthFailure 4 0 false [] []) s (fun t => t.hif.ctxs = [])) ∧
      (x.hdr.opcode = 0x0501 → exec (.rnuHealthFailure 4 0 false [] [(id, n)]) s = exec (.rnuHealthFailure 4 0 false [] []) (finishCtx x { code := 0x0802, resultLen := (leBytes 8 s.rnu.pos ++ (draw n s).1).length, output := leBytes 8 s.rnu.pos ++ (draw n s).1 } (leaveCore id (draw n s).2))) ∧
      (x.hdr.opcode ≠ 0x0501 → exec (.rnuHealthFailure 4 0 false [] [(id, n)]) s = exec (.rnuHealthFailure 4 0 false [] []) (finishCtx x { code := 0x0802 } (leaveCore id s)))) ∧
    (∀ (s : State), s.running = true →
      s.rnu.bellows = [] ∧ s.rnu.restart = none ∧ s.key.keysDue = false →
      ((s.rnu.st = .starting ∨ s.rnu.st = .restarting) → Answers .rnuStartupPass s (fun t => t.rnu.st = .ready ∧
      t.rnu.attempts = 0 ∧ t.rnu.pos = s.rnu.pos ∧ t.rnu.seed.isSome = true ∧
      t.rnu.expander.isSome = true ∧ t.rnu.bellows.length = 1 ∧ t.rnu.generated = 4096 ∧
      t.rnu.seededAt = s.sck.now ∧ t.event .rnu 0 1 = true)) ∧ (s.rnu.st ≠ .starting →
      s.rnu.st ≠ .restarting → exec .rnuStartupPass s = .next s)) ∧
    (∀ (seed : Bytes) (x : Expander) (s : State), s.running = true →
      s.rnu.st = .ready ∧ s.rnu.seed = some seed ∧ s.rnu.expander = some x →
      ((16777216 ≤ s.rnu.generated ∨ s.rnu.seededAt + 1000000000 ≤ s.sck.now) →
      Answers .rnuReseed s (fun t => t.rnu.expander = some (x.update seed) ∧ t.rnu.generated = 0 ∧
      t.rnu.seededAt = s.sck.now ∧ t.rnu.seed.isSome = true ∧ t.rnu.bellows = s.rnu.bellows)) ∧
      (s.rnu.generated < 16777216 → s.sck.now < s.rnu.seededAt + 1000000000 →
      exec .rnuReseed s = .next s)) ∧
    (∀ (x : Expander) (s : State), s.running = true →
      s.rnu.st = .ready ∧ s.rnu.expander = some x →
      (s.rnu.bellows.length < 16 → s.rnu.generated < 16777216 → s.sck.now < s.rnu.seededAt + 1000000000 →
      Answers .bellowsRefill s (fun t => t.rnu = { s.rnu with bellows := s.rnu.bellows ++ [(x.generate 256).1], expander := some (x.generate 256).2, generated := s.rnu.generated + 4096 })) ∧
      (16 ≤ s.rnu.bellows.length → exec .bellowsRefill s = .next s)) ∧
    (∀ (s : State), s.running = true →
      s.rnu.expander.isSome = true →
      (s.rnu.st = .ready → Answers .bellowsFlush s (fun t => t.rnu.bellows.length = 16 ∧
      t.rnu.pos = s.rnu.pos ∧ t.rnu.st = .ready ∧ t.event .rnu 0 3 = true)) ∧
      (s.rnu.st ≠ .ready → exec .bellowsFlush s = .next s)) ∧
    (∀ (seed : Bytes) (s : State), s.running = true →
      s.rnu.st = .ready ∧ s.rnu.seed = some seed →
      Answers .expanderReinstantiate s (fun t => t.rnu.expander = some (.instantiate seed (leBytes 8 s.ident.siliconId ++ beBytes 8 s.lcc.starts ++ List.replicate 32 0#8)) ∧
      t.rnu.generated = 0 ∧ t.rnu.seededAt = s.sck.now ∧ t.rnu.bellows = s.rnu.bellows ∧
      t.rnu.seed.isSome = true)) ∧
    (∀ (value : Nat) (s : State), reaches 0 s = true →
      s.lcc.st = .maker →
      (bitOf value 0 = s.rnu.pattern → Answers (.testPatternWrite value) s (fun t => t.rnu = { s.rnu with patternSeed := if fieldOf value 31 16 = 0 then s.rnu.patternSeed else fieldOf value 31 16 })) ∧
      (bitOf value 0 ≠ s.rnu.pattern → s.rnu.st ≠ .fault → fieldOf value 31 16 ≠ 0 →
      Answers (.testPatternWrite value) s (fun t => t.rnu.pattern = bitOf value 0 ∧
      t.rnu.st = .starting ∧ t.rnu.bellows = [] ∧ t.rnu.seed = none ∧ t.rnu.expander = none ∧
      t.rnu.attempts = 0 ∧ t.rnu.patternSeed = fieldOf value 31 16 ∧ t.rnu.lfsr0 = 65537 * fieldOf value 31 16 ∧
      t.rnu.lfsr1 = 65537 * fieldOf value 31 16))) ∧
    (∀ (value : Nat) (s : State), reaches 0 s = true →
      s.lcc.st ≠ .maker →
      exec (.testPatternWrite value) s = .next s)

/-- NOP, RANDOM_BYTES, ENTROPY_RESTART and RAW_SAMPLES. NOP completes OK and changes nothing (R462). RANDOM_BYTES of a READY
unit writes the 8 bytes of the output position and then LENGTH bytes drawn from Bellows, and moves the position on by
LENGTH (R392, R481). The bytes drawn are the next ones of Bellows, each drawn once: within a block the rest of the block
stays, and at its end the draw goes on in the next one (R391, R392). ENTROPY_RESTART of a unit in FAULT begins a new series
of attempts, and the operation goes on until the first attempt ends (R409). In any other state it completes OK with the
state's code in DETAIL and changes nothing (R409). RAW_SAMPLES in the Maker state writes COUNT bytes of a source; in any
other it is INPUT_REJECTED (R410). The bytes themselves are free values. -/
def Obligations.RandomOperations : Prop :=
    (∀ (q : Call) (s : State), ready 0x0001 q 0 s = true →
      exec (.nop q) s = .next (complete q { code := 0 } s)) ∧
    (∀ (q : Call) (length : Nat) (s : State), ready 0x0501 q (8 + length) s = true →
      0 < length ∧ length ≤ 1048576 →
      s.rnu.st = .ready →
      exec (.randomBytes q length) s = .next (complete q { code := 0, resultLen := (leBytes 8 s.rnu.pos ++ (draw length s).1).length, output := leBytes 8 s.rnu.pos ++ (draw length s).1 } (draw length s).2) ∧
      (draw length s).2.rnu.pos = (s.rnu.pos + length) % 2 ^ 64) ∧
    (∀ (n : Nat) (b c : Bytes) (l : List Bytes) (s : State), s.rnu.expander.isSome = true ∧ s.rnu.bellows = b :: c :: l →
      0 < n ∧ n < b.length + c.length ∧ b ≠ [] →
      (n < b.length → (draw n s).1 = b.take n ∧ (draw n s).2.rnu.bellows = b.drop n :: c :: l) ∧
      (b.length < n → (draw n s).1 = b ++ c.take (n - b.length) ∧ (draw n s).2.rnu.bellows = c.drop (n - b.length) :: l)) ∧
    (∀ (q : Call) (s : State), ready 0x0502 q 0 s = true →
      s.rnu.st = .fault →
      exec (.entropyRestart q) s = .next { s with rnu := { s.rnu with st := .restarting, attempts := 0, restart := some (q, s.ctxIdFor q) } }) ∧
    (∀ (q : Call) (s : State), ready 0x0502 q 0 s = true →
      s.rnu.st ≠ .fault →
      exec (.entropyRestart q) s = .next (complete q { code := 0, detail := match s.rnu.st with | .starting => 0 | .ready => 1 | .restarting => 2 | .fault => 3 } s)) ∧
    (∀ (q : Call) (source count : Nat) (s : State), ready 0x0503 q count s = true →
      source ≤ 1 ∧ count ≤ 1048576 →
      exec (.rawSamples q source count) s = .next (if s.lcc.st = .maker then complete q { code := 0, resultLen := (samples source count s).1.length, output := (samples source count s).1 } (samples source count s).2 else complete q { code := 0x0101 } s))

/-- A random-bytes operation of length 0 draws and writes nothing and reports the unit's readiness (R408). The unit READY: OK,
no output, and no other change. STARTING without WAIT: ENTROPY_NOT_READY. STARTING with WAIT: it is held. RESTARTING or
FAULT: ENTROPY_FAULT. A length above 1,048,576: INPUT_REJECTED. -/
def Obligations.NoRandomBytes : Prop :=
    (∀ (q : Call) (s : State), ready 0x0501 q 0 s = true →
      s.rnu.st = .ready →
      exec (.randomBytes q 0) s = .next (complete q { code := 0 } s)) ∧
    (∀ (q : Call) (s : State), ready 0x0501 q 0 s = true →
      s.rnu.st = .starting ∧ q.hdr.wait = false →
      exec (.randomBytes q 0) s = .next (complete q { code := 0x0801 } s)) ∧
    (∀ (q : Call) (s : State), ready 0x0501 q 0 s = true →
      s.rnu.st = .starting ∧ q.hdr.wait = true →
      exec (.randomBytes q 0) s = .next (holdOp q s)) ∧
    (∀ (q : Call) (s : State), ready 0x0501 q 0 s = true →
      s.rnu.st = .restarting ∨ s.rnu.st = .fault →
      exec (.randomBytes q 0) s = .next (complete q { code := 0x0802 } s)) ∧
    (∀ (q : Call) (length : Nat) (s : State), ready 0x0501 q (8 + length) s = true →
      1048576 < length →
      exec (.randomBytes q length) s = .next (complete q { code := 0x0101 } s))

/-- KEY_LOAD, KEY_UNLOAD, KEY_GENERATE and KEY_BLOB_READ. KEY_LOAD of a blob that passes the checks of R295, of the function's
own, not loaded yet, with slots free, and for a private kind with the random number unit in READY, completes OK with the
handle in DETAIL; the key is loaded with its working form, and its blob stored in the vault where asked (R295, R299, R305).
KEY_LOAD of a handle that is loaded already completes OK and, unless the vault is asked for, changes nothing (R301). A blob
whose form is wrong, or that does not unwrap here, is INPUT_REJECTED; with no storage root KEY_LOAD is KEY_NOT_LOADED
(R289, R295). KEY_UNLOAD of a loaded key that no plan pins frees its slots; of a pinned one it is KEY_USAGE_DENIED (R302).
KEY_GENERATE of a well-formed request, with a handle left, random numbers READY and room where it loads or stores,
completes OK with the function's next handle in DETAIL and the new key's blob as output; the key is sealed under the
domain's wrapping key, with LOAD loaded and with VAULT stored (R294, R299, R305). KEY_BLOB_READ of a loaded key whose blob
fits the output buffer returns it (R305). Key material is drawn from the expander, whose seeds come from free samples (log
entry 4). -/
def Obligations.KeysLoadAndUnload : Prop :=
    (∀ (q : Call) (vault : Bool) (b : Blob) (m : Bytes) (s : State), ready 0x0101 q 0 s = true →
      blobFormOk 1 b = true ∧ b.handle ≠ 0 ∧ handleFn b.handle = q.f ∧ s.key? b.handle = none →
      s.key.rootPresent = true ∧ unwrapped s b = some m →
      (usageOk b.attr.kind b.attr.usage = true ∧ (isPrivateKind b.attr.kind = true → s.rnu.st = .ready)) →
      (vault = true → vaultFits s b.handle b.len = true) →
      s.slotsFit q.f (kindSlots b.attr.kind) = true →
      Answers (.keyLoad q vault b) s (fun t => ∃ x : State, t = complete q { code := 0, detail := b.handle } x ∧
      (∃ k, x.key? b.handle = some k ∧ k.blob = b ∧ k.material = m ∧ k.work = workOf b.handle b.attr.kind m ∧
      k.faulted = false) ∧ (vault = true → Tbl.find? b.handle x.key.vault = some b))) ∧
    (∀ (q : Call) (b : Blob) (m : Bytes) (k : LoadedKey) (s : State), ready 0x0101 q 0 s = true →
      blobFormOk 1 b = true ∧ b.handle ≠ 0 ∧ handleFn b.handle = q.f ∧ s.key? b.handle = some k →
      s.key.rootPresent = true ∧ unwrapped s b = some m →
      usageOk b.attr.kind b.attr.usage = true →
      exec (.keyLoad q false b) s = .next (complete q { code := 0, detail := b.handle } s)) ∧
    (∀ (q : Call) (vault : Bool) (b : Blob) (s : State), ready 0x0101 q 0 s = true →
      b.handle ≠ 0 ∧ handleFn b.handle = q.f →
      (blobFormOk 1 b = false → exec (.keyLoad q vault b) s = .next (complete q { code := 0x0101 } s)) ∧
      (blobFormOk 1 b = true → s.key.rootPresent = false → exec (.keyLoad q vault b) s = .next (complete q { code := 0x0201 } s)) ∧
      (blobFormOk 1 b = true → s.key.rootPresent = true → unwrapped s b = none →
      exec (.keyLoad q vault b) s = .next (complete q { code := 0x0101 } s))) ∧
    (∀ (q : Call) (handle : Nat) (k : LoadedKey) (s : State), ready 0x0102 q 0 s = true →
      handle ≠ 0 ∧ handleFn handle = q.f ∧ s.key? handle = some k →
      s.key.rootPresent = true →
      exec (.keyUnload q handle) s = .next (if isPinned s handle then complete q { code := 0x0202 } s else complete q { code := 0 } (dropKey handle s)) ∧
      (dropKey handle s).key.keys = Tbl.del handle s.key.keys) ∧
    (∀ (q : Call) (kind flags keyLen usage ident group notBefore notAfter h : Nat) (s1 s : State), ready 0x0103 q (blobLen (kindLen kind keyLen)) s = true →
      s.key.rootPresent = true ∧ genBodyOk kind flags keyLen usage notBefore notAfter = true →
      allocHandle q.f s = some (h, s1) →
      ((bitOf flags 1 = true → s.slotsFit q.f (kindSlots kind) = true) ∧ (bitOf flags 2 = true →
      bitOf flags 1 = true ∧ vaultFits s h (blobLen (kindLen kind keyLen)) = true)) →
      s.rnu.st = .ready →
      Answers (.keyGenerate q kind flags keyLen usage ident group notBefore notAfter) s (fun t => ∃ (m : Bytes) (iv : Nat) (b : Blob) (x : State), b = sealUnder (s.dwk (handleFn h) (s1.dom (handleFn h)).epoch) 1 h (s1.dom (handleFn h)).epoch iv b.attr m ∧
      b.attr = { kind, origin := 1, migratable := bitOf flags 0, usage, ident, group, notBefore, notAfter, created := toStamp s.sck.now, keyLen := kindLen kind keyLen } ∧
      (bitOf flags 1 = true → ∃ k, x.key? h = some k ∧ k.blob = b ∧ k.material = m) ∧
      (bitOf flags 2 = true → Tbl.find? h x.key.vault = some b) ∧ t = complete q { code := 0, detail := h, resultLen := blobLen (kindLen kind keyLen), output := blobBytes b } x)) ∧
    (∀ (q : Call) (handle : Nat) (k : LoadedKey) (s : State), ready 0x0104 q 0 s = true →
      handle ≠ 0 ∧ handleFn handle = q.f ∧ s.key? handle = some k →
      s.key.rootPresent = true ∧ blobLen k.blob.attr.keyLen ≤ q.hdr.outLen →
      exec (.keyBlobRead q handle) s = .next (complete q { code := 0, resultLen := blobLen k.blob.attr.keyLen, output := blobBytes k.blob } s))

/-- KEY_VAULT_STORE, KEY_VAULT_DELETE, KEY_RESERVE and KEY_RESERVE_CANCEL. KEY_VAULT_STORE of a loaded key that fits the
function's vault sectors stores its blob and records it (R305). KEY_VAULT_DELETE of a stored key that no plan names with
VAULT removes its blob and records it; of a named one it is KEY_USAGE_DENIED (R305). KEY_RESERVE of a well-formed request
with fewer than 256 open reservations and a handle left reserves the function's next handle and returns it in DETAIL
(R330). KEY_RESERVE_CANCEL of an open reservation removes it (R330). -/
def Obligations.KeysVaultAndReservations : Prop :=
    (∀ (q : Call) (handle : Nat) (k : LoadedKey) (s : State), ready 0x0105 q 0 s = true →
      handle ≠ 0 ∧ handleFn handle = q.f ∧ s.key? handle = some k →
      s.key.rootPresent = true ∧ vaultFits s handle (blobLen k.blob.attr.keyLen) = true →
      exec (.keyVaultStore q handle) s = .next (complete q { code := 0 } (vaultStore k.blob s)) ∧
      Tbl.find? k.blob.handle (vaultStore k.blob s).key.vault = some k.blob ∧
      vaultStore k.blob s = stageRec 0x23 (handleFn k.blob.handle) (.keyEvent k.blob.handle 8 0) (appendBlob k.blob s)) ∧
    (∀ (q : Call) (handle : Nat) (s : State), ready 0x0106 q 0 s = true →
      handle ≠ 0 ∧ handleFn handle = q.f ∧ Tbl.has s.key.vault handle = true →
      exec (.keyVaultDelete q handle) s = .next (if vaultNamed s q.f handle then complete q { code := 0x0202 } s else complete q { code := 0 } (keyEvent q.f handle 9 0 { s with key := { s.key with vault := Tbl.del handle s.key.vault } }))) ∧
    (∀ (q : Call) (kind usage ident group h : Nat) (vault : Bool) (s1 s : State), ready 0x0107 q 0 s = true →
      1 ≤ kind ∧ kind ≤ 3 ∧ 1 ≤ usage ∧ usage ≤ 3 ∧ group ≠ 0 →
      openReservations (s.dom q.f) < 256 →
      allocHandle q.f s = some (h, s1) →
      exec (.keyReserve q kind vault usage ident group) s = .next (complete q { code := 0, detail := h } (s1.updDom q.f fun d => { d with reservations := d.reservations ++ [{ handle := h, group, ident, kind, usage, vault }] }))) ∧
    (∀ (q : Call) (handle : Nat) (s : State), ready 0x0108 q 0 s = true →
      handle ≠ 0 ∧ handleFn handle = q.f →
      (s.dom q.f).reservations.any (fun r => r.handle == handle && r.bound.isNone) = true →
      exec (.keyReserveCancel q handle) s = .next (complete q { code := 0 } (s.updDom q.f fun d => { d with reservations := d.reservations.filter fun r => r.handle != handle })))

/-- KEY_ATTEST, DEVICE_ATTEST and TEMPER_APPLY. KEY_ATTEST of a loaded key whose statement fits returns the signed statement of
kind 2 over the challenge and the key's body (R328). DEVICE_ATTEST of kind 3 or 4 returns the statement for that key, its
length in DETAIL; of kind 1 the statement and the DIK certificate; of any other kind it is INPUT_REJECTED (R327). A Temper
message that passes its checks, whose commands the level and the signers' authority admit, is applied whole: every command
takes effect, the domain's counter becomes the message's, and its event is raised (R318 to R322). A message that fails a
check, lacks the authority for a command or has a command that cannot be applied is refused with the reason and command it
fails at; one that the response level does not admit is RESTRICTED; nothing is changed (R318 to R323). What the commands of
a message do: CREATE_DOMAIN binds a tenant, REVOKE ends a signer, SET_MIGRATION_KEY keeps the key, ENROL adds a signer with
the digest of its key, ADVANCE_EPOCH raises the epoch, and CLEAR_RESTRICT clears no latch whose condition lasts (R313,
R319, R321). Signatures are computed and checked by the curve arithmetic (log entry 9); their engine time is left out (log
entry 87). -/
def Obligations.AttestationAndTemper : Prop :=
    (∀ (q : Call) (handle : Nat) (challenge : Bytes) (k : LoadedKey) (s : State), ready 0x0109 q 0 s = true →
      handle ≠ 0 ∧ handleFn handle = q.f ∧ s.key? handle = some k →
      s.key.rootPresent = true ∧ statementLen (keyBodyLen k.blob.attr.kind) ≤ q.hdr.outLen →
      exec (.keyAttest q handle challenge) s = .next (complete q { code := 0, resultLen := statementLen (keyBodyLen k.blob.attr.kind), output := statement 2 challenge (keyBody k s) s } s)) ∧
    (∀ (q : Call) (kind : Nat) (challenge : Bytes) (s : State), ready 0x010A q 4096 s = true →
      (kind = 3 ∨ kind = 4 → Answers (.deviceAttest q kind challenge) s (fun t => ∃ body, body = p384Public (if kind = 3 then s.ak else s.dtk) ∧
      t = complete q { code := 0, detail := statementLen body.length, resultLen := statementLen body.length, output := statement kind challenge body s } s)) ∧
      (kind = 1 → Answers (.deviceAttest q kind challenge) s (fun t => t = complete q { code := 0, detail := statementLen 0, resultLen := statementLen 0 + (s.lcc.dikCert.getD []).length, output := statement 1 challenge [] s ++ s.lcc.dikCert.getD [] } s)) ∧
      (kind ≠ 1 → kind ≠ 3 → kind ≠ 4 → exec (.deviceAttest q kind challenge) s = .next (complete q { code := 0x0101 } s))) ∧
    (∀ (q : Call) (m : TemperMsg) (s1 s : State), ready 0x010B q 0 s = true →
      temperReason m s = none →
      (firstBad (levelAdmits s.level) 0 (temperCmds s m)).isSome = false ∧ firstBad (authority s m) 0 (temperCmds s m) = none →
      applyAll m 0 (temperCmds s m) s = .ok s1 →
      (((temperCmds s m).any temperNeedsRoot && !s1.key.rootPresent) = false ∧
      ((temperCmds s m).any temperDraws = true → s.rnu.st = .ready)) →
      exec (.temperApply q m) s = .next (complete q { code := 0 } (raiseEvent .key m.domain 4 (s1.updDom m.domain fun d => { d with temper := m.counter })))) ∧
    (∀ (q : Call) (m : TemperMsg) (s : State), ready 0x010B q 0 s = true →
      (∀ r i, temperReason m s = some (r, i) → exec (.temperApply q m) s = .next (complete q { code := 0x0101, detail := r + 65536 * i } s)) ∧
      (temperReason m s = none → (firstBad (levelAdmits s.level) 0 (temperCmds s m)).isSome = true →
      exec (.temperApply q m) s = .next (complete q { code := 0x0601 } s)) ∧ (temperReason m s = none →
      (firstBad (levelAdmits s.level) 0 (temperCmds s m)).isSome = false → ∀ i, firstBad (authority s m) 0 (temperCmds s m) = some i →
      exec (.temperApply q m) s = .next (complete q { code := 0x0101, detail := 0x0109 + 65536 * i } s)) ∧
      (temperReason m s = none → (firstBad (levelAdmits s.level) 0 (temperCmds s m)).isSome = false →
      firstBad (authority s m) 0 (temperCmds s m) = none → ∀ i, applyAll m 0 (temperCmds s m) s = .error i →
      exec (.temperApply q m) s = .next (complete q { code := 0x0101, detail := 0x010A + 65536 * i } s))) ∧
    (∀ (dom d tenant signer mkId role : Nat) (key : Bytes) (s : State), d ≤ 63 ∧ dom ≤ 63 →
      ((s.dom d).tenant = none → ∃ x, applyTemper dom (.createDomain d 0 tenant) s = some x ∧
      x.dom d = { s.dom d with tenant := some tenant }) ∧ (∃ x, applyTemper dom (.revoke d 0 signer) s = some x ∧
      x.dom d = { s.dom d with roles := (s.dom d).roles.map fun r => if r.signerId = signer then { r with active := false } else r }) ∧
      (mkId ≠ 0 → ∃ x, applyTemper dom (.setMigrationKey mkId key) s = some x ∧
      x.dom dom = { s.dom dom with migKey := some (mkId, key) }) ∧ (1 ≤ role →
      role ≤ 3 → (s.dom d).roles = [] → ∃ x, applyTemper dom (.enrol d role 0 key) s = some x ∧
      (x.dom d).roles = [{ role, key, signerId := signerIdOf key, stamp := toStamp s.sck.now }]) ∧
      (restrictCondition s = true → applyTemper dom .clearRestrict s = none))

/-- Key lifetimes, slot repair and group keys. When NOT_AFTER of a key that an active entry names passes, its KEY_EVENT record
is staged and its event raised, once (R307). A key slot with a memory error whose vault blob unwraps is filled from it
again, and the operations that waited go on recomputed (R304). Without a vault blob that unwraps the slot is zeroed,
recorded and its event raised, and the operations that waited complete KEY_NOT_LOADED (R304). An operation that waited for
a slot reports RECOMPUTED once the key is back, and completes KEY_NOT_LOADED where it is not (R304). A pushed TEK that
matches an open reservation, at Record level with slots free and random numbers READY, is loaded under the reserved handle,
with VAULT stored, bound with its check value, recorded, and its event raised (R330). At Restrict or above, with the quota
full, the random number unit not READY or no root, the TEK has no effect and its reservation stays open; one that matches
none is discarded, recorded, and its event raised; a second one for a bound reservation is discarded too, unless it is the
same key (R330, R331). As key distribution centre, below Restrict, the module pushes a generated group key on every port in
use from its lead time before NOT_BEFORE on (R332). -/
def Obligations.KeyEvents : Prop :=
    (∀ (handle : Nat) (k : LoadedKey) (s : State), s.running = true →
      s.key? handle = some k →
      k.blob.attr.notAfter ≠ 0 ∧ stampNs k.blob.attr.notAfter ≤ s.sck.now →
      activeNames s handle = true ∧ s.key.lapsed.contains handle = false →
      exec (.keyLifetimePassed handle) s = .next (raiseEvent .key (handleFn handle) 3 (stageRec 0x23 (handleFn handle) (.keyEvent handle 5 0) { s with key := { s.key with lapsed := handle :: s.key.lapsed } }))) ∧
    (∀ (handle : Nat) (waiting : List Nat) (k : LoadedKey) (b : Blob) (m : Bytes) (s : State), s.running = true →
      s.key? handle = some k ∧ k.faulted = true →
      Tbl.find? handle s.key.vault = some b ∧ unwrapped s b = some m ∧ b.handle = handle →
      exec (.keySlotRepair handle waiting) s = .next (resolveWaiting true waiting (fillSlot b m s)) ∧
      (∃ k', (fillSlot b m s).key? handle = some k' ∧ k'.blob = b ∧ k'.material = m ∧
      k'.faulted = false)) ∧
    (∀ (handle : Nat) (waiting : List Nat) (k : LoadedKey) (s : State), s.running = true →
      s.key? handle = some k ∧ k.faulted = true →
      (Tbl.find? handle s.key.vault = none ∨ (∃ b, Tbl.find? handle s.key.vault = some b ∧ unwrapped s b = none)) →
      exec (.keySlotRepair handle waiting) s = .next (resolveWaiting false waiting (raiseEvent .key (handleFn handle) 2 (stageRec 0x23 (handleFn handle) (.keyEvent handle 4 0) (dropKey handle s)))) ∧
      (dropKey handle s).key.keys = Tbl.del handle s.key.keys) ∧
    (∀ (id : Nat) (x : Ctx) (s : State), s.ctx? id = some x →
      (resolveWaiting true [id] s).ctx? id = some { x with recomputed := true } ∧
      resolveWaiting false [id] s = finishCtx x { code := 0x0201 } (dropCtxItems id s)) ∧
    (∀ (f group ident kind notBefore notAfter : Nat) (material : Bytes) (r : Reservation) (s : State), s.running = true →
      tekReservation group ident kind material.length (s.dom f).reservations = some r ∧ r.bound = none →
      (s.level = 0 ∧ s.key.rootPresent = true ∧ s.slotsFit f (kindSlots kind) = true ∧
      s.rnu.st = .ready ∧ (r.vault = true → vaultFits s r.handle (blobLen material.length) = true)) →
      Answers (.gdoiPushReceived f group ident kind material notBefore notAfter) s (fun t => ∃ (b : Blob) (x : State), b.handle = r.handle ∧
      b.attr = { kind, origin := 3, usage := r.usage, ident, group, notBefore, notAfter, created := toStamp s.sck.now, keyLen := material.length } ∧
      (∃ k, x.key? r.handle = some k ∧ k.blob = b ∧ k.material = material) ∧ (r.vault = true →
      Tbl.find? r.handle x.key.vault = some b) ∧ t = raiseEvent .key f 0 (stageRec 0x23 f (.keyEvent r.handle 6 0) (x.updDom f fun d => { d with reservations := bindReservation r.handle (checkValue material) d.reservations })))) ∧
    (∀ (f group ident kind notBefore notAfter : Nat) (material : Bytes) (r : Reservation) (s : State), s.running = true →
      (tekReservation group ident kind material.length (s.dom f).reservations = some r →
      r.bound = none → (1 ≤ s.level ∨ s.key.rootPresent = false ∨ s.slotsFit f (kindSlots kind) = false ∨ s.rnu.st ≠ .ready) →
      exec (.gdoiPushReceived f group ident kind material notBefore notAfter) s = .next s) ∧
      (tekReservation group ident kind material.length (s.dom f).reservations = none →
      exec (.gdoiPushReceived f group ident kind material notBefore notAfter) s = .next (raiseEvent .key f 1 (stageRec 0x23 f (.keyEvent 0 7 0) s))) ∧
      (∀ check, tekReservation group ident kind material.length (s.dom f).reservations = some r →
      r.bound = some check → exec (.gdoiPushReceived f group ident kind material notBefore notAfter) s = .next (if check = checkValue material then s else raiseEvent .key f 1 (stageRec 0x23 f (.keyEvent r.handle 7 0) s)))) ∧
    (∀ (handle : Nat) (k : LoadedKey) (s : State), s.running = true →
      s.key? handle = some k ∧ k.blob.attr.origin = 1 ∧ k.blob.attr.group ≠ 0 ∧ s.level = 0 →
      stampNs k.blob.attr.notBefore ≤ s.sck.now + s.key.kdcLead * 1000000000 →
      exec (.gdoiKdcPush handle) s = .next (sendAll 0 (.groupKey handle) 12 s))

/-- Alarms in main power, standby and Snowdrop, and their end. With the main domain powered, an alarm of a cause below Quench,
neither loop nor light, in the hour that is counted, not yet journalled 16 times in it, the journal not full, writes the
journal entry of its cause, source and DATA at the next INDEX, counts it for its lifetime, and latches its level (R588,
R592, R602, R614, R618). With the main domain powered, a break of a loop in wiring is kept, and raises its alarm where the
loop is enabled; light raises its alarm and is noted for both designs; a condition present already raises nothing more
(R592, R595, R597, R598, R602). An alarm at a Quench level latches it and starts the Quench path: the random number unit's
state is zeroed, every TLS session closed and the Quench counted; the path runs only once at a time (R402, R480, R603,
R605). In standby an alarm of a cause watched there is staged, and counts as present (R608, R610). In Snowdrop an alarm of
a cause watched there is staged as such and BBKR is zeroed whatever its level; one that is not watched, or after the scrap
fuse, does nothing but let time pass; a full staging buffer counts the alarm and its cause (R607, R609, R610). When a
monitor no longer reports a condition it is present no more (R592). Light seen by one design only, no light alarm present,
raises LIGHT_DISAGREE with the elements in DATA (R596). A cell reading below 2.9 V raises CELL_LOW with it in DATA; one of
2.9 V or more ends that condition (R599). The monitors' outcomes are operands (log entry 8). -/
def Obligations.TamperAlarms : Prop :=
    (∀ (cause source data cycles : Nat) (s : State), s.pwr.main = true ∧ s.lcc.scrapFuse = false →
      allCauses.contains cause = true ∧ cause ≠ causeLoop ∧ cause ≠ causeLight →
      (isCondition cause && isPresent s cause source) = false →
      escalates s cause = false ∧ alarmLevel s cause source < 2 →
      rtcHours s = s.tm.hour ∧ (hourOf cause source s.tm.hours).entries < 16 ∧ s.tm.full = false →
      Answers (.tamperAlarm cause source data cycles) s (fun t => ∃ e js, t.tm.journal = e :: js ∧
      js.map (·.index) = s.tm.journal.map (·.index) ∧ e.index = s.tm.journal.length ∧
      e.cause = cause ∧ e.source = source ∧ e.data = data ∧ e.level = alarmLevel s cause source ∧
      Tbl.get 0 t.tm.counters cause = min 0xFFFFFFFF (Tbl.get 0 s.tm.counters cause + 1) ∧
      (alarmLevel s cause source = 1 → latchLevel t.tm ≥ 1))) ∧
    (∀ (source data cycles : Nat) (s : State), s.pwr.main = true ∧ s.lcc.scrapFuse = false →
      source < 4 →
      (bitOf (s.loopCfg source) 0 = false → exec (.tamperAlarm causeLoop source data cycles) s = .next { s with tm := { s.tm with loopOpen := Tbl.put source data s.tm.loopOpen } }) ∧
      (bitOf (s.loopCfg source) 0 = true → exec (.tamperAlarm causeLoop source data cycles) s = .next (raiseAlarm causeLoop source data { s with tm := { s.tm with loopOpen := Tbl.put source data s.tm.loopOpen } })) ∧
      exec (.tamperAlarm causeLight source data cycles) s = .next (raiseAlarm causeLight source data { s with tm := { s.tm with lightA := true, lightB := true } }) ∧
      (isPresent s causeMesh source = true → exec (.tamperAlarm causeMesh source data cycles) s = .next s)) ∧
    (∀ (cause source data cycles : Nat) (s : State), s.pwr.main = true ∧ s.lcc.scrapFuse = false →
      allCauses.contains cause = true ∧ cause ≠ causeLoop ∧ cause ≠ causeLight ∧ cause ≠ causeTempWarn →
      (isCondition cause && isPresent s cause source) = false →
      2 ≤ alarmLevel s cause source ∧ s.tm.quenchBusy = false →
      Answers (.tamperAlarm cause source data cycles) s (fun t => (alarmLevel s cause source = 2 →
      t.tm.quenchW = true) ∧ (alarmLevel s cause source = 3 → t.tm.quenchR = true) ∧
      t.tm.quenchBusy = true ∧ t.key.quenchW = s.key.quenchW + (if alarmLevel s cause source = 3 then 0 else 1) ∧
      t.key.quenchR = s.key.quenchR + (if alarmLevel s cause source = 3 then 1 else 0) ∧
      t.rnu.bellows = [] ∧ t.rnu.seed = none ∧ t.rnu.expander = none ∧ t.rnu.st = (if s.rnu.st = .fault then .fault else .starting) ∧
      (∀ n v, Tbl.find? n t.tls.sessions = some v → v.st = 2))) ∧
    (∀ (cause source data cycles : Nat) (s : State), s.pwr.main = false ∧ s.pwr.standbyIn = true ∧ s.lcc.scrapFuse = false →
      cause ≠ causeLoop ∧ cause ≠ causeLight ∧ standbyCause cause = true ∧ isPresent s cause source = false →
      s.tm.staging.length < 32 →
      Answers (.tamperAlarm cause source data cycles) s (fun t => (∃ e, t.tm.staging = s.tm.staging ++ [e] ∧
      e.cause = cause ∧ e.source = source ∧ e.snowdrop = false ∧ e.subtype = data % 256) ∧
      isPresent t cause source = true ∧ (alarmLevel (passRtc cycles s) cause source = 3 →
      t.key.bbkr = none ∧ t.key.rootPresent = false) ∧ (alarmLevel (passRtc cycles s) cause source ≠ 3 →
      t.key = s.key))) ∧
    (∀ (cause source data cycles : Nat) (s : State), s.pwr.main = false ∧ s.pwr.standbyIn = false ∧ s.pwr.backupFed = true →
      (s.lcc.scrapFuse = false → snowdropCause (passRtc cycles s) cause source = true →
      isPresent s cause source = false → Answers (.snowdropAlarm cause source data cycles) s (fun t => t.key.bbkr = none ∧
      t.key.rootPresent = false ∧ isPresent t cause source = true ∧ (s.tm.staging.length < 32 →
      ∃ e, t.tm.staging = s.tm.staging ++ [e] ∧ e.cause = cause ∧ e.source = source ∧
      e.snowdrop = true) ∧ (32 ≤ s.tm.staging.length → t.tm.staging = s.tm.staging ∧
      t.tm.overflow = min 65535 (s.tm.overflow + 1) ∧ t.tm.bitmap = s.tm.bitmap ||| 2 ^ bitmapBit cause source))) ∧
      (s.lcc.scrapFuse = true ∨ snowdropCause (passRtc cycles s) cause source = false →
      exec (.snowdropAlarm cause source data cycles) s = .next (passRtc cycles s))) ∧
    (∀ (cause source : Nat) (s : State), isPresent s cause source = true →
      cause ≠ causeLoop →
      Answers (.alarmConditionAbsent cause source) s (fun t => isPresent t cause source = false ∧
      t.tm.journal = s.tm.journal)) ∧
    (∀ (elements cycles : Nat) (s : State), s.pwr.main = true ∧ s.lcc.scrapFuse = false ∧ isPresent s causeLight 0 = false →
      (s.tm.lightB = false → exec (.lightDisagreeTimeout false elements cycles) s = .next (raiseAlarm causeLightDisagree 0 (elements % 65536) { s with tm := { s.tm with lightA := true } })) ∧
      (s.tm.lightA = false → exec (.lightDisagreeTimeout true elements cycles) s = .next (raiseAlarm causeLightDisagree 0 (elements % 256 * 65536 + 2 ^ 24) { s with tm := { s.tm with lightB := true } })) ∧
      (s.tm.lightB = true → exec (.lightDisagreeTimeout false elements cycles) s = .next s)) ∧
    (∀ (mv cycles : Nat) (s : State), s.pwr.main = true ∧ s.lcc.scrapFuse = false →
      exec (.cellTest mv cycles) s = .next (if mv < 2900 then raiseAlarm causeCellLow 0 (mv * 2 ^ 32) { s with tm := { s.tm with cellMv := mv % 4096 } } else { s with tm := { s.tm with cellMv := mv % 4096, present := s.tm.present.filter (· != (causeCellLow, 0)) } }))

/-- The hour's overflow entries, the Quench paths and the end of Restrict. When an RTC hour has ended, an OVERFLOW entry is
made for each cause and source that was journalled 16 times and occurred again, and the hour's counts begin anew (R602).
Such an entry has OVERFLOW set, the number of further occurrences in COUNT, the highest level applied among them and the
instant of the hour's end; a count with none makes no entry (R602). The Quench-W path that runs ends with its zeroing done:
no key, no work and no entry is left but what a RESTORED VF holds, and the path is over; with none running nothing happens
(R537, R546, R605). Each word that did not read back as zero takes its bank out of power and raises ZERO_FAILED; a reset
that waited for the path then starts, or, RESET_N still low, the module is held in reset (R604, R606, R676). Under the
Quench-R latch, or with a staged alarm of that level while the main domain is off, BBKR is zeroed, the root is present no
more and the migration keys, sealed under it, are gone (R607); else nothing happens. An applied CLEAR_RESTRICT takes effect
at its tick: the hold it clears is gone, the level falls where nothing else holds it, and on its fall to Record the vault's
keys are unwrapped again (R619). With no CLEAR_RESTRICT applied nothing happens (R619). How a Quench path is cut short is
an operand (log entry 8). -/
def Obligations.TamperJournalAndQuench : Prop :=
    (∀ (s : State), s.running = true →
      rtcHours s ≠ s.tm.hour →
      Answers .journalOverflowHour s (fun t => t.tm.hours = [] ∧ t.tm.hour = rtcHours s ∧
      t.tm.journal = (overflowEntries (hourEnd s) s.tm.hours s).tm.journal)) ∧
    (∀ (h : HourCount) (s : State), s.running = true ∧ rtcHours s ≠ s.tm.hour →
      s.tm.hours = [h] ∧ s.tm.full = false →
      Answers .journalOverflowHour s (fun t => (h.excess ≠ 0 → ∃ e js, t.tm.journal = e :: js ∧
      e.index = s.tm.journal.length ∧ e.overflow = true ∧ e.count = h.excess ∧
      e.level = h.level ∧ e.cause = h.cause ∧ e.source = h.source ∧ e.stamp = hourEnd s) ∧
      (h.excess = 0 → t.tm.journal = s.tm.journal))) ∧
    (∀ (x : StartIn) (s : State), (s.tm.quenchBusy = true → s.pwr.resetWaits = none → (∀ c ∈ s.hif.ctxs, c.lifted = false) →
      Answers (.quenchWPath [] x) s (fun t => t.key.keys = [] ∧ t.hif.ctxs = [] ∧
      t.ts.items = [] ∧ t.ts.ready = [] ∧ t.ts.delay0 = [] ∧ t.ts.delay1 = [] ∧
      t.ts.delay2 = [] ∧ t.ts.delay3 = [] ∧ t.tm.quenchBusy = false ∧ t = quenchFinish [] s)) ∧
      (s.tm.quenchBusy = false → exec (.quenchWPath [] x) s = .next s)) ∧
    (∀ (failed : List (Nat × Nat)) (region bank : Nat) (x : StartIn) (s : State), s.tm.quenchBusy = true →
      exec (.quenchWPath failed x) s = .next (match (quenchFinish failed s).pwr.resetWaits with | none => quenchFinish failed s | some cause => if (quenchFinish failed s).pwr.holdNext then holdReset (quenchFinish failed s) else resetModule x cause true (quenchFinish failed s)) ∧
      quenchFinish [(region, bank)] s = raiseAlarm causeZeroFailed 0 (region + 256 * bank) { quenchFinish [] s with ac := { (quenchFinish [] s).ac with banksOff := (region, bank) :: (quenchFinish [] s).ac.banksOff } }) ∧
    (∀ (s : State), ((s.tm.quenchR = true ∨ (s.pwr.main = false ∧ s.tm.staging.any (fun e => e.snowdrop || alarmLevel s e.cause e.source == 3) = true)) →
      exec .quenchRErase s = .next { s with key := { s.key with bbkr := none, rootPresent := false, domains := Tbl.mapAll (fun _ d => { d with migKey := none }) s.key.domains } }) ∧
      (s.tm.quenchR = false → s.pwr.main = true → exec .quenchRErase s = .next s)) ∧
    (∀ (s : State), s.running = true →
      s.tm.clearPending = true →
      Answers .restrictClear s (fun t => t.tm.clearHold = false ∧ t.tm.clearPending = false ∧
      t.tm.restrictOn = (s.tm.restrictOn && s.tm.releaseHold) ∧ (s.level = 1 →
      s.tm.releaseHold = false → t.level = 0 ∧ ∃ x, x.io.alerts.testBit 2 = true ∧
      t = unwrapAll x))) ∧
    (∀ (s : State), s.running = true ∧ s.tm.clearPending = false →
      exec .restrictClear s = .next s)

/-- An engine starts, validates, finishes, aborts and is released. An idle engine in service starts its queued operation, else
one queued at an engine of its class out of service, in validation, with the operation's sources in its slots; one out of
service, busy or with nothing to take stays (R340, R342, R366). With nothing queued for it an engine stays as it is. At V
an operation that passed its validation goes on into its first run under the first randomization, from the slots as they
are (R360, R364); the blinding pair of an RSA key it signs with is squared first (R353). One that did not is refused: with
the status its operands earn, INPUT_REJECTED for a range flag, else NOT_ON_CURVE for a curve flag; and the slot memory is
zeroed (R358 to R361). Two runs that agree: the completion is released, the slot memory zeroed and the engine free; an
accepted curve is stored under the lowest free number of its function, which DETAIL names (R364, R370, R372). Runs that
differ, or a run that an upset has changed, release nothing: the engine fails with a mismatch (R364, R365). A mismatch (1)
or a command error (2) completes the operation INTEGRITY_LOST, is recorded and counted at the engine, raises
LOGIC_INTEGRITY, and takes the engine out of service, whose queued operation goes on to others (R365, R366, R368); a
mismatch also raises its event. An engine's operation is aborted at once with the status of its cause: SQUASHED, nothing
for a dead core, INTEGRITY_LOST with the count of a slot memory error, ABORTED at a Quench, INTEGRITY_LOST for a denied
access; only its source slots are left, and no operation is aborted twice (R367, R368). With no operation running there is
nothing to abort, and none to end or finish (R367). After an abort the source slots are zeroed too and the engine is free;
else nothing happens (R369). -/
def Obligations.EnginesRunOperations : Prop :=
    (∀ (e x : Nat) (op : PkeOp) (s : State), s.running = true →
      queueFor e s = some x ∧ (s.engine x).next = some op →
      ((s.engine e).inService = true ∧ (s.engine e).op = none → Answers (.pkeOperationStart e) s (fun t => (t.engine e).op = some op ∧
      (t.engine e).phase = .validation ∧ (t.engine e).slots = op.sources.foldl (fun t x => Tbl.put x.1 x.2 t) [] ∧
      (t.engine x).next = none)) ∧ ((s.engine e).inService = false ∨ (s.engine e).op.isSome = true →
      exec (.pkeOperationStart e) s = .next s)) ∧
    (∀ (e : Nat) (s : State), s.running = true →
      queueFor e s = none →
      exec (.pkeOperationStart e) s = .next s) ∧
    (∀ (e : Nat) (op : PkeOp) (s : State), s.running = true →
      (s.engine e).op = some op ∧ (s.engine e).phase = .validation →
      validationCode op (s.engine e) = none →
      Answers (.pkeValidationEnd e) s (fun t => t.engine e = { s.engine e with phase := .main1, snap := (s.engine e).slots, mask := op.mask1 } ∧
      (∀ k, op.kind = 0x10 → s.key? op.handle = some k → t.key? op.handle = some { k with blind := blindSquare (rsaKey k.material).n k.blind }) ∧
      (op.kind ≠ 0x10 → t.key = s.key))) ∧
    (∀ (e : Nat) (op : PkeOp) (s : State), s.running = true →
      (s.engine e).op = some op ∧ (s.engine e).phase = .validation →
      (∀ code, op.refuse = some code → exec (.pkeValidationEnd e) s = .next (lateComplete op.call op.ctx { code, detail := op.rejectDetail } (s.setEngine e (s.engine e).release))) ∧
      (op.refuse = none → (s.engine e).rangeFlag = true → exec (.pkeValidationEnd e) s = .next (lateComplete op.call op.ctx { code := stInputRejected, detail := op.rejectDetail } (s.setEngine e (s.engine e).release))) ∧
      (op.refuse = none → (s.engine e).rangeFlag = false → (s.engine e).curveFlag = true →
      exec (.pkeValidationEnd e) s = .next (lateComplete op.call op.ctx { code := stNotOnCurve, detail := op.rejectDetail } (s.setEngine e (s.engine e).release))) ∧
      (s.engine e).release.slots = [] ∧ (s.engine e).release.op = none ∧ (s.engine e).release.phase = .idle) ∧
    (∀ (e : Nat) (op : PkeOp) (s : State), s.running = true →
      (s.engine e).op = some op ∧ (s.engine e).phase = .finish →
      (s.engine e).first = some ((s.engine e).flags, (s.engine e).items) →
      ((op.curve = none ∨ op.comp.code ≠ stOk) → exec (.pkeOperationFinish e false) s = .next (lateComplete op.call op.ctx op.comp (s.setEngine e (s.engine e).release))) ∧
      (∀ c i, op.curve = some c → op.comp.code = stOk → freeCurve s op.call.f = some i →
      exec (.pkeOperationFinish e false) s = .next (lateComplete op.call op.ctx (okDetail (0x80 + i)) { s with pke := { s.pke with engines := Tbl.put e (s.engine e).release s.pke.engines, curves := Tbl.put (op.call.f * 256 + (0x80 + i)) c s.pke.curves } })) ∧
      (∀ c, op.curve = some c → op.comp.code = stOk → freeCurve s op.call.f = none →
      exec (.pkeOperationFinish e false) s = .next (lateComplete op.call op.ctx (bare stRefusedFull) (s.setEngine e (s.engine e).release)))) ∧
    (∀ (e : Nat) (op : PkeOp) (x : Nat × Tbl Nat) (s : State), s.running = true →
      (s.engine e).op = some op ∧ (s.engine e).phase = .finish →
      ((s.engine e).first = some x ∧ x ≠ ((s.engine e).flags, (s.engine e).items) →
      exec (.pkeOperationFinish e false) s = .next (engineFault e 1 s)) ∧ exec (.pkeOperationFinish e true) s = .next (engineFault e 1 s)) ∧
    (∀ (e : Nat) (op : PkeOp) (s : State), (s.engine e).op = some op ∧ (s.engine e).phase ≠ .aborted →
      (∀ sub, engineFault e sub s = leaveService e (raiseLogic sub (7 + e) e 0 ((if sub = 1 then raiseEvent .pke 0 0 else id) ((fun x : State => x.setEngine e { x.engine e with mismatches := min 0xFFFF ((s.engine e).mismatches + 1) }) (engineRec e (s.engine e) (lateComplete op.call op.ctx (bare stIntegrityLost) (s.setEngine e (s.engine e).abort))))))) ∧
      (∀ x : State, (x.engine e).inService = true → leaveService e x = moveAllQueued (List.range 8) ((engineRec e (x.engine e) (raiseEvent .pke 0 2 x)).setEngine e { (engineRec e (x.engine e) (raiseEvent .pke 0 2 x)).engine e with inService := false })) ∧
      (s.running = true → exec (.pkeAbort e 3) s = .next (engineFault e 2 s))) ∧
    (∀ (e : Nat) (op : PkeOp) (s : State), s.running = true →
      (s.engine e).op = some op ∧ (s.engine e).phase ≠ .aborted →
      exec (.pkeAbort e 0) s = .next (lateComplete op.call op.ctx (bare stSquashed) (s.setEngine e (s.engine e).abort)) ∧
      exec (.pkeAbort e 1) s = .next (s.setEngine e (s.engine e).abort) ∧ exec (.pkeAbort e 2) s = .next ((fun x : State => raiseEvent .pke 0 1 (x.setEngine e { x.engine e with slotErrors := min 0xFFFF ((s.engine e).slotErrors + 1) })) (engineRec e (s.engine e) (lateComplete op.call op.ctx (bare stIntegrityLost) (s.setEngine e (s.engine e).abort)))) ∧
      exec (.pkeAbort e 4) s = .next (lateComplete op.call op.ctx (bare stAborted) (s.setEngine e (s.engine e).abort)) ∧
      exec (.pkeAbort e 5) s = .next (lateComplete op.call op.ctx (bare stIntegrityLost) (s.setEngine e (s.engine e).abort)) ∧
      (s.engine e).abort.phase = .aborted ∧ (s.engine e).abort.items = [] ∧ (s.engine e).abort.slots = keepSources (s.engine e)) ∧
    (∀ (e cause : Nat) (s : State), s.running = true →
      (s.engine e).op = none →
      exec (.pkeAbort e cause) s = .next s ∧ exec (.pkeValidationEnd e) s = .next s ∧
      exec (.pkeOperationFinish e false) s = .next s) ∧
    (∀ (e : Nat) (s : State), s.running = true →
      ((s.engine e).phase ≠ .aborted → exec (.pkeAbortRelease e) s = .next s) ∧
      ((s.engine e).phase = .aborted → Answers (.pkeAbortRelease e) s (fun t => (t.engine e).slots = [] ∧
      (t.engine e).op = none ∧ (t.engine e).phase = .idle)))

/-- Arithmetic, moves and shifts of the public-key engines. MADD leaves (a + b) mod m in DST, the operands taken at LEN words;
for an even m, of which the spec gives no constants, a free value (R345). MSUB leaves (a − b) mod m in DST, a free value
for an even m (R345). MMUL leaves a × b × ρ⁻¹ mod m in DST, where ρ = 2^(64 × LEN), a free value for an even m (R345,
R343). MAC adds the full product of a and b to the 2 × LEN words of DST, unreduced (R345). SETC leaves 0, 1, ρ mod m or ρ²
mod m in DST, by BIT; a free value for an even m, and for a BIT of 4 or more (R345). SETMOD binds the modulus context to
the modulus in slot A and its length (R345). LOADKEY puts the item of the operation's key material into DST: the scalar of
a key is its item 0; an item the key does not have leaves a free value (R345). STORE makes the value of slot A the result
item named by BIT (R345). CSWAP exchanges slots A and B where the bit of DST named by BIT is 1, and leaves their values
otherwise, each taken at LEN words (R345). TSEL reads the slot selected from sixteen by four bits of slot B into DST
(R345). COPY leaves the value of slot A in DST (R345). With an even modulus the result is a free value (log entry 4). -/
def Obligations.EngineArithmeticAndMoves : Prop :=
    (∀ (e : Nat) (c : PkeCmd) (s : State), takes e 0x05 c s = true →
      Answers (.pkeMadd e c) s (fun t => Tbl.get 0 (t.engine e).slots c.dst = (if (s.engine e).modulus c.mctx % 2 = 1 then ((s.engine e).word c.a c.len + (s.engine e).word c.b c.len) % (s.engine e).modulus c.mctx else (freshValue s).1.toNat))) ∧
    (∀ (e : Nat) (c : PkeCmd) (s : State), takes e 0x06 c s = true →
      Answers (.pkeMsub e c) s (fun t => ((s.engine e).modulus c.mctx % 2 = 1 →
      ((Tbl.get 0 (t.engine e).slots c.dst : Nat) : Int) = (((s.engine e).word c.a c.len : Int) - ((s.engine e).word c.b c.len : Int)) % (s.engine e).modulus c.mctx) ∧
      ((s.engine e).modulus c.mctx % 2 = 0 → Tbl.get 0 (t.engine e).slots c.dst = (freshValue s).1.toNat))) ∧
    (∀ (e : Nat) (c : PkeCmd) (s : State), takes e 0x04 c s = true →
      Answers (.pkeMmul e c) s (fun t => Tbl.get 0 (t.engine e).slots c.dst = (if (s.engine e).modulus c.mctx % 2 = 1 then ((s.engine e).word c.a c.len * (s.engine e).word c.b c.len * rhoInv ((s.engine e).modulus c.mctx) c.len) % (s.engine e).modulus c.mctx else (freshValue s).1.toNat))) ∧
    (∀ (e : Nat) (c : PkeCmd) (s : State), takes e 0x07 c s = true →
      Answers (.pkeMac e c) s (fun t => Tbl.get 0 (t.engine e).slots c.dst = ((s.engine e).word c.dst (2 * c.len) + (s.engine e).word c.a c.len * (s.engine e).word c.b c.len) % 2 ^ (128 * c.len))) ∧
    (∀ (e : Nat) (c : PkeCmd) (s : State), takes e 0x0B c s = true →
      Answers (.pkeSetc e c) s (fun t => Tbl.get 0 (t.engine e).slots c.dst = (if c.bit = 0 then 0 else if c.bit = 1 then 1 else if 4 ≤ c.bit ∨ (s.engine e).modulus c.mctx % 2 = 0 then (freshValue s).1.toNat else if c.bit = 2 then 2 ^ (64 * c.len) % (s.engine e).modulus c.mctx else (2 ^ (64 * c.len) * 2 ^ (64 * c.len)) % (s.engine e).modulus c.mctx))) ∧
    (∀ (e : Nat) (c : PkeCmd) (s : State), takes e 0x01 c s = true →
      Answers (.pkeSetmod e c) s (fun t => Tbl.find? c.mctx (t.engine e).mctx = some ((s.engine e).word c.a c.len, c.len) ∧
      (t.engine e).slots = (s.engine e).slots)) ∧
    (∀ (e : Nat) (c : PkeCmd) (op : PkeOp) (s : State), takes e 0x02 c s = true →
      (s.engine e).op = some op →
      Answers (.pkeLoadkey e c) s (fun t => Tbl.get 0 (t.engine e).slots c.dst = (keyItem op.material c.bit).getD (freshValue s).1.toNat ∧
      (rsaLen op.material = none → c.bit = 0 → Tbl.get 0 (t.engine e).slots c.dst = beNat op.material))) ∧
    (∀ (e : Nat) (c : PkeCmd) (s : State), takes e 0x03 c s = true →
      Answers (.pkeStore e c) s (fun t => Tbl.find? c.bit (t.engine e).items = some ((s.engine e).word c.a c.len) ∧
      (t.engine e).slots = (s.engine e).slots)) ∧
    (∀ (e : Nat) (c : PkeCmd) (s : State), takes e 0x08 c s = true →
      Answers (.pkeCswap e c) s (fun t => Tbl.get 0 (t.engine e).slots c.a = (if (Tbl.get 0 (s.engine e).slots c.dst).testBit c.bit then (s.engine e).word c.b c.len else (s.engine e).word c.a c.len) ∧
      Tbl.get 0 (t.engine e).slots c.b = (if (Tbl.get 0 (s.engine e).slots c.dst).testBit c.bit then (s.engine e).word c.a c.len else (s.engine e).word c.b c.len))) ∧
    (∀ (e : Nat) (c : PkeCmd) (s : State), takes e 0x09 c s = true →
      Answers (.pkeTsel e c) s (fun t => Tbl.get 0 (t.engine e).slots c.dst = (s.engine e).word (c.a + fieldOf (Tbl.get 0 (s.engine e).slots c.b) (c.bit + 3) c.bit) c.len)) ∧
    (∀ (e : Nat) (c : PkeCmd) (s : State), takes e 0x0A c s = true →
      Answers (.pkeCopy e c) s (fun t => Tbl.get 0 (t.engine e).slots c.dst = (s.engine e).word c.a c.len))

/-- CHECK, PCHECK, EQ, ENDV, REPEAT and END. CHECK sets the range flag unless 2 ≤ a ≤ m − 1 (R345). PCHECK sets the curve flag
unless the point in DST and DST + 1 satisfies the curve equation (R345). EQ sets the result flag named by BIT where a = b,
and clears it where not (R345). ENDV without a command error ends the validation as V does (R346). REPEAT with a count
keeps the count and the number of commands that follow it (R345). END of the first run keeps its outcome for the comparison
and starts the second from the same slots under the second randomization, an RSA key's blinding pair squared again; END of
the second leaves the operation to finish (R353, R364). A command that is in error (an unknown opcode cannot be sent) ends
the operation as a logic fault, and an engine that runs no operation takes no command (R347). What makes a command an
error: an opcode of 0 or above 17, a LEN of 0 or above the slot length, a slot the engine does not have, a modulus context
that no SETMOD has set, a reserved field, a MAC longer than its slot, a second REPEAT (R347). A computing command leaves
every other engine, the operation, its phase and its compare buffer, and all else in the module as they are. A command of a
range under REPEAT runs and is kept, up to the last of the range, after which the range's further repetitions run in order
(R345). -/
def Obligations.EngineChecksAndControl : Prop :=
    (∀ (e : Nat) (c : PkeCmd) (s : State), takes e 0x0C c s = true →
      Answers (.pkeCheck e c) s (fun t => (t.engine e).rangeFlag = ((s.engine e).rangeFlag || !decide (2 ≤ (s.engine e).word c.a c.len ∧
      (s.engine e).word c.a c.len + 1 ≤ (s.engine e).modulus c.mctx)))) ∧
    (∀ (e : Nat) (c : PkeCmd) (s : State), takes e 0x0D c s = true →
      Answers (.pkePcheck e c) s (fun t => (t.engine e).curveFlag = ((s.engine e).curveFlag || !onCurve c.bit ((s.engine e).modulus c.mctx) ((s.engine e).word c.dst c.len) ((s.engine e).word (c.dst + 1) c.len) ((s.engine e).word c.a c.len) ((s.engine e).word c.b c.len)))) ∧
    (∀ (e : Nat) (c : PkeCmd) (s : State), takes e 0x0E c s = true →
      Answers (.pkeEq e c) s (fun t => (t.engine e).flags = (if (s.engine e).word c.a c.len = (s.engine e).word c.b c.len then (s.engine e).flags ||| 2 ^ (c.bit % 64) else (s.engine e).flags - ((s.engine e).flags &&& 2 ^ (c.bit % 64))))) ∧
    (∀ (e : Nat) (c : PkeCmd) (s : State), takes e 0x0F c s = true →
      exec (.pkeEndv e c) s = .next (endValidation e s)) ∧
    (∀ (e : Nat) (c : PkeCmd) (s : State), takes e 0x10 c s = true →
      c.a ≠ 0 →
      exec (.pkeRepeat e c) s = .next (s.setEngine e { s.engine e with rep := some (c.a, c.bit, []) })) ∧
    (∀ (e : Nat) (c : PkeCmd) (op : PkeOp) (s : State), takes e 0x11 c s = true →
      (s.engine e).op = some op →
      ((s.engine e).phase = .main1 → Answers (.pkeEnd e c) s (fun t => t.engine e = { s.engine e with phase := .main2, first := some ((s.engine e).flags, (s.engine e).items), slots := (s.engine e).snap, flags := 0, items := [], mask := op.mask2 } ∧
      (∀ k, op.kind = 0x10 → s.key? op.handle = some k → t.key? op.handle = some { k with blind := blindSquare (rsaKey k.material).n k.blind }))) ∧
      ((s.engine e).phase = .main2 → exec (.pkeEnd e c) s = .next (s.setEngine e { s.engine e with phase := .finish })) ∧
      ((s.engine e).phase = .validation → exec (.pkeEnd e c) s = .next s)) ∧
    (∀ (e : Nat) (c : PkeCmd) (s : State), s.running = true →
      ∀ x ∈ ([(.pkeSetmod e c, 1), (.pkeLoadkey e c, 2), (.pkeStore e c, 3), (.pkeMmul e c, 4), (.pkeMadd e c, 5), (.pkeMsub e c, 6), (.pkeMac e c, 7), (.pkeCswap e c, 8), (.pkeTsel e c, 9), (.pkeCopy e c, 10), (.pkeSetc e c, 11), (.pkeCheck e c, 12), (.pkePcheck e c, 13), (.pkeEq e c, 14), (.pkeEndv e c, 15), (.pkeRepeat e c, 16), (.pkeEnd e c, 17)] : List (Instr × Nat)), ((s.engine e).running = false →
      exec x.1 s = .next s) ∧ ((s.engine e).running = true → cmdError (isLong e) (s.engine e).slotLen (Tbl.has (s.engine e).mctx) { c with op := x.2 } = true →
      exec x.1 s = .next (engineFault e 2 s))) ∧
    (∀ (long : Bool) (l : Nat) (b : Nat → Bool) (c : PkeCmd), cmdError long l b c = true ↔ c.op = 0 ∨ 17 < c.op ∨ c.len = 0 ∨ l < c.len ∨ (∃ i ∈ usedSlots c, classSlots long l ≤ i) ∨ ((c.op ∈ [0x04, 0x05, 0x06, 0x0C, 0x0D] ∨ (c.op = 0x0B ∧
      2 ≤ c.bit)) ∧ b c.mctx = false) ∨ c.res ≠ 0 ∨ (c.op = 0x07 ∧ l < 2 * c.len)) ∧
    (∀ (e : Nat) (c : PkeCmd) (s : State), ∀ x ∈ ([(.pkeSetmod e c, 1), (.pkeLoadkey e c, 2), (.pkeStore e c, 3), (.pkeMmul e c, 4), (.pkeMadd e c, 5), (.pkeMsub e c, 6), (.pkeMac e c, 7), (.pkeCswap e c, 8), (.pkeTsel e c, 9), (.pkeCopy e c, 10), (.pkeSetc e c, 11), (.pkeCheck e c, 12), (.pkePcheck e c, 13), (.pkeEq e c, 14)] : List (Instr × Nat)), takes e x.2 c s = true →
      Answers x.1 s (fun t => (∀ j, j ≠ e → t.engine j = s.engine j) ∧ { t with pke := s.pke, free := s.free } = s ∧
      (t.engine e).op = (s.engine e).op ∧ (t.engine e).phase = (s.engine e).phase ∧
      (t.engine e).first = (s.engine e).first)) ∧
    (∀ (e left times : Nat) (seen : List PkeCmd) (c : PkeCmd) (s : State), s.running = true ∧ (s.engine e).running = true ∧ (s.engine e).rep = some (left + 1, times + 1, seen) →
      ∀ x ∈ ([(.pkeSetmod e c, 1), (.pkeLoadkey e c, 2), (.pkeStore e c, 3), (.pkeMmul e c, 4), (.pkeMadd e c, 5), (.pkeMsub e c, 6), (.pkeMac e c, 7), (.pkeCswap e c, 8), (.pkeTsel e c, 9), (.pkeCopy e c, 10), (.pkeSetc e c, 11), (.pkeCheck e c, 12), (.pkePcheck e c, 13), (.pkeEq e c, 14)] : List (Instr × Nat)), cmdError (isLong e) (s.engine e).slotLen (Tbl.has (s.engine e).mctx) { c with op := x.2 } = false →
      Answers x.1 s (fun t => t.engine e = (if left = 0 then runReps (((s.engine e).op.map (·.material)).getD []) (freshValue s).1.toNat ({ c with op := x.2 } :: seen).reverse times 1 { runCmd (((s.engine e).op.map (·.material)).getD []) (freshValue s).1.toNat { c with op := x.2 } (s.engine e) with rep := none } else { runCmd (((s.engine e).op.map (·.material)).getD []) (freshValue s).1.toNat { c with op := x.2 } (s.engine e) with rep := some (left, times + 1, { c with op := x.2 } :: seen) })))

/-- MMUL leaves the Montgomery product: below m, and a × b mod m when multiplied by ρ again. For an odd modulus and LEN below
256, the value r that MMUL leaves in DST is below m and r × 2^(64 × LEN) = a × b mod m. -/
def Obligations.MontgomeryProduct : Prop :=
    ∀ (e : Nat) (c : PkeCmd) (s : State), takes e 0x04 c s = true →
      (s.engine e).modulus c.mctx % 2 = 1 ∧ c.len < 256 →
      Answers (.pkeMmul e c) s (fun t => Tbl.get 0 (t.engine e).slots c.dst < (s.engine e).modulus c.mctx ∧
      (Tbl.get 0 (t.engine e).slots c.dst * 2 ^ (64 * c.len)) % (s.engine e).modulus c.mctx = ((s.engine e).word c.a c.len * (s.engine e).word c.b c.len) % (s.engine e).modulus c.mctx)

/-- ECDSA, EdDSA, key agreement and point validation: what is handed to an engine and with which outcome. ECDSA_SIGN under a
loaded signing key of kind 0x10 or 0x11, with room for the signature and random numbers READY, hands an idle engine the
signature r and s of the digest under the key's scalar; a scalar out of range makes the validation refuse it (R350, R358,
R476). ECDSA_VERIFY over a known short Weierstrass curve with its four numbers present hands an idle engine the point, r, s
and the digest; r or s out of range, a point off the curve or the identity is refused at V; otherwise DETAIL is 1 where the
signature verifies, else 0 (R358, R359, R476). EDDSA_SIGN under a loaded Ed25519 key hands an idle engine the signature of
the message, which depends on key and message alone (R351). EDDSA_VERIFY with at least 96 input bytes whose A and R decode
hands an idle engine its inputs: S out of range, or a point with a non-canonical encoding or of small order, is refused at
V; otherwise DETAIL is 1 where the signature verifies, else 0 (R351, R359). A point of EDDSA_VERIFY that does not decode is
refused NOT_ON_CURVE at V, S being in range; A decides before R (R359, R360). KEY_AGREE under a loaded P-256 or P-384 key
with a peer's point hands an idle engine the shared x-coordinate; a point off the curve is refused at V (R350, R352, R359).
KEY_AGREE under a loaded X25519 key with 32 bytes in and room for 32 out hands an idle engine the shared u-coordinate; u
out of range or of small order, or a scalar out of range, is refused INPUT_REJECTED, and u on the twist NOT_ON_CURVE (R352,
R358, R359). POINT_VALIDATE of a point of a known curve given by its coordinates hands it to an idle engine, which
completes OK unless it is off the curve (NOT_ON_CURVE) or the identity (INPUT_REJECTED) (R349, R359). POINT_VALIDATE of an
encoded Ed25519 point refuses NOT_ON_CURVE what does not decode, and INPUT_REJECTED a non-canonical encoding and a point of
small order (R359). -/
def Obligations.EllipticCurveOperations : Prop :=
    (∀ (q : Call) (handle e : Nat) (message : Bool) (input : Bytes) (k : LoadedKey) (c : Curve) (s : State), ready 0x0301 q 0 s = true ∧ s.level = 0 ∧ s.rnu.st = .ready →
      findKey q.f handle [0x10, 0x11] useSign s = .found k →
      c = (if k.blob.attr.kind = 0x11 then p384 else p256) ∧ 2 * c.bytes ≤ q.hdr.outLen →
      s.idleEngine false e →
      Answers (.ecdsaSign q handle message input) s (fun t => ∃ m1 m2, Handed e { call := q, kind := 0x01, slotLen := c.words, handle, material := k.material, mask1 := m1, mask2 := m2, sources := [(0, c.digestInt (digestOf c message input))], refuse := if scalarOk k.blob.attr.kind k.material = true then none else some 0x0101, comp := { code := 0, resultLen := 2 * c.bytes, output := beBytes c.bytes (signDrawn c (beNat k.material) (c.digestInt (digestOf c message input)) 64 s).1.1 ++ beBytes c.bytes (signDrawn c (beNat k.material) (c.digestInt (digestOf c message input)) 64 s).1.2 } } s t)) ∧
    (∀ (q : Call) (curve e x y r g : Nat) (message : Bool) (input : Bytes) (c : Curve) (s : State), ready 0x0302 q 0 s = true →
      curveOf s q.f curve = some c ∧ c.form = 1 ∧ 4 * c.bytes ≤ q.hdr.inLen →
      inputInts c.bytes 4 input = [x, y, r, g] →
      s.idleEngine false e →
      Answers (.ecdsaVerify q curve message input) s (fun t => ∃ no, no = firstRefusal [(!inRange2 c.n r, 0x0101), (!inRange2 c.n g, 0x0101), (c.off x y, 0x0102), (c.small x y, 0x0101)] ∧
      Handed e { call := q, kind := 0x02, slotLen := c.words, refuse := no, sources := [(0, x), (1, y), (2, r), (3, g), (4, c.digestInt (digestOf c message (input.drop (4 * c.bytes))))], comp := { code := 0, detail := if (no.isNone && c.verifies x y (c.digestInt (digestOf c message (input.drop (4 * c.bytes)))) r g) = true then 1 else 0 } } s t)) ∧
    (∀ (q : Call) (handle e : Nat) (input : Bytes) (k : LoadedKey) (s : State), ready 0x0303 q 64 s = true ∧ s.level = 0 ∧ s.rnu.st = .ready →
      findKey q.f handle [0x12] useSign s = .found k →
      s.idleEngine false e →
      Answers (.eddsaSign q handle input) s (fun t => ∃ m1 m2, Handed e { call := q, kind := 0x05, handle, material := k.material, mask1 := m1, mask2 := m2, refuse := if scalarOk 0x12 k.material = true then none else some 0x0101, comp := { code := 0, resultLen := 64, output := edSign k.material input } } s t)) ∧
    (∀ (q : Call) (e : Nat) (input : Bytes) (a r : Nat × Nat) (s : State), ready 0x0304 q 0 s = true ∧ 96 ≤ q.hdr.inLen →
      edDecode (input.take 32) = some a ∧ edDecode ((input.drop 32).take 32) = some r →
      s.idleEngine false e →
      Answers (.eddsaVerify q input) s (fun t => ∃ no, no = firstRefusal [(!inRange2 ed25519.n (leNat ((input.drop 64).take 32)), 0x0101), (edNonCanonical (input.take 32) a || ed25519.small a.1 a.2, 0x0101), (edNonCanonical ((input.drop 32).take 32) r || ed25519.small r.1 r.2, 0x0101)] ∧
      Handed e { call := q, kind := 0x06, refuse := no, sources := [(0, leNat (input.take 32)), (1, leNat ((input.drop 32).take 32)), (2, leNat ((input.drop 64).take 32))], comp := { code := 0, detail := if (no.isNone && edVerifies a r (input.take 32) ((input.drop 32).take 32) (leNat ((input.drop 64).take 32)) (input.drop 96)) = true then 1 else 0 } } s t)) ∧
    (∀ (q : Call) (e : Nat) (input : Bytes) (s : State), ready 0x0304 q 0 s = true ∧ 96 ≤ q.hdr.inLen →
      inRange2 ed25519.n (leNat ((input.drop 64).take 32)) = true →
      edDecode (input.take 32) = none →
      s.idleEngine false e →
      Answers (.eddsaVerify q input) s (fun t => ∃ op, Handed e op s t ∧ op.refuse = some 0x0102)) ∧
    (∀ (q : Call) (handle e x y : Nat) (input : Bytes) (k : LoadedKey) (c : Curve) (s : State), ready 0x0305 q 0 s = true ∧ s.level = 0 ∧ s.rnu.st = .ready →
      findKey q.f handle [0x13, 0x14, 0x15] useAgree s = .found k ∧ k.blob.attr.kind ≠ 0x15 ∧
      c = (if k.blob.attr.kind = 0x14 then p384 else p256) →
      c.bytes ≤ q.hdr.outLen ∧ 2 * c.bytes ≤ q.hdr.inLen →
      inputInts c.bytes 2 input = [x, y] →
      s.idleEngine false e →
      Answers (.keyAgree q handle input) s (fun t => ∃ m1 m2 no, no = firstRefusal [(!scalarOk k.blob.attr.kind k.material, 0x0101), (c.off x y, 0x0102), (c.small x y, 0x0101)] ∧
      Handed e { call := q, kind := 0x04, slotLen := c.words, handle, material := k.material, mask1 := m1, mask2 := m2, refuse := no, sources := [(0, x), (1, y)], comp := { code := 0, resultLen := c.bytes, output := if no.isNone = true then beBytes c.bytes (c.shared (beNat k.material) x y) else [] } } s t)) ∧
    (∀ (q : Call) (handle e : Nat) (input : Bytes) (k : LoadedKey) (s : State), ready 0x0305 q 0 s = true ∧ s.level = 0 ∧ s.rnu.st = .ready →
      findKey q.f handle [0x13, 0x14, 0x15] useAgree s = .found k ∧ k.blob.attr.kind = 0x15 →
      32 ≤ q.hdr.inLen ∧ 32 ≤ q.hdr.outLen →
      s.idleEngine false e →
      Answers (.keyAgree q handle input) s (fun t => ∃ m1 m2, Handed e { call := q, kind := 0x07, handle, material := k.material, mask1 := m1, mask2 := m2, sources := [(0, beNat (input.take 32))], refuse := firstRefusal [(!inRange2 ed25519.p (beNat (input.take 32)), 0x0101), (!scalarOk 0x15 k.material, 0x0101), (montSmall (beNat (input.take 32)), 0x0101), (onTwist (beNat (input.take 32)), 0x0102)], comp := { code := 0, resultLen := 32, output := beBytes 32 (x25519 (clamp (beNat k.material)) (beNat (input.take 32))) } } s t)) ∧
    (∀ (q : Call) (curve e x y : Nat) (input : Bytes) (c : Curve) (s : State), ready 0x030A q 0 s = true →
      curve ≠ 4 ∧ curveOf s q.f curve = some c ∧ 2 * c.bytes ≤ q.hdr.inLen →
      inputInts c.bytes 2 input = [x, y] →
      s.idleEngine false e →
      Answers (.pointValidate q curve input) s (fun t => Handed e { call := q, kind := 0x08, slotLen := c.words, sources := [(0, x), (1, y)], refuse := if c.off x y = true then some 0x0102 else if c.small x y = true then some 0x0101 else none, comp := { code := 0 } } s t)) ∧
    (∀ (q : Call) (e : Nat) (input : Bytes) (s : State), ready 0x030A q 0 s = true ∧ 32 ≤ q.hdr.inLen →
      s.idleEngine false e →
      Answers (.pointValidate q 4 input) s (fun t => ∃ no, Handed e { call := q, kind := 0x08, slotLen := 4, sources := [(0, leNat (input.take 32))], refuse := no, comp := { code := 0 } } s t ∧
      (edDecode (input.take 32) = none → no = some 0x0102) ∧ (∀ a, edDecode (input.take 32) = some a →
      no = (if (edNonCanonical (input.take 32) a || ed25519.small a.1 a.2) = true then some 0x0101 else none))))

/-- RSA operations, loaded curves and host sequences: what is handed to an engine and with which outcome. RSA_SIGN under a
loaded RSA key with a known padding and a digest of its hash's length, with room for the signature, hands an idle long
engine the private operation on the encoded digest; the salt of PSS is drawn (R353). RSA_DECRYPT under a loaded RSA key
with OAEP, a known hash, room for the longest message and a whole ciphertext hands an idle long engine the private
operation: OK with the message, or INPUT_REJECTED where decoding fails (R353). RSA_VERIFY with a modulus of a supported
size, a known padding and its input whole hands an idle long engine the public operation; DETAIL is 1 where the recovered
encoding matches the digest, else 0; a bad operand, exponent or modulus is refused at V (R354, R358). RSA_ENCRYPT with a
modulus of a supported size, OAEP, a known hash and a message that fits hands an idle long engine the public operation on
the encoding, whose seed is drawn (R354, R477). CURVE_LOAD of a whole parameter set hands an idle engine the curve with the
number n of the first check of Table 08-16 that it fails, 0 for none: 1 to 4 are refused at V with n in DETAIL, 5 to 10
complete INPUT_REJECTED with n, and a set that passes is stored when the operation finishes (R371, R372). A parameter set
shorter than its WORDS ask is INPUT_REJECTED before an engine is used (a choice of the model, log entry 88). CURVE_UNLOAD
of a loaded curve removes it; of any other it is INPUT_REJECTED (R370). SEQUENCE with a malformed block halts the function:
cause 4 for a reserved bit, 6 for a size or count of 0 (R374). SEQUENCE with a well-formed block that breaks a limit of
R374, or runs longer than 2 ms, is INPUT_REJECTED (R374, R375). SEQUENCE with a well-formed block within the limits hands
an idle engine of its class the sources in their slots; the validation refuses a bad modulus or a range flag, then a curve
flag; the results are those of the main section, and DETAIL counts the engine cycles, of which the spec leaves the
preparation open (R373 to R375). -/
def Obligations.RsaAndCurveOperations : Prop :=
    (∀ (q : Call) (handle pad hash salt e : Nat) (input : Bytes) (k : LoadedKey) (s : State), ready 0x0306 q 0 s = true ∧ s.level = 0 ∧ s.rnu.st = .ready →
      findKey q.f handle [0x20, 0x21, 0x22] useSign s = .found k →
      modBytes k.blob.attr.kind ≤ q.hdr.outLen ∧ signPadOk pad hash salt = true ∧ q.hdr.inLen = hashLen hash →
      s.idleEngine true e →
      Answers (.rsaSign q handle pad hash salt input) s (fun t => ∃ c, c = beNat ((if pad = 2 then pssEncode hash (bitsOf (rsaKey k.material).n) input (draw salt s).1 else pkcs1Encode hash (modBytes k.blob.attr.kind) input).getD []) ∧
      Handed e { call := q, kind := 0x10, long := true, slotLen := modBytes k.blob.attr.kind / 8, handle, material := k.material, sources := [(0, c)], refuse := if inRange2 (rsaKey k.material).n c = true then none else some 0x0101, comp := { code := 0, resultLen := modBytes k.blob.attr.kind, output := beBytes (modBytes k.blob.attr.kind) (rsaPrivate (rsaKey k.material) c) } } s t)) ∧
    (∀ (q : Call) (handle hash e : Nat) (input : Bytes) (k : LoadedKey) (s : State), ready 0x0307 q 0 s = true ∧ s.level = 0 ∧ s.rnu.st = .ready →
      findKey q.f handle [0x20, 0x21, 0x22] useDecrypt s = .found k →
      modBytes k.blob.attr.kind - 2 * hashLen hash - 2 ≤ q.hdr.outLen →
      hashOk hash = true ∧ modBytes k.blob.attr.kind ≤ q.hdr.inLen →
      s.idleEngine true e →
      Answers (.rsaDecrypt q handle 3 hash 0 input) s (fun t => ∃ c comp, c = beNat (input.take (modBytes k.blob.attr.kind)) ∧
      Handed e { call := q, kind := 0x10, long := true, slotLen := modBytes k.blob.attr.kind / 8, handle, material := k.material, sources := [(0, c)], refuse := if inRange2 (rsaKey k.material).n c = true then none else some 0x0101, comp } s t ∧
      (∀ m, oaepDecode hash (beBytes (modBytes k.blob.attr.kind) (rsaPrivate (rsaKey k.material) c)) = some m →
      comp = { code := 0, resultLen := m.length, output := m }) ∧ (oaepDecode hash (beBytes (modBytes k.blob.attr.kind) (rsaPrivate (rsaKey k.material) c)) = none →
      comp = { code := 0x0101 }))) ∧
    (∀ (q : Call) (len pad hash salt e : Nat) (input : Bytes) (n x m : Nat) (h : Bytes) (s : State), ready 0x0308 q 0 s = true →
      modBytesOk len = true ∧ signPadOk pad hash salt = true ∧ 2 * len + 8 + hashLen hash ≤ q.hdr.inLen →
      n = beNat (input.take len) ∧ x = beNat ((input.drop len).take 8) ∧ m = beNat ((input.drop (len + 8)).take len) ∧
      h = (input.drop (2 * len + 8)).take (hashLen hash) →
      s.idleEngine true e →
      Answers (.rsaVerify q len pad hash salt input) s (fun t => ∃ no, no = firstRefusal [(!inRange2 n m, 0x0101), (!rsaExponentOk n x, 0x0101), (!rsaModulusOk len n, 0x0101)] ∧
      Handed e { call := q, kind := 0x11, long := true, slotLen := len / 8, sources := [(0, n), (1, x), (2, m)], refuse := no, comp := { code := 0, detail := if (no.isNone && (if pad = 2 then pssVerifies hash (bitsOf n) salt (rsaPublic n x m) h else pkcs1Encode hash len h == some (beBytes len (rsaPublic n x m)))) = true then 1 else 0 } } s t)) ∧
    (∀ (q : Call) (len hash e : Nat) (input : Bytes) (n x m : Nat) (s : State), ready 0x0309 q len s = true ∧ s.rnu.st = .ready →
      modBytesOk len = true ∧ hashOk hash = true →
      len + 8 ≤ q.hdr.inLen ∧ q.hdr.inLen - (len + 8) + 2 * hashLen hash + 2 ≤ len →
      n = beNat (input.take len) ∧ x = beNat ((input.drop len).take 8) ∧ m = beNat (oaepEncode hash len (input.drop (len + 8)) (draw (hashLen hash) s).1) →
      s.idleEngine true e →
      Answers (.rsaEncrypt q len 3 hash 0 input) s (fun t => ∃ no, no = firstRefusal [(!inRange2 n m, 0x0101), (!rsaExponentOk n x, 0x0101), (!rsaModulusOk len n, 0x0101)] ∧
      Handed e { call := q, kind := 0x11, long := true, slotLen := len / 8, sources := [(0, n), (1, x), (2, m)], refuse := no, comp := { code := 0, resultLen := len, output := if no.isNone = true then beBytes len (rsaPublic n x m) else [] } } s t)) ∧
    (∀ (q : Call) (e w n : Nat) (input : Bytes) (s : State), ready 0x030B q 0 s = true ∧ s.rnu.st = .ready →
      w = leAt input 1 1 ∧ 3 ≤ w ∧ w ≤ 9 ∧ 8 + 48 * w ≤ q.hdr.inLen →
      n = curveCheck input (draw (128 * 8 * w) s).1 →
      s.idleEngine false e →
      Answers (.curveLoad q input) s (fun t => ∃ m1 m2, Handed e { call := q, kind := 0x20, slotLen := w, mask1 := m1, mask2 := m2, sources := [(0, (curveSet input).p), (1, (curveSet input).a), (2, (curveSet input).b), (3, (curveSet input).gx), (4, (curveSet input).gy), (5, (curveSet input).n)], refuse := if 1 ≤ n ∧ n ≤ 4 then some 0x0101 else none, rejectDetail := n, comp := if n = 0 then { code := 0 } else { code := 0x0101, detail := n }, curve := some (curveSet input) } s t)) ∧
    (∀ (q : Call) (input : Bytes) (s : State), ready 0x030B q 0 s = true →
      q.hdr.inLen < (if 3 ≤ leAt input 1 1 ∧ leAt input 1 1 ≤ 9 then 8 + 48 * leAt input 1 1 else 8) →
      exec (.curveLoad q input) s = .next (complete q { code := 0x0101 } s)) ∧
    (∀ (q : Call) (curve : Nat) (s : State), ready 0x030C q 0 s = true →
      exec (.curveUnload q curve) s = .next (if 0x80 ≤ curve ∧ curve ≤ 0x87 ∧
      Tbl.has s.pke.curves (q.f * 256 + curve) = true then complete q { code := 0 } { s with pke := { s.pke with curves := Tbl.del (q.f * 256 + curve) s.pke.curves } } else complete q { code := 0x0101 } s)) ∧
    (∀ (q : Call) (block input : Bytes) (s : State), s.running = true →
      (seqReserved block = true → exec (.sequence q block input) s = .next (halt q.f 4 q.ring 0x030D q.count s)) ∧
      (seqReserved block = false → (leAt block 1 1 = 0 ∨ leAt block 2 1 = 0 ∨ leAt block 3 1 = 0 ∨ leAt block 4 2 = 0) →
      exec (.sequence q block input) s = .next (halt q.f 6 q.ring 0x030D q.count s))) ∧
    (∀ (q : Call) (block input : Bytes) (b : SeqBlock) (s : State), seqReserved block = false ∧ seqMalformed block = false ∧ b = seqBlock block input →
      ready 0x030D q (b.results.foldl (fun n x => n + 8 * x.2) 0) s = true →
      seqBad b q.hdr.inLen = true ∨ 2500000 < seqCycles b →
      exec (.sequence q block input) s = .next (complete q { code := 0x0101 } s)) ∧
    (∀ (q : Call) (block input : Bytes) (b : SeqBlock) (e : Nat) (s : State), seqReserved block = false ∧ seqMalformed block = false ∧ b = seqBlock block input →
      ready 0x030D q (b.results.foldl (fun n x => n + 8 * x.2) 0) s = true →
      seqBad b q.hdr.inLen = false ∧ seqCycles b ≤ 2500000 →
      s.idleEngine (b.cls == 1) e →
      Answers (.sequence q block input) s (fun t => ∃ free prep out, out = seqResults b (seqRun b free).2 ∧
      Handed e { call := q, kind := 0x30, long := b.cls == 1, slotLen := b.slotLen, sources := b.sources.map fun x => (x.slot, x.value), refuse := if (modulusBad b || (seqRun b free).1.rangeFlag) = true then some 0x0101 else if (seqRun b free).1.curveFlag = true then some 0x0102 else none, comp := { code := 0, detail := seqCycles b + prep, resultLen := out.length, output := out } } s t))

/-- Where a public-key operation reaches no engine, and how engines are given their work. An operation under a key that is not
loaded, or that its usage, kind, lifetime or function denies, completes with that status; while its key slot is being
repaired it waits (R300, R301, R303). A missing result space gets the size needed, and a draw while the random number unit
is not READY is held with WAIT and otherwise refused: ENTROPY_NOT_READY while it starts, ENTROPY_FAULT while it restarts or
has failed (R394, R465). An operation of an unknown curve, of a curve of another form, or with fewer input bytes than it
reads completes INPUT_REJECTED and reaches no engine (R349, R476). With no idle engine of its class an operation is queued
behind a running one, or waits while every one has one queued; with none in service it completes INTEGRITY_LOST, which is
reported (R340, R366). Restrict stops a key operation that reaches the engines after the level has risen (R357). An RSA
operation with a padding, hash, salt, modulus size or input length out of range completes INPUT_REJECTED and reaches no
engine (R353, R354, R477). -/
def Obligations.PublicKeyRefusals : Prop :=
    (∀ (q : Call) (handle pad hash salt : Nat) (message : Bool) (input : Bytes) (s : State), ∀ x ∈ ([(.ecdsaSign q handle message input, 0x0301, [0x10, 0x11], useSign), (.keyAgree q handle input, 0x0305, [0x13, 0x14, 0x15], useAgree), (.rsaSign q handle pad hash salt input, 0x0306, [0x20, 0x21, 0x22], useSign), (.rsaDecrypt q handle pad hash salt input, 0x0307, [0x20, 0x21, 0x22], useDecrypt)] : List (Instr × Nat × List Nat × Nat)), ready x.2.1 q 0 s = true →
      (∀ code, findKey q.f handle x.2.2.1 x.2.2.2 s = .fail code → exec x.1 s = .next (complete q { code } s)) ∧
      (findKey q.f handle x.2.2.1 x.2.2.2 s = .wait → exec x.1 s = .next s)) ∧
    (∀ (q : Call) (handle : Nat) (message : Bool) (input : Bytes) (k : LoadedKey) (n : Nat) (s : State), ready 0x0301 q 0 s = true →
      findKey q.f handle [0x10, 0x11] useSign s = .found k →
      n = (if k.blob.attr.kind = 0x11 then 96 else 64) →
      (q.hdr.outLen < n → exec (.ecdsaSign q handle message input) s = .next (complete q { code := 0x0101, resultLen := n } s)) ∧
      (n ≤ q.hdr.outLen → s.rnu.st = .starting → q.hdr.wait = true → exec (.ecdsaSign q handle message input) s = .next (holdOp q s)) ∧
      (n ≤ q.hdr.outLen → s.rnu.st = .starting → q.hdr.wait = false → exec (.ecdsaSign q handle message input) s = .next (complete q { code := stEntropyNotReady } s)) ∧
      (n ≤ q.hdr.outLen → s.rnu.st = .restarting ∨ s.rnu.st = .fault → exec (.ecdsaSign q handle message input) s = .next (complete q { code := stEntropyFault } s))) ∧
    (∀ (q : Call) (curve : Nat) (message : Bool) (input : Bytes) (s : State), (ready 0x0302 q 0 s = true → (∀ c, curveOf s q.f curve = some c → c.form ≠ 1 ∨ q.hdr.inLen < 4 * c.bytes) →
      exec (.ecdsaVerify q curve message input) s = .next (complete q { code := 0x0101 } s)) ∧
      (ready 0x0304 q 0 s = true → q.hdr.inLen < 96 → exec (.eddsaVerify q input) s = .next (complete q { code := 0x0101 } s)) ∧
      (ready 0x030A q 0 s = true → (∀ c, curveOf s q.f curve = some c → q.hdr.inLen < (if curve = 4 then 32 else 2 * c.bytes)) →
      exec (.pointValidate q curve input) s = .next (complete q { code := 0x0101 } s))) ∧
    (∀ (op : PkeOp) (e : Nat) (s : State), (1 ≤ s.level ∧ op.handle ≠ 0 ∧ restrictedKind op.kind = true → dispatchPke op s = .done (bare stRestricted) s) ∧
      (s.level = 0 → findEngine s op.long (fun _ => true) = none → dispatchPke op s = .done (bare stIntegrityLost) (raiseEvent .pke 0 4 s)) ∧
      (s.level = 0 → findEngine s op.long (fun _ => true) ≠ none → findEngine s op.long (fun e => e.op.isNone && e.next.isNone) = none →
      (findEngine s op.long (fun e => e.next.isNone) = none → dispatchPke op s = .busy) ∧
      (findEngine s op.long (fun e => e.next.isNone) = some e → ∃ t, dispatchPke op s = .running t ∧
      (t.engine e).op = (s.engine e).op ∧ (t.engine e).next = some { op with ctx := op.ctx.orElse fun _ => s.ctxIdFor op.call }))) ∧
    (∀ (q : Call) (handle len pad hash salt : Nat) (input : Bytes) (k : LoadedKey) (s : State), (ready 0x0306 q 0 s = true → findKey q.f handle [0x20, 0x21, 0x22] useSign s = .found k →
      modBytes k.blob.attr.kind ≤ q.hdr.outLen → signPadOk pad hash salt = false ∨ q.hdr.inLen ≠ hashLen hash →
      exec (.rsaSign q handle pad hash salt input) s = .next (complete q { code := 0x0101 } s)) ∧
      (ready 0x0307 q 0 s = true → findKey q.f handle [0x20, 0x21, 0x22] useDecrypt s = .found k →
      modBytes k.blob.attr.kind - 2 * hashLen hash - 2 ≤ q.hdr.outLen → pad ≠ 3 ∨ hashOk hash = false ∨ salt ≠ 0 ∨ q.hdr.inLen < modBytes k.blob.attr.kind →
      exec (.rsaDecrypt q handle pad hash salt input) s = .next (complete q { code := 0x0101 } s)) ∧
      (ready 0x0308 q 0 s = true → modBytesOk len = false ∨ signPadOk pad hash salt = false ∨ q.hdr.inLen < 2 * len + 8 + hashLen hash →
      exec (.rsaVerify q len pad hash salt input) s = .next (complete q { code := 0x0101 } s)) ∧
      (ready 0x0309 q len s = true → modBytesOk len = false ∨ pad ≠ 3 ∨ hashOk hash = false ∨ salt ≠ 0 ∨ q.hdr.inLen < len + 8 ∨ len < q.hdr.inLen - (len + 8) + 2 * hashLen hash + 2 →
      exec (.rsaEncrypt q len pad hash salt input) s = .next (complete q { code := 0x0101 } s)))

/-- HASH, MAC_GENERATE, MAC_VERIFY, AEAD_ENCRYPT and AEAD_DECRYPT. HASH of a known algorithm writes its digest of 32, 48 or 64
bytes (R474). An unknown algorithm of HASH, a MAC body or an AEAD body out of range completes INPUT_REJECTED (R474, R475).
MAC_GENERATE under a loaded key of the algorithm's kinds with usage MAC, its tag length within the algorithm's limits,
writes the first bytes of HMAC-SHA256, of AES-CMAC or of GMAC (R474). MAC_VERIFY completes OK with DETAIL 1 where the tag
given is the tag computed, and 0 where it is not (R474). AEAD_ENCRYPT with its own IV writes ciphertext and tag of the
plaintext after the AAD (R474). With GEN_IV and random numbers READY it draws the 12 bytes of the IV and writes them first
(R474). AEAD_DECRYPT whose tag verifies writes the plaintext; where it does not, nothing is decrypted and it completes
TAG_MISMATCH (R475). -/
def Obligations.SymmetricOperations : Prop :=
    (∀ (q : Call) (alg : Nat) (input : Bytes) (s : State), alg = 1 ∨ alg = 2 ∨ alg = 3 →
      ready 0x0201 q (if alg = 1 then 32 else if alg = 2 then 48 else 64) s = true →
      exec (.hash q alg input) s = .next (complete q { code := 0, resultLen := if alg = 1 then 32 else if alg = 2 then 48 else 64, output := digest alg input } s)) ∧
    (∀ (q : Call) (handle alg tagLen iv aadLen : Nat) (genIv : Bool) (tag input : Bytes) (k : LoadedKey) (s : State), (ready 0x0201 q 0 s = true → ¬ (alg = 1 ∨ alg = 2 ∨ alg = 3) → exec (.hash q alg input) s = .next (complete q { code := 0x0101 } s)) ∧
      (ready 0x0202 q tagLen s = true → findKey q.f handle (macKinds alg) useMac s = .found k →
      macBodyOk alg tagLen iv = false → exec (.macGenerate q handle alg tagLen iv input) s = .next (complete q { code := 0x0101 } s)) ∧
      (ready 0x0203 q 0 s = true → findKey q.f handle (macKinds alg) useMac s = .found k →
      macBodyOk alg tagLen iv = false → exec (.macVerify q handle alg tagLen iv tag input) s = .next (complete q { code := 0x0101 } s)) ∧
      (ready 0x0204 q (if genIv then q.hdr.inLen - aadLen + tagLen + 12 else q.hdr.inLen - aadLen + tagLen) s = true →
      findKey q.f handle [0x01, 0x02] useEncrypt s = .found k → aeadBodyOk tagLen genIv iv aadLen q.hdr.inLen = false →
      exec (.aeadEncrypt q handle tagLen genIv iv aadLen input) s = .next (complete q { code := 0x0101 } s)) ∧
      (ready 0x0205 q (q.hdr.inLen - aadLen - tagLen) s = true → findKey q.f handle [0x01, 0x02] useDecrypt s = .found k →
      genIv = true ∨ aeadBodyOk tagLen false iv (aadLen + tagLen) q.hdr.inLen = false →
      exec (.aeadDecrypt q handle tagLen genIv iv aadLen input) s = .next (complete q { code := 0x0101 } s))) ∧
    (∀ (q : Call) (handle alg tagLen iv : Nat) (input : Bytes) (k : LoadedKey) (s : State), ready 0x0202 q tagLen s = true →
      findKey q.f handle (macKinds alg) useMac s = .found k →
      macBodyOk alg tagLen iv = true →
      exec (.macGenerate q handle alg tagLen iv input) s = .next (complete q { code := 0, resultLen := tagLen, output := if alg = 1 then (hmac 1 k.material input).take tagLen else if alg = 2 then (cmac k.material input).take tagLen else gcmTag k.material iv input [] tagLen } s)) ∧
    (∀ (q : Call) (handle alg tagLen iv : Nat) (tag input : Bytes) (k : LoadedKey) (s : State), ready 0x0203 q 0 s = true →
      findKey q.f handle (macKinds alg) useMac s = .found k →
      macBodyOk alg tagLen iv = true →
      exec (.macVerify q handle alg tagLen iv tag input) s = .next (complete q { code := 0, detail := if tag = (if alg = 1 then (hmac 1 k.material input).take tagLen else if alg = 2 then (cmac k.material input).take tagLen else gcmTag k.material iv input [] tagLen) then 1 else 0 } s)) ∧
    (∀ (q : Call) (handle tagLen iv aadLen : Nat) (input : Bytes) (k : LoadedKey) (s : State), ready 0x0204 q (q.hdr.inLen - aadLen + tagLen) s = true →
      findKey q.f handle [0x01, 0x02] useEncrypt s = .found k →
      aeadBodyOk tagLen false iv aadLen q.hdr.inLen = true →
      exec (.aeadEncrypt q handle tagLen false iv aadLen input) s = .next (complete q { code := 0, resultLen := q.hdr.inLen - aadLen + tagLen, output := gcmCrypt k.material iv (input.drop aadLen) ++ gcmTag k.material iv (input.take aadLen) (gcmCrypt k.material iv (input.drop aadLen)) tagLen } s)) ∧
    (∀ (q : Call) (handle tagLen iv aadLen : Nat) (input : Bytes) (k : LoadedKey) (s : State), ready 0x0204 q (q.hdr.inLen - aadLen + tagLen + 12) s = true →
      findKey q.f handle [0x01, 0x02] useEncrypt s = .found k →
      aeadBodyOk tagLen true iv aadLen q.hdr.inLen = true →
      s.rnu.st = .ready →
      Answers (.aeadEncrypt q handle tagLen true iv aadLen input) s (fun t => ∃ (nonce : Bytes) (x : State), (nonce, x) = draw 12 s ∧
      t = complete q { code := 0, resultLen := q.hdr.inLen - aadLen + tagLen + 12, output := nonce ++ (gcmCrypt k.material (beNat nonce) (input.drop aadLen) ++ gcmTag k.material (beNat nonce) (input.take aadLen) (gcmCrypt k.material (beNat nonce) (input.drop aadLen)) tagLen) } x)) ∧
    (∀ (q : Call) (handle tagLen iv aadLen n : Nat) (input : Bytes) (k : LoadedKey) (s : State), n = q.hdr.inLen - aadLen - tagLen ∧ ready 0x0205 q n s = true →
      findKey q.f handle [0x01, 0x02] useDecrypt s = .found k →
      aeadBodyOk tagLen false iv (aadLen + tagLen) q.hdr.inLen = true →
      exec (.aeadDecrypt q handle tagLen false iv aadLen input) s = .next (if (input.drop (aadLen + n)).take tagLen = gcmTag k.material iv (input.take aadLen) ((input.drop aadLen).take n) tagLen then complete q { code := 0, resultLen := n, output := gcmCrypt k.material iv ((input.drop aadLen).take n) } s else complete q { code := 0x0104 } s))

/-- TLS sessions open, shake hands, seal, unseal and close. TLS_OPEN with a role, versions, a certificate of at most 16,384
bytes and, where it signs, a usable key, below the session limit and with two key slots free, opens a session under a
number not in use, returned in DETAIL; at the limit it is REFUSED_FULL (R478). An operation that names a session waits
while one accepted earlier names it; a session that is not open, or of another function, is INPUT_REJECTED (R478).
TLS_HANDSHAKE of an open session in turn, its own key usable and random numbers READY: malformed records close it with
INPUT_REJECTED and DETAIL 2; others settle its state and version and keep the peer's certificate once received, the state
in DETAIL and what is to be sent as output; a session newly established starts its record counts (R479). TLS_SEAL of at
most 16,384 bytes of type 21 or 23 in an established session writes one record and counts it; of anything else it is
INPUT_REJECTED (R478). TLS_UNSEAL in an established session returns a record's content and type and counts it; a record
whose tag or sequence fails closes the session with TAG_MISMATCH; before the session is established it is INPUT_REJECTED
(R480). TLS_CLOSE of a session of the function removes it; of any other it is INPUT_REJECTED (R478). TLS_PEER_CERT of an
open session returns the peer's certificate list (R479). What the peer's handshake records come to is an operand; the
traffic keys are free values and the record layout is that of the RFCs (log entries 97, 8). -/
def Obligations.TlsSessions : Prop :=
    (∀ (q : Call) (handle role versions : Nat) (requirePeer : Bool) (cert : Bytes) (s : State), ready 0x0401 q 0 s = true →
      role < 2 ∧ 1 ≤ versions ∧ versions ≤ 3 ∧ q.hdr.inLen ≤ 16384 →
      ((role = 0 ∧ handle = 0) ∨ ∃ k, findKey q.f handle [0x10, 0x11, 0x12, 0x20, 0x21, 0x22] useSign s = .found k) →
      (s.tls.sessions.length < 8192 ∧ s.slotsFit q.f 2 = true → Answers (.tlsOpen q handle role versions requirePeer cert) s (fun t => ∃ n, n = sessionNumber s.tls.sessions ((freshValue s).1.toNat % 2 ^ 32) ∧
      t = complete q { code := 0, detail := n } { s with free := s.free + 1, tls := { s.tls with sessions := Tbl.put n { f := q.f, key := handle, server := role == 1, versions, requirePeer, ownCert := cert } s.tls.sessions } })) ∧
      (8192 ≤ s.tls.sessions.length ∨ s.slotsFit q.f 2 = false → exec (.tlsOpen q handle role versions requirePeer cert) s = .next (complete q { code := 0x0301 } s))) ∧
    (∀ (q : Call) (session typ : Nat) (x : TlsStep) (input : Bytes) (s : State), ∀ y ∈ ([(.tlsHandshake q session x, 0x0402, 32768), (.tlsSeal q session typ input, 0x0403, q.hdr.inLen + 29), (.tlsUnseal q session input, 0x0404, q.hdr.inLen), (.tlsPeerCert q session, 0x0406, 16384)] : List (Instr × Nat × Nat)), ready y.2.1 q y.2.2 s = true →
      (sessionTaken q session s = true → exec y.1 s = .next s) ∧ (sessionTaken q session s = false →
      openSession s q.f session = none → exec y.1 s = .next (complete q { code := 0x0101 } s))) ∧
    (∀ (q : Call) (session : Nat) (x : TlsStep) (v : TlsSession) (s : State), ready 0x0402 q 32768 s = true ∧ sessionTaken q session s = false →
      openSession s q.f session = some v →
      ((v.key = 0 ∧ v.server = false) ∨ ∃ k, findKey q.f v.key [0x10, 0x11, 0x12, 0x20, 0x21, 0x22] useSign s = .found k) →
      s.rnu.st = .ready ∧ x.st ≤ 2 ∧ x.sendLen ≤ 32768 →
      (x.malformed = true → exec (.tlsHandshake q session x) s = .next (complete q { code := 0x0101, detail := 2 } ((drawOwn s).2.setSession session { v with st := 2 }))) ∧
      (x.malformed = false → Answers (.tlsHandshake q session x) s (fun t => ∃ v' y out, t = complete q { code := 0, detail := x.st, resultLen := x.sendLen, output := out } (State.setSession session v' y) ∧
      y.tls = s.tls ∧ v'.st = x.st ∧ v'.tls13 = x.tls13 ∧ v'.peerCert = x.peerCert.getD v.peerCert ∧
      v'.f = v.f ∧ v'.key = v.key ∧ v'.server = v.server ∧ (if x.st = 1 ∧ v.st = 0 then v'.sealedCount = 0 ∧
      v'.openedCount = 0 else v'.sealedCount = v.sealedCount ∧ v'.openedCount = v.openedCount ∧
      v'.txKey = v.txKey ∧ v'.rxKey = v.rxKey)))) ∧
    (∀ (q : Call) (session typ : Nat) (input : Bytes) (v : TlsSession) (s : State), ready 0x0403 q (q.hdr.inLen + 29) s = true ∧ sessionTaken q session s = false →
      openSession s q.f session = some v →
      (v.st = 1 ∧ (typ = 21 ∨ typ = 23) ∧ q.hdr.inLen ≤ 16384 → exec (.tlsSeal q session typ input) s = .next (complete q { code := 0, resultLen := if v.tls13 then q.hdr.inLen + 22 else q.hdr.inLen + 29, output := sealRecord v typ input } (s.setSession session { v with sealedCount := v.sealedCount + 1 }))) ∧
      (v.st ≠ 1 ∨ (typ ≠ 21 ∧ typ ≠ 23) ∨ 16384 < q.hdr.inLen → exec (.tlsSeal q session typ input) s = .next (complete q { code := 0x0101 } s))) ∧
    (∀ (q : Call) (session : Nat) (input : Bytes) (v : TlsSession) (s : State), ready 0x0404 q q.hdr.inLen s = true ∧ sessionTaken q session s = false →
      openSession s q.f session = some v →
      (v.st ≠ 1 → exec (.tlsUnseal q session input) s = .next (complete q { code := 0x0101 } s)) ∧
      (v.st = 1 → openRecord v input = none → exec (.tlsUnseal q session input) s = .next (complete q { code := 0x0104 } (s.setSession session { v with st := 2 }))) ∧
      (∀ p, v.st = 1 → openRecord v input = some p → exec (.tlsUnseal q session input) s = .next (complete q { code := 0, detail := p.2, resultLen := p.1.length, output := p.1 } (s.setSession session { v with openedCount := v.openedCount + 1 })))) ∧
    (∀ (q : Call) (session : Nat) (s : State), ready 0x0405 q 0 s = true ∧ sessionTaken q session s = false →
      (∀ v, Tbl.find? session s.tls.sessions = some v → v.f = q.f → exec (.tlsClose q session) s = .next (complete q { code := 0 } { s with tls := { s.tls with sessions := Tbl.del session s.tls.sessions } })) ∧
      ((∀ v, Tbl.find? session s.tls.sessions = some v → v.f ≠ q.f) → exec (.tlsClose q session) s = .next (complete q { code := 0x0101 } s))) ∧
    (∀ (q : Call) (session : Nat) (v : TlsSession) (s : State), ready 0x0406 q 16384 s = true ∧ sessionTaken q session s = false →
      openSession s q.f session = some v →
      exec (.tlsPeerCert q session) s = .next (complete q { code := 0, resultLen := v.peerCert.length, output := v.peerCert } s))

/-- What AEAD_ENCRYPT, a blob or TLS_SEAL has sealed opens again to the same bytes. AEAD_DECRYPT under the same key, IV and AAD
of the ciphertext and tag that AEAD_ENCRYPT writes completes OK with the plaintext (R474, R475). A blob sealed under a
wrapping key opens under that key to the material it was sealed from, whatever its format, domain, epoch and attributes
(R294, R295). TLS_UNSEAL, in an established session whose receiving key, IV, version and record count are those of the
sender, returns the content and type of the record that TLS_SEAL writes (R478, R480). The layout of TLS records is that of
the RFCs (log entry 97). -/
def Obligations.SealedDataOpens : Prop :=
    (∀ (q : Call) (handle tagLen iv : Nat) (aad plain : Bytes) (k : LoadedKey) (s : State), ready 0x0205 q plain.length s = true ∧ q.hdr.inLen = aad.length + plain.length + tagLen →
      findKey q.f handle [0x01, 0x02] useDecrypt s = .found k →
      12 ≤ tagLen ∧ tagLen ≤ 16 →
      exec (.aeadDecrypt q handle tagLen false iv aad.length (aad ++ (gcmCrypt k.material iv plain ++ gcmTag k.material iv aad (gcmCrypt k.material iv plain) tagLen))) s = .next (complete q { code := 0, resultLen := plain.length, output := plain } s)) ∧
    (∀ (kek : Bytes) (format handle epoch iv : Nat) (attr : KeyAttr) (material : Bytes), material.length = attr.keyLen →
      openUnder kek (sealUnder kek format handle epoch iv attr material) = some material) ∧
    (∀ (q : Call) (session typ : Nat) (plain : Bytes) (v w : TlsSession) (s : State), ready 0x0404 q q.hdr.inLen s = true ∧ sessionTaken q session s = false →
      openSession s q.f session = some w ∧ w.st = 1 →
      w.tls13 = v.tls13 ∧ w.rxKey = v.txKey ∧ w.rxIv = v.txIv ∧ w.openedCount = v.sealedCount ∧
      v.sealedCount < 2 ^ 64 →
      typ = 21 ∨ typ = 23 →
      exec (.tlsUnseal q session (sealRecord v typ plain)) s = .next (complete q { code := 0, detail := typ, resultLen := plain.length, output := plain } (s.setSession session { w with openedCount := w.openedCount + 1 })))

/-- Internal accesses are granted, denied or held, and the rules are updated. An access within one 4 KB page, not held, of no
retired epoch, whose rules grant it, is performed; nothing else changes (R561, R562). A burst across a 4 KB boundary is
split there, each piece decided on its own first byte (R562, R564). Group 0 is granted by fixed rules, group 11 zeros to
SRAM, group 13 reads under a debug token, groups 14 and 15 nothing; any other by its slot's mask, slot 18 written by group
3 alone and slots 26 to 63 denied, or by the highest region that covers the address (R557 to R559, R561). One denied is not
performed: it is counted, recorded if no record stands, sets its flag, is journalled, and has its consequence (R564, R565).
A denial is journalled unless its group was denied within the last second, and brings groups 4 to 10 and 12 a logic fault
with their engine's operation aborted, group 1 the end of its context, a core its reset, others nothing (R565, Table 14-6).
A write of a core whose epoch is retired is dropped and counted as stale; a read of it is dropped (R530). While an update
of a mask with its group is open, an access is held behind those held before, neither granted nor denied (R566). An opening
that names a group no update may name does nothing, and one by a core whose epoch is retired is a stale write (R530, R566).
An opening by a core that still holds its epoch, with no update open, opens one over the mask with a shadow copy of the
table; with one open it waits (R566, R567, R568). Closing an update in time whose entries all pass makes the shadow copy
the table and the rule image; then the held accesses are checked in order and the next opening takes effect (R567, R569). A
write to slot 18, a region of a bad size, or a locked region makes the close fail: the table stays and UPDATE_REFUSED is
set (R558, R567). An update open for 100 µs or whose core's epoch is retired is aborted, at its close too, with a journal
entry and UPDATE_ABORTED; any other stays open (R568). A read of the deny record returns it and empties it (R565). -/
def Obligations.AccessChecksAndUpdates : Prop :=
    (∀ (x : Access) (s : State), s.running = true →
      x.group < 16 ∧ 0 < x.len ∧ x.addr % 4096 + x.len ≤ 4096 →
      isHeld s x = false ∧ staleAccess s x = false →
      grants s x x.addr = true →
      exec (.internalAccess x) s = .next (emit (.access x.group x.addr x.len true) s)) ∧
    (∀ (x : Access) (s : State), s.running = true →
      x.group < 16 ∧ 4096 < x.addr % 4096 + x.len ∧ x.addr % 4096 + x.len ≤ 8192 →
      isHeld s x = false ∧ staleAccess s x = false →
      grants s x x.addr = true ∧ grants s x (x.addr + (4096 - x.addr % 4096)) = true →
      exec (.internalAccess x) s = .next (emit (.access x.group (x.addr + (4096 - x.addr % 4096)) (x.len - (4096 - x.addr % 4096)) true) (emit (.access x.group x.addr (4096 - x.addr % 4096) true) s))) ∧
    (∀ (x : Access) (n : Nat) (r : Region) (s : State), (x.group = 0 → grants s x x.addr = lineGrants x.addr x.write) ∧ (x.group = 11 →
      grants s x x.addr = (x.write && x.zero && (sramRegion x.addr).isSome)) ∧
      (x.group = 13 → x.write = true → grants s x x.addr = false) ∧ (x.group = 13 →
      s.lcc.token = none → grants s x x.addr = false) ∧ (14 ≤ x.group → grants s x x.addr = false) ∧
      (1 ≤ x.group → x.group < 11 → slotOfAddr x.addr = some n → grants s x x.addr = (if n = 18 ∧
      x.write = true then decide (x.group = 3) else if 26 ≤ n then false else (if x.write then (Tbl.get (0, 0) s.ac.table.slots n).2 else (Tbl.get (0, 0) s.ac.table.slots n).1).testBit x.group)) ∧
      (1 ≤ x.group → x.group < 11 → slotOfAddr x.addr = none → ((sramRegion x.addr).isSome || inConfig x.addr) = true →
      (deciding x.addr s.ac.table.regions = some r → grants s x x.addr = (if x.write then r.write else r.read).testBit x.group) ∧
      (deciding x.addr s.ac.table.regions = none → grants s x x.addr = false))) ∧
    (∀ (x : Access) (s : State), s.running = true →
      x.group < 16 ∧ 0 < x.len ∧ x.addr % 4096 + x.len ≤ 4096 →
      isHeld s x = false ∧ staleAccess s x = false →
      grants s x x.addr = false →
      exec (.internalAccess x) s = .next (denyConsequence x x.addr (journalDenial x x.addr (raiseEvent .ac 0 0 { emit (.access x.group x.addr x.len false) s with ac := { s.ac with denyCount := min 0xFFFFFFFF (s.ac.denyCount + 1), record := if s.ac.record.isSome then s.ac.record else some (x.addr, x.group, x.write, x.core) } })))) ∧
    (∀ (x : Access) (a : Nat) (s : State), ((Tbl.find? x.group s.ac.deniedAt).any (fun t => decide (s.sck.rtcCount < t + 32768)) = true →
      journalDenial x a s = s) ∧ ((Tbl.find? x.group s.ac.deniedAt).any (fun t => decide (s.sck.rtcCount < t + 32768)) = false →
      journalDenial x a s = raiseAlarm causeDenied (if x.group = 2 ∨ x.group = 3 then x.core else 0) (x.group + 256 * x.core + 65536 * b2n x.write + 2 ^ 32 * a) { s with ac := { s.ac with deniedAt := Tbl.put x.group s.sck.rtcCount s.ac.deniedAt } }) ∧
      (((4 ≤ x.group ∧ x.group ≤ 10) ∨ x.group = 12) → denyConsequence x a s = raiseLogic 3 (groupBlock x) x.group a (match x.engine with | some e => abortEngine e stIntegrityLost s | none => s)) ∧
      (∀ c, x.group = 1 → x.ctx.bind s.ctx? = some c → denyConsequence x a s = finishCtx c (bare stIntegrityLost) (leaveCore c.id s)) ∧
      (x.group = 0 ∨ x.group = 11 ∨ 13 ≤ x.group → denyConsequence x a s = s) ∧
      (x.group = 2 ∨ x.group = 3 → ∀ i, (s.coreRt x.core).item.bind s.item? = some i →
      denyConsequence x a s = failCore x.core none 0 0 (if 1 ≤ i.denials then endDenied i s else redispatch i.id { s with ts := { s.ts with items := putItem { i with denials := i.denials + 1 } s.ts.items } }))) ∧
    (∀ (x : Access) (s : State), s.running = true →
      x.group < 16 ∧ 0 < x.len ∧ x.addr % 4096 + x.len ≤ 4096 →
      isHeld s x = false ∧ staleAccess s x = true →
      exec (.internalAccess x) s = .next (if x.write then staleWrite x.core s else s)) ∧
    (∀ (x : Access) (s : State), s.running = true →
      x.group < 16 ∧ 0 < x.len →
      isHeld s x = true →
      exec (.internalAccess x) s = .next { s with ac := { s.ac with held := s.ac.held ++ [x] } }) ∧
    (∀ (mask core epoch : Nat) (s : State), s.running = true →
      ((mask &&& 0x37FE) ≠ mask → exec (.acUpdateOpen mask core epoch) s = .next s) ∧
      ((mask &&& 0x37FE) = mask → staleAccess s { group := 3, core, epoch, addr := 0, len := 1, write := true } = true →
      exec (.acUpdateOpen mask core epoch) s = .next (staleWrite core s))) ∧
    (∀ (mask core epoch : Nat) (s : State), s.running = true →
      mask &&& updateMask = mask →
      staleAccess s { group := 3, core, epoch, addr := 0, len := 1, write := true } = false →
      exec (.acUpdateOpen mask core epoch) s = .next (if s.ac.upd = none then { s with ac := { s.ac with upd := some { mask, core, epoch, since := s.sck.now }, shadow := s.ac.table } } else { s with ac := { s.ac with waiting := s.ac.waiting ++ [{ mask, core, epoch, since := s.sck.now }] } })) ∧
    (∀ (writes : List RuleWrite) (u : Update) (s : State), s.running = true →
      s.ac.upd = some u ∧ updateOver s u = false →
      writes.all (writeOk s.ac.table) = true →
      exec (.acUpdateClose writes) s = .next (openWaiting (runHeld s.ac.held { s with ac := { s.ac with table := writes.foldl applyWrite s.ac.shadow, image := some (writes.foldl applyWrite s.ac.shadow), upd := none, held := [] } }))) ∧
    (∀ (writes : List RuleWrite) (y : RuleWrite) (u : Update) (s : State), s.running = true →
      s.ac.upd = some u ∧ updateOver s u = false →
      (y ∈ writes ∧ ((∃ r w, y = .slot 18 r w) ∨ (∃ n e, y = .region n e ∧ ((Tbl.get {} s.ac.table.regions n).lock = true ∨ (e.testBit 9 = true ∧
      (e / 1024 % 32 < 15 ∨ 27 < e / 1024 % 32)))))) →
      exec (.acUpdateClose writes) s = .next (afterUpdate (raiseEvent .ac 0 4 s))) ∧
    (∀ (writes : List RuleWrite) (s : State), s.running = true →
      (∀ u, s.ac.upd = some u → updateRetired s u = false → s.sck.now < u.since + 100000 →
      exec .acUpdateTimeout s = .next s) ∧ (∀ u, s.ac.upd = some u → updateRetired s u = true ∨ u.since + 100000 ≤ s.sck.now →
      exec .acUpdateTimeout s = .next (afterUpdate (raiseEvent .ac 0 5 (raiseAlarm causeUpdateAborted u.core (u.mask % 65536 + 65536 * (u.core % 256) + 2 ^ 24 * (if updateRetired s u then 2 else 1)) s))) ∧
      exec (.acUpdateClose writes) s = exec .acUpdateTimeout s) ∧ (s.ac.upd = none →
      exec .acUpdateTimeout s = .next s ∧ exec (.acUpdateClose writes) s = .next s)) ∧
    (∀ (s : State), reaches 0 s = true →
      exec .denyRecordRead s = .next { s with out := .read 0 0x5008 ((s.ac.record.map (·.1)).getD 0) :: s.out, ac := { s.ac with record := none } })

/-- Memory and bus errors are counted and handled, and copies are sent or discarded. A word that fails its code is counted for
its region, sets the flag, is checked against the burst and starts its recovery, on an initiator's read and the scrubber's;
any other changes nothing but the count of passes at a scrub's last word (R570 to R574). More than 64 errors within a
second of RTC time raise LOGIC_INTEGRITY, and the count starts anew (R573). The recovery of Table 14-4: an entry waits for
reload, a packet is cut, a pad dropped, a core restarts, a key slot waits for its re-unwrap, a staged record is lost and
counted, a delay list emptied for its rebuild, Bellows filled anew, an engine's operation ended. An error in a context
whose completion is staged changes nothing; in working words alone, before its transfer has moved, the operation starts
over; otherwise it completes INTEGRITY_LOST (R578). A first bus integrity error is counted as retried and the transfer is
checked again for access; a second is also counted as failed, raises the logic alarm and is handled as a memory error; the
Quench path's writes are outside the rule (R583, R584). A port begins the first copy at it: it is emitted with its
redundancy number, VLAN tag, security information and the MACsec of its hand-off, counted at port and stream with its
residence, and ends; over its budget it is also a missed deadline, dropped under LATE 1 (R173, R174, R177, R204). Under
MACsec down a copy is lost at its port, or under MACSEC_FAIL sent without and counted (R225); one handed off before MACsec
came up takes its number now; with nothing waiting the port stays idle. A frame of the cores is sent with its class and
source address, and its follow-up queued; a relayed Sync's residence goes into the Follow_Up of a two-step port (R204,
R228, R229). A copy still waiting 1 ms after its frame's ingress is discarded as late, at its port's next start too; a
younger one and a frame of the cores stay (R175, R178). -/
def Obligations.MemoryErrorsAndCopies : Prop :=
    (∀ (w : WordRead) (last : Bool) (s : State), s.running = true →
      (w.fails = true → exec (.memoryError w) s = .next (recover w.addr w.what (burstCheck w.addr w.what.region (raiseEvent .ac 0 3 { s with ac := { s.ac with integ := Tbl.put w.what.region (min 0xFFFFFFFF (Tbl.get 0 s.ac.integ w.what.region + 1)) s.ac.integ } }))) ∧
      exec (.scrubRead w false) s = exec (.memoryError w) s ∧ exec (.scrubRead w true) s = exec (.memoryError w) { s with ac := { s.ac with passes := min 0xFFFF (s.ac.passes + 1) } }) ∧
      (w.fails = false → exec (.memoryError w) s = .next s ∧ exec (.scrubRead w last) s = .next (if last then { s with ac := { s.ac with passes := min 0xFFFF (s.ac.passes + 1) } } else s))) ∧
    (∀ (addr region : Nat) (s : State), (64 < (errorsNow s).length → burstCheck addr region s = raiseLogic 5 18 region addr { s with ac := { s.ac with errors := [] } }) ∧
      ((errorsNow s).length ≤ 64 → burstCheck addr region s = { s with ac := { s.ac with errors := s.sck.rtcCount :: s.ac.errors.filter (fun t => decide (s.sck.rtcCount < t + 32768)) } })) ∧
    (∀ (addr f entry q i h l n : Nat) (ok : Bool) (s : State), (∀ p, Tbl.find? f s.pln.parts = some p → (recover addr (.plan f entry false) s).pln.parts = Tbl.put f { p with reload := noteOnce entry s.sck.now p.reload } s.pln.parts) ∧
      (∀ p b, (s.queue q).packets[i]? = some p → recover addr (.queue q i b) s = s.setQueue q { s.queue q with packets := setPacket i { p with lostAt := lostNow b p.lostAt } (s.queue q).packets }) ∧
      (∀ e, Tbl.find? entry s.fe.entries = some e → (recover addr (.pad entry i ok) s).fe.entries = Tbl.put entry { e with pads := e.pads.map fun x => if x.held ∧ x.pos = i ∧ x.next = ok then {} else x } s.fe.entries) ∧
      (∀ k, s.key? h = some k → (recover addr (.key h) s).key = { s.key with keys := Tbl.put h { k with faulted := true } s.key.keys, lostAt := noteOnce h s.sck.now s.key.lostAt }) ∧
      (∀ st, s.arc.staging[i]? = some st → (recover addr (.staging i ok) s).arc.lostTotal = s.arc.lostTotal + 1 ∧
      ∃ r, (recover addr (.staging i ok) s).arc.staging = s.arc.staging.eraseIdx i ++ [r] ∧
      r.typ = 2 ∧ r.owner = 0x7F) ∧ (l < 4 → (recover addr (.delay l) s).ts = { s.ts.setDelay l [] with rebuilding := l :: s.ts.rebuilding.filter (· != l) }) ∧
      (s.rnu.st = .ready → recover addr .bellows s = raiseEvent .rnu 0 3 (generateBlocks 16 { s with rnu := { s.rnu with bellows := [] } })) ∧
      recover addr .trace s = s ∧ recover addr (.stamp none) s = s ∧ recover addr (.pke n) s = abortBy n 2 s ∧
      (∀ t, s.ac.image = some t → recover addr (.table true) s = { s with ac := { s.ac with table := t } }) ∧
      ((s.coreRt n).st = .waiting → (s.coreRt n).item = none → recover addr (.core n) s = securityRec secCoreRestart n 0 0 (failCore n none 0 1 (raiseEvent .ts 0 1 s)))) ∧
    (∀ (addr id : Nat) (c : Ctx) (s : State), s.ctx? id = some c →
      (c.comp.isSome = true → ∀ w, recover addr (.ctx id w) s = s) ∧ (c.comp = none →
      recover addr (.ctx id false) s = finishCtx c (bare stIntegrityLost) (leaveCore id s)) ∧
      (c.comp = none → portMoved s c = true → recover addr (.ctx id true) s = finishCtx c (bare stIntegrityLost) (leaveCore id s)) ∧
      (c.comp = none → portMoved s c = false → (s.setCtx { c with recomputed := true }).ts.items.find? (fun i => i.kind == .ctx id && i.core.isSome) = none →
      recover addr (.ctx id true) s = s.setCtx { c with recomputed := true })) ∧
    (∀ (x : Access) (m : Option MemErr) (again : Bool) (u : State) (s : State), s.running = true →
      u = raiseEvent .ac 0 1 { s with ac := { s.ac with retried := min 0xFFFFFFFF (s.ac.retried + 1) } } →
      (x.group ≠ 11 → exec (.busIntegrityError x m false) s = .next (access x u)) ∧
      (x.group = 11 → exec (.busIntegrityError x m again) s = .next s) ∧ (x.group ≠ 11 →
      exec (.busIntegrityError x m true) s = .next ((match m with | some e => recover x.addr e | none => id) (raiseLogic 4 (groupBlock x) x.group x.addr (raiseEvent .ac 0 2 { u with ac := { u.ac with failed := min 0xFFFF (u.ac.failed + 1) } }))))) ∧
    (∀ (port stamp : Nat) (c : TxCopy) (fr : TxFrame) (m : Option MacsecOut) (s : State), s.running = true →
      nextCopy port s.fe.copies = some c ∧ c.core = none ∧ s.frameOf c = some fr →
      (s.macsecOn c.port = false ∧ m = none) ∨ (s.macsecOn c.port = true ∧ s.macsecDown c.port = false ∧
      c.macsec = m ∧ m.isSome = true) →
      residence fr s.sck.now < 1000000 →
      (residence fr stamp ≤ fr.budget → exec (.copyTransmitStart port stamp) s = .next (endCopy c fr { port := c.port, late := false, notSent := false, macsec := m.isSome, residence := residence fr stamp, egressStamp := toStamp stamp } (noteResidence fr stamp (bumpStream fr.entry fr.oldBank cCopiesSent (emit (.copy c.port fr.entry c.redSeq c.vlan m stamp fr.sec) (bumpPort c.port pTxBytes (c.len + if m.isSome then macsecBytes else 0) (bumpPort c.port pTxFrames 1 s))))))) ∧
      (fr.budget < residence fr stamp → fr.lateDrop = false → exec (.copyTransmitStart port stamp) s = .next (endCopy c fr { port := c.port, late := true, notSent := false, macsec := m.isSome, residence := residence fr stamp, egressStamp := toStamp stamp } (missDeadline fr c.port stamp false (noteResidence fr stamp (bumpStream fr.entry fr.oldBank cCopiesSent (emit (.copy c.port fr.entry c.redSeq c.vlan m stamp fr.sec) (bumpPort c.port pTxBytes (c.len + if m.isSome then macsecBytes else 0) (bumpPort c.port pTxFrames 1 s)))))))) ∧
      (fr.budget < residence fr stamp → fr.lateDrop = true → exec (.copyTransmitStart port stamp) s = .next (endCopy c fr (notSent c.port true 0) (missDeadline fr c.port stamp true (noteResidence fr stamp s))))) ∧
    (∀ (port stamp : Nat) (c : TxCopy) (fr : TxFrame) (s : State), s.running = true →
      (nextCopy port s.fe.copies = none → exec (.copyTransmitStart port stamp) s = .next s) ∧
      (nextCopy port s.fe.copies = some c → c.core = none → s.frameOf c = some fr →
      residence fr s.sck.now < 1000000 → s.macsecOn c.port = true → (s.macsecDown c.port = true →
      s.portFailOpen c.port = false → exec (.copyTransmitStart port stamp) s = .next (losePort pMacsecDown c fr s)) ∧
      (s.macsecDown c.port = true → s.portFailOpen c.port = true → residence fr stamp ≤ fr.budget →
      exec (.copyTransmitStart port stamp) s = .next (transmit c fr stamp none (bumpPort c.port pBypass 1 s))) ∧
      (s.macsecDown c.port = false → c.macsec = none → residence fr stamp ≤ fr.budget →
      exec (.copyTransmitStart port stamp) s = .next (transmit c fr stamp (applyMacsec c.port (copyBytes c fr) s).1 (applyMacsec c.port (copyBytes c fr) s).2)))) ∧
    (∀ (port stamp src : Nat) (c : TxCopy) (x : CoreFrame) (s : State), s.running = true →
      nextCopy port s.fe.copies = some c ∧ c.core = some (src, x) →
      (s.macsecOn c.port && !isEapol x) = false →
      exec (.copyTransmitStart port stamp) s = .next ((match coreFollows c (s.ptpOneStep c.port) stamp x with | none => id | some y => sendPort c.port c.tclass y) (emit (.core c.port src c.tclass c.redSeq none stamp (coreAt c (s.ptpOneStep c.port) stamp x)) (bumpPort c.port pTxBytes c.len (bumpPort c.port pTxFrames 1 (dequeue c s))))) ∧
      (∀ k i d f, s.ptpOneStep c.port = false → coreAt c (s.ptpOneStep c.port) stamp (.sync k (some (i, d)) f) = .sync k none f ∧
      coreFollows c (s.ptpOneStep c.port) stamp (.sync k (some (i, d)) f) = some (.followUp (f.getD 0 + ((stamp : Int) - i - c.stepAdj + d)) none)) ∧
      (∀ k i d f, s.ptpOneStep c.port = true → coreAt c (s.ptpOneStep c.port) stamp (.sync k (some (i, d)) f) = .sync (k + ((stamp : Int) - i - c.stepAdj + d)) none f)) ∧
    (∀ (copy port stamp : Nat) (c : TxCopy) (fr : TxFrame) (s : State), s.running = true →
      (s.fe.copies.find? (fun x => x.id == copy) = some c → s.frameOf c = some fr →
      exec (.copyDiscardTimeout copy) s = .next (if 1000000 ≤ residence fr s.sck.now then endCopy c fr (notSent c.port true (toStamp s.sck.now)) (missDeadline fr c.port s.sck.now true (noteResidence fr s.sck.now s)) else s)) ∧
      (nextCopy port s.fe.copies = some c → c.core = none → s.frameOf c = some fr →
      1000000 ≤ residence fr s.sck.now → exec (.copyTransmitStart port stamp) s = .next (endCopy c fr (notSent c.port true (toStamp s.sck.now)) (missDeadline fr c.port s.sck.now true (noteResidence fr s.sck.now s)))) ∧
      (s.fe.copies.find? (fun x => x.id == copy) = none → exec (.copyDiscardTimeout copy) s = .next s) ∧
      (s.fe.copies.find? (fun x => x.id == copy) = some c → s.frameOf c = none →
      exec (.copyDiscardTimeout copy) s = .next s))

/-- PLAN_LOAD, PLAN_ACTIVATE, PLAN_ROLLBACK, PLAN_CANCEL and PLAN_READ, with their refusals. PLAN_LOAD over an EMPTY, READY or
PREVIOUS copy makes it LOADING, with its record and an incoming vault slot, and waits for the image; over a DRAINING one it
is held; over an ARMED one, or one loading for another call, it is refused with REFUSED_FULL; of length 0 it is
INPUT_REJECTED (R112, R117, R118). When its image has arrived over the LOADING copy below Restrict and every check passes,
it is stored in the incoming slot, which becomes the standby slot, the copy holds it, READY, with no match key of it under
rebuild, the version counter is its version, and the operation completes with version, used entries and entries of short
budget (R112, R113). A check that fails, or Restrict by then, completes INPUT_REJECTED with reason, entry and offset, or
RESTRICTED; the standby copy is as before the load, with a record of the reason, and the incoming image is gone (R114,
R116). PLAN_ACTIVATE arms a READY copy, and PLAN_ROLLBACK a PREVIOUS one, at an instant at least 2 ms away at which every
arming check passes: ARMED for that instant and pinned. An instant that is none is INPUT_REJECTED with 0x25, one nearer
DEADLINE_MISSED, another state of the copy REFUSED_FULL, a failed check its completion, and nothing is armed (R118 to
R122). PLAN_CANCEL takes an ARMED copy, deferred or not, back to READY, or to PREVIOUS if a rollback was armed, its keys
pinned as before; else it is REFUSED_FULL (R118, R131). PLAN_READ offers the bytes of the active (0) or the held (1) image,
none where there is none, and any other copy is INPUT_REJECTED (R483). Of a function without a partition each of the five
is INPUT_REJECTED (R464, R465). -/
def Obligations.PlansLoadArmAndRead : Prop :=
    (∀ (q : Call) (length : Nat) (p : Partition) (s : State), ready 0x0601 q 16 s = true →
      length ≠ 0 →
      s.part? q.f = some p →
      (p.standby = .empty ∨ p.standby = .ready ∨ p.standby = .previous → exec (.planLoad q length none) s = .next (moveStandby q.f p { p with standby := .loading, before := p.standby, loadHeld := false, vaultIncoming := some p.freeSlot } s)) ∧
      (p.standby = .draining → exec (.planLoad q length none) s = .next (s.setPart q.f { p with loadHeld := true })) ∧
      (p.standby = .armed ∨ p.standby = .loading ∧ (s.func q.f).dpCtx = none →
      exec (.planLoad q length none) s = .next (complete q { code := 0x0301 } s)) ∧
      exec (.planLoad q 0 none) s = .next (complete q { code := 0x0101, resultLen := 16, output := planResult 0x01 0xFFFFFFFF 0 } s)) ∧
    (∀ (q : Call) (length : Nat) (i : PlanImage) (p : Partition) (s : State), ready 0x0601 q 16 s = true →
      s.level = 0 ∧ length ≠ 0 →
      s.part? q.f = some p ∧ p.standby = .loading →
      (s.func q.f).dpCtx = s.ctxIdFor q ∧ (s.func q.f).dpCtx ≠ none →
      checkPlan s q.f p.base p.size length false i = none →
      Answers (.planLoad q length (some i)) s (fun t => ∃ u, u = moveStandby q.f p { p with standby := .ready, held := some (copyOf i), vaultStandby := p.vaultIncoming, vaultIncoming := none, rollback := false, pinned := false, reloadStandby := [] } (dropImage q.f p.vaultStandby (storeImage q.f (p.vaultIncoming.getD 2) i s)) ∧
      t = complete q { code := 0, resultLen := 16, output := planResult i.version (usedCount (copyOf i)) (shortCount (copyOf i)) } { u with pln := { u.pln with highest := Tbl.put q.f i.version u.pln.highest, rebuilding := u.pln.rebuilding.filter fun r => !(decide (p.base ≤ r.entry) && decide (r.entry < p.base + p.size) && r.standby) } })) ∧
    (∀ (q : Call) (length : Nat) (i : PlanImage) (p : Partition) (x : PlanFault) (comp : Completion) (s : State), s.part? q.f = some p ∧ p.standby = .loading →
      (s.func q.f).dpCtx = s.ctxIdFor q ∧ (s.func q.f).dpCtx ≠ none →
      length ≠ 0 →
      (checkPlan s q.f p.base p.size length false i = some x ∧ comp = { code := 0x0101, resultLen := 16, output := planResult x.1 x.2.1 x.2.2 } ∧
      ready 0x0601 q 16 s = true ∧ s.level = 0) ∨ (x.1 = 0 ∧ comp = { code := 0x0601 } ∧
      s.running = true ∧ staged q s = false ∧ 1 ≤ s.level ∧ opGate 0x0601 q 16 s = some comp) →
      Answers (.planLoad q length (some i)) s (fun t => ∃ u, u = (if s.level = 0 then storeImage q.f (p.vaultIncoming.getD 2) i s else s) ∧
      t = complete q comp (stageRec 0x21 q.f (.planEvent p.heldVersion (16 * standbyCode .loading + standbyCode p.before) x.1) (dropImage q.f p.vaultIncoming (u.setPart q.f { p with standby := p.before, vaultIncoming := none }))))) ∧
    (∀ (q : Call) (back : Bool) (second rate slot instant : Nat) (p : Partition) (c : PlanCopy) (s : State), ready (if back then 0x0603 else 0x0602) q 16 s = true →
      s.part? q.f = some p ∧ p.held = some c →
      instantOf second rate slot = some instant →
      exec (if back then .planRollback q second rate slot else .planActivate q second rate slot) s = .next ( if p.standby ≠ (if back then .previous else .ready) then complete q { code := 0x0301 } s else if instant < s.sck.now + 2000000 then complete q { code := 0x0401 } s else match armFault s q.f c instant with | some comp => complete q comp s | none => complete q { code := 0, resultLen := 16, output := planResult c.version 0 0 } (moveStandby q.f p { p with standby := .armed, rollback := back, instant, deferred := false, pinned := true } s))) ∧
    (∀ (q : Call) (second rate slot : Nat) (p : Partition) (s : State), s.part? q.f = some p →
      instantOf second rate slot = none →
      ∀ x ∈ ([(.planActivate q second rate slot, 0x0602), (.planRollback q second rate slot, 0x0603)] : List (Instr × Nat)), ready x.2 q 16 s = true →
      exec x.1 s = .next (complete q { code := 0x0101, resultLen := 16, output := planResult 0x25 0xFFFFFFFF 0 } s)) ∧
    (∀ (q : Call) (second rate slot instant : Nat) (p : Partition) (s : State), s.part? q.f = some p ∧ p.held = none →
      instantOf second rate slot = some instant →
      ∀ x ∈ ([(.planActivate q second rate slot, 0x0602), (.planRollback q second rate slot, 0x0603)] : List (Instr × Nat)), ready x.2 q 16 s = true →
      exec x.1 s = .next (complete q { code := 0x0301 } s)) ∧
    (∀ (q : Call) (p : Partition) (s : State), ready 0x0604 q 0 s = true →
      s.part? q.f = some p →
      exec (.planCancel q) s = .next (if p.standby = .armed then complete q { code := 0 } (moveStandby q.f p { p with standby := if p.rollback then .previous else .ready, rollback := false, deferred := false } s) else complete q { code := 0x0301 } s)) ∧
    (∀ (q : Call) (copy : Nat) (p : Partition) (s : State), ready 0x0605 q 0 s = true →
      s.part? q.f = some p →
      exec (.planRead q copy) s = .next (if 1 < copy then complete q { code := 0x0101 } s else complete q { code := 0 } (offerBytes q (((if copy = 0 then p.active else p.held).map fun c => imageBytes c.image).getD []) s))) ∧
    (∀ (q : Call) (c : Instr) (length second rate slot copy : Nat) (s : State), c ∈ ([.planLoad q length none, .planActivate q second rate slot, .planRollback q second rate slot, .planCancel q, .planRead q copy] : List Instr) →
      s.running = true ∧ staged q s = false →
      s.part? q.f = none →
      exec c s = .next (complete q { code := 0x0101 } s))

/-- PARTITION_ASSIGN and PARTITION_RELEASE with the release at its boundary, and reads and snapshots of stream counters.
PARTITION_ASSIGN of a range of whole 256 entries that overlaps no partition to a function without one gives it an empty
partition, with its record; any other is INPUT_REJECTED (R88, R89). PARTITION_RELEASE of a function that has a partition,
at a grid second ahead, sets the boundary at which it ends, with a record where it replaces one; a second that is past is
DEADLINE_MISSED, any other operand INPUT_REJECTED (R90). When the boundary last named is reached the function has no
partition: no rebuild, counters or frame state of its entries is kept, its record and one for each generated handle are
written; before it nothing changes (R90, R516). COUNTER_READ of at most 131072 entries within the function's partition
answers their records, COUNTER_SNAPSHOT of at most 1024 stages one record for each that is used, of none they do nothing,
and any other range is INPUT_REJECTED (R484, R485). -/
def Obligations.PartitionsAndCounterReads : Prop :=
    (∀ (q : Call) (fn base size : Nat) (s : State), ready 0x0606 q 0 s = true →
      exec (.partitionAssign q fn base size) s = .next (if fn ≤ 63 ∧ base % 256 = 0 ∧
      size % 256 = 0 ∧ 256 ≤ size ∧ base + size ≤ 131072 ∧ s.part? fn = none ∧
      (s.pln.parts.any fun p => decide (base < p.2.base + p.2.size) && decide (p.2.base < base + size)) = false then complete q { code := 0 } (stageRec 0x21 fn (.planEvent 0 planAssigned 0) (s.setPart fn { base, size })) else complete q { code := 0x0101 } s)) ∧
    (∀ (q : Call) (fn second : Nat) (s : State), ready 0x0607 q 0 s = true →
      (∀ p, s.part? fn = some p → fn ≤ 63 → second < 2 ^ 34 → exec (.partitionRelease q fn second) s = .next ( if second * 1000000000 ≤ s.sck.now then complete q { code := 0x0401 } s else complete q { code := 0 } (if p.releaseAt = none then s.setPart fn { p with releaseAt := some (second * 1000000000) } else stageRec 0x21 fn (.planEvent 0 planReleaseMoved 0) (s.setPart fn { p with releaseAt := some (second * 1000000000) })))) ∧
      (s.part? fn = none ∨ 63 < fn ∨ 2 ^ 34 ≤ second → exec (.partitionRelease q fn second) s = .next (complete q { code := 0x0101 } s))) ∧
    (∀ (f : Nat) (p : Partition) (s : State), s.running = true →
      s.part? f = some p ∧ Tbl.wf s.pln.parts = true →
      ((∀ t, p.releaseAt = some t → s.sck.now < t) → exec (.partitionReleaseEffect f) s = .next s) ∧
      (∀ t, p.releaseAt = some t → t ≤ s.sck.now → Answers (.partitionReleaseEffect f) s (fun u => u.part? f = none ∧
      (∀ n, p.owns n = true → Tbl.find? n u.fe.entries = none ∧ ∀ r ∈ u.pln.rebuilding, r.entry ≠ n) ∧
      recNow 0x21 f (.planEvent ((p.active.map (·.version)).getD 0) planReleased 0) s ∈ u.arc.staging ∧
      ∀ c x e h, (p.active = some c ∨ p.held = some c) → (x, e) ∈ c.entries →
      entryGenerates e = true → h ∈ (entryHandles e).map (·.2) → recNow 0x23 f (.keyEvent h 11 ((Tbl.get {} s.key.gens h).reserved + 1)) s ∈ u.arc.staging))) ∧
    (∀ (q : Call) (first count : Nat) (p : Partition) (s : State), ready 0x0608 q (128 * count) s = true →
      s.part? q.f = some p →
      exec (.counterRead q first count) s = .next (complete q ( if count = 0 then { code := 0 } else if count ≤ 131072 ∧
      p.base ≤ first ∧ first + count ≤ p.base + p.size then { code := 0, resultLen := (counterRecords s count first).length, output := counterRecords s count first } else { code := 0x0101 }) s)) ∧
    (∀ (q : Call) (first count : Nat) (p : Partition) (s : State), ready 0x0609 q 0 s = true →
      s.part? q.f = some p →
      (¬ (count ≤ 1024 ∧ p.base ≤ first ∧ first + count ≤ p.base + p.size) → count ≠ 0 →
      exec (.counterSnapshot q first count) s = .next (complete q { code := 0x0101 } s)) ∧
      (count = 0 ∨ count ≤ 1024 ∧ p.base ≤ first ∧ first + count ≤ p.base + p.size →
      Answers (.counterSnapshot q first count) s (fun t => ∃ u : State, t = complete q { code := 0 } u ∧
      u = { s with arc := { s.arc with staging := u.arc.staging, eventBytes := u.arc.eventBytes } } ∧
      u.arc.staging = s.arc.staging ++ (List.range count).filterMap (fun i => (s.entryAt (first + i) false).map fun x => recNow 0x11 q.f (.counterSnapshot (first + i) x.2.tag (fourteen (s.rt (first + i) false).counters)) s))))

/-- Switches at their instants, the end of draining, reloads of entries and the match store. At its instant, with time valid,
an armed partition switches; with time not valid it stays ARMED and is deferred, with its record; where no armed instant
has come, or no plan is restored, nothing changes (R80, R118, R124, R127, R128, R672). A deferred switch takes effect at
the first second boundary at which time is valid, and not elsewhere (R80). 1 ms after the instant draining ends: old frames
still waiting are dropped late, their counters written, and the held copy is PREVIOUS, or EMPTY if a rollback was armed or
there was none; then a load held meanwhile begins. Before that nothing changes (R118, R126). An entry under reload that its
vault image serves is out of the list of its bank, with its event of cause RELOADED, its condition ended and its pads
dropped; one that it does not serve stays there, with a PLAN_EVENT; one not under reload is left alone (R132, R185). An
error in the match store marks the keys it affects, each of its bank, and the end of their rebuild clears these marks and
no other; of one key it ends the condition since its mark and drops its pads (R110, R185). -/
def Obligations.PlansSwitchAndDrain : Prop :=
    (∀ (f : Nat) (p : Partition) (s : State), s.running = true →
      plansHeld s = false ∧ Tbl.wf s.pln.parts = true →
      s.part? f = some p ∧ p.standby = .armed ∧ p.deferred = false ∧ p.instant ≤ s.sck.now →
      (∀ x ∈ s.pln.parts, x.1 ≠ f → x.2.standby = .armed → x.2.deferred = false → s.sck.now < x.2.instant) →
      Tbl.wf (entriesOf p.held) = true →
      (s.sck.valid = true → Answers .planSwitch s (Switched f p.instant p s)) ∧
      (s.sck.valid = false → exec .planSwitch s = .next (stageRec 0x21 f (.planEvent p.heldVersion (16 * standbyCode .armed + standbyCode .armed) 0) (s.setPart f { p with deferred := true })))) ∧
    (∀ (s : State), s.running = true →
      (plansHeld s = true ∨ ∀ x ∈ s.pln.parts, x.2.standby = .armed → x.2.deferred = false →
      s.sck.now < x.2.instant) →
      exec .planSwitch s = .next s) ∧
    (∀ (f : Nat) (p : Partition) (s : State), s.running = true →
      s.part? f = some p ∧ p.standby = .armed ∧ p.deferred = true ∧ Tbl.wf s.pln.parts = true →
      (∀ x ∈ s.pln.parts, x.1 ≠ f → x.2.standby = .armed → x.2.deferred = false) →
      Tbl.wf (entriesOf p.held) = true →
      (s.sck.now % 1000000000 = 0 → s.sck.valid = true → plansHeld s = false →
      Answers .deferredSwitch s (Switched f s.sck.now p s)) ∧ (s.sck.now % 1000000000 ≠ 0 ∨ s.sck.valid = false ∨ plansHeld s = true →
      exec .deferredSwitch s = .next s)) ∧
    (∀ (f : Nat) (p : Partition) (s : State), s.running = true →
      s.part? f = some p →
      (p.standby ≠ .draining ∨ s.sck.now < p.instant + 1000000 → exec (.drainEnd f) s = .next s) ∧
      (p.standby = .draining → p.instant + 1000000 ≤ s.sck.now → Answers (.drainEnd f) s (fun t => ∃ u v p' k m, u = discardAll (s.fe.copies.filter fun c => (s.frameOf c).any fun fr => fr.function == f && fr.oldBank) s ∧
      v = drainRecords f (entriesOf p.held) u.fe.drain u ∧ p' = (if p.rollback = true ∨ p.held = none then { p with standby := .empty, held := none, vaultStandby := none, pinned := false, rollback := false, reloadStandby := [] } else { p with standby := .previous }) ∧
      k = { v with fe := { v.fe with drain := Tbl.keep (fun n _ => !p.owns n) v.fe.drain, drainRt := Tbl.keep (fun n _ => !p.owns n) v.fe.drainRt } } ∧
      m = moveStandby f p p' (if p'.held = none then dropImage f p.vaultStandby k else k) ∧
      t = if p.loadHeld then moveStandby f p' { p' with standby := .loading, before := p'.standby, loadHeld := false, vaultIncoming := some p'.freeSlot } m else m))) ∧
    (∀ (f entry : Nat) (standby ok : Bool) (p : Partition) (s : State), s.running = true →
      s.part? f = some p →
      Answers (.entryReload f entry standby ok) s (fun t => match Tbl.find? entry (if standby then p.reloadStandby else p.reload) with | none => t = s | some since => if ok then t = (fun (e : Entry) => keyEdges s (endCond (.entry entry standby) since ((fun u : State => u.updRt entry standby (·.noPads)) (stageRec 0x10 f (.streamEvent { entry, tag := e.tag, cause := 0x0C, port := 0, action := 3, budget := e.budget }) (s.setPart f (if standby then { p with reloadStandby := Tbl.del entry p.reloadStandby } else { p with reload := Tbl.del entry p.reload })))))) ((Tbl.find? entry (entriesOf (if standby then p.held else p.active))).getD {}) else t = stageRec 0x21 f (.planEvent (((if standby then p.held else p.active).map (·.version)).getD 0) planNotReloaded 0) s)) ∧
    (∀ (entries : List (Nat × Bool)) (s : State), s.running = true →
      Answers (.matchStoreRebuild entries false) s (fun t => (∀ k ∈ entries, ∃ r ∈ t.pln.rebuilding, r.entry = k.1 ∧
      r.standby = k.2) ∧ (∀ r ∈ s.pln.rebuilding, r ∈ t.pln.rebuilding) ∧ t.fe = s.fe ∧
      t.pln.parts = s.pln.parts) ∧ Answers (.matchStoreRebuild entries true) s (fun t => t.pln = { s.pln with rebuilding := s.pln.rebuilding.filter fun r => !entries.contains (r.entry, r.standby) }) ∧
      (∀ n b r, (s.pln.rebuilding.find? fun r => r.entry == n && r.standby == b) = some r →
      exec (.matchStoreRebuild [(n, b)] true) s = .next (keyEdges s (endCond (.entry n b) r.since ((fun u : State => u.updRt n b (·.noPads)) { s with pln := { s.pln with rebuilding := s.pln.rebuilding.filter fun x => !(x.entry == n && x.standby == b) } })))))

/-- Pads are refilled, double windows open and end, and the other key is accepted around a rollover. A counter-mode entry whose
key can be used has its lookahead filled: a position and key of its store holds the pad it held, or E(K, J0) of the
predicted counters (R148, R158, R161, R164); any other entry is left alone. Within 1 ms either side of its rollover the
window of both keys opens, and not elsewhere (R158). 1 ms after the rollover an open window ends: the pads of the outgoing
key are zero, and the lookahead is filled under the other where it can be used (R158, R167). From the acceptance time
before a rollover to the acceptance time after it the entry holds a state of the other key, empty at first, and at the end
it is discarded (R309, R310). Of an entry that is not used none of these five does anything. -/
def Obligations.PadsAndAcceptance : Prop :=
    (∀ (n : Nat) (s : State), s.running = true →
      (∀ e, padEntry s n = some e → exec (.padRefill n) s = .next (s.updRt n false (fillPads s e))) ∧
      (padEntry s n = none → exec (.padRefill n) s = .next s)) ∧
    (∀ (e : Entry) (r : EntryRt) (p : Pred) (i : Nat) (next : Bool) (k : LoadedKey) (s : State), r.pred = some p ∧ (i, next) ∈ padPlaces e s.sck.now r →
      s.key? (if next then e.keyNext else e.keyCur) = some k →
      ∃ x ∈ (fillPads s e r).pads, (∀ y, heldPad r i next = some y → x = y) ∧
      (heldPad r i next = none → x = { held := true, pos := i, next, val := padOf k.material (frameIv e ((p.s + i) % 2 ^ 32) ((p.cLast + 1 + (i - 1) * p.n) % e.predMod)) })) ∧
    (∀ (n : Nat) (s : State), s.running = true →
      (∀ e, padEntry s n = some e → e.keyNextValid = true → stampNs e.rollAt ≤ s.sck.now + 1000000 →
      s.sck.now < stampNs e.rollAt + 1000000 → exec (.dualKeyPadWindow n) s = .next (s.updRt n false fun r => fillPads s e { r with dual := true })) ∧
      ((∀ e, padEntry s n = some e → e.keyNextValid = false ∨ s.sck.now + 1000000 < stampNs e.rollAt ∨ stampNs e.rollAt + 1000000 ≤ s.sck.now) →
      exec (.dualKeyPadWindow n) s = .next s)) ∧
    (∀ (n f : Nat) (e : Entry) (s : State), s.running = true →
      s.entryAt n false = some (f, e) →
      ((s.rt n false).dual = true → stampNs e.rollAt + 1000000 ≤ s.sck.now → exec (.dualKeyPadWindowEnd n) s = .next (s.updRt n false fun r => (fun r' => if (padEntry s n).isSome then fillPads s e r' else r') { r with dual := false, pads := r.pads.map fun x => if x.next = afterRoll e r s.sck.now then x else {} })) ∧
      ((s.rt n false).dual = false ∨ s.sck.now < stampNs e.rollAt + 1000000 →
      exec (.dualKeyPadWindowEnd n) s = .next s)) ∧
    (∀ (n f : Nat) (e : Entry) (s : State), s.running = true →
      s.entryAt n false = some (f, e) →
      exec (.acceptIntervalOpen n) s = .next (if e.keyNextValid = true ∧ stampNs e.rollAt ≤ s.sck.now + s.rollAccept f ∧
      s.sck.now < stampNs e.rollAt + s.rollAccept f ∧ (s.rt n false).other = none then s.updRt n false fun r => { r with other := some none } else s) ∧
      exec (.acceptIntervalClose n) s = .next (if e.keyNextValid = true ∧ stampNs e.rollAt + s.rollAccept f ≤ s.sck.now then s.updRt n false fun r => { r with other := none } else s)) ∧
    (∀ (n : Nat) (c : Instr) (s : State), s.running = true ∧ s.entryAt n false = none →
      c ∈ ([.padRefill n, .dualKeyPadWindow n, .dualKeyPadWindowEnd n, .acceptIntervalOpen n, .acceptIntervalClose n] : List Instr) →
      exec c s = .next s)

/-- Frames received pass their port, MACsec and pair, admission, matching and the work of their entry, and TIMED_PUBLISH
injects one. A frame with a bad FCS, over 9,216 bytes or a runt is an error of its port, one before forwarding a drop of
admission; all but the first count as received; on a port that is off or has no link there is none (R142, R195, R202). On a
MACsec port an EAPOL frame goes on; another with no SecTAG, no association for it, a wrong ICV or a number behind the
replay window, or any while a condition holds that MACSEC_FAIL does not let pass, is counted and dropped; one that is sound
goes on and moves its association (R222, R225). In a pair an HSR frame without a tag or of the pair's own address is
dropped and counted; a tagged frame whose number its source's window holds is a duplicate, dropped and counted, on PRP
after the wrong LAN is counted (R212, R214, R216, R219). A frame that these let go on takes what its stamp has reached into
effect, and is processed by the entry it matches, or is queued for the cores, if the load leaves room for its class (R108,
R140, R195, R196). A matched frame over MAX_LEN is malformed; one whose key is not loaded or under a condition meets
FAIL_KEY; one that generates takes the key's next value, and leaves with its tag; one of profile 0 passes (R140, R147,
R152, R179, R186). One to verify is malformed without sound security information, fails on its tag, is stale, or passes and
sets its freshness; a pad miss is counted (R147, R160, R163). A refusal counts, writes its stream event, sets its bit and
captures under ARCHIVE_FAILURES; outside the slot window it is SLOT_FAILED; a policy in force drops the frame or forwards
it marked, and each is counted (R171, R181, R182, R187). TIMED_PUBLISH of a frame of 64 to 9,216 bytes under an entry of
the caller's own that takes it is processed as a frame stamped now at its port, and completes when its copies have gone;
another is INPUT_REJECTED (R490, R491). -/
def Obligations.FramesReceivedAndPublished : Prop :=
    (∀ (fr : Frame) (c : Bool) (s u : State), s.running = true →
      u = bumpPort fr.port pRxBytes (lineLength fr) (bumpPort fr.port pRxFrames 1 (heard fr.port s)) →
      (s.portOn fr.port = false ∨ (s.port fr.port).linkUp = false → exec (.frameReceived fr c) s = .next s) ∧
      (s.portOn fr.port = true → (s.port fr.port).linkUp = true → (fr.fcsOk = false →
      exec (.frameReceived fr c) s = .next (bumpPort fr.port pRxErrors 1 (heard fr.port s))) ∧
      (fr.fcsOk = true → 9216 < fr.len ∨ lineLength fr < 64 → exec (.frameReceived fr c) s = .next (bumpPort fr.port pRxErrors 1 u)) ∧
      (fr.fcsOk = true → fr.len ≤ 9216 → 64 ≤ lineLength fr → u.fe.forwarding = false →
      exec (.frameReceived fr c) s = .next (bumpPort fr.port pRxAdmission 1 u)))) ∧
    (∀ (fr : Frame) (a : RxSa) (t : SecTag) (u : State), u.macsecOn fr.port = true →
      (fr.etherType = 0x888E → macsecReceive fr u = (true, u)) ∧ (fr.etherType ≠ 0x888E →
      (u.port fr.port).conds ≠ [] → macsecReceive fr u = if u.portFailOpen fr.port = true ∧
      fr.secTag = none then (true, u) else (false, bumpPort fr.port pRxMacsecFail 1 u)) ∧
      (fr.etherType ≠ 0x888E → (u.port fr.port).conds = [] → (fr.secTag = none ∨ fr.secTag = some t ∧
      rxSaOf (u.port fr.port) t = none → macsecReceive fr u = (false, bumpPort fr.port pRxMacsecFail 1 u)) ∧
      (fr.secTag = some t → rxSaOf (u.port fr.port) t = some a → macsecReceive fr u = if icvOk u fr.port t a = true ∧
      a.nextPn ≤ t.pn + (u.port fr.port).replayWindow then (true, u.updPort fr.port (advanceSa (rxIv u fr.port t.channel) t)) else (false, bumpPort fr.port pRxMacsecFail 1 u)))) ∧
    (∀ (fr : Frame) (i kind x lan : Nat) (d : DupSource) (u w : State), u.pairOf fr.port = some (i, kind) →
      w = (if lan = fr.port % 2 then u else bumpPort fr.port pWrongLan 1 u) →
      (kind = 2 → fr.hsr = none → pairReceive fr u = (false, bumpPort fr.port pTagErrors 1 u)) ∧
      (kind = 2 → fr.hsr ≠ none → fr.srcMac = u.ownMac i → pairReceive fr u = (false, bumpPort fr.port pHsrOwn 1 u)) ∧
      (kind ≠ 2 → fr.prp = some (x, lan) → Tbl.find? fr.srcMac (w.pair i).dup = some d →
      (d.n + 65536 - x) % 65536 < 64 → d.window.testBit ((d.n + 65536 - x) % 65536) = true →
      pairReceive fr u = (false, bumpPort fr.port pDup 1 (w.setPair i { w.pair i with dup := Tbl.put fr.srcMac { d with last := w.sck.now } (w.pair i).dup })))) ∧
    (∀ (fr : Frame) (c : Bool) (m r v : State) (s u : State), s.running = true ∧ s.portOn fr.port = true ∧ (s.port fr.port).linkUp = true ∧
      fr.fcsOk = true ∧ fr.len ≤ 9216 ∧ 64 ≤ lineLength fr →
      u = bumpPort fr.port pRxBytes (lineLength fr) (bumpPort fr.port pRxFrames 1 (heard fr.port s)) ∧
      u.fe.forwarding = true →
      macsecReceive fr u = (true, m) →
      pairReceive fr m = (true, r) ∧ v = reachStamp fr.stamp r →
      exec (.frameReceived fr c) s = .next (if fr.etherType = 0x888E ∨ fr.etherType = 0x88F7 ∧
      v.ptpOn fr.port = true ∨ findMatch fr v.pln.parts = none then if fr.overload = 0 then exceptionFrame fr v else bumpPort fr.port pRxAdmission 1 v else match findMatch fr v.pln.parts with | none => v | some (f, n, e, old) => if fr.overload ≤ e.tclass + 1 then processFrame { f, n, e, old, port := fr.port, stamp := fr.stamp, quality := (v.sck.at fr.stamp).1, fr, pub := none } (if c then counterError n old v else v) else bumpPort fr.port pRxAdmission 1 v)) ∧
    (∀ (j : Job) (k : LoadedKey) (h : Nat) (lost : Bool) (g s : State), g = bumpStream j.n j.old cMatched s ∧ lost = (j.e.slotRate != 0 && bitOf j.quality 5) →
      h = chosenKey j.e (afterRoll j.e (g.rt j.n j.old) j.stamp) →
      (j.e.maxLen < j.fr.len → processFrame j s = refuse j cMalformed 4 1 false g) ∧
      (j.fr.len ≤ j.e.maxLen → j.e.profile = 0 → processFrame j s = slotStage j false lost false none (bumpStream j.n j.old cPassed g)) ∧
      (j.fr.len ≤ j.e.maxLen → j.e.profile ≠ 0 → g.key? h = none → processFrame j s = policyStage j true lost false (some (secZero j none)) g) ∧
      (j.fr.len ≤ j.e.maxLen → j.e.profile ≠ 0 → g.key? h = some k → keyCondition g j.f j.n j.e j.old h j.stamp = true →
      processFrame j s = policyStage j true lost false (some (secZero j (some k))) g) ∧
      (j.fr.len ≤ j.e.maxLen → j.e.profile ≠ 0 → isCounter j.e.profile = false →
      g.key? h = some k → keyCondition g j.f j.n j.e j.old h j.stamp = false →
      entryGenerates j.e = true → processFrame j s = (fun (spdu : Nat) (y : State) => slotStage j false lost false (some (secGenerated j k spdu ((padHit j.e (g.rt j.n j.old) spdu j.fr.smpCnt (afterRoll j.e (g.rt j.n j.old) j.stamp)).getD (padOf k.material (frameIv j.e spdu j.fr.smpCnt))))) (bumpStream j.n j.old cPassed (if spdu = 0xFFFFFFFF then raiseEvent .fe j.f 3 (raiseEvent .fe j.f 6 (streamEvent j.f j.stamp j.quality { entry := j.n, tag := j.e.tag, cause := 0x0B, port := j.port, action := 3, budget := j.e.budget, forwarded := 0, dropped := 0 } y)) else y))) (Tbl.get ({} : GenCtr) g.key.gens h).next { g with key := { g.key with gens := Tbl.put h (Tbl.get ({} : GenCtr) g.key.gens h).take g.key.gens } })) ∧
    (∀ (j : Job) (k : LoadedKey) (h : Nat) (lost miss : Bool) (hit : Option (BitVec 128)) (tag : Bytes) (g u s : State), g = bumpStream j.n j.old cMatched s ∧ lost = (j.e.slotRate != 0 && bitOf j.quality 5) ∧
      j.fr.len ≤ j.e.maxLen ∧ j.e.profile ≠ 0 →
      h = chosenKey j.e (afterRoll j.e (g.rt j.n j.old) j.stamp) ∧ g.key? h = some k →
      keyCondition g j.f j.n j.e j.old h j.stamp = false ∧ entryGenerates j.e = false →
      hit = padHit j.e (g.rt j.n j.old) j.fr.sec.spdu j.fr.smpCnt (afterRoll j.e (g.rt j.n j.old) j.stamp) ∧
      miss = (isCounter j.e.profile && hit.isNone) →
      tag = (if isHmac j.e.profile then (hmacFrom k.work.inner k.work.outer j.fr.sec.span).take (tagLen j.e.profile) else tagFrom k.work.h (hit.getD (padOf k.material (frameIv j.e j.fr.sec.spdu j.fr.smpCnt))) j.fr.sec.span (if j.e.profile = 0x26 then j.fr.sec.payload else []) (tagLen j.e.profile)) →
      u = (if miss then bumpStream j.n j.old cPadMisses g else g) →
      (j.fr.sec.present = false ∨ j.fr.sec.wellFormed = false → processFrame j s = refuse j cMalformed 4 1 false g) ∧
      (j.fr.sec.present = true → j.fr.sec.wellFormed = true → g.keyIdent h = some j.fr.sec.keyId →
      (j.fr.sec.tag ≠ tag → processFrame j s = refuse j cTagFailed 1 1 miss u) ∧
      (j.fr.sec.tag = tag → forward (freshState (u.rt j.n j.old) (afterRoll j.e (g.rt j.n j.old) j.stamp) false h) j.fr.sec.spdu = false →
      processFrame j s = refuse j cStale 2 1 miss u) ∧ (j.fr.sec.tag = tag → forward (freshState (u.rt j.n j.old) (afterRoll j.e (g.rt j.n j.old) j.stamp) false h) j.fr.sec.spdu = true →
      isCounter j.e.profile = false → processFrame j s = slotStage j true lost miss none (bumpStream j.n j.old cPassed (u.updRt j.n j.old (setFresh (afterRoll j.e (g.rt j.n j.old) j.stamp) false h j.fr.sec.spdu)))))) ∧
    (∀ (j : Job) (i cause bit : Nat) (verified miss key time : Bool) (sec : Option SecOut) (s : State), refuse j i cause bit miss s = jobDrop j (captureFailure j i miss (raiseEvent .fe j.f bit (streamEvent j.f j.stamp j.quality { entry := j.n, tag := j.e.tag, cause, port := j.port, action := 0, budget := j.e.budget, forwarded := 0, dropped := 0 } (bumpStream j.n j.old i s)))) ∧
      (j.e.slotRate ≠ 0 → slotOk j.e j.stamp j.fr.smpCnt = false → slotStage j verified false miss sec s = refuse j cSlotFailed 3 2 miss s) ∧
      (j.e.slotRate ≠ 0 → slotOk j.e j.stamp j.fr.smpCnt = true → slotStage j verified false miss sec s = policyStage j false false miss sec (if verified then sampleFrom j s else s)) ∧
      (policyStage j false false miss sec s = forwardFrame j true miss false (rewriteOf j.e) (if rewriteOf j.e = 0 then secReceived j.fr else if rewriteOf j.e = 1 then none else sec) (leaveFail j s)) ∧
      (key = true ∨ time = true → ((key = true → j.e.failKey = true) ∧ (time = true →
      j.e.failTime = true) → policyStage j key time miss sec s = (fun (w : Nat) => forwardFrame j (!key) miss true w (if w = 0 then secReceived j.fr else if w = 1 then none else sec) (bumpStream j.n j.old cFailForwarded (enterFail j key time true s))) (if key then rewriteLost j.e else rewriteOf j.e)) ∧
      (key = true ∧ j.e.failKey = false ∨ time = true ∧ j.e.failTime = false →
      policyStage j key time miss sec s = jobDrop j (bumpStream j.n j.old cFailDropped (enterFail j key time false s))))) ∧
    (∀ (q : Call) (entry port : Nat) (frame fr : Frame) (s : State), ready 0x0802 q 8 s = true →
      fr = { frame with port, stamp := s.sck.now, len := q.hdr.inLen } →
      ((s.fe.frames.any fun x => x.pub.any fun p => p.1 == q) = true → exec (.timedPublish q entry port frame) s = .next s) ∧
      ((s.fe.frames.any fun x => x.pub.any fun p => p.1 == q) = false → ∀ f e, s.entryAt entry false = some (f, e) →
      exec (.timedPublish q entry port frame) s = .next ( if f = q.f ∧ 64 ≤ q.hdr.inLen ∧
      q.hdr.inLen ≤ 9216 ∧ port ≤ 11 ∧ (e.kind = 1 ∨ e.kind = 2 ∨ e.kind = 7) ∧
      (e.profile = 0 ∨ entryGenerates e = true) ∧ e.ingress.testBit port = true ∧
      entryMatches e fr = true ∧ q.hdr.inLen ≤ e.maxLen then processFrame { f, n := entry, e, old := false, port, stamp := s.sck.now, quality := s.quality, fr, pub := some (q, s.ctxIdFor q) } s else complete q { code := 0x0101 } s)) ∧
      ((s.fe.frames.any fun x => x.pub.any fun p => p.1 == q) = false → s.entryAt entry false = none →
      exec (.timedPublish q entry port frame) s = .next (complete q { code := 0x0101 } s)))

/-- MKA exchanges, hellos and their expiry, the end of packet numbers, and PORT_MACSEC_SET and GET. An MKPDU whose ICV is right
under a usable CAK, on a MACsec port with its link up, makes that CAK the one in force and records the server, the peers
and its time. Below Restrict a SAK comes with it: of the module, drawn while its random numbers are ready and sent wrapped,
or of the peer, unwrapped (R224, R225). A SAK installed is the transmit association, with packet number 1 and its pad, the
one before it the old one unless the CAK has changed; at most four receive channels have it; no condition of the port
stands (R165, R224, R226). Without MACsec, a link, a usable CAK or a right ICV an exchange does nothing (R224). Every 2 s
such a port sends an MKA hello, and not before; 6 s without an MKPDU its peers are gone and the condition of lost peers
stands (R224, R225). A MACsec port whose packet number has passed its last has the condition of exhaustion, and no other
has (R223). PORT_MACSEC_SET sets the priority, the replay window and, where it differs from the one in force, the next CAK,
none or a loaded key of its kind; an absent port, an HSR member or a value out of range is INPUT_REJECTED, another key
refused (R224). PORT_MACSEC_GET answers 16 bytes: the port, its priority, replay window and CAK, and whether it is the key
server and secured; an absent port is INPUT_REJECTED (R224). -/
def Obligations.MacsecAgreesKeys : Prop :=
    (∀ (port : Nat) (pdu : MkaPdu) (k : LoadedKey) (s u : State), s.running = true ∧ s.macsecOn port = true ∧ (s.port port).linkUp = true →
      cakUsable s ((s.port port).cakNext.getD (s.port port).cak) = true ∧ s.key? ((s.port port).cakNext.getD (s.port port).cak) = some k →
      pdu.icv = cmac k.work.ick pdu.body →
      u = s.updPort port (fun v => { v with cak := (s.port port).cakNext.getD (s.port port).cak, cakNext := none, keyServer := pdu.server, livePeers := pdu.peers, lastMkpdu := s.sck.now }) →
      (pdu.sak = none ∨ 1 ≤ s.level → exec (.mkaExchange port pdu) s = .next u) ∧
      (∀ m, pdu.sak = some m → s.level = 0 → pdu.server = true → exec (.mkaExchange port pdu) s = .next (if s.rnu.st = .ready then installSak port m (draw 32 u).1 ((s.port port).cakNext.isSome && (s.port port).cak != (s.port port).cakNext.getD (s.port port).cak) (sendPort port 6 (.mkpdu (some (m.an, keyWrap k.work.kek (draw 32 u).1))) (draw 32 u).2) else u)) ∧
      (∀ m, pdu.sak = some m → s.level = 0 → pdu.server = false → exec (.mkaExchange port pdu) s = .next (match keyUnwrap k.work.kek m.wrapped with | none => u | some sak => installSak port m sak ((s.port port).cakNext.isSome && (s.port port).cak != (s.port port).cakNext.getD (s.port port).cak) u))) ∧
    (∀ (p : Nat) (m : MkaSak) (sak : Bytes) (replace : Bool) (s : State), ((installSak p m sak replace s).port p).txSa = some { an := m.an, nextPn := 1, sak, ssci := m.ssci, salt := m.salt, pad := padOf sak (macsecIv (s.portXpn p) (s.sci p) m.ssci m.salt 1) } ∧
      ((installSak p m sak replace s).port p).txOld = (if replace then none else (s.port p).txSa) ∧
      ((installSak p m sak replace s).port p).rxChannels = newChannels (s.portXpn p) sak m.salt (if replace then [] else (s.port p).rxChannels) (m.peers.take 4) ∧
      ((installSak p m sak replace s).port p).conds = [] ∧ ∀ c ∈ (s.port p).conds, recNow 0x22 0x7F (.portEvent p 4 c) s ∈ (installSak p m sak replace s).arc.staging) ∧
    (∀ (port : Nat) (pdu : MkaPdu) (s : State), s.running = true →
      (s.macsecOn port = false ∨ (s.port port).linkUp = false ∨ cakUsable s ((s.port port).cakNext.getD (s.port port).cak) = false ∨ ∀ k, s.key? ((s.port port).cakNext.getD (s.port port).cak) = some k →
      pdu.icv ≠ cmac k.work.ick pdu.body) →
      exec (.mkaExchange port pdu) s = .next s) ∧
    (∀ (port : Nat) (s : State), s.running = true →
      exec (.mkaHello port) s = .next (if s.macsecOn port = true ∧ (s.port port).linkUp = true ∧
      cakUsable s ((s.port port).cakNext.getD (s.port port).cak) = true ∧ (s.port port).lastHello + 2000000000 ≤ s.sck.now then sendPort port 6 (.mkpdu none) (s.updPort port fun v => { v with lastHello := s.sck.now }) else s) ∧
      exec (.mkaLifeExpiry port) s = .next (if s.macsecOn port = true ∧ (s.port port).linkUp = true ∧
      (s.port port).livePeers ≠ [] ∧ (s.port port).lastMkpdu + 6000000000 ≤ s.sck.now then addCond port 1 (s.updPort port fun v => { v with livePeers := [] }) else s)) ∧
    (∀ (port : Nat) (s : State), s.running = true →
      (∀ a, s.macsecOn port = true → (s.port port).txSa = some a → lastPn (s.portXpn port) < a.nextPn →
      exec (.pnExhausted port) s = .next (addCond port 4 s)) ∧ (s.macsecOn port = false ∨ (∀ a, (s.port port).txSa = some a →
      a.nextPn ≤ lastPn (s.portXpn port)) → exec (.pnExhausted port) s = .next s)) ∧
    (∀ (q : Call) (port priority replay cak : Nat) (s : State), ready 0x0B02 q 0 s = true →
      (∀ code, cak ≠ 0 → findKey 0 cak [0x30] useMka s = .fail code → exec (.portMacsecSet q port priority replay cak) s = .next (complete q { code } s)) ∧
      (cak = 0 ∨ (∃ k, findKey 0 cak [0x30] useMka s = .found k) → exec (.portMacsecSet q port priority replay cak) s = .next ( if s.portAbsent port = true ∨ s.hsrMember port = true ∨ 255 < priority ∨ 65535 < replay then complete q { code := 0x0101 } s else complete q { code := 0 } (s.updPort port fun v => { v with keyServerPrio := priority, replayWindow := replay, cakNext := if cak = v.cak then none else some cak })))) ∧
    (∀ (q : Call) (port : Nat) (s : State), ready 0x0B03 q 16 s = true →
      exec (.portMacsecGet q port) s = .next (if s.portAbsent port then complete q { code := 0x0101 } s else complete q { code := 0, resultLen := 16, output := leBytes 1 port ++ leBytes 1 (s.port port).keyServerPrio ++ leBytes 2 0 ++ leBytes 4 (s.port port).replayWindow ++ leBytes 4 ((s.port port).cakNext.getD (s.port port).cak) ++ leBytes 1 (b2n (s.port port).keyServer + 2 * b2n (s.secured port)) ++ leBytes 3 0 } s))

/-- Links, LAN supervision, duplicate sources, frames of the cores, port and stream counters, and port and pair settings. A
link comes up only on an enabled port whose pair agrees on its mode, outside hold and recovery: without associations,
counted, with its event, and under the condition of none where it has MACsec; one that goes down loses the copies that wait
there, and a pair member is dead (R207, R211, R217, R226). A pair member on which nothing was received for the dead
interval is dead, counted once; no other port is (R217). A source silent for the forget time is forgotten by its pair, in
each of its tables, and no other is (R215). Each pair sends its supervision frame on both members from its own address
under one number of its counter (R199, R213, R218). A frame of the cores waits at its port in the queue of its class, with
the next packet number where MACsec is up; none before forwarding or on a port that is off, and on a link that is down or
at a full buffer it is counted there (R204 to R207, R663; the last two log entry 70). A latch of port counters takes the 19
counters of a port of the module, or none of ports 12 to 15 (R232); one of stream counters takes the fourteen of a used
entry of the function's own, first restarted if in error, or marks it unused or not owned (R190, R191). A write of a port's
settings waits to be stored with its ENABLE, PTP and quality fields, and while the port will be disabled with its MACsec
fields and, on ports 4 to 11, a MODE that its plans' load allows, else MODE_REFUSED is set; a write that asks so clears it;
with a mode the port has not, or to an absent port, it is void (R200, R691). A write of a pair's settings with every value
in range waits to be stored; a change of KIND clears the pair's tables at once, but while a member is enabled it sets
KIND_REFUSED alone; one out of range is void (R211). -/
def Obligations.PortsAndPairs : Prop :=
    (∀ (port : Nat) (s y z : State), s.running = true →
      y = stageRec 0x22 0x7F (.portEvent port 1 1) (bumpPort port pTransitions 1 (s.updPort port fun v => { v with linkUp := true, lastRx := s.sck.now, txSa := none, txOld := none, rxChannels := [], livePeers := [] })) →
      z = loseAll pLinkDown (s.fe.copies.filter fun c => c.port == port) (stageRec 0x22 0x7F (.portEvent port 1 0) (bumpPort port pTransitions 1 (s.updPort port fun v => { v with linkUp := false }))) →
      ((s.port port).linkUp = false → s.portOn port = true → s.mismatch port = false →
      s.pwr.phase ≠ 5 → s.pwr.phase ≠ 6 → exec (.portLinkChange port true) s = .next (if y.macsecOn port then addCond port 0 y else y)) ∧
      ((s.port port).linkUp = false → s.portOn port = false ∨ s.mismatch port = true ∨ s.pwr.phase = 5 ∨ s.pwr.phase = 6 →
      exec (.portLinkChange port true) s = .next s) ∧ ((s.port port).linkUp = true →
      exec (.portLinkChange port false) s = .next (if (z.pairOf port).isNone || (z.port port).lanDead then z else stageRec 0x22 0x7F (.portEvent port 2 1) (bumpPort port pLanDead 1 (z.updPort port fun v => { v with lanDead := true })))) ∧
      (∀ up, (s.port port).linkUp = up → exec (.portLinkChange port up) s = .next s)) ∧
    (∀ (port i kind : Nat) (s : State), s.running = true →
      (s.pairOf port = none → exec (.lanDeadTimeout port) s = .next s) ∧ (s.pairOf port = some (i, kind) →
      exec (.lanDeadTimeout port) s = .next (if s.sck.now < (s.port port).lastRx + s.deadInterval i ∨ (s.port port).lanDead = true then s else stageRec 0x22 0x7F (.portEvent port 2 1) (bumpPort port pLanDead 1 (s.updPort port fun v => { v with lanDead := true }))))) ∧
    (∀ (pair src : Nat) (s : State), s.running = true →
      exec (.dupSourceForget pair src) s = .next ((fun (g : Tbl DupSource → Tbl DupSource) => s.setPair pair { s.pair pair with dup := g (s.pair pair).dup, passed0 := g (s.pair pair).passed0, passed1 := g (s.pair pair).passed1 }) (fun t => match Tbl.find? src t with | none => t | some d => if d.last + s.forgetTime pair ≤ s.sck.now then Tbl.del src t else t))) ∧
    (∀ (s : State), s.running = true →
      exec .supervisionSend s = .next ((fun (g : Nat → State → State) => g 3 (g 2 (g 1 (g 0 s)))) (fun i x => if x.pairKind i = 0 then x else (fun (n : Nat) (y : State) => sendCore (5 + 2 * i) (s.ownMac i) 6 (y.redFor (5 + 2 * i) n) (.supervision (s.ownMac i)) (sendCore (4 + 2 * i) (s.ownMac i) 6 (y.redFor (4 + 2 * i) n) (.supervision (s.ownMac i)) y)) (x.pair i).seq (if x.ptpOn (4 + 2 * i) && x.ptpOn (5 + 2 * i) then x else x.setPair i { x.pair i with seq := ((x.pair i).seq + 1) % 65536 })))) ∧
    (∀ (p src tclass : Nat) (red : Option (Nat × Nat)) (x : CoreFrame) (s : State), (s.portOn p = false ∨ s.fe.forwarding = false → sendCore p src tclass red x s = s) ∧
      (s.portOn p = true → s.fe.forwarding = true → (s.port p).linkUp = false →
      sendCore p src tclass red x s = bumpPort p pLinkDown 1 s) ∧ (s.portOn p = true →
      s.fe.forwarding = true → (s.port p).linkUp = true → txBuffer < (s.port p).buffer + ((Config.coreBytes src red x).length + 4) →
      sendCore p src tclass red x s = bumpPort p pEgressFull 1 s) ∧ (s.portOn p = true →
      s.fe.forwarding = true → (s.port p).linkUp = true → (s.port p).buffer + ((Config.coreBytes src red x).length + 4) ≤ txBuffer →
      s.macsecOn p = false ∨ s.macsecDown p = true ∨ isEapol x = true → sendCore p src tclass red x s = (fun (c : TxCopy) => { s with fe := { s.fe with nextId := s.fe.nextId + 1, copies := s.fe.copies ++ [c], ports := Tbl.put p { s.port p with buffer := (s.port p).buffer + c.len } s.fe.ports } }) { id := s.fe.nextId, port := p, tclass, at_ := s.sck.now, len := (Config.coreBytes src red x).length + 4, redSeq := red.map (·.1), core := some (src, x) })) ∧
    (∀ (port f entry : Nat) (error : Bool) (s : State), reaches 0 s = true ∧ reaches f s = true ∧ entry < 131072 →
      exec (.portCounterLatch port) s = .next { s with fe := { s.fe with portLatch := { entry := port % 16, valid := true, data := if port % 16 < 12 then (List.range 19).map (portCounter s (port % 16)) else [] } } } ∧
      (∀ p, s.part? f = some p → p.base ≤ entry → entry < p.base + p.size → exec (.streamCounterLatch f entry error) s = .next ((fun (x : State) => { x with fe := { x.fe with latch := Tbl.put f (if (x.entryAt entry false).isSome then { entry, valid := true, lost := (x.rt entry false).continuityLost, data := fourteen (x.rt entry false).counters } else { entry, valid := true, unused := true }) x.fe.latch } }) (if error then counterError entry false s else s))) ∧
      ((∀ p, s.part? f = some p → ¬ (p.base ≤ entry ∧ entry < p.base + p.size)) →
      exec (.streamCounterLatch f entry error) s = .next { s with fe := { s.fe with latch := Tbl.put f { entry, valid := true, notOwned := true } s.fe.latch } })) ∧
    (∀ (port value old : Nat) (s : State), reaches 0 s = true →
      old = s.soon (portKey port) (s.portCfg port) →
      (s.portAbsent port = true ∨ 4 ≤ port ∧ (fieldOf value 3 1 = 0 ∨ 3 < fieldOf value 3 1) →
      exec (.portCfgWrite port value) s = .next s) ∧ (s.portAbsent port = false →
      port < 4 ∨ fieldOf value 3 1 ≠ 0 ∧ fieldOf value 3 1 ≤ 3 → exec (.portCfgWrite port value) s = .next ((fun (v refused : Nat) => queueWrite (portKey port) (setField v 10 10 0) { s with rw := Tbl.put (portKey port) (setField (s.portCfg port) 10 10 refused) s.rw }) ((fun v1 => if bitOf old 0 then v1 else (fun v2 => if port < 4 ∨ modeRefused s port (fieldOf value 3 1) = true then v2 else setField v2 3 1 (fieldOf value 3 1)) (setField v1 6 4 (fieldOf value 6 4))) (setField (setField old 0 0 value) 9 7 (fieldOf value 9 7))) (if 4 ≤ port ∧
      bitOf old 0 = false ∧ fieldOf value 3 1 ≠ fieldOf old 3 1 ∧ modeRefused s port (fieldOf value 3 1) = true then 1 else if bitOf value 10 then 0 else fieldOf (s.portCfg port) 10 10)))) ∧
    (∀ (pair value : Nat) (s : State), reaches 0 s = true →
      (3 < pair ∨ fieldOf value 1 0 = 3 ∨ fieldOf value 15 4 < 10 ∨ 4000 < fieldOf value 15 4 ∨ fieldOf value 25 16 < 10 ∨ 1000 < fieldOf value 25 16 →
      exec (.pairCfgWrite pair value) s = .next s) ∧ (pair ≤ 3 → fieldOf value 1 0 ≠ 3 →
      10 ≤ fieldOf value 15 4 → fieldOf value 15 4 ≤ 4000 → 10 ≤ fieldOf value 25 16 →
      fieldOf value 25 16 ≤ 1000 → exec (.pairCfgWrite pair value) s = .next ( if fieldOf value 1 0 ≠ s.pairKind pair ∧
      (bitOf (s.portCfg (4 + 2 * pair)) 0 = true ∨ bitOf (s.portCfg (5 + 2 * pair)) 0 = true) then { s with rw := Tbl.put (pairKey pair) (setField (s.pairCfg pair) 2 2 1) s.rw } else (fun x => queueWrite (pairKey pair) (fieldOf value 1 0 + 16 * fieldOf value 15 4 + 65536 * fieldOf value 25 16) (if fieldOf value 1 0 = s.pairKind pair then x else setKind pair (fieldOf value 1 0) x)) { s with rw := Tbl.put (pairKey pair) (setField (s.pairCfg pair) 2 2 (if bitOf value 2 then 0 else fieldOf (s.pairCfg pair) 2 2)) s.rw }))) ∧
    (∀ (i kind : Nat) (s : State), kind < 4 →
      (setKind i kind s).pair i = { s.pair i with dup := [], nodes := [], passed0 := [], passed1 := [] } ∧
      (setKind i kind s).pairCfg i = setField (s.pairCfg i) 1 0 kind)

/-- Archive and journal readouts, capture windows, releases of archive zones, and TIME_STEP. ARCHIVE_READ of a well-formed
selection offers its readout through the data port and changes no log; any other is INPUT_REJECTED. A verbatim readout has
the records of its SEQ range, a filtered one those between its stamps that the caller may read and its filter takes, both
in SEQ order (R272, R273, R486). CAPTURE_WINDOW of a group of 1 to 4,095 between two stamps in order and at most 3,600 s
apart, the second not past, becomes a window under the lowest free number, its DETAIL, with its record if its start has
come; with 1,024 windows it is REFUSED_FULL, and otherwise INPUT_REJECTED (R255 to R257, R487). ARCHIVE_RELEASE authorised
by two security officers of domain 0, over a checkpoint of the current epoch and a MIN_AGE of at most 3,650 days, appends
what is staged and releases the closed zones of the event and window logs before it and older than MIN_AGE, 365 days for 0,
with the RELEASE record and a checkpoint, and answers their number (R279, R488). The erasure of released zones erases each,
and none is left to erase (R279). JOURNAL_READ authorised by an auditor of the caller's domain offers the entries made of
an index range within the journal's 16,384, the oldest first (R488, R614). TIME_STEP authorised by a security officer of
domain 0 arranges a step to a reference of 0 to 2 at the next tick, and completes there; while one waits it is not
performed (R51, R489). A request of the three that is refused, or whose PARAMS are out of range, is INPUT_REJECTED with its
reason, and changes nothing else (R471). -/
def Obligations.ArchiveOperations : Prop :=
    (∀ (q : Call) (spec : ReadSpec) (s : State), ready 0x0701 q 0 s = true →
      exec (.archiveRead q spec) s = .next (if spec.kind ≤ 1 ∧ spec.log ≤ 2 ∧
      spec.from_ ≤ spec.to_ ∧ (spec.kind = 0 ∨ stampValid spec.from_ = true ∧
      stampValid spec.to_ = true) ∧ (spec.kind = 0 → spec.filter = 0) ∧ spec.types.length ≤ 8 ∧
      (bitOf spec.filter 2 = true ↔ spec.types ≠ []) then complete q { code := 0 } (offerBytes q (readoutBytes spec q.f s) s) else complete q { code := 0x0101 } s) ∧
      (spec.kind = 0 → (readout spec q.f s).1 = (s.arc.log spec.log).records.reverse.filter fun r => decide (spec.from_ ≤ r.seq) && decide (r.seq < spec.to_)) ∧
      (spec.kind = 1 → (readout spec q.f s).1 = (s.arc.log spec.log).records.reverse.filter (filterTakes spec q.f))) ∧
    (∀ (q : Call) (group start finish : Nat) (s : State), ready 0x0702 q 0 s = true →
      exec (.captureWindow q group start finish) s = .next ( if group ≠ 0 ∧ group ≤ 4095 ∧
      stampValid start = true ∧ stampValid finish = true ∧ s.sck.now < stampNs finish ∧
      stampNs start ≤ stampNs finish ∧ stampNs finish ≤ stampNs start + 3600000000000 then if 1024 ≤ s.arc.windows.length then complete q { code := 0x0301 } s else (fun (w : CapWindow) => complete q { code := 0, detail := w.number } ((fun x => if w.opened then stageRec 8 q.f (.window w.number group (toStamp w.start) (toStamp w.finish) 0 0 0) x else x) { s with arc := { s.arc with windows := s.arc.windows ++ [w] } })) { number := freeWindow s.arc.windows windowLimit 0, function := q.f, group, start := stampNs start, finish := stampNs finish, opened := decide (stampNs start ≤ s.sck.now) } else complete q { code := 0x0101 } s)) ∧
    (∀ (q : Call) (auth : AuthReq) (r : Nat) (c : Checkpoint) (l : List Nat) (s u : State), ready 0x0703 q 0 s = true →
      authReason auth q.hdr.inLen 0x0703 0 roleOfficer 2 [(0, 14)] s = none ∧ leAt auth.params 12 2 ≤ 3650 →
      leAt auth.params 8 4 = s.arc.epoch ∧ findCheckpoint (leAt auth.params 0 8) s.arc.log0.records = some (r, c) →
      u = drainStaging (acceptRequest auth 0x0703 s) →
      l = Tbl.keys (fun n z => decide (z.firstSeq ≤ z.lastSeq) && ((z.log == 0 && decide (z.lastSeq < r)) || (z.log == 2 && decide (z.lastSeq ≤ c.windowSeq))) && decide (stampNs z.newest + (if leAt auth.params 12 2 = 0 then 365 else leAt auth.params 12 2) * 86400 * 1000000000 < u.sck.now) && !u.arc.released.contains n) u.arc.zones →
      exec (.archiveRelease q auth) s = .next (if l = [] then complete q { code := 0 } u else complete q { code := 0, detail := l.length } ((fun (x : State) => appendCheckpoint false false false (appendRecord (recNow 7 0x7E (.release (signerPair auth.sigs) (leAt auth.params 0 8) l) x) x)) { u with arc := { u.arc with log0 := closeReleased l u.arc.log0, log2 := closeReleased l u.arc.log2, released := u.arc.released ++ l } }))) ∧
    (∀ (s : State), s.running = true →
      Tbl.wf s.arc.zones = true →
      (s.arc.released = [] → exec .zoneReleaseErase s = .next s) ∧ (s.arc.released ≠ [] →
      Answers .zoneReleaseErase s (fun t => ∃ u : State, (∀ n ∈ s.arc.released, Tbl.find? n u.arc.zones = none) ∧
      t = afterRelease { u with arc := { u.arc with released := [], stopped := false } }))) ∧
    (∀ (q : Call) (auth : AuthReq) (s u : State), ready 0x0704 q 0 s = true →
      authReason auth q.hdr.inLen 0x0704 q.f roleAuditor 1 [(0, 8)] s = none →
      leAt auth.params 0 4 + leAt auth.params 4 4 ≤ 16384 ∧ u = acceptRequest auth 0x0704 s →
      exec (.journalRead q auth) s = .next (complete q { code := 0 } (offerBytes q ((u.tm.journal.reverse.filter fun j => decide (leAt auth.params 0 4 ≤ j.index) && decide (j.index < leAt auth.params 0 4 + leAt auth.params 4 4)).map journalBytes).flatten u))) ∧
    (∀ (q : Call) (auth : AuthReq) (s u : State), ready 0x0801 q 16 s = true →
      u = acceptRequest auth 0x0801 s →
      (s.sck.stepTo ≠ none → exec (.timeStep q auth) s = .next s) ∧ (s.sck.stepTo = none →
      authReason auth q.hdr.inLen 0x0801 0 roleOfficer 1 [(0, 1), (8, 8)] s = none →
      leAt auth.params 0 1 ≤ 2 → exec (.timeStep q auth) s = .next { u with sck := { u.sck with stepTo := some (leAt auth.params 0 1), stepCall := some (q, u.ctxIdFor q, leAt auth.params 8 8) } })) ∧
    (∀ (q : Call) (auth : AuthReq) (reason : Nat) (s : State), (ready 0x0703 q 0 s = true → (authReason auth q.hdr.inLen 0x0703 0 roleOfficer 2 [(0, 14)] s = some reason ∨ authReason auth q.hdr.inLen 0x0703 0 roleOfficer 2 [(0, 14)] s = none ∧
      reason = 0x010A ∧ (leAt auth.params 8 4 ≠ s.arc.epoch ∨ findCheckpoint (leAt auth.params 0 8) s.arc.log0.records = none ∨ 3650 < leAt auth.params 12 2)) →
      exec (.archiveRelease q auth) s = .next (complete q { code := 0x0101, detail := reason } s)) ∧
      (ready 0x0704 q 0 s = true → (authReason auth q.hdr.inLen 0x0704 q.f roleAuditor 1 [(0, 8)] s = some reason ∨ authReason auth q.hdr.inLen 0x0704 q.f roleAuditor 1 [(0, 8)] s = none ∧
      reason = 0x010A ∧ 16384 < leAt auth.params 0 4 + leAt auth.params 4 4) →
      exec (.journalRead q auth) s = .next (complete q { code := 0x0101, detail := reason } s)) ∧
      (ready 0x0801 q 16 s = true → s.sck.stepTo = none → (authReason auth q.hdr.inLen 0x0801 0 roleOfficer 1 [(0, 1), (8, 8)] s = some reason ∨ authReason auth q.hdr.inLen 0x0801 0 roleOfficer 1 [(0, 1), (8, 8)] s = none ∧
      reason = 0x010A ∧ 2 < leAt auth.params 0 1) → exec (.timeStep q auth) s = .next (complete q { code := 0x0101, detail := reason } s)))

/-- LIFECYCLE_REQUEST, debug authorisation and its end, and the JTAG port. Each transition of Table 16-2, asked for by the
signers the table names with its condition met and the installation digest right, is left pending in the three copies, with
its record and event (R626, R627, R628). A request that names the present state while a transition is pending, signed as
that transition needs, cancels it with record and event (R627, R628). A request whose signatures are refused completes with
their reason; one that names no state, breaks PARAMS or the digest, cancels nothing, asks beside a pending one, or for a
transition unlisted or not ready, completes with 0x010A: none changes anything else (R627, R471). A debug token with no
fault of Table 16-8 comes into force for its duration from now, once; one with a fault completes with the first and has no
effect (R639, R640). What Table 16-8 checks: a token of the module, boot and state, its scope permitted, in time, its
signers those of the state and its signatures right, while no other is in force, has no fault; and a token accepted once
has one (R637, R639). A token ends when its duration is over and not before, or when the PF ends it: the cores it halted
run again, with record and event (R640). While the port answers, JTAG_IDCODE shifts out 0xB0880E95 and BYPASS one 0 bit;
without power, or stopped in Scrapped, the port answers nothing (R728, R635). A debug instruction outside the scope of the
token in force, or with no token, acts as BYPASS (R638, R728). Within it, a core is halted and its item re-dispatched while
its groups keep another core, and released; a read that the grants allow, a counter and a scan chain shift out free values;
MANUFACTURE writes what Maker writes (R638, R641). -/
def Obligations.LifeCycleAndDebug : Prop :=
    (∀ (q : Call) (auth : AuthReq) (st t : LifeState) (role n : Nat) (s : State), ready 0x0901 q 0 s = true ∧ s.lcc.st = st ∧ s.lcc.target = none →
      (st, t, role, n) ∈ ([(.maker, .integrator, 5, 1), (.integrator, .fielded, 2, 2), (.integrator, .returned, 4, 1), (.integrator, .returned, 2, 2), (.fielded, .returned, 2, 2), (.fielded, .scrapped, 2, 2), (.returned, .integrator, 5, 1), (.returned, .scrapped, 5, 1)] : List (LifeState × LifeState × Nat × Nat)) →
      authReason auth q.hdr.inLen 0x0901 0 role n [(0, 64)] s = none →
      leAt auth.params 0 1 = lifeCode t ∧ sumFrom (auth.params.take 0x20) 1 = 0 ∧
      (auth.params.drop 0x20).take 32 = (if t = .integrator then digest 1 s.lcc.written.flatten else List.replicate 32 0) →
      (t = .integrator → 1 ≤ s.lcc.written.length ∧ s.lcc.written.length ≤ 2 ∧ s.lcc.dikCert.isSome = true) →
      (t = .fielded → s.key.rootPresent = true) →
      (st = .returned → t = .integrator → ∀ c ∈ [causeLight, causeMesh, causeMonitorFault], causePresent s c = false) →
      exec (.lifecycleRequest q auth) s = .next (complete q { code := 0 } (raiseEvent .lcc 0 0 (securityRec secTransitionSet (lifeCode t) (signerPair auth.sigs) auth.counter ((fun (u : State) => { u with lcc := { s.lcc with target := some t, copies := List.replicate 3 { st, target := some t } } }) (s.updDom 0 fun d => { d with temper := auth.counter })))))) ∧
    (∀ (q : Call) (auth : AuthReq) (st t : LifeState) (role n : Nat) (s : State), ready 0x0901 q 0 s = true ∧ s.lcc.st = st ∧ s.lcc.target = some t →
      (st, t, role, n) ∈ ([(.maker, .integrator, 5, 1), (.integrator, .fielded, 2, 2), (.integrator, .returned, 4, 1), (.integrator, .returned, 2, 2), (.fielded, .returned, 2, 2), (.fielded, .scrapped, 2, 2), (.returned, .integrator, 5, 1), (.returned, .scrapped, 5, 1)] : List (LifeState × LifeState × Nat × Nat)) →
      authReason auth q.hdr.inLen 0x0901 0 role n [(0, 64)] s = none →
      leAt auth.params 0 1 = lifeCode st ∧ sumFrom (auth.params.take 0x20) 1 = 0 ∧
      (auth.params.drop 0x20).take 32 = (if st = .integrator then digest 1 s.lcc.written.flatten else List.replicate 32 0) →
      exec (.lifecycleRequest q auth) s = .next (complete q { code := 0 } (raiseEvent .lcc 0 1 (securityRec secTransitionCancelled (lifeCode st) (signerPair auth.sigs) auth.counter ((fun (u : State) => { u with lcc := { s.lcc with target := none, copies := List.replicate 3 { st, target := none } } }) (s.updDom 0 fun d => { d with temper := auth.counter })))))) ∧
    (∀ (q : Call) (auth : AuthReq) (need : Nat × Nat) (s : State), ready 0x0901 q 0 s = true →
      need = lifeNeeds s (lifeOf (leAt auth.params 0 1)) auth.sigs →
      (∀ r, authReason auth q.hdr.inLen 0x0901 0 need.1 need.2 [(0, 64)] s = some r →
      exec (.lifecycleRequest q auth) s = .next (complete q { code := 0x0101, detail := r } s)) ∧
      (authReason auth q.hdr.inLen 0x0901 0 need.1 need.2 [(0, 64)] s = none →
      (4 < leAt auth.params 0 1 ∨ sumFrom (auth.params.take 0x20) 1 ≠ 0 ∨ (∀ t, lifeOf (leAt auth.params 0 1) = some t →
      (auth.params.drop 0x20).take 32 ≠ (if t = .integrator then digest 1 s.lcc.written.flatten else List.replicate 32 0) ∨ (t = s.lcc.st ∧
      s.lcc.target = none) ∨ (t ≠ s.lcc.st ∧ (s.lcc.target.isSome = true ∨ lifeSigners s.lcc.st t = [] ∨ lifeCondition s t = false)))) →
      exec (.lifecycleRequest q auth) s = .next (complete q { code := 0x0101, detail := 0x010A } s))) ∧
    (∀ (q : Call) (k : DebugToken) (s : State), ready 0x0902 q 0 s = true →
      (tokenReason k q.hdr.inLen s = none → exec (.debugAuthorise q k) s = .next (complete q { code := 0 } (raiseEvent .lcc 0 2 (securityRec secDebugStart k.scope (signerPair k.sigs) k.sigs.length { s with lcc := { s.lcc with token := some { scope := k.scope, until_ := rtcSeconds s + k.duration, signers := k.sigs.map (·.signerId) }, accepted := k :: s.lcc.accepted } })))) ∧
      (∀ r, tokenReason k q.hdr.inLen s = some r → exec (.debugAuthorise q k) s = .next (complete q { code := 0x0101, detail := r } s))) ∧
    (∀ (k : DebugToken) (len : Nat) (s : State), (tokenReason k len s = none → tokenForm k len = true ∧ k.target = s.target ∧
      k.bootId = s.lcc.bootId ∧ k ∉ s.lcc.accepted ∧ k.st = lifeCode s.lcc.st ∧
      k.scope &&& lifeScopes s.lcc.st = k.scope ∧ expired s k.notAfter = false ∧
      tokenSigned s k.sigs = true ∧ sigsVerify s 0 (tokenBytes k) k.sigs = true ∧
      s.lcc.token = none) ∧ (k ∈ s.lcc.accepted → tokenReason k len s ≠ none)) ∧
    (∀ (k : TokenInForce) (s e : State), s.running = true ∧ s.lcc.token = some k →
      e = raiseEvent .lcc 0 3 (securityRec secDebugEnd k.scope (k.signers.foldr (fun x n => x + 2 ^ 256 * n) 0) k.signers.length { s with lcc := { s.lcc with token := none }, ts := { s.ts with cores := Tbl.mapAll (fun _ v => { v with halted := false }) s.ts.cores } }) →
      exec .debugTokenExpiry s = .next (if k.until_ ≤ rtcSeconds s then e else s) ∧
      (reaches 0 s = true → exec .debugEnd s = .next e)) ∧
    (∀ (s : State), s.lcc.token = none →
      exec .debugTokenExpiry s = .next s ∧ (reaches 0 s = true → exec .debugEnd s = .next s)) ∧
    (∀ (a : DebugAct) (core : Nat) (s : State), (canSpare s core = true ↔ ∀ g, g < 14 → ∃ n, n < 48 ∧ n ≠ core ∧ (s.coreRt n).inService = true ∧
      (s.coreRt n).halted = false ∧ (s.coreRt n).testing = false ∧ (s.coreGroups n).testBit g = true) ∧
      (portAnswers s = true ↔ s.pwr.main = true ∧ ¬ (s.pwr.stopped = true ∧ s.lcc.st = .scrapped)) ∧
      (portAnswers s = true → exec .jtagIdcode s = .next { s with out := .jtag 1 0xB0880E95 :: s.out } ∧
      exec .jtagBypass s = .next { s with out := .jtag 2 0 :: s.out }) ∧ (portAnswers s = false →
      exec .jtagIdcode s = .next s ∧ exec .jtagBypass s = .next s ∧ exec (.debugPortAccess a) s = .next s)) ∧
    (∀ (a : DebugAct) (s : State), portAnswers s = true →
      (∀ k, s.lcc.token = some k → k.scope &&& (match a with | .read .. => 15 | .perf _ => 1 | .halt _ | .step _ | .release _ => 2 | .scan => 16 | _ => 32) = 0) →
      exec (.debugPortAccess a) s = .next { s with out := .jtag 2 0 :: s.out }) ∧
    (∀ (a : DebugAct) (k : TokenInForce) (s : State), portAnswers s = true ∧ s.lcc.token = some k →
      k.scope &&& (match a with | .read .. => 15 | .perf _ => 1 | .halt _ | .step _ | .release _ => 2 | .scan => 16 | _ => 32) ≠ 0 →
      exec (.debugPortAccess a) s = .next (match a with | .read addr len => (fun (x : Access) => if isHeld s x = false ∧ (pieces (len / 4096 + 2) addr len).all (fun p => grants s x p.1) = true then emit (.jtag 3 (Config.freeValue s.free).toNat) (access x { s with free := s.free + 1 }) else access x s) { group := 13, addr, len, write := false } | .perf _ => { s with free := s.free + 1, out := .jtag 4 (Config.freeValue s.free).toNat :: s.out } | .halt c => if c < s.coreCount ∧ (s.coreRt c).halted = false ∧ canSpare s c = true then (fun (x : State) => x.setCore c { s.coreRt c with st := if (s.coreRt c).st = .running then .waiting else (s.coreRt c).st, item := none, halted := true }) (match (s.coreRt c).item with | some i => redispatch i s | none => s) else s | .step _ => s | .release c => if c < s.coreCount then s.setCore c { s.coreRt c with halted := false } else s | .scan => { s with free := s.free + 1, out := .jtag 5 (Config.freeValue s.free).toNat :: s.out } | .writeKey key => { s with lcc := { s.lcc with written := s.lcc.written ++ [key] } } | .writeDik d => { s with lcc := { s.lcc with dikCert := some d } } | .writeMesh o => { s with lcc := { s.lcc with mesh := o } }))

/-- SELF_TEST_RUN, rolling tests and their settings. SELF_TEST_RUN of a block that exists and can be tested now, and passes
R644, takes it out of service: a pipeline's ports move to the next, an engine gives its queued operation away, a core takes
no more work; the test begins (R643). A block that does not exist or cannot be run by command completes INPUT_REJECTED, and
one that R644 refuses REFUSED_FULL with the failing check: 1 under test already, 2 a pipeline that cannot be missed, 3 the
last engine or core of a kind. A test whose block is still at work waits; a start that brings the signature does what the
start and then the signature do. With the signature and the block free the test ends: it completes with the signature and 1
if it is the block's, else 0 with a record and event; the block is in service after a pass and out of service after a
failure (R643, R645). ROLLING_TEST in mode 0 stops the tests; in mode 1 with a period of 60 to 86,400 s, where the work
fits one pipeline less, they begin at the next second with pipeline 0, or go on with the new period; other settings are
refused (R648, R652). When a period is due, the next pipeline is taken out of service with its ports moved on, and the one
after it follows a period later; nothing happens when none is due (R648). With the signature of the test the pipeline is
given back after a pass, which is counted; after a failure it stays out, the tests are suspended, and the failure is
counted, recorded and reported (R648, R653). -/
def Obligations.SelfTests : Prop :=
    (∀ (q : Call) (block : Nat) (partly : List (Nat × Nat)) (s : State), ready 0x0A01 q 8 s = true →
      (s.stc.under.find? fun r => r.block == block && decide (r.call = q)) = none →
      testable s block = true ∧ testFault s block = none →
      Answers (.selfTestRun q block none partly) s (fun t => t.stc.under = { block, was := blockInService s block, call := q, ctx := s.ctxIdFor q } :: s.stc.under ∧
      (block / 256 = 1 → t.stc.pipes = s.stc.pipes - (s.stc.pipes &&& 2 ^ (block % 256)) ∧
      t.stc.testing = s.stc.testing ||| 2 ^ (block % 256) ∧ ∀ p ∈ pipePorts (block % 256), Tbl.find? p t.fe.pipeOf = some ((block % 256 + 1) % 4)) ∧
      (block / 256 = 2 → t = (fun (u : State) => { u with stc := t.stc }) (moveQueued (block % 256) (s.setEngine (block % 256) { s.engine (block % 256) with inService := false }))) ∧
      (block / 256 = 3 → t = { s.setCore (block % 256) { s.coreRt (block % 256) with testing := true } with stc := t.stc }) ∧
      (3 < block / 256 → t = { s with stc := t.stc }))) ∧
    (∀ (q : Call) (block : Nat) (sig : Option Nat) (partly : List (Nat × Nat)) (s : State), ready 0x0A01 q 8 s = true →
      (s.stc.under.find? fun r => r.block == block && decide (r.call = q)) = none →
      (testable s block = false → exec (.selfTestRun q block sig partly) s = .next (complete q { code := 0x0101 } s)) ∧
      (∀ d, testable s block = true → testFault s block = some d → exec (.selfTestRun q block sig partly) s = .next (complete q { code := 0x0301, detail := d } s)) ∧
      ((∃ r ∈ s.stc.under, r.block = block) → testFault s block = some 1) ∧ (testFault s block = some 2 →
      block / 256 = 1 ∧ ((∃ m, m < 4 ∧ m ≠ block % 256 ∧ s.stc.pipes.testBit m = false) ∨ (s.stc.rolling = true ∧
      s.stc.rollSuspended = false) ∨ shortFits s = false)) ∧ (testFault s block = some 3 →
      blockInService s block = true ∧ (block / 256 = 2 ∨ (block / 256 = 3 ∧ canSpare s (block % 256) = false)))) ∧
    (∀ (q : Call) (block v : Nat) (partly : List (Nat × Nat)) (r : TestRun) (s t : State), ready 0x0A01 q 8 s = true →
      ((s.stc.under.find? fun x => x.block == block && decide (x.call = q)) = some r →
      exec (.selfTestRun q block none partly) s = .next s ∧ (blockFree s r.block = false →
      exec (.selfTestRun q block (some v) partly) s = .next s)) ∧ ((s.stc.under.find? fun x => x.block == block && decide (x.call = q)) = none →
      testable s block = true → testFault s block = none → exec (.selfTestRun q block none partly) s = .next t →
      ready 0x0A01 q 8 t = true → exec (.selfTestRun q block (some v) partly) s = exec (.selfTestRun q block (some v) partly) t)) ∧
    (∀ (q : Call) (block v : Nat) (partly : List (Nat × Nat)) (r : TestRun) (s x : State), ready 0x0A01 q 8 s = true →
      (s.stc.under.find? fun y => y.block == block && decide (y.call = q)) = some r →
      blockFree s r.block = true →
      x = { s with stc := { s.stc with under := s.stc.under.filter fun y => y.block != r.block } } →
      ∃ (pass : Bool) (u : State), (pass = true ↔ testExpected r.block = some (v % 2 ^ 64)) ∧
      (r.block / 256 = 1 → u.stc.pipes = (if pass then s.stc.pipes ||| 2 ^ (r.block % 256) else s.stc.pipes) ∧
      u.stc.testing = s.stc.testing - (s.stc.testing &&& 2 ^ (r.block % 256)) ∧
      (pass = true → u.fe.pipeOf = (pipePorts (r.block % 256)).foldl (fun t p => Tbl.del p t) s.fe.pipeOf) ∧
      (pass = false → u.fe = s.fe)) ∧ (r.block / 256 = 2 → u = (fun (y : State) => if r.was = pass then y else engineRec (r.block % 256) (y.engine (r.block % 256)) (raiseEvent .pke 0 (if pass then 3 else 2) y)) (x.setEngine (r.block % 256) { s.engine (r.block % 256) with inService := pass })) ∧
      (r.block / 256 = 3 → pass = true → u = x.setCore (r.block % 256) { s.coreRt (r.block % 256) with testing := false, st := if (s.coreRt (r.block % 256)).st = .outOfService then .waiting else (s.coreRt (r.block % 256)).st, failures := if (s.coreRt (r.block % 256)).st = .outOfService then [] else (s.coreRt (r.block % 256)).failures }) ∧
      (r.block / 256 = 3 → pass = false → u = noteUnserved ((fun (y : State) => if r.was then raiseEvent .ts 0 2 y else y) (x.setCore (r.block % 256) { s.coreRt (r.block % 256) with testing := false, st := .outOfService }))) ∧
      (3 < r.block / 256 → u = if pass = false ∧ (r.block = 0x400 ∨ r.block = 0x401) then rnuFail (r.block % 256 + 4) 0 false partly x else x) ∧
      exec (.selfTestRun q block (some v) partly) s = .next (complete q { code := 0, detail := b2n pass, resultLen := 8, output := leBytes 8 (v % 2 ^ 64) } (if pass then (if r.was then u else raiseEvent .stc 0 2 u) else raiseEvent .stc 0 0 (securityRec secTestFailed r.block (v % 2 ^ 64) 0 u)))) ∧
    (∀ (q : Call) (mode period : Nat) (s : State), ready 0x0A02 q 0 s = true →
      exec (.rollingTest q 0 period) s = .next (complete q { code := 0 } { s with stc := { s.stc with rolling := false, rollSuspended := false, period := 0 } }) ∧
      (mode ≠ 0 → 1 < mode ∨ period < 60 ∨ 86400 < period → exec (.rollingTest q mode period) s = .next (complete q { code := 0x0101 } s)) ∧
      (60 ≤ period → period ≤ 86400 → exec (.rollingTest q 1 period) s = .next (if shortFits s = false then complete q { code := 0x0301, detail := 2 } s else complete q { code := 0 } (if s.stc.rolling then { s with stc := { s.stc with period } } else { s with stc := { s.stc with rolling := true, rollSuspended := (List.range 4).any fun m => !s.stc.pipes.testBit m, period, nextPipe := 0, nextAt := secondAt (s.sck.now + 1) } })))) ∧
    (∀ (s : State) (sig : Option Nat), s.running = true →
      s.stc.rollPipe = none →
      (s.stc.rolling = true → s.stc.rollSuspended = false → s.stc.nextAt ≤ s.sck.now →
      Answers (.rollingTestPeriod none) s (fun t => t.stc = { s.stc with rollPipe := some s.stc.nextPipe, nextPipe := (s.stc.nextPipe + 1) % 4, nextAt := s.stc.nextAt + s.stc.period * 1000000000, pipes := s.stc.pipes - (s.stc.pipes &&& 2 ^ s.stc.nextPipe), testing := s.stc.testing ||| 2 ^ s.stc.nextPipe } ∧
      (∀ p ∈ pipePorts s.stc.nextPipe, Tbl.find? p t.fe.pipeOf = some ((s.stc.nextPipe + 1) % 4)) ∧
      exec (.rollingTestPeriod sig) s = exec (.rollingTestPeriod sig) t)) ∧ (s.stc.rolling = false ∨ s.stc.rollSuspended = true ∨ s.sck.now < s.stc.nextAt →
      exec (.rollingTestPeriod sig) s = .next s)) ∧
    (∀ (n v : Nat) (s : State), s.running = true →
      s.stc.rollPipe = some n →
      exec (.rollingTestPeriod none) s = .next s ∧ exec (.rollingTestPeriod (some v)) s = .next (if testExpected (0x100 + n) = some (v % 2 ^ 64) then { s with stc := { s.stc with rollPipe := none, testing := s.stc.testing - (s.stc.testing &&& 2 ^ n), pipes := s.stc.pipes ||| 2 ^ n, passes := min 0xFFFFFF (s.stc.passes + 1) }, fe := { s.fe with pipeOf := (pipePorts n).foldl (fun t p => Tbl.del p t) s.fe.pipeOf } } else raiseEvent .stc 0 1 (securityRec secRollingFailed n (v % 2 ^ 64) 0 { s with stc := { s.stc with rollPipe := none, testing := s.stc.testing - (s.stc.testing &&& 2 ^ n), fails := min 255 (s.stc.fails + 1), rollSuspended := s.stc.rolling } })))

/-- MODULE_INFO, CONFIG_SELECT, FIRMWARE_LOAD, FIRMWARE_SELECT and the commit of a trial. MODULE_INFO answers the 64 bytes of
Table 11-19 and changes nothing (R462). CONFIG_SELECT of 0 or 1 sets the configuration of the next module reset, and
another value is refused (R682). FIRMWARE_LOAD into a slot that does not exist, is in use, or of a length outside 64 KiB to
2 MiB is refused; a slot whose transfer runs is loading (R670). Once it has arrived, an image of right format and length,
with the firmware key's signature and a security version not below the floor, fills the slot; one that fails leaves it
empty with the first reason (R667, R670). FIRMWARE_SELECT of a loaded slot gives it the role TRIAL alone, of the running
slot takes TRIAL away, of another is refused (R671). 300 s after forwarding began under a trial, the trial is committed:
its slot is CURRENT and the former one PREVIOUS, the floor is its security version if that is higher, images below it are
not valid, with record and event; before that nothing happens (R669). -/
def Obligations.ModuleAndFirmware : Prop :=
    (∀ (q : Call) (s : State), ready 0x0B01 q 64 s = true →
      exec (.moduleInfo q) s = .next (complete q { code := 0, resultLen := 64, output := leBytes 8 s.ident.siliconId ++ leBytes 1 (b2n s.ident.nx880b) ++ leBytes 1 (b2n s.pwr.lupin) ++ leBytes 1 (b2n s.pwr.lupinNext) ++ leBytes 1 (lifeCode s.lcc.st) ++ leBytes 1 s.level ++ leBytes 1 0xB0 ++ leBytes 2 0 ++ leBytes 4 s.pwr.version ++ beBytes 6 s.ident.baseMac ++ leBytes 38 0 } s)) ∧
    (∀ (q : Call) (config : Nat) (s : State), ready 0x0B05 q 0 s = true →
      exec (.configSelect q config) s = .next (if config ≤ 1 then complete q { code := 0 } { s with pwr := { s.pwr with lupinNext := decide (config = 1) } } else complete q { code := 0x0101 } s)) ∧
    (∀ (q : Call) (length slot : Nat) (image : Option FwImage) (s : State), ready 0x0B06 q 0 s = true →
      (1 < slot → exec (.firmwareLoad q length slot image) s = .next (complete q { code := 0x0101 } s)) ∧
      (slot ≤ 1 → s.pwr.running = some slot ∨ (s.pwr.trial = true ∧ (s.pwr.slot slot).role = 1) →
      exec (.firmwareLoad q length slot image) s = .next (complete q { code := 0x0101, detail := 0x0404 } s)) ∧
      (slot ≤ 1 → s.pwr.running ≠ some slot → ¬ (s.pwr.trial = true ∧ (s.pwr.slot slot).role = 1) →
      (length < 65536 ∨ 2097152 < length → exec (.firmwareLoad q length slot image) s = .next (complete q { code := 0x0101, detail := 0x0401 } s)) ∧
      (65536 ≤ length → length ≤ 2097152 → exec (.firmwareLoad q length slot none) s = .next { s with pwr := s.pwr.setSlot slot { st := 1 } }))) ∧
    (∀ (q : Call) (length slot : Nat) (i : FwImage) (s : State), ready 0x0B06 q 0 s = true →
      slot ≤ 1 ∧ s.pwr.running ≠ some slot ∧ ¬ (s.pwr.trial = true ∧ (s.pwr.slot slot).role = 1) →
      65536 ≤ length ∧ length ≤ 2097152 →
      exec (.firmwareLoad q length slot (some i)) s = .next (if i.formOk = false ∨ i.length ≠ length then complete q { code := 0x0101, detail := 0x0401 } { s with pwr := s.pwr.setSlot slot {} } else if i.signed s.ident.firmware = false then complete q { code := 0x0101, detail := 0x0402 } { s with pwr := s.pwr.setSlot slot {} } else if i.sec < s.pwr.floor then complete q { code := 0x0101, detail := 0x0403 } { s with pwr := s.pwr.setSlot slot {} } else complete q { code := 0 } { s with pwr := s.pwr.setSlot slot { st := 2, role := 0, image := some i } })) ∧
    (∀ (q : Call) (slot : Nat) (s : State) (p : Pwr), ready 0x0B07 q 0 s = true →
      p = { s.pwr with slot0 := if s.pwr.slot0.role = 3 then { s.pwr.slot0 with role := 0 } else s.pwr.slot0, slot1 := if s.pwr.slot1.role = 3 then { s.pwr.slot1 with role := 0 } else s.pwr.slot1, trialPending := false } →
      exec (.firmwareSelect q slot) s = .next (if 1 < slot then complete q { code := 0x0101 } s else if s.pwr.running = some slot then complete q { code := 0 } { s with pwr := p } else if (s.pwr.slot slot).st = 2 then complete q { code := 0 } { s with pwr := { p.setSlot slot { p.slot slot with role := 3 } with trialPending := true } } else complete q { code := 0x0101 } s)) ∧
    (∀ (n floor : Nat) (s : State) (f : FwSlot → FwSlot), s.running = true ∧ s.pwr.withRole 3 = some n →
      floor = max s.pwr.floor (s.pwr.slot n).sec →
      f = (fun (v : FwSlot) => { v with role := if v.role = 3 then 1 else if v.role = 1 then 2 else v.role, st := if v.st = 2 ∧ v.sec < floor then 3 else v.st }) →
      exec .firmwareTrialCommit s = .next (if s.fe.forwarding = true ∧ s.pwr.trial = true ∧
      s.pwr.trialPending = true ∧ s.pwr.forwardAt + 300 * 1000000000 ≤ s.sck.now then raiseEvent .pwr 0 0 (securityRec secTrialCommitted n (s.pwr.slot n).version floor { s with pwr := { s.pwr with slot0 := f s.pwr.slot0, slot1 := f s.pwr.slot1, floor, trial := false, trialPending := false } }) else s)) ∧
    (∀ (s : State), s.pwr.withRole 3 = none →
      exec .firmwareTrialCommit s = .next s)

/-- The 12 V supply, RESET_N, software and watchdog resets, and the beginning of forwarding. When 12 V is good the module
starts with RESET_CAUSE power-on, its standby and backup supplies fed; where the standby domain was not fed the address
straps are sampled (R655, R660, R725). When 12 V fails what is staged is written while the energy lasts, and the main
domain is off: no key is in the cache, no context in the cores, the settings are those stored (R658, R680). RESET_N low
with no Quench in progress holds the module in reset with the main domain's state gone, or, released in time, starts it
with RESET_CAUSE 1; in a Quench the reset waits (R675, R676). Released, RESET_N starts a module held in reset with
RESET_CAUSE 1, and a waiting reset does not hold it (R675). A write of 0x4E58 alone to the reset register orders a module
reset with RESET_CAUSE 2, after a running Quench path (R673, R676). Without a checkpoint for 5 s (3), a dispatch for 2 s of
an item that a core could take (4), or the end of the start for 10 s (5) a watchdog resets the module, with the FINAL
checkpoint if it is signed in time, and fails a trial; before that it does nothing (R669, R674, R677). At the end of phase
3 forwarding begins: the pads of each entry that can use them are filled, time and alert are noted, and each kept window
whose start has passed opens with its record; in another phase nothing happens (R660, R664, R744). -/
def Obligations.ResetsAndStarts : Prop :=
    (∀ (i : StartIn) (s x : State), x = (if s.pwr.standbyFed then { s with pwr := { s.pwr with backupFed := true } } else { s with io := { s.io with a0 := i.a0, a1 := i.a1, ready := true }, pwr := { s.pwr with standbyFed := true, backupFed := true } }) →
      (s.pwr.good = false → Answers (.powerGoodRise i) s (fun t => t = startMain i 0 x ∧
      Started i 0 x t)) ∧ (s.pwr.good = true → exec (.powerGoodRise i) s = .next s)) ∧
    (∀ (s : State), (s.pwr.good = true → Answers .powerGoodFall s (fun t => t.pwr.good = false ∧
      t.pwr.main = false ∧ t.pwr.phase = 0 ∧ t.pwr.standbyFed = s.pwr.standbyIn ∧
      t.key.keys = [] ∧ t.key.rootPresent = false ∧ t.ts = {} ∧ t.tls = {} ∧ t.rnu = {} ∧
      t.stc = {} ∧ t.writes = [] ∧ t.rw = t.store ∧ t.store = s.store ∧ t.fe.forwarding = false ∧
      t.hif.ctxs = [] ∧ t.hif.linkUp = false ∧ t.arc.staging = [] ∧ (s.arc.ready = true →
      t.arc.log0 = (powerDown true (rtcSet s)).arc.log0))) ∧ (s.pwr.good = false →
      exec .powerGoodFall s = .next s)) ∧
    (∀ (held : Bool) (i : StartIn) (s x : State), x = powerDown true (rtcSet s) →
      (s.pwr.good = false ∨ s.pwr.resetHeld = true → exec (.resetNAssert held i) s = .next s) ∧
      (s.pwr.good = true → s.pwr.resetHeld = false → s.tm.quenchBusy = false →
      Answers (.resetNAssert true i) s (fun t => t.pwr.resetHeld = true ∧ t.pwr.good = true ∧
      t.pwr.phase = 0 ∧ t.key.keys = [] ∧ t.ts = {} ∧ t.hif.ctxs = [] ∧ t.fe.forwarding = false ∧
      t.rw = t.store ∧ t.writes = [] ∧ t = { dropMain x with pwr := { (dropMain x).pwr with resetHeld := true } }) ∧
      Answers (.resetNAssert false i) s (fun t => t = startMain i 1 x ∧ Started i 1 x t)) ∧
      (s.pwr.good = true → s.pwr.resetHeld = false → s.tm.quenchBusy = true →
      exec (.resetNAssert held i) s = .next { s with pwr := { s.pwr with resetWaits := some 1, holdNext := held || s.pwr.holdNext } })) ∧
    (∀ (i : StartIn) (s : State), (s.pwr.good = true → s.pwr.resetHeld = true → Answers (.resetNRelease i) s (fun t => t = startMain i 1 s ∧
      Started i 1 s t)) ∧ (s.pwr.good = false ∨ s.pwr.resetHeld = false → exec (.resetNRelease i) s = .next { s with pwr := { s.pwr with holdNext := false } })) ∧
    (∀ (value : Nat) (i : StartIn) (s x : State), reaches 0 s = true →
      x = powerDown true (rtcSet s) →
      (value ≠ 0x4E58 → exec (.moduleResetRequest value i) s = .next s) ∧ (s.tm.quenchBusy = false →
      Answers (.moduleResetRequest 0x4E58 i) s (fun t => t = startMain i 2 x ∧
      Started i 2 x t)) ∧ (s.tm.quenchBusy = true → exec (.moduleResetRequest 0x4E58 i) s = .next { s with pwr := { s.pwr with resetWaits := some (if s.pwr.resetWaits = some 1 then 1 else 2) } })) ∧
    (∀ (cause : Nat) (final : Bool) (i : StartIn) (s x : State), s.running = true →
      x = powerDown final (rtcSet (if s.pwr.trial = true ∧ s.pwr.trialPending = true then { s with pwr := { s.pwr.untried with trialFailed := true } } else s)) →
      ((cause = 3 ∧ s.arc.ready = true ∧ s.arc.stopped = false ∧ s.arc.cpAt + 163840 ≤ s.sck.rtcCount) ∨ (cause = 4 ∧
      s.ts.dispatchAt + 65536 ≤ s.sck.rtcCount ∧ ∃ g, g < 14 ∧ groupServed s g 48 = true ∧
      ∃ id, id ∈ Tbl.get [] s.ts.ready g ∧ ∃ w, s.item? id = some w ∧ w.readyAt + 65536 ≤ s.sck.rtcCount) ∨ (cause = 5 ∧
      s.pwr.phase < 4 ∧ s.pwr.startedAt + 327680 ≤ s.sck.rtcCount) → Answers (.watchdogReset cause final i) s (fun t => t = startMain i cause x ∧
      Started i cause x t)) ∧ ((cause = 3 → s.arc.ready = false ∨ s.arc.stopped = true ∨ s.sck.rtcCount < s.arc.cpAt + 163840) →
      (cause = 4 → s.sck.rtcCount < s.ts.dispatchAt + 65536 ∨ ∀ g, g < 14 → groupServed s g 48 = true →
      ∀ id, id ∈ Tbl.get [] s.ts.ready g → ∀ w, s.item? id = some w → s.sck.rtcCount < w.readyAt + 65536) →
      (cause = 5 → 4 ≤ s.pwr.phase ∨ s.sck.rtcCount < s.pwr.startedAt + 327680) →
      exec (.watchdogReset cause final i) s = .next s)) ∧
    (∀ (ms : Nat) (s : State), Tbl.wf s.fe.entries = true →
      (s.pwr.main = true → s.pwr.phase = 3 → ∃ E : Tbl EntryRt, (∀ n r e, Tbl.find? n s.fe.entries = some r →
      padEntry s n = some e → Tbl.find? n E = some (fillPads s e r)) ∧ (∀ n, padEntry s n = none →
      Tbl.find? n E = Tbl.find? n s.fe.entries) ∧ exec (.forwardingBegin ms) s = .next ((s.arc.windows.filter fun w => !w.opened && decide (w.start ≤ s.sck.now) && decide (s.sck.now < w.finish)).foldl (fun (x : State) (w : CapWindow) => stageRec 8 w.function (.window w.number w.group (toStamp w.start) (toStamp w.finish) 0 w.written w.refused) { x with arc := { x.arc with windows := setWindow { w with opened := true } x.arc.windows } }) { s with fe := { s.fe with entries := E, forwarding := true }, pwr := { s.pwr with phase := 4, startTime := min 0xFFFF ms, forwardAt := s.sck.now }, io := { s.io with alerts := s.io.alerts ||| 8 } })) ∧
      (s.pwr.main = false ∨ s.pwr.phase ≠ 3 → exec (.forwardingBegin ms) s = .next s))

/-- The standby input, Snowdrop, the 12 V range and the loss of the backup supply. With 12 V good, the loss of the standby
input sets its event and alert; without it the standby domain is unfed; a second loss does nothing (R659). When the standby
input returns, the standby and backup supplies are fed, and the straps are sampled where the domain had lost its supply
(R655, R725). In Snowdrop neither the main nor the standby domain is fed; with 12 V good it is not entered (R608). A 12 V
supply outside 10.8 V to 13.2 V sets its event and alert; within, its voltage alone is recorded; none is without 12 V
(R657). When the backup supply is lost in Snowdrop, BBKR, the migration keys it sealed, the staged alarms and the RTC are
lost, the running hours end, and the loss is remembered; what is in NAND stays (R613, R743, R290). -/
def Obligations.SuppliesAndStandby : Prop :=
    (∀ (s : State), (s.pwr.standbyIn = true → s.pwr.good = true → exec .standbyInputLoss s = .next (raiseEvent .pwr 0 4 { s with pwr := { s.pwr with standbyIn := false }, io := { s.io with alerts := s.io.alerts ||| 2 } })) ∧
      (s.pwr.standbyIn = true → s.pwr.good = false → exec .standbyInputLoss s = .next { s with pwr := { s.pwr with standbyIn := false, standbyFed := false }, io := { s.io with ready := false } }) ∧
      (s.pwr.standbyIn = false → exec .standbyInputLoss s = .next s)) ∧
    (∀ (a0 a1 : Bool) (s : State), exec (.standbyInputReturn a0 a1) s = .next { s with pwr := { s.pwr with standbyIn := true, standbyFed := true, backupFed := true }, io := if s.pwr.standbyFed then s.io else { s.io with a0, a1, ready := true } }) ∧
    (∀ (s : State), exec .snowdropEntry s = .next (if s.pwr.good then s else { s with pwr := { s.pwr with main := false, standbyIn := false, standbyFed := false }, io := { s.io with ready := false } })) ∧
    (∀ (mv : Nat) (s : State), exec (.supplyOutOfRange mv) s = .next (if s.pwr.good = false then s else if 10800 ≤ mv ∧
      mv ≤ 13200 then { s with pwr := { s.pwr with mainMv := min 0xFFFF mv } } else raiseEvent .pwr 0 3 { s with pwr := { s.pwr with mainMv := min 0xFFFF mv }, io := { s.io with alerts := s.io.alerts ||| 2 } })) ∧
    (∀ (s : State), (s.pwr.main = false → s.pwr.standbyIn = false → s.pwr.backupFed = true →
      Answers .backupPowerLoss s (fun t => t.key.bbkr = none ∧ t.key.rootPresent = false ∧
      (∀ f, (t.dom f).migKey = none) ∧ t.tm.staging = [] ∧ t.tm.overflow = 0 ∧
      t.tm.bitmap = 0 ∧ t.tm.hours = [] ∧ t.tm.backupLost = true ∧ t.sck.rtcNs = 0 ∧
      t.sck.rtcCount = 0 ∧ t.sck.rtcLost = true ∧ t.arc.hours = rollHours 1 s.arc.hourNow s.arc.hours ∧
      t.arc.hourNow = 0 ∧ t.pwr.backupFed = false ∧ t.tm.journal = s.tm.journal ∧
      t.arc.zones = s.arc.zones ∧ t.key.vault = s.key.vault ∧ t.store = s.store)) ∧
      (s.pwr.main = true ∨ s.pwr.standbyIn = true ∨ s.pwr.backupFed = false →
      exec .backupPowerLoss s = .next s))

/-- Register reads and writes, the stored settings and the SMBus. An aligned 4-byte write writes the register there, an aligned
8-byte one its low and then its high 4 bytes; any other has no effect, nor one to an offset that the function does not have
(R687, R688); a 64-bit register ignores it, though it ends a read in halves (R693). In each function, the data port's abort
and time limit, the key lead and the counter selector; a ring's base, mirror and moderation while it is not active, kept
while it is; its configuration, where ENABLE alone enables or drains it (R418, R420); an MSI-X vector's address, data and
mask, whose clearing sends what is pending (R444); an event register's status, where a bit written 1 is cleared, and its
enable bits (R694, R691); the counter selectors, whose LATCH latches; in the PF the registers whose write is a row act as
the row; the others take a value in range (R692). A read answers the register's value; the read of a denial record clears
it (R695); one of another size or alignment answers zero (R687). Two 4-byte reads of a 64-bit register both come from the
value the first one held, and an 8-byte one answers it whole (R693). A write to the reference priorities (R700), the PTP
domain (R701), the 10 MHz quality (R702) or a reference channel (R703) waits to be stored if every field is in range; out
of range it is void and sets the event. A write of the capture ring's size waits if the size fits the model (R253); one of
a loop's settings if its debounce is in range and, in Fielded, it loosens nothing of what is or will be in force (R598).
The setting written longest ago is stored, leaves the queue of writes and takes effect (R691), a slot clock setting at a
tick (R699). While the SMBus answers, its identity and, unless the module is Scrapped, its status and environment (with
free readings in standby) are read at its address, and nothing else changes (R723); else nothing is read. Accesses that do
not reach the function change nothing, or are answered Unsupported Request (R415, R679). -/
def Obligations.RegisterCommands : Prop :=
    (∀ (f offset len value : Nat) (i : StartIn) (s : State), reaches f s = true →
      (offset % 4 = 0 → exec (.registerWrite f offset 4 value i) s = .next (write4 f offset value i s)) ∧
      (offset % 8 = 0 → exec (.registerWrite f offset 8 value i) s = .next (write4 f (offset + 4) (hi32 value) i (write4 f offset (lo32 value) i s))) ∧
      (¬(len = 4 ∧ offset % 4 = 0) ∧ ¬(len = 8 ∧ offset % 8 = 0) → exec (.registerWrite f offset len value i) s = .next s) ∧
      (offset % 4 = 0 ∧ (63 < f ∨ f ≠ 0 ∧ 0x4000 ≤ offset) ∧ reg64 s f offset = none ∧
      (offset < 4 ∨ reg64 s f (offset - 4) = none) → exec (.registerWrite f offset 4 value i) s = .next s)) ∧
    (∀ (f offset value : Nat) (i : StartIn) (s : State), reaches f s = true ∧ offset % 4 = 0 →
      (reg64 s f offset).isSome = true →
      exec (.registerWrite f offset 4 value i) s = .next (setSplit f offset none s)) ∧
    (∀ (f value : Nat) (i : StartIn) (s : State), reaches f s = true ∧ f ≤ 63 ∧ value < 2 ^ 32 →
      ∀ x ∈ ([(0x0040, if bitOf value 0 then abortPort f false s else s), (0x0044, if 1 ≤ fieldOf value 9 0 ∧
      fieldOf value 9 0 ≤ 600 then { s with rw := Tbl.put (regKey f 0x0044) (fieldOf value 9 0) s.rw } else s), (0x1008, if fieldOf value 13 0 ≤ 10000 then queueWrite (regKey f 0x1008) (fieldOf value 13 0) s else s)] : List (Nat × State)), exec (.registerWrite f x.1 4 value i) s = .next x.2) ∧
    (∀ (f ring value : Nat) (i : StartIn) (s : State), reaches f s = true ∧ f ≤ 63 ∧ value < 2 ^ 32 ∧ ring < 64 →
      ∀ x ∈ ([(0x00, { s.ring f ring with base := value + 2 ^ 32 * hi32 (s.ring f ring).base }), (0x04, { s.ring f ring with base := lo32 (s.ring f ring).base + 2 ^ 32 * value }), (0x08, { s.ring f ring with mirror := value + 2 ^ 32 * hi32 (s.ring f ring).mirror }), (0x0C, { s.ring f ring with mirror := lo32 (s.ring f ring).mirror + 2 ^ 32 * value }), (0x14, { s.ring f ring with modCount := fieldOf value 7 0, modTime := fieldOf value 23 8 })] : List (Nat × Ring)), exec (.registerWrite f (0x1800 + 32 * ring + x.1) 4 value i) s = .next (if (s.ring f ring).active then s else s.setRing f ring x.2)) ∧
    (∀ (f ring value : Nat) (i : StartIn) (s : State), reaches f s = true ∧ f ≤ 63 ∧ value < 2 ^ 32 ∧ ring < 64 →
      (bitOf value 31 = true → exec (.registerWrite f (0x1800 + 32 * ring + 0x10) 4 value i) s = exec (.ringEnable f ring value) s) ∧
      (bitOf value 31 = false ∧ (s.ring f ring).enabled = true → exec (.registerWrite f (0x1800 + 32 * ring + 0x10) 4 value i) s = exec (.ringDrain f ring) s) ∧
      (bitOf value 31 = false ∧ (s.ring f ring).enabled = false → exec (.registerWrite f (0x1800 + 32 * ring + 0x10) 4 value i) s = .next (if (s.ring f ring).active then s else s.setRing f ring { s.ring f ring with sizeExp := fieldOf value 4 0, weight := fieldOf value 15 8, burst := fieldOf value 22 16, vector := fieldOf value 28 24 }))) ∧
    (∀ (f n value a d : Nat) (m : Bool) (i : StartIn) (s : State), reaches f s = true ∧ f ≤ 63 ∧ value < 2 ^ 32 ∧ n < 32 →
      (Tbl.find? n (s.func f).msix.table).getD (0, 0, true) = (a, d, m) →
      ∀ x ∈ ([(0, (value + 2 ^ 32 * hi32 a, d, m)), (4, (lo32 a + 2 ^ 32 * value, d, m)), (8, (a, value, m)), (12, (a, d, bitOf value 0))] : List (Nat × (Nat × Nat × Bool))), exec (.registerWrite f (0x3C00 + 16 * n + x.1) 4 value i) s = .next (sendPending f n (s.updFunc f fun v => { v with msix := { v.msix with table := Tbl.put n x.2 v.msix.table } }))) ∧
    (∀ (f value : Nat) (i : StartIn) (s : State), reaches f s = true ∧ f ≤ 63 ∧ value < 2 ^ 32 →
      ∀ x ∈ (if f = 0 then fnEvents ++ pfEvents else fnEvents), exec (.registerWrite f x.1 4 value i) s = .next (clearEvents x.2.1 f value s) ∧
      exec (.registerWrite f (x.1 + 4) 4 value i) s = .next (if x.2.1 = .pke then queueWrite (regKey 0 0x3408) (value &&& x.2.2) s else { s with ev := Tbl.upd {} (evKey x.2.1 f) (fun r => { r with enable := value &&& x.2.2 }) s.ev })) ∧
    (∀ (f value : Nat) (i : StartIn) (s : State), reaches f s = true ∧ f ≤ 63 ∧ value < 2 ^ 32 →
      exec (.registerWrite f 0x2140 4 value i) s = (if bitOf value 31 then exec (.streamCounterLatch f (fieldOf value 16 0) false) s else .next { s with fe := { s.fe with latch := Tbl.put f { s.latchOf f with entry := fieldOf value 16 0 } s.fe.latch } }) ∧
      (f = 0 → exec (.registerWrite 0 0x2400 4 value i) s = (if bitOf value 31 then exec (.portCounterLatch (fieldOf value 3 0)) s else .next { s with fe := { s.fe with portLatch := { s.fe.portLatch with entry := fieldOf value 3 0 } } }))) ∧
    (∀ (value : Nat) (i : StartIn) (s : State), reaches 0 s = true ∧ value < 2 ^ 32 →
      (∀ x ∈ ([(0x0090, .moduleResetRequest (fieldOf value 15 0) i), (0x3004, .ringZonesWrite value), (0x3820, .testPatternWrite value), (0x6400, .refPriorityWrite value), (0x6410, .ptpCfgWrite value), (0x6420, .tenMhzCfgWrite value), (0x642C, .refChannelWrite value)] : List (Nat × Instr)), exec (.registerWrite 0 x.1 4 value i) s = exec x.2 s) ∧
      (∀ p < 12, exec (.registerWrite 0 (0x2300 + 4 * p) 4 value i) s = exec (.portCfgWrite p value) s) ∧
      (∀ q < 4, exec (.registerWrite 0 (0x2340 + 4 * q) 4 value i) s = exec (.pairCfgWrite q value) s) ∧
      (∀ n < 48, exec (.registerWrite 0 (0x4840 + 4 * n) 4 value i) s = exec (.coreGroupsWrite n value) s) ∧
      (∀ n < 4, exec (.registerWrite 0 (0x5410 + 4 * n) 4 value i) s = exec (.loopCfgWrite n value) s)) ∧
    (∀ (value : Nat) (i : StartIn) (s : State), reaches 0 s = true ∧ value < 2 ^ 32 →
      (∀ x ∈ ([(0x3008, if 1 ≤ fieldOf value 11 0 ∧ fieldOf value 11 0 ≤ 3650 then queueWrite (regKey 0 0x3008) (fieldOf value 11 0) s else s), (0x5430, { s with rw := Tbl.put (regKey 0 0x5430) (fieldOf value 15 0) s.rw }), (0x5828, if bitOf value 0 then endToken s else s)] : List (Nat × State)), exec (.registerWrite 0 x.1 4 value i) s = .next x.2) ∧
      (∀ p < 12, exec (.registerWrite 0 (0x2200 + 4 * p) 4 value i) s = .next (if s.portAbsent p then s else queueWrite (regKey 0 (0x2200 + 4 * p)) (fieldOf value 11 0) s)) ∧
      (∀ p < 12, exec (.registerWrite 0 (0x4A10 + 4 * p) 4 value i) s = .next (if s.portAbsent p ∨ 4096 < fieldOf value 12 0 then s else queueWrite (regKey 0 (0x4A10 + 4 * p)) (fieldOf value 12 0) s)) ∧
      (∀ g < 14, exec (.registerWrite 0 (0x4800 + 4 * g) 4 value i) s = .next (if fieldOf value 7 0 ≠ 0 ∧
      1 ≤ fieldOf value 29 16 ∧ fieldOf value 29 16 ≤ 10000 then queueWrite (regKey 0 (0x4800 + 4 * g)) (fieldOf value 7 0 + 2 ^ 16 * fieldOf value 29 16) s else s))) ∧
    (∀ (value : Nat) (i : StartIn) (s : State), reaches 0 s = true ∧ value < 2 ^ 32 →
      ∀ x ∈ ([(0x6404, decide (100 ≤ fieldOf value 19 0 ∧ fieldOf value 19 0 ≤ 1000000), 0xFFFFF), (0x6408, decide ((10 ≤ fieldOf value 11 0 ∧
      fieldOf value 11 0 ≤ 3600) ∧ 1 ≤ fieldOf value 25 16 ∧ fieldOf value 25 16 ≤ 600), 0x3FF0FFF), (0x640C, decide (1 ≤ fieldOf value 9 0 ∧
      fieldOf value 9 0 ≤ 1000), 0x3FF), (0x6414, logOk (fieldOf value 3 0) && decide (fieldOf value 7 4 ≤ 2) && logOk (fieldOf value 11 8), 0xFFF), (0x6418, true, 0xFFFF), (0x641C, decide (fieldOf value 19 0 ≤ 1000000) && fieldOf value 21 20 != 3, 0x3FFFFF), (0x6424, true, 0xFF), (0x6428, decide (fieldOf value 14 8 ≤ 100), 0x7F01)] : List (Nat × Bool × Nat)), exec (.registerWrite 0 x.1 4 value i) s = .next (if x.2.1 then queueWrite (regKey 0 x.1) (value &&& x.2.2) s else raiseEvent .sck 0 6 s)) ∧
    (∀ (f offset len : Nat) (s : State), reaches f s = true →
      exec (.splitRegisterRead f offset len) s = .next { (barRead f offset len s).2 with out := .read f offset (barRead f offset len s).1 :: (barRead f offset len s).2.out } ∧
      (¬(len = 4 ∧ offset % 4 = 0) ∧ ¬(len = 8 ∧ offset % 8 = 0) → exec (.splitRegisterRead f offset len) s = .next (emit (.read f offset 0) s)) ∧
      (f = 0 → exec (.splitRegisterRead 0 0x5008 4) s = .next { s with ac := { s.ac with record := none }, out := .read 0 0x5008 (reg32 (readView s) 0 0x5008) :: s.out }) ∧
      (offset % 4 = 0 ∧ reg64 (readView s) f offset = none ∧ (offset < 4 ∨ reg64 (readView s) f (offset - 4) = none) ∧
      ¬(f = 0 ∧ offset = 0x5008) → exec (.splitRegisterRead f offset 4) s = .next (emit (.read f offset (reg32 (readView s) f offset)) s))) ∧
    (∀ (f offset v : Nat) (s : State), reaches f s = true ∧ (offset ∈ [0x28, 0x30, 0x38, 0x408, 0x3E00] ∨ f = 0 ∧ offset ∈ [0x80, 0x3810]) →
      reg64 (readView s) f offset = some (v, false) →
      Answers (.splitRegisterRead f offset 8) s (fun t => t.out = .read f offset v :: s.out) ∧
      Answers (.splitRegisterRead f offset 4) s (fun t => t.out = .read f offset (v % 2 ^ 32) :: s.out ∧
      ∀ now < 2 ^ 64, Answers (.splitRegisterRead f (offset + 4) 4) { t with sck := { t.sck with now := now } } (fun u => u.out = .read f (offset + 4) (v / 2 ^ 32 % 2 ^ 32) :: t.out))) ∧
    (∀ (value : Nat) (s : State), reaches 0 s = true →
      ∀ a b d : Nat, fieldOf value 1 0 = a ∧ fieldOf value 3 2 = b ∧ fieldOf value 5 4 = d →
      exec (.refPriorityWrite value) s = .next (if (a = 3 → b = 3 ∧ d = 3) ∧ (b = 3 →
      d = 3) ∧ (a ≠ 3 → a ≠ b ∧ a ≠ d) ∧ (b ≠ 3 → b ≠ d) then queueWrite (regKey 0 0x6400) (value &&& 0x73F) s else raiseEvent .sck 0 6 s)) ∧
    (∀ (value : Nat) (s : State), reaches 0 s = true →
      exec (.ptpCfgWrite value) s = .next (if 6 ≤ fieldOf value 23 16 ∧ fieldOf value 23 16 ≤ 254 then queueWrite (regKey 0 0x6410) (value &&& 0xFFFF07) s else raiseEvent .sck 0 6 s)) ∧
    (∀ (value : Nat) (s : State), reaches 0 s = true →
      exec (.tenMhzCfgWrite value) s = .next (if 1 ≤ fieldOf value 29 16 ∧ fieldOf value 29 16 ≤ 10000 then queueWrite (regKey 0 0x6420) (value &&& 0x3FFF0001) s else raiseEvent .sck 0 6 s)) ∧
    (∀ (value : Nat) (s : State), reaches 0 s = true →
      exec (.refChannelWrite value) s = .next (queueWrite (regKey 0 0x642C) (value &&& 0x81FFFFFF) s)) ∧
    (∀ (value : Nat) (s : State), reaches 0 s = true →
      exec (.ringZonesWrite value) s = .next (if fieldOf value 15 0 ≤ (if s.ident.nx880b then 3725 else 7451) then queueWrite (regKey 0 0x3004) (fieldOf value 15 0) s else s)) ∧
    (∀ (loop value : Nat) (s : State), reaches 0 s = true →
      exec (.loopCfgWrite loop value) s = .next (if loop ≤ 3 ∧ fieldOf value 13 4 ≤ 1000 ∧
      ¬(s.lcc.st = .fielded ∧ loosens (s.soon (regKey 0 (0x5410 + 4 * loop)) (s.loopCfg loop)) (fieldOf value 13 0) = true) then queueWrite (regKey 0 (0x5410 + 4 * loop)) (fieldOf value 13 0) s else s)) ∧
    (∀ (key value : Nat) (l : List (Nat × Nat)) (s u : State), s.running = true →
      u = { s with writes := l, store := Tbl.put key value s.store, rw := Tbl.put key value s.rw } →
      s.writes = (key, value) :: l →
      (65536 ≤ key ∨ key < 0x2300 ∨ (0x2350 ≤ key ∧ key < 0x3004) ∨ (0x3408 < key ∧
      key < 0x5410) → exec .settingStore s = .next u) ∧ (key = 0x3004 → exec .settingStore s = .next (shrinkRing (u.arc.held 1) u)) ∧
      (key = 0x3408 → exec .settingStore s = .next { u with ev := Tbl.upd {} (evKey .pke 0) (fun r => { r with enable := value }) u.ev }) ∧
      (∀ n < 4, key = 0x5410 + 4 * n → exec .settingStore s = .next (applyLoop n u)) ∧
      (∀ n < 12, key = 0x6400 + 4 * n → exec .settingStore s = .next { u with sck := { u.sck with waiting := if u.sck.waiting.contains key then u.sck.waiting else u.sck.waiting ++ [key] } }) ∧
      (∀ p < 12, key = 0x2300 + 4 * p → exec .settingStore s = .next (applyPortCfg p value { u with rw := s.rw })) ∧
      (∀ q < 4, key = 0x2340 + 4 * q → exec .settingStore s = .next (applyPairCfg q value { u with rw := s.rw }))) ∧
    (∀ (s : State), s.running = true →
      s.writes = [] →
      exec .settingStore s = .next s) ∧
    (∀ (address : Nat) (s : State), smbusAnswers s = true ∧ address = smbusAddress s.io →
      exec (.smbusIdentity address) s = .next { s with out := .smbus 0 (smbusIdentity s) :: s.out }) ∧
    (∀ (address : Nat) (s : State), smbusAnswers s = true ∧ address = smbusAddress s.io ∧ scrapped s = false →
      exec (.smbusStatus address) s = .next { s with out := .smbus 2 (smbusStatus s) :: s.out } ∧
      (s.pwr.main = true → exec (.smbusEnvironment address) s = .next { s with out := .smbus 1 (smbusEnvironment s s.pwr.mainMv s.pwr.standbyMv s.pwr.power) :: s.out }) ∧
      (s.pwr.main = false → ∃ v mv power, exec (.smbusEnvironment address) s = .next { s with free := s.free + 3, out := .smbus 1 (smbusEnvironment s v mv power) :: s.out })) ∧
    (∀ (address : Nat) (s : State), smbusAnswers s = false ∨ address ≠ smbusAddress s.io ∨ scrapped s = true →
      exec (.smbusStatus address) s = .next s ∧ exec (.smbusEnvironment address) s = .next s ∧
      (smbusAnswers s = false ∨ address ≠ smbusAddress s.io → exec (.smbusIdentity address) s = .next s)) ∧
    (∀ (f offset len value : Nat) (i : StartIn) (s : State), reaches f s = false →
      ∀ c ∈ ([.registerWrite f offset len value i, .splitRegisterRead f offset len] ++ (if f = 0 then [.refPriorityWrite value, .ptpCfgWrite value, .tenMhzCfgWrite value, .refChannelWrite value, .ringZonesWrite value, .loopCfgWrite offset value] else [])), exec c s = .next (if s.running then { s with out := .unsupported f :: s.out } else s))

/-- SMB_ALERT_N is asserted while an alert cause bit is set, and the Alert Response Address clears them all. the alert is
asserted exactly while some alert cause bit is set; and while it is, the read returns the module's address, no alert cause
bit is left, and the alert is asserted no more; while it is not, or the SMBus does not answer, the module does not answer
the read. While the SMBus answers: -/
def Obligations.SmbusAlert : Prop :=
    (∀ (s : State), smbusAlert s = true ↔ ∃ bit, s.io.alerts.testBit bit = true) ∧
    (∀ (s : State), smbusAnswers s = true ∧ smbusAlert s = true →
      Answers .smbusAlertResponse s (fun t => t = { s with out := .alert (smbusAddress s.io) :: s.out, io := { s.io with alerts := 0 } } ∧
      (∀ bit, t.io.alerts.testBit bit = false) ∧ smbusAlert t = false)) ∧
    (∀ (s : State), smbusAnswers s = false ∨ smbusAlert s = false →
      exec .smbusAlertResponse s = .next s)

/-- A read of a queue with no unread packet returns an idle unit and changes no occupancy and no counter. a read of a queue all
of whose packets have been dropped or read to their end leaves the idle unit as the unit delivered, and nothing else
changes, so no occupancy and no counter does; and a read of any queue in any state answers: it never blocks; while the
module does not run it does nothing. On a running module: -/
def Obligations.IdleRead : Prop :=
    (∀ (queue : Nat) (s : State), s.running = true →
      (∀ p ∈ (s.queue queue).packets, p.dropped = true ∨ (p.started = true ∧ p.len ≤ p.readPos)) →
      exec (.qmRead queue) s = .next { s with ts := { s.ts with lastUnit := { data := List.replicate 64 0, count := 0, sop := false, eop := false, idle := true, lost := false } } }) ∧
    (∀ (queue : Nat) (s : State), (∃ t, exec (.qmRead queue) s = .next t) ∧ (s.running = false → exec (.qmRead queue) s = .next s))

/-- A doorbell value is accepted within 2^k slots beyond H and not behind D; any other halts the function. a value T within the
range becomes D and nothing else changes; T = D leaves the ring as it was, and every other ring; a value T outside it halts
the function with cause 7, DOORBELL_RANGE, and sets the halt's event. A doorbell of a ring that is not enabled, or of a
halted function, is ignored (R428). With D and H 32-bit counts, and the ring enabled on a function that is not halted: -/
def Obligations.DoorbellRange : Prop :=
    (∀ (f i T : Nat) (r : Ring) (s : State), reaches f s = true ∧ (s.func f).halted = false →
      s.ring f i = r ∧ r.enabled = true ∧ r.d < 2 ^ 32 ∧ T < 2 ^ 32 →
      ((T : Int) - r.d) % 2 ^ 32 ≤ ((r.h : Int) + 2 ^ r.sizeExp - r.d) % 2 ^ 32 →
      Answers (.doorbellWrite f i T) s (fun t => t = s.setRing f i { r with d := T } ∧
      (t.ring f i).d = T ∧ (T = r.d → t.ring f i = s.ring f i) ∧ ∀ g j, (g, j) ≠ (f, i) →
      j < 64 → i < 64 → t.ring g j = s.ring g j)) ∧
    (∀ (f i T : Nat) (r : Ring) (s : State), reaches f s = true ∧ (s.func f).halted = false →
      s.ring f i = r ∧ r.enabled = true ∧ r.d < 2 ^ 32 ∧ T < 2 ^ 32 →
      ((r.h : Int) + 2 ^ r.sizeExp - r.d) % 2 ^ 32 < ((T : Int) - r.d) % 2 ^ 32 →
      Answers (.doorbellWrite f i T) s (fun t => t = halt f 7 i 0 T s ∧ (t.func f).halted = true ∧
      (t.func f).haltCause = 7 ∧ (t.func f).haltCount = T ∧ t.event .hif f 0 = true)) ∧
    (∀ (f i T : Nat) (s : State), reaches f s = true →
      (s.func f).halted = true ∨ (s.ring f i).enabled = false →
      exec (.doorbellWrite f i T) s = .next s)

/-- The accuracy class is the smallest class whose limit is at least e. For every e that some limit covers, the class is one of
the table, its limit is at least e, and no smaller class has such a limit. Beyond the last limit, 1 s, the class is 0x0D
(Table 02-9). Classes 0x00 to 0x0C have the limits of Table 02-9 in ns, and e is in units of 1e-20 ns. -/
def Obligations.AccuracyClass : Prop :=
    (∀ (e : Nat), e ≤ 1000000000 * 10 ^ 20 →
      ∃ l, accuracyLimits[accuracyClass e]? = some l ∧ e ≤ l * 10 ^ 20 ∧ ∀ k m, k < accuracyClass e →
      accuracyLimits[k]? = some m → m * 10 ^ 20 < e) ∧
    (∀ (e : Nat), 1000000000 * 10 ^ 20 < e →
      accuracyClass e = 0x0D)

/-- The slot of a grid time, and where a slot begins, at each of the six sampling rates. the slot of a grid time is floor(ns ×
fs / 10^9) of its nanoseconds into the second, so slots restart at every second; it is below fs; slot n begins at ceil(n ×
10^9 / fs) ns into the second, which is the first time of that slot. The slot is a function of grid time alone, so all six
are tracked at once. For each of the six rates, codes 1 to 6: -/
def Obligations.SlotsOfASecond : Prop :=
    ∀ (rate now n : Nat), 1 ≤ rate ∧ rate ≤ 6 →
      n < slotFs rate →
      slotOf now (slotFs rate) = now % 1000000000 * slotFs rate / 1000000000 ∧
      slotOf (now + 1000000000) (slotFs rate) = slotOf now (slotFs rate) ∧ slotOf now (slotFs rate) < slotFs rate ∧
      (n * 1000000000 ≤ slotStart n (slotFs rate) * slotFs rate ∧ slotStart n (slotFs rate) * slotFs rate < n * 1000000000 + slotFs rate) ∧
      slotOf (slotStart n (slotFs rate)) (slotFs rate) = n ∧ (∀ ns < 1000000000, n ≤ slotOf ns (slotFs rate) ↔ slotStart n (slotFs rate) ≤ ns)

/-- A step runs the command at the front of the queue on the state with the queue's rest, and idles on an empty queue. For
every command and state, a step with the command in front is exec of it on that state with the rest of the queue as its
queue; a step on an empty queue changes nothing; and a command sent joins the queue behind those that wait. The queue of
waiting commands, and that a step idles where none waits, are the model's form (log entry 1). -/
def Obligations.StepRunsTheFrontCommand : Prop :=
    (∀ (c : Instr) (rest : List Instr) (s : State), step { s with pending := c :: rest } = exec c { s with pending := rest }) ∧
    (∀ (s : State), s.pending = [] →
      step s = .next s) ∧
    (∀ (c : Instr) (s : State), (s.send c).pending = s.pending ++ [c])

/-- The state after reset is well kept, with the boot rules in force and every store empty. The invariant holds at reset, and
no command waits; the access table is the boot rule set (R569), the journal and the key cache are empty, and no setting
waits to be stored; and the LAN ports are configured as 0x0, the WAN ports as 0x2, and every pair with 0x01900640 (R200,
R211). The values the spec does not give, such as an empty configuration store, are the model's choice (log entries 5 and
6). -/
def Obligations.ResetState : Prop :=
    (Inv State.reset ∧ State.reset.pending = []) ∧
    (State.reset.ac.table = bootRules ∧ State.reset.tm.journal = [] ∧ State.reset.key.keys = [] ∧
      State.reset.writes = [] ∧ State.reset.rw = []) ∧
    (∀ (p i : Nat), State.reset.portCfg p = (if p < 4 then 0 else 2) ∧ State.reset.pairCfg i = 0x01900640)

/-- No command changes the queue or the identity, and each leaves every part it is not listed for as it was. In every state and
for all operands, a command that answers a next state leaves the queue and the module's identity as they were, and every
part of the state outside its list. mayTouch lists for each command the parts it may change (Safety). -/
def Obligations.CommandsLeaveOtherPartsAlone : Prop :=
    ∀ (c : Instr) (s t : State), exec c s = .next t →
      t.pending = s.pending ∧ t.ident = s.ident ∧ (.sck ∉ mayTouch c → t.sck = s.sck) ∧
      (.arc ∉ mayTouch c → t.arc = s.arc) ∧ (.pln ∉ mayTouch c → t.pln = s.pln) ∧
      (.fe ∉ mayTouch c → t.fe = s.fe) ∧ (.hif ∉ mayTouch c → t.hif = s.hif) ∧
      (.ts ∉ mayTouch c → t.ts = s.ts) ∧ (.key ∉ mayTouch c → t.key = s.key) ∧
      (.pke ∉ mayTouch c → t.pke = s.pke) ∧ (.rnu ∉ mayTouch c → t.rnu = s.rnu) ∧
      (.tls ∉ mayTouch c → t.tls = s.tls) ∧ (.ac ∉ mayTouch c → t.ac = s.ac) ∧
      (.tm ∉ mayTouch c → t.tm = s.tm) ∧ (.lcc ∉ mayTouch c → t.lcc = s.lcc) ∧
      (.stc ∉ mayTouch c → t.stc = s.stc) ∧ (.pwr ∉ mayTouch c → t.pwr = s.pwr) ∧
      (.io ∉ mayTouch c → t.io = s.io) ∧ (.ev ∉ mayTouch c → t.ev = s.ev) ∧ (.rw ∉ mayTouch c →
      t.rw = s.rw) ∧ (.store ∉ mayTouch c → t.store = s.store) ∧ (.writes ∉ mayTouch c →
      t.writes = s.writes) ∧ (.out ∉ mayTouch c → t.out = s.out) ∧ (.free ∉ mayTouch c →
      t.free = s.free)

/-- Every step keeps the module well kept. From every state that meets the invariant, whichever command waits in front, a step
that answers a next state answers one that meets it. Inv says: the journal is in order of INDEX from 0 with at most 16,384
entries and is marked full when it holds them all (R614), the lifetime counters are within 32 bits (R618), at most 32
alarms are staged (R610), 1,024 capture windows (R255), 8,192 TLS sessions, 65,536 bytes in Bellows (R407), and the
register tables are in canonical form (the model's). -/
def Obligations.InvariantKept : Prop :=
    ∀ (s t : State), Inv s →
      step s = .next t →
      Inv t

/-- No step erases a journal entry, lowers a lifetime counter or the firmware floor, or mends the scrap fuse. Whatever command
runs in whatever state, the journal before a step is the oldest part of the journal after it (R614), the firmware floor
does not fall (R667), and a blown scrap fuse stays blown (R634); and from a well-kept state no lifetime counter falls
(R618). What an entry keeps is all of it but SUBSUMED and MAC (R601, R614). -/
def Obligations.LastingRecordsAreNeverLost : Prop :=
    (∀ (s t : State), step s = .next t →
      s.journalLasting <:+ t.journalLasting ∧ s.pwr.floor ≤ t.pwr.floor ∧ (s.lcc.scrapFuse = true →
      t.lcc.scrapFuse = true)) ∧
    (∀ (s t : State) (cause : Nat), Inv s →
      step s = .next t →
      Tbl.get 0 s.tm.counters cause ≤ Tbl.get 0 t.tm.counters cause)
end

