-- ==== Sys2Proof/Laws/State.lean ====
section
/-! SUPPORT. Reading a field of a state that a condition chooses. -/

namespace Sys2Proof.Machine

theorem ite_pending (c : Prop) [Decidable c] (s t : State) : (if c then s else t).pending = if c then s.pending else t.pending := by
  split <;> rfl

theorem ite_ident (c : Prop) [Decidable c] (s t : State) : (if c then s else t).ident = if c then s.ident else t.ident := by
  split <;> rfl

theorem ite_sck (c : Prop) [Decidable c] (s t : State) : (if c then s else t).sck = if c then s.sck else t.sck := by
  split <;> rfl

theorem ite_arc (c : Prop) [Decidable c] (s t : State) : (if c then s else t).arc = if c then s.arc else t.arc := by
  split <;> rfl

theorem ite_pln (c : Prop) [Decidable c] (s t : State) : (if c then s else t).pln = if c then s.pln else t.pln := by
  split <;> rfl

theorem ite_fe (c : Prop) [Decidable c] (s t : State) : (if c then s else t).fe = if c then s.fe else t.fe := by
  split <;> rfl

theorem ite_hif (c : Prop) [Decidable c] (s t : State) : (if c then s else t).hif = if c then s.hif else t.hif := by
  split <;> rfl

theorem ite_ts (c : Prop) [Decidable c] (s t : State) : (if c then s else t).ts = if c then s.ts else t.ts := by
  split <;> rfl

theorem ite_key (c : Prop) [Decidable c] (s t : State) : (if c then s else t).key = if c then s.key else t.key := by
  split <;> rfl

theorem ite_pke (c : Prop) [Decidable c] (s t : State) : (if c then s else t).pke = if c then s.pke else t.pke := by
  split <;> rfl

theorem ite_rnu (c : Prop) [Decidable c] (s t : State) : (if c then s else t).rnu = if c then s.rnu else t.rnu := by
  split <;> rfl

theorem ite_tls (c : Prop) [Decidable c] (s t : State) : (if c then s else t).tls = if c then s.tls else t.tls := by
  split <;> rfl

theorem ite_ac (c : Prop) [Decidable c] (s t : State) : (if c then s else t).ac = if c then s.ac else t.ac := by
  split <;> rfl

theorem ite_tm (c : Prop) [Decidable c] (s t : State) : (if c then s else t).tm = if c then s.tm else t.tm := by
  split <;> rfl

theorem ite_lcc (c : Prop) [Decidable c] (s t : State) : (if c then s else t).lcc = if c then s.lcc else t.lcc := by
  split <;> rfl

theorem ite_stc (c : Prop) [Decidable c] (s t : State) : (if c then s else t).stc = if c then s.stc else t.stc := by
  split <;> rfl

theorem ite_pwr (c : Prop) [Decidable c] (s t : State) : (if c then s else t).pwr = if c then s.pwr else t.pwr := by
  split <;> rfl

theorem ite_io (c : Prop) [Decidable c] (s t : State) : (if c then s else t).io = if c then s.io else t.io := by
  split <;> rfl

theorem ite_ev (c : Prop) [Decidable c] (s t : State) : (if c then s else t).ev = if c then s.ev else t.ev := by
  split <;> rfl

theorem ite_rw (c : Prop) [Decidable c] (s t : State) : (if c then s else t).rw = if c then s.rw else t.rw := by
  split <;> rfl

theorem ite_store (c : Prop) [Decidable c] (s t : State) : (if c then s else t).store = if c then s.store else t.store := by
  split <;> rfl

theorem ite_writes (c : Prop) [Decidable c] (s t : State) : (if c then s else t).writes = if c then s.writes else t.writes := by
  split <;> rfl

theorem ite_out (c : Prop) [Decidable c] (s t : State) : (if c then s else t).out = if c then s.out else t.out := by
  split <;> rfl

theorem ite_free (c : Prop) [Decidable c] (s t : State) : (if c then s else t).free = if c then s.free else t.free := by
  split <;> rfl

end Sys2Proof.Machine
end

