-- ==== Sys2Proof/Laws/Ops.lean ====
section
/-! SUPPORT. What the operations of Machine/Ops.lean leave unchanged, once for each: its frame. -/

namespace Sys2Proof.Machine

@[simp] theorem emit_frame (o : Out) (s : State) :
    (emit o s).pending = s.pending ∧ (emit o s).ident = s.ident ∧ (emit o s).sck = s.sck ∧ (emit o s).arc = s.arc ∧
    (emit o s).pln = s.pln ∧ (emit o s).fe = s.fe ∧ (emit o s).hif = s.hif ∧ (emit o s).ts = s.ts ∧ (emit o s).key = s.key ∧
    (emit o s).pke = s.pke ∧ (emit o s).rnu = s.rnu ∧ (emit o s).tls = s.tls ∧ (emit o s).ac = s.ac ∧ (emit o s).tm = s.tm ∧
    (emit o s).lcc = s.lcc ∧ (emit o s).stc = s.stc ∧ (emit o s).pwr = s.pwr ∧ (emit o s).io = s.io ∧ (emit o s).ev = s.ev ∧
    (emit o s).rw = s.rw ∧ (emit o s).store = s.store ∧ (emit o s).writes = s.writes ∧ (emit o s).free = s.free := by
  simp [emit]

@[simp] theorem State.setFunc_frame (f : Nat) (v : Func) (s : State) :
    (State.setFunc f v s).pending = s.pending ∧ (State.setFunc f v s).ident = s.ident ∧ (State.setFunc f v s).sck = s.sck ∧
    (State.setFunc f v s).arc = s.arc ∧ (State.setFunc f v s).pln = s.pln ∧ (State.setFunc f v s).fe = s.fe ∧
    (State.setFunc f v s).ts = s.ts ∧ (State.setFunc f v s).key = s.key ∧ (State.setFunc f v s).pke = s.pke ∧
    (State.setFunc f v s).rnu = s.rnu ∧ (State.setFunc f v s).tls = s.tls ∧ (State.setFunc f v s).ac = s.ac ∧
    (State.setFunc f v s).tm = s.tm ∧ (State.setFunc f v s).lcc = s.lcc ∧ (State.setFunc f v s).stc = s.stc ∧
    (State.setFunc f v s).pwr = s.pwr ∧ (State.setFunc f v s).io = s.io ∧ (State.setFunc f v s).ev = s.ev ∧
    (State.setFunc f v s).rw = s.rw ∧ (State.setFunc f v s).store = s.store ∧ (State.setFunc f v s).writes = s.writes ∧
    (State.setFunc f v s).out = s.out ∧ (State.setFunc f v s).free = s.free := by
  simp [State.setFunc]

@[simp] theorem State.updFunc_frame (f : Nat) (g : Func → Func) (s : State) :
    (State.updFunc f g s).pending = s.pending ∧ (State.updFunc f g s).ident = s.ident ∧ (State.updFunc f g s).sck = s.sck ∧
    (State.updFunc f g s).arc = s.arc ∧ (State.updFunc f g s).pln = s.pln ∧ (State.updFunc f g s).fe = s.fe ∧
    (State.updFunc f g s).ts = s.ts ∧ (State.updFunc f g s).key = s.key ∧ (State.updFunc f g s).pke = s.pke ∧
    (State.updFunc f g s).rnu = s.rnu ∧ (State.updFunc f g s).tls = s.tls ∧ (State.updFunc f g s).ac = s.ac ∧
    (State.updFunc f g s).tm = s.tm ∧ (State.updFunc f g s).lcc = s.lcc ∧ (State.updFunc f g s).stc = s.stc ∧
    (State.updFunc f g s).pwr = s.pwr ∧ (State.updFunc f g s).io = s.io ∧ (State.updFunc f g s).ev = s.ev ∧
    (State.updFunc f g s).rw = s.rw ∧ (State.updFunc f g s).store = s.store ∧ (State.updFunc f g s).writes = s.writes ∧
    (State.updFunc f g s).out = s.out ∧ (State.updFunc f g s).free = s.free := by
  simp [State.updFunc]

@[simp] theorem emitHost_frame (f : Nat) (o : Out) (s : State) :
    (emitHost f o s).pending = s.pending ∧ (emitHost f o s).ident = s.ident ∧ (emitHost f o s).sck = s.sck ∧
    (emitHost f o s).arc = s.arc ∧ (emitHost f o s).pln = s.pln ∧ (emitHost f o s).fe = s.fe ∧ (emitHost f o s).ts = s.ts ∧
    (emitHost f o s).key = s.key ∧ (emitHost f o s).pke = s.pke ∧ (emitHost f o s).rnu = s.rnu ∧ (emitHost f o s).tls = s.tls ∧
    (emitHost f o s).ac = s.ac ∧ (emitHost f o s).tm = s.tm ∧ (emitHost f o s).lcc = s.lcc ∧ (emitHost f o s).stc = s.stc ∧
    (emitHost f o s).pwr = s.pwr ∧ (emitHost f o s).io = s.io ∧ (emitHost f o s).ev = s.ev ∧ (emitHost f o s).rw = s.rw ∧
    (emitHost f o s).store = s.store ∧ (emitHost f o s).writes = s.writes ∧ (emitHost f o s).free = s.free := by
  simp [emitHost, ite_pending, ite_ident, ite_sck, ite_arc, ite_pln, ite_fe, ite_ts, ite_key, ite_pke, ite_rnu, ite_tls, ite_ac, ite_tm, ite_lcc, ite_stc, ite_pwr, ite_io, ite_ev, ite_rw, ite_store, ite_writes, ite_free]

@[simp] theorem sendVector_frame (f : Nat) (vector : Nat) (s : State) :
    (sendVector f vector s).pending = s.pending ∧ (sendVector f vector s).ident = s.ident ∧
    (sendVector f vector s).sck = s.sck ∧ (sendVector f vector s).arc = s.arc ∧ (sendVector f vector s).pln = s.pln ∧
    (sendVector f vector s).fe = s.fe ∧ (sendVector f vector s).ts = s.ts ∧ (sendVector f vector s).key = s.key ∧
    (sendVector f vector s).pke = s.pke ∧ (sendVector f vector s).rnu = s.rnu ∧ (sendVector f vector s).tls = s.tls ∧
    (sendVector f vector s).ac = s.ac ∧ (sendVector f vector s).tm = s.tm ∧ (sendVector f vector s).lcc = s.lcc ∧
    (sendVector f vector s).stc = s.stc ∧ (sendVector f vector s).pwr = s.pwr ∧ (sendVector f vector s).io = s.io ∧
    (sendVector f vector s).ev = s.ev ∧ (sendVector f vector s).rw = s.rw ∧ (sendVector f vector s).store = s.store ∧
    (sendVector f vector s).writes = s.writes ∧ (sendVector f vector s).free = s.free := by
  simp [sendVector, ite_pending, ite_ident, ite_sck, ite_arc, ite_pln, ite_fe, ite_ts, ite_key, ite_pke, ite_rnu, ite_tls, ite_ac, ite_tm, ite_lcc, ite_stc, ite_pwr, ite_io, ite_ev, ite_rw, ite_store, ite_writes, ite_free]

@[simp] theorem raiseEvent_frame (b : EvBlock) (f : Nat) (bit : Nat) (s : State) :
    (raiseEvent b f bit s).pending = s.pending ∧ (raiseEvent b f bit s).ident = s.ident ∧ (raiseEvent b f bit s).sck = s.sck ∧
    (raiseEvent b f bit s).arc = s.arc ∧ (raiseEvent b f bit s).pln = s.pln ∧ (raiseEvent b f bit s).fe = s.fe ∧
    (raiseEvent b f bit s).ts = s.ts ∧ (raiseEvent b f bit s).key = s.key ∧ (raiseEvent b f bit s).pke = s.pke ∧
    (raiseEvent b f bit s).rnu = s.rnu ∧ (raiseEvent b f bit s).tls = s.tls ∧ (raiseEvent b f bit s).ac = s.ac ∧
    (raiseEvent b f bit s).tm = s.tm ∧ (raiseEvent b f bit s).lcc = s.lcc ∧ (raiseEvent b f bit s).stc = s.stc ∧
    (raiseEvent b f bit s).pwr = s.pwr ∧ (raiseEvent b f bit s).io = s.io ∧ (raiseEvent b f bit s).rw = s.rw ∧
    (raiseEvent b f bit s).store = s.store ∧ (raiseEvent b f bit s).writes = s.writes ∧ (raiseEvent b f bit s).free = s.free := by
  simp [raiseEvent, ite_pending, ite_ident, ite_sck, ite_arc, ite_pln, ite_fe, ite_ts, ite_key, ite_pke, ite_rnu, ite_tls, ite_ac, ite_tm, ite_lcc, ite_stc, ite_pwr, ite_io, ite_rw, ite_store, ite_writes, ite_free]

@[simp] theorem clearEvents_frame (b : EvBlock) (f : Nat) (mask : Nat) (s : State) :
    (clearEvents b f mask s).pending = s.pending ∧ (clearEvents b f mask s).ident = s.ident ∧
    (clearEvents b f mask s).sck = s.sck ∧ (clearEvents b f mask s).arc = s.arc ∧ (clearEvents b f mask s).pln = s.pln ∧
    (clearEvents b f mask s).fe = s.fe ∧ (clearEvents b f mask s).hif = s.hif ∧ (clearEvents b f mask s).ts = s.ts ∧
    (clearEvents b f mask s).key = s.key ∧ (clearEvents b f mask s).pke = s.pke ∧ (clearEvents b f mask s).rnu = s.rnu ∧
    (clearEvents b f mask s).tls = s.tls ∧ (clearEvents b f mask s).ac = s.ac ∧ (clearEvents b f mask s).tm = s.tm ∧
    (clearEvents b f mask s).lcc = s.lcc ∧ (clearEvents b f mask s).stc = s.stc ∧ (clearEvents b f mask s).pwr = s.pwr ∧
    (clearEvents b f mask s).io = s.io ∧ (clearEvents b f mask s).rw = s.rw ∧ (clearEvents b f mask s).store = s.store ∧
    (clearEvents b f mask s).writes = s.writes ∧ (clearEvents b f mask s).out = s.out ∧
    (clearEvents b f mask s).free = s.free := by
  simp [clearEvents]

@[simp] theorem freshValue_frame (s : State) :
    (freshValue s).2.pending = s.pending ∧ (freshValue s).2.ident = s.ident ∧ (freshValue s).2.sck = s.sck ∧
    (freshValue s).2.arc = s.arc ∧ (freshValue s).2.pln = s.pln ∧ (freshValue s).2.fe = s.fe ∧ (freshValue s).2.hif = s.hif ∧
    (freshValue s).2.ts = s.ts ∧ (freshValue s).2.key = s.key ∧ (freshValue s).2.pke = s.pke ∧ (freshValue s).2.rnu = s.rnu ∧
    (freshValue s).2.tls = s.tls ∧ (freshValue s).2.ac = s.ac ∧ (freshValue s).2.tm = s.tm ∧ (freshValue s).2.lcc = s.lcc ∧
    (freshValue s).2.stc = s.stc ∧ (freshValue s).2.pwr = s.pwr ∧ (freshValue s).2.io = s.io ∧ (freshValue s).2.ev = s.ev ∧
    (freshValue s).2.rw = s.rw ∧ (freshValue s).2.store = s.store ∧ (freshValue s).2.writes = s.writes ∧
    (freshValue s).2.out = s.out := by
  simp [freshValue]

@[simp] theorem stageWith_frame (log : Nat) (typ : Nat) (owner : Nat) (quality : Nat) (flags : Nat) (stamp : Nat) (body : RecBody) (s : State) :
    (stageWith log typ owner quality flags stamp body s).pending = s.pending ∧
    (stageWith log typ owner quality flags stamp body s).ident = s.ident ∧
    (stageWith log typ owner quality flags stamp body s).sck = s.sck ∧
    (stageWith log typ owner quality flags stamp body s).pln = s.pln ∧
    (stageWith log typ owner quality flags stamp body s).fe = s.fe ∧
    (stageWith log typ owner quality flags stamp body s).hif = s.hif ∧
    (stageWith log typ owner quality flags stamp body s).ts = s.ts ∧
    (stageWith log typ owner quality flags stamp body s).key = s.key ∧
    (stageWith log typ owner quality flags stamp body s).pke = s.pke ∧
    (stageWith log typ owner quality flags stamp body s).rnu = s.rnu ∧
    (stageWith log typ owner quality flags stamp body s).tls = s.tls ∧
    (stageWith log typ owner quality flags stamp body s).ac = s.ac ∧
    (stageWith log typ owner quality flags stamp body s).tm = s.tm ∧
    (stageWith log typ owner quality flags stamp body s).lcc = s.lcc ∧
    (stageWith log typ owner quality flags stamp body s).stc = s.stc ∧
    (stageWith log typ owner quality flags stamp body s).pwr = s.pwr ∧
    (stageWith log typ owner quality flags stamp body s).io = s.io ∧
    (stageWith log typ owner quality flags stamp body s).ev = s.ev ∧
    (stageWith log typ owner quality flags stamp body s).rw = s.rw ∧
    (stageWith log typ owner quality flags stamp body s).store = s.store ∧
    (stageWith log typ owner quality flags stamp body s).writes = s.writes ∧
    (stageWith log typ owner quality flags stamp body s).out = s.out ∧
    (stageWith log typ owner quality flags stamp body s).free = s.free := by
  simp [stageWith]

@[simp] theorem stageRec_frame (typ : Nat) (owner : Nat) (body : RecBody) (s : State) :
    (stageRec typ owner body s).pending = s.pending ∧ (stageRec typ owner body s).ident = s.ident ∧
    (stageRec typ owner body s).sck = s.sck ∧ (stageRec typ owner body s).pln = s.pln ∧ (stageRec typ owner body s).fe = s.fe ∧
    (stageRec typ owner body s).hif = s.hif ∧ (stageRec typ owner body s).ts = s.ts ∧ (stageRec typ owner body s).key = s.key ∧
    (stageRec typ owner body s).pke = s.pke ∧ (stageRec typ owner body s).rnu = s.rnu ∧
    (stageRec typ owner body s).tls = s.tls ∧ (stageRec typ owner body s).ac = s.ac ∧ (stageRec typ owner body s).tm = s.tm ∧
    (stageRec typ owner body s).lcc = s.lcc ∧ (stageRec typ owner body s).stc = s.stc ∧
    (stageRec typ owner body s).pwr = s.pwr ∧ (stageRec typ owner body s).io = s.io ∧ (stageRec typ owner body s).ev = s.ev ∧
    (stageRec typ owner body s).rw = s.rw ∧ (stageRec typ owner body s).store = s.store ∧
    (stageRec typ owner body s).writes = s.writes ∧ (stageRec typ owner body s).out = s.out ∧
    (stageRec typ owner body s).free = s.free := by
  simp [stageRec]

@[simp] theorem queueWrite_frame (key : Nat) (value : Nat) (s : State) :
    (queueWrite key value s).pending = s.pending ∧ (queueWrite key value s).ident = s.ident ∧
    (queueWrite key value s).sck = s.sck ∧ (queueWrite key value s).arc = s.arc ∧ (queueWrite key value s).pln = s.pln ∧
    (queueWrite key value s).fe = s.fe ∧ (queueWrite key value s).hif = s.hif ∧ (queueWrite key value s).ts = s.ts ∧
    (queueWrite key value s).key = s.key ∧ (queueWrite key value s).pke = s.pke ∧ (queueWrite key value s).rnu = s.rnu ∧
    (queueWrite key value s).tls = s.tls ∧ (queueWrite key value s).ac = s.ac ∧ (queueWrite key value s).tm = s.tm ∧
    (queueWrite key value s).lcc = s.lcc ∧ (queueWrite key value s).stc = s.stc ∧ (queueWrite key value s).pwr = s.pwr ∧
    (queueWrite key value s).io = s.io ∧ (queueWrite key value s).ev = s.ev ∧ (queueWrite key value s).rw = s.rw ∧
    (queueWrite key value s).store = s.store ∧ (queueWrite key value s).out = s.out ∧ (queueWrite key value s).free = s.free := by
  simp [queueWrite, ite_pending, ite_ident, ite_sck, ite_arc, ite_pln, ite_fe, ite_hif, ite_ts, ite_key, ite_pke, ite_rnu, ite_tls, ite_ac, ite_tm, ite_lcc, ite_stc, ite_pwr, ite_io, ite_ev, ite_rw, ite_store, ite_out, ite_free]

@[simp] theorem State.setPort_frame (p : Nat) (v : Port) (s : State) :
    (State.setPort p v s).pending = s.pending ∧ (State.setPort p v s).ident = s.ident ∧ (State.setPort p v s).sck = s.sck ∧
    (State.setPort p v s).arc = s.arc ∧ (State.setPort p v s).pln = s.pln ∧ (State.setPort p v s).hif = s.hif ∧
    (State.setPort p v s).ts = s.ts ∧ (State.setPort p v s).key = s.key ∧ (State.setPort p v s).pke = s.pke ∧
    (State.setPort p v s).rnu = s.rnu ∧ (State.setPort p v s).tls = s.tls ∧ (State.setPort p v s).ac = s.ac ∧
    (State.setPort p v s).tm = s.tm ∧ (State.setPort p v s).lcc = s.lcc ∧ (State.setPort p v s).stc = s.stc ∧
    (State.setPort p v s).pwr = s.pwr ∧ (State.setPort p v s).io = s.io ∧ (State.setPort p v s).ev = s.ev ∧
    (State.setPort p v s).rw = s.rw ∧ (State.setPort p v s).store = s.store ∧ (State.setPort p v s).writes = s.writes ∧
    (State.setPort p v s).out = s.out ∧ (State.setPort p v s).free = s.free := by
  simp [State.setPort]

@[simp] theorem State.updPort_frame (p : Nat) (g : Port → Port) (s : State) :
    (State.updPort p g s).pending = s.pending ∧ (State.updPort p g s).ident = s.ident ∧ (State.updPort p g s).sck = s.sck ∧
    (State.updPort p g s).arc = s.arc ∧ (State.updPort p g s).pln = s.pln ∧ (State.updPort p g s).hif = s.hif ∧
    (State.updPort p g s).ts = s.ts ∧ (State.updPort p g s).key = s.key ∧ (State.updPort p g s).pke = s.pke ∧
    (State.updPort p g s).rnu = s.rnu ∧ (State.updPort p g s).tls = s.tls ∧ (State.updPort p g s).ac = s.ac ∧
    (State.updPort p g s).tm = s.tm ∧ (State.updPort p g s).lcc = s.lcc ∧ (State.updPort p g s).stc = s.stc ∧
    (State.updPort p g s).pwr = s.pwr ∧ (State.updPort p g s).io = s.io ∧ (State.updPort p g s).ev = s.ev ∧
    (State.updPort p g s).rw = s.rw ∧ (State.updPort p g s).store = s.store ∧ (State.updPort p g s).writes = s.writes ∧
    (State.updPort p g s).out = s.out ∧ (State.updPort p g s).free = s.free := by
  simp [State.updPort]

end Sys2Proof.Machine
end

