-- ==== Sys2Proof/Laws/Conds.lean ====
section
/-! SUPPORT. What the operations of Machine/Conds.lean leave unchanged, once for each: its frame. -/

namespace Sys2Proof.Machine

@[simp] theorem endCond_frame (what : KeyCond) (from_ : Nat) (s : State) :
    (endCond what from_ s).pending = s.pending ∧ (endCond what from_ s).ident = s.ident ∧ (endCond what from_ s).sck = s.sck ∧
    (endCond what from_ s).arc = s.arc ∧ (endCond what from_ s).pln = s.pln ∧ (endCond what from_ s).hif = s.hif ∧
    (endCond what from_ s).ts = s.ts ∧ (endCond what from_ s).key = s.key ∧ (endCond what from_ s).pke = s.pke ∧
    (endCond what from_ s).rnu = s.rnu ∧ (endCond what from_ s).tls = s.tls ∧ (endCond what from_ s).ac = s.ac ∧
    (endCond what from_ s).tm = s.tm ∧ (endCond what from_ s).lcc = s.lcc ∧ (endCond what from_ s).stc = s.stc ∧
    (endCond what from_ s).pwr = s.pwr ∧ (endCond what from_ s).io = s.io ∧ (endCond what from_ s).ev = s.ev ∧
    (endCond what from_ s).rw = s.rw ∧ (endCond what from_ s).store = s.store ∧ (endCond what from_ s).writes = s.writes ∧
    (endCond what from_ s).out = s.out ∧ (endCond what from_ s).free = s.free := by
  simp [endCond]

@[simp] theorem keyEdgesFrom_frame (l0 : Nat) (old : State) (x1 : Tbl Partition) (x2 : State) :
    (keyEdgesFrom l0 old x1 x2).pending = x2.pending ∧ (keyEdgesFrom l0 old x1 x2).ident = x2.ident ∧
    (keyEdgesFrom l0 old x1 x2).sck = x2.sck ∧ (keyEdgesFrom l0 old x1 x2).arc = x2.arc ∧
    (keyEdgesFrom l0 old x1 x2).pln = x2.pln ∧ (keyEdgesFrom l0 old x1 x2).fe = x2.fe ∧
    (keyEdgesFrom l0 old x1 x2).ts = x2.ts ∧ (keyEdgesFrom l0 old x1 x2).key = x2.key ∧
    (keyEdgesFrom l0 old x1 x2).pke = x2.pke ∧ (keyEdgesFrom l0 old x1 x2).rnu = x2.rnu ∧
    (keyEdgesFrom l0 old x1 x2).tls = x2.tls ∧ (keyEdgesFrom l0 old x1 x2).ac = x2.ac ∧
    (keyEdgesFrom l0 old x1 x2).tm = x2.tm ∧ (keyEdgesFrom l0 old x1 x2).lcc = x2.lcc ∧
    (keyEdgesFrom l0 old x1 x2).stc = x2.stc ∧ (keyEdgesFrom l0 old x1 x2).pwr = x2.pwr ∧
    (keyEdgesFrom l0 old x1 x2).io = x2.io ∧ (keyEdgesFrom l0 old x1 x2).rw = x2.rw ∧
    (keyEdgesFrom l0 old x1 x2).store = x2.store ∧ (keyEdgesFrom l0 old x1 x2).writes = x2.writes ∧
    (keyEdgesFrom l0 old x1 x2).free = x2.free := by
  induction x1 generalizing l0 old x2 with
  | nil => simp [keyEdgesFrom]
  | cons c l ih => (simp only [keyEdgesFrom, ih]; (repeat' split) <;> simp)

@[simp] theorem keyEdges_frame (old : State) (s : State) :
    (keyEdges old s).pending = s.pending ∧ (keyEdges old s).ident = s.ident ∧ (keyEdges old s).sck = s.sck ∧
    (keyEdges old s).arc = s.arc ∧ (keyEdges old s).pln = s.pln ∧ (keyEdges old s).fe = s.fe ∧ (keyEdges old s).ts = s.ts ∧
    (keyEdges old s).key = s.key ∧ (keyEdges old s).pke = s.pke ∧ (keyEdges old s).rnu = s.rnu ∧ (keyEdges old s).tls = s.tls ∧
    (keyEdges old s).ac = s.ac ∧ (keyEdges old s).tm = s.tm ∧ (keyEdges old s).lcc = s.lcc ∧ (keyEdges old s).stc = s.stc ∧
    (keyEdges old s).pwr = s.pwr ∧ (keyEdges old s).io = s.io ∧ (keyEdges old s).rw = s.rw ∧ (keyEdges old s).store = s.store ∧
    (keyEdges old s).writes = s.writes ∧ (keyEdges old s).free = s.free := by
  simp [keyEdges]

@[simp] theorem timeEdge_frame (x1 : Tbl Partition) (x2 : State) :
    (timeEdge x1 x2).pending = x2.pending ∧ (timeEdge x1 x2).ident = x2.ident ∧ (timeEdge x1 x2).sck = x2.sck ∧
    (timeEdge x1 x2).arc = x2.arc ∧ (timeEdge x1 x2).pln = x2.pln ∧ (timeEdge x1 x2).fe = x2.fe ∧ (timeEdge x1 x2).ts = x2.ts ∧
    (timeEdge x1 x2).key = x2.key ∧ (timeEdge x1 x2).pke = x2.pke ∧ (timeEdge x1 x2).rnu = x2.rnu ∧
    (timeEdge x1 x2).tls = x2.tls ∧ (timeEdge x1 x2).ac = x2.ac ∧ (timeEdge x1 x2).tm = x2.tm ∧ (timeEdge x1 x2).lcc = x2.lcc ∧
    (timeEdge x1 x2).stc = x2.stc ∧ (timeEdge x1 x2).pwr = x2.pwr ∧ (timeEdge x1 x2).io = x2.io ∧ (timeEdge x1 x2).rw = x2.rw ∧
    (timeEdge x1 x2).store = x2.store ∧ (timeEdge x1 x2).writes = x2.writes ∧ (timeEdge x1 x2).free = x2.free := by
  induction x1 generalizing x2 with
  | nil => simp [timeEdge]
  | cons c l ih => (simp only [timeEdge, ih]; (repeat' split) <;> simp)

end Sys2Proof.Machine
end

