-- ==== Sys2Proof/Laws/Alarm.lean ====
section
/-! SUPPORT. What the operations of Machine/Alarm.lean leave unchanged, once for each: its frame. -/

namespace Sys2Proof.Machine

@[simp] theorem securityRec_frame (what : Nat) (a : Nat) (b : Nat) (c : Nat) (s : State) :
    (securityRec what a b c s).pending = s.pending ∧ (securityRec what a b c s).ident = s.ident ∧
    (securityRec what a b c s).sck = s.sck ∧ (securityRec what a b c s).pln = s.pln ∧ (securityRec what a b c s).fe = s.fe ∧
    (securityRec what a b c s).hif = s.hif ∧ (securityRec what a b c s).ts = s.ts ∧ (securityRec what a b c s).key = s.key ∧
    (securityRec what a b c s).pke = s.pke ∧ (securityRec what a b c s).rnu = s.rnu ∧ (securityRec what a b c s).tls = s.tls ∧
    (securityRec what a b c s).ac = s.ac ∧ (securityRec what a b c s).tm = s.tm ∧ (securityRec what a b c s).lcc = s.lcc ∧
    (securityRec what a b c s).stc = s.stc ∧ (securityRec what a b c s).pwr = s.pwr ∧ (securityRec what a b c s).io = s.io ∧
    (securityRec what a b c s).ev = s.ev ∧ (securityRec what a b c s).rw = s.rw ∧ (securityRec what a b c s).store = s.store ∧
    (securityRec what a b c s).writes = s.writes ∧ (securityRec what a b c s).out = s.out ∧
    (securityRec what a b c s).free = s.free := by
  simp [securityRec]

@[simp] theorem levelEdge_frame (old : Nat) (s : State) :
    (levelEdge old s).pending = s.pending ∧ (levelEdge old s).ident = s.ident ∧ (levelEdge old s).sck = s.sck ∧
    (levelEdge old s).arc = s.arc ∧ (levelEdge old s).pln = s.pln ∧ (levelEdge old s).ts = s.ts ∧
    (levelEdge old s).key = s.key ∧ (levelEdge old s).pke = s.pke ∧ (levelEdge old s).rnu = s.rnu ∧
    (levelEdge old s).tls = s.tls ∧ (levelEdge old s).ac = s.ac ∧ (levelEdge old s).lcc = s.lcc ∧
    (levelEdge old s).stc = s.stc ∧ (levelEdge old s).pwr = s.pwr ∧ (levelEdge old s).io = s.io ∧ (levelEdge old s).rw = s.rw ∧
    (levelEdge old s).store = s.store ∧ (levelEdge old s).writes = s.writes ∧ (levelEdge old s).free = s.free := by
  simp [levelEdge, ite_pending, ite_ident, ite_sck, ite_arc, ite_pln, ite_ts, ite_key, ite_pke, ite_rnu, ite_tls, ite_ac, ite_lcc, ite_stc, ite_pwr, ite_io, ite_rw, ite_store, ite_writes, ite_free]

@[simp] theorem noteLevel_frame (old : Nat) (cause : Nat) (s : State) :
    (noteLevel old cause s).pending = s.pending ∧ (noteLevel old cause s).ident = s.ident ∧
    (noteLevel old cause s).sck = s.sck ∧ (noteLevel old cause s).pln = s.pln ∧ (noteLevel old cause s).ts = s.ts ∧
    (noteLevel old cause s).key = s.key ∧ (noteLevel old cause s).pke = s.pke ∧ (noteLevel old cause s).rnu = s.rnu ∧
    (noteLevel old cause s).tls = s.tls ∧ (noteLevel old cause s).ac = s.ac ∧ (noteLevel old cause s).lcc = s.lcc ∧
    (noteLevel old cause s).stc = s.stc ∧ (noteLevel old cause s).pwr = s.pwr ∧ (noteLevel old cause s).rw = s.rw ∧
    (noteLevel old cause s).store = s.store ∧ (noteLevel old cause s).writes = s.writes ∧
    (noteLevel old cause s).free = s.free := by
  simp [noteLevel, ite_pending, ite_ident, ite_sck, ite_pln, ite_ts, ite_key, ite_pke, ite_rnu, ite_tls, ite_ac, ite_lcc, ite_stc, ite_pwr, ite_rw, ite_store, ite_writes, ite_free]

@[simp] theorem addCond_frame (p : Nat) (cond : Nat) (s : State) :
    (addCond p cond s).pending = s.pending ∧ (addCond p cond s).ident = s.ident ∧ (addCond p cond s).sck = s.sck ∧
    (addCond p cond s).pln = s.pln ∧ (addCond p cond s).hif = s.hif ∧ (addCond p cond s).ts = s.ts ∧
    (addCond p cond s).key = s.key ∧ (addCond p cond s).pke = s.pke ∧ (addCond p cond s).rnu = s.rnu ∧
    (addCond p cond s).tls = s.tls ∧ (addCond p cond s).ac = s.ac ∧ (addCond p cond s).tm = s.tm ∧
    (addCond p cond s).lcc = s.lcc ∧ (addCond p cond s).stc = s.stc ∧ (addCond p cond s).pwr = s.pwr ∧
    (addCond p cond s).io = s.io ∧ (addCond p cond s).ev = s.ev ∧ (addCond p cond s).rw = s.rw ∧
    (addCond p cond s).store = s.store ∧ (addCond p cond s).writes = s.writes ∧ (addCond p cond s).out = s.out ∧
    (addCond p cond s).free = s.free := by
  simp [addCond, ite_pending, ite_ident, ite_sck, ite_pln, ite_hif, ite_ts, ite_key, ite_pke, ite_rnu, ite_tls, ite_ac, ite_tm, ite_lcc, ite_stc, ite_pwr, ite_io, ite_ev, ite_rw, ite_store, ite_writes, ite_out, ite_free]

@[simp] theorem addCondAll_frame (cond : Nat) (x1 : Nat) (x2 : State) :
    (addCondAll cond x1 x2).pending = x2.pending ∧ (addCondAll cond x1 x2).ident = x2.ident ∧
    (addCondAll cond x1 x2).sck = x2.sck ∧ (addCondAll cond x1 x2).pln = x2.pln ∧ (addCondAll cond x1 x2).hif = x2.hif ∧
    (addCondAll cond x1 x2).ts = x2.ts ∧ (addCondAll cond x1 x2).key = x2.key ∧ (addCondAll cond x1 x2).pke = x2.pke ∧
    (addCondAll cond x1 x2).rnu = x2.rnu ∧ (addCondAll cond x1 x2).tls = x2.tls ∧ (addCondAll cond x1 x2).ac = x2.ac ∧
    (addCondAll cond x1 x2).tm = x2.tm ∧ (addCondAll cond x1 x2).lcc = x2.lcc ∧ (addCondAll cond x1 x2).stc = x2.stc ∧
    (addCondAll cond x1 x2).pwr = x2.pwr ∧ (addCondAll cond x1 x2).io = x2.io ∧ (addCondAll cond x1 x2).ev = x2.ev ∧
    (addCondAll cond x1 x2).rw = x2.rw ∧ (addCondAll cond x1 x2).store = x2.store ∧
    (addCondAll cond x1 x2).writes = x2.writes ∧ (addCondAll cond x1 x2).out = x2.out ∧
    (addCondAll cond x1 x2).free = x2.free := by
  induction x1 generalizing cond x2 with
  | zero => simp [addCondAll]
  | succ n ih => (simp only [addCondAll]; (repeat' split) <;> simp [ih])

@[simp] theorem dropPads_frame (s : State) :
    (dropPads s).pending = s.pending ∧ (dropPads s).ident = s.ident ∧ (dropPads s).sck = s.sck ∧ (dropPads s).arc = s.arc ∧
    (dropPads s).pln = s.pln ∧ (dropPads s).hif = s.hif ∧ (dropPads s).ts = s.ts ∧ (dropPads s).key = s.key ∧
    (dropPads s).pke = s.pke ∧ (dropPads s).rnu = s.rnu ∧ (dropPads s).tls = s.tls ∧ (dropPads s).ac = s.ac ∧
    (dropPads s).tm = s.tm ∧ (dropPads s).lcc = s.lcc ∧ (dropPads s).stc = s.stc ∧ (dropPads s).pwr = s.pwr ∧
    (dropPads s).io = s.io ∧ (dropPads s).ev = s.ev ∧ (dropPads s).rw = s.rw ∧ (dropPads s).store = s.store ∧
    (dropPads s).writes = s.writes ∧ (dropPads s).out = s.out ∧ (dropPads s).free = s.free := by
  simp [dropPads]

@[simp] theorem restrictTick_frame (s : State) :
    (restrictTick s).pending = s.pending ∧ (restrictTick s).ident = s.ident ∧ (restrictTick s).sck = s.sck ∧
    (restrictTick s).pln = s.pln ∧ (restrictTick s).ts = s.ts ∧ (restrictTick s).key = s.key ∧ (restrictTick s).pke = s.pke ∧
    (restrictTick s).rnu = s.rnu ∧ (restrictTick s).tls = s.tls ∧ (restrictTick s).ac = s.ac ∧ (restrictTick s).lcc = s.lcc ∧
    (restrictTick s).stc = s.stc ∧ (restrictTick s).pwr = s.pwr ∧ (restrictTick s).rw = s.rw ∧
    (restrictTick s).store = s.store ∧ (restrictTick s).writes = s.writes ∧ (restrictTick s).free = s.free := by
  simp [restrictTick, ite_pending, ite_ident, ite_sck, ite_pln, ite_ts, ite_key, ite_pke, ite_rnu, ite_tls, ite_ac, ite_lcc, ite_stc, ite_pwr, ite_rw, ite_store, ite_writes, ite_free]

@[simp] theorem writeEntry_frame (e : JournalEntry) (s : State) :
    (writeEntry e s).pending = s.pending ∧ (writeEntry e s).ident = s.ident ∧ (writeEntry e s).sck = s.sck ∧
    (writeEntry e s).pln = s.pln ∧ (writeEntry e s).fe = s.fe ∧ (writeEntry e s).ts = s.ts ∧ (writeEntry e s).key = s.key ∧
    (writeEntry e s).pke = s.pke ∧ (writeEntry e s).rnu = s.rnu ∧ (writeEntry e s).tls = s.tls ∧ (writeEntry e s).ac = s.ac ∧
    (writeEntry e s).lcc = s.lcc ∧ (writeEntry e s).stc = s.stc ∧ (writeEntry e s).pwr = s.pwr ∧ (writeEntry e s).io = s.io ∧
    (writeEntry e s).rw = s.rw ∧ (writeEntry e s).store = s.store ∧ (writeEntry e s).writes = s.writes ∧
    (writeEntry e s).free = s.free := by
  simp [writeEntry, ite_pending, ite_ident, ite_sck, ite_pln, ite_fe, ite_ts, ite_key, ite_pke, ite_rnu, ite_tls, ite_ac, ite_lcc, ite_stc, ite_pwr, ite_io, ite_rw, ite_store, ite_writes, ite_free]

@[simp] theorem countCause_frame (cause : Nat) (k : Nat) (s : State) :
    (countCause cause k s).pending = s.pending ∧ (countCause cause k s).ident = s.ident ∧ (countCause cause k s).sck = s.sck ∧
    (countCause cause k s).arc = s.arc ∧ (countCause cause k s).pln = s.pln ∧ (countCause cause k s).fe = s.fe ∧
    (countCause cause k s).hif = s.hif ∧ (countCause cause k s).ts = s.ts ∧ (countCause cause k s).key = s.key ∧
    (countCause cause k s).pke = s.pke ∧ (countCause cause k s).rnu = s.rnu ∧ (countCause cause k s).tls = s.tls ∧
    (countCause cause k s).ac = s.ac ∧ (countCause cause k s).lcc = s.lcc ∧ (countCause cause k s).stc = s.stc ∧
    (countCause cause k s).pwr = s.pwr ∧ (countCause cause k s).io = s.io ∧ (countCause cause k s).ev = s.ev ∧
    (countCause cause k s).rw = s.rw ∧ (countCause cause k s).store = s.store ∧ (countCause cause k s).writes = s.writes ∧
    (countCause cause k s).out = s.out ∧ (countCause cause k s).free = s.free := by
  simp [countCause]

@[simp] theorem overflowEntries_frame (at_ : Nat) (x1 : List HourCount) (x2 : State) :
    (overflowEntries at_ x1 x2).pending = x2.pending ∧ (overflowEntries at_ x1 x2).ident = x2.ident ∧
    (overflowEntries at_ x1 x2).sck = x2.sck ∧ (overflowEntries at_ x1 x2).pln = x2.pln ∧
    (overflowEntries at_ x1 x2).fe = x2.fe ∧ (overflowEntries at_ x1 x2).ts = x2.ts ∧
    (overflowEntries at_ x1 x2).key = x2.key ∧ (overflowEntries at_ x1 x2).pke = x2.pke ∧
    (overflowEntries at_ x1 x2).rnu = x2.rnu ∧ (overflowEntries at_ x1 x2).tls = x2.tls ∧
    (overflowEntries at_ x1 x2).ac = x2.ac ∧ (overflowEntries at_ x1 x2).lcc = x2.lcc ∧
    (overflowEntries at_ x1 x2).stc = x2.stc ∧ (overflowEntries at_ x1 x2).pwr = x2.pwr ∧
    (overflowEntries at_ x1 x2).io = x2.io ∧ (overflowEntries at_ x1 x2).rw = x2.rw ∧
    (overflowEntries at_ x1 x2).store = x2.store ∧ (overflowEntries at_ x1 x2).writes = x2.writes ∧
    (overflowEntries at_ x1 x2).free = x2.free := by
  induction x1 generalizing at_ x2 with
  | nil => simp [overflowEntries]
  | cons c l ih => (simp only [overflowEntries, ih]; (repeat' split) <;> simp)

@[simp] theorem closeHour_frame (s : State) :
    (closeHour s).pending = s.pending ∧ (closeHour s).ident = s.ident ∧ (closeHour s).sck = s.sck ∧ (closeHour s).pln = s.pln ∧
    (closeHour s).fe = s.fe ∧ (closeHour s).ts = s.ts ∧ (closeHour s).key = s.key ∧ (closeHour s).pke = s.pke ∧
    (closeHour s).rnu = s.rnu ∧ (closeHour s).tls = s.tls ∧ (closeHour s).ac = s.ac ∧ (closeHour s).lcc = s.lcc ∧
    (closeHour s).stc = s.stc ∧ (closeHour s).pwr = s.pwr ∧ (closeHour s).io = s.io ∧ (closeHour s).rw = s.rw ∧
    (closeHour s).store = s.store ∧ (closeHour s).writes = s.writes ∧ (closeHour s).free = s.free := by
  simp [closeHour, ite_pending, ite_ident, ite_sck, ite_pln, ite_fe, ite_ts, ite_key, ite_pke, ite_rnu, ite_tls, ite_ac, ite_lcc, ite_stc, ite_pwr, ite_io, ite_rw, ite_store, ite_writes, ite_free]

@[simp] theorem journalAlarm_frame (cause : Nat) (source : Nat) (data : Nat) (level : Nat) (escalated : Bool) (s : State) :
    (journalAlarm cause source data level escalated s).pending = s.pending ∧
    (journalAlarm cause source data level escalated s).ident = s.ident ∧
    (journalAlarm cause source data level escalated s).sck = s.sck ∧
    (journalAlarm cause source data level escalated s).pln = s.pln ∧
    (journalAlarm cause source data level escalated s).fe = s.fe ∧
    (journalAlarm cause source data level escalated s).ts = s.ts ∧
    (journalAlarm cause source data level escalated s).key = s.key ∧
    (journalAlarm cause source data level escalated s).pke = s.pke ∧
    (journalAlarm cause source data level escalated s).rnu = s.rnu ∧
    (journalAlarm cause source data level escalated s).tls = s.tls ∧
    (journalAlarm cause source data level escalated s).ac = s.ac ∧
    (journalAlarm cause source data level escalated s).lcc = s.lcc ∧
    (journalAlarm cause source data level escalated s).stc = s.stc ∧
    (journalAlarm cause source data level escalated s).pwr = s.pwr ∧
    (journalAlarm cause source data level escalated s).io = s.io ∧
    (journalAlarm cause source data level escalated s).rw = s.rw ∧
    (journalAlarm cause source data level escalated s).store = s.store ∧
    (journalAlarm cause source data level escalated s).writes = s.writes ∧
    (journalAlarm cause source data level escalated s).free = s.free := by
  simp [journalAlarm, ite_pending, ite_ident, ite_sck, ite_pln, ite_fe, ite_ts, ite_key, ite_pke, ite_rnu, ite_tls, ite_ac, ite_lcc, ite_stc, ite_pwr, ite_io, ite_rw, ite_store, ite_writes, ite_free]

@[simp] theorem cancelAll_frame (x1 : Tbl Partition) (x2 : State) :
    (cancelAll x1 x2).pending = x2.pending ∧ (cancelAll x1 x2).ident = x2.ident ∧ (cancelAll x1 x2).sck = x2.sck ∧
    (cancelAll x1 x2).fe = x2.fe ∧ (cancelAll x1 x2).hif = x2.hif ∧ (cancelAll x1 x2).ts = x2.ts ∧
    (cancelAll x1 x2).key = x2.key ∧ (cancelAll x1 x2).pke = x2.pke ∧ (cancelAll x1 x2).rnu = x2.rnu ∧
    (cancelAll x1 x2).tls = x2.tls ∧ (cancelAll x1 x2).ac = x2.ac ∧ (cancelAll x1 x2).tm = x2.tm ∧
    (cancelAll x1 x2).lcc = x2.lcc ∧ (cancelAll x1 x2).stc = x2.stc ∧ (cancelAll x1 x2).pwr = x2.pwr ∧
    (cancelAll x1 x2).io = x2.io ∧ (cancelAll x1 x2).ev = x2.ev ∧ (cancelAll x1 x2).rw = x2.rw ∧
    (cancelAll x1 x2).store = x2.store ∧ (cancelAll x1 x2).writes = x2.writes ∧ (cancelAll x1 x2).out = x2.out ∧
    (cancelAll x1 x2).free = x2.free := by
  induction x1 generalizing x2 with
  | nil => simp [cancelAll]
  | cons c l ih => (simp only [cancelAll, ih]; (repeat' split) <;> simp)

@[simp] theorem endToken_frame (s : State) :
    (endToken s).pending = s.pending ∧ (endToken s).ident = s.ident ∧ (endToken s).sck = s.sck ∧ (endToken s).pln = s.pln ∧
    (endToken s).fe = s.fe ∧ (endToken s).key = s.key ∧ (endToken s).pke = s.pke ∧ (endToken s).rnu = s.rnu ∧
    (endToken s).tls = s.tls ∧ (endToken s).ac = s.ac ∧ (endToken s).tm = s.tm ∧ (endToken s).stc = s.stc ∧
    (endToken s).pwr = s.pwr ∧ (endToken s).io = s.io ∧ (endToken s).rw = s.rw ∧ (endToken s).store = s.store ∧
    (endToken s).writes = s.writes ∧ (endToken s).free = s.free := by
  simp only [endToken]
  (repeat' split) <;> simp

@[simp] theorem restoreBlock_frame (r : TestRun) (s : State) :
    (restoreBlock r s).pending = s.pending ∧ (restoreBlock r s).ident = s.ident ∧ (restoreBlock r s).sck = s.sck ∧
    (restoreBlock r s).arc = s.arc ∧ (restoreBlock r s).pln = s.pln ∧ (restoreBlock r s).fe = s.fe ∧
    (restoreBlock r s).hif = s.hif ∧ (restoreBlock r s).key = s.key ∧ (restoreBlock r s).rnu = s.rnu ∧
    (restoreBlock r s).tls = s.tls ∧ (restoreBlock r s).ac = s.ac ∧ (restoreBlock r s).tm = s.tm ∧
    (restoreBlock r s).lcc = s.lcc ∧ (restoreBlock r s).pwr = s.pwr ∧ (restoreBlock r s).io = s.io ∧
    (restoreBlock r s).ev = s.ev ∧ (restoreBlock r s).rw = s.rw ∧ (restoreBlock r s).store = s.store ∧
    (restoreBlock r s).writes = s.writes ∧ (restoreBlock r s).out = s.out ∧ (restoreBlock r s).free = s.free := by
  simp [restoreBlock, ite_pending, ite_ident, ite_sck, ite_arc, ite_pln, ite_fe, ite_hif, ite_key, ite_rnu, ite_tls, ite_ac, ite_tm, ite_lcc, ite_pwr, ite_io, ite_ev, ite_rw, ite_store, ite_writes, ite_out, ite_free]

@[simp] theorem abandonTests_frame (x1 : List TestRun) (x2 : State) :
    (abandonTests x1 x2).pending = x2.pending ∧ (abandonTests x1 x2).ident = x2.ident ∧ (abandonTests x1 x2).sck = x2.sck ∧
    (abandonTests x1 x2).arc = x2.arc ∧ (abandonTests x1 x2).pln = x2.pln ∧ (abandonTests x1 x2).hif = x2.hif ∧
    (abandonTests x1 x2).key = x2.key ∧ (abandonTests x1 x2).rnu = x2.rnu ∧ (abandonTests x1 x2).tls = x2.tls ∧
    (abandonTests x1 x2).ac = x2.ac ∧ (abandonTests x1 x2).tm = x2.tm ∧ (abandonTests x1 x2).lcc = x2.lcc ∧
    (abandonTests x1 x2).pwr = x2.pwr ∧ (abandonTests x1 x2).io = x2.io ∧ (abandonTests x1 x2).ev = x2.ev ∧
    (abandonTests x1 x2).rw = x2.rw ∧ (abandonTests x1 x2).store = x2.store ∧ (abandonTests x1 x2).writes = x2.writes ∧
    (abandonTests x1 x2).out = x2.out ∧ (abandonTests x1 x2).free = x2.free := by
  induction x1 generalizing x2 with
  | nil => simp [abandonTests]
  | cons c l ih => (simp only [abandonTests, ih]; simp)

@[simp] theorem quenchStart_frame (s : State) :
    (quenchStart s).pending = s.pending ∧ (quenchStart s).ident = s.ident ∧ (quenchStart s).sck = s.sck ∧
    (quenchStart s).key = s.key ∧ (quenchStart s).ac = s.ac ∧ (quenchStart s).pwr = s.pwr ∧ (quenchStart s).io = s.io ∧
    (quenchStart s).rw = s.rw ∧ (quenchStart s).store = s.store ∧ (quenchStart s).writes = s.writes ∧
    (quenchStart s).free = s.free := by
  simp [quenchStart]

@[simp] theorem fireQuench_frame (cause : Nat) (level : Nat) (s : State) :
    (fireQuench cause level s).pending = s.pending ∧ (fireQuench cause level s).ident = s.ident ∧
    (fireQuench cause level s).sck = s.sck ∧ (fireQuench cause level s).ac = s.ac ∧ (fireQuench cause level s).pwr = s.pwr ∧
    (fireQuench cause level s).rw = s.rw ∧ (fireQuench cause level s).store = s.store ∧
    (fireQuench cause level s).writes = s.writes ∧ (fireQuench cause level s).free = s.free := by
  simp [fireQuench, ite_pending, ite_ident, ite_sck, ite_ac, ite_pwr, ite_rw, ite_store, ite_writes, ite_free]

@[simp] theorem raiseAlarm_frame (cause : Nat) (source : Nat) (data : Nat) (s : State) :
    (raiseAlarm cause source data s).pending = s.pending ∧ (raiseAlarm cause source data s).ident = s.ident ∧
    (raiseAlarm cause source data s).sck = s.sck ∧ (raiseAlarm cause source data s).ac = s.ac ∧
    (raiseAlarm cause source data s).pwr = s.pwr ∧ (raiseAlarm cause source data s).rw = s.rw ∧
    (raiseAlarm cause source data s).store = s.store ∧ (raiseAlarm cause source data s).writes = s.writes ∧
    (raiseAlarm cause source data s).free = s.free := by
  simp [raiseAlarm, ite_pending, ite_ident, ite_sck, ite_ac, ite_pwr, ite_rw, ite_store, ite_writes, ite_free]

@[simp] theorem raiseLogic_frame (sub : Nat) (block : Nat) (element : Nat) (addr : Nat) (s : State) :
    (raiseLogic sub block element addr s).pending = s.pending ∧ (raiseLogic sub block element addr s).ident = s.ident ∧
    (raiseLogic sub block element addr s).sck = s.sck ∧ (raiseLogic sub block element addr s).ac = s.ac ∧
    (raiseLogic sub block element addr s).pwr = s.pwr ∧ (raiseLogic sub block element addr s).rw = s.rw ∧
    (raiseLogic sub block element addr s).store = s.store ∧ (raiseLogic sub block element addr s).writes = s.writes ∧
    (raiseLogic sub block element addr s).free = s.free := by
  simp [raiseLogic]

end Sys2Proof.Machine
end

