-- ==== Sys2Proof/Laws/Archive.lean ====
section
/-! SUPPORT. What the operations of Machine/Archive.lean leave unchanged, once for each: its frame. -/

namespace Sys2Proof.Machine

@[simp] theorem countNand_frame (bytes : Nat) (s : State) :
    (countNand bytes s).pending = s.pending ∧ (countNand bytes s).ident = s.ident ∧ (countNand bytes s).sck = s.sck ∧
    (countNand bytes s).pln = s.pln ∧ (countNand bytes s).fe = s.fe ∧ (countNand bytes s).hif = s.hif ∧
    (countNand bytes s).ts = s.ts ∧ (countNand bytes s).key = s.key ∧ (countNand bytes s).pke = s.pke ∧
    (countNand bytes s).rnu = s.rnu ∧ (countNand bytes s).tls = s.tls ∧ (countNand bytes s).ac = s.ac ∧
    (countNand bytes s).tm = s.tm ∧ (countNand bytes s).lcc = s.lcc ∧ (countNand bytes s).stc = s.stc ∧
    (countNand bytes s).pwr = s.pwr ∧ (countNand bytes s).io = s.io ∧ (countNand bytes s).ev = s.ev ∧
    (countNand bytes s).rw = s.rw ∧ (countNand bytes s).store = s.store ∧ (countNand bytes s).writes = s.writes ∧
    (countNand bytes s).out = s.out ∧ (countNand bytes s).free = s.free := by
  simp [countNand]

@[simp] theorem writeRec_frame (st : Staged) (s : State) :
    (writeRec st s).pending = s.pending ∧ (writeRec st s).ident = s.ident ∧ (writeRec st s).sck = s.sck ∧
    (writeRec st s).pln = s.pln ∧ (writeRec st s).fe = s.fe ∧ (writeRec st s).hif = s.hif ∧ (writeRec st s).ts = s.ts ∧
    (writeRec st s).key = s.key ∧ (writeRec st s).pke = s.pke ∧ (writeRec st s).rnu = s.rnu ∧ (writeRec st s).tls = s.tls ∧
    (writeRec st s).ac = s.ac ∧ (writeRec st s).tm = s.tm ∧ (writeRec st s).lcc = s.lcc ∧ (writeRec st s).stc = s.stc ∧
    (writeRec st s).pwr = s.pwr ∧ (writeRec st s).io = s.io ∧ (writeRec st s).ev = s.ev ∧ (writeRec st s).rw = s.rw ∧
    (writeRec st s).store = s.store ∧ (writeRec st s).writes = s.writes ∧ (writeRec st s).out = s.out ∧
    (writeRec st s).free = s.free := by
  simp only [writeRec]
  (repeat' split) <;> simp

@[simp] theorem writeAnchors_frame (s : State) :
    (writeAnchors s).pending = s.pending ∧ (writeAnchors s).ident = s.ident ∧ (writeAnchors s).sck = s.sck ∧
    (writeAnchors s).pln = s.pln ∧ (writeAnchors s).fe = s.fe ∧ (writeAnchors s).hif = s.hif ∧ (writeAnchors s).ts = s.ts ∧
    (writeAnchors s).key = s.key ∧ (writeAnchors s).pke = s.pke ∧ (writeAnchors s).rnu = s.rnu ∧ (writeAnchors s).tls = s.tls ∧
    (writeAnchors s).ac = s.ac ∧ (writeAnchors s).tm = s.tm ∧ (writeAnchors s).lcc = s.lcc ∧ (writeAnchors s).stc = s.stc ∧
    (writeAnchors s).pwr = s.pwr ∧ (writeAnchors s).io = s.io ∧ (writeAnchors s).ev = s.ev ∧ (writeAnchors s).rw = s.rw ∧
    (writeAnchors s).store = s.store ∧ (writeAnchors s).writes = s.writes ∧ (writeAnchors s).out = s.out ∧
    (writeAnchors s).free = s.free := by
  simp [writeAnchors]

@[simp] theorem openZone_frame (l : Nat) (zn : Nat) (reserve : Bool) (s : State) :
    (openZone l zn reserve s).pending = s.pending ∧ (openZone l zn reserve s).ident = s.ident ∧
    (openZone l zn reserve s).sck = s.sck ∧ (openZone l zn reserve s).pln = s.pln ∧ (openZone l zn reserve s).fe = s.fe ∧
    (openZone l zn reserve s).hif = s.hif ∧ (openZone l zn reserve s).ts = s.ts ∧ (openZone l zn reserve s).key = s.key ∧
    (openZone l zn reserve s).pke = s.pke ∧ (openZone l zn reserve s).rnu = s.rnu ∧ (openZone l zn reserve s).tls = s.tls ∧
    (openZone l zn reserve s).ac = s.ac ∧ (openZone l zn reserve s).tm = s.tm ∧ (openZone l zn reserve s).lcc = s.lcc ∧
    (openZone l zn reserve s).stc = s.stc ∧ (openZone l zn reserve s).pwr = s.pwr ∧ (openZone l zn reserve s).io = s.io ∧
    (openZone l zn reserve s).ev = s.ev ∧ (openZone l zn reserve s).rw = s.rw ∧ (openZone l zn reserve s).store = s.store ∧
    (openZone l zn reserve s).writes = s.writes ∧ (openZone l zn reserve s).out = s.out ∧
    (openZone l zn reserve s).free = s.free := by
  induction l generalizing zn reserve s with
  | zero => simp [openZone]
  | succ n ih => (simp only [openZone, ih]; simp)

@[simp] theorem eraseZone_frame (zn : Nat) (s : State) :
    (eraseZone zn s).pending = s.pending ∧ (eraseZone zn s).ident = s.ident ∧ (eraseZone zn s).sck = s.sck ∧
    (eraseZone zn s).pln = s.pln ∧ (eraseZone zn s).fe = s.fe ∧ (eraseZone zn s).hif = s.hif ∧ (eraseZone zn s).ts = s.ts ∧
    (eraseZone zn s).key = s.key ∧ (eraseZone zn s).pke = s.pke ∧ (eraseZone zn s).rnu = s.rnu ∧ (eraseZone zn s).tls = s.tls ∧
    (eraseZone zn s).ac = s.ac ∧ (eraseZone zn s).tm = s.tm ∧ (eraseZone zn s).lcc = s.lcc ∧ (eraseZone zn s).stc = s.stc ∧
    (eraseZone zn s).pwr = s.pwr ∧ (eraseZone zn s).io = s.io ∧ (eraseZone zn s).ev = s.ev ∧ (eraseZone zn s).rw = s.rw ∧
    (eraseZone zn s).store = s.store ∧ (eraseZone zn s).writes = s.writes ∧ (eraseZone zn s).out = s.out ∧
    (eraseZone zn s).free = s.free := by
  simp only [eraseZone]
  (repeat' split) <;> simp

@[simp] theorem loseRecord_frame (s : State) :
    (loseRecord s).pending = s.pending ∧ (loseRecord s).ident = s.ident ∧ (loseRecord s).sck = s.sck ∧
    (loseRecord s).pln = s.pln ∧ (loseRecord s).fe = s.fe ∧ (loseRecord s).hif = s.hif ∧ (loseRecord s).ts = s.ts ∧
    (loseRecord s).key = s.key ∧ (loseRecord s).pke = s.pke ∧ (loseRecord s).rnu = s.rnu ∧ (loseRecord s).tls = s.tls ∧
    (loseRecord s).ac = s.ac ∧ (loseRecord s).tm = s.tm ∧ (loseRecord s).lcc = s.lcc ∧ (loseRecord s).stc = s.stc ∧
    (loseRecord s).pwr = s.pwr ∧ (loseRecord s).io = s.io ∧ (loseRecord s).ev = s.ev ∧ (loseRecord s).rw = s.rw ∧
    (loseRecord s).store = s.store ∧ (loseRecord s).writes = s.writes ∧ (loseRecord s).out = s.out ∧
    (loseRecord s).free = s.free := by
  simp [loseRecord]

@[simp] theorem recycleSelf_frame (zn : Nat) (z : Zone) (reason : Nat) (s : State) :
    (recycleSelf zn z reason s).pending = s.pending ∧ (recycleSelf zn z reason s).ident = s.ident ∧
    (recycleSelf zn z reason s).sck = s.sck ∧ (recycleSelf zn z reason s).pln = s.pln ∧ (recycleSelf zn z reason s).fe = s.fe ∧
    (recycleSelf zn z reason s).hif = s.hif ∧ (recycleSelf zn z reason s).ts = s.ts ∧ (recycleSelf zn z reason s).key = s.key ∧
    (recycleSelf zn z reason s).pke = s.pke ∧ (recycleSelf zn z reason s).rnu = s.rnu ∧
    (recycleSelf zn z reason s).tls = s.tls ∧ (recycleSelf zn z reason s).ac = s.ac ∧ (recycleSelf zn z reason s).tm = s.tm ∧
    (recycleSelf zn z reason s).lcc = s.lcc ∧ (recycleSelf zn z reason s).stc = s.stc ∧
    (recycleSelf zn z reason s).pwr = s.pwr ∧ (recycleSelf zn z reason s).io = s.io ∧ (recycleSelf zn z reason s).ev = s.ev ∧
    (recycleSelf zn z reason s).rw = s.rw ∧ (recycleSelf zn z reason s).store = s.store ∧
    (recycleSelf zn z reason s).writes = s.writes ∧ (recycleSelf zn z reason s).out = s.out ∧
    (recycleSelf zn z reason s).free = s.free := by
  simp [recycleSelf, ite_pending, ite_ident, ite_sck, ite_pln, ite_fe, ite_hif, ite_ts, ite_key, ite_pke, ite_rnu, ite_tls, ite_ac, ite_tm, ite_lcc, ite_stc, ite_pwr, ite_io, ite_ev, ite_rw, ite_store, ite_writes, ite_out, ite_free]

@[simp] theorem takePool_frame (l : Nat) (s : State) :
    (takePool l s).pending = s.pending ∧ (takePool l s).ident = s.ident ∧ (takePool l s).sck = s.sck ∧
    (takePool l s).pln = s.pln ∧ (takePool l s).fe = s.fe ∧ (takePool l s).hif = s.hif ∧ (takePool l s).ts = s.ts ∧
    (takePool l s).key = s.key ∧ (takePool l s).pke = s.pke ∧ (takePool l s).rnu = s.rnu ∧ (takePool l s).tls = s.tls ∧
    (takePool l s).ac = s.ac ∧ (takePool l s).tm = s.tm ∧ (takePool l s).lcc = s.lcc ∧ (takePool l s).stc = s.stc ∧
    (takePool l s).pwr = s.pwr ∧ (takePool l s).io = s.io ∧ (takePool l s).ev = s.ev ∧ (takePool l s).rw = s.rw ∧
    (takePool l s).store = s.store ∧ (takePool l s).writes = s.writes ∧ (takePool l s).out = s.out ∧
    (takePool l s).free = s.free := by
  simp [takePool]

@[simp] theorem takeReserveZone_frame (s : State) :
    (takeReserveZone s).pending = s.pending ∧ (takeReserveZone s).ident = s.ident ∧ (takeReserveZone s).sck = s.sck ∧
    (takeReserveZone s).ac = s.ac ∧ (takeReserveZone s).pwr = s.pwr ∧ (takeReserveZone s).rw = s.rw ∧
    (takeReserveZone s).store = s.store ∧ (takeReserveZone s).writes = s.writes ∧ (takeReserveZone s).free = s.free := by
  simp [takeReserveZone, ite_pending, ite_ident, ite_sck, ite_ac, ite_pwr, ite_rw, ite_store, ite_writes, ite_free]

theorem takeEventZone_frame (typ : Nat) (s : State) (t : State) (h : takeEventZone typ s = some t) :
    t.pending = s.pending ∧ t.ident = s.ident ∧ t.sck = s.sck ∧ t.ac = s.ac ∧ t.pwr = s.pwr ∧ t.rw = s.rw ∧ t.store = s.store ∧
    t.writes = s.writes ∧ t.free = s.free := by
  revert h; simp only [takeEventZone]; (repeat' split) <;> (intro h; first | (cases h; done) | (cases h; simp) | (simp at h; subst h; simp) | simp_all)

@[simp] theorem roomToRecycle_frame (s : State) :
    (roomToRecycle s).pending = s.pending ∧ (roomToRecycle s).ident = s.ident ∧ (roomToRecycle s).sck = s.sck ∧
    (roomToRecycle s).ac = s.ac ∧ (roomToRecycle s).pwr = s.pwr ∧ (roomToRecycle s).rw = s.rw ∧
    (roomToRecycle s).store = s.store ∧ (roomToRecycle s).writes = s.writes ∧ (roomToRecycle s).free = s.free := by
  simp only [roomToRecycle]
  split
  · simp
  · cases h : takeEventZone 5 s with
    | none => simp
    | some t => simp [takeEventZone_frame _ _ _ h]

@[simp] theorem recycleZone_frame (zn : Nat) (z : Zone) (reason : Nat) (s : State) :
    (recycleZone zn z reason s).pending = s.pending ∧ (recycleZone zn z reason s).ident = s.ident ∧
    (recycleZone zn z reason s).sck = s.sck ∧ (recycleZone zn z reason s).pln = s.pln ∧ (recycleZone zn z reason s).fe = s.fe ∧
    (recycleZone zn z reason s).hif = s.hif ∧ (recycleZone zn z reason s).ts = s.ts ∧ (recycleZone zn z reason s).key = s.key ∧
    (recycleZone zn z reason s).pke = s.pke ∧ (recycleZone zn z reason s).rnu = s.rnu ∧
    (recycleZone zn z reason s).tls = s.tls ∧ (recycleZone zn z reason s).ac = s.ac ∧ (recycleZone zn z reason s).tm = s.tm ∧
    (recycleZone zn z reason s).lcc = s.lcc ∧ (recycleZone zn z reason s).stc = s.stc ∧
    (recycleZone zn z reason s).pwr = s.pwr ∧ (recycleZone zn z reason s).io = s.io ∧ (recycleZone zn z reason s).ev = s.ev ∧
    (recycleZone zn z reason s).rw = s.rw ∧ (recycleZone zn z reason s).store = s.store ∧
    (recycleZone zn z reason s).writes = s.writes ∧ (recycleZone zn z reason s).out = s.out ∧
    (recycleZone zn z reason s).free = s.free := by
  simp [recycleZone, ite_pending, ite_ident, ite_sck, ite_pln, ite_fe, ite_hif, ite_ts, ite_key, ite_pke, ite_rnu, ite_tls, ite_ac, ite_tm, ite_lcc, ite_stc, ite_pwr, ite_io, ite_ev, ite_rw, ite_store, ite_writes, ite_out, ite_free]

theorem takeRingZone_frame (s : State) (t : State) (h : takeRingZone s = some t) :
    t.pending = s.pending ∧ t.ident = s.ident ∧ t.sck = s.sck ∧ t.ac = s.ac ∧ t.pwr = s.pwr ∧ t.rw = s.rw ∧ t.store = s.store ∧
    t.writes = s.writes ∧ t.free = s.free := by
  revert h; simp only [takeRingZone]
  split
  · intro h; cases h; simp
  · split
    · intro h; cases h; simp
    · intro h; simp only [Option.map_eq_some_iff] at h; obtain ⟨_, _, rfl⟩ := h; simp

theorem takeWindowZone_frame (s : State) (t : State) (h : takeWindowZone s = some t) :
    t.pending = s.pending ∧ t.ident = s.ident ∧ t.sck = s.sck ∧ t.ac = s.ac ∧ t.pwr = s.pwr ∧ t.rw = s.rw ∧ t.store = s.store ∧
    t.writes = s.writes ∧ t.free = s.free := by
  revert h; simp only [takeWindowZone]
  split
  · intro h; cases h; simp
  · intro h; simp only [Option.map_eq_some_iff] at h; obtain ⟨_, _, rfl⟩ := h; simp

@[simp] theorem governorChange_frame (new : Nat) (s : State) :
    (governorChange new s).pending = s.pending ∧ (governorChange new s).ident = s.ident ∧ (governorChange new s).sck = s.sck ∧
    (governorChange new s).pln = s.pln ∧ (governorChange new s).fe = s.fe ∧ (governorChange new s).ts = s.ts ∧
    (governorChange new s).key = s.key ∧ (governorChange new s).pke = s.pke ∧ (governorChange new s).rnu = s.rnu ∧
    (governorChange new s).tls = s.tls ∧ (governorChange new s).ac = s.ac ∧ (governorChange new s).tm = s.tm ∧
    (governorChange new s).lcc = s.lcc ∧ (governorChange new s).stc = s.stc ∧ (governorChange new s).pwr = s.pwr ∧
    (governorChange new s).io = s.io ∧ (governorChange new s).rw = s.rw ∧ (governorChange new s).store = s.store ∧
    (governorChange new s).writes = s.writes ∧ (governorChange new s).free = s.free := by
  simp [governorChange]

@[simp] theorem governorCheck_frame (s : State) :
    (governorCheck s).pending = s.pending ∧ (governorCheck s).ident = s.ident ∧ (governorCheck s).sck = s.sck ∧
    (governorCheck s).pln = s.pln ∧ (governorCheck s).fe = s.fe ∧ (governorCheck s).ts = s.ts ∧ (governorCheck s).key = s.key ∧
    (governorCheck s).pke = s.pke ∧ (governorCheck s).rnu = s.rnu ∧ (governorCheck s).tls = s.tls ∧
    (governorCheck s).ac = s.ac ∧ (governorCheck s).tm = s.tm ∧ (governorCheck s).lcc = s.lcc ∧ (governorCheck s).stc = s.stc ∧
    (governorCheck s).pwr = s.pwr ∧ (governorCheck s).io = s.io ∧ (governorCheck s).rw = s.rw ∧
    (governorCheck s).store = s.store ∧ (governorCheck s).writes = s.writes ∧ (governorCheck s).free = s.free := by
  simp only [governorCheck]
  (repeat' split) <;> simp

@[simp] theorem refuseCapture_frame (l : Nat) (s : State) :
    (refuseCapture l s).pending = s.pending ∧ (refuseCapture l s).ident = s.ident ∧ (refuseCapture l s).sck = s.sck ∧
    (refuseCapture l s).pln = s.pln ∧ (refuseCapture l s).fe = s.fe ∧ (refuseCapture l s).hif = s.hif ∧
    (refuseCapture l s).ts = s.ts ∧ (refuseCapture l s).key = s.key ∧ (refuseCapture l s).pke = s.pke ∧
    (refuseCapture l s).rnu = s.rnu ∧ (refuseCapture l s).tls = s.tls ∧ (refuseCapture l s).ac = s.ac ∧
    (refuseCapture l s).tm = s.tm ∧ (refuseCapture l s).lcc = s.lcc ∧ (refuseCapture l s).stc = s.stc ∧
    (refuseCapture l s).pwr = s.pwr ∧ (refuseCapture l s).io = s.io ∧ (refuseCapture l s).ev = s.ev ∧
    (refuseCapture l s).rw = s.rw ∧ (refuseCapture l s).store = s.store ∧ (refuseCapture l s).writes = s.writes ∧
    (refuseCapture l s).out = s.out ∧ (refuseCapture l s).free = s.free := by
  simp [refuseCapture, ite_pending, ite_ident, ite_sck, ite_pln, ite_fe, ite_hif, ite_ts, ite_key, ite_pke, ite_rnu, ite_tls, ite_ac, ite_tm, ite_lcc, ite_stc, ite_pwr, ite_io, ite_ev, ite_rw, ite_store, ite_writes, ite_out, ite_free]

@[simp] theorem countWindows_frame (f : Nat) (group : Nat) (stamp : Nat) (refused : Bool) (s : State) :
    (countWindows f group stamp refused s).pending = s.pending ∧ (countWindows f group stamp refused s).ident = s.ident ∧
    (countWindows f group stamp refused s).sck = s.sck ∧ (countWindows f group stamp refused s).pln = s.pln ∧
    (countWindows f group stamp refused s).fe = s.fe ∧ (countWindows f group stamp refused s).hif = s.hif ∧
    (countWindows f group stamp refused s).ts = s.ts ∧ (countWindows f group stamp refused s).key = s.key ∧
    (countWindows f group stamp refused s).pke = s.pke ∧ (countWindows f group stamp refused s).rnu = s.rnu ∧
    (countWindows f group stamp refused s).tls = s.tls ∧ (countWindows f group stamp refused s).ac = s.ac ∧
    (countWindows f group stamp refused s).tm = s.tm ∧ (countWindows f group stamp refused s).lcc = s.lcc ∧
    (countWindows f group stamp refused s).stc = s.stc ∧ (countWindows f group stamp refused s).pwr = s.pwr ∧
    (countWindows f group stamp refused s).io = s.io ∧ (countWindows f group stamp refused s).ev = s.ev ∧
    (countWindows f group stamp refused s).rw = s.rw ∧ (countWindows f group stamp refused s).store = s.store ∧
    (countWindows f group stamp refused s).writes = s.writes ∧ (countWindows f group stamp refused s).out = s.out ∧
    (countWindows f group stamp refused s).free = s.free := by
  simp [countWindows]

theorem roomFor_frame (st : Staged) (s : State) (t : State) (h : roomFor st s = some t) :
    t.pending = s.pending ∧ t.ident = s.ident ∧ t.sck = s.sck ∧ t.ac = s.ac ∧ t.pwr = s.pwr ∧ t.rw = s.rw ∧ t.store = s.store ∧
    t.writes = s.writes ∧ t.free = s.free := by
  unfold roomFor at h
  split at h
  · cases h; simp
  · split at h
    · simp [takeEventZone_frame _ _ _ h]
    · split at h
      · simp [takeRingZone_frame _ _ h]
      · simp [takeWindowZone_frame _ _ h]

@[simp] theorem noRoom_frame (st : Staged) (s : State) :
    (noRoom st s).pending = s.pending ∧ (noRoom st s).ident = s.ident ∧ (noRoom st s).sck = s.sck ∧ (noRoom st s).pln = s.pln ∧
    (noRoom st s).fe = s.fe ∧ (noRoom st s).ts = s.ts ∧ (noRoom st s).key = s.key ∧ (noRoom st s).pke = s.pke ∧
    (noRoom st s).rnu = s.rnu ∧ (noRoom st s).tls = s.tls ∧ (noRoom st s).ac = s.ac ∧ (noRoom st s).tm = s.tm ∧
    (noRoom st s).lcc = s.lcc ∧ (noRoom st s).stc = s.stc ∧ (noRoom st s).pwr = s.pwr ∧ (noRoom st s).io = s.io ∧
    (noRoom st s).rw = s.rw ∧ (noRoom st s).store = s.store ∧ (noRoom st s).writes = s.writes ∧ (noRoom st s).free = s.free := by
  simp [noRoom, ite_pending, ite_ident, ite_sck, ite_pln, ite_fe, ite_ts, ite_key, ite_pke, ite_rnu, ite_tls, ite_ac, ite_tm, ite_lcc, ite_stc, ite_pwr, ite_io, ite_rw, ite_store, ite_writes, ite_free]

@[simp] theorem appendRecord_frame (st : Staged) (s : State) :
    (appendRecord st s).pending = s.pending ∧ (appendRecord st s).ident = s.ident ∧ (appendRecord st s).sck = s.sck ∧
    (appendRecord st s).ac = s.ac ∧ (appendRecord st s).pwr = s.pwr ∧ (appendRecord st s).rw = s.rw ∧
    (appendRecord st s).store = s.store ∧ (appendRecord st s).writes = s.writes ∧ (appendRecord st s).free = s.free := by
  simp only [appendRecord]
  cases h : roomFor st s with
  | none => simp
  | some t =>
    have k := roomFor_frame _ _ _ h
    simp only
    (repeat' split) <;> simp [k]

@[simp] theorem appendAll_frame (x1 : List Staged) (x2 : State) :
    (appendAll x1 x2).pending = x2.pending ∧ (appendAll x1 x2).ident = x2.ident ∧ (appendAll x1 x2).sck = x2.sck ∧
    (appendAll x1 x2).ac = x2.ac ∧ (appendAll x1 x2).pwr = x2.pwr ∧ (appendAll x1 x2).rw = x2.rw ∧
    (appendAll x1 x2).store = x2.store ∧ (appendAll x1 x2).writes = x2.writes ∧ (appendAll x1 x2).free = x2.free := by
  induction x1 generalizing x2 with
  | nil => simp [appendAll]
  | cons c l ih => (simp only [appendAll, ih]; simp)

@[simp] theorem drainStaging_frame (s : State) :
    (drainStaging s).pending = s.pending ∧ (drainStaging s).ident = s.ident ∧ (drainStaging s).sck = s.sck ∧
    (drainStaging s).ac = s.ac ∧ (drainStaging s).pwr = s.pwr ∧ (drainStaging s).rw = s.rw ∧ (drainStaging s).store = s.store ∧
    (drainStaging s).writes = s.writes ∧ (drainStaging s).free = s.free := by
  simp [drainStaging]

@[simp] theorem appendCheckpoint_frame (step : Bool) (final : Bool) (start : Bool) (s : State) :
    (appendCheckpoint step final start s).pending = s.pending ∧ (appendCheckpoint step final start s).ident = s.ident ∧
    (appendCheckpoint step final start s).sck = s.sck ∧ (appendCheckpoint step final start s).ac = s.ac ∧
    (appendCheckpoint step final start s).pwr = s.pwr ∧ (appendCheckpoint step final start s).rw = s.rw ∧
    (appendCheckpoint step final start s).store = s.store ∧ (appendCheckpoint step final start s).writes = s.writes ∧
    (appendCheckpoint step final start s).free = s.free := by
  simp only [appendCheckpoint]
  split
  · simp
  · rename_i s1 h
    have k := roomFor_frame _ _ _ h
    simp [k]

@[simp] theorem rtcSet_frame (s : State) :
    (rtcSet s).pending = s.pending ∧ (rtcSet s).ident = s.ident ∧ (rtcSet s).arc = s.arc ∧ (rtcSet s).pln = s.pln ∧
    (rtcSet s).fe = s.fe ∧ (rtcSet s).hif = s.hif ∧ (rtcSet s).ts = s.ts ∧ (rtcSet s).key = s.key ∧ (rtcSet s).pke = s.pke ∧
    (rtcSet s).rnu = s.rnu ∧ (rtcSet s).tls = s.tls ∧ (rtcSet s).ac = s.ac ∧ (rtcSet s).tm = s.tm ∧ (rtcSet s).lcc = s.lcc ∧
    (rtcSet s).stc = s.stc ∧ (rtcSet s).pwr = s.pwr ∧ (rtcSet s).io = s.io ∧ (rtcSet s).ev = s.ev ∧ (rtcSet s).rw = s.rw ∧
    (rtcSet s).store = s.store ∧ (rtcSet s).writes = s.writes ∧ (rtcSet s).out = s.out ∧ (rtcSet s).free = s.free := by
  simp [rtcSet, ite_pending, ite_ident, ite_arc, ite_pln, ite_fe, ite_hif, ite_ts, ite_key, ite_pke, ite_rnu, ite_tls, ite_ac, ite_tm, ite_lcc, ite_stc, ite_pwr, ite_io, ite_ev, ite_rw, ite_store, ite_writes, ite_out, ite_free]

@[simp] theorem ppsEdge_frame (s : State) :
    (ppsEdge s).pending = s.pending ∧ (ppsEdge s).ident = s.ident ∧ (ppsEdge s).arc = s.arc ∧ (ppsEdge s).pln = s.pln ∧
    (ppsEdge s).fe = s.fe ∧ (ppsEdge s).hif = s.hif ∧ (ppsEdge s).ts = s.ts ∧ (ppsEdge s).key = s.key ∧
    (ppsEdge s).pke = s.pke ∧ (ppsEdge s).rnu = s.rnu ∧ (ppsEdge s).tls = s.tls ∧ (ppsEdge s).ac = s.ac ∧
    (ppsEdge s).tm = s.tm ∧ (ppsEdge s).lcc = s.lcc ∧ (ppsEdge s).stc = s.stc ∧ (ppsEdge s).pwr = s.pwr ∧
    (ppsEdge s).io = s.io ∧ (ppsEdge s).ev = s.ev ∧ (ppsEdge s).rw = s.rw ∧ (ppsEdge s).store = s.store ∧
    (ppsEdge s).writes = s.writes ∧ (ppsEdge s).free = s.free := by
  simp [ppsEdge, ite_pending, ite_ident, ite_arc, ite_pln, ite_fe, ite_hif, ite_ts, ite_key, ite_pke, ite_rnu, ite_tls, ite_ac, ite_tm, ite_lcc, ite_stc, ite_pwr, ite_io, ite_ev, ite_rw, ite_store, ite_writes, ite_free]

@[simp] theorem streamEvent_frame (owner : Nat) (stamp : Nat) (quality : Nat) (e : StreamEvent) (s : State) :
    (streamEvent owner stamp quality e s).pending = s.pending ∧ (streamEvent owner stamp quality e s).ident = s.ident ∧
    (streamEvent owner stamp quality e s).sck = s.sck ∧ (streamEvent owner stamp quality e s).pln = s.pln ∧
    (streamEvent owner stamp quality e s).fe = s.fe ∧ (streamEvent owner stamp quality e s).hif = s.hif ∧
    (streamEvent owner stamp quality e s).ts = s.ts ∧ (streamEvent owner stamp quality e s).key = s.key ∧
    (streamEvent owner stamp quality e s).pke = s.pke ∧ (streamEvent owner stamp quality e s).rnu = s.rnu ∧
    (streamEvent owner stamp quality e s).tls = s.tls ∧ (streamEvent owner stamp quality e s).ac = s.ac ∧
    (streamEvent owner stamp quality e s).tm = s.tm ∧ (streamEvent owner stamp quality e s).lcc = s.lcc ∧
    (streamEvent owner stamp quality e s).stc = s.stc ∧ (streamEvent owner stamp quality e s).pwr = s.pwr ∧
    (streamEvent owner stamp quality e s).io = s.io ∧ (streamEvent owner stamp quality e s).ev = s.ev ∧
    (streamEvent owner stamp quality e s).rw = s.rw ∧ (streamEvent owner stamp quality e s).store = s.store ∧
    (streamEvent owner stamp quality e s).writes = s.writes ∧ (streamEvent owner stamp quality e s).out = s.out ∧
    (streamEvent owner stamp quality e s).free = s.free := by
  simp [streamEvent, ite_pending, ite_ident, ite_sck, ite_pln, ite_fe, ite_hif, ite_ts, ite_key, ite_pke, ite_rnu, ite_tls, ite_ac, ite_tm, ite_lcc, ite_stc, ite_pwr, ite_io, ite_ev, ite_rw, ite_store, ite_writes, ite_out, ite_free]

@[simp] theorem writeSummary_frame (x : Summary) (s : State) :
    (writeSummary x s).pending = s.pending ∧ (writeSummary x s).ident = s.ident ∧ (writeSummary x s).sck = s.sck ∧
    (writeSummary x s).pln = s.pln ∧ (writeSummary x s).fe = s.fe ∧ (writeSummary x s).hif = s.hif ∧
    (writeSummary x s).ts = s.ts ∧ (writeSummary x s).key = s.key ∧ (writeSummary x s).pke = s.pke ∧
    (writeSummary x s).rnu = s.rnu ∧ (writeSummary x s).tls = s.tls ∧ (writeSummary x s).ac = s.ac ∧
    (writeSummary x s).tm = s.tm ∧ (writeSummary x s).lcc = s.lcc ∧ (writeSummary x s).stc = s.stc ∧
    (writeSummary x s).pwr = s.pwr ∧ (writeSummary x s).io = s.io ∧ (writeSummary x s).ev = s.ev ∧
    (writeSummary x s).rw = s.rw ∧ (writeSummary x s).store = s.store ∧ (writeSummary x s).writes = s.writes ∧
    (writeSummary x s).out = s.out ∧ (writeSummary x s).free = s.free := by
  simp [writeSummary]

@[simp] theorem windowRec_frame (w : CapWindow) (subtype : Nat) (s : State) :
    (windowRec w subtype s).pending = s.pending ∧ (windowRec w subtype s).ident = s.ident ∧
    (windowRec w subtype s).sck = s.sck ∧ (windowRec w subtype s).pln = s.pln ∧ (windowRec w subtype s).fe = s.fe ∧
    (windowRec w subtype s).hif = s.hif ∧ (windowRec w subtype s).ts = s.ts ∧ (windowRec w subtype s).key = s.key ∧
    (windowRec w subtype s).pke = s.pke ∧ (windowRec w subtype s).rnu = s.rnu ∧ (windowRec w subtype s).tls = s.tls ∧
    (windowRec w subtype s).ac = s.ac ∧ (windowRec w subtype s).tm = s.tm ∧ (windowRec w subtype s).lcc = s.lcc ∧
    (windowRec w subtype s).stc = s.stc ∧ (windowRec w subtype s).pwr = s.pwr ∧ (windowRec w subtype s).io = s.io ∧
    (windowRec w subtype s).ev = s.ev ∧ (windowRec w subtype s).rw = s.rw ∧ (windowRec w subtype s).store = s.store ∧
    (windowRec w subtype s).writes = s.writes ∧ (windowRec w subtype s).out = s.out ∧ (windowRec w subtype s).free = s.free := by
  simp [windowRec]

@[simp] theorem dropWindow_frame (n : Nat) (s : State) :
    (dropWindow n s).pending = s.pending ∧ (dropWindow n s).ident = s.ident ∧ (dropWindow n s).sck = s.sck ∧
    (dropWindow n s).pln = s.pln ∧ (dropWindow n s).fe = s.fe ∧ (dropWindow n s).hif = s.hif ∧ (dropWindow n s).ts = s.ts ∧
    (dropWindow n s).key = s.key ∧ (dropWindow n s).pke = s.pke ∧ (dropWindow n s).rnu = s.rnu ∧ (dropWindow n s).tls = s.tls ∧
    (dropWindow n s).ac = s.ac ∧ (dropWindow n s).tm = s.tm ∧ (dropWindow n s).lcc = s.lcc ∧ (dropWindow n s).stc = s.stc ∧
    (dropWindow n s).pwr = s.pwr ∧ (dropWindow n s).io = s.io ∧ (dropWindow n s).ev = s.ev ∧ (dropWindow n s).rw = s.rw ∧
    (dropWindow n s).store = s.store ∧ (dropWindow n s).writes = s.writes ∧ (dropWindow n s).out = s.out ∧
    (dropWindow n s).free = s.free := by
  simp [dropWindow]

@[simp] theorem countBack_frame (s : State) :
    (countBack s).pending = s.pending ∧ (countBack s).ident = s.ident ∧ (countBack s).sck = s.sck ∧ (countBack s).pln = s.pln ∧
    (countBack s).fe = s.fe ∧ (countBack s).hif = s.hif ∧ (countBack s).ts = s.ts ∧ (countBack s).key = s.key ∧
    (countBack s).pke = s.pke ∧ (countBack s).rnu = s.rnu ∧ (countBack s).tls = s.tls ∧ (countBack s).ac = s.ac ∧
    (countBack s).tm = s.tm ∧ (countBack s).lcc = s.lcc ∧ (countBack s).stc = s.stc ∧ (countBack s).pwr = s.pwr ∧
    (countBack s).io = s.io ∧ (countBack s).ev = s.ev ∧ (countBack s).rw = s.rw ∧ (countBack s).store = s.store ∧
    (countBack s).writes = s.writes ∧ (countBack s).out = s.out ∧ (countBack s).free = s.free := by
  simp [countBack, ite_pending, ite_ident, ite_sck, ite_pln, ite_fe, ite_hif, ite_ts, ite_key, ite_pke, ite_rnu, ite_tls, ite_ac, ite_tm, ite_lcc, ite_stc, ite_pwr, ite_io, ite_ev, ite_rw, ite_store, ite_writes, ite_out, ite_free]

@[simp] theorem eraseReleased_frame (x1 : List Nat) (x2 : State) :
    (eraseReleased x1 x2).pending = x2.pending ∧ (eraseReleased x1 x2).ident = x2.ident ∧ (eraseReleased x1 x2).sck = x2.sck ∧
    (eraseReleased x1 x2).pln = x2.pln ∧ (eraseReleased x1 x2).fe = x2.fe ∧ (eraseReleased x1 x2).hif = x2.hif ∧
    (eraseReleased x1 x2).ts = x2.ts ∧ (eraseReleased x1 x2).key = x2.key ∧ (eraseReleased x1 x2).pke = x2.pke ∧
    (eraseReleased x1 x2).rnu = x2.rnu ∧ (eraseReleased x1 x2).tls = x2.tls ∧ (eraseReleased x1 x2).ac = x2.ac ∧
    (eraseReleased x1 x2).tm = x2.tm ∧ (eraseReleased x1 x2).lcc = x2.lcc ∧ (eraseReleased x1 x2).stc = x2.stc ∧
    (eraseReleased x1 x2).pwr = x2.pwr ∧ (eraseReleased x1 x2).io = x2.io ∧ (eraseReleased x1 x2).ev = x2.ev ∧
    (eraseReleased x1 x2).rw = x2.rw ∧ (eraseReleased x1 x2).store = x2.store ∧ (eraseReleased x1 x2).writes = x2.writes ∧
    (eraseReleased x1 x2).out = x2.out ∧ (eraseReleased x1 x2).free = x2.free := by
  induction x1 generalizing x2 with
  | nil => simp [eraseReleased]
  | cons c l ih => (simp only [eraseReleased, ih]; (repeat' split) <;> simp)

@[simp] theorem shrinkRing_frame (x1 : Nat) (x2 : State) :
    (shrinkRing x1 x2).pending = x2.pending ∧ (shrinkRing x1 x2).ident = x2.ident ∧ (shrinkRing x1 x2).sck = x2.sck ∧
    (shrinkRing x1 x2).ac = x2.ac ∧ (shrinkRing x1 x2).pwr = x2.pwr ∧ (shrinkRing x1 x2).rw = x2.rw ∧
    (shrinkRing x1 x2).store = x2.store ∧ (shrinkRing x1 x2).writes = x2.writes ∧ (shrinkRing x1 x2).free = x2.free := by
  induction x1 generalizing x2 with
  | zero => simp [shrinkRing]
  | succ n ih => (simp only [shrinkRing]; (repeat' split) <;> simp [ih])

end Sys2Proof.Machine
end

