-- ==== Sys2Proof/Laws/Vault.lean ====
section
/-! SUPPORT. What the operations of Machine/Vault.lean leave unchanged, once for each: its frame. -/

namespace Sys2Proof.Machine

@[simp] theorem onVault_frame (f : Nat) (bytes : Nat) (g : VaultZone → VaultZone) (s : State) :
    (onVault f bytes g s).pending = s.pending ∧ (onVault f bytes g s).ident = s.ident ∧ (onVault f bytes g s).sck = s.sck ∧
    (onVault f bytes g s).fe = s.fe ∧ (onVault f bytes g s).ts = s.ts ∧ (onVault f bytes g s).key = s.key ∧
    (onVault f bytes g s).pke = s.pke ∧ (onVault f bytes g s).rnu = s.rnu ∧ (onVault f bytes g s).tls = s.tls ∧
    (onVault f bytes g s).ac = s.ac ∧ (onVault f bytes g s).tm = s.tm ∧ (onVault f bytes g s).lcc = s.lcc ∧
    (onVault f bytes g s).stc = s.stc ∧ (onVault f bytes g s).pwr = s.pwr ∧ (onVault f bytes g s).io = s.io ∧
    (onVault f bytes g s).rw = s.rw ∧ (onVault f bytes g s).store = s.store ∧ (onVault f bytes g s).writes = s.writes ∧
    (onVault f bytes g s).free = s.free := by
  simp [onVault, ite_pending, ite_ident, ite_sck, ite_fe, ite_ts, ite_key, ite_pke, ite_rnu, ite_tls, ite_ac, ite_tm, ite_lcc, ite_stc, ite_pwr, ite_io, ite_rw, ite_store, ite_writes, ite_free]

@[simp] theorem storeImage_frame (f : Nat) (n : Nat) (i : PlanImage) (s : State) :
    (storeImage f n i s).pending = s.pending ∧ (storeImage f n i s).ident = s.ident ∧ (storeImage f n i s).sck = s.sck ∧
    (storeImage f n i s).fe = s.fe ∧ (storeImage f n i s).ts = s.ts ∧ (storeImage f n i s).key = s.key ∧
    (storeImage f n i s).pke = s.pke ∧ (storeImage f n i s).rnu = s.rnu ∧ (storeImage f n i s).tls = s.tls ∧
    (storeImage f n i s).ac = s.ac ∧ (storeImage f n i s).tm = s.tm ∧ (storeImage f n i s).lcc = s.lcc ∧
    (storeImage f n i s).stc = s.stc ∧ (storeImage f n i s).pwr = s.pwr ∧ (storeImage f n i s).io = s.io ∧
    (storeImage f n i s).rw = s.rw ∧ (storeImage f n i s).store = s.store ∧ (storeImage f n i s).writes = s.writes ∧
    (storeImage f n i s).free = s.free := by
  simp [storeImage]

@[simp] theorem dropImage_frame (f : Nat) (n : Option Nat) (s : State) :
    (dropImage f n s).pending = s.pending ∧ (dropImage f n s).ident = s.ident ∧ (dropImage f n s).sck = s.sck ∧
    (dropImage f n s).fe = s.fe ∧ (dropImage f n s).ts = s.ts ∧ (dropImage f n s).key = s.key ∧ (dropImage f n s).pke = s.pke ∧
    (dropImage f n s).rnu = s.rnu ∧ (dropImage f n s).tls = s.tls ∧ (dropImage f n s).ac = s.ac ∧ (dropImage f n s).tm = s.tm ∧
    (dropImage f n s).lcc = s.lcc ∧ (dropImage f n s).stc = s.stc ∧ (dropImage f n s).pwr = s.pwr ∧
    (dropImage f n s).io = s.io ∧ (dropImage f n s).rw = s.rw ∧ (dropImage f n s).store = s.store ∧
    (dropImage f n s).writes = s.writes ∧ (dropImage f n s).free = s.free := by
  simp only [dropImage]
  (repeat' split) <;> simp

@[simp] theorem repairSlot_frame (zone : Nat) (n : Nat) (i : PlanImage) (s : State) :
    (repairSlot zone n i s).pending = s.pending ∧ (repairSlot zone n i s).ident = s.ident ∧
    (repairSlot zone n i s).sck = s.sck ∧ (repairSlot zone n i s).fe = s.fe ∧ (repairSlot zone n i s).hif = s.hif ∧
    (repairSlot zone n i s).ts = s.ts ∧ (repairSlot zone n i s).key = s.key ∧ (repairSlot zone n i s).pke = s.pke ∧
    (repairSlot zone n i s).rnu = s.rnu ∧ (repairSlot zone n i s).tls = s.tls ∧ (repairSlot zone n i s).ac = s.ac ∧
    (repairSlot zone n i s).tm = s.tm ∧ (repairSlot zone n i s).lcc = s.lcc ∧ (repairSlot zone n i s).stc = s.stc ∧
    (repairSlot zone n i s).pwr = s.pwr ∧ (repairSlot zone n i s).io = s.io ∧ (repairSlot zone n i s).ev = s.ev ∧
    (repairSlot zone n i s).rw = s.rw ∧ (repairSlot zone n i s).store = s.store ∧ (repairSlot zone n i s).writes = s.writes ∧
    (repairSlot zone n i s).out = s.out ∧ (repairSlot zone n i s).free = s.free := by
  simp [repairSlot]

@[simp] theorem appendBlob_frame (b : Blob) (s : State) :
    (appendBlob b s).pending = s.pending ∧ (appendBlob b s).ident = s.ident ∧ (appendBlob b s).sck = s.sck ∧
    (appendBlob b s).fe = s.fe ∧ (appendBlob b s).ts = s.ts ∧ (appendBlob b s).pke = s.pke ∧ (appendBlob b s).rnu = s.rnu ∧
    (appendBlob b s).tls = s.tls ∧ (appendBlob b s).ac = s.ac ∧ (appendBlob b s).tm = s.tm ∧ (appendBlob b s).lcc = s.lcc ∧
    (appendBlob b s).stc = s.stc ∧ (appendBlob b s).pwr = s.pwr ∧ (appendBlob b s).io = s.io ∧ (appendBlob b s).rw = s.rw ∧
    (appendBlob b s).store = s.store ∧ (appendBlob b s).writes = s.writes ∧ (appendBlob b s).free = s.free := by
  simp [appendBlob]

end Sys2Proof.Machine
end

