-- ==== Sys2Proof/Laws/Host.lean ====
section
/-! SUPPORT. What the operations of Machine/Host.lean leave unchanged, once for each: its frame. -/

namespace Sys2Proof.Machine

@[simp] theorem State.setRing_frame (f : Nat) (r : Nat) (v : Ring) (s : State) :
    (State.setRing f r v s).pending = s.pending ∧ (State.setRing f r v s).ident = s.ident ∧
    (State.setRing f r v s).sck = s.sck ∧ (State.setRing f r v s).arc = s.arc ∧ (State.setRing f r v s).pln = s.pln ∧
    (State.setRing f r v s).fe = s.fe ∧ (State.setRing f r v s).ts = s.ts ∧ (State.setRing f r v s).key = s.key ∧
    (State.setRing f r v s).pke = s.pke ∧ (State.setRing f r v s).rnu = s.rnu ∧ (State.setRing f r v s).tls = s.tls ∧
    (State.setRing f r v s).ac = s.ac ∧ (State.setRing f r v s).tm = s.tm ∧ (State.setRing f r v s).lcc = s.lcc ∧
    (State.setRing f r v s).stc = s.stc ∧ (State.setRing f r v s).pwr = s.pwr ∧ (State.setRing f r v s).io = s.io ∧
    (State.setRing f r v s).ev = s.ev ∧ (State.setRing f r v s).rw = s.rw ∧ (State.setRing f r v s).store = s.store ∧
    (State.setRing f r v s).writes = s.writes ∧ (State.setRing f r v s).out = s.out ∧ (State.setRing f r v s).free = s.free := by
  simp [State.setRing]

@[simp] theorem State.updRing_frame (f : Nat) (r : Nat) (g : Ring → Ring) (s : State) :
    (State.updRing f r g s).pending = s.pending ∧ (State.updRing f r g s).ident = s.ident ∧
    (State.updRing f r g s).sck = s.sck ∧ (State.updRing f r g s).arc = s.arc ∧ (State.updRing f r g s).pln = s.pln ∧
    (State.updRing f r g s).fe = s.fe ∧ (State.updRing f r g s).ts = s.ts ∧ (State.updRing f r g s).key = s.key ∧
    (State.updRing f r g s).pke = s.pke ∧ (State.updRing f r g s).rnu = s.rnu ∧ (State.updRing f r g s).tls = s.tls ∧
    (State.updRing f r g s).ac = s.ac ∧ (State.updRing f r g s).tm = s.tm ∧ (State.updRing f r g s).lcc = s.lcc ∧
    (State.updRing f r g s).stc = s.stc ∧ (State.updRing f r g s).pwr = s.pwr ∧ (State.updRing f r g s).io = s.io ∧
    (State.updRing f r g s).ev = s.ev ∧ (State.updRing f r g s).rw = s.rw ∧ (State.updRing f r g s).store = s.store ∧
    (State.updRing f r g s).writes = s.writes ∧ (State.updRing f r g s).out = s.out ∧ (State.updRing f r g s).free = s.free := by
  simp [State.updRing]

@[simp] theorem writeMirror_frame (f : Nat) (r : Nat) (s : State) :
    (writeMirror f r s).pending = s.pending ∧ (writeMirror f r s).ident = s.ident ∧ (writeMirror f r s).sck = s.sck ∧
    (writeMirror f r s).arc = s.arc ∧ (writeMirror f r s).pln = s.pln ∧ (writeMirror f r s).fe = s.fe ∧
    (writeMirror f r s).ts = s.ts ∧ (writeMirror f r s).key = s.key ∧ (writeMirror f r s).pke = s.pke ∧
    (writeMirror f r s).rnu = s.rnu ∧ (writeMirror f r s).tls = s.tls ∧ (writeMirror f r s).ac = s.ac ∧
    (writeMirror f r s).tm = s.tm ∧ (writeMirror f r s).lcc = s.lcc ∧ (writeMirror f r s).stc = s.stc ∧
    (writeMirror f r s).pwr = s.pwr ∧ (writeMirror f r s).io = s.io ∧ (writeMirror f r s).ev = s.ev ∧
    (writeMirror f r s).rw = s.rw ∧ (writeMirror f r s).store = s.store ∧ (writeMirror f r s).writes = s.writes ∧
    (writeMirror f r s).free = s.free := by
  simp [writeMirror]

@[simp] theorem State.setCtx_frame (v : Ctx) (s : State) :
    (State.setCtx v s).pending = s.pending ∧ (State.setCtx v s).ident = s.ident ∧ (State.setCtx v s).sck = s.sck ∧
    (State.setCtx v s).arc = s.arc ∧ (State.setCtx v s).pln = s.pln ∧ (State.setCtx v s).fe = s.fe ∧
    (State.setCtx v s).ts = s.ts ∧ (State.setCtx v s).key = s.key ∧ (State.setCtx v s).pke = s.pke ∧
    (State.setCtx v s).rnu = s.rnu ∧ (State.setCtx v s).tls = s.tls ∧ (State.setCtx v s).ac = s.ac ∧
    (State.setCtx v s).tm = s.tm ∧ (State.setCtx v s).lcc = s.lcc ∧ (State.setCtx v s).stc = s.stc ∧
    (State.setCtx v s).pwr = s.pwr ∧ (State.setCtx v s).io = s.io ∧ (State.setCtx v s).ev = s.ev ∧
    (State.setCtx v s).rw = s.rw ∧ (State.setCtx v s).store = s.store ∧ (State.setCtx v s).writes = s.writes ∧
    (State.setCtx v s).out = s.out ∧ (State.setCtx v s).free = s.free := by
  simp [State.setCtx]

@[simp] theorem releaseHolds_frame (id : Nat) (f : Nat) (s : State) :
    (releaseHolds id f s).pending = s.pending ∧ (releaseHolds id f s).ident = s.ident ∧ (releaseHolds id f s).sck = s.sck ∧
    (releaseHolds id f s).arc = s.arc ∧ (releaseHolds id f s).pln = s.pln ∧ (releaseHolds id f s).fe = s.fe ∧
    (releaseHolds id f s).hif = s.hif ∧ (releaseHolds id f s).key = s.key ∧ (releaseHolds id f s).pke = s.pke ∧
    (releaseHolds id f s).rnu = s.rnu ∧ (releaseHolds id f s).tls = s.tls ∧ (releaseHolds id f s).ac = s.ac ∧
    (releaseHolds id f s).tm = s.tm ∧ (releaseHolds id f s).lcc = s.lcc ∧ (releaseHolds id f s).stc = s.stc ∧
    (releaseHolds id f s).pwr = s.pwr ∧ (releaseHolds id f s).io = s.io ∧ (releaseHolds id f s).ev = s.ev ∧
    (releaseHolds id f s).rw = s.rw ∧ (releaseHolds id f s).store = s.store ∧ (releaseHolds id f s).writes = s.writes ∧
    (releaseHolds id f s).out = s.out ∧ (releaseHolds id f s).free = s.free := by
  simp [releaseHolds]

@[simp] theorem freeCtx_frame (id : Nat) (s : State) :
    (freeCtx id s).pending = s.pending ∧ (freeCtx id s).ident = s.ident ∧ (freeCtx id s).sck = s.sck ∧
    (freeCtx id s).arc = s.arc ∧ (freeCtx id s).pln = s.pln ∧ (freeCtx id s).fe = s.fe ∧ (freeCtx id s).ts = s.ts ∧
    (freeCtx id s).key = s.key ∧ (freeCtx id s).pke = s.pke ∧ (freeCtx id s).rnu = s.rnu ∧ (freeCtx id s).tls = s.tls ∧
    (freeCtx id s).ac = s.ac ∧ (freeCtx id s).tm = s.tm ∧ (freeCtx id s).lcc = s.lcc ∧ (freeCtx id s).stc = s.stc ∧
    (freeCtx id s).pwr = s.pwr ∧ (freeCtx id s).io = s.io ∧ (freeCtx id s).ev = s.ev ∧ (freeCtx id s).rw = s.rw ∧
    (freeCtx id s).store = s.store ∧ (freeCtx id s).writes = s.writes ∧ (freeCtx id s).out = s.out ∧
    (freeCtx id s).free = s.free := by
  simp [freeCtx]

@[simp] theorem countDiscard_frame (f : Nat) (orphan : Nat) (s : State) :
    (countDiscard f orphan s).pending = s.pending ∧ (countDiscard f orphan s).ident = s.ident ∧
    (countDiscard f orphan s).sck = s.sck ∧ (countDiscard f orphan s).arc = s.arc ∧ (countDiscard f orphan s).pln = s.pln ∧
    (countDiscard f orphan s).fe = s.fe ∧ (countDiscard f orphan s).ts = s.ts ∧ (countDiscard f orphan s).key = s.key ∧
    (countDiscard f orphan s).pke = s.pke ∧ (countDiscard f orphan s).rnu = s.rnu ∧ (countDiscard f orphan s).tls = s.tls ∧
    (countDiscard f orphan s).ac = s.ac ∧ (countDiscard f orphan s).tm = s.tm ∧ (countDiscard f orphan s).lcc = s.lcc ∧
    (countDiscard f orphan s).stc = s.stc ∧ (countDiscard f orphan s).pwr = s.pwr ∧ (countDiscard f orphan s).io = s.io ∧
    (countDiscard f orphan s).ev = s.ev ∧ (countDiscard f orphan s).rw = s.rw ∧ (countDiscard f orphan s).store = s.store ∧
    (countDiscard f orphan s).writes = s.writes ∧ (countDiscard f orphan s).out = s.out ∧
    (countDiscard f orphan s).free = s.free := by
  simp [countDiscard, ite_pending, ite_ident, ite_sck, ite_arc, ite_pln, ite_fe, ite_ts, ite_key, ite_pke, ite_rnu, ite_tls, ite_ac, ite_tm, ite_lcc, ite_stc, ite_pwr, ite_io, ite_ev, ite_rw, ite_store, ite_writes, ite_out, ite_free]

@[simp] theorem writeCompletion_frame (f : Nat) (r : Nat) (count : Nat) (addr : Nat) (c : Completion) (s : State) :
    (writeCompletion f r count addr c s).pending = s.pending ∧ (writeCompletion f r count addr c s).ident = s.ident ∧
    (writeCompletion f r count addr c s).sck = s.sck ∧ (writeCompletion f r count addr c s).arc = s.arc ∧
    (writeCompletion f r count addr c s).pln = s.pln ∧ (writeCompletion f r count addr c s).fe = s.fe ∧
    (writeCompletion f r count addr c s).ts = s.ts ∧ (writeCompletion f r count addr c s).key = s.key ∧
    (writeCompletion f r count addr c s).pke = s.pke ∧ (writeCompletion f r count addr c s).rnu = s.rnu ∧
    (writeCompletion f r count addr c s).tls = s.tls ∧ (writeCompletion f r count addr c s).ac = s.ac ∧
    (writeCompletion f r count addr c s).tm = s.tm ∧ (writeCompletion f r count addr c s).lcc = s.lcc ∧
    (writeCompletion f r count addr c s).stc = s.stc ∧ (writeCompletion f r count addr c s).pwr = s.pwr ∧
    (writeCompletion f r count addr c s).io = s.io ∧ (writeCompletion f r count addr c s).ev = s.ev ∧
    (writeCompletion f r count addr c s).rw = s.rw ∧ (writeCompletion f r count addr c s).store = s.store ∧
    (writeCompletion f r count addr c s).writes = s.writes ∧ (writeCompletion f r count addr c s).free = s.free := by
  simp [writeCompletion, ite_pending, ite_ident, ite_sck, ite_arc, ite_pln, ite_fe, ite_ts, ite_key, ite_pke, ite_rnu, ite_tls, ite_ac, ite_tm, ite_lcc, ite_stc, ite_pwr, ite_io, ite_ev, ite_rw, ite_store, ite_writes, ite_free]

@[simp] theorem finishCtx_frame (c : Ctx) (comp : Completion) (s : State) :
    (finishCtx c comp s).pending = s.pending ∧ (finishCtx c comp s).ident = s.ident ∧ (finishCtx c comp s).sck = s.sck ∧
    (finishCtx c comp s).arc = s.arc ∧ (finishCtx c comp s).pln = s.pln ∧ (finishCtx c comp s).fe = s.fe ∧
    (finishCtx c comp s).key = s.key ∧ (finishCtx c comp s).pke = s.pke ∧ (finishCtx c comp s).rnu = s.rnu ∧
    (finishCtx c comp s).tls = s.tls ∧ (finishCtx c comp s).ac = s.ac ∧ (finishCtx c comp s).tm = s.tm ∧
    (finishCtx c comp s).lcc = s.lcc ∧ (finishCtx c comp s).stc = s.stc ∧ (finishCtx c comp s).pwr = s.pwr ∧
    (finishCtx c comp s).io = s.io ∧ (finishCtx c comp s).ev = s.ev ∧ (finishCtx c comp s).rw = s.rw ∧
    (finishCtx c comp s).store = s.store ∧ (finishCtx c comp s).writes = s.writes ∧ (finishCtx c comp s).free = s.free := by
  simp [finishCtx, ite_pending, ite_ident, ite_sck, ite_arc, ite_pln, ite_fe, ite_key, ite_pke, ite_rnu, ite_tls, ite_ac, ite_tm, ite_lcc, ite_stc, ite_pwr, ite_io, ite_ev, ite_rw, ite_store, ite_writes, ite_free]

@[simp] theorem finishWhere_frame (p : Ctx → Bool) (code : Nat) (x1 : List Ctx) (x2 : State) :
    (finishWhere p code x1 x2).pending = x2.pending ∧ (finishWhere p code x1 x2).ident = x2.ident ∧
    (finishWhere p code x1 x2).sck = x2.sck ∧ (finishWhere p code x1 x2).arc = x2.arc ∧
    (finishWhere p code x1 x2).pln = x2.pln ∧ (finishWhere p code x1 x2).fe = x2.fe ∧ (finishWhere p code x1 x2).key = x2.key ∧
    (finishWhere p code x1 x2).pke = x2.pke ∧ (finishWhere p code x1 x2).rnu = x2.rnu ∧
    (finishWhere p code x1 x2).tls = x2.tls ∧ (finishWhere p code x1 x2).ac = x2.ac ∧ (finishWhere p code x1 x2).tm = x2.tm ∧
    (finishWhere p code x1 x2).lcc = x2.lcc ∧ (finishWhere p code x1 x2).stc = x2.stc ∧
    (finishWhere p code x1 x2).pwr = x2.pwr ∧ (finishWhere p code x1 x2).io = x2.io ∧ (finishWhere p code x1 x2).ev = x2.ev ∧
    (finishWhere p code x1 x2).rw = x2.rw ∧ (finishWhere p code x1 x2).store = x2.store ∧
    (finishWhere p code x1 x2).writes = x2.writes ∧ (finishWhere p code x1 x2).free = x2.free := by
  induction x1 generalizing p code x2 with
  | nil => simp [finishWhere]
  | cons c l ih => (simp only [finishWhere, ih]; (repeat' split) <;> simp)

@[simp] theorem leaveLoading_frame (f : Nat) (reason : Nat) (s : State) :
    (leaveLoading f reason s).pending = s.pending ∧ (leaveLoading f reason s).ident = s.ident ∧
    (leaveLoading f reason s).sck = s.sck ∧ (leaveLoading f reason s).fe = s.fe ∧ (leaveLoading f reason s).ts = s.ts ∧
    (leaveLoading f reason s).key = s.key ∧ (leaveLoading f reason s).pke = s.pke ∧ (leaveLoading f reason s).rnu = s.rnu ∧
    (leaveLoading f reason s).tls = s.tls ∧ (leaveLoading f reason s).ac = s.ac ∧ (leaveLoading f reason s).tm = s.tm ∧
    (leaveLoading f reason s).lcc = s.lcc ∧ (leaveLoading f reason s).stc = s.stc ∧ (leaveLoading f reason s).pwr = s.pwr ∧
    (leaveLoading f reason s).io = s.io ∧ (leaveLoading f reason s).rw = s.rw ∧ (leaveLoading f reason s).store = s.store ∧
    (leaveLoading f reason s).writes = s.writes ∧ (leaveLoading f reason s).free = s.free := by
  simp only [leaveLoading]
  (repeat' split) <;> simp

@[simp] theorem leaveTransfer_frame (op : Nat) (f : Nat) (s : State) :
    (leaveTransfer op f s).pending = s.pending ∧ (leaveTransfer op f s).ident = s.ident ∧ (leaveTransfer op f s).sck = s.sck ∧
    (leaveTransfer op f s).fe = s.fe ∧ (leaveTransfer op f s).ts = s.ts ∧ (leaveTransfer op f s).key = s.key ∧
    (leaveTransfer op f s).pke = s.pke ∧ (leaveTransfer op f s).rnu = s.rnu ∧ (leaveTransfer op f s).tls = s.tls ∧
    (leaveTransfer op f s).ac = s.ac ∧ (leaveTransfer op f s).tm = s.tm ∧ (leaveTransfer op f s).lcc = s.lcc ∧
    (leaveTransfer op f s).stc = s.stc ∧ (leaveTransfer op f s).io = s.io ∧ (leaveTransfer op f s).rw = s.rw ∧
    (leaveTransfer op f s).store = s.store ∧ (leaveTransfer op f s).writes = s.writes ∧ (leaveTransfer op f s).free = s.free := by
  simp [leaveTransfer, ite_pending, ite_ident, ite_sck, ite_fe, ite_ts, ite_key, ite_pke, ite_rnu, ite_tls, ite_ac, ite_tm, ite_lcc, ite_stc, ite_io, ite_rw, ite_store, ite_writes, ite_free]

@[simp] theorem abortPort_frame (f : Nat) (protocol : Bool) (s : State) :
    (abortPort f protocol s).pending = s.pending ∧ (abortPort f protocol s).ident = s.ident ∧
    (abortPort f protocol s).sck = s.sck ∧ (abortPort f protocol s).fe = s.fe ∧ (abortPort f protocol s).key = s.key ∧
    (abortPort f protocol s).pke = s.pke ∧ (abortPort f protocol s).rnu = s.rnu ∧ (abortPort f protocol s).tls = s.tls ∧
    (abortPort f protocol s).ac = s.ac ∧ (abortPort f protocol s).tm = s.tm ∧ (abortPort f protocol s).lcc = s.lcc ∧
    (abortPort f protocol s).stc = s.stc ∧ (abortPort f protocol s).io = s.io ∧ (abortPort f protocol s).rw = s.rw ∧
    (abortPort f protocol s).store = s.store ∧ (abortPort f protocol s).writes = s.writes ∧
    (abortPort f protocol s).free = s.free := by
  simp only [abortPort]
  (repeat' split) <;> simp

@[simp] theorem haltMirrors_frame (f : Nat) (x1 : Nat) (x2 : State) :
    (haltMirrors f x1 x2).pending = x2.pending ∧ (haltMirrors f x1 x2).ident = x2.ident ∧ (haltMirrors f x1 x2).sck = x2.sck ∧
    (haltMirrors f x1 x2).arc = x2.arc ∧ (haltMirrors f x1 x2).pln = x2.pln ∧ (haltMirrors f x1 x2).fe = x2.fe ∧
    (haltMirrors f x1 x2).ts = x2.ts ∧ (haltMirrors f x1 x2).key = x2.key ∧ (haltMirrors f x1 x2).pke = x2.pke ∧
    (haltMirrors f x1 x2).rnu = x2.rnu ∧ (haltMirrors f x1 x2).tls = x2.tls ∧ (haltMirrors f x1 x2).ac = x2.ac ∧
    (haltMirrors f x1 x2).tm = x2.tm ∧ (haltMirrors f x1 x2).lcc = x2.lcc ∧ (haltMirrors f x1 x2).stc = x2.stc ∧
    (haltMirrors f x1 x2).pwr = x2.pwr ∧ (haltMirrors f x1 x2).io = x2.io ∧ (haltMirrors f x1 x2).ev = x2.ev ∧
    (haltMirrors f x1 x2).rw = x2.rw ∧ (haltMirrors f x1 x2).store = x2.store ∧ (haltMirrors f x1 x2).writes = x2.writes ∧
    (haltMirrors f x1 x2).free = x2.free := by
  induction x1 generalizing f x2 with
  | zero => simp [haltMirrors]
  | succ n ih => (simp only [haltMirrors]; (repeat' split) <;> simp [ih])

@[simp] theorem haltFunc_frame (f : Nat) (cause : Nat) (ring : Nat) (opcode : Nat) (count : Nat) (s : State) :
    (haltFunc f cause ring opcode count s).pending = s.pending ∧ (haltFunc f cause ring opcode count s).ident = s.ident ∧
    (haltFunc f cause ring opcode count s).sck = s.sck ∧ (haltFunc f cause ring opcode count s).fe = s.fe ∧
    (haltFunc f cause ring opcode count s).key = s.key ∧ (haltFunc f cause ring opcode count s).pke = s.pke ∧
    (haltFunc f cause ring opcode count s).rnu = s.rnu ∧ (haltFunc f cause ring opcode count s).tls = s.tls ∧
    (haltFunc f cause ring opcode count s).ac = s.ac ∧ (haltFunc f cause ring opcode count s).tm = s.tm ∧
    (haltFunc f cause ring opcode count s).lcc = s.lcc ∧ (haltFunc f cause ring opcode count s).stc = s.stc ∧
    (haltFunc f cause ring opcode count s).io = s.io ∧ (haltFunc f cause ring opcode count s).rw = s.rw ∧
    (haltFunc f cause ring opcode count s).store = s.store ∧ (haltFunc f cause ring opcode count s).writes = s.writes ∧
    (haltFunc f cause ring opcode count s).free = s.free := by
  simp [haltFunc, ite_pending, ite_ident, ite_sck, ite_fe, ite_key, ite_pke, ite_rnu, ite_tls, ite_ac, ite_tm, ite_lcc, ite_stc, ite_io, ite_rw, ite_store, ite_writes, ite_free]

@[simp] theorem haltVfs_frame (x1 : Nat) (x2 : State) :
    (haltVfs x1 x2).pending = x2.pending ∧ (haltVfs x1 x2).ident = x2.ident ∧ (haltVfs x1 x2).sck = x2.sck ∧
    (haltVfs x1 x2).fe = x2.fe ∧ (haltVfs x1 x2).key = x2.key ∧ (haltVfs x1 x2).pke = x2.pke ∧ (haltVfs x1 x2).rnu = x2.rnu ∧
    (haltVfs x1 x2).tls = x2.tls ∧ (haltVfs x1 x2).ac = x2.ac ∧ (haltVfs x1 x2).tm = x2.tm ∧ (haltVfs x1 x2).lcc = x2.lcc ∧
    (haltVfs x1 x2).stc = x2.stc ∧ (haltVfs x1 x2).io = x2.io ∧ (haltVfs x1 x2).rw = x2.rw ∧ (haltVfs x1 x2).store = x2.store ∧
    (haltVfs x1 x2).writes = x2.writes ∧ (haltVfs x1 x2).free = x2.free := by
  induction x1 generalizing x2 with
  | zero => simp [haltVfs]
  | succ n ih => (simp only [haltVfs]; (repeat' split) <;> simp [ih])

@[simp] theorem halt_frame (f : Nat) (cause : Nat) (ring : Nat) (opcode : Nat) (count : Nat) (s : State) :
    (halt f cause ring opcode count s).pending = s.pending ∧ (halt f cause ring opcode count s).ident = s.ident ∧
    (halt f cause ring opcode count s).sck = s.sck ∧ (halt f cause ring opcode count s).fe = s.fe ∧
    (halt f cause ring opcode count s).key = s.key ∧ (halt f cause ring opcode count s).pke = s.pke ∧
    (halt f cause ring opcode count s).rnu = s.rnu ∧ (halt f cause ring opcode count s).tls = s.tls ∧
    (halt f cause ring opcode count s).ac = s.ac ∧ (halt f cause ring opcode count s).tm = s.tm ∧
    (halt f cause ring opcode count s).lcc = s.lcc ∧ (halt f cause ring opcode count s).stc = s.stc ∧
    (halt f cause ring opcode count s).io = s.io ∧ (halt f cause ring opcode count s).rw = s.rw ∧
    (halt f cause ring opcode count s).store = s.store ∧ (halt f cause ring opcode count s).writes = s.writes ∧
    (halt f cause ring opcode count s).free = s.free := by
  simp [halt, ite_pending, ite_ident, ite_sck, ite_fe, ite_key, ite_pke, ite_rnu, ite_tls, ite_ac, ite_tm, ite_lcc, ite_stc, ite_io, ite_rw, ite_store, ite_writes, ite_free]

end Sys2Proof.Machine
end

