-- ==== Sys2Proof/Laws/Sched.lean ====
section
/-! SUPPORT. What the operations of Machine/Sched.lean leave unchanged, once for each: its frame. -/

namespace Sys2Proof.Machine

@[simp] theorem State.setQueue_frame (q : Nat) (v : Queue) (s : State) :
    (State.setQueue q v s).pending = s.pending ∧ (State.setQueue q v s).ident = s.ident ∧ (State.setQueue q v s).sck = s.sck ∧
    (State.setQueue q v s).arc = s.arc ∧ (State.setQueue q v s).pln = s.pln ∧ (State.setQueue q v s).fe = s.fe ∧
    (State.setQueue q v s).hif = s.hif ∧ (State.setQueue q v s).key = s.key ∧ (State.setQueue q v s).pke = s.pke ∧
    (State.setQueue q v s).rnu = s.rnu ∧ (State.setQueue q v s).tls = s.tls ∧ (State.setQueue q v s).ac = s.ac ∧
    (State.setQueue q v s).tm = s.tm ∧ (State.setQueue q v s).lcc = s.lcc ∧ (State.setQueue q v s).stc = s.stc ∧
    (State.setQueue q v s).pwr = s.pwr ∧ (State.setQueue q v s).io = s.io ∧ (State.setQueue q v s).ev = s.ev ∧
    (State.setQueue q v s).rw = s.rw ∧ (State.setQueue q v s).store = s.store ∧ (State.setQueue q v s).writes = s.writes ∧
    (State.setQueue q v s).out = s.out ∧ (State.setQueue q v s).free = s.free := by
  simp [State.setQueue]

@[simp] theorem makeReady_frame (kind : WorkKind) (group : Nat) (s : State) :
    (makeReady kind group s).pending = s.pending ∧ (makeReady kind group s).ident = s.ident ∧
    (makeReady kind group s).sck = s.sck ∧ (makeReady kind group s).arc = s.arc ∧ (makeReady kind group s).pln = s.pln ∧
    (makeReady kind group s).fe = s.fe ∧ (makeReady kind group s).hif = s.hif ∧ (makeReady kind group s).key = s.key ∧
    (makeReady kind group s).pke = s.pke ∧ (makeReady kind group s).rnu = s.rnu ∧ (makeReady kind group s).tls = s.tls ∧
    (makeReady kind group s).ac = s.ac ∧ (makeReady kind group s).tm = s.tm ∧ (makeReady kind group s).lcc = s.lcc ∧
    (makeReady kind group s).stc = s.stc ∧ (makeReady kind group s).pwr = s.pwr ∧ (makeReady kind group s).io = s.io ∧
    (makeReady kind group s).ev = s.ev ∧ (makeReady kind group s).rw = s.rw ∧ (makeReady kind group s).store = s.store ∧
    (makeReady kind group s).writes = s.writes ∧ (makeReady kind group s).out = s.out ∧
    (makeReady kind group s).free = s.free := by
  simp [makeReady]

@[simp] theorem levelCross_frame (q : Nat) (before : Nat) (s : State) :
    (levelCross q before s).pending = s.pending ∧ (levelCross q before s).ident = s.ident ∧
    (levelCross q before s).sck = s.sck ∧ (levelCross q before s).arc = s.arc ∧ (levelCross q before s).pln = s.pln ∧
    (levelCross q before s).fe = s.fe ∧ (levelCross q before s).key = s.key ∧ (levelCross q before s).pke = s.pke ∧
    (levelCross q before s).rnu = s.rnu ∧ (levelCross q before s).tls = s.tls ∧ (levelCross q before s).ac = s.ac ∧
    (levelCross q before s).tm = s.tm ∧ (levelCross q before s).lcc = s.lcc ∧ (levelCross q before s).stc = s.stc ∧
    (levelCross q before s).pwr = s.pwr ∧ (levelCross q before s).io = s.io ∧ (levelCross q before s).rw = s.rw ∧
    (levelCross q before s).store = s.store ∧ (levelCross q before s).writes = s.writes ∧
    (levelCross q before s).free = s.free := by
  simp only [levelCross]
  (repeat' split) <;> simp

@[simp] theorem qmPut_frame (q : Nat) (p : Packet) (s : State) :
    (qmPut q p s).pending = s.pending ∧ (qmPut q p s).ident = s.ident ∧ (qmPut q p s).sck = s.sck ∧ (qmPut q p s).arc = s.arc ∧
    (qmPut q p s).pln = s.pln ∧ (qmPut q p s).fe = s.fe ∧ (qmPut q p s).key = s.key ∧ (qmPut q p s).pke = s.pke ∧
    (qmPut q p s).rnu = s.rnu ∧ (qmPut q p s).tls = s.tls ∧ (qmPut q p s).ac = s.ac ∧ (qmPut q p s).tm = s.tm ∧
    (qmPut q p s).lcc = s.lcc ∧ (qmPut q p s).stc = s.stc ∧ (qmPut q p s).pwr = s.pwr ∧ (qmPut q p s).io = s.io ∧
    (qmPut q p s).rw = s.rw ∧ (qmPut q p s).store = s.store ∧ (qmPut q p s).writes = s.writes ∧ (qmPut q p s).free = s.free := by
  simp only [qmPut]
  (repeat' split) <;> simp

@[simp] theorem bumpPort_frame (p : Nat) (i : Nat) (k : Nat) (s : State) :
    (bumpPort p i k s).pending = s.pending ∧ (bumpPort p i k s).ident = s.ident ∧ (bumpPort p i k s).sck = s.sck ∧
    (bumpPort p i k s).arc = s.arc ∧ (bumpPort p i k s).pln = s.pln ∧ (bumpPort p i k s).hif = s.hif ∧
    (bumpPort p i k s).ts = s.ts ∧ (bumpPort p i k s).key = s.key ∧ (bumpPort p i k s).pke = s.pke ∧
    (bumpPort p i k s).rnu = s.rnu ∧ (bumpPort p i k s).tls = s.tls ∧ (bumpPort p i k s).ac = s.ac ∧
    (bumpPort p i k s).tm = s.tm ∧ (bumpPort p i k s).lcc = s.lcc ∧ (bumpPort p i k s).stc = s.stc ∧
    (bumpPort p i k s).pwr = s.pwr ∧ (bumpPort p i k s).io = s.io ∧ (bumpPort p i k s).ev = s.ev ∧
    (bumpPort p i k s).rw = s.rw ∧ (bumpPort p i k s).store = s.store ∧ (bumpPort p i k s).writes = s.writes ∧
    (bumpPort p i k s).out = s.out ∧ (bumpPort p i k s).free = s.free := by
  simp [bumpPort]

@[simp] theorem State.setCore_frame (c : Nat) (v : CoreRt) (s : State) :
    (State.setCore c v s).pending = s.pending ∧ (State.setCore c v s).ident = s.ident ∧ (State.setCore c v s).sck = s.sck ∧
    (State.setCore c v s).arc = s.arc ∧ (State.setCore c v s).pln = s.pln ∧ (State.setCore c v s).fe = s.fe ∧
    (State.setCore c v s).hif = s.hif ∧ (State.setCore c v s).key = s.key ∧ (State.setCore c v s).pke = s.pke ∧
    (State.setCore c v s).rnu = s.rnu ∧ (State.setCore c v s).tls = s.tls ∧ (State.setCore c v s).ac = s.ac ∧
    (State.setCore c v s).tm = s.tm ∧ (State.setCore c v s).lcc = s.lcc ∧ (State.setCore c v s).stc = s.stc ∧
    (State.setCore c v s).pwr = s.pwr ∧ (State.setCore c v s).io = s.io ∧ (State.setCore c v s).ev = s.ev ∧
    (State.setCore c v s).rw = s.rw ∧ (State.setCore c v s).store = s.store ∧ (State.setCore c v s).writes = s.writes ∧
    (State.setCore c v s).out = s.out ∧ (State.setCore c v s).free = s.free := by
  simp [State.setCore]

@[simp] theorem noteUnserved_frame (s : State) :
    (noteUnserved s).pending = s.pending ∧ (noteUnserved s).ident = s.ident ∧ (noteUnserved s).sck = s.sck ∧
    (noteUnserved s).arc = s.arc ∧ (noteUnserved s).pln = s.pln ∧ (noteUnserved s).fe = s.fe ∧ (noteUnserved s).ts = s.ts ∧
    (noteUnserved s).key = s.key ∧ (noteUnserved s).pke = s.pke ∧ (noteUnserved s).rnu = s.rnu ∧ (noteUnserved s).tls = s.tls ∧
    (noteUnserved s).ac = s.ac ∧ (noteUnserved s).tm = s.tm ∧ (noteUnserved s).lcc = s.lcc ∧ (noteUnserved s).stc = s.stc ∧
    (noteUnserved s).pwr = s.pwr ∧ (noteUnserved s).io = s.io ∧ (noteUnserved s).rw = s.rw ∧ (noteUnserved s).store = s.store ∧
    (noteUnserved s).writes = s.writes ∧ (noteUnserved s).free = s.free := by
  simp [noteUnserved, ite_pending, ite_ident, ite_sck, ite_arc, ite_pln, ite_fe, ite_ts, ite_key, ite_pke, ite_rnu, ite_tls, ite_ac, ite_tm, ite_lcc, ite_stc, ite_pwr, ite_io, ite_rw, ite_store, ite_writes, ite_free]

@[simp] theorem dropItem_frame (id : Nat) (s : State) :
    (dropItem id s).pending = s.pending ∧ (dropItem id s).ident = s.ident ∧ (dropItem id s).sck = s.sck ∧
    (dropItem id s).arc = s.arc ∧ (dropItem id s).pln = s.pln ∧ (dropItem id s).fe = s.fe ∧ (dropItem id s).hif = s.hif ∧
    (dropItem id s).key = s.key ∧ (dropItem id s).pke = s.pke ∧ (dropItem id s).rnu = s.rnu ∧ (dropItem id s).tls = s.tls ∧
    (dropItem id s).ac = s.ac ∧ (dropItem id s).tm = s.tm ∧ (dropItem id s).lcc = s.lcc ∧ (dropItem id s).stc = s.stc ∧
    (dropItem id s).pwr = s.pwr ∧ (dropItem id s).io = s.io ∧ (dropItem id s).ev = s.ev ∧ (dropItem id s).rw = s.rw ∧
    (dropItem id s).store = s.store ∧ (dropItem id s).writes = s.writes ∧ (dropItem id s).out = s.out ∧
    (dropItem id s).free = s.free := by
  simp [dropItem]

@[simp] theorem refillCredit_frame (x1 : Nat) (x2 : State) :
    (refillCredit x1 x2).pending = x2.pending ∧ (refillCredit x1 x2).ident = x2.ident ∧ (refillCredit x1 x2).sck = x2.sck ∧
    (refillCredit x1 x2).arc = x2.arc ∧ (refillCredit x1 x2).pln = x2.pln ∧ (refillCredit x1 x2).fe = x2.fe ∧
    (refillCredit x1 x2).hif = x2.hif ∧ (refillCredit x1 x2).key = x2.key ∧ (refillCredit x1 x2).pke = x2.pke ∧
    (refillCredit x1 x2).rnu = x2.rnu ∧ (refillCredit x1 x2).tls = x2.tls ∧ (refillCredit x1 x2).ac = x2.ac ∧
    (refillCredit x1 x2).tm = x2.tm ∧ (refillCredit x1 x2).lcc = x2.lcc ∧ (refillCredit x1 x2).stc = x2.stc ∧
    (refillCredit x1 x2).pwr = x2.pwr ∧ (refillCredit x1 x2).io = x2.io ∧ (refillCredit x1 x2).ev = x2.ev ∧
    (refillCredit x1 x2).rw = x2.rw ∧ (refillCredit x1 x2).store = x2.store ∧ (refillCredit x1 x2).writes = x2.writes ∧
    (refillCredit x1 x2).out = x2.out ∧ (refillCredit x1 x2).free = x2.free := by
  induction x1 generalizing x2 with
  | zero => simp [refillCredit]
  | succ n ih => (simp only [refillCredit, ih]; simp)

@[simp] theorem serveGroup_frame (g : Nat) (s : State) :
    (serveGroup g s).pending = s.pending ∧ (serveGroup g s).ident = s.ident ∧ (serveGroup g s).sck = s.sck ∧
    (serveGroup g s).arc = s.arc ∧ (serveGroup g s).pln = s.pln ∧ (serveGroup g s).fe = s.fe ∧ (serveGroup g s).hif = s.hif ∧
    (serveGroup g s).key = s.key ∧ (serveGroup g s).pke = s.pke ∧ (serveGroup g s).rnu = s.rnu ∧ (serveGroup g s).tls = s.tls ∧
    (serveGroup g s).ac = s.ac ∧ (serveGroup g s).tm = s.tm ∧ (serveGroup g s).lcc = s.lcc ∧ (serveGroup g s).stc = s.stc ∧
    (serveGroup g s).pwr = s.pwr ∧ (serveGroup g s).io = s.io ∧ (serveGroup g s).ev = s.ev ∧ (serveGroup g s).rw = s.rw ∧
    (serveGroup g s).store = s.store ∧ (serveGroup g s).writes = s.writes ∧ (serveGroup g s).out = s.out ∧
    (serveGroup g s).free = s.free := by
  simp [serveGroup]

@[simp] theorem giveItem_frame (core : Nat) (g : Nat) (i : WorkItem) (s : State) :
    (giveItem core g i s).pending = s.pending ∧ (giveItem core g i s).ident = s.ident ∧ (giveItem core g i s).sck = s.sck ∧
    (giveItem core g i s).arc = s.arc ∧ (giveItem core g i s).pln = s.pln ∧ (giveItem core g i s).fe = s.fe ∧
    (giveItem core g i s).key = s.key ∧ (giveItem core g i s).pke = s.pke ∧ (giveItem core g i s).rnu = s.rnu ∧
    (giveItem core g i s).tls = s.tls ∧ (giveItem core g i s).ac = s.ac ∧ (giveItem core g i s).tm = s.tm ∧
    (giveItem core g i s).lcc = s.lcc ∧ (giveItem core g i s).stc = s.stc ∧ (giveItem core g i s).pwr = s.pwr ∧
    (giveItem core g i s).io = s.io ∧ (giveItem core g i s).ev = s.ev ∧ (giveItem core g i s).rw = s.rw ∧
    (giveItem core g i s).store = s.store ∧ (giveItem core g i s).writes = s.writes ∧ (giveItem core g i s).out = s.out ∧
    (giveItem core g i s).free = s.free := by
  simp only [giveItem]
  (repeat' split) <;> simp

@[simp] theorem freePacket_frame (q : Nat) (item : Nat) (s : State) :
    (freePacket q item s).pending = s.pending ∧ (freePacket q item s).ident = s.ident ∧ (freePacket q item s).sck = s.sck ∧
    (freePacket q item s).arc = s.arc ∧ (freePacket q item s).pln = s.pln ∧ (freePacket q item s).fe = s.fe ∧
    (freePacket q item s).hif = s.hif ∧ (freePacket q item s).key = s.key ∧ (freePacket q item s).pke = s.pke ∧
    (freePacket q item s).rnu = s.rnu ∧ (freePacket q item s).tls = s.tls ∧ (freePacket q item s).ac = s.ac ∧
    (freePacket q item s).tm = s.tm ∧ (freePacket q item s).lcc = s.lcc ∧ (freePacket q item s).stc = s.stc ∧
    (freePacket q item s).pwr = s.pwr ∧ (freePacket q item s).io = s.io ∧ (freePacket q item s).ev = s.ev ∧
    (freePacket q item s).rw = s.rw ∧ (freePacket q item s).store = s.store ∧ (freePacket q item s).writes = s.writes ∧
    (freePacket q item s).out = s.out ∧ (freePacket q item s).free = s.free := by
  simp [freePacket]

@[simp] theorem staleWrite_frame (core : Nat) (s : State) :
    (staleWrite core s).pending = s.pending ∧ (staleWrite core s).ident = s.ident ∧ (staleWrite core s).sck = s.sck ∧
    (staleWrite core s).arc = s.arc ∧ (staleWrite core s).pln = s.pln ∧ (staleWrite core s).fe = s.fe ∧
    (staleWrite core s).hif = s.hif ∧ (staleWrite core s).key = s.key ∧ (staleWrite core s).pke = s.pke ∧
    (staleWrite core s).rnu = s.rnu ∧ (staleWrite core s).tls = s.tls ∧ (staleWrite core s).ac = s.ac ∧
    (staleWrite core s).tm = s.tm ∧ (staleWrite core s).lcc = s.lcc ∧ (staleWrite core s).stc = s.stc ∧
    (staleWrite core s).pwr = s.pwr ∧ (staleWrite core s).io = s.io ∧ (staleWrite core s).ev = s.ev ∧
    (staleWrite core s).rw = s.rw ∧ (staleWrite core s).store = s.store ∧ (staleWrite core s).writes = s.writes ∧
    (staleWrite core s).out = s.out ∧ (staleWrite core s).free = s.free := by
  simp only [staleWrite]
  (repeat' split) <;> simp

@[simp] theorem coreIdle_frame (core : Nat) (s : State) :
    (coreIdle core s).pending = s.pending ∧ (coreIdle core s).ident = s.ident ∧ (coreIdle core s).sck = s.sck ∧
    (coreIdle core s).arc = s.arc ∧ (coreIdle core s).pln = s.pln ∧ (coreIdle core s).fe = s.fe ∧
    (coreIdle core s).hif = s.hif ∧ (coreIdle core s).key = s.key ∧ (coreIdle core s).pke = s.pke ∧
    (coreIdle core s).rnu = s.rnu ∧ (coreIdle core s).tls = s.tls ∧ (coreIdle core s).ac = s.ac ∧ (coreIdle core s).tm = s.tm ∧
    (coreIdle core s).lcc = s.lcc ∧ (coreIdle core s).stc = s.stc ∧ (coreIdle core s).pwr = s.pwr ∧
    (coreIdle core s).io = s.io ∧ (coreIdle core s).ev = s.ev ∧ (coreIdle core s).rw = s.rw ∧
    (coreIdle core s).store = s.store ∧ (coreIdle core s).writes = s.writes ∧ (coreIdle core s).out = s.out ∧
    (coreIdle core s).free = s.free := by
  simp [coreIdle, ite_pending, ite_ident, ite_sck, ite_arc, ite_pln, ite_fe, ite_hif, ite_key, ite_pke, ite_rnu, ite_tls, ite_ac, ite_tm, ite_lcc, ite_stc, ite_pwr, ite_io, ite_ev, ite_rw, ite_store, ite_writes, ite_out, ite_free]

@[simp] theorem dropPkeOps_frame (c : Nat) (s : State) :
    (dropPkeOps c s).pending = s.pending ∧ (dropPkeOps c s).ident = s.ident ∧ (dropPkeOps c s).sck = s.sck ∧
    (dropPkeOps c s).arc = s.arc ∧ (dropPkeOps c s).pln = s.pln ∧ (dropPkeOps c s).fe = s.fe ∧ (dropPkeOps c s).hif = s.hif ∧
    (dropPkeOps c s).ts = s.ts ∧ (dropPkeOps c s).key = s.key ∧ (dropPkeOps c s).rnu = s.rnu ∧ (dropPkeOps c s).tls = s.tls ∧
    (dropPkeOps c s).ac = s.ac ∧ (dropPkeOps c s).tm = s.tm ∧ (dropPkeOps c s).lcc = s.lcc ∧ (dropPkeOps c s).stc = s.stc ∧
    (dropPkeOps c s).pwr = s.pwr ∧ (dropPkeOps c s).io = s.io ∧ (dropPkeOps c s).ev = s.ev ∧ (dropPkeOps c s).rw = s.rw ∧
    (dropPkeOps c s).store = s.store ∧ (dropPkeOps c s).writes = s.writes ∧ (dropPkeOps c s).out = s.out ∧
    (dropPkeOps c s).free = s.free := by
  simp [dropPkeOps]

@[simp] theorem redispatch_frame (id : Nat) (s : State) :
    (redispatch id s).pending = s.pending ∧ (redispatch id s).ident = s.ident ∧ (redispatch id s).sck = s.sck ∧
    (redispatch id s).arc = s.arc ∧ (redispatch id s).pln = s.pln ∧ (redispatch id s).fe = s.fe ∧
    (redispatch id s).key = s.key ∧ (redispatch id s).rnu = s.rnu ∧ (redispatch id s).tls = s.tls ∧
    (redispatch id s).ac = s.ac ∧ (redispatch id s).tm = s.tm ∧ (redispatch id s).lcc = s.lcc ∧ (redispatch id s).stc = s.stc ∧
    (redispatch id s).pwr = s.pwr ∧ (redispatch id s).io = s.io ∧ (redispatch id s).ev = s.ev ∧ (redispatch id s).rw = s.rw ∧
    (redispatch id s).store = s.store ∧ (redispatch id s).writes = s.writes ∧ (redispatch id s).out = s.out ∧
    (redispatch id s).free = s.free := by
  simp only [redispatch]
  (repeat' split) <;> simp

@[simp] theorem failCore_frame (core : Nat) (retired : Option (Nat × Nat × Nat)) (decl : Nat) (rest : Nat) (s : State) :
    (failCore core retired decl rest s).pending = s.pending ∧ (failCore core retired decl rest s).ident = s.ident ∧
    (failCore core retired decl rest s).sck = s.sck ∧ (failCore core retired decl rest s).arc = s.arc ∧
    (failCore core retired decl rest s).pln = s.pln ∧ (failCore core retired decl rest s).fe = s.fe ∧
    (failCore core retired decl rest s).key = s.key ∧ (failCore core retired decl rest s).pke = s.pke ∧
    (failCore core retired decl rest s).rnu = s.rnu ∧ (failCore core retired decl rest s).tls = s.tls ∧
    (failCore core retired decl rest s).ac = s.ac ∧ (failCore core retired decl rest s).tm = s.tm ∧
    (failCore core retired decl rest s).lcc = s.lcc ∧ (failCore core retired decl rest s).stc = s.stc ∧
    (failCore core retired decl rest s).pwr = s.pwr ∧ (failCore core retired decl rest s).io = s.io ∧
    (failCore core retired decl rest s).rw = s.rw ∧ (failCore core retired decl rest s).store = s.store ∧
    (failCore core retired decl rest s).writes = s.writes ∧ (failCore core retired decl rest s).free = s.free := by
  simp [failCore, ite_pending, ite_ident, ite_sck, ite_arc, ite_pln, ite_fe, ite_key, ite_pke, ite_rnu, ite_tls, ite_ac, ite_tm, ite_lcc, ite_stc, ite_pwr, ite_io, ite_rw, ite_store, ite_writes, ite_free]

@[simp] theorem renewBlocked_frame (s : State) :
    (renewBlocked s).pending = s.pending ∧ (renewBlocked s).ident = s.ident ∧ (renewBlocked s).sck = s.sck ∧
    (renewBlocked s).arc = s.arc ∧ (renewBlocked s).pln = s.pln ∧ (renewBlocked s).fe = s.fe ∧ (renewBlocked s).hif = s.hif ∧
    (renewBlocked s).key = s.key ∧ (renewBlocked s).pke = s.pke ∧ (renewBlocked s).rnu = s.rnu ∧ (renewBlocked s).tls = s.tls ∧
    (renewBlocked s).ac = s.ac ∧ (renewBlocked s).tm = s.tm ∧ (renewBlocked s).lcc = s.lcc ∧ (renewBlocked s).stc = s.stc ∧
    (renewBlocked s).pwr = s.pwr ∧ (renewBlocked s).io = s.io ∧ (renewBlocked s).ev = s.ev ∧ (renewBlocked s).rw = s.rw ∧
    (renewBlocked s).store = s.store ∧ (renewBlocked s).writes = s.writes ∧ (renewBlocked s).out = s.out ∧
    (renewBlocked s).free = s.free := by
  simp [renewBlocked]

@[simp] theorem renewLease_frame (id : Nat) (s : State) :
    (renewLease id s).pending = s.pending ∧ (renewLease id s).ident = s.ident ∧ (renewLease id s).sck = s.sck ∧
    (renewLease id s).arc = s.arc ∧ (renewLease id s).pln = s.pln ∧ (renewLease id s).fe = s.fe ∧
    (renewLease id s).hif = s.hif ∧ (renewLease id s).key = s.key ∧ (renewLease id s).pke = s.pke ∧
    (renewLease id s).rnu = s.rnu ∧ (renewLease id s).tls = s.tls ∧ (renewLease id s).ac = s.ac ∧ (renewLease id s).tm = s.tm ∧
    (renewLease id s).lcc = s.lcc ∧ (renewLease id s).stc = s.stc ∧ (renewLease id s).pwr = s.pwr ∧
    (renewLease id s).io = s.io ∧ (renewLease id s).ev = s.ev ∧ (renewLease id s).rw = s.rw ∧
    (renewLease id s).store = s.store ∧ (renewLease id s).writes = s.writes ∧ (renewLease id s).out = s.out ∧
    (renewLease id s).free = s.free := by
  simp [renewLease]

@[simp] theorem coreError_frame (core : Nat) (s : State) :
    (coreError core s).pending = s.pending ∧ (coreError core s).ident = s.ident ∧ (coreError core s).sck = s.sck ∧
    (coreError core s).pln = s.pln ∧ (coreError core s).fe = s.fe ∧ (coreError core s).key = s.key ∧
    (coreError core s).rnu = s.rnu ∧ (coreError core s).tls = s.tls ∧ (coreError core s).ac = s.ac ∧
    (coreError core s).tm = s.tm ∧ (coreError core s).lcc = s.lcc ∧ (coreError core s).stc = s.stc ∧
    (coreError core s).pwr = s.pwr ∧ (coreError core s).io = s.io ∧ (coreError core s).rw = s.rw ∧
    (coreError core s).store = s.store ∧ (coreError core s).writes = s.writes ∧ (coreError core s).free = s.free := by
  simp only [coreError]
  (repeat' split) <;> simp

@[simp] theorem takeWatch_frame (c : Ctx) (s : State) :
    (takeWatch c s).pending = s.pending ∧ (takeWatch c s).ident = s.ident ∧ (takeWatch c s).sck = s.sck ∧
    (takeWatch c s).arc = s.arc ∧ (takeWatch c s).pln = s.pln ∧ (takeWatch c s).fe = s.fe ∧ (takeWatch c s).key = s.key ∧
    (takeWatch c s).pke = s.pke ∧ (takeWatch c s).rnu = s.rnu ∧ (takeWatch c s).tls = s.tls ∧ (takeWatch c s).ac = s.ac ∧
    (takeWatch c s).tm = s.tm ∧ (takeWatch c s).lcc = s.lcc ∧ (takeWatch c s).stc = s.stc ∧ (takeWatch c s).pwr = s.pwr ∧
    (takeWatch c s).io = s.io ∧ (takeWatch c s).ev = s.ev ∧ (takeWatch c s).rw = s.rw ∧ (takeWatch c s).store = s.store ∧
    (takeWatch c s).writes = s.writes ∧ (takeWatch c s).out = s.out ∧ (takeWatch c s).free = s.free ∧ (takeWatch c s).hif = s.hif := by
  simp only [takeWatch]
  split <;> simp

@[simp] theorem placeDelay_frame (c : Ctx) (s : State) :
    (placeDelay c s).pending = s.pending ∧ (placeDelay c s).ident = s.ident ∧ (placeDelay c s).sck = s.sck ∧
    (placeDelay c s).arc = s.arc ∧ (placeDelay c s).pln = s.pln ∧ (placeDelay c s).fe = s.fe ∧ (placeDelay c s).key = s.key ∧
    (placeDelay c s).pke = s.pke ∧ (placeDelay c s).rnu = s.rnu ∧ (placeDelay c s).tls = s.tls ∧ (placeDelay c s).ac = s.ac ∧
    (placeDelay c s).tm = s.tm ∧ (placeDelay c s).lcc = s.lcc ∧ (placeDelay c s).stc = s.stc ∧ (placeDelay c s).pwr = s.pwr ∧
    (placeDelay c s).io = s.io ∧ (placeDelay c s).ev = s.ev ∧ (placeDelay c s).rw = s.rw ∧ (placeDelay c s).store = s.store ∧
    (placeDelay c s).writes = s.writes ∧ (placeDelay c s).out = s.out ∧ (placeDelay c s).free = s.free := by
  simp [placeDelay]

@[simp] theorem releaseEntry_frame (e : DelayEntry) (s : State) :
    (releaseEntry e s).pending = s.pending ∧ (releaseEntry e s).ident = s.ident ∧ (releaseEntry e s).sck = s.sck ∧
    (releaseEntry e s).arc = s.arc ∧ (releaseEntry e s).pln = s.pln ∧ (releaseEntry e s).fe = s.fe ∧
    (releaseEntry e s).key = s.key ∧ (releaseEntry e s).pke = s.pke ∧ (releaseEntry e s).rnu = s.rnu ∧
    (releaseEntry e s).tls = s.tls ∧ (releaseEntry e s).ac = s.ac ∧ (releaseEntry e s).tm = s.tm ∧
    (releaseEntry e s).lcc = s.lcc ∧ (releaseEntry e s).stc = s.stc ∧ (releaseEntry e s).pwr = s.pwr ∧
    (releaseEntry e s).io = s.io ∧ (releaseEntry e s).rw = s.rw ∧ (releaseEntry e s).store = s.store ∧
    (releaseEntry e s).writes = s.writes ∧ (releaseEntry e s).free = s.free := by
  simp only [releaseEntry]
  (repeat' split) <;> simp

@[simp] theorem releaseAll_frame (x1 : List DelayEntry) (x2 : State) :
    (releaseAll x1 x2).pending = x2.pending ∧ (releaseAll x1 x2).ident = x2.ident ∧ (releaseAll x1 x2).sck = x2.sck ∧
    (releaseAll x1 x2).arc = x2.arc ∧ (releaseAll x1 x2).pln = x2.pln ∧ (releaseAll x1 x2).fe = x2.fe ∧
    (releaseAll x1 x2).key = x2.key ∧ (releaseAll x1 x2).pke = x2.pke ∧ (releaseAll x1 x2).rnu = x2.rnu ∧
    (releaseAll x1 x2).tls = x2.tls ∧ (releaseAll x1 x2).ac = x2.ac ∧ (releaseAll x1 x2).tm = x2.tm ∧
    (releaseAll x1 x2).lcc = x2.lcc ∧ (releaseAll x1 x2).stc = x2.stc ∧ (releaseAll x1 x2).pwr = x2.pwr ∧
    (releaseAll x1 x2).io = x2.io ∧ (releaseAll x1 x2).rw = x2.rw ∧ (releaseAll x1 x2).store = x2.store ∧
    (releaseAll x1 x2).writes = x2.writes ∧ (releaseAll x1 x2).free = x2.free := by
  induction x1 generalizing x2 with
  | nil => simp [releaseAll]
  | cons c l ih => (simp only [releaseAll, ih]; simp)

@[simp] theorem releaseDue_frame (s : State) :
    (releaseDue s).pending = s.pending ∧ (releaseDue s).ident = s.ident ∧ (releaseDue s).sck = s.sck ∧
    (releaseDue s).arc = s.arc ∧ (releaseDue s).pln = s.pln ∧ (releaseDue s).fe = s.fe ∧ (releaseDue s).key = s.key ∧
    (releaseDue s).pke = s.pke ∧ (releaseDue s).rnu = s.rnu ∧ (releaseDue s).tls = s.tls ∧ (releaseDue s).ac = s.ac ∧
    (releaseDue s).tm = s.tm ∧ (releaseDue s).lcc = s.lcc ∧ (releaseDue s).stc = s.stc ∧ (releaseDue s).pwr = s.pwr ∧
    (releaseDue s).io = s.io ∧ (releaseDue s).rw = s.rw ∧ (releaseDue s).store = s.store ∧ (releaseDue s).writes = s.writes ∧
    (releaseDue s).free = s.free := by
  simp [releaseDue]

end Sys2Proof.Machine
end

