-- ==== Sys2Proof/Laws/Lines.lean ====
section
/-! SUPPORT. What the operations of Machine/Lines.lean leave unchanged, once for each: its frame. -/

namespace Sys2Proof.Machine

@[simp] theorem State.setPair_frame (i : Nat) (v : Pair) (s : State) :
    (State.setPair i v s).pending = s.pending ∧ (State.setPair i v s).ident = s.ident ∧ (State.setPair i v s).sck = s.sck ∧
    (State.setPair i v s).arc = s.arc ∧ (State.setPair i v s).pln = s.pln ∧ (State.setPair i v s).hif = s.hif ∧
    (State.setPair i v s).ts = s.ts ∧ (State.setPair i v s).key = s.key ∧ (State.setPair i v s).pke = s.pke ∧
    (State.setPair i v s).rnu = s.rnu ∧ (State.setPair i v s).tls = s.tls ∧ (State.setPair i v s).ac = s.ac ∧
    (State.setPair i v s).tm = s.tm ∧ (State.setPair i v s).lcc = s.lcc ∧ (State.setPair i v s).stc = s.stc ∧
    (State.setPair i v s).pwr = s.pwr ∧ (State.setPair i v s).io = s.io ∧ (State.setPair i v s).ev = s.ev ∧
    (State.setPair i v s).rw = s.rw ∧ (State.setPair i v s).store = s.store ∧ (State.setPair i v s).writes = s.writes ∧
    (State.setPair i v s).out = s.out ∧ (State.setPair i v s).free = s.free := by
  simp [State.setPair]

@[simp] theorem takeSeqs_frame (x1 : List Nat) (x2 : State) :
    (takeSeqs x1 x2).pending = x2.pending ∧ (takeSeqs x1 x2).ident = x2.ident ∧ (takeSeqs x1 x2).sck = x2.sck ∧
    (takeSeqs x1 x2).arc = x2.arc ∧ (takeSeqs x1 x2).pln = x2.pln ∧ (takeSeqs x1 x2).hif = x2.hif ∧
    (takeSeqs x1 x2).ts = x2.ts ∧ (takeSeqs x1 x2).key = x2.key ∧ (takeSeqs x1 x2).pke = x2.pke ∧
    (takeSeqs x1 x2).rnu = x2.rnu ∧ (takeSeqs x1 x2).tls = x2.tls ∧ (takeSeqs x1 x2).ac = x2.ac ∧ (takeSeqs x1 x2).tm = x2.tm ∧
    (takeSeqs x1 x2).lcc = x2.lcc ∧ (takeSeqs x1 x2).stc = x2.stc ∧ (takeSeqs x1 x2).pwr = x2.pwr ∧
    (takeSeqs x1 x2).io = x2.io ∧ (takeSeqs x1 x2).ev = x2.ev ∧ (takeSeqs x1 x2).rw = x2.rw ∧
    (takeSeqs x1 x2).store = x2.store ∧ (takeSeqs x1 x2).writes = x2.writes ∧ (takeSeqs x1 x2).out = x2.out ∧
    (takeSeqs x1 x2).free = x2.free := by
  induction x1 generalizing x2 with
  | nil => simp [takeSeqs]
  | cons c l ih => (simp only [takeSeqs, ih]; simp)

@[simp] theorem applyMacsec_frame (p : Nat) (l : Bytes) (s : State) :
    (applyMacsec p l s).2.pending = s.pending ∧ (applyMacsec p l s).2.ident = s.ident ∧ (applyMacsec p l s).2.sck = s.sck ∧
    (applyMacsec p l s).2.arc = s.arc ∧ (applyMacsec p l s).2.pln = s.pln ∧ (applyMacsec p l s).2.hif = s.hif ∧
    (applyMacsec p l s).2.ts = s.ts ∧ (applyMacsec p l s).2.key = s.key ∧ (applyMacsec p l s).2.pke = s.pke ∧
    (applyMacsec p l s).2.rnu = s.rnu ∧ (applyMacsec p l s).2.tls = s.tls ∧ (applyMacsec p l s).2.ac = s.ac ∧
    (applyMacsec p l s).2.tm = s.tm ∧ (applyMacsec p l s).2.lcc = s.lcc ∧ (applyMacsec p l s).2.stc = s.stc ∧
    (applyMacsec p l s).2.pwr = s.pwr ∧ (applyMacsec p l s).2.io = s.io ∧ (applyMacsec p l s).2.ev = s.ev ∧
    (applyMacsec p l s).2.rw = s.rw ∧ (applyMacsec p l s).2.store = s.store ∧ (applyMacsec p l s).2.writes = s.writes ∧
    (applyMacsec p l s).2.out = s.out ∧ (applyMacsec p l s).2.free = s.free := by
  unfold applyMacsec
  cases (s.port p).txSa <;> simp

@[simp] theorem enqueue_frame (c : TxCopy) (s : State) :
    (enqueue c s).pending = s.pending ∧ (enqueue c s).ident = s.ident ∧ (enqueue c s).sck = s.sck ∧ (enqueue c s).arc = s.arc ∧
    (enqueue c s).pln = s.pln ∧ (enqueue c s).hif = s.hif ∧ (enqueue c s).ts = s.ts ∧ (enqueue c s).key = s.key ∧
    (enqueue c s).pke = s.pke ∧ (enqueue c s).rnu = s.rnu ∧ (enqueue c s).tls = s.tls ∧ (enqueue c s).ac = s.ac ∧
    (enqueue c s).tm = s.tm ∧ (enqueue c s).lcc = s.lcc ∧ (enqueue c s).stc = s.stc ∧ (enqueue c s).pwr = s.pwr ∧
    (enqueue c s).io = s.io ∧ (enqueue c s).ev = s.ev ∧ (enqueue c s).rw = s.rw ∧ (enqueue c s).store = s.store ∧
    (enqueue c s).writes = s.writes ∧ (enqueue c s).out = s.out ∧ (enqueue c s).free = s.free := by
  simp [enqueue]

@[simp] theorem sendCore_frame (p : Nat) (src : Nat) (tclass : Nat) (red : Option (Nat × Nat)) (x : CoreFrame) (s : State) :
    (sendCore p src tclass red x s).pending = s.pending ∧ (sendCore p src tclass red x s).ident = s.ident ∧
    (sendCore p src tclass red x s).sck = s.sck ∧ (sendCore p src tclass red x s).arc = s.arc ∧
    (sendCore p src tclass red x s).pln = s.pln ∧ (sendCore p src tclass red x s).hif = s.hif ∧
    (sendCore p src tclass red x s).ts = s.ts ∧ (sendCore p src tclass red x s).key = s.key ∧
    (sendCore p src tclass red x s).pke = s.pke ∧ (sendCore p src tclass red x s).rnu = s.rnu ∧
    (sendCore p src tclass red x s).tls = s.tls ∧ (sendCore p src tclass red x s).ac = s.ac ∧
    (sendCore p src tclass red x s).tm = s.tm ∧ (sendCore p src tclass red x s).lcc = s.lcc ∧
    (sendCore p src tclass red x s).stc = s.stc ∧ (sendCore p src tclass red x s).pwr = s.pwr ∧
    (sendCore p src tclass red x s).io = s.io ∧ (sendCore p src tclass red x s).ev = s.ev ∧
    (sendCore p src tclass red x s).rw = s.rw ∧ (sendCore p src tclass red x s).store = s.store ∧
    (sendCore p src tclass red x s).writes = s.writes ∧ (sendCore p src tclass red x s).out = s.out ∧
    (sendCore p src tclass red x s).free = s.free := by
  simp only [sendCore]
  (repeat' split) <;> simp

@[simp] theorem sendPort_frame (p : Nat) (tclass : Nat) (x : CoreFrame) (s : State) :
    (sendPort p tclass x s).pending = s.pending ∧ (sendPort p tclass x s).ident = s.ident ∧
    (sendPort p tclass x s).sck = s.sck ∧ (sendPort p tclass x s).arc = s.arc ∧ (sendPort p tclass x s).pln = s.pln ∧
    (sendPort p tclass x s).hif = s.hif ∧ (sendPort p tclass x s).ts = s.ts ∧ (sendPort p tclass x s).key = s.key ∧
    (sendPort p tclass x s).pke = s.pke ∧ (sendPort p tclass x s).rnu = s.rnu ∧ (sendPort p tclass x s).tls = s.tls ∧
    (sendPort p tclass x s).ac = s.ac ∧ (sendPort p tclass x s).tm = s.tm ∧ (sendPort p tclass x s).lcc = s.lcc ∧
    (sendPort p tclass x s).stc = s.stc ∧ (sendPort p tclass x s).pwr = s.pwr ∧ (sendPort p tclass x s).io = s.io ∧
    (sendPort p tclass x s).ev = s.ev ∧ (sendPort p tclass x s).rw = s.rw ∧ (sendPort p tclass x s).store = s.store ∧
    (sendPort p tclass x s).writes = s.writes ∧ (sendPort p tclass x s).out = s.out ∧ (sendPort p tclass x s).free = s.free := by
  simp [sendPort]

@[simp] theorem sendPair_frame (i : Nat) (tclass : Nat) (x : CoreFrame) (s : State) :
    (sendPair i tclass x s).pending = s.pending ∧ (sendPair i tclass x s).ident = s.ident ∧
    (sendPair i tclass x s).sck = s.sck ∧ (sendPair i tclass x s).arc = s.arc ∧ (sendPair i tclass x s).pln = s.pln ∧
    (sendPair i tclass x s).hif = s.hif ∧ (sendPair i tclass x s).ts = s.ts ∧ (sendPair i tclass x s).key = s.key ∧
    (sendPair i tclass x s).pke = s.pke ∧ (sendPair i tclass x s).rnu = s.rnu ∧ (sendPair i tclass x s).tls = s.tls ∧
    (sendPair i tclass x s).ac = s.ac ∧ (sendPair i tclass x s).tm = s.tm ∧ (sendPair i tclass x s).lcc = s.lcc ∧
    (sendPair i tclass x s).stc = s.stc ∧ (sendPair i tclass x s).pwr = s.pwr ∧ (sendPair i tclass x s).io = s.io ∧
    (sendPair i tclass x s).ev = s.ev ∧ (sendPair i tclass x s).rw = s.rw ∧ (sendPair i tclass x s).store = s.store ∧
    (sendPair i tclass x s).writes = s.writes ∧ (sendPair i tclass x s).out = s.out ∧ (sendPair i tclass x s).free = s.free := by
  simp [sendPair, ite_pending, ite_ident, ite_sck, ite_arc, ite_pln, ite_hif, ite_ts, ite_key, ite_pke, ite_rnu, ite_tls, ite_ac, ite_tm, ite_lcc, ite_stc, ite_pwr, ite_io, ite_ev, ite_rw, ite_store, ite_writes, ite_out, ite_free]

@[simp] theorem sendEach_frame (ok : Nat → Bool) (tclass : Nat) (x : CoreFrame) (x1 : Nat) (x2 : State) :
    (sendEach ok tclass x x1 x2).pending = x2.pending ∧ (sendEach ok tclass x x1 x2).ident = x2.ident ∧
    (sendEach ok tclass x x1 x2).sck = x2.sck ∧ (sendEach ok tclass x x1 x2).arc = x2.arc ∧
    (sendEach ok tclass x x1 x2).pln = x2.pln ∧ (sendEach ok tclass x x1 x2).hif = x2.hif ∧
    (sendEach ok tclass x x1 x2).ts = x2.ts ∧ (sendEach ok tclass x x1 x2).key = x2.key ∧
    (sendEach ok tclass x x1 x2).pke = x2.pke ∧ (sendEach ok tclass x x1 x2).rnu = x2.rnu ∧
    (sendEach ok tclass x x1 x2).tls = x2.tls ∧ (sendEach ok tclass x x1 x2).ac = x2.ac ∧
    (sendEach ok tclass x x1 x2).tm = x2.tm ∧ (sendEach ok tclass x x1 x2).lcc = x2.lcc ∧
    (sendEach ok tclass x x1 x2).stc = x2.stc ∧ (sendEach ok tclass x x1 x2).pwr = x2.pwr ∧
    (sendEach ok tclass x x1 x2).io = x2.io ∧ (sendEach ok tclass x x1 x2).ev = x2.ev ∧
    (sendEach ok tclass x x1 x2).rw = x2.rw ∧ (sendEach ok tclass x x1 x2).store = x2.store ∧
    (sendEach ok tclass x x1 x2).writes = x2.writes ∧ (sendEach ok tclass x x1 x2).out = x2.out ∧
    (sendEach ok tclass x x1 x2).free = x2.free := by
  induction x1 generalizing ok tclass x x2 with
  | zero => simp [sendEach]
  | succ n ih => (simp only [sendEach]; (repeat' split) <;> simp [ih])

@[simp] theorem sendAll_frame (tclass : Nat) (x : CoreFrame) (x1 : Nat) (x2 : State) :
    (sendAll tclass x x1 x2).pending = x2.pending ∧ (sendAll tclass x x1 x2).ident = x2.ident ∧
    (sendAll tclass x x1 x2).sck = x2.sck ∧ (sendAll tclass x x1 x2).arc = x2.arc ∧ (sendAll tclass x x1 x2).pln = x2.pln ∧
    (sendAll tclass x x1 x2).hif = x2.hif ∧ (sendAll tclass x x1 x2).ts = x2.ts ∧ (sendAll tclass x x1 x2).key = x2.key ∧
    (sendAll tclass x x1 x2).pke = x2.pke ∧ (sendAll tclass x x1 x2).rnu = x2.rnu ∧ (sendAll tclass x x1 x2).tls = x2.tls ∧
    (sendAll tclass x x1 x2).ac = x2.ac ∧ (sendAll tclass x x1 x2).tm = x2.tm ∧ (sendAll tclass x x1 x2).lcc = x2.lcc ∧
    (sendAll tclass x x1 x2).stc = x2.stc ∧ (sendAll tclass x x1 x2).pwr = x2.pwr ∧ (sendAll tclass x x1 x2).io = x2.io ∧
    (sendAll tclass x x1 x2).ev = x2.ev ∧ (sendAll tclass x x1 x2).rw = x2.rw ∧ (sendAll tclass x x1 x2).store = x2.store ∧
    (sendAll tclass x x1 x2).writes = x2.writes ∧ (sendAll tclass x x1 x2).out = x2.out ∧
    (sendAll tclass x x1 x2).free = x2.free := by
  induction x1 generalizing tclass x x2 with
  | zero => simp [sendAll]
  | succ n ih => (simp only [sendAll]; (repeat' split) <;> simp [ih])

end Sys2Proof.Machine
end

