-- ==== Sys2Proof/Laws/Ring.lean ====
section
/-! SUPPORT. What the operations of Machine/Ring.lean leave unchanged, once for each: its frame. -/

namespace Sys2Proof.Machine

@[simp] theorem passPad_frame (f : Nat) (ring : Nat) (len : Nat) (s : State) :
    (passPad f ring len s).pending = s.pending ∧ (passPad f ring len s).ident = s.ident ∧ (passPad f ring len s).sck = s.sck ∧
    (passPad f ring len s).arc = s.arc ∧ (passPad f ring len s).pln = s.pln ∧ (passPad f ring len s).fe = s.fe ∧
    (passPad f ring len s).ts = s.ts ∧ (passPad f ring len s).key = s.key ∧ (passPad f ring len s).pke = s.pke ∧
    (passPad f ring len s).rnu = s.rnu ∧ (passPad f ring len s).tls = s.tls ∧ (passPad f ring len s).ac = s.ac ∧
    (passPad f ring len s).tm = s.tm ∧ (passPad f ring len s).lcc = s.lcc ∧ (passPad f ring len s).stc = s.stc ∧
    (passPad f ring len s).pwr = s.pwr ∧ (passPad f ring len s).io = s.io ∧ (passPad f ring len s).ev = s.ev ∧
    (passPad f ring len s).rw = s.rw ∧ (passPad f ring len s).store = s.store ∧ (passPad f ring len s).writes = s.writes ∧
    (passPad f ring len s).free = s.free := by
  simp [passPad]

@[simp] theorem acceptEntry_frame (f : Nat) (ring : Nat) (e : RawEntry) (s : State) :
    (acceptEntry f ring e s).pending = s.pending ∧ (acceptEntry f ring e s).ident = s.ident ∧
    (acceptEntry f ring e s).sck = s.sck ∧ (acceptEntry f ring e s).arc = s.arc ∧ (acceptEntry f ring e s).pln = s.pln ∧
    (acceptEntry f ring e s).fe = s.fe ∧ (acceptEntry f ring e s).key = s.key ∧ (acceptEntry f ring e s).pke = s.pke ∧
    (acceptEntry f ring e s).rnu = s.rnu ∧ (acceptEntry f ring e s).tls = s.tls ∧ (acceptEntry f ring e s).ac = s.ac ∧
    (acceptEntry f ring e s).tm = s.tm ∧ (acceptEntry f ring e s).lcc = s.lcc ∧ (acceptEntry f ring e s).stc = s.stc ∧
    (acceptEntry f ring e s).pwr = s.pwr ∧ (acceptEntry f ring e s).io = s.io ∧ (acceptEntry f ring e s).ev = s.ev ∧
    (acceptEntry f ring e s).rw = s.rw ∧ (acceptEntry f ring e s).store = s.store ∧
    (acceptEntry f ring e s).writes = s.writes ∧ (acceptEntry f ring e s).free = s.free := by
  simp only [acceptEntry]
  (repeat' split) <;> simp

@[simp] theorem visitOne_frame (m : HostMem) (f : Nat) (ring : Nat) (taken : Nat) (s : State) :
    (visitOne m f ring taken s).2.2.pending = s.pending ∧ (visitOne m f ring taken s).2.2.ident = s.ident ∧
    (visitOne m f ring taken s).2.2.sck = s.sck ∧ (visitOne m f ring taken s).2.2.fe = s.fe ∧
    (visitOne m f ring taken s).2.2.key = s.key ∧ (visitOne m f ring taken s).2.2.pke = s.pke ∧
    (visitOne m f ring taken s).2.2.rnu = s.rnu ∧ (visitOne m f ring taken s).2.2.tls = s.tls ∧
    (visitOne m f ring taken s).2.2.ac = s.ac ∧ (visitOne m f ring taken s).2.2.tm = s.tm ∧
    (visitOne m f ring taken s).2.2.lcc = s.lcc ∧ (visitOne m f ring taken s).2.2.stc = s.stc ∧
    (visitOne m f ring taken s).2.2.io = s.io ∧ (visitOne m f ring taken s).2.2.rw = s.rw ∧
    (visitOne m f ring taken s).2.2.store = s.store ∧ (visitOne m f ring taken s).2.2.writes = s.writes ∧
    (visitOne m f ring taken s).2.2.free = s.free := by
  simp only [visitOne]
  (repeat' split) <;> simp

@[simp] theorem visitRing_frame (m : HostMem) (f : Nat) (ring : Nat) (fuel : Nat) (taken : Nat) (x1 : State) :
    (visitRing m f ring fuel taken x1).1.pending = x1.pending ∧ (visitRing m f ring fuel taken x1).1.ident = x1.ident ∧
    (visitRing m f ring fuel taken x1).1.sck = x1.sck ∧ (visitRing m f ring fuel taken x1).1.fe = x1.fe ∧
    (visitRing m f ring fuel taken x1).1.key = x1.key ∧ (visitRing m f ring fuel taken x1).1.pke = x1.pke ∧
    (visitRing m f ring fuel taken x1).1.rnu = x1.rnu ∧ (visitRing m f ring fuel taken x1).1.tls = x1.tls ∧
    (visitRing m f ring fuel taken x1).1.ac = x1.ac ∧ (visitRing m f ring fuel taken x1).1.tm = x1.tm ∧
    (visitRing m f ring fuel taken x1).1.lcc = x1.lcc ∧ (visitRing m f ring fuel taken x1).1.stc = x1.stc ∧
    (visitRing m f ring fuel taken x1).1.io = x1.io ∧ (visitRing m f ring fuel taken x1).1.rw = x1.rw ∧
    (visitRing m f ring fuel taken x1).1.store = x1.store ∧ (visitRing m f ring fuel taken x1).1.writes = x1.writes ∧
    (visitRing m f ring fuel taken x1).1.free = x1.free := by
  induction fuel generalizing m f ring taken x1 with
  | zero => simp [visitRing]
  | succ n ih => (simp only [visitRing]; (repeat' split) <;> simp [ih])

@[simp] theorem arbPass_frame (m : HostMem) (x1 : List Nat) (x2 : State) :
    (arbPass m x1 x2).1.pending = x2.pending ∧ (arbPass m x1 x2).1.ident = x2.ident ∧ (arbPass m x1 x2).1.sck = x2.sck ∧
    (arbPass m x1 x2).1.fe = x2.fe ∧ (arbPass m x1 x2).1.key = x2.key ∧ (arbPass m x1 x2).1.pke = x2.pke ∧
    (arbPass m x1 x2).1.rnu = x2.rnu ∧ (arbPass m x1 x2).1.tls = x2.tls ∧ (arbPass m x1 x2).1.ac = x2.ac ∧
    (arbPass m x1 x2).1.tm = x2.tm ∧ (arbPass m x1 x2).1.lcc = x2.lcc ∧ (arbPass m x1 x2).1.stc = x2.stc ∧
    (arbPass m x1 x2).1.io = x2.io ∧ (arbPass m x1 x2).1.rw = x2.rw ∧ (arbPass m x1 x2).1.store = x2.store ∧
    (arbPass m x1 x2).1.writes = x2.writes ∧ (arbPass m x1 x2).1.free = x2.free := by
  induction x1 generalizing m x2 with
  | nil => simp [arbPass]
  | cons c l ih => (simp only [arbPass, ih]; simp)

@[simp] theorem arbLoop_frame (m : HostMem) (rs : List Nat) (x1 : Nat) (x2 : State) :
    (arbLoop m rs x1 x2).pending = x2.pending ∧ (arbLoop m rs x1 x2).ident = x2.ident ∧ (arbLoop m rs x1 x2).sck = x2.sck ∧
    (arbLoop m rs x1 x2).fe = x2.fe ∧ (arbLoop m rs x1 x2).key = x2.key ∧ (arbLoop m rs x1 x2).pke = x2.pke ∧
    (arbLoop m rs x1 x2).rnu = x2.rnu ∧ (arbLoop m rs x1 x2).tls = x2.tls ∧ (arbLoop m rs x1 x2).ac = x2.ac ∧
    (arbLoop m rs x1 x2).tm = x2.tm ∧ (arbLoop m rs x1 x2).lcc = x2.lcc ∧ (arbLoop m rs x1 x2).stc = x2.stc ∧
    (arbLoop m rs x1 x2).io = x2.io ∧ (arbLoop m rs x1 x2).rw = x2.rw ∧ (arbLoop m rs x1 x2).store = x2.store ∧
    (arbLoop m rs x1 x2).writes = x2.writes ∧ (arbLoop m rs x1 x2).free = x2.free := by
  induction x1 generalizing m rs x2 with
  | zero => simp [arbLoop]
  | succ n ih => (simp only [arbLoop]; (repeat' split) <;> simp [ih])

@[simp] theorem giveTokens_frame (x1 : List Nat) (x2 : State) :
    (giveTokens x1 x2).pending = x2.pending ∧ (giveTokens x1 x2).ident = x2.ident ∧ (giveTokens x1 x2).sck = x2.sck ∧
    (giveTokens x1 x2).arc = x2.arc ∧ (giveTokens x1 x2).pln = x2.pln ∧ (giveTokens x1 x2).fe = x2.fe ∧
    (giveTokens x1 x2).ts = x2.ts ∧ (giveTokens x1 x2).key = x2.key ∧ (giveTokens x1 x2).pke = x2.pke ∧
    (giveTokens x1 x2).rnu = x2.rnu ∧ (giveTokens x1 x2).tls = x2.tls ∧ (giveTokens x1 x2).ac = x2.ac ∧
    (giveTokens x1 x2).tm = x2.tm ∧ (giveTokens x1 x2).lcc = x2.lcc ∧ (giveTokens x1 x2).stc = x2.stc ∧
    (giveTokens x1 x2).pwr = x2.pwr ∧ (giveTokens x1 x2).io = x2.io ∧ (giveTokens x1 x2).ev = x2.ev ∧
    (giveTokens x1 x2).rw = x2.rw ∧ (giveTokens x1 x2).store = x2.store ∧ (giveTokens x1 x2).writes = x2.writes ∧
    (giveTokens x1 x2).out = x2.out ∧ (giveTokens x1 x2).free = x2.free := by
  induction x1 generalizing x2 with
  | nil => simp [giveTokens]
  | cons c l ih => (simp only [giveTokens, ih]; simp)

@[simp] theorem dropCtxItems_frame (id : Nat) (s : State) :
    (dropCtxItems id s).pending = s.pending ∧ (dropCtxItems id s).ident = s.ident ∧ (dropCtxItems id s).sck = s.sck ∧
    (dropCtxItems id s).arc = s.arc ∧ (dropCtxItems id s).pln = s.pln ∧ (dropCtxItems id s).fe = s.fe ∧
    (dropCtxItems id s).hif = s.hif ∧ (dropCtxItems id s).key = s.key ∧ (dropCtxItems id s).pke = s.pke ∧
    (dropCtxItems id s).rnu = s.rnu ∧ (dropCtxItems id s).tls = s.tls ∧ (dropCtxItems id s).ac = s.ac ∧
    (dropCtxItems id s).tm = s.tm ∧ (dropCtxItems id s).lcc = s.lcc ∧ (dropCtxItems id s).stc = s.stc ∧
    (dropCtxItems id s).pwr = s.pwr ∧ (dropCtxItems id s).io = s.io ∧ (dropCtxItems id s).ev = s.ev ∧
    (dropCtxItems id s).rw = s.rw ∧ (dropCtxItems id s).store = s.store ∧ (dropCtxItems id s).writes = s.writes ∧
    (dropCtxItems id s).out = s.out ∧ (dropCtxItems id s).free = s.free := by
  simp [dropCtxItems]

@[simp] theorem completePort_frame (f : Nat) (s : State) :
    (completePort f s).pending = s.pending ∧ (completePort f s).ident = s.ident ∧ (completePort f s).sck = s.sck ∧
    (completePort f s).arc = s.arc ∧ (completePort f s).pln = s.pln ∧ (completePort f s).fe = s.fe ∧
    (completePort f s).ts = s.ts ∧ (completePort f s).key = s.key ∧ (completePort f s).pke = s.pke ∧
    (completePort f s).rnu = s.rnu ∧ (completePort f s).tls = s.tls ∧ (completePort f s).ac = s.ac ∧
    (completePort f s).tm = s.tm ∧ (completePort f s).lcc = s.lcc ∧ (completePort f s).stc = s.stc ∧
    (completePort f s).pwr = s.pwr ∧ (completePort f s).io = s.io ∧ (completePort f s).ev = s.ev ∧
    (completePort f s).rw = s.rw ∧ (completePort f s).store = s.store ∧ (completePort f s).writes = s.writes ∧
    (completePort f s).out = s.out ∧ (completePort f s).free = s.free := by
  simp only [completePort]
  (repeat' split) <;> simp

@[simp] theorem flushHeld_frame (f : Nat) (s : State) :
    (flushHeld f s).pending = s.pending ∧ (flushHeld f s).ident = s.ident ∧ (flushHeld f s).sck = s.sck ∧
    (flushHeld f s).arc = s.arc ∧ (flushHeld f s).pln = s.pln ∧ (flushHeld f s).fe = s.fe ∧ (flushHeld f s).ts = s.ts ∧
    (flushHeld f s).key = s.key ∧ (flushHeld f s).pke = s.pke ∧ (flushHeld f s).rnu = s.rnu ∧ (flushHeld f s).tls = s.tls ∧
    (flushHeld f s).ac = s.ac ∧ (flushHeld f s).tm = s.tm ∧ (flushHeld f s).lcc = s.lcc ∧ (flushHeld f s).stc = s.stc ∧
    (flushHeld f s).pwr = s.pwr ∧ (flushHeld f s).io = s.io ∧ (flushHeld f s).ev = s.ev ∧ (flushHeld f s).rw = s.rw ∧
    (flushHeld f s).store = s.store ∧ (flushHeld f s).writes = s.writes ∧ (flushHeld f s).free = s.free := by
  simp [flushHeld, ite_pending, ite_ident, ite_sck, ite_arc, ite_pln, ite_fe, ite_ts, ite_key, ite_pke, ite_rnu, ite_tls, ite_ac, ite_tm, ite_lcc, ite_stc, ite_pwr, ite_io, ite_ev, ite_rw, ite_store, ite_writes, ite_free]

@[simp] theorem sendPending_frame (f : Nat) (vector : Nat) (s : State) :
    (sendPending f vector s).pending = s.pending ∧ (sendPending f vector s).ident = s.ident ∧
    (sendPending f vector s).sck = s.sck ∧ (sendPending f vector s).arc = s.arc ∧ (sendPending f vector s).pln = s.pln ∧
    (sendPending f vector s).fe = s.fe ∧ (sendPending f vector s).ts = s.ts ∧ (sendPending f vector s).key = s.key ∧
    (sendPending f vector s).pke = s.pke ∧ (sendPending f vector s).rnu = s.rnu ∧ (sendPending f vector s).tls = s.tls ∧
    (sendPending f vector s).ac = s.ac ∧ (sendPending f vector s).tm = s.tm ∧ (sendPending f vector s).lcc = s.lcc ∧
    (sendPending f vector s).stc = s.stc ∧ (sendPending f vector s).pwr = s.pwr ∧ (sendPending f vector s).io = s.io ∧
    (sendPending f vector s).ev = s.ev ∧ (sendPending f vector s).rw = s.rw ∧ (sendPending f vector s).store = s.store ∧
    (sendPending f vector s).writes = s.writes ∧ (sendPending f vector s).free = s.free := by
  simp [sendPending, ite_pending, ite_ident, ite_sck, ite_arc, ite_pln, ite_fe, ite_ts, ite_key, ite_pke, ite_rnu, ite_tls, ite_ac, ite_tm, ite_lcc, ite_stc, ite_pwr, ite_io, ite_ev, ite_rw, ite_store, ite_writes, ite_free]

@[simp] theorem sendAllPending_frame (f : Nat) (x1 : Nat) (x2 : State) :
    (sendAllPending f x1 x2).pending = x2.pending ∧ (sendAllPending f x1 x2).ident = x2.ident ∧
    (sendAllPending f x1 x2).sck = x2.sck ∧ (sendAllPending f x1 x2).arc = x2.arc ∧ (sendAllPending f x1 x2).pln = x2.pln ∧
    (sendAllPending f x1 x2).fe = x2.fe ∧ (sendAllPending f x1 x2).ts = x2.ts ∧ (sendAllPending f x1 x2).key = x2.key ∧
    (sendAllPending f x1 x2).pke = x2.pke ∧ (sendAllPending f x1 x2).rnu = x2.rnu ∧ (sendAllPending f x1 x2).tls = x2.tls ∧
    (sendAllPending f x1 x2).ac = x2.ac ∧ (sendAllPending f x1 x2).tm = x2.tm ∧ (sendAllPending f x1 x2).lcc = x2.lcc ∧
    (sendAllPending f x1 x2).stc = x2.stc ∧ (sendAllPending f x1 x2).pwr = x2.pwr ∧ (sendAllPending f x1 x2).io = x2.io ∧
    (sendAllPending f x1 x2).ev = x2.ev ∧ (sendAllPending f x1 x2).rw = x2.rw ∧ (sendAllPending f x1 x2).store = x2.store ∧
    (sendAllPending f x1 x2).writes = x2.writes ∧ (sendAllPending f x1 x2).free = x2.free := by
  induction x1 generalizing f x2 with
  | zero => simp [sendAllPending]
  | succ n ih => (simp only [sendAllPending]; (repeat' split) <;> simp [ih])

end Sys2Proof.Machine
end

