-- ==== Sys2Proof/Laws/Run.lean ====
section
/-! SUPPORT. What the operations of Machine/Run.lean leave unchanged, once for each: its frame. -/

namespace Sys2Proof.Machine

@[simp] theorem after_done (s t : State) (c : Completion) : (OpOut.done c t).after s = t := rfl

@[simp] theorem after_running (s t : State) : (OpOut.running t).after s = t := rfl

@[simp] theorem after_wait (s : State) : OpOut.wait.after s = s := rfl

@[simp] theorem after_busy (s : State) : OpOut.busy.after s = s := rfl

/-- What an operation leaves from two states is the same, or it leaves each as it is. -/
theorem after_cases (o : OpOut) (s t : State) : o.after s = o.after t ∨ (o.after s = s ∧ o.after t = t) := by
  cases o <;> simp

@[simp] theorem complete_frame (q : Call) (comp : Completion) (s : State) :
    (complete q comp s).pending = s.pending ∧ (complete q comp s).ident = s.ident ∧ (complete q comp s).sck = s.sck ∧
    (complete q comp s).arc = s.arc ∧ (complete q comp s).pln = s.pln ∧ (complete q comp s).fe = s.fe ∧
    (complete q comp s).key = s.key ∧ (complete q comp s).pke = s.pke ∧ (complete q comp s).rnu = s.rnu ∧
    (complete q comp s).tls = s.tls ∧ (complete q comp s).ac = s.ac ∧ (complete q comp s).tm = s.tm ∧
    (complete q comp s).lcc = s.lcc ∧ (complete q comp s).stc = s.stc ∧ (complete q comp s).pwr = s.pwr ∧
    (complete q comp s).io = s.io ∧ (complete q comp s).ev = s.ev ∧ (complete q comp s).rw = s.rw ∧
    (complete q comp s).store = s.store ∧ (complete q comp s).writes = s.writes ∧ (complete q comp s).free = s.free := by
  simp only [complete]
  (repeat' split) <;> simp

@[simp] theorem lateComplete_frame (q : Call) (ctx : Option Nat) (comp : Completion) (s : State) :
    (lateComplete q ctx comp s).pending = s.pending ∧ (lateComplete q ctx comp s).ident = s.ident ∧
    (lateComplete q ctx comp s).sck = s.sck ∧ (lateComplete q ctx comp s).arc = s.arc ∧
    (lateComplete q ctx comp s).pln = s.pln ∧ (lateComplete q ctx comp s).fe = s.fe ∧ (lateComplete q ctx comp s).key = s.key ∧
    (lateComplete q ctx comp s).pke = s.pke ∧ (lateComplete q ctx comp s).rnu = s.rnu ∧
    (lateComplete q ctx comp s).tls = s.tls ∧ (lateComplete q ctx comp s).ac = s.ac ∧ (lateComplete q ctx comp s).tm = s.tm ∧
    (lateComplete q ctx comp s).lcc = s.lcc ∧ (lateComplete q ctx comp s).stc = s.stc ∧
    (lateComplete q ctx comp s).pwr = s.pwr ∧ (lateComplete q ctx comp s).io = s.io ∧ (lateComplete q ctx comp s).ev = s.ev ∧
    (lateComplete q ctx comp s).rw = s.rw ∧ (lateComplete q ctx comp s).store = s.store ∧
    (lateComplete q ctx comp s).writes = s.writes ∧ (lateComplete q ctx comp s).free = s.free := by
  simp only [lateComplete]
  (repeat' split) <;> simp

@[simp] theorem leaveCore_frame (id : Nat) (s : State) :
    (leaveCore id s).pending = s.pending ∧ (leaveCore id s).ident = s.ident ∧ (leaveCore id s).sck = s.sck ∧
    (leaveCore id s).arc = s.arc ∧ (leaveCore id s).pln = s.pln ∧ (leaveCore id s).fe = s.fe ∧ (leaveCore id s).hif = s.hif ∧
    (leaveCore id s).key = s.key ∧ (leaveCore id s).pke = s.pke ∧ (leaveCore id s).rnu = s.rnu ∧ (leaveCore id s).tls = s.tls ∧
    (leaveCore id s).ac = s.ac ∧ (leaveCore id s).tm = s.tm ∧ (leaveCore id s).lcc = s.lcc ∧ (leaveCore id s).stc = s.stc ∧
    (leaveCore id s).pwr = s.pwr ∧ (leaveCore id s).io = s.io ∧ (leaveCore id s).ev = s.ev ∧ (leaveCore id s).rw = s.rw ∧
    (leaveCore id s).store = s.store ∧ (leaveCore id s).writes = s.writes ∧ (leaveCore id s).out = s.out ∧
    (leaveCore id s).free = s.free := by
  simp [leaveCore]

@[simp] theorem holdOp_frame (q : Call) (s : State) :
    (holdOp q s).pending = s.pending ∧ (holdOp q s).ident = s.ident ∧ (holdOp q s).sck = s.sck ∧ (holdOp q s).arc = s.arc ∧
    (holdOp q s).pln = s.pln ∧ (holdOp q s).fe = s.fe ∧ (holdOp q s).key = s.key ∧ (holdOp q s).pke = s.pke ∧
    (holdOp q s).rnu = s.rnu ∧ (holdOp q s).tls = s.tls ∧ (holdOp q s).ac = s.ac ∧ (holdOp q s).tm = s.tm ∧
    (holdOp q s).lcc = s.lcc ∧ (holdOp q s).stc = s.stc ∧ (holdOp q s).pwr = s.pwr ∧ (holdOp q s).io = s.io ∧
    (holdOp q s).ev = s.ev ∧ (holdOp q s).rw = s.rw ∧ (holdOp q s).store = s.store ∧ (holdOp q s).writes = s.writes ∧
    (holdOp q s).out = s.out ∧ (holdOp q s).free = s.free := by
  simp only [holdOp]
  (repeat' split) <;> simp

@[simp] theorem resumeHeld_frame (x1 : List Ctx) (x2 : State) :
    (resumeHeld x1 x2).pending = x2.pending ∧ (resumeHeld x1 x2).ident = x2.ident ∧ (resumeHeld x1 x2).sck = x2.sck ∧
    (resumeHeld x1 x2).arc = x2.arc ∧ (resumeHeld x1 x2).pln = x2.pln ∧ (resumeHeld x1 x2).fe = x2.fe ∧
    (resumeHeld x1 x2).key = x2.key ∧ (resumeHeld x1 x2).pke = x2.pke ∧ (resumeHeld x1 x2).rnu = x2.rnu ∧
    (resumeHeld x1 x2).tls = x2.tls ∧ (resumeHeld x1 x2).ac = x2.ac ∧ (resumeHeld x1 x2).tm = x2.tm ∧
    (resumeHeld x1 x2).lcc = x2.lcc ∧ (resumeHeld x1 x2).stc = x2.stc ∧ (resumeHeld x1 x2).pwr = x2.pwr ∧
    (resumeHeld x1 x2).io = x2.io ∧ (resumeHeld x1 x2).ev = x2.ev ∧ (resumeHeld x1 x2).rw = x2.rw ∧
    (resumeHeld x1 x2).store = x2.store ∧ (resumeHeld x1 x2).writes = x2.writes ∧ (resumeHeld x1 x2).out = x2.out ∧
    (resumeHeld x1 x2).free = x2.free := by
  induction x1 generalizing x2 with
  | nil => simp [resumeHeld]
  | cons c l ih => (simp only [resumeHeld, ih]; (repeat' split) <;> simp)

@[simp] theorem freshBytes_frame (x1 : Nat) (x2 : State) :
    (freshBytes x1 x2).2.pending = x2.pending ∧ (freshBytes x1 x2).2.ident = x2.ident ∧ (freshBytes x1 x2).2.sck = x2.sck ∧
    (freshBytes x1 x2).2.arc = x2.arc ∧ (freshBytes x1 x2).2.pln = x2.pln ∧ (freshBytes x1 x2).2.fe = x2.fe ∧
    (freshBytes x1 x2).2.hif = x2.hif ∧ (freshBytes x1 x2).2.ts = x2.ts ∧ (freshBytes x1 x2).2.key = x2.key ∧
    (freshBytes x1 x2).2.pke = x2.pke ∧ (freshBytes x1 x2).2.rnu = x2.rnu ∧ (freshBytes x1 x2).2.tls = x2.tls ∧
    (freshBytes x1 x2).2.ac = x2.ac ∧ (freshBytes x1 x2).2.tm = x2.tm ∧ (freshBytes x1 x2).2.lcc = x2.lcc ∧
    (freshBytes x1 x2).2.stc = x2.stc ∧ (freshBytes x1 x2).2.pwr = x2.pwr ∧ (freshBytes x1 x2).2.io = x2.io ∧
    (freshBytes x1 x2).2.ev = x2.ev ∧ (freshBytes x1 x2).2.rw = x2.rw ∧ (freshBytes x1 x2).2.store = x2.store ∧
    (freshBytes x1 x2).2.writes = x2.writes ∧ (freshBytes x1 x2).2.out = x2.out := by
  induction x1 generalizing x2 with
  | zero => simp [freshBytes]
  | succ n ih => (simp only [freshBytes, ih]; simp)

@[simp] theorem samples_frame (source : Nat) (n : Nat) (s : State) :
    (samples source n s).2.pending = s.pending ∧ (samples source n s).2.ident = s.ident ∧ (samples source n s).2.sck = s.sck ∧
    (samples source n s).2.arc = s.arc ∧ (samples source n s).2.pln = s.pln ∧ (samples source n s).2.fe = s.fe ∧
    (samples source n s).2.hif = s.hif ∧ (samples source n s).2.ts = s.ts ∧ (samples source n s).2.key = s.key ∧
    (samples source n s).2.pke = s.pke ∧ (samples source n s).2.tls = s.tls ∧ (samples source n s).2.ac = s.ac ∧
    (samples source n s).2.tm = s.tm ∧ (samples source n s).2.lcc = s.lcc ∧ (samples source n s).2.stc = s.stc ∧
    (samples source n s).2.pwr = s.pwr ∧ (samples source n s).2.io = s.io ∧ (samples source n s).2.ev = s.ev ∧
    (samples source n s).2.rw = s.rw ∧ (samples source n s).2.store = s.store ∧ (samples source n s).2.writes = s.writes ∧
    (samples source n s).2.out = s.out := by
  simp only [samples]
  (repeat' split) <;> simp

@[simp] theorem conditioned_frame (s : State) :
    (conditioned s).2.pending = s.pending ∧ (conditioned s).2.ident = s.ident ∧ (conditioned s).2.sck = s.sck ∧
    (conditioned s).2.arc = s.arc ∧ (conditioned s).2.pln = s.pln ∧ (conditioned s).2.fe = s.fe ∧
    (conditioned s).2.hif = s.hif ∧ (conditioned s).2.ts = s.ts ∧ (conditioned s).2.key = s.key ∧
    (conditioned s).2.pke = s.pke ∧ (conditioned s).2.tls = s.tls ∧ (conditioned s).2.ac = s.ac ∧ (conditioned s).2.tm = s.tm ∧
    (conditioned s).2.lcc = s.lcc ∧ (conditioned s).2.stc = s.stc ∧ (conditioned s).2.pwr = s.pwr ∧
    (conditioned s).2.io = s.io ∧ (conditioned s).2.ev = s.ev ∧ (conditioned s).2.rw = s.rw ∧
    (conditioned s).2.store = s.store ∧ (conditioned s).2.writes = s.writes ∧ (conditioned s).2.out = s.out := by
  simp [conditioned]

@[simp] theorem gatherSeed_frame (s : State) :
    (gatherSeed s).2.pending = s.pending ∧ (gatherSeed s).2.ident = s.ident ∧ (gatherSeed s).2.sck = s.sck ∧
    (gatherSeed s).2.arc = s.arc ∧ (gatherSeed s).2.pln = s.pln ∧ (gatherSeed s).2.fe = s.fe ∧ (gatherSeed s).2.hif = s.hif ∧
    (gatherSeed s).2.ts = s.ts ∧ (gatherSeed s).2.key = s.key ∧ (gatherSeed s).2.pke = s.pke ∧ (gatherSeed s).2.tls = s.tls ∧
    (gatherSeed s).2.ac = s.ac ∧ (gatherSeed s).2.tm = s.tm ∧ (gatherSeed s).2.lcc = s.lcc ∧ (gatherSeed s).2.stc = s.stc ∧
    (gatherSeed s).2.pwr = s.pwr ∧ (gatherSeed s).2.io = s.io ∧ (gatherSeed s).2.ev = s.ev ∧ (gatherSeed s).2.rw = s.rw ∧
    (gatherSeed s).2.store = s.store ∧ (gatherSeed s).2.writes = s.writes ∧ (gatherSeed s).2.out = s.out := by
  simp [gatherSeed]

@[simp] theorem takeSeed_frame (s : State) :
    (takeSeed s).2.pending = s.pending ∧ (takeSeed s).2.ident = s.ident ∧ (takeSeed s).2.sck = s.sck ∧
    (takeSeed s).2.arc = s.arc ∧ (takeSeed s).2.pln = s.pln ∧ (takeSeed s).2.fe = s.fe ∧ (takeSeed s).2.hif = s.hif ∧
    (takeSeed s).2.ts = s.ts ∧ (takeSeed s).2.key = s.key ∧ (takeSeed s).2.pke = s.pke ∧ (takeSeed s).2.tls = s.tls ∧
    (takeSeed s).2.ac = s.ac ∧ (takeSeed s).2.tm = s.tm ∧ (takeSeed s).2.lcc = s.lcc ∧ (takeSeed s).2.stc = s.stc ∧
    (takeSeed s).2.pwr = s.pwr ∧ (takeSeed s).2.io = s.io ∧ (takeSeed s).2.ev = s.ev ∧ (takeSeed s).2.rw = s.rw ∧
    (takeSeed s).2.store = s.store ∧ (takeSeed s).2.writes = s.writes ∧ (takeSeed s).2.out = s.out := by
  simp only [takeSeed]
  (repeat' split) <;> simp

@[simp] theorem instantiate_frame (s : State) :
    (instantiate s).pending = s.pending ∧ (instantiate s).ident = s.ident ∧ (instantiate s).sck = s.sck ∧
    (instantiate s).arc = s.arc ∧ (instantiate s).pln = s.pln ∧ (instantiate s).fe = s.fe ∧ (instantiate s).hif = s.hif ∧
    (instantiate s).ts = s.ts ∧ (instantiate s).key = s.key ∧ (instantiate s).pke = s.pke ∧ (instantiate s).tls = s.tls ∧
    (instantiate s).ac = s.ac ∧ (instantiate s).tm = s.tm ∧ (instantiate s).lcc = s.lcc ∧ (instantiate s).stc = s.stc ∧
    (instantiate s).pwr = s.pwr ∧ (instantiate s).io = s.io ∧ (instantiate s).ev = s.ev ∧ (instantiate s).rw = s.rw ∧
    (instantiate s).store = s.store ∧ (instantiate s).writes = s.writes ∧ (instantiate s).out = s.out := by
  simp [instantiate]

@[simp] theorem reseed_frame (s : State) :
    (reseed s).pending = s.pending ∧ (reseed s).ident = s.ident ∧ (reseed s).sck = s.sck ∧ (reseed s).arc = s.arc ∧
    (reseed s).pln = s.pln ∧ (reseed s).fe = s.fe ∧ (reseed s).hif = s.hif ∧ (reseed s).ts = s.ts ∧ (reseed s).key = s.key ∧
    (reseed s).pke = s.pke ∧ (reseed s).tls = s.tls ∧ (reseed s).ac = s.ac ∧ (reseed s).tm = s.tm ∧ (reseed s).lcc = s.lcc ∧
    (reseed s).stc = s.stc ∧ (reseed s).pwr = s.pwr ∧ (reseed s).io = s.io ∧ (reseed s).ev = s.ev ∧ (reseed s).rw = s.rw ∧
    (reseed s).store = s.store ∧ (reseed s).writes = s.writes ∧ (reseed s).out = s.out := by
  simp [reseed]

@[simp] theorem generateBlock_frame (s : State) :
    (generateBlock s).pending = s.pending ∧ (generateBlock s).ident = s.ident ∧ (generateBlock s).sck = s.sck ∧
    (generateBlock s).arc = s.arc ∧ (generateBlock s).pln = s.pln ∧ (generateBlock s).fe = s.fe ∧
    (generateBlock s).hif = s.hif ∧ (generateBlock s).ts = s.ts ∧ (generateBlock s).key = s.key ∧
    (generateBlock s).pke = s.pke ∧ (generateBlock s).tls = s.tls ∧ (generateBlock s).ac = s.ac ∧ (generateBlock s).tm = s.tm ∧
    (generateBlock s).lcc = s.lcc ∧ (generateBlock s).stc = s.stc ∧ (generateBlock s).pwr = s.pwr ∧
    (generateBlock s).io = s.io ∧ (generateBlock s).ev = s.ev ∧ (generateBlock s).rw = s.rw ∧
    (generateBlock s).store = s.store ∧ (generateBlock s).writes = s.writes ∧ (generateBlock s).out = s.out := by
  simp only [generateBlock]
  (repeat' split) <;> simp

@[simp] theorem generateBlocks_frame (k : Nat) (x1 : State) :
    (generateBlocks k x1).pending = x1.pending ∧ (generateBlocks k x1).ident = x1.ident ∧ (generateBlocks k x1).sck = x1.sck ∧
    (generateBlocks k x1).arc = x1.arc ∧ (generateBlocks k x1).pln = x1.pln ∧ (generateBlocks k x1).fe = x1.fe ∧
    (generateBlocks k x1).hif = x1.hif ∧ (generateBlocks k x1).ts = x1.ts ∧ (generateBlocks k x1).key = x1.key ∧
    (generateBlocks k x1).pke = x1.pke ∧ (generateBlocks k x1).tls = x1.tls ∧ (generateBlocks k x1).ac = x1.ac ∧
    (generateBlocks k x1).tm = x1.tm ∧ (generateBlocks k x1).lcc = x1.lcc ∧ (generateBlocks k x1).stc = x1.stc ∧
    (generateBlocks k x1).pwr = x1.pwr ∧ (generateBlocks k x1).io = x1.io ∧ (generateBlocks k x1).ev = x1.ev ∧
    (generateBlocks k x1).rw = x1.rw ∧ (generateBlocks k x1).store = x1.store ∧ (generateBlocks k x1).writes = x1.writes ∧
    (generateBlocks k x1).out = x1.out := by
  induction k generalizing x1 with
  | zero => simp [generateBlocks]
  | succ n ih => (simp only [generateBlocks, ih]; simp)

@[simp] theorem takeBellows_frame (fuel : Nat) (n : Nat) (x1 : State) :
    (takeBellows fuel n x1).2.pending = x1.pending ∧ (takeBellows fuel n x1).2.ident = x1.ident ∧
    (takeBellows fuel n x1).2.sck = x1.sck ∧ (takeBellows fuel n x1).2.arc = x1.arc ∧ (takeBellows fuel n x1).2.pln = x1.pln ∧
    (takeBellows fuel n x1).2.fe = x1.fe ∧ (takeBellows fuel n x1).2.hif = x1.hif ∧ (takeBellows fuel n x1).2.ts = x1.ts ∧
    (takeBellows fuel n x1).2.key = x1.key ∧ (takeBellows fuel n x1).2.pke = x1.pke ∧ (takeBellows fuel n x1).2.tls = x1.tls ∧
    (takeBellows fuel n x1).2.ac = x1.ac ∧ (takeBellows fuel n x1).2.tm = x1.tm ∧ (takeBellows fuel n x1).2.lcc = x1.lcc ∧
    (takeBellows fuel n x1).2.stc = x1.stc ∧ (takeBellows fuel n x1).2.pwr = x1.pwr ∧ (takeBellows fuel n x1).2.io = x1.io ∧
    (takeBellows fuel n x1).2.ev = x1.ev ∧ (takeBellows fuel n x1).2.rw = x1.rw ∧ (takeBellows fuel n x1).2.store = x1.store ∧
    (takeBellows fuel n x1).2.writes = x1.writes ∧ (takeBellows fuel n x1).2.out = x1.out := by
  induction fuel generalizing n x1 with
  | zero => simp [takeBellows]
  | succ n ih => (simp only [takeBellows]; (repeat' split) <;> simp [ih])

@[simp] theorem draw_frame (n : Nat) (s : State) :
    (draw n s).2.pending = s.pending ∧ (draw n s).2.ident = s.ident ∧ (draw n s).2.sck = s.sck ∧ (draw n s).2.arc = s.arc ∧
    (draw n s).2.pln = s.pln ∧ (draw n s).2.fe = s.fe ∧ (draw n s).2.hif = s.hif ∧ (draw n s).2.ts = s.ts ∧
    (draw n s).2.key = s.key ∧ (draw n s).2.pke = s.pke ∧ (draw n s).2.tls = s.tls ∧ (draw n s).2.ac = s.ac ∧
    (draw n s).2.tm = s.tm ∧ (draw n s).2.lcc = s.lcc ∧ (draw n s).2.stc = s.stc ∧ (draw n s).2.pwr = s.pwr ∧
    (draw n s).2.io = s.io ∧ (draw n s).2.ev = s.ev ∧ (draw n s).2.rw = s.rw ∧ (draw n s).2.store = s.store ∧
    (draw n s).2.writes = s.writes ∧ (draw n s).2.out = s.out := by
  simp only [draw]
  (repeat' split) <;> simp

@[simp] theorem drawOwn_frame (s : State) :
    (drawOwn s).2.pending = s.pending ∧ (drawOwn s).2.ident = s.ident ∧ (drawOwn s).2.sck = s.sck ∧ (drawOwn s).2.arc = s.arc ∧
    (drawOwn s).2.pln = s.pln ∧ (drawOwn s).2.fe = s.fe ∧ (drawOwn s).2.hif = s.hif ∧ (drawOwn s).2.ts = s.ts ∧
    (drawOwn s).2.key = s.key ∧ (drawOwn s).2.pke = s.pke ∧ (drawOwn s).2.tls = s.tls ∧ (drawOwn s).2.ac = s.ac ∧
    (drawOwn s).2.tm = s.tm ∧ (drawOwn s).2.lcc = s.lcc ∧ (drawOwn s).2.stc = s.stc ∧ (drawOwn s).2.pwr = s.pwr ∧
    (drawOwn s).2.io = s.io ∧ (drawOwn s).2.ev = s.ev ∧ (drawOwn s).2.rw = s.rw ∧ (drawOwn s).2.store = s.store ∧
    (drawOwn s).2.writes = s.writes ∧ (drawOwn s).2.out = s.out := by
  simp [drawOwn]

@[simp] theorem offerBytes_frame (q : Call) (bytes : Bytes) (s : State) :
    (offerBytes q bytes s).pending = s.pending ∧ (offerBytes q bytes s).ident = s.ident ∧ (offerBytes q bytes s).sck = s.sck ∧
    (offerBytes q bytes s).arc = s.arc ∧ (offerBytes q bytes s).pln = s.pln ∧ (offerBytes q bytes s).fe = s.fe ∧
    (offerBytes q bytes s).ts = s.ts ∧ (offerBytes q bytes s).key = s.key ∧ (offerBytes q bytes s).pke = s.pke ∧
    (offerBytes q bytes s).rnu = s.rnu ∧ (offerBytes q bytes s).tls = s.tls ∧ (offerBytes q bytes s).ac = s.ac ∧
    (offerBytes q bytes s).tm = s.tm ∧ (offerBytes q bytes s).lcc = s.lcc ∧ (offerBytes q bytes s).stc = s.stc ∧
    (offerBytes q bytes s).pwr = s.pwr ∧ (offerBytes q bytes s).io = s.io ∧ (offerBytes q bytes s).ev = s.ev ∧
    (offerBytes q bytes s).rw = s.rw ∧ (offerBytes q bytes s).store = s.store ∧ (offerBytes q bytes s).writes = s.writes ∧
    (offerBytes q bytes s).free = s.free := by
  simp [offerBytes, ite_pending, ite_ident, ite_sck, ite_arc, ite_pln, ite_fe, ite_ts, ite_key, ite_pke, ite_rnu, ite_tls, ite_ac, ite_tm, ite_lcc, ite_stc, ite_pwr, ite_io, ite_ev, ite_rw, ite_store, ite_writes, ite_free]

end Sys2Proof.Machine
end

