-- ==== Sys2Proof/Laws/Time.lean ====
section
/-! SUPPORT. What the operations of Machine/Time.lean leave unchanged, once for each: its frame. -/

namespace Sys2Proof.Machine

@[simp] theorem State.setRef_frame (r : Nat) (v : RefClock) (s : State) :
    (State.setRef r v s).pending = s.pending ∧ (State.setRef r v s).ident = s.ident ∧ (State.setRef r v s).arc = s.arc ∧
    (State.setRef r v s).pln = s.pln ∧ (State.setRef r v s).fe = s.fe ∧ (State.setRef r v s).hif = s.hif ∧
    (State.setRef r v s).ts = s.ts ∧ (State.setRef r v s).key = s.key ∧ (State.setRef r v s).pke = s.pke ∧
    (State.setRef r v s).rnu = s.rnu ∧ (State.setRef r v s).tls = s.tls ∧ (State.setRef r v s).ac = s.ac ∧
    (State.setRef r v s).tm = s.tm ∧ (State.setRef r v s).lcc = s.lcc ∧ (State.setRef r v s).stc = s.stc ∧
    (State.setRef r v s).pwr = s.pwr ∧ (State.setRef r v s).io = s.io ∧ (State.setRef r v s).ev = s.ev ∧
    (State.setRef r v s).rw = s.rw ∧ (State.setRef r v s).store = s.store ∧ (State.setRef r v s).writes = s.writes ∧
    (State.setRef r v s).out = s.out ∧ (State.setRef r v s).free = s.free := by
  simp [State.setRef]

@[simp] theorem State.updRef_frame (r : Nat) (g : RefClock → RefClock) (s : State) :
    (State.updRef r g s).pending = s.pending ∧ (State.updRef r g s).ident = s.ident ∧ (State.updRef r g s).arc = s.arc ∧
    (State.updRef r g s).pln = s.pln ∧ (State.updRef r g s).fe = s.fe ∧ (State.updRef r g s).hif = s.hif ∧
    (State.updRef r g s).ts = s.ts ∧ (State.updRef r g s).key = s.key ∧ (State.updRef r g s).pke = s.pke ∧
    (State.updRef r g s).rnu = s.rnu ∧ (State.updRef r g s).tls = s.tls ∧ (State.updRef r g s).ac = s.ac ∧
    (State.updRef r g s).tm = s.tm ∧ (State.updRef r g s).lcc = s.lcc ∧ (State.updRef r g s).stc = s.stc ∧
    (State.updRef r g s).pwr = s.pwr ∧ (State.updRef r g s).io = s.io ∧ (State.updRef r g s).ev = s.ev ∧
    (State.updRef r g s).rw = s.rw ∧ (State.updRef r g s).store = s.store ∧ (State.updRef r g s).writes = s.writes ∧
    (State.updRef r g s).out = s.out ∧ (State.updRef r g s).free = s.free := by
  simp [State.updRef]

@[simp] theorem evalRefs_frame (k : Sck) (x1 : Nat) (x2 : State) :
    (evalRefs k x1 x2).pending = x2.pending ∧ (evalRefs k x1 x2).ident = x2.ident ∧ (evalRefs k x1 x2).arc = x2.arc ∧
    (evalRefs k x1 x2).pln = x2.pln ∧ (evalRefs k x1 x2).fe = x2.fe ∧ (evalRefs k x1 x2).hif = x2.hif ∧
    (evalRefs k x1 x2).ts = x2.ts ∧ (evalRefs k x1 x2).key = x2.key ∧ (evalRefs k x1 x2).pke = x2.pke ∧
    (evalRefs k x1 x2).rnu = x2.rnu ∧ (evalRefs k x1 x2).tls = x2.tls ∧ (evalRefs k x1 x2).ac = x2.ac ∧
    (evalRefs k x1 x2).tm = x2.tm ∧ (evalRefs k x1 x2).lcc = x2.lcc ∧ (evalRefs k x1 x2).stc = x2.stc ∧
    (evalRefs k x1 x2).pwr = x2.pwr ∧ (evalRefs k x1 x2).io = x2.io ∧ (evalRefs k x1 x2).ev = x2.ev ∧
    (evalRefs k x1 x2).rw = x2.rw ∧ (evalRefs k x1 x2).store = x2.store ∧ (evalRefs k x1 x2).writes = x2.writes ∧
    (evalRefs k x1 x2).out = x2.out ∧ (evalRefs k x1 x2).free = x2.free := by
  induction x1 generalizing k x2 with
  | zero => simp [evalRefs]
  | succ n ih => (simp only [evalRefs]; (repeat' split) <;> simp [ih])

@[simp] theorem reBound_frame (s : State) :
    (reBound s).pending = s.pending ∧ (reBound s).ident = s.ident ∧ (reBound s).arc = s.arc ∧ (reBound s).pln = s.pln ∧
    (reBound s).fe = s.fe ∧ (reBound s).hif = s.hif ∧ (reBound s).ts = s.ts ∧ (reBound s).key = s.key ∧
    (reBound s).pke = s.pke ∧ (reBound s).rnu = s.rnu ∧ (reBound s).tls = s.tls ∧ (reBound s).ac = s.ac ∧
    (reBound s).tm = s.tm ∧ (reBound s).lcc = s.lcc ∧ (reBound s).stc = s.stc ∧ (reBound s).pwr = s.pwr ∧
    (reBound s).io = s.io ∧ (reBound s).ev = s.ev ∧ (reBound s).rw = s.rw ∧ (reBound s).store = s.store ∧
    (reBound s).writes = s.writes ∧ (reBound s).out = s.out ∧ (reBound s).free = s.free := by
  simp [reBound]

@[simp] theorem noteRefs_frame (old : Sck) (x1 : Nat) (x2 : State) :
    (noteRefs old x1 x2).1.pending = x2.pending ∧ (noteRefs old x1 x2).1.ident = x2.ident ∧
    (noteRefs old x1 x2).1.sck = x2.sck ∧ (noteRefs old x1 x2).1.pln = x2.pln ∧ (noteRefs old x1 x2).1.fe = x2.fe ∧
    (noteRefs old x1 x2).1.hif = x2.hif ∧ (noteRefs old x1 x2).1.ts = x2.ts ∧ (noteRefs old x1 x2).1.key = x2.key ∧
    (noteRefs old x1 x2).1.pke = x2.pke ∧ (noteRefs old x1 x2).1.rnu = x2.rnu ∧ (noteRefs old x1 x2).1.tls = x2.tls ∧
    (noteRefs old x1 x2).1.ac = x2.ac ∧ (noteRefs old x1 x2).1.tm = x2.tm ∧ (noteRefs old x1 x2).1.lcc = x2.lcc ∧
    (noteRefs old x1 x2).1.stc = x2.stc ∧ (noteRefs old x1 x2).1.pwr = x2.pwr ∧ (noteRefs old x1 x2).1.io = x2.io ∧
    (noteRefs old x1 x2).1.ev = x2.ev ∧ (noteRefs old x1 x2).1.rw = x2.rw ∧ (noteRefs old x1 x2).1.store = x2.store ∧
    (noteRefs old x1 x2).1.writes = x2.writes ∧ (noteRefs old x1 x2).1.out = x2.out ∧ (noteRefs old x1 x2).1.free = x2.free := by
  induction x1 generalizing old x2 with
  | zero => simp [noteRefs]
  | succ n ih => (simp only [noteRefs]; (repeat' split) <;> simp [ih])

@[simp] theorem failAngles_frame (x1 : List Ctx) (x2 : State) :
    (failAngles x1 x2).pending = x2.pending ∧ (failAngles x1 x2).ident = x2.ident ∧ (failAngles x1 x2).sck = x2.sck ∧
    (failAngles x1 x2).arc = x2.arc ∧ (failAngles x1 x2).pln = x2.pln ∧ (failAngles x1 x2).fe = x2.fe ∧
    (failAngles x1 x2).key = x2.key ∧ (failAngles x1 x2).pke = x2.pke ∧ (failAngles x1 x2).rnu = x2.rnu ∧
    (failAngles x1 x2).tls = x2.tls ∧ (failAngles x1 x2).ac = x2.ac ∧ (failAngles x1 x2).tm = x2.tm ∧
    (failAngles x1 x2).lcc = x2.lcc ∧ (failAngles x1 x2).stc = x2.stc ∧ (failAngles x1 x2).pwr = x2.pwr ∧
    (failAngles x1 x2).io = x2.io ∧ (failAngles x1 x2).ev = x2.ev ∧ (failAngles x1 x2).rw = x2.rw ∧
    (failAngles x1 x2).store = x2.store ∧ (failAngles x1 x2).writes = x2.writes ∧ (failAngles x1 x2).free = x2.free := by
  induction x1 generalizing x2 with
  | nil => simp [failAngles]
  | cons c l ih => (simp only [failAngles, ih]; (repeat' split) <;> simp)

@[simp] theorem noteRecord_frame (old : Sck) (s : State) :
    (noteRecord old s).pending = s.pending ∧ (noteRecord old s).ident = s.ident ∧ (noteRecord old s).sck = s.sck ∧
    (noteRecord old s).pln = s.pln ∧ (noteRecord old s).fe = s.fe ∧ (noteRecord old s).hif = s.hif ∧
    (noteRecord old s).ts = s.ts ∧ (noteRecord old s).key = s.key ∧ (noteRecord old s).pke = s.pke ∧
    (noteRecord old s).rnu = s.rnu ∧ (noteRecord old s).tls = s.tls ∧ (noteRecord old s).ac = s.ac ∧
    (noteRecord old s).tm = s.tm ∧ (noteRecord old s).lcc = s.lcc ∧ (noteRecord old s).stc = s.stc ∧
    (noteRecord old s).pwr = s.pwr ∧ (noteRecord old s).io = s.io ∧ (noteRecord old s).ev = s.ev ∧
    (noteRecord old s).rw = s.rw ∧ (noteRecord old s).store = s.store ∧ (noteRecord old s).writes = s.writes ∧
    (noteRecord old s).out = s.out ∧ (noteRecord old s).free = s.free := by
  simp [noteRecord, ite_pending, ite_ident, ite_sck, ite_pln, ite_fe, ite_hif, ite_ts, ite_key, ite_pke, ite_rnu, ite_tls, ite_ac, ite_tm, ite_lcc, ite_stc, ite_pwr, ite_io, ite_ev, ite_rw, ite_store, ite_writes, ite_out, ite_free]

@[simp] theorem sckEvent_frame (changed : Bool) (bit : Nat) (s : State) :
    (sckEvent changed bit s).pending = s.pending ∧ (sckEvent changed bit s).ident = s.ident ∧
    (sckEvent changed bit s).sck = s.sck ∧ (sckEvent changed bit s).arc = s.arc ∧ (sckEvent changed bit s).pln = s.pln ∧
    (sckEvent changed bit s).fe = s.fe ∧ (sckEvent changed bit s).ts = s.ts ∧ (sckEvent changed bit s).key = s.key ∧
    (sckEvent changed bit s).pke = s.pke ∧ (sckEvent changed bit s).rnu = s.rnu ∧ (sckEvent changed bit s).tls = s.tls ∧
    (sckEvent changed bit s).ac = s.ac ∧ (sckEvent changed bit s).tm = s.tm ∧ (sckEvent changed bit s).lcc = s.lcc ∧
    (sckEvent changed bit s).stc = s.stc ∧ (sckEvent changed bit s).pwr = s.pwr ∧ (sckEvent changed bit s).io = s.io ∧
    (sckEvent changed bit s).rw = s.rw ∧ (sckEvent changed bit s).store = s.store ∧
    (sckEvent changed bit s).writes = s.writes ∧ (sckEvent changed bit s).free = s.free := by
  simp [sckEvent, ite_pending, ite_ident, ite_sck, ite_arc, ite_pln, ite_fe, ite_ts, ite_key, ite_pke, ite_rnu, ite_tls, ite_ac, ite_tm, ite_lcc, ite_stc, ite_pwr, ite_io, ite_rw, ite_store, ite_writes, ite_free]

@[simp] theorem noteEvents_frame (old : Sck) (k : Sck) (s : State) :
    (noteEvents old k s).pending = s.pending ∧ (noteEvents old k s).ident = s.ident ∧ (noteEvents old k s).sck = s.sck ∧
    (noteEvents old k s).arc = s.arc ∧ (noteEvents old k s).pln = s.pln ∧ (noteEvents old k s).fe = s.fe ∧
    (noteEvents old k s).ts = s.ts ∧ (noteEvents old k s).key = s.key ∧ (noteEvents old k s).pke = s.pke ∧
    (noteEvents old k s).rnu = s.rnu ∧ (noteEvents old k s).tls = s.tls ∧ (noteEvents old k s).ac = s.ac ∧
    (noteEvents old k s).tm = s.tm ∧ (noteEvents old k s).lcc = s.lcc ∧ (noteEvents old k s).stc = s.stc ∧
    (noteEvents old k s).pwr = s.pwr ∧ (noteEvents old k s).io = s.io ∧ (noteEvents old k s).rw = s.rw ∧
    (noteEvents old k s).store = s.store ∧ (noteEvents old k s).writes = s.writes ∧ (noteEvents old k s).free = s.free := by
  simp [noteEvents]

@[simp] theorem noteValid_frame (changed : Bool) (s : State) :
    (noteValid changed s).pending = s.pending ∧ (noteValid changed s).ident = s.ident ∧ (noteValid changed s).sck = s.sck ∧
    (noteValid changed s).arc = s.arc ∧ (noteValid changed s).pln = s.pln ∧ (noteValid changed s).fe = s.fe ∧
    (noteValid changed s).ts = s.ts ∧ (noteValid changed s).key = s.key ∧ (noteValid changed s).pke = s.pke ∧
    (noteValid changed s).rnu = s.rnu ∧ (noteValid changed s).tls = s.tls ∧ (noteValid changed s).ac = s.ac ∧
    (noteValid changed s).tm = s.tm ∧ (noteValid changed s).lcc = s.lcc ∧ (noteValid changed s).stc = s.stc ∧
    (noteValid changed s).pwr = s.pwr ∧ (noteValid changed s).io = s.io ∧ (noteValid changed s).rw = s.rw ∧
    (noteValid changed s).store = s.store ∧ (noteValid changed s).writes = s.writes ∧ (noteValid changed s).free = s.free := by
  simp [noteValid, ite_pending, ite_ident, ite_sck, ite_arc, ite_pln, ite_fe, ite_ts, ite_key, ite_pke, ite_rnu, ite_tls, ite_ac, ite_tm, ite_lcc, ite_stc, ite_pwr, ite_io, ite_rw, ite_store, ite_writes, ite_free]

@[simp] theorem noteSck_frame (old : Sck) (s : State) :
    (noteSck old s).pending = s.pending ∧ (noteSck old s).ident = s.ident ∧ (noteSck old s).pln = s.pln ∧
    (noteSck old s).fe = s.fe ∧ (noteSck old s).key = s.key ∧ (noteSck old s).pke = s.pke ∧ (noteSck old s).rnu = s.rnu ∧
    (noteSck old s).tls = s.tls ∧ (noteSck old s).ac = s.ac ∧ (noteSck old s).tm = s.tm ∧ (noteSck old s).lcc = s.lcc ∧
    (noteSck old s).stc = s.stc ∧ (noteSck old s).pwr = s.pwr ∧ (noteSck old s).io = s.io ∧ (noteSck old s).rw = s.rw ∧
    (noteSck old s).store = s.store ∧ (noteSck old s).writes = s.writes ∧ (noteSck old s).free = s.free := by
  simp [noteSck, ite_pending, ite_ident, ite_pln, ite_fe, ite_key, ite_pke, ite_rnu, ite_tls, ite_ac, ite_tm, ite_lcc, ite_stc, ite_pwr, ite_io, ite_rw, ite_store, ite_writes, ite_free]

@[simp] theorem enterHoldover_frame (s : State) :
    (enterHoldover s).pending = s.pending ∧ (enterHoldover s).ident = s.ident ∧ (enterHoldover s).arc = s.arc ∧
    (enterHoldover s).pln = s.pln ∧ (enterHoldover s).fe = s.fe ∧ (enterHoldover s).hif = s.hif ∧ (enterHoldover s).ts = s.ts ∧
    (enterHoldover s).key = s.key ∧ (enterHoldover s).pke = s.pke ∧ (enterHoldover s).rnu = s.rnu ∧
    (enterHoldover s).tls = s.tls ∧ (enterHoldover s).ac = s.ac ∧ (enterHoldover s).tm = s.tm ∧ (enterHoldover s).lcc = s.lcc ∧
    (enterHoldover s).stc = s.stc ∧ (enterHoldover s).pwr = s.pwr ∧ (enterHoldover s).io = s.io ∧ (enterHoldover s).ev = s.ev ∧
    (enterHoldover s).rw = s.rw ∧ (enterHoldover s).store = s.store ∧ (enterHoldover s).writes = s.writes ∧
    (enterHoldover s).out = s.out ∧ (enterHoldover s).free = s.free := by
  simp [enterHoldover]

@[simp] theorem adoptSlew_frame (r : Nat) (s : State) :
    (adoptSlew r s).pending = s.pending ∧ (adoptSlew r s).ident = s.ident ∧ (adoptSlew r s).arc = s.arc ∧
    (adoptSlew r s).pln = s.pln ∧ (adoptSlew r s).fe = s.fe ∧ (adoptSlew r s).hif = s.hif ∧ (adoptSlew r s).ts = s.ts ∧
    (adoptSlew r s).key = s.key ∧ (adoptSlew r s).pke = s.pke ∧ (adoptSlew r s).rnu = s.rnu ∧ (adoptSlew r s).tls = s.tls ∧
    (adoptSlew r s).ac = s.ac ∧ (adoptSlew r s).tm = s.tm ∧ (adoptSlew r s).lcc = s.lcc ∧ (adoptSlew r s).stc = s.stc ∧
    (adoptSlew r s).pwr = s.pwr ∧ (adoptSlew r s).io = s.io ∧ (adoptSlew r s).ev = s.ev ∧ (adoptSlew r s).rw = s.rw ∧
    (adoptSlew r s).store = s.store ∧ (adoptSlew r s).writes = s.writes ∧ (adoptSlew r s).out = s.out ∧
    (adoptSlew r s).free = s.free := by
  simp [adoptSlew, ite_pending, ite_ident, ite_arc, ite_pln, ite_fe, ite_hif, ite_ts, ite_key, ite_pke, ite_rnu, ite_tls, ite_ac, ite_tm, ite_lcc, ite_stc, ite_pwr, ite_io, ite_ev, ite_rw, ite_store, ite_writes, ite_out, ite_free]

@[simp] theorem loseSelected_frame (s : State) :
    (loseSelected s).pending = s.pending ∧ (loseSelected s).ident = s.ident ∧ (loseSelected s).arc = s.arc ∧
    (loseSelected s).pln = s.pln ∧ (loseSelected s).fe = s.fe ∧ (loseSelected s).hif = s.hif ∧ (loseSelected s).ts = s.ts ∧
    (loseSelected s).key = s.key ∧ (loseSelected s).pke = s.pke ∧ (loseSelected s).rnu = s.rnu ∧ (loseSelected s).tls = s.tls ∧
    (loseSelected s).ac = s.ac ∧ (loseSelected s).tm = s.tm ∧ (loseSelected s).lcc = s.lcc ∧ (loseSelected s).stc = s.stc ∧
    (loseSelected s).pwr = s.pwr ∧ (loseSelected s).io = s.io ∧ (loseSelected s).ev = s.ev ∧ (loseSelected s).rw = s.rw ∧
    (loseSelected s).store = s.store ∧ (loseSelected s).writes = s.writes ∧ (loseSelected s).out = s.out ∧
    (loseSelected s).free = s.free := by
  simp only [loseSelected]
  (repeat' split) <;> simp

@[simp] theorem declareFailed_frame (r : Nat) (s : State) :
    (declareFailed r s).pending = s.pending ∧ (declareFailed r s).ident = s.ident ∧ (declareFailed r s).arc = s.arc ∧
    (declareFailed r s).pln = s.pln ∧ (declareFailed r s).fe = s.fe ∧ (declareFailed r s).hif = s.hif ∧
    (declareFailed r s).ts = s.ts ∧ (declareFailed r s).key = s.key ∧ (declareFailed r s).pke = s.pke ∧
    (declareFailed r s).rnu = s.rnu ∧ (declareFailed r s).tls = s.tls ∧ (declareFailed r s).ac = s.ac ∧
    (declareFailed r s).tm = s.tm ∧ (declareFailed r s).lcc = s.lcc ∧ (declareFailed r s).stc = s.stc ∧
    (declareFailed r s).pwr = s.pwr ∧ (declareFailed r s).io = s.io ∧ (declareFailed r s).ev = s.ev ∧
    (declareFailed r s).rw = s.rw ∧ (declareFailed r s).store = s.store ∧ (declareFailed r s).writes = s.writes ∧
    (declareFailed r s).out = s.out ∧ (declareFailed r s).free = s.free := by
  simp [declareFailed, ite_pending, ite_ident, ite_arc, ite_pln, ite_fe, ite_hif, ite_ts, ite_key, ite_pke, ite_rnu, ite_tls, ite_ac, ite_tm, ite_lcc, ite_stc, ite_pwr, ite_io, ite_ev, ite_rw, ite_store, ite_writes, ite_out, ite_free]

@[simp] theorem stepFrames_frame (d : Int) (s : State) :
    (stepFrames d s).pending = s.pending ∧ (stepFrames d s).ident = s.ident ∧ (stepFrames d s).sck = s.sck ∧
    (stepFrames d s).arc = s.arc ∧ (stepFrames d s).pln = s.pln ∧ (stepFrames d s).hif = s.hif ∧ (stepFrames d s).ts = s.ts ∧
    (stepFrames d s).key = s.key ∧ (stepFrames d s).pke = s.pke ∧ (stepFrames d s).rnu = s.rnu ∧ (stepFrames d s).tls = s.tls ∧
    (stepFrames d s).ac = s.ac ∧ (stepFrames d s).tm = s.tm ∧ (stepFrames d s).lcc = s.lcc ∧ (stepFrames d s).stc = s.stc ∧
    (stepFrames d s).pwr = s.pwr ∧ (stepFrames d s).io = s.io ∧ (stepFrames d s).ev = s.ev ∧ (stepFrames d s).rw = s.rw ∧
    (stepFrames d s).store = s.store ∧ (stepFrames d s).writes = s.writes ∧ (stepFrames d s).out = s.out ∧
    (stepFrames d s).free = s.free := by
  simp [stepFrames]

@[simp] theorem stepRefs_frame (d : Int) (s : State) :
    (stepRefs d s).pending = s.pending ∧ (stepRefs d s).ident = s.ident ∧ (stepRefs d s).arc = s.arc ∧
    (stepRefs d s).pln = s.pln ∧ (stepRefs d s).fe = s.fe ∧ (stepRefs d s).hif = s.hif ∧ (stepRefs d s).ts = s.ts ∧
    (stepRefs d s).key = s.key ∧ (stepRefs d s).pke = s.pke ∧ (stepRefs d s).rnu = s.rnu ∧ (stepRefs d s).tls = s.tls ∧
    (stepRefs d s).ac = s.ac ∧ (stepRefs d s).tm = s.tm ∧ (stepRefs d s).lcc = s.lcc ∧ (stepRefs d s).stc = s.stc ∧
    (stepRefs d s).pwr = s.pwr ∧ (stepRefs d s).io = s.io ∧ (stepRefs d s).ev = s.ev ∧ (stepRefs d s).rw = s.rw ∧
    (stepRefs d s).store = s.store ∧ (stepRefs d s).writes = s.writes ∧ (stepRefs d s).out = s.out ∧
    (stepRefs d s).free = s.free := by
  simp [stepRefs]

@[simp] theorem stepParts_frame (before : Nat) (after : Nat) (s : State) :
    (stepParts before after s).pending = s.pending ∧ (stepParts before after s).ident = s.ident ∧
    (stepParts before after s).sck = s.sck ∧ (stepParts before after s).arc = s.arc ∧ (stepParts before after s).fe = s.fe ∧
    (stepParts before after s).hif = s.hif ∧ (stepParts before after s).ts = s.ts ∧ (stepParts before after s).key = s.key ∧
    (stepParts before after s).pke = s.pke ∧ (stepParts before after s).rnu = s.rnu ∧ (stepParts before after s).tls = s.tls ∧
    (stepParts before after s).ac = s.ac ∧ (stepParts before after s).tm = s.tm ∧ (stepParts before after s).lcc = s.lcc ∧
    (stepParts before after s).stc = s.stc ∧ (stepParts before after s).pwr = s.pwr ∧ (stepParts before after s).io = s.io ∧
    (stepParts before after s).ev = s.ev ∧ (stepParts before after s).rw = s.rw ∧ (stepParts before after s).store = s.store ∧
    (stepParts before after s).writes = s.writes ∧ (stepParts before after s).out = s.out ∧
    (stepParts before after s).free = s.free := by
  simp [stepParts]

@[simp] theorem stepTime_frame (r : Nat) (s : State) :
    (stepTime r s).pending = s.pending ∧ (stepTime r s).ident = s.ident ∧ (stepTime r s).ac = s.ac ∧
    (stepTime r s).pwr = s.pwr ∧ (stepTime r s).rw = s.rw ∧ (stepTime r s).store = s.store ∧ (stepTime r s).writes = s.writes ∧
    (stepTime r s).free = s.free := by
  simp [stepTime, ite_pending, ite_ident, ite_ac, ite_pwr, ite_rw, ite_store, ite_writes, ite_free]

@[simp] theorem runCounts_frame (temp : Int) (s : State) :
    (runCounts temp s).pending = s.pending ∧ (runCounts temp s).ident = s.ident ∧ (runCounts temp s).arc = s.arc ∧
    (runCounts temp s).pln = s.pln ∧ (runCounts temp s).fe = s.fe ∧ (runCounts temp s).hif = s.hif ∧
    (runCounts temp s).ts = s.ts ∧ (runCounts temp s).key = s.key ∧ (runCounts temp s).pke = s.pke ∧
    (runCounts temp s).rnu = s.rnu ∧ (runCounts temp s).tls = s.tls ∧ (runCounts temp s).ac = s.ac ∧
    (runCounts temp s).tm = s.tm ∧ (runCounts temp s).lcc = s.lcc ∧ (runCounts temp s).stc = s.stc ∧
    (runCounts temp s).pwr = s.pwr ∧ (runCounts temp s).io = s.io ∧ (runCounts temp s).ev = s.ev ∧
    (runCounts temp s).rw = s.rw ∧ (runCounts temp s).store = s.store ∧ (runCounts temp s).writes = s.writes ∧
    (runCounts temp s).out = s.out ∧ (runCounts temp s).free = s.free := by
  simp [runCounts]

@[simp] theorem tickState_frame (s : State) :
    (tickState s).pending = s.pending ∧ (tickState s).ident = s.ident ∧ (tickState s).arc = s.arc ∧ (tickState s).pln = s.pln ∧
    (tickState s).fe = s.fe ∧ (tickState s).hif = s.hif ∧ (tickState s).ts = s.ts ∧ (tickState s).key = s.key ∧
    (tickState s).pke = s.pke ∧ (tickState s).rnu = s.rnu ∧ (tickState s).tls = s.tls ∧ (tickState s).ac = s.ac ∧
    (tickState s).tm = s.tm ∧ (tickState s).lcc = s.lcc ∧ (tickState s).stc = s.stc ∧ (tickState s).pwr = s.pwr ∧
    (tickState s).io = s.io ∧ (tickState s).ev = s.ev ∧ (tickState s).rw = s.rw ∧ (tickState s).store = s.store ∧
    (tickState s).writes = s.writes ∧ (tickState s).out = s.out ∧ (tickState s).free = s.free := by
  simp only [tickState]
  (repeat' split) <;> simp

@[simp] theorem endStep_frame (call : Option (Call × Option Nat × Nat)) (comp : Completion) (s : State) :
    (endStep call comp s).pending = s.pending ∧ (endStep call comp s).ident = s.ident ∧ (endStep call comp s).sck = s.sck ∧
    (endStep call comp s).arc = s.arc ∧ (endStep call comp s).pln = s.pln ∧ (endStep call comp s).fe = s.fe ∧
    (endStep call comp s).key = s.key ∧ (endStep call comp s).pke = s.pke ∧ (endStep call comp s).rnu = s.rnu ∧
    (endStep call comp s).tls = s.tls ∧ (endStep call comp s).ac = s.ac ∧ (endStep call comp s).tm = s.tm ∧
    (endStep call comp s).lcc = s.lcc ∧ (endStep call comp s).stc = s.stc ∧ (endStep call comp s).pwr = s.pwr ∧
    (endStep call comp s).io = s.io ∧ (endStep call comp s).ev = s.ev ∧ (endStep call comp s).rw = s.rw ∧
    (endStep call comp s).store = s.store ∧ (endStep call comp s).writes = s.writes ∧ (endStep call comp s).free = s.free := by
  simp only [endStep]
  (repeat' split) <;> simp

@[simp] theorem tickStep_frame (s : State) :
    (tickStep s).pending = s.pending ∧ (tickStep s).ident = s.ident ∧ (tickStep s).ac = s.ac ∧ (tickStep s).pwr = s.pwr ∧
    (tickStep s).rw = s.rw ∧ (tickStep s).store = s.store ∧ (tickStep s).writes = s.writes ∧ (tickStep s).free = s.free := by
  simp only [tickStep]
  (repeat' split) <;> simp

@[simp] theorem noteSense_frame (x : Sense) (s : State) :
    (noteSense x s).pending = s.pending ∧ (noteSense x s).ident = s.ident ∧ (noteSense x s).sck = s.sck ∧
    (noteSense x s).arc = s.arc ∧ (noteSense x s).pln = s.pln ∧ (noteSense x s).fe = s.fe ∧ (noteSense x s).hif = s.hif ∧
    (noteSense x s).ts = s.ts ∧ (noteSense x s).key = s.key ∧ (noteSense x s).pke = s.pke ∧ (noteSense x s).rnu = s.rnu ∧
    (noteSense x s).tls = s.tls ∧ (noteSense x s).ac = s.ac ∧ (noteSense x s).lcc = s.lcc ∧ (noteSense x s).stc = s.stc ∧
    (noteSense x s).io = s.io ∧ (noteSense x s).ev = s.ev ∧ (noteSense x s).rw = s.rw ∧ (noteSense x s).store = s.store ∧
    (noteSense x s).writes = s.writes ∧ (noteSense x s).out = s.out ∧ (noteSense x s).free = s.free := by
  simp [noteSense, ite_pending, ite_ident, ite_sck, ite_arc, ite_pln, ite_fe, ite_hif, ite_ts, ite_key, ite_pke, ite_rnu, ite_tls, ite_ac, ite_lcc, ite_stc, ite_io, ite_ev, ite_rw, ite_store, ite_writes, ite_out, ite_free]

@[simp] theorem measure_frame (r : Nat) (offset : Int) (s : State) :
    (measure r offset s).pending = s.pending ∧ (measure r offset s).ident = s.ident ∧ (measure r offset s).arc = s.arc ∧
    (measure r offset s).pln = s.pln ∧ (measure r offset s).fe = s.fe ∧ (measure r offset s).hif = s.hif ∧
    (measure r offset s).ts = s.ts ∧ (measure r offset s).key = s.key ∧ (measure r offset s).pke = s.pke ∧
    (measure r offset s).rnu = s.rnu ∧ (measure r offset s).tls = s.tls ∧ (measure r offset s).ac = s.ac ∧
    (measure r offset s).tm = s.tm ∧ (measure r offset s).lcc = s.lcc ∧ (measure r offset s).stc = s.stc ∧
    (measure r offset s).pwr = s.pwr ∧ (measure r offset s).io = s.io ∧ (measure r offset s).ev = s.ev ∧
    (measure r offset s).rw = s.rw ∧ (measure r offset s).store = s.store ∧ (measure r offset s).writes = s.writes ∧
    (measure r offset s).out = s.out ∧ (measure r offset s).free = s.free := by
  simp [measure]

@[simp] theorem judgeMeasure_frame (r : Nat) (offset : Int) (s : State) :
    (judgeMeasure r offset s).pending = s.pending ∧ (judgeMeasure r offset s).ident = s.ident ∧
    (judgeMeasure r offset s).arc = s.arc ∧ (judgeMeasure r offset s).pln = s.pln ∧ (judgeMeasure r offset s).fe = s.fe ∧
    (judgeMeasure r offset s).hif = s.hif ∧ (judgeMeasure r offset s).ts = s.ts ∧ (judgeMeasure r offset s).key = s.key ∧
    (judgeMeasure r offset s).pke = s.pke ∧ (judgeMeasure r offset s).rnu = s.rnu ∧ (judgeMeasure r offset s).tls = s.tls ∧
    (judgeMeasure r offset s).ac = s.ac ∧ (judgeMeasure r offset s).tm = s.tm ∧ (judgeMeasure r offset s).lcc = s.lcc ∧
    (judgeMeasure r offset s).stc = s.stc ∧ (judgeMeasure r offset s).pwr = s.pwr ∧ (judgeMeasure r offset s).io = s.io ∧
    (judgeMeasure r offset s).ev = s.ev ∧ (judgeMeasure r offset s).rw = s.rw ∧ (judgeMeasure r offset s).store = s.store ∧
    (judgeMeasure r offset s).writes = s.writes ∧ (judgeMeasure r offset s).out = s.out ∧
    (judgeMeasure r offset s).free = s.free := by
  simp [judgeMeasure, ite_pending, ite_ident, ite_arc, ite_pln, ite_fe, ite_hif, ite_ts, ite_key, ite_pke, ite_rnu, ite_tls, ite_ac, ite_tm, ite_lcc, ite_stc, ite_pwr, ite_io, ite_ev, ite_rw, ite_store, ite_writes, ite_out, ite_free]

@[simp] theorem irigMissing_frame (s : State) :
    (irigMissing s).pending = s.pending ∧ (irigMissing s).ident = s.ident ∧ (irigMissing s).arc = s.arc ∧
    (irigMissing s).pln = s.pln ∧ (irigMissing s).fe = s.fe ∧ (irigMissing s).hif = s.hif ∧ (irigMissing s).ts = s.ts ∧
    (irigMissing s).key = s.key ∧ (irigMissing s).pke = s.pke ∧ (irigMissing s).rnu = s.rnu ∧ (irigMissing s).tls = s.tls ∧
    (irigMissing s).ac = s.ac ∧ (irigMissing s).tm = s.tm ∧ (irigMissing s).lcc = s.lcc ∧ (irigMissing s).stc = s.stc ∧
    (irigMissing s).pwr = s.pwr ∧ (irigMissing s).io = s.io ∧ (irigMissing s).ev = s.ev ∧ (irigMissing s).rw = s.rw ∧
    (irigMissing s).store = s.store ∧ (irigMissing s).writes = s.writes ∧ (irigMissing s).out = s.out ∧
    (irigMissing s).free = s.free := by
  simp [irigMissing, ite_pending, ite_ident, ite_arc, ite_pln, ite_fe, ite_hif, ite_ts, ite_key, ite_pke, ite_rnu, ite_tls, ite_ac, ite_tm, ite_lcc, ite_stc, ite_pwr, ite_io, ite_ev, ite_rw, ite_store, ite_writes, ite_out, ite_free]

@[simp] theorem noteLeap_frame (leapEnd : Option Nat) (s : State) :
    (noteLeap leapEnd s).pending = s.pending ∧ (noteLeap leapEnd s).ident = s.ident ∧ (noteLeap leapEnd s).arc = s.arc ∧
    (noteLeap leapEnd s).pln = s.pln ∧ (noteLeap leapEnd s).fe = s.fe ∧ (noteLeap leapEnd s).hif = s.hif ∧
    (noteLeap leapEnd s).ts = s.ts ∧ (noteLeap leapEnd s).key = s.key ∧ (noteLeap leapEnd s).pke = s.pke ∧
    (noteLeap leapEnd s).rnu = s.rnu ∧ (noteLeap leapEnd s).tls = s.tls ∧ (noteLeap leapEnd s).ac = s.ac ∧
    (noteLeap leapEnd s).tm = s.tm ∧ (noteLeap leapEnd s).lcc = s.lcc ∧ (noteLeap leapEnd s).stc = s.stc ∧
    (noteLeap leapEnd s).pwr = s.pwr ∧ (noteLeap leapEnd s).io = s.io ∧ (noteLeap leapEnd s).ev = s.ev ∧
    (noteLeap leapEnd s).rw = s.rw ∧ (noteLeap leapEnd s).store = s.store ∧ (noteLeap leapEnd s).writes = s.writes ∧
    (noteLeap leapEnd s).out = s.out ∧ (noteLeap leapEnd s).free = s.free := by
  simp only [noteLeap]
  (repeat' split) <;> simp

@[simp] theorem tenMhzGone_frame (s : State) :
    (tenMhzGone s).pending = s.pending ∧ (tenMhzGone s).ident = s.ident ∧ (tenMhzGone s).arc = s.arc ∧
    (tenMhzGone s).pln = s.pln ∧ (tenMhzGone s).fe = s.fe ∧ (tenMhzGone s).hif = s.hif ∧ (tenMhzGone s).ts = s.ts ∧
    (tenMhzGone s).key = s.key ∧ (tenMhzGone s).pke = s.pke ∧ (tenMhzGone s).rnu = s.rnu ∧ (tenMhzGone s).tls = s.tls ∧
    (tenMhzGone s).ac = s.ac ∧ (tenMhzGone s).tm = s.tm ∧ (tenMhzGone s).lcc = s.lcc ∧ (tenMhzGone s).stc = s.stc ∧
    (tenMhzGone s).pwr = s.pwr ∧ (tenMhzGone s).io = s.io ∧ (tenMhzGone s).ev = s.ev ∧ (tenMhzGone s).rw = s.rw ∧
    (tenMhzGone s).store = s.store ∧ (tenMhzGone s).writes = s.writes ∧ (tenMhzGone s).out = s.out ∧
    (tenMhzGone s).free = s.free := by
  simp [tenMhzGone, ite_pending, ite_ident, ite_arc, ite_pln, ite_fe, ite_hif, ite_ts, ite_key, ite_pke, ite_rnu, ite_tls, ite_ac, ite_tm, ite_lcc, ite_stc, ite_pwr, ite_io, ite_ev, ite_rw, ite_store, ite_writes, ite_out, ite_free]

@[simp] theorem State.setPtp_frame (p : Nat) (v : PtpPort) (s : State) :
    (State.setPtp p v s).pending = s.pending ∧ (State.setPtp p v s).ident = s.ident ∧ (State.setPtp p v s).arc = s.arc ∧
    (State.setPtp p v s).pln = s.pln ∧ (State.setPtp p v s).fe = s.fe ∧ (State.setPtp p v s).hif = s.hif ∧
    (State.setPtp p v s).ts = s.ts ∧ (State.setPtp p v s).key = s.key ∧ (State.setPtp p v s).pke = s.pke ∧
    (State.setPtp p v s).rnu = s.rnu ∧ (State.setPtp p v s).tls = s.tls ∧ (State.setPtp p v s).ac = s.ac ∧
    (State.setPtp p v s).tm = s.tm ∧ (State.setPtp p v s).lcc = s.lcc ∧ (State.setPtp p v s).stc = s.stc ∧
    (State.setPtp p v s).pwr = s.pwr ∧ (State.setPtp p v s).io = s.io ∧ (State.setPtp p v s).ev = s.ev ∧
    (State.setPtp p v s).rw = s.rw ∧ (State.setPtp p v s).store = s.store ∧ (State.setPtp p v s).writes = s.writes ∧
    (State.setPtp p v s).out = s.out ∧ (State.setPtp p v s).free = s.free := by
  simp [State.setPtp]

@[simp] theorem setRoles_frame (g : Nat) (x1 : Nat) (x2 : State) :
    (setRoles g x1 x2).pending = x2.pending ∧ (setRoles g x1 x2).ident = x2.ident ∧ (setRoles g x1 x2).arc = x2.arc ∧
    (setRoles g x1 x2).pln = x2.pln ∧ (setRoles g x1 x2).fe = x2.fe ∧ (setRoles g x1 x2).hif = x2.hif ∧
    (setRoles g x1 x2).ts = x2.ts ∧ (setRoles g x1 x2).key = x2.key ∧ (setRoles g x1 x2).pke = x2.pke ∧
    (setRoles g x1 x2).rnu = x2.rnu ∧ (setRoles g x1 x2).tls = x2.tls ∧ (setRoles g x1 x2).ac = x2.ac ∧
    (setRoles g x1 x2).tm = x2.tm ∧ (setRoles g x1 x2).lcc = x2.lcc ∧ (setRoles g x1 x2).stc = x2.stc ∧
    (setRoles g x1 x2).pwr = x2.pwr ∧ (setRoles g x1 x2).io = x2.io ∧ (setRoles g x1 x2).ev = x2.ev ∧
    (setRoles g x1 x2).rw = x2.rw ∧ (setRoles g x1 x2).store = x2.store ∧ (setRoles g x1 x2).writes = x2.writes ∧
    (setRoles g x1 x2).out = x2.out ∧ (setRoles g x1 x2).free = x2.free := by
  induction x1 generalizing g x2 with
  | zero => simp [setRoles]
  | succ n ih => (simp only [setRoles]; (repeat' split) <;> simp [ih])

@[simp] theorem judgeClass_frame (s : State) :
    (judgeClass s).pending = s.pending ∧ (judgeClass s).ident = s.ident ∧ (judgeClass s).arc = s.arc ∧
    (judgeClass s).pln = s.pln ∧ (judgeClass s).fe = s.fe ∧ (judgeClass s).hif = s.hif ∧ (judgeClass s).ts = s.ts ∧
    (judgeClass s).key = s.key ∧ (judgeClass s).pke = s.pke ∧ (judgeClass s).rnu = s.rnu ∧ (judgeClass s).tls = s.tls ∧
    (judgeClass s).ac = s.ac ∧ (judgeClass s).tm = s.tm ∧ (judgeClass s).lcc = s.lcc ∧ (judgeClass s).stc = s.stc ∧
    (judgeClass s).pwr = s.pwr ∧ (judgeClass s).io = s.io ∧ (judgeClass s).ev = s.ev ∧ (judgeClass s).rw = s.rw ∧
    (judgeClass s).store = s.store ∧ (judgeClass s).writes = s.writes ∧ (judgeClass s).out = s.out ∧
    (judgeClass s).free = s.free := by
  simp [judgeClass, ite_pending, ite_ident, ite_arc, ite_pln, ite_fe, ite_hif, ite_ts, ite_key, ite_pke, ite_rnu, ite_tls, ite_ac, ite_tm, ite_lcc, ite_stc, ite_pwr, ite_io, ite_ev, ite_rw, ite_store, ite_writes, ite_out, ite_free]

@[simp] theorem sendOthers_frame (port : Nat) (x : CoreFrame) (s : State) :
    (sendOthers port x s).pending = s.pending ∧ (sendOthers port x s).ident = s.ident ∧ (sendOthers port x s).sck = s.sck ∧
    (sendOthers port x s).arc = s.arc ∧ (sendOthers port x s).pln = s.pln ∧ (sendOthers port x s).hif = s.hif ∧
    (sendOthers port x s).ts = s.ts ∧ (sendOthers port x s).key = s.key ∧ (sendOthers port x s).pke = s.pke ∧
    (sendOthers port x s).rnu = s.rnu ∧ (sendOthers port x s).tls = s.tls ∧ (sendOthers port x s).ac = s.ac ∧
    (sendOthers port x s).tm = s.tm ∧ (sendOthers port x s).lcc = s.lcc ∧ (sendOthers port x s).stc = s.stc ∧
    (sendOthers port x s).pwr = s.pwr ∧ (sendOthers port x s).io = s.io ∧ (sendOthers port x s).ev = s.ev ∧
    (sendOthers port x s).rw = s.rw ∧ (sendOthers port x s).store = s.store ∧ (sendOthers port x s).writes = s.writes ∧
    (sendOthers port x s).out = s.out ∧ (sendOthers port x s).free = s.free := by
  simp [sendOthers]

@[simp] theorem ptpAnnounce_frame (port : Nat) (best : Bool) (gm : Nat) (cls : Nat) (accuracy : Option Nat) (inaccuracy : Option Nat) (altOffset : Option Nat) (utc : Option Nat) (leapEnd : Option Nat) (s : State) :
    (ptpAnnounce port best gm cls accuracy inaccuracy altOffset utc leapEnd s).pending = s.pending ∧
    (ptpAnnounce port best gm cls accuracy inaccuracy altOffset utc leapEnd s).ident = s.ident ∧
    (ptpAnnounce port best gm cls accuracy inaccuracy altOffset utc leapEnd s).arc = s.arc ∧
    (ptpAnnounce port best gm cls accuracy inaccuracy altOffset utc leapEnd s).pln = s.pln ∧
    (ptpAnnounce port best gm cls accuracy inaccuracy altOffset utc leapEnd s).hif = s.hif ∧
    (ptpAnnounce port best gm cls accuracy inaccuracy altOffset utc leapEnd s).ts = s.ts ∧
    (ptpAnnounce port best gm cls accuracy inaccuracy altOffset utc leapEnd s).key = s.key ∧
    (ptpAnnounce port best gm cls accuracy inaccuracy altOffset utc leapEnd s).pke = s.pke ∧
    (ptpAnnounce port best gm cls accuracy inaccuracy altOffset utc leapEnd s).rnu = s.rnu ∧
    (ptpAnnounce port best gm cls accuracy inaccuracy altOffset utc leapEnd s).tls = s.tls ∧
    (ptpAnnounce port best gm cls accuracy inaccuracy altOffset utc leapEnd s).ac = s.ac ∧
    (ptpAnnounce port best gm cls accuracy inaccuracy altOffset utc leapEnd s).tm = s.tm ∧
    (ptpAnnounce port best gm cls accuracy inaccuracy altOffset utc leapEnd s).lcc = s.lcc ∧
    (ptpAnnounce port best gm cls accuracy inaccuracy altOffset utc leapEnd s).stc = s.stc ∧
    (ptpAnnounce port best gm cls accuracy inaccuracy altOffset utc leapEnd s).pwr = s.pwr ∧
    (ptpAnnounce port best gm cls accuracy inaccuracy altOffset utc leapEnd s).io = s.io ∧
    (ptpAnnounce port best gm cls accuracy inaccuracy altOffset utc leapEnd s).ev = s.ev ∧
    (ptpAnnounce port best gm cls accuracy inaccuracy altOffset utc leapEnd s).rw = s.rw ∧
    (ptpAnnounce port best gm cls accuracy inaccuracy altOffset utc leapEnd s).store = s.store ∧
    (ptpAnnounce port best gm cls accuracy inaccuracy altOffset utc leapEnd s).writes = s.writes ∧
    (ptpAnnounce port best gm cls accuracy inaccuracy altOffset utc leapEnd s).out = s.out ∧
    (ptpAnnounce port best gm cls accuracy inaccuracy altOffset utc leapEnd s).free = s.free := by
  simp [ptpAnnounce, ite_pending, ite_ident, ite_arc, ite_pln, ite_hif, ite_ts, ite_key, ite_pke, ite_rnu, ite_tls, ite_ac, ite_tm, ite_lcc, ite_stc, ite_pwr, ite_io, ite_ev, ite_rw, ite_store, ite_writes, ite_out, ite_free]

@[simp] theorem ptpSync_frame (port : Nat) (ingress : Nat) (offset : Int) (correction : Int) (followUp : Option Int) (s : State) :
    (ptpSync port ingress offset correction followUp s).pending = s.pending ∧
    (ptpSync port ingress offset correction followUp s).ident = s.ident ∧
    (ptpSync port ingress offset correction followUp s).arc = s.arc ∧
    (ptpSync port ingress offset correction followUp s).pln = s.pln ∧
    (ptpSync port ingress offset correction followUp s).hif = s.hif ∧
    (ptpSync port ingress offset correction followUp s).ts = s.ts ∧
    (ptpSync port ingress offset correction followUp s).key = s.key ∧
    (ptpSync port ingress offset correction followUp s).pke = s.pke ∧
    (ptpSync port ingress offset correction followUp s).rnu = s.rnu ∧
    (ptpSync port ingress offset correction followUp s).tls = s.tls ∧
    (ptpSync port ingress offset correction followUp s).ac = s.ac ∧
    (ptpSync port ingress offset correction followUp s).tm = s.tm ∧
    (ptpSync port ingress offset correction followUp s).lcc = s.lcc ∧
    (ptpSync port ingress offset correction followUp s).stc = s.stc ∧
    (ptpSync port ingress offset correction followUp s).pwr = s.pwr ∧
    (ptpSync port ingress offset correction followUp s).io = s.io ∧
    (ptpSync port ingress offset correction followUp s).ev = s.ev ∧
    (ptpSync port ingress offset correction followUp s).rw = s.rw ∧
    (ptpSync port ingress offset correction followUp s).store = s.store ∧
    (ptpSync port ingress offset correction followUp s).writes = s.writes ∧
    (ptpSync port ingress offset correction followUp s).out = s.out ∧
    (ptpSync port ingress offset correction followUp s).free = s.free := by
  simp [ptpSync, ite_pending, ite_ident, ite_arc, ite_pln, ite_hif, ite_ts, ite_key, ite_pke, ite_rnu, ite_tls, ite_ac, ite_tm, ite_lcc, ite_stc, ite_pwr, ite_io, ite_ev, ite_rw, ite_store, ite_writes, ite_out, ite_free]

@[simp] theorem ptpMessage_frame (m : PtpMessage) (s : State) :
    (ptpMessage m s).pending = s.pending ∧ (ptpMessage m s).ident = s.ident ∧ (ptpMessage m s).pln = s.pln ∧
    (ptpMessage m s).key = s.key ∧ (ptpMessage m s).pke = s.pke ∧ (ptpMessage m s).rnu = s.rnu ∧ (ptpMessage m s).tls = s.tls ∧
    (ptpMessage m s).ac = s.ac ∧ (ptpMessage m s).tm = s.tm ∧ (ptpMessage m s).lcc = s.lcc ∧ (ptpMessage m s).stc = s.stc ∧
    (ptpMessage m s).pwr = s.pwr ∧ (ptpMessage m s).io = s.io ∧ (ptpMessage m s).rw = s.rw ∧ (ptpMessage m s).store = s.store ∧
    (ptpMessage m s).writes = s.writes ∧ (ptpMessage m s).free = s.free := by
  simp only [ptpMessage]
  (repeat' split) <;> simp

@[simp] theorem ptpTimeout_frame (b : Nat) (s : State) :
    (ptpTimeout b s).pending = s.pending ∧ (ptpTimeout b s).ident = s.ident ∧ (ptpTimeout b s).pln = s.pln ∧
    (ptpTimeout b s).fe = s.fe ∧ (ptpTimeout b s).key = s.key ∧ (ptpTimeout b s).pke = s.pke ∧ (ptpTimeout b s).rnu = s.rnu ∧
    (ptpTimeout b s).tls = s.tls ∧ (ptpTimeout b s).ac = s.ac ∧ (ptpTimeout b s).tm = s.tm ∧ (ptpTimeout b s).lcc = s.lcc ∧
    (ptpTimeout b s).stc = s.stc ∧ (ptpTimeout b s).pwr = s.pwr ∧ (ptpTimeout b s).io = s.io ∧ (ptpTimeout b s).rw = s.rw ∧
    (ptpTimeout b s).store = s.store ∧ (ptpTimeout b s).writes = s.writes ∧ (ptpTimeout b s).free = s.free := by
  simp [ptpTimeout, ite_pending, ite_ident, ite_pln, ite_fe, ite_key, ite_pke, ite_rnu, ite_tls, ite_ac, ite_tm, ite_lcc, ite_stc, ite_pwr, ite_io, ite_rw, ite_store, ite_writes, ite_free]

@[simp] theorem failOcxo_frame (s : State) :
    (failOcxo s).pending = s.pending ∧ (failOcxo s).ident = s.ident ∧ (failOcxo s).pln = s.pln ∧ (failOcxo s).fe = s.fe ∧
    (failOcxo s).key = s.key ∧ (failOcxo s).pke = s.pke ∧ (failOcxo s).rnu = s.rnu ∧ (failOcxo s).tls = s.tls ∧
    (failOcxo s).ac = s.ac ∧ (failOcxo s).tm = s.tm ∧ (failOcxo s).lcc = s.lcc ∧ (failOcxo s).stc = s.stc ∧
    (failOcxo s).pwr = s.pwr ∧ (failOcxo s).io = s.io ∧ (failOcxo s).rw = s.rw ∧ (failOcxo s).store = s.store ∧
    (failOcxo s).writes = s.writes ∧ (failOcxo s).free = s.free := by
  simp only [failOcxo]
  (repeat' split) <;> simp

@[simp] theorem loseAngle_frame (s : State) :
    (loseAngle s).pending = s.pending ∧ (loseAngle s).ident = s.ident ∧ (loseAngle s).arc = s.arc ∧ (loseAngle s).pln = s.pln ∧
    (loseAngle s).fe = s.fe ∧ (loseAngle s).hif = s.hif ∧ (loseAngle s).ts = s.ts ∧ (loseAngle s).key = s.key ∧
    (loseAngle s).pke = s.pke ∧ (loseAngle s).rnu = s.rnu ∧ (loseAngle s).tls = s.tls ∧ (loseAngle s).ac = s.ac ∧
    (loseAngle s).tm = s.tm ∧ (loseAngle s).lcc = s.lcc ∧ (loseAngle s).stc = s.stc ∧ (loseAngle s).pwr = s.pwr ∧
    (loseAngle s).io = s.io ∧ (loseAngle s).ev = s.ev ∧ (loseAngle s).rw = s.rw ∧ (loseAngle s).store = s.store ∧
    (loseAngle s).writes = s.writes ∧ (loseAngle s).out = s.out ∧ (loseAngle s).free = s.free := by
  simp [loseAngle]

@[simp] theorem angleSample_frame (at_ : Nat) (value : Int) (s : State) :
    (angleSample at_ value s).pending = s.pending ∧ (angleSample at_ value s).ident = s.ident ∧
    (angleSample at_ value s).pln = s.pln ∧ (angleSample at_ value s).fe = s.fe ∧ (angleSample at_ value s).key = s.key ∧
    (angleSample at_ value s).pke = s.pke ∧ (angleSample at_ value s).rnu = s.rnu ∧ (angleSample at_ value s).tls = s.tls ∧
    (angleSample at_ value s).ac = s.ac ∧ (angleSample at_ value s).tm = s.tm ∧ (angleSample at_ value s).lcc = s.lcc ∧
    (angleSample at_ value s).stc = s.stc ∧ (angleSample at_ value s).pwr = s.pwr ∧ (angleSample at_ value s).io = s.io ∧
    (angleSample at_ value s).rw = s.rw ∧ (angleSample at_ value s).store = s.store ∧
    (angleSample at_ value s).writes = s.writes := by
  simp [angleSample, ite_pending, ite_ident, ite_pln, ite_fe, ite_key, ite_pke, ite_rnu, ite_tls, ite_ac, ite_tm, ite_lcc, ite_stc, ite_pwr, ite_io, ite_rw, ite_store, ite_writes]

@[simp] theorem applyEnable_frame (r : Nat) (s : State) :
    (applyEnable r s).pending = s.pending ∧ (applyEnable r s).ident = s.ident ∧ (applyEnable r s).arc = s.arc ∧
    (applyEnable r s).pln = s.pln ∧ (applyEnable r s).fe = s.fe ∧ (applyEnable r s).hif = s.hif ∧ (applyEnable r s).ts = s.ts ∧
    (applyEnable r s).key = s.key ∧ (applyEnable r s).pke = s.pke ∧ (applyEnable r s).rnu = s.rnu ∧
    (applyEnable r s).tls = s.tls ∧ (applyEnable r s).ac = s.ac ∧ (applyEnable r s).tm = s.tm ∧ (applyEnable r s).lcc = s.lcc ∧
    (applyEnable r s).stc = s.stc ∧ (applyEnable r s).pwr = s.pwr ∧ (applyEnable r s).io = s.io ∧ (applyEnable r s).ev = s.ev ∧
    (applyEnable r s).rw = s.rw ∧ (applyEnable r s).store = s.store ∧ (applyEnable r s).writes = s.writes ∧
    (applyEnable r s).out = s.out ∧ (applyEnable r s).free = s.free := by
  simp [applyEnable, ite_pending, ite_ident, ite_arc, ite_pln, ite_fe, ite_hif, ite_ts, ite_key, ite_pke, ite_rnu, ite_tls, ite_ac, ite_tm, ite_lcc, ite_stc, ite_pwr, ite_io, ite_ev, ite_rw, ite_store, ite_writes, ite_out, ite_free]

@[simp] theorem applyPtpCfg_frame (old : Nat) (new : Nat) (s : State) :
    (applyPtpCfg old new s).pending = s.pending ∧ (applyPtpCfg old new s).ident = s.ident ∧
    (applyPtpCfg old new s).arc = s.arc ∧ (applyPtpCfg old new s).pln = s.pln ∧ (applyPtpCfg old new s).fe = s.fe ∧
    (applyPtpCfg old new s).hif = s.hif ∧ (applyPtpCfg old new s).ts = s.ts ∧ (applyPtpCfg old new s).key = s.key ∧
    (applyPtpCfg old new s).pke = s.pke ∧ (applyPtpCfg old new s).rnu = s.rnu ∧ (applyPtpCfg old new s).tls = s.tls ∧
    (applyPtpCfg old new s).ac = s.ac ∧ (applyPtpCfg old new s).tm = s.tm ∧ (applyPtpCfg old new s).lcc = s.lcc ∧
    (applyPtpCfg old new s).stc = s.stc ∧ (applyPtpCfg old new s).pwr = s.pwr ∧ (applyPtpCfg old new s).io = s.io ∧
    (applyPtpCfg old new s).ev = s.ev ∧ (applyPtpCfg old new s).rw = s.rw ∧ (applyPtpCfg old new s).store = s.store ∧
    (applyPtpCfg old new s).writes = s.writes ∧ (applyPtpCfg old new s).out = s.out ∧ (applyPtpCfg old new s).free = s.free := by
  simp [applyPtpCfg, ite_pending, ite_ident, ite_arc, ite_pln, ite_fe, ite_hif, ite_ts, ite_key, ite_pke, ite_rnu, ite_tls, ite_ac, ite_tm, ite_lcc, ite_stc, ite_pwr, ite_io, ite_ev, ite_rw, ite_store, ite_writes, ite_out, ite_free]

@[simp] theorem applyTenMhz_frame (old : Nat) (new : Nat) (s : State) :
    (applyTenMhz old new s).pending = s.pending ∧ (applyTenMhz old new s).ident = s.ident ∧
    (applyTenMhz old new s).arc = s.arc ∧ (applyTenMhz old new s).pln = s.pln ∧ (applyTenMhz old new s).fe = s.fe ∧
    (applyTenMhz old new s).hif = s.hif ∧ (applyTenMhz old new s).ts = s.ts ∧ (applyTenMhz old new s).key = s.key ∧
    (applyTenMhz old new s).pke = s.pke ∧ (applyTenMhz old new s).rnu = s.rnu ∧ (applyTenMhz old new s).tls = s.tls ∧
    (applyTenMhz old new s).ac = s.ac ∧ (applyTenMhz old new s).tm = s.tm ∧ (applyTenMhz old new s).lcc = s.lcc ∧
    (applyTenMhz old new s).stc = s.stc ∧ (applyTenMhz old new s).pwr = s.pwr ∧ (applyTenMhz old new s).io = s.io ∧
    (applyTenMhz old new s).ev = s.ev ∧ (applyTenMhz old new s).rw = s.rw ∧ (applyTenMhz old new s).store = s.store ∧
    (applyTenMhz old new s).writes = s.writes ∧ (applyTenMhz old new s).out = s.out ∧ (applyTenMhz old new s).free = s.free := by
  simp [applyTenMhz, ite_pending, ite_ident, ite_arc, ite_pln, ite_fe, ite_hif, ite_ts, ite_key, ite_pke, ite_rnu, ite_tls, ite_ac, ite_tm, ite_lcc, ite_stc, ite_pwr, ite_io, ite_ev, ite_rw, ite_store, ite_writes, ite_out, ite_free]

@[simp] theorem applySetting_frame (off : Nat) (s : State) :
    (applySetting off s).pending = s.pending ∧ (applySetting off s).ident = s.ident ∧ (applySetting off s).arc = s.arc ∧
    (applySetting off s).pln = s.pln ∧ (applySetting off s).fe = s.fe ∧ (applySetting off s).hif = s.hif ∧
    (applySetting off s).ts = s.ts ∧ (applySetting off s).key = s.key ∧ (applySetting off s).pke = s.pke ∧
    (applySetting off s).rnu = s.rnu ∧ (applySetting off s).tls = s.tls ∧ (applySetting off s).ac = s.ac ∧
    (applySetting off s).tm = s.tm ∧ (applySetting off s).lcc = s.lcc ∧ (applySetting off s).stc = s.stc ∧
    (applySetting off s).pwr = s.pwr ∧ (applySetting off s).io = s.io ∧ (applySetting off s).ev = s.ev ∧
    (applySetting off s).rw = s.rw ∧ (applySetting off s).store = s.store ∧ (applySetting off s).writes = s.writes ∧
    (applySetting off s).out = s.out ∧ (applySetting off s).free = s.free := by
  simp [applySetting, ite_pending, ite_ident, ite_arc, ite_pln, ite_fe, ite_hif, ite_ts, ite_key, ite_pke, ite_rnu, ite_tls, ite_ac, ite_tm, ite_lcc, ite_stc, ite_pwr, ite_io, ite_ev, ite_rw, ite_store, ite_writes, ite_out, ite_free]

@[simp] theorem applySettings_frame (x1 : List Nat) (x2 : State) :
    (applySettings x1 x2).pending = x2.pending ∧ (applySettings x1 x2).ident = x2.ident ∧ (applySettings x1 x2).arc = x2.arc ∧
    (applySettings x1 x2).pln = x2.pln ∧ (applySettings x1 x2).fe = x2.fe ∧ (applySettings x1 x2).hif = x2.hif ∧
    (applySettings x1 x2).ts = x2.ts ∧ (applySettings x1 x2).key = x2.key ∧ (applySettings x1 x2).pke = x2.pke ∧
    (applySettings x1 x2).rnu = x2.rnu ∧ (applySettings x1 x2).tls = x2.tls ∧ (applySettings x1 x2).ac = x2.ac ∧
    (applySettings x1 x2).tm = x2.tm ∧ (applySettings x1 x2).lcc = x2.lcc ∧ (applySettings x1 x2).stc = x2.stc ∧
    (applySettings x1 x2).pwr = x2.pwr ∧ (applySettings x1 x2).io = x2.io ∧ (applySettings x1 x2).ev = x2.ev ∧
    (applySettings x1 x2).rw = x2.rw ∧ (applySettings x1 x2).store = x2.store ∧ (applySettings x1 x2).writes = x2.writes ∧
    (applySettings x1 x2).out = x2.out ∧ (applySettings x1 x2).free = x2.free := by
  induction x1 generalizing x2 with
  | nil => simp [applySettings]
  | cons c l ih => (simp only [applySettings, ih]; simp)

end Sys2Proof.Machine
end

