-- ==== Sys2Proof/Laws/Keys.lean ====
section
/-! SUPPORT. What the operations of Machine/Keys.lean leave unchanged, once for each: its frame. -/

namespace Sys2Proof.Machine

@[simp] theorem State.setDom_frame (f : Nat) (d : Domain) (s : State) :
    (State.setDom f d s).pending = s.pending ∧ (State.setDom f d s).ident = s.ident ∧ (State.setDom f d s).sck = s.sck ∧
    (State.setDom f d s).arc = s.arc ∧ (State.setDom f d s).pln = s.pln ∧ (State.setDom f d s).fe = s.fe ∧
    (State.setDom f d s).hif = s.hif ∧ (State.setDom f d s).ts = s.ts ∧ (State.setDom f d s).pke = s.pke ∧
    (State.setDom f d s).rnu = s.rnu ∧ (State.setDom f d s).tls = s.tls ∧ (State.setDom f d s).ac = s.ac ∧
    (State.setDom f d s).tm = s.tm ∧ (State.setDom f d s).lcc = s.lcc ∧ (State.setDom f d s).stc = s.stc ∧
    (State.setDom f d s).pwr = s.pwr ∧ (State.setDom f d s).io = s.io ∧ (State.setDom f d s).ev = s.ev ∧
    (State.setDom f d s).rw = s.rw ∧ (State.setDom f d s).store = s.store ∧ (State.setDom f d s).writes = s.writes ∧
    (State.setDom f d s).out = s.out ∧ (State.setDom f d s).free = s.free := by
  simp [State.setDom]

@[simp] theorem State.updDom_frame (f : Nat) (g : Domain → Domain) (s : State) :
    (State.updDom f g s).pending = s.pending ∧ (State.updDom f g s).ident = s.ident ∧ (State.updDom f g s).sck = s.sck ∧
    (State.updDom f g s).arc = s.arc ∧ (State.updDom f g s).pln = s.pln ∧ (State.updDom f g s).fe = s.fe ∧
    (State.updDom f g s).hif = s.hif ∧ (State.updDom f g s).ts = s.ts ∧ (State.updDom f g s).pke = s.pke ∧
    (State.updDom f g s).rnu = s.rnu ∧ (State.updDom f g s).tls = s.tls ∧ (State.updDom f g s).ac = s.ac ∧
    (State.updDom f g s).tm = s.tm ∧ (State.updDom f g s).lcc = s.lcc ∧ (State.updDom f g s).stc = s.stc ∧
    (State.updDom f g s).pwr = s.pwr ∧ (State.updDom f g s).io = s.io ∧ (State.updDom f g s).ev = s.ev ∧
    (State.updDom f g s).rw = s.rw ∧ (State.updDom f g s).store = s.store ∧ (State.updDom f g s).writes = s.writes ∧
    (State.updDom f g s).out = s.out ∧ (State.updDom f g s).free = s.free := by
  simp [State.updDom]

theorem allocHandle_frame (f : Nat) (s : State) (t : Nat × State) (h : allocHandle f s = some t) :
    t.2.pending = s.pending ∧ t.2.ident = s.ident ∧ t.2.sck = s.sck ∧ t.2.arc = s.arc ∧ t.2.pln = s.pln ∧ t.2.fe = s.fe ∧
    t.2.hif = s.hif ∧ t.2.ts = s.ts ∧ t.2.pke = s.pke ∧ t.2.rnu = s.rnu ∧ t.2.tls = s.tls ∧ t.2.ac = s.ac ∧ t.2.tm = s.tm ∧
    t.2.lcc = s.lcc ∧ t.2.stc = s.stc ∧ t.2.pwr = s.pwr ∧ t.2.io = s.io ∧ t.2.ev = s.ev ∧ t.2.rw = s.rw ∧ t.2.store = s.store ∧
    t.2.writes = s.writes ∧ t.2.out = s.out ∧ t.2.free = s.free := by
  revert h; simp only [allocHandle]; (repeat' split) <;> simp; (try (intro h; subst h; simp))

@[simp] theorem keyEvent_frame (f : Nat) (handle : Nat) (event : Nat) (rollAt : Nat) (s : State) :
    (keyEvent f handle event rollAt s).pending = s.pending ∧ (keyEvent f handle event rollAt s).ident = s.ident ∧
    (keyEvent f handle event rollAt s).sck = s.sck ∧ (keyEvent f handle event rollAt s).pln = s.pln ∧
    (keyEvent f handle event rollAt s).fe = s.fe ∧ (keyEvent f handle event rollAt s).hif = s.hif ∧
    (keyEvent f handle event rollAt s).ts = s.ts ∧ (keyEvent f handle event rollAt s).key = s.key ∧
    (keyEvent f handle event rollAt s).pke = s.pke ∧ (keyEvent f handle event rollAt s).rnu = s.rnu ∧
    (keyEvent f handle event rollAt s).tls = s.tls ∧ (keyEvent f handle event rollAt s).ac = s.ac ∧
    (keyEvent f handle event rollAt s).tm = s.tm ∧ (keyEvent f handle event rollAt s).lcc = s.lcc ∧
    (keyEvent f handle event rollAt s).stc = s.stc ∧ (keyEvent f handle event rollAt s).pwr = s.pwr ∧
    (keyEvent f handle event rollAt s).io = s.io ∧ (keyEvent f handle event rollAt s).ev = s.ev ∧
    (keyEvent f handle event rollAt s).rw = s.rw ∧ (keyEvent f handle event rollAt s).store = s.store ∧
    (keyEvent f handle event rollAt s).writes = s.writes ∧ (keyEvent f handle event rollAt s).out = s.out ∧
    (keyEvent f handle event rollAt s).free = s.free := by
  simp [keyEvent]

@[simp] theorem loadDrawn_frame (kind : Nat) (m : Bytes) (s : State) :
    (loadDrawn kind m s).2.pending = s.pending ∧ (loadDrawn kind m s).2.ident = s.ident ∧ (loadDrawn kind m s).2.sck = s.sck ∧
    (loadDrawn kind m s).2.arc = s.arc ∧ (loadDrawn kind m s).2.pln = s.pln ∧ (loadDrawn kind m s).2.fe = s.fe ∧
    (loadDrawn kind m s).2.hif = s.hif ∧ (loadDrawn kind m s).2.ts = s.ts ∧ (loadDrawn kind m s).2.key = s.key ∧
    (loadDrawn kind m s).2.pke = s.pke ∧ (loadDrawn kind m s).2.tls = s.tls ∧ (loadDrawn kind m s).2.ac = s.ac ∧
    (loadDrawn kind m s).2.tm = s.tm ∧ (loadDrawn kind m s).2.lcc = s.lcc ∧ (loadDrawn kind m s).2.stc = s.stc ∧
    (loadDrawn kind m s).2.pwr = s.pwr ∧ (loadDrawn kind m s).2.io = s.io ∧ (loadDrawn kind m s).2.ev = s.ev ∧
    (loadDrawn kind m s).2.rw = s.rw ∧ (loadDrawn kind m s).2.store = s.store ∧ (loadDrawn kind m s).2.writes = s.writes ∧
    (loadDrawn kind m s).2.out = s.out := by
  simp only [loadDrawn]
  (repeat' split) <;> simp

@[simp] theorem drawMaterial_frame (kind : Nat) (len : Nat) (s : State) :
    (drawMaterial kind len s).2.pending = s.pending ∧ (drawMaterial kind len s).2.ident = s.ident ∧
    (drawMaterial kind len s).2.sck = s.sck ∧ (drawMaterial kind len s).2.arc = s.arc ∧
    (drawMaterial kind len s).2.pln = s.pln ∧ (drawMaterial kind len s).2.fe = s.fe ∧ (drawMaterial kind len s).2.hif = s.hif ∧
    (drawMaterial kind len s).2.ts = s.ts ∧ (drawMaterial kind len s).2.key = s.key ∧ (drawMaterial kind len s).2.pke = s.pke ∧
    (drawMaterial kind len s).2.tls = s.tls ∧ (drawMaterial kind len s).2.ac = s.ac ∧ (drawMaterial kind len s).2.tm = s.tm ∧
    (drawMaterial kind len s).2.lcc = s.lcc ∧ (drawMaterial kind len s).2.stc = s.stc ∧
    (drawMaterial kind len s).2.pwr = s.pwr ∧ (drawMaterial kind len s).2.io = s.io ∧ (drawMaterial kind len s).2.ev = s.ev ∧
    (drawMaterial kind len s).2.rw = s.rw ∧ (drawMaterial kind len s).2.store = s.store ∧
    (drawMaterial kind len s).2.writes = s.writes ∧ (drawMaterial kind len s).2.out = s.out := by
  simp only [drawMaterial]
  (repeat' split) <;> simp

@[simp] theorem sealBlob_frame (h : Nat) (attr : KeyAttr) (material : Bytes) (s : State) :
    (sealBlob h attr material s).2.pending = s.pending ∧ (sealBlob h attr material s).2.ident = s.ident ∧
    (sealBlob h attr material s).2.sck = s.sck ∧ (sealBlob h attr material s).2.arc = s.arc ∧
    (sealBlob h attr material s).2.pln = s.pln ∧ (sealBlob h attr material s).2.fe = s.fe ∧
    (sealBlob h attr material s).2.hif = s.hif ∧ (sealBlob h attr material s).2.ts = s.ts ∧
    (sealBlob h attr material s).2.key = s.key ∧ (sealBlob h attr material s).2.pke = s.pke ∧
    (sealBlob h attr material s).2.tls = s.tls ∧ (sealBlob h attr material s).2.ac = s.ac ∧
    (sealBlob h attr material s).2.tm = s.tm ∧ (sealBlob h attr material s).2.lcc = s.lcc ∧
    (sealBlob h attr material s).2.stc = s.stc ∧ (sealBlob h attr material s).2.pwr = s.pwr ∧
    (sealBlob h attr material s).2.io = s.io ∧ (sealBlob h attr material s).2.ev = s.ev ∧
    (sealBlob h attr material s).2.rw = s.rw ∧ (sealBlob h attr material s).2.store = s.store ∧
    (sealBlob h attr material s).2.writes = s.writes ∧ (sealBlob h attr material s).2.out = s.out := by
  simp [sealBlob]

@[simp] theorem slotBack_frame (h : Nat) (s : State) :
    (slotBack h s).pending = s.pending ∧ (slotBack h s).ident = s.ident ∧ (slotBack h s).sck = s.sck ∧
    (slotBack h s).arc = s.arc ∧ (slotBack h s).pln = s.pln ∧ (slotBack h s).hif = s.hif ∧ (slotBack h s).ts = s.ts ∧
    (slotBack h s).pke = s.pke ∧ (slotBack h s).rnu = s.rnu ∧ (slotBack h s).tls = s.tls ∧ (slotBack h s).ac = s.ac ∧
    (slotBack h s).tm = s.tm ∧ (slotBack h s).lcc = s.lcc ∧ (slotBack h s).stc = s.stc ∧ (slotBack h s).pwr = s.pwr ∧
    (slotBack h s).io = s.io ∧ (slotBack h s).ev = s.ev ∧ (slotBack h s).rw = s.rw ∧ (slotBack h s).store = s.store ∧
    (slotBack h s).writes = s.writes ∧ (slotBack h s).out = s.out ∧ (slotBack h s).free = s.free := by
  simp only [slotBack]
  (repeat' split) <;> simp

@[simp] theorem putKey_frame (b : Blob) (m : Bytes) (blind : Nat × Nat) (s : State) :
    (putKey b m blind s).pending = s.pending ∧ (putKey b m blind s).ident = s.ident ∧ (putKey b m blind s).sck = s.sck ∧
    (putKey b m blind s).arc = s.arc ∧ (putKey b m blind s).pln = s.pln ∧ (putKey b m blind s).ts = s.ts ∧
    (putKey b m blind s).pke = s.pke ∧ (putKey b m blind s).rnu = s.rnu ∧ (putKey b m blind s).tls = s.tls ∧
    (putKey b m blind s).ac = s.ac ∧ (putKey b m blind s).tm = s.tm ∧ (putKey b m blind s).lcc = s.lcc ∧
    (putKey b m blind s).stc = s.stc ∧ (putKey b m blind s).pwr = s.pwr ∧ (putKey b m blind s).io = s.io ∧
    (putKey b m blind s).rw = s.rw ∧ (putKey b m blind s).store = s.store ∧ (putKey b m blind s).writes = s.writes ∧
    (putKey b m blind s).free = s.free := by
  simp [putKey]

@[simp] theorem fillSlot_frame (b : Blob) (m : Bytes) (s : State) :
    (fillSlot b m s).pending = s.pending ∧ (fillSlot b m s).ident = s.ident ∧ (fillSlot b m s).sck = s.sck ∧
    (fillSlot b m s).arc = s.arc ∧ (fillSlot b m s).pln = s.pln ∧ (fillSlot b m s).ts = s.ts ∧ (fillSlot b m s).pke = s.pke ∧
    (fillSlot b m s).tls = s.tls ∧ (fillSlot b m s).ac = s.ac ∧ (fillSlot b m s).tm = s.tm ∧ (fillSlot b m s).lcc = s.lcc ∧
    (fillSlot b m s).stc = s.stc ∧ (fillSlot b m s).pwr = s.pwr ∧ (fillSlot b m s).io = s.io ∧ (fillSlot b m s).rw = s.rw ∧
    (fillSlot b m s).store = s.store ∧ (fillSlot b m s).writes = s.writes := by
  simp [fillSlot]

@[simp] theorem dropKey_frame (h : Nat) (s : State) :
    (dropKey h s).pending = s.pending ∧ (dropKey h s).ident = s.ident ∧ (dropKey h s).sck = s.sck ∧ (dropKey h s).arc = s.arc ∧
    (dropKey h s).pln = s.pln ∧ (dropKey h s).fe = s.fe ∧ (dropKey h s).ts = s.ts ∧ (dropKey h s).pke = s.pke ∧
    (dropKey h s).rnu = s.rnu ∧ (dropKey h s).tls = s.tls ∧ (dropKey h s).ac = s.ac ∧ (dropKey h s).tm = s.tm ∧
    (dropKey h s).lcc = s.lcc ∧ (dropKey h s).stc = s.stc ∧ (dropKey h s).pwr = s.pwr ∧ (dropKey h s).io = s.io ∧
    (dropKey h s).rw = s.rw ∧ (dropKey h s).store = s.store ∧ (dropKey h s).writes = s.writes ∧ (dropKey h s).free = s.free := by
  simp [dropKey]

@[simp] theorem takeGen_frame (h : Nat) (s : State) :
    (takeGen h s).2.pending = s.pending ∧ (takeGen h s).2.ident = s.ident ∧ (takeGen h s).2.sck = s.sck ∧
    (takeGen h s).2.arc = s.arc ∧ (takeGen h s).2.pln = s.pln ∧ (takeGen h s).2.fe = s.fe ∧ (takeGen h s).2.hif = s.hif ∧
    (takeGen h s).2.ts = s.ts ∧ (takeGen h s).2.pke = s.pke ∧ (takeGen h s).2.rnu = s.rnu ∧ (takeGen h s).2.tls = s.tls ∧
    (takeGen h s).2.ac = s.ac ∧ (takeGen h s).2.tm = s.tm ∧ (takeGen h s).2.lcc = s.lcc ∧ (takeGen h s).2.stc = s.stc ∧
    (takeGen h s).2.pwr = s.pwr ∧ (takeGen h s).2.io = s.io ∧ (takeGen h s).2.ev = s.ev ∧ (takeGen h s).2.rw = s.rw ∧
    (takeGen h s).2.store = s.store ∧ (takeGen h s).2.writes = s.writes ∧ (takeGen h s).2.out = s.out ∧
    (takeGen h s).2.free = s.free := by
  simp [takeGen]

@[simp] theorem vaultStore_frame (b : Blob) (s : State) :
    (vaultStore b s).pending = s.pending ∧ (vaultStore b s).ident = s.ident ∧ (vaultStore b s).sck = s.sck ∧
    (vaultStore b s).fe = s.fe ∧ (vaultStore b s).ts = s.ts ∧ (vaultStore b s).pke = s.pke ∧ (vaultStore b s).rnu = s.rnu ∧
    (vaultStore b s).tls = s.tls ∧ (vaultStore b s).ac = s.ac ∧ (vaultStore b s).tm = s.tm ∧ (vaultStore b s).lcc = s.lcc ∧
    (vaultStore b s).stc = s.stc ∧ (vaultStore b s).pwr = s.pwr ∧ (vaultStore b s).io = s.io ∧ (vaultStore b s).rw = s.rw ∧
    (vaultStore b s).store = s.store ∧ (vaultStore b s).writes = s.writes ∧ (vaultStore b s).free = s.free := by
  simp [vaultStore]

@[simp] theorem unwrapVault_frame (f : Nat) (standby : Bool) (x1 : List Nat) (x2 : State) :
    (unwrapVault f standby x1 x2).pending = x2.pending ∧ (unwrapVault f standby x1 x2).ident = x2.ident ∧
    (unwrapVault f standby x1 x2).sck = x2.sck ∧ (unwrapVault f standby x1 x2).pln = x2.pln ∧
    (unwrapVault f standby x1 x2).ts = x2.ts ∧ (unwrapVault f standby x1 x2).pke = x2.pke ∧
    (unwrapVault f standby x1 x2).tls = x2.tls ∧ (unwrapVault f standby x1 x2).ac = x2.ac ∧
    (unwrapVault f standby x1 x2).tm = x2.tm ∧ (unwrapVault f standby x1 x2).lcc = x2.lcc ∧
    (unwrapVault f standby x1 x2).stc = x2.stc ∧ (unwrapVault f standby x1 x2).pwr = x2.pwr ∧
    (unwrapVault f standby x1 x2).io = x2.io ∧ (unwrapVault f standby x1 x2).rw = x2.rw ∧
    (unwrapVault f standby x1 x2).store = x2.store ∧ (unwrapVault f standby x1 x2).writes = x2.writes := by
  induction x1 generalizing f standby x2 with
  | nil => simp [unwrapVault]
  | cons c l ih => (simp only [unwrapVault, ih]; (repeat' split) <;> simp)

@[simp] theorem unwrapActive_frame (x1 : Tbl Partition) (x2 : State) :
    (unwrapActive x1 x2).pending = x2.pending ∧ (unwrapActive x1 x2).ident = x2.ident ∧ (unwrapActive x1 x2).sck = x2.sck ∧
    (unwrapActive x1 x2).pln = x2.pln ∧ (unwrapActive x1 x2).ts = x2.ts ∧ (unwrapActive x1 x2).pke = x2.pke ∧
    (unwrapActive x1 x2).tls = x2.tls ∧ (unwrapActive x1 x2).ac = x2.ac ∧ (unwrapActive x1 x2).tm = x2.tm ∧
    (unwrapActive x1 x2).lcc = x2.lcc ∧ (unwrapActive x1 x2).stc = x2.stc ∧ (unwrapActive x1 x2).pwr = x2.pwr ∧
    (unwrapActive x1 x2).io = x2.io ∧ (unwrapActive x1 x2).rw = x2.rw ∧ (unwrapActive x1 x2).store = x2.store ∧
    (unwrapActive x1 x2).writes = x2.writes := by
  induction x1 generalizing x2 with
  | nil => simp [unwrapActive]
  | cons c l ih =>
    obtain ⟨f, p⟩ := c
    simp only [unwrapActive, ih]
    cases p.active <;> simp

@[simp] theorem unwrapStandby_frame (x1 : Tbl Partition) (x2 : State) :
    (unwrapStandby x1 x2).pending = x2.pending ∧ (unwrapStandby x1 x2).ident = x2.ident ∧ (unwrapStandby x1 x2).sck = x2.sck ∧
    (unwrapStandby x1 x2).pln = x2.pln ∧ (unwrapStandby x1 x2).ts = x2.ts ∧ (unwrapStandby x1 x2).pke = x2.pke ∧
    (unwrapStandby x1 x2).tls = x2.tls ∧ (unwrapStandby x1 x2).ac = x2.ac ∧ (unwrapStandby x1 x2).tm = x2.tm ∧
    (unwrapStandby x1 x2).lcc = x2.lcc ∧ (unwrapStandby x1 x2).stc = x2.stc ∧ (unwrapStandby x1 x2).pwr = x2.pwr ∧
    (unwrapStandby x1 x2).io = x2.io ∧ (unwrapStandby x1 x2).rw = x2.rw ∧ (unwrapStandby x1 x2).store = x2.store ∧
    (unwrapStandby x1 x2).writes = x2.writes := by
  induction x1 generalizing x2 with
  | nil => simp [unwrapStandby]
  | cons c l ih =>
    obtain ⟨f, p⟩ := c
    simp only [unwrapStandby, ih]
    cases p.held <;> (repeat' (first | apply And.intro | split)) <;> simp

@[simp] theorem unwrapAll_frame (s : State) :
    (unwrapAll s).pending = s.pending ∧ (unwrapAll s).ident = s.ident ∧ (unwrapAll s).sck = s.sck ∧ (unwrapAll s).pln = s.pln ∧
    (unwrapAll s).ts = s.ts ∧ (unwrapAll s).pke = s.pke ∧ (unwrapAll s).tls = s.tls ∧ (unwrapAll s).ac = s.ac ∧
    (unwrapAll s).tm = s.tm ∧ (unwrapAll s).lcc = s.lcc ∧ (unwrapAll s).stc = s.stc ∧ (unwrapAll s).pwr = s.pwr ∧
    (unwrapAll s).io = s.io ∧ (unwrapAll s).rw = s.rw ∧ (unwrapAll s).store = s.store ∧ (unwrapAll s).writes = s.writes := by
  simp [unwrapAll]

@[simp] theorem resumeKeys_frame (old : Nat) (s : State) :
    (resumeKeys old s).pending = s.pending ∧ (resumeKeys old s).ident = s.ident ∧ (resumeKeys old s).sck = s.sck ∧
    (resumeKeys old s).pln = s.pln ∧ (resumeKeys old s).ts = s.ts ∧ (resumeKeys old s).pke = s.pke ∧
    (resumeKeys old s).tls = s.tls ∧ (resumeKeys old s).ac = s.ac ∧ (resumeKeys old s).tm = s.tm ∧
    (resumeKeys old s).lcc = s.lcc ∧ (resumeKeys old s).stc = s.stc ∧ (resumeKeys old s).pwr = s.pwr ∧
    (resumeKeys old s).io = s.io ∧ (resumeKeys old s).rw = s.rw ∧ (resumeKeys old s).store = s.store ∧
    (resumeKeys old s).writes = s.writes := by
  simp [resumeKeys, ite_pending, ite_ident, ite_sck, ite_pln, ite_ts, ite_pke, ite_tls, ite_ac, ite_tm, ite_lcc, ite_stc, ite_pwr, ite_io, ite_rw, ite_store, ite_writes]

end Sys2Proof.Machine
end

