-- ==== Sys2Proof/Laws/Rnu.lean ====
section
/-! SUPPORT. What the operations of Machine/Rnu.lean leave unchanged, once for each: its frame. -/

namespace Sys2Proof.Machine

@[simp] theorem endRestart_frame (s : State) :
    (endRestart s).pending = s.pending ∧ (endRestart s).ident = s.ident ∧ (endRestart s).sck = s.sck ∧
    (endRestart s).arc = s.arc ∧ (endRestart s).pln = s.pln ∧ (endRestart s).fe = s.fe ∧ (endRestart s).key = s.key ∧
    (endRestart s).pke = s.pke ∧ (endRestart s).tls = s.tls ∧ (endRestart s).ac = s.ac ∧ (endRestart s).tm = s.tm ∧
    (endRestart s).lcc = s.lcc ∧ (endRestart s).stc = s.stc ∧ (endRestart s).pwr = s.pwr ∧ (endRestart s).io = s.io ∧
    (endRestart s).ev = s.ev ∧ (endRestart s).rw = s.rw ∧ (endRestart s).store = s.store ∧ (endRestart s).writes = s.writes ∧
    (endRestart s).free = s.free := by
  simp only [endRestart]
  (repeat' split) <;> simp

@[simp] theorem failPartly_frame (id : Nat) (n : Nat) (s : State) :
    (failPartly id n s).pending = s.pending ∧ (failPartly id n s).ident = s.ident ∧ (failPartly id n s).sck = s.sck ∧
    (failPartly id n s).arc = s.arc ∧ (failPartly id n s).pln = s.pln ∧ (failPartly id n s).fe = s.fe ∧
    (failPartly id n s).key = s.key ∧ (failPartly id n s).pke = s.pke ∧ (failPartly id n s).tls = s.tls ∧
    (failPartly id n s).ac = s.ac ∧ (failPartly id n s).tm = s.tm ∧ (failPartly id n s).lcc = s.lcc ∧
    (failPartly id n s).stc = s.stc ∧ (failPartly id n s).pwr = s.pwr ∧ (failPartly id n s).io = s.io ∧
    (failPartly id n s).ev = s.ev ∧ (failPartly id n s).rw = s.rw ∧ (failPartly id n s).store = s.store ∧
    (failPartly id n s).writes = s.writes := by
  simp only [failPartly]
  (repeat' split) <;> simp

@[simp] theorem failAllPartly_frame (x1 : List (Nat × Nat)) (x2 : State) :
    (failAllPartly x1 x2).pending = x2.pending ∧ (failAllPartly x1 x2).ident = x2.ident ∧ (failAllPartly x1 x2).sck = x2.sck ∧
    (failAllPartly x1 x2).arc = x2.arc ∧ (failAllPartly x1 x2).pln = x2.pln ∧ (failAllPartly x1 x2).fe = x2.fe ∧
    (failAllPartly x1 x2).key = x2.key ∧ (failAllPartly x1 x2).pke = x2.pke ∧ (failAllPartly x1 x2).tls = x2.tls ∧
    (failAllPartly x1 x2).ac = x2.ac ∧ (failAllPartly x1 x2).tm = x2.tm ∧ (failAllPartly x1 x2).lcc = x2.lcc ∧
    (failAllPartly x1 x2).stc = x2.stc ∧ (failAllPartly x1 x2).pwr = x2.pwr ∧ (failAllPartly x1 x2).io = x2.io ∧
    (failAllPartly x1 x2).ev = x2.ev ∧ (failAllPartly x1 x2).rw = x2.rw ∧ (failAllPartly x1 x2).store = x2.store ∧
    (failAllPartly x1 x2).writes = x2.writes := by
  induction x1 generalizing x2 with
  | nil => simp [failAllPartly]
  | cons c l ih => (simp only [failAllPartly, ih]; simp)

@[simp] theorem rnuFail_frame (cause : Nat) (source : Nat) (startup : Bool) (partly : List (Nat × Nat)) (s : State) :
    (rnuFail cause source startup partly s).pending = s.pending ∧ (rnuFail cause source startup partly s).ident = s.ident ∧
    (rnuFail cause source startup partly s).sck = s.sck ∧ (rnuFail cause source startup partly s).ac = s.ac ∧
    (rnuFail cause source startup partly s).pwr = s.pwr ∧ (rnuFail cause source startup partly s).rw = s.rw ∧
    (rnuFail cause source startup partly s).store = s.store ∧ (rnuFail cause source startup partly s).writes = s.writes := by
  simp [rnuFail, ite_pending, ite_ident, ite_sck, ite_ac, ite_pwr, ite_rw, ite_store, ite_writes]

@[simp] theorem discardSamples_frame (s : State) :
    (discardSamples s).pending = s.pending ∧ (discardSamples s).ident = s.ident ∧ (discardSamples s).sck = s.sck ∧
    (discardSamples s).arc = s.arc ∧ (discardSamples s).pln = s.pln ∧ (discardSamples s).fe = s.fe ∧
    (discardSamples s).hif = s.hif ∧ (discardSamples s).ts = s.ts ∧ (discardSamples s).key = s.key ∧
    (discardSamples s).pke = s.pke ∧ (discardSamples s).tls = s.tls ∧ (discardSamples s).ac = s.ac ∧
    (discardSamples s).tm = s.tm ∧ (discardSamples s).lcc = s.lcc ∧ (discardSamples s).stc = s.stc ∧
    (discardSamples s).pwr = s.pwr ∧ (discardSamples s).io = s.io ∧ (discardSamples s).ev = s.ev ∧
    (discardSamples s).rw = s.rw ∧ (discardSamples s).store = s.store ∧ (discardSamples s).writes = s.writes ∧
    (discardSamples s).out = s.out := by
  simp [discardSamples]

@[simp] theorem enterReady_frame (s : State) :
    (enterReady s).pending = s.pending ∧ (enterReady s).ident = s.ident ∧ (enterReady s).sck = s.sck ∧
    (enterReady s).arc = s.arc ∧ (enterReady s).pln = s.pln ∧ (enterReady s).fe = s.fe ∧ (enterReady s).key = s.key ∧
    (enterReady s).pke = s.pke ∧ (enterReady s).tls = s.tls ∧ (enterReady s).ac = s.ac ∧ (enterReady s).tm = s.tm ∧
    (enterReady s).lcc = s.lcc ∧ (enterReady s).stc = s.stc ∧ (enterReady s).pwr = s.pwr ∧ (enterReady s).io = s.io ∧
    (enterReady s).rw = s.rw ∧ (enterReady s).store = s.store ∧ (enterReady s).writes = s.writes ∧
    (enterReady s).free = s.free := by
  simp [enterReady]

@[simp] theorem serveReady_frame (s : State) :
    (serveReady s).pending = s.pending ∧ (serveReady s).ident = s.ident ∧ (serveReady s).sck = s.sck ∧
    (serveReady s).pln = s.pln ∧ (serveReady s).pke = s.pke ∧ (serveReady s).tls = s.tls ∧ (serveReady s).ac = s.ac ∧
    (serveReady s).tm = s.tm ∧ (serveReady s).lcc = s.lcc ∧ (serveReady s).stc = s.stc ∧ (serveReady s).pwr = s.pwr ∧
    (serveReady s).io = s.io ∧ (serveReady s).rw = s.rw ∧ (serveReady s).store = s.store ∧ (serveReady s).writes = s.writes := by
  simp [serveReady, ite_pending, ite_ident, ite_sck, ite_pln, ite_pke, ite_tls, ite_ac, ite_tm, ite_lcc, ite_stc, ite_pwr, ite_io, ite_rw, ite_store, ite_writes]

@[simp] theorem rnuReady_frame (s : State) :
    (rnuReady s).pending = s.pending ∧ (rnuReady s).ident = s.ident ∧ (rnuReady s).sck = s.sck ∧ (rnuReady s).pln = s.pln ∧
    (rnuReady s).pke = s.pke ∧ (rnuReady s).tls = s.tls ∧ (rnuReady s).ac = s.ac ∧ (rnuReady s).tm = s.tm ∧
    (rnuReady s).lcc = s.lcc ∧ (rnuReady s).stc = s.stc ∧ (rnuReady s).pwr = s.pwr ∧ (rnuReady s).io = s.io ∧
    (rnuReady s).rw = s.rw ∧ (rnuReady s).store = s.store ∧ (rnuReady s).writes = s.writes := by
  simp [rnuReady, ite_pending, ite_ident, ite_sck, ite_pln, ite_pke, ite_tls, ite_ac, ite_tm, ite_lcc, ite_stc, ite_pwr, ite_io, ite_rw, ite_store, ite_writes]

@[simp] theorem flushBellows_frame (s : State) :
    (flushBellows s).pending = s.pending ∧ (flushBellows s).ident = s.ident ∧ (flushBellows s).sck = s.sck ∧
    (flushBellows s).arc = s.arc ∧ (flushBellows s).pln = s.pln ∧ (flushBellows s).fe = s.fe ∧ (flushBellows s).ts = s.ts ∧
    (flushBellows s).key = s.key ∧ (flushBellows s).pke = s.pke ∧ (flushBellows s).tls = s.tls ∧ (flushBellows s).ac = s.ac ∧
    (flushBellows s).tm = s.tm ∧ (flushBellows s).lcc = s.lcc ∧ (flushBellows s).stc = s.stc ∧ (flushBellows s).pwr = s.pwr ∧
    (flushBellows s).io = s.io ∧ (flushBellows s).rw = s.rw ∧ (flushBellows s).store = s.store ∧
    (flushBellows s).writes = s.writes := by
  simp [flushBellows, ite_pending, ite_ident, ite_sck, ite_arc, ite_pln, ite_fe, ite_ts, ite_key, ite_pke, ite_tls, ite_ac, ite_tm, ite_lcc, ite_stc, ite_pwr, ite_io, ite_rw, ite_store, ite_writes]

end Sys2Proof.Machine
end

