-- ==== Sys2Proof/Laws/Auth.lean ====
section
/-! SUPPORT. What the operations of Machine/Auth.lean leave unchanged, once for each: its frame. -/

namespace Sys2Proof.Machine

@[simp] theorem acceptRequest_frame (a : AuthReq) (op : Nat) (s : State) :
    (acceptRequest a op s).pending = s.pending ∧ (acceptRequest a op s).ident = s.ident ∧ (acceptRequest a op s).sck = s.sck ∧
    (acceptRequest a op s).pln = s.pln ∧ (acceptRequest a op s).fe = s.fe ∧ (acceptRequest a op s).hif = s.hif ∧
    (acceptRequest a op s).ts = s.ts ∧ (acceptRequest a op s).pke = s.pke ∧ (acceptRequest a op s).rnu = s.rnu ∧
    (acceptRequest a op s).tls = s.tls ∧ (acceptRequest a op s).ac = s.ac ∧ (acceptRequest a op s).tm = s.tm ∧
    (acceptRequest a op s).lcc = s.lcc ∧ (acceptRequest a op s).stc = s.stc ∧ (acceptRequest a op s).pwr = s.pwr ∧
    (acceptRequest a op s).io = s.io ∧ (acceptRequest a op s).ev = s.ev ∧ (acceptRequest a op s).rw = s.rw ∧
    (acceptRequest a op s).store = s.store ∧ (acceptRequest a op s).writes = s.writes ∧ (acceptRequest a op s).out = s.out ∧
    (acceptRequest a op s).free = s.free := by
  simp [acceptRequest]

end Sys2Proof.Machine
end

