-- ==== Sys2Proof/Laws/KeyOps.lean ====
section
/-! SUPPORT. What the operations of Machine/KeyOps.lean leave unchanged, once for each: its frame. -/

namespace Sys2Proof.Machine

@[simp] theorem installKey_frame (b : Blob) (m : Bytes) (vault : Bool) (s : State) :
    (installKey b m vault s).pending = s.pending ∧ (installKey b m vault s).ident = s.ident ∧
    (installKey b m vault s).sck = s.sck ∧ (installKey b m vault s).ts = s.ts ∧ (installKey b m vault s).pke = s.pke ∧
    (installKey b m vault s).tls = s.tls ∧ (installKey b m vault s).ac = s.ac ∧ (installKey b m vault s).tm = s.tm ∧
    (installKey b m vault s).lcc = s.lcc ∧ (installKey b m vault s).stc = s.stc ∧ (installKey b m vault s).pwr = s.pwr ∧
    (installKey b m vault s).io = s.io ∧ (installKey b m vault s).rw = s.rw ∧ (installKey b m vault s).store = s.store ∧
    (installKey b m vault s).writes = s.writes := by
  simp [installKey, ite_pending, ite_ident, ite_sck, ite_ts, ite_pke, ite_tls, ite_ac, ite_tm, ite_lcc, ite_stc, ite_pwr, ite_io, ite_rw, ite_store, ite_writes]

@[simp] theorem resolveWaiting_frame (back : Bool) (x1 : List Nat) (x2 : State) :
    (resolveWaiting back x1 x2).pending = x2.pending ∧ (resolveWaiting back x1 x2).ident = x2.ident ∧
    (resolveWaiting back x1 x2).sck = x2.sck ∧ (resolveWaiting back x1 x2).arc = x2.arc ∧
    (resolveWaiting back x1 x2).pln = x2.pln ∧ (resolveWaiting back x1 x2).fe = x2.fe ∧
    (resolveWaiting back x1 x2).key = x2.key ∧ (resolveWaiting back x1 x2).pke = x2.pke ∧
    (resolveWaiting back x1 x2).rnu = x2.rnu ∧ (resolveWaiting back x1 x2).tls = x2.tls ∧
    (resolveWaiting back x1 x2).ac = x2.ac ∧ (resolveWaiting back x1 x2).tm = x2.tm ∧
    (resolveWaiting back x1 x2).lcc = x2.lcc ∧ (resolveWaiting back x1 x2).stc = x2.stc ∧
    (resolveWaiting back x1 x2).pwr = x2.pwr ∧ (resolveWaiting back x1 x2).io = x2.io ∧
    (resolveWaiting back x1 x2).ev = x2.ev ∧ (resolveWaiting back x1 x2).rw = x2.rw ∧
    (resolveWaiting back x1 x2).store = x2.store ∧ (resolveWaiting back x1 x2).writes = x2.writes ∧
    (resolveWaiting back x1 x2).free = x2.free := by
  induction x1 generalizing back x2 with
  | nil => simp [resolveWaiting]
  | cons c l ih => (simp only [resolveWaiting, ih]; (repeat' split) <;> simp)

@[simp] theorem discardTek_frame (f : Nat) (handle : Nat) (s : State) :
    (discardTek f handle s).pending = s.pending ∧ (discardTek f handle s).ident = s.ident ∧
    (discardTek f handle s).sck = s.sck ∧ (discardTek f handle s).pln = s.pln ∧ (discardTek f handle s).fe = s.fe ∧
    (discardTek f handle s).ts = s.ts ∧ (discardTek f handle s).key = s.key ∧ (discardTek f handle s).pke = s.pke ∧
    (discardTek f handle s).rnu = s.rnu ∧ (discardTek f handle s).tls = s.tls ∧ (discardTek f handle s).ac = s.ac ∧
    (discardTek f handle s).tm = s.tm ∧ (discardTek f handle s).lcc = s.lcc ∧ (discardTek f handle s).stc = s.stc ∧
    (discardTek f handle s).pwr = s.pwr ∧ (discardTek f handle s).io = s.io ∧ (discardTek f handle s).rw = s.rw ∧
    (discardTek f handle s).store = s.store ∧ (discardTek f handle s).writes = s.writes ∧
    (discardTek f handle s).free = s.free := by
  simp [discardTek]

end Sys2Proof.Machine
end

