-- ==== Sys2Proof/Laws/Temper.lean ====
section
/-! SUPPORT. What the operations of Machine/Temper.lean leave unchanged, once for each: its frame. -/

namespace Sys2Proof.Machine

@[simp] theorem raiseEpochs_frame (x1 : Nat) (x2 : State) :
    (raiseEpochs x1 x2).pending = x2.pending ∧ (raiseEpochs x1 x2).ident = x2.ident ∧ (raiseEpochs x1 x2).sck = x2.sck ∧
    (raiseEpochs x1 x2).arc = x2.arc ∧ (raiseEpochs x1 x2).pln = x2.pln ∧ (raiseEpochs x1 x2).fe = x2.fe ∧
    (raiseEpochs x1 x2).hif = x2.hif ∧ (raiseEpochs x1 x2).ts = x2.ts ∧ (raiseEpochs x1 x2).pke = x2.pke ∧
    (raiseEpochs x1 x2).rnu = x2.rnu ∧ (raiseEpochs x1 x2).tls = x2.tls ∧ (raiseEpochs x1 x2).ac = x2.ac ∧
    (raiseEpochs x1 x2).tm = x2.tm ∧ (raiseEpochs x1 x2).lcc = x2.lcc ∧ (raiseEpochs x1 x2).stc = x2.stc ∧
    (raiseEpochs x1 x2).pwr = x2.pwr ∧ (raiseEpochs x1 x2).io = x2.io ∧ (raiseEpochs x1 x2).ev = x2.ev ∧
    (raiseEpochs x1 x2).rw = x2.rw ∧ (raiseEpochs x1 x2).store = x2.store ∧ (raiseEpochs x1 x2).writes = x2.writes ∧
    (raiseEpochs x1 x2).out = x2.out ∧ (raiseEpochs x1 x2).free = x2.free := by
  induction x1 generalizing x2 with
  | zero => simp [raiseEpochs]
  | succ n ih => (simp only [raiseEpochs]; (repeat' split) <;> simp [ih])

@[simp] theorem resealVault_frame (d : Nat) (dwk : Bytes) (x1 : Tbl Blob) (x2 : State) :
    (resealVault d dwk x1 x2).pending = x2.pending ∧ (resealVault d dwk x1 x2).ident = x2.ident ∧
    (resealVault d dwk x1 x2).sck = x2.sck ∧ (resealVault d dwk x1 x2).fe = x2.fe ∧ (resealVault d dwk x1 x2).ts = x2.ts ∧
    (resealVault d dwk x1 x2).pke = x2.pke ∧ (resealVault d dwk x1 x2).tls = x2.tls ∧ (resealVault d dwk x1 x2).ac = x2.ac ∧
    (resealVault d dwk x1 x2).tm = x2.tm ∧ (resealVault d dwk x1 x2).lcc = x2.lcc ∧ (resealVault d dwk x1 x2).stc = x2.stc ∧
    (resealVault d dwk x1 x2).pwr = x2.pwr ∧ (resealVault d dwk x1 x2).io = x2.io ∧ (resealVault d dwk x1 x2).rw = x2.rw ∧
    (resealVault d dwk x1 x2).store = x2.store ∧ (resealVault d dwk x1 x2).writes = x2.writes := by
  induction x1 generalizing d dwk x2 with
  | nil => simp [resealVault]
  | cons c l ih => (simp only [resealVault, ih]; (repeat' split) <;> simp)

@[simp] theorem drawRoot_frame (s : State) :
    (drawRoot s).pending = s.pending ∧ (drawRoot s).ident = s.ident ∧ (drawRoot s).sck = s.sck ∧ (drawRoot s).arc = s.arc ∧
    (drawRoot s).pln = s.pln ∧ (drawRoot s).fe = s.fe ∧ (drawRoot s).hif = s.hif ∧ (drawRoot s).ts = s.ts ∧
    (drawRoot s).pke = s.pke ∧ (drawRoot s).tls = s.tls ∧ (drawRoot s).ac = s.ac ∧ (drawRoot s).tm = s.tm ∧
    (drawRoot s).lcc = s.lcc ∧ (drawRoot s).stc = s.stc ∧ (drawRoot s).pwr = s.pwr ∧ (drawRoot s).io = s.io ∧
    (drawRoot s).ev = s.ev ∧ (drawRoot s).rw = s.rw ∧ (drawRoot s).store = s.store ∧ (drawRoot s).writes = s.writes ∧
    (drawRoot s).out = s.out := by
  simp [drawRoot]

theorem applyTemper_frame (dom : Nat) (c : TemperCmd) (s : State) (t : State) (h : applyTemper dom c s = some t) :
    t.pending = s.pending ∧ t.ident = s.ident ∧ t.sck = s.sck ∧ t.ts = s.ts ∧ t.pke = s.pke ∧ t.tls = s.tls ∧ t.ac = s.ac ∧
    t.lcc = s.lcc ∧ t.stc = s.stc ∧ t.pwr = s.pwr ∧ t.io = s.io ∧ t.rw = s.rw ∧ t.store = s.store ∧ t.writes = s.writes := by
  cases c <;> simp only [applyTemper] at h <;> (repeat' split at h) <;> first
    | (cases h; done)
    | (cases h; simp; done)
    | (simp only [Option.map_eq_some_iff] at h; obtain ⟨_, _, rfl⟩ := h; simp; done)
    | (simp only [Option.map_eq_some_iff] at h
       obtain ⟨_, hw, rfl⟩ := h
       split <;> simp [allocHandle_frame _ _ _ hw])

theorem applyAll_frame (m : TemperMsg) (i : Nat) (l : List TemperCmd) (s t : State) (h : applyAll m i l s = .ok t) :
    t.pending = s.pending ∧ t.ident = s.ident ∧ t.sck = s.sck ∧ t.ts = s.ts ∧ t.pke = s.pke ∧ t.tls = s.tls ∧ t.ac = s.ac ∧
    t.lcc = s.lcc ∧ t.stc = s.stc ∧ t.pwr = s.pwr ∧ t.io = s.io ∧ t.rw = s.rw ∧ t.store = s.store ∧ t.writes = s.writes := by
  induction l generalizing i s with
  | nil => simp only [applyAll, Except.ok.injEq] at h; subst h; simp
  | cons c l ih =>
    simp only [applyAll] at h
    split at h
    · cases h
    · rename_i s1 h1
      have k := ih _ _ h
      simp [k, applyTemper_frame _ _ _ _ h1]

end Sys2Proof.Machine
end

