-- ==== Sys2Proof/Laws/Tamper.lean ====
section
/-! SUPPORT. What the operations of Machine/Tamper.lean leave unchanged, once for each: its frame. -/

namespace Sys2Proof.Machine

@[simp] theorem passRtc_frame (cycles : Nat) (s : State) :
    (passRtc cycles s).pending = s.pending ∧ (passRtc cycles s).ident = s.ident ∧ (passRtc cycles s).arc = s.arc ∧
    (passRtc cycles s).pln = s.pln ∧ (passRtc cycles s).fe = s.fe ∧ (passRtc cycles s).hif = s.hif ∧
    (passRtc cycles s).ts = s.ts ∧ (passRtc cycles s).key = s.key ∧ (passRtc cycles s).pke = s.pke ∧
    (passRtc cycles s).rnu = s.rnu ∧ (passRtc cycles s).tls = s.tls ∧ (passRtc cycles s).ac = s.ac ∧
    (passRtc cycles s).tm = s.tm ∧ (passRtc cycles s).lcc = s.lcc ∧ (passRtc cycles s).stc = s.stc ∧
    (passRtc cycles s).pwr = s.pwr ∧ (passRtc cycles s).io = s.io ∧ (passRtc cycles s).ev = s.ev ∧
    (passRtc cycles s).rw = s.rw ∧ (passRtc cycles s).store = s.store ∧ (passRtc cycles s).writes = s.writes ∧
    (passRtc cycles s).out = s.out ∧ (passRtc cycles s).free = s.free := by
  simp [passRtc, ite_pending, ite_ident, ite_arc, ite_pln, ite_fe, ite_hif, ite_ts, ite_key, ite_pke, ite_rnu, ite_tls, ite_ac, ite_tm, ite_lcc, ite_stc, ite_pwr, ite_io, ite_ev, ite_rw, ite_store, ite_writes, ite_out, ite_free]

@[simp] theorem stageAlarm_frame (snowdrop : Bool) (cause : Nat) (source : Nat) (subtype : Nat) (value : Nat) (s : State) :
    (stageAlarm snowdrop cause source subtype value s).pending = s.pending ∧
    (stageAlarm snowdrop cause source subtype value s).ident = s.ident ∧
    (stageAlarm snowdrop cause source subtype value s).sck = s.sck ∧
    (stageAlarm snowdrop cause source subtype value s).arc = s.arc ∧
    (stageAlarm snowdrop cause source subtype value s).pln = s.pln ∧
    (stageAlarm snowdrop cause source subtype value s).fe = s.fe ∧
    (stageAlarm snowdrop cause source subtype value s).hif = s.hif ∧
    (stageAlarm snowdrop cause source subtype value s).ts = s.ts ∧
    (stageAlarm snowdrop cause source subtype value s).key = s.key ∧
    (stageAlarm snowdrop cause source subtype value s).pke = s.pke ∧
    (stageAlarm snowdrop cause source subtype value s).rnu = s.rnu ∧
    (stageAlarm snowdrop cause source subtype value s).tls = s.tls ∧
    (stageAlarm snowdrop cause source subtype value s).ac = s.ac ∧
    (stageAlarm snowdrop cause source subtype value s).lcc = s.lcc ∧
    (stageAlarm snowdrop cause source subtype value s).stc = s.stc ∧
    (stageAlarm snowdrop cause source subtype value s).pwr = s.pwr ∧
    (stageAlarm snowdrop cause source subtype value s).io = s.io ∧
    (stageAlarm snowdrop cause source subtype value s).ev = s.ev ∧
    (stageAlarm snowdrop cause source subtype value s).rw = s.rw ∧
    (stageAlarm snowdrop cause source subtype value s).store = s.store ∧
    (stageAlarm snowdrop cause source subtype value s).writes = s.writes ∧
    (stageAlarm snowdrop cause source subtype value s).out = s.out ∧
    (stageAlarm snowdrop cause source subtype value s).free = s.free := by
  simp [stageAlarm, ite_pending, ite_ident, ite_sck, ite_arc, ite_pln, ite_fe, ite_hif, ite_ts, ite_key, ite_pke, ite_rnu, ite_tls, ite_ac, ite_lcc, ite_stc, ite_pwr, ite_io, ite_ev, ite_rw, ite_store, ite_writes, ite_out, ite_free]

@[simp] theorem zeroBbkr_frame (s : State) :
    (zeroBbkr s).pending = s.pending ∧ (zeroBbkr s).ident = s.ident ∧ (zeroBbkr s).sck = s.sck ∧ (zeroBbkr s).arc = s.arc ∧
    (zeroBbkr s).pln = s.pln ∧ (zeroBbkr s).fe = s.fe ∧ (zeroBbkr s).hif = s.hif ∧ (zeroBbkr s).ts = s.ts ∧
    (zeroBbkr s).pke = s.pke ∧ (zeroBbkr s).rnu = s.rnu ∧ (zeroBbkr s).tls = s.tls ∧ (zeroBbkr s).ac = s.ac ∧
    (zeroBbkr s).tm = s.tm ∧ (zeroBbkr s).lcc = s.lcc ∧ (zeroBbkr s).stc = s.stc ∧ (zeroBbkr s).pwr = s.pwr ∧
    (zeroBbkr s).io = s.io ∧ (zeroBbkr s).ev = s.ev ∧ (zeroBbkr s).rw = s.rw ∧ (zeroBbkr s).store = s.store ∧
    (zeroBbkr s).writes = s.writes ∧ (zeroBbkr s).out = s.out ∧ (zeroBbkr s).free = s.free := by
  simp [zeroBbkr]

@[simp] theorem standbyAlarm_frame (cause : Nat) (source : Nat) (data : Nat) (s : State) :
    (standbyAlarm cause source data s).pending = s.pending ∧ (standbyAlarm cause source data s).ident = s.ident ∧
    (standbyAlarm cause source data s).sck = s.sck ∧ (standbyAlarm cause source data s).arc = s.arc ∧
    (standbyAlarm cause source data s).pln = s.pln ∧ (standbyAlarm cause source data s).fe = s.fe ∧
    (standbyAlarm cause source data s).hif = s.hif ∧ (standbyAlarm cause source data s).ts = s.ts ∧
    (standbyAlarm cause source data s).pke = s.pke ∧ (standbyAlarm cause source data s).rnu = s.rnu ∧
    (standbyAlarm cause source data s).tls = s.tls ∧ (standbyAlarm cause source data s).ac = s.ac ∧
    (standbyAlarm cause source data s).lcc = s.lcc ∧ (standbyAlarm cause source data s).stc = s.stc ∧
    (standbyAlarm cause source data s).pwr = s.pwr ∧ (standbyAlarm cause source data s).io = s.io ∧
    (standbyAlarm cause source data s).ev = s.ev ∧ (standbyAlarm cause source data s).rw = s.rw ∧
    (standbyAlarm cause source data s).store = s.store ∧ (standbyAlarm cause source data s).writes = s.writes ∧
    (standbyAlarm cause source data s).out = s.out ∧ (standbyAlarm cause source data s).free = s.free := by
  simp [standbyAlarm, ite_pending, ite_ident, ite_sck, ite_arc, ite_pln, ite_fe, ite_hif, ite_ts, ite_pke, ite_rnu, ite_tls, ite_ac, ite_lcc, ite_stc, ite_pwr, ite_io, ite_ev, ite_rw, ite_store, ite_writes, ite_out, ite_free]

@[simp] theorem snowdropAlarm_frame (cause : Nat) (source : Nat) (data : Nat) (s : State) :
    (snowdropAlarm cause source data s).pending = s.pending ∧ (snowdropAlarm cause source data s).ident = s.ident ∧
    (snowdropAlarm cause source data s).sck = s.sck ∧ (snowdropAlarm cause source data s).arc = s.arc ∧
    (snowdropAlarm cause source data s).pln = s.pln ∧ (snowdropAlarm cause source data s).fe = s.fe ∧
    (snowdropAlarm cause source data s).hif = s.hif ∧ (snowdropAlarm cause source data s).ts = s.ts ∧
    (snowdropAlarm cause source data s).pke = s.pke ∧ (snowdropAlarm cause source data s).rnu = s.rnu ∧
    (snowdropAlarm cause source data s).tls = s.tls ∧ (snowdropAlarm cause source data s).ac = s.ac ∧
    (snowdropAlarm cause source data s).lcc = s.lcc ∧ (snowdropAlarm cause source data s).stc = s.stc ∧
    (snowdropAlarm cause source data s).pwr = s.pwr ∧ (snowdropAlarm cause source data s).io = s.io ∧
    (snowdropAlarm cause source data s).ev = s.ev ∧ (snowdropAlarm cause source data s).rw = s.rw ∧
    (snowdropAlarm cause source data s).store = s.store ∧ (snowdropAlarm cause source data s).writes = s.writes ∧
    (snowdropAlarm cause source data s).out = s.out ∧ (snowdropAlarm cause source data s).free = s.free := by
  simp [snowdropAlarm, ite_pending, ite_ident, ite_sck, ite_arc, ite_pln, ite_fe, ite_hif, ite_ts, ite_pke, ite_rnu, ite_tls, ite_ac, ite_lcc, ite_stc, ite_pwr, ite_io, ite_ev, ite_rw, ite_store, ite_writes, ite_out, ite_free]

@[simp] theorem noteLoop_frame (cause : Nat) (source : Nat) (data : Nat) (broken : Bool) (s : State) :
    (noteLoop cause source data broken s).pending = s.pending ∧ (noteLoop cause source data broken s).ident = s.ident ∧
    (noteLoop cause source data broken s).sck = s.sck ∧ (noteLoop cause source data broken s).arc = s.arc ∧
    (noteLoop cause source data broken s).pln = s.pln ∧ (noteLoop cause source data broken s).fe = s.fe ∧
    (noteLoop cause source data broken s).hif = s.hif ∧ (noteLoop cause source data broken s).ts = s.ts ∧
    (noteLoop cause source data broken s).key = s.key ∧ (noteLoop cause source data broken s).pke = s.pke ∧
    (noteLoop cause source data broken s).rnu = s.rnu ∧ (noteLoop cause source data broken s).tls = s.tls ∧
    (noteLoop cause source data broken s).ac = s.ac ∧ (noteLoop cause source data broken s).lcc = s.lcc ∧
    (noteLoop cause source data broken s).stc = s.stc ∧ (noteLoop cause source data broken s).pwr = s.pwr ∧
    (noteLoop cause source data broken s).io = s.io ∧ (noteLoop cause source data broken s).ev = s.ev ∧
    (noteLoop cause source data broken s).rw = s.rw ∧ (noteLoop cause source data broken s).store = s.store ∧
    (noteLoop cause source data broken s).writes = s.writes ∧ (noteLoop cause source data broken s).out = s.out ∧
    (noteLoop cause source data broken s).free = s.free := by
  simp [noteLoop, ite_pending, ite_ident, ite_sck, ite_arc, ite_pln, ite_fe, ite_hif, ite_ts, ite_key, ite_pke, ite_rnu, ite_tls, ite_ac, ite_lcc, ite_stc, ite_pwr, ite_io, ite_ev, ite_rw, ite_store, ite_writes, ite_out, ite_free]

@[simp] theorem zeroFailed_frame (x1 : List (Nat × Nat)) (x2 : State) :
    (zeroFailed x1 x2).pending = x2.pending ∧ (zeroFailed x1 x2).ident = x2.ident ∧ (zeroFailed x1 x2).sck = x2.sck ∧
    (zeroFailed x1 x2).pwr = x2.pwr ∧ (zeroFailed x1 x2).rw = x2.rw ∧ (zeroFailed x1 x2).store = x2.store ∧
    (zeroFailed x1 x2).writes = x2.writes ∧ (zeroFailed x1 x2).free = x2.free := by
  induction x1 generalizing x2 with
  | nil => simp [zeroFailed]
  | cons c l ih => (simp only [zeroFailed, ih]; simp)

@[simp] theorem abortPorts_frame (x1 : Nat) (x2 : State) :
    (abortPorts x1 x2).pending = x2.pending ∧ (abortPorts x1 x2).ident = x2.ident ∧ (abortPorts x1 x2).sck = x2.sck ∧
    (abortPorts x1 x2).fe = x2.fe ∧ (abortPorts x1 x2).key = x2.key ∧ (abortPorts x1 x2).pke = x2.pke ∧
    (abortPorts x1 x2).rnu = x2.rnu ∧ (abortPorts x1 x2).tls = x2.tls ∧ (abortPorts x1 x2).ac = x2.ac ∧
    (abortPorts x1 x2).tm = x2.tm ∧ (abortPorts x1 x2).lcc = x2.lcc ∧ (abortPorts x1 x2).stc = x2.stc ∧
    (abortPorts x1 x2).io = x2.io ∧ (abortPorts x1 x2).rw = x2.rw ∧ (abortPorts x1 x2).store = x2.store ∧
    (abortPorts x1 x2).writes = x2.writes ∧ (abortPorts x1 x2).free = x2.free := by
  induction x1 generalizing x2 with
  | zero => simp [abortPorts]
  | succ n ih => (simp only [abortPorts]; (repeat' split) <;> simp [ih])

@[simp] theorem quenchFinish_frame (failed : List (Nat × Nat)) (s : State) :
    (quenchFinish failed s).pending = s.pending ∧ (quenchFinish failed s).ident = s.ident ∧
    (quenchFinish failed s).sck = s.sck ∧ (quenchFinish failed s).rw = s.rw ∧ (quenchFinish failed s).store = s.store ∧
    (quenchFinish failed s).writes = s.writes ∧ (quenchFinish failed s).free = s.free := by
  simp [quenchFinish]

@[simp] theorem clearRelease_frame (s : State) :
    (clearRelease s).pending = s.pending ∧ (clearRelease s).ident = s.ident ∧ (clearRelease s).sck = s.sck ∧
    (clearRelease s).pln = s.pln ∧ (clearRelease s).ts = s.ts ∧ (clearRelease s).pke = s.pke ∧ (clearRelease s).tls = s.tls ∧
    (clearRelease s).ac = s.ac ∧ (clearRelease s).lcc = s.lcc ∧ (clearRelease s).stc = s.stc ∧ (clearRelease s).pwr = s.pwr ∧
    (clearRelease s).rw = s.rw ∧ (clearRelease s).store = s.store ∧ (clearRelease s).writes = s.writes := by
  simp [clearRelease, ite_pending, ite_ident, ite_sck, ite_pln, ite_ts, ite_pke, ite_tls, ite_ac, ite_lcc, ite_stc, ite_pwr, ite_rw, ite_store, ite_writes]

end Sys2Proof.Machine
end

