-- ==== Sys2Proof/Laws/Pke.lean ====
section
/-! SUPPORT. What the operations of Machine/Pke.lean leave unchanged, once for each: its frame. -/

namespace Sys2Proof.Machine

@[simp] theorem State.setEngine_frame (e : Nat) (v : Engine) (s : State) :
    (State.setEngine e v s).pending = s.pending ∧ (State.setEngine e v s).ident = s.ident ∧
    (State.setEngine e v s).sck = s.sck ∧ (State.setEngine e v s).arc = s.arc ∧ (State.setEngine e v s).pln = s.pln ∧
    (State.setEngine e v s).fe = s.fe ∧ (State.setEngine e v s).hif = s.hif ∧ (State.setEngine e v s).ts = s.ts ∧
    (State.setEngine e v s).key = s.key ∧ (State.setEngine e v s).rnu = s.rnu ∧ (State.setEngine e v s).tls = s.tls ∧
    (State.setEngine e v s).ac = s.ac ∧ (State.setEngine e v s).tm = s.tm ∧ (State.setEngine e v s).lcc = s.lcc ∧
    (State.setEngine e v s).stc = s.stc ∧ (State.setEngine e v s).pwr = s.pwr ∧ (State.setEngine e v s).io = s.io ∧
    (State.setEngine e v s).ev = s.ev ∧ (State.setEngine e v s).rw = s.rw ∧ (State.setEngine e v s).store = s.store ∧
    (State.setEngine e v s).writes = s.writes ∧ (State.setEngine e v s).out = s.out ∧ (State.setEngine e v s).free = s.free := by
  simp [State.setEngine]

@[simp] theorem placePke_frame (op : PkeOp) (s : State) :
    ((placePke op s).after s).pending = s.pending ∧ ((placePke op s).after s).ident = s.ident ∧
    ((placePke op s).after s).sck = s.sck ∧ ((placePke op s).after s).arc = s.arc ∧ ((placePke op s).after s).pln = s.pln ∧
    ((placePke op s).after s).fe = s.fe ∧ ((placePke op s).after s).ts = s.ts ∧ ((placePke op s).after s).key = s.key ∧
    ((placePke op s).after s).rnu = s.rnu ∧ ((placePke op s).after s).tls = s.tls ∧ ((placePke op s).after s).ac = s.ac ∧
    ((placePke op s).after s).tm = s.tm ∧ ((placePke op s).after s).lcc = s.lcc ∧ ((placePke op s).after s).stc = s.stc ∧
    ((placePke op s).after s).pwr = s.pwr ∧ ((placePke op s).after s).io = s.io ∧ ((placePke op s).after s).rw = s.rw ∧
    ((placePke op s).after s).store = s.store ∧ ((placePke op s).after s).writes = s.writes ∧
    ((placePke op s).after s).free = s.free := by
  simp only [placePke]
  (repeat' split) <;> simp [OpOut.after]

@[simp] theorem dispatchPke_frame (x : PkeOp) (s : State) :
    ((dispatchPke x s).after s).pending = s.pending ∧ ((dispatchPke x s).after s).ident = s.ident ∧
    ((dispatchPke x s).after s).sck = s.sck ∧ ((dispatchPke x s).after s).arc = s.arc ∧
    ((dispatchPke x s).after s).pln = s.pln ∧ ((dispatchPke x s).after s).fe = s.fe ∧ ((dispatchPke x s).after s).ts = s.ts ∧
    ((dispatchPke x s).after s).key = s.key ∧ ((dispatchPke x s).after s).rnu = s.rnu ∧
    ((dispatchPke x s).after s).tls = s.tls ∧ ((dispatchPke x s).after s).ac = s.ac ∧ ((dispatchPke x s).after s).tm = s.tm ∧
    ((dispatchPke x s).after s).lcc = s.lcc ∧ ((dispatchPke x s).after s).stc = s.stc ∧
    ((dispatchPke x s).after s).pwr = s.pwr ∧ ((dispatchPke x s).after s).io = s.io ∧ ((dispatchPke x s).after s).rw = s.rw ∧
    ((dispatchPke x s).after s).store = s.store ∧ ((dispatchPke x s).after s).writes = s.writes ∧
    ((dispatchPke x s).after s).free = s.free := by
  unfold dispatchPke
  split
  · simp [OpOut.after]
  · have k := placePke_frame { x with ctx := x.ctx.orElse fun _ => s.ctxIdFor x.call } s
    cases h : placePke { x with ctx := x.ctx.orElse fun _ => s.ctxIdFor x.call } s <;> simp only [h, OpOut.after] at k ⊢ <;>
      simp [k]

@[simp] theorem engineRec_frame (e : Nat) (v : Engine) (s : State) :
    (engineRec e v s).pending = s.pending ∧ (engineRec e v s).ident = s.ident ∧ (engineRec e v s).sck = s.sck ∧
    (engineRec e v s).pln = s.pln ∧ (engineRec e v s).fe = s.fe ∧ (engineRec e v s).hif = s.hif ∧ (engineRec e v s).ts = s.ts ∧
    (engineRec e v s).key = s.key ∧ (engineRec e v s).pke = s.pke ∧ (engineRec e v s).rnu = s.rnu ∧
    (engineRec e v s).tls = s.tls ∧ (engineRec e v s).ac = s.ac ∧ (engineRec e v s).tm = s.tm ∧ (engineRec e v s).lcc = s.lcc ∧
    (engineRec e v s).stc = s.stc ∧ (engineRec e v s).pwr = s.pwr ∧ (engineRec e v s).io = s.io ∧ (engineRec e v s).ev = s.ev ∧
    (engineRec e v s).rw = s.rw ∧ (engineRec e v s).store = s.store ∧ (engineRec e v s).writes = s.writes ∧
    (engineRec e v s).out = s.out ∧ (engineRec e v s).free = s.free := by
  simp [engineRec]

@[simp] theorem moveQueued_frame (e : Nat) (s : State) :
    (moveQueued e s).pending = s.pending ∧ (moveQueued e s).ident = s.ident ∧ (moveQueued e s).sck = s.sck ∧
    (moveQueued e s).arc = s.arc ∧ (moveQueued e s).pln = s.pln ∧ (moveQueued e s).fe = s.fe ∧ (moveQueued e s).key = s.key ∧
    (moveQueued e s).rnu = s.rnu ∧ (moveQueued e s).tls = s.tls ∧ (moveQueued e s).ac = s.ac ∧ (moveQueued e s).tm = s.tm ∧
    (moveQueued e s).lcc = s.lcc ∧ (moveQueued e s).stc = s.stc ∧ (moveQueued e s).pwr = s.pwr ∧ (moveQueued e s).io = s.io ∧
    (moveQueued e s).rw = s.rw ∧ (moveQueued e s).store = s.store ∧ (moveQueued e s).writes = s.writes ∧
    (moveQueued e s).free = s.free := by
  simp only [moveQueued]
  split
  · simp
  · rename_i op _
    split
    · simp
    · have k := placePke_frame op (s.setEngine e { s.engine e with next := none })
      split <;> rename_i h <;> simp only [h, OpOut.after] at k <;> simp [k]

@[simp] theorem moveAllQueued_frame (x1 : List Nat) (x2 : State) :
    (moveAllQueued x1 x2).pending = x2.pending ∧ (moveAllQueued x1 x2).ident = x2.ident ∧ (moveAllQueued x1 x2).sck = x2.sck ∧
    (moveAllQueued x1 x2).arc = x2.arc ∧ (moveAllQueued x1 x2).pln = x2.pln ∧ (moveAllQueued x1 x2).fe = x2.fe ∧
    (moveAllQueued x1 x2).key = x2.key ∧ (moveAllQueued x1 x2).rnu = x2.rnu ∧ (moveAllQueued x1 x2).tls = x2.tls ∧
    (moveAllQueued x1 x2).ac = x2.ac ∧ (moveAllQueued x1 x2).tm = x2.tm ∧ (moveAllQueued x1 x2).lcc = x2.lcc ∧
    (moveAllQueued x1 x2).stc = x2.stc ∧ (moveAllQueued x1 x2).pwr = x2.pwr ∧ (moveAllQueued x1 x2).io = x2.io ∧
    (moveAllQueued x1 x2).rw = x2.rw ∧ (moveAllQueued x1 x2).store = x2.store ∧ (moveAllQueued x1 x2).writes = x2.writes ∧
    (moveAllQueued x1 x2).free = x2.free := by
  induction x1 generalizing x2 with
  | nil => simp [moveAllQueued]
  | cons c l ih => (simp only [moveAllQueued, ih]; simp)

@[simp] theorem setService_frame (e : Nat) (on : Bool) (s : State) :
    (setService e on s).pending = s.pending ∧ (setService e on s).ident = s.ident ∧ (setService e on s).sck = s.sck ∧
    (setService e on s).pln = s.pln ∧ (setService e on s).fe = s.fe ∧ (setService e on s).ts = s.ts ∧
    (setService e on s).key = s.key ∧ (setService e on s).rnu = s.rnu ∧ (setService e on s).tls = s.tls ∧
    (setService e on s).ac = s.ac ∧ (setService e on s).tm = s.tm ∧ (setService e on s).lcc = s.lcc ∧
    (setService e on s).stc = s.stc ∧ (setService e on s).pwr = s.pwr ∧ (setService e on s).io = s.io ∧
    (setService e on s).rw = s.rw ∧ (setService e on s).store = s.store ∧ (setService e on s).writes = s.writes ∧
    (setService e on s).free = s.free := by
  simp [setService]

@[simp] theorem leaveService_frame (e : Nat) (s : State) :
    (leaveService e s).pending = s.pending ∧ (leaveService e s).ident = s.ident ∧ (leaveService e s).sck = s.sck ∧
    (leaveService e s).pln = s.pln ∧ (leaveService e s).fe = s.fe ∧ (leaveService e s).key = s.key ∧
    (leaveService e s).rnu = s.rnu ∧ (leaveService e s).tls = s.tls ∧ (leaveService e s).ac = s.ac ∧
    (leaveService e s).tm = s.tm ∧ (leaveService e s).lcc = s.lcc ∧ (leaveService e s).stc = s.stc ∧
    (leaveService e s).pwr = s.pwr ∧ (leaveService e s).io = s.io ∧ (leaveService e s).rw = s.rw ∧
    (leaveService e s).store = s.store ∧ (leaveService e s).writes = s.writes ∧ (leaveService e s).free = s.free := by
  unfold leaveService
  split <;> simp

@[simp] theorem abortEngine_frame (e : Nat) (code : Nat) (s : State) :
    (abortEngine e code s).pending = s.pending ∧ (abortEngine e code s).ident = s.ident ∧ (abortEngine e code s).sck = s.sck ∧
    (abortEngine e code s).arc = s.arc ∧ (abortEngine e code s).pln = s.pln ∧ (abortEngine e code s).fe = s.fe ∧
    (abortEngine e code s).key = s.key ∧ (abortEngine e code s).rnu = s.rnu ∧ (abortEngine e code s).tls = s.tls ∧
    (abortEngine e code s).ac = s.ac ∧ (abortEngine e code s).tm = s.tm ∧ (abortEngine e code s).lcc = s.lcc ∧
    (abortEngine e code s).stc = s.stc ∧ (abortEngine e code s).pwr = s.pwr ∧ (abortEngine e code s).io = s.io ∧
    (abortEngine e code s).ev = s.ev ∧ (abortEngine e code s).rw = s.rw ∧ (abortEngine e code s).store = s.store ∧
    (abortEngine e code s).writes = s.writes ∧ (abortEngine e code s).free = s.free := by
  simp only [abortEngine]
  (repeat' split) <;> simp

@[simp] theorem engineFault_frame (e : Nat) (sub : Nat) (s : State) :
    (engineFault e sub s).pending = s.pending ∧ (engineFault e sub s).ident = s.ident ∧ (engineFault e sub s).sck = s.sck ∧
    (engineFault e sub s).ac = s.ac ∧ (engineFault e sub s).pwr = s.pwr ∧ (engineFault e sub s).rw = s.rw ∧
    (engineFault e sub s).store = s.store ∧ (engineFault e sub s).writes = s.writes ∧ (engineFault e sub s).free = s.free := by
  simp [engineFault, ite_pending, ite_ident, ite_sck, ite_ac, ite_pwr, ite_rw, ite_store, ite_writes, ite_free]

@[simp] theorem abortBy_frame (e : Nat) (cause : Nat) (s : State) :
    (abortBy e cause s).pending = s.pending ∧ (abortBy e cause s).ident = s.ident ∧ (abortBy e cause s).sck = s.sck ∧
    (abortBy e cause s).ac = s.ac ∧ (abortBy e cause s).pwr = s.pwr ∧ (abortBy e cause s).rw = s.rw ∧
    (abortBy e cause s).store = s.store ∧ (abortBy e cause s).writes = s.writes ∧ (abortBy e cause s).free = s.free := by
  simp only [abortBy]
  (repeat' split) <;> simp

@[simp] theorem takeQueued_frame (e : Nat) (s : State) :
    (takeQueued e s).pending = s.pending ∧ (takeQueued e s).ident = s.ident ∧ (takeQueued e s).sck = s.sck ∧
    (takeQueued e s).arc = s.arc ∧ (takeQueued e s).pln = s.pln ∧ (takeQueued e s).fe = s.fe ∧ (takeQueued e s).hif = s.hif ∧
    (takeQueued e s).ts = s.ts ∧ (takeQueued e s).key = s.key ∧ (takeQueued e s).rnu = s.rnu ∧ (takeQueued e s).tls = s.tls ∧
    (takeQueued e s).ac = s.ac ∧ (takeQueued e s).tm = s.tm ∧ (takeQueued e s).lcc = s.lcc ∧ (takeQueued e s).stc = s.stc ∧
    (takeQueued e s).pwr = s.pwr ∧ (takeQueued e s).io = s.io ∧ (takeQueued e s).ev = s.ev ∧ (takeQueued e s).rw = s.rw ∧
    (takeQueued e s).store = s.store ∧ (takeQueued e s).writes = s.writes ∧ (takeQueued e s).out = s.out ∧
    (takeQueued e s).free = s.free := by
  simp [takeQueued]

@[simp] theorem squareBlind_frame (op : PkeOp) (s : State) :
    (squareBlind op s).pending = s.pending ∧ (squareBlind op s).ident = s.ident ∧ (squareBlind op s).sck = s.sck ∧
    (squareBlind op s).arc = s.arc ∧ (squareBlind op s).pln = s.pln ∧ (squareBlind op s).fe = s.fe ∧
    (squareBlind op s).hif = s.hif ∧ (squareBlind op s).ts = s.ts ∧ (squareBlind op s).pke = s.pke ∧
    (squareBlind op s).rnu = s.rnu ∧ (squareBlind op s).tls = s.tls ∧ (squareBlind op s).ac = s.ac ∧
    (squareBlind op s).tm = s.tm ∧ (squareBlind op s).lcc = s.lcc ∧ (squareBlind op s).stc = s.stc ∧
    (squareBlind op s).pwr = s.pwr ∧ (squareBlind op s).io = s.io ∧ (squareBlind op s).ev = s.ev ∧
    (squareBlind op s).rw = s.rw ∧ (squareBlind op s).store = s.store ∧ (squareBlind op s).writes = s.writes ∧
    (squareBlind op s).out = s.out ∧ (squareBlind op s).free = s.free := by
  simp only [squareBlind]
  (repeat' split) <;> simp

@[simp] theorem endValidation_frame (e : Nat) (s : State) :
    (endValidation e s).pending = s.pending ∧ (endValidation e s).ident = s.ident ∧ (endValidation e s).sck = s.sck ∧
    (endValidation e s).arc = s.arc ∧ (endValidation e s).pln = s.pln ∧ (endValidation e s).fe = s.fe ∧
    (endValidation e s).rnu = s.rnu ∧ (endValidation e s).tls = s.tls ∧ (endValidation e s).ac = s.ac ∧
    (endValidation e s).tm = s.tm ∧ (endValidation e s).lcc = s.lcc ∧ (endValidation e s).stc = s.stc ∧
    (endValidation e s).pwr = s.pwr ∧ (endValidation e s).io = s.io ∧ (endValidation e s).ev = s.ev ∧
    (endValidation e s).rw = s.rw ∧ (endValidation e s).store = s.store ∧ (endValidation e s).writes = s.writes ∧
    (endValidation e s).free = s.free := by
  simp only [endValidation]
  (repeat' split) <;> simp

@[simp] theorem releaseOp_frame (op : PkeOp) (s : State) :
    (releaseOp op s).pending = s.pending ∧ (releaseOp op s).ident = s.ident ∧ (releaseOp op s).sck = s.sck ∧
    (releaseOp op s).arc = s.arc ∧ (releaseOp op s).pln = s.pln ∧ (releaseOp op s).fe = s.fe ∧ (releaseOp op s).key = s.key ∧
    (releaseOp op s).rnu = s.rnu ∧ (releaseOp op s).tls = s.tls ∧ (releaseOp op s).ac = s.ac ∧ (releaseOp op s).tm = s.tm ∧
    (releaseOp op s).lcc = s.lcc ∧ (releaseOp op s).stc = s.stc ∧ (releaseOp op s).pwr = s.pwr ∧ (releaseOp op s).io = s.io ∧
    (releaseOp op s).ev = s.ev ∧ (releaseOp op s).rw = s.rw ∧ (releaseOp op s).store = s.store ∧
    (releaseOp op s).writes = s.writes ∧ (releaseOp op s).free = s.free := by
  simp only [releaseOp]
  (repeat' split) <;> simp

@[simp] theorem runOn_frame (e : Nat) (op : Nat) (c0 : PkeCmd) (s : State) :
    (runOn e op c0 s).pending = s.pending ∧ (runOn e op c0 s).ident = s.ident ∧ (runOn e op c0 s).sck = s.sck ∧
    (runOn e op c0 s).ac = s.ac ∧ (runOn e op c0 s).pwr = s.pwr ∧ (runOn e op c0 s).rw = s.rw ∧
    (runOn e op c0 s).store = s.store ∧ (runOn e op c0 s).writes = s.writes := by
  simp [runOn, ite_pending, ite_ident, ite_sck, ite_ac, ite_pwr, ite_rw, ite_store, ite_writes]

/-! An operation given to an engine in another state leaves the fields in which the two states agree. -/

@[simp] theorem dispatchPke_pending (x : PkeOp) (s t : State) (h : t.pending = s.pending) : ((dispatchPke x t).after s).pending = s.pending := by
  rcases after_cases (dispatchPke x t) s t with e | e
  · rw [e]; simp [h]
  · simp [e.1]

@[simp] theorem dispatchPke_ident (x : PkeOp) (s t : State) (h : t.ident = s.ident) : ((dispatchPke x t).after s).ident = s.ident := by
  rcases after_cases (dispatchPke x t) s t with e | e
  · rw [e]; simp [h]
  · simp [e.1]

@[simp] theorem dispatchPke_sck (x : PkeOp) (s t : State) (h : t.sck = s.sck) : ((dispatchPke x t).after s).sck = s.sck := by
  rcases after_cases (dispatchPke x t) s t with e | e
  · rw [e]; simp [h]
  · simp [e.1]

@[simp] theorem dispatchPke_arc (x : PkeOp) (s t : State) (h : t.arc = s.arc) : ((dispatchPke x t).after s).arc = s.arc := by
  rcases after_cases (dispatchPke x t) s t with e | e
  · rw [e]; simp [h]
  · simp [e.1]

@[simp] theorem dispatchPke_pln (x : PkeOp) (s t : State) (h : t.pln = s.pln) : ((dispatchPke x t).after s).pln = s.pln := by
  rcases after_cases (dispatchPke x t) s t with e | e
  · rw [e]; simp [h]
  · simp [e.1]

@[simp] theorem dispatchPke_fe (x : PkeOp) (s t : State) (h : t.fe = s.fe) : ((dispatchPke x t).after s).fe = s.fe := by
  rcases after_cases (dispatchPke x t) s t with e | e
  · rw [e]; simp [h]
  · simp [e.1]

@[simp] theorem dispatchPke_ts (x : PkeOp) (s t : State) (h : t.ts = s.ts) : ((dispatchPke x t).after s).ts = s.ts := by
  rcases after_cases (dispatchPke x t) s t with e | e
  · rw [e]; simp [h]
  · simp [e.1]

@[simp] theorem dispatchPke_key (x : PkeOp) (s t : State) (h : t.key = s.key) : ((dispatchPke x t).after s).key = s.key := by
  rcases after_cases (dispatchPke x t) s t with e | e
  · rw [e]; simp [h]
  · simp [e.1]

@[simp] theorem dispatchPke_rnu (x : PkeOp) (s t : State) (h : t.rnu = s.rnu) : ((dispatchPke x t).after s).rnu = s.rnu := by
  rcases after_cases (dispatchPke x t) s t with e | e
  · rw [e]; simp [h]
  · simp [e.1]

@[simp] theorem dispatchPke_tls (x : PkeOp) (s t : State) (h : t.tls = s.tls) : ((dispatchPke x t).after s).tls = s.tls := by
  rcases after_cases (dispatchPke x t) s t with e | e
  · rw [e]; simp [h]
  · simp [e.1]

@[simp] theorem dispatchPke_ac (x : PkeOp) (s t : State) (h : t.ac = s.ac) : ((dispatchPke x t).after s).ac = s.ac := by
  rcases after_cases (dispatchPke x t) s t with e | e
  · rw [e]; simp [h]
  · simp [e.1]

@[simp] theorem dispatchPke_tm (x : PkeOp) (s t : State) (h : t.tm = s.tm) : ((dispatchPke x t).after s).tm = s.tm := by
  rcases after_cases (dispatchPke x t) s t with e | e
  · rw [e]; simp [h]
  · simp [e.1]

@[simp] theorem dispatchPke_lcc (x : PkeOp) (s t : State) (h : t.lcc = s.lcc) : ((dispatchPke x t).after s).lcc = s.lcc := by
  rcases after_cases (dispatchPke x t) s t with e | e
  · rw [e]; simp [h]
  · simp [e.1]

@[simp] theorem dispatchPke_stc (x : PkeOp) (s t : State) (h : t.stc = s.stc) : ((dispatchPke x t).after s).stc = s.stc := by
  rcases after_cases (dispatchPke x t) s t with e | e
  · rw [e]; simp [h]
  · simp [e.1]

@[simp] theorem dispatchPke_pwr (x : PkeOp) (s t : State) (h : t.pwr = s.pwr) : ((dispatchPke x t).after s).pwr = s.pwr := by
  rcases after_cases (dispatchPke x t) s t with e | e
  · rw [e]; simp [h]
  · simp [e.1]

@[simp] theorem dispatchPke_io (x : PkeOp) (s t : State) (h : t.io = s.io) : ((dispatchPke x t).after s).io = s.io := by
  rcases after_cases (dispatchPke x t) s t with e | e
  · rw [e]; simp [h]
  · simp [e.1]

@[simp] theorem dispatchPke_rw (x : PkeOp) (s t : State) (h : t.rw = s.rw) : ((dispatchPke x t).after s).rw = s.rw := by
  rcases after_cases (dispatchPke x t) s t with e | e
  · rw [e]; simp [h]
  · simp [e.1]

@[simp] theorem dispatchPke_store (x : PkeOp) (s t : State) (h : t.store = s.store) : ((dispatchPke x t).after s).store = s.store := by
  rcases after_cases (dispatchPke x t) s t with e | e
  · rw [e]; simp [h]
  · simp [e.1]

@[simp] theorem dispatchPke_writes (x : PkeOp) (s t : State) (h : t.writes = s.writes) : ((dispatchPke x t).after s).writes = s.writes := by
  rcases after_cases (dispatchPke x t) s t with e | e
  · rw [e]; simp [h]
  · simp [e.1]

@[simp] theorem dispatchPke_free (x : PkeOp) (s t : State) (h : t.free = s.free) : ((dispatchPke x t).after s).free = s.free := by
  rcases after_cases (dispatchPke x t) s t with e | e
  · rw [e]; simp [h]
  · simp [e.1]

end Sys2Proof.Machine
end

