-- ==== Sys2Proof/Laws/PkOps.lean ====
section
/-! SUPPORT. What the operations of Machine/PkOps.lean leave unchanged, once for each: its frame. -/

namespace Sys2Proof.Machine

@[simp] theorem signDrawn_frame (c : Curve) (d : Nat) (e : Nat) (fuel : Nat) (x1 : State) :
    (signDrawn c d e fuel x1).2.pending = x1.pending ∧ (signDrawn c d e fuel x1).2.ident = x1.ident ∧
    (signDrawn c d e fuel x1).2.sck = x1.sck ∧ (signDrawn c d e fuel x1).2.arc = x1.arc ∧
    (signDrawn c d e fuel x1).2.pln = x1.pln ∧ (signDrawn c d e fuel x1).2.fe = x1.fe ∧
    (signDrawn c d e fuel x1).2.hif = x1.hif ∧ (signDrawn c d e fuel x1).2.ts = x1.ts ∧
    (signDrawn c d e fuel x1).2.key = x1.key ∧ (signDrawn c d e fuel x1).2.pke = x1.pke ∧
    (signDrawn c d e fuel x1).2.tls = x1.tls ∧ (signDrawn c d e fuel x1).2.ac = x1.ac ∧
    (signDrawn c d e fuel x1).2.tm = x1.tm ∧ (signDrawn c d e fuel x1).2.lcc = x1.lcc ∧
    (signDrawn c d e fuel x1).2.stc = x1.stc ∧ (signDrawn c d e fuel x1).2.pwr = x1.pwr ∧
    (signDrawn c d e fuel x1).2.io = x1.io ∧ (signDrawn c d e fuel x1).2.ev = x1.ev ∧ (signDrawn c d e fuel x1).2.rw = x1.rw ∧
    (signDrawn c d e fuel x1).2.store = x1.store ∧ (signDrawn c d e fuel x1).2.writes = x1.writes ∧
    (signDrawn c d e fuel x1).2.out = x1.out := by
  induction fuel generalizing x1 with
  | zero => simp [signDrawn]
  | succ n ih => simp only [signDrawn]; split <;> simp [ih]

end Sys2Proof.Machine
end

