-- ==== Sys2Proof/Laws/SymOps.lean ====
section
/-! SUPPORT. What the operations of Machine/SymOps.lean leave unchanged, once for each: its frame. -/

namespace Sys2Proof.Machine

@[simp] theorem State.setSession_frame (n : Nat) (v : TlsSession) (s : State) :
    (State.setSession n v s).pending = s.pending ∧ (State.setSession n v s).ident = s.ident ∧
    (State.setSession n v s).sck = s.sck ∧ (State.setSession n v s).arc = s.arc ∧ (State.setSession n v s).pln = s.pln ∧
    (State.setSession n v s).fe = s.fe ∧ (State.setSession n v s).hif = s.hif ∧ (State.setSession n v s).ts = s.ts ∧
    (State.setSession n v s).key = s.key ∧ (State.setSession n v s).pke = s.pke ∧ (State.setSession n v s).rnu = s.rnu ∧
    (State.setSession n v s).ac = s.ac ∧ (State.setSession n v s).tm = s.tm ∧ (State.setSession n v s).lcc = s.lcc ∧
    (State.setSession n v s).stc = s.stc ∧ (State.setSession n v s).pwr = s.pwr ∧ (State.setSession n v s).io = s.io ∧
    (State.setSession n v s).ev = s.ev ∧ (State.setSession n v s).rw = s.rw ∧ (State.setSession n v s).store = s.store ∧
    (State.setSession n v s).writes = s.writes ∧ (State.setSession n v s).out = s.out ∧
    (State.setSession n v s).free = s.free := by
  simp [State.setSession]

@[simp] theorem deriveTraffic_frame (aes256 : Bool) (v : TlsSession) (s : State) :
    (deriveTraffic aes256 v s).2.pending = s.pending ∧ (deriveTraffic aes256 v s).2.ident = s.ident ∧
    (deriveTraffic aes256 v s).2.sck = s.sck ∧ (deriveTraffic aes256 v s).2.arc = s.arc ∧
    (deriveTraffic aes256 v s).2.pln = s.pln ∧ (deriveTraffic aes256 v s).2.fe = s.fe ∧
    (deriveTraffic aes256 v s).2.hif = s.hif ∧ (deriveTraffic aes256 v s).2.ts = s.ts ∧
    (deriveTraffic aes256 v s).2.key = s.key ∧ (deriveTraffic aes256 v s).2.pke = s.pke ∧
    (deriveTraffic aes256 v s).2.rnu = s.rnu ∧ (deriveTraffic aes256 v s).2.tls = s.tls ∧
    (deriveTraffic aes256 v s).2.ac = s.ac ∧ (deriveTraffic aes256 v s).2.tm = s.tm ∧
    (deriveTraffic aes256 v s).2.lcc = s.lcc ∧ (deriveTraffic aes256 v s).2.stc = s.stc ∧
    (deriveTraffic aes256 v s).2.pwr = s.pwr ∧ (deriveTraffic aes256 v s).2.io = s.io ∧
    (deriveTraffic aes256 v s).2.ev = s.ev ∧ (deriveTraffic aes256 v s).2.rw = s.rw ∧
    (deriveTraffic aes256 v s).2.store = s.store ∧ (deriveTraffic aes256 v s).2.writes = s.writes ∧
    (deriveTraffic aes256 v s).2.out = s.out := by
  simp [deriveTraffic]

end Sys2Proof.Machine
end

