-- ==== Sys2Proof/Laws/Access.lean ====
section
/-! SUPPORT. What the operations of Machine/Access.lean leave unchanged, once for each: its frame. -/

namespace Sys2Proof.Machine

@[simp] theorem journalDenial_frame (x : Access) (a : Nat) (s : State) :
    (journalDenial x a s).pending = s.pending ∧ (journalDenial x a s).ident = s.ident ∧ (journalDenial x a s).sck = s.sck ∧
    (journalDenial x a s).pwr = s.pwr ∧ (journalDenial x a s).rw = s.rw ∧ (journalDenial x a s).store = s.store ∧
    (journalDenial x a s).writes = s.writes ∧ (journalDenial x a s).free = s.free := by
  simp [journalDenial, ite_pending, ite_ident, ite_sck, ite_pwr, ite_rw, ite_store, ite_writes, ite_free]

@[simp] theorem endDenied_frame (i : WorkItem) (s : State) :
    (endDenied i s).pending = s.pending ∧ (endDenied i s).ident = s.ident ∧ (endDenied i s).sck = s.sck ∧
    (endDenied i s).pln = s.pln ∧ (endDenied i s).fe = s.fe ∧ (endDenied i s).key = s.key ∧ (endDenied i s).pke = s.pke ∧
    (endDenied i s).rnu = s.rnu ∧ (endDenied i s).tls = s.tls ∧ (endDenied i s).ac = s.ac ∧ (endDenied i s).tm = s.tm ∧
    (endDenied i s).lcc = s.lcc ∧ (endDenied i s).stc = s.stc ∧ (endDenied i s).pwr = s.pwr ∧ (endDenied i s).io = s.io ∧
    (endDenied i s).ev = s.ev ∧ (endDenied i s).rw = s.rw ∧ (endDenied i s).store = s.store ∧
    (endDenied i s).writes = s.writes ∧ (endDenied i s).free = s.free := by
  simp only [endDenied]
  (repeat' split) <;> simp

@[simp] theorem denyCore_frame (core : Nat) (s : State) :
    (denyCore core s).pending = s.pending ∧ (denyCore core s).ident = s.ident ∧ (denyCore core s).sck = s.sck ∧
    (denyCore core s).pln = s.pln ∧ (denyCore core s).fe = s.fe ∧ (denyCore core s).key = s.key ∧
    (denyCore core s).rnu = s.rnu ∧ (denyCore core s).tls = s.tls ∧ (denyCore core s).ac = s.ac ∧ (denyCore core s).tm = s.tm ∧
    (denyCore core s).lcc = s.lcc ∧ (denyCore core s).stc = s.stc ∧ (denyCore core s).pwr = s.pwr ∧
    (denyCore core s).io = s.io ∧ (denyCore core s).rw = s.rw ∧ (denyCore core s).store = s.store ∧
    (denyCore core s).writes = s.writes ∧ (denyCore core s).free = s.free := by
  simp only [denyCore]
  (repeat' split) <;> simp

@[simp] theorem denyConsequence_frame (x : Access) (a : Nat) (s : State) :
    (denyConsequence x a s).pending = s.pending ∧ (denyConsequence x a s).ident = s.ident ∧
    (denyConsequence x a s).sck = s.sck ∧ (denyConsequence x a s).ac = s.ac ∧ (denyConsequence x a s).pwr = s.pwr ∧
    (denyConsequence x a s).rw = s.rw ∧ (denyConsequence x a s).store = s.store ∧ (denyConsequence x a s).writes = s.writes ∧
    (denyConsequence x a s).free = s.free := by
  simp only [denyConsequence]
  (repeat' split) <;> simp

@[simp] theorem deny_frame (x : Access) (a : Nat) (s : State) :
    (deny x a s).pending = s.pending ∧ (deny x a s).ident = s.ident ∧ (deny x a s).sck = s.sck ∧ (deny x a s).pwr = s.pwr ∧
    (deny x a s).rw = s.rw ∧ (deny x a s).store = s.store ∧ (deny x a s).writes = s.writes ∧ (deny x a s).free = s.free := by
  simp [deny]

@[simp] theorem runPieces_frame (x : Access) (x1 : List (Nat × Nat)) (x2 : State) :
    (runPieces x x1 x2).pending = x2.pending ∧ (runPieces x x1 x2).ident = x2.ident ∧ (runPieces x x1 x2).sck = x2.sck ∧
    (runPieces x x1 x2).pwr = x2.pwr ∧ (runPieces x x1 x2).rw = x2.rw ∧ (runPieces x x1 x2).store = x2.store ∧
    (runPieces x x1 x2).writes = x2.writes ∧ (runPieces x x1 x2).free = x2.free := by
  induction x1 generalizing x x2 with
  | nil => simp [runPieces]
  | cons c l ih => (simp only [runPieces]; (repeat' split) <;> simp [ih])

@[simp] theorem accessNow_frame (x : Access) (s : State) :
    (accessNow x s).pending = s.pending ∧ (accessNow x s).ident = s.ident ∧ (accessNow x s).sck = s.sck ∧
    (accessNow x s).pwr = s.pwr ∧ (accessNow x s).rw = s.rw ∧ (accessNow x s).store = s.store ∧
    (accessNow x s).writes = s.writes ∧ (accessNow x s).free = s.free := by
  simp [accessNow]

@[simp] theorem access_frame (x : Access) (s : State) :
    (access x s).pending = s.pending ∧ (access x s).ident = s.ident ∧ (access x s).sck = s.sck ∧ (access x s).pwr = s.pwr ∧
    (access x s).rw = s.rw ∧ (access x s).store = s.store ∧ (access x s).writes = s.writes ∧ (access x s).free = s.free := by
  simp [access, ite_pending, ite_ident, ite_sck, ite_pwr, ite_rw, ite_store, ite_writes, ite_free]

@[simp] theorem runHeld_frame (x1 : List Access) (x2 : State) :
    (runHeld x1 x2).pending = x2.pending ∧ (runHeld x1 x2).ident = x2.ident ∧ (runHeld x1 x2).sck = x2.sck ∧
    (runHeld x1 x2).pwr = x2.pwr ∧ (runHeld x1 x2).rw = x2.rw ∧ (runHeld x1 x2).store = x2.store ∧
    (runHeld x1 x2).writes = x2.writes ∧ (runHeld x1 x2).free = x2.free := by
  induction x1 generalizing x2 with
  | nil => simp [runHeld]
  | cons c l ih => (simp only [runHeld, ih]; simp)

@[simp] theorem openWaiting_frame (s : State) :
    (openWaiting s).pending = s.pending ∧ (openWaiting s).ident = s.ident ∧ (openWaiting s).sck = s.sck ∧
    (openWaiting s).arc = s.arc ∧ (openWaiting s).pln = s.pln ∧ (openWaiting s).fe = s.fe ∧ (openWaiting s).hif = s.hif ∧
    (openWaiting s).ts = s.ts ∧ (openWaiting s).key = s.key ∧ (openWaiting s).pke = s.pke ∧ (openWaiting s).rnu = s.rnu ∧
    (openWaiting s).tls = s.tls ∧ (openWaiting s).tm = s.tm ∧ (openWaiting s).lcc = s.lcc ∧ (openWaiting s).stc = s.stc ∧
    (openWaiting s).pwr = s.pwr ∧ (openWaiting s).io = s.io ∧ (openWaiting s).ev = s.ev ∧ (openWaiting s).rw = s.rw ∧
    (openWaiting s).store = s.store ∧ (openWaiting s).writes = s.writes ∧ (openWaiting s).out = s.out ∧
    (openWaiting s).free = s.free := by
  simp [openWaiting]

@[simp] theorem afterUpdate_frame (s : State) :
    (afterUpdate s).pending = s.pending ∧ (afterUpdate s).ident = s.ident ∧ (afterUpdate s).sck = s.sck ∧
    (afterUpdate s).pwr = s.pwr ∧ (afterUpdate s).rw = s.rw ∧ (afterUpdate s).store = s.store ∧
    (afterUpdate s).writes = s.writes ∧ (afterUpdate s).free = s.free := by
  simp [afterUpdate]

@[simp] theorem abortUpdate_frame (u : Update) (s : State) :
    (abortUpdate u s).pending = s.pending ∧ (abortUpdate u s).ident = s.ident ∧ (abortUpdate u s).sck = s.sck ∧
    (abortUpdate u s).pwr = s.pwr ∧ (abortUpdate u s).rw = s.rw ∧ (abortUpdate u s).store = s.store ∧
    (abortUpdate u s).writes = s.writes ∧ (abortUpdate u s).free = s.free := by
  simp [abortUpdate]

end Sys2Proof.Machine
end

