-- ==== Sys2Proof/Laws/Copies.lean ====
section
/-! SUPPORT. What the operations of Machine/Copies.lean leave unchanged, once for each: its frame. -/

namespace Sys2Proof.Machine

@[simp] theorem State.updRt_frame (n : Nat) (old : Bool) (g : EntryRt → EntryRt) (s : State) :
    (State.updRt n old g s).pending = s.pending ∧ (State.updRt n old g s).ident = s.ident ∧
    (State.updRt n old g s).sck = s.sck ∧ (State.updRt n old g s).arc = s.arc ∧ (State.updRt n old g s).pln = s.pln ∧
    (State.updRt n old g s).hif = s.hif ∧ (State.updRt n old g s).ts = s.ts ∧ (State.updRt n old g s).key = s.key ∧
    (State.updRt n old g s).pke = s.pke ∧ (State.updRt n old g s).rnu = s.rnu ∧ (State.updRt n old g s).tls = s.tls ∧
    (State.updRt n old g s).ac = s.ac ∧ (State.updRt n old g s).tm = s.tm ∧ (State.updRt n old g s).lcc = s.lcc ∧
    (State.updRt n old g s).stc = s.stc ∧ (State.updRt n old g s).pwr = s.pwr ∧ (State.updRt n old g s).io = s.io ∧
    (State.updRt n old g s).ev = s.ev ∧ (State.updRt n old g s).rw = s.rw ∧ (State.updRt n old g s).store = s.store ∧
    (State.updRt n old g s).writes = s.writes ∧ (State.updRt n old g s).out = s.out ∧ (State.updRt n old g s).free = s.free := by
  simp [State.updRt, ite_pending, ite_ident, ite_sck, ite_arc, ite_pln, ite_hif, ite_ts, ite_key, ite_pke, ite_rnu, ite_tls, ite_ac, ite_tm, ite_lcc, ite_stc, ite_pwr, ite_io, ite_ev, ite_rw, ite_store, ite_writes, ite_out, ite_free]

@[simp] theorem State.updCounters_frame (n : Nat) (old : Bool) (g : List Nat → List Nat) (s : State) :
    (State.updCounters n old g s).pending = s.pending ∧ (State.updCounters n old g s).ident = s.ident ∧
    (State.updCounters n old g s).sck = s.sck ∧ (State.updCounters n old g s).arc = s.arc ∧
    (State.updCounters n old g s).pln = s.pln ∧ (State.updCounters n old g s).hif = s.hif ∧
    (State.updCounters n old g s).ts = s.ts ∧ (State.updCounters n old g s).key = s.key ∧
    (State.updCounters n old g s).pke = s.pke ∧ (State.updCounters n old g s).rnu = s.rnu ∧
    (State.updCounters n old g s).tls = s.tls ∧ (State.updCounters n old g s).ac = s.ac ∧
    (State.updCounters n old g s).tm = s.tm ∧ (State.updCounters n old g s).lcc = s.lcc ∧
    (State.updCounters n old g s).stc = s.stc ∧ (State.updCounters n old g s).pwr = s.pwr ∧
    (State.updCounters n old g s).io = s.io ∧ (State.updCounters n old g s).ev = s.ev ∧
    (State.updCounters n old g s).rw = s.rw ∧ (State.updCounters n old g s).store = s.store ∧
    (State.updCounters n old g s).writes = s.writes ∧ (State.updCounters n old g s).out = s.out ∧
    (State.updCounters n old g s).free = s.free := by
  simp [State.updCounters, ite_pending, ite_ident, ite_sck, ite_arc, ite_pln, ite_hif, ite_ts, ite_key, ite_pke, ite_rnu, ite_tls, ite_ac, ite_tm, ite_lcc, ite_stc, ite_pwr, ite_io, ite_ev, ite_rw, ite_store, ite_writes, ite_out, ite_free]

@[simp] theorem bumpStream_frame (n : Nat) (old : Bool) (i : Nat) (s : State) :
    (bumpStream n old i s).pending = s.pending ∧ (bumpStream n old i s).ident = s.ident ∧ (bumpStream n old i s).sck = s.sck ∧
    (bumpStream n old i s).arc = s.arc ∧ (bumpStream n old i s).pln = s.pln ∧ (bumpStream n old i s).hif = s.hif ∧
    (bumpStream n old i s).ts = s.ts ∧ (bumpStream n old i s).key = s.key ∧ (bumpStream n old i s).pke = s.pke ∧
    (bumpStream n old i s).rnu = s.rnu ∧ (bumpStream n old i s).tls = s.tls ∧ (bumpStream n old i s).ac = s.ac ∧
    (bumpStream n old i s).tm = s.tm ∧ (bumpStream n old i s).lcc = s.lcc ∧ (bumpStream n old i s).stc = s.stc ∧
    (bumpStream n old i s).pwr = s.pwr ∧ (bumpStream n old i s).io = s.io ∧ (bumpStream n old i s).ev = s.ev ∧
    (bumpStream n old i s).rw = s.rw ∧ (bumpStream n old i s).store = s.store ∧ (bumpStream n old i s).writes = s.writes ∧
    (bumpStream n old i s).out = s.out ∧ (bumpStream n old i s).free = s.free := by
  simp [bumpStream]

@[simp] theorem counterError_frame (n : Nat) (old : Bool) (s : State) :
    (counterError n old s).pending = s.pending ∧ (counterError n old s).ident = s.ident ∧ (counterError n old s).sck = s.sck ∧
    (counterError n old s).pln = s.pln ∧ (counterError n old s).ts = s.ts ∧ (counterError n old s).key = s.key ∧
    (counterError n old s).pke = s.pke ∧ (counterError n old s).rnu = s.rnu ∧ (counterError n old s).tls = s.tls ∧
    (counterError n old s).ac = s.ac ∧ (counterError n old s).tm = s.tm ∧ (counterError n old s).lcc = s.lcc ∧
    (counterError n old s).stc = s.stc ∧ (counterError n old s).pwr = s.pwr ∧ (counterError n old s).io = s.io ∧
    (counterError n old s).rw = s.rw ∧ (counterError n old s).store = s.store ∧ (counterError n old s).writes = s.writes ∧
    (counterError n old s).free = s.free := by
  simp only [counterError]
  (repeat' split) <;> simp

@[simp] theorem takeCapture_frame (log : Nat) (f : Nat) (group : Nat) (stamp : Nat) (bytes : Nat) (s : State) :
    (takeCapture log f group stamp bytes s).2.pending = s.pending ∧ (takeCapture log f group stamp bytes s).2.ident = s.ident ∧
    (takeCapture log f group stamp bytes s).2.sck = s.sck ∧ (takeCapture log f group stamp bytes s).2.pln = s.pln ∧
    (takeCapture log f group stamp bytes s).2.fe = s.fe ∧ (takeCapture log f group stamp bytes s).2.hif = s.hif ∧
    (takeCapture log f group stamp bytes s).2.ts = s.ts ∧ (takeCapture log f group stamp bytes s).2.key = s.key ∧
    (takeCapture log f group stamp bytes s).2.pke = s.pke ∧ (takeCapture log f group stamp bytes s).2.rnu = s.rnu ∧
    (takeCapture log f group stamp bytes s).2.tls = s.tls ∧ (takeCapture log f group stamp bytes s).2.ac = s.ac ∧
    (takeCapture log f group stamp bytes s).2.tm = s.tm ∧ (takeCapture log f group stamp bytes s).2.lcc = s.lcc ∧
    (takeCapture log f group stamp bytes s).2.stc = s.stc ∧ (takeCapture log f group stamp bytes s).2.pwr = s.pwr ∧
    (takeCapture log f group stamp bytes s).2.io = s.io ∧ (takeCapture log f group stamp bytes s).2.ev = s.ev ∧
    (takeCapture log f group stamp bytes s).2.rw = s.rw ∧ (takeCapture log f group stamp bytes s).2.store = s.store ∧
    (takeCapture log f group stamp bytes s).2.writes = s.writes ∧ (takeCapture log f group stamp bytes s).2.out = s.out ∧
    (takeCapture log f group stamp bytes s).2.free = s.free := by
  simp only [takeCapture]
  (repeat' split) <;> simp

@[simp] theorem takeCaptures_frame (ring : Bool) (window : Bool) (f : Nat) (group : Nat) (stamp : Nat) (bytes : Nat) (s : State) :
    (takeCaptures ring window f group stamp bytes s).2.2.pending = s.pending ∧
    (takeCaptures ring window f group stamp bytes s).2.2.ident = s.ident ∧
    (takeCaptures ring window f group stamp bytes s).2.2.sck = s.sck ∧
    (takeCaptures ring window f group stamp bytes s).2.2.pln = s.pln ∧
    (takeCaptures ring window f group stamp bytes s).2.2.fe = s.fe ∧
    (takeCaptures ring window f group stamp bytes s).2.2.hif = s.hif ∧
    (takeCaptures ring window f group stamp bytes s).2.2.ts = s.ts ∧
    (takeCaptures ring window f group stamp bytes s).2.2.key = s.key ∧
    (takeCaptures ring window f group stamp bytes s).2.2.pke = s.pke ∧
    (takeCaptures ring window f group stamp bytes s).2.2.rnu = s.rnu ∧
    (takeCaptures ring window f group stamp bytes s).2.2.tls = s.tls ∧
    (takeCaptures ring window f group stamp bytes s).2.2.ac = s.ac ∧
    (takeCaptures ring window f group stamp bytes s).2.2.tm = s.tm ∧
    (takeCaptures ring window f group stamp bytes s).2.2.lcc = s.lcc ∧
    (takeCaptures ring window f group stamp bytes s).2.2.stc = s.stc ∧
    (takeCaptures ring window f group stamp bytes s).2.2.pwr = s.pwr ∧
    (takeCaptures ring window f group stamp bytes s).2.2.io = s.io ∧
    (takeCaptures ring window f group stamp bytes s).2.2.ev = s.ev ∧
    (takeCaptures ring window f group stamp bytes s).2.2.rw = s.rw ∧
    (takeCaptures ring window f group stamp bytes s).2.2.store = s.store ∧
    (takeCaptures ring window f group stamp bytes s).2.2.writes = s.writes ∧
    (takeCaptures ring window f group stamp bytes s).2.2.out = s.out ∧
    (takeCaptures ring window f group stamp bytes s).2.2.free = s.free := by
  simp only [takeCaptures]
  (repeat' split) <;> simp

@[simp] theorem stageCaptures_frame (ring : Bool) (window : Bool) (owner : Nat) (group : Nat) (quality : Nat) (stamp : Nat) (body : RecBody) (s : State) :
    (stageCaptures ring window owner group quality stamp body s).pending = s.pending ∧
    (stageCaptures ring window owner group quality stamp body s).ident = s.ident ∧
    (stageCaptures ring window owner group quality stamp body s).sck = s.sck ∧
    (stageCaptures ring window owner group quality stamp body s).pln = s.pln ∧
    (stageCaptures ring window owner group quality stamp body s).fe = s.fe ∧
    (stageCaptures ring window owner group quality stamp body s).hif = s.hif ∧
    (stageCaptures ring window owner group quality stamp body s).ts = s.ts ∧
    (stageCaptures ring window owner group quality stamp body s).key = s.key ∧
    (stageCaptures ring window owner group quality stamp body s).pke = s.pke ∧
    (stageCaptures ring window owner group quality stamp body s).rnu = s.rnu ∧
    (stageCaptures ring window owner group quality stamp body s).tls = s.tls ∧
    (stageCaptures ring window owner group quality stamp body s).ac = s.ac ∧
    (stageCaptures ring window owner group quality stamp body s).tm = s.tm ∧
    (stageCaptures ring window owner group quality stamp body s).lcc = s.lcc ∧
    (stageCaptures ring window owner group quality stamp body s).stc = s.stc ∧
    (stageCaptures ring window owner group quality stamp body s).pwr = s.pwr ∧
    (stageCaptures ring window owner group quality stamp body s).io = s.io ∧
    (stageCaptures ring window owner group quality stamp body s).ev = s.ev ∧
    (stageCaptures ring window owner group quality stamp body s).rw = s.rw ∧
    (stageCaptures ring window owner group quality stamp body s).store = s.store ∧
    (stageCaptures ring window owner group quality stamp body s).writes = s.writes ∧
    (stageCaptures ring window owner group quality stamp body s).out = s.out ∧
    (stageCaptures ring window owner group quality stamp body s).free = s.free := by
  simp [stageCaptures, ite_pending, ite_ident, ite_sck, ite_pln, ite_fe, ite_hif, ite_ts, ite_key, ite_pke, ite_rnu, ite_tls, ite_ac, ite_tm, ite_lcc, ite_stc, ite_pwr, ite_io, ite_ev, ite_rw, ite_store, ite_writes, ite_out, ite_free]

@[simp] theorem finishFrame_frame (fr : TxFrame) (s : State) :
    (finishFrame fr s).pending = s.pending ∧ (finishFrame fr s).ident = s.ident ∧ (finishFrame fr s).sck = s.sck ∧
    (finishFrame fr s).pln = s.pln ∧ (finishFrame fr s).key = s.key ∧ (finishFrame fr s).pke = s.pke ∧
    (finishFrame fr s).rnu = s.rnu ∧ (finishFrame fr s).tls = s.tls ∧ (finishFrame fr s).ac = s.ac ∧
    (finishFrame fr s).tm = s.tm ∧ (finishFrame fr s).lcc = s.lcc ∧ (finishFrame fr s).stc = s.stc ∧
    (finishFrame fr s).pwr = s.pwr ∧ (finishFrame fr s).io = s.io ∧ (finishFrame fr s).ev = s.ev ∧
    (finishFrame fr s).rw = s.rw ∧ (finishFrame fr s).store = s.store ∧ (finishFrame fr s).writes = s.writes ∧
    (finishFrame fr s).free = s.free := by
  simp only [finishFrame]
  (repeat' split) <;> simp

@[simp] theorem dequeue_frame (c : TxCopy) (s : State) :
    (dequeue c s).pending = s.pending ∧ (dequeue c s).ident = s.ident ∧ (dequeue c s).sck = s.sck ∧ (dequeue c s).arc = s.arc ∧
    (dequeue c s).pln = s.pln ∧ (dequeue c s).hif = s.hif ∧ (dequeue c s).ts = s.ts ∧ (dequeue c s).key = s.key ∧
    (dequeue c s).pke = s.pke ∧ (dequeue c s).rnu = s.rnu ∧ (dequeue c s).tls = s.tls ∧ (dequeue c s).ac = s.ac ∧
    (dequeue c s).tm = s.tm ∧ (dequeue c s).lcc = s.lcc ∧ (dequeue c s).stc = s.stc ∧ (dequeue c s).pwr = s.pwr ∧
    (dequeue c s).io = s.io ∧ (dequeue c s).ev = s.ev ∧ (dequeue c s).rw = s.rw ∧ (dequeue c s).store = s.store ∧
    (dequeue c s).writes = s.writes ∧ (dequeue c s).out = s.out ∧ (dequeue c s).free = s.free := by
  simp [dequeue]

@[simp] theorem endCopy_frame (c : TxCopy) (fr : TxFrame) (d : CopyDesc) (s : State) :
    (endCopy c fr d s).pending = s.pending ∧ (endCopy c fr d s).ident = s.ident ∧ (endCopy c fr d s).sck = s.sck ∧
    (endCopy c fr d s).pln = s.pln ∧ (endCopy c fr d s).key = s.key ∧ (endCopy c fr d s).pke = s.pke ∧
    (endCopy c fr d s).rnu = s.rnu ∧ (endCopy c fr d s).tls = s.tls ∧ (endCopy c fr d s).ac = s.ac ∧
    (endCopy c fr d s).tm = s.tm ∧ (endCopy c fr d s).lcc = s.lcc ∧ (endCopy c fr d s).stc = s.stc ∧
    (endCopy c fr d s).pwr = s.pwr ∧ (endCopy c fr d s).io = s.io ∧ (endCopy c fr d s).ev = s.ev ∧
    (endCopy c fr d s).rw = s.rw ∧ (endCopy c fr d s).store = s.store ∧ (endCopy c fr d s).writes = s.writes ∧
    (endCopy c fr d s).free = s.free := by
  simp [endCopy, ite_pending, ite_ident, ite_sck, ite_pln, ite_key, ite_pke, ite_rnu, ite_tls, ite_ac, ite_tm, ite_lcc, ite_stc, ite_pwr, ite_io, ite_ev, ite_rw, ite_store, ite_writes, ite_free]

@[simp] theorem missDeadline_frame (fr : TxFrame) (port : Nat) (stamp : Nat) (dropped : Bool) (s : State) :
    (missDeadline fr port stamp dropped s).pending = s.pending ∧ (missDeadline fr port stamp dropped s).ident = s.ident ∧
    (missDeadline fr port stamp dropped s).sck = s.sck ∧ (missDeadline fr port stamp dropped s).pln = s.pln ∧
    (missDeadline fr port stamp dropped s).ts = s.ts ∧ (missDeadline fr port stamp dropped s).key = s.key ∧
    (missDeadline fr port stamp dropped s).pke = s.pke ∧ (missDeadline fr port stamp dropped s).rnu = s.rnu ∧
    (missDeadline fr port stamp dropped s).tls = s.tls ∧ (missDeadline fr port stamp dropped s).ac = s.ac ∧
    (missDeadline fr port stamp dropped s).tm = s.tm ∧ (missDeadline fr port stamp dropped s).lcc = s.lcc ∧
    (missDeadline fr port stamp dropped s).stc = s.stc ∧ (missDeadline fr port stamp dropped s).pwr = s.pwr ∧
    (missDeadline fr port stamp dropped s).io = s.io ∧ (missDeadline fr port stamp dropped s).rw = s.rw ∧
    (missDeadline fr port stamp dropped s).store = s.store ∧ (missDeadline fr port stamp dropped s).writes = s.writes ∧
    (missDeadline fr port stamp dropped s).free = s.free := by
  simp [missDeadline, ite_pending, ite_ident, ite_sck, ite_pln, ite_ts, ite_key, ite_pke, ite_rnu, ite_tls, ite_ac, ite_tm, ite_lcc, ite_stc, ite_pwr, ite_io, ite_rw, ite_store, ite_writes, ite_free]

@[simp] theorem noteResidence_frame (fr : TxFrame) (stamp : Nat) (s : State) :
    (noteResidence fr stamp s).pending = s.pending ∧ (noteResidence fr stamp s).ident = s.ident ∧
    (noteResidence fr stamp s).sck = s.sck ∧ (noteResidence fr stamp s).arc = s.arc ∧ (noteResidence fr stamp s).pln = s.pln ∧
    (noteResidence fr stamp s).hif = s.hif ∧ (noteResidence fr stamp s).ts = s.ts ∧ (noteResidence fr stamp s).key = s.key ∧
    (noteResidence fr stamp s).pke = s.pke ∧ (noteResidence fr stamp s).rnu = s.rnu ∧ (noteResidence fr stamp s).tls = s.tls ∧
    (noteResidence fr stamp s).ac = s.ac ∧ (noteResidence fr stamp s).tm = s.tm ∧ (noteResidence fr stamp s).lcc = s.lcc ∧
    (noteResidence fr stamp s).stc = s.stc ∧ (noteResidence fr stamp s).pwr = s.pwr ∧ (noteResidence fr stamp s).io = s.io ∧
    (noteResidence fr stamp s).ev = s.ev ∧ (noteResidence fr stamp s).rw = s.rw ∧ (noteResidence fr stamp s).store = s.store ∧
    (noteResidence fr stamp s).writes = s.writes ∧ (noteResidence fr stamp s).out = s.out ∧
    (noteResidence fr stamp s).free = s.free := by
  simp [noteResidence]

@[simp] theorem discardLate_frame (c : TxCopy) (fr : TxFrame) (s : State) :
    (discardLate c fr s).pending = s.pending ∧ (discardLate c fr s).ident = s.ident ∧ (discardLate c fr s).sck = s.sck ∧
    (discardLate c fr s).pln = s.pln ∧ (discardLate c fr s).key = s.key ∧ (discardLate c fr s).pke = s.pke ∧
    (discardLate c fr s).rnu = s.rnu ∧ (discardLate c fr s).tls = s.tls ∧ (discardLate c fr s).ac = s.ac ∧
    (discardLate c fr s).tm = s.tm ∧ (discardLate c fr s).lcc = s.lcc ∧ (discardLate c fr s).stc = s.stc ∧
    (discardLate c fr s).pwr = s.pwr ∧ (discardLate c fr s).io = s.io ∧ (discardLate c fr s).rw = s.rw ∧
    (discardLate c fr s).store = s.store ∧ (discardLate c fr s).writes = s.writes ∧ (discardLate c fr s).free = s.free := by
  simp [discardLate]

@[simp] theorem losePort_frame (counter : Nat) (c : TxCopy) (fr : TxFrame) (s : State) :
    (losePort counter c fr s).pending = s.pending ∧ (losePort counter c fr s).ident = s.ident ∧
    (losePort counter c fr s).sck = s.sck ∧ (losePort counter c fr s).pln = s.pln ∧ (losePort counter c fr s).key = s.key ∧
    (losePort counter c fr s).pke = s.pke ∧ (losePort counter c fr s).rnu = s.rnu ∧ (losePort counter c fr s).tls = s.tls ∧
    (losePort counter c fr s).ac = s.ac ∧ (losePort counter c fr s).tm = s.tm ∧ (losePort counter c fr s).lcc = s.lcc ∧
    (losePort counter c fr s).stc = s.stc ∧ (losePort counter c fr s).pwr = s.pwr ∧ (losePort counter c fr s).io = s.io ∧
    (losePort counter c fr s).ev = s.ev ∧ (losePort counter c fr s).rw = s.rw ∧ (losePort counter c fr s).store = s.store ∧
    (losePort counter c fr s).writes = s.writes ∧ (losePort counter c fr s).free = s.free := by
  simp [losePort]

@[simp] theorem discardAll_frame (x1 : List TxCopy) (x2 : State) :
    (discardAll x1 x2).pending = x2.pending ∧ (discardAll x1 x2).ident = x2.ident ∧ (discardAll x1 x2).sck = x2.sck ∧
    (discardAll x1 x2).pln = x2.pln ∧ (discardAll x1 x2).key = x2.key ∧ (discardAll x1 x2).pke = x2.pke ∧
    (discardAll x1 x2).rnu = x2.rnu ∧ (discardAll x1 x2).tls = x2.tls ∧ (discardAll x1 x2).ac = x2.ac ∧
    (discardAll x1 x2).tm = x2.tm ∧ (discardAll x1 x2).lcc = x2.lcc ∧ (discardAll x1 x2).stc = x2.stc ∧
    (discardAll x1 x2).pwr = x2.pwr ∧ (discardAll x1 x2).io = x2.io ∧ (discardAll x1 x2).rw = x2.rw ∧
    (discardAll x1 x2).store = x2.store ∧ (discardAll x1 x2).writes = x2.writes ∧ (discardAll x1 x2).free = x2.free := by
  induction x1 generalizing x2 with
  | nil => simp [discardAll]
  | cons c l ih => (simp only [discardAll, ih]; (repeat' split) <;> simp)

@[simp] theorem loseWaiting_frame (counter : Nat) (c : TxCopy) (s : State) :
    (loseWaiting counter c s).pending = s.pending ∧ (loseWaiting counter c s).ident = s.ident ∧
    (loseWaiting counter c s).sck = s.sck ∧ (loseWaiting counter c s).pln = s.pln ∧ (loseWaiting counter c s).key = s.key ∧
    (loseWaiting counter c s).pke = s.pke ∧ (loseWaiting counter c s).rnu = s.rnu ∧ (loseWaiting counter c s).tls = s.tls ∧
    (loseWaiting counter c s).ac = s.ac ∧ (loseWaiting counter c s).tm = s.tm ∧ (loseWaiting counter c s).lcc = s.lcc ∧
    (loseWaiting counter c s).stc = s.stc ∧ (loseWaiting counter c s).pwr = s.pwr ∧ (loseWaiting counter c s).io = s.io ∧
    (loseWaiting counter c s).ev = s.ev ∧ (loseWaiting counter c s).rw = s.rw ∧ (loseWaiting counter c s).store = s.store ∧
    (loseWaiting counter c s).writes = s.writes ∧ (loseWaiting counter c s).free = s.free := by
  simp only [loseWaiting]
  (repeat' split) <;> simp

@[simp] theorem loseAll_frame (counter : Nat) (x1 : List TxCopy) (x2 : State) :
    (loseAll counter x1 x2).pending = x2.pending ∧ (loseAll counter x1 x2).ident = x2.ident ∧
    (loseAll counter x1 x2).sck = x2.sck ∧ (loseAll counter x1 x2).pln = x2.pln ∧ (loseAll counter x1 x2).key = x2.key ∧
    (loseAll counter x1 x2).pke = x2.pke ∧ (loseAll counter x1 x2).rnu = x2.rnu ∧ (loseAll counter x1 x2).tls = x2.tls ∧
    (loseAll counter x1 x2).ac = x2.ac ∧ (loseAll counter x1 x2).tm = x2.tm ∧ (loseAll counter x1 x2).lcc = x2.lcc ∧
    (loseAll counter x1 x2).stc = x2.stc ∧ (loseAll counter x1 x2).pwr = x2.pwr ∧ (loseAll counter x1 x2).io = x2.io ∧
    (loseAll counter x1 x2).ev = x2.ev ∧ (loseAll counter x1 x2).rw = x2.rw ∧ (loseAll counter x1 x2).store = x2.store ∧
    (loseAll counter x1 x2).writes = x2.writes ∧ (loseAll counter x1 x2).free = x2.free := by
  induction x1 generalizing counter x2 with
  | nil => simp [loseAll]
  | cons c l ih => (simp only [loseAll, ih]; simp)

@[simp] theorem lateMacsec_frame (c : TxCopy) (bytes : Bytes) (s : State) :
    (lateMacsec c bytes s).2.pending = s.pending ∧ (lateMacsec c bytes s).2.ident = s.ident ∧
    (lateMacsec c bytes s).2.sck = s.sck ∧ (lateMacsec c bytes s).2.arc = s.arc ∧ (lateMacsec c bytes s).2.pln = s.pln ∧
    (lateMacsec c bytes s).2.hif = s.hif ∧ (lateMacsec c bytes s).2.ts = s.ts ∧ (lateMacsec c bytes s).2.key = s.key ∧
    (lateMacsec c bytes s).2.pke = s.pke ∧ (lateMacsec c bytes s).2.rnu = s.rnu ∧ (lateMacsec c bytes s).2.tls = s.tls ∧
    (lateMacsec c bytes s).2.ac = s.ac ∧ (lateMacsec c bytes s).2.tm = s.tm ∧ (lateMacsec c bytes s).2.lcc = s.lcc ∧
    (lateMacsec c bytes s).2.stc = s.stc ∧ (lateMacsec c bytes s).2.pwr = s.pwr ∧ (lateMacsec c bytes s).2.io = s.io ∧
    (lateMacsec c bytes s).2.ev = s.ev ∧ (lateMacsec c bytes s).2.rw = s.rw ∧ (lateMacsec c bytes s).2.store = s.store ∧
    (lateMacsec c bytes s).2.writes = s.writes ∧ (lateMacsec c bytes s).2.out = s.out ∧
    (lateMacsec c bytes s).2.free = s.free := by
  unfold lateMacsec
  split
  · simp
  · split <;> simp

@[simp] theorem countSent_frame (p : Nat) (len : Nat) (macsec : Option MacsecOut) (s : State) :
    (countSent p len macsec s).pending = s.pending ∧ (countSent p len macsec s).ident = s.ident ∧
    (countSent p len macsec s).sck = s.sck ∧ (countSent p len macsec s).arc = s.arc ∧ (countSent p len macsec s).pln = s.pln ∧
    (countSent p len macsec s).hif = s.hif ∧ (countSent p len macsec s).ts = s.ts ∧ (countSent p len macsec s).key = s.key ∧
    (countSent p len macsec s).pke = s.pke ∧ (countSent p len macsec s).rnu = s.rnu ∧ (countSent p len macsec s).tls = s.tls ∧
    (countSent p len macsec s).ac = s.ac ∧ (countSent p len macsec s).tm = s.tm ∧ (countSent p len macsec s).lcc = s.lcc ∧
    (countSent p len macsec s).stc = s.stc ∧ (countSent p len macsec s).pwr = s.pwr ∧ (countSent p len macsec s).io = s.io ∧
    (countSent p len macsec s).ev = s.ev ∧ (countSent p len macsec s).rw = s.rw ∧ (countSent p len macsec s).store = s.store ∧
    (countSent p len macsec s).writes = s.writes ∧ (countSent p len macsec s).out = s.out ∧
    (countSent p len macsec s).free = s.free := by
  simp [countSent]

@[simp] theorem transmit_frame (c : TxCopy) (fr : TxFrame) (stamp : Nat) (macsec : Option MacsecOut) (s : State) :
    (transmit c fr stamp macsec s).pending = s.pending ∧ (transmit c fr stamp macsec s).ident = s.ident ∧
    (transmit c fr stamp macsec s).sck = s.sck ∧ (transmit c fr stamp macsec s).pln = s.pln ∧
    (transmit c fr stamp macsec s).key = s.key ∧ (transmit c fr stamp macsec s).pke = s.pke ∧
    (transmit c fr stamp macsec s).rnu = s.rnu ∧ (transmit c fr stamp macsec s).tls = s.tls ∧
    (transmit c fr stamp macsec s).ac = s.ac ∧ (transmit c fr stamp macsec s).tm = s.tm ∧
    (transmit c fr stamp macsec s).lcc = s.lcc ∧ (transmit c fr stamp macsec s).stc = s.stc ∧
    (transmit c fr stamp macsec s).pwr = s.pwr ∧ (transmit c fr stamp macsec s).io = s.io ∧
    (transmit c fr stamp macsec s).rw = s.rw ∧ (transmit c fr stamp macsec s).store = s.store ∧
    (transmit c fr stamp macsec s).writes = s.writes ∧ (transmit c fr stamp macsec s).free = s.free := by
  simp [transmit, ite_pending, ite_ident, ite_sck, ite_pln, ite_key, ite_pke, ite_rnu, ite_tls, ite_ac, ite_tm, ite_lcc, ite_stc, ite_pwr, ite_io, ite_rw, ite_store, ite_writes, ite_free]

@[simp] theorem startCopy_frame (c : TxCopy) (fr : TxFrame) (stamp : Nat) (s : State) :
    (startCopy c fr stamp s).pending = s.pending ∧ (startCopy c fr stamp s).ident = s.ident ∧
    (startCopy c fr stamp s).sck = s.sck ∧ (startCopy c fr stamp s).pln = s.pln ∧ (startCopy c fr stamp s).key = s.key ∧
    (startCopy c fr stamp s).pke = s.pke ∧ (startCopy c fr stamp s).rnu = s.rnu ∧ (startCopy c fr stamp s).tls = s.tls ∧
    (startCopy c fr stamp s).ac = s.ac ∧ (startCopy c fr stamp s).tm = s.tm ∧ (startCopy c fr stamp s).lcc = s.lcc ∧
    (startCopy c fr stamp s).stc = s.stc ∧ (startCopy c fr stamp s).pwr = s.pwr ∧ (startCopy c fr stamp s).io = s.io ∧
    (startCopy c fr stamp s).rw = s.rw ∧ (startCopy c fr stamp s).store = s.store ∧
    (startCopy c fr stamp s).writes = s.writes ∧ (startCopy c fr stamp s).free = s.free := by
  simp [startCopy, ite_pending, ite_ident, ite_sck, ite_pln, ite_key, ite_pke, ite_rnu, ite_tls, ite_ac, ite_tm, ite_lcc, ite_stc, ite_pwr, ite_io, ite_rw, ite_store, ite_writes, ite_free]

@[simp] theorem startCore_frame (c : TxCopy) (src : Nat) (x : CoreFrame) (stamp : Nat) (s : State) :
    (startCore c src x stamp s).pending = s.pending ∧ (startCore c src x stamp s).ident = s.ident ∧
    (startCore c src x stamp s).sck = s.sck ∧ (startCore c src x stamp s).pln = s.pln ∧
    (startCore c src x stamp s).key = s.key ∧ (startCore c src x stamp s).pke = s.pke ∧
    (startCore c src x stamp s).rnu = s.rnu ∧ (startCore c src x stamp s).tls = s.tls ∧ (startCore c src x stamp s).ac = s.ac ∧
    (startCore c src x stamp s).tm = s.tm ∧ (startCore c src x stamp s).lcc = s.lcc ∧ (startCore c src x stamp s).stc = s.stc ∧
    (startCore c src x stamp s).pwr = s.pwr ∧ (startCore c src x stamp s).io = s.io ∧ (startCore c src x stamp s).ev = s.ev ∧
    (startCore c src x stamp s).rw = s.rw ∧ (startCore c src x stamp s).store = s.store ∧
    (startCore c src x stamp s).writes = s.writes ∧ (startCore c src x stamp s).free = s.free := by
  simp only [startCore]
  (repeat' split) <;> simp

@[simp] theorem loseNew_frame (counter : Nat) (c : TxCopy) (fr : TxFrame) (s : State) :
    (loseNew counter c fr s).pending = s.pending ∧ (loseNew counter c fr s).ident = s.ident ∧
    (loseNew counter c fr s).sck = s.sck ∧ (loseNew counter c fr s).pln = s.pln ∧ (loseNew counter c fr s).key = s.key ∧
    (loseNew counter c fr s).pke = s.pke ∧ (loseNew counter c fr s).rnu = s.rnu ∧ (loseNew counter c fr s).tls = s.tls ∧
    (loseNew counter c fr s).ac = s.ac ∧ (loseNew counter c fr s).tm = s.tm ∧ (loseNew counter c fr s).lcc = s.lcc ∧
    (loseNew counter c fr s).stc = s.stc ∧ (loseNew counter c fr s).pwr = s.pwr ∧ (loseNew counter c fr s).io = s.io ∧
    (loseNew counter c fr s).ev = s.ev ∧ (loseNew counter c fr s).rw = s.rw ∧ (loseNew counter c fr s).store = s.store ∧
    (loseNew counter c fr s).writes = s.writes ∧ (loseNew counter c fr s).free = s.free := by
  simp [loseNew]

@[simp] theorem handCopy_frame (fid : Nat) (port : Nat) (redSeq : Option Nat) (e : Entry) (vlan : Option (Nat × Nat)) (s : State) :
    (handCopy fid port redSeq e vlan s).pending = s.pending ∧ (handCopy fid port redSeq e vlan s).ident = s.ident ∧
    (handCopy fid port redSeq e vlan s).sck = s.sck ∧ (handCopy fid port redSeq e vlan s).pln = s.pln ∧
    (handCopy fid port redSeq e vlan s).key = s.key ∧ (handCopy fid port redSeq e vlan s).pke = s.pke ∧
    (handCopy fid port redSeq e vlan s).rnu = s.rnu ∧ (handCopy fid port redSeq e vlan s).tls = s.tls ∧
    (handCopy fid port redSeq e vlan s).ac = s.ac ∧ (handCopy fid port redSeq e vlan s).tm = s.tm ∧
    (handCopy fid port redSeq e vlan s).lcc = s.lcc ∧ (handCopy fid port redSeq e vlan s).stc = s.stc ∧
    (handCopy fid port redSeq e vlan s).pwr = s.pwr ∧ (handCopy fid port redSeq e vlan s).io = s.io ∧
    (handCopy fid port redSeq e vlan s).ev = s.ev ∧ (handCopy fid port redSeq e vlan s).rw = s.rw ∧
    (handCopy fid port redSeq e vlan s).store = s.store ∧ (handCopy fid port redSeq e vlan s).writes = s.writes ∧
    (handCopy fid port redSeq e vlan s).free = s.free := by
  simp only [handCopy]
  (repeat' split) <;> simp

@[simp] theorem handCopies_frame (fid : Nat) (e : Entry) (vlan : Option (Nat × Nat)) (seqs : Nat → Nat) (x1 : List (Nat × Option Nat)) (x2 : State) :
    (handCopies fid e vlan seqs x1 x2).pending = x2.pending ∧ (handCopies fid e vlan seqs x1 x2).ident = x2.ident ∧
    (handCopies fid e vlan seqs x1 x2).sck = x2.sck ∧ (handCopies fid e vlan seqs x1 x2).pln = x2.pln ∧
    (handCopies fid e vlan seqs x1 x2).key = x2.key ∧ (handCopies fid e vlan seqs x1 x2).pke = x2.pke ∧
    (handCopies fid e vlan seqs x1 x2).rnu = x2.rnu ∧ (handCopies fid e vlan seqs x1 x2).tls = x2.tls ∧
    (handCopies fid e vlan seqs x1 x2).ac = x2.ac ∧ (handCopies fid e vlan seqs x1 x2).tm = x2.tm ∧
    (handCopies fid e vlan seqs x1 x2).lcc = x2.lcc ∧ (handCopies fid e vlan seqs x1 x2).stc = x2.stc ∧
    (handCopies fid e vlan seqs x1 x2).pwr = x2.pwr ∧ (handCopies fid e vlan seqs x1 x2).io = x2.io ∧
    (handCopies fid e vlan seqs x1 x2).ev = x2.ev ∧ (handCopies fid e vlan seqs x1 x2).rw = x2.rw ∧
    (handCopies fid e vlan seqs x1 x2).store = x2.store ∧ (handCopies fid e vlan seqs x1 x2).writes = x2.writes ∧
    (handCopies fid e vlan seqs x1 x2).free = x2.free := by
  induction x1 generalizing fid e vlan seqs x2 with
  | nil => simp [handCopies]
  | cons c l ih => (simp only [handCopies, ih]; simp)

@[simp] theorem handOff_frame (fr : TxFrame) (e : Entry) (passed : Bool) (vlan : Option (Nat × Nat)) (inner : Option (Nat × Nat)) (s : State) :
    (handOff fr e passed vlan inner s).pending = s.pending ∧ (handOff fr e passed vlan inner s).ident = s.ident ∧
    (handOff fr e passed vlan inner s).sck = s.sck ∧ (handOff fr e passed vlan inner s).pln = s.pln ∧
    (handOff fr e passed vlan inner s).key = s.key ∧ (handOff fr e passed vlan inner s).pke = s.pke ∧
    (handOff fr e passed vlan inner s).rnu = s.rnu ∧ (handOff fr e passed vlan inner s).tls = s.tls ∧
    (handOff fr e passed vlan inner s).ac = s.ac ∧ (handOff fr e passed vlan inner s).tm = s.tm ∧
    (handOff fr e passed vlan inner s).lcc = s.lcc ∧ (handOff fr e passed vlan inner s).stc = s.stc ∧
    (handOff fr e passed vlan inner s).pwr = s.pwr ∧ (handOff fr e passed vlan inner s).io = s.io ∧
    (handOff fr e passed vlan inner s).ev = s.ev ∧ (handOff fr e passed vlan inner s).rw = s.rw ∧
    (handOff fr e passed vlan inner s).store = s.store ∧ (handOff fr e passed vlan inner s).writes = s.writes ∧
    (handOff fr e passed vlan inner s).free = s.free := by
  simp [handOff, ite_pending, ite_ident, ite_sck, ite_pln, ite_key, ite_pke, ite_rnu, ite_tls, ite_ac, ite_tm, ite_lcc, ite_stc, ite_pwr, ite_io, ite_ev, ite_rw, ite_store, ite_writes, ite_free]

end Sys2Proof.Machine
end

