-- ==== Sys2Proof/Laws/Integrity.lean ====
section
/-! SUPPORT. What the operations of Machine/Integrity.lean leave unchanged, once for each: its frame. -/

namespace Sys2Proof.Machine

@[simp] theorem markEntry_frame (f : Nat) (entry : Nat) (standby : Bool) (s : State) :
    (markEntry f entry standby s).pending = s.pending ∧ (markEntry f entry standby s).ident = s.ident ∧
    (markEntry f entry standby s).sck = s.sck ∧ (markEntry f entry standby s).arc = s.arc ∧
    (markEntry f entry standby s).fe = s.fe ∧ (markEntry f entry standby s).ts = s.ts ∧
    (markEntry f entry standby s).key = s.key ∧ (markEntry f entry standby s).pke = s.pke ∧
    (markEntry f entry standby s).rnu = s.rnu ∧ (markEntry f entry standby s).tls = s.tls ∧
    (markEntry f entry standby s).ac = s.ac ∧ (markEntry f entry standby s).tm = s.tm ∧
    (markEntry f entry standby s).lcc = s.lcc ∧ (markEntry f entry standby s).stc = s.stc ∧
    (markEntry f entry standby s).pwr = s.pwr ∧ (markEntry f entry standby s).io = s.io ∧
    (markEntry f entry standby s).rw = s.rw ∧ (markEntry f entry standby s).store = s.store ∧
    (markEntry f entry standby s).writes = s.writes ∧ (markEntry f entry standby s).free = s.free := by
  simp only [markEntry]
  (repeat' split) <;> simp

@[simp] theorem markPacket_frame (q : Nat) (index : Nat) (at_ : Nat) (s : State) :
    (markPacket q index at_ s).pending = s.pending ∧ (markPacket q index at_ s).ident = s.ident ∧
    (markPacket q index at_ s).sck = s.sck ∧ (markPacket q index at_ s).arc = s.arc ∧ (markPacket q index at_ s).pln = s.pln ∧
    (markPacket q index at_ s).fe = s.fe ∧ (markPacket q index at_ s).hif = s.hif ∧ (markPacket q index at_ s).key = s.key ∧
    (markPacket q index at_ s).pke = s.pke ∧ (markPacket q index at_ s).rnu = s.rnu ∧ (markPacket q index at_ s).tls = s.tls ∧
    (markPacket q index at_ s).ac = s.ac ∧ (markPacket q index at_ s).tm = s.tm ∧ (markPacket q index at_ s).lcc = s.lcc ∧
    (markPacket q index at_ s).stc = s.stc ∧ (markPacket q index at_ s).pwr = s.pwr ∧ (markPacket q index at_ s).io = s.io ∧
    (markPacket q index at_ s).ev = s.ev ∧ (markPacket q index at_ s).rw = s.rw ∧ (markPacket q index at_ s).store = s.store ∧
    (markPacket q index at_ s).writes = s.writes ∧ (markPacket q index at_ s).out = s.out ∧
    (markPacket q index at_ s).free = s.free := by
  simp only [markPacket]
  (repeat' split) <;> simp

@[simp] theorem dropPad_frame (entry : Nat) (position : Nat) (next : Bool) (s : State) :
    (dropPad entry position next s).pending = s.pending ∧ (dropPad entry position next s).ident = s.ident ∧
    (dropPad entry position next s).sck = s.sck ∧ (dropPad entry position next s).arc = s.arc ∧
    (dropPad entry position next s).pln = s.pln ∧ (dropPad entry position next s).hif = s.hif ∧
    (dropPad entry position next s).ts = s.ts ∧ (dropPad entry position next s).key = s.key ∧
    (dropPad entry position next s).pke = s.pke ∧ (dropPad entry position next s).rnu = s.rnu ∧
    (dropPad entry position next s).tls = s.tls ∧ (dropPad entry position next s).ac = s.ac ∧
    (dropPad entry position next s).tm = s.tm ∧ (dropPad entry position next s).lcc = s.lcc ∧
    (dropPad entry position next s).stc = s.stc ∧ (dropPad entry position next s).pwr = s.pwr ∧
    (dropPad entry position next s).io = s.io ∧ (dropPad entry position next s).ev = s.ev ∧
    (dropPad entry position next s).rw = s.rw ∧ (dropPad entry position next s).store = s.store ∧
    (dropPad entry position next s).writes = s.writes ∧ (dropPad entry position next s).out = s.out ∧
    (dropPad entry position next s).free = s.free := by
  simp only [dropPad]
  (repeat' split) <;> simp

@[simp] theorem ctxError_frame (id : Nat) (working : Bool) (s : State) :
    (ctxError id working s).pending = s.pending ∧ (ctxError id working s).ident = s.ident ∧
    (ctxError id working s).sck = s.sck ∧ (ctxError id working s).arc = s.arc ∧ (ctxError id working s).pln = s.pln ∧
    (ctxError id working s).fe = s.fe ∧ (ctxError id working s).key = s.key ∧ (ctxError id working s).rnu = s.rnu ∧
    (ctxError id working s).tls = s.tls ∧ (ctxError id working s).ac = s.ac ∧ (ctxError id working s).tm = s.tm ∧
    (ctxError id working s).lcc = s.lcc ∧ (ctxError id working s).stc = s.stc ∧ (ctxError id working s).pwr = s.pwr ∧
    (ctxError id working s).io = s.io ∧ (ctxError id working s).ev = s.ev ∧ (ctxError id working s).rw = s.rw ∧
    (ctxError id working s).store = s.store ∧ (ctxError id working s).writes = s.writes ∧
    (ctxError id working s).free = s.free := by
  simp only [ctxError, ctxError.leaveCoreOnly]
  (repeat' split) <;> simp

@[simp] theorem stagingError_frame (index : Nat) (stampRead : Bool) (s : State) :
    (stagingError index stampRead s).pending = s.pending ∧ (stagingError index stampRead s).ident = s.ident ∧
    (stagingError index stampRead s).sck = s.sck ∧ (stagingError index stampRead s).pln = s.pln ∧
    (stagingError index stampRead s).fe = s.fe ∧ (stagingError index stampRead s).hif = s.hif ∧
    (stagingError index stampRead s).ts = s.ts ∧ (stagingError index stampRead s).key = s.key ∧
    (stagingError index stampRead s).pke = s.pke ∧ (stagingError index stampRead s).rnu = s.rnu ∧
    (stagingError index stampRead s).tls = s.tls ∧ (stagingError index stampRead s).ac = s.ac ∧
    (stagingError index stampRead s).tm = s.tm ∧ (stagingError index stampRead s).lcc = s.lcc ∧
    (stagingError index stampRead s).stc = s.stc ∧ (stagingError index stampRead s).pwr = s.pwr ∧
    (stagingError index stampRead s).io = s.io ∧ (stagingError index stampRead s).ev = s.ev ∧
    (stagingError index stampRead s).rw = s.rw ∧ (stagingError index stampRead s).store = s.store ∧
    (stagingError index stampRead s).writes = s.writes ∧ (stagingError index stampRead s).out = s.out ∧
    (stagingError index stampRead s).free = s.free := by
  simp only [stagingError]
  (repeat' split) <;> simp

@[simp] theorem tableError_frame (imageOk : Bool) (addr : Nat) (s : State) :
    (tableError imageOk addr s).pending = s.pending ∧ (tableError imageOk addr s).ident = s.ident ∧
    (tableError imageOk addr s).sck = s.sck ∧ (tableError imageOk addr s).pwr = s.pwr ∧ (tableError imageOk addr s).rw = s.rw ∧
    (tableError imageOk addr s).store = s.store ∧ (tableError imageOk addr s).writes = s.writes ∧
    (tableError imageOk addr s).free = s.free := by
  simp only [tableError]
  (repeat' split) <;> simp

@[simp] theorem keyError_frame (handle : Nat) (s : State) :
    (keyError handle s).pending = s.pending ∧ (keyError handle s).ident = s.ident ∧ (keyError handle s).sck = s.sck ∧
    (keyError handle s).arc = s.arc ∧ (keyError handle s).pln = s.pln ∧ (keyError handle s).fe = s.fe ∧
    (keyError handle s).ts = s.ts ∧ (keyError handle s).pke = s.pke ∧ (keyError handle s).rnu = s.rnu ∧
    (keyError handle s).tls = s.tls ∧ (keyError handle s).ac = s.ac ∧ (keyError handle s).tm = s.tm ∧
    (keyError handle s).lcc = s.lcc ∧ (keyError handle s).stc = s.stc ∧ (keyError handle s).pwr = s.pwr ∧
    (keyError handle s).io = s.io ∧ (keyError handle s).rw = s.rw ∧ (keyError handle s).store = s.store ∧
    (keyError handle s).writes = s.writes ∧ (keyError handle s).free = s.free := by
  simp only [keyError]
  (repeat' split) <;> simp

@[simp] theorem delayError_frame (list : Nat) (s : State) :
    (delayError list s).pending = s.pending ∧ (delayError list s).ident = s.ident ∧ (delayError list s).sck = s.sck ∧
    (delayError list s).arc = s.arc ∧ (delayError list s).pln = s.pln ∧ (delayError list s).fe = s.fe ∧
    (delayError list s).hif = s.hif ∧ (delayError list s).key = s.key ∧ (delayError list s).pke = s.pke ∧
    (delayError list s).rnu = s.rnu ∧ (delayError list s).tls = s.tls ∧ (delayError list s).ac = s.ac ∧
    (delayError list s).tm = s.tm ∧ (delayError list s).lcc = s.lcc ∧ (delayError list s).stc = s.stc ∧
    (delayError list s).pwr = s.pwr ∧ (delayError list s).io = s.io ∧ (delayError list s).ev = s.ev ∧
    (delayError list s).rw = s.rw ∧ (delayError list s).store = s.store ∧ (delayError list s).writes = s.writes ∧
    (delayError list s).out = s.out ∧ (delayError list s).free = s.free := by
  simp [delayError, ite_pending, ite_ident, ite_sck, ite_arc, ite_pln, ite_fe, ite_hif, ite_key, ite_pke, ite_rnu, ite_tls, ite_ac, ite_tm, ite_lcc, ite_stc, ite_pwr, ite_io, ite_ev, ite_rw, ite_store, ite_writes, ite_out, ite_free]

@[simp] theorem lostStamp_frame (copy : Nat) (s : State) :
    (lostStamp copy s).pending = s.pending ∧ (lostStamp copy s).ident = s.ident ∧ (lostStamp copy s).sck = s.sck ∧
    (lostStamp copy s).pln = s.pln ∧ (lostStamp copy s).key = s.key ∧ (lostStamp copy s).pke = s.pke ∧
    (lostStamp copy s).rnu = s.rnu ∧ (lostStamp copy s).tls = s.tls ∧ (lostStamp copy s).ac = s.ac ∧
    (lostStamp copy s).tm = s.tm ∧ (lostStamp copy s).lcc = s.lcc ∧ (lostStamp copy s).stc = s.stc ∧
    (lostStamp copy s).pwr = s.pwr ∧ (lostStamp copy s).io = s.io ∧ (lostStamp copy s).ev = s.ev ∧
    (lostStamp copy s).rw = s.rw ∧ (lostStamp copy s).store = s.store ∧ (lostStamp copy s).writes = s.writes ∧
    (lostStamp copy s).free = s.free := by
  simp only [lostStamp]
  (repeat' split) <;> simp

@[simp] theorem recover_frame (addr : Nat) (e : MemErr) (s : State) :
    (recover addr e s).pending = s.pending ∧ (recover addr e s).ident = s.ident ∧ (recover addr e s).sck = s.sck ∧
    (recover addr e s).pwr = s.pwr ∧ (recover addr e s).rw = s.rw ∧ (recover addr e s).store = s.store ∧
    (recover addr e s).writes = s.writes := by
  simp only [recover]
  (repeat' split) <;> simp

@[simp] theorem burstCheck_frame (addr : Nat) (region : Nat) (s : State) :
    (burstCheck addr region s).pending = s.pending ∧ (burstCheck addr region s).ident = s.ident ∧
    (burstCheck addr region s).sck = s.sck ∧ (burstCheck addr region s).pwr = s.pwr ∧ (burstCheck addr region s).rw = s.rw ∧
    (burstCheck addr region s).store = s.store ∧ (burstCheck addr region s).writes = s.writes ∧
    (burstCheck addr region s).free = s.free := by
  simp [burstCheck, ite_pending, ite_ident, ite_sck, ite_pwr, ite_rw, ite_store, ite_writes, ite_free]

@[simp] theorem memoryError_frame (addr : Nat) (e : MemErr) (s : State) :
    (memoryError addr e s).pending = s.pending ∧ (memoryError addr e s).ident = s.ident ∧ (memoryError addr e s).sck = s.sck ∧
    (memoryError addr e s).pwr = s.pwr ∧ (memoryError addr e s).rw = s.rw ∧ (memoryError addr e s).store = s.store ∧
    (memoryError addr e s).writes = s.writes := by
  simp [memoryError]

end Sys2Proof.Machine
end

