-- ==== Sys2Proof/Laws/Plan.lean ====
section
/-! SUPPORT. What the operations of Machine/Plan.lean leave unchanged, once for each: its frame. -/

namespace Sys2Proof.Machine

/-- A walk over the partitions keeps what each visit keeps. -/
theorem forParts_keeps {α : Type} (p : State → α) (test : Partition → Bool) (act : Nat → Partition → State → State)
    (h : ∀ f v s, p (act f v s) = p s) (l : Tbl Partition) (s : State) : p (forParts test act l s) = p s := by
  induction l generalizing s with
  | nil => rfl
  | cons c l ih =>
    obtain ⟨f, v⟩ := c
    simp only [forParts, ih]
    split
    · exact h _ _ _
    · rfl

@[simp] theorem planEvent_frame (f : Nat) (version : Nat) (transition : Nat) (reason : Nat) (s : State) :
    (planEvent f version transition reason s).pending = s.pending ∧ (planEvent f version transition reason s).ident = s.ident ∧
    (planEvent f version transition reason s).sck = s.sck ∧ (planEvent f version transition reason s).pln = s.pln ∧
    (planEvent f version transition reason s).fe = s.fe ∧ (planEvent f version transition reason s).hif = s.hif ∧
    (planEvent f version transition reason s).ts = s.ts ∧ (planEvent f version transition reason s).key = s.key ∧
    (planEvent f version transition reason s).pke = s.pke ∧ (planEvent f version transition reason s).rnu = s.rnu ∧
    (planEvent f version transition reason s).tls = s.tls ∧ (planEvent f version transition reason s).ac = s.ac ∧
    (planEvent f version transition reason s).tm = s.tm ∧ (planEvent f version transition reason s).lcc = s.lcc ∧
    (planEvent f version transition reason s).stc = s.stc ∧ (planEvent f version transition reason s).pwr = s.pwr ∧
    (planEvent f version transition reason s).io = s.io ∧ (planEvent f version transition reason s).ev = s.ev ∧
    (planEvent f version transition reason s).rw = s.rw ∧ (planEvent f version transition reason s).store = s.store ∧
    (planEvent f version transition reason s).writes = s.writes ∧ (planEvent f version transition reason s).out = s.out ∧
    (planEvent f version transition reason s).free = s.free := by
  simp [planEvent]

@[simp] theorem State.setPart_frame (f : Nat) (p : Partition) (s : State) :
    (State.setPart f p s).pending = s.pending ∧ (State.setPart f p s).ident = s.ident ∧ (State.setPart f p s).sck = s.sck ∧
    (State.setPart f p s).arc = s.arc ∧ (State.setPart f p s).fe = s.fe ∧ (State.setPart f p s).hif = s.hif ∧
    (State.setPart f p s).ts = s.ts ∧ (State.setPart f p s).key = s.key ∧ (State.setPart f p s).pke = s.pke ∧
    (State.setPart f p s).rnu = s.rnu ∧ (State.setPart f p s).tls = s.tls ∧ (State.setPart f p s).ac = s.ac ∧
    (State.setPart f p s).tm = s.tm ∧ (State.setPart f p s).lcc = s.lcc ∧ (State.setPart f p s).stc = s.stc ∧
    (State.setPart f p s).pwr = s.pwr ∧ (State.setPart f p s).io = s.io ∧ (State.setPart f p s).ev = s.ev ∧
    (State.setPart f p s).rw = s.rw ∧ (State.setPart f p s).store = s.store ∧ (State.setPart f p s).writes = s.writes ∧
    (State.setPart f p s).out = s.out ∧ (State.setPart f p s).free = s.free := by
  simp [State.setPart]

@[simp] theorem moveStandby_frame (f : Nat) (p : Partition) (p' : Partition) (s : State) :
    (moveStandby f p p' s).pending = s.pending ∧ (moveStandby f p p' s).ident = s.ident ∧ (moveStandby f p p' s).sck = s.sck ∧
    (moveStandby f p p' s).fe = s.fe ∧ (moveStandby f p p' s).hif = s.hif ∧ (moveStandby f p p' s).ts = s.ts ∧
    (moveStandby f p p' s).key = s.key ∧ (moveStandby f p p' s).pke = s.pke ∧ (moveStandby f p p' s).rnu = s.rnu ∧
    (moveStandby f p p' s).tls = s.tls ∧ (moveStandby f p p' s).ac = s.ac ∧ (moveStandby f p p' s).tm = s.tm ∧
    (moveStandby f p p' s).lcc = s.lcc ∧ (moveStandby f p p' s).stc = s.stc ∧ (moveStandby f p p' s).pwr = s.pwr ∧
    (moveStandby f p p' s).io = s.io ∧ (moveStandby f p p' s).ev = s.ev ∧ (moveStandby f p p' s).rw = s.rw ∧
    (moveStandby f p p' s).store = s.store ∧ (moveStandby f p p' s).writes = s.writes ∧ (moveStandby f p p' s).out = s.out ∧
    (moveStandby f p p' s).free = s.free := by
  simp [moveStandby]

@[simp] theorem beginLoad_frame (f : Nat) (p : Partition) (own : Bool) (s : State) :
    ((beginLoad f p own s).after s).pending = s.pending ∧ ((beginLoad f p own s).after s).ident = s.ident ∧
    ((beginLoad f p own s).after s).sck = s.sck ∧ ((beginLoad f p own s).after s).fe = s.fe ∧
    ((beginLoad f p own s).after s).hif = s.hif ∧ ((beginLoad f p own s).after s).ts = s.ts ∧
    ((beginLoad f p own s).after s).key = s.key ∧ ((beginLoad f p own s).after s).pke = s.pke ∧
    ((beginLoad f p own s).after s).rnu = s.rnu ∧ ((beginLoad f p own s).after s).tls = s.tls ∧
    ((beginLoad f p own s).after s).ac = s.ac ∧ ((beginLoad f p own s).after s).tm = s.tm ∧
    ((beginLoad f p own s).after s).lcc = s.lcc ∧ ((beginLoad f p own s).after s).stc = s.stc ∧
    ((beginLoad f p own s).after s).pwr = s.pwr ∧ ((beginLoad f p own s).after s).io = s.io ∧
    ((beginLoad f p own s).after s).ev = s.ev ∧ ((beginLoad f p own s).after s).rw = s.rw ∧
    ((beginLoad f p own s).after s).store = s.store ∧ ((beginLoad f p own s).after s).writes = s.writes ∧
    ((beginLoad f p own s).after s).out = s.out ∧ ((beginLoad f p own s).after s).free = s.free := by
  simp only [beginLoad]
  (repeat' split) <;> simp [OpOut.after]

@[simp] theorem endLoad_frame (f : Nat) (length : Nat) (i : PlanImage) (p : Partition) (s : State) :
    ((endLoad f length i p s).after s).pending = s.pending ∧ ((endLoad f length i p s).after s).ident = s.ident ∧
    ((endLoad f length i p s).after s).sck = s.sck ∧ ((endLoad f length i p s).after s).fe = s.fe ∧
    ((endLoad f length i p s).after s).ts = s.ts ∧ ((endLoad f length i p s).after s).key = s.key ∧
    ((endLoad f length i p s).after s).pke = s.pke ∧ ((endLoad f length i p s).after s).rnu = s.rnu ∧
    ((endLoad f length i p s).after s).tls = s.tls ∧ ((endLoad f length i p s).after s).ac = s.ac ∧
    ((endLoad f length i p s).after s).tm = s.tm ∧ ((endLoad f length i p s).after s).lcc = s.lcc ∧
    ((endLoad f length i p s).after s).stc = s.stc ∧ ((endLoad f length i p s).after s).pwr = s.pwr ∧
    ((endLoad f length i p s).after s).io = s.io ∧ ((endLoad f length i p s).after s).rw = s.rw ∧
    ((endLoad f length i p s).after s).store = s.store ∧ ((endLoad f length i p s).after s).writes = s.writes ∧
    ((endLoad f length i p s).after s).free = s.free := by
  simp only [endLoad]
  (repeat' split) <;> simp [OpOut.after]

@[simp] theorem armPlan_frame (f : Nat) (p : Partition) (rollback : Bool) (sec : Nat) (rate : Nat) (slot : Nat) (s : State) :
    ((armPlan f p rollback sec rate slot s).after s).pending = s.pending ∧
    ((armPlan f p rollback sec rate slot s).after s).ident = s.ident ∧
    ((armPlan f p rollback sec rate slot s).after s).sck = s.sck ∧ ((armPlan f p rollback sec rate slot s).after s).fe = s.fe ∧
    ((armPlan f p rollback sec rate slot s).after s).hif = s.hif ∧ ((armPlan f p rollback sec rate slot s).after s).ts = s.ts ∧
    ((armPlan f p rollback sec rate slot s).after s).key = s.key ∧
    ((armPlan f p rollback sec rate slot s).after s).pke = s.pke ∧
    ((armPlan f p rollback sec rate slot s).after s).rnu = s.rnu ∧
    ((armPlan f p rollback sec rate slot s).after s).tls = s.tls ∧ ((armPlan f p rollback sec rate slot s).after s).ac = s.ac ∧
    ((armPlan f p rollback sec rate slot s).after s).tm = s.tm ∧ ((armPlan f p rollback sec rate slot s).after s).lcc = s.lcc ∧
    ((armPlan f p rollback sec rate slot s).after s).stc = s.stc ∧
    ((armPlan f p rollback sec rate slot s).after s).pwr = s.pwr ∧ ((armPlan f p rollback sec rate slot s).after s).io = s.io ∧
    ((armPlan f p rollback sec rate slot s).after s).ev = s.ev ∧ ((armPlan f p rollback sec rate slot s).after s).rw = s.rw ∧
    ((armPlan f p rollback sec rate slot s).after s).store = s.store ∧
    ((armPlan f p rollback sec rate slot s).after s).writes = s.writes ∧
    ((armPlan f p rollback sec rate slot s).after s).out = s.out ∧
    ((armPlan f p rollback sec rate slot s).after s).free = s.free := by
  simp only [armPlan]
  (repeat' split) <;> simp [OpOut.after]

@[simp] theorem genRecords_frame (f : Nat) (x1 : List Nat) (x2 : State) :
    (genRecords f x1 x2).pending = x2.pending ∧ (genRecords f x1 x2).ident = x2.ident ∧ (genRecords f x1 x2).sck = x2.sck ∧
    (genRecords f x1 x2).pln = x2.pln ∧ (genRecords f x1 x2).fe = x2.fe ∧ (genRecords f x1 x2).hif = x2.hif ∧
    (genRecords f x1 x2).ts = x2.ts ∧ (genRecords f x1 x2).key = x2.key ∧ (genRecords f x1 x2).pke = x2.pke ∧
    (genRecords f x1 x2).rnu = x2.rnu ∧ (genRecords f x1 x2).tls = x2.tls ∧ (genRecords f x1 x2).ac = x2.ac ∧
    (genRecords f x1 x2).tm = x2.tm ∧ (genRecords f x1 x2).lcc = x2.lcc ∧ (genRecords f x1 x2).stc = x2.stc ∧
    (genRecords f x1 x2).pwr = x2.pwr ∧ (genRecords f x1 x2).io = x2.io ∧ (genRecords f x1 x2).ev = x2.ev ∧
    (genRecords f x1 x2).rw = x2.rw ∧ (genRecords f x1 x2).store = x2.store ∧ (genRecords f x1 x2).writes = x2.writes ∧
    (genRecords f x1 x2).out = x2.out ∧ (genRecords f x1 x2).free = x2.free := by
  induction x1 generalizing f x2 with
  | nil => simp [genRecords]
  | cons c l ih => (simp only [genRecords, ih]; simp)

@[simp] theorem angleCheck_frame (s : State) :
    (angleCheck s).pending = s.pending ∧ (angleCheck s).ident = s.ident ∧ (angleCheck s).pln = s.pln ∧
    (angleCheck s).fe = s.fe ∧ (angleCheck s).key = s.key ∧ (angleCheck s).pke = s.pke ∧ (angleCheck s).rnu = s.rnu ∧
    (angleCheck s).tls = s.tls ∧ (angleCheck s).ac = s.ac ∧ (angleCheck s).tm = s.tm ∧ (angleCheck s).lcc = s.lcc ∧
    (angleCheck s).stc = s.stc ∧ (angleCheck s).pwr = s.pwr ∧ (angleCheck s).io = s.io ∧ (angleCheck s).rw = s.rw ∧
    (angleCheck s).store = s.store ∧ (angleCheck s).writes = s.writes ∧ (angleCheck s).free = s.free := by
  simp only [angleCheck]
  (repeat' split) <;> simp

@[simp] theorem releasePart_frame (f : Nat) (p : Partition) (s : State) :
    (releasePart f p s).pending = s.pending ∧ (releasePart f p s).ident = s.ident ∧ (releasePart f p s).key = s.key ∧
    (releasePart f p s).pke = s.pke ∧ (releasePart f p s).rnu = s.rnu ∧ (releasePart f p s).tls = s.tls ∧
    (releasePart f p s).ac = s.ac ∧ (releasePart f p s).tm = s.tm ∧ (releasePart f p s).lcc = s.lcc ∧
    (releasePart f p s).stc = s.stc ∧ (releasePart f p s).pwr = s.pwr ∧ (releasePart f p s).io = s.io ∧
    (releasePart f p s).rw = s.rw ∧ (releasePart f p s).store = s.store ∧ (releasePart f p s).writes = s.writes ∧
    (releasePart f p s).free = s.free := by
  simp [releasePart]

@[simp] theorem retireEntry_frame (f : Nat) (new : Tbl Entry) (n : Nat) (e : Entry) (s : State) :
    (retireEntry f new n e s).pending = s.pending ∧ (retireEntry f new n e s).ident = s.ident ∧
    (retireEntry f new n e s).sck = s.sck ∧ (retireEntry f new n e s).pln = s.pln ∧ (retireEntry f new n e s).hif = s.hif ∧
    (retireEntry f new n e s).ts = s.ts ∧ (retireEntry f new n e s).key = s.key ∧ (retireEntry f new n e s).pke = s.pke ∧
    (retireEntry f new n e s).rnu = s.rnu ∧ (retireEntry f new n e s).tls = s.tls ∧ (retireEntry f new n e s).ac = s.ac ∧
    (retireEntry f new n e s).tm = s.tm ∧ (retireEntry f new n e s).lcc = s.lcc ∧ (retireEntry f new n e s).stc = s.stc ∧
    (retireEntry f new n e s).pwr = s.pwr ∧ (retireEntry f new n e s).io = s.io ∧ (retireEntry f new n e s).ev = s.ev ∧
    (retireEntry f new n e s).rw = s.rw ∧ (retireEntry f new n e s).store = s.store ∧
    (retireEntry f new n e s).writes = s.writes ∧ (retireEntry f new n e s).out = s.out ∧
    (retireEntry f new n e s).free = s.free := by
  simp [retireEntry, ite_pending, ite_ident, ite_sck, ite_pln, ite_hif, ite_ts, ite_key, ite_pke, ite_rnu, ite_tls, ite_ac, ite_tm, ite_lcc, ite_stc, ite_pwr, ite_io, ite_ev, ite_rw, ite_store, ite_writes, ite_out, ite_free]

@[simp] theorem retireAll_frame (f : Nat) (new : Tbl Entry) (x1 : Tbl Entry) (x2 : State) :
    (retireAll f new x1 x2).pending = x2.pending ∧ (retireAll f new x1 x2).ident = x2.ident ∧
    (retireAll f new x1 x2).sck = x2.sck ∧ (retireAll f new x1 x2).pln = x2.pln ∧ (retireAll f new x1 x2).hif = x2.hif ∧
    (retireAll f new x1 x2).ts = x2.ts ∧ (retireAll f new x1 x2).key = x2.key ∧ (retireAll f new x1 x2).pke = x2.pke ∧
    (retireAll f new x1 x2).rnu = x2.rnu ∧ (retireAll f new x1 x2).tls = x2.tls ∧ (retireAll f new x1 x2).ac = x2.ac ∧
    (retireAll f new x1 x2).tm = x2.tm ∧ (retireAll f new x1 x2).lcc = x2.lcc ∧ (retireAll f new x1 x2).stc = x2.stc ∧
    (retireAll f new x1 x2).pwr = x2.pwr ∧ (retireAll f new x1 x2).io = x2.io ∧ (retireAll f new x1 x2).ev = x2.ev ∧
    (retireAll f new x1 x2).rw = x2.rw ∧ (retireAll f new x1 x2).store = x2.store ∧
    (retireAll f new x1 x2).writes = x2.writes ∧ (retireAll f new x1 x2).out = x2.out ∧
    (retireAll f new x1 x2).free = x2.free := by
  induction x1 generalizing f new x2 with
  | nil => simp [retireAll]
  | cons c l ih => (simp only [retireAll, ih]; simp)

@[simp] theorem swapPart_frame (f : Nat) (t : Nat) (p : Partition) (s : State) :
    (swapPart f t p s).pending = s.pending ∧ (swapPart f t p s).ident = s.ident ∧ (swapPart f t p s).key = s.key ∧
    (swapPart f t p s).pke = s.pke ∧ (swapPart f t p s).rnu = s.rnu ∧ (swapPart f t p s).tls = s.tls ∧
    (swapPart f t p s).ac = s.ac ∧ (swapPart f t p s).tm = s.tm ∧ (swapPart f t p s).lcc = s.lcc ∧
    (swapPart f t p s).stc = s.stc ∧ (swapPart f t p s).pwr = s.pwr ∧ (swapPart f t p s).io = s.io ∧
    (swapPart f t p s).rw = s.rw ∧ (swapPart f t p s).store = s.store ∧ (swapPart f t p s).writes = s.writes ∧
    (swapPart f t p s).free = s.free := by
  simp [swapPart]

@[simp] theorem reachInstant_frame (f : Nat) (p : Partition) (s : State) :
    (reachInstant f p s).pending = s.pending ∧ (reachInstant f p s).ident = s.ident ∧ (reachInstant f p s).key = s.key ∧
    (reachInstant f p s).pke = s.pke ∧ (reachInstant f p s).rnu = s.rnu ∧ (reachInstant f p s).tls = s.tls ∧
    (reachInstant f p s).ac = s.ac ∧ (reachInstant f p s).tm = s.tm ∧ (reachInstant f p s).lcc = s.lcc ∧
    (reachInstant f p s).stc = s.stc ∧ (reachInstant f p s).pwr = s.pwr ∧ (reachInstant f p s).io = s.io ∧
    (reachInstant f p s).rw = s.rw ∧ (reachInstant f p s).store = s.store ∧ (reachInstant f p s).writes = s.writes ∧
    (reachInstant f p s).free = s.free := by
  simp [reachInstant, ite_pending, ite_ident, ite_key, ite_pke, ite_rnu, ite_tls, ite_ac, ite_tm, ite_lcc, ite_stc, ite_pwr, ite_io, ite_rw, ite_store, ite_writes, ite_free]

@[simp] theorem drainRecords_frame (f : Nat) (old : Tbl Entry) (x1 : Tbl (List Nat)) (x2 : State) :
    (drainRecords f old x1 x2).pending = x2.pending ∧ (drainRecords f old x1 x2).ident = x2.ident ∧
    (drainRecords f old x1 x2).sck = x2.sck ∧ (drainRecords f old x1 x2).pln = x2.pln ∧ (drainRecords f old x1 x2).fe = x2.fe ∧
    (drainRecords f old x1 x2).hif = x2.hif ∧ (drainRecords f old x1 x2).ts = x2.ts ∧ (drainRecords f old x1 x2).key = x2.key ∧
    (drainRecords f old x1 x2).pke = x2.pke ∧ (drainRecords f old x1 x2).rnu = x2.rnu ∧
    (drainRecords f old x1 x2).tls = x2.tls ∧ (drainRecords f old x1 x2).ac = x2.ac ∧ (drainRecords f old x1 x2).tm = x2.tm ∧
    (drainRecords f old x1 x2).lcc = x2.lcc ∧ (drainRecords f old x1 x2).stc = x2.stc ∧
    (drainRecords f old x1 x2).pwr = x2.pwr ∧ (drainRecords f old x1 x2).io = x2.io ∧ (drainRecords f old x1 x2).ev = x2.ev ∧
    (drainRecords f old x1 x2).rw = x2.rw ∧ (drainRecords f old x1 x2).store = x2.store ∧
    (drainRecords f old x1 x2).writes = x2.writes ∧ (drainRecords f old x1 x2).out = x2.out ∧
    (drainRecords f old x1 x2).free = x2.free := by
  induction x1 generalizing f old x2 with
  | nil => simp [drainRecords]
  | cons c l ih => (simp only [drainRecords, ih]; (repeat' split) <;> simp)

@[simp] theorem endDrain_frame (f : Nat) (p : Partition) (s : State) :
    (endDrain f p s).pending = s.pending ∧ (endDrain f p s).ident = s.ident ∧ (endDrain f p s).sck = s.sck ∧
    (endDrain f p s).fe = s.fe ∧ (endDrain f p s).ts = s.ts ∧ (endDrain f p s).key = s.key ∧ (endDrain f p s).pke = s.pke ∧
    (endDrain f p s).rnu = s.rnu ∧ (endDrain f p s).tls = s.tls ∧ (endDrain f p s).ac = s.ac ∧ (endDrain f p s).tm = s.tm ∧
    (endDrain f p s).lcc = s.lcc ∧ (endDrain f p s).stc = s.stc ∧ (endDrain f p s).pwr = s.pwr ∧ (endDrain f p s).io = s.io ∧
    (endDrain f p s).rw = s.rw ∧ (endDrain f p s).store = s.store ∧ (endDrain f p s).writes = s.writes ∧
    (endDrain f p s).free = s.free := by
  simp [endDrain, ite_pending, ite_ident, ite_sck, ite_fe, ite_ts, ite_key, ite_pke, ite_rnu, ite_tls, ite_ac, ite_tm, ite_lcc, ite_stc, ite_pwr, ite_io, ite_rw, ite_store, ite_writes, ite_free]

@[simp] theorem entryBack_frame (n : Nat) (standby : Bool) (t : Nat) (s : State) :
    (entryBack n standby t s).pending = s.pending ∧ (entryBack n standby t s).ident = s.ident ∧
    (entryBack n standby t s).sck = s.sck ∧ (entryBack n standby t s).arc = s.arc ∧ (entryBack n standby t s).pln = s.pln ∧
    (entryBack n standby t s).hif = s.hif ∧ (entryBack n standby t s).ts = s.ts ∧ (entryBack n standby t s).key = s.key ∧
    (entryBack n standby t s).pke = s.pke ∧ (entryBack n standby t s).rnu = s.rnu ∧ (entryBack n standby t s).tls = s.tls ∧
    (entryBack n standby t s).ac = s.ac ∧ (entryBack n standby t s).tm = s.tm ∧ (entryBack n standby t s).lcc = s.lcc ∧
    (entryBack n standby t s).stc = s.stc ∧ (entryBack n standby t s).pwr = s.pwr ∧ (entryBack n standby t s).io = s.io ∧
    (entryBack n standby t s).ev = s.ev ∧ (entryBack n standby t s).rw = s.rw ∧ (entryBack n standby t s).store = s.store ∧
    (entryBack n standby t s).writes = s.writes ∧ (entryBack n standby t s).out = s.out ∧
    (entryBack n standby t s).free = s.free := by
  simp [entryBack]

@[simp] theorem endRebuild_frame (n : Nat) (standby : Bool) (s : State) :
    (endRebuild n standby s).pending = s.pending ∧ (endRebuild n standby s).ident = s.ident ∧
    (endRebuild n standby s).sck = s.sck ∧ (endRebuild n standby s).arc = s.arc ∧ (endRebuild n standby s).hif = s.hif ∧
    (endRebuild n standby s).ts = s.ts ∧ (endRebuild n standby s).key = s.key ∧ (endRebuild n standby s).pke = s.pke ∧
    (endRebuild n standby s).rnu = s.rnu ∧ (endRebuild n standby s).tls = s.tls ∧ (endRebuild n standby s).ac = s.ac ∧
    (endRebuild n standby s).tm = s.tm ∧ (endRebuild n standby s).lcc = s.lcc ∧ (endRebuild n standby s).stc = s.stc ∧
    (endRebuild n standby s).pwr = s.pwr ∧ (endRebuild n standby s).io = s.io ∧ (endRebuild n standby s).ev = s.ev ∧
    (endRebuild n standby s).rw = s.rw ∧ (endRebuild n standby s).store = s.store ∧
    (endRebuild n standby s).writes = s.writes ∧ (endRebuild n standby s).out = s.out ∧
    (endRebuild n standby s).free = s.free := by
  simp only [endRebuild]
  (repeat' split) <;> simp

@[simp] theorem startRebuild_frame (n : Nat) (standby : Bool) (s : State) :
    (startRebuild n standby s).pending = s.pending ∧ (startRebuild n standby s).ident = s.ident ∧
    (startRebuild n standby s).sck = s.sck ∧ (startRebuild n standby s).arc = s.arc ∧ (startRebuild n standby s).fe = s.fe ∧
    (startRebuild n standby s).hif = s.hif ∧ (startRebuild n standby s).ts = s.ts ∧ (startRebuild n standby s).key = s.key ∧
    (startRebuild n standby s).pke = s.pke ∧ (startRebuild n standby s).rnu = s.rnu ∧ (startRebuild n standby s).tls = s.tls ∧
    (startRebuild n standby s).ac = s.ac ∧ (startRebuild n standby s).tm = s.tm ∧ (startRebuild n standby s).lcc = s.lcc ∧
    (startRebuild n standby s).stc = s.stc ∧ (startRebuild n standby s).pwr = s.pwr ∧ (startRebuild n standby s).io = s.io ∧
    (startRebuild n standby s).ev = s.ev ∧ (startRebuild n standby s).rw = s.rw ∧ (startRebuild n standby s).store = s.store ∧
    (startRebuild n standby s).writes = s.writes ∧ (startRebuild n standby s).out = s.out ∧
    (startRebuild n standby s).free = s.free := by
  simp [startRebuild, ite_pending, ite_ident, ite_sck, ite_arc, ite_fe, ite_hif, ite_ts, ite_key, ite_pke, ite_rnu, ite_tls, ite_ac, ite_tm, ite_lcc, ite_stc, ite_pwr, ite_io, ite_ev, ite_rw, ite_store, ite_writes, ite_out, ite_free]

@[simp] theorem rebuildEach_frame (done : Bool) (x1 : List (Nat × Bool)) (x2 : State) :
    (rebuildEach done x1 x2).pending = x2.pending ∧ (rebuildEach done x1 x2).ident = x2.ident ∧
    (rebuildEach done x1 x2).sck = x2.sck ∧ (rebuildEach done x1 x2).arc = x2.arc ∧ (rebuildEach done x1 x2).hif = x2.hif ∧
    (rebuildEach done x1 x2).ts = x2.ts ∧ (rebuildEach done x1 x2).key = x2.key ∧ (rebuildEach done x1 x2).pke = x2.pke ∧
    (rebuildEach done x1 x2).rnu = x2.rnu ∧ (rebuildEach done x1 x2).tls = x2.tls ∧ (rebuildEach done x1 x2).ac = x2.ac ∧
    (rebuildEach done x1 x2).tm = x2.tm ∧ (rebuildEach done x1 x2).lcc = x2.lcc ∧ (rebuildEach done x1 x2).stc = x2.stc ∧
    (rebuildEach done x1 x2).pwr = x2.pwr ∧ (rebuildEach done x1 x2).io = x2.io ∧ (rebuildEach done x1 x2).ev = x2.ev ∧
    (rebuildEach done x1 x2).rw = x2.rw ∧ (rebuildEach done x1 x2).store = x2.store ∧
    (rebuildEach done x1 x2).writes = x2.writes ∧ (rebuildEach done x1 x2).out = x2.out ∧
    (rebuildEach done x1 x2).free = x2.free := by
  induction x1 generalizing done x2 with
  | nil => simp [rebuildEach]
  | cons c l ih => (simp only [rebuildEach, ih]; (repeat' split) <;> simp)

@[simp] theorem snapshotAll_frame (f : Nat) (n : Nat) (first : Nat) (x1 : State) :
    (snapshotAll f n first x1).pending = x1.pending ∧ (snapshotAll f n first x1).ident = x1.ident ∧
    (snapshotAll f n first x1).sck = x1.sck ∧ (snapshotAll f n first x1).pln = x1.pln ∧ (snapshotAll f n first x1).fe = x1.fe ∧
    (snapshotAll f n first x1).hif = x1.hif ∧ (snapshotAll f n first x1).ts = x1.ts ∧ (snapshotAll f n first x1).key = x1.key ∧
    (snapshotAll f n first x1).pke = x1.pke ∧ (snapshotAll f n first x1).rnu = x1.rnu ∧
    (snapshotAll f n first x1).tls = x1.tls ∧ (snapshotAll f n first x1).ac = x1.ac ∧ (snapshotAll f n first x1).tm = x1.tm ∧
    (snapshotAll f n first x1).lcc = x1.lcc ∧ (snapshotAll f n first x1).stc = x1.stc ∧
    (snapshotAll f n first x1).pwr = x1.pwr ∧ (snapshotAll f n first x1).io = x1.io ∧ (snapshotAll f n first x1).ev = x1.ev ∧
    (snapshotAll f n first x1).rw = x1.rw ∧ (snapshotAll f n first x1).store = x1.store ∧
    (snapshotAll f n first x1).writes = x1.writes ∧ (snapshotAll f n first x1).out = x1.out ∧
    (snapshotAll f n first x1).free = x1.free := by
  induction n generalizing f first x1 with
  | zero => simp [snapshotAll]
  | succ n ih => (simp only [snapshotAll, ih]; (repeat' split) <;> simp)

@[simp] theorem reachStamp_frame (stamp : Nat) (s : State) :
    (reachStamp stamp s).pending = s.pending ∧ (reachStamp stamp s).ident = s.ident ∧ (reachStamp stamp s).key = s.key ∧
    (reachStamp stamp s).pke = s.pke ∧ (reachStamp stamp s).rnu = s.rnu ∧ (reachStamp stamp s).tls = s.tls ∧
    (reachStamp stamp s).ac = s.ac ∧ (reachStamp stamp s).tm = s.tm ∧ (reachStamp stamp s).lcc = s.lcc ∧
    (reachStamp stamp s).stc = s.stc ∧ (reachStamp stamp s).pwr = s.pwr ∧ (reachStamp stamp s).io = s.io ∧
    (reachStamp stamp s).rw = s.rw ∧ (reachStamp stamp s).store = s.store ∧ (reachStamp stamp s).writes = s.writes ∧
    (reachStamp stamp s).free = s.free := by
  have h1 := forParts_keeps (fun t : State => (t.pending, t.ident, t.key, t.pke, t.rnu, t.tls, t.ac, t.tm, t.lcc, t.stc, t.pwr, t.io, t.rw, t.store, t.writes, t.free))
    (fun p => p.releaseAt.any fun t => decide (t ≤ stamp)) releasePart (by intro f v s; simp) s.pln.parts s
  have h2 := fun l r => forParts_keeps (fun t : State => (t.pending, t.ident, t.key, t.pke, t.rnu, t.tls, t.ac, t.tm, t.lcc, t.stc, t.pwr, t.io, t.rw, t.store, t.writes, t.free))
    (dueSwitch stamp) reachInstant (by intro f v s; simp) l r
  simp only [Prod.mk.injEq] at h1 h2
  simp [reachStamp, h1, h2]

/-- The end of a load completes the call, whatever the state it began in. -/
theorem endLoad_after (f length : Nat) (i : PlanImage) (p : Partition) (s t : State) :
    (endLoad f length i p t).after s = (endLoad f length i p t).after t := by
  simp only [endLoad]
  split <;> rfl
end Sys2Proof.Machine
end

