-- ==== Sys2Proof/Laws/Frame.lean ====
section
/-! SUPPORT. What the operations of Machine/Frame.lean leave unchanged, once for each: its frame. -/

namespace Sys2Proof.Machine

@[simp] theorem jobEvent_frame (j : Job) (cause : Nat) (action : Nat) (forwarded : Nat) (dropped : Nat) (s : State) :
    (jobEvent j cause action forwarded dropped s).pending = s.pending ∧
    (jobEvent j cause action forwarded dropped s).ident = s.ident ∧ (jobEvent j cause action forwarded dropped s).sck = s.sck ∧
    (jobEvent j cause action forwarded dropped s).pln = s.pln ∧ (jobEvent j cause action forwarded dropped s).fe = s.fe ∧
    (jobEvent j cause action forwarded dropped s).hif = s.hif ∧ (jobEvent j cause action forwarded dropped s).ts = s.ts ∧
    (jobEvent j cause action forwarded dropped s).key = s.key ∧ (jobEvent j cause action forwarded dropped s).pke = s.pke ∧
    (jobEvent j cause action forwarded dropped s).rnu = s.rnu ∧ (jobEvent j cause action forwarded dropped s).tls = s.tls ∧
    (jobEvent j cause action forwarded dropped s).ac = s.ac ∧ (jobEvent j cause action forwarded dropped s).tm = s.tm ∧
    (jobEvent j cause action forwarded dropped s).lcc = s.lcc ∧ (jobEvent j cause action forwarded dropped s).stc = s.stc ∧
    (jobEvent j cause action forwarded dropped s).pwr = s.pwr ∧ (jobEvent j cause action forwarded dropped s).io = s.io ∧
    (jobEvent j cause action forwarded dropped s).ev = s.ev ∧ (jobEvent j cause action forwarded dropped s).rw = s.rw ∧
    (jobEvent j cause action forwarded dropped s).store = s.store ∧
    (jobEvent j cause action forwarded dropped s).writes = s.writes ∧
    (jobEvent j cause action forwarded dropped s).out = s.out ∧ (jobEvent j cause action forwarded dropped s).free = s.free := by
  simp [jobEvent]

@[simp] theorem jobBump_frame (j : Job) (i : Nat) (s : State) :
    (jobBump j i s).pending = s.pending ∧ (jobBump j i s).ident = s.ident ∧ (jobBump j i s).sck = s.sck ∧
    (jobBump j i s).arc = s.arc ∧ (jobBump j i s).pln = s.pln ∧ (jobBump j i s).hif = s.hif ∧ (jobBump j i s).ts = s.ts ∧
    (jobBump j i s).key = s.key ∧ (jobBump j i s).pke = s.pke ∧ (jobBump j i s).rnu = s.rnu ∧ (jobBump j i s).tls = s.tls ∧
    (jobBump j i s).ac = s.ac ∧ (jobBump j i s).tm = s.tm ∧ (jobBump j i s).lcc = s.lcc ∧ (jobBump j i s).stc = s.stc ∧
    (jobBump j i s).pwr = s.pwr ∧ (jobBump j i s).io = s.io ∧ (jobBump j i s).ev = s.ev ∧ (jobBump j i s).rw = s.rw ∧
    (jobBump j i s).store = s.store ∧ (jobBump j i s).writes = s.writes ∧ (jobBump j i s).out = s.out ∧
    (jobBump j i s).free = s.free := by
  simp [jobBump]

@[simp] theorem jobDrop_frame (j : Job) (s : State) :
    (jobDrop j s).pending = s.pending ∧ (jobDrop j s).ident = s.ident ∧ (jobDrop j s).sck = s.sck ∧ (jobDrop j s).arc = s.arc ∧
    (jobDrop j s).pln = s.pln ∧ (jobDrop j s).fe = s.fe ∧ (jobDrop j s).key = s.key ∧ (jobDrop j s).pke = s.pke ∧
    (jobDrop j s).rnu = s.rnu ∧ (jobDrop j s).tls = s.tls ∧ (jobDrop j s).ac = s.ac ∧ (jobDrop j s).tm = s.tm ∧
    (jobDrop j s).lcc = s.lcc ∧ (jobDrop j s).stc = s.stc ∧ (jobDrop j s).pwr = s.pwr ∧ (jobDrop j s).io = s.io ∧
    (jobDrop j s).ev = s.ev ∧ (jobDrop j s).rw = s.rw ∧ (jobDrop j s).store = s.store ∧ (jobDrop j s).writes = s.writes ∧
    (jobDrop j s).free = s.free := by
  simp only [jobDrop]
  (repeat' split) <;> simp

@[simp] theorem captureFailure_frame (j : Job) (i : Nat) (miss : Bool) (s : State) :
    (captureFailure j i miss s).pending = s.pending ∧ (captureFailure j i miss s).ident = s.ident ∧
    (captureFailure j i miss s).sck = s.sck ∧ (captureFailure j i miss s).pln = s.pln ∧ (captureFailure j i miss s).fe = s.fe ∧
    (captureFailure j i miss s).hif = s.hif ∧ (captureFailure j i miss s).ts = s.ts ∧ (captureFailure j i miss s).key = s.key ∧
    (captureFailure j i miss s).pke = s.pke ∧ (captureFailure j i miss s).rnu = s.rnu ∧
    (captureFailure j i miss s).tls = s.tls ∧ (captureFailure j i miss s).ac = s.ac ∧ (captureFailure j i miss s).tm = s.tm ∧
    (captureFailure j i miss s).lcc = s.lcc ∧ (captureFailure j i miss s).stc = s.stc ∧
    (captureFailure j i miss s).pwr = s.pwr ∧ (captureFailure j i miss s).io = s.io ∧ (captureFailure j i miss s).ev = s.ev ∧
    (captureFailure j i miss s).rw = s.rw ∧ (captureFailure j i miss s).store = s.store ∧
    (captureFailure j i miss s).writes = s.writes ∧ (captureFailure j i miss s).out = s.out ∧
    (captureFailure j i miss s).free = s.free := by
  simp [captureFailure, ite_pending, ite_ident, ite_sck, ite_pln, ite_fe, ite_hif, ite_ts, ite_key, ite_pke, ite_rnu, ite_tls, ite_ac, ite_tm, ite_lcc, ite_stc, ite_pwr, ite_io, ite_ev, ite_rw, ite_store, ite_writes, ite_out, ite_free]

@[simp] theorem refuse_frame (j : Job) (i : Nat) (cause : Nat) (bit : Nat) (miss : Bool) (s : State) :
    (refuse j i cause bit miss s).pending = s.pending ∧ (refuse j i cause bit miss s).ident = s.ident ∧
    (refuse j i cause bit miss s).sck = s.sck ∧ (refuse j i cause bit miss s).pln = s.pln ∧
    (refuse j i cause bit miss s).key = s.key ∧ (refuse j i cause bit miss s).pke = s.pke ∧
    (refuse j i cause bit miss s).rnu = s.rnu ∧ (refuse j i cause bit miss s).tls = s.tls ∧
    (refuse j i cause bit miss s).ac = s.ac ∧ (refuse j i cause bit miss s).tm = s.tm ∧
    (refuse j i cause bit miss s).lcc = s.lcc ∧ (refuse j i cause bit miss s).stc = s.stc ∧
    (refuse j i cause bit miss s).pwr = s.pwr ∧ (refuse j i cause bit miss s).io = s.io ∧
    (refuse j i cause bit miss s).rw = s.rw ∧ (refuse j i cause bit miss s).store = s.store ∧
    (refuse j i cause bit miss s).writes = s.writes ∧ (refuse j i cause bit miss s).free = s.free := by
  simp [refuse]

@[simp] theorem endFail_frame (j : Job) (c : Option (Nat × Nat)) (s : State) :
    (endFail j c s).pending = s.pending ∧ (endFail j c s).ident = s.ident ∧ (endFail j c s).sck = s.sck ∧
    (endFail j c s).pln = s.pln ∧ (endFail j c s).fe = s.fe ∧ (endFail j c s).hif = s.hif ∧ (endFail j c s).ts = s.ts ∧
    (endFail j c s).key = s.key ∧ (endFail j c s).pke = s.pke ∧ (endFail j c s).rnu = s.rnu ∧ (endFail j c s).tls = s.tls ∧
    (endFail j c s).ac = s.ac ∧ (endFail j c s).tm = s.tm ∧ (endFail j c s).lcc = s.lcc ∧ (endFail j c s).stc = s.stc ∧
    (endFail j c s).pwr = s.pwr ∧ (endFail j c s).io = s.io ∧ (endFail j c s).ev = s.ev ∧ (endFail j c s).rw = s.rw ∧
    (endFail j c s).store = s.store ∧ (endFail j c s).writes = s.writes ∧ (endFail j c s).out = s.out ∧
    (endFail j c s).free = s.free := by
  simp only [endFail]
  (repeat' split) <;> simp

@[simp] theorem leaveFail_frame (j : Job) (s : State) :
    (leaveFail j s).pending = s.pending ∧ (leaveFail j s).ident = s.ident ∧ (leaveFail j s).sck = s.sck ∧
    (leaveFail j s).pln = s.pln ∧ (leaveFail j s).hif = s.hif ∧ (leaveFail j s).ts = s.ts ∧ (leaveFail j s).key = s.key ∧
    (leaveFail j s).pke = s.pke ∧ (leaveFail j s).rnu = s.rnu ∧ (leaveFail j s).tls = s.tls ∧ (leaveFail j s).ac = s.ac ∧
    (leaveFail j s).tm = s.tm ∧ (leaveFail j s).lcc = s.lcc ∧ (leaveFail j s).stc = s.stc ∧ (leaveFail j s).pwr = s.pwr ∧
    (leaveFail j s).io = s.io ∧ (leaveFail j s).ev = s.ev ∧ (leaveFail j s).rw = s.rw ∧ (leaveFail j s).store = s.store ∧
    (leaveFail j s).writes = s.writes ∧ (leaveFail j s).out = s.out ∧ (leaveFail j s).free = s.free := by
  simp [leaveFail, ite_pending, ite_ident, ite_sck, ite_pln, ite_hif, ite_ts, ite_key, ite_pke, ite_rnu, ite_tls, ite_ac, ite_tm, ite_lcc, ite_stc, ite_pwr, ite_io, ite_ev, ite_rw, ite_store, ite_writes, ite_out, ite_free]

@[simp] theorem enterFail_frame (j : Job) (key : Bool) (time : Bool) (fwd : Bool) (s : State) :
    (enterFail j key time fwd s).pending = s.pending ∧ (enterFail j key time fwd s).ident = s.ident ∧
    (enterFail j key time fwd s).sck = s.sck ∧ (enterFail j key time fwd s).pln = s.pln ∧
    (enterFail j key time fwd s).hif = s.hif ∧ (enterFail j key time fwd s).ts = s.ts ∧
    (enterFail j key time fwd s).key = s.key ∧ (enterFail j key time fwd s).pke = s.pke ∧
    (enterFail j key time fwd s).rnu = s.rnu ∧ (enterFail j key time fwd s).tls = s.tls ∧
    (enterFail j key time fwd s).ac = s.ac ∧ (enterFail j key time fwd s).tm = s.tm ∧
    (enterFail j key time fwd s).lcc = s.lcc ∧ (enterFail j key time fwd s).stc = s.stc ∧
    (enterFail j key time fwd s).pwr = s.pwr ∧ (enterFail j key time fwd s).io = s.io ∧
    (enterFail j key time fwd s).ev = s.ev ∧ (enterFail j key time fwd s).rw = s.rw ∧
    (enterFail j key time fwd s).store = s.store ∧ (enterFail j key time fwd s).writes = s.writes ∧
    (enterFail j key time fwd s).out = s.out ∧ (enterFail j key time fwd s).free = s.free := by
  simp [enterFail, ite_pending, ite_ident, ite_sck, ite_pln, ite_hif, ite_ts, ite_key, ite_pke, ite_rnu, ite_tls, ite_ac, ite_tm, ite_lcc, ite_stc, ite_pwr, ite_io, ite_ev, ite_rw, ite_store, ite_writes, ite_out, ite_free]

@[simp] theorem forwardFrame_frame (j : Job) (passed : Bool) (miss : Bool) (marked : Bool) (rewrite : Nat) (sec : Option SecOut) (s : State) :
    (forwardFrame j passed miss marked rewrite sec s).pending = s.pending ∧
    (forwardFrame j passed miss marked rewrite sec s).ident = s.ident ∧
    (forwardFrame j passed miss marked rewrite sec s).sck = s.sck ∧
    (forwardFrame j passed miss marked rewrite sec s).pln = s.pln ∧
    (forwardFrame j passed miss marked rewrite sec s).key = s.key ∧
    (forwardFrame j passed miss marked rewrite sec s).pke = s.pke ∧
    (forwardFrame j passed miss marked rewrite sec s).rnu = s.rnu ∧
    (forwardFrame j passed miss marked rewrite sec s).tls = s.tls ∧
    (forwardFrame j passed miss marked rewrite sec s).ac = s.ac ∧ (forwardFrame j passed miss marked rewrite sec s).tm = s.tm ∧
    (forwardFrame j passed miss marked rewrite sec s).lcc = s.lcc ∧
    (forwardFrame j passed miss marked rewrite sec s).stc = s.stc ∧
    (forwardFrame j passed miss marked rewrite sec s).pwr = s.pwr ∧
    (forwardFrame j passed miss marked rewrite sec s).io = s.io ∧ (forwardFrame j passed miss marked rewrite sec s).ev = s.ev ∧
    (forwardFrame j passed miss marked rewrite sec s).rw = s.rw ∧
    (forwardFrame j passed miss marked rewrite sec s).store = s.store ∧
    (forwardFrame j passed miss marked rewrite sec s).writes = s.writes ∧
    (forwardFrame j passed miss marked rewrite sec s).free = s.free := by
  simp [forwardFrame]

@[simp] theorem policyStage_frame (j : Job) (keyLost : Bool) (timeLost : Bool) (miss : Bool) (sec : Option SecOut) (s : State) :
    (policyStage j keyLost timeLost miss sec s).pending = s.pending ∧
    (policyStage j keyLost timeLost miss sec s).ident = s.ident ∧ (policyStage j keyLost timeLost miss sec s).sck = s.sck ∧
    (policyStage j keyLost timeLost miss sec s).pln = s.pln ∧ (policyStage j keyLost timeLost miss sec s).key = s.key ∧
    (policyStage j keyLost timeLost miss sec s).pke = s.pke ∧ (policyStage j keyLost timeLost miss sec s).rnu = s.rnu ∧
    (policyStage j keyLost timeLost miss sec s).tls = s.tls ∧ (policyStage j keyLost timeLost miss sec s).ac = s.ac ∧
    (policyStage j keyLost timeLost miss sec s).tm = s.tm ∧ (policyStage j keyLost timeLost miss sec s).lcc = s.lcc ∧
    (policyStage j keyLost timeLost miss sec s).stc = s.stc ∧ (policyStage j keyLost timeLost miss sec s).pwr = s.pwr ∧
    (policyStage j keyLost timeLost miss sec s).io = s.io ∧ (policyStage j keyLost timeLost miss sec s).ev = s.ev ∧
    (policyStage j keyLost timeLost miss sec s).rw = s.rw ∧ (policyStage j keyLost timeLost miss sec s).store = s.store ∧
    (policyStage j keyLost timeLost miss sec s).writes = s.writes ∧ (policyStage j keyLost timeLost miss sec s).free = s.free := by
  simp [policyStage, ite_pending, ite_ident, ite_sck, ite_pln, ite_key, ite_pke, ite_rnu, ite_tls, ite_ac, ite_tm, ite_lcc, ite_stc, ite_pwr, ite_io, ite_ev, ite_rw, ite_store, ite_writes, ite_free]

@[simp] theorem sampleFrom_frame (j : Job) (s : State) :
    (sampleFrom j s).pending = s.pending ∧ (sampleFrom j s).ident = s.ident ∧ (sampleFrom j s).pln = s.pln ∧
    (sampleFrom j s).fe = s.fe ∧ (sampleFrom j s).key = s.key ∧ (sampleFrom j s).pke = s.pke ∧ (sampleFrom j s).rnu = s.rnu ∧
    (sampleFrom j s).tls = s.tls ∧ (sampleFrom j s).ac = s.ac ∧ (sampleFrom j s).tm = s.tm ∧ (sampleFrom j s).lcc = s.lcc ∧
    (sampleFrom j s).stc = s.stc ∧ (sampleFrom j s).pwr = s.pwr ∧ (sampleFrom j s).io = s.io ∧ (sampleFrom j s).rw = s.rw ∧
    (sampleFrom j s).store = s.store ∧ (sampleFrom j s).writes = s.writes := by
  simp only [sampleFrom]
  (repeat' split) <;> simp

@[simp] theorem slotStage_frame (j : Job) (verified : Bool) (timeLost : Bool) (miss : Bool) (sec : Option SecOut) (s : State) :
    (slotStage j verified timeLost miss sec s).pending = s.pending ∧
    (slotStage j verified timeLost miss sec s).ident = s.ident ∧ (slotStage j verified timeLost miss sec s).pln = s.pln ∧
    (slotStage j verified timeLost miss sec s).key = s.key ∧ (slotStage j verified timeLost miss sec s).pke = s.pke ∧
    (slotStage j verified timeLost miss sec s).rnu = s.rnu ∧ (slotStage j verified timeLost miss sec s).tls = s.tls ∧
    (slotStage j verified timeLost miss sec s).ac = s.ac ∧ (slotStage j verified timeLost miss sec s).tm = s.tm ∧
    (slotStage j verified timeLost miss sec s).lcc = s.lcc ∧ (slotStage j verified timeLost miss sec s).stc = s.stc ∧
    (slotStage j verified timeLost miss sec s).pwr = s.pwr ∧ (slotStage j verified timeLost miss sec s).io = s.io ∧
    (slotStage j verified timeLost miss sec s).rw = s.rw ∧ (slotStage j verified timeLost miss sec s).store = s.store ∧
    (slotStage j verified timeLost miss sec s).writes = s.writes := by
  simp [slotStage, ite_pending, ite_ident, ite_pln, ite_key, ite_pke, ite_rnu, ite_tls, ite_ac, ite_tm, ite_lcc, ite_stc, ite_pwr, ite_io, ite_rw, ite_store, ite_writes]

@[simp] theorem countMiss_frame (j : Job) (miss : Bool) (s : State) :
    (countMiss j miss s).pending = s.pending ∧ (countMiss j miss s).ident = s.ident ∧ (countMiss j miss s).sck = s.sck ∧
    (countMiss j miss s).arc = s.arc ∧ (countMiss j miss s).pln = s.pln ∧ (countMiss j miss s).hif = s.hif ∧
    (countMiss j miss s).ts = s.ts ∧ (countMiss j miss s).key = s.key ∧ (countMiss j miss s).pke = s.pke ∧
    (countMiss j miss s).rnu = s.rnu ∧ (countMiss j miss s).tls = s.tls ∧ (countMiss j miss s).ac = s.ac ∧
    (countMiss j miss s).tm = s.tm ∧ (countMiss j miss s).lcc = s.lcc ∧ (countMiss j miss s).stc = s.stc ∧
    (countMiss j miss s).pwr = s.pwr ∧ (countMiss j miss s).io = s.io ∧ (countMiss j miss s).ev = s.ev ∧
    (countMiss j miss s).rw = s.rw ∧ (countMiss j miss s).store = s.store ∧ (countMiss j miss s).writes = s.writes ∧
    (countMiss j miss s).out = s.out ∧ (countMiss j miss s).free = s.free := by
  simp [countMiss, ite_pending, ite_ident, ite_sck, ite_arc, ite_pln, ite_hif, ite_ts, ite_key, ite_pke, ite_rnu, ite_tls, ite_ac, ite_tm, ite_lcc, ite_stc, ite_pwr, ite_io, ite_ev, ite_rw, ite_store, ite_writes, ite_out, ite_free]

@[simp] theorem freshStage_frame (j : Job) (after : Bool) (outgoing : Bool) (h : Nat) (timeLost : Bool) (miss : Bool) (s : State) :
    (freshStage j after outgoing h timeLost miss s).pending = s.pending ∧
    (freshStage j after outgoing h timeLost miss s).ident = s.ident ∧
    (freshStage j after outgoing h timeLost miss s).pln = s.pln ∧ (freshStage j after outgoing h timeLost miss s).key = s.key ∧
    (freshStage j after outgoing h timeLost miss s).pke = s.pke ∧ (freshStage j after outgoing h timeLost miss s).rnu = s.rnu ∧
    (freshStage j after outgoing h timeLost miss s).tls = s.tls ∧ (freshStage j after outgoing h timeLost miss s).ac = s.ac ∧
    (freshStage j after outgoing h timeLost miss s).tm = s.tm ∧ (freshStage j after outgoing h timeLost miss s).lcc = s.lcc ∧
    (freshStage j after outgoing h timeLost miss s).stc = s.stc ∧ (freshStage j after outgoing h timeLost miss s).pwr = s.pwr ∧
    (freshStage j after outgoing h timeLost miss s).io = s.io ∧ (freshStage j after outgoing h timeLost miss s).rw = s.rw ∧
    (freshStage j after outgoing h timeLost miss s).store = s.store ∧
    (freshStage j after outgoing h timeLost miss s).writes = s.writes := by
  simp [freshStage, ite_pending, ite_ident, ite_pln, ite_key, ite_pke, ite_rnu, ite_tls, ite_ac, ite_tm, ite_lcc, ite_stc, ite_pwr, ite_io, ite_rw, ite_store, ite_writes]

@[simp] theorem verifyStage_frame (j : Job) (timeLost : Bool) (s : State) :
    (verifyStage j timeLost s).pending = s.pending ∧ (verifyStage j timeLost s).ident = s.ident ∧
    (verifyStage j timeLost s).pln = s.pln ∧ (verifyStage j timeLost s).key = s.key ∧ (verifyStage j timeLost s).pke = s.pke ∧
    (verifyStage j timeLost s).rnu = s.rnu ∧ (verifyStage j timeLost s).tls = s.tls ∧ (verifyStage j timeLost s).ac = s.ac ∧
    (verifyStage j timeLost s).tm = s.tm ∧ (verifyStage j timeLost s).lcc = s.lcc ∧ (verifyStage j timeLost s).stc = s.stc ∧
    (verifyStage j timeLost s).pwr = s.pwr ∧ (verifyStage j timeLost s).io = s.io ∧ (verifyStage j timeLost s).rw = s.rw ∧
    (verifyStage j timeLost s).store = s.store ∧ (verifyStage j timeLost s).writes = s.writes := by
  simp only [verifyStage]
  (repeat' split) <;> simp

@[simp] theorem noteExhausted_frame (j : Job) (value : Nat) (s : State) :
    (noteExhausted j value s).pending = s.pending ∧ (noteExhausted j value s).ident = s.ident ∧
    (noteExhausted j value s).sck = s.sck ∧ (noteExhausted j value s).pln = s.pln ∧ (noteExhausted j value s).fe = s.fe ∧
    (noteExhausted j value s).ts = s.ts ∧ (noteExhausted j value s).key = s.key ∧ (noteExhausted j value s).pke = s.pke ∧
    (noteExhausted j value s).rnu = s.rnu ∧ (noteExhausted j value s).tls = s.tls ∧ (noteExhausted j value s).ac = s.ac ∧
    (noteExhausted j value s).tm = s.tm ∧ (noteExhausted j value s).lcc = s.lcc ∧ (noteExhausted j value s).stc = s.stc ∧
    (noteExhausted j value s).pwr = s.pwr ∧ (noteExhausted j value s).io = s.io ∧ (noteExhausted j value s).rw = s.rw ∧
    (noteExhausted j value s).store = s.store ∧ (noteExhausted j value s).writes = s.writes ∧
    (noteExhausted j value s).free = s.free := by
  simp [noteExhausted, ite_pending, ite_ident, ite_sck, ite_pln, ite_fe, ite_ts, ite_key, ite_pke, ite_rnu, ite_tls, ite_ac, ite_tm, ite_lcc, ite_stc, ite_pwr, ite_io, ite_rw, ite_store, ite_writes, ite_free]

@[simp] theorem generateStage_frame (j : Job) (h : Nat) (k : LoadedKey) (timeLost : Bool) (s : State) :
    (generateStage j h k timeLost s).pending = s.pending ∧ (generateStage j h k timeLost s).ident = s.ident ∧
    (generateStage j h k timeLost s).pln = s.pln ∧ (generateStage j h k timeLost s).pke = s.pke ∧
    (generateStage j h k timeLost s).rnu = s.rnu ∧ (generateStage j h k timeLost s).tls = s.tls ∧
    (generateStage j h k timeLost s).ac = s.ac ∧ (generateStage j h k timeLost s).tm = s.tm ∧
    (generateStage j h k timeLost s).lcc = s.lcc ∧ (generateStage j h k timeLost s).stc = s.stc ∧
    (generateStage j h k timeLost s).pwr = s.pwr ∧ (generateStage j h k timeLost s).io = s.io ∧
    (generateStage j h k timeLost s).rw = s.rw ∧ (generateStage j h k timeLost s).store = s.store ∧
    (generateStage j h k timeLost s).writes = s.writes := by
  simp [generateStage, ite_pending, ite_ident, ite_pln, ite_pke, ite_rnu, ite_tls, ite_ac, ite_tm, ite_lcc, ite_stc, ite_pwr, ite_io, ite_rw, ite_store, ite_writes]

@[simp] theorem processFrame_frame (j : Job) (s : State) :
    (processFrame j s).pending = s.pending ∧ (processFrame j s).ident = s.ident ∧ (processFrame j s).pln = s.pln ∧
    (processFrame j s).pke = s.pke ∧ (processFrame j s).rnu = s.rnu ∧ (processFrame j s).tls = s.tls ∧
    (processFrame j s).ac = s.ac ∧ (processFrame j s).tm = s.tm ∧ (processFrame j s).lcc = s.lcc ∧
    (processFrame j s).stc = s.stc ∧ (processFrame j s).pwr = s.pwr ∧ (processFrame j s).io = s.io ∧
    (processFrame j s).rw = s.rw ∧ (processFrame j s).store = s.store ∧ (processFrame j s).writes = s.writes := by
  simp only [processFrame]
  (repeat' split) <;> simp

@[simp] theorem matchedFrame_frame (fr : Frame) (ctrError : Bool) (f : Nat) (n : Nat) (e : Entry) (old : Bool) (s : State) :
    (matchedFrame fr ctrError f n e old s).pending = s.pending ∧ (matchedFrame fr ctrError f n e old s).ident = s.ident ∧
    (matchedFrame fr ctrError f n e old s).pln = s.pln ∧ (matchedFrame fr ctrError f n e old s).pke = s.pke ∧
    (matchedFrame fr ctrError f n e old s).rnu = s.rnu ∧ (matchedFrame fr ctrError f n e old s).tls = s.tls ∧
    (matchedFrame fr ctrError f n e old s).ac = s.ac ∧ (matchedFrame fr ctrError f n e old s).tm = s.tm ∧
    (matchedFrame fr ctrError f n e old s).lcc = s.lcc ∧ (matchedFrame fr ctrError f n e old s).stc = s.stc ∧
    (matchedFrame fr ctrError f n e old s).pwr = s.pwr ∧ (matchedFrame fr ctrError f n e old s).io = s.io ∧
    (matchedFrame fr ctrError f n e old s).rw = s.rw ∧ (matchedFrame fr ctrError f n e old s).store = s.store ∧
    (matchedFrame fr ctrError f n e old s).writes = s.writes := by
  simp [matchedFrame, ite_pending, ite_ident, ite_pln, ite_pke, ite_rnu, ite_tls, ite_ac, ite_tm, ite_lcc, ite_stc, ite_pwr, ite_io, ite_rw, ite_store, ite_writes]

end Sys2Proof.Machine
end

