-- ==== Sys2Proof/Laws/Ports.lean ====
section
/-! SUPPORT. What the operations of Machine/Ports.lean leave unchanged, once for each: its frame. -/

namespace Sys2Proof.Machine

@[simp] theorem portEvent_frame (p : Nat) (condition : Nat) (value : Nat) (s : State) :
    (portEvent p condition value s).pending = s.pending ∧ (portEvent p condition value s).ident = s.ident ∧
    (portEvent p condition value s).sck = s.sck ∧ (portEvent p condition value s).pln = s.pln ∧
    (portEvent p condition value s).fe = s.fe ∧ (portEvent p condition value s).hif = s.hif ∧
    (portEvent p condition value s).ts = s.ts ∧ (portEvent p condition value s).key = s.key ∧
    (portEvent p condition value s).pke = s.pke ∧ (portEvent p condition value s).rnu = s.rnu ∧
    (portEvent p condition value s).tls = s.tls ∧ (portEvent p condition value s).ac = s.ac ∧
    (portEvent p condition value s).tm = s.tm ∧ (portEvent p condition value s).lcc = s.lcc ∧
    (portEvent p condition value s).stc = s.stc ∧ (portEvent p condition value s).pwr = s.pwr ∧
    (portEvent p condition value s).io = s.io ∧ (portEvent p condition value s).ev = s.ev ∧
    (portEvent p condition value s).rw = s.rw ∧ (portEvent p condition value s).store = s.store ∧
    (portEvent p condition value s).writes = s.writes ∧ (portEvent p condition value s).out = s.out ∧
    (portEvent p condition value s).free = s.free := by
  simp [portEvent]

@[simp] theorem declareDead_frame (p : Nat) (s : State) :
    (declareDead p s).pending = s.pending ∧ (declareDead p s).ident = s.ident ∧ (declareDead p s).sck = s.sck ∧
    (declareDead p s).pln = s.pln ∧ (declareDead p s).hif = s.hif ∧ (declareDead p s).ts = s.ts ∧
    (declareDead p s).key = s.key ∧ (declareDead p s).pke = s.pke ∧ (declareDead p s).rnu = s.rnu ∧
    (declareDead p s).tls = s.tls ∧ (declareDead p s).ac = s.ac ∧ (declareDead p s).tm = s.tm ∧ (declareDead p s).lcc = s.lcc ∧
    (declareDead p s).stc = s.stc ∧ (declareDead p s).pwr = s.pwr ∧ (declareDead p s).io = s.io ∧ (declareDead p s).ev = s.ev ∧
    (declareDead p s).rw = s.rw ∧ (declareDead p s).store = s.store ∧ (declareDead p s).writes = s.writes ∧
    (declareDead p s).out = s.out ∧ (declareDead p s).free = s.free := by
  simp [declareDead, ite_pending, ite_ident, ite_sck, ite_pln, ite_hif, ite_ts, ite_key, ite_pke, ite_rnu, ite_tls, ite_ac, ite_tm, ite_lcc, ite_stc, ite_pwr, ite_io, ite_ev, ite_rw, ite_store, ite_writes, ite_out, ite_free]

@[simp] theorem linkUp_frame (p : Nat) (s : State) :
    (linkUp p s).pending = s.pending ∧ (linkUp p s).ident = s.ident ∧ (linkUp p s).sck = s.sck ∧ (linkUp p s).pln = s.pln ∧
    (linkUp p s).hif = s.hif ∧ (linkUp p s).ts = s.ts ∧ (linkUp p s).key = s.key ∧ (linkUp p s).pke = s.pke ∧
    (linkUp p s).rnu = s.rnu ∧ (linkUp p s).tls = s.tls ∧ (linkUp p s).ac = s.ac ∧ (linkUp p s).tm = s.tm ∧
    (linkUp p s).lcc = s.lcc ∧ (linkUp p s).stc = s.stc ∧ (linkUp p s).pwr = s.pwr ∧ (linkUp p s).io = s.io ∧
    (linkUp p s).ev = s.ev ∧ (linkUp p s).rw = s.rw ∧ (linkUp p s).store = s.store ∧ (linkUp p s).writes = s.writes ∧
    (linkUp p s).out = s.out ∧ (linkUp p s).free = s.free := by
  simp only [linkUp]
  split <;> simp

@[simp] theorem linkDown_frame (p : Nat) (s : State) :
    (linkDown p s).pending = s.pending ∧ (linkDown p s).ident = s.ident ∧ (linkDown p s).sck = s.sck ∧
    (linkDown p s).pln = s.pln ∧ (linkDown p s).key = s.key ∧ (linkDown p s).pke = s.pke ∧ (linkDown p s).rnu = s.rnu ∧
    (linkDown p s).tls = s.tls ∧ (linkDown p s).ac = s.ac ∧ (linkDown p s).tm = s.tm ∧ (linkDown p s).lcc = s.lcc ∧
    (linkDown p s).stc = s.stc ∧ (linkDown p s).pwr = s.pwr ∧ (linkDown p s).io = s.io ∧ (linkDown p s).ev = s.ev ∧
    (linkDown p s).rw = s.rw ∧ (linkDown p s).store = s.store ∧ (linkDown p s).writes = s.writes ∧
    (linkDown p s).free = s.free := by
  simp [linkDown]

@[simp] theorem clearDead_frame (p : Nat) (s : State) :
    (clearDead p s).pending = s.pending ∧ (clearDead p s).ident = s.ident ∧ (clearDead p s).sck = s.sck ∧
    (clearDead p s).arc = s.arc ∧ (clearDead p s).pln = s.pln ∧ (clearDead p s).hif = s.hif ∧ (clearDead p s).ts = s.ts ∧
    (clearDead p s).key = s.key ∧ (clearDead p s).pke = s.pke ∧ (clearDead p s).rnu = s.rnu ∧ (clearDead p s).tls = s.tls ∧
    (clearDead p s).ac = s.ac ∧ (clearDead p s).tm = s.tm ∧ (clearDead p s).lcc = s.lcc ∧ (clearDead p s).stc = s.stc ∧
    (clearDead p s).pwr = s.pwr ∧ (clearDead p s).io = s.io ∧ (clearDead p s).ev = s.ev ∧ (clearDead p s).rw = s.rw ∧
    (clearDead p s).store = s.store ∧ (clearDead p s).writes = s.writes ∧ (clearDead p s).out = s.out ∧
    (clearDead p s).free = s.free := by
  simp [clearDead, ite_pending, ite_ident, ite_sck, ite_arc, ite_pln, ite_hif, ite_ts, ite_key, ite_pke, ite_rnu, ite_tls, ite_ac, ite_tm, ite_lcc, ite_stc, ite_pwr, ite_io, ite_ev, ite_rw, ite_store, ite_writes, ite_out, ite_free]

@[simp] theorem holdLink_frame (p : Nat) (s : State) :
    (holdLink p s).pending = s.pending ∧ (holdLink p s).ident = s.ident ∧ (holdLink p s).sck = s.sck ∧
    (holdLink p s).pln = s.pln ∧ (holdLink p s).key = s.key ∧ (holdLink p s).pke = s.pke ∧ (holdLink p s).rnu = s.rnu ∧
    (holdLink p s).tls = s.tls ∧ (holdLink p s).ac = s.ac ∧ (holdLink p s).tm = s.tm ∧ (holdLink p s).lcc = s.lcc ∧
    (holdLink p s).stc = s.stc ∧ (holdLink p s).pwr = s.pwr ∧ (holdLink p s).io = s.io ∧ (holdLink p s).ev = s.ev ∧
    (holdLink p s).rw = s.rw ∧ (holdLink p s).store = s.store ∧ (holdLink p s).writes = s.writes ∧
    (holdLink p s).free = s.free := by
  simp [holdLink, ite_pending, ite_ident, ite_sck, ite_pln, ite_key, ite_pke, ite_rnu, ite_tls, ite_ac, ite_tm, ite_lcc, ite_stc, ite_pwr, ite_io, ite_ev, ite_rw, ite_store, ite_writes, ite_free]

@[simp] theorem heard_frame (p : Nat) (s : State) :
    (heard p s).pending = s.pending ∧ (heard p s).ident = s.ident ∧ (heard p s).sck = s.sck ∧ (heard p s).pln = s.pln ∧
    (heard p s).hif = s.hif ∧ (heard p s).ts = s.ts ∧ (heard p s).key = s.key ∧ (heard p s).pke = s.pke ∧
    (heard p s).rnu = s.rnu ∧ (heard p s).tls = s.tls ∧ (heard p s).ac = s.ac ∧ (heard p s).tm = s.tm ∧
    (heard p s).lcc = s.lcc ∧ (heard p s).stc = s.stc ∧ (heard p s).pwr = s.pwr ∧ (heard p s).io = s.io ∧
    (heard p s).ev = s.ev ∧ (heard p s).rw = s.rw ∧ (heard p s).store = s.store ∧ (heard p s).writes = s.writes ∧
    (heard p s).out = s.out ∧ (heard p s).free = s.free := by
  simp [heard, ite_pending, ite_ident, ite_sck, ite_pln, ite_hif, ite_ts, ite_key, ite_pke, ite_rnu, ite_tls, ite_ac, ite_tm, ite_lcc, ite_stc, ite_pwr, ite_io, ite_ev, ite_rw, ite_store, ite_writes, ite_out, ite_free]

@[simp] theorem passThrough_frame (i : Nat) (fr : Frame) (x : Nat) (s : State) :
    (passThrough i fr x s).pending = s.pending ∧ (passThrough i fr x s).ident = s.ident ∧ (passThrough i fr x s).sck = s.sck ∧
    (passThrough i fr x s).pln = s.pln ∧ (passThrough i fr x s).hif = s.hif ∧ (passThrough i fr x s).ts = s.ts ∧
    (passThrough i fr x s).key = s.key ∧ (passThrough i fr x s).pke = s.pke ∧ (passThrough i fr x s).rnu = s.rnu ∧
    (passThrough i fr x s).tls = s.tls ∧ (passThrough i fr x s).ac = s.ac ∧ (passThrough i fr x s).tm = s.tm ∧
    (passThrough i fr x s).lcc = s.lcc ∧ (passThrough i fr x s).stc = s.stc ∧ (passThrough i fr x s).pwr = s.pwr ∧
    (passThrough i fr x s).io = s.io ∧ (passThrough i fr x s).ev = s.ev ∧ (passThrough i fr x s).rw = s.rw ∧
    (passThrough i fr x s).store = s.store ∧ (passThrough i fr x s).writes = s.writes ∧ (passThrough i fr x s).free = s.free := by
  simp [passThrough, ite_pending, ite_ident, ite_sck, ite_pln, ite_hif, ite_ts, ite_key, ite_pke, ite_rnu, ite_tls, ite_ac, ite_tm, ite_lcc, ite_stc, ite_pwr, ite_io, ite_ev, ite_rw, ite_store, ite_writes, ite_free]

@[simp] theorem acceptTagged_frame (i : Nat) (fr : Frame) (x : Nat) (s : State) :
    (acceptTagged i fr x s).2.pending = s.pending ∧ (acceptTagged i fr x s).2.ident = s.ident ∧
    (acceptTagged i fr x s).2.sck = s.sck ∧ (acceptTagged i fr x s).2.arc = s.arc ∧ (acceptTagged i fr x s).2.pln = s.pln ∧
    (acceptTagged i fr x s).2.hif = s.hif ∧ (acceptTagged i fr x s).2.ts = s.ts ∧ (acceptTagged i fr x s).2.key = s.key ∧
    (acceptTagged i fr x s).2.pke = s.pke ∧ (acceptTagged i fr x s).2.rnu = s.rnu ∧ (acceptTagged i fr x s).2.tls = s.tls ∧
    (acceptTagged i fr x s).2.ac = s.ac ∧ (acceptTagged i fr x s).2.tm = s.tm ∧ (acceptTagged i fr x s).2.lcc = s.lcc ∧
    (acceptTagged i fr x s).2.stc = s.stc ∧ (acceptTagged i fr x s).2.pwr = s.pwr ∧ (acceptTagged i fr x s).2.io = s.io ∧
    (acceptTagged i fr x s).2.ev = s.ev ∧ (acceptTagged i fr x s).2.rw = s.rw ∧ (acceptTagged i fr x s).2.store = s.store ∧
    (acceptTagged i fr x s).2.writes = s.writes ∧ (acceptTagged i fr x s).2.out = s.out ∧
    (acceptTagged i fr x s).2.free = s.free := by
  simp only [acceptTagged]
  (repeat' split) <;> simp

@[simp] theorem noteNode_frame (i : Nat) (fr : Frame) (s : State) :
    (noteNode i fr s).pending = s.pending ∧ (noteNode i fr s).ident = s.ident ∧ (noteNode i fr s).sck = s.sck ∧
    (noteNode i fr s).arc = s.arc ∧ (noteNode i fr s).pln = s.pln ∧ (noteNode i fr s).hif = s.hif ∧
    (noteNode i fr s).ts = s.ts ∧ (noteNode i fr s).key = s.key ∧ (noteNode i fr s).pke = s.pke ∧
    (noteNode i fr s).rnu = s.rnu ∧ (noteNode i fr s).tls = s.tls ∧ (noteNode i fr s).ac = s.ac ∧ (noteNode i fr s).tm = s.tm ∧
    (noteNode i fr s).lcc = s.lcc ∧ (noteNode i fr s).stc = s.stc ∧ (noteNode i fr s).pwr = s.pwr ∧
    (noteNode i fr s).io = s.io ∧ (noteNode i fr s).ev = s.ev ∧ (noteNode i fr s).rw = s.rw ∧
    (noteNode i fr s).store = s.store ∧ (noteNode i fr s).writes = s.writes ∧ (noteNode i fr s).out = s.out ∧
    (noteNode i fr s).free = s.free := by
  simp [noteNode, ite_pending, ite_ident, ite_sck, ite_arc, ite_pln, ite_hif, ite_ts, ite_key, ite_pke, ite_rnu, ite_tls, ite_ac, ite_tm, ite_lcc, ite_stc, ite_pwr, ite_io, ite_ev, ite_rw, ite_store, ite_writes, ite_out, ite_free]

@[simp] theorem pairReceive_frame (fr : Frame) (s : State) :
    (pairReceive fr s).2.pending = s.pending ∧ (pairReceive fr s).2.ident = s.ident ∧ (pairReceive fr s).2.sck = s.sck ∧
    (pairReceive fr s).2.pln = s.pln ∧ (pairReceive fr s).2.hif = s.hif ∧ (pairReceive fr s).2.ts = s.ts ∧
    (pairReceive fr s).2.key = s.key ∧ (pairReceive fr s).2.pke = s.pke ∧ (pairReceive fr s).2.rnu = s.rnu ∧
    (pairReceive fr s).2.tls = s.tls ∧ (pairReceive fr s).2.ac = s.ac ∧ (pairReceive fr s).2.tm = s.tm ∧
    (pairReceive fr s).2.lcc = s.lcc ∧ (pairReceive fr s).2.stc = s.stc ∧ (pairReceive fr s).2.pwr = s.pwr ∧
    (pairReceive fr s).2.io = s.io ∧ (pairReceive fr s).2.ev = s.ev ∧ (pairReceive fr s).2.rw = s.rw ∧
    (pairReceive fr s).2.store = s.store ∧ (pairReceive fr s).2.writes = s.writes ∧ (pairReceive fr s).2.free = s.free := by
  simp only [pairReceive]
  (repeat' split) <;> simp

@[simp] theorem macsecReceive_frame (fr : Frame) (s : State) :
    (macsecReceive fr s).2.pending = s.pending ∧ (macsecReceive fr s).2.ident = s.ident ∧ (macsecReceive fr s).2.sck = s.sck ∧
    (macsecReceive fr s).2.arc = s.arc ∧ (macsecReceive fr s).2.pln = s.pln ∧ (macsecReceive fr s).2.hif = s.hif ∧
    (macsecReceive fr s).2.ts = s.ts ∧ (macsecReceive fr s).2.key = s.key ∧ (macsecReceive fr s).2.pke = s.pke ∧
    (macsecReceive fr s).2.rnu = s.rnu ∧ (macsecReceive fr s).2.tls = s.tls ∧ (macsecReceive fr s).2.ac = s.ac ∧
    (macsecReceive fr s).2.tm = s.tm ∧ (macsecReceive fr s).2.lcc = s.lcc ∧ (macsecReceive fr s).2.stc = s.stc ∧
    (macsecReceive fr s).2.pwr = s.pwr ∧ (macsecReceive fr s).2.io = s.io ∧ (macsecReceive fr s).2.ev = s.ev ∧
    (macsecReceive fr s).2.rw = s.rw ∧ (macsecReceive fr s).2.store = s.store ∧ (macsecReceive fr s).2.writes = s.writes ∧
    (macsecReceive fr s).2.out = s.out ∧ (macsecReceive fr s).2.free = s.free := by
  simp only [macsecReceive]
  (repeat' split) <;> simp

@[simp] theorem exceptionFrame_frame (fr : Frame) (s : State) :
    (exceptionFrame fr s).pending = s.pending ∧ (exceptionFrame fr s).ident = s.ident ∧ (exceptionFrame fr s).sck = s.sck ∧
    (exceptionFrame fr s).arc = s.arc ∧ (exceptionFrame fr s).pln = s.pln ∧ (exceptionFrame fr s).key = s.key ∧
    (exceptionFrame fr s).pke = s.pke ∧ (exceptionFrame fr s).rnu = s.rnu ∧ (exceptionFrame fr s).tls = s.tls ∧
    (exceptionFrame fr s).ac = s.ac ∧ (exceptionFrame fr s).tm = s.tm ∧ (exceptionFrame fr s).lcc = s.lcc ∧
    (exceptionFrame fr s).stc = s.stc ∧ (exceptionFrame fr s).pwr = s.pwr ∧ (exceptionFrame fr s).io = s.io ∧
    (exceptionFrame fr s).rw = s.rw ∧ (exceptionFrame fr s).store = s.store ∧ (exceptionFrame fr s).writes = s.writes ∧
    (exceptionFrame fr s).free = s.free := by
  simp [exceptionFrame, ite_pending, ite_ident, ite_sck, ite_arc, ite_pln, ite_key, ite_pke, ite_rnu, ite_tls, ite_ac, ite_tm, ite_lcc, ite_stc, ite_pwr, ite_io, ite_rw, ite_store, ite_writes, ite_free]

@[simp] theorem admitException_frame (fr : Frame) (s : State) :
    (admitException fr s).pending = s.pending ∧ (admitException fr s).ident = s.ident ∧ (admitException fr s).sck = s.sck ∧
    (admitException fr s).arc = s.arc ∧ (admitException fr s).pln = s.pln ∧ (admitException fr s).key = s.key ∧
    (admitException fr s).pke = s.pke ∧ (admitException fr s).rnu = s.rnu ∧ (admitException fr s).tls = s.tls ∧
    (admitException fr s).ac = s.ac ∧ (admitException fr s).tm = s.tm ∧ (admitException fr s).lcc = s.lcc ∧
    (admitException fr s).stc = s.stc ∧ (admitException fr s).pwr = s.pwr ∧ (admitException fr s).io = s.io ∧
    (admitException fr s).rw = s.rw ∧ (admitException fr s).store = s.store ∧ (admitException fr s).writes = s.writes ∧
    (admitException fr s).free = s.free := by
  simp [admitException, ite_pending, ite_ident, ite_sck, ite_arc, ite_pln, ite_key, ite_pke, ite_rnu, ite_tls, ite_ac, ite_tm, ite_lcc, ite_stc, ite_pwr, ite_io, ite_rw, ite_store, ite_writes, ite_free]

@[simp] theorem admitFrame_frame (fr : Frame) (ctrError : Bool) (s0 : State) :
    (admitFrame fr ctrError s0).pending = s0.pending ∧ (admitFrame fr ctrError s0).ident = s0.ident ∧
    (admitFrame fr ctrError s0).pke = s0.pke ∧ (admitFrame fr ctrError s0).rnu = s0.rnu ∧
    (admitFrame fr ctrError s0).tls = s0.tls ∧ (admitFrame fr ctrError s0).ac = s0.ac ∧
    (admitFrame fr ctrError s0).tm = s0.tm ∧ (admitFrame fr ctrError s0).lcc = s0.lcc ∧
    (admitFrame fr ctrError s0).stc = s0.stc ∧ (admitFrame fr ctrError s0).pwr = s0.pwr ∧
    (admitFrame fr ctrError s0).io = s0.io ∧ (admitFrame fr ctrError s0).rw = s0.rw ∧
    (admitFrame fr ctrError s0).store = s0.store ∧ (admitFrame fr ctrError s0).writes = s0.writes := by
  simp only [admitFrame]
  (repeat' split) <;> simp

@[simp] theorem sendSupervision_frame (i : Nat) (s : State) :
    (sendSupervision i s).pending = s.pending ∧ (sendSupervision i s).ident = s.ident ∧ (sendSupervision i s).sck = s.sck ∧
    (sendSupervision i s).arc = s.arc ∧ (sendSupervision i s).pln = s.pln ∧ (sendSupervision i s).hif = s.hif ∧
    (sendSupervision i s).ts = s.ts ∧ (sendSupervision i s).key = s.key ∧ (sendSupervision i s).pke = s.pke ∧
    (sendSupervision i s).rnu = s.rnu ∧ (sendSupervision i s).tls = s.tls ∧ (sendSupervision i s).ac = s.ac ∧
    (sendSupervision i s).tm = s.tm ∧ (sendSupervision i s).lcc = s.lcc ∧ (sendSupervision i s).stc = s.stc ∧
    (sendSupervision i s).pwr = s.pwr ∧ (sendSupervision i s).io = s.io ∧ (sendSupervision i s).ev = s.ev ∧
    (sendSupervision i s).rw = s.rw ∧ (sendSupervision i s).store = s.store ∧ (sendSupervision i s).writes = s.writes ∧
    (sendSupervision i s).out = s.out ∧ (sendSupervision i s).free = s.free := by
  simp [sendSupervision, ite_pending, ite_ident, ite_sck, ite_arc, ite_pln, ite_hif, ite_ts, ite_key, ite_pke, ite_rnu, ite_tls, ite_ac, ite_tm, ite_lcc, ite_stc, ite_pwr, ite_io, ite_ev, ite_rw, ite_store, ite_writes, ite_out, ite_free]

@[simp] theorem endConds_frame (p : Nat) (x1 : List Nat) (x2 : State) :
    (endConds p x1 x2).pending = x2.pending ∧ (endConds p x1 x2).ident = x2.ident ∧ (endConds p x1 x2).sck = x2.sck ∧
    (endConds p x1 x2).pln = x2.pln ∧ (endConds p x1 x2).hif = x2.hif ∧ (endConds p x1 x2).ts = x2.ts ∧
    (endConds p x1 x2).key = x2.key ∧ (endConds p x1 x2).pke = x2.pke ∧ (endConds p x1 x2).rnu = x2.rnu ∧
    (endConds p x1 x2).tls = x2.tls ∧ (endConds p x1 x2).ac = x2.ac ∧ (endConds p x1 x2).tm = x2.tm ∧
    (endConds p x1 x2).lcc = x2.lcc ∧ (endConds p x1 x2).stc = x2.stc ∧ (endConds p x1 x2).pwr = x2.pwr ∧
    (endConds p x1 x2).io = x2.io ∧ (endConds p x1 x2).ev = x2.ev ∧ (endConds p x1 x2).rw = x2.rw ∧
    (endConds p x1 x2).store = x2.store ∧ (endConds p x1 x2).writes = x2.writes ∧ (endConds p x1 x2).out = x2.out ∧
    (endConds p x1 x2).free = x2.free := by
  induction x1 generalizing p x2 with
  | nil => simp [endConds]
  | cons c l ih => (simp only [endConds, ih]; simp)

@[simp] theorem installSak_frame (p : Nat) (m : MkaSak) (sak : Bytes) (replace : Bool) (s : State) :
    (installSak p m sak replace s).pending = s.pending ∧ (installSak p m sak replace s).ident = s.ident ∧
    (installSak p m sak replace s).sck = s.sck ∧ (installSak p m sak replace s).pln = s.pln ∧
    (installSak p m sak replace s).hif = s.hif ∧ (installSak p m sak replace s).ts = s.ts ∧
    (installSak p m sak replace s).key = s.key ∧ (installSak p m sak replace s).pke = s.pke ∧
    (installSak p m sak replace s).rnu = s.rnu ∧ (installSak p m sak replace s).tls = s.tls ∧
    (installSak p m sak replace s).ac = s.ac ∧ (installSak p m sak replace s).tm = s.tm ∧
    (installSak p m sak replace s).lcc = s.lcc ∧ (installSak p m sak replace s).stc = s.stc ∧
    (installSak p m sak replace s).pwr = s.pwr ∧ (installSak p m sak replace s).io = s.io ∧
    (installSak p m sak replace s).ev = s.ev ∧ (installSak p m sak replace s).rw = s.rw ∧
    (installSak p m sak replace s).store = s.store ∧ (installSak p m sak replace s).writes = s.writes ∧
    (installSak p m sak replace s).out = s.out ∧ (installSak p m sak replace s).free = s.free := by
  simp [installSak]

theorem exchangeSak_frame (p : Nat) (server : Bool) (kek : Bytes) (m : MkaSak) (s : State) (t : Bytes × State) (h : exchangeSak p server kek m s = some t) :
    t.2.pending = s.pending ∧ t.2.ident = s.ident ∧ t.2.sck = s.sck ∧ t.2.arc = s.arc ∧ t.2.pln = s.pln ∧ t.2.hif = s.hif ∧
    t.2.ts = s.ts ∧ t.2.key = s.key ∧ t.2.pke = s.pke ∧ t.2.tls = s.tls ∧ t.2.ac = s.ac ∧ t.2.tm = s.tm ∧ t.2.lcc = s.lcc ∧
    t.2.stc = s.stc ∧ t.2.pwr = s.pwr ∧ t.2.io = s.io ∧ t.2.ev = s.ev ∧ t.2.rw = s.rw ∧ t.2.store = s.store ∧
    t.2.writes = s.writes ∧ t.2.out = s.out := by
  unfold exchangeSak at h
  split at h
  · split at h
    · cases h; simp
    · cases h
  · simp only [Option.map_eq_some_iff] at h; obtain ⟨_, _, rfl⟩ := h; simp

@[simp] theorem applyPortCfg_frame (p : Nat) (value : Nat) (s : State) :
    (applyPortCfg p value s).pending = s.pending ∧ (applyPortCfg p value s).ident = s.ident ∧
    (applyPortCfg p value s).sck = s.sck ∧ (applyPortCfg p value s).pln = s.pln ∧ (applyPortCfg p value s).key = s.key ∧
    (applyPortCfg p value s).pke = s.pke ∧ (applyPortCfg p value s).rnu = s.rnu ∧ (applyPortCfg p value s).tls = s.tls ∧
    (applyPortCfg p value s).ac = s.ac ∧ (applyPortCfg p value s).tm = s.tm ∧ (applyPortCfg p value s).lcc = s.lcc ∧
    (applyPortCfg p value s).stc = s.stc ∧ (applyPortCfg p value s).pwr = s.pwr ∧ (applyPortCfg p value s).io = s.io ∧
    (applyPortCfg p value s).ev = s.ev ∧ (applyPortCfg p value s).store = s.store ∧
    (applyPortCfg p value s).writes = s.writes ∧ (applyPortCfg p value s).free = s.free := by
  simp [applyPortCfg]

@[simp] theorem setKind_frame (i : Nat) (kind : Nat) (s : State) :
    (setKind i kind s).pending = s.pending ∧ (setKind i kind s).ident = s.ident ∧ (setKind i kind s).sck = s.sck ∧
    (setKind i kind s).pln = s.pln ∧ (setKind i kind s).key = s.key ∧ (setKind i kind s).pke = s.pke ∧
    (setKind i kind s).rnu = s.rnu ∧ (setKind i kind s).tls = s.tls ∧ (setKind i kind s).ac = s.ac ∧
    (setKind i kind s).tm = s.tm ∧ (setKind i kind s).lcc = s.lcc ∧ (setKind i kind s).stc = s.stc ∧
    (setKind i kind s).pwr = s.pwr ∧ (setKind i kind s).io = s.io ∧ (setKind i kind s).ev = s.ev ∧
    (setKind i kind s).store = s.store ∧ (setKind i kind s).writes = s.writes ∧ (setKind i kind s).free = s.free := by
  simp [setKind]

@[simp] theorem applyPairCfg_frame (i : Nat) (value : Nat) (s : State) :
    (applyPairCfg i value s).pending = s.pending ∧ (applyPairCfg i value s).ident = s.ident ∧
    (applyPairCfg i value s).sck = s.sck ∧ (applyPairCfg i value s).arc = s.arc ∧ (applyPairCfg i value s).pln = s.pln ∧
    (applyPairCfg i value s).fe = s.fe ∧ (applyPairCfg i value s).hif = s.hif ∧ (applyPairCfg i value s).ts = s.ts ∧
    (applyPairCfg i value s).key = s.key ∧ (applyPairCfg i value s).pke = s.pke ∧ (applyPairCfg i value s).rnu = s.rnu ∧
    (applyPairCfg i value s).tls = s.tls ∧ (applyPairCfg i value s).ac = s.ac ∧ (applyPairCfg i value s).tm = s.tm ∧
    (applyPairCfg i value s).lcc = s.lcc ∧ (applyPairCfg i value s).stc = s.stc ∧ (applyPairCfg i value s).pwr = s.pwr ∧
    (applyPairCfg i value s).io = s.io ∧ (applyPairCfg i value s).ev = s.ev ∧ (applyPairCfg i value s).store = s.store ∧
    (applyPairCfg i value s).writes = s.writes ∧ (applyPairCfg i value s).out = s.out ∧
    (applyPairCfg i value s).free = s.free := by
  simp [applyPairCfg]

end Sys2Proof.Machine
end

