-- ==== Sys2Proof/Laws/ArchiveOps.lean ====
section
/-! SUPPORT. What the operations of Machine/ArchiveOps.lean leave unchanged, once for each: its frame. -/

namespace Sys2Proof.Machine

@[simp] theorem releaseZones_frame (signer : Nat) (cpSeq : Nat) (l : List Nat) (s : State) :
    (releaseZones signer cpSeq l s).pending = s.pending ∧ (releaseZones signer cpSeq l s).ident = s.ident ∧
    (releaseZones signer cpSeq l s).sck = s.sck ∧ (releaseZones signer cpSeq l s).ac = s.ac ∧
    (releaseZones signer cpSeq l s).pwr = s.pwr ∧ (releaseZones signer cpSeq l s).rw = s.rw ∧
    (releaseZones signer cpSeq l s).store = s.store ∧ (releaseZones signer cpSeq l s).writes = s.writes ∧
    (releaseZones signer cpSeq l s).free = s.free := by
  simp [releaseZones]

@[simp] theorem afterRelease_frame (s : State) :
    (afterRelease s).pending = s.pending ∧ (afterRelease s).ident = s.ident ∧ (afterRelease s).sck = s.sck ∧
    (afterRelease s).pln = s.pln ∧ (afterRelease s).ts = s.ts ∧ (afterRelease s).pke = s.pke ∧ (afterRelease s).tls = s.tls ∧
    (afterRelease s).ac = s.ac ∧ (afterRelease s).lcc = s.lcc ∧ (afterRelease s).stc = s.stc ∧ (afterRelease s).pwr = s.pwr ∧
    (afterRelease s).rw = s.rw ∧ (afterRelease s).store = s.store ∧ (afterRelease s).writes = s.writes := by
  simp [afterRelease, ite_pending, ite_ident, ite_sck, ite_pln, ite_ts, ite_pke, ite_tls, ite_ac, ite_lcc, ite_stc, ite_pwr, ite_rw, ite_store, ite_writes]

end Sys2Proof.Machine
end

