-- ==== Sys2Proof/Laws/Vf.lean ====
section
/-! SUPPORT. What the operations of Machine/Vf.lean leave unchanged, once for each: its frame. -/

namespace Sys2Proof.Machine

@[simp] theorem pfShare_frame (s : State) :
    (pfShare s).pending = s.pending ∧ (pfShare s).ident = s.ident ∧ (pfShare s).sck = s.sck ∧ (pfShare s).arc = s.arc ∧
    (pfShare s).pln = s.pln ∧ (pfShare s).fe = s.fe ∧ (pfShare s).ts = s.ts ∧ (pfShare s).key = s.key ∧
    (pfShare s).pke = s.pke ∧ (pfShare s).rnu = s.rnu ∧ (pfShare s).tls = s.tls ∧ (pfShare s).ac = s.ac ∧
    (pfShare s).tm = s.tm ∧ (pfShare s).lcc = s.lcc ∧ (pfShare s).stc = s.stc ∧ (pfShare s).pwr = s.pwr ∧
    (pfShare s).io = s.io ∧ (pfShare s).ev = s.ev ∧ (pfShare s).rw = s.rw ∧ (pfShare s).store = s.store ∧
    (pfShare s).writes = s.writes ∧ (pfShare s).out = s.out ∧ (pfShare s).free = s.free := by
  simp [pfShare]

@[simp] theorem resetHostSide_frame (f : Nat) (keepHalt : Bool) (s : State) :
    (resetHostSide f keepHalt s).pending = s.pending ∧ (resetHostSide f keepHalt s).ident = s.ident ∧
    (resetHostSide f keepHalt s).sck = s.sck ∧ (resetHostSide f keepHalt s).arc = s.arc ∧
    (resetHostSide f keepHalt s).pln = s.pln ∧ (resetHostSide f keepHalt s).fe = s.fe ∧
    (resetHostSide f keepHalt s).ts = s.ts ∧ (resetHostSide f keepHalt s).key = s.key ∧
    (resetHostSide f keepHalt s).pke = s.pke ∧ (resetHostSide f keepHalt s).rnu = s.rnu ∧
    (resetHostSide f keepHalt s).tls = s.tls ∧ (resetHostSide f keepHalt s).ac = s.ac ∧
    (resetHostSide f keepHalt s).tm = s.tm ∧ (resetHostSide f keepHalt s).lcc = s.lcc ∧
    (resetHostSide f keepHalt s).stc = s.stc ∧ (resetHostSide f keepHalt s).pwr = s.pwr ∧
    (resetHostSide f keepHalt s).io = s.io ∧ (resetHostSide f keepHalt s).store = s.store ∧
    (resetHostSide f keepHalt s).writes = s.writes ∧ (resetHostSide f keepHalt s).out = s.out ∧
    (resetHostSide f keepHalt s).free = s.free := by
  simp [resetHostSide]

@[simp] theorem endFreeze_frame (f : Nat) (s : State) :
    (endFreeze f s).pending = s.pending ∧ (endFreeze f s).ident = s.ident ∧ (endFreeze f s).sck = s.sck ∧
    (endFreeze f s).arc = s.arc ∧ (endFreeze f s).pln = s.pln ∧ (endFreeze f s).fe = s.fe ∧ (endFreeze f s).ts = s.ts ∧
    (endFreeze f s).key = s.key ∧ (endFreeze f s).pke = s.pke ∧ (endFreeze f s).rnu = s.rnu ∧ (endFreeze f s).tls = s.tls ∧
    (endFreeze f s).ac = s.ac ∧ (endFreeze f s).tm = s.tm ∧ (endFreeze f s).lcc = s.lcc ∧ (endFreeze f s).stc = s.stc ∧
    (endFreeze f s).pwr = s.pwr ∧ (endFreeze f s).io = s.io ∧ (endFreeze f s).rw = s.rw ∧ (endFreeze f s).store = s.store ∧
    (endFreeze f s).writes = s.writes ∧ (endFreeze f s).free = s.free := by
  simp [endFreeze, ite_pending, ite_ident, ite_sck, ite_arc, ite_pln, ite_fe, ite_ts, ite_key, ite_pke, ite_rnu, ite_tls, ite_ac, ite_tm, ite_lcc, ite_stc, ite_pwr, ite_io, ite_rw, ite_store, ite_writes, ite_free]

@[simp] theorem discardCtx_frame (orphan : Nat) (c : Ctx) (s : State) :
    (discardCtx orphan c s).pending = s.pending ∧ (discardCtx orphan c s).ident = s.ident ∧
    (discardCtx orphan c s).sck = s.sck ∧ (discardCtx orphan c s).fe = s.fe ∧ (discardCtx orphan c s).key = s.key ∧
    (discardCtx orphan c s).pke = s.pke ∧ (discardCtx orphan c s).rnu = s.rnu ∧ (discardCtx orphan c s).tls = s.tls ∧
    (discardCtx orphan c s).ac = s.ac ∧ (discardCtx orphan c s).tm = s.tm ∧ (discardCtx orphan c s).lcc = s.lcc ∧
    (discardCtx orphan c s).stc = s.stc ∧ (discardCtx orphan c s).io = s.io ∧ (discardCtx orphan c s).rw = s.rw ∧
    (discardCtx orphan c s).store = s.store ∧ (discardCtx orphan c s).writes = s.writes ∧
    (discardCtx orphan c s).free = s.free := by
  simp [discardCtx, ite_pending, ite_ident, ite_sck, ite_fe, ite_key, ite_pke, ite_rnu, ite_tls, ite_ac, ite_tm, ite_lcc, ite_stc, ite_io, ite_rw, ite_store, ite_writes, ite_free]

@[simp] theorem warmCtx_frame (c : Ctx) (s : State) :
    (warmCtx c s).pending = s.pending ∧ (warmCtx c s).ident = s.ident ∧ (warmCtx c s).sck = s.sck ∧ (warmCtx c s).fe = s.fe ∧
    (warmCtx c s).key = s.key ∧ (warmCtx c s).pke = s.pke ∧ (warmCtx c s).rnu = s.rnu ∧ (warmCtx c s).tls = s.tls ∧
    (warmCtx c s).ac = s.ac ∧ (warmCtx c s).tm = s.tm ∧ (warmCtx c s).lcc = s.lcc ∧ (warmCtx c s).stc = s.stc ∧
    (warmCtx c s).io = s.io ∧ (warmCtx c s).rw = s.rw ∧ (warmCtx c s).store = s.store ∧ (warmCtx c s).writes = s.writes ∧
    (warmCtx c s).free = s.free := by
  simp [warmCtx, ite_pending, ite_ident, ite_sck, ite_fe, ite_key, ite_pke, ite_rnu, ite_tls, ite_ac, ite_tm, ite_lcc, ite_stc, ite_io, ite_rw, ite_store, ite_writes, ite_free]

@[simp] theorem warmCtxs_frame (x1 : List Ctx) (x2 : State) :
    (warmCtxs x1 x2).pending = x2.pending ∧ (warmCtxs x1 x2).ident = x2.ident ∧ (warmCtxs x1 x2).sck = x2.sck ∧
    (warmCtxs x1 x2).fe = x2.fe ∧ (warmCtxs x1 x2).key = x2.key ∧ (warmCtxs x1 x2).pke = x2.pke ∧
    (warmCtxs x1 x2).rnu = x2.rnu ∧ (warmCtxs x1 x2).tls = x2.tls ∧ (warmCtxs x1 x2).ac = x2.ac ∧ (warmCtxs x1 x2).tm = x2.tm ∧
    (warmCtxs x1 x2).lcc = x2.lcc ∧ (warmCtxs x1 x2).stc = x2.stc ∧ (warmCtxs x1 x2).io = x2.io ∧ (warmCtxs x1 x2).rw = x2.rw ∧
    (warmCtxs x1 x2).store = x2.store ∧ (warmCtxs x1 x2).writes = x2.writes ∧ (warmCtxs x1 x2).free = x2.free := by
  induction x1 generalizing x2 with
  | nil => simp [warmCtxs]
  | cons c l ih => (simp only [warmCtxs, ih]; simp)

@[simp] theorem warmFuncs_frame (x1 : Nat) (x2 : State) :
    (warmFuncs x1 x2).pending = x2.pending ∧ (warmFuncs x1 x2).ident = x2.ident ∧ (warmFuncs x1 x2).sck = x2.sck ∧
    (warmFuncs x1 x2).arc = x2.arc ∧ (warmFuncs x1 x2).pln = x2.pln ∧ (warmFuncs x1 x2).fe = x2.fe ∧
    (warmFuncs x1 x2).ts = x2.ts ∧ (warmFuncs x1 x2).key = x2.key ∧ (warmFuncs x1 x2).pke = x2.pke ∧
    (warmFuncs x1 x2).rnu = x2.rnu ∧ (warmFuncs x1 x2).tls = x2.tls ∧ (warmFuncs x1 x2).ac = x2.ac ∧
    (warmFuncs x1 x2).tm = x2.tm ∧ (warmFuncs x1 x2).lcc = x2.lcc ∧ (warmFuncs x1 x2).stc = x2.stc ∧
    (warmFuncs x1 x2).pwr = x2.pwr ∧ (warmFuncs x1 x2).io = x2.io ∧ (warmFuncs x1 x2).store = x2.store ∧
    (warmFuncs x1 x2).writes = x2.writes ∧ (warmFuncs x1 x2).free = x2.free := by
  induction x1 generalizing x2 with
  | zero => simp [warmFuncs]
  | succ n ih => (simp only [warmFuncs]; (repeat' split) <;> simp [ih])

@[simp] theorem dropLink_frame (s : State) :
    (dropLink s).pending = s.pending ∧ (dropLink s).ident = s.ident ∧ (dropLink s).sck = s.sck ∧ (dropLink s).pln = s.pln ∧
    (dropLink s).ts = s.ts ∧ (dropLink s).key = s.key ∧ (dropLink s).pke = s.pke ∧ (dropLink s).rnu = s.rnu ∧
    (dropLink s).tls = s.tls ∧ (dropLink s).ac = s.ac ∧ (dropLink s).tm = s.tm ∧ (dropLink s).lcc = s.lcc ∧
    (dropLink s).stc = s.stc ∧ (dropLink s).pwr = s.pwr ∧ (dropLink s).io = s.io ∧ (dropLink s).ev = s.ev ∧
    (dropLink s).rw = s.rw ∧ (dropLink s).store = s.store ∧ (dropLink s).writes = s.writes ∧ (dropLink s).out = s.out ∧
    (dropLink s).free = s.free := by
  simp [dropLink]

@[simp] theorem flrCtx_frame (f : Nat) (c : Ctx) (s : State) :
    (flrCtx f c s).pending = s.pending ∧ (flrCtx f c s).ident = s.ident ∧ (flrCtx f c s).sck = s.sck ∧
    (flrCtx f c s).fe = s.fe ∧ (flrCtx f c s).key = s.key ∧ (flrCtx f c s).pke = s.pke ∧ (flrCtx f c s).rnu = s.rnu ∧
    (flrCtx f c s).tls = s.tls ∧ (flrCtx f c s).ac = s.ac ∧ (flrCtx f c s).tm = s.tm ∧ (flrCtx f c s).lcc = s.lcc ∧
    (flrCtx f c s).stc = s.stc ∧ (flrCtx f c s).io = s.io ∧ (flrCtx f c s).rw = s.rw ∧ (flrCtx f c s).store = s.store ∧
    (flrCtx f c s).writes = s.writes ∧ (flrCtx f c s).free = s.free := by
  simp [flrCtx, ite_pending, ite_ident, ite_sck, ite_fe, ite_key, ite_pke, ite_rnu, ite_tls, ite_ac, ite_tm, ite_lcc, ite_stc, ite_io, ite_rw, ite_store, ite_writes, ite_free]

@[simp] theorem flrCtxs_frame (f : Nat) (x1 : List Ctx) (x2 : State) :
    (flrCtxs f x1 x2).pending = x2.pending ∧ (flrCtxs f x1 x2).ident = x2.ident ∧ (flrCtxs f x1 x2).sck = x2.sck ∧
    (flrCtxs f x1 x2).fe = x2.fe ∧ (flrCtxs f x1 x2).key = x2.key ∧ (flrCtxs f x1 x2).pke = x2.pke ∧
    (flrCtxs f x1 x2).rnu = x2.rnu ∧ (flrCtxs f x1 x2).tls = x2.tls ∧ (flrCtxs f x1 x2).ac = x2.ac ∧
    (flrCtxs f x1 x2).tm = x2.tm ∧ (flrCtxs f x1 x2).lcc = x2.lcc ∧ (flrCtxs f x1 x2).stc = x2.stc ∧
    (flrCtxs f x1 x2).io = x2.io ∧ (flrCtxs f x1 x2).rw = x2.rw ∧ (flrCtxs f x1 x2).store = x2.store ∧
    (flrCtxs f x1 x2).writes = x2.writes ∧ (flrCtxs f x1 x2).free = x2.free := by
  induction x1 generalizing f x2 with
  | nil => simp [flrCtxs]
  | cons c l ih => (simp only [flrCtxs, ih]; simp)

@[simp] theorem abortNaming_frame (f : Nat) (x1 : List Ctx) (x2 : State) :
    (abortNaming f x1 x2).pending = x2.pending ∧ (abortNaming f x1 x2).ident = x2.ident ∧ (abortNaming f x1 x2).sck = x2.sck ∧
    (abortNaming f x1 x2).fe = x2.fe ∧ (abortNaming f x1 x2).key = x2.key ∧ (abortNaming f x1 x2).pke = x2.pke ∧
    (abortNaming f x1 x2).rnu = x2.rnu ∧ (abortNaming f x1 x2).tls = x2.tls ∧ (abortNaming f x1 x2).ac = x2.ac ∧
    (abortNaming f x1 x2).tm = x2.tm ∧ (abortNaming f x1 x2).lcc = x2.lcc ∧ (abortNaming f x1 x2).stc = x2.stc ∧
    (abortNaming f x1 x2).io = x2.io ∧ (abortNaming f x1 x2).rw = x2.rw ∧ (abortNaming f x1 x2).store = x2.store ∧
    (abortNaming f x1 x2).writes = x2.writes ∧ (abortNaming f x1 x2).free = x2.free := by
  induction x1 generalizing f x2 with
  | nil => simp [abortNaming]
  | cons c l ih => (simp only [abortNaming, ih]; (repeat' split) <;> simp)

@[simp] theorem flrCore_frame (f : Nat) (s : State) :
    (flrCore f s).pending = s.pending ∧ (flrCore f s).ident = s.ident ∧ (flrCore f s).sck = s.sck ∧ (flrCore f s).key = s.key ∧
    (flrCore f s).rnu = s.rnu ∧ (flrCore f s).ac = s.ac ∧ (flrCore f s).tm = s.tm ∧ (flrCore f s).lcc = s.lcc ∧
    (flrCore f s).stc = s.stc ∧ (flrCore f s).io = s.io ∧ (flrCore f s).store = s.store ∧ (flrCore f s).writes = s.writes ∧
    (flrCore f s).free = s.free := by
  simp [flrCore]

@[simp] theorem removeVfs_frame (x1 : List Nat) (x2 : State) :
    (removeVfs x1 x2).pending = x2.pending ∧ (removeVfs x1 x2).ident = x2.ident ∧ (removeVfs x1 x2).sck = x2.sck ∧
    (removeVfs x1 x2).key = x2.key ∧ (removeVfs x1 x2).rnu = x2.rnu ∧ (removeVfs x1 x2).ac = x2.ac ∧
    (removeVfs x1 x2).tm = x2.tm ∧ (removeVfs x1 x2).lcc = x2.lcc ∧ (removeVfs x1 x2).stc = x2.stc ∧
    (removeVfs x1 x2).io = x2.io ∧ (removeVfs x1 x2).store = x2.store ∧ (removeVfs x1 x2).writes = x2.writes ∧
    (removeVfs x1 x2).free = x2.free := by
  induction x1 generalizing x2 with
  | nil => simp [removeVfs]
  | cons c l ih => (simp only [removeVfs, ih]; (repeat' split) <;> simp)

@[simp] theorem liftAll_frame (f : Nat) (x1 : List Ctx) (x2 : State) :
    (liftAll f x1 x2).pending = x2.pending ∧ (liftAll f x1 x2).ident = x2.ident ∧ (liftAll f x1 x2).sck = x2.sck ∧
    (liftAll f x1 x2).arc = x2.arc ∧ (liftAll f x1 x2).pln = x2.pln ∧ (liftAll f x1 x2).fe = x2.fe ∧
    (liftAll f x1 x2).key = x2.key ∧ (liftAll f x1 x2).pke = x2.pke ∧ (liftAll f x1 x2).rnu = x2.rnu ∧
    (liftAll f x1 x2).tls = x2.tls ∧ (liftAll f x1 x2).ac = x2.ac ∧ (liftAll f x1 x2).tm = x2.tm ∧
    (liftAll f x1 x2).lcc = x2.lcc ∧ (liftAll f x1 x2).stc = x2.stc ∧ (liftAll f x1 x2).pwr = x2.pwr ∧
    (liftAll f x1 x2).io = x2.io ∧ (liftAll f x1 x2).ev = x2.ev ∧ (liftAll f x1 x2).rw = x2.rw ∧
    (liftAll f x1 x2).store = x2.store ∧ (liftAll f x1 x2).writes = x2.writes ∧ (liftAll f x1 x2).out = x2.out ∧
    (liftAll f x1 x2).free = x2.free := by
  induction x1 generalizing f x2 with
  | nil => simp [liftAll]
  | cons c l ih => (simp only [liftAll, ih]; (repeat' split) <;> simp)

@[simp] theorem squashWaiting_frame (f : Nat) (x1 : List Ctx) (x2 : State) :
    (squashWaiting f x1 x2).pending = x2.pending ∧ (squashWaiting f x1 x2).ident = x2.ident ∧
    (squashWaiting f x1 x2).sck = x2.sck ∧ (squashWaiting f x1 x2).arc = x2.arc ∧ (squashWaiting f x1 x2).pln = x2.pln ∧
    (squashWaiting f x1 x2).fe = x2.fe ∧ (squashWaiting f x1 x2).key = x2.key ∧ (squashWaiting f x1 x2).pke = x2.pke ∧
    (squashWaiting f x1 x2).rnu = x2.rnu ∧ (squashWaiting f x1 x2).tls = x2.tls ∧ (squashWaiting f x1 x2).ac = x2.ac ∧
    (squashWaiting f x1 x2).tm = x2.tm ∧ (squashWaiting f x1 x2).lcc = x2.lcc ∧ (squashWaiting f x1 x2).stc = x2.stc ∧
    (squashWaiting f x1 x2).pwr = x2.pwr ∧ (squashWaiting f x1 x2).io = x2.io ∧ (squashWaiting f x1 x2).ev = x2.ev ∧
    (squashWaiting f x1 x2).rw = x2.rw ∧ (squashWaiting f x1 x2).store = x2.store ∧
    (squashWaiting f x1 x2).writes = x2.writes ∧ (squashWaiting f x1 x2).free = x2.free := by
  induction x1 generalizing f x2 with
  | nil => simp [squashWaiting]
  | cons c l ih => (simp only [squashWaiting, ih]; (repeat' split) <;> simp)

@[simp] theorem beginFreeze_frame (f : Nat) (s : State) :
    (beginFreeze f s).pending = s.pending ∧ (beginFreeze f s).ident = s.ident ∧ (beginFreeze f s).sck = s.sck ∧
    (beginFreeze f s).fe = s.fe ∧ (beginFreeze f s).key = s.key ∧ (beginFreeze f s).pke = s.pke ∧
    (beginFreeze f s).rnu = s.rnu ∧ (beginFreeze f s).tls = s.tls ∧ (beginFreeze f s).ac = s.ac ∧ (beginFreeze f s).tm = s.tm ∧
    (beginFreeze f s).lcc = s.lcc ∧ (beginFreeze f s).stc = s.stc ∧ (beginFreeze f s).io = s.io ∧ (beginFreeze f s).rw = s.rw ∧
    (beginFreeze f s).store = s.store ∧ (beginFreeze f s).writes = s.writes ∧ (beginFreeze f s).free = s.free := by
  simp [beginFreeze]

@[simp] theorem saveKey_frame (mkId : Nat) (mk : Bytes) (k : LoadedKey) (s : State) :
    (saveKey mkId mk k s).2.pending = s.pending ∧ (saveKey mkId mk k s).2.ident = s.ident ∧
    (saveKey mkId mk k s).2.sck = s.sck ∧ (saveKey mkId mk k s).2.arc = s.arc ∧ (saveKey mkId mk k s).2.pln = s.pln ∧
    (saveKey mkId mk k s).2.fe = s.fe ∧ (saveKey mkId mk k s).2.hif = s.hif ∧ (saveKey mkId mk k s).2.ts = s.ts ∧
    (saveKey mkId mk k s).2.key = s.key ∧ (saveKey mkId mk k s).2.pke = s.pke ∧ (saveKey mkId mk k s).2.tls = s.tls ∧
    (saveKey mkId mk k s).2.ac = s.ac ∧ (saveKey mkId mk k s).2.tm = s.tm ∧ (saveKey mkId mk k s).2.lcc = s.lcc ∧
    (saveKey mkId mk k s).2.stc = s.stc ∧ (saveKey mkId mk k s).2.pwr = s.pwr ∧ (saveKey mkId mk k s).2.io = s.io ∧
    (saveKey mkId mk k s).2.ev = s.ev ∧ (saveKey mkId mk k s).2.rw = s.rw ∧ (saveKey mkId mk k s).2.store = s.store ∧
    (saveKey mkId mk k s).2.writes = s.writes ∧ (saveKey mkId mk k s).2.out = s.out := by
  simp only [saveKey]
  (repeat' split) <;> simp

@[simp] theorem saveKeys_frame (mkId : Nat) (mk : Bytes) (x1 : List LoadedKey) (x2 : State) :
    (saveKeys mkId mk x1 x2).2.pending = x2.pending ∧ (saveKeys mkId mk x1 x2).2.ident = x2.ident ∧
    (saveKeys mkId mk x1 x2).2.sck = x2.sck ∧ (saveKeys mkId mk x1 x2).2.arc = x2.arc ∧
    (saveKeys mkId mk x1 x2).2.pln = x2.pln ∧ (saveKeys mkId mk x1 x2).2.fe = x2.fe ∧ (saveKeys mkId mk x1 x2).2.hif = x2.hif ∧
    (saveKeys mkId mk x1 x2).2.ts = x2.ts ∧ (saveKeys mkId mk x1 x2).2.key = x2.key ∧ (saveKeys mkId mk x1 x2).2.pke = x2.pke ∧
    (saveKeys mkId mk x1 x2).2.tls = x2.tls ∧ (saveKeys mkId mk x1 x2).2.ac = x2.ac ∧ (saveKeys mkId mk x1 x2).2.tm = x2.tm ∧
    (saveKeys mkId mk x1 x2).2.lcc = x2.lcc ∧ (saveKeys mkId mk x1 x2).2.stc = x2.stc ∧
    (saveKeys mkId mk x1 x2).2.pwr = x2.pwr ∧ (saveKeys mkId mk x1 x2).2.io = x2.io ∧ (saveKeys mkId mk x1 x2).2.ev = x2.ev ∧
    (saveKeys mkId mk x1 x2).2.rw = x2.rw ∧ (saveKeys mkId mk x1 x2).2.store = x2.store ∧
    (saveKeys mkId mk x1 x2).2.writes = x2.writes ∧ (saveKeys mkId mk x1 x2).2.out = x2.out := by
  induction x1 generalizing mkId mk x2 with
  | nil => simp [saveKeys]
  | cons c l ih => (simp only [saveKeys, ih]; simp)

@[simp] theorem saveImage_frame (f : Nat) (tenant : Nat) (mkId : Nat) (mk : Bytes) (s : State) :
    (saveImage f tenant mkId mk s).2.pending = s.pending ∧ (saveImage f tenant mkId mk s).2.ident = s.ident ∧
    (saveImage f tenant mkId mk s).2.sck = s.sck ∧ (saveImage f tenant mkId mk s).2.arc = s.arc ∧
    (saveImage f tenant mkId mk s).2.pln = s.pln ∧ (saveImage f tenant mkId mk s).2.fe = s.fe ∧
    (saveImage f tenant mkId mk s).2.hif = s.hif ∧ (saveImage f tenant mkId mk s).2.ts = s.ts ∧
    (saveImage f tenant mkId mk s).2.key = s.key ∧ (saveImage f tenant mkId mk s).2.pke = s.pke ∧
    (saveImage f tenant mkId mk s).2.tls = s.tls ∧ (saveImage f tenant mkId mk s).2.ac = s.ac ∧
    (saveImage f tenant mkId mk s).2.tm = s.tm ∧ (saveImage f tenant mkId mk s).2.lcc = s.lcc ∧
    (saveImage f tenant mkId mk s).2.stc = s.stc ∧ (saveImage f tenant mkId mk s).2.pwr = s.pwr ∧
    (saveImage f tenant mkId mk s).2.io = s.io ∧ (saveImage f tenant mkId mk s).2.ev = s.ev ∧
    (saveImage f tenant mkId mk s).2.rw = s.rw ∧ (saveImage f tenant mkId mk s).2.store = s.store ∧
    (saveImage f tenant mkId mk s).2.writes = s.writes ∧ (saveImage f tenant mkId mk s).2.out = s.out := by
  simp [saveImage]

@[simp] theorem restoreGen_frame (k : SavedKey) (s : State) :
    (restoreGen k s).pending = s.pending ∧ (restoreGen k s).ident = s.ident ∧ (restoreGen k s).sck = s.sck ∧
    (restoreGen k s).arc = s.arc ∧ (restoreGen k s).pln = s.pln ∧ (restoreGen k s).fe = s.fe ∧ (restoreGen k s).hif = s.hif ∧
    (restoreGen k s).ts = s.ts ∧ (restoreGen k s).pke = s.pke ∧ (restoreGen k s).rnu = s.rnu ∧ (restoreGen k s).tls = s.tls ∧
    (restoreGen k s).ac = s.ac ∧ (restoreGen k s).tm = s.tm ∧ (restoreGen k s).lcc = s.lcc ∧ (restoreGen k s).stc = s.stc ∧
    (restoreGen k s).pwr = s.pwr ∧ (restoreGen k s).io = s.io ∧ (restoreGen k s).ev = s.ev ∧ (restoreGen k s).rw = s.rw ∧
    (restoreGen k s).store = s.store ∧ (restoreGen k s).writes = s.writes ∧ (restoreGen k s).out = s.out ∧
    (restoreGen k s).free = s.free := by
  simp [restoreGen, ite_pending, ite_ident, ite_sck, ite_arc, ite_pln, ite_fe, ite_hif, ite_ts, ite_pke, ite_rnu, ite_tls, ite_ac, ite_tm, ite_lcc, ite_stc, ite_pwr, ite_io, ite_ev, ite_rw, ite_store, ite_writes, ite_out, ite_free]

@[simp] theorem restoreKey_frame (fn : Nat) (mk : Bytes) (k : SavedKey) (b : Blob) (s : State) :
    (restoreKey fn mk k b s).pending = s.pending ∧ (restoreKey fn mk k b s).ident = s.ident ∧
    (restoreKey fn mk k b s).sck = s.sck ∧ (restoreKey fn mk k b s).ts = s.ts ∧ (restoreKey fn mk k b s).pke = s.pke ∧
    (restoreKey fn mk k b s).tls = s.tls ∧ (restoreKey fn mk k b s).ac = s.ac ∧ (restoreKey fn mk k b s).tm = s.tm ∧
    (restoreKey fn mk k b s).lcc = s.lcc ∧ (restoreKey fn mk k b s).stc = s.stc ∧ (restoreKey fn mk k b s).pwr = s.pwr ∧
    (restoreKey fn mk k b s).io = s.io ∧ (restoreKey fn mk k b s).rw = s.rw ∧ (restoreKey fn mk k b s).store = s.store ∧
    (restoreKey fn mk k b s).writes = s.writes := by
  simp [restoreKey, ite_pending, ite_ident, ite_sck, ite_ts, ite_pke, ite_tls, ite_ac, ite_tm, ite_lcc, ite_stc, ite_pwr, ite_io, ite_rw, ite_store, ite_writes]

@[simp] theorem restoreKeys_frame (fn : Nat) (mk : Bytes) (x1 : List SavedKey) (x2 : State) :
    (restoreKeys fn mk x1 x2).pending = x2.pending ∧ (restoreKeys fn mk x1 x2).ident = x2.ident ∧
    (restoreKeys fn mk x1 x2).sck = x2.sck ∧ (restoreKeys fn mk x1 x2).ts = x2.ts ∧ (restoreKeys fn mk x1 x2).pke = x2.pke ∧
    (restoreKeys fn mk x1 x2).tls = x2.tls ∧ (restoreKeys fn mk x1 x2).ac = x2.ac ∧ (restoreKeys fn mk x1 x2).tm = x2.tm ∧
    (restoreKeys fn mk x1 x2).lcc = x2.lcc ∧ (restoreKeys fn mk x1 x2).stc = x2.stc ∧ (restoreKeys fn mk x1 x2).pwr = x2.pwr ∧
    (restoreKeys fn mk x1 x2).io = x2.io ∧ (restoreKeys fn mk x1 x2).rw = x2.rw ∧ (restoreKeys fn mk x1 x2).store = x2.store ∧
    (restoreKeys fn mk x1 x2).writes = x2.writes := by
  induction x1 generalizing x2 with
  | nil => simp [restoreKeys]
  | cons c l ih => simp only [restoreKeys, ih]; cases c.blob <;> simp

@[simp] theorem restoreRings_frame (fn : Nat) (lifted : List SavedEntry) (x1 : List SavedRing) (x2 : State) :
    (restoreRings fn lifted x1 x2).pending = x2.pending ∧ (restoreRings fn lifted x1 x2).ident = x2.ident ∧
    (restoreRings fn lifted x1 x2).sck = x2.sck ∧ (restoreRings fn lifted x1 x2).arc = x2.arc ∧
    (restoreRings fn lifted x1 x2).pln = x2.pln ∧ (restoreRings fn lifted x1 x2).fe = x2.fe ∧
    (restoreRings fn lifted x1 x2).ts = x2.ts ∧ (restoreRings fn lifted x1 x2).key = x2.key ∧
    (restoreRings fn lifted x1 x2).pke = x2.pke ∧ (restoreRings fn lifted x1 x2).rnu = x2.rnu ∧
    (restoreRings fn lifted x1 x2).tls = x2.tls ∧ (restoreRings fn lifted x1 x2).ac = x2.ac ∧
    (restoreRings fn lifted x1 x2).tm = x2.tm ∧ (restoreRings fn lifted x1 x2).lcc = x2.lcc ∧
    (restoreRings fn lifted x1 x2).stc = x2.stc ∧ (restoreRings fn lifted x1 x2).pwr = x2.pwr ∧
    (restoreRings fn lifted x1 x2).io = x2.io ∧ (restoreRings fn lifted x1 x2).ev = x2.ev ∧
    (restoreRings fn lifted x1 x2).rw = x2.rw ∧ (restoreRings fn lifted x1 x2).store = x2.store ∧
    (restoreRings fn lifted x1 x2).writes = x2.writes ∧ (restoreRings fn lifted x1 x2).out = x2.out ∧
    (restoreRings fn lifted x1 x2).free = x2.free := by
  induction x1 generalizing fn lifted x2 with
  | nil => simp [restoreRings]
  | cons c l ih => (simp only [restoreRings, ih]; simp)

@[simp] theorem restoreLifted_frame (fn : Nat) (x1 : List SavedEntry) (x2 : State) :
    (restoreLifted fn x1 x2).pending = x2.pending ∧ (restoreLifted fn x1 x2).ident = x2.ident ∧
    (restoreLifted fn x1 x2).sck = x2.sck ∧ (restoreLifted fn x1 x2).arc = x2.arc ∧ (restoreLifted fn x1 x2).pln = x2.pln ∧
    (restoreLifted fn x1 x2).fe = x2.fe ∧ (restoreLifted fn x1 x2).key = x2.key ∧ (restoreLifted fn x1 x2).pke = x2.pke ∧
    (restoreLifted fn x1 x2).rnu = x2.rnu ∧ (restoreLifted fn x1 x2).tls = x2.tls ∧ (restoreLifted fn x1 x2).ac = x2.ac ∧
    (restoreLifted fn x1 x2).tm = x2.tm ∧ (restoreLifted fn x1 x2).lcc = x2.lcc ∧ (restoreLifted fn x1 x2).stc = x2.stc ∧
    (restoreLifted fn x1 x2).pwr = x2.pwr ∧ (restoreLifted fn x1 x2).io = x2.io ∧ (restoreLifted fn x1 x2).ev = x2.ev ∧
    (restoreLifted fn x1 x2).rw = x2.rw ∧ (restoreLifted fn x1 x2).store = x2.store ∧
    (restoreLifted fn x1 x2).writes = x2.writes ∧ (restoreLifted fn x1 x2).out = x2.out ∧
    (restoreLifted fn x1 x2).free = x2.free := by
  induction x1 generalizing fn x2 with
  | nil => simp [restoreLifted]
  | cons c l ih => (simp only [restoreLifted, ih]; (repeat' split) <;> simp)

@[simp] theorem applyImage_frame (fn : Nat) (i : SaveImage) (s : State) :
    (applyImage fn i s).pending = s.pending ∧ (applyImage fn i s).ident = s.ident ∧ (applyImage fn i s).sck = s.sck ∧
    (applyImage fn i s).pke = s.pke ∧ (applyImage fn i s).tls = s.tls ∧ (applyImage fn i s).ac = s.ac ∧
    (applyImage fn i s).tm = s.tm ∧ (applyImage fn i s).lcc = s.lcc ∧ (applyImage fn i s).stc = s.stc ∧
    (applyImage fn i s).pwr = s.pwr ∧ (applyImage fn i s).io = s.io ∧ (applyImage fn i s).rw = s.rw ∧
    (applyImage fn i s).store = s.store ∧ (applyImage fn i s).writes = s.writes := by
  simp [applyImage, ite_pending, ite_ident, ite_sck, ite_pke, ite_tls, ite_ac, ite_tm, ite_lcc, ite_stc, ite_pwr, ite_io, ite_rw, ite_store, ite_writes]

@[simp] theorem thawAll_frame (f : Nat) (x1 : List Ctx) (x2 : State) :
    (thawAll f x1 x2).pending = x2.pending ∧ (thawAll f x1 x2).ident = x2.ident ∧ (thawAll f x1 x2).sck = x2.sck ∧
    (thawAll f x1 x2).arc = x2.arc ∧ (thawAll f x1 x2).pln = x2.pln ∧ (thawAll f x1 x2).fe = x2.fe ∧
    (thawAll f x1 x2).key = x2.key ∧ (thawAll f x1 x2).pke = x2.pke ∧ (thawAll f x1 x2).rnu = x2.rnu ∧
    (thawAll f x1 x2).tls = x2.tls ∧ (thawAll f x1 x2).ac = x2.ac ∧ (thawAll f x1 x2).tm = x2.tm ∧
    (thawAll f x1 x2).lcc = x2.lcc ∧ (thawAll f x1 x2).stc = x2.stc ∧ (thawAll f x1 x2).pwr = x2.pwr ∧
    (thawAll f x1 x2).io = x2.io ∧ (thawAll f x1 x2).ev = x2.ev ∧ (thawAll f x1 x2).rw = x2.rw ∧
    (thawAll f x1 x2).store = x2.store ∧ (thawAll f x1 x2).writes = x2.writes ∧ (thawAll f x1 x2).free = x2.free := by
  induction x1 generalizing f x2 with
  | nil => simp [thawAll]
  | cons c l ih => (simp only [thawAll, ih]; (repeat' split) <;> simp)

@[simp] theorem setStream_frame (stream : Option Nat) (secure : Bool) (s : State) :
    (setStream stream secure s).pending = s.pending ∧ (setStream stream secure s).ident = s.ident ∧
    (setStream stream secure s).sck = s.sck ∧ (setStream stream secure s).arc = s.arc ∧
    (setStream stream secure s).pln = s.pln ∧ (setStream stream secure s).fe = s.fe ∧ (setStream stream secure s).ts = s.ts ∧
    (setStream stream secure s).key = s.key ∧ (setStream stream secure s).pke = s.pke ∧
    (setStream stream secure s).rnu = s.rnu ∧ (setStream stream secure s).tls = s.tls ∧ (setStream stream secure s).ac = s.ac ∧
    (setStream stream secure s).tm = s.tm ∧ (setStream stream secure s).lcc = s.lcc ∧ (setStream stream secure s).stc = s.stc ∧
    (setStream stream secure s).pwr = s.pwr ∧ (setStream stream secure s).io = s.io ∧ (setStream stream secure s).ev = s.ev ∧
    (setStream stream secure s).rw = s.rw ∧ (setStream stream secure s).store = s.store ∧
    (setStream stream secure s).writes = s.writes ∧ (setStream stream secure s).out = s.out ∧
    (setStream stream secure s).free = s.free := by
  simp only [setStream]
  (repeat' split) <;> simp

end Sys2Proof.Machine
end

