-- ==== Sys2Proof/Laws/Life.lean ====
section
/-! SUPPORT. What the operations of Machine/Life.lean leave unchanged, once for each: its frame. -/

namespace Sys2Proof.Machine

@[simp] theorem setTransition_frame (target : Option LifeState) (s : State) :
    (setTransition target s).pending = s.pending ∧ (setTransition target s).ident = s.ident ∧
    (setTransition target s).sck = s.sck ∧ (setTransition target s).arc = s.arc ∧ (setTransition target s).pln = s.pln ∧
    (setTransition target s).fe = s.fe ∧ (setTransition target s).hif = s.hif ∧ (setTransition target s).ts = s.ts ∧
    (setTransition target s).key = s.key ∧ (setTransition target s).pke = s.pke ∧ (setTransition target s).rnu = s.rnu ∧
    (setTransition target s).tls = s.tls ∧ (setTransition target s).ac = s.ac ∧ (setTransition target s).tm = s.tm ∧
    (setTransition target s).stc = s.stc ∧ (setTransition target s).pwr = s.pwr ∧ (setTransition target s).io = s.io ∧
    (setTransition target s).ev = s.ev ∧ (setTransition target s).rw = s.rw ∧ (setTransition target s).store = s.store ∧
    (setTransition target s).writes = s.writes ∧ (setTransition target s).out = s.out ∧
    (setTransition target s).free = s.free := by
  simp [setTransition]

@[simp] theorem bypass_frame (s : State) :
    (bypass s).pending = s.pending ∧ (bypass s).ident = s.ident ∧ (bypass s).sck = s.sck ∧ (bypass s).arc = s.arc ∧
    (bypass s).pln = s.pln ∧ (bypass s).fe = s.fe ∧ (bypass s).hif = s.hif ∧ (bypass s).ts = s.ts ∧ (bypass s).key = s.key ∧
    (bypass s).pke = s.pke ∧ (bypass s).rnu = s.rnu ∧ (bypass s).tls = s.tls ∧ (bypass s).ac = s.ac ∧ (bypass s).tm = s.tm ∧
    (bypass s).lcc = s.lcc ∧ (bypass s).stc = s.stc ∧ (bypass s).pwr = s.pwr ∧ (bypass s).io = s.io ∧ (bypass s).ev = s.ev ∧
    (bypass s).rw = s.rw ∧ (bypass s).store = s.store ∧ (bypass s).writes = s.writes ∧ (bypass s).free = s.free := by
  simp [bypass]

@[simp] theorem haltCore_frame (c : Nat) (s : State) :
    (haltCore c s).pending = s.pending ∧ (haltCore c s).ident = s.ident ∧ (haltCore c s).sck = s.sck ∧
    (haltCore c s).arc = s.arc ∧ (haltCore c s).pln = s.pln ∧ (haltCore c s).fe = s.fe ∧ (haltCore c s).key = s.key ∧
    (haltCore c s).rnu = s.rnu ∧ (haltCore c s).tls = s.tls ∧ (haltCore c s).ac = s.ac ∧ (haltCore c s).tm = s.tm ∧
    (haltCore c s).lcc = s.lcc ∧ (haltCore c s).stc = s.stc ∧ (haltCore c s).pwr = s.pwr ∧ (haltCore c s).io = s.io ∧
    (haltCore c s).ev = s.ev ∧ (haltCore c s).rw = s.rw ∧ (haltCore c s).store = s.store ∧ (haltCore c s).writes = s.writes ∧
    (haltCore c s).out = s.out ∧ (haltCore c s).free = s.free := by
  simp only [haltCore]
  (repeat' split) <;> simp

@[simp] theorem debugAct_frame (a : DebugAct) (s : State) :
    (debugAct a s).pending = s.pending ∧ (debugAct a s).ident = s.ident ∧ (debugAct a s).sck = s.sck ∧
    (debugAct a s).rw = s.rw ∧ (debugAct a s).store = s.store ∧ (debugAct a s).writes = s.writes := by
  simp only [debugAct]
  (repeat' split) <;> simp

@[simp] theorem movePorts_frame (n : Nat) (away : Bool) (s : State) :
    (movePorts n away s).pending = s.pending ∧ (movePorts n away s).ident = s.ident ∧ (movePorts n away s).sck = s.sck ∧
    (movePorts n away s).arc = s.arc ∧ (movePorts n away s).pln = s.pln ∧ (movePorts n away s).hif = s.hif ∧
    (movePorts n away s).ts = s.ts ∧ (movePorts n away s).key = s.key ∧ (movePorts n away s).pke = s.pke ∧
    (movePorts n away s).rnu = s.rnu ∧ (movePorts n away s).tls = s.tls ∧ (movePorts n away s).ac = s.ac ∧
    (movePorts n away s).tm = s.tm ∧ (movePorts n away s).lcc = s.lcc ∧ (movePorts n away s).stc = s.stc ∧
    (movePorts n away s).pwr = s.pwr ∧ (movePorts n away s).io = s.io ∧ (movePorts n away s).ev = s.ev ∧
    (movePorts n away s).rw = s.rw ∧ (movePorts n away s).store = s.store ∧ (movePorts n away s).writes = s.writes ∧
    (movePorts n away s).out = s.out ∧ (movePorts n away s).free = s.free := by
  simp [movePorts]

@[simp] theorem takePipe_frame (n : Nat) (s : State) :
    (takePipe n s).pending = s.pending ∧ (takePipe n s).ident = s.ident ∧ (takePipe n s).sck = s.sck ∧
    (takePipe n s).arc = s.arc ∧ (takePipe n s).pln = s.pln ∧ (takePipe n s).hif = s.hif ∧ (takePipe n s).ts = s.ts ∧
    (takePipe n s).key = s.key ∧ (takePipe n s).pke = s.pke ∧ (takePipe n s).rnu = s.rnu ∧ (takePipe n s).tls = s.tls ∧
    (takePipe n s).ac = s.ac ∧ (takePipe n s).tm = s.tm ∧ (takePipe n s).lcc = s.lcc ∧ (takePipe n s).pwr = s.pwr ∧
    (takePipe n s).io = s.io ∧ (takePipe n s).ev = s.ev ∧ (takePipe n s).rw = s.rw ∧ (takePipe n s).store = s.store ∧
    (takePipe n s).writes = s.writes ∧ (takePipe n s).out = s.out ∧ (takePipe n s).free = s.free := by
  simp [takePipe]

@[simp] theorem givePipe_frame (n : Nat) (pass : Bool) (s : State) :
    (givePipe n pass s).pending = s.pending ∧ (givePipe n pass s).ident = s.ident ∧ (givePipe n pass s).sck = s.sck ∧
    (givePipe n pass s).arc = s.arc ∧ (givePipe n pass s).pln = s.pln ∧ (givePipe n pass s).hif = s.hif ∧
    (givePipe n pass s).ts = s.ts ∧ (givePipe n pass s).key = s.key ∧ (givePipe n pass s).pke = s.pke ∧
    (givePipe n pass s).rnu = s.rnu ∧ (givePipe n pass s).tls = s.tls ∧ (givePipe n pass s).ac = s.ac ∧
    (givePipe n pass s).tm = s.tm ∧ (givePipe n pass s).lcc = s.lcc ∧ (givePipe n pass s).pwr = s.pwr ∧
    (givePipe n pass s).io = s.io ∧ (givePipe n pass s).ev = s.ev ∧ (givePipe n pass s).rw = s.rw ∧
    (givePipe n pass s).store = s.store ∧ (givePipe n pass s).writes = s.writes ∧ (givePipe n pass s).out = s.out ∧
    (givePipe n pass s).free = s.free := by
  simp [givePipe, ite_pending, ite_ident, ite_sck, ite_arc, ite_pln, ite_hif, ite_ts, ite_key, ite_pke, ite_rnu, ite_tls, ite_ac, ite_tm, ite_lcc, ite_pwr, ite_io, ite_ev, ite_rw, ite_store, ite_writes, ite_out, ite_free]

@[simp] theorem takeBlock_frame (block : Nat) (s : State) :
    (takeBlock block s).pending = s.pending ∧ (takeBlock block s).ident = s.ident ∧ (takeBlock block s).sck = s.sck ∧
    (takeBlock block s).arc = s.arc ∧ (takeBlock block s).pln = s.pln ∧ (takeBlock block s).key = s.key ∧
    (takeBlock block s).rnu = s.rnu ∧ (takeBlock block s).tls = s.tls ∧ (takeBlock block s).ac = s.ac ∧
    (takeBlock block s).tm = s.tm ∧ (takeBlock block s).lcc = s.lcc ∧ (takeBlock block s).pwr = s.pwr ∧
    (takeBlock block s).io = s.io ∧ (takeBlock block s).rw = s.rw ∧ (takeBlock block s).store = s.store ∧
    (takeBlock block s).writes = s.writes ∧ (takeBlock block s).free = s.free := by
  simp [takeBlock, ite_pending, ite_ident, ite_sck, ite_arc, ite_pln, ite_key, ite_rnu, ite_tls, ite_ac, ite_tm, ite_lcc, ite_pwr, ite_io, ite_rw, ite_store, ite_writes, ite_free]

@[simp] theorem settleBlock_frame (block : Nat) (was : Bool) (pass : Bool) (partly : List (Nat × Nat)) (s : State) :
    (settleBlock block was pass partly s).pending = s.pending ∧ (settleBlock block was pass partly s).ident = s.ident ∧
    (settleBlock block was pass partly s).sck = s.sck ∧ (settleBlock block was pass partly s).ac = s.ac ∧
    (settleBlock block was pass partly s).pwr = s.pwr ∧ (settleBlock block was pass partly s).rw = s.rw ∧
    (settleBlock block was pass partly s).store = s.store ∧ (settleBlock block was pass partly s).writes = s.writes := by
  simp [settleBlock, ite_pending, ite_ident, ite_sck, ite_ac, ite_pwr, ite_rw, ite_store, ite_writes]

@[simp] theorem endTest_frame (r : TestRun) (sig : Nat) (partly : List (Nat × Nat)) (s : State) :
    ((endTest r sig partly s).after s).pending = s.pending ∧ ((endTest r sig partly s).after s).ident = s.ident ∧
    ((endTest r sig partly s).after s).sck = s.sck ∧ ((endTest r sig partly s).after s).ac = s.ac ∧
    ((endTest r sig partly s).after s).pwr = s.pwr ∧ ((endTest r sig partly s).after s).rw = s.rw ∧
    ((endTest r sig partly s).after s).store = s.store ∧ ((endTest r sig partly s).after s).writes = s.writes := by
  simp [endTest, ite_pending, ite_ident, ite_sck, ite_ac, ite_pwr, ite_rw, ite_store, ite_writes]

@[simp] theorem endRolling_frame (n : Nat) (sig : Nat) (s : State) :
    (endRolling n sig s).pending = s.pending ∧ (endRolling n sig s).ident = s.ident ∧ (endRolling n sig s).sck = s.sck ∧
    (endRolling n sig s).pln = s.pln ∧ (endRolling n sig s).ts = s.ts ∧ (endRolling n sig s).key = s.key ∧
    (endRolling n sig s).pke = s.pke ∧ (endRolling n sig s).rnu = s.rnu ∧ (endRolling n sig s).tls = s.tls ∧
    (endRolling n sig s).ac = s.ac ∧ (endRolling n sig s).tm = s.tm ∧ (endRolling n sig s).lcc = s.lcc ∧
    (endRolling n sig s).pwr = s.pwr ∧ (endRolling n sig s).io = s.io ∧ (endRolling n sig s).rw = s.rw ∧
    (endRolling n sig s).store = s.store ∧ (endRolling n sig s).writes = s.writes ∧ (endRolling n sig s).free = s.free := by
  simp [endRolling, ite_pending, ite_ident, ite_sck, ite_pln, ite_ts, ite_key, ite_pke, ite_rnu, ite_tls, ite_ac, ite_tm, ite_lcc, ite_pwr, ite_io, ite_rw, ite_store, ite_writes, ite_free]

/-- A test that has ended completes: what it leaves does not depend on where it is asked from. -/
theorem endTest_after (s0 : State) (r : TestRun) (sig : Nat) (partly : List (Nat × Nat)) (s : State) :
    (endTest r sig partly s).after s0 = (endTest r sig partly s).after s := by
  simp [endTest]

end Sys2Proof.Machine
end

