-- ==== Sys2Proof/Laws/Power.lean ====
section
/-! SUPPORT. What the operations of Machine/Power.lean leave unchanged, once for each: its frame. -/

namespace Sys2Proof.Machine

@[simp] theorem flushSummaries_frame (x1 : List Summary) (x2 : State) :
    (flushSummaries x1 x2).pending = x2.pending ∧ (flushSummaries x1 x2).ident = x2.ident ∧
    (flushSummaries x1 x2).sck = x2.sck ∧ (flushSummaries x1 x2).pln = x2.pln ∧ (flushSummaries x1 x2).fe = x2.fe ∧
    (flushSummaries x1 x2).hif = x2.hif ∧ (flushSummaries x1 x2).ts = x2.ts ∧ (flushSummaries x1 x2).key = x2.key ∧
    (flushSummaries x1 x2).pke = x2.pke ∧ (flushSummaries x1 x2).rnu = x2.rnu ∧ (flushSummaries x1 x2).tls = x2.tls ∧
    (flushSummaries x1 x2).ac = x2.ac ∧ (flushSummaries x1 x2).tm = x2.tm ∧ (flushSummaries x1 x2).lcc = x2.lcc ∧
    (flushSummaries x1 x2).stc = x2.stc ∧ (flushSummaries x1 x2).pwr = x2.pwr ∧ (flushSummaries x1 x2).io = x2.io ∧
    (flushSummaries x1 x2).ev = x2.ev ∧ (flushSummaries x1 x2).rw = x2.rw ∧ (flushSummaries x1 x2).store = x2.store ∧
    (flushSummaries x1 x2).writes = x2.writes ∧ (flushSummaries x1 x2).out = x2.out ∧ (flushSummaries x1 x2).free = x2.free := by
  induction x1 generalizing x2 with
  | nil => simp [flushSummaries]
  | cons c l ih => (simp only [flushSummaries, ih]; simp)

@[simp] theorem powerDown_frame (final : Bool) (s : State) :
    (powerDown final s).pending = s.pending ∧ (powerDown final s).ident = s.ident ∧ (powerDown final s).sck = s.sck ∧
    (powerDown final s).ac = s.ac ∧ (powerDown final s).pwr = s.pwr ∧ (powerDown final s).rw = s.rw ∧
    (powerDown final s).store = s.store ∧ (powerDown final s).writes = s.writes ∧ (powerDown final s).free = s.free := by
  simp [powerDown, ite_pending, ite_ident, ite_sck, ite_ac, ite_pwr, ite_rw, ite_store, ite_writes, ite_free]

@[simp] theorem dropMain_frame (s : State) :
    (dropMain s).pending = s.pending ∧ (dropMain s).ident = s.ident ∧ (dropMain s).io = s.io ∧ (dropMain s).store = s.store ∧
    (dropMain s).out = s.out ∧ (dropMain s).free = s.free := by
  simp [dropMain]

@[simp] theorem moveStaged_frame (x1 : List StagedAlarm) (x2 : State) :
    (moveStaged x1 x2).pending = x2.pending ∧ (moveStaged x1 x2).ident = x2.ident ∧ (moveStaged x1 x2).sck = x2.sck ∧
    (moveStaged x1 x2).pln = x2.pln ∧ (moveStaged x1 x2).fe = x2.fe ∧ (moveStaged x1 x2).ts = x2.ts ∧
    (moveStaged x1 x2).pke = x2.pke ∧ (moveStaged x1 x2).rnu = x2.rnu ∧ (moveStaged x1 x2).tls = x2.tls ∧
    (moveStaged x1 x2).ac = x2.ac ∧ (moveStaged x1 x2).lcc = x2.lcc ∧ (moveStaged x1 x2).stc = x2.stc ∧
    (moveStaged x1 x2).pwr = x2.pwr ∧ (moveStaged x1 x2).io = x2.io ∧ (moveStaged x1 x2).rw = x2.rw ∧
    (moveStaged x1 x2).store = x2.store ∧ (moveStaged x1 x2).writes = x2.writes ∧ (moveStaged x1 x2).free = x2.free := by
  induction x1 generalizing x2 with
  | nil => simp [moveStaged]
  | cons c l ih => (simp only [moveStaged, ih]; simp)

@[simp] theorem countAll_frame (x1 : List Nat) (x2 : State) :
    (countAll x1 x2).pending = x2.pending ∧ (countAll x1 x2).ident = x2.ident ∧ (countAll x1 x2).sck = x2.sck ∧
    (countAll x1 x2).arc = x2.arc ∧ (countAll x1 x2).pln = x2.pln ∧ (countAll x1 x2).fe = x2.fe ∧
    (countAll x1 x2).hif = x2.hif ∧ (countAll x1 x2).ts = x2.ts ∧ (countAll x1 x2).key = x2.key ∧
    (countAll x1 x2).pke = x2.pke ∧ (countAll x1 x2).rnu = x2.rnu ∧ (countAll x1 x2).tls = x2.tls ∧
    (countAll x1 x2).ac = x2.ac ∧ (countAll x1 x2).lcc = x2.lcc ∧ (countAll x1 x2).stc = x2.stc ∧
    (countAll x1 x2).pwr = x2.pwr ∧ (countAll x1 x2).io = x2.io ∧ (countAll x1 x2).ev = x2.ev ∧ (countAll x1 x2).rw = x2.rw ∧
    (countAll x1 x2).store = x2.store ∧ (countAll x1 x2).writes = x2.writes ∧ (countAll x1 x2).out = x2.out ∧
    (countAll x1 x2).free = x2.free := by
  induction x1 generalizing x2 with
  | nil => simp [countAll]
  | cons c l ih => (simp only [countAll, ih]; simp)

@[simp] theorem moveBuffer_frame (s : State) :
    (moveBuffer s).pending = s.pending ∧ (moveBuffer s).ident = s.ident ∧ (moveBuffer s).sck = s.sck ∧
    (moveBuffer s).pln = s.pln ∧ (moveBuffer s).fe = s.fe ∧ (moveBuffer s).ts = s.ts ∧ (moveBuffer s).pke = s.pke ∧
    (moveBuffer s).rnu = s.rnu ∧ (moveBuffer s).tls = s.tls ∧ (moveBuffer s).ac = s.ac ∧ (moveBuffer s).lcc = s.lcc ∧
    (moveBuffer s).stc = s.stc ∧ (moveBuffer s).pwr = s.pwr ∧ (moveBuffer s).io = s.io ∧ (moveBuffer s).rw = s.rw ∧
    (moveBuffer s).store = s.store ∧ (moveBuffer s).writes = s.writes ∧ (moveBuffer s).free = s.free := by
  simp [moveBuffer, ite_pending, ite_ident, ite_sck, ite_pln, ite_fe, ite_ts, ite_pke, ite_rnu, ite_tls, ite_ac, ite_lcc, ite_stc, ite_pwr, ite_io, ite_rw, ite_store, ite_writes, ite_free]

@[simp] theorem wipeConfig_frame (s : State) :
    (wipeConfig s).pending = s.pending ∧ (wipeConfig s).ident = s.ident ∧ (wipeConfig s).ts = s.ts ∧
    (wipeConfig s).rnu = s.rnu ∧ (wipeConfig s).tls = s.tls ∧ (wipeConfig s).ac = s.ac ∧ (wipeConfig s).stc = s.stc ∧
    (wipeConfig s).pwr = s.pwr ∧ (wipeConfig s).io = s.io ∧ (wipeConfig s).writes = s.writes ∧ (wipeConfig s).out = s.out ∧
    (wipeConfig s).free = s.free := by
  simp [wipeConfig]

@[simp] theorem eraseBelow_frame (n : Nat) (x1 : Tbl Zone) (x2 : State) :
    (eraseBelow n x1 x2).pending = x2.pending ∧ (eraseBelow n x1 x2).ident = x2.ident ∧ (eraseBelow n x1 x2).sck = x2.sck ∧
    (eraseBelow n x1 x2).pln = x2.pln ∧ (eraseBelow n x1 x2).fe = x2.fe ∧ (eraseBelow n x1 x2).hif = x2.hif ∧
    (eraseBelow n x1 x2).ts = x2.ts ∧ (eraseBelow n x1 x2).key = x2.key ∧ (eraseBelow n x1 x2).pke = x2.pke ∧
    (eraseBelow n x1 x2).rnu = x2.rnu ∧ (eraseBelow n x1 x2).tls = x2.tls ∧ (eraseBelow n x1 x2).ac = x2.ac ∧
    (eraseBelow n x1 x2).tm = x2.tm ∧ (eraseBelow n x1 x2).lcc = x2.lcc ∧ (eraseBelow n x1 x2).stc = x2.stc ∧
    (eraseBelow n x1 x2).pwr = x2.pwr ∧ (eraseBelow n x1 x2).io = x2.io ∧ (eraseBelow n x1 x2).ev = x2.ev ∧
    (eraseBelow n x1 x2).rw = x2.rw ∧ (eraseBelow n x1 x2).store = x2.store ∧ (eraseBelow n x1 x2).writes = x2.writes ∧
    (eraseBelow n x1 x2).out = x2.out ∧ (eraseBelow n x1 x2).free = x2.free := by
  induction x1 generalizing n x2 with
  | nil => simp [eraseBelow]
  | cons c l ih => (simp only [eraseBelow, ih]; (repeat' split) <;> simp)

@[simp] theorem wipeZones_frame (upTo : Nat) (rounds : Nat) (s : State) :
    (wipeZones upTo rounds s).pending = s.pending ∧ (wipeZones upTo rounds s).ident = s.ident ∧
    (wipeZones upTo rounds s).sck = s.sck ∧ (wipeZones upTo rounds s).fe = s.fe ∧ (wipeZones upTo rounds s).hif = s.hif ∧
    (wipeZones upTo rounds s).ts = s.ts ∧ (wipeZones upTo rounds s).pke = s.pke ∧ (wipeZones upTo rounds s).rnu = s.rnu ∧
    (wipeZones upTo rounds s).tls = s.tls ∧ (wipeZones upTo rounds s).ac = s.ac ∧ (wipeZones upTo rounds s).tm = s.tm ∧
    (wipeZones upTo rounds s).stc = s.stc ∧ (wipeZones upTo rounds s).pwr = s.pwr ∧ (wipeZones upTo rounds s).io = s.io ∧
    (wipeZones upTo rounds s).ev = s.ev ∧ (wipeZones upTo rounds s).rw = s.rw ∧ (wipeZones upTo rounds s).store = s.store ∧
    (wipeZones upTo rounds s).writes = s.writes ∧ (wipeZones upTo rounds s).out = s.out ∧
    (wipeZones upTo rounds s).free = s.free := by
  simp [wipeZones]

@[simp] theorem newEpoch_frame (old : Nat) (s : State) :
    (newEpoch old s).pending = s.pending ∧ (newEpoch old s).ident = s.ident ∧ (newEpoch old s).sck = s.sck ∧
    (newEpoch old s).pln = s.pln ∧ (newEpoch old s).fe = s.fe ∧ (newEpoch old s).hif = s.hif ∧ (newEpoch old s).ts = s.ts ∧
    (newEpoch old s).key = s.key ∧ (newEpoch old s).pke = s.pke ∧ (newEpoch old s).rnu = s.rnu ∧ (newEpoch old s).tls = s.tls ∧
    (newEpoch old s).ac = s.ac ∧ (newEpoch old s).tm = s.tm ∧ (newEpoch old s).lcc = s.lcc ∧ (newEpoch old s).stc = s.stc ∧
    (newEpoch old s).pwr = s.pwr ∧ (newEpoch old s).io = s.io ∧ (newEpoch old s).ev = s.ev ∧ (newEpoch old s).rw = s.rw ∧
    (newEpoch old s).store = s.store ∧ (newEpoch old s).writes = s.writes ∧ (newEpoch old s).out = s.out ∧
    (newEpoch old s).free = s.free := by
  simp [newEpoch]

@[simp] theorem wipe_frame (cut : Option (Nat × Nat)) (s : State) :
    (wipe cut s).2.pending = s.pending ∧ (wipe cut s).2.ident = s.ident ∧ (wipe cut s).2.ts = s.ts ∧
    (wipe cut s).2.rnu = s.rnu ∧ (wipe cut s).2.tls = s.tls ∧ (wipe cut s).2.ac = s.ac ∧ (wipe cut s).2.stc = s.stc ∧
    (wipe cut s).2.pwr = s.pwr ∧ (wipe cut s).2.io = s.io ∧ (wipe cut s).2.writes = s.writes ∧ (wipe cut s).2.out = s.out ∧
    (wipe cut s).2.free = s.free := by
  unfold wipe
  extract_lets p stop total r made next k s1 s2 s3 s4 a step
  have e1 : s1.pending = s.pending ∧ s1.ident = s.ident ∧ s1.ts = s.ts ∧ s1.rnu = s.rnu ∧ s1.tls = s.tls ∧ s1.ac = s.ac ∧
      s1.stc = s.stc ∧ s1.pwr = s.pwr ∧ s1.io = s.io ∧ s1.writes = s.writes ∧ s1.out = s.out ∧ s1.free = s.free := by simp only [s1, k]; split <;> simp
  have e2 : s2.pending = s1.pending ∧ s2.ident = s1.ident ∧ s2.ts = s1.ts ∧ s2.rnu = s1.rnu ∧ s2.tls = s1.tls ∧ s2.ac = s1.ac ∧
      s2.stc = s1.stc ∧ s2.pwr = s1.pwr ∧ s2.io = s1.io ∧ s2.writes = s1.writes ∧ s2.out = s1.out ∧ s2.free = s1.free := by simp only [s2]; split <;> simp
  have e3 : s3.pending = s2.pending ∧ s3.ident = s2.ident ∧ s3.ts = s2.ts ∧ s3.rnu = s2.rnu ∧ s3.tls = s2.tls ∧ s3.ac = s2.ac ∧
      s3.stc = s2.stc ∧ s3.pwr = s2.pwr ∧ s3.io = s2.io ∧ s3.writes = s2.writes ∧ s3.out = s2.out ∧ s3.free = s2.free := by simp only [s3]; split <;> simp
  have e4 : s4.pending = s3.pending ∧ s4.ident = s3.ident ∧ s4.ts = s3.ts ∧ s4.rnu = s3.rnu ∧ s4.tls = s3.tls ∧ s4.ac = s3.ac ∧
      s4.stc = s3.stc ∧ s4.pwr = s3.pwr ∧ s4.io = s3.io ∧ s4.writes = s3.writes ∧ s4.out = s3.out ∧ s4.free = s3.free := by simp only [s4]; split <;> simp
  clear_value s1 s2 s3 s4
  split <;> simp [a, e1, e2, e3, e4]

@[simp] theorem commitLife_frame (t : LifeState) (s : State) :
    (commitLife t s).pending = s.pending ∧ (commitLife t s).ident = s.ident ∧ (commitLife t s).sck = s.sck ∧
    (commitLife t s).arc = s.arc ∧ (commitLife t s).pln = s.pln ∧ (commitLife t s).fe = s.fe ∧ (commitLife t s).hif = s.hif ∧
    (commitLife t s).ts = s.ts ∧ (commitLife t s).key = s.key ∧ (commitLife t s).pke = s.pke ∧ (commitLife t s).rnu = s.rnu ∧
    (commitLife t s).tls = s.tls ∧ (commitLife t s).ac = s.ac ∧ (commitLife t s).tm = s.tm ∧ (commitLife t s).stc = s.stc ∧
    (commitLife t s).pwr = s.pwr ∧ (commitLife t s).io = s.io ∧ (commitLife t s).ev = s.ev ∧ (commitLife t s).rw = s.rw ∧
    (commitLife t s).store = s.store ∧ (commitLife t s).writes = s.writes ∧ (commitLife t s).out = s.out ∧
    (commitLife t s).free = s.free := by
  simp [commitLife]

@[simp] theorem applyTransition_frame (cut : Option (Nat × Nat)) (s : State) :
    (applyTransition cut s).2.pending = s.pending ∧ (applyTransition cut s).2.ident = s.ident ∧
    (applyTransition cut s).2.ts = s.ts ∧ (applyTransition cut s).2.rnu = s.rnu ∧ (applyTransition cut s).2.tls = s.tls ∧
    (applyTransition cut s).2.ac = s.ac ∧ (applyTransition cut s).2.stc = s.stc ∧ (applyTransition cut s).2.pwr = s.pwr ∧
    (applyTransition cut s).2.io = s.io ∧ (applyTransition cut s).2.writes = s.writes ∧ (applyTransition cut s).2.out = s.out ∧
    (applyTransition cut s).2.free = s.free := by
  simp only [applyTransition]
  split
  · simp
  · split
    · split <;> simp
    · split <;> simp

@[simp] theorem startAlarms_frame (x1 : List (Nat × Nat × Nat)) (x2 : State) :
    (startAlarms x1 x2).pending = x2.pending ∧ (startAlarms x1 x2).ident = x2.ident ∧ (startAlarms x1 x2).sck = x2.sck ∧
    (startAlarms x1 x2).rw = x2.rw ∧ (startAlarms x1 x2).store = x2.store ∧ (startAlarms x1 x2).writes = x2.writes ∧
    (startAlarms x1 x2).free = x2.free := by
  induction x1 generalizing x2 with
  | nil => simp [startAlarms]
  | cons c l ih => (simp only [startAlarms]; (repeat' split) <;> simp [ih])

@[simp] theorem moveFailed_frame (fails : List Nat) (x1 : Nat) (x2 : State) :
    (moveFailed fails x1 x2).pending = x2.pending ∧ (moveFailed fails x1 x2).ident = x2.ident ∧
    (moveFailed fails x1 x2).sck = x2.sck ∧ (moveFailed fails x1 x2).arc = x2.arc ∧ (moveFailed fails x1 x2).pln = x2.pln ∧
    (moveFailed fails x1 x2).hif = x2.hif ∧ (moveFailed fails x1 x2).ts = x2.ts ∧ (moveFailed fails x1 x2).key = x2.key ∧
    (moveFailed fails x1 x2).pke = x2.pke ∧ (moveFailed fails x1 x2).rnu = x2.rnu ∧ (moveFailed fails x1 x2).tls = x2.tls ∧
    (moveFailed fails x1 x2).ac = x2.ac ∧ (moveFailed fails x1 x2).tm = x2.tm ∧ (moveFailed fails x1 x2).lcc = x2.lcc ∧
    (moveFailed fails x1 x2).stc = x2.stc ∧ (moveFailed fails x1 x2).pwr = x2.pwr ∧ (moveFailed fails x1 x2).io = x2.io ∧
    (moveFailed fails x1 x2).ev = x2.ev ∧ (moveFailed fails x1 x2).rw = x2.rw ∧ (moveFailed fails x1 x2).store = x2.store ∧
    (moveFailed fails x1 x2).writes = x2.writes ∧ (moveFailed fails x1 x2).out = x2.out ∧
    (moveFailed fails x1 x2).free = x2.free := by
  induction x1 generalizing fails x2 with
  | zero => simp [moveFailed]
  | succ n ih => (simp only [moveFailed]; (repeat' split) <;> simp [ih])

@[simp] theorem startTests_frame (fails0 : List Nat) (s : State) :
    (startTests fails0 s).pending = s.pending ∧ (startTests fails0 s).ident = s.ident ∧ (startTests fails0 s).sck = s.sck ∧
    (startTests fails0 s).ac = s.ac ∧ (startTests fails0 s).pwr = s.pwr ∧ (startTests fails0 s).rw = s.rw ∧
    (startTests fails0 s).store = s.store ∧ (startTests fails0 s).writes = s.writes := by
  simp [startTests, ite_pending, ite_ident, ite_sck, ite_ac, ite_pwr, ite_rw, ite_store, ite_writes]

@[simp] theorem noteTrialFailed_frame (s : State) :
    (noteTrialFailed s).pending = s.pending ∧ (noteTrialFailed s).ident = s.ident ∧ (noteTrialFailed s).sck = s.sck ∧
    (noteTrialFailed s).pln = s.pln ∧ (noteTrialFailed s).fe = s.fe ∧ (noteTrialFailed s).ts = s.ts ∧
    (noteTrialFailed s).key = s.key ∧ (noteTrialFailed s).pke = s.pke ∧ (noteTrialFailed s).rnu = s.rnu ∧
    (noteTrialFailed s).tls = s.tls ∧ (noteTrialFailed s).ac = s.ac ∧ (noteTrialFailed s).tm = s.tm ∧
    (noteTrialFailed s).lcc = s.lcc ∧ (noteTrialFailed s).stc = s.stc ∧ (noteTrialFailed s).io = s.io ∧
    (noteTrialFailed s).rw = s.rw ∧ (noteTrialFailed s).store = s.store ∧ (noteTrialFailed s).writes = s.writes ∧
    (noteTrialFailed s).free = s.free := by
  simp [noteTrialFailed]

@[simp] theorem chooseFirmware_frame (ok0 : Bool) (ok1 : Bool) (s : State) :
    (chooseFirmware ok0 ok1 s).pending = s.pending ∧ (chooseFirmware ok0 ok1 s).ident = s.ident ∧
    (chooseFirmware ok0 ok1 s).sck = s.sck ∧ (chooseFirmware ok0 ok1 s).pln = s.pln ∧ (chooseFirmware ok0 ok1 s).fe = s.fe ∧
    (chooseFirmware ok0 ok1 s).ts = s.ts ∧ (chooseFirmware ok0 ok1 s).key = s.key ∧ (chooseFirmware ok0 ok1 s).pke = s.pke ∧
    (chooseFirmware ok0 ok1 s).rnu = s.rnu ∧ (chooseFirmware ok0 ok1 s).tls = s.tls ∧ (chooseFirmware ok0 ok1 s).ac = s.ac ∧
    (chooseFirmware ok0 ok1 s).tm = s.tm ∧ (chooseFirmware ok0 ok1 s).lcc = s.lcc ∧ (chooseFirmware ok0 ok1 s).stc = s.stc ∧
    (chooseFirmware ok0 ok1 s).io = s.io ∧ (chooseFirmware ok0 ok1 s).rw = s.rw ∧ (chooseFirmware ok0 ok1 s).store = s.store ∧
    (chooseFirmware ok0 ok1 s).writes = s.writes ∧ (chooseFirmware ok0 ok1 s).free = s.free := by
  simp only [chooseFirmware]
  (repeat' split) <;> simp

@[simp] theorem loadRules_frame (s : State) :
    (loadRules s).pending = s.pending ∧ (loadRules s).ident = s.ident ∧ (loadRules s).sck = s.sck ∧ (loadRules s).arc = s.arc ∧
    (loadRules s).pln = s.pln ∧ (loadRules s).fe = s.fe ∧ (loadRules s).hif = s.hif ∧ (loadRules s).ts = s.ts ∧
    (loadRules s).key = s.key ∧ (loadRules s).pke = s.pke ∧ (loadRules s).rnu = s.rnu ∧ (loadRules s).tls = s.tls ∧
    (loadRules s).tm = s.tm ∧ (loadRules s).lcc = s.lcc ∧ (loadRules s).stc = s.stc ∧ (loadRules s).pwr = s.pwr ∧
    (loadRules s).io = s.io ∧ (loadRules s).ev = s.ev ∧ (loadRules s).rw = s.rw ∧ (loadRules s).store = s.store ∧
    (loadRules s).writes = s.writes ∧ (loadRules s).out = s.out ∧ (loadRules s).free = s.free := by
  simp [loadRules]

@[simp] theorem checkJournal_frame (bad : Option Nat) (s : State) :
    (checkJournal bad s).pending = s.pending ∧ (checkJournal bad s).ident = s.ident ∧ (checkJournal bad s).sck = s.sck ∧
    (checkJournal bad s).ac = s.ac ∧ (checkJournal bad s).pwr = s.pwr ∧ (checkJournal bad s).rw = s.rw ∧
    (checkJournal bad s).store = s.store ∧ (checkJournal bad s).writes = s.writes ∧ (checkJournal bad s).free = s.free := by
  simp only [checkJournal]
  (repeat' split) <;> simp

@[simp] theorem checkRoot_frame (s : State) :
    (checkRoot s).pending = s.pending ∧ (checkRoot s).ident = s.ident ∧ (checkRoot s).sck = s.sck ∧ (checkRoot s).rw = s.rw ∧
    (checkRoot s).store = s.store ∧ (checkRoot s).writes = s.writes ∧ (checkRoot s).free = s.free := by
  simp [checkRoot, ite_pending, ite_ident, ite_sck, ite_rw, ite_store, ite_writes, ite_free]

@[simp] theorem defaultGroups_frame (x1 : Nat) (x2 : State) :
    (defaultGroups x1 x2).pending = x2.pending ∧ (defaultGroups x1 x2).ident = x2.ident ∧ (defaultGroups x1 x2).sck = x2.sck ∧
    (defaultGroups x1 x2).arc = x2.arc ∧ (defaultGroups x1 x2).pln = x2.pln ∧ (defaultGroups x1 x2).fe = x2.fe ∧
    (defaultGroups x1 x2).hif = x2.hif ∧ (defaultGroups x1 x2).ts = x2.ts ∧ (defaultGroups x1 x2).key = x2.key ∧
    (defaultGroups x1 x2).pke = x2.pke ∧ (defaultGroups x1 x2).rnu = x2.rnu ∧ (defaultGroups x1 x2).tls = x2.tls ∧
    (defaultGroups x1 x2).ac = x2.ac ∧ (defaultGroups x1 x2).tm = x2.tm ∧ (defaultGroups x1 x2).lcc = x2.lcc ∧
    (defaultGroups x1 x2).stc = x2.stc ∧ (defaultGroups x1 x2).pwr = x2.pwr ∧ (defaultGroups x1 x2).io = x2.io ∧
    (defaultGroups x1 x2).ev = x2.ev ∧ (defaultGroups x1 x2).store = x2.store ∧ (defaultGroups x1 x2).writes = x2.writes ∧
    (defaultGroups x1 x2).out = x2.out ∧ (defaultGroups x1 x2).free = x2.free := by
  induction x1 generalizing x2 with
  | zero => simp [defaultGroups]
  | succ n ih => (simp only [defaultGroups, ih]; simp)

@[simp] theorem checkGroups_frame (s : State) :
    (checkGroups s).pending = s.pending ∧ (checkGroups s).ident = s.ident ∧ (checkGroups s).sck = s.sck ∧
    (checkGroups s).arc = s.arc ∧ (checkGroups s).pln = s.pln ∧ (checkGroups s).fe = s.fe ∧ (checkGroups s).ts = s.ts ∧
    (checkGroups s).key = s.key ∧ (checkGroups s).pke = s.pke ∧ (checkGroups s).rnu = s.rnu ∧ (checkGroups s).tls = s.tls ∧
    (checkGroups s).ac = s.ac ∧ (checkGroups s).tm = s.tm ∧ (checkGroups s).lcc = s.lcc ∧ (checkGroups s).stc = s.stc ∧
    (checkGroups s).pwr = s.pwr ∧ (checkGroups s).io = s.io ∧ (checkGroups s).store = s.store ∧
    (checkGroups s).writes = s.writes ∧ (checkGroups s).free = s.free := by
  simp [checkGroups, ite_pending, ite_ident, ite_sck, ite_arc, ite_pln, ite_fe, ite_ts, ite_key, ite_pke, ite_rnu, ite_tls, ite_ac, ite_tm, ite_lcc, ite_stc, ite_pwr, ite_io, ite_store, ite_writes, ite_free]

@[simp] theorem startClock_frame (s : State) :
    (startClock s).pending = s.pending ∧ (startClock s).ident = s.ident ∧ (startClock s).arc = s.arc ∧
    (startClock s).pln = s.pln ∧ (startClock s).fe = s.fe ∧ (startClock s).hif = s.hif ∧ (startClock s).ts = s.ts ∧
    (startClock s).key = s.key ∧ (startClock s).pke = s.pke ∧ (startClock s).rnu = s.rnu ∧ (startClock s).tls = s.tls ∧
    (startClock s).ac = s.ac ∧ (startClock s).tm = s.tm ∧ (startClock s).lcc = s.lcc ∧ (startClock s).stc = s.stc ∧
    (startClock s).pwr = s.pwr ∧ (startClock s).io = s.io ∧ (startClock s).ev = s.ev ∧ (startClock s).rw = s.rw ∧
    (startClock s).store = s.store ∧ (startClock s).writes = s.writes ∧ (startClock s).out = s.out ∧
    (startClock s).free = s.free := by
  simp [startClock]

@[simp] theorem closeTorn_frame (l : Nat) (endUnit : Nat) (s : State) :
    (closeTorn l endUnit s).pending = s.pending ∧ (closeTorn l endUnit s).ident = s.ident ∧
    (closeTorn l endUnit s).sck = s.sck ∧ (closeTorn l endUnit s).pln = s.pln ∧ (closeTorn l endUnit s).fe = s.fe ∧
    (closeTorn l endUnit s).hif = s.hif ∧ (closeTorn l endUnit s).ts = s.ts ∧ (closeTorn l endUnit s).key = s.key ∧
    (closeTorn l endUnit s).pke = s.pke ∧ (closeTorn l endUnit s).rnu = s.rnu ∧ (closeTorn l endUnit s).tls = s.tls ∧
    (closeTorn l endUnit s).ac = s.ac ∧ (closeTorn l endUnit s).tm = s.tm ∧ (closeTorn l endUnit s).lcc = s.lcc ∧
    (closeTorn l endUnit s).stc = s.stc ∧ (closeTorn l endUnit s).pwr = s.pwr ∧ (closeTorn l endUnit s).io = s.io ∧
    (closeTorn l endUnit s).ev = s.ev ∧ (closeTorn l endUnit s).rw = s.rw ∧ (closeTorn l endUnit s).store = s.store ∧
    (closeTorn l endUnit s).writes = s.writes ∧ (closeTorn l endUnit s).out = s.out ∧ (closeTorn l endUnit s).free = s.free := by
  simp only [closeTorn]
  (repeat' split) <;> simp

@[simp] theorem closeAllTorn_frame (x1 : List (Nat × Nat)) (x2 : State) :
    (closeAllTorn x1 x2).pending = x2.pending ∧ (closeAllTorn x1 x2).ident = x2.ident ∧ (closeAllTorn x1 x2).sck = x2.sck ∧
    (closeAllTorn x1 x2).pln = x2.pln ∧ (closeAllTorn x1 x2).fe = x2.fe ∧ (closeAllTorn x1 x2).hif = x2.hif ∧
    (closeAllTorn x1 x2).ts = x2.ts ∧ (closeAllTorn x1 x2).key = x2.key ∧ (closeAllTorn x1 x2).pke = x2.pke ∧
    (closeAllTorn x1 x2).rnu = x2.rnu ∧ (closeAllTorn x1 x2).tls = x2.tls ∧ (closeAllTorn x1 x2).ac = x2.ac ∧
    (closeAllTorn x1 x2).tm = x2.tm ∧ (closeAllTorn x1 x2).lcc = x2.lcc ∧ (closeAllTorn x1 x2).stc = x2.stc ∧
    (closeAllTorn x1 x2).pwr = x2.pwr ∧ (closeAllTorn x1 x2).io = x2.io ∧ (closeAllTorn x1 x2).ev = x2.ev ∧
    (closeAllTorn x1 x2).rw = x2.rw ∧ (closeAllTorn x1 x2).store = x2.store ∧ (closeAllTorn x1 x2).writes = x2.writes ∧
    (closeAllTorn x1 x2).out = x2.out ∧ (closeAllTorn x1 x2).free = x2.free := by
  induction x1 generalizing x2 with
  | nil => simp [closeAllTorn]
  | cons c l ih => (simp only [closeAllTorn, ih]; simp)

@[simp] theorem tornRecords_frame (before : State) (x1 : List (Nat × Nat)) (x2 : State) :
    (tornRecords before x1 x2).pending = x2.pending ∧ (tornRecords before x1 x2).ident = x2.ident ∧
    (tornRecords before x1 x2).sck = x2.sck ∧ (tornRecords before x1 x2).ac = x2.ac ∧ (tornRecords before x1 x2).pwr = x2.pwr ∧
    (tornRecords before x1 x2).rw = x2.rw ∧ (tornRecords before x1 x2).store = x2.store ∧
    (tornRecords before x1 x2).writes = x2.writes ∧ (tornRecords before x1 x2).free = x2.free := by
  induction x1 generalizing before x2 with
  | nil => simp [tornRecords]
  | cons c l ih => (simp only [tornRecords, ih]; (repeat' split) <;> simp)

@[simp] theorem startWindows_frame (x1 : List CapWindow) (x2 : State) :
    (startWindows x1 x2).pending = x2.pending ∧ (startWindows x1 x2).ident = x2.ident ∧ (startWindows x1 x2).sck = x2.sck ∧
    (startWindows x1 x2).pln = x2.pln ∧ (startWindows x1 x2).fe = x2.fe ∧ (startWindows x1 x2).hif = x2.hif ∧
    (startWindows x1 x2).ts = x2.ts ∧ (startWindows x1 x2).key = x2.key ∧ (startWindows x1 x2).pke = x2.pke ∧
    (startWindows x1 x2).rnu = x2.rnu ∧ (startWindows x1 x2).tls = x2.tls ∧ (startWindows x1 x2).ac = x2.ac ∧
    (startWindows x1 x2).tm = x2.tm ∧ (startWindows x1 x2).lcc = x2.lcc ∧ (startWindows x1 x2).stc = x2.stc ∧
    (startWindows x1 x2).pwr = x2.pwr ∧ (startWindows x1 x2).io = x2.io ∧ (startWindows x1 x2).ev = x2.ev ∧
    (startWindows x1 x2).rw = x2.rw ∧ (startWindows x1 x2).store = x2.store ∧ (startWindows x1 x2).writes = x2.writes ∧
    (startWindows x1 x2).out = x2.out ∧ (startWindows x1 x2).free = x2.free := by
  induction x1 generalizing x2 with
  | nil => simp [startWindows]
  | cons c l ih => (simp only [startWindows, ih]; (repeat' split) <;> simp)

@[simp] theorem startArchive_frame (cause : Nat) (torn : List (Nat × Nat)) (wiped : Option (Nat × Nat)) (s : State) :
    (startArchive cause torn wiped s).pending = s.pending ∧ (startArchive cause torn wiped s).ident = s.ident ∧
    (startArchive cause torn wiped s).sck = s.sck ∧ (startArchive cause torn wiped s).ac = s.ac ∧
    (startArchive cause torn wiped s).pwr = s.pwr ∧ (startArchive cause torn wiped s).rw = s.rw ∧
    (startArchive cause torn wiped s).store = s.store ∧ (startArchive cause torn wiped s).writes = s.writes ∧
    (startArchive cause torn wiped s).free = s.free := by
  simp only [startArchive]
  (repeat' split) <;> simp

@[simp] theorem readImage_frame (l : List (Nat × Bool × Bool)) (f : Nat) (standby : Bool) (n : Option Nat) (s : State) :
    (readImage l f standby n s).2.pending = s.pending ∧ (readImage l f standby n s).2.ident = s.ident ∧
    (readImage l f standby n s).2.sck = s.sck ∧ (readImage l f standby n s).2.fe = s.fe ∧
    (readImage l f standby n s).2.hif = s.hif ∧ (readImage l f standby n s).2.ts = s.ts ∧
    (readImage l f standby n s).2.key = s.key ∧ (readImage l f standby n s).2.pke = s.pke ∧
    (readImage l f standby n s).2.rnu = s.rnu ∧ (readImage l f standby n s).2.tls = s.tls ∧
    (readImage l f standby n s).2.ac = s.ac ∧ (readImage l f standby n s).2.tm = s.tm ∧
    (readImage l f standby n s).2.lcc = s.lcc ∧ (readImage l f standby n s).2.stc = s.stc ∧
    (readImage l f standby n s).2.pwr = s.pwr ∧ (readImage l f standby n s).2.io = s.io ∧
    (readImage l f standby n s).2.ev = s.ev ∧ (readImage l f standby n s).2.rw = s.rw ∧
    (readImage l f standby n s).2.store = s.store ∧ (readImage l f standby n s).2.writes = s.writes ∧
    (readImage l f standby n s).2.out = s.out ∧ (readImage l f standby n s).2.free = s.free := by
  simp only [readImage]
  split <;> simp

@[simp] theorem installActive_frame (f : Nat) (p : Partition) (i : PlanImage) (s : State) :
    (installActive f p i s).pending = s.pending ∧ (installActive f p i s).ident = s.ident ∧
    (installActive f p i s).sck = s.sck ∧ (installActive f p i s).hif = s.hif ∧ (installActive f p i s).ts = s.ts ∧
    (installActive f p i s).key = s.key ∧ (installActive f p i s).pke = s.pke ∧ (installActive f p i s).rnu = s.rnu ∧
    (installActive f p i s).tls = s.tls ∧ (installActive f p i s).ac = s.ac ∧ (installActive f p i s).tm = s.tm ∧
    (installActive f p i s).lcc = s.lcc ∧ (installActive f p i s).stc = s.stc ∧ (installActive f p i s).pwr = s.pwr ∧
    (installActive f p i s).io = s.io ∧ (installActive f p i s).ev = s.ev ∧ (installActive f p i s).rw = s.rw ∧
    (installActive f p i s).store = s.store ∧ (installActive f p i s).writes = s.writes ∧ (installActive f p i s).out = s.out ∧
    (installActive f p i s).free = s.free := by
  simp [installActive]

@[simp] theorem restartActive_frame (l : List (Nat × Bool × Bool)) (f : Nat) (p : Partition) (s : State) :
    (restartActive l f p s).pending = s.pending ∧ (restartActive l f p s).ident = s.ident ∧
    (restartActive l f p s).sck = s.sck ∧ (restartActive l f p s).hif = s.hif ∧ (restartActive l f p s).ts = s.ts ∧
    (restartActive l f p s).key = s.key ∧ (restartActive l f p s).pke = s.pke ∧ (restartActive l f p s).rnu = s.rnu ∧
    (restartActive l f p s).tls = s.tls ∧ (restartActive l f p s).ac = s.ac ∧ (restartActive l f p s).tm = s.tm ∧
    (restartActive l f p s).lcc = s.lcc ∧ (restartActive l f p s).stc = s.stc ∧ (restartActive l f p s).pwr = s.pwr ∧
    (restartActive l f p s).io = s.io ∧ (restartActive l f p s).ev = s.ev ∧ (restartActive l f p s).rw = s.rw ∧
    (restartActive l f p s).store = s.store ∧ (restartActive l f p s).writes = s.writes ∧ (restartActive l f p s).out = s.out ∧
    (restartActive l f p s).free = s.free := by
  simp only [restartActive]
  (repeat' split) <;> simp

@[simp] theorem loseStandby_frame (f : Nat) (p : Partition) (s : State) :
    (loseStandby f p s).pending = s.pending ∧ (loseStandby f p s).ident = s.ident ∧ (loseStandby f p s).sck = s.sck ∧
    (loseStandby f p s).fe = s.fe ∧ (loseStandby f p s).ts = s.ts ∧ (loseStandby f p s).key = s.key ∧
    (loseStandby f p s).pke = s.pke ∧ (loseStandby f p s).rnu = s.rnu ∧ (loseStandby f p s).tls = s.tls ∧
    (loseStandby f p s).ac = s.ac ∧ (loseStandby f p s).tm = s.tm ∧ (loseStandby f p s).lcc = s.lcc ∧
    (loseStandby f p s).stc = s.stc ∧ (loseStandby f p s).pwr = s.pwr ∧ (loseStandby f p s).io = s.io ∧
    (loseStandby f p s).rw = s.rw ∧ (loseStandby f p s).store = s.store ∧ (loseStandby f p s).writes = s.writes ∧
    (loseStandby f p s).free = s.free := by
  simp [loseStandby]

@[simp] theorem restartHeld_frame (l : List (Nat × Bool × Bool)) (f : Nat) (p : Partition) (s : State) :
    (restartHeld l f p s).pending = s.pending ∧ (restartHeld l f p s).ident = s.ident ∧ (restartHeld l f p s).sck = s.sck ∧
    (restartHeld l f p s).fe = s.fe ∧ (restartHeld l f p s).ts = s.ts ∧ (restartHeld l f p s).key = s.key ∧
    (restartHeld l f p s).pke = s.pke ∧ (restartHeld l f p s).rnu = s.rnu ∧ (restartHeld l f p s).tls = s.tls ∧
    (restartHeld l f p s).ac = s.ac ∧ (restartHeld l f p s).tm = s.tm ∧ (restartHeld l f p s).lcc = s.lcc ∧
    (restartHeld l f p s).stc = s.stc ∧ (restartHeld l f p s).pwr = s.pwr ∧ (restartHeld l f p s).io = s.io ∧
    (restartHeld l f p s).rw = s.rw ∧ (restartHeld l f p s).store = s.store ∧ (restartHeld l f p s).writes = s.writes ∧
    (restartHeld l f p s).free = s.free := by
  simp only [restartHeld]
  (repeat' split) <;> simp

@[simp] theorem restartPart_frame (l : List (Nat × Bool × Bool)) (f : Nat) (p : Partition) (s : State) :
    (restartPart l f p s).pending = s.pending ∧ (restartPart l f p s).ident = s.ident ∧ (restartPart l f p s).key = s.key ∧
    (restartPart l f p s).pke = s.pke ∧ (restartPart l f p s).rnu = s.rnu ∧ (restartPart l f p s).tls = s.tls ∧
    (restartPart l f p s).ac = s.ac ∧ (restartPart l f p s).tm = s.tm ∧ (restartPart l f p s).lcc = s.lcc ∧
    (restartPart l f p s).stc = s.stc ∧ (restartPart l f p s).pwr = s.pwr ∧ (restartPart l f p s).io = s.io ∧
    (restartPart l f p s).rw = s.rw ∧ (restartPart l f p s).store = s.store ∧ (restartPart l f p s).writes = s.writes ∧
    (restartPart l f p s).free = s.free := by
  simp only [restartPart]
  (repeat' split) <;> simp

@[simp] theorem restartParts_frame (l : List (Nat × Bool × Bool)) (x1 : Tbl Partition) (x2 : State) :
    (restartParts l x1 x2).pending = x2.pending ∧ (restartParts l x1 x2).ident = x2.ident ∧
    (restartParts l x1 x2).key = x2.key ∧ (restartParts l x1 x2).pke = x2.pke ∧ (restartParts l x1 x2).rnu = x2.rnu ∧
    (restartParts l x1 x2).tls = x2.tls ∧ (restartParts l x1 x2).ac = x2.ac ∧ (restartParts l x1 x2).tm = x2.tm ∧
    (restartParts l x1 x2).lcc = x2.lcc ∧ (restartParts l x1 x2).stc = x2.stc ∧ (restartParts l x1 x2).pwr = x2.pwr ∧
    (restartParts l x1 x2).io = x2.io ∧ (restartParts l x1 x2).rw = x2.rw ∧ (restartParts l x1 x2).store = x2.store ∧
    (restartParts l x1 x2).writes = x2.writes ∧ (restartParts l x1 x2).free = x2.free := by
  induction x1 generalizing l x2 with
  | nil => simp [restartParts]
  | cons c l ih => (simp only [restartParts, ih]; simp)

@[simp] theorem restartPlans_frame (l : List (Nat × Bool × Bool)) (s : State) :
    (restartPlans l s).pending = s.pending ∧ (restartPlans l s).ident = s.ident ∧ (restartPlans l s).pke = s.pke ∧
    (restartPlans l s).tls = s.tls ∧ (restartPlans l s).ac = s.ac ∧ (restartPlans l s).tm = s.tm ∧
    (restartPlans l s).lcc = s.lcc ∧ (restartPlans l s).stc = s.stc ∧ (restartPlans l s).pwr = s.pwr ∧
    (restartPlans l s).io = s.io ∧ (restartPlans l s).rw = s.rw ∧ (restartPlans l s).store = s.store ∧
    (restartPlans l s).writes = s.writes := by
  simp [restartPlans, ite_pending, ite_ident, ite_pke, ite_tls, ite_ac, ite_tm, ite_lcc, ite_stc, ite_pwr, ite_io, ite_rw, ite_store, ite_writes]

@[simp] theorem emptyBanks_frame (s : State) :
    (emptyBanks s).pending = s.pending ∧ (emptyBanks s).ident = s.ident ∧ (emptyBanks s).sck = s.sck ∧
    (emptyBanks s).arc = s.arc ∧ (emptyBanks s).fe = s.fe ∧ (emptyBanks s).hif = s.hif ∧ (emptyBanks s).ts = s.ts ∧
    (emptyBanks s).key = s.key ∧ (emptyBanks s).pke = s.pke ∧ (emptyBanks s).rnu = s.rnu ∧ (emptyBanks s).tls = s.tls ∧
    (emptyBanks s).ac = s.ac ∧ (emptyBanks s).tm = s.tm ∧ (emptyBanks s).lcc = s.lcc ∧ (emptyBanks s).stc = s.stc ∧
    (emptyBanks s).pwr = s.pwr ∧ (emptyBanks s).io = s.io ∧ (emptyBanks s).ev = s.ev ∧ (emptyBanks s).rw = s.rw ∧
    (emptyBanks s).store = s.store ∧ (emptyBanks s).writes = s.writes ∧ (emptyBanks s).out = s.out ∧
    (emptyBanks s).free = s.free := by
  simp [emptyBanks]

@[simp] theorem stopModule_frame (s : State) :
    (stopModule s).pending = s.pending ∧ (stopModule s).ident = s.ident ∧ (stopModule s).sck = s.sck ∧
    (stopModule s).arc = s.arc ∧ (stopModule s).pln = s.pln ∧ (stopModule s).fe = s.fe ∧ (stopModule s).hif = s.hif ∧
    (stopModule s).ts = s.ts ∧ (stopModule s).key = s.key ∧ (stopModule s).pke = s.pke ∧ (stopModule s).rnu = s.rnu ∧
    (stopModule s).tls = s.tls ∧ (stopModule s).ac = s.ac ∧ (stopModule s).tm = s.tm ∧ (stopModule s).lcc = s.lcc ∧
    (stopModule s).stc = s.stc ∧ (stopModule s).io = s.io ∧ (stopModule s).ev = s.ev ∧ (stopModule s).rw = s.rw ∧
    (stopModule s).store = s.store ∧ (stopModule s).writes = s.writes ∧ (stopModule s).out = s.out ∧
    (stopModule s).free = s.free := by
  simp [stopModule]

@[simp] theorem holdAll_frame (x1 : Nat) (x2 : State) :
    (holdAll x1 x2).pending = x2.pending ∧ (holdAll x1 x2).ident = x2.ident ∧ (holdAll x1 x2).sck = x2.sck ∧
    (holdAll x1 x2).pln = x2.pln ∧ (holdAll x1 x2).key = x2.key ∧ (holdAll x1 x2).pke = x2.pke ∧ (holdAll x1 x2).rnu = x2.rnu ∧
    (holdAll x1 x2).tls = x2.tls ∧ (holdAll x1 x2).ac = x2.ac ∧ (holdAll x1 x2).tm = x2.tm ∧ (holdAll x1 x2).lcc = x2.lcc ∧
    (holdAll x1 x2).stc = x2.stc ∧ (holdAll x1 x2).pwr = x2.pwr ∧ (holdAll x1 x2).io = x2.io ∧ (holdAll x1 x2).ev = x2.ev ∧
    (holdAll x1 x2).rw = x2.rw ∧ (holdAll x1 x2).store = x2.store ∧ (holdAll x1 x2).writes = x2.writes ∧
    (holdAll x1 x2).free = x2.free := by
  induction x1 generalizing x2 with
  | zero => simp [holdAll]
  | succ n ih => (simp only [holdAll]; (repeat' split) <;> simp [ih])

@[simp] theorem startRest_frame (i : StartIn) (cause : Nat) (old : Nat) (wiped : Option (Nat × Nat)) (s : State) :
    (startRest i cause old wiped s).pending = s.pending ∧ (startRest i cause old wiped s).ident = s.ident ∧
    (startRest i cause old wiped s).store = s.store ∧ (startRest i cause old wiped s).writes = s.writes := by
  simp [startRest, ite_pending, ite_ident, ite_store, ite_writes]

@[simp] theorem losePower_frame (s : State) :
    (losePower s).pending = s.pending ∧ (losePower s).ident = s.ident ∧ (losePower s).sck = s.sck ∧ (losePower s).arc = s.arc ∧
    (losePower s).pln = s.pln ∧ (losePower s).fe = s.fe ∧ (losePower s).hif = s.hif ∧ (losePower s).ts = s.ts ∧
    (losePower s).key = s.key ∧ (losePower s).pke = s.pke ∧ (losePower s).rnu = s.rnu ∧ (losePower s).tls = s.tls ∧
    (losePower s).ac = s.ac ∧ (losePower s).tm = s.tm ∧ (losePower s).lcc = s.lcc ∧ (losePower s).stc = s.stc ∧
    (losePower s).ev = s.ev ∧ (losePower s).rw = s.rw ∧ (losePower s).store = s.store ∧ (losePower s).writes = s.writes ∧
    (losePower s).out = s.out ∧ (losePower s).free = s.free := by
  simp [losePower]

@[simp] theorem startMain_frame (i : StartIn) (cause : Nat) (s : State) :
    (startMain i cause s).pending = s.pending ∧ (startMain i cause s).ident = s.ident := by
  simp only [startMain]
  split
  · simp
  · split
    · simp
    · split <;> rename_i h
      · have k := congrArg Prod.snd h
        simp only at k
        subst k
        simp
      · have k := congrArg Prod.snd h
        simp only at k
        subst k
        split <;> simp

@[simp] theorem resetModule_frame (i : StartIn) (cause : Nat) (final : Bool) (s : State) :
    (resetModule i cause final s).pending = s.pending ∧ (resetModule i cause final s).ident = s.ident := by
  simp [resetModule]

@[simp] theorem orderReset_frame (i : StartIn) (cause : Nat) (s : State) :
    (orderReset i cause s).pending = s.pending ∧ (orderReset i cause s).ident = s.ident := by
  simp [orderReset, ite_pending, ite_ident]

@[simp] theorem holdReset_frame (s : State) :
    (holdReset s).pending = s.pending ∧ (holdReset s).ident = s.ident ∧ (holdReset s).store = s.store ∧
    (holdReset s).free = s.free := by
  simp [holdReset]

@[simp] theorem failTrial_frame (s : State) :
    (failTrial s).pending = s.pending ∧ (failTrial s).ident = s.ident ∧ (failTrial s).sck = s.sck ∧ (failTrial s).arc = s.arc ∧
    (failTrial s).pln = s.pln ∧ (failTrial s).fe = s.fe ∧ (failTrial s).hif = s.hif ∧ (failTrial s).ts = s.ts ∧
    (failTrial s).key = s.key ∧ (failTrial s).pke = s.pke ∧ (failTrial s).rnu = s.rnu ∧ (failTrial s).tls = s.tls ∧
    (failTrial s).ac = s.ac ∧ (failTrial s).tm = s.tm ∧ (failTrial s).lcc = s.lcc ∧ (failTrial s).stc = s.stc ∧
    (failTrial s).io = s.io ∧ (failTrial s).ev = s.ev ∧ (failTrial s).rw = s.rw ∧ (failTrial s).store = s.store ∧
    (failTrial s).writes = s.writes ∧ (failTrial s).out = s.out ∧ (failTrial s).free = s.free := by
  simp [failTrial, ite_pending, ite_ident, ite_sck, ite_arc, ite_pln, ite_fe, ite_hif, ite_ts, ite_key, ite_pke, ite_rnu, ite_tls, ite_ac, ite_tm, ite_lcc, ite_stc, ite_io, ite_ev, ite_rw, ite_store, ite_writes, ite_out, ite_free]

@[simp] theorem unfeedStandby_frame (s : State) :
    (unfeedStandby s).pending = s.pending ∧ (unfeedStandby s).ident = s.ident ∧ (unfeedStandby s).sck = s.sck ∧
    (unfeedStandby s).arc = s.arc ∧ (unfeedStandby s).pln = s.pln ∧ (unfeedStandby s).fe = s.fe ∧
    (unfeedStandby s).hif = s.hif ∧ (unfeedStandby s).ts = s.ts ∧ (unfeedStandby s).key = s.key ∧
    (unfeedStandby s).pke = s.pke ∧ (unfeedStandby s).rnu = s.rnu ∧ (unfeedStandby s).tls = s.tls ∧
    (unfeedStandby s).ac = s.ac ∧ (unfeedStandby s).tm = s.tm ∧ (unfeedStandby s).lcc = s.lcc ∧ (unfeedStandby s).stc = s.stc ∧
    (unfeedStandby s).ev = s.ev ∧ (unfeedStandby s).rw = s.rw ∧ (unfeedStandby s).store = s.store ∧
    (unfeedStandby s).writes = s.writes ∧ (unfeedStandby s).out = s.out ∧ (unfeedStandby s).free = s.free := by
  simp [unfeedStandby]

end Sys2Proof.Machine
end

