-- ==== Sys2Proof/Laws/Registers.lean ====
section
/-! SUPPORT. What the operations of Machine/Registers.lean leave unchanged, once for each: its frame. -/

namespace Sys2Proof.Machine

@[simp] theorem execPortCfgWrite_frame (port : Nat) (value : Nat) (s : State) :
    (stateOf s (execPortCfgWrite port value s)).pending = s.pending ∧
    (stateOf s (execPortCfgWrite port value s)).ident = s.ident ∧ (stateOf s (execPortCfgWrite port value s)).sck = s.sck ∧
    (stateOf s (execPortCfgWrite port value s)).arc = s.arc ∧ (stateOf s (execPortCfgWrite port value s)).pln = s.pln ∧
    (stateOf s (execPortCfgWrite port value s)).fe = s.fe ∧ (stateOf s (execPortCfgWrite port value s)).hif = s.hif ∧
    (stateOf s (execPortCfgWrite port value s)).ts = s.ts ∧ (stateOf s (execPortCfgWrite port value s)).key = s.key ∧
    (stateOf s (execPortCfgWrite port value s)).pke = s.pke ∧ (stateOf s (execPortCfgWrite port value s)).rnu = s.rnu ∧
    (stateOf s (execPortCfgWrite port value s)).tls = s.tls ∧ (stateOf s (execPortCfgWrite port value s)).ac = s.ac ∧
    (stateOf s (execPortCfgWrite port value s)).tm = s.tm ∧ (stateOf s (execPortCfgWrite port value s)).lcc = s.lcc ∧
    (stateOf s (execPortCfgWrite port value s)).stc = s.stc ∧ (stateOf s (execPortCfgWrite port value s)).pwr = s.pwr ∧
    (stateOf s (execPortCfgWrite port value s)).io = s.io ∧ (stateOf s (execPortCfgWrite port value s)).ev = s.ev ∧
    (stateOf s (execPortCfgWrite port value s)).store = s.store ∧ (stateOf s (execPortCfgWrite port value s)).free = s.free := by
  simp only [execPortCfgWrite, viaBar]
  (repeat' split) <;> simp [stateOf]

@[simp] theorem execPairCfgWrite_frame (pair : Nat) (value : Nat) (s : State) :
    (stateOf s (execPairCfgWrite pair value s)).pending = s.pending ∧
    (stateOf s (execPairCfgWrite pair value s)).ident = s.ident ∧ (stateOf s (execPairCfgWrite pair value s)).sck = s.sck ∧
    (stateOf s (execPairCfgWrite pair value s)).pln = s.pln ∧ (stateOf s (execPairCfgWrite pair value s)).key = s.key ∧
    (stateOf s (execPairCfgWrite pair value s)).pke = s.pke ∧ (stateOf s (execPairCfgWrite pair value s)).rnu = s.rnu ∧
    (stateOf s (execPairCfgWrite pair value s)).tls = s.tls ∧ (stateOf s (execPairCfgWrite pair value s)).ac = s.ac ∧
    (stateOf s (execPairCfgWrite pair value s)).tm = s.tm ∧ (stateOf s (execPairCfgWrite pair value s)).lcc = s.lcc ∧
    (stateOf s (execPairCfgWrite pair value s)).stc = s.stc ∧ (stateOf s (execPairCfgWrite pair value s)).pwr = s.pwr ∧
    (stateOf s (execPairCfgWrite pair value s)).io = s.io ∧ (stateOf s (execPairCfgWrite pair value s)).ev = s.ev ∧
    (stateOf s (execPairCfgWrite pair value s)).store = s.store ∧ (stateOf s (execPairCfgWrite pair value s)).free = s.free := by
  simp only [execPairCfgWrite, viaBar]
  (repeat' split) <;> simp [stateOf]

@[simp] theorem execCoreGroupsWrite_frame (core : Nat) (value : Nat) (s : State) :
    (stateOf s (execCoreGroupsWrite core value s)).pending = s.pending ∧
    (stateOf s (execCoreGroupsWrite core value s)).ident = s.ident ∧
    (stateOf s (execCoreGroupsWrite core value s)).sck = s.sck ∧ (stateOf s (execCoreGroupsWrite core value s)).arc = s.arc ∧
    (stateOf s (execCoreGroupsWrite core value s)).pln = s.pln ∧ (stateOf s (execCoreGroupsWrite core value s)).fe = s.fe ∧
    (stateOf s (execCoreGroupsWrite core value s)).ts = s.ts ∧ (stateOf s (execCoreGroupsWrite core value s)).key = s.key ∧
    (stateOf s (execCoreGroupsWrite core value s)).pke = s.pke ∧ (stateOf s (execCoreGroupsWrite core value s)).rnu = s.rnu ∧
    (stateOf s (execCoreGroupsWrite core value s)).tls = s.tls ∧ (stateOf s (execCoreGroupsWrite core value s)).ac = s.ac ∧
    (stateOf s (execCoreGroupsWrite core value s)).tm = s.tm ∧ (stateOf s (execCoreGroupsWrite core value s)).lcc = s.lcc ∧
    (stateOf s (execCoreGroupsWrite core value s)).stc = s.stc ∧ (stateOf s (execCoreGroupsWrite core value s)).pwr = s.pwr ∧
    (stateOf s (execCoreGroupsWrite core value s)).io = s.io ∧ (stateOf s (execCoreGroupsWrite core value s)).rw = s.rw ∧
    (stateOf s (execCoreGroupsWrite core value s)).store = s.store ∧
    (stateOf s (execCoreGroupsWrite core value s)).free = s.free := by
  simp only [execCoreGroupsWrite, viaBar]
  (repeat' split) <;> simp [stateOf]

@[simp] theorem execModuleResetRequest_frame (value : Nat) (i : StartIn) (s : State) :
    (stateOf s (execModuleResetRequest value i s)).pending = s.pending ∧
    (stateOf s (execModuleResetRequest value i s)).ident = s.ident := by
  simp only [execModuleResetRequest, viaBar]
  (repeat' split) <;> simp [stateOf]

@[simp] theorem execTestPatternWrite_frame (value : Nat) (s : State) :
    (stateOf s (execTestPatternWrite value s)).pending = s.pending ∧
    (stateOf s (execTestPatternWrite value s)).ident = s.ident ∧ (stateOf s (execTestPatternWrite value s)).sck = s.sck ∧
    (stateOf s (execTestPatternWrite value s)).arc = s.arc ∧ (stateOf s (execTestPatternWrite value s)).pln = s.pln ∧
    (stateOf s (execTestPatternWrite value s)).fe = s.fe ∧ (stateOf s (execTestPatternWrite value s)).hif = s.hif ∧
    (stateOf s (execTestPatternWrite value s)).ts = s.ts ∧ (stateOf s (execTestPatternWrite value s)).key = s.key ∧
    (stateOf s (execTestPatternWrite value s)).pke = s.pke ∧ (stateOf s (execTestPatternWrite value s)).tls = s.tls ∧
    (stateOf s (execTestPatternWrite value s)).ac = s.ac ∧ (stateOf s (execTestPatternWrite value s)).tm = s.tm ∧
    (stateOf s (execTestPatternWrite value s)).lcc = s.lcc ∧ (stateOf s (execTestPatternWrite value s)).stc = s.stc ∧
    (stateOf s (execTestPatternWrite value s)).pwr = s.pwr ∧ (stateOf s (execTestPatternWrite value s)).io = s.io ∧
    (stateOf s (execTestPatternWrite value s)).ev = s.ev ∧ (stateOf s (execTestPatternWrite value s)).rw = s.rw ∧
    (stateOf s (execTestPatternWrite value s)).store = s.store ∧ (stateOf s (execTestPatternWrite value s)).writes = s.writes ∧
    (stateOf s (execTestPatternWrite value s)).free = s.free := by
  simp only [execTestPatternWrite, viaBar]
  (repeat' split) <;> simp [stateOf]

@[simp] theorem execRingEnable_frame (f : Nat) (ring : Nat) (cfg : Nat) (s : State) :
    (stateOf s (execRingEnable f ring cfg s)).pending = s.pending ∧ (stateOf s (execRingEnable f ring cfg s)).ident = s.ident ∧
    (stateOf s (execRingEnable f ring cfg s)).sck = s.sck ∧ (stateOf s (execRingEnable f ring cfg s)).arc = s.arc ∧
    (stateOf s (execRingEnable f ring cfg s)).pln = s.pln ∧ (stateOf s (execRingEnable f ring cfg s)).fe = s.fe ∧
    (stateOf s (execRingEnable f ring cfg s)).ts = s.ts ∧ (stateOf s (execRingEnable f ring cfg s)).key = s.key ∧
    (stateOf s (execRingEnable f ring cfg s)).pke = s.pke ∧ (stateOf s (execRingEnable f ring cfg s)).rnu = s.rnu ∧
    (stateOf s (execRingEnable f ring cfg s)).tls = s.tls ∧ (stateOf s (execRingEnable f ring cfg s)).ac = s.ac ∧
    (stateOf s (execRingEnable f ring cfg s)).tm = s.tm ∧ (stateOf s (execRingEnable f ring cfg s)).lcc = s.lcc ∧
    (stateOf s (execRingEnable f ring cfg s)).stc = s.stc ∧ (stateOf s (execRingEnable f ring cfg s)).pwr = s.pwr ∧
    (stateOf s (execRingEnable f ring cfg s)).io = s.io ∧ (stateOf s (execRingEnable f ring cfg s)).ev = s.ev ∧
    (stateOf s (execRingEnable f ring cfg s)).rw = s.rw ∧ (stateOf s (execRingEnable f ring cfg s)).store = s.store ∧
    (stateOf s (execRingEnable f ring cfg s)).writes = s.writes ∧ (stateOf s (execRingEnable f ring cfg s)).free = s.free := by
  simp only [execRingEnable, viaBar]
  (repeat' split) <;> simp [stateOf]

@[simp] theorem execRingDrain_frame (f : Nat) (ring : Nat) (s : State) :
    (stateOf s (execRingDrain f ring s)).pending = s.pending ∧ (stateOf s (execRingDrain f ring s)).ident = s.ident ∧
    (stateOf s (execRingDrain f ring s)).sck = s.sck ∧ (stateOf s (execRingDrain f ring s)).arc = s.arc ∧
    (stateOf s (execRingDrain f ring s)).pln = s.pln ∧ (stateOf s (execRingDrain f ring s)).fe = s.fe ∧
    (stateOf s (execRingDrain f ring s)).key = s.key ∧ (stateOf s (execRingDrain f ring s)).pke = s.pke ∧
    (stateOf s (execRingDrain f ring s)).rnu = s.rnu ∧ (stateOf s (execRingDrain f ring s)).tls = s.tls ∧
    (stateOf s (execRingDrain f ring s)).ac = s.ac ∧ (stateOf s (execRingDrain f ring s)).tm = s.tm ∧
    (stateOf s (execRingDrain f ring s)).lcc = s.lcc ∧ (stateOf s (execRingDrain f ring s)).stc = s.stc ∧
    (stateOf s (execRingDrain f ring s)).pwr = s.pwr ∧ (stateOf s (execRingDrain f ring s)).io = s.io ∧
    (stateOf s (execRingDrain f ring s)).ev = s.ev ∧ (stateOf s (execRingDrain f ring s)).rw = s.rw ∧
    (stateOf s (execRingDrain f ring s)).store = s.store ∧ (stateOf s (execRingDrain f ring s)).writes = s.writes ∧
    (stateOf s (execRingDrain f ring s)).free = s.free := by
  simp only [execRingDrain, viaBar]
  (repeat' split) <;> simp [stateOf]

@[simp] theorem execStreamCounterLatch_frame (f : Nat) (entry : Nat) (error : Bool) (s : State) :
    (stateOf s (execStreamCounterLatch f entry error s)).pending = s.pending ∧
    (stateOf s (execStreamCounterLatch f entry error s)).ident = s.ident ∧
    (stateOf s (execStreamCounterLatch f entry error s)).sck = s.sck ∧
    (stateOf s (execStreamCounterLatch f entry error s)).pln = s.pln ∧
    (stateOf s (execStreamCounterLatch f entry error s)).ts = s.ts ∧
    (stateOf s (execStreamCounterLatch f entry error s)).key = s.key ∧
    (stateOf s (execStreamCounterLatch f entry error s)).pke = s.pke ∧
    (stateOf s (execStreamCounterLatch f entry error s)).rnu = s.rnu ∧
    (stateOf s (execStreamCounterLatch f entry error s)).tls = s.tls ∧
    (stateOf s (execStreamCounterLatch f entry error s)).ac = s.ac ∧
    (stateOf s (execStreamCounterLatch f entry error s)).tm = s.tm ∧
    (stateOf s (execStreamCounterLatch f entry error s)).lcc = s.lcc ∧
    (stateOf s (execStreamCounterLatch f entry error s)).stc = s.stc ∧
    (stateOf s (execStreamCounterLatch f entry error s)).pwr = s.pwr ∧
    (stateOf s (execStreamCounterLatch f entry error s)).io = s.io ∧
    (stateOf s (execStreamCounterLatch f entry error s)).rw = s.rw ∧
    (stateOf s (execStreamCounterLatch f entry error s)).store = s.store ∧
    (stateOf s (execStreamCounterLatch f entry error s)).writes = s.writes ∧
    (stateOf s (execStreamCounterLatch f entry error s)).free = s.free := by
  simp only [execStreamCounterLatch, viaBar]
  (repeat' split) <;> simp [stateOf]

@[simp] theorem execPortCounterLatch_frame (port : Nat) (s : State) :
    (stateOf s (execPortCounterLatch port s)).pending = s.pending ∧ (stateOf s (execPortCounterLatch port s)).ident = s.ident ∧
    (stateOf s (execPortCounterLatch port s)).sck = s.sck ∧ (stateOf s (execPortCounterLatch port s)).arc = s.arc ∧
    (stateOf s (execPortCounterLatch port s)).pln = s.pln ∧ (stateOf s (execPortCounterLatch port s)).hif = s.hif ∧
    (stateOf s (execPortCounterLatch port s)).ts = s.ts ∧ (stateOf s (execPortCounterLatch port s)).key = s.key ∧
    (stateOf s (execPortCounterLatch port s)).pke = s.pke ∧ (stateOf s (execPortCounterLatch port s)).rnu = s.rnu ∧
    (stateOf s (execPortCounterLatch port s)).tls = s.tls ∧ (stateOf s (execPortCounterLatch port s)).ac = s.ac ∧
    (stateOf s (execPortCounterLatch port s)).tm = s.tm ∧ (stateOf s (execPortCounterLatch port s)).lcc = s.lcc ∧
    (stateOf s (execPortCounterLatch port s)).stc = s.stc ∧ (stateOf s (execPortCounterLatch port s)).pwr = s.pwr ∧
    (stateOf s (execPortCounterLatch port s)).io = s.io ∧ (stateOf s (execPortCounterLatch port s)).ev = s.ev ∧
    (stateOf s (execPortCounterLatch port s)).rw = s.rw ∧ (stateOf s (execPortCounterLatch port s)).store = s.store ∧
    (stateOf s (execPortCounterLatch port s)).writes = s.writes ∧ (stateOf s (execPortCounterLatch port s)).free = s.free := by
  simp only [execPortCounterLatch, viaBar]
  (repeat' split) <;> simp [stateOf]

@[simp] theorem setSplit_frame (f : Nat) (off : Nat) (v : Option Nat) (s : State) :
    (setSplit f off v s).pending = s.pending ∧ (setSplit f off v s).ident = s.ident ∧ (setSplit f off v s).sck = s.sck ∧
    (setSplit f off v s).arc = s.arc ∧ (setSplit f off v s).pln = s.pln ∧ (setSplit f off v s).fe = s.fe ∧
    (setSplit f off v s).ts = s.ts ∧ (setSplit f off v s).key = s.key ∧ (setSplit f off v s).pke = s.pke ∧
    (setSplit f off v s).rnu = s.rnu ∧ (setSplit f off v s).tls = s.tls ∧ (setSplit f off v s).ac = s.ac ∧
    (setSplit f off v s).tm = s.tm ∧ (setSplit f off v s).lcc = s.lcc ∧ (setSplit f off v s).stc = s.stc ∧
    (setSplit f off v s).pwr = s.pwr ∧ (setSplit f off v s).io = s.io ∧ (setSplit f off v s).ev = s.ev ∧
    (setSplit f off v s).rw = s.rw ∧ (setSplit f off v s).store = s.store ∧ (setSplit f off v s).writes = s.writes ∧
    (setSplit f off v s).out = s.out ∧ (setSplit f off v s).free = s.free := by
  simp [setSplit]

@[simp] theorem read4_frame (f : Nat) (off : Nat) (s : State) :
    (read4 f off s).2.pending = s.pending ∧ (read4 f off s).2.ident = s.ident ∧ (read4 f off s).2.sck = s.sck ∧
    (read4 f off s).2.arc = s.arc ∧ (read4 f off s).2.fe = s.fe ∧ (read4 f off s).2.ts = s.ts ∧ (read4 f off s).2.key = s.key ∧
    (read4 f off s).2.pke = s.pke ∧ (read4 f off s).2.rnu = s.rnu ∧ (read4 f off s).2.tls = s.tls ∧
    (read4 f off s).2.tm = s.tm ∧ (read4 f off s).2.lcc = s.lcc ∧ (read4 f off s).2.stc = s.stc ∧
    (read4 f off s).2.pwr = s.pwr ∧ (read4 f off s).2.io = s.io ∧ (read4 f off s).2.ev = s.ev ∧ (read4 f off s).2.rw = s.rw ∧
    (read4 f off s).2.store = s.store ∧ (read4 f off s).2.writes = s.writes ∧ (read4 f off s).2.out = s.out ∧
    (read4 f off s).2.free = s.free := by
  simp only [read4]
  (repeat' split) <;> simp

@[simp] theorem read8_frame (f : Nat) (off : Nat) (s : State) :
    (read8 f off s).2.pending = s.pending ∧ (read8 f off s).2.ident = s.ident ∧ (read8 f off s).2.sck = s.sck ∧
    (read8 f off s).2.arc = s.arc ∧ (read8 f off s).2.fe = s.fe ∧ (read8 f off s).2.ts = s.ts ∧ (read8 f off s).2.key = s.key ∧
    (read8 f off s).2.pke = s.pke ∧ (read8 f off s).2.rnu = s.rnu ∧ (read8 f off s).2.tls = s.tls ∧
    (read8 f off s).2.tm = s.tm ∧ (read8 f off s).2.lcc = s.lcc ∧ (read8 f off s).2.stc = s.stc ∧
    (read8 f off s).2.pwr = s.pwr ∧ (read8 f off s).2.io = s.io ∧ (read8 f off s).2.ev = s.ev ∧ (read8 f off s).2.rw = s.rw ∧
    (read8 f off s).2.store = s.store ∧ (read8 f off s).2.writes = s.writes ∧ (read8 f off s).2.out = s.out ∧
    (read8 f off s).2.free = s.free := by
  simp only [read8]
  (repeat' split) <;> simp

@[simp] theorem barRead_frame (f : Nat) (off : Nat) (len : Nat) (s : State) :
    (barRead f off len s).2.pending = s.pending ∧ (barRead f off len s).2.ident = s.ident ∧
    (barRead f off len s).2.sck = s.sck ∧ (barRead f off len s).2.arc = s.arc ∧ (barRead f off len s).2.fe = s.fe ∧
    (barRead f off len s).2.ts = s.ts ∧ (barRead f off len s).2.key = s.key ∧ (barRead f off len s).2.pke = s.pke ∧
    (barRead f off len s).2.rnu = s.rnu ∧ (barRead f off len s).2.tls = s.tls ∧ (barRead f off len s).2.tm = s.tm ∧
    (barRead f off len s).2.lcc = s.lcc ∧ (barRead f off len s).2.stc = s.stc ∧ (barRead f off len s).2.pwr = s.pwr ∧
    (barRead f off len s).2.io = s.io ∧ (barRead f off len s).2.ev = s.ev ∧ (barRead f off len s).2.rw = s.rw ∧
    (barRead f off len s).2.store = s.store ∧ (barRead f off len s).2.writes = s.writes ∧ (barRead f off len s).2.out = s.out ∧
    (barRead f off len s).2.free = s.free := by
  simp only [barRead]
  (repeat' split) <;> simp

@[simp] theorem writeSetting_frame (off : Nat) (value : Nat) (s : State) :
    (writeSetting off value s).pending = s.pending ∧ (writeSetting off value s).ident = s.ident ∧
    (writeSetting off value s).sck = s.sck ∧ (writeSetting off value s).arc = s.arc ∧ (writeSetting off value s).pln = s.pln ∧
    (writeSetting off value s).fe = s.fe ∧ (writeSetting off value s).ts = s.ts ∧ (writeSetting off value s).key = s.key ∧
    (writeSetting off value s).pke = s.pke ∧ (writeSetting off value s).rnu = s.rnu ∧ (writeSetting off value s).tls = s.tls ∧
    (writeSetting off value s).ac = s.ac ∧ (writeSetting off value s).tm = s.tm ∧ (writeSetting off value s).lcc = s.lcc ∧
    (writeSetting off value s).stc = s.stc ∧ (writeSetting off value s).pwr = s.pwr ∧ (writeSetting off value s).io = s.io ∧
    (writeSetting off value s).rw = s.rw ∧ (writeSetting off value s).store = s.store ∧
    (writeSetting off value s).free = s.free := by
  simp [writeSetting, ite_pending, ite_ident, ite_sck, ite_arc, ite_pln, ite_fe, ite_ts, ite_key, ite_pke, ite_rnu, ite_tls, ite_ac, ite_tm, ite_lcc, ite_stc, ite_pwr, ite_io, ite_rw, ite_store, ite_free]

@[simp] theorem writeRingZones_frame (value : Nat) (s : State) :
    (writeRingZones value s).pending = s.pending ∧ (writeRingZones value s).ident = s.ident ∧
    (writeRingZones value s).sck = s.sck ∧ (writeRingZones value s).arc = s.arc ∧ (writeRingZones value s).pln = s.pln ∧
    (writeRingZones value s).fe = s.fe ∧ (writeRingZones value s).hif = s.hif ∧ (writeRingZones value s).ts = s.ts ∧
    (writeRingZones value s).key = s.key ∧ (writeRingZones value s).pke = s.pke ∧ (writeRingZones value s).rnu = s.rnu ∧
    (writeRingZones value s).tls = s.tls ∧ (writeRingZones value s).ac = s.ac ∧ (writeRingZones value s).tm = s.tm ∧
    (writeRingZones value s).lcc = s.lcc ∧ (writeRingZones value s).stc = s.stc ∧ (writeRingZones value s).pwr = s.pwr ∧
    (writeRingZones value s).io = s.io ∧ (writeRingZones value s).ev = s.ev ∧ (writeRingZones value s).rw = s.rw ∧
    (writeRingZones value s).store = s.store ∧ (writeRingZones value s).out = s.out ∧ (writeRingZones value s).free = s.free := by
  simp [writeRingZones, ite_pending, ite_ident, ite_sck, ite_arc, ite_pln, ite_fe, ite_hif, ite_ts, ite_key, ite_pke, ite_rnu, ite_tls, ite_ac, ite_tm, ite_lcc, ite_stc, ite_pwr, ite_io, ite_ev, ite_rw, ite_store, ite_out, ite_free]

@[simp] theorem writeLoopCfg_frame (loop : Nat) (value : Nat) (s : State) :
    (writeLoopCfg loop value s).pending = s.pending ∧ (writeLoopCfg loop value s).ident = s.ident ∧
    (writeLoopCfg loop value s).sck = s.sck ∧ (writeLoopCfg loop value s).arc = s.arc ∧
    (writeLoopCfg loop value s).pln = s.pln ∧ (writeLoopCfg loop value s).fe = s.fe ∧ (writeLoopCfg loop value s).hif = s.hif ∧
    (writeLoopCfg loop value s).ts = s.ts ∧ (writeLoopCfg loop value s).key = s.key ∧ (writeLoopCfg loop value s).pke = s.pke ∧
    (writeLoopCfg loop value s).rnu = s.rnu ∧ (writeLoopCfg loop value s).tls = s.tls ∧ (writeLoopCfg loop value s).ac = s.ac ∧
    (writeLoopCfg loop value s).tm = s.tm ∧ (writeLoopCfg loop value s).lcc = s.lcc ∧ (writeLoopCfg loop value s).stc = s.stc ∧
    (writeLoopCfg loop value s).pwr = s.pwr ∧ (writeLoopCfg loop value s).io = s.io ∧ (writeLoopCfg loop value s).ev = s.ev ∧
    (writeLoopCfg loop value s).rw = s.rw ∧ (writeLoopCfg loop value s).store = s.store ∧
    (writeLoopCfg loop value s).out = s.out ∧ (writeLoopCfg loop value s).free = s.free := by
  simp [writeLoopCfg, ite_pending, ite_ident, ite_sck, ite_arc, ite_pln, ite_fe, ite_hif, ite_ts, ite_key, ite_pke, ite_rnu, ite_tls, ite_ac, ite_tm, ite_lcc, ite_stc, ite_pwr, ite_io, ite_ev, ite_rw, ite_store, ite_out, ite_free]

@[simp] theorem applyLoop_frame (n : Nat) (s : State) :
    (applyLoop n s).pending = s.pending ∧ (applyLoop n s).ident = s.ident ∧ (applyLoop n s).sck = s.sck ∧
    (applyLoop n s).ac = s.ac ∧ (applyLoop n s).pwr = s.pwr ∧ (applyLoop n s).rw = s.rw ∧ (applyLoop n s).store = s.store ∧
    (applyLoop n s).writes = s.writes ∧ (applyLoop n s).free = s.free := by
  simp only [applyLoop]
  (repeat' split) <;> simp

@[simp] theorem applyStored_frame (off : Nat) (value : Nat) (s : State) :
    (applyStored off value s).pending = s.pending ∧ (applyStored off value s).ident = s.ident ∧
    (applyStored off value s).ac = s.ac ∧ (applyStored off value s).pwr = s.pwr ∧ (applyStored off value s).store = s.store ∧
    (applyStored off value s).writes = s.writes ∧ (applyStored off value s).free = s.free := by
  simp only [applyStored]
  (repeat' split) <;> simp

@[simp] theorem storeValue_frame (key : Nat) (value : Nat) (s : State) :
    (storeValue key value s).pending = s.pending ∧ (storeValue key value s).ident = s.ident ∧
    (storeValue key value s).ac = s.ac ∧ (storeValue key value s).pwr = s.pwr ∧ (storeValue key value s).writes = s.writes ∧
    (storeValue key value s).free = s.free := by
  simp [storeValue, ite_pending, ite_ident, ite_ac, ite_pwr, ite_writes, ite_free]

@[simp] theorem writeRing_frame (f : Nat) (ring : Nat) (k : Nat) (value : Nat) (s : State) :
    (writeRing f ring k value s).pending = s.pending ∧ (writeRing f ring k value s).ident = s.ident ∧
    (writeRing f ring k value s).sck = s.sck ∧ (writeRing f ring k value s).arc = s.arc ∧
    (writeRing f ring k value s).pln = s.pln ∧ (writeRing f ring k value s).fe = s.fe ∧
    (writeRing f ring k value s).key = s.key ∧ (writeRing f ring k value s).pke = s.pke ∧
    (writeRing f ring k value s).rnu = s.rnu ∧ (writeRing f ring k value s).tls = s.tls ∧
    (writeRing f ring k value s).ac = s.ac ∧ (writeRing f ring k value s).tm = s.tm ∧
    (writeRing f ring k value s).lcc = s.lcc ∧ (writeRing f ring k value s).stc = s.stc ∧
    (writeRing f ring k value s).pwr = s.pwr ∧ (writeRing f ring k value s).io = s.io ∧
    (writeRing f ring k value s).ev = s.ev ∧ (writeRing f ring k value s).rw = s.rw ∧
    (writeRing f ring k value s).store = s.store ∧ (writeRing f ring k value s).writes = s.writes ∧
    (writeRing f ring k value s).free = s.free := by
  simp only [writeRing]
  (repeat' split) <;> simp

@[simp] theorem writeMsix_frame (f : Nat) (off : Nat) (value : Nat) (s : State) :
    (writeMsix f off value s).pending = s.pending ∧ (writeMsix f off value s).ident = s.ident ∧
    (writeMsix f off value s).sck = s.sck ∧ (writeMsix f off value s).arc = s.arc ∧ (writeMsix f off value s).pln = s.pln ∧
    (writeMsix f off value s).fe = s.fe ∧ (writeMsix f off value s).ts = s.ts ∧ (writeMsix f off value s).key = s.key ∧
    (writeMsix f off value s).pke = s.pke ∧ (writeMsix f off value s).rnu = s.rnu ∧ (writeMsix f off value s).tls = s.tls ∧
    (writeMsix f off value s).ac = s.ac ∧ (writeMsix f off value s).tm = s.tm ∧ (writeMsix f off value s).lcc = s.lcc ∧
    (writeMsix f off value s).stc = s.stc ∧ (writeMsix f off value s).pwr = s.pwr ∧ (writeMsix f off value s).io = s.io ∧
    (writeMsix f off value s).ev = s.ev ∧ (writeMsix f off value s).rw = s.rw ∧ (writeMsix f off value s).store = s.store ∧
    (writeMsix f off value s).writes = s.writes ∧ (writeMsix f off value s).free = s.free := by
  simp [writeMsix]

@[simp] theorem writeEvent_frame (b : EvBlock) (f : Nat) (mask : Nat) (isEnable : Bool) (value : Nat) (s : State) :
    (writeEvent b f mask isEnable value s).pending = s.pending ∧ (writeEvent b f mask isEnable value s).ident = s.ident ∧
    (writeEvent b f mask isEnable value s).sck = s.sck ∧ (writeEvent b f mask isEnable value s).arc = s.arc ∧
    (writeEvent b f mask isEnable value s).pln = s.pln ∧ (writeEvent b f mask isEnable value s).fe = s.fe ∧
    (writeEvent b f mask isEnable value s).hif = s.hif ∧ (writeEvent b f mask isEnable value s).ts = s.ts ∧
    (writeEvent b f mask isEnable value s).key = s.key ∧ (writeEvent b f mask isEnable value s).pke = s.pke ∧
    (writeEvent b f mask isEnable value s).rnu = s.rnu ∧ (writeEvent b f mask isEnable value s).tls = s.tls ∧
    (writeEvent b f mask isEnable value s).ac = s.ac ∧ (writeEvent b f mask isEnable value s).tm = s.tm ∧
    (writeEvent b f mask isEnable value s).lcc = s.lcc ∧ (writeEvent b f mask isEnable value s).stc = s.stc ∧
    (writeEvent b f mask isEnable value s).pwr = s.pwr ∧ (writeEvent b f mask isEnable value s).io = s.io ∧
    (writeEvent b f mask isEnable value s).rw = s.rw ∧ (writeEvent b f mask isEnable value s).store = s.store ∧
    (writeEvent b f mask isEnable value s).out = s.out ∧ (writeEvent b f mask isEnable value s).free = s.free := by
  simp [writeEvent, ite_pending, ite_ident, ite_sck, ite_arc, ite_pln, ite_fe, ite_hif, ite_ts, ite_key, ite_pke, ite_rnu, ite_tls, ite_ac, ite_tm, ite_lcc, ite_stc, ite_pwr, ite_io, ite_rw, ite_store, ite_out, ite_free]

@[simp] theorem writeStreamSel_frame (f : Nat) (value : Nat) (s : State) :
    (writeStreamSel f value s).pending = s.pending ∧ (writeStreamSel f value s).ident = s.ident ∧
    (writeStreamSel f value s).sck = s.sck ∧ (writeStreamSel f value s).pln = s.pln ∧ (writeStreamSel f value s).ts = s.ts ∧
    (writeStreamSel f value s).key = s.key ∧ (writeStreamSel f value s).pke = s.pke ∧ (writeStreamSel f value s).rnu = s.rnu ∧
    (writeStreamSel f value s).tls = s.tls ∧ (writeStreamSel f value s).ac = s.ac ∧ (writeStreamSel f value s).tm = s.tm ∧
    (writeStreamSel f value s).lcc = s.lcc ∧ (writeStreamSel f value s).stc = s.stc ∧ (writeStreamSel f value s).pwr = s.pwr ∧
    (writeStreamSel f value s).io = s.io ∧ (writeStreamSel f value s).rw = s.rw ∧ (writeStreamSel f value s).store = s.store ∧
    (writeStreamSel f value s).writes = s.writes ∧ (writeStreamSel f value s).free = s.free := by
  simp [writeStreamSel, ite_pending, ite_ident, ite_sck, ite_pln, ite_ts, ite_key, ite_pke, ite_rnu, ite_tls, ite_ac, ite_tm, ite_lcc, ite_stc, ite_pwr, ite_io, ite_rw, ite_store, ite_writes, ite_free]

@[simp] theorem writePortSel_frame (value : Nat) (s : State) :
    (writePortSel value s).pending = s.pending ∧ (writePortSel value s).ident = s.ident ∧ (writePortSel value s).sck = s.sck ∧
    (writePortSel value s).arc = s.arc ∧ (writePortSel value s).pln = s.pln ∧ (writePortSel value s).hif = s.hif ∧
    (writePortSel value s).ts = s.ts ∧ (writePortSel value s).key = s.key ∧ (writePortSel value s).pke = s.pke ∧
    (writePortSel value s).rnu = s.rnu ∧ (writePortSel value s).tls = s.tls ∧ (writePortSel value s).ac = s.ac ∧
    (writePortSel value s).tm = s.tm ∧ (writePortSel value s).lcc = s.lcc ∧ (writePortSel value s).stc = s.stc ∧
    (writePortSel value s).pwr = s.pwr ∧ (writePortSel value s).io = s.io ∧ (writePortSel value s).ev = s.ev ∧
    (writePortSel value s).rw = s.rw ∧ (writePortSel value s).store = s.store ∧ (writePortSel value s).writes = s.writes ∧
    (writePortSel value s).free = s.free := by
  simp [writePortSel, ite_pending, ite_ident, ite_sck, ite_arc, ite_pln, ite_hif, ite_ts, ite_key, ite_pke, ite_rnu, ite_tls, ite_ac, ite_tm, ite_lcc, ite_stc, ite_pwr, ite_io, ite_ev, ite_rw, ite_store, ite_writes, ite_free]

@[simp] theorem writeFn_frame (f : Nat) (off : Nat) (value : Nat) (s : State) :
    (writeFn f off value s).pending = s.pending ∧ (writeFn f off value s).ident = s.ident ∧
    (writeFn f off value s).sck = s.sck ∧ (writeFn f off value s).key = s.key ∧ (writeFn f off value s).pke = s.pke ∧
    (writeFn f off value s).rnu = s.rnu ∧ (writeFn f off value s).tls = s.tls ∧ (writeFn f off value s).ac = s.ac ∧
    (writeFn f off value s).tm = s.tm ∧ (writeFn f off value s).lcc = s.lcc ∧ (writeFn f off value s).stc = s.stc ∧
    (writeFn f off value s).io = s.io ∧ (writeFn f off value s).store = s.store ∧ (writeFn f off value s).free = s.free := by
  simp only [writeFn]
  (repeat' split) <;> simp

@[simp] theorem writeGroup_frame (g : Nat) (value : Nat) (s : State) :
    (writeGroup g value s).pending = s.pending ∧ (writeGroup g value s).ident = s.ident ∧ (writeGroup g value s).sck = s.sck ∧
    (writeGroup g value s).arc = s.arc ∧ (writeGroup g value s).pln = s.pln ∧ (writeGroup g value s).fe = s.fe ∧
    (writeGroup g value s).hif = s.hif ∧ (writeGroup g value s).ts = s.ts ∧ (writeGroup g value s).key = s.key ∧
    (writeGroup g value s).pke = s.pke ∧ (writeGroup g value s).rnu = s.rnu ∧ (writeGroup g value s).tls = s.tls ∧
    (writeGroup g value s).ac = s.ac ∧ (writeGroup g value s).tm = s.tm ∧ (writeGroup g value s).lcc = s.lcc ∧
    (writeGroup g value s).stc = s.stc ∧ (writeGroup g value s).pwr = s.pwr ∧ (writeGroup g value s).io = s.io ∧
    (writeGroup g value s).ev = s.ev ∧ (writeGroup g value s).rw = s.rw ∧ (writeGroup g value s).store = s.store ∧
    (writeGroup g value s).out = s.out ∧ (writeGroup g value s).free = s.free := by
  simp [writeGroup, ite_pending, ite_ident, ite_sck, ite_arc, ite_pln, ite_fe, ite_hif, ite_ts, ite_key, ite_pke, ite_rnu, ite_tls, ite_ac, ite_tm, ite_lcc, ite_stc, ite_pwr, ite_io, ite_ev, ite_rw, ite_store, ite_out, ite_free]

theorem writeArray_frame (off : Nat) (value : Nat) (s : State) (t : State) (h : writeArray off value s = some t) :
    t.pending = s.pending ∧ t.ident = s.ident ∧ t.sck = s.sck ∧ t.pln = s.pln ∧ t.key = s.key ∧ t.pke = s.pke ∧ t.rnu = s.rnu ∧
    t.tls = s.tls ∧ t.ac = s.ac ∧ t.tm = s.tm ∧ t.lcc = s.lcc ∧ t.stc = s.stc ∧ t.pwr = s.pwr ∧ t.io = s.io ∧
    t.store = s.store ∧ t.free = s.free := by
  unfold writeArray at h
  cases h1 : arrayAt off 0x2200 4 12 with
  | some p => simp [h1] at h; subst h; split <;> simp
  | none =>
  cases h2 : arrayAt off 0x2300 4 12 with
  | some p => simp [h1, h2] at h; subst h; simp
  | none =>
  cases h3 : arrayAt off 0x2340 4 4 with
  | some p => simp [h1, h2, h3] at h; subst h; simp
  | none =>
  cases h4 : arrayAt off 0x4800 4 14 with
  | some p => simp [h1, h2, h3, h4] at h; subst h; simp
  | none =>
  cases h5 : arrayAt off 0x4840 4 48 with
  | some p => simp [h1, h2, h3, h4, h5] at h; subst h; simp
  | none =>
  cases h6 : arrayAt off 0x4A10 4 12 with
  | some p => simp [h1, h2, h3, h4, h5, h6] at h; subst h; split <;> simp
  | none =>
  cases h7 : arrayAt off 0x5410 4 4 with
  | some p => simp [h1, h2, h3, h4, h5, h6, h7] at h; subst h; simp
  | none =>
  cases h8 : arrayAt off 0x6400 4 12 with
  | some p => simp [h1, h2, h3, h4, h5, h6, h7, h8] at h; subst h; simp
  | none => simp [h1, h2, h3, h4, h5, h6, h7, h8] at h

@[simp] theorem writePf_frame (off : Nat) (value : Nat) (i : StartIn) (s : State) :
    (writePf off value i s).pending = s.pending ∧ (writePf off value i s).ident = s.ident := by
  have k : ∀ o, ((writeArray o value s).getD s).pending = s.pending ∧ ((writeArray o value s).getD s).ident = s.ident := by
    intro o
    cases h : writeArray o value s with
    | none => simp
    | some t => simp [writeArray_frame _ _ _ _ h]
  unfold writePf
  split <;> (repeat' split) <;> simp [k]

@[simp] theorem write4_frame (f : Nat) (off : Nat) (value : Nat) (i : StartIn) (s : State) :
    (write4 f off value i s).pending = s.pending ∧ (write4 f off value i s).ident = s.ident := by
  simp [write4, ite_pending, ite_ident]

end Sys2Proof.Machine
end

