-- ==== Sys2Proof/Laws/Exec.lean ====
section
/-! SUPPORT. What the shared frames of the meanings leave unchanged: an operation, a command of the main domain, an access through a
BAR, a walk over the partitions. -/

namespace Sys2Proof.Machine

@[simp] theorem stateOf_next (s t : State) : stateOf s (.next t) = t := rfl

/-- An operation keeps what its completion, its hold and its own effect keep. -/
theorem runOp_keeps {α : Type} (p : State → α) (op : Nat) (q : Call) (space : Nat) (s : State) (k : State → OpOut)
    (hc : ∀ comp t, p (complete q comp t) = p t) (hh : p (holdOp q s) = p s) (hk : p ((k s).after s) = p s) :
    p (runOp op q space s k) = p s := by
  simp only [runOp]
  split
  · rfl
  · split
    · exact hc _ _
    · cases h : k s <;> simp_all [OpOut.after]

/-- A command of the main domain keeps what its effect keeps. -/
theorem onMain_keeps {α : Type} (p : State → α) (s : State) (k : Host.Outcome State Fault Refusal)
    (hk : p (stateOf s k) = p s) : p (stateOf s (onMain s k)) = p s := by
  simp only [onMain]
  split
  · exact hk
  · rfl

/-- An access through a BAR keeps what its effect and an answer keep. -/
theorem viaBar_keeps {α : Type} (p : State → α) (f : Nat) (s : State) (k : Host.Outcome State Fault Refusal)
    (he : ∀ o, p (emit o s) = p s) (hk : p (stateOf s k) = p s) : p (stateOf s (viaBar f s k)) = p s := by
  simp only [viaBar]
  (repeat' split) <;> simp_all

/-- A fold keeps what each of its steps keeps. -/
theorem foldl_keeps {α β : Type} (p : State → α) (g : State → β → State) (h : ∀ s b, p (g s b) = p s) (l : List β) (s : State) :
    p (l.foldl g s) = p s := by
  induction l generalizing s with
  | nil => rfl
  | cons c l ih => simp only [List.foldl_cons, ih, h]

end Sys2Proof.Machine
end

