-- ==== Sys2Proof/Laws/KeepAccess.lean ====
section
/-! SUPPORT. What each meaning of Machine/Access.lean leaves unchanged in every state, once for each command. -/

namespace Sys2Proof.Machine

theorem execInternalAccess_keeps (a : Access) (s : State) :
    (stateOf s (execInternalAccess a s)).pending = s.pending ∧ (stateOf s (execInternalAccess a s)).ident = s.ident ∧
    (stateOf s (execInternalAccess a s)).sck = s.sck ∧ (stateOf s (execInternalAccess a s)).pwr = s.pwr ∧
    (stateOf s (execInternalAccess a s)).rw = s.rw ∧ (stateOf s (execInternalAccess a s)).store = s.store ∧
    (stateOf s (execInternalAccess a s)).writes = s.writes ∧ (stateOf s (execInternalAccess a s)).free = s.free := by
  simp only [execInternalAccess, onMain]
  (repeat' split) <;> simp

theorem execAcUpdateOpen_keeps (mask : Nat) (core : Nat) (epoch : Nat) (s : State) :
    (stateOf s (execAcUpdateOpen mask core epoch s)).pending = s.pending ∧
    (stateOf s (execAcUpdateOpen mask core epoch s)).ident = s.ident ∧
    (stateOf s (execAcUpdateOpen mask core epoch s)).sck = s.sck ∧
    (stateOf s (execAcUpdateOpen mask core epoch s)).arc = s.arc ∧
    (stateOf s (execAcUpdateOpen mask core epoch s)).pln = s.pln ∧ (stateOf s (execAcUpdateOpen mask core epoch s)).fe = s.fe ∧
    (stateOf s (execAcUpdateOpen mask core epoch s)).hif = s.hif ∧
    (stateOf s (execAcUpdateOpen mask core epoch s)).key = s.key ∧
    (stateOf s (execAcUpdateOpen mask core epoch s)).pke = s.pke ∧
    (stateOf s (execAcUpdateOpen mask core epoch s)).rnu = s.rnu ∧
    (stateOf s (execAcUpdateOpen mask core epoch s)).tls = s.tls ∧ (stateOf s (execAcUpdateOpen mask core epoch s)).tm = s.tm ∧
    (stateOf s (execAcUpdateOpen mask core epoch s)).lcc = s.lcc ∧
    (stateOf s (execAcUpdateOpen mask core epoch s)).stc = s.stc ∧
    (stateOf s (execAcUpdateOpen mask core epoch s)).pwr = s.pwr ∧ (stateOf s (execAcUpdateOpen mask core epoch s)).io = s.io ∧
    (stateOf s (execAcUpdateOpen mask core epoch s)).ev = s.ev ∧ (stateOf s (execAcUpdateOpen mask core epoch s)).rw = s.rw ∧
    (stateOf s (execAcUpdateOpen mask core epoch s)).store = s.store ∧
    (stateOf s (execAcUpdateOpen mask core epoch s)).writes = s.writes ∧
    (stateOf s (execAcUpdateOpen mask core epoch s)).out = s.out ∧
    (stateOf s (execAcUpdateOpen mask core epoch s)).free = s.free := by
  simp only [execAcUpdateOpen, onMain]
  (repeat' split) <;> simp

theorem execAcUpdateClose_keeps (writes : List RuleWrite) (s : State) :
    (stateOf s (execAcUpdateClose writes s)).pending = s.pending ∧ (stateOf s (execAcUpdateClose writes s)).ident = s.ident ∧
    (stateOf s (execAcUpdateClose writes s)).sck = s.sck ∧ (stateOf s (execAcUpdateClose writes s)).pwr = s.pwr ∧
    (stateOf s (execAcUpdateClose writes s)).rw = s.rw ∧ (stateOf s (execAcUpdateClose writes s)).store = s.store ∧
    (stateOf s (execAcUpdateClose writes s)).writes = s.writes ∧ (stateOf s (execAcUpdateClose writes s)).free = s.free := by
  simp only [execAcUpdateClose, onMain]
  (repeat' split) <;> simp

theorem execAcUpdateTimeout_keeps (s : State) :
    (stateOf s (execAcUpdateTimeout s)).pending = s.pending ∧ (stateOf s (execAcUpdateTimeout s)).ident = s.ident ∧
    (stateOf s (execAcUpdateTimeout s)).sck = s.sck ∧ (stateOf s (execAcUpdateTimeout s)).pwr = s.pwr ∧
    (stateOf s (execAcUpdateTimeout s)).rw = s.rw ∧ (stateOf s (execAcUpdateTimeout s)).store = s.store ∧
    (stateOf s (execAcUpdateTimeout s)).writes = s.writes ∧ (stateOf s (execAcUpdateTimeout s)).free = s.free := by
  simp only [execAcUpdateTimeout, onMain]
  (repeat' split) <;> simp

theorem execDenyRecordRead_keeps (s : State) :
    (stateOf s (execDenyRecordRead s)).pending = s.pending ∧ (stateOf s (execDenyRecordRead s)).ident = s.ident ∧
    (stateOf s (execDenyRecordRead s)).sck = s.sck ∧ (stateOf s (execDenyRecordRead s)).arc = s.arc ∧
    (stateOf s (execDenyRecordRead s)).pln = s.pln ∧ (stateOf s (execDenyRecordRead s)).fe = s.fe ∧
    (stateOf s (execDenyRecordRead s)).hif = s.hif ∧ (stateOf s (execDenyRecordRead s)).ts = s.ts ∧
    (stateOf s (execDenyRecordRead s)).key = s.key ∧ (stateOf s (execDenyRecordRead s)).pke = s.pke ∧
    (stateOf s (execDenyRecordRead s)).rnu = s.rnu ∧ (stateOf s (execDenyRecordRead s)).tls = s.tls ∧
    (stateOf s (execDenyRecordRead s)).tm = s.tm ∧ (stateOf s (execDenyRecordRead s)).lcc = s.lcc ∧
    (stateOf s (execDenyRecordRead s)).stc = s.stc ∧ (stateOf s (execDenyRecordRead s)).pwr = s.pwr ∧
    (stateOf s (execDenyRecordRead s)).io = s.io ∧ (stateOf s (execDenyRecordRead s)).ev = s.ev ∧
    (stateOf s (execDenyRecordRead s)).rw = s.rw ∧ (stateOf s (execDenyRecordRead s)).store = s.store ∧
    (stateOf s (execDenyRecordRead s)).writes = s.writes ∧ (stateOf s (execDenyRecordRead s)).free = s.free := by
  simp only [execDenyRecordRead, viaBar]
  (repeat' split) <;> simp

end Sys2Proof.Machine
end

