-- ==== Sys2Proof/Laws/KeepArchive.lean ====
section
/-! SUPPORT. What each meaning of Machine/Archive.lean leaves unchanged in every state, once for each command. -/

namespace Sys2Proof.Machine

theorem execRecordAppend_keeps (s : State) :
    (stateOf s (execRecordAppend s)).pending = s.pending ∧ (stateOf s (execRecordAppend s)).ident = s.ident ∧
    (stateOf s (execRecordAppend s)).sck = s.sck ∧ (stateOf s (execRecordAppend s)).ac = s.ac ∧
    (stateOf s (execRecordAppend s)).pwr = s.pwr ∧ (stateOf s (execRecordAppend s)).rw = s.rw ∧
    (stateOf s (execRecordAppend s)).store = s.store ∧ (stateOf s (execRecordAppend s)).writes = s.writes ∧
    (stateOf s (execRecordAppend s)).free = s.free := by
  simp only [execRecordAppend, onMain]
  (repeat' split) <;> simp

theorem execCheckpoint_keeps (s : State) :
    (stateOf s (execCheckpoint s)).pending = s.pending ∧ (stateOf s (execCheckpoint s)).ident = s.ident ∧
    (stateOf s (execCheckpoint s)).ac = s.ac ∧ (stateOf s (execCheckpoint s)).pwr = s.pwr ∧
    (stateOf s (execCheckpoint s)).rw = s.rw ∧ (stateOf s (execCheckpoint s)).store = s.store ∧
    (stateOf s (execCheckpoint s)).writes = s.writes ∧ (stateOf s (execCheckpoint s)).free = s.free := by
  simp only [execCheckpoint, onMain]
  (repeat' split) <;> simp

theorem execSummaryClose_keeps (entry : Nat) (cause : Nat) (s : State) :
    (stateOf s (execSummaryClose entry cause s)).pending = s.pending ∧
    (stateOf s (execSummaryClose entry cause s)).ident = s.ident ∧ (stateOf s (execSummaryClose entry cause s)).sck = s.sck ∧
    (stateOf s (execSummaryClose entry cause s)).pln = s.pln ∧ (stateOf s (execSummaryClose entry cause s)).fe = s.fe ∧
    (stateOf s (execSummaryClose entry cause s)).hif = s.hif ∧ (stateOf s (execSummaryClose entry cause s)).ts = s.ts ∧
    (stateOf s (execSummaryClose entry cause s)).key = s.key ∧ (stateOf s (execSummaryClose entry cause s)).pke = s.pke ∧
    (stateOf s (execSummaryClose entry cause s)).rnu = s.rnu ∧ (stateOf s (execSummaryClose entry cause s)).tls = s.tls ∧
    (stateOf s (execSummaryClose entry cause s)).ac = s.ac ∧ (stateOf s (execSummaryClose entry cause s)).tm = s.tm ∧
    (stateOf s (execSummaryClose entry cause s)).lcc = s.lcc ∧ (stateOf s (execSummaryClose entry cause s)).stc = s.stc ∧
    (stateOf s (execSummaryClose entry cause s)).pwr = s.pwr ∧ (stateOf s (execSummaryClose entry cause s)).io = s.io ∧
    (stateOf s (execSummaryClose entry cause s)).ev = s.ev ∧ (stateOf s (execSummaryClose entry cause s)).rw = s.rw ∧
    (stateOf s (execSummaryClose entry cause s)).store = s.store ∧
    (stateOf s (execSummaryClose entry cause s)).writes = s.writes ∧ (stateOf s (execSummaryClose entry cause s)).out = s.out ∧
    (stateOf s (execSummaryClose entry cause s)).free = s.free := by
  simp only [execSummaryClose, onMain]
  (repeat' split) <;> simp

theorem execWindowOpen_keeps (number : Nat) (s : State) :
    (stateOf s (execWindowOpen number s)).pending = s.pending ∧ (stateOf s (execWindowOpen number s)).ident = s.ident ∧
    (stateOf s (execWindowOpen number s)).sck = s.sck ∧ (stateOf s (execWindowOpen number s)).pln = s.pln ∧
    (stateOf s (execWindowOpen number s)).fe = s.fe ∧ (stateOf s (execWindowOpen number s)).hif = s.hif ∧
    (stateOf s (execWindowOpen number s)).ts = s.ts ∧ (stateOf s (execWindowOpen number s)).key = s.key ∧
    (stateOf s (execWindowOpen number s)).pke = s.pke ∧ (stateOf s (execWindowOpen number s)).rnu = s.rnu ∧
    (stateOf s (execWindowOpen number s)).tls = s.tls ∧ (stateOf s (execWindowOpen number s)).ac = s.ac ∧
    (stateOf s (execWindowOpen number s)).tm = s.tm ∧ (stateOf s (execWindowOpen number s)).lcc = s.lcc ∧
    (stateOf s (execWindowOpen number s)).stc = s.stc ∧ (stateOf s (execWindowOpen number s)).pwr = s.pwr ∧
    (stateOf s (execWindowOpen number s)).io = s.io ∧ (stateOf s (execWindowOpen number s)).ev = s.ev ∧
    (stateOf s (execWindowOpen number s)).rw = s.rw ∧ (stateOf s (execWindowOpen number s)).store = s.store ∧
    (stateOf s (execWindowOpen number s)).writes = s.writes ∧ (stateOf s (execWindowOpen number s)).out = s.out ∧
    (stateOf s (execWindowOpen number s)).free = s.free := by
  simp only [execWindowOpen, onMain]
  (repeat' split) <;> simp

theorem execWindowClose_keeps (number : Nat) (s : State) :
    (stateOf s (execWindowClose number s)).pending = s.pending ∧ (stateOf s (execWindowClose number s)).ident = s.ident ∧
    (stateOf s (execWindowClose number s)).sck = s.sck ∧ (stateOf s (execWindowClose number s)).pln = s.pln ∧
    (stateOf s (execWindowClose number s)).fe = s.fe ∧ (stateOf s (execWindowClose number s)).hif = s.hif ∧
    (stateOf s (execWindowClose number s)).ts = s.ts ∧ (stateOf s (execWindowClose number s)).key = s.key ∧
    (stateOf s (execWindowClose number s)).pke = s.pke ∧ (stateOf s (execWindowClose number s)).rnu = s.rnu ∧
    (stateOf s (execWindowClose number s)).tls = s.tls ∧ (stateOf s (execWindowClose number s)).ac = s.ac ∧
    (stateOf s (execWindowClose number s)).tm = s.tm ∧ (stateOf s (execWindowClose number s)).lcc = s.lcc ∧
    (stateOf s (execWindowClose number s)).stc = s.stc ∧ (stateOf s (execWindowClose number s)).pwr = s.pwr ∧
    (stateOf s (execWindowClose number s)).io = s.io ∧ (stateOf s (execWindowClose number s)).ev = s.ev ∧
    (stateOf s (execWindowClose number s)).rw = s.rw ∧ (stateOf s (execWindowClose number s)).store = s.store ∧
    (stateOf s (execWindowClose number s)).writes = s.writes ∧ (stateOf s (execWindowClose number s)).out = s.out ∧
    (stateOf s (execWindowClose number s)).free = s.free := by
  simp only [execWindowClose, onMain]
  (repeat' split) <;> simp

theorem execBudgetHourRoll_keeps (s : State) :
    (stateOf s (execBudgetHourRoll s)).pending = s.pending ∧ (stateOf s (execBudgetHourRoll s)).ident = s.ident ∧
    (stateOf s (execBudgetHourRoll s)).sck = s.sck ∧ (stateOf s (execBudgetHourRoll s)).pln = s.pln ∧
    (stateOf s (execBudgetHourRoll s)).fe = s.fe ∧ (stateOf s (execBudgetHourRoll s)).hif = s.hif ∧
    (stateOf s (execBudgetHourRoll s)).ts = s.ts ∧ (stateOf s (execBudgetHourRoll s)).key = s.key ∧
    (stateOf s (execBudgetHourRoll s)).pke = s.pke ∧ (stateOf s (execBudgetHourRoll s)).rnu = s.rnu ∧
    (stateOf s (execBudgetHourRoll s)).tls = s.tls ∧ (stateOf s (execBudgetHourRoll s)).ac = s.ac ∧
    (stateOf s (execBudgetHourRoll s)).tm = s.tm ∧ (stateOf s (execBudgetHourRoll s)).lcc = s.lcc ∧
    (stateOf s (execBudgetHourRoll s)).stc = s.stc ∧ (stateOf s (execBudgetHourRoll s)).pwr = s.pwr ∧
    (stateOf s (execBudgetHourRoll s)).io = s.io ∧ (stateOf s (execBudgetHourRoll s)).ev = s.ev ∧
    (stateOf s (execBudgetHourRoll s)).rw = s.rw ∧ (stateOf s (execBudgetHourRoll s)).store = s.store ∧
    (stateOf s (execBudgetHourRoll s)).writes = s.writes ∧ (stateOf s (execBudgetHourRoll s)).out = s.out ∧
    (stateOf s (execBudgetHourRoll s)).free = s.free := by
  simp only [execBudgetHourRoll, onMain]
  (repeat' split) <;> simp

end Sys2Proof.Machine
end

