-- ==== Sys2Proof/Laws/KeepArchiveOps.lean ====
section
/-! SUPPORT. What each meaning of Machine/ArchiveOps.lean leaves unchanged in every state, once for each command. -/

namespace Sys2Proof.Machine

theorem execArchiveRead_keeps (q : Call) (spec : ReadSpec) (s : State) :
    (stateOf s (execArchiveRead q spec s)).pending = s.pending ∧ (stateOf s (execArchiveRead q spec s)).ident = s.ident ∧
    (stateOf s (execArchiveRead q spec s)).sck = s.sck ∧ (stateOf s (execArchiveRead q spec s)).arc = s.arc ∧
    (stateOf s (execArchiveRead q spec s)).pln = s.pln ∧ (stateOf s (execArchiveRead q spec s)).fe = s.fe ∧
    (stateOf s (execArchiveRead q spec s)).key = s.key ∧ (stateOf s (execArchiveRead q spec s)).pke = s.pke ∧
    (stateOf s (execArchiveRead q spec s)).rnu = s.rnu ∧ (stateOf s (execArchiveRead q spec s)).tls = s.tls ∧
    (stateOf s (execArchiveRead q spec s)).ac = s.ac ∧ (stateOf s (execArchiveRead q spec s)).tm = s.tm ∧
    (stateOf s (execArchiveRead q spec s)).lcc = s.lcc ∧ (stateOf s (execArchiveRead q spec s)).stc = s.stc ∧
    (stateOf s (execArchiveRead q spec s)).pwr = s.pwr ∧ (stateOf s (execArchiveRead q spec s)).io = s.io ∧
    (stateOf s (execArchiveRead q spec s)).ev = s.ev ∧ (stateOf s (execArchiveRead q spec s)).rw = s.rw ∧
    (stateOf s (execArchiveRead q spec s)).store = s.store ∧ (stateOf s (execArchiveRead q spec s)).writes = s.writes ∧
    (stateOf s (execArchiveRead q spec s)).free = s.free := by
  simp only [execArchiveRead, stateOf_next]
  have key : ∀ op sp k, (fun t : State => (t.pending, t.ident, t.sck, t.arc, t.pln, t.fe, t.key, t.pke, t.rnu, t.tls, t.ac, t.tm, t.lcc, t.stc, t.pwr, t.io, t.ev, t.rw, t.store, t.writes, t.free)) ((k s : OpOut).after s) = (fun t : State => (t.pending, t.ident, t.sck, t.arc, t.pln, t.fe, t.key, t.pke, t.rnu, t.tls, t.ac, t.tm, t.lcc, t.stc, t.pwr, t.io, t.ev, t.rw, t.store, t.writes, t.free)) s →
      (fun t : State => (t.pending, t.ident, t.sck, t.arc, t.pln, t.fe, t.key, t.pke, t.rnu, t.tls, t.ac, t.tm, t.lcc, t.stc, t.pwr, t.io, t.ev, t.rw, t.store, t.writes, t.free)) (runOp op q sp s k) = (fun t : State => (t.pending, t.ident, t.sck, t.arc, t.pln, t.fe, t.key, t.pke, t.rnu, t.tls, t.ac, t.tm, t.lcc, t.stc, t.pwr, t.io, t.ev, t.rw, t.store, t.writes, t.free)) s := fun op sp k hk =>
    runOp_keeps (fun t : State => (t.pending, t.ident, t.sck, t.arc, t.pln, t.fe, t.key, t.pke, t.rnu, t.tls, t.ac, t.tm, t.lcc, t.stc, t.pwr, t.io, t.ev, t.rw, t.store, t.writes, t.free)) op q sp s k (by intro comp t; simp) (by simp) hk
  simp only [Prod.mk.injEq] at key
  apply key
  (repeat' split) <;> simp

theorem execCaptureWindow_keeps (q : Call) (group : Nat) (start : Nat) (finish : Nat) (s : State) :
    (stateOf s (execCaptureWindow q group start finish s)).pending = s.pending ∧
    (stateOf s (execCaptureWindow q group start finish s)).ident = s.ident ∧
    (stateOf s (execCaptureWindow q group start finish s)).sck = s.sck ∧
    (stateOf s (execCaptureWindow q group start finish s)).pln = s.pln ∧
    (stateOf s (execCaptureWindow q group start finish s)).fe = s.fe ∧
    (stateOf s (execCaptureWindow q group start finish s)).key = s.key ∧
    (stateOf s (execCaptureWindow q group start finish s)).pke = s.pke ∧
    (stateOf s (execCaptureWindow q group start finish s)).rnu = s.rnu ∧
    (stateOf s (execCaptureWindow q group start finish s)).tls = s.tls ∧
    (stateOf s (execCaptureWindow q group start finish s)).ac = s.ac ∧
    (stateOf s (execCaptureWindow q group start finish s)).tm = s.tm ∧
    (stateOf s (execCaptureWindow q group start finish s)).lcc = s.lcc ∧
    (stateOf s (execCaptureWindow q group start finish s)).stc = s.stc ∧
    (stateOf s (execCaptureWindow q group start finish s)).pwr = s.pwr ∧
    (stateOf s (execCaptureWindow q group start finish s)).io = s.io ∧
    (stateOf s (execCaptureWindow q group start finish s)).ev = s.ev ∧
    (stateOf s (execCaptureWindow q group start finish s)).rw = s.rw ∧
    (stateOf s (execCaptureWindow q group start finish s)).store = s.store ∧
    (stateOf s (execCaptureWindow q group start finish s)).writes = s.writes ∧
    (stateOf s (execCaptureWindow q group start finish s)).free = s.free := by
  simp only [execCaptureWindow, stateOf_next]
  have key : ∀ op sp k, (fun t : State => (t.pending, t.ident, t.sck, t.pln, t.fe, t.key, t.pke, t.rnu, t.tls, t.ac, t.tm, t.lcc, t.stc, t.pwr, t.io, t.ev, t.rw, t.store, t.writes, t.free)) ((k s : OpOut).after s) = (fun t : State => (t.pending, t.ident, t.sck, t.pln, t.fe, t.key, t.pke, t.rnu, t.tls, t.ac, t.tm, t.lcc, t.stc, t.pwr, t.io, t.ev, t.rw, t.store, t.writes, t.free)) s →
      (fun t : State => (t.pending, t.ident, t.sck, t.pln, t.fe, t.key, t.pke, t.rnu, t.tls, t.ac, t.tm, t.lcc, t.stc, t.pwr, t.io, t.ev, t.rw, t.store, t.writes, t.free)) (runOp op q sp s k) = (fun t : State => (t.pending, t.ident, t.sck, t.pln, t.fe, t.key, t.pke, t.rnu, t.tls, t.ac, t.tm, t.lcc, t.stc, t.pwr, t.io, t.ev, t.rw, t.store, t.writes, t.free)) s := fun op sp k hk =>
    runOp_keeps (fun t : State => (t.pending, t.ident, t.sck, t.pln, t.fe, t.key, t.pke, t.rnu, t.tls, t.ac, t.tm, t.lcc, t.stc, t.pwr, t.io, t.ev, t.rw, t.store, t.writes, t.free)) op q sp s k (by intro comp t; simp) (by simp) hk
  simp only [Prod.mk.injEq] at key
  apply key
  (repeat' split) <;> simp

theorem execArchiveRelease_keeps (q : Call) (auth : AuthReq) (s : State) :
    (stateOf s (execArchiveRelease q auth s)).pending = s.pending ∧ (stateOf s (execArchiveRelease q auth s)).ident = s.ident ∧
    (stateOf s (execArchiveRelease q auth s)).sck = s.sck ∧ (stateOf s (execArchiveRelease q auth s)).ac = s.ac ∧
    (stateOf s (execArchiveRelease q auth s)).pwr = s.pwr ∧ (stateOf s (execArchiveRelease q auth s)).rw = s.rw ∧
    (stateOf s (execArchiveRelease q auth s)).store = s.store ∧ (stateOf s (execArchiveRelease q auth s)).writes = s.writes ∧
    (stateOf s (execArchiveRelease q auth s)).free = s.free := by
  simp only [execArchiveRelease, stateOf_next]
  have key : ∀ op sp k, (fun t : State => (t.pending, t.ident, t.sck, t.ac, t.pwr, t.rw, t.store, t.writes, t.free)) ((k s : OpOut).after s) = (fun t : State => (t.pending, t.ident, t.sck, t.ac, t.pwr, t.rw, t.store, t.writes, t.free)) s →
      (fun t : State => (t.pending, t.ident, t.sck, t.ac, t.pwr, t.rw, t.store, t.writes, t.free)) (runOp op q sp s k) = (fun t : State => (t.pending, t.ident, t.sck, t.ac, t.pwr, t.rw, t.store, t.writes, t.free)) s := fun op sp k hk =>
    runOp_keeps (fun t : State => (t.pending, t.ident, t.sck, t.ac, t.pwr, t.rw, t.store, t.writes, t.free)) op q sp s k (by intro comp t; simp) (by simp) hk
  simp only [Prod.mk.injEq] at key
  apply key
  simp only [withAuth]
  (repeat' split) <;> simp

theorem execZoneReleaseErase_keeps (s : State) :
    (stateOf s (execZoneReleaseErase s)).pending = s.pending ∧ (stateOf s (execZoneReleaseErase s)).ident = s.ident ∧
    (stateOf s (execZoneReleaseErase s)).sck = s.sck ∧ (stateOf s (execZoneReleaseErase s)).pln = s.pln ∧
    (stateOf s (execZoneReleaseErase s)).ts = s.ts ∧ (stateOf s (execZoneReleaseErase s)).pke = s.pke ∧
    (stateOf s (execZoneReleaseErase s)).tls = s.tls ∧ (stateOf s (execZoneReleaseErase s)).ac = s.ac ∧
    (stateOf s (execZoneReleaseErase s)).lcc = s.lcc ∧ (stateOf s (execZoneReleaseErase s)).stc = s.stc ∧
    (stateOf s (execZoneReleaseErase s)).pwr = s.pwr ∧ (stateOf s (execZoneReleaseErase s)).rw = s.rw ∧
    (stateOf s (execZoneReleaseErase s)).store = s.store ∧ (stateOf s (execZoneReleaseErase s)).writes = s.writes := by
  simp only [execZoneReleaseErase, onMain]
  (repeat' split) <;> simp

theorem execJournalRead_keeps (q : Call) (auth : AuthReq) (s : State) :
    (stateOf s (execJournalRead q auth s)).pending = s.pending ∧ (stateOf s (execJournalRead q auth s)).ident = s.ident ∧
    (stateOf s (execJournalRead q auth s)).sck = s.sck ∧ (stateOf s (execJournalRead q auth s)).pln = s.pln ∧
    (stateOf s (execJournalRead q auth s)).fe = s.fe ∧ (stateOf s (execJournalRead q auth s)).pke = s.pke ∧
    (stateOf s (execJournalRead q auth s)).rnu = s.rnu ∧ (stateOf s (execJournalRead q auth s)).tls = s.tls ∧
    (stateOf s (execJournalRead q auth s)).ac = s.ac ∧ (stateOf s (execJournalRead q auth s)).tm = s.tm ∧
    (stateOf s (execJournalRead q auth s)).lcc = s.lcc ∧ (stateOf s (execJournalRead q auth s)).stc = s.stc ∧
    (stateOf s (execJournalRead q auth s)).pwr = s.pwr ∧ (stateOf s (execJournalRead q auth s)).io = s.io ∧
    (stateOf s (execJournalRead q auth s)).ev = s.ev ∧ (stateOf s (execJournalRead q auth s)).rw = s.rw ∧
    (stateOf s (execJournalRead q auth s)).store = s.store ∧ (stateOf s (execJournalRead q auth s)).writes = s.writes ∧
    (stateOf s (execJournalRead q auth s)).free = s.free := by
  simp only [execJournalRead, stateOf_next]
  have key : ∀ op sp k, (fun t : State => (t.pending, t.ident, t.sck, t.pln, t.fe, t.pke, t.rnu, t.tls, t.ac, t.tm, t.lcc, t.stc, t.pwr, t.io, t.ev, t.rw, t.store, t.writes, t.free)) ((k s : OpOut).after s) = (fun t : State => (t.pending, t.ident, t.sck, t.pln, t.fe, t.pke, t.rnu, t.tls, t.ac, t.tm, t.lcc, t.stc, t.pwr, t.io, t.ev, t.rw, t.store, t.writes, t.free)) s →
      (fun t : State => (t.pending, t.ident, t.sck, t.pln, t.fe, t.pke, t.rnu, t.tls, t.ac, t.tm, t.lcc, t.stc, t.pwr, t.io, t.ev, t.rw, t.store, t.writes, t.free)) (runOp op q sp s k) = (fun t : State => (t.pending, t.ident, t.sck, t.pln, t.fe, t.pke, t.rnu, t.tls, t.ac, t.tm, t.lcc, t.stc, t.pwr, t.io, t.ev, t.rw, t.store, t.writes, t.free)) s := fun op sp k hk =>
    runOp_keeps (fun t : State => (t.pending, t.ident, t.sck, t.pln, t.fe, t.pke, t.rnu, t.tls, t.ac, t.tm, t.lcc, t.stc, t.pwr, t.io, t.ev, t.rw, t.store, t.writes, t.free)) op q sp s k (by intro comp t; simp) (by simp) hk
  simp only [Prod.mk.injEq] at key
  apply key
  simp only [withAuth]
  (repeat' split) <;> simp

theorem execTimeStep_keeps (q : Call) (auth : AuthReq) (s : State) :
    (stateOf s (execTimeStep q auth s)).pending = s.pending ∧ (stateOf s (execTimeStep q auth s)).ident = s.ident ∧
    (stateOf s (execTimeStep q auth s)).pln = s.pln ∧ (stateOf s (execTimeStep q auth s)).fe = s.fe ∧
    (stateOf s (execTimeStep q auth s)).pke = s.pke ∧ (stateOf s (execTimeStep q auth s)).rnu = s.rnu ∧
    (stateOf s (execTimeStep q auth s)).tls = s.tls ∧ (stateOf s (execTimeStep q auth s)).ac = s.ac ∧
    (stateOf s (execTimeStep q auth s)).tm = s.tm ∧ (stateOf s (execTimeStep q auth s)).lcc = s.lcc ∧
    (stateOf s (execTimeStep q auth s)).stc = s.stc ∧ (stateOf s (execTimeStep q auth s)).pwr = s.pwr ∧
    (stateOf s (execTimeStep q auth s)).io = s.io ∧ (stateOf s (execTimeStep q auth s)).ev = s.ev ∧
    (stateOf s (execTimeStep q auth s)).rw = s.rw ∧ (stateOf s (execTimeStep q auth s)).store = s.store ∧
    (stateOf s (execTimeStep q auth s)).writes = s.writes ∧ (stateOf s (execTimeStep q auth s)).free = s.free := by
  simp only [execTimeStep, stateOf_next]
  have key : ∀ op sp k, (fun t : State => (t.pending, t.ident, t.pln, t.fe, t.pke, t.rnu, t.tls, t.ac, t.tm, t.lcc, t.stc, t.pwr, t.io, t.ev, t.rw, t.store, t.writes, t.free)) ((k s : OpOut).after s) = (fun t : State => (t.pending, t.ident, t.pln, t.fe, t.pke, t.rnu, t.tls, t.ac, t.tm, t.lcc, t.stc, t.pwr, t.io, t.ev, t.rw, t.store, t.writes, t.free)) s →
      (fun t : State => (t.pending, t.ident, t.pln, t.fe, t.pke, t.rnu, t.tls, t.ac, t.tm, t.lcc, t.stc, t.pwr, t.io, t.ev, t.rw, t.store, t.writes, t.free)) (runOp op q sp s k) = (fun t : State => (t.pending, t.ident, t.pln, t.fe, t.pke, t.rnu, t.tls, t.ac, t.tm, t.lcc, t.stc, t.pwr, t.io, t.ev, t.rw, t.store, t.writes, t.free)) s := fun op sp k hk =>
    runOp_keeps (fun t : State => (t.pending, t.ident, t.pln, t.fe, t.pke, t.rnu, t.tls, t.ac, t.tm, t.lcc, t.stc, t.pwr, t.io, t.ev, t.rw, t.store, t.writes, t.free)) op q sp s k (by intro comp t; simp) (by simp) hk
  simp only [Prod.mk.injEq] at key
  apply key
  simp only [withAuth]
  (repeat' split) <;> simp

end Sys2Proof.Machine
end

