-- ==== Sys2Proof/Laws/KeepCopies.lean ====
section
/-! SUPPORT. What each meaning of Machine/Copies.lean leaves unchanged in every state, once for each command. -/

namespace Sys2Proof.Machine

theorem execCopyDiscardTimeout_keeps (copy : Nat) (s : State) :
    (stateOf s (execCopyDiscardTimeout copy s)).pending = s.pending ∧
    (stateOf s (execCopyDiscardTimeout copy s)).ident = s.ident ∧ (stateOf s (execCopyDiscardTimeout copy s)).sck = s.sck ∧
    (stateOf s (execCopyDiscardTimeout copy s)).pln = s.pln ∧ (stateOf s (execCopyDiscardTimeout copy s)).key = s.key ∧
    (stateOf s (execCopyDiscardTimeout copy s)).pke = s.pke ∧ (stateOf s (execCopyDiscardTimeout copy s)).rnu = s.rnu ∧
    (stateOf s (execCopyDiscardTimeout copy s)).tls = s.tls ∧ (stateOf s (execCopyDiscardTimeout copy s)).ac = s.ac ∧
    (stateOf s (execCopyDiscardTimeout copy s)).tm = s.tm ∧ (stateOf s (execCopyDiscardTimeout copy s)).lcc = s.lcc ∧
    (stateOf s (execCopyDiscardTimeout copy s)).stc = s.stc ∧ (stateOf s (execCopyDiscardTimeout copy s)).pwr = s.pwr ∧
    (stateOf s (execCopyDiscardTimeout copy s)).io = s.io ∧ (stateOf s (execCopyDiscardTimeout copy s)).rw = s.rw ∧
    (stateOf s (execCopyDiscardTimeout copy s)).store = s.store ∧
    (stateOf s (execCopyDiscardTimeout copy s)).writes = s.writes ∧ (stateOf s (execCopyDiscardTimeout copy s)).free = s.free := by
  simp only [execCopyDiscardTimeout, onMain]
  (repeat' split) <;> simp

theorem execCopyTransmitStart_keeps (port : Nat) (stamp : Nat) (s : State) :
    (stateOf s (execCopyTransmitStart port stamp s)).pending = s.pending ∧
    (stateOf s (execCopyTransmitStart port stamp s)).ident = s.ident ∧
    (stateOf s (execCopyTransmitStart port stamp s)).sck = s.sck ∧
    (stateOf s (execCopyTransmitStart port stamp s)).pln = s.pln ∧
    (stateOf s (execCopyTransmitStart port stamp s)).key = s.key ∧
    (stateOf s (execCopyTransmitStart port stamp s)).pke = s.pke ∧
    (stateOf s (execCopyTransmitStart port stamp s)).rnu = s.rnu ∧
    (stateOf s (execCopyTransmitStart port stamp s)).tls = s.tls ∧ (stateOf s (execCopyTransmitStart port stamp s)).ac = s.ac ∧
    (stateOf s (execCopyTransmitStart port stamp s)).tm = s.tm ∧ (stateOf s (execCopyTransmitStart port stamp s)).lcc = s.lcc ∧
    (stateOf s (execCopyTransmitStart port stamp s)).stc = s.stc ∧
    (stateOf s (execCopyTransmitStart port stamp s)).pwr = s.pwr ∧ (stateOf s (execCopyTransmitStart port stamp s)).io = s.io ∧
    (stateOf s (execCopyTransmitStart port stamp s)).rw = s.rw ∧
    (stateOf s (execCopyTransmitStart port stamp s)).store = s.store ∧
    (stateOf s (execCopyTransmitStart port stamp s)).writes = s.writes ∧
    (stateOf s (execCopyTransmitStart port stamp s)).free = s.free := by
  simp only [execCopyTransmitStart, onMain]
  (repeat' split) <;> simp

end Sys2Proof.Machine
end

