-- ==== Sys2Proof/Laws/KeepFrame.lean ====
section
/-! SUPPORT. What each meaning of Machine/Frame.lean leaves unchanged in every state, once for each command. -/

namespace Sys2Proof.Machine

theorem execPadRefill_keeps (entry : Nat) (s : State) :
    (stateOf s (execPadRefill entry s)).pending = s.pending ∧ (stateOf s (execPadRefill entry s)).ident = s.ident ∧
    (stateOf s (execPadRefill entry s)).sck = s.sck ∧ (stateOf s (execPadRefill entry s)).arc = s.arc ∧
    (stateOf s (execPadRefill entry s)).pln = s.pln ∧ (stateOf s (execPadRefill entry s)).hif = s.hif ∧
    (stateOf s (execPadRefill entry s)).ts = s.ts ∧ (stateOf s (execPadRefill entry s)).key = s.key ∧
    (stateOf s (execPadRefill entry s)).pke = s.pke ∧ (stateOf s (execPadRefill entry s)).rnu = s.rnu ∧
    (stateOf s (execPadRefill entry s)).tls = s.tls ∧ (stateOf s (execPadRefill entry s)).ac = s.ac ∧
    (stateOf s (execPadRefill entry s)).tm = s.tm ∧ (stateOf s (execPadRefill entry s)).lcc = s.lcc ∧
    (stateOf s (execPadRefill entry s)).stc = s.stc ∧ (stateOf s (execPadRefill entry s)).pwr = s.pwr ∧
    (stateOf s (execPadRefill entry s)).io = s.io ∧ (stateOf s (execPadRefill entry s)).ev = s.ev ∧
    (stateOf s (execPadRefill entry s)).rw = s.rw ∧ (stateOf s (execPadRefill entry s)).store = s.store ∧
    (stateOf s (execPadRefill entry s)).writes = s.writes ∧ (stateOf s (execPadRefill entry s)).out = s.out ∧
    (stateOf s (execPadRefill entry s)).free = s.free := by
  simp only [execPadRefill, onMain]
  (repeat' split) <;> simp

theorem execDualKeyPadWindow_keeps (entry : Nat) (s : State) :
    (stateOf s (execDualKeyPadWindow entry s)).pending = s.pending ∧
    (stateOf s (execDualKeyPadWindow entry s)).ident = s.ident ∧ (stateOf s (execDualKeyPadWindow entry s)).sck = s.sck ∧
    (stateOf s (execDualKeyPadWindow entry s)).arc = s.arc ∧ (stateOf s (execDualKeyPadWindow entry s)).pln = s.pln ∧
    (stateOf s (execDualKeyPadWindow entry s)).hif = s.hif ∧ (stateOf s (execDualKeyPadWindow entry s)).ts = s.ts ∧
    (stateOf s (execDualKeyPadWindow entry s)).key = s.key ∧ (stateOf s (execDualKeyPadWindow entry s)).pke = s.pke ∧
    (stateOf s (execDualKeyPadWindow entry s)).rnu = s.rnu ∧ (stateOf s (execDualKeyPadWindow entry s)).tls = s.tls ∧
    (stateOf s (execDualKeyPadWindow entry s)).ac = s.ac ∧ (stateOf s (execDualKeyPadWindow entry s)).tm = s.tm ∧
    (stateOf s (execDualKeyPadWindow entry s)).lcc = s.lcc ∧ (stateOf s (execDualKeyPadWindow entry s)).stc = s.stc ∧
    (stateOf s (execDualKeyPadWindow entry s)).pwr = s.pwr ∧ (stateOf s (execDualKeyPadWindow entry s)).io = s.io ∧
    (stateOf s (execDualKeyPadWindow entry s)).ev = s.ev ∧ (stateOf s (execDualKeyPadWindow entry s)).rw = s.rw ∧
    (stateOf s (execDualKeyPadWindow entry s)).store = s.store ∧ (stateOf s (execDualKeyPadWindow entry s)).writes = s.writes ∧
    (stateOf s (execDualKeyPadWindow entry s)).out = s.out ∧ (stateOf s (execDualKeyPadWindow entry s)).free = s.free := by
  simp only [execDualKeyPadWindow, onMain]
  (repeat' split) <;> simp

theorem execDualKeyPadWindowEnd_keeps (entry : Nat) (s : State) :
    (stateOf s (execDualKeyPadWindowEnd entry s)).pending = s.pending ∧
    (stateOf s (execDualKeyPadWindowEnd entry s)).ident = s.ident ∧ (stateOf s (execDualKeyPadWindowEnd entry s)).sck = s.sck ∧
    (stateOf s (execDualKeyPadWindowEnd entry s)).arc = s.arc ∧ (stateOf s (execDualKeyPadWindowEnd entry s)).pln = s.pln ∧
    (stateOf s (execDualKeyPadWindowEnd entry s)).hif = s.hif ∧ (stateOf s (execDualKeyPadWindowEnd entry s)).ts = s.ts ∧
    (stateOf s (execDualKeyPadWindowEnd entry s)).key = s.key ∧ (stateOf s (execDualKeyPadWindowEnd entry s)).pke = s.pke ∧
    (stateOf s (execDualKeyPadWindowEnd entry s)).rnu = s.rnu ∧ (stateOf s (execDualKeyPadWindowEnd entry s)).tls = s.tls ∧
    (stateOf s (execDualKeyPadWindowEnd entry s)).ac = s.ac ∧ (stateOf s (execDualKeyPadWindowEnd entry s)).tm = s.tm ∧
    (stateOf s (execDualKeyPadWindowEnd entry s)).lcc = s.lcc ∧ (stateOf s (execDualKeyPadWindowEnd entry s)).stc = s.stc ∧
    (stateOf s (execDualKeyPadWindowEnd entry s)).pwr = s.pwr ∧ (stateOf s (execDualKeyPadWindowEnd entry s)).io = s.io ∧
    (stateOf s (execDualKeyPadWindowEnd entry s)).ev = s.ev ∧ (stateOf s (execDualKeyPadWindowEnd entry s)).rw = s.rw ∧
    (stateOf s (execDualKeyPadWindowEnd entry s)).store = s.store ∧
    (stateOf s (execDualKeyPadWindowEnd entry s)).writes = s.writes ∧
    (stateOf s (execDualKeyPadWindowEnd entry s)).out = s.out ∧ (stateOf s (execDualKeyPadWindowEnd entry s)).free = s.free := by
  simp only [execDualKeyPadWindowEnd, onMain]
  (repeat' split) <;> simp

theorem execAcceptIntervalOpen_keeps (entry : Nat) (s : State) :
    (stateOf s (execAcceptIntervalOpen entry s)).pending = s.pending ∧
    (stateOf s (execAcceptIntervalOpen entry s)).ident = s.ident ∧ (stateOf s (execAcceptIntervalOpen entry s)).sck = s.sck ∧
    (stateOf s (execAcceptIntervalOpen entry s)).arc = s.arc ∧ (stateOf s (execAcceptIntervalOpen entry s)).pln = s.pln ∧
    (stateOf s (execAcceptIntervalOpen entry s)).hif = s.hif ∧ (stateOf s (execAcceptIntervalOpen entry s)).ts = s.ts ∧
    (stateOf s (execAcceptIntervalOpen entry s)).key = s.key ∧ (stateOf s (execAcceptIntervalOpen entry s)).pke = s.pke ∧
    (stateOf s (execAcceptIntervalOpen entry s)).rnu = s.rnu ∧ (stateOf s (execAcceptIntervalOpen entry s)).tls = s.tls ∧
    (stateOf s (execAcceptIntervalOpen entry s)).ac = s.ac ∧ (stateOf s (execAcceptIntervalOpen entry s)).tm = s.tm ∧
    (stateOf s (execAcceptIntervalOpen entry s)).lcc = s.lcc ∧ (stateOf s (execAcceptIntervalOpen entry s)).stc = s.stc ∧
    (stateOf s (execAcceptIntervalOpen entry s)).pwr = s.pwr ∧ (stateOf s (execAcceptIntervalOpen entry s)).io = s.io ∧
    (stateOf s (execAcceptIntervalOpen entry s)).ev = s.ev ∧ (stateOf s (execAcceptIntervalOpen entry s)).rw = s.rw ∧
    (stateOf s (execAcceptIntervalOpen entry s)).store = s.store ∧
    (stateOf s (execAcceptIntervalOpen entry s)).writes = s.writes ∧ (stateOf s (execAcceptIntervalOpen entry s)).out = s.out ∧
    (stateOf s (execAcceptIntervalOpen entry s)).free = s.free := by
  simp only [execAcceptIntervalOpen, onMain]
  (repeat' split) <;> simp

theorem execAcceptIntervalClose_keeps (entry : Nat) (s : State) :
    (stateOf s (execAcceptIntervalClose entry s)).pending = s.pending ∧
    (stateOf s (execAcceptIntervalClose entry s)).ident = s.ident ∧ (stateOf s (execAcceptIntervalClose entry s)).sck = s.sck ∧
    (stateOf s (execAcceptIntervalClose entry s)).arc = s.arc ∧ (stateOf s (execAcceptIntervalClose entry s)).pln = s.pln ∧
    (stateOf s (execAcceptIntervalClose entry s)).hif = s.hif ∧ (stateOf s (execAcceptIntervalClose entry s)).ts = s.ts ∧
    (stateOf s (execAcceptIntervalClose entry s)).key = s.key ∧ (stateOf s (execAcceptIntervalClose entry s)).pke = s.pke ∧
    (stateOf s (execAcceptIntervalClose entry s)).rnu = s.rnu ∧ (stateOf s (execAcceptIntervalClose entry s)).tls = s.tls ∧
    (stateOf s (execAcceptIntervalClose entry s)).ac = s.ac ∧ (stateOf s (execAcceptIntervalClose entry s)).tm = s.tm ∧
    (stateOf s (execAcceptIntervalClose entry s)).lcc = s.lcc ∧ (stateOf s (execAcceptIntervalClose entry s)).stc = s.stc ∧
    (stateOf s (execAcceptIntervalClose entry s)).pwr = s.pwr ∧ (stateOf s (execAcceptIntervalClose entry s)).io = s.io ∧
    (stateOf s (execAcceptIntervalClose entry s)).ev = s.ev ∧ (stateOf s (execAcceptIntervalClose entry s)).rw = s.rw ∧
    (stateOf s (execAcceptIntervalClose entry s)).store = s.store ∧
    (stateOf s (execAcceptIntervalClose entry s)).writes = s.writes ∧
    (stateOf s (execAcceptIntervalClose entry s)).out = s.out ∧ (stateOf s (execAcceptIntervalClose entry s)).free = s.free := by
  simp only [execAcceptIntervalClose, onMain]
  (repeat' split) <;> simp

end Sys2Proof.Machine
end

