-- ==== Sys2Proof/Laws/KeepIntegrity.lean ====
section
/-! SUPPORT. What each meaning of Machine/Integrity.lean leaves unchanged in every state, once for each command. -/

namespace Sys2Proof.Machine

theorem execMemoryError_keeps (w : WordRead) (s : State) :
    (stateOf s (execMemoryError w s)).pending = s.pending ∧ (stateOf s (execMemoryError w s)).ident = s.ident ∧
    (stateOf s (execMemoryError w s)).sck = s.sck ∧ (stateOf s (execMemoryError w s)).pwr = s.pwr ∧
    (stateOf s (execMemoryError w s)).rw = s.rw ∧ (stateOf s (execMemoryError w s)).store = s.store ∧
    (stateOf s (execMemoryError w s)).writes = s.writes := by
  simp only [execMemoryError, onMain]
  (repeat' split) <;> simp

theorem execScrubRead_keeps (w : WordRead) (last : Bool) (s : State) :
    (stateOf s (execScrubRead w last s)).pending = s.pending ∧ (stateOf s (execScrubRead w last s)).ident = s.ident ∧
    (stateOf s (execScrubRead w last s)).sck = s.sck ∧ (stateOf s (execScrubRead w last s)).pwr = s.pwr ∧
    (stateOf s (execScrubRead w last s)).rw = s.rw ∧ (stateOf s (execScrubRead w last s)).store = s.store ∧
    (stateOf s (execScrubRead w last s)).writes = s.writes := by
  simp only [execScrubRead, onMain]
  (repeat' split) <;> simp

theorem execBusIntegrityError_keeps (x : Access) (e : Option MemErr) (again : Bool) (s : State) :
    (stateOf s (execBusIntegrityError x e again s)).pending = s.pending ∧
    (stateOf s (execBusIntegrityError x e again s)).ident = s.ident ∧
    (stateOf s (execBusIntegrityError x e again s)).sck = s.sck ∧ (stateOf s (execBusIntegrityError x e again s)).pwr = s.pwr ∧
    (stateOf s (execBusIntegrityError x e again s)).rw = s.rw ∧
    (stateOf s (execBusIntegrityError x e again s)).store = s.store ∧
    (stateOf s (execBusIntegrityError x e again s)).writes = s.writes := by
  simp only [execBusIntegrityError, onMain]
  (repeat' split) <;> simp

end Sys2Proof.Machine
end

