-- ==== Sys2Proof/Laws/KeepIo.lean ====
section
/-! SUPPORT. What each meaning of Machine/Io.lean leaves unchanged in every state, once for each command. -/

namespace Sys2Proof.Machine

theorem execSmbusIdentity_keeps (address : Nat) (s : State) :
    (stateOf s (execSmbusIdentity address s)).pending = s.pending ∧ (stateOf s (execSmbusIdentity address s)).ident = s.ident ∧
    (stateOf s (execSmbusIdentity address s)).sck = s.sck ∧ (stateOf s (execSmbusIdentity address s)).arc = s.arc ∧
    (stateOf s (execSmbusIdentity address s)).pln = s.pln ∧ (stateOf s (execSmbusIdentity address s)).fe = s.fe ∧
    (stateOf s (execSmbusIdentity address s)).hif = s.hif ∧ (stateOf s (execSmbusIdentity address s)).ts = s.ts ∧
    (stateOf s (execSmbusIdentity address s)).key = s.key ∧ (stateOf s (execSmbusIdentity address s)).pke = s.pke ∧
    (stateOf s (execSmbusIdentity address s)).rnu = s.rnu ∧ (stateOf s (execSmbusIdentity address s)).tls = s.tls ∧
    (stateOf s (execSmbusIdentity address s)).ac = s.ac ∧ (stateOf s (execSmbusIdentity address s)).tm = s.tm ∧
    (stateOf s (execSmbusIdentity address s)).lcc = s.lcc ∧ (stateOf s (execSmbusIdentity address s)).stc = s.stc ∧
    (stateOf s (execSmbusIdentity address s)).pwr = s.pwr ∧ (stateOf s (execSmbusIdentity address s)).io = s.io ∧
    (stateOf s (execSmbusIdentity address s)).ev = s.ev ∧ (stateOf s (execSmbusIdentity address s)).rw = s.rw ∧
    (stateOf s (execSmbusIdentity address s)).store = s.store ∧ (stateOf s (execSmbusIdentity address s)).writes = s.writes ∧
    (stateOf s (execSmbusIdentity address s)).free = s.free := by
  simp only [execSmbusIdentity]
  (repeat' split) <;> simp

theorem execSmbusEnvironment_keeps (address : Nat) (s : State) :
    (stateOf s (execSmbusEnvironment address s)).pending = s.pending ∧
    (stateOf s (execSmbusEnvironment address s)).ident = s.ident ∧ (stateOf s (execSmbusEnvironment address s)).sck = s.sck ∧
    (stateOf s (execSmbusEnvironment address s)).arc = s.arc ∧ (stateOf s (execSmbusEnvironment address s)).pln = s.pln ∧
    (stateOf s (execSmbusEnvironment address s)).fe = s.fe ∧ (stateOf s (execSmbusEnvironment address s)).hif = s.hif ∧
    (stateOf s (execSmbusEnvironment address s)).ts = s.ts ∧ (stateOf s (execSmbusEnvironment address s)).key = s.key ∧
    (stateOf s (execSmbusEnvironment address s)).pke = s.pke ∧ (stateOf s (execSmbusEnvironment address s)).rnu = s.rnu ∧
    (stateOf s (execSmbusEnvironment address s)).tls = s.tls ∧ (stateOf s (execSmbusEnvironment address s)).ac = s.ac ∧
    (stateOf s (execSmbusEnvironment address s)).tm = s.tm ∧ (stateOf s (execSmbusEnvironment address s)).lcc = s.lcc ∧
    (stateOf s (execSmbusEnvironment address s)).stc = s.stc ∧ (stateOf s (execSmbusEnvironment address s)).pwr = s.pwr ∧
    (stateOf s (execSmbusEnvironment address s)).io = s.io ∧ (stateOf s (execSmbusEnvironment address s)).ev = s.ev ∧
    (stateOf s (execSmbusEnvironment address s)).rw = s.rw ∧ (stateOf s (execSmbusEnvironment address s)).store = s.store ∧
    (stateOf s (execSmbusEnvironment address s)).writes = s.writes := by
  simp only [execSmbusEnvironment]
  (repeat' split) <;> simp

theorem execSmbusStatus_keeps (address : Nat) (s : State) :
    (stateOf s (execSmbusStatus address s)).pending = s.pending ∧ (stateOf s (execSmbusStatus address s)).ident = s.ident ∧
    (stateOf s (execSmbusStatus address s)).sck = s.sck ∧ (stateOf s (execSmbusStatus address s)).arc = s.arc ∧
    (stateOf s (execSmbusStatus address s)).pln = s.pln ∧ (stateOf s (execSmbusStatus address s)).fe = s.fe ∧
    (stateOf s (execSmbusStatus address s)).hif = s.hif ∧ (stateOf s (execSmbusStatus address s)).ts = s.ts ∧
    (stateOf s (execSmbusStatus address s)).key = s.key ∧ (stateOf s (execSmbusStatus address s)).pke = s.pke ∧
    (stateOf s (execSmbusStatus address s)).rnu = s.rnu ∧ (stateOf s (execSmbusStatus address s)).tls = s.tls ∧
    (stateOf s (execSmbusStatus address s)).ac = s.ac ∧ (stateOf s (execSmbusStatus address s)).tm = s.tm ∧
    (stateOf s (execSmbusStatus address s)).lcc = s.lcc ∧ (stateOf s (execSmbusStatus address s)).stc = s.stc ∧
    (stateOf s (execSmbusStatus address s)).pwr = s.pwr ∧ (stateOf s (execSmbusStatus address s)).io = s.io ∧
    (stateOf s (execSmbusStatus address s)).ev = s.ev ∧ (stateOf s (execSmbusStatus address s)).rw = s.rw ∧
    (stateOf s (execSmbusStatus address s)).store = s.store ∧ (stateOf s (execSmbusStatus address s)).writes = s.writes ∧
    (stateOf s (execSmbusStatus address s)).free = s.free := by
  simp only [execSmbusStatus]
  (repeat' split) <;> simp

theorem execSmbusAlertResponse_keeps (s : State) :
    (stateOf s (execSmbusAlertResponse s)).pending = s.pending ∧ (stateOf s (execSmbusAlertResponse s)).ident = s.ident ∧
    (stateOf s (execSmbusAlertResponse s)).sck = s.sck ∧ (stateOf s (execSmbusAlertResponse s)).arc = s.arc ∧
    (stateOf s (execSmbusAlertResponse s)).pln = s.pln ∧ (stateOf s (execSmbusAlertResponse s)).fe = s.fe ∧
    (stateOf s (execSmbusAlertResponse s)).hif = s.hif ∧ (stateOf s (execSmbusAlertResponse s)).ts = s.ts ∧
    (stateOf s (execSmbusAlertResponse s)).key = s.key ∧ (stateOf s (execSmbusAlertResponse s)).pke = s.pke ∧
    (stateOf s (execSmbusAlertResponse s)).rnu = s.rnu ∧ (stateOf s (execSmbusAlertResponse s)).tls = s.tls ∧
    (stateOf s (execSmbusAlertResponse s)).ac = s.ac ∧ (stateOf s (execSmbusAlertResponse s)).tm = s.tm ∧
    (stateOf s (execSmbusAlertResponse s)).lcc = s.lcc ∧ (stateOf s (execSmbusAlertResponse s)).stc = s.stc ∧
    (stateOf s (execSmbusAlertResponse s)).pwr = s.pwr ∧ (stateOf s (execSmbusAlertResponse s)).ev = s.ev ∧
    (stateOf s (execSmbusAlertResponse s)).rw = s.rw ∧ (stateOf s (execSmbusAlertResponse s)).store = s.store ∧
    (stateOf s (execSmbusAlertResponse s)).writes = s.writes ∧ (stateOf s (execSmbusAlertResponse s)).free = s.free := by
  simp only [execSmbusAlertResponse]
  (repeat' split) <;> simp

end Sys2Proof.Machine
end

