-- ==== Sys2Proof/Laws/KeepKeyOps.lean ====
section
/-! SUPPORT. What each meaning of Machine/KeyOps.lean leaves unchanged in every state, once for each command. -/

namespace Sys2Proof.Machine

theorem execKeyLoad_keeps (q : Call) (vault : Bool) (x : Blob) (s : State) :
    (stateOf s (execKeyLoad q vault x s)).pending = s.pending ∧ (stateOf s (execKeyLoad q vault x s)).ident = s.ident ∧
    (stateOf s (execKeyLoad q vault x s)).sck = s.sck ∧ (stateOf s (execKeyLoad q vault x s)).pke = s.pke ∧
    (stateOf s (execKeyLoad q vault x s)).tls = s.tls ∧ (stateOf s (execKeyLoad q vault x s)).ac = s.ac ∧
    (stateOf s (execKeyLoad q vault x s)).tm = s.tm ∧ (stateOf s (execKeyLoad q vault x s)).lcc = s.lcc ∧
    (stateOf s (execKeyLoad q vault x s)).stc = s.stc ∧ (stateOf s (execKeyLoad q vault x s)).pwr = s.pwr ∧
    (stateOf s (execKeyLoad q vault x s)).io = s.io ∧ (stateOf s (execKeyLoad q vault x s)).rw = s.rw ∧
    (stateOf s (execKeyLoad q vault x s)).store = s.store ∧ (stateOf s (execKeyLoad q vault x s)).writes = s.writes := by
  simp only [execKeyLoad, stateOf_next]
  have key : ∀ op sp k, (fun t : State => (t.pending, t.ident, t.sck, t.pke, t.tls, t.ac, t.tm, t.lcc, t.stc, t.pwr, t.io, t.rw, t.store, t.writes)) ((k s : OpOut).after s) = (fun t : State => (t.pending, t.ident, t.sck, t.pke, t.tls, t.ac, t.tm, t.lcc, t.stc, t.pwr, t.io, t.rw, t.store, t.writes)) s →
      (fun t : State => (t.pending, t.ident, t.sck, t.pke, t.tls, t.ac, t.tm, t.lcc, t.stc, t.pwr, t.io, t.rw, t.store, t.writes)) (runOp op q sp s k) = (fun t : State => (t.pending, t.ident, t.sck, t.pke, t.tls, t.ac, t.tm, t.lcc, t.stc, t.pwr, t.io, t.rw, t.store, t.writes)) s := fun op sp k hk =>
    runOp_keeps (fun t : State => (t.pending, t.ident, t.sck, t.pke, t.tls, t.ac, t.tm, t.lcc, t.stc, t.pwr, t.io, t.rw, t.store, t.writes)) op q sp s k (by intro comp t; simp) (by simp) hk
  simp only [Prod.mk.injEq] at key
  apply key
  simp only [loadDraw, withDraw]
  (repeat' split) <;> simp

theorem execKeyUnload_keeps (q : Call) (handle : Nat) (s : State) :
    (stateOf s (execKeyUnload q handle s)).pending = s.pending ∧ (stateOf s (execKeyUnload q handle s)).ident = s.ident ∧
    (stateOf s (execKeyUnload q handle s)).sck = s.sck ∧ (stateOf s (execKeyUnload q handle s)).arc = s.arc ∧
    (stateOf s (execKeyUnload q handle s)).pln = s.pln ∧ (stateOf s (execKeyUnload q handle s)).fe = s.fe ∧
    (stateOf s (execKeyUnload q handle s)).pke = s.pke ∧ (stateOf s (execKeyUnload q handle s)).rnu = s.rnu ∧
    (stateOf s (execKeyUnload q handle s)).tls = s.tls ∧ (stateOf s (execKeyUnload q handle s)).ac = s.ac ∧
    (stateOf s (execKeyUnload q handle s)).tm = s.tm ∧ (stateOf s (execKeyUnload q handle s)).lcc = s.lcc ∧
    (stateOf s (execKeyUnload q handle s)).stc = s.stc ∧ (stateOf s (execKeyUnload q handle s)).pwr = s.pwr ∧
    (stateOf s (execKeyUnload q handle s)).io = s.io ∧ (stateOf s (execKeyUnload q handle s)).rw = s.rw ∧
    (stateOf s (execKeyUnload q handle s)).store = s.store ∧ (stateOf s (execKeyUnload q handle s)).writes = s.writes ∧
    (stateOf s (execKeyUnload q handle s)).free = s.free := by
  simp only [execKeyUnload, stateOf_next]
  have key : ∀ op sp k, (fun t : State => (t.pending, t.ident, t.sck, t.arc, t.pln, t.fe, t.pke, t.rnu, t.tls, t.ac, t.tm, t.lcc, t.stc, t.pwr, t.io, t.rw, t.store, t.writes, t.free)) ((k s : OpOut).after s) = (fun t : State => (t.pending, t.ident, t.sck, t.arc, t.pln, t.fe, t.pke, t.rnu, t.tls, t.ac, t.tm, t.lcc, t.stc, t.pwr, t.io, t.rw, t.store, t.writes, t.free)) s →
      (fun t : State => (t.pending, t.ident, t.sck, t.arc, t.pln, t.fe, t.pke, t.rnu, t.tls, t.ac, t.tm, t.lcc, t.stc, t.pwr, t.io, t.rw, t.store, t.writes, t.free)) (runOp op q sp s k) = (fun t : State => (t.pending, t.ident, t.sck, t.arc, t.pln, t.fe, t.pke, t.rnu, t.tls, t.ac, t.tm, t.lcc, t.stc, t.pwr, t.io, t.rw, t.store, t.writes, t.free)) s := fun op sp k hk =>
    runOp_keeps (fun t : State => (t.pending, t.ident, t.sck, t.arc, t.pln, t.fe, t.pke, t.rnu, t.tls, t.ac, t.tm, t.lcc, t.stc, t.pwr, t.io, t.rw, t.store, t.writes, t.free)) op q sp s k (by intro comp t; simp) (by simp) hk
  simp only [Prod.mk.injEq] at key
  apply key
  (repeat' split) <;> simp

theorem execKeyGenerate_keeps (q : Call) (kind : Nat) (flags : Nat) (keyLen : Nat) (usage : Nat) (ident : Nat) (group : Nat) (notBefore : Nat) (notAfter : Nat) (s : State) :
    (stateOf s (execKeyGenerate q kind flags keyLen usage ident group notBefore notAfter s)).pending = s.pending ∧
    (stateOf s (execKeyGenerate q kind flags keyLen usage ident group notBefore notAfter s)).ident = s.ident ∧
    (stateOf s (execKeyGenerate q kind flags keyLen usage ident group notBefore notAfter s)).sck = s.sck ∧
    (stateOf s (execKeyGenerate q kind flags keyLen usage ident group notBefore notAfter s)).pke = s.pke ∧
    (stateOf s (execKeyGenerate q kind flags keyLen usage ident group notBefore notAfter s)).tls = s.tls ∧
    (stateOf s (execKeyGenerate q kind flags keyLen usage ident group notBefore notAfter s)).ac = s.ac ∧
    (stateOf s (execKeyGenerate q kind flags keyLen usage ident group notBefore notAfter s)).tm = s.tm ∧
    (stateOf s (execKeyGenerate q kind flags keyLen usage ident group notBefore notAfter s)).lcc = s.lcc ∧
    (stateOf s (execKeyGenerate q kind flags keyLen usage ident group notBefore notAfter s)).stc = s.stc ∧
    (stateOf s (execKeyGenerate q kind flags keyLen usage ident group notBefore notAfter s)).pwr = s.pwr ∧
    (stateOf s (execKeyGenerate q kind flags keyLen usage ident group notBefore notAfter s)).io = s.io ∧
    (stateOf s (execKeyGenerate q kind flags keyLen usage ident group notBefore notAfter s)).rw = s.rw ∧
    (stateOf s (execKeyGenerate q kind flags keyLen usage ident group notBefore notAfter s)).store = s.store ∧
    (stateOf s (execKeyGenerate q kind flags keyLen usage ident group notBefore notAfter s)).writes = s.writes := by
  simp only [execKeyGenerate, stateOf_next]
  have key : ∀ op sp k, (fun t : State => (t.pending, t.ident, t.sck, t.pke, t.tls, t.ac, t.tm, t.lcc, t.stc, t.pwr, t.io, t.rw, t.store, t.writes)) ((k s : OpOut).after s) = (fun t : State => (t.pending, t.ident, t.sck, t.pke, t.tls, t.ac, t.tm, t.lcc, t.stc, t.pwr, t.io, t.rw, t.store, t.writes)) s →
      (fun t : State => (t.pending, t.ident, t.sck, t.pke, t.tls, t.ac, t.tm, t.lcc, t.stc, t.pwr, t.io, t.rw, t.store, t.writes)) (runOp op q sp s k) = (fun t : State => (t.pending, t.ident, t.sck, t.pke, t.tls, t.ac, t.tm, t.lcc, t.stc, t.pwr, t.io, t.rw, t.store, t.writes)) s := fun op sp k hk =>
    runOp_keeps (fun t : State => (t.pending, t.ident, t.sck, t.pke, t.tls, t.ac, t.tm, t.lcc, t.stc, t.pwr, t.io, t.rw, t.store, t.writes)) op q sp s k (by intro comp t; simp) (by simp) hk
  simp only [Prod.mk.injEq] at key
  apply key
  simp only [withDraw]
  (repeat' split) <;> first
    | (simp; done)
    | (have h0 := allocHandle_frame _ _ _ ‹allocHandle _ _ = some _›; simp at h0; simp [h0])

theorem execKeyBlobRead_keeps (q : Call) (handle : Nat) (s : State) :
    (stateOf s (execKeyBlobRead q handle s)).pending = s.pending ∧ (stateOf s (execKeyBlobRead q handle s)).ident = s.ident ∧
    (stateOf s (execKeyBlobRead q handle s)).sck = s.sck ∧ (stateOf s (execKeyBlobRead q handle s)).arc = s.arc ∧
    (stateOf s (execKeyBlobRead q handle s)).pln = s.pln ∧ (stateOf s (execKeyBlobRead q handle s)).fe = s.fe ∧
    (stateOf s (execKeyBlobRead q handle s)).key = s.key ∧ (stateOf s (execKeyBlobRead q handle s)).pke = s.pke ∧
    (stateOf s (execKeyBlobRead q handle s)).rnu = s.rnu ∧ (stateOf s (execKeyBlobRead q handle s)).tls = s.tls ∧
    (stateOf s (execKeyBlobRead q handle s)).ac = s.ac ∧ (stateOf s (execKeyBlobRead q handle s)).tm = s.tm ∧
    (stateOf s (execKeyBlobRead q handle s)).lcc = s.lcc ∧ (stateOf s (execKeyBlobRead q handle s)).stc = s.stc ∧
    (stateOf s (execKeyBlobRead q handle s)).pwr = s.pwr ∧ (stateOf s (execKeyBlobRead q handle s)).io = s.io ∧
    (stateOf s (execKeyBlobRead q handle s)).ev = s.ev ∧ (stateOf s (execKeyBlobRead q handle s)).rw = s.rw ∧
    (stateOf s (execKeyBlobRead q handle s)).store = s.store ∧ (stateOf s (execKeyBlobRead q handle s)).writes = s.writes ∧
    (stateOf s (execKeyBlobRead q handle s)).free = s.free := by
  simp only [execKeyBlobRead, stateOf_next]
  have key : ∀ op sp k, (fun t : State => (t.pending, t.ident, t.sck, t.arc, t.pln, t.fe, t.key, t.pke, t.rnu, t.tls, t.ac, t.tm, t.lcc, t.stc, t.pwr, t.io, t.ev, t.rw, t.store, t.writes, t.free)) ((k s : OpOut).after s) = (fun t : State => (t.pending, t.ident, t.sck, t.arc, t.pln, t.fe, t.key, t.pke, t.rnu, t.tls, t.ac, t.tm, t.lcc, t.stc, t.pwr, t.io, t.ev, t.rw, t.store, t.writes, t.free)) s →
      (fun t : State => (t.pending, t.ident, t.sck, t.arc, t.pln, t.fe, t.key, t.pke, t.rnu, t.tls, t.ac, t.tm, t.lcc, t.stc, t.pwr, t.io, t.ev, t.rw, t.store, t.writes, t.free)) (runOp op q sp s k) = (fun t : State => (t.pending, t.ident, t.sck, t.arc, t.pln, t.fe, t.key, t.pke, t.rnu, t.tls, t.ac, t.tm, t.lcc, t.stc, t.pwr, t.io, t.ev, t.rw, t.store, t.writes, t.free)) s := fun op sp k hk =>
    runOp_keeps (fun t : State => (t.pending, t.ident, t.sck, t.arc, t.pln, t.fe, t.key, t.pke, t.rnu, t.tls, t.ac, t.tm, t.lcc, t.stc, t.pwr, t.io, t.ev, t.rw, t.store, t.writes, t.free)) op q sp s k (by intro comp t; simp) (by simp) hk
  simp only [Prod.mk.injEq] at key
  apply key
  (repeat' split) <;> simp

theorem execKeyVaultStore_keeps (q : Call) (handle : Nat) (s : State) :
    (stateOf s (execKeyVaultStore q handle s)).pending = s.pending ∧
    (stateOf s (execKeyVaultStore q handle s)).ident = s.ident ∧ (stateOf s (execKeyVaultStore q handle s)).sck = s.sck ∧
    (stateOf s (execKeyVaultStore q handle s)).fe = s.fe ∧ (stateOf s (execKeyVaultStore q handle s)).pke = s.pke ∧
    (stateOf s (execKeyVaultStore q handle s)).rnu = s.rnu ∧ (stateOf s (execKeyVaultStore q handle s)).tls = s.tls ∧
    (stateOf s (execKeyVaultStore q handle s)).ac = s.ac ∧ (stateOf s (execKeyVaultStore q handle s)).tm = s.tm ∧
    (stateOf s (execKeyVaultStore q handle s)).lcc = s.lcc ∧ (stateOf s (execKeyVaultStore q handle s)).stc = s.stc ∧
    (stateOf s (execKeyVaultStore q handle s)).pwr = s.pwr ∧ (stateOf s (execKeyVaultStore q handle s)).io = s.io ∧
    (stateOf s (execKeyVaultStore q handle s)).rw = s.rw ∧ (stateOf s (execKeyVaultStore q handle s)).store = s.store ∧
    (stateOf s (execKeyVaultStore q handle s)).writes = s.writes ∧ (stateOf s (execKeyVaultStore q handle s)).free = s.free := by
  simp only [execKeyVaultStore, stateOf_next]
  have key : ∀ op sp k, (fun t : State => (t.pending, t.ident, t.sck, t.fe, t.pke, t.rnu, t.tls, t.ac, t.tm, t.lcc, t.stc, t.pwr, t.io, t.rw, t.store, t.writes, t.free)) ((k s : OpOut).after s) = (fun t : State => (t.pending, t.ident, t.sck, t.fe, t.pke, t.rnu, t.tls, t.ac, t.tm, t.lcc, t.stc, t.pwr, t.io, t.rw, t.store, t.writes, t.free)) s →
      (fun t : State => (t.pending, t.ident, t.sck, t.fe, t.pke, t.rnu, t.tls, t.ac, t.tm, t.lcc, t.stc, t.pwr, t.io, t.rw, t.store, t.writes, t.free)) (runOp op q sp s k) = (fun t : State => (t.pending, t.ident, t.sck, t.fe, t.pke, t.rnu, t.tls, t.ac, t.tm, t.lcc, t.stc, t.pwr, t.io, t.rw, t.store, t.writes, t.free)) s := fun op sp k hk =>
    runOp_keeps (fun t : State => (t.pending, t.ident, t.sck, t.fe, t.pke, t.rnu, t.tls, t.ac, t.tm, t.lcc, t.stc, t.pwr, t.io, t.rw, t.store, t.writes, t.free)) op q sp s k (by intro comp t; simp) (by simp) hk
  simp only [Prod.mk.injEq] at key
  apply key
  (repeat' split) <;> simp

theorem execKeyVaultDelete_keeps (q : Call) (handle : Nat) (s : State) :
    (stateOf s (execKeyVaultDelete q handle s)).pending = s.pending ∧
    (stateOf s (execKeyVaultDelete q handle s)).ident = s.ident ∧ (stateOf s (execKeyVaultDelete q handle s)).sck = s.sck ∧
    (stateOf s (execKeyVaultDelete q handle s)).pln = s.pln ∧ (stateOf s (execKeyVaultDelete q handle s)).fe = s.fe ∧
    (stateOf s (execKeyVaultDelete q handle s)).pke = s.pke ∧ (stateOf s (execKeyVaultDelete q handle s)).rnu = s.rnu ∧
    (stateOf s (execKeyVaultDelete q handle s)).tls = s.tls ∧ (stateOf s (execKeyVaultDelete q handle s)).ac = s.ac ∧
    (stateOf s (execKeyVaultDelete q handle s)).tm = s.tm ∧ (stateOf s (execKeyVaultDelete q handle s)).lcc = s.lcc ∧
    (stateOf s (execKeyVaultDelete q handle s)).stc = s.stc ∧ (stateOf s (execKeyVaultDelete q handle s)).pwr = s.pwr ∧
    (stateOf s (execKeyVaultDelete q handle s)).io = s.io ∧ (stateOf s (execKeyVaultDelete q handle s)).ev = s.ev ∧
    (stateOf s (execKeyVaultDelete q handle s)).rw = s.rw ∧ (stateOf s (execKeyVaultDelete q handle s)).store = s.store ∧
    (stateOf s (execKeyVaultDelete q handle s)).writes = s.writes ∧ (stateOf s (execKeyVaultDelete q handle s)).free = s.free := by
  simp only [execKeyVaultDelete, stateOf_next]
  have key : ∀ op sp k, (fun t : State => (t.pending, t.ident, t.sck, t.pln, t.fe, t.pke, t.rnu, t.tls, t.ac, t.tm, t.lcc, t.stc, t.pwr, t.io, t.ev, t.rw, t.store, t.writes, t.free)) ((k s : OpOut).after s) = (fun t : State => (t.pending, t.ident, t.sck, t.pln, t.fe, t.pke, t.rnu, t.tls, t.ac, t.tm, t.lcc, t.stc, t.pwr, t.io, t.ev, t.rw, t.store, t.writes, t.free)) s →
      (fun t : State => (t.pending, t.ident, t.sck, t.pln, t.fe, t.pke, t.rnu, t.tls, t.ac, t.tm, t.lcc, t.stc, t.pwr, t.io, t.ev, t.rw, t.store, t.writes, t.free)) (runOp op q sp s k) = (fun t : State => (t.pending, t.ident, t.sck, t.pln, t.fe, t.pke, t.rnu, t.tls, t.ac, t.tm, t.lcc, t.stc, t.pwr, t.io, t.ev, t.rw, t.store, t.writes, t.free)) s := fun op sp k hk =>
    runOp_keeps (fun t : State => (t.pending, t.ident, t.sck, t.pln, t.fe, t.pke, t.rnu, t.tls, t.ac, t.tm, t.lcc, t.stc, t.pwr, t.io, t.ev, t.rw, t.store, t.writes, t.free)) op q sp s k (by intro comp t; simp) (by simp) hk
  simp only [Prod.mk.injEq] at key
  apply key
  (repeat' split) <;> simp

theorem execKeyReserve_keeps (q : Call) (kind : Nat) (vault : Bool) (usage : Nat) (ident : Nat) (group : Nat) (s : State) :
    (stateOf s (execKeyReserve q kind vault usage ident group s)).pending = s.pending ∧
    (stateOf s (execKeyReserve q kind vault usage ident group s)).ident = s.ident ∧
    (stateOf s (execKeyReserve q kind vault usage ident group s)).sck = s.sck ∧
    (stateOf s (execKeyReserve q kind vault usage ident group s)).arc = s.arc ∧
    (stateOf s (execKeyReserve q kind vault usage ident group s)).pln = s.pln ∧
    (stateOf s (execKeyReserve q kind vault usage ident group s)).fe = s.fe ∧
    (stateOf s (execKeyReserve q kind vault usage ident group s)).pke = s.pke ∧
    (stateOf s (execKeyReserve q kind vault usage ident group s)).rnu = s.rnu ∧
    (stateOf s (execKeyReserve q kind vault usage ident group s)).tls = s.tls ∧
    (stateOf s (execKeyReserve q kind vault usage ident group s)).ac = s.ac ∧
    (stateOf s (execKeyReserve q kind vault usage ident group s)).tm = s.tm ∧
    (stateOf s (execKeyReserve q kind vault usage ident group s)).lcc = s.lcc ∧
    (stateOf s (execKeyReserve q kind vault usage ident group s)).stc = s.stc ∧
    (stateOf s (execKeyReserve q kind vault usage ident group s)).pwr = s.pwr ∧
    (stateOf s (execKeyReserve q kind vault usage ident group s)).io = s.io ∧
    (stateOf s (execKeyReserve q kind vault usage ident group s)).ev = s.ev ∧
    (stateOf s (execKeyReserve q kind vault usage ident group s)).rw = s.rw ∧
    (stateOf s (execKeyReserve q kind vault usage ident group s)).store = s.store ∧
    (stateOf s (execKeyReserve q kind vault usage ident group s)).writes = s.writes ∧
    (stateOf s (execKeyReserve q kind vault usage ident group s)).free = s.free := by
  simp only [execKeyReserve, stateOf_next]
  have key : ∀ op sp k, (fun t : State => (t.pending, t.ident, t.sck, t.arc, t.pln, t.fe, t.pke, t.rnu, t.tls, t.ac, t.tm, t.lcc, t.stc, t.pwr, t.io, t.ev, t.rw, t.store, t.writes, t.free)) ((k s : OpOut).after s) = (fun t : State => (t.pending, t.ident, t.sck, t.arc, t.pln, t.fe, t.pke, t.rnu, t.tls, t.ac, t.tm, t.lcc, t.stc, t.pwr, t.io, t.ev, t.rw, t.store, t.writes, t.free)) s →
      (fun t : State => (t.pending, t.ident, t.sck, t.arc, t.pln, t.fe, t.pke, t.rnu, t.tls, t.ac, t.tm, t.lcc, t.stc, t.pwr, t.io, t.ev, t.rw, t.store, t.writes, t.free)) (runOp op q sp s k) = (fun t : State => (t.pending, t.ident, t.sck, t.arc, t.pln, t.fe, t.pke, t.rnu, t.tls, t.ac, t.tm, t.lcc, t.stc, t.pwr, t.io, t.ev, t.rw, t.store, t.writes, t.free)) s := fun op sp k hk =>
    runOp_keeps (fun t : State => (t.pending, t.ident, t.sck, t.arc, t.pln, t.fe, t.pke, t.rnu, t.tls, t.ac, t.tm, t.lcc, t.stc, t.pwr, t.io, t.ev, t.rw, t.store, t.writes, t.free)) op q sp s k (by intro comp t; simp) (by simp) hk
  simp only [Prod.mk.injEq] at key
  apply key
  (repeat' split) <;> first
    | (simp; done)
    | (have h0 := allocHandle_frame _ _ _ ‹allocHandle _ _ = some _›; simp at h0; simp [h0])

theorem execKeyReserveCancel_keeps (q : Call) (handle : Nat) (s : State) :
    (stateOf s (execKeyReserveCancel q handle s)).pending = s.pending ∧
    (stateOf s (execKeyReserveCancel q handle s)).ident = s.ident ∧ (stateOf s (execKeyReserveCancel q handle s)).sck = s.sck ∧
    (stateOf s (execKeyReserveCancel q handle s)).arc = s.arc ∧ (stateOf s (execKeyReserveCancel q handle s)).pln = s.pln ∧
    (stateOf s (execKeyReserveCancel q handle s)).fe = s.fe ∧ (stateOf s (execKeyReserveCancel q handle s)).pke = s.pke ∧
    (stateOf s (execKeyReserveCancel q handle s)).rnu = s.rnu ∧ (stateOf s (execKeyReserveCancel q handle s)).tls = s.tls ∧
    (stateOf s (execKeyReserveCancel q handle s)).ac = s.ac ∧ (stateOf s (execKeyReserveCancel q handle s)).tm = s.tm ∧
    (stateOf s (execKeyReserveCancel q handle s)).lcc = s.lcc ∧ (stateOf s (execKeyReserveCancel q handle s)).stc = s.stc ∧
    (stateOf s (execKeyReserveCancel q handle s)).pwr = s.pwr ∧ (stateOf s (execKeyReserveCancel q handle s)).io = s.io ∧
    (stateOf s (execKeyReserveCancel q handle s)).ev = s.ev ∧ (stateOf s (execKeyReserveCancel q handle s)).rw = s.rw ∧
    (stateOf s (execKeyReserveCancel q handle s)).store = s.store ∧
    (stateOf s (execKeyReserveCancel q handle s)).writes = s.writes ∧
    (stateOf s (execKeyReserveCancel q handle s)).free = s.free := by
  simp only [execKeyReserveCancel, stateOf_next]
  have key : ∀ op sp k, (fun t : State => (t.pending, t.ident, t.sck, t.arc, t.pln, t.fe, t.pke, t.rnu, t.tls, t.ac, t.tm, t.lcc, t.stc, t.pwr, t.io, t.ev, t.rw, t.store, t.writes, t.free)) ((k s : OpOut).after s) = (fun t : State => (t.pending, t.ident, t.sck, t.arc, t.pln, t.fe, t.pke, t.rnu, t.tls, t.ac, t.tm, t.lcc, t.stc, t.pwr, t.io, t.ev, t.rw, t.store, t.writes, t.free)) s →
      (fun t : State => (t.pending, t.ident, t.sck, t.arc, t.pln, t.fe, t.pke, t.rnu, t.tls, t.ac, t.tm, t.lcc, t.stc, t.pwr, t.io, t.ev, t.rw, t.store, t.writes, t.free)) (runOp op q sp s k) = (fun t : State => (t.pending, t.ident, t.sck, t.arc, t.pln, t.fe, t.pke, t.rnu, t.tls, t.ac, t.tm, t.lcc, t.stc, t.pwr, t.io, t.ev, t.rw, t.store, t.writes, t.free)) s := fun op sp k hk =>
    runOp_keeps (fun t : State => (t.pending, t.ident, t.sck, t.arc, t.pln, t.fe, t.pke, t.rnu, t.tls, t.ac, t.tm, t.lcc, t.stc, t.pwr, t.io, t.ev, t.rw, t.store, t.writes, t.free)) op q sp s k (by intro comp t; simp) (by simp) hk
  simp only [Prod.mk.injEq] at key
  apply key
  (repeat' split) <;> simp

theorem execKeyAttest_keeps (q : Call) (handle : Nat) (challenge : Bytes) (s : State) :
    (stateOf s (execKeyAttest q handle challenge s)).pending = s.pending ∧
    (stateOf s (execKeyAttest q handle challenge s)).ident = s.ident ∧
    (stateOf s (execKeyAttest q handle challenge s)).sck = s.sck ∧
    (stateOf s (execKeyAttest q handle challenge s)).arc = s.arc ∧
    (stateOf s (execKeyAttest q handle challenge s)).pln = s.pln ∧ (stateOf s (execKeyAttest q handle challenge s)).fe = s.fe ∧
    (stateOf s (execKeyAttest q handle challenge s)).key = s.key ∧
    (stateOf s (execKeyAttest q handle challenge s)).pke = s.pke ∧
    (stateOf s (execKeyAttest q handle challenge s)).rnu = s.rnu ∧
    (stateOf s (execKeyAttest q handle challenge s)).tls = s.tls ∧ (stateOf s (execKeyAttest q handle challenge s)).ac = s.ac ∧
    (stateOf s (execKeyAttest q handle challenge s)).tm = s.tm ∧ (stateOf s (execKeyAttest q handle challenge s)).lcc = s.lcc ∧
    (stateOf s (execKeyAttest q handle challenge s)).stc = s.stc ∧
    (stateOf s (execKeyAttest q handle challenge s)).pwr = s.pwr ∧ (stateOf s (execKeyAttest q handle challenge s)).io = s.io ∧
    (stateOf s (execKeyAttest q handle challenge s)).ev = s.ev ∧ (stateOf s (execKeyAttest q handle challenge s)).rw = s.rw ∧
    (stateOf s (execKeyAttest q handle challenge s)).store = s.store ∧
    (stateOf s (execKeyAttest q handle challenge s)).writes = s.writes ∧
    (stateOf s (execKeyAttest q handle challenge s)).free = s.free := by
  simp only [execKeyAttest, stateOf_next]
  have key : ∀ op sp k, (fun t : State => (t.pending, t.ident, t.sck, t.arc, t.pln, t.fe, t.key, t.pke, t.rnu, t.tls, t.ac, t.tm, t.lcc, t.stc, t.pwr, t.io, t.ev, t.rw, t.store, t.writes, t.free)) ((k s : OpOut).after s) = (fun t : State => (t.pending, t.ident, t.sck, t.arc, t.pln, t.fe, t.key, t.pke, t.rnu, t.tls, t.ac, t.tm, t.lcc, t.stc, t.pwr, t.io, t.ev, t.rw, t.store, t.writes, t.free)) s →
      (fun t : State => (t.pending, t.ident, t.sck, t.arc, t.pln, t.fe, t.key, t.pke, t.rnu, t.tls, t.ac, t.tm, t.lcc, t.stc, t.pwr, t.io, t.ev, t.rw, t.store, t.writes, t.free)) (runOp op q sp s k) = (fun t : State => (t.pending, t.ident, t.sck, t.arc, t.pln, t.fe, t.key, t.pke, t.rnu, t.tls, t.ac, t.tm, t.lcc, t.stc, t.pwr, t.io, t.ev, t.rw, t.store, t.writes, t.free)) s := fun op sp k hk =>
    runOp_keeps (fun t : State => (t.pending, t.ident, t.sck, t.arc, t.pln, t.fe, t.key, t.pke, t.rnu, t.tls, t.ac, t.tm, t.lcc, t.stc, t.pwr, t.io, t.ev, t.rw, t.store, t.writes, t.free)) op q sp s k (by intro comp t; simp) (by simp) hk
  simp only [Prod.mk.injEq] at key
  apply key
  (repeat' split) <;> simp

theorem execDeviceAttest_keeps (q : Call) (kind : Nat) (challenge : Bytes) (s : State) :
    (stateOf s (execDeviceAttest q kind challenge s)).pending = s.pending ∧
    (stateOf s (execDeviceAttest q kind challenge s)).ident = s.ident ∧
    (stateOf s (execDeviceAttest q kind challenge s)).sck = s.sck ∧
    (stateOf s (execDeviceAttest q kind challenge s)).arc = s.arc ∧
    (stateOf s (execDeviceAttest q kind challenge s)).pln = s.pln ∧
    (stateOf s (execDeviceAttest q kind challenge s)).fe = s.fe ∧
    (stateOf s (execDeviceAttest q kind challenge s)).key = s.key ∧
    (stateOf s (execDeviceAttest q kind challenge s)).pke = s.pke ∧
    (stateOf s (execDeviceAttest q kind challenge s)).rnu = s.rnu ∧
    (stateOf s (execDeviceAttest q kind challenge s)).tls = s.tls ∧
    (stateOf s (execDeviceAttest q kind challenge s)).ac = s.ac ∧ (stateOf s (execDeviceAttest q kind challenge s)).tm = s.tm ∧
    (stateOf s (execDeviceAttest q kind challenge s)).lcc = s.lcc ∧
    (stateOf s (execDeviceAttest q kind challenge s)).stc = s.stc ∧
    (stateOf s (execDeviceAttest q kind challenge s)).pwr = s.pwr ∧
    (stateOf s (execDeviceAttest q kind challenge s)).io = s.io ∧ (stateOf s (execDeviceAttest q kind challenge s)).ev = s.ev ∧
    (stateOf s (execDeviceAttest q kind challenge s)).rw = s.rw ∧
    (stateOf s (execDeviceAttest q kind challenge s)).store = s.store ∧
    (stateOf s (execDeviceAttest q kind challenge s)).writes = s.writes ∧
    (stateOf s (execDeviceAttest q kind challenge s)).free = s.free := by
  simp only [execDeviceAttest, stateOf_next]
  have key : ∀ op sp k, (fun t : State => (t.pending, t.ident, t.sck, t.arc, t.pln, t.fe, t.key, t.pke, t.rnu, t.tls, t.ac, t.tm, t.lcc, t.stc, t.pwr, t.io, t.ev, t.rw, t.store, t.writes, t.free)) ((k s : OpOut).after s) = (fun t : State => (t.pending, t.ident, t.sck, t.arc, t.pln, t.fe, t.key, t.pke, t.rnu, t.tls, t.ac, t.tm, t.lcc, t.stc, t.pwr, t.io, t.ev, t.rw, t.store, t.writes, t.free)) s →
      (fun t : State => (t.pending, t.ident, t.sck, t.arc, t.pln, t.fe, t.key, t.pke, t.rnu, t.tls, t.ac, t.tm, t.lcc, t.stc, t.pwr, t.io, t.ev, t.rw, t.store, t.writes, t.free)) (runOp op q sp s k) = (fun t : State => (t.pending, t.ident, t.sck, t.arc, t.pln, t.fe, t.key, t.pke, t.rnu, t.tls, t.ac, t.tm, t.lcc, t.stc, t.pwr, t.io, t.ev, t.rw, t.store, t.writes, t.free)) s := fun op sp k hk =>
    runOp_keeps (fun t : State => (t.pending, t.ident, t.sck, t.arc, t.pln, t.fe, t.key, t.pke, t.rnu, t.tls, t.ac, t.tm, t.lcc, t.stc, t.pwr, t.io, t.ev, t.rw, t.store, t.writes, t.free)) op q sp s k (by intro comp t; simp) (by simp) hk
  simp only [Prod.mk.injEq] at key
  apply key
  (repeat' split) <;> simp

theorem execKeyLifetimePassed_keeps (handle : Nat) (s : State) :
    (stateOf s (execKeyLifetimePassed handle s)).pending = s.pending ∧
    (stateOf s (execKeyLifetimePassed handle s)).ident = s.ident ∧ (stateOf s (execKeyLifetimePassed handle s)).sck = s.sck ∧
    (stateOf s (execKeyLifetimePassed handle s)).pln = s.pln ∧ (stateOf s (execKeyLifetimePassed handle s)).fe = s.fe ∧
    (stateOf s (execKeyLifetimePassed handle s)).ts = s.ts ∧ (stateOf s (execKeyLifetimePassed handle s)).pke = s.pke ∧
    (stateOf s (execKeyLifetimePassed handle s)).rnu = s.rnu ∧ (stateOf s (execKeyLifetimePassed handle s)).tls = s.tls ∧
    (stateOf s (execKeyLifetimePassed handle s)).ac = s.ac ∧ (stateOf s (execKeyLifetimePassed handle s)).tm = s.tm ∧
    (stateOf s (execKeyLifetimePassed handle s)).lcc = s.lcc ∧ (stateOf s (execKeyLifetimePassed handle s)).stc = s.stc ∧
    (stateOf s (execKeyLifetimePassed handle s)).pwr = s.pwr ∧ (stateOf s (execKeyLifetimePassed handle s)).io = s.io ∧
    (stateOf s (execKeyLifetimePassed handle s)).rw = s.rw ∧ (stateOf s (execKeyLifetimePassed handle s)).store = s.store ∧
    (stateOf s (execKeyLifetimePassed handle s)).writes = s.writes ∧
    (stateOf s (execKeyLifetimePassed handle s)).free = s.free := by
  simp only [execKeyLifetimePassed, onMain]
  (repeat' split) <;> simp

theorem execKeySlotRepair_keeps (handle : Nat) (waiting : List Nat) (s : State) :
    (stateOf s (execKeySlotRepair handle waiting s)).pending = s.pending ∧
    (stateOf s (execKeySlotRepair handle waiting s)).ident = s.ident ∧
    (stateOf s (execKeySlotRepair handle waiting s)).sck = s.sck ∧
    (stateOf s (execKeySlotRepair handle waiting s)).pln = s.pln ∧
    (stateOf s (execKeySlotRepair handle waiting s)).pke = s.pke ∧
    (stateOf s (execKeySlotRepair handle waiting s)).tls = s.tls ∧ (stateOf s (execKeySlotRepair handle waiting s)).ac = s.ac ∧
    (stateOf s (execKeySlotRepair handle waiting s)).tm = s.tm ∧ (stateOf s (execKeySlotRepair handle waiting s)).lcc = s.lcc ∧
    (stateOf s (execKeySlotRepair handle waiting s)).stc = s.stc ∧
    (stateOf s (execKeySlotRepair handle waiting s)).pwr = s.pwr ∧ (stateOf s (execKeySlotRepair handle waiting s)).io = s.io ∧
    (stateOf s (execKeySlotRepair handle waiting s)).rw = s.rw ∧
    (stateOf s (execKeySlotRepair handle waiting s)).store = s.store ∧
    (stateOf s (execKeySlotRepair handle waiting s)).writes = s.writes := by
  simp only [execKeySlotRepair, onMain]
  (repeat' split) <;> simp

theorem execGdoiPushReceived_keeps (f : Nat) (group : Nat) (ident : Nat) (kind : Nat) (material : Bytes) (notBefore : Nat) (notAfter : Nat) (s : State) :
    (stateOf s (execGdoiPushReceived f group ident kind material notBefore notAfter s)).pending = s.pending ∧
    (stateOf s (execGdoiPushReceived f group ident kind material notBefore notAfter s)).ident = s.ident ∧
    (stateOf s (execGdoiPushReceived f group ident kind material notBefore notAfter s)).sck = s.sck ∧
    (stateOf s (execGdoiPushReceived f group ident kind material notBefore notAfter s)).ts = s.ts ∧
    (stateOf s (execGdoiPushReceived f group ident kind material notBefore notAfter s)).pke = s.pke ∧
    (stateOf s (execGdoiPushReceived f group ident kind material notBefore notAfter s)).tls = s.tls ∧
    (stateOf s (execGdoiPushReceived f group ident kind material notBefore notAfter s)).ac = s.ac ∧
    (stateOf s (execGdoiPushReceived f group ident kind material notBefore notAfter s)).tm = s.tm ∧
    (stateOf s (execGdoiPushReceived f group ident kind material notBefore notAfter s)).lcc = s.lcc ∧
    (stateOf s (execGdoiPushReceived f group ident kind material notBefore notAfter s)).stc = s.stc ∧
    (stateOf s (execGdoiPushReceived f group ident kind material notBefore notAfter s)).pwr = s.pwr ∧
    (stateOf s (execGdoiPushReceived f group ident kind material notBefore notAfter s)).io = s.io ∧
    (stateOf s (execGdoiPushReceived f group ident kind material notBefore notAfter s)).rw = s.rw ∧
    (stateOf s (execGdoiPushReceived f group ident kind material notBefore notAfter s)).store = s.store ∧
    (stateOf s (execGdoiPushReceived f group ident kind material notBefore notAfter s)).writes = s.writes := by
  simp only [execGdoiPushReceived, onMain]
  (repeat' split) <;> simp

theorem execGdoiKdcPush_keeps (handle : Nat) (s : State) :
    (stateOf s (execGdoiKdcPush handle s)).pending = s.pending ∧ (stateOf s (execGdoiKdcPush handle s)).ident = s.ident ∧
    (stateOf s (execGdoiKdcPush handle s)).sck = s.sck ∧ (stateOf s (execGdoiKdcPush handle s)).arc = s.arc ∧
    (stateOf s (execGdoiKdcPush handle s)).pln = s.pln ∧ (stateOf s (execGdoiKdcPush handle s)).hif = s.hif ∧
    (stateOf s (execGdoiKdcPush handle s)).ts = s.ts ∧ (stateOf s (execGdoiKdcPush handle s)).key = s.key ∧
    (stateOf s (execGdoiKdcPush handle s)).pke = s.pke ∧ (stateOf s (execGdoiKdcPush handle s)).rnu = s.rnu ∧
    (stateOf s (execGdoiKdcPush handle s)).tls = s.tls ∧ (stateOf s (execGdoiKdcPush handle s)).ac = s.ac ∧
    (stateOf s (execGdoiKdcPush handle s)).tm = s.tm ∧ (stateOf s (execGdoiKdcPush handle s)).lcc = s.lcc ∧
    (stateOf s (execGdoiKdcPush handle s)).stc = s.stc ∧ (stateOf s (execGdoiKdcPush handle s)).pwr = s.pwr ∧
    (stateOf s (execGdoiKdcPush handle s)).io = s.io ∧ (stateOf s (execGdoiKdcPush handle s)).ev = s.ev ∧
    (stateOf s (execGdoiKdcPush handle s)).rw = s.rw ∧ (stateOf s (execGdoiKdcPush handle s)).store = s.store ∧
    (stateOf s (execGdoiKdcPush handle s)).writes = s.writes ∧ (stateOf s (execGdoiKdcPush handle s)).out = s.out ∧
    (stateOf s (execGdoiKdcPush handle s)).free = s.free := by
  simp only [execGdoiKdcPush, onMain]
  (repeat' split) <;> simp

end Sys2Proof.Machine
end

