-- ==== Sys2Proof/Laws/KeepLife.lean ====
section
/-! SUPPORT. What each meaning of Machine/Life.lean leaves unchanged in every state, once for each command. -/

namespace Sys2Proof.Machine

theorem execLifecycleRequest_keeps (q : Call) (auth : AuthReq) (s : State) :
    (stateOf s (execLifecycleRequest q auth s)).pending = s.pending ∧
    (stateOf s (execLifecycleRequest q auth s)).ident = s.ident ∧ (stateOf s (execLifecycleRequest q auth s)).sck = s.sck ∧
    (stateOf s (execLifecycleRequest q auth s)).pln = s.pln ∧ (stateOf s (execLifecycleRequest q auth s)).fe = s.fe ∧
    (stateOf s (execLifecycleRequest q auth s)).pke = s.pke ∧ (stateOf s (execLifecycleRequest q auth s)).rnu = s.rnu ∧
    (stateOf s (execLifecycleRequest q auth s)).tls = s.tls ∧ (stateOf s (execLifecycleRequest q auth s)).ac = s.ac ∧
    (stateOf s (execLifecycleRequest q auth s)).tm = s.tm ∧ (stateOf s (execLifecycleRequest q auth s)).stc = s.stc ∧
    (stateOf s (execLifecycleRequest q auth s)).pwr = s.pwr ∧ (stateOf s (execLifecycleRequest q auth s)).io = s.io ∧
    (stateOf s (execLifecycleRequest q auth s)).rw = s.rw ∧ (stateOf s (execLifecycleRequest q auth s)).store = s.store ∧
    (stateOf s (execLifecycleRequest q auth s)).writes = s.writes ∧ (stateOf s (execLifecycleRequest q auth s)).free = s.free := by
  simp only [execLifecycleRequest, stateOf_next]
  have key : ∀ op sp k, (fun t : State => (t.pending, t.ident, t.sck, t.pln, t.fe, t.pke, t.rnu, t.tls, t.ac, t.tm, t.stc, t.pwr, t.io, t.rw, t.store, t.writes, t.free)) ((k s : OpOut).after s) = (fun t : State => (t.pending, t.ident, t.sck, t.pln, t.fe, t.pke, t.rnu, t.tls, t.ac, t.tm, t.stc, t.pwr, t.io, t.rw, t.store, t.writes, t.free)) s →
      (fun t : State => (t.pending, t.ident, t.sck, t.pln, t.fe, t.pke, t.rnu, t.tls, t.ac, t.tm, t.stc, t.pwr, t.io, t.rw, t.store, t.writes, t.free)) (runOp op q sp s k) = (fun t : State => (t.pending, t.ident, t.sck, t.pln, t.fe, t.pke, t.rnu, t.tls, t.ac, t.tm, t.stc, t.pwr, t.io, t.rw, t.store, t.writes, t.free)) s := fun op sp k hk =>
    runOp_keeps (fun t : State => (t.pending, t.ident, t.sck, t.pln, t.fe, t.pke, t.rnu, t.tls, t.ac, t.tm, t.stc, t.pwr, t.io, t.rw, t.store, t.writes, t.free)) op q sp s k (by intro comp t; simp) (by simp) hk
  simp only [Prod.mk.injEq] at key
  apply key
  (repeat' split) <;> simp

theorem execDebugAuthorise_keeps (q : Call) (t : DebugToken) (s : State) :
    (stateOf s (execDebugAuthorise q t s)).pending = s.pending ∧ (stateOf s (execDebugAuthorise q t s)).ident = s.ident ∧
    (stateOf s (execDebugAuthorise q t s)).sck = s.sck ∧ (stateOf s (execDebugAuthorise q t s)).pln = s.pln ∧
    (stateOf s (execDebugAuthorise q t s)).fe = s.fe ∧ (stateOf s (execDebugAuthorise q t s)).key = s.key ∧
    (stateOf s (execDebugAuthorise q t s)).pke = s.pke ∧ (stateOf s (execDebugAuthorise q t s)).rnu = s.rnu ∧
    (stateOf s (execDebugAuthorise q t s)).tls = s.tls ∧ (stateOf s (execDebugAuthorise q t s)).ac = s.ac ∧
    (stateOf s (execDebugAuthorise q t s)).tm = s.tm ∧ (stateOf s (execDebugAuthorise q t s)).stc = s.stc ∧
    (stateOf s (execDebugAuthorise q t s)).pwr = s.pwr ∧ (stateOf s (execDebugAuthorise q t s)).io = s.io ∧
    (stateOf s (execDebugAuthorise q t s)).rw = s.rw ∧ (stateOf s (execDebugAuthorise q t s)).store = s.store ∧
    (stateOf s (execDebugAuthorise q t s)).writes = s.writes ∧ (stateOf s (execDebugAuthorise q t s)).free = s.free := by
  simp only [execDebugAuthorise, stateOf_next]
  have key : ∀ op sp k, (fun t : State => (t.pending, t.ident, t.sck, t.pln, t.fe, t.key, t.pke, t.rnu, t.tls, t.ac, t.tm, t.stc, t.pwr, t.io, t.rw, t.store, t.writes, t.free)) ((k s : OpOut).after s) = (fun t : State => (t.pending, t.ident, t.sck, t.pln, t.fe, t.key, t.pke, t.rnu, t.tls, t.ac, t.tm, t.stc, t.pwr, t.io, t.rw, t.store, t.writes, t.free)) s →
      (fun t : State => (t.pending, t.ident, t.sck, t.pln, t.fe, t.key, t.pke, t.rnu, t.tls, t.ac, t.tm, t.stc, t.pwr, t.io, t.rw, t.store, t.writes, t.free)) (runOp op q sp s k) = (fun t : State => (t.pending, t.ident, t.sck, t.pln, t.fe, t.key, t.pke, t.rnu, t.tls, t.ac, t.tm, t.stc, t.pwr, t.io, t.rw, t.store, t.writes, t.free)) s := fun op sp k hk =>
    runOp_keeps (fun t : State => (t.pending, t.ident, t.sck, t.pln, t.fe, t.key, t.pke, t.rnu, t.tls, t.ac, t.tm, t.stc, t.pwr, t.io, t.rw, t.store, t.writes, t.free)) op q sp s k (by intro comp t; simp) (by simp) hk
  simp only [Prod.mk.injEq] at key
  apply key
  (repeat' split) <;> simp

theorem execDebugTokenExpiry_keeps (s : State) :
    (stateOf s (execDebugTokenExpiry s)).pending = s.pending ∧ (stateOf s (execDebugTokenExpiry s)).ident = s.ident ∧
    (stateOf s (execDebugTokenExpiry s)).sck = s.sck ∧ (stateOf s (execDebugTokenExpiry s)).pln = s.pln ∧
    (stateOf s (execDebugTokenExpiry s)).fe = s.fe ∧ (stateOf s (execDebugTokenExpiry s)).key = s.key ∧
    (stateOf s (execDebugTokenExpiry s)).pke = s.pke ∧ (stateOf s (execDebugTokenExpiry s)).rnu = s.rnu ∧
    (stateOf s (execDebugTokenExpiry s)).tls = s.tls ∧ (stateOf s (execDebugTokenExpiry s)).ac = s.ac ∧
    (stateOf s (execDebugTokenExpiry s)).tm = s.tm ∧ (stateOf s (execDebugTokenExpiry s)).stc = s.stc ∧
    (stateOf s (execDebugTokenExpiry s)).pwr = s.pwr ∧ (stateOf s (execDebugTokenExpiry s)).io = s.io ∧
    (stateOf s (execDebugTokenExpiry s)).rw = s.rw ∧ (stateOf s (execDebugTokenExpiry s)).store = s.store ∧
    (stateOf s (execDebugTokenExpiry s)).writes = s.writes ∧ (stateOf s (execDebugTokenExpiry s)).free = s.free := by
  simp only [execDebugTokenExpiry, onMain]
  (repeat' split) <;> simp

theorem execDebugEnd_keeps (s : State) :
    (stateOf s (execDebugEnd s)).pending = s.pending ∧ (stateOf s (execDebugEnd s)).ident = s.ident ∧
    (stateOf s (execDebugEnd s)).sck = s.sck ∧ (stateOf s (execDebugEnd s)).pln = s.pln ∧
    (stateOf s (execDebugEnd s)).fe = s.fe ∧ (stateOf s (execDebugEnd s)).key = s.key ∧
    (stateOf s (execDebugEnd s)).pke = s.pke ∧ (stateOf s (execDebugEnd s)).rnu = s.rnu ∧
    (stateOf s (execDebugEnd s)).tls = s.tls ∧ (stateOf s (execDebugEnd s)).ac = s.ac ∧
    (stateOf s (execDebugEnd s)).tm = s.tm ∧ (stateOf s (execDebugEnd s)).stc = s.stc ∧
    (stateOf s (execDebugEnd s)).pwr = s.pwr ∧ (stateOf s (execDebugEnd s)).io = s.io ∧
    (stateOf s (execDebugEnd s)).rw = s.rw ∧ (stateOf s (execDebugEnd s)).store = s.store ∧
    (stateOf s (execDebugEnd s)).writes = s.writes ∧ (stateOf s (execDebugEnd s)).free = s.free := by
  simp only [execDebugEnd, viaBar]
  (repeat' split) <;> simp

theorem execJtagIdcode_keeps (s : State) :
    (stateOf s (execJtagIdcode s)).pending = s.pending ∧ (stateOf s (execJtagIdcode s)).ident = s.ident ∧
    (stateOf s (execJtagIdcode s)).sck = s.sck ∧ (stateOf s (execJtagIdcode s)).arc = s.arc ∧
    (stateOf s (execJtagIdcode s)).pln = s.pln ∧ (stateOf s (execJtagIdcode s)).fe = s.fe ∧
    (stateOf s (execJtagIdcode s)).hif = s.hif ∧ (stateOf s (execJtagIdcode s)).ts = s.ts ∧
    (stateOf s (execJtagIdcode s)).key = s.key ∧ (stateOf s (execJtagIdcode s)).pke = s.pke ∧
    (stateOf s (execJtagIdcode s)).rnu = s.rnu ∧ (stateOf s (execJtagIdcode s)).tls = s.tls ∧
    (stateOf s (execJtagIdcode s)).ac = s.ac ∧ (stateOf s (execJtagIdcode s)).tm = s.tm ∧
    (stateOf s (execJtagIdcode s)).lcc = s.lcc ∧ (stateOf s (execJtagIdcode s)).stc = s.stc ∧
    (stateOf s (execJtagIdcode s)).pwr = s.pwr ∧ (stateOf s (execJtagIdcode s)).io = s.io ∧
    (stateOf s (execJtagIdcode s)).ev = s.ev ∧ (stateOf s (execJtagIdcode s)).rw = s.rw ∧
    (stateOf s (execJtagIdcode s)).store = s.store ∧ (stateOf s (execJtagIdcode s)).writes = s.writes ∧
    (stateOf s (execJtagIdcode s)).free = s.free := by
  simp only [execJtagIdcode]
  (repeat' split) <;> simp

theorem execJtagBypass_keeps (s : State) :
    (stateOf s (execJtagBypass s)).pending = s.pending ∧ (stateOf s (execJtagBypass s)).ident = s.ident ∧
    (stateOf s (execJtagBypass s)).sck = s.sck ∧ (stateOf s (execJtagBypass s)).arc = s.arc ∧
    (stateOf s (execJtagBypass s)).pln = s.pln ∧ (stateOf s (execJtagBypass s)).fe = s.fe ∧
    (stateOf s (execJtagBypass s)).hif = s.hif ∧ (stateOf s (execJtagBypass s)).ts = s.ts ∧
    (stateOf s (execJtagBypass s)).key = s.key ∧ (stateOf s (execJtagBypass s)).pke = s.pke ∧
    (stateOf s (execJtagBypass s)).rnu = s.rnu ∧ (stateOf s (execJtagBypass s)).tls = s.tls ∧
    (stateOf s (execJtagBypass s)).ac = s.ac ∧ (stateOf s (execJtagBypass s)).tm = s.tm ∧
    (stateOf s (execJtagBypass s)).lcc = s.lcc ∧ (stateOf s (execJtagBypass s)).stc = s.stc ∧
    (stateOf s (execJtagBypass s)).pwr = s.pwr ∧ (stateOf s (execJtagBypass s)).io = s.io ∧
    (stateOf s (execJtagBypass s)).ev = s.ev ∧ (stateOf s (execJtagBypass s)).rw = s.rw ∧
    (stateOf s (execJtagBypass s)).store = s.store ∧ (stateOf s (execJtagBypass s)).writes = s.writes ∧
    (stateOf s (execJtagBypass s)).free = s.free := by
  simp only [execJtagBypass]
  (repeat' split) <;> simp

theorem execDebugPortAccess_keeps (a : DebugAct) (s : State) :
    (stateOf s (execDebugPortAccess a s)).pending = s.pending ∧ (stateOf s (execDebugPortAccess a s)).ident = s.ident ∧
    (stateOf s (execDebugPortAccess a s)).sck = s.sck ∧ (stateOf s (execDebugPortAccess a s)).rw = s.rw ∧
    (stateOf s (execDebugPortAccess a s)).store = s.store ∧ (stateOf s (execDebugPortAccess a s)).writes = s.writes := by
  simp only [execDebugPortAccess]
  (repeat' split) <;> simp

theorem execSelfTestRun_keeps (q : Call) (block : Nat) (sig : Option Nat) (partly : List (Nat × Nat)) (s : State) :
    (stateOf s (execSelfTestRun q block sig partly s)).pending = s.pending ∧
    (stateOf s (execSelfTestRun q block sig partly s)).ident = s.ident ∧
    (stateOf s (execSelfTestRun q block sig partly s)).sck = s.sck ∧
    (stateOf s (execSelfTestRun q block sig partly s)).ac = s.ac ∧
    (stateOf s (execSelfTestRun q block sig partly s)).pwr = s.pwr ∧
    (stateOf s (execSelfTestRun q block sig partly s)).rw = s.rw ∧
    (stateOf s (execSelfTestRun q block sig partly s)).store = s.store ∧
    (stateOf s (execSelfTestRun q block sig partly s)).writes = s.writes := by
  simp only [execSelfTestRun, stateOf_next]
  have key : ∀ op sp k, (fun t : State => (t.pending, t.ident, t.sck, t.ac, t.pwr, t.rw, t.store, t.writes)) ((k s : OpOut).after s) = (fun t : State => (t.pending, t.ident, t.sck, t.ac, t.pwr, t.rw, t.store, t.writes)) s →
      (fun t : State => (t.pending, t.ident, t.sck, t.ac, t.pwr, t.rw, t.store, t.writes)) (runOp op q sp s k) = (fun t : State => (t.pending, t.ident, t.sck, t.ac, t.pwr, t.rw, t.store, t.writes)) s := fun op sp k hk =>
    runOp_keeps (fun t : State => (t.pending, t.ident, t.sck, t.ac, t.pwr, t.rw, t.store, t.writes)) op q sp s k (by intro comp t; simp) (by simp) hk
  simp only [Prod.mk.injEq] at key
  apply key
  (repeat' split) <;> first
    | (simp; done)
    | simp [endTest_after s]

theorem execRollingTest_keeps (q : Call) (mode : Nat) (period : Nat) (s : State) :
    (stateOf s (execRollingTest q mode period s)).pending = s.pending ∧
    (stateOf s (execRollingTest q mode period s)).ident = s.ident ∧ (stateOf s (execRollingTest q mode period s)).sck = s.sck ∧
    (stateOf s (execRollingTest q mode period s)).arc = s.arc ∧ (stateOf s (execRollingTest q mode period s)).pln = s.pln ∧
    (stateOf s (execRollingTest q mode period s)).fe = s.fe ∧ (stateOf s (execRollingTest q mode period s)).key = s.key ∧
    (stateOf s (execRollingTest q mode period s)).pke = s.pke ∧ (stateOf s (execRollingTest q mode period s)).rnu = s.rnu ∧
    (stateOf s (execRollingTest q mode period s)).tls = s.tls ∧ (stateOf s (execRollingTest q mode period s)).ac = s.ac ∧
    (stateOf s (execRollingTest q mode period s)).tm = s.tm ∧ (stateOf s (execRollingTest q mode period s)).lcc = s.lcc ∧
    (stateOf s (execRollingTest q mode period s)).pwr = s.pwr ∧ (stateOf s (execRollingTest q mode period s)).io = s.io ∧
    (stateOf s (execRollingTest q mode period s)).ev = s.ev ∧ (stateOf s (execRollingTest q mode period s)).rw = s.rw ∧
    (stateOf s (execRollingTest q mode period s)).store = s.store ∧
    (stateOf s (execRollingTest q mode period s)).writes = s.writes ∧
    (stateOf s (execRollingTest q mode period s)).free = s.free := by
  simp only [execRollingTest, stateOf_next]
  have key : ∀ op sp k, (fun t : State => (t.pending, t.ident, t.sck, t.arc, t.pln, t.fe, t.key, t.pke, t.rnu, t.tls, t.ac, t.tm, t.lcc, t.pwr, t.io, t.ev, t.rw, t.store, t.writes, t.free)) ((k s : OpOut).after s) = (fun t : State => (t.pending, t.ident, t.sck, t.arc, t.pln, t.fe, t.key, t.pke, t.rnu, t.tls, t.ac, t.tm, t.lcc, t.pwr, t.io, t.ev, t.rw, t.store, t.writes, t.free)) s →
      (fun t : State => (t.pending, t.ident, t.sck, t.arc, t.pln, t.fe, t.key, t.pke, t.rnu, t.tls, t.ac, t.tm, t.lcc, t.pwr, t.io, t.ev, t.rw, t.store, t.writes, t.free)) (runOp op q sp s k) = (fun t : State => (t.pending, t.ident, t.sck, t.arc, t.pln, t.fe, t.key, t.pke, t.rnu, t.tls, t.ac, t.tm, t.lcc, t.pwr, t.io, t.ev, t.rw, t.store, t.writes, t.free)) s := fun op sp k hk =>
    runOp_keeps (fun t : State => (t.pending, t.ident, t.sck, t.arc, t.pln, t.fe, t.key, t.pke, t.rnu, t.tls, t.ac, t.tm, t.lcc, t.pwr, t.io, t.ev, t.rw, t.store, t.writes, t.free)) op q sp s k (by intro comp t; simp) (by simp) hk
  simp only [Prod.mk.injEq] at key
  apply key
  (repeat' split) <;> simp

theorem execRollingTestPeriod_keeps (sig : Option Nat) (s : State) :
    (stateOf s (execRollingTestPeriod sig s)).pending = s.pending ∧ (stateOf s (execRollingTestPeriod sig s)).ident = s.ident ∧
    (stateOf s (execRollingTestPeriod sig s)).sck = s.sck ∧ (stateOf s (execRollingTestPeriod sig s)).pln = s.pln ∧
    (stateOf s (execRollingTestPeriod sig s)).ts = s.ts ∧ (stateOf s (execRollingTestPeriod sig s)).key = s.key ∧
    (stateOf s (execRollingTestPeriod sig s)).pke = s.pke ∧ (stateOf s (execRollingTestPeriod sig s)).rnu = s.rnu ∧
    (stateOf s (execRollingTestPeriod sig s)).tls = s.tls ∧ (stateOf s (execRollingTestPeriod sig s)).ac = s.ac ∧
    (stateOf s (execRollingTestPeriod sig s)).tm = s.tm ∧ (stateOf s (execRollingTestPeriod sig s)).lcc = s.lcc ∧
    (stateOf s (execRollingTestPeriod sig s)).pwr = s.pwr ∧ (stateOf s (execRollingTestPeriod sig s)).io = s.io ∧
    (stateOf s (execRollingTestPeriod sig s)).rw = s.rw ∧ (stateOf s (execRollingTestPeriod sig s)).store = s.store ∧
    (stateOf s (execRollingTestPeriod sig s)).writes = s.writes ∧ (stateOf s (execRollingTestPeriod sig s)).free = s.free := by
  simp only [execRollingTestPeriod, onMain]
  (repeat' split) <;> simp

theorem execModuleInfo_keeps (q : Call) (s : State) :
    (stateOf s (execModuleInfo q s)).pending = s.pending ∧ (stateOf s (execModuleInfo q s)).ident = s.ident ∧
    (stateOf s (execModuleInfo q s)).sck = s.sck ∧ (stateOf s (execModuleInfo q s)).arc = s.arc ∧
    (stateOf s (execModuleInfo q s)).pln = s.pln ∧ (stateOf s (execModuleInfo q s)).fe = s.fe ∧
    (stateOf s (execModuleInfo q s)).key = s.key ∧ (stateOf s (execModuleInfo q s)).pke = s.pke ∧
    (stateOf s (execModuleInfo q s)).rnu = s.rnu ∧ (stateOf s (execModuleInfo q s)).tls = s.tls ∧
    (stateOf s (execModuleInfo q s)).ac = s.ac ∧ (stateOf s (execModuleInfo q s)).tm = s.tm ∧
    (stateOf s (execModuleInfo q s)).lcc = s.lcc ∧ (stateOf s (execModuleInfo q s)).stc = s.stc ∧
    (stateOf s (execModuleInfo q s)).pwr = s.pwr ∧ (stateOf s (execModuleInfo q s)).io = s.io ∧
    (stateOf s (execModuleInfo q s)).ev = s.ev ∧ (stateOf s (execModuleInfo q s)).rw = s.rw ∧
    (stateOf s (execModuleInfo q s)).store = s.store ∧ (stateOf s (execModuleInfo q s)).writes = s.writes ∧
    (stateOf s (execModuleInfo q s)).free = s.free := by
  simp only [execModuleInfo, stateOf_next]
  have key : ∀ op sp k, (fun t : State => (t.pending, t.ident, t.sck, t.arc, t.pln, t.fe, t.key, t.pke, t.rnu, t.tls, t.ac, t.tm, t.lcc, t.stc, t.pwr, t.io, t.ev, t.rw, t.store, t.writes, t.free)) ((k s : OpOut).after s) = (fun t : State => (t.pending, t.ident, t.sck, t.arc, t.pln, t.fe, t.key, t.pke, t.rnu, t.tls, t.ac, t.tm, t.lcc, t.stc, t.pwr, t.io, t.ev, t.rw, t.store, t.writes, t.free)) s →
      (fun t : State => (t.pending, t.ident, t.sck, t.arc, t.pln, t.fe, t.key, t.pke, t.rnu, t.tls, t.ac, t.tm, t.lcc, t.stc, t.pwr, t.io, t.ev, t.rw, t.store, t.writes, t.free)) (runOp op q sp s k) = (fun t : State => (t.pending, t.ident, t.sck, t.arc, t.pln, t.fe, t.key, t.pke, t.rnu, t.tls, t.ac, t.tm, t.lcc, t.stc, t.pwr, t.io, t.ev, t.rw, t.store, t.writes, t.free)) s := fun op sp k hk =>
    runOp_keeps (fun t : State => (t.pending, t.ident, t.sck, t.arc, t.pln, t.fe, t.key, t.pke, t.rnu, t.tls, t.ac, t.tm, t.lcc, t.stc, t.pwr, t.io, t.ev, t.rw, t.store, t.writes, t.free)) op q sp s k (by intro comp t; simp) (by simp) hk
  simp only [Prod.mk.injEq] at key
  apply key
  (repeat' split) <;> simp

theorem execConfigSelect_keeps (q : Call) (config : Nat) (s : State) :
    (stateOf s (execConfigSelect q config s)).pending = s.pending ∧ (stateOf s (execConfigSelect q config s)).ident = s.ident ∧
    (stateOf s (execConfigSelect q config s)).sck = s.sck ∧ (stateOf s (execConfigSelect q config s)).arc = s.arc ∧
    (stateOf s (execConfigSelect q config s)).pln = s.pln ∧ (stateOf s (execConfigSelect q config s)).fe = s.fe ∧
    (stateOf s (execConfigSelect q config s)).key = s.key ∧ (stateOf s (execConfigSelect q config s)).pke = s.pke ∧
    (stateOf s (execConfigSelect q config s)).rnu = s.rnu ∧ (stateOf s (execConfigSelect q config s)).tls = s.tls ∧
    (stateOf s (execConfigSelect q config s)).ac = s.ac ∧ (stateOf s (execConfigSelect q config s)).tm = s.tm ∧
    (stateOf s (execConfigSelect q config s)).lcc = s.lcc ∧ (stateOf s (execConfigSelect q config s)).stc = s.stc ∧
    (stateOf s (execConfigSelect q config s)).io = s.io ∧ (stateOf s (execConfigSelect q config s)).ev = s.ev ∧
    (stateOf s (execConfigSelect q config s)).rw = s.rw ∧ (stateOf s (execConfigSelect q config s)).store = s.store ∧
    (stateOf s (execConfigSelect q config s)).writes = s.writes ∧ (stateOf s (execConfigSelect q config s)).free = s.free := by
  simp only [execConfigSelect, stateOf_next]
  have key : ∀ op sp k, (fun t : State => (t.pending, t.ident, t.sck, t.arc, t.pln, t.fe, t.key, t.pke, t.rnu, t.tls, t.ac, t.tm, t.lcc, t.stc, t.io, t.ev, t.rw, t.store, t.writes, t.free)) ((k s : OpOut).after s) = (fun t : State => (t.pending, t.ident, t.sck, t.arc, t.pln, t.fe, t.key, t.pke, t.rnu, t.tls, t.ac, t.tm, t.lcc, t.stc, t.io, t.ev, t.rw, t.store, t.writes, t.free)) s →
      (fun t : State => (t.pending, t.ident, t.sck, t.arc, t.pln, t.fe, t.key, t.pke, t.rnu, t.tls, t.ac, t.tm, t.lcc, t.stc, t.io, t.ev, t.rw, t.store, t.writes, t.free)) (runOp op q sp s k) = (fun t : State => (t.pending, t.ident, t.sck, t.arc, t.pln, t.fe, t.key, t.pke, t.rnu, t.tls, t.ac, t.tm, t.lcc, t.stc, t.io, t.ev, t.rw, t.store, t.writes, t.free)) s := fun op sp k hk =>
    runOp_keeps (fun t : State => (t.pending, t.ident, t.sck, t.arc, t.pln, t.fe, t.key, t.pke, t.rnu, t.tls, t.ac, t.tm, t.lcc, t.stc, t.io, t.ev, t.rw, t.store, t.writes, t.free)) op q sp s k (by intro comp t; simp) (by simp) hk
  simp only [Prod.mk.injEq] at key
  apply key
  (repeat' split) <;> simp

theorem execFirmwareLoad_keeps (q : Call) (length : Nat) (slot : Nat) (image : Option FwImage) (s : State) :
    (stateOf s (execFirmwareLoad q length slot image s)).pending = s.pending ∧
    (stateOf s (execFirmwareLoad q length slot image s)).ident = s.ident ∧
    (stateOf s (execFirmwareLoad q length slot image s)).sck = s.sck ∧
    (stateOf s (execFirmwareLoad q length slot image s)).arc = s.arc ∧
    (stateOf s (execFirmwareLoad q length slot image s)).pln = s.pln ∧
    (stateOf s (execFirmwareLoad q length slot image s)).fe = s.fe ∧
    (stateOf s (execFirmwareLoad q length slot image s)).key = s.key ∧
    (stateOf s (execFirmwareLoad q length slot image s)).pke = s.pke ∧
    (stateOf s (execFirmwareLoad q length slot image s)).rnu = s.rnu ∧
    (stateOf s (execFirmwareLoad q length slot image s)).tls = s.tls ∧
    (stateOf s (execFirmwareLoad q length slot image s)).ac = s.ac ∧
    (stateOf s (execFirmwareLoad q length slot image s)).tm = s.tm ∧
    (stateOf s (execFirmwareLoad q length slot image s)).lcc = s.lcc ∧
    (stateOf s (execFirmwareLoad q length slot image s)).stc = s.stc ∧
    (stateOf s (execFirmwareLoad q length slot image s)).io = s.io ∧
    (stateOf s (execFirmwareLoad q length slot image s)).ev = s.ev ∧
    (stateOf s (execFirmwareLoad q length slot image s)).rw = s.rw ∧
    (stateOf s (execFirmwareLoad q length slot image s)).store = s.store ∧
    (stateOf s (execFirmwareLoad q length slot image s)).writes = s.writes ∧
    (stateOf s (execFirmwareLoad q length slot image s)).free = s.free := by
  simp only [execFirmwareLoad, stateOf_next]
  have key : ∀ op sp k, (fun t : State => (t.pending, t.ident, t.sck, t.arc, t.pln, t.fe, t.key, t.pke, t.rnu, t.tls, t.ac, t.tm, t.lcc, t.stc, t.io, t.ev, t.rw, t.store, t.writes, t.free)) ((k s : OpOut).after s) = (fun t : State => (t.pending, t.ident, t.sck, t.arc, t.pln, t.fe, t.key, t.pke, t.rnu, t.tls, t.ac, t.tm, t.lcc, t.stc, t.io, t.ev, t.rw, t.store, t.writes, t.free)) s →
      (fun t : State => (t.pending, t.ident, t.sck, t.arc, t.pln, t.fe, t.key, t.pke, t.rnu, t.tls, t.ac, t.tm, t.lcc, t.stc, t.io, t.ev, t.rw, t.store, t.writes, t.free)) (runOp op q sp s k) = (fun t : State => (t.pending, t.ident, t.sck, t.arc, t.pln, t.fe, t.key, t.pke, t.rnu, t.tls, t.ac, t.tm, t.lcc, t.stc, t.io, t.ev, t.rw, t.store, t.writes, t.free)) s := fun op sp k hk =>
    runOp_keeps (fun t : State => (t.pending, t.ident, t.sck, t.arc, t.pln, t.fe, t.key, t.pke, t.rnu, t.tls, t.ac, t.tm, t.lcc, t.stc, t.io, t.ev, t.rw, t.store, t.writes, t.free)) op q sp s k (by intro comp t; simp) (by simp) hk
  simp only [Prod.mk.injEq] at key
  apply key
  (repeat' split) <;> simp

theorem execFirmwareSelect_keeps (q : Call) (slot : Nat) (s : State) :
    (stateOf s (execFirmwareSelect q slot s)).pending = s.pending ∧ (stateOf s (execFirmwareSelect q slot s)).ident = s.ident ∧
    (stateOf s (execFirmwareSelect q slot s)).sck = s.sck ∧ (stateOf s (execFirmwareSelect q slot s)).arc = s.arc ∧
    (stateOf s (execFirmwareSelect q slot s)).pln = s.pln ∧ (stateOf s (execFirmwareSelect q slot s)).fe = s.fe ∧
    (stateOf s (execFirmwareSelect q slot s)).key = s.key ∧ (stateOf s (execFirmwareSelect q slot s)).pke = s.pke ∧
    (stateOf s (execFirmwareSelect q slot s)).rnu = s.rnu ∧ (stateOf s (execFirmwareSelect q slot s)).tls = s.tls ∧
    (stateOf s (execFirmwareSelect q slot s)).ac = s.ac ∧ (stateOf s (execFirmwareSelect q slot s)).tm = s.tm ∧
    (stateOf s (execFirmwareSelect q slot s)).lcc = s.lcc ∧ (stateOf s (execFirmwareSelect q slot s)).stc = s.stc ∧
    (stateOf s (execFirmwareSelect q slot s)).io = s.io ∧ (stateOf s (execFirmwareSelect q slot s)).ev = s.ev ∧
    (stateOf s (execFirmwareSelect q slot s)).rw = s.rw ∧ (stateOf s (execFirmwareSelect q slot s)).store = s.store ∧
    (stateOf s (execFirmwareSelect q slot s)).writes = s.writes ∧ (stateOf s (execFirmwareSelect q slot s)).free = s.free := by
  simp only [execFirmwareSelect, stateOf_next]
  have key : ∀ op sp k, (fun t : State => (t.pending, t.ident, t.sck, t.arc, t.pln, t.fe, t.key, t.pke, t.rnu, t.tls, t.ac, t.tm, t.lcc, t.stc, t.io, t.ev, t.rw, t.store, t.writes, t.free)) ((k s : OpOut).after s) = (fun t : State => (t.pending, t.ident, t.sck, t.arc, t.pln, t.fe, t.key, t.pke, t.rnu, t.tls, t.ac, t.tm, t.lcc, t.stc, t.io, t.ev, t.rw, t.store, t.writes, t.free)) s →
      (fun t : State => (t.pending, t.ident, t.sck, t.arc, t.pln, t.fe, t.key, t.pke, t.rnu, t.tls, t.ac, t.tm, t.lcc, t.stc, t.io, t.ev, t.rw, t.store, t.writes, t.free)) (runOp op q sp s k) = (fun t : State => (t.pending, t.ident, t.sck, t.arc, t.pln, t.fe, t.key, t.pke, t.rnu, t.tls, t.ac, t.tm, t.lcc, t.stc, t.io, t.ev, t.rw, t.store, t.writes, t.free)) s := fun op sp k hk =>
    runOp_keeps (fun t : State => (t.pending, t.ident, t.sck, t.arc, t.pln, t.fe, t.key, t.pke, t.rnu, t.tls, t.ac, t.tm, t.lcc, t.stc, t.io, t.ev, t.rw, t.store, t.writes, t.free)) op q sp s k (by intro comp t; simp) (by simp) hk
  simp only [Prod.mk.injEq] at key
  apply key
  (repeat' split) <;> simp

theorem execFirmwareTrialCommit_keeps (s : State) :
    (stateOf s (execFirmwareTrialCommit s)).pending = s.pending ∧ (stateOf s (execFirmwareTrialCommit s)).ident = s.ident ∧
    (stateOf s (execFirmwareTrialCommit s)).sck = s.sck ∧ (stateOf s (execFirmwareTrialCommit s)).pln = s.pln ∧
    (stateOf s (execFirmwareTrialCommit s)).fe = s.fe ∧ (stateOf s (execFirmwareTrialCommit s)).ts = s.ts ∧
    (stateOf s (execFirmwareTrialCommit s)).key = s.key ∧ (stateOf s (execFirmwareTrialCommit s)).pke = s.pke ∧
    (stateOf s (execFirmwareTrialCommit s)).rnu = s.rnu ∧ (stateOf s (execFirmwareTrialCommit s)).tls = s.tls ∧
    (stateOf s (execFirmwareTrialCommit s)).ac = s.ac ∧ (stateOf s (execFirmwareTrialCommit s)).tm = s.tm ∧
    (stateOf s (execFirmwareTrialCommit s)).lcc = s.lcc ∧ (stateOf s (execFirmwareTrialCommit s)).stc = s.stc ∧
    (stateOf s (execFirmwareTrialCommit s)).io = s.io ∧ (stateOf s (execFirmwareTrialCommit s)).rw = s.rw ∧
    (stateOf s (execFirmwareTrialCommit s)).store = s.store ∧ (stateOf s (execFirmwareTrialCommit s)).writes = s.writes ∧
    (stateOf s (execFirmwareTrialCommit s)).free = s.free := by
  simp only [execFirmwareTrialCommit, onMain]
  (repeat' split) <;> simp

end Sys2Proof.Machine
end

