-- ==== Sys2Proof/Laws/KeepPkOps.lean ====
section
/-! SUPPORT. What each meaning of Machine/PkOps.lean leaves unchanged in every state, once for each command. -/

namespace Sys2Proof.Machine

theorem execEcdsaSign_keeps (q : Call) (handle : Nat) (message : Bool) (input : Bytes) (s : State) :
    (stateOf s (execEcdsaSign q handle message input s)).pending = s.pending ∧
    (stateOf s (execEcdsaSign q handle message input s)).ident = s.ident ∧
    (stateOf s (execEcdsaSign q handle message input s)).sck = s.sck ∧
    (stateOf s (execEcdsaSign q handle message input s)).arc = s.arc ∧
    (stateOf s (execEcdsaSign q handle message input s)).pln = s.pln ∧
    (stateOf s (execEcdsaSign q handle message input s)).fe = s.fe ∧
    (stateOf s (execEcdsaSign q handle message input s)).key = s.key ∧
    (stateOf s (execEcdsaSign q handle message input s)).tls = s.tls ∧
    (stateOf s (execEcdsaSign q handle message input s)).ac = s.ac ∧
    (stateOf s (execEcdsaSign q handle message input s)).tm = s.tm ∧
    (stateOf s (execEcdsaSign q handle message input s)).lcc = s.lcc ∧
    (stateOf s (execEcdsaSign q handle message input s)).stc = s.stc ∧
    (stateOf s (execEcdsaSign q handle message input s)).pwr = s.pwr ∧
    (stateOf s (execEcdsaSign q handle message input s)).io = s.io ∧
    (stateOf s (execEcdsaSign q handle message input s)).rw = s.rw ∧
    (stateOf s (execEcdsaSign q handle message input s)).store = s.store ∧
    (stateOf s (execEcdsaSign q handle message input s)).writes = s.writes := by
  simp only [execEcdsaSign, stateOf_next]
  have key : ∀ op sp k, (fun t : State => (t.pending, t.ident, t.sck, t.arc, t.pln, t.fe, t.key, t.tls, t.ac, t.tm, t.lcc, t.stc, t.pwr, t.io, t.rw, t.store, t.writes)) ((k s : OpOut).after s) = (fun t : State => (t.pending, t.ident, t.sck, t.arc, t.pln, t.fe, t.key, t.tls, t.ac, t.tm, t.lcc, t.stc, t.pwr, t.io, t.rw, t.store, t.writes)) s →
      (fun t : State => (t.pending, t.ident, t.sck, t.arc, t.pln, t.fe, t.key, t.tls, t.ac, t.tm, t.lcc, t.stc, t.pwr, t.io, t.rw, t.store, t.writes)) (runOp op q sp s k) = (fun t : State => (t.pending, t.ident, t.sck, t.arc, t.pln, t.fe, t.key, t.tls, t.ac, t.tm, t.lcc, t.stc, t.pwr, t.io, t.rw, t.store, t.writes)) s := fun op sp k hk =>
    runOp_keeps (fun t : State => (t.pending, t.ident, t.sck, t.arc, t.pln, t.fe, t.key, t.tls, t.ac, t.tm, t.lcc, t.stc, t.pwr, t.io, t.rw, t.store, t.writes)) op q sp s k (by intro comp t; simp) (by simp) hk
  simp only [Prod.mk.injEq] at key
  apply key
  simp only [needOut, runMasked, withDraw, withKey]
  (repeat' split) <;> simp

theorem execEcdsaVerify_keeps (q : Call) (curve : Nat) (message : Bool) (input : Bytes) (s : State) :
    (stateOf s (execEcdsaVerify q curve message input s)).pending = s.pending ∧
    (stateOf s (execEcdsaVerify q curve message input s)).ident = s.ident ∧
    (stateOf s (execEcdsaVerify q curve message input s)).sck = s.sck ∧
    (stateOf s (execEcdsaVerify q curve message input s)).arc = s.arc ∧
    (stateOf s (execEcdsaVerify q curve message input s)).pln = s.pln ∧
    (stateOf s (execEcdsaVerify q curve message input s)).fe = s.fe ∧
    (stateOf s (execEcdsaVerify q curve message input s)).key = s.key ∧
    (stateOf s (execEcdsaVerify q curve message input s)).rnu = s.rnu ∧
    (stateOf s (execEcdsaVerify q curve message input s)).tls = s.tls ∧
    (stateOf s (execEcdsaVerify q curve message input s)).ac = s.ac ∧
    (stateOf s (execEcdsaVerify q curve message input s)).tm = s.tm ∧
    (stateOf s (execEcdsaVerify q curve message input s)).lcc = s.lcc ∧
    (stateOf s (execEcdsaVerify q curve message input s)).stc = s.stc ∧
    (stateOf s (execEcdsaVerify q curve message input s)).pwr = s.pwr ∧
    (stateOf s (execEcdsaVerify q curve message input s)).io = s.io ∧
    (stateOf s (execEcdsaVerify q curve message input s)).rw = s.rw ∧
    (stateOf s (execEcdsaVerify q curve message input s)).store = s.store ∧
    (stateOf s (execEcdsaVerify q curve message input s)).writes = s.writes ∧
    (stateOf s (execEcdsaVerify q curve message input s)).free = s.free := by
  simp only [execEcdsaVerify, stateOf_next]
  have key : ∀ op sp k, (fun t : State => (t.pending, t.ident, t.sck, t.arc, t.pln, t.fe, t.key, t.rnu, t.tls, t.ac, t.tm, t.lcc, t.stc, t.pwr, t.io, t.rw, t.store, t.writes, t.free)) ((k s : OpOut).after s) = (fun t : State => (t.pending, t.ident, t.sck, t.arc, t.pln, t.fe, t.key, t.rnu, t.tls, t.ac, t.tm, t.lcc, t.stc, t.pwr, t.io, t.rw, t.store, t.writes, t.free)) s →
      (fun t : State => (t.pending, t.ident, t.sck, t.arc, t.pln, t.fe, t.key, t.rnu, t.tls, t.ac, t.tm, t.lcc, t.stc, t.pwr, t.io, t.rw, t.store, t.writes, t.free)) (runOp op q sp s k) = (fun t : State => (t.pending, t.ident, t.sck, t.arc, t.pln, t.fe, t.key, t.rnu, t.tls, t.ac, t.tm, t.lcc, t.stc, t.pwr, t.io, t.rw, t.store, t.writes, t.free)) s := fun op sp k hk =>
    runOp_keeps (fun t : State => (t.pending, t.ident, t.sck, t.arc, t.pln, t.fe, t.key, t.rnu, t.tls, t.ac, t.tm, t.lcc, t.stc, t.pwr, t.io, t.rw, t.store, t.writes, t.free)) op q sp s k (by intro comp t; simp) (by simp) hk
  simp only [Prod.mk.injEq] at key
  apply key
  (repeat' split) <;> simp

theorem execEddsaSign_keeps (q : Call) (handle : Nat) (input : Bytes) (s : State) :
    (stateOf s (execEddsaSign q handle input s)).pending = s.pending ∧
    (stateOf s (execEddsaSign q handle input s)).ident = s.ident ∧ (stateOf s (execEddsaSign q handle input s)).sck = s.sck ∧
    (stateOf s (execEddsaSign q handle input s)).arc = s.arc ∧ (stateOf s (execEddsaSign q handle input s)).pln = s.pln ∧
    (stateOf s (execEddsaSign q handle input s)).fe = s.fe ∧ (stateOf s (execEddsaSign q handle input s)).key = s.key ∧
    (stateOf s (execEddsaSign q handle input s)).tls = s.tls ∧ (stateOf s (execEddsaSign q handle input s)).ac = s.ac ∧
    (stateOf s (execEddsaSign q handle input s)).tm = s.tm ∧ (stateOf s (execEddsaSign q handle input s)).lcc = s.lcc ∧
    (stateOf s (execEddsaSign q handle input s)).stc = s.stc ∧ (stateOf s (execEddsaSign q handle input s)).pwr = s.pwr ∧
    (stateOf s (execEddsaSign q handle input s)).io = s.io ∧ (stateOf s (execEddsaSign q handle input s)).rw = s.rw ∧
    (stateOf s (execEddsaSign q handle input s)).store = s.store ∧
    (stateOf s (execEddsaSign q handle input s)).writes = s.writes := by
  simp only [execEddsaSign, stateOf_next]
  have key : ∀ op sp k, (fun t : State => (t.pending, t.ident, t.sck, t.arc, t.pln, t.fe, t.key, t.tls, t.ac, t.tm, t.lcc, t.stc, t.pwr, t.io, t.rw, t.store, t.writes)) ((k s : OpOut).after s) = (fun t : State => (t.pending, t.ident, t.sck, t.arc, t.pln, t.fe, t.key, t.tls, t.ac, t.tm, t.lcc, t.stc, t.pwr, t.io, t.rw, t.store, t.writes)) s →
      (fun t : State => (t.pending, t.ident, t.sck, t.arc, t.pln, t.fe, t.key, t.tls, t.ac, t.tm, t.lcc, t.stc, t.pwr, t.io, t.rw, t.store, t.writes)) (runOp op q sp s k) = (fun t : State => (t.pending, t.ident, t.sck, t.arc, t.pln, t.fe, t.key, t.tls, t.ac, t.tm, t.lcc, t.stc, t.pwr, t.io, t.rw, t.store, t.writes)) s := fun op sp k hk =>
    runOp_keeps (fun t : State => (t.pending, t.ident, t.sck, t.arc, t.pln, t.fe, t.key, t.tls, t.ac, t.tm, t.lcc, t.stc, t.pwr, t.io, t.rw, t.store, t.writes)) op q sp s k (by intro comp t; simp) (by simp) hk
  simp only [Prod.mk.injEq] at key
  apply key
  simp only [runMasked, withDraw, withKey]
  (repeat' split) <;> simp

theorem execEddsaVerify_keeps (q : Call) (input : Bytes) (s : State) :
    (stateOf s (execEddsaVerify q input s)).pending = s.pending ∧ (stateOf s (execEddsaVerify q input s)).ident = s.ident ∧
    (stateOf s (execEddsaVerify q input s)).sck = s.sck ∧ (stateOf s (execEddsaVerify q input s)).arc = s.arc ∧
    (stateOf s (execEddsaVerify q input s)).pln = s.pln ∧ (stateOf s (execEddsaVerify q input s)).fe = s.fe ∧
    (stateOf s (execEddsaVerify q input s)).key = s.key ∧ (stateOf s (execEddsaVerify q input s)).rnu = s.rnu ∧
    (stateOf s (execEddsaVerify q input s)).tls = s.tls ∧ (stateOf s (execEddsaVerify q input s)).ac = s.ac ∧
    (stateOf s (execEddsaVerify q input s)).tm = s.tm ∧ (stateOf s (execEddsaVerify q input s)).lcc = s.lcc ∧
    (stateOf s (execEddsaVerify q input s)).stc = s.stc ∧ (stateOf s (execEddsaVerify q input s)).pwr = s.pwr ∧
    (stateOf s (execEddsaVerify q input s)).io = s.io ∧ (stateOf s (execEddsaVerify q input s)).rw = s.rw ∧
    (stateOf s (execEddsaVerify q input s)).store = s.store ∧ (stateOf s (execEddsaVerify q input s)).writes = s.writes ∧
    (stateOf s (execEddsaVerify q input s)).free = s.free := by
  simp only [execEddsaVerify, stateOf_next]
  have key : ∀ op sp k, (fun t : State => (t.pending, t.ident, t.sck, t.arc, t.pln, t.fe, t.key, t.rnu, t.tls, t.ac, t.tm, t.lcc, t.stc, t.pwr, t.io, t.rw, t.store, t.writes, t.free)) ((k s : OpOut).after s) = (fun t : State => (t.pending, t.ident, t.sck, t.arc, t.pln, t.fe, t.key, t.rnu, t.tls, t.ac, t.tm, t.lcc, t.stc, t.pwr, t.io, t.rw, t.store, t.writes, t.free)) s →
      (fun t : State => (t.pending, t.ident, t.sck, t.arc, t.pln, t.fe, t.key, t.rnu, t.tls, t.ac, t.tm, t.lcc, t.stc, t.pwr, t.io, t.rw, t.store, t.writes, t.free)) (runOp op q sp s k) = (fun t : State => (t.pending, t.ident, t.sck, t.arc, t.pln, t.fe, t.key, t.rnu, t.tls, t.ac, t.tm, t.lcc, t.stc, t.pwr, t.io, t.rw, t.store, t.writes, t.free)) s := fun op sp k hk =>
    runOp_keeps (fun t : State => (t.pending, t.ident, t.sck, t.arc, t.pln, t.fe, t.key, t.rnu, t.tls, t.ac, t.tm, t.lcc, t.stc, t.pwr, t.io, t.rw, t.store, t.writes, t.free)) op q sp s k (by intro comp t; simp) (by simp) hk
  simp only [Prod.mk.injEq] at key
  apply key
  (repeat' split) <;> simp

theorem execKeyAgree_keeps (q : Call) (handle : Nat) (input : Bytes) (s : State) :
    (stateOf s (execKeyAgree q handle input s)).pending = s.pending ∧
    (stateOf s (execKeyAgree q handle input s)).ident = s.ident ∧ (stateOf s (execKeyAgree q handle input s)).sck = s.sck ∧
    (stateOf s (execKeyAgree q handle input s)).arc = s.arc ∧ (stateOf s (execKeyAgree q handle input s)).pln = s.pln ∧
    (stateOf s (execKeyAgree q handle input s)).fe = s.fe ∧ (stateOf s (execKeyAgree q handle input s)).key = s.key ∧
    (stateOf s (execKeyAgree q handle input s)).tls = s.tls ∧ (stateOf s (execKeyAgree q handle input s)).ac = s.ac ∧
    (stateOf s (execKeyAgree q handle input s)).tm = s.tm ∧ (stateOf s (execKeyAgree q handle input s)).lcc = s.lcc ∧
    (stateOf s (execKeyAgree q handle input s)).stc = s.stc ∧ (stateOf s (execKeyAgree q handle input s)).pwr = s.pwr ∧
    (stateOf s (execKeyAgree q handle input s)).io = s.io ∧ (stateOf s (execKeyAgree q handle input s)).rw = s.rw ∧
    (stateOf s (execKeyAgree q handle input s)).store = s.store ∧
    (stateOf s (execKeyAgree q handle input s)).writes = s.writes := by
  simp only [execKeyAgree, stateOf_next]
  have key : ∀ op sp k, (fun t : State => (t.pending, t.ident, t.sck, t.arc, t.pln, t.fe, t.key, t.tls, t.ac, t.tm, t.lcc, t.stc, t.pwr, t.io, t.rw, t.store, t.writes)) ((k s : OpOut).after s) = (fun t : State => (t.pending, t.ident, t.sck, t.arc, t.pln, t.fe, t.key, t.tls, t.ac, t.tm, t.lcc, t.stc, t.pwr, t.io, t.rw, t.store, t.writes)) s →
      (fun t : State => (t.pending, t.ident, t.sck, t.arc, t.pln, t.fe, t.key, t.tls, t.ac, t.tm, t.lcc, t.stc, t.pwr, t.io, t.rw, t.store, t.writes)) (runOp op q sp s k) = (fun t : State => (t.pending, t.ident, t.sck, t.arc, t.pln, t.fe, t.key, t.tls, t.ac, t.tm, t.lcc, t.stc, t.pwr, t.io, t.rw, t.store, t.writes)) s := fun op sp k hk =>
    runOp_keeps (fun t : State => (t.pending, t.ident, t.sck, t.arc, t.pln, t.fe, t.key, t.tls, t.ac, t.tm, t.lcc, t.stc, t.pwr, t.io, t.rw, t.store, t.writes)) op q sp s k (by intro comp t; simp) (by simp) hk
  simp only [Prod.mk.injEq] at key
  apply key
  simp only [agreeMont, agreePoint, needOut, runMasked, withDraw, withKey]
  (repeat' split) <;> simp

theorem execPointValidate_keeps (q : Call) (curve : Nat) (input : Bytes) (s : State) :
    (stateOf s (execPointValidate q curve input s)).pending = s.pending ∧
    (stateOf s (execPointValidate q curve input s)).ident = s.ident ∧
    (stateOf s (execPointValidate q curve input s)).sck = s.sck ∧ (stateOf s (execPointValidate q curve input s)).arc = s.arc ∧
    (stateOf s (execPointValidate q curve input s)).pln = s.pln ∧ (stateOf s (execPointValidate q curve input s)).fe = s.fe ∧
    (stateOf s (execPointValidate q curve input s)).key = s.key ∧ (stateOf s (execPointValidate q curve input s)).rnu = s.rnu ∧
    (stateOf s (execPointValidate q curve input s)).tls = s.tls ∧ (stateOf s (execPointValidate q curve input s)).ac = s.ac ∧
    (stateOf s (execPointValidate q curve input s)).tm = s.tm ∧ (stateOf s (execPointValidate q curve input s)).lcc = s.lcc ∧
    (stateOf s (execPointValidate q curve input s)).stc = s.stc ∧ (stateOf s (execPointValidate q curve input s)).pwr = s.pwr ∧
    (stateOf s (execPointValidate q curve input s)).io = s.io ∧ (stateOf s (execPointValidate q curve input s)).rw = s.rw ∧
    (stateOf s (execPointValidate q curve input s)).store = s.store ∧
    (stateOf s (execPointValidate q curve input s)).writes = s.writes ∧
    (stateOf s (execPointValidate q curve input s)).free = s.free := by
  simp only [execPointValidate, stateOf_next]
  have key : ∀ op sp k, (fun t : State => (t.pending, t.ident, t.sck, t.arc, t.pln, t.fe, t.key, t.rnu, t.tls, t.ac, t.tm, t.lcc, t.stc, t.pwr, t.io, t.rw, t.store, t.writes, t.free)) ((k s : OpOut).after s) = (fun t : State => (t.pending, t.ident, t.sck, t.arc, t.pln, t.fe, t.key, t.rnu, t.tls, t.ac, t.tm, t.lcc, t.stc, t.pwr, t.io, t.rw, t.store, t.writes, t.free)) s →
      (fun t : State => (t.pending, t.ident, t.sck, t.arc, t.pln, t.fe, t.key, t.rnu, t.tls, t.ac, t.tm, t.lcc, t.stc, t.pwr, t.io, t.rw, t.store, t.writes, t.free)) (runOp op q sp s k) = (fun t : State => (t.pending, t.ident, t.sck, t.arc, t.pln, t.fe, t.key, t.rnu, t.tls, t.ac, t.tm, t.lcc, t.stc, t.pwr, t.io, t.rw, t.store, t.writes, t.free)) s := fun op sp k hk =>
    runOp_keeps (fun t : State => (t.pending, t.ident, t.sck, t.arc, t.pln, t.fe, t.key, t.rnu, t.tls, t.ac, t.tm, t.lcc, t.stc, t.pwr, t.io, t.rw, t.store, t.writes, t.free)) op q sp s k (by intro comp t; simp) (by simp) hk
  simp only [Prod.mk.injEq] at key
  apply key
  (repeat' split) <;> simp

theorem execRsaSign_keeps (q : Call) (handle : Nat) (pad : Nat) (hash : Nat) (salt : Nat) (input : Bytes) (s : State) :
    (stateOf s (execRsaSign q handle pad hash salt input s)).pending = s.pending ∧
    (stateOf s (execRsaSign q handle pad hash salt input s)).ident = s.ident ∧
    (stateOf s (execRsaSign q handle pad hash salt input s)).sck = s.sck ∧
    (stateOf s (execRsaSign q handle pad hash salt input s)).arc = s.arc ∧
    (stateOf s (execRsaSign q handle pad hash salt input s)).pln = s.pln ∧
    (stateOf s (execRsaSign q handle pad hash salt input s)).fe = s.fe ∧
    (stateOf s (execRsaSign q handle pad hash salt input s)).key = s.key ∧
    (stateOf s (execRsaSign q handle pad hash salt input s)).tls = s.tls ∧
    (stateOf s (execRsaSign q handle pad hash salt input s)).ac = s.ac ∧
    (stateOf s (execRsaSign q handle pad hash salt input s)).tm = s.tm ∧
    (stateOf s (execRsaSign q handle pad hash salt input s)).lcc = s.lcc ∧
    (stateOf s (execRsaSign q handle pad hash salt input s)).stc = s.stc ∧
    (stateOf s (execRsaSign q handle pad hash salt input s)).pwr = s.pwr ∧
    (stateOf s (execRsaSign q handle pad hash salt input s)).io = s.io ∧
    (stateOf s (execRsaSign q handle pad hash salt input s)).rw = s.rw ∧
    (stateOf s (execRsaSign q handle pad hash salt input s)).store = s.store ∧
    (stateOf s (execRsaSign q handle pad hash salt input s)).writes = s.writes := by
  simp only [execRsaSign, stateOf_next]
  have key : ∀ op sp k, (fun t : State => (t.pending, t.ident, t.sck, t.arc, t.pln, t.fe, t.key, t.tls, t.ac, t.tm, t.lcc, t.stc, t.pwr, t.io, t.rw, t.store, t.writes)) ((k s : OpOut).after s) = (fun t : State => (t.pending, t.ident, t.sck, t.arc, t.pln, t.fe, t.key, t.tls, t.ac, t.tm, t.lcc, t.stc, t.pwr, t.io, t.rw, t.store, t.writes)) s →
      (fun t : State => (t.pending, t.ident, t.sck, t.arc, t.pln, t.fe, t.key, t.tls, t.ac, t.tm, t.lcc, t.stc, t.pwr, t.io, t.rw, t.store, t.writes)) (runOp op q sp s k) = (fun t : State => (t.pending, t.ident, t.sck, t.arc, t.pln, t.fe, t.key, t.tls, t.ac, t.tm, t.lcc, t.stc, t.pwr, t.io, t.rw, t.store, t.writes)) s := fun op sp k hk =>
    runOp_keeps (fun t : State => (t.pending, t.ident, t.sck, t.arc, t.pln, t.fe, t.key, t.tls, t.ac, t.tm, t.lcc, t.stc, t.pwr, t.io, t.rw, t.store, t.writes)) op q sp s k (by intro comp t; simp) (by simp) hk
  simp only [Prod.mk.injEq] at key
  apply key
  simp only [needOut, withDraw, withKey]
  (repeat' split) <;> simp

theorem execRsaDecrypt_keeps (q : Call) (handle : Nat) (pad : Nat) (hash : Nat) (salt : Nat) (input : Bytes) (s : State) :
    (stateOf s (execRsaDecrypt q handle pad hash salt input s)).pending = s.pending ∧
    (stateOf s (execRsaDecrypt q handle pad hash salt input s)).ident = s.ident ∧
    (stateOf s (execRsaDecrypt q handle pad hash salt input s)).sck = s.sck ∧
    (stateOf s (execRsaDecrypt q handle pad hash salt input s)).arc = s.arc ∧
    (stateOf s (execRsaDecrypt q handle pad hash salt input s)).pln = s.pln ∧
    (stateOf s (execRsaDecrypt q handle pad hash salt input s)).fe = s.fe ∧
    (stateOf s (execRsaDecrypt q handle pad hash salt input s)).key = s.key ∧
    (stateOf s (execRsaDecrypt q handle pad hash salt input s)).rnu = s.rnu ∧
    (stateOf s (execRsaDecrypt q handle pad hash salt input s)).tls = s.tls ∧
    (stateOf s (execRsaDecrypt q handle pad hash salt input s)).ac = s.ac ∧
    (stateOf s (execRsaDecrypt q handle pad hash salt input s)).tm = s.tm ∧
    (stateOf s (execRsaDecrypt q handle pad hash salt input s)).lcc = s.lcc ∧
    (stateOf s (execRsaDecrypt q handle pad hash salt input s)).stc = s.stc ∧
    (stateOf s (execRsaDecrypt q handle pad hash salt input s)).pwr = s.pwr ∧
    (stateOf s (execRsaDecrypt q handle pad hash salt input s)).io = s.io ∧
    (stateOf s (execRsaDecrypt q handle pad hash salt input s)).rw = s.rw ∧
    (stateOf s (execRsaDecrypt q handle pad hash salt input s)).store = s.store ∧
    (stateOf s (execRsaDecrypt q handle pad hash salt input s)).writes = s.writes ∧
    (stateOf s (execRsaDecrypt q handle pad hash salt input s)).free = s.free := by
  simp only [execRsaDecrypt, stateOf_next]
  have key : ∀ op sp k, (fun t : State => (t.pending, t.ident, t.sck, t.arc, t.pln, t.fe, t.key, t.rnu, t.tls, t.ac, t.tm, t.lcc, t.stc, t.pwr, t.io, t.rw, t.store, t.writes, t.free)) ((k s : OpOut).after s) = (fun t : State => (t.pending, t.ident, t.sck, t.arc, t.pln, t.fe, t.key, t.rnu, t.tls, t.ac, t.tm, t.lcc, t.stc, t.pwr, t.io, t.rw, t.store, t.writes, t.free)) s →
      (fun t : State => (t.pending, t.ident, t.sck, t.arc, t.pln, t.fe, t.key, t.rnu, t.tls, t.ac, t.tm, t.lcc, t.stc, t.pwr, t.io, t.rw, t.store, t.writes, t.free)) (runOp op q sp s k) = (fun t : State => (t.pending, t.ident, t.sck, t.arc, t.pln, t.fe, t.key, t.rnu, t.tls, t.ac, t.tm, t.lcc, t.stc, t.pwr, t.io, t.rw, t.store, t.writes, t.free)) s := fun op sp k hk =>
    runOp_keeps (fun t : State => (t.pending, t.ident, t.sck, t.arc, t.pln, t.fe, t.key, t.rnu, t.tls, t.ac, t.tm, t.lcc, t.stc, t.pwr, t.io, t.rw, t.store, t.writes, t.free)) op q sp s k (by intro comp t; simp) (by simp) hk
  simp only [Prod.mk.injEq] at key
  apply key
  simp only [needOut, withDraw, withKey]
  (repeat' split) <;> simp

theorem execRsaVerify_keeps (q : Call) (len : Nat) (pad : Nat) (hash : Nat) (salt : Nat) (input : Bytes) (s : State) :
    (stateOf s (execRsaVerify q len pad hash salt input s)).pending = s.pending ∧
    (stateOf s (execRsaVerify q len pad hash salt input s)).ident = s.ident ∧
    (stateOf s (execRsaVerify q len pad hash salt input s)).sck = s.sck ∧
    (stateOf s (execRsaVerify q len pad hash salt input s)).arc = s.arc ∧
    (stateOf s (execRsaVerify q len pad hash salt input s)).pln = s.pln ∧
    (stateOf s (execRsaVerify q len pad hash salt input s)).fe = s.fe ∧
    (stateOf s (execRsaVerify q len pad hash salt input s)).key = s.key ∧
    (stateOf s (execRsaVerify q len pad hash salt input s)).rnu = s.rnu ∧
    (stateOf s (execRsaVerify q len pad hash salt input s)).tls = s.tls ∧
    (stateOf s (execRsaVerify q len pad hash salt input s)).ac = s.ac ∧
    (stateOf s (execRsaVerify q len pad hash salt input s)).tm = s.tm ∧
    (stateOf s (execRsaVerify q len pad hash salt input s)).lcc = s.lcc ∧
    (stateOf s (execRsaVerify q len pad hash salt input s)).stc = s.stc ∧
    (stateOf s (execRsaVerify q len pad hash salt input s)).pwr = s.pwr ∧
    (stateOf s (execRsaVerify q len pad hash salt input s)).io = s.io ∧
    (stateOf s (execRsaVerify q len pad hash salt input s)).rw = s.rw ∧
    (stateOf s (execRsaVerify q len pad hash salt input s)).store = s.store ∧
    (stateOf s (execRsaVerify q len pad hash salt input s)).writes = s.writes ∧
    (stateOf s (execRsaVerify q len pad hash salt input s)).free = s.free := by
  simp only [execRsaVerify, stateOf_next]
  have key : ∀ op sp k, (fun t : State => (t.pending, t.ident, t.sck, t.arc, t.pln, t.fe, t.key, t.rnu, t.tls, t.ac, t.tm, t.lcc, t.stc, t.pwr, t.io, t.rw, t.store, t.writes, t.free)) ((k s : OpOut).after s) = (fun t : State => (t.pending, t.ident, t.sck, t.arc, t.pln, t.fe, t.key, t.rnu, t.tls, t.ac, t.tm, t.lcc, t.stc, t.pwr, t.io, t.rw, t.store, t.writes, t.free)) s →
      (fun t : State => (t.pending, t.ident, t.sck, t.arc, t.pln, t.fe, t.key, t.rnu, t.tls, t.ac, t.tm, t.lcc, t.stc, t.pwr, t.io, t.rw, t.store, t.writes, t.free)) (runOp op q sp s k) = (fun t : State => (t.pending, t.ident, t.sck, t.arc, t.pln, t.fe, t.key, t.rnu, t.tls, t.ac, t.tm, t.lcc, t.stc, t.pwr, t.io, t.rw, t.store, t.writes, t.free)) s := fun op sp k hk =>
    runOp_keeps (fun t : State => (t.pending, t.ident, t.sck, t.arc, t.pln, t.fe, t.key, t.rnu, t.tls, t.ac, t.tm, t.lcc, t.stc, t.pwr, t.io, t.rw, t.store, t.writes, t.free)) op q sp s k (by intro comp t; simp) (by simp) hk
  simp only [Prod.mk.injEq] at key
  apply key
  (repeat' split) <;> simp

theorem execRsaEncrypt_keeps (q : Call) (len : Nat) (pad : Nat) (hash : Nat) (salt : Nat) (input : Bytes) (s : State) :
    (stateOf s (execRsaEncrypt q len pad hash salt input s)).pending = s.pending ∧
    (stateOf s (execRsaEncrypt q len pad hash salt input s)).ident = s.ident ∧
    (stateOf s (execRsaEncrypt q len pad hash salt input s)).sck = s.sck ∧
    (stateOf s (execRsaEncrypt q len pad hash salt input s)).arc = s.arc ∧
    (stateOf s (execRsaEncrypt q len pad hash salt input s)).pln = s.pln ∧
    (stateOf s (execRsaEncrypt q len pad hash salt input s)).fe = s.fe ∧
    (stateOf s (execRsaEncrypt q len pad hash salt input s)).key = s.key ∧
    (stateOf s (execRsaEncrypt q len pad hash salt input s)).tls = s.tls ∧
    (stateOf s (execRsaEncrypt q len pad hash salt input s)).ac = s.ac ∧
    (stateOf s (execRsaEncrypt q len pad hash salt input s)).tm = s.tm ∧
    (stateOf s (execRsaEncrypt q len pad hash salt input s)).lcc = s.lcc ∧
    (stateOf s (execRsaEncrypt q len pad hash salt input s)).stc = s.stc ∧
    (stateOf s (execRsaEncrypt q len pad hash salt input s)).pwr = s.pwr ∧
    (stateOf s (execRsaEncrypt q len pad hash salt input s)).io = s.io ∧
    (stateOf s (execRsaEncrypt q len pad hash salt input s)).rw = s.rw ∧
    (stateOf s (execRsaEncrypt q len pad hash salt input s)).store = s.store ∧
    (stateOf s (execRsaEncrypt q len pad hash salt input s)).writes = s.writes := by
  simp only [execRsaEncrypt, stateOf_next]
  have key : ∀ op sp k, (fun t : State => (t.pending, t.ident, t.sck, t.arc, t.pln, t.fe, t.key, t.tls, t.ac, t.tm, t.lcc, t.stc, t.pwr, t.io, t.rw, t.store, t.writes)) ((k s : OpOut).after s) = (fun t : State => (t.pending, t.ident, t.sck, t.arc, t.pln, t.fe, t.key, t.tls, t.ac, t.tm, t.lcc, t.stc, t.pwr, t.io, t.rw, t.store, t.writes)) s →
      (fun t : State => (t.pending, t.ident, t.sck, t.arc, t.pln, t.fe, t.key, t.tls, t.ac, t.tm, t.lcc, t.stc, t.pwr, t.io, t.rw, t.store, t.writes)) (runOp op q sp s k) = (fun t : State => (t.pending, t.ident, t.sck, t.arc, t.pln, t.fe, t.key, t.tls, t.ac, t.tm, t.lcc, t.stc, t.pwr, t.io, t.rw, t.store, t.writes)) s := fun op sp k hk =>
    runOp_keeps (fun t : State => (t.pending, t.ident, t.sck, t.arc, t.pln, t.fe, t.key, t.tls, t.ac, t.tm, t.lcc, t.stc, t.pwr, t.io, t.rw, t.store, t.writes)) op q sp s k (by intro comp t; simp) (by simp) hk
  simp only [Prod.mk.injEq] at key
  apply key
  simp only [withDraw]
  (repeat' split) <;> simp

theorem execCurveLoad_keeps (q : Call) (input : Bytes) (s : State) :
    (stateOf s (execCurveLoad q input s)).pending = s.pending ∧ (stateOf s (execCurveLoad q input s)).ident = s.ident ∧
    (stateOf s (execCurveLoad q input s)).sck = s.sck ∧ (stateOf s (execCurveLoad q input s)).arc = s.arc ∧
    (stateOf s (execCurveLoad q input s)).pln = s.pln ∧ (stateOf s (execCurveLoad q input s)).fe = s.fe ∧
    (stateOf s (execCurveLoad q input s)).key = s.key ∧ (stateOf s (execCurveLoad q input s)).tls = s.tls ∧
    (stateOf s (execCurveLoad q input s)).ac = s.ac ∧ (stateOf s (execCurveLoad q input s)).tm = s.tm ∧
    (stateOf s (execCurveLoad q input s)).lcc = s.lcc ∧ (stateOf s (execCurveLoad q input s)).stc = s.stc ∧
    (stateOf s (execCurveLoad q input s)).pwr = s.pwr ∧ (stateOf s (execCurveLoad q input s)).io = s.io ∧
    (stateOf s (execCurveLoad q input s)).rw = s.rw ∧ (stateOf s (execCurveLoad q input s)).store = s.store ∧
    (stateOf s (execCurveLoad q input s)).writes = s.writes := by
  simp only [execCurveLoad, stateOf_next]
  have key : ∀ op sp k, (fun t : State => (t.pending, t.ident, t.sck, t.arc, t.pln, t.fe, t.key, t.tls, t.ac, t.tm, t.lcc, t.stc, t.pwr, t.io, t.rw, t.store, t.writes)) ((k s : OpOut).after s) = (fun t : State => (t.pending, t.ident, t.sck, t.arc, t.pln, t.fe, t.key, t.tls, t.ac, t.tm, t.lcc, t.stc, t.pwr, t.io, t.rw, t.store, t.writes)) s →
      (fun t : State => (t.pending, t.ident, t.sck, t.arc, t.pln, t.fe, t.key, t.tls, t.ac, t.tm, t.lcc, t.stc, t.pwr, t.io, t.rw, t.store, t.writes)) (runOp op q sp s k) = (fun t : State => (t.pending, t.ident, t.sck, t.arc, t.pln, t.fe, t.key, t.tls, t.ac, t.tm, t.lcc, t.stc, t.pwr, t.io, t.rw, t.store, t.writes)) s := fun op sp k hk =>
    runOp_keeps (fun t : State => (t.pending, t.ident, t.sck, t.arc, t.pln, t.fe, t.key, t.tls, t.ac, t.tm, t.lcc, t.stc, t.pwr, t.io, t.rw, t.store, t.writes)) op q sp s k (by intro comp t; simp) (by simp) hk
  simp only [Prod.mk.injEq] at key
  apply key
  simp only [runMasked, withDraw]
  (repeat' split) <;> simp

theorem execCurveUnload_keeps (q : Call) (curve : Nat) (s : State) :
    (stateOf s (execCurveUnload q curve s)).pending = s.pending ∧ (stateOf s (execCurveUnload q curve s)).ident = s.ident ∧
    (stateOf s (execCurveUnload q curve s)).sck = s.sck ∧ (stateOf s (execCurveUnload q curve s)).arc = s.arc ∧
    (stateOf s (execCurveUnload q curve s)).pln = s.pln ∧ (stateOf s (execCurveUnload q curve s)).fe = s.fe ∧
    (stateOf s (execCurveUnload q curve s)).key = s.key ∧ (stateOf s (execCurveUnload q curve s)).rnu = s.rnu ∧
    (stateOf s (execCurveUnload q curve s)).tls = s.tls ∧ (stateOf s (execCurveUnload q curve s)).ac = s.ac ∧
    (stateOf s (execCurveUnload q curve s)).tm = s.tm ∧ (stateOf s (execCurveUnload q curve s)).lcc = s.lcc ∧
    (stateOf s (execCurveUnload q curve s)).stc = s.stc ∧ (stateOf s (execCurveUnload q curve s)).pwr = s.pwr ∧
    (stateOf s (execCurveUnload q curve s)).io = s.io ∧ (stateOf s (execCurveUnload q curve s)).ev = s.ev ∧
    (stateOf s (execCurveUnload q curve s)).rw = s.rw ∧ (stateOf s (execCurveUnload q curve s)).store = s.store ∧
    (stateOf s (execCurveUnload q curve s)).writes = s.writes ∧ (stateOf s (execCurveUnload q curve s)).free = s.free := by
  simp only [execCurveUnload, stateOf_next]
  have key : ∀ op sp k, (fun t : State => (t.pending, t.ident, t.sck, t.arc, t.pln, t.fe, t.key, t.rnu, t.tls, t.ac, t.tm, t.lcc, t.stc, t.pwr, t.io, t.ev, t.rw, t.store, t.writes, t.free)) ((k s : OpOut).after s) = (fun t : State => (t.pending, t.ident, t.sck, t.arc, t.pln, t.fe, t.key, t.rnu, t.tls, t.ac, t.tm, t.lcc, t.stc, t.pwr, t.io, t.ev, t.rw, t.store, t.writes, t.free)) s →
      (fun t : State => (t.pending, t.ident, t.sck, t.arc, t.pln, t.fe, t.key, t.rnu, t.tls, t.ac, t.tm, t.lcc, t.stc, t.pwr, t.io, t.ev, t.rw, t.store, t.writes, t.free)) (runOp op q sp s k) = (fun t : State => (t.pending, t.ident, t.sck, t.arc, t.pln, t.fe, t.key, t.rnu, t.tls, t.ac, t.tm, t.lcc, t.stc, t.pwr, t.io, t.ev, t.rw, t.store, t.writes, t.free)) s := fun op sp k hk =>
    runOp_keeps (fun t : State => (t.pending, t.ident, t.sck, t.arc, t.pln, t.fe, t.key, t.rnu, t.tls, t.ac, t.tm, t.lcc, t.stc, t.pwr, t.io, t.ev, t.rw, t.store, t.writes, t.free)) op q sp s k (by intro comp t; simp) (by simp) hk
  simp only [Prod.mk.injEq] at key
  apply key
  (repeat' split) <;> simp

theorem execSequence_keeps (q : Call) (block : Bytes) (input : Bytes) (s : State) :
    (stateOf s (execSequence q block input s)).pending = s.pending ∧
    (stateOf s (execSequence q block input s)).ident = s.ident ∧ (stateOf s (execSequence q block input s)).sck = s.sck ∧
    (stateOf s (execSequence q block input s)).fe = s.fe ∧ (stateOf s (execSequence q block input s)).key = s.key ∧
    (stateOf s (execSequence q block input s)).rnu = s.rnu ∧ (stateOf s (execSequence q block input s)).tls = s.tls ∧
    (stateOf s (execSequence q block input s)).ac = s.ac ∧ (stateOf s (execSequence q block input s)).tm = s.tm ∧
    (stateOf s (execSequence q block input s)).lcc = s.lcc ∧ (stateOf s (execSequence q block input s)).stc = s.stc ∧
    (stateOf s (execSequence q block input s)).io = s.io ∧ (stateOf s (execSequence q block input s)).rw = s.rw ∧
    (stateOf s (execSequence q block input s)).store = s.store ∧ (stateOf s (execSequence q block input s)).writes = s.writes := by
  simp only [execSequence]
  split
  · simp only [onMain]
    split <;> simp
  · simp only [stateOf_next]
    have key : ∀ op sp k, (fun t : State => (t.pending, t.ident, t.sck, t.fe, t.key, t.rnu, t.tls, t.ac, t.tm, t.lcc, t.stc, t.io, t.rw, t.store, t.writes)) ((k s : OpOut).after s) = (fun t : State => (t.pending, t.ident, t.sck, t.fe, t.key, t.rnu, t.tls, t.ac, t.tm, t.lcc, t.stc, t.io, t.rw, t.store, t.writes)) s →
        (fun t : State => (t.pending, t.ident, t.sck, t.fe, t.key, t.rnu, t.tls, t.ac, t.tm, t.lcc, t.stc, t.io, t.rw, t.store, t.writes)) (runOp op q sp s k) = (fun t : State => (t.pending, t.ident, t.sck, t.fe, t.key, t.rnu, t.tls, t.ac, t.tm, t.lcc, t.stc, t.io, t.rw, t.store, t.writes)) s := fun op sp k hk =>
      runOp_keeps (fun t : State => (t.pending, t.ident, t.sck, t.fe, t.key, t.rnu, t.tls, t.ac, t.tm, t.lcc, t.stc, t.io, t.rw, t.store, t.writes)) op q sp s k (by intro comp t; simp) (by simp) hk
    simp only [Prod.mk.injEq] at key
    apply key
    (repeat' split) <;> simp

end Sys2Proof.Machine
end

