-- ==== Sys2Proof/Laws/KeepPke.lean ====
section
/-! SUPPORT. What each meaning of Machine/Pke.lean leaves unchanged in every state, once for each command. -/

namespace Sys2Proof.Machine

theorem execPkeAbort_keeps (engine : Nat) (cause : Nat) (s : State) :
    (stateOf s (execPkeAbort engine cause s)).pending = s.pending ∧ (stateOf s (execPkeAbort engine cause s)).ident = s.ident ∧
    (stateOf s (execPkeAbort engine cause s)).sck = s.sck ∧ (stateOf s (execPkeAbort engine cause s)).ac = s.ac ∧
    (stateOf s (execPkeAbort engine cause s)).pwr = s.pwr ∧ (stateOf s (execPkeAbort engine cause s)).rw = s.rw ∧
    (stateOf s (execPkeAbort engine cause s)).store = s.store ∧ (stateOf s (execPkeAbort engine cause s)).writes = s.writes ∧
    (stateOf s (execPkeAbort engine cause s)).free = s.free := by
  simp only [execPkeAbort, onMain]
  (repeat' split) <;> simp

theorem execPkeAbortRelease_keeps (engine : Nat) (s : State) :
    (stateOf s (execPkeAbortRelease engine s)).pending = s.pending ∧
    (stateOf s (execPkeAbortRelease engine s)).ident = s.ident ∧ (stateOf s (execPkeAbortRelease engine s)).sck = s.sck ∧
    (stateOf s (execPkeAbortRelease engine s)).arc = s.arc ∧ (stateOf s (execPkeAbortRelease engine s)).pln = s.pln ∧
    (stateOf s (execPkeAbortRelease engine s)).fe = s.fe ∧ (stateOf s (execPkeAbortRelease engine s)).hif = s.hif ∧
    (stateOf s (execPkeAbortRelease engine s)).ts = s.ts ∧ (stateOf s (execPkeAbortRelease engine s)).key = s.key ∧
    (stateOf s (execPkeAbortRelease engine s)).rnu = s.rnu ∧ (stateOf s (execPkeAbortRelease engine s)).tls = s.tls ∧
    (stateOf s (execPkeAbortRelease engine s)).ac = s.ac ∧ (stateOf s (execPkeAbortRelease engine s)).tm = s.tm ∧
    (stateOf s (execPkeAbortRelease engine s)).lcc = s.lcc ∧ (stateOf s (execPkeAbortRelease engine s)).stc = s.stc ∧
    (stateOf s (execPkeAbortRelease engine s)).pwr = s.pwr ∧ (stateOf s (execPkeAbortRelease engine s)).io = s.io ∧
    (stateOf s (execPkeAbortRelease engine s)).ev = s.ev ∧ (stateOf s (execPkeAbortRelease engine s)).rw = s.rw ∧
    (stateOf s (execPkeAbortRelease engine s)).store = s.store ∧ (stateOf s (execPkeAbortRelease engine s)).writes = s.writes ∧
    (stateOf s (execPkeAbortRelease engine s)).out = s.out ∧ (stateOf s (execPkeAbortRelease engine s)).free = s.free := by
  simp only [execPkeAbortRelease, onMain]
  (repeat' split) <;> simp

theorem execPkeOperationStart_keeps (engine : Nat) (s : State) :
    (stateOf s (execPkeOperationStart engine s)).pending = s.pending ∧
    (stateOf s (execPkeOperationStart engine s)).ident = s.ident ∧ (stateOf s (execPkeOperationStart engine s)).sck = s.sck ∧
    (stateOf s (execPkeOperationStart engine s)).arc = s.arc ∧ (stateOf s (execPkeOperationStart engine s)).pln = s.pln ∧
    (stateOf s (execPkeOperationStart engine s)).fe = s.fe ∧ (stateOf s (execPkeOperationStart engine s)).hif = s.hif ∧
    (stateOf s (execPkeOperationStart engine s)).ts = s.ts ∧ (stateOf s (execPkeOperationStart engine s)).key = s.key ∧
    (stateOf s (execPkeOperationStart engine s)).rnu = s.rnu ∧ (stateOf s (execPkeOperationStart engine s)).tls = s.tls ∧
    (stateOf s (execPkeOperationStart engine s)).ac = s.ac ∧ (stateOf s (execPkeOperationStart engine s)).tm = s.tm ∧
    (stateOf s (execPkeOperationStart engine s)).lcc = s.lcc ∧ (stateOf s (execPkeOperationStart engine s)).stc = s.stc ∧
    (stateOf s (execPkeOperationStart engine s)).pwr = s.pwr ∧ (stateOf s (execPkeOperationStart engine s)).io = s.io ∧
    (stateOf s (execPkeOperationStart engine s)).ev = s.ev ∧ (stateOf s (execPkeOperationStart engine s)).rw = s.rw ∧
    (stateOf s (execPkeOperationStart engine s)).store = s.store ∧
    (stateOf s (execPkeOperationStart engine s)).writes = s.writes ∧ (stateOf s (execPkeOperationStart engine s)).out = s.out ∧
    (stateOf s (execPkeOperationStart engine s)).free = s.free := by
  simp only [execPkeOperationStart, onMain]
  (repeat' split) <;> simp

theorem execPkeValidationEnd_keeps (engine : Nat) (s : State) :
    (stateOf s (execPkeValidationEnd engine s)).pending = s.pending ∧
    (stateOf s (execPkeValidationEnd engine s)).ident = s.ident ∧ (stateOf s (execPkeValidationEnd engine s)).sck = s.sck ∧
    (stateOf s (execPkeValidationEnd engine s)).arc = s.arc ∧ (stateOf s (execPkeValidationEnd engine s)).pln = s.pln ∧
    (stateOf s (execPkeValidationEnd engine s)).fe = s.fe ∧ (stateOf s (execPkeValidationEnd engine s)).rnu = s.rnu ∧
    (stateOf s (execPkeValidationEnd engine s)).tls = s.tls ∧ (stateOf s (execPkeValidationEnd engine s)).ac = s.ac ∧
    (stateOf s (execPkeValidationEnd engine s)).tm = s.tm ∧ (stateOf s (execPkeValidationEnd engine s)).lcc = s.lcc ∧
    (stateOf s (execPkeValidationEnd engine s)).stc = s.stc ∧ (stateOf s (execPkeValidationEnd engine s)).pwr = s.pwr ∧
    (stateOf s (execPkeValidationEnd engine s)).io = s.io ∧ (stateOf s (execPkeValidationEnd engine s)).ev = s.ev ∧
    (stateOf s (execPkeValidationEnd engine s)).rw = s.rw ∧ (stateOf s (execPkeValidationEnd engine s)).store = s.store ∧
    (stateOf s (execPkeValidationEnd engine s)).writes = s.writes ∧ (stateOf s (execPkeValidationEnd engine s)).free = s.free := by
  simp only [execPkeValidationEnd, onMain]
  (repeat' split) <;> simp

theorem execPkeOperationFinish_keeps (engine : Nat) (upset : Bool) (s : State) :
    (stateOf s (execPkeOperationFinish engine upset s)).pending = s.pending ∧
    (stateOf s (execPkeOperationFinish engine upset s)).ident = s.ident ∧
    (stateOf s (execPkeOperationFinish engine upset s)).sck = s.sck ∧
    (stateOf s (execPkeOperationFinish engine upset s)).ac = s.ac ∧
    (stateOf s (execPkeOperationFinish engine upset s)).pwr = s.pwr ∧
    (stateOf s (execPkeOperationFinish engine upset s)).rw = s.rw ∧
    (stateOf s (execPkeOperationFinish engine upset s)).store = s.store ∧
    (stateOf s (execPkeOperationFinish engine upset s)).writes = s.writes ∧
    (stateOf s (execPkeOperationFinish engine upset s)).free = s.free := by
  simp only [execPkeOperationFinish, onMain]
  (repeat' split) <;> simp

theorem execPkeSetmod_keeps (engine : Nat) (c : PkeCmd) (s : State) :
    (stateOf s (execPkeSetmod engine c s)).pending = s.pending ∧ (stateOf s (execPkeSetmod engine c s)).ident = s.ident ∧
    (stateOf s (execPkeSetmod engine c s)).sck = s.sck ∧ (stateOf s (execPkeSetmod engine c s)).ac = s.ac ∧
    (stateOf s (execPkeSetmod engine c s)).pwr = s.pwr ∧ (stateOf s (execPkeSetmod engine c s)).rw = s.rw ∧
    (stateOf s (execPkeSetmod engine c s)).store = s.store ∧ (stateOf s (execPkeSetmod engine c s)).writes = s.writes := by
  simp only [execPkeSetmod, onMain]
  (repeat' split) <;> simp

theorem execPkeLoadkey_keeps (engine : Nat) (c : PkeCmd) (s : State) :
    (stateOf s (execPkeLoadkey engine c s)).pending = s.pending ∧ (stateOf s (execPkeLoadkey engine c s)).ident = s.ident ∧
    (stateOf s (execPkeLoadkey engine c s)).sck = s.sck ∧ (stateOf s (execPkeLoadkey engine c s)).ac = s.ac ∧
    (stateOf s (execPkeLoadkey engine c s)).pwr = s.pwr ∧ (stateOf s (execPkeLoadkey engine c s)).rw = s.rw ∧
    (stateOf s (execPkeLoadkey engine c s)).store = s.store ∧ (stateOf s (execPkeLoadkey engine c s)).writes = s.writes := by
  simp only [execPkeLoadkey, onMain]
  (repeat' split) <;> simp

theorem execPkeStore_keeps (engine : Nat) (c : PkeCmd) (s : State) :
    (stateOf s (execPkeStore engine c s)).pending = s.pending ∧ (stateOf s (execPkeStore engine c s)).ident = s.ident ∧
    (stateOf s (execPkeStore engine c s)).sck = s.sck ∧ (stateOf s (execPkeStore engine c s)).ac = s.ac ∧
    (stateOf s (execPkeStore engine c s)).pwr = s.pwr ∧ (stateOf s (execPkeStore engine c s)).rw = s.rw ∧
    (stateOf s (execPkeStore engine c s)).store = s.store ∧ (stateOf s (execPkeStore engine c s)).writes = s.writes := by
  simp only [execPkeStore, onMain]
  (repeat' split) <;> simp

theorem execPkeMmul_keeps (engine : Nat) (c : PkeCmd) (s : State) :
    (stateOf s (execPkeMmul engine c s)).pending = s.pending ∧ (stateOf s (execPkeMmul engine c s)).ident = s.ident ∧
    (stateOf s (execPkeMmul engine c s)).sck = s.sck ∧ (stateOf s (execPkeMmul engine c s)).ac = s.ac ∧
    (stateOf s (execPkeMmul engine c s)).pwr = s.pwr ∧ (stateOf s (execPkeMmul engine c s)).rw = s.rw ∧
    (stateOf s (execPkeMmul engine c s)).store = s.store ∧ (stateOf s (execPkeMmul engine c s)).writes = s.writes := by
  simp only [execPkeMmul, onMain]
  (repeat' split) <;> simp

theorem execPkeMadd_keeps (engine : Nat) (c : PkeCmd) (s : State) :
    (stateOf s (execPkeMadd engine c s)).pending = s.pending ∧ (stateOf s (execPkeMadd engine c s)).ident = s.ident ∧
    (stateOf s (execPkeMadd engine c s)).sck = s.sck ∧ (stateOf s (execPkeMadd engine c s)).ac = s.ac ∧
    (stateOf s (execPkeMadd engine c s)).pwr = s.pwr ∧ (stateOf s (execPkeMadd engine c s)).rw = s.rw ∧
    (stateOf s (execPkeMadd engine c s)).store = s.store ∧ (stateOf s (execPkeMadd engine c s)).writes = s.writes := by
  simp only [execPkeMadd, onMain]
  (repeat' split) <;> simp

theorem execPkeMsub_keeps (engine : Nat) (c : PkeCmd) (s : State) :
    (stateOf s (execPkeMsub engine c s)).pending = s.pending ∧ (stateOf s (execPkeMsub engine c s)).ident = s.ident ∧
    (stateOf s (execPkeMsub engine c s)).sck = s.sck ∧ (stateOf s (execPkeMsub engine c s)).ac = s.ac ∧
    (stateOf s (execPkeMsub engine c s)).pwr = s.pwr ∧ (stateOf s (execPkeMsub engine c s)).rw = s.rw ∧
    (stateOf s (execPkeMsub engine c s)).store = s.store ∧ (stateOf s (execPkeMsub engine c s)).writes = s.writes := by
  simp only [execPkeMsub, onMain]
  (repeat' split) <;> simp

theorem execPkeMac_keeps (engine : Nat) (c : PkeCmd) (s : State) :
    (stateOf s (execPkeMac engine c s)).pending = s.pending ∧ (stateOf s (execPkeMac engine c s)).ident = s.ident ∧
    (stateOf s (execPkeMac engine c s)).sck = s.sck ∧ (stateOf s (execPkeMac engine c s)).ac = s.ac ∧
    (stateOf s (execPkeMac engine c s)).pwr = s.pwr ∧ (stateOf s (execPkeMac engine c s)).rw = s.rw ∧
    (stateOf s (execPkeMac engine c s)).store = s.store ∧ (stateOf s (execPkeMac engine c s)).writes = s.writes := by
  simp only [execPkeMac, onMain]
  (repeat' split) <;> simp

theorem execPkeCswap_keeps (engine : Nat) (c : PkeCmd) (s : State) :
    (stateOf s (execPkeCswap engine c s)).pending = s.pending ∧ (stateOf s (execPkeCswap engine c s)).ident = s.ident ∧
    (stateOf s (execPkeCswap engine c s)).sck = s.sck ∧ (stateOf s (execPkeCswap engine c s)).ac = s.ac ∧
    (stateOf s (execPkeCswap engine c s)).pwr = s.pwr ∧ (stateOf s (execPkeCswap engine c s)).rw = s.rw ∧
    (stateOf s (execPkeCswap engine c s)).store = s.store ∧ (stateOf s (execPkeCswap engine c s)).writes = s.writes := by
  simp only [execPkeCswap, onMain]
  (repeat' split) <;> simp

theorem execPkeTsel_keeps (engine : Nat) (c : PkeCmd) (s : State) :
    (stateOf s (execPkeTsel engine c s)).pending = s.pending ∧ (stateOf s (execPkeTsel engine c s)).ident = s.ident ∧
    (stateOf s (execPkeTsel engine c s)).sck = s.sck ∧ (stateOf s (execPkeTsel engine c s)).ac = s.ac ∧
    (stateOf s (execPkeTsel engine c s)).pwr = s.pwr ∧ (stateOf s (execPkeTsel engine c s)).rw = s.rw ∧
    (stateOf s (execPkeTsel engine c s)).store = s.store ∧ (stateOf s (execPkeTsel engine c s)).writes = s.writes := by
  simp only [execPkeTsel, onMain]
  (repeat' split) <;> simp

theorem execPkeCopy_keeps (engine : Nat) (c : PkeCmd) (s : State) :
    (stateOf s (execPkeCopy engine c s)).pending = s.pending ∧ (stateOf s (execPkeCopy engine c s)).ident = s.ident ∧
    (stateOf s (execPkeCopy engine c s)).sck = s.sck ∧ (stateOf s (execPkeCopy engine c s)).ac = s.ac ∧
    (stateOf s (execPkeCopy engine c s)).pwr = s.pwr ∧ (stateOf s (execPkeCopy engine c s)).rw = s.rw ∧
    (stateOf s (execPkeCopy engine c s)).store = s.store ∧ (stateOf s (execPkeCopy engine c s)).writes = s.writes := by
  simp only [execPkeCopy, onMain]
  (repeat' split) <;> simp

theorem execPkeSetc_keeps (engine : Nat) (c : PkeCmd) (s : State) :
    (stateOf s (execPkeSetc engine c s)).pending = s.pending ∧ (stateOf s (execPkeSetc engine c s)).ident = s.ident ∧
    (stateOf s (execPkeSetc engine c s)).sck = s.sck ∧ (stateOf s (execPkeSetc engine c s)).ac = s.ac ∧
    (stateOf s (execPkeSetc engine c s)).pwr = s.pwr ∧ (stateOf s (execPkeSetc engine c s)).rw = s.rw ∧
    (stateOf s (execPkeSetc engine c s)).store = s.store ∧ (stateOf s (execPkeSetc engine c s)).writes = s.writes := by
  simp only [execPkeSetc, onMain]
  (repeat' split) <;> simp

theorem execPkeCheck_keeps (engine : Nat) (c : PkeCmd) (s : State) :
    (stateOf s (execPkeCheck engine c s)).pending = s.pending ∧ (stateOf s (execPkeCheck engine c s)).ident = s.ident ∧
    (stateOf s (execPkeCheck engine c s)).sck = s.sck ∧ (stateOf s (execPkeCheck engine c s)).ac = s.ac ∧
    (stateOf s (execPkeCheck engine c s)).pwr = s.pwr ∧ (stateOf s (execPkeCheck engine c s)).rw = s.rw ∧
    (stateOf s (execPkeCheck engine c s)).store = s.store ∧ (stateOf s (execPkeCheck engine c s)).writes = s.writes := by
  simp only [execPkeCheck, onMain]
  (repeat' split) <;> simp

theorem execPkePcheck_keeps (engine : Nat) (c : PkeCmd) (s : State) :
    (stateOf s (execPkePcheck engine c s)).pending = s.pending ∧ (stateOf s (execPkePcheck engine c s)).ident = s.ident ∧
    (stateOf s (execPkePcheck engine c s)).sck = s.sck ∧ (stateOf s (execPkePcheck engine c s)).ac = s.ac ∧
    (stateOf s (execPkePcheck engine c s)).pwr = s.pwr ∧ (stateOf s (execPkePcheck engine c s)).rw = s.rw ∧
    (stateOf s (execPkePcheck engine c s)).store = s.store ∧ (stateOf s (execPkePcheck engine c s)).writes = s.writes := by
  simp only [execPkePcheck, onMain]
  (repeat' split) <;> simp

theorem execPkeEq_keeps (engine : Nat) (c : PkeCmd) (s : State) :
    (stateOf s (execPkeEq engine c s)).pending = s.pending ∧ (stateOf s (execPkeEq engine c s)).ident = s.ident ∧
    (stateOf s (execPkeEq engine c s)).sck = s.sck ∧ (stateOf s (execPkeEq engine c s)).ac = s.ac ∧
    (stateOf s (execPkeEq engine c s)).pwr = s.pwr ∧ (stateOf s (execPkeEq engine c s)).rw = s.rw ∧
    (stateOf s (execPkeEq engine c s)).store = s.store ∧ (stateOf s (execPkeEq engine c s)).writes = s.writes := by
  simp only [execPkeEq, onMain]
  (repeat' split) <;> simp

theorem execPkeEndv_keeps (engine : Nat) (c : PkeCmd) (s : State) :
    (stateOf s (execPkeEndv engine c s)).pending = s.pending ∧ (stateOf s (execPkeEndv engine c s)).ident = s.ident ∧
    (stateOf s (execPkeEndv engine c s)).sck = s.sck ∧ (stateOf s (execPkeEndv engine c s)).ac = s.ac ∧
    (stateOf s (execPkeEndv engine c s)).pwr = s.pwr ∧ (stateOf s (execPkeEndv engine c s)).rw = s.rw ∧
    (stateOf s (execPkeEndv engine c s)).store = s.store ∧ (stateOf s (execPkeEndv engine c s)).writes = s.writes ∧
    (stateOf s (execPkeEndv engine c s)).free = s.free := by
  simp only [execPkeEndv, onMain]
  (repeat' split) <;> simp

theorem execPkeRepeat_keeps (engine : Nat) (c : PkeCmd) (s : State) :
    (stateOf s (execPkeRepeat engine c s)).pending = s.pending ∧ (stateOf s (execPkeRepeat engine c s)).ident = s.ident ∧
    (stateOf s (execPkeRepeat engine c s)).sck = s.sck ∧ (stateOf s (execPkeRepeat engine c s)).ac = s.ac ∧
    (stateOf s (execPkeRepeat engine c s)).pwr = s.pwr ∧ (stateOf s (execPkeRepeat engine c s)).rw = s.rw ∧
    (stateOf s (execPkeRepeat engine c s)).store = s.store ∧ (stateOf s (execPkeRepeat engine c s)).writes = s.writes ∧
    (stateOf s (execPkeRepeat engine c s)).free = s.free := by
  simp only [execPkeRepeat, onMain]
  (repeat' split) <;> simp

theorem execPkeEnd_keeps (engine : Nat) (c : PkeCmd) (s : State) :
    (stateOf s (execPkeEnd engine c s)).pending = s.pending ∧ (stateOf s (execPkeEnd engine c s)).ident = s.ident ∧
    (stateOf s (execPkeEnd engine c s)).sck = s.sck ∧ (stateOf s (execPkeEnd engine c s)).ac = s.ac ∧
    (stateOf s (execPkeEnd engine c s)).pwr = s.pwr ∧ (stateOf s (execPkeEnd engine c s)).rw = s.rw ∧
    (stateOf s (execPkeEnd engine c s)).store = s.store ∧ (stateOf s (execPkeEnd engine c s)).writes = s.writes ∧
    (stateOf s (execPkeEnd engine c s)).free = s.free := by
  simp only [execPkeEnd, onMain]
  (repeat' split) <;> simp

end Sys2Proof.Machine
end

