-- ==== Sys2Proof/Laws/KeepPlan.lean ====
section
/-! SUPPORT. What each meaning of Machine/Plan.lean leaves unchanged in every state, once for each command. -/

namespace Sys2Proof.Machine

theorem execPlanLoad_keeps (q : Call) (length : Nat) (image : Option PlanImage) (s : State) :
    (stateOf s (execPlanLoad q length image s)).pending = s.pending ∧
    (stateOf s (execPlanLoad q length image s)).ident = s.ident ∧ (stateOf s (execPlanLoad q length image s)).sck = s.sck ∧
    (stateOf s (execPlanLoad q length image s)).fe = s.fe ∧ (stateOf s (execPlanLoad q length image s)).key = s.key ∧
    (stateOf s (execPlanLoad q length image s)).pke = s.pke ∧ (stateOf s (execPlanLoad q length image s)).rnu = s.rnu ∧
    (stateOf s (execPlanLoad q length image s)).tls = s.tls ∧ (stateOf s (execPlanLoad q length image s)).ac = s.ac ∧
    (stateOf s (execPlanLoad q length image s)).tm = s.tm ∧ (stateOf s (execPlanLoad q length image s)).lcc = s.lcc ∧
    (stateOf s (execPlanLoad q length image s)).stc = s.stc ∧ (stateOf s (execPlanLoad q length image s)).pwr = s.pwr ∧
    (stateOf s (execPlanLoad q length image s)).io = s.io ∧ (stateOf s (execPlanLoad q length image s)).rw = s.rw ∧
    (stateOf s (execPlanLoad q length image s)).store = s.store ∧
    (stateOf s (execPlanLoad q length image s)).writes = s.writes ∧ (stateOf s (execPlanLoad q length image s)).free = s.free := by
  simp only [execPlanLoad, stateOf_next]
  have key : ∀ op sp (r : State) k, (fun t : State => (t.pending, t.ident, t.sck, t.fe, t.key, t.pke, t.rnu, t.tls, t.ac, t.tm, t.lcc, t.stc, t.pwr, t.io, t.rw, t.store, t.writes, t.free)) ((k r : OpOut).after r) = (fun t : State => (t.pending, t.ident, t.sck, t.fe, t.key, t.pke, t.rnu, t.tls, t.ac, t.tm, t.lcc, t.stc, t.pwr, t.io, t.rw, t.store, t.writes, t.free)) r →
      (fun t : State => (t.pending, t.ident, t.sck, t.fe, t.key, t.pke, t.rnu, t.tls, t.ac, t.tm, t.lcc, t.stc, t.pwr, t.io, t.rw, t.store, t.writes, t.free)) (runOp op q sp r k) = (fun t : State => (t.pending, t.ident, t.sck, t.fe, t.key, t.pke, t.rnu, t.tls, t.ac, t.tm, t.lcc, t.stc, t.pwr, t.io, t.rw, t.store, t.writes, t.free)) r := fun op sp r k hk =>
    runOp_keeps (fun t : State => (t.pending, t.ident, t.sck, t.fe, t.key, t.pke, t.rnu, t.tls, t.ac, t.tm, t.lcc, t.stc, t.pwr, t.io, t.rw, t.store, t.writes, t.free)) op q sp r k (by intro comp t; simp) (by simp) hk
  simp only [Prod.mk.injEq] at key
  have h0 : ∀ c : Prop, ∀ [Decidable c], (if c then leaveLoading q.f 0 s else s).pending = s.pending ∧ (if c then leaveLoading q.f 0 s else s).ident = s.ident ∧ (if c then leaveLoading q.f 0 s else s).sck = s.sck ∧ (if c then leaveLoading q.f 0 s else s).fe = s.fe ∧ (if c then leaveLoading q.f 0 s else s).key = s.key ∧ (if c then leaveLoading q.f 0 s else s).pke = s.pke ∧ (if c then leaveLoading q.f 0 s else s).rnu = s.rnu ∧ (if c then leaveLoading q.f 0 s else s).tls = s.tls ∧ (if c then leaveLoading q.f 0 s else s).ac = s.ac ∧ (if c then leaveLoading q.f 0 s else s).tm = s.tm ∧ (if c then leaveLoading q.f 0 s else s).lcc = s.lcc ∧ (if c then leaveLoading q.f 0 s else s).stc = s.stc ∧ (if c then leaveLoading q.f 0 s else s).pwr = s.pwr ∧ (if c then leaveLoading q.f 0 s else s).io = s.io ∧ (if c then leaveLoading q.f 0 s else s).rw = s.rw ∧ (if c then leaveLoading q.f 0 s else s).store = s.store ∧ (if c then leaveLoading q.f 0 s else s).writes = s.writes ∧ (if c then leaveLoading q.f 0 s else s).free = s.free := by
    intro c _
    split <;> simp
  generalize hown : ((s.func q.f).dpCtx.isSome && (s.func q.f).dpCtx == s.ctxIdFor q) = own
  have hr := h0 (own && image.isSome && decide (1 ≤ s.level) && !staged q s)
  generalize (if own && image.isSome && decide (1 ≤ s.level) && !staged q s then leaveLoading q.f 0 s else s) = r at hr ⊢
  have h1 := key 0x0601 16 r
  simp only [hr] at h1
  apply h1
  split
  · simp [hr]
  · split
    · simp [hr]
    · split
      · rename_i p _ _ _
        have hb := beginLoad_frame q.f p own r
        simp only [hr] at hb
        simp only [hb, and_self]
      · split
        · rename_i p _ _ _ i _
          rw [endLoad_after _ _ _ _ _ r]
          simp [hr]
        · rename_i p _ _ _ i _
          have hb := beginLoad_frame q.f p own r
          simp only [hr] at hb
          split
          · rename_i s1 h2
            rw [h2] at hb
            simp only [after_running] at hb
            split
            · simp [hb]
            · split
              · rename_i p1 _ _
                rw [endLoad_after _ _ _ _ _ s1]
                simp [hb]
              · simp [hb]
          · simp only [hb, and_self]


theorem execPlanActivate_keeps (q : Call) (second : Nat) (rate : Nat) (slot : Nat) (s : State) :
    (stateOf s (execPlanActivate q second rate slot s)).pending = s.pending ∧
    (stateOf s (execPlanActivate q second rate slot s)).ident = s.ident ∧
    (stateOf s (execPlanActivate q second rate slot s)).sck = s.sck ∧
    (stateOf s (execPlanActivate q second rate slot s)).fe = s.fe ∧
    (stateOf s (execPlanActivate q second rate slot s)).key = s.key ∧
    (stateOf s (execPlanActivate q second rate slot s)).pke = s.pke ∧
    (stateOf s (execPlanActivate q second rate slot s)).rnu = s.rnu ∧
    (stateOf s (execPlanActivate q second rate slot s)).tls = s.tls ∧
    (stateOf s (execPlanActivate q second rate slot s)).ac = s.ac ∧
    (stateOf s (execPlanActivate q second rate slot s)).tm = s.tm ∧
    (stateOf s (execPlanActivate q second rate slot s)).lcc = s.lcc ∧
    (stateOf s (execPlanActivate q second rate slot s)).stc = s.stc ∧
    (stateOf s (execPlanActivate q second rate slot s)).pwr = s.pwr ∧
    (stateOf s (execPlanActivate q second rate slot s)).io = s.io ∧
    (stateOf s (execPlanActivate q second rate slot s)).ev = s.ev ∧
    (stateOf s (execPlanActivate q second rate slot s)).rw = s.rw ∧
    (stateOf s (execPlanActivate q second rate slot s)).store = s.store ∧
    (stateOf s (execPlanActivate q second rate slot s)).writes = s.writes ∧
    (stateOf s (execPlanActivate q second rate slot s)).free = s.free := by
  simp only [execPlanActivate, stateOf_next]
  have key : ∀ op sp k, (fun t : State => (t.pending, t.ident, t.sck, t.fe, t.key, t.pke, t.rnu, t.tls, t.ac, t.tm, t.lcc, t.stc, t.pwr, t.io, t.ev, t.rw, t.store, t.writes, t.free)) ((k s : OpOut).after s) = (fun t : State => (t.pending, t.ident, t.sck, t.fe, t.key, t.pke, t.rnu, t.tls, t.ac, t.tm, t.lcc, t.stc, t.pwr, t.io, t.ev, t.rw, t.store, t.writes, t.free)) s →
      (fun t : State => (t.pending, t.ident, t.sck, t.fe, t.key, t.pke, t.rnu, t.tls, t.ac, t.tm, t.lcc, t.stc, t.pwr, t.io, t.ev, t.rw, t.store, t.writes, t.free)) (runOp op q sp s k) = (fun t : State => (t.pending, t.ident, t.sck, t.fe, t.key, t.pke, t.rnu, t.tls, t.ac, t.tm, t.lcc, t.stc, t.pwr, t.io, t.ev, t.rw, t.store, t.writes, t.free)) s := fun op sp k hk =>
    runOp_keeps (fun t : State => (t.pending, t.ident, t.sck, t.fe, t.key, t.pke, t.rnu, t.tls, t.ac, t.tm, t.lcc, t.stc, t.pwr, t.io, t.ev, t.rw, t.store, t.writes, t.free)) op q sp s k (by intro comp t; simp) (by simp) hk
  simp only [Prod.mk.injEq] at key
  apply key
  (repeat' split) <;> simp

theorem execPlanRollback_keeps (q : Call) (second : Nat) (rate : Nat) (slot : Nat) (s : State) :
    (stateOf s (execPlanRollback q second rate slot s)).pending = s.pending ∧
    (stateOf s (execPlanRollback q second rate slot s)).ident = s.ident ∧
    (stateOf s (execPlanRollback q second rate slot s)).sck = s.sck ∧
    (stateOf s (execPlanRollback q second rate slot s)).fe = s.fe ∧
    (stateOf s (execPlanRollback q second rate slot s)).key = s.key ∧
    (stateOf s (execPlanRollback q second rate slot s)).pke = s.pke ∧
    (stateOf s (execPlanRollback q second rate slot s)).rnu = s.rnu ∧
    (stateOf s (execPlanRollback q second rate slot s)).tls = s.tls ∧
    (stateOf s (execPlanRollback q second rate slot s)).ac = s.ac ∧
    (stateOf s (execPlanRollback q second rate slot s)).tm = s.tm ∧
    (stateOf s (execPlanRollback q second rate slot s)).lcc = s.lcc ∧
    (stateOf s (execPlanRollback q second rate slot s)).stc = s.stc ∧
    (stateOf s (execPlanRollback q second rate slot s)).pwr = s.pwr ∧
    (stateOf s (execPlanRollback q second rate slot s)).io = s.io ∧
    (stateOf s (execPlanRollback q second rate slot s)).ev = s.ev ∧
    (stateOf s (execPlanRollback q second rate slot s)).rw = s.rw ∧
    (stateOf s (execPlanRollback q second rate slot s)).store = s.store ∧
    (stateOf s (execPlanRollback q second rate slot s)).writes = s.writes ∧
    (stateOf s (execPlanRollback q second rate slot s)).free = s.free := by
  simp only [execPlanRollback, stateOf_next]
  have key : ∀ op sp k, (fun t : State => (t.pending, t.ident, t.sck, t.fe, t.key, t.pke, t.rnu, t.tls, t.ac, t.tm, t.lcc, t.stc, t.pwr, t.io, t.ev, t.rw, t.store, t.writes, t.free)) ((k s : OpOut).after s) = (fun t : State => (t.pending, t.ident, t.sck, t.fe, t.key, t.pke, t.rnu, t.tls, t.ac, t.tm, t.lcc, t.stc, t.pwr, t.io, t.ev, t.rw, t.store, t.writes, t.free)) s →
      (fun t : State => (t.pending, t.ident, t.sck, t.fe, t.key, t.pke, t.rnu, t.tls, t.ac, t.tm, t.lcc, t.stc, t.pwr, t.io, t.ev, t.rw, t.store, t.writes, t.free)) (runOp op q sp s k) = (fun t : State => (t.pending, t.ident, t.sck, t.fe, t.key, t.pke, t.rnu, t.tls, t.ac, t.tm, t.lcc, t.stc, t.pwr, t.io, t.ev, t.rw, t.store, t.writes, t.free)) s := fun op sp k hk =>
    runOp_keeps (fun t : State => (t.pending, t.ident, t.sck, t.fe, t.key, t.pke, t.rnu, t.tls, t.ac, t.tm, t.lcc, t.stc, t.pwr, t.io, t.ev, t.rw, t.store, t.writes, t.free)) op q sp s k (by intro comp t; simp) (by simp) hk
  simp only [Prod.mk.injEq] at key
  apply key
  (repeat' split) <;> simp

theorem execPlanCancel_keeps (q : Call) (s : State) :
    (stateOf s (execPlanCancel q s)).pending = s.pending ∧ (stateOf s (execPlanCancel q s)).ident = s.ident ∧
    (stateOf s (execPlanCancel q s)).sck = s.sck ∧ (stateOf s (execPlanCancel q s)).fe = s.fe ∧
    (stateOf s (execPlanCancel q s)).key = s.key ∧ (stateOf s (execPlanCancel q s)).pke = s.pke ∧
    (stateOf s (execPlanCancel q s)).rnu = s.rnu ∧ (stateOf s (execPlanCancel q s)).tls = s.tls ∧
    (stateOf s (execPlanCancel q s)).ac = s.ac ∧ (stateOf s (execPlanCancel q s)).tm = s.tm ∧
    (stateOf s (execPlanCancel q s)).lcc = s.lcc ∧ (stateOf s (execPlanCancel q s)).stc = s.stc ∧
    (stateOf s (execPlanCancel q s)).pwr = s.pwr ∧ (stateOf s (execPlanCancel q s)).io = s.io ∧
    (stateOf s (execPlanCancel q s)).ev = s.ev ∧ (stateOf s (execPlanCancel q s)).rw = s.rw ∧
    (stateOf s (execPlanCancel q s)).store = s.store ∧ (stateOf s (execPlanCancel q s)).writes = s.writes ∧
    (stateOf s (execPlanCancel q s)).free = s.free := by
  simp only [execPlanCancel, stateOf_next]
  have key : ∀ op sp k, (fun t : State => (t.pending, t.ident, t.sck, t.fe, t.key, t.pke, t.rnu, t.tls, t.ac, t.tm, t.lcc, t.stc, t.pwr, t.io, t.ev, t.rw, t.store, t.writes, t.free)) ((k s : OpOut).after s) = (fun t : State => (t.pending, t.ident, t.sck, t.fe, t.key, t.pke, t.rnu, t.tls, t.ac, t.tm, t.lcc, t.stc, t.pwr, t.io, t.ev, t.rw, t.store, t.writes, t.free)) s →
      (fun t : State => (t.pending, t.ident, t.sck, t.fe, t.key, t.pke, t.rnu, t.tls, t.ac, t.tm, t.lcc, t.stc, t.pwr, t.io, t.ev, t.rw, t.store, t.writes, t.free)) (runOp op q sp s k) = (fun t : State => (t.pending, t.ident, t.sck, t.fe, t.key, t.pke, t.rnu, t.tls, t.ac, t.tm, t.lcc, t.stc, t.pwr, t.io, t.ev, t.rw, t.store, t.writes, t.free)) s := fun op sp k hk =>
    runOp_keeps (fun t : State => (t.pending, t.ident, t.sck, t.fe, t.key, t.pke, t.rnu, t.tls, t.ac, t.tm, t.lcc, t.stc, t.pwr, t.io, t.ev, t.rw, t.store, t.writes, t.free)) op q sp s k (by intro comp t; simp) (by simp) hk
  simp only [Prod.mk.injEq] at key
  apply key
  (repeat' split) <;> simp

theorem execPlanRead_keeps (q : Call) (copy : Nat) (s : State) :
    (stateOf s (execPlanRead q copy s)).pending = s.pending ∧ (stateOf s (execPlanRead q copy s)).ident = s.ident ∧
    (stateOf s (execPlanRead q copy s)).sck = s.sck ∧ (stateOf s (execPlanRead q copy s)).arc = s.arc ∧
    (stateOf s (execPlanRead q copy s)).pln = s.pln ∧ (stateOf s (execPlanRead q copy s)).fe = s.fe ∧
    (stateOf s (execPlanRead q copy s)).key = s.key ∧ (stateOf s (execPlanRead q copy s)).pke = s.pke ∧
    (stateOf s (execPlanRead q copy s)).rnu = s.rnu ∧ (stateOf s (execPlanRead q copy s)).tls = s.tls ∧
    (stateOf s (execPlanRead q copy s)).ac = s.ac ∧ (stateOf s (execPlanRead q copy s)).tm = s.tm ∧
    (stateOf s (execPlanRead q copy s)).lcc = s.lcc ∧ (stateOf s (execPlanRead q copy s)).stc = s.stc ∧
    (stateOf s (execPlanRead q copy s)).pwr = s.pwr ∧ (stateOf s (execPlanRead q copy s)).io = s.io ∧
    (stateOf s (execPlanRead q copy s)).ev = s.ev ∧ (stateOf s (execPlanRead q copy s)).rw = s.rw ∧
    (stateOf s (execPlanRead q copy s)).store = s.store ∧ (stateOf s (execPlanRead q copy s)).writes = s.writes ∧
    (stateOf s (execPlanRead q copy s)).free = s.free := by
  simp only [execPlanRead, stateOf_next]
  have key : ∀ op sp k, (fun t : State => (t.pending, t.ident, t.sck, t.arc, t.pln, t.fe, t.key, t.pke, t.rnu, t.tls, t.ac, t.tm, t.lcc, t.stc, t.pwr, t.io, t.ev, t.rw, t.store, t.writes, t.free)) ((k s : OpOut).after s) = (fun t : State => (t.pending, t.ident, t.sck, t.arc, t.pln, t.fe, t.key, t.pke, t.rnu, t.tls, t.ac, t.tm, t.lcc, t.stc, t.pwr, t.io, t.ev, t.rw, t.store, t.writes, t.free)) s →
      (fun t : State => (t.pending, t.ident, t.sck, t.arc, t.pln, t.fe, t.key, t.pke, t.rnu, t.tls, t.ac, t.tm, t.lcc, t.stc, t.pwr, t.io, t.ev, t.rw, t.store, t.writes, t.free)) (runOp op q sp s k) = (fun t : State => (t.pending, t.ident, t.sck, t.arc, t.pln, t.fe, t.key, t.pke, t.rnu, t.tls, t.ac, t.tm, t.lcc, t.stc, t.pwr, t.io, t.ev, t.rw, t.store, t.writes, t.free)) s := fun op sp k hk =>
    runOp_keeps (fun t : State => (t.pending, t.ident, t.sck, t.arc, t.pln, t.fe, t.key, t.pke, t.rnu, t.tls, t.ac, t.tm, t.lcc, t.stc, t.pwr, t.io, t.ev, t.rw, t.store, t.writes, t.free)) op q sp s k (by intro comp t; simp) (by simp) hk
  simp only [Prod.mk.injEq] at key
  apply key
  (repeat' split) <;> simp

theorem execPartitionAssign_keeps (q : Call) (fn : Nat) (base : Nat) (size : Nat) (s : State) :
    (stateOf s (execPartitionAssign q fn base size s)).pending = s.pending ∧
    (stateOf s (execPartitionAssign q fn base size s)).ident = s.ident ∧
    (stateOf s (execPartitionAssign q fn base size s)).sck = s.sck ∧
    (stateOf s (execPartitionAssign q fn base size s)).fe = s.fe ∧
    (stateOf s (execPartitionAssign q fn base size s)).key = s.key ∧
    (stateOf s (execPartitionAssign q fn base size s)).pke = s.pke ∧
    (stateOf s (execPartitionAssign q fn base size s)).rnu = s.rnu ∧
    (stateOf s (execPartitionAssign q fn base size s)).tls = s.tls ∧
    (stateOf s (execPartitionAssign q fn base size s)).ac = s.ac ∧
    (stateOf s (execPartitionAssign q fn base size s)).tm = s.tm ∧
    (stateOf s (execPartitionAssign q fn base size s)).lcc = s.lcc ∧
    (stateOf s (execPartitionAssign q fn base size s)).stc = s.stc ∧
    (stateOf s (execPartitionAssign q fn base size s)).pwr = s.pwr ∧
    (stateOf s (execPartitionAssign q fn base size s)).io = s.io ∧
    (stateOf s (execPartitionAssign q fn base size s)).ev = s.ev ∧
    (stateOf s (execPartitionAssign q fn base size s)).rw = s.rw ∧
    (stateOf s (execPartitionAssign q fn base size s)).store = s.store ∧
    (stateOf s (execPartitionAssign q fn base size s)).writes = s.writes ∧
    (stateOf s (execPartitionAssign q fn base size s)).free = s.free := by
  simp only [execPartitionAssign, stateOf_next]
  have key : ∀ op sp k, (fun t : State => (t.pending, t.ident, t.sck, t.fe, t.key, t.pke, t.rnu, t.tls, t.ac, t.tm, t.lcc, t.stc, t.pwr, t.io, t.ev, t.rw, t.store, t.writes, t.free)) ((k s : OpOut).after s) = (fun t : State => (t.pending, t.ident, t.sck, t.fe, t.key, t.pke, t.rnu, t.tls, t.ac, t.tm, t.lcc, t.stc, t.pwr, t.io, t.ev, t.rw, t.store, t.writes, t.free)) s →
      (fun t : State => (t.pending, t.ident, t.sck, t.fe, t.key, t.pke, t.rnu, t.tls, t.ac, t.tm, t.lcc, t.stc, t.pwr, t.io, t.ev, t.rw, t.store, t.writes, t.free)) (runOp op q sp s k) = (fun t : State => (t.pending, t.ident, t.sck, t.fe, t.key, t.pke, t.rnu, t.tls, t.ac, t.tm, t.lcc, t.stc, t.pwr, t.io, t.ev, t.rw, t.store, t.writes, t.free)) s := fun op sp k hk =>
    runOp_keeps (fun t : State => (t.pending, t.ident, t.sck, t.fe, t.key, t.pke, t.rnu, t.tls, t.ac, t.tm, t.lcc, t.stc, t.pwr, t.io, t.ev, t.rw, t.store, t.writes, t.free)) op q sp s k (by intro comp t; simp) (by simp) hk
  simp only [Prod.mk.injEq] at key
  apply key
  (repeat' split) <;> simp

theorem execPartitionRelease_keeps (q : Call) (fn : Nat) (second : Nat) (s : State) :
    (stateOf s (execPartitionRelease q fn second s)).pending = s.pending ∧
    (stateOf s (execPartitionRelease q fn second s)).ident = s.ident ∧
    (stateOf s (execPartitionRelease q fn second s)).sck = s.sck ∧ (stateOf s (execPartitionRelease q fn second s)).fe = s.fe ∧
    (stateOf s (execPartitionRelease q fn second s)).key = s.key ∧
    (stateOf s (execPartitionRelease q fn second s)).pke = s.pke ∧
    (stateOf s (execPartitionRelease q fn second s)).rnu = s.rnu ∧
    (stateOf s (execPartitionRelease q fn second s)).tls = s.tls ∧ (stateOf s (execPartitionRelease q fn second s)).ac = s.ac ∧
    (stateOf s (execPartitionRelease q fn second s)).tm = s.tm ∧ (stateOf s (execPartitionRelease q fn second s)).lcc = s.lcc ∧
    (stateOf s (execPartitionRelease q fn second s)).stc = s.stc ∧
    (stateOf s (execPartitionRelease q fn second s)).pwr = s.pwr ∧ (stateOf s (execPartitionRelease q fn second s)).io = s.io ∧
    (stateOf s (execPartitionRelease q fn second s)).ev = s.ev ∧ (stateOf s (execPartitionRelease q fn second s)).rw = s.rw ∧
    (stateOf s (execPartitionRelease q fn second s)).store = s.store ∧
    (stateOf s (execPartitionRelease q fn second s)).writes = s.writes ∧
    (stateOf s (execPartitionRelease q fn second s)).free = s.free := by
  simp only [execPartitionRelease, stateOf_next]
  have key : ∀ op sp k, (fun t : State => (t.pending, t.ident, t.sck, t.fe, t.key, t.pke, t.rnu, t.tls, t.ac, t.tm, t.lcc, t.stc, t.pwr, t.io, t.ev, t.rw, t.store, t.writes, t.free)) ((k s : OpOut).after s) = (fun t : State => (t.pending, t.ident, t.sck, t.fe, t.key, t.pke, t.rnu, t.tls, t.ac, t.tm, t.lcc, t.stc, t.pwr, t.io, t.ev, t.rw, t.store, t.writes, t.free)) s →
      (fun t : State => (t.pending, t.ident, t.sck, t.fe, t.key, t.pke, t.rnu, t.tls, t.ac, t.tm, t.lcc, t.stc, t.pwr, t.io, t.ev, t.rw, t.store, t.writes, t.free)) (runOp op q sp s k) = (fun t : State => (t.pending, t.ident, t.sck, t.fe, t.key, t.pke, t.rnu, t.tls, t.ac, t.tm, t.lcc, t.stc, t.pwr, t.io, t.ev, t.rw, t.store, t.writes, t.free)) s := fun op sp k hk =>
    runOp_keeps (fun t : State => (t.pending, t.ident, t.sck, t.fe, t.key, t.pke, t.rnu, t.tls, t.ac, t.tm, t.lcc, t.stc, t.pwr, t.io, t.ev, t.rw, t.store, t.writes, t.free)) op q sp s k (by intro comp t; simp) (by simp) hk
  simp only [Prod.mk.injEq] at key
  apply key
  (repeat' split) <;> simp

theorem execPartitionReleaseEffect_keeps (f : Nat) (s : State) :
    (stateOf s (execPartitionReleaseEffect f s)).pending = s.pending ∧
    (stateOf s (execPartitionReleaseEffect f s)).ident = s.ident ∧ (stateOf s (execPartitionReleaseEffect f s)).key = s.key ∧
    (stateOf s (execPartitionReleaseEffect f s)).pke = s.pke ∧ (stateOf s (execPartitionReleaseEffect f s)).rnu = s.rnu ∧
    (stateOf s (execPartitionReleaseEffect f s)).tls = s.tls ∧ (stateOf s (execPartitionReleaseEffect f s)).ac = s.ac ∧
    (stateOf s (execPartitionReleaseEffect f s)).tm = s.tm ∧ (stateOf s (execPartitionReleaseEffect f s)).lcc = s.lcc ∧
    (stateOf s (execPartitionReleaseEffect f s)).stc = s.stc ∧ (stateOf s (execPartitionReleaseEffect f s)).pwr = s.pwr ∧
    (stateOf s (execPartitionReleaseEffect f s)).io = s.io ∧ (stateOf s (execPartitionReleaseEffect f s)).rw = s.rw ∧
    (stateOf s (execPartitionReleaseEffect f s)).store = s.store ∧
    (stateOf s (execPartitionReleaseEffect f s)).writes = s.writes ∧
    (stateOf s (execPartitionReleaseEffect f s)).free = s.free := by
  simp only [execPartitionReleaseEffect, onMain]
  (repeat' split) <;> simp

theorem execPlanSwitch_keeps (s : State) :
    (stateOf s (execPlanSwitch s)).pending = s.pending ∧ (stateOf s (execPlanSwitch s)).ident = s.ident ∧
    (stateOf s (execPlanSwitch s)).key = s.key ∧ (stateOf s (execPlanSwitch s)).pke = s.pke ∧
    (stateOf s (execPlanSwitch s)).rnu = s.rnu ∧ (stateOf s (execPlanSwitch s)).tls = s.tls ∧
    (stateOf s (execPlanSwitch s)).ac = s.ac ∧ (stateOf s (execPlanSwitch s)).tm = s.tm ∧
    (stateOf s (execPlanSwitch s)).lcc = s.lcc ∧ (stateOf s (execPlanSwitch s)).stc = s.stc ∧
    (stateOf s (execPlanSwitch s)).pwr = s.pwr ∧ (stateOf s (execPlanSwitch s)).io = s.io ∧
    (stateOf s (execPlanSwitch s)).rw = s.rw ∧ (stateOf s (execPlanSwitch s)).store = s.store ∧
    (stateOf s (execPlanSwitch s)).writes = s.writes ∧ (stateOf s (execPlanSwitch s)).free = s.free := by
  have h := forParts_keeps (fun t : State => (t.pending, t.ident, t.key, t.pke, t.rnu, t.tls, t.ac, t.tm, t.lcc, t.stc, t.pwr, t.io, t.rw, t.store, t.writes, t.free)) (dueSwitch s.sck.now) (reachInstant) (by intro f v s; simp) s.pln.parts s
  simp only [Prod.mk.injEq] at h
  simp only [execPlanSwitch, onMain]
  (repeat' split) <;> first
    | simp; done
    | exact h

theorem execDeferredSwitch_keeps (s : State) :
    (stateOf s (execDeferredSwitch s)).pending = s.pending ∧ (stateOf s (execDeferredSwitch s)).ident = s.ident ∧
    (stateOf s (execDeferredSwitch s)).key = s.key ∧ (stateOf s (execDeferredSwitch s)).pke = s.pke ∧
    (stateOf s (execDeferredSwitch s)).rnu = s.rnu ∧ (stateOf s (execDeferredSwitch s)).tls = s.tls ∧
    (stateOf s (execDeferredSwitch s)).ac = s.ac ∧ (stateOf s (execDeferredSwitch s)).tm = s.tm ∧
    (stateOf s (execDeferredSwitch s)).lcc = s.lcc ∧ (stateOf s (execDeferredSwitch s)).stc = s.stc ∧
    (stateOf s (execDeferredSwitch s)).pwr = s.pwr ∧ (stateOf s (execDeferredSwitch s)).io = s.io ∧
    (stateOf s (execDeferredSwitch s)).rw = s.rw ∧ (stateOf s (execDeferredSwitch s)).store = s.store ∧
    (stateOf s (execDeferredSwitch s)).writes = s.writes ∧ (stateOf s (execDeferredSwitch s)).free = s.free := by
  have h := forParts_keeps (fun t : State => (t.pending, t.ident, t.key, t.pke, t.rnu, t.tls, t.ac, t.tm, t.lcc, t.stc, t.pwr, t.io, t.rw, t.store, t.writes, t.free)) (fun p => p.standby == .armed && p.deferred) (fun f p => swapPart f s.sck.now p) (by intro f v s; simp) s.pln.parts s
  simp only [Prod.mk.injEq] at h
  simp only [execDeferredSwitch, onMain]
  (repeat' split) <;> first
    | simp; done
    | exact h

theorem execDrainEnd_keeps (f : Nat) (s : State) :
    (stateOf s (execDrainEnd f s)).pending = s.pending ∧ (stateOf s (execDrainEnd f s)).ident = s.ident ∧
    (stateOf s (execDrainEnd f s)).sck = s.sck ∧ (stateOf s (execDrainEnd f s)).key = s.key ∧
    (stateOf s (execDrainEnd f s)).pke = s.pke ∧ (stateOf s (execDrainEnd f s)).rnu = s.rnu ∧
    (stateOf s (execDrainEnd f s)).tls = s.tls ∧ (stateOf s (execDrainEnd f s)).ac = s.ac ∧
    (stateOf s (execDrainEnd f s)).tm = s.tm ∧ (stateOf s (execDrainEnd f s)).lcc = s.lcc ∧
    (stateOf s (execDrainEnd f s)).stc = s.stc ∧ (stateOf s (execDrainEnd f s)).pwr = s.pwr ∧
    (stateOf s (execDrainEnd f s)).io = s.io ∧ (stateOf s (execDrainEnd f s)).rw = s.rw ∧
    (stateOf s (execDrainEnd f s)).store = s.store ∧ (stateOf s (execDrainEnd f s)).writes = s.writes ∧
    (stateOf s (execDrainEnd f s)).free = s.free := by
  simp only [execDrainEnd, onMain]
  (repeat' split) <;> simp

theorem execEntryReload_keeps (f : Nat) (entry : Nat) (standby : Bool) (ok : Bool) (s : State) :
    (stateOf s (execEntryReload f entry standby ok s)).pending = s.pending ∧
    (stateOf s (execEntryReload f entry standby ok s)).ident = s.ident ∧
    (stateOf s (execEntryReload f entry standby ok s)).sck = s.sck ∧
    (stateOf s (execEntryReload f entry standby ok s)).ts = s.ts ∧
    (stateOf s (execEntryReload f entry standby ok s)).key = s.key ∧
    (stateOf s (execEntryReload f entry standby ok s)).pke = s.pke ∧
    (stateOf s (execEntryReload f entry standby ok s)).rnu = s.rnu ∧
    (stateOf s (execEntryReload f entry standby ok s)).tls = s.tls ∧
    (stateOf s (execEntryReload f entry standby ok s)).ac = s.ac ∧
    (stateOf s (execEntryReload f entry standby ok s)).tm = s.tm ∧
    (stateOf s (execEntryReload f entry standby ok s)).lcc = s.lcc ∧
    (stateOf s (execEntryReload f entry standby ok s)).stc = s.stc ∧
    (stateOf s (execEntryReload f entry standby ok s)).pwr = s.pwr ∧
    (stateOf s (execEntryReload f entry standby ok s)).io = s.io ∧
    (stateOf s (execEntryReload f entry standby ok s)).rw = s.rw ∧
    (stateOf s (execEntryReload f entry standby ok s)).store = s.store ∧
    (stateOf s (execEntryReload f entry standby ok s)).writes = s.writes ∧
    (stateOf s (execEntryReload f entry standby ok s)).free = s.free := by
  simp only [execEntryReload, onMain]
  (repeat' split) <;> simp

theorem execMatchStoreRebuild_keeps (entries : List (Nat × Bool)) (done : Bool) (s : State) :
    (stateOf s (execMatchStoreRebuild entries done s)).pending = s.pending ∧
    (stateOf s (execMatchStoreRebuild entries done s)).ident = s.ident ∧
    (stateOf s (execMatchStoreRebuild entries done s)).sck = s.sck ∧
    (stateOf s (execMatchStoreRebuild entries done s)).arc = s.arc ∧
    (stateOf s (execMatchStoreRebuild entries done s)).ts = s.ts ∧
    (stateOf s (execMatchStoreRebuild entries done s)).key = s.key ∧
    (stateOf s (execMatchStoreRebuild entries done s)).pke = s.pke ∧
    (stateOf s (execMatchStoreRebuild entries done s)).rnu = s.rnu ∧
    (stateOf s (execMatchStoreRebuild entries done s)).tls = s.tls ∧
    (stateOf s (execMatchStoreRebuild entries done s)).ac = s.ac ∧
    (stateOf s (execMatchStoreRebuild entries done s)).tm = s.tm ∧
    (stateOf s (execMatchStoreRebuild entries done s)).lcc = s.lcc ∧
    (stateOf s (execMatchStoreRebuild entries done s)).stc = s.stc ∧
    (stateOf s (execMatchStoreRebuild entries done s)).pwr = s.pwr ∧
    (stateOf s (execMatchStoreRebuild entries done s)).io = s.io ∧
    (stateOf s (execMatchStoreRebuild entries done s)).rw = s.rw ∧
    (stateOf s (execMatchStoreRebuild entries done s)).store = s.store ∧
    (stateOf s (execMatchStoreRebuild entries done s)).writes = s.writes ∧
    (stateOf s (execMatchStoreRebuild entries done s)).free = s.free := by
  simp only [execMatchStoreRebuild, onMain]
  (repeat' split) <;> simp

theorem execCounterRead_keeps (q : Call) (first : Nat) (count : Nat) (s : State) :
    (stateOf s (execCounterRead q first count s)).pending = s.pending ∧
    (stateOf s (execCounterRead q first count s)).ident = s.ident ∧ (stateOf s (execCounterRead q first count s)).sck = s.sck ∧
    (stateOf s (execCounterRead q first count s)).arc = s.arc ∧ (stateOf s (execCounterRead q first count s)).pln = s.pln ∧
    (stateOf s (execCounterRead q first count s)).fe = s.fe ∧ (stateOf s (execCounterRead q first count s)).key = s.key ∧
    (stateOf s (execCounterRead q first count s)).pke = s.pke ∧ (stateOf s (execCounterRead q first count s)).rnu = s.rnu ∧
    (stateOf s (execCounterRead q first count s)).tls = s.tls ∧ (stateOf s (execCounterRead q first count s)).ac = s.ac ∧
    (stateOf s (execCounterRead q first count s)).tm = s.tm ∧ (stateOf s (execCounterRead q first count s)).lcc = s.lcc ∧
    (stateOf s (execCounterRead q first count s)).stc = s.stc ∧ (stateOf s (execCounterRead q first count s)).pwr = s.pwr ∧
    (stateOf s (execCounterRead q first count s)).io = s.io ∧ (stateOf s (execCounterRead q first count s)).ev = s.ev ∧
    (stateOf s (execCounterRead q first count s)).rw = s.rw ∧ (stateOf s (execCounterRead q first count s)).store = s.store ∧
    (stateOf s (execCounterRead q first count s)).writes = s.writes ∧
    (stateOf s (execCounterRead q first count s)).free = s.free := by
  simp only [execCounterRead, stateOf_next]
  have key : ∀ op sp k, (fun t : State => (t.pending, t.ident, t.sck, t.arc, t.pln, t.fe, t.key, t.pke, t.rnu, t.tls, t.ac, t.tm, t.lcc, t.stc, t.pwr, t.io, t.ev, t.rw, t.store, t.writes, t.free)) ((k s : OpOut).after s) = (fun t : State => (t.pending, t.ident, t.sck, t.arc, t.pln, t.fe, t.key, t.pke, t.rnu, t.tls, t.ac, t.tm, t.lcc, t.stc, t.pwr, t.io, t.ev, t.rw, t.store, t.writes, t.free)) s →
      (fun t : State => (t.pending, t.ident, t.sck, t.arc, t.pln, t.fe, t.key, t.pke, t.rnu, t.tls, t.ac, t.tm, t.lcc, t.stc, t.pwr, t.io, t.ev, t.rw, t.store, t.writes, t.free)) (runOp op q sp s k) = (fun t : State => (t.pending, t.ident, t.sck, t.arc, t.pln, t.fe, t.key, t.pke, t.rnu, t.tls, t.ac, t.tm, t.lcc, t.stc, t.pwr, t.io, t.ev, t.rw, t.store, t.writes, t.free)) s := fun op sp k hk =>
    runOp_keeps (fun t : State => (t.pending, t.ident, t.sck, t.arc, t.pln, t.fe, t.key, t.pke, t.rnu, t.tls, t.ac, t.tm, t.lcc, t.stc, t.pwr, t.io, t.ev, t.rw, t.store, t.writes, t.free)) op q sp s k (by intro comp t; simp) (by simp) hk
  simp only [Prod.mk.injEq] at key
  apply key
  (repeat' split) <;> simp

theorem execCounterSnapshot_keeps (q : Call) (first : Nat) (count : Nat) (s : State) :
    (stateOf s (execCounterSnapshot q first count s)).pending = s.pending ∧
    (stateOf s (execCounterSnapshot q first count s)).ident = s.ident ∧
    (stateOf s (execCounterSnapshot q first count s)).sck = s.sck ∧
    (stateOf s (execCounterSnapshot q first count s)).pln = s.pln ∧
    (stateOf s (execCounterSnapshot q first count s)).fe = s.fe ∧
    (stateOf s (execCounterSnapshot q first count s)).key = s.key ∧
    (stateOf s (execCounterSnapshot q first count s)).pke = s.pke ∧
    (stateOf s (execCounterSnapshot q first count s)).rnu = s.rnu ∧
    (stateOf s (execCounterSnapshot q first count s)).tls = s.tls ∧
    (stateOf s (execCounterSnapshot q first count s)).ac = s.ac ∧ (stateOf s (execCounterSnapshot q first count s)).tm = s.tm ∧
    (stateOf s (execCounterSnapshot q first count s)).lcc = s.lcc ∧
    (stateOf s (execCounterSnapshot q first count s)).stc = s.stc ∧
    (stateOf s (execCounterSnapshot q first count s)).pwr = s.pwr ∧
    (stateOf s (execCounterSnapshot q first count s)).io = s.io ∧ (stateOf s (execCounterSnapshot q first count s)).ev = s.ev ∧
    (stateOf s (execCounterSnapshot q first count s)).rw = s.rw ∧
    (stateOf s (execCounterSnapshot q first count s)).store = s.store ∧
    (stateOf s (execCounterSnapshot q first count s)).writes = s.writes ∧
    (stateOf s (execCounterSnapshot q first count s)).free = s.free := by
  simp only [execCounterSnapshot, stateOf_next]
  have key : ∀ op sp k, (fun t : State => (t.pending, t.ident, t.sck, t.pln, t.fe, t.key, t.pke, t.rnu, t.tls, t.ac, t.tm, t.lcc, t.stc, t.pwr, t.io, t.ev, t.rw, t.store, t.writes, t.free)) ((k s : OpOut).after s) = (fun t : State => (t.pending, t.ident, t.sck, t.pln, t.fe, t.key, t.pke, t.rnu, t.tls, t.ac, t.tm, t.lcc, t.stc, t.pwr, t.io, t.ev, t.rw, t.store, t.writes, t.free)) s →
      (fun t : State => (t.pending, t.ident, t.sck, t.pln, t.fe, t.key, t.pke, t.rnu, t.tls, t.ac, t.tm, t.lcc, t.stc, t.pwr, t.io, t.ev, t.rw, t.store, t.writes, t.free)) (runOp op q sp s k) = (fun t : State => (t.pending, t.ident, t.sck, t.pln, t.fe, t.key, t.pke, t.rnu, t.tls, t.ac, t.tm, t.lcc, t.stc, t.pwr, t.io, t.ev, t.rw, t.store, t.writes, t.free)) s := fun op sp k hk =>
    runOp_keeps (fun t : State => (t.pending, t.ident, t.sck, t.pln, t.fe, t.key, t.pke, t.rnu, t.tls, t.ac, t.tm, t.lcc, t.stc, t.pwr, t.io, t.ev, t.rw, t.store, t.writes, t.free)) op q sp s k (by intro comp t; simp) (by simp) hk
  simp only [Prod.mk.injEq] at key
  apply key
  (repeat' split) <;> simp

end Sys2Proof.Machine
end

