-- ==== Sys2Proof/Laws/KeepPorts.lean ====
section
/-! SUPPORT. What each meaning of Machine/Ports.lean leaves unchanged in every state, once for each command. -/

namespace Sys2Proof.Machine

theorem execPortLinkChange_keeps (port : Nat) (up : Bool) (s : State) :
    (stateOf s (execPortLinkChange port up s)).pending = s.pending ∧
    (stateOf s (execPortLinkChange port up s)).ident = s.ident ∧ (stateOf s (execPortLinkChange port up s)).sck = s.sck ∧
    (stateOf s (execPortLinkChange port up s)).pln = s.pln ∧ (stateOf s (execPortLinkChange port up s)).key = s.key ∧
    (stateOf s (execPortLinkChange port up s)).pke = s.pke ∧ (stateOf s (execPortLinkChange port up s)).rnu = s.rnu ∧
    (stateOf s (execPortLinkChange port up s)).tls = s.tls ∧ (stateOf s (execPortLinkChange port up s)).ac = s.ac ∧
    (stateOf s (execPortLinkChange port up s)).tm = s.tm ∧ (stateOf s (execPortLinkChange port up s)).lcc = s.lcc ∧
    (stateOf s (execPortLinkChange port up s)).stc = s.stc ∧ (stateOf s (execPortLinkChange port up s)).pwr = s.pwr ∧
    (stateOf s (execPortLinkChange port up s)).io = s.io ∧ (stateOf s (execPortLinkChange port up s)).ev = s.ev ∧
    (stateOf s (execPortLinkChange port up s)).rw = s.rw ∧ (stateOf s (execPortLinkChange port up s)).store = s.store ∧
    (stateOf s (execPortLinkChange port up s)).writes = s.writes ∧ (stateOf s (execPortLinkChange port up s)).free = s.free := by
  simp only [execPortLinkChange, onMain]
  (repeat' split) <;> simp

theorem execLanDeadTimeout_keeps (port : Nat) (s : State) :
    (stateOf s (execLanDeadTimeout port s)).pending = s.pending ∧ (stateOf s (execLanDeadTimeout port s)).ident = s.ident ∧
    (stateOf s (execLanDeadTimeout port s)).sck = s.sck ∧ (stateOf s (execLanDeadTimeout port s)).pln = s.pln ∧
    (stateOf s (execLanDeadTimeout port s)).hif = s.hif ∧ (stateOf s (execLanDeadTimeout port s)).ts = s.ts ∧
    (stateOf s (execLanDeadTimeout port s)).key = s.key ∧ (stateOf s (execLanDeadTimeout port s)).pke = s.pke ∧
    (stateOf s (execLanDeadTimeout port s)).rnu = s.rnu ∧ (stateOf s (execLanDeadTimeout port s)).tls = s.tls ∧
    (stateOf s (execLanDeadTimeout port s)).ac = s.ac ∧ (stateOf s (execLanDeadTimeout port s)).tm = s.tm ∧
    (stateOf s (execLanDeadTimeout port s)).lcc = s.lcc ∧ (stateOf s (execLanDeadTimeout port s)).stc = s.stc ∧
    (stateOf s (execLanDeadTimeout port s)).pwr = s.pwr ∧ (stateOf s (execLanDeadTimeout port s)).io = s.io ∧
    (stateOf s (execLanDeadTimeout port s)).ev = s.ev ∧ (stateOf s (execLanDeadTimeout port s)).rw = s.rw ∧
    (stateOf s (execLanDeadTimeout port s)).store = s.store ∧ (stateOf s (execLanDeadTimeout port s)).writes = s.writes ∧
    (stateOf s (execLanDeadTimeout port s)).out = s.out ∧ (stateOf s (execLanDeadTimeout port s)).free = s.free := by
  simp only [execLanDeadTimeout, onMain]
  (repeat' split) <;> simp

theorem execDupSourceForget_keeps (pair : Nat) (src : Nat) (s : State) :
    (stateOf s (execDupSourceForget pair src s)).pending = s.pending ∧
    (stateOf s (execDupSourceForget pair src s)).ident = s.ident ∧ (stateOf s (execDupSourceForget pair src s)).sck = s.sck ∧
    (stateOf s (execDupSourceForget pair src s)).arc = s.arc ∧ (stateOf s (execDupSourceForget pair src s)).pln = s.pln ∧
    (stateOf s (execDupSourceForget pair src s)).hif = s.hif ∧ (stateOf s (execDupSourceForget pair src s)).ts = s.ts ∧
    (stateOf s (execDupSourceForget pair src s)).key = s.key ∧ (stateOf s (execDupSourceForget pair src s)).pke = s.pke ∧
    (stateOf s (execDupSourceForget pair src s)).rnu = s.rnu ∧ (stateOf s (execDupSourceForget pair src s)).tls = s.tls ∧
    (stateOf s (execDupSourceForget pair src s)).ac = s.ac ∧ (stateOf s (execDupSourceForget pair src s)).tm = s.tm ∧
    (stateOf s (execDupSourceForget pair src s)).lcc = s.lcc ∧ (stateOf s (execDupSourceForget pair src s)).stc = s.stc ∧
    (stateOf s (execDupSourceForget pair src s)).pwr = s.pwr ∧ (stateOf s (execDupSourceForget pair src s)).io = s.io ∧
    (stateOf s (execDupSourceForget pair src s)).ev = s.ev ∧ (stateOf s (execDupSourceForget pair src s)).rw = s.rw ∧
    (stateOf s (execDupSourceForget pair src s)).store = s.store ∧
    (stateOf s (execDupSourceForget pair src s)).writes = s.writes ∧ (stateOf s (execDupSourceForget pair src s)).out = s.out ∧
    (stateOf s (execDupSourceForget pair src s)).free = s.free := by
  simp only [execDupSourceForget, onMain]
  (repeat' split) <;> simp

theorem execFrameReceived_keeps (fr : Frame) (ctrError : Bool) (s : State) :
    (stateOf s (execFrameReceived fr ctrError s)).pending = s.pending ∧
    (stateOf s (execFrameReceived fr ctrError s)).ident = s.ident ∧ (stateOf s (execFrameReceived fr ctrError s)).pke = s.pke ∧
    (stateOf s (execFrameReceived fr ctrError s)).rnu = s.rnu ∧ (stateOf s (execFrameReceived fr ctrError s)).tls = s.tls ∧
    (stateOf s (execFrameReceived fr ctrError s)).ac = s.ac ∧ (stateOf s (execFrameReceived fr ctrError s)).tm = s.tm ∧
    (stateOf s (execFrameReceived fr ctrError s)).lcc = s.lcc ∧ (stateOf s (execFrameReceived fr ctrError s)).stc = s.stc ∧
    (stateOf s (execFrameReceived fr ctrError s)).pwr = s.pwr ∧ (stateOf s (execFrameReceived fr ctrError s)).io = s.io ∧
    (stateOf s (execFrameReceived fr ctrError s)).rw = s.rw ∧ (stateOf s (execFrameReceived fr ctrError s)).store = s.store ∧
    (stateOf s (execFrameReceived fr ctrError s)).writes = s.writes := by
  simp only [execFrameReceived, onMain]
  (repeat' split) <;> simp

theorem execSupervisionSend_keeps (s : State) :
    (stateOf s (execSupervisionSend s)).pending = s.pending ∧ (stateOf s (execSupervisionSend s)).ident = s.ident ∧
    (stateOf s (execSupervisionSend s)).sck = s.sck ∧ (stateOf s (execSupervisionSend s)).arc = s.arc ∧
    (stateOf s (execSupervisionSend s)).pln = s.pln ∧ (stateOf s (execSupervisionSend s)).hif = s.hif ∧
    (stateOf s (execSupervisionSend s)).ts = s.ts ∧ (stateOf s (execSupervisionSend s)).key = s.key ∧
    (stateOf s (execSupervisionSend s)).pke = s.pke ∧ (stateOf s (execSupervisionSend s)).rnu = s.rnu ∧
    (stateOf s (execSupervisionSend s)).tls = s.tls ∧ (stateOf s (execSupervisionSend s)).ac = s.ac ∧
    (stateOf s (execSupervisionSend s)).tm = s.tm ∧ (stateOf s (execSupervisionSend s)).lcc = s.lcc ∧
    (stateOf s (execSupervisionSend s)).stc = s.stc ∧ (stateOf s (execSupervisionSend s)).pwr = s.pwr ∧
    (stateOf s (execSupervisionSend s)).io = s.io ∧ (stateOf s (execSupervisionSend s)).ev = s.ev ∧
    (stateOf s (execSupervisionSend s)).rw = s.rw ∧ (stateOf s (execSupervisionSend s)).store = s.store ∧
    (stateOf s (execSupervisionSend s)).writes = s.writes ∧ (stateOf s (execSupervisionSend s)).out = s.out ∧
    (stateOf s (execSupervisionSend s)).free = s.free := by
  simp only [execSupervisionSend, onMain]
  (repeat' split) <;> simp

theorem execMkaExchange_keeps (port : Nat) (pdu : MkaPdu) (s : State) :
    (stateOf s (execMkaExchange port pdu s)).pending = s.pending ∧ (stateOf s (execMkaExchange port pdu s)).ident = s.ident ∧
    (stateOf s (execMkaExchange port pdu s)).sck = s.sck ∧ (stateOf s (execMkaExchange port pdu s)).pln = s.pln ∧
    (stateOf s (execMkaExchange port pdu s)).hif = s.hif ∧ (stateOf s (execMkaExchange port pdu s)).ts = s.ts ∧
    (stateOf s (execMkaExchange port pdu s)).key = s.key ∧ (stateOf s (execMkaExchange port pdu s)).pke = s.pke ∧
    (stateOf s (execMkaExchange port pdu s)).tls = s.tls ∧ (stateOf s (execMkaExchange port pdu s)).ac = s.ac ∧
    (stateOf s (execMkaExchange port pdu s)).tm = s.tm ∧ (stateOf s (execMkaExchange port pdu s)).lcc = s.lcc ∧
    (stateOf s (execMkaExchange port pdu s)).stc = s.stc ∧ (stateOf s (execMkaExchange port pdu s)).pwr = s.pwr ∧
    (stateOf s (execMkaExchange port pdu s)).io = s.io ∧ (stateOf s (execMkaExchange port pdu s)).ev = s.ev ∧
    (stateOf s (execMkaExchange port pdu s)).rw = s.rw ∧ (stateOf s (execMkaExchange port pdu s)).store = s.store ∧
    (stateOf s (execMkaExchange port pdu s)).writes = s.writes ∧ (stateOf s (execMkaExchange port pdu s)).out = s.out := by
  simp only [execMkaExchange, onMain]
  (repeat' split) <;> first
    | (simp; done)
    | (have h0 := exchangeSak_frame _ _ _ _ _ _ ‹exchangeSak _ _ _ _ _ = some _›; simp at h0; simp [h0])

theorem execMkaHello_keeps (port : Nat) (s : State) :
    (stateOf s (execMkaHello port s)).pending = s.pending ∧ (stateOf s (execMkaHello port s)).ident = s.ident ∧
    (stateOf s (execMkaHello port s)).sck = s.sck ∧ (stateOf s (execMkaHello port s)).pln = s.pln ∧
    (stateOf s (execMkaHello port s)).hif = s.hif ∧ (stateOf s (execMkaHello port s)).ts = s.ts ∧
    (stateOf s (execMkaHello port s)).key = s.key ∧ (stateOf s (execMkaHello port s)).pke = s.pke ∧
    (stateOf s (execMkaHello port s)).rnu = s.rnu ∧ (stateOf s (execMkaHello port s)).tls = s.tls ∧
    (stateOf s (execMkaHello port s)).ac = s.ac ∧ (stateOf s (execMkaHello port s)).tm = s.tm ∧
    (stateOf s (execMkaHello port s)).lcc = s.lcc ∧ (stateOf s (execMkaHello port s)).stc = s.stc ∧
    (stateOf s (execMkaHello port s)).pwr = s.pwr ∧ (stateOf s (execMkaHello port s)).io = s.io ∧
    (stateOf s (execMkaHello port s)).ev = s.ev ∧ (stateOf s (execMkaHello port s)).rw = s.rw ∧
    (stateOf s (execMkaHello port s)).store = s.store ∧ (stateOf s (execMkaHello port s)).writes = s.writes ∧
    (stateOf s (execMkaHello port s)).out = s.out ∧ (stateOf s (execMkaHello port s)).free = s.free := by
  simp only [execMkaHello, onMain]
  (repeat' split) <;> simp

theorem execMkaLifeExpiry_keeps (port : Nat) (s : State) :
    (stateOf s (execMkaLifeExpiry port s)).pending = s.pending ∧ (stateOf s (execMkaLifeExpiry port s)).ident = s.ident ∧
    (stateOf s (execMkaLifeExpiry port s)).sck = s.sck ∧ (stateOf s (execMkaLifeExpiry port s)).pln = s.pln ∧
    (stateOf s (execMkaLifeExpiry port s)).hif = s.hif ∧ (stateOf s (execMkaLifeExpiry port s)).ts = s.ts ∧
    (stateOf s (execMkaLifeExpiry port s)).key = s.key ∧ (stateOf s (execMkaLifeExpiry port s)).pke = s.pke ∧
    (stateOf s (execMkaLifeExpiry port s)).rnu = s.rnu ∧ (stateOf s (execMkaLifeExpiry port s)).tls = s.tls ∧
    (stateOf s (execMkaLifeExpiry port s)).ac = s.ac ∧ (stateOf s (execMkaLifeExpiry port s)).tm = s.tm ∧
    (stateOf s (execMkaLifeExpiry port s)).lcc = s.lcc ∧ (stateOf s (execMkaLifeExpiry port s)).stc = s.stc ∧
    (stateOf s (execMkaLifeExpiry port s)).pwr = s.pwr ∧ (stateOf s (execMkaLifeExpiry port s)).io = s.io ∧
    (stateOf s (execMkaLifeExpiry port s)).ev = s.ev ∧ (stateOf s (execMkaLifeExpiry port s)).rw = s.rw ∧
    (stateOf s (execMkaLifeExpiry port s)).store = s.store ∧ (stateOf s (execMkaLifeExpiry port s)).writes = s.writes ∧
    (stateOf s (execMkaLifeExpiry port s)).out = s.out ∧ (stateOf s (execMkaLifeExpiry port s)).free = s.free := by
  simp only [execMkaLifeExpiry, onMain]
  (repeat' split) <;> simp

theorem execPnExhausted_keeps (port : Nat) (s : State) :
    (stateOf s (execPnExhausted port s)).pending = s.pending ∧ (stateOf s (execPnExhausted port s)).ident = s.ident ∧
    (stateOf s (execPnExhausted port s)).sck = s.sck ∧ (stateOf s (execPnExhausted port s)).pln = s.pln ∧
    (stateOf s (execPnExhausted port s)).hif = s.hif ∧ (stateOf s (execPnExhausted port s)).ts = s.ts ∧
    (stateOf s (execPnExhausted port s)).key = s.key ∧ (stateOf s (execPnExhausted port s)).pke = s.pke ∧
    (stateOf s (execPnExhausted port s)).rnu = s.rnu ∧ (stateOf s (execPnExhausted port s)).tls = s.tls ∧
    (stateOf s (execPnExhausted port s)).ac = s.ac ∧ (stateOf s (execPnExhausted port s)).tm = s.tm ∧
    (stateOf s (execPnExhausted port s)).lcc = s.lcc ∧ (stateOf s (execPnExhausted port s)).stc = s.stc ∧
    (stateOf s (execPnExhausted port s)).pwr = s.pwr ∧ (stateOf s (execPnExhausted port s)).io = s.io ∧
    (stateOf s (execPnExhausted port s)).ev = s.ev ∧ (stateOf s (execPnExhausted port s)).rw = s.rw ∧
    (stateOf s (execPnExhausted port s)).store = s.store ∧ (stateOf s (execPnExhausted port s)).writes = s.writes ∧
    (stateOf s (execPnExhausted port s)).out = s.out ∧ (stateOf s (execPnExhausted port s)).free = s.free := by
  simp only [execPnExhausted, onMain]
  (repeat' split) <;> simp

theorem execPortMacsecSet_keeps (q : Call) (port : Nat) (priority : Nat) (replay : Nat) (cak : Nat) (s : State) :
    (stateOf s (execPortMacsecSet q port priority replay cak s)).pending = s.pending ∧
    (stateOf s (execPortMacsecSet q port priority replay cak s)).ident = s.ident ∧
    (stateOf s (execPortMacsecSet q port priority replay cak s)).sck = s.sck ∧
    (stateOf s (execPortMacsecSet q port priority replay cak s)).arc = s.arc ∧
    (stateOf s (execPortMacsecSet q port priority replay cak s)).pln = s.pln ∧
    (stateOf s (execPortMacsecSet q port priority replay cak s)).key = s.key ∧
    (stateOf s (execPortMacsecSet q port priority replay cak s)).pke = s.pke ∧
    (stateOf s (execPortMacsecSet q port priority replay cak s)).rnu = s.rnu ∧
    (stateOf s (execPortMacsecSet q port priority replay cak s)).tls = s.tls ∧
    (stateOf s (execPortMacsecSet q port priority replay cak s)).ac = s.ac ∧
    (stateOf s (execPortMacsecSet q port priority replay cak s)).tm = s.tm ∧
    (stateOf s (execPortMacsecSet q port priority replay cak s)).lcc = s.lcc ∧
    (stateOf s (execPortMacsecSet q port priority replay cak s)).stc = s.stc ∧
    (stateOf s (execPortMacsecSet q port priority replay cak s)).pwr = s.pwr ∧
    (stateOf s (execPortMacsecSet q port priority replay cak s)).io = s.io ∧
    (stateOf s (execPortMacsecSet q port priority replay cak s)).ev = s.ev ∧
    (stateOf s (execPortMacsecSet q port priority replay cak s)).rw = s.rw ∧
    (stateOf s (execPortMacsecSet q port priority replay cak s)).store = s.store ∧
    (stateOf s (execPortMacsecSet q port priority replay cak s)).writes = s.writes ∧
    (stateOf s (execPortMacsecSet q port priority replay cak s)).free = s.free := by
  simp only [execPortMacsecSet, stateOf_next]
  have key : ∀ op sp k, (fun t : State => (t.pending, t.ident, t.sck, t.arc, t.pln, t.key, t.pke, t.rnu, t.tls, t.ac, t.tm, t.lcc, t.stc, t.pwr, t.io, t.ev, t.rw, t.store, t.writes, t.free)) ((k s : OpOut).after s) = (fun t : State => (t.pending, t.ident, t.sck, t.arc, t.pln, t.key, t.pke, t.rnu, t.tls, t.ac, t.tm, t.lcc, t.stc, t.pwr, t.io, t.ev, t.rw, t.store, t.writes, t.free)) s →
      (fun t : State => (t.pending, t.ident, t.sck, t.arc, t.pln, t.key, t.pke, t.rnu, t.tls, t.ac, t.tm, t.lcc, t.stc, t.pwr, t.io, t.ev, t.rw, t.store, t.writes, t.free)) (runOp op q sp s k) = (fun t : State => (t.pending, t.ident, t.sck, t.arc, t.pln, t.key, t.pke, t.rnu, t.tls, t.ac, t.tm, t.lcc, t.stc, t.pwr, t.io, t.ev, t.rw, t.store, t.writes, t.free)) s := fun op sp k hk =>
    runOp_keeps (fun t : State => (t.pending, t.ident, t.sck, t.arc, t.pln, t.key, t.pke, t.rnu, t.tls, t.ac, t.tm, t.lcc, t.stc, t.pwr, t.io, t.ev, t.rw, t.store, t.writes, t.free)) op q sp s k (by intro comp t; simp) (by simp) hk
  simp only [Prod.mk.injEq] at key
  apply key
  simp only [withKey]
  (repeat' split) <;> simp

theorem execPortMacsecGet_keeps (q : Call) (port : Nat) (s : State) :
    (stateOf s (execPortMacsecGet q port s)).pending = s.pending ∧ (stateOf s (execPortMacsecGet q port s)).ident = s.ident ∧
    (stateOf s (execPortMacsecGet q port s)).sck = s.sck ∧ (stateOf s (execPortMacsecGet q port s)).arc = s.arc ∧
    (stateOf s (execPortMacsecGet q port s)).pln = s.pln ∧ (stateOf s (execPortMacsecGet q port s)).fe = s.fe ∧
    (stateOf s (execPortMacsecGet q port s)).key = s.key ∧ (stateOf s (execPortMacsecGet q port s)).pke = s.pke ∧
    (stateOf s (execPortMacsecGet q port s)).rnu = s.rnu ∧ (stateOf s (execPortMacsecGet q port s)).tls = s.tls ∧
    (stateOf s (execPortMacsecGet q port s)).ac = s.ac ∧ (stateOf s (execPortMacsecGet q port s)).tm = s.tm ∧
    (stateOf s (execPortMacsecGet q port s)).lcc = s.lcc ∧ (stateOf s (execPortMacsecGet q port s)).stc = s.stc ∧
    (stateOf s (execPortMacsecGet q port s)).pwr = s.pwr ∧ (stateOf s (execPortMacsecGet q port s)).io = s.io ∧
    (stateOf s (execPortMacsecGet q port s)).ev = s.ev ∧ (stateOf s (execPortMacsecGet q port s)).rw = s.rw ∧
    (stateOf s (execPortMacsecGet q port s)).store = s.store ∧ (stateOf s (execPortMacsecGet q port s)).writes = s.writes ∧
    (stateOf s (execPortMacsecGet q port s)).free = s.free := by
  simp only [execPortMacsecGet, stateOf_next]
  have key : ∀ op sp k, (fun t : State => (t.pending, t.ident, t.sck, t.arc, t.pln, t.fe, t.key, t.pke, t.rnu, t.tls, t.ac, t.tm, t.lcc, t.stc, t.pwr, t.io, t.ev, t.rw, t.store, t.writes, t.free)) ((k s : OpOut).after s) = (fun t : State => (t.pending, t.ident, t.sck, t.arc, t.pln, t.fe, t.key, t.pke, t.rnu, t.tls, t.ac, t.tm, t.lcc, t.stc, t.pwr, t.io, t.ev, t.rw, t.store, t.writes, t.free)) s →
      (fun t : State => (t.pending, t.ident, t.sck, t.arc, t.pln, t.fe, t.key, t.pke, t.rnu, t.tls, t.ac, t.tm, t.lcc, t.stc, t.pwr, t.io, t.ev, t.rw, t.store, t.writes, t.free)) (runOp op q sp s k) = (fun t : State => (t.pending, t.ident, t.sck, t.arc, t.pln, t.fe, t.key, t.pke, t.rnu, t.tls, t.ac, t.tm, t.lcc, t.stc, t.pwr, t.io, t.ev, t.rw, t.store, t.writes, t.free)) s := fun op sp k hk =>
    runOp_keeps (fun t : State => (t.pending, t.ident, t.sck, t.arc, t.pln, t.fe, t.key, t.pke, t.rnu, t.tls, t.ac, t.tm, t.lcc, t.stc, t.pwr, t.io, t.ev, t.rw, t.store, t.writes, t.free)) op q sp s k (by intro comp t; simp) (by simp) hk
  simp only [Prod.mk.injEq] at key
  apply key
  (repeat' split) <;> simp

theorem execPortCfgWrite_keeps (port : Nat) (value : Nat) (s : State) :
    (stateOf s (execPortCfgWrite port value s)).pending = s.pending ∧
    (stateOf s (execPortCfgWrite port value s)).ident = s.ident ∧ (stateOf s (execPortCfgWrite port value s)).sck = s.sck ∧
    (stateOf s (execPortCfgWrite port value s)).arc = s.arc ∧ (stateOf s (execPortCfgWrite port value s)).pln = s.pln ∧
    (stateOf s (execPortCfgWrite port value s)).fe = s.fe ∧ (stateOf s (execPortCfgWrite port value s)).hif = s.hif ∧
    (stateOf s (execPortCfgWrite port value s)).ts = s.ts ∧ (stateOf s (execPortCfgWrite port value s)).key = s.key ∧
    (stateOf s (execPortCfgWrite port value s)).pke = s.pke ∧ (stateOf s (execPortCfgWrite port value s)).rnu = s.rnu ∧
    (stateOf s (execPortCfgWrite port value s)).tls = s.tls ∧ (stateOf s (execPortCfgWrite port value s)).ac = s.ac ∧
    (stateOf s (execPortCfgWrite port value s)).tm = s.tm ∧ (stateOf s (execPortCfgWrite port value s)).lcc = s.lcc ∧
    (stateOf s (execPortCfgWrite port value s)).stc = s.stc ∧ (stateOf s (execPortCfgWrite port value s)).pwr = s.pwr ∧
    (stateOf s (execPortCfgWrite port value s)).io = s.io ∧ (stateOf s (execPortCfgWrite port value s)).ev = s.ev ∧
    (stateOf s (execPortCfgWrite port value s)).store = s.store ∧ (stateOf s (execPortCfgWrite port value s)).free = s.free := by
  simp only [execPortCfgWrite, viaBar]
  (repeat' split) <;> simp

theorem execPairCfgWrite_keeps (pair : Nat) (value : Nat) (s : State) :
    (stateOf s (execPairCfgWrite pair value s)).pending = s.pending ∧
    (stateOf s (execPairCfgWrite pair value s)).ident = s.ident ∧ (stateOf s (execPairCfgWrite pair value s)).sck = s.sck ∧
    (stateOf s (execPairCfgWrite pair value s)).pln = s.pln ∧ (stateOf s (execPairCfgWrite pair value s)).key = s.key ∧
    (stateOf s (execPairCfgWrite pair value s)).pke = s.pke ∧ (stateOf s (execPairCfgWrite pair value s)).rnu = s.rnu ∧
    (stateOf s (execPairCfgWrite pair value s)).tls = s.tls ∧ (stateOf s (execPairCfgWrite pair value s)).ac = s.ac ∧
    (stateOf s (execPairCfgWrite pair value s)).tm = s.tm ∧ (stateOf s (execPairCfgWrite pair value s)).lcc = s.lcc ∧
    (stateOf s (execPairCfgWrite pair value s)).stc = s.stc ∧ (stateOf s (execPairCfgWrite pair value s)).pwr = s.pwr ∧
    (stateOf s (execPairCfgWrite pair value s)).io = s.io ∧ (stateOf s (execPairCfgWrite pair value s)).ev = s.ev ∧
    (stateOf s (execPairCfgWrite pair value s)).store = s.store ∧ (stateOf s (execPairCfgWrite pair value s)).free = s.free := by
  simp only [execPairCfgWrite, viaBar]
  (repeat' split) <;> simp

theorem execStreamCounterLatch_keeps (f : Nat) (entry : Nat) (error : Bool) (s : State) :
    (stateOf s (execStreamCounterLatch f entry error s)).pending = s.pending ∧
    (stateOf s (execStreamCounterLatch f entry error s)).ident = s.ident ∧
    (stateOf s (execStreamCounterLatch f entry error s)).sck = s.sck ∧
    (stateOf s (execStreamCounterLatch f entry error s)).pln = s.pln ∧
    (stateOf s (execStreamCounterLatch f entry error s)).ts = s.ts ∧
    (stateOf s (execStreamCounterLatch f entry error s)).key = s.key ∧
    (stateOf s (execStreamCounterLatch f entry error s)).pke = s.pke ∧
    (stateOf s (execStreamCounterLatch f entry error s)).rnu = s.rnu ∧
    (stateOf s (execStreamCounterLatch f entry error s)).tls = s.tls ∧
    (stateOf s (execStreamCounterLatch f entry error s)).ac = s.ac ∧
    (stateOf s (execStreamCounterLatch f entry error s)).tm = s.tm ∧
    (stateOf s (execStreamCounterLatch f entry error s)).lcc = s.lcc ∧
    (stateOf s (execStreamCounterLatch f entry error s)).stc = s.stc ∧
    (stateOf s (execStreamCounterLatch f entry error s)).pwr = s.pwr ∧
    (stateOf s (execStreamCounterLatch f entry error s)).io = s.io ∧
    (stateOf s (execStreamCounterLatch f entry error s)).rw = s.rw ∧
    (stateOf s (execStreamCounterLatch f entry error s)).store = s.store ∧
    (stateOf s (execStreamCounterLatch f entry error s)).writes = s.writes ∧
    (stateOf s (execStreamCounterLatch f entry error s)).free = s.free := by
  simp only [execStreamCounterLatch, viaBar]
  (repeat' split) <;> simp

theorem execPortCounterLatch_keeps (port : Nat) (s : State) :
    (stateOf s (execPortCounterLatch port s)).pending = s.pending ∧ (stateOf s (execPortCounterLatch port s)).ident = s.ident ∧
    (stateOf s (execPortCounterLatch port s)).sck = s.sck ∧ (stateOf s (execPortCounterLatch port s)).arc = s.arc ∧
    (stateOf s (execPortCounterLatch port s)).pln = s.pln ∧ (stateOf s (execPortCounterLatch port s)).hif = s.hif ∧
    (stateOf s (execPortCounterLatch port s)).ts = s.ts ∧ (stateOf s (execPortCounterLatch port s)).key = s.key ∧
    (stateOf s (execPortCounterLatch port s)).pke = s.pke ∧ (stateOf s (execPortCounterLatch port s)).rnu = s.rnu ∧
    (stateOf s (execPortCounterLatch port s)).tls = s.tls ∧ (stateOf s (execPortCounterLatch port s)).ac = s.ac ∧
    (stateOf s (execPortCounterLatch port s)).tm = s.tm ∧ (stateOf s (execPortCounterLatch port s)).lcc = s.lcc ∧
    (stateOf s (execPortCounterLatch port s)).stc = s.stc ∧ (stateOf s (execPortCounterLatch port s)).pwr = s.pwr ∧
    (stateOf s (execPortCounterLatch port s)).io = s.io ∧ (stateOf s (execPortCounterLatch port s)).ev = s.ev ∧
    (stateOf s (execPortCounterLatch port s)).rw = s.rw ∧ (stateOf s (execPortCounterLatch port s)).store = s.store ∧
    (stateOf s (execPortCounterLatch port s)).writes = s.writes ∧ (stateOf s (execPortCounterLatch port s)).free = s.free := by
  simp only [execPortCounterLatch, viaBar]
  (repeat' split) <;> simp

theorem execTimedPublish_keeps (q : Call) (entry : Nat) (port : Nat) (frame : Frame) (s : State) :
    (stateOf s (execTimedPublish q entry port frame s)).pending = s.pending ∧
    (stateOf s (execTimedPublish q entry port frame s)).ident = s.ident ∧
    (stateOf s (execTimedPublish q entry port frame s)).pln = s.pln ∧
    (stateOf s (execTimedPublish q entry port frame s)).pke = s.pke ∧
    (stateOf s (execTimedPublish q entry port frame s)).rnu = s.rnu ∧
    (stateOf s (execTimedPublish q entry port frame s)).tls = s.tls ∧
    (stateOf s (execTimedPublish q entry port frame s)).ac = s.ac ∧
    (stateOf s (execTimedPublish q entry port frame s)).tm = s.tm ∧
    (stateOf s (execTimedPublish q entry port frame s)).lcc = s.lcc ∧
    (stateOf s (execTimedPublish q entry port frame s)).stc = s.stc ∧
    (stateOf s (execTimedPublish q entry port frame s)).pwr = s.pwr ∧
    (stateOf s (execTimedPublish q entry port frame s)).io = s.io ∧
    (stateOf s (execTimedPublish q entry port frame s)).rw = s.rw ∧
    (stateOf s (execTimedPublish q entry port frame s)).store = s.store ∧
    (stateOf s (execTimedPublish q entry port frame s)).writes = s.writes := by
  simp only [execTimedPublish, stateOf_next]
  have key : ∀ op sp k, (fun t : State => (t.pending, t.ident, t.pln, t.pke, t.rnu, t.tls, t.ac, t.tm, t.lcc, t.stc, t.pwr, t.io, t.rw, t.store, t.writes)) ((k s : OpOut).after s) = (fun t : State => (t.pending, t.ident, t.pln, t.pke, t.rnu, t.tls, t.ac, t.tm, t.lcc, t.stc, t.pwr, t.io, t.rw, t.store, t.writes)) s →
      (fun t : State => (t.pending, t.ident, t.pln, t.pke, t.rnu, t.tls, t.ac, t.tm, t.lcc, t.stc, t.pwr, t.io, t.rw, t.store, t.writes)) (runOp op q sp s k) = (fun t : State => (t.pending, t.ident, t.pln, t.pke, t.rnu, t.tls, t.ac, t.tm, t.lcc, t.stc, t.pwr, t.io, t.rw, t.store, t.writes)) s := fun op sp k hk =>
    runOp_keeps (fun t : State => (t.pending, t.ident, t.pln, t.pke, t.rnu, t.tls, t.ac, t.tm, t.lcc, t.stc, t.pwr, t.io, t.rw, t.store, t.writes)) op q sp s k (by intro comp t; simp) (by simp) hk
  simp only [Prod.mk.injEq] at key
  apply key
  (repeat' split) <;> simp

end Sys2Proof.Machine
end

