-- ==== Sys2Proof/Laws/KeepPower.lean ====
section
/-! SUPPORT. What each meaning of Machine/Power.lean leaves unchanged in every state, once for each command. -/

namespace Sys2Proof.Machine

theorem execPowerGoodRise_keeps (i : StartIn) (s : State) :
    (stateOf s (execPowerGoodRise i s)).pending = s.pending ∧ (stateOf s (execPowerGoodRise i s)).ident = s.ident := by
  simp only [execPowerGoodRise]
  (repeat' split) <;> simp

theorem execPowerGoodFall_keeps (s : State) :
    (stateOf s (execPowerGoodFall s)).pending = s.pending ∧ (stateOf s (execPowerGoodFall s)).ident = s.ident ∧
    (stateOf s (execPowerGoodFall s)).store = s.store ∧ (stateOf s (execPowerGoodFall s)).free = s.free := by
  simp only [execPowerGoodFall]
  (repeat' split) <;> simp

theorem execForwardingBegin_keeps (ms : Nat) (s : State) :
    (stateOf s (execForwardingBegin ms s)).pending = s.pending ∧ (stateOf s (execForwardingBegin ms s)).ident = s.ident ∧
    (stateOf s (execForwardingBegin ms s)).sck = s.sck ∧ (stateOf s (execForwardingBegin ms s)).pln = s.pln ∧
    (stateOf s (execForwardingBegin ms s)).hif = s.hif ∧ (stateOf s (execForwardingBegin ms s)).ts = s.ts ∧
    (stateOf s (execForwardingBegin ms s)).key = s.key ∧ (stateOf s (execForwardingBegin ms s)).pke = s.pke ∧
    (stateOf s (execForwardingBegin ms s)).rnu = s.rnu ∧ (stateOf s (execForwardingBegin ms s)).tls = s.tls ∧
    (stateOf s (execForwardingBegin ms s)).ac = s.ac ∧ (stateOf s (execForwardingBegin ms s)).tm = s.tm ∧
    (stateOf s (execForwardingBegin ms s)).lcc = s.lcc ∧ (stateOf s (execForwardingBegin ms s)).stc = s.stc ∧
    (stateOf s (execForwardingBegin ms s)).ev = s.ev ∧ (stateOf s (execForwardingBegin ms s)).rw = s.rw ∧
    (stateOf s (execForwardingBegin ms s)).store = s.store ∧ (stateOf s (execForwardingBegin ms s)).writes = s.writes ∧
    (stateOf s (execForwardingBegin ms s)).out = s.out ∧ (stateOf s (execForwardingBegin ms s)).free = s.free := by
  have h := fun g hg l r => foldl_keeps (fun t : State => (t.pending, t.ident, t.sck, t.pln, t.hif, t.ts, t.key, t.pke, t.rnu, t.tls, t.ac, t.tm, t.lcc, t.stc, t.ev, t.rw, t.store, t.writes, t.out, t.free)) (β := CapWindow) g hg l r
  simp only [Prod.mk.injEq] at h
  simp only [execForwardingBegin]
  split
  · apply h
    intro r b
    simp
  · simp

theorem execResetNAssert_keeps (held : Bool) (i : StartIn) (s : State) :
    (stateOf s (execResetNAssert held i s)).pending = s.pending ∧ (stateOf s (execResetNAssert held i s)).ident = s.ident := by
  simp only [execResetNAssert]
  (repeat' split) <;> simp

theorem execResetNRelease_keeps (i : StartIn) (s : State) :
    (stateOf s (execResetNRelease i s)).pending = s.pending ∧ (stateOf s (execResetNRelease i s)).ident = s.ident := by
  simp only [execResetNRelease]
  (repeat' split) <;> simp

theorem execModuleResetRequest_keeps (value : Nat) (i : StartIn) (s : State) :
    (stateOf s (execModuleResetRequest value i s)).pending = s.pending ∧
    (stateOf s (execModuleResetRequest value i s)).ident = s.ident := by
  simp only [execModuleResetRequest, viaBar]
  (repeat' split) <;> simp

theorem execWatchdogReset_keeps (cause : Nat) (final : Bool) (i : StartIn) (s : State) :
    (stateOf s (execWatchdogReset cause final i s)).pending = s.pending ∧
    (stateOf s (execWatchdogReset cause final i s)).ident = s.ident := by
  simp only [execWatchdogReset]
  (repeat' split) <;> simp

theorem execQuenchWPath_keeps (failed : List (Nat × Nat)) (i : StartIn) (s : State) :
    (stateOf s (execQuenchWPath failed i s)).pending = s.pending ∧ (stateOf s (execQuenchWPath failed i s)).ident = s.ident := by
  simp only [execQuenchWPath]
  (repeat' split) <;> simp

theorem execStandbyInputLoss_keeps (s : State) :
    (stateOf s (execStandbyInputLoss s)).pending = s.pending ∧ (stateOf s (execStandbyInputLoss s)).ident = s.ident ∧
    (stateOf s (execStandbyInputLoss s)).sck = s.sck ∧ (stateOf s (execStandbyInputLoss s)).arc = s.arc ∧
    (stateOf s (execStandbyInputLoss s)).pln = s.pln ∧ (stateOf s (execStandbyInputLoss s)).fe = s.fe ∧
    (stateOf s (execStandbyInputLoss s)).ts = s.ts ∧ (stateOf s (execStandbyInputLoss s)).key = s.key ∧
    (stateOf s (execStandbyInputLoss s)).pke = s.pke ∧ (stateOf s (execStandbyInputLoss s)).rnu = s.rnu ∧
    (stateOf s (execStandbyInputLoss s)).tls = s.tls ∧ (stateOf s (execStandbyInputLoss s)).ac = s.ac ∧
    (stateOf s (execStandbyInputLoss s)).tm = s.tm ∧ (stateOf s (execStandbyInputLoss s)).lcc = s.lcc ∧
    (stateOf s (execStandbyInputLoss s)).stc = s.stc ∧ (stateOf s (execStandbyInputLoss s)).rw = s.rw ∧
    (stateOf s (execStandbyInputLoss s)).store = s.store ∧ (stateOf s (execStandbyInputLoss s)).writes = s.writes ∧
    (stateOf s (execStandbyInputLoss s)).free = s.free := by
  simp only [execStandbyInputLoss]
  (repeat' split) <;> simp

theorem execStandbyInputReturn_keeps (a0 : Bool) (a1 : Bool) (s : State) :
    (stateOf s (execStandbyInputReturn a0 a1 s)).pending = s.pending ∧
    (stateOf s (execStandbyInputReturn a0 a1 s)).ident = s.ident ∧ (stateOf s (execStandbyInputReturn a0 a1 s)).sck = s.sck ∧
    (stateOf s (execStandbyInputReturn a0 a1 s)).arc = s.arc ∧ (stateOf s (execStandbyInputReturn a0 a1 s)).pln = s.pln ∧
    (stateOf s (execStandbyInputReturn a0 a1 s)).fe = s.fe ∧ (stateOf s (execStandbyInputReturn a0 a1 s)).hif = s.hif ∧
    (stateOf s (execStandbyInputReturn a0 a1 s)).ts = s.ts ∧ (stateOf s (execStandbyInputReturn a0 a1 s)).key = s.key ∧
    (stateOf s (execStandbyInputReturn a0 a1 s)).pke = s.pke ∧ (stateOf s (execStandbyInputReturn a0 a1 s)).rnu = s.rnu ∧
    (stateOf s (execStandbyInputReturn a0 a1 s)).tls = s.tls ∧ (stateOf s (execStandbyInputReturn a0 a1 s)).ac = s.ac ∧
    (stateOf s (execStandbyInputReturn a0 a1 s)).tm = s.tm ∧ (stateOf s (execStandbyInputReturn a0 a1 s)).lcc = s.lcc ∧
    (stateOf s (execStandbyInputReturn a0 a1 s)).stc = s.stc ∧ (stateOf s (execStandbyInputReturn a0 a1 s)).ev = s.ev ∧
    (stateOf s (execStandbyInputReturn a0 a1 s)).rw = s.rw ∧ (stateOf s (execStandbyInputReturn a0 a1 s)).store = s.store ∧
    (stateOf s (execStandbyInputReturn a0 a1 s)).writes = s.writes ∧ (stateOf s (execStandbyInputReturn a0 a1 s)).out = s.out ∧
    (stateOf s (execStandbyInputReturn a0 a1 s)).free = s.free := by
  simp only [execStandbyInputReturn]
  (repeat' split) <;> simp

theorem execSnowdropEntry_keeps (s : State) :
    (stateOf s (execSnowdropEntry s)).pending = s.pending ∧ (stateOf s (execSnowdropEntry s)).ident = s.ident ∧
    (stateOf s (execSnowdropEntry s)).sck = s.sck ∧ (stateOf s (execSnowdropEntry s)).arc = s.arc ∧
    (stateOf s (execSnowdropEntry s)).pln = s.pln ∧ (stateOf s (execSnowdropEntry s)).fe = s.fe ∧
    (stateOf s (execSnowdropEntry s)).hif = s.hif ∧ (stateOf s (execSnowdropEntry s)).ts = s.ts ∧
    (stateOf s (execSnowdropEntry s)).key = s.key ∧ (stateOf s (execSnowdropEntry s)).pke = s.pke ∧
    (stateOf s (execSnowdropEntry s)).rnu = s.rnu ∧ (stateOf s (execSnowdropEntry s)).tls = s.tls ∧
    (stateOf s (execSnowdropEntry s)).ac = s.ac ∧ (stateOf s (execSnowdropEntry s)).tm = s.tm ∧
    (stateOf s (execSnowdropEntry s)).lcc = s.lcc ∧ (stateOf s (execSnowdropEntry s)).stc = s.stc ∧
    (stateOf s (execSnowdropEntry s)).ev = s.ev ∧ (stateOf s (execSnowdropEntry s)).rw = s.rw ∧
    (stateOf s (execSnowdropEntry s)).store = s.store ∧ (stateOf s (execSnowdropEntry s)).writes = s.writes ∧
    (stateOf s (execSnowdropEntry s)).out = s.out ∧ (stateOf s (execSnowdropEntry s)).free = s.free := by
  simp only [execSnowdropEntry]
  (repeat' split) <;> simp

theorem execSupplyOutOfRange_keeps (mv : Nat) (s : State) :
    (stateOf s (execSupplyOutOfRange mv s)).pending = s.pending ∧ (stateOf s (execSupplyOutOfRange mv s)).ident = s.ident ∧
    (stateOf s (execSupplyOutOfRange mv s)).sck = s.sck ∧ (stateOf s (execSupplyOutOfRange mv s)).arc = s.arc ∧
    (stateOf s (execSupplyOutOfRange mv s)).pln = s.pln ∧ (stateOf s (execSupplyOutOfRange mv s)).fe = s.fe ∧
    (stateOf s (execSupplyOutOfRange mv s)).ts = s.ts ∧ (stateOf s (execSupplyOutOfRange mv s)).key = s.key ∧
    (stateOf s (execSupplyOutOfRange mv s)).pke = s.pke ∧ (stateOf s (execSupplyOutOfRange mv s)).rnu = s.rnu ∧
    (stateOf s (execSupplyOutOfRange mv s)).tls = s.tls ∧ (stateOf s (execSupplyOutOfRange mv s)).ac = s.ac ∧
    (stateOf s (execSupplyOutOfRange mv s)).tm = s.tm ∧ (stateOf s (execSupplyOutOfRange mv s)).lcc = s.lcc ∧
    (stateOf s (execSupplyOutOfRange mv s)).stc = s.stc ∧ (stateOf s (execSupplyOutOfRange mv s)).rw = s.rw ∧
    (stateOf s (execSupplyOutOfRange mv s)).store = s.store ∧ (stateOf s (execSupplyOutOfRange mv s)).writes = s.writes ∧
    (stateOf s (execSupplyOutOfRange mv s)).free = s.free := by
  simp only [execSupplyOutOfRange]
  (repeat' split) <;> simp

theorem execBackupPowerLoss_keeps (s : State) :
    (stateOf s (execBackupPowerLoss s)).pending = s.pending ∧ (stateOf s (execBackupPowerLoss s)).ident = s.ident ∧
    (stateOf s (execBackupPowerLoss s)).pln = s.pln ∧ (stateOf s (execBackupPowerLoss s)).fe = s.fe ∧
    (stateOf s (execBackupPowerLoss s)).hif = s.hif ∧ (stateOf s (execBackupPowerLoss s)).ts = s.ts ∧
    (stateOf s (execBackupPowerLoss s)).pke = s.pke ∧ (stateOf s (execBackupPowerLoss s)).rnu = s.rnu ∧
    (stateOf s (execBackupPowerLoss s)).tls = s.tls ∧ (stateOf s (execBackupPowerLoss s)).ac = s.ac ∧
    (stateOf s (execBackupPowerLoss s)).lcc = s.lcc ∧ (stateOf s (execBackupPowerLoss s)).stc = s.stc ∧
    (stateOf s (execBackupPowerLoss s)).io = s.io ∧ (stateOf s (execBackupPowerLoss s)).ev = s.ev ∧
    (stateOf s (execBackupPowerLoss s)).rw = s.rw ∧ (stateOf s (execBackupPowerLoss s)).store = s.store ∧
    (stateOf s (execBackupPowerLoss s)).writes = s.writes ∧ (stateOf s (execBackupPowerLoss s)).out = s.out ∧
    (stateOf s (execBackupPowerLoss s)).free = s.free := by
  simp only [execBackupPowerLoss]
  (repeat' split) <;> simp

end Sys2Proof.Machine
end

