-- ==== Sys2Proof/Laws/KeepRegisters.lean ====
section
/-! SUPPORT. What each meaning of Machine/Registers.lean leaves unchanged in every state, once for each command. -/

namespace Sys2Proof.Machine

theorem execSplitRegisterRead_keeps (f : Nat) (offset : Nat) (len : Nat) (s : State) :
    (stateOf s (execSplitRegisterRead f offset len s)).pending = s.pending ∧
    (stateOf s (execSplitRegisterRead f offset len s)).ident = s.ident ∧
    (stateOf s (execSplitRegisterRead f offset len s)).sck = s.sck ∧
    (stateOf s (execSplitRegisterRead f offset len s)).arc = s.arc ∧
    (stateOf s (execSplitRegisterRead f offset len s)).fe = s.fe ∧
    (stateOf s (execSplitRegisterRead f offset len s)).ts = s.ts ∧
    (stateOf s (execSplitRegisterRead f offset len s)).key = s.key ∧
    (stateOf s (execSplitRegisterRead f offset len s)).pke = s.pke ∧
    (stateOf s (execSplitRegisterRead f offset len s)).rnu = s.rnu ∧
    (stateOf s (execSplitRegisterRead f offset len s)).tls = s.tls ∧
    (stateOf s (execSplitRegisterRead f offset len s)).tm = s.tm ∧
    (stateOf s (execSplitRegisterRead f offset len s)).lcc = s.lcc ∧
    (stateOf s (execSplitRegisterRead f offset len s)).stc = s.stc ∧
    (stateOf s (execSplitRegisterRead f offset len s)).pwr = s.pwr ∧
    (stateOf s (execSplitRegisterRead f offset len s)).io = s.io ∧
    (stateOf s (execSplitRegisterRead f offset len s)).ev = s.ev ∧
    (stateOf s (execSplitRegisterRead f offset len s)).rw = s.rw ∧
    (stateOf s (execSplitRegisterRead f offset len s)).store = s.store ∧
    (stateOf s (execSplitRegisterRead f offset len s)).writes = s.writes ∧
    (stateOf s (execSplitRegisterRead f offset len s)).free = s.free := by
  simp only [execSplitRegisterRead, viaBar]
  (repeat' split) <;> simp

theorem execRefPriorityWrite_keeps (value : Nat) (s : State) :
    (stateOf s (execRefPriorityWrite value s)).pending = s.pending ∧
    (stateOf s (execRefPriorityWrite value s)).ident = s.ident ∧ (stateOf s (execRefPriorityWrite value s)).sck = s.sck ∧
    (stateOf s (execRefPriorityWrite value s)).arc = s.arc ∧ (stateOf s (execRefPriorityWrite value s)).pln = s.pln ∧
    (stateOf s (execRefPriorityWrite value s)).fe = s.fe ∧ (stateOf s (execRefPriorityWrite value s)).ts = s.ts ∧
    (stateOf s (execRefPriorityWrite value s)).key = s.key ∧ (stateOf s (execRefPriorityWrite value s)).pke = s.pke ∧
    (stateOf s (execRefPriorityWrite value s)).rnu = s.rnu ∧ (stateOf s (execRefPriorityWrite value s)).tls = s.tls ∧
    (stateOf s (execRefPriorityWrite value s)).ac = s.ac ∧ (stateOf s (execRefPriorityWrite value s)).tm = s.tm ∧
    (stateOf s (execRefPriorityWrite value s)).lcc = s.lcc ∧ (stateOf s (execRefPriorityWrite value s)).stc = s.stc ∧
    (stateOf s (execRefPriorityWrite value s)).pwr = s.pwr ∧ (stateOf s (execRefPriorityWrite value s)).io = s.io ∧
    (stateOf s (execRefPriorityWrite value s)).rw = s.rw ∧ (stateOf s (execRefPriorityWrite value s)).store = s.store ∧
    (stateOf s (execRefPriorityWrite value s)).free = s.free := by
  simp only [execRefPriorityWrite, viaBar]
  (repeat' split) <;> simp

theorem execPtpCfgWrite_keeps (value : Nat) (s : State) :
    (stateOf s (execPtpCfgWrite value s)).pending = s.pending ∧ (stateOf s (execPtpCfgWrite value s)).ident = s.ident ∧
    (stateOf s (execPtpCfgWrite value s)).sck = s.sck ∧ (stateOf s (execPtpCfgWrite value s)).arc = s.arc ∧
    (stateOf s (execPtpCfgWrite value s)).pln = s.pln ∧ (stateOf s (execPtpCfgWrite value s)).fe = s.fe ∧
    (stateOf s (execPtpCfgWrite value s)).ts = s.ts ∧ (stateOf s (execPtpCfgWrite value s)).key = s.key ∧
    (stateOf s (execPtpCfgWrite value s)).pke = s.pke ∧ (stateOf s (execPtpCfgWrite value s)).rnu = s.rnu ∧
    (stateOf s (execPtpCfgWrite value s)).tls = s.tls ∧ (stateOf s (execPtpCfgWrite value s)).ac = s.ac ∧
    (stateOf s (execPtpCfgWrite value s)).tm = s.tm ∧ (stateOf s (execPtpCfgWrite value s)).lcc = s.lcc ∧
    (stateOf s (execPtpCfgWrite value s)).stc = s.stc ∧ (stateOf s (execPtpCfgWrite value s)).pwr = s.pwr ∧
    (stateOf s (execPtpCfgWrite value s)).io = s.io ∧ (stateOf s (execPtpCfgWrite value s)).rw = s.rw ∧
    (stateOf s (execPtpCfgWrite value s)).store = s.store ∧ (stateOf s (execPtpCfgWrite value s)).free = s.free := by
  simp only [execPtpCfgWrite, viaBar]
  (repeat' split) <;> simp

theorem execTenMhzCfgWrite_keeps (value : Nat) (s : State) :
    (stateOf s (execTenMhzCfgWrite value s)).pending = s.pending ∧ (stateOf s (execTenMhzCfgWrite value s)).ident = s.ident ∧
    (stateOf s (execTenMhzCfgWrite value s)).sck = s.sck ∧ (stateOf s (execTenMhzCfgWrite value s)).arc = s.arc ∧
    (stateOf s (execTenMhzCfgWrite value s)).pln = s.pln ∧ (stateOf s (execTenMhzCfgWrite value s)).fe = s.fe ∧
    (stateOf s (execTenMhzCfgWrite value s)).ts = s.ts ∧ (stateOf s (execTenMhzCfgWrite value s)).key = s.key ∧
    (stateOf s (execTenMhzCfgWrite value s)).pke = s.pke ∧ (stateOf s (execTenMhzCfgWrite value s)).rnu = s.rnu ∧
    (stateOf s (execTenMhzCfgWrite value s)).tls = s.tls ∧ (stateOf s (execTenMhzCfgWrite value s)).ac = s.ac ∧
    (stateOf s (execTenMhzCfgWrite value s)).tm = s.tm ∧ (stateOf s (execTenMhzCfgWrite value s)).lcc = s.lcc ∧
    (stateOf s (execTenMhzCfgWrite value s)).stc = s.stc ∧ (stateOf s (execTenMhzCfgWrite value s)).pwr = s.pwr ∧
    (stateOf s (execTenMhzCfgWrite value s)).io = s.io ∧ (stateOf s (execTenMhzCfgWrite value s)).rw = s.rw ∧
    (stateOf s (execTenMhzCfgWrite value s)).store = s.store ∧ (stateOf s (execTenMhzCfgWrite value s)).free = s.free := by
  simp only [execTenMhzCfgWrite, viaBar]
  (repeat' split) <;> simp

theorem execRefChannelWrite_keeps (value : Nat) (s : State) :
    (stateOf s (execRefChannelWrite value s)).pending = s.pending ∧ (stateOf s (execRefChannelWrite value s)).ident = s.ident ∧
    (stateOf s (execRefChannelWrite value s)).sck = s.sck ∧ (stateOf s (execRefChannelWrite value s)).arc = s.arc ∧
    (stateOf s (execRefChannelWrite value s)).pln = s.pln ∧ (stateOf s (execRefChannelWrite value s)).fe = s.fe ∧
    (stateOf s (execRefChannelWrite value s)).ts = s.ts ∧ (stateOf s (execRefChannelWrite value s)).key = s.key ∧
    (stateOf s (execRefChannelWrite value s)).pke = s.pke ∧ (stateOf s (execRefChannelWrite value s)).rnu = s.rnu ∧
    (stateOf s (execRefChannelWrite value s)).tls = s.tls ∧ (stateOf s (execRefChannelWrite value s)).ac = s.ac ∧
    (stateOf s (execRefChannelWrite value s)).tm = s.tm ∧ (stateOf s (execRefChannelWrite value s)).lcc = s.lcc ∧
    (stateOf s (execRefChannelWrite value s)).stc = s.stc ∧ (stateOf s (execRefChannelWrite value s)).pwr = s.pwr ∧
    (stateOf s (execRefChannelWrite value s)).io = s.io ∧ (stateOf s (execRefChannelWrite value s)).rw = s.rw ∧
    (stateOf s (execRefChannelWrite value s)).store = s.store ∧ (stateOf s (execRefChannelWrite value s)).free = s.free := by
  simp only [execRefChannelWrite, viaBar]
  (repeat' split) <;> simp

theorem execRingZonesWrite_keeps (value : Nat) (s : State) :
    (stateOf s (execRingZonesWrite value s)).pending = s.pending ∧ (stateOf s (execRingZonesWrite value s)).ident = s.ident ∧
    (stateOf s (execRingZonesWrite value s)).sck = s.sck ∧ (stateOf s (execRingZonesWrite value s)).arc = s.arc ∧
    (stateOf s (execRingZonesWrite value s)).pln = s.pln ∧ (stateOf s (execRingZonesWrite value s)).fe = s.fe ∧
    (stateOf s (execRingZonesWrite value s)).hif = s.hif ∧ (stateOf s (execRingZonesWrite value s)).ts = s.ts ∧
    (stateOf s (execRingZonesWrite value s)).key = s.key ∧ (stateOf s (execRingZonesWrite value s)).pke = s.pke ∧
    (stateOf s (execRingZonesWrite value s)).rnu = s.rnu ∧ (stateOf s (execRingZonesWrite value s)).tls = s.tls ∧
    (stateOf s (execRingZonesWrite value s)).ac = s.ac ∧ (stateOf s (execRingZonesWrite value s)).tm = s.tm ∧
    (stateOf s (execRingZonesWrite value s)).lcc = s.lcc ∧ (stateOf s (execRingZonesWrite value s)).stc = s.stc ∧
    (stateOf s (execRingZonesWrite value s)).pwr = s.pwr ∧ (stateOf s (execRingZonesWrite value s)).io = s.io ∧
    (stateOf s (execRingZonesWrite value s)).ev = s.ev ∧ (stateOf s (execRingZonesWrite value s)).rw = s.rw ∧
    (stateOf s (execRingZonesWrite value s)).store = s.store ∧ (stateOf s (execRingZonesWrite value s)).free = s.free := by
  simp only [execRingZonesWrite, viaBar]
  (repeat' split) <;> simp

theorem execLoopCfgWrite_keeps (loop : Nat) (value : Nat) (s : State) :
    (stateOf s (execLoopCfgWrite loop value s)).pending = s.pending ∧
    (stateOf s (execLoopCfgWrite loop value s)).ident = s.ident ∧ (stateOf s (execLoopCfgWrite loop value s)).sck = s.sck ∧
    (stateOf s (execLoopCfgWrite loop value s)).arc = s.arc ∧ (stateOf s (execLoopCfgWrite loop value s)).pln = s.pln ∧
    (stateOf s (execLoopCfgWrite loop value s)).fe = s.fe ∧ (stateOf s (execLoopCfgWrite loop value s)).hif = s.hif ∧
    (stateOf s (execLoopCfgWrite loop value s)).ts = s.ts ∧ (stateOf s (execLoopCfgWrite loop value s)).key = s.key ∧
    (stateOf s (execLoopCfgWrite loop value s)).pke = s.pke ∧ (stateOf s (execLoopCfgWrite loop value s)).rnu = s.rnu ∧
    (stateOf s (execLoopCfgWrite loop value s)).tls = s.tls ∧ (stateOf s (execLoopCfgWrite loop value s)).ac = s.ac ∧
    (stateOf s (execLoopCfgWrite loop value s)).tm = s.tm ∧ (stateOf s (execLoopCfgWrite loop value s)).lcc = s.lcc ∧
    (stateOf s (execLoopCfgWrite loop value s)).stc = s.stc ∧ (stateOf s (execLoopCfgWrite loop value s)).pwr = s.pwr ∧
    (stateOf s (execLoopCfgWrite loop value s)).io = s.io ∧ (stateOf s (execLoopCfgWrite loop value s)).ev = s.ev ∧
    (stateOf s (execLoopCfgWrite loop value s)).rw = s.rw ∧ (stateOf s (execLoopCfgWrite loop value s)).store = s.store ∧
    (stateOf s (execLoopCfgWrite loop value s)).free = s.free := by
  simp only [execLoopCfgWrite, viaBar]
  (repeat' split) <;> simp

theorem execSettingStore_keeps (s : State) :
    (stateOf s (execSettingStore s)).pending = s.pending ∧ (stateOf s (execSettingStore s)).ident = s.ident ∧
    (stateOf s (execSettingStore s)).ac = s.ac ∧ (stateOf s (execSettingStore s)).pwr = s.pwr ∧
    (stateOf s (execSettingStore s)).free = s.free := by
  simp only [execSettingStore, onMain]
  (repeat' split) <;> simp

theorem execRegisterWrite_keeps (f : Nat) (offset : Nat) (len : Nat) (value : Nat) (i : StartIn) (s : State) :
    (stateOf s (execRegisterWrite f offset len value i s)).pending = s.pending ∧
    (stateOf s (execRegisterWrite f offset len value i s)).ident = s.ident := by
  simp only [execRegisterWrite, viaBar]
  (repeat' split) <;> simp

end Sys2Proof.Machine
end

