-- ==== Sys2Proof/Laws/KeepRing.lean ====
section
/-! SUPPORT. What each meaning of Machine/Ring.lean leaves unchanged in every state, once for each command. -/

namespace Sys2Proof.Machine

theorem execDoorbellWrite_keeps (f : Nat) (ring : Nat) (value : Nat) (s : State) :
    (stateOf s (execDoorbellWrite f ring value s)).pending = s.pending ∧
    (stateOf s (execDoorbellWrite f ring value s)).ident = s.ident ∧
    (stateOf s (execDoorbellWrite f ring value s)).sck = s.sck ∧ (stateOf s (execDoorbellWrite f ring value s)).fe = s.fe ∧
    (stateOf s (execDoorbellWrite f ring value s)).key = s.key ∧ (stateOf s (execDoorbellWrite f ring value s)).pke = s.pke ∧
    (stateOf s (execDoorbellWrite f ring value s)).rnu = s.rnu ∧ (stateOf s (execDoorbellWrite f ring value s)).tls = s.tls ∧
    (stateOf s (execDoorbellWrite f ring value s)).ac = s.ac ∧ (stateOf s (execDoorbellWrite f ring value s)).tm = s.tm ∧
    (stateOf s (execDoorbellWrite f ring value s)).lcc = s.lcc ∧ (stateOf s (execDoorbellWrite f ring value s)).stc = s.stc ∧
    (stateOf s (execDoorbellWrite f ring value s)).io = s.io ∧ (stateOf s (execDoorbellWrite f ring value s)).rw = s.rw ∧
    (stateOf s (execDoorbellWrite f ring value s)).store = s.store ∧
    (stateOf s (execDoorbellWrite f ring value s)).writes = s.writes ∧
    (stateOf s (execDoorbellWrite f ring value s)).free = s.free := by
  simp only [execDoorbellWrite, viaBar]
  (repeat' split) <;> simp

theorem execArbitrationRound_keeps (mem : HostMem) (s : State) :
    (stateOf s (execArbitrationRound mem s)).pending = s.pending ∧ (stateOf s (execArbitrationRound mem s)).ident = s.ident ∧
    (stateOf s (execArbitrationRound mem s)).sck = s.sck ∧ (stateOf s (execArbitrationRound mem s)).fe = s.fe ∧
    (stateOf s (execArbitrationRound mem s)).key = s.key ∧ (stateOf s (execArbitrationRound mem s)).pke = s.pke ∧
    (stateOf s (execArbitrationRound mem s)).rnu = s.rnu ∧ (stateOf s (execArbitrationRound mem s)).tls = s.tls ∧
    (stateOf s (execArbitrationRound mem s)).ac = s.ac ∧ (stateOf s (execArbitrationRound mem s)).tm = s.tm ∧
    (stateOf s (execArbitrationRound mem s)).lcc = s.lcc ∧ (stateOf s (execArbitrationRound mem s)).stc = s.stc ∧
    (stateOf s (execArbitrationRound mem s)).io = s.io ∧ (stateOf s (execArbitrationRound mem s)).rw = s.rw ∧
    (stateOf s (execArbitrationRound mem s)).store = s.store ∧ (stateOf s (execArbitrationRound mem s)).writes = s.writes ∧
    (stateOf s (execArbitrationRound mem s)).free = s.free := by
  simp only [execArbitrationRound, onMain]
  (repeat' split) <;> simp

theorem execPad_keeps (f : Nat) (ring : Nat) (len : Nat) (s : State) :
    (stateOf s (execPad f ring len s)).pending = s.pending ∧ (stateOf s (execPad f ring len s)).ident = s.ident ∧
    (stateOf s (execPad f ring len s)).sck = s.sck ∧ (stateOf s (execPad f ring len s)).arc = s.arc ∧
    (stateOf s (execPad f ring len s)).pln = s.pln ∧ (stateOf s (execPad f ring len s)).fe = s.fe ∧
    (stateOf s (execPad f ring len s)).ts = s.ts ∧ (stateOf s (execPad f ring len s)).key = s.key ∧
    (stateOf s (execPad f ring len s)).pke = s.pke ∧ (stateOf s (execPad f ring len s)).rnu = s.rnu ∧
    (stateOf s (execPad f ring len s)).tls = s.tls ∧ (stateOf s (execPad f ring len s)).ac = s.ac ∧
    (stateOf s (execPad f ring len s)).tm = s.tm ∧ (stateOf s (execPad f ring len s)).lcc = s.lcc ∧
    (stateOf s (execPad f ring len s)).stc = s.stc ∧ (stateOf s (execPad f ring len s)).pwr = s.pwr ∧
    (stateOf s (execPad f ring len s)).io = s.io ∧ (stateOf s (execPad f ring len s)).ev = s.ev ∧
    (stateOf s (execPad f ring len s)).rw = s.rw ∧ (stateOf s (execPad f ring len s)).store = s.store ∧
    (stateOf s (execPad f ring len s)).writes = s.writes ∧ (stateOf s (execPad f ring len s)).free = s.free := by
  simp only [execPad, onMain]
  (repeat' split) <;> simp

theorem execHeadAdvance_keeps (f : Nat) (ring : Nat) (s : State) :
    (stateOf s (execHeadAdvance f ring s)).pending = s.pending ∧ (stateOf s (execHeadAdvance f ring s)).ident = s.ident ∧
    (stateOf s (execHeadAdvance f ring s)).sck = s.sck ∧ (stateOf s (execHeadAdvance f ring s)).arc = s.arc ∧
    (stateOf s (execHeadAdvance f ring s)).pln = s.pln ∧ (stateOf s (execHeadAdvance f ring s)).fe = s.fe ∧
    (stateOf s (execHeadAdvance f ring s)).ts = s.ts ∧ (stateOf s (execHeadAdvance f ring s)).key = s.key ∧
    (stateOf s (execHeadAdvance f ring s)).pke = s.pke ∧ (stateOf s (execHeadAdvance f ring s)).rnu = s.rnu ∧
    (stateOf s (execHeadAdvance f ring s)).tls = s.tls ∧ (stateOf s (execHeadAdvance f ring s)).ac = s.ac ∧
    (stateOf s (execHeadAdvance f ring s)).tm = s.tm ∧ (stateOf s (execHeadAdvance f ring s)).lcc = s.lcc ∧
    (stateOf s (execHeadAdvance f ring s)).stc = s.stc ∧ (stateOf s (execHeadAdvance f ring s)).pwr = s.pwr ∧
    (stateOf s (execHeadAdvance f ring s)).io = s.io ∧ (stateOf s (execHeadAdvance f ring s)).ev = s.ev ∧
    (stateOf s (execHeadAdvance f ring s)).rw = s.rw ∧ (stateOf s (execHeadAdvance f ring s)).store = s.store ∧
    (stateOf s (execHeadAdvance f ring s)).writes = s.writes ∧ (stateOf s (execHeadAdvance f ring s)).free = s.free := by
  simp only [execHeadAdvance, onMain]
  (repeat' split) <;> simp

theorem execModerationTimer_keeps (f : Nat) (ring : Nat) (s : State) :
    (stateOf s (execModerationTimer f ring s)).pending = s.pending ∧
    (stateOf s (execModerationTimer f ring s)).ident = s.ident ∧ (stateOf s (execModerationTimer f ring s)).sck = s.sck ∧
    (stateOf s (execModerationTimer f ring s)).arc = s.arc ∧ (stateOf s (execModerationTimer f ring s)).pln = s.pln ∧
    (stateOf s (execModerationTimer f ring s)).fe = s.fe ∧ (stateOf s (execModerationTimer f ring s)).ts = s.ts ∧
    (stateOf s (execModerationTimer f ring s)).key = s.key ∧ (stateOf s (execModerationTimer f ring s)).pke = s.pke ∧
    (stateOf s (execModerationTimer f ring s)).rnu = s.rnu ∧ (stateOf s (execModerationTimer f ring s)).tls = s.tls ∧
    (stateOf s (execModerationTimer f ring s)).ac = s.ac ∧ (stateOf s (execModerationTimer f ring s)).tm = s.tm ∧
    (stateOf s (execModerationTimer f ring s)).lcc = s.lcc ∧ (stateOf s (execModerationTimer f ring s)).stc = s.stc ∧
    (stateOf s (execModerationTimer f ring s)).pwr = s.pwr ∧ (stateOf s (execModerationTimer f ring s)).io = s.io ∧
    (stateOf s (execModerationTimer f ring s)).ev = s.ev ∧ (stateOf s (execModerationTimer f ring s)).rw = s.rw ∧
    (stateOf s (execModerationTimer f ring s)).store = s.store ∧ (stateOf s (execModerationTimer f ring s)).writes = s.writes ∧
    (stateOf s (execModerationTimer f ring s)).free = s.free := by
  simp only [execModerationTimer, onMain]
  (repeat' split) <;> simp

theorem execCompleteByExpiry_keeps (ctx : Nat) (s : State) :
    (stateOf s (execCompleteByExpiry ctx s)).pending = s.pending ∧ (stateOf s (execCompleteByExpiry ctx s)).ident = s.ident ∧
    (stateOf s (execCompleteByExpiry ctx s)).sck = s.sck ∧ (stateOf s (execCompleteByExpiry ctx s)).arc = s.arc ∧
    (stateOf s (execCompleteByExpiry ctx s)).pln = s.pln ∧ (stateOf s (execCompleteByExpiry ctx s)).fe = s.fe ∧
    (stateOf s (execCompleteByExpiry ctx s)).key = s.key ∧ (stateOf s (execCompleteByExpiry ctx s)).pke = s.pke ∧
    (stateOf s (execCompleteByExpiry ctx s)).rnu = s.rnu ∧ (stateOf s (execCompleteByExpiry ctx s)).tls = s.tls ∧
    (stateOf s (execCompleteByExpiry ctx s)).ac = s.ac ∧ (stateOf s (execCompleteByExpiry ctx s)).tm = s.tm ∧
    (stateOf s (execCompleteByExpiry ctx s)).lcc = s.lcc ∧ (stateOf s (execCompleteByExpiry ctx s)).stc = s.stc ∧
    (stateOf s (execCompleteByExpiry ctx s)).pwr = s.pwr ∧ (stateOf s (execCompleteByExpiry ctx s)).io = s.io ∧
    (stateOf s (execCompleteByExpiry ctx s)).ev = s.ev ∧ (stateOf s (execCompleteByExpiry ctx s)).rw = s.rw ∧
    (stateOf s (execCompleteByExpiry ctx s)).store = s.store ∧ (stateOf s (execCompleteByExpiry ctx s)).writes = s.writes ∧
    (stateOf s (execCompleteByExpiry ctx s)).free = s.free := by
  simp only [execCompleteByExpiry, onMain]
  (repeat' split) <;> simp

theorem execRingEnable_keeps (f : Nat) (ring : Nat) (cfg : Nat) (s : State) :
    (stateOf s (execRingEnable f ring cfg s)).pending = s.pending ∧ (stateOf s (execRingEnable f ring cfg s)).ident = s.ident ∧
    (stateOf s (execRingEnable f ring cfg s)).sck = s.sck ∧ (stateOf s (execRingEnable f ring cfg s)).arc = s.arc ∧
    (stateOf s (execRingEnable f ring cfg s)).pln = s.pln ∧ (stateOf s (execRingEnable f ring cfg s)).fe = s.fe ∧
    (stateOf s (execRingEnable f ring cfg s)).ts = s.ts ∧ (stateOf s (execRingEnable f ring cfg s)).key = s.key ∧
    (stateOf s (execRingEnable f ring cfg s)).pke = s.pke ∧ (stateOf s (execRingEnable f ring cfg s)).rnu = s.rnu ∧
    (stateOf s (execRingEnable f ring cfg s)).tls = s.tls ∧ (stateOf s (execRingEnable f ring cfg s)).ac = s.ac ∧
    (stateOf s (execRingEnable f ring cfg s)).tm = s.tm ∧ (stateOf s (execRingEnable f ring cfg s)).lcc = s.lcc ∧
    (stateOf s (execRingEnable f ring cfg s)).stc = s.stc ∧ (stateOf s (execRingEnable f ring cfg s)).pwr = s.pwr ∧
    (stateOf s (execRingEnable f ring cfg s)).io = s.io ∧ (stateOf s (execRingEnable f ring cfg s)).ev = s.ev ∧
    (stateOf s (execRingEnable f ring cfg s)).rw = s.rw ∧ (stateOf s (execRingEnable f ring cfg s)).store = s.store ∧
    (stateOf s (execRingEnable f ring cfg s)).writes = s.writes ∧ (stateOf s (execRingEnable f ring cfg s)).free = s.free := by
  simp only [execRingEnable, viaBar]
  (repeat' split) <;> simp

theorem execRingDrain_keeps (f : Nat) (ring : Nat) (s : State) :
    (stateOf s (execRingDrain f ring s)).pending = s.pending ∧ (stateOf s (execRingDrain f ring s)).ident = s.ident ∧
    (stateOf s (execRingDrain f ring s)).sck = s.sck ∧ (stateOf s (execRingDrain f ring s)).arc = s.arc ∧
    (stateOf s (execRingDrain f ring s)).pln = s.pln ∧ (stateOf s (execRingDrain f ring s)).fe = s.fe ∧
    (stateOf s (execRingDrain f ring s)).key = s.key ∧ (stateOf s (execRingDrain f ring s)).pke = s.pke ∧
    (stateOf s (execRingDrain f ring s)).rnu = s.rnu ∧ (stateOf s (execRingDrain f ring s)).tls = s.tls ∧
    (stateOf s (execRingDrain f ring s)).ac = s.ac ∧ (stateOf s (execRingDrain f ring s)).tm = s.tm ∧
    (stateOf s (execRingDrain f ring s)).lcc = s.lcc ∧ (stateOf s (execRingDrain f ring s)).stc = s.stc ∧
    (stateOf s (execRingDrain f ring s)).pwr = s.pwr ∧ (stateOf s (execRingDrain f ring s)).io = s.io ∧
    (stateOf s (execRingDrain f ring s)).ev = s.ev ∧ (stateOf s (execRingDrain f ring s)).rw = s.rw ∧
    (stateOf s (execRingDrain f ring s)).store = s.store ∧ (stateOf s (execRingDrain f ring s)).writes = s.writes ∧
    (stateOf s (execRingDrain f ring s)).free = s.free := by
  simp only [execRingDrain, viaBar]
  (repeat' split) <;> simp

theorem execRingInactive_keeps (f : Nat) (ring : Nat) (s : State) :
    (stateOf s (execRingInactive f ring s)).pending = s.pending ∧ (stateOf s (execRingInactive f ring s)).ident = s.ident ∧
    (stateOf s (execRingInactive f ring s)).sck = s.sck ∧ (stateOf s (execRingInactive f ring s)).arc = s.arc ∧
    (stateOf s (execRingInactive f ring s)).pln = s.pln ∧ (stateOf s (execRingInactive f ring s)).fe = s.fe ∧
    (stateOf s (execRingInactive f ring s)).ts = s.ts ∧ (stateOf s (execRingInactive f ring s)).key = s.key ∧
    (stateOf s (execRingInactive f ring s)).pke = s.pke ∧ (stateOf s (execRingInactive f ring s)).rnu = s.rnu ∧
    (stateOf s (execRingInactive f ring s)).tls = s.tls ∧ (stateOf s (execRingInactive f ring s)).ac = s.ac ∧
    (stateOf s (execRingInactive f ring s)).tm = s.tm ∧ (stateOf s (execRingInactive f ring s)).lcc = s.lcc ∧
    (stateOf s (execRingInactive f ring s)).stc = s.stc ∧ (stateOf s (execRingInactive f ring s)).pwr = s.pwr ∧
    (stateOf s (execRingInactive f ring s)).io = s.io ∧ (stateOf s (execRingInactive f ring s)).ev = s.ev ∧
    (stateOf s (execRingInactive f ring s)).rw = s.rw ∧ (stateOf s (execRingInactive f ring s)).store = s.store ∧
    (stateOf s (execRingInactive f ring s)).writes = s.writes ∧ (stateOf s (execRingInactive f ring s)).free = s.free := by
  simp only [execRingInactive, onMain]
  (repeat' split) <;> simp

theorem execDataPortOpen_keeps (f : Nat) (out : Option Nat) (s : State) :
    (stateOf s (execDataPortOpen f out s)).pending = s.pending ∧ (stateOf s (execDataPortOpen f out s)).ident = s.ident ∧
    (stateOf s (execDataPortOpen f out s)).sck = s.sck ∧ (stateOf s (execDataPortOpen f out s)).arc = s.arc ∧
    (stateOf s (execDataPortOpen f out s)).pln = s.pln ∧ (stateOf s (execDataPortOpen f out s)).fe = s.fe ∧
    (stateOf s (execDataPortOpen f out s)).ts = s.ts ∧ (stateOf s (execDataPortOpen f out s)).key = s.key ∧
    (stateOf s (execDataPortOpen f out s)).pke = s.pke ∧ (stateOf s (execDataPortOpen f out s)).rnu = s.rnu ∧
    (stateOf s (execDataPortOpen f out s)).tls = s.tls ∧ (stateOf s (execDataPortOpen f out s)).ac = s.ac ∧
    (stateOf s (execDataPortOpen f out s)).tm = s.tm ∧ (stateOf s (execDataPortOpen f out s)).lcc = s.lcc ∧
    (stateOf s (execDataPortOpen f out s)).stc = s.stc ∧ (stateOf s (execDataPortOpen f out s)).pwr = s.pwr ∧
    (stateOf s (execDataPortOpen f out s)).io = s.io ∧ (stateOf s (execDataPortOpen f out s)).ev = s.ev ∧
    (stateOf s (execDataPortOpen f out s)).rw = s.rw ∧ (stateOf s (execDataPortOpen f out s)).store = s.store ∧
    (stateOf s (execDataPortOpen f out s)).writes = s.writes ∧ (stateOf s (execDataPortOpen f out s)).out = s.out ∧
    (stateOf s (execDataPortOpen f out s)).free = s.free := by
  simp only [execDataPortOpen, onMain]
  (repeat' split) <;> simp

theorem execDataPortWrite_keeps (f : Nat) (offset : Nat) (bytes : Bytes) (s : State) :
    (stateOf s (execDataPortWrite f offset bytes s)).pending = s.pending ∧
    (stateOf s (execDataPortWrite f offset bytes s)).ident = s.ident ∧
    (stateOf s (execDataPortWrite f offset bytes s)).sck = s.sck ∧ (stateOf s (execDataPortWrite f offset bytes s)).fe = s.fe ∧
    (stateOf s (execDataPortWrite f offset bytes s)).key = s.key ∧
    (stateOf s (execDataPortWrite f offset bytes s)).pke = s.pke ∧
    (stateOf s (execDataPortWrite f offset bytes s)).rnu = s.rnu ∧
    (stateOf s (execDataPortWrite f offset bytes s)).tls = s.tls ∧ (stateOf s (execDataPortWrite f offset bytes s)).ac = s.ac ∧
    (stateOf s (execDataPortWrite f offset bytes s)).tm = s.tm ∧ (stateOf s (execDataPortWrite f offset bytes s)).lcc = s.lcc ∧
    (stateOf s (execDataPortWrite f offset bytes s)).stc = s.stc ∧ (stateOf s (execDataPortWrite f offset bytes s)).io = s.io ∧
    (stateOf s (execDataPortWrite f offset bytes s)).rw = s.rw ∧
    (stateOf s (execDataPortWrite f offset bytes s)).store = s.store ∧
    (stateOf s (execDataPortWrite f offset bytes s)).writes = s.writes ∧
    (stateOf s (execDataPortWrite f offset bytes s)).free = s.free := by
  simp only [execDataPortWrite, viaBar]
  (repeat' split) <;> simp

theorem execDataPortRead_keeps (f : Nat) (offset : Nat) (len : Nat) (s : State) :
    (stateOf s (execDataPortRead f offset len s)).pending = s.pending ∧
    (stateOf s (execDataPortRead f offset len s)).ident = s.ident ∧ (stateOf s (execDataPortRead f offset len s)).sck = s.sck ∧
    (stateOf s (execDataPortRead f offset len s)).arc = s.arc ∧ (stateOf s (execDataPortRead f offset len s)).pln = s.pln ∧
    (stateOf s (execDataPortRead f offset len s)).fe = s.fe ∧ (stateOf s (execDataPortRead f offset len s)).ts = s.ts ∧
    (stateOf s (execDataPortRead f offset len s)).key = s.key ∧ (stateOf s (execDataPortRead f offset len s)).pke = s.pke ∧
    (stateOf s (execDataPortRead f offset len s)).rnu = s.rnu ∧ (stateOf s (execDataPortRead f offset len s)).tls = s.tls ∧
    (stateOf s (execDataPortRead f offset len s)).ac = s.ac ∧ (stateOf s (execDataPortRead f offset len s)).tm = s.tm ∧
    (stateOf s (execDataPortRead f offset len s)).lcc = s.lcc ∧ (stateOf s (execDataPortRead f offset len s)).stc = s.stc ∧
    (stateOf s (execDataPortRead f offset len s)).pwr = s.pwr ∧ (stateOf s (execDataPortRead f offset len s)).io = s.io ∧
    (stateOf s (execDataPortRead f offset len s)).ev = s.ev ∧ (stateOf s (execDataPortRead f offset len s)).rw = s.rw ∧
    (stateOf s (execDataPortRead f offset len s)).store = s.store ∧
    (stateOf s (execDataPortRead f offset len s)).writes = s.writes ∧
    (stateOf s (execDataPortRead f offset len s)).free = s.free := by
  simp only [execDataPortRead, viaBar]
  (repeat' split) <;> simp

theorem execDataPortAbort_keeps (f : Nat) (s : State) :
    (stateOf s (execDataPortAbort f s)).pending = s.pending ∧ (stateOf s (execDataPortAbort f s)).ident = s.ident ∧
    (stateOf s (execDataPortAbort f s)).sck = s.sck ∧ (stateOf s (execDataPortAbort f s)).fe = s.fe ∧
    (stateOf s (execDataPortAbort f s)).key = s.key ∧ (stateOf s (execDataPortAbort f s)).pke = s.pke ∧
    (stateOf s (execDataPortAbort f s)).rnu = s.rnu ∧ (stateOf s (execDataPortAbort f s)).tls = s.tls ∧
    (stateOf s (execDataPortAbort f s)).ac = s.ac ∧ (stateOf s (execDataPortAbort f s)).tm = s.tm ∧
    (stateOf s (execDataPortAbort f s)).lcc = s.lcc ∧ (stateOf s (execDataPortAbort f s)).stc = s.stc ∧
    (stateOf s (execDataPortAbort f s)).io = s.io ∧ (stateOf s (execDataPortAbort f s)).rw = s.rw ∧
    (stateOf s (execDataPortAbort f s)).store = s.store ∧ (stateOf s (execDataPortAbort f s)).writes = s.writes ∧
    (stateOf s (execDataPortAbort f s)).free = s.free := by
  simp only [execDataPortAbort, viaBar]
  (repeat' split) <;> simp

theorem execDataPortTimeout_keeps (f : Nat) (s : State) :
    (stateOf s (execDataPortTimeout f s)).pending = s.pending ∧ (stateOf s (execDataPortTimeout f s)).ident = s.ident ∧
    (stateOf s (execDataPortTimeout f s)).sck = s.sck ∧ (stateOf s (execDataPortTimeout f s)).fe = s.fe ∧
    (stateOf s (execDataPortTimeout f s)).key = s.key ∧ (stateOf s (execDataPortTimeout f s)).pke = s.pke ∧
    (stateOf s (execDataPortTimeout f s)).rnu = s.rnu ∧ (stateOf s (execDataPortTimeout f s)).tls = s.tls ∧
    (stateOf s (execDataPortTimeout f s)).ac = s.ac ∧ (stateOf s (execDataPortTimeout f s)).tm = s.tm ∧
    (stateOf s (execDataPortTimeout f s)).lcc = s.lcc ∧ (stateOf s (execDataPortTimeout f s)).stc = s.stc ∧
    (stateOf s (execDataPortTimeout f s)).io = s.io ∧ (stateOf s (execDataPortTimeout f s)).rw = s.rw ∧
    (stateOf s (execDataPortTimeout f s)).store = s.store ∧ (stateOf s (execDataPortTimeout f s)).writes = s.writes ∧
    (stateOf s (execDataPortTimeout f s)).free = s.free := by
  simp only [execDataPortTimeout, onMain]
  (repeat' split) <;> simp

theorem execBusMasterEnableSet_keeps (f : Nat) (s : State) :
    (stateOf s (execBusMasterEnableSet f s)).pending = s.pending ∧ (stateOf s (execBusMasterEnableSet f s)).ident = s.ident ∧
    (stateOf s (execBusMasterEnableSet f s)).sck = s.sck ∧ (stateOf s (execBusMasterEnableSet f s)).arc = s.arc ∧
    (stateOf s (execBusMasterEnableSet f s)).pln = s.pln ∧ (stateOf s (execBusMasterEnableSet f s)).fe = s.fe ∧
    (stateOf s (execBusMasterEnableSet f s)).ts = s.ts ∧ (stateOf s (execBusMasterEnableSet f s)).key = s.key ∧
    (stateOf s (execBusMasterEnableSet f s)).pke = s.pke ∧ (stateOf s (execBusMasterEnableSet f s)).rnu = s.rnu ∧
    (stateOf s (execBusMasterEnableSet f s)).tls = s.tls ∧ (stateOf s (execBusMasterEnableSet f s)).ac = s.ac ∧
    (stateOf s (execBusMasterEnableSet f s)).tm = s.tm ∧ (stateOf s (execBusMasterEnableSet f s)).lcc = s.lcc ∧
    (stateOf s (execBusMasterEnableSet f s)).stc = s.stc ∧ (stateOf s (execBusMasterEnableSet f s)).pwr = s.pwr ∧
    (stateOf s (execBusMasterEnableSet f s)).io = s.io ∧ (stateOf s (execBusMasterEnableSet f s)).ev = s.ev ∧
    (stateOf s (execBusMasterEnableSet f s)).rw = s.rw ∧ (stateOf s (execBusMasterEnableSet f s)).store = s.store ∧
    (stateOf s (execBusMasterEnableSet f s)).writes = s.writes ∧ (stateOf s (execBusMasterEnableSet f s)).free = s.free := by
  simp only [execBusMasterEnableSet, onMain]
  (repeat' split) <;> simp

theorem execBusMasterEnableClear_keeps (f : Nat) (s : State) :
    (stateOf s (execBusMasterEnableClear f s)).pending = s.pending ∧
    (stateOf s (execBusMasterEnableClear f s)).ident = s.ident ∧ (stateOf s (execBusMasterEnableClear f s)).sck = s.sck ∧
    (stateOf s (execBusMasterEnableClear f s)).arc = s.arc ∧ (stateOf s (execBusMasterEnableClear f s)).pln = s.pln ∧
    (stateOf s (execBusMasterEnableClear f s)).fe = s.fe ∧ (stateOf s (execBusMasterEnableClear f s)).ts = s.ts ∧
    (stateOf s (execBusMasterEnableClear f s)).key = s.key ∧ (stateOf s (execBusMasterEnableClear f s)).pke = s.pke ∧
    (stateOf s (execBusMasterEnableClear f s)).rnu = s.rnu ∧ (stateOf s (execBusMasterEnableClear f s)).tls = s.tls ∧
    (stateOf s (execBusMasterEnableClear f s)).ac = s.ac ∧ (stateOf s (execBusMasterEnableClear f s)).tm = s.tm ∧
    (stateOf s (execBusMasterEnableClear f s)).lcc = s.lcc ∧ (stateOf s (execBusMasterEnableClear f s)).stc = s.stc ∧
    (stateOf s (execBusMasterEnableClear f s)).pwr = s.pwr ∧ (stateOf s (execBusMasterEnableClear f s)).io = s.io ∧
    (stateOf s (execBusMasterEnableClear f s)).ev = s.ev ∧ (stateOf s (execBusMasterEnableClear f s)).rw = s.rw ∧
    (stateOf s (execBusMasterEnableClear f s)).store = s.store ∧ (stateOf s (execBusMasterEnableClear f s)).writes = s.writes ∧
    (stateOf s (execBusMasterEnableClear f s)).out = s.out ∧ (stateOf s (execBusMasterEnableClear f s)).free = s.free := by
  simp only [execBusMasterEnableClear, onMain]
  (repeat' split) <;> simp

theorem execD3hotTransition_keeps (f : Nat) (enter : Bool) (s : State) :
    (stateOf s (execD3hotTransition f enter s)).pending = s.pending ∧
    (stateOf s (execD3hotTransition f enter s)).ident = s.ident ∧ (stateOf s (execD3hotTransition f enter s)).sck = s.sck ∧
    (stateOf s (execD3hotTransition f enter s)).arc = s.arc ∧ (stateOf s (execD3hotTransition f enter s)).pln = s.pln ∧
    (stateOf s (execD3hotTransition f enter s)).fe = s.fe ∧ (stateOf s (execD3hotTransition f enter s)).ts = s.ts ∧
    (stateOf s (execD3hotTransition f enter s)).key = s.key ∧ (stateOf s (execD3hotTransition f enter s)).pke = s.pke ∧
    (stateOf s (execD3hotTransition f enter s)).rnu = s.rnu ∧ (stateOf s (execD3hotTransition f enter s)).tls = s.tls ∧
    (stateOf s (execD3hotTransition f enter s)).ac = s.ac ∧ (stateOf s (execD3hotTransition f enter s)).tm = s.tm ∧
    (stateOf s (execD3hotTransition f enter s)).lcc = s.lcc ∧ (stateOf s (execD3hotTransition f enter s)).stc = s.stc ∧
    (stateOf s (execD3hotTransition f enter s)).pwr = s.pwr ∧ (stateOf s (execD3hotTransition f enter s)).io = s.io ∧
    (stateOf s (execD3hotTransition f enter s)).ev = s.ev ∧ (stateOf s (execD3hotTransition f enter s)).rw = s.rw ∧
    (stateOf s (execD3hotTransition f enter s)).store = s.store ∧
    (stateOf s (execD3hotTransition f enter s)).writes = s.writes ∧ (stateOf s (execD3hotTransition f enter s)).free = s.free := by
  simp only [execD3hotTransition, onMain]
  (repeat' split) <;> simp

theorem execMsixUnmask_keeps (f : Nat) (vector : Option Nat) (s : State) :
    (stateOf s (execMsixUnmask f vector s)).pending = s.pending ∧ (stateOf s (execMsixUnmask f vector s)).ident = s.ident ∧
    (stateOf s (execMsixUnmask f vector s)).sck = s.sck ∧ (stateOf s (execMsixUnmask f vector s)).arc = s.arc ∧
    (stateOf s (execMsixUnmask f vector s)).pln = s.pln ∧ (stateOf s (execMsixUnmask f vector s)).fe = s.fe ∧
    (stateOf s (execMsixUnmask f vector s)).ts = s.ts ∧ (stateOf s (execMsixUnmask f vector s)).key = s.key ∧
    (stateOf s (execMsixUnmask f vector s)).pke = s.pke ∧ (stateOf s (execMsixUnmask f vector s)).rnu = s.rnu ∧
    (stateOf s (execMsixUnmask f vector s)).tls = s.tls ∧ (stateOf s (execMsixUnmask f vector s)).ac = s.ac ∧
    (stateOf s (execMsixUnmask f vector s)).tm = s.tm ∧ (stateOf s (execMsixUnmask f vector s)).lcc = s.lcc ∧
    (stateOf s (execMsixUnmask f vector s)).stc = s.stc ∧ (stateOf s (execMsixUnmask f vector s)).pwr = s.pwr ∧
    (stateOf s (execMsixUnmask f vector s)).io = s.io ∧ (stateOf s (execMsixUnmask f vector s)).ev = s.ev ∧
    (stateOf s (execMsixUnmask f vector s)).rw = s.rw ∧ (stateOf s (execMsixUnmask f vector s)).store = s.store ∧
    (stateOf s (execMsixUnmask f vector s)).writes = s.writes ∧ (stateOf s (execMsixUnmask f vector s)).free = s.free := by
  simp only [execMsixUnmask, onMain]
  (repeat' split) <;> simp

end Sys2Proof.Machine
end

