-- ==== Sys2Proof/Laws/KeepRnu.lean ====
section
/-! SUPPORT. What each meaning of Machine/Rnu.lean leaves unchanged in every state, once for each command. -/

namespace Sys2Proof.Machine

theorem execRnuHealthFailure_keeps (cause : Nat) (source : Nat) (startup : Bool) (taken : Bytes) (partly : List (Nat × Nat)) (s : State) :
    (stateOf s (execRnuHealthFailure cause source startup taken partly s)).pending = s.pending ∧
    (stateOf s (execRnuHealthFailure cause source startup taken partly s)).ident = s.ident ∧
    (stateOf s (execRnuHealthFailure cause source startup taken partly s)).sck = s.sck ∧
    (stateOf s (execRnuHealthFailure cause source startup taken partly s)).ac = s.ac ∧
    (stateOf s (execRnuHealthFailure cause source startup taken partly s)).pwr = s.pwr ∧
    (stateOf s (execRnuHealthFailure cause source startup taken partly s)).rw = s.rw ∧
    (stateOf s (execRnuHealthFailure cause source startup taken partly s)).store = s.store ∧
    (stateOf s (execRnuHealthFailure cause source startup taken partly s)).writes = s.writes := by
  simp only [execRnuHealthFailure, onMain]
  (repeat' split) <;> simp

theorem execRnuStartupPass_keeps (s : State) :
    (stateOf s (execRnuStartupPass s)).pending = s.pending ∧ (stateOf s (execRnuStartupPass s)).ident = s.ident ∧
    (stateOf s (execRnuStartupPass s)).sck = s.sck ∧ (stateOf s (execRnuStartupPass s)).pln = s.pln ∧
    (stateOf s (execRnuStartupPass s)).pke = s.pke ∧ (stateOf s (execRnuStartupPass s)).tls = s.tls ∧
    (stateOf s (execRnuStartupPass s)).ac = s.ac ∧ (stateOf s (execRnuStartupPass s)).tm = s.tm ∧
    (stateOf s (execRnuStartupPass s)).lcc = s.lcc ∧ (stateOf s (execRnuStartupPass s)).stc = s.stc ∧
    (stateOf s (execRnuStartupPass s)).pwr = s.pwr ∧ (stateOf s (execRnuStartupPass s)).io = s.io ∧
    (stateOf s (execRnuStartupPass s)).rw = s.rw ∧ (stateOf s (execRnuStartupPass s)).store = s.store ∧
    (stateOf s (execRnuStartupPass s)).writes = s.writes := by
  simp only [execRnuStartupPass, onMain]
  (repeat' split) <;> simp

theorem execRnuReseed_keeps (s : State) :
    (stateOf s (execRnuReseed s)).pending = s.pending ∧ (stateOf s (execRnuReseed s)).ident = s.ident ∧
    (stateOf s (execRnuReseed s)).sck = s.sck ∧ (stateOf s (execRnuReseed s)).arc = s.arc ∧
    (stateOf s (execRnuReseed s)).pln = s.pln ∧ (stateOf s (execRnuReseed s)).fe = s.fe ∧
    (stateOf s (execRnuReseed s)).hif = s.hif ∧ (stateOf s (execRnuReseed s)).ts = s.ts ∧
    (stateOf s (execRnuReseed s)).key = s.key ∧ (stateOf s (execRnuReseed s)).pke = s.pke ∧
    (stateOf s (execRnuReseed s)).tls = s.tls ∧ (stateOf s (execRnuReseed s)).ac = s.ac ∧
    (stateOf s (execRnuReseed s)).tm = s.tm ∧ (stateOf s (execRnuReseed s)).lcc = s.lcc ∧
    (stateOf s (execRnuReseed s)).stc = s.stc ∧ (stateOf s (execRnuReseed s)).pwr = s.pwr ∧
    (stateOf s (execRnuReseed s)).io = s.io ∧ (stateOf s (execRnuReseed s)).ev = s.ev ∧
    (stateOf s (execRnuReseed s)).rw = s.rw ∧ (stateOf s (execRnuReseed s)).store = s.store ∧
    (stateOf s (execRnuReseed s)).writes = s.writes ∧ (stateOf s (execRnuReseed s)).out = s.out := by
  simp only [execRnuReseed, onMain]
  (repeat' split) <;> simp

theorem execBellowsRefill_keeps (s : State) :
    (stateOf s (execBellowsRefill s)).pending = s.pending ∧ (stateOf s (execBellowsRefill s)).ident = s.ident ∧
    (stateOf s (execBellowsRefill s)).sck = s.sck ∧ (stateOf s (execBellowsRefill s)).arc = s.arc ∧
    (stateOf s (execBellowsRefill s)).pln = s.pln ∧ (stateOf s (execBellowsRefill s)).fe = s.fe ∧
    (stateOf s (execBellowsRefill s)).hif = s.hif ∧ (stateOf s (execBellowsRefill s)).ts = s.ts ∧
    (stateOf s (execBellowsRefill s)).key = s.key ∧ (stateOf s (execBellowsRefill s)).pke = s.pke ∧
    (stateOf s (execBellowsRefill s)).tls = s.tls ∧ (stateOf s (execBellowsRefill s)).ac = s.ac ∧
    (stateOf s (execBellowsRefill s)).tm = s.tm ∧ (stateOf s (execBellowsRefill s)).lcc = s.lcc ∧
    (stateOf s (execBellowsRefill s)).stc = s.stc ∧ (stateOf s (execBellowsRefill s)).pwr = s.pwr ∧
    (stateOf s (execBellowsRefill s)).io = s.io ∧ (stateOf s (execBellowsRefill s)).ev = s.ev ∧
    (stateOf s (execBellowsRefill s)).rw = s.rw ∧ (stateOf s (execBellowsRefill s)).store = s.store ∧
    (stateOf s (execBellowsRefill s)).writes = s.writes ∧ (stateOf s (execBellowsRefill s)).out = s.out := by
  simp only [execBellowsRefill, onMain]
  (repeat' split) <;> simp

theorem execBellowsFlush_keeps (s : State) :
    (stateOf s (execBellowsFlush s)).pending = s.pending ∧ (stateOf s (execBellowsFlush s)).ident = s.ident ∧
    (stateOf s (execBellowsFlush s)).sck = s.sck ∧ (stateOf s (execBellowsFlush s)).arc = s.arc ∧
    (stateOf s (execBellowsFlush s)).pln = s.pln ∧ (stateOf s (execBellowsFlush s)).fe = s.fe ∧
    (stateOf s (execBellowsFlush s)).ts = s.ts ∧ (stateOf s (execBellowsFlush s)).key = s.key ∧
    (stateOf s (execBellowsFlush s)).pke = s.pke ∧ (stateOf s (execBellowsFlush s)).tls = s.tls ∧
    (stateOf s (execBellowsFlush s)).ac = s.ac ∧ (stateOf s (execBellowsFlush s)).tm = s.tm ∧
    (stateOf s (execBellowsFlush s)).lcc = s.lcc ∧ (stateOf s (execBellowsFlush s)).stc = s.stc ∧
    (stateOf s (execBellowsFlush s)).pwr = s.pwr ∧ (stateOf s (execBellowsFlush s)).io = s.io ∧
    (stateOf s (execBellowsFlush s)).rw = s.rw ∧ (stateOf s (execBellowsFlush s)).store = s.store ∧
    (stateOf s (execBellowsFlush s)).writes = s.writes := by
  simp only [execBellowsFlush, onMain]
  (repeat' split) <;> simp

theorem execExpanderReinstantiate_keeps (s : State) :
    (stateOf s (execExpanderReinstantiate s)).pending = s.pending ∧ (stateOf s (execExpanderReinstantiate s)).ident = s.ident ∧
    (stateOf s (execExpanderReinstantiate s)).sck = s.sck ∧ (stateOf s (execExpanderReinstantiate s)).arc = s.arc ∧
    (stateOf s (execExpanderReinstantiate s)).pln = s.pln ∧ (stateOf s (execExpanderReinstantiate s)).fe = s.fe ∧
    (stateOf s (execExpanderReinstantiate s)).hif = s.hif ∧ (stateOf s (execExpanderReinstantiate s)).ts = s.ts ∧
    (stateOf s (execExpanderReinstantiate s)).key = s.key ∧ (stateOf s (execExpanderReinstantiate s)).pke = s.pke ∧
    (stateOf s (execExpanderReinstantiate s)).tls = s.tls ∧ (stateOf s (execExpanderReinstantiate s)).ac = s.ac ∧
    (stateOf s (execExpanderReinstantiate s)).tm = s.tm ∧ (stateOf s (execExpanderReinstantiate s)).lcc = s.lcc ∧
    (stateOf s (execExpanderReinstantiate s)).stc = s.stc ∧ (stateOf s (execExpanderReinstantiate s)).pwr = s.pwr ∧
    (stateOf s (execExpanderReinstantiate s)).io = s.io ∧ (stateOf s (execExpanderReinstantiate s)).ev = s.ev ∧
    (stateOf s (execExpanderReinstantiate s)).rw = s.rw ∧ (stateOf s (execExpanderReinstantiate s)).store = s.store ∧
    (stateOf s (execExpanderReinstantiate s)).writes = s.writes ∧ (stateOf s (execExpanderReinstantiate s)).out = s.out := by
  simp only [execExpanderReinstantiate, onMain]
  (repeat' split) <;> simp

theorem execTestPatternWrite_keeps (value : Nat) (s : State) :
    (stateOf s (execTestPatternWrite value s)).pending = s.pending ∧
    (stateOf s (execTestPatternWrite value s)).ident = s.ident ∧ (stateOf s (execTestPatternWrite value s)).sck = s.sck ∧
    (stateOf s (execTestPatternWrite value s)).arc = s.arc ∧ (stateOf s (execTestPatternWrite value s)).pln = s.pln ∧
    (stateOf s (execTestPatternWrite value s)).fe = s.fe ∧ (stateOf s (execTestPatternWrite value s)).hif = s.hif ∧
    (stateOf s (execTestPatternWrite value s)).ts = s.ts ∧ (stateOf s (execTestPatternWrite value s)).key = s.key ∧
    (stateOf s (execTestPatternWrite value s)).pke = s.pke ∧ (stateOf s (execTestPatternWrite value s)).tls = s.tls ∧
    (stateOf s (execTestPatternWrite value s)).ac = s.ac ∧ (stateOf s (execTestPatternWrite value s)).tm = s.tm ∧
    (stateOf s (execTestPatternWrite value s)).lcc = s.lcc ∧ (stateOf s (execTestPatternWrite value s)).stc = s.stc ∧
    (stateOf s (execTestPatternWrite value s)).pwr = s.pwr ∧ (stateOf s (execTestPatternWrite value s)).io = s.io ∧
    (stateOf s (execTestPatternWrite value s)).ev = s.ev ∧ (stateOf s (execTestPatternWrite value s)).rw = s.rw ∧
    (stateOf s (execTestPatternWrite value s)).store = s.store ∧ (stateOf s (execTestPatternWrite value s)).writes = s.writes ∧
    (stateOf s (execTestPatternWrite value s)).free = s.free := by
  simp only [execTestPatternWrite, viaBar]
  (repeat' split) <;> simp

theorem execNop_keeps (q : Call) (s : State) :
    (stateOf s (execNop q s)).pending = s.pending ∧ (stateOf s (execNop q s)).ident = s.ident ∧
    (stateOf s (execNop q s)).sck = s.sck ∧ (stateOf s (execNop q s)).arc = s.arc ∧ (stateOf s (execNop q s)).pln = s.pln ∧
    (stateOf s (execNop q s)).fe = s.fe ∧ (stateOf s (execNop q s)).key = s.key ∧ (stateOf s (execNop q s)).pke = s.pke ∧
    (stateOf s (execNop q s)).rnu = s.rnu ∧ (stateOf s (execNop q s)).tls = s.tls ∧ (stateOf s (execNop q s)).ac = s.ac ∧
    (stateOf s (execNop q s)).tm = s.tm ∧ (stateOf s (execNop q s)).lcc = s.lcc ∧ (stateOf s (execNop q s)).stc = s.stc ∧
    (stateOf s (execNop q s)).pwr = s.pwr ∧ (stateOf s (execNop q s)).io = s.io ∧ (stateOf s (execNop q s)).ev = s.ev ∧
    (stateOf s (execNop q s)).rw = s.rw ∧ (stateOf s (execNop q s)).store = s.store ∧
    (stateOf s (execNop q s)).writes = s.writes ∧ (stateOf s (execNop q s)).free = s.free := by
  simp only [execNop, stateOf_next]
  have key : ∀ op sp k, (fun t : State => (t.pending, t.ident, t.sck, t.arc, t.pln, t.fe, t.key, t.pke, t.rnu, t.tls, t.ac, t.tm, t.lcc, t.stc, t.pwr, t.io, t.ev, t.rw, t.store, t.writes, t.free)) ((k s : OpOut).after s) = (fun t : State => (t.pending, t.ident, t.sck, t.arc, t.pln, t.fe, t.key, t.pke, t.rnu, t.tls, t.ac, t.tm, t.lcc, t.stc, t.pwr, t.io, t.ev, t.rw, t.store, t.writes, t.free)) s →
      (fun t : State => (t.pending, t.ident, t.sck, t.arc, t.pln, t.fe, t.key, t.pke, t.rnu, t.tls, t.ac, t.tm, t.lcc, t.stc, t.pwr, t.io, t.ev, t.rw, t.store, t.writes, t.free)) (runOp op q sp s k) = (fun t : State => (t.pending, t.ident, t.sck, t.arc, t.pln, t.fe, t.key, t.pke, t.rnu, t.tls, t.ac, t.tm, t.lcc, t.stc, t.pwr, t.io, t.ev, t.rw, t.store, t.writes, t.free)) s := fun op sp k hk =>
    runOp_keeps (fun t : State => (t.pending, t.ident, t.sck, t.arc, t.pln, t.fe, t.key, t.pke, t.rnu, t.tls, t.ac, t.tm, t.lcc, t.stc, t.pwr, t.io, t.ev, t.rw, t.store, t.writes, t.free)) op q sp s k (by intro comp t; simp) (by simp) hk
  simp only [Prod.mk.injEq] at key
  apply key
  (repeat' split) <;> simp

theorem execRandomBytes_keeps (q : Call) (length : Nat) (s : State) :
    (stateOf s (execRandomBytes q length s)).pending = s.pending ∧ (stateOf s (execRandomBytes q length s)).ident = s.ident ∧
    (stateOf s (execRandomBytes q length s)).sck = s.sck ∧ (stateOf s (execRandomBytes q length s)).arc = s.arc ∧
    (stateOf s (execRandomBytes q length s)).pln = s.pln ∧ (stateOf s (execRandomBytes q length s)).fe = s.fe ∧
    (stateOf s (execRandomBytes q length s)).key = s.key ∧ (stateOf s (execRandomBytes q length s)).pke = s.pke ∧
    (stateOf s (execRandomBytes q length s)).tls = s.tls ∧ (stateOf s (execRandomBytes q length s)).ac = s.ac ∧
    (stateOf s (execRandomBytes q length s)).tm = s.tm ∧ (stateOf s (execRandomBytes q length s)).lcc = s.lcc ∧
    (stateOf s (execRandomBytes q length s)).stc = s.stc ∧ (stateOf s (execRandomBytes q length s)).pwr = s.pwr ∧
    (stateOf s (execRandomBytes q length s)).io = s.io ∧ (stateOf s (execRandomBytes q length s)).ev = s.ev ∧
    (stateOf s (execRandomBytes q length s)).rw = s.rw ∧ (stateOf s (execRandomBytes q length s)).store = s.store ∧
    (stateOf s (execRandomBytes q length s)).writes = s.writes := by
  simp only [execRandomBytes, stateOf_next]
  have key : ∀ op sp k, (fun t : State => (t.pending, t.ident, t.sck, t.arc, t.pln, t.fe, t.key, t.pke, t.tls, t.ac, t.tm, t.lcc, t.stc, t.pwr, t.io, t.ev, t.rw, t.store, t.writes)) ((k s : OpOut).after s) = (fun t : State => (t.pending, t.ident, t.sck, t.arc, t.pln, t.fe, t.key, t.pke, t.tls, t.ac, t.tm, t.lcc, t.stc, t.pwr, t.io, t.ev, t.rw, t.store, t.writes)) s →
      (fun t : State => (t.pending, t.ident, t.sck, t.arc, t.pln, t.fe, t.key, t.pke, t.tls, t.ac, t.tm, t.lcc, t.stc, t.pwr, t.io, t.ev, t.rw, t.store, t.writes)) (runOp op q sp s k) = (fun t : State => (t.pending, t.ident, t.sck, t.arc, t.pln, t.fe, t.key, t.pke, t.tls, t.ac, t.tm, t.lcc, t.stc, t.pwr, t.io, t.ev, t.rw, t.store, t.writes)) s := fun op sp k hk =>
    runOp_keeps (fun t : State => (t.pending, t.ident, t.sck, t.arc, t.pln, t.fe, t.key, t.pke, t.tls, t.ac, t.tm, t.lcc, t.stc, t.pwr, t.io, t.ev, t.rw, t.store, t.writes)) op q sp s k (by intro comp t; simp) (by simp) hk
  simp only [Prod.mk.injEq] at key
  apply key
  simp only [withDraw]
  (repeat' split) <;> simp

theorem execEntropyRestart_keeps (q : Call) (s : State) :
    (stateOf s (execEntropyRestart q s)).pending = s.pending ∧ (stateOf s (execEntropyRestart q s)).ident = s.ident ∧
    (stateOf s (execEntropyRestart q s)).sck = s.sck ∧ (stateOf s (execEntropyRestart q s)).arc = s.arc ∧
    (stateOf s (execEntropyRestart q s)).pln = s.pln ∧ (stateOf s (execEntropyRestart q s)).fe = s.fe ∧
    (stateOf s (execEntropyRestart q s)).key = s.key ∧ (stateOf s (execEntropyRestart q s)).pke = s.pke ∧
    (stateOf s (execEntropyRestart q s)).tls = s.tls ∧ (stateOf s (execEntropyRestart q s)).ac = s.ac ∧
    (stateOf s (execEntropyRestart q s)).tm = s.tm ∧ (stateOf s (execEntropyRestart q s)).lcc = s.lcc ∧
    (stateOf s (execEntropyRestart q s)).stc = s.stc ∧ (stateOf s (execEntropyRestart q s)).pwr = s.pwr ∧
    (stateOf s (execEntropyRestart q s)).io = s.io ∧ (stateOf s (execEntropyRestart q s)).ev = s.ev ∧
    (stateOf s (execEntropyRestart q s)).rw = s.rw ∧ (stateOf s (execEntropyRestart q s)).store = s.store ∧
    (stateOf s (execEntropyRestart q s)).writes = s.writes ∧ (stateOf s (execEntropyRestart q s)).free = s.free := by
  simp only [execEntropyRestart, stateOf_next]
  have key : ∀ op sp k, (fun t : State => (t.pending, t.ident, t.sck, t.arc, t.pln, t.fe, t.key, t.pke, t.tls, t.ac, t.tm, t.lcc, t.stc, t.pwr, t.io, t.ev, t.rw, t.store, t.writes, t.free)) ((k s : OpOut).after s) = (fun t : State => (t.pending, t.ident, t.sck, t.arc, t.pln, t.fe, t.key, t.pke, t.tls, t.ac, t.tm, t.lcc, t.stc, t.pwr, t.io, t.ev, t.rw, t.store, t.writes, t.free)) s →
      (fun t : State => (t.pending, t.ident, t.sck, t.arc, t.pln, t.fe, t.key, t.pke, t.tls, t.ac, t.tm, t.lcc, t.stc, t.pwr, t.io, t.ev, t.rw, t.store, t.writes, t.free)) (runOp op q sp s k) = (fun t : State => (t.pending, t.ident, t.sck, t.arc, t.pln, t.fe, t.key, t.pke, t.tls, t.ac, t.tm, t.lcc, t.stc, t.pwr, t.io, t.ev, t.rw, t.store, t.writes, t.free)) s := fun op sp k hk =>
    runOp_keeps (fun t : State => (t.pending, t.ident, t.sck, t.arc, t.pln, t.fe, t.key, t.pke, t.tls, t.ac, t.tm, t.lcc, t.stc, t.pwr, t.io, t.ev, t.rw, t.store, t.writes, t.free)) op q sp s k (by intro comp t; simp) (by simp) hk
  simp only [Prod.mk.injEq] at key
  apply key
  (repeat' split) <;> simp

theorem execRawSamples_keeps (q : Call) (source : Nat) (count : Nat) (s : State) :
    (stateOf s (execRawSamples q source count s)).pending = s.pending ∧
    (stateOf s (execRawSamples q source count s)).ident = s.ident ∧ (stateOf s (execRawSamples q source count s)).sck = s.sck ∧
    (stateOf s (execRawSamples q source count s)).arc = s.arc ∧ (stateOf s (execRawSamples q source count s)).pln = s.pln ∧
    (stateOf s (execRawSamples q source count s)).fe = s.fe ∧ (stateOf s (execRawSamples q source count s)).key = s.key ∧
    (stateOf s (execRawSamples q source count s)).pke = s.pke ∧ (stateOf s (execRawSamples q source count s)).tls = s.tls ∧
    (stateOf s (execRawSamples q source count s)).ac = s.ac ∧ (stateOf s (execRawSamples q source count s)).tm = s.tm ∧
    (stateOf s (execRawSamples q source count s)).lcc = s.lcc ∧ (stateOf s (execRawSamples q source count s)).stc = s.stc ∧
    (stateOf s (execRawSamples q source count s)).pwr = s.pwr ∧ (stateOf s (execRawSamples q source count s)).io = s.io ∧
    (stateOf s (execRawSamples q source count s)).ev = s.ev ∧ (stateOf s (execRawSamples q source count s)).rw = s.rw ∧
    (stateOf s (execRawSamples q source count s)).store = s.store ∧
    (stateOf s (execRawSamples q source count s)).writes = s.writes := by
  simp only [execRawSamples, stateOf_next]
  have key : ∀ op sp k, (fun t : State => (t.pending, t.ident, t.sck, t.arc, t.pln, t.fe, t.key, t.pke, t.tls, t.ac, t.tm, t.lcc, t.stc, t.pwr, t.io, t.ev, t.rw, t.store, t.writes)) ((k s : OpOut).after s) = (fun t : State => (t.pending, t.ident, t.sck, t.arc, t.pln, t.fe, t.key, t.pke, t.tls, t.ac, t.tm, t.lcc, t.stc, t.pwr, t.io, t.ev, t.rw, t.store, t.writes)) s →
      (fun t : State => (t.pending, t.ident, t.sck, t.arc, t.pln, t.fe, t.key, t.pke, t.tls, t.ac, t.tm, t.lcc, t.stc, t.pwr, t.io, t.ev, t.rw, t.store, t.writes)) (runOp op q sp s k) = (fun t : State => (t.pending, t.ident, t.sck, t.arc, t.pln, t.fe, t.key, t.pke, t.tls, t.ac, t.tm, t.lcc, t.stc, t.pwr, t.io, t.ev, t.rw, t.store, t.writes)) s := fun op sp k hk =>
    runOp_keeps (fun t : State => (t.pending, t.ident, t.sck, t.arc, t.pln, t.fe, t.key, t.pke, t.tls, t.ac, t.tm, t.lcc, t.stc, t.pwr, t.io, t.ev, t.rw, t.store, t.writes)) op q sp s k (by intro comp t; simp) (by simp) hk
  simp only [Prod.mk.injEq] at key
  apply key
  (repeat' split) <;> simp

end Sys2Proof.Machine
end

