-- ==== Sys2Proof/Laws/KeepSched.lean ====
section
/-! SUPPORT. What each meaning of Machine/Sched.lean leaves unchanged in every state, once for each command. -/

namespace Sys2Proof.Machine

theorem execQmPacketBegin_keeps (queue : Nat) (port : Nat) (data : Bytes) (s : State) :
    (stateOf s (execQmPacketBegin queue port data s)).pending = s.pending ∧
    (stateOf s (execQmPacketBegin queue port data s)).ident = s.ident ∧
    (stateOf s (execQmPacketBegin queue port data s)).sck = s.sck ∧
    (stateOf s (execQmPacketBegin queue port data s)).arc = s.arc ∧
    (stateOf s (execQmPacketBegin queue port data s)).pln = s.pln ∧
    (stateOf s (execQmPacketBegin queue port data s)).key = s.key ∧
    (stateOf s (execQmPacketBegin queue port data s)).pke = s.pke ∧
    (stateOf s (execQmPacketBegin queue port data s)).rnu = s.rnu ∧
    (stateOf s (execQmPacketBegin queue port data s)).tls = s.tls ∧
    (stateOf s (execQmPacketBegin queue port data s)).ac = s.ac ∧ (stateOf s (execQmPacketBegin queue port data s)).tm = s.tm ∧
    (stateOf s (execQmPacketBegin queue port data s)).lcc = s.lcc ∧
    (stateOf s (execQmPacketBegin queue port data s)).stc = s.stc ∧
    (stateOf s (execQmPacketBegin queue port data s)).pwr = s.pwr ∧
    (stateOf s (execQmPacketBegin queue port data s)).io = s.io ∧ (stateOf s (execQmPacketBegin queue port data s)).rw = s.rw ∧
    (stateOf s (execQmPacketBegin queue port data s)).store = s.store ∧
    (stateOf s (execQmPacketBegin queue port data s)).writes = s.writes ∧
    (stateOf s (execQmPacketBegin queue port data s)).free = s.free := by
  simp only [execQmPacketBegin, onMain]
  (repeat' split) <;> simp

theorem execQmRead_keeps (queue : Nat) (s : State) :
    (stateOf s (execQmRead queue s)).pending = s.pending ∧ (stateOf s (execQmRead queue s)).ident = s.ident ∧
    (stateOf s (execQmRead queue s)).sck = s.sck ∧ (stateOf s (execQmRead queue s)).arc = s.arc ∧
    (stateOf s (execQmRead queue s)).pln = s.pln ∧ (stateOf s (execQmRead queue s)).fe = s.fe ∧
    (stateOf s (execQmRead queue s)).key = s.key ∧ (stateOf s (execQmRead queue s)).pke = s.pke ∧
    (stateOf s (execQmRead queue s)).rnu = s.rnu ∧ (stateOf s (execQmRead queue s)).tls = s.tls ∧
    (stateOf s (execQmRead queue s)).ac = s.ac ∧ (stateOf s (execQmRead queue s)).tm = s.tm ∧
    (stateOf s (execQmRead queue s)).lcc = s.lcc ∧ (stateOf s (execQmRead queue s)).stc = s.stc ∧
    (stateOf s (execQmRead queue s)).pwr = s.pwr ∧ (stateOf s (execQmRead queue s)).io = s.io ∧
    (stateOf s (execQmRead queue s)).rw = s.rw ∧ (stateOf s (execQmRead queue s)).store = s.store ∧
    (stateOf s (execQmRead queue s)).writes = s.writes ∧ (stateOf s (execQmRead queue s)).free = s.free := by
  simp only [execQmRead, onMain]
  (repeat' split) <;> simp

theorem execQmDropRemainder_keeps (queue : Nat) (s : State) :
    (stateOf s (execQmDropRemainder queue s)).pending = s.pending ∧ (stateOf s (execQmDropRemainder queue s)).ident = s.ident ∧
    (stateOf s (execQmDropRemainder queue s)).sck = s.sck ∧ (stateOf s (execQmDropRemainder queue s)).arc = s.arc ∧
    (stateOf s (execQmDropRemainder queue s)).pln = s.pln ∧ (stateOf s (execQmDropRemainder queue s)).fe = s.fe ∧
    (stateOf s (execQmDropRemainder queue s)).hif = s.hif ∧ (stateOf s (execQmDropRemainder queue s)).key = s.key ∧
    (stateOf s (execQmDropRemainder queue s)).pke = s.pke ∧ (stateOf s (execQmDropRemainder queue s)).rnu = s.rnu ∧
    (stateOf s (execQmDropRemainder queue s)).tls = s.tls ∧ (stateOf s (execQmDropRemainder queue s)).ac = s.ac ∧
    (stateOf s (execQmDropRemainder queue s)).tm = s.tm ∧ (stateOf s (execQmDropRemainder queue s)).lcc = s.lcc ∧
    (stateOf s (execQmDropRemainder queue s)).stc = s.stc ∧ (stateOf s (execQmDropRemainder queue s)).pwr = s.pwr ∧
    (stateOf s (execQmDropRemainder queue s)).io = s.io ∧ (stateOf s (execQmDropRemainder queue s)).ev = s.ev ∧
    (stateOf s (execQmDropRemainder queue s)).rw = s.rw ∧ (stateOf s (execQmDropRemainder queue s)).store = s.store ∧
    (stateOf s (execQmDropRemainder queue s)).writes = s.writes ∧ (stateOf s (execQmDropRemainder queue s)).out = s.out ∧
    (stateOf s (execQmDropRemainder queue s)).free = s.free := by
  simp only [execQmDropRemainder, onMain]
  (repeat' split) <;> simp

theorem execWorkDispatch_keeps (core : Nat) (readError : Bool) (s : State) :
    (stateOf s (execWorkDispatch core readError s)).pending = s.pending ∧
    (stateOf s (execWorkDispatch core readError s)).ident = s.ident ∧
    (stateOf s (execWorkDispatch core readError s)).sck = s.sck ∧ (stateOf s (execWorkDispatch core readError s)).arc = s.arc ∧
    (stateOf s (execWorkDispatch core readError s)).pln = s.pln ∧ (stateOf s (execWorkDispatch core readError s)).fe = s.fe ∧
    (stateOf s (execWorkDispatch core readError s)).key = s.key ∧ (stateOf s (execWorkDispatch core readError s)).pke = s.pke ∧
    (stateOf s (execWorkDispatch core readError s)).rnu = s.rnu ∧ (stateOf s (execWorkDispatch core readError s)).tls = s.tls ∧
    (stateOf s (execWorkDispatch core readError s)).ac = s.ac ∧ (stateOf s (execWorkDispatch core readError s)).tm = s.tm ∧
    (stateOf s (execWorkDispatch core readError s)).lcc = s.lcc ∧ (stateOf s (execWorkDispatch core readError s)).stc = s.stc ∧
    (stateOf s (execWorkDispatch core readError s)).pwr = s.pwr ∧ (stateOf s (execWorkDispatch core readError s)).io = s.io ∧
    (stateOf s (execWorkDispatch core readError s)).ev = s.ev ∧ (stateOf s (execWorkDispatch core readError s)).rw = s.rw ∧
    (stateOf s (execWorkDispatch core readError s)).store = s.store ∧
    (stateOf s (execWorkDispatch core readError s)).writes = s.writes ∧
    (stateOf s (execWorkDispatch core readError s)).free = s.free := by
  simp only [execWorkDispatch, onMain]
  (repeat' split) <;> simp

theorem execItemCommit_keeps (core : Nat) (item : Nat) (epoch : Nat) (s : State) :
    (stateOf s (execItemCommit core item epoch s)).pending = s.pending ∧
    (stateOf s (execItemCommit core item epoch s)).ident = s.ident ∧
    (stateOf s (execItemCommit core item epoch s)).sck = s.sck ∧ (stateOf s (execItemCommit core item epoch s)).arc = s.arc ∧
    (stateOf s (execItemCommit core item epoch s)).pln = s.pln ∧ (stateOf s (execItemCommit core item epoch s)).fe = s.fe ∧
    (stateOf s (execItemCommit core item epoch s)).key = s.key ∧ (stateOf s (execItemCommit core item epoch s)).pke = s.pke ∧
    (stateOf s (execItemCommit core item epoch s)).rnu = s.rnu ∧ (stateOf s (execItemCommit core item epoch s)).tls = s.tls ∧
    (stateOf s (execItemCommit core item epoch s)).ac = s.ac ∧ (stateOf s (execItemCommit core item epoch s)).tm = s.tm ∧
    (stateOf s (execItemCommit core item epoch s)).lcc = s.lcc ∧ (stateOf s (execItemCommit core item epoch s)).stc = s.stc ∧
    (stateOf s (execItemCommit core item epoch s)).pwr = s.pwr ∧ (stateOf s (execItemCommit core item epoch s)).io = s.io ∧
    (stateOf s (execItemCommit core item epoch s)).ev = s.ev ∧ (stateOf s (execItemCommit core item epoch s)).rw = s.rw ∧
    (stateOf s (execItemCommit core item epoch s)).store = s.store ∧
    (stateOf s (execItemCommit core item epoch s)).writes = s.writes ∧
    (stateOf s (execItemCommit core item epoch s)).free = s.free := by
  simp only [execItemCommit, onMain]
  (repeat' split) <;> simp

theorem execLeaseExpiry_keeps (core : Nat) (s : State) :
    (stateOf s (execLeaseExpiry core s)).pending = s.pending ∧ (stateOf s (execLeaseExpiry core s)).ident = s.ident ∧
    (stateOf s (execLeaseExpiry core s)).sck = s.sck ∧ (stateOf s (execLeaseExpiry core s)).arc = s.arc ∧
    (stateOf s (execLeaseExpiry core s)).pln = s.pln ∧ (stateOf s (execLeaseExpiry core s)).fe = s.fe ∧
    (stateOf s (execLeaseExpiry core s)).key = s.key ∧ (stateOf s (execLeaseExpiry core s)).rnu = s.rnu ∧
    (stateOf s (execLeaseExpiry core s)).tls = s.tls ∧ (stateOf s (execLeaseExpiry core s)).ac = s.ac ∧
    (stateOf s (execLeaseExpiry core s)).tm = s.tm ∧ (stateOf s (execLeaseExpiry core s)).lcc = s.lcc ∧
    (stateOf s (execLeaseExpiry core s)).stc = s.stc ∧ (stateOf s (execLeaseExpiry core s)).pwr = s.pwr ∧
    (stateOf s (execLeaseExpiry core s)).io = s.io ∧ (stateOf s (execLeaseExpiry core s)).rw = s.rw ∧
    (stateOf s (execLeaseExpiry core s)).store = s.store ∧ (stateOf s (execLeaseExpiry core s)).writes = s.writes ∧
    (stateOf s (execLeaseExpiry core s)).free = s.free := by
  simp only [execLeaseExpiry, onMain]
  (repeat' split) <;> simp

theorem execCoreResetDone_keeps (core : Nat) (s : State) :
    (stateOf s (execCoreResetDone core s)).pending = s.pending ∧ (stateOf s (execCoreResetDone core s)).ident = s.ident ∧
    (stateOf s (execCoreResetDone core s)).sck = s.sck ∧ (stateOf s (execCoreResetDone core s)).ac = s.ac ∧
    (stateOf s (execCoreResetDone core s)).pwr = s.pwr ∧ (stateOf s (execCoreResetDone core s)).rw = s.rw ∧
    (stateOf s (execCoreResetDone core s)).store = s.store ∧ (stateOf s (execCoreResetDone core s)).writes = s.writes ∧
    (stateOf s (execCoreResetDone core s)).free = s.free := by
  simp only [execCoreResetDone, onMain]
  (repeat' split) <;> simp

theorem execCoreMemoryError_keeps (core : Nat) (s : State) :
    (stateOf s (execCoreMemoryError core s)).pending = s.pending ∧ (stateOf s (execCoreMemoryError core s)).ident = s.ident ∧
    (stateOf s (execCoreMemoryError core s)).sck = s.sck ∧ (stateOf s (execCoreMemoryError core s)).pln = s.pln ∧
    (stateOf s (execCoreMemoryError core s)).fe = s.fe ∧ (stateOf s (execCoreMemoryError core s)).key = s.key ∧
    (stateOf s (execCoreMemoryError core s)).rnu = s.rnu ∧ (stateOf s (execCoreMemoryError core s)).tls = s.tls ∧
    (stateOf s (execCoreMemoryError core s)).ac = s.ac ∧ (stateOf s (execCoreMemoryError core s)).tm = s.tm ∧
    (stateOf s (execCoreMemoryError core s)).lcc = s.lcc ∧ (stateOf s (execCoreMemoryError core s)).stc = s.stc ∧
    (stateOf s (execCoreMemoryError core s)).pwr = s.pwr ∧ (stateOf s (execCoreMemoryError core s)).io = s.io ∧
    (stateOf s (execCoreMemoryError core s)).rw = s.rw ∧ (stateOf s (execCoreMemoryError core s)).store = s.store ∧
    (stateOf s (execCoreMemoryError core s)).writes = s.writes ∧ (stateOf s (execCoreMemoryError core s)).free = s.free := by
  simp only [execCoreMemoryError, onMain]
  (repeat' split) <;> simp

theorem execDelayListRebuild_keeps (list : Nat) (s : State) :
    (stateOf s (execDelayListRebuild list s)).pending = s.pending ∧ (stateOf s (execDelayListRebuild list s)).ident = s.ident ∧
    (stateOf s (execDelayListRebuild list s)).sck = s.sck ∧ (stateOf s (execDelayListRebuild list s)).pln = s.pln ∧
    (stateOf s (execDelayListRebuild list s)).fe = s.fe ∧ (stateOf s (execDelayListRebuild list s)).key = s.key ∧
    (stateOf s (execDelayListRebuild list s)).pke = s.pke ∧ (stateOf s (execDelayListRebuild list s)).rnu = s.rnu ∧
    (stateOf s (execDelayListRebuild list s)).tls = s.tls ∧ (stateOf s (execDelayListRebuild list s)).ac = s.ac ∧
    (stateOf s (execDelayListRebuild list s)).tm = s.tm ∧ (stateOf s (execDelayListRebuild list s)).lcc = s.lcc ∧
    (stateOf s (execDelayListRebuild list s)).stc = s.stc ∧ (stateOf s (execDelayListRebuild list s)).pwr = s.pwr ∧
    (stateOf s (execDelayListRebuild list s)).io = s.io ∧ (stateOf s (execDelayListRebuild list s)).rw = s.rw ∧
    (stateOf s (execDelayListRebuild list s)).store = s.store ∧ (stateOf s (execDelayListRebuild list s)).writes = s.writes ∧
    (stateOf s (execDelayListRebuild list s)).free = s.free := by
  simp only [execDelayListRebuild, onMain]
  (repeat' split) <;> simp

theorem execCoreGroupsWrite_keeps (core : Nat) (value : Nat) (s : State) :
    (stateOf s (execCoreGroupsWrite core value s)).pending = s.pending ∧
    (stateOf s (execCoreGroupsWrite core value s)).ident = s.ident ∧
    (stateOf s (execCoreGroupsWrite core value s)).sck = s.sck ∧ (stateOf s (execCoreGroupsWrite core value s)).arc = s.arc ∧
    (stateOf s (execCoreGroupsWrite core value s)).pln = s.pln ∧ (stateOf s (execCoreGroupsWrite core value s)).fe = s.fe ∧
    (stateOf s (execCoreGroupsWrite core value s)).ts = s.ts ∧ (stateOf s (execCoreGroupsWrite core value s)).key = s.key ∧
    (stateOf s (execCoreGroupsWrite core value s)).pke = s.pke ∧ (stateOf s (execCoreGroupsWrite core value s)).rnu = s.rnu ∧
    (stateOf s (execCoreGroupsWrite core value s)).tls = s.tls ∧ (stateOf s (execCoreGroupsWrite core value s)).ac = s.ac ∧
    (stateOf s (execCoreGroupsWrite core value s)).tm = s.tm ∧ (stateOf s (execCoreGroupsWrite core value s)).lcc = s.lcc ∧
    (stateOf s (execCoreGroupsWrite core value s)).stc = s.stc ∧ (stateOf s (execCoreGroupsWrite core value s)).pwr = s.pwr ∧
    (stateOf s (execCoreGroupsWrite core value s)).io = s.io ∧ (stateOf s (execCoreGroupsWrite core value s)).rw = s.rw ∧
    (stateOf s (execCoreGroupsWrite core value s)).store = s.store ∧
    (stateOf s (execCoreGroupsWrite core value s)).free = s.free := by
  simp only [execCoreGroupsWrite, viaBar]
  (repeat' split) <;> simp

end Sys2Proof.Machine
end

