-- ==== Sys2Proof/Laws/KeepSymOps.lean ====
section
/-! SUPPORT. What each meaning of Machine/SymOps.lean leaves unchanged in every state, once for each command. -/

namespace Sys2Proof.Machine

theorem execHash_keeps (q : Call) (alg : Nat) (input : Bytes) (s : State) :
    (stateOf s (execHash q alg input s)).pending = s.pending ∧ (stateOf s (execHash q alg input s)).ident = s.ident ∧
    (stateOf s (execHash q alg input s)).sck = s.sck ∧ (stateOf s (execHash q alg input s)).arc = s.arc ∧
    (stateOf s (execHash q alg input s)).pln = s.pln ∧ (stateOf s (execHash q alg input s)).fe = s.fe ∧
    (stateOf s (execHash q alg input s)).key = s.key ∧ (stateOf s (execHash q alg input s)).pke = s.pke ∧
    (stateOf s (execHash q alg input s)).rnu = s.rnu ∧ (stateOf s (execHash q alg input s)).tls = s.tls ∧
    (stateOf s (execHash q alg input s)).ac = s.ac ∧ (stateOf s (execHash q alg input s)).tm = s.tm ∧
    (stateOf s (execHash q alg input s)).lcc = s.lcc ∧ (stateOf s (execHash q alg input s)).stc = s.stc ∧
    (stateOf s (execHash q alg input s)).pwr = s.pwr ∧ (stateOf s (execHash q alg input s)).io = s.io ∧
    (stateOf s (execHash q alg input s)).ev = s.ev ∧ (stateOf s (execHash q alg input s)).rw = s.rw ∧
    (stateOf s (execHash q alg input s)).store = s.store ∧ (stateOf s (execHash q alg input s)).writes = s.writes ∧
    (stateOf s (execHash q alg input s)).free = s.free := by
  simp only [execHash, stateOf_next]
  have key : ∀ op sp k, (fun t : State => (t.pending, t.ident, t.sck, t.arc, t.pln, t.fe, t.key, t.pke, t.rnu, t.tls, t.ac, t.tm, t.lcc, t.stc, t.pwr, t.io, t.ev, t.rw, t.store, t.writes, t.free)) ((k s : OpOut).after s) = (fun t : State => (t.pending, t.ident, t.sck, t.arc, t.pln, t.fe, t.key, t.pke, t.rnu, t.tls, t.ac, t.tm, t.lcc, t.stc, t.pwr, t.io, t.ev, t.rw, t.store, t.writes, t.free)) s →
      (fun t : State => (t.pending, t.ident, t.sck, t.arc, t.pln, t.fe, t.key, t.pke, t.rnu, t.tls, t.ac, t.tm, t.lcc, t.stc, t.pwr, t.io, t.ev, t.rw, t.store, t.writes, t.free)) (runOp op q sp s k) = (fun t : State => (t.pending, t.ident, t.sck, t.arc, t.pln, t.fe, t.key, t.pke, t.rnu, t.tls, t.ac, t.tm, t.lcc, t.stc, t.pwr, t.io, t.ev, t.rw, t.store, t.writes, t.free)) s := fun op sp k hk =>
    runOp_keeps (fun t : State => (t.pending, t.ident, t.sck, t.arc, t.pln, t.fe, t.key, t.pke, t.rnu, t.tls, t.ac, t.tm, t.lcc, t.stc, t.pwr, t.io, t.ev, t.rw, t.store, t.writes, t.free)) op q sp s k (by intro comp t; simp) (by simp) hk
  simp only [Prod.mk.injEq] at key
  apply key
  (repeat' split) <;> simp

theorem execMacGenerate_keeps (q : Call) (handle : Nat) (alg : Nat) (tagLen : Nat) (iv : Nat) (input : Bytes) (s : State) :
    (stateOf s (execMacGenerate q handle alg tagLen iv input s)).pending = s.pending ∧
    (stateOf s (execMacGenerate q handle alg tagLen iv input s)).ident = s.ident ∧
    (stateOf s (execMacGenerate q handle alg tagLen iv input s)).sck = s.sck ∧
    (stateOf s (execMacGenerate q handle alg tagLen iv input s)).arc = s.arc ∧
    (stateOf s (execMacGenerate q handle alg tagLen iv input s)).pln = s.pln ∧
    (stateOf s (execMacGenerate q handle alg tagLen iv input s)).fe = s.fe ∧
    (stateOf s (execMacGenerate q handle alg tagLen iv input s)).key = s.key ∧
    (stateOf s (execMacGenerate q handle alg tagLen iv input s)).pke = s.pke ∧
    (stateOf s (execMacGenerate q handle alg tagLen iv input s)).rnu = s.rnu ∧
    (stateOf s (execMacGenerate q handle alg tagLen iv input s)).tls = s.tls ∧
    (stateOf s (execMacGenerate q handle alg tagLen iv input s)).ac = s.ac ∧
    (stateOf s (execMacGenerate q handle alg tagLen iv input s)).tm = s.tm ∧
    (stateOf s (execMacGenerate q handle alg tagLen iv input s)).lcc = s.lcc ∧
    (stateOf s (execMacGenerate q handle alg tagLen iv input s)).stc = s.stc ∧
    (stateOf s (execMacGenerate q handle alg tagLen iv input s)).pwr = s.pwr ∧
    (stateOf s (execMacGenerate q handle alg tagLen iv input s)).io = s.io ∧
    (stateOf s (execMacGenerate q handle alg tagLen iv input s)).ev = s.ev ∧
    (stateOf s (execMacGenerate q handle alg tagLen iv input s)).rw = s.rw ∧
    (stateOf s (execMacGenerate q handle alg tagLen iv input s)).store = s.store ∧
    (stateOf s (execMacGenerate q handle alg tagLen iv input s)).writes = s.writes ∧
    (stateOf s (execMacGenerate q handle alg tagLen iv input s)).free = s.free := by
  simp only [execMacGenerate, stateOf_next]
  have key : ∀ op sp k, (fun t : State => (t.pending, t.ident, t.sck, t.arc, t.pln, t.fe, t.key, t.pke, t.rnu, t.tls, t.ac, t.tm, t.lcc, t.stc, t.pwr, t.io, t.ev, t.rw, t.store, t.writes, t.free)) ((k s : OpOut).after s) = (fun t : State => (t.pending, t.ident, t.sck, t.arc, t.pln, t.fe, t.key, t.pke, t.rnu, t.tls, t.ac, t.tm, t.lcc, t.stc, t.pwr, t.io, t.ev, t.rw, t.store, t.writes, t.free)) s →
      (fun t : State => (t.pending, t.ident, t.sck, t.arc, t.pln, t.fe, t.key, t.pke, t.rnu, t.tls, t.ac, t.tm, t.lcc, t.stc, t.pwr, t.io, t.ev, t.rw, t.store, t.writes, t.free)) (runOp op q sp s k) = (fun t : State => (t.pending, t.ident, t.sck, t.arc, t.pln, t.fe, t.key, t.pke, t.rnu, t.tls, t.ac, t.tm, t.lcc, t.stc, t.pwr, t.io, t.ev, t.rw, t.store, t.writes, t.free)) s := fun op sp k hk =>
    runOp_keeps (fun t : State => (t.pending, t.ident, t.sck, t.arc, t.pln, t.fe, t.key, t.pke, t.rnu, t.tls, t.ac, t.tm, t.lcc, t.stc, t.pwr, t.io, t.ev, t.rw, t.store, t.writes, t.free)) op q sp s k (by intro comp t; simp) (by simp) hk
  simp only [Prod.mk.injEq] at key
  apply key
  simp only [withKey]
  (repeat' split) <;> simp

theorem execMacVerify_keeps (q : Call) (handle : Nat) (alg : Nat) (tagLen : Nat) (iv : Nat) (tag : Bytes) (input : Bytes) (s : State) :
    (stateOf s (execMacVerify q handle alg tagLen iv tag input s)).pending = s.pending ∧
    (stateOf s (execMacVerify q handle alg tagLen iv tag input s)).ident = s.ident ∧
    (stateOf s (execMacVerify q handle alg tagLen iv tag input s)).sck = s.sck ∧
    (stateOf s (execMacVerify q handle alg tagLen iv tag input s)).arc = s.arc ∧
    (stateOf s (execMacVerify q handle alg tagLen iv tag input s)).pln = s.pln ∧
    (stateOf s (execMacVerify q handle alg tagLen iv tag input s)).fe = s.fe ∧
    (stateOf s (execMacVerify q handle alg tagLen iv tag input s)).key = s.key ∧
    (stateOf s (execMacVerify q handle alg tagLen iv tag input s)).pke = s.pke ∧
    (stateOf s (execMacVerify q handle alg tagLen iv tag input s)).rnu = s.rnu ∧
    (stateOf s (execMacVerify q handle alg tagLen iv tag input s)).tls = s.tls ∧
    (stateOf s (execMacVerify q handle alg tagLen iv tag input s)).ac = s.ac ∧
    (stateOf s (execMacVerify q handle alg tagLen iv tag input s)).tm = s.tm ∧
    (stateOf s (execMacVerify q handle alg tagLen iv tag input s)).lcc = s.lcc ∧
    (stateOf s (execMacVerify q handle alg tagLen iv tag input s)).stc = s.stc ∧
    (stateOf s (execMacVerify q handle alg tagLen iv tag input s)).pwr = s.pwr ∧
    (stateOf s (execMacVerify q handle alg tagLen iv tag input s)).io = s.io ∧
    (stateOf s (execMacVerify q handle alg tagLen iv tag input s)).ev = s.ev ∧
    (stateOf s (execMacVerify q handle alg tagLen iv tag input s)).rw = s.rw ∧
    (stateOf s (execMacVerify q handle alg tagLen iv tag input s)).store = s.store ∧
    (stateOf s (execMacVerify q handle alg tagLen iv tag input s)).writes = s.writes ∧
    (stateOf s (execMacVerify q handle alg tagLen iv tag input s)).free = s.free := by
  simp only [execMacVerify, stateOf_next]
  have key : ∀ op sp k, (fun t : State => (t.pending, t.ident, t.sck, t.arc, t.pln, t.fe, t.key, t.pke, t.rnu, t.tls, t.ac, t.tm, t.lcc, t.stc, t.pwr, t.io, t.ev, t.rw, t.store, t.writes, t.free)) ((k s : OpOut).after s) = (fun t : State => (t.pending, t.ident, t.sck, t.arc, t.pln, t.fe, t.key, t.pke, t.rnu, t.tls, t.ac, t.tm, t.lcc, t.stc, t.pwr, t.io, t.ev, t.rw, t.store, t.writes, t.free)) s →
      (fun t : State => (t.pending, t.ident, t.sck, t.arc, t.pln, t.fe, t.key, t.pke, t.rnu, t.tls, t.ac, t.tm, t.lcc, t.stc, t.pwr, t.io, t.ev, t.rw, t.store, t.writes, t.free)) (runOp op q sp s k) = (fun t : State => (t.pending, t.ident, t.sck, t.arc, t.pln, t.fe, t.key, t.pke, t.rnu, t.tls, t.ac, t.tm, t.lcc, t.stc, t.pwr, t.io, t.ev, t.rw, t.store, t.writes, t.free)) s := fun op sp k hk =>
    runOp_keeps (fun t : State => (t.pending, t.ident, t.sck, t.arc, t.pln, t.fe, t.key, t.pke, t.rnu, t.tls, t.ac, t.tm, t.lcc, t.stc, t.pwr, t.io, t.ev, t.rw, t.store, t.writes, t.free)) op q sp s k (by intro comp t; simp) (by simp) hk
  simp only [Prod.mk.injEq] at key
  apply key
  simp only [withKey]
  (repeat' split) <;> simp

theorem execAeadEncrypt_keeps (q : Call) (handle : Nat) (tagLen : Nat) (genIv : Bool) (iv : Nat) (aadLen : Nat) (input : Bytes) (s : State) :
    (stateOf s (execAeadEncrypt q handle tagLen genIv iv aadLen input s)).pending = s.pending ∧
    (stateOf s (execAeadEncrypt q handle tagLen genIv iv aadLen input s)).ident = s.ident ∧
    (stateOf s (execAeadEncrypt q handle tagLen genIv iv aadLen input s)).sck = s.sck ∧
    (stateOf s (execAeadEncrypt q handle tagLen genIv iv aadLen input s)).arc = s.arc ∧
    (stateOf s (execAeadEncrypt q handle tagLen genIv iv aadLen input s)).pln = s.pln ∧
    (stateOf s (execAeadEncrypt q handle tagLen genIv iv aadLen input s)).fe = s.fe ∧
    (stateOf s (execAeadEncrypt q handle tagLen genIv iv aadLen input s)).key = s.key ∧
    (stateOf s (execAeadEncrypt q handle tagLen genIv iv aadLen input s)).pke = s.pke ∧
    (stateOf s (execAeadEncrypt q handle tagLen genIv iv aadLen input s)).tls = s.tls ∧
    (stateOf s (execAeadEncrypt q handle tagLen genIv iv aadLen input s)).ac = s.ac ∧
    (stateOf s (execAeadEncrypt q handle tagLen genIv iv aadLen input s)).tm = s.tm ∧
    (stateOf s (execAeadEncrypt q handle tagLen genIv iv aadLen input s)).lcc = s.lcc ∧
    (stateOf s (execAeadEncrypt q handle tagLen genIv iv aadLen input s)).stc = s.stc ∧
    (stateOf s (execAeadEncrypt q handle tagLen genIv iv aadLen input s)).pwr = s.pwr ∧
    (stateOf s (execAeadEncrypt q handle tagLen genIv iv aadLen input s)).io = s.io ∧
    (stateOf s (execAeadEncrypt q handle tagLen genIv iv aadLen input s)).ev = s.ev ∧
    (stateOf s (execAeadEncrypt q handle tagLen genIv iv aadLen input s)).rw = s.rw ∧
    (stateOf s (execAeadEncrypt q handle tagLen genIv iv aadLen input s)).store = s.store ∧
    (stateOf s (execAeadEncrypt q handle tagLen genIv iv aadLen input s)).writes = s.writes := by
  simp only [execAeadEncrypt, stateOf_next]
  have key : ∀ op sp k, (fun t : State => (t.pending, t.ident, t.sck, t.arc, t.pln, t.fe, t.key, t.pke, t.tls, t.ac, t.tm, t.lcc, t.stc, t.pwr, t.io, t.ev, t.rw, t.store, t.writes)) ((k s : OpOut).after s) = (fun t : State => (t.pending, t.ident, t.sck, t.arc, t.pln, t.fe, t.key, t.pke, t.tls, t.ac, t.tm, t.lcc, t.stc, t.pwr, t.io, t.ev, t.rw, t.store, t.writes)) s →
      (fun t : State => (t.pending, t.ident, t.sck, t.arc, t.pln, t.fe, t.key, t.pke, t.tls, t.ac, t.tm, t.lcc, t.stc, t.pwr, t.io, t.ev, t.rw, t.store, t.writes)) (runOp op q sp s k) = (fun t : State => (t.pending, t.ident, t.sck, t.arc, t.pln, t.fe, t.key, t.pke, t.tls, t.ac, t.tm, t.lcc, t.stc, t.pwr, t.io, t.ev, t.rw, t.store, t.writes)) s := fun op sp k hk =>
    runOp_keeps (fun t : State => (t.pending, t.ident, t.sck, t.arc, t.pln, t.fe, t.key, t.pke, t.tls, t.ac, t.tm, t.lcc, t.stc, t.pwr, t.io, t.ev, t.rw, t.store, t.writes)) op q sp s k (by intro comp t; simp) (by simp) hk
  simp only [Prod.mk.injEq] at key
  apply key
  simp only [withDraw, withKey]
  (repeat' split) <;> simp

theorem execAeadDecrypt_keeps (q : Call) (handle : Nat) (tagLen : Nat) (genIv : Bool) (iv : Nat) (aadLen : Nat) (input : Bytes) (s : State) :
    (stateOf s (execAeadDecrypt q handle tagLen genIv iv aadLen input s)).pending = s.pending ∧
    (stateOf s (execAeadDecrypt q handle tagLen genIv iv aadLen input s)).ident = s.ident ∧
    (stateOf s (execAeadDecrypt q handle tagLen genIv iv aadLen input s)).sck = s.sck ∧
    (stateOf s (execAeadDecrypt q handle tagLen genIv iv aadLen input s)).arc = s.arc ∧
    (stateOf s (execAeadDecrypt q handle tagLen genIv iv aadLen input s)).pln = s.pln ∧
    (stateOf s (execAeadDecrypt q handle tagLen genIv iv aadLen input s)).fe = s.fe ∧
    (stateOf s (execAeadDecrypt q handle tagLen genIv iv aadLen input s)).key = s.key ∧
    (stateOf s (execAeadDecrypt q handle tagLen genIv iv aadLen input s)).pke = s.pke ∧
    (stateOf s (execAeadDecrypt q handle tagLen genIv iv aadLen input s)).rnu = s.rnu ∧
    (stateOf s (execAeadDecrypt q handle tagLen genIv iv aadLen input s)).tls = s.tls ∧
    (stateOf s (execAeadDecrypt q handle tagLen genIv iv aadLen input s)).ac = s.ac ∧
    (stateOf s (execAeadDecrypt q handle tagLen genIv iv aadLen input s)).tm = s.tm ∧
    (stateOf s (execAeadDecrypt q handle tagLen genIv iv aadLen input s)).lcc = s.lcc ∧
    (stateOf s (execAeadDecrypt q handle tagLen genIv iv aadLen input s)).stc = s.stc ∧
    (stateOf s (execAeadDecrypt q handle tagLen genIv iv aadLen input s)).pwr = s.pwr ∧
    (stateOf s (execAeadDecrypt q handle tagLen genIv iv aadLen input s)).io = s.io ∧
    (stateOf s (execAeadDecrypt q handle tagLen genIv iv aadLen input s)).ev = s.ev ∧
    (stateOf s (execAeadDecrypt q handle tagLen genIv iv aadLen input s)).rw = s.rw ∧
    (stateOf s (execAeadDecrypt q handle tagLen genIv iv aadLen input s)).store = s.store ∧
    (stateOf s (execAeadDecrypt q handle tagLen genIv iv aadLen input s)).writes = s.writes ∧
    (stateOf s (execAeadDecrypt q handle tagLen genIv iv aadLen input s)).free = s.free := by
  simp only [execAeadDecrypt, stateOf_next]
  have key : ∀ op sp k, (fun t : State => (t.pending, t.ident, t.sck, t.arc, t.pln, t.fe, t.key, t.pke, t.rnu, t.tls, t.ac, t.tm, t.lcc, t.stc, t.pwr, t.io, t.ev, t.rw, t.store, t.writes, t.free)) ((k s : OpOut).after s) = (fun t : State => (t.pending, t.ident, t.sck, t.arc, t.pln, t.fe, t.key, t.pke, t.rnu, t.tls, t.ac, t.tm, t.lcc, t.stc, t.pwr, t.io, t.ev, t.rw, t.store, t.writes, t.free)) s →
      (fun t : State => (t.pending, t.ident, t.sck, t.arc, t.pln, t.fe, t.key, t.pke, t.rnu, t.tls, t.ac, t.tm, t.lcc, t.stc, t.pwr, t.io, t.ev, t.rw, t.store, t.writes, t.free)) (runOp op q sp s k) = (fun t : State => (t.pending, t.ident, t.sck, t.arc, t.pln, t.fe, t.key, t.pke, t.rnu, t.tls, t.ac, t.tm, t.lcc, t.stc, t.pwr, t.io, t.ev, t.rw, t.store, t.writes, t.free)) s := fun op sp k hk =>
    runOp_keeps (fun t : State => (t.pending, t.ident, t.sck, t.arc, t.pln, t.fe, t.key, t.pke, t.rnu, t.tls, t.ac, t.tm, t.lcc, t.stc, t.pwr, t.io, t.ev, t.rw, t.store, t.writes, t.free)) op q sp s k (by intro comp t; simp) (by simp) hk
  simp only [Prod.mk.injEq] at key
  apply key
  simp only [withKey]
  (repeat' split) <;> simp

theorem execTlsOpen_keeps (q : Call) (handle : Nat) (role : Nat) (versions : Nat) (requirePeer : Bool) (cert : Bytes) (s : State) :
    (stateOf s (execTlsOpen q handle role versions requirePeer cert s)).pending = s.pending ∧
    (stateOf s (execTlsOpen q handle role versions requirePeer cert s)).ident = s.ident ∧
    (stateOf s (execTlsOpen q handle role versions requirePeer cert s)).sck = s.sck ∧
    (stateOf s (execTlsOpen q handle role versions requirePeer cert s)).arc = s.arc ∧
    (stateOf s (execTlsOpen q handle role versions requirePeer cert s)).pln = s.pln ∧
    (stateOf s (execTlsOpen q handle role versions requirePeer cert s)).fe = s.fe ∧
    (stateOf s (execTlsOpen q handle role versions requirePeer cert s)).key = s.key ∧
    (stateOf s (execTlsOpen q handle role versions requirePeer cert s)).pke = s.pke ∧
    (stateOf s (execTlsOpen q handle role versions requirePeer cert s)).rnu = s.rnu ∧
    (stateOf s (execTlsOpen q handle role versions requirePeer cert s)).ac = s.ac ∧
    (stateOf s (execTlsOpen q handle role versions requirePeer cert s)).tm = s.tm ∧
    (stateOf s (execTlsOpen q handle role versions requirePeer cert s)).lcc = s.lcc ∧
    (stateOf s (execTlsOpen q handle role versions requirePeer cert s)).stc = s.stc ∧
    (stateOf s (execTlsOpen q handle role versions requirePeer cert s)).pwr = s.pwr ∧
    (stateOf s (execTlsOpen q handle role versions requirePeer cert s)).io = s.io ∧
    (stateOf s (execTlsOpen q handle role versions requirePeer cert s)).ev = s.ev ∧
    (stateOf s (execTlsOpen q handle role versions requirePeer cert s)).rw = s.rw ∧
    (stateOf s (execTlsOpen q handle role versions requirePeer cert s)).store = s.store ∧
    (stateOf s (execTlsOpen q handle role versions requirePeer cert s)).writes = s.writes := by
  simp only [execTlsOpen, stateOf_next]
  have key : ∀ op sp k, (fun t : State => (t.pending, t.ident, t.sck, t.arc, t.pln, t.fe, t.key, t.pke, t.rnu, t.ac, t.tm, t.lcc, t.stc, t.pwr, t.io, t.ev, t.rw, t.store, t.writes)) ((k s : OpOut).after s) = (fun t : State => (t.pending, t.ident, t.sck, t.arc, t.pln, t.fe, t.key, t.pke, t.rnu, t.ac, t.tm, t.lcc, t.stc, t.pwr, t.io, t.ev, t.rw, t.store, t.writes)) s →
      (fun t : State => (t.pending, t.ident, t.sck, t.arc, t.pln, t.fe, t.key, t.pke, t.rnu, t.ac, t.tm, t.lcc, t.stc, t.pwr, t.io, t.ev, t.rw, t.store, t.writes)) (runOp op q sp s k) = (fun t : State => (t.pending, t.ident, t.sck, t.arc, t.pln, t.fe, t.key, t.pke, t.rnu, t.ac, t.tm, t.lcc, t.stc, t.pwr, t.io, t.ev, t.rw, t.store, t.writes)) s := fun op sp k hk =>
    runOp_keeps (fun t : State => (t.pending, t.ident, t.sck, t.arc, t.pln, t.fe, t.key, t.pke, t.rnu, t.ac, t.tm, t.lcc, t.stc, t.pwr, t.io, t.ev, t.rw, t.store, t.writes)) op q sp s k (by intro comp t; simp) (by simp) hk
  simp only [Prod.mk.injEq] at key
  apply key
  simp only [withKey, withOwnKey]
  (repeat' split) <;> simp

theorem execTlsHandshake_keeps (q : Call) (session : Nat) (x : TlsStep) (s : State) :
    (stateOf s (execTlsHandshake q session x s)).pending = s.pending ∧
    (stateOf s (execTlsHandshake q session x s)).ident = s.ident ∧ (stateOf s (execTlsHandshake q session x s)).sck = s.sck ∧
    (stateOf s (execTlsHandshake q session x s)).arc = s.arc ∧ (stateOf s (execTlsHandshake q session x s)).pln = s.pln ∧
    (stateOf s (execTlsHandshake q session x s)).fe = s.fe ∧ (stateOf s (execTlsHandshake q session x s)).key = s.key ∧
    (stateOf s (execTlsHandshake q session x s)).pke = s.pke ∧ (stateOf s (execTlsHandshake q session x s)).ac = s.ac ∧
    (stateOf s (execTlsHandshake q session x s)).tm = s.tm ∧ (stateOf s (execTlsHandshake q session x s)).lcc = s.lcc ∧
    (stateOf s (execTlsHandshake q session x s)).stc = s.stc ∧ (stateOf s (execTlsHandshake q session x s)).pwr = s.pwr ∧
    (stateOf s (execTlsHandshake q session x s)).io = s.io ∧ (stateOf s (execTlsHandshake q session x s)).ev = s.ev ∧
    (stateOf s (execTlsHandshake q session x s)).rw = s.rw ∧ (stateOf s (execTlsHandshake q session x s)).store = s.store ∧
    (stateOf s (execTlsHandshake q session x s)).writes = s.writes := by
  simp only [execTlsHandshake, stateOf_next]
  have key : ∀ op sp k, (fun t : State => (t.pending, t.ident, t.sck, t.arc, t.pln, t.fe, t.key, t.pke, t.ac, t.tm, t.lcc, t.stc, t.pwr, t.io, t.ev, t.rw, t.store, t.writes)) ((k s : OpOut).after s) = (fun t : State => (t.pending, t.ident, t.sck, t.arc, t.pln, t.fe, t.key, t.pke, t.ac, t.tm, t.lcc, t.stc, t.pwr, t.io, t.ev, t.rw, t.store, t.writes)) s →
      (fun t : State => (t.pending, t.ident, t.sck, t.arc, t.pln, t.fe, t.key, t.pke, t.ac, t.tm, t.lcc, t.stc, t.pwr, t.io, t.ev, t.rw, t.store, t.writes)) (runOp op q sp s k) = (fun t : State => (t.pending, t.ident, t.sck, t.arc, t.pln, t.fe, t.key, t.pke, t.ac, t.tm, t.lcc, t.stc, t.pwr, t.io, t.ev, t.rw, t.store, t.writes)) s := fun op sp k hk =>
    runOp_keeps (fun t : State => (t.pending, t.ident, t.sck, t.arc, t.pln, t.fe, t.key, t.pke, t.ac, t.tm, t.lcc, t.stc, t.pwr, t.io, t.ev, t.rw, t.store, t.writes)) op q sp s k (by intro comp t; simp) (by simp) hk
  simp only [Prod.mk.injEq] at key
  apply key
  simp only [inTurn, withDraw, withKey, withOwnKey]
  (repeat' split) <;> simp

theorem execTlsSeal_keeps (q : Call) (session : Nat) (typ : Nat) (input : Bytes) (s : State) :
    (stateOf s (execTlsSeal q session typ input s)).pending = s.pending ∧
    (stateOf s (execTlsSeal q session typ input s)).ident = s.ident ∧
    (stateOf s (execTlsSeal q session typ input s)).sck = s.sck ∧ (stateOf s (execTlsSeal q session typ input s)).arc = s.arc ∧
    (stateOf s (execTlsSeal q session typ input s)).pln = s.pln ∧ (stateOf s (execTlsSeal q session typ input s)).fe = s.fe ∧
    (stateOf s (execTlsSeal q session typ input s)).key = s.key ∧ (stateOf s (execTlsSeal q session typ input s)).pke = s.pke ∧
    (stateOf s (execTlsSeal q session typ input s)).rnu = s.rnu ∧ (stateOf s (execTlsSeal q session typ input s)).ac = s.ac ∧
    (stateOf s (execTlsSeal q session typ input s)).tm = s.tm ∧ (stateOf s (execTlsSeal q session typ input s)).lcc = s.lcc ∧
    (stateOf s (execTlsSeal q session typ input s)).stc = s.stc ∧ (stateOf s (execTlsSeal q session typ input s)).pwr = s.pwr ∧
    (stateOf s (execTlsSeal q session typ input s)).io = s.io ∧ (stateOf s (execTlsSeal q session typ input s)).ev = s.ev ∧
    (stateOf s (execTlsSeal q session typ input s)).rw = s.rw ∧
    (stateOf s (execTlsSeal q session typ input s)).store = s.store ∧
    (stateOf s (execTlsSeal q session typ input s)).writes = s.writes ∧
    (stateOf s (execTlsSeal q session typ input s)).free = s.free := by
  simp only [execTlsSeal, stateOf_next]
  have key : ∀ op sp k, (fun t : State => (t.pending, t.ident, t.sck, t.arc, t.pln, t.fe, t.key, t.pke, t.rnu, t.ac, t.tm, t.lcc, t.stc, t.pwr, t.io, t.ev, t.rw, t.store, t.writes, t.free)) ((k s : OpOut).after s) = (fun t : State => (t.pending, t.ident, t.sck, t.arc, t.pln, t.fe, t.key, t.pke, t.rnu, t.ac, t.tm, t.lcc, t.stc, t.pwr, t.io, t.ev, t.rw, t.store, t.writes, t.free)) s →
      (fun t : State => (t.pending, t.ident, t.sck, t.arc, t.pln, t.fe, t.key, t.pke, t.rnu, t.ac, t.tm, t.lcc, t.stc, t.pwr, t.io, t.ev, t.rw, t.store, t.writes, t.free)) (runOp op q sp s k) = (fun t : State => (t.pending, t.ident, t.sck, t.arc, t.pln, t.fe, t.key, t.pke, t.rnu, t.ac, t.tm, t.lcc, t.stc, t.pwr, t.io, t.ev, t.rw, t.store, t.writes, t.free)) s := fun op sp k hk =>
    runOp_keeps (fun t : State => (t.pending, t.ident, t.sck, t.arc, t.pln, t.fe, t.key, t.pke, t.rnu, t.ac, t.tm, t.lcc, t.stc, t.pwr, t.io, t.ev, t.rw, t.store, t.writes, t.free)) op q sp s k (by intro comp t; simp) (by simp) hk
  simp only [Prod.mk.injEq] at key
  apply key
  simp only [inTurn]
  (repeat' split) <;> simp

theorem execTlsUnseal_keeps (q : Call) (session : Nat) (input : Bytes) (s : State) :
    (stateOf s (execTlsUnseal q session input s)).pending = s.pending ∧
    (stateOf s (execTlsUnseal q session input s)).ident = s.ident ∧ (stateOf s (execTlsUnseal q session input s)).sck = s.sck ∧
    (stateOf s (execTlsUnseal q session input s)).arc = s.arc ∧ (stateOf s (execTlsUnseal q session input s)).pln = s.pln ∧
    (stateOf s (execTlsUnseal q session input s)).fe = s.fe ∧ (stateOf s (execTlsUnseal q session input s)).key = s.key ∧
    (stateOf s (execTlsUnseal q session input s)).pke = s.pke ∧ (stateOf s (execTlsUnseal q session input s)).rnu = s.rnu ∧
    (stateOf s (execTlsUnseal q session input s)).ac = s.ac ∧ (stateOf s (execTlsUnseal q session input s)).tm = s.tm ∧
    (stateOf s (execTlsUnseal q session input s)).lcc = s.lcc ∧ (stateOf s (execTlsUnseal q session input s)).stc = s.stc ∧
    (stateOf s (execTlsUnseal q session input s)).pwr = s.pwr ∧ (stateOf s (execTlsUnseal q session input s)).io = s.io ∧
    (stateOf s (execTlsUnseal q session input s)).ev = s.ev ∧ (stateOf s (execTlsUnseal q session input s)).rw = s.rw ∧
    (stateOf s (execTlsUnseal q session input s)).store = s.store ∧
    (stateOf s (execTlsUnseal q session input s)).writes = s.writes ∧
    (stateOf s (execTlsUnseal q session input s)).free = s.free := by
  simp only [execTlsUnseal, stateOf_next]
  have key : ∀ op sp k, (fun t : State => (t.pending, t.ident, t.sck, t.arc, t.pln, t.fe, t.key, t.pke, t.rnu, t.ac, t.tm, t.lcc, t.stc, t.pwr, t.io, t.ev, t.rw, t.store, t.writes, t.free)) ((k s : OpOut).after s) = (fun t : State => (t.pending, t.ident, t.sck, t.arc, t.pln, t.fe, t.key, t.pke, t.rnu, t.ac, t.tm, t.lcc, t.stc, t.pwr, t.io, t.ev, t.rw, t.store, t.writes, t.free)) s →
      (fun t : State => (t.pending, t.ident, t.sck, t.arc, t.pln, t.fe, t.key, t.pke, t.rnu, t.ac, t.tm, t.lcc, t.stc, t.pwr, t.io, t.ev, t.rw, t.store, t.writes, t.free)) (runOp op q sp s k) = (fun t : State => (t.pending, t.ident, t.sck, t.arc, t.pln, t.fe, t.key, t.pke, t.rnu, t.ac, t.tm, t.lcc, t.stc, t.pwr, t.io, t.ev, t.rw, t.store, t.writes, t.free)) s := fun op sp k hk =>
    runOp_keeps (fun t : State => (t.pending, t.ident, t.sck, t.arc, t.pln, t.fe, t.key, t.pke, t.rnu, t.ac, t.tm, t.lcc, t.stc, t.pwr, t.io, t.ev, t.rw, t.store, t.writes, t.free)) op q sp s k (by intro comp t; simp) (by simp) hk
  simp only [Prod.mk.injEq] at key
  apply key
  simp only [inTurn]
  (repeat' split) <;> simp

theorem execTlsClose_keeps (q : Call) (session : Nat) (s : State) :
    (stateOf s (execTlsClose q session s)).pending = s.pending ∧ (stateOf s (execTlsClose q session s)).ident = s.ident ∧
    (stateOf s (execTlsClose q session s)).sck = s.sck ∧ (stateOf s (execTlsClose q session s)).arc = s.arc ∧
    (stateOf s (execTlsClose q session s)).pln = s.pln ∧ (stateOf s (execTlsClose q session s)).fe = s.fe ∧
    (stateOf s (execTlsClose q session s)).key = s.key ∧ (stateOf s (execTlsClose q session s)).pke = s.pke ∧
    (stateOf s (execTlsClose q session s)).rnu = s.rnu ∧ (stateOf s (execTlsClose q session s)).ac = s.ac ∧
    (stateOf s (execTlsClose q session s)).tm = s.tm ∧ (stateOf s (execTlsClose q session s)).lcc = s.lcc ∧
    (stateOf s (execTlsClose q session s)).stc = s.stc ∧ (stateOf s (execTlsClose q session s)).pwr = s.pwr ∧
    (stateOf s (execTlsClose q session s)).io = s.io ∧ (stateOf s (execTlsClose q session s)).ev = s.ev ∧
    (stateOf s (execTlsClose q session s)).rw = s.rw ∧ (stateOf s (execTlsClose q session s)).store = s.store ∧
    (stateOf s (execTlsClose q session s)).writes = s.writes ∧ (stateOf s (execTlsClose q session s)).free = s.free := by
  simp only [execTlsClose, stateOf_next]
  have key : ∀ op sp k, (fun t : State => (t.pending, t.ident, t.sck, t.arc, t.pln, t.fe, t.key, t.pke, t.rnu, t.ac, t.tm, t.lcc, t.stc, t.pwr, t.io, t.ev, t.rw, t.store, t.writes, t.free)) ((k s : OpOut).after s) = (fun t : State => (t.pending, t.ident, t.sck, t.arc, t.pln, t.fe, t.key, t.pke, t.rnu, t.ac, t.tm, t.lcc, t.stc, t.pwr, t.io, t.ev, t.rw, t.store, t.writes, t.free)) s →
      (fun t : State => (t.pending, t.ident, t.sck, t.arc, t.pln, t.fe, t.key, t.pke, t.rnu, t.ac, t.tm, t.lcc, t.stc, t.pwr, t.io, t.ev, t.rw, t.store, t.writes, t.free)) (runOp op q sp s k) = (fun t : State => (t.pending, t.ident, t.sck, t.arc, t.pln, t.fe, t.key, t.pke, t.rnu, t.ac, t.tm, t.lcc, t.stc, t.pwr, t.io, t.ev, t.rw, t.store, t.writes, t.free)) s := fun op sp k hk =>
    runOp_keeps (fun t : State => (t.pending, t.ident, t.sck, t.arc, t.pln, t.fe, t.key, t.pke, t.rnu, t.ac, t.tm, t.lcc, t.stc, t.pwr, t.io, t.ev, t.rw, t.store, t.writes, t.free)) op q sp s k (by intro comp t; simp) (by simp) hk
  simp only [Prod.mk.injEq] at key
  apply key
  simp only [inTurn]
  (repeat' split) <;> simp

theorem execTlsPeerCert_keeps (q : Call) (session : Nat) (s : State) :
    (stateOf s (execTlsPeerCert q session s)).pending = s.pending ∧ (stateOf s (execTlsPeerCert q session s)).ident = s.ident ∧
    (stateOf s (execTlsPeerCert q session s)).sck = s.sck ∧ (stateOf s (execTlsPeerCert q session s)).arc = s.arc ∧
    (stateOf s (execTlsPeerCert q session s)).pln = s.pln ∧ (stateOf s (execTlsPeerCert q session s)).fe = s.fe ∧
    (stateOf s (execTlsPeerCert q session s)).key = s.key ∧ (stateOf s (execTlsPeerCert q session s)).pke = s.pke ∧
    (stateOf s (execTlsPeerCert q session s)).rnu = s.rnu ∧ (stateOf s (execTlsPeerCert q session s)).tls = s.tls ∧
    (stateOf s (execTlsPeerCert q session s)).ac = s.ac ∧ (stateOf s (execTlsPeerCert q session s)).tm = s.tm ∧
    (stateOf s (execTlsPeerCert q session s)).lcc = s.lcc ∧ (stateOf s (execTlsPeerCert q session s)).stc = s.stc ∧
    (stateOf s (execTlsPeerCert q session s)).pwr = s.pwr ∧ (stateOf s (execTlsPeerCert q session s)).io = s.io ∧
    (stateOf s (execTlsPeerCert q session s)).ev = s.ev ∧ (stateOf s (execTlsPeerCert q session s)).rw = s.rw ∧
    (stateOf s (execTlsPeerCert q session s)).store = s.store ∧ (stateOf s (execTlsPeerCert q session s)).writes = s.writes ∧
    (stateOf s (execTlsPeerCert q session s)).free = s.free := by
  simp only [execTlsPeerCert, stateOf_next]
  have key : ∀ op sp k, (fun t : State => (t.pending, t.ident, t.sck, t.arc, t.pln, t.fe, t.key, t.pke, t.rnu, t.tls, t.ac, t.tm, t.lcc, t.stc, t.pwr, t.io, t.ev, t.rw, t.store, t.writes, t.free)) ((k s : OpOut).after s) = (fun t : State => (t.pending, t.ident, t.sck, t.arc, t.pln, t.fe, t.key, t.pke, t.rnu, t.tls, t.ac, t.tm, t.lcc, t.stc, t.pwr, t.io, t.ev, t.rw, t.store, t.writes, t.free)) s →
      (fun t : State => (t.pending, t.ident, t.sck, t.arc, t.pln, t.fe, t.key, t.pke, t.rnu, t.tls, t.ac, t.tm, t.lcc, t.stc, t.pwr, t.io, t.ev, t.rw, t.store, t.writes, t.free)) (runOp op q sp s k) = (fun t : State => (t.pending, t.ident, t.sck, t.arc, t.pln, t.fe, t.key, t.pke, t.rnu, t.tls, t.ac, t.tm, t.lcc, t.stc, t.pwr, t.io, t.ev, t.rw, t.store, t.writes, t.free)) s := fun op sp k hk =>
    runOp_keeps (fun t : State => (t.pending, t.ident, t.sck, t.arc, t.pln, t.fe, t.key, t.pke, t.rnu, t.tls, t.ac, t.tm, t.lcc, t.stc, t.pwr, t.io, t.ev, t.rw, t.store, t.writes, t.free)) op q sp s k (by intro comp t; simp) (by simp) hk
  simp only [Prod.mk.injEq] at key
  apply key
  simp only [inTurn]
  (repeat' split) <;> simp

end Sys2Proof.Machine
end

