-- ==== Sys2Proof/Laws/KeepTamper.lean ====
section
/-! SUPPORT. What each meaning of Machine/Tamper.lean leaves unchanged in every state, once for each command. -/

namespace Sys2Proof.Machine

theorem execTamperAlarm_keeps (cause : Nat) (source : Nat) (data : Nat) (cycles : Nat) (s0 : State) :
    (stateOf s0 (execTamperAlarm cause source data cycles s0)).pending = s0.pending ∧
    (stateOf s0 (execTamperAlarm cause source data cycles s0)).ident = s0.ident ∧
    (stateOf s0 (execTamperAlarm cause source data cycles s0)).ac = s0.ac ∧
    (stateOf s0 (execTamperAlarm cause source data cycles s0)).pwr = s0.pwr ∧
    (stateOf s0 (execTamperAlarm cause source data cycles s0)).rw = s0.rw ∧
    (stateOf s0 (execTamperAlarm cause source data cycles s0)).store = s0.store ∧
    (stateOf s0 (execTamperAlarm cause source data cycles s0)).writes = s0.writes ∧
    (stateOf s0 (execTamperAlarm cause source data cycles s0)).free = s0.free := by
  simp only [execTamperAlarm]
  (repeat' split) <;> simp

theorem execSnowdropAlarm_keeps (cause : Nat) (source : Nat) (data : Nat) (cycles : Nat) (s0 : State) :
    (stateOf s0 (execSnowdropAlarm cause source data cycles s0)).pending = s0.pending ∧
    (stateOf s0 (execSnowdropAlarm cause source data cycles s0)).ident = s0.ident ∧
    (stateOf s0 (execSnowdropAlarm cause source data cycles s0)).arc = s0.arc ∧
    (stateOf s0 (execSnowdropAlarm cause source data cycles s0)).pln = s0.pln ∧
    (stateOf s0 (execSnowdropAlarm cause source data cycles s0)).fe = s0.fe ∧
    (stateOf s0 (execSnowdropAlarm cause source data cycles s0)).hif = s0.hif ∧
    (stateOf s0 (execSnowdropAlarm cause source data cycles s0)).ts = s0.ts ∧
    (stateOf s0 (execSnowdropAlarm cause source data cycles s0)).pke = s0.pke ∧
    (stateOf s0 (execSnowdropAlarm cause source data cycles s0)).rnu = s0.rnu ∧
    (stateOf s0 (execSnowdropAlarm cause source data cycles s0)).tls = s0.tls ∧
    (stateOf s0 (execSnowdropAlarm cause source data cycles s0)).ac = s0.ac ∧
    (stateOf s0 (execSnowdropAlarm cause source data cycles s0)).lcc = s0.lcc ∧
    (stateOf s0 (execSnowdropAlarm cause source data cycles s0)).stc = s0.stc ∧
    (stateOf s0 (execSnowdropAlarm cause source data cycles s0)).pwr = s0.pwr ∧
    (stateOf s0 (execSnowdropAlarm cause source data cycles s0)).io = s0.io ∧
    (stateOf s0 (execSnowdropAlarm cause source data cycles s0)).ev = s0.ev ∧
    (stateOf s0 (execSnowdropAlarm cause source data cycles s0)).rw = s0.rw ∧
    (stateOf s0 (execSnowdropAlarm cause source data cycles s0)).store = s0.store ∧
    (stateOf s0 (execSnowdropAlarm cause source data cycles s0)).writes = s0.writes ∧
    (stateOf s0 (execSnowdropAlarm cause source data cycles s0)).out = s0.out ∧
    (stateOf s0 (execSnowdropAlarm cause source data cycles s0)).free = s0.free := by
  simp only [execSnowdropAlarm]
  (repeat' split) <;> simp

theorem execAlarmConditionAbsent_keeps (cause : Nat) (source : Nat) (s0 : State) :
    (stateOf s0 (execAlarmConditionAbsent cause source s0)).pending = s0.pending ∧
    (stateOf s0 (execAlarmConditionAbsent cause source s0)).ident = s0.ident ∧
    (stateOf s0 (execAlarmConditionAbsent cause source s0)).sck = s0.sck ∧
    (stateOf s0 (execAlarmConditionAbsent cause source s0)).arc = s0.arc ∧
    (stateOf s0 (execAlarmConditionAbsent cause source s0)).pln = s0.pln ∧
    (stateOf s0 (execAlarmConditionAbsent cause source s0)).fe = s0.fe ∧
    (stateOf s0 (execAlarmConditionAbsent cause source s0)).hif = s0.hif ∧
    (stateOf s0 (execAlarmConditionAbsent cause source s0)).ts = s0.ts ∧
    (stateOf s0 (execAlarmConditionAbsent cause source s0)).key = s0.key ∧
    (stateOf s0 (execAlarmConditionAbsent cause source s0)).pke = s0.pke ∧
    (stateOf s0 (execAlarmConditionAbsent cause source s0)).rnu = s0.rnu ∧
    (stateOf s0 (execAlarmConditionAbsent cause source s0)).tls = s0.tls ∧
    (stateOf s0 (execAlarmConditionAbsent cause source s0)).ac = s0.ac ∧
    (stateOf s0 (execAlarmConditionAbsent cause source s0)).lcc = s0.lcc ∧
    (stateOf s0 (execAlarmConditionAbsent cause source s0)).stc = s0.stc ∧
    (stateOf s0 (execAlarmConditionAbsent cause source s0)).pwr = s0.pwr ∧
    (stateOf s0 (execAlarmConditionAbsent cause source s0)).io = s0.io ∧
    (stateOf s0 (execAlarmConditionAbsent cause source s0)).ev = s0.ev ∧
    (stateOf s0 (execAlarmConditionAbsent cause source s0)).rw = s0.rw ∧
    (stateOf s0 (execAlarmConditionAbsent cause source s0)).store = s0.store ∧
    (stateOf s0 (execAlarmConditionAbsent cause source s0)).writes = s0.writes ∧
    (stateOf s0 (execAlarmConditionAbsent cause source s0)).out = s0.out ∧
    (stateOf s0 (execAlarmConditionAbsent cause source s0)).free = s0.free := by
  simp only [execAlarmConditionAbsent]
  (repeat' split) <;> simp

theorem execLightDisagreeTimeout_keeps (designB : Bool) (elements : Nat) (cycles : Nat) (s0 : State) :
    (stateOf s0 (execLightDisagreeTimeout designB elements cycles s0)).pending = s0.pending ∧
    (stateOf s0 (execLightDisagreeTimeout designB elements cycles s0)).ident = s0.ident ∧
    (stateOf s0 (execLightDisagreeTimeout designB elements cycles s0)).ac = s0.ac ∧
    (stateOf s0 (execLightDisagreeTimeout designB elements cycles s0)).pwr = s0.pwr ∧
    (stateOf s0 (execLightDisagreeTimeout designB elements cycles s0)).rw = s0.rw ∧
    (stateOf s0 (execLightDisagreeTimeout designB elements cycles s0)).store = s0.store ∧
    (stateOf s0 (execLightDisagreeTimeout designB elements cycles s0)).writes = s0.writes ∧
    (stateOf s0 (execLightDisagreeTimeout designB elements cycles s0)).free = s0.free := by
  simp only [execLightDisagreeTimeout]
  (repeat' split) <;> simp

theorem execCellTest_keeps (mv : Nat) (cycles : Nat) (s0 : State) :
    (stateOf s0 (execCellTest mv cycles s0)).pending = s0.pending ∧ (stateOf s0 (execCellTest mv cycles s0)).ident = s0.ident ∧
    (stateOf s0 (execCellTest mv cycles s0)).ac = s0.ac ∧ (stateOf s0 (execCellTest mv cycles s0)).pwr = s0.pwr ∧
    (stateOf s0 (execCellTest mv cycles s0)).rw = s0.rw ∧ (stateOf s0 (execCellTest mv cycles s0)).store = s0.store ∧
    (stateOf s0 (execCellTest mv cycles s0)).writes = s0.writes ∧ (stateOf s0 (execCellTest mv cycles s0)).free = s0.free := by
  simp only [execCellTest]
  (repeat' split) <;> simp

theorem execJournalOverflowHour_keeps (s : State) :
    (stateOf s (execJournalOverflowHour s)).pending = s.pending ∧ (stateOf s (execJournalOverflowHour s)).ident = s.ident ∧
    (stateOf s (execJournalOverflowHour s)).sck = s.sck ∧ (stateOf s (execJournalOverflowHour s)).pln = s.pln ∧
    (stateOf s (execJournalOverflowHour s)).fe = s.fe ∧ (stateOf s (execJournalOverflowHour s)).ts = s.ts ∧
    (stateOf s (execJournalOverflowHour s)).key = s.key ∧ (stateOf s (execJournalOverflowHour s)).pke = s.pke ∧
    (stateOf s (execJournalOverflowHour s)).rnu = s.rnu ∧ (stateOf s (execJournalOverflowHour s)).tls = s.tls ∧
    (stateOf s (execJournalOverflowHour s)).ac = s.ac ∧ (stateOf s (execJournalOverflowHour s)).lcc = s.lcc ∧
    (stateOf s (execJournalOverflowHour s)).stc = s.stc ∧ (stateOf s (execJournalOverflowHour s)).pwr = s.pwr ∧
    (stateOf s (execJournalOverflowHour s)).io = s.io ∧ (stateOf s (execJournalOverflowHour s)).rw = s.rw ∧
    (stateOf s (execJournalOverflowHour s)).store = s.store ∧ (stateOf s (execJournalOverflowHour s)).writes = s.writes ∧
    (stateOf s (execJournalOverflowHour s)).free = s.free := by
  simp only [execJournalOverflowHour, onMain]
  (repeat' split) <;> simp

theorem execQuenchRErase_keeps (s : State) :
    (stateOf s (execQuenchRErase s)).pending = s.pending ∧ (stateOf s (execQuenchRErase s)).ident = s.ident ∧
    (stateOf s (execQuenchRErase s)).sck = s.sck ∧ (stateOf s (execQuenchRErase s)).arc = s.arc ∧
    (stateOf s (execQuenchRErase s)).pln = s.pln ∧ (stateOf s (execQuenchRErase s)).fe = s.fe ∧
    (stateOf s (execQuenchRErase s)).hif = s.hif ∧ (stateOf s (execQuenchRErase s)).ts = s.ts ∧
    (stateOf s (execQuenchRErase s)).pke = s.pke ∧ (stateOf s (execQuenchRErase s)).rnu = s.rnu ∧
    (stateOf s (execQuenchRErase s)).tls = s.tls ∧ (stateOf s (execQuenchRErase s)).ac = s.ac ∧
    (stateOf s (execQuenchRErase s)).tm = s.tm ∧ (stateOf s (execQuenchRErase s)).lcc = s.lcc ∧
    (stateOf s (execQuenchRErase s)).stc = s.stc ∧ (stateOf s (execQuenchRErase s)).pwr = s.pwr ∧
    (stateOf s (execQuenchRErase s)).io = s.io ∧ (stateOf s (execQuenchRErase s)).ev = s.ev ∧
    (stateOf s (execQuenchRErase s)).rw = s.rw ∧ (stateOf s (execQuenchRErase s)).store = s.store ∧
    (stateOf s (execQuenchRErase s)).writes = s.writes ∧ (stateOf s (execQuenchRErase s)).out = s.out ∧
    (stateOf s (execQuenchRErase s)).free = s.free := by
  simp only [execQuenchRErase]
  (repeat' split) <;> simp

theorem execRestrictClear_keeps (s : State) :
    (stateOf s (execRestrictClear s)).pending = s.pending ∧ (stateOf s (execRestrictClear s)).ident = s.ident ∧
    (stateOf s (execRestrictClear s)).sck = s.sck ∧ (stateOf s (execRestrictClear s)).pln = s.pln ∧
    (stateOf s (execRestrictClear s)).ts = s.ts ∧ (stateOf s (execRestrictClear s)).pke = s.pke ∧
    (stateOf s (execRestrictClear s)).tls = s.tls ∧ (stateOf s (execRestrictClear s)).ac = s.ac ∧
    (stateOf s (execRestrictClear s)).lcc = s.lcc ∧ (stateOf s (execRestrictClear s)).stc = s.stc ∧
    (stateOf s (execRestrictClear s)).pwr = s.pwr ∧ (stateOf s (execRestrictClear s)).rw = s.rw ∧
    (stateOf s (execRestrictClear s)).store = s.store ∧ (stateOf s (execRestrictClear s)).writes = s.writes := by
  simp only [execRestrictClear, onMain]
  (repeat' split) <;> simp

end Sys2Proof.Machine
end

