-- ==== Sys2Proof/Laws/KeepTemper.lean ====
section
/-! SUPPORT. What each meaning of Machine/Temper.lean leaves unchanged in every state, once for each command. -/

namespace Sys2Proof.Machine

theorem execTemperApply_keeps (q : Call) (m : TemperMsg) (s : State) :
    (stateOf s (execTemperApply q m s)).pending = s.pending ∧ (stateOf s (execTemperApply q m s)).ident = s.ident ∧
    (stateOf s (execTemperApply q m s)).sck = s.sck ∧ (stateOf s (execTemperApply q m s)).pke = s.pke ∧
    (stateOf s (execTemperApply q m s)).tls = s.tls ∧ (stateOf s (execTemperApply q m s)).ac = s.ac ∧
    (stateOf s (execTemperApply q m s)).lcc = s.lcc ∧ (stateOf s (execTemperApply q m s)).stc = s.stc ∧
    (stateOf s (execTemperApply q m s)).pwr = s.pwr ∧ (stateOf s (execTemperApply q m s)).io = s.io ∧
    (stateOf s (execTemperApply q m s)).rw = s.rw ∧ (stateOf s (execTemperApply q m s)).store = s.store ∧
    (stateOf s (execTemperApply q m s)).writes = s.writes := by
  simp only [execTemperApply, stateOf_next]
  have key : ∀ op sp k, (fun t : State => (t.pending, t.ident, t.sck, t.pke, t.tls, t.ac, t.lcc, t.stc, t.pwr, t.io, t.rw, t.store, t.writes)) ((k s : OpOut).after s) = (fun t : State => (t.pending, t.ident, t.sck, t.pke, t.tls, t.ac, t.lcc, t.stc, t.pwr, t.io, t.rw, t.store, t.writes)) s →
      (fun t : State => (t.pending, t.ident, t.sck, t.pke, t.tls, t.ac, t.lcc, t.stc, t.pwr, t.io, t.rw, t.store, t.writes)) (runOp op q sp s k) = (fun t : State => (t.pending, t.ident, t.sck, t.pke, t.tls, t.ac, t.lcc, t.stc, t.pwr, t.io, t.rw, t.store, t.writes)) s := fun op sp k hk =>
    runOp_keeps (fun t : State => (t.pending, t.ident, t.sck, t.pke, t.tls, t.ac, t.lcc, t.stc, t.pwr, t.io, t.rw, t.store, t.writes)) op q sp s k (by intro comp t; simp) (by simp) hk
  simp only [Prod.mk.injEq] at key
  apply key
  simp only [withDraw]
  (repeat' split) <;> first
    | (simp; done)
    | simp [applyAll_frame _ _ _ _ _ ‹applyAll _ _ _ _ = .ok _›]

end Sys2Proof.Machine
end

