-- ==== Sys2Proof/Laws/KeepTime.lean ====
section
/-! SUPPORT. What each meaning of Machine/Time.lean leaves unchanged in every state, once for each command. -/

namespace Sys2Proof.Machine

theorem execTick_keeps (ocxoTemp : Int) (sense : Sense) (s : State) :
    (stateOf s (execTick ocxoTemp sense s)).pending = s.pending ∧ (stateOf s (execTick ocxoTemp sense s)).ident = s.ident ∧
    (stateOf s (execTick ocxoTemp sense s)).ac = s.ac ∧ (stateOf s (execTick ocxoTemp sense s)).rw = s.rw ∧
    (stateOf s (execTick ocxoTemp sense s)).store = s.store ∧ (stateOf s (execTick ocxoTemp sense s)).writes = s.writes ∧
    (stateOf s (execTick ocxoTemp sense s)).free = s.free := by
  simp only [execTick, onMain]
  (repeat' split) <;> simp

theorem execPpsEdge_keeps (offset : Int) (s : State) :
    (stateOf s (execPpsEdge offset s)).pending = s.pending ∧ (stateOf s (execPpsEdge offset s)).ident = s.ident ∧
    (stateOf s (execPpsEdge offset s)).pln = s.pln ∧ (stateOf s (execPpsEdge offset s)).fe = s.fe ∧
    (stateOf s (execPpsEdge offset s)).key = s.key ∧ (stateOf s (execPpsEdge offset s)).pke = s.pke ∧
    (stateOf s (execPpsEdge offset s)).rnu = s.rnu ∧ (stateOf s (execPpsEdge offset s)).tls = s.tls ∧
    (stateOf s (execPpsEdge offset s)).ac = s.ac ∧ (stateOf s (execPpsEdge offset s)).tm = s.tm ∧
    (stateOf s (execPpsEdge offset s)).lcc = s.lcc ∧ (stateOf s (execPpsEdge offset s)).stc = s.stc ∧
    (stateOf s (execPpsEdge offset s)).pwr = s.pwr ∧ (stateOf s (execPpsEdge offset s)).io = s.io ∧
    (stateOf s (execPpsEdge offset s)).rw = s.rw ∧ (stateOf s (execPpsEdge offset s)).store = s.store ∧
    (stateOf s (execPpsEdge offset s)).writes = s.writes ∧ (stateOf s (execPpsEdge offset s)).free = s.free := by
  simp only [execPpsEdge, onMain]
  (repeat' split) <;> simp

theorem execPpsMissing_keeps (s : State) :
    (stateOf s (execPpsMissing s)).pending = s.pending ∧ (stateOf s (execPpsMissing s)).ident = s.ident ∧
    (stateOf s (execPpsMissing s)).pln = s.pln ∧ (stateOf s (execPpsMissing s)).fe = s.fe ∧
    (stateOf s (execPpsMissing s)).key = s.key ∧ (stateOf s (execPpsMissing s)).pke = s.pke ∧
    (stateOf s (execPpsMissing s)).rnu = s.rnu ∧ (stateOf s (execPpsMissing s)).tls = s.tls ∧
    (stateOf s (execPpsMissing s)).ac = s.ac ∧ (stateOf s (execPpsMissing s)).tm = s.tm ∧
    (stateOf s (execPpsMissing s)).lcc = s.lcc ∧ (stateOf s (execPpsMissing s)).stc = s.stc ∧
    (stateOf s (execPpsMissing s)).pwr = s.pwr ∧ (stateOf s (execPpsMissing s)).io = s.io ∧
    (stateOf s (execPpsMissing s)).rw = s.rw ∧ (stateOf s (execPpsMissing s)).store = s.store ∧
    (stateOf s (execPpsMissing s)).writes = s.writes ∧ (stateOf s (execPpsMissing s)).free = s.free := by
  simp only [execPpsMissing, onMain]
  (repeat' split) <;> simp

theorem execIrigbFrame_keeps (f : IrigFrame) (s : State) :
    (stateOf s (execIrigbFrame f s)).pending = s.pending ∧ (stateOf s (execIrigbFrame f s)).ident = s.ident ∧
    (stateOf s (execIrigbFrame f s)).pln = s.pln ∧ (stateOf s (execIrigbFrame f s)).fe = s.fe ∧
    (stateOf s (execIrigbFrame f s)).key = s.key ∧ (stateOf s (execIrigbFrame f s)).pke = s.pke ∧
    (stateOf s (execIrigbFrame f s)).rnu = s.rnu ∧ (stateOf s (execIrigbFrame f s)).tls = s.tls ∧
    (stateOf s (execIrigbFrame f s)).ac = s.ac ∧ (stateOf s (execIrigbFrame f s)).tm = s.tm ∧
    (stateOf s (execIrigbFrame f s)).lcc = s.lcc ∧ (stateOf s (execIrigbFrame f s)).stc = s.stc ∧
    (stateOf s (execIrigbFrame f s)).pwr = s.pwr ∧ (stateOf s (execIrigbFrame f s)).io = s.io ∧
    (stateOf s (execIrigbFrame f s)).rw = s.rw ∧ (stateOf s (execIrigbFrame f s)).store = s.store ∧
    (stateOf s (execIrigbFrame f s)).writes = s.writes ∧ (stateOf s (execIrigbFrame f s)).free = s.free := by
  simp only [execIrigbFrame, onMain]
  (repeat' split) <;> simp

theorem execIrigbFrameMissing_keeps (s : State) :
    (stateOf s (execIrigbFrameMissing s)).pending = s.pending ∧ (stateOf s (execIrigbFrameMissing s)).ident = s.ident ∧
    (stateOf s (execIrigbFrameMissing s)).pln = s.pln ∧ (stateOf s (execIrigbFrameMissing s)).fe = s.fe ∧
    (stateOf s (execIrigbFrameMissing s)).key = s.key ∧ (stateOf s (execIrigbFrameMissing s)).pke = s.pke ∧
    (stateOf s (execIrigbFrameMissing s)).rnu = s.rnu ∧ (stateOf s (execIrigbFrameMissing s)).tls = s.tls ∧
    (stateOf s (execIrigbFrameMissing s)).ac = s.ac ∧ (stateOf s (execIrigbFrameMissing s)).tm = s.tm ∧
    (stateOf s (execIrigbFrameMissing s)).lcc = s.lcc ∧ (stateOf s (execIrigbFrameMissing s)).stc = s.stc ∧
    (stateOf s (execIrigbFrameMissing s)).pwr = s.pwr ∧ (stateOf s (execIrigbFrameMissing s)).io = s.io ∧
    (stateOf s (execIrigbFrameMissing s)).rw = s.rw ∧ (stateOf s (execIrigbFrameMissing s)).store = s.store ∧
    (stateOf s (execIrigbFrameMissing s)).writes = s.writes ∧ (stateOf s (execIrigbFrameMissing s)).free = s.free := by
  simp only [execIrigbFrameMissing, onMain]
  (repeat' split) <;> simp

theorem execTenMhzLoss_keeps (freq : Option Int) (s : State) :
    (stateOf s (execTenMhzLoss freq s)).pending = s.pending ∧ (stateOf s (execTenMhzLoss freq s)).ident = s.ident ∧
    (stateOf s (execTenMhzLoss freq s)).pln = s.pln ∧ (stateOf s (execTenMhzLoss freq s)).fe = s.fe ∧
    (stateOf s (execTenMhzLoss freq s)).key = s.key ∧ (stateOf s (execTenMhzLoss freq s)).pke = s.pke ∧
    (stateOf s (execTenMhzLoss freq s)).rnu = s.rnu ∧ (stateOf s (execTenMhzLoss freq s)).tls = s.tls ∧
    (stateOf s (execTenMhzLoss freq s)).ac = s.ac ∧ (stateOf s (execTenMhzLoss freq s)).tm = s.tm ∧
    (stateOf s (execTenMhzLoss freq s)).lcc = s.lcc ∧ (stateOf s (execTenMhzLoss freq s)).stc = s.stc ∧
    (stateOf s (execTenMhzLoss freq s)).pwr = s.pwr ∧ (stateOf s (execTenMhzLoss freq s)).io = s.io ∧
    (stateOf s (execTenMhzLoss freq s)).rw = s.rw ∧ (stateOf s (execTenMhzLoss freq s)).store = s.store ∧
    (stateOf s (execTenMhzLoss freq s)).writes = s.writes ∧ (stateOf s (execTenMhzLoss freq s)).free = s.free := by
  simp only [execTenMhzLoss, onMain]
  (repeat' split) <;> simp

theorem execPtpMessageProcess_keeps (domain : Nat) (m : PtpMessage) (s : State) :
    (stateOf s (execPtpMessageProcess domain m s)).pending = s.pending ∧
    (stateOf s (execPtpMessageProcess domain m s)).ident = s.ident ∧
    (stateOf s (execPtpMessageProcess domain m s)).pln = s.pln ∧ (stateOf s (execPtpMessageProcess domain m s)).key = s.key ∧
    (stateOf s (execPtpMessageProcess domain m s)).pke = s.pke ∧ (stateOf s (execPtpMessageProcess domain m s)).rnu = s.rnu ∧
    (stateOf s (execPtpMessageProcess domain m s)).tls = s.tls ∧ (stateOf s (execPtpMessageProcess domain m s)).ac = s.ac ∧
    (stateOf s (execPtpMessageProcess domain m s)).tm = s.tm ∧ (stateOf s (execPtpMessageProcess domain m s)).lcc = s.lcc ∧
    (stateOf s (execPtpMessageProcess domain m s)).stc = s.stc ∧ (stateOf s (execPtpMessageProcess domain m s)).pwr = s.pwr ∧
    (stateOf s (execPtpMessageProcess domain m s)).io = s.io ∧ (stateOf s (execPtpMessageProcess domain m s)).rw = s.rw ∧
    (stateOf s (execPtpMessageProcess domain m s)).store = s.store ∧
    (stateOf s (execPtpMessageProcess domain m s)).writes = s.writes ∧
    (stateOf s (execPtpMessageProcess domain m s)).free = s.free := by
  simp only [execPtpMessageProcess, onMain]
  (repeat' split) <;> simp

theorem execPtpAnnounceTimeout_keeps (s : State) :
    (stateOf s (execPtpAnnounceTimeout s)).pending = s.pending ∧ (stateOf s (execPtpAnnounceTimeout s)).ident = s.ident ∧
    (stateOf s (execPtpAnnounceTimeout s)).pln = s.pln ∧ (stateOf s (execPtpAnnounceTimeout s)).fe = s.fe ∧
    (stateOf s (execPtpAnnounceTimeout s)).key = s.key ∧ (stateOf s (execPtpAnnounceTimeout s)).pke = s.pke ∧
    (stateOf s (execPtpAnnounceTimeout s)).rnu = s.rnu ∧ (stateOf s (execPtpAnnounceTimeout s)).tls = s.tls ∧
    (stateOf s (execPtpAnnounceTimeout s)).ac = s.ac ∧ (stateOf s (execPtpAnnounceTimeout s)).tm = s.tm ∧
    (stateOf s (execPtpAnnounceTimeout s)).lcc = s.lcc ∧ (stateOf s (execPtpAnnounceTimeout s)).stc = s.stc ∧
    (stateOf s (execPtpAnnounceTimeout s)).pwr = s.pwr ∧ (stateOf s (execPtpAnnounceTimeout s)).io = s.io ∧
    (stateOf s (execPtpAnnounceTimeout s)).rw = s.rw ∧ (stateOf s (execPtpAnnounceTimeout s)).store = s.store ∧
    (stateOf s (execPtpAnnounceTimeout s)).writes = s.writes ∧ (stateOf s (execPtpAnnounceTimeout s)).free = s.free := by
  simp only [execPtpAnnounceTimeout, onMain]
  (repeat' split) <;> simp

theorem execPtpSyncTimeout_keeps (s : State) :
    (stateOf s (execPtpSyncTimeout s)).pending = s.pending ∧ (stateOf s (execPtpSyncTimeout s)).ident = s.ident ∧
    (stateOf s (execPtpSyncTimeout s)).pln = s.pln ∧ (stateOf s (execPtpSyncTimeout s)).fe = s.fe ∧
    (stateOf s (execPtpSyncTimeout s)).key = s.key ∧ (stateOf s (execPtpSyncTimeout s)).pke = s.pke ∧
    (stateOf s (execPtpSyncTimeout s)).rnu = s.rnu ∧ (stateOf s (execPtpSyncTimeout s)).tls = s.tls ∧
    (stateOf s (execPtpSyncTimeout s)).ac = s.ac ∧ (stateOf s (execPtpSyncTimeout s)).tm = s.tm ∧
    (stateOf s (execPtpSyncTimeout s)).lcc = s.lcc ∧ (stateOf s (execPtpSyncTimeout s)).stc = s.stc ∧
    (stateOf s (execPtpSyncTimeout s)).pwr = s.pwr ∧ (stateOf s (execPtpSyncTimeout s)).io = s.io ∧
    (stateOf s (execPtpSyncTimeout s)).rw = s.rw ∧ (stateOf s (execPtpSyncTimeout s)).store = s.store ∧
    (stateOf s (execPtpSyncTimeout s)).writes = s.writes ∧ (stateOf s (execPtpSyncTimeout s)).free = s.free := by
  simp only [execPtpSyncTimeout, onMain]
  (repeat' split) <;> simp

theorem execPtpMessageTransmit_keeps (port : Nat) (what : PtpSend) (s : State) :
    (stateOf s (execPtpMessageTransmit port what s)).pending = s.pending ∧
    (stateOf s (execPtpMessageTransmit port what s)).ident = s.ident ∧
    (stateOf s (execPtpMessageTransmit port what s)).sck = s.sck ∧
    (stateOf s (execPtpMessageTransmit port what s)).arc = s.arc ∧
    (stateOf s (execPtpMessageTransmit port what s)).pln = s.pln ∧
    (stateOf s (execPtpMessageTransmit port what s)).hif = s.hif ∧ (stateOf s (execPtpMessageTransmit port what s)).ts = s.ts ∧
    (stateOf s (execPtpMessageTransmit port what s)).key = s.key ∧
    (stateOf s (execPtpMessageTransmit port what s)).pke = s.pke ∧
    (stateOf s (execPtpMessageTransmit port what s)).rnu = s.rnu ∧
    (stateOf s (execPtpMessageTransmit port what s)).tls = s.tls ∧ (stateOf s (execPtpMessageTransmit port what s)).ac = s.ac ∧
    (stateOf s (execPtpMessageTransmit port what s)).tm = s.tm ∧ (stateOf s (execPtpMessageTransmit port what s)).lcc = s.lcc ∧
    (stateOf s (execPtpMessageTransmit port what s)).stc = s.stc ∧
    (stateOf s (execPtpMessageTransmit port what s)).pwr = s.pwr ∧ (stateOf s (execPtpMessageTransmit port what s)).io = s.io ∧
    (stateOf s (execPtpMessageTransmit port what s)).ev = s.ev ∧ (stateOf s (execPtpMessageTransmit port what s)).rw = s.rw ∧
    (stateOf s (execPtpMessageTransmit port what s)).store = s.store ∧
    (stateOf s (execPtpMessageTransmit port what s)).writes = s.writes ∧
    (stateOf s (execPtpMessageTransmit port what s)).out = s.out ∧
    (stateOf s (execPtpMessageTransmit port what s)).free = s.free := by
  simp only [execPtpMessageTransmit, onMain]
  (repeat' split) <;> simp

theorem execReferenceFailure_keeps (r : Nat) (s : State) :
    (stateOf s (execReferenceFailure r s)).pending = s.pending ∧ (stateOf s (execReferenceFailure r s)).ident = s.ident ∧
    (stateOf s (execReferenceFailure r s)).pln = s.pln ∧ (stateOf s (execReferenceFailure r s)).fe = s.fe ∧
    (stateOf s (execReferenceFailure r s)).key = s.key ∧ (stateOf s (execReferenceFailure r s)).pke = s.pke ∧
    (stateOf s (execReferenceFailure r s)).rnu = s.rnu ∧ (stateOf s (execReferenceFailure r s)).tls = s.tls ∧
    (stateOf s (execReferenceFailure r s)).ac = s.ac ∧ (stateOf s (execReferenceFailure r s)).tm = s.tm ∧
    (stateOf s (execReferenceFailure r s)).lcc = s.lcc ∧ (stateOf s (execReferenceFailure r s)).stc = s.stc ∧
    (stateOf s (execReferenceFailure r s)).pwr = s.pwr ∧ (stateOf s (execReferenceFailure r s)).io = s.io ∧
    (stateOf s (execReferenceFailure r s)).rw = s.rw ∧ (stateOf s (execReferenceFailure r s)).store = s.store ∧
    (stateOf s (execReferenceFailure r s)).writes = s.writes ∧ (stateOf s (execReferenceFailure r s)).free = s.free := by
  simp only [execReferenceFailure, onMain]
  (repeat' split) <;> simp

theorem execQualificationComplete_keeps (r : Nat) (s : State) :
    (stateOf s (execQualificationComplete r s)).pending = s.pending ∧
    (stateOf s (execQualificationComplete r s)).ident = s.ident ∧ (stateOf s (execQualificationComplete r s)).pln = s.pln ∧
    (stateOf s (execQualificationComplete r s)).fe = s.fe ∧ (stateOf s (execQualificationComplete r s)).key = s.key ∧
    (stateOf s (execQualificationComplete r s)).pke = s.pke ∧ (stateOf s (execQualificationComplete r s)).rnu = s.rnu ∧
    (stateOf s (execQualificationComplete r s)).tls = s.tls ∧ (stateOf s (execQualificationComplete r s)).ac = s.ac ∧
    (stateOf s (execQualificationComplete r s)).tm = s.tm ∧ (stateOf s (execQualificationComplete r s)).lcc = s.lcc ∧
    (stateOf s (execQualificationComplete r s)).stc = s.stc ∧ (stateOf s (execQualificationComplete r s)).pwr = s.pwr ∧
    (stateOf s (execQualificationComplete r s)).io = s.io ∧ (stateOf s (execQualificationComplete r s)).rw = s.rw ∧
    (stateOf s (execQualificationComplete r s)).store = s.store ∧
    (stateOf s (execQualificationComplete r s)).writes = s.writes ∧ (stateOf s (execQualificationComplete r s)).free = s.free := by
  simp only [execQualificationComplete, onMain]
  (repeat' split) <;> simp

theorem execReferenceSelect_keeps (s : State) :
    (stateOf s (execReferenceSelect s)).pending = s.pending ∧ (stateOf s (execReferenceSelect s)).ident = s.ident ∧
    (stateOf s (execReferenceSelect s)).pln = s.pln ∧ (stateOf s (execReferenceSelect s)).fe = s.fe ∧
    (stateOf s (execReferenceSelect s)).key = s.key ∧ (stateOf s (execReferenceSelect s)).pke = s.pke ∧
    (stateOf s (execReferenceSelect s)).rnu = s.rnu ∧ (stateOf s (execReferenceSelect s)).tls = s.tls ∧
    (stateOf s (execReferenceSelect s)).ac = s.ac ∧ (stateOf s (execReferenceSelect s)).tm = s.tm ∧
    (stateOf s (execReferenceSelect s)).lcc = s.lcc ∧ (stateOf s (execReferenceSelect s)).stc = s.stc ∧
    (stateOf s (execReferenceSelect s)).pwr = s.pwr ∧ (stateOf s (execReferenceSelect s)).io = s.io ∧
    (stateOf s (execReferenceSelect s)).rw = s.rw ∧ (stateOf s (execReferenceSelect s)).store = s.store ∧
    (stateOf s (execReferenceSelect s)).writes = s.writes ∧ (stateOf s (execReferenceSelect s)).free = s.free := by
  simp only [execReferenceSelect, onMain]
  (repeat' split) <;> simp

theorem execOcxoFailed_keeps (ppm : Nat) (s : State) :
    (stateOf s (execOcxoFailed ppm s)).pending = s.pending ∧ (stateOf s (execOcxoFailed ppm s)).ident = s.ident ∧
    (stateOf s (execOcxoFailed ppm s)).ac = s.ac ∧ (stateOf s (execOcxoFailed ppm s)).pwr = s.pwr ∧
    (stateOf s (execOcxoFailed ppm s)).rw = s.rw ∧ (stateOf s (execOcxoFailed ppm s)).store = s.store ∧
    (stateOf s (execOcxoFailed ppm s)).writes = s.writes ∧ (stateOf s (execOcxoFailed ppm s)).free = s.free := by
  simp only [execOcxoFailed, onMain]
  (repeat' split) <;> simp

theorem execAngleCoast_keeps (s : State) :
    (stateOf s (execAngleCoast s)).pending = s.pending ∧ (stateOf s (execAngleCoast s)).ident = s.ident ∧
    (stateOf s (execAngleCoast s)).pln = s.pln ∧ (stateOf s (execAngleCoast s)).fe = s.fe ∧
    (stateOf s (execAngleCoast s)).key = s.key ∧ (stateOf s (execAngleCoast s)).pke = s.pke ∧
    (stateOf s (execAngleCoast s)).rnu = s.rnu ∧ (stateOf s (execAngleCoast s)).tls = s.tls ∧
    (stateOf s (execAngleCoast s)).ac = s.ac ∧ (stateOf s (execAngleCoast s)).tm = s.tm ∧
    (stateOf s (execAngleCoast s)).lcc = s.lcc ∧ (stateOf s (execAngleCoast s)).stc = s.stc ∧
    (stateOf s (execAngleCoast s)).pwr = s.pwr ∧ (stateOf s (execAngleCoast s)).io = s.io ∧
    (stateOf s (execAngleCoast s)).rw = s.rw ∧ (stateOf s (execAngleCoast s)).store = s.store ∧
    (stateOf s (execAngleCoast s)).writes = s.writes ∧ (stateOf s (execAngleCoast s)).free = s.free := by
  simp only [execAngleCoast, onMain]
  (repeat' split) <;> simp

theorem execAngleLost_keeps (s : State) :
    (stateOf s (execAngleLost s)).pending = s.pending ∧ (stateOf s (execAngleLost s)).ident = s.ident ∧
    (stateOf s (execAngleLost s)).pln = s.pln ∧ (stateOf s (execAngleLost s)).fe = s.fe ∧
    (stateOf s (execAngleLost s)).key = s.key ∧ (stateOf s (execAngleLost s)).pke = s.pke ∧
    (stateOf s (execAngleLost s)).rnu = s.rnu ∧ (stateOf s (execAngleLost s)).tls = s.tls ∧
    (stateOf s (execAngleLost s)).ac = s.ac ∧ (stateOf s (execAngleLost s)).tm = s.tm ∧
    (stateOf s (execAngleLost s)).lcc = s.lcc ∧ (stateOf s (execAngleLost s)).stc = s.stc ∧
    (stateOf s (execAngleLost s)).pwr = s.pwr ∧ (stateOf s (execAngleLost s)).io = s.io ∧
    (stateOf s (execAngleLost s)).rw = s.rw ∧ (stateOf s (execAngleLost s)).store = s.store ∧
    (stateOf s (execAngleLost s)).writes = s.writes ∧ (stateOf s (execAngleLost s)).free = s.free := by
  simp only [execAngleLost, onMain]
  (repeat' split) <;> simp

theorem execAngleReached_keeps (ctx : Nat) (s : State) :
    (stateOf s (execAngleReached ctx s)).pending = s.pending ∧ (stateOf s (execAngleReached ctx s)).ident = s.ident ∧
    (stateOf s (execAngleReached ctx s)).sck = s.sck ∧ (stateOf s (execAngleReached ctx s)).arc = s.arc ∧
    (stateOf s (execAngleReached ctx s)).pln = s.pln ∧ (stateOf s (execAngleReached ctx s)).fe = s.fe ∧
    (stateOf s (execAngleReached ctx s)).key = s.key ∧ (stateOf s (execAngleReached ctx s)).pke = s.pke ∧
    (stateOf s (execAngleReached ctx s)).rnu = s.rnu ∧ (stateOf s (execAngleReached ctx s)).tls = s.tls ∧
    (stateOf s (execAngleReached ctx s)).ac = s.ac ∧ (stateOf s (execAngleReached ctx s)).tm = s.tm ∧
    (stateOf s (execAngleReached ctx s)).lcc = s.lcc ∧ (stateOf s (execAngleReached ctx s)).stc = s.stc ∧
    (stateOf s (execAngleReached ctx s)).pwr = s.pwr ∧ (stateOf s (execAngleReached ctx s)).io = s.io ∧
    (stateOf s (execAngleReached ctx s)).ev = s.ev ∧ (stateOf s (execAngleReached ctx s)).rw = s.rw ∧
    (stateOf s (execAngleReached ctx s)).store = s.store ∧ (stateOf s (execAngleReached ctx s)).writes = s.writes ∧
    (stateOf s (execAngleReached ctx s)).free = s.free := by
  simp only [execAngleReached, onMain]
  (repeat' split) <;> simp

theorem execSettingTakesEffect_keeps (s : State) :
    (stateOf s (execSettingTakesEffect s)).pending = s.pending ∧ (stateOf s (execSettingTakesEffect s)).ident = s.ident ∧
    (stateOf s (execSettingTakesEffect s)).pln = s.pln ∧ (stateOf s (execSettingTakesEffect s)).fe = s.fe ∧
    (stateOf s (execSettingTakesEffect s)).key = s.key ∧ (stateOf s (execSettingTakesEffect s)).pke = s.pke ∧
    (stateOf s (execSettingTakesEffect s)).rnu = s.rnu ∧ (stateOf s (execSettingTakesEffect s)).tls = s.tls ∧
    (stateOf s (execSettingTakesEffect s)).ac = s.ac ∧ (stateOf s (execSettingTakesEffect s)).tm = s.tm ∧
    (stateOf s (execSettingTakesEffect s)).lcc = s.lcc ∧ (stateOf s (execSettingTakesEffect s)).stc = s.stc ∧
    (stateOf s (execSettingTakesEffect s)).pwr = s.pwr ∧ (stateOf s (execSettingTakesEffect s)).io = s.io ∧
    (stateOf s (execSettingTakesEffect s)).rw = s.rw ∧ (stateOf s (execSettingTakesEffect s)).store = s.store ∧
    (stateOf s (execSettingTakesEffect s)).writes = s.writes ∧ (stateOf s (execSettingTakesEffect s)).free = s.free := by
  simp only [execSettingTakesEffect, onMain]
  (repeat' split) <;> simp

end Sys2Proof.Machine
end

