-- ==== Sys2Proof/Laws/KeepVf.lean ====
section
/-! SUPPORT. What each meaning of Machine/Vf.lean leaves unchanged in every state, once for each command. -/

namespace Sys2Proof.Machine

theorem execVfSetup_keeps (q : Call) (fn : Nat) (rings : Nat) (scope : Nat) (ctxs : Nat) (slots : Nat) (delays : Nat) (s : State) :
    (stateOf s (execVfSetup q fn rings scope ctxs slots delays s)).pending = s.pending ∧
    (stateOf s (execVfSetup q fn rings scope ctxs slots delays s)).ident = s.ident ∧
    (stateOf s (execVfSetup q fn rings scope ctxs slots delays s)).sck = s.sck ∧
    (stateOf s (execVfSetup q fn rings scope ctxs slots delays s)).arc = s.arc ∧
    (stateOf s (execVfSetup q fn rings scope ctxs slots delays s)).pln = s.pln ∧
    (stateOf s (execVfSetup q fn rings scope ctxs slots delays s)).fe = s.fe ∧
    (stateOf s (execVfSetup q fn rings scope ctxs slots delays s)).key = s.key ∧
    (stateOf s (execVfSetup q fn rings scope ctxs slots delays s)).pke = s.pke ∧
    (stateOf s (execVfSetup q fn rings scope ctxs slots delays s)).rnu = s.rnu ∧
    (stateOf s (execVfSetup q fn rings scope ctxs slots delays s)).tls = s.tls ∧
    (stateOf s (execVfSetup q fn rings scope ctxs slots delays s)).ac = s.ac ∧
    (stateOf s (execVfSetup q fn rings scope ctxs slots delays s)).tm = s.tm ∧
    (stateOf s (execVfSetup q fn rings scope ctxs slots delays s)).lcc = s.lcc ∧
    (stateOf s (execVfSetup q fn rings scope ctxs slots delays s)).stc = s.stc ∧
    (stateOf s (execVfSetup q fn rings scope ctxs slots delays s)).pwr = s.pwr ∧
    (stateOf s (execVfSetup q fn rings scope ctxs slots delays s)).io = s.io ∧
    (stateOf s (execVfSetup q fn rings scope ctxs slots delays s)).ev = s.ev ∧
    (stateOf s (execVfSetup q fn rings scope ctxs slots delays s)).rw = s.rw ∧
    (stateOf s (execVfSetup q fn rings scope ctxs slots delays s)).store = s.store ∧
    (stateOf s (execVfSetup q fn rings scope ctxs slots delays s)).writes = s.writes ∧
    (stateOf s (execVfSetup q fn rings scope ctxs slots delays s)).free = s.free := by
  simp only [execVfSetup, stateOf_next]
  have key : ∀ op sp k, (fun t : State => (t.pending, t.ident, t.sck, t.arc, t.pln, t.fe, t.key, t.pke, t.rnu, t.tls, t.ac, t.tm, t.lcc, t.stc, t.pwr, t.io, t.ev, t.rw, t.store, t.writes, t.free)) ((k s : OpOut).after s) = (fun t : State => (t.pending, t.ident, t.sck, t.arc, t.pln, t.fe, t.key, t.pke, t.rnu, t.tls, t.ac, t.tm, t.lcc, t.stc, t.pwr, t.io, t.ev, t.rw, t.store, t.writes, t.free)) s →
      (fun t : State => (t.pending, t.ident, t.sck, t.arc, t.pln, t.fe, t.key, t.pke, t.rnu, t.tls, t.ac, t.tm, t.lcc, t.stc, t.pwr, t.io, t.ev, t.rw, t.store, t.writes, t.free)) (runOp op q sp s k) = (fun t : State => (t.pending, t.ident, t.sck, t.arc, t.pln, t.fe, t.key, t.pke, t.rnu, t.tls, t.ac, t.tm, t.lcc, t.stc, t.pwr, t.io, t.ev, t.rw, t.store, t.writes, t.free)) s := fun op sp k hk =>
    runOp_keeps (fun t : State => (t.pending, t.ident, t.sck, t.arc, t.pln, t.fe, t.key, t.pke, t.rnu, t.tls, t.ac, t.tm, t.lcc, t.stc, t.pwr, t.io, t.ev, t.rw, t.store, t.writes, t.free)) op q sp s k (by intro comp t; simp) (by simp) hk
  simp only [Prod.mk.injEq] at key
  apply key
  (repeat' split) <;> simp

theorem execWarmHostReset_keeps (perst : Bool) (s : State) :
    (stateOf s (execWarmHostReset perst s)).pending = s.pending ∧ (stateOf s (execWarmHostReset perst s)).ident = s.ident ∧
    (stateOf s (execWarmHostReset perst s)).sck = s.sck ∧ (stateOf s (execWarmHostReset perst s)).key = s.key ∧
    (stateOf s (execWarmHostReset perst s)).pke = s.pke ∧ (stateOf s (execWarmHostReset perst s)).rnu = s.rnu ∧
    (stateOf s (execWarmHostReset perst s)).tls = s.tls ∧ (stateOf s (execWarmHostReset perst s)).ac = s.ac ∧
    (stateOf s (execWarmHostReset perst s)).tm = s.tm ∧ (stateOf s (execWarmHostReset perst s)).lcc = s.lcc ∧
    (stateOf s (execWarmHostReset perst s)).stc = s.stc ∧ (stateOf s (execWarmHostReset perst s)).store = s.store ∧
    (stateOf s (execWarmHostReset perst s)).writes = s.writes ∧ (stateOf s (execWarmHostReset perst s)).free = s.free := by
  simp only [execWarmHostReset]
  (repeat' split) <;> simp

theorem execPerstNDeassert_keeps (s : State) :
    (stateOf s (execPerstNDeassert s)).pending = s.pending ∧ (stateOf s (execPerstNDeassert s)).ident = s.ident ∧
    (stateOf s (execPerstNDeassert s)).sck = s.sck ∧ (stateOf s (execPerstNDeassert s)).pln = s.pln ∧
    (stateOf s (execPerstNDeassert s)).ts = s.ts ∧ (stateOf s (execPerstNDeassert s)).key = s.key ∧
    (stateOf s (execPerstNDeassert s)).pke = s.pke ∧ (stateOf s (execPerstNDeassert s)).rnu = s.rnu ∧
    (stateOf s (execPerstNDeassert s)).tls = s.tls ∧ (stateOf s (execPerstNDeassert s)).ac = s.ac ∧
    (stateOf s (execPerstNDeassert s)).tm = s.tm ∧ (stateOf s (execPerstNDeassert s)).lcc = s.lcc ∧
    (stateOf s (execPerstNDeassert s)).stc = s.stc ∧ (stateOf s (execPerstNDeassert s)).pwr = s.pwr ∧
    (stateOf s (execPerstNDeassert s)).ev = s.ev ∧ (stateOf s (execPerstNDeassert s)).rw = s.rw ∧
    (stateOf s (execPerstNDeassert s)).store = s.store ∧ (stateOf s (execPerstNDeassert s)).writes = s.writes ∧
    (stateOf s (execPerstNDeassert s)).out = s.out ∧ (stateOf s (execPerstNDeassert s)).free = s.free := by
  simp only [execPerstNDeassert]
  (repeat' split) <;> simp

theorem execFlr_keeps (f : Nat) (s : State) :
    (stateOf s (execFlr f s)).pending = s.pending ∧ (stateOf s (execFlr f s)).ident = s.ident ∧
    (stateOf s (execFlr f s)).sck = s.sck ∧ (stateOf s (execFlr f s)).key = s.key ∧ (stateOf s (execFlr f s)).rnu = s.rnu ∧
    (stateOf s (execFlr f s)).ac = s.ac ∧ (stateOf s (execFlr f s)).tm = s.tm ∧ (stateOf s (execFlr f s)).lcc = s.lcc ∧
    (stateOf s (execFlr f s)).stc = s.stc ∧ (stateOf s (execFlr f s)).io = s.io ∧ (stateOf s (execFlr f s)).store = s.store ∧
    (stateOf s (execFlr f s)).writes = s.writes ∧ (stateOf s (execFlr f s)).free = s.free := by
  simp only [execFlr, onMain]
  (repeat' split) <;> simp

theorem execVfRemoval_keeps (fns : List Nat) (s : State) :
    (stateOf s (execVfRemoval fns s)).pending = s.pending ∧ (stateOf s (execVfRemoval fns s)).ident = s.ident ∧
    (stateOf s (execVfRemoval fns s)).sck = s.sck ∧ (stateOf s (execVfRemoval fns s)).key = s.key ∧
    (stateOf s (execVfRemoval fns s)).rnu = s.rnu ∧ (stateOf s (execVfRemoval fns s)).ac = s.ac ∧
    (stateOf s (execVfRemoval fns s)).tm = s.tm ∧ (stateOf s (execVfRemoval fns s)).lcc = s.lcc ∧
    (stateOf s (execVfRemoval fns s)).stc = s.stc ∧ (stateOf s (execVfRemoval fns s)).io = s.io ∧
    (stateOf s (execVfRemoval fns s)).store = s.store ∧ (stateOf s (execVfRemoval fns s)).writes = s.writes ∧
    (stateOf s (execVfRemoval fns s)).free = s.free := by
  simp only [execVfRemoval, onMain]
  (repeat' split) <;> simp

theorem execVfFreeze_keeps (q : Call) (fn : Nat) (s : State) :
    (stateOf s (execVfFreeze q fn s)).pending = s.pending ∧ (stateOf s (execVfFreeze q fn s)).ident = s.ident ∧
    (stateOf s (execVfFreeze q fn s)).sck = s.sck ∧ (stateOf s (execVfFreeze q fn s)).fe = s.fe ∧
    (stateOf s (execVfFreeze q fn s)).key = s.key ∧ (stateOf s (execVfFreeze q fn s)).pke = s.pke ∧
    (stateOf s (execVfFreeze q fn s)).rnu = s.rnu ∧ (stateOf s (execVfFreeze q fn s)).tls = s.tls ∧
    (stateOf s (execVfFreeze q fn s)).ac = s.ac ∧ (stateOf s (execVfFreeze q fn s)).tm = s.tm ∧
    (stateOf s (execVfFreeze q fn s)).lcc = s.lcc ∧ (stateOf s (execVfFreeze q fn s)).stc = s.stc ∧
    (stateOf s (execVfFreeze q fn s)).io = s.io ∧ (stateOf s (execVfFreeze q fn s)).rw = s.rw ∧
    (stateOf s (execVfFreeze q fn s)).store = s.store ∧ (stateOf s (execVfFreeze q fn s)).writes = s.writes ∧
    (stateOf s (execVfFreeze q fn s)).free = s.free := by
  simp only [execVfFreeze, stateOf_next]
  have key : ∀ op sp k, (fun t : State => (t.pending, t.ident, t.sck, t.fe, t.key, t.pke, t.rnu, t.tls, t.ac, t.tm, t.lcc, t.stc, t.io, t.rw, t.store, t.writes, t.free)) ((k s : OpOut).after s) = (fun t : State => (t.pending, t.ident, t.sck, t.fe, t.key, t.pke, t.rnu, t.tls, t.ac, t.tm, t.lcc, t.stc, t.io, t.rw, t.store, t.writes, t.free)) s →
      (fun t : State => (t.pending, t.ident, t.sck, t.fe, t.key, t.pke, t.rnu, t.tls, t.ac, t.tm, t.lcc, t.stc, t.io, t.rw, t.store, t.writes, t.free)) (runOp op q sp s k) = (fun t : State => (t.pending, t.ident, t.sck, t.fe, t.key, t.pke, t.rnu, t.tls, t.ac, t.tm, t.lcc, t.stc, t.io, t.rw, t.store, t.writes, t.free)) s := fun op sp k hk =>
    runOp_keeps (fun t : State => (t.pending, t.ident, t.sck, t.fe, t.key, t.pke, t.rnu, t.tls, t.ac, t.tm, t.lcc, t.stc, t.io, t.rw, t.store, t.writes, t.free)) op q sp s k (by intro comp t; simp) (by simp) hk
  simp only [Prod.mk.injEq] at key
  apply key
  (repeat' split) <;> simp

theorem execVfSave_keeps (q : Call) (fn : Nat) (s : State) :
    (stateOf s (execVfSave q fn s)).pending = s.pending ∧ (stateOf s (execVfSave q fn s)).ident = s.ident ∧
    (stateOf s (execVfSave q fn s)).sck = s.sck ∧ (stateOf s (execVfSave q fn s)).arc = s.arc ∧
    (stateOf s (execVfSave q fn s)).pln = s.pln ∧ (stateOf s (execVfSave q fn s)).fe = s.fe ∧
    (stateOf s (execVfSave q fn s)).key = s.key ∧ (stateOf s (execVfSave q fn s)).pke = s.pke ∧
    (stateOf s (execVfSave q fn s)).tls = s.tls ∧ (stateOf s (execVfSave q fn s)).ac = s.ac ∧
    (stateOf s (execVfSave q fn s)).tm = s.tm ∧ (stateOf s (execVfSave q fn s)).lcc = s.lcc ∧
    (stateOf s (execVfSave q fn s)).stc = s.stc ∧ (stateOf s (execVfSave q fn s)).pwr = s.pwr ∧
    (stateOf s (execVfSave q fn s)).io = s.io ∧ (stateOf s (execVfSave q fn s)).ev = s.ev ∧
    (stateOf s (execVfSave q fn s)).rw = s.rw ∧ (stateOf s (execVfSave q fn s)).store = s.store ∧
    (stateOf s (execVfSave q fn s)).writes = s.writes := by
  simp only [execVfSave, stateOf_next]
  have key : ∀ op sp k, (fun t : State => (t.pending, t.ident, t.sck, t.arc, t.pln, t.fe, t.key, t.pke, t.tls, t.ac, t.tm, t.lcc, t.stc, t.pwr, t.io, t.ev, t.rw, t.store, t.writes)) ((k s : OpOut).after s) = (fun t : State => (t.pending, t.ident, t.sck, t.arc, t.pln, t.fe, t.key, t.pke, t.tls, t.ac, t.tm, t.lcc, t.stc, t.pwr, t.io, t.ev, t.rw, t.store, t.writes)) s →
      (fun t : State => (t.pending, t.ident, t.sck, t.arc, t.pln, t.fe, t.key, t.pke, t.tls, t.ac, t.tm, t.lcc, t.stc, t.pwr, t.io, t.ev, t.rw, t.store, t.writes)) (runOp op q sp s k) = (fun t : State => (t.pending, t.ident, t.sck, t.arc, t.pln, t.fe, t.key, t.pke, t.tls, t.ac, t.tm, t.lcc, t.stc, t.pwr, t.io, t.ev, t.rw, t.store, t.writes)) s := fun op sp k hk =>
    runOp_keeps (fun t : State => (t.pending, t.ident, t.sck, t.arc, t.pln, t.fe, t.key, t.pke, t.tls, t.ac, t.tm, t.lcc, t.stc, t.pwr, t.io, t.ev, t.rw, t.store, t.writes)) op q sp s k (by intro comp t; simp) (by simp) hk
  simp only [Prod.mk.injEq] at key
  apply key
  simp only [withDraw]
  (repeat' split) <;> simp

theorem execVfRestore_keeps (q : Call) (fn : Nat) (length : Nat) (image : SaveImage) (s : State) :
    (stateOf s (execVfRestore q fn length image s)).pending = s.pending ∧
    (stateOf s (execVfRestore q fn length image s)).ident = s.ident ∧
    (stateOf s (execVfRestore q fn length image s)).sck = s.sck ∧ (stateOf s (execVfRestore q fn length image s)).pke = s.pke ∧
    (stateOf s (execVfRestore q fn length image s)).tls = s.tls ∧ (stateOf s (execVfRestore q fn length image s)).ac = s.ac ∧
    (stateOf s (execVfRestore q fn length image s)).tm = s.tm ∧ (stateOf s (execVfRestore q fn length image s)).lcc = s.lcc ∧
    (stateOf s (execVfRestore q fn length image s)).stc = s.stc ∧ (stateOf s (execVfRestore q fn length image s)).pwr = s.pwr ∧
    (stateOf s (execVfRestore q fn length image s)).io = s.io ∧ (stateOf s (execVfRestore q fn length image s)).rw = s.rw ∧
    (stateOf s (execVfRestore q fn length image s)).store = s.store ∧
    (stateOf s (execVfRestore q fn length image s)).writes = s.writes := by
  simp only [execVfRestore, stateOf_next]
  have key : ∀ op sp k, (fun t : State => (t.pending, t.ident, t.sck, t.pke, t.tls, t.ac, t.tm, t.lcc, t.stc, t.pwr, t.io, t.rw, t.store, t.writes)) ((k s : OpOut).after s) = (fun t : State => (t.pending, t.ident, t.sck, t.pke, t.tls, t.ac, t.tm, t.lcc, t.stc, t.pwr, t.io, t.rw, t.store, t.writes)) s →
      (fun t : State => (t.pending, t.ident, t.sck, t.pke, t.tls, t.ac, t.tm, t.lcc, t.stc, t.pwr, t.io, t.rw, t.store, t.writes)) (runOp op q sp s k) = (fun t : State => (t.pending, t.ident, t.sck, t.pke, t.tls, t.ac, t.tm, t.lcc, t.stc, t.pwr, t.io, t.rw, t.store, t.writes)) s := fun op sp k hk =>
    runOp_keeps (fun t : State => (t.pending, t.ident, t.sck, t.pke, t.tls, t.ac, t.tm, t.lcc, t.stc, t.pwr, t.io, t.rw, t.store, t.writes)) op q sp s k (by intro comp t; simp) (by simp) hk
  simp only [Prod.mk.injEq] at key
  apply key
  simp only [withDraw]
  (repeat' split) <;> simp

theorem execVfThaw_keeps (q : Call) (fn : Nat) (s : State) :
    (stateOf s (execVfThaw q fn s)).pending = s.pending ∧ (stateOf s (execVfThaw q fn s)).ident = s.ident ∧
    (stateOf s (execVfThaw q fn s)).sck = s.sck ∧ (stateOf s (execVfThaw q fn s)).arc = s.arc ∧
    (stateOf s (execVfThaw q fn s)).pln = s.pln ∧ (stateOf s (execVfThaw q fn s)).fe = s.fe ∧
    (stateOf s (execVfThaw q fn s)).key = s.key ∧ (stateOf s (execVfThaw q fn s)).pke = s.pke ∧
    (stateOf s (execVfThaw q fn s)).rnu = s.rnu ∧ (stateOf s (execVfThaw q fn s)).tls = s.tls ∧
    (stateOf s (execVfThaw q fn s)).ac = s.ac ∧ (stateOf s (execVfThaw q fn s)).tm = s.tm ∧
    (stateOf s (execVfThaw q fn s)).lcc = s.lcc ∧ (stateOf s (execVfThaw q fn s)).stc = s.stc ∧
    (stateOf s (execVfThaw q fn s)).pwr = s.pwr ∧ (stateOf s (execVfThaw q fn s)).io = s.io ∧
    (stateOf s (execVfThaw q fn s)).ev = s.ev ∧ (stateOf s (execVfThaw q fn s)).rw = s.rw ∧
    (stateOf s (execVfThaw q fn s)).store = s.store ∧ (stateOf s (execVfThaw q fn s)).writes = s.writes ∧
    (stateOf s (execVfThaw q fn s)).free = s.free := by
  simp only [execVfThaw, stateOf_next]
  have key : ∀ op sp k, (fun t : State => (t.pending, t.ident, t.sck, t.arc, t.pln, t.fe, t.key, t.pke, t.rnu, t.tls, t.ac, t.tm, t.lcc, t.stc, t.pwr, t.io, t.ev, t.rw, t.store, t.writes, t.free)) ((k s : OpOut).after s) = (fun t : State => (t.pending, t.ident, t.sck, t.arc, t.pln, t.fe, t.key, t.pke, t.rnu, t.tls, t.ac, t.tm, t.lcc, t.stc, t.pwr, t.io, t.ev, t.rw, t.store, t.writes, t.free)) s →
      (fun t : State => (t.pending, t.ident, t.sck, t.arc, t.pln, t.fe, t.key, t.pke, t.rnu, t.tls, t.ac, t.tm, t.lcc, t.stc, t.pwr, t.io, t.ev, t.rw, t.store, t.writes, t.free)) (runOp op q sp s k) = (fun t : State => (t.pending, t.ident, t.sck, t.arc, t.pln, t.fe, t.key, t.pke, t.rnu, t.tls, t.ac, t.tm, t.lcc, t.stc, t.pwr, t.io, t.ev, t.rw, t.store, t.writes, t.free)) s := fun op sp k hk =>
    runOp_keeps (fun t : State => (t.pending, t.ident, t.sck, t.arc, t.pln, t.fe, t.key, t.pke, t.rnu, t.tls, t.ac, t.tm, t.lcc, t.stc, t.pwr, t.io, t.ev, t.rw, t.store, t.writes, t.free)) op q sp s k (by intro comp t; simp) (by simp) hk
  simp only [Prod.mk.injEq] at key
  apply key
  (repeat' split) <;> simp

theorem execIdeStreamInsecure_keeps (stream : Option Nat) (s : State) :
    (stateOf s (execIdeStreamInsecure stream s)).pending = s.pending ∧
    (stateOf s (execIdeStreamInsecure stream s)).ident = s.ident ∧ (stateOf s (execIdeStreamInsecure stream s)).sck = s.sck ∧
    (stateOf s (execIdeStreamInsecure stream s)).arc = s.arc ∧ (stateOf s (execIdeStreamInsecure stream s)).pln = s.pln ∧
    (stateOf s (execIdeStreamInsecure stream s)).fe = s.fe ∧ (stateOf s (execIdeStreamInsecure stream s)).ts = s.ts ∧
    (stateOf s (execIdeStreamInsecure stream s)).key = s.key ∧ (stateOf s (execIdeStreamInsecure stream s)).pke = s.pke ∧
    (stateOf s (execIdeStreamInsecure stream s)).rnu = s.rnu ∧ (stateOf s (execIdeStreamInsecure stream s)).tls = s.tls ∧
    (stateOf s (execIdeStreamInsecure stream s)).ac = s.ac ∧ (stateOf s (execIdeStreamInsecure stream s)).tm = s.tm ∧
    (stateOf s (execIdeStreamInsecure stream s)).lcc = s.lcc ∧ (stateOf s (execIdeStreamInsecure stream s)).stc = s.stc ∧
    (stateOf s (execIdeStreamInsecure stream s)).pwr = s.pwr ∧ (stateOf s (execIdeStreamInsecure stream s)).io = s.io ∧
    (stateOf s (execIdeStreamInsecure stream s)).rw = s.rw ∧ (stateOf s (execIdeStreamInsecure stream s)).store = s.store ∧
    (stateOf s (execIdeStreamInsecure stream s)).writes = s.writes ∧
    (stateOf s (execIdeStreamInsecure stream s)).free = s.free := by
  simp only [execIdeStreamInsecure, onMain]
  (repeat' split) <;> simp

theorem execSpdmDoeExchange_keeps (m : DoeMessage) (s : State) :
    (stateOf s (execSpdmDoeExchange m s)).pending = s.pending ∧ (stateOf s (execSpdmDoeExchange m s)).ident = s.ident ∧
    (stateOf s (execSpdmDoeExchange m s)).sck = s.sck ∧ (stateOf s (execSpdmDoeExchange m s)).pln = s.pln ∧
    (stateOf s (execSpdmDoeExchange m s)).ts = s.ts ∧ (stateOf s (execSpdmDoeExchange m s)).key = s.key ∧
    (stateOf s (execSpdmDoeExchange m s)).pke = s.pke ∧ (stateOf s (execSpdmDoeExchange m s)).rnu = s.rnu ∧
    (stateOf s (execSpdmDoeExchange m s)).tls = s.tls ∧ (stateOf s (execSpdmDoeExchange m s)).ac = s.ac ∧
    (stateOf s (execSpdmDoeExchange m s)).tm = s.tm ∧ (stateOf s (execSpdmDoeExchange m s)).lcc = s.lcc ∧
    (stateOf s (execSpdmDoeExchange m s)).stc = s.stc ∧ (stateOf s (execSpdmDoeExchange m s)).pwr = s.pwr ∧
    (stateOf s (execSpdmDoeExchange m s)).io = s.io ∧ (stateOf s (execSpdmDoeExchange m s)).rw = s.rw ∧
    (stateOf s (execSpdmDoeExchange m s)).store = s.store ∧ (stateOf s (execSpdmDoeExchange m s)).writes = s.writes ∧
    (stateOf s (execSpdmDoeExchange m s)).free = s.free := by
  simp only [execSpdmDoeExchange, onMain]
  (repeat' split) <;> simp

theorem execIdeRequiredSet_keeps (q : Call) (auth : AuthReq) (s : State) :
    (stateOf s (execIdeRequiredSet q auth s)).pending = s.pending ∧ (stateOf s (execIdeRequiredSet q auth s)).ident = s.ident ∧
    (stateOf s (execIdeRequiredSet q auth s)).sck = s.sck ∧ (stateOf s (execIdeRequiredSet q auth s)).pln = s.pln ∧
    (stateOf s (execIdeRequiredSet q auth s)).fe = s.fe ∧ (stateOf s (execIdeRequiredSet q auth s)).pke = s.pke ∧
    (stateOf s (execIdeRequiredSet q auth s)).rnu = s.rnu ∧ (stateOf s (execIdeRequiredSet q auth s)).tls = s.tls ∧
    (stateOf s (execIdeRequiredSet q auth s)).ac = s.ac ∧ (stateOf s (execIdeRequiredSet q auth s)).tm = s.tm ∧
    (stateOf s (execIdeRequiredSet q auth s)).lcc = s.lcc ∧ (stateOf s (execIdeRequiredSet q auth s)).stc = s.stc ∧
    (stateOf s (execIdeRequiredSet q auth s)).pwr = s.pwr ∧ (stateOf s (execIdeRequiredSet q auth s)).io = s.io ∧
    (stateOf s (execIdeRequiredSet q auth s)).ev = s.ev ∧ (stateOf s (execIdeRequiredSet q auth s)).rw = s.rw ∧
    (stateOf s (execIdeRequiredSet q auth s)).store = s.store ∧ (stateOf s (execIdeRequiredSet q auth s)).writes = s.writes ∧
    (stateOf s (execIdeRequiredSet q auth s)).free = s.free := by
  simp only [execIdeRequiredSet, stateOf_next]
  have key : ∀ op sp k, (fun t : State => (t.pending, t.ident, t.sck, t.pln, t.fe, t.pke, t.rnu, t.tls, t.ac, t.tm, t.lcc, t.stc, t.pwr, t.io, t.ev, t.rw, t.store, t.writes, t.free)) ((k s : OpOut).after s) = (fun t : State => (t.pending, t.ident, t.sck, t.pln, t.fe, t.pke, t.rnu, t.tls, t.ac, t.tm, t.lcc, t.stc, t.pwr, t.io, t.ev, t.rw, t.store, t.writes, t.free)) s →
      (fun t : State => (t.pending, t.ident, t.sck, t.pln, t.fe, t.pke, t.rnu, t.tls, t.ac, t.tm, t.lcc, t.stc, t.pwr, t.io, t.ev, t.rw, t.store, t.writes, t.free)) (runOp op q sp s k) = (fun t : State => (t.pending, t.ident, t.sck, t.pln, t.fe, t.pke, t.rnu, t.tls, t.ac, t.tm, t.lcc, t.stc, t.pwr, t.io, t.ev, t.rw, t.store, t.writes, t.free)) s := fun op sp k hk =>
    runOp_keeps (fun t : State => (t.pending, t.ident, t.sck, t.pln, t.fe, t.pke, t.rnu, t.tls, t.ac, t.tm, t.lcc, t.stc, t.pwr, t.io, t.ev, t.rw, t.store, t.writes, t.free)) op q sp s k (by intro comp t; simp) (by simp) hk
  simp only [Prod.mk.injEq] at key
  apply key
  simp only [withAuth]
  (repeat' split) <;> simp

end Sys2Proof.Machine
end

