-- ==== Sys2Proof/Laws/Tbl.lean ====
section
/-! SUPPORT. What the operations on sparse tables do: a read after a write, and that each keeps the canonical form. -/

namespace Sys2Proof

theorem Tbl.risesFrom_mono {α : Type} (t : Tbl α) (a b : Nat) (h : a ≤ b) (k : Tbl.risesFrom b t = true) :
    Tbl.risesFrom a t = true := by
  cases t with
  | nil => rfl
  | cons c t =>
    simp only [Tbl.risesFrom, Bool.and_eq_true, decide_eq_true_eq] at *
    exact ⟨by omega, k.2⟩

theorem Tbl.put_risesFrom {α : Type} (k : Nat) (v : α) (t : Tbl α) (b : Nat) (h : b ≤ k) (w : Tbl.risesFrom b t = true) :
    Tbl.risesFrom b (Tbl.put k v t) = true := by
  induction t generalizing b with
  | nil => simp [Tbl.put, Tbl.risesFrom, h]
  | cons c t ih =>
    obtain ⟨j, x⟩ := c
    simp only [Tbl.risesFrom, Bool.and_eq_true, decide_eq_true_eq] at w
    simp only [Tbl.put]
    split
    · simp only [Tbl.risesFrom, Bool.and_eq_true, decide_eq_true_eq]
      exact ⟨h, by omega, w.2⟩
    · split
      · subst_vars
        simpa [Tbl.risesFrom, h] using w.2
      · simp only [Tbl.risesFrom, Bool.and_eq_true, decide_eq_true_eq]
        exact ⟨w.1, ih _ (by omega) w.2⟩

/-- Writing a row keeps the canonical form. -/
@[simp] theorem Tbl.put_wf {α : Type} (k : Nat) (v : α) (t : Tbl α) (h : Tbl.wf t = true) : Tbl.wf (Tbl.put k v t) = true :=
  Tbl.put_risesFrom k v t 0 (Nat.zero_le k) h

theorem Tbl.del_risesFrom {α : Type} (k : Nat) (t : Tbl α) (b : Nat) (w : Tbl.risesFrom b t = true) :
    Tbl.risesFrom b (Tbl.del k t) = true := by
  induction t generalizing b with
  | nil => rfl
  | cons c t ih =>
    obtain ⟨j, x⟩ := c
    simp only [Tbl.risesFrom, Bool.and_eq_true, decide_eq_true_eq] at w
    simp only [Tbl.del]
    split
    · exact Tbl.risesFrom_mono t b (j + 1) (by omega) w.2
    · simp only [Tbl.risesFrom, Bool.and_eq_true, decide_eq_true_eq]
      exact ⟨w.1, ih _ w.2⟩

/-- Removing a row keeps the canonical form. -/
@[simp] theorem Tbl.del_wf {α : Type} (k : Nat) (t : Tbl α) (h : Tbl.wf t = true) : Tbl.wf (Tbl.del k t) = true :=
  Tbl.del_risesFrom k t 0 h

theorem Tbl.keep_risesFrom {α : Type} (p : Nat → α → Bool) (t : Tbl α) (b : Nat) (w : Tbl.risesFrom b t = true) :
    Tbl.risesFrom b (Tbl.keep p t) = true := by
  induction t generalizing b with
  | nil => rfl
  | cons c t ih =>
    obtain ⟨j, x⟩ := c
    simp only [Tbl.risesFrom, Bool.and_eq_true, decide_eq_true_eq] at w
    simp only [Tbl.keep]
    split
    · simp only [Tbl.risesFrom, Bool.and_eq_true, decide_eq_true_eq]
      exact ⟨w.1, ih _ w.2⟩
    · exact Tbl.risesFrom_mono _ b (j + 1) (by omega) (ih _ w.2)

/-- Keeping some of the rows keeps the canonical form. -/
@[simp] theorem Tbl.keep_wf {α : Type} (p : Nat → α → Bool) (t : Tbl α) (h : Tbl.wf t = true) :
    Tbl.wf (Tbl.keep p t) = true := Tbl.keep_risesFrom p t 0 h

theorem Tbl.mapAll_risesFrom {α : Type} (f : Nat → α → α) (t : Tbl α) (b : Nat) :
    Tbl.risesFrom b (Tbl.mapAll f t) = Tbl.risesFrom b t := by
  induction t generalizing b with
  | nil => rfl
  | cons c t ih =>
    obtain ⟨j, x⟩ := c
    simp only [Tbl.mapAll, Tbl.risesFrom, ih]

/-- Changing every row keeps the canonical form. -/
@[simp] theorem Tbl.mapAll_wf {α : Type} (f : Nat → α → α) (t : Tbl α) : Tbl.wf (Tbl.mapAll f t) = Tbl.wf t :=
  Tbl.mapAll_risesFrom f t 0

@[simp] theorem Tbl.mapAll_length {α : Type} (f : Nat → α → α) (t : Tbl α) : (Tbl.mapAll f t).length = t.length := by
  induction t with
  | nil => rfl
  | cons c t ih => simp [Tbl.mapAll, ih]

theorem Tbl.keep_length {α : Type} (p : Nat → α → Bool) (t : Tbl α) : (Tbl.keep p t).length ≤ t.length := by
  induction t with
  | nil => simp [Tbl.keep]
  | cons c t ih =>
    simp only [Tbl.keep]
    split <;> simp <;> omega

theorem Tbl.del_length {α : Type} (k : Nat) (t : Tbl α) : (Tbl.del k t).length ≤ t.length := by
  induction t with
  | nil => simp [Tbl.del]
  | cons c t ih =>
    simp only [Tbl.del]
    split <;> simp
    omega

theorem Tbl.put_length {α : Type} (k : Nat) (v : α) (t : Tbl α) : (Tbl.put k v t).length ≤ t.length + 1 := by
  induction t with
  | nil => simp [Tbl.put]
  | cons c t ih =>
    simp only [Tbl.put]
    split
    · simp
    · split <;> simp
      omega

theorem Tbl.put_length_risesFrom {α : Type} (k : Nat) (v : α) (t : Tbl α) (b : Nat) (w : Tbl.risesFrom b t = true)
    (h : (Tbl.find? k t).isSome = true) : b ≤ k ∧ (Tbl.put k v t).length = t.length := by
  induction t generalizing b with
  | nil => simp [Tbl.find?] at h
  | cons c t ih =>
    obtain ⟨j, x⟩ := c
    simp only [Tbl.risesFrom, Bool.and_eq_true, decide_eq_true_eq] at w
    simp only [Tbl.find?] at h
    simp only [Tbl.put]
    split at h
    · subst_vars
      simp [w.1]
    · have i := ih _ w.2 h
      refine ⟨by omega, ?_⟩
      rw [if_neg (by omega), if_neg (by omega)]
      simp [i.2]

/-- Writing a row that is listed leaves the number of rows. -/
theorem Tbl.put_length_of_find? {α : Type} (k : Nat) (v : α) (t : Tbl α) (w : Tbl.wf t = true)
    (h : (Tbl.find? k t).isSome = true) : (Tbl.put k v t).length = t.length :=
  (Tbl.put_length_risesFrom k v t 0 w h).2

/-- A row just written reads as written. -/
@[simp] theorem Tbl.find?_put_self {α : Type} (k : Nat) (v : α) (t : Tbl α) : Tbl.find? k (Tbl.put k v t) = some v := by
  induction t with
  | nil => simp [Tbl.put, Tbl.find?]
  | cons c t ih =>
    obtain ⟨j, x⟩ := c
    simp only [Tbl.put]
    split
    · simp [Tbl.find?]
    · split
      · simp [Tbl.find?]
      · rename_i h
        simp [Tbl.find?, Ne.symm h, ih]

/-- Every other row reads as before. -/
theorem Tbl.find?_put_other {α : Type} (k j : Nat) (v : α) (t : Tbl α) (h : j ≠ k) :
    Tbl.find? j (Tbl.put k v t) = Tbl.find? j t := by
  induction t with
  | nil => simp [Tbl.put, Tbl.find?, Ne.symm h]
  | cons c t ih =>
    obtain ⟨i, x⟩ := c
    simp only [Tbl.put]
    split
    · simp [Tbl.find?, Ne.symm h]
    · split
      · subst_vars
        simp [Tbl.find?, Ne.symm h]
      · simp [Tbl.find?, ih]

@[simp] theorem Tbl.get_put_self {α : Type} (d : α) (k : Nat) (v : α) (t : Tbl α) : Tbl.get d (Tbl.put k v t) k = v := by
  simp [Tbl.get]

theorem Tbl.get_put_other {α : Type} (d : α) (k j : Nat) (v : α) (t : Tbl α) (h : j ≠ k) :
    Tbl.get d (Tbl.put k v t) j = Tbl.get d t j := by
  simp [Tbl.get, Tbl.find?_put_other k j v t h]

end Sys2Proof
end

