-- ==== Sys2Proof/Laws/Kept.lean ====
section
/-! SUPPORT. What every step keeps, as one predicate over the parts of the state that it speaks of: the invariant, and what
only grows from a state `g` on. -/

namespace Sys2Proof.Machine

/-- From `g` on: the journal only grows, the rollback floor is never lowered, the scrap fuse stays blown, and where the
invariant held in `g` it holds still and no lifetime counter is lower. -/
def KeptCore (g : State) (journal : List JournalEntry) (full : Bool) (counters : Tbl Nat) (staging : List StagedAlarm)
    (windows : List CapWindow) (sessions : Tbl TlsSession) (bellows : List Bytes) (floor : Nat) (fuse : Bool) (ev : Tbl EvReg)
    (rw store : Tbl Nat) : Prop :=
  g.journalLasting <:+ journal.map lastingEntry ∧ g.pwr.floor ≤ floor ∧ (g.lcc.scrapFuse = true → fuse = true) ∧
  (Inv g → (journal.map (·.index) = (List.range journal.length).reverse ∧ journal.length ≤ 16384 ∧
      (full = false → journal.length < 16384)) ∧
    (Tbl.wf counters = true ∧ ∀ c, Tbl.get 0 counters c ≤ 0xFFFFFFFF) ∧
    (∀ c, Tbl.get 0 g.tm.counters c ≤ Tbl.get 0 counters c) ∧
    staging.length ≤ 32 ∧ windows.length ≤ 1024 ∧ Tbl.wf sessions = true ∧ sessions.length ≤ 8192 ∧ bellows.length ≤ 16 ∧
    Tbl.wf ev = true ∧ Tbl.wf rw = true ∧ Tbl.wf store = true)

/-- What is kept from `g` to `s`. -/
def Kept (g s : State) : Prop :=
  KeptCore g s.tm.journal s.tm.full s.tm.counters s.tm.staging s.arc.windows s.tls.sessions s.rnu.bellows s.pwr.floor
    s.lcc.scrapFuse s.ev s.rw s.store

theorem Kept.refl (s : State) : Kept s s := by
  refine ⟨List.suffix_refl _, Nat.le_refl _, id, fun h => ?_⟩
  exact ⟨h.journal, h.counters, fun _ => Nat.le_refl _, h.staging, h.windows, h.sessionsWf, h.sessions, h.bellows, h.ev, h.rw,
    h.store⟩

theorem Kept.inv {g s : State} (h : Kept g s) (i : Inv g) : Inv s := by
  obtain ⟨a, b, _, c, d, e, f, k, l, m, n⟩ := h.2.2.2 i
  exact ⟨a, b, c, d, e, f, k, l, m, n⟩

/-- A state that agrees in the parts concerned keeps as much. -/
theorem Kept.congr {g s t : State} (h : Kept g s) (h1 : t.tm.journal = s.tm.journal) (h2 : t.tm.full = s.tm.full)
    (h3 : t.tm.counters = s.tm.counters) (h4 : t.tm.staging = s.tm.staging) (h5 : t.arc.windows = s.arc.windows)
    (h6 : t.tls.sessions = s.tls.sessions) (h7 : t.rnu.bellows = s.rnu.bellows) (h8 : t.pwr.floor = s.pwr.floor)
    (h9 : t.lcc.scrapFuse = s.lcc.scrapFuse) (h10 : t.ev = s.ev) (h11 : t.rw = s.rw) (h12 : t.store = s.store) :
    Kept g t := by
  simp only [Kept] at *
  rw [h1, h2, h3, h4, h5, h6, h7, h8, h9, h10, h11, h12]
  exact h

/-- The same of a state written out. -/
theorem Kept.mk {g s : State} {pending ident sck arc pln fe hif ts key pke rnu tls ac tm lcc stc pwr io ev rw store writes out
    free} (h : Kept g s) (h1 : Tm.journal tm = s.tm.journal) (h2 : tm.full = s.tm.full)
    (h3 : tm.counters = s.tm.counters) (h4 : tm.staging = s.tm.staging) (h5 : Arc.windows arc = s.arc.windows)
    (h6 : Tls.sessions tls = s.tls.sessions) (h7 : Rnu.bellows rnu = s.rnu.bellows) (h8 : Pwr.floor pwr = s.pwr.floor)
    (h9 : Lcc.scrapFuse lcc = s.lcc.scrapFuse) (h10 : ev = s.ev) (h11 : rw = s.rw) (h12 : store = s.store) :
    Kept g (State.mk pending ident sck arc pln fe hif ts key pke rnu tls ac tm lcc stc pwr io ev rw store writes out free) :=
  Kept.congr h h1 h2 h3 h4 h5 h6 h7 h8 h9 h10 h11 h12

theorem Kept.ite {g s t : State} {c : Prop} [Decidable c] (h1 : Kept g s) (h2 : Kept g t) : Kept g (if c then s else t) := by
  split
  · exact h1
  · exact h2

/-- A state whose journal, counters, floor and fuse are the same, and whose other parts stay within their bounds. -/
theorem Kept.parts {g s t : State} (h : Kept g s) (h1 : t.tm.journal = s.tm.journal) (h2 : t.tm.full = s.tm.full)
    (h3 : t.tm.counters = s.tm.counters) (h8 : t.pwr.floor = s.pwr.floor) (h9 : t.lcc.scrapFuse = s.lcc.scrapFuse)
    (h4 : s.tm.staging.length ≤ 32 → t.tm.staging.length ≤ 32)
    (h5 : s.arc.windows.length ≤ 1024 → t.arc.windows.length ≤ 1024)
    (h6 : Tbl.wf s.tls.sessions = true → s.tls.sessions.length ≤ 8192 →
      Tbl.wf t.tls.sessions = true ∧ t.tls.sessions.length ≤ 8192)
    (h7 : s.rnu.bellows.length ≤ 16 → t.rnu.bellows.length ≤ 16) (h10 : Tbl.wf s.ev = true → Tbl.wf t.ev = true)
    (h11 : Tbl.wf s.rw = true → Tbl.wf s.store = true → Tbl.wf t.rw = true)
    (h12 : Tbl.wf s.store = true → Tbl.wf t.store = true) : Kept g t := by
  obtain ⟨a1, a2, a3, a4⟩ := h
  refine ⟨by rw [h1]; exact a1, by rw [h8]; exact a2, by rw [h9]; exact a3, fun i => ?_⟩
  obtain ⟨a, b, c, d, e, f, k, l, m, n, o⟩ := a4 i
  rw [h1, h2, h3]
  exact ⟨a, b, c, h4 d, h5 e, (h6 f k).1, (h6 f k).2, h7 l, h10 m, h11 n o, h12 o⟩

/-- Event registers change in canonical form. -/
theorem Kept.ev {g s : State} (h : Kept g s) {e : Tbl EvReg} (he : Tbl.wf s.ev = true → Tbl.wf e = true) :
    Kept g { s with ev := e } := by
  obtain ⟨h1, h2, h3, h4⟩ := h
  refine ⟨h1, h2, h3, fun i => ?_⟩
  obtain ⟨a, b, c, d, e, f, k, l, m, n⟩ := h4 i
  exact ⟨a, b, c, d, e, f, k, l, he m, n⟩

/-- Registers in force change in canonical form. -/
theorem Kept.rw {g s : State} (h : Kept g s) {r : Tbl Nat} (hr : Tbl.wf s.rw = true → Tbl.wf r = true) :
    Kept g { s with rw := r } := by
  obtain ⟨h1, h2, h3, h4⟩ := h
  refine ⟨h1, h2, h3, fun i => ?_⟩
  obtain ⟨a, b, c, d, e, f, k, l, m, n, o⟩ := h4 i
  exact ⟨a, b, c, d, e, f, k, l, m, hr n, o⟩

/-- Stored registers change in canonical form. -/
theorem Kept.store {g s : State} (h : Kept g s) {r : Tbl Nat} (hr : Tbl.wf s.store = true → Tbl.wf r = true) :
    Kept g { s with store := r } := by
  obtain ⟨h1, h2, h3, h4⟩ := h
  refine ⟨h1, h2, h3, fun i => ?_⟩
  obtain ⟨a, b, c, d, e, f, k, l, m, n, o⟩ := h4 i
  exact ⟨a, b, c, d, e, f, k, l, m, n, hr o⟩

/-- The windows change within their number. -/
theorem Kept.windows {g s : State} (h : Kept g s) {w : List CapWindow}
    (hw : s.arc.windows.length ≤ 1024 → w.length ≤ 1024) : Kept g { s with arc := { s.arc with windows := w } } := by
  obtain ⟨h1, h2, h3, h4⟩ := h
  refine ⟨h1, h2, h3, fun i => ?_⟩
  obtain ⟨a, b, c, d, e, f⟩ := h4 i
  exact ⟨a, b, c, d, hw e, f⟩

/-- The sessions change within their number and in canonical form. -/
theorem Kept.sessions {g s : State} (h : Kept g s) {w : Tbl TlsSession}
    (hw : Tbl.wf s.tls.sessions = true → s.tls.sessions.length ≤ 8192 → Tbl.wf w = true ∧ w.length ≤ 8192) :
    Kept g { s with tls := { s.tls with sessions := w } } := by
  obtain ⟨h1, h2, h3, h4⟩ := h
  refine ⟨h1, h2, h3, fun i => ?_⟩
  obtain ⟨a, b, c, d, e, f, k, l⟩ := h4 i
  exact ⟨a, b, c, d, e, (hw f k).1, (hw f k).2, l⟩

/-- The random number unit changes within the size of Bellows. -/
theorem Kept.rnu {g s : State} (h : Kept g s) {r : Rnu} (hr : s.rnu.bellows.length ≤ 16 → r.bellows.length ≤ 16) :
    Kept g { s with rnu := r } := by
  obtain ⟨h1, h2, h3, h4⟩ := h
  refine ⟨h1, h2, h3, fun i => ?_⟩
  obtain ⟨a, b, c, d, e, f, k, l, m⟩ := h4 i
  exact ⟨a, b, c, d, e, f, k, hr l, m⟩

/-- The staging buffer changes within its size. -/
theorem Kept.staging {g s : State} (h : Kept g s) {w : List StagedAlarm}
    (hw : s.tm.staging.length ≤ 32 → w.length ≤ 32) : Kept g { s with tm := { s.tm with staging := w } } := by
  obtain ⟨h1, h2, h3, h4⟩ := h
  refine ⟨h1, h2, h3, fun i => ?_⟩
  obtain ⟨a, b, c, d, e⟩ := h4 i
  exact ⟨a, b, c, hw d, e⟩

/-- The floor is raised. -/
theorem Kept.floor {g s : State} (h : Kept g s) {p : Pwr} (hp : s.pwr.floor ≤ p.floor) : Kept g { s with pwr := p } :=
  ⟨h.1, Nat.le_trans h.2.1 hp, h.2.2⟩

/-- The fuse is blown. -/
theorem Kept.fuse {g s : State} (h : Kept g s) {l : Lcc} (hl : s.lcc.scrapFuse = true → l.scrapFuse = true) :
    Kept g { s with lcc := l } :=
  ⟨h.1, h.2.1, fun k => hl (h.2.2.1 k), h.2.2.2⟩

/-- A lifetime counter is raised within 32 bits. -/
theorem Kept.counter {g s : State} (h : Kept g s) (c n : Nat) (h1 : Tbl.get 0 s.tm.counters c ≤ 0xFFFFFFFF →
    Tbl.get 0 s.tm.counters c ≤ n ∧ n ≤ 0xFFFFFFFF) :
    Kept g { s with tm := { s.tm with counters := Tbl.put c n s.tm.counters } } := by
  obtain ⟨a1, a2, a3, a4⟩ := h
  refine ⟨a1, a2, a3, fun i => ?_⟩
  obtain ⟨a, ⟨b1, b2⟩, d, e⟩ := a4 i
  refine ⟨a, ⟨Tbl.put_wf _ _ _ b1, fun k => ?_⟩, fun k => ?_, e⟩
  · by_cases hk : k = c
    · subst hk
      simpa using (h1 (b2 k)).2
    · simpa [Tbl.get_put_other _ _ _ _ _ hk] using b2 k
  · by_cases hk : k = c
    · subst hk
      simpa using Nat.le_trans (d k) (h1 (b2 k)).1
    · simpa [Tbl.get_put_other _ _ _ _ _ hk] using d k

/-- The journal takes an entry. -/
theorem Kept.entry {g s : State} (h : Kept g s) (e : JournalEntry) (js : List JournalEntry) (full : Bool)
    (h1 : js.map lastingEntry = s.tm.journal.map lastingEntry) (h2 : e.index = js.length)
    (h3 : s.tm.full = false) (h4 : full = decide (16384 ≤ js.length + 1)) :
    Kept g { s with tm := { s.tm with journal := e :: js, full } } := by
  obtain ⟨a1, a2, a3, a4⟩ := h
  refine ⟨?_, a2, a3, fun i => ?_⟩
  · simp only [List.map_cons, h1]
    exact a1.trans (List.suffix_cons _ _)
  · obtain ⟨⟨b1, b2, b3⟩, c⟩ := a4 i
    have hl : js.length = s.tm.journal.length := by simpa using congrArg List.length h1
    have hi : js.map (·.index) = s.tm.journal.map (·.index) := by
      have := congrArg (List.map (·.index)) h1
      simpa [lastingEntry, Function.comp_def] using this
    have := b3 h3
    refine ⟨⟨?_, ?_, ?_⟩, c⟩
    · simp [hi, b1, h2, hl, List.range_succ]
    · simp only [List.length_cons]
      omega
    · simp only [List.length_cons, h4, decide_eq_false_iff_not]
      omega

end Sys2Proof.Machine
end

