-- ==== Sys2Proof/Laws/KeptOps.lean ====
section
/-! SUPPORT. What the operations of Machine/Ops.lean keep (Laws/Kept.lean), once for each. -/

namespace Sys2Proof.Machine

theorem emit_kept {g : State} (o : Out) (s : State) (hk : Kept g s) :
    Kept g (emit o s) := by
  simp only [emit]
  iterate 12 (try any_goals first
    | with_reducible exact hk
    | with_reducible apply Kept.ite
    | split
    | with_reducible refine Kept.mk ?_ rfl rfl rfl rfl rfl rfl rfl rfl rfl rfl rfl rfl)

theorem State.setFunc_kept {g : State} (f : Nat) (v : Func) (s : State) (hk : Kept g s) :
    Kept g (State.setFunc f v s) := by
  simp only [State.setFunc]
  iterate 12 (try any_goals first
    | with_reducible exact hk
    | with_reducible apply Kept.ite
    | split
    | with_reducible refine Kept.mk ?_ rfl rfl rfl rfl rfl rfl rfl rfl rfl rfl rfl rfl)

theorem State.updFunc_kept {g0 : State} (f : Nat) (g : Func → Func) (s : State) (hk : Kept g0 s) :
    Kept g0 (State.updFunc f g s) := by
  simp only [State.updFunc]
  iterate 12 (try any_goals first
    | with_reducible exact hk
    | with_reducible apply State.setFunc_kept
    | with_reducible apply Kept.ite
    | split
    | with_reducible refine Kept.mk ?_ rfl rfl rfl rfl rfl rfl rfl rfl rfl rfl rfl rfl)

theorem emitHost_kept {g : State} (f : Nat) (o : Out) (s : State) (hk : Kept g s) :
    Kept g (emitHost f o s) := by
  simp only [emitHost]
  iterate 12 (try any_goals first
    | with_reducible exact hk
    | with_reducible apply emit_kept
    | with_reducible apply State.updFunc_kept
    | with_reducible apply Kept.ite
    | split
    | with_reducible refine Kept.mk ?_ rfl rfl rfl rfl rfl rfl rfl rfl rfl rfl rfl rfl)

theorem sendVector_kept {g : State} (f : Nat) (vector : Nat) (s : State) (hk : Kept g s) :
    Kept g (sendVector f vector s) := by
  simp only [sendVector]
  iterate 12 (try any_goals first
    | with_reducible exact hk
    | with_reducible apply State.updFunc_kept
    | with_reducible apply emitHost_kept
    | with_reducible apply Kept.ite
    | split
    | with_reducible refine Kept.mk ?_ rfl rfl rfl rfl rfl rfl rfl rfl rfl rfl rfl rfl)

theorem raiseEvent_kept {g : State} (b : EvBlock) (f : Nat) (bit : Nat) (s : State) (hk : Kept g s) :
    Kept g (raiseEvent b f bit s) := by
  simp only [raiseEvent]
  have h : Kept g { s with ev := Tbl.put (evKey b f) { s.evReg b f with status := (s.evReg b f).status ||| 2 ^ bit } s.ev } :=
    Kept.ev hk fun h => by simp [h]
  split
  · exact sendVector_kept _ _ _ h
  · exact h

theorem clearEvents_kept {g : State} (b : EvBlock) (f : Nat) (mask : Nat) (s : State) (hk : Kept g s) :
    Kept g (clearEvents b f mask s) := by
  simp only [clearEvents]
  exact Kept.ev hk fun h => by simp [h]

theorem freshValue_kept {g : State} (s : State) (hk : Kept g s) :
    Kept g (freshValue s).2 := by
  simp only [freshValue]
  iterate 12 (try any_goals first
    | with_reducible exact hk
    | with_reducible apply Kept.ite
    | split
    | with_reducible refine Kept.mk ?_ rfl rfl rfl rfl rfl rfl rfl rfl rfl rfl rfl rfl)

theorem stageWith_kept {g : State} (log : Nat) (typ : Nat) (owner : Nat) (quality : Nat) (flags : Nat) (stamp : Nat) (body : RecBody) (s : State) (hk : Kept g s) :
    Kept g (stageWith log typ owner quality flags stamp body s) := by
  simp only [stageWith]
  iterate 12 (try any_goals first
    | with_reducible exact hk
    | with_reducible apply Kept.ite
    | split
    | with_reducible refine Kept.mk ?_ rfl rfl rfl rfl rfl rfl rfl rfl rfl rfl rfl rfl)

theorem stageRec_kept {g : State} (typ : Nat) (owner : Nat) (body : RecBody) (s : State) (hk : Kept g s) :
    Kept g (stageRec typ owner body s) := by
  simp only [stageRec]
  iterate 12 (try any_goals first
    | with_reducible exact hk
    | with_reducible apply stageWith_kept
    | with_reducible apply Kept.ite
    | split
    | with_reducible refine Kept.mk ?_ rfl rfl rfl rfl rfl rfl rfl rfl rfl rfl rfl rfl)

theorem queueWrite_kept {g : State} (key : Nat) (value : Nat) (s : State) (hk : Kept g s) :
    Kept g (queueWrite key value s) := by
  simp only [queueWrite]
  iterate 12 (try any_goals first
    | with_reducible exact hk
    | with_reducible apply Kept.ite
    | split
    | with_reducible refine Kept.mk ?_ rfl rfl rfl rfl rfl rfl rfl rfl rfl rfl rfl rfl)

theorem State.setPort_kept {g : State} (p : Nat) (v : Port) (s : State) (hk : Kept g s) :
    Kept g (State.setPort p v s) := by
  simp only [State.setPort]
  iterate 12 (try any_goals first
    | with_reducible exact hk
    | with_reducible apply Kept.ite
    | split
    | with_reducible refine Kept.mk ?_ rfl rfl rfl rfl rfl rfl rfl rfl rfl rfl rfl rfl)

theorem State.updPort_kept {g0 : State} (p : Nat) (g : Port → Port) (s : State) (hk : Kept g0 s) :
    Kept g0 (State.updPort p g s) := by
  simp only [State.updPort]
  iterate 12 (try any_goals first
    | with_reducible exact hk
    | with_reducible apply State.setPort_kept
    | with_reducible apply Kept.ite
    | split
    | with_reducible refine Kept.mk ?_ rfl rfl rfl rfl rfl rfl rfl rfl rfl rfl rfl rfl)

end Sys2Proof.Machine
end

