-- ==== Sys2Proof/Laws/KeptConds.lean ====
section
/-! SUPPORT. What the operations of Machine/Conds.lean keep (Laws/Kept.lean), once for each. -/

namespace Sys2Proof.Machine

theorem endCond_kept {g : State} (what : KeyCond) (from_ : Nat) (s : State) (hk : Kept g s) :
    Kept g (endCond what from_ s) := by
  simp only [endCond]
  iterate 12 (try any_goals first
    | with_reducible exact hk
    | with_reducible apply Kept.ite
    | split
    | with_reducible refine Kept.mk ?_ rfl rfl rfl rfl rfl rfl rfl rfl rfl rfl rfl rfl)

theorem keyEdgesFrom_kept {g : State} (l0 : Nat) (old : State) (x1 : Tbl Partition) (x2 : State) (hk : Kept g x2) :
    Kept g (keyEdgesFrom l0 old x1 x2) := by
  induction x1 generalizing l0 old x2 with
  | nil => simp only [keyEdgesFrom]; with_reducible exact hk
  | cons c l ih =>
    simp only [keyEdgesFrom]
    iterate 12 (try any_goals first
      | with_reducible exact hk
      | with_reducible apply ih
      | with_reducible apply raiseEvent_kept
      | with_reducible apply Kept.ite
      | split
      | with_reducible refine Kept.mk ?_ rfl rfl rfl rfl rfl rfl rfl rfl rfl rfl rfl rfl)

theorem keyEdges_kept {g : State} (old : State) (s : State) (hk : Kept g s) :
    Kept g (keyEdges old s) := by
  simp only [keyEdges]
  iterate 12 (try any_goals first
    | with_reducible exact hk
    | with_reducible apply keyEdgesFrom_kept
    | with_reducible apply Kept.ite
    | split
    | with_reducible refine Kept.mk ?_ rfl rfl rfl rfl rfl rfl rfl rfl rfl rfl rfl rfl)

theorem timeEdge_kept {g : State} (x1 : Tbl Partition) (x2 : State) (hk : Kept g x2) :
    Kept g (timeEdge x1 x2) := by
  induction x1 generalizing x2 with
  | nil => simp only [timeEdge]; with_reducible exact hk
  | cons c l ih =>
    simp only [timeEdge]
    iterate 12 (try any_goals first
      | with_reducible exact hk
      | with_reducible apply ih
      | with_reducible apply raiseEvent_kept
      | with_reducible apply Kept.ite
      | split
      | with_reducible refine Kept.mk ?_ rfl rfl rfl rfl rfl rfl rfl rfl rfl rfl rfl rfl)

end Sys2Proof.Machine
end

