-- ==== Sys2Proof/Laws/KeptAlarm.lean ====
section
/-! SUPPORT. What the operations of Machine/Alarm.lean keep (Laws/Kept.lean), once for each. -/

namespace Sys2Proof.Machine

/-- MAC is none of what lasts. -/
theorem lastingEntry_mac (e : JournalEntry) (m : Nat) : lastingEntry { e with mac := m } = lastingEntry e := rfl

/-- A saturating count stays between what it was and its limit. -/
theorem satTo_between (l k n : Nat) (h : n ≤ l) : n ≤ satTo l (n + k) ∧ satTo l (n + k) ≤ l := by
  unfold satTo
  split <;> omega

theorem sealEntry_lasting (k : Bytes) (l : List JournalEntry) (e : JournalEntry) :
    lastingEntry (sealEntry k l e) = lastingEntry e :=
  lastingEntry_mac _ _

/-- SUBSUMED and MAC are all that an alarm changes in the entries before it. -/
theorem subsume_lasting (k : Bytes) (stamp level : Nat) (l : List JournalEntry) :
    (subsume k stamp level l).map lastingEntry = l.map lastingEntry := by
  induction l with
  | nil => rfl
  | cons e t ih =>
    simp only [subsume]
    split
    · simp only [List.map_cons, ih]
      rfl
    · rfl

theorem setLatch_journal (cause level : Nat) (t : Tm) :
    (setLatch cause level t).journal = t.journal ∧ (setLatch cause level t).full = t.full ∧
    (setLatch cause level t).counters = t.counters ∧ (setLatch cause level t).staging = t.staging := by
  simp only [setLatch]
  (repeat' split) <;> simp

theorem securityRec_kept {g : State} (what : Nat) (a : Nat) (b : Nat) (c : Nat) (s : State) (hk : Kept g s) :
    Kept g (securityRec what a b c s) := by
  simp only [securityRec]
  iterate 12 (try any_goals first
    | with_reducible exact hk
    | with_reducible apply stageRec_kept
    | with_reducible apply Kept.ite
    | split
    | with_reducible refine Kept.mk ?_ rfl rfl rfl rfl rfl rfl rfl rfl rfl rfl rfl rfl)

theorem levelEdge_kept {g : State} (old : Nat) (s : State) (hk : Kept g s) :
    Kept g (levelEdge old s) := by
  simp only [levelEdge]
  iterate 12 (try any_goals first
    | with_reducible exact hk
    | with_reducible apply endCond_kept
    | with_reducible apply keyEdgesFrom_kept
    | with_reducible apply Kept.ite
    | split
    | with_reducible refine Kept.mk ?_ rfl rfl rfl rfl rfl rfl rfl rfl rfl rfl rfl rfl)

theorem noteLevel_kept {g : State} (old : Nat) (cause : Nat) (s : State) (hk : Kept g s) :
    Kept g (noteLevel old cause s) := by
  simp only [noteLevel]
  iterate 12 (try any_goals first
    | with_reducible exact hk
    | with_reducible apply raiseEvent_kept
    | with_reducible apply securityRec_kept
    | with_reducible apply levelEdge_kept
    | with_reducible apply Kept.ite
    | split
    | with_reducible refine Kept.mk ?_ rfl rfl rfl rfl rfl rfl rfl rfl rfl rfl rfl rfl)

theorem addCond_kept {g : State} (p : Nat) (cond : Nat) (s : State) (hk : Kept g s) :
    Kept g (addCond p cond s) := by
  simp only [addCond]
  iterate 12 (try any_goals first
    | with_reducible exact hk
    | with_reducible apply stageRec_kept
    | with_reducible apply State.setPort_kept
    | with_reducible apply portEvent_kept
    | with_reducible apply Kept.ite
    | split
    | with_reducible refine Kept.mk ?_ rfl rfl rfl rfl rfl rfl rfl rfl rfl rfl rfl rfl)

theorem addCondAll_kept {g : State} (cond : Nat) (x1 : Nat) (x2 : State) (hk : Kept g x2) :
    Kept g (addCondAll cond x1 x2) := by
  induction x1 generalizing cond x2 with
  | zero => simp only [addCondAll]; with_reducible exact hk
  | succ n ih =>
    simp only [addCondAll]
    iterate 12 (try any_goals first
      | with_reducible exact hk
      | with_reducible apply ih
      | with_reducible apply addCond_kept
      | with_reducible apply Kept.ite
      | split
      | with_reducible refine Kept.mk ?_ rfl rfl rfl rfl rfl rfl rfl rfl rfl rfl rfl rfl)

theorem dropPads_kept {g : State} (s : State) (hk : Kept g s) :
    Kept g (dropPads s) := by
  simp only [dropPads]
  iterate 12 (try any_goals first
    | with_reducible exact hk
    | with_reducible apply Kept.ite
    | split
    | with_reducible refine Kept.mk ?_ rfl rfl rfl rfl rfl rfl rfl rfl rfl rfl rfl rfl)

theorem restrictTick_kept {g : State} (s : State) (hk : Kept g s) :
    Kept g (restrictTick s) := by
  simp only [restrictTick]
  iterate 12 (try any_goals first
    | with_reducible exact hk
    | with_reducible apply noteLevel_kept
    | with_reducible apply addCondAll_kept
    | with_reducible apply dropPads_kept
    | with_reducible apply Kept.ite
    | split
    | with_reducible refine Kept.mk ?_ rfl rfl rfl rfl rfl rfl rfl rfl rfl rfl rfl rfl)

theorem writeEntry_kept {g : State} (e : JournalEntry) (s : State) (hk : Kept g s) :
    Kept g (writeEntry e s) := by
  simp only [writeEntry]
  split
  · exact hk
  · rename_i hf
    have hj := subsume_lasting s.ident.journalKey e.stamp e.level s.tm.journal
    generalize subsume s.ident.journalKey e.stamp e.level s.tm.journal = js at hj ⊢
    generalize he : sealEntry s.ident.journalKey js { e with index := js.length } = e'
    have hi : e'.index = js.length := by rw [← he]; rfl
    have h1 := Kept.entry hk e' js (decide (journalSize ≤ js.length + 1)) hj hi (by simpa using hf) rfl
    have h2 : Kept g { s with
        tm := { s.tm with journal := e' :: js, full := decide (journalSize ≤ js.length + 1) }
        arc := { s.arc with staging := s.arc.staging.map (refreshStaged js) } } := Kept.congr h1 rfl rfl rfl rfl rfl rfl rfl rfl rfl rfl rfl rfl
    have h3 := raiseEvent_kept .tm 0 1 _ (stageWith_kept 0 0x30 0x7E e'.quality 0 e'.stamp (.tamper e') _ h2)
    exact Kept.ite (raiseEvent_kept _ _ _ _ (securityRec_kept _ _ _ _ _ h3)) h3

theorem countCause_kept {g : State} (cause k : Nat) (s : State) (hk : Kept g s) : Kept g (countCause cause k s) := by
  simp only [countCause]
  exact Kept.counter hk _ _ fun h => satTo_between max32 k _ h

theorem overflowEntries_kept {g : State} (at_ : Nat) (x1 : List HourCount) (x2 : State) (hk : Kept g x2) :
    Kept g (overflowEntries at_ x1 x2) := by
  induction x1 generalizing at_ x2 with
  | nil => simp only [overflowEntries]; with_reducible exact hk
  | cons c l ih =>
    simp only [overflowEntries]
    iterate 12 (try any_goals first
      | with_reducible exact hk
      | with_reducible apply ih
      | with_reducible apply writeEntry_kept
      | with_reducible apply Kept.ite
      | split
      | with_reducible refine Kept.mk ?_ rfl rfl rfl rfl rfl rfl rfl rfl rfl rfl rfl rfl)

theorem closeHour_kept {g : State} (s : State) (hk : Kept g s) :
    Kept g (closeHour s) := by
  simp only [closeHour]
  iterate 12 (try any_goals first
    | with_reducible exact hk
    | with_reducible apply overflowEntries_kept
    | with_reducible apply Kept.ite
    | split
    | with_reducible refine Kept.mk ?_ rfl rfl rfl rfl rfl rfl rfl rfl rfl rfl rfl rfl)

theorem journalAlarm_kept {g : State} (cause : Nat) (source : Nat) (data : Nat) (level : Nat) (escalated : Bool) (s : State) (hk : Kept g s) :
    Kept g (journalAlarm cause source data level escalated s) := by
  simp only [journalAlarm]
  iterate 12 (try any_goals first
    | with_reducible exact hk
    | with_reducible apply writeEntry_kept
    | with_reducible apply countCause_kept
    | with_reducible apply closeHour_kept
    | with_reducible apply Kept.ite
    | split
    | with_reducible refine Kept.mk ?_ rfl rfl rfl rfl rfl rfl rfl rfl rfl rfl rfl rfl)

theorem cancelAll_kept {g : State} (x1 : Tbl Partition) (x2 : State) (hk : Kept g x2) :
    Kept g (cancelAll x1 x2) := by
  induction x1 generalizing x2 with
  | nil => simp only [cancelAll]; with_reducible exact hk
  | cons c l ih =>
    simp only [cancelAll]
    iterate 12 (try any_goals first
      | with_reducible exact hk
      | with_reducible apply ih
      | with_reducible apply stageRec_kept
      | with_reducible apply planEvent_kept
      | with_reducible apply Kept.ite
      | split
      | with_reducible refine Kept.mk ?_ rfl rfl rfl rfl rfl rfl rfl rfl rfl rfl rfl rfl)

theorem endToken_kept {g : State} (s : State) (hk : Kept g s) :
    Kept g (endToken s) := by
  simp only [endToken]
  iterate 12 (try any_goals first
    | with_reducible exact hk
    | with_reducible apply raiseEvent_kept
    | with_reducible apply securityRec_kept
    | with_reducible apply Kept.ite
    | split
    | with_reducible refine Kept.mk ?_ rfl rfl rfl rfl rfl rfl rfl rfl rfl rfl rfl rfl)

theorem restoreBlock_kept {g : State} (r : TestRun) (s : State) (hk : Kept g s) :
    Kept g (restoreBlock r s) := by
  simp only [restoreBlock]
  iterate 12 (try any_goals first
    | with_reducible exact hk
    | with_reducible apply Kept.ite
    | split
    | with_reducible refine Kept.mk ?_ rfl rfl rfl rfl rfl rfl rfl rfl rfl rfl rfl rfl)

theorem abandonTests_kept {g : State} (x1 : List TestRun) (x2 : State) (hk : Kept g x2) :
    Kept g (abandonTests x1 x2) := by
  induction x1 generalizing x2 with
  | nil =>
    simp only [abandonTests]
    exact Kept.congr hk rfl rfl rfl rfl rfl rfl rfl rfl rfl rfl rfl rfl
  | cons c l ih =>
    simp only [abandonTests]
    exact ih _ (restoreBlock_kept _ _ hk)

theorem quenchStart_kept {g : State} (s : State) (hk : Kept g s) :
    Kept g (quenchStart s) := by
  simp only [quenchStart]
  refine endToken_kept _ (addCondAll_kept _ _ _ (abandonTests_kept _ _ ?_))
  have h1 := cancelAll_kept s.pln.parts s hk
  have h2 := Kept.rnu h1 (r := (cancelAll s.pln.parts s).rnu.zero) (fun _ => by simp [Rnu.zero])
  have h3 := Kept.sessions h2 (w := Tbl.mapAll (fun _ v => { v with st := 2 }) (cancelAll s.pln.parts s).tls.sessions)
    (fun a b => ⟨by simpa using a, by simpa using b⟩)
  exact Kept.congr h3 rfl rfl rfl rfl rfl rfl rfl rfl rfl rfl rfl rfl

theorem fireQuench_kept {g : State} (cause : Nat) (level : Nat) (s : State) (hk : Kept g s) :
    Kept g (fireQuench cause level s) := by
  simp only [fireQuench]
  have h1 : ∀ k, Kept g { s with tm := setLatch cause level s.tm, key := k } := fun k =>
    Kept.congr hk (setLatch_journal _ _ _).1 (setLatch_journal _ _ _).2.1 (setLatch_journal _ _ _).2.2.1
      (setLatch_journal _ _ _).2.2.2 rfl rfl rfl rfl rfl rfl rfl rfl
  have h2 : ∀ (c : Prop) [Decidable c] x, Kept g x → Kept g (if c then addCondAll 2 12 x else x) := fun c _ x h =>
    Kept.ite (addCondAll_kept _ _ _ h) h
  exact Kept.ite (h2 _ _ (noteLevel_kept _ _ _ (h1 _))) (quenchStart_kept _ (h2 _ _ (noteLevel_kept _ _ _ (h1 _))))

theorem raiseAlarm_kept {g : State} (cause : Nat) (source : Nat) (data : Nat) (s : State) (hk : Kept g s) :
    Kept g (raiseAlarm cause source data s) := by
  simp only [raiseAlarm]
  have h1 : ∀ p l, Kept g { s with tm := { s.tm with present := p, lastLogic := l } } := fun p l =>
    Kept.congr hk rfl rfl rfl rfl rfl rfl rfl rfl rfl rfl rfl rfl
  have h3 : ∀ x i, Kept g x → Kept g { x with io := i } := fun x i h =>
    Kept.congr h rfl rfl rfl rfl rfl rfl rfl rfl rfl rfl rfl rfl
  have h4 : ∀ x, Kept g x → Kept g { x with tm := setLatch cause (alarmLevel s cause source) x.tm } := fun x h =>
    Kept.congr h (setLatch_journal _ _ _).1 (setLatch_journal _ _ _).2.1 (setLatch_journal _ _ _).2.2.1
        (setLatch_journal _ _ _).2.2.2 rfl rfl rfl rfl rfl rfl rfl rfl
  apply Kept.ite
  · exact hk
  · apply Kept.ite
    · refine fireQuench_kept _ _ _ (Kept.ite (h3 _ _ ?_) ?_)
      all_goals
        apply Kept.ite
        · exact raiseEvent_kept _ _ _ _ (journalAlarm_kept _ _ _ _ _ _ (h1 _ _))
        · exact journalAlarm_kept _ _ _ _ _ _ (h1 _ _)
    · refine h4 _ (Kept.ite (h3 _ _ ?_) ?_)
      all_goals
        apply Kept.ite
        · exact raiseEvent_kept _ _ _ _ (journalAlarm_kept _ _ _ _ _ _ (h1 _ _))
        · exact journalAlarm_kept _ _ _ _ _ _ (h1 _ _)

theorem raiseLogic_kept {g : State} (sub : Nat) (block : Nat) (element : Nat) (addr : Nat) (s : State) (hk : Kept g s) :
    Kept g (raiseLogic sub block element addr s) := by
  simp only [raiseLogic]
  iterate 12 (try any_goals first
    | with_reducible exact hk
    | with_reducible apply raiseAlarm_kept
    | with_reducible apply Kept.ite
    | split
    | with_reducible refine Kept.mk ?_ rfl rfl rfl rfl rfl rfl rfl rfl rfl rfl rfl rfl)

end Sys2Proof.Machine
end

