-- ==== Sys2Proof/Laws/KeptArchive.lean ====
section
/-! SUPPORT. What the operations of Machine/Archive.lean keep (Laws/Kept.lean), once for each. -/

namespace Sys2Proof.Machine

theorem setLog_windows (a : Arc) (l : Nat) (v : LogState) : (a.setLog l v).windows = a.windows := by
  simp only [Arc.setLog]
  (repeat' split) <;> rfl

theorem countNand_kept {g : State} (bytes : Nat) (s : State) (hk : Kept g s) :
    Kept g (countNand bytes s) := by
  simp only [countNand]
  iterate 12 (try any_goals first
    | with_reducible exact hk
    | with_reducible apply Kept.ite
    | split
    | with_reducible refine Kept.mk ?_ rfl rfl rfl rfl rfl rfl rfl rfl rfl rfl rfl rfl)

theorem writeRec_kept {g : State} (st : Staged) (s : State) (hk : Kept g s) :
    Kept g (writeRec st s) := by
  simp only [writeRec]
  split
  · exact hk
  · split
    · exact hk
    · exact Kept.congr hk rfl rfl rfl rfl (setLog_windows _ _ _) rfl rfl rfl rfl rfl rfl rfl

theorem writeAnchors_kept {g : State} (s : State) (hk : Kept g s) :
    Kept g (writeAnchors s) := by
  simp only [writeAnchors]
  iterate 12 (try any_goals first
    | with_reducible exact hk
    | with_reducible apply Kept.ite
    | split
    | with_reducible refine Kept.mk ?_ rfl rfl rfl rfl rfl rfl rfl rfl rfl rfl rfl rfl)

theorem openZone_kept {g : State} (l : Nat) (zn : Nat) (reserve : Bool) (s : State) (hk : Kept g s) :
    Kept g (openZone l zn reserve s) := by
  simp only [openZone]
  exact Kept.congr hk rfl rfl rfl rfl (setLog_windows _ _ _) rfl rfl rfl rfl rfl rfl rfl

theorem eraseZone_kept {g : State} (zn : Nat) (s : State) (hk : Kept g s) :
    Kept g (eraseZone zn s) := by
  simp only [eraseZone]
  split
  · exact hk
  · exact Kept.congr hk rfl rfl rfl rfl (setLog_windows _ _ _) rfl rfl rfl rfl rfl rfl rfl

theorem loseRecord_kept {g : State} (s : State) (hk : Kept g s) :
    Kept g (loseRecord s) := by
  simp only [loseRecord]
  iterate 12 (try any_goals first
    | with_reducible exact hk
    | with_reducible apply Kept.ite
    | split
    | with_reducible refine Kept.mk ?_ rfl rfl rfl rfl rfl rfl rfl rfl rfl rfl rfl rfl)

theorem recycleSelf_kept {g : State} (zn : Nat) (z : Zone) (reason : Nat) (s : State) (hk : Kept g s) :
    Kept g (recycleSelf zn z reason s) := by
  simp only [recycleSelf]
  iterate 12 (try any_goals first
    | with_reducible exact hk
    | with_reducible apply writeRec_kept
    | with_reducible apply openZone_kept
    | with_reducible apply eraseZone_kept
    | with_reducible apply Kept.ite
    | split
    | with_reducible refine Kept.mk ?_ rfl rfl rfl rfl rfl rfl rfl rfl rfl rfl rfl rfl)

theorem takePool_kept {g : State} (l : Nat) (s : State) (hk : Kept g s) :
    Kept g (takePool l s) := by
  simp only [takePool]
  iterate 12 (try any_goals first
    | with_reducible exact hk
    | with_reducible apply openZone_kept
    | with_reducible apply Kept.ite
    | split
    | with_reducible refine Kept.mk ?_ rfl rfl rfl rfl rfl rfl rfl rfl rfl rfl rfl rfl)

theorem takeReserveZone_kept {g : State} (s : State) (hk : Kept g s) :
    Kept g (takeReserveZone s) := by
  simp only [takeReserveZone]
  iterate 12 (try any_goals first
    | with_reducible exact hk
    | with_reducible apply raiseEvent_kept
    | with_reducible apply raiseAlarm_kept
    | with_reducible apply openZone_kept
    | with_reducible apply Kept.ite
    | split
    | with_reducible refine Kept.mk ?_ rfl rfl rfl rfl rfl rfl rfl rfl rfl rfl rfl rfl)

theorem takeEventZone_kept {g : State} (typ : Nat) (s : State) (hk : Kept g s) (t : State) (h : takeEventZone typ s = some t) :
    Kept g t := by
  revert h
  simp only [takeEventZone]
  (repeat' split) <;> intro h <;> simp only [Option.some.injEq, reduceCtorEq] at h <;> (try subst h)
  all_goals iterate 12 (try any_goals first
    | with_reducible exact hk
    | with_reducible apply openZone_kept
    | with_reducible apply recycleSelf_kept
    | with_reducible apply takePool_kept
    | with_reducible apply takeReserveZone_kept
    | with_reducible apply Kept.ite
    | split
    | with_reducible refine Kept.mk ?_ rfl rfl rfl rfl rfl rfl rfl rfl rfl rfl rfl rfl)

theorem roomToRecycle_kept {g : State} (s : State) (hk : Kept g s) :
    Kept g (roomToRecycle s) := by
  simp only [roomToRecycle]
  refine Kept.ite hk ?_
  cases h : takeEventZone 5 s with
  | none => exact hk
  | some t => exact takeEventZone_kept _ _ hk _ h

theorem recycleZone_kept {g : State} (zn : Nat) (z : Zone) (reason : Nat) (s : State) (hk : Kept g s) :
    Kept g (recycleZone zn z reason s) := by
  simp only [recycleZone]
  iterate 12 (try any_goals first
    | with_reducible exact hk
    | with_reducible apply writeRec_kept
    | with_reducible apply eraseZone_kept
    | with_reducible apply loseRecord_kept
    | with_reducible apply Kept.ite
    | split
    | with_reducible refine Kept.mk ?_ rfl rfl rfl rfl rfl rfl rfl rfl rfl rfl rfl rfl)

theorem takeRingZone_kept {g : State} (s : State) (hk : Kept g s) (t : State) (h : takeRingZone s = some t) :
    Kept g t := by
  unfold takeRingZone at h
  simp only at h
  split at h
  · cases h
    exact takePool_kept _ _ hk
  · split at h
    · cases h
      exact openZone_kept _ _ _ _ (recycleZone_kept _ _ _ _ (roomToRecycle_kept _ hk))
    · simp only [Option.map_eq_some_iff] at h
      obtain ⟨_, _, rfl⟩ := h
      exact openZone_kept _ _ _ _ (recycleZone_kept _ _ _ _ (roomToRecycle_kept _ hk))

theorem takeWindowZone_kept {g : State} (s : State) (hk : Kept g s) (t : State) (h : takeWindowZone s = some t) :
    Kept g t := by
  unfold takeWindowZone at h
  simp only at h
  split at h
  · cases h
    exact takePool_kept _ _ hk
  · simp only [Option.map_eq_some_iff] at h
    obtain ⟨_, _, rfl⟩ := h
    exact openZone_kept _ _ _ _ (recycleZone_kept _ _ _ _ (roomToRecycle_kept _ hk))

theorem governorChange_kept {g : State} (new : Nat) (s : State) (hk : Kept g s) :
    Kept g (governorChange new s) := by
  simp only [governorChange]
  iterate 12 (try any_goals first
    | with_reducible exact hk
    | with_reducible apply raiseEvent_kept
    | with_reducible apply stageRec_kept
    | with_reducible apply Kept.ite
    | split
    | with_reducible refine Kept.mk ?_ rfl rfl rfl rfl rfl rfl rfl rfl rfl rfl rfl rfl)

theorem governorCheck_kept {g : State} (s : State) (hk : Kept g s) :
    Kept g (governorCheck s) := by
  simp only [governorCheck]
  iterate 12 (try any_goals first
    | with_reducible exact hk
    | with_reducible apply governorChange_kept
    | with_reducible apply Kept.ite
    | split
    | with_reducible refine Kept.mk ?_ rfl rfl rfl rfl rfl rfl rfl rfl rfl rfl rfl rfl)

theorem refuseCapture_kept {g : State} (l : Nat) (s : State) (hk : Kept g s) :
    Kept g (refuseCapture l s) := by
  simp only [refuseCapture]
  iterate 12 (try any_goals first
    | with_reducible exact hk
    | with_reducible apply Kept.ite
    | split
    | with_reducible refine Kept.mk ?_ rfl rfl rfl rfl rfl rfl rfl rfl rfl rfl rfl rfl)

theorem countWindows_kept {g : State} (f : Nat) (group : Nat) (stamp : Nat) (refused : Bool) (s : State) (hk : Kept g s) :
    Kept g (countWindows f group stamp refused s) := by
  simp only [countWindows]
  exact Kept.windows hk fun h => by simpa using h

theorem roomFor_kept {g : State} (st : Staged) (s : State) (hk : Kept g s) (t : State) (h : roomFor st s = some t) :
    Kept g t := by
  unfold roomFor at h
  split at h
  · cases h
    exact hk
  · split at h
    · exact takeEventZone_kept _ _ hk _ h
    · split at h
      · exact takeRingZone_kept _ hk _ h
      · exact takeWindowZone_kept _ hk _ h

theorem noRoom_kept {g : State} (st : Staged) (s : State) (hk : Kept g s) :
    Kept g (noRoom st s) := by
  simp only [noRoom]
  iterate 12 (try any_goals first
    | with_reducible exact hk
    | with_reducible apply raiseEvent_kept
    | with_reducible apply loseRecord_kept
    | with_reducible apply refuseCapture_kept
    | with_reducible apply countWindows_kept
    | with_reducible apply Kept.ite
    | split
    | with_reducible refine Kept.mk ?_ rfl rfl rfl rfl rfl rfl rfl rfl rfl rfl rfl rfl)

theorem appendRecord_kept {g : State} (st : Staged) (s : State) (hk : Kept g s) :
    Kept g (appendRecord st s) := by
  simp only [appendRecord]
  split
  · exact noRoom_kept _ _ hk
  · rename_i s1 h
    have h1 := governorCheck_kept _ (writeRec_kept st _ (roomFor_kept _ _ hk _ h))
    exact Kept.ite (raiseEvent_kept _ _ _ _ h1) (Kept.ite (countWindows_kept _ _ _ _ _ h1) h1)

theorem appendAll_kept {g : State} (x1 : List Staged) (x2 : State) (hk : Kept g x2) :
    Kept g (appendAll x1 x2) := by
  induction x1 generalizing x2 with
  | nil => simp only [appendAll]; with_reducible exact hk
  | cons c l ih =>
    simp only [appendAll]
    iterate 12 (try any_goals first
      | with_reducible exact hk
      | with_reducible apply ih
      | with_reducible apply appendRecord_kept
      | with_reducible apply Kept.ite
      | split
      | with_reducible refine Kept.mk ?_ rfl rfl rfl rfl rfl rfl rfl rfl rfl rfl rfl rfl)

theorem drainStaging_kept {g : State} (s : State) (hk : Kept g s) :
    Kept g (drainStaging s) := by
  simp only [drainStaging]
  iterate 12 (try any_goals first
    | with_reducible exact hk
    | with_reducible apply appendAll_kept
    | with_reducible apply Kept.ite
    | split
    | with_reducible refine Kept.mk ?_ rfl rfl rfl rfl rfl rfl rfl rfl rfl rfl rfl rfl)

theorem appendCheckpoint_kept {g : State} (step : Bool) (final : Bool) (start : Bool) (s : State) (hk : Kept g s) :
    Kept g (appendCheckpoint step final start s) := by
  simp only [appendCheckpoint]
  split
  · exact Kept.congr hk rfl rfl rfl rfl rfl rfl rfl rfl rfl rfl rfl rfl
  · rename_i s1 h
    have h1 := roomFor_kept _ _ hk _ h
    exact governorCheck_kept _ (writeRec_kept _ _ (Kept.congr h1 rfl rfl rfl rfl rfl rfl rfl rfl rfl rfl rfl rfl))

theorem rtcSet_kept {g : State} (s : State) (hk : Kept g s) :
    Kept g (rtcSet s) := by
  simp only [rtcSet]
  iterate 12 (try any_goals first
    | with_reducible exact hk
    | with_reducible apply Kept.ite
    | split
    | with_reducible refine Kept.mk ?_ rfl rfl rfl rfl rfl rfl rfl rfl rfl rfl rfl rfl)

theorem ppsEdge_kept {g : State} (s : State) (hk : Kept g s) :
    Kept g (ppsEdge s) := by
  simp only [ppsEdge]
  iterate 12 (try any_goals first
    | with_reducible exact hk
    | with_reducible apply emit_kept
    | with_reducible apply Kept.ite
    | split
    | with_reducible refine Kept.mk ?_ rfl rfl rfl rfl rfl rfl rfl rfl rfl rfl rfl rfl)

theorem streamEvent_kept {g : State} (owner : Nat) (stamp : Nat) (quality : Nat) (e : StreamEvent) (s : State) (hk : Kept g s) :
    Kept g (streamEvent owner stamp quality e s) := by
  simp only [streamEvent]
  iterate 12 (try any_goals first
    | with_reducible exact hk
    | with_reducible apply stageWith_kept
    | with_reducible apply Kept.ite
    | split
    | with_reducible refine Kept.mk ?_ rfl rfl rfl rfl rfl rfl rfl rfl rfl rfl rfl rfl)

theorem writeSummary_kept {g : State} (x : Summary) (s : State) (hk : Kept g s) :
    Kept g (writeSummary x s) := by
  simp only [writeSummary]
  iterate 12 (try any_goals first
    | with_reducible exact hk
    | with_reducible apply stageWith_kept
    | with_reducible apply streamEvent_kept
    | with_reducible apply Kept.ite
    | split
    | with_reducible refine Kept.mk ?_ rfl rfl rfl rfl rfl rfl rfl rfl rfl rfl rfl rfl)

theorem windowRec_kept {g : State} (w : CapWindow) (subtype : Nat) (s : State) (hk : Kept g s) :
    Kept g (windowRec w subtype s) := by
  simp only [windowRec]
  iterate 12 (try any_goals first
    | with_reducible exact hk
    | with_reducible apply stageRec_kept
    | with_reducible apply Kept.ite
    | split
    | with_reducible refine Kept.mk ?_ rfl rfl rfl rfl rfl rfl rfl rfl rfl rfl rfl rfl)

theorem dropWindow_kept {g : State} (n : Nat) (s : State) (hk : Kept g s) :
    Kept g (dropWindow n s) := by
  simp only [dropWindow]
  exact Kept.windows hk fun h => Nat.le_trans (List.length_filter_le _ _) h

theorem countBack_kept {g : State} (s : State) (hk : Kept g s) :
    Kept g (countBack s) := by
  simp only [countBack]
  iterate 12 (try any_goals first
    | with_reducible exact hk
    | with_reducible apply Kept.ite
    | split
    | with_reducible refine Kept.mk ?_ rfl rfl rfl rfl rfl rfl rfl rfl rfl rfl rfl rfl)

theorem eraseReleased_kept {g : State} (x1 : List Nat) (x2 : State) (hk : Kept g x2) :
    Kept g (eraseReleased x1 x2) := by
  induction x1 generalizing x2 with
  | nil => simp only [eraseReleased]; with_reducible exact hk
  | cons c l ih =>
    simp only [eraseReleased]
    iterate 12 (try any_goals first
      | with_reducible exact hk
      | with_reducible apply ih
      | with_reducible apply eraseZone_kept
      | with_reducible apply countBack_kept
      | with_reducible apply Kept.ite
      | split
      | with_reducible refine Kept.mk ?_ rfl rfl rfl rfl rfl rfl rfl rfl rfl rfl rfl rfl)

theorem shrinkRing_kept {g : State} (x1 : Nat) (x2 : State) (hk : Kept g x2) :
    Kept g (shrinkRing x1 x2) := by
  induction x1 generalizing x2 with
  | zero => simp only [shrinkRing]; with_reducible exact hk
  | succ n ih =>
    simp only [shrinkRing]
    iterate 12 (try any_goals first
      | with_reducible exact hk
      | with_reducible apply ih
      | with_reducible apply roomToRecycle_kept
      | with_reducible apply recycleZone_kept
      | with_reducible apply Kept.ite
      | split
      | with_reducible refine Kept.mk ?_ rfl rfl rfl rfl rfl rfl rfl rfl rfl rfl rfl rfl)

end Sys2Proof.Machine
end

