-- ==== Sys2Proof/Laws/KeptVault.lean ====
section
/-! SUPPORT. What the operations of Machine/Vault.lean keep (Laws/Kept.lean), once for each. -/

namespace Sys2Proof.Machine

theorem onVault_kept {g0 : State} (f : Nat) (bytes : Nat) (g : VaultZone → VaultZone) (s : State) (hk : Kept g0 s) :
    Kept g0 (onVault f bytes g s) := by
  simp only [onVault]
  iterate 12 (try any_goals first
    | with_reducible exact hk
    | with_reducible apply countNand_kept
    | with_reducible apply governorCheck_kept
    | with_reducible apply Kept.ite
    | split
    | with_reducible refine Kept.mk ?_ rfl rfl rfl rfl rfl rfl rfl rfl rfl rfl rfl rfl)

theorem storeImage_kept {g : State} (f : Nat) (n : Nat) (i : PlanImage) (s : State) (hk : Kept g s) :
    Kept g (storeImage f n i s) := by
  simp only [storeImage]
  iterate 12 (try any_goals first
    | with_reducible exact hk
    | with_reducible apply onVault_kept
    | with_reducible apply Kept.ite
    | split
    | with_reducible refine Kept.mk ?_ rfl rfl rfl rfl rfl rfl rfl rfl rfl rfl rfl rfl)

theorem dropImage_kept {g : State} (f : Nat) (n : Option Nat) (s : State) (hk : Kept g s) :
    Kept g (dropImage f n s) := by
  simp only [dropImage]
  iterate 12 (try any_goals first
    | with_reducible exact hk
    | with_reducible apply onVault_kept
    | with_reducible apply Kept.ite
    | split
    | with_reducible refine Kept.mk ?_ rfl rfl rfl rfl rfl rfl rfl rfl rfl rfl rfl rfl)

theorem repairSlot_kept {g : State} (zone : Nat) (n : Nat) (i : PlanImage) (s : State) (hk : Kept g s) :
    Kept g (repairSlot zone n i s) := by
  simp only [repairSlot]
  iterate 12 (try any_goals first
    | with_reducible exact hk
    | with_reducible apply countNand_kept
    | with_reducible apply Kept.ite
    | split
    | with_reducible refine Kept.mk ?_ rfl rfl rfl rfl rfl rfl rfl rfl rfl rfl rfl rfl)

theorem appendBlob_kept {g : State} (b : Blob) (s : State) (hk : Kept g s) :
    Kept g (appendBlob b s) := by
  simp only [appendBlob]
  iterate 12 (try any_goals first
    | with_reducible exact hk
    | with_reducible apply onVault_kept
    | with_reducible apply Kept.ite
    | split
    | with_reducible refine Kept.mk ?_ rfl rfl rfl rfl rfl rfl rfl rfl rfl rfl rfl rfl)

end Sys2Proof.Machine
end

