-- ==== Sys2Proof/Laws/KeptHost.lean ====
section
/-! SUPPORT. What the operations of Machine/Host.lean keep (Laws/Kept.lean), once for each. -/

namespace Sys2Proof.Machine

theorem State.setRing_kept {g : State} (f : Nat) (r : Nat) (v : Ring) (s : State) (hk : Kept g s) :
    Kept g (State.setRing f r v s) := by
  simp only [State.setRing]
  iterate 12 (try any_goals first
    | with_reducible exact hk
    | with_reducible apply Kept.ite
    | split
    | with_reducible refine Kept.mk ?_ rfl rfl rfl rfl rfl rfl rfl rfl rfl rfl rfl rfl)

theorem State.updRing_kept {g0 : State} (f : Nat) (r : Nat) (g : Ring → Ring) (s : State) (hk : Kept g0 s) :
    Kept g0 (State.updRing f r g s) := by
  simp only [State.updRing]
  iterate 12 (try any_goals first
    | with_reducible exact hk
    | with_reducible apply State.setRing_kept
    | with_reducible apply Kept.ite
    | split
    | with_reducible refine Kept.mk ?_ rfl rfl rfl rfl rfl rfl rfl rfl rfl rfl rfl rfl)

theorem writeMirror_kept {g : State} (f : Nat) (r : Nat) (s : State) (hk : Kept g s) :
    Kept g (writeMirror f r s) := by
  simp only [writeMirror]
  iterate 12 (try any_goals first
    | with_reducible exact hk
    | with_reducible apply emitHost_kept
    | with_reducible apply Kept.ite
    | split
    | with_reducible refine Kept.mk ?_ rfl rfl rfl rfl rfl rfl rfl rfl rfl rfl rfl rfl)

theorem State.setCtx_kept {g : State} (v : Ctx) (s : State) (hk : Kept g s) :
    Kept g (State.setCtx v s) := by
  simp only [State.setCtx]
  iterate 12 (try any_goals first
    | with_reducible exact hk
    | with_reducible apply Kept.ite
    | split
    | with_reducible refine Kept.mk ?_ rfl rfl rfl rfl rfl rfl rfl rfl rfl rfl rfl rfl)

theorem releaseHolds_kept {g : State} (id : Nat) (f : Nat) (s : State) (hk : Kept g s) :
    Kept g (releaseHolds id f s) := by
  simp only [releaseHolds]
  iterate 12 (try any_goals first
    | with_reducible exact hk
    | with_reducible apply Kept.ite
    | split
    | with_reducible refine Kept.mk ?_ rfl rfl rfl rfl rfl rfl rfl rfl rfl rfl rfl rfl)

theorem freeCtx_kept {g : State} (id : Nat) (s : State) (hk : Kept g s) :
    Kept g (freeCtx id s) := by
  simp only [freeCtx]
  iterate 12 (try any_goals first
    | with_reducible exact hk
    | with_reducible apply Kept.ite
    | split
    | with_reducible refine Kept.mk ?_ rfl rfl rfl rfl rfl rfl rfl rfl rfl rfl rfl rfl)

theorem countDiscard_kept {g : State} (f : Nat) (orphan : Nat) (s : State) (hk : Kept g s) :
    Kept g (countDiscard f orphan s) := by
  simp only [countDiscard]
  iterate 12 (try any_goals first
    | with_reducible exact hk
    | with_reducible apply State.updFunc_kept
    | with_reducible apply Kept.ite
    | split
    | with_reducible refine Kept.mk ?_ rfl rfl rfl rfl rfl rfl rfl rfl rfl rfl rfl rfl)

theorem writeCompletion_kept {g : State} (f : Nat) (r : Nat) (count : Nat) (addr : Nat) (c : Completion) (s : State) (hk : Kept g s) :
    Kept g (writeCompletion f r count addr c s) := by
  simp only [writeCompletion]
  iterate 12 (try any_goals first
    | with_reducible exact hk
    | with_reducible apply emitHost_kept
    | with_reducible apply Kept.ite
    | split
    | with_reducible refine Kept.mk ?_ rfl rfl rfl rfl rfl rfl rfl rfl rfl rfl rfl rfl)

theorem finishCtx_kept {g : State} (c : Ctx) (comp : Completion) (s : State) (hk : Kept g s) :
    Kept g (finishCtx c comp s) := by
  simp only [finishCtx]
  iterate 12 (try any_goals first
    | with_reducible exact hk
    | with_reducible apply State.updRing_kept
    | with_reducible apply releaseHolds_kept
    | with_reducible apply freeCtx_kept
    | with_reducible apply countDiscard_kept
    | with_reducible apply writeCompletion_kept
    | with_reducible apply Kept.ite
    | split
    | with_reducible refine Kept.mk ?_ rfl rfl rfl rfl rfl rfl rfl rfl rfl rfl rfl rfl)

theorem finishWhere_kept {g : State} (p : Ctx → Bool) (code : Nat) (x1 : List Ctx) (x2 : State) (hk : Kept g x2) :
    Kept g (finishWhere p code x1 x2) := by
  induction x1 generalizing p code x2 with
  | nil => simp only [finishWhere]; with_reducible exact hk
  | cons c l ih =>
    simp only [finishWhere]
    iterate 12 (try any_goals first
      | with_reducible exact hk
      | with_reducible apply ih
      | with_reducible apply finishCtx_kept
      | with_reducible apply Kept.ite
      | split
      | with_reducible refine Kept.mk ?_ rfl rfl rfl rfl rfl rfl rfl rfl rfl rfl rfl rfl)

theorem leaveLoading_kept {g : State} (f : Nat) (reason : Nat) (s : State) (hk : Kept g s) :
    Kept g (leaveLoading f reason s) := by
  simp only [leaveLoading]
  iterate 12 (try any_goals first
    | with_reducible exact hk
    | with_reducible apply stageRec_kept
    | with_reducible apply dropImage_kept
    | with_reducible apply planEvent_kept
    | with_reducible apply Kept.ite
    | split
    | with_reducible refine Kept.mk ?_ rfl rfl rfl rfl rfl rfl rfl rfl rfl rfl rfl rfl)

theorem leaveTransfer_kept {g : State} (op : Nat) (f : Nat) (s : State) (hk : Kept g s) :
    Kept g (leaveTransfer op f s) := by
  simp only [leaveTransfer]
  iterate 12 (try any_goals first
    | with_reducible exact hk
    | with_reducible apply leaveLoading_kept
    | with_reducible apply Kept.ite
    | split
    | with_reducible refine Kept.mk ?_ rfl rfl rfl rfl rfl rfl rfl rfl rfl rfl rfl rfl)

theorem abortPort_kept {g : State} (f : Nat) (protocol : Bool) (s : State) (hk : Kept g s) :
    Kept g (abortPort f protocol s) := by
  simp only [abortPort]
  iterate 12 (try any_goals first
    | with_reducible exact hk
    | with_reducible apply State.updFunc_kept
    | with_reducible apply raiseEvent_kept
    | with_reducible apply finishCtx_kept
    | with_reducible apply leaveTransfer_kept
    | with_reducible apply Kept.ite
    | split
    | with_reducible refine Kept.mk ?_ rfl rfl rfl rfl rfl rfl rfl rfl rfl rfl rfl rfl)

theorem haltMirrors_kept {g : State} (f : Nat) (x1 : Nat) (x2 : State) (hk : Kept g x2) :
    Kept g (haltMirrors f x1 x2) := by
  induction x1 generalizing f x2 with
  | zero => simp only [haltMirrors]; with_reducible exact hk
  | succ n ih =>
    simp only [haltMirrors]
    iterate 12 (try any_goals first
      | with_reducible exact hk
      | with_reducible apply ih
      | with_reducible apply writeMirror_kept
      | with_reducible apply Kept.ite
      | split
      | with_reducible refine Kept.mk ?_ rfl rfl rfl rfl rfl rfl rfl rfl rfl rfl rfl rfl)

theorem haltFunc_kept {g : State} (f : Nat) (cause : Nat) (ring : Nat) (opcode : Nat) (count : Nat) (s : State) (hk : Kept g s) :
    Kept g (haltFunc f cause ring opcode count s) := by
  simp only [haltFunc]
  iterate 12 (try any_goals first
    | with_reducible exact hk
    | with_reducible apply State.updFunc_kept
    | with_reducible apply raiseEvent_kept
    | with_reducible apply abortPort_kept
    | with_reducible apply haltMirrors_kept
    | with_reducible apply Kept.ite
    | split
    | with_reducible refine Kept.mk ?_ rfl rfl rfl rfl rfl rfl rfl rfl rfl rfl rfl rfl)

theorem haltVfs_kept {g : State} (x1 : Nat) (x2 : State) (hk : Kept g x2) :
    Kept g (haltVfs x1 x2) := by
  induction x1 generalizing x2 with
  | zero => simp only [haltVfs]; with_reducible exact hk
  | succ n ih =>
    simp only [haltVfs]
    iterate 12 (try any_goals first
      | with_reducible exact hk
      | with_reducible apply ih
      | with_reducible apply haltFunc_kept
      | with_reducible apply Kept.ite
      | split
      | with_reducible refine Kept.mk ?_ rfl rfl rfl rfl rfl rfl rfl rfl rfl rfl rfl rfl)

theorem halt_kept {g : State} (f : Nat) (cause : Nat) (ring : Nat) (opcode : Nat) (count : Nat) (s : State) (hk : Kept g s) :
    Kept g (halt f cause ring opcode count s) := by
  simp only [halt]
  iterate 12 (try any_goals first
    | with_reducible exact hk
    | with_reducible apply State.updRing_kept
    | with_reducible apply haltFunc_kept
    | with_reducible apply haltVfs_kept
    | with_reducible apply Kept.ite
    | split
    | with_reducible refine Kept.mk ?_ rfl rfl rfl rfl rfl rfl rfl rfl rfl rfl rfl rfl)

end Sys2Proof.Machine
end

