-- ==== Sys2Proof/Laws/KeptSched.lean ====
section
/-! SUPPORT. What the operations of Machine/Sched.lean keep (Laws/Kept.lean), once for each. -/

namespace Sys2Proof.Machine

theorem State.setQueue_kept {g : State} (q : Nat) (v : Queue) (s : State) (hk : Kept g s) :
    Kept g (State.setQueue q v s) := by
  simp only [State.setQueue]
  iterate 12 (try any_goals first
    | with_reducible exact hk
    | with_reducible apply Kept.ite
    | split
    | with_reducible refine Kept.mk ?_ rfl rfl rfl rfl rfl rfl rfl rfl rfl rfl rfl rfl)

theorem makeReady_kept {g : State} (kind : WorkKind) (group : Nat) (s : State) (hk : Kept g s) :
    Kept g (makeReady kind group s) := by
  simp only [makeReady]
  iterate 12 (try any_goals first
    | with_reducible exact hk
    | with_reducible apply Kept.ite
    | split
    | with_reducible refine Kept.mk ?_ rfl rfl rfl rfl rfl rfl rfl rfl rfl rfl rfl rfl)

theorem levelCross_kept {g : State} (q : Nat) (before : Nat) (s : State) (hk : Kept g s) :
    Kept g (levelCross q before s) := by
  simp only [levelCross]
  iterate 12 (try any_goals first
    | with_reducible exact hk
    | with_reducible apply raiseEvent_kept
    | with_reducible apply makeReady_kept
    | with_reducible apply Kept.ite
    | split
    | with_reducible refine Kept.mk ?_ rfl rfl rfl rfl rfl rfl rfl rfl rfl rfl rfl rfl)

theorem qmPut_kept {g : State} (q : Nat) (p : Packet) (s : State) (hk : Kept g s) :
    Kept g (qmPut q p s) := by
  simp only [qmPut]
  iterate 12 (try any_goals first
    | with_reducible exact hk
    | with_reducible apply State.setQueue_kept
    | with_reducible apply makeReady_kept
    | with_reducible apply levelCross_kept
    | with_reducible apply Kept.ite
    | split
    | with_reducible refine Kept.mk ?_ rfl rfl rfl rfl rfl rfl rfl rfl rfl rfl rfl rfl)

theorem bumpPort_kept {g : State} (p : Nat) (i : Nat) (k : Nat) (s : State) (hk : Kept g s) :
    Kept g (bumpPort p i k s) := by
  simp only [bumpPort]
  iterate 12 (try any_goals first
    | with_reducible exact hk
    | with_reducible apply Kept.ite
    | split
    | with_reducible refine Kept.mk ?_ rfl rfl rfl rfl rfl rfl rfl rfl rfl rfl rfl rfl)

theorem State.setCore_kept {g : State} (c : Nat) (v : CoreRt) (s : State) (hk : Kept g s) :
    Kept g (State.setCore c v s) := by
  simp only [State.setCore]
  iterate 12 (try any_goals first
    | with_reducible exact hk
    | with_reducible apply Kept.ite
    | split
    | with_reducible refine Kept.mk ?_ rfl rfl rfl rfl rfl rfl rfl rfl rfl rfl rfl rfl)

theorem noteUnserved_kept {g : State} (s : State) (hk : Kept g s) :
    Kept g (noteUnserved s) := by
  simp only [noteUnserved]
  iterate 12 (try any_goals first
    | with_reducible exact hk
    | with_reducible apply raiseEvent_kept
    | with_reducible apply Kept.ite
    | split
    | with_reducible refine Kept.mk ?_ rfl rfl rfl rfl rfl rfl rfl rfl rfl rfl rfl rfl)

theorem dropItem_kept {g : State} (id : Nat) (s : State) (hk : Kept g s) :
    Kept g (dropItem id s) := by
  simp only [dropItem]
  iterate 12 (try any_goals first
    | with_reducible exact hk
    | with_reducible apply Kept.ite
    | split
    | with_reducible refine Kept.mk ?_ rfl rfl rfl rfl rfl rfl rfl rfl rfl rfl rfl rfl)

theorem refillCredit_kept {g : State} (x1 : Nat) (x2 : State) (hk : Kept g x2) :
    Kept g (refillCredit x1 x2) := by
  induction x1 generalizing x2 with
  | zero => simp only [refillCredit]; with_reducible exact hk
  | succ n ih =>
    simp only [refillCredit]
    iterate 12 (try any_goals first
      | with_reducible exact hk
      | with_reducible apply ih
      | with_reducible apply Kept.ite
      | split
      | with_reducible refine Kept.mk ?_ rfl rfl rfl rfl rfl rfl rfl rfl rfl rfl rfl rfl)

theorem serveGroup_kept {g0 : State} (g : Nat) (s : State) (hk : Kept g0 s) :
    Kept g0 (serveGroup g s) := by
  simp only [serveGroup]
  iterate 12 (try any_goals first
    | with_reducible exact hk
    | with_reducible apply Kept.ite
    | split
    | with_reducible refine Kept.mk ?_ rfl rfl rfl rfl rfl rfl rfl rfl rfl rfl rfl rfl)

theorem giveItem_kept {g0 : State} (core : Nat) (g : Nat) (i : WorkItem) (s : State) (hk : Kept g0 s) :
    Kept g0 (giveItem core g i s) := by
  simp only [giveItem]
  iterate 12 (try any_goals first
    | with_reducible exact hk
    | with_reducible apply State.setCtx_kept
    | with_reducible apply State.setCore_kept
    | with_reducible apply Kept.ite
    | split
    | with_reducible refine Kept.mk ?_ rfl rfl rfl rfl rfl rfl rfl rfl rfl rfl rfl rfl)

theorem freePacket_kept {g : State} (q : Nat) (item : Nat) (s : State) (hk : Kept g s) :
    Kept g (freePacket q item s) := by
  simp only [freePacket]
  iterate 12 (try any_goals first
    | with_reducible exact hk
    | with_reducible apply State.setQueue_kept
    | with_reducible apply Kept.ite
    | split
    | with_reducible refine Kept.mk ?_ rfl rfl rfl rfl rfl rfl rfl rfl rfl rfl rfl rfl)

theorem staleWrite_kept {g : State} (core : Nat) (s : State) (hk : Kept g s) :
    Kept g (staleWrite core s) := by
  simp only [staleWrite]
  iterate 12 (try any_goals first
    | with_reducible exact hk
    | with_reducible apply State.setCore_kept
    | with_reducible apply Kept.ite
    | split
    | with_reducible refine Kept.mk ?_ rfl rfl rfl rfl rfl rfl rfl rfl rfl rfl rfl rfl)

theorem coreIdle_kept {g : State} (core : Nat) (s : State) (hk : Kept g s) :
    Kept g (coreIdle core s) := by
  simp only [coreIdle]
  iterate 12 (try any_goals first
    | with_reducible exact hk
    | with_reducible apply State.setCore_kept
    | with_reducible apply Kept.ite
    | split
    | with_reducible refine Kept.mk ?_ rfl rfl rfl rfl rfl rfl rfl rfl rfl rfl rfl rfl)

theorem dropPkeOps_kept {g : State} (c : Nat) (s : State) (hk : Kept g s) :
    Kept g (dropPkeOps c s) := by
  simp only [dropPkeOps]
  iterate 12 (try any_goals first
    | with_reducible exact hk
    | with_reducible apply Kept.ite
    | split
    | with_reducible refine Kept.mk ?_ rfl rfl rfl rfl rfl rfl rfl rfl rfl rfl rfl rfl)

theorem redispatch_kept {g : State} (id : Nat) (s : State) (hk : Kept g s) :
    Kept g (redispatch id s) := by
  simp only [redispatch]
  iterate 12 (try any_goals first
    | with_reducible exact hk
    | with_reducible apply State.setCtx_kept
    | with_reducible apply State.setQueue_kept
    | with_reducible apply dropPkeOps_kept
    | with_reducible apply Kept.ite
    | split
    | with_reducible refine Kept.mk ?_ rfl rfl rfl rfl rfl rfl rfl rfl rfl rfl rfl rfl)

theorem failCore_kept {g : State} (core : Nat) (retired : Option (Nat × Nat × Nat)) (decl : Nat) (rest : Nat) (s : State) (hk : Kept g s) :
    Kept g (failCore core retired decl rest s) := by
  simp only [failCore]
  iterate 12 (try any_goals first
    | with_reducible exact hk
    | with_reducible apply raiseEvent_kept
    | with_reducible apply State.setCore_kept
    | with_reducible apply noteUnserved_kept
    | with_reducible apply Kept.ite
    | split
    | with_reducible refine Kept.mk ?_ rfl rfl rfl rfl rfl rfl rfl rfl rfl rfl rfl rfl)

theorem renewBlocked_kept {g : State} (s : State) (hk : Kept g s) :
    Kept g (renewBlocked s) := by
  simp only [renewBlocked]
  iterate 12 (try any_goals first
    | with_reducible exact hk
    | with_reducible apply Kept.ite
    | split
    | with_reducible refine Kept.mk ?_ rfl rfl rfl rfl rfl rfl rfl rfl rfl rfl rfl rfl)

theorem renewLease_kept {g : State} (id : Nat) (s : State) (hk : Kept g s) :
    Kept g (renewLease id s) := by
  simp only [renewLease]
  iterate 12 (try any_goals first
    | with_reducible exact hk
    | with_reducible apply Kept.ite
    | split
    | with_reducible refine Kept.mk ?_ rfl rfl rfl rfl rfl rfl rfl rfl rfl rfl rfl rfl)

theorem coreError_kept {g : State} (core : Nat) (s : State) (hk : Kept g s) :
    Kept g (coreError core s) := by
  simp only [coreError]
  iterate 12 (try any_goals first
    | with_reducible exact hk
    | with_reducible apply raiseEvent_kept
    | with_reducible apply securityRec_kept
    | with_reducible apply redispatch_kept
    | with_reducible apply failCore_kept
    | with_reducible apply Kept.ite
    | split
    | with_reducible refine Kept.mk ?_ rfl rfl rfl rfl rfl rfl rfl rfl rfl rfl rfl rfl)

theorem takeWatch_kept {g : State} (c : Ctx) (s : State) (hk : Kept g s) :
    Kept g (takeWatch c s) := by
  simp only [takeWatch]
  split
  · with_reducible refine Kept.mk ?_ rfl rfl rfl rfl rfl rfl rfl rfl rfl rfl rfl rfl
    exact hk
  · exact hk

theorem placeDelay_kept {g : State} (c : Ctx) (s : State) (hk : Kept g s) :
    Kept g (placeDelay c s) := by
  simp only [placeDelay]
  iterate 12 (try any_goals first
    | with_reducible exact hk
    | with_reducible apply State.setCtx_kept
    | with_reducible apply Kept.ite
    | split
    | with_reducible refine Kept.mk ?_ rfl rfl rfl rfl rfl rfl rfl rfl rfl rfl rfl rfl)

theorem releaseEntry_kept {g : State} (e : DelayEntry) (s : State) (hk : Kept g s) :
    Kept g (releaseEntry e s) := by
  simp only [releaseEntry]
  iterate 12 (try any_goals first
    | with_reducible exact hk
    | with_reducible apply raiseEvent_kept
    | with_reducible apply State.setCtx_kept
    | with_reducible apply finishCtx_kept
    | with_reducible apply makeReady_kept
    | with_reducible apply Kept.ite
    | split
    | with_reducible refine Kept.mk ?_ rfl rfl rfl rfl rfl rfl rfl rfl rfl rfl rfl rfl)

theorem releaseAll_kept {g : State} (x1 : List DelayEntry) (x2 : State) (hk : Kept g x2) :
    Kept g (releaseAll x1 x2) := by
  induction x1 generalizing x2 with
  | nil => simp only [releaseAll]; with_reducible exact hk
  | cons c l ih =>
    simp only [releaseAll]
    iterate 12 (try any_goals first
      | with_reducible exact hk
      | with_reducible apply ih
      | with_reducible apply releaseEntry_kept
      | with_reducible apply Kept.ite
      | split
      | with_reducible refine Kept.mk ?_ rfl rfl rfl rfl rfl rfl rfl rfl rfl rfl rfl rfl)

theorem releaseDue_kept {g : State} (s : State) (hk : Kept g s) :
    Kept g (releaseDue s) := by
  simp only [releaseDue]
  iterate 12 (try any_goals first
    | with_reducible exact hk
    | with_reducible apply releaseAll_kept
    | with_reducible apply Kept.ite
    | split
    | with_reducible refine Kept.mk ?_ rfl rfl rfl rfl rfl rfl rfl rfl rfl rfl rfl rfl)

end Sys2Proof.Machine
end

