-- ==== Sys2Proof/Laws/KeptLines.lean ====
section
/-! SUPPORT. What the operations of Machine/Lines.lean keep (Laws/Kept.lean), once for each. -/

namespace Sys2Proof.Machine

theorem State.setPair_kept {g : State} (i : Nat) (v : Pair) (s : State) (hk : Kept g s) :
    Kept g (State.setPair i v s) := by
  simp only [State.setPair]
  iterate 12 (try any_goals first
    | with_reducible exact hk
    | with_reducible apply Kept.ite
    | split
    | with_reducible refine Kept.mk ?_ rfl rfl rfl rfl rfl rfl rfl rfl rfl rfl rfl rfl)

theorem takeSeqs_kept {g : State} (x1 : List Nat) (x2 : State) (hk : Kept g x2) :
    Kept g (takeSeqs x1 x2) := by
  induction x1 generalizing x2 with
  | nil => simp only [takeSeqs]; with_reducible exact hk
  | cons c l ih =>
    simp only [takeSeqs]
    iterate 12 (try any_goals first
      | with_reducible exact hk
      | with_reducible apply ih
      | with_reducible apply State.setPair_kept
      | with_reducible apply Kept.ite
      | split
      | with_reducible refine Kept.mk ?_ rfl rfl rfl rfl rfl rfl rfl rfl rfl rfl rfl rfl)

theorem applyMacsec_kept {g : State} (p : Nat) (l : Bytes) (s : State) (hk : Kept g s) :
    Kept g (applyMacsec p l s).2 := by
  simp only [applyMacsec]
  split
  · exact hk
  · exact State.updPort_kept _ _ _ hk

theorem enqueue_kept {g : State} (c : TxCopy) (s : State) (hk : Kept g s) :
    Kept g (enqueue c s) := by
  simp only [enqueue]
  iterate 12 (try any_goals first
    | with_reducible exact hk
    | with_reducible apply State.updPort_kept
    | with_reducible apply Kept.ite
    | split
    | with_reducible refine Kept.mk ?_ rfl rfl rfl rfl rfl rfl rfl rfl rfl rfl rfl rfl)

theorem sendCore_kept {g : State} (p : Nat) (src : Nat) (tclass : Nat) (red : Option (Nat × Nat)) (x : CoreFrame) (s : State) (hk : Kept g s) :
    Kept g (sendCore p src tclass red x s) := by
  simp only [sendCore]
  iterate 12 (try any_goals first
    | with_reducible exact hk
    | with_reducible apply bumpPort_kept
    | with_reducible apply applyMacsec_kept
    | with_reducible apply enqueue_kept
    | with_reducible apply linkUp_kept
    | with_reducible apply Kept.ite
    | split
    | with_reducible refine Kept.mk ?_ rfl rfl rfl rfl rfl rfl rfl rfl rfl rfl rfl rfl)

theorem sendPort_kept {g : State} (p : Nat) (tclass : Nat) (x : CoreFrame) (s : State) (hk : Kept g s) :
    Kept g (sendPort p tclass x s) := by
  simp only [sendPort]
  iterate 12 (try any_goals first
    | with_reducible exact hk
    | with_reducible apply sendCore_kept
    | with_reducible apply Kept.ite
    | split
    | with_reducible refine Kept.mk ?_ rfl rfl rfl rfl rfl rfl rfl rfl rfl rfl rfl rfl)

theorem sendPair_kept {g : State} (i : Nat) (tclass : Nat) (x : CoreFrame) (s : State) (hk : Kept g s) :
    Kept g (sendPair i tclass x s) := by
  simp only [sendPair]
  iterate 12 (try any_goals first
    | with_reducible exact hk
    | with_reducible apply takeSeqs_kept
    | with_reducible apply sendCore_kept
    | with_reducible apply Kept.ite
    | split
    | with_reducible refine Kept.mk ?_ rfl rfl rfl rfl rfl rfl rfl rfl rfl rfl rfl rfl)

theorem sendEach_kept {g : State} (ok : Nat → Bool) (tclass : Nat) (x : CoreFrame) (x1 : Nat) (x2 : State) (hk : Kept g x2) :
    Kept g (sendEach ok tclass x x1 x2) := by
  induction x1 generalizing ok tclass x x2 with
  | zero => simp only [sendEach]; with_reducible exact hk
  | succ n ih =>
    simp only [sendEach]
    iterate 12 (try any_goals first
      | with_reducible exact hk
      | with_reducible apply ih
      | with_reducible apply sendPort_kept
      | with_reducible apply Kept.ite
      | split
      | with_reducible refine Kept.mk ?_ rfl rfl rfl rfl rfl rfl rfl rfl rfl rfl rfl rfl)

theorem sendAll_kept {g : State} (tclass : Nat) (x : CoreFrame) (x1 : Nat) (x2 : State) (hk : Kept g x2) :
    Kept g (sendAll tclass x x1 x2) := by
  induction x1 generalizing tclass x x2 with
  | zero => simp only [sendAll]; with_reducible exact hk
  | succ n ih =>
    simp only [sendAll]
    iterate 12 (try any_goals first
      | with_reducible exact hk
      | with_reducible apply ih
      | with_reducible apply sendPort_kept
      | with_reducible apply sendPair_kept
      | with_reducible apply Kept.ite
      | split
      | with_reducible refine Kept.mk ?_ rfl rfl rfl rfl rfl rfl rfl rfl rfl rfl rfl rfl)

end Sys2Proof.Machine
end

