-- ==== Sys2Proof/Laws/KeptRing.lean ====
section
/-! SUPPORT. What the operations of Machine/Ring.lean keep (Laws/Kept.lean), once for each. -/

namespace Sys2Proof.Machine

theorem passPad_kept {g : State} (f : Nat) (ring : Nat) (len : Nat) (s : State) (hk : Kept g s) :
    Kept g (passPad f ring len s) := by
  simp only [passPad]
  iterate 12 (try any_goals first
    | with_reducible exact hk
    | with_reducible apply emitHost_kept
    | with_reducible apply State.updRing_kept
    | with_reducible apply Kept.ite
    | split
    | with_reducible refine Kept.mk ?_ rfl rfl rfl rfl rfl rfl rfl rfl rfl rfl rfl rfl)

theorem acceptEntry_kept {g : State} (f : Nat) (ring : Nat) (e : RawEntry) (s : State) (hk : Kept g s) :
    Kept g (acceptEntry f ring e s) := by
  simp only [acceptEntry]
  iterate 12 (try any_goals first
    | with_reducible exact hk
    | with_reducible apply State.updRing_kept
    | with_reducible apply finishCtx_kept
    | with_reducible apply State.setQueue_kept
    | with_reducible apply makeReady_kept
    | with_reducible apply placeDelay_kept
    | with_reducible apply takeWatch_kept
    | with_reducible apply Kept.ite
    | split
    | with_reducible refine Kept.mk ?_ rfl rfl rfl rfl rfl rfl rfl rfl rfl rfl rfl rfl)

theorem visitOne_kept {g : State} (m : HostMem) (f : Nat) (ring : Nat) (taken : Nat) (s : State) (hk : Kept g s) :
    Kept g (visitOne m f ring taken s).2.2 := by
  simp only [visitOne]
  iterate 12 (try any_goals first
    | with_reducible exact hk
    | with_reducible apply State.updRing_kept
    | with_reducible apply halt_kept
    | with_reducible apply passPad_kept
    | with_reducible apply acceptEntry_kept
    | with_reducible apply Kept.ite
    | split
    | with_reducible refine Kept.mk ?_ rfl rfl rfl rfl rfl rfl rfl rfl rfl rfl rfl rfl)

theorem visitRing_kept {g : State} (m : HostMem) (f : Nat) (ring : Nat) (fuel : Nat) (taken : Nat) (x1 : State) (hk : Kept g x1) :
    Kept g (visitRing m f ring fuel taken x1).1 := by
  induction fuel generalizing m f ring taken x1 with
  | zero => simp only [visitRing]; with_reducible exact hk
  | succ n ih =>
    simp only [visitRing]
    iterate 12 (try any_goals first
      | with_reducible exact hk
      | with_reducible apply ih
      | with_reducible apply visitOne_kept
      | with_reducible apply Kept.ite
      | split
      | with_reducible refine Kept.mk ?_ rfl rfl rfl rfl rfl rfl rfl rfl rfl rfl rfl rfl)

theorem arbPass_kept {g : State} (m : HostMem) (x1 : List Nat) (x2 : State) (hk : Kept g x2) :
    Kept g (arbPass m x1 x2).1 := by
  induction x1 generalizing m x2 with
  | nil => simp only [arbPass]; with_reducible exact hk
  | cons c l ih =>
    simp only [arbPass]
    iterate 12 (try any_goals first
      | with_reducible exact hk
      | with_reducible apply ih
      | with_reducible apply visitRing_kept
      | with_reducible apply Kept.ite
      | split
      | with_reducible refine Kept.mk ?_ rfl rfl rfl rfl rfl rfl rfl rfl rfl rfl rfl rfl)

theorem arbLoop_kept {g : State} (m : HostMem) (rs : List Nat) (x1 : Nat) (x2 : State) (hk : Kept g x2) :
    Kept g (arbLoop m rs x1 x2) := by
  induction x1 generalizing m rs x2 with
  | zero => simp only [arbLoop]; with_reducible exact hk
  | succ n ih =>
    simp only [arbLoop]
    iterate 12 (try any_goals first
      | with_reducible exact hk
      | with_reducible apply ih
      | with_reducible apply arbPass_kept
      | with_reducible apply Kept.ite
      | split
      | with_reducible refine Kept.mk ?_ rfl rfl rfl rfl rfl rfl rfl rfl rfl rfl rfl rfl)

theorem giveTokens_kept {g : State} (x1 : List Nat) (x2 : State) (hk : Kept g x2) :
    Kept g (giveTokens x1 x2) := by
  induction x1 generalizing x2 with
  | nil => simp only [giveTokens]; with_reducible exact hk
  | cons c l ih =>
    simp only [giveTokens]
    iterate 12 (try any_goals first
      | with_reducible exact hk
      | with_reducible apply ih
      | with_reducible apply State.updRing_kept
      | with_reducible apply Kept.ite
      | split
      | with_reducible refine Kept.mk ?_ rfl rfl rfl rfl rfl rfl rfl rfl rfl rfl rfl rfl)

theorem dropCtxItems_kept {g : State} (id : Nat) (s : State) (hk : Kept g s) :
    Kept g (dropCtxItems id s) := by
  simp only [dropCtxItems]
  iterate 12 (try any_goals first
    | with_reducible exact hk
    | with_reducible apply Kept.ite
    | split
    | with_reducible refine Kept.mk ?_ rfl rfl rfl rfl rfl rfl rfl rfl rfl rfl rfl rfl)

theorem completePort_kept {g : State} (f : Nat) (s : State) (hk : Kept g s) :
    Kept g (completePort f s) := by
  simp only [completePort]
  iterate 12 (try any_goals first
    | with_reducible exact hk
    | with_reducible apply State.updFunc_kept
    | with_reducible apply State.setCtx_kept
    | with_reducible apply Kept.ite
    | split
    | with_reducible refine Kept.mk ?_ rfl rfl rfl rfl rfl rfl rfl rfl rfl rfl rfl rfl)

theorem flushHeld_kept {g : State} (f : Nat) (s : State) (hk : Kept g s) :
    Kept g (flushHeld f s) := by
  simp only [flushHeld]
  iterate 12 (try any_goals first
    | with_reducible exact hk
    | with_reducible apply State.updFunc_kept
    | with_reducible apply Kept.ite
    | split
    | with_reducible refine Kept.mk ?_ rfl rfl rfl rfl rfl rfl rfl rfl rfl rfl rfl rfl)

theorem sendPending_kept {g : State} (f : Nat) (vector : Nat) (s : State) (hk : Kept g s) :
    Kept g (sendPending f vector s) := by
  simp only [sendPending]
  iterate 12 (try any_goals first
    | with_reducible exact hk
    | with_reducible apply State.updFunc_kept
    | with_reducible apply emitHost_kept
    | with_reducible apply Kept.ite
    | split
    | with_reducible refine Kept.mk ?_ rfl rfl rfl rfl rfl rfl rfl rfl rfl rfl rfl rfl)

theorem sendAllPending_kept {g : State} (f : Nat) (x1 : Nat) (x2 : State) (hk : Kept g x2) :
    Kept g (sendAllPending f x1 x2) := by
  induction x1 generalizing f x2 with
  | zero => simp only [sendAllPending]; with_reducible exact hk
  | succ n ih =>
    simp only [sendAllPending]
    iterate 12 (try any_goals first
      | with_reducible exact hk
      | with_reducible apply ih
      | with_reducible apply sendPending_kept
      | with_reducible apply Kept.ite
      | split
      | with_reducible refine Kept.mk ?_ rfl rfl rfl rfl rfl rfl rfl rfl rfl rfl rfl rfl)

end Sys2Proof.Machine
end

