-- ==== Sys2Proof/Laws/KeptRun.lean ====
section
/-! SUPPORT. What the operations of Machine/Run.lean keep (Laws/Kept.lean), once for each. -/

namespace Sys2Proof.Machine

/-- Bellows never holds more than its blocks. -/
theorem putBlock_room (r : Rnu) (x : Expander) (h : r.bellows.length ≤ 16) : (r.putBlock x).bellows.length ≤ 16 := by
  unfold Rnu.putBlock
  split
  · rename_i hl
    simp only [bellowsSize, bellowsBlock] at hl
    simp only [List.length_append, List.length_cons, List.length_nil]
    omega
  · exact h

theorem complete_kept {g : State} (q : Call) (comp : Completion) (s : State) (hk : Kept g s) :
    Kept g (complete q comp s) := by
  simp only [complete]
  iterate 12 (try any_goals first
    | with_reducible exact hk
    | with_reducible apply State.setCtx_kept
    | with_reducible apply writeCompletion_kept
    | with_reducible apply renewLease_kept
    | with_reducible apply Kept.ite
    | split
    | with_reducible refine Kept.mk ?_ rfl rfl rfl rfl rfl rfl rfl rfl rfl rfl rfl rfl)

theorem lateComplete_kept {g : State} (q : Call) (ctx : Option Nat) (comp : Completion) (s : State) (hk : Kept g s) :
    Kept g (lateComplete q ctx comp s) := by
  simp only [lateComplete]
  iterate 12 (try any_goals first
    | with_reducible exact hk
    | with_reducible apply complete_kept
    | with_reducible apply Kept.ite
    | split
    | with_reducible refine Kept.mk ?_ rfl rfl rfl rfl rfl rfl rfl rfl rfl rfl rfl rfl)

theorem leaveCore_kept {g : State} (id : Nat) (s : State) (hk : Kept g s) :
    Kept g (leaveCore id s) := by
  simp only [leaveCore]
  iterate 12 (try any_goals first
    | with_reducible exact hk
    | with_reducible apply dropCtxItems_kept
    | with_reducible apply Kept.ite
    | split
    | with_reducible refine Kept.mk ?_ rfl rfl rfl rfl rfl rfl rfl rfl rfl rfl rfl rfl)

theorem holdOp_kept {g : State} (q : Call) (s : State) (hk : Kept g s) :
    Kept g (holdOp q s) := by
  simp only [holdOp]
  iterate 12 (try any_goals first
    | with_reducible exact hk
    | with_reducible apply State.setCtx_kept
    | with_reducible apply leaveCore_kept
    | with_reducible apply Kept.ite
    | split
    | with_reducible refine Kept.mk ?_ rfl rfl rfl rfl rfl rfl rfl rfl rfl rfl rfl rfl)

theorem resumeHeld_kept {g : State} (x1 : List Ctx) (x2 : State) (hk : Kept g x2) :
    Kept g (resumeHeld x1 x2) := by
  induction x1 generalizing x2 with
  | nil => simp only [resumeHeld]; with_reducible exact hk
  | cons c l ih =>
    simp only [resumeHeld]
    iterate 12 (try any_goals first
      | with_reducible exact hk
      | with_reducible apply ih
      | with_reducible apply State.setCtx_kept
      | with_reducible apply makeReady_kept
      | with_reducible apply Kept.ite
      | split
      | with_reducible refine Kept.mk ?_ rfl rfl rfl rfl rfl rfl rfl rfl rfl rfl rfl rfl)

theorem freshBytes_kept {g : State} (x1 : Nat) (x2 : State) (hk : Kept g x2) :
    Kept g (freshBytes x1 x2).2 := by
  induction x1 generalizing x2 with
  | zero => simp only [freshBytes]; with_reducible exact hk
  | succ n ih =>
    simp only [freshBytes]
    iterate 12 (try any_goals first
      | with_reducible exact hk
      | with_reducible apply ih
      | with_reducible apply freshValue_kept
      | with_reducible apply Kept.ite
      | split
      | with_reducible refine Kept.mk ?_ rfl rfl rfl rfl rfl rfl rfl rfl rfl rfl rfl rfl)

theorem samples_kept {g : State} (source : Nat) (n : Nat) (s : State) (hk : Kept g s) :
    Kept g (samples source n s).2 := by
  simp only [samples]
  iterate 12 (try any_goals first
    | with_reducible exact hk
    | with_reducible apply freshBytes_kept
    | with_reducible apply Kept.ite
    | split
    | with_reducible refine Kept.mk ?_ rfl rfl rfl rfl rfl rfl rfl rfl rfl rfl rfl rfl)

theorem conditioned_kept {g : State} (s : State) (hk : Kept g s) :
    Kept g (conditioned s).2 := by
  simp only [conditioned]
  iterate 12 (try any_goals first
    | with_reducible exact hk
    | with_reducible apply samples_kept
    | with_reducible apply Kept.ite
    | split
    | with_reducible refine Kept.mk ?_ rfl rfl rfl rfl rfl rfl rfl rfl rfl rfl rfl rfl)

theorem gatherSeed_kept {g : State} (s : State) (hk : Kept g s) :
    Kept g (gatherSeed s).2 := by
  simp only [gatherSeed]
  iterate 12 (try any_goals first
    | with_reducible exact hk
    | with_reducible apply conditioned_kept
    | with_reducible apply Kept.ite
    | split
    | with_reducible refine Kept.mk ?_ rfl rfl rfl rfl rfl rfl rfl rfl rfl rfl rfl rfl)

theorem takeSeed_kept {g : State} (s : State) (hk : Kept g s) :
    Kept g (takeSeed s).2 := by
  simp only [takeSeed]
  iterate 12 (try any_goals first
    | with_reducible exact hk
    | with_reducible apply gatherSeed_kept
    | with_reducible apply Kept.ite
    | split
    | with_reducible refine Kept.mk ?_ rfl rfl rfl rfl rfl rfl rfl rfl rfl rfl rfl rfl)

theorem instantiate_kept {g : State} (s : State) (hk : Kept g s) :
    Kept g (instantiate s) := by
  simp only [instantiate]
  iterate 12 (try any_goals first
    | with_reducible exact hk
    | with_reducible apply takeSeed_kept
    | with_reducible apply Kept.ite
    | split
    | with_reducible refine Kept.mk ?_ rfl rfl rfl rfl rfl rfl rfl rfl rfl rfl rfl rfl)

theorem reseed_kept {g : State} (s : State) (hk : Kept g s) :
    Kept g (reseed s) := by
  simp only [reseed]
  iterate 12 (try any_goals first
    | with_reducible exact hk
    | with_reducible apply takeSeed_kept
    | with_reducible apply Kept.ite
    | split
    | with_reducible refine Kept.mk ?_ rfl rfl rfl rfl rfl rfl rfl rfl rfl rfl rfl rfl)

theorem generateBlock_kept {g : State} (s : State) (hk : Kept g s) :
    Kept g (generateBlock s) := by
  have h1 : Kept g (if reseedDue s.rnu s.sck.now = true then reseed s else s) := Kept.ite (reseed_kept _ hk) hk
  simp only [generateBlock]
  generalize (if reseedDue s.rnu s.sck.now = true then reseed s else s) = t at h1 ⊢
  split
  · exact h1
  · exact Kept.rnu h1 (putBlock_room _ _)

theorem generateBlocks_kept {g : State} (k : Nat) (x1 : State) (hk : Kept g x1) :
    Kept g (generateBlocks k x1) := by
  induction k generalizing x1 with
  | zero => simp only [generateBlocks]; with_reducible exact hk
  | succ n ih =>
    simp only [generateBlocks]
    iterate 12 (try any_goals first
      | with_reducible exact hk
      | with_reducible apply ih
      | with_reducible apply generateBlock_kept
      | with_reducible apply Kept.ite
      | split
      | with_reducible refine Kept.mk ?_ rfl rfl rfl rfl rfl rfl rfl rfl rfl rfl rfl rfl)

theorem takeBellows_kept {g : State} (fuel : Nat) (n : Nat) (x1 : State) (hk : Kept g x1) :
    Kept g (takeBellows fuel n x1).2 := by
  induction fuel generalizing n x1 with
  | zero => simp only [takeBellows]; exact hk
  | succ k ih =>
    simp only [takeBellows]
    split
    · exact hk
    · split
      · exact ih _ _ (generateBlock_kept _ hk)
      · rename_i b t e
        split
        · refine Kept.rnu hk fun h => ?_
          simpa [e] using h
        · refine ih _ _ (Kept.rnu hk fun h => ?_)
          simp only [e, List.length_cons] at h
          simp only
          omega

theorem draw_kept {g : State} (n : Nat) (s : State) (hk : Kept g s) :
    Kept g (draw n s).2 := by
  simp only [draw]
  iterate 12 (try any_goals first
    | with_reducible exact hk
    | with_reducible apply freshBytes_kept
    | with_reducible apply takeBellows_kept
    | with_reducible apply Kept.ite
    | split
    | with_reducible refine Kept.mk ?_ rfl rfl rfl rfl rfl rfl rfl rfl rfl rfl rfl rfl)

theorem drawOwn_kept {g : State} (s : State) (hk : Kept g s) :
    Kept g (drawOwn s).2 := by
  simp only [drawOwn]
  iterate 12 (try any_goals first
    | with_reducible exact hk
    | with_reducible apply freshValue_kept
    | with_reducible apply draw_kept
    | with_reducible apply Kept.ite
    | split
    | with_reducible refine Kept.mk ?_ rfl rfl rfl rfl rfl rfl rfl rfl rfl rfl rfl rfl)

theorem offerBytes_kept {g : State} (q : Call) (bytes : Bytes) (s : State) (hk : Kept g s) :
    Kept g (offerBytes q bytes s) := by
  simp only [offerBytes]
  iterate 12 (try any_goals first
    | with_reducible exact hk
    | with_reducible apply emit_kept
    | with_reducible apply State.setFunc_kept
    | with_reducible apply Kept.ite
    | split
    | with_reducible refine Kept.mk ?_ rfl rfl rfl rfl rfl rfl rfl rfl rfl rfl rfl rfl)

end Sys2Proof.Machine
end

