-- ==== Sys2Proof/Laws/KeptTime.lean ====
section
/-! SUPPORT. What the operations of Machine/Time.lean keep (Laws/Kept.lean), once for each. -/

namespace Sys2Proof.Machine

theorem State.setRef_kept {g : State} (r : Nat) (v : RefClock) (s : State) (hk : Kept g s) :
    Kept g (State.setRef r v s) := by
  simp only [State.setRef]
  iterate 12 (try any_goals first
    | with_reducible exact hk
    | with_reducible apply Kept.ite
    | split
    | with_reducible refine Kept.mk ?_ rfl rfl rfl rfl rfl rfl rfl rfl rfl rfl rfl rfl)

theorem State.updRef_kept {g0 : State} (r : Nat) (g : RefClock → RefClock) (s : State) (hk : Kept g0 s) :
    Kept g0 (State.updRef r g s) := by
  simp only [State.updRef]
  iterate 12 (try any_goals first
    | with_reducible exact hk
    | with_reducible apply State.setRef_kept
    | with_reducible apply Kept.ite
    | split
    | with_reducible refine Kept.mk ?_ rfl rfl rfl rfl rfl rfl rfl rfl rfl rfl rfl rfl)

theorem evalRefs_kept {g : State} (k : Sck) (x1 : Nat) (x2 : State) (hk : Kept g x2) :
    Kept g (evalRefs k x1 x2) := by
  induction x1 generalizing k x2 with
  | zero => simp only [evalRefs]; with_reducible exact hk
  | succ n ih =>
    simp only [evalRefs]
    iterate 12 (try any_goals first
      | with_reducible exact hk
      | with_reducible apply ih
      | with_reducible apply State.setRef_kept
      | with_reducible apply Kept.ite
      | split
      | with_reducible refine Kept.mk ?_ rfl rfl rfl rfl rfl rfl rfl rfl rfl rfl rfl rfl)

theorem reBound_kept {g : State} (s : State) (hk : Kept g s) :
    Kept g (reBound s) := by
  simp only [reBound]
  iterate 12 (try any_goals first
    | with_reducible exact hk
    | with_reducible apply Kept.ite
    | split
    | with_reducible refine Kept.mk ?_ rfl rfl rfl rfl rfl rfl rfl rfl rfl rfl rfl rfl)

theorem noteRefs_kept {g : State} (old : Sck) (x1 : Nat) (x2 : State) (hk : Kept g x2) :
    Kept g (noteRefs old x1 x2).1 := by
  induction x1 generalizing old x2 with
  | zero => simp only [noteRefs]; with_reducible exact hk
  | succ n ih =>
    simp only [noteRefs]
    iterate 12 (try any_goals first
      | with_reducible exact hk
      | with_reducible apply ih
      | with_reducible apply stageRec_kept
      | with_reducible apply Kept.ite
      | split
      | with_reducible refine Kept.mk ?_ rfl rfl rfl rfl rfl rfl rfl rfl rfl rfl rfl rfl)

theorem failAngles_kept {g : State} (x1 : List Ctx) (x2 : State) (hk : Kept g x2) :
    Kept g (failAngles x1 x2) := by
  induction x1 generalizing x2 with
  | nil => simp only [failAngles]; with_reducible exact hk
  | cons c l ih =>
    simp only [failAngles]
    iterate 12 (try any_goals first
      | with_reducible exact hk
      | with_reducible apply ih
      | with_reducible apply finishCtx_kept
      | with_reducible apply Kept.ite
      | split
      | with_reducible refine Kept.mk ?_ rfl rfl rfl rfl rfl rfl rfl rfl rfl rfl rfl rfl)

theorem noteRecord_kept {g : State} (old : Sck) (s : State) (hk : Kept g s) :
    Kept g (noteRecord old s) := by
  simp only [noteRecord]
  iterate 12 (try any_goals first
    | with_reducible exact hk
    | with_reducible apply stageRec_kept
    | with_reducible apply noteRefs_kept
    | with_reducible apply Kept.ite
    | split
    | with_reducible refine Kept.mk ?_ rfl rfl rfl rfl rfl rfl rfl rfl rfl rfl rfl rfl)

theorem sckEvent_kept {g : State} (changed : Bool) (bit : Nat) (s : State) (hk : Kept g s) :
    Kept g (sckEvent changed bit s) := by
  simp only [sckEvent]
  iterate 12 (try any_goals first
    | with_reducible exact hk
    | with_reducible apply raiseEvent_kept
    | with_reducible apply Kept.ite
    | split
    | with_reducible refine Kept.mk ?_ rfl rfl rfl rfl rfl rfl rfl rfl rfl rfl rfl rfl)

theorem noteEvents_kept {g : State} (old : Sck) (k : Sck) (s : State) (hk : Kept g s) :
    Kept g (noteEvents old k s) := by
  simp only [noteEvents]
  iterate 12 (try any_goals first
    | with_reducible exact hk
    | with_reducible apply sckEvent_kept
    | with_reducible apply Kept.ite
    | split
    | with_reducible refine Kept.mk ?_ rfl rfl rfl rfl rfl rfl rfl rfl rfl rfl rfl rfl)

theorem noteValid_kept {g : State} (changed : Bool) (s : State) (hk : Kept g s) :
    Kept g (noteValid changed s) := by
  simp only [noteValid]
  iterate 12 (try any_goals first
    | with_reducible exact hk
    | with_reducible apply timeEdge_kept
    | with_reducible apply Kept.ite
    | split
    | with_reducible refine Kept.mk ?_ rfl rfl rfl rfl rfl rfl rfl rfl rfl rfl rfl rfl)

theorem noteSck_kept {g : State} (old : Sck) (s : State) (hk : Kept g s) :
    Kept g (noteSck old s) := by
  have h1 : Kept g { noteValid (s.sck.valid != old.valid) (noteEvents old s.sck (noteRecord old s)) with sck := s.sck.note } :=
    Kept.congr (noteValid_kept _ _ (noteEvents_kept _ _ _ (noteRecord_kept _ _ hk))) rfl rfl rfl rfl rfl rfl rfl rfl rfl rfl rfl rfl
  simp only [noteSck]
  exact Kept.ite (failAngles_kept _ _ h1) h1

theorem enterHoldover_kept {g : State} (s : State) (hk : Kept g s) :
    Kept g (enterHoldover s) := by
  simp only [enterHoldover]
  iterate 12 (try any_goals first
    | with_reducible exact hk
    | with_reducible apply reBound_kept
    | with_reducible apply Kept.ite
    | split
    | with_reducible refine Kept.mk ?_ rfl rfl rfl rfl rfl rfl rfl rfl rfl rfl rfl rfl)

theorem adoptSlew_kept {g : State} (r : Nat) (s : State) (hk : Kept g s) :
    Kept g (adoptSlew r s) := by
  simp only [adoptSlew]
  iterate 12 (try any_goals first
    | with_reducible exact hk
    | with_reducible apply State.updRef_kept
    | with_reducible apply reBound_kept
    | with_reducible apply Kept.ite
    | split
    | with_reducible refine Kept.mk ?_ rfl rfl rfl rfl rfl rfl rfl rfl rfl rfl rfl rfl)

theorem loseSelected_kept {g : State} (s : State) (hk : Kept g s) :
    Kept g (loseSelected s) := by
  simp only [loseSelected]
  iterate 12 (try any_goals first
    | with_reducible exact hk
    | with_reducible apply enterHoldover_kept
    | with_reducible apply adoptSlew_kept
    | with_reducible apply Kept.ite
    | split
    | with_reducible refine Kept.mk ?_ rfl rfl rfl rfl rfl rfl rfl rfl rfl rfl rfl rfl)

theorem declareFailed_kept {g : State} (r : Nat) (s : State) (hk : Kept g s) :
    Kept g (declareFailed r s) := by
  simp only [declareFailed]
  iterate 12 (try any_goals first
    | with_reducible exact hk
    | with_reducible apply State.setRef_kept
    | with_reducible apply loseSelected_kept
    | with_reducible apply Kept.ite
    | split
    | with_reducible refine Kept.mk ?_ rfl rfl rfl rfl rfl rfl rfl rfl rfl rfl rfl rfl)

theorem stepFrames_kept {g : State} (d : Int) (s : State) (hk : Kept g s) :
    Kept g (stepFrames d s) := by
  simp only [stepFrames]
  iterate 12 (try any_goals first
    | with_reducible exact hk
    | with_reducible apply Kept.ite
    | split
    | with_reducible refine Kept.mk ?_ rfl rfl rfl rfl rfl rfl rfl rfl rfl rfl rfl rfl)

theorem stepRefs_kept {g : State} (d : Int) (s : State) (hk : Kept g s) :
    Kept g (stepRefs d s) := by
  simp only [stepRefs]
  iterate 12 (try any_goals first
    | with_reducible exact hk
    | with_reducible apply Kept.ite
    | split
    | with_reducible refine Kept.mk ?_ rfl rfl rfl rfl rfl rfl rfl rfl rfl rfl rfl rfl)

theorem stepParts_kept {g : State} (before : Nat) (after : Nat) (s : State) (hk : Kept g s) :
    Kept g (stepParts before after s) := by
  simp only [stepParts]
  iterate 12 (try any_goals first
    | with_reducible exact hk
    | with_reducible apply Kept.ite
    | split
    | with_reducible refine Kept.mk ?_ rfl rfl rfl rfl rfl rfl rfl rfl rfl rfl rfl rfl)

theorem stepTime_kept {g : State} (r : Nat) (s : State) (hk : Kept g s) :
    Kept g (stepTime r s) := by
  have c1 : ∀ x k f, Kept g x → Kept g { x with sck := k, fe := f } := fun x k f h => Kept.congr h rfl rfl rfl rfl rfl rfl rfl rfl rfl rfl rfl rfl
  have c2 : ∀ x k, Kept g x → Kept g { x with sck := k } := fun x k h => Kept.congr h rfl rfl rfl rfl rfl rfl rfl rfl rfl rfl rfl rfl
  unfold stepTime
  extract_lets old d before after s1 s2 entries k0 sck fe s3a s3 rec1
  have h1 : Kept g s1 := Kept.ite (State.updRef_kept _ _ _ hk) hk
  have h2 : Kept g s2 := stepParts_kept _ _ _ (stepFrames_kept _ _ (stepRefs_kept _ _ (State.updRef_kept _ _ _ h1)))
  have h3 : Kept g s3 := c2 _ _ (reBound_kept _ (c1 _ _ _ h2))
  refine raiseEvent_kept _ _ _ _ (Kept.ite ?_ (stageWith_kept _ _ _ _ _ _ _ _ h3))
  exact appendCheckpoint_kept _ _ _ _ (appendRecord_kept _ _ (drainStaging_kept _ h3))

theorem runCounts_kept {g : State} (temp : Int) (s : State) (hk : Kept g s) :
    Kept g (runCounts temp s) := by
  simp only [runCounts]
  iterate 12 (try any_goals first
    | with_reducible exact hk
    | with_reducible apply Kept.ite
    | split
    | with_reducible refine Kept.mk ?_ rfl rfl rfl rfl rfl rfl rfl rfl rfl rfl rfl rfl)

theorem tickState_kept {g : State} (s : State) (hk : Kept g s) :
    Kept g (tickState s) := by
  simp only [tickState]
  iterate 12 (try any_goals first
    | with_reducible exact hk
    | with_reducible apply reBound_kept
    | with_reducible apply Kept.ite
    | split
    | with_reducible refine Kept.mk ?_ rfl rfl rfl rfl rfl rfl rfl rfl rfl rfl rfl rfl)

theorem endStep_kept {g : State} (call : Option (Call × Option Nat × Nat)) (comp : Completion) (s : State) (hk : Kept g s) :
    Kept g (endStep call comp s) := by
  simp only [endStep]
  iterate 12 (try any_goals first
    | with_reducible exact hk
    | with_reducible apply lateComplete_kept
    | with_reducible apply Kept.ite
    | split
    | with_reducible refine Kept.mk ?_ rfl rfl rfl rfl rfl rfl rfl rfl rfl rfl rfl rfl)

theorem tickStep_kept {g : State} (s : State) (hk : Kept g s) :
    Kept g (tickStep s) := by
  simp only [tickStep]
  iterate 12 (try any_goals first
    | with_reducible exact hk
    | with_reducible apply stepTime_kept
    | with_reducible apply endStep_kept
    | with_reducible apply Kept.ite
    | split
    | with_reducible refine Kept.mk ?_ rfl rfl rfl rfl rfl rfl rfl rfl rfl rfl rfl rfl)

theorem noteSense_kept {g : State} (x : Sense) (s : State) (hk : Kept g s) :
    Kept g (noteSense x s) := by
  simp only [noteSense]
  iterate 12 (try any_goals first
    | with_reducible exact hk
    | with_reducible apply Kept.ite
    | split
    | with_reducible refine Kept.mk ?_ rfl rfl rfl rfl rfl rfl rfl rfl rfl rfl rfl rfl)

theorem measure_kept {g : State} (r : Nat) (offset : Int) (s : State) (hk : Kept g s) :
    Kept g (measure r offset s) := by
  simp only [measure]
  iterate 12 (try any_goals first
    | with_reducible exact hk
    | with_reducible apply State.updRef_kept
    | with_reducible apply Kept.ite
    | split
    | with_reducible refine Kept.mk ?_ rfl rfl rfl rfl rfl rfl rfl rfl rfl rfl rfl rfl)

theorem judgeMeasure_kept {g : State} (r : Nat) (offset : Int) (s : State) (hk : Kept g s) :
    Kept g (judgeMeasure r offset s) := by
  simp only [judgeMeasure]
  iterate 12 (try any_goals first
    | with_reducible exact hk
    | with_reducible apply reBound_kept
    | with_reducible apply declareFailed_kept
    | with_reducible apply measure_kept
    | with_reducible apply Kept.ite
    | split
    | with_reducible refine Kept.mk ?_ rfl rfl rfl rfl rfl rfl rfl rfl rfl rfl rfl rfl)

theorem irigMissing_kept {g : State} (s : State) (hk : Kept g s) :
    Kept g (irigMissing s) := by
  simp only [irigMissing]
  iterate 12 (try any_goals first
    | with_reducible exact hk
    | with_reducible apply State.updRef_kept
    | with_reducible apply declareFailed_kept
    | with_reducible apply Kept.ite
    | split
    | with_reducible refine Kept.mk ?_ rfl rfl rfl rfl rfl rfl rfl rfl rfl rfl rfl rfl)

theorem noteLeap_kept {g : State} (leapEnd : Option Nat) (s : State) (hk : Kept g s) :
    Kept g (noteLeap leapEnd s) := by
  simp only [noteLeap]
  iterate 12 (try any_goals first
    | with_reducible exact hk
    | with_reducible apply Kept.ite
    | split
    | with_reducible refine Kept.mk ?_ rfl rfl rfl rfl rfl rfl rfl rfl rfl rfl rfl rfl)

theorem tenMhzGone_kept {g : State} (s : State) (hk : Kept g s) :
    Kept g (tenMhzGone s) := by
  simp only [tenMhzGone]
  iterate 12 (try any_goals first
    | with_reducible exact hk
    | with_reducible apply Kept.ite
    | split
    | with_reducible refine Kept.mk ?_ rfl rfl rfl rfl rfl rfl rfl rfl rfl rfl rfl rfl)

theorem State.setPtp_kept {g : State} (p : Nat) (v : PtpPort) (s : State) (hk : Kept g s) :
    Kept g (State.setPtp p v s) := by
  simp only [State.setPtp]
  iterate 12 (try any_goals first
    | with_reducible exact hk
    | with_reducible apply Kept.ite
    | split
    | with_reducible refine Kept.mk ?_ rfl rfl rfl rfl rfl rfl rfl rfl rfl rfl rfl rfl)

theorem setRoles_kept {g0 : State} (g : Nat) (x1 : Nat) (x2 : State) (hk : Kept g0 x2) :
    Kept g0 (setRoles g x1 x2) := by
  induction x1 generalizing g x2 with
  | zero => simp only [setRoles]; with_reducible exact hk
  | succ n ih =>
    simp only [setRoles]
    iterate 12 (try any_goals first
      | with_reducible exact hk
      | with_reducible apply ih
      | with_reducible apply State.setPtp_kept
      | with_reducible apply Kept.ite
      | split
      | with_reducible refine Kept.mk ?_ rfl rfl rfl rfl rfl rfl rfl rfl rfl rfl rfl rfl)

theorem judgeClass_kept {g : State} (s : State) (hk : Kept g s) :
    Kept g (judgeClass s) := by
  simp only [judgeClass]
  iterate 12 (try any_goals first
    | with_reducible exact hk
    | with_reducible apply State.setRef_kept
    | with_reducible apply declareFailed_kept
    | with_reducible apply Kept.ite
    | split
    | with_reducible refine Kept.mk ?_ rfl rfl rfl rfl rfl rfl rfl rfl rfl rfl rfl rfl)

theorem sendOthers_kept {g : State} (port : Nat) (x : CoreFrame) (s : State) (hk : Kept g s) :
    Kept g (sendOthers port x s) := by
  simp only [sendOthers]
  iterate 12 (try any_goals first
    | with_reducible exact hk
    | with_reducible apply sendEach_kept
    | with_reducible apply Kept.ite
    | split
    | with_reducible refine Kept.mk ?_ rfl rfl rfl rfl rfl rfl rfl rfl rfl rfl rfl rfl)

theorem ptpAnnounce_kept {g : State} (port : Nat) (best : Bool) (gm : Nat) (cls : Nat) (accuracy : Option Nat) (inaccuracy : Option Nat) (altOffset : Option Nat) (utc : Option Nat) (leapEnd : Option Nat) (s : State) (hk : Kept g s) :
    Kept g (ptpAnnounce port best gm cls accuracy inaccuracy altOffset utc leapEnd s) := by
  simp only [ptpAnnounce]
  iterate 12 (try any_goals first
    | with_reducible exact hk
    | with_reducible apply State.updRef_kept
    | with_reducible apply reBound_kept
    | with_reducible apply noteLeap_kept
    | with_reducible apply State.setPtp_kept
    | with_reducible apply setRoles_kept
    | with_reducible apply judgeClass_kept
    | with_reducible apply sendOthers_kept
    | with_reducible apply Kept.ite
    | split
    | with_reducible refine Kept.mk ?_ rfl rfl rfl rfl rfl rfl rfl rfl rfl rfl rfl rfl)

theorem ptpSync_kept {g : State} (port : Nat) (ingress : Nat) (offset : Int) (correction : Int) (followUp : Option Int) (s : State) (hk : Kept g s) :
    Kept g (ptpSync port ingress offset correction followUp s) := by
  simp only [ptpSync]
  iterate 12 (try any_goals first
    | with_reducible exact hk
    | with_reducible apply State.updRef_kept
    | with_reducible apply judgeMeasure_kept
    | with_reducible apply sendOthers_kept
    | with_reducible apply Kept.ite
    | split
    | with_reducible refine Kept.mk ?_ rfl rfl rfl rfl rfl rfl rfl rfl rfl rfl rfl rfl)

theorem ptpMessage_kept {g : State} (m : PtpMessage) (s : State) (hk : Kept g s) :
    Kept g (ptpMessage m s) := by
  simp only [ptpMessage]
  split
  · exact Kept.ite (noteSck_kept _ _ (ptpAnnounce_kept _ _ _ _ _ _ _ _ _ _ hk)) hk
  · exact Kept.ite (noteSck_kept _ _ (ptpSync_kept _ _ _ _ _ _ hk)) hk
  · exact Kept.ite (Kept.congr hk rfl rfl rfl rfl rfl rfl rfl rfl rfl rfl rfl rfl) hk
  · exact Kept.ite (sendPort_kept _ _ _ _ hk) hk
  · exact hk

theorem ptpTimeout_kept {g : State} (b : Nat) (s : State) (hk : Kept g s) :
    Kept g (ptpTimeout b s) := by
  simp only [ptpTimeout]
  exact Kept.ite (noteSck_kept _ _ (declareFailed_kept _ _ (State.setRef_kept _ _ _ hk))) hk

theorem failOcxo_kept {g : State} (s : State) (hk : Kept g s) :
    Kept g (failOcxo s) := by
  have c2 : ∀ k, Kept g { s with sck := k } := fun k => Kept.congr hk rfl rfl rfl rfl rfl rfl rfl rfl rfl rfl rfl rfl
  simp only [failOcxo]
  refine Kept.ite hk ?_
  split
  · exact noteSck_kept _ _ (reBound_kept _ (c2 _))
  · exact noteSck_kept _ _ (reBound_kept _ (c2 _))
  · exact c2 _

theorem loseAngle_kept {g : State} (s : State) (hk : Kept g s) :
    Kept g (loseAngle s) := by
  simp only [loseAngle]
  iterate 12 (try any_goals first
    | with_reducible exact hk
    | with_reducible apply Kept.ite
    | split
    | with_reducible refine Kept.mk ?_ rfl rfl rfl rfl rfl rfl rfl rfl rfl rfl rfl rfl)

theorem angleSample_kept {g : State} (at_ : Nat) (value : Int) (s : State) (hk : Kept g s) :
    Kept g (angleSample at_ value s) := by
  unfold angleSample
  extract_lets a b s1 k gap usable cross freq k1 k2 known s2
  have c2 : ∀ x j, Kept g x → Kept g { x with sck := j } := fun x j h => Kept.congr h rfl rfl rfl rfl rfl rfl rfl rfl rfl rfl rfl rfl
  have h1 : Kept g s1 := freshValue_kept _ (freshValue_kept _ hk)
  have h2 : Kept g s2 := Kept.ite (loseAngle_kept _ (c2 _ _ h1)) (Kept.ite (c2 _ _ h1) (c2 _ _ h1))
  exact noteSck_kept _ _ h2

theorem applyEnable_kept {g : State} (r : Nat) (s : State) (hk : Kept g s) :
    Kept g (applyEnable r s) := by
  simp only [applyEnable]
  iterate 12 (try any_goals first
    | with_reducible exact hk
    | with_reducible apply State.setRef_kept
    | with_reducible apply loseSelected_kept
    | with_reducible apply Kept.ite
    | split
    | with_reducible refine Kept.mk ?_ rfl rfl rfl rfl rfl rfl rfl rfl rfl rfl rfl rfl)

theorem applyPtpCfg_kept {g : State} (old : Nat) (new : Nat) (s : State) (hk : Kept g s) :
    Kept g (applyPtpCfg old new s) := by
  simp only [applyPtpCfg]
  iterate 12 (try any_goals first
    | with_reducible exact hk
    | with_reducible apply declareFailed_kept
    | with_reducible apply Kept.ite
    | split
    | with_reducible refine Kept.mk ?_ rfl rfl rfl rfl rfl rfl rfl rfl rfl rfl rfl rfl)

theorem applyTenMhz_kept {g : State} (old : Nat) (new : Nat) (s : State) (hk : Kept g s) :
    Kept g (applyTenMhz old new s) := by
  simp only [applyTenMhz]
  iterate 12 (try any_goals first
    | with_reducible exact hk
    | with_reducible apply tenMhzGone_kept
    | with_reducible apply applyEnable_kept
    | with_reducible apply Kept.ite
    | split
    | with_reducible refine Kept.mk ?_ rfl rfl rfl rfl rfl rfl rfl rfl rfl rfl rfl rfl)

theorem applySetting_kept {g : State} (off : Nat) (s : State) (hk : Kept g s) :
    Kept g (applySetting off s) := by
  simp only [applySetting]
  iterate 12 (try any_goals first
    | with_reducible exact hk
    | with_reducible apply State.updRef_kept
    | with_reducible apply reBound_kept
    | with_reducible apply judgeClass_kept
    | with_reducible apply loseAngle_kept
    | with_reducible apply applyEnable_kept
    | with_reducible apply applyPtpCfg_kept
    | with_reducible apply applyTenMhz_kept
    | with_reducible apply Kept.ite
    | split
    | with_reducible refine Kept.mk ?_ rfl rfl rfl rfl rfl rfl rfl rfl rfl rfl rfl rfl)

theorem applySettings_kept {g : State} (x1 : List Nat) (x2 : State) (hk : Kept g x2) :
    Kept g (applySettings x1 x2) := by
  induction x1 generalizing x2 with
  | nil => simp only [applySettings]; with_reducible exact hk
  | cons c l ih =>
    simp only [applySettings]
    iterate 12 (try any_goals first
      | with_reducible exact hk
      | with_reducible apply ih
      | with_reducible apply applySetting_kept
      | with_reducible apply Kept.ite
      | split
      | with_reducible refine Kept.mk ?_ rfl rfl rfl rfl rfl rfl rfl rfl rfl rfl rfl rfl)

end Sys2Proof.Machine
end

