-- ==== Sys2Proof/Laws/KeptKeys.lean ====
section
/-! SUPPORT. What the operations of Machine/Keys.lean keep (Laws/Kept.lean), once for each. -/

namespace Sys2Proof.Machine

theorem State.setDom_kept {g : State} (f : Nat) (d : Domain) (s : State) (hk : Kept g s) :
    Kept g (State.setDom f d s) := by
  simp only [State.setDom]
  iterate 12 (try any_goals first
    | with_reducible exact hk
    | with_reducible apply Kept.ite
    | split
    | with_reducible refine Kept.mk ?_ rfl rfl rfl rfl rfl rfl rfl rfl rfl rfl rfl rfl)

theorem State.updDom_kept {g0 : State} (f : Nat) (g : Domain → Domain) (s : State) (hk : Kept g0 s) :
    Kept g0 (State.updDom f g s) := by
  simp only [State.updDom]
  iterate 12 (try any_goals first
    | with_reducible exact hk
    | with_reducible apply State.setDom_kept
    | with_reducible apply Kept.ite
    | split
    | with_reducible refine Kept.mk ?_ rfl rfl rfl rfl rfl rfl rfl rfl rfl rfl rfl rfl)

theorem allocHandle_kept {g : State} (f : Nat) (s : State) (hk : Kept g s) (t : Nat × State) (h : allocHandle f s = some t) :
    Kept g t.2 := by
  revert h
  simp only [allocHandle]
  (repeat' split) <;> intro h <;> simp only [Option.some.injEq, reduceCtorEq] at h <;> (try subst h)
  all_goals iterate 12 (try any_goals first
    | with_reducible exact hk
    | with_reducible apply State.setDom_kept
    | with_reducible apply Kept.ite
    | split
    | with_reducible refine Kept.mk ?_ rfl rfl rfl rfl rfl rfl rfl rfl rfl rfl rfl rfl)

theorem keyEvent_kept {g : State} (f : Nat) (handle : Nat) (event : Nat) (rollAt : Nat) (s : State) (hk : Kept g s) :
    Kept g (keyEvent f handle event rollAt s) := by
  simp only [keyEvent]
  iterate 12 (try any_goals first
    | with_reducible exact hk
    | with_reducible apply stageRec_kept
    | with_reducible apply Kept.ite
    | split
    | with_reducible refine Kept.mk ?_ rfl rfl rfl rfl rfl rfl rfl rfl rfl rfl rfl rfl)

theorem loadDrawn_kept {g : State} (kind : Nat) (m : Bytes) (s : State) (hk : Kept g s) :
    Kept g (loadDrawn kind m s).2 := by
  simp only [loadDrawn]
  iterate 12 (try any_goals first
    | with_reducible exact hk
    | with_reducible apply draw_kept
    | with_reducible apply drawOwn_kept
    | with_reducible apply Kept.ite
    | split
    | with_reducible refine Kept.mk ?_ rfl rfl rfl rfl rfl rfl rfl rfl rfl rfl rfl rfl)

theorem drawMaterial_kept {g : State} (kind : Nat) (len : Nat) (s : State) (hk : Kept g s) :
    Kept g (drawMaterial kind len s).2 := by
  simp only [drawMaterial]
  iterate 12 (try any_goals first
    | with_reducible exact hk
    | with_reducible apply draw_kept
    | with_reducible apply Kept.ite
    | split
    | with_reducible refine Kept.mk ?_ rfl rfl rfl rfl rfl rfl rfl rfl rfl rfl rfl rfl)

theorem sealBlob_kept {g : State} (h : Nat) (attr : KeyAttr) (material : Bytes) (s : State) (hk : Kept g s) :
    Kept g (sealBlob h attr material s).2 := by
  simp only [sealBlob]
  iterate 12 (try any_goals first
    | with_reducible exact hk
    | with_reducible apply draw_kept
    | with_reducible apply Kept.ite
    | split
    | with_reducible refine Kept.mk ?_ rfl rfl rfl rfl rfl rfl rfl rfl rfl rfl rfl rfl)

theorem slotBack_kept {g : State} (h : Nat) (s : State) (hk : Kept g s) :
    Kept g (slotBack h s) := by
  exact Kept.congr hk (by simp) (by simp) (by simp) (by simp) (by simp) (by simp) (by simp) (by simp) (by simp) (by simp) (by simp) (by simp)

theorem putKey_kept {g : State} (b : Blob) (m : Bytes) (blind : Nat × Nat) (s : State) (hk : Kept g s) :
    Kept g (putKey b m blind s) := by
  simp only [putKey]
  exact keyEdges_kept _ _ (slotBack_kept _ _ (Kept.congr hk rfl rfl rfl rfl rfl rfl rfl rfl rfl rfl rfl rfl))

theorem fillSlot_kept {g : State} (b : Blob) (m : Bytes) (s : State) (hk : Kept g s) :
    Kept g (fillSlot b m s) := by
  simp only [fillSlot]
  iterate 12 (try any_goals first
    | with_reducible exact hk
    | with_reducible apply loadDrawn_kept
    | with_reducible apply putKey_kept
    | with_reducible apply Kept.ite
    | split
    | with_reducible refine Kept.mk ?_ rfl rfl rfl rfl rfl rfl rfl rfl rfl rfl rfl rfl)

theorem dropKey_kept {g : State} (h : Nat) (s : State) (hk : Kept g s) :
    Kept g (dropKey h s) := by
  simp only [dropKey]
  exact keyEdges_kept _ _ (Kept.congr hk rfl rfl rfl rfl rfl rfl rfl rfl rfl rfl rfl rfl)

theorem takeGen_kept {g : State} (h : Nat) (s : State) (hk : Kept g s) :
    Kept g (takeGen h s).2 := by
  simp only [takeGen]
  iterate 12 (try any_goals first
    | with_reducible exact hk
    | with_reducible apply Kept.ite
    | split
    | with_reducible refine Kept.mk ?_ rfl rfl rfl rfl rfl rfl rfl rfl rfl rfl rfl rfl)

theorem vaultStore_kept {g : State} (b : Blob) (s : State) (hk : Kept g s) :
    Kept g (vaultStore b s) := by
  simp only [vaultStore]
  iterate 12 (try any_goals first
    | with_reducible exact hk
    | with_reducible apply appendBlob_kept
    | with_reducible apply keyEvent_kept
    | with_reducible apply Kept.ite
    | split
    | with_reducible refine Kept.mk ?_ rfl rfl rfl rfl rfl rfl rfl rfl rfl rfl rfl rfl)

theorem unwrapVault_kept {g : State} (f : Nat) (standby : Bool) (x1 : List Nat) (x2 : State) (hk : Kept g x2) :
    Kept g (unwrapVault f standby x1 x2) := by
  induction x1 generalizing f standby x2 with
  | nil => simp only [unwrapVault]; with_reducible exact hk
  | cons c l ih =>
    simp only [unwrapVault]
    iterate 12 (try any_goals first
      | with_reducible exact hk
      | with_reducible apply ih
      | with_reducible apply keyEvent_kept
      | with_reducible apply fillSlot_kept
      | with_reducible apply Kept.ite
      | split
      | with_reducible refine Kept.mk ?_ rfl rfl rfl rfl rfl rfl rfl rfl rfl rfl rfl rfl)

theorem unwrapActive_kept {g : State} (x1 : Tbl Partition) (x2 : State) (hk : Kept g x2) :
    Kept g (unwrapActive x1 x2) := by
  induction x1 generalizing x2 with
  | nil => simp only [unwrapActive]; exact hk
  | cons c l ih =>
    simp only [unwrapActive]
    refine ih _ ?_
    cases c.2.active with
    | none => exact hk
    | some a => exact unwrapVault_kept _ _ _ _ hk

theorem unwrapStandby_kept {g : State} (x1 : Tbl Partition) (x2 : State) (hk : Kept g x2) :
    Kept g (unwrapStandby x1 x2) := by
  induction x1 generalizing x2 with
  | nil => simp only [unwrapStandby]; exact hk
  | cons c l ih =>
    simp only [unwrapStandby]
    refine ih _ (Kept.ite ?_ hk)
    cases c.2.held with
    | none => exact hk
    | some a => exact unwrapVault_kept _ _ _ _ hk

theorem unwrapAll_kept {g : State} (s : State) (hk : Kept g s) :
    Kept g (unwrapAll s) := by
  simp only [unwrapAll]
  iterate 12 (try any_goals first
    | with_reducible exact hk
    | with_reducible apply unwrapActive_kept
    | with_reducible apply unwrapStandby_kept
    | with_reducible apply Kept.ite
    | split
    | with_reducible refine Kept.mk ?_ rfl rfl rfl rfl rfl rfl rfl rfl rfl rfl rfl rfl)

theorem resumeKeys_kept {g : State} (old : Nat) (s : State) (hk : Kept g s) :
    Kept g (resumeKeys old s) := by
  simp only [resumeKeys]
  iterate 12 (try any_goals first
    | with_reducible exact hk
    | with_reducible apply unwrapAll_kept
    | with_reducible apply Kept.ite
    | split
    | with_reducible refine Kept.mk ?_ rfl rfl rfl rfl rfl rfl rfl rfl rfl rfl rfl rfl)

end Sys2Proof.Machine
end

