-- ==== Sys2Proof/Laws/KeptRnu.lean ====
section
/-! SUPPORT. What the operations of Machine/Rnu.lean keep (Laws/Kept.lean), once for each. -/

namespace Sys2Proof.Machine

theorem endRestart_kept {g : State} (s : State) (hk : Kept g s) :
    Kept g (endRestart s) := by
  simp only [endRestart]
  iterate 12 (try any_goals first
    | with_reducible exact hk
    | with_reducible apply lateComplete_kept
    | with_reducible apply Kept.ite
    | split
    | with_reducible refine Kept.mk ?_ rfl rfl rfl rfl rfl rfl rfl rfl rfl rfl rfl rfl)

theorem failPartly_kept {g : State} (id : Nat) (n : Nat) (s : State) (hk : Kept g s) :
    Kept g (failPartly id n s) := by
  simp only [failPartly]
  iterate 12 (try any_goals first
    | with_reducible exact hk
    | with_reducible apply finishCtx_kept
    | with_reducible apply leaveCore_kept
    | with_reducible apply draw_kept
    | with_reducible apply Kept.ite
    | split
    | with_reducible refine Kept.mk ?_ rfl rfl rfl rfl rfl rfl rfl rfl rfl rfl rfl rfl)

theorem failAllPartly_kept {g : State} (x1 : List (Nat × Nat)) (x2 : State) (hk : Kept g x2) :
    Kept g (failAllPartly x1 x2) := by
  induction x1 generalizing x2 with
  | nil => simp only [failAllPartly]; with_reducible exact hk
  | cons c l ih =>
    simp only [failAllPartly]
    iterate 12 (try any_goals first
      | with_reducible exact hk
      | with_reducible apply ih
      | with_reducible apply failPartly_kept
      | with_reducible apply Kept.ite
      | split
      | with_reducible refine Kept.mk ?_ rfl rfl rfl rfl rfl rfl rfl rfl rfl rfl rfl rfl)

theorem rnuFail_kept {g : State} (cause : Nat) (source : Nat) (startup : Bool) (partly : List (Nat × Nat)) (s : State) (hk : Kept g s) :
    Kept g (rnuFail cause source startup partly s) := by
  have h1 := failAllPartly_kept partly s hk
  have h2 : Kept g { failAllPartly partly s with rnu := (failAllPartly partly s).rnu.fail cause source startup } :=
    Kept.rnu h1 fun _ => by simp [Rnu.fail, Rnu.clear]
  simp only [rnuFail]
  refine endRestart_kept _ (Kept.ite (raiseEvent_kept _ _ _ _ ?_) ?_)
  all_goals exact raiseEvent_kept _ _ _ _ (raiseAlarm_kept _ _ _ _ (finishWhere_kept _ _ _ _ h2))

theorem discardSamples_kept {g : State} (s : State) (hk : Kept g s) :
    Kept g (discardSamples s) := by
  simp only [discardSamples]
  iterate 12 (try any_goals first
    | with_reducible exact hk
    | with_reducible apply samples_kept
    | with_reducible apply Kept.ite
    | split
    | with_reducible refine Kept.mk ?_ rfl rfl rfl rfl rfl rfl rfl rfl rfl rfl rfl rfl)

theorem enterReady_kept {g : State} (s : State) (hk : Kept g s) :
    Kept g (enterReady s) := by
  simp only [enterReady]
  exact endRestart_kept _ (raiseEvent_kept _ _ _ _ (Kept.rnu hk id))

theorem serveReady_kept {g : State} (s : State) (hk : Kept g s) :
    Kept g (serveReady s) := by
  simp only [serveReady]
  iterate 12 (try any_goals first
    | with_reducible exact hk
    | with_reducible apply resumeHeld_kept
    | with_reducible apply unwrapAll_kept
    | with_reducible apply Kept.ite
    | split
    | with_reducible refine Kept.mk ?_ rfl rfl rfl rfl rfl rfl rfl rfl rfl rfl rfl rfl)

theorem rnuReady_kept {g : State} (s : State) (hk : Kept g s) :
    Kept g (rnuReady s) := by
  simp only [rnuReady]
  iterate 12 (try any_goals first
    | with_reducible exact hk
    | with_reducible apply instantiate_kept
    | with_reducible apply generateBlock_kept
    | with_reducible apply discardSamples_kept
    | with_reducible apply enterReady_kept
    | with_reducible apply serveReady_kept
    | with_reducible apply Kept.ite
    | split
    | with_reducible refine Kept.mk ?_ rfl rfl rfl rfl rfl rfl rfl rfl rfl rfl rfl rfl)

theorem flushBellows_kept {g : State} (s : State) (hk : Kept g s) :
    Kept g (flushBellows s) := by
  simp only [flushBellows]
  exact Kept.ite (raiseEvent_kept _ _ _ _ (generateBlocks_kept _ _ (Kept.rnu hk fun _ => by simp))) hk

end Sys2Proof.Machine
end

