-- ==== Sys2Proof/Laws/KeptAuth.lean ====
section
/-! SUPPORT. What the operations of Machine/Auth.lean keep (Laws/Kept.lean), once for each. -/

namespace Sys2Proof.Machine

theorem acceptRequest_kept {g : State} (a : AuthReq) (op : Nat) (s : State) (hk : Kept g s) :
    Kept g (acceptRequest a op s) := by
  simp only [acceptRequest]
  iterate 12 (try any_goals first
    | with_reducible exact hk
    | with_reducible apply securityRec_kept
    | with_reducible apply State.updDom_kept
    | with_reducible apply Kept.ite
    | split
    | with_reducible refine Kept.mk ?_ rfl rfl rfl rfl rfl rfl rfl rfl rfl rfl rfl rfl)

end Sys2Proof.Machine
end

