-- ==== Sys2Proof/Laws/KeptKeyOps.lean ====
section
/-! SUPPORT. What the operations of Machine/KeyOps.lean keep (Laws/Kept.lean), once for each. -/

namespace Sys2Proof.Machine

theorem installKey_kept {g : State} (b : Blob) (m : Bytes) (vault : Bool) (s : State) (hk : Kept g s) :
    Kept g (installKey b m vault s) := by
  simp only [installKey]
  iterate 12 (try any_goals first
    | with_reducible exact hk
    | with_reducible apply fillSlot_kept
    | with_reducible apply vaultStore_kept
    | with_reducible apply Kept.ite
    | split
    | with_reducible refine Kept.mk ?_ rfl rfl rfl rfl rfl rfl rfl rfl rfl rfl rfl rfl)

theorem resolveWaiting_kept {g : State} (back : Bool) (x1 : List Nat) (x2 : State) (hk : Kept g x2) :
    Kept g (resolveWaiting back x1 x2) := by
  induction x1 generalizing back x2 with
  | nil => simp only [resolveWaiting]; with_reducible exact hk
  | cons c l ih =>
    simp only [resolveWaiting]
    iterate 12 (try any_goals first
      | with_reducible exact hk
      | with_reducible apply ih
      | with_reducible apply State.setCtx_kept
      | with_reducible apply finishCtx_kept
      | with_reducible apply dropCtxItems_kept
      | with_reducible apply Kept.ite
      | split
      | with_reducible refine Kept.mk ?_ rfl rfl rfl rfl rfl rfl rfl rfl rfl rfl rfl rfl)

theorem discardTek_kept {g : State} (f : Nat) (handle : Nat) (s : State) (hk : Kept g s) :
    Kept g (discardTek f handle s) := by
  simp only [discardTek]
  iterate 12 (try any_goals first
    | with_reducible exact hk
    | with_reducible apply raiseEvent_kept
    | with_reducible apply keyEvent_kept
    | with_reducible apply Kept.ite
    | split
    | with_reducible refine Kept.mk ?_ rfl rfl rfl rfl rfl rfl rfl rfl rfl rfl rfl rfl)

end Sys2Proof.Machine
end

