-- ==== Sys2Proof/Laws/KeptTemper.lean ====
section
/-! SUPPORT. What the operations of Machine/Temper.lean keep (Laws/Kept.lean), once for each. -/

namespace Sys2Proof.Machine

theorem raiseEpochs_kept {g : State} (x1 : Nat) (x2 : State) (hk : Kept g x2) :
    Kept g (raiseEpochs x1 x2) := by
  induction x1 generalizing x2 with
  | zero => simp only [raiseEpochs]; with_reducible exact hk
  | succ n ih =>
    simp only [raiseEpochs]
    iterate 12 (try any_goals first
      | with_reducible exact hk
      | with_reducible apply ih
      | with_reducible apply State.updDom_kept
      | with_reducible apply Kept.ite
      | split
      | with_reducible refine Kept.mk ?_ rfl rfl rfl rfl rfl rfl rfl rfl rfl rfl rfl rfl)

theorem resealVault_kept {g : State} (d : Nat) (dwk : Bytes) (x1 : Tbl Blob) (x2 : State) (hk : Kept g x2) :
    Kept g (resealVault d dwk x1 x2) := by
  induction x1 generalizing d dwk x2 with
  | nil => simp only [resealVault]; with_reducible exact hk
  | cons c l ih =>
    simp only [resealVault]
    iterate 12 (try any_goals first
      | with_reducible exact hk
      | with_reducible apply ih
      | with_reducible apply appendBlob_kept
      | with_reducible apply sealBlob_kept
      | with_reducible apply Kept.ite
      | split
      | with_reducible refine Kept.mk ?_ rfl rfl rfl rfl rfl rfl rfl rfl rfl rfl rfl rfl)

theorem drawRoot_kept {g : State} (s : State) (hk : Kept g s) :
    Kept g (drawRoot s) := by
  simp only [drawRoot]
  iterate 12 (try any_goals first
    | with_reducible exact hk
    | with_reducible apply draw_kept
    | with_reducible apply Kept.ite
    | split
    | with_reducible refine Kept.mk ?_ rfl rfl rfl rfl rfl rfl rfl rfl rfl rfl rfl rfl)

theorem applyTemper_kept {g : State} (dom : Nat) (c : TemperCmd) (s : State) (hk : Kept g s) (t : State) (h : applyTemper dom c s = some t) :
    Kept g t := by
  cases c with
  | unknown => simp [applyTemper] at h
  | provision =>
    simp only [applyTemper] at h
    split at h
    · cases h
      exact drawRoot_kept _ hk
    · cases h
  | reprovision =>
    simp only [applyTemper] at h
    split at h
    · cases h
      exact Kept.congr (raiseEpochs_kept 64 _ (drawRoot_kept _ hk)) rfl rfl rfl rfl rfl rfl rfl rfl rfl rfl rfl rfl
    · cases h
  | enrol d role res key =>
    simp only [applyTemper] at h
    split at h
    · cases h
    · rw [Option.map_eq_some_iff] at h
      obtain ⟨l, _, rfl⟩ := h
      exact State.updDom_kept _ _ _ hk
  | revoke d res signer =>
    simp only [applyTemper] at h
    split at h
    · cases h
    · cases h
      exact State.updDom_kept _ _ _ hk
  | createDomain d res tenant =>
    simp only [applyTemper] at h
    split at h
    · cases h
    · cases h
      exact State.updDom_kept _ _ _ hk
  | deleteDomain d res =>
    simp only [applyTemper] at h
    split at h
    · cases h
    · cases h
      exact State.updDom_kept _ _ _ (Kept.congr hk rfl rfl rfl rfl rfl rfl rfl rfl rfl rfl rfl rfl)
  | importKey attr res material =>
    simp only [applyTemper] at h
    split at h
    · cases h
    · rw [Option.map_eq_some_iff] at h
      obtain ⟨a, ha, rfl⟩ := h
      have h1 := sealBlob_kept a.1 { attr with created := toStamp s.sck.now } material _ (allocHandle_kept _ _ hk _ ha)
      exact keyEvent_kept _ _ _ _ _ (Kept.ite (fillSlot_kept _ _ _ h1) h1)
  | setMigrationKey mkId key =>
    simp only [applyTemper] at h
    split at h
    · cases h
    · cases h
      exact State.updDom_kept _ _ _ hk
  | advanceEpoch =>
    simp only [applyTemper] at h
    cases h
    exact resealVault_kept _ _ _ _ (State.updDom_kept _ _ _ hk)
  | setGenFloor hd value =>
    simp only [applyTemper] at h
    split at h
    · cases h
    · cases h
      exact Kept.congr hk rfl rfl rfl rfl rfl rfl rfl rfl rfl rfl rfl rfl
  | clearRestrict =>
    simp only [applyTemper] at h
    split at h
    · cases h
    · cases h
      exact Kept.congr hk rfl rfl rfl rfl rfl rfl rfl rfl rfl rfl rfl rfl

end Sys2Proof.Machine
end

