-- ==== Sys2Proof/Laws/KeptTamper.lean ====
section
/-! SUPPORT. What the operations of Machine/Tamper.lean keep (Laws/Kept.lean), once for each. -/

namespace Sys2Proof.Machine

theorem passRtc_kept {g : State} (cycles : Nat) (s : State) (hk : Kept g s) :
    Kept g (passRtc cycles s) := by
  simp only [passRtc]
  iterate 12 (try any_goals first
    | with_reducible exact hk
    | with_reducible apply Kept.ite
    | split
    | with_reducible refine Kept.mk ?_ rfl rfl rfl rfl rfl rfl rfl rfl rfl rfl rfl rfl)

theorem stageAlarm_kept {g : State} (snowdrop : Bool) (cause : Nat) (source : Nat) (subtype : Nat) (value : Nat) (s : State) (hk : Kept g s) :
    Kept g (stageAlarm snowdrop cause source subtype value s) := by
  simp only [stageAlarm]
  split
  · refine Kept.staging hk fun _ => ?_
    simp only [List.length_append, List.length_cons, List.length_nil]
    omega
  · exact Kept.congr hk rfl rfl rfl rfl rfl rfl rfl rfl rfl rfl rfl rfl

theorem zeroBbkr_kept {g : State} (s : State) (hk : Kept g s) :
    Kept g (zeroBbkr s) := by
  simp only [zeroBbkr]
  iterate 12 (try any_goals first
    | with_reducible exact hk
    | with_reducible apply Kept.ite
    | split
    | with_reducible refine Kept.mk ?_ rfl rfl rfl rfl rfl rfl rfl rfl rfl rfl rfl rfl)

theorem standbyAlarm_kept {g : State} (cause : Nat) (source : Nat) (data : Nat) (s : State) (hk : Kept g s) :
    Kept g (standbyAlarm cause source data s) := by
  simp only [standbyAlarm]
  iterate 12 (try any_goals first
    | with_reducible exact hk
    | with_reducible apply stageAlarm_kept
    | with_reducible apply zeroBbkr_kept
    | with_reducible apply Kept.ite
    | split
    | with_reducible refine Kept.mk ?_ rfl rfl rfl rfl rfl rfl rfl rfl rfl rfl rfl rfl)

theorem snowdropAlarm_kept {g : State} (cause : Nat) (source : Nat) (data : Nat) (s : State) (hk : Kept g s) :
    Kept g (snowdropAlarm cause source data s) := by
  simp only [snowdropAlarm]
  iterate 12 (try any_goals first
    | with_reducible exact hk
    | with_reducible apply stageAlarm_kept
    | with_reducible apply zeroBbkr_kept
    | with_reducible apply Kept.ite
    | split
    | with_reducible refine Kept.mk ?_ rfl rfl rfl rfl rfl rfl rfl rfl rfl rfl rfl rfl)

theorem noteLoop_kept {g : State} (cause : Nat) (source : Nat) (data : Nat) (broken : Bool) (s : State) (hk : Kept g s) :
    Kept g (noteLoop cause source data broken s) := by
  simp only [noteLoop]
  iterate 12 (try any_goals first
    | with_reducible exact hk
    | with_reducible apply Kept.ite
    | split
    | with_reducible refine Kept.mk ?_ rfl rfl rfl rfl rfl rfl rfl rfl rfl rfl rfl rfl)

theorem zeroFailed_kept {g : State} (x1 : List (Nat × Nat)) (x2 : State) (hk : Kept g x2) :
    Kept g (zeroFailed x1 x2) := by
  induction x1 generalizing x2 with
  | nil => simp only [zeroFailed]; with_reducible exact hk
  | cons c l ih =>
    simp only [zeroFailed]
    iterate 12 (try any_goals first
      | with_reducible exact hk
      | with_reducible apply ih
      | with_reducible apply raiseAlarm_kept
      | with_reducible apply Kept.ite
      | split
      | with_reducible refine Kept.mk ?_ rfl rfl rfl rfl rfl rfl rfl rfl rfl rfl rfl rfl)

theorem abortPorts_kept {g : State} (x1 : Nat) (x2 : State) (hk : Kept g x2) :
    Kept g (abortPorts x1 x2) := by
  induction x1 generalizing x2 with
  | zero => simp only [abortPorts]; with_reducible exact hk
  | succ n ih =>
    simp only [abortPorts]
    iterate 12 (try any_goals first
      | with_reducible exact hk
      | with_reducible apply ih
      | with_reducible apply abortPort_kept
      | with_reducible apply Kept.ite
      | split
      | with_reducible refine Kept.mk ?_ rfl rfl rfl rfl rfl rfl rfl rfl rfl rfl rfl rfl)

theorem quenchFinish_kept {g : State} (failed : List (Nat × Nat)) (s : State) (hk : Kept g s) :
    Kept g (quenchFinish failed s) := by
  simp only [quenchFinish]
  iterate 12 (try any_goals first
    | with_reducible exact hk
    | with_reducible apply dropPads_kept
    | with_reducible apply finishWhere_kept
    | with_reducible apply zeroFailed_kept
    | with_reducible apply abortPorts_kept
    | with_reducible apply Kept.ite
    | split
    | with_reducible refine Kept.mk ?_ rfl rfl rfl rfl rfl rfl rfl rfl rfl rfl rfl rfl)

theorem clearRelease_kept {g : State} (s : State) (hk : Kept g s) :
    Kept g (clearRelease s) := by
  simp only [clearRelease]
  iterate 12 (try any_goals first
    | with_reducible exact hk
    | with_reducible apply noteLevel_kept
    | with_reducible apply resumeKeys_kept
    | with_reducible apply Kept.ite
    | split
    | with_reducible refine Kept.mk ?_ rfl rfl rfl rfl rfl rfl rfl rfl rfl rfl rfl rfl)

end Sys2Proof.Machine
end

