-- ==== Sys2Proof/Laws/KeptPke.lean ====
section
/-! SUPPORT. What the operations of Machine/Pke.lean keep (Laws/Kept.lean), once for each. -/

namespace Sys2Proof.Machine

theorem State.setEngine_kept {g : State} (e : Nat) (v : Engine) (s : State) (hk : Kept g s) :
    Kept g (State.setEngine e v s) := by
  simp only [State.setEngine]
  iterate 12 (try any_goals first
    | with_reducible exact hk
    | with_reducible apply Kept.ite
    | split
    | with_reducible refine Kept.mk ?_ rfl rfl rfl rfl rfl rfl rfl rfl rfl rfl rfl rfl)

theorem placePke_kept {g : State} (op : PkeOp) (s : State) (hk : Kept g s) :
    Kept g ((placePke op s).after s) := by
  simp only [placePke]
  (repeat' split) <;> simp only [after_done, after_running, after_wait, after_busy]
  all_goals iterate 12 (try any_goals first
    | with_reducible exact hk
    | with_reducible apply raiseEvent_kept
    | with_reducible apply State.setEngine_kept
    | with_reducible apply Kept.ite
    | split
    | with_reducible refine Kept.mk ?_ rfl rfl rfl rfl rfl rfl rfl rfl rfl rfl rfl rfl)

theorem dispatchPke_kept {g : State} (x : PkeOp) (s : State) (hk : Kept g s) :
    Kept g ((dispatchPke x s).after s) := by
  simp only [dispatchPke]
  split
  · exact hk
  · exact placePke_kept _ _ hk

/-- The same where the operation is given in another state. -/
theorem dispatchPke_at {g : State} (x : PkeOp) (s t : State) (hk : Kept g s) (ht : Kept g t) :
    Kept g ((dispatchPke x t).after s) := by
  rcases after_cases (dispatchPke x t) s t with e | e
  · rw [e]
    exact dispatchPke_kept _ _ ht
  · rw [e.1]
    exact hk

theorem engineRec_kept {g : State} (e : Nat) (v : Engine) (s : State) (hk : Kept g s) :
    Kept g (engineRec e v s) := by
  simp only [engineRec]
  iterate 12 (try any_goals first
    | with_reducible exact hk
    | with_reducible apply securityRec_kept
    | with_reducible apply Kept.ite
    | split
    | with_reducible refine Kept.mk ?_ rfl rfl rfl rfl rfl rfl rfl rfl rfl rfl rfl rfl)

theorem moveQueued_kept {g : State} (e : Nat) (s : State) (hk : Kept g s) :
    Kept g (moveQueued e s) := by
  simp only [moveQueued]
  split
  · exact hk
  · rename_i op _
    refine Kept.ite hk ?_
    have h2 := placePke_kept op _ (State.setEngine_kept e { s.engine e with next := none } _ hk)
    split
    · rename_i s2 e1
      rw [e1] at h2
      exact h2
    · rename_i c s2 e1
      rw [e1] at h2
      exact lateComplete_kept _ _ _ _ h2
    · exact hk

theorem moveAllQueued_kept {g : State} (x1 : List Nat) (x2 : State) (hk : Kept g x2) :
    Kept g (moveAllQueued x1 x2) := by
  induction x1 generalizing x2 with
  | nil => simp only [moveAllQueued]; with_reducible exact hk
  | cons c l ih =>
    simp only [moveAllQueued]
    iterate 12 (try any_goals first
      | with_reducible exact hk
      | with_reducible apply ih
      | with_reducible apply moveQueued_kept
      | with_reducible apply Kept.ite
      | split
      | with_reducible refine Kept.mk ?_ rfl rfl rfl rfl rfl rfl rfl rfl rfl rfl rfl rfl)

theorem setService_kept {g : State} (e : Nat) (on : Bool) (s : State) (hk : Kept g s) :
    Kept g (setService e on s) := by
  simp only [setService]
  iterate 12 (try any_goals first
    | with_reducible exact hk
    | with_reducible apply raiseEvent_kept
    | with_reducible apply State.setEngine_kept
    | with_reducible apply engineRec_kept
    | with_reducible apply Kept.ite
    | split
    | with_reducible refine Kept.mk ?_ rfl rfl rfl rfl rfl rfl rfl rfl rfl rfl rfl rfl)

theorem leaveService_kept {g : State} (e : Nat) (s : State) (hk : Kept g s) :
    Kept g (leaveService e s) := by
  simp only [leaveService]
  exact Kept.ite (moveAllQueued_kept _ _ (setService_kept _ _ _ hk)) hk

theorem abortEngine_kept {g : State} (e : Nat) (code : Nat) (s : State) (hk : Kept g s) :
    Kept g (abortEngine e code s) := by
  simp only [abortEngine]
  iterate 12 (try any_goals first
    | with_reducible exact hk
    | with_reducible apply lateComplete_kept
    | with_reducible apply State.setEngine_kept
    | with_reducible apply Kept.ite
    | split
    | with_reducible refine Kept.mk ?_ rfl rfl rfl rfl rfl rfl rfl rfl rfl rfl rfl rfl)

theorem engineFault_kept {g : State} (e : Nat) (sub : Nat) (s : State) (hk : Kept g s) :
    Kept g (engineFault e sub s) := by
  have e : ∀ (c : Prop) [Decidable c] t, Kept g t → Kept g (if c then raiseEvent .pke 0 0 t else t) := fun c _ t h =>
    Kept.ite (raiseEvent_kept _ _ _ _ h) h
  simp only [engineFault]
  exact leaveService_kept _ _ (raiseLogic_kept _ _ _ _ _ (e _ _ (State.setEngine_kept _ _ _
    (engineRec_kept _ _ _ (abortEngine_kept _ _ _ hk)))))

theorem abortBy_kept {g : State} (e : Nat) (cause : Nat) (s : State) (hk : Kept g s) :
    Kept g (abortBy e cause s) := by
  simp only [abortBy]
  iterate 12 (try any_goals first
    | with_reducible exact hk
    | with_reducible apply raiseEvent_kept
    | with_reducible apply State.setEngine_kept
    | with_reducible apply engineRec_kept
    | with_reducible apply abortEngine_kept
    | with_reducible apply engineFault_kept
    | with_reducible apply Kept.ite
    | split
    | with_reducible refine Kept.mk ?_ rfl rfl rfl rfl rfl rfl rfl rfl rfl rfl rfl rfl)

theorem takeQueued_kept {g : State} (e : Nat) (s : State) (hk : Kept g s) :
    Kept g (takeQueued e s) := by
  simp only [takeQueued]
  iterate 12 (try any_goals first
    | with_reducible exact hk
    | with_reducible apply State.setEngine_kept
    | with_reducible apply Kept.ite
    | split
    | with_reducible refine Kept.mk ?_ rfl rfl rfl rfl rfl rfl rfl rfl rfl rfl rfl rfl)

theorem squareBlind_kept {g : State} (op : PkeOp) (s : State) (hk : Kept g s) :
    Kept g (squareBlind op s) := by
  simp only [squareBlind]
  iterate 12 (try any_goals first
    | with_reducible exact hk
    | with_reducible apply Kept.ite
    | split
    | with_reducible refine Kept.mk ?_ rfl rfl rfl rfl rfl rfl rfl rfl rfl rfl rfl rfl)

theorem endValidation_kept {g : State} (e : Nat) (s : State) (hk : Kept g s) :
    Kept g (endValidation e s) := by
  simp only [endValidation]
  iterate 12 (try any_goals first
    | with_reducible exact hk
    | with_reducible apply lateComplete_kept
    | with_reducible apply State.setEngine_kept
    | with_reducible apply squareBlind_kept
    | with_reducible apply Kept.ite
    | split
    | with_reducible refine Kept.mk ?_ rfl rfl rfl rfl rfl rfl rfl rfl rfl rfl rfl rfl)

theorem releaseOp_kept {g : State} (op : PkeOp) (s : State) (hk : Kept g s) :
    Kept g (releaseOp op s) := by
  simp only [releaseOp]
  iterate 12 (try any_goals first
    | with_reducible exact hk
    | with_reducible apply lateComplete_kept
    | with_reducible apply Kept.ite
    | split
    | with_reducible refine Kept.mk ?_ rfl rfl rfl rfl rfl rfl rfl rfl rfl rfl rfl rfl)

theorem runOn_kept {g : State} (e : Nat) (op : Nat) (c0 : PkeCmd) (s : State) (hk : Kept g s) :
    Kept g (runOn e op c0 s) := by
  simp only [runOn]
  iterate 12 (try any_goals first
    | with_reducible exact hk
    | with_reducible apply freshValue_kept
    | with_reducible apply State.setEngine_kept
    | with_reducible apply engineFault_kept
    | with_reducible apply Kept.ite
    | split
    | with_reducible refine Kept.mk ?_ rfl rfl rfl rfl rfl rfl rfl rfl rfl rfl rfl rfl)

end Sys2Proof.Machine
end

