-- ==== Sys2Proof/Laws/KeptPkOps.lean ====
section
/-! SUPPORT. What the operations of Machine/PkOps.lean keep (Laws/Kept.lean), once for each. -/

namespace Sys2Proof.Machine

/-- A masked operation given in another state. -/
theorem runMasked_at {g : State} (op : PkeOp) (s t : State) (hk : Kept g s) (ht : Kept g t) :
    Kept g ((runMasked op t).after s) := by
  unfold runMasked
  exact dispatchPke_at _ _ _ hk (drawOwn_kept _ (drawOwn_kept _ ht))

theorem signDrawn_kept {g : State} (c : Curve) (d : Nat) (e : Nat) (fuel : Nat) (x1 : State) (hk : Kept g x1) :
    Kept g (signDrawn c d e fuel x1).2 := by
  induction fuel generalizing c d e x1 with
  | zero => simp only [signDrawn]; with_reducible exact hk
  | succ n ih =>
    simp only [signDrawn]
    iterate 12 (try any_goals first
      | with_reducible exact hk
      | with_reducible apply ih
      | with_reducible apply draw_kept
      | with_reducible apply Kept.ite
      | split
      | with_reducible refine Kept.mk ?_ rfl rfl rfl rfl rfl rfl rfl rfl rfl rfl rfl rfl)

end Sys2Proof.Machine
end

