-- ==== Sys2Proof/Laws/KeptSymOps.lean ====
section
/-! SUPPORT. What the operations of Machine/SymOps.lean keep (Laws/Kept.lean), once for each. -/

namespace Sys2Proof.Machine

theorem State.setSession_kept {g : State} (n : Nat) (v : TlsSession) (s : State) (hk : Kept g s)
    (hn : Tbl.wf s.tls.sessions = true → s.tls.sessions.length ≤ 8192 → (Tbl.put n v s.tls.sessions).length ≤ 8192) :
    Kept g (s.setSession n v) :=
  Kept.sessions hk fun a b => ⟨Tbl.put_wf _ _ _ a, hn a b⟩

theorem deriveTraffic_kept {g : State} (aes256 : Bool) (v : TlsSession) (s : State) (hk : Kept g s) :
    Kept g (deriveTraffic aes256 v s).2 := by
  simp only [deriveTraffic]
  iterate 12 (try any_goals first
    | with_reducible exact hk
    | with_reducible apply freshBytes_kept
    | with_reducible apply Kept.ite
    | split
    | with_reducible refine Kept.mk ?_ rfl rfl rfl rfl rfl rfl rfl rfl rfl rfl rfl rfl)

end Sys2Proof.Machine
end

