-- ==== Sys2Proof/Laws/KeptAccess.lean ====
section
/-! SUPPORT. What the operations of Machine/Access.lean keep (Laws/Kept.lean), once for each. -/

namespace Sys2Proof.Machine

theorem journalDenial_kept {g : State} (x : Access) (a : Nat) (s : State) (hk : Kept g s) :
    Kept g (journalDenial x a s) := by
  simp only [journalDenial]
  iterate 12 (try any_goals first
    | with_reducible exact hk
    | with_reducible apply raiseAlarm_kept
    | with_reducible apply Kept.ite
    | split
    | with_reducible refine Kept.mk ?_ rfl rfl rfl rfl rfl rfl rfl rfl rfl rfl rfl rfl)

theorem endDenied_kept {g : State} (i : WorkItem) (s : State) (hk : Kept g s) :
    Kept g (endDenied i s) := by
  simp only [endDenied]
  iterate 12 (try any_goals first
    | with_reducible exact hk
    | with_reducible apply securityRec_kept
    | with_reducible apply finishCtx_kept
    | with_reducible apply dropItem_kept
    | with_reducible apply freePacket_kept
    | with_reducible apply Kept.ite
    | split
    | with_reducible refine Kept.mk ?_ rfl rfl rfl rfl rfl rfl rfl rfl rfl rfl rfl rfl)

theorem denyCore_kept {g : State} (core : Nat) (s : State) (hk : Kept g s) :
    Kept g (denyCore core s) := by
  simp only [denyCore]
  iterate 12 (try any_goals first
    | with_reducible exact hk
    | with_reducible apply redispatch_kept
    | with_reducible apply failCore_kept
    | with_reducible apply endDenied_kept
    | with_reducible apply Kept.ite
    | split
    | with_reducible refine Kept.mk ?_ rfl rfl rfl rfl rfl rfl rfl rfl rfl rfl rfl rfl)

theorem denyConsequence_kept {g : State} (x : Access) (a : Nat) (s : State) (hk : Kept g s) :
    Kept g (denyConsequence x a s) := by
  simp only [denyConsequence]
  iterate 12 (try any_goals first
    | with_reducible exact hk
    | with_reducible apply raiseLogic_kept
    | with_reducible apply finishCtx_kept
    | with_reducible apply leaveCore_kept
    | with_reducible apply abortBy_kept
    | with_reducible apply denyCore_kept
    | with_reducible apply Kept.ite
    | split
    | with_reducible refine Kept.mk ?_ rfl rfl rfl rfl rfl rfl rfl rfl rfl rfl rfl rfl)

theorem deny_kept {g : State} (x : Access) (a : Nat) (s : State) (hk : Kept g s) :
    Kept g (deny x a s) := by
  simp only [deny]
  iterate 12 (try any_goals first
    | with_reducible exact hk
    | with_reducible apply raiseEvent_kept
    | with_reducible apply journalDenial_kept
    | with_reducible apply denyConsequence_kept
    | with_reducible apply Kept.ite
    | split
    | with_reducible refine Kept.mk ?_ rfl rfl rfl rfl rfl rfl rfl rfl rfl rfl rfl rfl)

theorem runPieces_kept {g : State} (x : Access) (x1 : List (Nat × Nat)) (x2 : State) (hk : Kept g x2) :
    Kept g (runPieces x x1 x2) := by
  induction x1 generalizing x x2 with
  | nil => simp only [runPieces]; with_reducible exact hk
  | cons c l ih =>
    simp only [runPieces]
    iterate 12 (try any_goals first
      | with_reducible exact hk
      | with_reducible apply ih
      | with_reducible apply emit_kept
      | with_reducible apply staleWrite_kept
      | with_reducible apply deny_kept
      | with_reducible apply access_kept
      | with_reducible apply Kept.ite
      | split
      | with_reducible refine Kept.mk ?_ rfl rfl rfl rfl rfl rfl rfl rfl rfl rfl rfl rfl)

theorem accessNow_kept {g : State} (x : Access) (s : State) (hk : Kept g s) :
    Kept g (accessNow x s) := by
  simp only [accessNow]
  iterate 12 (try any_goals first
    | with_reducible exact hk
    | with_reducible apply runPieces_kept
    | with_reducible apply Kept.ite
    | split
    | with_reducible refine Kept.mk ?_ rfl rfl rfl rfl rfl rfl rfl rfl rfl rfl rfl rfl)

theorem access_kept {g : State} (x : Access) (s : State) (hk : Kept g s) :
    Kept g (access x s) := by
  simp only [access]
  iterate 12 (try any_goals first
    | with_reducible exact hk
    | with_reducible apply accessNow_kept
    | with_reducible apply Kept.ite
    | split
    | with_reducible refine Kept.mk ?_ rfl rfl rfl rfl rfl rfl rfl rfl rfl rfl rfl rfl)

theorem runHeld_kept {g : State} (x1 : List Access) (x2 : State) (hk : Kept g x2) :
    Kept g (runHeld x1 x2) := by
  induction x1 generalizing x2 with
  | nil => simp only [runHeld]; with_reducible exact hk
  | cons c l ih =>
    simp only [runHeld]
    iterate 12 (try any_goals first
      | with_reducible exact hk
      | with_reducible apply ih
      | with_reducible apply access_kept
      | with_reducible apply Kept.ite
      | split
      | with_reducible refine Kept.mk ?_ rfl rfl rfl rfl rfl rfl rfl rfl rfl rfl rfl rfl)

theorem openWaiting_kept {g : State} (s : State) (hk : Kept g s) :
    Kept g (openWaiting s) := by
  simp only [openWaiting]
  iterate 12 (try any_goals first
    | with_reducible exact hk
    | with_reducible apply Kept.ite
    | split
    | with_reducible refine Kept.mk ?_ rfl rfl rfl rfl rfl rfl rfl rfl rfl rfl rfl rfl)

theorem afterUpdate_kept {g : State} (s : State) (hk : Kept g s) :
    Kept g (afterUpdate s) := by
  simp only [afterUpdate]
  iterate 12 (try any_goals first
    | with_reducible exact hk
    | with_reducible apply runHeld_kept
    | with_reducible apply openWaiting_kept
    | with_reducible apply Kept.ite
    | split
    | with_reducible refine Kept.mk ?_ rfl rfl rfl rfl rfl rfl rfl rfl rfl rfl rfl rfl)

theorem abortUpdate_kept {g : State} (u : Update) (s : State) (hk : Kept g s) :
    Kept g (abortUpdate u s) := by
  simp only [abortUpdate]
  iterate 12 (try any_goals first
    | with_reducible exact hk
    | with_reducible apply raiseEvent_kept
    | with_reducible apply raiseAlarm_kept
    | with_reducible apply afterUpdate_kept
    | with_reducible apply Kept.ite
    | split
    | with_reducible refine Kept.mk ?_ rfl rfl rfl rfl rfl rfl rfl rfl rfl rfl rfl rfl)

end Sys2Proof.Machine
end

