-- ==== Sys2Proof/Laws/KeptCopies.lean ====
section
/-! SUPPORT. What the operations of Machine/Copies.lean keep (Laws/Kept.lean), once for each. -/

namespace Sys2Proof.Machine

theorem State.updRt_kept {g0 : State} (n : Nat) (old : Bool) (g : EntryRt → EntryRt) (s : State) (hk : Kept g0 s) :
    Kept g0 (State.updRt n old g s) := by
  simp only [State.updRt]
  iterate 12 (try any_goals first
    | with_reducible exact hk
    | with_reducible apply Kept.ite
    | split
    | with_reducible refine Kept.mk ?_ rfl rfl rfl rfl rfl rfl rfl rfl rfl rfl rfl rfl)

theorem State.updCounters_kept {g0 : State} (n : Nat) (old : Bool) (g : List Nat → List Nat) (s : State) (hk : Kept g0 s) :
    Kept g0 (State.updCounters n old g s) := by
  simp only [State.updCounters]
  iterate 12 (try any_goals first
    | with_reducible exact hk
    | with_reducible apply Kept.ite
    | split
    | with_reducible refine Kept.mk ?_ rfl rfl rfl rfl rfl rfl rfl rfl rfl rfl rfl rfl)

theorem bumpStream_kept {g : State} (n : Nat) (old : Bool) (i : Nat) (s : State) (hk : Kept g s) :
    Kept g (bumpStream n old i s) := by
  simp only [bumpStream]
  iterate 12 (try any_goals first
    | with_reducible exact hk
    | with_reducible apply State.updCounters_kept
    | with_reducible apply Kept.ite
    | split
    | with_reducible refine Kept.mk ?_ rfl rfl rfl rfl rfl rfl rfl rfl rfl rfl rfl rfl)

theorem counterError_kept {g : State} (n : Nat) (old : Bool) (s : State) (hk : Kept g s) :
    Kept g (counterError n old s) := by
  simp only [counterError]
  iterate 12 (try any_goals first
    | with_reducible exact hk
    | with_reducible apply raiseEvent_kept
    | with_reducible apply stageRec_kept
    | with_reducible apply streamEvent_kept
    | with_reducible apply State.updCounters_kept
    | with_reducible apply Kept.ite
    | split
    | with_reducible refine Kept.mk ?_ rfl rfl rfl rfl rfl rfl rfl rfl rfl rfl rfl rfl)

theorem takeCapture_kept {g : State} (log : Nat) (f : Nat) (group : Nat) (stamp : Nat) (bytes : Nat) (s : State) (hk : Kept g s) :
    Kept g (takeCapture log f group stamp bytes s).2 := by
  simp only [takeCapture]
  iterate 12 (try any_goals first
    | with_reducible exact hk
    | with_reducible apply refuseCapture_kept
    | with_reducible apply countWindows_kept
    | with_reducible apply Kept.ite
    | split
    | with_reducible refine Kept.mk ?_ rfl rfl rfl rfl rfl rfl rfl rfl rfl rfl rfl rfl)

theorem takeCaptures_kept {g : State} (ring : Bool) (window : Bool) (f : Nat) (group : Nat) (stamp : Nat) (bytes : Nat) (s : State) (hk : Kept g s) :
    Kept g (takeCaptures ring window f group stamp bytes s).2.2 := by
  simp only [takeCaptures]
  iterate 12 (try any_goals first
    | with_reducible exact hk
    | with_reducible apply takeCapture_kept
    | with_reducible apply Kept.ite
    | split
    | with_reducible refine Kept.mk ?_ rfl rfl rfl rfl rfl rfl rfl rfl rfl rfl rfl rfl)

theorem stageCaptures_kept {g : State} (ring : Bool) (window : Bool) (owner : Nat) (group : Nat) (quality : Nat) (stamp : Nat) (body : RecBody) (s : State) (hk : Kept g s) :
    Kept g (stageCaptures ring window owner group quality stamp body s) := by
  simp only [stageCaptures]
  iterate 12 (try any_goals first
    | with_reducible exact hk
    | with_reducible apply stageWith_kept
    | with_reducible apply Kept.ite
    | split
    | with_reducible refine Kept.mk ?_ rfl rfl rfl rfl rfl rfl rfl rfl rfl rfl rfl rfl)

theorem finishFrame_kept {g : State} (fr : TxFrame) (s : State) (hk : Kept g s) :
    Kept g (finishFrame fr s) := by
  simp only [finishFrame]
  iterate 12 (try any_goals first
    | with_reducible exact hk
    | with_reducible apply lateComplete_kept
    | with_reducible apply stageCaptures_kept
    | with_reducible apply Kept.ite
    | split
    | with_reducible refine Kept.mk ?_ rfl rfl rfl rfl rfl rfl rfl rfl rfl rfl rfl rfl)

theorem dequeue_kept {g : State} (c : TxCopy) (s : State) (hk : Kept g s) :
    Kept g (dequeue c s) := by
  simp only [dequeue]
  iterate 12 (try any_goals first
    | with_reducible exact hk
    | with_reducible apply State.updPort_kept
    | with_reducible apply Kept.ite
    | split
    | with_reducible refine Kept.mk ?_ rfl rfl rfl rfl rfl rfl rfl rfl rfl rfl rfl rfl)

theorem endCopy_kept {g : State} (c : TxCopy) (fr : TxFrame) (d : CopyDesc) (s : State) (hk : Kept g s) :
    Kept g (endCopy c fr d s) := by
  simp only [endCopy]
  iterate 12 (try any_goals first
    | with_reducible exact hk
    | with_reducible apply finishFrame_kept
    | with_reducible apply dequeue_kept
    | with_reducible apply Kept.ite
    | split
    | with_reducible refine Kept.mk ?_ rfl rfl rfl rfl rfl rfl rfl rfl rfl rfl rfl rfl)

theorem missDeadline_kept {g : State} (fr : TxFrame) (port : Nat) (stamp : Nat) (dropped : Bool) (s : State) (hk : Kept g s) :
    Kept g (missDeadline fr port stamp dropped s) := by
  simp only [missDeadline]
  iterate 12 (try any_goals first
    | with_reducible exact hk
    | with_reducible apply raiseEvent_kept
    | with_reducible apply streamEvent_kept
    | with_reducible apply bumpStream_kept
    | with_reducible apply Kept.ite
    | split
    | with_reducible refine Kept.mk ?_ rfl rfl rfl rfl rfl rfl rfl rfl rfl rfl rfl rfl)

theorem noteResidence_kept {g : State} (fr : TxFrame) (stamp : Nat) (s : State) (hk : Kept g s) :
    Kept g (noteResidence fr stamp s) := by
  simp only [noteResidence]
  iterate 12 (try any_goals first
    | with_reducible exact hk
    | with_reducible apply State.updCounters_kept
    | with_reducible apply Kept.ite
    | split
    | with_reducible refine Kept.mk ?_ rfl rfl rfl rfl rfl rfl rfl rfl rfl rfl rfl rfl)

theorem discardLate_kept {g : State} (c : TxCopy) (fr : TxFrame) (s : State) (hk : Kept g s) :
    Kept g (discardLate c fr s) := by
  simp only [discardLate]
  iterate 12 (try any_goals first
    | with_reducible exact hk
    | with_reducible apply endCopy_kept
    | with_reducible apply missDeadline_kept
    | with_reducible apply noteResidence_kept
    | with_reducible apply Kept.ite
    | split
    | with_reducible refine Kept.mk ?_ rfl rfl rfl rfl rfl rfl rfl rfl rfl rfl rfl rfl)

theorem losePort_kept {g : State} (counter : Nat) (c : TxCopy) (fr : TxFrame) (s : State) (hk : Kept g s) :
    Kept g (losePort counter c fr s) := by
  simp only [losePort]
  iterate 12 (try any_goals first
    | with_reducible exact hk
    | with_reducible apply bumpPort_kept
    | with_reducible apply endCopy_kept
    | with_reducible apply Kept.ite
    | split
    | with_reducible refine Kept.mk ?_ rfl rfl rfl rfl rfl rfl rfl rfl rfl rfl rfl rfl)

theorem discardAll_kept {g : State} (x1 : List TxCopy) (x2 : State) (hk : Kept g x2) :
    Kept g (discardAll x1 x2) := by
  induction x1 generalizing x2 with
  | nil => simp only [discardAll]; with_reducible exact hk
  | cons c l ih =>
    simp only [discardAll]
    iterate 12 (try any_goals first
      | with_reducible exact hk
      | with_reducible apply ih
      | with_reducible apply discardLate_kept
      | with_reducible apply Kept.ite
      | split
      | with_reducible refine Kept.mk ?_ rfl rfl rfl rfl rfl rfl rfl rfl rfl rfl rfl rfl)

theorem loseWaiting_kept {g : State} (counter : Nat) (c : TxCopy) (s : State) (hk : Kept g s) :
    Kept g (loseWaiting counter c s) := by
  simp only [loseWaiting]
  iterate 12 (try any_goals first
    | with_reducible exact hk
    | with_reducible apply bumpPort_kept
    | with_reducible apply dequeue_kept
    | with_reducible apply losePort_kept
    | with_reducible apply Kept.ite
    | split
    | with_reducible refine Kept.mk ?_ rfl rfl rfl rfl rfl rfl rfl rfl rfl rfl rfl rfl)

theorem loseAll_kept {g : State} (counter : Nat) (x1 : List TxCopy) (x2 : State) (hk : Kept g x2) :
    Kept g (loseAll counter x1 x2) := by
  induction x1 generalizing counter x2 with
  | nil => simp only [loseAll]; with_reducible exact hk
  | cons c l ih =>
    simp only [loseAll]
    iterate 12 (try any_goals first
      | with_reducible exact hk
      | with_reducible apply ih
      | with_reducible apply loseWaiting_kept
      | with_reducible apply Kept.ite
      | split
      | with_reducible refine Kept.mk ?_ rfl rfl rfl rfl rfl rfl rfl rfl rfl rfl rfl rfl)

theorem lateMacsec_kept {g : State} (c : TxCopy) (bytes : Bytes) (s : State) (hk : Kept g s) :
    Kept g (lateMacsec c bytes s).2 := by
  unfold lateMacsec
  split
  · exact hk
  · split
    · exact hk
    · exact applyMacsec_kept _ _ _ hk

theorem countSent_kept {g : State} (p : Nat) (len : Nat) (macsec : Option MacsecOut) (s : State) (hk : Kept g s) :
    Kept g (countSent p len macsec s) := by
  simp only [countSent]
  iterate 12 (try any_goals first
    | with_reducible exact hk
    | with_reducible apply bumpPort_kept
    | with_reducible apply Kept.ite
    | split
    | with_reducible refine Kept.mk ?_ rfl rfl rfl rfl rfl rfl rfl rfl rfl rfl rfl rfl)

theorem transmit_kept {g : State} (c : TxCopy) (fr : TxFrame) (stamp : Nat) (macsec : Option MacsecOut) (s : State) (hk : Kept g s) :
    Kept g (transmit c fr stamp macsec s) := by
  simp only [transmit]
  iterate 12 (try any_goals first
    | with_reducible exact hk
    | with_reducible apply emit_kept
    | with_reducible apply bumpStream_kept
    | with_reducible apply endCopy_kept
    | with_reducible apply missDeadline_kept
    | with_reducible apply noteResidence_kept
    | with_reducible apply countSent_kept
    | with_reducible apply Kept.ite
    | split
    | with_reducible refine Kept.mk ?_ rfl rfl rfl rfl rfl rfl rfl rfl rfl rfl rfl rfl)

theorem startCopy_kept {g : State} (c : TxCopy) (fr : TxFrame) (stamp : Nat) (s : State) (hk : Kept g s) :
    Kept g (startCopy c fr stamp s) := by
  simp only [startCopy]
  iterate 12 (try any_goals first
    | with_reducible exact hk
    | with_reducible apply bumpPort_kept
    | with_reducible apply endCopy_kept
    | with_reducible apply missDeadline_kept
    | with_reducible apply noteResidence_kept
    | with_reducible apply discardLate_kept
    | with_reducible apply losePort_kept
    | with_reducible apply lateMacsec_kept
    | with_reducible apply transmit_kept
    | with_reducible apply Kept.ite
    | split
    | with_reducible refine Kept.mk ?_ rfl rfl rfl rfl rfl rfl rfl rfl rfl rfl rfl rfl)

theorem startCore_kept {g : State} (c : TxCopy) (src : Nat) (x : CoreFrame) (stamp : Nat) (s : State) (hk : Kept g s) :
    Kept g (startCore c src x stamp s) := by
  simp only [startCore]
  iterate 12 (try any_goals first
    | with_reducible exact hk
    | with_reducible apply emit_kept
    | with_reducible apply bumpPort_kept
    | with_reducible apply sendPort_kept
    | with_reducible apply dequeue_kept
    | with_reducible apply loseWaiting_kept
    | with_reducible apply lateMacsec_kept
    | with_reducible apply countSent_kept
    | with_reducible apply Kept.ite
    | split
    | with_reducible refine Kept.mk ?_ rfl rfl rfl rfl rfl rfl rfl rfl rfl rfl rfl rfl)

theorem loseNew_kept {g : State} (counter : Nat) (c : TxCopy) (fr : TxFrame) (s : State) (hk : Kept g s) :
    Kept g (loseNew counter c fr s) := by
  simp only [loseNew]
  iterate 12 (try any_goals first
    | with_reducible exact hk
    | with_reducible apply losePort_kept
    | with_reducible apply Kept.ite
    | split
    | with_reducible refine Kept.mk ?_ rfl rfl rfl rfl rfl rfl rfl rfl rfl rfl rfl rfl)

theorem handCopy_kept {g : State} (fid : Nat) (port : Nat) (redSeq : Option Nat) (e : Entry) (vlan : Option (Nat × Nat)) (s : State) (hk : Kept g s) :
    Kept g (handCopy fid port redSeq e vlan s) := by
  simp only [handCopy]
  iterate 12 (try any_goals first
    | with_reducible exact hk
    | with_reducible apply enqueue_kept
    | with_reducible apply lateMacsec_kept
    | with_reducible apply loseNew_kept
    | with_reducible apply linkUp_kept
    | with_reducible apply Kept.ite
    | split
    | with_reducible refine Kept.mk ?_ rfl rfl rfl rfl rfl rfl rfl rfl rfl rfl rfl rfl)

theorem handCopies_kept {g : State} (fid : Nat) (e : Entry) (vlan : Option (Nat × Nat)) (seqs : Nat → Nat) (x1 : List (Nat × Option Nat)) (x2 : State) (hk : Kept g x2) :
    Kept g (handCopies fid e vlan seqs x1 x2) := by
  induction x1 generalizing fid e vlan seqs x2 with
  | nil => simp only [handCopies]; with_reducible exact hk
  | cons c l ih =>
    simp only [handCopies]
    iterate 12 (try any_goals first
      | with_reducible exact hk
      | with_reducible apply ih
      | with_reducible apply handCopy_kept
      | with_reducible apply Kept.ite
      | split
      | with_reducible refine Kept.mk ?_ rfl rfl rfl rfl rfl rfl rfl rfl rfl rfl rfl rfl)

theorem handOff_kept {g : State} (fr : TxFrame) (e : Entry) (passed : Bool) (vlan : Option (Nat × Nat)) (inner : Option (Nat × Nat)) (s : State) (hk : Kept g s) :
    Kept g (handOff fr e passed vlan inner s) := by
  simp only [handOff]
  iterate 12 (try any_goals first
    | with_reducible exact hk
    | with_reducible apply takeSeqs_kept
    | with_reducible apply takeCaptures_kept
    | with_reducible apply finishFrame_kept
    | with_reducible apply handCopies_kept
    | with_reducible apply Kept.ite
    | split
    | with_reducible refine Kept.mk ?_ rfl rfl rfl rfl rfl rfl rfl rfl rfl rfl rfl rfl)

end Sys2Proof.Machine
end

