-- ==== Sys2Proof/Laws/KeptIntegrity.lean ====
section
/-! SUPPORT. What the operations of Machine/Integrity.lean keep (Laws/Kept.lean), once for each. -/

namespace Sys2Proof.Machine

theorem markEntry_kept {g : State} (f : Nat) (entry : Nat) (standby : Bool) (s : State) (hk : Kept g s) :
    Kept g (markEntry f entry standby s) := by
  simp only [markEntry]
  iterate 12 (try any_goals first
    | with_reducible exact hk
    | with_reducible apply keyEdges_kept
    | with_reducible apply Kept.ite
    | split
    | with_reducible refine Kept.mk ?_ rfl rfl rfl rfl rfl rfl rfl rfl rfl rfl rfl rfl)

theorem markPacket_kept {g : State} (q : Nat) (index : Nat) (at_ : Nat) (s : State) (hk : Kept g s) :
    Kept g (markPacket q index at_ s) := by
  simp only [markPacket]
  iterate 12 (try any_goals first
    | with_reducible exact hk
    | with_reducible apply State.setQueue_kept
    | with_reducible apply Kept.ite
    | split
    | with_reducible refine Kept.mk ?_ rfl rfl rfl rfl rfl rfl rfl rfl rfl rfl rfl rfl)

theorem dropPad_kept {g : State} (entry : Nat) (position : Nat) (next : Bool) (s : State) (hk : Kept g s) :
    Kept g (dropPad entry position next s) := by
  simp only [dropPad]
  iterate 12 (try any_goals first
    | with_reducible exact hk
    | with_reducible apply Kept.ite
    | split
    | with_reducible refine Kept.mk ?_ rfl rfl rfl rfl rfl rfl rfl rfl rfl rfl rfl rfl)

theorem ctxError_kept {g : State} (id : Nat) (working : Bool) (s : State) (hk : Kept g s) :
    Kept g (ctxError id working s) := by
  exact Kept.congr hk (by simp) (by simp) (by simp) (by simp) (by simp) (by simp) (by simp) (by simp) (by simp) (by simp) (by simp) (by simp)

theorem stagingError_kept {g : State} (index : Nat) (stampRead : Bool) (s : State) (hk : Kept g s) :
    Kept g (stagingError index stampRead s) := by
  simp only [stagingError]
  iterate 12 (try any_goals first
    | with_reducible exact hk
    | with_reducible apply stageRec_kept
    | with_reducible apply Kept.ite
    | split
    | with_reducible refine Kept.mk ?_ rfl rfl rfl rfl rfl rfl rfl rfl rfl rfl rfl rfl)

theorem tableError_kept {g : State} (imageOk : Bool) (addr : Nat) (s : State) (hk : Kept g s) :
    Kept g (tableError imageOk addr s) := by
  simp only [tableError]
  iterate 12 (try any_goals first
    | with_reducible exact hk
    | with_reducible apply raiseLogic_kept
    | with_reducible apply Kept.ite
    | split
    | with_reducible refine Kept.mk ?_ rfl rfl rfl rfl rfl rfl rfl rfl rfl rfl rfl rfl)

theorem keyError_kept {g : State} (handle : Nat) (s : State) (hk : Kept g s) :
    Kept g (keyError handle s) := by
  simp only [keyError]
  iterate 12 (try any_goals first
    | with_reducible exact hk
    | with_reducible apply keyEdges_kept
    | with_reducible apply Kept.ite
    | split
    | with_reducible refine Kept.mk ?_ rfl rfl rfl rfl rfl rfl rfl rfl rfl rfl rfl rfl)

theorem delayError_kept {g : State} (list : Nat) (s : State) (hk : Kept g s) :
    Kept g (delayError list s) := by
  simp only [delayError]
  iterate 12 (try any_goals first
    | with_reducible exact hk
    | with_reducible apply Kept.ite
    | split
    | with_reducible refine Kept.mk ?_ rfl rfl rfl rfl rfl rfl rfl rfl rfl rfl rfl rfl)

theorem lostStamp_kept {g : State} (copy : Nat) (s : State) (hk : Kept g s) :
    Kept g (lostStamp copy s) := by
  simp only [lostStamp]
  iterate 12 (try any_goals first
    | with_reducible exact hk
    | with_reducible apply endCopy_kept
    | with_reducible apply Kept.ite
    | split
    | with_reducible refine Kept.mk ?_ rfl rfl rfl rfl rfl rfl rfl rfl rfl rfl rfl rfl)

theorem recover_kept {g : State} (addr : Nat) (e : MemErr) (s : State) (hk : Kept g s) :
    Kept g (recover addr e s) := by
  simp only [recover]
  iterate 12 (try any_goals first
    | with_reducible exact hk
    | with_reducible apply coreError_kept
    | with_reducible apply instantiate_kept
    | with_reducible apply flushBellows_kept
    | with_reducible apply abortBy_kept
    | with_reducible apply markEntry_kept
    | with_reducible apply markPacket_kept
    | with_reducible apply dropPad_kept
    | with_reducible apply ctxError_kept
    | with_reducible apply stagingError_kept
    | with_reducible apply tableError_kept
    | with_reducible apply keyError_kept
    | with_reducible apply delayError_kept
    | with_reducible apply lostStamp_kept
    | with_reducible apply Kept.ite
    | split
    | with_reducible refine Kept.mk ?_ rfl rfl rfl rfl rfl rfl rfl rfl rfl rfl rfl rfl)

theorem burstCheck_kept {g : State} (addr : Nat) (region : Nat) (s : State) (hk : Kept g s) :
    Kept g (burstCheck addr region s) := by
  simp only [burstCheck]
  iterate 12 (try any_goals first
    | with_reducible exact hk
    | with_reducible apply raiseLogic_kept
    | with_reducible apply Kept.ite
    | split
    | with_reducible refine Kept.mk ?_ rfl rfl rfl rfl rfl rfl rfl rfl rfl rfl rfl rfl)

theorem memoryError_kept {g : State} (addr : Nat) (e : MemErr) (s : State) (hk : Kept g s) :
    Kept g (memoryError addr e s) := by
  simp only [memoryError]
  iterate 12 (try any_goals first
    | with_reducible exact hk
    | with_reducible apply raiseEvent_kept
    | with_reducible apply recover_kept
    | with_reducible apply burstCheck_kept
    | with_reducible apply Kept.ite
    | split
    | with_reducible refine Kept.mk ?_ rfl rfl rfl rfl rfl rfl rfl rfl rfl rfl rfl rfl)

end Sys2Proof.Machine
end

