-- ==== Sys2Proof/Laws/KeptPlan.lean ====
section
/-! SUPPORT. What the operations of Machine/Plan.lean keep (Laws/Kept.lean), once for each. -/

namespace Sys2Proof.Machine

theorem forParts_kept {g : State} (test : Partition → Bool) (act : Nat → Partition → State → State)
    (h : ∀ f v s, Kept g s → Kept g (act f v s)) (l : Tbl Partition) (s : State) (hk : Kept g s) :
    Kept g (forParts test act l s) := by
  induction l generalizing s with
  | nil => exact hk
  | cons c l ih =>
    simp only [forParts]
    exact ih _ (Kept.ite (h _ _ _ hk) hk)

theorem planEvent_kept {g : State} (f : Nat) (version : Nat) (transition : Nat) (reason : Nat) (s : State) (hk : Kept g s) :
    Kept g (planEvent f version transition reason s) := by
  simp only [planEvent]
  iterate 12 (try any_goals first
    | with_reducible exact hk
    | with_reducible apply stageRec_kept
    | with_reducible apply Kept.ite
    | split
    | with_reducible refine Kept.mk ?_ rfl rfl rfl rfl rfl rfl rfl rfl rfl rfl rfl rfl)

theorem State.setPart_kept {g : State} (f : Nat) (p : Partition) (s : State) (hk : Kept g s) :
    Kept g (State.setPart f p s) := by
  simp only [State.setPart]
  iterate 12 (try any_goals first
    | with_reducible exact hk
    | with_reducible apply Kept.ite
    | split
    | with_reducible refine Kept.mk ?_ rfl rfl rfl rfl rfl rfl rfl rfl rfl rfl rfl rfl)

theorem moveStandby_kept {g : State} (f : Nat) (p : Partition) (p' : Partition) (s : State) (hk : Kept g s) :
    Kept g (moveStandby f p p' s) := by
  simp only [moveStandby]
  iterate 12 (try any_goals first
    | with_reducible exact hk
    | with_reducible apply planEvent_kept
    | with_reducible apply State.setPart_kept
    | with_reducible apply Kept.ite
    | split
    | with_reducible refine Kept.mk ?_ rfl rfl rfl rfl rfl rfl rfl rfl rfl rfl rfl rfl)

theorem beginLoad_kept {g : State} (f : Nat) (p : Partition) (own : Bool) (s : State) (hk : Kept g s) :
    Kept g ((beginLoad f p own s).after s) := by
  simp only [beginLoad]
  (repeat' split) <;> simp only [after_done, after_running, after_wait, after_busy]
  all_goals iterate 12 (try any_goals first
    | with_reducible exact hk
    | with_reducible apply State.setPart_kept
    | with_reducible apply moveStandby_kept
    | with_reducible apply Kept.ite
    | split
    | with_reducible refine Kept.mk ?_ rfl rfl rfl rfl rfl rfl rfl rfl rfl rfl rfl rfl)

theorem endLoad_kept {g : State} (f : Nat) (length : Nat) (i : PlanImage) (p : Partition) (s : State) (hk : Kept g s) :
    Kept g ((endLoad f length i p s).after s) := by
  simp only [endLoad]
  (repeat' split) <;> simp only [after_done, after_running, after_wait, after_busy]
  all_goals iterate 12 (try any_goals first
    | with_reducible exact hk
    | with_reducible apply storeImage_kept
    | with_reducible apply dropImage_kept
    | with_reducible apply leaveLoading_kept
    | with_reducible apply moveStandby_kept
    | with_reducible apply Kept.ite
    | split
    | with_reducible refine Kept.mk ?_ rfl rfl rfl rfl rfl rfl rfl rfl rfl rfl rfl rfl)

theorem armPlan_kept {g : State} (f : Nat) (p : Partition) (rollback : Bool) (sec : Nat) (rate : Nat) (slot : Nat) (s : State) (hk : Kept g s) :
    Kept g ((armPlan f p rollback sec rate slot s).after s) := by
  simp only [armPlan]
  (repeat' split) <;> simp only [after_done, after_running, after_wait, after_busy]
  all_goals iterate 12 (try any_goals first
    | with_reducible exact hk
    | with_reducible apply moveStandby_kept
    | with_reducible apply Kept.ite
    | split
    | with_reducible refine Kept.mk ?_ rfl rfl rfl rfl rfl rfl rfl rfl rfl rfl rfl rfl)

theorem genRecords_kept {g : State} (f : Nat) (x1 : List Nat) (x2 : State) (hk : Kept g x2) :
    Kept g (genRecords f x1 x2) := by
  induction x1 generalizing f x2 with
  | nil => simp only [genRecords]; with_reducible exact hk
  | cons c l ih =>
    simp only [genRecords]
    iterate 12 (try any_goals first
      | with_reducible exact hk
      | with_reducible apply ih
      | with_reducible apply keyEvent_kept
      | with_reducible apply Kept.ite
      | split
      | with_reducible refine Kept.mk ?_ rfl rfl rfl rfl rfl rfl rfl rfl rfl rfl rfl rfl)

theorem angleCheck_kept {g : State} (s : State) (hk : Kept g s) :
    Kept g (angleCheck s) := by
  simp only [angleCheck]
  iterate 12 (try any_goals first
    | with_reducible exact hk
    | with_reducible apply noteSck_kept
    | with_reducible apply loseAngle_kept
    | with_reducible apply Kept.ite
    | split
    | with_reducible refine Kept.mk ?_ rfl rfl rfl rfl rfl rfl rfl rfl rfl rfl rfl rfl)

theorem releasePart_kept {g : State} (f : Nat) (p : Partition) (s : State) (hk : Kept g s) :
    Kept g (releasePart f p s) := by
  simp only [releasePart]
  iterate 12 (try any_goals first
    | with_reducible exact hk
    | with_reducible apply dropImage_kept
    | with_reducible apply planEvent_kept
    | with_reducible apply genRecords_kept
    | with_reducible apply angleCheck_kept
    | with_reducible apply Kept.ite
    | split
    | with_reducible refine Kept.mk ?_ rfl rfl rfl rfl rfl rfl rfl rfl rfl rfl rfl rfl)

theorem retireEntry_kept {g : State} (f : Nat) (new : Tbl Entry) (n : Nat) (e : Entry) (s : State) (hk : Kept g s) :
    Kept g (retireEntry f new n e s) := by
  simp only [retireEntry]
  iterate 12 (try any_goals first
    | with_reducible exact hk
    | with_reducible apply stageWith_kept
    | with_reducible apply Kept.ite
    | split
    | with_reducible refine Kept.mk ?_ rfl rfl rfl rfl rfl rfl rfl rfl rfl rfl rfl rfl)

theorem retireAll_kept {g : State} (f : Nat) (new : Tbl Entry) (x1 : Tbl Entry) (x2 : State) (hk : Kept g x2) :
    Kept g (retireAll f new x1 x2) := by
  induction x1 generalizing f new x2 with
  | nil => simp only [retireAll]; with_reducible exact hk
  | cons c l ih =>
    simp only [retireAll]
    iterate 12 (try any_goals first
      | with_reducible exact hk
      | with_reducible apply ih
      | with_reducible apply retireEntry_kept
      | with_reducible apply Kept.ite
      | split
      | with_reducible refine Kept.mk ?_ rfl rfl rfl rfl rfl rfl rfl rfl rfl rfl rfl rfl)

theorem swapPart_kept {g : State} (f : Nat) (t : Nat) (p : Partition) (s : State) (hk : Kept g s) :
    Kept g (swapPart f t p s) := by
  simp only [swapPart]
  iterate 12 (try any_goals first
    | with_reducible exact hk
    | with_reducible apply keyEdges_kept
    | with_reducible apply planEvent_kept
    | with_reducible apply State.setPart_kept
    | with_reducible apply angleCheck_kept
    | with_reducible apply retireAll_kept
    | with_reducible apply Kept.ite
    | split
    | with_reducible refine Kept.mk ?_ rfl rfl rfl rfl rfl rfl rfl rfl rfl rfl rfl rfl)

theorem reachInstant_kept {g : State} (f : Nat) (p : Partition) (s : State) (hk : Kept g s) :
    Kept g (reachInstant f p s) := by
  simp only [reachInstant]
  iterate 12 (try any_goals first
    | with_reducible exact hk
    | with_reducible apply planEvent_kept
    | with_reducible apply State.setPart_kept
    | with_reducible apply swapPart_kept
    | with_reducible apply Kept.ite
    | split
    | with_reducible refine Kept.mk ?_ rfl rfl rfl rfl rfl rfl rfl rfl rfl rfl rfl rfl)

theorem drainRecords_kept {g : State} (f : Nat) (old : Tbl Entry) (x1 : Tbl (List Nat)) (x2 : State) (hk : Kept g x2) :
    Kept g (drainRecords f old x1 x2) := by
  induction x1 generalizing f old x2 with
  | nil => simp only [drainRecords]; with_reducible exact hk
  | cons c l ih =>
    simp only [drainRecords]
    iterate 12 (try any_goals first
      | with_reducible exact hk
      | with_reducible apply ih
      | with_reducible apply stageWith_kept
      | with_reducible apply Kept.ite
      | split
      | with_reducible refine Kept.mk ?_ rfl rfl rfl rfl rfl rfl rfl rfl rfl rfl rfl rfl)

theorem endDrain_kept {g : State} (f : Nat) (p : Partition) (s : State) (hk : Kept g s) :
    Kept g (endDrain f p s) := by
  simp only [endDrain]
  iterate 12 (try any_goals first
    | with_reducible exact hk
    | with_reducible apply dropImage_kept
    | with_reducible apply moveStandby_kept
    | with_reducible apply Kept.ite
    | split
    | with_reducible refine Kept.mk ?_ rfl rfl rfl rfl rfl rfl rfl rfl rfl rfl rfl rfl)

theorem entryBack_kept {g : State} (n : Nat) (standby : Bool) (t : Nat) (s : State) (hk : Kept g s) :
    Kept g (entryBack n standby t s) := by
  simp only [entryBack]
  iterate 12 (try any_goals first
    | with_reducible exact hk
    | with_reducible apply endCond_kept
    | with_reducible apply State.updRt_kept
    | with_reducible apply Kept.ite
    | split
    | with_reducible refine Kept.mk ?_ rfl rfl rfl rfl rfl rfl rfl rfl rfl rfl rfl rfl)

theorem endRebuild_kept {g : State} (n : Nat) (standby : Bool) (s : State) (hk : Kept g s) :
    Kept g (endRebuild n standby s) := by
  simp only [endRebuild]
  iterate 12 (try any_goals first
    | with_reducible exact hk
    | with_reducible apply entryBack_kept
    | with_reducible apply Kept.ite
    | split
    | with_reducible refine Kept.mk ?_ rfl rfl rfl rfl rfl rfl rfl rfl rfl rfl rfl rfl)

theorem startRebuild_kept {g : State} (n : Nat) (standby : Bool) (s : State) (hk : Kept g s) :
    Kept g (startRebuild n standby s) := by
  simp only [startRebuild]
  iterate 12 (try any_goals first
    | with_reducible exact hk
    | with_reducible apply Kept.ite
    | split
    | with_reducible refine Kept.mk ?_ rfl rfl rfl rfl rfl rfl rfl rfl rfl rfl rfl rfl)

theorem rebuildEach_kept {g : State} (done : Bool) (x1 : List (Nat × Bool)) (x2 : State) (hk : Kept g x2) :
    Kept g (rebuildEach done x1 x2) := by
  induction x1 generalizing done x2 with
  | nil => simp only [rebuildEach]; with_reducible exact hk
  | cons c l ih =>
    simp only [rebuildEach]
    iterate 12 (try any_goals first
      | with_reducible exact hk
      | with_reducible apply ih
      | with_reducible apply endRebuild_kept
      | with_reducible apply startRebuild_kept
      | with_reducible apply Kept.ite
      | split
      | with_reducible refine Kept.mk ?_ rfl rfl rfl rfl rfl rfl rfl rfl rfl rfl rfl rfl)

theorem snapshotAll_kept {g : State} (f : Nat) (n : Nat) (first : Nat) (x1 : State) (hk : Kept g x1) :
    Kept g (snapshotAll f n first x1) := by
  induction n generalizing f first x1 with
  | zero => simp only [snapshotAll]; with_reducible exact hk
  | succ n ih =>
    simp only [snapshotAll]
    iterate 12 (try any_goals first
      | with_reducible exact hk
      | with_reducible apply ih
      | with_reducible apply stageRec_kept
      | with_reducible apply Kept.ite
      | split
      | with_reducible refine Kept.mk ?_ rfl rfl rfl rfl rfl rfl rfl rfl rfl rfl rfl rfl)

theorem reachStamp_kept {g : State} (stamp : Nat) (s : State) (hk : Kept g s) :
    Kept g (reachStamp stamp s) := by
  simp only [reachStamp]
  exact forParts_kept _ _ (fun f v r h => reachInstant_kept f v r h) _ _
    (forParts_kept _ _ (fun f v r h => releasePart_kept f v r h) _ _ hk)

end Sys2Proof.Machine
end

