-- ==== Sys2Proof/Laws/KeptFrame.lean ====
section
/-! SUPPORT. What the operations of Machine/Frame.lean keep (Laws/Kept.lean), once for each. -/

namespace Sys2Proof.Machine

theorem jobEvent_kept {g : State} (j : Job) (cause : Nat) (action : Nat) (forwarded : Nat) (dropped : Nat) (s : State) (hk : Kept g s) :
    Kept g (jobEvent j cause action forwarded dropped s) := by
  simp only [jobEvent]
  iterate 12 (try any_goals first
    | with_reducible exact hk
    | with_reducible apply streamEvent_kept
    | with_reducible apply Kept.ite
    | split
    | with_reducible refine Kept.mk ?_ rfl rfl rfl rfl rfl rfl rfl rfl rfl rfl rfl rfl)

theorem jobBump_kept {g : State} (j : Job) (i : Nat) (s : State) (hk : Kept g s) :
    Kept g (jobBump j i s) := by
  simp only [jobBump]
  iterate 12 (try any_goals first
    | with_reducible exact hk
    | with_reducible apply bumpStream_kept
    | with_reducible apply Kept.ite
    | split
    | with_reducible refine Kept.mk ?_ rfl rfl rfl rfl rfl rfl rfl rfl rfl rfl rfl rfl)

theorem jobDrop_kept {g : State} (j : Job) (s : State) (hk : Kept g s) :
    Kept g (jobDrop j s) := by
  simp only [jobDrop]
  iterate 12 (try any_goals first
    | with_reducible exact hk
    | with_reducible apply lateComplete_kept
    | with_reducible apply Kept.ite
    | split
    | with_reducible refine Kept.mk ?_ rfl rfl rfl rfl rfl rfl rfl rfl rfl rfl rfl rfl)

theorem captureFailure_kept {g : State} (j : Job) (i : Nat) (miss : Bool) (s : State) (hk : Kept g s) :
    Kept g (captureFailure j i miss s) := by
  simp only [captureFailure]
  iterate 12 (try any_goals first
    | with_reducible exact hk
    | with_reducible apply takeCaptures_kept
    | with_reducible apply stageCaptures_kept
    | with_reducible apply Kept.ite
    | split
    | with_reducible refine Kept.mk ?_ rfl rfl rfl rfl rfl rfl rfl rfl rfl rfl rfl rfl)

theorem refuse_kept {g : State} (j : Job) (i : Nat) (cause : Nat) (bit : Nat) (miss : Bool) (s : State) (hk : Kept g s) :
    Kept g (refuse j i cause bit miss s) := by
  simp only [refuse]
  iterate 12 (try any_goals first
    | with_reducible exact hk
    | with_reducible apply raiseEvent_kept
    | with_reducible apply jobEvent_kept
    | with_reducible apply jobBump_kept
    | with_reducible apply jobDrop_kept
    | with_reducible apply captureFailure_kept
    | with_reducible apply Kept.ite
    | split
    | with_reducible refine Kept.mk ?_ rfl rfl rfl rfl rfl rfl rfl rfl rfl rfl rfl rfl)

theorem endFail_kept {g : State} (j : Job) (c : Option (Nat × Nat)) (s : State) (hk : Kept g s) :
    Kept g (endFail j c s) := by
  simp only [endFail]
  iterate 12 (try any_goals first
    | with_reducible exact hk
    | with_reducible apply jobEvent_kept
    | with_reducible apply Kept.ite
    | split
    | with_reducible refine Kept.mk ?_ rfl rfl rfl rfl rfl rfl rfl rfl rfl rfl rfl rfl)

theorem leaveFail_kept {g : State} (j : Job) (s : State) (hk : Kept g s) :
    Kept g (leaveFail j s) := by
  simp only [leaveFail]
  iterate 12 (try any_goals first
    | with_reducible exact hk
    | with_reducible apply State.updRt_kept
    | with_reducible apply endFail_kept
    | with_reducible apply Kept.ite
    | split
    | with_reducible refine Kept.mk ?_ rfl rfl rfl rfl rfl rfl rfl rfl rfl rfl rfl rfl)

theorem enterFail_kept {g : State} (j : Job) (key : Bool) (time : Bool) (fwd : Bool) (s : State) (hk : Kept g s) :
    Kept g (enterFail j key time fwd s) := by
  simp only [enterFail]
  iterate 12 (try any_goals first
    | with_reducible exact hk
    | with_reducible apply State.updRt_kept
    | with_reducible apply jobEvent_kept
    | with_reducible apply Kept.ite
    | split
    | with_reducible refine Kept.mk ?_ rfl rfl rfl rfl rfl rfl rfl rfl rfl rfl rfl rfl)

theorem forwardFrame_kept {g : State} (j : Job) (passed : Bool) (miss : Bool) (marked : Bool) (rewrite : Nat) (sec : Option SecOut) (s : State) (hk : Kept g s) :
    Kept g (forwardFrame j passed miss marked rewrite sec s) := by
  simp only [forwardFrame]
  iterate 12 (try any_goals first
    | with_reducible exact hk
    | with_reducible apply handOff_kept
    | with_reducible apply Kept.ite
    | split
    | with_reducible refine Kept.mk ?_ rfl rfl rfl rfl rfl rfl rfl rfl rfl rfl rfl rfl)

theorem policyStage_kept {g : State} (j : Job) (keyLost : Bool) (timeLost : Bool) (miss : Bool) (sec : Option SecOut) (s : State) (hk : Kept g s) :
    Kept g (policyStage j keyLost timeLost miss sec s) := by
  simp only [policyStage]
  iterate 12 (try any_goals first
    | with_reducible exact hk
    | with_reducible apply jobBump_kept
    | with_reducible apply jobDrop_kept
    | with_reducible apply leaveFail_kept
    | with_reducible apply enterFail_kept
    | with_reducible apply forwardFrame_kept
    | with_reducible apply Kept.ite
    | split
    | with_reducible refine Kept.mk ?_ rfl rfl rfl rfl rfl rfl rfl rfl rfl rfl rfl rfl)

theorem sampleFrom_kept {g : State} (j : Job) (s : State) (hk : Kept g s) :
    Kept g (sampleFrom j s) := by
  simp only [sampleFrom]
  iterate 12 (try any_goals first
    | with_reducible exact hk
    | with_reducible apply angleSample_kept
    | with_reducible apply Kept.ite
    | split
    | with_reducible refine Kept.mk ?_ rfl rfl rfl rfl rfl rfl rfl rfl rfl rfl rfl rfl)

theorem slotStage_kept {g : State} (j : Job) (verified : Bool) (timeLost : Bool) (miss : Bool) (sec : Option SecOut) (s : State) (hk : Kept g s) :
    Kept g (slotStage j verified timeLost miss sec s) := by
  simp only [slotStage]
  iterate 12 (try any_goals first
    | with_reducible exact hk
    | with_reducible apply refuse_kept
    | with_reducible apply policyStage_kept
    | with_reducible apply sampleFrom_kept
    | with_reducible apply Kept.ite
    | split
    | with_reducible refine Kept.mk ?_ rfl rfl rfl rfl rfl rfl rfl rfl rfl rfl rfl rfl)

theorem countMiss_kept {g : State} (j : Job) (miss : Bool) (s : State) (hk : Kept g s) :
    Kept g (countMiss j miss s) := by
  simp only [countMiss]
  iterate 12 (try any_goals first
    | with_reducible exact hk
    | with_reducible apply jobBump_kept
    | with_reducible apply Kept.ite
    | split
    | with_reducible refine Kept.mk ?_ rfl rfl rfl rfl rfl rfl rfl rfl rfl rfl rfl rfl)

theorem freshStage_kept {g : State} (j : Job) (after : Bool) (outgoing : Bool) (h : Nat) (timeLost : Bool) (miss : Bool) (s : State) (hk : Kept g s) :
    Kept g (freshStage j after outgoing h timeLost miss s) := by
  simp only [freshStage]
  iterate 12 (try any_goals first
    | with_reducible exact hk
    | with_reducible apply State.updRt_kept
    | with_reducible apply jobBump_kept
    | with_reducible apply refuse_kept
    | with_reducible apply slotStage_kept
    | with_reducible apply Kept.ite
    | split
    | with_reducible refine Kept.mk ?_ rfl rfl rfl rfl rfl rfl rfl rfl rfl rfl rfl rfl)

theorem verifyStage_kept {g : State} (j : Job) (timeLost : Bool) (s : State) (hk : Kept g s) :
    Kept g (verifyStage j timeLost s) := by
  simp only [verifyStage]
  iterate 12 (try any_goals first
    | with_reducible exact hk
    | with_reducible apply refuse_kept
    | with_reducible apply countMiss_kept
    | with_reducible apply freshStage_kept
    | with_reducible apply Kept.ite
    | split
    | with_reducible refine Kept.mk ?_ rfl rfl rfl rfl rfl rfl rfl rfl rfl rfl rfl rfl)

theorem noteExhausted_kept {g : State} (j : Job) (value : Nat) (s : State) (hk : Kept g s) :
    Kept g (noteExhausted j value s) := by
  simp only [noteExhausted]
  iterate 12 (try any_goals first
    | with_reducible exact hk
    | with_reducible apply raiseEvent_kept
    | with_reducible apply jobEvent_kept
    | with_reducible apply Kept.ite
    | split
    | with_reducible refine Kept.mk ?_ rfl rfl rfl rfl rfl rfl rfl rfl rfl rfl rfl rfl)

theorem generateStage_kept {g : State} (j : Job) (h : Nat) (k : LoadedKey) (timeLost : Bool) (s : State) (hk : Kept g s) :
    Kept g (generateStage j h k timeLost s) := by
  simp only [generateStage]
  iterate 12 (try any_goals first
    | with_reducible exact hk
    | with_reducible apply takeGen_kept
    | with_reducible apply State.updRt_kept
    | with_reducible apply jobBump_kept
    | with_reducible apply slotStage_kept
    | with_reducible apply countMiss_kept
    | with_reducible apply noteExhausted_kept
    | with_reducible apply Kept.ite
    | split
    | with_reducible refine Kept.mk ?_ rfl rfl rfl rfl rfl rfl rfl rfl rfl rfl rfl rfl)

theorem processFrame_kept {g : State} (j : Job) (s : State) (hk : Kept g s) :
    Kept g (processFrame j s) := by
  simp only [processFrame]
  iterate 12 (try any_goals first
    | with_reducible exact hk
    | with_reducible apply jobBump_kept
    | with_reducible apply refuse_kept
    | with_reducible apply policyStage_kept
    | with_reducible apply slotStage_kept
    | with_reducible apply verifyStage_kept
    | with_reducible apply generateStage_kept
    | with_reducible apply Kept.ite
    | split
    | with_reducible refine Kept.mk ?_ rfl rfl rfl rfl rfl rfl rfl rfl rfl rfl rfl rfl)

theorem matchedFrame_kept {g : State} (fr : Frame) (ctrError : Bool) (f : Nat) (n : Nat) (e : Entry) (old : Bool) (s : State) (hk : Kept g s) :
    Kept g (matchedFrame fr ctrError f n e old s) := by
  simp only [matchedFrame]
  iterate 12 (try any_goals first
    | with_reducible exact hk
    | with_reducible apply counterError_kept
    | with_reducible apply processFrame_kept
    | with_reducible apply Kept.ite
    | split
    | with_reducible refine Kept.mk ?_ rfl rfl rfl rfl rfl rfl rfl rfl rfl rfl rfl rfl)

end Sys2Proof.Machine
end

