-- ==== Sys2Proof/Laws/KeptPorts.lean ====
section
/-! SUPPORT. What the operations of Machine/Ports.lean keep (Laws/Kept.lean), once for each. -/

namespace Sys2Proof.Machine

theorem portEvent_kept {g : State} (p : Nat) (condition : Nat) (value : Nat) (s : State) (hk : Kept g s) :
    Kept g (portEvent p condition value s) := by
  simp only [portEvent]
  iterate 12 (try any_goals first
    | with_reducible exact hk
    | with_reducible apply stageRec_kept
    | with_reducible apply Kept.ite
    | split
    | with_reducible refine Kept.mk ?_ rfl rfl rfl rfl rfl rfl rfl rfl rfl rfl rfl rfl)

theorem declareDead_kept {g : State} (p : Nat) (s : State) (hk : Kept g s) :
    Kept g (declareDead p s) := by
  simp only [declareDead]
  iterate 12 (try any_goals first
    | with_reducible exact hk
    | with_reducible apply State.updPort_kept
    | with_reducible apply bumpPort_kept
    | with_reducible apply portEvent_kept
    | with_reducible apply Kept.ite
    | split
    | with_reducible refine Kept.mk ?_ rfl rfl rfl rfl rfl rfl rfl rfl rfl rfl rfl rfl)

theorem linkUp_kept {g : State} (p : Nat) (s : State) (hk : Kept g s) :
    Kept g (linkUp p s) := by
  simp only [linkUp]
  refine Kept.ite (addCond_kept _ _ _ ?_) ?_
  all_goals exact portEvent_kept _ _ _ _ (bumpPort_kept _ _ _ _ (State.updPort_kept _ _ _ hk))

theorem linkDown_kept {g : State} (p : Nat) (s : State) (hk : Kept g s) :
    Kept g (linkDown p s) := by
  simp only [linkDown]
  iterate 12 (try any_goals first
    | with_reducible exact hk
    | with_reducible apply State.updPort_kept
    | with_reducible apply bumpPort_kept
    | with_reducible apply loseAll_kept
    | with_reducible apply portEvent_kept
    | with_reducible apply declareDead_kept
    | with_reducible apply linkUp_kept
    | with_reducible apply Kept.ite
    | split
    | with_reducible refine Kept.mk ?_ rfl rfl rfl rfl rfl rfl rfl rfl rfl rfl rfl rfl)

theorem clearDead_kept {g : State} (p : Nat) (s : State) (hk : Kept g s) :
    Kept g (clearDead p s) := by
  simp only [clearDead]
  iterate 12 (try any_goals first
    | with_reducible exact hk
    | with_reducible apply State.updPort_kept
    | with_reducible apply Kept.ite
    | split
    | with_reducible refine Kept.mk ?_ rfl rfl rfl rfl rfl rfl rfl rfl rfl rfl rfl rfl)

theorem holdLink_kept {g : State} (p : Nat) (s : State) (hk : Kept g s) :
    Kept g (holdLink p s) := by
  simp only [holdLink]
  iterate 12 (try any_goals first
    | with_reducible exact hk
    | with_reducible apply declareDead_kept
    | with_reducible apply linkUp_kept
    | with_reducible apply linkDown_kept
    | with_reducible apply Kept.ite
    | split
    | with_reducible refine Kept.mk ?_ rfl rfl rfl rfl rfl rfl rfl rfl rfl rfl rfl rfl)

theorem heard_kept {g : State} (p : Nat) (s : State) (hk : Kept g s) :
    Kept g (heard p s) := by
  simp only [heard]
  iterate 12 (try any_goals first
    | with_reducible exact hk
    | with_reducible apply State.updPort_kept
    | with_reducible apply portEvent_kept
    | with_reducible apply Kept.ite
    | split
    | with_reducible refine Kept.mk ?_ rfl rfl rfl rfl rfl rfl rfl rfl rfl rfl rfl rfl)

theorem passThrough_kept {g : State} (i : Nat) (fr : Frame) (x : Nat) (s : State) (hk : Kept g s) :
    Kept g (passThrough i fr x s) := by
  simp only [passThrough]
  iterate 12 (try any_goals first
    | with_reducible exact hk
    | with_reducible apply emit_kept
    | with_reducible apply bumpPort_kept
    | with_reducible apply State.setPair_kept
    | with_reducible apply linkUp_kept
    | with_reducible apply Kept.ite
    | split
    | with_reducible refine Kept.mk ?_ rfl rfl rfl rfl rfl rfl rfl rfl rfl rfl rfl rfl)

theorem acceptTagged_kept {g : State} (i : Nat) (fr : Frame) (x : Nat) (s : State) (hk : Kept g s) :
    Kept g (acceptTagged i fr x s).2 := by
  simp only [acceptTagged]
  iterate 12 (try any_goals first
    | with_reducible exact hk
    | with_reducible apply bumpPort_kept
    | with_reducible apply State.setPair_kept
    | with_reducible apply Kept.ite
    | split
    | with_reducible refine Kept.mk ?_ rfl rfl rfl rfl rfl rfl rfl rfl rfl rfl rfl rfl)

theorem noteNode_kept {g : State} (i : Nat) (fr : Frame) (s : State) (hk : Kept g s) :
    Kept g (noteNode i fr s) := by
  simp only [noteNode]
  iterate 12 (try any_goals first
    | with_reducible exact hk
    | with_reducible apply State.setPair_kept
    | with_reducible apply Kept.ite
    | split
    | with_reducible refine Kept.mk ?_ rfl rfl rfl rfl rfl rfl rfl rfl rfl rfl rfl rfl)

theorem pairReceive_kept {g : State} (fr : Frame) (s : State) (hk : Kept g s) :
    Kept g (pairReceive fr s).2 := by
  simp only [pairReceive]
  iterate 12 (try any_goals first
    | with_reducible exact hk
    | with_reducible apply bumpPort_kept
    | with_reducible apply passThrough_kept
    | with_reducible apply acceptTagged_kept
    | with_reducible apply noteNode_kept
    | with_reducible apply Kept.ite
    | split
    | with_reducible refine Kept.mk ?_ rfl rfl rfl rfl rfl rfl rfl rfl rfl rfl rfl rfl)

theorem macsecReceive_kept {g : State} (fr : Frame) (s : State) (hk : Kept g s) :
    Kept g (macsecReceive fr s).2 := by
  simp only [macsecReceive]
  iterate 12 (try any_goals first
    | with_reducible exact hk
    | with_reducible apply State.updPort_kept
    | with_reducible apply bumpPort_kept
    | with_reducible apply Kept.ite
    | split
    | with_reducible refine Kept.mk ?_ rfl rfl rfl rfl rfl rfl rfl rfl rfl rfl rfl rfl)

theorem exceptionFrame_kept {g : State} (fr : Frame) (s : State) (hk : Kept g s) :
    Kept g (exceptionFrame fr s) := by
  simp only [exceptionFrame]
  iterate 12 (try any_goals first
    | with_reducible exact hk
    | with_reducible apply qmPut_kept
    | with_reducible apply bumpPort_kept
    | with_reducible apply Kept.ite
    | split
    | with_reducible refine Kept.mk ?_ rfl rfl rfl rfl rfl rfl rfl rfl rfl rfl rfl rfl)

theorem admitException_kept {g : State} (fr : Frame) (s : State) (hk : Kept g s) :
    Kept g (admitException fr s) := by
  simp only [admitException]
  iterate 12 (try any_goals first
    | with_reducible exact hk
    | with_reducible apply bumpPort_kept
    | with_reducible apply exceptionFrame_kept
    | with_reducible apply Kept.ite
    | split
    | with_reducible refine Kept.mk ?_ rfl rfl rfl rfl rfl rfl rfl rfl rfl rfl rfl rfl)

theorem admitFrame_kept {g : State} (fr : Frame) (ctrError : Bool) (s0 : State) (hk : Kept g s0) :
    Kept g (admitFrame fr ctrError s0) := by
  simp only [admitFrame]
  iterate 12 (try any_goals first
    | with_reducible exact hk
    | with_reducible apply bumpPort_kept
    | with_reducible apply reachStamp_kept
    | with_reducible apply matchedFrame_kept
    | with_reducible apply admitException_kept
    | with_reducible apply Kept.ite
    | split
    | with_reducible refine Kept.mk ?_ rfl rfl rfl rfl rfl rfl rfl rfl rfl rfl rfl rfl)

theorem sendSupervision_kept {g : State} (i : Nat) (s : State) (hk : Kept g s) :
    Kept g (sendSupervision i s) := by
  simp only [sendSupervision]
  iterate 12 (try any_goals first
    | with_reducible exact hk
    | with_reducible apply sendPair_kept
    | with_reducible apply Kept.ite
    | split
    | with_reducible refine Kept.mk ?_ rfl rfl rfl rfl rfl rfl rfl rfl rfl rfl rfl rfl)

theorem endConds_kept {g : State} (p : Nat) (x1 : List Nat) (x2 : State) (hk : Kept g x2) :
    Kept g (endConds p x1 x2) := by
  induction x1 generalizing p x2 with
  | nil => simp only [endConds]; with_reducible exact hk
  | cons c l ih =>
    simp only [endConds]
    iterate 12 (try any_goals first
      | with_reducible exact hk
      | with_reducible apply ih
      | with_reducible apply State.updPort_kept
      | with_reducible apply portEvent_kept
      | with_reducible apply Kept.ite
      | split
      | with_reducible refine Kept.mk ?_ rfl rfl rfl rfl rfl rfl rfl rfl rfl rfl rfl rfl)

theorem installSak_kept {g : State} (p : Nat) (m : MkaSak) (sak : Bytes) (replace : Bool) (s : State) (hk : Kept g s) :
    Kept g (installSak p m sak replace s) := by
  simp only [installSak]
  iterate 12 (try any_goals first
    | with_reducible exact hk
    | with_reducible apply State.updPort_kept
    | with_reducible apply endConds_kept
    | with_reducible apply Kept.ite
    | split
    | with_reducible refine Kept.mk ?_ rfl rfl rfl rfl rfl rfl rfl rfl rfl rfl rfl rfl)

theorem exchangeSak_kept {g : State} (p : Nat) (server : Bool) (kek : Bytes) (m : MkaSak) (s : State) (hk : Kept g s) (t : Bytes × State) (h : exchangeSak p server kek m s = some t) :
    Kept g t.2 := by
  unfold exchangeSak at h
  split at h
  · split at h
    · cases h
      exact sendPort_kept _ _ _ _ (draw_kept _ _ hk)
    · cases h
  · simp only [Option.map_eq_some_iff] at h
    obtain ⟨_, _, rfl⟩ := h
    exact hk

theorem applyPortCfg_kept {g : State} (p : Nat) (value : Nat) (s : State) (hk : Kept g s) :
    Kept g (applyPortCfg p value s) := by
  simp only [applyPortCfg]
  exact holdLink_kept _ _ (holdLink_kept _ _ (Kept.rw hk fun h => by simp [h]))

theorem setKind_kept {g : State} (i : Nat) (kind : Nat) (s : State) (hk : Kept g s) :
    Kept g (setKind i kind s) := by
  simp only [setKind]
  exact holdLink_kept _ _ (holdLink_kept _ _ (clearDead_kept _ _ (clearDead_kept _ _ (State.setPair_kept _ _ _
    (Kept.rw hk fun h => by simp [h])))))

theorem applyPairCfg_kept {g : State} (i : Nat) (value : Nat) (s : State) (hk : Kept g s) :
    Kept g (applyPairCfg i value s) := by
  simp only [applyPairCfg]
  exact Kept.rw hk fun h => by simp [h]

end Sys2Proof.Machine
end

