-- ==== Sys2Proof/Laws/KeptArchiveOps.lean ====
section
/-! SUPPORT. What the operations of Machine/ArchiveOps.lean keep (Laws/Kept.lean), once for each. -/

namespace Sys2Proof.Machine

theorem releaseZones_kept {g : State} (signer : Nat) (cpSeq : Nat) (l : List Nat) (s : State) (hk : Kept g s) :
    Kept g (releaseZones signer cpSeq l s) := by
  simp only [releaseZones]
  iterate 12 (try any_goals first
    | with_reducible exact hk
    | with_reducible apply appendRecord_kept
    | with_reducible apply appendCheckpoint_kept
    | with_reducible apply Kept.ite
    | split
    | with_reducible refine Kept.mk ?_ rfl rfl rfl rfl rfl rfl rfl rfl rfl rfl rfl rfl)

theorem afterRelease_kept {g : State} (s : State) (hk : Kept g s) :
    Kept g (afterRelease s) := by
  simp only [afterRelease]
  iterate 12 (try any_goals first
    | with_reducible exact hk
    | with_reducible apply clearRelease_kept
    | with_reducible apply Kept.ite
    | split
    | with_reducible refine Kept.mk ?_ rfl rfl rfl rfl rfl rfl rfl rfl rfl rfl rfl rfl)

end Sys2Proof.Machine
end

