-- ==== Sys2Proof/Laws/KeptVf.lean ====
section
/-! SUPPORT. What the operations of Machine/Vf.lean keep (Laws/Kept.lean), once for each. -/

namespace Sys2Proof.Machine

theorem pfShare_kept {g : State} (s : State) (hk : Kept g s) :
    Kept g (pfShare s) := by
  simp only [pfShare]
  iterate 12 (try any_goals first
    | with_reducible exact hk
    | with_reducible apply State.updFunc_kept
    | with_reducible apply Kept.ite
    | split
    | with_reducible refine Kept.mk ?_ rfl rfl rfl rfl rfl rfl rfl rfl rfl rfl rfl rfl)

theorem resetHostSide_kept {g : State} (f : Nat) (keepHalt : Bool) (s : State) (hk : Kept g s) :
    Kept g (resetHostSide f keepHalt s) := by
  simp only [resetHostSide]
  exact Kept.parts (State.updFunc_kept f (Func.hostReset keepHalt) s hk) rfl rfl rfl rfl rfl id id (fun a b => ⟨a, b⟩) id
    (fun h => Tbl.del_wf _ _ h) (fun h _ => Tbl.del_wf _ _ h) id

theorem endFreeze_kept {g : State} (f : Nat) (s : State) (hk : Kept g s) :
    Kept g (endFreeze f s) := by
  simp only [endFreeze]
  iterate 12 (try any_goals first
    | with_reducible exact hk
    | with_reducible apply raiseEvent_kept
    | with_reducible apply Kept.ite
    | split
    | with_reducible refine Kept.mk ?_ rfl rfl rfl rfl rfl rfl rfl rfl rfl rfl rfl rfl)

theorem discardCtx_kept {g : State} (orphan : Nat) (c : Ctx) (s : State) (hk : Kept g s) :
    Kept g (discardCtx orphan c s) := by
  simp only [discardCtx]
  iterate 12 (try any_goals first
    | with_reducible exact hk
    | with_reducible apply finishCtx_kept
    | with_reducible apply leaveTransfer_kept
    | with_reducible apply leaveCore_kept
    | with_reducible apply Kept.ite
    | split
    | with_reducible refine Kept.mk ?_ rfl rfl rfl rfl rfl rfl rfl rfl rfl rfl rfl rfl)

theorem warmCtx_kept {g : State} (c : Ctx) (s : State) (hk : Kept g s) :
    Kept g (warmCtx c s) := by
  simp only [warmCtx]
  iterate 12 (try any_goals first
    | with_reducible exact hk
    | with_reducible apply State.setCtx_kept
    | with_reducible apply discardCtx_kept
    | with_reducible apply Kept.ite
    | split
    | with_reducible refine Kept.mk ?_ rfl rfl rfl rfl rfl rfl rfl rfl rfl rfl rfl rfl)

theorem warmCtxs_kept {g : State} (x1 : List Ctx) (x2 : State) (hk : Kept g x2) :
    Kept g (warmCtxs x1 x2) := by
  induction x1 generalizing x2 with
  | nil => simp only [warmCtxs]; with_reducible exact hk
  | cons c l ih =>
    simp only [warmCtxs]
    iterate 12 (try any_goals first
      | with_reducible exact hk
      | with_reducible apply ih
      | with_reducible apply warmCtx_kept
      | with_reducible apply Kept.ite
      | split
      | with_reducible refine Kept.mk ?_ rfl rfl rfl rfl rfl rfl rfl rfl rfl rfl rfl rfl)

theorem warmFuncs_kept {g : State} (x1 : Nat) (x2 : State) (hk : Kept g x2) :
    Kept g (warmFuncs x1 x2) := by
  induction x1 generalizing x2 with
  | zero => simp only [warmFuncs]; with_reducible exact hk
  | succ n ih =>
    simp only [warmFuncs]
    iterate 12 (try any_goals first
      | with_reducible exact hk
      | with_reducible apply ih
      | with_reducible apply State.updFunc_kept
      | with_reducible apply resetHostSide_kept
      | with_reducible apply endFreeze_kept
      | with_reducible apply Kept.ite
      | split
      | with_reducible refine Kept.mk ?_ rfl rfl rfl rfl rfl rfl rfl rfl rfl rfl rfl rfl)

theorem dropLink_kept {g : State} (s : State) (hk : Kept g s) :
    Kept g (dropLink s) := by
  simp only [dropLink]
  iterate 12 (try any_goals first
    | with_reducible exact hk
    | with_reducible apply linkUp_kept
    | with_reducible apply Kept.ite
    | split
    | with_reducible refine Kept.mk ?_ rfl rfl rfl rfl rfl rfl rfl rfl rfl rfl rfl rfl)

theorem flrCtx_kept {g : State} (f : Nat) (c : Ctx) (s : State) (hk : Kept g s) :
    Kept g (flrCtx f c s) := by
  simp only [flrCtx]
  iterate 12 (try any_goals first
    | with_reducible exact hk
    | with_reducible apply State.setCtx_kept
    | with_reducible apply discardCtx_kept
    | with_reducible apply Kept.ite
    | split
    | with_reducible refine Kept.mk ?_ rfl rfl rfl rfl rfl rfl rfl rfl rfl rfl rfl rfl)

theorem flrCtxs_kept {g : State} (f : Nat) (x1 : List Ctx) (x2 : State) (hk : Kept g x2) :
    Kept g (flrCtxs f x1 x2) := by
  induction x1 generalizing f x2 with
  | nil => simp only [flrCtxs]; with_reducible exact hk
  | cons c l ih =>
    simp only [flrCtxs]
    iterate 12 (try any_goals first
      | with_reducible exact hk
      | with_reducible apply ih
      | with_reducible apply flrCtx_kept
      | with_reducible apply Kept.ite
      | split
      | with_reducible refine Kept.mk ?_ rfl rfl rfl rfl rfl rfl rfl rfl rfl rfl rfl rfl)

theorem abortNaming_kept {g : State} (f : Nat) (x1 : List Ctx) (x2 : State) (hk : Kept g x2) :
    Kept g (abortNaming f x1 x2) := by
  induction x1 generalizing f x2 with
  | nil => simp only [abortNaming]; with_reducible exact hk
  | cons c l ih =>
    simp only [abortNaming]
    iterate 12 (try any_goals first
      | with_reducible exact hk
      | with_reducible apply ih
      | with_reducible apply finishCtx_kept
      | with_reducible apply abortPort_kept
      | with_reducible apply leaveCore_kept
      | with_reducible apply Kept.ite
      | split
      | with_reducible refine Kept.mk ?_ rfl rfl rfl rfl rfl rfl rfl rfl rfl rfl rfl rfl)

theorem flrCore_kept {g : State} (f : Nat) (s : State) (hk : Kept g s) :
    Kept g (flrCore f s) := by
  have h : ∀ x, Kept g x → Kept g { x with ev := Tbl.del (evKey .key f) (Tbl.del (evKey .fe f) x.ev), fe := { x.fe with latch := Tbl.del f x.fe.latch }, tls := { x.tls with sessions := Tbl.keep (fun _ v => v.f != f) x.tls.sessions } } := fun x h =>
    Kept.parts h rfl rfl rfl rfl rfl id id (fun a b => ⟨Tbl.keep_wf _ _ a, Nat.le_trans (Tbl.keep_length _ _) b⟩) id
      (fun h => Tbl.del_wf _ _ (Tbl.del_wf _ _ h)) (fun h _ => h) id
  have h1 : ∀ x e, Kept g x → Kept g { x with pke := { x.pke with engines := e } } := fun x e h =>
    Kept.congr h rfl rfl rfl rfl rfl rfl rfl rfl rfl rfl rfl rfl
  simp only [flrCore]
  apply h
  apply resetHostSide_kept
  apply State.updFunc_kept
  apply endFreeze_kept
  apply flrCtxs_kept
  exact h1 _ _ (abortNaming_kept f s.hif.ctxs s hk)

theorem removeVfs_kept {g : State} (x1 : List Nat) (x2 : State) (hk : Kept g x2) :
    Kept g (removeVfs x1 x2) := by
  induction x1 generalizing x2 with
  | nil => simp only [removeVfs]; with_reducible exact hk
  | cons c l ih =>
    simp only [removeVfs]
    iterate 12 (try any_goals first
      | with_reducible exact hk
      | with_reducible apply ih
      | with_reducible apply State.updFunc_kept
      | with_reducible apply flrCore_kept
      | with_reducible apply Kept.ite
      | split
      | with_reducible refine Kept.mk ?_ rfl rfl rfl rfl rfl rfl rfl rfl rfl rfl rfl rfl)

theorem liftAll_kept {g : State} (f : Nat) (x1 : List Ctx) (x2 : State) (hk : Kept g x2) :
    Kept g (liftAll f x1 x2) := by
  induction x1 generalizing f x2 with
  | nil => simp only [liftAll]; with_reducible exact hk
  | cons c l ih =>
    simp only [liftAll]
    iterate 12 (try any_goals first
      | with_reducible exact hk
      | with_reducible apply ih
      | with_reducible apply State.setCtx_kept
      | with_reducible apply Kept.ite
      | split
      | with_reducible refine Kept.mk ?_ rfl rfl rfl rfl rfl rfl rfl rfl rfl rfl rfl rfl)

theorem squashWaiting_kept {g : State} (f : Nat) (x1 : List Ctx) (x2 : State) (hk : Kept g x2) :
    Kept g (squashWaiting f x1 x2) := by
  induction x1 generalizing f x2 with
  | nil => simp only [squashWaiting]; with_reducible exact hk
  | cons c l ih =>
    simp only [squashWaiting]
    iterate 12 (try any_goals first
      | with_reducible exact hk
      | with_reducible apply ih
      | with_reducible apply finishCtx_kept
      | with_reducible apply leaveCore_kept
      | with_reducible apply Kept.ite
      | split
      | with_reducible refine Kept.mk ?_ rfl rfl rfl rfl rfl rfl rfl rfl rfl rfl rfl rfl)

theorem beginFreeze_kept {g : State} (f : Nat) (s : State) (hk : Kept g s) :
    Kept g (beginFreeze f s) := by
  simp only [beginFreeze]
  iterate 12 (try any_goals first
    | with_reducible exact hk
    | with_reducible apply State.updFunc_kept
    | with_reducible apply abortPort_kept
    | with_reducible apply liftAll_kept
    | with_reducible apply squashWaiting_kept
    | with_reducible apply Kept.ite
    | split
    | with_reducible refine Kept.mk ?_ rfl rfl rfl rfl rfl rfl rfl rfl rfl rfl rfl rfl)

theorem saveKey_kept {g : State} (mkId : Nat) (mk : Bytes) (k : LoadedKey) (s : State) (hk : Kept g s) :
    Kept g (saveKey mkId mk k s).2 := by
  simp only [saveKey]
  iterate 12 (try any_goals first
    | with_reducible exact hk
    | with_reducible apply draw_kept
    | with_reducible apply Kept.ite
    | split
    | with_reducible refine Kept.mk ?_ rfl rfl rfl rfl rfl rfl rfl rfl rfl rfl rfl rfl)

theorem saveKeys_kept {g : State} (mkId : Nat) (mk : Bytes) (x1 : List LoadedKey) (x2 : State) (hk : Kept g x2) :
    Kept g (saveKeys mkId mk x1 x2).2 := by
  induction x1 generalizing mkId mk x2 with
  | nil => simp only [saveKeys]; with_reducible exact hk
  | cons c l ih =>
    simp only [saveKeys]
    iterate 12 (try any_goals first
      | with_reducible exact hk
      | with_reducible apply ih
      | with_reducible apply saveKey_kept
      | with_reducible apply Kept.ite
      | split
      | with_reducible refine Kept.mk ?_ rfl rfl rfl rfl rfl rfl rfl rfl rfl rfl rfl rfl)

theorem saveImage_kept {g : State} (f : Nat) (tenant : Nat) (mkId : Nat) (mk : Bytes) (s : State) (hk : Kept g s) :
    Kept g (saveImage f tenant mkId mk s).2 := by
  simp only [saveImage]
  iterate 12 (try any_goals first
    | with_reducible exact hk
    | with_reducible apply draw_kept
    | with_reducible apply saveKeys_kept
    | with_reducible apply Kept.ite
    | split
    | with_reducible refine Kept.mk ?_ rfl rfl rfl rfl rfl rfl rfl rfl rfl rfl rfl rfl)

theorem restoreGen_kept {g : State} (k : SavedKey) (s : State) (hk : Kept g s) :
    Kept g (restoreGen k s) := by
  simp only [restoreGen]
  iterate 12 (try any_goals first
    | with_reducible exact hk
    | with_reducible apply Kept.ite
    | split
    | with_reducible refine Kept.mk ?_ rfl rfl rfl rfl rfl rfl rfl rfl rfl rfl rfl rfl)

theorem restoreKey_kept {g : State} (fn : Nat) (mk : Bytes) (k : SavedKey) (b : Blob) (s : State) (hk : Kept g s) :
    Kept g (restoreKey fn mk k b s) := by
  simp only [restoreKey]
  iterate 12 (try any_goals first
    | with_reducible exact hk
    | with_reducible apply keyEvent_kept
    | with_reducible apply sealBlob_kept
    | with_reducible apply fillSlot_kept
    | with_reducible apply vaultStore_kept
    | with_reducible apply Kept.ite
    | split
    | with_reducible refine Kept.mk ?_ rfl rfl rfl rfl rfl rfl rfl rfl rfl rfl rfl rfl)

theorem restoreKeys_kept {g : State} (fn : Nat) (mk : Bytes) (x1 : List SavedKey) (x2 : State) (hk : Kept g x2) :
    Kept g (restoreKeys fn mk x1 x2) := by
  induction x1 generalizing x2 with
  | nil => simp only [restoreKeys]; exact hk
  | cons c l ih =>
    simp only [restoreKeys]
    refine ih _ (restoreGen_kept _ _ ?_)
    cases c.blob with
    | none => exact hk
    | some b => exact restoreKey_kept _ _ _ _ _ hk

theorem restoreRings_kept {g : State} (fn : Nat) (lifted : List SavedEntry) (x1 : List SavedRing) (x2 : State) (hk : Kept g x2) :
    Kept g (restoreRings fn lifted x1 x2) := by
  induction x1 generalizing fn lifted x2 with
  | nil => simp only [restoreRings]; with_reducible exact hk
  | cons c l ih =>
    simp only [restoreRings]
    iterate 12 (try any_goals first
      | with_reducible exact hk
      | with_reducible apply ih
      | with_reducible apply State.setRing_kept
      | with_reducible apply Kept.ite
      | split
      | with_reducible refine Kept.mk ?_ rfl rfl rfl rfl rfl rfl rfl rfl rfl rfl rfl rfl)

theorem restoreLifted_kept {g : State} (fn : Nat) (x1 : List SavedEntry) (x2 : State) (hk : Kept g x2) :
    Kept g (restoreLifted fn x1 x2) := by
  induction x1 generalizing fn x2 with
  | nil => simp only [restoreLifted]; with_reducible exact hk
  | cons c l ih =>
    simp only [restoreLifted]
    iterate 12 (try any_goals first
      | with_reducible exact hk
      | with_reducible apply takeWatch_kept
      | with_reducible apply ih
      | with_reducible apply State.setQueue_kept
      | with_reducible apply Kept.ite
      | split
      | with_reducible refine Kept.mk ?_ rfl rfl rfl rfl rfl rfl rfl rfl rfl rfl rfl rfl)

theorem applyImage_kept {g : State} (fn : Nat) (i : SaveImage) (s : State) (hk : Kept g s) :
    Kept g (applyImage fn i s) := by
  simp only [applyImage]
  iterate 12 (try any_goals first
    | with_reducible exact hk
    | with_reducible apply State.updFunc_kept
    | with_reducible apply State.updDom_kept
    | with_reducible apply restoreKeys_kept
    | with_reducible apply restoreRings_kept
    | with_reducible apply restoreLifted_kept
    | with_reducible apply Kept.ite
    | split
    | with_reducible refine Kept.mk ?_ rfl rfl rfl rfl rfl rfl rfl rfl rfl rfl rfl rfl)

theorem thawAll_kept {g : State} (f : Nat) (x1 : List Ctx) (x2 : State) (hk : Kept g x2) :
    Kept g (thawAll f x1 x2) := by
  induction x1 generalizing f x2 with
  | nil => simp only [thawAll]; with_reducible exact hk
  | cons c l ih =>
    simp only [thawAll]
    iterate 12 (try any_goals first
      | with_reducible exact hk
      | with_reducible apply ih
      | with_reducible apply finishCtx_kept
      | with_reducible apply placeDelay_kept
      | with_reducible apply Kept.ite
      | split
      | with_reducible refine Kept.mk ?_ rfl rfl rfl rfl rfl rfl rfl rfl rfl rfl rfl rfl)

theorem setStream_kept {g : State} (stream : Option Nat) (secure : Bool) (s : State) (hk : Kept g s) :
    Kept g (setStream stream secure s) := by
  simp only [setStream]
  iterate 12 (try any_goals first
    | with_reducible exact hk
    | with_reducible apply Kept.ite
    | split
    | with_reducible refine Kept.mk ?_ rfl rfl rfl rfl rfl rfl rfl rfl rfl rfl rfl rfl)

end Sys2Proof.Machine
end

