-- ==== Sys2Proof/Laws/KeptLife.lean ====
section
/-! SUPPORT. What the operations of Machine/Life.lean keep (Laws/Kept.lean), once for each. -/

namespace Sys2Proof.Machine

theorem setTransition_kept {g : State} (target : Option LifeState) (s : State) (hk : Kept g s) :
    Kept g (setTransition target s) := by
  simp only [setTransition]
  iterate 12 (try any_goals first
    | with_reducible exact hk
    | with_reducible apply Kept.ite
    | split
    | with_reducible refine Kept.mk ?_ rfl rfl rfl rfl rfl rfl rfl rfl rfl rfl rfl rfl)

theorem bypass_kept {g : State} (s : State) (hk : Kept g s) :
    Kept g (bypass s) := by
  simp only [bypass]
  iterate 12 (try any_goals first
    | with_reducible exact hk
    | with_reducible apply emit_kept
    | with_reducible apply Kept.ite
    | split
    | with_reducible refine Kept.mk ?_ rfl rfl rfl rfl rfl rfl rfl rfl rfl rfl rfl rfl)

theorem haltCore_kept {g : State} (c : Nat) (s : State) (hk : Kept g s) :
    Kept g (haltCore c s) := by
  simp only [haltCore]
  iterate 12 (try any_goals first
    | with_reducible exact hk
    | with_reducible apply State.setCore_kept
    | with_reducible apply redispatch_kept
    | with_reducible apply Kept.ite
    | split
    | with_reducible refine Kept.mk ?_ rfl rfl rfl rfl rfl rfl rfl rfl rfl rfl rfl rfl)

theorem debugAct_kept {g : State} (a : DebugAct) (s : State) (hk : Kept g s) :
    Kept g (debugAct a s) := by
  simp only [debugAct]
  iterate 12 (try any_goals first
    | with_reducible exact hk
    | with_reducible apply emit_kept
    | with_reducible apply freshValue_kept
    | with_reducible apply halt_kept
    | with_reducible apply State.setCore_kept
    | with_reducible apply access_kept
    | with_reducible apply haltCore_kept
    | with_reducible apply Kept.ite
    | split
    | with_reducible refine Kept.mk ?_ rfl rfl rfl rfl rfl rfl rfl rfl rfl rfl rfl rfl)

theorem movePorts_kept {g : State} (n : Nat) (away : Bool) (s : State) (hk : Kept g s) :
    Kept g (movePorts n away s) := by
  simp only [movePorts]
  iterate 12 (try any_goals first
    | with_reducible exact hk
    | with_reducible apply Kept.ite
    | split
    | with_reducible refine Kept.mk ?_ rfl rfl rfl rfl rfl rfl rfl rfl rfl rfl rfl rfl)

theorem takePipe_kept {g : State} (n : Nat) (s : State) (hk : Kept g s) :
    Kept g (takePipe n s) := by
  simp only [takePipe]
  iterate 12 (try any_goals first
    | with_reducible exact hk
    | with_reducible apply movePorts_kept
    | with_reducible apply Kept.ite
    | split
    | with_reducible refine Kept.mk ?_ rfl rfl rfl rfl rfl rfl rfl rfl rfl rfl rfl rfl)

theorem givePipe_kept {g : State} (n : Nat) (pass : Bool) (s : State) (hk : Kept g s) :
    Kept g (givePipe n pass s) := by
  simp only [givePipe]
  iterate 12 (try any_goals first
    | with_reducible exact hk
    | with_reducible apply movePorts_kept
    | with_reducible apply Kept.ite
    | split
    | with_reducible refine Kept.mk ?_ rfl rfl rfl rfl rfl rfl rfl rfl rfl rfl rfl rfl)

theorem takeBlock_kept {g : State} (block : Nat) (s : State) (hk : Kept g s) :
    Kept g (takeBlock block s) := by
  simp only [takeBlock]
  exact Kept.ite (takePipe_kept _ _ hk) (Kept.ite (moveQueued_kept _ _ (State.setEngine_kept _ _ _ hk))
    (Kept.ite (State.setCore_kept _ _ _ hk) hk))

theorem settleBlock_kept {g : State} (block : Nat) (was : Bool) (pass : Bool) (partly : List (Nat × Nat)) (s : State) (hk : Kept g s) :
    Kept g (settleBlock block was pass partly s) := by
  simp only [settleBlock]
  iterate 12 (try any_goals first
    | with_reducible exact hk
    | with_reducible apply raiseEvent_kept
    | with_reducible apply State.setCore_kept
    | with_reducible apply noteUnserved_kept
    | with_reducible apply rnuFail_kept
    | with_reducible apply State.setEngine_kept
    | with_reducible apply engineRec_kept
    | with_reducible apply givePipe_kept
    | with_reducible apply Kept.ite
    | split
    | with_reducible refine Kept.mk ?_ rfl rfl rfl rfl rfl rfl rfl rfl rfl rfl rfl rfl)

theorem endTest_kept {g : State} (r : TestRun) (sig : Nat) (partly : List (Nat × Nat)) (s : State) (hk : Kept g s) :
    Kept g ((endTest r sig partly s).after s) := by
  simp only [endTest]
  (repeat' split) <;> simp only [after_done, after_running, after_wait, after_busy]
  all_goals iterate 12 (try any_goals first
    | with_reducible exact hk
    | with_reducible apply raiseEvent_kept
    | with_reducible apply securityRec_kept
    | with_reducible apply settleBlock_kept
    | with_reducible apply Kept.ite
    | split
    | with_reducible refine Kept.mk ?_ rfl rfl rfl rfl rfl rfl rfl rfl rfl rfl rfl rfl)

theorem endRolling_kept {g : State} (n : Nat) (sig : Nat) (s : State) (hk : Kept g s) :
    Kept g (endRolling n sig s) := by
  simp only [endRolling]
  iterate 12 (try any_goals first
    | with_reducible exact hk
    | with_reducible apply raiseEvent_kept
    | with_reducible apply securityRec_kept
    | with_reducible apply givePipe_kept
    | with_reducible apply Kept.ite
    | split
    | with_reducible refine Kept.mk ?_ rfl rfl rfl rfl rfl rfl rfl rfl rfl rfl rfl rfl)

end Sys2Proof.Machine
end

