-- ==== Sys2Proof/Laws/KeptPower.lean ====
section
/-! SUPPORT. What the operations of Machine/Power.lean keep (Laws/Kept.lean), once for each. -/

namespace Sys2Proof.Machine

theorem Pwr.setSlot_floor (p : Pwr) (n : Nat) (v : FwSlot) : (p.setSlot n v).floor = p.floor := by
  simp only [Pwr.setSlot]
  split <;> rfl

theorem flushSummaries_kept {g : State} (x1 : List Summary) (x2 : State) (hk : Kept g x2) :
    Kept g (flushSummaries x1 x2) := by
  induction x1 generalizing x2 with
  | nil => simp only [flushSummaries]; with_reducible exact hk
  | cons c l ih =>
    simp only [flushSummaries]
    iterate 12 (try any_goals first
      | with_reducible exact hk
      | with_reducible apply ih
      | with_reducible apply writeSummary_kept
      | with_reducible apply Kept.ite
      | split
      | with_reducible refine Kept.mk ?_ rfl rfl rfl rfl rfl rfl rfl rfl rfl rfl rfl rfl)

theorem powerDown_kept {g : State} (final : Bool) (s : State) (hk : Kept g s) :
    Kept g (powerDown final s) := by
  simp only [powerDown]
  iterate 12 (try any_goals first
    | with_reducible exact hk
    | with_reducible apply appendRecord_kept
    | with_reducible apply appendAll_kept
    | with_reducible apply appendCheckpoint_kept
    | with_reducible apply flushSummaries_kept
    | with_reducible apply Kept.ite
    | split
    | with_reducible refine Kept.mk ?_ rfl rfl rfl rfl rfl rfl rfl rfl rfl rfl rfl rfl)

theorem dropMain_kept {g : State} (s : State) (hk : Kept g s) :
    Kept g (dropMain s) := by
  simp only [dropMain]
  refine Kept.parts hk rfl rfl rfl rfl rfl id id (fun _ _ => ⟨rfl, by simp⟩) (fun _ => by simp) (fun _ => ?_) (fun _ h => h) id
  simp only [restoredEvents]
  split <;> rfl

theorem moveStaged_kept {g : State} (x1 : List StagedAlarm) (x2 : State) (hk : Kept g x2) :
    Kept g (moveStaged x1 x2) := by
  have hl : ∀ c l t, (movedLatch c l t).journal = t.journal ∧ (movedLatch c l t).full = t.full ∧
      (movedLatch c l t).counters = t.counters ∧ (movedLatch c l t).staging = t.staging := fun c l t => by
    simp only [movedLatch]
    split
    · simp
    · exact setLatch_journal _ _ _
  have h1 : ∀ c l x k, Kept g x → Kept g { x with tm := movedLatch c l x.tm, key := k } := fun c l x k h =>
    Kept.congr h (hl _ _ _).1 (hl _ _ _).2.1 (hl _ _ _).2.2.1 (hl _ _ _).2.2.2 rfl rfl rfl rfl rfl rfl rfl rfl
  induction x1 generalizing x2 with
  | nil => simpa only [moveStaged] using hk
  | cons c l ih =>
    simp only [moveStaged]
    exact ih _ (writeEntry_kept _ _ (countCause_kept _ _ _ (h1 _ _ _ _ hk)))

theorem countAll_kept {g : State} (x1 : List Nat) (x2 : State) (hk : Kept g x2) :
    Kept g (countAll x1 x2) := by
  induction x1 generalizing x2 with
  | nil => simp only [countAll]; with_reducible exact hk
  | cons c l ih =>
    simp only [countAll]
    iterate 12 (try any_goals first
      | with_reducible exact hk
      | with_reducible apply ih
      | with_reducible apply countCause_kept
      | with_reducible apply Kept.ite
      | split
      | with_reducible refine Kept.mk ?_ rfl rfl rfl rfl rfl rfl rfl rfl rfl rfl rfl rfl)

theorem moveBuffer_kept {g : State} (s : State) (hk : Kept g s) :
    Kept g (moveBuffer s) := by
  unfold moveBuffer
  extract_lets l n bm tm s0 s1 s2
  have h0 : Kept g s0 := moveStaged_kept _ _
    (Kept.parts hk rfl rfl rfl rfl rfl (fun _ => by simp) id (fun a b => ⟨a, b⟩) id id (fun h _ => h) id)
  have h1 : Kept g s1 := Kept.ite h0 (raiseEvent_kept _ _ _ _ h0)
  exact Kept.ite h1 (writeEntry_kept _ _ (countAll_kept _ _ (countCause_kept _ _ _ h1)))

theorem wipeConfig_kept {g : State} (s : State) (hk : Kept g s) :
    Kept g (wipeConfig s) := by
  simp only [wipeConfig]
  exact Kept.parts hk rfl rfl rfl rfl rfl id (fun _ => by simp) (fun a b => ⟨a, b⟩) id (fun _ => rfl) (fun _ _ => rfl)
    (fun _ => rfl)

theorem eraseBelow_kept {g : State} (n : Nat) (x1 : Tbl Zone) (x2 : State) (hk : Kept g x2) :
    Kept g (eraseBelow n x1 x2) := by
  induction x1 generalizing n x2 with
  | nil => simp only [eraseBelow]; with_reducible exact hk
  | cons c l ih =>
    simp only [eraseBelow]
    iterate 12 (try any_goals first
      | with_reducible exact hk
      | with_reducible apply ih
      | with_reducible apply eraseZone_kept
      | with_reducible apply Kept.ite
      | split
      | with_reducible refine Kept.mk ?_ rfl rfl rfl rfl rfl rfl rfl rfl rfl rfl rfl rfl)

theorem wipeZones_kept {g : State} (upTo : Nat) (rounds : Nat) (s : State) (hk : Kept g s) :
    Kept g (wipeZones upTo rounds s) := by
  simp only [wipeZones]
  iterate 12 (try any_goals first
    | with_reducible exact hk
    | with_reducible apply eraseBelow_kept
    | with_reducible apply Kept.ite
    | split
    | with_reducible refine Kept.mk ?_ rfl rfl rfl rfl rfl rfl rfl rfl rfl rfl rfl rfl)

theorem newEpoch_kept {g : State} (old : Nat) (s : State) (hk : Kept g s) :
    Kept g (newEpoch old s) := by
  simp only [newEpoch]
  iterate 12 (try any_goals first
    | with_reducible exact hk
    | with_reducible apply writeAnchors_kept
    | with_reducible apply Kept.ite
    | split
    | with_reducible refine Kept.mk ?_ rfl rfl rfl rfl rfl rfl rfl rfl rfl rfl rfl rfl)

theorem wipe_kept {g : State} (cut : Option (Nat × Nat)) (s : State) (hk : Kept g s) :
    Kept g (wipe cut s).2 := by
  have h1 : ∀ x l, Kept g x → l.scrapFuse = x.lcc.scrapFuse → Kept g { x with lcc := l } := fun x l h e =>
    Kept.congr h rfl rfl rfl rfl rfl rfl rfl rfl e rfl rfl rfl
  have h2 : ∀ k, Kept g { s with key := k } := fun k => Kept.congr hk rfl rfl rfl rfl rfl rfl rfl rfl rfl rfl rfl rfl
  have i1 : ∀ (c : Prop) [Decidable c] x, Kept g x → Kept g (if c then wipeConfig x else x) := fun c _ x h =>
    Kept.ite (wipeConfig_kept _ h) h
  have i2 : ∀ (c : Prop) [Decidable c] a b x, Kept g x → Kept g (if c then wipeZones a b x else x) := fun c _ a b x h =>
    Kept.ite (wipeZones_kept _ _ _ h) h
  have i3 : ∀ (c : Prop) [Decidable c] a x, Kept g x → Kept g (if c then newEpoch a x else x) := fun c _ a x h =>
    Kept.ite (newEpoch_kept _ _ h) h
  simp only [wipe]
  split
  all_goals
    refine h1 _ _ (i3 _ _ _ (i2 _ _ _ _ (i1 _ _ (Kept.ite (h2 _) hk)))) rfl

theorem commitLife_kept {g : State} (t : LifeState) (s : State) (hk : Kept g s) :
    Kept g (commitLife t s) := by
  simp only [commitLife]
  iterate 12 (try any_goals first
    | with_reducible exact hk
    | with_reducible apply Kept.ite
    | split
    | with_reducible refine Kept.mk ?_ rfl rfl rfl rfl rfl rfl rfl rfl rfl rfl rfl rfl)

theorem applyTransition_kept {g : State} (cut : Option (Nat × Nat)) (s : State) (hk : Kept g s) :
    Kept g (applyTransition cut s).2 := by
  have h1 : ∀ x l, Kept g x → (x.lcc.scrapFuse = true → l.scrapFuse = true) → Kept g { x with lcc := l } := fun x l h e =>
    Kept.fuse h e
  have h2 : ∀ l, l.scrapFuse = s.lcc.scrapFuse → Kept g { s with lcc := l } := fun l e => h1 _ _ hk fun h => by rw [e]; exact h
  have h3 : ∀ x k, Kept g x → Kept g { x with key := k } := fun x k h =>
    Kept.congr h rfl rfl rfl rfl rfl rfl rfl rfl rfl rfl rfl rfl
  simp only [applyTransition]
  split
  · exact hk
  · rename_i t _
    split
    · split
      · exact h1 _ _ (commitLife_kept t _ (wipe_kept cut _ (h2 _ rfl))) fun h => by simp only [h, Bool.true_or]
      · exact wipe_kept cut _ (h2 _ rfl)
    · refine h1 _ _ (commitLife_kept t _ (Kept.ite (h3 _ _ (h2 _ rfl)) (h2 _ rfl))) fun h => by simp only [h, Bool.true_or]

theorem startAlarms_kept {g : State} (x1 : List (Nat × Nat × Nat)) (x2 : State) (hk : Kept g x2) :
    Kept g (startAlarms x1 x2) := by
  induction x1 generalizing x2 with
  | nil => simp only [startAlarms]; with_reducible exact hk
  | cons c l ih =>
    simp only [startAlarms]
    iterate 12 (try any_goals first
      | with_reducible exact hk
      | with_reducible apply ih
      | with_reducible apply raiseAlarm_kept
      | with_reducible apply zeroBbkr_kept
      | with_reducible apply quenchFinish_kept
      | with_reducible apply Kept.ite
      | split
      | with_reducible refine Kept.mk ?_ rfl rfl rfl rfl rfl rfl rfl rfl rfl rfl rfl rfl)

theorem moveFailed_kept {g : State} (fails : List Nat) (x1 : Nat) (x2 : State) (hk : Kept g x2) :
    Kept g (moveFailed fails x1 x2) := by
  induction x1 generalizing fails x2 with
  | zero => simp only [moveFailed]; with_reducible exact hk
  | succ n ih =>
    simp only [moveFailed]
    iterate 12 (try any_goals first
      | with_reducible exact hk
      | with_reducible apply ih
      | with_reducible apply movePorts_kept
      | with_reducible apply Kept.ite
      | split
      | with_reducible refine Kept.mk ?_ rfl rfl rfl rfl rfl rfl rfl rfl rfl rfl rfl rfl)

theorem startTests_kept {g : State} (fails0 : List Nat) (s : State) (hk : Kept g s) :
    Kept g (startTests fails0 s) := by
  simp only [startTests]
  iterate 12 (try any_goals first
    | with_reducible exact hk
    | with_reducible apply securityRec_kept
    | with_reducible apply rnuFail_kept
    | with_reducible apply moveFailed_kept
    | with_reducible apply Kept.ite
    | split
    | with_reducible refine Kept.mk ?_ rfl rfl rfl rfl rfl rfl rfl rfl rfl rfl rfl rfl)

theorem noteTrialFailed_kept {g : State} (s : State) (hk : Kept g s) :
    Kept g (noteTrialFailed s) := by
  simp only [noteTrialFailed]
  iterate 12 (try any_goals first
    | with_reducible exact hk
    | with_reducible apply raiseEvent_kept
    | with_reducible apply securityRec_kept
    | with_reducible apply Kept.ite
    | split
    | with_reducible refine Kept.mk ?_ rfl rfl rfl rfl rfl rfl rfl rfl rfl rfl rfl rfl)

theorem chooseFirmware_kept {g : State} (ok0 : Bool) (ok1 : Bool) (s : State) (hk : Kept g s) :
    Kept g (chooseFirmware ok0 ok1 s) := by
  have h1 : ∀ p, p.floor = s.pwr.floor → Kept g { s with pwr := p } := fun p e =>
    Kept.congr hk rfl rfl rfl rfl rfl rfl rfl e rfl rfl rfl rfl
  have h2 : ∀ (c : Prop) [Decidable c] x, Kept g x → Kept g (if c then noteTrialFailed x else x) := fun c _ x h =>
    Kept.ite (noteTrialFailed_kept _ h) h
  have h3 : ∀ (c : Bool) (p : Pwr), (if c = true then p.untried else p).floor = p.floor := fun c p => by cases c <;> rfl
  simp only [chooseFirmware]
  split
  · exact h2 _ _ (h1 _ rfl)
  · refine h2 _ _ ?_
    split
    · exact h1 _ (h3 _ _)
    · split
      · refine raiseEvent_kept _ _ _ _ (securityRec_kept _ _ _ _ _ (h1 _ ?_))
        simp only [Pwr.run, Pwr.setSlot_floor, h3]
      · exact h1 _ (h3 _ _)

theorem loadRules_kept {g : State} (s : State) (hk : Kept g s) :
    Kept g (loadRules s) := by
  simp only [loadRules]
  iterate 12 (try any_goals first
    | with_reducible exact hk
    | with_reducible apply Kept.ite
    | split
    | with_reducible refine Kept.mk ?_ rfl rfl rfl rfl rfl rfl rfl rfl rfl rfl rfl rfl)

theorem checkJournal_kept {g : State} (bad : Option Nat) (s : State) (hk : Kept g s) :
    Kept g (checkJournal bad s) := by
  simp only [checkJournal]
  iterate 12 (try any_goals first
    | with_reducible exact hk
    | with_reducible apply raiseLogic_kept
    | with_reducible apply Kept.ite
    | split
    | with_reducible refine Kept.mk ?_ rfl rfl rfl rfl rfl rfl rfl rfl rfl rfl rfl rfl)

theorem checkRoot_kept {g : State} (s : State) (hk : Kept g s) :
    Kept g (checkRoot s) := by
  simp only [checkRoot]
  iterate 12 (try any_goals first
    | with_reducible exact hk
    | with_reducible apply raiseAlarm_kept
    | with_reducible apply startAlarms_kept
    | with_reducible apply Kept.ite
    | split
    | with_reducible refine Kept.mk ?_ rfl rfl rfl rfl rfl rfl rfl rfl rfl rfl rfl rfl)

theorem defaultGroups_kept {g : State} (x1 : Nat) (x2 : State) (hk : Kept g x2) :
    Kept g (defaultGroups x1 x2) := by
  induction x1 generalizing x2 with
  | zero => simpa only [defaultGroups] using hk
  | succ n ih =>
    simp only [defaultGroups]
    exact Kept.rw (ih _ hk) fun h => Tbl.del_wf _ _ h

theorem checkGroups_kept {g : State} (s : State) (hk : Kept g s) :
    Kept g (checkGroups s) := by
  simp only [checkGroups]
  iterate 12 (try any_goals first
    | with_reducible exact hk
    | with_reducible apply raiseEvent_kept
    | with_reducible apply defaultGroups_kept
    | with_reducible apply Kept.ite
    | split
    | with_reducible refine Kept.mk ?_ rfl rfl rfl rfl rfl rfl rfl rfl rfl rfl rfl rfl)

theorem startClock_kept {g : State} (s : State) (hk : Kept g s) :
    Kept g (startClock s) := by
  simp only [startClock]
  iterate 12 (try any_goals first
    | with_reducible exact hk
    | with_reducible apply reBound_kept
    | with_reducible apply Kept.ite
    | split
    | with_reducible refine Kept.mk ?_ rfl rfl rfl rfl rfl rfl rfl rfl rfl rfl rfl rfl)

theorem closeTorn_kept {g : State} (l : Nat) (endUnit : Nat) (s : State) (hk : Kept g s) :
    Kept g (closeTorn l endUnit s) := by
  simp only [closeTorn]
  split
  · exact hk
  · split
    · exact hk
    · exact Kept.congr hk rfl rfl rfl rfl (setLog_windows _ _ _) rfl rfl rfl rfl rfl rfl rfl

theorem closeAllTorn_kept {g : State} (x1 : List (Nat × Nat)) (x2 : State) (hk : Kept g x2) :
    Kept g (closeAllTorn x1 x2) := by
  induction x1 generalizing x2 with
  | nil => simp only [closeAllTorn]; with_reducible exact hk
  | cons c l ih =>
    simp only [closeAllTorn]
    iterate 12 (try any_goals first
      | with_reducible exact hk
      | with_reducible apply ih
      | with_reducible apply closeTorn_kept
      | with_reducible apply Kept.ite
      | split
      | with_reducible refine Kept.mk ?_ rfl rfl rfl rfl rfl rfl rfl rfl rfl rfl rfl rfl)

theorem tornRecords_kept {g : State} (before : State) (x1 : List (Nat × Nat)) (x2 : State) (hk : Kept g x2) :
    Kept g (tornRecords before x1 x2) := by
  induction x1 generalizing before x2 with
  | nil => simp only [tornRecords]; with_reducible exact hk
  | cons c l ih =>
    simp only [tornRecords]
    iterate 12 (try any_goals first
      | with_reducible exact hk
      | with_reducible apply ih
      | with_reducible apply openZone_kept
      | with_reducible apply appendRecord_kept
      | with_reducible apply Kept.ite
      | split
      | with_reducible refine Kept.mk ?_ rfl rfl rfl rfl rfl rfl rfl rfl rfl rfl rfl rfl)

theorem startWindows_kept {g : State} (x1 : List CapWindow) (x2 : State) (hk : Kept g x2) :
    Kept g (startWindows x1 x2) := by
  induction x1 generalizing x2 with
  | nil => simp only [startWindows]; with_reducible exact hk
  | cons c l ih =>
    simp only [startWindows]
    iterate 12 (try any_goals first
      | with_reducible exact hk
      | with_reducible apply ih
      | with_reducible apply windowRec_kept
      | with_reducible apply dropWindow_kept
      | with_reducible apply Kept.ite
      | split
      | with_reducible refine Kept.mk ?_ rfl rfl rfl rfl rfl rfl rfl rfl rfl rfl rfl rfl)

theorem startArchive_kept {g : State} (cause : Nat) (torn : List (Nat × Nat)) (wiped : Option (Nat × Nat)) (s : State) (hk : Kept g s) :
    Kept g (startArchive cause torn wiped s) := by
  simp only [startArchive]
  iterate 12 (try any_goals first
    | with_reducible exact hk
    | with_reducible apply appendRecord_kept
    | with_reducible apply appendCheckpoint_kept
    | with_reducible apply closeAllTorn_kept
    | with_reducible apply tornRecords_kept
    | with_reducible apply startWindows_kept
    | with_reducible apply Kept.ite
    | split
    | with_reducible refine Kept.mk ?_ rfl rfl rfl rfl rfl rfl rfl rfl rfl rfl rfl rfl)

theorem readImage_kept {g : State} (l : List (Nat × Bool × Bool)) (f : Nat) (standby : Bool) (n : Option Nat) (s : State) (hk : Kept g s) :
    Kept g (readImage l f standby n s).2 := by
  simp only [readImage]
  split
  · exact hk
  · exact planEvent_kept _ _ _ _ _ hk
  · exact hk

theorem installActive_kept {g : State} (f : Nat) (p : Partition) (i : PlanImage) (s : State) (hk : Kept g s) :
    Kept g (installActive f p i s) := by
  simp only [installActive]
  iterate 12 (try any_goals first
    | with_reducible exact hk
    | with_reducible apply planEvent_kept
    | with_reducible apply State.setPart_kept
    | with_reducible apply Kept.ite
    | split
    | with_reducible refine Kept.mk ?_ rfl rfl rfl rfl rfl rfl rfl rfl rfl rfl rfl rfl)

theorem restartActive_kept {g : State} (l : List (Nat × Bool × Bool)) (f : Nat) (p : Partition) (s : State) (hk : Kept g s) :
    Kept g (restartActive l f p s) := by
  simp only [restartActive]
  iterate 12 (try any_goals first
    | with_reducible exact hk
    | with_reducible apply planEvent_kept
    | with_reducible apply State.setPart_kept
    | with_reducible apply readImage_kept
    | with_reducible apply installActive_kept
    | with_reducible apply Kept.ite
    | split
    | with_reducible refine Kept.mk ?_ rfl rfl rfl rfl rfl rfl rfl rfl rfl rfl rfl rfl)

theorem loseStandby_kept {g : State} (f : Nat) (p : Partition) (s : State) (hk : Kept g s) :
    Kept g (loseStandby f p s) := by
  simp only [loseStandby]
  iterate 12 (try any_goals first
    | with_reducible exact hk
    | with_reducible apply dropImage_kept
    | with_reducible apply State.setPart_kept
    | with_reducible apply Kept.ite
    | split
    | with_reducible refine Kept.mk ?_ rfl rfl rfl rfl rfl rfl rfl rfl rfl rfl rfl rfl)

theorem restartHeld_kept {g : State} (l : List (Nat × Bool × Bool)) (f : Nat) (p : Partition) (s : State) (hk : Kept g s) :
    Kept g (restartHeld l f p s) := by
  simp only [restartHeld]
  iterate 12 (try any_goals first
    | with_reducible exact hk
    | with_reducible apply planEvent_kept
    | with_reducible apply State.setPart_kept
    | with_reducible apply readImage_kept
    | with_reducible apply loseStandby_kept
    | with_reducible apply Kept.ite
    | split
    | with_reducible refine Kept.mk ?_ rfl rfl rfl rfl rfl rfl rfl rfl rfl rfl rfl rfl)

theorem restartPart_kept {g : State} (l : List (Nat × Bool × Bool)) (f : Nat) (p : Partition) (s : State) (hk : Kept g s) :
    Kept g (restartPart l f p s) := by
  simp only [restartPart]
  iterate 12 (try any_goals first
    | with_reducible exact hk
    | with_reducible apply dropImage_kept
    | with_reducible apply State.setPart_kept
    | with_reducible apply releasePart_kept
    | with_reducible apply restartActive_kept
    | with_reducible apply restartHeld_kept
    | with_reducible apply Kept.ite
    | split
    | with_reducible refine Kept.mk ?_ rfl rfl rfl rfl rfl rfl rfl rfl rfl rfl rfl rfl)

theorem restartParts_kept {g : State} (l : List (Nat × Bool × Bool)) (x1 : Tbl Partition) (x2 : State) (hk : Kept g x2) :
    Kept g (restartParts l x1 x2) := by
  induction x1 generalizing l x2 with
  | nil => simp only [restartParts]; with_reducible exact hk
  | cons c l ih =>
    simp only [restartParts]
    iterate 12 (try any_goals first
      | with_reducible exact hk
      | with_reducible apply ih
      | with_reducible apply restartPart_kept
      | with_reducible apply Kept.ite
      | split
      | with_reducible refine Kept.mk ?_ rfl rfl rfl rfl rfl rfl rfl rfl rfl rfl rfl rfl)

theorem restartPlans_kept {g : State} (l : List (Nat × Bool × Bool)) (s : State) (hk : Kept g s) :
    Kept g (restartPlans l s) := by
  simp only [restartPlans]
  iterate 12 (try any_goals first
    | with_reducible exact hk
    | with_reducible apply unwrapAll_kept
    | with_reducible apply restartParts_kept
    | with_reducible apply Kept.ite
    | split
    | with_reducible refine Kept.mk ?_ rfl rfl rfl rfl rfl rfl rfl rfl rfl rfl rfl rfl)

theorem emptyBanks_kept {g : State} (s : State) (hk : Kept g s) :
    Kept g (emptyBanks s) := by
  simp only [emptyBanks]
  iterate 12 (try any_goals first
    | with_reducible exact hk
    | with_reducible apply Kept.ite
    | split
    | with_reducible refine Kept.mk ?_ rfl rfl rfl rfl rfl rfl rfl rfl rfl rfl rfl rfl)

theorem stopModule_kept {g : State} (s : State) (hk : Kept g s) :
    Kept g (stopModule s) := by
  simp only [stopModule]
  iterate 12 (try any_goals first
    | with_reducible exact hk
    | with_reducible apply Kept.ite
    | split
    | with_reducible refine Kept.mk ?_ rfl rfl rfl rfl rfl rfl rfl rfl rfl rfl rfl rfl)

theorem holdAll_kept {g : State} (x1 : Nat) (x2 : State) (hk : Kept g x2) :
    Kept g (holdAll x1 x2) := by
  induction x1 generalizing x2 with
  | zero => simp only [holdAll]; with_reducible exact hk
  | succ n ih =>
    simp only [holdAll]
    iterate 12 (try any_goals first
      | with_reducible exact hk
      | with_reducible apply ih
      | with_reducible apply holdLink_kept
      | with_reducible apply Kept.ite
      | split
      | with_reducible refine Kept.mk ?_ rfl rfl rfl rfl rfl rfl rfl rfl rfl rfl rfl rfl)

theorem startRest_kept {g : State} (i : StartIn) (cause : Nat) (old : Nat) (wiped : Option (Nat × Nat)) (s : State) (hk : Kept g s) :
    Kept g (startRest i cause old wiped s) := by
  unfold startRest
  extract_lets n bootId k l s1 s2 tm s3 s4 s5 s6 s6a hif s7 reach
  have h0 : ∀ a b c, Kept g { s with lcc := { s.lcc with starts := a, bootId := b }, key := { s.key with identity := c } } :=
    fun a b c => Kept.congr hk rfl rfl rfl rfl rfl rfl rfl rfl rfl rfl rfl rfl
  have h1 : Kept g s1 := h0 _ _ _
  have h2 : Kept g s2 := startAlarms_kept _ _ (noteLevel_kept _ _ _ h1)
  have h3 : Kept g s3 := startTests_kept _ _ (Kept.congr h2 rfl rfl rfl rfl rfl rfl rfl rfl rfl rfl rfl rfl)
  have h4 : Kept g s4 := chooseFirmware_kept _ _ _ h3
  have h5 : Kept g s5 := checkGroups_kept _ (checkRoot_kept _ (checkJournal_kept _ _ (loadRules_kept _ h4)))
  have h6 : Kept g s6 := holdAll_kept _ _ (Kept.ite (addCondAll_kept _ _ _ h5) h5)
  have h6a : Kept g s6a := Kept.ite (rnuReady_kept _ h6) h6
  have h7 : Kept g s7 := startArchive_kept _ _ _ _ (pfShare_kept _ (Kept.congr h6a rfl rfl rfl rfl rfl rfl rfl rfl rfl rfl rfl rfl))
  have hr : ∀ p x, Kept g x → Kept g (reach p x) := fun p x h => Kept.congr h rfl rfl rfl rfl rfl rfl rfl rfl rfl rfl rfl rfl
  exact Kept.ite (hr _ _ (emptyBanks_kept _ h7)) (Kept.ite (hr _ _ (emptyBanks_kept _ h7)) (hr _ _ (restartPlans_kept _ _ h7)))

theorem losePower_kept {g : State} (s : State) (hk : Kept g s) :
    Kept g (losePower s) := by
  simp only [losePower]
  iterate 12 (try any_goals first
    | with_reducible exact hk
    | with_reducible apply Kept.ite
    | split
    | with_reducible refine Kept.mk ?_ rfl rfl rfl rfl rfl rfl rfl rfl rfl rfl rfl rfl)

theorem startMain_kept {g : State} (i : StartIn) (cause : Nat) (s : State) (hk : Kept g s) :
    Kept g (startMain i cause s) := by
  have h1 : ∀ x p l r c b q, Kept g x → p.floor = x.pwr.floor → Kept g { x with pwr := p, tm := { x.tm with quenchW := l, quenchR := r, clearHold := c, reprovPending := b, present := q } } := fun x p l r c b q h e =>
    Kept.congr h rfl rfl rfl rfl rfl rfl rfl e rfl rfl rfl rfl
  have h2 : ∀ x l, Kept g x → l.scrapFuse = x.lcc.scrapFuse → Kept g { x with lcc := l } := fun x l h e =>
    Kept.congr h rfl rfl rfl rfl rfl rfl rfl rfl e rfl rfl rfl
  have h3 : ∀ x b, Kept g x → Kept g { x with tm := { x.tm with restrictOn := b } } := fun x b h =>
    Kept.congr h rfl rfl rfl rfl rfl rfl rfl rfl rfl rfl rfl rfl
  have h4 := dropMain_kept _ (passRtc_kept i.cycles s hk)
  simp only [startMain]
  generalize dropMain (passRtc i.cycles s) = x at h4
  have h5 := fun p l r c b q e => h1 x p l r c b q h4 e
  refine Kept.ite (stopModule_kept _ (h5 _ _ _ _ _ _ rfl)) ?_
  split
  · exact stopModule_kept _ (h5 _ _ _ _ _ _ rfl)
  · rename_i c _
    split
    all_goals
      rename_i s5 e
      have h6 : Kept g s5 := by
        have e2 := congrArg Prod.snd e
        simp only at e2
        rw [← e2]
        exact applyTransition_kept _ _ (h3 _ _ (moveBuffer_kept _ (startClock_kept _ (h2 _ _ (h5 _ _ _ _ _ _ rfl) rfl))))
    · exact losePower_kept _ (dropMain_kept _ h6)
    · exact Kept.ite (stopModule_kept _ (h3 _ _ h6)) (startRest_kept _ _ _ _ _ (h3 _ _ h6))

theorem resetModule_kept {g : State} (i : StartIn) (cause : Nat) (final : Bool) (s : State) (hk : Kept g s) :
    Kept g (resetModule i cause final s) := by
  simp only [resetModule]
  iterate 12 (try any_goals first
    | with_reducible exact hk
    | with_reducible apply rtcSet_kept
    | with_reducible apply powerDown_kept
    | with_reducible apply startMain_kept
    | with_reducible apply Kept.ite
    | split
    | with_reducible refine Kept.mk ?_ rfl rfl rfl rfl rfl rfl rfl rfl rfl rfl rfl rfl)

theorem orderReset_kept {g : State} (i : StartIn) (cause : Nat) (s : State) (hk : Kept g s) :
    Kept g (orderReset i cause s) := by
  simp only [orderReset]
  iterate 12 (try any_goals first
    | with_reducible exact hk
    | with_reducible apply resetModule_kept
    | with_reducible apply Kept.ite
    | split
    | with_reducible refine Kept.mk ?_ rfl rfl rfl rfl rfl rfl rfl rfl rfl rfl rfl rfl)

theorem holdReset_kept {g : State} (s : State) (hk : Kept g s) :
    Kept g (holdReset s) := by
  simp only [holdReset]
  iterate 12 (try any_goals first
    | with_reducible exact hk
    | with_reducible apply rtcSet_kept
    | with_reducible apply powerDown_kept
    | with_reducible apply dropMain_kept
    | with_reducible apply Kept.ite
    | split
    | with_reducible refine Kept.mk ?_ rfl rfl rfl rfl rfl rfl rfl rfl rfl rfl rfl rfl)

theorem failTrial_kept {g : State} (s : State) (hk : Kept g s) :
    Kept g (failTrial s) := by
  simp only [failTrial]
  iterate 12 (try any_goals first
    | with_reducible exact hk
    | with_reducible apply Kept.ite
    | split
    | with_reducible refine Kept.mk ?_ rfl rfl rfl rfl rfl rfl rfl rfl rfl rfl rfl rfl)

theorem unfeedStandby_kept {g : State} (s : State) (hk : Kept g s) :
    Kept g (unfeedStandby s) := by
  simp only [unfeedStandby]
  iterate 12 (try any_goals first
    | with_reducible exact hk
    | with_reducible apply Kept.ite
    | split
    | with_reducible refine Kept.mk ?_ rfl rfl rfl rfl rfl rfl rfl rfl rfl rfl rfl rfl)

end Sys2Proof.Machine
end

