-- ==== Sys2Proof/Laws/KeptExec.lean ====
section
/-! SUPPORT. What the shapes of a meaning keep: an operation, a command of the main domain, an access through a BAR, a walk. -/

namespace Sys2Proof.Machine

/-- An operation keeps what its own effect keeps. -/
theorem runOp_kept {g : State} (op : Nat) (q : Call) (space : Nat) (s : State) (k : State → OpOut) (hk : Kept g s)
    (h : Kept g ((k s).after s)) : Kept g (runOp op q space s k) := by
  simp only [runOp]
  split
  · exact hk
  · split
    · exact complete_kept _ _ _ hk
    · cases e : k s with
      | done c t =>
        rw [e] at h
        exact complete_kept _ _ _ h
      | wait => exact holdOp_kept _ _ hk
      | running t =>
        rw [e] at h
        exact h
      | busy => exact hk

theorem onMain_kept {g : State} (s : State) (k : Host.Outcome State Fault Refusal) (hk : Kept g s)
    (h : Kept g (stateOf s k)) : Kept g (stateOf s (onMain s k)) := by
  simp only [onMain]
  split
  · exact h
  · exact hk

theorem viaBar_kept {g : State} (f : Nat) (s : State) (k : Host.Outcome State Fault Refusal) (hk : Kept g s)
    (h : Kept g (stateOf s k)) : Kept g (stateOf s (viaBar f s k)) := by
  simp only [viaBar]
  split
  · exact hk
  · split
    · exact emit_kept _ _ hk
    · exact h

theorem foldl_kept {β : Type} {g : State} (act : State → β → State) (h : ∀ s b, Kept g s → Kept g (act s b)) (l : List β)
    (s : State) (hk : Kept g s) : Kept g (l.foldl act s) := by
  induction l generalizing s with
  | nil => exact hk
  | cons c l ih => exact ih _ (h _ _ hk)

/-- An outcome that is a next state. -/
theorem stateOf_kept {g : State} (s t : State) (h : Kept g t) : Kept g (stateOf s (.next t)) := h

theorem stateOf_ite_kept {g : State} (s : State) {c : Prop} [Decidable c] (a b : Host.Outcome State Fault Refusal)
    (h1 : Kept g (stateOf s a)) (h2 : Kept g (stateOf s b)) : Kept g (stateOf s (if c then a else b)) := by
  split
  · exact h1
  · exact h2

theorem stateOf_ite_kept' {g : State} (s : State) {c : Prop} [Decidable c] (a b : Host.Outcome State Fault Refusal)
    (h1 : c → Kept g (stateOf s a)) (h2 : Kept g (stateOf s b)) : Kept g (stateOf s (if c then a else b)) := by
  split
  · exact h1 ‹_›
  · exact h2

theorem after_ite_kept {g : State} (s : State) {c : Prop} [Decidable c] (a b : OpOut)
    (h1 : Kept g (a.after s)) (h2 : Kept g (b.after s)) : Kept g ((if c then a else b).after s) := by
  split
  · exact h1
  · exact h2

theorem after_done_kept {g : State} (s t : State) (c : Completion) (h : Kept g t) : Kept g ((OpOut.done c t).after s) := h

theorem after_running_kept {g : State} (s t : State) (h : Kept g t) : Kept g ((OpOut.running t).after s) := h

/-- A draw goes on, is held, or completes. -/
theorem withDraw_kept {g : State} (q : Call) (s r : State) (k : State → OpOut) (hk : Kept g s) (hr : Kept g r)
    (h : Kept g ((k s).after r)) : Kept g ((withDraw q s k).after r) := by
  simp only [withDraw]
  split
  · exact h
  · exact hr
  · exact hk

theorem withKey_kept {g : State} (f hd : Nat) (kinds : List Nat) (usage : Nat) (s r : State) (k : LoadedKey → OpOut)
    (hk : Kept g s) (hr : Kept g r) (h : ∀ v, Kept g ((k v).after r)) : Kept g ((withKey f hd kinds usage s k).after r) := by
  simp only [withKey]
  split
  · exact hk
  · exact hr
  · exact h _

theorem withOwnKey_kept {g : State} (f hd : Nat) (server : Bool) (s r : State) (k : OpOut)
    (hk : Kept g s) (hr : Kept g r) (h : Kept g (k.after r)) : Kept g ((withOwnKey f hd server s k).after r) := by
  simp only [withOwnKey]
  split
  · exact h
  · exact withKey_kept _ _ _ _ _ _ _ hk hr fun _ => h

theorem withAuth_kept {g : State} (a : AuthReq) (inLen op dom role n : Nat) (used : List (Nat × Nat)) (ok : Bool) (s r : State) (k : State → OpOut)
    (hk : Kept g s) (h : Kept g ((k (acceptRequest a op s)).after r)) :
    Kept g ((withAuth a inLen op dom role n used ok s k).after r) := by
  simp only [withAuth]
  split
  · exact hk
  · split
    · exact h
    · exact hk

theorem needOut_kept {g : State} (q : Call) (n : Nat) (s r : State) (k : OpOut)
    (hk : Kept g s) (h : Kept g (k.after r)) : Kept g ((needOut q n s k).after r) := by
  simp only [needOut]
  split
  · exact hk
  · exact h

theorem inTurn_kept {g : State} (q : Call) (n : Nat) (s r : State) (k : OpOut) (hr : Kept g r) (h : Kept g (k.after r)) :
    Kept g ((inTurn q n s k).after r) := by
  simp only [inTurn]
  split
  · exact hr
  · exact h

theorem loadDraw_kept {g : State} (q : Call) (kind : Nat) (s r : State) (k : State → OpOut) (hk : Kept g s) (hr : Kept g r)
    (h : ∀ t, Kept g t → Kept g ((k t).after r)) : Kept g ((loadDraw q kind s k).after r) := by
  simp only [loadDraw]
  split
  · exact withDraw_kept _ _ _ _ hk hr (h _ hk)
  · exact h _ hk

end Sys2Proof.Machine
end

