-- ==== Sys2Proof/Laws/StepsPorts.lean ====
section
/-! SUPPORT. What each meaning of Machine/Ports.lean keeps (Laws/Kept.lean), once for each command. -/

namespace Sys2Proof.Machine

theorem execPortLinkChange_kept {g0 : State} (port : Nat) (up : Bool) (s : State) (hk : Kept g0 s) :
    Kept g0 (stateOf s (execPortLinkChange port up s)) := by
  simp only [execPortLinkChange]
  iterate 16 (try any_goals first
    | with_reducible exact hk
    | with_reducible refine onMain_kept _ _ hk ?_
    | with_reducible apply stateOf_kept
    | with_reducible apply stateOf_ite_kept
    | with_reducible apply linkUp_kept
    | with_reducible apply linkDown_kept
    | with_reducible apply Kept.ite
    | intro _
    | split
    | with_reducible refine Kept.mk ?_ rfl rfl rfl rfl rfl rfl rfl rfl rfl rfl rfl rfl)

theorem execLanDeadTimeout_kept {g0 : State} (port : Nat) (s : State) (hk : Kept g0 s) :
    Kept g0 (stateOf s (execLanDeadTimeout port s)) := by
  simp only [execLanDeadTimeout]
  iterate 16 (try any_goals first
    | with_reducible exact hk
    | with_reducible refine onMain_kept _ _ hk ?_
    | with_reducible apply stateOf_kept
    | with_reducible apply stateOf_ite_kept
    | with_reducible apply declareDead_kept
    | with_reducible apply Kept.ite
    | intro _
    | split
    | with_reducible refine Kept.mk ?_ rfl rfl rfl rfl rfl rfl rfl rfl rfl rfl rfl rfl)

theorem execDupSourceForget_kept {g0 : State} (pair : Nat) (src : Nat) (s : State) (hk : Kept g0 s) :
    Kept g0 (stateOf s (execDupSourceForget pair src s)) := by
  simp only [execDupSourceForget]
  iterate 16 (try any_goals first
    | with_reducible exact hk
    | with_reducible refine onMain_kept _ _ hk ?_
    | with_reducible apply stateOf_kept
    | with_reducible apply stateOf_ite_kept
    | with_reducible apply State.setPair_kept
    | with_reducible apply Kept.ite
    | intro _
    | split
    | with_reducible refine Kept.mk ?_ rfl rfl rfl rfl rfl rfl rfl rfl rfl rfl rfl rfl)

theorem execFrameReceived_kept {g0 : State} (fr : Frame) (ctrError : Bool) (s : State) (hk : Kept g0 s) :
    Kept g0 (stateOf s (execFrameReceived fr ctrError s)) := by
  simp only [execFrameReceived]
  refine onMain_kept _ _ hk (stateOf_ite_kept _ _ _ hk (stateOf_ite_kept _ _ _ (bumpPort_kept _ _ _ _ (heard_kept _ _ hk)) ?_))
  have h1 := bumpPort_kept fr.port pRxBytes (lineLength fr) _ (bumpPort_kept fr.port pRxFrames 1 _ (heard_kept fr.port s hk))
  generalize bumpPort fr.port pRxBytes (lineLength fr) (bumpPort fr.port pRxFrames 1 (heard fr.port s)) = s1 at h1 ⊢
  have h2 := macsecReceive_kept fr _ h1
  generalize macsecReceive fr s1 = m at h2 ⊢
  have h3 := pairReceive_kept fr _ h2
  generalize pairReceive fr m.2 = r at h3 ⊢
  exact stateOf_ite_kept _ _ _ (bumpPort_kept _ _ _ _ h1) (stateOf_ite_kept _ _ _ (bumpPort_kept _ _ _ _ h1)
    (stateOf_ite_kept _ _ _ h2 (Kept.ite (admitFrame_kept _ _ _ h3) h3)))

theorem execSupervisionSend_kept {g0 : State} (s : State) (hk : Kept g0 s) :
    Kept g0 (stateOf s (execSupervisionSend s)) := by
  simp only [execSupervisionSend]
  iterate 16 (try any_goals first
    | with_reducible exact hk
    | with_reducible refine onMain_kept _ _ hk ?_
    | with_reducible apply stateOf_kept
    | with_reducible apply stateOf_ite_kept
    | with_reducible apply sendSupervision_kept
    | with_reducible apply Kept.ite
    | intro _
    | split
    | with_reducible refine Kept.mk ?_ rfl rfl rfl rfl rfl rfl rfl rfl rfl rfl rfl rfl)

theorem execMkaExchange_kept {g0 : State} (port : Nat) (pdu : MkaPdu) (s : State) (hk : Kept g0 s) :
    Kept g0 (stateOf s (execMkaExchange port pdu s)) := by
  simp only [execMkaExchange]
  refine onMain_kept _ _ hk (stateOf_ite_kept _ _ _ hk ?_)
  split
  · exact hk
  · refine stateOf_ite_kept _ _ _ hk ?_
    split
    · exact stateOf_kept _ _ (State.updPort_kept _ _ _ hk)
    · refine stateOf_ite_kept _ _ _ (stateOf_kept _ _ (State.updPort_kept _ _ _ hk)) ?_
      split
      · exact stateOf_kept _ _ (State.updPort_kept _ _ _ hk)
      · exact installSak_kept _ _ _ _ _ (exchangeSak_kept _ _ _ _ _ (State.updPort_kept _ _ _ hk) _ ‹_›)

theorem execMkaHello_kept {g0 : State} (port : Nat) (s : State) (hk : Kept g0 s) :
    Kept g0 (stateOf s (execMkaHello port s)) := by
  simp only [execMkaHello]
  iterate 16 (try any_goals first
    | with_reducible exact hk
    | with_reducible refine onMain_kept _ _ hk ?_
    | with_reducible apply stateOf_kept
    | with_reducible apply stateOf_ite_kept
    | with_reducible apply State.updPort_kept
    | with_reducible apply sendPort_kept
    | with_reducible apply linkUp_kept
    | with_reducible apply Kept.ite
    | intro _
    | split
    | with_reducible refine Kept.mk ?_ rfl rfl rfl rfl rfl rfl rfl rfl rfl rfl rfl rfl)

theorem execMkaLifeExpiry_kept {g0 : State} (port : Nat) (s : State) (hk : Kept g0 s) :
    Kept g0 (stateOf s (execMkaLifeExpiry port s)) := by
  simp only [execMkaLifeExpiry]
  iterate 16 (try any_goals first
    | with_reducible exact hk
    | with_reducible refine onMain_kept _ _ hk ?_
    | with_reducible apply stateOf_kept
    | with_reducible apply stateOf_ite_kept
    | with_reducible apply State.updPort_kept
    | with_reducible apply addCond_kept
    | with_reducible apply linkUp_kept
    | with_reducible apply Kept.ite
    | intro _
    | split
    | with_reducible refine Kept.mk ?_ rfl rfl rfl rfl rfl rfl rfl rfl rfl rfl rfl rfl)

theorem execPnExhausted_kept {g0 : State} (port : Nat) (s : State) (hk : Kept g0 s) :
    Kept g0 (stateOf s (execPnExhausted port s)) := by
  simp only [execPnExhausted]
  iterate 16 (try any_goals first
    | with_reducible exact hk
    | with_reducible refine onMain_kept _ _ hk ?_
    | with_reducible apply stateOf_kept
    | with_reducible apply stateOf_ite_kept
    | with_reducible apply addCond_kept
    | with_reducible apply Kept.ite
    | intro _
    | split
    | with_reducible refine Kept.mk ?_ rfl rfl rfl rfl rfl rfl rfl rfl rfl rfl rfl rfl)

theorem execPortMacsecSet_kept {g0 : State} (q : Call) (port : Nat) (priority : Nat) (replay : Nat) (cak : Nat) (s : State) (hk : Kept g0 s) :
    Kept g0 (stateOf s (execPortMacsecSet q port priority replay cak s)) := by
  simp only [execPortMacsecSet]
  iterate 16 (try any_goals first
    | with_reducible exact hk
    | with_reducible apply stateOf_kept
    | with_reducible refine runOp_kept _ _ _ _ _ hk ?_
    | with_reducible apply stateOf_ite_kept
    | with_reducible apply after_ite_kept
    | with_reducible apply after_done_kept
    | with_reducible apply after_running_kept
    | with_reducible refine withKey_kept _ _ _ _ _ _ _ hk hk ?_
    | with_reducible apply State.updPort_kept
    | with_reducible apply Kept.ite
    | intro _
    | split
    | with_reducible refine Kept.mk ?_ rfl rfl rfl rfl rfl rfl rfl rfl rfl rfl rfl rfl)

theorem execPortMacsecGet_kept {g0 : State} (q : Call) (port : Nat) (s : State) (hk : Kept g0 s) :
    Kept g0 (stateOf s (execPortMacsecGet q port s)) := by
  simp only [execPortMacsecGet]
  iterate 16 (try any_goals first
    | with_reducible exact hk
    | with_reducible apply stateOf_kept
    | with_reducible refine runOp_kept _ _ _ _ _ hk ?_
    | with_reducible apply stateOf_ite_kept
    | with_reducible apply after_ite_kept
    | with_reducible apply after_done_kept
    | with_reducible apply after_running_kept
    | with_reducible apply Kept.ite
    | intro _
    | split
    | with_reducible refine Kept.mk ?_ rfl rfl rfl rfl rfl rfl rfl rfl rfl rfl rfl rfl)

theorem execPortCfgWrite_kept {g0 : State} (port : Nat) (value : Nat) (s : State) (hk : Kept g0 s) :
    Kept g0 (stateOf s (execPortCfgWrite port value s)) := by
  simp only [execPortCfgWrite]
  exact viaBar_kept _ _ _ hk (stateOf_ite_kept _ _ _ hk (queueWrite_kept _ _ _ (Kept.rw hk fun h => Tbl.put_wf _ _ _ h)))

theorem execPairCfgWrite_kept {g0 : State} (pair : Nat) (value : Nat) (s : State) (hk : Kept g0 s) :
    Kept g0 (stateOf s (execPairCfgWrite pair value s)) := by
  simp only [execPairCfgWrite]
  refine viaBar_kept _ _ _ hk (stateOf_ite_kept _ _ _ hk (stateOf_ite_kept _ _ _ (Kept.rw hk fun h => Tbl.put_wf _ _ _ h)
    (queueWrite_kept _ _ _ (Kept.ite (setKind_kept _ _ _ ?_) ?_))))
  · exact Kept.rw hk fun h => Tbl.put_wf _ _ _ h
  · exact Kept.rw hk fun h => Tbl.put_wf _ _ _ h

theorem execStreamCounterLatch_kept {g0 : State} (f : Nat) (entry : Nat) (error : Bool) (s : State) (hk : Kept g0 s) :
    Kept g0 (stateOf s (execStreamCounterLatch f entry error s)) := by
  simp only [execStreamCounterLatch]
  iterate 16 (try any_goals first
    | with_reducible exact hk
    | with_reducible refine viaBar_kept _ _ _ hk ?_
    | with_reducible apply stateOf_kept
    | with_reducible apply stateOf_ite_kept
    | with_reducible apply counterError_kept
    | with_reducible apply Kept.ite
    | intro _
    | split
    | with_reducible refine Kept.mk ?_ rfl rfl rfl rfl rfl rfl rfl rfl rfl rfl rfl rfl)

theorem execPortCounterLatch_kept {g0 : State} (port : Nat) (s : State) (hk : Kept g0 s) :
    Kept g0 (stateOf s (execPortCounterLatch port s)) := by
  simp only [execPortCounterLatch]
  iterate 16 (try any_goals first
    | with_reducible exact hk
    | with_reducible refine viaBar_kept _ _ _ hk ?_
    | with_reducible apply stateOf_kept
    | with_reducible apply stateOf_ite_kept
    | with_reducible apply Kept.ite
    | intro _
    | split
    | with_reducible refine Kept.mk ?_ rfl rfl rfl rfl rfl rfl rfl rfl rfl rfl rfl rfl)

theorem execTimedPublish_kept {g0 : State} (q : Call) (entry : Nat) (port : Nat) (frame : Frame) (s : State) (hk : Kept g0 s) :
    Kept g0 (stateOf s (execTimedPublish q entry port frame s)) := by
  simp only [execTimedPublish]
  iterate 16 (try any_goals first
    | with_reducible exact hk
    | with_reducible apply stateOf_kept
    | with_reducible refine runOp_kept _ _ _ _ _ hk ?_
    | with_reducible apply stateOf_ite_kept
    | with_reducible apply after_ite_kept
    | with_reducible apply after_done_kept
    | with_reducible apply after_running_kept
    | with_reducible apply processFrame_kept
    | with_reducible apply Kept.ite
    | intro _
    | split
    | with_reducible refine Kept.mk ?_ rfl rfl rfl rfl rfl rfl rfl rfl rfl rfl rfl rfl)

end Sys2Proof.Machine
end

