-- ==== Sys2Proof/Laws/StepsPower.lean ====
section
/-! SUPPORT. What each meaning of Machine/Power.lean keeps (Laws/Kept.lean), once for each command. -/

namespace Sys2Proof.Machine

theorem execPowerGoodRise_kept {g0 : State} (i : StartIn) (s : State) (hk : Kept g0 s) :
    Kept g0 (stateOf s (execPowerGoodRise i s)) := by
  simp only [execPowerGoodRise]
  iterate 16 (try any_goals first
    | with_reducible exact hk
    | with_reducible apply stateOf_kept
    | with_reducible apply stateOf_ite_kept
    | with_reducible apply startMain_kept
    | with_reducible apply Kept.ite
    | intro _
    | split
    | with_reducible refine Kept.mk ?_ rfl rfl rfl rfl rfl rfl rfl rfl rfl rfl rfl rfl)

theorem execPowerGoodFall_kept {g0 : State} (s : State) (hk : Kept g0 s) :
    Kept g0 (stateOf s (execPowerGoodFall s)) := by
  simp only [execPowerGoodFall]
  iterate 16 (try any_goals first
    | with_reducible exact hk
    | with_reducible apply stateOf_kept
    | with_reducible apply stateOf_ite_kept
    | with_reducible apply rtcSet_kept
    | with_reducible apply linkUp_kept
    | with_reducible apply powerDown_kept
    | with_reducible apply dropMain_kept
    | with_reducible apply losePower_kept
    | with_reducible apply Kept.ite
    | intro _
    | split
    | with_reducible refine Kept.mk ?_ rfl rfl rfl rfl rfl rfl rfl rfl rfl rfl rfl rfl)

theorem execForwardingBegin_kept {g0 : State} (ms : Nat) (s : State) (hk : Kept g0 s) :
    Kept g0 (stateOf s (execForwardingBegin ms s)) := by
  have h1 : ∀ (w : CapWindow) (l : List CapWindow), (setWindow w l).length = l.length := fun w l => by
    induction l with
    | nil => rfl
    | cons c l ih =>
      simp only [setWindow]
      split <;> simp [ih]
  simp only [execForwardingBegin]
  refine stateOf_ite_kept _ _ _ ?_ hk
  refine foldl_kept _ (fun r w h => windowRec_kept _ _ _ (Kept.windows h fun e => ?_)) _ _ ?_
  · rw [h1]
    exact e
  · exact Kept.congr hk rfl rfl rfl rfl rfl rfl rfl rfl rfl rfl rfl rfl

theorem execResetNAssert_kept {g0 : State} (held : Bool) (i : StartIn) (s : State) (hk : Kept g0 s) :
    Kept g0 (stateOf s (execResetNAssert held i s)) := by
  simp only [execResetNAssert]
  iterate 16 (try any_goals first
    | with_reducible exact hk
    | with_reducible apply stateOf_kept
    | with_reducible apply stateOf_ite_kept
    | with_reducible apply orderReset_kept
    | with_reducible apply holdReset_kept
    | with_reducible apply Kept.ite
    | intro _
    | split
    | with_reducible refine Kept.mk ?_ rfl rfl rfl rfl rfl rfl rfl rfl rfl rfl rfl rfl)

theorem execResetNRelease_kept {g0 : State} (i : StartIn) (s : State) (hk : Kept g0 s) :
    Kept g0 (stateOf s (execResetNRelease i s)) := by
  simp only [execResetNRelease]
  iterate 16 (try any_goals first
    | with_reducible exact hk
    | with_reducible apply stateOf_kept
    | with_reducible apply stateOf_ite_kept
    | with_reducible apply startMain_kept
    | with_reducible apply Kept.ite
    | intro _
    | split
    | with_reducible refine Kept.mk ?_ rfl rfl rfl rfl rfl rfl rfl rfl rfl rfl rfl rfl)

theorem execModuleResetRequest_kept {g0 : State} (value : Nat) (i : StartIn) (s : State) (hk : Kept g0 s) :
    Kept g0 (stateOf s (execModuleResetRequest value i s)) := by
  simp only [execModuleResetRequest]
  iterate 16 (try any_goals first
    | with_reducible exact hk
    | with_reducible refine viaBar_kept _ _ _ hk ?_
    | with_reducible apply stateOf_kept
    | with_reducible apply stateOf_ite_kept
    | with_reducible apply orderReset_kept
    | with_reducible apply Kept.ite
    | intro _
    | split
    | with_reducible refine Kept.mk ?_ rfl rfl rfl rfl rfl rfl rfl rfl rfl rfl rfl rfl)

theorem execWatchdogReset_kept {g0 : State} (cause : Nat) (final : Bool) (i : StartIn) (s : State) (hk : Kept g0 s) :
    Kept g0 (stateOf s (execWatchdogReset cause final i s)) := by
  simp only [execWatchdogReset]
  iterate 16 (try any_goals first
    | with_reducible exact hk
    | with_reducible apply stateOf_kept
    | with_reducible apply stateOf_ite_kept
    | with_reducible apply resetModule_kept
    | with_reducible apply failTrial_kept
    | with_reducible apply Kept.ite
    | intro _
    | split
    | with_reducible refine Kept.mk ?_ rfl rfl rfl rfl rfl rfl rfl rfl rfl rfl rfl rfl)

theorem execQuenchWPath_kept {g0 : State} (failed : List (Nat × Nat)) (i : StartIn) (s : State) (hk : Kept g0 s) :
    Kept g0 (stateOf s (execQuenchWPath failed i s)) := by
  simp only [execQuenchWPath]
  iterate 16 (try any_goals first
    | with_reducible exact hk
    | with_reducible apply stateOf_kept
    | with_reducible apply stateOf_ite_kept
    | with_reducible apply quenchFinish_kept
    | with_reducible apply resetModule_kept
    | with_reducible apply holdReset_kept
    | with_reducible apply Kept.ite
    | intro _
    | split
    | with_reducible refine Kept.mk ?_ rfl rfl rfl rfl rfl rfl rfl rfl rfl rfl rfl rfl)

theorem execStandbyInputLoss_kept {g0 : State} (s : State) (hk : Kept g0 s) :
    Kept g0 (stateOf s (execStandbyInputLoss s)) := by
  simp only [execStandbyInputLoss]
  iterate 16 (try any_goals first
    | with_reducible exact hk
    | with_reducible apply stateOf_kept
    | with_reducible apply stateOf_ite_kept
    | with_reducible apply raiseEvent_kept
    | with_reducible apply unfeedStandby_kept
    | with_reducible apply Kept.ite
    | intro _
    | split
    | with_reducible refine Kept.mk ?_ rfl rfl rfl rfl rfl rfl rfl rfl rfl rfl rfl rfl)

theorem execStandbyInputReturn_kept {g0 : State} (a0 : Bool) (a1 : Bool) (s : State) (hk : Kept g0 s) :
    Kept g0 (stateOf s (execStandbyInputReturn a0 a1 s)) := by
  simp only [execStandbyInputReturn]
  iterate 16 (try any_goals first
    | with_reducible exact hk
    | with_reducible apply stateOf_kept
    | with_reducible apply stateOf_ite_kept
    | with_reducible apply Kept.ite
    | intro _
    | split
    | with_reducible refine Kept.mk ?_ rfl rfl rfl rfl rfl rfl rfl rfl rfl rfl rfl rfl)

theorem execSnowdropEntry_kept {g0 : State} (s : State) (hk : Kept g0 s) :
    Kept g0 (stateOf s (execSnowdropEntry s)) := by
  simp only [execSnowdropEntry]
  iterate 16 (try any_goals first
    | with_reducible exact hk
    | with_reducible apply stateOf_kept
    | with_reducible apply stateOf_ite_kept
    | with_reducible apply unfeedStandby_kept
    | with_reducible apply Kept.ite
    | intro _
    | split
    | with_reducible refine Kept.mk ?_ rfl rfl rfl rfl rfl rfl rfl rfl rfl rfl rfl rfl)

theorem execSupplyOutOfRange_kept {g0 : State} (mv : Nat) (s : State) (hk : Kept g0 s) :
    Kept g0 (stateOf s (execSupplyOutOfRange mv s)) := by
  simp only [execSupplyOutOfRange]
  iterate 16 (try any_goals first
    | with_reducible exact hk
    | with_reducible apply stateOf_kept
    | with_reducible apply stateOf_ite_kept
    | with_reducible apply raiseEvent_kept
    | with_reducible apply Kept.ite
    | intro _
    | split
    | with_reducible refine Kept.mk ?_ rfl rfl rfl rfl rfl rfl rfl rfl rfl rfl rfl rfl)

theorem execBackupPowerLoss_kept {g0 : State} (s : State) (hk : Kept g0 s) :
    Kept g0 (stateOf s (execBackupPowerLoss s)) := by
  simp only [execBackupPowerLoss]
  refine stateOf_ite_kept _ _ _ ?_ hk
  exact Kept.parts hk rfl rfl rfl rfl rfl (fun _ => by simp) id (fun a b => ⟨a, b⟩) id id (fun h _ => h) id

end Sys2Proof.Machine
end

