-- ==== Sys2Proof/Laws/StepsRnu.lean ====
section
/-! SUPPORT. What each meaning of Machine/Rnu.lean keeps (Laws/Kept.lean), once for each command. -/

namespace Sys2Proof.Machine

theorem execRnuHealthFailure_kept {g0 : State} (cause : Nat) (source : Nat) (startup : Bool) (taken : Bytes) (partly : List (Nat × Nat)) (s : State) (hk : Kept g0 s) :
    Kept g0 (stateOf s (execRnuHealthFailure cause source startup taken partly s)) := by
  simp only [execRnuHealthFailure]
  iterate 16 (try any_goals first
    | with_reducible exact hk
    | with_reducible refine onMain_kept _ _ hk ?_
    | with_reducible apply stateOf_kept
    | with_reducible apply stateOf_ite_kept
    | with_reducible apply rnuFail_kept
    | with_reducible apply Kept.ite
    | intro _
    | split
    | with_reducible refine Kept.mk ?_ rfl rfl rfl rfl rfl rfl rfl rfl rfl rfl rfl rfl)

theorem execRnuStartupPass_kept {g0 : State} (s : State) (hk : Kept g0 s) :
    Kept g0 (stateOf s (execRnuStartupPass s)) := by
  simp only [execRnuStartupPass]
  iterate 16 (try any_goals first
    | with_reducible exact hk
    | with_reducible refine onMain_kept _ _ hk ?_
    | with_reducible apply stateOf_kept
    | with_reducible apply stateOf_ite_kept
    | with_reducible apply rnuReady_kept
    | with_reducible apply Kept.ite
    | intro _
    | split
    | with_reducible refine Kept.mk ?_ rfl rfl rfl rfl rfl rfl rfl rfl rfl rfl rfl rfl)

theorem execRnuReseed_kept {g0 : State} (s : State) (hk : Kept g0 s) :
    Kept g0 (stateOf s (execRnuReseed s)) := by
  simp only [execRnuReseed]
  iterate 16 (try any_goals first
    | with_reducible exact hk
    | with_reducible refine onMain_kept _ _ hk ?_
    | with_reducible apply stateOf_kept
    | with_reducible apply stateOf_ite_kept
    | with_reducible apply reseed_kept
    | with_reducible apply Kept.ite
    | intro _
    | split
    | with_reducible refine Kept.mk ?_ rfl rfl rfl rfl rfl rfl rfl rfl rfl rfl rfl rfl)

theorem execBellowsRefill_kept {g0 : State} (s : State) (hk : Kept g0 s) :
    Kept g0 (stateOf s (execBellowsRefill s)) := by
  simp only [execBellowsRefill]
  iterate 16 (try any_goals first
    | with_reducible exact hk
    | with_reducible refine onMain_kept _ _ hk ?_
    | with_reducible apply stateOf_kept
    | with_reducible apply stateOf_ite_kept
    | with_reducible apply generateBlock_kept
    | with_reducible apply Kept.ite
    | intro _
    | split
    | with_reducible refine Kept.mk ?_ rfl rfl rfl rfl rfl rfl rfl rfl rfl rfl rfl rfl)

theorem execBellowsFlush_kept {g0 : State} (s : State) (hk : Kept g0 s) :
    Kept g0 (stateOf s (execBellowsFlush s)) := by
  simp only [execBellowsFlush]
  iterate 16 (try any_goals first
    | with_reducible exact hk
    | with_reducible refine onMain_kept _ _ hk ?_
    | with_reducible apply stateOf_kept
    | with_reducible apply stateOf_ite_kept
    | with_reducible apply flushBellows_kept
    | with_reducible apply Kept.ite
    | intro _
    | split
    | with_reducible refine Kept.mk ?_ rfl rfl rfl rfl rfl rfl rfl rfl rfl rfl rfl rfl)

theorem execExpanderReinstantiate_kept {g0 : State} (s : State) (hk : Kept g0 s) :
    Kept g0 (stateOf s (execExpanderReinstantiate s)) := by
  simp only [execExpanderReinstantiate]
  iterate 16 (try any_goals first
    | with_reducible exact hk
    | with_reducible refine onMain_kept _ _ hk ?_
    | with_reducible apply stateOf_kept
    | with_reducible apply stateOf_ite_kept
    | with_reducible apply instantiate_kept
    | with_reducible apply Kept.ite
    | intro _
    | split
    | with_reducible refine Kept.mk ?_ rfl rfl rfl rfl rfl rfl rfl rfl rfl rfl rfl rfl)

theorem execTestPatternWrite_kept {g0 : State} (value : Nat) (s : State) (hk : Kept g0 s) :
    Kept g0 (stateOf s (execTestPatternWrite value s)) := by
  simp only [execTestPatternWrite]
  refine viaBar_kept _ _ _ hk (stateOf_ite_kept _ _ _ (stateOf_ite_kept _ _ _ (Kept.rnu hk id) (Kept.rnu hk fun _ => ?_)) hk)
  simp [Rnu.clear]

theorem execNop_kept {g0 : State} (q : Call) (s : State) (hk : Kept g0 s) :
    Kept g0 (stateOf s (execNop q s)) := by
  simp only [execNop]
  iterate 16 (try any_goals first
    | with_reducible exact hk
    | with_reducible apply stateOf_kept
    | with_reducible refine runOp_kept _ _ _ _ _ hk ?_
    | with_reducible apply stateOf_ite_kept
    | with_reducible apply after_ite_kept
    | with_reducible apply after_done_kept
    | with_reducible apply after_running_kept
    | with_reducible apply Kept.ite
    | intro _
    | split
    | with_reducible refine Kept.mk ?_ rfl rfl rfl rfl rfl rfl rfl rfl rfl rfl rfl rfl)

theorem execRandomBytes_kept {g0 : State} (q : Call) (length : Nat) (s : State) (hk : Kept g0 s) :
    Kept g0 (stateOf s (execRandomBytes q length s)) := by
  simp only [execRandomBytes]
  iterate 16 (try any_goals first
    | with_reducible exact hk
    | with_reducible apply stateOf_kept
    | with_reducible refine runOp_kept _ _ _ _ _ hk ?_
    | with_reducible apply stateOf_ite_kept
    | with_reducible apply after_ite_kept
    | with_reducible apply after_done_kept
    | with_reducible apply after_running_kept
    | with_reducible refine withDraw_kept _ _ _ _ hk hk ?_
    | with_reducible apply draw_kept
    | with_reducible apply Kept.ite
    | intro _
    | split
    | with_reducible refine Kept.mk ?_ rfl rfl rfl rfl rfl rfl rfl rfl rfl rfl rfl rfl)

theorem execEntropyRestart_kept {g0 : State} (q : Call) (s : State) (hk : Kept g0 s) :
    Kept g0 (stateOf s (execEntropyRestart q s)) := by
  simp only [execEntropyRestart]
  iterate 16 (try any_goals first
    | with_reducible exact hk
    | with_reducible apply stateOf_kept
    | with_reducible refine runOp_kept _ _ _ _ _ hk ?_
    | with_reducible apply stateOf_ite_kept
    | with_reducible apply after_ite_kept
    | with_reducible apply after_done_kept
    | with_reducible apply after_running_kept
    | with_reducible apply Kept.ite
    | intro _
    | split
    | with_reducible refine Kept.mk ?_ rfl rfl rfl rfl rfl rfl rfl rfl rfl rfl rfl rfl)

theorem execRawSamples_kept {g0 : State} (q : Call) (source : Nat) (count : Nat) (s : State) (hk : Kept g0 s) :
    Kept g0 (stateOf s (execRawSamples q source count s)) := by
  simp only [execRawSamples]
  iterate 16 (try any_goals first
    | with_reducible exact hk
    | with_reducible apply stateOf_kept
    | with_reducible refine runOp_kept _ _ _ _ _ hk ?_
    | with_reducible apply stateOf_ite_kept
    | with_reducible apply after_ite_kept
    | with_reducible apply after_done_kept
    | with_reducible apply after_running_kept
    | with_reducible apply samples_kept
    | with_reducible apply Kept.ite
    | intro _
    | split
    | with_reducible refine Kept.mk ?_ rfl rfl rfl rfl rfl rfl rfl rfl rfl rfl rfl rfl)

end Sys2Proof.Machine
end

