-- ==== Sys2Proof/Laws/StepsSched.lean ====
section
/-! SUPPORT. What each meaning of Machine/Sched.lean keeps (Laws/Kept.lean), once for each command. -/

namespace Sys2Proof.Machine

theorem execQmPacketBegin_kept {g0 : State} (queue : Nat) (port : Nat) (data : Bytes) (s : State) (hk : Kept g0 s) :
    Kept g0 (stateOf s (execQmPacketBegin queue port data s)) := by
  simp only [execQmPacketBegin]
  iterate 16 (try any_goals first
    | with_reducible exact hk
    | with_reducible refine onMain_kept _ _ hk ?_
    | with_reducible apply stateOf_kept
    | with_reducible apply stateOf_ite_kept
    | with_reducible apply qmPut_kept
    | with_reducible apply bumpPort_kept
    | with_reducible apply Kept.ite
    | intro _
    | split
    | with_reducible refine Kept.mk ?_ rfl rfl rfl rfl rfl rfl rfl rfl rfl rfl rfl rfl)

theorem execQmRead_kept {g0 : State} (queue : Nat) (s : State) (hk : Kept g0 s) :
    Kept g0 (stateOf s (execQmRead queue s)) := by
  simp only [execQmRead]
  iterate 16 (try any_goals first
    | with_reducible exact hk
    | with_reducible refine onMain_kept _ _ hk ?_
    | with_reducible apply stateOf_kept
    | with_reducible apply stateOf_ite_kept
    | with_reducible apply raiseEvent_kept
    | with_reducible apply State.setQueue_kept
    | with_reducible apply Kept.ite
    | intro _
    | split
    | with_reducible refine Kept.mk ?_ rfl rfl rfl rfl rfl rfl rfl rfl rfl rfl rfl rfl)

theorem execQmDropRemainder_kept {g0 : State} (queue : Nat) (s : State) (hk : Kept g0 s) :
    Kept g0 (stateOf s (execQmDropRemainder queue s)) := by
  simp only [execQmDropRemainder]
  iterate 16 (try any_goals first
    | with_reducible exact hk
    | with_reducible refine onMain_kept _ _ hk ?_
    | with_reducible apply stateOf_kept
    | with_reducible apply stateOf_ite_kept
    | with_reducible apply State.setQueue_kept
    | with_reducible apply Kept.ite
    | intro _
    | split
    | with_reducible refine Kept.mk ?_ rfl rfl rfl rfl rfl rfl rfl rfl rfl rfl rfl rfl)

theorem execWorkDispatch_kept {g0 : State} (core : Nat) (readError : Bool) (s : State) (hk : Kept g0 s) :
    Kept g0 (stateOf s (execWorkDispatch core readError s)) := by
  simp only [execWorkDispatch]
  iterate 16 (try any_goals first
    | with_reducible exact hk
    | with_reducible refine onMain_kept _ _ hk ?_
    | with_reducible apply stateOf_kept
    | with_reducible apply stateOf_ite_kept
    | with_reducible apply finishCtx_kept
    | with_reducible apply dropItem_kept
    | with_reducible apply refillCredit_kept
    | with_reducible apply serveGroup_kept
    | with_reducible apply giveItem_kept
    | with_reducible apply Kept.ite
    | intro _
    | split
    | with_reducible refine Kept.mk ?_ rfl rfl rfl rfl rfl rfl rfl rfl rfl rfl rfl rfl)

theorem execItemCommit_kept {g0 : State} (core : Nat) (item : Nat) (epoch : Nat) (s : State) (hk : Kept g0 s) :
    Kept g0 (stateOf s (execItemCommit core item epoch s)) := by
  simp only [execItemCommit]
  iterate 16 (try any_goals first
    | with_reducible exact hk
    | with_reducible refine onMain_kept _ _ hk ?_
    | with_reducible apply stateOf_kept
    | with_reducible apply stateOf_ite_kept
    | with_reducible apply finishCtx_kept
    | with_reducible apply dropItem_kept
    | with_reducible apply freePacket_kept
    | with_reducible apply staleWrite_kept
    | with_reducible apply coreIdle_kept
    | with_reducible apply Kept.ite
    | intro _
    | split
    | with_reducible refine Kept.mk ?_ rfl rfl rfl rfl rfl rfl rfl rfl rfl rfl rfl rfl)

theorem execLeaseExpiry_kept {g0 : State} (core : Nat) (s : State) (hk : Kept g0 s) :
    Kept g0 (stateOf s (execLeaseExpiry core s)) := by
  simp only [execLeaseExpiry]
  iterate 16 (try any_goals first
    | with_reducible exact hk
    | with_reducible refine onMain_kept _ _ hk ?_
    | with_reducible apply stateOf_kept
    | with_reducible apply stateOf_ite_kept
    | with_reducible apply raiseEvent_kept
    | with_reducible apply redispatch_kept
    | with_reducible apply failCore_kept
    | with_reducible apply Kept.ite
    | intro _
    | split
    | with_reducible refine Kept.mk ?_ rfl rfl rfl rfl rfl rfl rfl rfl rfl rfl rfl rfl)

theorem execCoreResetDone_kept {g0 : State} (core : Nat) (s : State) (hk : Kept g0 s) :
    Kept g0 (stateOf s (execCoreResetDone core s)) := by
  simp only [execCoreResetDone]
  iterate 16 (try any_goals first
    | with_reducible exact hk
    | with_reducible refine onMain_kept _ _ hk ?_
    | with_reducible apply stateOf_kept
    | with_reducible apply stateOf_ite_kept
    | with_reducible apply raiseAlarm_kept
    | with_reducible apply State.setCore_kept
    | with_reducible apply Kept.ite
    | intro _
    | split
    | with_reducible refine Kept.mk ?_ rfl rfl rfl rfl rfl rfl rfl rfl rfl rfl rfl rfl)

theorem execCoreMemoryError_kept {g0 : State} (core : Nat) (s : State) (hk : Kept g0 s) :
    Kept g0 (stateOf s (execCoreMemoryError core s)) := by
  simp only [execCoreMemoryError]
  iterate 16 (try any_goals first
    | with_reducible exact hk
    | with_reducible refine onMain_kept _ _ hk ?_
    | with_reducible apply stateOf_kept
    | with_reducible apply stateOf_ite_kept
    | with_reducible apply coreError_kept
    | with_reducible apply Kept.ite
    | intro _
    | split
    | with_reducible refine Kept.mk ?_ rfl rfl rfl rfl rfl rfl rfl rfl rfl rfl rfl rfl)

theorem execDelayListRebuild_kept {g0 : State} (list : Nat) (s : State) (hk : Kept g0 s) :
    Kept g0 (stateOf s (execDelayListRebuild list s)) := by
  simp only [execDelayListRebuild]
  iterate 16 (try any_goals first
    | with_reducible exact hk
    | with_reducible refine onMain_kept _ _ hk ?_
    | with_reducible apply stateOf_kept
    | with_reducible apply stateOf_ite_kept
    | with_reducible apply raiseEvent_kept
    | with_reducible apply securityRec_kept
    | with_reducible apply releaseDue_kept
    | with_reducible apply Kept.ite
    | intro _
    | split
    | with_reducible refine Kept.mk ?_ rfl rfl rfl rfl rfl rfl rfl rfl rfl rfl rfl rfl)

theorem execCoreGroupsWrite_kept {g0 : State} (core : Nat) (value : Nat) (s : State) (hk : Kept g0 s) :
    Kept g0 (stateOf s (execCoreGroupsWrite core value s)) := by
  simp only [execCoreGroupsWrite]
  iterate 16 (try any_goals first
    | with_reducible exact hk
    | with_reducible refine viaBar_kept _ _ _ hk ?_
    | with_reducible apply stateOf_kept
    | with_reducible apply stateOf_ite_kept
    | with_reducible apply raiseEvent_kept
    | with_reducible apply queueWrite_kept
    | with_reducible apply Kept.ite
    | intro _
    | split
    | with_reducible refine Kept.mk ?_ rfl rfl rfl rfl rfl rfl rfl rfl rfl rfl rfl rfl)

end Sys2Proof.Machine
end

