-- ==== Sys2Proof/Laws/KeptRegisters.lean ====
section
/-! SUPPORT. What the operations of Machine/Registers.lean keep (Laws/Kept.lean), once for each. -/

namespace Sys2Proof.Machine

theorem setSplit_kept {g : State} (f : Nat) (off : Nat) (v : Option Nat) (s : State) (hk : Kept g s) :
    Kept g (setSplit f off v s) := by
  simp only [setSplit]
  iterate 12 (try any_goals first
    | with_reducible exact hk
    | with_reducible apply State.updFunc_kept
    | with_reducible apply Kept.ite
    | split
    | with_reducible refine Kept.mk ?_ rfl rfl rfl rfl rfl rfl rfl rfl rfl rfl rfl rfl)

theorem read4_kept {g : State} (f : Nat) (off : Nat) (s : State) (hk : Kept g s) :
    Kept g (read4 f off s).2 := by
  simp only [read4]
  iterate 12 (try any_goals first
    | with_reducible exact hk
    | with_reducible apply setSplit_kept
    | with_reducible apply Kept.ite
    | split
    | with_reducible refine Kept.mk ?_ rfl rfl rfl rfl rfl rfl rfl rfl rfl rfl rfl rfl)

theorem read8_kept {g : State} (f : Nat) (off : Nat) (s : State) (hk : Kept g s) :
    Kept g (read8 f off s).2 := by
  simp only [read8]
  iterate 12 (try any_goals first
    | with_reducible exact hk
    | with_reducible apply setSplit_kept
    | with_reducible apply read4_kept
    | with_reducible apply Kept.ite
    | split
    | with_reducible refine Kept.mk ?_ rfl rfl rfl rfl rfl rfl rfl rfl rfl rfl rfl rfl)

theorem barRead_kept {g : State} (f : Nat) (off : Nat) (len : Nat) (s : State) (hk : Kept g s) :
    Kept g (barRead f off len s).2 := by
  simp only [barRead]
  iterate 12 (try any_goals first
    | with_reducible exact hk
    | with_reducible apply read4_kept
    | with_reducible apply read8_kept
    | with_reducible apply Kept.ite
    | split
    | with_reducible refine Kept.mk ?_ rfl rfl rfl rfl rfl rfl rfl rfl rfl rfl rfl rfl)

theorem writeSetting_kept {g : State} (off : Nat) (value : Nat) (s : State) (hk : Kept g s) :
    Kept g (writeSetting off value s) := by
  simp only [writeSetting]
  iterate 12 (try any_goals first
    | with_reducible exact hk
    | with_reducible apply raiseEvent_kept
    | with_reducible apply queueWrite_kept
    | with_reducible apply Kept.ite
    | split
    | with_reducible refine Kept.mk ?_ rfl rfl rfl rfl rfl rfl rfl rfl rfl rfl rfl rfl)

theorem writeRingZones_kept {g : State} (value : Nat) (s : State) (hk : Kept g s) :
    Kept g (writeRingZones value s) := by
  simp only [writeRingZones]
  iterate 12 (try any_goals first
    | with_reducible exact hk
    | with_reducible apply queueWrite_kept
    | with_reducible apply Kept.ite
    | split
    | with_reducible refine Kept.mk ?_ rfl rfl rfl rfl rfl rfl rfl rfl rfl rfl rfl rfl)

theorem writeLoopCfg_kept {g : State} (loop : Nat) (value : Nat) (s : State) (hk : Kept g s) :
    Kept g (writeLoopCfg loop value s) := by
  simp only [writeLoopCfg]
  iterate 12 (try any_goals first
    | with_reducible exact hk
    | with_reducible apply queueWrite_kept
    | with_reducible apply Kept.ite
    | split
    | with_reducible refine Kept.mk ?_ rfl rfl rfl rfl rfl rfl rfl rfl rfl rfl rfl rfl)

theorem applyLoop_kept {g : State} (n : Nat) (s : State) (hk : Kept g s) :
    Kept g (applyLoop n s) := by
  simp only [applyLoop]
  iterate 12 (try any_goals first
    | with_reducible exact hk
    | with_reducible apply raiseAlarm_kept
    | with_reducible apply Kept.ite
    | split
    | with_reducible refine Kept.mk ?_ rfl rfl rfl rfl rfl rfl rfl rfl rfl rfl rfl rfl)

theorem applyStored_kept {g : State} (off : Nat) (value : Nat) (s : State) (hk : Kept g s) :
    Kept g (applyStored off value s) := by
  have h1 : ∀ k, Kept g { s with sck := k } := fun k => Kept.congr hk rfl rfl rfl rfl rfl rfl rfl rfl rfl rfl rfl rfl
  simp only [applyStored]
  split
  · exact applyPortCfg_kept _ _ _ hk
  · exact applyPairCfg_kept _ _ _ hk
  · exact applyLoop_kept _ _ hk
  · exact Kept.ite (shrinkRing_kept _ _ hk) (Kept.ite (Kept.ev hk fun h => Tbl.put_wf _ _ _ h) (Kept.ite (h1 _) hk))

theorem storeValue_kept {g : State} (key : Nat) (value : Nat) (s : State) (hk : Kept g s) :
    Kept g (storeValue key value s) := by
  have h1 : Kept g { s with store := Tbl.put key value s.store, rw := if decide (0x2300 ≤ key) && decide (key < 0x2350) then s.rw else Tbl.put key value s.rw } :=
    Kept.parts hk rfl rfl rfl rfl rfl id id (fun a b => ⟨a, b⟩) id id (fun h _ => by simp only; split <;> simp [h]) (fun h => Tbl.put_wf _ _ _ h)
  simp only [storeValue]
  exact Kept.ite (applyStored_kept _ _ _ h1) h1

theorem writeRing_kept {g : State} (f : Nat) (ring : Nat) (k : Nat) (value : Nat) (s : State) (hk : Kept g s) :
    Kept g (writeRing f ring k value s) := by
  exact Kept.congr hk (by simp) (by simp) (by simp) (by simp) (by simp) (by simp) (by simp) (by simp) (by simp) (by simp) (by simp) (by simp)

theorem writeMsix_kept {g : State} (f : Nat) (off : Nat) (value : Nat) (s : State) (hk : Kept g s) :
    Kept g (writeMsix f off value s) := by
  simp only [writeMsix]
  iterate 12 (try any_goals first
    | with_reducible exact hk
    | with_reducible apply State.updFunc_kept
    | with_reducible apply sendPending_kept
    | with_reducible apply Kept.ite
    | split
    | with_reducible refine Kept.mk ?_ rfl rfl rfl rfl rfl rfl rfl rfl rfl rfl rfl rfl)

theorem writeEvent_kept {g : State} (b : EvBlock) (f : Nat) (mask : Nat) (isEnable : Bool) (value : Nat) (s : State) (hk : Kept g s) :
    Kept g (writeEvent b f mask isEnable value s) := by
  simp only [writeEvent]
  exact Kept.ite (Kept.ite (queueWrite_kept _ _ _ hk) (Kept.ev hk fun h => Tbl.put_wf _ _ _ h)) (clearEvents_kept _ _ _ _ hk)

theorem writeStreamSel_kept {g : State} (f : Nat) (value : Nat) (s : State) (hk : Kept g s) :
    Kept g (writeStreamSel f value s) := by
  simp only [writeStreamSel]
  refine Kept.ite (execStreamCounterLatch_kept _ _ _ _ hk) ?_
  exact Kept.congr hk rfl rfl rfl rfl rfl rfl rfl rfl rfl rfl rfl rfl

theorem writePortSel_kept {g : State} (value : Nat) (s : State) (hk : Kept g s) :
    Kept g (writePortSel value s) := by
  exact Kept.congr hk (by simp) (by simp) (by simp) (by simp) (by simp) (by simp) (by simp) (by simp) (by simp) (by simp) (by simp) (by simp)

theorem writeFn_kept {g : State} (f : Nat) (off : Nat) (value : Nat) (s : State) (hk : Kept g s) :
    Kept g (writeFn f off value s) := by
  simp only [writeFn]
  split
  · exact Kept.ite (abortPort_kept _ _ _ hk) hk
  · exact Kept.ite (Kept.rw hk fun h => Tbl.put_wf _ _ _ h) hk
  · exact Kept.ite (queueWrite_kept _ _ _ hk) hk
  · exact writeStreamSel_kept _ _ _ hk
  · refine Kept.ite (writeRing_kept _ _ _ _ _ hk) (Kept.ite (writeMsix_kept _ _ _ _ hk) ?_)
    split
    · exact writeEvent_kept _ _ _ _ _ _ hk
    · exact hk

theorem writeGroup_kept {g0 : State} (g : Nat) (value : Nat) (s : State) (hk : Kept g0 s) :
    Kept g0 (writeGroup g value s) := by
  simp only [writeGroup]
  iterate 12 (try any_goals first
    | with_reducible exact hk
    | with_reducible apply queueWrite_kept
    | with_reducible apply Kept.ite
    | split
    | with_reducible refine Kept.mk ?_ rfl rfl rfl rfl rfl rfl rfl rfl rfl rfl rfl rfl)

theorem writeArray_kept {g : State} (off : Nat) (value : Nat) (s : State) (hk : Kept g s) (t : State) (h : writeArray off value s = some t) :
    Kept g t := by
  have h1 : ∀ (a b : Option State), (∀ x, a = some x → Kept g x) → (∀ x, b = some x → Kept g x) →
      ∀ x, (a <|> b) = some x → Kept g x := fun a b ha hb x e => by
    cases a with
    | none => exact hb _ (by simpa using e)
    | some y => exact ha _ (by simpa using e)
  have h2 : ∀ (o : Option Nat) (f : Nat → State), (∀ n, Kept g (f n)) → ∀ x, o.map f = some x → Kept g x := fun o f hf x e => by
    cases o with
    | none => cases e
    | some n =>
      cases e
      exact hf _
  revert h
  simp only [writeArray]
  revert t
  refine h1 _ _ ?_ (h1 _ _ ?_ (h1 _ _ ?_ (h1 _ _ ?_ (h1 _ _ ?_ (h1 _ _ ?_ (h1 _ _ ?_ ?_))))))
  · exact h2 _ _ fun n => Kept.ite hk (queueWrite_kept _ _ _ hk)
  · exact h2 _ _ fun n => execPortCfgWrite_kept _ _ _ hk
  · exact h2 _ _ fun n => execPairCfgWrite_kept _ _ _ hk
  · exact h2 _ _ fun n => writeGroup_kept _ _ _ hk
  · exact h2 _ _ fun n => execCoreGroupsWrite_kept _ _ _ hk
  · exact h2 _ _ fun n => Kept.ite hk (queueWrite_kept _ _ _ hk)
  · exact h2 _ _ fun n => writeLoopCfg_kept _ _ _ hk
  · exact h2 _ _ fun n => writeSetting_kept _ _ _ hk

theorem writePf_kept {g : State} (off : Nat) (value : Nat) (i : StartIn) (s : State) (hk : Kept g s) :
    Kept g (writePf off value i s) := by
  simp only [writePf]
  split
  · exact execModuleResetRequest_kept _ _ _ hk
  · exact writePortSel_kept _ _ hk
  · exact writeRingZones_kept _ _ hk
  · exact Kept.ite (queueWrite_kept _ _ _ hk) hk
  · exact execTestPatternWrite_kept _ _ hk
  · exact Kept.rw hk fun h => Tbl.put_wf _ _ _ h
  · exact Kept.ite (endToken_kept _ hk) hk
  · split
    · exact writeEvent_kept _ _ _ _ _ _ hk
    · cases e : writeArray off value s with
      | none => exact hk
      | some x => exact writeArray_kept _ _ _ hk _ e

theorem write4_kept {g : State} (f : Nat) (off : Nat) (value : Nat) (i : StartIn) (s : State) (hk : Kept g s) :
    Kept g (write4 f off value i s) := by
  simp only [write4]
  iterate 12 (try any_goals first
    | with_reducible exact hk
    | with_reducible apply setSplit_kept
    | with_reducible apply writeFn_kept
    | with_reducible apply writePf_kept
    | with_reducible apply Kept.ite
    | split
    | with_reducible refine Kept.mk ?_ rfl rfl rfl rfl rfl rfl rfl rfl rfl rfl rfl rfl)

end Sys2Proof.Machine
end

