-- ==== Sys2Proof/Laws/Ready.lean ====
section
/-! SUPPORT. What performing an operation comes to once it passes the checks that all operations share, for each outcome of its
own checks, and what the guards of commands come to while the module runs. -/

namespace Sys2Proof.Machine

/-- A ready operation is performed by its own rule. -/
theorem runOp_ready {op : Nat} {q : Call} {space : Nat} {s : State} (k : State → OpOut) (h : ready op q space s = true) :
    runOp op q space s k = (match k s with
      | .done comp t => complete q comp t
      | .wait => holdOp q s
      | .running t => t
      | .busy => s) := by
  simp only [ready, Bool.and_eq_true, Bool.not_eq_true', Option.isNone_iff_eq_none] at h
  simp only [runOp, h.1.1, h.1.2, h.2, Bool.true_eq_false, Bool.false_eq_true, or_self, if_false]
  all_goals (cases k s <;> rfl)

theorem runOp_done {op : Nat} {q : Call} {space : Nat} {s t : State} {k : State → OpOut} {comp : Completion}
    (h : ready op q space s = true) (hk : k s = .done comp t) : runOp op q space s k = complete q comp t := by
  rw [runOp_ready k h, hk]

theorem runOp_running {op : Nat} {q : Call} {space : Nat} {s t : State} {k : State → OpOut}
    (h : ready op q space s = true) (hk : k s = .running t) : runOp op q space s k = t := by
  rw [runOp_ready k h, hk]

theorem runOp_wait {op : Nat} {q : Call} {space : Nat} {s : State} {k : State → OpOut}
    (h : ready op q space s = true) (hk : k s = .wait) : runOp op q space s k = holdOp q s := by
  rw [runOp_ready k h, hk]

/-- A ready operation runs on a running module. -/
theorem ready_running {op : Nat} {q : Call} {space : Nat} {s : State} (h : ready op q space s = true) : s.running = true := by
  simp only [ready, Bool.and_eq_true] at h
  exact h.1.1

/-- An operation that a shared check refuses completes with that check's refusal. -/
theorem runOp_refused {op : Nat} {q : Call} {space : Nat} {s : State} {comp : Completion} (k : State → OpOut)
    (hr : s.running = true) (hs : staged q s = false) (h : opGate op q space s = some comp) :
    runOp op q space s k = complete q comp s := by
  simp [runOp, hr, hs, h]

theorem onMain_running {s : State} (h : s.running = true) (k : Host.Outcome State Fault Refusal) : onMain s k = k := by
  simp [onMain, h]

theorem viaBar_reaches {f : Nat} {s : State} (h : reaches f s = true) (k : Host.Outcome State Fault Refusal) :
    viaBar f s k = k := by
  simp only [reaches, Bool.and_eq_true, Bool.not_eq_true'] at h
  simp [viaBar, h.1.1, h.1.2, h.2]

theorem answers_next {c : Instr} {s t : State} {p : State → Prop} (h : exec c s = .next t) (hp : p t) : Answers c s p :=
  ⟨t, h, hp⟩

end Sys2Proof.Machine
end

