-- ==== Sys2Proof/Laws/StepsAccess.lean ====
section
/-! SUPPORT. What each meaning of Machine/Access.lean keeps (Laws/Kept.lean), once for each command. -/

namespace Sys2Proof.Machine

theorem execInternalAccess_kept {g0 : State} (a : Access) (s : State) (hk : Kept g0 s) :
    Kept g0 (stateOf s (execInternalAccess a s)) := by
  simp only [execInternalAccess]
  iterate 16 (try any_goals first
    | with_reducible exact hk
    | with_reducible refine onMain_kept _ _ hk ?_
    | with_reducible apply stateOf_kept
    | with_reducible apply stateOf_ite_kept
    | with_reducible apply access_kept
    | with_reducible apply Kept.ite
    | intro _
    | split
    | with_reducible refine Kept.mk ?_ rfl rfl rfl rfl rfl rfl rfl rfl rfl rfl rfl rfl)

theorem execAcUpdateOpen_kept {g0 : State} (mask : Nat) (core : Nat) (epoch : Nat) (s : State) (hk : Kept g0 s) :
    Kept g0 (stateOf s (execAcUpdateOpen mask core epoch s)) := by
  simp only [execAcUpdateOpen]
  iterate 16 (try any_goals first
    | with_reducible exact hk
    | with_reducible refine onMain_kept _ _ hk ?_
    | with_reducible apply stateOf_kept
    | with_reducible apply stateOf_ite_kept
    | with_reducible apply staleWrite_kept
    | with_reducible apply Kept.ite
    | intro _
    | split
    | with_reducible refine Kept.mk ?_ rfl rfl rfl rfl rfl rfl rfl rfl rfl rfl rfl rfl)

theorem execAcUpdateClose_kept {g0 : State} (writes : List RuleWrite) (s : State) (hk : Kept g0 s) :
    Kept g0 (stateOf s (execAcUpdateClose writes s)) := by
  simp only [execAcUpdateClose]
  iterate 16 (try any_goals first
    | with_reducible exact hk
    | with_reducible refine onMain_kept _ _ hk ?_
    | with_reducible apply stateOf_kept
    | with_reducible apply stateOf_ite_kept
    | with_reducible apply raiseEvent_kept
    | with_reducible apply afterUpdate_kept
    | with_reducible apply abortUpdate_kept
    | with_reducible apply Kept.ite
    | intro _
    | split
    | with_reducible refine Kept.mk ?_ rfl rfl rfl rfl rfl rfl rfl rfl rfl rfl rfl rfl)

theorem execAcUpdateTimeout_kept {g0 : State} (s : State) (hk : Kept g0 s) :
    Kept g0 (stateOf s (execAcUpdateTimeout s)) := by
  simp only [execAcUpdateTimeout]
  iterate 16 (try any_goals first
    | with_reducible exact hk
    | with_reducible refine onMain_kept _ _ hk ?_
    | with_reducible apply stateOf_kept
    | with_reducible apply stateOf_ite_kept
    | with_reducible apply abortUpdate_kept
    | with_reducible apply Kept.ite
    | intro _
    | split
    | with_reducible refine Kept.mk ?_ rfl rfl rfl rfl rfl rfl rfl rfl rfl rfl rfl rfl)

theorem execDenyRecordRead_kept {g0 : State} (s : State) (hk : Kept g0 s) :
    Kept g0 (stateOf s (execDenyRecordRead s)) := by
  simp only [execDenyRecordRead]
  iterate 16 (try any_goals first
    | with_reducible exact hk
    | with_reducible refine viaBar_kept _ _ _ hk ?_
    | with_reducible apply stateOf_kept
    | with_reducible apply stateOf_ite_kept
    | with_reducible apply emit_kept
    | with_reducible apply Kept.ite
    | intro _
    | split
    | with_reducible refine Kept.mk ?_ rfl rfl rfl rfl rfl rfl rfl rfl rfl rfl rfl rfl)

end Sys2Proof.Machine
end

