-- ==== Sys2Proof/Laws/StepsArchive.lean ====
section
/-! SUPPORT. What each meaning of Machine/Archive.lean keeps (Laws/Kept.lean), once for each command. -/

namespace Sys2Proof.Machine

theorem execRecordAppend_kept {g0 : State} (s : State) (hk : Kept g0 s) :
    Kept g0 (stateOf s (execRecordAppend s)) := by
  simp only [execRecordAppend]
  iterate 16 (try any_goals first
    | with_reducible exact hk
    | with_reducible refine onMain_kept _ _ hk ?_
    | with_reducible apply stateOf_kept
    | with_reducible apply stateOf_ite_kept
    | with_reducible apply appendRecord_kept
    | with_reducible apply Kept.ite
    | intro _
    | split
    | with_reducible refine Kept.mk ?_ rfl rfl rfl rfl rfl rfl rfl rfl rfl rfl rfl rfl)

theorem execCheckpoint_kept {g0 : State} (s : State) (hk : Kept g0 s) :
    Kept g0 (stateOf s (execCheckpoint s)) := by
  simp only [execCheckpoint]
  iterate 16 (try any_goals first
    | with_reducible exact hk
    | with_reducible refine onMain_kept _ _ hk ?_
    | with_reducible apply stateOf_kept
    | with_reducible apply stateOf_ite_kept
    | with_reducible apply appendCheckpoint_kept
    | with_reducible apply rtcSet_kept
    | with_reducible apply ppsEdge_kept
    | with_reducible apply Kept.ite
    | intro _
    | split
    | with_reducible refine Kept.mk ?_ rfl rfl rfl rfl rfl rfl rfl rfl rfl rfl rfl rfl)

theorem execSummaryClose_kept {g0 : State} (entry : Nat) (cause : Nat) (s : State) (hk : Kept g0 s) :
    Kept g0 (stateOf s (execSummaryClose entry cause s)) := by
  simp only [execSummaryClose]
  iterate 16 (try any_goals first
    | with_reducible exact hk
    | with_reducible refine onMain_kept _ _ hk ?_
    | with_reducible apply stateOf_kept
    | with_reducible apply stateOf_ite_kept
    | with_reducible apply writeSummary_kept
    | with_reducible apply Kept.ite
    | intro _
    | split
    | with_reducible refine Kept.mk ?_ rfl rfl rfl rfl rfl rfl rfl rfl rfl rfl rfl rfl)

theorem execWindowOpen_kept {g0 : State} (number : Nat) (s : State) (hk : Kept g0 s) :
    Kept g0 (stateOf s (execWindowOpen number s)) := by
  have h1 : ∀ (w : CapWindow) (l : List CapWindow), (setWindow w l).length = l.length := fun w l => by
    induction l with
    | nil => rfl
    | cons c l ih =>
      simp only [setWindow]
      split <;> simp [ih]
  simp only [execWindowOpen]
  refine onMain_kept _ _ hk ?_
  split
  · exact hk
  · refine stateOf_ite_kept _ _ _ hk (stateOf_ite_kept _ _ _ (windowRec_kept _ _ _ (dropWindow_kept _ _ hk))
      (stateOf_ite_kept _ _ _ hk (windowRec_kept _ _ _ (Kept.windows hk fun h => ?_))))
    rw [h1]
    exact h

theorem execWindowClose_kept {g0 : State} (number : Nat) (s : State) (hk : Kept g0 s) :
    Kept g0 (stateOf s (execWindowClose number s)) := by
  simp only [execWindowClose]
  iterate 16 (try any_goals first
    | with_reducible exact hk
    | with_reducible refine onMain_kept _ _ hk ?_
    | with_reducible apply stateOf_kept
    | with_reducible apply stateOf_ite_kept
    | with_reducible apply windowRec_kept
    | with_reducible apply dropWindow_kept
    | with_reducible apply Kept.ite
    | intro _
    | split
    | with_reducible refine Kept.mk ?_ rfl rfl rfl rfl rfl rfl rfl rfl rfl rfl rfl rfl)

theorem execBudgetHourRoll_kept {g0 : State} (s : State) (hk : Kept g0 s) :
    Kept g0 (stateOf s (execBudgetHourRoll s)) := by
  simp only [execBudgetHourRoll]
  iterate 16 (try any_goals first
    | with_reducible exact hk
    | with_reducible refine onMain_kept _ _ hk ?_
    | with_reducible apply stateOf_kept
    | with_reducible apply stateOf_ite_kept
    | with_reducible apply Kept.ite
    | intro _
    | split
    | with_reducible refine Kept.mk ?_ rfl rfl rfl rfl rfl rfl rfl rfl rfl rfl rfl rfl)

end Sys2Proof.Machine
end

