-- ==== Sys2Proof/Laws/StepsArchiveOps.lean ====
section
/-! SUPPORT. What each meaning of Machine/ArchiveOps.lean keeps (Laws/Kept.lean), once for each command. -/

namespace Sys2Proof.Machine

theorem execArchiveRead_kept {g0 : State} (q : Call) (spec : ReadSpec) (s : State) (hk : Kept g0 s) :
    Kept g0 (stateOf s (execArchiveRead q spec s)) := by
  simp only [execArchiveRead]
  iterate 16 (try any_goals first
    | with_reducible exact hk
    | with_reducible apply stateOf_kept
    | with_reducible refine runOp_kept _ _ _ _ _ hk ?_
    | with_reducible apply stateOf_ite_kept
    | with_reducible apply after_ite_kept
    | with_reducible apply after_done_kept
    | with_reducible apply after_running_kept
    | with_reducible apply offerBytes_kept
    | with_reducible apply Kept.ite
    | intro _
    | split
    | with_reducible refine Kept.mk ?_ rfl rfl rfl rfl rfl rfl rfl rfl rfl rfl rfl rfl)

theorem execCaptureWindow_kept {g0 : State} (q : Call) (group : Nat) (start : Nat) (finish : Nat) (s : State) (hk : Kept g0 s) :
    Kept g0 (stateOf s (execCaptureWindow q group start finish s)) := by
  have h1 : ∀ w, ¬ windowLimit ≤ s.arc.windows.length → Kept g0 { s with arc := { s.arc with windows := s.arc.windows ++ [w] } } := fun w h =>
    Kept.windows hk fun _ => by
      simp only [windowLimit] at h
      simp only [List.length_append, List.length_cons, List.length_nil]
      omega
  unfold execCaptureWindow
  refine stateOf_kept _ _ (runOp_kept _ _ _ _ _ hk ?_)
  simp only []
  split
  · exact hk
  · split
    · exact hk
    · rename_i h
      refine after_done_kept _ _ _ (Kept.ite (windowRec_kept _ _ _ ?_) ?_)
      · exact h1 _ h
      · exact h1 _ h

theorem execArchiveRelease_kept {g0 : State} (q : Call) (auth : AuthReq) (s : State) (hk : Kept g0 s) :
    Kept g0 (stateOf s (execArchiveRelease q auth s)) := by
  simp only [execArchiveRelease]
  refine stateOf_kept _ _ (runOp_kept _ _ _ _ _ hk ?_)
  refine withAuth_kept _ _ _ _ _ _ _ _ _ _ _ hk ?_
  have h := drainStaging_kept _ (acceptRequest_kept auth 0x0703 s hk)
  split
  · exact h
  · exact after_ite_kept _ _ _ h (releaseZones_kept _ _ _ _ h)

theorem execZoneReleaseErase_kept {g0 : State} (s : State) (hk : Kept g0 s) :
    Kept g0 (stateOf s (execZoneReleaseErase s)) := by
  simp only [execZoneReleaseErase]
  iterate 16 (try any_goals first
    | with_reducible exact hk
    | with_reducible refine onMain_kept _ _ hk ?_
    | with_reducible apply stateOf_kept
    | with_reducible apply stateOf_ite_kept
    | with_reducible apply eraseReleased_kept
    | with_reducible apply afterRelease_kept
    | with_reducible apply Kept.ite
    | intro _
    | split
    | with_reducible refine Kept.mk ?_ rfl rfl rfl rfl rfl rfl rfl rfl rfl rfl rfl rfl)

theorem execJournalRead_kept {g0 : State} (q : Call) (auth : AuthReq) (s : State) (hk : Kept g0 s) :
    Kept g0 (stateOf s (execJournalRead q auth s)) := by
  simp only [execJournalRead]
  refine stateOf_kept _ _ (runOp_kept _ _ _ _ _ hk ?_)
  exact withAuth_kept _ _ _ _ _ _ _ _ _ _ _ hk (offerBytes_kept _ _ _ (acceptRequest_kept _ _ _ hk))

theorem execTimeStep_kept {g0 : State} (q : Call) (auth : AuthReq) (s : State) (hk : Kept g0 s) :
    Kept g0 (stateOf s (execTimeStep q auth s)) := by
  simp only [execTimeStep]
  refine stateOf_kept _ _ (runOp_kept _ _ _ _ _ hk ?_)
  refine after_ite_kept _ _ _ hk (withAuth_kept _ _ _ _ _ _ _ _ _ _ _ hk ?_)
  exact Kept.congr (acceptRequest_kept auth 0x0801 s hk) rfl rfl rfl rfl rfl rfl rfl rfl rfl rfl rfl rfl

end Sys2Proof.Machine
end

