-- ==== Sys2Proof/Laws/StepsCopies.lean ====
section
/-! SUPPORT. What each meaning of Machine/Copies.lean keeps (Laws/Kept.lean), once for each command. -/

namespace Sys2Proof.Machine

theorem execCopyDiscardTimeout_kept {g0 : State} (copy : Nat) (s : State) (hk : Kept g0 s) :
    Kept g0 (stateOf s (execCopyDiscardTimeout copy s)) := by
  simp only [execCopyDiscardTimeout]
  iterate 16 (try any_goals first
    | with_reducible exact hk
    | with_reducible refine onMain_kept _ _ hk ?_
    | with_reducible apply stateOf_kept
    | with_reducible apply stateOf_ite_kept
    | with_reducible apply discardLate_kept
    | with_reducible apply Kept.ite
    | intro _
    | split
    | with_reducible refine Kept.mk ?_ rfl rfl rfl rfl rfl rfl rfl rfl rfl rfl rfl rfl)

theorem execCopyTransmitStart_kept {g0 : State} (port : Nat) (stamp : Nat) (s : State) (hk : Kept g0 s) :
    Kept g0 (stateOf s (execCopyTransmitStart port stamp s)) := by
  simp only [execCopyTransmitStart]
  iterate 16 (try any_goals first
    | with_reducible exact hk
    | with_reducible refine onMain_kept _ _ hk ?_
    | with_reducible apply stateOf_kept
    | with_reducible apply stateOf_ite_kept
    | with_reducible apply startCopy_kept
    | with_reducible apply startCore_kept
    | with_reducible apply Kept.ite
    | intro _
    | split
    | with_reducible refine Kept.mk ?_ rfl rfl rfl rfl rfl rfl rfl rfl rfl rfl rfl rfl)

end Sys2Proof.Machine
end

