-- ==== Sys2Proof/Laws/StepsFrame.lean ====
section
/-! SUPPORT. What each meaning of Machine/Frame.lean keeps (Laws/Kept.lean), once for each command. -/

namespace Sys2Proof.Machine

theorem execPadRefill_kept {g0 : State} (entry : Nat) (s : State) (hk : Kept g0 s) :
    Kept g0 (stateOf s (execPadRefill entry s)) := by
  simp only [execPadRefill]
  iterate 16 (try any_goals first
    | with_reducible exact hk
    | with_reducible refine onMain_kept _ _ hk ?_
    | with_reducible apply stateOf_kept
    | with_reducible apply stateOf_ite_kept
    | with_reducible apply State.updRt_kept
    | with_reducible apply Kept.ite
    | intro _
    | split
    | with_reducible refine Kept.mk ?_ rfl rfl rfl rfl rfl rfl rfl rfl rfl rfl rfl rfl)

theorem execDualKeyPadWindow_kept {g0 : State} (entry : Nat) (s : State) (hk : Kept g0 s) :
    Kept g0 (stateOf s (execDualKeyPadWindow entry s)) := by
  simp only [execDualKeyPadWindow]
  iterate 16 (try any_goals first
    | with_reducible exact hk
    | with_reducible refine onMain_kept _ _ hk ?_
    | with_reducible apply stateOf_kept
    | with_reducible apply stateOf_ite_kept
    | with_reducible apply State.updRt_kept
    | with_reducible apply Kept.ite
    | intro _
    | split
    | with_reducible refine Kept.mk ?_ rfl rfl rfl rfl rfl rfl rfl rfl rfl rfl rfl rfl)

theorem execDualKeyPadWindowEnd_kept {g0 : State} (entry : Nat) (s : State) (hk : Kept g0 s) :
    Kept g0 (stateOf s (execDualKeyPadWindowEnd entry s)) := by
  simp only [execDualKeyPadWindowEnd]
  iterate 16 (try any_goals first
    | with_reducible exact hk
    | with_reducible refine onMain_kept _ _ hk ?_
    | with_reducible apply stateOf_kept
    | with_reducible apply stateOf_ite_kept
    | with_reducible apply State.updRt_kept
    | with_reducible apply Kept.ite
    | intro _
    | split
    | with_reducible refine Kept.mk ?_ rfl rfl rfl rfl rfl rfl rfl rfl rfl rfl rfl rfl)

theorem execAcceptIntervalOpen_kept {g0 : State} (entry : Nat) (s : State) (hk : Kept g0 s) :
    Kept g0 (stateOf s (execAcceptIntervalOpen entry s)) := by
  simp only [execAcceptIntervalOpen]
  iterate 16 (try any_goals first
    | with_reducible exact hk
    | with_reducible refine onMain_kept _ _ hk ?_
    | with_reducible apply stateOf_kept
    | with_reducible apply stateOf_ite_kept
    | with_reducible apply State.updRt_kept
    | with_reducible apply Kept.ite
    | intro _
    | split
    | with_reducible refine Kept.mk ?_ rfl rfl rfl rfl rfl rfl rfl rfl rfl rfl rfl rfl)

theorem execAcceptIntervalClose_kept {g0 : State} (entry : Nat) (s : State) (hk : Kept g0 s) :
    Kept g0 (stateOf s (execAcceptIntervalClose entry s)) := by
  simp only [execAcceptIntervalClose]
  iterate 16 (try any_goals first
    | with_reducible exact hk
    | with_reducible refine onMain_kept _ _ hk ?_
    | with_reducible apply stateOf_kept
    | with_reducible apply stateOf_ite_kept
    | with_reducible apply State.updRt_kept
    | with_reducible apply Kept.ite
    | intro _
    | split
    | with_reducible refine Kept.mk ?_ rfl rfl rfl rfl rfl rfl rfl rfl rfl rfl rfl rfl)

end Sys2Proof.Machine
end

