-- ==== Sys2Proof/Laws/StepsIntegrity.lean ====
section
/-! SUPPORT. What each meaning of Machine/Integrity.lean keeps (Laws/Kept.lean), once for each command. -/

namespace Sys2Proof.Machine

theorem execMemoryError_kept {g0 : State} (w : WordRead) (s : State) (hk : Kept g0 s) :
    Kept g0 (stateOf s (execMemoryError w s)) := by
  simp only [execMemoryError]
  iterate 16 (try any_goals first
    | with_reducible exact hk
    | with_reducible refine onMain_kept _ _ hk ?_
    | with_reducible apply stateOf_kept
    | with_reducible apply stateOf_ite_kept
    | with_reducible apply memoryError_kept
    | with_reducible apply Kept.ite
    | intro _
    | split
    | with_reducible refine Kept.mk ?_ rfl rfl rfl rfl rfl rfl rfl rfl rfl rfl rfl rfl)

theorem execScrubRead_kept {g0 : State} (w : WordRead) (last : Bool) (s : State) (hk : Kept g0 s) :
    Kept g0 (stateOf s (execScrubRead w last s)) := by
  simp only [execScrubRead]
  iterate 16 (try any_goals first
    | with_reducible exact hk
    | with_reducible refine onMain_kept _ _ hk ?_
    | with_reducible apply stateOf_kept
    | with_reducible apply stateOf_ite_kept
    | with_reducible apply memoryError_kept
    | with_reducible apply Kept.ite
    | intro _
    | split
    | with_reducible refine Kept.mk ?_ rfl rfl rfl rfl rfl rfl rfl rfl rfl rfl rfl rfl)

theorem execBusIntegrityError_kept {g0 : State} (x : Access) (e : Option MemErr) (again : Bool) (s : State) (hk : Kept g0 s) :
    Kept g0 (stateOf s (execBusIntegrityError x e again s)) := by
  simp only [execBusIntegrityError]
  iterate 16 (try any_goals first
    | with_reducible exact hk
    | with_reducible refine onMain_kept _ _ hk ?_
    | with_reducible apply stateOf_kept
    | with_reducible apply stateOf_ite_kept
    | with_reducible apply raiseEvent_kept
    | with_reducible apply raiseLogic_kept
    | with_reducible apply access_kept
    | with_reducible apply recover_kept
    | with_reducible apply Kept.ite
    | intro _
    | split
    | with_reducible refine Kept.mk ?_ rfl rfl rfl rfl rfl rfl rfl rfl rfl rfl rfl rfl)

end Sys2Proof.Machine
end

