-- ==== Sys2Proof/Laws/StepsIo.lean ====
section
/-! SUPPORT. What each meaning of Machine/Io.lean keeps (Laws/Kept.lean), once for each command. -/

namespace Sys2Proof.Machine

theorem execSmbusIdentity_kept {g0 : State} (address : Nat) (s : State) (hk : Kept g0 s) :
    Kept g0 (stateOf s (execSmbusIdentity address s)) := by
  simp only [execSmbusIdentity]
  iterate 16 (try any_goals first
    | with_reducible exact hk
    | with_reducible apply stateOf_kept
    | with_reducible apply stateOf_ite_kept
    | with_reducible apply emit_kept
    | with_reducible apply Kept.ite
    | intro _
    | split
    | with_reducible refine Kept.mk ?_ rfl rfl rfl rfl rfl rfl rfl rfl rfl rfl rfl rfl)

theorem execSmbusEnvironment_kept {g0 : State} (address : Nat) (s : State) (hk : Kept g0 s) :
    Kept g0 (stateOf s (execSmbusEnvironment address s)) := by
  simp only [execSmbusEnvironment]
  iterate 16 (try any_goals first
    | with_reducible exact hk
    | with_reducible apply stateOf_kept
    | with_reducible apply stateOf_ite_kept
    | with_reducible apply emit_kept
    | with_reducible apply freshValue_kept
    | with_reducible apply Kept.ite
    | intro _
    | split
    | with_reducible refine Kept.mk ?_ rfl rfl rfl rfl rfl rfl rfl rfl rfl rfl rfl rfl)

theorem execSmbusStatus_kept {g0 : State} (address : Nat) (s : State) (hk : Kept g0 s) :
    Kept g0 (stateOf s (execSmbusStatus address s)) := by
  simp only [execSmbusStatus]
  iterate 16 (try any_goals first
    | with_reducible exact hk
    | with_reducible apply stateOf_kept
    | with_reducible apply stateOf_ite_kept
    | with_reducible apply emit_kept
    | with_reducible apply Kept.ite
    | intro _
    | split
    | with_reducible refine Kept.mk ?_ rfl rfl rfl rfl rfl rfl rfl rfl rfl rfl rfl rfl)

theorem execSmbusAlertResponse_kept {g0 : State} (s : State) (hk : Kept g0 s) :
    Kept g0 (stateOf s (execSmbusAlertResponse s)) := by
  simp only [execSmbusAlertResponse]
  iterate 16 (try any_goals first
    | with_reducible exact hk
    | with_reducible apply stateOf_kept
    | with_reducible apply stateOf_ite_kept
    | with_reducible apply emit_kept
    | with_reducible apply Kept.ite
    | intro _
    | split
    | with_reducible refine Kept.mk ?_ rfl rfl rfl rfl rfl rfl rfl rfl rfl rfl rfl rfl)

end Sys2Proof.Machine
end

