-- ==== Sys2Proof/Laws/StepsKeyOps.lean ====
section
/-! SUPPORT. What each meaning of Machine/KeyOps.lean keeps (Laws/Kept.lean), once for each command. -/

namespace Sys2Proof.Machine

theorem execKeyLoad_kept {g0 : State} (q : Call) (vault : Bool) (x : Blob) (s : State) (hk : Kept g0 s) :
    Kept g0 (stateOf s (execKeyLoad q vault x s)) := by
  simp only [execKeyLoad]
  refine stateOf_kept _ _ (runOp_kept _ _ _ _ _ hk ?_)
  refine after_ite_kept _ _ _ hk ?_
  split
  · exact hk
  · refine after_ite_kept _ _ _ hk ?_
    split
    · exact hk
    · refine after_ite_kept _ _ _ hk (after_ite_kept _ _ _ hk ?_)
      split
      · exact Kept.ite (vaultStore_kept _ _ hk) hk
      · exact after_ite_kept _ _ _ hk (loadDraw_kept _ _ _ _ _ hk hk fun t h => installKey_kept _ _ _ _ h)

theorem execKeyUnload_kept {g0 : State} (q : Call) (handle : Nat) (s : State) (hk : Kept g0 s) :
    Kept g0 (stateOf s (execKeyUnload q handle s)) := by
  simp only [execKeyUnload]
  iterate 16 (try any_goals first
    | with_reducible exact hk
    | with_reducible apply stateOf_kept
    | with_reducible refine runOp_kept _ _ _ _ _ hk ?_
    | with_reducible apply stateOf_ite_kept
    | with_reducible apply after_ite_kept
    | with_reducible apply after_done_kept
    | with_reducible apply after_running_kept
    | with_reducible apply dropKey_kept
    | with_reducible apply Kept.ite
    | intro _
    | split
    | with_reducible refine Kept.mk ?_ rfl rfl rfl rfl rfl rfl rfl rfl rfl rfl rfl rfl)

theorem execKeyGenerate_kept {g0 : State} (q : Call) (kind : Nat) (flags : Nat) (keyLen : Nat) (usage : Nat) (ident : Nat) (group : Nat) (notBefore : Nat) (notAfter : Nat) (s : State) (hk : Kept g0 s) :
    Kept g0 (stateOf s (execKeyGenerate q kind flags keyLen usage ident group notBefore notAfter s)) := by
  simp only [execKeyGenerate]
  refine stateOf_kept _ _ (runOp_kept _ _ _ _ _ hk ?_)
  refine after_ite_kept _ _ _ hk (after_ite_kept _ _ _ hk ?_)
  split
  · exact hk
  · refine after_ite_kept _ _ _ hk (withDraw_kept _ _ _ _ hk hk ?_)
    have h1 := fun h a m => sealBlob_kept h a m _ (drawMaterial_kept kind (kindLen kind keyLen) _
      (allocHandle_kept _ _ hk _ ‹allocHandle _ _ = some _›))
    exact Kept.ite (installKey_kept _ _ _ _ (h1 _ _ _)) (h1 _ _ _)

theorem execKeyBlobRead_kept {g0 : State} (q : Call) (handle : Nat) (s : State) (hk : Kept g0 s) :
    Kept g0 (stateOf s (execKeyBlobRead q handle s)) := by
  simp only [execKeyBlobRead]
  iterate 16 (try any_goals first
    | with_reducible exact hk
    | with_reducible apply stateOf_kept
    | with_reducible refine runOp_kept _ _ _ _ _ hk ?_
    | with_reducible apply stateOf_ite_kept
    | with_reducible apply after_ite_kept
    | with_reducible apply after_done_kept
    | with_reducible apply after_running_kept
    | with_reducible apply Kept.ite
    | intro _
    | split
    | with_reducible refine Kept.mk ?_ rfl rfl rfl rfl rfl rfl rfl rfl rfl rfl rfl rfl)

theorem execKeyVaultStore_kept {g0 : State} (q : Call) (handle : Nat) (s : State) (hk : Kept g0 s) :
    Kept g0 (stateOf s (execKeyVaultStore q handle s)) := by
  simp only [execKeyVaultStore]
  iterate 16 (try any_goals first
    | with_reducible exact hk
    | with_reducible apply stateOf_kept
    | with_reducible refine runOp_kept _ _ _ _ _ hk ?_
    | with_reducible apply stateOf_ite_kept
    | with_reducible apply after_ite_kept
    | with_reducible apply after_done_kept
    | with_reducible apply after_running_kept
    | with_reducible apply vaultStore_kept
    | with_reducible apply Kept.ite
    | intro _
    | split
    | with_reducible refine Kept.mk ?_ rfl rfl rfl rfl rfl rfl rfl rfl rfl rfl rfl rfl)

theorem execKeyVaultDelete_kept {g0 : State} (q : Call) (handle : Nat) (s : State) (hk : Kept g0 s) :
    Kept g0 (stateOf s (execKeyVaultDelete q handle s)) := by
  simp only [execKeyVaultDelete]
  iterate 16 (try any_goals first
    | with_reducible exact hk
    | with_reducible apply stateOf_kept
    | with_reducible refine runOp_kept _ _ _ _ _ hk ?_
    | with_reducible apply stateOf_ite_kept
    | with_reducible apply after_ite_kept
    | with_reducible apply after_done_kept
    | with_reducible apply after_running_kept
    | with_reducible apply keyEvent_kept
    | with_reducible apply Kept.ite
    | intro _
    | split
    | with_reducible refine Kept.mk ?_ rfl rfl rfl rfl rfl rfl rfl rfl rfl rfl rfl rfl)

theorem execKeyReserve_kept {g0 : State} (q : Call) (kind : Nat) (vault : Bool) (usage : Nat) (ident : Nat) (group : Nat) (s : State) (hk : Kept g0 s) :
    Kept g0 (stateOf s (execKeyReserve q kind vault usage ident group s)) := by
  simp only [execKeyReserve]
  refine stateOf_kept _ _ (runOp_kept _ _ _ _ _ hk ?_)
  refine after_ite_kept _ _ _ hk (after_ite_kept _ _ _ hk ?_)
  split
  · exact hk
  · refine after_done_kept _ _ _ (State.updDom_kept _ _ _ ?_)
    exact allocHandle_kept _ _ hk _ ‹allocHandle _ _ = some _›

theorem execKeyReserveCancel_kept {g0 : State} (q : Call) (handle : Nat) (s : State) (hk : Kept g0 s) :
    Kept g0 (stateOf s (execKeyReserveCancel q handle s)) := by
  simp only [execKeyReserveCancel]
  iterate 16 (try any_goals first
    | with_reducible exact hk
    | with_reducible apply stateOf_kept
    | with_reducible refine runOp_kept _ _ _ _ _ hk ?_
    | with_reducible apply stateOf_ite_kept
    | with_reducible apply after_ite_kept
    | with_reducible apply after_done_kept
    | with_reducible apply after_running_kept
    | with_reducible apply State.updDom_kept
    | with_reducible apply Kept.ite
    | intro _
    | split
    | with_reducible refine Kept.mk ?_ rfl rfl rfl rfl rfl rfl rfl rfl rfl rfl rfl rfl)

theorem execKeyAttest_kept {g0 : State} (q : Call) (handle : Nat) (challenge : Bytes) (s : State) (hk : Kept g0 s) :
    Kept g0 (stateOf s (execKeyAttest q handle challenge s)) := by
  simp only [execKeyAttest]
  iterate 16 (try any_goals first
    | with_reducible exact hk
    | with_reducible apply stateOf_kept
    | with_reducible refine runOp_kept _ _ _ _ _ hk ?_
    | with_reducible apply stateOf_ite_kept
    | with_reducible apply after_ite_kept
    | with_reducible apply after_done_kept
    | with_reducible apply after_running_kept
    | with_reducible apply Kept.ite
    | intro _
    | split
    | with_reducible refine Kept.mk ?_ rfl rfl rfl rfl rfl rfl rfl rfl rfl rfl rfl rfl)

theorem execDeviceAttest_kept {g0 : State} (q : Call) (kind : Nat) (challenge : Bytes) (s : State) (hk : Kept g0 s) :
    Kept g0 (stateOf s (execDeviceAttest q kind challenge s)) := by
  simp only [execDeviceAttest]
  iterate 16 (try any_goals first
    | with_reducible exact hk
    | with_reducible apply stateOf_kept
    | with_reducible refine runOp_kept _ _ _ _ _ hk ?_
    | with_reducible apply stateOf_ite_kept
    | with_reducible apply after_ite_kept
    | with_reducible apply after_done_kept
    | with_reducible apply after_running_kept
    | with_reducible apply Kept.ite
    | intro _
    | split
    | with_reducible refine Kept.mk ?_ rfl rfl rfl rfl rfl rfl rfl rfl rfl rfl rfl rfl)

theorem execKeyLifetimePassed_kept {g0 : State} (handle : Nat) (s : State) (hk : Kept g0 s) :
    Kept g0 (stateOf s (execKeyLifetimePassed handle s)) := by
  simp only [execKeyLifetimePassed]
  iterate 16 (try any_goals first
    | with_reducible exact hk
    | with_reducible refine onMain_kept _ _ hk ?_
    | with_reducible apply stateOf_kept
    | with_reducible apply stateOf_ite_kept
    | with_reducible apply raiseEvent_kept
    | with_reducible apply keyEvent_kept
    | with_reducible apply Kept.ite
    | intro _
    | split
    | with_reducible refine Kept.mk ?_ rfl rfl rfl rfl rfl rfl rfl rfl rfl rfl rfl rfl)

theorem execKeySlotRepair_kept {g0 : State} (handle : Nat) (waiting : List Nat) (s : State) (hk : Kept g0 s) :
    Kept g0 (stateOf s (execKeySlotRepair handle waiting s)) := by
  simp only [execKeySlotRepair]
  iterate 16 (try any_goals first
    | with_reducible exact hk
    | with_reducible refine onMain_kept _ _ hk ?_
    | with_reducible apply stateOf_kept
    | with_reducible apply stateOf_ite_kept
    | with_reducible apply raiseEvent_kept
    | with_reducible apply keyEvent_kept
    | with_reducible apply fillSlot_kept
    | with_reducible apply dropKey_kept
    | with_reducible apply resolveWaiting_kept
    | with_reducible apply Kept.ite
    | intro _
    | split
    | with_reducible refine Kept.mk ?_ rfl rfl rfl rfl rfl rfl rfl rfl rfl rfl rfl rfl)

theorem execGdoiPushReceived_kept {g0 : State} (f : Nat) (group : Nat) (ident : Nat) (kind : Nat) (material : Bytes) (notBefore : Nat) (notAfter : Nat) (s : State) (hk : Kept g0 s) :
    Kept g0 (stateOf s (execGdoiPushReceived f group ident kind material notBefore notAfter s)) := by
  simp only [execGdoiPushReceived]
  iterate 16 (try any_goals first
    | with_reducible exact hk
    | with_reducible refine onMain_kept _ _ hk ?_
    | with_reducible apply stateOf_kept
    | with_reducible apply stateOf_ite_kept
    | with_reducible apply raiseEvent_kept
    | with_reducible apply State.updDom_kept
    | with_reducible apply keyEvent_kept
    | with_reducible apply sealBlob_kept
    | with_reducible apply installKey_kept
    | with_reducible apply discardTek_kept
    | with_reducible apply Kept.ite
    | intro _
    | split
    | with_reducible refine Kept.mk ?_ rfl rfl rfl rfl rfl rfl rfl rfl rfl rfl rfl rfl)

theorem execGdoiKdcPush_kept {g0 : State} (handle : Nat) (s : State) (hk : Kept g0 s) :
    Kept g0 (stateOf s (execGdoiKdcPush handle s)) := by
  simp only [execGdoiKdcPush]
  iterate 16 (try any_goals first
    | with_reducible exact hk
    | with_reducible refine onMain_kept _ _ hk ?_
    | with_reducible apply stateOf_kept
    | with_reducible apply stateOf_ite_kept
    | with_reducible apply sendAll_kept
    | with_reducible apply Kept.ite
    | intro _
    | split
    | with_reducible refine Kept.mk ?_ rfl rfl rfl rfl rfl rfl rfl rfl rfl rfl rfl rfl)

end Sys2Proof.Machine
end

