-- ==== Sys2Proof/Laws/StepsLife.lean ====
section
/-! SUPPORT. What each meaning of Machine/Life.lean keeps (Laws/Kept.lean), once for each command. -/

namespace Sys2Proof.Machine

theorem execLifecycleRequest_kept {g0 : State} (q : Call) (auth : AuthReq) (s : State) (hk : Kept g0 s) :
    Kept g0 (stateOf s (execLifecycleRequest q auth s)) := by
  simp only [execLifecycleRequest]
  iterate 16 (try any_goals first
    | with_reducible exact hk
    | with_reducible apply stateOf_kept
    | with_reducible refine runOp_kept _ _ _ _ _ hk ?_
    | with_reducible apply stateOf_ite_kept
    | with_reducible apply after_ite_kept
    | with_reducible apply after_done_kept
    | with_reducible apply after_running_kept
    | with_reducible apply raiseEvent_kept
    | with_reducible apply securityRec_kept
    | with_reducible apply State.updDom_kept
    | with_reducible apply setTransition_kept
    | with_reducible apply Kept.ite
    | intro _
    | split
    | with_reducible refine Kept.mk ?_ rfl rfl rfl rfl rfl rfl rfl rfl rfl rfl rfl rfl)

theorem execDebugAuthorise_kept {g0 : State} (q : Call) (t : DebugToken) (s : State) (hk : Kept g0 s) :
    Kept g0 (stateOf s (execDebugAuthorise q t s)) := by
  simp only [execDebugAuthorise]
  iterate 16 (try any_goals first
    | with_reducible exact hk
    | with_reducible apply stateOf_kept
    | with_reducible refine runOp_kept _ _ _ _ _ hk ?_
    | with_reducible apply stateOf_ite_kept
    | with_reducible apply after_ite_kept
    | with_reducible apply after_done_kept
    | with_reducible apply after_running_kept
    | with_reducible apply raiseEvent_kept
    | with_reducible apply securityRec_kept
    | with_reducible apply Kept.ite
    | intro _
    | split
    | with_reducible refine Kept.mk ?_ rfl rfl rfl rfl rfl rfl rfl rfl rfl rfl rfl rfl)

theorem execDebugTokenExpiry_kept {g0 : State} (s : State) (hk : Kept g0 s) :
    Kept g0 (stateOf s (execDebugTokenExpiry s)) := by
  simp only [execDebugTokenExpiry]
  iterate 16 (try any_goals first
    | with_reducible exact hk
    | with_reducible refine onMain_kept _ _ hk ?_
    | with_reducible apply stateOf_kept
    | with_reducible apply stateOf_ite_kept
    | with_reducible apply endToken_kept
    | with_reducible apply Kept.ite
    | intro _
    | split
    | with_reducible refine Kept.mk ?_ rfl rfl rfl rfl rfl rfl rfl rfl rfl rfl rfl rfl)

theorem execDebugEnd_kept {g0 : State} (s : State) (hk : Kept g0 s) :
    Kept g0 (stateOf s (execDebugEnd s)) := by
  simp only [execDebugEnd]
  iterate 16 (try any_goals first
    | with_reducible exact hk
    | with_reducible refine viaBar_kept _ _ _ hk ?_
    | with_reducible apply stateOf_kept
    | with_reducible apply stateOf_ite_kept
    | with_reducible apply endToken_kept
    | with_reducible apply Kept.ite
    | intro _
    | split
    | with_reducible refine Kept.mk ?_ rfl rfl rfl rfl rfl rfl rfl rfl rfl rfl rfl rfl)

theorem execJtagIdcode_kept {g0 : State} (s : State) (hk : Kept g0 s) :
    Kept g0 (stateOf s (execJtagIdcode s)) := by
  simp only [execJtagIdcode]
  iterate 16 (try any_goals first
    | with_reducible exact hk
    | with_reducible apply stateOf_kept
    | with_reducible apply stateOf_ite_kept
    | with_reducible apply emit_kept
    | with_reducible apply Kept.ite
    | intro _
    | split
    | with_reducible refine Kept.mk ?_ rfl rfl rfl rfl rfl rfl rfl rfl rfl rfl rfl rfl)

theorem execJtagBypass_kept {g0 : State} (s : State) (hk : Kept g0 s) :
    Kept g0 (stateOf s (execJtagBypass s)) := by
  simp only [execJtagBypass]
  iterate 16 (try any_goals first
    | with_reducible exact hk
    | with_reducible apply stateOf_kept
    | with_reducible apply stateOf_ite_kept
    | with_reducible apply bypass_kept
    | with_reducible apply Kept.ite
    | intro _
    | split
    | with_reducible refine Kept.mk ?_ rfl rfl rfl rfl rfl rfl rfl rfl rfl rfl rfl rfl)

theorem execDebugPortAccess_kept {g0 : State} (a : DebugAct) (s : State) (hk : Kept g0 s) :
    Kept g0 (stateOf s (execDebugPortAccess a s)) := by
  simp only [execDebugPortAccess]
  iterate 16 (try any_goals first
    | with_reducible exact hk
    | with_reducible apply stateOf_kept
    | with_reducible apply stateOf_ite_kept
    | with_reducible apply bypass_kept
    | with_reducible apply debugAct_kept
    | with_reducible apply Kept.ite
    | intro _
    | split
    | with_reducible refine Kept.mk ?_ rfl rfl rfl rfl rfl rfl rfl rfl rfl rfl rfl rfl)

theorem execSelfTestRun_kept {g0 : State} (q : Call) (block : Nat) (sig : Option Nat) (partly : List (Nat × Nat)) (s : State) (hk : Kept g0 s) :
    Kept g0 (stateOf s (execSelfTestRun q block sig partly s)) := by
  cases sig with
  | none =>
    simp only [execSelfTestRun]
    refine stateOf_kept _ _ (runOp_kept _ _ _ _ _ hk ?_)
    split
    · exact hk
    · refine after_ite_kept _ _ _ hk ?_
      split
      · exact hk
      · exact Kept.congr (takeBlock_kept block s hk) rfl rfl rfl rfl rfl rfl rfl rfl rfl rfl rfl rfl
  | some v =>
    have h1 : ∀ (b : Bool) (r : TestRun) (x : State), Kept g0 x →
        Kept g0 (OpOut.after s (if b = true then endTest r v partly x else .running x)) := fun b r x h => by
      refine after_ite_kept _ _ _ ?_ h
      rw [endTest_after]
      exact endTest_kept _ _ _ _ h
    simp only [execSelfTestRun]
    refine stateOf_kept _ _ (runOp_kept _ _ _ _ _ hk ?_)
    split
    · exact h1 _ _ _ hk
    · refine after_ite_kept _ _ _ hk ?_
      split
      · exact hk
      · exact h1 _ _ _ (Kept.congr (takeBlock_kept block s hk) rfl rfl rfl rfl rfl rfl rfl rfl rfl rfl rfl rfl)

theorem execRollingTest_kept {g0 : State} (q : Call) (mode : Nat) (period : Nat) (s : State) (hk : Kept g0 s) :
    Kept g0 (stateOf s (execRollingTest q mode period s)) := by
  simp only [execRollingTest]
  iterate 16 (try any_goals first
    | with_reducible exact hk
    | with_reducible apply stateOf_kept
    | with_reducible refine runOp_kept _ _ _ _ _ hk ?_
    | with_reducible apply stateOf_ite_kept
    | with_reducible apply after_ite_kept
    | with_reducible apply after_done_kept
    | with_reducible apply after_running_kept
    | with_reducible apply Kept.ite
    | intro _
    | split
    | with_reducible refine Kept.mk ?_ rfl rfl rfl rfl rfl rfl rfl rfl rfl rfl rfl rfl)

theorem execRollingTestPeriod_kept {g0 : State} (sig : Option Nat) (s : State) (hk : Kept g0 s) :
    Kept g0 (stateOf s (execRollingTestPeriod sig s)) := by
  simp only [execRollingTestPeriod]
  iterate 16 (try any_goals first
    | with_reducible exact hk
    | with_reducible refine onMain_kept _ _ hk ?_
    | with_reducible apply stateOf_kept
    | with_reducible apply stateOf_ite_kept
    | with_reducible apply takePipe_kept
    | with_reducible apply endRolling_kept
    | with_reducible apply Kept.ite
    | intro _
    | split
    | with_reducible refine Kept.mk ?_ rfl rfl rfl rfl rfl rfl rfl rfl rfl rfl rfl rfl)

theorem execModuleInfo_kept {g0 : State} (q : Call) (s : State) (hk : Kept g0 s) :
    Kept g0 (stateOf s (execModuleInfo q s)) := by
  simp only [execModuleInfo]
  iterate 16 (try any_goals first
    | with_reducible exact hk
    | with_reducible apply stateOf_kept
    | with_reducible refine runOp_kept _ _ _ _ _ hk ?_
    | with_reducible apply stateOf_ite_kept
    | with_reducible apply after_ite_kept
    | with_reducible apply after_done_kept
    | with_reducible apply after_running_kept
    | with_reducible apply Kept.ite
    | intro _
    | split
    | with_reducible refine Kept.mk ?_ rfl rfl rfl rfl rfl rfl rfl rfl rfl rfl rfl rfl)

theorem execConfigSelect_kept {g0 : State} (q : Call) (config : Nat) (s : State) (hk : Kept g0 s) :
    Kept g0 (stateOf s (execConfigSelect q config s)) := by
  simp only [execConfigSelect]
  iterate 16 (try any_goals first
    | with_reducible exact hk
    | with_reducible apply stateOf_kept
    | with_reducible refine runOp_kept _ _ _ _ _ hk ?_
    | with_reducible apply stateOf_ite_kept
    | with_reducible apply after_ite_kept
    | with_reducible apply after_done_kept
    | with_reducible apply after_running_kept
    | with_reducible apply Kept.ite
    | intro _
    | split
    | with_reducible refine Kept.mk ?_ rfl rfl rfl rfl rfl rfl rfl rfl rfl rfl rfl rfl)

theorem execFirmwareLoad_kept {g0 : State} (q : Call) (length : Nat) (slot : Nat) (image : Option FwImage) (s : State) (hk : Kept g0 s) :
    Kept g0 (stateOf s (execFirmwareLoad q length slot image s)) := by
  have h1 : ∀ v, Kept g0 { s with pwr := s.pwr.setSlot slot v } := fun v =>
    Kept.congr hk rfl rfl rfl rfl rfl rfl rfl (Pwr.setSlot_floor _ _ _) rfl rfl rfl rfl
  simp only [execFirmwareLoad]
  refine stateOf_kept _ _ (runOp_kept _ _ _ _ _ hk ?_)
  refine after_ite_kept _ _ _ hk (after_ite_kept _ _ _ hk (after_ite_kept _ _ _ hk ?_))
  split
  · exact h1 _
  · split
    · exact h1 _
    · exact h1 _

theorem execFirmwareSelect_kept {g0 : State} (q : Call) (slot : Nat) (s : State) (hk : Kept g0 s) :
    Kept g0 (stateOf s (execFirmwareSelect q slot s)) := by
  have h1 : ∀ p, p.floor = s.pwr.floor → Kept g0 { s with pwr := p } := fun p e =>
    Kept.congr hk rfl rfl rfl rfl rfl rfl rfl e rfl rfl rfl rfl
  simp only [execFirmwareSelect]
  refine stateOf_kept _ _ (runOp_kept _ _ _ _ _ hk ?_)
  refine after_ite_kept _ _ _ hk (after_ite_kept _ _ _ (h1 _ rfl) (after_ite_kept _ _ _ (h1 _ ?_) hk))
  simp only [Pwr.setSlot_floor]
  rfl

theorem execFirmwareTrialCommit_kept {g0 : State} (s : State) (hk : Kept g0 s) :
    Kept g0 (stateOf s (execFirmwareTrialCommit s)) := by
  simp only [execFirmwareTrialCommit]
  refine onMain_kept _ _ hk ?_
  split
  · exact hk
  · refine stateOf_ite_kept _ _ _ (raiseEvent_kept _ _ _ _ (securityRec_kept _ _ _ _ _ (Kept.floor hk ?_))) hk
    simp only
    split <;> omega

end Sys2Proof.Machine
end

