-- ==== Sys2Proof/Laws/StepsPkOps.lean ====
section
/-! SUPPORT. What each meaning of Machine/PkOps.lean keeps (Laws/Kept.lean), once for each command. -/

namespace Sys2Proof.Machine

theorem execEcdsaSign_kept {g0 : State} (q : Call) (handle : Nat) (message : Bool) (input : Bytes) (s : State) (hk : Kept g0 s) :
    Kept g0 (stateOf s (execEcdsaSign q handle message input s)) := by
  simp only [execEcdsaSign]
  refine stateOf_kept _ _ (runOp_kept _ _ _ _ _ hk ?_)
  refine withKey_kept _ _ _ _ _ _ _ hk hk fun v => needOut_kept _ _ _ _ _ hk (withDraw_kept _ _ _ _ hk hk ?_)
  exact runMasked_at _ _ _ hk (signDrawn_kept _ _ _ _ _ hk)

theorem execEcdsaVerify_kept {g0 : State} (q : Call) (curve : Nat) (message : Bool) (input : Bytes) (s : State) (hk : Kept g0 s) :
    Kept g0 (stateOf s (execEcdsaVerify q curve message input s)) := by
  simp only [execEcdsaVerify]
  iterate 16 (try any_goals first
    | with_reducible exact hk
    | with_reducible apply stateOf_kept
    | with_reducible refine runOp_kept _ _ _ _ _ hk ?_
    | with_reducible apply stateOf_ite_kept
    | with_reducible apply after_ite_kept
    | with_reducible apply after_done_kept
    | with_reducible apply after_running_kept
    | with_reducible apply dispatchPke_kept
    | with_reducible apply refuse_kept
    | with_reducible apply Kept.ite
    | intro _
    | split
    | with_reducible refine Kept.mk ?_ rfl rfl rfl rfl rfl rfl rfl rfl rfl rfl rfl rfl)

theorem execEddsaSign_kept {g0 : State} (q : Call) (handle : Nat) (input : Bytes) (s : State) (hk : Kept g0 s) :
    Kept g0 (stateOf s (execEddsaSign q handle input s)) := by
  simp only [execEddsaSign]
  refine stateOf_kept _ _ (runOp_kept _ _ _ _ _ hk ?_)
  refine withKey_kept _ _ _ _ _ _ _ hk hk fun v => withDraw_kept _ _ _ _ hk hk ?_
  exact runMasked_at _ _ _ hk hk

theorem execEddsaVerify_kept {g0 : State} (q : Call) (input : Bytes) (s : State) (hk : Kept g0 s) :
    Kept g0 (stateOf s (execEddsaVerify q input s)) := by
  simp only [execEddsaVerify]
  iterate 16 (try any_goals first
    | with_reducible exact hk
    | with_reducible apply stateOf_kept
    | with_reducible refine runOp_kept _ _ _ _ _ hk ?_
    | with_reducible apply stateOf_ite_kept
    | with_reducible apply after_ite_kept
    | with_reducible apply after_done_kept
    | with_reducible apply after_running_kept
    | with_reducible apply dispatchPke_kept
    | with_reducible apply refuse_kept
    | with_reducible apply Kept.ite
    | intro _
    | split
    | with_reducible refine Kept.mk ?_ rfl rfl rfl rfl rfl rfl rfl rfl rfl rfl rfl rfl)

theorem execKeyAgree_kept {g0 : State} (q : Call) (handle : Nat) (input : Bytes) (s : State) (hk : Kept g0 s) :
    Kept g0 (stateOf s (execKeyAgree q handle input s)) := by
  simp only [execKeyAgree]
  refine stateOf_kept _ _ (runOp_kept _ _ _ _ _ hk ?_)
  refine withKey_kept _ _ _ _ _ _ _ hk hk fun v => needOut_kept _ _ _ _ _ hk (after_ite_kept _ _ _ hk
    (withDraw_kept _ _ _ _ hk hk (after_ite_kept _ _ _ ?_ ?_)))
  · unfold agreeMont
    exact runMasked_at _ _ _ hk hk
  · unfold agreePoint
    exact runMasked_at _ _ _ hk hk

theorem execPointValidate_kept {g0 : State} (q : Call) (curve : Nat) (input : Bytes) (s : State) (hk : Kept g0 s) :
    Kept g0 (stateOf s (execPointValidate q curve input s)) := by
  simp only [execPointValidate]
  iterate 16 (try any_goals first
    | with_reducible exact hk
    | with_reducible apply stateOf_kept
    | with_reducible refine runOp_kept _ _ _ _ _ hk ?_
    | with_reducible apply stateOf_ite_kept
    | with_reducible apply after_ite_kept
    | with_reducible apply after_done_kept
    | with_reducible apply after_running_kept
    | with_reducible apply dispatchPke_kept
    | with_reducible apply refuse_kept
    | with_reducible apply Kept.ite
    | intro _
    | split
    | with_reducible refine Kept.mk ?_ rfl rfl rfl rfl rfl rfl rfl rfl rfl rfl rfl rfl)

theorem execRsaSign_kept {g0 : State} (q : Call) (handle : Nat) (pad : Nat) (hash : Nat) (salt : Nat) (input : Bytes) (s : State) (hk : Kept g0 s) :
    Kept g0 (stateOf s (execRsaSign q handle pad hash salt input s)) := by
  simp only [execRsaSign]
  refine stateOf_kept _ _ (runOp_kept _ _ _ _ _ hk ?_)
  refine withKey_kept _ _ _ _ _ _ _ hk hk fun v => needOut_kept _ _ _ _ _ hk (after_ite_kept _ _ _ hk
    (withDraw_kept _ _ _ _ hk hk ?_))
  refine dispatchPke_at _ _ _ hk ?_
  split
  · exact draw_kept _ _ hk
  · exact hk

theorem execRsaDecrypt_kept {g0 : State} (q : Call) (handle : Nat) (pad : Nat) (hash : Nat) (salt : Nat) (input : Bytes) (s : State) (hk : Kept g0 s) :
    Kept g0 (stateOf s (execRsaDecrypt q handle pad hash salt input s)) := by
  simp only [execRsaDecrypt]
  iterate 16 (try any_goals first
    | with_reducible exact hk
    | with_reducible apply stateOf_kept
    | with_reducible refine runOp_kept _ _ _ _ _ hk ?_
    | with_reducible apply stateOf_ite_kept
    | with_reducible apply after_ite_kept
    | with_reducible apply after_done_kept
    | with_reducible apply after_running_kept
    | with_reducible refine withDraw_kept _ _ _ _ hk hk ?_
    | with_reducible refine withKey_kept _ _ _ _ _ _ _ hk hk ?_
    | with_reducible refine needOut_kept _ _ _ _ _ hk ?_
    | with_reducible apply dispatchPke_kept
    | with_reducible apply Kept.ite
    | intro _
    | split
    | with_reducible refine Kept.mk ?_ rfl rfl rfl rfl rfl rfl rfl rfl rfl rfl rfl rfl)

theorem execRsaVerify_kept {g0 : State} (q : Call) (len : Nat) (pad : Nat) (hash : Nat) (salt : Nat) (input : Bytes) (s : State) (hk : Kept g0 s) :
    Kept g0 (stateOf s (execRsaVerify q len pad hash salt input s)) := by
  simp only [execRsaVerify]
  iterate 16 (try any_goals first
    | with_reducible exact hk
    | with_reducible apply stateOf_kept
    | with_reducible refine runOp_kept _ _ _ _ _ hk ?_
    | with_reducible apply stateOf_ite_kept
    | with_reducible apply after_ite_kept
    | with_reducible apply after_done_kept
    | with_reducible apply after_running_kept
    | with_reducible apply dispatchPke_kept
    | with_reducible apply Kept.ite
    | intro _
    | split
    | with_reducible refine Kept.mk ?_ rfl rfl rfl rfl rfl rfl rfl rfl rfl rfl rfl rfl)

theorem execRsaEncrypt_kept {g0 : State} (q : Call) (len : Nat) (pad : Nat) (hash : Nat) (salt : Nat) (input : Bytes) (s : State) (hk : Kept g0 s) :
    Kept g0 (stateOf s (execRsaEncrypt q len pad hash salt input s)) := by
  simp only [execRsaEncrypt]
  refine stateOf_kept _ _ (runOp_kept _ _ _ _ _ hk ?_)
  refine after_ite_kept _ _ _ hk (withDraw_kept _ _ _ _ hk hk ?_)
  exact dispatchPke_at _ _ _ hk (draw_kept _ _ hk)

theorem execCurveLoad_kept {g0 : State} (q : Call) (input : Bytes) (s : State) (hk : Kept g0 s) :
    Kept g0 (stateOf s (execCurveLoad q input s)) := by
  simp only [execCurveLoad]
  refine stateOf_kept _ _ (runOp_kept _ _ _ _ _ hk ?_)
  refine after_ite_kept _ _ _ hk (withDraw_kept _ _ _ _ hk hk ?_)
  exact runMasked_at _ _ _ hk (draw_kept _ _ hk)

theorem execCurveUnload_kept {g0 : State} (q : Call) (curve : Nat) (s : State) (hk : Kept g0 s) :
    Kept g0 (stateOf s (execCurveUnload q curve s)) := by
  simp only [execCurveUnload]
  iterate 16 (try any_goals first
    | with_reducible exact hk
    | with_reducible apply stateOf_kept
    | with_reducible refine runOp_kept _ _ _ _ _ hk ?_
    | with_reducible apply stateOf_ite_kept
    | with_reducible apply after_ite_kept
    | with_reducible apply after_done_kept
    | with_reducible apply after_running_kept
    | with_reducible apply Kept.ite
    | intro _
    | split
    | with_reducible refine Kept.mk ?_ rfl rfl rfl rfl rfl rfl rfl rfl rfl rfl rfl rfl)

theorem execSequence_kept {g0 : State} (q : Call) (block : Bytes) (input : Bytes) (s : State) (hk : Kept g0 s) :
    Kept g0 (stateOf s (execSequence q block input s)) := by
  simp only [execSequence]
  refine stateOf_ite_kept _ _ _ (onMain_kept _ _ hk (halt_kept _ _ _ _ _ _ hk)) ?_
  refine stateOf_kept _ _ (runOp_kept _ _ _ _ _ hk ?_)
  refine after_ite_kept _ _ _ hk ?_
  exact dispatchPke_at _ _ _ hk (freshValue_kept _ (freshValue_kept _ hk))

end Sys2Proof.Machine
end

