-- ==== Sys2Proof/Laws/StepsPke.lean ====
section
/-! SUPPORT. What each meaning of Machine/Pke.lean keeps (Laws/Kept.lean), once for each command. -/

namespace Sys2Proof.Machine

theorem execPkeAbort_kept {g0 : State} (engine : Nat) (cause : Nat) (s : State) (hk : Kept g0 s) :
    Kept g0 (stateOf s (execPkeAbort engine cause s)) := by
  simp only [execPkeAbort]
  iterate 16 (try any_goals first
    | with_reducible exact hk
    | with_reducible refine onMain_kept _ _ hk ?_
    | with_reducible apply stateOf_kept
    | with_reducible apply stateOf_ite_kept
    | with_reducible apply abortBy_kept
    | with_reducible apply Kept.ite
    | intro _
    | split
    | with_reducible refine Kept.mk ?_ rfl rfl rfl rfl rfl rfl rfl rfl rfl rfl rfl rfl)

theorem execPkeAbortRelease_kept {g0 : State} (engine : Nat) (s : State) (hk : Kept g0 s) :
    Kept g0 (stateOf s (execPkeAbortRelease engine s)) := by
  simp only [execPkeAbortRelease]
  iterate 16 (try any_goals first
    | with_reducible exact hk
    | with_reducible refine onMain_kept _ _ hk ?_
    | with_reducible apply stateOf_kept
    | with_reducible apply stateOf_ite_kept
    | with_reducible apply State.setEngine_kept
    | with_reducible apply Kept.ite
    | intro _
    | split
    | with_reducible refine Kept.mk ?_ rfl rfl rfl rfl rfl rfl rfl rfl rfl rfl rfl rfl)

theorem execPkeOperationStart_kept {g0 : State} (engine : Nat) (s : State) (hk : Kept g0 s) :
    Kept g0 (stateOf s (execPkeOperationStart engine s)) := by
  simp only [execPkeOperationStart]
  iterate 16 (try any_goals first
    | with_reducible exact hk
    | with_reducible refine onMain_kept _ _ hk ?_
    | with_reducible apply stateOf_kept
    | with_reducible apply stateOf_ite_kept
    | with_reducible apply State.setEngine_kept
    | with_reducible apply takeQueued_kept
    | with_reducible apply Kept.ite
    | intro _
    | split
    | with_reducible refine Kept.mk ?_ rfl rfl rfl rfl rfl rfl rfl rfl rfl rfl rfl rfl)

theorem execPkeValidationEnd_kept {g0 : State} (engine : Nat) (s : State) (hk : Kept g0 s) :
    Kept g0 (stateOf s (execPkeValidationEnd engine s)) := by
  simp only [execPkeValidationEnd]
  iterate 16 (try any_goals first
    | with_reducible exact hk
    | with_reducible refine onMain_kept _ _ hk ?_
    | with_reducible apply stateOf_kept
    | with_reducible apply stateOf_ite_kept
    | with_reducible apply endValidation_kept
    | with_reducible apply Kept.ite
    | intro _
    | split
    | with_reducible refine Kept.mk ?_ rfl rfl rfl rfl rfl rfl rfl rfl rfl rfl rfl rfl)

theorem execPkeOperationFinish_kept {g0 : State} (engine : Nat) (upset : Bool) (s : State) (hk : Kept g0 s) :
    Kept g0 (stateOf s (execPkeOperationFinish engine upset s)) := by
  simp only [execPkeOperationFinish]
  iterate 16 (try any_goals first
    | with_reducible exact hk
    | with_reducible refine onMain_kept _ _ hk ?_
    | with_reducible apply stateOf_kept
    | with_reducible apply stateOf_ite_kept
    | with_reducible apply State.setEngine_kept
    | with_reducible apply engineFault_kept
    | with_reducible apply squareBlind_kept
    | with_reducible apply releaseOp_kept
    | with_reducible apply Kept.ite
    | intro _
    | split
    | with_reducible refine Kept.mk ?_ rfl rfl rfl rfl rfl rfl rfl rfl rfl rfl rfl rfl)

theorem execPkeSetmod_kept {g0 : State} (engine : Nat) (c : PkeCmd) (s : State) (hk : Kept g0 s) :
    Kept g0 (stateOf s (execPkeSetmod engine c s)) := by
  simp only [execPkeSetmod]
  iterate 16 (try any_goals first
    | with_reducible exact hk
    | with_reducible refine onMain_kept _ _ hk ?_
    | with_reducible apply stateOf_kept
    | with_reducible apply stateOf_ite_kept
    | with_reducible apply runOn_kept
    | with_reducible apply Kept.ite
    | intro _
    | split
    | with_reducible refine Kept.mk ?_ rfl rfl rfl rfl rfl rfl rfl rfl rfl rfl rfl rfl)

theorem execPkeLoadkey_kept {g0 : State} (engine : Nat) (c : PkeCmd) (s : State) (hk : Kept g0 s) :
    Kept g0 (stateOf s (execPkeLoadkey engine c s)) := by
  simp only [execPkeLoadkey]
  iterate 16 (try any_goals first
    | with_reducible exact hk
    | with_reducible refine onMain_kept _ _ hk ?_
    | with_reducible apply stateOf_kept
    | with_reducible apply stateOf_ite_kept
    | with_reducible apply runOn_kept
    | with_reducible apply Kept.ite
    | intro _
    | split
    | with_reducible refine Kept.mk ?_ rfl rfl rfl rfl rfl rfl rfl rfl rfl rfl rfl rfl)

theorem execPkeStore_kept {g0 : State} (engine : Nat) (c : PkeCmd) (s : State) (hk : Kept g0 s) :
    Kept g0 (stateOf s (execPkeStore engine c s)) := by
  simp only [execPkeStore]
  iterate 16 (try any_goals first
    | with_reducible exact hk
    | with_reducible refine onMain_kept _ _ hk ?_
    | with_reducible apply stateOf_kept
    | with_reducible apply stateOf_ite_kept
    | with_reducible apply runOn_kept
    | with_reducible apply Kept.ite
    | intro _
    | split
    | with_reducible refine Kept.mk ?_ rfl rfl rfl rfl rfl rfl rfl rfl rfl rfl rfl rfl)

theorem execPkeMmul_kept {g0 : State} (engine : Nat) (c : PkeCmd) (s : State) (hk : Kept g0 s) :
    Kept g0 (stateOf s (execPkeMmul engine c s)) := by
  simp only [execPkeMmul]
  iterate 16 (try any_goals first
    | with_reducible exact hk
    | with_reducible refine onMain_kept _ _ hk ?_
    | with_reducible apply stateOf_kept
    | with_reducible apply stateOf_ite_kept
    | with_reducible apply runOn_kept
    | with_reducible apply Kept.ite
    | intro _
    | split
    | with_reducible refine Kept.mk ?_ rfl rfl rfl rfl rfl rfl rfl rfl rfl rfl rfl rfl)

theorem execPkeMadd_kept {g0 : State} (engine : Nat) (c : PkeCmd) (s : State) (hk : Kept g0 s) :
    Kept g0 (stateOf s (execPkeMadd engine c s)) := by
  simp only [execPkeMadd]
  iterate 16 (try any_goals first
    | with_reducible exact hk
    | with_reducible refine onMain_kept _ _ hk ?_
    | with_reducible apply stateOf_kept
    | with_reducible apply stateOf_ite_kept
    | with_reducible apply runOn_kept
    | with_reducible apply Kept.ite
    | intro _
    | split
    | with_reducible refine Kept.mk ?_ rfl rfl rfl rfl rfl rfl rfl rfl rfl rfl rfl rfl)

theorem execPkeMsub_kept {g0 : State} (engine : Nat) (c : PkeCmd) (s : State) (hk : Kept g0 s) :
    Kept g0 (stateOf s (execPkeMsub engine c s)) := by
  simp only [execPkeMsub]
  iterate 16 (try any_goals first
    | with_reducible exact hk
    | with_reducible refine onMain_kept _ _ hk ?_
    | with_reducible apply stateOf_kept
    | with_reducible apply stateOf_ite_kept
    | with_reducible apply runOn_kept
    | with_reducible apply Kept.ite
    | intro _
    | split
    | with_reducible refine Kept.mk ?_ rfl rfl rfl rfl rfl rfl rfl rfl rfl rfl rfl rfl)

theorem execPkeMac_kept {g0 : State} (engine : Nat) (c : PkeCmd) (s : State) (hk : Kept g0 s) :
    Kept g0 (stateOf s (execPkeMac engine c s)) := by
  simp only [execPkeMac]
  iterate 16 (try any_goals first
    | with_reducible exact hk
    | with_reducible refine onMain_kept _ _ hk ?_
    | with_reducible apply stateOf_kept
    | with_reducible apply stateOf_ite_kept
    | with_reducible apply runOn_kept
    | with_reducible apply Kept.ite
    | intro _
    | split
    | with_reducible refine Kept.mk ?_ rfl rfl rfl rfl rfl rfl rfl rfl rfl rfl rfl rfl)

theorem execPkeCswap_kept {g0 : State} (engine : Nat) (c : PkeCmd) (s : State) (hk : Kept g0 s) :
    Kept g0 (stateOf s (execPkeCswap engine c s)) := by
  simp only [execPkeCswap]
  iterate 16 (try any_goals first
    | with_reducible exact hk
    | with_reducible refine onMain_kept _ _ hk ?_
    | with_reducible apply stateOf_kept
    | with_reducible apply stateOf_ite_kept
    | with_reducible apply runOn_kept
    | with_reducible apply Kept.ite
    | intro _
    | split
    | with_reducible refine Kept.mk ?_ rfl rfl rfl rfl rfl rfl rfl rfl rfl rfl rfl rfl)

theorem execPkeTsel_kept {g0 : State} (engine : Nat) (c : PkeCmd) (s : State) (hk : Kept g0 s) :
    Kept g0 (stateOf s (execPkeTsel engine c s)) := by
  simp only [execPkeTsel]
  iterate 16 (try any_goals first
    | with_reducible exact hk
    | with_reducible refine onMain_kept _ _ hk ?_
    | with_reducible apply stateOf_kept
    | with_reducible apply stateOf_ite_kept
    | with_reducible apply runOn_kept
    | with_reducible apply Kept.ite
    | intro _
    | split
    | with_reducible refine Kept.mk ?_ rfl rfl rfl rfl rfl rfl rfl rfl rfl rfl rfl rfl)

theorem execPkeCopy_kept {g0 : State} (engine : Nat) (c : PkeCmd) (s : State) (hk : Kept g0 s) :
    Kept g0 (stateOf s (execPkeCopy engine c s)) := by
  simp only [execPkeCopy]
  iterate 16 (try any_goals first
    | with_reducible exact hk
    | with_reducible refine onMain_kept _ _ hk ?_
    | with_reducible apply stateOf_kept
    | with_reducible apply stateOf_ite_kept
    | with_reducible apply runOn_kept
    | with_reducible apply Kept.ite
    | intro _
    | split
    | with_reducible refine Kept.mk ?_ rfl rfl rfl rfl rfl rfl rfl rfl rfl rfl rfl rfl)

theorem execPkeSetc_kept {g0 : State} (engine : Nat) (c : PkeCmd) (s : State) (hk : Kept g0 s) :
    Kept g0 (stateOf s (execPkeSetc engine c s)) := by
  simp only [execPkeSetc]
  iterate 16 (try any_goals first
    | with_reducible exact hk
    | with_reducible refine onMain_kept _ _ hk ?_
    | with_reducible apply stateOf_kept
    | with_reducible apply stateOf_ite_kept
    | with_reducible apply runOn_kept
    | with_reducible apply Kept.ite
    | intro _
    | split
    | with_reducible refine Kept.mk ?_ rfl rfl rfl rfl rfl rfl rfl rfl rfl rfl rfl rfl)

theorem execPkeCheck_kept {g0 : State} (engine : Nat) (c : PkeCmd) (s : State) (hk : Kept g0 s) :
    Kept g0 (stateOf s (execPkeCheck engine c s)) := by
  simp only [execPkeCheck]
  iterate 16 (try any_goals first
    | with_reducible exact hk
    | with_reducible refine onMain_kept _ _ hk ?_
    | with_reducible apply stateOf_kept
    | with_reducible apply stateOf_ite_kept
    | with_reducible apply runOn_kept
    | with_reducible apply Kept.ite
    | intro _
    | split
    | with_reducible refine Kept.mk ?_ rfl rfl rfl rfl rfl rfl rfl rfl rfl rfl rfl rfl)

theorem execPkePcheck_kept {g0 : State} (engine : Nat) (c : PkeCmd) (s : State) (hk : Kept g0 s) :
    Kept g0 (stateOf s (execPkePcheck engine c s)) := by
  simp only [execPkePcheck]
  iterate 16 (try any_goals first
    | with_reducible exact hk
    | with_reducible refine onMain_kept _ _ hk ?_
    | with_reducible apply stateOf_kept
    | with_reducible apply stateOf_ite_kept
    | with_reducible apply runOn_kept
    | with_reducible apply Kept.ite
    | intro _
    | split
    | with_reducible refine Kept.mk ?_ rfl rfl rfl rfl rfl rfl rfl rfl rfl rfl rfl rfl)

theorem execPkeEq_kept {g0 : State} (engine : Nat) (c : PkeCmd) (s : State) (hk : Kept g0 s) :
    Kept g0 (stateOf s (execPkeEq engine c s)) := by
  simp only [execPkeEq]
  iterate 16 (try any_goals first
    | with_reducible exact hk
    | with_reducible refine onMain_kept _ _ hk ?_
    | with_reducible apply stateOf_kept
    | with_reducible apply stateOf_ite_kept
    | with_reducible apply runOn_kept
    | with_reducible apply Kept.ite
    | intro _
    | split
    | with_reducible refine Kept.mk ?_ rfl rfl rfl rfl rfl rfl rfl rfl rfl rfl rfl rfl)

theorem execPkeEndv_kept {g0 : State} (engine : Nat) (c : PkeCmd) (s : State) (hk : Kept g0 s) :
    Kept g0 (stateOf s (execPkeEndv engine c s)) := by
  simp only [execPkeEndv]
  iterate 16 (try any_goals first
    | with_reducible exact hk
    | with_reducible refine onMain_kept _ _ hk ?_
    | with_reducible apply stateOf_kept
    | with_reducible apply stateOf_ite_kept
    | with_reducible apply engineFault_kept
    | with_reducible apply endValidation_kept
    | with_reducible apply Kept.ite
    | intro _
    | split
    | with_reducible refine Kept.mk ?_ rfl rfl rfl rfl rfl rfl rfl rfl rfl rfl rfl rfl)

theorem execPkeRepeat_kept {g0 : State} (engine : Nat) (c : PkeCmd) (s : State) (hk : Kept g0 s) :
    Kept g0 (stateOf s (execPkeRepeat engine c s)) := by
  simp only [execPkeRepeat]
  iterate 16 (try any_goals first
    | with_reducible exact hk
    | with_reducible refine onMain_kept _ _ hk ?_
    | with_reducible apply stateOf_kept
    | with_reducible apply stateOf_ite_kept
    | with_reducible apply State.setEngine_kept
    | with_reducible apply engineFault_kept
    | with_reducible apply Kept.ite
    | intro _
    | split
    | with_reducible refine Kept.mk ?_ rfl rfl rfl rfl rfl rfl rfl rfl rfl rfl rfl rfl)

theorem execPkeEnd_kept {g0 : State} (engine : Nat) (c : PkeCmd) (s : State) (hk : Kept g0 s) :
    Kept g0 (stateOf s (execPkeEnd engine c s)) := by
  simp only [execPkeEnd]
  iterate 16 (try any_goals first
    | with_reducible exact hk
    | with_reducible refine onMain_kept _ _ hk ?_
    | with_reducible apply stateOf_kept
    | with_reducible apply stateOf_ite_kept
    | with_reducible apply State.setEngine_kept
    | with_reducible apply engineFault_kept
    | with_reducible apply squareBlind_kept
    | with_reducible apply Kept.ite
    | intro _
    | split
    | with_reducible refine Kept.mk ?_ rfl rfl rfl rfl rfl rfl rfl rfl rfl rfl rfl rfl)

end Sys2Proof.Machine
end

