-- ==== Sys2Proof/Laws/StepsPlan.lean ====
section
/-! SUPPORT. What each meaning of Machine/Plan.lean keeps (Laws/Kept.lean), once for each command. -/

namespace Sys2Proof.Machine

theorem execPlanLoad_kept {g0 : State} (q : Call) (length : Nat) (image : Option PlanImage) (s : State) (hk : Kept g0 s) :
    Kept g0 (stateOf s (execPlanLoad q length image s)) := by
  simp only [execPlanLoad, stateOf_next]
  generalize ((s.func q.f).dpCtx.isSome && (s.func q.f).dpCtx == s.ctxIdFor q) = own
  have h0 : Kept g0 (if own && image.isSome && decide (1 ≤ s.level) && !staged q s then leaveLoading q.f 0 s else s) :=
    Kept.ite (leaveLoading_kept _ _ _ hk) hk
  generalize (if own && image.isSome && decide (1 ≤ s.level) && !staged q s then leaveLoading q.f 0 s else s) = r at h0 ⊢
  refine runOp_kept _ _ _ _ _ h0 ?_
  split
  · exact h0
  · refine after_ite_kept _ _ _ h0 ?_
    split
    · exact beginLoad_kept _ _ _ _ h0
    · refine after_ite_kept _ _ _ (endLoad_kept _ _ _ _ _ h0) ?_
      have hb := beginLoad_kept q.f ‹Partition› own r h0
      split
      · rename_i s1 h2
        rw [h2] at hb
        simp only [after_running] at hb
        split
        · exact hb
        · refine after_ite_kept _ _ _ ?_ hb
          rw [endLoad_after _ _ _ _ _ s1]
          exact endLoad_kept _ _ _ _ _ hb
      · exact hb

theorem execPlanActivate_kept {g0 : State} (q : Call) (second : Nat) (rate : Nat) (slot : Nat) (s : State) (hk : Kept g0 s) :
    Kept g0 (stateOf s (execPlanActivate q second rate slot s)) := by
  simp only [execPlanActivate]
  iterate 16 (try any_goals first
    | with_reducible exact hk
    | with_reducible apply stateOf_kept
    | with_reducible refine runOp_kept _ _ _ _ _ hk ?_
    | with_reducible apply stateOf_ite_kept
    | with_reducible apply after_ite_kept
    | with_reducible apply after_done_kept
    | with_reducible apply after_running_kept
    | with_reducible apply armPlan_kept
    | with_reducible apply Kept.ite
    | intro _
    | split
    | with_reducible refine Kept.mk ?_ rfl rfl rfl rfl rfl rfl rfl rfl rfl rfl rfl rfl)

theorem execPlanRollback_kept {g0 : State} (q : Call) (second : Nat) (rate : Nat) (slot : Nat) (s : State) (hk : Kept g0 s) :
    Kept g0 (stateOf s (execPlanRollback q second rate slot s)) := by
  simp only [execPlanRollback]
  iterate 16 (try any_goals first
    | with_reducible exact hk
    | with_reducible apply stateOf_kept
    | with_reducible refine runOp_kept _ _ _ _ _ hk ?_
    | with_reducible apply stateOf_ite_kept
    | with_reducible apply after_ite_kept
    | with_reducible apply after_done_kept
    | with_reducible apply after_running_kept
    | with_reducible apply armPlan_kept
    | with_reducible apply Kept.ite
    | intro _
    | split
    | with_reducible refine Kept.mk ?_ rfl rfl rfl rfl rfl rfl rfl rfl rfl rfl rfl rfl)

theorem execPlanCancel_kept {g0 : State} (q : Call) (s : State) (hk : Kept g0 s) :
    Kept g0 (stateOf s (execPlanCancel q s)) := by
  simp only [execPlanCancel]
  iterate 16 (try any_goals first
    | with_reducible exact hk
    | with_reducible apply stateOf_kept
    | with_reducible refine runOp_kept _ _ _ _ _ hk ?_
    | with_reducible apply stateOf_ite_kept
    | with_reducible apply after_ite_kept
    | with_reducible apply after_done_kept
    | with_reducible apply after_running_kept
    | with_reducible apply moveStandby_kept
    | with_reducible apply Kept.ite
    | intro _
    | split
    | with_reducible refine Kept.mk ?_ rfl rfl rfl rfl rfl rfl rfl rfl rfl rfl rfl rfl)

theorem execPlanRead_kept {g0 : State} (q : Call) (copy : Nat) (s : State) (hk : Kept g0 s) :
    Kept g0 (stateOf s (execPlanRead q copy s)) := by
  simp only [execPlanRead]
  iterate 16 (try any_goals first
    | with_reducible exact hk
    | with_reducible apply stateOf_kept
    | with_reducible refine runOp_kept _ _ _ _ _ hk ?_
    | with_reducible apply stateOf_ite_kept
    | with_reducible apply after_ite_kept
    | with_reducible apply after_done_kept
    | with_reducible apply after_running_kept
    | with_reducible apply offerBytes_kept
    | with_reducible apply Kept.ite
    | intro _
    | split
    | with_reducible refine Kept.mk ?_ rfl rfl rfl rfl rfl rfl rfl rfl rfl rfl rfl rfl)

theorem execPartitionAssign_kept {g0 : State} (q : Call) (fn : Nat) (base : Nat) (size : Nat) (s : State) (hk : Kept g0 s) :
    Kept g0 (stateOf s (execPartitionAssign q fn base size s)) := by
  simp only [execPartitionAssign]
  iterate 16 (try any_goals first
    | with_reducible exact hk
    | with_reducible apply stateOf_kept
    | with_reducible refine runOp_kept _ _ _ _ _ hk ?_
    | with_reducible apply stateOf_ite_kept
    | with_reducible apply after_ite_kept
    | with_reducible apply after_done_kept
    | with_reducible apply after_running_kept
    | with_reducible apply planEvent_kept
    | with_reducible apply State.setPart_kept
    | with_reducible apply Kept.ite
    | intro _
    | split
    | with_reducible refine Kept.mk ?_ rfl rfl rfl rfl rfl rfl rfl rfl rfl rfl rfl rfl)

theorem execPartitionRelease_kept {g0 : State} (q : Call) (fn : Nat) (second : Nat) (s : State) (hk : Kept g0 s) :
    Kept g0 (stateOf s (execPartitionRelease q fn second s)) := by
  simp only [execPartitionRelease]
  iterate 16 (try any_goals first
    | with_reducible exact hk
    | with_reducible apply stateOf_kept
    | with_reducible refine runOp_kept _ _ _ _ _ hk ?_
    | with_reducible apply stateOf_ite_kept
    | with_reducible apply after_ite_kept
    | with_reducible apply after_done_kept
    | with_reducible apply after_running_kept
    | with_reducible apply planEvent_kept
    | with_reducible apply State.setPart_kept
    | with_reducible apply Kept.ite
    | intro _
    | split
    | with_reducible refine Kept.mk ?_ rfl rfl rfl rfl rfl rfl rfl rfl rfl rfl rfl rfl)

theorem execPartitionReleaseEffect_kept {g0 : State} (f : Nat) (s : State) (hk : Kept g0 s) :
    Kept g0 (stateOf s (execPartitionReleaseEffect f s)) := by
  simp only [execPartitionReleaseEffect]
  iterate 16 (try any_goals first
    | with_reducible exact hk
    | with_reducible refine onMain_kept _ _ hk ?_
    | with_reducible apply stateOf_kept
    | with_reducible apply stateOf_ite_kept
    | with_reducible apply releasePart_kept
    | with_reducible apply Kept.ite
    | intro _
    | split
    | with_reducible refine Kept.mk ?_ rfl rfl rfl rfl rfl rfl rfl rfl rfl rfl rfl rfl)

theorem execPlanSwitch_kept {g0 : State} (s : State) (hk : Kept g0 s) :
    Kept g0 (stateOf s (execPlanSwitch s)) := by
  simp only [execPlanSwitch]
  exact onMain_kept _ _ hk (stateOf_ite_kept _ _ _ hk
    (forParts_kept _ _ (fun f v r h => reachInstant_kept f v r h) _ _ hk))

theorem execDeferredSwitch_kept {g0 : State} (s : State) (hk : Kept g0 s) :
    Kept g0 (stateOf s (execDeferredSwitch s)) := by
  simp only [execDeferredSwitch]
  exact onMain_kept _ _ hk (stateOf_ite_kept _ _ _
    (forParts_kept _ _ (fun f v r h => swapPart_kept f _ v r h) _ _ hk) hk)

theorem execDrainEnd_kept {g0 : State} (f : Nat) (s : State) (hk : Kept g0 s) :
    Kept g0 (stateOf s (execDrainEnd f s)) := by
  simp only [execDrainEnd]
  iterate 16 (try any_goals first
    | with_reducible exact hk
    | with_reducible refine onMain_kept _ _ hk ?_
    | with_reducible apply stateOf_kept
    | with_reducible apply stateOf_ite_kept
    | with_reducible apply discardAll_kept
    | with_reducible apply drainRecords_kept
    | with_reducible apply endDrain_kept
    | with_reducible apply Kept.ite
    | intro _
    | split
    | with_reducible refine Kept.mk ?_ rfl rfl rfl rfl rfl rfl rfl rfl rfl rfl rfl rfl)

theorem execEntryReload_kept {g0 : State} (f : Nat) (entry : Nat) (standby : Bool) (ok : Bool) (s : State) (hk : Kept g0 s) :
    Kept g0 (stateOf s (execEntryReload f entry standby ok s)) := by
  simp only [execEntryReload]
  iterate 16 (try any_goals first
    | with_reducible exact hk
    | with_reducible refine onMain_kept _ _ hk ?_
    | with_reducible apply stateOf_kept
    | with_reducible apply stateOf_ite_kept
    | with_reducible apply stageRec_kept
    | with_reducible apply keyEdges_kept
    | with_reducible apply streamEvent_kept
    | with_reducible apply planEvent_kept
    | with_reducible apply State.setPart_kept
    | with_reducible apply entryBack_kept
    | with_reducible apply Kept.ite
    | intro _
    | split
    | with_reducible refine Kept.mk ?_ rfl rfl rfl rfl rfl rfl rfl rfl rfl rfl rfl rfl)

theorem execMatchStoreRebuild_kept {g0 : State} (entries : List (Nat × Bool)) (done : Bool) (s : State) (hk : Kept g0 s) :
    Kept g0 (stateOf s (execMatchStoreRebuild entries done s)) := by
  simp only [execMatchStoreRebuild]
  iterate 16 (try any_goals first
    | with_reducible exact hk
    | with_reducible refine onMain_kept _ _ hk ?_
    | with_reducible apply stateOf_kept
    | with_reducible apply stateOf_ite_kept
    | with_reducible apply keyEdges_kept
    | with_reducible apply rebuildEach_kept
    | with_reducible apply Kept.ite
    | intro _
    | split
    | with_reducible refine Kept.mk ?_ rfl rfl rfl rfl rfl rfl rfl rfl rfl rfl rfl rfl)

theorem execCounterRead_kept {g0 : State} (q : Call) (first : Nat) (count : Nat) (s : State) (hk : Kept g0 s) :
    Kept g0 (stateOf s (execCounterRead q first count s)) := by
  simp only [execCounterRead]
  iterate 16 (try any_goals first
    | with_reducible exact hk
    | with_reducible apply stateOf_kept
    | with_reducible refine runOp_kept _ _ _ _ _ hk ?_
    | with_reducible apply stateOf_ite_kept
    | with_reducible apply after_ite_kept
    | with_reducible apply after_done_kept
    | with_reducible apply after_running_kept
    | with_reducible apply Kept.ite
    | intro _
    | split
    | with_reducible refine Kept.mk ?_ rfl rfl rfl rfl rfl rfl rfl rfl rfl rfl rfl rfl)

theorem execCounterSnapshot_kept {g0 : State} (q : Call) (first : Nat) (count : Nat) (s : State) (hk : Kept g0 s) :
    Kept g0 (stateOf s (execCounterSnapshot q first count s)) := by
  simp only [execCounterSnapshot]
  iterate 16 (try any_goals first
    | with_reducible exact hk
    | with_reducible apply stateOf_kept
    | with_reducible refine runOp_kept _ _ _ _ _ hk ?_
    | with_reducible apply stateOf_ite_kept
    | with_reducible apply after_ite_kept
    | with_reducible apply after_done_kept
    | with_reducible apply after_running_kept
    | with_reducible apply snapshotAll_kept
    | with_reducible apply Kept.ite
    | intro _
    | split
    | with_reducible refine Kept.mk ?_ rfl rfl rfl rfl rfl rfl rfl rfl rfl rfl rfl rfl)

end Sys2Proof.Machine
end

