-- ==== Sys2Proof/Laws/StepsRegisters.lean ====
section
/-! SUPPORT. What each meaning of Machine/Registers.lean keeps (Laws/Kept.lean), once for each command. -/

namespace Sys2Proof.Machine

theorem execSplitRegisterRead_kept {g0 : State} (f : Nat) (offset : Nat) (len : Nat) (s : State) (hk : Kept g0 s) :
    Kept g0 (stateOf s (execSplitRegisterRead f offset len s)) := by
  simp only [execSplitRegisterRead]
  iterate 16 (try any_goals first
    | with_reducible exact hk
    | with_reducible refine viaBar_kept _ _ _ hk ?_
    | with_reducible apply stateOf_kept
    | with_reducible apply stateOf_ite_kept
    | with_reducible apply emit_kept
    | with_reducible apply barRead_kept
    | with_reducible apply Kept.ite
    | intro _
    | split
    | with_reducible refine Kept.mk ?_ rfl rfl rfl rfl rfl rfl rfl rfl rfl rfl rfl rfl)

theorem execRefPriorityWrite_kept {g0 : State} (value : Nat) (s : State) (hk : Kept g0 s) :
    Kept g0 (stateOf s (execRefPriorityWrite value s)) := by
  simp only [execRefPriorityWrite]
  iterate 16 (try any_goals first
    | with_reducible exact hk
    | with_reducible refine viaBar_kept _ _ _ hk ?_
    | with_reducible apply stateOf_kept
    | with_reducible apply stateOf_ite_kept
    | with_reducible apply writeSetting_kept
    | with_reducible apply Kept.ite
    | intro _
    | split
    | with_reducible refine Kept.mk ?_ rfl rfl rfl rfl rfl rfl rfl rfl rfl rfl rfl rfl)

theorem execPtpCfgWrite_kept {g0 : State} (value : Nat) (s : State) (hk : Kept g0 s) :
    Kept g0 (stateOf s (execPtpCfgWrite value s)) := by
  simp only [execPtpCfgWrite]
  iterate 16 (try any_goals first
    | with_reducible exact hk
    | with_reducible refine viaBar_kept _ _ _ hk ?_
    | with_reducible apply stateOf_kept
    | with_reducible apply stateOf_ite_kept
    | with_reducible apply writeSetting_kept
    | with_reducible apply Kept.ite
    | intro _
    | split
    | with_reducible refine Kept.mk ?_ rfl rfl rfl rfl rfl rfl rfl rfl rfl rfl rfl rfl)

theorem execTenMhzCfgWrite_kept {g0 : State} (value : Nat) (s : State) (hk : Kept g0 s) :
    Kept g0 (stateOf s (execTenMhzCfgWrite value s)) := by
  simp only [execTenMhzCfgWrite]
  iterate 16 (try any_goals first
    | with_reducible exact hk
    | with_reducible refine viaBar_kept _ _ _ hk ?_
    | with_reducible apply stateOf_kept
    | with_reducible apply stateOf_ite_kept
    | with_reducible apply writeSetting_kept
    | with_reducible apply Kept.ite
    | intro _
    | split
    | with_reducible refine Kept.mk ?_ rfl rfl rfl rfl rfl rfl rfl rfl rfl rfl rfl rfl)

theorem execRefChannelWrite_kept {g0 : State} (value : Nat) (s : State) (hk : Kept g0 s) :
    Kept g0 (stateOf s (execRefChannelWrite value s)) := by
  simp only [execRefChannelWrite]
  iterate 16 (try any_goals first
    | with_reducible exact hk
    | with_reducible refine viaBar_kept _ _ _ hk ?_
    | with_reducible apply stateOf_kept
    | with_reducible apply stateOf_ite_kept
    | with_reducible apply writeSetting_kept
    | with_reducible apply Kept.ite
    | intro _
    | split
    | with_reducible refine Kept.mk ?_ rfl rfl rfl rfl rfl rfl rfl rfl rfl rfl rfl rfl)

theorem execRingZonesWrite_kept {g0 : State} (value : Nat) (s : State) (hk : Kept g0 s) :
    Kept g0 (stateOf s (execRingZonesWrite value s)) := by
  simp only [execRingZonesWrite]
  iterate 16 (try any_goals first
    | with_reducible exact hk
    | with_reducible refine viaBar_kept _ _ _ hk ?_
    | with_reducible apply stateOf_kept
    | with_reducible apply stateOf_ite_kept
    | with_reducible apply writeRingZones_kept
    | with_reducible apply Kept.ite
    | intro _
    | split
    | with_reducible refine Kept.mk ?_ rfl rfl rfl rfl rfl rfl rfl rfl rfl rfl rfl rfl)

theorem execLoopCfgWrite_kept {g0 : State} (loop : Nat) (value : Nat) (s : State) (hk : Kept g0 s) :
    Kept g0 (stateOf s (execLoopCfgWrite loop value s)) := by
  simp only [execLoopCfgWrite]
  iterate 16 (try any_goals first
    | with_reducible exact hk
    | with_reducible refine viaBar_kept _ _ _ hk ?_
    | with_reducible apply stateOf_kept
    | with_reducible apply stateOf_ite_kept
    | with_reducible apply writeLoopCfg_kept
    | with_reducible apply Kept.ite
    | intro _
    | split
    | with_reducible refine Kept.mk ?_ rfl rfl rfl rfl rfl rfl rfl rfl rfl rfl rfl rfl)

theorem execSettingStore_kept {g0 : State} (s : State) (hk : Kept g0 s) :
    Kept g0 (stateOf s (execSettingStore s)) := by
  simp only [execSettingStore]
  iterate 16 (try any_goals first
    | with_reducible exact hk
    | with_reducible refine onMain_kept _ _ hk ?_
    | with_reducible apply stateOf_kept
    | with_reducible apply stateOf_ite_kept
    | with_reducible apply storeValue_kept
    | with_reducible apply Kept.ite
    | intro _
    | split
    | with_reducible refine Kept.mk ?_ rfl rfl rfl rfl rfl rfl rfl rfl rfl rfl rfl rfl)

theorem execRegisterWrite_kept {g0 : State} (f : Nat) (offset : Nat) (len : Nat) (value : Nat) (i : StartIn) (s : State) (hk : Kept g0 s) :
    Kept g0 (stateOf s (execRegisterWrite f offset len value i s)) := by
  simp only [execRegisterWrite]
  iterate 16 (try any_goals first
    | with_reducible exact hk
    | with_reducible refine viaBar_kept _ _ _ hk ?_
    | with_reducible apply stateOf_kept
    | with_reducible apply stateOf_ite_kept
    | with_reducible apply write4_kept
    | with_reducible apply Kept.ite
    | intro _
    | split
    | with_reducible refine Kept.mk ?_ rfl rfl rfl rfl rfl rfl rfl rfl rfl rfl rfl rfl)

end Sys2Proof.Machine
end

