-- ==== Sys2Proof/Laws/StepsRing.lean ====
section
/-! SUPPORT. What each meaning of Machine/Ring.lean keeps (Laws/Kept.lean), once for each command. -/

namespace Sys2Proof.Machine

theorem execDoorbellWrite_kept {g0 : State} (f : Nat) (ring : Nat) (value : Nat) (s : State) (hk : Kept g0 s) :
    Kept g0 (stateOf s (execDoorbellWrite f ring value s)) := by
  simp only [execDoorbellWrite]
  iterate 16 (try any_goals first
    | with_reducible exact hk
    | with_reducible refine viaBar_kept _ _ _ hk ?_
    | with_reducible apply stateOf_kept
    | with_reducible apply stateOf_ite_kept
    | with_reducible apply State.setRing_kept
    | with_reducible apply halt_kept
    | with_reducible apply Kept.ite
    | intro _
    | split
    | with_reducible refine Kept.mk ?_ rfl rfl rfl rfl rfl rfl rfl rfl rfl rfl rfl rfl)

theorem execArbitrationRound_kept {g0 : State} (mem : HostMem) (s : State) (hk : Kept g0 s) :
    Kept g0 (stateOf s (execArbitrationRound mem s)) := by
  simp only [execArbitrationRound]
  iterate 16 (try any_goals first
    | with_reducible exact hk
    | with_reducible refine onMain_kept _ _ hk ?_
    | with_reducible apply stateOf_kept
    | with_reducible apply stateOf_ite_kept
    | with_reducible apply arbLoop_kept
    | with_reducible apply giveTokens_kept
    | with_reducible apply Kept.ite
    | intro _
    | split
    | with_reducible refine Kept.mk ?_ rfl rfl rfl rfl rfl rfl rfl rfl rfl rfl rfl rfl)

theorem execPad_kept {g0 : State} (f : Nat) (ring : Nat) (len : Nat) (s : State) (hk : Kept g0 s) :
    Kept g0 (stateOf s (execPad f ring len s)) := by
  simp only [execPad]
  iterate 16 (try any_goals first
    | with_reducible exact hk
    | with_reducible refine onMain_kept _ _ hk ?_
    | with_reducible apply stateOf_kept
    | with_reducible apply stateOf_ite_kept
    | with_reducible apply passPad_kept
    | with_reducible apply Kept.ite
    | intro _
    | split
    | with_reducible refine Kept.mk ?_ rfl rfl rfl rfl rfl rfl rfl rfl rfl rfl rfl rfl)

theorem execHeadAdvance_kept {g0 : State} (f : Nat) (ring : Nat) (s : State) (hk : Kept g0 s) :
    Kept g0 (stateOf s (execHeadAdvance f ring s)) := by
  simp only [execHeadAdvance]
  iterate 16 (try any_goals first
    | with_reducible exact hk
    | with_reducible refine onMain_kept _ _ hk ?_
    | with_reducible apply stateOf_kept
    | with_reducible apply stateOf_ite_kept
    | with_reducible apply sendVector_kept
    | with_reducible apply State.setRing_kept
    | with_reducible apply writeMirror_kept
    | with_reducible apply Kept.ite
    | intro _
    | split
    | with_reducible refine Kept.mk ?_ rfl rfl rfl rfl rfl rfl rfl rfl rfl rfl rfl rfl)

theorem execModerationTimer_kept {g0 : State} (f : Nat) (ring : Nat) (s : State) (hk : Kept g0 s) :
    Kept g0 (stateOf s (execModerationTimer f ring s)) := by
  simp only [execModerationTimer]
  iterate 16 (try any_goals first
    | with_reducible exact hk
    | with_reducible refine onMain_kept _ _ hk ?_
    | with_reducible apply stateOf_kept
    | with_reducible apply stateOf_ite_kept
    | with_reducible apply sendVector_kept
    | with_reducible apply State.setRing_kept
    | with_reducible apply Kept.ite
    | intro _
    | split
    | with_reducible refine Kept.mk ?_ rfl rfl rfl rfl rfl rfl rfl rfl rfl rfl rfl rfl)

theorem execCompleteByExpiry_kept {g0 : State} (ctx : Nat) (s : State) (hk : Kept g0 s) :
    Kept g0 (stateOf s (execCompleteByExpiry ctx s)) := by
  simp only [execCompleteByExpiry]
  iterate 16 (try any_goals first
    | with_reducible exact hk
    | with_reducible refine onMain_kept _ _ hk ?_
    | with_reducible apply stateOf_kept
    | with_reducible apply stateOf_ite_kept
    | with_reducible apply finishCtx_kept
    | with_reducible apply dropCtxItems_kept
    | with_reducible apply Kept.ite
    | intro _
    | split
    | with_reducible refine Kept.mk ?_ rfl rfl rfl rfl rfl rfl rfl rfl rfl rfl rfl rfl)

theorem execRingEnable_kept {g0 : State} (f : Nat) (ring : Nat) (cfg : Nat) (s : State) (hk : Kept g0 s) :
    Kept g0 (stateOf s (execRingEnable f ring cfg s)) := by
  simp only [execRingEnable]
  iterate 16 (try any_goals first
    | with_reducible exact hk
    | with_reducible refine viaBar_kept _ _ _ hk ?_
    | with_reducible apply stateOf_kept
    | with_reducible apply stateOf_ite_kept
    | with_reducible apply State.setRing_kept
    | with_reducible apply writeMirror_kept
    | with_reducible apply Kept.ite
    | intro _
    | split
    | with_reducible refine Kept.mk ?_ rfl rfl rfl rfl rfl rfl rfl rfl rfl rfl rfl rfl)

theorem execRingDrain_kept {g0 : State} (f : Nat) (ring : Nat) (s : State) (hk : Kept g0 s) :
    Kept g0 (stateOf s (execRingDrain f ring s)) := by
  simp only [execRingDrain]
  iterate 16 (try any_goals first
    | with_reducible exact hk
    | with_reducible refine viaBar_kept _ _ _ hk ?_
    | with_reducible apply stateOf_kept
    | with_reducible apply stateOf_ite_kept
    | with_reducible apply State.setRing_kept
    | with_reducible apply writeMirror_kept
    | with_reducible apply finishWhere_kept
    | with_reducible apply Kept.ite
    | intro _
    | split
    | with_reducible refine Kept.mk ?_ rfl rfl rfl rfl rfl rfl rfl rfl rfl rfl rfl rfl)

theorem execRingInactive_kept {g0 : State} (f : Nat) (ring : Nat) (s : State) (hk : Kept g0 s) :
    Kept g0 (stateOf s (execRingInactive f ring s)) := by
  simp only [execRingInactive]
  iterate 16 (try any_goals first
    | with_reducible exact hk
    | with_reducible refine onMain_kept _ _ hk ?_
    | with_reducible apply stateOf_kept
    | with_reducible apply stateOf_ite_kept
    | with_reducible apply State.setRing_kept
    | with_reducible apply writeMirror_kept
    | with_reducible apply Kept.ite
    | intro _
    | split
    | with_reducible refine Kept.mk ?_ rfl rfl rfl rfl rfl rfl rfl rfl rfl rfl rfl rfl)

theorem execDataPortOpen_kept {g0 : State} (f : Nat) (out : Option Nat) (s : State) (hk : Kept g0 s) :
    Kept g0 (stateOf s (execDataPortOpen f out s)) := by
  simp only [execDataPortOpen]
  iterate 16 (try any_goals first
    | with_reducible exact hk
    | with_reducible refine onMain_kept _ _ hk ?_
    | with_reducible apply stateOf_kept
    | with_reducible apply stateOf_ite_kept
    | with_reducible apply State.updFunc_kept
    | with_reducible apply State.setCtx_kept
    | with_reducible apply Kept.ite
    | intro _
    | split
    | with_reducible refine Kept.mk ?_ rfl rfl rfl rfl rfl rfl rfl rfl rfl rfl rfl rfl)

theorem execDataPortWrite_kept {g0 : State} (f : Nat) (offset : Nat) (bytes : Bytes) (s : State) (hk : Kept g0 s) :
    Kept g0 (stateOf s (execDataPortWrite f offset bytes s)) := by
  simp only [execDataPortWrite]
  iterate 16 (try any_goals first
    | with_reducible exact hk
    | with_reducible refine viaBar_kept _ _ _ hk ?_
    | with_reducible apply stateOf_kept
    | with_reducible apply stateOf_ite_kept
    | with_reducible apply State.setFunc_kept
    | with_reducible apply abortPort_kept
    | with_reducible apply completePort_kept
    | with_reducible apply Kept.ite
    | intro _
    | split
    | with_reducible refine Kept.mk ?_ rfl rfl rfl rfl rfl rfl rfl rfl rfl rfl rfl rfl)

theorem execDataPortRead_kept {g0 : State} (f : Nat) (offset : Nat) (len : Nat) (s : State) (hk : Kept g0 s) :
    Kept g0 (stateOf s (execDataPortRead f offset len s)) := by
  simp only [execDataPortRead]
  iterate 16 (try any_goals first
    | with_reducible exact hk
    | with_reducible refine viaBar_kept _ _ _ hk ?_
    | with_reducible apply stateOf_kept
    | with_reducible apply stateOf_ite_kept
    | with_reducible apply emit_kept
    | with_reducible apply State.setFunc_kept
    | with_reducible apply completePort_kept
    | with_reducible apply Kept.ite
    | intro _
    | split
    | with_reducible refine Kept.mk ?_ rfl rfl rfl rfl rfl rfl rfl rfl rfl rfl rfl rfl)

theorem execDataPortAbort_kept {g0 : State} (f : Nat) (s : State) (hk : Kept g0 s) :
    Kept g0 (stateOf s (execDataPortAbort f s)) := by
  simp only [execDataPortAbort]
  iterate 16 (try any_goals first
    | with_reducible exact hk
    | with_reducible refine viaBar_kept _ _ _ hk ?_
    | with_reducible apply stateOf_kept
    | with_reducible apply stateOf_ite_kept
    | with_reducible apply abortPort_kept
    | with_reducible apply Kept.ite
    | intro _
    | split
    | with_reducible refine Kept.mk ?_ rfl rfl rfl rfl rfl rfl rfl rfl rfl rfl rfl rfl)

theorem execDataPortTimeout_kept {g0 : State} (f : Nat) (s : State) (hk : Kept g0 s) :
    Kept g0 (stateOf s (execDataPortTimeout f s)) := by
  simp only [execDataPortTimeout]
  iterate 16 (try any_goals first
    | with_reducible exact hk
    | with_reducible refine onMain_kept _ _ hk ?_
    | with_reducible apply stateOf_kept
    | with_reducible apply stateOf_ite_kept
    | with_reducible apply abortPort_kept
    | with_reducible apply Kept.ite
    | intro _
    | split
    | with_reducible refine Kept.mk ?_ rfl rfl rfl rfl rfl rfl rfl rfl rfl rfl rfl rfl)

theorem execBusMasterEnableSet_kept {g0 : State} (f : Nat) (s : State) (hk : Kept g0 s) :
    Kept g0 (stateOf s (execBusMasterEnableSet f s)) := by
  simp only [execBusMasterEnableSet]
  iterate 16 (try any_goals first
    | with_reducible exact hk
    | with_reducible refine onMain_kept _ _ hk ?_
    | with_reducible apply stateOf_kept
    | with_reducible apply stateOf_ite_kept
    | with_reducible apply State.updFunc_kept
    | with_reducible apply flushHeld_kept
    | with_reducible apply Kept.ite
    | intro _
    | split
    | with_reducible refine Kept.mk ?_ rfl rfl rfl rfl rfl rfl rfl rfl rfl rfl rfl rfl)

theorem execBusMasterEnableClear_kept {g0 : State} (f : Nat) (s : State) (hk : Kept g0 s) :
    Kept g0 (stateOf s (execBusMasterEnableClear f s)) := by
  simp only [execBusMasterEnableClear]
  iterate 16 (try any_goals first
    | with_reducible exact hk
    | with_reducible refine onMain_kept _ _ hk ?_
    | with_reducible apply stateOf_kept
    | with_reducible apply stateOf_ite_kept
    | with_reducible apply State.updFunc_kept
    | with_reducible apply Kept.ite
    | intro _
    | split
    | with_reducible refine Kept.mk ?_ rfl rfl rfl rfl rfl rfl rfl rfl rfl rfl rfl rfl)

theorem execD3hotTransition_kept {g0 : State} (f : Nat) (enter : Bool) (s : State) (hk : Kept g0 s) :
    Kept g0 (stateOf s (execD3hotTransition f enter s)) := by
  simp only [execD3hotTransition]
  iterate 16 (try any_goals first
    | with_reducible exact hk
    | with_reducible refine onMain_kept _ _ hk ?_
    | with_reducible apply stateOf_kept
    | with_reducible apply stateOf_ite_kept
    | with_reducible apply State.updFunc_kept
    | with_reducible apply flushHeld_kept
    | with_reducible apply Kept.ite
    | intro _
    | split
    | with_reducible refine Kept.mk ?_ rfl rfl rfl rfl rfl rfl rfl rfl rfl rfl rfl rfl)

theorem execMsixUnmask_kept {g0 : State} (f : Nat) (vector : Option Nat) (s : State) (hk : Kept g0 s) :
    Kept g0 (stateOf s (execMsixUnmask f vector s)) := by
  simp only [execMsixUnmask]
  iterate 16 (try any_goals first
    | with_reducible exact hk
    | with_reducible refine onMain_kept _ _ hk ?_
    | with_reducible apply stateOf_kept
    | with_reducible apply stateOf_ite_kept
    | with_reducible apply State.updFunc_kept
    | with_reducible apply sendPending_kept
    | with_reducible apply sendAllPending_kept
    | with_reducible apply Kept.ite
    | intro _
    | split
    | with_reducible refine Kept.mk ?_ rfl rfl rfl rfl rfl rfl rfl rfl rfl rfl rfl rfl)

end Sys2Proof.Machine
end

