-- ==== Sys2Proof/Laws/StepsSymOps.lean ====
section
/-! SUPPORT. What each meaning of Machine/SymOps.lean keeps (Laws/Kept.lean), once for each command. -/

namespace Sys2Proof.Machine

theorem execHash_kept {g0 : State} (q : Call) (alg : Nat) (input : Bytes) (s : State) (hk : Kept g0 s) :
    Kept g0 (stateOf s (execHash q alg input s)) := by
  simp only [execHash]
  iterate 16 (try any_goals first
    | with_reducible exact hk
    | with_reducible apply stateOf_kept
    | with_reducible refine runOp_kept _ _ _ _ _ hk ?_
    | with_reducible apply stateOf_ite_kept
    | with_reducible apply after_ite_kept
    | with_reducible apply after_done_kept
    | with_reducible apply after_running_kept
    | with_reducible apply Kept.ite
    | intro _
    | split
    | with_reducible refine Kept.mk ?_ rfl rfl rfl rfl rfl rfl rfl rfl rfl rfl rfl rfl)

theorem execMacGenerate_kept {g0 : State} (q : Call) (handle : Nat) (alg : Nat) (tagLen : Nat) (iv : Nat) (input : Bytes) (s : State) (hk : Kept g0 s) :
    Kept g0 (stateOf s (execMacGenerate q handle alg tagLen iv input s)) := by
  simp only [execMacGenerate]
  iterate 16 (try any_goals first
    | with_reducible exact hk
    | with_reducible apply stateOf_kept
    | with_reducible refine runOp_kept _ _ _ _ _ hk ?_
    | with_reducible apply stateOf_ite_kept
    | with_reducible apply after_ite_kept
    | with_reducible apply after_done_kept
    | with_reducible apply after_running_kept
    | with_reducible refine withKey_kept _ _ _ _ _ _ _ hk hk ?_
    | with_reducible apply Kept.ite
    | intro _
    | split
    | with_reducible refine Kept.mk ?_ rfl rfl rfl rfl rfl rfl rfl rfl rfl rfl rfl rfl)

theorem execMacVerify_kept {g0 : State} (q : Call) (handle : Nat) (alg : Nat) (tagLen : Nat) (iv : Nat) (tag : Bytes) (input : Bytes) (s : State) (hk : Kept g0 s) :
    Kept g0 (stateOf s (execMacVerify q handle alg tagLen iv tag input s)) := by
  simp only [execMacVerify]
  iterate 16 (try any_goals first
    | with_reducible exact hk
    | with_reducible apply stateOf_kept
    | with_reducible refine runOp_kept _ _ _ _ _ hk ?_
    | with_reducible apply stateOf_ite_kept
    | with_reducible apply after_ite_kept
    | with_reducible apply after_done_kept
    | with_reducible apply after_running_kept
    | with_reducible refine withKey_kept _ _ _ _ _ _ _ hk hk ?_
    | with_reducible apply Kept.ite
    | intro _
    | split
    | with_reducible refine Kept.mk ?_ rfl rfl rfl rfl rfl rfl rfl rfl rfl rfl rfl rfl)

theorem execAeadEncrypt_kept {g0 : State} (q : Call) (handle : Nat) (tagLen : Nat) (genIv : Bool) (iv : Nat) (aadLen : Nat) (input : Bytes) (s : State) (hk : Kept g0 s) :
    Kept g0 (stateOf s (execAeadEncrypt q handle tagLen genIv iv aadLen input s)) := by
  simp only [execAeadEncrypt]
  iterate 16 (try any_goals first
    | with_reducible exact hk
    | with_reducible apply stateOf_kept
    | with_reducible refine runOp_kept _ _ _ _ _ hk ?_
    | with_reducible apply stateOf_ite_kept
    | with_reducible apply after_ite_kept
    | with_reducible apply after_done_kept
    | with_reducible apply after_running_kept
    | with_reducible refine withDraw_kept _ _ _ _ hk hk ?_
    | with_reducible refine withKey_kept _ _ _ _ _ _ _ hk hk ?_
    | with_reducible apply draw_kept
    | with_reducible apply Kept.ite
    | intro _
    | split
    | with_reducible refine Kept.mk ?_ rfl rfl rfl rfl rfl rfl rfl rfl rfl rfl rfl rfl)

theorem execAeadDecrypt_kept {g0 : State} (q : Call) (handle : Nat) (tagLen : Nat) (genIv : Bool) (iv : Nat) (aadLen : Nat) (input : Bytes) (s : State) (hk : Kept g0 s) :
    Kept g0 (stateOf s (execAeadDecrypt q handle tagLen genIv iv aadLen input s)) := by
  simp only [execAeadDecrypt]
  iterate 16 (try any_goals first
    | with_reducible exact hk
    | with_reducible apply stateOf_kept
    | with_reducible refine runOp_kept _ _ _ _ _ hk ?_
    | with_reducible apply stateOf_ite_kept
    | with_reducible apply after_ite_kept
    | with_reducible apply after_done_kept
    | with_reducible apply after_running_kept
    | with_reducible refine withKey_kept _ _ _ _ _ _ _ hk hk ?_
    | with_reducible apply Kept.ite
    | intro _
    | split
    | with_reducible refine Kept.mk ?_ rfl rfl rfl rfl rfl rfl rfl rfl rfl rfl rfl rfl)

theorem execTlsOpen_kept {g0 : State} (q : Call) (handle : Nat) (role : Nat) (versions : Nat) (requirePeer : Bool) (cert : Bytes) (s : State) (hk : Kept g0 s) :
    Kept g0 (stateOf s (execTlsOpen q handle role versions requirePeer cert s)) := by
  simp only [execTlsOpen]
  refine stateOf_kept _ _ (runOp_kept _ _ _ _ _ hk ?_)
  refine withOwnKey_kept _ _ _ _ _ _ hk hk (after_ite_kept _ _ _ hk ?_)
  split
  · exact hk
  · rename_i h
    refine State.setSession_kept _ _ _ (freshValue_kept _ hk) fun a b => ?_
    have h1 := Tbl.put_length (sessionNumber s.tls.sessions ((freshValue s).1.toNat % 2 ^ 32))
      ({ f := q.f, key := handle, server := role == 1, versions, requirePeer, ownCert := cert } : TlsSession) s.tls.sessions
    have h2 : ¬ maxSessions ≤ s.tls.sessions.length := fun h3 => h (Or.inl h3)
    simp only [maxSessions] at h2
    exact Nat.le_trans h1 (by omega)

theorem execTlsHandshake_kept {g0 : State} (q : Call) (session : Nat) (x : TlsStep) (s : State) (hk : Kept g0 s) :
    Kept g0 (stateOf s (execTlsHandshake q session x s)) := by
  have h1 : ∀ (v : TlsSession) (x : State), openSession s q.f session = some v → x.tls = s.tls → Tbl.wf x.tls.sessions = true →
      x.tls.sessions.length ≤ 8192 → ∀ w : TlsSession, (Tbl.put session w x.tls.sessions).length ≤ 8192 := fun v x e t a b w => by
    rw [Tbl.put_length_of_find? _ _ _ a]
    · exact b
    · rw [t]
      simp only [openSession] at e
      split at e
      · rename_i h
        simp [h]
      · cases e
  have h2 : ∀ (v : TlsSession) (r : TlsSession × State) (n : Nat), openSession s q.f session = some v → Kept g0 r.2 → r.2.tls = s.tls →
      Kept g0 ((freshBytes n r.2).2.setSession session r.1) := fun v r n e h t =>
    State.setSession_kept _ _ _ (freshBytes_kept _ _ h) fun a b => h1 _ _ e (by simp [t]) a b _
  have h3 : ∀ (c : Prop) [Decidable c] (a b : TlsSession × State), Kept g0 a.2 → Kept g0 b.2 → Kept g0 (if c then a else b).2 :=
    fun c _ a b ha hb => by
      split
      · exact ha
      · exact hb
  have h4 : ∀ (c : Prop) [Decidable c] (a b : TlsSession × State), a.2.tls = s.tls → b.2.tls = s.tls →
      (if c then a else b).2.tls = s.tls := fun c _ a b ha hb => by
    split
    · exact ha
    · exact hb
  simp only [execTlsHandshake]
  refine stateOf_kept _ _ (runOp_kept _ _ _ _ _ hk (inTurn_kept _ _ _ _ _ hk ?_))
  split
  · exact hk
  · rename_i v hv
    have hd := drawOwn_kept _ hk
    refine withOwnKey_kept _ _ _ _ _ _ hk hk (withDraw_kept _ _ _ _ hk hk (after_ite_kept _ _ _ ?_ ?_))
    · exact State.setSession_kept _ _ _ hd fun a b => h1 _ _ hv (by simp) a b _
    · refine after_done_kept _ _ _ (h2 v _ _ hv ?_ ?_)
      · exact h3 _ _ _ (deriveTraffic_kept _ _ _ hd) hd
      · exact h4 _ _ _ (by simp) (by simp)

theorem execTlsSeal_kept {g0 : State} (q : Call) (session : Nat) (typ : Nat) (input : Bytes) (s : State) (hk : Kept g0 s) :
    Kept g0 (stateOf s (execTlsSeal q session typ input s)) := by
  have h1 : ∀ (v : TlsSession) (x : State), openSession s q.f session = some v → x.tls = s.tls → Tbl.wf x.tls.sessions = true →
      x.tls.sessions.length ≤ 8192 → ∀ w : TlsSession, (Tbl.put session w x.tls.sessions).length ≤ 8192 := fun v x e t a b w => by
    rw [Tbl.put_length_of_find? _ _ _ a]
    · exact b
    · rw [t]
      simp only [openSession] at e
      split at e
      · rename_i h
        simp [h]
      · cases e
  simp only [execTlsSeal]
  refine stateOf_kept _ _ (runOp_kept _ _ _ _ _ hk (inTurn_kept _ _ _ _ _ hk ?_))
  split
  · exact hk
  · exact after_ite_kept _ _ _ hk (State.setSession_kept _ _ _ hk fun a b => h1 _ _ ‹_› rfl a b _)

theorem execTlsUnseal_kept {g0 : State} (q : Call) (session : Nat) (input : Bytes) (s : State) (hk : Kept g0 s) :
    Kept g0 (stateOf s (execTlsUnseal q session input s)) := by
  have h1 : ∀ (v : TlsSession) (x : State), openSession s q.f session = some v → x.tls = s.tls → Tbl.wf x.tls.sessions = true →
      x.tls.sessions.length ≤ 8192 → ∀ w : TlsSession, (Tbl.put session w x.tls.sessions).length ≤ 8192 := fun v x e t a b w => by
    rw [Tbl.put_length_of_find? _ _ _ a]
    · exact b
    · rw [t]
      simp only [openSession] at e
      split at e
      · rename_i h
        simp [h]
      · cases e
  simp only [execTlsUnseal]
  refine stateOf_kept _ _ (runOp_kept _ _ _ _ _ hk (inTurn_kept _ _ _ _ _ hk ?_))
  split
  · exact hk
  · refine after_ite_kept _ _ _ hk ?_
    split
    · exact State.setSession_kept _ _ _ hk fun a b => h1 _ _ ‹_› rfl a b _
    · exact State.setSession_kept _ _ _ hk fun a b => h1 _ _ ‹_› rfl a b _

theorem execTlsClose_kept {g0 : State} (q : Call) (session : Nat) (s : State) (hk : Kept g0 s) :
    Kept g0 (stateOf s (execTlsClose q session s)) := by
  simp only [execTlsClose]
  refine stateOf_kept _ _ (runOp_kept _ _ _ _ _ hk (inTurn_kept _ _ _ _ _ hk ?_))
  split
  · exact hk
  · exact after_ite_kept _ _ _ hk (Kept.sessions hk fun a b => ⟨Tbl.del_wf _ _ a, Nat.le_trans (Tbl.del_length _ _) b⟩)

theorem execTlsPeerCert_kept {g0 : State} (q : Call) (session : Nat) (s : State) (hk : Kept g0 s) :
    Kept g0 (stateOf s (execTlsPeerCert q session s)) := by
  simp only [execTlsPeerCert]
  refine stateOf_kept _ _ (runOp_kept _ _ _ _ _ hk (inTurn_kept _ _ _ _ _ hk ?_))
  split <;> exact hk

end Sys2Proof.Machine
end

