-- ==== Sys2Proof/Laws/StepsTamper.lean ====
section
/-! SUPPORT. What each meaning of Machine/Tamper.lean keeps (Laws/Kept.lean), once for each command. -/

namespace Sys2Proof.Machine

theorem execTamperAlarm_kept {g0 : State} (cause : Nat) (source : Nat) (data : Nat) (cycles : Nat) (s0 : State) (hk : Kept g0 s0) :
    Kept g0 (stateOf s0 (execTamperAlarm cause source data cycles s0)) := by
  simp only [execTamperAlarm]
  iterate 16 (try any_goals first
    | with_reducible exact hk
    | with_reducible apply stateOf_kept
    | with_reducible apply stateOf_ite_kept
    | with_reducible apply raiseAlarm_kept
    | with_reducible apply passRtc_kept
    | with_reducible apply standbyAlarm_kept
    | with_reducible apply noteLoop_kept
    | with_reducible apply Kept.ite
    | intro _
    | split
    | with_reducible refine Kept.mk ?_ rfl rfl rfl rfl rfl rfl rfl rfl rfl rfl rfl rfl)

theorem execSnowdropAlarm_kept {g0 : State} (cause : Nat) (source : Nat) (data : Nat) (cycles : Nat) (s0 : State) (hk : Kept g0 s0) :
    Kept g0 (stateOf s0 (execSnowdropAlarm cause source data cycles s0)) := by
  simp only [execSnowdropAlarm]
  iterate 16 (try any_goals first
    | with_reducible exact hk
    | with_reducible apply stateOf_kept
    | with_reducible apply stateOf_ite_kept
    | with_reducible apply passRtc_kept
    | with_reducible apply snowdropAlarm_kept
    | with_reducible apply Kept.ite
    | intro _
    | split
    | with_reducible refine Kept.mk ?_ rfl rfl rfl rfl rfl rfl rfl rfl rfl rfl rfl rfl)

theorem execAlarmConditionAbsent_kept {g0 : State} (cause : Nat) (source : Nat) (s0 : State) (hk : Kept g0 s0) :
    Kept g0 (stateOf s0 (execAlarmConditionAbsent cause source s0)) := by
  simp only [execAlarmConditionAbsent]
  iterate 16 (try any_goals first
    | with_reducible exact hk
    | with_reducible apply stateOf_kept
    | with_reducible apply stateOf_ite_kept
    | with_reducible apply noteLoop_kept
    | with_reducible apply Kept.ite
    | intro _
    | split
    | with_reducible refine Kept.mk ?_ rfl rfl rfl rfl rfl rfl rfl rfl rfl rfl rfl rfl)

theorem execLightDisagreeTimeout_kept {g0 : State} (designB : Bool) (elements : Nat) (cycles : Nat) (s0 : State) (hk : Kept g0 s0) :
    Kept g0 (stateOf s0 (execLightDisagreeTimeout designB elements cycles s0)) := by
  simp only [execLightDisagreeTimeout]
  iterate 16 (try any_goals first
    | with_reducible exact hk
    | with_reducible apply stateOf_kept
    | with_reducible apply stateOf_ite_kept
    | with_reducible apply raiseAlarm_kept
    | with_reducible apply passRtc_kept
    | with_reducible apply standbyAlarm_kept
    | with_reducible apply Kept.ite
    | intro _
    | split
    | with_reducible refine Kept.mk ?_ rfl rfl rfl rfl rfl rfl rfl rfl rfl rfl rfl rfl)

theorem execCellTest_kept {g0 : State} (mv : Nat) (cycles : Nat) (s0 : State) (hk : Kept g0 s0) :
    Kept g0 (stateOf s0 (execCellTest mv cycles s0)) := by
  simp only [execCellTest]
  iterate 16 (try any_goals first
    | with_reducible exact hk
    | with_reducible apply stateOf_kept
    | with_reducible apply stateOf_ite_kept
    | with_reducible apply raiseAlarm_kept
    | with_reducible apply passRtc_kept
    | with_reducible apply standbyAlarm_kept
    | with_reducible apply Kept.ite
    | intro _
    | split
    | with_reducible refine Kept.mk ?_ rfl rfl rfl rfl rfl rfl rfl rfl rfl rfl rfl rfl)

theorem execJournalOverflowHour_kept {g0 : State} (s : State) (hk : Kept g0 s) :
    Kept g0 (stateOf s (execJournalOverflowHour s)) := by
  simp only [execJournalOverflowHour]
  iterate 16 (try any_goals first
    | with_reducible exact hk
    | with_reducible refine onMain_kept _ _ hk ?_
    | with_reducible apply stateOf_kept
    | with_reducible apply stateOf_ite_kept
    | with_reducible apply closeHour_kept
    | with_reducible apply Kept.ite
    | intro _
    | split
    | with_reducible refine Kept.mk ?_ rfl rfl rfl rfl rfl rfl rfl rfl rfl rfl rfl rfl)

theorem execQuenchRErase_kept {g0 : State} (s : State) (hk : Kept g0 s) :
    Kept g0 (stateOf s (execQuenchRErase s)) := by
  simp only [execQuenchRErase]
  iterate 16 (try any_goals first
    | with_reducible exact hk
    | with_reducible apply stateOf_kept
    | with_reducible apply stateOf_ite_kept
    | with_reducible apply zeroBbkr_kept
    | with_reducible apply Kept.ite
    | intro _
    | split
    | with_reducible refine Kept.mk ?_ rfl rfl rfl rfl rfl rfl rfl rfl rfl rfl rfl rfl)

theorem execRestrictClear_kept {g0 : State} (s : State) (hk : Kept g0 s) :
    Kept g0 (stateOf s (execRestrictClear s)) := by
  simp only [execRestrictClear]
  iterate 16 (try any_goals first
    | with_reducible exact hk
    | with_reducible refine onMain_kept _ _ hk ?_
    | with_reducible apply stateOf_kept
    | with_reducible apply stateOf_ite_kept
    | with_reducible apply noteLevel_kept
    | with_reducible apply resumeKeys_kept
    | with_reducible apply Kept.ite
    | intro _
    | split
    | with_reducible refine Kept.mk ?_ rfl rfl rfl rfl rfl rfl rfl rfl rfl rfl rfl rfl)

end Sys2Proof.Machine
end

