-- ==== Sys2Proof/Laws/StepsTemper.lean ====
section
/-! SUPPORT. What each meaning of Machine/Temper.lean keeps (Laws/Kept.lean), once for each command. -/

namespace Sys2Proof.Machine

theorem execTemperApply_kept {g0 : State} (q : Call) (m : TemperMsg) (s : State) (hk : Kept g0 s) :
    Kept g0 (stateOf s (execTemperApply q m s)) := by
  have h1 : ∀ (i : Nat) (l : List TemperCmd) (x y : State), Kept g0 x → applyAll m i l x = .ok y → Kept g0 y := by
    intro i l
    induction l generalizing i with
    | nil =>
      intro x y hx e
      simp only [applyAll, Except.ok.injEq] at e
      rw [← e]
      exact hx
    | cons c l ih =>
      intro x y hx e
      simp only [applyAll] at e
      split at e
      · cases e
      · exact ih _ _ _ (securityRec_kept _ _ _ _ _ (applyTemper_kept _ _ _ hx _ ‹_›)) e
  simp only [execTemperApply]
  refine stateOf_kept _ _ (runOp_kept _ _ _ _ _ hk ?_)
  split
  · exact hk
  · refine after_ite_kept _ _ _ hk ?_
    split
    · exact hk
    · split
      · exact hk
      · have h2 := h1 _ _ _ _ hk ‹applyAll _ _ _ _ = .ok _›
        have h3 := fun b f i k => raiseEvent_kept b f i _ (State.updDom_kept m.domain k _ h2)
        refine after_ite_kept _ _ _ hk (after_ite_kept _ _ _ (withDraw_kept _ _ _ _ hk hk ?_) ?_)
        all_goals exact h3 _ _ _ _

end Sys2Proof.Machine
end

