-- ==== Sys2Proof/Laws/StepsTime.lean ====
section
/-! SUPPORT. What each meaning of Machine/Time.lean keeps (Laws/Kept.lean), once for each command. -/

namespace Sys2Proof.Machine

theorem execTick_kept {g0 : State} (ocxoTemp : Int) (sense : Sense) (s : State) (hk : Kept g0 s) :
    Kept g0 (stateOf s (execTick ocxoTemp sense s)) := by
  simp only [execTick]
  iterate 16 (try any_goals first
    | with_reducible exact hk
    | with_reducible refine onMain_kept _ _ hk ?_
    | with_reducible apply stateOf_kept
    | with_reducible apply stateOf_ite_kept
    | with_reducible apply keyEdges_kept
    | with_reducible apply restrictTick_kept
    | with_reducible apply renewBlocked_kept
    | with_reducible apply releaseDue_kept
    | with_reducible apply evalRefs_kept
    | with_reducible apply noteSck_kept
    | with_reducible apply runCounts_kept
    | with_reducible apply tickState_kept
    | with_reducible apply tickStep_kept
    | with_reducible apply noteSense_kept
    | with_reducible apply Kept.ite
    | intro _
    | split
    | with_reducible refine Kept.mk ?_ rfl rfl rfl rfl rfl rfl rfl rfl rfl rfl rfl rfl)

theorem execPpsEdge_kept {g0 : State} (offset : Int) (s : State) (hk : Kept g0 s) :
    Kept g0 (stateOf s (execPpsEdge offset s)) := by
  simp only [execPpsEdge]
  iterate 16 (try any_goals first
    | with_reducible exact hk
    | with_reducible refine onMain_kept _ _ hk ?_
    | with_reducible apply stateOf_kept
    | with_reducible apply stateOf_ite_kept
    | with_reducible apply State.updRef_kept
    | with_reducible apply noteSck_kept
    | with_reducible apply judgeMeasure_kept
    | with_reducible apply Kept.ite
    | intro _
    | split
    | with_reducible refine Kept.mk ?_ rfl rfl rfl rfl rfl rfl rfl rfl rfl rfl rfl rfl)

theorem execPpsMissing_kept {g0 : State} (s : State) (hk : Kept g0 s) :
    Kept g0 (stateOf s (execPpsMissing s)) := by
  simp only [execPpsMissing]
  iterate 16 (try any_goals first
    | with_reducible exact hk
    | with_reducible refine onMain_kept _ _ hk ?_
    | with_reducible apply stateOf_kept
    | with_reducible apply stateOf_ite_kept
    | with_reducible apply State.updRef_kept
    | with_reducible apply noteSck_kept
    | with_reducible apply declareFailed_kept
    | with_reducible apply Kept.ite
    | intro _
    | split
    | with_reducible refine Kept.mk ?_ rfl rfl rfl rfl rfl rfl rfl rfl rfl rfl rfl rfl)

theorem execIrigbFrame_kept {g0 : State} (f : IrigFrame) (s : State) (hk : Kept g0 s) :
    Kept g0 (stateOf s (execIrigbFrame f s)) := by
  simp only [execIrigbFrame]
  iterate 16 (try any_goals first
    | with_reducible exact hk
    | with_reducible refine onMain_kept _ _ hk ?_
    | with_reducible apply stateOf_kept
    | with_reducible apply stateOf_ite_kept
    | with_reducible apply State.updRef_kept
    | with_reducible apply noteSck_kept
    | with_reducible apply judgeMeasure_kept
    | with_reducible apply irigMissing_kept
    | with_reducible apply noteLeap_kept
    | with_reducible apply Kept.ite
    | intro _
    | split
    | with_reducible refine Kept.mk ?_ rfl rfl rfl rfl rfl rfl rfl rfl rfl rfl rfl rfl)

theorem execIrigbFrameMissing_kept {g0 : State} (s : State) (hk : Kept g0 s) :
    Kept g0 (stateOf s (execIrigbFrameMissing s)) := by
  simp only [execIrigbFrameMissing]
  iterate 16 (try any_goals first
    | with_reducible exact hk
    | with_reducible refine onMain_kept _ _ hk ?_
    | with_reducible apply stateOf_kept
    | with_reducible apply stateOf_ite_kept
    | with_reducible apply noteSck_kept
    | with_reducible apply irigMissing_kept
    | with_reducible apply Kept.ite
    | intro _
    | split
    | with_reducible refine Kept.mk ?_ rfl rfl rfl rfl rfl rfl rfl rfl rfl rfl rfl rfl)

theorem execTenMhzLoss_kept {g0 : State} (freq : Option Int) (s : State) (hk : Kept g0 s) :
    Kept g0 (stateOf s (execTenMhzLoss freq s)) := by
  simp only [execTenMhzLoss]
  iterate 16 (try any_goals first
    | with_reducible exact hk
    | with_reducible refine onMain_kept _ _ hk ?_
    | with_reducible apply stateOf_kept
    | with_reducible apply stateOf_ite_kept
    | with_reducible apply State.updRef_kept
    | with_reducible apply noteSck_kept
    | with_reducible apply declareFailed_kept
    | with_reducible apply tenMhzGone_kept
    | with_reducible apply Kept.ite
    | intro _
    | split
    | with_reducible refine Kept.mk ?_ rfl rfl rfl rfl rfl rfl rfl rfl rfl rfl rfl rfl)

theorem execPtpMessageProcess_kept {g0 : State} (domain : Nat) (m : PtpMessage) (s : State) (hk : Kept g0 s) :
    Kept g0 (stateOf s (execPtpMessageProcess domain m s)) := by
  simp only [execPtpMessageProcess]
  iterate 16 (try any_goals first
    | with_reducible exact hk
    | with_reducible refine onMain_kept _ _ hk ?_
    | with_reducible apply stateOf_kept
    | with_reducible apply stateOf_ite_kept
    | with_reducible apply ptpMessage_kept
    | with_reducible apply Kept.ite
    | intro _
    | split
    | with_reducible refine Kept.mk ?_ rfl rfl rfl rfl rfl rfl rfl rfl rfl rfl rfl rfl)

theorem execPtpAnnounceTimeout_kept {g0 : State} (s : State) (hk : Kept g0 s) :
    Kept g0 (stateOf s (execPtpAnnounceTimeout s)) := by
  simp only [execPtpAnnounceTimeout]
  iterate 16 (try any_goals first
    | with_reducible exact hk
    | with_reducible refine onMain_kept _ _ hk ?_
    | with_reducible apply stateOf_kept
    | with_reducible apply stateOf_ite_kept
    | with_reducible apply setRoles_kept
    | with_reducible apply ptpTimeout_kept
    | with_reducible apply Kept.ite
    | intro _
    | split
    | with_reducible refine Kept.mk ?_ rfl rfl rfl rfl rfl rfl rfl rfl rfl rfl rfl rfl)

theorem execPtpSyncTimeout_kept {g0 : State} (s : State) (hk : Kept g0 s) :
    Kept g0 (stateOf s (execPtpSyncTimeout s)) := by
  simp only [execPtpSyncTimeout]
  iterate 16 (try any_goals first
    | with_reducible exact hk
    | with_reducible refine onMain_kept _ _ hk ?_
    | with_reducible apply stateOf_kept
    | with_reducible apply stateOf_ite_kept
    | with_reducible apply ptpTimeout_kept
    | with_reducible apply Kept.ite
    | intro _
    | split
    | with_reducible refine Kept.mk ?_ rfl rfl rfl rfl rfl rfl rfl rfl rfl rfl rfl rfl)

theorem execPtpMessageTransmit_kept {g0 : State} (port : Nat) (what : PtpSend) (s : State) (hk : Kept g0 s) :
    Kept g0 (stateOf s (execPtpMessageTransmit port what s)) := by
  simp only [execPtpMessageTransmit]
  iterate 16 (try any_goals first
    | with_reducible exact hk
    | with_reducible refine onMain_kept _ _ hk ?_
    | with_reducible apply stateOf_kept
    | with_reducible apply stateOf_ite_kept
    | with_reducible apply sendPort_kept
    | with_reducible apply Kept.ite
    | intro _
    | split
    | with_reducible refine Kept.mk ?_ rfl rfl rfl rfl rfl rfl rfl rfl rfl rfl rfl rfl)

theorem execReferenceFailure_kept {g0 : State} (r : Nat) (s : State) (hk : Kept g0 s) :
    Kept g0 (stateOf s (execReferenceFailure r s)) := by
  simp only [execReferenceFailure]
  iterate 16 (try any_goals first
    | with_reducible exact hk
    | with_reducible refine onMain_kept _ _ hk ?_
    | with_reducible apply stateOf_kept
    | with_reducible apply stateOf_ite_kept
    | with_reducible apply noteSck_kept
    | with_reducible apply declareFailed_kept
    | with_reducible apply Kept.ite
    | intro _
    | split
    | with_reducible refine Kept.mk ?_ rfl rfl rfl rfl rfl rfl rfl rfl rfl rfl rfl rfl)

theorem execQualificationComplete_kept {g0 : State} (r : Nat) (s : State) (hk : Kept g0 s) :
    Kept g0 (stateOf s (execQualificationComplete r s)) := by
  simp only [execQualificationComplete]
  iterate 16 (try any_goals first
    | with_reducible exact hk
    | with_reducible refine onMain_kept _ _ hk ?_
    | with_reducible apply stateOf_kept
    | with_reducible apply stateOf_ite_kept
    | with_reducible apply State.updRef_kept
    | with_reducible apply noteSck_kept
    | with_reducible apply Kept.ite
    | intro _
    | split
    | with_reducible refine Kept.mk ?_ rfl rfl rfl rfl rfl rfl rfl rfl rfl rfl rfl rfl)

theorem execReferenceSelect_kept {g0 : State} (s : State) (hk : Kept g0 s) :
    Kept g0 (stateOf s (execReferenceSelect s)) := by
  simp only [execReferenceSelect]
  iterate 16 (try any_goals first
    | with_reducible exact hk
    | with_reducible refine onMain_kept _ _ hk ?_
    | with_reducible apply stateOf_kept
    | with_reducible apply stateOf_ite_kept
    | with_reducible apply noteSck_kept
    | with_reducible apply adoptSlew_kept
    | with_reducible apply Kept.ite
    | intro _
    | split
    | with_reducible refine Kept.mk ?_ rfl rfl rfl rfl rfl rfl rfl rfl rfl rfl rfl rfl)

theorem execOcxoFailed_kept {g0 : State} (ppm : Nat) (s : State) (hk : Kept g0 s) :
    Kept g0 (stateOf s (execOcxoFailed ppm s)) := by
  simp only [execOcxoFailed]
  iterate 16 (try any_goals first
    | with_reducible exact hk
    | with_reducible refine onMain_kept _ _ hk ?_
    | with_reducible apply stateOf_kept
    | with_reducible apply stateOf_ite_kept
    | with_reducible apply raiseAlarm_kept
    | with_reducible apply failOcxo_kept
    | with_reducible apply Kept.ite
    | intro _
    | split
    | with_reducible refine Kept.mk ?_ rfl rfl rfl rfl rfl rfl rfl rfl rfl rfl rfl rfl)

theorem execAngleCoast_kept {g0 : State} (s : State) (hk : Kept g0 s) :
    Kept g0 (stateOf s (execAngleCoast s)) := by
  simp only [execAngleCoast]
  iterate 16 (try any_goals first
    | with_reducible exact hk
    | with_reducible refine onMain_kept _ _ hk ?_
    | with_reducible apply stateOf_kept
    | with_reducible apply stateOf_ite_kept
    | with_reducible apply noteSck_kept
    | with_reducible apply Kept.ite
    | intro _
    | split
    | with_reducible refine Kept.mk ?_ rfl rfl rfl rfl rfl rfl rfl rfl rfl rfl rfl rfl)

theorem execAngleLost_kept {g0 : State} (s : State) (hk : Kept g0 s) :
    Kept g0 (stateOf s (execAngleLost s)) := by
  simp only [execAngleLost]
  iterate 16 (try any_goals first
    | with_reducible exact hk
    | with_reducible refine onMain_kept _ _ hk ?_
    | with_reducible apply stateOf_kept
    | with_reducible apply stateOf_ite_kept
    | with_reducible apply noteSck_kept
    | with_reducible apply loseAngle_kept
    | with_reducible apply Kept.ite
    | intro _
    | split
    | with_reducible refine Kept.mk ?_ rfl rfl rfl rfl rfl rfl rfl rfl rfl rfl rfl rfl)

theorem execAngleReached_kept {g0 : State} (ctx : Nat) (s : State) (hk : Kept g0 s) :
    Kept g0 (stateOf s (execAngleReached ctx s)) := by
  simp only [execAngleReached]
  iterate 16 (try any_goals first
    | with_reducible exact hk
    | with_reducible refine onMain_kept _ _ hk ?_
    | with_reducible apply stateOf_kept
    | with_reducible apply stateOf_ite_kept
    | with_reducible apply State.setCtx_kept
    | with_reducible apply finishCtx_kept
    | with_reducible apply makeReady_kept
    | with_reducible apply Kept.ite
    | intro _
    | split
    | with_reducible refine Kept.mk ?_ rfl rfl rfl rfl rfl rfl rfl rfl rfl rfl rfl rfl)

theorem execSettingTakesEffect_kept {g0 : State} (s : State) (hk : Kept g0 s) :
    Kept g0 (stateOf s (execSettingTakesEffect s)) := by
  simp only [execSettingTakesEffect]
  iterate 16 (try any_goals first
    | with_reducible exact hk
    | with_reducible refine onMain_kept _ _ hk ?_
    | with_reducible apply stateOf_kept
    | with_reducible apply stateOf_ite_kept
    | with_reducible apply noteSck_kept
    | with_reducible apply applySettings_kept
    | with_reducible apply Kept.ite
    | intro _
    | split
    | with_reducible refine Kept.mk ?_ rfl rfl rfl rfl rfl rfl rfl rfl rfl rfl rfl rfl)

end Sys2Proof.Machine
end

