-- ==== Sys2Proof/Laws/StepsVf.lean ====
section
/-! SUPPORT. What each meaning of Machine/Vf.lean keeps (Laws/Kept.lean), once for each command. -/

namespace Sys2Proof.Machine

theorem execVfSetup_kept {g0 : State} (q : Call) (fn : Nat) (rings : Nat) (scope : Nat) (ctxs : Nat) (slots : Nat) (delays : Nat) (s : State) (hk : Kept g0 s) :
    Kept g0 (stateOf s (execVfSetup q fn rings scope ctxs slots delays s)) := by
  simp only [execVfSetup]
  iterate 16 (try any_goals first
    | with_reducible exact hk
    | with_reducible apply stateOf_kept
    | with_reducible refine runOp_kept _ _ _ _ _ hk ?_
    | with_reducible apply stateOf_ite_kept
    | with_reducible apply after_ite_kept
    | with_reducible apply after_done_kept
    | with_reducible apply after_running_kept
    | with_reducible apply State.updFunc_kept
    | with_reducible apply pfShare_kept
    | with_reducible apply Kept.ite
    | intro _
    | split
    | with_reducible refine Kept.mk ?_ rfl rfl rfl rfl rfl rfl rfl rfl rfl rfl rfl rfl)

theorem execWarmHostReset_kept {g0 : State} (perst : Bool) (s : State) (hk : Kept g0 s) :
    Kept g0 (stateOf s (execWarmHostReset perst s)) := by
  simp only [execWarmHostReset]
  iterate 16 (try any_goals first
    | with_reducible exact hk
    | with_reducible apply stateOf_kept
    | with_reducible apply stateOf_ite_kept
    | with_reducible apply warmCtxs_kept
    | with_reducible apply warmFuncs_kept
    | with_reducible apply dropLink_kept
    | with_reducible apply Kept.ite
    | intro _
    | split
    | with_reducible refine Kept.mk ?_ rfl rfl rfl rfl rfl rfl rfl rfl rfl rfl rfl rfl)

theorem execPerstNDeassert_kept {g0 : State} (s : State) (hk : Kept g0 s) :
    Kept g0 (stateOf s (execPerstNDeassert s)) := by
  simp only [execPerstNDeassert]
  iterate 16 (try any_goals first
    | with_reducible exact hk
    | with_reducible apply stateOf_kept
    | with_reducible apply stateOf_ite_kept
    | with_reducible apply linkUp_kept
    | with_reducible apply Kept.ite
    | intro _
    | split
    | with_reducible refine Kept.mk ?_ rfl rfl rfl rfl rfl rfl rfl rfl rfl rfl rfl rfl)

theorem execFlr_kept {g0 : State} (f : Nat) (s : State) (hk : Kept g0 s) :
    Kept g0 (stateOf s (execFlr f s)) := by
  simp only [execFlr]
  iterate 16 (try any_goals first
    | with_reducible exact hk
    | with_reducible refine onMain_kept _ _ hk ?_
    | with_reducible apply stateOf_kept
    | with_reducible apply stateOf_ite_kept
    | with_reducible apply raiseEvent_kept
    | with_reducible apply flrCore_kept
    | with_reducible apply Kept.ite
    | intro _
    | split
    | with_reducible refine Kept.mk ?_ rfl rfl rfl rfl rfl rfl rfl rfl rfl rfl rfl rfl)

theorem execVfRemoval_kept {g0 : State} (fns : List Nat) (s : State) (hk : Kept g0 s) :
    Kept g0 (stateOf s (execVfRemoval fns s)) := by
  simp only [execVfRemoval]
  iterate 16 (try any_goals first
    | with_reducible exact hk
    | with_reducible refine onMain_kept _ _ hk ?_
    | with_reducible apply stateOf_kept
    | with_reducible apply stateOf_ite_kept
    | with_reducible apply removeVfs_kept
    | with_reducible apply Kept.ite
    | intro _
    | split
    | with_reducible refine Kept.mk ?_ rfl rfl rfl rfl rfl rfl rfl rfl rfl rfl rfl rfl)

theorem execVfFreeze_kept {g0 : State} (q : Call) (fn : Nat) (s : State) (hk : Kept g0 s) :
    Kept g0 (stateOf s (execVfFreeze q fn s)) := by
  simp only [execVfFreeze]
  iterate 16 (try any_goals first
    | with_reducible exact hk
    | with_reducible apply stateOf_kept
    | with_reducible refine runOp_kept _ _ _ _ _ hk ?_
    | with_reducible apply stateOf_ite_kept
    | with_reducible apply after_ite_kept
    | with_reducible apply after_done_kept
    | with_reducible apply after_running_kept
    | with_reducible apply State.updFunc_kept
    | with_reducible apply beginFreeze_kept
    | with_reducible apply Kept.ite
    | intro _
    | split
    | with_reducible refine Kept.mk ?_ rfl rfl rfl rfl rfl rfl rfl rfl rfl rfl rfl rfl)

theorem execVfSave_kept {g0 : State} (q : Call) (fn : Nat) (s : State) (hk : Kept g0 s) :
    Kept g0 (stateOf s (execVfSave q fn s)) := by
  simp only [execVfSave]
  iterate 16 (try any_goals first
    | with_reducible exact hk
    | with_reducible apply stateOf_kept
    | with_reducible refine runOp_kept _ _ _ _ _ hk ?_
    | with_reducible apply stateOf_ite_kept
    | with_reducible apply after_ite_kept
    | with_reducible apply after_done_kept
    | with_reducible apply after_running_kept
    | with_reducible refine withDraw_kept _ _ _ _ hk hk ?_
    | with_reducible apply offerBytes_kept
    | with_reducible apply saveImage_kept
    | with_reducible apply Kept.ite
    | intro _
    | split
    | with_reducible refine Kept.mk ?_ rfl rfl rfl rfl rfl rfl rfl rfl rfl rfl rfl rfl)

theorem execVfRestore_kept {g0 : State} (q : Call) (fn : Nat) (length : Nat) (image : SaveImage) (s : State) (hk : Kept g0 s) :
    Kept g0 (stateOf s (execVfRestore q fn length image s)) := by
  simp only [execVfRestore]
  iterate 16 (try any_goals first
    | with_reducible exact hk
    | with_reducible apply stateOf_kept
    | with_reducible refine runOp_kept _ _ _ _ _ hk ?_
    | with_reducible apply stateOf_ite_kept
    | with_reducible apply after_ite_kept
    | with_reducible apply after_done_kept
    | with_reducible apply after_running_kept
    | with_reducible refine withDraw_kept _ _ _ _ hk hk ?_
    | with_reducible apply applyImage_kept
    | with_reducible apply Kept.ite
    | intro _
    | split
    | with_reducible refine Kept.mk ?_ rfl rfl rfl rfl rfl rfl rfl rfl rfl rfl rfl rfl)

theorem execVfThaw_kept {g0 : State} (q : Call) (fn : Nat) (s : State) (hk : Kept g0 s) :
    Kept g0 (stateOf s (execVfThaw q fn s)) := by
  simp only [execVfThaw]
  iterate 16 (try any_goals first
    | with_reducible exact hk
    | with_reducible apply stateOf_kept
    | with_reducible refine runOp_kept _ _ _ _ _ hk ?_
    | with_reducible apply stateOf_ite_kept
    | with_reducible apply after_ite_kept
    | with_reducible apply after_done_kept
    | with_reducible apply after_running_kept
    | with_reducible apply State.updFunc_kept
    | with_reducible apply thawAll_kept
    | with_reducible apply Kept.ite
    | intro _
    | split
    | with_reducible refine Kept.mk ?_ rfl rfl rfl rfl rfl rfl rfl rfl rfl rfl rfl rfl)

theorem execIdeStreamInsecure_kept {g0 : State} (stream : Option Nat) (s : State) (hk : Kept g0 s) :
    Kept g0 (stateOf s (execIdeStreamInsecure stream s)) := by
  simp only [execIdeStreamInsecure]
  iterate 16 (try any_goals first
    | with_reducible exact hk
    | with_reducible refine onMain_kept _ _ hk ?_
    | with_reducible apply stateOf_kept
    | with_reducible apply stateOf_ite_kept
    | with_reducible apply raiseEvent_kept
    | with_reducible apply setStream_kept
    | with_reducible apply Kept.ite
    | intro _
    | split
    | with_reducible refine Kept.mk ?_ rfl rfl rfl rfl rfl rfl rfl rfl rfl rfl rfl rfl)

theorem execSpdmDoeExchange_kept {g0 : State} (m : DoeMessage) (s : State) (hk : Kept g0 s) :
    Kept g0 (stateOf s (execSpdmDoeExchange m s)) := by
  simp only [execSpdmDoeExchange]
  iterate 16 (try any_goals first
    | with_reducible exact hk
    | with_reducible refine onMain_kept _ _ hk ?_
    | with_reducible apply stateOf_kept
    | with_reducible apply stateOf_ite_kept
    | with_reducible apply emit_kept
    | with_reducible apply raiseEvent_kept
    | with_reducible apply linkUp_kept
    | with_reducible apply setStream_kept
    | with_reducible apply Kept.ite
    | intro _
    | split
    | with_reducible refine Kept.mk ?_ rfl rfl rfl rfl rfl rfl rfl rfl rfl rfl rfl rfl)

theorem execIdeRequiredSet_kept {g0 : State} (q : Call) (auth : AuthReq) (s : State) (hk : Kept g0 s) :
    Kept g0 (stateOf s (execIdeRequiredSet q auth s)) := by
  simp only [execIdeRequiredSet]
  refine stateOf_kept _ _ (runOp_kept _ _ _ _ _ hk ?_)
  refine withAuth_kept _ _ _ _ _ _ _ _ _ _ _ hk ?_
  exact Kept.congr (acceptRequest_kept auth 0x0B04 s hk) rfl rfl rfl rfl rfl rfl rfl rfl rfl rfl rfl rfl

end Sys2Proof.Machine
end

