-- ==== Sys2Proof/WellFormed.lean ====
section
/-! DEFINITION. Which commands are well formed: every operand that names a function, a ring, a port, an engine or the like lies in
the range the spec gives it, and every field in its width. -/

namespace Sys2Proof

open Sys2Proof.Machine

/-- Functions 0 to 63 (R493). -/
def fnOk (f : Nat) : Bool := decide (f < 64)

/-- Ring indices 0 to 63 (R416). -/
def ringOk (r : Nat) : Bool := decide (r < 64)

/-- Ports 0 to 11 (Table 03-8). -/
def portOk (p : Nat) : Bool := decide (p < 12)

/-- The port field of FE_PORT_CTR_SEL. -/
def nibbleOk (p : Nat) : Bool := decide (p < 16)

/-- Protocol cores 0 to 47. -/
def coreOk (c : Nat) : Bool := decide (c < 48)

/-- Public-key engines 0 to 7. -/
def engineOk (e : Nat) : Bool := decide (e < 8)

/-- Pairs, loops and delay lists 0 to 3. -/
def quadOk (n : Nat) : Bool := decide (n < 4)

/-- Time references 0 to 2 (Table 02-3). -/
def refOk (r : Nat) : Bool := decide (r < 3)

/-- Queues 0 to 4,095 (R539). -/
def queueOk (q : Nat) : Bool := decide (q < 4096)

/-- Stream entries 0 to 131,071. -/
def entryOk (n : Nat) : Bool := decide (n < 131072)

/-- Values of 8, 16, 32 and 64 bits. -/
def byteOk (n : Nat) : Bool := decide (n < 2 ^ 8)
def halfOk (n : Nat) : Bool := decide (n < 2 ^ 16)
def wordOk (n : Nat) : Bool := decide (n < 2 ^ 32)
def longOk (n : Nat) : Bool := decide (n < 2 ^ 64)

/-- Offsets in BAR0 (Table 18-1) and in the data-port aperture (R457). -/
def barOk (n : Nat) : Bool := decide (n < 2 ^ 16)
def apertureOk (n : Nat) : Bool := decide (n < 2 ^ 20)

/-- SMBus addresses of 7 bits (R725). -/
def addressOk (n : Nat) : Bool := decide (n < 128)

/-- Slots of a PAD entry, 1 to 64 (R421). -/
def padOk (n : Nat) : Bool := decide (1 ≤ n) && decide (n ≤ 64)

/-- MSI-X vectors 0 to 31 (R442). -/
def vectorOk (v : Option Nat) : Bool := v.all fun n => decide (n < 32)

/-- The fields of an entry header fit their widths (Table 10-4). -/
def headerOk (h : Header) : Bool :=
  halfOk h.opcode && decide (h.length < 128) && wordOk h.userTag && longOk h.notBefore && longOk h.completeBy
    && wordOk h.latenessTol && wordOk h.inLen && longOk h.inAddr && longOk h.outAddr && wordOk h.outLen

/-- An entry of a function's ring. -/
def callOk (q : Call) : Bool := fnOk q.f && ringOk q.ring && wordOk q.count && headerOk q.hdr

/-- An entry with the bytes of its input buffer. -/
def callIn (q : Call) (input : Bytes) : Bool := callOk q && q.hdr.inLen == input.length

/-- The fields of an engine command word fit their widths (Table 08-4). -/
def cmdOk (c : PkeCmd) : Bool :=
  decide (c.op < 64) && decide (c.mctx < 4) && decide (c.dst < 1024) && decide (c.a < 1024) && decide (c.b < 1024) && byteOk c.len
    && decide (c.bit < 8192) && decide (c.res < 16)

/-- A rule write of a slot's masks or of the 16 bytes of a region entry (Table 14-5). -/
def ruleOk : RuleWrite → Bool
  | .slot n r w => byteOk n && halfOk r && halfOk w
  | .region n e => byteOk n && decide (e < 2 ^ 128)

/-- A 64-bit word with its code and internal address (R570). -/
def readOk (w : WordRead) : Bool := wordOk w.addr && longOk w.data && byteOk w.code

/-- The fields of a firmware image (Table 17-3). -/
def fwOk (i : FwImage) : Bool :=
  wordOk i.magic && halfOk i.format && halfOk i.sec && wordOk i.version && wordOk i.length && longOk i.builtAt && decide (i.reserved < 2 ^ 320)
    && i.digest.length == 48

/-- Well-formed commands. -/
def Instr.wf : Instr → Bool
  | .powerGoodRise _ => true
  | .powerGoodFall => true
  | .standbyInputLoss => true
  | .snowdropEntry => true
  | .resetNAssert _ _ => true
  | .moduleResetRequest value _ => wordOk value
  | .watchdogReset cause _ _ => halfOk cause
  | .forwardingBegin _ => true
  | .warmHostReset _ => true
  | .flr f => fnOk f
  | .vfRemoval fns => fns.all fnOk
  | .busMasterEnableSet f => fnOk f
  | .d3hotTransition f _ => fnOk f
  | .msixUnmask f vector => fnOk f && vectorOk vector
  | .ideStreamInsecure _ => true
  | .portLinkChange port _ => portOk port
  | .frameReceived _ _ => true
  | .copyTransmitStart port _ => portOk port
  | .copyDiscardTimeout _ => true
  | .drainEnd f => fnOk f
  | .lanDeadTimeout port => portOk port
  | .dupSourceForget pair _ => quadOk pair
  | .supervisionSend => true
  | .tick _ _ => true
  | .ppsEdge _ => true
  | .ppsMissing => true
  | .irigbFrame _ => true
  | .tenMhzLoss _ => true
  | .ptpMessageProcess domain _ => byteOk domain
  | .ptpAnnounceTimeout => true
  | .ptpSyncTimeout => true
  | .referenceFailure r => refOk r
  | .qualificationComplete r => refOk r
  | .referenceSelect => true
  | .ocxoFailed _ => true
  | .checkpoint => true
  | .angleCoast => true
  | .angleLost => true
  | .angleReached _ => true
  | .planSwitch => true
  | .deferredSwitch => true
  | .partitionReleaseEffect f => fnOk f
  | .entryReload f entry _ _ => fnOk f && entryOk entry
  | .matchStoreRebuild _ _ => true
  | .dualKeyPadWindow entry => entryOk entry
  | .acceptIntervalOpen entry => entryOk entry
  | .acceptIntervalClose entry => entryOk entry
  | .padRefill entry => entryOk entry
  | .keyLifetimePassed handle => wordOk handle
  | .keySlotRepair handle _ => wordOk handle
  | .recordAppend => true
  | .summaryClose entry cause => entryOk entry && halfOk cause
  | .windowOpen _ => true
  | .windowClose _ => true
  | .budgetHourRoll => true
  | .zoneReleaseErase => true
  | .mkaExchange port _ => portOk port
  | .mkaHello port => portOk port
  | .mkaLifeExpiry port => portOk port
  | .pnExhausted port => portOk port
  | .gdoiPushReceived f _ _ _ _ _ _ => fnOk f
  | .gdoiKdcPush handle => wordOk handle
  | .pkeOperationStart engine => engineOk engine
  | .pkeValidationEnd engine => engineOk engine
  | .pkeOperationFinish engine _ => engineOk engine
  | .pkeAbort engine cause => engineOk engine && halfOk cause
  | .pkeAbortRelease engine => engineOk engine
  | .pkeSetmod engine c => engineOk engine && cmdOk c
  | .pkeLoadkey engine c => engineOk engine && cmdOk c
  | .pkeStore engine c => engineOk engine && cmdOk c
  | .pkeMmul engine c => engineOk engine && cmdOk c
  | .pkeMadd engine c => engineOk engine && cmdOk c
  | .pkeMsub engine c => engineOk engine && cmdOk c
  | .pkeMac engine c => engineOk engine && cmdOk c
  | .pkeCswap engine c => engineOk engine && cmdOk c
  | .pkeTsel engine c => engineOk engine && cmdOk c
  | .pkeCopy engine c => engineOk engine && cmdOk c
  | .pkeSetc engine c => engineOk engine && cmdOk c
  | .pkeCheck engine c => engineOk engine && cmdOk c
  | .pkePcheck engine c => engineOk engine && cmdOk c
  | .pkeEq engine c => engineOk engine && cmdOk c
  | .pkeEndv engine c => engineOk engine && cmdOk c
  | .pkeRepeat engine c => engineOk engine && cmdOk c
  | .pkeEnd engine c => engineOk engine && cmdOk c
  | .rnuHealthFailure cause _ _ _ _ => halfOk cause
  | .rnuStartupPass => true
  | .rnuReseed => true
  | .bellowsRefill => true
  | .bellowsFlush => true
  | .expanderReinstantiate => true
  | .doorbellWrite f ring value => fnOk f && ringOk ring && wordOk value
  | .arbitrationRound _ => true
  | .headAdvance f ring => fnOk f && ringOk ring
  | .moderationTimer f ring => fnOk f && ringOk ring
  | .completeByExpiry _ => true
  | .dataPortOpen f _ => fnOk f
  | .dataPortWrite f offset _ => fnOk f && apertureOk offset
  | .dataPortRead f offset _ => fnOk f && apertureOk offset
  | .dataPortAbort f => fnOk f
  | .dataPortTimeout f => fnOk f
  | .ringEnable f ring cfg => fnOk f && ringOk ring && wordOk cfg
  | .ringDrain f ring => fnOk f && ringOk ring
  | .ringInactive f ring => fnOk f && ringOk ring
  | .workDispatch core _ => coreOk core
  | .itemCommit core _ _ => coreOk core
  | .leaseExpiry core => coreOk core
  | .coreResetDone core => coreOk core
  | .coreMemoryError core => coreOk core
  | .qmPacketBegin queue port _ => queueOk queue && portOk port
  | .qmRead queue => queueOk queue
  | .qmDropRemainder queue => queueOk queue
  | .delayListRebuild list => quadOk list
  | .internalAccess _ => true
  | .acUpdateOpen _ core _ => coreOk core
  | .acUpdateClose writes => writes.all ruleOk
  | .acUpdateTimeout => true
  | .scrubRead w _ => readOk w
  | .memoryError w => readOk w
  | .busIntegrityError _ _ _ => true
  | .tamperAlarm cause _ _ _ => halfOk cause
  | .quenchWPath _ _ => true
  | .quenchRErase => true
  | .lightDisagreeTimeout _ _ _ => true
  | .cellTest _ _ => true
  | .journalOverflowHour => true
  | .snowdropAlarm cause _ _ _ => halfOk cause
  | .restrictClear => true
  | .debugTokenExpiry => true
  | .debugEnd => true
  | .rollingTestPeriod _ => true
  | .firmwareTrialCommit => true
  | .settingStore => true
  | .settingTakesEffect => true
  | .registerWrite f offset _ value _ => fnOk f && barOk offset && longOk value
  | .streamCounterLatch f entry _ => fnOk f && entryOk entry
  | .portCounterLatch port => nibbleOk port
  | .portCfgWrite port value => portOk port && wordOk value
  | .pairCfgWrite pair value => quadOk pair && wordOk value
  | .loopCfgWrite loop value => quadOk loop && wordOk value
  | .coreGroupsWrite core value => coreOk core && wordOk value
  | .testPatternWrite value => wordOk value
  | .ringZonesWrite value => wordOk value
  | .refPriorityWrite value => wordOk value
  | .ptpCfgWrite value => wordOk value
  | .tenMhzCfgWrite value => wordOk value
  | .refChannelWrite value => wordOk value
  | .denyRecordRead => true
  | .smbusIdentity address => addressOk address
  | .smbusEnvironment address => addressOk address
  | .smbusStatus address => addressOk address
  | .smbusAlertResponse => true
  | .jtagIdcode => true
  | .jtagBypass => true
  | .pad f ring len => fnOk f && ringOk ring && padOk len
  | .nop q => callOk q
  | .keyLoad q _ _ => callOk q
  | .keyUnload q handle => callOk q && wordOk handle
  | .keyGenerate q _ _ _ _ _ _ _ _ => callOk q
  | .keyBlobRead q handle => callOk q && wordOk handle
  | .keyVaultStore q handle => callOk q && wordOk handle
  | .keyVaultDelete q handle => callOk q && wordOk handle
  | .keyReserve q _ _ _ _ _ => callOk q
  | .keyReserveCancel q handle => callOk q && wordOk handle
  | .keyAttest q handle _ => callOk q && wordOk handle
  | .deviceAttest q _ _ => callOk q
  | .temperApply q _ => callOk q
  | .hash q _ input => callIn q input
  | .macGenerate q handle _ _ _ input => callIn q input && wordOk handle
  | .macVerify q handle _ _ _ _ input => callIn q input && wordOk handle
  | .aeadEncrypt q handle _ _ _ _ input => callIn q input && wordOk handle
  | .aeadDecrypt q handle _ _ _ _ input => callIn q input && wordOk handle
  | .ecdsaSign q handle _ input => callIn q input && wordOk handle
  | .ecdsaVerify q curve _ input => callIn q input && byteOk curve
  | .eddsaSign q handle input => callIn q input && wordOk handle
  | .eddsaVerify q input => callIn q input
  | .keyAgree q handle input => callIn q input && wordOk handle
  | .rsaSign q handle _ _ _ input => callIn q input && wordOk handle
  | .rsaDecrypt q handle _ _ _ input => callIn q input && wordOk handle
  | .rsaVerify q len _ _ _ input => callIn q input && halfOk len
  | .rsaEncrypt q len _ _ _ input => callIn q input && halfOk len
  | .pointValidate q curve input => callIn q input && byteOk curve
  | .curveLoad q input => callIn q input
  | .curveUnload q curve => callOk q && byteOk curve
  | .sequence q _ input => callIn q input
  | .tlsOpen q handle _ _ _ _ => callOk q && wordOk handle
  | .tlsHandshake q session _ => callOk q && wordOk session
  | .tlsSeal q session _ input => callIn q input && wordOk session
  | .tlsUnseal q session input => callIn q input && wordOk session
  | .tlsClose q session => callOk q && wordOk session
  | .tlsPeerCert q session => callOk q && wordOk session
  | .randomBytes q _ => callOk q
  | .entropyRestart q => callOk q
  | .rawSamples q _ _ => callOk q
  | .planLoad q _ _ => callOk q
  | .planActivate q _ _ _ => callOk q
  | .planRollback q _ _ _ => callOk q
  | .planCancel q => callOk q
  | .planRead q _ => callOk q
  | .partitionAssign q fn _ _ => callOk q && fnOk fn
  | .partitionRelease q fn _ => callOk q && fnOk fn
  | .counterRead q _ _ => callOk q
  | .counterSnapshot q _ _ => callOk q
  | .archiveRead q _ => callOk q
  | .captureWindow q _ _ _ => callOk q
  | .archiveRelease q _ => callOk q
  | .journalRead q _ => callOk q
  | .timeStep q _ => callOk q
  | .timedPublish q entry port _ => callOk q && entryOk entry && portOk port
  | .lifecycleRequest q _ => callOk q
  | .debugAuthorise q _ => callOk q
  | .selfTestRun q _ _ _ => callOk q
  | .rollingTest q _ _ => callOk q
  | .moduleInfo q => callOk q
  | .portMacsecSet q port _ _ _ => callOk q && portOk port
  | .portMacsecGet q port => callOk q && portOk port
  | .ideRequiredSet q _ => callOk q
  | .configSelect q _ => callOk q
  | .firmwareLoad q length slot image => callOk q && wordOk length && byteOk slot && image.all fwOk
  | .firmwareSelect q _ => callOk q
  | .vfSetup q fn _ _ _ _ _ => callOk q && fnOk fn
  | .vfFreeze q fn => callOk q && fnOk fn
  | .vfSave q fn => callOk q && fnOk fn
  | .vfRestore q fn _ _ => callOk q && fnOk fn
  | .vfThaw q fn => callOk q && fnOk fn
  | .ptpMessageTransmit port _ => portOk port
  | .irigbFrameMissing => true
  | .dualKeyPadWindowEnd entry => entryOk entry
  | .resetNRelease _ => true
  | .perstNDeassert => true
  | .busMasterEnableClear f => fnOk f
  | .spdmDoeExchange _ => true
  | .standbyInputReturn _ _ => true
  | .supplyOutOfRange _ => true
  | .backupPowerLoss => true
  | .alarmConditionAbsent cause _ => halfOk cause
  | .debugPortAccess _ => true
  | .splitRegisterRead f offset _ => fnOk f && barOk offset

end Sys2Proof
end

