-- ==== Sys2Proof/Tests/Slice0.lean ====
section
/-! SUPPORT. Tests: that the hypotheses of the statements are met, that the checks of WellFormed refuse, and what single commands
leave, with expected values taken from the spec. -/

set_option maxRecDepth 20000

namespace Sys2Proof.Tests

open Sys2Proof Sys2Proof.Machine

/-- A module in service: started from 12 V, forwarding, grid time 5 s and locked, random numbers and keys ready. -/
def live : State := { State.reset with
  pwr := { good := true, main := true, standbyIn := true, standbyFed := true, phase := 4, running := some 0 },
  sck := { now := 5000000000, st := .locked, bounded := true, valid := true },
  rnu := { st := .ready, bellows := [List.replicate 64 5], seed := some (List.replicate 48 3), expander := some { key := List.replicate 32 1, v := 0 } },
  key := { provisioned := true, bbkr := some { srk := List.replicate 32 7, check := [], generation := 0 }, rootPresent := true, identity := some { dis := [], dik := 1, ak := 1, dtk := 1, esk := [] } },
  lcc := { st := .integrator },
  fe := { forwarding := true },
  tm := { ready := true } }

/-- A call of the PF with an opcode, a full entry and room for its result. -/
def call (op : Nat) : Call := { f := 0, ring := 0, count := 0, hdr := { opcode := op, length := 64, outLen := 65536 } }

/-- The live module with its archive open: zone 132 holds the event log. -/
def liveArc : State := { live with arc := { live.arc with ready := true, log0 := { seq := 9, openZone := some 132 }, zones := [(132, { log := 0, generation := 1, firstSeq := 1, lastSeq := 9, chainIn := 0, unitsUsed := 40, newest := 0, order := 0 })] } }

/-- A packet of more than 9,216 bytes does not fit (R539). -/
theorem qm_long : qmFits live.ts 0 (List.replicate 9217 (0 : Byte)).length = false := by
  rw [List.length_replicate]; decide

/-- A save image of VF 1, and a module ready to take it. -/
def restoreHead : SaveImage := { imageLen := 144, function := 1, tenant := 5, mkId := 6, handleCounter := 0 }
def restoreImage : SaveImage := { restoreHead with tag := restoreHead.sealTag (List.replicate 32 7) }
def restoreReady : State := { live with key := { live.key with domains := [(1, { tenant := some 5, migKey := some (6, List.replicate 32 7) })] } }
theorem restore_opens : restoreImage.opens (List.replicate 32 7) = true := by
  have e : restoreImage.sealTag (List.replicate 32 7) = restoreHead.sealTag (List.replicate 32 7) := rfl
  simp only [SaveImage.opens, e]
  show (restoreHead.sealTag _ == restoreHead.sealTag _ && _) = true
  simp [restoreImage, restoreHead]
/-- The image passes every check of Table 12-10. -/
theorem restore_ok : restoreFault 1 144 restoreImage restoreReady = none := by
  have a : restoreImage.formOk 144 = true := by decide
  have b : ((restoreReady.dom 1).migKey.any fun k => restoreImage.opens k.2) = true := restore_opens
  have c : (restoreReady.dom 1).tenant = some restoreImage.tenant := by decide
  have d : (restoreReady.dom 1).migKey.map (·.1) = some restoreImage.mkId := by decide
  have e : notEmpty 1 restoreReady = false := by decide
  have f : restoreShort 1 restoreImage restoreReady = false := by decide
  have g : ¬ restoreImage.handleCounter < (restoreReady.dom 1).handles := by decide
  have h : ¬ 1 ≤ restoreReady.level := by decide
  simp only [restoreFault, a, b, c, d, e, f, g, h]
  decide

/-- The public keys of scalars 1 and 2, and a signature block of each on some bytes, with nonce 1 (FIPS 186-5). -/
def key1 : Bytes := beBytes 48 p384.gx ++ beBytes 48 p384.gy
def key2 : Bytes := p384Public 2
def signer1 : Nat := 100517009929231863680056272115600675690690544574977711891207571423775232751375
def signer2 : Nat := 107477941426038498114947137850344659820081864414675220519547850478423343030484
def signBy (role d : Nat) (bytes : Bytes) : SigBlock :=
  { role, algorithm := 1, signerId := if d = 1 then signer1 else signer2, r := p384.gx,
    s := (p384.digestInt (digest 2 bytes) + d * p384.gx) % p384.n }
/-- TARGET of the module of the tests, whose device identity key is the scalar 1. -/
def target1 : Bytes := [222, 58, 156, 138, 200, 59, 68, 155, 189, 202, 74, 88, 54, 200, 119, 197, 90, 133, 81, 166, 46, 77, 244, 249, 33, 9, 40, 222, 162, 177, 247, 15]

/-- A request signed by one role, and by two security officers; and a module that knows them. -/
def officer (n : Nat) : SigBlock := { role := 2, algorithm := 1, signerId := n }
def authOne (op role : Nat) (params : Bytes) : AuthReq :=
  let a : AuthReq := { request := op, domain := 0, sigCount := 1, counter := 1, target := target1, params, sigs := [] }
  { a with sigs := [signBy role 1 (requestBytes a)] }
def authTwo (op : Nat) (params : Bytes) : AuthReq :=
  let a : AuthReq := { request := op, domain := 0, sigCount := 2, counter := 1, target := target1, params, sigs := [] }
  { a with sigs := [signBy 2 1 (requestBytes a), signBy 2 2 (requestBytes a)] }
def roles12 (role : Nat) : List RoleRec := [{ role, key := key1, signerId := signer1, stamp := 0 }, { role, key := key2, signerId := signer2, stamp := 0 }]
def authLive : State := { live with key := { live.key with domains := [(0, { roles := roles12 2 })] } }
/-- A call with an input of as many bytes as a request of `n` signatures. -/
def authCall (op n : Nat) : Call := { f := 0, ring := 0, count := 0, hdr := { opcode := op, length := 64, inLen := 128 + 136 * n, outLen := 65536 } }

/-- A Temper message of one command, CREATE_DOMAIN of function 1 for tenant 5, sealed and signed for that module. -/
def temperOne : TemperMsg :=
  { msgLen := 488, domain := 0, sigCount := 2, cmdCount := 1, counter := 1, target := target1, ephemeral := key1, ctLen := 24,
    cipher := [176, 146, 245, 200, 228, 220, 72, 117, 74, 248, 244, 59, 161, 176, 158, 211, 58, 66, 246, 210, 254, 85, 180, 195],
    tag := [137, 32, 93, 8, 7, 108, 61, 100, 145, 124, 198, 39, 34, 52, 248, 169],
    sigs := [
      { role := 2, algorithm := 1, signerId := signer1, r := p384.gx, s := 36675220504572058804490601504548799130831072489560902058839502538291602335362325551373202587021423176937949517588042 },
      { role := 2, algorithm := 1, signerId := signer2, r := p384.gx, s := 23520249403977268860834718148972167217604256710204668778708213159589461790987112070996634332844848050034388340377486 }] }

theorem temper_cmds : temperCmds authLive temperOne = [.createDomain 1 0 5] := by decide +kernel

/-- A blob of handle 1 of the PF, and modules in which it is loaded. -/
def goodAttr : KeyAttr := { kind := 2, usage := 1, keyLen := 32 }
def goodBlob : Blob := sealUnder (live.dwk 0 0) 1 1 0 0 goodAttr (List.replicate 32 9)
theorem good_form : blobFormOk 1 goodBlob = true := by decide +kernel
theorem good_open : openUnder (dwkOf (List.replicate 32 7) 0 0) goodBlob = some (List.replicate 32 9) := by decide +kernel
theorem good_opens (s : State) (r : s.key.rootPresent = true) (e : (s.dom 0).epoch = 0) (k : s.dwk 0 0 = dwkOf (List.replicate 32 7) 0 0) :
    unwrapped s goodBlob = some (List.replicate 32 9) := by
  have c : s.key.rootPresent = true ∧ goodBlob.format = 1 ∧ goodBlob.epoch = (s.dom (handleFn goodBlob.handle)).epoch := ⟨r, rfl, e.symm⟩
  unfold unwrapped
  rw [if_pos c]
  exact (congrArg (fun x => openUnder x goodBlob) k).trans good_open
/-- The same without what is sealed in it. -/
def plainBlob : Blob := { handle := 1, epoch := 0, attr := goodAttr }
def liveKey : State := { live with key := { live.key with keys := [(1, { blob := plainBlob })] } }

/-- The PF's plan names handle 1, whose lifetime has passed. -/
def planOne : PlanImage := { version := 1, function := 0, base := 0, size := 16, keyCount := 1, imageLen := 0, keyOffset := 0, sigOffset := 0, entries := [(0, { keyCur := 1 })], keys := [{ handle := 1, vault := false }], sigEng := officer 1, sigSo := officer 1 }
def copyOne : PlanCopy := { version := 1, image := planOne, entries := [(0, { kind := 1, keyCur := 1 })] }
def lapsedLive : State := { liveKey with key := { live.key with keys := [(1, { blob := { plainBlob with attr := { goodAttr with notAfter := 1073741824 } } })] }, pln := { parts := [(0, { base := 0, size := 16, active := some copyOne })] } }

/-- An operation on engine 0, and modules in which it runs. -/
def engineOp : PkeOp := { call := call 0x0301, kind := 1, slotLen := 4, comp := { code := 0 } }
def engineAt (ph : PkePhase) : State := { live with pke := { engines := [(0, { inService := true, op := some engineOp, phase := ph, slotLen := 4 })] } }
def engineReady : State := { live with pke := { engines := [(0, { inService := true, op := some engineOp, phase := .main1, slotLen := 4, mctx := [(0, (7, 1))], slots := [(0, 7), (1, 3), (2, 3)] })] } }
def pkeCmd (op : Nat) : PkeCmd := { op, mctx := 0, dst := 3, a := 1, b := 2, len := 1, bit := 0 }

/-- Keys of the public-key kinds, a module with engines in service, and calls with a long input. -/
def pkBlob (kind : Nat) : Blob := { handle := 1, epoch := 0, attr := { kind, usage := 0x3FF, keyLen := 32 } }
def pkLive (kind : Nat) : State := { live with key := { live.key with keys := [(1, { blob := pkBlob kind })] }, pke := { engines := [(0, { inService := true }), (6, { inService := true })] } }
/-- The same with an X25519 key. -/
def agreeLive : State := { pkLive 0x15 with key := { live.key with keys := [(1, { blob := { pkBlob 0x15 with attr := { (pkBlob 0x15).attr with usage := 0x40 } } })] } }
def longCall (op : Nat) : Call := { f := 0, ring := 0, count := 0, hdr := { opcode := op, length := 64, inLen := 1024, outLen := 65536 } }
/-- The curve P-192. -/
def goodCurve : Curve := { form := 1, words := 3, pBits := 192, cofactor := 1, p := 0xFFFFFFFFFFFFFFFFFFFFFFFFFFFFFFFEFFFFFFFFFFFFFFFF, a := 0xFFFFFFFFFFFFFFFFFFFFFFFFFFFFFFFEFFFFFFFFFFFFFFFC, b := 0x64210519E59C80E70FA7E9AB72243049FEB8DEECC146B9B1, gx := 0x188DA80EB03090F67CBF20EB43A18800F4FF0AFD82FF1012, gy := 0x07192B95FFC8DA78631011ED6B24CDD573F977A11E794811, n := 0xFFFFFFFFFFFFFFFFFFFFFFFF99DEF836146BC9B1B4D22831 }
/-- A sequence of no command but its two ends: a modulus of one word in slot 0, a result of one word of it. -/
def seqBytes : Bytes := [0, 4, 1, 1, 2, 0, 0, 0, 0, 0, 1, 0x80, 0, 0, 1, 0, 0x0F, 0, 0, 0, 0x40, 0, 0, 0, 0x11, 0, 0, 0, 0x40, 0, 0, 0]

/-- A module with a key for MACs, and one with a TLS session 9 of the PF. -/
def macLive : State := { live with key := { live.key with keys := [(1, { blob := { pkBlob 2 with attr := { (pkBlob 2).attr with usage := 0x1F } } })] } }
def tlsOne (st : Nat) : TlsSession := { f := 0, key := 0, server := false, versions := 3, st }
def tlsLive (st : Nat) : State := { live with tls := { sessions := [(9, tlsOne st)] } }

/-- A frame that came at 5 s, with one copy waiting at port 1. -/
def frameOne (budget : Nat) (drop : Bool) : TxFrame := { id := 1, entry := 0, function := 0, stamp := 5000000000, quality := 0, ingressPort := 0, budget, lateDrop := drop, tag := 0, left := 1, result := 0, len := 64 }
def copyOut : TxCopy := { id := 1, frame := 1, port := 1, tclass := 0, at_ := 5000000000, len := 64 }
def frameLive (budget : Nat) (drop : Bool) (now : Nat) : State := { live with sck := { live.sck with now }, fe := { forwarding := true, frames := [frameOne budget drop], copies := [copyOut] } }

/-- A plan of no used entry for function 0 that passes every check, and a module whose partition 0 holds a copy of it. -/
def planNone : PlanImage := { version := 3, function := 0, base := 0, size := 256, keyCount := 0, imageLen := 0x8210, keyOffset := 0x8100, sigOffset := 0x8100, entries := [], keys := [], sigEng := { officer 1 with role := roleEngineer }, sigSo := { officer 2 with role := roleOfficer } }
def copyNone : PlanCopy := { version := 3, image := planNone, entries := [] }
def partOne (st : Standby) : Partition := { base := 0, size := 256, held := some copyNone, standby := st, vaultStandby := some 1 }
def partLive (st : Standby) : State := { live with pln := { parts := [(0, partOne st)] } }
/-- The same with an entry of an unkeyed stream in its active copy. -/
def entryOne : Entry := { kind := 1, tag := 7 }
def partEntry : State := { partLive .ready with pln := { parts := [(0, { partOne .ready with active := some { copyNone with entries := [(5, entryOne)] }, reload := [(5, 0)] })] } }

/-- A signed plan of one entry, unused, whose load a call has under way. -/
def planSigned : PlanImage := { planNone with size := 1, keyOffset := 0x180, sigOffset := 0x180, imageLen := 0x290, sigEng := { role := 1, algorithm := 1, signerId := signer1, r := p384.gx, s := 1768663798896410466032822118910452819870293788809003277093518672481934058050163238783702284354870136833573939202125 }, sigSo := { role := 2, algorithm := 1, signerId := signer2, r := p384.gx, s := 28015698894696099734655978863477434711723217279918216664909134573407452912788213327806090338330589923484446415934212 } }
def planLive : State := { live with
  hif := { live.hif with ctxs := [{ id := 7, f := 0, ring := 0, count := 0, hdr := (call 0x0601).hdr, phase := .dispatched }], funcs := [(0, { Func.initial 0 with dpCtx := some 7 })] },
  key := { live.key with domains := [(0, { roles := roles12 1 ++ roles12 2 })] },
  pln := { parts := [(0, { partOne .loading with size := 1, vaultIncoming := some 0 })] } }
theorem plan_checks : checkPlan planLive (call 0x0601).f 0 1 0x290 false planSigned = none := by decide +kernel

/-- Port 2 enabled with its link up, and the same with MACsec configured and its CAK loaded. -/
def portLive (cfg : Nat) (p : Port) : State := { live with rw := [(portKey 2, cfg)], fe := { forwarding := true, ports := [(2, p)] }, key := { live.key with keys := [(1, { blob := { pkBlob 0x30 with attr := { (pkBlob 0x30).attr with usage := 2 ^ useMka } } })] } }
/-- A counter-mode entry whose keys change at 5 s, in the active copy of partition 0. -/
def padOne : Entry := { kind := 1, profile := 0x24, keyCur := 1, keyNext := 1, flags := 1, rollAt := 5 * 2 ^ 30, lookahead := 4 }
def padLive (rt : EntryRt) (now : Nat) : State := { liveKey with sck := { live.sck with now }, fe := { forwarding := true, entries := [(5, rt)] }, pln := { parts := [(0, { partOne .ready with active := some { copyNone with entries := [(5, padOne)] } })] } }

/-- The work on a frame to be verified under that entry's key, its tag right. -/
def jobOne : Job := { f := 0, n := 5, e := { padOne with profile := 1, action := 1, maxLen := 9216 }, old := false, port := 2, stamp := 5000000000, quality := 0, pub := none, fr := { port := 2, stamp := 5000000000, len := 64, sec := { present := true, wellFormed := true, keyId := 0, spdu := 1, tag := (hmacFrom 0 0 []).take 10, span := [], payload := [] } } }

/-- An archive with one checkpoint. -/
def cpBody : Checkpoint := { cpSeq := 0, eventSeq := 0, eventChain := 0, ringSeq := 0, ringChain := 0, windowSeq := 0, windowChain := 0, lostTotal := 0, refusedRing := 0, refusedWindow := 0, budgetUsed := 0, govLevel := 0 }
def cpRecord : Record := { typ := 1, units := 6, log := 0, owner := 0x7E, quality := 0, flags := 0, seq := 8, stamp := 0, bodyLen := 0, body := .checkpoint cpBody }
def cpLive : State := { liveArc with arc := { liveArc.arc with log0 := { liveArc.arc.log0 with records := [cpRecord] } }, key := authLive.key }

/-- A release over that checkpoint. -/
def releaseAuth : AuthReq := authTwo 0x0703 (List.replicate 64 0)

/-- The module in service is well kept. -/
theorem live_inv : Inv live :=
  ⟨⟨rfl, by decide, by decide⟩, ⟨rfl, fun _ => Nat.zero_le _⟩, by decide, by decide, rfl, by decide, by decide, rfl, rfl, rfl⟩

/-- An in-flight context of an entry with an input buffer. -/
def ctxIn : Ctx := { id := 7, f := 0, ring := 0, count := 0, hdr := { opcode := 0x0201, length := 64, inLen := 64, outLen := 32 }, phase := .queued }


/-- A ring with one entry before D: an ARCHIVE_SYNC-like call of one slot in host memory, or one whose read fails. -/
def entryRaw : RawEntry := { slots := [1, 0, 1, 0] ++ List.replicate 60 0 }
def oneEntry : HostMem := [(0, 0, 0, entryRaw)]
def badEntry : HostMem := [(0, 0, 0, { entryRaw with fetchError := true })]
def ringLive : State := { live with hif := { rings := [(0, { sizeExp := 6, weight := 1, burst := 1, vector := 1, enabled := true, d := 1 })], funcs := [(0, { Func.initial 0 with bme := true })] } }

/-- A debug token signed by the service key, the scalar 1 here, for a module in Returned. -/
def goodToken : DebugToken :=
  let t : DebugToken := { sigCount := 1, st := 3, scope := 3, duration := 60, target := target1, bootId := 0, sigs := [] }
  { t with sigs := [signBy 5 1 (tokenBytes t)] }
def tokenLive : State := { live with lcc := { st := .returned }, ident := { live.ident with service := key1 } }

/-- A firmware image signed by the scalar 1. -/
def fwOne : FwImage := { sec := 1, version := 1, length := 65536, digest := List.replicate 48 0, sig := { role := 5, algorithm := 1, signerId := signer1, r := p384.gx, s := p384.gx % p384.n } }

/-- The hypotheses of every clause of ArchiveRecordsAndWindows are met. -/
theorem witness_ArchiveRecordsAndWindows :
    (∃ (st : Staged) (rest : List Staged) (s : State), (s.running = true) ∧ (s.arc.ready = true) ∧ (s.arc.staging = st :: rest) ∧ (hasRoom st.log st.typ st.flags (unitsFor (recBytes st.body)) s = true)) ∧
    (∃ (s : State), (s.running = true) ∧ (s.sck.now % 1000000000 = 0) ∧ (s.arc.ready = true) ∧ (hasRoom 0 1 0 6 s = true)) ∧
    (∃ (entry cause : Nat) (x : Summary) (s : State), (s.running = true) ∧ (s.arc.summaries.find? (fun y => y.entry == entry && y.cause == cause) = some x) ∧ (x.opened + summaryInterval s ≤ s.sck.now)) ∧
    (∃ (number : Nat) (w : CapWindow) (s : State), (s.running = true) ∧ (s.fe.forwarding = true) ∧ (s.arc.windows.find? (fun x => x.number == number) = some w) ∧ (w.opened = false) ∧ (w.start ≤ s.sck.now) ∧ (s.sck.now < w.finish)) ∧
    (∃ (number : Nat) (w : CapWindow) (s : State), (s.running = true) ∧ (s.arc.windows.find? (fun x => x.number == number) = some w) ∧ (w.opened = true) ∧ (w.finish + 1000000 ≤ s.sck.now) ∧ (windowWaits w s = false)) ∧
    (∃ (k : Nat) (s : State), (s.running = true) ∧ (s.sck.rtcCount / (32768 * 3600) = s.arc.hourIndex + 1 + k) ∧ (k < 720)) :=
  ⟨⟨{ log := 0, typ := 0x31, owner := 0x7E, quality := 0, stamp := 0, body := .security 1 0 0 0 }, [],
    { liveArc with arc := { liveArc.arc with staging := [{ log := 0, typ := 0x31, owner := 0x7E, quality := 0, stamp := 0, body := .security 1 0 0 0 }] } }, by decide, by decide, by decide, by decide⟩,
   ⟨liveArc, by decide, by decide, by decide, by decide⟩,
   ⟨1, 2, { entry := 1, cause := 2, owner := 0, quality := 0, first := 0, last := 0, opened := 0, ev := { entry := 1, tag := 0, cause := 2, port := 0, action := 0 } },
    { liveArc with arc := { liveArc.arc with summaries := [{ entry := 1, cause := 2, owner := 0, quality := 0, first := 0, last := 0, opened := 0, ev := { entry := 1, tag := 0, cause := 2, port := 0, action := 0 } }] } }, by decide, by decide, by decide⟩,
   ⟨3, { number := 3, function := 0, group := 1, start := 0, finish := 6000000000 },
    { liveArc with arc := { liveArc.arc with windows := [{ number := 3, function := 0, group := 1, start := 0, finish := 6000000000 }] } }, by decide, by decide, by decide, by decide, by decide, by decide⟩,
   ⟨3, { number := 3, function := 0, group := 1, start := 0, finish := 4000000000, opened := true },
    { liveArc with arc := { liveArc.arc with windows := [{ number := 3, function := 0, group := 1, start := 0, finish := 4000000000, opened := true }] } }, by decide, by decide, by decide, by decide, by decide⟩,
   ⟨0, { liveArc with sck := { live.sck with rtcCount := 117964800 } }, by decide, by decide, by decide⟩⟩

/-- The hypotheses of every clause of QueuesAndDelayLists are met. -/
theorem witness_QueuesAndDelayLists :
    (∃ (queue port : Nat) (data : Bytes) (s : State), (s.running = true) ∧ (qmFits s.ts queue data.length = true)) ∧
    (∃ (queue port : Nat) (data : Bytes) (s : State), (s.running = true) ∧ (qmFits s.ts queue data.length = false)) ∧
    (∃ (queue i : Nat) (p : Packet) (s : State), (s.running = true) ∧ (readIndex (s.queue queue).packets 0 = some (i, p)) ∧ (p.lostAt = none)) ∧
    (∃ (queue : Nat) (s : State), (s.running = true) ∧ (readIndex (s.queue queue).packets 0 = none)) ∧
    (∃ (queue i : Nat) (p : Packet) (s : State), (s.running = true) ∧ (readIndex (s.queue queue).packets 0 = some (i, p)) ∧ (p.started = true)) ∧
    (∃ (list : Nat) (lost : List Ctx) (s : State), (s.running = true) ∧ (s.ts.rebuilding.contains list = true) ∧ (lost = s.hif.ctxs.filter (fun c => c.phase == .delayed && !c.lifted &&
    !(s.ts.delay0 ++ s.ts.delay1 ++ s.ts.delay2 ++ s.ts.delay3).any (fun e => e.ctx == c.id))) ∧ (lost.all (fun c => decide (s.sck.now < stampNs c.hdr.notBefore)) = true) ∧ ((s.ts.delay0 ++ s.ts.delay1 ++ s.ts.delay2 ++ s.ts.delay3).all (fun e => decide (s.sck.now < e.due)) = true)) ∧
    (∃ (core value : Nat) (s : State), (reaches 0 s = true) ∧ (core < s.coreCount) ∧ ((List.range 14).all (fun g => (List.range s.coreCount).any fun c =>
    (if c = core then fieldOf value 13 0 else s.soon (regKey 0 (0x4840 + 4 * c)) (s.coreGroups c)).testBit g) = true) ∧ (s.pwr.phase ≠ 7)) ∧
    (∃ (core value : Nat) (s : State), (reaches 0 s = true) ∧ (core < s.coreCount) ∧ ((List.range 14).all (fun g => (List.range s.coreCount).any fun c =>
    (if c = core then fieldOf value 13 0 else s.soon (regKey 0 (0x4840 + 4 * c)) (s.coreGroups c)).testBit g) = false)) :=
  ⟨⟨0, 0, [1, 2, 3], live, by decide, by decide⟩,
   ⟨0, 0, List.replicate 9217 0, live, by decide, qm_long⟩,
   ⟨20, 0, { len := 3, data := [1, 2, 3] }, { live with ts := { queues := [(20, { packets := [{ len := 3, data := [1, 2, 3] }] })] } }, by decide, by decide, by decide⟩,
   ⟨20, live, by decide, by decide⟩,
   ⟨20, 0, { len := 100, started := true, readPos := 64 }, { live with ts := { queues := [(20, { packets := [{ len := 100, started := true, readPos := 64 }] })] } }, by decide, by decide, by decide⟩,
   ⟨1, [], { live with ts := { rebuilding := [1] } }, by decide, by decide, by decide, by decide, by decide⟩,
   ⟨0, 0x3FFF, live, by decide, by decide, by decide, by decide⟩,
   ⟨0, 0, { live with writes := (List.range 48).map fun c => (regKey 0 (0x4840 + 4 * c), 0) }, by decide, by decide, by decide⟩⟩

/-- The hypotheses of every clause of CoresTakeAndCommitWork are met. -/
theorem witness_CoresTakeAndCommitWork :
    (∃ (core g : Nat) (i : WorkItem) (s s1 : State), (s.running = true ∧ s.regionOff 4 = false) ∧ ((s.coreRt core).st = .waiting ∧ (s.coreRt core).halted = false ∧ (s.coreRt core).testing = false) ∧ (s1 = (if creditOut s core 16 then refillCredit 14 s else s)) ∧ (searchGroup s1 core ((s1.ts.lastGroup + 1) % 16) 16 = some g) ∧ (groupHead s1 g = some i) ∧ (∀ id c, i.kind = .ctx id → s1.ctx? id = some c → dispatchRefusal s1 c = none)) ∧
    (∃ (g : Nat) (s : State), (g < 14)) ∧
    (∃ (core g id code : Nat) (i : WorkItem) (c : Ctx) (b : Bool) (s s1 : State), (s.running = true ∧ s.regionOff 4 = false) ∧ ((s.coreRt core).st = .waiting ∧ (s.coreRt core).halted = false ∧ (s.coreRt core).testing = false) ∧ (s1 = (if creditOut s core 16 then refillCredit 14 s else s)) ∧ (searchGroup s1 core ((s1.ts.lastGroup + 1) % 16) 16 = some g ∧ groupHead s1 g = some i) ∧ (i.kind = .ctx id ∧ s1.ctx? id = some c) ∧ (c.hdr.notBefore ≠ 0 ∧ (c.hdr.opcode = 0x0802 ∨ c.hdr.opcode = 0x0609)) ∧ (if c.hdr.latenessTol ≠ 0xFFFFFFFF ∧ c.hdr.latenessTol < (s1.sck.now - c.dueTick) / 1000 then code = 0x0401 else (s1.sck.valid = false ∧ code = 0x0402))) ∧
    (∃ (core g id : Nat) (i : WorkItem) (c : Ctx) (s s1 : State), (s.running = true ∧ s.regionOff 4 = false) ∧ ((s.coreRt core).st = .waiting ∧ (s.coreRt core).halted = false ∧ (s.coreRt core).testing = false) ∧ (s1 = (if creditOut s core 16 then refillCredit 14 s else s)) ∧ (searchGroup s1 core ((s1.ts.lastGroup + 1) % 16) 16 = some g ∧ groupHead s1 g = some i) ∧ (i.kind = .ctx id ∧ s1.ctx? id = some c) ∧ (0 < c.hdr.inLen ∧ c.hdr.notBefore = 0)) ∧
    (∃ (core item epoch q : Nat) (i : WorkItem) (s : State), (s.running = true) ∧ (s.item? item = some i) ∧ (i.epoch = epoch ∧ i.core = some core ∧ i.kind = .packet q) ∧ ((s.coreRt core).st = .running)) ∧
    (∃ (core item epoch id : Nat) (i : WorkItem) (x : Ctx) (comp : Completion) (s : State), (s.running = true) ∧ (s.item? item = some i) ∧ (i.epoch = epoch ∧ i.core = some core ∧ i.kind = .ctx id) ∧ (s.ctx? id = some x) ∧ (x.comp = some comp ∧ x.dataPort = false)) ∧
    (∃ (core item epoch : Nat) (i : WorkItem) (s : State), (s.running = true) ∧ (s.item? item = some i) ∧ (i.epoch ≠ epoch)) :=
  ⟨⟨0, 0, { id := 0, kind := .task 0, group := 0 }, { live with ts := { cores := [(0, { st := .waiting })], credit := [(0, 1)], ready := [(0, [0])], items := [{ id := 0, kind := .task 0, group := 0 }], nextItem := 1 } },
    { live with ts := { cores := [(0, { st := .waiting })], credit := [(0, 1)], ready := [(0, [0])], items := [{ id := 0, kind := .task 0, group := 0 }], nextItem := 1 } }, by decide, by decide, by decide, by decide, by decide, (by intro id c h; cases h)⟩,
   ⟨3, live, by decide⟩,
   ⟨0, 2, 7, 0x0401, { id := 0, kind := .ctx 7, group := 2 }, { ctxIn with hdr := { ctxIn.hdr with opcode := 0x0609, notBefore := 1, latenessTol := 5 } }, false,
    { live with ts := { cores := [(0, { st := .waiting })], credit := [(2, 1)], ready := [(2, [0])], items := [{ id := 0, kind := .ctx 7, group := 2 }], nextItem := 1 }, hif := { ctxs := [{ ctxIn with hdr := { ctxIn.hdr with opcode := 0x0609, notBefore := 1, latenessTol := 5 } }] } },
    { live with ts := { cores := [(0, { st := .waiting })], credit := [(2, 1)], ready := [(2, [0])], items := [{ id := 0, kind := .ctx 7, group := 2 }], nextItem := 1 }, hif := { ctxs := [{ ctxIn with hdr := { ctxIn.hdr with opcode := 0x0609, notBefore := 1, latenessTol := 5 } }] } }, by decide, by decide, by decide, by decide, by decide, by decide, by decide⟩,
   ⟨0, 0, 7, { id := 0, kind := .ctx 7, group := 0 }, ctxIn,
    { live with ts := { cores := [(0, { st := .waiting })], credit := [(0, 1)], ready := [(0, [0])], items := [{ id := 0, kind := .ctx 7, group := 0 }], nextItem := 1 }, hif := { ctxs := [ctxIn] } },
    { live with ts := { cores := [(0, { st := .waiting })], credit := [(0, 1)], ready := [(0, [0])], items := [{ id := 0, kind := .ctx 7, group := 0 }], nextItem := 1 }, hif := { ctxs := [ctxIn] } }, by decide, by decide, by decide, by decide, by decide, by decide⟩,
   ⟨0, 0, 1, 20, { id := 0, kind := .packet 20, group := 0, epoch := 1, core := some 0 },
    { live with ts := { cores := [(0, { st := .running, item := some 0 })], items := [{ id := 0, kind := .packet 20, group := 0, epoch := 1, core := some 0 }] } }, by decide, by decide, by decide, by decide⟩,
   ⟨0, 0, 1, 7, { id := 0, kind := .ctx 7, group := 0, epoch := 1, core := some 0 },
    { id := 7, f := 0, ring := 0, count := 0, hdr := { opcode := 1, length := 1 }, phase := .staged, comp := some { code := 0 } }, { code := 0 },
    { live with ts := { items := [{ id := 0, kind := .ctx 7, group := 0, epoch := 1, core := some 0 }] },
                hif := { ctxs := [{ id := 7, f := 0, ring := 0, count := 0, hdr := { opcode := 1, length := 1 }, phase := .staged, comp := some { code := 0 } }] } }, by decide, by decide, by decide, by decide, by decide⟩,
   ⟨0, 0, 1, { id := 0, kind := .packet 20, group := 0, epoch := 2 },
    { live with ts := { items := [{ id := 0, kind := .packet 20, group := 0, epoch := 2 }] } }, by decide, by decide, by decide⟩⟩

/-- The hypotheses of every clause of CoresFailAndReturn are met. -/
theorem witness_CoresFailAndReturn :
    (∃ (core id : Nat) (i : WorkItem) (s : State), (s.running = true) ∧ ((s.coreRt core).st = .running ∧ (s.coreRt core).item = some id) ∧ (s.item? id = some i) ∧ ((s.coreRt core).leaseAt + s.groupLease (s.coreRt core).group ≤ s.sck.now ∧ coreBlocked s (s.coreRt core) = false)) ∧
    (∃ (core : Nat) (s : State), (s.running = true) ∧ ((s.coreRt core).st = .restarting ∧ (s.coreRt core).retired = none)) ∧
    (∃ (core g e n : Nat) (s : State), (s.running = true) ∧ ((s.coreRt core).st = .restarting ∨ (s.coreRt core).st = .outOfService) ∧ ((s.coreRt core).retired = some (g, e, n))) ∧
    (∃ (core id : Nat) (i : WorkItem) (s : State), (s.running = true) ∧ ((s.coreRt core).st = .running ∧ (s.coreRt core).item = some id) ∧ (s.item? id = some i)) ∧
    (∃ (core : Nat) (s : State), (s.running = true) ∧ ((s.coreRt core).st = .waiting ∧ (s.coreRt core).item = none)) :=
  ⟨⟨0, 0, { id := 0, kind := .task 0, group := 14, core := some 0 }, { live with ts := { cores := [(0, { st := .running, item := some 0 })], items := [{ id := 0, kind := .task 0, group := 14, core := some 0 }] } }, by decide, by decide, by decide, by decide⟩,
   ⟨3, { live with ts := { cores := [(3, { st := .restarting })] } }, by decide, by decide⟩,
   ⟨3, 1, 7, 0, { live with ts := { cores := [(3, { st := .restarting, retired := some (1, 7, 0) })] } }, by decide, by decide, by decide⟩,
   ⟨0, 0, { id := 0, kind := .task 0, group := 3, core := some 0 }, { live with ts := { cores := [(0, { st := .running, item := some 0 })], items := [{ id := 0, kind := .task 0, group := 3, core := some 0 }] } }, by decide, by decide, by decide⟩,
   ⟨0, { live with ts := { cores := [(0, { st := .waiting })] } }, by decide, by decide⟩⟩

/-- The hypotheses of every clause of RingsFetchAndFinish are met. -/
theorem witness_RingsFetchAndFinish :
    (∃ (f ring value : Nat) (s : State), (reaches f s = true) ∧ ((s.func f).halted = false) ∧ ((s.ring f ring).enabled = true) ∧ (doorbellOk (s.ring f ring) (value % 2 ^ 32) = true)) ∧
    (∃ (f ring value : Nat) (s : State), (reaches f s = true) ∧ ((s.func f).halted = false) ∧ ((s.ring f ring).enabled = true) ∧ (doorbellOk (s.ring f ring) (value % 2 ^ 32) = false)) ∧
    (∃ (f ring value : Nat) (s : State), (reaches f s = true) ∧ ((s.func f).halted = true ∨ (s.ring f ring).enabled = false)) ∧
    (∃ (mem : HostMem) (s : State), (s.running = true) ∧ (Tbl.keys (fun k _ => eligible mem s (k / 64) (k % 64)) s.hif.rings = [])) ∧
    (∃ (mem : HostMem) (f ring : Nat) (e : RawEntry) (row : OpRow) (s : State), (s.running = true) ∧ (Tbl.keys (fun k _ => eligible mem s (k / 64) (k % 64)) s.hif.rings = [f * 64 + ring] ∧ ring < 64 ∧ eligible mem s f ring = true) ∧ (peek mem s f ring = .entry e ∧ countSub (s.ring f ring).d (s.ring f ring).f = e.hdr.length) ∧ (0 < (s.ring f ring).weight ∧ 0 < (s.ring f ring).burst ∧ 0 < mem.length) ∧ (ctxFree s f = true ∧ opRow e.hdr.opcode = some row ∧ acceptRefusal s f e row = none ∧ e.hdr.notBefore = 0)) ∧
    (∃ (mem : HostMem) (f ring cause op : Nat) (s : State), (s.running = true) ∧ (Tbl.keys (fun k _ => eligible mem s (k / 64) (k % 64)) s.hif.rings = [f * 64 + ring] ∧ ring < 64 ∧ eligible mem s f ring = true) ∧ (peek mem s f ring = .bad cause op) ∧ (0 < (s.ring f ring).weight ∧ 0 < (s.ring f ring).burst)) ∧
    (∃ (f ring len : Nat) (s : State), (s.running = true ∧ s.serviceOpen = true) ∧ ((s.ring f ring).enabled = true ∧ (s.ring f ring).draining = false) ∧ ((s.func f).halted = false ∧ (s.func f).masters = true) ∧ (1 ≤ len ∧ len ≤ 64 ∧ len ≤ countSub (s.ring f ring).d (s.ring f ring).f) ∧ ((s.ring f ring).f % (s.ring f ring).slots + len ≤ (s.ring f ring).slots)) ∧
    (∃ (f ring n k : Nat) (notify send : Bool) (rest : List (Nat × Nat × Bool × Bool × Bool)) (s : State), (s.running = true) ∧ (finishedRun (s.ring f ring).entries = (n, k, notify, rest) ∧ n ≠ 0) ∧ (send = (decide (0 < k) && (notify || (decide (0 < (s.ring f ring).modCount) && decide ((s.ring f ring).modCount ≤ (s.ring f ring).unsent + k)))))) ∧
    (∃ (f ring : Nat) (s : State), (s.running = true) ∧ (0 < (s.ring f ring).unsent ∧ 0 < (s.ring f ring).modTime ∧ (s.ring f ring).firstAt + (s.ring f ring).modTime * 1000 ≤ s.sck.now)) ∧
    (∃ (id : Nat) (x : Ctx) (s : State), (s.running = true) ∧ (s.ctx? id = some x) ∧ (x.hdr.completeBy ≠ 0 ∧ stampNs x.hdr.completeBy ≤ s.sck.now ∧ x.lifted = false) ∧ (x.phase = .queued ∨ x.phase = .delayed ∨ x.phase = .held)) :=
  ⟨⟨0, 0, 64, { live with hif := { rings := [(0, { sizeExp := 6, weight := 1, burst := 1, vector := 1, enabled := true })] } }, by decide, by decide, by decide, by decide⟩,
   ⟨0, 0, 65, { live with hif := { rings := [(0, { sizeExp := 6, weight := 1, burst := 1, vector := 1, enabled := true })] } }, by decide, by decide, by decide, by decide⟩,
   ⟨0, 0, 1, live, by decide, by decide⟩,
   ⟨[], live, by decide, by decide⟩,
   ⟨oneEntry, 0, 0, entryRaw, { minLen := 1, issuer := 0, restrict := false }, ringLive, by decide, by decide, by decide, by decide, by decide⟩,
   ⟨badEntry, 0, 0, 8, 0, ringLive, by decide, by decide, by decide, by decide⟩,
   ⟨0, 0, 2, { live with hif := { rings := [(0, { sizeExp := 6, weight := 1, burst := 1, vector := 1, enabled := true, d := 2 })], funcs := [(0, { Func.initial 0 with bme := true })] } }, by decide, by decide, by decide, by decide, by decide⟩,
   ⟨0, 0, 1, 1, false, false, [], { live with hif := { rings := [(0, { enabled := true, entries := [(0, 1, true, false, false)] })] } }, by decide, ⟨rfl, by decide⟩, by decide⟩,
   ⟨0, 0, { live with hif := { rings := [(0, { enabled := true, unsent := 1, modTime := 1 })] } }, by decide, by decide⟩,
   ⟨7, { id := 7, f := 0, ring := 0, count := 0, hdr := { opcode := 1, length := 1, completeBy := 1073741824 }, phase := .queued },
    { live with hif := { ctxs := [{ id := 7, f := 0, ring := 0, count := 0, hdr := { opcode := 1, length := 1, completeBy := 1073741824 }, phase := .queued }] } }, by decide, by decide, by decide, by decide⟩⟩

/-- The hypotheses of every clause of RingsEnableAndDrain are met. -/
theorem witness_RingsEnableAndDrain :
    (∃ (f ring cfg : Nat) (s : State), (reaches f s = true) ∧ ((s.ring f ring).enabled = false ∧ (s.ring f ring).draining = false) ∧ (enableCause s f ring (ringCfg (s.ring f ring) cfg) = 0)) ∧
    (∃ (f ring cfg : Nat) (s : State), (reaches f s = true) ∧ ((s.ring f ring).enabled = false ∧ (s.ring f ring).draining = false) ∧ (enableCause s f ring (ringCfg (s.ring f ring) cfg) ≠ 0)) ∧
    (∃ (f ring cfg : Nat) (s : State), (reaches f s = true) ∧ ((s.ring f ring).enabled = false ∧ (s.ring f ring).draining = true)) ∧
    (∃ (f ring : Nat) (s : State), (reaches f s = true) ∧ ((s.ring f ring).enabled = true) ∧ (s.hif.ctxs.all (fun c => !delayedOn f ring c) = true)) ∧
    (∃ (f ring : Nat) (x : Ctx) (s s1 : State), (reaches f s = true) ∧ ((s.ring f ring).enabled = true) ∧ (s.hif.ctxs = [x] ∧ delayedOn f ring x = true) ∧ (s1 = writeMirror f ring (s.setRing f ring { s.ring f ring with enabled := false, draining := true }))) ∧
    (∃ (f ring : Nat) (s : State), (s.running = true) ∧ ((s.ring f ring).draining = true ∧ (s.ring f ring).entries = [])) :=
  ⟨⟨0, 0, 0x01010106, live, by decide, by decide, by decide⟩,
   ⟨0, 0, 0x01010105, live, by decide, by decide, by decide⟩,
   ⟨0, 0, 0x01010106, { live with hif := { rings := [(0, { draining := true })] } }, by decide, by decide⟩,
   ⟨0, 0, { live with hif := { rings := [(0, { enabled := true })] } }, by decide, by decide, by decide⟩,
   ⟨0, 0, { ctxIn with phase := .delayed }, { live with hif := { rings := [(0, { enabled := true })], ctxs := [{ ctxIn with phase := .delayed }] } }, writeMirror 0 0 ({ live with hif := { rings := [(0, { enabled := true })], ctxs := [{ ctxIn with phase := .delayed }] } }.setRing 0 0 { enabled := false, draining := true }), by decide, by decide, by decide, rfl⟩,
   ⟨0, 0, { live with hif := { rings := [(0, { draining := true })] } }, by decide, by decide⟩⟩

/-- The hypotheses of every clause of DataPort are met. -/
theorem witness_DataPort :
    (∃ (f : Nat) (len out : Option Nat) (x : Ctx) (s : State), (s.running = true) ∧ ((s.func f).dpState = 0) ∧ (nextPortCtx s f = some x) ∧ (len = (if isInbound x.hdr.opcode then some (inboundLength x) else out)) ∧ (len ≠ some 0)) ∧
    (∃ (f : Nat) (out : Option Nat) (x : Ctx) (s : State), (s.running = true) ∧ ((s.func f).dpState = 0) ∧ (nextPortCtx s f = some x) ∧ ((if isInbound x.hdr.opcode then some (inboundLength x) else out) = some 0)) ∧
    (∃ (f offset p pos : Nat) (bytes : Bytes) (buf left : Tbl Byte) (s : State), (reaches f s = true ∧ (s.func f).dpState = 1) ∧ (p = apertureTo (s.func f).dpPos offset ∧ p % 4 = 0 ∧ bytes.length % 4 = 0 ∧ p < (s.func f).dpLength) ∧ (storeBytes (s.func f).dpPos (s.func f).dpLimit (s.func f).dpLength p bytes (s.func f).dpBuf = some buf) ∧ (advancePos buf.length (s.func f).dpPos buf = (pos, left) ∧ pos ≠ (s.func f).dpLength)) ∧
    (∃ (f : Nat) (b0 b1 b2 b3 : Byte) (s : State), (reaches f s = true) ∧ ((s.func f).dpState = 1 ∧ (s.func f).dpPos = 0 ∧ (s.func f).dpBuf = []) ∧ (4 < (s.func f).dpLength ∧ 4 ≤ (s.func f).dpLimit)) ∧
    (∃ (f offset p id : Nat) (bytes : Bytes) (buf left : Tbl Byte) (x : Ctx) (s : State), (reaches f s = true ∧ (s.func f).dpState = 1 ∧ (s.func f).dpCtx = some id ∧ s.ctx? id = some x) ∧ (p = apertureTo (s.func f).dpPos offset ∧ p % 4 = 0 ∧ bytes.length % 4 = 0 ∧ p < (s.func f).dpLength) ∧ (storeBytes (s.func f).dpPos (s.func f).dpLimit (s.func f).dpLength p bytes (s.func f).dpBuf = some buf) ∧ (advancePos buf.length (s.func f).dpPos buf = ((s.func f).dpLength, left))) ∧
    (∃ (f offset p : Nat) (bytes : Bytes) (s : State), (reaches f s = true ∧ (s.func f).dpState = 1) ∧ (p = apertureTo (s.func f).dpPos offset) ∧ ((p % 4 ≠ 0 ∨ bytes.length % 4 ≠ 0 ∨ (s.func f).dpLength ≤ p) ∨ storeBytes (s.func f).dpPos (s.func f).dpLimit (s.func f).dpLength p bytes (s.func f).dpBuf = none)) ∧
    (∃ (f offset len : Nat) (s : State), (reaches f s = true) ∧ ((s.func f).dpState = 2) ∧ (0 < len ∧ len ≤ 4096) ∧ (apertureTo (s.func f).dpPos offset = (s.func f).dpPos) ∧ ((s.func f).dpPos + len ≤ (s.func f).dpLimit) ∧ ((s.func f).dpPos + len ≠ (s.func f).dpLength)) ∧
    (∃ (f offset len id : Nat) (x : Ctx) (s : State), (reaches f s = true) ∧ ((s.func f).dpState = 2 ∧ (s.func f).dpCtx = some id ∧ s.ctx? id = some x) ∧ (0 < len ∧ len ≤ 4096) ∧ (apertureTo (s.func f).dpPos offset = (s.func f).dpPos) ∧ ((s.func f).dpPos + len ≤ (s.func f).dpLimit) ∧ ((s.func f).dpPos + len = (s.func f).dpLength)) ∧
    (∃ (f offset len : Nat) (s : State), (reaches f s = true ∧ len ≤ 4096) ∧ ((s.func f).dpState = 2 → apertureTo (s.func f).dpPos offset ≠ (s.func f).dpPos ∨ (s.func f).dpLimit < (s.func f).dpPos + len)) ∧
    (∃ (f id : Nat) (x : Ctx) (s : State), (reaches f s = true) ∧ ((s.func f).dpState ≠ 0 ∧ (s.func f).dpCtx = some id ∧ s.ctx? id = some x)) :=
  ⟨⟨0, some 256, some 256, { id := 7, f := 0, ring := 0, count := 0, hdr := { opcode := 0x0605, length := 1 }, phase := .queued, dataPort := true },
    { live with hif := { ctxs := [{ id := 7, f := 0, ring := 0, count := 0, hdr := { opcode := 0x0605, length := 1 }, phase := .queued, dataPort := true }] } }, by decide, by decide, by decide, by decide, by decide⟩,
   ⟨0, some 0, { id := 7, f := 0, ring := 0, count := 0, hdr := { opcode := 0x0605, length := 1 }, phase := .queued, dataPort := true },
    { live with hif := { ctxs := [{ id := 7, f := 0, ring := 0, count := 0, hdr := { opcode := 0x0605, length := 1 }, phase := .queued, dataPort := true }] } }, by decide, by decide, by decide, by decide⟩,
   ⟨0, 0, 0, 4, [1, 2, 3, 4], [(0, 1), (1, 2), (2, 3), (3, 4)], [], { live with hif := { funcs := [(0, { Func.initial 0 with dpState := 1, dpLength := 8, dpLimit := 8 })] } }, by decide, by decide, by decide, by decide⟩,
   ⟨0, 1, 2, 3, 4, { live with hif := { funcs := [(0, { Func.initial 0 with dpState := 1, dpLength := 8, dpLimit := 8 })] } }, by decide, by decide, by decide⟩,
   ⟨0, 0, 0, 7, [1, 2, 3, 4], [(0, 1), (1, 2), (2, 3), (3, 4)], [], { ctxIn with dataPort := true }, { live with hif := { ctxs := [{ ctxIn with dataPort := true }], funcs := [(0, { Func.initial 0 with dpState := 1, dpLength := 4, dpLimit := 4, dpCtx := some 7 })] } }, by decide, by decide, by decide, by decide⟩,
   ⟨0, 2, 2, [1], { live with hif := { funcs := [(0, { Func.initial 0 with dpState := 1, dpLength := 8, dpLimit := 8 })] } }, by decide, by decide, by decide⟩,
   ⟨0, 0, 4, { live with hif := { funcs := [(0, { Func.initial 0 with dpState := 2, dpLength := 8, dpLimit := 8, dpOut := [1, 2, 3, 4, 5, 6, 7, 8] })] } }, by decide, by decide, by decide, by decide, by decide, by decide⟩,
   ⟨0, 0, 4, 7, { ctxIn with dataPort := true }, { live with hif := { ctxs := [{ ctxIn with dataPort := true }], funcs := [(0, { Func.initial 0 with dpState := 2, dpLength := 4, dpLimit := 4, dpOut := [1, 2, 3, 4], dpCtx := some 7 })] } }, by decide, by decide, by decide, by decide, by decide, by decide⟩,
   ⟨0, 0, 4, live, by decide, by decide⟩,
   ⟨0, 7, { ctxIn with dataPort := true }, { live with sck := { live.sck with now := 20000000000 }, hif := { ctxs := [{ ctxIn with dataPort := true }], funcs := [(0, { Func.initial 0 with dpState := 2, dpCtx := some 7 })] } }, by decide, by decide⟩⟩

/-- The hypotheses of every clause of PciePower are met. -/
theorem witness_PciePower :
    (∃ (f : Nat) (s : State), (s.running = true) ∧ ((s.func f).d3hot = false)) ∧
    (∃ (f : Nat) (o : Out) (s : State), (s.running = true)) ∧
    (∃ (f : Nat) (s : State), (s.running = true)) ∧
    (∃ (f vector : Nat) (s : State), (s.running = true) ∧ ((s.func f).msix.enabled = true ∧ (s.func f).msix.functionMask = false) ∧ ((s.func f).msix.pending.contains vector = true) ∧ ((s.func f).masters = true)) ∧
    (∃ (f : Nat) (s : State), (s.running = true) ∧ ((s.func f).masters = true)) :=
  ⟨⟨0, { live with hif := { funcs := [(0, { Func.initial 0 with heldWrites := [.unsupported 0] })] } }, by decide, by decide⟩,
   ⟨0, .unsupported 0, live, by decide⟩,
   ⟨0, { live with hif := { funcs := [(0, { Func.initial 0 with bme := true, heldWrites := [.unsupported 0] })] } }, by decide⟩,
   ⟨0, 3, { live with hif := { funcs := [(0, { Func.initial 0 with bme := true, msix := { enabled := true, functionMask := false, pending := [3] } })] } }, by decide, by decide, by decide, by decide⟩,
   ⟨0, { live with hif := { funcs := [(0, { Func.initial 0 with bme := true, msix := { pending := [3] } })] } }, by decide, by decide⟩⟩

/-- The hypotheses of every clause of VirtualFunctionsSetUpAndMigrate are met. -/
theorem witness_VirtualFunctionsSetUpAndMigrate :
    (∃ (q : Call) (fn rings scope ctxs slots delays : Nat) (s x : State), (ready 0x0C01 q 0 s = true) ∧ (setupFault fn rings scope ctxs slots delays s = none) ∧ (x = s.setFunc fn { s.func fn with setUp := true, ringsAllotted := rings, portScope := scope, ctxQuota := ctxs, keyQuota := slots, delayQuota := delays })) ∧
    (∃ (q : Call) (fn rings scope ctxs slots delays code d : Nat) (s : State), (ready 0x0C01 q 0 s = true) ∧ (setupFault fn rings scope ctxs slots delays s = some (code, d))) ∧
    (∃ (q : Call) (fn : Nat) (s : State), (ready 0x0C02 q 0 s = true) ∧ (fn ≠ 0 ∧ fn ≤ 63 ∧ (s.func fn).dpState = 0) ∧ ((s.func fn).migration = .normal ∧ (s.func fn).setUp = true ∧ (s.func fn).halted = false ∧ (s.func fn).freezing = false) ∧ ((s.hif.ctxs.all fun c => c.f != fn) = true)) ∧
    (∃ (q : Call) (fn : Nat) (c : Ctx) (s : State), (ready 0x0C02 q 0 s = true) ∧ (fn ≠ 0 ∧ fn ≤ 63 ∧ (s.func fn).dpState = 0) ∧ ((s.func fn).migration = .normal ∧ (s.func fn).setUp = true ∧ (s.func fn).halted = false ∧ (s.func fn).freezing = false) ∧ (s.hif.ctxs = [c] ∧ c.f = fn ∧ c.orphan = 0 ∧ (c.phase = .queued ∨ c.phase = .held))) ∧
    (∃ (q : Call) (fn : Nat) (c : Ctx) (s : State), (ready 0x0C02 q 0 s = true) ∧ (fn ≠ 0 ∧ fn ≤ 63 ∧ (s.func fn).dpState = 0) ∧ ((s.func fn).migration = .normal ∧ (s.func fn).setUp = true ∧ (s.func fn).halted = false ∧ (s.func fn).freezing = false) ∧ (s.hif.ctxs = [c] ∧ c.f = fn ∧ c.orphan = 0 ∧ c.phase = .delayed)) ∧
    (∃ (q : Call) (fn : Nat) (c : Ctx) (s : State), (ready 0x0C02 q 0 s = true) ∧ (fn ≠ 0 ∧ fn ≤ 63 ∧ (s.func fn).dpState = 0) ∧ ((s.func fn).migration = .normal ∧ (s.func fn).setUp = true ∧ (s.func fn).halted = false ∧ (s.func fn).freezing = false) ∧ (s.hif.ctxs = [c] ∧ c.f = fn ∧ c.orphan = 0 ∧ (c.phase = .dispatched ∨ c.phase = .staged))) ∧
    (∃ (q : Call) (fn tenant mkId : Nat) (mk : Bytes) (i : SaveImage) (x s : State), (ready 0x0C03 q 0 s = true) ∧ (s.level < 2 ∧ s.key.rootPresent = true ∧ s.rnu.st = .ready) ∧ (fn ≠ 0 ∧ fn ≤ 63 ∧ (s.func fn).migration = .frozen) ∧ ((s.dom fn).tenant = some tenant ∧ (s.dom fn).migKey = some (mkId, mk)) ∧ (saveImage fn tenant mkId mk s = (i, x))) ∧
    (∃ (q : Call) (fn length : Nat) (image : SaveImage) (s : State), (s.key.rootPresent = false ∧ fn ≠ 0 ∧ fn ≤ 63)) ∧
    (∃ (q : Call) (fn length : Nat) (image : SaveImage) (s : State), (ready 0x0C04 q 0 s = true) ∧ (fn ≠ 0 ∧ fn ≤ 63 ∧ s.key.rootPresent = true) ∧ (restoreFault fn length image s = none) ∧ ((image.keys.filter fun k => k.blob.isSome) = [] ∨ s.rnu.st = .ready)) ∧
    (∃ (q : Call) (fn length : Nat) (image : SaveImage) (code d : Nat) (s : State), (ready 0x0C04 q 0 s = true) ∧ (fn ≠ 0 ∧ fn ≤ 63) ∧ (restoreFault fn length image s = some (code, d))) ∧
    (∃ (q : Call) (fn : Nat) (s : State), (ready 0x0C05 q 0 s = true) ∧ (fn ≠ 0 ∧ fn ≤ 63 ∧ (s.func fn).migration ≠ .normal) ∧ ((s.hif.ctxs.all fun c => !(c.f == fn && c.lifted)) = true)) ∧
    (∃ (q : Call) (fn : Nat) (c : Ctx) (s : State), (ready 0x0C05 q 0 s = true) ∧ (fn ≠ 0 ∧ fn ≤ 63 ∧ (s.func fn).migration ≠ .normal) ∧ (s.hif.ctxs = [c] ∧ c.f = fn ∧ c.lifted = true)) :=
  ⟨⟨call 0x0C01, 1, 4, 0xF, 16, 16, 16, live, live.setFunc 1 { live.func 1 with setUp := true, ringsAllotted := 4, portScope := 0xF, ctxQuota := 16, keyQuota := 16, delayQuota := 16 }, by decide, by decide, rfl⟩,
   ⟨call 0x0C01, 0, 4, 0xF, 16, 16, 16, 0x0101, 7, live, by decide, by decide⟩,
   ⟨call 0x0C02, 1, { live with hif := { funcs := [(1, { Func.initial 1 with present := true, setUp := true })] } }, by decide, by decide, by decide, by decide⟩,
   ⟨call 0x0C02, 1, { ctxIn with f := 1 }, { live with hif := { funcs := [(1, { Func.initial 1 with present := true, setUp := true })], ctxs := [{ ctxIn with f := 1 }] } }, by decide, by decide, by decide, by decide⟩,
   ⟨call 0x0C02, 1, { ctxIn with f := 1, phase := .delayed }, { live with hif := { funcs := [(1, { Func.initial 1 with present := true, setUp := true })], ctxs := [{ ctxIn with f := 1, phase := .delayed }] } }, by decide, by decide, by decide, by decide⟩,
   ⟨call 0x0C02, 1, { ctxIn with f := 1, phase := .dispatched }, { live with hif := { funcs := [(1, { Func.initial 1 with present := true, setUp := true })], ctxs := [{ ctxIn with f := 1, phase := .dispatched }] } }, by decide, by decide, by decide, by decide⟩,
   ⟨call 0x0C03, 1, 5, 6, List.replicate 32 7, (saveImage 1 5 6 (List.replicate 32 7) { live with hif := { funcs := [(1, { Func.initial 1 with migration := .frozen })] }, key := { live.key with domains := [(1, { tenant := some 5, migKey := some (6, List.replicate 32 7) })] } }).1, (saveImage 1 5 6 (List.replicate 32 7) { live with hif := { funcs := [(1, { Func.initial 1 with migration := .frozen })] }, key := { live.key with domains := [(1, { tenant := some 5, migKey := some (6, List.replicate 32 7) })] } }).2, { live with hif := { funcs := [(1, { Func.initial 1 with migration := .frozen })] }, key := { live.key with domains := [(1, { tenant := some 5, migKey := some (6, List.replicate 32 7) })] } }, by decide, by decide, by decide, by decide, rfl⟩,
   ⟨call 0x0C03, 1, 0, restoreImage, { live with key := { live.key with rootPresent := false } }, by decide⟩,
   ⟨call 0x0C04, 1, 144, restoreImage, restoreReady, by decide, by decide, restore_ok, by decide⟩,
   ⟨call 0x0C04, 1, 0, restoreImage, 0x0101, 0x0201, live, by decide, by decide, by decide⟩,
   ⟨call 0x0C05, 1, { live with hif := { funcs := [(1, { Func.initial 1 with migration := .frozen })] } }, by decide, by decide, by decide⟩,
   ⟨call 0x0C05, 1, { ctxIn with f := 1, phase := .delayed, lifted := true }, { live with hif := { funcs := [(1, { Func.initial 1 with migration := .frozen })], ctxs := [{ ctxIn with f := 1, phase := .delayed, lifted := true }] } }, by decide, by decide, by decide⟩⟩

/-- The hypotheses of every clause of FunctionResets are met. -/
theorem witness_FunctionResets :
    (∃ (perst : Bool) (s : State), (s.running = true)) ∧
    (∃ (c : Ctx) (s : State), (c.orphan = 0 ∧ c.lifted = false)) ∧
    (∃ (f : Nat) (s : State), (s.running = true) ∧ (1 ≤ f ∧ f < 64 ∧ (s.func f).present = true)) ∧
    (∃ (f : Nat) (c : Ctx) (s : State), (c.f = f ∧ c.orphan = 0)) ∧
    (∃ (f : Nat) (s : State), (s.running = true) ∧ (1 ≤ f ∧ f < 64 ∧ (s.func f).present = true)) :=
  ⟨⟨true, live, by decide⟩,
   ⟨ctxIn, live, by decide⟩,
   ⟨1, { live with hif := { funcs := [(1, { Func.initial 1 with present := true })] } }, by decide, by decide⟩,
   ⟨1, { ctxIn with f := 1 }, live, by decide⟩,
   ⟨1, { live with hif := { funcs := [(1, { Func.initial 1 with present := true })] } }, by decide, by decide⟩⟩

/-- The hypotheses of every clause of IdeAndSpdm are met. -/
theorem witness_IdeAndSpdm :
    (∃ (s : State), (s.running = true) ∧ (s.hif.linkSecure = true)) ∧
    (∃ (i : Nat) (s : State), (s.running = true) ∧ (i < 4 ∧ s.hif.selectiveSecure.testBit i = true)) ∧
    (∃ (change : Option Bool) (stream : Option Nat) (on : Bool) (s : State), (s.running = true ∧ s.hif.linkUp = true ∧ s.serviceOpen = true)) ∧
    (∃ (stream : Option Nat) (s : State), (s.running = true ∧ s.hif.linkUp = true ∧ s.serviceOpen = true ∧ s.hif.spdmSession = true) ∧ (∀ i, stream = some i → i < 4)) ∧
    (∃ (q : Call) (auth : AuthReq) (s : State), (ready 0x0B04 q 0 s = true) ∧ (authReason auth q.hdr.inLen 0x0B04 0 2 1 [(0, 1)] s = none) ∧ (leAt auth.params 0 1 ≤ 1)) ∧
    (∃ (q : Call) (auth : AuthReq) (reason : Nat) (s : State), (ready 0x0B04 q 0 s = true) ∧ (authReason auth q.hdr.inLen 0x0B04 0 2 1 [(0, 1)] s = some reason ∨ (authReason auth q.hdr.inLen 0x0B04 0 2 1 [(0, 1)] s = none ∧ 1 < leAt auth.params 0 1 ∧ reason = 0x010A))) :=
  ⟨⟨{ live with hif := { linkSecure := true } }, by decide, by decide⟩,
   ⟨1, { live with hif := { selectiveSecure := 2 } }, by decide, by decide⟩,
   ⟨some true, none, true, { live with hif := { linkUp := true } }, by decide⟩,
   ⟨some 2, { live with hif := { linkUp := true, spdmSession := true } }, by decide, (fun i h => by cases h; decide)⟩,
   ⟨authCall 0x0B04 1, authOne 0x0B04 2 (1 :: List.replicate 63 0), authLive, by decide, by decide +kernel, by decide⟩,
   ⟨authCall 0x0B04 1, { authOne 0x0B04 2 [] with magic := 0 }, 0x0101, authLive, by decide, Or.inl (by decide +kernel)⟩⟩

/-- The hypotheses of every clause of TicksAndAngle are met. -/
theorem witness_TicksAndAngle :
    (∃ (ocxoTemp : Int) (sense : Sense) (s : State), (s.running = true) ∧ (s.sck.stepTo = none ∧ s.sck.adopt = none)) ∧
    (∃ (off : Nat) (s : State), (s.running = true) ∧ (s.sck.waiting = [off]) ∧ (off = 0x6404 ∨ off = 0x6408 ∨ off = 0x640C ∨ off = 0x641C) ∧ (s.sck.now % 1000000000 = 0)) ∧
    (∃ (s : State), (s.running = true) ∧ (s.sck.angleSt = .tracking ∧ cyclesUs s.nominal 2 ≤ s.sck.sinceSampleUs)) ∧
    (∃ (s : State), (s.running = true) ∧ ((s.sck.angleSt = .coasting ∧ cyclesUs s.nominal s.coastLimit ≤ s.sck.coastUs) ∨ (s.sck.angleSt ≠ .lost ∧ inRange s.nominal s.sck.freq = false))) ∧
    (∃ (id a : Nat) (x : Ctx) (s : State), (s.running = true) ∧ (s.ctx? id = some x) ∧ (x.angle = some a ∧ x.phase = .held)) :=
  ⟨⟨0, {}, live, by decide, by decide⟩,
   ⟨0x6404, { live with sck := { live.sck with waiting := [0x6404] }, rw := [(0x6404, 1000)] }, by decide, by decide, by decide, by decide⟩,
   ⟨{ live with sck := { live.sck with angleSt := .tracking, sinceSampleUs := 40000 } }, by decide, by decide⟩,
   ⟨{ live with sck := { live.sck with angleSt := .tracking, freq := 70000 } }, by decide, by decide⟩,
   ⟨7, 0, { id := 7, f := 0, ring := 0, count := 0, hdr := { opcode := 0x0802, length := 1 }, phase := .held, angle := some 0 },
    { live with sck := { live.sck with angleSt := .tracking, freq := 50000 }, hif := { ctxs := [{ id := 7, f := 0, ring := 0, count := 0, hdr := { opcode := 0x0802, length := 1 }, phase := .held, angle := some 0 }] } }, by decide, by decide, by decide⟩⟩

/-- The hypotheses of every clause of ReferenceSignals are met. -/
theorem witness_ReferenceSignals :
    (∃ (offset : Int) (s : State), (s.running = true) ∧ (s.refEnabled 1 = true) ∧ ((s.ref 1).st = .selected → offsetFails s.sck (nearestSecond offset) = false)) ∧
    (∃ (f : IrigFrame) (offset : Int) (s : State), (s.running = true)) ∧
    (∃ (s : State), (s.running = true) ∧ ((s.ref 1).present = true ∧ (s.ref 1).lastAt + 1100000000 ≤ s.sck.now) ∧ ((s.ref 1).st ≠ .disabled ∧ (s.ref 1).st ≠ .absent)) ∧
    (∃ (f : IrigFrame) (o : Int) (s : State), (s.running = true ∧ s.refEnabled 2 = true) ∧ (f.parityOk = true ∧ f.quality ≠ 0xF) ∧ (o = (f.seconds - f.localOffset + s.taiUtc) * 1000000000 - f.edge) ∧ ((s.ref 2).st = .selected → offsetFails s.sck o = false)) ∧
    (∃ (f : IrigFrame) (s : State), (s.running = true) ∧ (f.parityOk = false ∨ f.quality = 0xF) ∧ ((s.ref 2).st ≠ .disabled ∧ (s.ref 2).st ≠ .absent)) ∧
    (∃ (freq : Option Int) (s : State), (s.running = true) ∧ (s.refEnabled 3 = true ∧ (s.ref 3).st ≠ .disabled ∧ (s.ref 3).st ≠ .absent ∧ (s.ref 3).st ≠ .selected)) :=
  ⟨⟨5, { live with sck := { live.sck with inForce := [(0x6400, 0x24)] } }, by decide, by decide, (fun _ => by decide)⟩,
   ⟨{ seconds := 5, edge := 5000000000 }, 5, live, by decide⟩,
   ⟨{ live with sck := { live.sck with refs := [(1, { st := .qualified, present := true })] } }, by decide, by decide, by decide⟩,
   ⟨{ seconds := 5, edge := 42000000000 }, 0, { live with sck := { live.sck with inForce := [(0x6400, 0x24)] } }, by decide, by decide, by decide, (fun _ => by decide)⟩,
   ⟨{ seconds := 5, edge := 5000000000, parityOk := false }, { live with sck := { live.sck with inForce := [(0x6400, 0x24)], refs := [(2, { st := .qualified, present := true })] } }, by decide, by decide, by decide⟩,
   ⟨none, { live with sck := { live.sck with inForce := [(0x6420, 1)], refs := [(3, { st := .qualified, present := true })] } }, by decide, by decide⟩⟩

/-- The hypotheses of every clause of ReferencesInUse are met. -/
theorem witness_ReferencesInUse :
    (∃ (r : Nat) (s : State), (s.running = true) ∧ ((s.ref r).st = .selected) ∧ (∀ q, q ≠ r → (s.ref q).st ≠ .qualified) ∧ (s.sck.st ≠ .holdover ∧ s.sck.st ≠ .expired)) ∧
    (∃ (r q : Nat) (s : State), (s.running = true) ∧ ((s.ref r).st = .selected ∧ s.sck.selected = r) ∧ (bestRef (s.setRef r { s.ref r with st := .failed, qualUs := 0 }) false = some q)) ∧
    (∃ (r : Nat) (s : State), (s.running = true) ∧ ((s.ref r).st = .qualifying ∧ s.qualTime ≤ (s.ref r).qualUs)) ∧
    (∃ (r q : Nat) (s : State), (s.running = true) ∧ (s.sck.now % 1000000000 = 0) ∧ (bestRef s true = some r ∧ (s.ref r).st ≠ .selected) ∧ (s.sck.selected = q ∧ (s.ref q).st = .selected)) ∧
    (∃ (s : State), (s.running = true) ∧ (bestRef s true = none ∨ (∃ r, bestRef s true = some r ∧ (s.ref r).st = .selected))) ∧
    (∃ (ppm : Nat) (s : State), (s.running = true) ∧ (s.sck.st ≠ .holdover ∧ s.sck.st ≠ .expired)) ∧
    (∃ (ppm : Nat) (s : State), (s.running = true) ∧ ((s.sck.st = .holdover ∨ s.sck.st = .expired) ∧ s.sck.ocxoFailed = false)) :=
  ⟨⟨0, { live with sck := { live.sck with refs := [(0, { st := .selected, present := true })] } }, by decide, by decide, (by intro q hq; simp [State.ref, Tbl.get, Tbl.find?, live, Ne.symm hq]), by decide⟩,
   ⟨0, 1, { live with sck := { live.sck with inForce := [(0x6400, 0x24)], refs := [(0, { st := .selected, present := true }), (1, { st := .qualified, present := true })] } }, by decide, by decide, by decide⟩,
   ⟨0, { live with sck := { live.sck with refs := [(0, { st := .qualifying, present := true, qualUs := 60000000 })] } }, by decide, by decide⟩,
   ⟨1, 0, { live with sck := { live.sck with selected := 0, inForce := [(0x6400, 0x21)], refs := [(0, { st := .selected, present := true }), (1, { st := .qualified, present := true })] } }, by decide, by decide, by decide, by decide⟩,
   ⟨live, by decide, Or.inl (by decide)⟩,
   ⟨3, live, by decide, by decide⟩,
   ⟨3, { live with sck := { live.sck with st := .holdover } }, by decide, by decide⟩⟩

/-- The hypotheses of every clause of PtpPorts are met. -/
theorem witness_PtpPorts :
    (∃ (port gm cls n : Nat) (accuracy inaccuracy alt utc leap : Option Nat) (s : State), (s.running = true ∧ s.ptpOn port = true ∧ port < 12 ∧ s.clockType ≠ 3) ∧ (cls ≤ s.worstClass ∧ (s.ref 0).missing < 4) ∧ (n < 12 ∧ s.ptpOn n = true)) ∧
    (∃ (port gm cls : Nat) (accuracy inaccuracy alt utc leap : Option Nat) (s : State), (s.running = true ∧ s.ptpOn port = true) ∧ (s.clockType ≠ 3)) ∧
    (∃ (port ingress : Nat) (offset correction : Int) (followUp : Option Int) (s : State), (s.running = true ∧ s.ptpOn port = true) ∧ (s.clockType ≠ 3 ∧ s.ptpState port = .slave ∧ s.refEnabled 0 = true) ∧ ((s.ref 0).st = .selected → offsetFails s.sck offset = false)) ∧
    (∃ (port domain ingress delay : Nat) (offset correction : Int) (followUp : Option Int) (m : PtpMessage) (s : State), (s.running = true) ∧ (s.ptpOn port = true) ∧ (domain ≠ s.ptpDomain)) ∧
    (∃ (port : Nat) (s : State), (s.running = true) ∧ (s.ptpOn port = true)) ∧
    (∃ (port cls : Nat) (s : State), (s.running = true ∧ s.ptpOn port = true ∧ s.ptpState port = .master) ∧ (cls = announcedClass s.clockType s.sck (s.ref 0).declared)) ∧
    (∃ (n : Nat) (s : State), (s.running = true) ∧ (s.refEnabled 0 = true ∧ (s.ref 0).st ≠ .disabled ∧ (s.ref 0).st ≠ .absent) ∧ (n < 12 ∧ s.ptpOn n = true ∧ (s.clockType = 1 ∨ s.clockType = 2))) ∧
    (∃ (s : State), (s.running = true) ∧ ((s.ref 0).st ≠ .disabled ∧ (s.ref 0).st ≠ .absent)) :=
  ⟨⟨0, 9, 6, 1, some 25, none, none, none, none, { live with rw := [(0x2300, 0x101), (0x2304, 0x101)], sck := { live.sck with inForce := [(0x6410, 0x060001)] } }, by decide, by decide, by decide⟩,
   ⟨0, 9, 6, none, none, none, none, none, { live with rw := [(0x2300, 0x101)], sck := { live.sck with inForce := [(0x6410, 1)] } }, by decide, by decide⟩,
   ⟨0, 0, 5, 0, none, { live with rw := [(0x2300, 0x101)], sck := { live.sck with ptpPorts := [(0, .slave)], inForce := [(0x6400, 0x24)] } }, by decide, by decide, (fun _ => by decide)⟩,
   ⟨0, 5, 0, 100, 0, 0, none, .unsupported 0, { live with rw := [(0x2300, 0x101)] }, by decide, by decide, by decide⟩,
   ⟨0, { live with rw := [(0x2300, 0x101)], sck := { live.sck with ptpPorts := [(0, .master)] } }, by decide, by decide⟩,
   ⟨0, 255, { live with rw := [(0x2300, 0x101)], sck := { live.sck with ptpPorts := [(0, .master)] } }, by decide, by decide⟩,
   ⟨0, { live with rw := [(0x2300, 0x101)], sck := { live.sck with inForce := [(0x6410, 1)], refs := [(0, { st := .qualified, present := true })] } }, by decide, by decide, by decide⟩,
   ⟨{ live with sck := { live.sck with refs := [(0, { st := .qualified, present := true })] } }, by decide, by decide⟩⟩

/-- The hypotheses of every clause of RandomNumberUnit are met. -/
theorem witness_RandomNumberUnit :
    (∃ (cause source : Nat) (startup : Bool) (taken : Bytes) (s : State), (s.running = true ∧ s.rnu.restart = none) ∧ ((cause = 1 ∧ taken.length = 81 ∧ (∀ b ∈ taken, b = taken.headD 0)) ∨ (cause = 2 ∧ taken.length = 512 ∧ 431 ≤ (taken.filter (· == taken.headD 0)).length) ∨ (cause = 3 ∧ taken.length < 100) ∨ cause = 4 ∨ cause = 5)) ∧
    (∃ (id n : Nat) (x : Ctx) (s : State), (s.running = true ∧ s.rnu.restart = none) ∧ (s.hif.ctxs = [x] ∧ x.id = id)) ∧
    (∃ (s : State), (s.running = true) ∧ (s.rnu.bellows = [] ∧ s.rnu.restart = none ∧ s.key.keysDue = false)) ∧
    (∃ (seed : Bytes) (x : Expander) (s : State), (s.running = true) ∧ (s.rnu.st = .ready ∧ s.rnu.seed = some seed ∧ s.rnu.expander = some x)) ∧
    (∃ (x : Expander) (s : State), (s.running = true) ∧ (s.rnu.st = .ready ∧ s.rnu.expander = some x)) ∧
    (∃ (s : State), (s.running = true) ∧ (s.rnu.expander.isSome = true)) ∧
    (∃ (seed : Bytes) (s : State), (s.running = true) ∧ (s.rnu.st = .ready ∧ s.rnu.seed = some seed)) ∧
    (∃ (value : Nat) (s : State), (reaches 0 s = true) ∧ (s.lcc.st = .maker)) ∧
    (∃ (value : Nat) (s : State), (reaches 0 s = true) ∧ (s.lcc.st ≠ .maker)) :=
  ⟨⟨4, 0, false, [], live, by decide, by decide⟩,
   ⟨7, 0, { ctxIn with hdr := { ctxIn.hdr with opcode := 0x0501 } }, { live with hif := { ctxs := [{ ctxIn with hdr := { ctxIn.hdr with opcode := 0x0501 } }] } }, by decide, by decide⟩,
   ⟨{ live with rnu := {} }, by decide, by decide⟩,
   ⟨List.replicate 48 3, { key := List.replicate 32 1, v := 0 }, live, by decide, by decide⟩,
   ⟨{ key := List.replicate 32 1, v := 0 }, { live with sck := { live.sck with now := 0 }, rnu := { live.rnu with bellows := [] } }, by decide, by decide⟩,
   ⟨live, by decide, by decide⟩,
   ⟨List.replicate 48 3, live, by decide, by decide⟩,
   ⟨1, { live with lcc := { st := .maker } }, by decide, by decide⟩,
   ⟨1, live, by decide, by decide⟩⟩

/-- The hypotheses of every clause of RandomOperations are met. -/
theorem witness_RandomOperations :
    (∃ (q : Call) (s : State), (ready 0x0001 q 0 s = true)) ∧
    (∃ (q : Call) (length : Nat) (s : State), (ready 0x0501 q (8 + length) s = true) ∧ (0 < length ∧ length ≤ 1048576) ∧ (s.rnu.st = .ready)) ∧
    (∃ (n : Nat) (b c : Bytes) (l : List Bytes) (s : State), (s.rnu.expander.isSome = true ∧ s.rnu.bellows = b :: c :: l) ∧ (0 < n ∧ n < b.length + c.length ∧ b ≠ [])) ∧
    (∃ (q : Call) (s : State), (ready 0x0502 q 0 s = true) ∧ (s.rnu.st = .fault)) ∧
    (∃ (q : Call) (s : State), (ready 0x0502 q 0 s = true) ∧ (s.rnu.st ≠ .fault)) ∧
    (∃ (q : Call) (source count : Nat) (s : State), (ready 0x0503 q count s = true) ∧ (source ≤ 1 ∧ count ≤ 1048576)) :=
  ⟨⟨call 0x0001, live, by decide⟩,
   ⟨call 0x0501, 16, live, by decide, by decide, by decide⟩,
   ⟨1, [1, 2], [3], [], { live with rnu := { live.rnu with bellows := [[1, 2], [3]] } }, by decide, by decide⟩,
   ⟨call 0x0502, { live with rnu := { st := .fault } }, by decide, by decide⟩,
   ⟨call 0x0502, live, by decide, by decide⟩,
   ⟨call 0x0503, 0, 16, { live with lcc := { st := .maker } }, by decide, by decide⟩⟩

/-- The hypotheses of every clause of NoRandomBytes are met. -/
theorem witness_NoRandomBytes :
    (∃ (q : Call) (s : State), (ready 0x0501 q 0 s = true) ∧ (s.rnu.st = .ready)) ∧
    (∃ (q : Call) (s : State), (ready 0x0501 q 0 s = true) ∧ (s.rnu.st = .starting ∧ q.hdr.wait = false)) ∧
    (∃ (q : Call) (s : State), (ready 0x0501 q 0 s = true) ∧ (s.rnu.st = .starting ∧ q.hdr.wait = true)) ∧
    (∃ (q : Call) (s : State), (ready 0x0501 q 0 s = true) ∧ (s.rnu.st = .restarting ∨ s.rnu.st = .fault)) ∧
    (∃ (q : Call) (length : Nat) (s : State), (ready 0x0501 q (8 + length) s = true) ∧ (1048576 < length)) :=
  ⟨⟨call 0x0501, live, by decide, by decide⟩,
   ⟨call 0x0501, { live with rnu := {} }, by decide, by decide⟩,
   ⟨{ call 0x0501 with hdr := { (call 0x0501).hdr with wait := true } }, { live with rnu := {} }, by decide, by decide⟩,
   ⟨call 0x0501, { live with rnu := { st := .fault } }, by decide, by decide⟩,
   ⟨{ call 0x0501 with hdr := { (call 0x0501).hdr with outLen := 16777216 } }, 1048577, live, by decide, by decide⟩⟩

/-- The hypotheses of every clause of KeysLoadAndUnload are met. -/
theorem witness_KeysLoadAndUnload :
    (∃ (q : Call) (vault : Bool) (b : Blob) (m : Bytes) (s : State), (ready 0x0101 q 0 s = true) ∧ (blobFormOk 1 b = true ∧ b.handle ≠ 0 ∧ handleFn b.handle = q.f ∧ s.key? b.handle = none) ∧ (s.key.rootPresent = true ∧ unwrapped s b = some m) ∧ (usageOk b.attr.kind b.attr.usage = true ∧ (isPrivateKind b.attr.kind = true → s.rnu.st = .ready)) ∧ (vault = true → vaultFits s b.handle b.len = true) ∧ (s.slotsFit q.f (kindSlots b.attr.kind) = true)) ∧
    (∃ (q : Call) (b : Blob) (m : Bytes) (k : LoadedKey) (s : State), (ready 0x0101 q 0 s = true) ∧ (blobFormOk 1 b = true ∧ b.handle ≠ 0 ∧ handleFn b.handle = q.f ∧ s.key? b.handle = some k) ∧ (s.key.rootPresent = true ∧ unwrapped s b = some m) ∧ (usageOk b.attr.kind b.attr.usage = true)) ∧
    (∃ (q : Call) (vault : Bool) (b : Blob) (s : State), (ready 0x0101 q 0 s = true) ∧ (b.handle ≠ 0 ∧ handleFn b.handle = q.f)) ∧
    (∃ (q : Call) (handle : Nat) (k : LoadedKey) (s : State), (ready 0x0102 q 0 s = true) ∧ (handle ≠ 0 ∧ handleFn handle = q.f ∧ s.key? handle = some k) ∧ (s.key.rootPresent = true)) ∧
    (∃ (q : Call) (kind flags keyLen usage ident group notBefore notAfter h : Nat) (s1 s : State), (ready 0x0103 q (blobLen (kindLen kind keyLen)) s = true) ∧ (s.key.rootPresent = true ∧ genBodyOk kind flags keyLen usage notBefore notAfter = true) ∧ (allocHandle q.f s = some (h, s1)) ∧ ((bitOf flags 1 = true → s.slotsFit q.f (kindSlots kind) = true) ∧ (bitOf flags 2 = true → bitOf flags 1 = true ∧ vaultFits s h (blobLen (kindLen kind keyLen)) = true)) ∧ (s.rnu.st = .ready)) ∧
    (∃ (q : Call) (handle : Nat) (k : LoadedKey) (s : State), (ready 0x0104 q 0 s = true) ∧ (handle ≠ 0 ∧ handleFn handle = q.f ∧ s.key? handle = some k) ∧ (s.key.rootPresent = true ∧ blobLen k.blob.attr.keyLen ≤ q.hdr.outLen)) :=
  ⟨⟨call 0x0101, false, goodBlob, List.replicate 32 9, { live with key := { live.key with keys := [] } }, by decide, ⟨good_form, by decide, by decide, by decide⟩, ⟨rfl, good_opens _ rfl rfl rfl⟩, ⟨by decide, by decide⟩, (fun h => by cases h), by decide⟩,
   ⟨call 0x0101, goodBlob, List.replicate 32 9, { blob := plainBlob }, liveKey, by decide, ⟨good_form, by decide, by decide, by decide⟩, ⟨rfl, good_opens _ rfl rfl rfl⟩, by decide⟩,
   ⟨call 0x0101, false, plainBlob, live, by decide, by decide⟩,
   ⟨call 0x0102, 1, { blob := plainBlob }, liveKey, by decide, by decide, by decide⟩,
   ⟨call 0x0103, 2, 0, 0, 1, 0, 0, 0, 0, 1, live.setDom 0 { live.dom 0 with handles := 1 }, live, by decide, by decide, rfl, by decide, by decide⟩,
   ⟨call 0x0104, 1, { blob := plainBlob }, liveKey, by decide, by decide, by decide⟩⟩

/-- The hypotheses of every clause of KeysVaultAndReservations are met. -/
theorem witness_KeysVaultAndReservations :
    (∃ (q : Call) (handle : Nat) (k : LoadedKey) (s : State), (ready 0x0105 q 0 s = true) ∧ (handle ≠ 0 ∧ handleFn handle = q.f ∧ s.key? handle = some k) ∧ (s.key.rootPresent = true ∧ vaultFits s handle (blobLen k.blob.attr.keyLen) = true)) ∧
    (∃ (q : Call) (handle : Nat) (s : State), (ready 0x0106 q 0 s = true) ∧ (handle ≠ 0 ∧ handleFn handle = q.f ∧ Tbl.has s.key.vault handle = true)) ∧
    (∃ (q : Call) (kind usage ident group h : Nat) (vault : Bool) (s1 s : State), (ready 0x0107 q 0 s = true) ∧ (1 ≤ kind ∧ kind ≤ 3 ∧ 1 ≤ usage ∧ usage ≤ 3 ∧ group ≠ 0) ∧ (openReservations (s.dom q.f) < 256) ∧ (allocHandle q.f s = some (h, s1))) ∧
    (∃ (q : Call) (handle : Nat) (s : State), (ready 0x0108 q 0 s = true) ∧ (handle ≠ 0 ∧ handleFn handle = q.f) ∧ ((s.dom q.f).reservations.any (fun r => r.handle == handle && r.bound.isNone) = true)) :=
  ⟨⟨call 0x0105, 1, { blob := plainBlob }, liveKey, by decide, by decide, by decide⟩,
   ⟨call 0x0106, 1, { liveKey with key := { liveKey.key with vault := [(1, plainBlob)] } }, by decide, by decide⟩,
   ⟨call 0x0107, 1, 1, 0, 5, 1, false, live.setDom 0 { live.dom 0 with handles := 1 }, live, by decide, by decide, by decide, rfl⟩,
   ⟨call 0x0108, 1, { live with key := { live.key with domains := [(0, { reservations := [{ handle := 1, group := 5, ident := 0, kind := 1, usage := 1, vault := false }] })] } }, by decide, by decide, by decide⟩⟩

/-- The hypotheses of every clause of AttestationAndTemper are met. -/
theorem witness_AttestationAndTemper :
    (∃ (q : Call) (handle : Nat) (challenge : Bytes) (k : LoadedKey) (s : State), (ready 0x0109 q 0 s = true) ∧ (handle ≠ 0 ∧ handleFn handle = q.f ∧ s.key? handle = some k) ∧ (s.key.rootPresent = true ∧ statementLen (keyBodyLen k.blob.attr.kind) ≤ q.hdr.outLen)) ∧
    (∃ (q : Call) (kind : Nat) (challenge : Bytes) (s : State), (ready 0x010A q 4096 s = true)) ∧
    (∃ (q : Call) (m : TemperMsg) (s1 s : State), (ready 0x010B q 0 s = true) ∧ (temperReason m s = none) ∧ ((firstBad (levelAdmits s.level) 0 (temperCmds s m)).isSome = false ∧ firstBad (authority s m) 0 (temperCmds s m) = none) ∧ (applyAll m 0 (temperCmds s m) s = .ok s1) ∧ (((temperCmds s m).any temperNeedsRoot && !s1.key.rootPresent) = false ∧ ((temperCmds s m).any temperDraws = true → s.rnu.st = .ready))) ∧
    (∃ (q : Call) (m : TemperMsg) (s : State), (ready 0x010B q 0 s = true)) ∧
    (∃ (dom d tenant signer mkId role : Nat) (key : Bytes) (s : State), (d ≤ 63 ∧ dom ≤ 63)) :=
  ⟨⟨call 0x0109, 1, [], { blob := plainBlob }, liveKey, by decide, by decide, by decide⟩,
   ⟨call 0x010A, 3, [], live, by decide⟩,
   ⟨call 0x010B, temperOne, (securityRec secTemper (0x20) (signerPair temperOne.sigs) 1 (authLive.updDom 1 fun v => { v with tenant := some 5 })), authLive, by decide, by decide +kernel, (by rw [temper_cmds]; decide), (by rw [temper_cmds]; rfl), (by rw [temper_cmds]; decide)⟩,
   ⟨call 0x010B, temperOne, authLive, by decide⟩,
   ⟨0, 1, 5, 0, 6, 2, [], live, by decide⟩⟩

/-- The hypotheses of every clause of KeyEvents are met. -/
theorem witness_KeyEvents :
    (∃ (handle : Nat) (k : LoadedKey) (s : State), (s.running = true) ∧ (s.key? handle = some k) ∧ (k.blob.attr.notAfter ≠ 0 ∧ stampNs k.blob.attr.notAfter ≤ s.sck.now) ∧ (activeNames s handle = true ∧ s.key.lapsed.contains handle = false)) ∧
    (∃ (handle : Nat) (waiting : List Nat) (k : LoadedKey) (b : Blob) (m : Bytes) (s : State), (s.running = true) ∧ (s.key? handle = some k ∧ k.faulted = true) ∧ (Tbl.find? handle s.key.vault = some b ∧ unwrapped s b = some m ∧ b.handle = handle)) ∧
    (∃ (handle : Nat) (waiting : List Nat) (k : LoadedKey) (s : State), (s.running = true) ∧ (s.key? handle = some k ∧ k.faulted = true) ∧ (Tbl.find? handle s.key.vault = none ∨ (∃ b, Tbl.find? handle s.key.vault = some b ∧ unwrapped s b = none))) ∧
    (∃ (id : Nat) (x : Ctx) (s : State), (s.ctx? id = some x)) ∧
    (∃ (f group ident kind notBefore notAfter : Nat) (material : Bytes) (r : Reservation) (s : State), (s.running = true) ∧ (tekReservation group ident kind material.length (s.dom f).reservations = some r ∧ r.bound = none) ∧ (s.level = 0 ∧ s.key.rootPresent = true ∧ s.slotsFit f (kindSlots kind) = true ∧ s.rnu.st = .ready ∧ (r.vault = true → vaultFits s r.handle (blobLen material.length) = true))) ∧
    (∃ (f group ident kind notBefore notAfter : Nat) (material : Bytes) (r : Reservation) (s : State), (s.running = true)) ∧
    (∃ (handle : Nat) (k : LoadedKey) (s : State), (s.running = true) ∧ (s.key? handle = some k ∧ k.blob.attr.origin = 1 ∧ k.blob.attr.group ≠ 0 ∧ s.level = 0) ∧ (stampNs k.blob.attr.notBefore ≤ s.sck.now + s.key.kdcLead * 1000000000)) :=
  ⟨⟨1, { blob := { plainBlob with attr := { goodAttr with notAfter := 1073741824 } } }, lapsedLive, by decide, by decide, by decide, by decide⟩,
   ⟨1, [], { blob := plainBlob, faulted := true }, goodBlob, List.replicate 32 9, { liveKey with key := { liveKey.key with keys := [(1, { blob := plainBlob, faulted := true })], vault := [(1, goodBlob)] } }, by decide, by decide, ⟨rfl, good_opens _ rfl rfl rfl, rfl⟩⟩,
   ⟨1, [], { blob := plainBlob, faulted := true }, { liveKey with key := { liveKey.key with keys := [(1, { blob := plainBlob, faulted := true })] } }, by decide, by decide, Or.inl (by decide)⟩,
   ⟨7, ctxIn, { live with hif := { ctxs := [ctxIn] } }, by decide⟩,
   ⟨0, 5, 0, 1, 0, 0, List.replicate 16 7, { handle := 1, group := 5, ident := 0, kind := 1, usage := 1, vault := false },
    { live with key := { live.key with domains := [(0, { reservations := [{ handle := 1, group := 5, ident := 0, kind := 1, usage := 1, vault := false }] })] } }, by decide, by decide, by decide⟩,
   ⟨0, 5, 0, 1, 0, 0, [], { handle := 1, group := 5, ident := 0, kind := 1, usage := 1, vault := false }, live, by decide⟩,
   ⟨1, { blob := { plainBlob with attr := { goodAttr with group := 5 } } }, { liveKey with key := { liveKey.key with keys := [(1, { blob := { plainBlob with attr := { goodAttr with group := 5 } } })] } }, by decide, by decide, by decide⟩⟩

/-- The hypotheses of every clause of TamperAlarms are met. -/
theorem witness_TamperAlarms :
    (∃ (cause source data cycles : Nat) (s : State), (s.pwr.main = true ∧ s.lcc.scrapFuse = false) ∧ (allCauses.contains cause = true ∧ cause ≠ causeLoop ∧ cause ≠ causeLight) ∧ ((isCondition cause && isPresent s cause source) = false) ∧ (escalates s cause = false ∧ alarmLevel s cause source < 2) ∧ (rtcHours s = s.tm.hour ∧ (hourOf cause source s.tm.hours).entries < 16 ∧ s.tm.full = false)) ∧
    (∃ (source data cycles : Nat) (s : State), (s.pwr.main = true ∧ s.lcc.scrapFuse = false) ∧ (source < 4)) ∧
    (∃ (cause source data cycles : Nat) (s : State), (s.pwr.main = true ∧ s.lcc.scrapFuse = false) ∧ (allCauses.contains cause = true ∧ cause ≠ causeLoop ∧ cause ≠ causeLight ∧ cause ≠ causeTempWarn) ∧ ((isCondition cause && isPresent s cause source) = false) ∧ (2 ≤ alarmLevel s cause source ∧ s.tm.quenchBusy = false)) ∧
    (∃ (cause source data cycles : Nat) (s : State), (s.pwr.main = false ∧ s.pwr.standbyIn = true ∧ s.lcc.scrapFuse = false) ∧ (cause ≠ causeLoop ∧ cause ≠ causeLight ∧ standbyCause cause = true ∧ isPresent s cause source = false) ∧ (s.tm.staging.length < 32)) ∧
    (∃ (cause source data cycles : Nat) (s : State), (s.pwr.main = false ∧ s.pwr.standbyIn = false ∧ s.pwr.backupFed = true)) ∧
    (∃ (cause source : Nat) (s : State), (isPresent s cause source = true) ∧ (cause ≠ causeLoop)) ∧
    (∃ (elements cycles : Nat) (s : State), (s.pwr.main = true ∧ s.lcc.scrapFuse = false ∧ isPresent s causeLight 0 = false)) ∧
    (∃ (mv cycles : Nat) (s : State), (s.pwr.main = true ∧ s.lcc.scrapFuse = false)) :=
  ⟨⟨2, 0, 5, 0, live, by decide, by decide, by decide, by decide, by decide⟩,
   ⟨1, 5, 0, live, by decide, by decide⟩,
   ⟨causeMesh, 0, 5, 0, live, by decide, by decide, by decide, by decide⟩,
   ⟨5, 0, 5, 0, { State.reset with pwr := { main := false, standbyIn := true, standbyFed := true } }, by decide, by decide, by decide⟩,
   ⟨causeMesh, 0, 5, 0, { State.reset with pwr := { main := false, standbyIn := false, backupFed := true } }, by decide⟩,
   ⟨2, 0, { live with tm := { live.tm with present := [(2, 0)] } }, by decide, by decide⟩,
   ⟨3, 0, live, by decide⟩,
   ⟨2800, 0, live, by decide⟩⟩

/-- The hypotheses of every clause of TamperJournalAndQuench are met. -/
theorem witness_TamperJournalAndQuench :
    (∃ (s : State), (s.running = true) ∧ (rtcHours s ≠ s.tm.hour)) ∧
    (∃ (h : HourCount) (s : State), (s.running = true ∧ rtcHours s ≠ s.tm.hour) ∧ (s.tm.hours = [h] ∧ s.tm.full = false)) ∧
    (∃ (failed : List (Nat × Nat)) (region bank : Nat) (x : StartIn) (s : State), (s.tm.quenchBusy = true)) ∧
    (∃ (s : State), (s.running = true) ∧ (s.tm.clearPending = true)) ∧
    (∃ (s : State), (s.running = true ∧ s.tm.clearPending = false)) :=
  ⟨⟨{ live with sck := { live.sck with rtcCount := 117964800 } }, by decide, by decide⟩,
   ⟨{ cause := 5, source := 0, entries := 16, excess := 3, level := 0 }, { live with sck := { live.sck with rtcCount := 117964800 }, tm := { live.tm with hours := [{ cause := 5, source := 0, entries := 16, excess := 3, level := 0 }] } }, by decide, by decide⟩,
   ⟨[], 0, 0, {}, { live with tm := { live.tm with quenchBusy := true } }, by decide⟩,
   ⟨{ live with tm := { live.tm with clearPending := true, clearHold := true, restrictOn := true } }, by decide, by decide⟩,
   ⟨live, by decide⟩⟩

/-- The hypotheses of every clause of EnginesRunOperations are met. -/
theorem witness_EnginesRunOperations :
    (∃ (e x : Nat) (op : PkeOp) (s : State), (s.running = true) ∧ (queueFor e s = some x ∧ (s.engine x).next = some op)) ∧
    (∃ (e : Nat) (s : State), (s.running = true) ∧ (queueFor e s = none)) ∧
    (∃ (e : Nat) (op : PkeOp) (s : State), (s.running = true) ∧ ((s.engine e).op = some op ∧ (s.engine e).phase = .validation) ∧ (validationCode op (s.engine e) = none)) ∧
    (∃ (e : Nat) (op : PkeOp) (s : State), (s.running = true) ∧ ((s.engine e).op = some op ∧ (s.engine e).phase = .validation)) ∧
    (∃ (e : Nat) (op : PkeOp) (s : State), (s.running = true) ∧ ((s.engine e).op = some op ∧ (s.engine e).phase = .finish) ∧ ((s.engine e).first = some ((s.engine e).flags, (s.engine e).items))) ∧
    (∃ (e : Nat) (op : PkeOp) (x : Nat × Tbl Nat) (s : State), (s.running = true) ∧ ((s.engine e).op = some op ∧ (s.engine e).phase = .finish)) ∧
    (∃ (e : Nat) (op : PkeOp) (s : State), ((s.engine e).op = some op ∧ (s.engine e).phase ≠ .aborted)) ∧
    (∃ (e : Nat) (op : PkeOp) (s : State), (s.running = true) ∧ ((s.engine e).op = some op ∧ (s.engine e).phase ≠ .aborted)) ∧
    (∃ (e cause : Nat) (s : State), (s.running = true) ∧ ((s.engine e).op = none)) ∧
    (∃ (e : Nat) (s : State), (s.running = true)) :=
  ⟨⟨0, 0, engineOp, { live with pke := { engines := [(0, { inService := true, next := some engineOp })] } }, by decide, by decide⟩,
   ⟨0, live, by decide, by decide⟩,
   ⟨0, engineOp, engineAt .validation, by decide, by decide, by decide⟩,
   ⟨0, { engineOp with refuse := some 0x0302 }, { live with pke := { engines := [(0, { inService := true, op := some { engineOp with refuse := some 0x0302 }, phase := .validation, slotLen := 4 })] } }, by decide, by decide⟩,
   ⟨0, engineOp, { live with pke := { engines := [(0, { inService := true, op := some engineOp, phase := .finish, slotLen := 4, first := some (0, []) })] } }, by decide, by decide, by decide⟩,
   ⟨0, engineOp, (1, []), { live with pke := { engines := [(0, { inService := true, op := some engineOp, phase := .finish, slotLen := 4, first := some (1, []) })] } }, by decide, by decide⟩,
   ⟨0, engineOp, engineAt .main1, by decide⟩,
   ⟨0, engineOp, engineAt .main1, by decide, by decide⟩,
   ⟨0, 0, live, by decide, by decide⟩,
   ⟨0, engineAt .aborted, by decide⟩⟩

/-- The hypotheses of every clause of EngineArithmeticAndMoves are met. -/
theorem witness_EngineArithmeticAndMoves :
    (∃ (e : Nat) (c : PkeCmd) (s : State), (takes e 0x05 c s = true)) ∧
    (∃ (e : Nat) (c : PkeCmd) (s : State), (takes e 0x06 c s = true)) ∧
    (∃ (e : Nat) (c : PkeCmd) (s : State), (takes e 0x04 c s = true)) ∧
    (∃ (e : Nat) (c : PkeCmd) (s : State), (takes e 0x07 c s = true)) ∧
    (∃ (e : Nat) (c : PkeCmd) (s : State), (takes e 0x0B c s = true)) ∧
    (∃ (e : Nat) (c : PkeCmd) (s : State), (takes e 0x01 c s = true)) ∧
    (∃ (e : Nat) (c : PkeCmd) (op : PkeOp) (s : State), (takes e 0x02 c s = true) ∧ ((s.engine e).op = some op)) ∧
    (∃ (e : Nat) (c : PkeCmd) (s : State), (takes e 0x03 c s = true)) ∧
    (∃ (e : Nat) (c : PkeCmd) (s : State), (takes e 0x08 c s = true)) ∧
    (∃ (e : Nat) (c : PkeCmd) (s : State), (takes e 0x09 c s = true)) ∧
    (∃ (e : Nat) (c : PkeCmd) (s : State), (takes e 0x0A c s = true)) :=
  ⟨⟨0, pkeCmd 5, engineReady, by decide⟩,
   ⟨0, pkeCmd 6, engineReady, by decide⟩,
   ⟨0, pkeCmd 4, engineReady, by decide⟩,
   ⟨0, pkeCmd 7, engineReady, by decide⟩,
   ⟨0, { pkeCmd 11 with bit := 2 }, engineReady, by decide⟩,
   ⟨0, pkeCmd 1, engineReady, by decide⟩,
   ⟨0, pkeCmd 2, engineOp, engineReady, by decide, by decide⟩,
   ⟨0, pkeCmd 3, engineReady, by decide⟩,
   ⟨0, pkeCmd 8, engineReady, by decide⟩,
   ⟨0, pkeCmd 9, engineReady, by decide⟩,
   ⟨0, pkeCmd 10, engineReady, by decide⟩⟩

/-- The hypotheses of every clause of EngineChecksAndControl are met. -/
theorem witness_EngineChecksAndControl :
    (∃ (e : Nat) (c : PkeCmd) (s : State), (takes e 0x0C c s = true)) ∧
    (∃ (e : Nat) (c : PkeCmd) (s : State), (takes e 0x0D c s = true)) ∧
    (∃ (e : Nat) (c : PkeCmd) (s : State), (takes e 0x0E c s = true)) ∧
    (∃ (e : Nat) (c : PkeCmd) (s : State), (takes e 0x0F c s = true)) ∧
    (∃ (e : Nat) (c : PkeCmd) (s : State), (takes e 0x10 c s = true) ∧ (c.a ≠ 0)) ∧
    (∃ (e : Nat) (c : PkeCmd) (op : PkeOp) (s : State), (takes e 0x11 c s = true) ∧ ((s.engine e).op = some op)) ∧
    (∃ (e : Nat) (c : PkeCmd) (s : State), (s.running = true)) ∧
    (∃ (e left times : Nat) (seen : List PkeCmd) (c : PkeCmd) (s : State), (s.running = true ∧ (s.engine e).running = true ∧ (s.engine e).rep = some (left + 1, times + 1, seen))) :=
  ⟨⟨0, pkeCmd 12, engineReady, by decide⟩,
   ⟨0, pkeCmd 13, engineReady, by decide⟩,
   ⟨0, pkeCmd 14, engineReady, by decide⟩,
   ⟨0, pkeCmd 15, engineAt .validation, by decide⟩,
   ⟨0, { pkeCmd 16 with a := 2, bit := 3 }, engineReady, by decide, by decide⟩,
   ⟨0, pkeCmd 17, engineOp, engineReady, by decide, by decide⟩,
   ⟨0, { pkeCmd 1 with len := 9 }, engineReady, by decide⟩,
   ⟨0, 0, 1, [], pkeCmd 5, { live with pke := { engines := [(0, { inService := true, op := some engineOp, phase := .main1, slotLen := 4, mctx := [(0, (7, 1))], slots := [(0, 7), (1, 3), (2, 3)], rep := some (1, 2, []) })] } }, by decide⟩⟩

/-- The hypotheses of every clause of MontgomeryProduct are met. -/
theorem witness_MontgomeryProduct :
    (∃ (e : Nat) (c : PkeCmd) (s : State), (takes e 0x04 c s = true) ∧ ((s.engine e).modulus c.mctx % 2 = 1 ∧ c.len < 256)) :=
  ⟨0, pkeCmd 4, engineReady, by decide, by decide⟩

/-- The hypotheses of every clause of EllipticCurveOperations are met. -/
theorem witness_EllipticCurveOperations :
    (∃ (q : Call) (handle e : Nat) (message : Bool) (input : Bytes) (k : LoadedKey) (c : Curve) (s : State), (ready 0x0301 q 0 s = true ∧ s.level = 0 ∧ s.rnu.st = .ready) ∧ (findKey q.f handle [0x10, 0x11] useSign s = .found k) ∧ (c = (if k.blob.attr.kind = 0x11 then p384 else p256) ∧ 2 * c.bytes ≤ q.hdr.outLen) ∧ (s.idleEngine false e)) ∧
    (∃ (q : Call) (curve e x y r g : Nat) (message : Bool) (input : Bytes) (c : Curve) (s : State), (ready 0x0302 q 0 s = true) ∧ (curveOf s q.f curve = some c ∧ c.form = 1 ∧ 4 * c.bytes ≤ q.hdr.inLen) ∧ (inputInts c.bytes 4 input = [x, y, r, g]) ∧ (s.idleEngine false e)) ∧
    (∃ (q : Call) (handle e : Nat) (input : Bytes) (k : LoadedKey) (s : State), (ready 0x0303 q 64 s = true ∧ s.level = 0 ∧ s.rnu.st = .ready) ∧ (findKey q.f handle [0x12] useSign s = .found k) ∧ (s.idleEngine false e)) ∧
    (∃ (q : Call) (e : Nat) (input : Bytes) (a r : Nat × Nat) (s : State), (ready 0x0304 q 0 s = true ∧ 96 ≤ q.hdr.inLen) ∧ (edDecode (input.take 32) = some a ∧ edDecode ((input.drop 32).take 32) = some r) ∧ (s.idleEngine false e)) ∧
    (∃ (q : Call) (e : Nat) (input : Bytes) (s : State), (ready 0x0304 q 0 s = true ∧ 96 ≤ q.hdr.inLen) ∧ (inRange2 ed25519.n (leNat ((input.drop 64).take 32)) = true) ∧ (edDecode (input.take 32) = none) ∧ (s.idleEngine false e)) ∧
    (∃ (q : Call) (handle e x y : Nat) (input : Bytes) (k : LoadedKey) (c : Curve) (s : State), (ready 0x0305 q 0 s = true ∧ s.level = 0 ∧ s.rnu.st = .ready) ∧ (findKey q.f handle [0x13, 0x14, 0x15] useAgree s = .found k ∧ k.blob.attr.kind ≠ 0x15 ∧ c = (if k.blob.attr.kind = 0x14 then p384 else p256)) ∧ (c.bytes ≤ q.hdr.outLen ∧ 2 * c.bytes ≤ q.hdr.inLen) ∧ (inputInts c.bytes 2 input = [x, y]) ∧ (s.idleEngine false e)) ∧
    (∃ (q : Call) (handle e : Nat) (input : Bytes) (k : LoadedKey) (s : State), (ready 0x0305 q 0 s = true ∧ s.level = 0 ∧ s.rnu.st = .ready) ∧ (findKey q.f handle [0x13, 0x14, 0x15] useAgree s = .found k ∧ k.blob.attr.kind = 0x15) ∧ (32 ≤ q.hdr.inLen ∧ 32 ≤ q.hdr.outLen) ∧ (s.idleEngine false e)) ∧
    (∃ (q : Call) (curve e x y : Nat) (input : Bytes) (c : Curve) (s : State), (ready 0x030A q 0 s = true) ∧ (curve ≠ 4 ∧ curveOf s q.f curve = some c ∧ 2 * c.bytes ≤ q.hdr.inLen) ∧ (inputInts c.bytes 2 input = [x, y]) ∧ (s.idleEngine false e)) ∧
    (∃ (q : Call) (e : Nat) (input : Bytes) (s : State), (ready 0x030A q 0 s = true ∧ 32 ≤ q.hdr.inLen) ∧ (s.idleEngine false e)) :=
  ⟨⟨call 0x0301, 1, 0, false, [], { blob := pkBlob 0x10 }, p256, pkLive 0x10, by decide, by decide, by decide, by decide⟩,
   ⟨longCall 0x0302, 1, 0, 0, 0, 0, 0, false, List.replicate 128 0, p256, pkLive 0x10, by decide, by decide, by decide, by decide⟩,
   ⟨call 0x0303, 1, 0, [], { blob := pkBlob 0x12 }, pkLive 0x12, by decide, by decide, by decide⟩,
   ⟨longCall 0x0304, 0, 0x01 :: List.replicate 31 0 ++ (0x01 :: List.replicate 63 0), (0, 1), (0, 1), pkLive 0x10, by decide, by decide, by decide⟩,
   ⟨longCall 0x0304, 0, 0x02 :: List.replicate 63 0 ++ (0x02 :: List.replicate 31 0), pkLive 0x10, by decide, by decide, by decide, by decide⟩,
   ⟨longCall 0x0305, 1, 0, 0, 0, List.replicate 64 0, { blob := { pkBlob 0x13 with attr := { (pkBlob 0x13).attr with usage := 0x40 } } }, p256, { pkLive 0x13 with key := { live.key with keys := [(1, { blob := { pkBlob 0x13 with attr := { (pkBlob 0x13).attr with usage := 0x40 } } })] } }, by decide, by decide, by decide, by decide, by decide⟩,
   ⟨longCall 0x0305, 1, 0, [], { blob := { pkBlob 0x15 with attr := { (pkBlob 0x15).attr with usage := 0x40 } } }, agreeLive, by decide, by decide, by decide, by decide⟩,
   ⟨longCall 0x030A, 1, 0, 0, 0, List.replicate 64 0, p256, pkLive 0x10, by decide, by decide, by decide, by decide⟩,
   ⟨longCall 0x030A, 0, 0x01 :: List.replicate 31 0, pkLive 0x10, by decide, by decide⟩⟩

/-- The hypotheses of every clause of RsaAndCurveOperations are met. -/
theorem witness_RsaAndCurveOperations :
    (∃ (q : Call) (handle pad hash salt e : Nat) (input : Bytes) (k : LoadedKey) (s : State), (ready 0x0306 q 0 s = true ∧ s.level = 0 ∧ s.rnu.st = .ready) ∧ (findKey q.f handle [0x20, 0x21, 0x22] useSign s = .found k) ∧ (modBytes k.blob.attr.kind ≤ q.hdr.outLen ∧ signPadOk pad hash salt = true ∧ q.hdr.inLen = hashLen hash) ∧ (s.idleEngine true e)) ∧
    (∃ (q : Call) (handle hash e : Nat) (input : Bytes) (k : LoadedKey) (s : State), (ready 0x0307 q 0 s = true ∧ s.level = 0 ∧ s.rnu.st = .ready) ∧ (findKey q.f handle [0x20, 0x21, 0x22] useDecrypt s = .found k) ∧ (modBytes k.blob.attr.kind - 2 * hashLen hash - 2 ≤ q.hdr.outLen) ∧ (hashOk hash = true ∧ modBytes k.blob.attr.kind ≤ q.hdr.inLen) ∧ (s.idleEngine true e)) ∧
    (∃ (q : Call) (len pad hash salt e : Nat) (input : Bytes) (n x m : Nat) (h : Bytes) (s : State), (ready 0x0308 q 0 s = true) ∧ (modBytesOk len = true ∧ signPadOk pad hash salt = true ∧ 2 * len + 8 + hashLen hash ≤ q.hdr.inLen) ∧ (n = beNat (input.take len) ∧ x = beNat ((input.drop len).take 8) ∧ m = beNat ((input.drop (len + 8)).take len) ∧ h = (input.drop (2 * len + 8)).take (hashLen hash)) ∧ (s.idleEngine true e)) ∧
    (∃ (q : Call) (len hash e : Nat) (input : Bytes) (n x m : Nat) (s : State), (ready 0x0309 q len s = true ∧ s.rnu.st = .ready) ∧ (modBytesOk len = true ∧ hashOk hash = true) ∧ (len + 8 ≤ q.hdr.inLen ∧ q.hdr.inLen - (len + 8) + 2 * hashLen hash + 2 ≤ len) ∧ (n = beNat (input.take len) ∧ x = beNat ((input.drop len).take 8) ∧ m = beNat (oaepEncode hash len (input.drop (len + 8)) (draw (hashLen hash) s).1)) ∧ (s.idleEngine true e)) ∧
    (∃ (q : Call) (e w n : Nat) (input : Bytes) (s : State), (ready 0x030B q 0 s = true ∧ s.rnu.st = .ready) ∧ (w = leAt input 1 1 ∧ 3 ≤ w ∧ w ≤ 9 ∧ 8 + 48 * w ≤ q.hdr.inLen) ∧ (n = curveCheck input (draw (128 * 8 * w) s).1) ∧ (s.idleEngine false e)) ∧
    (∃ (q : Call) (input : Bytes) (s : State), (ready 0x030B q 0 s = true) ∧ (q.hdr.inLen < (if 3 ≤ leAt input 1 1 ∧ leAt input 1 1 ≤ 9 then 8 + 48 * leAt input 1 1 else 8))) ∧
    (∃ (q : Call) (curve : Nat) (s : State), (ready 0x030C q 0 s = true)) ∧
    (∃ (q : Call) (block input : Bytes) (s : State), (s.running = true)) ∧
    (∃ (q : Call) (block input : Bytes) (b : SeqBlock) (s : State), (seqReserved block = false ∧ seqMalformed block = false ∧ b = seqBlock block input) ∧ (ready 0x030D q (b.results.foldl (fun n x => n + 8 * x.2) 0) s = true) ∧ (seqBad b q.hdr.inLen = true ∨ 2500000 < seqCycles b)) ∧
    (∃ (q : Call) (block input : Bytes) (b : SeqBlock) (e : Nat) (s : State), (seqReserved block = false ∧ seqMalformed block = false ∧ b = seqBlock block input) ∧ (ready 0x030D q (b.results.foldl (fun n x => n + 8 * x.2) 0) s = true) ∧ (seqBad b q.hdr.inLen = false ∧ seqCycles b ≤ 2500000) ∧ (s.idleEngine (b.cls == 1) e)) :=
  ⟨⟨{ call 0x0306 with hdr := { (call 0x0306).hdr with inLen := 32 } }, 1, 1, 1, 0, 6, [], { blob := pkBlob 0x20 }, pkLive 0x20, by decide, by decide, by decide, by decide⟩,
   ⟨longCall 0x0307, 1, 1, 6, [], { blob := pkBlob 0x20 }, pkLive 0x20, by decide, by decide, by decide, by decide, by decide⟩,
   ⟨longCall 0x0308, 256, 1, 1, 0, 6, [], 0, 0, 0, [], pkLive 0x10, by decide, by decide, by decide, by decide⟩,
   ⟨{ call 0x0309 with hdr := { (call 0x0309).hdr with inLen := 280 } }, 256, 1, 6, [], 0, 0, beNat (oaepEncode 1 256 [] (draw (hashLen 1) (pkLive 0x10)).1), pkLive 0x10, by decide, by decide, by decide, ⟨by decide, by decide, rfl⟩, by decide⟩,
   ⟨longCall 0x030B, 0, 3, 1, 0x00 :: 3 :: List.replicate 150 0, pkLive 0x10, by decide, by decide, by rw [curveCheck]; rw [if_pos (by decide)], by decide⟩,
   ⟨call 0x030B, [], pkLive 0x10, by decide, by decide⟩,
   ⟨call 0x030C, 0x80, live, by decide⟩,
   ⟨call 0x030D, [], [], live, by decide⟩,
   ⟨call 0x030D, seqBytes, [], seqBlock seqBytes [], pkLive 0x10, by decide, by decide, by decide⟩,
   ⟨longCall 0x030D, seqBytes, [], seqBlock seqBytes [], 0, pkLive 0x10, by decide, by decide, by decide, by decide⟩⟩

/-- The hypotheses of every clause of PublicKeyRefusals are met. -/
theorem witness_PublicKeyRefusals :
    (∃ (q : Call) (handle : Nat) (message : Bool) (input : Bytes) (k : LoadedKey) (n : Nat) (s : State), (ready 0x0301 q 0 s = true) ∧ (findKey q.f handle [0x10, 0x11] useSign s = .found k) ∧ (n = (if k.blob.attr.kind = 0x11 then 96 else 64))) :=
  ⟨call 0x0301, 1, false, [], { blob := pkBlob 0x10 }, 64, pkLive 0x10, by decide, by decide, by decide⟩

/-- The hypotheses of every clause of SymmetricOperations are met. -/
theorem witness_SymmetricOperations :
    (∃ (q : Call) (alg : Nat) (input : Bytes) (s : State), (alg = 1 ∨ alg = 2 ∨ alg = 3) ∧ (ready 0x0201 q (if alg = 1 then 32 else if alg = 2 then 48 else 64) s = true)) ∧
    (∃ (q : Call) (handle alg tagLen iv : Nat) (input : Bytes) (k : LoadedKey) (s : State), (ready 0x0202 q tagLen s = true) ∧ (findKey q.f handle (macKinds alg) useMac s = .found k) ∧ (macBodyOk alg tagLen iv = true)) ∧
    (∃ (q : Call) (handle alg tagLen iv : Nat) (tag input : Bytes) (k : LoadedKey) (s : State), (ready 0x0203 q 0 s = true) ∧ (findKey q.f handle (macKinds alg) useMac s = .found k) ∧ (macBodyOk alg tagLen iv = true)) ∧
    (∃ (q : Call) (handle tagLen iv aadLen : Nat) (input : Bytes) (k : LoadedKey) (s : State), (ready 0x0204 q (q.hdr.inLen - aadLen + tagLen) s = true) ∧ (findKey q.f handle [0x01, 0x02] useEncrypt s = .found k) ∧ (aeadBodyOk tagLen false iv aadLen q.hdr.inLen = true)) ∧
    (∃ (q : Call) (handle tagLen iv aadLen : Nat) (input : Bytes) (k : LoadedKey) (s : State), (ready 0x0204 q (q.hdr.inLen - aadLen + tagLen + 12) s = true) ∧ (findKey q.f handle [0x01, 0x02] useEncrypt s = .found k) ∧ (aeadBodyOk tagLen true iv aadLen q.hdr.inLen = true) ∧ (s.rnu.st = .ready)) ∧
    (∃ (q : Call) (handle tagLen iv aadLen n : Nat) (input : Bytes) (k : LoadedKey) (s : State), (n = q.hdr.inLen - aadLen - tagLen ∧ ready 0x0205 q n s = true) ∧ (findKey q.f handle [0x01, 0x02] useDecrypt s = .found k) ∧ (aeadBodyOk tagLen false iv (aadLen + tagLen) q.hdr.inLen = true)) :=
  ⟨⟨call 0x0201, 2, [], live, by decide, by decide⟩,
   ⟨call 0x0202, 1, 2, 16, 0, [], { blob := { pkBlob 2 with attr := { (pkBlob 2).attr with usage := 0x1F } } }, macLive, by decide, rfl, by decide⟩,
   ⟨call 0x0203, 1, 2, 16, 0, [], [], { blob := { pkBlob 2 with attr := { (pkBlob 2).attr with usage := 0x1F } } }, macLive, by decide, rfl, by decide⟩,
   ⟨longCall 0x0204, 1, 16, 0, 0, [], { blob := pkBlob 2 }, pkLive 2, by decide, rfl, by decide⟩,
   ⟨longCall 0x0204, 1, 16, 0, 0, [], { blob := pkBlob 2 }, pkLive 2, by decide, rfl, by decide, by decide⟩,
   ⟨longCall 0x0205, 1, 16, 0, 0, 1008, [], { blob := pkBlob 2 }, pkLive 2, by decide, rfl, by decide⟩⟩

/-- The hypotheses of every clause of TlsSessions are met. -/
theorem witness_TlsSessions :
    (∃ (q : Call) (handle role versions : Nat) (requirePeer : Bool) (cert : Bytes) (s : State), (ready 0x0401 q 0 s = true) ∧ (role < 2 ∧ 1 ≤ versions ∧ versions ≤ 3 ∧ q.hdr.inLen ≤ 16384) ∧ ((role = 0 ∧ handle = 0) ∨ ∃ k, findKey q.f handle [0x10, 0x11, 0x12, 0x20, 0x21, 0x22] useSign s = .found k)) ∧
    (∃ (q : Call) (session : Nat) (x : TlsStep) (v : TlsSession) (s : State), (ready 0x0402 q 32768 s = true ∧ sessionTaken q session s = false) ∧ (openSession s q.f session = some v) ∧ ((v.key = 0 ∧ v.server = false) ∨ ∃ k, findKey q.f v.key [0x10, 0x11, 0x12, 0x20, 0x21, 0x22] useSign s = .found k) ∧ (s.rnu.st = .ready ∧ x.st ≤ 2 ∧ x.sendLen ≤ 32768)) ∧
    (∃ (q : Call) (session typ : Nat) (input : Bytes) (v : TlsSession) (s : State), (ready 0x0403 q (q.hdr.inLen + 29) s = true ∧ sessionTaken q session s = false) ∧ (openSession s q.f session = some v)) ∧
    (∃ (q : Call) (session : Nat) (input : Bytes) (v : TlsSession) (s : State), (ready 0x0404 q q.hdr.inLen s = true ∧ sessionTaken q session s = false) ∧ (openSession s q.f session = some v)) ∧
    (∃ (q : Call) (session : Nat) (s : State), (ready 0x0405 q 0 s = true ∧ sessionTaken q session s = false)) ∧
    (∃ (q : Call) (session : Nat) (v : TlsSession) (s : State), (ready 0x0406 q 16384 s = true ∧ sessionTaken q session s = false) ∧ (openSession s q.f session = some v)) :=
  ⟨⟨call 0x0401, 0, 0, 3, false, [], live, by decide, by decide, .inl ⟨rfl, rfl⟩⟩,
   ⟨call 0x0402, 9, { st := 1 }, tlsOne 0, tlsLive 0, by decide, by decide, .inl ⟨rfl, rfl⟩, by decide⟩,
   ⟨call 0x0403, 9, 23, [], tlsOne 1, tlsLive 1, by decide, by decide⟩,
   ⟨call 0x0404, 9, [], tlsOne 1, tlsLive 1, by decide, by decide⟩,
   ⟨call 0x0405, 9, tlsLive 1, by decide⟩,
   ⟨call 0x0406, 9, tlsOne 1, tlsLive 1, by decide, by decide⟩⟩

/-- The hypotheses of every clause of SealedDataOpens are met. -/
theorem witness_SealedDataOpens :
    (∃ (q : Call) (handle tagLen iv : Nat) (aad plain : Bytes) (k : LoadedKey) (s : State), (ready 0x0205 q plain.length s = true ∧ q.hdr.inLen = aad.length + plain.length + tagLen) ∧ (findKey q.f handle [0x01, 0x02] useDecrypt s = .found k) ∧ (12 ≤ tagLen ∧ tagLen ≤ 16)) ∧
    (∃ (kek : Bytes) (format handle epoch iv : Nat) (attr : KeyAttr) (material : Bytes), (material.length = attr.keyLen)) ∧
    (∃ (q : Call) (session typ : Nat) (plain : Bytes) (v w : TlsSession) (s : State), (ready 0x0404 q q.hdr.inLen s = true ∧ sessionTaken q session s = false) ∧ (openSession s q.f session = some w ∧ w.st = 1) ∧ (w.tls13 = v.tls13 ∧ w.rxKey = v.txKey ∧ w.rxIv = v.txIv ∧ w.openedCount = v.sealedCount ∧ v.sealedCount < 2 ^ 64) ∧ (typ = 21 ∨ typ = 23)) :=
  ⟨⟨{ call 0x0205 with hdr := { (call 0x0205).hdr with inLen := 17 } }, 1, 16, 0, [], [7], { blob := pkBlob 2 }, pkLive 2, by decide, by decide, by decide⟩,
   ⟨[1], 1, 1, 0, 5, { kind := 2, usage := 1, keyLen := 2 }, [8, 9], by decide⟩,
   ⟨call 0x0404, 9, 23, [1], tlsOne 1, tlsOne 1, tlsLive 1, by decide, by decide, by decide, by decide⟩⟩

/-- The hypotheses of every clause of AccessChecksAndUpdates are met. -/
theorem witness_AccessChecksAndUpdates :
    (∃ (x : Access) (s : State), (s.running = true) ∧ (x.group < 16 ∧ 0 < x.len ∧ x.addr % 4096 + x.len ≤ 4096) ∧ (isHeld s x = false ∧ staleAccess s x = false) ∧ (grants s x x.addr = true)) ∧
    (∃ (x : Access) (s : State), (s.running = true) ∧ (x.group < 16 ∧ 4096 < x.addr % 4096 + x.len ∧ x.addr % 4096 + x.len ≤ 8192) ∧ (isHeld s x = false ∧ staleAccess s x = false) ∧ (grants s x x.addr = true ∧ grants s x (x.addr + (4096 - x.addr % 4096)) = true)) ∧
    (∃ (x : Access) (s : State), (s.running = true) ∧ (x.group < 16 ∧ 0 < x.len ∧ x.addr % 4096 + x.len ≤ 4096) ∧ (isHeld s x = false ∧ staleAccess s x = false) ∧ (grants s x x.addr = false)) ∧
    (∃ (x : Access) (s : State), (s.running = true) ∧ (x.group < 16 ∧ 0 < x.len ∧ x.addr % 4096 + x.len ≤ 4096) ∧ (isHeld s x = false ∧ staleAccess s x = true)) ∧
    (∃ (x : Access) (s : State), (s.running = true) ∧ (x.group < 16 ∧ 0 < x.len) ∧ (isHeld s x = true)) ∧
    (∃ (mask core epoch : Nat) (s : State), (s.running = true)) ∧
    (∃ (mask core epoch : Nat) (s : State), (s.running = true) ∧ (mask &&& updateMask = mask) ∧ (staleAccess s { group := 3, core, epoch, addr := 0, len := 1, write := true } = false)) ∧
    (∃ (writes : List RuleWrite) (u : Update) (s : State), (s.running = true) ∧ (s.ac.upd = some u ∧ updateOver s u = false) ∧ (writes.all (writeOk s.ac.table) = true)) ∧
    (∃ (writes : List RuleWrite) (y : RuleWrite) (u : Update) (s : State), (s.running = true) ∧ (s.ac.upd = some u ∧ updateOver s u = false) ∧ (y ∈ writes ∧ ((∃ r w, y = .slot 18 r w) ∨ (∃ n e, y = .region n e ∧ ((Tbl.get {} s.ac.table.regions n).lock = true ∨ (e.testBit 9 = true ∧ (e / 1024 % 32 < 15 ∨ 27 < e / 1024 % 32))))))) ∧
    (∃ (writes : List RuleWrite) (s : State), (s.running = true)) ∧
    (∃ (s : State), (reaches 0 s = true)) :=
  ⟨⟨{ group := 3, addr := 0x1000, len := 4, write := true }, { live with ts := { cores := [(0, { st := .waiting })] } }, by decide, by decide, by decide, by decide⟩,
   ⟨{ group := 3, addr := 0x1FFC, len := 8, write := true }, { live with ts := { cores := [(0, { st := .waiting })] } }, by decide, by decide, by decide, by decide⟩,
   ⟨{ group := 8, addr := 0x1000, len := 4, write := true }, live, by decide, by decide, by decide, by decide⟩,
   ⟨{ group := 2, addr := 0x1000, len := 4, write := true }, live, by decide, by decide, by decide⟩,
   ⟨{ group := 8, addr := 0x1000, len := 4, write := true }, { live with ac := { upd := some { mask := 0x100, core := 0, epoch := 0, since := 0 } } }, by decide, by decide, by decide⟩,
   ⟨0x800, 0, 0, live, by decide⟩,
   ⟨0x100, 0, 0, { live with ts := { cores := [(0, { st := .waiting })] } }, by decide, by decide, by decide⟩,
   ⟨[.slot 3 8 8], { mask := 0x100, core := 0, epoch := 0, since := 0 }, { live with sck := { live.sck with now := 5 }, ts := { cores := [(0, { st := .waiting })] }, ac := { upd := some { mask := 0x100, core := 0, epoch := 0, since := 0 } } }, by decide, by decide, by decide⟩,
   ⟨[.slot 18 8 8], .slot 18 8 8, { mask := 0x100, core := 0, epoch := 0, since := 0 }, { live with sck := { live.sck with now := 5 }, ts := { cores := [(0, { st := .waiting })] }, ac := { upd := some { mask := 0x100, core := 0, epoch := 0, since := 0 } } }, by decide, by decide, ⟨by decide, .inl ⟨8, 8, rfl⟩⟩⟩,
   ⟨[], { live with ts := { cores := [(0, { st := .waiting })] }, ac := { upd := some { mask := 0x100, core := 0, epoch := 0, since := 0 } } }, by decide⟩,
   ⟨live, by decide⟩⟩

/-- The hypotheses of every clause of MemoryErrorsAndCopies are met. -/
theorem witness_MemoryErrorsAndCopies :
    (∃ (w : WordRead) (last : Bool) (s : State), (s.running = true)) ∧
    (∃ (addr id : Nat) (c : Ctx) (s : State), (s.ctx? id = some c)) ∧
    (∃ (x : Access) (m : Option MemErr) (again : Bool) (u : State) (s : State), (s.running = true) ∧ (u = raiseEvent .ac 0 1 { s with ac := { s.ac with retried := min 0xFFFFFFFF (s.ac.retried + 1) } })) ∧
    (∃ (port stamp : Nat) (c : TxCopy) (fr : TxFrame) (m : Option MacsecOut) (s : State), (s.running = true) ∧ (nextCopy port s.fe.copies = some c ∧ c.core = none ∧ s.frameOf c = some fr) ∧ ((s.macsecOn c.port = false ∧ m = none) ∨ (s.macsecOn c.port = true ∧ s.macsecDown c.port = false ∧ c.macsec = m ∧ m.isSome = true)) ∧ (residence fr s.sck.now < 1000000)) ∧
    (∃ (port stamp : Nat) (c : TxCopy) (fr : TxFrame) (s : State), (s.running = true)) ∧
    (∃ (port stamp src : Nat) (c : TxCopy) (x : CoreFrame) (s : State), (s.running = true) ∧ (nextCopy port s.fe.copies = some c ∧ c.core = some (src, x)) ∧ ((s.macsecOn c.port && !isEapol x) = false)) ∧
    (∃ (copy port stamp : Nat) (c : TxCopy) (fr : TxFrame) (s : State), (s.running = true)) :=
  ⟨⟨{ addr := 0x07CA0000, data := 0, code := 0, what := .stamp none }, true, live, by decide⟩,
   ⟨0, 7, ctxIn, { live with hif := { live.hif with ctxs := [ctxIn] } }, by decide⟩,
   ⟨{ group := 3, addr := 0x1000, len := 4, write := true }, some (.stamp none), true, raiseEvent .ac 0 1 { live with ac := { live.ac with retried := 1 } }, live, by decide, by decide⟩,
   ⟨1, 5000000100, copyOut, frameOne 10000 false, none, frameLive 10000 false 5000000000, by decide, by decide, by decide, by decide⟩,
   ⟨1, 5000000100, copyOut, frameOne 10000 false, frameLive 10000 false 5000000000, by decide⟩,
   ⟨1, 5000000100, 7, { copyOut with core := some (7, .pdelayReq) }, .pdelayReq, { frameLive 10000 false 5000000000 with fe := { forwarding := true, copies := [{ copyOut with core := some (7, .pdelayReq) }] } }, by decide, by decide, by decide⟩,
   ⟨1, 1, 5000000100, copyOut, frameOne 0 true, frameLive 0 true 5001000000, by decide⟩⟩

/-- The hypotheses of every clause of PlansLoadArmAndRead are met. -/
theorem witness_PlansLoadArmAndRead :
    (∃ (q : Call) (length : Nat) (p : Partition) (s : State), (ready 0x0601 q 16 s = true) ∧ (length ≠ 0) ∧ (s.part? q.f = some p)) ∧
    (∃ (q : Call) (length : Nat) (i : PlanImage) (p : Partition) (s : State), (ready 0x0601 q 16 s = true) ∧ (s.level = 0 ∧ length ≠ 0) ∧ (s.part? q.f = some p ∧ p.standby = .loading) ∧ ((s.func q.f).dpCtx = s.ctxIdFor q ∧ (s.func q.f).dpCtx ≠ none) ∧ (checkPlan s q.f p.base p.size length false i = none)) ∧
    (∃ (q : Call) (length : Nat) (i : PlanImage) (p : Partition) (x : PlanFault) (comp : Completion) (s : State), (s.part? q.f = some p ∧ p.standby = .loading) ∧ ((s.func q.f).dpCtx = s.ctxIdFor q ∧ (s.func q.f).dpCtx ≠ none) ∧ (length ≠ 0) ∧ ((checkPlan s q.f p.base p.size length false i = some x ∧ comp = { code := 0x0101, resultLen := 16, output := planResult x.1 x.2.1 x.2.2 } ∧
      ready 0x0601 q 16 s = true ∧ s.level = 0) ∨
    (x.1 = 0 ∧ comp = { code := 0x0601 } ∧ s.running = true ∧ staged q s = false ∧ 1 ≤ s.level ∧ opGate 0x0601 q 16 s = some comp))) ∧
    (∃ (q : Call) (back : Bool) (second rate slot instant : Nat) (p : Partition) (c : PlanCopy) (s : State), (ready (if back then 0x0603 else 0x0602) q 16 s = true) ∧ (s.part? q.f = some p ∧ p.held = some c) ∧ (instantOf second rate slot = some instant)) ∧
    (∃ (q : Call) (second rate slot : Nat) (p : Partition) (s : State), (s.part? q.f = some p) ∧ (instantOf second rate slot = none)) ∧
    (∃ (q : Call) (second rate slot instant : Nat) (p : Partition) (s : State), (s.part? q.f = some p ∧ p.held = none) ∧ (instantOf second rate slot = some instant)) ∧
    (∃ (q : Call) (p : Partition) (s : State), (ready 0x0604 q 0 s = true) ∧ (s.part? q.f = some p)) ∧
    (∃ (q : Call) (copy : Nat) (p : Partition) (s : State), (ready 0x0605 q 0 s = true) ∧ (s.part? q.f = some p)) ∧
    (∃ (q : Call) (c : Instr) (length second rate slot copy : Nat) (s : State), (c ∈ ([.planLoad q length none, .planActivate q second rate slot, .planRollback q second rate slot, .planCancel q, .planRead q copy] : List Instr)) ∧ (s.running = true ∧ staged q s = false) ∧ (s.part? q.f = none)) :=
  ⟨⟨call 0x0601, 64, partOne .ready, partLive .ready, by decide, by decide, by decide⟩,
   ⟨call 0x0601, 0x290, planSigned, { partOne .loading with size := 1, vaultIncoming := some 0 }, planLive, by decide, by decide, by decide, by decide, plan_checks⟩,
   ⟨call 0x0601, 0x290, { planSigned with format := 2 }, { partOne .loading with size := 1, vaultIncoming := some 0 }, (0x01, 0xFFFFFFFF, 4), { code := 0x0101, resultLen := 16, output := planResult 0x01 0xFFFFFFFF 4 }, planLive, by decide, by decide, by decide, by decide⟩,
   ⟨call 0x0602, false, 10, 0, 0, 10000000000, partOne .ready, copyNone, partLive .ready, by decide, by decide, by decide⟩,
   ⟨call 0x0602, 10, 7, 0, partOne .ready, partLive .ready, by decide, by decide⟩,
   ⟨call 0x0602, 10, 0, 0, 10000000000, { partOne .empty with held := none }, { live with pln := { parts := [(0, { partOne .empty with held := none })] } }, by decide, by decide⟩,
   ⟨call 0x0604, partOne .armed, partLive .armed, by decide, by decide⟩,
   ⟨call 0x0605, 0, partOne .ready, partLive .ready, by decide, by decide⟩,
   ⟨call 0x0604, .planCancel (call 0x0604), 0, 0, 0, 0, 0, live, by decide, by decide, by decide⟩⟩

/-- The hypotheses of every clause of PartitionsAndCounterReads are met. -/
theorem witness_PartitionsAndCounterReads :
    (∃ (q : Call) (fn base size : Nat) (s : State), (ready 0x0606 q 0 s = true)) ∧
    (∃ (q : Call) (fn second : Nat) (s : State), (ready 0x0607 q 0 s = true)) ∧
    (∃ (f : Nat) (p : Partition) (s : State), (s.running = true) ∧ (s.part? f = some p ∧ Tbl.wf s.pln.parts = true)) ∧
    (∃ (q : Call) (first count : Nat) (p : Partition) (s : State), (ready 0x0608 q (128 * count) s = true) ∧ (s.part? q.f = some p)) ∧
    (∃ (q : Call) (first count : Nat) (p : Partition) (s : State), (ready 0x0609 q 0 s = true) ∧ (s.part? q.f = some p)) :=
  ⟨⟨call 0x0606, 1, 256, 256, partLive .ready, by decide⟩,
   ⟨call 0x0607, 0, 9, partLive .ready, by decide⟩,
   ⟨0, { partOne .ready with releaseAt := some 5000000000 }, { live with pln := { parts := [(0, { partOne .ready with releaseAt := some 5000000000 })] } }, by decide, by decide⟩,
   ⟨call 0x0608, 5, 1, partOne .ready, partLive .ready, by decide, by decide⟩,
   ⟨call 0x0609, 5, 1, partOne .ready, partLive .ready, by decide, by decide⟩⟩

/-- The hypotheses of every clause of PlansSwitchAndDrain are met. -/
theorem witness_PlansSwitchAndDrain :
    (∃ (f : Nat) (p : Partition) (s : State), (s.running = true) ∧ (plansHeld s = false ∧ Tbl.wf s.pln.parts = true) ∧ (s.part? f = some p ∧ p.standby = .armed ∧ p.deferred = false ∧ p.instant ≤ s.sck.now) ∧ (∀ x ∈ s.pln.parts, x.1 ≠ f → x.2.standby = .armed → x.2.deferred = false → s.sck.now < x.2.instant) ∧ (Tbl.wf (entriesOf p.held) = true)) ∧
    (∃ (s : State), (s.running = true) ∧ (plansHeld s = true ∨ ∀ x ∈ s.pln.parts, x.2.standby = .armed → x.2.deferred = false → s.sck.now < x.2.instant)) ∧
    (∃ (f : Nat) (p : Partition) (s : State), (s.running = true) ∧ (s.part? f = some p ∧ p.standby = .armed ∧ p.deferred = true ∧ Tbl.wf s.pln.parts = true) ∧ (∀ x ∈ s.pln.parts, x.1 ≠ f → x.2.standby = .armed → x.2.deferred = false) ∧ (Tbl.wf (entriesOf p.held) = true)) ∧
    (∃ (f : Nat) (p : Partition) (s : State), (s.running = true) ∧ (s.part? f = some p)) ∧
    (∃ (f entry : Nat) (standby ok : Bool) (p : Partition) (s : State), (s.running = true) ∧ (s.part? f = some p)) ∧
    (∃ (entries : List (Nat × Bool)) (s : State), (s.running = true)) :=
  ⟨⟨0, partOne .armed, partLive .armed, by decide, by decide, by decide, by decide, by decide⟩,
   ⟨live, by decide, by decide⟩,
   ⟨0, { partOne .armed with deferred := true }, { live with pln := { parts := [(0, { partOne .armed with deferred := true })] } }, by decide, by decide, by decide, by decide⟩,
   ⟨0, partOne .draining, partLive .draining, by decide, by decide⟩,
   ⟨0, 5, false, true, { partOne .ready with active := some { copyNone with entries := [(5, entryOne)] }, reload := [(5, 0)] }, partEntry, by decide, by decide⟩,
   ⟨[(5, false)], partEntry, by decide⟩⟩

/-- The hypotheses of every clause of PadsAndAcceptance are met. -/
theorem witness_PadsAndAcceptance :
    (∃ (n : Nat) (s : State), (s.running = true)) ∧
    (∃ (e : Entry) (r : EntryRt) (p : Pred) (i : Nat) (next : Bool) (k : LoadedKey) (s : State), (r.pred = some p ∧ (i, next) ∈ padPlaces e s.sck.now r) ∧ (s.key? (if next then e.keyNext else e.keyCur) = some k)) ∧
    (∃ (n : Nat) (s : State), (s.running = true)) ∧
    (∃ (n f : Nat) (e : Entry) (s : State), (s.running = true) ∧ (s.entryAt n false = some (f, e))) ∧
    (∃ (n f : Nat) (e : Entry) (s : State), (s.running = true) ∧ (s.entryAt n false = some (f, e))) ∧
    (∃ (n : Nat) (c : Instr) (s : State), (s.running = true ∧ s.entryAt n false = none) ∧ (c ∈ ([.padRefill n, .dualKeyPadWindow n, .dualKeyPadWindowEnd n, .acceptIntervalOpen n, .acceptIntervalClose n] : List Instr))) :=
  ⟨⟨5, padLive {} 5000000000, by decide⟩,
   ⟨padOne, { pred := some { s := 9, cLast := 4, n := 1 } }, { s := 9, cLast := 4, n := 1 }, 2, true, { blob := plainBlob }, padLive {} 5000000000, by decide, by decide⟩,
   ⟨5, padLive {} 5000000000, by decide⟩,
   ⟨5, 0, padOne, padLive { dual := true } 5001000000, by decide, by decide⟩,
   ⟨5, 0, padOne, padLive {} 5000000000, by decide, by decide⟩,
   ⟨5, .padRefill 5, live, by decide, by decide⟩⟩

/-- The hypotheses of every clause of FramesReceivedAndPublished are met. -/
theorem witness_FramesReceivedAndPublished :
    (∃ (fr : Frame) (c : Bool) (s u : State), (s.running = true) ∧ (u = bumpPort fr.port pRxBytes (lineLength fr) (bumpPort fr.port pRxFrames 1 (heard fr.port s)))) ∧
    (∃ (fr : Frame) (a : RxSa) (t : SecTag) (u : State), (u.macsecOn fr.port = true)) ∧
    (∃ (fr : Frame) (i kind x lan : Nat) (d : DupSource) (u w : State), (u.pairOf fr.port = some (i, kind)) ∧ (w = (if lan = fr.port % 2 then u else bumpPort fr.port pWrongLan 1 u))) ∧
    (∃ (fr : Frame) (c : Bool) (m r v : State) (s u : State), (s.running = true ∧ s.portOn fr.port = true ∧ (s.port fr.port).linkUp = true ∧ fr.fcsOk = true ∧ fr.len ≤ 9216 ∧ 64 ≤ lineLength fr) ∧ (u = bumpPort fr.port pRxBytes (lineLength fr) (bumpPort fr.port pRxFrames 1 (heard fr.port s)) ∧ u.fe.forwarding = true) ∧ (macsecReceive fr u = (true, m)) ∧ (pairReceive fr m = (true, r) ∧ v = reachStamp fr.stamp r)) ∧
    (∃ (j : Job) (k : LoadedKey) (h : Nat) (lost : Bool) (g s : State), (g = bumpStream j.n j.old cMatched s ∧ lost = (j.e.slotRate != 0 && bitOf j.quality 5)) ∧ (h = chosenKey j.e (afterRoll j.e (g.rt j.n j.old) j.stamp))) ∧
    (∃ (j : Job) (k : LoadedKey) (h : Nat) (lost miss : Bool) (hit : Option (BitVec 128)) (tag : Bytes) (g u s : State), (g = bumpStream j.n j.old cMatched s ∧ lost = (j.e.slotRate != 0 && bitOf j.quality 5) ∧ j.fr.len ≤ j.e.maxLen ∧ j.e.profile ≠ 0) ∧ (h = chosenKey j.e (afterRoll j.e (g.rt j.n j.old) j.stamp) ∧ g.key? h = some k) ∧ (keyCondition g j.f j.n j.e j.old h j.stamp = false ∧ entryGenerates j.e = false) ∧ (hit = padHit j.e (g.rt j.n j.old) j.fr.sec.spdu j.fr.smpCnt (afterRoll j.e (g.rt j.n j.old) j.stamp) ∧ miss = (isCounter j.e.profile && hit.isNone)) ∧ (tag = (if isHmac j.e.profile then (hmacFrom k.work.inner k.work.outer j.fr.sec.span).take (tagLen j.e.profile)
    else tagFrom k.work.h (hit.getD (padOf k.material (frameIv j.e j.fr.sec.spdu j.fr.smpCnt))) j.fr.sec.span (if j.e.profile = 0x26 then j.fr.sec.payload else []) (tagLen j.e.profile))) ∧ (u = (if miss then bumpStream j.n j.old cPadMisses g else g))) ∧
    (∃ (q : Call) (entry port : Nat) (frame fr : Frame) (s : State), (ready 0x0802 q 8 s = true) ∧ (fr = { frame with port, stamp := s.sck.now, len := q.hdr.inLen })) :=
  ⟨⟨{ port := 2, stamp := 5000000000, len := 64, fcsOk := false }, false, portLive 1 { linkUp := true }, bumpPort 2 pRxBytes 64 (bumpPort 2 pRxFrames 1 (heard 2 (portLive 1 { linkUp := true }))), by decide, by decide +kernel⟩,
   ⟨{ port := 2, stamp := 5000000000, len := 64 }, { an := 0, nextPn := 1, sak := [] }, { channel := 1, an := 0, pn := 1, span := [], body := [], icv := [] }, portLive 17 { linkUp := true }, by decide⟩,
   ⟨{ port := 4, stamp := 0, len := 64, srcMac := 7, prp := some (0, 0) }, 0, 1, 0, 0, { n := 0, last := 0, window := 1 }, { live with rw := [(pairKey 0, 0x01900641)] }, { live with rw := [(pairKey 0, 0x01900641)] }, by decide, by decide⟩,
   ⟨{ port := 2, stamp := 5000000000, len := 64 }, false, (macsecReceive { port := 2, stamp := 5000000000, len := 64 } (bumpPort 2 pRxBytes 64 (bumpPort 2 pRxFrames 1 (heard 2 (portLive 1 { linkUp := true }))))).2, (macsecReceive { port := 2, stamp := 5000000000, len := 64 } (bumpPort 2 pRxBytes 64 (bumpPort 2 pRxFrames 1 (heard 2 (portLive 1 { linkUp := true }))))).2, reachStamp 5000000000 (macsecReceive { port := 2, stamp := 5000000000, len := 64 } (bumpPort 2 pRxBytes 64 (bumpPort 2 pRxFrames 1 (heard 2 (portLive 1 { linkUp := true }))))).2, portLive 1 { linkUp := true }, bumpPort 2 pRxBytes 64 (bumpPort 2 pRxFrames 1 (heard 2 (portLive 1 { linkUp := true }))), by decide, by decide +kernel, by decide +kernel, by decide +kernel⟩,
   ⟨{ f := 0, n := 5, e := { padOne with profile := 1, maxLen := 9216 }, old := false, port := 2, stamp := 5000000000, quality := 0, fr := { port := 2, stamp := 5000000000, len := 64 }, pub := none }, { blob := plainBlob }, 1, false, bumpStream 5 false cMatched (padLive {} 5000000000), padLive {} 5000000000, by decide, by decide⟩,
   ⟨jobOne, { blob := plainBlob }, 1, false, false, none, (hmacFrom 0 0 []).take 10, bumpStream 5 false cMatched (padLive {} 5000000000), bumpStream 5 false cMatched (padLive {} 5000000000), padLive {} 5000000000, by decide, by decide, by decide, by decide, by decide, by decide⟩,
   ⟨longCall 0x0802, 5, 2, { port := 0, stamp := 0, len := 0, etherType := 0x88BA }, { port := 2, stamp := 5000000000, len := 1024, etherType := 0x88BA }, { live with pln := { parts := [(0, { partOne .ready with active := some { copyNone with entries := [(5, { kind := 1, ingress := 4, maxLen := 9216 })] } })] } }, by decide, by decide⟩⟩

/-- The hypotheses of every clause of MacsecAgreesKeys are met. -/
theorem witness_MacsecAgreesKeys :
    (∃ (port : Nat) (pdu : MkaPdu) (k : LoadedKey) (s u : State), (s.running = true ∧ s.macsecOn port = true ∧ (s.port port).linkUp = true) ∧ (cakUsable s ((s.port port).cakNext.getD (s.port port).cak) = true ∧ s.key? ((s.port port).cakNext.getD (s.port port).cak) = some k) ∧ (pdu.icv = cmac k.work.ick pdu.body) ∧ (u = s.updPort port (fun v => { v with cak := (s.port port).cakNext.getD (s.port port).cak, cakNext := none, keyServer := pdu.server, livePeers := pdu.peers, lastMkpdu := s.sck.now }))) ∧
    (∃ (port : Nat) (pdu : MkaPdu) (s : State), (s.running = true) ∧ (s.macsecOn port = false ∨ (s.port port).linkUp = false ∨ cakUsable s ((s.port port).cakNext.getD (s.port port).cak) = false ∨
    ∀ k, s.key? ((s.port port).cakNext.getD (s.port port).cak) = some k → pdu.icv ≠ cmac k.work.ick pdu.body)) ∧
    (∃ (port : Nat) (s : State), (s.running = true)) ∧
    (∃ (port : Nat) (s : State), (s.running = true)) ∧
    (∃ (q : Call) (port priority replay cak : Nat) (s : State), (ready 0x0B02 q 0 s = true)) ∧
    (∃ (q : Call) (port : Nat) (s : State), (ready 0x0B03 q 16 s = true)) :=
  ⟨⟨2, { body := [1], icv := cmac [] [1], peers := [7] }, { blob := { pkBlob 0x30 with attr := { (pkBlob 0x30).attr with usage := 2 ^ useMka } } }, portLive 17 { linkUp := true, cak := 1 }, (portLive 17 { linkUp := true, cak := 1 }).updPort 2 fun v => { v with cak := 1, cakNext := none, keyServer := false, livePeers := [7], lastMkpdu := 5000000000 }, by decide, by decide, rfl, rfl⟩,
   ⟨2, { body := [1], icv := [], peers := [7] }, live, by decide, .inl (by decide)⟩,
   ⟨2, portLive 17 { linkUp := true, cak := 1 }, by decide⟩,
   ⟨2, portLive 17 { linkUp := true }, by decide⟩,
   ⟨call 0x0B02, 2, 16, 64, 0, live, by decide⟩,
   ⟨call 0x0B03, 2, live, by decide⟩⟩

/-- The hypotheses of every clause of PortsAndPairs are met. -/
theorem witness_PortsAndPairs :
    (∃ (port : Nat) (s y z : State), (s.running = true) ∧ (y = stageRec 0x22 0x7F (.portEvent port 1 1) (bumpPort port pTransitions 1 (s.updPort port fun v => { v with linkUp := true, lastRx := s.sck.now, txSa := none, txOld := none, rxChannels := [], livePeers := [] }))) ∧ (z = loseAll pLinkDown (s.fe.copies.filter fun c => c.port == port) (stageRec 0x22 0x7F (.portEvent port 1 0) (bumpPort port pTransitions 1 (s.updPort port fun v => { v with linkUp := false }))))) ∧
    (∃ (port i kind : Nat) (s : State), (s.running = true)) ∧
    (∃ (pair src : Nat) (s : State), (s.running = true)) ∧
    (∃ (s : State), (s.running = true)) ∧
    (∃ (port f entry : Nat) (error : Bool) (s : State), (reaches 0 s = true ∧ reaches f s = true ∧ entry < 131072)) ∧
    (∃ (port value old : Nat) (s : State), (reaches 0 s = true) ∧ (old = s.soon (portKey port) (s.portCfg port))) ∧
    (∃ (pair value : Nat) (s : State), (reaches 0 s = true)) ∧
    (∃ (i kind : Nat) (s : State), (kind < 4)) :=
  ⟨⟨2, portLive 1 {}, stageRec 0x22 0x7F (.portEvent 2 1 1) (bumpPort 2 pTransitions 1 ((portLive 1 {}).updPort 2 fun v => { v with linkUp := true, lastRx := 5000000000, txSa := none, txOld := none, rxChannels := [], livePeers := [] })), stageRec 0x22 0x7F (.portEvent 2 1 0) (bumpPort 2 pTransitions 1 ((portLive 1 {}).updPort 2 fun v => { v with linkUp := false })), by decide, rfl, rfl⟩,
   ⟨4, 0, 1, { live with rw := [(pairKey 0, 0x01900641)] }, by decide⟩,
   ⟨0, 7, { live with fe := { pairs := [(0, { dup := [(7, { n := 0, last := 0, window := 0 })] })] } }, by decide⟩,
   ⟨{ live with rw := [(pairKey 0, 0x01900641)] }, by decide⟩,
   ⟨2, 0, 5, false, partEntry, by decide⟩,
   ⟨2, 17, 0, live, by decide, by decide⟩,
   ⟨0, 0x01900641, live, by decide⟩,
   ⟨0, 1, live, by decide⟩⟩

/-- The hypotheses of every clause of ArchiveOperations are met. -/
theorem witness_ArchiveOperations :
    (∃ (q : Call) (spec : ReadSpec) (s : State), (ready 0x0701 q 0 s = true)) ∧
    (∃ (q : Call) (group start finish : Nat) (s : State), (ready 0x0702 q 0 s = true)) ∧
    (∃ (q : Call) (auth : AuthReq) (r : Nat) (c : Checkpoint) (l : List Nat) (s u : State), (ready 0x0703 q 0 s = true) ∧ (authReason auth q.hdr.inLen 0x0703 0 roleOfficer 2 [(0, 14)] s = none ∧ leAt auth.params 12 2 ≤ 3650) ∧ (leAt auth.params 8 4 = s.arc.epoch ∧ findCheckpoint (leAt auth.params 0 8) s.arc.log0.records = some (r, c)) ∧ (u = drainStaging (acceptRequest auth 0x0703 s)) ∧ (l = Tbl.keys (fun n z => decide (z.firstSeq ≤ z.lastSeq) && ((z.log == 0 && decide (z.lastSeq < r)) || (z.log == 2 && decide (z.lastSeq ≤ c.windowSeq))) &&
    decide (stampNs z.newest + (if leAt auth.params 12 2 = 0 then 365 else leAt auth.params 12 2) * 86400 * 1000000000 < u.sck.now) && !u.arc.released.contains n) u.arc.zones)) ∧
    (∃ (s : State), (s.running = true) ∧ (Tbl.wf s.arc.zones = true)) ∧
    (∃ (q : Call) (auth : AuthReq) (s u : State), (ready 0x0704 q 0 s = true) ∧ (authReason auth q.hdr.inLen 0x0704 q.f roleAuditor 1 [(0, 8)] s = none) ∧ (leAt auth.params 0 4 + leAt auth.params 4 4 ≤ 16384 ∧ u = acceptRequest auth 0x0704 s)) ∧
    (∃ (q : Call) (auth : AuthReq) (s u : State), (ready 0x0801 q 16 s = true) ∧ (u = acceptRequest auth 0x0801 s)) :=
  ⟨⟨call 0x0701, { kind := 1, log := 0, from_ := 0, to_ := 0 }, liveArc, by decide⟩,
   ⟨call 0x0702, 3, 6442450944, 7516192768, partLive .ready, by decide⟩,
   ⟨authCall 0x0703 2, releaseAuth, 8, cpBody, [], cpLive, drainStaging (acceptRequest releaseAuth 0x0703 cpLive), by decide, by decide +kernel, by decide, rfl, by decide +kernel⟩,
   ⟨{ liveArc with arc := { liveArc.arc with released := [132] } }, by decide, by decide⟩,
   ⟨authCall 0x0704 1, authOne 0x0704 roleAuditor ([0, 0, 0, 0, 1, 0, 0, 0] ++ List.replicate 56 0), { authLive with key := { authLive.key with domains := [(0, { roles := roles12 roleAuditor })] } }, acceptRequest (authOne 0x0704 roleAuditor ([0, 0, 0, 0, 1, 0, 0, 0] ++ List.replicate 56 0)) 0x0704 { authLive with key := { authLive.key with domains := [(0, { roles := roles12 roleAuditor })] } }, by decide, by decide +kernel, ⟨by decide, rfl⟩⟩,
   ⟨authCall 0x0801 1, authOne 0x0801 2 ([1, 0, 0, 0, 0, 0, 0, 0, 0xE8, 3] ++ List.replicate 54 0), authLive, acceptRequest (authOne 0x0801 2 ([1, 0, 0, 0, 0, 0, 0, 0, 0xE8, 3] ++ List.replicate 54 0)) 0x0801 authLive, by decide, rfl⟩⟩

/-- The hypotheses of every clause of LifeCycleAndDebug are met. -/
theorem witness_LifeCycleAndDebug :
    (∃ (q : Call) (auth : AuthReq) (st t : LifeState) (role n : Nat) (s : State), (ready 0x0901 q 0 s = true ∧ s.lcc.st = st ∧ s.lcc.target = none) ∧ ((st, t, role, n) ∈ ([(.maker, .integrator, 5, 1), (.integrator, .fielded, 2, 2), (.integrator, .returned, 4, 1), (.integrator, .returned, 2, 2), (.fielded, .returned, 2, 2), (.fielded, .scrapped, 2, 2), (.returned, .integrator, 5, 1), (.returned, .scrapped, 5, 1)] : List (LifeState × LifeState × Nat × Nat))) ∧ (authReason auth q.hdr.inLen 0x0901 0 role n [(0, 64)] s = none) ∧ (leAt auth.params 0 1 = lifeCode t ∧ sumFrom (auth.params.take 0x20) 1 = 0 ∧ (auth.params.drop 0x20).take 32 = (if t = .integrator then digest 1 s.lcc.written.flatten else List.replicate 32 0)) ∧ (t = .integrator → 1 ≤ s.lcc.written.length ∧ s.lcc.written.length ≤ 2 ∧ s.lcc.dikCert.isSome = true) ∧ (t = .fielded → s.key.rootPresent = true) ∧ (st = .returned → t = .integrator → ∀ c ∈ [causeLight, causeMesh, causeMonitorFault], causePresent s c = false)) ∧
    (∃ (q : Call) (auth : AuthReq) (st t : LifeState) (role n : Nat) (s : State), (ready 0x0901 q 0 s = true ∧ s.lcc.st = st ∧ s.lcc.target = some t) ∧ ((st, t, role, n) ∈ ([(.maker, .integrator, 5, 1), (.integrator, .fielded, 2, 2), (.integrator, .returned, 4, 1), (.integrator, .returned, 2, 2), (.fielded, .returned, 2, 2), (.fielded, .scrapped, 2, 2), (.returned, .integrator, 5, 1), (.returned, .scrapped, 5, 1)] : List (LifeState × LifeState × Nat × Nat))) ∧ (authReason auth q.hdr.inLen 0x0901 0 role n [(0, 64)] s = none) ∧ (leAt auth.params 0 1 = lifeCode st ∧ sumFrom (auth.params.take 0x20) 1 = 0 ∧ (auth.params.drop 0x20).take 32 = (if st = .integrator then digest 1 s.lcc.written.flatten else List.replicate 32 0))) ∧
    (∃ (q : Call) (auth : AuthReq) (need : Nat × Nat) (s : State), (ready 0x0901 q 0 s = true) ∧ (need = lifeNeeds s (lifeOf (leAt auth.params 0 1)) auth.sigs)) ∧
    (∃ (q : Call) (k : DebugToken) (s : State), (ready 0x0902 q 0 s = true)) ∧
    (∃ (k : TokenInForce) (s e : State), (s.running = true ∧ s.lcc.token = some k) ∧ (e = raiseEvent .lcc 0 3 (securityRec secDebugEnd k.scope (k.signers.foldr (fun x n => x + 2 ^ 256 * n) 0) k.signers.length
    { s with lcc := { s.lcc with token := none }, ts := { s.ts with cores := Tbl.mapAll (fun _ v => { v with halted := false }) s.ts.cores } }))) ∧
    (∃ (s : State), (s.lcc.token = none)) ∧
    (∃ (a : DebugAct) (s : State), (portAnswers s = true) ∧ (∀ k, s.lcc.token = some k → k.scope &&& (match a with | .read .. => 15 | .perf _ => 1 | .halt _ | .step _ | .release _ => 2 | .scan => 16 | _ => 32) = 0)) ∧
    (∃ (a : DebugAct) (k : TokenInForce) (s : State), (portAnswers s = true ∧ s.lcc.token = some k) ∧ (k.scope &&& (match a with | .read .. => 15 | .perf _ => 1 | .halt _ | .step _ | .release _ => 2 | .scan => 16 | _ => 32) ≠ 0)) :=
  ⟨⟨authCall 0x0901 2, authTwo 0x0901 (2 :: List.replicate 63 0), .integrator, .fielded, 2, 2, authLive, by decide, by decide, by decide +kernel, by decide, (fun h => by cases h), by decide, (fun h => by cases h)⟩,
   ⟨authCall 0x0901 2, authTwo 0x0901 (2 :: List.replicate 63 0), .fielded, .returned, 2, 2, { authLive with lcc := { st := .fielded, target := some .returned } }, by decide, by decide, by decide +kernel, by decide⟩,
   ⟨authCall 0x0901 2, authTwo 0x0901 [], lifeNeeds authLive (lifeOf 0) (authTwo 0x0901 []).sigs, authLive, by decide, rfl⟩,
   ⟨authCall 0x0902 1, goodToken, tokenLive, by decide⟩,
   ⟨{ scope := 1, until_ := 0, signers := [1] }, { live with lcc := { st := .integrator, token := some { scope := 1, until_ := 0, signers := [1] } } }, _, by decide, rfl⟩,
   ⟨live, by decide⟩,
   ⟨.scan, live, by decide, (fun k h => by cases h)⟩,
   ⟨.halt 3, { scope := 2, until_ := 9, signers := [1] }, { live with lcc := { st := .integrator, token := some { scope := 2, until_ := 9, signers := [1] } } }, by decide, by decide⟩⟩

/-- The hypotheses of every clause of SelfTests are met. -/
theorem witness_SelfTests :
    (∃ (q : Call) (block : Nat) (partly : List (Nat × Nat)) (s : State), (ready 0x0A01 q 8 s = true) ∧ ((s.stc.under.find? fun r => r.block == block && decide (r.call = q)) = none) ∧ (testable s block = true ∧ testFault s block = none)) ∧
    (∃ (q : Call) (block : Nat) (sig : Option Nat) (partly : List (Nat × Nat)) (s : State), (ready 0x0A01 q 8 s = true) ∧ ((s.stc.under.find? fun r => r.block == block && decide (r.call = q)) = none)) ∧
    (∃ (q : Call) (block v : Nat) (partly : List (Nat × Nat)) (r : TestRun) (s t : State), (ready 0x0A01 q 8 s = true)) ∧
    (∃ (q : Call) (block v : Nat) (partly : List (Nat × Nat)) (r : TestRun) (s x : State), (ready 0x0A01 q 8 s = true) ∧ ((s.stc.under.find? fun y => y.block == block && decide (y.call = q)) = some r) ∧ (blockFree s r.block = true) ∧ (x = { s with stc := { s.stc with under := s.stc.under.filter fun y => y.block != r.block } })) ∧
    (∃ (q : Call) (mode period : Nat) (s : State), (ready 0x0A02 q 0 s = true)) ∧
    (∃ (s : State) (sig : Option Nat), (s.running = true) ∧ (s.stc.rollPipe = none)) ∧
    (∃ (n v : Nat) (s : State), (s.running = true) ∧ (s.stc.rollPipe = some n)) :=
  ⟨⟨call 0x0A01, 0x400, [], live, by decide, by decide, by decide⟩,
   ⟨call 0x0A01, 0x500, none, [], live, by decide, by decide⟩,
   ⟨call 0x0A01, 0x400, 0, [], { block := 0x400, was := true, call := call 0x0A01, ctx := none }, live, live, by decide⟩,
   ⟨call 0x0A01, 0x400, 0x9F062BD8413EC575, [], { block := 0x400, was := true, call := call 0x0A01, ctx := none }, { live with stc := { under := [{ block := 0x400, was := true, call := call 0x0A01, ctx := none }] } }, _, by decide, by decide, by decide, rfl⟩,
   ⟨call 0x0A02, 0, 0, live, by decide⟩,
   ⟨{ live with stc := { rolling := true, period := 60 } }, none, by decide, by decide⟩,
   ⟨0, 0x7A31C9E40B562D8F, { live with stc := { rolling := true, period := 60, rollPipe := some 0 } }, by decide, by decide⟩⟩

/-- The hypotheses of every clause of ModuleAndFirmware are met. -/
theorem witness_ModuleAndFirmware :
    (∃ (q : Call) (s : State), (ready 0x0B01 q 64 s = true)) ∧
    (∃ (q : Call) (config : Nat) (s : State), (ready 0x0B05 q 0 s = true)) ∧
    (∃ (q : Call) (length slot : Nat) (image : Option FwImage) (s : State), (ready 0x0B06 q 0 s = true)) ∧
    (∃ (q : Call) (length slot : Nat) (i : FwImage) (s : State), (ready 0x0B06 q 0 s = true) ∧ (slot ≤ 1 ∧ s.pwr.running ≠ some slot ∧ ¬ (s.pwr.trial = true ∧ (s.pwr.slot slot).role = 1)) ∧ (65536 ≤ length ∧ length ≤ 2097152)) ∧
    (∃ (q : Call) (slot : Nat) (s : State) (p : Pwr), (ready 0x0B07 q 0 s = true) ∧ (p = { s.pwr with slot0 := if s.pwr.slot0.role = 3 then { s.pwr.slot0 with role := 0 } else s.pwr.slot0, slot1 := if s.pwr.slot1.role = 3 then { s.pwr.slot1 with role := 0 } else s.pwr.slot1, trialPending := false })) ∧
    (∃ (n floor : Nat) (s : State) (f : FwSlot → FwSlot), (s.running = true ∧ s.pwr.withRole 3 = some n) ∧ (floor = max s.pwr.floor (s.pwr.slot n).sec) ∧ (f = (fun (v : FwSlot) => { v with role := if v.role = 3 then 1 else if v.role = 1 then 2 else v.role, st := if v.st = 2 ∧ v.sec < floor then 3 else v.st }))) ∧
    (∃ (s : State), (s.pwr.withRole 3 = none)) :=
  ⟨⟨call 0x0B01, live, by decide⟩,
   ⟨call 0x0B05, 1, live, by decide⟩,
   ⟨call 0x0B06, 65536, 1, none, live, by decide⟩,
   ⟨call 0x0B06, 65536, 1, fwOne, { live with ident := { live.ident with firmware := key1 } }, by decide, by decide, by decide⟩,
   ⟨call 0x0B07, 1, { live with pwr := { live.pwr with slot1 := { st := 2, image := some fwOne } } }, _, by decide, rfl⟩,
   ⟨1, 3, { live with sck := { now := 400000000000 }, pwr := { live.pwr with trial := true, trialPending := true, slot1 := { st := 2, role := 3, image := some { fwOne with sec := 3 } } } }, _, by decide, by decide, rfl⟩,
   ⟨live, by decide⟩⟩

/-- The hypotheses of every clause of ResetsAndStarts are met. -/
theorem witness_ResetsAndStarts :
    (∃ (i : StartIn) (s x : State), (x = (if s.pwr.standbyFed then { s with pwr := { s.pwr with backupFed := true } } else { s with io := { s.io with a0 := i.a0, a1 := i.a1, ready := true }, pwr := { s.pwr with standbyFed := true, backupFed := true } }))) ∧
    (∃ (held : Bool) (i : StartIn) (s x : State), (x = powerDown true (rtcSet s))) ∧
    (∃ (value : Nat) (i : StartIn) (s x : State), (reaches 0 s = true) ∧ (x = powerDown true (rtcSet s))) ∧
    (∃ (cause : Nat) (final : Bool) (i : StartIn) (s x : State), (s.running = true) ∧ (x = powerDown final (rtcSet (if s.pwr.trial = true ∧ s.pwr.trialPending = true then { s with pwr := { s.pwr.untried with trialFailed := true } } else s)))) ∧
    (∃ (ms : Nat) (s : State), (Tbl.wf s.fe.entries = true)) :=
  ⟨⟨{}, State.reset, _, rfl⟩,
   ⟨true, {}, live, _, rfl⟩,
   ⟨0x4E58, {}, live, _, by decide, rfl⟩,
   ⟨5, true, {}, { live with pwr := { live.pwr with phase := 3 } }, _, by decide, rfl⟩,
   ⟨100, { live with pwr := { live.pwr with phase := 3 }, fe := {} }, by decide⟩⟩

/-- The hypotheses of every clause of RegisterCommands are met. -/
theorem witness_RegisterCommands :
    (∃ (f offset len value : Nat) (i : StartIn) (s : State), (reaches f s = true)) ∧
    (∃ (f offset value : Nat) (i : StartIn) (s : State), (reaches f s = true ∧ offset % 4 = 0) ∧ ((reg64 s f offset).isSome = true)) ∧
    (∃ (f value : Nat) (i : StartIn) (s : State), (reaches f s = true ∧ f ≤ 63 ∧ value < 2 ^ 32)) ∧
    (∃ (f ring value : Nat) (i : StartIn) (s : State), (reaches f s = true ∧ f ≤ 63 ∧ value < 2 ^ 32 ∧ ring < 64)) ∧
    (∃ (f ring value : Nat) (i : StartIn) (s : State), (reaches f s = true ∧ f ≤ 63 ∧ value < 2 ^ 32 ∧ ring < 64)) ∧
    (∃ (f n value a d : Nat) (m : Bool) (i : StartIn) (s : State), (reaches f s = true ∧ f ≤ 63 ∧ value < 2 ^ 32 ∧ n < 32) ∧ ((Tbl.find? n (s.func f).msix.table).getD (0, 0, true) = (a, d, m))) ∧
    (∃ (f value : Nat) (i : StartIn) (s : State), (reaches f s = true ∧ f ≤ 63 ∧ value < 2 ^ 32)) ∧
    (∃ (f value : Nat) (i : StartIn) (s : State), (reaches f s = true ∧ f ≤ 63 ∧ value < 2 ^ 32)) ∧
    (∃ (value : Nat) (i : StartIn) (s : State), (reaches 0 s = true ∧ value < 2 ^ 32)) ∧
    (∃ (value : Nat) (i : StartIn) (s : State), (reaches 0 s = true ∧ value < 2 ^ 32)) ∧
    (∃ (value : Nat) (i : StartIn) (s : State), (reaches 0 s = true ∧ value < 2 ^ 32)) ∧
    (∃ (f offset len : Nat) (s : State), (reaches f s = true)) ∧
    (∃ (f offset v : Nat) (s : State), (reaches f s = true ∧ (offset ∈ [0x28, 0x30, 0x38, 0x408, 0x3E00] ∨ f = 0 ∧ offset ∈ [0x80, 0x3810])) ∧ (reg64 (readView s) f offset = some (v, false))) ∧
    (∃ (value : Nat) (s : State), (reaches 0 s = true)) ∧
    (∃ (value : Nat) (s : State), (reaches 0 s = true)) ∧
    (∃ (value : Nat) (s : State), (reaches 0 s = true)) ∧
    (∃ (value : Nat) (s : State), (reaches 0 s = true)) ∧
    (∃ (value : Nat) (s : State), (reaches 0 s = true)) ∧
    (∃ (loop value : Nat) (s : State), (reaches 0 s = true)) ∧
    (∃ (key value : Nat) (l : List (Nat × Nat)) (s u : State), (s.running = true) ∧ (u = { s with writes := l, store := Tbl.put key value s.store, rw := Tbl.put key value s.rw }) ∧ (s.writes = (key, value) :: l)) ∧
    (∃ (s : State), (s.running = true) ∧ (s.writes = [])) ∧
    (∃ (address : Nat) (s : State), (smbusAnswers s = true ∧ address = smbusAddress s.io)) ∧
    (∃ (address : Nat) (s : State), (smbusAnswers s = true ∧ address = smbusAddress s.io ∧ scrapped s = false)) ∧
    (∃ (address : Nat) (s : State), (smbusAnswers s = false ∨ address ≠ smbusAddress s.io ∨ scrapped s = true)) ∧
    (∃ (f offset len value : Nat) (i : StartIn) (s : State), (reaches f s = false)) :=
  ⟨⟨0, 0x100, 4, 7, {}, live, by decide⟩,
   ⟨0, 0x28, 7, {}, live, by decide, by decide⟩,
   ⟨0, 100, {}, live, by decide⟩,
   ⟨0, 1, 0x40, {}, live, by decide⟩,
   ⟨0, 1, 0x80000106, {}, live, by decide⟩,
   ⟨0, 1, 0x40, 0, 0, true, {}, live, by decide, by decide⟩,
   ⟨0, 1, {}, live, by decide⟩,
   ⟨0, 1, {}, live, by decide⟩,
   ⟨1, {}, live, by decide⟩,
   ⟨1, {}, live, by decide⟩,
   ⟨1, {}, live, by decide⟩,
   ⟨0, 0x100, 4, live, by decide⟩,
   ⟨0, 0x408, 0x140000000, live, by decide, by decide⟩,
   ⟨0x24, live, by decide⟩,
   ⟨0x240004, live, by decide⟩,
   ⟨0x640001, live, by decide⟩,
   ⟨0x80000001, live, by decide⟩,
   ⟨100, live, by decide⟩,
   ⟨1, 0x641, live, by decide⟩,
   ⟨0x6410, 0x240004, [], { live with writes := [(0x6410, 0x240004)] }, { live with rw := [(0x6410, 0x240004)], store := [(0x6410, 0x240004)] }, by decide, rfl, rfl⟩,
   ⟨live, by decide, by decide⟩,
   ⟨0x58, { live with io := { ready := true } }, by decide⟩,
   ⟨0x58, { live with io := { ready := true } }, by decide⟩,
   ⟨0x58, live, by decide⟩,
   ⟨0, 0x100, 4, 7, {}, { live with pwr := { live.pwr with main := false } }, by decide⟩⟩

/-- The hypotheses of every clause of SmbusAlert are met. -/
theorem witness_SmbusAlert :
    (∃ (s : State), (smbusAnswers s = true ∧ smbusAlert s = true)) ∧
    (∃ (s : State), (smbusAnswers s = false ∨ smbusAlert s = false)) :=
  ⟨⟨{ live with io := { ready := true, alerts := 3 } }, by decide⟩,
   ⟨live, by decide⟩⟩

/-- The hypotheses of every clause of IdleRead are met. -/
theorem witness_IdleRead :
    (∃ (queue : Nat) (s : State), (s.running = true) ∧ (∀ p ∈ (s.queue queue).packets, p.dropped = true ∨ (p.started = true ∧ p.len ≤ p.readPos))) :=
  ⟨20, { live with ts := { queues := [(20, { packets := [{ len := 3, data := [1, 2, 3], started := true, readPos := 3 }] })] } }, by decide, by decide⟩

/-- The hypotheses of every clause of DoorbellRange are met. -/
theorem witness_DoorbellRange :
    (∃ (f i T : Nat) (r : Ring) (s : State), (reaches f s = true ∧ (s.func f).halted = false) ∧ (s.ring f i = r ∧ r.enabled = true ∧ r.d < 2 ^ 32 ∧ T < 2 ^ 32) ∧ (((T : Int) - r.d) % 2 ^ 32 ≤ ((r.h : Int) + 2 ^ r.sizeExp - r.d) % 2 ^ 32)) ∧
    (∃ (f i T : Nat) (r : Ring) (s : State), (reaches f s = true ∧ (s.func f).halted = false) ∧ (s.ring f i = r ∧ r.enabled = true ∧ r.d < 2 ^ 32 ∧ T < 2 ^ 32) ∧ (((r.h : Int) + 2 ^ r.sizeExp - r.d) % 2 ^ 32 < ((T : Int) - r.d) % 2 ^ 32)) ∧
    (∃ (f i T : Nat) (s : State), (reaches f s = true) ∧ ((s.func f).halted = true ∨ (s.ring f i).enabled = false)) :=
  ⟨⟨0, 0, 64, { sizeExp := 6, weight := 1, burst := 1, vector := 1, enabled := true }, { live with hif := { rings := [(0, { sizeExp := 6, weight := 1, burst := 1, vector := 1, enabled := true })] } }, by decide, by decide, by decide⟩,
   ⟨0, 0, 65, { sizeExp := 6, weight := 1, burst := 1, vector := 1, enabled := true }, { live with hif := { rings := [(0, { sizeExp := 6, weight := 1, burst := 1, vector := 1, enabled := true })] } }, by decide, by decide, by decide⟩,
   ⟨0, 0, 65, live, by decide, by decide⟩⟩

/-- The hypotheses of every clause of AccuracyClass are met. -/
theorem witness_AccuracyClass :
    (∃ (e : Nat), (e ≤ 1000000000 * 10 ^ 20)) ∧
    (∃ (e : Nat), (1000000000 * 10 ^ 20 < e)) :=
  ⟨⟨2600000000000000000000, by decide⟩,
   ⟨100000000000000000000000000001, by decide⟩⟩

/-- The hypotheses of every clause of SlotsOfASecond are met. -/
theorem witness_SlotsOfASecond :
    (∃ (rate now n : Nat), (1 ≤ rate ∧ rate ≤ 6) ∧ (n < slotFs rate)) :=
  ⟨1, 5000000000, 1, by decide, by decide⟩

/-- The hypotheses of every clause of StepRunsTheFrontCommand are met. -/
theorem witness_StepRunsTheFrontCommand :
    (∃ (s : State), (s.pending = [])) :=
  ⟨live, by decide⟩

/-- The hypotheses of every clause of CommandsLeaveOtherPartsAlone are met. -/
theorem witness_CommandsLeaveOtherPartsAlone :
    (∃ (c : Instr) (s t : State), (exec c s = .next t)) :=
  ⟨.jtagIdcode, live, { live with out := [.jtag jtagId 0xB0880E95] }, rfl⟩

/-- The hypotheses of every clause of InvariantKept are met. -/
theorem witness_InvariantKept :
    (∃ (s t : State), (Inv s) ∧ (step s = .next t)) :=
  ⟨{ live with pending := [.jtagIdcode] }, { live with out := [.jtag jtagId 0xB0880E95] }, ⟨live_inv.1, live_inv.2, live_inv.3, live_inv.4, live_inv.5, live_inv.6, live_inv.7, live_inv.8, live_inv.9, live_inv.10⟩, rfl⟩

/-- The hypotheses of every clause of LastingRecordsAreNeverLost are met. -/
theorem witness_LastingRecordsAreNeverLost :
    (∃ (s t : State), (step s = .next t)) ∧
    (∃ (s t : State) (cause : Nat), (Inv s) ∧ (step s = .next t)) :=
  ⟨⟨{ live with pending := [.jtagIdcode] }, { live with out := [.jtag jtagId 0xB0880E95] }, rfl⟩,
   ⟨{ live with pending := [.jtagIdcode] }, { live with out := [.jtag jtagId 0xB0880E95] }, 2, ⟨live_inv.1, live_inv.2, live_inv.3, live_inv.4, live_inv.5, live_inv.6, live_inv.7, live_inv.8, live_inv.9, live_inv.10⟩, rfl⟩⟩


/-! ### The checks of WellFormed refuse -/

theorem refuse_function : Instr.wf (.flr 64) = false := by decide
theorem refuse_ring : Instr.wf (.pad 0 64 1) = false := by decide
theorem refuse_pad : Instr.wf (.pad 0 0 0) = false ∧ Instr.wf (.pad 0 0 65) = false ∧ Instr.wf (.pad 0 63 64) = true := by decide
theorem refuse_port : Instr.wf (.mkaHello 12) = false := by decide
theorem refuse_nibble : Instr.wf (.portCounterLatch 16) = false ∧ Instr.wf (.portCounterLatch 15) = true := by decide
theorem refuse_core : Instr.wf (.workDispatch 48 false) = false := by decide
theorem refuse_engine : Instr.wf (.pkeOperationStart 8) = false := by decide
theorem refuse_pair : Instr.wf (.dupSourceForget 4 0) = false := by decide
theorem refuse_queue : Instr.wf (.qmRead 4096) = false := by decide
theorem refuse_entry : Instr.wf (.padRefill 131072) = false := by decide
theorem refuse_half : Instr.wf (.watchdogReset 65536 true {}) = false := by decide
theorem refuse_word : Instr.wf (.keyLifetimePassed (2 ^ 32)) = false := by decide
theorem refuse_address : Instr.wf (.smbusIdentity 128) = false := by decide
theorem refuse_vector : Instr.wf (.msixUnmask 0 (some 32)) = false ∧ Instr.wf (.msixUnmask 0 none) = true := by decide
theorem refuse_command : Instr.wf (.pkeCopy 0 { op := 64 }) = false ∧ Instr.wf (.pkeCopy 0 { op := 0x0C, res := 16 }) = false := by decide
theorem refuse_header : Instr.wf (.nop { call 0 with hdr := { opcode := 65536, length := 64 } }) = false := by decide
theorem refuse_call : Instr.wf (.nop { call 0 with f := 64 }) = false ∧ Instr.wf (.nop (call 0)) = true := by decide
theorem refuse_byte : Instr.wf (.curveUnload (call 0) 256) = false := by decide
theorem refuse_reference : Instr.wf (.referenceFailure 3) = false := by decide
theorem refuse_aperture : Instr.wf (.dataPortRead 0 (2 ^ 20) 4) = false := by decide
theorem refuse_long : Instr.wf (.registerWrite 0 0 8 (2 ^ 64) {}) = false := by decide
theorem refuse_read : Instr.wf (.scrubRead { addr := 2 ^ 32, data := 0, code := 0, what := .stamp none } false) = false ∧
    Instr.wf (.scrubRead { addr := 0, data := 2 ^ 64, code := 0, what := .stamp none } false) = false := by decide
theorem refuse_rule : Instr.wf (.acUpdateClose [.slot 256 0 0]) = false ∧ Instr.wf (.acUpdateClose [.region 0 (2 ^ 128)]) = false := by decide
theorem refuse_removal : Instr.wf (.vfRemoval [1, 64]) = false := by decide
theorem refuse_input : Instr.wf (.hash (call 0) 0 [0]) = false := by decide
theorem refuse_bar : Instr.wf (.splitRegisterRead 0 65536 4) = false := by decide

/-! ### Worked examples of the spec -/

/-- 02, Danhollow: the class of 75 ns is 0x02, of 99.76 ns 0x02 and of 100.01 ns 0x03. -/
theorem test_class : accuracyClass (75 * eUnit) = 2 ∧ accuracyClass (9976 * eUnit / 100) = 2 ∧ accuracyClass (10001 * eUnit / 100) = 3 := by
  decide

/-- 04, Kessmoor: 150,000 ns into a second is in slot 0 at 4,800 slots a second. -/
theorem test_slot : slotOf 150000 4800 = 0 ∧ slotOf 999800000 4800 = 4799 := by decide

/-- 11, Kessmoor: the stamp of grid second 1,900,000,100. -/
theorem test_stamp : stampNs 0x1C4FECD900000000 = 1900000100 * 1000000000 := by decide

/-- 10, Orrin Cross: with H = D = 2,047 and 1,024 slots, 2,052 is accepted; one more than 1,024 beyond H is not. -/
theorem test_doorbell : doorbellOk { sizeExp := 10, h := 2047, d := 2047 } 2052 = true ∧
    doorbellOk { sizeExp := 10, h := 2047, d := 2047 } (2047 + 1025) = false := by decide

/-- 14, the staging area: a region of 8 MB with sub-region 0 only covers its first megabyte. -/
theorem test_region : Region.covers { sub := 1, enable := true, sizeExp := 23, base := 0x07000000 } 0x070FFFFF = true ∧
    Region.covers { sub := 1, enable := true, sizeExp := 23, base := 0x07000000 } 0x07100000 = false := by decide

/-- No word spells a command, and a state is the same where none does. -/
theorem test_word : decodeTableWord 32 0 = none ∧ State.reset.withFetchWord 32 0 = State.reset := ⟨rfl, rfl⟩

end Sys2Proof.Tests
end

/-! The accuracy class of an error bound (R66, Table 02-9) and the slots of a grid second (R71). -/

namespace Sys2Proof.Machine

/-! ### Accuracy class -/

theorem classFrom_eq_add_findIdx (e : Nat) (limits : List Nat) (k : Nat) :
    classFrom e limits k = k + limits.findIdx (fun l => decide (e ≤ l * eUnit)) := by
  induction limits generalizing k with
  | nil => rfl
  | cons l ls ih =>
    by_cases hl : e ≤ l * eUnit
    · simp only [classFrom, List.findIdx_cons, hl, if_true, decide_true, cond_true, Nat.add_zero]
    · simp only [classFrom, List.findIdx_cons, hl, if_false, decide_false, cond_false, ih]
      omega

/-- The class is the index of the first limit that covers `e`, so the library's lemmas on `List.findIdx` speak of it. -/
theorem accuracyClass_eq_findIdx (e : Nat) :
    accuracyClass e = accuracyLimits.findIdx (fun l => decide (e ≤ l * eUnit)) := by
  rw [accuracyClass, classFrom_eq_add_findIdx, Nat.zero_add]

theorem accuracyClass_lt_length_iff (e : Nat) :
    accuracyClass e < accuracyLimits.length ↔ ∃ l ∈ accuracyLimits, e ≤ l * eUnit := by
  simp only [accuracyClass_eq_findIdx, List.findIdx_lt_length, decide_eq_true_eq]

theorem limit_of_accuracyClass_covers {e l : Nat} (hl : accuracyLimits[accuracyClass e]? = some l) :
    e ≤ l * eUnit := by
  rw [accuracyClass_eq_findIdx] at hl
  obtain ⟨hlt, rfl⟩ := List.getElem?_eq_some_iff.mp hl
  exact of_decide_eq_true (List.findIdx_getElem (w := hlt))

theorem limit_below_accuracyClass_lt {e k m : Nat} (hk : k < accuracyClass e) (hm : accuracyLimits[k]? = some m) :
    m * eUnit < e := by
  rw [accuracyClass_eq_findIdx] at hk
  obtain ⟨_, rfl⟩ := List.getElem?_eq_some_iff.mp hm
  exact Nat.lt_of_not_le (of_decide_eq_false (List.not_of_lt_findIdx hk))

/-- Table 02-9 ends at 1 s. -/
theorem accuracyLimits_le_second : ∀ l ∈ accuracyLimits, l ≤ nsPerSec := by decide

theorem accuracyClass_beyond_second {e : Nat} (he : nsPerSec * eUnit < e) :
    accuracyClass e = accuracyLimits.length := by
  rw [accuracyClass_eq_findIdx]
  refine List.findIdx_eq_length_of_false fun l hl => decide_eq_false (Nat.not_le_of_lt ?_)
  calc l * eUnit ≤ nsPerSec * eUnit := Nat.mul_le_mul_right _ (accuracyLimits_le_second l hl)
    _ < e := he

/-- Settles O54: the class is the index of the first limit that covers e, and the last limit is 1 s. -/
theorem accuracyClass_smallest : Obligations.AccuracyClass := by
  refine ⟨fun e he => ?_, fun e he => accuracyClass_beyond_second he⟩
  have hlt : accuracyClass e < accuracyLimits.length :=
    (accuracyClass_lt_length_iff e).mpr ⟨nsPerSec, by decide, he⟩
  have hl := List.getElem?_eq_getElem hlt
  exact ⟨_, hl, limit_of_accuracyClass_covers hl, fun _ _ hk hm => limit_below_accuracyClass_lt hk hm⟩

/-! ### Slots of a second -/

/-- All that the slot arithmetic needs of the six rates of Table 03-11: none is 0, and none has more
slots than a second has nanoseconds. -/
theorem slotFs_bounds {rate : Nat} (h1 : 1 ≤ rate) (h6 : rate ≤ 6) : 0 < slotFs rate ∧ slotFs rate ≤ nsPerSec := by
  match rate, h1, h6 with
  | 1, _, _ | 2, _, _ | 3, _, _ | 4, _, _ | 5, _, _ | 6, _, _ => decide

theorem slotOf_add_second (ns fs : Nat) : slotOf (ns + nsPerSec) fs = slotOf ns fs := by
  simp only [slotOf, Nat.add_mod_right]

theorem slotOf_of_lt_second {ns : Nat} (fs : Nat) (hns : ns < nsPerSec) : slotOf ns fs = ns * fs / nsPerSec := by
  rw [slotOf, Nat.mod_eq_of_lt hns]

theorem slotOf_lt (ns : Nat) {fs : Nat} (hfs : 0 < fs) : slotOf ns fs < fs :=
  Nat.div_lt_of_lt_mul (Nat.mul_lt_mul_of_pos_right (Nat.mod_lt ns (by decide)) hfs)

/-- `slotStart` rounds up: it is the least nanosecond whose product with the rate reaches slot `n`. -/
theorem slotStart_le_iff {n fs ns : Nat} (hfs : 0 < fs) : slotStart n fs ≤ ns ↔ n * nsPerSec ≤ ns * fs := by
  rw [slotStart, ← Nat.lt_succ_iff, Nat.div_lt_iff_lt_mul hfs, Nat.succ_mul]
  omega

theorem le_slotStart_mul (n : Nat) {fs : Nat} (hfs : 0 < fs) : n * nsPerSec ≤ slotStart n fs * fs :=
  (slotStart_le_iff hfs).mp (Nat.le_refl _)

theorem slotStart_mul_lt (n : Nat) {fs : Nat} (hfs : 0 < fs) : slotStart n fs * fs < n * nsPerSec + fs := by
  have h : slotStart n fs * fs ≤ n * nsPerSec + (fs - 1) := Nat.div_mul_le_self _ _
  omega

/-- A slot that exists begins within the second, at a rate of at most one slot per nanosecond. -/
theorem slotStart_lt_second {n fs : Nat} (hn : n < fs) (hfs : fs ≤ nsPerSec) : slotStart n fs < nsPerSec := by
  refine Nat.lt_of_mul_lt_mul_right (a := fs) ?_
  calc slotStart n fs * fs < n * nsPerSec + fs := slotStart_mul_lt n (by omega)
    _ ≤ (n + 1) * nsPerSec := by rw [Nat.succ_mul]; omega
    _ ≤ nsPerSec * fs := by rw [Nat.mul_comm nsPerSec]; exact Nat.mul_le_mul_right _ hn

/-- Within a second, the floor that gives the slot and the ceiling that gives its beginning are adjoint. -/
theorem le_slotOf_iff {n fs ns : Nat} (hfs : 0 < fs) (hns : ns < nsPerSec) :
    n ≤ slotOf ns fs ↔ slotStart n fs ≤ ns := by
  rw [slotOf_of_lt_second fs hns, Nat.le_div_iff_mul_le (by decide), slotStart_le_iff hfs]

theorem slotOf_slotStart {n fs : Nat} (hn : n < fs) (hfs : fs ≤ nsPerSec) : slotOf (slotStart n fs) fs = n := by
  have hpos : 0 < fs := by omega
  have hin : slotStart n fs < nsPerSec := slotStart_lt_second hn hfs
  refine Nat.le_antisymm ?_ ((le_slotOf_iff hpos hin).mpr (Nat.le_refl _))
  rw [slotOf_of_lt_second fs hin]
  refine Nat.le_of_lt_succ (Nat.div_lt_of_lt_mul ?_)
  calc slotStart n fs * fs < n * nsPerSec + fs := slotStart_mul_lt n hpos
    _ ≤ nsPerSec * (n + 1) := by rw [Nat.mul_succ, Nat.mul_comm nsPerSec]; omega

/-- Settles O55: the laws of the slot arithmetic hold at every rate from 1 to 10^9, and the six rates are such. -/
theorem slotsOfASecond : Obligations.SlotsOfASecond := by
  rintro rate now n ⟨h1, h6⟩ hn
  obtain ⟨hpos, hle⟩ := slotFs_bounds h1 h6
  exact ⟨rfl, slotOf_add_second now _, slotOf_lt now hpos, ⟨le_slotStart_mul n hpos, slotStart_mul_lt n hpos⟩,
    slotOf_slotStart hn hle, fun _ hns => le_slotOf_iff hpos hns⟩

end Sys2Proof.Machine

/-! Requests for randomness in each state of the random number unit (R389, R399), and RANDOM_BYTES where nothing is drawn (R408). -/

namespace Sys2Proof.Machine

/-! ### What a request for randomness meets -/

section
variable {q : Call} {s : State} (k : State → OpOut)

theorem withDraw_of_ready (h : s.rnu.st = .ready) : withDraw q s k = k s := by
  simp only [withDraw, drawTest, h]

theorem withDraw_of_starting_noWait (h : s.rnu.st = .starting) (hw : q.hdr.wait = false) :
    withDraw q s k = .done (bare stEntropyNotReady) s := by
  simp only [withDraw, drawTest, h, hw, Bool.false_eq_true, if_false]

theorem withDraw_of_starting_wait (h : s.rnu.st = .starting) (hw : q.hdr.wait = true) :
    withDraw q s k = .wait := by
  simp only [withDraw, drawTest, h, hw, if_true]

theorem withDraw_of_restarting_or_fault (h : s.rnu.st = .restarting ∨ s.rnu.st = .fault) :
    withDraw q s k = .done (bare stEntropyFault) s := by
  rcases h with h | h <;> simp only [withDraw, drawTest, h]

end

/-! ### RANDOM_BYTES of length 0 and beyond the bound -/

/-- Length 0 asks for no result space and never comes to the draw: only `withDraw` decides how the operation ends. -/
theorem exec_randomBytes_zero (q : Call) (s : State) :
    exec (.randomBytes q 0) s =
      .next (runOp 0x0501 q 0 s fun s => withDraw q s fun s => .done (okDetail 0) s) := rfl

/-- Performed by its own rule, RANDOM_BYTES of length 0 completes or is held as the request for randomness says. -/
theorem exec_randomBytes_zero_done {q : Call} {s t : State} {comp : Completion} (hr : ready 0x0501 q 0 s = true)
    (h : withDraw q s (fun s => .done (okDetail 0) s) = .done comp t) :
    exec (.randomBytes q 0) s = .next (complete q comp t) := by
  rw [exec_randomBytes_zero, runOp_done hr h]

theorem exec_randomBytes_zero_wait {q : Call} {s : State} (hr : ready 0x0501 q 0 s = true)
    (h : withDraw q s (fun s => .done (okDetail 0) s) = .wait) :
    exec (.randomBytes q 0) s = .next (holdOp q s) := by
  rw [exec_randomBytes_zero, runOp_wait hr h]

theorem randomSpace_of_pos {length : Nat} (h : 0 < length) : randomSpace length = 8 + length :=
  if_neg (Nat.ne_of_gt h)

/-- The bound on the length is tested before the unit's state. -/
theorem exec_randomBytes_tooLong {q : Call} {length : Nat} {s : State} (hr : ready 0x0501 q (8 + length) s = true)
    (h : 1048576 < length) : exec (.randomBytes q length) s = .next (complete q (reject 0) s) := by
  rw [← randomSpace_of_pos (Nat.zero_lt_of_lt h)] at hr
  exact congrArg _ (runOp_done hr (if_pos h))

/-- Settles O18: each state of the unit decides how the request for randomness of length 0 ends. -/
theorem noRandomBytes : Obligations.NoRandomBytes := by
  refine ⟨fun q s hr hst => ?ready, fun q s hr ⟨hst, hw⟩ => ?notReady, fun q s hr ⟨hst, hw⟩ => ?held,
    fun q s hr hst => ?fault, fun q length s hr hlen => ?tooLong⟩
  case ready => exact exec_randomBytes_zero_done hr (withDraw_of_ready _ hst)
  case notReady => exact exec_randomBytes_zero_done hr (withDraw_of_starting_noWait _ hst hw)
  case held => exact exec_randomBytes_zero_wait hr (withDraw_of_starting_wait _ hst hw)
  case fault => exact exec_randomBytes_zero_done hr (withDraw_of_restarting_or_fault _ hst)
  case tooLong => exact exec_randomBytes_tooLong hr hlen

end Sys2Proof.Machine

/-! A function's halt record and its event stand through every write and message that a halt goes on to make (R446, R449). -/

namespace Sys2Proof.Machine

/-! ### Functions, rings and events after a write -/

@[simp] theorem func_setFunc_self (f : Nat) (v : Func) (s : State) : (s.setFunc f v).func f = v := by
  simp [State.func, State.setFunc]

theorem func_setFunc_other {f g : Nat} (v : Func) (s : State) (h : g ≠ f) : (s.setFunc f v).func g = s.func g := by
  simp only [State.func, State.setFunc, Tbl.find?_put_other f g v _ h]

theorem ringKey_ne {f g i j : Nat} (hi : i < 64) (hj : j < 64) (h : (g, j) ≠ (f, i)) : ringKey g j ≠ ringKey f i := by
  intro hk
  simp only [ringKey] at hk
  have hg : g = f := by omega
  have hji : j = i := by omega
  exact h (by rw [hg, hji])

@[simp] theorem ring_setRing_self (f i : Nat) (r : Ring) (s : State) : (s.setRing f i r).ring f i = r := by
  simp [State.ring, State.setRing]

theorem ring_setRing_other {f g i j : Nat} (r : Ring) (s : State) (hi : i < 64) (hj : j < 64) (h : (g, j) ≠ (f, i)) :
    (s.setRing f i r).ring g j = s.ring g j :=
  Tbl.get_put_other _ _ _ _ _ (ringKey_ne hi hj h)

theorem raiseEvent_ev (b : EvBlock) (f bit : Nat) (s : State) : (raiseEvent b f bit s).ev =
    Tbl.put (evKey b f) { s.evReg b f with status := (s.evReg b f).status ||| 2 ^ bit } s.ev := by
  simp only [raiseEvent]
  split <;> simp

theorem event_of_ev_eq {s t : State} (h : t.ev = s.ev) (b : EvBlock) (f bit : Nat) : t.event b f bit = s.event b f bit := by
  simp only [State.event, State.evReg, h]

@[simp] theorem event_raiseEvent_self (b : EvBlock) (f bit : Nat) (s : State) :
    (raiseEvent b f bit s).event b f bit = true := by
  simp [State.event, State.evReg, raiseEvent_ev, Nat.testBit_or, Nat.testBit_two_pow_self]

/-- Raising an event clears none: two blocks' registers may share a key, and the bit is then set by an `or`. -/
theorem event_raiseEvent_mono {b c : EvBlock} {f g bit k : Nat} {s : State} (h : s.event c g k = true) :
    (raiseEvent b f bit s).event c g k = true := by
  simp only [State.event, State.evReg, raiseEvent_ev] at h ⊢
  by_cases hk : evKey c g = evKey b f
  · rw [hk] at h ⊢
    simp [Nat.testBit_or, h]
  · rwa [Tbl.get_put_other _ _ _ _ _ hk]

/-! ### What leaves a halt standing -/

/-- The halt record of a function (R446). -/
def Func.haltRecord (v : Func) : Bool × Nat × Nat × Nat × Nat :=
  (v.halted, v.haltCause, v.haltRing, v.haltOpcode, v.haltCount)

/-- From `s` to `t` the halt record of function `g` stays, and no event status bit is cleared. -/
structure HaltStands (g : Nat) (s t : State) : Prop where
  record : (t.func g).haltRecord = (s.func g).haltRecord
  events : ∀ {b : EvBlock} {f bit : Nat}, s.event b f bit = true → t.event b f bit = true

namespace HaltStands

variable {g : Nat} {s t u : State}

protected theorem refl (g : Nat) (s : State) : HaltStands g s s := ⟨rfl, id⟩

protected theorem trans (h : HaltStands g s t) (k : HaltStands g t u) : HaltStands g s u :=
  ⟨k.record.trans h.record, fun e => k.events (h.events e)⟩

theorem of_funcs_ev (hf : t.hif.funcs = s.hif.funcs) (he : t.ev = s.ev) : HaltStands g s t :=
  ⟨by simp only [State.func, hf], fun e => by rwa [event_of_ev_eq he]⟩

theorem setFunc_other {f : Nat} {v : Func} (h : g ≠ f) : HaltStands g s (s.setFunc f v) :=
  ⟨by rw [func_setFunc_other v s h], id⟩

theorem updFunc {f : Nat} {k : Func → Func} (h : ∀ v, (k v).haltRecord = v.haltRecord) :
    HaltStands g s (s.updFunc f k) := by
  by_cases hg : g = f
  · subst hg
    exact ⟨by simp [State.updFunc, h], id⟩
  · exact setFunc_other hg

theorem updRing (f r : Nat) (k : Ring → Ring) : HaltStands g s (s.updRing f r k) := of_funcs_ev rfl rfl

theorem emitHost (f : Nat) (o : Out) : HaltStands g s (emitHost f o s) := by
  unfold Machine.emitHost
  split
  · exact of_funcs_ev rfl rfl
  · exact updFunc fun _ => rfl

theorem writeMirror (f r : Nat) : HaltStands g s (writeMirror f r s) := emitHost f _

theorem sendVector (f vector : Nat) : HaltStands g s (sendVector f vector s) := by
  unfold Machine.sendVector
  split
  · exact updFunc fun v => by split <;> rfl
  · exact emitHost f _

theorem raiseEvent (b : EvBlock) (f bit : Nat) : HaltStands g s (raiseEvent b f bit s) := by
  refine ⟨?_, event_raiseEvent_mono⟩
  unfold Machine.raiseEvent
  dsimp only
  split
  · exact (sendVector f 0).record
  · rfl

/-! ### A context that finishes -/

theorem countDiscard (f orphan : Nat) : HaltStands g s (countDiscard f orphan s) := by
  unfold Machine.countDiscard
  split
  · exact of_funcs_ev rfl rfl
  · exact updFunc fun _ => rfl

theorem writeCompletion (f r count addr : Nat) (c : Completion) : HaltStands g s (writeCompletion f r count addr c s) := by
  unfold Machine.writeCompletion
  split
  · exact emitHost f _
  · exact (emitHost f _).trans (emitHost f _)

theorem finishCtx (c : Ctx) (comp : Completion) : HaltStands g s (finishCtx c comp s) := by
  have hfree : HaltStands g s (freeCtx c.id (releaseHolds c.id c.f s)) := of_funcs_ev rfl rfl
  unfold Machine.finishCtx
  split
  · exact (hfree.trans (writeCompletion ..)).trans (updRing ..)
  · exact hfree.trans (countDiscard ..)

/-! ### A transfer that ends -/

theorem stageRec (typ owner : Nat) (body : RecBody) : HaltStands g s (stageRec typ owner body s) :=
  of_funcs_ev (by simp) (by simp)

theorem governorChange (new : Nat) : HaltStands g s (governorChange new s) :=
  (of_funcs_ev (by simp) (by simp)).trans (raiseEvent .arc 0 0)

theorem governorCheck : HaltStands g s (governorCheck s) := by
  unfold Machine.governorCheck
  split
  · exact .refl g s
  · have hcount : HaltStands g s { s with arc := { s.arc with sinceCheck := s.arc.sinceCheck % 2 ^ 20 } } :=
      of_funcs_ev rfl rfl
    dsimp only
    split
    · exact hcount
    · split
      · exact hcount.trans (governorChange _)
      · exact (hcount.trans (governorChange _)).trans (governorChange _)

theorem onVault (f bytes : Nat) (k : VaultZone → VaultZone) : HaltStands g s (onVault f bytes k s) := by
  unfold Machine.onVault
  dsimp only
  split
  · exact (of_funcs_ev (by simp) (by simp)).trans governorCheck
  · exact of_funcs_ev (by simp) (by simp)

theorem dropImage (f : Nat) (n : Option Nat) : HaltStands g s (dropImage f n s) := by
  cases n with
  | none => exact .refl g s
  | some n => exact onVault ..

theorem leaveLoading (f reason : Nat) : HaltStands g s (leaveLoading f reason s) := by
  unfold Machine.leaveLoading
  split
  · exact .refl g s
  · split
    · next p _ _ =>
      have hparts : HaltStands g s { s with pln := { s.pln with
          parts := Tbl.put f { p with standby := p.before, vaultIncoming := none } s.pln.parts } } := of_funcs_ev rfl rfl
      exact (hparts.trans (dropImage ..)).trans (stageRec ..)
    · exact .refl g s

theorem leaveTransfer (op f : Nat) : HaltStands g s (leaveTransfer op f s) := by
  unfold Machine.leaveTransfer
  split
  · exact leaveLoading f 0
  · split
    · exact of_funcs_ev rfl rfl
    · exact .refl g s

theorem abortPort (f : Nat) (protocol : Bool) : HaltStands g s (abortPort f protocol s) := by
  have hidle : HaltStands g s (s.updFunc f fun v => { v.portIdle with dpProtocol := protocol }) := updFunc fun _ => rfl
  unfold Machine.abortPort
  dsimp only
  split
  · exact .refl g s
  · refine HaltStands.trans ?_ (raiseEvent .hif f 1)
    split
    · exact hidle
    · split
      · exact hidle
      · exact (hidle.trans (leaveTransfer ..)).trans (finishCtx ..)

theorem haltMirrors (f n : Nat) : HaltStands g s (haltMirrors f n s) := by
  induction n with
  | zero => exact .refl g s
  | succ n ih =>
    unfold Machine.haltMirrors
    dsimp only
    split
    · exact ih.trans (writeMirror f n)
    · exact ih

end HaltStands

/-! ### A function halts (R446, R447, R449) -/

/-- A function's state with its halt record made. -/
def Func.recordHalt (cause ring opcode count : Nat) (v : Func) : Func :=
  { v with halted := true, haltCause := cause, haltRing := ring, haltOpcode := opcode, haltCount := count }

/-- What follows the halt record of a function that halts: its transfer ends, its mirrors are written, the events are raised. -/
def showHalt (f : Nat) (s : State) : State :=
  let s1 := raiseEvent .hif f 0 (haltMirrors f 64 (abortPort f false s))
  if f = 0 then s1 else raiseEvent .hif 0 2 s1

theorem haltFunc_of_not_halted {f : Nat} {s : State} (h : (s.func f).halted = false) (cause ring opcode count : Nat) :
    haltFunc f cause ring opcode count s = showHalt f (s.updFunc f (Func.recordHalt cause ring opcode count)) := by
  simp only [haltFunc, h, Bool.false_eq_true, if_false]
  rfl

theorem haltFunc_of_halted {f : Nat} {s : State} (h : (s.func f).halted = true) (cause ring opcode count : Nat) :
    haltFunc f cause ring opcode count s = s := if_pos h

theorem HaltStands.showHalt {g : Nat} {s : State} (f : Nat) : HaltStands g s (showHalt f s) := by
  have hraised : HaltStands g s (Machine.raiseEvent .hif f 0 (Machine.haltMirrors f 64 (Machine.abortPort f false s))) :=
    ((abortPort f false).trans (haltMirrors f 64)).trans (raiseEvent .hif f 0)
  unfold Machine.showHalt
  dsimp only
  split
  · exact hraised
  · exact hraised.trans (raiseEvent .hif 0 2)

theorem event_showHalt (f : Nat) (s : State) : (showHalt f s).event .hif f 0 = true := by
  unfold showHalt
  dsimp only
  split
  · exact event_raiseEvent_self ..
  · exact event_raiseEvent_mono (event_raiseEvent_self ..)

theorem HaltStands.haltFunc_other {f g : Nat} {s : State} (hg : g ≠ f) (cause ring opcode count : Nat) :
    HaltStands g s (haltFunc f cause ring opcode count s) := by
  cases hh : (s.func f).halted with
  | true => rw [haltFunc_of_halted hh]; exact .refl g s
  | false => rw [haltFunc_of_not_halted hh]; exact (setFunc_other hg).trans (showHalt f)

/-- The PF's halt spreads to the VFs and leaves its own record and event as they are. -/
theorem HaltStands.haltVfs {s : State} (n : Nat) : HaltStands 0 s (haltVfs n s) := by
  induction n with
  | zero => exact .refl 0 s
  | succ n ih =>
    unfold Machine.haltVfs
    dsimp only
    split
    · exact ih
    · next hn => exact ih.trans (haltFunc_other (Ne.symm hn) ..)

theorem haltFunc_makes_record {f : Nat} {s : State} (h : (s.func f).halted = false) (cause ring opcode count : Nat) :
    ((haltFunc f cause ring opcode count s).func f).haltRecord = (true, cause, ring, opcode, count) ∧
    (haltFunc f cause ring opcode count s).event .hif f 0 = true := by
  rw [haltFunc_of_not_halted h]
  exact ⟨(HaltStands.showHalt f).record.trans (by rw [State.updFunc, func_setFunc_self]; rfl), event_showHalt f _⟩

/-- After its own function has halted, `halt` marks the ring and spreads a halt of the PF: the record and the event stand. -/
theorem HaltStands.halt_after_haltFunc (f cause ring opcode count : Nat) (s : State) :
    HaltStands f (haltFunc f cause ring opcode count s) (halt f cause ring opcode count s) := by
  have hring : HaltStands f (haltFunc f cause ring opcode count s)
      (if cause = 7 then haltFunc f cause ring opcode count s
        else (haltFunc f cause ring opcode count s).updRing f ring fun g => { g with haltHere := true }) := by
    split
    · exact .refl f _
    · exact updRing ..
  unfold halt
  dsimp only
  split
  · next hf => subst hf; exact hring.trans (haltVfs 64)
  · exact hring

/-- A function that halts has the halt's record and its event, whatever follows on it. -/
theorem halt_makes_record {f : Nat} {s : State} (h : (s.func f).halted = false) (cause ring opcode count : Nat) :
    ((halt f cause ring opcode count s).func f).haltRecord = (true, cause, ring, opcode, count) ∧
    (halt f cause ring opcode count s).event .hif f 0 = true := by
  obtain ⟨hrec, hev⟩ := haltFunc_makes_record h cause ring opcode count
  have hstands := HaltStands.halt_after_haltFunc f cause ring opcode count s
  exact ⟨hstands.record.trans hrec, hstands.events hev⟩

end Sys2Proof.Machine

/-! The range of a doorbell value, and what a doorbell write does on each side of it (R428, R429). -/

namespace Sys2Proof.Machine

/-! ### The range (R429) -/

/-- The difference of free-running counts is the difference modulo 2^32. -/
theorem countSub_cast (a b : Nat) : (countSub a b : Int) = ((a : Int) - b) % 2 ^ 32 := by
  simp only [countSub]
  omega

/-- The model's test is R429's: at most 2^k slots beyond H and not behind D. -/
theorem doorbellOk_iff (r : Ring) (t : Nat) : doorbellOk r t = true ↔
    ((t : Int) - r.d) % 2 ^ 32 ≤ ((r.h : Int) + 2 ^ r.sizeExp - r.d) % 2 ^ 32 := by
  rw [doorbellOk, decide_eq_true_iff, ← Int.ofNat_le, countSub_cast, countSub_cast, Ring.slots]
  push_cast
  rfl

/-! ### The write -/

section
variable {f i T : Nat} {s : State}

theorem exec_doorbellWrite (hr : reaches f s = true) : exec (.doorbellWrite f i T) s =
    if (s.func f).halted || !(s.ring f i).enabled then .next s
    else if doorbellOk (s.ring f i) (T % 2 ^ 32) then .next (s.setRing f i { s.ring f i with d := T % 2 ^ 32 })
    else .next (halt f 7 i 0 (T % 2 ^ 32) s) :=
  viaBar_reaches hr _

theorem exec_doorbellWrite_ignored (hr : reaches f s = true)
    (h : (s.func f).halted = true ∨ (s.ring f i).enabled = false) : exec (.doorbellWrite f i T) s = .next s := by
  rw [exec_doorbellWrite hr, if_pos]
  rcases h with h | h <;> simp [h]

theorem exec_doorbellWrite_accepted (hr : reaches f s = true) (hh : (s.func f).halted = false)
    (he : (s.ring f i).enabled = true) (hok : doorbellOk (s.ring f i) (T % 2 ^ 32) = true) :
    exec (.doorbellWrite f i T) s = .next (s.setRing f i { s.ring f i with d := T % 2 ^ 32 }) := by
  rw [exec_doorbellWrite hr, if_neg (by simp [hh, he]), if_pos hok]

theorem exec_doorbellWrite_refused (hr : reaches f s = true) (hh : (s.func f).halted = false)
    (he : (s.ring f i).enabled = true) (hno : doorbellOk (s.ring f i) (T % 2 ^ 32) = false) :
    exec (.doorbellWrite f i T) s = .next (halt f 7 i 0 (T % 2 ^ 32) s) := by
  rw [exec_doorbellWrite hr, if_neg (by simp [hh, he]), if_neg (Bool.eq_false_iff.mp hno)]

end

/-- Settles O53: the model's test is R429's range; a value within it is stored, and the record and the event of the halt that any
other value makes stand through all that the halt does. -/
theorem doorbellRange : Obligations.DoorbellRange := by
  refine ⟨?accepted, ?refused, fun f i T s hr h => exec_doorbellWrite_ignored hr h⟩
  case accepted =>
    rintro f i T r s ⟨hr, hh⟩ ⟨rfl, he, _, hT⟩ hin
    have hmod : T % 2 ^ 32 = T := Nat.mod_eq_of_lt hT
    have hexec := exec_doorbellWrite_accepted hr hh he (by rw [hmod]; exact (doorbellOk_iff _ T).mpr hin)
    rw [hmod] at hexec
    refine answers_next hexec ⟨rfl, by rw [ring_setRing_self], ?same, fun g j hne hj hi => ring_setRing_other _ s hi hj hne⟩
    rintro rfl
    rw [ring_setRing_self]
  case refused =>
    rintro f i T r s ⟨hr, hh⟩ ⟨rfl, he, _, hT⟩ hout
    have hmod : T % 2 ^ 32 = T := Nat.mod_eq_of_lt hT
    have hno : doorbellOk (s.ring f i) T = false := by
      rw [Bool.eq_false_iff, ne_eq, doorbellOk_iff]
      exact Int.not_le.mpr hout
    have hexec := exec_doorbellWrite_refused hr hh he (by rw [hmod]; exact hno)
    rw [hmod] at hexec
    obtain ⟨hrec, hev⟩ := halt_makes_record hh 7 i 0 T
    obtain ⟨hhalted, hcause, -, -, hcount⟩ := by simpa only [Func.haltRecord, Prod.mk.injEq] using hrec
    exact answers_next hexec ⟨rfl, hhalted, hcause, hcount, hev⟩

end Sys2Proof.Machine

/-! Reads of the packet queues: what is delivered where nothing is left to read, and that every read answers (R541, R543, R544). -/

namespace Sys2Proof.Machine

/-! ### What a queue holds to read -/

/-- A packet is read no more once its rest has been dropped or delivered (R541, R542). -/
theorem readIndex_eq_none_iff (packets : List Packet) (i : Nat) :
    readIndex packets i = none ↔ ∀ p ∈ packets, p.dropped = true ∨ (p.started = true ∧ p.len ≤ p.readPos) := by
  induction packets generalizing i with
  | nil => simp [readIndex]
  | cons p rest ih =>
    by_cases hp : p.dropped = true ∨ (p.started = true ∧ p.len ≤ p.readPos)
    · have hskip : readIndex (p :: rest) i = readIndex rest (i + 1) := if_pos (by simpa using hp)
      rw [hskip, ih, List.forall_mem_cons, and_iff_right hp]
    · have hread : readIndex (p :: rest) i = some (i, p) := if_neg (by simpa using hp)
      rw [hread, List.forall_mem_cons]
      exact iff_of_false (Option.some_ne_none _) fun h => hp h.1

/-! ### The read -/

theorem onMain_stopped {s : State} (h : s.running = false) (k : Host.Outcome State Fault Refusal) :
    onMain s k = .next s :=
  if_neg (Bool.eq_false_iff.mp h)

theorem exec_qmRead (queue : Nat) (s : State) : exec (.qmRead queue) s = execQmRead queue s := rfl

section
variable {queue : Nat} {s : State}

theorem exec_qmRead_stopped (h : s.running = false) : exec (.qmRead queue) s = .next s := onMain_stopped h _

/-- The idle unit (R543): 64 zero bytes, COUNT 0, IDLE set and every other flag clear. -/
theorem exec_qmRead_idle (h : s.running = true) (hnone : readIndex (s.queue queue).packets 0 = none) :
    exec (.qmRead queue) s =
      .next { s with ts := { s.ts with lastUnit := { data := List.replicate 64 0, idle := true } } } := by
  rw [exec_qmRead, execQmRead, onMain_running h]
  simp only [hnone]

/-- A queue with a packet to read gives a unit of it, or the LOST tag where its bytes are lost (R544). -/
theorem exec_qmRead_unit {i : Nat} {p : Packet} (h : s.running = true)
    (hsome : readIndex (s.queue queue).packets 0 = some (i, p)) : ∃ t, exec (.qmRead queue) s = .next t := by
  rw [exec_qmRead, execQmRead, onMain_running h]
  simp only [hsome]
  cases p.lostAt with
  | none => exact ⟨_, rfl⟩
  | some lost =>
    dsimp only
    split
    · exact ⟨_, rfl⟩
    · exact ⟨_, rfl⟩

theorem exec_qmRead_answers (queue : Nat) (s : State) : ∃ t, exec (.qmRead queue) s = .next t := by
  cases h : s.running with
  | false => exact ⟨_, exec_qmRead_stopped h⟩
  | true =>
    cases hq : readIndex (s.queue queue).packets 0 with
    | none => exact ⟨_, exec_qmRead_idle h hq⟩
    | some unread => exact exec_qmRead_unit h hq

end

/-- Settles O52: the search for a packet to read finds none exactly where each has been dropped or read to its end, and each of
its results is answered. -/
theorem idleRead : Obligations.IdleRead := by
  refine ⟨fun queue s hrun hread => ?idle, fun queue s => ⟨exec_qmRead_answers queue s, exec_qmRead_stopped⟩⟩
  case idle => exact exec_qmRead_idle hrun ((readIndex_eq_none_iff _ 0).mpr hread)

end Sys2Proof.Machine

/-! SMB_ALERT_N and the read of the SMBus Alert Response Address (R726). -/

namespace Sys2Proof.Machine

/-! ### The pin -/

theorem smbusAlert_iff (s : State) : smbusAlert s = true ↔ ∃ bit, s.io.alerts.testBit bit = true :=
  calc smbusAlert s = true
    _ ↔ s.io.alerts ≠ 0 := bne_iff_ne
    _ ↔ ∃ bit, s.io.alerts.testBit bit = true := by
      refine ⟨Nat.exists_testBit_of_ne_zero, ?_⟩
      rintro ⟨bit, hbit⟩ hzero
      rw [hzero, Nat.zero_testBit] at hbit
      exact Bool.false_ne_true hbit

theorem smbusAlert_eq_false_iff (s : State) : smbusAlert s = false ↔ ∀ bit, s.io.alerts.testBit bit = false := by
  simp only [← Bool.not_eq_true, smbusAlert_iff, not_exists]

/-! ### The read -/

section
variable {s : State}

theorem exec_smbusAlertResponse_asserted (hans : smbusAnswers s = true) (halert : smbusAlert s = true) :
    exec .smbusAlertResponse s =
      .next { s with out := .alert (smbusAddress s.io) :: s.out, io := { s.io with alerts := 0 } } :=
  if_pos (Bool.and_eq_true_iff.mpr ⟨hans, halert⟩)

theorem exec_smbusAlertResponse_silent (h : smbusAnswers s = false ∨ smbusAlert s = false) :
    exec .smbusAlertResponse s = .next s :=
  if_neg (Bool.eq_false_iff.mp (Bool.and_eq_false_iff.mpr h))

end

/-- Settles O51: the pin is the disjunction of the alert cause bits, and the read that is answered leaves none of them. -/
theorem smbusAlert_clearedByResponse : Obligations.SmbusAlert := by
  refine ⟨smbusAlert_iff, fun s ⟨hans, halert⟩ => ?answered, fun s => exec_smbusAlertResponse_silent⟩
  case answered =>
    have hclear : ∀ bit, (0 : Nat).testBit bit = false := Nat.zero_testBit
    exact ⟨_, exec_smbusAlertResponse_asserted hans halert, rfl, hclear, (smbusAlert_eq_false_iff _).mpr hclear⟩

end Sys2Proof.Machine

/-! What every step keeps: the invariant, what lasts, and the parts that a command is not listed for. -/

namespace Sys2Proof.Machine

/-! ### The invariant and what lasts -/

/-- Every command keeps what lasts and what is bounded: each meaning does, by its own lemma under Laws. -/
theorem exec_kept (c : Instr) (s : State) : Kept s (stateOf s (exec c s)) :=
  match c with
  | .powerGoodRise .. => execPowerGoodRise_kept _ s (.refl s)
  | .powerGoodFall => execPowerGoodFall_kept s (.refl s)
  | .standbyInputLoss => execStandbyInputLoss_kept s (.refl s)
  | .snowdropEntry => execSnowdropEntry_kept s (.refl s)
  | .resetNAssert .. => execResetNAssert_kept _ _ s (.refl s)
  | .moduleResetRequest .. => execModuleResetRequest_kept _ _ s (.refl s)
  | .watchdogReset .. => execWatchdogReset_kept _ _ _ s (.refl s)
  | .forwardingBegin .. => execForwardingBegin_kept _ s (.refl s)
  | .warmHostReset .. => execWarmHostReset_kept _ s (.refl s)
  | .flr .. => execFlr_kept _ s (.refl s)
  | .vfRemoval .. => execVfRemoval_kept _ s (.refl s)
  | .busMasterEnableSet .. => execBusMasterEnableSet_kept _ s (.refl s)
  | .d3hotTransition .. => execD3hotTransition_kept _ _ s (.refl s)
  | .msixUnmask .. => execMsixUnmask_kept _ _ s (.refl s)
  | .ideStreamInsecure .. => execIdeStreamInsecure_kept _ s (.refl s)
  | .portLinkChange .. => execPortLinkChange_kept _ _ s (.refl s)
  | .frameReceived .. => execFrameReceived_kept _ _ s (.refl s)
  | .copyTransmitStart .. => execCopyTransmitStart_kept _ _ s (.refl s)
  | .copyDiscardTimeout .. => execCopyDiscardTimeout_kept _ s (.refl s)
  | .drainEnd .. => execDrainEnd_kept _ s (.refl s)
  | .lanDeadTimeout .. => execLanDeadTimeout_kept _ s (.refl s)
  | .dupSourceForget .. => execDupSourceForget_kept _ _ s (.refl s)
  | .supervisionSend => execSupervisionSend_kept s (.refl s)
  | .tick .. => execTick_kept _ _ s (.refl s)
  | .ppsEdge .. => execPpsEdge_kept _ s (.refl s)
  | .ppsMissing => execPpsMissing_kept s (.refl s)
  | .irigbFrame .. => execIrigbFrame_kept _ s (.refl s)
  | .tenMhzLoss .. => execTenMhzLoss_kept _ s (.refl s)
  | .ptpMessageProcess .. => execPtpMessageProcess_kept _ _ s (.refl s)
  | .ptpAnnounceTimeout => execPtpAnnounceTimeout_kept s (.refl s)
  | .ptpSyncTimeout => execPtpSyncTimeout_kept s (.refl s)
  | .referenceFailure .. => execReferenceFailure_kept _ s (.refl s)
  | .qualificationComplete .. => execQualificationComplete_kept _ s (.refl s)
  | .referenceSelect => execReferenceSelect_kept s (.refl s)
  | .ocxoFailed .. => execOcxoFailed_kept _ s (.refl s)
  | .checkpoint => execCheckpoint_kept s (.refl s)
  | .angleCoast => execAngleCoast_kept s (.refl s)
  | .angleLost => execAngleLost_kept s (.refl s)
  | .angleReached .. => execAngleReached_kept _ s (.refl s)
  | .planSwitch => execPlanSwitch_kept s (.refl s)
  | .deferredSwitch => execDeferredSwitch_kept s (.refl s)
  | .partitionReleaseEffect .. => execPartitionReleaseEffect_kept _ s (.refl s)
  | .entryReload .. => execEntryReload_kept _ _ _ _ s (.refl s)
  | .matchStoreRebuild .. => execMatchStoreRebuild_kept _ _ s (.refl s)
  | .dualKeyPadWindow .. => execDualKeyPadWindow_kept _ s (.refl s)
  | .acceptIntervalOpen .. => execAcceptIntervalOpen_kept _ s (.refl s)
  | .acceptIntervalClose .. => execAcceptIntervalClose_kept _ s (.refl s)
  | .padRefill .. => execPadRefill_kept _ s (.refl s)
  | .keyLifetimePassed .. => execKeyLifetimePassed_kept _ s (.refl s)
  | .keySlotRepair .. => execKeySlotRepair_kept _ _ s (.refl s)
  | .recordAppend => execRecordAppend_kept s (.refl s)
  | .summaryClose .. => execSummaryClose_kept _ _ s (.refl s)
  | .windowOpen .. => execWindowOpen_kept _ s (.refl s)
  | .windowClose .. => execWindowClose_kept _ s (.refl s)
  | .budgetHourRoll => execBudgetHourRoll_kept s (.refl s)
  | .zoneReleaseErase => execZoneReleaseErase_kept s (.refl s)
  | .mkaExchange .. => execMkaExchange_kept _ _ s (.refl s)
  | .mkaHello .. => execMkaHello_kept _ s (.refl s)
  | .mkaLifeExpiry .. => execMkaLifeExpiry_kept _ s (.refl s)
  | .pnExhausted .. => execPnExhausted_kept _ s (.refl s)
  | .gdoiPushReceived .. => execGdoiPushReceived_kept _ _ _ _ _ _ _ s (.refl s)
  | .gdoiKdcPush .. => execGdoiKdcPush_kept _ s (.refl s)
  | .pkeOperationStart .. => execPkeOperationStart_kept _ s (.refl s)
  | .pkeValidationEnd .. => execPkeValidationEnd_kept _ s (.refl s)
  | .pkeOperationFinish .. => execPkeOperationFinish_kept _ _ s (.refl s)
  | .pkeAbort .. => execPkeAbort_kept _ _ s (.refl s)
  | .pkeAbortRelease .. => execPkeAbortRelease_kept _ s (.refl s)
  | .pkeSetmod .. => execPkeSetmod_kept _ _ s (.refl s)
  | .pkeLoadkey .. => execPkeLoadkey_kept _ _ s (.refl s)
  | .pkeStore .. => execPkeStore_kept _ _ s (.refl s)
  | .pkeMmul .. => execPkeMmul_kept _ _ s (.refl s)
  | .pkeMadd .. => execPkeMadd_kept _ _ s (.refl s)
  | .pkeMsub .. => execPkeMsub_kept _ _ s (.refl s)
  | .pkeMac .. => execPkeMac_kept _ _ s (.refl s)
  | .pkeCswap .. => execPkeCswap_kept _ _ s (.refl s)
  | .pkeTsel .. => execPkeTsel_kept _ _ s (.refl s)
  | .pkeCopy .. => execPkeCopy_kept _ _ s (.refl s)
  | .pkeSetc .. => execPkeSetc_kept _ _ s (.refl s)
  | .pkeCheck .. => execPkeCheck_kept _ _ s (.refl s)
  | .pkePcheck .. => execPkePcheck_kept _ _ s (.refl s)
  | .pkeEq .. => execPkeEq_kept _ _ s (.refl s)
  | .pkeEndv .. => execPkeEndv_kept _ _ s (.refl s)
  | .pkeRepeat .. => execPkeRepeat_kept _ _ s (.refl s)
  | .pkeEnd .. => execPkeEnd_kept _ _ s (.refl s)
  | .rnuHealthFailure .. => execRnuHealthFailure_kept _ _ _ _ _ s (.refl s)
  | .rnuStartupPass => execRnuStartupPass_kept s (.refl s)
  | .rnuReseed => execRnuReseed_kept s (.refl s)
  | .bellowsRefill => execBellowsRefill_kept s (.refl s)
  | .bellowsFlush => execBellowsFlush_kept s (.refl s)
  | .expanderReinstantiate => execExpanderReinstantiate_kept s (.refl s)
  | .doorbellWrite .. => execDoorbellWrite_kept _ _ _ s (.refl s)
  | .arbitrationRound .. => execArbitrationRound_kept _ s (.refl s)
  | .headAdvance .. => execHeadAdvance_kept _ _ s (.refl s)
  | .moderationTimer .. => execModerationTimer_kept _ _ s (.refl s)
  | .completeByExpiry .. => execCompleteByExpiry_kept _ s (.refl s)
  | .dataPortOpen .. => execDataPortOpen_kept _ _ s (.refl s)
  | .dataPortWrite .. => execDataPortWrite_kept _ _ _ s (.refl s)
  | .dataPortRead .. => execDataPortRead_kept _ _ _ s (.refl s)
  | .dataPortAbort .. => execDataPortAbort_kept _ s (.refl s)
  | .dataPortTimeout .. => execDataPortTimeout_kept _ s (.refl s)
  | .ringEnable .. => execRingEnable_kept _ _ _ s (.refl s)
  | .ringDrain .. => execRingDrain_kept _ _ s (.refl s)
  | .ringInactive .. => execRingInactive_kept _ _ s (.refl s)
  | .workDispatch .. => execWorkDispatch_kept _ _ s (.refl s)
  | .itemCommit .. => execItemCommit_kept _ _ _ s (.refl s)
  | .leaseExpiry .. => execLeaseExpiry_kept _ s (.refl s)
  | .coreResetDone .. => execCoreResetDone_kept _ s (.refl s)
  | .coreMemoryError .. => execCoreMemoryError_kept _ s (.refl s)
  | .qmPacketBegin .. => execQmPacketBegin_kept _ _ _ s (.refl s)
  | .qmRead .. => execQmRead_kept _ s (.refl s)
  | .qmDropRemainder .. => execQmDropRemainder_kept _ s (.refl s)
  | .delayListRebuild .. => execDelayListRebuild_kept _ s (.refl s)
  | .internalAccess .. => execInternalAccess_kept _ s (.refl s)
  | .acUpdateOpen .. => execAcUpdateOpen_kept _ _ _ s (.refl s)
  | .acUpdateClose .. => execAcUpdateClose_kept _ s (.refl s)
  | .acUpdateTimeout => execAcUpdateTimeout_kept s (.refl s)
  | .scrubRead .. => execScrubRead_kept _ _ s (.refl s)
  | .memoryError .. => execMemoryError_kept _ s (.refl s)
  | .busIntegrityError .. => execBusIntegrityError_kept _ _ _ s (.refl s)
  | .tamperAlarm .. => execTamperAlarm_kept _ _ _ _ s (.refl s)
  | .quenchWPath .. => execQuenchWPath_kept _ _ s (.refl s)
  | .quenchRErase => execQuenchRErase_kept s (.refl s)
  | .lightDisagreeTimeout .. => execLightDisagreeTimeout_kept _ _ _ s (.refl s)
  | .cellTest .. => execCellTest_kept _ _ s (.refl s)
  | .journalOverflowHour => execJournalOverflowHour_kept s (.refl s)
  | .snowdropAlarm .. => execSnowdropAlarm_kept _ _ _ _ s (.refl s)
  | .restrictClear => execRestrictClear_kept s (.refl s)
  | .debugTokenExpiry => execDebugTokenExpiry_kept s (.refl s)
  | .debugEnd => execDebugEnd_kept s (.refl s)
  | .rollingTestPeriod .. => execRollingTestPeriod_kept _ s (.refl s)
  | .firmwareTrialCommit => execFirmwareTrialCommit_kept s (.refl s)
  | .settingStore => execSettingStore_kept s (.refl s)
  | .settingTakesEffect => execSettingTakesEffect_kept s (.refl s)
  | .registerWrite .. => execRegisterWrite_kept _ _ _ _ _ s (.refl s)
  | .streamCounterLatch .. => execStreamCounterLatch_kept _ _ _ s (.refl s)
  | .portCounterLatch .. => execPortCounterLatch_kept _ s (.refl s)
  | .portCfgWrite .. => execPortCfgWrite_kept _ _ s (.refl s)
  | .pairCfgWrite .. => execPairCfgWrite_kept _ _ s (.refl s)
  | .loopCfgWrite .. => execLoopCfgWrite_kept _ _ s (.refl s)
  | .coreGroupsWrite .. => execCoreGroupsWrite_kept _ _ s (.refl s)
  | .testPatternWrite .. => execTestPatternWrite_kept _ s (.refl s)
  | .ringZonesWrite .. => execRingZonesWrite_kept _ s (.refl s)
  | .refPriorityWrite .. => execRefPriorityWrite_kept _ s (.refl s)
  | .ptpCfgWrite .. => execPtpCfgWrite_kept _ s (.refl s)
  | .tenMhzCfgWrite .. => execTenMhzCfgWrite_kept _ s (.refl s)
  | .refChannelWrite .. => execRefChannelWrite_kept _ s (.refl s)
  | .denyRecordRead => execDenyRecordRead_kept s (.refl s)
  | .smbusIdentity .. => execSmbusIdentity_kept _ s (.refl s)
  | .smbusEnvironment .. => execSmbusEnvironment_kept _ s (.refl s)
  | .smbusStatus .. => execSmbusStatus_kept _ s (.refl s)
  | .smbusAlertResponse => execSmbusAlertResponse_kept s (.refl s)
  | .jtagIdcode => execJtagIdcode_kept s (.refl s)
  | .jtagBypass => execJtagBypass_kept s (.refl s)
  | .pad .. => execPad_kept _ _ _ s (.refl s)
  | .nop .. => execNop_kept _ s (.refl s)
  | .keyLoad .. => execKeyLoad_kept _ _ _ s (.refl s)
  | .keyUnload .. => execKeyUnload_kept _ _ s (.refl s)
  | .keyGenerate .. => execKeyGenerate_kept _ _ _ _ _ _ _ _ _ s (.refl s)
  | .keyBlobRead .. => execKeyBlobRead_kept _ _ s (.refl s)
  | .keyVaultStore .. => execKeyVaultStore_kept _ _ s (.refl s)
  | .keyVaultDelete .. => execKeyVaultDelete_kept _ _ s (.refl s)
  | .keyReserve .. => execKeyReserve_kept _ _ _ _ _ _ s (.refl s)
  | .keyReserveCancel .. => execKeyReserveCancel_kept _ _ s (.refl s)
  | .keyAttest .. => execKeyAttest_kept _ _ _ s (.refl s)
  | .deviceAttest .. => execDeviceAttest_kept _ _ _ s (.refl s)
  | .temperApply .. => execTemperApply_kept _ _ s (.refl s)
  | .hash .. => execHash_kept _ _ _ s (.refl s)
  | .macGenerate .. => execMacGenerate_kept _ _ _ _ _ _ s (.refl s)
  | .macVerify .. => execMacVerify_kept _ _ _ _ _ _ _ s (.refl s)
  | .aeadEncrypt .. => execAeadEncrypt_kept _ _ _ _ _ _ _ s (.refl s)
  | .aeadDecrypt .. => execAeadDecrypt_kept _ _ _ _ _ _ _ s (.refl s)
  | .ecdsaSign .. => execEcdsaSign_kept _ _ _ _ s (.refl s)
  | .ecdsaVerify .. => execEcdsaVerify_kept _ _ _ _ s (.refl s)
  | .eddsaSign .. => execEddsaSign_kept _ _ _ s (.refl s)
  | .eddsaVerify .. => execEddsaVerify_kept _ _ s (.refl s)
  | .keyAgree .. => execKeyAgree_kept _ _ _ s (.refl s)
  | .rsaSign .. => execRsaSign_kept _ _ _ _ _ _ s (.refl s)
  | .rsaDecrypt .. => execRsaDecrypt_kept _ _ _ _ _ _ s (.refl s)
  | .rsaVerify .. => execRsaVerify_kept _ _ _ _ _ _ s (.refl s)
  | .rsaEncrypt .. => execRsaEncrypt_kept _ _ _ _ _ _ s (.refl s)
  | .pointValidate .. => execPointValidate_kept _ _ _ s (.refl s)
  | .curveLoad .. => execCurveLoad_kept _ _ s (.refl s)
  | .curveUnload .. => execCurveUnload_kept _ _ s (.refl s)
  | .sequence .. => execSequence_kept _ _ _ s (.refl s)
  | .tlsOpen .. => execTlsOpen_kept _ _ _ _ _ _ s (.refl s)
  | .tlsHandshake .. => execTlsHandshake_kept _ _ _ s (.refl s)
  | .tlsSeal .. => execTlsSeal_kept _ _ _ _ s (.refl s)
  | .tlsUnseal .. => execTlsUnseal_kept _ _ _ s (.refl s)
  | .tlsClose .. => execTlsClose_kept _ _ s (.refl s)
  | .tlsPeerCert .. => execTlsPeerCert_kept _ _ s (.refl s)
  | .randomBytes .. => execRandomBytes_kept _ _ s (.refl s)
  | .entropyRestart .. => execEntropyRestart_kept _ s (.refl s)
  | .rawSamples .. => execRawSamples_kept _ _ _ s (.refl s)
  | .planLoad .. => execPlanLoad_kept _ _ _ s (.refl s)
  | .planActivate .. => execPlanActivate_kept _ _ _ _ s (.refl s)
  | .planRollback .. => execPlanRollback_kept _ _ _ _ s (.refl s)
  | .planCancel .. => execPlanCancel_kept _ s (.refl s)
  | .planRead .. => execPlanRead_kept _ _ s (.refl s)
  | .partitionAssign .. => execPartitionAssign_kept _ _ _ _ s (.refl s)
  | .partitionRelease .. => execPartitionRelease_kept _ _ _ s (.refl s)
  | .counterRead .. => execCounterRead_kept _ _ _ s (.refl s)
  | .counterSnapshot .. => execCounterSnapshot_kept _ _ _ s (.refl s)
  | .archiveRead .. => execArchiveRead_kept _ _ s (.refl s)
  | .captureWindow .. => execCaptureWindow_kept _ _ _ _ s (.refl s)
  | .archiveRelease .. => execArchiveRelease_kept _ _ s (.refl s)
  | .journalRead .. => execJournalRead_kept _ _ s (.refl s)
  | .timeStep .. => execTimeStep_kept _ _ s (.refl s)
  | .timedPublish .. => execTimedPublish_kept _ _ _ _ s (.refl s)
  | .lifecycleRequest .. => execLifecycleRequest_kept _ _ s (.refl s)
  | .debugAuthorise .. => execDebugAuthorise_kept _ _ s (.refl s)
  | .selfTestRun .. => execSelfTestRun_kept _ _ _ _ s (.refl s)
  | .rollingTest .. => execRollingTest_kept _ _ _ s (.refl s)
  | .moduleInfo .. => execModuleInfo_kept _ s (.refl s)
  | .portMacsecSet .. => execPortMacsecSet_kept _ _ _ _ _ s (.refl s)
  | .portMacsecGet .. => execPortMacsecGet_kept _ _ s (.refl s)
  | .ideRequiredSet .. => execIdeRequiredSet_kept _ _ s (.refl s)
  | .configSelect .. => execConfigSelect_kept _ _ s (.refl s)
  | .firmwareLoad .. => execFirmwareLoad_kept _ _ _ _ s (.refl s)
  | .firmwareSelect .. => execFirmwareSelect_kept _ _ s (.refl s)
  | .vfSetup .. => execVfSetup_kept _ _ _ _ _ _ _ s (.refl s)
  | .vfFreeze .. => execVfFreeze_kept _ _ s (.refl s)
  | .vfSave .. => execVfSave_kept _ _ s (.refl s)
  | .vfRestore .. => execVfRestore_kept _ _ _ _ s (.refl s)
  | .vfThaw .. => execVfThaw_kept _ _ s (.refl s)
  | .ptpMessageTransmit .. => execPtpMessageTransmit_kept _ _ s (.refl s)
  | .irigbFrameMissing => execIrigbFrameMissing_kept s (.refl s)
  | .dualKeyPadWindowEnd .. => execDualKeyPadWindowEnd_kept _ s (.refl s)
  | .resetNRelease .. => execResetNRelease_kept _ s (.refl s)
  | .perstNDeassert => execPerstNDeassert_kept s (.refl s)
  | .busMasterEnableClear .. => execBusMasterEnableClear_kept _ s (.refl s)
  | .spdmDoeExchange .. => execSpdmDoeExchange_kept _ s (.refl s)
  | .standbyInputReturn .. => execStandbyInputReturn_kept _ _ s (.refl s)
  | .supplyOutOfRange .. => execSupplyOutOfRange_kept _ s (.refl s)
  | .backupPowerLoss => execBackupPowerLoss_kept s (.refl s)
  | .alarmConditionAbsent .. => execAlarmConditionAbsent_kept _ _ s (.refl s)
  | .debugPortAccess .. => execDebugPortAccess_kept _ s (.refl s)
  | .splitRegisterRead .. => execSplitRegisterRead_kept _ _ _ s (.refl s)

theorem Inv.of_pending {s : State} {p : List Instr} (h : Inv s) : Inv { s with pending := p } :=
  ⟨h.journal, h.counters, h.staging, h.windows, h.sessionsWf, h.sessions, h.bellows, h.ev, h.rw, h.store⟩

/-- The queue is no part of what is kept. -/
theorem Kept.of_pending {g s : State} {p : List Instr} (h : Kept { g with pending := p } s) : Kept g s := by
  obtain ⟨hjournal, hfloor, hfuse, hbounds⟩ := h
  exact ⟨hjournal, hfloor, hfuse, fun hinv => hbounds hinv.of_pending⟩

theorem step_kept {s t : State} (h : step s = .next t) : Kept s t := by
  cases hp : s.pending with
  | nil =>
    rw [step, hp] at h
    cases h
    exact .refl s
  | cons c rest =>
    have hexec : exec c { s with pending := rest } = .next t := by rw [step, hp] at h; exact h
    have hkept := exec_kept c { s with pending := rest }
    rw [hexec] at hkept
    exact hkept.of_pending

/-- Settles O59: what a step keeps contains the invariant. -/
theorem invariantKept : Obligations.InvariantKept :=
  fun _ _ hinv hstep => (step_kept hstep).inv hinv

theorem Kept.counters_le {g s : State} (h : Kept g s) (hinv : Inv g) (cause : Nat) :
    Tbl.get 0 g.tm.counters cause ≤ Tbl.get 0 s.tm.counters cause := by
  obtain ⟨-, -, -, hbounds⟩ := h
  obtain ⟨-, -, hcounters, -⟩ := hbounds hinv
  exact hcounters cause

/-- Settles O60: what a step keeps contains the journal, the floor, the fuse and the counters. -/
theorem lastingRecordsAreNeverLost : Obligations.LastingRecordsAreNeverLost := by
  refine ⟨fun s t hstep => ?_, fun s t cause hinv hstep => (step_kept hstep).counters_le hinv cause⟩
  obtain ⟨hjournal, hfloor, hfuse, -⟩ := step_kept hstep
  exact ⟨hjournal, hfloor, hfuse⟩

/-! ### The parts that a command leaves alone -/

/-- A part of the state is the same in `t` as in `s`. -/
def SamePart (s t : State) : Part → Prop
  | .sck => t.sck = s.sck | .arc => t.arc = s.arc | .pln => t.pln = s.pln | .fe => t.fe = s.fe | .hif => t.hif = s.hif
  | .ts => t.ts = s.ts | .key => t.key = s.key | .pke => t.pke = s.pke | .rnu => t.rnu = s.rnu | .tls => t.tls = s.tls
  | .ac => t.ac = s.ac | .tm => t.tm = s.tm | .lcc => t.lcc = s.lcc | .stc => t.stc = s.stc | .pwr => t.pwr = s.pwr
  | .io => t.io = s.io | .ev => t.ev = s.ev | .rw => t.rw = s.rw | .store => t.store = s.store
  | .writes => t.writes = s.writes | .out => t.out = s.out | .free => t.free = s.free

/-- The parts of a list that are not in another one, which holds its parts in the same order. -/
def unlisted : List Part → List Part → List Part
  | p :: ps, q :: qs => if p = q then unlisted ps qs else p :: unlisted ps (q :: qs)
  | ps, _ => ps

theorem mem_unlisted {ps l : List Part} {p : Part} (hp : p ∈ ps) (hl : p ∉ l) : p ∈ unlisted ps l := by
  induction ps, l using unlisted.induct with
  | case1 q ps qs ih =>
    rw [unlisted, if_pos rfl]
    rw [List.mem_cons, not_or] at hl
    exact ih (List.mem_of_ne_of_mem hl.1 hp) hl.2
  | case2 p' ps q qs hne ih =>
    rw [unlisted, if_neg hne, List.mem_cons]
    exact (List.mem_cons.mp hp).imp id fun h => ih h hl
  | case3 ps l hnil =>
    rwa [unlisted]
    exact hnil

/-- Every proposition of a list holds. -/
def AllHold : List Prop → Prop
  | [] => True
  | [p] => p
  | p :: q :: l => p ∧ AllHold (q :: l)

theorem AllHold.of_mem {l : List Prop} (h : AllHold l) {p : Prop} (hp : p ∈ l) : p := by
  fun_induction AllHold l with
  | case1 => exact absurd hp List.not_mem_nil
  | case2 q => exact List.mem_singleton.mp hp ▸ h
  | case3 q r l ih =>
    obtain ⟨hq, hrest⟩ := h
    rcases List.mem_cons.mp hp with rfl | hp
    · exact hq
    · exact ih hrest hp

/-- From `s` to `t` the queue, the identity and every part but those listed are the same. -/
def SameBut (l : List Part) (s t : State) : Prop :=
  AllHold ((t.pending = s.pending) :: (t.ident = s.ident) :: (unlisted allParts l).map (SamePart s t))

theorem mem_allParts (p : Part) : p ∈ allParts := by cases p <;> decide

theorem SameBut.pending {l : List Part} {s t : State} (h : SameBut l s t) : t.pending = s.pending :=
  h.of_mem List.mem_cons_self

theorem SameBut.ident {l : List Part} {s t : State} (h : SameBut l s t) : t.ident = s.ident :=
  h.of_mem (.tail _ List.mem_cons_self)

theorem SameBut.part {l : List Part} {s t : State} (h : SameBut l s t) {p : Part} (hp : p ∉ l) : SamePart s t p :=
  h.of_mem (.tail _ (.tail _ (List.mem_map_of_mem (f := SamePart s t) (mem_unlisted (mem_allParts p) hp))))

/-- Every command leaves the parts alone that it is not listed for: what each meaning keeps, by its own lemma under Laws, is
all the rest. -/
theorem exec_sameBut (c : Instr) (s : State) : SameBut (mayTouch c) s (stateOf s (exec c s)) :=
  match c with
  | .powerGoodRise .. => execPowerGoodRise_keeps _ s
  | .powerGoodFall => execPowerGoodFall_keeps s
  | .standbyInputLoss => execStandbyInputLoss_keeps s
  | .snowdropEntry => execSnowdropEntry_keeps s
  | .resetNAssert .. => execResetNAssert_keeps _ _ s
  | .moduleResetRequest .. => execModuleResetRequest_keeps _ _ s
  | .watchdogReset .. => execWatchdogReset_keeps _ _ _ s
  | .forwardingBegin .. => execForwardingBegin_keeps _ s
  | .warmHostReset .. => execWarmHostReset_keeps _ s
  | .flr .. => execFlr_keeps _ s
  | .vfRemoval .. => execVfRemoval_keeps _ s
  | .busMasterEnableSet .. => execBusMasterEnableSet_keeps _ s
  | .d3hotTransition .. => execD3hotTransition_keeps _ _ s
  | .msixUnmask .. => execMsixUnmask_keeps _ _ s
  | .ideStreamInsecure .. => execIdeStreamInsecure_keeps _ s
  | .portLinkChange .. => execPortLinkChange_keeps _ _ s
  | .frameReceived .. => execFrameReceived_keeps _ _ s
  | .copyTransmitStart .. => execCopyTransmitStart_keeps _ _ s
  | .copyDiscardTimeout .. => execCopyDiscardTimeout_keeps _ s
  | .drainEnd .. => execDrainEnd_keeps _ s
  | .lanDeadTimeout .. => execLanDeadTimeout_keeps _ s
  | .dupSourceForget .. => execDupSourceForget_keeps _ _ s
  | .supervisionSend => execSupervisionSend_keeps s
  | .tick .. => execTick_keeps _ _ s
  | .ppsEdge .. => execPpsEdge_keeps _ s
  | .ppsMissing => execPpsMissing_keeps s
  | .irigbFrame .. => execIrigbFrame_keeps _ s
  | .tenMhzLoss .. => execTenMhzLoss_keeps _ s
  | .ptpMessageProcess .. => execPtpMessageProcess_keeps _ _ s
  | .ptpAnnounceTimeout => execPtpAnnounceTimeout_keeps s
  | .ptpSyncTimeout => execPtpSyncTimeout_keeps s
  | .referenceFailure .. => execReferenceFailure_keeps _ s
  | .qualificationComplete .. => execQualificationComplete_keeps _ s
  | .referenceSelect => execReferenceSelect_keeps s
  | .ocxoFailed .. => execOcxoFailed_keeps _ s
  | .checkpoint => execCheckpoint_keeps s
  | .angleCoast => execAngleCoast_keeps s
  | .angleLost => execAngleLost_keeps s
  | .angleReached .. => execAngleReached_keeps _ s
  | .planSwitch => execPlanSwitch_keeps s
  | .deferredSwitch => execDeferredSwitch_keeps s
  | .partitionReleaseEffect .. => execPartitionReleaseEffect_keeps _ s
  | .entryReload .. => execEntryReload_keeps _ _ _ _ s
  | .matchStoreRebuild .. => execMatchStoreRebuild_keeps _ _ s
  | .dualKeyPadWindow .. => execDualKeyPadWindow_keeps _ s
  | .acceptIntervalOpen .. => execAcceptIntervalOpen_keeps _ s
  | .acceptIntervalClose .. => execAcceptIntervalClose_keeps _ s
  | .padRefill .. => execPadRefill_keeps _ s
  | .keyLifetimePassed .. => execKeyLifetimePassed_keeps _ s
  | .keySlotRepair .. => execKeySlotRepair_keeps _ _ s
  | .recordAppend => execRecordAppend_keeps s
  | .summaryClose .. => execSummaryClose_keeps _ _ s
  | .windowOpen .. => execWindowOpen_keeps _ s
  | .windowClose .. => execWindowClose_keeps _ s
  | .budgetHourRoll => execBudgetHourRoll_keeps s
  | .zoneReleaseErase => execZoneReleaseErase_keeps s
  | .mkaExchange .. => execMkaExchange_keeps _ _ s
  | .mkaHello .. => execMkaHello_keeps _ s
  | .mkaLifeExpiry .. => execMkaLifeExpiry_keeps _ s
  | .pnExhausted .. => execPnExhausted_keeps _ s
  | .gdoiPushReceived .. => execGdoiPushReceived_keeps _ _ _ _ _ _ _ s
  | .gdoiKdcPush .. => execGdoiKdcPush_keeps _ s
  | .pkeOperationStart .. => execPkeOperationStart_keeps _ s
  | .pkeValidationEnd .. => execPkeValidationEnd_keeps _ s
  | .pkeOperationFinish .. => execPkeOperationFinish_keeps _ _ s
  | .pkeAbort .. => execPkeAbort_keeps _ _ s
  | .pkeAbortRelease .. => execPkeAbortRelease_keeps _ s
  | .pkeSetmod .. => execPkeSetmod_keeps _ _ s
  | .pkeLoadkey .. => execPkeLoadkey_keeps _ _ s
  | .pkeStore .. => execPkeStore_keeps _ _ s
  | .pkeMmul .. => execPkeMmul_keeps _ _ s
  | .pkeMadd .. => execPkeMadd_keeps _ _ s
  | .pkeMsub .. => execPkeMsub_keeps _ _ s
  | .pkeMac .. => execPkeMac_keeps _ _ s
  | .pkeCswap .. => execPkeCswap_keeps _ _ s
  | .pkeTsel .. => execPkeTsel_keeps _ _ s
  | .pkeCopy .. => execPkeCopy_keeps _ _ s
  | .pkeSetc .. => execPkeSetc_keeps _ _ s
  | .pkeCheck .. => execPkeCheck_keeps _ _ s
  | .pkePcheck .. => execPkePcheck_keeps _ _ s
  | .pkeEq .. => execPkeEq_keeps _ _ s
  | .pkeEndv .. => execPkeEndv_keeps _ _ s
  | .pkeRepeat .. => execPkeRepeat_keeps _ _ s
  | .pkeEnd .. => execPkeEnd_keeps _ _ s
  | .rnuHealthFailure .. => execRnuHealthFailure_keeps _ _ _ _ _ s
  | .rnuStartupPass => execRnuStartupPass_keeps s
  | .rnuReseed => execRnuReseed_keeps s
  | .bellowsRefill => execBellowsRefill_keeps s
  | .bellowsFlush => execBellowsFlush_keeps s
  | .expanderReinstantiate => execExpanderReinstantiate_keeps s
  | .doorbellWrite .. => execDoorbellWrite_keeps _ _ _ s
  | .arbitrationRound .. => execArbitrationRound_keeps _ s
  | .headAdvance .. => execHeadAdvance_keeps _ _ s
  | .moderationTimer .. => execModerationTimer_keeps _ _ s
  | .completeByExpiry .. => execCompleteByExpiry_keeps _ s
  | .dataPortOpen .. => execDataPortOpen_keeps _ _ s
  | .dataPortWrite .. => execDataPortWrite_keeps _ _ _ s
  | .dataPortRead .. => execDataPortRead_keeps _ _ _ s
  | .dataPortAbort .. => execDataPortAbort_keeps _ s
  | .dataPortTimeout .. => execDataPortTimeout_keeps _ s
  | .ringEnable .. => execRingEnable_keeps _ _ _ s
  | .ringDrain .. => execRingDrain_keeps _ _ s
  | .ringInactive .. => execRingInactive_keeps _ _ s
  | .workDispatch .. => execWorkDispatch_keeps _ _ s
  | .itemCommit .. => execItemCommit_keeps _ _ _ s
  | .leaseExpiry .. => execLeaseExpiry_keeps _ s
  | .coreResetDone .. => execCoreResetDone_keeps _ s
  | .coreMemoryError .. => execCoreMemoryError_keeps _ s
  | .qmPacketBegin .. => execQmPacketBegin_keeps _ _ _ s
  | .qmRead .. => execQmRead_keeps _ s
  | .qmDropRemainder .. => execQmDropRemainder_keeps _ s
  | .delayListRebuild .. => execDelayListRebuild_keeps _ s
  | .internalAccess .. => execInternalAccess_keeps _ s
  | .acUpdateOpen .. => execAcUpdateOpen_keeps _ _ _ s
  | .acUpdateClose .. => execAcUpdateClose_keeps _ s
  | .acUpdateTimeout => execAcUpdateTimeout_keeps s
  | .scrubRead .. => execScrubRead_keeps _ _ s
  | .memoryError .. => execMemoryError_keeps _ s
  | .busIntegrityError .. => execBusIntegrityError_keeps _ _ _ s
  | .tamperAlarm .. => execTamperAlarm_keeps _ _ _ _ s
  | .quenchWPath .. => execQuenchWPath_keeps _ _ s
  | .quenchRErase => execQuenchRErase_keeps s
  | .lightDisagreeTimeout .. => execLightDisagreeTimeout_keeps _ _ _ s
  | .cellTest .. => execCellTest_keeps _ _ s
  | .journalOverflowHour => execJournalOverflowHour_keeps s
  | .snowdropAlarm .. => execSnowdropAlarm_keeps _ _ _ _ s
  | .restrictClear => execRestrictClear_keeps s
  | .debugTokenExpiry => execDebugTokenExpiry_keeps s
  | .debugEnd => execDebugEnd_keeps s
  | .rollingTestPeriod .. => execRollingTestPeriod_keeps _ s
  | .firmwareTrialCommit => execFirmwareTrialCommit_keeps s
  | .settingStore => execSettingStore_keeps s
  | .settingTakesEffect => execSettingTakesEffect_keeps s
  | .registerWrite .. => execRegisterWrite_keeps _ _ _ _ _ s
  | .streamCounterLatch .. => execStreamCounterLatch_keeps _ _ _ s
  | .portCounterLatch .. => execPortCounterLatch_keeps _ s
  | .portCfgWrite .. => execPortCfgWrite_keeps _ _ s
  | .pairCfgWrite .. => execPairCfgWrite_keeps _ _ s
  | .loopCfgWrite .. => execLoopCfgWrite_keeps _ _ s
  | .coreGroupsWrite .. => execCoreGroupsWrite_keeps _ _ s
  | .testPatternWrite .. => execTestPatternWrite_keeps _ s
  | .ringZonesWrite .. => execRingZonesWrite_keeps _ s
  | .refPriorityWrite .. => execRefPriorityWrite_keeps _ s
  | .ptpCfgWrite .. => execPtpCfgWrite_keeps _ s
  | .tenMhzCfgWrite .. => execTenMhzCfgWrite_keeps _ s
  | .refChannelWrite .. => execRefChannelWrite_keeps _ s
  | .denyRecordRead => execDenyRecordRead_keeps s
  | .smbusIdentity .. => execSmbusIdentity_keeps _ s
  | .smbusEnvironment .. => execSmbusEnvironment_keeps _ s
  | .smbusStatus .. => execSmbusStatus_keeps _ s
  | .smbusAlertResponse => execSmbusAlertResponse_keeps s
  | .jtagIdcode => execJtagIdcode_keeps s
  | .jtagBypass => execJtagBypass_keeps s
  | .pad .. => execPad_keeps _ _ _ s
  | .nop .. => execNop_keeps _ s
  | .keyLoad .. => execKeyLoad_keeps _ _ _ s
  | .keyUnload .. => execKeyUnload_keeps _ _ s
  | .keyGenerate .. => execKeyGenerate_keeps _ _ _ _ _ _ _ _ _ s
  | .keyBlobRead .. => execKeyBlobRead_keeps _ _ s
  | .keyVaultStore .. => execKeyVaultStore_keeps _ _ s
  | .keyVaultDelete .. => execKeyVaultDelete_keeps _ _ s
  | .keyReserve .. => execKeyReserve_keeps _ _ _ _ _ _ s
  | .keyReserveCancel .. => execKeyReserveCancel_keeps _ _ s
  | .keyAttest .. => execKeyAttest_keeps _ _ _ s
  | .deviceAttest .. => execDeviceAttest_keeps _ _ _ s
  | .temperApply .. => execTemperApply_keeps _ _ s
  | .hash .. => execHash_keeps _ _ _ s
  | .macGenerate .. => execMacGenerate_keeps _ _ _ _ _ _ s
  | .macVerify .. => execMacVerify_keeps _ _ _ _ _ _ _ s
  | .aeadEncrypt .. => execAeadEncrypt_keeps _ _ _ _ _ _ _ s
  | .aeadDecrypt .. => execAeadDecrypt_keeps _ _ _ _ _ _ _ s
  | .ecdsaSign .. => execEcdsaSign_keeps _ _ _ _ s
  | .ecdsaVerify .. => execEcdsaVerify_keeps _ _ _ _ s
  | .eddsaSign .. => execEddsaSign_keeps _ _ _ s
  | .eddsaVerify .. => execEddsaVerify_keeps _ _ s
  | .keyAgree .. => execKeyAgree_keeps _ _ _ s
  | .rsaSign .. => execRsaSign_keeps _ _ _ _ _ _ s
  | .rsaDecrypt .. => execRsaDecrypt_keeps _ _ _ _ _ _ s
  | .rsaVerify .. => execRsaVerify_keeps _ _ _ _ _ _ s
  | .rsaEncrypt .. => execRsaEncrypt_keeps _ _ _ _ _ _ s
  | .pointValidate .. => execPointValidate_keeps _ _ _ s
  | .curveLoad .. => execCurveLoad_keeps _ _ s
  | .curveUnload .. => execCurveUnload_keeps _ _ s
  | .sequence .. => execSequence_keeps _ _ _ s
  | .tlsOpen .. => execTlsOpen_keeps _ _ _ _ _ _ s
  | .tlsHandshake .. => execTlsHandshake_keeps _ _ _ s
  | .tlsSeal .. => execTlsSeal_keeps _ _ _ _ s
  | .tlsUnseal .. => execTlsUnseal_keeps _ _ _ s
  | .tlsClose .. => execTlsClose_keeps _ _ s
  | .tlsPeerCert .. => execTlsPeerCert_keeps _ _ s
  | .randomBytes .. => execRandomBytes_keeps _ _ s
  | .entropyRestart .. => execEntropyRestart_keeps _ s
  | .rawSamples .. => execRawSamples_keeps _ _ _ s
  | .planLoad .. => execPlanLoad_keeps _ _ _ s
  | .planActivate .. => execPlanActivate_keeps _ _ _ _ s
  | .planRollback .. => execPlanRollback_keeps _ _ _ _ s
  | .planCancel .. => execPlanCancel_keeps _ s
  | .planRead .. => execPlanRead_keeps _ _ s
  | .partitionAssign .. => execPartitionAssign_keeps _ _ _ _ s
  | .partitionRelease .. => execPartitionRelease_keeps _ _ _ s
  | .counterRead .. => execCounterRead_keeps _ _ _ s
  | .counterSnapshot .. => execCounterSnapshot_keeps _ _ _ s
  | .archiveRead .. => execArchiveRead_keeps _ _ s
  | .captureWindow .. => execCaptureWindow_keeps _ _ _ _ s
  | .archiveRelease .. => execArchiveRelease_keeps _ _ s
  | .journalRead .. => execJournalRead_keeps _ _ s
  | .timeStep .. => execTimeStep_keeps _ _ s
  | .timedPublish .. => execTimedPublish_keeps _ _ _ _ s
  | .lifecycleRequest .. => execLifecycleRequest_keeps _ _ s
  | .debugAuthorise .. => execDebugAuthorise_keeps _ _ s
  | .selfTestRun .. => execSelfTestRun_keeps _ _ _ _ s
  | .rollingTest .. => execRollingTest_keeps _ _ _ s
  | .moduleInfo .. => execModuleInfo_keeps _ s
  | .portMacsecSet .. => execPortMacsecSet_keeps _ _ _ _ _ s
  | .portMacsecGet .. => execPortMacsecGet_keeps _ _ s
  | .ideRequiredSet .. => execIdeRequiredSet_keeps _ _ s
  | .configSelect .. => execConfigSelect_keeps _ _ s
  | .firmwareLoad .. => execFirmwareLoad_keeps _ _ _ _ s
  | .firmwareSelect .. => execFirmwareSelect_keeps _ _ s
  | .vfSetup .. => execVfSetup_keeps _ _ _ _ _ _ _ s
  | .vfFreeze .. => execVfFreeze_keeps _ _ s
  | .vfSave .. => execVfSave_keeps _ _ s
  | .vfRestore .. => execVfRestore_keeps _ _ _ _ s
  | .vfThaw .. => execVfThaw_keeps _ _ s
  | .ptpMessageTransmit .. => execPtpMessageTransmit_keeps _ _ s
  | .irigbFrameMissing => execIrigbFrameMissing_keeps s
  | .dualKeyPadWindowEnd .. => execDualKeyPadWindowEnd_keeps _ s
  | .resetNRelease .. => execResetNRelease_keeps _ s
  | .perstNDeassert => execPerstNDeassert_keeps s
  | .busMasterEnableClear .. => execBusMasterEnableClear_keeps _ s
  | .spdmDoeExchange .. => execSpdmDoeExchange_keeps _ s
  | .standbyInputReturn .. => execStandbyInputReturn_keeps _ _ s
  | .supplyOutOfRange .. => execSupplyOutOfRange_keeps _ s
  | .backupPowerLoss => execBackupPowerLoss_keeps s
  | .alarmConditionAbsent .. => execAlarmConditionAbsent_keeps _ _ s
  | .debugPortAccess .. => execDebugPortAccess_keeps _ s
  | .splitRegisterRead .. => execSplitRegisterRead_keeps _ _ _ s

/-- Settles O58: the queue, the identity and each part, as `exec_sameBut` has them. -/
theorem commandsLeaveOtherPartsAlone : Obligations.CommandsLeaveOtherPartsAlone := by
  intro c s t hexec
  have hsame := exec_sameBut c s
  rw [hexec, stateOf_next] at hsame
  exact ⟨hsame.pending, hsame.ident, hsame.part, hsame.part, hsame.part, hsame.part, hsame.part, hsame.part, hsame.part, hsame.part,
    hsame.part, hsame.part, hsame.part, hsame.part, hsame.part, hsame.part, hsame.part, hsame.part, hsame.part, hsame.part,
    hsame.part, hsame.part, hsame.part, hsame.part⟩

end Sys2Proof.Machine

/-! The step itself, and the state after reset. -/

namespace Sys2Proof.Machine

/-- Settles O56: the three equations of `step` and `send`. -/
theorem stepRunsTheFrontCommand : Obligations.StepRunsTheFrontCommand := by
  refine ⟨fun c rest s => rfl, fun s hempty => ?_, fun c s => rfl⟩
  rw [step, hempty]

theorem inv_reset : Inv State.reset where
  journal := ⟨rfl, Nat.zero_le _, fun _ => by decide⟩
  counters := ⟨rfl, fun _ => Nat.zero_le _⟩
  staging := Nat.zero_le _
  windows := Nat.zero_le _
  sessionsWf := rfl
  sessions := Nat.zero_le _
  bellows := Nat.zero_le _
  ev := rfl
  rw := rfl
  store := rfl

theorem portCfg_of_rw_nil {s : State} (h : s.rw = []) (p : Nat) : s.portCfg p = if p < 4 then 0 else 2 := by
  rw [State.portCfg, h]
  rfl

theorem pairCfg_of_rw_nil {s : State} (h : s.rw = []) (i : Nat) : s.pairCfg i = 0x01900640 := by
  rw [State.pairCfg, h]
  rfl

/-- Settles O57: the fields of the reset state, and the defaults of registers that nothing has written. -/
theorem resetState : Obligations.ResetState :=
  ⟨⟨inv_reset, rfl⟩, ⟨rfl, rfl, rfl, rfl, rfl⟩, fun p i => ⟨portCfg_of_rw_nil rfl p, pairCfg_of_rw_nil rfl i⟩⟩

end Sys2Proof.Machine

/-! What the computing commands of the public-key engines leave in the slots, and the Montgomery product (R343, R345). -/

namespace Sys2Proof.Machine

/-! ### Powers modulo m -/

theorem powMod_eq (m : Nat) {fuel b e : Nat} (h : e < 2 ^ fuel) : powMod m fuel b e = b ^ e % m := by
  induction fuel generalizing b e with
  | zero =>
    obtain rfl : e = 0 := by omega
    rw [powMod, Nat.pow_zero]
  | succ n ih =>
    by_cases he : e = 0
    · rw [he, powMod, if_pos rfl, Nat.pow_zero]
    · have hhalf : powMod m n (b * b % m) (e / 2) = (b * b) ^ (e / 2) % m := by
        rw [ih (by omega), ← Nat.pow_mod]
      have hsquare : (b * b) ^ (e / 2) = b ^ (2 * (e / 2)) := by rw [Nat.pow_mul, Nat.pow_two]
      rw [powMod, if_neg he, hhalf]
      by_cases hodd : e % 2 = 1
      · have hsplit : 2 * (e / 2) + 1 = e := by omega
        have hpow : b ^ (2 * (e / 2)) * b = b ^ e := (Nat.pow_succ ..).symm.trans (congrArg (b ^ ·) hsplit)
        rw [if_pos hodd, Nat.mod_mul_mod, hsquare, hpow]
      · have hsplit : 2 * (e / 2) = e := by omega
        rw [if_neg hodd, hsquare, hsplit]

/-- ρ⁻¹ inverts ρ: (m + 1) / 2 is the inverse of 2 modulo an odd m. -/
theorem rhoInv_mul_rho {m len : Nat} (hm : m % 2 = 1) (hlen : len < 256) : rhoInv m len * 2 ^ (64 * len) % m = 1 % m := by
  have hdouble : (m + 1) / 2 * 2 = m + 1 := by omega
  calc rhoInv m len * 2 ^ (64 * len) % m
    _ = ((m + 1) / 2) ^ (64 * len) * 2 ^ (64 * len) % m := by rw [rhoInv, powMod_eq m (by omega), Nat.mod_mul_mod]
    _ = (m + 1) ^ (64 * len) % m := by rw [← Nat.mul_pow, hdouble]
    _ = ((m + 1) % m) ^ (64 * len) % m := Nat.pow_mod ..
    _ = (1 % m) ^ (64 * len) % m := by rw [Nat.add_mod_left]
    _ = 1 ^ (64 * len) % m := (Nat.pow_mod ..).symm
    _ = 1 % m := by rw [Nat.one_pow]

/-! ### An engine after a command -/

@[simp] theorem engine_setEngine_self (e : Nat) (v : Engine) (s : State) : (s.setEngine e v).engine e = v :=
  Tbl.get_put_self ..

theorem engine_setEngine_other {e j : Nat} (v : Engine) (s : State) (h : j ≠ e) : (s.setEngine e v).engine j = s.engine j :=
  Tbl.get_put_other _ _ _ _ _ h

@[simp] theorem get_slots_setSlot_self (e : Engine) (i v : Nat) : Tbl.get 0 (e.setSlot i v).slots i = v := Tbl.get_put_self ..

theorem get_slots_setSlot_other {e : Engine} {i j v : Nat} (h : j ≠ i) :
    Tbl.get 0 (e.setSlot i v).slots j = Tbl.get 0 e.slots j := Tbl.get_put_other _ _ _ _ _ h

/-- The key material of the operation that runs on an engine. -/
def State.pkeMaterial (s : State) (e : Nat) : Bytes := ((s.engine e).op.map (·.material)).getD []

/-- The next free value as a number. -/
def State.freeNat (s : State) : Nat := (freshValue s).1.toNat

section
variable {e op : Nat} {c : PkeCmd} {s : State}

/-- A command that an engine takes is run on it. -/
theorem runOn_takes (h : takes e op c s = true) :
    runOn e op c s =
      (freshValue s).2.setEngine e (runCmd (s.pkeMaterial e) s.freeNat { c with op } (s.engine e)) := by
  simp only [takes, Bool.and_eq_true, Bool.not_eq_true', Option.isNone_iff_eq_none] at h
  obtain ⟨⟨⟨-, hrun⟩, hrep⟩, herr⟩ := h
  simp [runOn, takeCmd, hrun, hrep, herr, State.pkeMaterial, State.freeNat]

theorem takes_running (h : takes e op c s = true) : s.running = true := by
  simp only [takes, Bool.and_eq_true] at h
  exact h.1.1.1

/-- The engine after a command that it takes. -/
theorem engine_after_cmd {i : Instr} (hi : exec i s = onMain s (.next (runOn e op c s))) (h : takes e op c s = true) :
    Answers i s fun t => t.engine e = runCmd (s.pkeMaterial e) s.freeNat { c with op } (s.engine e) := by
  refine ⟨_, hi.trans (onMain_running (takes_running h) _), ?_⟩
  change (runOn e op c s).engine e = _
  rw [runOn_takes h, engine_setEngine_self]

theorem Answers.mono {i : Instr} {p q : State → Prop} (h : Answers i s p) (hpq : ∀ t, p t → q t) : Answers i s q := by
  obtain ⟨t, hexec, hp⟩ := h
  exact ⟨t, hexec, hpq t hp⟩

end

theorem modResult_odd {m : Nat} (h : m % 2 = 1) (free v : Nat) : modResult m free v = v % m := if_pos h

theorem modResult_even {m : Nat} (h : m % 2 = 0) (free v : Nat) : modResult m free v = free := if_neg (by omega)

/-- The difference that MSUB forms is that of the integers. -/
theorem cast_add_sub_mod (a b : Nat) {m : Nat} (hm : 0 < m) : (((a + (m - b % m)) % m : Nat) : Int) = ((a : Int) - b) % m := by
  have hle : b % m ≤ m := Nat.le_of_lt (Nat.mod_lt b hm)
  have hsum : (a : Int) + ((m : Int) - (b % m : Nat)) = ((a : Int) - (b % m : Nat)) + m := by omega
  rw [Int.natCast_emod, Int.natCast_add, Int.natCast_sub hle, hsum, Int.add_emod_right, Int.natCast_emod, Int.sub_emod, Int.emod_emod,
    ← Int.sub_emod]

/-- Two slots after CSWAP has written `x` to the one and `y` to the other: where they are the same slot, its value is written again. -/
theorem get_slots_setSlot_setSlot (e : Engine) {i j x y : Nat} (h : i = j → x = y) :
    Tbl.get 0 ((e.setSlot i x).setSlot j y).slots i = x ∧ Tbl.get 0 ((e.setSlot i x).setSlot j y).slots j = y := by
  refine ⟨?_, get_slots_setSlot_self ..⟩
  by_cases hij : i = j
  · rw [h hij, hij, get_slots_setSlot_self]
  · rw [get_slots_setSlot_other hij, get_slots_setSlot_self]

/-! ### The obligations -/

/-- Settles O28: the product with ρ⁻¹, by `rhoInv_mul_rho`. -/
theorem montgomeryProduct : Obligations.MontgomeryProduct := by
  intro e c s h hm
  obtain ⟨hodd, hlen⟩ := hm
  refine (engine_after_cmd rfl h).mono fun t ht => ?_
  have hslot : Tbl.get 0 (t.engine e).slots c.dst =
      (s.engine e).word c.a c.len * (s.engine e).word c.b c.len * rhoInv ((s.engine e).modulus c.mctx) c.len
        % (s.engine e).modulus c.mctx := by
    rw [ht]
    exact (get_slots_setSlot_self ..).trans (modResult_odd hodd _ _)
  rw [hslot]
  refine ⟨Nat.mod_lt _ (by omega), ?_⟩
  rw [Nat.mod_mul_mod, Nat.mul_assoc, Nat.mul_mod, rhoInv_mul_rho hodd hlen, ← Nat.mul_mod, Nat.mul_one]

/-- Settles O26: each clause reads the slot, the modulus context or the result item that its command writes. -/
theorem engineArithmeticAndMoves : Obligations.EngineArithmeticAndMoves := by
  refine ⟨fun e c s h => ?madd, fun e c s h => ?msub, fun e c s h => ?mmul, fun e c s h => ?mac, fun e c s h => ?setc,
    fun e c s h => ?setmod, fun e c op s h hop => ?loadkey, fun e c s h => ?store, fun e c s h => ?cswap, fun e c s h => ?tsel,
    fun e c s h => ?copy⟩
  all_goals refine (engine_after_cmd rfl h).mono fun t ht => ?_; rw [ht]
  case madd => exact get_slots_setSlot_self ..
  case msub =>
    have hpos : (s.engine e).modulus c.mctx % 2 = 1 → 0 < (s.engine e).modulus c.mctx := by omega
    refine ⟨fun hodd => ?_, fun heven => ?_⟩
    · refine (congrArg Nat.cast ((get_slots_setSlot_self ..).trans (modResult_odd hodd _ _))).trans ?_
      exact cast_add_sub_mod _ _ (hpos hodd)
    · exact (get_slots_setSlot_self ..).trans (modResult_even heven _ _)
  case mmul => exact get_slots_setSlot_self ..
  case mac => exact get_slots_setSlot_self ..
  case setc =>
    refine (get_slots_setSlot_self ..).trans ?_
    grind [modResult, State.freeNat]
  case setmod => exact ⟨Tbl.find?_put_self .., rfl⟩
  case loadkey =>
    have hmaterial : s.pkeMaterial e = op.material := by rw [State.pkeMaterial, hop]; rfl
    have hslot : Tbl.get 0 (t.engine e).slots c.dst = (keyItem op.material c.bit).getD s.freeNat := by
      rw [ht, hmaterial]
      exact get_slots_setSlot_self ..
    rw [← ht]
    refine ⟨hslot, fun hrsa hbit => ?_⟩
    have hitem : keyItem op.material 0 = some (beNat op.material) := by rw [keyItem]; exact hrsa
    rw [hslot, hbit, hitem]
    rfl
  case store => exact ⟨Tbl.find?_put_self .., rfl⟩
  case cswap =>
    change Tbl.get 0 (ite _ _ _ : Engine).slots c.a = _ ∧ Tbl.get 0 (ite _ _ _ : Engine).slots c.b = _
    by_cases hbit : (Tbl.get 0 (s.engine e).slots c.dst).testBit c.bit = true
    · simp only [hbit, if_true]
      exact get_slots_setSlot_setSlot _ fun hab => by rw [hab]
    · simp only [hbit]
      exact get_slots_setSlot_setSlot _ fun hab => by rw [hab]
  case tsel => exact get_slots_setSlot_self ..
  case copy => exact get_slots_setSlot_self ..

end Sys2Proof.Machine

/-! How a ready operation answers, and the symmetric operations (R465, R474, R475). -/

namespace Sys2Proof.Machine

/-! ### How a ready operation answers -/

section
variable {i : Instr} {op : Nat} {q : Call} {space : Nat} {s t : State} {k : State → OpOut} {comp : Completion}

theorem exec_done (h : ready op q space s = true) (hi : exec i s = .next (runOp op q space s k)) (hk : k s = .done comp t) :
    exec i s = .next (complete q comp t) := by
  rw [hi, runOp_done h hk]

theorem exec_running (h : ready op q space s = true) (hi : exec i s = .next (runOp op q space s k)) (hk : k s = .running t) :
    exec i s = .next t := by
  rw [hi, runOp_running h hk]

theorem exec_wait (h : ready op q space s = true) (hi : exec i s = .next (runOp op q space s k)) (hk : k s = .wait) :
    exec i s = .next (holdOp q s) := by
  rw [hi, runOp_wait h hk]

theorem exec_busy (h : ready op q space s = true) (hi : exec i s = .next (runOp op q space s k)) (hk : k s = .busy) :
    exec i s = .next s := by
  rw [hi, runOp_ready k h, hk]

end

theorem withKey_found {f h usage : Nat} {kinds : List Nat} {s : State} {v : LoadedKey} (hf : findKey f h kinds usage s = .found v)
    (k : LoadedKey → OpOut) : withKey f h kinds usage s k = k v := by
  rw [withKey, hf]

/-! ### Bytes of the ciphers -/

theorem xorBytes_length (l ks : Bytes) : (xorBytes l ks).length = l.length := by
  induction l generalizing ks with
  | nil => rfl
  | cons a l ih => rw [xorBytes, List.length_cons, List.length_cons, ih]

/-- The same key stream taken twice falls away. -/
theorem xorBytes_xorBytes (l ks : Bytes) : xorBytes (xorBytes l ks) ks = l := by
  induction l generalizing ks with
  | nil => rfl
  | cons a l ih => rw [xorBytes, xorBytes, ih, BitVec.xor_assoc, BitVec.xor_self, BitVec.xor_zero]

@[simp] theorem gcmCrypt_length (key : Bytes) (iv : Nat) (l : Bytes) : (gcmCrypt key iv l).length = l.length :=
  xorBytes_length ..

/-- Encryption and decryption are the same operation (R150). -/
@[simp] theorem gcmCrypt_gcmCrypt (key : Bytes) (iv : Nat) (l : Bytes) : gcmCrypt key iv (gcmCrypt key iv l) = l := by
  have hlen : (gcmCrypt key iv l).length = l.length := gcmCrypt_length ..
  rw [gcmCrypt, hlen, gcmCrypt, xorBytes_xorBytes]

@[simp] theorem leBytes_length (n v : Nat) : (leBytes n v).length = n := by
  induction n generalizing v with
  | zero => rfl
  | succ n ih => rw [leBytes, List.length_cons, ih]

@[simp] theorem beBytes_length (n v : Nat) : (beBytes n v).length = n := by
  rw [beBytes, List.length_reverse, leBytes_length]

theorem gcmTag_length {n : Nat} (h : n ≤ 16) (key : Bytes) (iv : Nat) (aad cipher : Bytes) :
    (gcmTag key iv aad cipher n).length = n := by
  rw [gcmTag, tagFrom, List.length_take, bytes128, beBytes_length, Nat.min_eq_left h]

/-! ### The operations -/

theorem hashOk_iff (alg : Nat) : hashOk alg = true ↔ alg = 1 ∨ alg = 2 ∨ alg = 3 := by
  simp [hashOk]
  omega

section
variable {q : Call} {handle alg tagLen iv aadLen : Nat} {genIv : Bool} {tag input : Bytes} {k : LoadedKey} {s : State}

theorem exec_hash_of_ok (h : hashOk alg = true) : exec (.hash q alg input) s =
    .next (runOp 0x0201 q (hashLen alg) s fun s => .done (okLen (hashLen alg) (digest alg input)) s) := by
  change Host.Outcome.next (runOp _ _ _ _ _) = _
  simp only [h, if_true]

theorem exec_hash_of_unknown (h : hashOk alg = false) : exec (.hash q alg input) s =
    .next (runOp 0x0201 q 0 s fun s => .done (reject 0) s) := by
  change Host.Outcome.next (runOp _ _ _ _ _) = _
  simp only [h, Bool.false_eq_true, if_false]

theorem exec_macGenerate (hr : ready 0x0202 q tagLen s = true) (hk : findKey q.f handle (macKinds alg) useMac s = .found k) :
    exec (.macGenerate q handle alg tagLen iv input) s =
      .next (complete q (if macBodyOk alg tagLen iv then okLen tagLen (macOf alg k.material iv tagLen input) else reject 0) s) := by
  refine exec_done hr rfl ((withKey_found hk _).trans ?_)
  split <;> rfl

theorem exec_macVerify (hr : ready 0x0203 q 0 s = true) (hk : findKey q.f handle (macKinds alg) useMac s = .found k) :
    exec (.macVerify q handle alg tagLen iv tag input) s = .next (complete q
      (if macBodyOk alg tagLen iv then verdict (tag == macOf alg k.material iv tagLen input) else reject 0) s) := by
  refine exec_done hr rfl ((withKey_found hk _).trans ?_)
  split <;> rfl

theorem exec_aeadEncrypt_bad
    (hr : ready 0x0204 q (if genIv then q.hdr.inLen - aadLen + tagLen + 12 else q.hdr.inLen - aadLen + tagLen) s = true)
    (hk : findKey q.f handle [0x01, 0x02] useEncrypt s = .found k) (hb : aeadBodyOk tagLen genIv iv aadLen q.hdr.inLen = false) :
    exec (.aeadEncrypt q handle tagLen genIv iv aadLen input) s = .next (complete q (reject 0) s) := by
  refine exec_done hr rfl ((withKey_found hk _).trans ?_)
  simp only [hb, Bool.false_eq_true, if_false]

theorem exec_aeadEncrypt_ownIv (hr : ready 0x0204 q (q.hdr.inLen - aadLen + tagLen) s = true)
    (hk : findKey q.f handle [0x01, 0x02] useEncrypt s = .found k) (hb : aeadBodyOk tagLen false iv aadLen q.hdr.inLen = true) :
    exec (.aeadEncrypt q handle tagLen false iv aadLen input) s = .next (complete q (okLen (q.hdr.inLen - aadLen + tagLen)
      (gcmSeal k.material iv (input.take aadLen) (input.drop aadLen) tagLen)) s) := by
  refine exec_done hr rfl ((withKey_found hk _).trans ?_)
  simp only [hb, if_true, Bool.false_eq_true, if_false]

theorem exec_aeadEncrypt_genIv (hr : ready 0x0204 q (q.hdr.inLen - aadLen + tagLen + 12) s = true)
    (hk : findKey q.f handle [0x01, 0x02] useEncrypt s = .found k) (hb : aeadBodyOk tagLen true iv aadLen q.hdr.inLen = true)
    (hrnu : s.rnu.st = .ready) :
    exec (.aeadEncrypt q handle tagLen true iv aadLen input) s = .next (complete q (okLen (q.hdr.inLen - aadLen + tagLen + 12)
      ((draw 12 s).1 ++ gcmSeal k.material (beNat (draw 12 s).1) (input.take aadLen) (input.drop aadLen) tagLen)) (draw 12 s).2) := by
  refine exec_done hr rfl ((withKey_found hk _).trans ?_)
  simp only [hb, if_true, withDraw_of_ready _ hrnu]

theorem exec_aeadDecrypt_bad (hr : ready 0x0205 q (q.hdr.inLen - aadLen - tagLen) s = true)
    (hk : findKey q.f handle [0x01, 0x02] useDecrypt s = .found k)
    (hb : genIv = true ∨ aeadBodyOk tagLen false iv (aadLen + tagLen) q.hdr.inLen = false) :
    exec (.aeadDecrypt q handle tagLen genIv iv aadLen input) s = .next (complete q (reject 0) s) := by
  refine exec_done hr rfl ((withKey_found hk _).trans ?_)
  have hbad : (genIv || !aeadBodyOk tagLen false iv (aadLen + tagLen) q.hdr.inLen) = true := by simpa using hb
  simp only [hbad, if_true]

theorem exec_aeadDecrypt {n : Nat} (hn : n = q.hdr.inLen - aadLen - tagLen) (hr : ready 0x0205 q n s = true)
    (hk : findKey q.f handle [0x01, 0x02] useDecrypt s = .found k)
    (hb : aeadBodyOk tagLen false iv (aadLen + tagLen) q.hdr.inLen = true) :
    exec (.aeadDecrypt q handle tagLen false iv aadLen input) s = .next
      (if (input.drop (aadLen + n)).take tagLen
          = gcmTag k.material iv (input.take aadLen) ((input.drop aadLen).take n) tagLen
        then complete q (okLen n (gcmCrypt k.material iv ((input.drop aadLen).take n))) s
        else complete q (bare stTagMismatch) s) := by
  subst hn
  have hgood : (false || !aeadBodyOk tagLen false iv (aadLen + tagLen) q.hdr.inLen) = false := by rw [hb]; rfl
  by_cases htag : (input.drop (aadLen + (q.hdr.inLen - aadLen - tagLen))).take tagLen
      = gcmTag k.material iv (input.take aadLen) ((input.drop aadLen).take (q.hdr.inLen - aadLen - tagLen)) tagLen
  · rw [if_pos htag]
    refine exec_done hr rfl ((withKey_found hk _).trans ?_)
    simp only [hgood, Bool.false_eq_true, if_false]
    exact if_pos htag
  · rw [if_neg htag]
    refine exec_done hr rfl ((withKey_found hk _).trans ?_)
    simp only [hgood, Bool.false_eq_true, if_false]
    exact if_neg htag

end

/-- Settles O32: each operation by the equation of its outcome. -/
theorem symmetricOperations : Obligations.SymmetricOperations := by
  refine ⟨fun q alg input s halg hr => ?hash,
    fun q handle alg tagLen iv aadLen genIv tag input k s => ⟨fun hr halg => ?hashUnknown, fun hr hk hb => ?macBad,
      fun hr hk hb => ?verifyBad, fun hr hk hb => exec_aeadEncrypt_bad hr hk hb, fun hr hk hb => exec_aeadDecrypt_bad hr hk hb⟩,
    fun q handle alg tagLen iv input k s hr hk hb => ?mac, fun q handle alg tagLen iv tag input k s hr hk hb => ?verify,
    fun q handle tagLen iv aadLen input k s hr hk hb => exec_aeadEncrypt_ownIv hr hk hb,
    fun q handle tagLen iv aadLen input k s hr hk hb hrnu =>
      answers_next (exec_aeadEncrypt_genIv hr hk hb hrnu) ⟨_, _, rfl, rfl⟩,
    fun q handle tagLen iv aadLen n input k s hr hk hb => ?decrypt⟩
  case hash => exact exec_done hr (exec_hash_of_ok ((hashOk_iff alg).mpr halg)) rfl
  case hashUnknown =>
    exact exec_done hr (exec_hash_of_unknown (Bool.eq_false_iff.mpr (mt (hashOk_iff alg).mp halg))) rfl
  case macBad => rw [exec_macGenerate hr hk, hb]; rfl
  case verifyBad => rw [exec_macVerify hr hk, hb]; rfl
  case mac => rw [exec_macGenerate hr hk, hb]; rfl
  case verify =>
    rw [exec_macVerify hr hk, hb, if_pos rfl]
    simp only [verdict, okDetail, b2n, beq_iff_eq]
    rfl
  case decrypt => exact exec_aeadDecrypt hr.1 hr.2 hk hb

end Sys2Proof.Machine

/-! TLS sessions (R478 to R480), and what has been sealed opens again (R294, R475, R480). -/

namespace Sys2Proof.Machine

/-! ### Sessions in turn and their own keys -/

theorem inTurn_of_free {q : Call} {n : Nat} {s : State} (h : sessionTaken q n s = false) (r : OpOut) : inTurn q n s r = r := by
  rw [inTurn, h]
  rfl

theorem inTurn_of_taken {q : Call} {n : Nat} {s : State} (h : sessionTaken q n s = true) (r : OpOut) : inTurn q n s r = .busy := by
  rw [inTurn, h]
  rfl

theorem withOwnKey_usable {f handle : Nat} {server : Bool} {s : State}
    (h : (handle = 0 ∧ server = false) ∨ ∃ k, findKey f handle [0x10, 0x11, 0x12, 0x20, 0x21, 0x22] useSign s = .found k)
    (k : OpOut) : withOwnKey f handle server s k = k := by
  obtain hnone | ⟨v, hfound⟩ := h
  · exact if_pos hnone
  · rw [withOwnKey, withKey_found hfound, ite_self]

/-! ### The operations -/

section
variable {q : Call} {session : Nat} {s : State}

section
variable {handle role versions : Nat} {requirePeer : Bool} {cert : Bytes}

/-- A TLS_OPEN whose operands are in range and whose own key can be used (R478). -/
theorem exec_tlsOpen (hr : ready 0x0401 q 0 s = true) (hbody : role < 2 ∧ 1 ≤ versions ∧ versions ≤ 3 ∧ q.hdr.inLen ≤ 16384)
    (hkey : (role = 0 ∧ handle = 0) ∨ ∃ k, findKey q.f handle [0x10, 0x11, 0x12, 0x20, 0x21, 0x22] useSign s = .found k) :
    exec (.tlsOpen q handle role versions requirePeer cert) s =
      .next (if 8192 ≤ s.tls.sessions.length ∨ s.slotsFit q.f 2 = false then complete q (bare stRefusedFull) s
        else
          let n := sessionNumber s.tls.sessions ((freshValue s).1.toNat % 2 ^ 32)
          complete q (okDetail n) ((freshValue s).2.setSession n
            { f := q.f, key := handle, server := role == 1, versions, requirePeer, ownCert := cert })) := by
  have husable : (handle = 0 ∧ (role == 1) = false) ∨
      ∃ k, findKey q.f handle [0x10, 0x11, 0x12, 0x20, 0x21, 0x22] useSign s = .found k :=
    hkey.imp_left fun ⟨hrole, hhandle⟩ => ⟨hhandle, by rw [hrole]; rfl⟩
  have hrange : ¬(1 < role ∨ versions = 0 ∨ 3 < versions ∨ 16384 < q.hdr.inLen) := by omega
  by_cases hfull : 8192 ≤ s.tls.sessions.length ∨ s.slotsFit q.f 2 = false
  · rw [if_pos hfull]
    exact exec_done hr rfl ((withOwnKey_usable husable _).trans ((if_neg hrange).trans (if_pos hfull)))
  · rw [if_neg hfull]
    exact exec_done hr rfl ((withOwnKey_usable husable _).trans ((if_neg hrange).trans (if_neg hfull)))

end

section
variable {v : TlsSession} {typ : Nat} {input : Bytes}

theorem exec_tlsSeal (hr : ready 0x0403 q (q.hdr.inLen + 29) s = true) (hfree : sessionTaken q session s = false)
    (hopen : openSession s q.f session = some v) :
    exec (.tlsSeal q session typ input) s =
      .next (if v.st ≠ 1 ∨ (typ ≠ 21 ∧ typ ≠ 23) ∨ 16384 < q.hdr.inLen then complete q (reject 0) s
        else complete q (okLen (recordLen v q.hdr.inLen) (sealRecord v typ input))
          (s.setSession session { v with sealedCount := v.sealedCount + 1 })) := by
  by_cases hbad : v.st ≠ 1 ∨ (typ ≠ 21 ∧ typ ≠ 23) ∨ 16384 < q.hdr.inLen
  · rw [if_pos hbad]
    refine exec_done hr rfl ((inTurn_of_free hfree _).trans ?_)
    simp only [hopen, if_pos hbad]
  · rw [if_neg hbad]
    refine exec_done hr rfl ((inTurn_of_free hfree _).trans ?_)
    simp only [hopen, if_neg hbad]

theorem exec_tlsUnseal_unestablished (hr : ready 0x0404 q q.hdr.inLen s = true) (hfree : sessionTaken q session s = false)
    (hopen : openSession s q.f session = some v) (hst : v.st ≠ 1) :
    exec (.tlsUnseal q session input) s = .next (complete q (reject 0) s) := by
  refine exec_done hr rfl ((inTurn_of_free hfree _).trans ?_)
  simp only [hopen, if_pos hst]

theorem exec_tlsUnseal_bad (hr : ready 0x0404 q q.hdr.inLen s = true) (hfree : sessionTaken q session s = false)
    (hopen : openSession s q.f session = some v) (hst : v.st = 1) (hrec : openRecord v input = none) :
    exec (.tlsUnseal q session input) s = .next (complete q (bare stTagMismatch) (s.setSession session { v with st := 2 })) := by
  refine exec_done hr rfl ((inTurn_of_free hfree _).trans ?_)
  simp only [hopen, if_neg (Classical.not_not.mpr hst), hrec]

theorem exec_tlsUnseal_good {p : Bytes × Nat} (hr : ready 0x0404 q q.hdr.inLen s = true)
    (hfree : sessionTaken q session s = false) (hopen : openSession s q.f session = some v) (hst : v.st = 1)
    (hrec : openRecord v input = some p) :
    exec (.tlsUnseal q session input) s =
      .next (complete q (okOut p.2 p.1) (s.setSession session { v with openedCount := v.openedCount + 1 })) := by
  refine exec_done hr rfl ((inTurn_of_free hfree _).trans ?_)
  simp only [hopen, if_neg (Classical.not_not.mpr hst), hrec]

theorem exec_tlsPeerCert (hr : ready 0x0406 q 16384 s = true) (hfree : sessionTaken q session s = false)
    (hopen : openSession s q.f session = some v) :
    exec (.tlsPeerCert q session) s = .next (complete q (okOut 0 v.peerCert) s) := by
  refine exec_done hr rfl ((inTurn_of_free hfree _).trans ?_)
  simp only [hopen]

theorem exec_tlsClose_own (hr : ready 0x0405 q 0 s = true) (hfree : sessionTaken q session s = false)
    (hv : Tbl.find? session s.tls.sessions = some v) (hf : v.f = q.f) :
    exec (.tlsClose q session) s = .next (complete q (okDetail 0)
      { s with tls := { s.tls with sessions := Tbl.del session s.tls.sessions } }) := by
  refine exec_done hr rfl ((inTurn_of_free hfree _).trans ?_)
  simp only [hv, if_neg (Classical.not_not.mpr hf)]

theorem exec_tlsClose_other (hr : ready 0x0405 q 0 s = true) (hfree : sessionTaken q session s = false)
    (hother : ∀ v, Tbl.find? session s.tls.sessions = some v → v.f ≠ q.f) :
    exec (.tlsClose q session) s = .next (complete q (reject 0) s) := by
  refine exec_done hr rfl ((inTurn_of_free hfree _).trans ?_)
  cases hv : Tbl.find? session s.tls.sessions with
  | none => rfl
  | some v => exact if_pos (hother v hv)

/-- Malformed handshake records close the session (R479). -/
theorem exec_tlsHandshake_malformed {x : TlsStep} (hr : ready 0x0402 q 32768 s = true) (hfree : sessionTaken q session s = false)
    (hopen : openSession s q.f session = some v)
    (hkey : (v.key = 0 ∧ v.server = false) ∨
      ∃ k, findKey q.f v.key [0x10, 0x11, 0x12, 0x20, 0x21, 0x22] useSign s = .found k)
    (hrnu : s.rnu.st = .ready) (hx : x.malformed = true) :
    exec (.tlsHandshake q session x) s =
      .next (complete q (reject 2) ((drawOwn s).2.setSession session { v with st := 2 })) := by
  refine exec_done hr rfl ((inTurn_of_free hfree _).trans ?_)
  simp only [hopen, withOwnKey_usable hkey, withDraw_of_ready _ hrnu, hx, if_true]

/-- The session after well-formed handshake records, and the state that its traffic keys leave (R479). -/
def handshaken (v : TlsSession) (x : TlsStep) (s : State) : TlsSession × State :=
  let v' := { v with st := x.st, tls13 := x.tls13, peerCert := x.peerCert.getD v.peerCert }
  if x.st = 1 ∧ v.st = 0 then deriveTraffic x.aes256 v' s else (v', s)

theorem exec_tlsHandshake_wellFormed {x : TlsStep} (hr : ready 0x0402 q 32768 s = true)
    (hfree : sessionTaken q session s = false) (hopen : openSession s q.f session = some v)
    (hkey : (v.key = 0 ∧ v.server = false) ∨
      ∃ k, findKey q.f v.key [0x10, 0x11, 0x12, 0x20, 0x21, 0x22] useSign s = .found k)
    (hrnu : s.rnu.st = .ready) (hst : x.st ≤ 2) (hsend : x.sendLen ≤ 32768) (hx : x.malformed = false) :
    exec (.tlsHandshake q session x) s =
      let r := handshaken v x (drawOwn s).2
      let out := freshBytes x.sendLen r.2
      .next (complete q { okLen x.sendLen out.1 with detail := x.st } (out.2.setSession session r.1)) := by
  refine exec_done hr rfl ((inTurn_of_free hfree _).trans ?_)
  simp only [hopen, withOwnKey_usable hkey, withDraw_of_ready _ hrnu, hx, Bool.false_eq_true, if_false, if_pos hst,
    if_pos hsend]
  rfl

theorem handshaken_tls (v : TlsSession) (x : TlsStep) (s : State) : (handshaken v x s).2.tls = s.tls := by
  rw [handshaken]
  split
  · simp [deriveTraffic]
  · rfl

/-- What the session keeps of the handshake, and the counts it starts when it is newly established (R479). -/
theorem handshaken_session (v : TlsSession) (x : TlsStep) (s : State) :
    let v' := (handshaken v x s).1
    v'.st = x.st ∧ v'.tls13 = x.tls13 ∧ v'.peerCert = x.peerCert.getD v.peerCert ∧ v'.f = v.f ∧ v'.key = v.key ∧
      v'.server = v.server ∧
      if x.st = 1 ∧ v.st = 0 then v'.sealedCount = 0 ∧ v'.openedCount = 0
      else v'.sealedCount = v.sealedCount ∧ v'.openedCount = v.openedCount ∧ v'.txKey = v.txKey ∧ v'.rxKey = v.rxKey := by
  by_cases hnew : x.st = 1 ∧ v.st = 0
  · simp only [handshaken, if_pos hnew]
    exact ⟨rfl, rfl, rfl, rfl, rfl, rfl, rfl, rfl⟩
  · simp only [handshaken, if_neg hnew, and_self]

end

end

/-- Settles O33: each operation by the equation of its outcome. -/
theorem tlsSessions : Obligations.TlsSessions := by
  refine ⟨fun q handle role versions requirePeer cert s hr hbody hkey => ⟨fun ⟨hroom, hfit⟩ => ?opened, fun hfull => ?full⟩,
    fun q session typ x input s => ?named,
    fun q session x v s ⟨hr, hfree⟩ hopen hkey ⟨hrnu, hst, hsend⟩ =>
      ⟨exec_tlsHandshake_malformed hr hfree hopen hkey hrnu, fun hx => ?shaken⟩,
    fun q session typ input v s ⟨hr, hfree⟩ hopen => ⟨fun ⟨hst, htyp, hlen⟩ => ?sealed, fun hbad => ?unsealed⟩,
    fun q session input v s ⟨hr, hfree⟩ hopen => ⟨exec_tlsUnseal_unestablished hr hfree hopen,
      exec_tlsUnseal_bad hr hfree hopen, fun p => exec_tlsUnseal_good hr hfree hopen⟩,
    fun q session s ⟨hr, hfree⟩ => ⟨fun v => exec_tlsClose_own hr hfree, exec_tlsClose_other hr hfree⟩,
    fun q session v s ⟨hr, hfree⟩ => exec_tlsPeerCert hr hfree⟩
  case opened =>
    have hopen : ¬(8192 ≤ s.tls.sessions.length ∨ s.slotsFit q.f 2 = false) := by simp [hroom, hfit]
    exact answers_next ((exec_tlsOpen hr hbody hkey).trans (congrArg _ (if_neg hopen))) ⟨_, rfl, rfl⟩
  case full => exact (exec_tlsOpen hr hbody hkey).trans (congrArg _ (if_pos hfull))
  case named =>
    simp only [List.forall_mem_cons]
    refine ⟨fun hr => ?_, fun hr => ?_, fun hr => ?_, fun hr => ?_, List.forall_mem_nil _⟩
    all_goals
      refine ⟨fun ht => exec_busy hr rfl (inTurn_of_taken ht _), fun hfree hnone => ?_⟩
      refine exec_done hr rfl ((inTurn_of_free hfree _).trans ?_)
      simp only [hnone]
      rfl
  case shaken =>
    refine answers_next (exec_tlsHandshake_wellFormed hr hfree hopen hkey hrnu hst hsend hx) ⟨_, _, _, rfl, ?_, handshaken_session ..⟩
    simp [handshaken_tls]
  case sealed =>
    have hgood : ¬(v.st ≠ 1 ∨ (typ ≠ 21 ∧ typ ≠ 23) ∨ 16384 < q.hdr.inLen) := by omega
    exact (exec_tlsSeal hr hfree hopen).trans (congrArg _ (if_neg hgood))
  case unsealed => exact (exec_tlsSeal hr hfree hopen).trans (congrArg _ (if_pos hbad))

/-! ### What has been sealed opens again -/

theorem beNat_append_singleton (l : Bytes) (b : Byte) : beNat (l ++ [b]) = 256 * beNat l + b.toNat := by
  rw [beNat, List.foldl_append]
  rfl

theorem beNat_beBytes (n v : Nat) : beNat (beBytes n v) = v % 256 ^ n := by
  induction n generalizing v with
  | zero => rw [Nat.pow_zero, Nat.mod_one]; rfl
  | succ n ih =>
    have hsplit : beBytes (n + 1) v = beBytes n (v / 256) ++ [BitVec.ofNat 8 v] := List.reverse_cons
    have hpow : 256 ^ (n + 1) = 256 * 256 ^ n := Nat.pow_succ' ..
    rw [hsplit, beNat_append_singleton, ih, BitVec.toNat_ofNat, hpow]
    exact (Nat.add_comm _ _).trans Nat.mod_mul.symm

theorem fitBytes_length (n : Nat) (l : Bytes) : (fitBytes n l).length = n := by
  induction n generalizing l with
  | zero => rfl
  | succ n ih => rw [fitBytes, List.length_cons, ih]

/-- Filled up, a byte string still begins with itself. -/
theorem take_fitBytes {l : Bytes} {n : Nat} (h : l.length ≤ n) : (fitBytes n l).take l.length = l := by
  induction n generalizing l with
  | zero =>
    obtain rfl := List.eq_nil_of_length_eq_zero (Nat.le_zero.mp h)
    rfl
  | succ n ih =>
    cases l with
    | nil => rfl
    | cons b l => exact congrArg (b :: ·) (ih (Nat.le_of_succ_le_succ h))

theorem keyLen_le_payload (n : Nat) : n ≤ blobLen n - 96 := by
  rw [blobLen]
  omega

/-- The head that is authenticated holds neither payload nor tag (Table 07-5). -/
theorem blobHead_with_payload (b : Blob) (payload tag : Bytes) : blobHead { b with payload, tag } = blobHead b := rfl

theorem openUnder_sealUnder (kek : Bytes) (format handle epoch iv : Nat) {attr : KeyAttr} {material : Bytes}
    (h : material.length = attr.keyLen) : openUnder kek (sealUnder kek format handle epoch iv attr material) = some material := by
  obtain ⟨b, hb⟩ : ∃ b, b = sealUnder kek format handle epoch iv attr material := ⟨_, rfl⟩
  have hhead : b.iv = iv ∧ b.attr = attr := by rw [hb]; exact ⟨rfl, rfl⟩
  have hpayload : b.payload = gcmCrypt kek iv (fitBytes (blobLen attr.keyLen - 96) material) := by rw [hb]; rfl
  have htag : gcmTag kek b.iv (blobHead b) b.payload 16 = b.tag := by
    rw [hb, sealUnder, blobHead_with_payload]
  rw [← hb, openUnder, if_pos htag, hhead.1, hhead.2, hpayload, gcmCrypt_gcmCrypt, ← h,
    take_fitBytes (h ▸ keyLen_le_payload attr.keyLen)]

/-- A sealed string behind a header: the header, the ciphertext, and the tag in the last 16 bytes. -/
theorem parts_of_sealed {l head cipher tag : Bytes} {n : Nat} (hl : l = head ++ (cipher ++ tag)) (hhead : head.length = n)
    (htag : tag.length = 16) :
    l.take n = head ∧ (l.drop n).take (l.length - (n + 16)) = cipher ∧ l.drop (l.length - 16) = tag ∧ ¬l.length < n + 16 := by
  subst hhead hl
  have hlen : (head ++ (cipher ++ tag)).length = head.length + cipher.length + 16 := by simp [htag]; omega
  refine ⟨List.take_left, ?_, ?_, by omega⟩
  · rw [hlen, List.drop_left, show head.length + cipher.length + 16 - (head.length + 16) = cipher.length by omega, List.take_left]
  · rw [hlen, Nat.add_sub_cancel, ← List.append_assoc, ← List.length_append, List.drop_left]

theorem innerContent_append (plain : Bytes) {typ : Nat} (h : 0 < typ ∧ typ < 256) :
    innerContent (plain ++ leBytes 1 typ) = some (plain, typ) := by
  have hval : (BitVec.ofNat 8 typ).toNat = typ := by rw [BitVec.toNat_ofNat, Nat.mod_eq_of_lt h.2]
  have hne : (BitVec.ofNat 8 typ == 0#8) = false := by
    rw [beq_eq_false_iff_ne]
    intro h0
    rw [h0] at hval
    exact absurd hval.symm (Nat.ne_of_gt h.1)
  have hrev : (plain ++ leBytes 1 typ).reverse = BitVec.ofNat 8 typ :: plain.reverse := List.reverse_concat ..
  rw [innerContent, hrev, List.dropWhile_cons_of_neg (by rw [hne]; exact Bool.false_ne_true)]
  simp only [List.reverse_reverse, hval]

/-- A receiver whose key, IV, version and record count are those of the sender opens what it has sealed (R478, R480). -/
theorem openRecord_sealRecord {v w : TlsSession} (hver : w.tls13 = v.tls13) (hkey : w.rxKey = v.txKey) (hiv : w.rxIv = v.txIv)
    (hcount : w.openedCount = v.sealedCount) (hlt : v.sealedCount < 2 ^ 64) {typ : Nat} (htyp : 0 < typ ∧ typ < 256) (plain : Bytes) :
    openRecord w (sealRecord v typ plain) = some (plain, typ) := by
  cases h13 : v.tls13 with
  | true =>
    have hrec : sealRecord v typ plain = tls13Head ((plain ++ leBytes 1 typ).length + 16) ++
        gcmSeal v.txKey (v.txIv ^^^ v.sealedCount) (tls13Head ((plain ++ leBytes 1 typ).length + 16)) (plain ++ leBytes 1 typ) 16 :=
      if_pos h13
    obtain ⟨hhead, hcipher, htag, hlen⟩ := parts_of_sealed (n := 5) hrec (by simp [tls13Head]) (gcmTag_length (Nat.le_refl 16) ..)
    simp only [openRecord, hver, h13, if_true, hkey, hiv, hcount, hhead, hcipher, htag, hlen, ne_eq, not_true, or_self, if_false,
      gcmCrypt_gcmCrypt, innerContent_append plain htyp]
  | false =>
    have hrec : sealRecord v typ plain = (leBytes 1 typ ++ [3#8, 3#8] ++ beBytes 2 (plain.length + 24) ++ beBytes 8 v.sealedCount) ++
        gcmSeal v.txKey (v.txIv % 2 ^ 32 * 2 ^ 64 + v.sealedCount) (tls12Aad v.sealedCount typ plain.length) plain 16 :=
      if_neg (Bool.eq_false_iff.mp h13)
    obtain ⟨-, hcipher, htag, hlen⟩ := parts_of_sealed (n := 13) hrec (by simp) (gcmTag_length (Nat.le_refl 16) ..)
    have htype : beNat ((sealRecord v typ plain).take 1) = typ := by
      have hfirst : (sealRecord v typ plain).take 1 = [BitVec.ofNat 8 typ] := by rw [hrec]; rfl
      rw [hfirst]
      change 256 * 0 + (BitVec.ofNat 8 typ).toNat = typ
      rw [BitVec.toNat_ofNat, Nat.mod_eq_of_lt htyp.2, Nat.mul_zero, Nat.zero_add]
    have hseq : beNat (((sealRecord v typ plain).drop 5).take 8) = v.sealedCount := by
      rw [hrec, List.append_assoc, List.drop_left' (by simp), List.take_left' (beBytes_length ..), beNat_beBytes]
      exact Nat.mod_eq_of_lt hlt
    simp only [openRecord, hver, h13, Bool.false_eq_true, if_false, hkey, hiv, hcount, hcipher, htag, hlen, htype, hseq, ne_eq, not_true,
      or_self, gcmCrypt_gcmCrypt, gcmCrypt_length]

/-- Settles O34: `gcmCrypt_gcmCrypt`, with the tag found where it was written. -/
theorem sealedDataOpens : Obligations.SealedDataOpens := by
  refine ⟨fun q handle tagLen iv aad plain k s ⟨hr, hlen⟩ hk htag => ?aead,
    fun kek format handle epoch iv attr material h => openUnder_sealUnder kek format handle epoch iv h,
    fun q session typ plain v w s ⟨hr, hfree⟩ ⟨hopen, hst⟩ ⟨hver, hkey, hiv, hcount, hlt⟩ htyp => ?tls⟩
  case aead =>
    have hn : plain.length = q.hdr.inLen - aad.length - tagLen := by omega
    have hbody : aeadBodyOk tagLen false iv (aad.length + tagLen) q.hdr.inLen = true := by
      simp [aeadBodyOk, htag]
      omega
    have hcipher : ((aad ++ (gcmCrypt k.material iv plain ++ gcmTag k.material iv aad (gcmCrypt k.material iv plain) tagLen)).drop
        aad.length).take plain.length = gcmCrypt k.material iv plain := by
      rw [List.drop_left, List.take_left' (gcmCrypt_length ..)]
    have hwritten : ((aad ++ (gcmCrypt k.material iv plain ++ gcmTag k.material iv aad (gcmCrypt k.material iv plain) tagLen)).drop
        (aad.length + plain.length)).take tagLen = gcmTag k.material iv aad (gcmCrypt k.material iv plain) tagLen := by
      rw [← List.drop_drop, List.drop_left, List.drop_left' (gcmCrypt_length ..),
        List.take_of_length_le (Nat.le_of_eq (gcmTag_length htag.2 ..))]
    rw [exec_aeadDecrypt hn hr hk hbody, hcipher, List.take_left, hwritten, if_pos rfl, gcmCrypt_gcmCrypt]
    rfl
  case tls =>
    exact exec_tlsUnseal_good hr hfree hopen hst (openRecord_sealRecord hver hkey hiv hcount hlt (by omega) plain)

end Sys2Proof.Machine

/-! The phases of an operation on a public-key engine, its abort and the engine's failure (R340, R342, R360 to R369). -/

namespace Sys2Proof.Machine

theorem satTo_eq_min (limit x : Nat) : satTo limit x = min limit x := by
  rw [satTo]
  split <;> omega

/-! ### The commands -/

section
variable {e x cause : Nat} {op : PkeOp} {s : State}

theorem exec_pkeOperationStart_idle (hrun : s.running = true) (hx : queueFor e s = some x) (hnext : (s.engine x).next = some op)
    (hin : (s.engine e).inService = true) (hidle : (s.engine e).op = none) :
    exec (.pkeOperationStart e) s =
      .next ((takeQueued x s).setEngine e (prepare op ((takeQueued x s).engine e))) := by
  refine (onMain_running hrun _).trans ?_
  simp only [hin, hidle, Bool.true_eq_false, Option.isSome_none, Bool.false_eq_true, or_self, if_false, hx, hnext]

theorem exec_pkeOperationStart_notIdle (hrun : s.running = true)
    (h : (s.engine e).inService = false ∨ (s.engine e).op.isSome = true) : exec (.pkeOperationStart e) s = .next s :=
  (onMain_running hrun _).trans (if_pos h)

theorem exec_pkeOperationStart_nothing (hrun : s.running = true) (hnone : queueFor e s = none) :
    exec (.pkeOperationStart e) s = .next s := by
  refine (onMain_running hrun _).trans ?_
  simp only [hnone, ite_self]

theorem takeQueued_next (x : Nat) (s : State) : ((takeQueued x s).engine x).next = none := by
  rw [takeQueued, engine_setEngine_self]

theorem exec_pkeValidationEnd (hrun : s.running = true) : exec (.pkeValidationEnd e) s = .next (endValidation e s) :=
  onMain_running hrun _

theorem endValidation_passed (hop : (s.engine e).op = some op) (hph : (s.engine e).phase = .validation)
    (hok : validationCode op (s.engine e) = none) :
    endValidation e s =
      squareBlind op (s.setEngine e { s.engine e with phase := .main1, snap := (s.engine e).slots, mask := op.mask1 }) := by
  simp only [endValidation, hop, hph, ne_eq, not_true, if_false, hok]

theorem endValidation_refused {code : Nat} (hop : (s.engine e).op = some op) (hph : (s.engine e).phase = .validation)
    (hcode : validationCode op (s.engine e) = some code) :
    endValidation e s =
      lateComplete op.call op.ctx { code, detail := op.rejectDetail } (s.setEngine e (s.engine e).release) := by
  simp only [endValidation, hop, hph, ne_eq, not_true, if_false, hcode]

theorem endValidation_idle (hop : (s.engine e).op = none) : endValidation e s = s := by
  simp only [endValidation, hop]

theorem squareBlind_engine (op : PkeOp) (s : State) (e : Nat) : (squareBlind op s).engine e = s.engine e := by
  rw [squareBlind]
  split
  · rfl
  · split <;> rfl

theorem squareBlind_key_rsa {k : LoadedKey} (hkind : op.kind = 0x10) (hk : s.key? op.handle = some k) :
    (squareBlind op s).key? op.handle = some { k with blind := blindSquare (rsaKey k.material).n k.blind } := by
  rw [squareBlind, hk]
  simp only [if_pos hkind]
  exact Tbl.find?_put_self ..

theorem squareBlind_of_other (hkind : op.kind ≠ 0x10) : squareBlind op s = s := by
  rw [squareBlind]
  split
  · rfl
  · exact if_neg hkind

/-- At the end of the second run (R364). -/
theorem exec_pkeOperationFinish_finish {upset : Bool} (hrun : s.running = true) (hop : (s.engine e).op = some op)
    (hph : (s.engine e).phase = .finish) :
    exec (.pkeOperationFinish e upset) s =
      .next (if runsDiffer (s.engine e) upset then engineFault e 1 s else releaseOp op (s.setEngine e (s.engine e).release)) := by
  refine (onMain_running hrun _).trans ?_
  simp only [hop, hph, or_true, if_true, reduceCtorEq, if_false]
  split <;> rfl

theorem exec_pkeOperationFinish_idle {upset : Bool} (hrun : s.running = true) (hop : (s.engine e).op = none) :
    exec (.pkeOperationFinish e upset) s = .next s := by
  refine (onMain_running hrun _).trans ?_
  simp only [hop]

theorem runsDiffer_equal {v : Engine} (h : v.first = some (v.flags, v.items)) : runsDiffer v false = false := by
  simp [runsDiffer, h]

theorem runsDiffer_unequal {v : Engine} {x : Nat × Tbl Nat} (hph : v.phase = .finish) (h : v.first = some x)
    (hx : x ≠ (v.flags, v.items)) : runsDiffer v false = true := by
  simp [runsDiffer, h, hph, hx]

theorem runsDiffer_upset (v : Engine) : runsDiffer v true = true := rfl

theorem releaseOp_noCurve (h : op.curve = none ∨ op.comp.code ≠ stOk) : releaseOp op s = lateComplete op.call op.ctx op.comp s := by
  rw [releaseOp]
  split
  · rfl
  · next c hc => exact if_pos (h.resolve_left (by rw [hc]; exact Option.some_ne_none c))

theorem releaseOp_curve {c : Curve} {i : Nat} (hc : op.curve = some c) (hok : op.comp.code = stOk) (hi : freeCurve s op.call.f = some i) :
    releaseOp op s = lateComplete op.call op.ctx (okDetail (0x80 + i))
      { s with pke := { s.pke with curves := Tbl.put (op.call.f * 256 + (0x80 + i)) c s.pke.curves } } := by
  simp only [releaseOp, hc, hok, ne_eq, not_true, if_false, hi]

theorem releaseOp_curve_full {c : Curve} (hc : op.curve = some c) (hok : op.comp.code = stOk) (hi : freeCurve s op.call.f = none) :
    releaseOp op s = lateComplete op.call op.ctx (bare stRefusedFull) s := by
  simp only [releaseOp, hc, hok, ne_eq, not_true, if_false, hi]

theorem freeCurve_setEngine (v : Engine) (f : Nat) : freeCurve (s.setEngine e v) f = freeCurve s f := rfl

theorem exec_pkeAbort (hrun : s.running = true) : exec (.pkeAbort e cause) s = .next (abortBy e cause s) := onMain_running hrun _

theorem abortEngine_running (hop : (s.engine e).op = some op) (hph : (s.engine e).phase ≠ .aborted) (code : Nat) :
    abortEngine e code s = lateComplete op.call op.ctx (bare code) (s.setEngine e (s.engine e).abort) := by
  simp only [abortEngine, hop, if_neg hph]

theorem abortEngine_idle (hop : (s.engine e).op = none) (code : Nat) : abortEngine e code s = s := by
  simp only [abortEngine, hop]

theorem abortBy_idle (hop : (s.engine e).op = none) : abortBy e cause s = s := by
  unfold abortBy
  split <;> simp [abortEngine_idle hop, hop]

theorem isNone_of_some {α : Type} {o : Option α} {a : α} (h : o = some a) : o.isNone = false := by rw [h]; rfl

theorem exec_pkeAbortRelease (hrun : s.running = true) :
    exec (.pkeAbortRelease e) s =
      if (s.engine e).phase = .aborted then .next (s.setEngine e (s.engine e).release) else .next s :=
  onMain_running hrun _

end

/-- Settles O25: each phase and each abort by the equation of its outcome. -/
theorem enginesRunOperations : Obligations.EnginesRunOperations := by
  refine ⟨fun e x op s hrun ⟨hx, hnext⟩ => ⟨fun ⟨hin, hidle⟩ => ?start, exec_pkeOperationStart_notIdle hrun⟩,
    fun e s hrun hnone => exec_pkeOperationStart_nothing hrun hnone,
    fun e op s hrun ⟨hop, hph⟩ hok => ?passed,
    fun e op s hrun ⟨hop, hph⟩ => ⟨fun code hcode => ?refused, fun hnone hrange => ?range, fun hnone hrange hcurve => ?curve, rfl, rfl, rfl⟩,
    fun e op s hrun ⟨hop, hph⟩ hfirst => ?agree,
    fun e op x s hrun ⟨hop, hph⟩ => ?differ,
    fun e op s ⟨hop, hph⟩ => ⟨fun sub => ?fault, fun x hin => if_pos hin, fun hrun => ?command⟩,
    fun e op s hrun ⟨hop, hph⟩ => ?aborts,
    fun e cause s hrun hop => ?nothing,
    fun e s hrun => ?release⟩
  case start =>
    refine answers_next (exec_pkeOperationStart_idle hrun hx hnext hin hidle) ⟨?_, ?_, ?_, ?_⟩
    · rw [engine_setEngine_self]; rfl
    · rw [engine_setEngine_self]; rfl
    · rw [engine_setEngine_self]; rfl
    · by_cases hxe : x = e
      · subst hxe
        rw [engine_setEngine_self]
        exact takeQueued_next ..
      · rw [engine_setEngine_other _ _ hxe]
        exact takeQueued_next ..
  case passed =>
    refine answers_next ((exec_pkeValidationEnd hrun).trans (congrArg _ (endValidation_passed hop hph hok))) ⟨?_, ?_, ?_⟩
    · rw [squareBlind_engine, engine_setEngine_self]
    · exact fun k hkind hk => squareBlind_key_rsa hkind hk
    · exact fun hkind => by rw [squareBlind_of_other hkind]; rfl
  case refused =>
    exact (exec_pkeValidationEnd hrun).trans (congrArg _ (endValidation_refused hop hph (by simp [validationCode, hcode])))
  case range =>
    exact (exec_pkeValidationEnd hrun).trans (congrArg _ (endValidation_refused hop hph (by simp [validationCode, hnone, hrange])))
  case curve =>
    exact (exec_pkeValidationEnd hrun).trans
      (congrArg _ (endValidation_refused hop hph (by simp [validationCode, hnone, hrange, hcurve])))
  case agree =>
    have hfinish : exec (.pkeOperationFinish e false) s = .next (releaseOp op (s.setEngine e (s.engine e).release)) := by
      rw [exec_pkeOperationFinish_finish hrun hop hph, runsDiffer_equal hfirst]
      rfl
    rw [hfinish]
    exact ⟨fun h => congrArg _ (releaseOp_noCurve h), fun c i hc hcode hi => congrArg _ (releaseOp_curve hc hcode hi),
      fun c hc hcode hi => congrArg _ (releaseOp_curve_full hc hcode hi)⟩
  case differ =>
    rw [exec_pkeOperationFinish_finish hrun hop hph, exec_pkeOperationFinish_finish hrun hop hph]
    exact ⟨fun ⟨hfirst, hne⟩ => congrArg _ (if_pos (runsDiffer_unequal hph hfirst hne)), rfl⟩
  case fault =>
    simp only [engineFault, abortEngine_running hop hph, satTo_eq_min]
    split <;> rfl
  case command =>
    refine (exec_pkeAbort hrun).trans (congrArg _ ?_)
    simp only [abortBy, isNone_of_some hop, Bool.false_eq_true, if_false]
  case aborts =>
    simp only [exec_pkeAbort hrun, abortBy, abortEngine_running hop hph, isNone_of_some hop, satTo_eq_min, Bool.false_eq_true, if_false,
      true_and]
    exact ⟨rfl, rfl, rfl⟩
  case nothing =>
    exact ⟨(exec_pkeAbort hrun).trans (congrArg _ (abortBy_idle hop)),
      (exec_pkeValidationEnd hrun).trans (congrArg _ (endValidation_idle hop)), exec_pkeOperationFinish_idle hrun hop⟩
  case release =>
    rw [exec_pkeAbortRelease hrun]
    refine ⟨fun h => if_neg h, fun h => answers_next ((exec_pkeAbortRelease hrun).trans (if_pos h)) ?_⟩
    rw [engine_setEngine_self]
    exact ⟨rfl, rfl, rfl⟩

end Sys2Proof.Machine

/-! The public-key operations: what an idle engine is handed, and what reaches none (R340, R349 to R375). -/

namespace Sys2Proof.Machine

/-! ### Handing an operation to an engine -/

/-- From `s` to `t` only what draws change: what the choice of an engine and the response level rest on is the same. -/
structure DrawnFrom (s t : State) : Prop where
  pke : t.pke = s.pke
  pwr : t.pwr = s.pwr
  hif : t.hif = s.hif
  key : t.key = s.key
  tm : t.tm = s.tm

namespace DrawnFrom

variable {s t : State}

theorem refl (s : State) : DrawnFrom s s := ⟨rfl, rfl, rfl, rfl, rfl⟩

theorem draw (h : DrawnFrom s t) (n : Nat) : DrawnFrom s (draw n t).2 :=
  ⟨by simp [h.pke], by simp [h.pwr], by simp [h.hif], by simp [h.key], by simp [h.tm]⟩

theorem drawOwn (h : DrawnFrom s t) : DrawnFrom s (drawOwn t).2 :=
  ⟨by simp [h.pke], by simp [h.pwr], by simp [h.hif], by simp [h.key], by simp [h.tm]⟩

theorem freshValue (h : DrawnFrom s t) : DrawnFrom s (freshValue t).2 := ⟨h.pke, h.pwr, h.hif, h.key, h.tm⟩

theorem signDrawn (h : DrawnFrom s t) (c : Curve) (d e fuel : Nat) : DrawnFrom s (signDrawn c d e fuel t).2 :=
  ⟨by simp [h.pke], by simp [h.pwr], by simp [h.hif], by simp [h.key], by simp [h.tm]⟩

theorem engine (h : DrawnFrom s t) (e : Nat) : t.engine e = s.engine e := by rw [State.engine, h.pke, State.engine]

theorem level (h : DrawnFrom s t) : t.level = s.level := by rw [State.level, h.tm, State.level]

theorem ctxIdFor (h : DrawnFrom s t) (q : Call) : t.ctxIdFor q = s.ctxIdFor q := by
  simp only [State.ctxIdFor, State.ctxFor, State.ctxOf?, h.hif]

theorem findEngine (h : DrawnFrom s t) (long : Bool) (p : Engine → Bool) : findEngine t long p = findEngine s long p := by
  simp only [Machine.findEngine, h.engine, enginePresent, h.pwr]

end DrawnFrom

theorem findEngine_mono {s : State} {long : Bool} {p r : Engine → Bool} {e : Nat} (h : findEngine s long p = some e)
    (hpr : ∀ v, p v = true → r v = true) : ∃ e', findEngine s long r = some e' := by
  refine Option.isSome_iff_exists.mp (List.find?_isSome.mpr ⟨e, List.mem_of_find?_eq_some h, ?_⟩)
  have he := List.find?_some h
  simp only [Bool.and_eq_true] at he ⊢
  exact ⟨he.1, hpr _ he.2⟩

theorem placePke_idle {op : PkeOp} {s : State} {e : Nat} (h : s.idleEngine op.long e) :
    placePke op s = .running (s.setEngine e { s.engine e with next := some op }) := by
  obtain ⟨e', he'⟩ := findEngine_mono (r := fun _ => true) h fun _ _ => rfl
  simp only [placePke, he', h]

/-- An operation without a key, or below Restrict, is handed to the idle engine (R340, R357). -/
theorem dispatchPke_idle {op : PkeOp} {s t : State} {e : Nat} (hd : DrawnFrom s t) (hidle : s.idleEngine op.long e)
    (hlevel : s.level = 0 ∨ op.handle = 0) (hctx : op.ctx = none) : ∃ u, dispatchPke op t = .running u ∧ Handed e op s u := by
  have hpass : ¬(1 ≤ t.level ∧ op.handle ≠ 0 ∧ restrictedKind op.kind = true) := by
    rw [hd.level]
    omega
  have hplace := placePke_idle (op := { op with ctx := op.ctx.orElse fun _ => t.ctxIdFor op.call }) (s := t) (e := e)
    (by rw [State.idleEngine, hd.findEngine]; exact hidle)
  refine ⟨_, (if_neg hpass).trans hplace, ?_, ?_, fun j hj => ?_, hd.key, hd.hif⟩
  · rw [engine_setEngine_self, hctx, ← hd.ctxIdFor]
    rfl
  · rw [engine_setEngine_self, ← hd.engine]
  · rw [engine_setEngine_other _ _ hj, hd.engine]

/-- The same with the randomizations of the two runs drawn (R364). -/
theorem runMasked_idle {op : PkeOp} {s t : State} {e : Nat} (hd : DrawnFrom s t) (hidle : s.idleEngine op.long e)
    (hlevel : s.level = 0 ∨ op.handle = 0) (hctx : op.ctx = none) :
    ∃ u, runMasked op t = .running u ∧ ∃ m1 m2, Handed e { op with mask1 := m1, mask2 := m2 } s u := by
  obtain ⟨u, hrun, hh⟩ := dispatchPke_idle (op := { op with mask1 := (drawOwn t).1, mask2 := (drawOwn (drawOwn t).2).1 })
    hd.drawOwn.drawOwn hidle hlevel hctx
  exact ⟨u, hrun, _, _, hh⟩

section
variable {i : Instr} {n : Nat} {q : Call} {space : Nat} {s t : State} {k : State → OpOut} {op : PkeOp} {e : Nat}

theorem handed_of_dispatch (hr : ready n q space s = true) (hi : exec i s = .next (runOp n q space s k))
    (hk : k s = dispatchPke op t) (hd : DrawnFrom s t) (hidle : s.idleEngine op.long e) (hlevel : s.level = 0 ∨ op.handle = 0)
    (hctx : op.ctx = none) : Answers i s (Handed e op s) := by
  obtain ⟨u, hrun, hh⟩ := dispatchPke_idle hd hidle hlevel hctx
  exact ⟨u, exec_running hr hi (hk.trans hrun), hh⟩

theorem handed_of_masked {op : Bytes → Bytes → PkeOp} (hr : ready n q space s = true) (hi : exec i s = .next (runOp n q space s k))
    (hk : k s = runMasked (op [] []) t) (hd : DrawnFrom s t) (hidle : s.idleEngine (op [] []).long e)
    (hlevel : s.level = 0 ∨ (op [] []).handle = 0) (hctx : (op [] []).ctx = none)
    (hmask : ∀ m1 m2, { op [] [] with mask1 := m1, mask2 := m2 } = op m1 m2 := by intros; dsimp only) :
    Answers i s fun u => ∃ m1 m2, Handed e (op m1 m2) s u := by
  obtain ⟨u, hrun, m1, m2, hh⟩ := runMasked_idle hd hidle hlevel hctx
  rw [hmask] at hh
  exact ⟨u, exec_running hr hi (hk.trans hrun), m1, m2, hh⟩

end

/-! ### Refusals and room -/

@[simp] theorem firstRefusal_nil : firstRefusal [] = none := rfl

@[simp] theorem firstRefusal_cons (b : Bool) (n : Nat) (l : List (Bool × Nat)) :
    firstRefusal ((b, n) :: l) = if b = true then some n else firstRefusal l := by
  cases b <;> rfl

theorem firstRefusal_not (b : Bool) (n : Nat) : firstRefusal [(!b, n)] = if b = true then none else some n := by
  cases b <;> rfl

theorem needOut_room {q : Call} {n : Nat} {s : State} (h : n ≤ q.hdr.outLen) (k : OpOut) : needOut q n s k = k :=
  if_neg (by omega)

theorem needOut_small {q : Call} {n : Nat} {s : State} (h : q.hdr.outLen < n) (k : OpOut) :
    needOut q n s k = .done { code := stInputRejected, resultLen := n } s := if_pos h

/-- Settles O29: each operation by what it dispatches, handed to the idle engine. -/
theorem ellipticCurveOperations : Obligations.EllipticCurveOperations := by
  refine ⟨fun q handle e message input k c s ⟨hr, hlevel, hrnu⟩ hk ⟨hc, hout⟩ hidle => ?sign,
    fun q curve e x y r g message input c s hr ⟨hc, hform, hlen⟩ hin hidle => ?verify,
    fun q handle e input k s ⟨hr, hlevel, hrnu⟩ hk hidle => ?edSign,
    fun q e input a r s ⟨hr, hlen⟩ ⟨ha, hr'⟩ hidle => ?edVerify,
    fun q e input s ⟨hr, hlen⟩ hs ha hidle => ?edOff,
    fun q handle e x y input k c s ⟨hr, hlevel, hrnu⟩ ⟨hk, hkind, hc⟩ ⟨hout, hlen⟩ hin hidle => ?agree,
    fun q handle e input k s ⟨hr, hlevel, hrnu⟩ ⟨hk, hkind⟩ ⟨hlen, hout⟩ hidle => ?mont,
    fun q curve e x y input c s hr ⟨hcurve, hc, hlen⟩ hin hidle => ?point,
    fun q e input s ⟨hr, hlen⟩ hidle => ?edPoint⟩
  case sign =>
    rw [← firstRefusal_not]
    refine handed_of_masked hr rfl ((withKey_found hk _).trans ?_) ((DrawnFrom.refl s).signDrawn c (beNat k.material) (c.digestInt (digestOf c message input)) 64) hidle (.inl hlevel) rfl
    simp only [← hc, needOut_room hout, withDraw_of_ready _ hrnu]
    rfl
  case verify =>
    refine (handed_of_dispatch hr rfl ?_ (DrawnFrom.refl s) hidle (.inr rfl) rfl).mono fun t ht => ⟨_, rfl, ht⟩
    simp only [hc, hform, hin, ne_eq, not_true, Nat.not_lt.mpr hlen, or_self, if_false]
    rfl
  case edSign =>
    rw [← firstRefusal_not]
    refine handed_of_masked hr rfl ((withKey_found hk _).trans ?_) (DrawnFrom.refl s) hidle (.inl hlevel) rfl
    simp only [withDraw_of_ready _ hrnu]
    rfl
  case edVerify =>
    refine (handed_of_dispatch hr rfl ?_ (DrawnFrom.refl s) hidle (.inr rfl) rfl).mono fun t ht => ⟨_, rfl, ht⟩
    simp only [Nat.not_lt.mpr hlen, if_false, encodingRefusals, ha, hr']
    rfl
  case edOff =>
    refine (handed_of_dispatch hr rfl (if_neg (Nat.not_lt.mpr hlen)) (DrawnFrom.refl s) hidle (.inr rfl) rfl).mono
      fun t ht => ⟨_, ht, ?_⟩
    simp [encodingRefusals, ha, hs, stNotOnCurve]
  case agree =>
    refine (handed_of_masked hr rfl ((withKey_found hk _).trans ?_) (DrawnFrom.refl s) hidle (.inl hlevel) rfl).mono
      fun t ⟨m1, m2, ht⟩ => ⟨m1, m2, _, rfl, ht⟩
    simp only [← hc, needOut_room hout, if_neg hkind, if_neg (Nat.not_lt.mpr hlen), withDraw_of_ready _ hrnu, agreePoint, hin]
    rfl
  case mont =>
    refine handed_of_masked hr rfl ((withKey_found hk _).trans ?_) (DrawnFrom.refl s) hidle (.inl hlevel) rfl
    have hroom : (if k.blob.attr.kind = 0x14 then p384 else p256).bytes ≤ q.hdr.outLen := by
      rw [hkind]
      exact hout
    simp only [needOut_room hroom, if_pos hkind, if_neg (Nat.not_lt.mpr hlen), withDraw_of_ready _ hrnu, agreeMont]
    rfl
  case point =>
    refine handed_of_dispatch hr rfl ?_ (DrawnFrom.refl s) hidle (.inr rfl) rfl
    simp only [hc, if_neg hcurve, if_neg (Nat.not_lt.mpr hlen), hin, pointRefusals, firstRefusal_cons, firstRefusal_nil]
    rfl
  case edPoint =>
    refine (handed_of_dispatch hr rfl (if_neg (Nat.not_lt.mpr hlen)) (DrawnFrom.refl s) hidle (.inr rfl) rfl).mono
      fun t ht => ⟨_, ht, fun hnone => ?_, fun a ha => ?_⟩
    · simp [encodingRefusals, hnone, stNotOnCurve]
    · simp [encodingRefusals, ha, stInputRejected]

end Sys2Proof.Machine

/-! RSA, loaded curves and host sequences (R353, R354, R370 to R375), and where an operation reaches no engine. -/

namespace Sys2Proof.Machine

section
variable {q : Call} {block input : Bytes} {s : State}

/-- A well-formed sequence block is performed as an operation (R374). -/
theorem exec_sequence_wellFormed (hres : seqReserved block = false) (hmal : seqMalformed block = false) :
    exec (.sequence q block input) s =
      .next (runOp 0x030D q ((seqBlock block input).results.foldl (fun n x => n + 8 * x.2) 0) s fun s =>
        if seqBad (seqBlock block input) q.hdr.inLen || decide (seqLimit < seqCycles (seqBlock block input)) then .done (reject 0) s
        else
          let a := freshValue s
          let p := freshValue a.2
          let r := seqRun (seqBlock block input) a.1.toNat
          dispatchPke
            { call := q, kind := 0x30, long := (seqBlock block input).cls == 1, slotLen := (seqBlock block input).slotLen,
              sources := (seqBlock block input).sources.map fun x => (x.slot, x.value),
              refuse := firstRefusal [(modulusBad (seqBlock block input) || r.1.rangeFlag, stInputRejected), (r.1.curveFlag, stNotOnCurve)],
              comp := okOut (seqCycles (seqBlock block input) + p.1.toNat) (seqResults (seqBlock block input) r.2) } p.2) := by
  refine if_neg ?_
  rw [hres, hmal]
  exact Bool.false_ne_true

theorem exec_sequence_malformed (hrun : s.running = true) (h : seqReserved block = true ∨ seqMalformed block = true) :
    exec (.sequence q block input) s = .next (halt q.f (if seqReserved block then 4 else 6) q.ring 0x030D q.count s) :=
  (if_pos (by simpa using h)).trans (onMain_running hrun _)

end

/-- What an OAEP decoding comes to (R353). -/
def oaepCompletion (hash : Nat) (em : Bytes) : Completion :=
  match oaepDecode hash em with
  | some m => okLen m.length m
  | none => reject 0

/-- Settles O30: each operation by what it dispatches, handed to the idle engine, or by its refusal. -/
theorem rsaAndCurveOperations : Obligations.RsaAndCurveOperations := by
  refine ⟨fun q handle pad hash salt e input k s ⟨hr, hlevel, hrnu⟩ hk ⟨hout, hpad, hlen⟩ hidle => ?sign,
    fun q handle hash e input k s ⟨hr, hlevel, hrnu⟩ hk hout ⟨hhash, hlen⟩ hidle => ?decrypt,
    fun q len pad hash salt e input n x m h s hr ⟨hmod, hpad, hlen⟩ ⟨hn, hx, hm, hh⟩ hidle => ?verify,
    fun q len hash e input n x m s ⟨hr, hrnu⟩ ⟨hmod, hhash⟩ ⟨hlen, hfit⟩ ⟨hn, hx, hm⟩ hidle => ?encrypt,
    fun q e w n input s ⟨hr, hrnu⟩ ⟨hw, hw3, hw9, hlen⟩ hn hidle => ?curve,
    fun q input s hr hlen => ?curveShort,
    fun q curve s hr => ?unload,
    fun q block input s hrun => ⟨fun hres => ?reserved, fun hres hzero => ?malformed⟩,
    fun q block input b s ⟨hres, hmal, hb⟩ hr hbad => ?seqBad,
    fun q block input b e s ⟨hres, hmal, hb⟩ hr ⟨hgood, hcycles⟩ hidle => ?seq⟩
  case sign =>
    refine (handed_of_dispatch (t := if pad = 2 then (draw salt s).2 else s) hr rfl ((withKey_found hk _).trans ?_) ?_ hidle
      (.inl hlevel) rfl).mono fun t ht => ⟨_, rfl, ht⟩
    · have hrange : ¬(signPadOk pad hash salt = false ∨ q.hdr.inLen ≠ hashLen hash) := by simp [hpad, hlen]
      simp only [needOut_room hout, if_neg hrange, withDraw_of_ready _ hrnu, rsaPrivateOp, firstRefusal_not]
      split <;> rfl
    · split
      · exact (DrawnFrom.refl s).draw salt
      · exact DrawnFrom.refl s
  case decrypt =>
    refine (handed_of_dispatch (t := s) hr rfl ((withKey_found hk _).trans ?_) (DrawnFrom.refl s) hidle (.inl hlevel) rfl).mono
      fun t ht => ⟨_, oaepCompletion hash (beBytes (modBytes k.blob.attr.kind) (rsaPrivate (rsaKey k.material)
        (beNat (input.take (modBytes k.blob.attr.kind))))), rfl, ht, fun m hm => ?_, fun hnone => ?_⟩
    · have hrange : ¬(3 ≠ 3 ∨ hashOk hash = false ∨ 0 ≠ 0 ∨ q.hdr.inLen < modBytes k.blob.attr.kind) := by
        simp [hhash, Nat.not_lt.mpr hlen]
      simp only [needOut_room hout, if_neg hrange, withDraw_of_ready _ hrnu, rsaPrivateOp, firstRefusal_not]
      rfl
    · simp only [oaepCompletion, hm]
      rfl
    · simp only [oaepCompletion, hnone]
      rfl
  case verify =>
    have hrange : ¬(modBytesOk len = false ∨ signPadOk pad hash salt = false ∨ q.hdr.inLen < 2 * len + 8 + hashLen hash) := by
      simp [hmod, hpad, Nat.not_lt.mpr hlen]
    subst hn hx hm hh
    exact (handed_of_dispatch hr rfl (if_neg hrange) (DrawnFrom.refl s) hidle (.inr rfl) rfl).mono fun t ht => ⟨_, rfl, ht⟩
  case encrypt =>
    have hrange : ¬(modBytesOk len = false ∨ 3 ≠ 3 ∨ hashOk hash = false ∨ 0 ≠ 0 ∨ q.hdr.inLen < len + 8 ∨
        len < q.hdr.inLen - (len + 8) + 2 * hashLen hash + 2) := by
      simp [hmod, hhash]
      omega
    subst hn hx hm
    exact (handed_of_dispatch hr rfl ((if_neg hrange).trans (withDraw_of_ready _ hrnu)) ((DrawnFrom.refl s).draw (hashLen hash)) hidle
      (.inr rfl) rfl).mono fun t ht => ⟨_, rfl, ht⟩
  case curve =>
    subst hw hn
    have hfits : (decide (3 ≤ leAt input 1 1) && decide (leAt input 1 1 ≤ 9)) = true := by simp [hw3, hw9]
    refine handed_of_masked hr rfl ?_ ((DrawnFrom.refl s).draw (128 * 8 * leAt input 1 1)) hidle (.inr rfl) rfl
    simp only [hfits, if_true, if_neg (Nat.not_lt.mpr hlen), withDraw_of_ready _ hrnu, Bool.and_eq_true, decide_eq_true_eq]
    rfl
  case curveShort =>
    refine exec_done hr rfl (if_pos ?_)
    simpa using hlen
  case unload =>
    by_cases hloaded : 128 ≤ curve ∧ curve ≤ 135 ∧ Tbl.has s.pke.curves (q.f * 256 + curve) = true
    · rw [if_pos hloaded]
      exact exec_done hr rfl (if_pos hloaded)
    · rw [if_neg hloaded]
      exact exec_done hr rfl (if_neg hloaded)
  case reserved =>
    rw [exec_sequence_malformed hrun (.inl hres), hres]
    rfl
  case malformed =>
    have hmal : seqMalformed block = true := by
      obtain h | h | h | h := hzero <;> simp [seqMalformed, seqCounts, h]
    rw [exec_sequence_malformed hrun (.inr hmal), hres]
    rfl
  case seqBad =>
    subst hb
    refine exec_done hr (exec_sequence_wellFormed hres hmal) (if_pos ?_)
    rw [Bool.or_eq_true, decide_eq_true_eq]
    exact hbad
  case seq =>
    subst hb
    refine (handed_of_dispatch hr (exec_sequence_wellFormed hres hmal) (if_neg ?_) (DrawnFrom.refl s).freshValue.freshValue hidle
      (.inr rfl) rfl).mono fun t ht =>
      ⟨(freshValue s).1.toNat, (freshValue (freshValue s).2).1.toNat, _, rfl, ?_⟩
    · simpa [seqLimit] using ⟨hgood, decide_eq_false (Nat.not_lt.mpr hcycles)⟩
    · rw [firstRefusal_cons, firstRefusal_cons, firstRefusal_nil] at ht
      exact ht

theorem withKey_fail {f h usage code : Nat} {kinds : List Nat} {s : State} (hf : findKey f h kinds usage s = .fail code)
    (k : LoadedKey → OpOut) : withKey f h kinds usage s k = .done (bare code) s := by
  rw [withKey, hf]

theorem withKey_wait {f h usage : Nat} {kinds : List Nat} {s : State} (hf : findKey f h kinds usage s = .wait)
    (k : LoadedKey → OpOut) : withKey f h kinds usage s k = .busy := by
  rw [withKey, hf]

theorem p256_p384_bytes (kind : Nat) : 2 * (if kind = 0x11 then p384 else p256).bytes = if kind = 0x11 then 96 else 64 := by
  split <;> rfl

/-- With no idle engine the operation goes behind a running one (R340). -/
theorem placePke_busy {op : PkeOp} {s : State} {e : Nat} (hsome : findEngine s op.long (fun _ => true) ≠ none)
    (hidle : findEngine s op.long (fun e => e.op.isNone && e.next.isNone) = none) :
    (findEngine s op.long (fun e => e.next.isNone) = none → placePke op s = .busy) ∧
      (findEngine s op.long (fun e => e.next.isNone) = some e →
        placePke op s = .running (s.setEngine e { s.engine e with next := some op })) := by
  obtain ⟨x, hx⟩ := Option.ne_none_iff_exists'.mp hsome
  exact ⟨fun h => by simp only [placePke, hx, hidle, h], fun h => by simp only [placePke, hx, hidle, h]⟩

theorem dispatchPke_unrestricted {op : PkeOp} {s : State} (hlevel : s.level = 0) :
    dispatchPke op s = placePke { op with ctx := op.ctx.orElse fun _ => s.ctxIdFor op.call } s :=
  if_neg (by omega)

/-- Settles O31: each operation at the check that it fails. -/
theorem publicKeyRefusals : Obligations.PublicKeyRefusals := by
  refine ⟨fun q handle pad hash salt message input s => ?keys,
    fun q handle message input k n s hr hk hn => ?draws,
    fun q curve message input s => ⟨fun hr hc => ?verify, fun hr hlen => exec_done hr rfl (if_pos hlen), fun hr hc => ?point⟩,
    fun op e s => ⟨fun h => if_pos h, fun hlevel hnone => ?none, fun hlevel hsome hidle => ?queued⟩,
    fun q handle len pad hash salt input k s => ⟨fun hr hk hout hbad => ?rsaSign, fun hr hk hout hbad => ?rsaDecrypt,
      fun hr hbad => exec_done hr rfl (if_pos hbad), fun hr hbad => exec_done hr rfl (if_pos hbad)⟩⟩
  case keys =>
    simp only [List.forall_mem_cons]
    refine ⟨fun hr => ?_, fun hr => ?_, fun hr => ?_, fun hr => ?_, List.forall_mem_nil _⟩
    all_goals
      exact ⟨fun code hf => exec_done hr rfl (withKey_fail hf _), fun hf => exec_busy hr rfl (withKey_wait hf _)⟩
  case draws =>
    have hsize := hn.trans (p256_p384_bytes k.blob.attr.kind).symm
    subst hsize
    refine ⟨fun hout => exec_done hr rfl ((withKey_found hk _).trans (needOut_small hout _)), fun hout hst hw => ?_,
      fun hout hst hw => ?_, fun hout hst => ?_⟩
    · exact exec_wait hr rfl ((withKey_found hk _).trans ((needOut_room hout _).trans (withDraw_of_starting_wait _ hst hw)))
    · exact exec_done hr rfl ((withKey_found hk _).trans ((needOut_room hout _).trans (withDraw_of_starting_noWait _ hst hw)))
    · exact exec_done hr rfl ((withKey_found hk _).trans ((needOut_room hout _).trans (withDraw_of_restarting_or_fault _ hst)))
  case verify =>
    refine exec_done hr rfl (t := s) (comp := reject 0) ?_
    cases hcurve : curveOf s q.f curve with
    | none => rfl
    | some c => simp only [if_pos (hc c hcurve)]
  case point =>
    refine exec_done hr rfl (t := s) (comp := reject 0) ?_
    cases hcurve : curveOf s q.f curve with
    | none => rfl
    | some c => simp only [if_pos (hc c hcurve)]
  case none =>
    rw [dispatchPke_unrestricted hlevel]
    simp only [placePke, hnone]
  case queued =>
    rw [dispatchPke_unrestricted hlevel]
    obtain ⟨hbusy, hqueue⟩ := placePke_busy (op := { op with ctx := op.ctx.orElse fun _ => s.ctxIdFor op.call }) (e := e) hsome hidle
    refine ⟨hbusy, fun he => ⟨_, hqueue he, ?_, ?_⟩⟩
    · rw [engine_setEngine_self]
    · rw [engine_setEngine_self]
  case rsaSign => exact exec_done hr rfl ((withKey_found hk _).trans ((needOut_room hout _).trans (if_pos hbad)))
  case rsaDecrypt => exact exec_done hr rfl ((withKey_found hk _).trans ((needOut_room hout _).trans (if_pos hbad)))

end Sys2Proof.Machine

/-! ### Random-number operations, supplies and the standby domain -/

namespace Sys2Proof.Machine

/-! #### Only a draw moves the output position (R392) -/

@[simp] theorem samples_pos (source n : Nat) (s : State) : (samples source n s).2.rnu.pos = s.rnu.pos := by
  unfold samples
  split
  · cases decEq source 0 <;> simp [*]
  · simp

@[simp] theorem conditioned_pos (s : State) : (conditioned s).2.rnu.pos = s.rnu.pos := by
  simp [conditioned]

@[simp] theorem gatherSeed_pos (s : State) : (gatherSeed s).2.rnu.pos = s.rnu.pos := by
  simp [gatherSeed]

@[simp] theorem takeSeed_pos (s : State) : (takeSeed s).2.rnu.pos = s.rnu.pos := by
  unfold takeSeed
  split <;> simp

@[simp] theorem reseed_pos (s : State) : (reseed s).rnu.pos = s.rnu.pos := by
  simp [reseed]

@[simp] theorem putBlock_pos (r : Rnu) (x : Expander) : (r.putBlock x).pos = r.pos := by
  unfold Rnu.putBlock
  split <;> rfl

@[simp] theorem generateBlock_pos (s : State) : (generateBlock s).rnu.pos = s.rnu.pos := by
  have hseeded : (if reseedDue s.rnu s.sck.now then reseed s else s).rnu.pos = s.rnu.pos := by
    split <;> simp
  unfold generateBlock
  simp only []
  split <;> simp [hseeded]

@[simp] theorem takeBellows_pos (fuel n : Nat) (s : State) : (takeBellows fuel n s).2.rnu.pos = s.rnu.pos := by
  induction fuel generalizing n s with
  | zero => rfl
  | succ k ih =>
    rw [takeBellows]
    split
    · rfl
    · split
      · rw [ih, generateBlock_pos]
      · split
        · rfl
        · exact ih _ _

theorem draw_pos (n : Nat) (s : State) : (draw n s).2.rnu.pos = (s.rnu.pos + n) % 2 ^ 64 := by
  unfold draw
  cases s.rnu.expander.isSome <;> simp

/-! #### Bytes of Bellows -/

theorem exec_randomBytes_served {q : Call} {length : Nat} {s : State} (hr : ready 0x0501 q (8 + length) s = true)
    (hpos : 0 < length) (hmax : length ≤ 1048576) (hst : s.rnu.st = .ready) :
    exec (.randomBytes q length) s =
      .next (complete q (okOut 0 (leBytes 8 s.rnu.pos ++ (draw length s).1)) (draw length s).2) := by
  have hne : length ≠ 0 := (Nat.ne_of_gt hpos)
  rw [← (if_neg hne : randomSpace length = 8 + length)] at hr
  exact exec_done hr rfl ((if_neg (Nat.not_lt.mpr hmax)).trans ((withDraw_of_ready _ hst).trans (if_neg hne)))

/-- Fewer bytes than the block holds are its first ones (R391). -/
theorem takeBellows_within {k n : Nat} {b : Bytes} {l : List Bytes} {s : State} (hb : s.rnu.bellows = b :: l)
    (hpos : 0 < n) (hn : n < b.length) :
    takeBellows (k + 1) n s = (b.take n, { s with rnu := { s.rnu with bellows := b.drop n :: l } }) := by
  simp only [takeBellows, hb, if_neg (Nat.ne_of_gt hpos), if_pos hn]

/-- More bytes than the block holds are the whole block and the next ones of what follows it (R391). -/
theorem takeBellows_beyond {k n : Nat} {b : Bytes} {l : List Bytes} {s : State} (hb : s.rnu.bellows = b :: l)
    (hn : b.length < n) :
    takeBellows (k + 1) n s =
      (b ++ (takeBellows k (n - b.length) { s with rnu := { s.rnu with bellows := l } }).1,
        (takeBellows k (n - b.length) { s with rnu := { s.rnu with bellows := l } }).2) := by
  simp only [takeBellows, hb, if_neg (Nat.ne_of_gt (Nat.zero_lt_of_lt hn)), if_neg (Nat.lt_asymm hn)]

theorem draw_of_expander {n : Nat} {s : State} (h : s.rnu.expander.isSome = true) :
    (draw n s).1 = (takeBellows (2 * (n / bellowsBlock) + 4) n s).1 ∧
      (draw n s).2.rnu.bellows = (takeBellows (2 * (n / bellowsBlock) + 4) n s).2.rnu.bellows := by
  rw [draw, if_pos h]
  exact ⟨rfl, rfl⟩

/-- Settles O17: each operation is its own rule once it is ready; a draw takes the next bytes of Bellows. -/
theorem randomOperations : Obligations.RandomOperations := by
  refine ⟨fun q s hr => ?nop, fun q length s hr ⟨hpos, hmax⟩ hst => ⟨?served, draw_pos length s⟩,
    fun n b c l s ⟨hexp, hb⟩ ⟨hpos, hsum, _⟩ => ⟨fun hn => ?within, fun hn => ?beyond⟩,
    fun q s hr hst => ?restart, fun q s hr hst => ?report, fun q source count s hr ⟨hsrc, hcount⟩ => ?raw⟩
  case nop => exact exec_done hr rfl rfl
  case served => exact exec_randomBytes_served hr hpos hmax hst
  case within =>
    obtain ⟨hbytes, hleft⟩ := draw_of_expander (n := n) hexp
    rw [hbytes, hleft, takeBellows_within hb hpos hn]
    exact ⟨rfl, rfl⟩
  case beyond =>
    obtain ⟨hbytes, hleft⟩ := draw_of_expander (n := n) hexp
    rw [hbytes, hleft, takeBellows_beyond hb hn,
      takeBellows_within (b := c) (l := l) rfl (Nat.sub_pos_of_lt hn) (Nat.sub_lt_left_of_lt_add (Nat.le_of_lt hn) hsum)]
    exact ⟨rfl, rfl⟩
  case restart => exact exec_running hr rfl (if_pos hst)
  case report =>
    refine (exec_done hr rfl (if_neg hst)).trans ?_
    cases s.rnu.st <;> rfl
  case raw =>
    by_cases hmaker : s.lcc.st = .maker
    · rw [if_pos hmaker]
      exact exec_done hr rfl (if_neg (by simp [hmaker, Nat.not_lt.mpr hsrc, Nat.not_lt.mpr hcount]))
    · rw [if_neg hmaker]
      exact exec_done hr rfl (if_pos (.inl hmaker))

/-! #### Supplies -/

/-- Every row of a changed table is the changed row. -/
theorem Tbl.find?_mapAll {α : Type} (f : Nat → α → α) (k : Nat) (t : Tbl α) :
    Tbl.find? k (Tbl.mapAll f t) = (Tbl.find? k t).map (f k) := by
  induction t with
  | nil => rfl
  | cons c t ih =>
    obtain ⟨j, x⟩ := c
    simp only [Tbl.mapAll, Tbl.find?]
    split
    · subst_vars; rfl
    · exact ih

theorem migKey_unrooted (k : Key) (f : Nat) : (Tbl.get {} k.unrooted.domains f).migKey = none := by
  simp only [Key.unrooted, Tbl.get, Tbl.find?_mapAll]
  cases Tbl.find? f k.domains <;> rfl

/-- Settles O49: the branches of the five commands. -/
theorem suppliesAndStandby : Obligations.SuppliesAndStandby := by
  refine ⟨fun s => ⟨fun hin hgood => ?lossGood, fun hin hgood => ?lossUnfed, fun hin => ?lossAgain⟩,
    fun a0 a1 s => ?back, fun s => ?snowdrop, fun mv s => ?supply, fun s => ⟨fun hm hi hb => ?lost, fun h => ?kept⟩⟩
  case lossGood => exact (if_neg (by simp [hin])).trans (if_pos hgood)
  case lossUnfed => exact (if_neg (by simp [hin])).trans (if_neg (by simp [hgood]))
  case lossAgain => exact if_pos hin
  case back =>
    simp only [exec, execStandbyInputReturn]
    cases s.pwr.standbyFed <;> rfl
  case snowdrop =>
    simp only [exec, execSnowdropEntry]
    cases s.pwr.good <;> rfl
  case supply =>
    cases hgood : s.pwr.good with
    | false => simp [exec, execSupplyOutOfRange, hgood]
    | true =>
      by_cases hmv : mv < 10800 ∨ 13200 < mv
      · have hout : ¬ (10800 ≤ mv ∧ mv ≤ 13200) := by omega
        simp [exec, execSupplyOutOfRange, hgood, hmv, hout, satTo_eq_min]
      · have hin : 10800 ≤ mv ∧ mv ≤ 13200 := by omega
        simp [exec, execSupplyOutOfRange, hgood, hmv, hin, satTo_eq_min]
  case lost =>
    have hsnow : inSnowdrop s = true := by simp [inSnowdrop, hm, hi, hb]
    exact answers_next (if_pos hsnow) ⟨rfl, rfl, migKey_unrooted s.key, rfl, rfl, rfl, rfl, rfl, rfl, rfl, rfl, rfl, rfl, rfl,
      rfl, rfl, rfl, rfl⟩
  case kept =>
    refine if_neg ?_
    simp only [inSnowdrop, Bool.and_eq_true, Bool.not_eq_true']
    rintro ⟨⟨hm, hi⟩, hb⟩
    simp [hm, hi, hb] at h

/-! #### Module information and firmware -/

theorem fwLengthOk_iff (n : Nat) : fwLengthOk n = true ↔ 65536 ≤ n ∧ n ≤ 2097152 := by
  simp [fwLengthOk]

theorem slotBusy_iff (p : Pwr) (n : Nat) : slotBusy p n = true ↔ p.running = some n ∨ (p.trial = true ∧ (p.slot n).role = 1) := by
  simp [slotBusy, roleCurrent]

/-- Loading into a slot that exists, is not busy, and with a good length (R670). -/
theorem exec_firmwareLoad_accepted {q : Call} {length slot : Nat} {image : Option FwImage} {s : State}
    (hr : ready 0x0B06 q 0 s = true) (hslot : slot ≤ 1)
    (hfree : s.pwr.running ≠ some slot ∧ ¬ (s.pwr.trial = true ∧ (s.pwr.slot slot).role = 1))
    (hlen : 65536 ≤ length ∧ length ≤ 2097152) :
    exec (.firmwareLoad q length slot image) s = .next (match image with
      | none => { s with pwr := s.pwr.setSlot slot { st := 1 } }
      | some i => match fwReason s.ident.firmware s.pwr.floor length i with
        | some r => complete q (reject r) { s with pwr := s.pwr.setSlot slot {} }
        | none => complete q (okDetail 0) { s with pwr := s.pwr.setSlot slot { st := 2, role := 0, image := some i } }) := by
  have hbusy : ¬ slotBusy s.pwr slot = true := fun h => ((slotBusy_iff _ _).mp h).elim hfree.1 hfree.2
  have hok : ¬ fwLengthOk length = false := by simp [(fwLengthOk_iff length).mpr hlen]
  refine congrArg Host.Outcome.next ((runOp_ready _ hr).trans ?_)
  simp only [if_neg (Nat.not_lt.mpr hslot), if_neg hbusy, if_neg hok]
  cases image with
  | none => rfl
  | some i => cases hreason : fwReason s.ident.firmware s.pwr.floor length i <;> simp only [hreason, roleNone]

/-- Settles O47: each operation is its own rule once it is ready. -/
theorem moduleAndFirmware : Obligations.ModuleAndFirmware := by
  refine ⟨fun q s hr => ?info, fun q config s hr => ?config,
    fun q length slot image s hr => ⟨fun hslot => ?noSlot, fun hslot hbusy => ?busy,
      fun hslot hrun htrial => ⟨fun hlen => ?length, fun hmin hmax => ?begun⟩⟩,
    fun q length slot i s hr ⟨hslot, hfree⟩ hlen => ?arrived, fun q slot s p hr hp => ?select,
    fun n floor s f ⟨hrun, hrole⟩ hfloor hf => ?commit, fun s hrole => ?noTrial⟩
  case info => exact exec_done hr rfl rfl
  case config =>
    by_cases h : config ≤ 1
    · rw [if_pos h]
      exact exec_done hr rfl (if_neg (Nat.not_lt.mpr h))
    · rw [if_neg h]
      exact exec_done hr rfl (if_pos (Nat.lt_of_not_le h))
  case noSlot => exact exec_done hr rfl (if_pos hslot)
  case busy => exact exec_done hr rfl ((if_neg (Nat.not_lt.mpr hslot)).trans (if_pos ((slotBusy_iff _ _).mpr hbusy)))
  case length =>
    refine exec_done hr rfl ((if_neg (Nat.not_lt.mpr hslot)).trans ((if_neg fun h => ?_).trans (if_pos ?_)))
    · exact ((slotBusy_iff _ _).mp h).elim hrun htrial
    · rw [← Bool.not_eq_true, fwLengthOk_iff]
      omega
  case begun => exact exec_firmwareLoad_accepted hr hslot ⟨hrun, htrial⟩ ⟨hmin, hmax⟩
  case arrived =>
    rw [exec_firmwareLoad_accepted hr hslot hfree hlen]
    by_cases hform : i.formOk = false ∨ i.length ≠ length
    · simp only [fwReason, if_pos hform]
      rfl
    by_cases hsig : i.signed s.ident.firmware = false
    · simp only [fwReason, if_neg hform, if_pos hsig]
      rfl
    by_cases hsec : i.sec < s.pwr.floor
    · simp only [fwReason, if_neg hform, if_neg hsig, if_pos hsec]
      rfl
    · simp only [fwReason, if_neg hform, if_neg hsig, if_neg hsec]
      rfl
  case select =>
    subst hp
    split
    · exact exec_done hr rfl (if_pos ‹_›)
    · split
      · exact exec_done hr rfl ((if_neg ‹_›).trans (if_pos ‹_›))
      · split
        · exact exec_done hr rfl ((if_neg ‹_›).trans ((if_neg ‹_›).trans (if_pos ‹_›)))
        · exact exec_done hr rfl ((if_neg ‹_›).trans ((if_neg ‹_›).trans (if_neg ‹_›)))
  case commit =>
    subst hfloor hf
    have hmax : (if s.pwr.floor < (s.pwr.slot n).sec then (s.pwr.slot n).sec else s.pwr.floor) = max s.pwr.floor (s.pwr.slot n).sec := by
      split <;> omega
    refine (onMain_running hrun _).trans ?_
    simp only [roleTrial, hrole, Bool.and_eq_true, decide_eq_true_eq, and_assoc, hmax]
    by_cases hdue : s.fe.forwarding = true ∧ s.pwr.trial = true ∧ s.pwr.trialPending = true ∧
        s.pwr.forwardAt + 300 * nsPerSec ≤ s.sck.now
    · exact (if_pos hdue).trans (congrArg Host.Outcome.next (if_pos hdue).symm)
    · exact (if_neg hdue).trans (congrArg Host.Outcome.next (if_neg hdue).symm)
  case noTrial =>
    simp only [exec, execFirmwareTrialCommit, roleTrial, hrole, onMain, ite_self]

end Sys2Proof.Machine

/-! ### Self-tests (R642 to R653) -/

namespace Sys2Proof.Machine

/-- Writing one value under each key of a list: every key of the list reads it. -/
theorem find?_foldl_put {α : Type} (v : α) (l : List Nat) (t : Tbl α) (k : Nat) :
    Tbl.find? k (l.foldl (fun t p => Tbl.put p v t) t) = if k ∈ l then some v else Tbl.find? k t := by
  induction l generalizing t with
  | nil => rfl
  | cons p l ih =>
    rw [List.foldl_cons, ih]
    by_cases hkl : k ∈ l
    · rw [if_pos hkl, if_pos (List.mem_cons_of_mem p hkl)]
    · by_cases hkp : k = p
      · subst hkp
        rw [if_neg hkl, Tbl.find?_put_self, if_pos List.mem_cons_self]
      · rw [if_neg hkl, Tbl.find?_put_other _ _ _ _ hkp, if_neg (by simp [hkl, hkp])]

theorem takePipe_port {n p : Nat} (s : State) (hp : p ∈ pipePorts n) :
    Tbl.find? p (takePipe n s).fe.pipeOf = some ((n + 1) % 4) := by
  refine (find?_foldl_put ((n + 1) % 4) (pipePorts n) s.fe.pipeOf p).trans (if_pos hp)

theorem takeBlock_under (block : Nat) (s : State) : (takeBlock block s).stc.under = s.stc.under := by
  unfold takeBlock
  simp only []
  split
  · rfl
  split
  · simp
  split <;> rfl

section
variable {q : Call} {block v : Nat} {partly : List (Nat × Nat)} {sig : Option Nat} {r : TestRun} {s : State}

/-- A test that has begun goes on until its block is free and its signature is there. -/
theorem exec_selfTestRun_under (hr : ready 0x0A01 q 8 s = true)
    (hfind : (s.stc.under.find? fun x => x.block == block && decide (x.call = q)) = some r) :
    exec (.selfTestRun q block none partly) s = .next s ∧
      (blockFree s r.block = false → exec (.selfTestRun q block (some v) partly) s = .next s) :=
  ⟨exec_running hr rfl (by simp only [hfind]),
    fun hfree => exec_running hr rfl (by simp only [hfind, hfree, Bool.false_eq_true, if_false])⟩

theorem exec_selfTestRun_ends {comp : Completion} {t : State} (hr : ready 0x0A01 q 8 s = true)
    (hfind : (s.stc.under.find? fun x => x.block == block && decide (x.call = q)) = some r)
    (hfree : blockFree s r.block = true) (hend : endTest r v partly s = .done comp t) :
    exec (.selfTestRun q block (some v) partly) s = .next (complete q comp t) :=
  exec_done hr rfl (by simp only [hfind, hfree, if_true, hend])

/-- The record of a test that begins. -/
def testRecord (q : Call) (block : Nat) (s : State) : TestRun :=
  { block, was := blockInService s block, call := q, ctx := s.ctxIdFor q }

/-- The state in which a test of a block has begun (R643). -/
def testBegun (q : Call) (block : Nat) (s : State) : State :=
  { takeBlock block s with stc := { (takeBlock block s).stc with under := testRecord q block s :: (takeBlock block s).stc.under } }

theorem exec_selfTestRun_begun (hr : ready 0x0A01 q 8 s = true)
    (hnone : (s.stc.under.find? fun x => x.block == block && decide (x.call = q)) = none)
    (htest : testable s block = true) (hfault : testFault s block = none) :
    exec (.selfTestRun q block none partly) s = .next (testBegun q block s) :=
  exec_running hr rfl (by simp only [hnone, htest, hfault, Bool.true_eq_false, if_false]; rfl)

theorem find?_testBegun :
    ((testBegun q block s).stc.under.find? fun x => x.block == block && decide (x.call = q)) = some (testRecord q block s) :=
  List.find?_cons_of_pos (by simp [testRecord])

/-- A start that brings the signature does what the start and then the signature do (R643). -/
theorem exec_selfTestRun_atOnce (hr : ready 0x0A01 q 8 s = true)
    (hnone : (s.stc.under.find? fun x => x.block == block && decide (x.call = q)) = none)
    (htest : testable s block = true) (hfault : testFault s block = none) (hrt : ready 0x0A01 q 8 (testBegun q block s) = true) :
    exec (.selfTestRun q block (some v) partly) s = exec (.selfTestRun q block (some v) partly) (testBegun q block s) := by
  cases hfree : blockFree (testBegun q block s) block with
  | false =>
    rw [(exec_selfTestRun_under hrt find?_testBegun).2 hfree]
    refine exec_running hr rfl ?_
    simp only [hnone, htest, hfault, Bool.true_eq_false, if_false]
    exact if_neg (Bool.eq_false_iff.mp hfree)
  | true =>
    rw [exec_selfTestRun_ends hrt find?_testBegun hfree rfl]
    refine exec_done hr rfl ?_
    simp only [hnone, htest, hfault, Bool.true_eq_false, if_false]
    exact if_pos hfree

/-- A pipeline cannot be missed (check 2 of R644). -/
theorem testFault_pipe (h : testFault s block = some 2) :
    block / 256 = 1 ∧ ((∃ m, m < 4 ∧ m ≠ block % 256 ∧ s.stc.pipes.testBit m = false) ∨
      (s.stc.rolling = true ∧ s.stc.rollSuspended = false) ∨ shortFits s = false) := by
  unfold testFault at h
  simp only [] at h
  split at h
  · simp at h
  split at h
  next hpipe =>
    simpa only [Bool.or_eq_true, List.any_eq_true, List.mem_range, Bool.and_eq_true, bne_iff_ne, Bool.not_eq_true', or_assoc] using hpipe
  · split at h <;> simp at h

/-- The last engine or core of a kind (check 3 of R644). -/
theorem testFault_last (h : testFault s block = some 3) :
    blockInService s block = true ∧ (block / 256 = 2 ∨ (block / 256 = 3 ∧ canSpare s (block % 256) = false)) := by
  unfold testFault at h
  simp only [] at h
  split at h
  · simp at h
  split at h
  · simp at h
  split at h
  next hlast =>
    simp only [Bool.and_eq_true, Bool.or_eq_true, beq_iff_eq, Bool.not_eq_true'] at hlast
    exact ⟨hlast.1, hlast.2.imp And.left id⟩
  · simp at h

/-! What becomes of a block when its test ends, by its class (R643). -/

theorem settleBlock_pipe (was pass : Bool) (h : block / 256 = 1) :
    (settleBlock block was pass partly s).stc.pipes = (if pass then s.stc.pipes ||| 2 ^ (block % 256) else s.stc.pipes) ∧
      (settleBlock block was pass partly s).stc.testing = s.stc.testing - (s.stc.testing &&& 2 ^ (block % 256)) ∧
      (settleBlock block was pass partly s).fe = (givePipe (block % 256) pass s).fe := by
  simp only [settleBlock, if_pos h]
  cases pass <;> exact ⟨rfl, rfl, trivial⟩

theorem settleBlock_engine (was pass : Bool) (h : block / 256 = 2) :
    settleBlock block was pass partly s =
      (fun y => if was = pass then y else engineRec (block % 256) (y.engine (block % 256)) (raiseEvent .pke 0 (if pass then 3 else 2) y))
        (s.setEngine (block % 256) { s.engine (block % 256) with inService := pass }) := by
  simp only [settleBlock, h, Nat.reduceEqDiff, if_false, if_true]

theorem settleBlock_core_pass (was : Bool) (h : block / 256 = 3) :
    settleBlock block was true partly s = s.setCore (block % 256) { s.coreRt (block % 256) with
      testing := false
      st := if (s.coreRt (block % 256)).st = .outOfService then .waiting else (s.coreRt (block % 256)).st
      failures := if (s.coreRt (block % 256)).st = .outOfService then [] else (s.coreRt (block % 256)).failures } := by
  simp only [settleBlock, h, Nat.reduceEqDiff, if_false, if_true]

theorem settleBlock_core_fail (was : Bool) (h : block / 256 = 3) :
    settleBlock block was false partly s = noteUnserved ((fun y : State => if was then raiseEvent .ts 0 2 y else y)
      (s.setCore (block % 256) { s.coreRt (block % 256) with testing := false, st := .outOfService })) := by
  simp only [settleBlock, h, Nat.reduceEqDiff, Bool.false_eq_true, if_false, if_true]

theorem settleBlock_other (was pass : Bool) (h : 3 < block / 256) :
    settleBlock block was pass partly s =
      if pass = false ∧ (block = 0x400 ∨ block = 0x401) then rnuFail (block % 256 + 4) 0 false partly s else s := by
  simp only [settleBlock, if_neg (by omega : block / 256 ≠ 1), if_neg (by omega : block / 256 ≠ 2), if_neg (by omega : block / 256 ≠ 3)]
  cases pass with
  | true => simp
  | false =>
    by_cases h0 : block = 0x400
    · simp [h0]
    · by_cases h1 : block = 0x401 <;> simp [h0, h1]

theorem takePipe_stc (n : Nat) (s : State) : (takePipe n s).stc =
    { s.stc with pipes := s.stc.pipes - (s.stc.pipes &&& 2 ^ n), testing := s.stc.testing ||| 2 ^ n } := by
  simp only [takePipe, movePorts_frame]

end

/-- The state in which the rolling test has taken its next pipeline out (R648). -/
def rollBegun (s : State) : State :=
  { takePipe s.stc.nextPipe s with stc := { (takePipe s.stc.nextPipe s).stc with
      rollPipe := some s.stc.nextPipe, nextPipe := (s.stc.nextPipe + 1) % 4,
      nextAt := (takePipe s.stc.nextPipe s).stc.nextAt + (takePipe s.stc.nextPipe s).stc.period * nsPerSec } }

theorem exec_rollingTestPeriod_under {n : Nat} {sig : Option Nat} {s : State} (hrun : s.running = true)
    (hpipe : s.stc.rollPipe = some n) :
    exec (.rollingTestPeriod sig) s = .next (match sig with | some v => endRolling n v s | none => s) := by
  refine (onMain_running hrun _).trans ?_
  cases sig <;> simp only [hpipe]

theorem exec_rollingTestPeriod_due {sig : Option Nat} {s : State} (hrun : s.running = true) (hpipe : s.stc.rollPipe = none)
    (hdue : (s.stc.rolling && !s.stc.rollSuspended && decide (s.stc.nextAt ≤ s.sck.now)) = true) :
    exec (.rollingTestPeriod sig) s =
      .next (match sig with | some v => endRolling s.stc.nextPipe v (rollBegun s) | none => rollBegun s) := by
  refine (onMain_running hrun _).trans ?_
  simp only [hpipe, hdue, if_true]
  rfl

/-- Settles O46: a start takes the block out and the signature settles it; the rolling test does the same with a pipeline. -/
theorem selfTests : Obligations.SelfTests := by
  refine ⟨fun q block partly s hr hnone ⟨htest, hfault⟩ => ?start, fun q block sig partly s hr hnone => ?refused,
    fun q block v partly r s t hr => ⟨fun hfind => ?goesOn, fun hnone htest hfault ht hrt => ?atOnce⟩,
    fun q block v partly r s x hr hfind hfree hx => ?ends, fun q mode period s hr => ?settings,
    fun s sig hrun hpipe => ?due, fun n v s hrun hpipe => ?rolled⟩
  case start =>
    refine answers_next (exec_selfTestRun_begun hr hnone htest hfault)
      ⟨congrArg _ (takeBlock_under block s), fun hpipe => ⟨?_, ?_, fun p hp => ?_⟩, fun heng => ?_, fun hcore => ?_, fun hother => ?_⟩
    · simp only [testBegun, takeBlock, if_pos hpipe, takePipe, movePorts_frame]
    · simp only [testBegun, takeBlock, if_pos hpipe, takePipe, movePorts_frame]
    · simp only [testBegun, takeBlock, if_pos hpipe, takePipe_port s hp]
    · simp only [testBegun, takeBlock, heng, if_false, if_true, Nat.reduceEqDiff]
    · simp only [testBegun, takeBlock, hcore, if_false, if_true, Nat.reduceEqDiff]
    · simp only [testBegun, takeBlock, if_neg (by omega : block / 256 ≠ 1), if_neg (by omega : block / 256 ≠ 2),
        if_neg (by omega : block / 256 ≠ 3)]
  case refused =>
    refine ⟨fun htest => ?_, fun d htest hfault => ?_, fun ⟨r, hr, hb⟩ => ?_, fun h => ?_, fun h => ?_⟩
    · exact exec_done hr rfl (by simp only [hnone, htest, if_true]; rfl)
    · exact exec_done hr rfl (by simp only [hnone, htest, hfault, Bool.true_eq_false, if_false]; rfl)
    · have hany : s.stc.under.any (fun r => r.block == block) = true := List.any_eq_true.mpr ⟨r, hr, by simp [hb]⟩
      simp only [testFault, hany, Bool.true_or, if_true]
    · exact testFault_pipe h
    · exact testFault_last h
  case goesOn => exact exec_selfTestRun_under hr hfind
  case atOnce =>
    rw [exec_selfTestRun_begun hr hnone htest hfault, Host.Outcome.next.injEq] at ht
    subst ht
    exact exec_selfTestRun_atOnce hr hnone htest hfault hrt
  case ends =>
    subst hx
    refine ⟨testExpected r.block == some (v % 2 ^ 64), settleBlock r.block r.was (testExpected r.block == some (v % 2 ^ 64)) partly
      { s with stc := { s.stc with under := s.stc.under.filter fun y => y.block != r.block } },
      beq_iff_eq, fun h => ?_, settleBlock_engine _ _, fun h hpass => ?_, fun h hpass => ?_, settleBlock_other _ _,
      exec_selfTestRun_ends hr hfind hfree rfl⟩
    · obtain ⟨hpipes, htesting, hfe⟩ := settleBlock_pipe r.was (testExpected r.block == some (v % 2 ^ 64)) h
      refine ⟨hpipes, htesting, fun hpass => ?_, fun hpass => ?_⟩
      · rw [hfe, hpass]
        rfl
      · rw [hfe, hpass]
        rfl
    · rw [hpass]
      exact settleBlock_core_pass _ h
    · rw [hpass]
      exact settleBlock_core_fail _ h
  case settings =>
    refine ⟨exec_done hr rfl (if_pos rfl), fun hne hbad => exec_done hr rfl ((if_neg hne).trans (if_pos hbad)), fun hmin hmax => ?_⟩
    have hgood : ¬ (1 < 1 ∨ period < 60 ∨ 86400 < period) := by omega
    cases hfits : shortFits s with
    | false =>
      rw [if_pos rfl]
      exact exec_done hr rfl ((if_neg Nat.one_ne_zero).trans ((if_neg hgood).trans (if_pos hfits)))
    | true =>
      refine exec_done (comp := okDetail 0) hr rfl
        ((if_neg Nat.one_ne_zero).trans ((if_neg hgood).trans ((if_neg (by simp [hfits])).trans ?_)))
      cases s.stc.rolling <;> rfl
  case due =>
    refine ⟨fun hroll hsusp hnext => ?_, fun h => ?_⟩
    · have hdue : (s.stc.rolling && !s.stc.rollSuspended && decide (s.stc.nextAt ≤ s.sck.now)) = true := by
        simp [hroll, hsusp, hnext]
      refine answers_next (exec_rollingTestPeriod_due hrun hpipe hdue) ⟨?_, fun p hp => takePipe_port s hp, ?_⟩
      · simp only [rollBegun, takePipe_stc, nsPerSec]
      · rw [exec_rollingTestPeriod_due hrun hpipe hdue]
        exact (exec_rollingTestPeriod_under (s := rollBegun s) hrun rfl).symm
    · have hnot : ¬ (s.stc.rolling && !s.stc.rollSuspended && decide (s.stc.nextAt ≤ s.sck.now)) = true := by
        rcases h with h | h | h <;> simp [h]
      refine (onMain_running hrun _).trans ?_
      simp only [hpipe, if_neg hnot]
  case rolled =>
    refine ⟨exec_rollingTestPeriod_under hrun hpipe, (exec_rollingTestPeriod_under hrun hpipe).trans ?_⟩
    · simp only [endRolling, satTo_eq_min]
      by_cases hpass : testExpected (0x100 + n) = some (v % 2 ^ 64)
      · simp only [hpass, beq_self_eq_true, if_true]
        rfl
      · simp only [beq_eq_false_iff_ne.mpr hpass, hpass, Bool.false_eq_true, if_false]
        rfl

end Sys2Proof.Machine

/-! ### Partitions and the counters of streams -/

namespace Sys2Proof.Machine

/-! #### Records that stay staged -/

/-- From `s` to `t` no staged record has been lost or moved. -/
def KeepsStaged (s t : State) : Prop := s.arc.staging <+: t.arc.staging

section
variable {s t u : State}

theorem KeepsStaged.refl (s : State) : KeepsStaged s s := List.prefix_refl _

theorem KeepsStaged.trans (h : KeepsStaged s t) (h' : KeepsStaged t u) : KeepsStaged s u := List.IsPrefix.trans h h'

theorem KeepsStaged.of_arc (h : t.arc = s.arc) : KeepsStaged s t := ⟨[], by rw [List.append_nil, h]⟩

theorem KeepsStaged.of_staging (h : t.arc.staging = s.arc.staging) : KeepsStaged s t := ⟨[], by rw [List.append_nil, h]⟩

theorem KeepsStaged.of_eq (h : KeepsStaged t u) (he : t.arc.staging = s.arc.staging) : KeepsStaged s u := by
  rwa [KeepsStaged, ← he]

theorem KeepsStaged.mem (h : KeepsStaged s t) {r : Staged} (hr : r ∈ s.arc.staging) : r ∈ t.arc.staging := h.subset hr

theorem keepsStaged_stageWith (log typ owner quality flags stamp : Nat) (body : RecBody) :
    KeepsStaged s (stageWith log typ owner quality flags stamp body s) := List.prefix_append _ _

theorem keepsStaged_stageRec (typ owner : Nat) (body : RecBody) : KeepsStaged s (stageRec typ owner body s) :=
  keepsStaged_stageWith ..

/-- A record staged now stands in staging. -/
theorem mem_stageRec (typ owner : Nat) (body : RecBody) (s : State) :
    recNow typ owner body s ∈ (stageRec typ owner body s).arc.staging :=
  List.mem_append_right _ (List.mem_singleton_self _)

/-- What is recorded now is stamped by the slot clock alone. -/
theorem recNow_of_sck (h : t.sck = s.sck) (typ owner : Nat) (body : RecBody) : recNow typ owner body t = recNow typ owner body s := by
  simp only [recNow, State.quality, h]

theorem keepsStaged_governorChange (new : Nat) (s : State) : KeepsStaged s (governorChange new s) := by
  simp only [KeepsStaged, governorChange, raiseEvent_frame]
  exact List.prefix_append _ _

theorem keepsStaged_governorCheck (s : State) : KeepsStaged s (governorCheck s) := by
  unfold governorCheck
  split
  · exact .refl s
  simp only []
  split
  · exact .of_staging rfl
  split
  · exact (keepsStaged_governorChange ..).of_eq rfl
  · exact ((keepsStaged_governorChange ..).trans (keepsStaged_governorChange ..)).of_eq rfl

theorem keepsStaged_countNand (bytes : Nat) (s : State) : KeepsStaged s (countNand bytes s) := .of_staging rfl

theorem keepsStaged_onVault (f bytes : Nat) (g : VaultZone → VaultZone) (s : State) : KeepsStaged s (onVault f bytes g s) := by
  simp only [onVault]
  split
  · exact (keepsStaged_governorCheck _).of_eq rfl
  · exact .of_staging rfl

theorem keepsStaged_dropImage (f : Nat) (n : Option Nat) (s : State) : KeepsStaged s (dropImage f n s) := by
  cases n with
  | none => exact .refl s
  | some n => exact keepsStaged_onVault ..

theorem keepsStaged_noteRefs (old : Sck) (n : Nat) (s : State) : KeepsStaged s (noteRefs old n s).1 := by
  induction n with
  | zero => exact .refl s
  | succ n ih =>
    simp only [noteRefs]
    split
    · exact ih.trans (keepsStaged_stageRec ..)
    · exact ih

theorem keepsStaged_noteRecord (old : Sck) (s : State) : KeepsStaged s (noteRecord old s) := by
  simp only [noteRecord]
  split
  · exact keepsStaged_noteRefs ..
  · exact (keepsStaged_noteRefs ..).trans (keepsStaged_stageRec ..)

theorem keepsStaged_noteSck (old : Sck) (s : State) : KeepsStaged s (noteSck old s) := by
  have h : KeepsStaged s (noteValid (s.sck.valid != old.valid) (noteEvents old s.sck (noteRecord old s))) := by
    simpa only [KeepsStaged, noteValid_frame, noteEvents_frame] using keepsStaged_noteRecord old s
  simp only [noteSck]
  split
  · simpa only [KeepsStaged, failAngles_frame] using h
  · exact h

theorem keepsStaged_angleCheck (s : State) : KeepsStaged s (angleCheck s) := by
  unfold angleCheck
  split
  · exact .refl s
  split
  · exact .refl s
  · exact keepsStaged_noteSck s.sck (loseAngle s)

theorem keepsStaged_genRecords (f : Nat) (hs : List Nat) (s : State) : KeepsStaged s (genRecords f hs s) := by
  induction hs generalizing s with
  | nil => exact .refl s
  | cons h hs ih => exact (keepsStaged_stageRec ..).trans (ih _)

end

/-! #### Rows of tables that are removed -/

theorem Tbl.find?_of_risesFrom {α : Type} {k b : Nat} {t : Tbl α} (h : Tbl.risesFrom b t = true) (hk : k < b) :
    Tbl.find? k t = none := by
  induction t generalizing b with
  | nil => rfl
  | cons c t ih =>
    obtain ⟨j, v⟩ := c
    simp only [Tbl.risesFrom, Bool.and_eq_true, decide_eq_true_eq] at h
    rw [Tbl.find?, if_neg (by omega), ih h.2 (by omega)]

theorem Tbl.find?_del_self_of_risesFrom {α : Type} (k : Nat) {b : Nat} {t : Tbl α} (h : Tbl.risesFrom b t = true) :
    Tbl.find? k (Tbl.del k t) = none := by
  induction t generalizing b with
  | nil => rfl
  | cons c t ih =>
    obtain ⟨j, v⟩ := c
    simp only [Tbl.risesFrom, Bool.and_eq_true, decide_eq_true_eq] at h
    by_cases hj : j = k
    · subst hj
      rw [Tbl.del, if_pos rfl, Tbl.find?_of_risesFrom h.2 (Nat.lt_succ_self j)]
    · rw [Tbl.del, if_neg hj, Tbl.find?, if_neg hj, ih h.2]

/-- A row removed from a table in canonical form is not there any more. -/
theorem Tbl.find?_del_self {α : Type} (k : Nat) {t : Tbl α} (h : Tbl.wf t = true) : Tbl.find? k (Tbl.del k t) = none :=
  Tbl.find?_del_self_of_risesFrom k h

/-- A row that is not kept is not there any more. -/
theorem Tbl.find?_keep_none {α : Type} {k : Nat} {p : Nat → α → Bool} (t : Tbl α) (h : ∀ v, p k v = false) :
    Tbl.find? k (Tbl.keep p t) = none := by
  induction t with
  | nil => rfl
  | cons c t ih =>
    obtain ⟨j, v⟩ := c
    rw [Tbl.keep]
    split
    · have hj : j ≠ k := by
        rintro rfl
        simp [h v] at *
      rw [Tbl.find?, if_neg hj, ih]
    · exact ih

/-! #### Releases (R90) -/

@[simp] theorem onVault_parts (f bytes : Nat) (g : VaultZone → VaultZone) (s : State) : (onVault f bytes g s).pln.parts = s.pln.parts := by
  simp only [onVault]
  split <;> simp

@[simp] theorem dropImage_parts (f : Nat) (n : Option Nat) (s : State) : (dropImage f n s).pln.parts = s.pln.parts := by
  cases n <;> simp [dropImage]

theorem mem_onceEach {h : Nat} {l : List Nat} : h ∈ onceEach l ↔ h ∈ l := by
  induction l with
  | nil => rfl
  | cons a l ih => by_cases e : h = a <;> simp [onceEach, ih, e]

/-- Each handle of a list has its record, with the next value not reserved (R516). -/
theorem mem_genRecords {f h : Nat} {hs : List Nat} (hh : h ∈ hs) (s : State) :
    recNow 0x23 f (.keyEvent h 11 (nextBlock (Tbl.get {} s.key.gens h))) s ∈ (genRecords f hs s).arc.staging := by
  induction hs generalizing s with
  | nil => simp at hh
  | cons a hs ih =>
    rcases List.mem_cons.mp hh with rfl | hmem
    · exact (keepsStaged_genRecords f hs _).mem (mem_stageRec ..)
    · exact ih hmem (keyEvent f a 11 (nextBlock (Tbl.get {} s.key.gens a)) s)

theorem mem_generatedHandles {c : PlanCopy} {x h : Nat} {e : Entry} (he : (x, e) ∈ c.entries) (hgen : entryGenerates e = true)
    (hh : h ∈ (entryHandles e).map (·.2)) : h ∈ generatedHandles c :=
  List.mem_flatten.mpr ⟨_, List.mem_map.mpr ⟨(x, e), he, by rw [if_pos hgen]⟩, hh⟩

/-- The three images of a partition leave the vault. -/
def dropImages (f : Nat) (p : Partition) (s : State) : State :=
  dropImage f p.vaultIncoming (dropImage f p.vaultStandby (dropImage f p.vaultActive s))

/-- A released partition before its records: nothing of it is left in the tables. -/
def partCleared (f : Nat) (p : Partition) (s : State) : State :=
  { dropImages f p s with
    pln := { (dropImages f p s).pln with
      parts := Tbl.del f (dropImages f p s).pln.parts
      rebuilding := (dropImages f p s).pln.rebuilding.filter fun r => !p.owns r.entry }
    fe := { (dropImages f p s).fe with
      entries := Tbl.keep (fun n _ => !p.owns n) (dropImages f p s).fe.entries
      drain := Tbl.keep (fun n _ => !p.owns n) (dropImages f p s).fe.drain
      drainRt := Tbl.keep (fun n _ => !p.owns n) (dropImages f p s).fe.drainRt } }

theorem releasePart_eq (f : Nat) (p : Partition) (s : State) :
    releasePart f p s = angleCheck (genRecords f (onceEach ((p.active.toList ++ p.held.toList).map generatedHandles).flatten)
      (planEvent f ((p.active.map (·.version)).getD 0) planReleased 0 (partCleared f p s))) := rfl

theorem partCleared_sck (f : Nat) (p : Partition) (s : State) : (partCleared f p s).sck = s.sck := by
  simp [partCleared, dropImages]

theorem partCleared_key (f : Nat) (p : Partition) (s : State) : (partCleared f p s).key = s.key := by
  simp [partCleared, dropImages]

theorem part?_releasePart {f : Nat} {p : Partition} {s : State} (h : Tbl.wf s.pln.parts = true) : (releasePart f p s).part? f = none := by
  simp only [State.part?, releasePart_eq, angleCheck_frame, genRecords_frame, planEvent_frame, partCleared, dropImages, dropImage_parts]
  exact Tbl.find?_del_self f h

theorem releasePart_entry {f n : Nat} {p : Partition} {s : State} (h : p.owns n = true) :
    Tbl.find? n (releasePart f p s).fe.entries = none ∧ ∀ r ∈ (releasePart f p s).pln.rebuilding, r.entry ≠ n := by
  simp only [releasePart_eq, angleCheck_frame, genRecords_frame, planEvent_frame, partCleared]
  refine ⟨Tbl.find?_keep_none _ fun _ => by simp [h], fun r hr => ?_⟩
  rintro rfl
  simp [h] at hr

theorem mem_releasePart_event (f : Nat) (p : Partition) (s : State) :
    recNow 0x21 f (.planEvent ((p.active.map (·.version)).getD 0) planReleased 0) s ∈ (releasePart f p s).arc.staging := by
  rw [releasePart_eq, ← recNow_of_sck (partCleared_sck f p s)]
  exact ((keepsStaged_genRecords ..).trans (keepsStaged_angleCheck _)).mem (mem_stageRec ..)

theorem mem_releasePart_handle {f h x : Nat} {p : Partition} {c : PlanCopy} {e : Entry} {s : State}
    (hc : p.active = some c ∨ p.held = some c) (he : (x, e) ∈ c.entries) (hgen : entryGenerates e = true)
    (hh : h ∈ (entryHandles e).map (·.2)) :
    recNow 0x23 f (.keyEvent h 11 (nextBlock (Tbl.get {} s.key.gens h))) s ∈ (releasePart f p s).arc.staging := by
  have hmem : h ∈ onceEach ((p.active.toList ++ p.held.toList).map generatedHandles).flatten := by
    refine mem_onceEach.mpr (List.mem_flatten.mpr ⟨generatedHandles c, List.mem_map_of_mem ?_, mem_generatedHandles he hgen hh⟩)
    rcases hc with hc | hc <;> simp [hc]
  rw [releasePart_eq, ← recNow_of_sck (partCleared_sck f p s), ← partCleared_key f p s]
  exact (keepsStaged_angleCheck _).mem (mem_genRecords hmem (planEvent f _ planReleased 0 (partCleared f p s)))

/-! #### Counter snapshots (R485) -/

/-- The records of a snapshot: one for each used entry among `n` from `first` on. -/
def snapshotRecords (f n first : Nat) (s : State) : List Staged :=
  (List.range n).filterMap fun i => (s.entryAt (first + i) false).map fun x =>
    recNow 0x11 f (.counterSnapshot (first + i) x.2.tag (fourteen (s.rt (first + i) false).counters)) s

/-- Only what is staged differs. -/
def OnlyStaging (s t : State) : Prop := t = { s with arc := { s.arc with staging := t.arc.staging, eventBytes := t.arc.eventBytes } }

theorem snapshotRecords_succ (f n first : Nat) (s : State) :
    snapshotRecords f (n + 1) first s = ((s.entryAt first false).map fun x =>
      recNow 0x11 f (.counterSnapshot first x.2.tag (fourteen (s.rt first false).counters)) s).toList ++ snapshotRecords f n (first + 1) s := by
  have hnext (i : Nat) : first + 1 + i = first + (i + 1) := by omega
  simp only [snapshotRecords, List.range_succ_eq_map, List.filterMap_cons, List.filterMap_map, Function.comp_def, Nat.add_zero,
    Nat.succ_eq_add_one, hnext]
  cases s.entryAt first false <;> rfl

/-- A snapshot stages its records and changes nothing else. -/
theorem snapshotAll_staging (f n first : Nat) (s : State) :
    OnlyStaging s (snapshotAll f n first s) ∧
      (snapshotAll f n first s).arc.staging = s.arc.staging ++ snapshotRecords f n first s := by
  induction n generalizing first s with
  | zero => exact ⟨rfl, (List.append_nil _).symm⟩
  | succ n ih =>
    rw [snapshotRecords_succ, snapshotAll]
    cases he : s.entryAt first false with
    | none => exact ih (first + 1) s
    | some x =>
      obtain ⟨honly, hstaged⟩ := ih (first + 1) (stageRec 0x11 f (.counterSnapshot first x.2.tag (fourteen (s.rt first false).counters)) s)
      exact ⟨honly, hstaged.trans (List.append_assoc ..)⟩

theorem exec_partitionReleaseEffect {f : Nat} {p : Partition} {s : State} (hrun : s.running = true) (hp : s.part? f = some p) :
    exec (.partitionReleaseEffect f) s =
      if p.releaseAt.any (fun t => decide (t ≤ s.sck.now)) then .next (releasePart f p s) else .next s := by
  refine (onMain_running hrun _).trans ?_
  simp only [hp]

/-- Settles O38: each command is its own rule; what a release leaves is said of `releasePart`. -/
theorem partitionsAndCounterReads : Obligations.PartitionsAndCounterReads := by
  refine ⟨fun q fn base size s hr => ?assign, fun q fn second s hr => ⟨fun p hp hfn hsec => ?move, fun hbad => ?noMove⟩,
    fun f p s hrun ⟨hp, hwf⟩ => ⟨fun hnot => ?before, fun t ht hle => ?reached⟩,
    fun q first count p s hr hp => ?read, fun q first count p s hr hp => ⟨fun hbad hne => ?snapBad, fun hgood => ?snap⟩⟩
  case assign =>
    by_cases h : fn ≤ 63 ∧ base % 256 = 0 ∧ size % 256 = 0 ∧ 256 ≤ size ∧ base + size ≤ 131072 ∧ s.part? fn = none ∧
        (s.pln.parts.any fun p => decide (base < p.2.base + p.2.size) && decide (p.2.base < base + size)) = false
    · rw [if_pos h]
      obtain ⟨hfn, hb, hs, hmin, hmax, hnone, hfree⟩ := h
      refine exec_done hr rfl (if_neg ?_)
      simp only [hb, hs, hnone, hfree, entryCount]
      simp
      omega
    · rw [if_neg h]
      refine exec_done hr rfl (if_pos ?_)
      refine Classical.byContradiction fun hno => ?_
      simp only [not_or, entryCount, Bool.not_eq_true, Option.isSome_eq_false_iff, Option.isNone_iff_eq_none, Classical.not_not, Nat.not_lt] at hno
      obtain ⟨hfn, hb, hs, hmin, hmax, hnone, hfree⟩ := hno
      exact h ⟨hfn, hb, hs, hmin, hmax, hnone, hfree⟩
  case move =>
    have hgood : ¬ (63 < fn ∨ 2 ^ 34 ≤ second) := by omega
    by_cases hpast : second * 1000000000 ≤ s.sck.now
    · rw [if_pos hpast]
      refine exec_done hr rfl ?_
      simp only [hp, if_neg hgood]
      exact if_pos hpast
    · rw [if_neg hpast]
      refine exec_done (comp := okDetail 0) hr rfl ?_
      simp only [hp, if_neg hgood]
      refine (if_neg hpast).trans ?_
      cases p.releaseAt <;> rfl
  case noMove =>
    refine exec_done (comp := reject 0) (t := s) hr rfl ?_
    cases hp : s.part? fn with
    | none => rfl
    | some p =>
      refine if_pos (hbad.resolve_left ?_)
      simp [hp]
  case before =>
    rw [exec_partitionReleaseEffect hrun hp, if_neg]
    cases hrel : p.releaseAt with
    | none => simp
    | some t => simp [hnot t hrel]
  case reached =>
    refine answers_next (t := releasePart f p s) ?_ ⟨part?_releasePart hwf, fun n => releasePart_entry, mem_releasePart_event f p s,
      fun c x e h hc => mem_releasePart_handle hc⟩
    rw [exec_partitionReleaseEffect hrun hp, ht, Option.any_some, if_pos (decide_eq_true hle)]
  case read =>
    by_cases hzero : count = 0
    · subst hzero
      refine exec_done hr rfl ?_
      simp only [hp]
      rfl
    by_cases hin : count ≤ 131072 ∧ p.base ≤ first ∧ first + count ≤ p.base + p.size
    · rw [if_neg hzero, if_pos hin]
      refine exec_done hr rfl ?_
      simp only [hp, rangeIn, if_neg (Nat.not_lt.mpr hin.1), if_neg hzero, hin.2, decide_true, Bool.and_true, if_true]
      rfl
    · rw [if_neg hzero, if_neg hin]
      refine exec_done (comp := reject 0) hr rfl ?_
      simp only [hp, if_neg hzero]
      by_cases hmax : 131072 < count
      · exact if_pos hmax
      · refine (if_neg hmax).trans (if_neg ?_)
        simpa [rangeIn] using fun hbase => Nat.lt_of_not_le fun hend => hin ⟨Nat.le_of_not_lt hmax, hbase, hend⟩
  case snapBad =>
    refine exec_done (comp := reject 0) hr rfl ?_
    simp only [hp, if_neg hne]
    by_cases hmax : 1024 < count
    · exact if_pos hmax
    · refine (if_neg hmax).trans (if_neg ?_)
      simpa [rangeIn] using fun hbase => Nat.lt_of_not_le fun hend => hbad ⟨Nat.le_of_not_lt hmax, hbase, hend⟩
  case snap =>
    obtain ⟨honly, hstaged⟩ := snapshotAll_staging q.f count first s
    refine answers_next (exec_done (comp := okDetail 0) (t := snapshotAll q.f count first s) hr rfl ?_) ⟨_, rfl, honly, hstaged⟩
    by_cases hzero : count = 0
    · subst hzero
      simp only [hp]
      rfl
    · obtain ⟨hmax, hbase, hend⟩ := hgood.resolve_left hzero
      simp only [hp, rangeIn, if_neg (Nat.not_lt.mpr hmax), if_neg hzero, hbase, hend, decide_true, Bool.and_true, if_true]

end Sys2Proof.Machine

/-! ### What the host interface sends (R422, R427, R444, R455) -/

namespace Sys2Proof.Machine

/-- A function's state without what is held back, pending or counted: what sending a message leaves as it is. -/
def Func.settled (v : Func) : Func := { v with heldWrites := [], discards := 0, msix := { v.msix with pending := [] } }

/-- From `s` to `t` messages and writes to host memory have been sent, or wait to be; nothing else of the host interface differs. -/
structure OnlySends (s t : State) : Prop where
  hif : t.hif = { s.hif with funcs := t.hif.funcs }
  func : ∀ g, (t.func g).settled = (s.func g).settled

namespace OnlySends

variable {s t u : State}

theorem refl (s : State) : OnlySends s s := ⟨rfl, fun _ => rfl⟩

theorem trans (h : OnlySends s t) (h' : OnlySends t u) : OnlySends s u :=
  ⟨by rw [h'.hif, h.hif], fun g => (h'.func g).trans (h.func g)⟩

theorem of_hif (h : t.hif = s.hif) : OnlySends s t := ⟨by rw [h], fun g => by simp only [State.func, h]⟩

theorem after_hif (h : OnlySends t u) (e : t.hif = s.hif) : OnlySends s u := (of_hif e).trans h

theorem ctxs (h : OnlySends s t) : t.hif.ctxs = s.hif.ctxs := by rw [h.hif]

theorem ctx? (h : OnlySends s t) (id : Nat) : t.ctx? id = s.ctx? id := by simp only [State.ctx?, h.ctxs]

theorem ring (h : OnlySends s t) (f r : Nat) : t.ring f r = s.ring f r := by
  rw [State.ring, h.hif, State.ring]

theorem masters (h : OnlySends s t) (f : Nat) : (t.func f).masters = (s.func f).masters :=
  have hm := congrArg Func.masters (h.func f)
  hm

theorem updFunc {f : Nat} {k : Func → Func} (h : ∀ v, (k v).settled = v.settled) : OnlySends s (s.updFunc f k) := by
  refine ⟨rfl, fun g => ?_⟩
  by_cases hg : g = f
  · subst hg
    rw [State.updFunc, func_setFunc_self, h]
  · rw [State.updFunc, func_setFunc_other _ _ hg]

theorem emitHost (f : Nat) (o : Out) (s : State) : OnlySends s (emitHost f o s) := by
  unfold Machine.emitHost
  split
  · exact of_hif rfl
  · exact updFunc fun _ => rfl

theorem sendVector (f vector : Nat) (s : State) : OnlySends s (sendVector f vector s) := by
  unfold Machine.sendVector
  split
  · refine updFunc fun v => ?_
    split <;> rfl
  · exact emitHost ..

theorem raiseEvent (b : EvBlock) (f bit : Nat) (s : State) : OnlySends s (raiseEvent b f bit s) := by
  unfold Machine.raiseEvent
  simp only []
  split
  · exact (sendVector ..).after_hif rfl
  · exact of_hif rfl

theorem writeMirror (f r : Nat) (s : State) : OnlySends s (writeMirror f r s) := emitHost ..

theorem writeCompletion (f r count addr : Nat) (c : Completion) (s : State) : OnlySends s (writeCompletion f r count addr c s) := by
  unfold Machine.writeCompletion
  simp only []
  split
  · exact emitHost ..
  · exact (emitHost ..).trans (emitHost ..)

theorem stageRec (typ owner : Nat) (body : RecBody) (s : State) : OnlySends s (stageRec typ owner body s) := of_hif rfl

theorem governorChange (new : Nat) (s : State) : OnlySends s (governorChange new s) :=
  (raiseEvent ..).after_hif rfl

theorem governorCheck (s : State) : OnlySends s (governorCheck s) := by
  unfold Machine.governorCheck
  simp only []
  split
  · exact .refl s
  split
  · exact of_hif rfl
  split
  · exact (governorChange ..).after_hif rfl
  · exact ((governorChange ..).trans (governorChange ..)).after_hif rfl

theorem onVault (f bytes : Nat) (g : VaultZone → VaultZone) (s : State) : OnlySends s (onVault f bytes g s) := by
  simp only [Machine.onVault]
  split
  · exact (governorCheck _).after_hif rfl
  · exact of_hif rfl

theorem dropImage (f : Nat) (n : Option Nat) (s : State) : OnlySends s (dropImage f n s) := by
  cases n with
  | none => exact .refl s
  | some n => exact onVault ..

theorem leaveLoading (f reason : Nat) (s : State) : OnlySends s (leaveLoading f reason s) := by
  unfold Machine.leaveLoading
  split
  · exact .refl s
  split
  · exact ((dropImage ..).trans (stageRec ..)).after_hif rfl
  · exact .refl s

theorem leaveTransfer (op f : Nat) (s : State) : OnlySends s (leaveTransfer op f s) := by
  unfold Machine.leaveTransfer
  split
  · exact leaveLoading ..
  split
  · exact of_hif rfl
  · exact .refl s

end OnlySends

section
variable {f : Nat} {s : State}

/-- While the function masters the bus a write to its host memory goes out at once (R455). -/
theorem emitHost_masters (h : (s.func f).masters = true) (o : Out) : emitHost f o s = emit o s := if_pos h

/-- While it does not, the write is held behind those held already (R455). -/
theorem emitHost_held (h : (s.func f).masters = false) (o : Out) :
    emitHost f o s = s.updFunc f fun v => { v with heldWrites := v.heldWrites ++ [o] } := if_neg (Bool.eq_false_iff.mp h)

@[simp] theorem func_updFunc_self (f : Nat) (g : Func → Func) (s : State) : (s.updFunc f g).func f = g (s.func f) :=
  func_setFunc_self ..

theorem flushHeld_masters (h : (s.func f).masters = true) :
    ((flushHeld f s).func f) = { s.func f with heldWrites := [] } ∧ (flushHeld f s).out = (s.func f).heldWrites.reverse ++ s.out := by
  rw [flushHeld, if_pos h]
  exact ⟨func_setFunc_self .., rfl⟩

theorem flushHeld_held (h : (s.func f).masters = false) : flushHeld f s = s := if_neg (Bool.eq_false_iff.mp h)

/-! #### A context that finishes -/

theorem writeCompletion_masters (h : (s.func f).masters = true) (r count addr : Nat) (c : Completion) :
    (writeCompletion f r count addr c s).out = .status f r count (statusWord c.code c.recomputed) c.resultLen c.detail ::
      (if c.output.isEmpty then s.out else .output f r count addr c.output :: s.out) := by
  unfold writeCompletion
  simp only []
  split
  · rw [emitHost_masters h]
    rfl
  · rw [emitHost_masters h, emitHost_masters (s := emit _ s) h]
    rfl

/-- The state in which a context's holds are released and it is free. -/
def ctxFreed (c : Ctx) (s : State) : State := freeCtx c.id (releaseHolds c.id c.f s)

/-- A context that finishes leaves its completion behind (R422, R427, R434). -/
theorem delivered_finishCtx (c : Ctx) (comp : Completion) (s : State) : Delivered c comp s (finishCtx c comp s) := by
  unfold finishCtx
  simp only []
  by_cases ho : c.orphan = 0
  · have hsent := OnlySends.writeCompletion c.f c.ring c.count c.hdr.outAddr
      { comp with recomputed := comp.recomputed || c.recomputed } (ctxFreed c s)
    rw [if_pos ho]
    refine ⟨hsent.ctxs, fun _ => ⟨?_, fun hm => writeCompletion_masters (s := ctxFreed c s) hm ..⟩⟩
    rw [State.updRing, ring_setRing_self]
    exact congrArg (fun r : Ring => finishEntry c.count r.entries) (hsent.ring c.f c.ring)
  · rw [if_neg ho]
    refine ⟨?_, fun h => absurd h ho⟩
    unfold countDiscard
    split <;> rfl

/-- A context that finishes leaves each function's state but for what is held back or counted. -/
theorem finishCtx_settled (c : Ctx) (comp : Completion) (s : State) (g : Nat) :
    ((finishCtx c comp s).func g).settled = (s.func g).settled := by
  unfold finishCtx
  simp only []
  split
  · exact (OnlySends.writeCompletion ..).func g
  · unfold countDiscard
    split
    · rfl
    · exact (OnlySends.updFunc (s := ctxFreed c s) (k := fun v => { v with discards := satTo max32 (v.discards + 1) }) fun _ => rfl).func g

theorem finishWhere_none {p : Ctx → Bool} {l : List Ctx} (code : Nat) (s : State) (h : l.all (fun c => !p c) = true) :
    finishWhere p code l s = s := by
  induction l with
  | nil => rfl
  | cons c l ih =>
    simp only [List.all_cons, Bool.and_eq_true, Bool.not_eq_true'] at h
    rw [finishWhere, if_neg (Bool.eq_false_iff.mp h.1), ih h.2]

/-! #### Pending messages (R444) -/

theorem sendPending_sent {v : Nat} (hp : (s.func f).msix.pending.contains v = true) (hb : (s.func f).msix.blocked v = false)
    (hm : (s.func f).masters = true) :
    (sendPending f v s).out = .msix f v :: s.out ∧ (sendPending f v s).func f =
      { s.func f with msix := { (s.func f).msix with pending := (s.func f).msix.pending.filter (· != v) } } := by
  have hfunc := func_updFunc_self f (fun v' : Func => { v' with msix := { v'.msix with pending := v'.msix.pending.filter (· != v) } }) s
  rw [sendPending, if_pos (by simp only [hp, hb, Bool.not_false, Bool.and_true]), emitHost_masters (by rw [hfunc]; exact hm)]
  exact ⟨rfl, hfunc⟩

theorem sendPending_blocked {v : Nat} (h : ((s.func f).msix.pending.contains v && !(s.func f).msix.blocked v) = false) :
    sendPending f v s = s := if_neg (Bool.eq_false_iff.mp h)

/-- A vector's message is sent once the function is enabled and unmasked: it is pending and the vector is not masked. -/
def Func.sends (v : Func) (n : Nat) : Bool :=
  v.msix.pending.contains n && !((Tbl.find? n v.msix.table).getD (0, 0, true)).2.2

/-- After the vectors below `n` have been seen, the others stand as before and the messages are out, 0 first. -/
theorem sendAllPending_out {v : Func} (n : Nat) (hv : s.func f = v) (hm : v.masters = true)
    (hopen : v.msix.enabled = true ∧ v.msix.functionMask = false) :
    (sendAllPending f n s).out = (((List.range n).filter v.sends).map (Out.msix f)).reverse ++ s.out ∧
      ∃ p, (sendAllPending f n s).func f = { v with msix := { v.msix with pending := p } } ∧
        ∀ m, n ≤ m → p.contains m = v.msix.pending.contains m := by
  induction n with
  | zero => exact ⟨rfl, _, by rw [sendAllPending, hv], fun _ _ => rfl⟩
  | succ n ih =>
    obtain ⟨hout, p, hfunc, hrest⟩ := ih
    have hblocked : ((sendAllPending f n s).func f).msix.blocked n = ((Tbl.find? n v.msix.table).getD (0, 0, true)).2.2 := by
      rw [hfunc]
      simp [Msix.blocked, hopen]
    have hcontains : ((sendAllPending f n s).func f).msix.pending.contains n = v.msix.pending.contains n := by
      rw [hfunc]
      exact hrest n (Nat.le_refl n)
    rw [sendAllPending, List.range_succ, List.filter_append, List.map_append, List.reverse_append]
    cases hsends : v.sends n with
    | true =>
      have hs : v.msix.pending.contains n = true ∧ ((Tbl.find? n v.msix.table).getD (0, 0, true)).2.2 = false := by
        simpa only [Func.sends, Bool.and_eq_true, Bool.not_eq_true'] using hsends
      obtain ⟨hsent, hfunc'⟩ := sendPending_sent (s := sendAllPending f n s) (hcontains.trans hs.1) (hblocked.trans hs.2)
        (by rw [hfunc]; exact hm)
      refine ⟨?_, p.filter (· != n), ?_, fun m hm => ?_⟩
      · rw [hsent, hout]
        simp [hsends]
      · rw [hfunc', hfunc]
      · rw [← hrest m (by omega)]
        have hne : m ≠ n := by omega
        simp [hne]
    | false =>
      rw [sendPending_blocked (by rw [hcontains, hblocked]; exact hsends)]
      refine ⟨?_, p, hfunc, fun m hm => hrest m (by omega)⟩
      rw [hout]
      simp [hsends]

end

/-- Settles O8: what is held back goes out when the function masters the bus, and pending messages when their vectors are open. -/
theorem pciePower : Obligations.PciePower := by
  refine ⟨fun f s hrun hd3 => ?set, fun f o s hrun => ?clear, fun f s hrun => ⟨?enter, fun hbme => ?leave⟩,
    fun f vector s hrun ⟨hen, hmask⟩ hp hm => ?unmask, fun f s hrun hm => ?unmaskAll⟩
  case set =>
    obtain ⟨hfunc, hout⟩ := flushHeld_masters (f := f)
      (s := s.updFunc f fun v => { v with bme := true, present := decide (f ≤ s.hif.config.totalVfs) })
      (by simp [Func.masters, hd3])
    refine answers_next (onMain_running hrun _) ⟨?_, ?_, ?_, ?_⟩
    · rw [hfunc, func_updFunc_self]
    · rw [hfunc, func_updFunc_self]
    · rw [hfunc]
    · rw [hout, func_updFunc_self]
      rfl
  case clear =>
    have hheld : ((s.updFunc f fun v => { v with bme := false }).func f).masters = false := by simp [Func.masters]
    refine answers_next (onMain_running hrun _) ⟨hheld, ?_, ?_⟩
    · rw [emitHost_held hheld, func_updFunc_self, func_updFunc_self]
    · rw [emitHost_held hheld]
      rfl
  case enter =>
    have hheld : ((s.updFunc f fun v => { v with d3hot := true }).func f).masters = false := by simp [Func.masters]
    refine answers_next ((onMain_running hrun _).trans (congrArg _ (flushHeld_held hheld))) ⟨?_, hheld, rfl⟩
    rw [func_updFunc_self]
  case leave =>
    obtain ⟨hfunc, hout⟩ := flushHeld_masters (f := f) (s := s.updFunc f fun v => { v with d3hot := false })
      (by simp [Func.masters, hbme])
    refine answers_next (onMain_running hrun _) ⟨?_, ?_, ?_⟩
    · rw [hfunc, func_updFunc_self]
      simp [Func.masters, hbme]
    · rw [hfunc]
    · rw [hout, func_updFunc_self]
      rfl
  case unmask =>
    refine answers_next (onMain_running hrun _) ?_
    obtain ⟨hout, hfunc⟩ := sendPending_sent (f := f) (v := vector)
      (s := s.updFunc f fun g => { g with msix := { g.msix with
        table := Tbl.put vector (((Tbl.find? vector g.msix.table).getD (0, 0, true)).1,
          ((Tbl.find? vector g.msix.table).getD (0, 0, true)).2.1, false) g.msix.table } })
      (by rw [func_updFunc_self]; exact hp) (by rw [func_updFunc_self]; simp [Msix.blocked, hen, hmask])
      (by rw [func_updFunc_self]; exact hm)
    refine ⟨hout, ?_⟩
    rw [func_updFunc_self] at hfunc
    exact congrArg (fun v : Func => v.msix.pending) hfunc
  case unmaskAll =>
    obtain ⟨hout, p, hfunc, _⟩ := sendAllPending_out (f := f) 32
      (s := s.updFunc f fun g => { g with msix := { g.msix with enabled := true, functionMask := false } })
      (func_updFunc_self ..) hm ⟨rfl, rfl⟩
    exact answers_next (onMain_running hrun _) ⟨by rw [hfunc], by rw [hfunc], hout⟩

end Sys2Proof.Machine

/-! ### Rings and the data port -/

namespace Sys2Proof.Machine

section
variable {f ring cfg : Nat} {s : State}

theorem exec_ringEnable (hr : reaches f s = true) (hen : (s.ring f ring).enabled = false) {r : Ring}
    (hfields : (if (s.ring f ring).draining then s.ring f ring else ringCfg (s.ring f ring) cfg) = r) :
    exec (.ringEnable f ring cfg) s =
      if enableCause s f ring r ≠ 0 then .next (s.setRing f ring { r with cfgCause := enableCause s f ring r })
      else .next (writeMirror f ring (s.setRing f ring
        { r with enabled := true, cfgCause := 0, haltHere := false, d := 0, h := 0, f := 0, tokens := 0, entries := [], unsent := 0, firstAt := 0 })) := by
  subst hfields
  exact (viaBar_reaches hr _).trans (if_neg (Bool.eq_false_iff.mp hen))

/-- A draining ring is refused: for one of the earlier causes, or as draining (R418). -/
theorem enableCause_draining {r : Ring} (h : r.draining = true) : 1 ≤ enableCause s f ring r ∧ enableCause s f ring r ≤ 7 := by
  simp only [enableCause, h, if_true]
  split; · omega
  split; · omega
  split; · omega
  split; · omega
  split; · omega
  split <;> omega

theorem exec_ringDrain (hr : reaches f s = true) (hen : (s.ring f ring).enabled = true) {s1 : State}
    (hs1 : s1 = writeMirror f ring (s.setRing f ring { s.ring f ring with enabled := false, draining := true })) :
    exec (.ringDrain f ring) s = .next (finishWhere (delayedOn f ring) stSquashed s.hif.ctxs s1) := by
  have hctxs : s1.hif.ctxs = s.hif.ctxs := by
    rw [hs1]
    exact (OnlySends.writeMirror ..).ctxs
  refine (viaBar_reaches hr _).trans ((if_pos hen).trans ?_)
  rw [← hctxs, hs1]

end

/-- Settles O6: the branches of the three commands; a drained entry finishes as every context does. -/
theorem ringsEnableAndDrain : Obligations.RingsEnableAndDrain := by
  refine ⟨fun f ring cfg s hr ⟨hen, hdr⟩ hcause => ?enable, fun f ring cfg s hr ⟨hen, hdr⟩ hcause => ?refused,
    fun f ring cfg s hr ⟨hen, hdr⟩ => ?draining, fun f ring s hr hen hnone => ?drain,
    fun f ring x s s1 hr hen ⟨hctxs, hx⟩ hs1 => ?squash, fun f ring s hrun ⟨hdr, hempty⟩ => ?inactive⟩
  case enable =>
    rw [exec_ringEnable hr hen (if_neg (Bool.eq_false_iff.mp hdr)), if_neg (Classical.not_not.mpr hcause)]
    simp [ringCfg, fieldOf, hdr]
  case refused =>
    rw [exec_ringEnable hr hen (if_neg (Bool.eq_false_iff.mp hdr)), if_pos hcause]
  case draining =>
    obtain ⟨hmin, hmax⟩ := enableCause_draining (s := s) (f := f) (ring := ring) hdr
    refine answers_next ?_ ⟨_, hmin, hmax, rfl⟩
    rw [exec_ringEnable hr hen (if_pos hdr), if_pos (by omega)]
  case drain => rw [exec_ringDrain hr hen rfl, finishWhere_none _ _ hnone]
  case squash =>
    refine answers_next (exec_ringDrain hr hen hs1) ?_
    rw [hctxs, finishWhere, if_pos hx]
    exact delivered_finishCtx x (bare stSquashed) s1
  case inactive => exact (onMain_running hrun _).trans (if_pos (by simp [hdr, hempty]))

/-! #### The data port (R456 to R459) -/

section
variable {f offset len p id : Nat} {bytes : Bytes} {s : State}

theorem exec_dataPortOpen {out : Option Nat} {x : Ctx} (hrun : s.running = true) (hidle : (s.func f).dpState = 0)
    (hx : nextPortCtx s f = some x) :
    exec (.dataPortOpen f out) s =
      if (if isInbound x.hdr.opcode then some (inboundLength x) else out) = some 0 then
        .next (s.setCtx { x with dataPort := false, needsHost := false })
      else .next (s.updFunc f fun v =>
        { v with dpState := if isInbound x.hdr.opcode then 1 else 2
                 dpLengthKnown := (if isInbound x.hdr.opcode then some (inboundLength x) else out).isSome
                 dpProtocol := false, dpRing := x.ring, dpOwner := x.count, dpCtx := some x.id, dpPos := 0
                 dpLimit := if isInbound x.hdr.opcode then (if ((if isInbound x.hdr.opcode then some (inboundLength x) else out).getD max64) < aperture
                   then (if isInbound x.hdr.opcode then some (inboundLength x) else out).getD max64 else aperture) else 0
                 dpLength := (if isInbound x.hdr.opcode then some (inboundLength x) else out).getD max64
                 dpBuf := [], dpOut := [], dpAt := s.sck.now }) := by
  refine (onMain_running hrun _).trans ((if_neg (Classical.not_not.mpr hidle)).trans ?_)
  simp only [hx]

/-- A write at an aligned position of an inbound transfer. -/
theorem exec_dataPortWrite_stored {buf left : Tbl Byte} {pos : Nat} (hr : reaches f s = true) (hin : (s.func f).dpState = 1)
    (hp : p = apertureTo (s.func f).dpPos offset ∧ p % 4 = 0 ∧ bytes.length % 4 = 0 ∧ p < (s.func f).dpLength)
    (hstore : storeBytes (s.func f).dpPos (s.func f).dpLimit (s.func f).dpLength p bytes (s.func f).dpBuf = some buf)
    (hadv : advancePos buf.length (s.func f).dpPos buf = (pos, left)) {s1 : State}
    (hs1 : s1 = s.setFunc f { s.func f with
      dpPos := pos, dpBuf := left, dpAt := s.sck.now, dpLimit := min (pos + 2 ^ 20) (s.func f).dpLength }) :
    exec (.dataPortWrite f offset bytes) s = .next (if pos = (s.func f).dpLength then completePort f s1 else s1) := by
  obtain ⟨rfl, halign, hwhole, hlt⟩ := hp
  have hlimit : (if pos + aperture < (s.func f).dpLength then pos + aperture else (s.func f).dpLength) = min (pos + 2 ^ 20) (s.func f).dpLength := by
    rw [aperture]
    split <;> omega
  refine (viaBar_reaches hr _).trans ((if_neg (Classical.not_not.mpr hin)).trans ((if_neg (by omega)).trans ?_))
  simp only [hstore, hadv, hlimit, hs1]

/-- A write against R457 ends the transfer. -/
theorem exec_dataPortWrite_protocol (hr : reaches f s = true) (hin : (s.func f).dpState = 1) (hp : p = apertureTo (s.func f).dpPos offset)
    (hbad : (p % 4 ≠ 0 ∨ bytes.length % 4 ≠ 0 ∨ (s.func f).dpLength ≤ p) ∨
      storeBytes (s.func f).dpPos (s.func f).dpLimit (s.func f).dpLength p bytes (s.func f).dpBuf = none) :
    exec (.dataPortWrite f offset bytes) s = .next (abortPort f true s) := by
  subst hp
  refine (viaBar_reaches hr _).trans ((if_neg (Classical.not_not.mpr hin)).trans ?_)
  by_cases hform : apertureTo (s.func f).dpPos offset % 4 ≠ 0 ∨ bytes.length % 4 ≠ 0 ∨ (s.func f).dpLength ≤ apertureTo (s.func f).dpPos offset
  · exact if_pos hform
  · refine (if_neg hform).trans ?_
    simp only [hbad.resolve_left hform]

/-- A read of an outbound transfer that begins at POS and lies within what is offered. -/
theorem exec_dataPortRead_served (hr : reaches f s = true) (hout : (s.func f).dpState = 2) (hlen : 0 < len ∧ len ≤ 4096)
    (hp : apertureTo (s.func f).dpPos offset = (s.func f).dpPos) (hlim : (s.func f).dpPos + len ≤ (s.func f).dpLimit) {s2 : State}
    (hs2 : s2 = (emit (.data f (readBytes (s.func f) (s.func f).dpPos len)) s).setFunc f { s.func f with
      dpPos := (s.func f).dpPos + len, dpOut := (s.func f).dpOut.drop len, dpLengthKnown := true
      dpLimit := min ((s.func f).dpPos + len + 2 ^ 20) (s.func f).dpLength, dpAt := s.sck.now }) :
    exec (.dataPortRead f offset len) s =
      .next (if (s.func f).dpPos + len = (s.func f).dpLength then completePort f s2 else s2) := by
  have hlimit : (if (s.func f).dpPos + len + aperture < (s.func f).dpLength then (s.func f).dpPos + len + aperture else (s.func f).dpLength) =
      min ((s.func f).dpPos + len + 2 ^ 20) (s.func f).dpLength := by
    rw [aperture]
    split <;> omega
  refine (viaBar_reaches hr _).trans ((if_neg (by omega)).trans ((if_neg (Classical.not_not.mpr hout)).trans ?_))
  simp only [hp, hlim, hlen.1, and_self, if_true, offerOut, hlimit, hs2]

/-- A read elsewhere, past the limit or without an outbound transfer returns its bytes and moves nothing. -/
theorem exec_dataPortRead_unmoved (hr : reaches f s = true) (hlen : len ≤ 4096)
    (h : (s.func f).dpState = 2 → apertureTo (s.func f).dpPos offset ≠ (s.func f).dpPos ∨ (s.func f).dpLimit < (s.func f).dpPos + len) :
    exec (.dataPortRead f offset len) s = .next (emit (.data f (if (s.func f).dpState = 2 then
      readBytes (s.func f) (apertureTo (s.func f).dpPos offset) len else List.replicate len 0xFF)) s) := by
  refine (viaBar_reaches hr _).trans ((if_neg (by omega)).trans ?_)
  by_cases hout : (s.func f).dpState = 2
  · rw [if_pos hout]
    refine (if_neg (Classical.not_not.mpr hout)).trans (if_neg ?_)
    rintro ⟨hp, hlim, _⟩
    rcases h hout with h | h
    · exact h hp
    · omega
  · rw [if_neg hout]
    exact if_pos hout

theorem putCtx_find {x y : Ctx} (hid : y.id = id) {l : List Ctx} (hx : l.find? (fun c => c.id == id) = some x) :
    (putCtx y l).find? (fun c => c.id == id) = some y := by
  induction l with
  | nil => simp at hx
  | cons c l ih =>
    rw [putCtx]
    by_cases hc : c.id = y.id
    · rw [if_pos hc, List.find?_cons_of_pos (by simp [hid])]
    · have hne : ¬ (c.id == id) = true := by
        rw [beq_iff_eq, ← hid]
        exact hc
      rw [if_neg hc, List.find?_cons_of_neg (by exact hne)]
      exact ih (by rwa [List.find?_cons_of_neg (by exact hne)] at hx)

theorem ctx?_setCtx {x y : Ctx} (hx : s.ctx? id = some x) (hid : y.id = id) : (s.setCtx y).ctx? id = some y := putCtx_find hid hx

theorem ctx?_id {x : Ctx} (hx : s.ctx? id = some x) : x.id = id := by simpa using List.find?_some hx

/-- A transfer that is complete frees the port, and its operation needs it no more (R459). -/
theorem completePort_of_ctx {x : Ctx} (hc : (s.func f).dpCtx = some id) (hx : s.ctx? id = some x) :
    completePort f s = (s.updFunc f Func.portIdle).setCtx { x with dataPort := false, needsHost := false } := by
  have hx' : (s.updFunc f Func.portIdle).ctx? id = some x := hx
  simp only [completePort, hc, hx']

theorem completePort_ends {x : Ctx} (hc : (s.func f).dpCtx = some id) (hx : s.ctx? id = some x) :
    ((completePort f s).func f).dpState = 0 ∧ (completePort f s).ctx? id = some { x with dataPort := false, needsHost := false } ∧
      (completePort f s).out = s.out := by
  have hid : x.id = id := ctx?_id hx
  rw [completePort_of_ctx hc hx]
  exact ⟨congrArg Func.dpState (func_updFunc_self f Func.portIdle s), ctx?_setCtx (s := s.updFunc f Func.portIdle) (x := x) hx hid, rfl⟩

/-- The state in which a function's port is at rest after an abort. -/
def portAborted (f : Nat) (protocol : Bool) (s : State) : State := s.updFunc f fun v => { v.portIdle with dpProtocol := protocol }

theorem abortPort_without {protocol : Bool} (h : (s.func f).dpState ≠ 0)
    (hx : ∀ id, (s.func f).dpCtx = some id → s.ctx? id = none) :
    abortPort f protocol s = raiseEvent .hif f 1 (portAborted f protocol s) := by
  unfold abortPort
  rw [if_neg h]
  refine congrArg (raiseEvent .hif f 1) ?_
  cases hc : (s.func f).dpCtx with
  | none => rfl
  | some id =>
    simp only []
    split
    · rfl
    · next c hx' => exact absurd ((hx id hc).symm.trans hx') nofun

theorem abortPort_of_ctx {protocol : Bool} {x : Ctx} (h : (s.func f).dpState ≠ 0) (hc : (s.func f).dpCtx = some id)
    (hx : s.ctx? id = some x) :
    abortPort f protocol s =
      raiseEvent .hif f 1 (finishCtx x (bare stAborted) (leaveTransfer x.hdr.opcode f (portAborted f protocol s))) := by
  unfold abortPort
  rw [if_neg h]
  refine congrArg (raiseEvent .hif f 1) ?_
  simp only [hc]
  split
  · next hx' => exact absurd (hx'.symm.trans hx) nofun
  · next c hx' =>
    cases hx'.symm.trans hx
    rfl

theorem abortPort_settled {protocol : Bool} (h : (s.func f).dpState ≠ 0) (g : Nat) :
    ((abortPort f protocol s).func g).settled = ((portAborted f protocol s).func g).settled := by
  by_cases hx : ∀ id, (s.func f).dpCtx = some id → s.ctx? id = none
  · rw [abortPort_without h hx, (OnlySends.raiseEvent ..).func]
  · obtain ⟨id, hid⟩ := Classical.not_forall.mp hx
    obtain ⟨hc, hne⟩ := Classical.not_imp.mp hid
    obtain ⟨x, hx⟩ := Option.ne_none_iff_exists'.mp hne
    rw [abortPort_of_ctx h hc hx, (OnlySends.raiseEvent ..).func, finishCtx_settled, (OnlySends.leaveTransfer ..).func]

theorem event_abortPort {protocol : Bool} (h : (s.func f).dpState ≠ 0) : (abortPort f protocol s).event .hif f 1 = true := by
  unfold abortPort
  rw [if_neg h]
  exact event_raiseEvent_self ..

/-- A transfer that ends other than by completion leaves the port idle, and its event (R459). -/
theorem abortPort_ends {protocol : Bool} (h : (s.func f).dpState ≠ 0) :
    ((abortPort f protocol s).func f).dpState = 0 ∧ ((abortPort f protocol s).func f).dpProtocol = protocol ∧
      (abortPort f protocol s).event .hif f 1 = true := by
  have hport : ((abortPort f protocol s).func f).settled = { (s.func f).portIdle.settled with dpProtocol := protocol } := by
    rw [abortPort_settled h, portAborted, func_updFunc_self]
    rfl
  have hstate := congrArg Func.dpState hport
  have hproto := congrArg Func.dpProtocol hport
  exact ⟨hstate, hproto, event_abortPort h⟩

theorem abortPort_ctx {protocol : Bool} {x : Ctx} (h : (s.func f).dpState ≠ 0) (hc : (s.func f).dpCtx = some id) (hx : s.ctx? id = some x) :
    (abortPort f protocol s).ctx? id = none := by
  rw [abortPort_of_ctx h hc hx, (OnlySends.raiseEvent ..).ctx?, State.ctx?, (delivered_finishCtx ..).1, ctx?_id hx]
  simp

end

/-- Settles O7: each branch of the port's commands, by the lemma of that branch. -/
theorem dataPort : Obligations.DataPort := by
  refine ⟨fun f len out x s hrun hidle hx hlen hne => ?opened, fun f out x s hrun hidle hx hzero => ?empty,
    fun f offset p pos bytes buf left s ⟨hr, hin⟩ hp hstore ⟨hadv, hne⟩ => ?stored,
    fun f b0 b1 b2 b3 s hr ⟨hin, hpos, hbuf⟩ ⟨hlen, hlim⟩ => ?four,
    fun f offset p id bytes buf left x s ⟨hr, hin, hc, hx⟩ hp hstore hadv => ?completed,
    fun f offset p bytes s ⟨hr, hin⟩ hp hbad => ?protocol,
    fun f offset len s hr hout hlen hp hlim hne => ?read, fun f offset len id x s hr ⟨hout, hc, hx⟩ hlen hp hlim hend => ?readAll,
    fun f offset len s ⟨hr, hlen⟩ h => exec_dataPortRead_unmoved hr hlen h,
    fun f id x s hr ⟨hopen, hc, hx⟩ => ⟨?abort, fun hdue => ?timeout⟩⟩
  case opened =>
    rw [exec_dataPortOpen hrun hidle hx, ← hlen, if_neg hne]
    cases hin : isInbound x.hdr.opcode with
    | false => simp [max64]
    | true =>
      rw [hin, if_pos rfl] at hlen
      subst hlen
      have hlimit : (if inboundLength x < aperture then inboundLength x else aperture) = min (inboundLength x) (2 ^ 20) := by
        rw [aperture]
        split <;> omega
      simp only [if_true, Option.isSome_some, Option.getD_some, hlimit]
  case empty => rw [exec_dataPortOpen hrun hidle hx, if_pos hzero]
  case stored => rw [exec_dataPortWrite_stored hr hin hp hstore hadv rfl, if_neg hne]
  case four =>
    have hstore : storeBytes (s.func f).dpPos (s.func f).dpLimit (s.func f).dpLength 0 [b0, b1, b2, b3] (s.func f).dpBuf =
        some [(0, b0), (1, b1), (2, b2), (3, b3)] := by
      have hin (k : Nat) (hk : k < 4) : ¬ (s.func f).dpLength ≤ k ∧ ¬ (s.func f).dpLimit ≤ k := by omega
      simp [storeBytes, hpos, hbuf, Tbl.has, Tbl.find?, Tbl.put, hin]
    refine answers_next (exec_dataPortWrite_stored (p := 0) (pos := 4) (left := []) hr hin ⟨?_, rfl, by simp, by omega⟩ hstore ?_ rfl) ?_
    · rw [hpos]
      rfl
    · rw [hpos]
      rfl
    · rw [if_neg (by omega), func_setFunc_self]
      exact ⟨rfl, hin⟩
  case completed =>
    refine answers_next (exec_dataPortWrite_stored hr hin hp hstore hadv rfl) ?_
    rw [if_pos rfl]
    obtain ⟨hidle, hctx, _⟩ := completePort_ends (f := f) (x := x)
      (s := s.setFunc f { s.func f with dpPos := (s.func f).dpLength, dpBuf := left, dpAt := s.sck.now,
                                        dpLimit := min ((s.func f).dpLength + 2 ^ 20) (s.func f).dpLength })
      (by rw [func_setFunc_self]; exact hc) hx
    exact ⟨hidle, hctx⟩
  case protocol => exact answers_next (exec_dataPortWrite_protocol hr hin hp hbad) (abortPort_ends (by omega))
  case read => rw [exec_dataPortRead_served hr hout hlen hp hlim rfl, if_neg hne]
  case readAll =>
    refine answers_next (exec_dataPortRead_served hr hout hlen hp hlim rfl) ?_
    rw [if_pos hend]
    exact completePort_ends (f := f) (x := x)
      (s := (emit (.data f (readBytes (s.func f) (s.func f).dpPos len)) s).setFunc f { s.func f with
        dpPos := (s.func f).dpPos + len, dpOut := (s.func f).dpOut.drop len, dpLengthKnown := true
        dpLimit := min ((s.func f).dpPos + len + 2 ^ 20) (s.func f).dpLength, dpAt := s.sck.now })
      (by rw [func_setFunc_self]; exact hc) hx
  case abort =>
    obtain ⟨hidle, _, hev⟩ := abortPort_ends (protocol := false) hopen
    exact answers_next (viaBar_reaches hr _) ⟨hidle, hev, abortPort_ctx hopen hc hx⟩
  case timeout =>
    obtain ⟨hidle, _, hev⟩ := abortPort_ends (protocol := false) hopen
    have hrun : s.running = true := by
      simp only [reaches, Bool.and_eq_true] at hr
      exact hr.1.1
    exact answers_next ((onMain_running hrun _).trans (if_pos ⟨hopen, hdue⟩)) ⟨hidle, hev, abortPort_ctx hopen hc hx⟩

end Sys2Proof.Machine

/-! ### Rounds, heads and messages of rings (R429 to R443) -/

namespace Sys2Proof.Machine

section
variable {f ring cause op : Nat} {mem : HostMem} {s : State}

theorem exec_arbitrationRound (hrun : s.running = true) {rs : List Nat}
    (hrs : Tbl.keys (fun k _ => eligible mem s (k / 64) (k % 64)) s.hif.rings = rs) :
    exec (.arbitrationRound mem) s = .next (arbLoop mem rs (mem.length + 1) (giveTokens rs s)) := by
  subst hrs
  exact onMain_running hrun _

/-- A pass over one ring is its visit. -/
theorem arbPass_one (hring : ring < 64) (s : State) :
    arbPass mem [f * 64 + ring] s = visitRing mem f ring (mem.length + 1) 0 s := by
  have hf : (f * 64 + ring) / 64 = f := by omega
  have hr : (f * 64 + ring) % 64 = ring := by omega
  simp only [arbPass, hf, hr, Bool.or_false]

/-- The tokens of a round of one ring (R433). -/
def tokensGiven (f ring : Nat) (s : State) : State := s.updRing f ring fun g => { g with tokens := g.weight }

theorem giveTokens_one (hring : ring < 64) (s : State) : giveTokens [f * 64 + ring] s = tokensGiven f ring s := by
  have hf : (f * 64 + ring) / 64 = f := by omega
  have hr : (f * 64 + ring) % 64 = ring := by omega
  simp only [giveTokens, hf, hr, tokensGiven]

@[simp] theorem ring_updRing_self (f r : Nat) (g : Ring → Ring) (s : State) : (s.updRing f r g).ring f r = g (s.ring f r) :=
  ring_setRing_self ..

theorem ring_tokensGiven : (tokensGiven f ring s).ring f ring = { s.ring f ring with tokens := (s.ring f ring).weight } :=
  ring_updRing_self ..

theorem func_tokensGiven (g : Nat) : (tokensGiven f ring s).func g = s.func g := rfl

theorem peek_of_ring {t : State} (h : ∃ n, t.ring f ring = { s.ring f ring with tokens := n }) : peek mem t f ring = peek mem s f ring := by
  obtain ⟨n, h⟩ := h
  simp only [peek, h, headerCause]
  rfl

theorem peek_tokensGiven : peek mem (tokensGiven f ring s) f ring = peek mem s f ring := peek_of_ring ⟨_, ring_tokensGiven⟩

theorem eligible_tokensGiven : eligible mem (tokensGiven f ring s) f ring = eligible mem s f ring := by
  simp only [eligible, peek_tokensGiven, ring_tokensGiven]
  rfl

/-- Nothing is taken from a ring with nothing outstanding below D (R430). -/
theorem peek_nothing (h : countSub (s.ring f ring).d (s.ring f ring).f = 0) : peek mem s f ring = .wait := by
  simp only [peek, h, if_true]

theorem visitOne_ineligible {taken : Nat} (h : eligible mem s f ring = false) : visitOne mem f ring taken s = (false, taken, s) := by
  simp [visitOne, h]

theorem visitRing_ineligible {fuel taken : Nat} (h : eligible mem s f ring = false) :
    visitRing mem f ring (fuel + 1) taken s = (s, decide (0 < taken)) := by
  simp only [visitRing, visitOne_ineligible h, Bool.false_eq_true, if_false]

theorem eligible_of_peek (h : peek mem s f ring = .wait) : eligible mem s f ring = false := by
  simp [eligible, h]

theorem eligible_not_halted (h : eligible mem s f ring = true) : (s.func f).halted = false := by
  simp only [eligible, Bool.and_eq_true, Bool.not_eq_true'] at h
  exact h.1.1.1.1.1.2

/-- The context of an entry that is accepted with NOT_BEFORE 0 (R435). -/
def acceptedCtx (f ring : Nat) (e : RawEntry) (row : OpRow) (s : State) : Ctx :=
  { id := s.hif.nextCtx, f, ring, count := (s.ring f ring).f, hdr := e.hdr,
    phase := if (entryAngle e.hdr e.body).isSome then .held else .queued, dataPort := row.dataPort,
    needsHost := row.dataPort || decide (0 < e.hdr.inLen), angle := entryAngle e.hdr e.body,
    slots := fitBytes (64 * e.hdr.length) e.slots, group := groupOfOpcode e.hdr.opcode }

/-- A state in which an accepted entry has its context and F has moved past it. -/
def entryTaken (f ring : Nat) (e : RawEntry) (row : OpRow) (s : State) : State :=
  { s with hif := { s.hif with ctxs := s.hif.ctxs ++ [acceptedCtx f ring e row s], nextCtx := s.hif.nextCtx + 1 } }.updRing f ring fun g =>
    { g with f := ((s.ring f ring).f + e.hdr.length) % 2 ^ 32
             entries := g.entries ++ [((s.ring f ring).f, e.hdr.length, false, false, e.hdr.notify)] }

theorem acceptEntry_now {e : RawEntry} {row : OpRow} (hrow : opRow e.hdr.opcode = some row)
    (href : acceptRefusal s f e row = none) (hnow : e.hdr.notBefore = 0) :
    acceptEntry f ring e s = if (entryAngle e.hdr e.body).isSome then takeWatch (acceptedCtx f ring e row s) (entryTaken f ring e row s)
      else makeReady (.ctx s.hif.nextCtx) (groupOfOpcode e.hdr.opcode) (entryTaken f ring e row s) := by
  simp only [acceptEntry, hrow, Option.getD_some, href, hnow, if_true, true_and, beq_self_eq_true, Bool.and_true]
  rfl

theorem acceptEntry_hif {e : RawEntry} {row : OpRow} (hrow : opRow e.hdr.opcode = some row)
    (href : acceptRefusal s f e row = none) (hnow : e.hdr.notBefore = 0) :
    (acceptEntry f ring e s).hif = (entryTaken f ring e row s).hif := by
  rw [acceptEntry_now hrow href hnow]
  split
  · unfold takeWatch
    split <;> rfl
  · rfl

theorem acceptEntry_ts {e : RawEntry} {row : OpRow} (hrow : opRow e.hdr.opcode = some row)
    (href : acceptRefusal s f e row = none) (hnow : e.hdr.notBefore = 0) :
    if (entryAngle e.hdr e.body).isSome then
      (acceptEntry f ring e s).ts = { s.ts with watches := s.ts.watches ++ [(f, s.hif.nextCtx)] }
    else (acceptEntry f ring e s).ts.items = s.ts.items ++
        [{ id := s.ts.nextItem, kind := .ctx s.hif.nextCtx, group := groupOfOpcode e.hdr.opcode, readyAt := s.sck.rtcCount }] ∧
      (acceptEntry f ring e s).ts.ready = Tbl.put (groupOfOpcode e.hdr.opcode)
        (Tbl.get [] s.ts.ready (groupOfOpcode e.hdr.opcode) ++ [s.ts.nextItem]) s.ts.ready := by
  rw [acceptEntry_now hrow href hnow]
  split
  · next ha =>
    rw [takeWatch, if_pos (by exact ha)]
    rfl
  · exact ⟨rfl, rfl⟩

theorem arbLoop_once {rs : List Nat} {n : Nat} {t : State} (h1 : arbPass mem rs s = (t, true)) (h2 : arbPass mem rs t = (t, false)) :
    arbLoop mem rs (n + 2) s = t := by
  simp only [arbLoop, h1, h2, if_true, Bool.false_eq_true, if_false]

/-- The state in which the one eligible ring has had its one entry taken, for one token. -/
def ringServed (f ring : Nat) (e : RawEntry) (s : State) : State :=
  (acceptEntry f ring e (tokensGiven f ring s)).updRing f ring fun g => { g with tokens := g.tokens - 1 }

theorem ring_ringServed {e : RawEntry} {row : OpRow} (hrow : opRow e.hdr.opcode = some row)
    (href : acceptRefusal s f e row = none) (hnow : e.hdr.notBefore = 0) :
    (ringServed f ring e s).ring f ring = { s.ring f ring with
      f := ((s.ring f ring).f + e.hdr.length) % 2 ^ 32, tokens := (s.ring f ring).weight - 1
      entries := (s.ring f ring).entries ++ [((s.ring f ring).f, e.hdr.length, false, false, e.hdr.notify)] } := by
  have hhif := acceptEntry_hif (ring := ring) hrow (s := tokensGiven f ring s) href hnow
  have hring : (acceptEntry f ring e (tokensGiven f ring s)).ring f ring = (entryTaken f ring e row (tokensGiven f ring s)).ring f ring := by
    simp only [State.ring, hhif]
  rw [ringServed, ring_updRing_self, hring, entryTaken, ring_updRing_self]
  have htok : ({ tokensGiven f ring s with hif := { (tokensGiven f ring s).hif with
      ctxs := (tokensGiven f ring s).hif.ctxs ++ [acceptedCtx f ring e row (tokensGiven f ring s)]
      nextCtx := (tokensGiven f ring s).hif.nextCtx + 1 } } : State).ring f ring = (tokensGiven f ring s).ring f ring := rfl
  rw [htok, ring_tokensGiven]

theorem ringServed_ts (e : RawEntry) : (ringServed f ring e s).ts = (acceptEntry f ring e (tokensGiven f ring s)).ts := rfl

theorem ringServed_ctxs {e : RawEntry} {row : OpRow} (hrow : opRow e.hdr.opcode = some row)
    (href : acceptRefusal s f e row = none) (hnow : e.hdr.notBefore = 0) :
    (ringServed f ring e s).hif.ctxs = s.hif.ctxs ++ [acceptedCtx f ring e row s] := by
  have hhif := acceptEntry_hif (ring := ring) hrow (s := tokensGiven f ring s) href hnow
  have hctx : acceptedCtx f ring e row (tokensGiven f ring s) = acceptedCtx f ring e row s := by
    rw [acceptedCtx, ring_tokensGiven]
    rfl
  have hctxs := congrArg Hif.ctxs hhif
  rw [← hctx]
  exact hctxs

theorem countSub_passed {d x n : Nat} (h : countSub d x = n) : countSub d ((x + n) % 2 ^ 32) = 0 := by
  simp only [countSub] at h ⊢
  omega

/-- One entry before D: the round takes it and nothing more (R433). -/
theorem exec_arbitrationRound_entry {e : RawEntry} {row : OpRow} (hrun : s.running = true)
    (hkeys : Tbl.keys (fun k _ => eligible mem s (k / 64) (k % 64)) s.hif.rings = [f * 64 + ring]) (hring : ring < 64)
    (hel : eligible mem s f ring = true) (hpeek : peek mem s f ring = .entry e)
    (hone : countSub (s.ring f ring).d (s.ring f ring).f = e.hdr.length)
    (hpos : 0 < (s.ring f ring).weight ∧ 0 < (s.ring f ring).burst ∧ 0 < mem.length)
    (hfree : ctxFree s f = true) (hrow : opRow e.hdr.opcode = some row) (href : acceptRefusal s f e row = none)
    (hnow : e.hdr.notBefore = 0) :
    exec (.arbitrationRound mem) s = .next (ringServed f ring e s) := by
  obtain ⟨hw, hb, hm⟩ := hpos
  have hdone : eligible mem (ringServed f ring e s) f ring = false := by
    refine eligible_of_peek (peek_nothing ?_)
    rw [ring_ringServed hrow href hnow]
    exact countSub_passed hone
  have hvisit : visitOne mem f ring 0 (tokensGiven f ring s) = (true, 1, ringServed f ring e s) := by
    have hfree' : ctxFree (tokensGiven f ring s) f = true := hfree
    simp only [visitOne, eligible_tokensGiven, hel, ring_tokensGiven, hb, hw, decide_true, Bool.and_true, if_true, peek_tokensGiven, hpeek,
      hfree', ringServed]
  obtain ⟨n, hn⟩ : ∃ n, mem.length = n + 1 := ⟨mem.length - 1, by omega⟩
  rw [exec_arbitrationRound hrun hkeys, giveTokens_one hring, hn]
  refine congrArg _ (arbLoop_once ?_ ?_)
  · rw [arbPass_one hring, visitRing, hvisit]
    simp only [if_true, hn, visitRing_ineligible hdone]
    rfl
  · rw [arbPass_one hring, visitRing_ineligible hdone]
    rfl

/-- A malformed entry of the one eligible ring halts its function (R431, R446). -/
theorem exec_arbitrationRound_bad (hrun : s.running = true)
    (hkeys : Tbl.keys (fun k _ => eligible mem s (k / 64) (k % 64)) s.hif.rings = [f * 64 + ring]) (hring : ring < 64)
    (hel : eligible mem s f ring = true) (hpeek : peek mem s f ring = .bad cause op)
    (hpos : 0 < (s.ring f ring).weight ∧ 0 < (s.ring f ring).burst) :
    exec (.arbitrationRound mem) s = .next (halt f cause ring op (s.ring f ring).f (tokensGiven f ring s)) := by
  have hvisit : visitOne mem f ring 0 (tokensGiven f ring s) = (false, 0, halt f cause ring op (s.ring f ring).f (tokensGiven f ring s)) := by
    simp only [visitOne, eligible_tokensGiven, hel, ring_tokensGiven, hpos.1, hpos.2, decide_true, Bool.and_true, if_true, peek_tokensGiven,
      hpeek]
  have hpass : arbPass mem [f * 64 + ring] (tokensGiven f ring s) = (halt f cause ring op (s.ring f ring).f (tokensGiven f ring s), false) := by
    rw [arbPass_one hring, visitRing, hvisit]
    rfl
  rw [exec_arbitrationRound hrun hkeys, giveTokens_one hring, arbLoop, hpass]
  rfl

/-- A halt record, field by field. -/
theorem haltRecord_iff {v : Func} {count : Nat} : v.haltRecord = (true, cause, ring, op, count) ↔
    v.halted = true ∧ v.haltCause = cause ∧ v.haltRing = ring ∧ v.haltOpcode = op ∧ v.haltCount = count := by
  simp only [Func.haltRecord, Prod.mk.injEq]

theorem finishCtx_items (c : Ctx) (comp : Completion) (s : State) : (finishCtx c comp s).ts.items = s.ts.items := by
  unfold finishCtx writeCompletion countDiscard
  simp only []
  split
  · split <;> simp [State.updRing, State.setRing, freeCtx, releaseHolds]
  · split <;> rfl

end

/-- Settles O5: a round of one eligible ring by the visit of that ring, a halt by its record, a completion by `delivered_finishCtx`. -/
theorem ringsFetchAndFinish : Obligations.RingsFetchAndFinish := by
  refine ⟨fun f ring value s hr hh hen hok => exec_doorbellWrite_accepted hr hh hen hok,
    fun f ring value s hr hh hen hno => ?doorbell, fun f ring value s hr h => exec_doorbellWrite_ignored hr h,
    fun mem s hrun hkeys => ?nothing,
    fun mem f ring e row s hrun ⟨hkeys, hring, hel⟩ ⟨hpeek, hone⟩ hpos ⟨hfree, hrow, href, hnow⟩ => ?entry,
    fun mem f ring cause op s hrun ⟨hkeys, hring, hel⟩ hpeek hpos => ?bad,
    fun f ring len s ⟨hrun, hopen⟩ ⟨hen, hdr⟩ ⟨hh, hm⟩ ⟨hmin, hmax, hd⟩ hfit => ?pad,
    fun f ring n k notify send rest s hrun ⟨hrunOf, hne⟩ hsend => ?head,
    fun f ring s hrun hdue => (onMain_running hrun _).trans (if_pos hdue),
    fun id x s hrun hx ⟨hby, hpast, hlift⟩ hphase => ?expired⟩
  case doorbell =>
    obtain ⟨hrec, hev⟩ := halt_makes_record hh 7 ring 0 (value % 2 ^ 32)
    obtain ⟨h1, h2, h3, h4, h5⟩ := haltRecord_iff.mp hrec
    exact answers_next (exec_doorbellWrite_refused hr hh hen hno) ⟨h1, h2, h3, h4, h5, hev⟩
  case nothing => exact exec_arbitrationRound hrun hkeys
  case entry =>
    refine answers_next (exec_arbitrationRound_entry hrun hkeys hring hel hpeek hone hpos hfree hrow href hnow)
      ⟨ring_ringServed hrow href hnow, ringServed_ctxs hrow href hnow, ?_⟩
    rw [ringServed_ts]
    exact acceptEntry_ts (ring := ring) hrow (s := tokensGiven f ring s) href hnow
  case bad =>
    obtain ⟨hrec, hev⟩ := halt_makes_record (s := tokensGiven f ring s)
      (by rw [func_tokensGiven]; exact eligible_not_halted hel) cause ring op (s.ring f ring).f
    obtain ⟨h1, h2, h3, h4, h5⟩ := haltRecord_iff.mp hrec
    refine answers_next (exec_arbitrationRound_bad hrun hkeys hring hel hpeek hpos) ?_
    exact ⟨h1, h2, h3, h4, h5, hev⟩
  case pad =>
    refine answers_next ((onMain_running hrun _).trans (if_pos ?_)) ⟨?_, ?_⟩
    · simp [hopen, hen, hdr, hh, hm, hmin, hmax, hd, hfit]
    · rw [passPad, ring_updRing_self, (OnlySends.emitHost ..).ring]
    · rw [passPad, emitHost_masters hm]
      rfl
  case head =>
    subst hsend
    refine (onMain_running hrun _).trans ?_
    simp only [hrunOf, if_neg hne]
    split <;> rfl
  case expired =>
    refine answers_next (t := finishCtx x (bare (if x.phase = .held ∧ x.angle = none then stEntropyNotReady else stDeadlineMissed))
      (dropCtxItems id s)) ((onMain_running hrun _).trans ?_) ⟨?_, finishCtx_items ..⟩
    · simp only [hx]
      exact if_pos ⟨hby, hpast, hlift, hphase⟩
    · exact delivered_finishCtx x _ (dropCtxItems id s)

end Sys2Proof.Machine

/-! ### The archive's records, checkpoints, summaries and windows -/

namespace Sys2Proof.Machine

section
variable {st : Staged} {l : Nat} {s : State}

/-- The governor's check changes of the archive its level, its account and what is staged. -/
theorem governorCheck_arc (s : State) : ∃ level check staging bytes, (governorCheck s).arc =
    { s.arc with govLevel := level, sinceCheck := check, staging := staging, eventBytes := bytes } := by
  have hchange (n : Nat) (x : State) : ∃ staging bytes, (governorChange n x).arc =
      { x.arc with govLevel := n, staging := staging, eventBytes := bytes } := by
    simp only [governorChange, raiseEvent_frame]
    exact ⟨_, _, rfl⟩
  unfold governorCheck
  split
  · exact ⟨_, _, _, _, rfl⟩
  simp only []
  split
  · exact ⟨_, _, _, _, rfl⟩
  split
  · obtain ⟨staging, bytes, h⟩ := hchange _ _
    rw [h]
    exact ⟨_, _, _, _, rfl⟩
  · obtain ⟨staging, bytes, h⟩ := hchange _ _
    obtain ⟨staging', bytes', h'⟩ := hchange _ _
    rw [h, h']
    exact ⟨_, _, _, _, rfl⟩

theorem log_governorCheck (s : State) (l : Nat) : (governorCheck s).arc.log l = s.arc.log l := by
  obtain ⟨level, check, staging, bytes, h⟩ := governorCheck_arc s
  rw [h]
  rfl

theorem cpSeq_governorCheck (s : State) : (governorCheck s).arc.cpSeq = s.arc.cpSeq := by
  obtain ⟨level, check, staging, bytes, h⟩ := governorCheck_arc s
  rw [h]

@[simp] theorem log_setLog (a : Arc) (l : Nat) (v : LogState) : (a.setLog l v).log l = v := by
  unfold Arc.setLog Arc.log
  split
  · rfl
  split <;> rfl

/-- A log with room has an open zone. -/
theorem openZone_of_room {typ flags units : Nat} (h : hasRoom l typ flags units s = true) :
    ∃ zn z, (s.arc.log l).openZone = some zn ∧ Tbl.find? zn s.arc.zones = some z := by
  simp only [hasRoom, zoneLeft, Bool.and_eq_true, Option.any_eq_true, Option.bind_eq_some_iff] at h
  obtain ⟨⟨z, ⟨zn, hopen, hz⟩, _⟩, _⟩ := h
  exact ⟨zn, z, hopen, hz⟩

/-- The record of a staged one as it is written into its log (R237). -/
def recordOf (st : Staged) (s : State) : Record :=
  signRecord s.ak
    { typ := st.typ, units := unitsFor (recBytes st.body), log := st.log, owner := st.owner, quality := st.quality, flags := st.flags,
      seq := (s.arc.log st.log).seq + 1, stamp := st.stamp, bodyLen := recBytes st.body - 32, body := st.body }

/-- A record that is written is the newest of its log, with the next SEQ, and continues the chain (R237, R245). -/
theorem writeRec_log {zn : Nat} {z : Zone} (hopen : (s.arc.log st.log).openZone = some zn) (hz : Tbl.find? zn s.arc.zones = some z) :
    ((writeRec st s).arc.log st.log).seq = (s.arc.log st.log).seq + 1 ∧
      ((writeRec st s).arc.log st.log).records = recordOf st s :: (s.arc.log st.log).records ∧
      ((writeRec st s).arc.log st.log).chain = chainNext (s.arc.log st.log).chain (recordOf st s) := by
  have hlog : (writeRec st s).arc.log st.log = { s.arc.log st.log with
      seq := (s.arc.log st.log).seq + 1, chain := chainNext (s.arc.log st.log).chain (recordOf st s)
      records := recordOf st s :: (s.arc.log st.log).records } := by
    simp only [writeRec, hopen, hz]
    exact log_setLog s.arc st.log _
  rw [hlog]
  exact ⟨rfl, rfl, rfl⟩

theorem keepsStaged_writeRec (st : Staged) (s : State) : KeepsStaged s (writeRec st s) := by
  unfold writeRec
  simp only []
  split
  · exact .refl s
  split
  · exact .refl s
  · refine .of_staging ?_
    simp only [countNand, Arc.setLog]
    split
    · rfl
    split <;> rfl

/-- Appending to a log with room writes the record into it. -/
theorem appendRecord_log (h : hasRoom st.log st.typ st.flags (unitsFor (recBytes st.body)) s = true) (l : Nat) :
    (appendRecord st s).arc.log l = (writeRec st s).arc.log l ∧ KeepsStaged s (appendRecord st s) := by
  have hroom : roomFor st s = some s := by rw [roomFor, if_pos h]
  have hcheck : KeepsStaged s (governorCheck (writeRec st s)) := (keepsStaged_writeRec st s).trans (keepsStaged_governorCheck _)
  simp only [appendRecord, hroom]
  split
  · simp only [KeepsStaged, raiseEvent_frame]
    exact ⟨log_governorCheck _ l, hcheck⟩
  split
  · exact ⟨log_governorCheck _ l, hcheck⟩
  · exact ⟨log_governorCheck _ l, hcheck⟩

theorem cpSeq_writeRec (st : Staged) (s : State) : (writeRec st s).arc.cpSeq = s.arc.cpSeq := by
  unfold writeRec
  simp only []
  split
  · rfl
  split
  · rfl
  · simp only [countNand, Arc.setLog]
    split
    · rfl
    split <;> rfl

theorem execRecordAppend_staged {rest : List Staged} (hready : s.arc.ready = true) (hst : s.arc.staging = st :: rest)
    (hroom : hasRoom st.log st.typ st.flags (unitsFor (recBytes st.body)) s = true) (hrun : s.running = true) :
    Answers .recordAppend s (fun t => rest <+: t.arc.staging ∧ (t.arc.log st.log).seq = (s.arc.log st.log).seq + 1 ∧
      (t.arc.log st.log).records = recordOf st s :: (s.arc.log st.log).records ∧
      (t.arc.log st.log).chain = chainNext (s.arc.log st.log).chain (recordOf st s)) := by
  let x : State := { s with arc := { s.arc with
    staging := rest
    eventBytes := if st.log = 0 then s.arc.eventBytes - recSize st.body else s.arc.eventBytes
    captureBytes := if st.log = 0 then s.arc.captureBytes else s.arc.captureBytes - recSize st.body } }
  have hexec : exec .recordAppend s = .next (appendRecord st x) := by
    refine (onMain_running hrun _).trans ?_
    rw [if_neg (by simp [hready]), hst]
  have hroom' : hasRoom st.log st.typ st.flags (unitsFor (recBytes st.body)) x = true := hroom
  obtain ⟨hlog, hkeep⟩ := appendRecord_log hroom' st.log
  obtain ⟨zn, z, hopen, hz⟩ := openZone_of_room hroom'
  obtain ⟨hseq, hrecords, hchain⟩ := writeRec_log hopen hz
  refine ⟨_, hexec, hkeep, ?_⟩
  rw [hlog]
  exact ⟨hseq, hrecords, hchain⟩

/-- The CHECKPOINT record that is appended now (R246). -/
def checkpointStaged (s : State) : Staged :=
  { moduleRec 1 (.checkpoint (checkpointNow s)) s with flags := 0 }

/-- With room in the event log a checkpoint is written as the next record of it, under the next CP_SEQ (R246). -/
theorem appendCheckpoint_of_room (h : hasRoom 0 1 0 6 s = true) : appendCheckpoint false false false s =
    governorCheck (writeRec (checkpointStaged s) { s with arc := { s.arc with cpSeq := s.arc.cpSeq + 1, cpAt := s.sck.rtcCount } }) := by
  have hroom : roomFor (checkpointStaged s) s = some s := by
    have hunits : unitsFor (recBytes (checkpointStaged s).body) = 6 := by simp [checkpointStaged, moduleRec, recBytes, unitsFor]
    rw [roomFor, hunits]
    exact if_pos h
  simp only [checkpointStaged] at hroom
  simp only [appendCheckpoint, cpFlags, b2n, Bool.false_eq_true, if_false, Nat.mul_zero, Nat.add_zero, hroom]
  rfl

theorem rtcSet_valid (h : s.sck.valid = true) :
    (ppsEdge (rtcSet s)).sck.rtcNs = s.sck.now ∧ (ppsEdge (rtcSet s)).sck.rtcLost = false := by
  have hset : rtcSet s = { s with sck := { s.sck with rtcNs := s.sck.now, rtcSetCount := s.sck.rtcCount, rtcLost := false } } := if_pos h
  rw [hset, ppsEdge]
  split <;> exact ⟨rfl, rfl⟩

theorem execCheckpoint_boundary (hrun : s.running = true) (hsec : s.sck.now % 1000000000 = 0) (hready : s.arc.ready = true) :
    exec .checkpoint s = .next (ppsEdge (rtcSet (appendCheckpoint false false false s))) := by
  have hsecond : isSecond s.sck.now = true := by simp [isSecond, nsPerSec, hsec]
  refine (onMain_running hrun _).trans ?_
  rw [if_pos hsecond, if_pos hready]

/-- The event log after a checkpoint that found room: its newest record is the checkpoint. -/
theorem appendCheckpoint_log (h : hasRoom 0 1 0 6 s = true) :
    (appendCheckpoint false false false s).arc.cpSeq = s.arc.cpSeq + 1 ∧
      (appendCheckpoint false false false s).arc.log0.seq = s.arc.log0.seq + 1 ∧
      (appendCheckpoint false false false s).arc.log0.records = recordOf (checkpointStaged s) s :: s.arc.log0.records := by
  let x : State := { s with arc := { s.arc with cpSeq := s.arc.cpSeq + 1, cpAt := s.sck.rtcCount } }
  have hroom : hasRoom 0 1 0 6 x = true := h
  obtain ⟨zn, z, hopen, hz⟩ := openZone_of_room hroom
  obtain ⟨hseq, hrecords, -⟩ := writeRec_log (st := checkpointStaged s) (s := x) hopen hz
  have hlog := log_governorCheck (writeRec (checkpointStaged s) x) 0
  rw [appendCheckpoint_of_room h]
  refine ⟨(cpSeq_governorCheck _).trans (cpSeq_writeRec _ _), ?_, ?_⟩
  · exact (congrArg LogState.seq hlog).trans hseq
  · exact (congrArg LogState.records hlog).trans hrecords

/-- Settles O1: a record with room is written by `writeRec`, a checkpoint is such a record, and the windows and summaries stage theirs. -/
theorem archiveRecordsAndWindows : Obligations.ArchiveRecordsAndWindows := by
  refine ⟨fun st rest s hrun hready hst hroom => ?recordAppend, fun s hrun hsec hready hroom => ?checkpoint,
    fun entry cause x s hrun hfind hended => ?summaryClose, fun number w s hrun hfwd hfind hopened hstart hfinish => ?windowOpen,
    fun number w s hrun hfind hopened hfinish hwaits => ?windowClose, fun k s hrun hhours hk => ?budgetHourRoll⟩
  case recordAppend =>
    obtain ⟨t, hexec, hkeep, hseq, hrecords, hchain⟩ := execRecordAppend_staged hready hst hroom hrun
    exact ⟨t, hexec, hkeep, hseq, recordOf st s, rfl, hrecords, hchain⟩
  case checkpoint =>
    obtain ⟨hcp, hseq, hrecords⟩ := appendCheckpoint_log hroom
    refine ⟨_, execCheckpoint_boundary hrun hsec hready, ?_, ?_, fun hvalid => ?_, recordOf (checkpointStaged s) s, checkpointNow s, _, ?_, rfl, rfl,
      rfl, rfl, rfl, rfl, rfl⟩
    · simpa only [ppsEdge_frame, rtcSet_frame] using hcp
    · simpa only [ppsEdge_frame, rtcSet_frame] using hseq
    · have hsck : (appendCheckpoint false false false s).sck = s.sck := by simp
      have hset := rtcSet_valid (s := appendCheckpoint false false false s) (by rw [hsck]; exact hvalid)
      rwa [hsck] at hset
    · simpa only [ppsEdge_frame, rtcSet_frame] using hrecords
  case summaryClose =>
    have hexec : exec (.summaryClose entry cause) s = .next (writeSummary x { s with arc := { s.arc with
        summaries := s.arc.summaries.filter (fun y => !(y.entry == entry && y.cause == cause)) } }) := by
      refine (onMain_running hrun _).trans ?_
      rw [hfind]
      exact if_pos hended
    exact answers_next hexec ⟨rfl, rfl⟩
  case windowOpen =>
    have hexec : exec (.windowOpen number) s = .next (windowRec { w with opened := true } 0
        { s with arc := { s.arc with windows := setWindow { w with opened := true } s.arc.windows } }) := by
      refine (onMain_running hrun _).trans ?_
      rw [hfind]
      simp only [hopened, hfwd, Bool.false_or, Bool.true_eq_false, if_false]
      rw [if_neg (by simpa using hstart), if_neg (by omega)]
    exact answers_next hexec ⟨rfl, rfl⟩
  case windowClose =>
    have hexec : exec (.windowClose number) s = .next (windowRec w 1 (dropWindow number s)) := by
      refine (onMain_running hrun _).trans ?_
      rw [hfind]
      exact if_pos (by simp [hopened, hwaits, hfinish])
    exact answers_next hexec ⟨rfl, rfl⟩
  case budgetHourRoll =>
    refine (onMain_running hrun _).trans ?_
    have hdiff : rtcHours s - s.arc.hourIndex = k + 1 := by
      rw [rtcHours, hhours]
      omega
    simp only [hdiff, Nat.add_one_ne_zero, if_false, if_neg (show ¬ k + 1 > 720 by omega)]
    rw [rtcHours, hhours]
    rfl

end

end Sys2Proof.Machine

/-! ### The queue manager, the delay lists and the settings of core groups -/

namespace Sys2Proof.Machine

section
variable {s : State}

/-- A security record that a step stages last is stamped as it would be at the step's beginning. -/
theorem securityRec_staging {t : State} (hsck : t.sck = s.sck) (harc : t.arc = s.arc) (what a b c : Nat) :
    (securityRec what a b c t).arc.staging = s.arc.staging ++ [securityNow what a b c s] := by
  simp only [securityRec, stageRec, stageWith, securityNow, recNow, State.quality, hsck, harc]

@[simp] theorem makeReady_queues (kind : WorkKind) (group : Nat) (s : State) : (makeReady kind group s).ts.queues = s.ts.queues := rfl

@[simp] theorem queue_setQueue_self (q : Nat) (v : Queue) (s : State) : (s.setQueue q v).queue q = v := Tbl.get_put_self ..

/-- The level test places work and raises an event; the queues stay. -/
theorem levelCross_queues (q before : Nat) (s : State) : (levelCross q before s).ts.queues = s.ts.queues := by
  unfold levelCross
  simp only []
  split
  · cases queueGroup q <;> simp only [] <;> split <;> simp
  · rfl

theorem levelCross_queue (q before : Nat) (s : State) : (levelCross q before s).queue q = s.queue q := by
  simp only [State.queue, levelCross_queues]

/-- Queues 0 to 12 have a consumer group, the others none (Table 13-3). -/
theorem queueGroup_isSome_iff (q : Nat) : (queueGroup q).isSome = decide (q ≤ 12) := by
  unfold queueGroup
  split
  · simp; omega
  split
  · simp; omega
  · simp; omega

/-- An accepted packet joins the tail of its queue, with a work item where the queue has a group. -/
theorem qmPut_packets (q : Nat) (p : Packet) (s : State) (hp : p.item = none) : ((qmPut q p s).queue q).packets =
    (s.queue q).packets ++ [{ p with item := if q ≤ 12 then some s.ts.nextItem else none }] := by
  have hsome := queueGroup_isSome_iff q
  unfold qmPut
  cases hg : queueGroup q with
  | some g =>
    have hle : q ≤ 12 := by simpa [hg] using hsome
    simp only []
    rw [levelCross_queue, if_pos hle]
    exact congrArg Queue.packets (queue_setQueue_self ..)
  | none =>
    have hle : ¬ q ≤ 12 := by simpa [hg] using hsome
    simp only []
    rw [levelCross_queue, queue_setQueue_self, if_neg hle, ← hp]

/-- A read delivers at most 64 bytes, or what is left. -/
theorem unitCount_eq_min (n : Nat) : (if n < 64 then n else 64) = min 64 n := by
  split <;> omega

theorem eop_iff (len pos : Nat) : decide (len ≤ pos + min 64 (len - pos)) = decide (len ≤ pos + 64) := by
  rw [decide_eq_decide]
  omega

/-- The unit that a read of a packet delivers (R541, Table 13-4). -/
def unitOf (p : Packet) : ReadUnit :=
  { data := (p.data.drop p.readPos).take (min 64 (p.len - p.readPos)) ++
      List.replicate (64 - ((p.data.drop p.readPos).take (min 64 (p.len - p.readPos))).length) 0
    count := min 64 (p.len - p.readPos)
    sop := p.readPos == 0
    eop := decide (p.len ≤ p.readPos + 64) }

/-- The packet after that read. -/
def readOn (p : Packet) : Packet := { p with started := true, readPos := p.readPos + min 64 (p.len - p.readPos) }

theorem exec_qmRead_chunk {queue i : Nat} {p : Packet} (hrun : s.running = true)
    (hread : readIndex (s.queue queue).packets 0 = some (i, p)) (hlost : p.lostAt = none) :
    ∃ t, exec (.qmRead queue) s = .next t ∧ t.ts.lastUnit = unitOf p ∧
      t.queue queue = { s.queue queue with packets := (s.queue queue).packets.set i (readOn p) } := by
  rw [exec_qmRead, execQmRead, onMain_running hrun]
  simp only [hread, hlost, unitCount_eq_min, eop_iff, Bool.false_eq_true, if_false]
  exact ⟨_, rfl, rfl, by simp [State.queue, State.setQueue, setPacket, readOn, hlost]⟩

theorem mem_delay {t : Ts} {i : Nat} {e : DelayEntry} (h : e ∈ t.delay i) : e ∈ t.delay0 ++ t.delay1 ++ t.delay2 ++ t.delay3 := by
  unfold Ts.delay at h
  simp only [List.mem_append]
  split at h
  · exact .inl (.inl (.inl h))
  split at h
  · exact .inl (.inl (.inr h))
  split at h
  · exact .inl (.inr h)
  · exact .inr h

/-- Nothing is due on the lists, so a tick releases nothing. -/
theorem releaseDue_none (h : ∀ e ∈ s.ts.delay0 ++ s.ts.delay1 ++ s.ts.delay2 ++ s.ts.delay3, s.sck.now < e.due) : releaseDue s = s := by
  have hlist (i : Nat) : ∀ e ∈ s.ts.delay i, s.sck.now < e.due := fun e he => h e (mem_delay he)
  have hpick (i : Nat) : (if s.ts.rebuilding.contains i then [] else (s.ts.delay i).filter (fun e => decide (e.due ≤ s.sck.now))) = [] := by
    split
    · rfl
    · refine List.filter_eq_nil_iff.mpr fun e he => ?_
      have := hlist i e he
      simp only [decide_eq_true_eq]
      omega
  have hdue : dueEntries s = [] := by
    simp only [dueEntries, hpick]
    rfl
  simp only [releaseDue, hdue]
  rfl

@[simp] theorem delay_setDelay_self (t : Ts) (i : Nat) (l : List DelayEntry) : (t.setDelay i l).delay i = l := by
  unfold Ts.setDelay Ts.delay
  split
  · simp
  split
  · simp_all
  split <;> simp_all

/-- The lists after one of them has been replaced hold nothing but what they held and what the new one holds. -/
theorem mem_setDelay {t : Ts} {i : Nat} {l : List DelayEntry} {e : DelayEntry}
    (h : e ∈ (t.setDelay i l).delay0 ++ (t.setDelay i l).delay1 ++ (t.setDelay i l).delay2 ++ (t.setDelay i l).delay3) :
    e ∈ t.delay0 ++ t.delay1 ++ t.delay2 ++ t.delay3 ∨ e ∈ l := by
  unfold Ts.setDelay at h
  simp only [List.mem_append] at h ⊢
  split at h
  · grind
  split at h
  · grind
  split at h <;> grind

/-- A context in flight that is delayed and stands on no list: an error has lost its entry (R551). -/
def lostDelays (s : State) : List Ctx :=
  s.hif.ctxs.filter (fun c => c.phase == .delayed && !c.lifted &&
    !(s.ts.delay0 ++ s.ts.delay1 ++ s.ts.delay2 ++ s.ts.delay3).any (fun e => e.ctx == c.id))

/-- The lists with the lost entries put back, the list in use again (R551). -/
def rebuiltDelays (list : Nat) (s : State) : Ts :=
  { s.ts.setDelay list (s.ts.delay list ++ (lostDelays s).map fun c => { due := stampNs c.hdr.notBefore, seq := c.dseq, ctx := c.id }) with
    rebuilding := s.ts.rebuilding.filter (· != list) }

theorem exec_delayListRebuild {list : Nat} (hrun : s.running = true) (hlist : s.ts.rebuilding.contains list = true)
    (hlost : (lostDelays s).all (fun c => decide (s.sck.now < stampNs c.hdr.notBefore)) = true)
    (hlater : (s.ts.delay0 ++ s.ts.delay1 ++ s.ts.delay2 ++ s.ts.delay3).all (fun e => decide (s.sck.now < e.due)) = true) :
    exec (.delayListRebuild list) s = .next (securityRec secDelayRebuilt list (lostDelays s).length 0
      (raiseEvent .ts 0 4 { s with ts := rebuiltDelays list s })) := by
  have hexec : exec (.delayListRebuild list) s = .next (releaseDue (securityRec secDelayRebuilt list
      ((lostDelays s).map fun c => ({ due := stampNs c.hdr.notBefore, seq := c.dseq, ctx := c.id } : DelayEntry)).length 0
      (raiseEvent .ts 0 4 { s with ts := rebuiltDelays list s }))) := by
    refine (onMain_running hrun _).trans ?_
    rw [if_pos hlist]
    rfl
  rw [hexec, releaseDue_none, List.length_map]
  intro e he
  simp only [securityRec_frame, raiseEvent_frame] at he ⊢
  have hall : ∀ e ∈ s.ts.delay0 ++ s.ts.delay1 ++ s.ts.delay2 ++ s.ts.delay3, s.sck.now < e.due :=
    fun e he => of_decide_eq_true (List.all_eq_true.mp hlater e he)
  rcases mem_setDelay (t := s.ts) (i := list) he with hold | hnew
  · exact hall e hold
  rcases List.mem_append.mp hnew with hold | hback
  · exact hall e (mem_delay hold)
  · obtain ⟨c, hc, rfl⟩ := List.mem_map.mp hback
    exact of_decide_eq_true (List.all_eq_true.mp hlost c hc)

end

/-- Settles O2: a packet by `qmPut`, a read unit by its chunk, a rebuilt list by the entries that stood on none. -/
theorem queuesAndDelayLists : Obligations.QueuesAndDelayLists := by
  refine ⟨fun queue port data s hrun hfits => ?put, fun queue port data s hrun hfull => ?full,
    fun queue i p s hrun hread hlost => ?read, fun queue s hrun hnone => exec_qmRead_idle hrun hnone,
    fun queue i p s hrun hread hstarted => ?drop, fun list lost s hrun hlist hlost hall hlater => ?rebuild,
    fun core value s hr hcore hserved hphase => ?groups, fun core value s hr hcore hunserved => ?refused⟩
  case put =>
    refine ⟨_, (onMain_running hrun _).trans (if_pos hfits), ?_⟩
    exact qmPut_packets queue _ s rfl
  case full =>
    refine (onMain_running hrun _).trans ?_
    rw [if_neg (by simp [hfull])]
    split <;> rfl
  case read =>
    obtain ⟨t, hexec, hunit, hqueue⟩ := exec_qmRead_chunk hrun hread hlost
    refine answers_next hexec ?_
    simp only [hunit, hqueue]
    exact ⟨rfl, rfl, rfl, rfl, rfl, rfl⟩
  case drop =>
    refine (onMain_running hrun _).trans ?_
    simp only [hread]
    exact if_pos hstarted
  case rebuild =>
    subst hlost
    refine answers_next (exec_delayListRebuild hrun hlist hall hlater) ?_
    refine ⟨by simp [rebuiltDelays], ?_, ?_, ?_⟩
    · simp only [securityRec_frame, raiseEvent_frame]
      exact delay_setDelay_self s.ts list _
    · exact event_raiseEvent_self ..
    · exact securityRec_staging (by simp) (by simp) ..
  case groups =>
    refine (viaBar_reaches hr _).trans ?_
    rw [if_neg (by omega), if_pos hserved]
    exact congrArg _ (if_neg hphase)
  case refused =>
    refine (viaBar_reaches hr _).trans ?_
    rw [if_neg (by omega), if_neg (by rw [hunserved]; simp)]

end Sys2Proof.Machine

/-! ### The cores: work given, committed and given back -/

namespace Sys2Proof.Machine

section
variable {s t : State} {core g : Nat} {i : WorkItem}

/-- A completion depends on the host state and on what has been sent, and on nothing else of where it began. -/
theorem Delivered.of_host {c : Ctx} {comp : Completion} {s1 : State} (h : Delivered c comp s1 t) (hhif : s1.hif = s.hif)
    (hout : s1.out = s.out) : Delivered c comp s t := by
  simpa only [Delivered, State.ring, State.func, hhif, hout] using h

@[simp] theorem coreRt_setCore_self (v : CoreRt) (s : State) : (s.setCore core v).coreRt core = v := Tbl.get_put_self ..

/-! #### Items -/

theorem putItem_find {x y : WorkItem} {id : Nat} (hid : y.id = id) {l : List WorkItem} (hx : l.find? (fun i => i.id == id) = some x) :
    (putItem y l).find? (fun i => i.id == id) = some y := by
  induction l with
  | nil => simp at hx
  | cons z l ih =>
    unfold putItem
    by_cases hz : z.id = id
    · rw [if_pos (by rw [hz, hid]), List.find?_cons_of_pos (by simpa using hid)]
    · rw [if_neg (by rw [hid]; exact hz), List.find?_cons_of_neg (by simpa using hz)]
      exact ih (by rwa [List.find?_cons_of_neg (by simpa using hz)] at hx)

theorem item?_id {id : Nat} (h : s.item? id = some i) : i.id = id := by simpa using List.find?_some h

theorem item?_dropItem (id : Nat) (s : State) : (dropItem id s).item? id = none := by
  simp [State.item?, dropItem]

theorem item?_of_items {id : Nat} (h : t.ts.items = s.ts.items) : t.item? id = s.item? id := by
  simp only [State.item?, h]

/-! #### Dispatch -/

theorem refillCredit_credit {n : Nat} (h : g < n) : (refillCredit n s).credit g = s.groupWeight g := by
  have hrw : ∀ m, (refillCredit m s).rw = s.rw := by
    intro m
    induction m with
    | zero => rfl
    | succ m ih => exact ih
  induction n with
  | zero => omega
  | succ n ih =>
    by_cases hg : g = n
    · subst hg
      have hput : (refillCredit (g + 1) s).credit g = (refillCredit g s).groupWeight g := Tbl.get_put_self ..
      rw [hput]
      simp only [State.groupWeight, State.groupCfg, hrw]
    · have hput : (refillCredit (n + 1) s).credit g = (refillCredit n s).credit g := Tbl.get_put_other _ _ _ _ _ hg
      exact hput.trans (ih (by omega))

/-- The state in which a waiting core looks for work: the credits set to the weights where every candidate has none (R526). -/
def creditsFor (core : Nat) (s : State) : State := if creditOut s core 16 then refillCredit 14 s else s

theorem creditsFor_sck (core : Nat) (s : State) : (creditsFor core s).sck = s.sck := by
  unfold creditsFor
  split
  · simp
  · rfl

/-- Why the head item is not given to the core: a timed action out of time, or input that cannot be read (R426, R438, R469). -/
def dispatchEnds (readError : Bool) (i : WorkItem) (s : State) : Option (Ctx × Nat) :=
  (match i.kind with
    | .ctx id => (s.ctx? id).bind fun c => (dispatchRefusal s c).map fun code => (c, code)
    | _ => none) <|>
  (match i.kind with
    | .ctx id => (s.ctx? id).filter fun (c : Ctx) => readError && decide (0 < c.hdr.inLen) && c.hdr.notBefore == 0
    | _ => none).map (fun (c : Ctx) => (c, stAborted))

/-- A waiting core in service takes the head of the group found, or ends it. -/
theorem exec_workDispatch {b : Bool} (hrun : s.running = true ∧ s.regionOff 4 = false)
    (hcore : (s.coreRt core).st = .waiting ∧ (s.coreRt core).halted = false ∧ (s.coreRt core).testing = false)
    (hgroup : searchGroup (creditsFor core s) core (((creditsFor core s).ts.lastGroup + 1) % 16) 16 = some g)
    (hhead : groupHead (creditsFor core s) g = some i) : exec (.workDispatch core b) s =
      match dispatchEnds b i (creditsFor core s) with
      | some (c, code) => .next (finishCtx c (bare code) (dropItem i.id (serveGroup g (creditsFor core s))))
      | none => .next (giveItem core g i (serveGroup g (creditsFor core s))) := by
  obtain ⟨hwait, hhalt, htest⟩ := hcore
  refine (onMain_running hrun.1 _).trans ?_
  rw [if_neg (by simp [hwait, hhalt, htest, hrun.2])]
  simp only [creditsFor] at hgroup hhead ⊢
  simp only [hgroup, hhead] <;> rfl

/-- What a core that is given an item holds: the lease begins now, under the item's next epoch. -/
theorem giveItem_given (core g : Nat) (i : WorkItem) (s : State) :
    (giveItem core g i s).coreRt core = { s.coreRt core with st := .running, group := g, item := some i.id, leaseAt := s.sck.now } ∧
    (giveItem core g i s).ts.lastGroup = s.ts.lastGroup ∧ (giveItem core g i s).ts.credit = s.ts.credit ∧
    Tbl.get [] (giveItem core g i s).ts.ready g = (Tbl.get [] s.ts.ready g).filter (· != i.id) ∧
    (giveItem core g i s).ts.items = putItem { i with epoch := (i.epoch + 1) % 2 ^ 32, core := some core } s.ts.items := by
  unfold giveItem
  simp only []
  split
  · split
    · exact ⟨Tbl.get_put_self .., rfl, rfl, Tbl.get_put_self .., rfl⟩
    · exact ⟨Tbl.get_put_self .., rfl, rfl, Tbl.get_put_self .., rfl⟩
  · exact ⟨Tbl.get_put_self .., rfl, rfl, Tbl.get_put_self .., rfl⟩

/-- An item that is not given to the core leaves the lists, and its operation finishes. -/
theorem ended_delivered {c : Ctx} {code : Nat} : Delivered c { code } s (finishCtx c (bare code) (dropItem i.id (serveGroup g s))) :=
  (delivered_finishCtx c (bare code) _).of_host rfl rfl

theorem ended_item {c : Ctx} {code : Nat} : (finishCtx c (bare code) (dropItem i.id (serveGroup g s))).item? i.id = none :=
  (item?_of_items (finishCtx_items ..)).trans (item?_dropItem ..)

theorem dispatchRefusal_timed {c : Ctx} {code : Nat} (htimed : c.hdr.notBefore ≠ 0 ∧ (c.hdr.opcode = 0x0802 ∨ c.hdr.opcode = 0x0609))
    (hcode : if c.hdr.latenessTol ≠ 0xFFFFFFFF ∧ c.hdr.latenessTol < (s.sck.now - c.dueTick) / 1000 then code = 0x0401
      else (s.sck.valid = false ∧ code = 0x0402)) : dispatchRefusal s c = some code := by
  obtain ⟨hbefore, hop⟩ := htimed
  have haction : isTimedAction c.hdr.opcode = true := by simpa [isTimedAction] using hop
  unfold dispatchRefusal
  rw [if_neg (by simp [hbefore, haction])]
  by_cases hlate : c.hdr.latenessTol ≠ max32 ∧ lateness s c > c.hdr.latenessTol
  · rw [if_pos hlate]
    rw [if_pos (by simpa [max32, lateness] using hlate)] at hcode
    rw [hcode]
    rfl
  · rw [if_neg hlate]
    rw [if_neg (by simpa [max32, lateness] using hlate)] at hcode
    rw [if_pos hcode.1, hcode.2]
    rfl

/-! #### Commit -/

theorem exec_itemCommit_held {item epoch : Nat} (hrun : s.running = true) (hitem : s.item? item = some i)
    (hepoch : i.epoch = epoch) (hcore : i.core = some core) : exec (.itemCommit core item epoch) s =
      match i.kind with
      | .packet q => .next (freePacket q item (coreIdle core (dropItem item s)))
      | .ctx id =>
        match s.ctx? id with
        | none => .next (coreIdle core (dropItem item s))
        | some c =>
          match c.comp with
          | none => .next s
          | some comp => if c.dataPort then .next s else .next (finishCtx c comp (coreIdle core (dropItem item s)))
      | _ => .next (coreIdle core (dropItem item s)) := by
  have hctx (id : Nat) : (coreIdle core (dropItem item s)).ctx? id = s.ctx? id := by simp [State.ctx?]
  refine (onMain_running hrun _).trans ?_
  simp only [hitem]
  rw [if_neg (by simp [hepoch, hcore])]
  simp only [hctx] <;> rfl

theorem coreIdle_running (h : (s.coreRt core).st = .running) :
    coreIdle core s = s.setCore core { s.coreRt core with st := .waiting, item := none } := if_pos h

theorem freePacket_packets (q item : Nat) (s : State) :
    ((freePacket q item s).queue q).packets = (s.queue q).packets.filter (fun p => p.item != some item) :=
  congrArg Queue.packets (queue_setQueue_self q _ s)

theorem staleWrite_counts (core : Nat) (s : State) : (staleWrite core s).ts.items = s.ts.items ∧
    (staleWrite core s).ts.staleWrites = min 0xFFFFFFFF (s.ts.staleWrites + 1) := by
  have hcount : satTo max32 (s.ts.staleWrites + 1) = min 0xFFFFFFFF (s.ts.staleWrites + 1) := satTo_eq_min ..
  unfold staleWrite
  simp only []
  split <;> exact ⟨rfl, hcount⟩

/-! #### Failures -/

/-- An item that is given back stands at the head of its group under a raised epoch (R532, R533). -/
theorem redispatch_item {id : Nat} (hitem : s.item? id = some i) :
    (redispatch id s).ts.items = putItem { i with epoch := (i.epoch + 1) % 2 ^ 32, core := none, readyAt := s.sck.rtcCount } s.ts.items ∧
    (redispatch id s).ts.ready = Tbl.put i.group (id :: (Tbl.get [] s.ts.ready i.group).filter (· != id)) s.ts.ready ∧
    (redispatch id s).ts.redispatches = satTo max32 (s.ts.redispatches + 1) ∧ (redispatch id s).ts.cores = s.ts.cores := by
  unfold redispatch
  simp only [hitem]
  split
  · split
    · exact ⟨rfl, rfl, rfl, rfl⟩
    · exact ⟨rfl, rfl, rfl, rfl⟩
  · exact ⟨rfl, rfl, rfl, rfl⟩
  · exact ⟨rfl, rfl, rfl, rfl⟩

theorem failuresNow_of_sck (h : t.sck = s.sck) (v : CoreRt) : failuresNow t v = failuresNow s v := by
  unfold failuresNow rtcSeconds
  rw [h]

/-- A core that fails restarts, or leaves service at its third failure within the hour; of the scheduler nothing else changes (R536). -/
theorem failCore_ts (core : Nat) (retired : Option (Nat × Nat × Nat)) (decl rest : Nat) (s : State) :
    (failCore core retired decl rest s).ts = (s.setCore core { s.coreRt core with
      st := if 3 ≤ (failuresNow s (s.coreRt core)).length then .outOfService else .restarting
      item := none
      failures := failuresNow s (s.coreRt core)
      retired
      declared := min 255 ((s.coreRt core).declared + decl)
      restarts := min 255 ((s.coreRt core).restarts + rest) }).ts := by
  unfold failCore
  simp only [satTo_eq_min, decide_eq_true_eq]
  split
  · simp only [noteUnserved_frame, raiseEvent_frame]
  · rfl

theorem event_failCore {b : EvBlock} {f bit : Nat} (h : s.event b f bit = true) (core : Nat) (retired : Option (Nat × Nat × Nat))
    (decl rest : Nat) : (failCore core retired decl rest s).event b f bit = true := by
  unfold failCore
  simp only []
  split
  · unfold noteUnserved
    split
    · exact event_raiseEvent_mono (event_raiseEvent_mono h)
    · exact event_raiseEvent_mono h
  · exact h

theorem event_failure (core what : Nat) (s : State) :
    (securityRec what core 0 0 (failCore core none 0 1 (raiseEvent .ts 0 1 s))).event .ts 0 1 = true := by
  rw [event_of_ev_eq (securityRec_frame ..).2.2.2.2.2.2.2.2.2.2.2.2.2.2.2.2.2.1]
  exact event_failCore (event_raiseEvent_self ..) ..

/-- An item given back and its core's failure, whatever event is raised between. -/
theorem failCore_redispatch {id : Nat} (hitem : s.item? id = some i) (bit decl rest : Nat) (retired : Option (Nat × Nat × Nat))
    (ht : t.ts = (failCore core retired decl rest (raiseEvent .ts 0 bit (redispatch id s))).ts) :
    t.item? id = some { i with epoch := (i.epoch + 1) % 2 ^ 32, core := none, readyAt := s.sck.rtcCount } ∧
    Tbl.get [] t.ts.ready i.group = id :: (Tbl.get [] s.ts.ready i.group).filter (· != id) ∧
    t.ts.redispatches = min 0xFFFFFFFF (s.ts.redispatches + 1) ∧
    t.coreRt core = { s.coreRt core with
      st := if 3 ≤ (failuresNow s (s.coreRt core)).length then .outOfService else .restarting
      item := none
      failures := failuresNow s (s.coreRt core)
      retired
      declared := min 255 ((s.coreRt core).declared + decl)
      restarts := min 255 ((s.coreRt core).restarts + rest) } := by
  obtain ⟨hitems, hready, hcount, hcores⟩ := redispatch_item hitem
  have hrt : (raiseEvent .ts 0 bit (redispatch id s)).coreRt core = s.coreRt core := by
    simp only [State.coreRt, raiseEvent_frame, hcores]
  have hfails (v : CoreRt) : failuresNow (raiseEvent .ts 0 bit (redispatch id s)) v = failuresNow s v := 
    failuresNow_of_sck (by simp) v
  rw [failCore_ts, hrt, hfails] at ht
  refine ⟨?_, ?_, ?_, ?_⟩
  · simp only [State.item?, ht, State.setCore, raiseEvent_frame, hitems]
    refine putItem_find ?_ hitem
    have hid := item?_id hitem
    exact hid
  · simp only [ht, State.setCore, raiseEvent_frame, hready]
    exact Tbl.get_put_self ..
  · simp only [ht, State.setCore, raiseEvent_frame, hcount, satTo_eq_min]
    rfl
  · simp only [State.coreRt, ht, State.setCore]
    exact Tbl.get_put_self ..

end

/-- Settles O3: what becomes of the head item of the group found, and of an item that is committed. -/
theorem coresTakeAndCommitWork : Obligations.CoresTakeAndCommitWork := by
  refine ⟨fun core g i s s1 hrun hcore hs1 hgroup hhead hgood => ?given, fun g s hg => refillCredit_credit hg,
    fun core g id code i c b s s1 hrun hcore hs1 hfound hctx htimed hcode => ?late,
    fun core g id i c s s1 hrun hcore hs1 hfound hctx hinput => ?broken, fun core item epoch q i s hrun hitem hheld hst => ?packet,
    fun core item epoch id i x comp s hrun hitem hheld hctx hcomp => ?operation, fun core item epoch i s hrun hitem hepoch => ?stale⟩
  case given =>
    obtain rfl : s1 = creditsFor core s := hs1
    have hnone : dispatchEnds false i (creditsFor core s) = none := by
      cases hkind : i.kind with
      | ctx id =>
        cases hc : (creditsFor core s).ctx? id with
        | none => simp [dispatchEnds, hkind, hc]
        | some c => simp [dispatchEnds, hkind, hc, hgood id c hkind hc]
      | _ => simp [dispatchEnds, hkind]
    have hexec := exec_workDispatch (b := false) hrun hcore hgroup hhead
    rw [hnone] at hexec
    obtain ⟨hrt, hlast, hcredit, hready, hitems⟩ := giveItem_given core g i (serveGroup g (creditsFor core s))
    have hnow : (creditsFor core s).sck = s.sck := creditsFor_sck core s
    refine answers_next hexec ⟨by rw [hrt], by rw [hrt], by rw [hrt], ?_, hlast, ?_, hready, hitems⟩
    · rw [hrt]
      exact congrArg Sck.now hnow
    · simp only [State.credit, hcredit]
      exact Tbl.get_put_self ..
  case late =>
    obtain rfl : s1 = creditsFor core s := hs1
    have hends : dispatchEnds b i (creditsFor core s) = some (c, code) := by
      simp [dispatchEnds, hctx.1, hctx.2, dispatchRefusal_timed htimed hcode]
    have hexec := exec_workDispatch (b := b) hrun hcore hfound.1 hfound.2
    rw [hends] at hexec
    exact answers_next hexec ⟨ended_delivered, fun _ => ended_item⟩
  case broken =>
    obtain rfl : s1 = creditsFor core s := hs1
    have hends : dispatchEnds true i (creditsFor core s) = some (c, 0x0701) := by
      have hkept : dispatchRefusal (creditsFor core s) c = none := if_pos (.inl hinput.2)
      simp only [dispatchEnds, hctx.1, hctx.2, Option.bind_some, hkept, Option.map_none, Option.filter_some]
      rw [if_pos (by simp [hinput.1, hinput.2])]
      rfl
    have hexec := exec_workDispatch (b := true) hrun hcore hfound.1 hfound.2
    rw [hends] at hexec
    exact answers_next hexec ended_delivered
  case packet =>
    obtain ⟨hepoch, hcore, hkind⟩ := hheld
    have hexec := exec_itemCommit_held hrun hitem hepoch hcore
    rw [hkind] at hexec
    simp only [] at hexec
    have hidle : coreIdle core (dropItem item s) = _ := coreIdle_running hst
    rw [hidle] at hexec
    exact answers_next hexec ⟨item?_dropItem item s, freePacket_packets .., congrArg CoreRt.st (coreRt_setCore_self ..),
      congrArg CoreRt.item (coreRt_setCore_self ..)⟩
  case operation =>
    obtain ⟨hepoch, hcore, hkind⟩ := hheld
    have hexec := exec_itemCommit_held hrun hitem hepoch hcore
    simp only [hkind, hctx, hcomp.1, hcomp.2] at hexec
    exact answers_next hexec ((delivered_finishCtx x comp _).of_host (by simp) (by simp))
  case stale =>
    refine answers_next ((onMain_running hrun _).trans ?_) (staleWrite_counts core s)
    simp only [hitem]
    exact if_pos (Or.inl hepoch)

/-- Settles O4: an item given back by `redispatch`, a failure by `failCore`. -/
theorem coresFailAndReturn : Obligations.CoresFailAndReturn := by
  refine ⟨fun core id i s hrun hheld hitem hover => ?lease, fun core s hrun hst => ?back, fun core g e n s hrun hst hretired => ?declared,
    fun core id i s hrun hheld hitem => ?memory, fun core s hrun hst => ?waiting⟩
  case lease =>
    obtain ⟨hst, hid⟩ := hheld
    have hexec : exec (.leaseExpiry core) s = .next (failCore core (some ((s.coreRt core).group, i.epoch, 0)) 1 0
        (raiseEvent .ts 0 0 (redispatch id s))) := by
      refine (onMain_running hrun _).trans ?_
      simp only [hst, hid, hitem]
      exact if_pos (by simp [leaseOver, hover.1, hover.2])
    obtain ⟨hback, hready, hcount, hrt⟩ := failCore_redispatch hitem 0 1 0 _ rfl
    exact answers_next hexec ⟨hback, hready, hcount, event_failCore (event_raiseEvent_self ..) .., hrt⟩
  case back =>
    refine (onMain_running hrun _).trans ?_
    simp only [hst.1, hst.2, true_or, if_true]
  case declared =>
    refine (onMain_running hrun _).trans ?_
    simp only [if_pos hst, hretired]
    rcases hst with hst | hst
    · simp [hst]
    · simp [hst]
  case memory =>
    obtain ⟨hst, hid⟩ := hheld
    have hexec : exec (.coreMemoryError core) s = .next (securityRec secCoreRestart core 0 0 (failCore core none 0 1
        (raiseEvent .ts 0 1 (redispatch id s)))) := by
      refine (onMain_running hrun _).trans ?_
      simp only [coreError, hst, or_true, if_true, hid]
    obtain ⟨hback, hready, hcount, hrt⟩ := failCore_redispatch (t := securityRec secCoreRestart core 0 0 (failCore core none 0 1
        (raiseEvent .ts 0 1 (redispatch id s)))) hitem 1 0 1 none rfl
    refine answers_next hexec ⟨hback, hready, hcount, event_failure .., by simp, ?_, hrt⟩
    exact securityRec_staging (by simp) (by simp) ..
  case waiting =>
    obtain ⟨hst, hid⟩ := hst
    have hexec : exec (.coreMemoryError core) s = .next (securityRec secCoreRestart core 0 0 (failCore core none 0 1
        (raiseEvent .ts 0 1 s))) := by
      refine (onMain_running hrun _).trans ?_
      simp only [coreError, hst, true_or, if_true, hid]
    have hts := failCore_ts core none 0 1 (raiseEvent .ts 0 1 s)
    refine answers_next hexec ⟨event_failure .., ?_, ?_, securityRec_staging (by simp) (by simp) ..⟩
    · simp only [securityRec_frame, hts, State.setCore, raiseEvent_frame]
    · have hsck : (raiseEvent .ts 0 1 s).sck = s.sck := by simp
      simp only [State.coreRt, securityRec_frame, hts, State.setCore, Tbl.get_put_self, failuresNow_of_sck hsck, raiseEvent_frame]
      rfl

end Sys2Proof.Machine

/-! ### The slot clock: ticks, measurements, references and PTP -/

namespace Sys2Proof.Machine

section
variable {s : State} {old : Sck} {r : Nat}

/-! #### Notes of the recent past -/

/-- A note is made of the quality and validity from now on, and of nothing else. -/
theorem Sck.note_eq (k : Sck) : k.note = { k with past := k.note.past } := by
  unfold Sck.note
  simp only []
  split <;> rfl

@[simp] theorem Sck.note_frame (k : Sck) : k.note.now = k.now ∧ k.note.st = k.st ∧ k.note.refs = k.refs ∧ k.note.remFs = k.remFs ∧
    k.note.inForce = k.inForce ∧ k.note.waiting = k.waiting ∧ k.note.ptpPorts = k.ptpPorts ∧ k.note.leapUntil = k.leapUntil ∧
    k.note.gmId = k.gmId ∧ k.note.gmInaccuracy = k.gmInaccuracy ∧ k.note.altOffset = k.altOffset ∧ k.note.ptpUtc = k.ptpUtc ∧
    k.note.rtcCount = k.rtcCount ∧ k.note.rtcFrac = k.rtcFrac ∧ k.note.tenStableUs = k.tenStableUs ∧ k.note.valid = k.valid ∧
    k.note.angleSt = k.angleSt := by
  rw [Sck.note_eq k]
  simp

@[simp] theorem noteSck_sck (old : Sck) (s : State) : (noteSck old s).sck = s.sck.note := by
  simp only [noteSck]
  split
  · simp
  · rfl

@[simp] theorem ref_noteSck (old : Sck) (s : State) (r : Nat) : (noteSck old s).ref r = s.ref r := by
  simp [State.ref]

@[simp] theorem ptpState_noteSck (old : Sck) (s : State) (p : Nat) : (noteSck old s).ptpState p = s.ptpState p := by
  simp [State.ptpState]

theorem event_timeEdge {b : EvBlock} {f bit : Nat} : ∀ (l : Tbl Partition) {s : State}, s.event b f bit = true →
    (timeEdge l s).event b f bit = true := by
  intro l
  induction l with
  | nil => exact id
  | cons p l ih =>
    intro s h
    unfold timeEdge
    refine ih ?_
    split
    · exact event_raiseEvent_mono h
    · exact h

theorem ev_failAngles : ∀ (l : List Ctx) (s : State), (failAngles l s).ev = s.ev := by
  intro l
  induction l with
  | nil => exact fun _ => rfl
  | cons c l ih =>
    intro s
    unfold failAngles
    rw [ih]
    split
    · simp
    · rfl

/-- A change of the angle's state makes its event (SCK_EVENT_STATUS bit 4). -/
theorem event_noteSck_angle (h : s.sck.angleSt ≠ old.angleSt) : (noteSck old s).event .sck 0 4 = true := by
  have hevents : (noteEvents old s.sck (noteRecord old s)).event .sck 0 4 = true := by
    have hchanged : (s.sck.angleSt != old.angleSt) = true := by simpa using h
    simp only [noteEvents, hchanged]
    simp only [sckEvent, if_true]
    split
    · exact event_raiseEvent_mono (event_raiseEvent_self ..)
    · exact event_raiseEvent_self ..
  have hvalid : (noteValid (s.sck.valid != old.valid) (noteEvents old s.sck (noteRecord old s))).event .sck 0 4 = true := by
    unfold noteValid
    split
    · exact event_timeEdge _ hevents
    · exact hevents
  simp only [noteSck]
  split
  · exact (event_of_ev_eq (ev_failAngles ..) ..).trans hvalid
  · exact hvalid

/-! #### The tick -/

theorem tickState_counts (s : State) : (tickState s).sck.now = s.sck.now ∧ (tickState s).sck.rtcCount = s.sck.rtcCount ∧
    (tickState s).sck.rtcFrac = s.sck.rtcFrac ∧ (tickState s).sck.stepTo = s.sck.stepTo ∧ (tickState s).sck.adopt = s.sck.adopt := by
  unfold tickState
  simp only []
  cases s.sck.st <;> simp only [] <;> (repeat' split) <;> exact ⟨rfl, rfl, rfl, rfl, rfl⟩

theorem evalRefs_counts (k : Sck) (n : Nat) (s : State) : (evalRefs k n s).sck.now = s.sck.now ∧
    (evalRefs k n s).sck.rtcCount = s.sck.rtcCount ∧ (evalRefs k n s).sck.rtcFrac = s.sck.rtcFrac := by
  induction n with
  | zero => exact ⟨rfl, rfl, rfl⟩
  | succ n ih => exact ih

theorem tickStep_idle (hstep : s.sck.stepTo = none) (hadopt : s.sck.adopt = none) : tickStep s = s := by
  simp only [tickStep, hstep, hadopt]

/-- What a tick leaves of grid time and of the RTC's count, where no step waits (R68, R743). -/
theorem exec_tick_counts {temp : Int} {sense : Sense} (hrun : s.running = true) (hidle : s.sck.stepTo = none ∧ s.sck.adopt = none) :
    Answers (.tick temp sense) s (fun t => t.sck.now = (s.sck.now / 1000 + 1) * 1000 ∧
      t.sck.rtcCount = s.sck.rtcCount + (s.sck.rtcFrac + 32768) / 1000000 ∧ t.sck.rtcFrac = (s.sck.rtcFrac + 32768) % 1000000) := by
  let s1 := noteSense sense { s with sck := { s.sck with now := (s.sck.now / 1000 + 1) * 1000 } }
  let s2 := tickState (runCounts temp s1)
  have hexec : exec (.tick temp sense) s =
      .next (keyEdges s (renewBlocked (releaseDue (restrictTick (noteSck s.sck (evalRefs s2.sck 4 (tickStep s2))))))) :=
    onMain_running hrun _
  have hsense : s1.sck = { s.sck with now := (s.sck.now / 1000 + 1) * 1000 } := by simp [s1]
  obtain ⟨hnow, hcount, hfrac, hstep, hadopt⟩ := tickState_counts (runCounts temp s1)
  have hrest : tickStep s2 = s2 := by
    refine tickStep_idle (hstep.trans ?_) (hadopt.trans ?_)
    · simp only [runCounts, hsense, hidle.1]
    · simp only [runCounts, hsense, hidle.2]
  obtain ⟨hnow', hcount', hfrac'⟩ := evalRefs_counts s2.sck 4 s2
  refine answers_next hexec ?_
  simp only [keyEdges_frame, renewBlocked, releaseDue_frame, restrictTick_frame, noteSck_sck, Sck.note_frame, hrest, hnow', hcount', hfrac']
  simp only [s2, hnow, hcount, hfrac]
  simp only [runCounts, hsense, and_self]

/-! #### Settings -/

theorem applySetting_boundary {off : Nat} (hoff : off = 0x6404 ∨ off = 0x6408 ∨ off = 0x640C ∨ off = 0x641C)
    (hsec : s.sck.now % 1000000000 = 0) :
    (applySetting off s).sck.inForce = Tbl.put off ((Tbl.find? (regKey 0 off) s.rw).getD (sckReset off)) s.sck.inForce ∧
      (applySetting off s).sck.waiting = s.sck.waiting.filter (· != off) := by
  have hsecond : isSecond s.sck.now = true := by simp [isSecond, nsPerSec, hsec]
  unfold applySetting
  simp only [hsecond, if_true]
  rcases hoff with rfl | rfl | rfl | rfl <;> exact ⟨rfl, rfl⟩

/-! #### The angle -/

/-- When the angle is lost, the one activity in flight, which waits for it, is not performed (R79). -/
theorem noteSck_fails {x : Ctx} (hvalid : angleValid old = true) (hkeep : s.sck.valid = old.valid) (hlost : angleValid s.sck = false)
    (hctxs : s.hif.ctxs = [x]) (hwaits : awaitsAngle x = true) : (noteSck old s).hif.ctxs = [] := by
  have hsent : OnlySends s (noteEvents old s.sck (noteRecord old s)) := by
    have hevent (changed : Bool) (bit : Nat) (t : State) : OnlySends t (sckEvent changed bit t) := by
      unfold sckEvent
      split
      · exact .raiseEvent ..
      · exact .refl t
    have hrecord : OnlySends s (noteRecord old s) := OnlySends.of_hif (by simp)
    exact ((((hrecord.trans (hevent ..)).trans (hevent ..)).trans (hevent ..)).trans (hevent ..)).trans (hevent ..)
  have hsame : (noteEvents old s.sck (noteRecord old s)).hif.ctxs = [x] := hsent.ctxs.trans hctxs
  have hnote : angleValid s.sck.note = false := by
    simpa [angleValid] using hlost
  simp only [noteSck, hkeep, bne_self_eq_false, noteValid, Bool.false_eq_true, if_false, hvalid, hnote, Bool.not_false, Bool.and_self,
    if_true, hsame, failAngles, hwaits]
  exact (delivered_finishCtx x _ _).1.trans (by simp [hsame])

/-! #### Measurements -/

theorem ref_setRef_self (r : Nat) (v : RefClock) (s : State) : (s.setRef r v).ref r = v := Tbl.get_put_self ..

theorem ref_setRef_other {r q : Nat} (h : q ≠ r) (v : RefClock) (s : State) : (s.setRef r v).ref q = s.ref q :=
  Tbl.get_put_other _ _ _ _ _ h

theorem ref_measure (r : Nat) (o : Int) (s : State) : (measure r o s).ref r = (s.ref r).after s.sck.now o := by
  rw [measure, State.updRef, ref_setRef_self]
  simp only [RefClock.after, bne_iff_ne, ne_eq]
  rfl

/-- A measurement of a reference that is not selected, or passes the offset test, is taken, and is the offset to remove where it is selected
(R43, R741). -/
theorem judgeMeasure_passes {o : Int} (h : (s.ref r).st = .selected → offsetFails s.sck o = false) :
    (judgeMeasure r o s).ref r = (s.ref r).after s.sck.now o ∧ (judgeMeasure r o s).sck.st = s.sck.st ∧
      ((s.ref r).st = .selected → (judgeMeasure r o s).sck.remFs = o * 1000000) := by
  have hst : ((measure r o s).ref r).st = (s.ref r).st := by rw [ref_measure]; rfl
  have href := ref_measure r o s
  unfold judgeMeasure
  simp only [hst]
  by_cases hsel : (s.ref r).st = .selected
  · have hpass : offsetFails (measure r o s).sck o = false := h hsel
    rw [if_pos hsel, if_neg (by simp [hpass])]
    exact ⟨href, rfl, fun _ => rfl⟩
  · rw [if_neg hsel]
    exact ⟨href, rfl, fun h => absurd h hsel⟩

/-! #### Failure -/

/-- The loss of the selected reference selects another or none: one that has failed stays failed. -/
theorem loseSelected_failed (h : (s.ref r).st = .failed) : ((loseSelected s).ref r).st = .failed := by
  unfold loseSelected
  split
  · next q hbest =>
    have hq : (s.ref q).st = .qualified := by simpa [bestRef] using List.find?_some hbest
    have hqr : r ≠ q := by
      rintro rfl
      simp [h] at hq
    have hchosen : ((if s.hasSelected then s.updRef s.sck.selected fun v => { v with st := .qualified } else s).ref r).st = .failed := by
      split
      · next hsel =>
        have hne : r ≠ s.sck.selected := by
          rintro rfl
          simp [State.hasSelected, h] at hsel
        rw [State.updRef, ref_setRef_other hne, h]
      · exact h
    unfold adoptSlew
    exact (congrArg RefClock.st (ref_setRef_other hqr _ _)).trans hchosen
  · exact h

/-- A reference that is present and in use fails, whatever else becomes of the slot clock (R41). -/
theorem declareFailed_failed (h : (s.ref r).st ≠ .disabled ∧ (s.ref r).st ≠ .absent) : ((declareFailed r s).ref r).st = .failed := by
  unfold declareFailed
  simp only []
  split
  · next hst => simpa [h.1, h.2] using hst
  · split
    · exact loseSelected_failed (congrArg RefClock.st (ref_setRef_self ..))
    · exact congrArg RefClock.st (ref_setRef_self ..)

/-- The failure of a reference that was not selected touches no other part of the slot clock (R41). -/
theorem declareFailed_unselected (h : (s.ref r).st ≠ .selected) :
    (declareFailed r s).sck = { s.sck with refs := (declareFailed r s).sck.refs } := by
  unfold declareFailed
  simp only []
  split
  · rfl
  · rfl

/-- A measurement of the selected reference that fails the offset test fails it (R742). -/
theorem judgeMeasure_fails {o : Int} (hsel : (s.ref r).st = .selected) (hfail : offsetFails s.sck o = true) :
    ((judgeMeasure r o s).ref r).st = .failed := by
  have hst : ((measure r o s).ref r).st = .selected := by rw [ref_measure]; exact hsel
  have hfail' : offsetFails (measure r o s).sck o = true := hfail
  unfold judgeMeasure
  simp only [hst]
  rw [if_pos trivial, if_pos hfail']
  exact declareFailed_failed (by simp [hst])

theorem irigMissing_counts (h : (s.ref 2).st ≠ .disabled ∧ (s.ref 2).st ≠ .absent) :
    (3 ≤ (s.ref 2).missing + 1 → ((irigMissing s).ref 2).st = .failed) ∧
      ((s.ref 2).missing + 1 < 3 → (irigMissing s).ref 2 = { s.ref 2 with missing := (s.ref 2).missing + 1 } ∧ (irigMissing s).sck.st = s.sck.st) := by
  have href : (s.updRef 2 fun v => { v with missing := v.missing + 1 }).ref 2 = { s.ref 2 with missing := (s.ref 2).missing + 1 } :=
    ref_setRef_self ..
  unfold irigMissing
  simp only [href]
  constructor
  · intro hmissing
    rw [if_pos hmissing]
    exact declareFailed_failed (by rw [href]; exact h)
  · intro hmissing
    rw [if_neg (by omega)]
    exact ⟨href, rfl⟩

@[simp] theorem ref_noteLeap (leap : Option Nat) (s : State) : (noteLeap leap s).ref r = s.ref r := by
  cases leap <;> rfl

theorem noteLeap_frame' (leap : Option Nat) (s : State) :
    (noteLeap leap s).sck = { s.sck with leapUntil := (noteLeap leap s).sck.leapUntil } := by
  cases leap <;> rfl

end

/-- Settles O12: what a tick counts, and what the angle's states leave. -/
theorem ticksAndAngle : Obligations.TicksAndAngle := by
  refine ⟨fun temp sense s hrun hidle => ?tick, fun off s hrun hwaiting hoff hsec => ?setting, fun s hrun hgap => ?coast,
    fun s hrun hlost => ?lost, fun id a x s hrun hctx hheld => ?reached⟩
  case tick =>
    obtain ⟨t, hexec, hnow, hcount, hfrac⟩ := exec_tick_counts (temp := temp) (sense := sense) hrun hidle
    refine answers_next hexec ⟨hnow, ?_⟩
    rw [hcount, hfrac]
    omega
  case setting =>
    have hexec : exec .settingTakesEffect s = .next (noteSck s.sck (applySetting off s)) := by
      refine (onMain_running hrun _).trans ?_
      rw [hwaiting]
      rfl
    obtain ⟨hforce, hdone⟩ := applySetting_boundary hoff hsec
    refine answers_next hexec ⟨?_, ?_⟩
    · simp [State.sckSet, hforce]
    · simp [hdone, hwaiting]
  case coast =>
    have hexec : exec .angleCoast s = .next (noteSck s.sck { s with sck := { s.sck with angleSt := .coasting, coastUs := 0, usableUs := 0 } }) :=
      (onMain_running hrun _).trans (if_pos hgap)
    refine answers_next hexec ⟨?_, event_noteSck_angle (by simp [hgap.1])⟩
    rw [noteSck_sck]
    exact Sck.note_eq _
  case lost =>
    have hexec : exec .angleLost s = .next (noteSck s.sck (loseAngle s)) := (onMain_running hrun _).trans (if_pos hlost)
    have hnot : s.sck.angleSt ≠ .lost := by
      rcases hlost with h | h
      · simp [h.1]
      · exact h.1
    refine answers_next hexec ⟨?_, event_noteSck_angle (Ne.symm hnot), fun hvalid x hctxs hheld hangle => ?_⟩
    · rw [noteSck_sck]
      exact Sck.note_eq _
    · exact noteSck_fails hvalid rfl (by simp [angleValid, loseAngle]) hctxs (by simp [awaitsAngle, hheld, hangle])
  case reached =>
    have hexec : exec (.angleReached id) s = if angleValid s.sck = false then .next (finishCtx x (bare stTimeNotLocked) s)
        else if angleReached s.sck a then
          .next (makeReady (.ctx x.id) (groupOfOpcode x.hdr.opcode) (s.setCtx { x with phase := .queued, dueTick := s.sck.now }))
        else .next s := by
      refine (onMain_running hrun _).trans ?_
      simp only [hctx, hheld.1]
      rw [if_neg (by simp [hheld.2])]
    refine ⟨fun hvalid hreached => ?_, fun hvalid hbefore => ?_, fun hvalid => ?_⟩
    · rw [hexec, if_neg (by simp [hvalid]), if_pos hreached]
    · rw [hexec, if_neg (by simp [hvalid]), if_neg (by simp [hbefore])]
    · rw [if_pos hvalid] at hexec
      exact answers_next hexec (delivered_finishCtx ..)

end Sys2Proof.Machine

/-! ### Reference signals and PTP -/

namespace Sys2Proof.Machine

section
variable {s : State}

/-! #### Measurements of a reference that has just been heard -/

/-- A measurement of a reference whose other fields have just changed, and which passes the offset test. -/
theorem judgeMeasure_updRef {r : Nat} {o : Int} {k : RefClock → RefClock} (hk : (k (s.ref r)).st = (s.ref r).st)
    (h : (s.ref r).st = .selected → offsetFails s.sck o = false) :
    (judgeMeasure r o (s.updRef r k)).ref r = (k (s.ref r)).after s.sck.now o ∧
      (judgeMeasure r o (s.updRef r k)).sck.st = s.sck.st ∧
      ((s.ref r).st = .selected → (judgeMeasure r o (s.updRef r k)).sck.remFs = o * 1000000) := by
  have href : (s.updRef r k).ref r = k (s.ref r) := ref_setRef_self ..
  obtain ⟨hv, hst, hrem⟩ := judgeMeasure_passes (s := s.updRef r k) (r := r) (o := o) (by rw [href, hk]; exact h)
  rw [href] at hv hrem
  rw [hk] at hrem
  exact ⟨hv, hst, hrem⟩

theorem judgeMeasure_updRef_fails {r : Nat} {o : Int} {k : RefClock → RefClock} (hk : (k (s.ref r)).st = (s.ref r).st)
    (hsel : (s.ref r).st = .selected) (hfail : offsetFails s.sck o = true) :
    ((judgeMeasure r o (s.updRef r k)).ref r).st = .failed := by
  have href : (s.updRef r k).ref r = k (s.ref r) := ref_setRef_self ..
  exact judgeMeasure_fails (by rw [href, hk, hsel]) hfail

theorem exec_ppsEdge {offset : Int} (hrun : s.running = true) (hon : s.refEnabled 1 = true) : exec (.ppsEdge offset) s =
    .next (noteSck s.sck (judgeMeasure 1 (nearestSecond offset)
      (s.updRef 1 fun v => { v with missing := 0, aRef := fieldOf (s.sckSet 0x641C) 19 0 }))) :=
  (onMain_running hrun _).trans (if_pos hon)

/-- The offset of a frame's second from grid time at its edge (R39, R40). -/
def frameOffset (f : IrigFrame) (s : State) : Int := (f.seconds - f.localOffset + s.taiUtc) * 1000000000 - f.edge

theorem exec_irigbFrame_good {f : IrigFrame} (hrun : s.running = true) (hon : s.refEnabled 2 = true)
    (hgood : f.parityOk = true ∧ f.quality ≠ 0xF) : exec (.irigbFrame f) s =
      .next (noteSck s.sck (noteLeap f.leapEnd (judgeMeasure 2 (frameOffset f s)
        (s.updRef 2 fun v => { v with missing := 0, declared := f.quality % 16, aRef := f.accuracy.getD 1000000 })))) := by
  refine (onMain_running hrun _).trans ?_
  rw [if_neg (by simp [hon]), if_neg (by simp [hgood.1, hgood.2])]
  rfl

theorem exec_irigbFrame_bad {f : IrigFrame} (hrun : s.running = true) (hon : s.refEnabled 2 = true)
    (hbad : f.parityOk = false ∨ f.quality = 0xF) : exec (.irigbFrame f) s = .next (noteSck s.sck (irigMissing s)) := by
  refine (onMain_running hrun _).trans ?_
  rw [if_neg (by simp [hon]), if_pos hbad]

theorem exec_irigbFrameMissing (hrun : s.running = true) (hpresent : (s.ref 2).present = true) :
    exec .irigbFrameMissing s = .next (noteSck s.sck (irigMissing s)) :=
  (onMain_running hrun _).trans (if_pos hpresent)

/-- What a missing frame leaves, once noted. -/
theorem irigMissing_noted (h : (s.ref 2).st ≠ .disabled ∧ (s.ref 2).st ≠ .absent) :
    (3 ≤ (s.ref 2).missing + 1 → ((noteSck s.sck (irigMissing s)).ref 2).st = .failed) ∧
      ((s.ref 2).missing + 1 < 3 → (noteSck s.sck (irigMissing s)).ref 2 = { s.ref 2 with missing := (s.ref 2).missing + 1 } ∧
        (noteSck s.sck (irigMissing s)).sck.st = s.sck.st) := by
  simpa only [ref_noteSck, noteSck_sck, Sck.note_frame] using irigMissing_counts h

theorem tenMhzGone_keeps (s : State) : (tenMhzGone s).sck.refs = s.sck.refs ∧ (tenMhzGone s).sck.tenStableUs = s.sck.tenStableUs := by
  unfold tenMhzGone
  split <;> exact ⟨rfl, rfl⟩

theorem Sck.note_tenStableUs (k : Sck) : k.note.tenStableUs = k.tenStableUs := by simp

/-- The 10 MHz input as it stands after its loss or a frequency out of range, before it is declared failed (R41). -/
def tenMhzBad (freq : Option Int) (s : State) : State :=
  let t := s.updRef 3 fun v => { v with offset := freq.getD v.offset, missing := 1, present := v.present || freq.isSome }
  { t with sck := { t.sck with tenStableUs := 0 } }

/-! #### PTP -/

theorem ptpOn_of_settings {t : State} (hrw : t.rw = s.rw) (hpwr : t.pwr = s.pwr) (p : Nat) : t.ptpOn p = s.ptpOn p := by
  unfold State.ptpOn State.portOn State.pairOf State.portAbsent State.pairKind State.pairCfg State.portCfg
  rw [hrw, hpwr]

theorem ptpOn_setRoles (g n p : Nat) (s : State) : (setRoles g n s).ptpOn p = s.ptpOn p := ptpOn_of_settings (by simp) (by simp) p

/-- The roles of the ports change neither the settings nor the references. -/
theorem setRoles_sck (g n : Nat) (s : State) :
    (setRoles g n s).sck = { s.sck with ptpPorts := (setRoles g n s).sck.ptpPorts } := by
  induction n with
  | zero => rfl
  | succ n ih =>
    simp only [setRoles]
    split
    · rw [State.setPtp, ih]
    · exact ih

theorem clockType_setRoles (g n : Nat) (s : State) : (setRoles g n s).clockType = s.clockType := by
  simp only [State.clockType, State.sckSet]
  rw [setRoles_sck]

theorem ptpState_setPtp_self (p : Nat) (v : PtpPort) (s : State) : (s.setPtp p v).ptpState p = v := by
  simp [State.ptpState, State.setPtp]

theorem ptpState_setPtp_other {p q : Nat} (h : q ≠ p) (v : PtpPort) (s : State) : (s.setPtp p v).ptpState q = s.ptpState q := by
  simp only [State.ptpState, State.setPtp, Tbl.find?_put_other p q v _ h]

/-- Each port that runs PTP has its role: slave towards the grandmaster, else that of the clock type (R61, R227). -/
theorem ptpState_setRoles {g n p : Nat} (hp : p < n) (hon : s.ptpOn p = true) :
    (setRoles g n s).ptpState p = if p = g then .slave else sideRole s.clockType := by
  induction n with
  | zero => omega
  | succ n ih =>
    simp only [setRoles, ptpOn_setRoles, clockType_setRoles]
    by_cases hpn : p = n
    · subst hpn
      rw [if_pos hon, ptpState_setPtp_self]
    · split
      · rw [ptpState_setPtp_other hpn, ih (by omega)]
      · exact ih (by omega)

theorem exec_ptpMessage {m : PtpMessage} (hrun : s.running = true) : exec (.ptpMessageProcess s.ptpDomain m) s = .next (ptpMessage m s) :=
  (onMain_running hrun _).trans (if_pos rfl)

/-- The best master's data, with the roles they give and what becomes of PTP as a reference. -/
def heardBest (port gm cls a : Nat) (inaccuracy alt utc leap : Option Nat) (s : State) : State :=
  noteLeap leap ((setRoles port 12 { s with sck := { s.sck with gmId := gm, gmInaccuracy := inaccuracy, altOffset := alt, ptpUtc := utc } }).updRef
    0 fun v => { v with aRef := a, declared := cls, missing := v.missing - v.missing % 2 })

/-- What an Announce of the best master leaves where its class is acceptable and no timeout stands (R41, R59, R61). -/
theorem heardBest_sck (port gm cls a : Nat) (inaccuracy alt utc leap : Option Nat) (s : State) :
    (heardBest port gm cls a inaccuracy alt utc leap s).sck = { s.sck with
      gmId := gm, gmInaccuracy := inaccuracy, altOffset := alt, ptpUtc := utc
      ptpPorts := (heardBest port gm cls a inaccuracy alt utc leap s).sck.ptpPorts
      refs := Tbl.put 0 { s.ref 0 with aRef := a, declared := cls, missing := (s.ref 0).missing - (s.ref 0).missing % 2 } s.sck.refs
      leapUntil := (heardBest port gm cls a inaccuracy alt utc leap s).sck.leapUntil } := by
  unfold heardBest
  rw [noteLeap_frame']
  simp only [State.updRef, State.setRef, State.ref]
  rw [setRoles_sck]

theorem ptpState_heardBest {port gm cls a n : Nat} {inaccuracy alt utc leap : Option Nat} (hn : n < 12) (hon : s.ptpOn n = true) :
    (heardBest port gm cls a inaccuracy alt utc leap s).ptpState n = if n = port then .slave else sideRole s.clockType := by
  have hroles := ptpState_setRoles (g := port) (n := 12)
    (s := { s with sck := { s.sck with gmId := gm, gmInaccuracy := inaccuracy, altOffset := alt, ptpUtc := utc } }) hn hon
  have hleap : (heardBest port gm cls a inaccuracy alt utc leap s).sck.ptpPorts = (setRoles port 12
      { s with sck := { s.sck with gmId := gm, gmInaccuracy := inaccuracy, altOffset := alt, ptpUtc := utc } }).sck.ptpPorts := by
    unfold heardBest
    rw [noteLeap_frame']
    rfl
  simp only [State.ptpState] at hroles ⊢
  rw [hleap]
  exact hroles

/-- The accuracy of PTP from what an Announce says of it: the worse of the clock's and the total inaccuracy, 1 ms where none is given. -/
def announcedAccuracy (accuracy inaccuracy : Option Nat) : Nat :=
  max (accuracy.getD 1000000) (if accuracy.isSome then inaccuracy.getD 0 else 0)

theorem announcedAccuracy_none (inaccuracy : Option Nat) : announcedAccuracy none inaccuracy = 1000000 := by
  simp [announcedAccuracy]

theorem announcedAccuracy_some (x : Nat) (inaccuracy : Option Nat) :
    announcedAccuracy (some x) inaccuracy = if x < inaccuracy.getD 0 then inaccuracy.getD 0 else x := by
  simp only [announcedAccuracy, Option.getD_some, Option.isSome_some, if_true]
  split <;> omega

/-- The class condition stands as it was for a class that is acceptable and a reference without it (R41). -/
theorem judgeClass_acceptable (hcls : (s.ref 0).declared ≤ s.worstClass) (hmissing : (s.ref 0).missing < 4) : judgeClass s = s := by
  have hgood : decide (s.worstClass < (s.ref 0).declared) = false := by simpa using hcls
  unfold judgeClass
  simp only [hgood, b2n, Bool.false_eq_true, if_false]
  exact if_pos (by omega)

theorem ptpAnnounce_best {port gm cls : Nat} {accuracy inaccuracy alt utc leap : Option Nat} (hct : s.clockType ≠ 3)
    (hcls : cls ≤ s.worstClass) (hmissing : (s.ref 0).missing < 4) {x : State}
    (hx : x = heardBest port gm cls (announcedAccuracy accuracy inaccuracy) inaccuracy alt utc leap s) :
    ptpAnnounce port true gm cls accuracy inaccuracy alt utc leap s = if x.refEnabled 0 then reBound x else x := by
  have hsck := heardBest_sck port gm cls (announcedAccuracy accuracy inaccuracy) inaccuracy alt utc leap s
  rw [← hx] at hsck
  have href : x.ref 0 = { s.ref 0 with aRef := announcedAccuracy accuracy inaccuracy, declared := cls, missing := (s.ref 0).missing - (s.ref 0).missing % 2 } := by
    simp only [State.ref]
    rw [hsck]
    exact Tbl.get_put_self ..
  have hworst : x.worstClass = s.worstClass := by
    simp only [State.worstClass, State.sckSet]
    rw [hsck]
  have hjudge : judgeClass x = x := judgeClass_acceptable (by rw [href, hworst]; exact hcls) (by rw [href]; exact Nat.lt_of_le_of_lt (Nat.sub_le ..) hmissing)
  have hunfold : ptpAnnounce port true gm cls accuracy inaccuracy alt utc leap s =
      if (judgeClass x).refEnabled 0 then reBound (judgeClass x) else judgeClass x := by
    cases accuracy with
    | none =>
      rw [hx, announcedAccuracy_none]
      simp only [ptpAnnounce, if_neg hct, Bool.true_eq_false, if_false]
      rfl
    | some y =>
      rw [hx, announcedAccuracy_some]
      simp only [ptpAnnounce, if_neg hct, Bool.true_eq_false, if_false]
      rfl
  rw [hunfold, hjudge]

theorem declareFailed_ptpPorts (r : Nat) (s : State) : (declareFailed r s).sck.ptpPorts = s.sck.ptpPorts := by
  have hlose (x : State) : (loseSelected x).sck.ptpPorts = x.sck.ptpPorts := by
    unfold loseSelected
    split
    · simp only [adoptSlew]
      split <;> rfl
    · rfl
  unfold declareFailed
  simp only []
  split
  · rfl
  split
  · exact hlose _
  · rfl

theorem ref_setRoles (g n r : Nat) (s : State) : (setRoles g n s).ref r = s.ref r := by
  simp only [State.ref]
  rw [setRoles_sck]

theorem refEnabled_setRoles (g n r : Nat) (s : State) : (setRoles g n s).refEnabled r = s.refEnabled r := by
  simp only [State.refEnabled, State.priority, State.sckSet]
  rw [setRoles_sck]

/-- A timeout of PTP in use fails it; the ports keep their roles (R41, R61). -/
theorem ptpTimeout_fails {bit : Nat} (hon : s.refEnabled 0 = true) (hst : (s.ref 0).st ≠ .disabled ∧ (s.ref 0).st ≠ .absent) :
    ((ptpTimeout bit s).ref 0).st = .failed ∧ ∀ n, (ptpTimeout bit s).ptpState n = s.ptpState n := by
  let v : RefClock := { s.ref 0 with missing := (s.ref 0).missing ||| bit, steady := false }
  have href : (s.setRef 0 v).ref 0 = v := ref_setRef_self ..
  have htimeout : ptpTimeout bit s = noteSck s.sck (declareFailed 0 (s.setRef 0 v)) := if_pos hon
  rw [htimeout, ref_noteSck]
  refine ⟨declareFailed_failed (by rw [href]; exact hst), fun n => ?_⟩
  rw [ptpState_noteSck]
  simp only [State.ptpState, declareFailed_ptpPorts]
  rfl

theorem exec_ptpTransmit {port : Nat} {what : PtpSend} (hrun : s.running = true) (hon : s.ptpOn port = true) :
    exec (.ptpMessageTransmit port what) s = match what with
      | .pdelayReq => .next (sendPort port 7 .pdelayReq s)
      | .sync => if s.ptpState port = .master then .next (sendPort port 7 (.sync 0 none none) s) else .next s
      | .announce => if s.ptpState port = .master then .next (sendPort port 7 (ownAnnounce s) s) else .next s :=
  (onMain_running hrun _).trans (if_neg (by simp [hon]))

/-- A Sync on the slave port of a clock is a measurement of PTP, cleared of its Sync timeout (R59, R60). -/
theorem ptpSync_slave {port ingress : Nat} {offset correction : Int} {followUp : Option Int} (hct : s.clockType ≠ 3)
    (hslave : s.ptpState port = .slave) (hon : s.refEnabled 0 = true) : ptpSync port ingress offset correction followUp s =
      judgeMeasure 0 offset (s.updRef 0 fun v => { v with missing := v.missing - v.missing / 2 % 2 * 2 }) := by
  simp only [ptpSync, hslave, bne_self_eq_false, Bool.false_eq_true, if_false, if_neg hct]
  exact if_pos hon

end

/-- Settles O13: a measurement by `judgeMeasure`, a failure by `declareFailed`. -/
theorem referenceSignals : Obligations.ReferenceSignals := by
  refine ⟨fun offset s hrun hon hpass => ?pps, fun f offset s hrun => ⟨fun hon hsel hfail => ?ppsFails, fun hon hsel hparity hq hfail => ?irigFails⟩,
    fun s hrun hgone hst => ?missing, fun f o s hrun hgood ho hpass => ?irig, fun f s hrun hbad hst => ?discarded,
    fun freq s hrun hon => ⟨fun hbad => ?tenLost, fun f hf hin => ?tenKept⟩⟩
  case pps =>
    refine answers_next (exec_ppsEdge hrun hon) ?_
    simpa only [ref_noteSck, noteSck_sck, Sck.note_frame] using
      judgeMeasure_updRef (k := fun v => { v with missing := 0, aRef := fieldOf (s.sckSet 0x641C) 19 0 }) rfl hpass
  case ppsFails =>
    refine answers_next (exec_ppsEdge hrun hon) ?_
    rw [ref_noteSck]
    exact judgeMeasure_updRef_fails rfl hsel hfail
  case irigFails =>
    refine answers_next (exec_irigbFrame_good hrun hon ⟨hparity, hq⟩) ?_
    rw [ref_noteSck, ref_noteLeap]
    exact judgeMeasure_updRef_fails rfl hsel hfail
  case missing =>
    have hexec : exec .ppsMissing s = .next (noteSck s.sck (declareFailed 1 (s.updRef 1 fun v => { v with missing := 1, steady := false }))) :=
      (onMain_running hrun _).trans (if_pos hgone)
    have href : (s.updRef 1 fun v => { v with missing := 1, steady := false }).ref 1 = { s.ref 1 with missing := 1, steady := false } :=
      ref_setRef_self ..
    refine answers_next hexec ⟨?_, fun hsel => ?_⟩
    · rw [ref_noteSck]
      exact declareFailed_failed (by rw [href]; exact hst)
    · rw [noteSck_sck, declareFailed_unselected (by rw [href]; exact hsel)]
      simp only [Sck.note_frame]
      rfl
  case irig =>
    subst ho
    obtain ⟨hv, hst, hrem⟩ := judgeMeasure_updRef
      (k := fun v => { v with missing := 0, declared := f.quality % 16, aRef := f.accuracy.getD 1000000 }) rfl hpass
    refine answers_next (exec_irigbFrame_good hrun.1 hrun.2 hgood) ⟨?_, ?_, fun hsel => ?_, fun l hl => ?_⟩
    · rw [ref_noteSck, ref_noteLeap]
      exact hv
    · rw [noteSck_sck, noteLeap_frame', (Sck.note_frame _).2.1]
      exact hst
    · rw [noteSck_sck, noteLeap_frame', (Sck.note_frame _).2.2.2.1]
      exact hrem hsel
    · rw [noteSck_sck, hl]
      simp [noteLeap]
  case discarded =>
    exact ⟨fun hon => answers_next (exec_irigbFrame_bad hrun hon hbad) (irigMissing_noted hst),
      fun hpresent => answers_next (exec_irigbFrameMissing hrun hpresent) (irigMissing_noted hst)⟩
  case tenLost =>
    obtain ⟨hon, hdis, habs, hsel⟩ := hon
    have hexec : exec (.tenMhzLoss freq) s = .next (noteSck s.sck (tenMhzGone (declareFailed 3 (tenMhzBad freq s)))) := by
      refine (onMain_running hrun _).trans ?_
      rw [if_neg (by simp [hon])]
      cases freq with
      | none => rfl
      | some f =>
        have hfar : decide (1000000 < f.natAbs) = true := decide_eq_true (hbad f rfl)
        simp only [hfar, if_true]
        rfl
    have hst : ((tenMhzBad freq s).ref 3).st = (s.ref 3).st := by
      have href : (tenMhzBad freq s).ref 3 = { s.ref 3 with
          offset := freq.getD (s.ref 3).offset, missing := 1, present := (s.ref 3).present || freq.isSome } := ref_setRef_self ..
      rw [href]
    refine answers_next hexec ⟨?_, ?_⟩
    · rw [ref_noteSck]
      simp only [State.ref, (tenMhzGone_keeps _).1]
      exact declareFailed_failed (by rw [hst]; exact ⟨hdis, habs⟩)
    · rw [noteSck_sck, Sck.note_tenStableUs, (tenMhzGone_keeps _).2, declareFailed_unselected (by rw [hst]; exact hsel)]
      rfl
  case tenKept =>
    have hexec : exec (.tenMhzLoss freq) s = .next (noteSck s.sck (s.updRef 3 fun v =>
        { v with offset := f, missing := 0, present := true })) := by
      refine (onMain_running hrun _).trans ?_
      rw [if_neg (by simp [hon.1]), hf]
      have hnear : decide (1000000 < f.natAbs) = false := by simpa using hin
      simp only [hnear, Bool.false_eq_true, if_false, Option.getD_some, Option.isSome_some, Bool.or_true]
      rfl
    refine answers_next hexec ?_
    rw [ref_noteSck]
    exact ref_setRef_self ..

/-- Settles O15: the roles by `setRoles`, an Announce by `heardBest`, a Sync by its measurement. -/
theorem ptpPorts : Obligations.PtpPorts := by
  refine ⟨fun port gm cls n accuracy inaccuracy alt utc leap s hrun hcls hn => ?best,
    fun port gm cls accuracy inaccuracy alt utc leap s hrun hct => ?other,
    fun port ingress offset correction followUp s hrun hslave hpass => ?sync,
    fun port domain ingress delay offset correction followUp m s hrun hon hdomain => ⟨fun hnot => ?notSlave, ?pdelay, ?pdelayReq, ?unsupported, ?domain⟩,
    fun port s hrun hon => ⟨?sendPdelay, fun hmaster => ?sendSync, fun hnot => ⟨?noSync, ?noAnnounce⟩⟩,
    fun port cls s hrun hclass => ⟨fun hsel => ?ownName, fun hsel => ?passedOn⟩,
    fun n s hrun hst hn => ?announceTimeout, fun s hrun hst => ⟨fun hon => ?syncTimeout, fun hoff => ?unused⟩⟩
  case best =>
    obtain ⟨hrun, hon, -, hct⟩ := hrun
    have hrole : sideRole s.clockType = if s.clockType = 0 then .listening else .master := by rw [sideRole, if_neg hct]
    have hptp := ptpState_heardBest (port := port) (gm := gm) (cls := cls) (a := announcedAccuracy accuracy inaccuracy)
      (inaccuracy := inaccuracy) (alt := alt) (utc := utc) (leap := leap) hn.1 hn.2
    have hsck := heardBest_sck port gm cls (announcedAccuracy accuracy inaccuracy) inaccuracy alt utc leap s
    have hexec := exec_ptpMessage (m := .announce port true gm cls accuracy inaccuracy alt utc leap) hrun
    simp only [ptpMessage, hon, if_true, ptpAnnounce_best hct hcls.1 hcls.2 rfl] at hexec
    refine answers_next hexec ?_
    rw [ref_noteSck, ptpState_noteSck, noteSck_sck]
    have hrest (x : State) : (if x.refEnabled 0 then reBound x else x).sck =
        { x.sck with e := (if x.refEnabled 0 then reBound x else x).sck.e, bounded := (if x.refEnabled 0 then reBound x else x).sck.bounded
                     valid := (if x.refEnabled 0 then reBound x else x).sck.valid } := by
      split <;> rfl
    simp only [Sck.note_frame, State.ref, State.ptpState] at hptp ⊢
    rw [hrest]
    refine ⟨?_, ?_, ?_, ?_, ?_, ?_, ?_⟩
    · simp only []
      rw [hsck]
      simp
    · simp only []
      rw [hsck]
      simp [announcedAccuracy]
    · exact congrArg Sck.gmId hsck
    · exact congrArg Sck.gmInaccuracy hsck
    · exact congrArg Sck.altOffset hsck
    · exact congrArg Sck.ptpUtc hsck
    · exact hptp.trans (by rw [hrole])
  case other =>
    have hexec := exec_ptpMessage (m := .announce port false gm cls accuracy inaccuracy alt utc leap) hrun.1
    simp only [ptpMessage, hrun.2, if_true, ptpAnnounce, if_neg hct] at hexec
    refine answers_next hexec ?_
    rw [ref_noteSck, ptpState_noteSck, noteSck_sck]
    split
    · exact ⟨ptpState_setPtp_self .., by simp [State.setPtp], rfl⟩
    · exact ⟨rfl, by simp, rfl⟩
  case sync =>
    obtain ⟨hct, hslave, hon⟩ := hslave
    have hexec := exec_ptpMessage (m := .sync port ingress offset correction followUp) hrun.1
    simp only [ptpMessage, hrun.2, if_true, ptpSync_slave hct hslave hon] at hexec
    refine answers_next hexec ?_
    simpa only [ref_noteSck, noteSck_sck, Sck.note_frame] using
      judgeMeasure_updRef (k := fun v => { v with missing := v.missing - v.missing / 2 % 2 * 2 }) rfl hpass
  case notSlave =>
    have hsync : ptpSync port ingress offset correction followUp s = s := if_pos (by simpa using hnot)
    have hexec := exec_ptpMessage (m := .sync port ingress offset correction followUp) hrun
    simp only [ptpMessage, hon, if_true, hsync] at hexec
    refine answers_next hexec ⟨?_, by simp⟩
    rw [noteSck_sck]
    exact Sck.note_eq _
  case pdelay =>
    refine (exec_ptpMessage hrun).trans ?_
    simp only [ptpMessage, hon, if_true]
  case pdelayReq =>
    refine (exec_ptpMessage hrun).trans ?_
    simp only [ptpMessage, hon, if_true]
  case unsupported => exact exec_ptpMessage hrun
  case domain => exact (onMain_running hrun _).trans (if_neg hdomain)
  case sendPdelay => exact exec_ptpTransmit hrun hon
  case sendSync => exact (exec_ptpTransmit hrun hon).trans (if_pos hmaster)
  case noSync => exact (exec_ptpTransmit hrun hon).trans (if_neg hnot)
  case noAnnounce => exact (exec_ptpTransmit hrun hon).trans (if_neg hnot)
  case ownName =>
    refine (exec_ptpTransmit hrun.1 hrun.2.1).trans ((if_pos hrun.2.2).trans ?_)
    simp only [ownAnnounce, if_neg hsel, ← hclass]
  case passedOn =>
    refine (exec_ptpTransmit hrun.1 hrun.2.1).trans ((if_pos hrun.2.2).trans ?_)
    simp only [ownAnnounce, if_pos hsel, ← hclass]
    split <;> simp
  case announceTimeout =>
    have hexec : exec .ptpAnnounceTimeout s = .next (ptpTimeout 1 (setRoles 12 12 s)) := onMain_running hrun _
    obtain ⟨hfailed, hports⟩ := ptpTimeout_fails (bit := 1) (s := setRoles 12 12 s) (by rw [refEnabled_setRoles]; exact hst.1)
      (by rw [ref_setRoles]; exact hst.2)
    refine answers_next hexec ⟨hfailed, ?_⟩
    rw [hports, ptpState_setRoles hn.1 hn.2.1, if_neg (by omega), sideRole]
    rcases hn.2.2 with h | h <;> simp [h]
  case syncTimeout => exact answers_next (onMain_running hrun _) (ptpTimeout_fails hon hst).1
  case unused =>
    refine (onMain_running hrun _).trans ?_
    rw [ptpTimeout, if_neg (by simp [hoff])]

end Sys2Proof.Machine

/-! ### Authorised requests, IDE, and the archive's operations -/

namespace Sys2Proof.Machine

/-! #### Authorised requests (R471 to R473) -/

section
variable {a : AuthReq} {inLen op dom role n : Nat} {used : List (Nat × Nat)} {ok : Bool} {s : State} {k : State → OpOut}

theorem withAuth_accepted (h : authReason a inLen op dom role n used s = none) (hok : ok = true) :
    withAuth a inLen op dom role n used ok s k = k (acceptRequest a op s) := by
  simp only [withAuth, h, hok, if_true]

theorem withAuth_refused {reason : Nat} (h : authReason a inLen op dom role n used s = some reason ∨
      (authReason a inLen op dom role n used s = none ∧ ok = false ∧ reason = 0x010A)) :
    withAuth a inLen op dom role n used ok s k = .done { code := 0x0101, detail := reason } s := by
  rcases h with h | ⟨h, hok, hreason⟩
  · simp only [withAuth, h]
    rfl
  · subst hreason
    simp only [withAuth, h, hok, Bool.false_eq_true, if_false]
    rfl

/-- An accepted request counts for its domain and stages its record (R472). -/
theorem acceptRequest_leaves (a : AuthReq) (op : Nat) (s : State) : ((acceptRequest a op s).dom a.domain).temper = a.counter ∧
    (acceptRequest a op s).arc.staging = s.arc.staging ++ [securityNow secRequest op (signerPair a.sigs) a.counter s] := by
  refine ⟨?_, securityRec_staging rfl rfl ..⟩
  have hdom : (acceptRequest a op s).dom a.domain = { s.dom a.domain with temper := a.counter } := Tbl.get_put_self ..
  rw [hdom]

end

/-! #### IDE (R415, R492) -/

section
variable {s : State}

/-- A stream that is not secure any more. -/
theorem setStream_off (i : Nat) (h : i < 4) (s : State) : setStream (some i) false s =
    { s with hif := { s.hif with selectiveSecure := setField s.hif.selectiveSecure i i 0 } } := if_pos h

theorem setStream_on (i : Nat) (h : i < 4) (s : State) : setStream (some i) true s =
    { s with hif := { s.hif with selectiveSecure := setField s.hif.selectiveSecure i i 1 } } := if_pos h

theorem exec_spdmDoeExchange {m : DoeMessage} (h : s.running = true ∧ s.hif.linkUp = true ∧ s.serviceOpen = true) :
    exec (.spdmDoeExchange m) s = match m with
      | .spdm none => .next (emit (.doe 1 0) s)
      | .spdm (some open_) => .next (emit (.doe 1 (b2n open_)) { s with hif := { s.hif with spdmSession := open_ } })
      | .ideKm stream secure =>
        if s.hif.spdmSession = false then .next (emit (.doe 0 0) s)
        else if secure then .next (emit (.doe 2 1) (setStream stream true s))
        else if s.streamSecure stream then .next (emit (.doe 2 0) (raiseEvent .hif 0 3 (setStream stream false s)))
        else .next (emit (.doe 2 0) s) :=
  (onMain_running h.1 _).trans (if_neg (by simp [h.2.1, h.2.2]))

end

/-- Settles O11: the streams by `setStream`, the request by `withAuth`. -/
theorem ideAndSpdm : Obligations.IdeAndSpdm := by
  refine ⟨fun s hrun hsecure => ?link, fun i s hrun hsecure => ?selective, fun change stream on s hrun => ⟨?spdm, fun hnone => ?noSession⟩,
    fun stream s hrun hi => ⟨?on, fun hoff => ?stays, fun hon => ?off⟩, fun q auth s hr hauth hvalue => ?required,
    fun q auth reason s hr hrefused => ?refused⟩
  case link => exact (onMain_running hrun _).trans (if_pos hsecure)
  case selective =>
    refine (onMain_running hrun _).trans ?_
    rw [if_pos (by simp [State.streamSecure, hsecure]), setStream_off i hsecure.1]
  case spdm =>
    rw [exec_spdmDoeExchange hrun]
    rcases change with _ | _ | _ <;> rfl
  case noSession => exact (exec_spdmDoeExchange hrun).trans (if_pos hnone)
  case on =>
    have hin : ¬ s.hif.spdmSession = false := by simp [hrun.2.2.2]
    refine (exec_spdmDoeExchange ⟨hrun.1, hrun.2.1, hrun.2.2.1⟩).trans ((if_neg hin).trans ((if_pos rfl).trans ?_))
    cases stream with
    | none => rfl
    | some i => rw [setStream_on i (hi i rfl)]
  case stays =>
    have hin : ¬ s.hif.spdmSession = false := by simp [hrun.2.2.2]
    exact (exec_spdmDoeExchange ⟨hrun.1, hrun.2.1, hrun.2.2.1⟩).trans
      ((if_neg hin).trans ((if_neg (by simp)).trans (if_neg (by simp [hoff]))))
  case off =>
    have hin : ¬ s.hif.spdmSession = false := by simp [hrun.2.2.2]
    refine (exec_spdmDoeExchange ⟨hrun.1, hrun.2.1, hrun.2.2.1⟩).trans
      ((if_neg hin).trans ((if_neg (by simp)).trans ((if_pos hon).trans ?_)))
    cases stream with
    | none => rfl
    | some i => rw [setStream_off i (hi i rfl)]
  case required =>
    let u := acceptRequest auth 0x0B04 s
    have hexec : exec (.ideRequiredSet q auth) s = .next (complete q (okDetail 0)
        { u with hif := { u.hif with ideRequired := leAt auth.params 0 1 == 1 } }) :=
      exec_done hr rfl (withAuth_accepted hauth (decide_eq_true hvalue))
    obtain ⟨hcounter, hstaged⟩ := acceptRequest_leaves auth 0x0B04 s
    refine answers_next hexec ⟨_, rfl, ?_, hcounter, hstaged⟩
    simp only [u, acceptRequest_frame]
  case refused =>
    refine exec_done hr rfl (withAuth_refused (hrefused.imp id fun ⟨hauth, hvalue, hreason⟩ => ⟨hauth, ?_, hreason⟩))
    simpa using hvalue

/-! #### The archive's operations -/

section
variable {s : State}

/-- What the checks of a readout ask for (R486). -/
theorem readSpec_ok_iff (p : ReadSpec) : p.ok = true ↔ p.kind ≤ 1 ∧ p.log ≤ 2 ∧ p.from_ ≤ p.to_ ∧
    (p.kind = 0 ∨ stampValid p.from_ = true ∧ stampValid p.to_ = true) ∧ (p.kind = 0 → p.filter = 0) ∧ p.types.length ≤ 8 ∧
    (bitOf p.filter 2 = true ↔ p.types ≠ []) := by
  have htypes : (bitOf p.filter 2 == !p.types.isEmpty) = true ↔ (bitOf p.filter 2 = true ↔ p.types ≠ []) := by
    cases bitOf p.filter 2 <;> cases p.types <;> simp
  have hfilter : (!(p.kind == 0 && p.filter != 0)) = true ↔ (p.kind = 0 → p.filter = 0) := by
    by_cases hk : p.kind = 0 <;> simp [hk]
  simp only [ReadSpec.ok, Bool.and_eq_true, htypes, hfilter]
  simp [and_assoc]

/-- A capture window asked for is one of a group, between stamps in order and at most an hour apart, whose end has not passed (R255). -/
theorem captureWindow_ok_iff (group start finish now : Nat) :
    ¬ (group = 0 ∨ 4095 < group ∨ stampValid start = false ∨ stampValid finish = false ∨ stampNs finish ≤ now ∨
      stampNs finish < stampNs start ∨ stampNs start + 3600 * nsPerSec < stampNs finish) ↔
    group ≠ 0 ∧ group ≤ 4095 ∧ stampValid start = true ∧ stampValid finish = true ∧ now < stampNs finish ∧
      stampNs start ≤ stampNs finish ∧ stampNs finish ≤ stampNs start + 3600000000000 := by
  simp [nsPerSec]

theorem Tbl.find?_del_none {α : Type} (k j : Nat) (t : Tbl α) (h : Tbl.find? k t = none) : Tbl.find? k (Tbl.del j t) = none := by
  induction t with
  | nil => rfl
  | cons x t ih =>
    obtain ⟨i, v⟩ := x
    simp only [Tbl.find?] at h
    split at h
    · cases h
    · next hik =>
      simp only [Tbl.del]
      split
      · exact h
      · simp only [Tbl.find?, if_neg hik]
        exact ih h

/-- Erasing a zone takes it out of the directory. -/
theorem zones_eraseZone {zn : Nat} {z : Zone} (h : Tbl.find? zn s.arc.zones = some z) :
    (eraseZone zn s).arc.zones = Tbl.del zn s.arc.zones := by
  have hsame (l : LogState) : (s.arc.setLog z.log l).zones = s.arc.zones := by
    unfold Arc.setLog
    split
    · rfl
    split <;> rfl
  simp only [eraseZone, h, writeAnchors, hsame]

@[simp] theorem zones_countBack (s : State) : (countBack s).arc.zones = s.arc.zones := by
  unfold countBack
  split <;> rfl

/-- Zones that are erased are gone, and none comes in their place (R279). -/
theorem zones_eraseReleased (l : List Nat) (s : State) (hwf : Tbl.wf s.arc.zones = true) :
    (∀ n ∈ l, Tbl.find? n (eraseReleased l s).arc.zones = none) ∧
      ∀ n, Tbl.find? n s.arc.zones = none → Tbl.find? n (eraseReleased l s).arc.zones = none := by
  induction l generalizing s with
  | nil => exact ⟨by simp, fun n h => h⟩
  | cons zn l ih =>
    simp only [eraseReleased]
    cases hz : Tbl.find? zn s.arc.zones with
    | none =>
      obtain ⟨hgone, hkeep⟩ := ih s hwf
      simp only [Option.isSome_none, Bool.false_eq_true, if_false]
      refine ⟨fun n hn => ?_, hkeep⟩
      rcases List.mem_cons.mp hn with rfl | hn
      · exact hkeep n hz
      · exact hgone n hn
    | some z =>
      have hzones : (countBack (eraseZone zn s)).arc.zones = Tbl.del zn s.arc.zones := by rw [zones_countBack, zones_eraseZone hz]
      obtain ⟨hgone, hkeep⟩ := ih (countBack (eraseZone zn s)) (by rw [hzones]; exact Tbl.del_wf zn _ hwf)
      simp only [Option.isSome_some, if_true]
      rw [hzones] at hkeep
      refine ⟨fun n hn => ?_, fun n hn => hkeep n (Tbl.find?_del_none n zn _ hn)⟩
      rcases List.mem_cons.mp hn with rfl | hn
      · exact hkeep n (Tbl.find?_del_self n hwf)
      · exact hgone n hn

end

/-- Settles O44: each request by `withAuth`, the erasure by the zones that it takes out of the directory. -/
theorem archiveOperations : Obligations.ArchiveOperations := by
  refine ⟨fun q spec s hr => ⟨?read, fun hkind => ?verbatim, fun hkind => ?filtered⟩, fun q group start finish s hr => ?window,
    fun q auth r c l s u hr hauth hcp hu hl => ?release, fun s hrun hwf => ⟨fun hnone => ?nothing, fun hsome => ?erase⟩,
    fun q auth s u hr hauth hrange => ?journal, fun q auth s u hr hu => ⟨fun hstep => ?waits, fun hstep hauth href => ?step⟩,
    fun q auth reason s => ⟨fun hr hbad => ?releaseRefused, fun hr hbad => ?journalRefused, fun hr hstep hbad => ?stepRefused⟩⟩
  case read =>
    simp only [← readSpec_ok_iff]
    by_cases hok : spec.ok = true
    · rw [if_pos hok]
      exact exec_done (comp := okDetail 0) hr rfl (if_pos hok)
    · rw [if_neg hok]
      exact exec_done (comp := reject 0) hr rfl (if_neg hok)
  case verbatim =>
    rw [readout, if_neg (by omega)]
  case filtered =>
    rw [readout, if_pos hkind]
  case window =>
    simp only [← captureWindow_ok_iff group start finish s.sck.now]
    split
    · next hok =>
      split
      · next hfull => exact exec_done (comp := bare stRefusedFull) hr rfl ((if_neg hok).trans (if_pos hfull))
      · next hfree =>
        refine exec_done (comp := okDetail (freeWindow s.arc.windows windowLimit 0)) hr rfl ((if_neg hok).trans ((if_neg hfree).trans ?_))
        rfl
    · next hbad => exact exec_done (comp := reject 0) hr rfl (if_pos (Classical.not_not.mp hbad))
  case release =>
    obtain ⟨hepoch, hfind⟩ := hcp
    have hcheck : (if leAt auth.params 8 4 = s.arc.epoch then findCheckpoint (leAt auth.params 0 8) s.arc.log0.records else none) = some (r, c) :=
      (if_pos hepoch).trans hfind
    have hsome : ((if leAt auth.params 8 4 = s.arc.epoch then findCheckpoint (leAt auth.params 0 8) s.arc.log0.records else none).isSome &&
        decide (leAt auth.params 12 2 ≤ 3650)) = true := by
      simp [hcheck, hauth.2]
    subst hu
    split
    · next hnone =>
      refine exec_done (comp := okDetail 0) hr rfl ((withAuth_accepted hauth.1 hsome).trans ?_)
      simp only [hcheck]
      exact if_pos (by rw [List.isEmpty_iff, ← hnone, hl]; rfl)
    · next hsome' =>
      refine exec_done (comp := okDetail l.length) hr rfl ((withAuth_accepted hauth.1 hsome).trans ?_)
      simp only [hcheck]
      subst hl
      exact if_neg (by rw [List.isEmpty_iff]; exact hsome')
  case nothing => exact (onMain_running hrun _).trans (if_pos (by simp [hnone]))
  case erase =>
    refine answers_next ((onMain_running hrun _).trans (if_neg (by simpa using hsome))) ⟨_, (zones_eraseReleased _ s hwf).1, rfl⟩
  case journal =>
    obtain ⟨hin, rfl⟩ := hrange
    exact exec_done (comp := okDetail 0) hr rfl (withAuth_accepted hauth (decide_eq_true hin))
  case waits => exact exec_busy hr rfl (if_pos (Option.isSome_iff_ne_none.mpr hstep))
  case step =>
    subst hu
    exact exec_running hr rfl ((if_neg (by simp [hstep])).trans (withAuth_accepted hauth (decide_eq_true href)))
  case releaseRefused =>
    refine exec_done hr rfl (withAuth_refused (hbad.imp id fun ⟨hauth, hreason, hwhy⟩ => ⟨hauth, ?_, hreason⟩))
    rcases hwhy with hepoch | hfind | hage
    · simp [hepoch]
    · simp [hfind]
    · simp [Nat.not_le.mpr hage]
  case journalRefused =>
    refine exec_done hr rfl (withAuth_refused (hbad.imp id fun ⟨hauth, hreason, hout⟩ => ⟨hauth, ?_, hreason⟩))
    exact decide_eq_false (Nat.not_le.mpr hout)
  case stepRefused =>
    refine exec_done hr rfl ((if_neg (by simp [hstep])).trans (withAuth_refused (hbad.imp id fun ⟨hauth, hreason, hout⟩ => ⟨hauth, ?_, hreason⟩)))
    simpa using hout

end Sys2Proof.Machine

/-! ### Keys: loading, the vault, attestation, Temper messages and the events of keys -/

namespace Sys2Proof.Machine

section
variable {s : State}

/-! #### Slots and blobs -/

theorem ownHandle_own {f h : Nat} (hown : h ≠ 0 ∧ handleFn h = f) : ownHandle f h = none := by
  rw [ownHandle, if_neg hown.1, if_neg (Classical.not_not.mpr hown.2)]

/-- The end of a slot's condition leaves the cache and the vault. -/
theorem slotBack_key (h : Nat) (s : State) : (slotBack h s).key = { s.key with lostAt := (slotBack h s).key.lostAt } := by
  unfold slotBack
  split
  · rfl
  · simp

/-- A slot that is filled holds the key with its working form; the vault stays (R299). -/
theorem fillSlot_key (b : Blob) (m : Bytes) (s : State) :
    (∃ k, (fillSlot b m s).key? b.handle = some k ∧ k.blob = b ∧ k.material = m ∧ k.work = workOf b.handle b.attr.kind m ∧
      k.faulted = false) ∧ (fillSlot b m s).key.vault = s.key.vault := by
  simp only [fillSlot, putKey, State.key?, keyEdges_frame]
  rw [slotBack_key]
  simp only [loadDrawn_frame, Tbl.find?_put_self]
  exact ⟨⟨_, rfl, rfl, rfl, rfl, rfl⟩, trivial⟩

theorem appendBlob_key (b : Blob) (s : State) : (appendBlob b s).key = { s.key with vault := Tbl.put b.handle b s.key.vault } := by
  simp [appendBlob]

theorem vaultStore_key (b : Blob) (s : State) : (vaultStore b s).key = { s.key with vault := Tbl.put b.handle b s.key.vault } :=
  appendBlob_key b s

/-- A key that is installed stands in the cache, and with VAULT its blob in the vault (R305). -/
theorem installKey_key (b : Blob) (m : Bytes) (vault : Bool) (s : State) :
    (∃ k, (installKey b m vault s).key? b.handle = some k ∧ k.blob = b ∧ k.material = m ∧ k.work = workOf b.handle b.attr.kind m ∧
      k.faulted = false) ∧ (vault = true → Tbl.find? b.handle (installKey b m vault s).key.vault = some b) := by
  obtain ⟨hkey, -⟩ := fillSlot_key b m s
  cases vault with
  | false => exact ⟨hkey, by simp⟩
  | true =>
    have hinstall : installKey b m true s = vaultStore b (fillSlot b m s) := rfl
    rw [hinstall]
    refine ⟨?_, fun _ => ?_⟩
    · simpa only [State.key?, vaultStore_key] using hkey
    · rw [vaultStore_key]
      exact Tbl.find?_put_self ..

theorem loadDraw_served {q : Call} {kind : Nat} {k : State → OpOut} (h : isPrivateKind kind = true → s.rnu.st = .ready) :
    loadDraw q kind s k = k s := by
  unfold loadDraw
  split
  · next hp => exact withDraw_of_ready _ (h hp)
  · rfl

theorem dropKey_keys (h : Nat) (s : State) : (dropKey h s).key.keys = Tbl.del h s.key.keys := by
  simp [dropKey]

/-- The blob that seals a new key is one under the domain's wrapping key of its epoch, which no draw changes (R294). -/
theorem sealBlob_under {t : State} (h : Nat) (attr : KeyAttr) (m : Bytes) (hkey : t.key = s.key) : (sealBlob h attr m t).1 =
    sealUnder (s.dwk (handleFn h) (s.dom (handleFn h)).epoch) 1 h (s.dom (handleFn h)).epoch (beNat (draw 12 t).1) attr m := by
  simp only [sealBlob, State.dwk, State.srk, State.dom, draw_frame, hkey]

theorem dom_updDom_self (d : Nat) (k : Domain → Domain) (s : State) : (s.updDom d k).dom d = k (s.dom d) := Tbl.get_put_self ..

/-- Allocating a handle changes its counter alone. -/
theorem allocHandle_dwk {f h : Nat} {t : State} (halloc : allocHandle f s = some (h, t)) (d epoch : Nat) : t.dwk d epoch = s.dwk d epoch := by
  unfold allocHandle at halloc
  simp only [] at halloc
  split at halloc
  · cases halloc
  · cases halloc
    rfl

/-- A new key of a well-formed request: drawn, sealed, and loaded or stored as asked (R299). -/
theorem generated {attr : KeyAttr} {h : Nat} {m : Bytes} {load vault : Bool} {t u : State} (hvault : vault = true → load = true)
    (hu : u = (if load then installKey (sealBlob h attr m t).1 m vault (sealBlob h attr m t).2 else (sealBlob h attr m t).2)) :
    (load = true → ∃ k, u.key? h = some k ∧ k.blob = (sealBlob h attr m t).1 ∧ k.material = m) ∧
      (vault = true → Tbl.find? h u.key.vault = some (sealBlob h attr m t).1) := by
  subst hu
  obtain ⟨⟨k, hk, hblob, hm, -, -⟩, hv⟩ := installKey_key (sealBlob h attr m t).1 m vault (sealBlob h attr m t).2
  refine ⟨fun hload => ?_, fun hvaulted => ?_⟩
  · rw [if_pos hload]
    exact ⟨k, hk, hblob, hm⟩
  · rw [if_pos (hvault hvaulted)]
    exact hv hvaulted

/-! #### The operations that name a key without using it -/

theorem exec_keyLoad_checked {q : Call} {vault : Bool} {b : Blob} {m : Bytes} {comp : Completion} {t : State}
    (hr : ready 0x0101 q 0 s = true) (hform : blobFormOk 1 b = true) (hown : b.handle ≠ 0 ∧ handleFn b.handle = q.f)
    (hroot : s.key.rootPresent = true) (hm : unwrapped s b = some m) (husage : usageOk b.attr.kind b.attr.usage = true)
    (hfits : vault = true → vaultFits s b.handle b.len = true)
    (hk : (match s.key? b.handle with
      | some k => OpOut.done (okDetail b.handle) (if vault then vaultStore k.blob s else s)
      | none =>
        if s.slotsFit q.f (kindSlots b.attr.kind) = false then .done (bare stRefusedFull) s
        else loadDraw q b.attr.kind s fun s1 => .done (okDetail b.handle) (installKey b m vault s1)) = .done comp t) :
    exec (.keyLoad q vault b) s = .next (complete q comp t) := by
  refine exec_done hr rfl ?_
  simp only [ownHandle_own hown, hm]
  rw [if_neg (by simp [hform]), if_neg (by simp [hroot]), if_neg (by simp [husage]), if_neg (fun h => by simp [hfits h.1] at h)]
  exact hk

end

/-- Settles O20: the vault by `appendBlob`, the reservations of the function's domain. -/
theorem keysVaultAndReservations : Obligations.KeysVaultAndReservations := by
  refine ⟨fun q handle k s hr hown hfits => ⟨?store, ?stored, rfl⟩, fun q handle s hr hown => ?delete,
    fun q kind usage ident group h vault s1 s hr hbody hopen halloc => ?reserve, fun q handle s hr hown hopen => ?cancel⟩
  case store =>
    obtain ⟨hne, hfn, hkey⟩ := hown
    refine exec_done (comp := bare stOk) hr rfl ?_
    simp only [ownHandle_own ⟨hne, hfn⟩, hkey]
    rw [if_neg (by simp [hfits.1]), if_neg (by simp [hfits.2])]
  case stored =>
    rw [vaultStore_key]
    exact Tbl.find?_put_self ..
  case delete =>
    obtain ⟨hne, hfn, hstored⟩ := hown
    split
    · next hnamed =>
      refine exec_done (comp := bare stKeyUsageDenied) hr rfl ?_
      simp only [ownHandle_own ⟨hne, hfn⟩]
      exact if_pos hnamed
    · next hfree =>
      refine exec_done (comp := bare stOk) hr rfl ?_
      simp only [ownHandle_own ⟨hne, hfn⟩]
      rw [if_neg hfree, if_pos hstored]
  case reserve =>
    obtain ⟨hk1, hk3, hu1, hu3, hgroup⟩ := hbody
    refine exec_done (comp := okDetail h) hr rfl ?_
    rw [if_neg (by omega), if_neg (by omega)]
    simp only [halloc]
  case cancel =>
    refine exec_done (comp := bare stOk) hr rfl ?_
    simp only [ownHandle_own hown]
    exact if_pos hopen

/-- Settles O19: a blob by its checks in order, a new key by its draw and its seal. -/
theorem keysLoadAndUnload : Obligations.KeysLoadAndUnload := by
  refine ⟨fun q vault b m s hr hb hm husage hfits hslots => ?load, fun q b m k s hr hb hm husage => ?again,
    fun q vault b s hr hown => ⟨fun hform => ?badForm, fun hform hroot => ?noRoot, fun hform hroot hm => ?wraps⟩,
    fun q handle k s hr hown hroot => ⟨?unload, dropKey_keys handle s⟩,
    fun q kind flags keyLen usage ident group notBefore notAfter h s1 s hr hbody halloc hroom hready => ?generate,
    fun q handle k s hr hown hroot => ?read⟩
  case load =>
    obtain ⟨hform, hne, hfn, hnone⟩ := hb
    obtain ⟨hkey, hvault⟩ := installKey_key b m vault s
    refine answers_next (exec_keyLoad_checked (comp := okDetail b.handle) (t := installKey b m vault s) hr hform ⟨hne, hfn⟩ hm.1 hm.2 husage.1 hfits ?_)
      ⟨_, rfl, hkey, hvault⟩
    simp only [hnone]
    rw [if_neg (by simp [hslots]), loadDraw_served husage.2]
  case again =>
    obtain ⟨hform, hne, hfn, hkey⟩ := hb
    refine exec_keyLoad_checked (comp := okDetail b.handle) hr hform ⟨hne, hfn⟩ hm.1 hm.2 husage (by simp) ?_
    simp only [hkey]
    rfl
  case badForm => exact exec_done (comp := reject 0) hr rfl (if_pos hform)
  case noRoot =>
    refine exec_done (comp := bare stKeyNotLoaded) hr rfl ((if_neg (by simp [hform])).trans ?_)
    simp only [ownHandle_own hown]
    exact if_pos hroot
  case wraps =>
    refine exec_done (comp := reject 0) hr rfl ((if_neg (by simp [hform])).trans ?_)
    simp only [ownHandle_own hown, hm]
    exact if_neg (by simp [hroot])
  case unload =>
    obtain ⟨hne, hfn, hkey⟩ := hown
    have hloaded : ¬ (s.key.rootPresent = false ∨ s.key? handle = none) := by simp [hroot, hkey]
    split
    · next hpinned =>
      refine exec_done (comp := bare stKeyUsageDenied) hr rfl ?_
      simp only [ownHandle_own ⟨hne, hfn⟩]
      exact (if_neg hloaded).trans (if_pos hpinned)
    · next hfree =>
      refine exec_done (comp := bare stOk) hr rfl ?_
      simp only [ownHandle_own ⟨hne, hfn⟩]
      exact (if_neg hloaded).trans (if_neg hfree)
  case generate =>
    let m := drawMaterial kind (kindLen kind keyLen) s1
    let attr : KeyAttr := {
      kind, origin := 1, migratable := bitOf flags 0, usage, ident, group, notBefore, notAfter
      created := toStamp s.sck.now, keyLen := kindLen kind keyLen }
    let b := sealBlob h attr m.1 m.2
    let u := if bitOf flags 1 then installKey b.1 m.1 (bitOf flags 2) b.2 else b.2
    have hexec : exec (.keyGenerate q kind flags keyLen usage ident group notBefore notAfter) s = .next (complete q
        { code := 0, detail := h, resultLen := blobLen (kindLen kind keyLen), output := blobBytes b.1 } u) := by
      refine exec_done hr rfl ((if_neg (by simp [hbody.1])).trans ((if_neg (by simp [hbody.2])).trans ?_))
      simp only [halloc]
      rw [if_neg, withDraw_of_ready _ hready]
      · rfl
      · simp only [Bool.or_eq_true, Bool.and_eq_true, Bool.not_eq_true', not_or, not_and, Bool.not_eq_false]
        exact ⟨hroom.1, fun hv => (hroom.2 hv).2⟩
    have hb : b.1 = sealUnder (s.dwk (handleFn h) (s1.dom (handleFn h)).epoch) 1 h (s1.dom (handleFn h)).epoch (beNat (draw 12 m.2).1) attr m.1 := by
      rw [← allocHandle_dwk halloc]
      exact sealBlob_under h attr m.1 (by simp [m])
    obtain ⟨hload, hvault⟩ := generated (attr := attr) (h := h) (m := m.1) (t := m.2) (u := u) (fun hv => (hroom.2 hv).1) rfl
    have hattr : b.1.attr = attr := by rw [hb]; rfl
    exact answers_next hexec ⟨m.1, _, b.1, u, by rw [hattr]; exact hb, hattr, hload, hvault, rfl⟩
  case read =>
    obtain ⟨hne, hfn, hkey⟩ := hown
    refine exec_done (comp := { code := 0, resultLen := blobLen k.blob.attr.keyLen, output := blobBytes k.blob }) hr rfl ?_
    simp only [ownHandle_own ⟨hne, hfn⟩, hkey]
    rw [if_neg (by simp [hroot.1]), if_neg (by omega)]
    rfl

/-- Settles O21: the statements as they are written out, a Temper message by its checks in order. -/
theorem attestationAndTemper : Obligations.AttestationAndTemper := by
  refine ⟨fun q handle challenge k s hr hown hroot => ?attest, fun q kind challenge s hr => ⟨fun hkind => ?device, fun hkind => ?certified, fun h1 h3 h4 => ?unknown⟩,
    fun q m s1 s hr hreason hadmits happly hready => ?applied,
    fun q m s hr => ⟨fun r i hreason => ?refused, fun hreason hlevel => ?restricted, fun hreason hlevel i hauth => ?unauthorised, fun hreason hlevel hauth i happly => ?invalid⟩,
    fun dom d tenant signer mkId role key s hd => ⟨fun hnone => ?createDomain, ?revoke, fun hmk => ?migration, fun hrole1 hrole3 hroles => ?enrol, fun hcond => ?clear⟩⟩
  case attest =>
    obtain ⟨hne, hfn, hkey⟩ := hown
    refine exec_done (comp := { code := 0, resultLen := statementLen (keyBodyLen k.blob.attr.kind), output := statement 2 challenge (keyBody k s) s }) hr rfl ?_
    simp only [ownHandle_own ⟨hne, hfn⟩, hkey]
    rw [if_neg (by simp [hroot.1]), if_neg (by omega)]
    rfl
  case device =>
    have h1 : kind ≠ 1 := by omega
    have hexec : exec (.deviceAttest q kind challenge) s = .next (complete q
        { code := 0, detail := statementLen (p384Public (if kind = 3 then s.ak else s.dtk)).length
          resultLen := statementLen (p384Public (if kind = 3 then s.ak else s.dtk)).length
          output := statement kind challenge (p384Public (if kind = 3 then s.ak else s.dtk)) s } s) := by
      refine exec_done hr rfl ((if_neg (by omega)).trans ?_)
      simp only [if_neg h1, List.append_nil, List.length_nil, Nat.add_zero]
      rfl
    exact answers_next hexec ⟨_, rfl, rfl⟩
  case certified =>
    subst hkind
    exact answers_next (exec_done hr rfl (if_neg (by simp))) rfl
  case unknown => exact exec_done (comp := reject 0) hr rfl (if_pos ⟨h1, h3, h4⟩)
  case applied =>
    obtain ⟨hroot, hdraw⟩ := hready
    refine exec_done (comp := bare stOk) hr rfl ?_
    simp only [hreason, hadmits.1, hadmits.2, happly, hroot, Bool.false_eq_true, if_false]
    split
    · next hd => exact withDraw_of_ready _ (hdraw hd)
    · rfl
  case refused =>
    refine exec_done (comp := reject (temperDetail r i)) hr rfl ?_
    simp only [hreason]
  case restricted =>
    refine exec_done (comp := bare stRestricted) hr rfl ?_
    simp only [hreason]
    exact if_pos hlevel
  case unauthorised =>
    refine exec_done (comp := reject (temperDetail 0x0109 i)) hr rfl ?_
    simp only [hreason, hlevel, hauth, Bool.false_eq_true, if_false]
  case invalid =>
    refine exec_done (comp := reject (temperDetail 0x010A i)) hr rfl ?_
    simp only [hreason, hlevel, hauth, happly, Bool.false_eq_true, if_false]
  case createDomain => exact ⟨_, if_neg (by simp [hnone]; omega), dom_updDom_self ..⟩
  case revoke => exact ⟨_, if_neg (by simp; omega), dom_updDom_self ..⟩
  case migration => exact ⟨_, if_neg hmk, dom_updDom_self ..⟩
  case enrol =>
    have hroom : roleRoom s role [] = some [] := rfl
    refine ⟨s.updDom d fun v => { v with roles := [{ role, key, signerId := signerIdOf key, stamp := toStamp s.sck.now }] }, ?_, ?_⟩
    · simp only [applyTemper]
      rw [if_neg (by simp [hroles]; omega), hroles, hroom]
      rfl
    · rw [dom_updDom_self]
  case clear => exact if_pos hcond

/-- Settles O22: a slot's repair by `fillSlot`, a pushed key by the reservation it matches. -/
theorem keyEvents : Obligations.KeyEvents := by
  refine ⟨fun handle k s hrun hkey hpast hnamed => ?lifetime, fun handle waiting k b m s hrun hkey hblob => ⟨?repair, ?repaired⟩,
    fun handle waiting k s hrun hkey hnone => ⟨?lost, dropKey_keys handle s⟩, fun id x s hctx => ⟨?back, ?gone⟩,
    fun f group ident kind notBefore notAfter material r s hrun hmatch hready => ?bound,
    fun f group ident kind notBefore notAfter material r s hrun => ⟨fun hmatch hopen hnot => ?stays, fun hnone => ?discarded, fun check hmatch hbound => ?second⟩,
    fun handle k s hrun hkey hlead => ?push⟩
  case lifetime =>
    refine (onMain_running hrun _).trans ?_
    simp only [hkey]
    exact if_pos ⟨hpast.1, hpast.2, hnamed.1, hnamed.2⟩
  case repair =>
    refine (onMain_running hrun _).trans ?_
    simp only [hkey.1, hblob.1, hblob.2.1]
    exact if_neg (by simp [hkey.2])
  case repaired =>
    obtain ⟨k', hk, hb, hm, -, hfault⟩ := (fillSlot_key b m s).1
    rw [hblob.2.2] at hk
    exact ⟨k', hk, hb, hm, hfault⟩
  case lost =>
    refine (onMain_running hrun _).trans ?_
    rcases hnone with hnone | ⟨b, hb, hwrap⟩
    · simp only [hkey.1, hnone]
      exact if_neg (by simp [hkey.2])
    · simp only [hkey.1, hb, hwrap]
      exact if_neg (by simp [hkey.2])
  case back =>
    simp only [resolveWaiting, hctx, if_true]
    have hid := ctx?_id hctx
    exact ctx?_setCtx hctx hid
  case gone =>
    simp only [resolveWaiting, hctx, Bool.false_eq_true, if_false]
    rfl
  case bound =>
    obtain ⟨hlevel, hroot, hslots, hrnu, hvault⟩ := hready
    let attr : KeyAttr := {
      kind, origin := 3, usage := r.usage, ident, group, notBefore, notAfter, created := toStamp s.sck.now, keyLen := material.length }
    let b := sealBlob r.handle attr material s
    have hexec : exec (.gdoiPushReceived f group ident kind material notBefore notAfter) s = .next (raiseEvent .key f 0
        (stageRec 0x23 f (.keyEvent r.handle 6 0) ((installKey b.1 material r.vault b.2).updDom f fun d =>
          { d with reservations := bindReservation r.handle (checkValue material) d.reservations }))) := by
      refine (onMain_running hrun _).trans ?_
      simp only [hmatch.1, hmatch.2]
      rw [if_neg]
      · rfl
      · simp only [hlevel, hroot, hslots, hrnu]
        simpa using hvault
    obtain ⟨⟨k, hk, hkb, hkm, -, -⟩, hv⟩ := installKey_key b.1 material r.vault b.2
    exact answers_next hexec ⟨b.1, _, rfl, rfl, ⟨k, hk, hkb, hkm⟩, hv, rfl⟩
  case stays =>
    refine (onMain_running hrun _).trans ?_
    simp only [hmatch, hopen]
    refine if_pos ?_
    grind
  case discarded =>
    refine (onMain_running hrun _).trans ?_
    simp only [hnone]
    rfl
  case second =>
    refine (onMain_running hrun _).trans ?_
    simp only [hmatch, hbound]
    rfl
  case push =>
    obtain ⟨hk, horigin, hgroup, hlevel⟩ := hkey
    refine (onMain_running hrun _).trans ?_
    simp only [hk]
    exact if_pos ⟨horigin, hgroup, hlevel, hlead⟩

end Sys2Proof.Machine

/-! ### The tamper monitor: alarms in every power state, the journal, the Quench path and the end of Restrict -/

namespace Sys2Proof.Machine

section
variable {s : State} {cause source data level : Nat}

/-! #### The journal (R601, R602, R614, R618) -/

theorem subsume_indexes (key : Bytes) (stamp level : Nat) (l : List JournalEntry) :
    (subsume key stamp level l).map (·.index) = l.map (·.index) := by
  induction l with
  | nil => rfl
  | cons e t ih =>
    rw [subsume]
    split
    · simp only [List.map_cons, ih]
      rfl
    · rfl

theorem subsume_length (key : Bytes) (stamp level : Nat) (l : List JournalEntry) :
    (subsume key stamp level l).length = l.length := by simpa using congrArg List.length (subsume_indexes key stamp level l)

/-- An entry that is written touches the journal and its mark alone of the tamper monitor. -/
theorem writeEntry_tm (e : JournalEntry) (s : State) :
    (writeEntry e s).tm = { s.tm with journal := (writeEntry e s).tm.journal, full := (writeEntry e s).tm.full } := by
  by_cases hfull : s.tm.full = true
  · rw [writeEntry, if_pos hfull]
  · rw [writeEntry, if_neg hfull]
    simp only []
    split <;> simp

/-- A journal that is not full takes the entry at the next INDEX (R614). -/
theorem writeEntry_journal {e : JournalEntry} (hfull : s.tm.full = false) :
    ∃ mac, (writeEntry e s).tm.journal = { e with index := s.tm.journal.length, mac } ::
      subsume s.ident.journalKey e.stamp e.level s.tm.journal := by
  rw [writeEntry, if_neg (by simp [hfull])]
  simp only []
  split <;> exact ⟨_, by simp [sealEntry, subsume_length]; rfl⟩

theorem overflowEntries_tm (at_ : Nat) (l : List HourCount) (s : State) : (overflowEntries at_ l s).tm =
    { s.tm with journal := (overflowEntries at_ l s).tm.journal, full := (overflowEntries at_ l s).tm.full } := by
  induction l generalizing s with
  | nil => rfl
  | cons h t ih =>
    rw [overflowEntries]
    split
    · exact ih s
    · rw [ih, writeEntry_tm]

theorem closeHour_same (h : rtcHours s = s.tm.hour) : closeHour s = s := if_pos h

theorem closeHour_quenchBusy (s : State) : (closeHour s).tm.quenchBusy = s.tm.quenchBusy := by
  unfold closeHour
  split
  · rfl
  · have hq := congrArg Tm.quenchBusy (overflowEntries_tm (hourEnd s) s.tm.hours s)
    exact hq

theorem journalAlarm_quenchBusy (cause source data level : Nat) (esc : Bool) (s : State) :
    (journalAlarm cause source data level esc s).tm.quenchBusy = s.tm.quenchBusy := by
  unfold journalAlarm
  simp only []
  split
  · exact (congrArg Tm.quenchBusy (writeEntry_tm ..)).trans (closeHour_quenchBusy s)
  · exact closeHour_quenchBusy s

/-- An alarm in the hour that is counted, not yet journalled 16 times: its entry, and its lifetime count (R602, R614, R618). -/
theorem journalAlarm_written {esc : Bool} (hhour : rtcHours s = s.tm.hour) (hfew : (hourOf cause source s.tm.hours).entries < 16)
    (hfull : s.tm.full = false) :
    (∃ e js, (journalAlarm cause source data level esc s).tm.journal = e :: js ∧
      js.map (·.index) = s.tm.journal.map (·.index) ∧ e.index = s.tm.journal.length ∧
      e.cause = cause ∧ e.source = source ∧ e.data = data ∧ e.level = level) ∧
    (journalAlarm cause source data level esc s).tm.counters =
      Tbl.put cause (min 0xFFFFFFFF (Tbl.get 0 s.tm.counters cause + 1)) s.tm.counters := by
  rw [journalAlarm, closeHour_same hhour]
  have hfew' : (hourOf cause source (countCause cause 1 s).tm.hours).entries < 16 := hfew
  simp only [if_pos hfew']
  constructor
  · obtain ⟨mac, hj⟩ := writeEntry_journal (s := { countCause cause 1 s with tm := { (countCause cause 1 s).tm with
      hours := putHour { hourOf cause source (countCause cause 1 s).tm.hours with
        entries := (hourOf cause source (countCause cause 1 s).tm.hours).entries + 1 } (countCause cause 1 s).tm.hours } })
      (e := { index := 0, cause, level, escalated := esc, stamp := (countCause cause 1 s).sck.now,
              quality := (countCause cause 1 s).quality, source, data,
              subsumed := decide (level < latchLevel (countCause cause 1 s).tm) }) hfull
    exact ⟨_, _, hj, subsume_indexes .., rfl, rfl, rfl, rfl, rfl⟩
  · rw [writeEntry_tm]
    simp [countCause, satTo_eq_min, max32]

/-! #### Alarms in the main domain (R588, R592, R603) -/

/-- The onset of an alarm is noted: what it makes present, and the time of a logic alarm. -/
def onset (cause source : Nat) (s : State) : State :=
  let present := if cause = causeLight then s.tm.present.filter (fun x => x.1 != causeLightDisagree) else s.tm.present
  { s with tm := { s.tm with
    present := if isCondition cause then (cause, source) :: present else present,
    lastLogic := if cause = causeLogic then some s.sck.rtcCount else s.tm.lastLogic } }

/-- An alarm below Quench latches its level over what its journal entry left. -/
theorem raiseAlarm_latched (hnew : (isCondition cause && isPresent s cause source) = false) (hlevel : alarmLevel s cause source < 2) :
    (raiseAlarm cause source data s).tm = setLatch cause (alarmLevel s cause source)
      (journalAlarm cause source data (alarmLevel s cause source) (escalates s cause && alarmLevel s cause source == 2)
        (onset cause source s)).tm := by
  rw [raiseAlarm, if_neg (by simp [hnew])]
  simp only [if_neg (show ¬ 2 ≤ alarmLevel s cause source by omega), ite_tm, raiseEvent_frame, ite_self, onset]

/-- An alarm at a Quench level fires it on a state in which no key, session or generator has changed. -/
theorem raiseAlarm_fires (hnew : (isCondition cause && isPresent s cause source) = false) (hlevel : 2 ≤ alarmLevel s cause source) :
    ∃ t, raiseAlarm cause source data s = fireQuench cause (alarmLevel s cause source) t ∧ t.key = s.key ∧ t.rnu = s.rnu ∧
      t.tls = s.tls ∧ t.tm.quenchBusy = s.tm.quenchBusy := by
  rw [raiseAlarm, if_neg (by simp [hnew])]
  simp only [if_pos hlevel]
  refine ⟨_, rfl, ?_, ?_, ?_, ?_⟩
  · simp [ite_key]
  · simp [ite_rnu]
  · simp [ite_tls]
  · simp [ite_tm, journalAlarm_quenchBusy]

theorem levelEdge_tm (old : Nat) (s : State) : (levelEdge old s).tm = { s.tm with levelAt := (levelEdge old s).tm.levelAt } := by
  unfold levelEdge
  simp only [keyEdgesFrom_frame]
  split
  · rfl
  · split
    · rfl
    · rfl

/-- A change of level leaves the latches as they are. -/
theorem noteLevel_tm (old cause : Nat) (s : State) : (noteLevel old cause s).tm = { s.tm with levelAt := (noteLevel old cause s).tm.levelAt } := by
  unfold noteLevel
  split
  · rfl
  · rw [levelEdge_tm]
    simp [securityRec]

theorem setLatch_quench (cause : Nat) (t : Tm) (level : Nat) :
    (setLatch cause level t).quenchBusy = t.quenchBusy ∧ (level = 2 → (setLatch cause level t).quenchW = true) ∧
      (level = 3 → (setLatch cause level t).quenchR = true) := by
  unfold setLatch
  refine ⟨?_, ?_, ?_⟩
  · split
    · rfl
    · split
      · rfl
      · split
        · split <;> rfl
        · rfl
  · rintro rfl
    rfl
  · rintro rfl
    rfl

/-- The Quench instant zeroes the random number unit and closes every TLS session (R402, R480). -/
theorem quenchStart_effects (s : State) : (quenchStart s).tm = { s.tm with quenchBusy := true } ∧ (quenchStart s).rnu = s.rnu.zero ∧
    (quenchStart s).key = s.key ∧ (quenchStart s).tls.sessions = Tbl.mapAll (fun _ v => { v with st := 2 }) s.tls.sessions := by
  simp [quenchStart]

/-- A Quench alarm while no path runs is the Quench instant of a state with the latch and the count. -/
theorem fireQuench_idle (hidle : s.tm.quenchBusy = false) :
    ∃ t, fireQuench cause level s = quenchStart t ∧ t.tm = { setLatch cause level s.tm with levelAt := t.tm.levelAt } ∧
      t.key = (if level = 3 then { s.key with quenchR := s.key.quenchR + 1 } else { s.key with quenchW := s.key.quenchW + 1 }) ∧
      t.rnu = s.rnu ∧ t.tls = s.tls := by
  have htm := noteLevel_tm s.level cause { s with
    tm := setLatch cause level s.tm
    key := if level = 3 then { s.key with quenchR := s.key.quenchR + 1 } else { s.key with quenchW := s.key.quenchW + 1 } }
  unfold fireQuench
  simp only [ite_tm, addCondAll_frame, ite_self]
  rw [if_neg (by rw [htm]; simp [(setLatch_quench cause s.tm level).1, hidle])]
  refine ⟨_, rfl, ?_, ?_, ?_, ?_⟩
  · simpa only [ite_tm, addCondAll_frame, ite_self] using htm
  · simp only [ite_key, addCondAll_frame, noteLevel_frame, ite_self]
  · simp only [ite_rnu, addCondAll_frame, noteLevel_frame, ite_self]
  · simp only [ite_tls, addCondAll_frame, noteLevel_frame, ite_self]

/-- A Quench alarm while no path runs latches its level, counts it and starts the path (R603, R605). -/
theorem fireQuench_starts (hidle : s.tm.quenchBusy = false) :
    (level = 2 → (fireQuench cause level s).tm.quenchW = true) ∧ (level = 3 → (fireQuench cause level s).tm.quenchR = true) ∧
      (fireQuench cause level s).tm.quenchBusy = true ∧
      (fireQuench cause level s).key = (if level = 3 then { s.key with quenchR := s.key.quenchR + 1 }
        else { s.key with quenchW := s.key.quenchW + 1 }) ∧
      (fireQuench cause level s).rnu = s.rnu.zero ∧
      (fireQuench cause level s).tls.sessions = Tbl.mapAll (fun _ v => { v with st := 2 }) s.tls.sessions := by
  obtain ⟨t, ht, htm, hkey, hrnu, htls⟩ := fireQuench_idle (cause := cause) (level := level) hidle
  obtain ⟨hbusy, hw, hr⟩ := setLatch_quench cause s.tm level
  obtain ⟨qtm, qrnu, qkey, qtls⟩ := quenchStart_effects t
  rw [ht, qtm, qrnu, qkey, qtls, hkey, hrnu, htls, htm]
  exact ⟨hw, hr, rfl, rfl, rfl, rfl⟩

theorem latchLevel_setLatch (cause : Nat) (t : Tm) : latchLevel (setLatch cause 1 t) ≥ 1 := by
  unfold latchLevel setLatch
  simp only [show (1 : Nat) ≠ 3 by decide, show (1 : Nat) ≠ 2 by decide, if_false, if_true]
  by_cases hc : cause = causeArchiveReserve
  · rw [if_pos hc]
    simp only [Bool.or_true, if_true]
    split
    · decide
    · split <;> decide
  · rw [if_neg hc]
    simp only [Bool.true_or, if_true]
    split
    · decide
    · split <;> decide

/-! #### Alarms while the main domain is off (R608 to R610) -/

theorem passRtc_main (cycles : Nat) (h : s.pwr.main = true) : passRtc cycles s = s := by simp [passRtc, h]

theorem noteLoop_other {broken : Bool} (h : cause ≠ causeLoop) : noteLoop cause source data broken s = s := by
  rw [noteLoop, if_neg (fun hl => h hl.1)]

theorem passRtc_tm (cycles : Nat) (s : State) : (passRtc cycles s).tm = s.tm := by
  unfold passRtc
  split <;> rfl

theorem noteLoop_loop {broken : Bool} (h : source < 4) : noteLoop causeLoop source data broken s =
    { s with tm := { s.tm with loopOpen := if broken then Tbl.put source data s.tm.loopOpen else Tbl.del source s.tm.loopOpen } } :=
  if_pos ⟨rfl, h⟩

theorem exec_tamperAlarm_main {cycles : Nat} (hw : s.pwr.main = true ∧ s.lcc.scrapFuse = false) :
    exec (.tamperAlarm cause source data cycles) s = .next (if (allCauses.contains cause && loopWatched s cause source) = true then
      raiseAlarm cause source data (if cause = causeLight
        then { noteLoop cause source data true s with tm := { (noteLoop cause source data true s).tm with lightA := true, lightB := true } }
        else noteLoop cause source data true s)
      else noteLoop cause source data true s) := by
  have hexec : exec (.tamperAlarm cause source data cycles) s = execTamperAlarm cause source data cycles s := rfl
  have hwatch : watching (noteLoop cause source data true s) = true := by simp [watching, hw]
  have hloop : loopWatched (noteLoop cause source data true s) cause source = loopWatched s cause source := by
    simp [loopWatched, State.loopCfg, State.reg]
  simp only [hexec, execTamperAlarm, passRtc_main cycles hw.1, hwatch, if_true, hloop]
  split <;> rfl

theorem exec_tamperAlarm_watched {cycles : Nat} (hw : s.pwr.main = true ∧ s.lcc.scrapFuse = false) (hloop : cause ≠ causeLoop)
    (hlight : cause ≠ causeLight) (hcause : allCauses.contains cause = true) :
    exec (.tamperAlarm cause source data cycles) s = .next (raiseAlarm cause source data s) := by
  have hlw : loopWatched s cause source = true := by simp [loopWatched, hloop]
  rw [exec_tamperAlarm_main hw, if_pos (by simp only [hcause, hlw, Bool.and_self]), if_neg hlight, noteLoop_other hloop]

theorem raiseAlarm_present (hcond : isCondition cause = true) (h : isPresent s cause source = true) : raiseAlarm cause source data s = s := by
  rw [raiseAlarm, if_pos (by simp only [hcond, h, Bool.and_self])]

/-- The state in which a cause at a source is present. -/
def withPresent (cause source : Nat) (s : State) : State := { s with tm := { s.tm with present := (cause, source) :: s.tm.present } }

theorem standbyAlarm_new (hcause : standbyCause cause = true) (hloop : cause ≠ causeLoop) (hlight : cause ≠ causeLight)
    (hnew : isPresent s cause source = false) : standbyAlarm cause source data s =
      (if alarmLevel s cause source = 3
        then zeroBbkr (stageAlarm false cause source (data % 256) (stagedValue cause data) (withPresent cause source s))
        else stageAlarm false cause source (data % 256) (stagedValue cause data) (withPresent cause source s)) := by
  rw [standbyAlarm, if_pos (by simp [hcause, hnew, loopWatched, hloop])]
  simp only [if_neg hlight, withPresent]

theorem snowdropAlarm_new (hcause : snowdropCause s cause source = true) (hnew : isPresent s cause source = false) :
    snowdropAlarm cause source data s =
      zeroBbkr (stageAlarm true cause source (data % 256) (stagedValue cause data) (withPresent cause source s)) :=
  if_pos (by simp [hcause, hnew])

/-- An alarm with room in the staging buffer is staged at its end (R610). -/
theorem stageAlarm_room {snowdrop : Bool} {subtype value : Nat} (h : s.tm.staging.length < 32) :
    ∃ e, (stageAlarm snowdrop cause source subtype value s).tm = { s.tm with staging := s.tm.staging ++ [e] } ∧
      e.cause = cause ∧ e.source = source ∧ e.snowdrop = snowdrop ∧ e.subtype = subtype := by
  rw [stageAlarm]
  simp only [if_pos h]
  exact ⟨_, rfl, rfl, rfl, rfl, rfl⟩

/-- With the staging buffer full the alarm and its cause are counted (R610). -/
theorem stageAlarm_full {snowdrop : Bool} {subtype value : Nat} (h : 32 ≤ s.tm.staging.length) :
    (stageAlarm snowdrop cause source subtype value s).tm =
      { s.tm with overflow := min 65535 (s.tm.overflow + 1), bitmap := s.tm.bitmap ||| 2 ^ bitmapBit cause source } := by
  rw [stageAlarm]
  simp only [if_neg (show ¬ s.tm.staging.length < 32 by omega), satTo_eq_min]

theorem stageAlarm_present {snowdrop : Bool} {subtype value : Nat} (s : State) :
    (stageAlarm snowdrop cause source subtype value s).tm.present = s.tm.present := by
  unfold stageAlarm
  simp only []
  split <;> rfl

theorem isPresent_of_present {t : State} {l : List (Nat × Nat)} (h : t.tm.present = (cause, source) :: l) :
    isPresent t cause source = true := by simp [isPresent, h]

end

/-- Settles O23: an alarm in the main domain by the effects of its journal entry and its latch, one in standby or Snowdrop by those of
the staging buffer. -/
theorem tamperAlarms : Obligations.TamperAlarms := by
  refine ⟨fun cause source data cycles s hw ⟨hcause, hloop, hlight⟩ hnew ⟨_, hlevel⟩ ⟨hhour, hfew, hfull⟩ => ?record,
    fun source data cycles s ⟨hmain, hfuse⟩ hsource => ⟨fun hoff => ?open_, fun hon => ?loop, ?light, fun hmesh => ?mesh⟩,
    fun cause source data cycles s hw ⟨hcause, hloop, hlight, _⟩ hnew ⟨hlevel, hidle⟩ => ?quench,
    fun cause source data cycles s ⟨hmain, hin, hfuse⟩ ⟨hloop, hlight, hcause, hnew⟩ hroom => ?standby,
    fun cause source data cycles s ⟨hmain, hin, hfed⟩ => ⟨fun hfuse hcause hnew => ?snowdrop, fun hnot => ?unwatched⟩,
    fun cause source s hpresent hloop => ?absent,
    fun elements cycles s ⟨hmain, hfuse, hno⟩ => ⟨fun hb => ?onlyA, fun ha => ?onlyB, fun hb => ?both⟩,
    fun mv cycles s ⟨hmain, hfuse⟩ => ?cell⟩
  case record =>
    refine answers_next (exec_tamperAlarm_watched hw hloop hlight hcause) ?_
    obtain ⟨⟨e, js, hj, hrest⟩, hcount⟩ := journalAlarm_written (s := onset cause source s) (data := data)
      (level := alarmLevel s cause source) (esc := escalates s cause && alarmLevel s cause source == 2) hhour hfew hfull
    obtain ⟨hindexes, hindex, hc, hsrc, hd, hl⟩ := hrest
    obtain ⟨hlj, -, hlc, -⟩ := setLatch_journal cause (alarmLevel s cause source) (journalAlarm cause source data
      (alarmLevel s cause source) (escalates s cause && alarmLevel s cause source == 2) (onset cause source s)).tm
    rw [raiseAlarm_latched hnew hlevel]
    refine ⟨e, js, hlj.trans hj, hindexes, hindex, hc, hsrc, hd, hl, ?_, fun h1 => ?_⟩
    · rw [hlc, hcount]
      exact Tbl.get_put_self ..
    · rw [h1]
      exact latchLevel_setLatch ..
  case open_ =>
    have hunwatched : loopWatched s causeLoop source = false := by simp [loopWatched, hoff]
    rw [exec_tamperAlarm_main ⟨hmain, hfuse⟩, if_neg (by rw [hunwatched, Bool.and_false]; nofun), noteLoop_loop hsource, if_pos rfl]
  case loop =>
    have hwatched : loopWatched s causeLoop source = true := by simp [loopWatched, hon, hsource]
    rw [exec_tamperAlarm_main ⟨hmain, hfuse⟩, if_pos (by rw [hwatched]; rfl), if_neg (by decide), noteLoop_loop hsource, if_pos rfl]
  case light =>
    rw [exec_tamperAlarm_main ⟨hmain, hfuse⟩, if_pos (by simp [loopWatched, causeLight, causeLoop, allCauses]), if_pos rfl,
      noteLoop_other (by decide)]
  case mesh =>
    rw [exec_tamperAlarm_watched ⟨hmain, hfuse⟩ (by decide) (by decide) (by decide), raiseAlarm_present (by decide) hmesh]
  case quench =>
    refine answers_next (exec_tamperAlarm_watched hw hloop hlight hcause) ?_
    obtain ⟨t, ht, hkey, hrnu, htls, hbusy⟩ := raiseAlarm_fires (data := data) hnew hlevel
    obtain ⟨hqw, hqr, hrun, hk, hr, hs⟩ := fireQuench_starts (cause := cause) (level := alarmLevel s cause source) (hbusy.trans hidle)
    rw [ht, hk, hr, hs, hkey, hrnu, htls]
    refine ⟨hqw, hqr, hrun, ?_, ?_, rfl, rfl, rfl, rfl, fun n v hv => ?_⟩
    · split <;> rfl
    · split <;> rfl
    · rw [Tbl.find?_mapAll, Option.map_eq_some_iff] at hv
      obtain ⟨_, -, rfl⟩ := hv
      rfl
  case standby =>
    have htm := passRtc_tm cycles s
    have hoff : watching (passRtc cycles s) = false := by simp [watching, hmain]
    have hstand : inStandby (passRtc cycles s) = true := by simp [inStandby, hmain, hin, hfuse]
    have hnew' : isPresent (passRtc cycles s) cause source = false := by rw [isPresent, htm]; exact hnew
    have hexec : exec (.tamperAlarm cause source data cycles) s = execTamperAlarm cause source data cycles s := rfl
    simp only [execTamperAlarm, noteLoop_other hloop, if_neg hlight, hoff, hstand, if_true, Bool.false_eq_true, if_false] at hexec
    refine answers_next hexec ?_
    obtain ⟨e, hstaged, he⟩ := stageAlarm_room (s := withPresent cause source (passRtc cycles s)) (cause := cause) (source := source) (snowdrop := false)
      (subtype := data % 256) (value := stagedValue cause data) (by rw [withPresent, htm]; exact hroom)
    rw [standbyAlarm_new hcause hloop hlight hnew']
    refine ⟨⟨e, ?_, he⟩, isPresent_of_present (l := (passRtc cycles s).tm.present) ?_, fun h3 => ?_, fun h3 => ?_⟩
    · rw [ite_tm, zeroBbkr, ite_self, hstaged]
      exact congrArg (fun m => m.staging ++ [e]) htm
    · rw [ite_tm, zeroBbkr, ite_self, stageAlarm_present]
      rfl
    · rw [if_pos h3]
      exact ⟨rfl, rfl⟩
    · rw [if_neg h3]
      simp [withPresent]
  case snowdrop =>
    have htm := passRtc_tm cycles s
    have hlcc : (passRtc cycles s).lcc = s.lcc := by simp
    have hsnow : inSnowdrop (passRtc cycles s) = true := by simp [inSnowdrop, hmain, hin, hfed]
    have hnew' : isPresent (passRtc cycles s) cause source = false := by rw [isPresent, htm]; exact hnew
    have hexec : exec (.snowdropAlarm cause source data cycles) s = execSnowdropAlarm cause source data cycles s := rfl
    simp only [execSnowdropAlarm, hsnow, hlcc, hfuse, snowdropAlarm_new hcause hnew', Bool.not_false, Bool.and_self, if_true] at hexec
    refine answers_next hexec ⟨rfl, rfl, isPresent_of_present (l := (passRtc cycles s).tm.present) ?_, fun hroom => ?_, fun hfull => ?_⟩
    · exact stageAlarm_present ..
    · obtain ⟨e, hstaged, hc, hs, hd, -⟩ := stageAlarm_room (s := withPresent cause source (passRtc cycles s)) (cause := cause) (source := source) (snowdrop := true)
        (subtype := data % 256) (value := stagedValue cause data) (by rw [withPresent, htm]; exact hroom)
      rw [zeroBbkr, hstaged]
      exact ⟨e, congrArg (fun m => m.staging ++ [e]) htm, hc, hs, hd⟩
    · rw [zeroBbkr, stageAlarm_full (by rw [withPresent, htm]; exact hfull), withPresent, htm]
      exact ⟨rfl, rfl, rfl⟩
  case unwatched =>
    have hlcc : (passRtc cycles s).lcc = s.lcc := by simp
    have hexec : exec (.snowdropAlarm cause source data cycles) s = execSnowdropAlarm cause source data cycles s := rfl
    rw [hexec, execSnowdropAlarm]
    rcases hnot with hfuse | hcause
    · simp only [hlcc, hfuse, Bool.not_true, Bool.and_false, Bool.false_eq_true, if_false]
    · simp only [snowdropAlarm, hcause, Bool.false_and, Bool.false_eq_true, if_false, ite_self]
  case absent =>
    have hexec : exec (.alarmConditionAbsent cause source) s = execAlarmConditionAbsent cause source s := rfl
    simp only [execAlarmConditionAbsent, noteLoop_other hloop, hpresent, if_true] at hexec
    refine answers_next hexec ⟨?_, rfl⟩
    simp [isPresent]
  case onlyA =>
    have hexec : exec (.lightDisagreeTimeout false elements cycles) s = execLightDisagreeTimeout false elements cycles s := rfl
    simp [hexec, execLightDisagreeTimeout, passRtc_main cycles hmain, hb, hno, watching, hmain, hfuse]
  case onlyB =>
    have hexec : exec (.lightDisagreeTimeout true elements cycles) s = execLightDisagreeTimeout true elements cycles s := rfl
    simp [hexec, execLightDisagreeTimeout, passRtc_main cycles hmain, ha, hno, watching, hmain, hfuse]
  case both =>
    have hexec : exec (.lightDisagreeTimeout false elements cycles) s = execLightDisagreeTimeout false elements cycles s := rfl
    simp [hexec, execLightDisagreeTimeout, passRtc_main cycles hmain, hb]
  case cell =>
    have hexec : exec (.cellTest mv cycles) s = execCellTest mv cycles s := rfl
    have hwatch : watching s = true := by simp [watching, hmain, hfuse]
    simp only [hexec, execCellTest, passRtc_main cycles hmain, hwatch, hmain, if_true, true_or]
    split <;> rfl

end Sys2Proof.Machine

namespace Sys2Proof.Machine

section
variable {s : State}

/-! #### The hour's overflow entries (R602) -/

/-- The OVERFLOW entry of a count, before its INDEX. -/
def overflowEntryOf (s : State) (at_ : Nat) (h : HourCount) : JournalEntry :=
  { index := 0, cause := h.cause, level := h.level, overflow := true, stamp := at_, quality := s.quality,
    source := h.source, count := h.excess, subsumed := decide (h.level < latchLevel s.tm) }

theorem overflowEntries_one {at_ : Nat} {h : HourCount} : overflowEntries at_ [h] s =
    if h.excess = 0 then s else writeEntry (overflowEntryOf s at_ h) s := rfl

theorem exec_journalOverflowHour (hrun : s.running = true) (hhour : rtcHours s ≠ s.tm.hour) :
    exec .journalOverflowHour s = .next { overflowEntries (hourEnd s) s.tm.hours s with
      tm := { (overflowEntries (hourEnd s) s.tm.hours s).tm with hours := [], hour := rtcHours s } } := by
  refine (onMain_running hrun _).trans ?_
  rw [closeHour, if_neg hhour]

/-! #### The end of the Quench path (R537, R605) -/

theorem finishWhere_ctxs (p : Ctx → Bool) (code : Nat) (l : List Ctx) (s : State) :
    ∀ c ∈ (finishWhere p code l s).hif.ctxs, c ∈ s.hif.ctxs ∧ ∀ d ∈ l, p d = true → c.id ≠ d.id := by
  induction l generalizing s with
  | nil => exact fun c hc => ⟨hc, fun _ hd => absurd hd List.not_mem_nil⟩
  | cons d l ih =>
    intro c hc
    rw [finishWhere] at hc
    obtain ⟨hin, hl⟩ := ih _ c hc
    by_cases hp : p d = true
    · rw [if_pos hp, (delivered_finishCtx ..).1, List.mem_filter] at hin
      refine ⟨hin.1, fun d' hd' hp' => ?_⟩
      rcases List.mem_cons.mp hd' with rfl | hd'
      · simpa using hin.2
      · exact hl d' hd' hp'
    · rw [if_neg hp] at hin
      refine ⟨hin, fun d' hd' hp' => ?_⟩
      rcases List.mem_cons.mp hd' with rfl | hd'
      · exact absurd hp' hp
      · exact hl d' hd' hp'

theorem abortPort_ctxs (f : Nat) (protocol : Bool) (s : State) : ∀ c ∈ (abortPort f protocol s).hif.ctxs, c ∈ s.hif.ctxs := by
  intro c hc
  by_cases hidle : (s.func f).dpState = 0
  · have hsame : abortPort f protocol s = s := if_pos hidle
    rwa [hsame] at hc
  · by_cases hx : ∀ id, (s.func f).dpCtx = some id → s.ctx? id = none
    · rwa [abortPort_without hidle hx, (OnlySends.raiseEvent ..).ctxs] at hc
    · obtain ⟨id, hid⟩ := Classical.not_forall.mp hx
      obtain ⟨hctx, hne⟩ := Classical.not_imp.mp hid
      obtain ⟨x, hx⟩ := Option.ne_none_iff_exists'.mp hne
      rw [abortPort_of_ctx hidle hctx hx, (OnlySends.raiseEvent ..).ctxs, (delivered_finishCtx ..).1, List.mem_filter,
        (OnlySends.leaveTransfer ..).ctxs] at hc
      exact hc.1

theorem abortPorts_ctxs (n : Nat) (s : State) : ∀ c ∈ (abortPorts n s).hif.ctxs, c ∈ s.hif.ctxs := by
  induction n with
  | zero => exact fun _ hc => hc
  | succ n ih =>
    intro c hc
    rw [abortPorts] at hc
    exact ih c (abortPort_ctxs n false _ c hc)

theorem abortPort_resetWaits (f : Nat) (protocol : Bool) (s : State) : (abortPort f protocol s).pwr.resetWaits = s.pwr.resetWaits := by
  have hleave (op f : Nat) (s : State) : (leaveTransfer op f s).pwr.resetWaits = s.pwr.resetWaits := by
    unfold leaveTransfer
    split
    · simp
    · split <;> rfl
  unfold abortPort
  split
  · rfl
  · simp only [raiseEvent_frame]
    split
    · simp
    · split
      · simp
      · simp [hleave]

theorem abortPorts_resetWaits (n : Nat) (s : State) : (abortPorts n s).pwr.resetWaits = s.pwr.resetWaits := by
  induction n with
  | zero => rfl
  | succ n ih => rw [abortPorts, abortPort_resetWaits, ih]

theorem quenchFinish_resetWaits (s : State) : (quenchFinish [] s).pwr.resetWaits = s.pwr.resetWaits := by
  simp [quenchFinish, zeroFailed, abortPorts_resetWaits]

/-- The Quench path keeps lifted entries alone. -/
theorem quenchFinish_ctxs : (∀ c ∈ s.hif.ctxs, c.lifted = false) → (quenchFinish [] s).hif.ctxs = [] := by
  intro hlifted
  have hkept := abortPorts_ctxs 64 (dropPads { s with key := { s.key with keys := [], lapsed := [] } })
  refine List.eq_nil_iff_forall_not_mem.mpr fun c hc => ?_
  simp only [quenchFinish, zeroFailed] at hc
  generalize abortPorts 64 (dropPads { s with key := { s.key with keys := [], lapsed := [] } }) = t at hc hkept
  obtain ⟨hin, hne⟩ := finishWhere_ctxs _ _ _ _ c hc
  have hl : c.lifted = false := hlifted c (hkept c hin)
  exact hne c hin (by simp [Ctx.restored, hl]) rfl

/-- The parts that the Quench path leaves empty (Table 15-5). -/
theorem quenchFinish_emptied (s : State) : (quenchFinish [] s).key.keys = [] ∧ (quenchFinish [] s).ts.items = [] ∧
    (quenchFinish [] s).ts.ready = [] ∧ (quenchFinish [] s).ts.delay0 = [] ∧ (quenchFinish [] s).ts.delay1 = [] ∧
    (quenchFinish [] s).ts.delay2 = [] ∧ (quenchFinish [] s).ts.delay3 = [] ∧ (quenchFinish [] s).tm.quenchBusy = false := by
  simp [quenchFinish, zeroFailed]

/-! #### The end of Restrict (R590, R619) -/

theorem noteLevel_alerts {old cause : Nat} (h : s.level ≠ old) : (noteLevel old cause s).io.alerts.testBit 2 = true := by
  have halerts : (noteLevel old cause s).io.alerts = s.io.alerts ||| 4 := by
    rw [noteLevel, if_neg h]
    simp
  rw [halerts, Nat.testBit_or]
  exact Bool.or_eq_true_iff.mpr (.inr rfl)

end

/-- Settles O24: the hour's entries by what a written entry leaves, the Quench path by what its steps keep of the contexts, the end
of Restrict by the level it leaves. -/
theorem tamperJournalAndQuench : Obligations.TamperJournalAndQuench := by
  refine ⟨fun s hrun hhour => answers_next (exec_journalOverflowHour hrun hhour) ⟨rfl, rfl, rfl⟩,
    fun h s ⟨hrun, hhour⟩ ⟨hone, hfull⟩ => answers_next (exec_journalOverflowHour hrun hhour) ⟨fun hex => ?entry, fun hex => ?none⟩,
    fun x s => ⟨fun hbusy hwaits hlifted => ?path, fun hidle => ?idle⟩,
    fun failed region bank x s hbusy => ⟨?finish, rfl⟩,
    fun s => ⟨fun h => if_pos h, fun hr hm => if_neg (by simp [hr, hm])⟩,
    fun s hrun hpending => ?clear, fun s ⟨hrun, hno⟩ => (onMain_running hrun _).trans (by rw [if_neg (by simp [hno])])⟩
  case entry =>
    obtain ⟨mac, hj⟩ := writeEntry_journal (e := overflowEntryOf s (hourEnd s) h) hfull
    rw [hone, overflowEntries_one, if_neg hex]
    exact ⟨_, _, hj, rfl, rfl, rfl, rfl, rfl, rfl, rfl⟩
  case none => rw [hone, overflowEntries_one, if_pos hex]
  case path =>
    obtain ⟨hkeys, hitems, hready, h0, h1, h2, h3, hover⟩ := quenchFinish_emptied s
    have hwaits' : (quenchFinish [] s).pwr.resetWaits = none := by rw [quenchFinish_resetWaits, hwaits]
    have hexec : exec (.quenchWPath [] x) s = execQuenchWPath [] x s := rfl
    simp only [execQuenchWPath, hbusy, hwaits', if_true] at hexec
    exact answers_next hexec ⟨hkeys, quenchFinish_ctxs hlifted, hitems, hready, h0, h1, h2, h3, hover, rfl⟩
  case idle => exact if_neg (by simp [hidle])
  case finish =>
    have hexec : exec (.quenchWPath failed x) s = execQuenchWPath failed x s := rfl
    simp only [hexec, execQuenchWPath, hbusy, if_true]
    cases hwaits : (quenchFinish failed s).pwr.resetWaits with
    | none => rfl
    | some cause => exact (apply_ite ..).symm
  case clear =>
    let s1 : State := { s with tm := { s.tm with clearHold := false, clearPending := false,
                                                 restrictOn := s.tm.restrictOn && s.tm.releaseHold } }
    have hexec : exec .restrictClear s = .next (resumeKeys s.level (noteLevel s.level 0 s1)) := (onMain_running hrun _).trans (if_pos hpending)
    refine answers_next hexec ?_
    have htm : (resumeKeys s.level (noteLevel s.level 0 s1)).tm = (noteLevel s.level 0 s1).tm := by simp
    rw [htm, noteLevel_tm]
    refine ⟨rfl, rfl, rfl, fun h1 hrel => ?_⟩
    have hlevel : s1.level = 0 := by
      simp only [State.level] at h1
      simp [s1, State.level, hrel]
      grind
    have hfall : (noteLevel s.level 0 s1).level = 0 := by
      rw [← hlevel, State.level, noteLevel_tm]
      rfl
    have hresume : resumeKeys s.level (noteLevel s.level 0 s1) = unwrapAll (noteLevel s.level 0 s1) := if_pos ⟨by omega, hfall⟩
    refine ⟨?_, noteLevel s.level 0 s1, noteLevel_alerts (by omega), hresume⟩
    rw [State.level, htm]
    exact hfall

end Sys2Proof.Machine

/-! ### Plans: loading, arming, cancelling and reading them -/

namespace Sys2Proof.Machine

section
variable {s t : State} {q : Call} {p : Partition} {length : Nat}

/-! #### What the checks of an image read (Table 03-14) -/

/-- The checks of an image read no more of the state than its versions, the ports, the port scope and the keys. -/
theorem checkPlan_congr (hhigh : t.pln.highest = s.pln.highest) (hpwr : t.pwr = s.pwr) (hkey : t.key = s.key)
    (hident : t.ident = s.ident) {f : Nat}
    (hscope : (t.func f).portScope = (s.func f).portScope) (base size delivered : Nat) (restart : Bool) (i : PlanImage) :
    checkPlan t f base size delivered restart i = checkPlan s f base size delivered restart i := by
  have habsent : t.portAbsent = s.portAbsent := by
    funext n
    simp only [State.portAbsent, hpwr]
  have hfault (e : Entry) : absentFault t e = absentFault s e := by simp only [absentFault, habsent]
  have hsigners : checkSigners t f i restart = checkSigners s f i restart := by
    simp only [checkSigners, planSigner, sigVerifies, signerKey, State.dom, hkey, hident]
  simp only [checkPlan, hhigh, hfault, hscope, hsigners]

theorem onVault_highest (f bytes : Nat) (g : VaultZone → VaultZone) (s : State) : (onVault f bytes g s).pln.highest = s.pln.highest := by
  simp only [onVault]
  split <;> simp

/-- An image that is stored does not change what the checks come to. -/
theorem checkPlan_storeImage (f n : Nat) (i : PlanImage) (base size delivered : Nat) (restart : Bool) (j : PlanImage) :
    checkPlan (storeImage f n i s) f base size delivered restart j = checkPlan s f base size delivered restart j :=
  have hfunc := (OnlySends.onVault f (sectorHeaderBytes + i.imageLen) (fun z => { z with slots := Tbl.put n (vaultSlot i) z.slots }) s).func f
  have hscope := congrArg Func.portScope hfunc
  checkPlan_congr (onVault_highest ..) (by simp) (by simp) (by simp) hscope ..

/-! #### The two banks of a partition (R112 to R114) -/

theorem leaveLoading_loading {f : Nat} (reason : Nat) (hp : s.part? f = some p) (hst : p.standby = .loading) :
    leaveLoading f reason s = stageRec 0x21 f (.planEvent p.heldVersion (16 * standbyCode .loading + standbyCode p.before) reason)
      (dropImage f p.vaultIncoming (s.setPart f { p with standby := p.before, vaultIncoming := none })) := by
  have hp' : Tbl.find? f s.pln.parts = some p := hp
  simp only [leaveLoading, hp', if_pos hst, transitionOf, Nat.mul_comm, State.setPart]

theorem leaveLoading_owned {f : Nat} (reason : Nat) (hp : s.part? f = some p) (hst : p.standby = .loading) :
    ((leaveLoading f reason s).part? f).isSome = true := by
  rw [leaveLoading_loading reason hp hst]
  simp [State.part?, State.setPart, Tbl.find?_put_self]

theorem opGate_congr {op space : Nat} (hpart : (t.part? q.f).isSome = (s.part? q.f).isSome) (hstc : t.stc = s.stc)
    (hpwr : t.pwr = s.pwr) (htm : t.tm = s.tm) : opGate op q space t = opGate op q space s := by
  have hlevel : t.level = s.level := by simp only [State.level, htm]
  have havail (row : OpRow) : available t q.f row = available s q.f row := by
    simp only [State.part?] at hpart
    simp only [available, hpart]
  simp only [opGate, havail, hstc, hpwr, hlevel]

/-- The call of a transfer that ended keeps its context, and is refused by the shared checks as before. -/
theorem leaveLoading_gate {op space : Nat} (reason : Nat) (hp : s.part? q.f = some p) (hst : p.standby = .loading) :
    opGate op q space (leaveLoading q.f reason s) = opGate op q space s ∧ staged q (leaveLoading q.f reason s) = staged q s ∧
      (leaveLoading q.f reason s).running = s.running := by
  have hctxs := (OnlySends.leaveLoading q.f reason s).ctxs
  refine ⟨opGate_congr (by rw [leaveLoading_owned reason hp hst, hp]; rfl) (by simp) (by simp) (by simp), ?_, ?_⟩
  · simp only [staged, State.ctxFor, State.ctxOf?, hctxs]
  · simp [State.running]

theorem planResult_length (a b c : Nat) : (planResult a b c).length = 16 := by simp [planResult, leBytes_length]

/-- A plan operation of a function without a partition is refused by the shared checks (R464, R465). -/
theorem opGate_unowned {op space : Nat} (hop : (opRow op).any (·.issuer == 2) = true) (hp : s.part? q.f = none) :
    opGate op q space s = some (bare stInputRejected) := by
  obtain ⟨row, hrow, hissuer⟩ := Option.any_eq_true .. |>.mp hop
  have hp' : Tbl.find? q.f s.pln.parts = none := hp
  have hnot : available s q.f row = false := by
    rw [available, if_neg (by simp_all), if_neg (by simp_all), hp']
    rfl
  simp only [opGate, hrow, Option.getD_some, hnot, if_true]

/-- A load over a copy that is EMPTY, READY or PREVIOUS begins (Table 03-16). -/
theorem beginLoad_free {f : Nat} {own : Bool} (h : p.standby = .empty ∨ p.standby = .ready ∨ p.standby = .previous) :
    beginLoad f p own s = .running (moveStandby f p p.startLoading s) := by
  rcases h with h | h | h <;> simp only [beginLoad, h]

theorem dropMarks_standby (l : List Rebuild) : dropMarks p true l =
    l.filter fun r => !(decide (p.base ≤ r.entry) && decide (r.entry < p.base + p.size) && r.standby) := by
  simp only [dropMarks, Partition.owns, beq_true]

/-- An image whose checks pass is the standby version, in the slot into which it came (R113). -/
theorem endLoad_passed {f : Nat} {i : PlanImage} (h : checkPlan s f p.base p.size length false i = none) :
    ∃ u, u = moveStandby f p { p with standby := .ready, held := some (copyOf i), vaultStandby := p.vaultIncoming
                                      vaultIncoming := none, rollback := false, pinned := false, reloadStandby := [] } (dropImage f p.vaultStandby (storeImage f (p.vaultIncoming.getD 2) i s)) ∧
      endLoad f length i p s = .done
        { code := 0, resultLen := 16, output := planResult i.version (usedCount (copyOf i)) (shortCount (copyOf i)) }
        { u with pln := { u.pln with highest := Tbl.put f i.version u.pln.highest, rebuilding := dropMarks p true u.pln.rebuilding } } := by
  refine ⟨_, rfl, ?_⟩
  have hcheck := (checkPlan_storeImage (s := s) f (p.vaultIncoming.getD 2) i p.base p.size length false i).trans h
  simp only [endLoad, hcheck, okOut, planResult_length]
  rfl

/-- An image that fails a check leaves the partition as before the load, with the reason's record (R114). -/
theorem endLoad_failed {f : Nat} {i : PlanImage} {x : PlanFault} (h : checkPlan s f p.base p.size length false i = some x) :
    endLoad f length i p s = .done (planRefusal x) (leaveLoading f x.1 (storeImage f (p.vaultIncoming.getD 2) i s)) := by
  have hcheck := (checkPlan_storeImage (s := s) f (p.vaultIncoming.getD 2) i p.base p.size length false i).trans h
  simp only [endLoad, hcheck]

theorem armPlan_instant {f second rate slot instant : Nat} {c : PlanCopy} (back : Bool) (hinstant : instantOf second rate slot = some instant)
    (hheld : p.held = some c) :
    armPlan f p back second rate slot s =
      if p.standby ≠ (if back then .previous else .ready) then .done { code := 0x0301 } s
      else if instant < s.sck.now + 2000000 then .done { code := 0x0401 } s
      else match armFault s f c instant with
        | some comp => .done comp s
        | none => .done { code := 0, resultLen := 16, output := planResult c.version 0 0 }
            (moveStandby f p { p with standby := .armed, rollback := back, instant, deferred := false, pinned := true } s) := by
  simp only [armPlan, hinstant, hheld, okOut, planResult_length]
  rfl

/-- PLAN_ACTIVATE and PLAN_ROLLBACK arm the partition of the function (R746). -/
theorem exec_arm {second rate slot : Nat} {c : Completion} (back : Bool) (hr : ready (if back then 0x0603 else 0x0602) q 16 s = true)
    (hp : s.part? q.f = some p) (h : armPlan q.f p back second rate slot s = .done c t) :
    exec (if back then .planRollback q second rate slot else .planActivate q second rate slot) s = .next (complete q c t) := by
  cases back with
  | false => exact exec_done (comp := c) (t := t) (by simpa using hr) rfl (by simp only [hp, h])
  | true => exact exec_done (comp := c) (t := t) (by simpa using hr) rfl (by simp only [hp, h])

/-- The call has the transfer under way. -/
theorem ownTransfer_iff : ((s.func q.f).dpCtx = s.ctxIdFor q ∧ (s.func q.f).dpCtx ≠ none) ↔
    ((s.func q.f).dpCtx.isSome && (s.func q.f).dpCtx == s.ctxIdFor q) = true := by
  rw [Bool.and_eq_true, Option.isSome_iff_ne_none, beq_iff_eq, and_comm]

/-- The image of the transfer under way has arrived, at Record level: the load ends (R112). -/
theorem exec_planLoad_arrived {i : PlanImage} {comp : Completion} (hr : ready 0x0601 q 16 s = true) (hlevel : s.level = 0)
    (hlen : length ≠ 0) (hp : s.part? q.f = some p) (hst : p.standby = .loading)
    (hown : (s.func q.f).dpCtx = s.ctxIdFor q ∧ (s.func q.f).dpCtx ≠ none) (hend : endLoad q.f length i p s = .done comp t) :
    exec (.planLoad q length (some i)) s = .next (complete q comp t) := by
  have hexec : exec (.planLoad q length (some i)) s = execPlanLoad q length (some i) s := rfl
  rw [hexec, execPlanLoad]
  simp only [ownTransfer_iff.mp hown, hlevel, show ¬ (1 ≤ 0) by omega, decide_false, Bool.and_false, Bool.false_and, Bool.false_eq_true,
    if_false]
  rw [runOp_done hr (comp := comp) (t := t)]
  simp only [hp, if_neg hlen, hst, and_self, if_true, hend]

/-- A call without an image begins a load, or is refused (R112, R117). -/
theorem exec_planLoad_begun : exec (.planLoad q length none) s = .next (runOp 0x0601 q 16 s fun s' => match s'.part? q.f with
    | none => .done (bare stInputRejected) s'
    | some p => if length = 0 then .done (planRefusal (0x01, noEntry, 0)) s'
      else beginLoad q.f p ((s.func q.f).dpCtx.isSome && (s.func q.f).dpCtx == s.ctxIdFor q) s') := by
  have hexec : exec (.planLoad q length none) s = execPlanLoad q length none s := rfl
  rw [hexec, execPlanLoad]
  simp only [Option.isSome_none, Bool.and_false, Bool.false_and, Bool.false_eq_true, if_false] <;> rfl

end

/-- Settles O37: each operation by its own rule once it is ready; the checks of an image read nothing that its storing changes. -/
theorem plansLoadArmAndRead : Obligations.PlansLoadArmAndRead := by
  refine ⟨fun q length p s hr hlen hp => ⟨fun hst => ?begins, fun hst => ?held, fun hst => ?refused, ?empty⟩,
    fun q length i p s hr ⟨hlevel, hlen⟩ ⟨hp, hst⟩ hown hcheck => ?loaded,
    fun q length i p x comp s ⟨hp, hst⟩ hown hlen => ?faulty,
    fun q back second rate slot instant p c s hr ⟨hp, hheld⟩ hinstant => ?arm,
    fun q second rate slot p s hp hinstant x hx hr => ?noInstant,
    fun q second rate slot instant p s ⟨hp, hheld⟩ hinstant x hx hr => ?noVersion,
    fun q p s hr hp => ?cancel, fun q copy p s hr hp => ?read,
    fun q c length second rate slot copy s hc ⟨hrun, hstaged⟩ hp => ?unowned⟩
  case begins =>
    refine (exec_planLoad_begun).trans (congrArg _ (runOp_running hr ?_))
    simp only [hp, if_neg hlen, beginLoad_free hst]
    rfl
  case held =>
    refine (exec_planLoad_begun).trans (congrArg _ (runOp_running hr ?_))
    simp only [hp, if_neg hlen, beginLoad, hst]
  case refused =>
    refine (exec_planLoad_begun).trans (congrArg _ (runOp_done (comp := bare stRefusedFull) hr ?_))
    simp only [hp, if_neg hlen]
    rcases hst with h | ⟨h, hnone⟩
    · simp only [beginLoad, h]
    · simp only [beginLoad, h, hnone, Option.isSome_none, Bool.false_and, Bool.false_eq_true, if_false]
  case empty =>
    refine (exec_planLoad_begun).trans (congrArg _ (runOp_done (comp := planRefusal (0x01, noEntry, 0)) hr ?_))
    simp only [hp, if_true]
  case loaded =>
    obtain ⟨u, hu, hend⟩ := endLoad_passed hcheck
    exact answers_next (exec_planLoad_arrived hr hlevel hlen hp hst hown hend) ⟨u, hu, by rw [dropMarks_standby]⟩
  case faulty =>
    rintro (⟨hcheck, rfl, hr, hlevel⟩ | ⟨hzero, rfl, hrun, hstaged, hlevel, hgate⟩)
    · have hp' : (storeImage q.f (p.vaultIncoming.getD 2) i s).part? q.f = some p := by simpa [State.part?, storeImage] using hp
      refine answers_next (exec_planLoad_arrived hr hlevel hlen hp hst hown (endLoad_failed hcheck)) ⟨_, rfl, ?_⟩
      rw [leaveLoading_loading x.1 hp' hst, if_pos hlevel]
      rfl
    · have hexec : exec (.planLoad q length (some i)) s = execPlanLoad q length (some i) s := rfl
      obtain ⟨hgate', hstaged', hrun'⟩ := leaveLoading_gate (q := q) (op := 0x0601) (space := 16) 0 hp hst
      rw [execPlanLoad] at hexec
      simp only [ownTransfer_iff.mp hown, hlevel, hstaged, Option.isSome_some, decide_true, Bool.not_false, Bool.and_self, if_true] at hexec
      rw [runOp_refused _ (hrun'.trans hrun) (hstaged'.trans hstaged) (hgate'.trans hgate)] at hexec
      refine answers_next hexec ⟨_, rfl, ?_⟩
      rw [leaveLoading_loading 0 hp hst, if_neg (show ¬ s.level = 0 by omega), hzero]
  case arm =>
    have harm := armPlan_instant (f := q.f) (s := s) back hinstant hheld
    by_cases hst : p.standby ≠ (if back then .previous else .ready)
    · rw [if_pos hst] at harm ⊢
      exact exec_arm back hr hp harm
    · rw [if_neg hst] at harm ⊢
      by_cases hnear : instant < s.sck.now + 2000000
      · rw [if_pos hnear] at harm ⊢
        exact exec_arm back hr hp harm
      · rw [if_neg hnear] at harm ⊢
        cases hfault : armFault s q.f c instant with
        | some comp =>
          simp only [hfault] at harm
          exact exec_arm back hr hp harm
        | none =>
          simp only [hfault] at harm
          exact exec_arm back hr hp harm
  case noInstant =>
    have harm (back : Bool) : armPlan q.f p back second rate slot s = .done (planRefusal (0x25, noEntry, 0)) s := by
      simp only [armPlan, hinstant]
    rcases List.mem_cons.mp hx with rfl | hx
    · exact exec_arm false hr hp (harm false)
    · obtain rfl := List.mem_singleton.mp hx
      exact exec_arm true hr hp (harm true)
  case noVersion =>
    have harm (back : Bool) : armPlan q.f p back second rate slot s = .done (bare stRefusedFull) s := by
      simp only [armPlan, hinstant, hheld]
    rcases List.mem_cons.mp hx with rfl | hx
    · exact exec_arm false hr hp (harm false)
    · obtain rfl := List.mem_singleton.mp hx
      exact exec_arm true hr hp (harm true)
  case cancel =>
    by_cases hst : p.standby = .armed
    · rw [if_pos hst]
      exact exec_done (comp := okDetail 0) hr rfl (by simp only [hp, if_pos hst, cancelArmed])
    · rw [if_neg hst]
      exact exec_done (comp := bare stRefusedFull) hr rfl (by simp only [hp, if_neg hst])
  case read =>
    by_cases hcopy : 1 < copy
    · rw [if_pos hcopy]
      exact exec_done (comp := reject 0) hr rfl (by simp only [hp, if_pos hcopy])
    · rw [if_neg hcopy]
      exact exec_done (comp := okDetail 0) hr rfl (by simp only [hp, if_neg hcopy])
  case unowned =>
    have hgate (op space : Nat) (k : State → OpOut) (hop : (opRow op).any (·.issuer == 2) = true) :
        runOp op q space s k = complete q (bare stInputRejected) s := runOp_refused k hrun hstaged (opGate_unowned hop hp)
    simp only [List.mem_cons, List.not_mem_nil, or_false] at hc
    rcases hc with rfl | rfl | rfl | rfl | rfl
    · exact exec_planLoad_begun.trans (congrArg _ (hgate 0x0601 16 _ rfl))
    · exact congrArg Host.Outcome.next (hgate 0x0602 16 _ rfl)
    · exact congrArg Host.Outcome.next (hgate 0x0603 16 _ rfl)
    · exact congrArg Host.Outcome.next (hgate 0x0604 0 _ rfl)
    · exact congrArg Host.Outcome.next (hgate 0x0605 0 _ rfl)

end Sys2Proof.Machine

/-! ### Life-cycle requests, debug tokens and the debug port -/

namespace Sys2Proof.Machine

section
variable {s : State} {q : Call} {auth : AuthReq}

/-! #### Requests (R471, R626 to R628) -/

/-- The checks of a request turn on its role and number in one place alone. -/
theorem authReason_none_iff {inLen op dom role n : Nat} {used : List (Nat × Nat)} :
    authReason auth inLen op dom role n used s = none ↔
      authReason auth inLen op dom role 0 used s = none ∧ n ≤ countRole role auth.sigs := by
  simp only [authReason]
  grind

theorem authReason_role {inLen op dom role role' : Nat} {used : List (Nat × Nat)} :
    authReason auth inLen op dom role 0 used s = authReason auth inLen op dom role' 0 used s := by
  simp only [authReason, Nat.not_lt_zero, or_false]

/-- The signers of a pending transition, or of the one asked for (R627). -/
def lifeAlternatives (s : State) (t : LifeState) : List (Nat × Nat) :=
  if t = s.lcc.st then (match s.lcc.target with
    | some p => lifeSigners s.lcc.st p
    | none => [])
  else lifeSigners s.lcc.st t

/-- A request that meets one alternative of the signers is judged by one that it meets. -/
theorem authReason_lifeNeeds {inLen op dom role n : Nat} {used : List (Nat × Nat)} {t : LifeState}
    (halt : (role, n) ∈ lifeAlternatives s t) (h : authReason auth inLen op dom role n used s = none) :
    authReason auth inLen op dom (lifeNeeds s (some t) auth.sigs).1 (lifeNeeds s (some t) auth.sigs).2 used s = none := by
  obtain ⟨hbase, hcount⟩ := authReason_none_iff.mp h
  have hneeds : lifeNeeds s (some t) auth.sigs = ((lifeAlternatives s t).find? fun a => decide (a.2 ≤ countRole a.1 auth.sigs)).getD
      ((lifeAlternatives s t).headD (0, 0)) := by
    simp only [lifeNeeds, lifeAlternatives] <;> rfl
  obtain ⟨a, ha⟩ : ∃ a, (lifeAlternatives s t).find? (fun a => decide (a.2 ≤ countRole a.1 auth.sigs)) = some a :=
    Option.isSome_iff_exists.mp (List.find?_isSome.mpr ⟨_, halt, decide_eq_true hcount⟩)
  rw [hneeds, ha, Option.getD_some]
  exact authReason_none_iff.mpr ⟨authReason_role.trans hbase, by simpa using List.find?_some ha⟩

theorem lifeOf_lifeCode (t : LifeState) : lifeOf (lifeCode t) = some t := by cases t <;> rfl

theorem lifeOf_large {n : Nat} (h : 4 < n) : lifeOf n = none := by
  obtain ⟨m, rfl⟩ := Nat.exists_eq_add_of_lt h
  rw [Nat.add_comm 4 m]
  rfl

theorem lifeOf_small {n : Nat} (h : ¬ 4 < n) : ∃ t, lifeOf n = some t := by
  obtain rfl | rfl | rfl | rfl | rfl : n = 0 ∨ n = 1 ∨ n = 2 ∨ n = 3 ∨ n = 4 := by omega
  · exact ⟨_, rfl⟩
  · exact ⟨_, rfl⟩
  · exact ⟨_, rfl⟩
  · exact ⟨_, rfl⟩
  · exact ⟨_, rfl⟩

/-- An authorised request of a transition that is listed, ready and shows the digest becomes pending (R627, R628). -/
theorem exec_lifecycleRequest_set {t : LifeState} {role n : Nat} (hr : ready 0x0901 q 0 s = true)
    (hcode : leAt auth.params 0 1 = lifeCode t) (halt : (role, n) ∈ lifeSigners s.lcc.st t) (hne : t ≠ s.lcc.st)
    (hauth : authReason auth q.hdr.inLen 0x0901 0 role n [(0, 64)] s = none) (htarget : s.lcc.target = none)
    (hparams : sumFrom (auth.params.take 0x20) 1 = 0 ∧ (auth.params.drop 0x20).take 32 = integratorDigest s t)
    (hcond : lifeCondition s t = true) :
    exec (.lifecycleRequest q auth) s = .next (complete q (okDetail 0) (raiseEvent .lcc 0 0 (securityRec secTransitionSet (lifeCode t)
      (signerPair auth.sigs) auth.counter (setTransition (some t) (s.updDom 0 fun d => { d with temper := auth.counter }))))) := by
  have halts : lifeAlternatives s t = lifeSigners s.lcc.st t := if_neg hne
  have hlisted : (lifeSigners s.lcc.st t).isEmpty = false := by
    cases hl : lifeSigners s.lcc.st t with
    | nil => exact absurd (hl ▸ halt) List.not_mem_nil
    | cons => rfl
  refine exec_done hr rfl ?_
  simp only [hcode, lifeOf_lifeCode, authReason_lifeNeeds (halts ▸ halt) hauth]
  rw [if_neg (by simp [hparams]), if_neg hne, if_neg (by simp [htarget, hlisted, hcond])]

/-- An authorised request that names the present state cancels what is pending (R627, R628). -/
theorem exec_lifecycleRequest_cancel {t : LifeState} {role n : Nat} (hr : ready 0x0901 q 0 s = true)
    (hcode : leAt auth.params 0 1 = lifeCode s.lcc.st) (halt : (role, n) ∈ lifeSigners s.lcc.st t)
    (hauth : authReason auth q.hdr.inLen 0x0901 0 role n [(0, 64)] s = none) (htarget : s.lcc.target = some t)
    (hparams : sumFrom (auth.params.take 0x20) 1 = 0 ∧ (auth.params.drop 0x20).take 32 = integratorDigest s s.lcc.st) :
    exec (.lifecycleRequest q auth) s = .next (complete q (okDetail 0) (raiseEvent .lcc 0 1 (securityRec secTransitionCancelled
      (lifeCode s.lcc.st) (signerPair auth.sigs) auth.counter
      (setTransition none (s.updDom 0 fun d => { d with temper := auth.counter }))))) := by
  have halts : lifeAlternatives s s.lcc.st = lifeSigners s.lcc.st t := by
    rw [lifeAlternatives, if_pos rfl]
    simp only [htarget]
  refine exec_done hr rfl ?_
  simp only [hcode, lifeOf_lifeCode, authReason_lifeNeeds (halts ▸ halt) hauth]
  rw [if_neg (by simp [hparams]), if_pos trivial, if_pos (by simp [htarget])]

/-- A request without an accepted state, digest or transition is refused, and changes nothing (R471, R627). -/
theorem exec_lifecycleRequest_invalid (hr : ready 0x0901 q 0 s = true)
    (hauth : authReason auth q.hdr.inLen 0x0901 0 (lifeNeeds s (lifeOf (leAt auth.params 0 1)) auth.sigs).1
      (lifeNeeds s (lifeOf (leAt auth.params 0 1)) auth.sigs).2 [(0, 64)] s = none)
    (hbad : ∀ t, lifeOf (leAt auth.params 0 1) = some t → sumFrom (auth.params.take 0x20) 1 ≠ 0 ∨
      (auth.params.drop 0x20).take 32 ≠ integratorDigest s t ∨ (t = s.lcc.st ∧ s.lcc.target = none) ∨
      (t ≠ s.lcc.st ∧ (s.lcc.target.isSome = true ∨ lifeSigners s.lcc.st t = [] ∨ lifeCondition s t = false))) :
    exec (.lifecycleRequest q auth) s = .next (complete q (reject 0x010A) s) := by
  refine exec_done hr rfl ?_
  simp only [hauth]
  cases ht : lifeOf (leAt auth.params 0 1) with
  | none => rfl
  | some t =>
    simp only []
    by_cases hparams : sumFrom (auth.params.take 0x20) 1 ≠ 0 ∨ (auth.params.drop 0x20).take 32 ≠ integratorDigest s t
    · rw [if_pos hparams]
    · rw [if_neg hparams]
      rcases hbad t ht with h | h | ⟨hst, hnone⟩ | ⟨hst, h⟩
      · exact absurd (.inl h) hparams
      · exact absurd (.inr h) hparams
      · rw [if_pos hst, if_neg (by simp [hnone])]
      · rw [if_neg hst, if_pos]
        rcases h with h | h | h <;> simp [h]

/-- The transitions of Table 16-2 with their signers. -/
theorem listedTransition {st t : LifeState} {role n : Nat} (h : (st, t, role, n) ∈ ([(.maker, .integrator, 5, 1),
      (.integrator, .fielded, 2, 2), (.integrator, .returned, 4, 1), (.integrator, .returned, 2, 2), (.fielded, .returned, 2, 2),
      (.fielded, .scrapped, 2, 2), (.returned, .integrator, 5, 1), (.returned, .scrapped, 5, 1)] :
      List (LifeState × LifeState × Nat × Nat))) : (role, n) ∈ lifeSigners st t ∧ t ≠ st := by
  have hall : ∀ x ∈ ([(.maker, .integrator, 5, 1), (.integrator, .fielded, 2, 2), (.integrator, .returned, 4, 1),
      (.integrator, .returned, 2, 2), (.fielded, .returned, 2, 2), (.fielded, .scrapped, 2, 2), (.returned, .integrator, 5, 1),
      (.returned, .scrapped, 5, 1)] : List (LifeState × LifeState × Nat × Nat)),
      (x.2.2.1, x.2.2.2) ∈ lifeSigners x.1 x.2.1 ∧ x.2.1 ≠ x.1 := by decide
  exact hall _ h

/-! #### Debug tokens (R639) -/

theorem refusal_none_iff {c : Prop} [Decidable c] {reason : Nat} {r : Option Nat} :
    (if c then some reason else r) = none ↔ ¬ c ∧ r = none := by
  by_cases h : c <;> simp [h]

/-- What a token without a fault of Table 16-8 meets. -/
theorem tokenReason_none {k : DebugToken} {len : Nat} (h : tokenReason k len s = none) : tokenForm k len = true ∧ k.target = s.target ∧
    k.bootId = s.lcc.bootId ∧ k ∉ s.lcc.accepted ∧ k.st = lifeCode s.lcc.st ∧ k.scope &&& lifeScopes s.lcc.st = k.scope ∧
    expired s k.notAfter = false ∧ tokenSigned s k.sigs = true ∧ sigsVerify s 0 (tokenBytes k) k.sigs = true ∧ s.lcc.token = none := by
  simp only [tokenReason, refusal_none_iff, not_or, Classical.not_not, Bool.not_eq_false, Bool.not_eq_true, Option.isSome_eq_false_iff,
    Option.isNone_iff_eq_none, and_true] at h
  obtain ⟨hform, htarget, ⟨hboot, hused⟩, ⟨hst, hscope⟩, hexpired, hsigned, hverify, htoken⟩ := h
  exact ⟨hform, htarget, hboot, by simpa using hused, hst, hscope, hexpired, hsigned, hverify, htoken⟩

/-! #### The debug port (R638, R641) -/

theorem servedWithout_iff {c g n : Nat} : servedWithout s c g n = true ↔ ∃ m, m < n ∧ m ≠ c ∧ (s.coreRt m).inService = true ∧
    (s.coreRt m).halted = false ∧ (s.coreRt m).testing = false ∧ (s.coreGroups m).testBit g = true := by
  induction n with
  | zero => simp [servedWithout]
  | succ n ih =>
    simp only [servedWithout, Bool.or_eq_true, Bool.and_eq_true, Bool.not_eq_true', bne_iff_ne, ih]
    constructor
    · rintro (⟨⟨⟨⟨hne, hin⟩, hrun⟩, htest⟩, hgroup⟩ | ⟨m, hm, h⟩)
      · exact ⟨n, Nat.lt_succ_self n, hne, hin, hrun, htest, hgroup⟩
      · exact ⟨m, Nat.lt_succ_of_lt hm, h⟩
    · rintro ⟨m, hm, hne, hin, hrun, htest, hgroup⟩
      rcases Nat.lt_succ_iff_lt_or_eq.mp hm with hm | rfl
      · exact .inr ⟨m, hm, hne, hin, hrun, htest, hgroup⟩
      · exact .inl ⟨⟨⟨⟨hne, hin⟩, hrun⟩, htest⟩, hgroup⟩

theorem canSpare_iff {c : Nat} : canSpare s c = true ↔ ∀ g, g < 14 → ∃ n, n < 48 ∧ n ≠ c ∧ (s.coreRt n).inService = true ∧
    (s.coreRt n).halted = false ∧ (s.coreRt n).testing = false ∧ (s.coreGroups n).testBit g = true := by
  simp only [canSpare, List.all_eq_true, List.mem_range, servedWithout_iff]

theorem portAnswers_iff : portAnswers s = true ↔ s.pwr.main = true ∧ ¬ (s.pwr.stopped = true ∧ s.lcc.st = .scrapped) := by
  cases hstopped : s.pwr.stopped <;> simp [portAnswers, hstopped]

theorem exec_debugPortAccess_bypass {a : DebugAct} (hport : portAnswers s = true)
    (h : ∀ k, s.lcc.token = some k → k.scope &&& actScopes a = 0) : exec (.debugPortAccess a) s = .next (bypass s) := by
  have hexec : exec (.debugPortAccess a) s = execDebugPortAccess a s := rfl
  rw [hexec, execDebugPortAccess, if_neg (by simp [hport])]
  cases hk : s.lcc.token with
  | none => rfl
  | some k => exact if_pos (h k hk)

theorem exec_debugPortAccess_granted {a : DebugAct} {k : TokenInForce} (hport : portAnswers s = true) (hk : s.lcc.token = some k)
    (h : k.scope &&& actScopes a ≠ 0) : exec (.debugPortAccess a) s = .next (debugAct a s) := by
  have hexec : exec (.debugPortAccess a) s = execDebugPortAccess a s := rfl
  rw [hexec, execDebugPortAccess, if_neg (by simp [hport])]
  simp only [hk, if_neg h]

end

/-- Settles O45: a request by what its signatures and PARAMS meet, a token by the order of its checks, the port by the scope that an
instruction needs. -/
theorem lifeCycleAndDebug : Obligations.LifeCycleAndDebug := by
  refine ⟨fun q auth st t role n s ⟨hr, hst, htarget⟩ hrow hauth ⟨hcode, hzero, hdigest⟩ hkeys hroot hclear => ?set,
    fun q auth st t role n s ⟨hr, hst, htarget⟩ hrow hauth ⟨hcode, hzero, hdigest⟩ => ?cancel,
    fun q auth need s hr hneed => ⟨fun r hauth => ?refused, fun hauth hbad => ?invalid⟩,
    fun q k s hr => ⟨fun hok => exec_done (comp := okDetail 0) hr rfl (by simp only [hok]),
      fun r hbad => exec_done (comp := reject r) hr rfl (by simp only [hbad])⟩,
    fun k len s => ⟨fun hok => ?checks, fun hused => ?used⟩,
    fun k s e ⟨hrun, hk⟩ he => ?ends,
    fun s hnone => ⟨?noExpiry, fun hreach => ?noEnd⟩,
    fun a core s => ⟨canSpare_iff, portAnswers_iff, fun h => ⟨if_pos h, if_pos h⟩,
      fun h => ⟨if_neg (by simp [h]), if_neg (by simp [h]), if_pos h⟩⟩,
    fun a s hport hscope => ?bypass,
    fun a k s ⟨hport, hk⟩ hscope => ?act⟩
  case set =>
    subst hst
    have halt : (role, n) ∈ lifeSigners s.lcc.st t ∧ t ≠ s.lcc.st := listedTransition hrow
    have hcond : lifeCondition s t = true := by
      simp only [List.mem_cons, List.not_mem_nil, or_false, Prod.mk.injEq] at hrow
      rcases hrow with ⟨hst, rfl, -, -⟩ | ⟨hst, rfl, -, -⟩ | ⟨hst, rfl, -, -⟩ | ⟨hst, rfl, -, -⟩ | ⟨hst, rfl, -, -⟩ |
        ⟨hst, rfl, -, -⟩ | ⟨hst, rfl, -, -⟩ | ⟨hst, rfl, -, -⟩
      · simp [lifeCondition, hst, hkeys rfl]
      · simp [lifeCondition, hst, hroot rfl]
      · simp [lifeCondition, hst]
      · simp [lifeCondition, hst]
      · simp [lifeCondition, hst]
      · simp [lifeCondition, hst]
      · have hclear' := hclear hst rfl
        simp [lifeCondition, hst, hkeys rfl, hclear' causeLight (by simp), hclear' causeMesh (by simp),
          hclear' causeMonitorFault (by simp)]
      · simp [lifeCondition, hst]
    exact exec_lifecycleRequest_set hr hcode halt.1 halt.2 hauth htarget ⟨hzero, hdigest⟩ hcond
  case cancel =>
    subst hst
    exact exec_lifecycleRequest_cancel hr hcode (listedTransition hrow).1 hauth htarget ⟨hzero, hdigest⟩
  case refused =>
    subst hneed
    exact exec_done (comp := reject r) hr rfl (by simp only [hauth])
  case invalid =>
    subst hneed
    refine exec_lifecycleRequest_invalid hr hauth fun t ht => ?_
    rcases hbad with hcode | hzero | hbad
    · rw [lifeOf_large hcode] at ht
      cases ht
    · exact .inl hzero
    · exact .inr (hbad t ht)
  case checks => exact tokenReason_none hok
  case used =>
    intro hok
    exact (tokenReason_none hok).2.2.2.1 hused
  case ends =>
    have hend : endToken s = e := by rw [he]; simp only [endToken, hk]
    refine ⟨(onMain_running hrun _).trans ?_, fun hreach => ?_⟩
    · simp only [hk, hend]
      split <;> rfl
    · exact (viaBar_reaches hreach _).trans (by rw [hend])
  case noExpiry =>
    have hexec : exec .debugTokenExpiry s = execDebugTokenExpiry s := rfl
    simp only [hexec, execDebugTokenExpiry, hnone, onMain]
    split <;> rfl
  case noEnd =>
    have hend : endToken s = s := by simp only [endToken, hnone]
    exact (viaBar_reaches hreach _).trans (by rw [hend])
  case bypass =>
    refine exec_debugPortAccess_bypass hport fun k hk => ?_
    have hnone := hscope k hk
    cases a <;> exact hnone
  case act =>
    cases a with
    | read addr len => exact exec_debugPortAccess_granted hport hk hscope
    | perf n => exact exec_debugPortAccess_granted hport hk hscope
    | halt c => exact exec_debugPortAccess_granted hport hk hscope
    | step c => exact exec_debugPortAccess_granted hport hk hscope
    | release c => exact exec_debugPortAccess_granted hport hk hscope
    | scan => exact exec_debugPortAccess_granted hport hk hscope
    | writeKey key => exact exec_debugPortAccess_granted hport hk hscope
    | writeDik d => exact exec_debugPortAccess_granted hport hk hscope
    | writeMesh o => exact exec_debugPortAccess_granted hport hk hscope

end Sys2Proof.Machine

/-! ### The access checker: decisions, denials and updates of the rules -/

namespace Sys2Proof.Machine

section
variable {s : State} {x : Access} {a : Nat}

/-! #### Accesses and their pieces (R562) -/

theorem pieces_one {fuel addr len : Nat} (hlen : 0 < len) (h : addr % 4096 + len ≤ 4096) : pieces (fuel + 1) addr len = [(addr, len)] := by
  rw [pieces, if_neg (by omega), if_pos (by omega)]

theorem pieces_two {fuel addr len : Nat} (hcross : 4096 < addr % 4096 + len) (h : addr % 4096 + len ≤ 8192) :
    pieces (fuel + 2) addr len = [(addr, 4096 - addr % 4096), (addr + (4096 - addr % 4096), len - (4096 - addr % 4096))] := by
  rw [pieces, if_neg (by omega), if_neg (by omega), pieces_one (by omega) (by omega)]

theorem pieces_some {fuel addr len : Nat} (hlen : 0 < len) : ∃ n t, pieces (fuel + 1) addr len = (addr, n) :: t := by
  rw [pieces]
  simp only [if_neg (show ¬ len = 0 by omega)]
  split
  · exact ⟨_, _, rfl⟩
  · exact ⟨_, _, rfl⟩

/-- A piece that the rules grant is performed (R561). -/
theorem runPieces_granted {n : Nat} {t : List (Nat × Nat)} (hfresh : staleAccess s x = false) (h : grants s x a = true) :
    runPieces x ((a, n) :: t) s = runPieces x t (emit (.access x.group a n true) s) := by
  rw [runPieces, if_neg (by simp [hfresh])]
  simp only [h, if_true]

/-- A piece that they do not grant is denied, and not performed (R564). -/
theorem runPieces_denied {n : Nat} {t : List (Nat × Nat)} (hfresh : staleAccess s x = false) (h : grants s x a = false) :
    runPieces x ((a, n) :: t) s = runPieces x t (deny x a (emit (.access x.group a n false) s)) := by
  rw [runPieces, if_neg (by simp [hfresh])]
  simp only [h, Bool.false_eq_true, if_false]

theorem exec_internalAccess (hrun : s.running = true) (hgroup : x.group < 16 ∧ 0 < x.len) :
    exec (.internalAccess x) s = .next (access x s) := (onMain_running hrun _).trans (if_pos hgroup)

theorem access_now (h : isHeld s x = false) : access x s = runPieces x (pieces (x.len / 4096 + 2) x.addr x.len) s :=
  if_neg (by simp [h])

/-! #### The rules of the groups (R557 to R559, R561) -/

theorem grants_table (h : 1 ≤ x.group ∧ x.group < 11) : grants s x a = tableGrants s.ac.table x.group a x.write := by
  rw [grants, if_neg (by omega), if_neg (by omega), if_neg (by omega), if_neg (by omega)]

theorem grants_debug (h : x.group = 13) : grants s x a = debugGrants s a x.write := by
  rw [grants, if_neg (by omega), if_neg (by omega), if_pos h]

theorem debugGrants_write : debugGrants s a true = false := by
  unfold debugGrants
  split <;> simp

theorem debugGrants_none {write : Bool} (h : s.lcc.token = none) : debugGrants s a write = false := by
  simp only [debugGrants, h]

theorem testBit_eight {n : Nat} (h : 1 ≤ n ∧ n < 11) : Nat.testBit 8 n = decide (n = 3) := by
  have hall : ∀ n < 11, 1 ≤ n → Nat.testBit 8 n = decide (n = 3) := by decide
  exact hall n h.2 h.1

/-- The decision at a peripheral slot (R557). -/
theorem tableGrants_slot {t : AccessTable} {group n : Nat} {write : Bool} (hgroup : 1 ≤ group ∧ group < 11) (hslot : slotOfAddr a = some n) :
    tableGrants t group a write = (if n = 18 ∧ write = true then decide (group = 3) else if 26 ≤ n then false
      else (if write then (Tbl.get (0, 0) t.slots n).2 else (Tbl.get (0, 0) t.slots n).1).testBit group) := by
  simp only [tableGrants, hslot, slotMasks]
  by_cases hn : n = 18
  · subst hn
    cases write with
    | true => simpa using testBit_eight hgroup
    | false => simp
  · by_cases hbig : 26 ≤ n
    · simp [hn, hbig]
    · simp [hn, hbig]

/-- The decision elsewhere (R559). -/
theorem tableGrants_region {t : AccessTable} {group : Nat} {write : Bool} (hslot : slotOfAddr a = none)
    (hin : ((sramRegion a).isSome || inConfig a) = true) :
    (∀ r, deciding a t.regions = some r → tableGrants t group a write = (if write then r.write else r.read).testBit group) ∧
      (deciding a t.regions = none → tableGrants t group a write = false) := by
  refine ⟨fun r hr => ?_, fun hnone => ?_⟩
  · simp only [tableGrants, hslot, hin, hr, if_true]
  · simp only [tableGrants, hslot, hin, hnone, if_true]

/-! #### Denials (R565) -/

theorem denyConsequence_block (h : (4 ≤ x.group ∧ x.group ≤ 10) ∨ x.group = 12) : denyConsequence x a s =
    raiseLogic 3 (groupBlock x) x.group a (x.engine.elim s fun e => abortEngine e stIntegrityLost s) := by
  rw [denyConsequence, if_neg (by omega), if_neg (by omega), if_pos h]
  cases x.engine <;> rfl

theorem denyConsequence_ctx {c : Ctx} (hgroup : x.group = 1) (hc : x.ctx.bind s.ctx? = some c) :
    denyConsequence x a s = finishCtx c (bare stIntegrityLost) (leaveCore c.id s) := by
  rw [denyConsequence, if_neg (by omega), if_pos hgroup]
  simp only [hc]

theorem denyConsequence_none (h : x.group = 0 ∨ x.group = 11 ∨ 13 ≤ x.group) : denyConsequence x a s = s := by
  rw [denyConsequence, if_neg (by omega), if_neg (by omega), if_neg (by omega)]

theorem denyConsequence_core {i : WorkItem} (hgroup : x.group = 2 ∨ x.group = 3) (hi : (s.coreRt x.core).item.bind s.item? = some i) :
    denyConsequence x a s = failCore x.core none 0 0 (if 1 ≤ i.denials then endDenied i s
      else redispatch i.id { s with ts := { s.ts with items := putItem { i with denials := i.denials + 1 } s.ts.items } }) := by
  rw [denyConsequence, if_pos hgroup, denyCore]
  simp only [hi]
  split <;> rfl

/-! #### Updates of the rules (R566 to R569) -/

/-- A write that no update may make fails its check (R558, R567). -/
theorem writeOk_bad {t : AccessTable} {y : RuleWrite} (h : (∃ r w, y = .slot 18 r w) ∨ (∃ n e, y = .region n e ∧
    ((Tbl.get {} t.regions n).lock = true ∨ (e.testBit 9 = true ∧ (e / 1024 % 32 < 15 ∨ 27 < e / 1024 % 32))))) : writeOk t y = false := by
  rcases h with ⟨r, w, rfl⟩ | ⟨n, e, rfl, hlock | ⟨hon, hsize⟩⟩
  · rfl
  · simp [writeOk, hlock]
  · have hbad : (Region.ofEntry e).ok = false := by
      simp only [Region.ok, Region.ofEntry, hon, Bool.not_true, Bool.false_or, Nat.reducePow]
      rcases hsize with h | h <;> simp <;> omega
    simp [writeOk, hbad]

theorem exec_acUpdateClose {u : Update} (writes : List RuleWrite) (hrun : s.running = true) (hu : s.ac.upd = some u) :
    exec (.acUpdateClose writes) s = .next (if updateOver s u then abortUpdate u s
      else if writes.all (writeOk s.ac.table) then afterUpdate { s with ac := { s.ac with
        table := writes.foldl applyWrite s.ac.shadow, image := some (writes.foldl applyWrite s.ac.shadow) } }
      else afterUpdate (raiseEvent .ac 0 4 s)) := by
  refine (onMain_running hrun _).trans ?_
  simp only [hu]
  split
  · rfl
  · split <;> rfl

theorem exec_acUpdateTimeout {u : Update} (hrun : s.running = true) (hu : s.ac.upd = some u) :
    exec .acUpdateTimeout s = .next (if updateOver s u then abortUpdate u s else s) := by
  refine (onMain_running hrun _).trans ?_
  simp only [hu]
  split <;> rfl

end

/-- Settles O35: an access by its pieces, a decision by its group, a denial by what it brings, an update by how it ends. -/
theorem accessChecksAndUpdates : Obligations.AccessChecksAndUpdates := by
  refine ⟨fun x s hrun ⟨hgroup, hlen, hpage⟩ ⟨hfree, hfresh⟩ hok => ?granted,
    fun x s hrun ⟨hgroup, hcross, hpage⟩ ⟨hfree, hfresh⟩ ⟨hok, hok'⟩ => ?split_,
    fun x n r s => ⟨fun h => ?lines, fun h => ?eleven, fun h hw => ?debugWrite, fun h hnone => ?noToken, fun h => ?nobody,
      fun hlow hhigh hslot => (grants_table ⟨hlow, hhigh⟩).trans (tableGrants_slot ⟨hlow, hhigh⟩ hslot),
      fun hlow hhigh hslot hin => ⟨fun hr => (grants_table ⟨hlow, hhigh⟩).trans ((tableGrants_region hslot hin).1 r hr),
        fun hnone => (grants_table ⟨hlow, hhigh⟩).trans ((tableGrants_region hslot hin).2 hnone)⟩⟩,
    fun x s hrun ⟨hgroup, hlen, hpage⟩ ⟨hfree, hfresh⟩ hbad => ?denied,
    fun x a s => ⟨fun h => if_pos h, fun h => if_neg (by simp [h]), fun h => ?block, fun c hgroup hc => denyConsequence_ctx hgroup hc,
      fun h => denyConsequence_none h, fun hgroup i hi => denyConsequence_core hgroup hi⟩,
    fun x s hrun ⟨hgroup, hlen, hpage⟩ ⟨hfree, hstale⟩ => ?stale,
    fun x s hrun hgroup hheld => (exec_internalAccess hrun hgroup).trans (congrArg _ (if_pos hheld)),
    fun mask core epoch s hrun => ⟨fun h => (onMain_running hrun _).trans (if_pos h),
      fun hmask hstale => (onMain_running hrun _).trans ((if_neg (Classical.not_not.mpr hmask)).trans (if_pos hstale))⟩,
    fun mask core epoch s hrun hmask hfresh => ?opens,
    fun writes u s hrun ⟨hu, hin⟩ hok => ?closes, fun writes y u s hrun ⟨hu, hin⟩ ⟨hy, hbad⟩ => ?refused,
    fun writes s hrun => ⟨fun u hu hheld hin => ?stays, fun u hu hover => ?aborted, fun hnone => ?idle⟩,
    fun s hreach => viaBar_reaches hreach _⟩
  case granted =>
    rw [exec_internalAccess hrun ⟨hgroup, hlen⟩, access_now hfree, pieces_one hlen hpage, runPieces_granted hfresh hok]
    rfl
  case split_ =>
    have hfresh' : staleAccess (emit (.access x.group x.addr (4096 - x.addr % 4096) true) s) x = false := hfresh
    have hok'' : grants (emit (.access x.group x.addr (4096 - x.addr % 4096) true) s) x (x.addr + (4096 - x.addr % 4096)) = true := hok'
    rw [exec_internalAccess hrun ⟨hgroup, by omega⟩, access_now hfree, pieces_two hcross hpage, runPieces_granted hfresh hok,
      runPieces_granted hfresh' hok'']
    rfl
  case lines => rw [grants, if_pos h]
  case eleven => rw [grants, if_neg (by omega), if_pos h]
  case debugWrite => rw [grants_debug h, hw, debugGrants_write]
  case noToken => rw [grants_debug h, debugGrants_none hnone]
  case nobody => rw [grants, if_neg (by omega), if_neg (by omega), if_neg (by omega), if_pos h]
  case denied =>
    rw [exec_internalAccess hrun ⟨hgroup, hlen⟩, access_now hfree, pieces_one hlen hpage, runPieces_denied hfresh hbad, runPieces, deny]
    simp only [satTo_eq_min]
    rfl
  case block =>
    rw [denyConsequence_block h]
    cases x.engine <;> rfl
  case stale =>
    obtain ⟨n, t, hpieces⟩ := pieces_some (fuel := x.len / 4096 + 1) (addr := x.addr) hlen
    rw [exec_internalAccess hrun ⟨hgroup, hlen⟩, access_now hfree, hpieces, runPieces, if_pos hstale]
  case opens =>
    refine (onMain_running hrun _).trans ((if_neg (Classical.not_not.mpr hmask)).trans ((if_neg (by simp [hfresh])).trans ?_))
    cases hu : s.ac.upd with
    | none => rfl
    | some u => rfl
  case closes =>
    rw [exec_acUpdateClose writes hrun hu, if_neg (by simp [hin]), if_pos hok]
    rfl
  case refused =>
    have hall : writes.all (writeOk s.ac.table) = false :=
      List.all_eq_false.mpr ⟨y, hy, by rw [writeOk_bad hbad]; nofun⟩
    rw [exec_acUpdateClose writes hrun hu, if_neg (by simp [hin]), if_neg (by simp [hall])]
  case stays => rw [exec_acUpdateTimeout hrun hu, if_neg (by simp [updateOver, hheld, hin])]
  case aborted =>
    have hover' : updateOver s u = true := by simpa [updateOver] using hover
    rw [exec_acUpdateTimeout hrun hu, exec_acUpdateClose writes hrun hu, if_pos hover', if_pos hover']
    exact ⟨rfl, rfl⟩
  case idle => exact ⟨(onMain_running hrun _).trans (by simp only [hnone]), (onMain_running hrun _).trans (by simp only [hnone])⟩

end Sys2Proof.Machine

/-! ### Ports and pairs: links, duplicate sources, frames of the cores, counters and settings -/

namespace Sys2Proof.Machine

section
variable {s : State} {p port i : Nat}

/-! #### Links (R207, R217) -/

theorem declareDead_eq (p : Nat) (s : State) : declareDead p s =
    if (s.pairOf p).isNone || (s.port p).lanDead then s
    else stageRec 0x22 0x7F (.portEvent p 2 1) (bumpPort p pLanDead 1 (s.updPort p fun v => { v with lanDead := true })) := rfl

theorem exec_portLinkChange_same (hrun : s.running = true) {up : Bool} (h : (s.port port).linkUp = up) :
    exec (.portLinkChange port up) s = .next s := (onMain_running hrun _).trans (if_pos h.symm)

theorem exec_portLinkChange_up (hrun : s.running = true) (hdown : (s.port port).linkUp = false) :
    exec (.portLinkChange port true) s = .next (if s.portOn port && !s.mismatch port && s.pwr.phase != 5 && s.pwr.phase != 6
      then linkUp port s else s) := by
  refine (onMain_running hrun _).trans ((if_neg (by simp [hdown])).trans ((if_pos rfl).trans ?_))
  split <;> rfl

theorem exec_portLinkChange_down (hrun : s.running = true) (hup : (s.port port).linkUp = true) :
    exec (.portLinkChange port false) s = .next (linkDown port s) :=
  (onMain_running hrun _).trans ((if_neg (by simp [hup])).trans (if_neg nofun))

/-! #### The tables of a pair (R211, R215) -/

theorem dequeue_pairs (c : TxCopy) (s : State) : (dequeue c s).fe.pairs = s.fe.pairs := rfl

theorem finishFrame_pairs (fr : TxFrame) (s : State) : (finishFrame fr s).fe.pairs = s.fe.pairs := by
  have hstage (s' : State) : (stageCaptures fr.toRing fr.toWindow fr.function fr.group fr.quality fr.stamp
      (.frameCapture fr.entry fr.tag fr.ingressPort fr.result fr.descs fr.data fr.len) s').fe = s'.fe := by simp
  unfold finishFrame
  simp only []
  split
  · rw [hstage]
  · simp only [lateComplete_frame, hstage]

theorem endCopy_pairs (c : TxCopy) (fr : TxFrame) (d : CopyDesc) (s : State) : (endCopy c fr d s).fe.pairs = s.fe.pairs := by
  unfold endCopy
  simp only []
  split
  · rw [finishFrame_pairs, dequeue_pairs]
  · rfl

theorem loseAll_pairs (counter : Nat) (l : List TxCopy) (s : State) : (loseAll counter l s).fe.pairs = s.fe.pairs := by
  induction l generalizing s with
  | nil => rfl
  | cons c t ih =>
    rw [loseAll, ih, loseWaiting]
    split
    · rfl
    · rw [losePort, endCopy_pairs]
      rfl

theorem declareDead_pairs (p : Nat) (s : State) : (declareDead p s).fe.pairs = s.fe.pairs := by
  rw [declareDead_eq]
  split <;> rfl

theorem linkDown_pairs (p : Nat) (s : State) : (linkDown p s).fe.pairs = s.fe.pairs := by
  rw [linkDown, declareDead_pairs, loseAll_pairs]
  rfl

theorem holdLink_pairs (p : Nat) (s : State) : (holdLink p s).fe.pairs = s.fe.pairs := by
  have hdown : (if (s.port p).linkUp && (!s.portOn p || s.mismatch p) then linkDown p s else s).fe.pairs = s.fe.pairs := by
    split
    · exact linkDown_pairs p s
    · rfl
  unfold holdLink
  generalize (if (s.port p).linkUp && (!s.portOn p || s.mismatch p) then linkDown p s else s) = t at hdown
  dsimp only
  split
  · rw [declareDead_pairs, hdown]
  · exact hdown

theorem clearDead_pairs (p : Nat) (s : State) : (clearDead p s).fe.pairs = s.fe.pairs := by
  unfold clearDead
  split <;> rfl

/-- A change of KIND clears the pair's tables, and takes effect (R211). -/
theorem setKind_leaves (i kind : Nat) (s : State) :
    (setKind i kind s).pair i = { s.pair i with dup := [], nodes := [], passed0 := [], passed1 := [] } ∧
      (setKind i kind s).pairCfg i = setField (s.pairCfg i) 1 0 kind := by
  constructor
  · simp only [State.pair, setKind, holdLink_pairs, clearDead_pairs, State.setPair]
    exact Tbl.get_put_self ..
  · have hrw : (setKind i kind s).rw = Tbl.put (pairKey i) (setField (s.pairCfg i) 1 0 kind) s.rw := by simp [setKind, State.setPair]
    rw [State.pairCfg, hrw]
    exact congrArg (Option.getD · _) (Tbl.find?_put_self ..)

theorem exec_lanDeadTimeout_pair {i kind : Nat} (hrun : s.running = true) (hp : s.pairOf port = some (i, kind)) :
    exec (.lanDeadTimeout port) s =
      .next (if (s.port port).lastRx + s.deadInterval i ≤ s.sck.now then declareDead port s else s) := by
  refine (onMain_running hrun _).trans ?_
  simp only [hp]
  split <;> rfl

/-- A table without a source that has been silent for the forget time of a pair (R215). -/
def dropSilent (s : State) (pair src : Nat) (t : Tbl DupSource) : Tbl DupSource :=
  if (Tbl.find? src t).any (fun d => decide (d.last + s.forgetTime pair ≤ s.sck.now)) then Tbl.del src t else t

theorem dropSilent_unknown {pair src : Nat} {t : Tbl DupSource} (h : Tbl.find? src t = none) : dropSilent s pair src t = t := by
  rw [dropSilent, h]
  rfl

theorem dropSilent_known {pair src : Nat} {t : Tbl DupSource} {d : DupSource} (h : Tbl.find? src t = some d) :
    dropSilent s pair src t = if d.last + s.forgetTime pair ≤ s.sck.now then Tbl.del src t else t := by
  by_cases hdue : d.last + s.forgetTime pair ≤ s.sck.now
  · rw [dropSilent, h, if_pos (by rw [Option.any_some]; exact decide_eq_true hdue), if_pos hdue]
  · rw [dropSilent, h, if_neg (by rw [Option.any_some]; exact Bool.eq_false_iff.mp (decide_eq_false hdue)), if_neg hdue]

theorem exec_dupSourceForget {pair src : Nat} (hrun : s.running = true) : exec (.dupSourceForget pair src) s =
    .next (s.setPair pair { s.pair pair with dup := dropSilent s pair src (s.pair pair).dup
                                             passed0 := dropSilent s pair src (s.pair pair).passed0
                                             passed1 := dropSilent s pair src (s.pair pair).passed1 }) := onMain_running hrun _

/-! #### Frames of the cores (R199, R204 to R207, R213) -/

/-- A pair's supervision frames leave on both members under one number (R213). -/
theorem sendSupervision_eq (i : Nat) (x s : State) (hident : x.ident = s.ident) : sendSupervision i x =
    if x.pairKind i = 0 then x else (fun (n : Nat) (y : State) => sendCore (5 + 2 * i) (s.ownMac i) 6 (y.redFor (5 + 2 * i) n)
        (.supervision (s.ownMac i)) (sendCore (4 + 2 * i) (s.ownMac i) 6 (y.redFor (4 + 2 * i) n) (.supervision (s.ownMac i)) y))
      (x.pair i).seq (if x.ptpOn (4 + 2 * i) && x.ptpOn (5 + 2 * i) then x
        else x.setPair i { x.pair i with seq := ((x.pair i).seq + 1) % 65536 }) := by
  have hmac : x.ownMac i = s.ownMac i := by simp only [State.ownMac, State.portMac, hident]
  unfold sendSupervision
  split
  · rfl
  · simp only [sendPair, hmac, takeSeqs]
    split <;> rfl

theorem sendCore_unsent {src tclass : Nat} {red : Option (Nat × Nat)} {x : CoreFrame} (h : s.portOn p = false ∨ s.fe.forwarding = false) :
    sendCore p src tclass red x s = s := if_pos h

theorem sendCore_linkDown {src tclass : Nat} {red : Option (Nat × Nat)} {x : CoreFrame} (hon : s.portOn p = true)
    (hfwd : s.fe.forwarding = true) (hdown : (s.port p).linkUp = false) :
    sendCore p src tclass red x s = bumpPort p pLinkDown 1 s := (if_neg (by simp [hon, hfwd])).trans (if_pos hdown)

theorem sendCore_full {src tclass : Nat} {red : Option (Nat × Nat)} {x : CoreFrame} (hon : s.portOn p = true)
    (hfwd : s.fe.forwarding = true) (hup : (s.port p).linkUp = true)
    (hfull : txBuffer < (s.port p).buffer + ((Config.coreBytes src red x).length + 4)) :
    sendCore p src tclass red x s = bumpPort p pEgressFull 1 s :=
  (if_neg (by simp [hon, hfwd])).trans ((if_neg (by simp [hup])).trans (if_pos hfull))

/-- A frame that needs no packet number waits in the queue of its class (R204). -/
theorem sendCore_plain {src tclass : Nat} {red : Option (Nat × Nat)} {x : CoreFrame} (hon : s.portOn p = true)
    (hfwd : s.fe.forwarding = true) (hup : (s.port p).linkUp = true)
    (hroom : (s.port p).buffer + ((Config.coreBytes src red x).length + 4) ≤ txBuffer)
    (hplain : s.macsecOn p = false ∨ s.macsecDown p = true ∨ isEapol x = true) :
    sendCore p src tclass red x s = enqueue { id := s.fe.nextId, port := p, tclass, at_ := s.sck.now
                                              len := (Config.coreBytes src red x).length + 4, redSeq := red.map (·.1), core := some (src, x) }
      { s with fe := { s.fe with nextId := s.fe.nextId + 1 } } := by
  have hno : (s.macsecOn p && !s.macsecDown p && !isEapol x) = false := by
    rcases hplain with h | h | h <;> simp [h]
  refine (if_neg (by simp [hon, hfwd])).trans ((if_neg (by simp [hup])).trans ((if_neg (by omega)).trans ?_))
  simp only [hno, Bool.false_eq_true, if_false]

/-! #### Counters (R190, R191) -/

/-- A latch of stream counters, by whether the entry is the function's own. -/
theorem exec_streamCounterLatch {f entry : Nat} {error : Bool} (hf : reaches f s = true) (hentry : entry < 131072) :
    exec (.streamCounterLatch f entry error) s = .next ((fun (owned : Bool) (t : State) => { t with fe := { t.fe with
      latch := Tbl.put f { entry, valid := true, notOwned := !owned
                           unused := owned && !(owned && (t.entryAt entry false).isSome)
                           lost := (owned && (t.entryAt entry false).isSome) && (t.rt entry false).continuityLost
                           data := if owned && (t.entryAt entry false).isSome then fourteen (t.rt entry false).counters else [] }
        t.fe.latch } })
      ((s.part? f).any fun p => decide (p.base ≤ entry) && decide (entry < p.base + p.size))
      (if error && (s.part? f).any (fun p => decide (p.base ≤ entry) && decide (entry < p.base + p.size))
        then counterError entry false s else s)) := by
  have hexec : exec (.streamCounterLatch f entry error) s = execStreamCounterLatch f entry error s := rfl
  rw [hexec, execStreamCounterLatch, viaBar_reaches hf, Nat.mod_eq_of_lt hentry]

/-! #### Settings (R200, R211) -/

theorem refusesMode_iff {old value : Nat} : refusesMode s p old value = true ↔ 4 ≤ p ∧ bitOf old 0 = false ∧
    fieldOf value 3 1 ≠ fieldOf old 3 1 ∧ modeRefused s p (fieldOf value 3 1) = true := by
  simp [refusesMode, and_assoc]

theorem exec_pairCfgWrite {pair value : Nat} (hr : reaches 0 s = true) (hpair : pair ≤ 3) (hkind : fieldOf value 1 0 ≠ 3)
    (hdead : 10 ≤ fieldOf value 15 4 ∧ fieldOf value 15 4 ≤ 4000) (hforget : 10 ≤ fieldOf value 25 16 ∧ fieldOf value 25 16 ≤ 1000) :
    exec (.pairCfgWrite pair value) s = .next (if fieldOf value 1 0 ≠ s.pairKind pair ∧
        (bitOf (s.portCfg (4 + 2 * pair)) 0 = true ∨ bitOf (s.portCfg (5 + 2 * pair)) 0 = true)
      then { s with rw := Tbl.put (pairKey pair) (setField (s.pairCfg pair) 2 2 1) s.rw }
      else (fun x => queueWrite (pairKey pair) (fieldOf value 1 0 + 16 * fieldOf value 15 4 + 65536 * fieldOf value 25 16)
        (if fieldOf value 1 0 = s.pairKind pair then x else setKind pair (fieldOf value 1 0) x))
        { s with rw := Tbl.put (pairKey pair) (setField (s.pairCfg pair) 2 2
          (if bitOf value 2 then 0 else fieldOf (s.pairCfg pair) 2 2)) s.rw }) := by
  refine (viaBar_reaches hr _).trans ((if_neg (by omega)).trans ?_)
  simp only [Bool.and_eq_true, Bool.or_eq_true, bne_iff_ne]
  split
  · rfl
  · by_cases hsame : fieldOf value 1 0 = s.pairKind pair
    · rw [if_neg (Classical.not_not.mpr hsame), if_pos hsame]
    · rw [if_pos hsame, if_neg hsame]

end

/-- Settles O43: a link, a LAN and a source by the rule of the command, a frame of the cores by the branch that its port takes, a
setting by what its write may change. -/
theorem portsAndPairs : Obligations.PortsAndPairs := by
  refine ⟨fun port s y z hrun hy hz => ⟨fun hdown hon hmode h5 h6 => ?up, fun hdown hoff => ?heldDown, fun hup => ?down,
      fun up h => exec_portLinkChange_same hrun h⟩,
    fun port i kind s hrun => ⟨fun hnone => ?unpaired, fun hp => ?dead⟩,
    fun pair src s hrun => ?forget, fun s hrun => ?supervision,
    fun p src tclass red x s => ⟨sendCore_unsent, sendCore_linkDown, sendCore_full, fun hon hfwd hup hroom hplain => ?plain⟩,
    fun port f entry error s ⟨hr, hf, hentry⟩ => ⟨viaBar_reaches hr _, fun p hp hlow hhigh => ?owned, fun hnot => ?notOwned⟩,
    fun port value old s hr hold => ⟨fun hbad => (viaBar_reaches hr _).trans (if_pos hbad), fun hport hmode => ?portCfg⟩,
    fun pair value s hr => ⟨fun hbad => (viaBar_reaches hr _).trans (if_pos hbad), fun hpair hkind h1 h2 h3 h4 =>
      exec_pairCfgWrite hr hpair hkind ⟨h1, h2⟩ ⟨h3, h4⟩⟩,
    fun i kind s _ => setKind_leaves i kind s⟩
  case up =>
    rw [exec_portLinkChange_up hrun hdown, if_pos (by simp [hon, hmode, h5, h6]), hy]
    rfl
  case heldDown =>
    rw [exec_portLinkChange_up hrun hdown, if_neg]
    rcases hoff with h | h | h | h <;> simp [h]
  case down =>
    have hdown : linkDown port s = declareDead port z := by rw [hz]; rfl
    rw [exec_portLinkChange_down hrun hup, hdown, declareDead_eq]
  case unpaired =>
    refine (onMain_running hrun _).trans ?_
    simp only [hnone]
  case dead =>
    have hpaired : (s.pairOf port).isNone = false := by rw [hp]; rfl
    rw [exec_lanDeadTimeout_pair hrun hp, declareDead_eq, hpaired, Bool.false_or]
    by_cases hdue : (s.port port).lastRx + s.deadInterval i ≤ s.sck.now
    · rw [if_pos hdue]
      by_cases hdead : (s.port port).lanDead = true
      · rw [if_pos hdead, if_pos (.inr hdead)]
      · rw [if_neg hdead, if_neg (by simp only [not_or]; exact ⟨by omega, hdead⟩)]
    · rw [if_neg hdue, if_pos (.inl (by omega))]
  case forget =>
    have hdrop : dropSilent s pair src = fun t => match Tbl.find? src t with
        | none => t
        | some d => if d.last + s.forgetTime pair ≤ s.sck.now then Tbl.del src t else t := by
      funext t
      cases hd : Tbl.find? src t with
      | none => exact dropSilent_unknown hd
      | some d => exact dropSilent_known hd
    rw [exec_dupSourceForget hrun, hdrop] <;> rfl
  case supervision =>
    refine (onMain_running hrun _).trans (congrArg Host.Outcome.next ?_)
    rw [sendSupervision_eq 3 _ s (by simp), sendSupervision_eq 2 _ s (by simp), sendSupervision_eq 1 _ s (by simp),
      sendSupervision_eq 0 s s rfl]
  case plain => exact sendCore_plain hon hfwd hup hroom hplain
  case owned =>
    have howned : (s.part? f).any (fun p => decide (p.base ≤ entry) && decide (entry < p.base + p.size)) = true := by
      simp [hp, hlow, hhigh]
    rw [exec_streamCounterLatch hf hentry, howned]
    simp only [Bool.and_true, Bool.true_and, Bool.not_true]
    generalize (if error then counterError entry false s else s) = t
    cases (t.entryAt entry false).isSome <;> rfl
  case notOwned =>
    have hfree : (s.part? f).any (fun p => decide (p.base ≤ entry) && decide (entry < p.base + p.size)) = false := by
      cases hp : s.part? f with
      | none => rfl
      | some p => simpa using hnot p hp
    rw [exec_streamCounterLatch hf hentry, hfree]
    simp only [Bool.and_false, Bool.false_and, Bool.false_eq_true, if_false]
    rfl
  case portCfg =>
    refine (viaBar_reaches hr _).trans ((if_neg (by simp [hport]; omega)).trans ?_)
    subst hold
    simp only [refusesMode_iff]
    rfl

end Sys2Proof.Machine

/-! ### MACsec key agreement -/

namespace Sys2Proof.Machine

section
variable {s : State} {p port : Nat}

/-! #### Ports -/

@[simp] theorem port_setPort_self (p : Nat) (v : Port) (s : State) : (s.setPort p v).port p = v := Tbl.get_put_self ..

@[simp] theorem port_updPort_self (p : Nat) (g : Port → Port) (s : State) : (s.updPort p g).port p = g (s.port p) := port_setPort_self ..

/-! #### A SAK is installed (R165, R224, R226) -/

/-- Conditions that end leave the port without them, each with its record. -/
theorem endConds_port (p : Nat) (l : List Nat) (s : State) :
    (endConds p l s).port p = { s.port p with conds := (s.port p).conds.filter fun c => !l.contains c } ∧
      (endConds p l s).arc.staging = s.arc.staging ++ l.map fun c => recNow 0x22 0x7F (.portEvent p 4 c) s := by
  induction l generalizing s with
  | nil =>
    have hall : (s.port p).conds.filter (fun c => !([] : List Nat).contains c) = (s.port p).conds := List.filter_eq_self.mpr fun _ _ => rfl
    exact ⟨(congrArg (fun l => { s.port p with conds := l }) hall).symm, (List.append_nil _).symm⟩
  | cons c t ih =>
    obtain ⟨hport, hstaged⟩ := ih (portEvent p 4 c (s.updPort p fun v => { v with conds := v.conds.filter (· != c) }))
    rw [endConds, hport, hstaged]
    have hself : (portEvent p 4 c (s.updPort p fun v => { v with conds := v.conds.filter (· != c) })).port p =
        { s.port p with conds := (s.port p).conds.filter (· != c) } :=
      (show _ = (s.updPort p fun v => { v with conds := v.conds.filter (· != c) }).port p from rfl).trans (port_updPort_self ..)
    have hnow (x : Nat) : recNow 0x22 0x7F (.portEvent p 4 x)
        (portEvent p 4 c (s.updPort p fun v => { v with conds := v.conds.filter (· != c) })) = recNow 0x22 0x7F (.portEvent p 4 x) s := rfl
    rw [hself]
    constructor
    · simp only [List.filter_filter]
      congr 1
      refine List.filter_congr fun x _ => ?_
      cases h : x == c <;> simp_all [bne]
    · simp only [hnow, List.map_cons]
      exact List.append_assoc ..

/-- What a SAK leaves at its port. -/
theorem installSak_leaves (p : Nat) (m : MkaSak) (sak : Bytes) (replace : Bool) (s : State) :
    ((installSak p m sak replace s).port p).txSa = some { an := m.an, nextPn := 1, sak, ssci := m.ssci, salt := m.salt
                                                          pad := padOf sak (macsecIv (s.portXpn p) (s.sci p) m.ssci m.salt 1) } ∧
      ((installSak p m sak replace s).port p).txOld = (if replace then none else (s.port p).txSa) ∧
      ((installSak p m sak replace s).port p).rxChannels =
        newChannels (s.portXpn p) sak m.salt (if replace then [] else (s.port p).rxChannels) (m.peers.take 4) ∧
      ((installSak p m sak replace s).port p).conds = [] ∧
      ∀ c ∈ (s.port p).conds, recNow 0x22 0x7F (.portEvent p 4 c) s ∈ (installSak p m sak replace s).arc.staging := by
  unfold installSak
  simp only [port_updPort_self]
  generalize padOf sak (macsecIv (s.portXpn p) (s.sci p) m.ssci m.salt 1) = pad
  obtain ⟨hport, hstaged⟩ := endConds_port p (s.port p).conds (s.updPort p fun v =>
    { v with txOld := if replace then none else v.txSa
             txSa := some { an := m.an, nextPn := 1, sak, ssci := m.ssci, salt := m.salt, pad }
             rxChannels := newChannels (s.portXpn p) sak m.salt (if replace then [] else v.rxChannels) (m.peers.take 4)
             sakRequested := false })
  rw [hport, hstaged]
  simp only [port_updPort_self]
  refine ⟨trivial, trivial, trivial, ?_, fun c hc => List.mem_append_right _ (List.mem_map.mpr ⟨c, hc, rfl⟩)⟩
  rw [List.filter_eq_nil_iff]
  intro c hc
  simp [hc]

/-! #### Exchanges (R224, R225) -/

/-- The CAK that an exchange uses: the one that waits, else the one in force. -/
def exchangeCak (s : State) (port : Nat) : Nat := (s.port port).cakNext.getD (s.port port).cak

/-- The port once an MKPDU has been accepted (R224). -/
def mkaHeard (port : Nat) (pdu : MkaPdu) (s : State) : State :=
  s.updPort port fun v => { v with cak := exchangeCak s port, cakNext := none, keyServer := pdu.server
                                   livePeers := pdu.peers, lastMkpdu := s.sck.now }

theorem exec_mkaExchange {pdu : MkaPdu} {k : LoadedKey} (hrun : s.running = true) (hon : s.macsecOn port = true)
    (hup : (s.port port).linkUp = true) (hcak : cakUsable s (exchangeCak s port) = true) (hk : s.key? (exchangeCak s port) = some k)
    (hicv : pdu.icv = cmac k.work.ick pdu.body) :
    (pdu.sak = none ∨ 1 ≤ s.level → exec (.mkaExchange port pdu) s = .next (mkaHeard port pdu s)) ∧
      (∀ m, pdu.sak = some m → s.level = 0 → exec (.mkaExchange port pdu) s =
        .next ((exchangeSak port pdu.server k.work.kek m (mkaHeard port pdu s)).elim (mkaHeard port pdu s) fun x =>
          installSak port m x.1 ((s.port port).cakNext.isSome && (s.port port).cak != exchangeCak s port) x.2)) := by
  have hstart : ¬ (s.macsecOn port = false ∨ (s.port port).linkUp = false ∨
      cakUsable s ((s.port port).cakNext.getD (s.port port).cak) = false) := by
    have hcak' : cakUsable s ((s.port port).cakNext.getD (s.port port).cak) = true := hcak
    simp [hon, hup, hcak']
  have hk' : s.key? ((s.port port).cakNext.getD (s.port port).cak) = some k := hk
  have hexec : exec (.mkaExchange port pdu) s = execMkaExchange port pdu s := rfl
  rw [hexec, execMkaExchange, onMain_running hrun]
  simp only [if_neg hstart, hk', hicv, ne_eq, not_true_eq_false, if_false]
  constructor
  · intro h
    cases hsak : pdu.sak with
    | none => rfl
    | some m =>
      have hrestrict : 1 ≤ s.level := h.resolve_left (by rw [hsak]; nofun)
      exact if_pos hrestrict
  · intro m hm hzero
    have hrecord : ¬ 1 ≤ s.level := by omega
    simp only [hm]
    refine (if_neg hrecord).trans ?_
    cases hx : exchangeSak port pdu.server k.work.kek m (mkaHeard port pdu s) with
    | none =>
      simp only [mkaHeard, exchangeCak] at hx
      simp only [hx]
      rfl
    | some x =>
      simp only [mkaHeard, exchangeCak] at hx
      simp only [hx]
      rfl

/-! #### PORT_MACSEC_SET and PORT_MACSEC_GET (R224) -/

/-- What PORT_MACSEC_SET does once its CAK has been found, or where it names none. -/
def writeMacsec (port priority replay cak : Nat) (s : State) : OpOut :=
  if s.portAbsent port || s.hsrMember port || decide (255 < priority) || decide (65535 < replay) then .done (reject 0) s
  else .done (okDetail 0) (s.updPort port fun v =>
    { v with keyServerPrio := priority, replayWindow := replay, cakNext := if cak = v.cak then none else some cak })

/-- What PORT_MACSEC_GET writes. -/
def macsecReport (s : State) (port : Nat) : Bytes :=
  leBytes 1 port ++ leBytes 1 (s.port port).keyServerPrio ++ leBytes 2 0 ++ leBytes 4 (s.port port).replayWindow ++
    leBytes 4 ((s.port port).cakNext.getD (s.port port).cak) ++
    leBytes 1 (b2n (s.port port).keyServer + 2 * b2n (s.secured port)) ++ leBytes 3 0

theorem macsecReport_length (s : State) (port : Nat) : (macsecReport s port).length = 16 := by
  simp only [macsecReport, List.length_append, leBytes_length]

end

/-- Settles O42: an exchange by what its SAK comes to, the other commands by their one condition. -/
theorem macsecAgreesKeys : Obligations.MacsecAgreesKeys := by
  refine ⟨fun port pdu k s u ⟨hrun, hon, hup⟩ ⟨hcak, hk⟩ hicv hu => ⟨fun h => ?heard, fun m hm hzero hserver => ?server,
      fun m hm hzero hclient => ?client⟩,
    installSak_leaves, fun port pdu s hrun hbad => ?nothing, fun port s hrun => ⟨?hello, ?expiry⟩,
    fun port s hrun => ⟨fun a hon ha hpn => ?exhausted, fun hfine => ?fine⟩,
    fun q port priority replay cak s hr => ⟨fun code hne hfail => ?setFails, fun hok => ?set⟩, fun q port s hr => ?get⟩
  case heard => rw [(exec_mkaExchange hrun hon hup hcak hk hicv).1 h, hu]; rfl
  case server =>
    rw [(exec_mkaExchange hrun hon hup hcak hk hicv).2 m hm hzero, exchangeSak, if_pos hserver]
    have hu' : u = mkaHeard port pdu s := hu
    have hrnu : (mkaHeard port pdu s).rnu = s.rnu := rfl
    rw [hu', hrnu]
    split <;> rfl
  case client =>
    rw [(exec_mkaExchange hrun hon hup hcak hk hicv).2 m hm hzero, exchangeSak, if_neg (by simp [hclient])]
    have hu' : u = mkaHeard port pdu s := hu
    rw [hu']
    cases keyUnwrap k.work.kek m.wrapped <;> rfl
  case nothing =>
    by_cases hstart : s.macsecOn port = false ∨ (s.port port).linkUp = false ∨ cakUsable s (exchangeCak s port) = false
    · exact (onMain_running hrun _).trans (if_pos hstart)
    · refine (onMain_running hrun _).trans ((if_neg hstart).trans ?_)
      cases hk : s.key? ((s.port port).cakNext.getD (s.port port).cak) with
      | none => rfl
      | some k =>
        have hicv : pdu.icv ≠ cmac k.work.ick pdu.body := by
          rcases hbad with h | h | h | h
          · exact absurd (.inl h) hstart
          · exact absurd (.inr (.inl h)) hstart
          · exact absurd (.inr (.inr h)) hstart
          · exact h k hk
        exact if_pos hicv
  case hello =>
    refine (onMain_running hrun _).trans ?_
    simp only [Bool.and_eq_true, decide_eq_true_eq, and_assoc]
    split <;> rfl
  case expiry =>
    refine (onMain_running hrun _).trans ?_
    simp only [Bool.and_eq_true, decide_eq_true_eq, and_assoc, Bool.not_eq_true', List.isEmpty_eq_false_iff]
    split <;> rfl
  case exhausted =>
    refine (onMain_running hrun _).trans (if_pos ?_)
    rw [hon, ha, Option.any_some, Bool.true_and]
    exact decide_eq_true hpn
  case fine =>
    refine (onMain_running hrun _).trans (if_neg ?_)
    rw [Bool.not_eq_true, Bool.and_eq_false_iff]
    refine hfine.imp id fun h => ?_
    cases ha : (s.port port).txSa with
    | none => rfl
    | some a =>
      rw [Option.any_some]
      exact decide_eq_false (Nat.not_lt.mpr (h a ha))
  case setFails =>
    exact exec_done (comp := { code }) hr rfl ((if_neg hne).trans (withKey_fail hfail _))
  case set =>
    have hrange : (s.portAbsent port || s.hsrMember port || decide (255 < priority) || decide (65535 < replay)) = true ↔
        s.portAbsent port = true ∨ s.hsrMember port = true ∨ 255 < priority ∨ 65535 < replay := by
      simp only [Bool.or_eq_true, decide_eq_true_eq, or_assoc]
    have hset : exec (.portMacsecSet q port priority replay cak) s = .next (runOp 0x0B02 q 0 s fun s =>
        if cak = 0 then writeMacsec port priority replay cak s
        else withKey 0 cak [0x30] useMka s fun _ => writeMacsec port priority replay cak s) := rfl
    have hwrite : (if cak = 0 then writeMacsec port priority replay cak s
        else withKey 0 cak [0x30] useMka s fun _ => writeMacsec port priority replay cak s) =
        writeMacsec port priority replay cak s := by
      rcases hok with h | ⟨k, hk⟩
      · exact if_pos h
      · rw [withKey_found hk, ite_self]
    by_cases hbad : s.portAbsent port = true ∨ s.hsrMember port = true ∨ 255 < priority ∨ 65535 < replay
    · rw [if_pos hbad]
      exact exec_done (comp := reject 0) hr hset (hwrite.trans (if_pos (hrange.mpr hbad)))
    · rw [if_neg hbad]
      exact exec_done (comp := okDetail 0) hr hset (hwrite.trans (if_neg (fun h => hbad (hrange.mp h))))
  case get =>
    by_cases habsent : s.portAbsent port = true
    · rw [if_pos habsent]
      exact exec_done (comp := reject 0) hr rfl (if_pos habsent)
    · have hget := exec_done (comp := okOut 0 (macsecReport s port)) (i := .portMacsecGet q port) hr rfl (if_neg habsent)
      rw [okOut, macsecReport_length] at hget
      rw [if_neg habsent]
      exact hget

end Sys2Proof.Machine

/-! ## Pads, double windows and the other key around a rollover

What each of the five commands does once its entry has been found (R148, R158, R161, R164, R309, R310). -/

namespace Sys2Proof.Machine

section
variable {s : State} {n : Nat} {e : Entry}

/-! ### The commands (R158, R164, R310) -/

theorem exec_padRefill (hrun : s.running = true) :
    exec (.padRefill n) s = .next ((padEntry s n).elim s fun e => s.updRt n false (fillPads s e)) := by
  refine (onMain_running hrun _).trans ?_
  cases padEntry s n <;> rfl

theorem exec_dualKeyPadWindow (hrun : s.running = true) :
    exec (.dualKeyPadWindow n) s = .next ((padEntry s n).elim s fun e =>
      if e.keyNextValid = true ∧ stampNs e.rollAt ≤ s.sck.now + 1000000 ∧ s.sck.now < stampNs e.rollAt + 1000000 then
        s.updRt n false fun r => fillPads s e { r with dual := true }
      else s) := by
  refine (onMain_running hrun _).trans ?_
  cases padEntry s n with
  | none => rfl
  | some e =>
    simp only [Bool.and_eq_true, decide_eq_true_eq, and_assoc, Option.elim_some]
    split <;> rfl

/-- An entry that is not used keeps no pads. -/
theorem padEntry_unused (h : s.entryAt n false = none) : padEntry s n = none := by
  rw [padEntry, h, Option.bind_none]

/-! ### Refilled pads (R148, R161) -/

variable {r : EntryRt} {p : Pred} {i : Nat} {next : Bool} {x : PadSlot}

/-- What is made for a place of the lookahead stands in the store. -/
theorem mem_fillPads (hp : r.pred = some p) (hplace : (i, next) ∈ padPlaces e s.sck.now r) (hx : padFor s e r p i next = some x) :
    x ∈ (fillPads s e r).pads := by
  rw [fillPads, hp]
  exact List.mem_append_left _ (List.mem_filterMap.mpr ⟨(i, next), hplace, hx⟩)

theorem padFor_held (h : heldPad r i next = some x) : padFor s e r p i next = some x := by
  rw [padFor, h]

theorem padFor_made {k : LoadedKey} (h : heldPad r i next = none) (hk : s.key? (if next then e.keyNext else e.keyCur) = some k) :
    padFor s e r p i next = some { held := true, pos := i, next, val := padOf k.material (frameIv e (predicted e p i).1 (predicted e p i).2) } := by
  simp only [padFor, h, hk, Option.map_some]

end

/-- Settles O40: each command by its entry and the condition of its instant. -/
theorem padsAndAcceptance : Obligations.PadsAndAcceptance := by
  refine ⟨fun n s hrun => ⟨fun e he => ?refill, fun he => ?leaves⟩, fun e r p i next k s ⟨hp, hplace⟩ hk => ?places,
    fun n s hrun => ⟨fun e he hvalid hfrom huntil => ?opens, fun hout => ?elsewhere⟩,
    fun n f e s hrun he => ⟨fun hdual hover => ?ends, fun hnot => ?stays⟩, fun n f e s hrun he => ⟨?acceptOpen, ?acceptClose⟩,
    fun n c s ⟨hrun, he⟩ hc => ?unused⟩
  case refill => rw [exec_padRefill hrun, he]; rfl
  case leaves => rw [exec_padRefill hrun, he]; rfl
  case places =>
    cases hheld : heldPad r i next with
    | some x => exact ⟨x, mem_fillPads hp hplace (padFor_held hheld), fun y hy => Option.some.inj hy, nofun⟩
    | none => exact ⟨_, mem_fillPads hp hplace (padFor_made hheld hk), nofun, fun _ => rfl⟩
  case opens =>
    rw [exec_dualKeyPadWindow hrun, he, Option.elim_some, if_pos ⟨hvalid, hfrom, huntil⟩]
  case elsewhere =>
    rw [exec_dualKeyPadWindow hrun]
    cases he : padEntry s n with
    | none => rfl
    | some e =>
      refine congrArg _ (if_neg fun ⟨hvalid, hfrom, huntil⟩ => ?_)
      rcases hout e he with h | h | h
      · exact Bool.noConfusion (hvalid.symm.trans h)
      · omega
      · omega
  case ends =>
    refine (onMain_running hrun _).trans ?_
    simp only [he]
    exact if_pos (by rw [hdual, decide_eq_true hover]; rfl)
  case stays =>
    refine (onMain_running hrun _).trans ?_
    simp only [he]
    refine if_neg ?_
    rcases hnot with h | h
    · simp [h]
    · simp [Nat.not_le.mpr h]
  case acceptOpen =>
    refine (onMain_running hrun _).trans ?_
    simp only [he, accepting, Bool.and_eq_true, decide_eq_true_eq, and_assoc, Option.isNone_iff_eq_none]
    split <;> rfl
  case acceptClose =>
    refine (onMain_running hrun _).trans ?_
    simp only [he, Bool.and_eq_true, decide_eq_true_eq]
    split <;> rfl
  case unused =>
    simp only [List.mem_cons, List.not_mem_nil, or_false] at hc
    rcases hc with rfl | rfl | rfl | rfl | rfl
    · rw [exec_padRefill hrun, padEntry_unused he]; rfl
    · rw [exec_dualKeyPadWindow hrun, padEntry_unused he]; rfl
    all_goals
      refine (onMain_running hrun _).trans ?_
      simp only [he]

end Sys2Proof.Machine

/-! ## Switches, drains, reloads and the match store

A walk over the partitions in which one alone satisfies the test treats that one; a swap is read through what each of its
parts leaves of the partition, the frames, the entries and the staged records (R80, R110, R124 to R128, R132). -/

namespace Sys2Proof.Machine

section
variable {s : State} {f n : Nat} {p : Partition}

/-! ### The walk over the partitions -/

theorem forParts_none {test : Partition → Bool} {act : Nat → Partition → State → State} {l : Tbl Partition}
    (h : ∀ x ∈ l, test x.2 = false) : forParts test act l s = s := by
  induction l with
  | nil => rfl
  | cons c l ih =>
    rw [forParts, if_neg (by simp [h c (List.mem_cons_self ..)]), ih fun x hx => h x (List.mem_cons_of_mem _ hx)]

theorem Tbl.le_of_risesFrom {α : Type} {b : Nat} {t : Tbl α} {x : Nat × α} (h : Tbl.risesFrom b t = true) (hx : x ∈ t) : b ≤ x.1 := by
  induction t generalizing b with
  | nil => exact absurd hx List.not_mem_nil
  | cons c t ih =>
    simp only [Tbl.risesFrom, Bool.and_eq_true, decide_eq_true_eq] at h
    rcases List.mem_cons.mp hx with rfl | hx
    · exact h.1
    · have := ih h.2 hx
      omega

theorem forParts_only_of_risesFrom {test : Partition → Bool} {act : Nat → Partition → State → State} {l : Tbl Partition} {b : Nat}
    (hwf : Tbl.risesFrom b l = true) (hp : Tbl.find? f l = some p) (htest : test p = true)
    (hrest : ∀ x ∈ l, x.1 ≠ f → test x.2 = false) : forParts test act l s = act f p s := by
  induction l generalizing b with
  | nil => exact nomatch hp
  | cons c l ih =>
    obtain ⟨j, x⟩ := c
    have hrises := hwf
    simp only [Tbl.risesFrom, Bool.and_eq_true, decide_eq_true_eq] at hrises
    by_cases hj : j = f
    · subst hj
      rw [Tbl.find?, if_pos rfl, Option.some_inj] at hp
      subst hp
      rw [forParts, if_pos htest]
      refine forParts_none fun y hy => hrest y (List.mem_cons_of_mem _ hy) ?_
      have := Tbl.le_of_risesFrom hrises.2 hy
      omega
    · rw [Tbl.find?, if_neg hj] at hp
      rw [forParts, if_neg (by simp [hrest (j, x) (List.mem_cons_self ..) hj])]
      exact ih hrises.2 hp fun y hy => hrest y (List.mem_cons_of_mem _ hy)

/-- Where one partition alone satisfies the test, the walk treats that one. -/
theorem forParts_only {test : Partition → Bool} {act : Nat → Partition → State → State} (hwf : Tbl.wf s.pln.parts = true)
    (hp : s.part? f = some p) (htest : test p = true) (hrest : ∀ x ∈ s.pln.parts, x.1 ≠ f → test x.2 = false) :
    forParts test act s.pln.parts s = act f p s :=
  forParts_only_of_risesFrom hwf hp htest hrest

theorem dueSwitch_iff {now : Nat} : dueSwitch now p = true ↔ p.standby = .armed ∧ p.deferred = false ∧ p.instant ≤ now := by
  simp [dueSwitch, and_assoc]

theorem dueSwitch_false {now : Nat} (h : p.standby = .armed → p.deferred = false → now < p.instant) : dueSwitch now p = false := by
  rw [Bool.eq_false_iff, ne_eq, dueSwitch_iff]
  rintro ⟨ha, hd, hi⟩
  exact absurd (h ha hd) (Nat.not_lt.mpr hi)

/-! ### Old entries retire (R127, R128) -/

variable {new : Tbl Entry} {e : Entry}

theorem retireEntry_fe (f : Nat) (new : Tbl Entry) (n : Nat) (e : Entry) (s : State) :
    (retireEntry f new n e s).fe.frames = s.fe.frames ∧ (retireEntry f new n e s).fe.entries = s.fe.entries := by
  simp only [retireEntry]
  split <;> split <;> exact ⟨rfl, rfl⟩

theorem retireAll_fe (f : Nat) (new l : Tbl Entry) (s : State) :
    (retireAll f new l s).fe.frames = s.fe.frames ∧ (retireAll f new l s).fe.entries = s.fe.entries := by
  induction l generalizing s with
  | nil => exact ⟨rfl, rfl⟩
  | cons c l ih =>
    obtain ⟨hframes, hentries⟩ := ih (retireEntry f new c.1 c.2 s)
    obtain ⟨hf, he⟩ := retireEntry_fe f new c.1 c.2 s
    exact ⟨hframes.trans hf, hentries.trans he⟩

theorem keepsStaged_retireEntry (f : Nat) (new : Tbl Entry) (n : Nat) (e : Entry) (s : State) :
    KeepsStaged s (retireEntry f new n e s) := by
  simp only [retireEntry]
  split <;> split
  · exact .refl s
  · exact List.prefix_append ..
  · exact .of_staging rfl
  · exact List.prefix_append ..

theorem keepsStaged_retireAll (f : Nat) (new l : Tbl Entry) (s : State) : KeepsStaged s (retireAll f new l s) := by
  induction l generalizing s with
  | nil => exact .refl s
  | cons c l ih => exact (keepsStaged_retireEntry ..).trans (ih _)

/-- The record of the final counters of an entry that does not carry over. -/
def finalRecord (f n : Nat) (e : Entry) (s : State) : Staged :=
  { recNow 0x11 f (.counterSnapshot n e.tag (fourteen (s.rt n false).counters)) s with flags := 1 }

theorem mem_retireEntry (h : ((Tbl.find? n new).any fun x => x.tag == e.tag) = false) :
    finalRecord f n e s ∈ (retireEntry f new n e s).arc.staging := by
  simp only [retireEntry, h, Bool.false_eq_true, if_false]
  split <;> exact List.mem_append_right _ (List.mem_singleton_self _)

theorem finalRecord_retireEntry (f : Nat) (new : Tbl Entry) (m : Nat) (d : Entry) (f' n : Nat) (e : Entry) (s : State) :
    finalRecord f' n e (retireEntry f new m d s) = finalRecord f' n e s := by
  have hrt : (retireEntry f new m d s).rt n false = s.rt n false := by
    simp only [State.rt, (retireEntry_fe f new m d s).2, Bool.false_eq_true, if_false]
  have hsck : (retireEntry f new m d s).sck = s.sck := by simp
  simp only [finalRecord, hrt, recNow_of_sck hsck]

/-- Each retired entry that does not carry over has written its final counters. -/
theorem mem_retireAll {l : Tbl Entry} (hn : (n, e) ∈ l) (h : ((Tbl.find? n new).any fun x => x.tag == e.tag) = false) :
    finalRecord f n e s ∈ (retireAll f new l s).arc.staging := by
  induction l generalizing s with
  | nil => exact absurd hn List.not_mem_nil
  | cons c l ih =>
    rcases List.mem_cons.mp hn with rfl | hn
    · exact (keepsStaged_retireAll f new l _).mem (mem_retireEntry h)
    · rw [← finalRecord_retireEntry f new c.1 c.2]
      exact ih hn

/-! ### New entries are installed (R127) -/

theorem find?_installAll_other {old es : Tbl Entry} {rts t : Tbl EntryRt} {b : Nat} (hwf : Tbl.risesFrom b es = true) (hn : n < b) :
    Tbl.find? n (installAll old rts es t) = Tbl.find? n t := by
  induction es generalizing b t with
  | nil => rfl
  | cons c es ih =>
    simp only [Tbl.risesFrom, Bool.and_eq_true, decide_eq_true_eq] at hwf
    rw [installAll, ih hwf.2 (by omega), Tbl.find?_put_other _ _ _ _ (by omega)]

theorem find?_installAll {old es : Tbl Entry} {rts t : Tbl EntryRt} {b : Nat} (hwf : Tbl.risesFrom b es = true)
    (hn : Tbl.find? n es = some e) : Tbl.find? n (installAll old rts es t) = some (freshRt old rts n e) := by
  induction es generalizing b t with
  | nil => exact nomatch hn
  | cons c es ih =>
    obtain ⟨j, d⟩ := c
    simp only [Tbl.risesFrom, Bool.and_eq_true, decide_eq_true_eq] at hwf
    by_cases hj : j = n
    · subst hj
      rw [Tbl.find?, if_pos rfl, Option.some_inj] at hn
      rw [installAll, find?_installAll_other hwf.2 (Nat.lt_succ_self j), Tbl.find?_put_self, hn]
    · rw [Tbl.find?, if_neg hj] at hn
      exact ih hwf.2 hn

/-! ### The swap (R124) -/

theorem swapPart_part (f t : Nat) (p : Partition) (s : State) : (swapPart f t p s).part? f = some (p.swapped t) := by
  simp only [State.part?, swapPart, angleCheck_frame, keyEdges_frame, planEvent_frame, State.setPart, Tbl.find?_put_self]

theorem swapPart_fe (f t : Nat) (p : Partition) (s : State) :
    (swapPart f t p s).fe = (retireAll f (entriesOf p.held) (entriesOf p.active) s).fe.swapped f p s.fe.entries := by
  simp only [swapPart, angleCheck_frame, keyEdges_frame, planEvent_frame, State.setPart_frame]

/-- The swap of a partition's banks is what the switch asks for. -/
theorem swapPart_switched (t : Nat) (hwf : Tbl.wf (entriesOf p.held) = true) : Switched f t p s (swapPart f t p s) := by
  have hstaged : KeepsStaged (retireAll f (entriesOf p.held) (entriesOf p.active) s) (swapPart f t p s) := by
    refine KeepsStaged.trans ?_ (keepsStaged_angleCheck _)
    simp only [KeepsStaged, keyEdges_frame]
    exact List.prefix_append ..
  refine ⟨swapPart_part .., ?frames, ?record, fun n e hn => ?entries, fun n e hn htag => ?counters⟩
  case frames => rw [swapPart_fe, Fe.swapped, (retireAll_fe ..).1]
  case record =>
    refine (keepsStaged_angleCheck _).mem ?_
    simp only [keyEdges_frame]
    refine List.mem_append_right _ (List.mem_singleton.mpr ?_)
    simp [recNow, State.quality, transitionOf, Nat.mul_comm]
  case entries =>
    refine ⟨_, ?_, rfl⟩
    rw [swapPart_fe, Fe.swapped]
    exact find?_installAll hwf hn
  case counters => exact hstaged.mem (mem_retireAll hn htag)

/-! ### Reloads (R132) -/

theorem exec_entryReload_waiting {standby ok : Bool} {since : Nat} (hrun : s.running = true) (hp : s.part? f = some p)
    (hwaits : Tbl.find? n (if standby then p.reloadStandby else p.reload) = some since) :
    exec (.entryReload f n standby ok) s = .next (if ok = true then
      keyEdges s (entryBack n standby since (stageRec 0x10 f
        (.streamEvent { entry := n, tag := ((Tbl.find? n (entriesOf (if standby then p.held else p.active))).getD {}).tag,
                        cause := 0x0C, port := 0, action := 3,
                        budget := ((Tbl.find? n (entriesOf (if standby then p.held else p.active))).getD {}).budget })
        (s.setPart f (p.reloaded n standby))))
      else planEvent f (((if standby then p.held else p.active).map (·.version)).getD 0) planNotReloaded 0 s) := by
  refine (onMain_running hrun _).trans ?_
  simp only [hp, hwaits]
  cases ok <;> simp only [Bool.false_eq_true, Bool.true_eq_false, if_false, if_true]

/-! ### The rebuild of the match store (R110) -/

theorem mem_startRebuild_of_mem {r : Rebuild} (standby : Bool) (h : r ∈ s.pln.rebuilding) :
    r ∈ (startRebuild n standby s).pln.rebuilding := by
  rw [startRebuild]
  split
  · exact h
  · exact List.mem_cons_of_mem _ h

theorem exists_startRebuild (n : Nat) (standby : Bool) (s : State) :
    ∃ r ∈ (startRebuild n standby s).pln.rebuilding, r.entry = n ∧ r.standby = standby := by
  rw [startRebuild]
  split
  · next h =>
    obtain ⟨r, hr, h⟩ := List.any_eq_true.mp h
    simp only [Bool.and_eq_true, beq_iff_eq] at h
    exact ⟨r, hr, h⟩
  · exact ⟨_, List.mem_cons_self .., rfl, rfl⟩

theorem mem_rebuildEach_of_mem {r : Rebuild} (l : List (Nat × Bool)) (h : r ∈ s.pln.rebuilding) :
    r ∈ (rebuildEach false l s).pln.rebuilding := by
  induction l generalizing s with
  | nil => exact h
  | cons c l ih => exact ih (mem_startRebuild_of_mem c.2 h)

theorem exists_rebuildEach {k : Nat × Bool} {l : List (Nat × Bool)} (hk : k ∈ l) :
    ∃ r ∈ (rebuildEach false l s).pln.rebuilding, r.entry = k.1 ∧ r.standby = k.2 := by
  induction l generalizing s with
  | nil => exact absurd hk List.not_mem_nil
  | cons c l ih =>
    rcases List.mem_cons.mp hk with rfl | hk
    · obtain ⟨r, hr, h⟩ := exists_startRebuild k.1 k.2 s
      exact ⟨r, mem_rebuildEach_of_mem l hr, h⟩
    · exact ih hk

theorem startRebuild_leaves (n : Nat) (standby : Bool) (s : State) :
    (startRebuild n standby s).fe = s.fe ∧ (startRebuild n standby s).pln.parts = s.pln.parts := by
  rw [startRebuild]
  split <;> exact ⟨rfl, rfl⟩

theorem rebuildEach_leaves (l : List (Nat × Bool)) (s : State) :
    (rebuildEach false l s).fe = s.fe ∧ (rebuildEach false l s).pln.parts = s.pln.parts := by
  induction l generalizing s with
  | nil => exact ⟨rfl, rfl⟩
  | cons c l ih =>
    obtain ⟨hfe, hparts⟩ := ih (startRebuild c.1 c.2 s)
    obtain ⟨hfe', hparts'⟩ := startRebuild_leaves c.1 c.2 s
    exact ⟨hfe.trans hfe', hparts.trans hparts'⟩

/-- The end of a rebuild takes its marks away, and no other. -/
theorem endRebuild_pln (n : Nat) (standby : Bool) (s : State) : (endRebuild n standby s).pln =
    { s.pln with rebuilding := s.pln.rebuilding.filter fun x => !(x.entry == n && x.standby == standby) } := by
  rw [endRebuild]
  split
  · next h =>
    have hall : s.pln.rebuilding.filter (fun x => !(x.entry == n && x.standby == standby)) = s.pln.rebuilding :=
      List.filter_eq_self.mpr fun x hx => by
        simpa [Decidable.imp_iff_not_or] using List.find?_eq_none.mp h x hx
    rw [hall]
  · rw [(entryBack_frame ..).2.2.2.2.1]

theorem rebuildEach_pln (l : List (Nat × Bool)) (s : State) : (rebuildEach true l s).pln =
    { s.pln with rebuilding := s.pln.rebuilding.filter fun r => !l.contains (r.entry, r.standby) } := by
  induction l generalizing s with
  | nil =>
    have hall : s.pln.rebuilding.filter (fun r => !([] : List (Nat × Bool)).contains (r.entry, r.standby)) = s.pln.rebuilding :=
      List.filter_eq_self.mpr fun _ _ => rfl
    exact (congrArg (fun l => { s.pln with rebuilding := l }) hall).symm
  | cons c l ih =>
    have hboth : ∀ r : Rebuild, (!l.contains (r.entry, r.standby) && !(r.entry == c.1 && r.standby == c.2)) =
        !(c :: l).contains (r.entry, r.standby) := by
      intro r
      have hpair : ((r.entry, r.standby) == c) = (r.entry == c.1 && r.standby == c.2) := rfl
      rw [List.contains_cons, hpair, Bool.not_or, Bool.and_comm]
    rw [rebuildEach, if_pos rfl, ih, endRebuild_pln]
    simp only [List.filter_filter, hboth]

end

/-- Settles O39: the switches by the one partition that is due, the others by their one condition. -/
theorem plansSwitchAndDrain : Obligations.PlansSwitchAndDrain := by
  refine ⟨fun f p s hrun ⟨hheld, hwf⟩ ⟨hp, harmed, hdef, hdue⟩ hrest hentries => ?switch, fun s hrun hnone => ?noSwitch,
    fun f p s hrun ⟨hp, harmed, hdef, hwf⟩ hrest hentries => ⟨fun hsec hvalid hheld => ?deferred, fun hnot => ?noDeferred⟩,
    fun f p s hrun hp => ⟨fun hnot => ?noDrain, fun hdraining hover => ?drain⟩,
    fun f entry standby ok p s hrun hp => ?reload,
    fun entries s hrun => ⟨?begins, ?done, fun n b r hr => ?one⟩⟩
  case switch =>
    have hwalk : exec .planSwitch s = .next (reachInstant f p s) := by
      refine (onMain_running hrun _).trans ((if_neg (by simp [hheld])).trans (congrArg _ ?_))
      exact forParts_only hwf hp (dueSwitch_iff.mpr ⟨harmed, hdef, hdue⟩) fun x hx hne => dueSwitch_false (hrest x hx hne)
    refine ⟨fun hvalid => answers_next hwalk ?_, fun hvalid => hwalk.trans (congrArg _ ?_)⟩
    · rw [reachInstant, if_pos hvalid]
      exact swapPart_switched _ hentries
    · rw [reachInstant, if_neg (by simp [hvalid])]
      rfl
  case noSwitch =>
    refine (onMain_running hrun _).trans ?_
    rcases hnone with h | h
    · exact if_pos h
    · by_cases hheld : plansHeld s = true
      · exact if_pos hheld
      · exact (if_neg hheld).trans (congrArg _ (forParts_none fun x hx => dueSwitch_false (h x hx)))
  case deferred =>
    have hwalk : exec .deferredSwitch s = .next (swapPart f s.sck.now p s) := by
      refine (onMain_running hrun _).trans ((if_pos ?_).trans (congrArg _ ?_))
      · simp [isSecond, nsPerSec, hsec, hvalid, hheld]
      · refine forParts_only hwf hp (by simp [harmed, hdef]) fun x hx hne => ?_
        by_cases ha : x.2.standby = .armed
        · simp [hrest x hx hne ha]
        · simp [ha]
    exact answers_next hwalk (swapPart_switched _ hentries)
  case noDeferred =>
    refine (onMain_running hrun _).trans (if_neg ?_)
    rcases hnot with h | h | h
    · simp [isSecond, nsPerSec, h]
    · simp [h]
    · simp [h]
  case noDrain =>
    refine (onMain_running hrun _).trans ?_
    simp only [hp]
    exact if_pos hnot
  case drain =>
    have hnot : ¬ (p.standby ≠ .draining ∨ s.sck.now < p.instant + 1000000) := by
      rintro (h | h)
      · exact h hdraining
      · omega
    have hdrained : p.drained = if p.rollback = true ∨ p.held = none then
        { p with standby := .empty, held := none, vaultStandby := none, pinned := false, rollback := false, reloadStandby := [] }
        else { p with standby := .previous } := by
      simp only [Partition.drained, Bool.or_eq_true, Option.isNone_iff_eq_none]
    refine ⟨_, (onMain_running hrun _).trans ?_, _, _, p.drained, _, _, rfl, rfl, hdrained, rfl, rfl, rfl⟩
    simp only [hp, if_neg hnot, endDrain, Option.isNone_iff_eq_none]
    rfl
  case reload =>
    cases hwaits : Tbl.find? entry (if standby then p.reloadStandby else p.reload) with
    | none =>
      refine answers_next (t := s) ((onMain_running hrun _).trans ?_) ?_
      · simp only [hp, hwaits]
      · simp only []
    | some since =>
      refine answers_next (exec_entryReload_waiting hrun hp hwaits) ?_
      cases ok <;> simp only [Bool.false_eq_true, if_false, if_true] <;> rfl
  case begins =>
    refine answers_next (onMain_running hrun _) ?_
    simp only [keyEdges_frame]
    exact ⟨fun k hk => exists_rebuildEach hk, fun r hr => mem_rebuildEach_of_mem _ hr, rebuildEach_leaves ..⟩
  case done =>
    refine answers_next (onMain_running hrun _) ?_
    rw [(keyEdges_frame ..).2.2.2.2.1, rebuildEach_pln]
  case one =>
    refine (onMain_running hrun _).trans (congrArg _ ?_)
    simp only [rebuildEach, if_true, endRebuild, hr]
    rfl

end Sys2Proof.Machine

/-! ## Resets and starts

A start is told by a few fields: the life-cycle state and target, and all of the power domain's part but the firmware's. What
runs during a start leaves them alone, whatever alarms it meets (R600, R605, R660). -/

namespace Sys2Proof.Machine

/-- The part of the power state that a start's checks and alarms leave alone: all but the firmware. -/
def Pwr.supply (p : Pwr) : Pwr :=
  { p with slot0 := {}, slot1 := {}, running := none, version := 0, trial := false, trialPending := false, trialFailed := false }

section
variable {s t : State}

/-! ### Alarms leave the life-cycle state alone -/

@[simp] theorem endToken_life (s : State) : (endToken s).lcc.st = s.lcc.st ∧ (endToken s).lcc.target = s.lcc.target := by
  unfold endToken
  split <;> simp

@[simp] theorem quenchStart_life (s : State) : (quenchStart s).lcc.st = s.lcc.st ∧ (quenchStart s).lcc.target = s.lcc.target := by
  simp [quenchStart]

@[simp] theorem fireQuench_life (cause level : Nat) (s : State) :
    (fireQuench cause level s).lcc.st = s.lcc.st ∧ (fireQuench cause level s).lcc.target = s.lcc.target := by
  simp [fireQuench, ite_lcc, apply_ite Lcc.st, apply_ite Lcc.target]

@[simp] theorem raiseAlarm_life (cause source data : Nat) (s : State) :
    (raiseAlarm cause source data s).lcc.st = s.lcc.st ∧ (raiseAlarm cause source data s).lcc.target = s.lcc.target := by
  simp [raiseAlarm, ite_lcc, apply_ite Lcc.st, apply_ite Lcc.target]

@[simp] theorem raiseLogic_life (sub block element addr : Nat) (s : State) :
    (raiseLogic sub block element addr s).lcc.st = s.lcc.st ∧ (raiseLogic sub block element addr s).lcc.target = s.lcc.target := by
  simp [raiseLogic]

@[simp] theorem rnuFail_life (cause source : Nat) (startup : Bool) (l : List (Nat × Nat)) (s : State) :
    (rnuFail cause source startup l s).lcc.st = s.lcc.st ∧ (rnuFail cause source startup l s).lcc.target = s.lcc.target := by
  simp [rnuFail, ite_lcc]

/-! ### Records that are appended leave it alone -/

@[simp] theorem takeReserveZone_life (s : State) :
    (takeReserveZone s).lcc.st = s.lcc.st ∧ (takeReserveZone s).lcc.target = s.lcc.target := by
  simp [takeReserveZone, ite_lcc, apply_ite Lcc.st, apply_ite Lcc.target]

theorem takeEventZone_life {typ : Nat} (h : takeEventZone typ s = some t) : t.lcc.st = s.lcc.st ∧ t.lcc.target = s.lcc.target := by
  unfold takeEventZone at h
  repeat' split at h
  all_goals cases h
  all_goals simp

@[simp] theorem roomToRecycle_life (s : State) :
    (roomToRecycle s).lcc.st = s.lcc.st ∧ (roomToRecycle s).lcc.target = s.lcc.target := by
  unfold roomToRecycle
  split
  · exact ⟨rfl, rfl⟩
  · cases h : takeEventZone 5 s with
    | none => exact ⟨rfl, rfl⟩
    | some t => exact takeEventZone_life h

theorem takeRingZone_life (h : takeRingZone s = some t) : t.lcc.st = s.lcc.st ∧ t.lcc.target = s.lcc.target := by
  simp only [takeRingZone] at h
  split at h
  · cases h
    simp
  · split at h
    · cases h
      simp
    · obtain ⟨_, _, rfl⟩ := Option.map_eq_some_iff.mp h
      simp

theorem takeWindowZone_life (h : takeWindowZone s = some t) : t.lcc.st = s.lcc.st ∧ t.lcc.target = s.lcc.target := by
  simp only [takeWindowZone] at h
  split at h
  · cases h
    simp
  · obtain ⟨_, _, rfl⟩ := Option.map_eq_some_iff.mp h
    simp

theorem roomFor_life {r : Staged} (h : roomFor r s = some t) : t.lcc.st = s.lcc.st ∧ t.lcc.target = s.lcc.target := by
  unfold roomFor at h
  split at h
  · cases h
    exact ⟨rfl, rfl⟩
  · split at h
    · exact takeEventZone_life h
    · split at h
      · exact takeRingZone_life h
      · exact takeWindowZone_life h

@[simp] theorem appendRecord_life (r : Staged) (s : State) :
    (appendRecord r s).lcc.st = s.lcc.st ∧ (appendRecord r s).lcc.target = s.lcc.target := by
  unfold appendRecord
  split
  · simp
  · next h =>
    rw [← (roomFor_life h).1, ← (roomFor_life h).2]
    simp [ite_lcc]

@[simp] theorem appendCheckpoint_life (step final start : Bool) (s : State) :
    (appendCheckpoint step final start s).lcc.st = s.lcc.st ∧ (appendCheckpoint step final start s).lcc.target = s.lcc.target := by
  simp only [appendCheckpoint]
  split
  · simp
  · next h =>
    rw [← (roomFor_life h).1, ← (roomFor_life h).2]
    simp

@[simp] theorem tornRecords_life (before : State) (l : List (Nat × Nat)) (s : State) :
    (tornRecords before l s).lcc.st = s.lcc.st ∧ (tornRecords before l s).lcc.target = s.lcc.target := by
  induction l generalizing s with
  | nil => exact ⟨rfl, rfl⟩
  | cons c l ih =>
    simp only [tornRecords, ih]
    split <;> simp

@[simp] theorem startArchive_life (cause : Nat) (torn : List (Nat × Nat)) (wiped : Option (Nat × Nat)) (s : State) :
    (startArchive cause torn wiped s).lcc.st = s.lcc.st ∧ (startArchive cause torn wiped s).lcc.target = s.lcc.target := by
  cases wiped <;> simp [startArchive]

/-! ### The Quench path's end, and the checks of a start -/

@[simp] theorem leaveTransfer_supply (op f : Nat) (s : State) : (leaveTransfer op f s).pwr.supply = s.pwr.supply := by
  unfold leaveTransfer
  split
  · simp
  · split <;> rfl

@[simp] theorem abortPort_supply (f : Nat) (protocol : Bool) (s : State) : (abortPort f protocol s).pwr.supply = s.pwr.supply := by
  unfold abortPort
  split
  · rfl
  · simp only [raiseEvent_frame]
    split
    · simp
    · split <;> simp

@[simp] theorem abortPorts_supply (n : Nat) (s : State) : (abortPorts n s).pwr.supply = s.pwr.supply := by
  induction n with
  | zero => rfl
  | succ n ih => rw [abortPorts, abortPort_supply, ih]

@[simp] theorem quenchFinish_supply (s : State) : (quenchFinish [] s).pwr.supply = s.pwr.supply ∧
    (quenchFinish [] s).lcc.st = s.lcc.st ∧ (quenchFinish [] s).lcc.target = s.lcc.target := by
  simp [quenchFinish, zeroFailed]

@[simp] theorem startAlarms_supply (l : List (Nat × Nat × Nat)) (s : State) : (startAlarms l s).pwr.supply = s.pwr.supply ∧
    (startAlarms l s).lcc.st = s.lcc.st ∧ (startAlarms l s).lcc.target = s.lcc.target := by
  induction l generalizing s with
  | nil => exact ⟨rfl, rfl, rfl⟩
  | cons c l ih =>
    obtain ⟨cause, source, data⟩ := c
    simp only [startAlarms]
    split
    · simp only [ih]
      simp [ite_pwr, ite_lcc, apply_ite Pwr.supply, apply_ite Lcc.st, apply_ite Lcc.target]
    · exact ih s

@[simp] theorem checkJournal_supply (bad : Option Nat) (s : State) : (checkJournal bad s).pwr.supply = s.pwr.supply ∧
    (checkJournal bad s).lcc.st = s.lcc.st ∧ (checkJournal bad s).lcc.target = s.lcc.target := by
  unfold checkJournal
  split <;> simp

@[simp] theorem checkRoot_supply (s : State) : (checkRoot s).pwr.supply = s.pwr.supply ∧
    (checkRoot s).lcc.st = s.lcc.st ∧ (checkRoot s).lcc.target = s.lcc.target := by
  simp only [checkRoot]
  split <;> split <;> simp

@[simp] theorem startTests_life (fails : List Nat) (s : State) :
    (startTests fails s).lcc.st = s.lcc.st ∧ (startTests fails s).lcc.target = s.lcc.target := by
  simp [startTests, ite_lcc, apply_ite Lcc.st, apply_ite Lcc.target]

@[simp] theorem noteTrialFailed_supply (s : State) : (noteTrialFailed s).pwr.supply = s.pwr.supply := by
  simp [noteTrialFailed, Pwr.supply]

@[simp] theorem Pwr.untried_supply (p : Pwr) : p.untried.supply = p.supply := rfl

@[simp] theorem Pwr.run_supply (p : Pwr) (n : Nat) : (p.run n).supply = p.supply := rfl

@[simp] theorem Pwr.setSlot_supply (p : Pwr) (n : Nat) (v : FwSlot) : (p.setSlot n v).supply = p.supply := by
  unfold Pwr.setSlot
  split <;> rfl

/-- The power state of a start, its slots verified and a failed trial given up. -/
theorem Pwr.started_supply (p : Pwr) (v w : FwSlot) :
    (if p.trialPending then { p with slot0 := v, slot1 := w }.untried else { p with slot0 := v, slot1 := w }).supply = p.supply := by
  split <;> rfl

@[simp] theorem chooseFirmware_supply (ok0 ok1 : Bool) (s : State) : (chooseFirmware ok0 ok1 s).pwr.supply = s.pwr.supply := by
  simp only [chooseFirmware]
  split
  · split
    · exact noteTrialFailed_supply _
    · rfl
  · simp only [apply_ite State.pwr, apply_ite Pwr.supply, noteTrialFailed_supply, ite_self]
    split
    · exact Pwr.started_supply s.pwr _ _
    · split
      · simp only [raiseEvent_frame, securityRec_frame, Pwr.run_supply, Pwr.setSlot_supply]
        exact Pwr.started_supply s.pwr _ _
      · exact Pwr.started_supply s.pwr _ _

/-! ### The start once the life-cycle state is settled (R660 to R665) -/

/-- The state of a start that has identity, alarms and tests behind it. -/
def startTested (i : StartIn) (old : Nat) (s : State) : State :=
  let n := s.lcc.starts + 1
  let bootId := beNat (kdf s.ident.dis "NX-BOOT" (beBytes 8 n) 128)
  let s1 := { s with lcc := { s.lcc with starts := n, bootId }, key := { s.key with identity := some (identityOf s.ident) } }
  let s2 := startAlarms (foundAlarms i s1) (noteLevel old 0 s1)
  startTests i.fails { s2 with tm := { s2.tm with ready := true } }

/-- The state of a start before its plans: firmware chosen, rules loaded, root checked, archive started. -/
def startReady (i : StartIn) (cause : Nat) (wiped : Option (Nat × Nat)) (s : State) : State :=
  let s4 := chooseFirmware i.fwOk0 i.fwOk1 s
  let s5 := checkGroups (checkRoot (checkJournal i.badJournal (loadRules s4)))
  let s6 := holdAll 12 (if 1 ≤ s5.level then addCondAll 2 12 s5 else s5)
  let s6 := if i.rnuPass then rnuReady s6 else s6
  startArchive cause i.torn wiped (pfShare { s6 with hif := { s6.hif with linkUp := !s6.io.perst } })

/-- The phase in which a start ends (R661 to R665). -/
def startPhase (s : State) : Nat := if s.pwr.running = none then 6 else if s.stc.hold then 5 else 3

theorem startTested_life (i : StartIn) (old : Nat) (s : State) : (startTested i old s).pwr.supply = s.pwr.supply ∧
    (startTested i old s).lcc.st = s.lcc.st ∧ (startTested i old s).lcc.target = s.lcc.target := by
  simp [startTested]

theorem startReady_life (i : StartIn) (cause : Nat) (wiped : Option (Nat × Nat)) (s : State) :
    (startReady i cause wiped s).pwr.supply = s.pwr.supply ∧
    (startReady i cause wiped s).lcc.st = s.lcc.st ∧ (startReady i cause wiped s).lcc.target = s.lcc.target := by
  simp [startReady, ite_pwr, ite_lcc]

/-- The module reaches a phase (R664). -/
def reachPhase (phase : Nat) (s : State) : State :=
  { s with pwr := { s.pwr with phase }, io := { s.io with alerts := s.io.alerts ||| (if phase = 3 then 0 else 8) } }

/-- How a start ends: recovery, the hold of a failed test, or the restart of the plans. -/
theorem startRest_eq (i : StartIn) (cause old : Nat) (wiped : Option (Nat × Nat)) (s : State) : startRest i cause old wiped s =
    if (startReady i cause wiped (startTested i old s)).pwr.running = none then
      reachPhase 6 (emptyBanks (startReady i cause wiped (startTested i old s)))
    else if (startReady i cause wiped (startTested i old s)).stc.hold then
      reachPhase 5 (emptyBanks (startReady i cause wiped (startTested i old s)))
    else reachPhase 3 (restartPlans i.badImages (startReady i cause wiped (startTested i old s))) := rfl

/-- A start ends in the phase of its firmware and its tests, and changes nothing else of the supplies and the life cycle. -/
theorem startRest_ends (i : StartIn) (cause old : Nat) (wiped : Option (Nat × Nat)) (s : State) :
    (startRest i cause old wiped s).pwr.supply = { s.pwr.supply with phase := startPhase (startRest i cause old wiped s) } ∧
    (startRest i cause old wiped s).lcc.st = s.lcc.st ∧ (startRest i cause old wiped s).lcc.target = s.lcc.target := by
  obtain ⟨hsupply, hst, htarget⟩ := startReady_life i cause wiped (startTested i old s)
  obtain ⟨hsupply', hst', htarget'⟩ := startTested_life i old s
  rw [← hsupply', ← hsupply, ← hst', ← hst, ← htarget', ← htarget, startRest_eq]
  generalize startReady i cause wiped (startTested i old s) = u
  split
  · next hnone => simp [reachPhase, startPhase, Pwr.supply, hnone]
  · next hsome =>
    split
    · next hhold => simp [reachPhase, startPhase, Pwr.supply, hsome, hhold]
    · next hhold => simp [reachPhase, startPhase, Pwr.supply, hsome, hhold]

/-! ### The transition of a start (R629) -/

@[simp] theorem eraseBelow_lcc (n : Nat) (l : Tbl Zone) (s : State) : (eraseBelow n l s).lcc = s.lcc := by
  induction l generalizing s with
  | nil => rfl
  | cons c l ih =>
    rw [eraseBelow, ih]
    split <;> simp

theorem wipe_whole (s : State) : (wipe none s).1 = true ∧ (wipe none s).2.lcc.scrapFuse = s.lcc.scrapFuse := by
  simp [wipe, wipeConfig, wipeZones, ite_lcc, apply_ite Lcc.scrapFuse]

/-- A transition that no loss of power cuts is committed. -/
theorem applyTransition_commits {cut : Option (Nat × Nat)} (h : cut = none ∨ s.lcc.target = none) :
    ∃ w, (applyTransition cut s).1 = some w ∧ (applyTransition cut s).2.lcc.st = s.lcc.target.getD s.lcc.st ∧
      (applyTransition cut s).2.lcc.target = none ∧
      (applyTransition cut s).2.lcc.scrapFuse = (s.lcc.scrapFuse || s.lcc.target == some .scrapped) := by
  cases htarget : s.lcc.target with
  | none => exact ⟨none, by simp [applyTransition, htarget]⟩
  | some t =>
    have hcut : cut = none := h.resolve_right (by rw [htarget]; nofun)
    subst hcut
    simp only [applyTransition, htarget]
    split
    · rw [if_pos (wipe_whole _).1]
      exact ⟨_, rfl, rfl, rfl, by simp [commitLife, (wipe_whole _).2]⟩
    · refine ⟨_, rfl, rfl, rfl, ?_⟩
      simp [commitLife, ite_lcc]

/-- Power is lost on the way of a transition only where the start says so. -/
theorem applyTransition_cut {cut : Option (Nat × Nat)} (h : (applyTransition cut s).1 = none) : cut.isSome = true := by
  cases cut with
  | none =>
    obtain ⟨w, hw, -⟩ := applyTransition_commits (s := s) (.inl (rfl : none = none))
    exact nomatch h.symm.trans hw
  | some _ => rfl

/-! ### The start as a whole (Table 17-2) -/

/-- The main domain as a start finds it: supplied, and with nothing that is volatile. -/
def startBase (i : StartIn) (cause : Nat) (s : State) : State :=
  let r := s.tm.reprovPending && cause != 0
  let s0 := dropMain (passRtc i.cycles s)
  { s0 with
    pwr := { s0.pwr with good := true, main := true, lupin := s0.pwr.lupinNext, resetCause := cause, startedAt := s0.sck.rtcCount,
                         watchdog := decide (3 ≤ cause) && decide (cause ≤ 5) }
    tm := { s0.tm with quenchW := false, quenchR := s0.tm.quenchR && !r, clearHold := s0.tm.clearHold && !r,
                       reprovPending := s0.tm.reprovPending && !r, present := [] } }

/-- The latched Restrict holds, or does not, from here on. -/
def holdRestrict (s : State) : State := { s with tm := { s.tm with restrictOn := s.tm.clearHold || s.tm.releaseHold } }

/-- The state in which a start applies the pending transition of the record that its copies decide. -/
def startDecided (i : StartIn) (cause : Nat) (c : LifeCopy) (s : State) : State :=
  let s1 := startBase i cause s
  holdRestrict (moveBuffer (startClock { s1 with lcc := { s1.lcc with st := c.st, target := c.target, copies := List.replicate 3 c } }))

/-- The state after that transition. -/
def startMoved (i : StartIn) (cause : Nat) (c : LifeCopy) (s : State) : State :=
  holdRestrict (applyTransition i.wipeCut (startDecided i cause c s)).2

variable {i : StartIn} {cause : Nat} {c : LifeCopy}

theorem startBase_lcc (i : StartIn) (cause : Nat) (s : State) :
    (startBase i cause s).lcc.scrapFuse = s.lcc.scrapFuse ∧ (startBase i cause s).lcc.copies = s.lcc.copies := by
  simp [startBase, dropMain]

theorem startBase_pwr (i : StartIn) (cause : Nat) (s : State) :
    (startBase i cause s).pwr.lupin = s.pwr.lupinNext ∧ (startBase i cause s).pwr.good = true ∧ (startBase i cause s).pwr.main = true ∧
    (startBase i cause s).pwr.stopped = false ∧ (startBase i cause s).pwr.resetHeld = false ∧ (startBase i cause s).pwr.forwardAt = 0 ∧
    (startBase i cause s).pwr.phase = 0 ∧ (startBase i cause s).pwr.resetCause = cause ∧ (startBase i cause s).writes = [] := by
  simp [startBase, dropMain]

/-- A start, by the life-cycle record that decides it and the transition on its way. -/
theorem startMain_eq (i : StartIn) (cause : Nat) (s : State) : startMain i cause s =
    if s.lcc.scrapFuse then stopModule (startBase i cause s) else
      (decideLife (validCopies s.lcc.copies i.copyOk)).elim (stopModule (startBase i cause s)) fun c =>
        (applyTransition i.wipeCut (startDecided i cause c s)).1.elim
          (losePower (dropMain (applyTransition i.wipeCut (startDecided i cause c s)).2)) fun w =>
          if (startMoved i cause c s).lcc.scrapFuse then stopModule (startMoved i cause c s)
          else startRest i cause s.level w (startMoved i cause c s) := by
  obtain ⟨hfuse, hcopies⟩ := startBase_lcc i cause s
  rw [← hfuse, ← hcopies]
  by_cases h : (startBase i cause s).lcc.scrapFuse = true
  · rw [if_pos h]
    exact if_pos h
  · rw [if_neg h]
    refine (if_neg h).trans ?_
    cases hc : decideLife (validCopies (startBase i cause s).lcc.copies i.copyOk) with
    | none =>
      simp only [startBase] at hc
      simp only [hc]
      rfl
    | some c =>
      simp only [startBase] at hc
      simp only [hc, Option.elim_some]
      cases ha : (applyTransition i.wipeCut (startDecided i cause c s)) with
      | mk o u =>
        simp only [startDecided, startBase, holdRestrict] at ha
        simp only [startMoved, startDecided, startBase, holdRestrict, ha]
        cases o <;> rfl

theorem startMain_stops (h : s.lcc.scrapFuse = true ∨ decideLife (validCopies s.lcc.copies i.copyOk) = none) :
    startMain i cause s = stopModule (startBase i cause s) := by
  rw [startMain_eq]
  split
  · rfl
  · next hfuse => rw [h.resolve_left hfuse, Option.elim_none]

theorem startMain_decided (hfuse : s.lcc.scrapFuse = false) (hc : decideLife (validCopies s.lcc.copies i.copyOk) = some c) :
    startMain i cause s = (applyTransition i.wipeCut (startDecided i cause c s)).1.elim
      (losePower (dropMain (applyTransition i.wipeCut (startDecided i cause c s)).2)) fun w =>
      if (startMoved i cause c s).lcc.scrapFuse then stopModule (startMoved i cause c s)
      else startRest i cause s.level w (startMoved i cause c s) := by
  rw [startMain_eq, if_neg (by simp [hfuse]), hc, Option.elim_some]

theorem startDecided_parts (i : StartIn) (cause : Nat) (c : LifeCopy) (s : State) :
    (startDecided i cause c s).pwr = (startBase i cause s).pwr ∧ (startDecided i cause c s).writes = [] ∧
    (startDecided i cause c s).lcc.st = c.st ∧ (startDecided i cause c s).lcc.target = c.target ∧
    (startDecided i cause c s).lcc.scrapFuse = s.lcc.scrapFuse := by
  obtain ⟨hfuse, -⟩ := startBase_lcc i cause s
  simp [startDecided, holdRestrict, startBase_pwr, hfuse]

theorem startMoved_parts (i : StartIn) (cause : Nat) (c : LifeCopy) (s : State) :
    (startMoved i cause c s).pwr = (startBase i cause s).pwr ∧ (startMoved i cause c s).writes = [] := by
  obtain ⟨hpwr, hwrites, -⟩ := startDecided_parts i cause c s
  simp [startMoved, holdRestrict, hpwr, hwrites]

/-- What a start that reaches its checks leaves of the supplies. -/
theorem startRest_pwr (old : Nat) (w : Option (Nat × Nat)) {t : State}
    (ht : t = startRest i cause old w (startMoved i cause c s)) :
    t.writes = [] ∧ t.pwr.resetHeld = false ∧ t.pwr.forwardAt = 0 ∧ t.pwr.good = true ∧ t.pwr.main = true ∧ t.pwr.stopped = false ∧
    t.pwr.phase = startPhase t ∧ t.pwr.resetCause = cause ∧ t.pwr.lupin = s.pwr.lupinNext := by
  obtain ⟨hmoved, hwrites⟩ := startMoved_parts i cause c s
  obtain ⟨hlupin, hgood, hmain, hstopped, hheld, hforward, -, hcause, -⟩ := startBase_pwr i cause s
  obtain ⟨hsupply, -⟩ := startRest_ends i cause old w (startMoved i cause c s)
  rw [← ht, hmoved] at hsupply
  refine ⟨?_, (congrArg Pwr.resetHeld hsupply).trans hheld, (congrArg Pwr.forwardAt hsupply).trans hforward,
    (congrArg Pwr.good hsupply).trans hgood, (congrArg Pwr.main hsupply).trans hmain, (congrArg Pwr.stopped hsupply).trans hstopped,
    congrArg Pwr.phase hsupply, (congrArg Pwr.resetCause hsupply).trans hcause, (congrArg Pwr.lupin hsupply).trans hlupin⟩
  rw [ht, (startRest_frame ..).2.2.2, hwrites]

theorem startPhase_ne_forwarding (s : State) : startPhase s ≠ 4 := by
  unfold startPhase
  split
  · decide
  · split <;> decide

/-- A start is as R660 says. -/
theorem startMain_started (i : StartIn) (cause : Nat) (s : State) : Started i cause s (startMain i cause s) := by
  obtain ⟨hlupin, hgood, hmain, hstopped, hheld, hforward, hphase, hcause, hwrites⟩ := startBase_pwr i cause s
  by_cases hstop : s.lcc.scrapFuse = true ∨ decideLife (validCopies s.lcc.copies i.copyOk) = none
  · rw [startMain_stops hstop]
    refine ⟨hwrites, hheld, hforward, nofun, .inl ⟨hgood, hmain⟩, fun _ => ⟨hmain, rfl, rfl⟩, fun c hfuse hc _ => ?_⟩
    rcases hstop with h | h
    · exact nomatch h.symm.trans hfuse
    · exact nomatch h.symm.trans hc
  · rw [not_or, Bool.not_eq_true] at hstop
    obtain ⟨hfuse, hsome⟩ := hstop
    obtain ⟨c, hc⟩ := Option.ne_none_iff_exists'.mp hsome
    obtain ⟨-, -, hst, htarget, hfuse'⟩ := startDecided_parts i cause c s
    obtain ⟨hmoved, hmwrites⟩ := startMoved_parts i cause c s
    have hcommits (h : i.wipeCut = none ∨ c.target = none) := applyTransition_commits (s := startDecided i cause c s) (by rwa [htarget])
    have hstays (h : s.lcc.scrapFuse = true ∨ decideLife (validCopies s.lcc.copies i.copyOk) = none) : False :=
      h.elim (fun h => nomatch h.symm.trans hfuse) hsome
    rw [startMain_decided hfuse hc]
    cases hw : (applyTransition i.wipeCut (startDecided i cause c s)).1 with
    | none =>
      refine ⟨rfl, rfl, rfl, nofun, .inr ⟨rfl, rfl, applyTransition_cut hw⟩, fun h => (hstays h).elim, fun c' _ hc' hnone => ?_⟩
      obtain rfl : c = c' := Option.some.inj (hc.symm.trans hc')
      obtain ⟨w, hsome, -⟩ := hcommits hnone
      exact nomatch hw.symm.trans hsome
    | some w =>
      rw [Option.elim_some]
      by_cases hscrap : (startMoved i cause c s).lcc.scrapFuse = true
      · rw [if_pos hscrap]
        refine ⟨hmwrites, ?_, ?_, nofun, .inl ⟨?_, ?_⟩, fun h => (hstays h).elim, fun c' _ hc' hnone => ?_⟩
        · exact (congrArg Pwr.resetHeld hmoved).trans hheld
        · exact (congrArg Pwr.forwardAt hmoved).trans hforward
        · exact (congrArg Pwr.good hmoved).trans hgood
        · exact (congrArg Pwr.main hmoved).trans hmain
        · obtain rfl : c = c' := Option.some.inj (hc.symm.trans hc')
          obtain ⟨-, -, hst', htarget', hfuse''⟩ := hcommits hnone
          have hscrapped : c.target = some .scrapped := by
            have h := hfuse''.symm.trans hscrap
            simpa [hfuse', hfuse, htarget] using h
          refine ⟨(congrArg Pwr.main hmoved).trans hmain, (congrArg Pwr.resetCause hmoved).trans hcause,
            (congrArg Pwr.lupin hmoved).trans hlupin, ?_, htarget', ?_⟩
          · rw [← hst, ← htarget]
            exact hst'
          · rw [if_pos hscrapped]
            exact ⟨rfl, rfl⟩
      · rw [if_neg hscrap]
        generalize ht : startRest i cause s.level w (startMoved i cause c s) = t
        obtain ⟨hwrites', hheld', hforward', hgood', hmain', hstopped', hphase', hcause', hlupin'⟩ := startRest_pwr s.level w ht.symm
        refine ⟨hwrites', hheld', hforward', ?_, .inl ⟨hgood', hmain'⟩, fun h => (hstays h).elim, fun c' _ hc' hnone => ?_⟩
        · rw [hphase']
          exact startPhase_ne_forwarding t
        · obtain rfl : c = c' := Option.some.inj (hc.symm.trans hc')
          obtain ⟨-, -, hst', htarget', hfuse''⟩ := hcommits hnone
          obtain ⟨-, hst'', htarget''⟩ := startRest_ends i cause s.level w (startMoved i cause c s)
          rw [ht] at hst'' htarget''
          have hunscrapped : c.target ≠ some .scrapped := by
            rintro h
            refine hscrap (hfuse''.trans ?_)
            rw [htarget, h]
            simp
          refine ⟨hmain', hcause', hlupin', ?_, htarget''.trans htarget', ?_⟩
          · rw [hst'', ← hst, ← htarget]
            exact hst'
          · rw [if_neg hunscrapped]
            exact ⟨hstopped', hphase'⟩

/-! ### Forwarding begins (R660, R664) -/

/-- The pads of an entry are filled in a table of what the frame engine keeps. -/
def fillRow (s : State) (n : Nat) (t : Tbl EntryRt) : Tbl EntryRt :=
  (padEntry s n).elim t fun e => Tbl.put n (fillPads s e (Tbl.get {} t n)) t

/-- The table with the pads of every entry filled. -/
def fillRows (s : State) (l : List Nat) (t : Tbl EntryRt) : Tbl EntryRt := l.foldl (fun t n => fillRow s n t) t

theorem find?_fillRow_other {n m : Nat} (t : Tbl EntryRt) (h : n ≠ m) : Tbl.find? n (fillRow s m t) = Tbl.find? n t := by
  unfold fillRow
  cases padEntry s m with
  | none => rfl
  | some e => exact Tbl.find?_put_other _ _ _ _ h

theorem fillRow_unused {n : Nat} (t : Tbl EntryRt) (h : padEntry s n = none) : fillRow s n t = t := by
  rw [fillRow, h, Option.elim_none]

theorem find?_fillRow_self {n : Nat} {t : Tbl EntryRt} {r : EntryRt} {e : Entry} (hr : Tbl.find? n t = some r)
    (he : padEntry s n = some e) : Tbl.find? n (fillRow s n t) = some (fillPads s e r) := by
  rw [fillRow, he, Option.elim_some, Tbl.find?_put_self, Tbl.get, hr, Option.getD_some]

theorem find?_fillRows_other {n : Nat} {l : List Nat} (t : Tbl EntryRt) (h : n ∉ l) :
    Tbl.find? n (fillRows s l t) = Tbl.find? n t := by
  induction l generalizing t with
  | nil => rfl
  | cons m l ih =>
    rw [List.mem_cons, not_or] at h
    exact (ih _ h.2).trans (find?_fillRow_other t h.1)

theorem find?_fillRows_none {n : Nat} (l : List Nat) (t : Tbl EntryRt) (h : padEntry s n = none) :
    Tbl.find? n (fillRows s l t) = Tbl.find? n t := by
  induction l generalizing t with
  | nil => rfl
  | cons m l ih =>
    refine (ih _).trans ?_
    by_cases hm : n = m
    · subst hm
      exact congrArg (Tbl.find? n) (fillRow_unused t h)
    · exact find?_fillRow_other t hm

theorem find?_fillRows {n : Nat} {r : EntryRt} {e : Entry} {l : List Nat} {t : Tbl EntryRt} (hl : l.Nodup) (hn : n ∈ l)
    (hr : Tbl.find? n t = some r) (he : padEntry s n = some e) : Tbl.find? n (fillRows s l t) = some (fillPads s e r) := by
  induction l generalizing t with
  | nil => exact absurd hn List.not_mem_nil
  | cons m l ih =>
    rw [List.nodup_cons] at hl
    by_cases hm : n = m
    · subst hm
      exact (find?_fillRows_other _ hl.1).trans (find?_fillRow_self hr he)
    · refine ih hl.2 ((List.mem_cons.mp hn).resolve_left hm) ?_
      rw [find?_fillRow_other t hm, hr]

theorem Tbl.mem_keys_of_find? {α : Type} {n : Nat} {v : α} {t : Tbl α} (h : Tbl.find? n t = some v) :
    n ∈ Tbl.keys (fun _ _ => true) t := by
  induction t with
  | nil => exact nomatch h
  | cons c t ih =>
    obtain ⟨j, w⟩ := c
    rw [Tbl.keys, if_pos rfl]
    by_cases hj : j = n
    · exact hj ▸ List.mem_cons_self ..
    · rw [Tbl.find?, if_neg hj] at h
      exact List.mem_cons_of_mem _ (ih h)

theorem Tbl.le_keys_of_risesFrom {α : Type} {b n : Nat} {t : Tbl α} (h : Tbl.risesFrom b t = true)
    (hn : n ∈ Tbl.keys (fun _ _ => true) t) : b ≤ n := by
  induction t generalizing b with
  | nil => exact absurd hn List.not_mem_nil
  | cons c t ih =>
    simp only [Tbl.risesFrom, Bool.and_eq_true, decide_eq_true_eq] at h
    rw [Tbl.keys, if_pos rfl] at hn
    rcases List.mem_cons.mp hn with rfl | hn
    · exact h.1
    · have := ih h.2 hn
      omega

theorem Tbl.keys_nodup {α : Type} {b : Nat} {t : Tbl α} (h : Tbl.risesFrom b t = true) : (Tbl.keys (fun _ _ => true) t).Nodup := by
  induction t generalizing b with
  | nil => exact List.nodup_nil
  | cons c t ih =>
    simp only [Tbl.risesFrom, Bool.and_eq_true, decide_eq_true_eq] at h
    rw [Tbl.keys, if_pos rfl, List.nodup_cons]
    refine ⟨fun hmem => ?_, ih h.2⟩
    have := Tbl.le_keys_of_risesFrom h.2 hmem
    omega

/-! ### Watchdogs (R677) -/

theorem groupStalled_iff (s : State) (g : Nat) : groupStalled s g = true ↔ g < 14 ∧ groupServed s g 48 = true ∧
    ∃ id, id ∈ Tbl.get [] s.ts.ready g ∧ ∃ w, s.item? id = some w ∧ w.readyAt + 65536 ≤ s.sck.rtcCount := by
  simp only [groupStalled, Bool.and_eq_true, decide_eq_true_eq, List.any_eq_true, Option.any_eq_true, and_assoc]

/-- A watchdog has expired. -/
theorem watchdogExpired_iff (cause : Nat) (s : State) : watchdogExpired cause s = true ↔
    (cause = 3 ∧ s.arc.ready = true ∧ s.arc.stopped = false ∧ s.arc.cpAt + 163840 ≤ s.sck.rtcCount) ∨
    (cause = 4 ∧ s.ts.dispatchAt + 65536 ≤ s.sck.rtcCount ∧ ∃ g, g < 14 ∧ groupServed s g 48 = true ∧
      ∃ id, id ∈ Tbl.get [] s.ts.ready g ∧ ∃ w, s.item? id = some w ∧ w.readyAt + 65536 ≤ s.sck.rtcCount) ∨
    (cause = 5 ∧ s.pwr.phase < 4 ∧ s.pwr.startedAt + 327680 ≤ s.sck.rtcCount) := by
  have hstalled : (List.range 14).any (groupStalled s) = true ↔ ∃ g, g < 14 ∧ groupServed s g 48 = true ∧
      ∃ id, id ∈ Tbl.get [] s.ts.ready g ∧ ∃ w, s.item? id = some w ∧ w.readyAt + 65536 ≤ s.sck.rtcCount := by
    simp only [List.any_eq_true, groupStalled_iff]
    exact ⟨fun ⟨g, _, h⟩ => ⟨g, h⟩, fun ⟨g, h⟩ => ⟨g, List.mem_range.mpr h.1, h⟩⟩
  unfold watchdogExpired
  simp only []
  split
  · simp [and_assoc]
  · simp [hstalled]
  · simp
  · next h3 h4 h5 =>
    refine iff_of_false nofun ?_
    rintro (⟨h, -⟩ | ⟨h, -⟩ | ⟨h, -⟩)
    · exact h3 h
    · exact h4 h
    · exact h5 h

/-- Forwarding begins with every pad filled; the windows open whose start has passed (R664, R744). -/
theorem exec_forwardingBegin (ms : Nat) (hmain : s.pwr.main = true) (hphase : s.pwr.phase = 3) :
    exec (.forwardingBegin ms) s = .next
      ((s.arc.windows.filter fun w => !w.opened && decide (w.start ≤ s.sck.now) && decide (s.sck.now < w.finish)).foldl
        (fun (x : State) (w : CapWindow) => windowRec { w with opened := true } 0
          { x with arc := { x.arc with windows := setWindow { w with opened := true } x.arc.windows } })
        { s with fe := { s.fe with entries := fillRows s (Tbl.keys (fun _ _ => true) s.fe.entries) s.fe.entries, forwarding := true }
                 pwr := { s.pwr with phase := 4, startTime := satTo 0xFFFF ms, forwardAt := s.sck.now }
                 io := { s.io with alerts := s.io.alerts ||| 8 } }) := by
  have hrow : (fun (t : Tbl EntryRt) (n : Nat) => fillRow s n t) = fun t n => match padEntry s n with
      | some e => Tbl.put n (fillPads s e (Tbl.get {} t n)) t
      | none => t := by
    funext t n
    rw [fillRow]
    cases padEntry s n <;> rfl
  rw [fillRows, hrow]
  exact if_pos (by simp [hmain, hphase])

end

/-- Settles O48: each reset and start through what a start leaves, the rest by their one condition. -/
theorem resetsAndStarts : Obligations.ResetsAndStarts := by
  refine ⟨fun i s x hx => ⟨fun hgood => ?powerUp, fun hgood => if_pos hgood⟩, fun s => ⟨fun hgood => ?powerFall, fun hgood => ?noFall⟩,
    fun held i s x hx => ⟨fun hnot => if_pos hnot, fun hgood hheld hquench => ⟨?hold, ?pulse⟩, fun hgood hheld hquench => ?waits⟩,
    fun i s => ⟨fun hgood hheld => ?release, fun hnot => ?noRelease⟩,
    fun value i s x hr hx => ⟨fun hne => ?ignored, fun hquench => ?ordered, fun hquench => ?orderWaits⟩,
    fun cause final i s x hrun hx => ⟨fun hexpired => ?watchdog, fun h3 h4 h5 => ?noWatchdog⟩,
    fun ms s hwf => ⟨fun hmain hphase => ?forwarding, fun hnot => ?noForwarding⟩⟩
  case powerUp =>
    refine answers_next (t := startMain i 0 x) ((if_neg (by simp [hgood])).trans ?_) ⟨rfl, startMain_started i 0 x⟩
    rw [hx]
    by_cases hfed : s.pwr.standbyFed = true
    · simp only [hfed, if_true]
    · simp only [if_neg hfed]
  case powerFall =>
    refine answers_next (if_pos hgood) ⟨rfl, rfl, rfl, ?_, rfl, rfl, rfl, rfl, rfl, rfl, rfl, rfl, ?_, rfl, rfl, rfl, rfl, fun _ => rfl⟩
    · simp [losePower, dropMain]
    · simp [losePower, dropMain]
  case noFall => exact if_neg (by simp [hgood])
  case hold =>
    refine answers_next (t := holdReset s) ((if_neg (by simp [hgood, hheld])).trans (if_pos (by simp [hquench])))
      ⟨rfl, ?_, rfl, rfl, rfl, rfl, rfl, rfl, rfl, by rw [hx]; rfl⟩
    simp [holdReset, dropMain, hgood]
  case pulse =>
    refine answers_next (t := startMain i 1 x) ((if_neg (by simp [hgood, hheld])).trans ((if_neg (by simp)).trans ?_))
      ⟨rfl, startMain_started i 1 x⟩
    simp only [hx, orderReset, hquench, Bool.false_eq_true, if_false]
    rfl
  case waits =>
    refine (if_neg (by simp [hgood, hheld])).trans ((if_neg (by simp [hquench])).trans ?_)
    simp only [orderReset, if_pos hquench, ite_self]
    cases held <;> simp
  case release => exact answers_next (if_pos (by simp [hgood, hheld])) ⟨rfl, startMain_started i 1 s⟩
  case noRelease =>
    refine if_neg ?_
    rcases hnot with h | h <;> simp [h]
  case ignored => exact (viaBar_reaches hr _).trans (if_neg hne)
  case ordered =>
    refine answers_next (t := startMain i 2 x) ((viaBar_reaches hr _).trans ((if_pos rfl).trans ?_)) ⟨rfl, startMain_started i 2 x⟩
    rw [hx, orderReset, if_neg (by simp [hquench])]
    rfl
  case orderWaits => exact (viaBar_reaches hr _).trans ((if_pos rfl).trans (congrArg _ (if_pos hquench)))
  case watchdog =>
    refine answers_next (t := startMain i cause x) ((if_pos ?_).trans ?_) ⟨rfl, startMain_started i cause x⟩
    · rw [hrun, (watchdogExpired_iff cause s).mpr hexpired]
      rfl
    · rw [hx, resetModule, failTrial]
      simp only [Bool.and_eq_true]
  case noWatchdog =>
    refine if_neg ?_
    rw [hrun, Bool.true_and, watchdogExpired_iff]
    rintro (⟨h, hready, hstopped, hcp⟩ | ⟨h, hdispatch, g, hg, hserved, id, hid, w, hw, hage⟩ | ⟨h, hphase, hstarted⟩)
    · rcases h3 h with h | h | h
      · exact nomatch h.symm.trans hready
      · exact nomatch h.symm.trans hstopped
      · omega
    · rcases h4 h with h | h
      · omega
      · exact absurd (h g hg hserved id hid w hw) (Nat.not_lt.mpr hage)
    · rcases h5 h with h | h <;> omega
  case forwarding =>
    refine ⟨fillRows s (Tbl.keys (fun _ _ => true) s.fe.entries) s.fe.entries, fun n r e hr he => ?_, fun n hn => ?_, ?_⟩
    · exact find?_fillRows (Tbl.keys_nodup hwf) (Tbl.mem_keys_of_find? hr) hr he
    · exact find?_fillRows_none _ _ hn
    · rw [exec_forwardingBegin ms hmain hphase, satTo_eq_min]
      rfl
  case noForwarding =>
    refine if_neg ?_
    rcases hnot with h | h <;> simp [h]

end Sys2Proof.Machine

/-! ## Virtual functions: set-up, freezing, saving, restoring and thawing

A freeze goes through its four steps, a restore through what it applies of the image (R495, R496, R508 to R517). -/

namespace Sys2Proof.Machine

section
variable {s : State} {q : Call} {fn : Nat} {c : Ctx}

/-! ### Freezing (R508) -/

/-- The functions from which VF_FREEZE may freeze. -/
structure Freezable (s : State) (fn : Nat) : Prop where
  virtual : fn ≠ 0
  listed : fn ≤ 63
  normal : (s.func fn).migration = .normal
  setUp : (s.func fn).setUp = true
  runs : (s.func fn).halted = false
  idle : (s.func fn).dpState = 0
  unfrozen : (s.func fn).freezing = false

/-- The function as its freeze begins. -/
def freezeMarked (fn : Nat) (s : State) : State := s.updFunc fn fun v => { v with freezing := true }

theorem freezeMarked_func (fn : Nat) (s : State) : (freezeMarked fn s).func fn = { s.func fn with freezing := true } :=
  func_setFunc_self ..

theorem exec_vfFreeze (hr : ready 0x0C02 q 0 s = true) (h : Freezable s fn) : exec (.vfFreeze q fn) s = .next
    (if underWay fn (beginFreeze fn s) then beginFreeze fn s
     else complete q (okDetail (liftedOf fn (beginFreeze fn s)).length)
       ((beginFreeze fn s).updFunc fn fun v => { v with freezing := false, migration := .frozen })) := by
  have hfit : ¬ (fn = 0 ∨ 63 < fn ∨ (s.func fn).migration ≠ .normal ∨ (s.func fn).setUp = false ∨
      ((s.func fn).halted = true ∧ (s.func fn).freezing = false)) := by
    rintro (h' | h' | h' | h' | h')
    · exact h.virtual h'
    · exact absurd h.listed (Nat.not_le.mpr h')
    · exact h' h.normal
    · exact nomatch h.setUp.symm.trans h'
    · exact nomatch h.runs.symm.trans h'.1
  have hbegin : (if (s.func fn).freezing then s else beginFreeze fn s) = beginFreeze fn s := if_neg (by simp [h.unfrozen])
  by_cases hway : underWay fn (beginFreeze fn s) = true
  · rw [if_pos hway]
    refine exec_running hr rfl ((if_neg hfit).trans ?_)
    simp only [hbegin, if_pos hway]
  · rw [if_neg hway]
    refine exec_done hr rfl ((if_neg hfit).trans ?_)
    simp only [hbegin, if_neg hway]

theorem squashWaiting_none {l : List Ctx} (h : ∀ x ∈ l, undispatched fn x = false) : squashWaiting fn l s = s := by
  induction l with
  | nil => rfl
  | cons c l ih =>
    rw [squashWaiting, if_neg (by simp [h c (List.mem_cons_self ..)]), ih fun x hx => h x (List.mem_cons_of_mem _ hx)]

theorem liftAll_none {l : List Ctx} (h : ∀ x ∈ l, ¬ (x.f = fn ∧ x.orphan = 0 ∧ x.phase = .delayed)) : liftAll fn l s = s := by
  induction l with
  | nil => rfl
  | cons c l ih =>
    rw [liftAll, if_neg (h c (List.mem_cons_self ..)), ih fun x hx => h x (List.mem_cons_of_mem _ hx)]

/-- With nothing to squash and the data port idle, a freeze lifts what is delayed. -/
theorem beginFreeze_unsquashed (hidle : (s.func fn).dpState = 0) (h : ∀ x ∈ s.hif.ctxs, undispatched fn x = false) :
    beginFreeze fn s = liftAll fn s.hif.ctxs (freezeMarked fn s) := by
  have hmarked : squashWaiting fn s.hif.ctxs (freezeMarked fn s) = freezeMarked fn s := squashWaiting_none h
  have hport : abortPort fn false (freezeMarked fn s) = freezeMarked fn s := if_pos (by rw [freezeMarked_func]; exact hidle)
  have hbegin : beginFreeze fn s = liftAll fn (abortPort fn false (squashWaiting fn s.hif.ctxs (freezeMarked fn s))).hif.ctxs
      (abortPort fn false (squashWaiting fn s.hif.ctxs (freezeMarked fn s))) := rfl
  rw [hbegin, hmarked, hport]
  rfl

/-- An entry that has not been dispatched is squashed. -/
theorem beginFreeze_squashed (hidle : (s.func fn).dpState = 0) (hctxs : s.hif.ctxs = [c]) (hc : undispatched fn c = true) :
    beginFreeze fn s = finishCtx c (bare stSquashed) (leaveCore c.id (freezeMarked fn s)) := by
  have hempty : (finishCtx c (bare stSquashed) (leaveCore c.id (freezeMarked fn s))).hif.ctxs = [] := by
    rw [(delivered_finishCtx ..).1, (leaveCore_frame ..).2.2.2.2.2.2.1]
    simp [freezeMarked, State.updFunc, State.setFunc, hctxs]
  have hsquashed : squashWaiting fn s.hif.ctxs (freezeMarked fn s) = finishCtx c (bare stSquashed) (leaveCore c.id (freezeMarked fn s)) := by
    rw [hctxs, squashWaiting, if_pos hc]
    rfl
  have hport : abortPort fn false (finishCtx c (bare stSquashed) (leaveCore c.id (freezeMarked fn s))) =
      finishCtx c (bare stSquashed) (leaveCore c.id (freezeMarked fn s)) := by
    refine if_pos ?_
    have h := congrArg Func.dpState (finishCtx_settled c (bare stSquashed) (leaveCore c.id (freezeMarked fn s)) fn)
    refine h.trans ?_
    have hfunc : (leaveCore c.id (freezeMarked fn s)).func fn = (freezeMarked fn s).func fn := by
      simp only [State.func, leaveCore_frame]
    rw [hfunc, freezeMarked_func]
    exact hidle
  have hbegin : beginFreeze fn s = liftAll fn (abortPort fn false (squashWaiting fn s.hif.ctxs (freezeMarked fn s))).hif.ctxs
      (abortPort fn false (squashWaiting fn s.hif.ctxs (freezeMarked fn s))) := rfl
  rw [hbegin, hsquashed, hport, hempty]
  rfl

theorem underWay_of_none (h : ∀ x ∈ s.hif.ctxs, ¬ (x.f = fn ∧ (x.phase = .dispatched ∨ x.phase = .staged))) : underWay fn s = false := by
  rw [underWay, List.any_eq_false]
  intro x hx
  have := h x hx
  simp only [Bool.and_eq_true, Bool.or_eq_true, beq_iff_eq]
  grind

theorem mem_dropDelay {e : DelayEntry} {id : Nat} {l : List DelayEntry} (h : e ∈ dropDelay id l) : e.ctx ≠ id := by
  simpa using (List.mem_filter.mp h).2

theorem thawAll_none {l : List Ctx} (h : ∀ x ∈ l, x.f = fn → x.lifted = false) : thawAll fn l s = s := by
  induction l with
  | nil => rfl
  | cons c l ih =>
    rw [thawAll, if_neg fun hc => Bool.false_ne_true ((h c (List.mem_cons_self ..) hc.1).symm.trans hc.2),
      ih fun x hx => h x (List.mem_cons_of_mem _ hx)]

/-! ### Saving and restoring (R510, R515) -/

theorem exec_vfSave {tenant mkId : Nat} {mk : Bytes} (hr : ready 0x0C03 q 0 s = true) (hlevel : s.level < 2)
    (hroot : s.key.rootPresent = true) (hrnu : s.rnu.st = .ready) (hfn : fn ≠ 0) (hfn' : fn ≤ 63)
    (hfrozen : (s.func fn).migration = .frozen) (htenant : (s.dom fn).tenant = some tenant) (hmk : (s.dom fn).migKey = some (mkId, mk)) :
    exec (.vfSave q fn) s = .next (complete q (okDetail ((domainKeys fn s).filter fun k => !k.blob.attr.migratable).length)
      (offerBytes q ((saveImage fn tenant mkId mk s).1.header ++ (saveImage fn tenant mkId mk s).1.cipher mk ++
        (saveImage fn tenant mkId mk s).1.tag) (saveImage fn tenant mkId mk s).2)) := by
  refine exec_done hr rfl ((if_neg (by omega)).trans ((if_neg (by simp [hfn, hfn', hfrozen])).trans ((if_neg (by simp [hroot])).trans ?_)))
  simp only [htenant, hmk]
  exact withDraw_of_ready (k := fun s => .done (okDetail ((domainKeys fn s).filter fun k => !k.blob.attr.migratable).length)
    (offerBytes q ((saveImage fn tenant mkId mk s).1.header ++ (saveImage fn tenant mkId mk s).1.cipher mk ++
      (saveImage fn tenant mkId mk s).1.tag) (saveImage fn tenant mkId mk s).2)) hrnu

theorem applyImage_migration (fn : Nat) (i : SaveImage) (s : State) : ((applyImage fn i s).func fn).migration = .restored := by
  simp only [applyImage, State.updFunc, func_setFunc_self]

/-- The version counter after a restore: not below that of the image's active plan. -/
def countVersion (fn v : Nat) (s : State) : State :=
  if Tbl.get 0 s.pln.highest fn < v - 1 then { s with pln := { s.pln with highest := Tbl.put fn (v - 1) s.pln.highest } } else s

theorem countVersion_key (fn v : Nat) (s : State) : (countVersion fn v s).key = s.key := by
  unfold countVersion
  split <;> rfl

theorem applyImage_handles (fn : Nat) (i : SaveImage) (s : State) : ((applyImage fn i s).dom fn).handles = i.handleCounter := by
  have happly : applyImage fn i s = State.updFunc fn (fun v => { v with migration := .restored })
      (restoreLifted fn i.lifted (restoreRings fn i.lifted i.rings (countVersion fn i.activeVersion
        ((restoreKeys fn (((s.dom fn).migKey.map (·.2)).getD []) i.keys s).updDom fn fun d =>
          { d with reservations := d.reservations ++ i.reservations, handles := i.handleCounter })))) := rfl
  have hkey : (applyImage fn i s).key = ((restoreKeys fn (((s.dom fn).migKey.map (·.2)).getD []) i.keys s).updDom fn fun d =>
      { d with reservations := d.reservations ++ i.reservations, handles := i.handleCounter }).key := by
    rw [happly]
    simp only [State.updFunc_frame, restoreLifted_frame, restoreRings_frame, countVersion_key]
  rw [State.dom, hkey]
  exact congrArg Domain.handles (dom_updDom_self ..)

/-- The ring of an image's one record, as it is configured. -/
theorem applyImage_ring {i : SaveImage} {r : SavedRing} (hrings : i.rings = [r]) (hlifted : i.lifted = []) :
    (applyImage fn i s).ring fn r.index =
      { ringCfg {} r.cfg with base := r.base, mirror := r.mirror, modCount := fieldOf r.mod 7 0, modTime := fieldOf r.mod 23 8
                              enabled := !r.draining, draining := r.draining, d := r.d, h := r.h, f := r.f
                              entries := restoredRun r.f r.h [] } := by
  simp only [applyImage, hrings, hlifted, restoreRings, restoreLifted, List.filter_nil]
  exact ring_setRing_self ..

end

/-- Settles O9: the freeze by what it meets, the image by its first fault, the rest by their one condition. -/
theorem virtualFunctionsSetUpAndMigrate : Obligations.VirtualFunctionsSetUpAndMigrate := by
  refine ⟨fun q fn rings scope ctxs slots delays s x hr hfault hx => ?setUp,
    fun q fn rings scope ctxs slots delays code d s hr hfault => ?setUpFails,
    fun q fn s hr ⟨hfn, hfn', hidle⟩ ⟨hnormal, hsetUp, hruns, hfree⟩ hnone => ?freeze,
    fun q fn c s hr ⟨hfn, hfn', hidle⟩ ⟨hnormal, hsetUp, hruns, hfree⟩ ⟨hctxs, hf, ho, hph⟩ => ?squash,
    fun q fn c s hr ⟨hfn, hfn', hidle⟩ ⟨hnormal, hsetUp, hruns, hfree⟩ ⟨hctxs, hf, ho, hph⟩ => ?lift,
    fun q fn c s hr ⟨hfn, hfn', hidle⟩ ⟨hnormal, hsetUp, hruns, hfree⟩ ⟨hctxs, hf, ho, hph⟩ => ?wait,
    fun q fn tenant mkId mk i x s hr ⟨hlevel, hroot, hrnu⟩ ⟨hfn, hfn', hfrozen⟩ ⟨htenant, hmk⟩ himage => ?save,
    fun q fn length image s ⟨hroot, hfn, hfn'⟩ => ⟨fun hr hlevel hfrozen => ?saveUnrooted, fun hr hfault => ?restoreUnrooted⟩,
    fun q fn length image s hr ⟨hfn, hfn', hroot⟩ hfault hkeys => ?restore,
    fun q fn length image code d s hr ⟨hfn, hfn'⟩ hfault => ?restoreFails,
    fun q fn s hr ⟨hfn, hfn', hfrozen⟩ hnone => ?thaw,
    fun q fn c s hr ⟨hfn, hfn', hfrozen⟩ ⟨hctxs, hf, hlifted⟩ => ⟨fun hahead => ?thawPlaced, fun hpast => ?thawMissed⟩⟩
  case setUp =>
    subst hx
    refine exec_done (comp := okDetail 0) hr rfl ?_
    simp only [hfault]
    rfl
  case setUpFails =>
    refine exec_done (comp := { code, detail := d }) hr rfl ?_
    simp only [hfault]
  case freeze =>
    have hx : ∀ x ∈ s.hif.ctxs, x.f ≠ fn := by simpa using hnone
    have hbegin : beginFreeze fn s = freezeMarked fn s := by
      rw [beginFreeze_unsquashed hidle fun x h => by simp [undispatched, hx x h], liftAll_none fun x h hc => hx x h hc.1]
    have hway : underWay fn (freezeMarked fn s) = false := underWay_of_none fun x h hc => hx x h hc.1
    have hlift : liftedOf fn (freezeMarked fn s) = [] := List.filter_eq_nil_iff.mpr fun x h => by simp [hx x h]
    have hexec := exec_vfFreeze hr ⟨hfn, hfn', hnormal, hsetUp, hruns, hidle, hfree⟩
    rw [hbegin, if_neg (by simp [hway]), hlift] at hexec
    refine answers_next hexec ⟨_, rfl, ?_, rfl, rfl, rfl⟩
    rw [State.updFunc, func_setFunc_self, freezeMarked_func, ← hfree]
  case squash =>
    have hc : undispatched fn c = true := by
      rcases hph with h | h <;> simp [undispatched, hf, ho, h]
    have hexec := exec_vfFreeze hr ⟨hfn, hfn', hnormal, hsetUp, hruns, hidle, hfree⟩
    have hdelivered := delivered_finishCtx c (bare stSquashed) (leaveCore c.id (freezeMarked fn s))
    rw [beginFreeze_squashed hidle hctxs hc] at hexec
    generalize finishCtx c (bare stSquashed) (leaveCore c.id (freezeMarked fn s)) = x at hexec hdelivered
    have hx : Delivered c { code := 0x0702 } (freezeMarked fn s) x := hdelivered.of_host (by simp) (by simp)
    have hempty : x.hif.ctxs = [] := by
      rw [hx.1]
      simp [freezeMarked, State.updFunc, State.setFunc, hctxs]
    have hway : underWay fn x = false := underWay_of_none fun y hy => by simp [hempty] at hy
    have hlift : liftedOf fn x = [] := by rw [liftedOf, hempty, List.filter_nil]
    rw [if_neg (by simp [hway]), hlift] at hexec
    refine answers_next hexec ⟨x, _, hx, rfl, hempty, ?_, ?_, rfl⟩
    · rw [State.updFunc, func_setFunc_self]
    · rw [State.updFunc, func_setFunc_self]
  case lift =>
    have hquiet : ∀ x ∈ s.hif.ctxs, undispatched fn x = false := by
      rw [hctxs]
      simp [undispatched, hph]
    have hexec := exec_vfFreeze hr ⟨hfn, hfn', hnormal, hsetUp, hruns, hidle, hfree⟩
    rw [beginFreeze_unsquashed hidle hquiet] at hexec
    have hlift : (liftAll fn s.hif.ctxs (freezeMarked fn s)).hif.ctxs = [{ c with lifted := true }] := by
      rw [hctxs, liftAll, if_pos ⟨hf, ho, hph⟩, liftAll]
      simp [State.setCtx, putCtx, freezeMarked, State.updFunc, State.setFunc, hctxs]
    have hdelay : ∀ e ∈ (liftAll fn s.hif.ctxs (freezeMarked fn s)).ts.delay0 ++ (liftAll fn s.hif.ctxs (freezeMarked fn s)).ts.delay1 ++
        (liftAll fn s.hif.ctxs (freezeMarked fn s)).ts.delay2 ++ (liftAll fn s.hif.ctxs (freezeMarked fn s)).ts.delay3, e.ctx ≠ c.id := by
      rw [hctxs, liftAll, if_pos ⟨hf, ho, hph⟩, liftAll]
      intro e he
      simp only [List.mem_append, or_assoc] at he
      rcases he with he | he | he | he <;> exact mem_dropDelay he
    generalize liftAll fn s.hif.ctxs (freezeMarked fn s) = x at hexec hlift hdelay
    have hway : underWay fn x = false := underWay_of_none fun y hy => by
      rw [hlift, List.mem_singleton] at hy
      simp [hy, hph]
    have hcount : liftedOf fn x = [{ c with lifted := true }] := by
      rw [liftedOf, hlift]
      simp [hf]
    rw [if_neg (by simp [hway]), hcount] at hexec
    refine answers_next hexec ⟨_, rfl, hlift, ?_, hdelay⟩
    rw [State.updFunc, func_setFunc_self]
  case wait =>
    have hquiet : ∀ x ∈ s.hif.ctxs, undispatched fn x = false := by
      rw [hctxs]
      rcases hph with h | h <;> simp [undispatched, h]
    have hexec := exec_vfFreeze hr ⟨hfn, hfn', hnormal, hsetUp, hruns, hidle, hfree⟩
    have hbegin : beginFreeze fn s = freezeMarked fn s := by
      rw [beginFreeze_unsquashed hidle hquiet, liftAll_none]
      rw [hctxs]
      rcases hph with h | h <;> simp [h]
    have hway : underWay fn (freezeMarked fn s) = true := by
      refine List.any_eq_true.mpr ⟨c, ?_, ?_⟩
      · simp [freezeMarked, State.updFunc, State.setFunc, hctxs]
      · rcases hph with h | h <;> simp [hf, ho, h]
    rwa [hbegin, if_pos hway] at hexec
  case save =>
    have hexec := exec_vfSave hr hlevel hroot hrnu hfn hfn' hfrozen htenant hmk
    rw [himage] at hexec
    obtain ⟨rfl, rfl⟩ := Prod.mk.inj himage
    exact ⟨hexec, rfl, rfl, rfl, rfl, rfl, rfl, rfl, rfl⟩
  case saveUnrooted =>
    exact exec_done (comp := bare stKeyNotLoaded) hr rfl
      ((if_neg (by omega)).trans ((if_neg (by simp [hfn, hfn', hfrozen])).trans (if_pos hroot)))
  case restoreUnrooted =>
    refine exec_done (comp := bare stKeyNotLoaded) hr rfl ((if_neg (by omega)).trans ?_)
    simp only [hfault]
    exact if_pos hroot
  case restore =>
    have hexec : exec (.vfRestore q fn length image) s = .next
        (complete q (okDetail (image.keys.filter fun k => k.blob.isSome).length) (applyImage fn image s)) := by
      refine exec_done hr rfl ((if_neg (by omega)).trans ?_)
      simp only [hfault]
      refine (if_neg (by simp [hroot])).trans ?_
      by_cases hn : (image.keys.filter fun k => k.blob.isSome).length = 0
      · rw [hn]
        exact if_pos rfl
      · have hready := hkeys.resolve_left fun h => hn (by rw [h]; rfl)
        exact (if_neg hn).trans (withDraw_of_ready (k := fun s =>
          .done (okDetail (image.keys.filter fun k => k.blob.isSome).length) (applyImage fn image s)) hready)
    refine answers_next hexec ⟨_, rfl, applyImage_migration .., applyImage_handles .., fun r hrings hlifted _ => ?_⟩
    rw [applyImage_ring hrings hlifted]
    refine ⟨rfl, rfl, rfl, rfl, rfl, rfl, rfl, ?_⟩
    simp [ringCfg, fieldOf]
  case restoreFails =>
    refine exec_done (comp := { code, detail := d }) hr rfl ((if_neg (by omega)).trans ?_)
    simp only [hfault]
  case thaw =>
    refine exec_done (comp := okDetail 0) hr rfl ((if_neg (by simp [hfn, hfn', hfrozen])).trans ?_)
    rw [thawAll_none (by simpa [Decidable.imp_iff_not_or] using hnone)]
    rfl
  case thawPlaced =>
    refine exec_done (comp := okDetail 0) hr rfl ((if_neg (by simp [hfn, hfn', hfrozen])).trans ?_)
    rw [hctxs, thawAll, if_pos ⟨hf, hlifted⟩]
    simp only [thawAll]
    rw [if_neg (by simpa using hahead)]
    rfl
  case thawMissed =>
    have hexec : exec (.vfThaw q fn) s = .next (complete q (okDetail 0) (finishCtx { c with lifted := false } (bare stDeadlineMissed)
        (s.setFunc fn { s.func fn with migration := .normal }))) := by
      refine exec_done hr rfl ((if_neg (by simp [hfn, hfn', hfrozen])).trans ?_)
      rw [hctxs, thawAll, if_pos ⟨hf, hlifted⟩]
      simp only [thawAll]
      rw [if_pos (by simpa using hpast)]
      rfl
    exact answers_next hexec ⟨_, rfl, delivered_finishCtx ..⟩

end Sys2Proof.Machine

/-! ## Registers, stored settings and the SMBus

An offset is narrow where no 64-bit register stands at it or below it, and quiet where neither the registers of every function
nor those of the PF act on a write; a write is then that of the one register it names (R687 to R703, R723). -/

namespace Sys2Proof.Machine

/-- The 64-bit registers outside arrays (R693). -/
def wideRegs : List Nat := [0x28, 0x30, 0x38, 0x408, 0x3E00, 0x80, 0x3810]

/-- No 64-bit register stands at an offset. -/
def narrow (off : Nat) : Bool :=
  !wideRegs.contains off && (decide (off < 0x2150) || decide (0x21C0 ≤ off)) && (decide (off < 0x2410) || decide (0x24A8 ≤ off))

/-- The registers of every function that a write names one by one. -/
def fnRegs : List Nat := [0x0040, 0x0044, 0x1008, 0x2140]

/-- The registers of the PF that a write names one by one. -/
def pfRegs : List Nat := [0x0090, 0x2400, 0x3004, 0x3008, 0x3820, 0x5430, 0x5828]

/-- The arrays of registers of the PF that a write acts on: base and number. -/
def pfArrays : List (Nat × Nat) :=
  [(0x2200, 12), (0x2300, 12), (0x2340, 4), (0x4800, 14), (0x4840, 48), (0x4A10, 12), (0x5410, 4), (0x6400, 12)]

/-- No register of every function acts on a write at an offset. -/
structure FnQuiet (off : Nat) : Prop where
  regs : off ∉ fnRegs
  ring : ¬ (0x1800 ≤ off ∧ off < 0x2000)
  msix : ¬ (0x3C00 ≤ off ∧ off < 0x3E00)
  event : eventAt off fnEvents = none

/-- No register of the PF alone acts on a write at an offset. -/
structure PfQuiet (off : Nat) : Prop where
  regs : off ∉ pfRegs
  event : eventAt off pfEvents = none
  array : ∀ a ∈ pfArrays, arrayAt off a.1 4 a.2 = none

section
variable {s : State} {f off value : Nat} {i : StartIn}

/-! ### Arrays and event registers -/

theorem arrayAt_below {base step n : Nat} (h : off < base) : arrayAt off base step n = none := if_neg (by omega)

theorem arrayAt_above {base n : Nat} (h : base + 4 * n ≤ off) : arrayAt off base 4 n = none := if_neg (by omega)

theorem arrayAt_self {base n k : Nat} (h : k < n) : arrayAt (base + 4 * k) base 4 n = some k := by
  have hk : (base + 4 * k - base) / 4 = k := by omega
  rw [arrayAt, hk, if_pos (by omega)]

theorem eventAt_none {l : List (Nat × EvBlock × Nat)} (h : ∀ x ∈ l, off ≠ x.1 ∧ off ≠ x.1 + 4) : eventAt off l = none := by
  induction l with
  | nil => rfl
  | cons x l ih =>
    obtain ⟨h1, h2⟩ := h x (List.mem_cons_self ..)
    rw [eventAt, if_neg h1, if_neg h2, ih fun y hy => h y (List.mem_cons_of_mem _ hy)]

/-! ### Narrow and quiet offsets -/

theorem reg64_of_narrow (h : narrow off = true) : reg64 s f off = none := by
  simp only [narrow, Bool.and_eq_true, Bool.or_eq_true, decide_eq_true_eq, Bool.not_eq_true', List.contains_eq_mem,
    decide_eq_false_iff_not] at h
  obtain ⟨⟨hwide, hlatch⟩, hport⟩ := h
  have hne : ∀ x ∈ wideRegs, off ≠ x := fun x hx he => hwide (he ▸ hx)
  simp only [wideRegs, List.forall_mem_cons, List.not_mem_nil, false_implies, implies_true, and_true] at hne
  obtain ⟨h1, h2, h3, h4, h5, h6, h7⟩ := hne
  have hlatch' : arrayAt off 0x2150 8 14 = none := if_neg (by omega)
  have hport' : arrayAt off 0x2410 8 19 = none := if_neg (by omega)
  unfold reg64
  dsimp only
  split
  · exact absurd rfl h1
  · exact absurd rfl h2
  · exact absurd rfl h3
  · exact absurd rfl h4
  · exact absurd rfl h5
  · simp only [hlatch', if_neg h6, if_neg h7, hport', Option.map_none, ite_self]

/-- From 0x2200 on only the MSI-X table is a register of every function. -/
theorem fnQuiet_of_high (h : 0x2200 ≤ off) (hmsix : off < 0x3C00 ∨ 0x3E00 ≤ off) : FnQuiet off := by
  have hregs : ∀ x ∈ fnRegs, x < 0x2200 := by decide
  have hevents : ∀ x ∈ fnEvents, x.1 + 4 < 0x2200 := by decide
  refine ⟨fun hx => ?_, by omega, by omega, eventAt_none fun x hx => ?_⟩
  · have := hregs off hx
    omega
  · have := hevents x hx
    omega

/-- The rings' and the vectors' registers are none of the PF's. -/
theorem pfQuiet_of_blocks (h : (0x1800 ≤ off ∧ off < 0x2000) ∨ (0x3C00 ≤ off ∧ off < 0x3E00)) : PfQuiet off := by
  have hregs : ∀ x ∈ pfRegs, (x < 0x1800 ∨ 0x2000 ≤ x) ∧ (x < 0x3C00 ∨ 0x3E00 ≤ x) := by decide
  have hevents : ∀ x ∈ pfEvents, (x.1 + 4 < 0x1800 ∨ 0x2000 ≤ x.1) ∧ (x.1 + 4 < 0x3C00 ∨ 0x3E00 ≤ x.1) := by decide
  have harrays : ∀ a ∈ pfArrays, (a.1 + 4 * a.2 ≤ 0x3C00 ∨ 0x3E00 ≤ a.1) ∧ 0x2000 ≤ a.1 := by decide
  refine ⟨fun hx => ?_, eventAt_none fun x hx => ?_, fun a ha => if_neg ?_⟩
  · have := hregs off hx
    omega
  · have := hevents x hx
    omega
  · have := harrays a ha
    omega

/-! ### A write to one register -/

/-- A write to a register of every function that is not named one by one: a ring's, a vector's or an event's. -/
theorem writeFn_unlisted (hregs : off ∉ fnRegs) : writeFn f off value s =
    if 0x1800 ≤ off ∧ off < 0x2000 then writeRing f ((off - 0x1800) / 32) ((off - 0x1800) % 32) value s
    else if 0x3C00 ≤ off ∧ off < 0x3E00 then writeMsix f (off - 0x3C00) value s
    else (eventAt off fnEvents).elim s fun x => writeEvent x.1 f x.2.1 x.2.2 value s := by
  have hne : ∀ x ∈ fnRegs, off ≠ x := fun x hx he => hregs (he ▸ hx)
  simp only [fnRegs, List.forall_mem_cons, List.not_mem_nil, false_implies, implies_true, and_true] at hne
  obtain ⟨h1, h2, h3, h4⟩ := hne
  unfold writeFn
  split
  · exact absurd rfl h1
  · exact absurd rfl h2
  · exact absurd rfl h3
  · exact absurd rfl h4
  · cases eventAt off fnEvents <;> rfl

theorem writeFn_quiet (h : FnQuiet off) : writeFn f off value s = s := by
  rw [writeFn_unlisted h.regs, if_neg h.ring, if_neg h.msix, h.event, Option.elim_none]

/-- A write to a register of the PF that is not named one by one: an event's, or one of an array. -/
theorem writePf_unlisted (hregs : off ∉ pfRegs) : writePf off value i s =
    (eventAt off pfEvents).elim ((writeArray off value s).getD s) fun x => writeEvent x.1 0 x.2.1 x.2.2 value s := by
  have hne : ∀ x ∈ pfRegs, off ≠ x := fun x hx he => hregs (he ▸ hx)
  simp only [pfRegs, List.forall_mem_cons, List.not_mem_nil, false_implies, implies_true, and_true] at hne
  obtain ⟨h1, h2, h3, h4, h5, h6, h7⟩ := hne
  unfold writePf
  split
  · exact absurd rfl h1
  · exact absurd rfl h2
  · exact absurd rfl h3
  · exact absurd rfl h4
  · exact absurd rfl h5
  · exact absurd rfl h6
  · exact absurd rfl h7
  · cases eventAt off pfEvents <;> rfl

theorem writePf_quiet (h : PfQuiet off) : writePf off value i s = s := by
  have harray := h.array
  simp only [pfArrays, List.forall_mem_cons, List.not_mem_nil, false_implies, implies_true, and_true] at harray
  obtain ⟨h1, h2, h3, h4, h5, h6, h7, h8⟩ := harray
  rw [writePf_unlisted h.regs, h.event, writeArray, h1, h2, h3, h4, h5, h6, h7, h8]
  rfl

theorem write4_narrow (h : narrow off = true) (h' : narrow (off - 4) = true) (hf : f ≤ 63) (hlow : f = 0 ∨ off < 0x4000)
    (hv : value < 2 ^ 32) : write4 f off value i s =
      if f = 0 then writePf off value i (writeFn f off value s) else writeFn f off value s := by
  have hlo : lo32 value = value := Nat.mod_eq_of_lt hv
  have hwide : ((reg64 s f off).isSome || (decide (4 ≤ off) && (reg64 s f (off - 4)).isSome)) = false := by
    simp [reg64_of_narrow h, reg64_of_narrow h']
  simp only [write4, hwide, Bool.false_eq_true, if_false, hlo]
  rw [if_neg (by omega)]

theorem exec_registerWrite (hr : reaches f s = true) (hoff : off % 4 = 0) :
    exec (.registerWrite f off 4 value i) s = .next (write4 f off value i s) :=
  (viaBar_reaches hr _).trans (if_pos ⟨rfl, hoff⟩)

/-- A write to a register of every function. -/
theorem exec_writeFn (hr : reaches f s = true) (hf : f ≤ 63) (hv : value < 2 ^ 32) (hoff : off % 4 = 0) (hlow : off < 0x4000)
    (h : narrow off = true) (h' : narrow (off - 4) = true) (hq : PfQuiet off) :
    exec (.registerWrite f off 4 value i) s = .next (writeFn f off value s) := by
  rw [exec_registerWrite hr hoff, write4_narrow h h' hf (.inr hlow) hv, writePf_quiet hq, ite_self]

/-- A write to a register of the PF alone. -/
theorem exec_writePf (hr : reaches 0 s = true) (hv : value < 2 ^ 32) (hoff : off % 4 = 0)
    (h : narrow off = true) (h' : narrow (off - 4) = true) (hq : FnQuiet off) :
    exec (.registerWrite 0 off 4 value i) s = .next (writePf off value i s) := by
  rw [exec_registerWrite hr hoff, write4_narrow h h' (Nat.zero_le _) (.inl rfl) hv, if_pos rfl, writeFn_quiet hq]

/-! ### Writes that are rows of their own -/

theorem stateOf_of_next {o : Host.Outcome State Fault Refusal} (h : ∃ t, o = .next t) : Host.Outcome.next (stateOf s o) = o := by
  obtain ⟨t, rfl⟩ := h
  rfl

variable {ring n : Nat}

theorem ringEnable_answers (hr : reaches f s = true) : ∃ t, execRingEnable f ring value s = .next t := by
  rw [execRingEnable, viaBar_reaches hr]
  dsimp only
  split
  · exact ⟨_, rfl⟩
  · generalize (if (s.ring f ring).draining then s.ring f ring else ringCfg (s.ring f ring) value) = r
    split <;> exact ⟨_, rfl⟩

theorem ringDrain_answers (hr : reaches f s = true) : ∃ t, execRingDrain f ring s = .next t := by
  rw [execRingDrain, viaBar_reaches hr]
  dsimp only
  split <;> exact ⟨_, rfl⟩

theorem portCfgWrite_answers (hr : reaches 0 s = true) : ∃ t, execPortCfgWrite n value s = .next t := by
  rw [execPortCfgWrite, viaBar_reaches hr]
  dsimp only
  split <;> exact ⟨_, rfl⟩

theorem pairCfgWrite_answers (hr : reaches 0 s = true) : ∃ t, execPairCfgWrite n value s = .next t := by
  rw [execPairCfgWrite, viaBar_reaches hr]
  dsimp only
  split
  · exact ⟨_, rfl⟩
  · split <;> exact ⟨_, rfl⟩

theorem coreGroupsWrite_answers (hr : reaches 0 s = true) : ∃ t, execCoreGroupsWrite n value s = .next t := by
  rw [execCoreGroupsWrite, viaBar_reaches hr]
  dsimp only
  split
  · exact ⟨_, rfl⟩
  · split <;> exact ⟨_, rfl⟩

theorem testPatternWrite_answers (hr : reaches 0 s = true) : ∃ t, execTestPatternWrite value s = .next t := by
  rw [execTestPatternWrite, viaBar_reaches hr]
  split
  · dsimp only
    split <;> exact ⟨_, rfl⟩
  · exact ⟨_, rfl⟩

theorem moduleResetRequest_answers (hr : reaches 0 s = true) : ∃ t, execModuleResetRequest value i s = .next t := by
  rw [execModuleResetRequest, viaBar_reaches hr]
  split <;> exact ⟨_, rfl⟩

/-! ### Rings, vectors and events of every function (R418, R420, R444, R694) -/

/-- Below 0x4000 the blocks of the rings and of the vectors hold no 64-bit register. -/
theorem narrow_of_blocks (h : (0x17FC ≤ off ∧ off < 0x2000) ∨ (0x3BFC ≤ off ∧ off < 0x3E00)) : narrow off = true := by
  simp only [narrow, wideRegs, Bool.and_eq_true, Bool.or_eq_true, decide_eq_true_eq, Bool.not_eq_true', List.contains_eq_mem,
    decide_eq_false_iff_not, List.mem_cons, List.not_mem_nil, or_false]
  omega

theorem not_mem_fnRegs (h : (0x1800 ≤ off ∧ off < 0x2000) ∨ 0x2200 ≤ off) : off ∉ fnRegs := by
  have hne : ∀ x ∈ fnRegs, x < 0x1800 ∨ (0x2000 ≤ x ∧ x < 0x2200) := by decide
  intro hx
  have := hne off hx
  omega

theorem exec_writeRing {k : Nat} (hr : reaches f s = true) (hf : f ≤ 63) (hv : value < 2 ^ 32) (hring : ring < 64) (hk : k < 32)
    (hk4 : k % 4 = 0) : exec (.registerWrite f (0x1800 + 32 * ring + k) 4 value i) s = .next (writeRing f ring k value s) := by
  have hblock : 0x1800 ≤ 0x1800 + 32 * ring + k ∧ 0x1800 + 32 * ring + k < 0x2000 := by omega
  have hindex : (0x1800 + 32 * ring + k - 0x1800) / 32 = ring := by omega
  have hplace : (0x1800 + 32 * ring + k - 0x1800) % 32 = k := by omega
  rw [exec_writeFn hr hf hv (by omega) (by omega) (narrow_of_blocks (by omega)) (narrow_of_blocks (by omega))
    (pfQuiet_of_blocks (.inl hblock)), writeFn_unlisted (not_mem_fnRegs (.inl hblock)), if_pos hblock, hindex, hplace]

/-- A write to a field of a ring other than its configuration acts while the ring is not active (R692). -/
theorem exec_writeRing_field {k : Nat} {r : Ring} (hr : reaches f s = true) (hf : f ≤ 63) (hv : value < 2 ^ 32) (hring : ring < 64)
    (hx : (k, r) ∈ [(0x00, { s.ring f ring with base := value + 2 ^ 32 * hi32 (s.ring f ring).base }),
      (0x04, { s.ring f ring with base := lo32 (s.ring f ring).base + 2 ^ 32 * value }),
      (0x08, { s.ring f ring with mirror := value + 2 ^ 32 * hi32 (s.ring f ring).mirror }),
      (0x0C, { s.ring f ring with mirror := lo32 (s.ring f ring).mirror + 2 ^ 32 * value }),
      (0x14, { s.ring f ring with modCount := fieldOf value 7 0, modTime := fieldOf value 23 8 })]) :
    exec (.registerWrite f (0x1800 + 32 * ring + k) 4 value i) s =
      .next (if (s.ring f ring).active then s else s.setRing f ring r) := by
  simp only [List.mem_cons, Prod.mk.injEq, List.not_mem_nil, or_false] at hx
  have hk : k % 4 = 0 ∧ k < 32 ∧ k ≠ 0x10 := by omega
  have hwrite : writeRing f ring k value s = if (s.ring f ring).active then s else s.setRing f ring r := by
    refine (if_neg fun h => hk.2.2 h.1).trans ((if_neg fun h => hk.2.2 h.1).trans ?_)
    rcases hx with ⟨rfl, rfl⟩ | ⟨rfl, rfl⟩ | ⟨rfl, rfl⟩ | ⟨rfl, rfl⟩ | ⟨rfl, rfl⟩ <;> rfl
  rw [exec_writeRing hr hf hv hring hk.2.1 hk.1, hwrite]

/-- The place of a vector in the table after a write to one of its words. -/
theorem exec_writeMsix {k a d : Nat} {m : Bool} {e : Nat × Nat × Bool} (hr : reaches f s = true) (hf : f ≤ 63) (hv : value < 2 ^ 32)
    (hn : n < 32) (hrow : (Tbl.find? n (s.func f).msix.table).getD (0, 0, true) = (a, d, m))
    (hx : (k, e) ∈ [(0, (value + 2 ^ 32 * hi32 a, d, m)), (4, (lo32 a + 2 ^ 32 * value, d, m)), (8, (a, value, m)), (12, (a, d, bitOf value 0))]) :
    exec (.registerWrite f (0x3C00 + 16 * n + k) 4 value i) s =
      .next (sendPending f n (s.updFunc f fun v => { v with msix := { v.msix with table := Tbl.put n e v.msix.table } })) := by
  have hk : k % 4 = 0 ∧ k < 16 := by
    simp only [List.mem_cons, Prod.mk.injEq, List.not_mem_nil, or_false] at hx
    omega
  have hblock : 0x3C00 ≤ 0x3C00 + 16 * n + k ∧ 0x3C00 + 16 * n + k < 0x3E00 := by omega
  have hindex : (0x3C00 + 16 * n + k - 0x3C00) / 16 = n := by omega
  have hplace : (0x3C00 + 16 * n + k - 0x3C00) % 16 = k := by omega
  rw [exec_writeFn hr hf hv (by omega) (by omega) (narrow_of_blocks (by omega)) (narrow_of_blocks (by omega))
    (pfQuiet_of_blocks (.inr hblock)), writeFn_unlisted (not_mem_fnRegs (by omega)), if_neg (by omega), if_pos hblock]
  simp only [writeMsix, hindex, hplace, hrow]
  simp only [List.mem_cons, Prod.mk.injEq, List.not_mem_nil, or_false] at hx
  rcases hx with ⟨rfl, rfl⟩ | ⟨rfl, rfl⟩ | ⟨rfl, rfl⟩ | ⟨rfl, rfl⟩ <;> rfl

/-- The event registers of every function stand alone at their offsets. -/
theorem fnEvents_placed : ∀ x ∈ fnEvents, ∀ e : Bool, (fun off => off % 4 = 0 ∧ off < 0x4000 ∧ off ∉ fnRegs ∧ narrow off = true ∧
    narrow (off - 4) = true ∧ ¬ (0x1800 ≤ off ∧ off < 0x2000) ∧ ¬ (0x3C00 ≤ off ∧ off < 0x3E00) ∧
    eventAt off fnEvents = some (x.2.1, x.2.2, e) ∧ off ∉ pfRegs ∧ eventAt off pfEvents = none ∧
    ∀ a ∈ pfArrays, arrayAt off a.1 4 a.2 = none) (if e then x.1 + 4 else x.1) := by decide

/-- So do those of the PF. -/
theorem pfEvents_placed : ∀ x ∈ pfEvents, ∀ e : Bool, (fun off => off % 4 = 0 ∧ narrow off = true ∧ narrow (off - 4) = true ∧
    0x2200 ≤ off ∧ (off < 0x3C00 ∨ 0x3E00 ≤ off) ∧ off ∉ pfRegs ∧ eventAt off pfEvents = some (x.2.1, x.2.2, e))
    (if e then x.1 + 4 else x.1) := by decide

theorem exec_writeEvent {x : Nat × EvBlock × Nat} (e : Bool) (hr : reaches f s = true) (hf : f ≤ 63) (hv : value < 2 ^ 32)
    (hx : x ∈ if f = 0 then fnEvents ++ pfEvents else fnEvents) :
    exec (.registerWrite f (if e then x.1 + 4 else x.1) 4 value i) s = .next (writeEvent x.2.1 f x.2.2 e value s) := by
  have hown (hx : x ∈ fnEvents) :
      exec (.registerWrite f (if e then x.1 + 4 else x.1) 4 value i) s = .next (writeEvent x.2.1 f x.2.2 e value s) := by
    obtain ⟨hoff, hlow, hregs, hnarrow, hnarrow', hring, hmsix, hevent, hpregs, hpevent, harray⟩ := fnEvents_placed x hx e
    rw [exec_writeFn hr hf hv hoff hlow hnarrow hnarrow' ⟨hpregs, hpevent, harray⟩, writeFn_unlisted hregs, if_neg hring, if_neg hmsix,
      hevent, Option.elim_some]
  by_cases h0 : f = 0
  · subst h0
    rw [if_pos rfl, List.mem_append] at hx
    rcases hx with hx | hx
    · exact hown hx
    · obtain ⟨hoff, hnarrow, hnarrow', hhigh, hmsix, hregs, hevent⟩ := pfEvents_placed x hx e
      rw [exec_writePf hr hv hoff hnarrow hnarrow' (fnQuiet_of_high hhigh hmsix), writePf_unlisted hregs, hevent, Option.elim_some]
  · rw [if_neg h0] at hx
    exact hown hx

/-! ### Arrays of the PF -/

/-- What stands in the PF's arrays is neither named one by one nor an event register, and is no 64-bit register. -/
theorem pfArrays_placed : ∀ a ∈ pfArrays, a.1 % 4 = 0 ∧ 0x2200 ≤ a.1 ∧ (a.1 + 4 * a.2 ≤ 0x2400 ∨ 0x4000 ≤ a.1) ∧
    (∀ x ∈ pfRegs, x < a.1 ∨ a.1 + 4 * a.2 ≤ x) ∧ ∀ x ∈ pfEvents, x.1 + 4 < a.1 ∨ a.1 + 4 * a.2 ≤ x.1 := by decide

theorem exec_writeArray {a : Nat × Nat} (ha : a ∈ pfArrays) (hn : n < a.2) (hr : reaches 0 s = true) (hv : value < 2 ^ 32) :
    exec (.registerWrite 0 (a.1 + 4 * n) 4 value i) s = .next ((writeArray (a.1 + 4 * n) value s).getD s) := by
  obtain ⟨halign, hhigh, hplace, hregs, hevents⟩ := pfArrays_placed a ha
  have hnarrow (off : Nat) (h : 0x21FC ≤ off) (h' : off < 0x2400 ∨ 0x3FFC ≤ off) : narrow off = true := by
    simp only [narrow, wideRegs, Bool.and_eq_true, Bool.or_eq_true, decide_eq_true_eq, Bool.not_eq_true', List.contains_eq_mem,
      decide_eq_false_iff_not, List.mem_cons, List.not_mem_nil, or_false]
    omega
  have hunlisted : a.1 + 4 * n ∉ pfRegs := fun hx => by
    have := hregs _ hx
    omega
  have hevent : eventAt (a.1 + 4 * n) pfEvents = none := eventAt_none fun x hx => by
    have := hevents x hx
    omega
  rw [exec_writePf hr hv (by omega) (hnarrow _ (by omega) (by omega)) (hnarrow _ (by omega) (by omega)) (fnQuiet_of_high (by omega) (by omega)),
    writePf_unlisted hunlisted, hevent, Option.elim_none]

theorem writeArray_setting (h : n < 12) : writeArray (0x6400 + 4 * n) value s = some (writeSetting (0x6400 + 4 * n) value s) := by
  rw [writeArray, arrayAt_above (base := 0x2200) (n := 12) (by omega), arrayAt_above (base := 0x2300) (n := 12) (by omega),
    arrayAt_above (base := 0x2340) (n := 4) (by omega), arrayAt_above (base := 0x4800) (n := 14) (by omega),
    arrayAt_above (base := 0x4840) (n := 48) (by omega), arrayAt_above (base := 0x4A10) (n := 12) (by omega),
    arrayAt_above (base := 0x5410) (n := 4) (by omega), arrayAt_self h]
  rfl

theorem exec_writeSetting (hn : n < 12) (hr : reaches 0 s = true) (hv : value < 2 ^ 32) :
    exec (.registerWrite 0 (0x6400 + 4 * n) 4 value i) s = .next (writeSetting (0x6400 + 4 * n) value s) := by
  rw [exec_writeArray (a := (0x6400, 12)) (by decide) hn hr hv, writeArray_setting hn, Option.getD_some]

/-! ### Reads (R687, R693) -/

theorem exec_splitRegisterRead {len : Nat} (hr : reaches f s = true) : exec (.splitRegisterRead f off len) s =
    .next (emit (.read f off (barRead f off len s).1) (barRead f off len s).2) := viaBar_reaches hr _

theorem read4_narrow (h : reg64 (readView s) f off = none) (h' : off < 4 ∨ reg64 (readView s) f (off - 4) = none) :
    read4 f off s = (reg32 (readView s) f off, if f = 0 ∧ off = 0x5008 then { s with ac := { s.ac with record := none } } else s) := by
  have hbelow : (if 4 ≤ off then reg64 (readView s) f (off - 4) else none) = none := by
    rcases h' with h' | h'
    · exact if_neg (by omega)
    · rw [h', ite_self]
  simp only [read4, h, hbelow]

theorem read4_low {v : Nat} (h : reg64 (readView s) f off = some (v, false)) :
    read4 f off s = (lo32 v, setSplit f off (some v) s) := by
  simp only [read4, h]

theorem read4_high {v : Nat} (h : reg64 (readView s) f (off + 4) = none) (h' : reg64 (readView s) f off = some (v, false)) :
    read4 f (off + 4) s = (hi32 ((Tbl.find? off (s.func f).split).getD v), setSplit f off none s) := by
  simp only [read4, h, Nat.le_add_left, if_true, Nat.add_sub_cancel, h']

theorem read8_wide {v : Nat} {latched : Bool} (h : reg64 (readView s) f off = some (v, latched)) :
    read8 f off s = (v, setSplit f off none s) := by
  simp only [read8, h]

/-- The unlatched 64-bit registers of a function. -/
theorem reg64_unlatched (h : off ∈ [0x28, 0x30, 0x38, 0x408, 0x3E00] ∨ f = 0 ∧ off ∈ [0x80, 0x3810]) :
    off % 8 = 0 ∧ narrow (off + 4) = true ∧ ∀ t : State, ∃ v, reg64 t f off = some (v, false) := by
  simp only [List.mem_cons, List.not_mem_nil, or_false] at h
  rcases h with (rfl | rfl | rfl | rfl | rfl) | ⟨rfl, rfl | rfl⟩
  all_goals exact ⟨by decide, by decide, fun t => ⟨_, rfl⟩⟩

theorem func_setSplit (v : Option Nat) : (setSplit f off v s).func f =
    { s.func f with split := v.elim (Tbl.del off (s.func f).split) fun w => Tbl.put off w (s.func f).split } := by
  cases v <;> exact func_setFunc_self ..

theorem reaches_setSplit (v : Option Nat) : reaches f (setSplit f off v s) = reaches f s := by
  have hd3 : ((setSplit f off v s).func f).d3hot = (s.func f).d3hot := by rw [func_setSplit]
  have hrun : (setSplit f off v s).running = s.running := rfl
  have hide : (setSplit f off v s).ideBlocks = s.ideBlocks := rfl
  rw [reaches, reaches, hd3, hrun, hide]

/-! ### The configuration store (R691) -/

theorem applyStored_port {p : Nat} (h : p < 12) (value : Nat) (s : State) :
    applyStored (0x2300 + 4 * p) value s = applyPortCfg p value s := by
  simp only [applyStored, arrayAt_self h]

theorem applyStored_pair {p : Nat} (h : p < 4) (value : Nat) (s : State) :
    applyStored (0x2340 + 4 * p) value s = applyPairCfg p value s := by
  simp only [applyStored, arrayAt_self h, arrayAt_above (base := 0x2300) (n := 12) (off := 0x2340 + 4 * p) (by omega)]

theorem applyStored_loop {p : Nat} (h : p < 4) (value : Nat) (s : State) : applyStored (0x5410 + 4 * p) value s = applyLoop p s := by
  simp only [applyStored, arrayAt_self h, arrayAt_above (base := 0x2300) (n := 12) (off := 0x5410 + 4 * p) (by omega),
    arrayAt_above (base := 0x2340) (n := 4) (off := 0x5410 + 4 * p) (by omega)]

theorem applyStored_other (h : off < 0x2300 ∨ (0x2350 ≤ off ∧ off < 0x5410) ∨ 0x5420 ≤ off) (value : Nat) (s : State) :
    applyStored off value s = if off = 0x3004 then shrinkRing (s.arc.held 1) s
      else if off = 0x3408 then { s with ev := Tbl.upd {} (evKey .pke 0) (fun r => { r with enable := value }) s.ev }
      else if 0x6400 ≤ off ∧ off ≤ 0x642C then
        { s with sck := { s.sck with waiting := if s.sck.waiting.contains off then s.sck.waiting else s.sck.waiting ++ [off] } }
      else s := by
  have hport : arrayAt off 0x2300 4 12 = none := if_neg (by omega)
  have hpair : arrayAt off 0x2340 4 4 = none := if_neg (by omega)
  have hloop : arrayAt off 0x5410 4 4 = none := if_neg (by omega)
  simp only [applyStored, hport, hpair, hloop]

/-- The state with the oldest write in the store. -/
theorem exec_settingStore {key : Nat} {l : List (Nat × Nat)} (hrun : s.running = true) (hw : s.writes = (key, value) :: l) :
    exec .settingStore s = .next (storeValue key value { s with writes := l }) := by
  refine (onMain_running hrun _).trans ?_
  simp only [hw]

theorem storeValue_plain {key : Nat} (h : key < 0x2300 ∨ 0x2350 ≤ key) (s : State) : storeValue key value s =
    if key < 65536 then applyStored key value { s with store := Tbl.put key value s.store, rw := Tbl.put key value s.rw }
    else { s with store := Tbl.put key value s.store, rw := Tbl.put key value s.rw } := by
  have hport : (decide (0x2300 ≤ key) && decide (key < 0x2350)) = false := by
    rw [Bool.and_eq_false_iff, decide_eq_false_iff_not, decide_eq_false_iff_not]
    omega
  simp only [storeValue, hport, Bool.false_eq_true, if_false]

theorem storeValue_port {key : Nat} (h : 0x2300 ≤ key ∧ key < 0x2350) (s : State) :
    storeValue key value s = applyStored key value { s with store := Tbl.put key value s.store } := by
  have hport : (decide (0x2300 ≤ key) && decide (key < 0x2350)) = true := by
    rw [Bool.and_eq_true, decide_eq_true_iff, decide_eq_true_iff]
    exact h
  simp only [storeValue, hport, if_true]
  exact if_pos (by omega)

/-! ### Accesses that do not reach the function (R415, R679) -/

theorem viaBar_unreached (h : reaches f s = false) (k : Host.Outcome State Fault Refusal) :
    viaBar f s k = .next (if s.running then { s with out := .unsupported f :: s.out } else s) := by
  by_cases hrun : s.running = true
  · have hblocked : (s.ideBlocks || (s.func f).d3hot) = true := by
      rw [reaches, hrun, Bool.true_and, ← Bool.not_or] at h
      exact (Bool.not_eq_false _).mp fun hn => Bool.noConfusion (h.symm.trans (congrArg Bool.not hn))
    rw [if_pos hrun]
    exact (if_neg (by simp [hrun])).trans (if_pos hblocked)
  · rw [if_neg hrun]
    exact if_pos (by simpa using hrun)

/-! ### Counter selectors, rows and settings -/

theorem streamCounterLatch_answers {entry : Nat} {error : Bool} (hr : reaches f s = true) :
    ∃ t, execStreamCounterLatch f entry error s = .next t := by
  rw [execStreamCounterLatch, viaBar_reaches hr]
  exact ⟨_, rfl⟩

theorem portCounterLatch_answers (hr : reaches 0 s = true) : ∃ t, execPortCounterLatch n s = .next t := by
  rw [execPortCounterLatch, viaBar_reaches hr]
  exact ⟨_, rfl⟩

theorem exec_writeStreamSel (hr : reaches f s = true) (hf : f ≤ 63) (hv : value < 2 ^ 32) :
    exec (.registerWrite f 0x2140 4 value i) s = if bitOf value 31 then exec (.streamCounterLatch f (fieldOf value 16 0) false) s
      else .next { s with fe := { s.fe with latch := Tbl.put f { s.latchOf f with entry := fieldOf value 16 0 } s.fe.latch } } := by
  rw [exec_writeFn hr hf hv (by decide) (by decide) (by decide) (by decide) ⟨by decide, by decide, by decide⟩]
  change Host.Outcome.next (writeStreamSel f value s) = _
  rw [writeStreamSel]
  split
  · exact stateOf_of_next (streamCounterLatch_answers hr)
  · rfl

theorem exec_writePortSel (hr : reaches 0 s = true) (hv : value < 2 ^ 32) :
    exec (.registerWrite 0 0x2400 4 value i) s = if bitOf value 31 then exec (.portCounterLatch (fieldOf value 3 0)) s
      else .next { s with fe := { s.fe with portLatch := { s.fe.portLatch with entry := fieldOf value 3 0 } } } := by
  rw [exec_writePf hr hv (by decide) (by decide) (by decide) (fnQuiet_of_high (by decide) (by decide))]
  change Host.Outcome.next (writePortSel value s) = _
  rw [writePortSel]
  split
  · exact stateOf_of_next (portCounterLatch_answers hr)
  · rfl

/-- A write to the configuration of a ring acts as the ring's rows do (R418, R420). -/
theorem exec_writeRing_cfg (hr : reaches f s = true) (hf : f ≤ 63) (hv : value < 2 ^ 32) (hring : ring < 64) :
    exec (.registerWrite f (0x1800 + 32 * ring + 0x10) 4 value i) s =
      if bitOf value 31 = true then exec (.ringEnable f ring value) s
      else if (s.ring f ring).enabled = true then exec (.ringDrain f ring) s
      else .next (if (s.ring f ring).active then s else s.setRing f ring (ringCfg (s.ring f ring) value)) := by
  rw [exec_writeRing hr hf hv hring (by decide) (by decide), writeRing]
  simp only [true_and]
  split
  · exact stateOf_of_next (ringEnable_answers hr)
  · split
    · exact stateOf_of_next (ringDrain_answers hr)
    · rfl

/-- The registers of the PF whose write is a row of its own (R687). -/
theorem exec_writeRow (hr : reaches 0 s = true) (hv : value < 2 ^ 32) {x : Nat × Instr}
    (hx : x ∈ [(0x0090, .moduleResetRequest (fieldOf value 15 0) i), (0x3004, .ringZonesWrite value), (0x3820, .testPatternWrite value),
      (0x6400, .refPriorityWrite value), (0x6410, .ptpCfgWrite value), (0x6420, .tenMhzCfgWrite value),
      (0x642C, .refChannelWrite value)]) : exec (.registerWrite 0 x.1 4 value i) s = exec x.2 s := by
  simp only [List.mem_cons, List.not_mem_nil, or_false] at hx
  rcases hx with rfl | rfl | rfl | rfl | rfl | rfl | rfl
  · exact (exec_writePf (off := 0x0090) hr hv (by decide) (by decide) (by decide) ⟨by decide, by decide, by decide, by decide⟩).trans
      (stateOf_of_next (moduleResetRequest_answers hr))
  · exact (exec_writePf (off := 0x3004) hr hv (by decide) (by decide) (by decide) (fnQuiet_of_high (by decide) (by decide))).trans
      (viaBar_reaches hr _).symm
  · exact (exec_writePf (off := 0x3820) hr hv (by decide) (by decide) (by decide) (fnQuiet_of_high (by decide) (by decide))).trans
      (stateOf_of_next (testPatternWrite_answers hr))
  · exact (exec_writeSetting (n := 0) (by decide) hr hv).trans (viaBar_reaches hr _).symm
  · exact (exec_writeSetting (n := 4) (by decide) hr hv).trans (viaBar_reaches hr _).symm
  · exact (exec_writeSetting (n := 8) (by decide) hr hv).trans (viaBar_reaches hr _).symm
  · exact (exec_writeSetting (n := 11) (by decide) hr hv).trans (viaBar_reaches hr _).symm

theorem writeArray_markVid (h : n < 12) : writeArray (0x2200 + 4 * n) value s =
    some (if s.portAbsent n then s else queueWrite (regKey 0 (0x2200 + 4 * n)) (fieldOf value 11 0) s) := by
  rw [writeArray, arrayAt_self h]
  rfl

theorem writeArray_port (h : n < 12) : writeArray (0x2300 + 4 * n) value s = some (stateOf s (execPortCfgWrite n value s)) := by
  rw [writeArray, arrayAt_above (base := 0x2200) (n := 12) (by omega), arrayAt_self h]
  rfl

theorem writeArray_pair (h : n < 4) : writeArray (0x2340 + 4 * n) value s = some (stateOf s (execPairCfgWrite n value s)) := by
  rw [writeArray, arrayAt_above (base := 0x2200) (n := 12) (by omega), arrayAt_above (base := 0x2300) (n := 12) (by omega),
    arrayAt_self h]
  rfl

theorem writeArray_group (h : n < 14) : writeArray (0x4800 + 4 * n) value s = some (writeGroup n value s) := by
  rw [writeArray, arrayAt_above (base := 0x2200) (n := 12) (by omega), arrayAt_above (base := 0x2300) (n := 12) (by omega),
    arrayAt_above (base := 0x2340) (n := 4) (by omega), arrayAt_self h]
  rfl

theorem writeArray_core (h : n < 48) : writeArray (0x4840 + 4 * n) value s = some (stateOf s (execCoreGroupsWrite n value s)) := by
  rw [writeArray, arrayAt_above (base := 0x2200) (n := 12) (by omega), arrayAt_above (base := 0x2300) (n := 12) (by omega),
    arrayAt_above (base := 0x2340) (n := 4) (by omega), arrayAt_above (base := 0x4800) (n := 14) (by omega), arrayAt_self h]
  rfl

theorem writeArray_level (h : n < 12) : writeArray (0x4A10 + 4 * n) value s =
    some (if s.portAbsent n ∨ 4096 < fieldOf value 12 0 then s else queueWrite (regKey 0 (0x4A10 + 4 * n)) (fieldOf value 12 0) s) := by
  rw [writeArray, arrayAt_above (base := 0x2200) (n := 12) (by omega), arrayAt_above (base := 0x2300) (n := 12) (by omega),
    arrayAt_above (base := 0x2340) (n := 4) (by omega), arrayAt_above (base := 0x4800) (n := 14) (by omega),
    arrayAt_above (base := 0x4840) (n := 48) (by omega), arrayAt_self h]
  rfl

theorem writeArray_loop (h : n < 4) : writeArray (0x5410 + 4 * n) value s = some (writeLoopCfg n value s) := by
  rw [writeArray, arrayAt_above (base := 0x2200) (n := 12) (by omega), arrayAt_above (base := 0x2300) (n := 12) (by omega),
    arrayAt_above (base := 0x2340) (n := 4) (by omega), arrayAt_above (base := 0x4800) (n := 14) (by omega),
    arrayAt_above (base := 0x4840) (n := 48) (by omega), arrayAt_above (base := 0x4A10) (n := 12) (by omega), arrayAt_self h]
  rfl

/-- A priority list holds no reference twice, and none after "none" (R700). -/
theorem priorityOk_iff (a b d : Nat) : priorityOk a b d = true ↔
    (a = 3 → b = 3 ∧ d = 3) ∧ (b = 3 → d = 3) ∧ (a ≠ 3 → a ≠ b ∧ a ≠ d) ∧ (b ≠ 3 → b ≠ d) := by
  simp only [priorityOk, Bool.and_eq_true, Bool.or_eq_true, bne_iff_ne, beq_iff_eq]
  omega

/-- The settings of the slot clock that no row writes: their offsets, ranges and writable bits (R692). -/
theorem settings_ranged (value : Nat) : ∀ x ∈ ([(0x6404, decide (100 ≤ fieldOf value 19 0 ∧ fieldOf value 19 0 ≤ 1000000), 0xFFFFF),
    (0x6408, decide ((10 ≤ fieldOf value 11 0 ∧ fieldOf value 11 0 ≤ 3600) ∧ 1 ≤ fieldOf value 25 16 ∧ fieldOf value 25 16 ≤ 600), 0x3FF0FFF),
    (0x640C, decide (1 ≤ fieldOf value 9 0 ∧ fieldOf value 9 0 ≤ 1000), 0x3FF),
    (0x6414, logOk (fieldOf value 3 0) && decide (fieldOf value 7 4 ≤ 2) && logOk (fieldOf value 11 8), 0xFFF), (0x6418, true, 0xFFFF),
    (0x641C, decide (fieldOf value 19 0 ≤ 1000000) && fieldOf value 21 20 != 3, 0x3FFFFF), (0x6424, true, 0xFF),
    (0x6428, decide (fieldOf value 14 8 ≤ 100), 0x7F01)] : List (Nat × Bool × Nat)),
    (∃ n < 12, x.1 = 0x6400 + 4 * n) ∧ settingOk x.1 value = x.2.1 ∧ settingMask x.1 = x.2.2 := by
  simp only [List.forall_mem_cons, List.not_mem_nil, false_implies, implies_true, and_true, Bool.decide_and, settingMask]
  exact ⟨⟨⟨1, by decide, rfl⟩, rfl⟩, ⟨⟨2, by decide, rfl⟩, Bool.and_assoc ..⟩, ⟨⟨3, by decide, rfl⟩, rfl⟩,
    ⟨⟨5, by decide, rfl⟩, rfl⟩, ⟨⟨6, by decide, rfl⟩, rfl⟩, ⟨⟨7, by decide, rfl⟩, rfl⟩, ⟨⟨9, by decide, rfl⟩, rfl⟩,
    ⟨⟨10, by decide, rfl⟩, rfl⟩⟩

/-- The lone registers of every function (R459, R692). -/
theorem exec_writeFn_lone (hr : reaches f s = true) (hf : f ≤ 63) (hv : value < 2 ^ 32) {x : Nat × State}
    (hx : x ∈ [(0x0040, if bitOf value 0 then abortPort f false s else s),
      (0x0044, if 1 ≤ fieldOf value 9 0 ∧ fieldOf value 9 0 ≤ 600 then { s with rw := Tbl.put (regKey f 0x0044) (fieldOf value 9 0) s.rw } else s),
      (0x1008, if fieldOf value 13 0 ≤ 10000 then queueWrite (regKey f 0x1008) (fieldOf value 13 0) s else s)]) :
    exec (.registerWrite f x.1 4 value i) s = .next x.2 := by
  simp only [List.mem_cons, List.not_mem_nil, or_false] at hx
  rcases hx with rfl | rfl | rfl
  · exact exec_writeFn (off := 0x0040) hr hf hv (by decide) (by decide) (by decide) (by decide) ⟨by decide, by decide, by decide⟩
  · exact exec_writeFn (off := 0x0044) hr hf hv (by decide) (by decide) (by decide) (by decide) ⟨by decide, by decide, by decide⟩
  · exact exec_writeFn (off := 0x1008) hr hf hv (by decide) (by decide) (by decide) (by decide) ⟨by decide, by decide, by decide⟩

/-- The lone registers of the PF that no row writes (R692). -/
theorem exec_writePf_lone (hr : reaches 0 s = true) (hv : value < 2 ^ 32) {x : Nat × State}
    (hx : x ∈ [(0x3008, if 1 ≤ fieldOf value 11 0 ∧ fieldOf value 11 0 ≤ 3650 then queueWrite (regKey 0 0x3008) (fieldOf value 11 0) s else s),
      (0x5430, { s with rw := Tbl.put (regKey 0 0x5430) (fieldOf value 15 0) s.rw }), (0x5828, if bitOf value 0 then endToken s else s)]) :
    exec (.registerWrite 0 x.1 4 value i) s = .next x.2 := by
  simp only [List.mem_cons, List.not_mem_nil, or_false] at hx
  rcases hx with rfl | rfl | rfl
  · exact exec_writePf (off := 0x3008) hr hv (by decide) (by decide) (by decide) (fnQuiet_of_high (by decide) (by decide))
  · exact exec_writePf (off := 0x5430) hr hv (by decide) (by decide) (by decide) (fnQuiet_of_high (by decide) (by decide))
  · exact exec_writePf (off := 0x5828) hr hv (by decide) (by decide) (by decide) (fnQuiet_of_high (by decide) (by decide))

/-- A 64-bit register ignores a 4-byte write, which ends a read in halves (R693). -/
theorem write4_wide (h : (reg64 s f off).isSome = true) : write4 f off value i s = setSplit f off none s := by
  simp only [write4, h, Bool.true_or, if_true]

/-- A function ignores a write to an offset that it does not have (R687, R688). -/
theorem write4_foreign (hf : 63 < f ∨ f ≠ 0 ∧ 0x4000 ≤ off) (h : reg64 s f off = none) (h' : off < 4 ∨ reg64 s f (off - 4) = none) :
    write4 f off value i s = s := by
  have hbelow : (decide (4 ≤ off) && (reg64 s f (off - 4)).isSome) = false := by
    rcases h' with h' | h'
    · rw [decide_eq_false (by omega), Bool.false_and]
    · rw [h', Option.isSome_none, Bool.and_false]
  simp only [write4, h, Option.isSome_none, hbelow, Bool.or_self, Bool.false_eq_true, if_false]
  exact if_pos hf

/-- A 64-bit register that no field latches is read in halves from one value, and whole (R693). -/
theorem read_unlatched {v : Nat} (hr : reaches f s = true) (hoff : off ∈ [0x28, 0x30, 0x38, 0x408, 0x3E00] ∨ f = 0 ∧ off ∈ [0x80, 0x3810])
    (hv : reg64 (readView s) f off = some (v, false)) :
    Answers (.splitRegisterRead f off 8) s (fun t => t.out = .read f off v :: s.out) ∧
    Answers (.splitRegisterRead f off 4) s (fun t => t.out = .read f off (v % 2 ^ 32) :: s.out ∧
      ∀ now < 2 ^ 64, Answers (.splitRegisterRead f (off + 4) 4) { t with sck := { t.sck with now := now } }
        (fun u => u.out = .read f (off + 4) (v / 2 ^ 32 % 2 ^ 32) :: t.out)) := by
  obtain ⟨halign, hnarrow, hevery⟩ := reg64_unlatched hoff
  have hwhole : barRead f off 8 s = (v, setSplit f off none s) :=
    (if_neg (by omega)).trans ((if_pos ⟨rfl, halign⟩).trans (read8_wide hv))
  have hlow : barRead f off 4 s = (lo32 v, setSplit f off (some v) s) := (if_pos ⟨rfl, by omega⟩).trans (read4_low hv)
  have hkept : Tbl.find? off ((setSplit f off (some v) s).func f).split = some v := by
    rw [func_setSplit]
    exact Tbl.find?_put_self ..
  refine ⟨answers_next ((exec_splitRegisterRead hr).trans (by rw [hwhole])) rfl,
    answers_next ((exec_splitRegisterRead hr).trans (by rw [hlow])) ⟨rfl, fun now _ => ?_⟩⟩
  generalize ht : { emit (.read f off (lo32 v)) (setSplit f off (some v) s) with
    sck := { (emit (.read f off (lo32 v)) (setSplit f off (some v) s)).sck with now := now } } = t
  have hrt : reaches f t = true := by
    rw [← ht]
    exact (reaches_setSplit (some v)).trans hr
  have hkt : Tbl.find? off (t.func f).split = some v := by
    rw [← ht]
    exact hkept
  have hout : t.out = .read f off (lo32 v) :: s.out := by
    rw [← ht]
    rfl
  obtain ⟨w, hw⟩ := hevery (readView t)
  have hhigh : barRead f (off + 4) 4 t = (hi32 v, setSplit f off none t) := by
    refine (if_pos ⟨rfl, by omega⟩).trans ?_
    rw [read4_high (reg64_of_narrow hnarrow) hw, hkt, Option.getD_some]
  refine answers_next ((exec_splitRegisterRead hrt).trans (by rw [hhigh])) ?_
  exact congrArg (.read f (off + 4) (hi32 v) :: ·) hout

/-- The settings whose value, once stored, changes nothing but the register (R691). -/
theorem storeValue_quiet {key : Nat} (h : 65536 ≤ key ∨ key < 0x2300 ∨ (0x2350 ≤ key ∧ key < 0x3004) ∨ (0x3408 < key ∧ key < 0x5410))
    (s : State) : storeValue key value s = { s with store := Tbl.put key value s.store, rw := Tbl.put key value s.rw } := by
  rw [storeValue_plain (by omega)]
  by_cases hbig : key < 65536
  · rw [if_pos hbig, applyStored_other (by omega), if_neg (by omega), if_neg (by omega), if_neg (by omega)]
  · rw [if_neg hbig]

end

/-- Settles O50: a write at a narrow offset is that of the one register it names, a read captures a 64-bit register whole, and a
stored value takes effect by its place. -/
theorem registerCommands : Obligations.RegisterCommands := by
  unfold Obligations.RegisterCommands
  refine ⟨?writes, ?wide, ?fnLone, ?ringFields, ?ringCfg, ?msix, ?events, ?selectors, ?rows, ?pfLone, ?settings, ?reads, ?halves,
    ?priority, ?ptp, ?tenMhz, ?channel, ?ringZones, ?loops, ?store, ?storeEmpty, ?identity, ?status, ?silent, ?unreached⟩
  case writes =>
    intro f offset len value i s hr
    refine ⟨exec_registerWrite hr, fun h8 => ?_, fun ⟨h4, h8⟩ => ?_, fun ⟨halign, hforeign, hnone, hbelow⟩ => ?_⟩
    · exact (viaBar_reaches hr _).trans ((if_neg (by omega)).trans (if_pos ⟨rfl, h8⟩))
    · exact (viaBar_reaches hr _).trans ((if_neg h4).trans (if_neg h8))
    · rw [exec_registerWrite hr halign, write4_foreign hforeign hnone hbelow]
  case wide =>
    intro f offset value i s ⟨hr, halign⟩ hwide
    rw [exec_registerWrite hr halign, write4_wide hwide]
  case fnLone => exact fun f value i s ⟨hr, hf, hv⟩ x hx => exec_writeFn_lone hr hf hv hx
  case ringFields => exact fun f ring value i s ⟨hr, hf, hv, hring⟩ x hx => exec_writeRing_field hr hf hv hring hx
  case ringCfg =>
    intro f ring value i s ⟨hr, hf, hv, hring⟩
    rw [exec_writeRing_cfg hr hf hv hring]
    refine ⟨fun hbit => if_pos hbit, fun ⟨hbit, hen⟩ => ?_, fun ⟨hbit, hen⟩ => ?_⟩
    · exact (if_neg (by simp [hbit])).trans (if_pos hen)
    · exact (if_neg (by simp [hbit])).trans (if_neg (by simp [hen]))
  case msix => exact fun f n value a d m i s ⟨hr, hf, hv, hn⟩ hrow x hx => exec_writeMsix hr hf hv hn hrow hx
  case events =>
    intro f value i s ⟨hr, hf, hv⟩ x hx
    exact ⟨exec_writeEvent false hr hf hv hx, (exec_writeEvent true hr hf hv hx).trans rfl⟩
  case selectors =>
    intro f value i s ⟨hr, hf, hv⟩
    refine ⟨exec_writeStreamSel hr hf hv, ?_⟩
    rintro rfl
    exact exec_writePortSel hr hv
  case rows =>
    intro value i s ⟨hr, hv⟩
    refine ⟨fun x hx => exec_writeRow hr hv hx, fun p hp => ?_, fun q hq => ?_, fun n hn => ?_, fun n hn => ?_⟩
    · rw [exec_writeArray (a := (0x2300, 12)) (by decide) hp hr hv, writeArray_port hp]
      exact stateOf_of_next (portCfgWrite_answers hr)
    · rw [exec_writeArray (a := (0x2340, 4)) (by decide) hq hr hv, writeArray_pair hq]
      exact stateOf_of_next (pairCfgWrite_answers hr)
    · rw [exec_writeArray (a := (0x4840, 48)) (by decide) hn hr hv, writeArray_core hn]
      exact stateOf_of_next (coreGroupsWrite_answers hr)
    · rw [exec_writeArray (a := (0x5410, 4)) (by decide) hn hr hv, writeArray_loop hn]
      exact (viaBar_reaches hr _).symm
  case pfLone =>
    intro value i s ⟨hr, hv⟩
    refine ⟨fun x hx => exec_writePf_lone hr hv hx, fun p hp => ?_, fun p hp => ?_, fun g hg => ?_⟩
    · rw [exec_writeArray (a := (0x2200, 12)) (by decide) hp hr hv, writeArray_markVid hp, Option.getD_some]
    · rw [exec_writeArray (a := (0x4A10, 12)) (by decide) hp hr hv, writeArray_level hp, Option.getD_some]
    · rw [exec_writeArray (a := (0x4800, 14)) (by decide) hg hr hv, writeArray_group hg, Option.getD_some]
      rfl
  case settings =>
    intro value i s ⟨hr, hv⟩ x hx
    obtain ⟨⟨n, hn, hplace⟩, hok, hmask⟩ := settings_ranged value x hx
    rw [← hok, ← hmask, hplace, exec_writeSetting hn hr hv]
    rfl
  case reads =>
    intro f offset len s hr
    refine ⟨exec_splitRegisterRead hr, fun ⟨h4, h8⟩ => ?_, ?_, fun ⟨halign, hnone, hbelow, hdeny⟩ => ?_⟩
    · have hzero : barRead f offset len s = (0, s) := (if_neg h4).trans (if_neg h8)
      rw [exec_splitRegisterRead hr, hzero]
    · rintro rfl
      have hread : barRead 0 0x5008 4 s = (reg32 (readView s) 0 0x5008, { s with ac := { s.ac with record := none } }) :=
        (if_pos ⟨rfl, rfl⟩).trans (read4_narrow (reg64_of_narrow (by decide)) (.inr (reg64_of_narrow (by decide))))
      rw [exec_splitRegisterRead hr, hread]
      rfl
    · have hread : barRead f offset 4 s = (reg32 (readView s) f offset, s) := by
        refine (if_pos ⟨rfl, halign⟩).trans ?_
        rw [read4_narrow hnone hbelow, if_neg hdeny]
      rw [exec_splitRegisterRead hr, hread]
  case halves => exact fun f offset v s ⟨hr, hoff⟩ hv => read_unlatched hr hoff hv
  case priority =>
    intro value s hr a b d ⟨ha, hb, hd⟩
    subst ha hb hd
    refine (viaBar_reaches hr _).trans (congrArg Host.Outcome.next ?_)
    exact ite_congr (propext (priorityOk_iff ..)) (fun _ => rfl) fun _ => rfl
  case ptp =>
    intro value s hr
    refine (viaBar_reaches hr _).trans (congrArg Host.Outcome.next ?_)
    exact ite_congr (propext (by simp [settingOk])) (fun _ => rfl) fun _ => rfl
  case tenMhz =>
    intro value s hr
    refine (viaBar_reaches hr _).trans (congrArg Host.Outcome.next ?_)
    exact ite_congr (propext (by simp [settingOk])) (fun _ => rfl) fun _ => rfl
  case channel => exact fun value s hr => viaBar_reaches hr _
  case ringZones => exact fun value s hr => viaBar_reaches hr _
  case loops =>
    intro loop value s hr
    refine (viaBar_reaches hr _).trans (congrArg Host.Outcome.next ?_)
    rw [writeLoopCfg]
    by_cases hrange : 3 < loop ∨ 1000 < fieldOf value 13 4
    · rw [if_pos hrange, if_neg fun h => by omega]
    · simp only [if_neg hrange]
      by_cases hloose : s.lcc.st = .fielded ∧ loosens (s.soon (regKey 0 (0x5410 + 4 * loop)) (s.loopCfg loop)) (fieldOf value 13 0) = true
      · rw [if_pos hloose, if_neg fun h => h.2.2 hloose]
      · rw [if_neg hloose, if_pos ⟨by omega, by omega, hloose⟩]
  case store =>
    intro key value l s u hrun hu hw
    subst hu
    rw [exec_settingStore hrun hw]
    refine ⟨fun hkey => ?_, ?_, ?_, ?_, ?_, ?_, ?_⟩
    · rw [storeValue_quiet hkey]
    · rintro rfl
      rw [storeValue_plain (by omega), if_pos (by omega), applyStored_other (by omega), if_pos rfl]
    · rintro rfl
      rw [storeValue_plain (by omega), if_pos (by omega), applyStored_other (by omega), if_neg (by omega), if_pos rfl]
    · rintro n hn rfl
      rw [storeValue_plain (by omega), if_pos (by omega), applyStored_loop hn]
    · rintro n hn rfl
      rw [storeValue_plain (by omega), if_pos (by omega), applyStored_other (by omega), if_neg (by omega), if_neg (by omega),
        if_pos (by omega)]
    · rintro p hp rfl
      rw [storeValue_port (by omega), applyStored_port hp]
    · rintro q hq rfl
      rw [storeValue_port (by omega), applyStored_pair hq]
  case storeEmpty =>
    intro s hrun hw
    refine (onMain_running hrun _).trans ?_
    rw [hw]
  case identity => exact fun address s ⟨hans, haddr⟩ => if_pos (by simp [hans, haddr])
  case status =>
    intro address s ⟨hans, haddr, hscrap⟩
    have hcond : (smbusAnswers s && address == smbusAddress s.io && !scrapped s) = true := by simp [hans, haddr, hscrap]
    exact ⟨if_pos hcond, fun hmain => (if_pos hcond).trans (if_pos hmain),
      fun hmain => ⟨_, _, _, (if_pos hcond).trans (if_neg (by simp [mainOn, hmain]))⟩⟩
  case silent =>
    intro address s h
    have hcond : ¬ (smbusAnswers s && address == smbusAddress s.io && !scrapped s) = true := by
      rcases h with h | h | h <;> simp [h]
    exact ⟨if_neg hcond, if_neg hcond, fun h => if_neg (by rcases h with h | h <;> simp [h])⟩
  case unreached =>
    intro f offset len value i s hr c hc
    rw [List.mem_append] at hc
    rcases hc with hc | hc
    · simp only [List.mem_cons, List.not_mem_nil, or_false] at hc
      rcases hc with rfl | rfl <;> exact viaBar_unreached hr _
    · split at hc
      · subst f
        simp only [List.mem_cons, List.not_mem_nil, or_false] at hc
        rcases hc with rfl | rfl | rfl | rfl | rfl | rfl <;> exact viaBar_unreached hr _
      · exact absurd hc List.not_mem_nil

end Sys2Proof.Machine

/-! ## Memory errors and the copies at the egress ports

A word that fails its code is counted and its region recovers (R570 to R584). A copy at the head of its port is discarded, lost
or transmitted; which of these its waiting time, the port's MACsec and its budget decide (R173 to R178, R204, R225). -/

namespace Sys2Proof.Machine

section
variable {s : State} {addr : Nat}

/-! ### Errors and their recovery (R570 to R578) -/

theorem memoryError_eq (addr : Nat) (e : MemErr) (s : State) : memoryError addr e s =
    recover addr e (burstCheck addr e.region (raiseEvent .ac 0 3
      { s with ac := { s.ac with integ := Tbl.put e.region (min 0xFFFFFFFF (Tbl.get 0 s.ac.integ e.region + 1)) s.ac.integ } })) := by
  rw [memoryError, satTo_eq_min]
  rfl

theorem exec_memoryError (hrun : s.running = true) (w : WordRead) :
    exec (.memoryError w) s = .next (if w.fails then memoryError w.addr w.what s else s) := by
  refine (onMain_running hrun _).trans ?_
  cases w.fails <;> rfl

theorem exec_scrubRead (hrun : s.running = true) (w : WordRead) (last : Bool) : exec (.scrubRead w last) s = exec (.memoryError w)
    (if last then { s with ac := { s.ac with passes := min 0xFFFF (s.ac.passes + 1) } } else s) := by
  rw [exec_memoryError (s := if last then { s with ac := { s.ac with passes := min 0xFFFF (s.ac.passes + 1) } } else s)
    (by cases last <;> exact hrun)]
  refine (onMain_running hrun _).trans ?_
  simp only [satTo_eq_min]
  cases w.fails <;> rfl

theorem recover_plan {f entry : Nat} {p : Partition} (h : Tbl.find? f s.pln.parts = some p) :
    (recover addr (.plan f entry false) s).pln.parts = Tbl.put f { p with reload := noteOnce entry s.sck.now p.reload } s.pln.parts := by
  simp only [recover, markEntry, h, keyEdges_frame, Bool.false_eq_true, if_false]

theorem recover_key {h : Nat} {k : LoadedKey} (hk : s.key? h = some k) : (recover addr (.key h) s).key =
    { s.key with keys := Tbl.put h { k with faulted := true } s.key.keys, lostAt := noteOnce h s.sck.now s.key.lostAt } := by
  simp only [recover, keyError, hk, keyEdges_frame]

theorem recover_staging {i : Nat} {ok : Bool} {st : Staged} (h : s.arc.staging[i]? = some st) :
    (recover addr (.staging i ok) s).arc.lostTotal = s.arc.lostTotal + 1 ∧
    ∃ r, (recover addr (.staging i ok) s).arc.staging = s.arc.staging.eraseIdx i ++ [r] ∧ r.typ = 2 ∧ r.owner = 0x7F := by
  simp only [recover, stagingError, h, stageRec, stageWith]
  exact ⟨trivial, _, rfl, rfl, rfl⟩

theorem recover_core {n : Nat} (hst : (s.coreRt n).st = .waiting) (hitem : (s.coreRt n).item = none) :
    recover addr (.core n) s = securityRec secCoreRestart n 0 0 (failCore n none 0 1 (raiseEvent .ts 0 1 s)) := by
  simp only [recover, coreError, hst, hitem, true_or, if_true]

/-- An error in an in-flight context spares a completion that is staged, and starts over what has moved nothing (R578). -/
theorem recover_ctx {id : Nat} {c : Ctx} (h : s.ctx? id = some c) (w : Bool) : recover addr (.ctx id w) s =
    if c.comp.isSome then s
    else if w && !portMoved s c then
      (((s.setCtx { c with recomputed := true }).ts.items.find? fun i => i.kind == .ctx id && i.core.isSome).elim
        (s.setCtx { c with recomputed := true }) fun i =>
          redispatch i.id (ctxError.leaveCoreOnly i.id (s.setCtx { c with recomputed := true })))
    else finishCtx c (bare stIntegrityLost) (leaveCore id s) := by
  simp only [recover, ctxError, h]
  cases (s.setCtx { c with recomputed := true }).ts.items.find? fun i => i.kind == .ctx id && i.core.isSome <;> rfl

theorem exec_busIntegrityError {x : Access} {m : Option MemErr} {again : Bool} {u : State} (hrun : s.running = true)
    (hu : u = raiseEvent .ac 0 1 { s with ac := { s.ac with retried := min 0xFFFFFFFF (s.ac.retried + 1) } }) (hgroup : x.group ≠ 11) :
    exec (.busIntegrityError x m again) s = .next (if again then (m.elim id (recover x.addr)) (raiseLogic 4 (groupBlock x) x.group x.addr
      (raiseEvent .ac 0 2 { u with ac := { u.ac with failed := min 0xFFFF (u.ac.failed + 1) } })) else access x u) := by
  subst hu
  refine (onMain_running hrun _).trans ((if_neg hgroup).trans ?_)
  simp only [satTo_eq_min]
  cases again
  · rfl
  · cases m <;> rfl

/-! ### A port begins a copy (R173 to R178, R204, R225) -/

variable {port stamp : Nat} {c : TxCopy} {fr : TxFrame}

theorem exec_copyTransmitStart (hrun : s.running = true) (hnext : nextCopy port s.fe.copies = some c) (hcore : c.core = none)
    (hfr : s.frameOf c = some fr) : exec (.copyTransmitStart port stamp) s = .next (startCopy c fr stamp s) := by
  refine (onMain_running hrun _).trans ?_
  simp only [hnext, hcore, hfr]

theorem startCopy_discarded (h : 1000000 ≤ residence fr s.sck.now) : startCopy c fr stamp s = discardLate c fr s := by
  rw [startCopy, if_pos h]

/-- The port's MACsec lets a copy begin. -/
def passesMacsec (c : TxCopy) (s : State) : Bool := !(s.macsecOn c.port && s.macsecDown c.port) || s.portFailOpen c.port

theorem startCopy_lost (h : residence fr s.sck.now < 1000000) (hp : passesMacsec c s = false) :
    startCopy c fr stamp s = losePort pMacsecDown c fr s := by
  rw [passesMacsec, Bool.or_eq_false_iff, Bool.not_eq_false'] at hp
  simp only [startCopy, hp, Bool.not_false, Bool.and_self, if_true]
  exact if_neg (by omega)

theorem startCopy_begins (h : residence fr s.sck.now < 1000000) (hp : passesMacsec c s = true) : startCopy c fr stamp s =
    if fr.lateDrop && decide (fr.budget < residence fr stamp) then
      endCopy c fr (notSent c.port true 0) (missDeadline fr c.port stamp true (noteResidence fr stamp (lateMacsec c (copyBytes c fr) s).2))
    else transmit c fr stamp (lateMacsec c (copyBytes c fr) s).1 (if s.macsecOn c.port && s.macsecDown c.port then
      bumpPort c.port pBypass 1 (lateMacsec c (copyBytes c fr) s).2 else (lateMacsec c (copyBytes c fr) s).2) := by
  have hlost : ¬ (s.macsecOn c.port && s.macsecDown c.port && !s.portFailOpen c.port) = true := by
    rw [passesMacsec, Bool.or_eq_true, Bool.not_eq_true'] at hp
    rcases hp with hp | hp <;> simp [hp]
  exact (if_neg (by omega)).trans (if_neg hlost)

/-- A copy takes what MACsec applied at its hand-off. -/
theorem lateMacsec_handed {m : Option MacsecOut} {bytes : Bytes} (h : (s.macsecOn c.port = false ∧ m = none) ∨ (s.macsecOn c.port = true ∧
    s.macsecDown c.port = false ∧ c.macsec = m ∧ m.isSome = true)) : lateMacsec c bytes s = (m, s) ∧
    (s.macsecOn c.port && s.macsecDown c.port) = false := by
  rcases h with ⟨hoff, rfl⟩ | ⟨hon, hup, hm, hsome⟩
  · exact ⟨if_pos (.inl hoff), by rw [hoff, Bool.false_and]⟩
  · subst hm
    exact ⟨(if_neg (by simp [hon, hup])).trans (if_pos hsome), by rw [hup, Bool.and_false]⟩

theorem startCopy_inTime (h : residence fr s.sck.now < 1000000) (hp : passesMacsec c s = true) (hb : residence fr stamp ≤ fr.budget) :
    startCopy c fr stamp s = transmit c fr stamp (lateMacsec c (copyBytes c fr) s).1 (if s.macsecOn c.port && s.macsecDown c.port then
      bumpPort c.port pBypass 1 (lateMacsec c (copyBytes c fr) s).2 else (lateMacsec c (copyBytes c fr) s).2) := by
  rw [startCopy_begins h hp, decide_eq_false (by omega), Bool.and_false]
  rfl

theorem transmit_inTime {m : Option MacsecOut} (hb : residence fr stamp ≤ fr.budget) (s : State) : transmit c fr stamp m s =
    endCopy c fr { port := c.port, late := false, notSent := false, macsec := m.isSome, residence := residence fr stamp, egressStamp := toStamp stamp }
      (noteResidence fr stamp (bumpStream fr.entry fr.oldBank cCopiesSent
        (emit (.copy c.port fr.entry c.redSeq c.vlan m stamp fr.sec) (countSent c.port c.len m s)))) := by
  rw [transmit, decide_eq_false (by omega)]
  rfl

theorem transmit_late {m : Option MacsecOut} (hb : fr.budget < residence fr stamp) (s : State) : transmit c fr stamp m s =
    endCopy c fr { port := c.port, late := true, notSent := false, macsec := m.isSome, residence := residence fr stamp, egressStamp := toStamp stamp }
      (missDeadline fr c.port stamp false (noteResidence fr stamp (bumpStream fr.entry fr.oldBank cCopiesSent
        (emit (.copy c.port fr.entry c.redSeq c.vlan m stamp fr.sec) (countSent c.port c.len m s))))) := by
  rw [transmit, decide_eq_true hb]
  rfl

/-- A frame of the cores that takes no MACsec. -/
theorem startCore_plain {src : Nat} {x : CoreFrame} (h : (s.macsecOn c.port && !isEapol x) = false) : startCore c src x stamp s =
    (coreFollows c (s.ptpOneStep c.port) stamp x).elim id (sendPort c.port c.tclass)
      (emit (.core c.port src c.tclass c.redSeq none stamp (coreAt c (s.ptpOneStep c.port) stamp x)) (countSent c.port c.len none (dequeue c s))) := by
  simp only [startCore, h, Bool.false_and, Bool.false_eq_true, if_false]
  cases coreFollows c (s.ptpOneStep c.port) stamp x <;> rfl

theorem exec_copyDiscardTimeout {copy : Nat} (hrun : s.running = true) : exec (.copyDiscardTimeout copy) s =
    .next ((s.fe.copies.find? fun x => x.id == copy).elim s fun c => (s.frameOf c).elim s fun fr =>
      if 1000000 ≤ residence fr s.sck.now then discardLate c fr s else s) := by
  refine (onMain_running hrun _).trans ?_
  cases s.fe.copies.find? fun x => x.id == copy with
  | none => rfl
  | some c =>
    simp only [Option.elim_some]
    cases s.frameOf c with
    | none => rfl
    | some fr => exact (apply_ite Host.Outcome.next _ _ _).symm

end

/-- Settles O36: the recovery of each region by its own rule, and a copy at its port by the case it is in. -/
theorem memoryErrorsAndCopies : Obligations.MemoryErrorsAndCopies := by
  unfold Obligations.MemoryErrorsAndCopies
  refine ⟨?words, ?burst, ?regions, ?ctx, ?bus, ?copies, ?macsec, ?core, ?late⟩
  case words =>
    intro w last s hrun
    have hscrub (last : Bool) : exec (.scrubRead w last) s = _ := exec_scrubRead hrun w last
    refine ⟨fun hfails => ⟨?_, hscrub false, hscrub true⟩, fun hfails => ⟨?_, ?_⟩⟩
    · rw [exec_memoryError hrun, hfails, if_pos rfl, memoryError_eq]
    · rw [exec_memoryError hrun, hfails]
      rfl
    · rw [hscrub, exec_memoryError (s := if last then _ else s) (by cases last <;> exact hrun), hfails]
      rfl
  case burst => exact fun addr region s => ⟨fun h => if_pos h, fun h => if_neg (by omega)⟩
  case regions =>
    intro addr f entry q i h l n ok s
    refine ⟨fun p hp => recover_plan hp, fun p b hp => ?_, fun e he => ?_, fun k hk => recover_key hk, fun st hst => recover_staging hst,
      fun hl => ?_, fun hready => ?_, rfl, rfl, rfl, fun t ht => ?_, recover_core⟩
    · simp only [recover, markPacket, hp]
    · simp only [recover, dropPad, he]
    · simp only [recover, delayError, if_pos hl]
    · exact if_pos hready
    · simp only [recover, tableError, ht]
  case ctx =>
    intro addr id c s hc
    refine ⟨fun hcomp w => ?_, fun hcomp => ?_, fun hcomp hmoved => ?_, fun hcomp hmoved hitem => ?_⟩
    · rw [recover_ctx hc, if_pos hcomp]
    · rw [recover_ctx hc, hcomp]
      rfl
    · rw [recover_ctx hc, hcomp, hmoved]
      rfl
    · rw [recover_ctx hc, hitem, hcomp, hmoved]
      rfl
  case bus =>
    intro x m again u s hrun hu
    refine ⟨fun hgroup => exec_busIntegrityError hrun hu hgroup, fun hgroup => ?_, fun hgroup => ?_⟩
    · exact (onMain_running hrun _).trans (if_pos hgroup)
    · rw [exec_busIntegrityError hrun hu hgroup]
      cases m <;> rfl
  case copies =>
    intro port stamp c fr m s hrun ⟨hnext, hcore, hfr⟩ hmacsec hyoung
    obtain ⟨hlate, hup⟩ := lateMacsec_handed (bytes := copyBytes c fr) hmacsec
    have hbegins := startCopy_begins (stamp := stamp) hyoung (by rw [passesMacsec, hup]; rfl)
    rw [hlate, hup] at hbegins
    rw [exec_copyTransmitStart hrun hnext hcore hfr, hbegins]
    refine ⟨fun hb => ?_, fun hb hdrop => ?_, fun hb hdrop => ?_⟩
    · rw [decide_eq_false (by omega), Bool.and_false, if_neg (by decide), if_neg (by decide), transmit_inTime hb]
      rfl
    · rw [hdrop, Bool.false_and, if_neg (by decide), if_neg (by decide), transmit_late hb]
      rfl
    · rw [hdrop, decide_eq_true hb]
      rfl
  case macsec =>
    intro port stamp c fr s hrun
    refine ⟨fun hnext => ?_, fun hnext hcore hfr hyoung hon => ?_⟩
    · refine (onMain_running hrun _).trans ?_
      simp only [hnext]
    · rw [exec_copyTransmitStart hrun hnext hcore hfr]
      refine ⟨fun hdown hclosed => ?_, fun hdown hopen hb => ?_, fun hup hnone hb => ?_⟩
      · rw [startCopy_lost hyoung (by rw [passesMacsec, hon, hdown, hclosed]; rfl)]
      · have hlate : lateMacsec c (copyBytes c fr) s = (none, s) := if_pos (.inr hdown)
        rw [startCopy_inTime hyoung (by rw [passesMacsec, hopen, Bool.or_true]) hb, hlate, hon, hdown]
        rfl
      · have hlate : lateMacsec c (copyBytes c fr) s = applyMacsec c.port (copyBytes c fr) s :=
          (if_neg (by simp [hon, hup])).trans (if_neg (by simp [hnone]))
        rw [startCopy_inTime hyoung (by rw [passesMacsec, hup, Bool.and_false]; rfl) hb, hlate, hup, Bool.and_false]
        rfl
  case core =>
    intro port stamp src c x s hrun ⟨hnext, hcore⟩ hplain
    refine ⟨?_, fun k i d f hstep => ?_, fun k i d f hstep => ?_⟩
    · refine (onMain_running hrun _).trans ?_
      simp only [hnext, hcore, startCore_plain hplain]
      cases coreFollows c (s.ptpOneStep c.port) stamp x <;> rfl
    · rw [hstep]
      exact ⟨rfl, rfl⟩
    · rw [hstep]
      rfl
  case late =>
    intro copy port stamp c fr s hrun
    refine ⟨fun hc hfr => ?_, fun hnext hcore hfr hold => ?_, fun hc => ?_, fun hc hfr => ?_⟩
    · rw [exec_copyDiscardTimeout hrun, hc, Option.elim_some, hfr]
      rfl
    · rw [exec_copyTransmitStart hrun hnext hcore hfr, startCopy_discarded hold]
      rfl
    · rw [exec_copyDiscardTimeout hrun, hc]
      rfl
    · rw [exec_copyDiscardTimeout hrun, hc, Option.elim_some, hfr]
      rfl

end Sys2Proof.Machine

/-! ## Frames received and published

A frame passes its port, MACsec, its pair and admission; a matched one then passes the stages of its entry: the key, the check or
the generation, freshness, the slot window and the fail policies (R108, R140 to R196, R222, R225). -/

namespace Sys2Proof.Machine

section
variable {s : State} {fr : Frame} {c : Bool}

/-! ### The port, MACsec and the pair (R195, R202, R212 to R225) -/

/-- The frame has been noted and counted at its port. -/
def counted (fr : Frame) (s : State) : State :=
  bumpPort fr.port pRxBytes (lineLength fr) (bumpPort fr.port pRxFrames 1 (heard fr.port s))

theorem exec_frameReceived (hrun : s.running = true) : exec (.frameReceived fr c) s = .next
    (if s.portOn fr.port = false ∨ (s.port fr.port).linkUp = false then s
      else if fr.fcsOk = false then bumpPort fr.port pRxErrors 1 (heard fr.port s)
      else if badLength fr = true then bumpPort fr.port pRxErrors 1 (counted fr s)
      else if (counted fr s).fe.forwarding = false then bumpPort fr.port pRxAdmission 1 (counted fr s)
      else if (macsecReceive fr (counted fr s)).1 = false then (macsecReceive fr (counted fr s)).2
      else if (pairReceive fr (macsecReceive fr (counted fr s)).2).1
        then admitFrame fr c (pairReceive fr (macsecReceive fr (counted fr s)).2).2
        else (pairReceive fr (macsecReceive fr (counted fr s)).2).2) := by
  refine (onMain_running hrun _).trans ?_
  simp only [apply_ite Host.Outcome.next]
  rfl

theorem badLength_iff : badLength fr = true ↔ 9216 < fr.len ∨ lineLength fr < 64 := by
  rw [badLength, Bool.or_eq_true, decide_eq_true_iff, decide_eq_true_iff, minFrame]

/-- A frame under no condition of its port and sound under its association goes on and moves it. -/
theorem macsecReceive_tagged {u : State} {t : SecTag} {a : RxSa} (hon : u.macsecOn fr.port = true) (heapol : fr.etherType ≠ 0x888E)
    (hconds : (u.port fr.port).conds = []) (htag : fr.secTag = some t) (hsa : rxSaOf (u.port fr.port) t = some a) :
    macsecReceive fr u = if icvOk u fr.port t a = true ∧ a.nextPn ≤ t.pn + (u.port fr.port).replayWindow then
      (true, u.updPort fr.port (advanceSa (rxIv u fr.port t.channel) t)) else (false, bumpPort fr.port pRxMacsecFail 1 u) := by
  have hskip : ¬ (fr.etherType = 0x888E ∨ u.macsecOn fr.port = false) := by simp [heapol, hon]
  simp only [macsecReceive, if_neg hskip, hconds, List.isEmpty_nil, Bool.true_eq_false, if_false, htag, hsa, Bool.and_eq_true,
    decide_eq_true_eq]

/-- Without a SecTAG, or without an association for it, a frame is counted and dropped. -/
theorem macsecReceive_untagged {u : State} {t : SecTag} (hon : u.macsecOn fr.port = true) (heapol : fr.etherType ≠ 0x888E)
    (hconds : (u.port fr.port).conds = []) (h : fr.secTag = none ∨ fr.secTag = some t ∧ rxSaOf (u.port fr.port) t = none) :
    macsecReceive fr u = (false, bumpPort fr.port pRxMacsecFail 1 u) := by
  have hskip : ¬ (fr.etherType = 0x888E ∨ u.macsecOn fr.port = false) := by simp [heapol, hon]
  rcases h with h | ⟨h, hsa⟩
  · simp only [macsecReceive, if_neg hskip, hconds, List.isEmpty_nil, Bool.true_eq_false, if_false, h]
  · simp only [macsecReceive, if_neg hskip, hconds, List.isEmpty_nil, Bool.true_eq_false, if_false, h, hsa]

/-- While a condition holds only MACSEC_FAIL lets an unprotected frame pass. -/
theorem macsecReceive_down {u : State} (hon : u.macsecOn fr.port = true) (heapol : fr.etherType ≠ 0x888E)
    (hconds : (u.port fr.port).conds ≠ []) : macsecReceive fr u =
      if u.portFailOpen fr.port = true ∧ fr.secTag = none then (true, u) else (false, bumpPort fr.port pRxMacsecFail 1 u) := by
  have hskip : ¬ (fr.etherType = 0x888E ∨ u.macsecOn fr.port = false) := by simp [heapol, hon]
  have hdown : (u.port fr.port).conds.isEmpty = false := by simpa using hconds
  simp only [macsecReceive, if_neg hskip, hdown, if_true, Bool.and_eq_true, Option.isNone_iff_eq_none]

/-- A number that its source's window holds is a duplicate (R214). -/
theorem judgeDup_held {src x now : Nat} {t : Tbl DupSource} {d : DupSource} (hd : Tbl.find? src t = some d)
    (hback : (d.n + 65536 - x) % 65536 < 64) (hbit : d.window.testBit ((d.n + 65536 - x) % 65536) = true) :
    judgeDup src x now t = (1, Tbl.put src { d with last := now } t) := by
  simp only [judgeDup, hd]
  exact (if_pos hback).trans (if_pos hbit)

theorem acceptTagged_held {i x : Nat} {d : DupSource} (hd : Tbl.find? fr.srcMac (s.pair i).dup = some d)
    (hback : (d.n + 65536 - x) % 65536 < 64) (hbit : d.window.testBit ((d.n + 65536 - x) % 65536) = true) :
    acceptTagged i fr x s = (false, bumpPort fr.port pDup 1
      (s.setPair i { s.pair i with dup := Tbl.put fr.srcMac { d with last := s.sck.now } (s.pair i).dup })) := by
  rw [acceptTagged, judgeDup_held hd hback hbit]
  rfl

/-! ### Admission and matching (R108, R195, R196) -/

theorem admitFrame_cores {v : State} (hv : v = reachStamp fr.stamp s)
    (h : fr.etherType = 0x888E ∨ fr.etherType = 0x88F7 ∧ v.ptpOn fr.port = true ∨ findMatch fr v.pln.parts = none) :
    admitFrame fr c s = if fr.overload = 0 then exceptionFrame fr v else bumpPort fr.port pRxAdmission 1 v := by
  subst hv
  have hexception : admitException fr (reachStamp fr.stamp s) =
      if fr.overload = 0 then exceptionFrame fr (reachStamp fr.stamp s) else bumpPort fr.port pRxAdmission 1 (reachStamp fr.stamp s) :=
    ite_congr (propext (by simp [admitted])) (fun _ => rfl) fun _ => rfl
  rw [← hexception]
  by_cases hcores : forCores fr (reachStamp fr.stamp s) = true
  · exact if_pos hcores
  · have hnone : findMatch fr (reachStamp fr.stamp s).pln.parts = none := by
      simp only [forCores, Bool.or_eq_true, Bool.and_eq_true, beq_iff_eq] at hcores
      grind
    refine (if_neg hcores).trans ?_
    simp only [hnone]

theorem admitFrame_matched {v : State} {f n : Nat} {e : Entry} {old : Bool} (hv : v = reachStamp fr.stamp s)
    (h : ¬ (fr.etherType = 0x888E ∨ fr.etherType = 0x88F7 ∧ v.ptpOn fr.port = true)) (hm : findMatch fr v.pln.parts = some (f, n, e, old)) :
    admitFrame fr c s = if fr.overload ≤ e.tclass + 1 then
      processFrame { f, n, e, old, port := fr.port, stamp := fr.stamp, quality := (v.sck.at fr.stamp).1, fr, pub := none }
        (if c then counterError n old v else v)
      else bumpPort fr.port pRxAdmission 1 v := by
  subst hv
  have hcores : ¬ forCores fr (reachStamp fr.stamp s) = true := by
    simpa only [forCores, Bool.or_eq_true, Bool.and_eq_true, beq_iff_eq] using h
  refine (if_neg hcores).trans ?_
  simp only [hm]
  exact ite_congr (propext (by simp [admitted])) (fun _ => rfl) fun _ => rfl

end

section
variable {j : Job} {s g : State} {lost : Bool} {h : Nat} {k : LoadedKey}

/-! ### The stages of a matched frame (R140, R147, R160, R171, R179 to R187) -/

theorem processFrame_long (hlen : j.e.maxLen < j.fr.len) (s : State) :
    processFrame j s = refuse j cMalformed 4 1 false (bumpStream j.n j.old cMatched s) := if_pos hlen

theorem processFrame_open (hlen : j.fr.len ≤ j.e.maxLen) (hp : j.e.profile = 0) (s : State) : processFrame j s =
    slotStage j false (j.e.slotRate != 0 && bitOf j.quality 5) false none (bumpStream j.n j.old cPassed (bumpStream j.n j.old cMatched s)) :=
  (if_neg (by omega)).trans (if_pos hp)

/-- What becomes of a frame whose entry has a profile, by its key. -/
theorem processFrame_keyed (hlen : j.fr.len ≤ j.e.maxLen) (hp : j.e.profile ≠ 0) (hg : g = bumpStream j.n j.old cMatched s)
    (hlost : lost = (j.e.slotRate != 0 && bitOf j.quality 5)) (hh : h = chosenKey j.e (afterRoll j.e (g.rt j.n j.old) j.stamp)) :
    processFrame j s = (g.key? h).elim (policyStage j true lost false (some (secZero j none)) g) fun k =>
      if keyCondition g j.f j.n j.e j.old h j.stamp then policyStage j true lost false (some (secZero j (some k))) g
      else if entryGenerates j.e then generateStage j h k lost g else verifyStage j lost g := by
  have hcounted : jobBump j cMatched s = g := hg.symm
  refine (if_neg (by omega)).trans ((if_neg hp).trans ?_)
  simp only [hcounted, ← hh, ← hlost]
  cases g.key? h <;> rfl

/-- A tag without a pad is generated with the next value of the key's counter. -/
theorem generateStage_plain (hc : isCounter j.e.profile = false) : generateStage j h k lost g =
    slotStage j false lost false (some (secGenerated j k (takeGen h g).1
      ((padHit j.e (g.rt j.n j.old) (takeGen h g).1 j.fr.smpCnt (afterRoll j.e (g.rt j.n j.old) j.stamp)).getD
        (padOf k.material (frameIv j.e (takeGen h g).1 j.fr.smpCnt)))))
      (bumpStream j.n j.old cPassed (noteExhausted j (takeGen h g).1 (takeGen h g).2)) := by
  simp only [generateStage, hc, Bool.false_and, countMiss, Bool.false_eq_true, if_false]
  rfl

theorem verifyStage_malformed (hbad : j.fr.sec.present = false ∨ j.fr.sec.wellFormed = false) :
    verifyStage j lost g = refuse j cMalformed 4 1 false g := if_pos hbad

/-- A frame under the identifier of the chosen key is verified with that key (R156). -/
theorem verifyStage_chosen {after miss : Bool} {hit : Option (BitVec 128)} (hok : j.fr.sec.present = true ∧ j.fr.sec.wellFormed = true)
    (hafter : after = afterRoll j.e (g.rt j.n j.old) j.stamp) (hh : h = chosenKey j.e after) (hk : g.key? h = some k)
    (hid : g.keyIdent h = some j.fr.sec.keyId) (hhit : hit = padHit j.e (g.rt j.n j.old) j.fr.sec.spdu j.fr.smpCnt after)
    (hmiss : miss = (isCounter j.e.profile && hit.isNone)) : verifyStage j lost g =
      if j.fr.sec.tag ≠ frameTag k j.e.profile (hit.getD (padOf k.material (frameIv j.e j.fr.sec.spdu j.fr.smpCnt))) j.fr.sec.span j.fr.sec.payload
        then refuse j cTagFailed 1 1 miss (countMiss j miss g)
        else freshStage j after false h lost miss (countMiss j miss g) := by
  subst hmiss hhit hh hafter
  have hfound : (verifyKey g j.f j.e (afterRoll j.e (g.rt j.n j.old) j.stamp) j.stamp j.fr.sec.keyId).bind
      (fun y => (g.key? y.1).map fun k => (k, y.1, y.2)) =
        some (k, chosenKey j.e (afterRoll j.e (g.rt j.n j.old) j.stamp), false) := by
    rw [verifyKey, if_pos hid, Option.bind_some, hk, Option.map_some]
  have hgood : ¬ (j.fr.sec.present = false ∨ j.fr.sec.wellFormed = false) := by simp [hok.1, hok.2]
  simp only [verifyStage, if_neg hgood, hfound, Option.any_some, Bool.false_eq_true, if_false]

theorem freshStage_stale {after miss : Bool} (hstale : forward (freshState (g.rt j.n j.old) after false h) j.fr.sec.spdu = false) :
    freshStage j after false h lost miss g = refuse j cStale 2 1 miss g := by
  simp only [freshStage, Bool.false_eq_true, if_false, hstale, if_true]

theorem freshStage_fresh {after miss : Bool} (hfresh : forward (freshState (g.rt j.n j.old) after false h) j.fr.sec.spdu = true)
    (hc : isCounter j.e.profile = false) : freshStage j after false h lost miss g =
      slotStage j true lost miss none (bumpStream j.n j.old cPassed (g.updRt j.n j.old (setFresh after false h j.fr.sec.spdu))) := by
  simp only [freshStage, Bool.false_eq_true, if_false, hfresh, Bool.true_eq_false, hc, Bool.false_and]
  rfl

theorem slotStage_slotted {verified miss : Bool} {sec : Option SecOut} (hrate : j.e.slotRate ≠ 0) : slotStage j verified false miss sec s =
    if slotOk j.e j.stamp j.fr.smpCnt then policyStage j false false miss sec (if verified then sampleFrom j s else s)
    else refuse j cSlotFailed 3 2 miss s := if_pos ⟨hrate, rfl⟩

/-- Under a condition the policies in force forward the frame marked, or drop it. -/
theorem policyStage_under {key time miss : Bool} {sec : Option SecOut} (hunder : key = true ∨ time = true) : policyStage j key time miss sec s =
    if (!key || j.e.failKey) && (!time || j.e.failTime) then
      forwardFrame j (!key) miss true (if key then rewriteLost j.e else rewriteOf j.e)
        (if (if key then rewriteLost j.e else rewriteOf j.e) = 0 then secReceived j.fr
          else if (if key then rewriteLost j.e else rewriteOf j.e) = 1 then none else sec)
        (bumpStream j.n j.old cFailForwarded (enterFail j key time ((!key || j.e.failKey) && (!time || j.e.failTime)) s))
    else jobDrop j (bumpStream j.n j.old cFailDropped (enterFail j key time ((!key || j.e.failKey) && (!time || j.e.failTime)) s)) :=
  if_pos (by simpa using hunder)

/-! ### TIMED_PUBLISH (R490, R491) -/

variable {q : Call} {entry port : Nat} {frame : Frame}

theorem publishRefused_iff {e : Entry} {len : Nat} {fr : Frame} : publishRefused e port len fr = false ↔
    (e.kind = 1 ∨ e.kind = 2 ∨ e.kind = 7) ∧ (e.profile = 0 ∨ entryGenerates e = true) ∧ e.ingress.testBit port = true ∧
      entryMatches e fr = true ∧ len ≤ e.maxLen := by
  simp only [publishRefused, Bool.or_eq_false_iff, Bool.not_eq_false', Bool.or_eq_true, beq_iff_eq, Bool.and_eq_false_iff, bne_eq_false_iff_eq,
    decide_eq_false_iff_not, Nat.not_lt]
  grind

theorem exec_timedPublish_again (hr : ready 0x0802 q 8 s = true) (hpub : (s.fe.frames.any fun x => x.pub.any fun p => p.1 == q) = true) :
    exec (.timedPublish q entry port frame) s = .next s := exec_running hr rfl (if_pos hpub)

theorem exec_timedPublish_unused (hr : ready 0x0802 q 8 s = true) (hpub : (s.fe.frames.any fun x => x.pub.any fun p => p.1 == q) = false)
    (hnone : s.entryAt entry false = none) : exec (.timedPublish q entry port frame) s = .next (complete q { code := 0x0101 } s) := by
  refine exec_done (comp := reject 0) hr rfl ((if_neg (by simp [hpub])).trans ?_)
  simp only [hnone]

theorem exec_timedPublish_used {f : Nat} {e : Entry} {fr : Frame} (hr : ready 0x0802 q 8 s = true)
    (hfr : fr = { frame with port, stamp := s.sck.now, len := q.hdr.inLen })
    (hpub : (s.fe.frames.any fun x => x.pub.any fun p => p.1 == q) = false) (he : s.entryAt entry false = some (f, e)) :
    exec (.timedPublish q entry port frame) s = .next
      (if f ≠ q.f ∨ q.hdr.inLen < 64 ∨ 9216 < q.hdr.inLen ∨ 11 < port ∨ publishRefused e port q.hdr.inLen fr = true
        then complete q { code := 0x0101 } s
        else processFrame { f, n := entry, e, old := false, port, stamp := s.sck.now, quality := s.quality, fr, pub := some (q, s.ctxIdFor q) } s) := by
  subst hfr
  split
  next hbad =>
    refine exec_done (comp := reject 0) hr rfl ((if_neg (by simp [hpub])).trans ?_)
    simp only [he]
    exact if_pos hbad
  next hgood =>
    refine exec_running hr rfl ((if_neg (by simp [hpub])).trans ?_)
    simp only [he]
    exact if_neg hgood

end

/-- Settles O41: a received frame by the branch of its port, MACsec, pair and admission that it takes, and a matched one stage by
stage. -/
theorem framesReceivedAndPublished : Obligations.FramesReceivedAndPublished := by
  unfold Obligations.FramesReceivedAndPublished
  refine ⟨?port, ?macsec, ?pair, ?admission, ?keyed, ?verified, ?outcomes, ?publish⟩
  case port =>
    intro fr c s u hrun hu
    rw [exec_frameReceived hrun, ← (show u = counted fr s from hu)]
    refine ⟨fun hoff => by rw [if_pos hoff], fun hon hup => ⟨fun hfcs => ?_, fun hfcs hlen => ?_, fun hfcs hlong hshort hfwd => ?_⟩⟩
    all_goals rw [if_neg (by simp [hon, hup])]
    · rw [if_pos hfcs]
    · rw [if_neg (by simp [hfcs]), if_pos (badLength_iff.mpr hlen)]
    · rw [if_neg (by simp [hfcs]), if_neg (by rw [badLength_iff]; omega), if_pos hfwd]
  case macsec =>
    intro fr a t u hon
    exact ⟨fun heapol => if_pos (.inl heapol), macsecReceive_down hon, fun heapol hconds =>
      ⟨macsecReceive_untagged hon heapol hconds, macsecReceive_tagged hon heapol hconds⟩⟩
  case pair =>
    intro fr i kind x lan d u w hpair hw
    refine ⟨fun hkind htag => ?_, fun hkind htag hown => ?_, fun hkind hprp hd hback hbit => ?_⟩
    · simp only [pairReceive, hpair, htag, if_pos hkind]
    · obtain ⟨y, hy⟩ := Option.ne_none_iff_exists'.mp htag
      simp only [pairReceive, hpair, hy, if_pos hkind, if_pos hown]
    · simp only [pairReceive, hpair, hprp, if_neg hkind, ← hw, acceptTagged_held hd hback hbit, Bool.false_eq_true, if_false]
  case admission =>
    intro fr c m r v s u ⟨hrun, hon, hup, hfcs, hlong, hshort⟩ ⟨hu, hfwd⟩ hmacsec ⟨hpair, hv⟩
    rw [exec_frameReceived hrun, ← (show u = counted fr s from hu), if_neg (by simp [hon, hup]), if_neg (by simp [hfcs]),
      if_neg (by rw [badLength_iff]; omega), if_neg (by simp [hfwd]), hmacsec, if_neg (by simp), hpair, if_pos rfl]
    by_cases hcores : fr.etherType = 0x888E ∨ fr.etherType = 0x88F7 ∧ v.ptpOn fr.port = true ∨ findMatch fr v.pln.parts = none
    · rw [if_pos hcores, admitFrame_cores hv hcores]
    · rw [if_neg hcores]
      cases hm : findMatch fr v.pln.parts with
      | none => exact absurd (.inr (.inr hm)) hcores
      | some x => rw [admitFrame_matched hv (by grind) hm]
  case keyed =>
    intro j k h lost g s ⟨hg, hlost⟩ hh
    refine ⟨fun hlen => ?_, fun hlen hp => ?_, fun hlen hp hk => ?_, fun hlen hp hk hcond => ?_, fun hlen hp hc hk hcond hgen => ?_⟩
    · rw [hg, processFrame_long hlen]
    · rw [hg, hlost, processFrame_open hlen hp]
    · rw [processFrame_keyed hlen hp hg hlost hh, hk, Option.elim_none]
    · rw [processFrame_keyed hlen hp hg hlost hh, hk, Option.elim_some, if_pos hcond]
    · rw [processFrame_keyed hlen hp hg hlost hh, hk, Option.elim_some, hcond, if_neg Bool.false_ne_true, if_pos hgen, generateStage_plain hc]
      rfl
  case verified =>
    intro j k h lost miss hit tag g u s ⟨hg, hlost, hlen, hp⟩ ⟨hh, hk⟩ ⟨hcond, hgen⟩ ⟨hhit, hmiss⟩ htag hu
    have hverify : processFrame j s = verifyStage j lost g := by
      rw [processFrame_keyed hlen hp hg hlost hh, hk, Option.elim_some, hcond, if_neg Bool.false_ne_true, hgen, if_neg Bool.false_ne_true]
    rw [hverify]
    refine ⟨verifyStage_malformed, fun hpresent hformed hid => ?_⟩
    have hcheck := verifyStage_chosen (lost := lost) ⟨hpresent, hformed⟩ rfl hh hk hid hhit hmiss
    rw [← (show tag = frameTag k j.e.profile _ _ _ from htag), ← (show u = countMiss j miss g from hu)] at hcheck
    rw [hcheck]
    refine ⟨fun hne => if_pos hne, fun heq hstale => ?_, fun heq hfresh hc => ?_⟩
    · rw [if_neg (Classical.not_not.mpr heq), freshStage_stale hstale]
    · rw [if_neg (Classical.not_not.mpr heq), freshStage_fresh hfresh hc]
  case outcomes =>
    intro j i cause bit verified miss key time sec s
    refine ⟨rfl, fun hrate hslot => ?_, fun hrate hslot => ?_, rfl, fun hunder => ⟨fun ⟨hkey, htime⟩ => ?_, fun hdrop => ?_⟩⟩
    · rw [slotStage_slotted hrate, hslot, if_neg Bool.false_ne_true]
    · rw [slotStage_slotted hrate, if_pos hslot]
    · have hfwd : ((!key || j.e.failKey) && (!time || j.e.failTime)) = true := by
        rw [Bool.and_eq_true, Bool.or_eq_true, Bool.or_eq_true, Bool.not_eq_true', Bool.not_eq_true']
        exact ⟨(Bool.eq_false_or_eq_true key).symm.imp_right hkey, (Bool.eq_false_or_eq_true time).symm.imp_right htime⟩
      rw [policyStage_under hunder, hfwd, if_pos rfl]
    · have hfwd : ((!key || j.e.failKey) && (!time || j.e.failTime)) = false := by
        rcases hdrop with ⟨hcond, hpolicy⟩ | ⟨hcond, hpolicy⟩ <;> simp [hcond, hpolicy]
      rw [policyStage_under hunder, hfwd, if_neg Bool.false_ne_true]
  case publish =>
    intro q entry port frame fr s hr hfr
    refine ⟨exec_timedPublish_again hr, fun hpub f e he => ?_, fun hpub hnone => exec_timedPublish_unused hr hpub hnone⟩
    rw [exec_timedPublish_used hr hfr hpub he]
    refine congrArg Host.Outcome.next ((ite_not ..).symm.trans (ite_congr (propext ?_) (fun _ => rfl) fun _ => rfl))
    rw [← publishRefused_iff]
    simp only [not_or, Classical.not_not, Nat.not_lt, Bool.not_eq_true, ne_eq]

end Sys2Proof.Machine
